-- ==== Sys2Proof/Word.lean ====
section
/-! DEFINITION. The machine's word types, the names of registers and places, and the plainest arithmetic on them
(00_scope R2, 01 R10, 08 R120, R148). -/
namespace Sys2Proof

/-- A 64-bit general register or memory word (R10). -/
abbrev Word := BitVec 64
/-- One byte of memory. -/
abbrev Byte := BitVec 8
/-- A general register g0 to g15 (R10). -/
abbrev Reg := Fin 16
/-- A vector register v0 to v7 (R168). -/
abbrev VReg := Fin 8
/-- A mask register m0 to m3 (R168). -/
abbrev MReg := Fin 4
/-- A stream register s0 to s3 (R270). -/
abbrev SReg := Fin 4
/-- A partition of the module, 0 to 15 (R120). -/
abbrev PartId := Fin 16
/-- A core number of R148: 0 to 255 compute cores, 256 to 271 bank cores. -/
abbrev CoreId := Fin 272
/-- A thread slot, 0 to 15 (R120). -/
abbrev SlotId := Fin 16
/-- A cluster of the partition, 0 to 31 (R120). -/
abbrev ClusterId := Fin 32
/-- An L2 slice of the partition, 0 to 15 (R197). -/
abbrev SliceId := Fin 16
/-- A ring of a cluster, 0 to 15 (R271). -/
abbrev RingId := Fin 16

/-- The word of a natural number, modulo 2^64. -/
def word (n : Nat) : Word := BitVec.ofNat 64 n

/-- `sext(v, n)` of R8: the low `n` bits of `v`, sign-extended to 64 bits. -/
def sextTo (n : Nat) (v : Nat) : Word := (BitVec.ofNat n v).signExtend 64

/-- The mask whose bits `n-1 … 0` are ones. -/
def lowMask (n : Nat) : Nat := 2 ^ n - 1

end Sys2Proof
end

