-- ==== Sys2Proof/Syntax.lean ====
section
/-! DEFINITION. The instructions: one constructor per row of spec/opcode_table.json. The first 173 are the encoded words of the
Zendom instruction set (03 R37 to R48); the others are the steps that the part's other agents take (95_what_each_step_holds),
with the data that says which unit takes the step. -/
namespace Sys2Proof

/-! ## Operand kinds of the encoded words -/

/-- A source register field with its synchronisation bit (`~`, R13, R37). -/
structure Src where
  reg : Reg
  sync : Bool
deriving DecidableEq, Repr

/-- Load type codes of R42. -/
inductive LdType where
  | s8 | s16 | s32 | s64 | z8 | z16 | z32
deriving DecidableEq, Repr

/-- Store type codes of R42. -/
inductive StType where
  | b8 | b16 | b32 | b64
deriving DecidableEq, Repr

/-- Integer condition codes of R43. -/
inductive Cc where
  | eq | ne | lt | ge | le | gt | ult | uge | ule | ugt
deriving DecidableEq, Repr

/-- The four conditions of B.cc (R43: codes 2 to 5). -/
inductive BrCc where
  | lt | ge | le | gt
deriving DecidableEq, Repr

/-- Floating-point condition codes of R43. -/
inductive FCc where
  | eq | ne | lt | ge | le | gt | un | ord
deriving DecidableEq, Repr

/-- Scopes of R43 and R235. -/
inductive Scope where
  | thr | core | clu | part | mod | sys
deriving DecidableEq, Repr

/-- Scalar float types (R43 codes 0 to 2). -/
inductive FType where
  | f32 | f16 | bf16
deriving DecidableEq, Repr

/-- Scalar float types of FCVT, the narrow format included (R43 code 3). -/
inductive CType where
  | f32 | f16 | bf16 | nf
deriving DecidableEq, Repr

/-- Integer types of FCVTI and FCVTF (R109). -/
inductive IType where
  | s32 | s64 | z32 | z64
deriving DecidableEq, Repr

/-- Rounding modes of FCVTI (R109). -/
inductive RMode where
  | rne | rz | rdn | rup
deriving DecidableEq, Repr

/-- Vector element types of R44. -/
inductive VType where
  | s8 | s16 | s32 | s64 | f32 | f16 | bf16 | nf
deriving DecidableEq, Repr

/-- The condition field of VCMP: an integer or a float condition, according to the type (R48, R183). -/
inductive VCc where
  | int (c : Cc)
  | flt (c : FCc)
deriving DecidableEq, Repr

/-- Reduction operations of VRED (R48). -/
inductive RedOp where
  | add | min | max | and | or | xor
deriving DecidableEq, Repr

/-- Operations of AMO and RED (R46, R164). -/
inductive AmoOp where
  | add | and | or | xor | min | max | minz | maxz | swap | cas
deriving DecidableEq, Repr

/-- Sizes of AMO and RED (R164). -/
inductive AmoSize where
  | w32 | w64
deriving DecidableEq, Repr

/-- Semirings of MXQ (R46, R80). -/
inductive Semiring where
  | plusTimes | minPlus | maxPlus | maxTimes | orAnd
deriving DecidableEq, Repr

/-- Pop codes of MXQ (R46). -/
inductive Pop where
  | both | a | b | none
deriving DecidableEq, Repr

/-- The system registers of R344, R369, R379, R382 and R406, by name. -/
inductive SysReg where
  | status | tid | core | clus | part | modid | ctx | corr | tstamp | epc | ecause | eaddr | rxq
  | accst (i : Fin 2) | cpyst | snapn | rbent
  | tbind | loglim | loght | logseq | logvio | strctl | sysh
  | engctl | accrcl
  | lwbase | dspctl | agei | migth
  | ptroot (i : Fin 4) | dombase | rtbase | ptclr | memctl | errinj
  | slim (i : Fin 16) | steepq | steepctl
  | ctxbase | tqbase | tqhead | tqtail | fatalovf | wake | gswt | wscur | wsnext | relctl
  | xport | collctl
  | snapctl | snapdom | caddy | caddyp | snapstg | snaprst
  | perfctl | lnkctl | lnkbase | vfsel | shcnt (i : Fin 4)
  | pcnt (i : Fin 4) | psel | trcctl | trcbase | trcptr | trctrg | trcpc | trctime
deriving DecidableEq, Repr

/-! ## Data carried by the steps of other agents -/

/-- Where a thread stands: its partition, core and slot. -/
structure TRef where
  part : PartId
  core : CoreId
  slot : SlotId
deriving DecidableEq, Repr

/-- A register delivery on RSP (R85, R159): the reply of a delegated run, or the notice that the run was killed. -/
structure Delivery where
  dst : TRef
  tid : Nat
  reg : Reg
  val : Word
  /-- the server run was killed before its EXIT (R159) -/
  failed : Bool
  /-- the data address of the DLG, for EADDR of the delegation-failed fault -/
  addr : Word
deriving DecidableEq, Repr

/-- An active message or delegation request (R158, R159). -/
structure ActiveMsg where
  /-- the module that the request comes from -/
  srcMod : BitVec 16
  src : TRef
  srcTid : Nat
  /-- `some d` for a DLG, whose reply goes to register d -/
  reply : Option Reg
  pc : Word
  y : Word
  g1 : Word
  g2 : Word
  g3 : Word
  corr : BitVec 32
  ctx : BitVec 8
deriving DecidableEq, Repr

/-- A message of SEND (R156). -/
structure SendMsg where
  src : TRef
  srcTid : Nat
  val : Word
deriving DecidableEq, Repr

/-- The five full/empty operations of R149. -/
inductive FeOp where
  | lds | ldsk | sts | stf | clre
deriving DecidableEq, Repr

/-- Who asked for a full/empty operation: a thread, a waiting launch record (R127), or a party that needs no reply. -/
inductive FeWho where
  | thread (r : TRef) (tid : Nat)
  | record (slot : Nat)
  | remote (modid : BitVec 16) (r : TRef) (tid : Nat)
  | engine
deriving DecidableEq, Repr

/-- A full/empty operation on its way to its word's home (R149). -/
structure FeReq where
  op : FeOp
  /-- the cell key of the word's lowest byte -/
  key : Nat
  val : Word
  who : FeWho
  /-- the CORR of the access (R360) -/
  corr : BitVec 32 := 0
deriving DecidableEq, Repr

/-- A bounded load on its way to its line's home (R225, R258). -/
structure BoundedReq where
  line : Nat
  /-- the line's cell key, and the region's format -/
  key : Nat
  fmt : Nat
  /-- byte offset of the element in its line -/
  off : Nat
  /-- the tolerance, an FP32 magnitude -/
  tol : BitVec 32
  who : TRef
  tid : Nat
deriving DecidableEq, Repr

/-- The accesses that may address the remote region (R370), and a copy's beats (R371). -/
inductive RemoteOp where
  | load (ty : LdType)
  | store (ty : StType) (v : Word)
  | amo (op : AmoOp) (sz : AmoSize) (v cmp : Word)
  | red (op : AmoOp) (sz : AmoSize) (v : Word)
  | fe (op : FeOp) (v : Word)
  /-- a copy's source beat: bytes read, and the sender's colour (R385) -/
  | beatRead (n : Nat) (colour : Bool)
  /-- a copy's destination beat: its bytes, the offsets from the first byte of the words whose bits it sets, and the sender's colour
  (R385) -/
  | beatWrite (bytes : List (BitVec 8)) (fills : List Nat) (colour : Bool)
deriving DecidableEq, Repr

/-- A request to another partition's exported span (R368). -/
structure RemoteReq where
  /-- the module that the request comes from -/
  srcMod : BitVec 16
  src : TRef
  srcTid : Nat
  modid : BitVec 16
  dst : PartId
  off : BitVec 32
  op : RemoteOp
  /-- the CORR of the thread or copy that asks, for the records of its target (R360) -/
  corr : BitVec 32
  /-- it has arrived, and waits at its target's home: it is no longer in its channel (R386) -/
  arrived : Bool := false
deriving DecidableEq, Repr

/-- A UET remote operation of the host at a port (R396). -/
inductive HostOp where
  | read (n : Nat)
  | write (bytes : List (BitVec 8))
  | atomic (op : AmoOp) (sz : AmoSize) (v cmp : Word)
deriving DecidableEq, Repr

/-- Where an uncorrectable error is found (R339). -/
inductive ErrSite where
  | generalReg (r : TRef)
  | vectorReg (r : TRef)
  | windowWord (key : Nat)
  | l1Data (p : PartId) (c : CoreId) (line : Nat)
  | l1Code (p : PartId) (c : CoreId) (line : Nat)
  | fetchBuffer (r : TRef) (line : Nat)
  | sliceLine (p : PartId) (line : Nat)
  | moduleSector (p : PartId) (pa : Nat)
  /-- a read of a memory-module sector that was corrected: counted for R213 -/
  | correctedSector (p : PartId) (pa : Nat)
  /-- an error of a single bit, corrected and counted, in another of the part's memories -/
  | corrected (p : PartId)
  | tablePage (p : PartId) (frame : Nat)
  | copySource (p : PartId) (c : CoreId)
  | matrixOperand (p : PartId) (k : ClusterId)
  | control (p : PartId)
deriving DecidableEq, Repr

/-- The channels on which snapshot markers travel (R385). -/
inductive Chan where
  | req | rsp | msg | blk | sys
deriving DecidableEq, Repr

/-- A snapshot marker (R385). -/
structure MarkerMsg where
  srcMod : BitVec 16
  src : PartId
  chan : Chan
  n : Nat
  coordMod : BitVec 16
  coordPart : PartId
  corr : BitVec 32
  blkCount : Nat
deriving DecidableEq, Repr

/-- A rank's contribution to a collective (R376). -/
structure CollMsg where
  /-- the rank's partition, and the colour of its BLK packets (R385) -/
  srcMod : BitVec 16
  src : PartId
  colour : Bool
  dst : PartId
  rank : Nat
  /-- the rank that it is sent to, which the sender's group entry names -/
  toRank : Nat
  /-- the sender has ended its collective with this rank missing: there is no block (R378) -/
  miss : Option Nat
  /-- given to the partition again, from the channel log of a snapshot that it is restored to (R393) -/
  again : Bool
  gsize : Nat
  root : Nat
  op : Nat
  ty : Nat
  red : Nat
  count : Nat
  tag : BitVec 32
  data : List (BitVec 8)
deriving DecidableEq, Repr

/-- A firmware image offered to the Idran controller (R399, R401): that of the controller itself (1) or of the compute dies (2), with its
signature. -/
structure Firmware where
  index : Nat
  image : List (BitVec 8)
  signature : List (BitVec 8)
deriving DecidableEq, Repr

/-! ## The instructions -/

/-- One constructor per row of spec/opcode_table.json. The rows stand in the table's order, but that the steps which no unit of the
part queues for itself come last. -/
inductive Instr where
  -- class C: control flow (R110, R113)
  | nop
  | b (off : BitVec 20)
  | call (off : BitVec 20)
  | bz (a : Src) (off : BitVec 15)
  | bnz (a : Src) (off : BitVec 15)
  | bcc (c : BrCc) (a : Src) (off : BitVec 15)
  | jmp (a : Src)
  | callr (a : Src)
  | blk (sig dig : BitVec 12)
  -- loads and stores (R115)
  | ldS8 (d : Reg) (a : Src) (off : BitVec 15)
  | ldS16 (d : Reg) (a : Src) (off : BitVec 15)
  | ldS32 (d : Reg) (a : Src) (off : BitVec 15)
  | ldS64 (d : Reg) (a : Src) (off : BitVec 15)
  | ldZ8 (d : Reg) (a : Src) (off : BitVec 15)
  | ldZ16 (d : Reg) (a : Src) (off : BitVec 15)
  | ldZ32 (d : Reg) (a : Src) (off : BitVec 15)
  | ldx (ty : LdType) (d : Reg) (a b : Src)
  | st8 (d : Reg) (a : Src) (off : BitVec 15)
  | st16 (d : Reg) (a : Src) (off : BitVec 15)
  | st32 (d : Reg) (a : Src) (off : BitVec 15)
  | st64 (d : Reg) (a : Src) (off : BitVec 15)
  | stx (ty : StType) (d : Reg) (a b : Src)
  -- full/empty words (R149)
  | lds (d : Reg) (a : Src) (off : BitVec 15)
  | ldsk (d : Reg) (a : Src) (off : BitVec 15)
  | sts (d : Reg) (a : Src) (off : BitVec 15)
  | stf (d : Reg) (a : Src) (off : BitVec 15)
  | clre (a : Src) (off : BitVec 15)
  -- threads, messages, reservations (R153 to R162)
  | spawn (d : Reg) (a b : Src)
  | exit
  | send (a b : Src)
  | recv (d : Reg)
  | amsg (a b : Src)
  | dlg (d : Reg) (a b : Src)
  | migr (a : Src)
  | lrw (d : Reg) (a : Src)
  | sch (a b : Src)
  | rls (a : Src)
  | bar (sc : Scope) (a : Src)
  | amo (op : AmoOp) (sz : AmoSize) (d : Reg) (a b : Src)
  | red (op : AmoOp) (sz : AmoSize) (a b : Src)
  -- order group, line group, steep (R247 to R258)
  | fence (sc : Scope)
  | pour (sc : Scope)
  | fbar
  | cwb (a : Src)
  | cinv (a : Src)
  | iinv (a : Src)
  | pref (a : Src)
  | plbi (a : Src)
  | addm (a b : Src)
  | ldb (d : Reg) (a b : Src)
  | ldbImm (d : Reg) (a : Src) (k : BitVec 8)
  -- vector memory (R175, R178)
  | vld (d : VReg) (a : Src) (off : BitVec 15)
  | vst (d : VReg) (a : Src) (off : BitVec 15)
  | vlds (ty : VType) (mask : Option MReg) (d : VReg) (a b : Src)
  | vgath (ty : VType) (mask : Option MReg) (d : VReg) (a : Src) (b : VReg)
  | vscat (ty : VType) (mask : Option MReg) (d : VReg) (a : Src) (b : VReg)
  | vsrd (ty : VType) (d : VReg) (a : SReg)
  -- copies, rings, matrix (R284)
  | cpy (bind : Option SReg) (d : Reg) (a b : Src)
  | cpy2 (bind : Option SReg) (d : Reg) (a b : Src)
  | cpyg (bind : Option SReg) (d : Reg) (a b : Src)
  | cpyw (a : Src)
  | cpyq (d : Reg) (a : Src)
  | srd (ty : LdType) (d : Reg) (a : SReg)
  | rngi (ring : RingId) (a : Src)
  | rnga (ring : RingId) (a : Src)
  | rngq (d : Reg) (ring : RingId)
  | mxq (slot : Fin 2) (sr : Semiring) (na nb az : Bool) (pop : Pop) (d : Reg) (ra rb : RingId)
  | mxw (a : Src)
  | mxp (d : Reg) (a : Src)
  | mxz (slot : Fin 2)
  | mxst (slot : Fin 2) (a : Src)
  | mxr (slot : Fin 2)
  -- system words (R343)
  | trap (n : BitVec 10)
  | eret
  | park (a : Src)
  | gsw (a : Src)
  | cont
  | logn
  | loga (a : Src)
  | mfs (d : Reg) (r : SysReg)
  | mts (r : SysReg) (a : Src)
  -- collectives and snapshots (R374, R375, R383, R384)
  | coll (d : Reg) (a : Src)
  | collw (d : Reg) (a : Src)
  | snap (d : Reg)
  | snapq (d : Reg) (a : Src)
  -- class A: the ALU group (R86)
  | add (d : Reg) (a b : Src)
  | sub (d : Reg) (a b : Src)
  | and (d : Reg) (a b : Src)
  | or (d : Reg) (a b : Src)
  | xor (d : Reg) (a b : Src)
  | andn (d : Reg) (a b : Src)
  | orn (d : Reg) (a b : Src)
  | shl (d : Reg) (a b : Src)
  | shr (d : Reg) (a b : Src)
  | sha (d : Reg) (a b : Src)
  | ror (d : Reg) (a b : Src)
  | min (d : Reg) (a b : Src)
  | max (d : Reg) (a b : Src)
  | minz (d : Reg) (a b : Src)
  | maxz (d : Reg) (a b : Src)
  -- the multiply group (R91, R92)
  | mul (d : Reg) (a b : Src)
  | mulh (d : Reg) (a b : Src)
  | mulhz (d : Reg) (a b : Src)
  | div (d : Reg) (a b : Src)
  | divz (d : Reg) (a b : Src)
  | rem (d : Reg) (a b : Src)
  | remz (d : Reg) (a b : Src)
  | clmul (d : Reg) (a b : Src)
  | clmulh (d : Reg) (a b : Src)
  -- the bit group and bit fields (R94, R95)
  | clz (d : Reg) (a : Src)
  | ctz (d : Reg) (a : Src)
  | popc (d : Reg) (a : Src)
  | brev (d : Reg) (a : Src)
  | bswap (d : Reg) (a : Src)
  | exts (d : Reg) (a : Src) (pos wm1 : BitVec 6)
  | extz (d : Reg) (a : Src) (pos wm1 : BitVec 6)
  | ins (d : Reg) (a : Src) (pos wm1 : BitVec 6)
  -- select, compare, immediates (R87 to R90, R96)
  | sel (d : Reg) (a b : Src) (c : Reg)
  | addx (d : Reg) (a b : Src) (sh : Fin 8)
  | cmp (cc : Cc) (d : Reg) (a b : Src)
  | cmpi (cc : Cc) (d : Reg) (a : Src) (imm : BitVec 11)
  | addi (d : Reg) (a : Src) (imm : BitVec 15)
  | andi (d : Reg) (a : Src) (imm : BitVec 15)
  | ori (d : Reg) (a : Src) (imm : BitVec 15)
  | xori (d : Reg) (a : Src) (imm : BitVec 15)
  | shli (d : Reg) (a : Src) (n : BitVec 6)
  | shri (d : Reg) (a : Src) (n : BitVec 6)
  | shai (d : Reg) (a : Src) (n : BitVec 6)
  | rori (d : Reg) (a : Src) (n : BitVec 6)
  | li (d : Reg) (imm : BitVec 20)
  | lih (d : Reg) (q : BitVec 2) (v : BitVec 16)
  -- scalar floating point (R104 to R109)
  | fadd (ty : FType) (d : Reg) (a b : Src)
  | fsub (ty : FType) (d : Reg) (a b : Src)
  | fmul (ty : FType) (d : Reg) (a b : Src)
  | fma (ty : FType) (d : Reg) (a b : Src)
  | fms (ty : FType) (d : Reg) (a b : Src)
  | fnma (ty : FType) (d : Reg) (a b : Src)
  | fdiv (ty : FType) (d : Reg) (a b : Src)
  | fsqrt (ty : FType) (d : Reg) (a : Src)
  | fmin (ty : FType) (d : Reg) (a b : Src)
  | fmax (ty : FType) (d : Reg) (a b : Src)
  | fsgn (ty : FType) (d : Reg) (a b : Src)
  | fclass (ty : FType) (d : Reg) (a : Src)
  | fcmp (ty : FType) (cc : FCc) (d : Reg) (a b : Src)
  | fcvt (dst src : CType) (d : Reg) (a : Src)
  | fcvti (src : FType) (it : IType) (rm : RMode) (d : Reg) (a : Src)
  | fcvtf (dst : FType) (it : IType) (d : Reg) (a : Src)
  -- vector arithmetic (R179 to R188)
  | vadd (ty : VType) (mask : Option MReg) (d a b : VReg)
  | vsub (ty : VType) (mask : Option MReg) (d a b : VReg)
  | vmul (ty : VType) (mask : Option MReg) (d a b : VReg)
  | vfma (ty : VType) (mask : Option MReg) (d a b : VReg)
  | vmin (ty : VType) (mask : Option MReg) (d a b : VReg)
  | vmax (ty : VType) (mask : Option MReg) (d a b : VReg)
  | vand (ty : VType) (mask : Option MReg) (d a b : VReg)
  | vor (ty : VType) (mask : Option MReg) (d a b : VReg)
  | vxor (ty : VType) (mask : Option MReg) (d a b : VReg)
  | vshl (ty : VType) (mask : Option MReg) (d a b : VReg)
  | vshr (ty : VType) (mask : Option MReg) (d a b : VReg)
  | vdot (ty : VType) (mask : Option MReg) (d a b : VReg)
  | vsel (ty : VType) (mask : MReg) (d a b : VReg)
  | vperm (ty : VType) (mask : Option MReg) (d a b : VReg)
  | vcmp (cc : VCc) (ty : VType) (mask : Option MReg) (d : MReg) (a b : VReg)
  | vred (op : RedOp) (ty : VType) (mask : Option MReg) (d : Reg) (a : VReg)
  | vexp2 (ty : VType) (mask : Option MReg) (d a : VReg)
  | vrcp (ty : VType) (mask : Option MReg) (d a : VReg)
  | vrsq (ty : VType) (mask : Option MReg) (d a : VReg)
  | vcvt (dst src : VType) (mask : Option MReg) (d a : VReg)
  | vbcast (ty : VType) (d : VReg) (a : Src)
  | vmovg (ty : VType) (d : Reg) (a : VReg) (lane : BitVec 6)
  | mand (d a b : MReg)
  | mor (d a b : MReg)
  | mnot (d a : MReg)
  | mpop (d : Reg) (a : MReg)
  -- steps of other agents: replies, dispatcher, migration, messages (R21, R85, R124 to R166)
  | memoryReply (r : TRef) (v : Option Word)
  | registerDelivery (m : Delivery)
  | launchRecord (p : PartId) (slot : BitVec 13)
  | packetExpansion (p : PartId)
  | packetDispatch (p : PartId) (k : ClusterId)
  | packetAging (p : PartId) (k : ClusterId) (q : Fin 4)
  | doneWrite (p : PartId) (rec : Nat)
  | migration (r : TRef)
  | migrationArrival (r : TRef)
  | activeMessageArrival (p : PartId) (c : CoreId) (m : ActiveMsg)
  | serverRunStart (p : PartId) (c : CoreId)
  | feHomeOperation (p : PartId) (q : FeReq)
  | feListServe (p : PartId) (key : Nat)
  | sendArrival (p : PartId) (c : CoreId) (m : SendMsg)
  | sendRetry (p : PartId) (c : CoreId) (m : SendMsg)
  | ringBufferDrain (p : PartId) (c : CoreId)
  | lrwRetry (p : PartId) (sl : SliceId)
  | remoteUpdate (p : PartId) (c : CoreId)
  -- steeping (R220 to R230)
  | addmPerform (p : PartId) (c : CoreId)
  | sreq (p : PartId) (h : CoreId) (line dom : Nat)
  | sgnt (p : PartId) (h : CoreId) (line dom : Nat) (share : BitVec 32)
  | pourMessage (p : PartId) (h : CoreId) (line dom : Nat) (data : BitVec 1024) (g : BitVec 32) (colour : Bool) (more : Bool)
  | pack (p : PartId) (h : CoreId) (line dom : Nat) (added : BitVec 32)
  | fpr (p : PartId) (h : CoreId) (line dom : Nat)
  | fpd (p : PartId) (h : CoreId) (line dom : Nat) (data : BitVec 1024) (g : BitVec 32) (colour : Bool)
  | srev (p : PartId) (h : CoreId) (line dom : Nat)
  | sret (p : PartId) (h : CoreId) (line dom : Nat) (data : BitVec 1024) (g : BitVec 32) (colour : Bool) (share : BitVec 32)
  | tadd (p : PartId) (h : CoreId) (line dom : Nat) (off : Nat) (a : Word)
  | tack (p : PartId) (h : CoreId) (line dom : Nat)
  | boundedLoad (p : PartId) (q : BoundedReq)
  | colourPour (p : PartId) (h : CoreId) (line : Nat)
  -- copy unit and matrix engine (R266 to R283, R300)
  | copyBeat (p : PartId) (k : ClusterId)
  | copyComplete (p : PartId) (c : CoreId)
  | matrixJobPick (p : PartId) (k : ClusterId)
  | matrixGroup (p : PartId) (k : ClusterId)
  | matrixJobComplete (p : PartId) (k : ClusterId)
  | mxstExecute (p : PartId) (k : ClusterId)
  -- trap queue, wake, gang switch, dumps (R313 to R323)
  | recordWriteDone (p : PartId) (index : Nat)
  | scrubComplete (r : TRef)
  | deliveryRetry (m : Delivery)
  | syshRun (p : PartId) (c : CoreId)
  | gangSwitch (p : PartId)
  | coreDrained (p : PartId) (c : CoreId)
  | worldExchange (p : PartId)
  | gangResume (p : PartId)
  | dumpComplete (p : PartId)
  -- tasters and reliability (R328 to R341)
  | lognWatchdog (r : TRef)
  | resetWipe (p : PartId)
  | resetComplete (p : PartId)
  -- fabric and collectives (R368 to R378)
  | remoteRequest (q : RemoteReq)
  | remoteErrorReply (r : TRef) (tid : Nat)
  | collContribution (p : PartId) (m : CollMsg)
  | collComplete (p : PartId) (id : BitVec 22)
  | collTimeout (p : PartId) (id : BitVec 22)
  -- snapshots (R386 to R393)
  | marker (p : PartId) (m : MarkerMsg)
  | capturePulse (p : PartId)
  | snapshotCut (p : PartId)
  | captureResume (p : PartId)
  | pageCopy (p : PartId) (page : Nat)
  | snapshotWriter (p : PartId)
  | snapshotNotice (p : PartId) (srcMod : BitVec 16) (src : PartId) (n : Nat) (ok : Bool)
  | restoreComplete (p : PartId)
  -- host, SPDM, TDISP (R396 to R404)
  | lifeCycleWipeComplete (p : PartId)
  | hostAccess (p : PartId) (t : BitVec 64) (op : HostOp)
  -- counters, trace, power, Idran controller (R407 to R430)
  | linkInterval (p : PartId)
  | syncRecord (p : PartId) (c : CoreId)
  -- steps that a register write, an access, a fault or the part's surroundings bring about, which no unit queues
  | forwardedRead (p : PartId) (c : CoreId) (line : Nat)
  | invalidation (p : PartId) (c : CoreId) (line : Nat)
  | l1Eviction (p : PartId) (c : CoreId) (line : Nat)
  | sliceEviction (p : PartId) (line : Nat)
  | getS (p : PartId) (c : CoreId) (line : Nat) (dom : Nat)
  | getM (p : PartId) (c : CoreId) (line : Nat) (dom : Nat) (sector : Fin 2)
  | walk (p : PartId) (va : Word)
  | ptclrWrite (p : PartId) (frame : BitVec 32)
  | l2Uncorrectable (p : PartId) (line : Nat) (corr : BitVec 32)
  | sectorPin (p : PartId) (line : Nat) (readable : Bool)
  | shellAckTimeout (p : PartId) (c : CoreId)
  | coreFailed (p : PartId) (c : CoreId)
  | steepDisable (p : PartId)
  | matrixPoison (p : PartId) (k : ClusterId)
  | accrclWrite (p : PartId) (k : ClusterId) (slots : BitVec 16)
  | tqheadWrite (p : PartId) (v : Word)
  | tqbaseWrite (p : PartId) (v : Word)
  | wakeResume (p : PartId) (tid : BitVec 20)
  | wakeKillThread (p : PartId) (tid : BitVec 20)
  | wakeKillContext (p : PartId) (ctx : BitVec 8)
  | wakeUnservable (p : PartId) (tid : BitVec 20)
  | tbindBind (p : PartId) (c : CoreId) (v : Word)
  | tbindUnbind (p : PartId) (c : CoreId) (v : Word)
  | logvioWrite (p : PartId) (c : CoreId) (v : Word)
  | uncorrectableError (e : ErrSite)
  | relctlPrst (p : PartId)
  | partitionReset (p : PartId)
  | destinationUnreachable (modid : BitVec 16) (part : PartId)
  | snaprstGo (p : PartId) (v : Word)
  | getVersion (sess : Nat)
  | getCapabilities (sess : Nat)
  | negotiateAlgorithms (sess : Nat)
  | getDigests (sess : Nat)
  | getCertificate (sess : Nat)
  | challenge (sess : Nat) (nonce : BitVec 256)
  | getMeasurements (sess : Nat) (p : PartId) (index : Nat)
  | keyExchange (sess : Nat)
  | finish (sess : Nat)
  | endSession (sess : Nat)
  | vendorDefinedRequest (sess : Nat) (p : PartId) (modid : BitVec 16) (part : PartId)
  | getTdispVersion (sess : Nat) (p : PartId)
  | getTdispCapabilities (sess : Nat) (p : PartId)
  | lockInterfaceRequest (sess : Nat) (p : PartId)
  | getDeviceInterfaceReport (sess : Nat) (p : PartId)
  | getDeviceInterfaceState (sess : Nat) (p : PartId)
  | startInterfaceRequest (sess : Nat) (p : PartId)
  | stopInterfaceRequest (sess : Nat) (p : PartId)
  | configChange (p : PartId) (fw : Option Firmware)
  | perfctlPreset (p : PartId) (v : Word)
  | clockThrottle (lower : Bool)
  | powerOnReset
  | partitionInService (p : PartId) (linksTrained : Bool)
  | scrubPass (p : PartId)
  | idranRegisterAccess (p : PartId) (c : CoreId) (r : SysReg) (v : Option Word)
  | corePowerGating (p : PartId) (c : CoreId) (gate : Bool)
  | pcntWrap (p : PartId) (c : CoreId) (n : Fin 4)
  | traceTimeCondition (p : PartId) (c : CoreId)
deriving DecidableEq, Repr

end Sys2Proof
end

