-- ==== Sys2Proof/WellFormed.lean ====
section
/-! DEFINITION. Which instructions are well-formed: the limits that 03 R43 to R53 and 10 R172 set on codes and fields, beyond
what the types of the fields already say. The steps of other agents are well-formed when their numbers lie in range. -/
namespace Sys2Proof

/-- The width in bits of a vector element type (R170); .nf has 8-bit containers. -/
def VType.width : VType → Nat
  | .s8 => 8 | .s16 => 16 | .s32 => 32 | .s64 => 64 | .f32 => 32 | .f16 => 16 | .bf16 => 16 | .nf => 8

/-- The number of lanes of a vector element type (R170). -/
def VType.lanes (ty : VType) : Nat := 512 / ty.width

/-- The integer element types `I` of R172. -/
def VType.isInt : VType → Bool
  | .s8 | .s16 | .s32 | .s64 => true
  | .f32 | .f16 | .bf16 | .nf => false

/-- The float element types `F` of R172. -/
def VType.isFloat : VType → Bool
  | .f32 | .f16 | .bf16 => true
  | .s8 | .s16 | .s32 | .s64 | .nf => false

/-- The types of VADD and the other forms that R172 gives `I, F`. -/
def VType.isIF (ty : VType) : Bool := ty.isInt || ty.isFloat

/-- The types of VDOT (R172). -/
def VType.isDot : VType → Bool
  | .s8 | .s16 | .f16 | .bf16 | .nf => true
  | .s32 | .s64 | .f32 => false

/-- The conversions of VCVT (R186): distinct codes, and never between .nf and an integer type. -/
def VType.converts (dst src : VType) : Bool :=
  dst != src && !(dst == .nf && src.isInt) && !(src == .nf && dst.isInt)

/-- The condition of a VCMP goes with its type (R172). -/
def VCc.fits : VCc → VType → Bool
  | .int _, ty => ty.isInt
  | .flt _, ty => ty.isFloat

/-- The types of a VRED (R172). -/
def RedOp.fits : RedOp → VType → Bool
  | .add, ty | .min, ty | .max, ty => ty.isIF
  | .and, ty | .or, ty | .xor, ty => ty.isInt

/-- The operations of RED: ops 8 and 9 are AMO's alone (R46). -/
def AmoOp.isRed : AmoOp → Bool
  | .swap | .cas => false
  | .add | .and | .or | .xor | .min | .max | .minz | .maxz => true

/-- A remote request carries a RED with an operation of RED (R370), and a beat has 1 to 64 bytes (R266, R371). -/
def RemoteOp.wf : RemoteOp → Bool
  | .red op _ _ => op.isRed
  | .beatRead n _ => decide (1 ≤ n) && decide (n ≤ 64)
  | .beatWrite bytes _ _ => decide (1 ≤ bytes.length) && decide (bytes.length ≤ 64)
  | .load _ | .store _ _ | .amo _ _ _ _ | .fe _ _ => true

/-- The instruction's fields are within the limits of the spec. -/
def Instr.wf : Instr → Bool
  | .red op _ _ _ => op.isRed
  | .exts _ _ pos wm1 | .extz _ _ pos wm1 | .ins _ _ pos wm1 => decide (pos.toNat + wm1.toNat + 1 ≤ 64)
  | .fcvt dst src _ _ => dst != src
  | .vlds ty _ _ _ _ | .vgath ty _ _ _ _ | .vscat ty _ _ _ _ | .vsrd ty _ _ => ty.isIF
  | .vadd ty _ _ _ _ | .vsub ty _ _ _ _ | .vmul ty _ _ _ _ | .vfma ty _ _ _ _ | .vmin ty _ _ _ _ | .vmax ty _ _ _ _ => ty.isIF
  | .vand ty _ _ _ _ | .vor ty _ _ _ _ | .vxor ty _ _ _ _ | .vshl ty _ _ _ _ | .vshr ty _ _ _ _ => ty.isInt
  | .vdot ty _ _ _ _ => ty.isDot
  | .vsel ty _ _ _ _ | .vperm ty _ _ _ _ | .vbcast ty _ _ => ty.isIF
  | .vcmp cc ty _ _ _ _ => cc.fits ty
  | .vred op ty _ _ _ => op.fits ty
  | .vexp2 ty _ _ _ | .vrcp ty _ _ _ | .vrsq ty _ _ _ => ty.isFloat
  | .vcvt dst src _ _ _ => VType.converts dst src
  | .vmovg ty _ _ lane => ty.isIF && decide (lane.toNat < ty.lanes)
  | .remoteRequest q => q.op.wf
  | .pcntWrap _ _ _ => true
  | .nop | .b _ | .call _ | .bz _ _ | .bnz _ _ | .bcc _ _ _ | .jmp _ | .callr _ | .blk _ _ => true
  | .ldS8 _ _ _ | .ldS16 _ _ _ | .ldS32 _ _ _ | .ldS64 _ _ _ | .ldZ8 _ _ _ | .ldZ16 _ _ _ | .ldZ32 _ _ _ | .ldx _ _ _ _ => true
  | .st8 _ _ _ | .st16 _ _ _ | .st32 _ _ _ | .st64 _ _ _ | .stx _ _ _ _ => true
  | .lds _ _ _ | .ldsk _ _ _ | .sts _ _ _ | .stf _ _ _ | .clre _ _ => true
  | .spawn _ _ _ | .exit | .send _ _ | .recv _ | .amsg _ _ | .dlg _ _ _ | .migr _ | .lrw _ _ | .sch _ _ | .rls _ => true
  | .bar _ _ | .amo _ _ _ _ _ | .fence _ | .pour _ | .fbar | .cwb _ | .cinv _ | .iinv _ | .pref _ | .plbi _ | .addm _ _ => true
  | .ldb _ _ _ | .ldbImm _ _ _ | .vld _ _ _ | .vst _ _ _ => true
  | .cpy _ _ _ _ | .cpy2 _ _ _ _ | .cpyg _ _ _ _ | .cpyw _ | .cpyq _ _ | .srd _ _ _ | .rngi _ _ | .rnga _ _ | .rngq _ _ => true
  | .mxq _ _ _ _ _ _ _ _ _ | .mxw _ | .mxp _ _ | .mxz _ | .mxst _ _ | .mxr _ => true
  | .trap _ | .eret | .park _ | .gsw _ | .cont | .logn | .loga _ | .mfs _ _ | .mts _ _ | .coll _ _ | .collw _ _ | .snap _ | .snapq _ _ => true
  | .add _ _ _ | .sub _ _ _ | .and _ _ _ | .or _ _ _ | .xor _ _ _ | .andn _ _ _ | .orn _ _ _ | .shl _ _ _ | .shr _ _ _ | .sha _ _ _ => true
  | .ror _ _ _ | .min _ _ _ | .max _ _ _ | .minz _ _ _ | .maxz _ _ _ => true
  | .mul _ _ _ | .mulh _ _ _ | .mulhz _ _ _ | .div _ _ _ | .divz _ _ _ | .rem _ _ _ | .remz _ _ _ | .clmul _ _ _ | .clmulh _ _ _ => true
  | .clz _ _ | .ctz _ _ | .popc _ _ | .brev _ _ | .bswap _ _ | .sel _ _ _ _ | .addx _ _ _ _ | .cmp _ _ _ _ | .cmpi _ _ _ _ => true
  | .addi _ _ _ | .andi _ _ _ | .ori _ _ _ | .xori _ _ _ | .shli _ _ _ | .shri _ _ _ | .shai _ _ _ | .rori _ _ _ | .li _ _ | .lih _ _ _ => true
  | .fadd _ _ _ _ | .fsub _ _ _ _ | .fmul _ _ _ _ | .fma _ _ _ _ | .fms _ _ _ _ | .fnma _ _ _ _ | .fdiv _ _ _ _ | .fsqrt _ _ _ => true
  | .fmin _ _ _ _ | .fmax _ _ _ _ | .fsgn _ _ _ _ | .fclass _ _ _ | .fcmp _ _ _ _ _ | .fcvti _ _ _ _ _ | .fcvtf _ _ _ _ => true
  | .mand _ _ _ | .mor _ _ _ | .mnot _ _ | .mpop _ _ => true
  -- the steps of other agents: the lines and words they name are aligned offsets of R202's address space
  | .memoryReply _ _ | .registerDelivery _ | .launchRecord _ _ | .packetExpansion _ | .packetDispatch _ _ | .packetAging _ _ _ => true
  | .doneWrite _ _ | .migration _ | .migrationArrival _ | .activeMessageArrival _ _ _ | .serverRunStart _ _ | .feHomeOperation _ _ => true
  | .feListServe _ _ | .sendArrival _ _ _ | .sendRetry _ _ _ | .ringBufferDrain _ _ | .lrwRetry _ _ | .remoteUpdate _ _ => true
  | .forwardedRead _ _ _ | .invalidation _ _ _ | .l1Eviction _ _ _ | .sliceEviction _ _ | .getS _ _ _ _ | .getM _ _ _ _ _ => true
  | .walk _ _ | .ptclrWrite _ _ | .l2Uncorrectable _ _ _ | .sectorPin _ _ _ | .shellAckTimeout _ _ | .coreFailed _ _ | .addmPerform _ _ => true
  | .sreq _ _ _ _ | .sgnt _ _ _ _ _ | .pourMessage _ _ _ _ _ _ _ _ | .pack _ _ _ _ _ | .fpr _ _ _ _ | .fpd _ _ _ _ _ _ _ | .srev _ _ _ _ => true
  | .sret _ _ _ _ _ _ _ _ | .tack _ _ _ _ | .boundedLoad _ _ | .steepDisable _ | .colourPour _ _ _ | .copyBeat _ _ | .copyComplete _ _ => true
  | .tadd _ _ _ _ off _ => decide (off < 128)
  | .matrixJobPick _ _ | .matrixGroup _ _ | .matrixJobComplete _ _ | .matrixPoison _ _ | .mxstExecute _ _ | .accrclWrite _ _ _ => true
  | .recordWriteDone _ _ | .tqheadWrite _ _ | .tqbaseWrite _ _ | .wakeResume _ _ | .wakeKillThread _ _ | .wakeKillContext _ _ => true
  | .wakeUnservable _ _ | .scrubComplete _ | .deliveryRetry _ | .syshRun _ _ | .gangSwitch _ | .coreDrained _ _ | .worldExchange _ => true
  | .gangResume _ | .dumpComplete _ | .tbindBind _ _ _ | .tbindUnbind _ _ _ | .lognWatchdog _ | .logvioWrite _ _ _ | .uncorrectableError _ => true
  | .relctlPrst _ | .partitionReset _ | .resetWipe _ | .resetComplete _ | .remoteErrorReply _ _ | .destinationUnreachable _ _ => true
  | .collContribution _ _ | .collComplete _ _ | .collTimeout _ _ | .marker _ _ | .capturePulse _ | .snapshotCut _ | .captureResume _ => true
  | .pageCopy _ _ | .snapshotWriter _ | .snapshotNotice _ _ _ _ _ | .snaprstGo _ _ | .restoreComplete _ | .hostAccess _ _ _ => true
  | .getVersion _ | .getCapabilities _ | .negotiateAlgorithms _ | .getDigests _ | .getCertificate _ | .challenge _ _ | .getMeasurements _ _ _ => true
  | .keyExchange _ | .finish _ | .endSession _ | .vendorDefinedRequest _ _ _ _ | .getTdispVersion _ _ | .getTdispCapabilities _ _ => true
  | .lockInterfaceRequest _ _ | .getDeviceInterfaceReport _ _ | .getDeviceInterfaceState _ _ | .startInterfaceRequest _ _ => true
  | .stopInterfaceRequest _ _ | .lifeCycleWipeComplete _ | .configChange _ _ | .linkInterval _ | .perfctlPreset _ _ | .clockThrottle _ => true
  | .powerOnReset | .partitionInService _ _ | .scrubPass _ | .idranRegisterAccess _ _ _ _ | .corePowerGating _ _ _ => true
  | .traceTimeCondition _ _ | .syncRecord _ _ => true

/-- The instruction is one of the 173 that have a word; the others are steps of other agents. -/
def Instr.encoded : Instr → Bool
  | .nop | .b _ | .call _ | .bz _ _ | .bnz _ _ | .bcc _ _ _ | .jmp _ | .callr _ | .blk _ _ => true
  | .ldS8 _ _ _ | .ldS16 _ _ _ | .ldS32 _ _ _ | .ldS64 _ _ _ | .ldZ8 _ _ _ | .ldZ16 _ _ _ | .ldZ32 _ _ _ | .ldx _ _ _ _ => true
  | .st8 _ _ _ | .st16 _ _ _ | .st32 _ _ _ | .st64 _ _ _ | .stx _ _ _ _ => true
  | .lds _ _ _ | .ldsk _ _ _ | .sts _ _ _ | .stf _ _ _ | .clre _ _ => true
  | .spawn _ _ _ | .exit | .send _ _ | .recv _ | .amsg _ _ | .dlg _ _ _ | .migr _ | .lrw _ _ | .sch _ _ | .rls _ => true
  | .bar _ _ | .amo _ _ _ _ _ | .red _ _ _ _ | .fence _ | .pour _ | .fbar | .cwb _ | .cinv _ | .iinv _ | .pref _ | .plbi _ | .addm _ _ => true
  | .ldb _ _ _ | .ldbImm _ _ _ | .vld _ _ _ | .vst _ _ _ | .vlds _ _ _ _ _ | .vgath _ _ _ _ _ | .vscat _ _ _ _ _ | .vsrd _ _ _ => true
  | .cpy _ _ _ _ | .cpy2 _ _ _ _ | .cpyg _ _ _ _ | .cpyw _ | .cpyq _ _ | .srd _ _ _ | .rngi _ _ | .rnga _ _ | .rngq _ _ => true
  | .mxq _ _ _ _ _ _ _ _ _ | .mxw _ | .mxp _ _ | .mxz _ | .mxst _ _ | .mxr _ => true
  | .trap _ | .eret | .park _ | .gsw _ | .cont | .logn | .loga _ | .mfs _ _ | .mts _ _ | .coll _ _ | .collw _ _ | .snap _ | .snapq _ _ => true
  | .add _ _ _ | .sub _ _ _ | .and _ _ _ | .or _ _ _ | .xor _ _ _ | .andn _ _ _ | .orn _ _ _ | .shl _ _ _ | .shr _ _ _ | .sha _ _ _ => true
  | .ror _ _ _ | .min _ _ _ | .max _ _ _ | .minz _ _ _ | .maxz _ _ _ => true
  | .mul _ _ _ | .mulh _ _ _ | .mulhz _ _ _ | .div _ _ _ | .divz _ _ _ | .rem _ _ _ | .remz _ _ _ | .clmul _ _ _ | .clmulh _ _ _ => true
  | .clz _ _ | .ctz _ _ | .popc _ _ | .brev _ _ | .bswap _ _ | .exts _ _ _ _ | .extz _ _ _ _ | .ins _ _ _ _ => true
  | .sel _ _ _ _ | .addx _ _ _ _ | .cmp _ _ _ _ | .cmpi _ _ _ _ => true
  | .addi _ _ _ | .andi _ _ _ | .ori _ _ _ | .xori _ _ _ | .shli _ _ _ | .shri _ _ _ | .shai _ _ _ | .rori _ _ _ | .li _ _ | .lih _ _ _ => true
  | .fadd _ _ _ _ | .fsub _ _ _ _ | .fmul _ _ _ _ | .fma _ _ _ _ | .fms _ _ _ _ | .fnma _ _ _ _ | .fdiv _ _ _ _ | .fsqrt _ _ _ => true
  | .fmin _ _ _ _ | .fmax _ _ _ _ | .fsgn _ _ _ _ | .fclass _ _ _ | .fcmp _ _ _ _ _ | .fcvt _ _ _ _ | .fcvti _ _ _ _ _ | .fcvtf _ _ _ _ => true
  | .vadd _ _ _ _ _ | .vsub _ _ _ _ _ | .vmul _ _ _ _ _ | .vfma _ _ _ _ _ | .vmin _ _ _ _ _ | .vmax _ _ _ _ _ => true
  | .vand _ _ _ _ _ | .vor _ _ _ _ _ | .vxor _ _ _ _ _ | .vshl _ _ _ _ _ | .vshr _ _ _ _ _ | .vdot _ _ _ _ _ => true
  | .vsel _ _ _ _ _ | .vperm _ _ _ _ _ | .vcmp _ _ _ _ _ _ | .vred _ _ _ _ _ | .vexp2 _ _ _ _ | .vrcp _ _ _ _ | .vrsq _ _ _ _ => true
  | .vcvt _ _ _ _ _ | .vbcast _ _ _ | .vmovg _ _ _ _ | .mand _ _ _ | .mor _ _ _ | .mnot _ _ | .mpop _ _ => true
  | .memoryReply _ _ | .registerDelivery _ | .launchRecord _ _ | .packetExpansion _ | .packetDispatch _ _ | .packetAging _ _ _ => false
  | .doneWrite _ _ | .migration _ | .migrationArrival _ | .activeMessageArrival _ _ _ | .serverRunStart _ _ | .feHomeOperation _ _ => false
  | .feListServe _ _ | .sendArrival _ _ _ | .sendRetry _ _ _ | .ringBufferDrain _ _ | .lrwRetry _ _ | .remoteUpdate _ _ => false
  | .forwardedRead _ _ _ | .invalidation _ _ _ | .l1Eviction _ _ _ | .sliceEviction _ _ | .getS _ _ _ _ | .getM _ _ _ _ _ => false
  | .walk _ _ | .ptclrWrite _ _ | .l2Uncorrectable _ _ _ | .sectorPin _ _ _ | .shellAckTimeout _ _ | .coreFailed _ _ | .addmPerform _ _ => false
  | .sreq _ _ _ _ | .sgnt _ _ _ _ _ | .pourMessage _ _ _ _ _ _ _ _ | .pack _ _ _ _ _ | .fpr _ _ _ _ | .fpd _ _ _ _ _ _ _ | .srev _ _ _ _ => false
  | .sret _ _ _ _ _ _ _ _ | .tadd _ _ _ _ _ _ | .tack _ _ _ _ | .boundedLoad _ _ | .steepDisable _ | .colourPour _ _ _ | .copyBeat _ _ => false
  | .copyComplete _ _ | .matrixJobPick _ _ | .matrixGroup _ _ | .matrixJobComplete _ _ | .matrixPoison _ _ | .mxstExecute _ _ => false
  | .accrclWrite _ _ _ | .recordWriteDone _ _ | .tqheadWrite _ _ | .tqbaseWrite _ _ | .wakeResume _ _ | .wakeKillThread _ _ => false
  | .wakeKillContext _ _ | .wakeUnservable _ _ | .scrubComplete _ | .deliveryRetry _ | .syshRun _ _ | .gangSwitch _ | .coreDrained _ _ => false
  | .worldExchange _ | .gangResume _ | .dumpComplete _ | .tbindBind _ _ _ | .tbindUnbind _ _ _ | .lognWatchdog _ | .logvioWrite _ _ _ => false
  | .uncorrectableError _ | .relctlPrst _ | .partitionReset _ | .resetWipe _ | .resetComplete _ | .remoteRequest _ => false
  | .remoteErrorReply _ _ | .destinationUnreachable _ _ | .collContribution _ _ | .collComplete _ _ | .collTimeout _ _ | .marker _ _ => false
  | .capturePulse _ | .snapshotCut _ | .captureResume _ | .pageCopy _ _ | .snapshotWriter _ | .snapshotNotice _ _ _ _ _ | .snaprstGo _ _ => false
  | .restoreComplete _ | .hostAccess _ _ _ | .getVersion _ | .getCapabilities _ | .negotiateAlgorithms _ | .getDigests _ => false
  | .getCertificate _ | .challenge _ _ | .getMeasurements _ _ _ | .keyExchange _ | .finish _ | .endSession _ => false
  | .vendorDefinedRequest _ _ _ _ | .getTdispVersion _ _ | .getTdispCapabilities _ _ | .lockInterfaceRequest _ _ => false
  | .getDeviceInterfaceReport _ _ | .getDeviceInterfaceState _ _ | .startInterfaceRequest _ _ | .stopInterfaceRequest _ _ => false
  | .lifeCycleWipeComplete _ | .configChange _ _ | .linkInterval _ | .perfctlPreset _ _ | .clockThrottle _ | .powerOnReset => false
  | .partitionInService _ _ | .scrubPass _ | .idranRegisterAccess _ _ _ _ | .corePowerGating _ _ _ | .pcntWrap _ _ _ => false
  | .traceTimeCondition _ _ | .syncRecord _ _ => false

end Sys2Proof
end

