-- ==== Sys2Proof/Decode.lean ====
section
/-! DEFINITION. From words to instructions and back: the formats and maps of 03 R37 to R48 and R51, the register numbers of
22 R344, 25 R369, R379, 26 R382 and 28 R406. Bit L only frames the bundle (R49): decoding reads bits 30:0. -/
namespace Sys2Proof

/-- Why a word is not an instruction, by the rows of R53. -/
inductive Reject where
  /-- row 4: a major that R45 or R47 leaves unassigned -/
  | unassignedMajor
  /-- row 5: a minor, a modifier code, a vector type or a register number that is not assigned -/
  | unassignedCode
  /-- row 6: a nonzero reserved field -/
  | reservedField
  /-- row 7: a bit field past bit 63, a lane out of range, VSEL without a mask -/
  | outOfRange
  /-- a row of the table that is no word: fewer bits than a word -/
  | notAWord
deriving DecidableEq, Repr

/-! ## Codes -/

def LdType.code : LdType → Nat
  | .s8 => 0 | .s16 => 1 | .s32 => 2 | .s64 => 3 | .z8 => 4 | .z16 => 5 | .z32 => 6

/-- R42, load column. -/
def ldTypeOf : Nat → Option LdType
  | 0 => some .s8 | 1 => some .s16 | 2 => some .s32 | 3 => some .s64 | 4 => some .z8 | 5 => some .z16 | 6 => some .z32
  | _ => none

def StType.code : StType → Nat
  | .b8 => 0 | .b16 => 1 | .b32 => 2 | .b64 => 3

/-- R42, store column. -/
def stTypeOf : Nat → Option StType
  | 0 => some .b8 | 1 => some .b16 | 2 => some .b32 | 3 => some .b64 | _ => none

def Cc.code : Cc → Nat
  | .eq => 0 | .ne => 1 | .lt => 2 | .ge => 3 | .le => 4 | .gt => 5 | .ult => 6 | .uge => 7 | .ule => 8 | .ugt => 9

/-- R43, integer conditions. -/
def ccOf : Nat → Option Cc
  | 0 => some .eq | 1 => some .ne | 2 => some .lt | 3 => some .ge | 4 => some .le | 5 => some .gt | 6 => some .ult
  | 7 => some .uge | 8 => some .ule | 9 => some .ugt | _ => none

def BrCc.code : BrCc → Nat
  | .lt => 2 | .ge => 3 | .le => 4 | .gt => 5

/-- R43: Bcc accepts codes 2 to 5 only. -/
def brCcOf : Nat → Option BrCc
  | 2 => some .lt | 3 => some .ge | 4 => some .le | 5 => some .gt | _ => none

def FCc.code : FCc → Nat
  | .eq => 0 | .ne => 1 | .lt => 2 | .ge => 3 | .le => 4 | .gt => 5 | .un => 6 | .ord => 7

/-- R43, float conditions. -/
def fccOf : Nat → Option FCc
  | 0 => some .eq | 1 => some .ne | 2 => some .lt | 3 => some .ge | 4 => some .le | 5 => some .gt | 6 => some .un
  | 7 => some .ord | _ => none

def Scope.code : Scope → Nat
  | .thr => 0 | .core => 1 | .clu => 2 | .part => 3 | .mod => 4 | .sys => 5

/-- R43, scopes. -/
def scopeOf : Nat → Option Scope
  | 0 => some .thr | 1 => some .core | 2 => some .clu | 3 => some .part | 4 => some .mod | 5 => some .sys | _ => none

def FType.code : FType → Nat
  | .f32 => 0 | .f16 => 1 | .bf16 => 2

/-- R43, scalar float types. -/
def fTypeOf : Nat → Option FType
  | 0 => some .f32 | 1 => some .f16 | 2 => some .bf16 | _ => none

def CType.code : CType → Nat
  | .f32 => 0 | .f16 => 1 | .bf16 => 2 | .nf => 3

/-- R43, scalar float types of FCVT. -/
def cTypeOf : Nat → Option CType
  | 0 => some .f32 | 1 => some .f16 | 2 => some .bf16 | 3 => some .nf | _ => none

def IType.code : IType → Nat
  | .s32 => 0 | .s64 => 1 | .z32 => 2 | .z64 => 3

/-- R48, integer types of FCVTI and FCVTF. -/
def iTypeOf : Nat → Option IType
  | 0 => some .s32 | 1 => some .s64 | 2 => some .z32 | 3 => some .z64 | _ => none

def RMode.code : RMode → Nat
  | .rne => 0 | .rz => 1 | .rdn => 2 | .rup => 3

/-- R48, roundings of FCVTI. -/
def rModeOf : Nat → Option RMode
  | 0 => some .rne | 1 => some .rz | 2 => some .rdn | 3 => some .rup | _ => none

def VType.code : VType → Nat
  | .s8 => 0 | .s16 => 1 | .s32 => 2 | .s64 => 3 | .f32 => 4 | .f16 => 5 | .bf16 => 6 | .nf => 7

/-- R44, vector element types. -/
def vTypeOf : Nat → Option VType
  | 0 => some .s8 | 1 => some .s16 | 2 => some .s32 | 3 => some .s64 | 4 => some .f32 | 5 => some .f16 | 6 => some .bf16
  | 7 => some .nf | _ => none

def RedOp.code : RedOp → Nat
  | .add => 0 | .min => 1 | .max => 2 | .and => 3 | .or => 4 | .xor => 5

/-- R48, VRED. -/
def redOpOf : Nat → Option RedOp
  | 0 => some .add | 1 => some .min | 2 => some .max | 3 => some .and | 4 => some .or | 5 => some .xor | _ => none

def AmoOp.code : AmoOp → Nat
  | .add => 0 | .and => 1 | .or => 2 | .xor => 3 | .min => 4 | .max => 5 | .minz => 6 | .maxz => 7 | .swap => 8 | .cas => 9

/-- R46, AMO and RED. -/
def amoOpOf : Nat → Option AmoOp
  | 0 => some .add | 1 => some .and | 2 => some .or | 3 => some .xor | 4 => some .min | 5 => some .max | 6 => some .minz
  | 7 => some .maxz | 8 => some .swap | 9 => some .cas | _ => none

def AmoSize.code : AmoSize → Nat
  | .w32 => 2 | .w64 => 3

/-- R46: sizes 0 and 1 are illegal. -/
def amoSizeOf : Nat → Option AmoSize
  | 2 => some .w32 | 3 => some .w64 | _ => none

def Semiring.code : Semiring → Nat
  | .plusTimes => 0 | .minPlus => 1 | .maxPlus => 2 | .maxTimes => 3 | .orAnd => 4

/-- R46, MXQ. -/
def semiringOf : Nat → Option Semiring
  | 0 => some .plusTimes | 1 => some .minPlus | 2 => some .maxPlus | 3 => some .maxTimes | 4 => some .orAnd | _ => none

def Pop.code : Pop → Nat
  | .both => 0 | .a => 1 | .b => 2 | .none => 3

/-- R46, MXQ. -/
def popOf : Nat → Option Pop
  | 0 => some .both | 1 => some .a | 2 => some .b | 3 => some .none | _ => none

/-- The number of a system register (R344, R369, R379, R382, R406). -/
def SysReg.num : SysReg → Nat
  | .status => 0x000 | .tid => 0x001 | .core => 0x002 | .clus => 0x003 | .part => 0x004 | .modid => 0x005 | .ctx => 0x006
  | .corr => 0x007 | .tstamp => 0x008 | .epc => 0x009 | .ecause => 0x00A | .eaddr => 0x00B | .rxq => 0x00C
  | .accst i => 0x00D + i.val | .cpyst => 0x00F | .snapn => 0x010 | .rbent => 0x011
  | .tbind => 0x040 | .loglim => 0x041 | .loght => 0x042 | .logseq => 0x043 | .logvio => 0x044 | .strctl => 0x045 | .sysh => 0x046
  | .engctl => 0x060 | .accrcl => 0x061
  | .lwbase => 0x080 | .dspctl => 0x081 | .agei => 0x082 | .migth => 0x083
  | .ptroot i => 0x088 + i.val | .dombase => 0x08C | .rtbase => 0x08D | .ptclr => 0x08E | .memctl => 0x08F | .errinj => 0x090
  | .slim i => 0x0A0 + i.val | .steepq => 0x0B0 | .steepctl => 0x0B1
  | .ctxbase => 0x0C0 | .tqbase => 0x0C1 | .tqhead => 0x0C2 | .tqtail => 0x0C3 | .fatalovf => 0x0C4 | .wake => 0x0C5
  | .gswt => 0x0C6 | .wscur => 0x0C7 | .wsnext => 0x0C8 | .relctl => 0x0C9
  | .xport => 0x200 | .collctl => 0x201
  | .snapctl => 0x210 | .snapdom => 0x211 | .caddy => 0x212 | .caddyp => 0x213 | .snapstg => 0x214 | .snaprst => 0x215
  | .perfctl => 0x300 | .lnkctl => 0x301 | .lnkbase => 0x302 | .vfsel => 0x303 | .shcnt i => 0x304 + i.val
  | .pcnt i => 0x310 + i.val | .psel => 0x314 | .trcctl => 0x320 | .trcbase => 0x321 | .trcptr => 0x322 | .trctrg => 0x323
  | .trcpc => 0x324 | .trctime => 0x325

/-- The system register of a number, or none where it is unassigned. -/
def sysRegOf : Nat → Option SysReg
  | 0x000 => some .status | 0x001 => some .tid | 0x002 => some .core | 0x003 => some .clus | 0x004 => some .part
  | 0x005 => some .modid | 0x006 => some .ctx | 0x007 => some .corr | 0x008 => some .tstamp | 0x009 => some .epc
  | 0x00A => some .ecause | 0x00B => some .eaddr | 0x00C => some .rxq | 0x00D => some (.accst 0) | 0x00E => some (.accst 1)
  | 0x00F => some .cpyst | 0x010 => some .snapn | 0x011 => some .rbent
  | 0x040 => some .tbind | 0x041 => some .loglim | 0x042 => some .loght | 0x043 => some .logseq | 0x044 => some .logvio
  | 0x045 => some .strctl | 0x046 => some .sysh
  | 0x060 => some .engctl | 0x061 => some .accrcl
  | 0x080 => some .lwbase | 0x081 => some .dspctl | 0x082 => some .agei | 0x083 => some .migth
  | 0x088 => some (.ptroot 0) | 0x089 => some (.ptroot 1) | 0x08A => some (.ptroot 2) | 0x08B => some (.ptroot 3)
  | 0x08C => some .dombase | 0x08D => some .rtbase | 0x08E => some .ptclr | 0x08F => some .memctl | 0x090 => some .errinj
  | 0x0A0 => some (.slim 0) | 0x0A1 => some (.slim 1) | 0x0A2 => some (.slim 2) | 0x0A3 => some (.slim 3)
  | 0x0A4 => some (.slim 4) | 0x0A5 => some (.slim 5) | 0x0A6 => some (.slim 6) | 0x0A7 => some (.slim 7)
  | 0x0A8 => some (.slim 8) | 0x0A9 => some (.slim 9) | 0x0AA => some (.slim 10) | 0x0AB => some (.slim 11)
  | 0x0AC => some (.slim 12) | 0x0AD => some (.slim 13) | 0x0AE => some (.slim 14) | 0x0AF => some (.slim 15)
  | 0x0B0 => some .steepq | 0x0B1 => some .steepctl
  | 0x0C0 => some .ctxbase | 0x0C1 => some .tqbase | 0x0C2 => some .tqhead | 0x0C3 => some .tqtail | 0x0C4 => some .fatalovf
  | 0x0C5 => some .wake | 0x0C6 => some .gswt | 0x0C7 => some .wscur | 0x0C8 => some .wsnext | 0x0C9 => some .relctl
  | 0x200 => some .xport | 0x201 => some .collctl
  | 0x210 => some .snapctl | 0x211 => some .snapdom | 0x212 => some .caddy | 0x213 => some .caddyp | 0x214 => some .snapstg
  | 0x215 => some .snaprst
  | 0x300 => some .perfctl | 0x301 => some .lnkctl | 0x302 => some .lnkbase | 0x303 => some .vfsel
  | 0x304 => some (.shcnt 0) | 0x305 => some (.shcnt 1) | 0x306 => some (.shcnt 2) | 0x307 => some (.shcnt 3)
  | 0x310 => some (.pcnt 0) | 0x311 => some (.pcnt 1) | 0x312 => some (.pcnt 2) | 0x313 => some (.pcnt 3) | 0x314 => some .psel
  | 0x320 => some .trcctl | 0x321 => some .trcbase | 0x322 => some .trcptr | 0x323 => some .trctrg | 0x324 => some .trcpc
  | 0x325 => some .trctime
  | _ => none

/-! ## The fields of a word (R37, R38) -/

def wK (w : BitVec 32) : BitVec 1 := w.extractLsb' 30 1
def wMajor (w : BitVec 32) : BitVec 6 := w.extractLsb' 24 6
def wD (w : BitVec 32) : BitVec 4 := w.extractLsb' 20 4
def wSa (w : BitVec 32) : BitVec 1 := w.extractLsb' 19 1
def wA (w : BitVec 32) : BitVec 4 := w.extractLsb' 15 4
def wSb (w : BitVec 32) : BitVec 1 := w.extractLsb' 14 1
def wB (w : BitVec 32) : BitVec 4 := w.extractLsb' 10 4
def wMinor (w : BitVec 32) : BitVec 10 := w.extractLsb' 0 10
/-- imm15 and off15 -/
def wOff15 (w : BitVec 32) : BitVec 15 := w.extractLsb' 0 15
/-- imm20 and off20 -/
def wOff20 (w : BitVec 32) : BitVec 20 := w.extractLsb' 0 20

def wRegD (w : BitVec 32) : Reg := (wD w).toFin
/-- Field a as a general register, with its synchronisation bit. -/
def wSrcA (w : BitVec 32) : Src := { reg := (wA w).toFin, sync := wSa w == 1 }
/-- Field b as a general register, with its synchronisation bit. -/
def wSrcB (w : BitVec 32) : Src := { reg := (wB w).toFin, sync := wSb w == 1 }

/-! ## Decoding -/

/-- A condition that a word must meet, with the row of R53 that it breaks otherwise. -/
def need (c : Bool) (r : Reject) : Except Reject Unit := if c then .ok () else .error r

/-- A code that must be assigned (R53 row 5). -/
def code {α : Type} (x : Option α) : Except Reject α :=
  match x with
  | some a => .ok a
  | none => .error .unassignedCode

/-- A field that names a vector register: bit 3 reserved (R40). -/
def vregOf (x : BitVec 4) : Except Reject VReg :=
  if h : x.toNat < 8 then .ok ⟨x.toNat, h⟩ else .error .reservedField

/-- A field that names a mask or stream register: bits 3:2 reserved (R40). -/
def mregOf (x : BitVec 4) : Except Reject MReg :=
  if h : x.toNat < 4 then .ok ⟨x.toNat, h⟩ else .error .reservedField

/-- The mask selector and enable of bits 6:4 (R44). -/
def maskOf (minor : BitVec 10) : Except Reject (Option MReg) :=
  if minor.extractLsb' 4 1 = 1 then .ok (some (minor.extractLsb' 5 2).toFin)
  else if minor.extractLsb' 5 2 = 0 then .ok none else .error .reservedField

/-- Field d is reserved. -/
def noD (w : BitVec 32) : Except Reject Unit := need (wD w == 0) .reservedField
/-- Fields a and sa are reserved. -/
def noA (w : BitVec 32) : Except Reject Unit := need (wA w == 0 && wSa w == 0) .reservedField
/-- Fields b and sb are reserved. -/
def noB (w : BitVec 32) : Except Reject Unit := need (wB w == 0 && wSb w == 0) .reservedField
/-- No field read as a general register in a and b: sa and sb are reserved (R40). -/
def noSync (w : BitVec 32) : Except Reject Unit := need (wSa w == 0 && wSb w == 0) .reservedField

/-- The 15-bit shift count: bits 14:6 reserved (R39). -/
def shiftOf (w : BitVec 32) : Except Reject (BitVec 6) := do
  need ((wOff15 w).extractLsb' 6 9 == 0) .reservedField
  return (wOff15 w).extractLsb' 0 6

/-- The F format: bits 14:12 zero, then pos and wm1; the field ends at bit 63 at most (R38, R48). -/
def bitFieldOf (w : BitVec 32) : Except Reject (BitVec 6 × BitVec 6) := do
  need ((wOff15 w).extractLsb' 12 3 == 0) .reservedField
  need (decide (((wOff15 w).extractLsb' 6 6).toNat + ((wOff15 w).extractLsb' 0 6).toNat + 1 ≤ 64)) .outOfRange
  return ((wOff15 w).extractLsb' 6 6, (wOff15 w).extractLsb' 0 6)

/-- The S format's 12-bit number: bits 14:12 zero (R38). -/
def numOf (w : BitVec 32) : Except Reject (BitVec 12) := do
  need ((wOff15 w).extractLsb' 12 3 == 0) .reservedField
  return (wOff15 w).extractLsb' 0 12

/-- Operand pattern 3r (R57). -/
def form3r (w : BitVec 32) (f : Reg → Src → Src → Instr) : Except Reject Instr := .ok (f (wRegD w) (wSrcA w) (wSrcB w))

/-- Operand pattern 2r: field b reserved (R57). -/
def form2r (w : BitVec 32) (f : Reg → Src → Instr) : Except Reject Instr := do
  noB w
  return f (wRegD w) (wSrcA w)

/-- Operand pattern mo: an offset memory form (R57). -/
def formMo (w : BitVec 32) (f : Reg → Src → BitVec 15 → Instr) : Except Reject Instr :=
  .ok (f (wRegD w) (wSrcA w) (wOff15 w))

/-- Operand pattern m1 with no other field (R57). -/
def formM1 (w : BitVec 32) (f : Src → Instr) : Except Reject Instr := do
  noD w; noB w
  return f (wSrcA w)

/-- Operand pattern m2 (R57). -/
def formM2 (w : BitVec 32) (f : Src → Src → Instr) : Except Reject Instr := do
  noD w
  return f (wSrcA w) (wSrcB w)

/-- A form with field d alone. -/
def formD (w : BitVec 32) (f : Reg → Instr) : Except Reject Instr := do
  noA w; noB w
  return f (wRegD w)

/-- A form with no operand field. -/
def form0 (w : BitVec 32) (i : Instr) : Except Reject Instr := do
  noD w; noA w; noB w
  return i

/-- The minor field has no bit (R46: all other RR majors). -/
def noMinor (w : BitVec 32) : Except Reject Unit := need (wMinor w == 0) .reservedField

/-- The thread group (R46, R147). -/
def decodeThreadGroup (w : BitVec 32) : Except Reject Instr :=
  match (wMinor w).toNat with
  | 0 => form3r w .spawn
  | 1 => form0 w .exit
  | 2 => formM2 w .send
  | 3 => formD w .recv
  | 4 => formM2 w .amsg
  | 5 => form3r w .dlg
  | 6 => formM1 w .migr
  | 7 => form2r w .lrw
  | 8 => formM2 w .sch
  | 9 => formM1 w .rls
  | _ => .error .unassignedCode

/-- The order group (R46, R247). -/
def decodeOrderGroup (w : BitVec 32) : Except Reject Instr := do
  match (wMinor w).toNat / 64 with
  | 0 => do
    need ((wMinor w).toNat / 8 % 8 == 0) .reservedField
    let sc ← code (scopeOf ((wMinor w).toNat % 8))
    form0 w (.fence sc)
  | 1 => do
    need ((wMinor w).toNat / 8 % 8 == 0) .reservedField
    let sc ← code (scopeOf ((wMinor w).toNat % 8))
    form0 w (.pour sc)
  | 2 => do
    need ((wMinor w).toNat % 64 == 0) .reservedField
    form0 w .fbar
  | _ => .error .unassignedCode

/-- The line group (R46, R247). -/
def decodeLineGroup (w : BitVec 32) : Except Reject Instr :=
  match (wMinor w).toNat with
  | 0 => formM1 w .cwb
  | 1 => formM1 w .cinv
  | 2 => formM1 w .iinv
  | 3 => formM1 w .pref
  | 4 => formM1 w .plbi
  | _ => .error .unassignedCode

/-- The bind and stream bits of a copy (R46). -/
def bindOf (w : BitVec 32) : Except Reject (Option SReg) := do
  need ((wMinor w).toNat / 8 == 0) .reservedField
  if (wMinor w).toNat / 4 % 2 == 1 then return some ((wMinor w).extractLsb' 0 2).toFin
  else do
    need ((wMinor w).toNat % 4 == 0) .reservedField
    return none

/-- A scalar memory form with two registers (pattern mx). -/
def decodeIndexedType {α : Type} (w : BitVec 32) (f : Nat → Option α) : Except Reject α := do
  need ((wMinor w).toNat / 8 == 0) .reservedField
  code (f ((wMinor w).toNat % 8))

/-- AMO and RED's operation and size (R46). -/
def amoFieldsOf (w : BitVec 32) : Except Reject (AmoOp × AmoSize) := do
  let op ← code (amoOpOf ((wMinor w).toNat / 64))
  need ((wMinor w).toNat / 4 % 16 == 0) .reservedField
  let sz ← code (amoSizeOf ((wMinor w).toNat % 4))
  return (op, sz)

/-- The ring group (R46, R284). -/
def decodeRingGroup (w : BitVec 32) : Except Reject Instr := do
  need ((wMinor w).toNat / 4 % 16 == 0) .reservedField
  match (wMinor w).toNat % 4 with
  | 0 => formM1 w (.rngi ((wMinor w).extractLsb' 6 4).toFin)
  | 1 => formM1 w (.rnga ((wMinor w).extractLsb' 6 4).toFin)
  | 2 => formD w (fun d => .rngq d ((wMinor w).extractLsb' 6 4).toFin)
  | _ => .error .unassignedCode

/-- MXQ (R46, R284): fields a and b are ring numbers. -/
def decodeMxq (w : BitVec 32) : Except Reject Instr := do
  noSync w
  need ((wMinor w).toNat % 2 == 0) .reservedField
  let sr ← code (semiringOf ((wMinor w).toNat / 64 % 8))
  let pop ← code (popOf ((wMinor w).toNat / 2 % 4))
  return .mxq ((wMinor w).extractLsb' 9 1).toFin sr ((wMinor w).extractLsb' 5 1 == 1) ((wMinor w).extractLsb' 4 1 == 1)
    ((wMinor w).extractLsb' 3 1 == 1) pop (wRegD w) (wA w).toFin (wB w).toFin

/-- The matrix-control group (R46, R284). -/
def decodeMatrixGroup (w : BitVec 32) : Except Reject Instr := do
  need ((wMinor w).toNat / 8 % 64 == 0) .reservedField
  match (wMinor w).toNat % 8 with
  | 0 => do
    need ((wMinor w).toNat / 512 == 0) .reservedField
    formM1 w .mxw
  | 1 => do
    need ((wMinor w).toNat / 512 == 0) .reservedField
    form2r w .mxp
  | 2 => form0 w (.mxz ((wMinor w).extractLsb' 9 1).toFin)
  | 3 => formM1 w (.mxst ((wMinor w).extractLsb' 9 1).toFin)
  | 4 => form0 w (.mxr ((wMinor w).extractLsb' 9 1).toFin)
  | _ => .error .unassignedCode

/-- The system group (R46, R343). -/
def decodeSystemGroup (w : BitVec 32) : Except Reject Instr := do
  need ((wMinor w).toNat / 8 == 0) .reservedField
  match (wMinor w).toNat % 8 with
  | 0 => form0 w .eret
  | 1 => formM1 w .park
  | 2 => formM1 w .gsw
  | 3 => form0 w .cont
  | 4 => form0 w .logn
  | 5 => formM1 w .loga
  | _ => .error .unassignedCode

/-- The type and mask of a strided or indexed vector form (R46). -/
def vmemOf (w : BitVec 32) : Except Reject (VType × Option MReg) := do
  need ((wMinor w).toNat % 16 == 0) .reservedField
  let ty ← code (vTypeOf ((wMinor w).toNat / 128))
  need ty.isIF .unassignedCode
  let m ← maskOf (wMinor w)
  return (ty, m)

/-- LDB's two forms (R46). -/
def decodeLdb (w : BitVec 32) : Except Reject Instr := do
  need ((wMinor w).toNat / 256 % 2 == 0) .reservedField
  if (wMinor w).toNat / 512 == 0 then do
    need ((wMinor w).toNat % 256 == 0) .reservedField
    form3r w .ldb
  else do
    noB w
    return .ldbImm (wRegD w) (wSrcA w) ((wMinor w).extractLsb' 0 8)

/-- Class C (R45, R46). -/
def decodeClassC (w : BitVec 32) : Except Reject Instr :=
  match (wMajor w).toNat with
  | 0x00 => do noMinor w; form0 w .nop
  | 0x01 => do noD w; return .b (wOff20 w)
  | 0x02 => do noD w; return .call (wOff20 w)
  | 0x03 => do noD w; return .bz (wSrcA w) (wOff15 w)
  | 0x04 => do noD w; return .bnz (wSrcA w) (wOff15 w)
  | 0x05 => do
    let c ← code (brCcOf (wD w).toNat)
    return .bcc c (wSrcA w) (wOff15 w)
  | 0x06 =>
    match (wMinor w).toNat with
    | 0 => formM1 w .jmp
    | 1 => formM1 w .callr
    | _ => .error .unassignedCode
  | 0x07 => .ok (.blk (w.extractLsb' 12 12) (w.extractLsb' 0 12))
  | 0x08 => formMo w .ldS8
  | 0x09 => formMo w .ldS16
  | 0x0A => formMo w .ldS32
  | 0x0B => formMo w .ldS64
  | 0x0C => formMo w .ldZ8
  | 0x0D => formMo w .ldZ16
  | 0x0E => formMo w .ldZ32
  | 0x0F => do
    let ty ← decodeIndexedType w ldTypeOf
    form3r w (.ldx ty)
  | 0x10 => formMo w .st8
  | 0x11 => formMo w .st16
  | 0x12 => formMo w .st32
  | 0x13 => formMo w .st64
  | 0x14 => do
    let ty ← decodeIndexedType w stTypeOf
    form3r w (.stx ty)
  | 0x15 => formMo w .lds
  | 0x16 => formMo w .ldsk
  | 0x17 => formMo w .sts
  | 0x18 => formMo w .stf
  | 0x19 => do noD w; return .clre (wSrcA w) (wOff15 w)
  | 0x1A => decodeThreadGroup w
  | 0x1B => do
    let sc ← decodeIndexedType w scopeOf
    formM1 w (.bar sc)
  | 0x1C => do
    let (op, sz) ← amoFieldsOf w
    form3r w (.amo op sz)
  | 0x1D => do
    let (op, sz) ← amoFieldsOf w
    need op.isRed .unassignedCode
    formM2 w (.red op sz)
  | 0x1E => decodeOrderGroup w
  | 0x1F => decodeLineGroup w
  | 0x20 => do noMinor w; formM2 w .addm
  | 0x21 => decodeLdb w
  | 0x22 => do
    let v ← vregOf (wD w)
    return .vld v (wSrcA w) (wOff15 w)
  | 0x23 => do
    let v ← vregOf (wD w)
    return .vst v (wSrcA w) (wOff15 w)
  | 0x24 => do
    let (ty, m) ← vmemOf w
    let v ← vregOf (wD w)
    return .vlds ty m v (wSrcA w) (wSrcB w)
  | 0x25 => do
    let (ty, m) ← vmemOf w
    need (wSb w == 0) .reservedField
    let v ← vregOf (wD w)
    let vb ← vregOf (wB w)
    return .vgath ty m v (wSrcA w) vb
  | 0x26 => do
    let (ty, m) ← vmemOf w
    need (wSb w == 0) .reservedField
    let v ← vregOf (wD w)
    let vb ← vregOf (wB w)
    return .vscat ty m v (wSrcA w) vb
  | 0x27 => do
    need ((wMinor w).toNat % 128 == 0) .reservedField
    let ty ← code (vTypeOf ((wMinor w).toNat / 128))
    need ty.isIF .unassignedCode
    need (wSa w == 0) .reservedField
    noB w
    let v ← vregOf (wD w)
    let st ← mregOf (wA w)
    return .vsrd ty v st
  | 0x28 => do
    let bd ← bindOf w
    form3r w (.cpy bd)
  | 0x29 => do
    let bd ← bindOf w
    form3r w (.cpy2 bd)
  | 0x2A => do
    let bd ← bindOf w
    form3r w (.cpyg bd)
  | 0x2B =>
    match (wMinor w).toNat with
    | 0 => formM1 w .cpyw
    | 1 => form2r w .cpyq
    | _ => .error .unassignedCode
  | 0x2C => do
    let ty ← decodeIndexedType w ldTypeOf
    need (wSa w == 0) .reservedField
    noB w
    let st ← mregOf (wA w)
    return .srd ty (wRegD w) st
  | 0x2D => decodeRingGroup w
  | 0x2E => decodeMxq w
  | 0x2F => decodeMatrixGroup w
  | 0x30 => do
    noD w; noA w
    let n ← numOf w
    need (n.extractLsb' 10 2 == 0) .reservedField
    return .trap (n.extractLsb' 0 10)
  | 0x31 => decodeSystemGroup w
  | 0x32 => do
    noA w
    let n ← numOf w
    let r ← code (sysRegOf n.toNat)
    return .mfs (wRegD w) r
  | 0x33 => do
    noD w
    let n ← numOf w
    let r ← code (sysRegOf n.toNat)
    return .mts r (wSrcA w)
  | 0x34 => do noMinor w; form2r w .coll
  | 0x35 => do noMinor w; form2r w .collw
  | 0x36 => do noMinor w; formD w .snap
  | 0x37 => do noMinor w; form2r w .snapq
  | _ => .error .unassignedMajor

/-- The ALU group (R48). -/
def decodeAlu (w : BitVec 32) : Except Reject Instr :=
  match (wMinor w).toNat with
  | 0 => form3r w .add
  | 1 => form3r w .sub
  | 2 => form3r w .and
  | 3 => form3r w .or
  | 4 => form3r w .xor
  | 5 => form3r w .andn
  | 6 => form3r w .orn
  | 7 => form3r w .shl
  | 8 => form3r w .shr
  | 9 => form3r w .sha
  | 10 => form3r w .ror
  | 11 => form3r w .min
  | 12 => form3r w .max
  | 13 => form3r w .minz
  | 14 => form3r w .maxz
  | _ => .error .unassignedCode

/-- The multiply group (R48). -/
def decodeMultiply (w : BitVec 32) : Except Reject Instr :=
  match (wMinor w).toNat with
  | 0 => form3r w .mul
  | 1 => form3r w .mulh
  | 2 => form3r w .mulhz
  | 3 => form3r w .div
  | 4 => form3r w .divz
  | 5 => form3r w .rem
  | 6 => form3r w .remz
  | 7 => form3r w .clmul
  | 8 => form3r w .clmulh
  | _ => .error .unassignedCode

/-- The bit group (R48). -/
def decodeBit (w : BitVec 32) : Except Reject Instr :=
  match (wMinor w).toNat with
  | 0 => form2r w .clz
  | 1 => form2r w .ctz
  | 2 => form2r w .popc
  | 3 => form2r w .brev
  | 4 => form2r w .bswap
  | _ => .error .unassignedCode

/-- The FP group (R48). -/
def decodeFp (w : BitVec 32) : Except Reject Instr := do
  need ((wMinor w).toNat / 16 % 16 == 0) .reservedField
  let ty ← code (fTypeOf ((wMinor w).toNat / 256))
  match (wMinor w).toNat % 16 with
  | 0 => form3r w (.fadd ty)
  | 1 => form3r w (.fsub ty)
  | 2 => form3r w (.fmul ty)
  | 3 => form3r w (.fma ty)
  | 4 => form3r w (.fms ty)
  | 5 => form3r w (.fnma ty)
  | 6 => form3r w (.fdiv ty)
  | 7 => form2r w (.fsqrt ty)
  | 8 => form3r w (.fmin ty)
  | 9 => form3r w (.fmax ty)
  | 10 => form3r w (.fsgn ty)
  | 11 => form2r w (.fclass ty)
  | _ => .error .unassignedCode

/-- A vector form with three vector registers (pattern v3). -/
def formV3 (w : BitVec 32) (okTy : VType → Bool) (f : VType → Option MReg → VReg → VReg → VReg → Instr) : Except Reject Instr := do
  let ty ← code (vTypeOf ((wMinor w).toNat / 128))
  need (okTy ty) .unassignedCode
  noSync w
  let m ← maskOf (wMinor w)
  let d ← vregOf (wD w)
  let a ← vregOf (wA w)
  let b ← vregOf (wB w)
  return f ty m d a b

/-- The vector arithmetic group (R48, R172, R179). -/
def decodeVector (w : BitVec 32) : Except Reject Instr :=
  match (wMinor w).toNat % 16 with
  | 0 => formV3 w VType.isIF .vadd
  | 1 => formV3 w VType.isIF .vsub
  | 2 => formV3 w VType.isIF .vmul
  | 3 => formV3 w VType.isIF .vfma
  | 4 => formV3 w VType.isIF .vmin
  | 5 => formV3 w VType.isIF .vmax
  | 6 => formV3 w VType.isInt .vand
  | 7 => formV3 w VType.isInt .vor
  | 8 => formV3 w VType.isInt .vxor
  | 9 => formV3 w VType.isInt .vshl
  | 10 => formV3 w VType.isInt .vshr
  | 11 => formV3 w VType.isDot .vdot
  | 12 => do
    let ty ← code (vTypeOf ((wMinor w).toNat / 128))
    need ty.isIF .unassignedCode
    noSync w
    let m ← maskOf (wMinor w)
    let d ← vregOf (wD w)
    let a ← vregOf (wA w)
    let b ← vregOf (wB w)
    match m with
    | some mr => return .vsel ty mr d a b
    | none => .error .outOfRange
  | 13 => formV3 w VType.isIF .vperm
  | _ => .error .unassignedCode

/-- VCMP (R48, R183): the condition is an integer or a float one according to the type. -/
def decodeVcmp (w : BitVec 32) : Except Reject Instr := do
  let ty ← code (vTypeOf ((wMinor w).toNat / 128))
  let cc ← (if ty.isInt then do
      let c ← code (ccOf ((wMinor w).toNat % 16))
      return VCc.int c
    else if ty.isFloat then do
      let c ← code (fccOf ((wMinor w).toNat % 16))
      return VCc.flt c
    else .error .unassignedCode)
  noSync w
  let m ← maskOf (wMinor w)
  let d ← mregOf (wD w)
  let a ← vregOf (wA w)
  let b ← vregOf (wB w)
  return .vcmp cc ty m d a b

/-- VRED (R48, R184). -/
def decodeVred (w : BitVec 32) : Except Reject Instr := do
  let op ← code (redOpOf ((wMinor w).toNat % 16))
  let ty ← code (vTypeOf ((wMinor w).toNat / 128))
  need (op.fits ty) .unassignedCode
  need (wSa w == 0) .reservedField
  noB w
  let m ← maskOf (wMinor w)
  let a ← vregOf (wA w)
  return .vred op ty m (wRegD w) a

/-- The vector unary group (R48, R185, R186). -/
def decodeVUnary (w : BitVec 32) : Except Reject Instr := do
  let ty ← code (vTypeOf ((wMinor w).toNat / 128))
  noSync w
  let m ← maskOf (wMinor w)
  let d ← vregOf (wD w)
  let a ← vregOf (wA w)
  match (wMinor w).toNat % 16 with
  | 0 => do
    need ty.isFloat .unassignedCode
    need (wB w == 0) .reservedField
    return .vexp2 ty m d a
  | 1 => do
    need ty.isFloat .unassignedCode
    need (wB w == 0) .reservedField
    return .vrcp ty m d a
  | 2 => do
    need ty.isFloat .unassignedCode
    need (wB w == 0) .reservedField
    return .vrsq ty m d a
  | 3 => do
    need (decide ((wB w).toNat < 8)) .reservedField
    let src ← code (vTypeOf (wB w).toNat)
    need (VType.converts ty src) .unassignedCode
    return .vcvt ty src m d a
  | _ => .error .unassignedCode

/-- The mask group (R48, R188). -/
def decodeMask (w : BitVec 32) : Except Reject Instr := do
  noSync w
  match (wMinor w).toNat with
  | 0 => do
    let d ← mregOf (wD w)
    let a ← mregOf (wA w)
    let b ← mregOf (wB w)
    return .mand d a b
  | 1 => do
    let d ← mregOf (wD w)
    let a ← mregOf (wA w)
    let b ← mregOf (wB w)
    return .mor d a b
  | 2 => do
    let d ← mregOf (wD w)
    let a ← mregOf (wA w)
    need (wB w == 0) .reservedField
    return .mnot d a
  | 3 => do
    let a ← mregOf (wA w)
    need (wB w == 0) .reservedField
    return .mpop (wRegD w) a
  | _ => .error .unassignedCode

/-- Class A (R47, R48). -/
def decodeClassA (w : BitVec 32) : Except Reject Instr :=
  match (wMajor w).toNat with
  | 0x01 => decodeAlu w
  | 0x02 => decodeMultiply w
  | 0x03 => decodeBit w
  | 0x04 => do
    let pw ← bitFieldOf w
    return .exts (wRegD w) (wSrcA w) pw.1 pw.2
  | 0x05 => do
    let pw ← bitFieldOf w
    return .extz (wRegD w) (wSrcA w) pw.1 pw.2
  | 0x06 => do
    let pw ← bitFieldOf w
    return .ins (wRegD w) (wSrcA w) pw.1 pw.2
  | 0x07 => do
    need ((wMinor w).toNat / 16 == 0) .reservedField
    form3r w (fun d a b => .sel d a b ((wMinor w).extractLsb' 0 4).toFin)
  | 0x08 => do
    need ((wMinor w).toNat / 8 == 0) .reservedField
    form3r w (fun d a b => .addx d a b ((wMinor w).extractLsb' 0 3).toFin)
  | 0x09 => do
    need ((wMinor w).toNat / 16 == 0) .reservedField
    let c ← code (ccOf ((wMinor w).toNat % 16))
    form3r w (.cmp c)
  | 0x0A => do
    let c ← code (ccOf ((wOff15 w).extractLsb' 11 4).toNat)
    return .cmpi c (wRegD w) (wSrcA w) ((wOff15 w).extractLsb' 0 11)
  | 0x0B => formMo w .addi
  | 0x0C => formMo w .andi
  | 0x0D => formMo w .ori
  | 0x0E => formMo w .xori
  | 0x0F => do
    let n ← shiftOf w
    return .shli (wRegD w) (wSrcA w) n
  | 0x10 => do
    let n ← shiftOf w
    return .shri (wRegD w) (wSrcA w) n
  | 0x11 => do
    let n ← shiftOf w
    return .shai (wRegD w) (wSrcA w) n
  | 0x12 => do
    let n ← shiftOf w
    return .rori (wRegD w) (wSrcA w) n
  | 0x13 => .ok (.li (wRegD w) (wOff20 w))
  | 0x14 => do
    need ((wOff20 w).extractLsb' 18 2 == 0) .reservedField
    return .lih (wRegD w) ((wOff20 w).extractLsb' 16 2) ((wOff20 w).extractLsb' 0 16)
  | 0x18 => decodeFp w
  | 0x19 => do
    need ((wMinor w).toNat / 16 % 16 == 0) .reservedField
    let ty ← code (fTypeOf ((wMinor w).toNat / 256))
    let c ← code (fccOf ((wMinor w).toNat % 16))
    form3r w (.fcmp ty c)
  | 0x1A => do
    need ((wMinor w).toNat % 64 == 0) .reservedField
    let dst ← code (cTypeOf ((wMinor w).toNat / 256))
    let src ← code (cTypeOf ((wMinor w).toNat / 64 % 4))
    need (dst != src) .unassignedCode
    form2r w (.fcvt dst src)
  | 0x1B => do
    need ((wMinor w).toNat % 16 == 0) .reservedField
    let src ← code (fTypeOf ((wMinor w).toNat / 256))
    let it ← code (iTypeOf ((wMinor w).toNat / 64 % 4))
    let rm ← code (rModeOf ((wMinor w).toNat / 16 % 4))
    form2r w (.fcvti src it rm)
  | 0x1C => do
    need ((wMinor w).toNat % 64 == 0) .reservedField
    let dst ← code (fTypeOf ((wMinor w).toNat / 256))
    let it ← code (iTypeOf ((wMinor w).toNat / 64 % 4))
    form2r w (.fcvtf dst it)
  | 0x20 => decodeVector w
  | 0x21 => decodeVcmp w
  | 0x22 => decodeVred w
  | 0x23 => decodeVUnary w
  | 0x24 => do
    need ((wMinor w).toNat % 128 == 0) .reservedField
    let ty ← code (vTypeOf ((wMinor w).toNat / 128))
    need ty.isIF .unassignedCode
    noB w
    let d ← vregOf (wD w)
    return .vbcast ty d (wSrcA w)
  | 0x25 => do
    need ((wMinor w).toNat / 64 % 2 == 0) .reservedField
    let ty ← code (vTypeOf ((wMinor w).toNat / 128))
    need ty.isIF .unassignedCode
    need (wSa w == 0) .reservedField
    noB w
    let a ← vregOf (wA w)
    need (decide ((wMinor w).toNat % 64 < ty.lanes)) .outOfRange
    return .vmovg ty (wRegD w) a ((wMinor w).extractLsb' 0 6)
  | 0x26 => decodeMask w
  | _ => .error .unassignedMajor

/-- The instruction of a word (R45 to R48); bit L is not looked at. -/
def decodeWord (w : BitVec 32) : Except Reject Instr :=
  if wK w = 0 then decodeClassC w else decodeClassA w

/-- BLK, TRAP and ERET must stand as lone words, and NOP cannot open a pair (R51, R52). -/
def Instr.loneOnly : Instr → Bool
  | .blk _ _ | .trap _ | .eret | .nop => true
  | _ => false

/-- The instruction of a row of the opcode table: one 32-bit word. A word whose mnemonic is only ever lone needs bit L. -/
def decodeTableWord (nbits w : Nat) : Option Instr :=
  if nbits = 32 then
    match decodeWord (BitVec.ofNat 32 w) with
    | .ok i => if i.loneOnly && !(BitVec.ofNat 32 w).getLsbD 31 then none else some i
    | .error _ => none
  else none

/-! ## Encoding -/

/-- A register number as a field. -/
def regField (r : Reg) : BitVec 4 := BitVec.ofFin r
/-- A synchronisation bit. -/
def syncBit (b : Bool) : BitVec 1 := BitVec.ofBool b
def vregField (r : VReg) : BitVec 4 := BitVec.ofNat 4 r.val
def mregField (r : MReg) : BitVec 4 := BitVec.ofNat 4 r.val

/-- The lone word with eight fields: format RR. -/
def packRR (k : BitVec 1) (major : BitVec 6) (d : BitVec 4) (sa : BitVec 1) (a : BitVec 4) (sb : BitVec 1) (b : BitVec 4)
    (minor : BitVec 10) : BitVec 32 :=
  1#1 ++ k ++ major ++ d ++ sa ++ a ++ sb ++ b ++ minor

/-- Formats I15, I15c, M, B15, F and S: a 15-bit low field. -/
def packM (k : BitVec 1) (major : BitVec 6) (d : BitVec 4) (sa : BitVec 1) (a : BitVec 4) (low : BitVec 15) : BitVec 32 :=
  1#1 ++ k ++ major ++ d ++ sa ++ a ++ low

/-- Formats I20 and J20: a 20-bit low field. -/
def packJ (k : BitVec 1) (major : BitVec 6) (d : BitVec 4) (low : BitVec 20) : BitVec 32 :=
  1#1 ++ k ++ major ++ d ++ low

/-- Format G. -/
def packG (k : BitVec 1) (major : BitVec 6) (sig dig : BitVec 12) : BitVec 32 :=
  1#1 ++ k ++ major ++ sig ++ dig

def minorOf (n : Nat) : BitVec 10 := BitVec.ofNat 10 n

/-- A word of class C with pattern 3r. -/
def enc3r (k : BitVec 1) (major : BitVec 6) (d : Reg) (a b : Src) (minor : Nat) : BitVec 32 :=
  packRR k major (regField d) (syncBit a.sync) (regField a.reg) (syncBit b.sync) (regField b.reg) (minorOf minor)
def enc2r (k : BitVec 1) (major : BitVec 6) (d : Reg) (a : Src) (minor : Nat) : BitVec 32 :=
  packRR k major (regField d) (syncBit a.sync) (regField a.reg) 0 0 (minorOf minor)
def encM2 (k : BitVec 1) (major : BitVec 6) (a b : Src) (minor : Nat) : BitVec 32 :=
  packRR k major 0 (syncBit a.sync) (regField a.reg) (syncBit b.sync) (regField b.reg) (minorOf minor)
def encM1 (k : BitVec 1) (major : BitVec 6) (a : Src) (minor : Nat) : BitVec 32 :=
  packRR k major 0 (syncBit a.sync) (regField a.reg) 0 0 (minorOf minor)
def encD (k : BitVec 1) (major : BitVec 6) (d : Reg) (minor : Nat) : BitVec 32 :=
  packRR k major (regField d) 0 0 0 0 (minorOf minor)
def enc0 (k : BitVec 1) (major : BitVec 6) (minor : Nat) : BitVec 32 :=
  packRR k major 0 0 0 0 0 (minorOf minor)
def encMo (k : BitVec 1) (major : BitVec 6) (d : Reg) (a : Src) (low : BitVec 15) : BitVec 32 :=
  packM k major (regField d) (syncBit a.sync) (regField a.reg) low
def encV3 (major : BitVec 6) (d a b : VReg) (minor : Nat) : BitVec 32 :=
  packRR 1 major (vregField d) 0 (vregField a) 0 (vregField b) (minorOf minor)

/-- Bits 6:4 of a form with a mask field. -/
def maskBits : Option MReg → Nat
  | some m => m.val * 32 + 16
  | none => 0
def boolBit (b : Bool) : Nat := if b then 1 else 0
/-- The bind and stream bits of a copy. -/
def bindBits : Option SReg → Nat
  | some s => 4 + s.val
  | none => 0
def VCc.code : VCc → Nat
  | .int c => c.code
  | .flt c => c.code
/-- The minor field of a typed vector form. -/
def vMinor (ty : VType) (m : Option MReg) (op : Nat) : Nat := ty.code * 128 + maskBits m + op

/-- The lone word of an instruction; none for the steps of other agents, which have no word. -/
def encode : Instr → Option (BitVec 32)
  | .nop => some (enc0 0 0x00 0)
  | .b off => some (packJ 0 0x01 0 off)
  | .call off => some (packJ 0 0x02 0 off)
  | .bz a off => some (packM 0 0x03 0 (syncBit a.sync) (regField a.reg) off)
  | .bnz a off => some (packM 0 0x04 0 (syncBit a.sync) (regField a.reg) off)
  | .bcc c a off => some (packM 0 0x05 (BitVec.ofNat 4 c.code) (syncBit a.sync) (regField a.reg) off)
  | .jmp a => some (encM1 0 0x06 a 0)
  | .callr a => some (encM1 0 0x06 a 1)
  | .blk sig dig => some (packG 0 0x07 sig dig)
  | .ldS8 d a off => some (encMo 0 0x08 d a off)
  | .ldS16 d a off => some (encMo 0 0x09 d a off)
  | .ldS32 d a off => some (encMo 0 0x0A d a off)
  | .ldS64 d a off => some (encMo 0 0x0B d a off)
  | .ldZ8 d a off => some (encMo 0 0x0C d a off)
  | .ldZ16 d a off => some (encMo 0 0x0D d a off)
  | .ldZ32 d a off => some (encMo 0 0x0E d a off)
  | .ldx ty d a b => some (enc3r 0 0x0F d a b ty.code)
  | .st8 d a off => some (encMo 0 0x10 d a off)
  | .st16 d a off => some (encMo 0 0x11 d a off)
  | .st32 d a off => some (encMo 0 0x12 d a off)
  | .st64 d a off => some (encMo 0 0x13 d a off)
  | .stx ty d a b => some (enc3r 0 0x14 d a b ty.code)
  | .lds d a off => some (encMo 0 0x15 d a off)
  | .ldsk d a off => some (encMo 0 0x16 d a off)
  | .sts d a off => some (encMo 0 0x17 d a off)
  | .stf d a off => some (encMo 0 0x18 d a off)
  | .clre a off => some (packM 0 0x19 0 (syncBit a.sync) (regField a.reg) off)
  | .spawn d a b => some (enc3r 0 0x1A d a b 0)
  | .exit => some (enc0 0 0x1A 1)
  | .send a b => some (encM2 0 0x1A a b 2)
  | .recv d => some (encD 0 0x1A d 3)
  | .amsg a b => some (encM2 0 0x1A a b 4)
  | .dlg d a b => some (enc3r 0 0x1A d a b 5)
  | .migr a => some (encM1 0 0x1A a 6)
  | .lrw d a => some (enc2r 0 0x1A d a 7)
  | .sch a b => some (encM2 0 0x1A a b 8)
  | .rls a => some (encM1 0 0x1A a 9)
  | .bar sc a => some (encM1 0 0x1B a sc.code)
  | .amo op sz d a b => some (enc3r 0 0x1C d a b (op.code * 64 + sz.code))
  | .red op sz a b => some (encM2 0 0x1D a b (op.code * 64 + sz.code))
  | .fence sc => some (enc0 0 0x1E sc.code)
  | .pour sc => some (enc0 0 0x1E (64 + sc.code))
  | .fbar => some (enc0 0 0x1E 128)
  | .cwb a => some (encM1 0 0x1F a 0)
  | .cinv a => some (encM1 0 0x1F a 1)
  | .iinv a => some (encM1 0 0x1F a 2)
  | .pref a => some (encM1 0 0x1F a 3)
  | .plbi a => some (encM1 0 0x1F a 4)
  | .addm a b => some (encM2 0 0x20 a b 0)
  | .ldb d a b => some (enc3r 0 0x21 d a b 0)
  | .ldbImm d a k => some (enc2r 0 0x21 d a (512 + k.toNat))
  | .vld d a off => some (packM 0 0x22 (vregField d) (syncBit a.sync) (regField a.reg) off)
  | .vst d a off => some (packM 0 0x23 (vregField d) (syncBit a.sync) (regField a.reg) off)
  | .vlds ty m d a b => some (packRR 0 0x24 (vregField d) (syncBit a.sync) (regField a.reg) (syncBit b.sync) (regField b.reg)
      (minorOf (vMinor ty m 0)))
  | .vgath ty m d a b => some (packRR 0 0x25 (vregField d) (syncBit a.sync) (regField a.reg) 0 (vregField b)
      (minorOf (vMinor ty m 0)))
  | .vscat ty m d a b => some (packRR 0 0x26 (vregField d) (syncBit a.sync) (regField a.reg) 0 (vregField b)
      (minorOf (vMinor ty m 0)))
  | .vsrd ty d a => some (packRR 0 0x27 (vregField d) 0 (mregField a) 0 0 (minorOf (ty.code * 128)))
  | .cpy bd d a b => some (enc3r 0 0x28 d a b (bindBits bd))
  | .cpy2 bd d a b => some (enc3r 0 0x29 d a b (bindBits bd))
  | .cpyg bd d a b => some (enc3r 0 0x2A d a b (bindBits bd))
  | .cpyw a => some (encM1 0 0x2B a 0)
  | .cpyq d a => some (enc2r 0 0x2B d a 1)
  | .srd ty d a => some (packRR 0 0x2C (regField d) 0 (mregField a) 0 0 (minorOf ty.code))
  | .rngi r a => some (encM1 0 0x2D a (r.val * 64))
  | .rnga r a => some (encM1 0 0x2D a (r.val * 64 + 1))
  | .rngq d r => some (encD 0 0x2D d (r.val * 64 + 2))
  | .mxq slot sr na nb az pop d ra rb => some (packRR 0 0x2E (regField d) 0 (regField ra) 0 (regField rb)
      (minorOf (slot.val * 512 + sr.code * 64 + boolBit na * 32 + boolBit nb * 16 + boolBit az * 8 + pop.code * 2)))
  | .mxw a => some (encM1 0 0x2F a 0)
  | .mxp d a => some (enc2r 0 0x2F d a 1)
  | .mxz slot => some (enc0 0 0x2F (slot.val * 512 + 2))
  | .mxst slot a => some (encM1 0 0x2F a (slot.val * 512 + 3))
  | .mxr slot => some (enc0 0 0x2F (slot.val * 512 + 4))
  | .trap n => some (packM 0 0x30 0 0 0 (0#5 ++ n))
  | .eret => some (enc0 0 0x31 0)
  | .park a => some (encM1 0 0x31 a 1)
  | .gsw a => some (encM1 0 0x31 a 2)
  | .cont => some (enc0 0 0x31 3)
  | .logn => some (enc0 0 0x31 4)
  | .loga a => some (encM1 0 0x31 a 5)
  | .mfs d r => some (packM 0 0x32 (regField d) 0 0 (BitVec.ofNat 15 r.num))
  | .mts r a => some (packM 0 0x33 0 (syncBit a.sync) (regField a.reg) (BitVec.ofNat 15 r.num))
  | .coll d a => some (enc2r 0 0x34 d a 0)
  | .collw d a => some (enc2r 0 0x35 d a 0)
  | .snap d => some (encD 0 0x36 d 0)
  | .snapq d a => some (enc2r 0 0x37 d a 0)
  | .add d a b => some (enc3r 1 0x01 d a b 0)
  | .sub d a b => some (enc3r 1 0x01 d a b 1)
  | .and d a b => some (enc3r 1 0x01 d a b 2)
  | .or d a b => some (enc3r 1 0x01 d a b 3)
  | .xor d a b => some (enc3r 1 0x01 d a b 4)
  | .andn d a b => some (enc3r 1 0x01 d a b 5)
  | .orn d a b => some (enc3r 1 0x01 d a b 6)
  | .shl d a b => some (enc3r 1 0x01 d a b 7)
  | .shr d a b => some (enc3r 1 0x01 d a b 8)
  | .sha d a b => some (enc3r 1 0x01 d a b 9)
  | .ror d a b => some (enc3r 1 0x01 d a b 10)
  | .min d a b => some (enc3r 1 0x01 d a b 11)
  | .max d a b => some (enc3r 1 0x01 d a b 12)
  | .minz d a b => some (enc3r 1 0x01 d a b 13)
  | .maxz d a b => some (enc3r 1 0x01 d a b 14)
  | .mul d a b => some (enc3r 1 0x02 d a b 0)
  | .mulh d a b => some (enc3r 1 0x02 d a b 1)
  | .mulhz d a b => some (enc3r 1 0x02 d a b 2)
  | .div d a b => some (enc3r 1 0x02 d a b 3)
  | .divz d a b => some (enc3r 1 0x02 d a b 4)
  | .rem d a b => some (enc3r 1 0x02 d a b 5)
  | .remz d a b => some (enc3r 1 0x02 d a b 6)
  | .clmul d a b => some (enc3r 1 0x02 d a b 7)
  | .clmulh d a b => some (enc3r 1 0x02 d a b 8)
  | .clz d a => some (enc2r 1 0x03 d a 0)
  | .ctz d a => some (enc2r 1 0x03 d a 1)
  | .popc d a => some (enc2r 1 0x03 d a 2)
  | .brev d a => some (enc2r 1 0x03 d a 3)
  | .bswap d a => some (enc2r 1 0x03 d a 4)
  | .exts d a pos wm1 => some (encMo 1 0x04 d a (0#3 ++ pos ++ wm1))
  | .extz d a pos wm1 => some (encMo 1 0x05 d a (0#3 ++ pos ++ wm1))
  | .ins d a pos wm1 => some (encMo 1 0x06 d a (0#3 ++ pos ++ wm1))
  | .sel d a b c => some (enc3r 1 0x07 d a b c.val)
  | .addx d a b sh => some (enc3r 1 0x08 d a b sh.val)
  | .cmp cc d a b => some (enc3r 1 0x09 d a b cc.code)
  | .cmpi cc d a imm => some (encMo 1 0x0A d a (BitVec.ofNat 4 cc.code ++ imm))
  | .addi d a imm => some (encMo 1 0x0B d a imm)
  | .andi d a imm => some (encMo 1 0x0C d a imm)
  | .ori d a imm => some (encMo 1 0x0D d a imm)
  | .xori d a imm => some (encMo 1 0x0E d a imm)
  | .shli d a n => some (encMo 1 0x0F d a (0#9 ++ n))
  | .shri d a n => some (encMo 1 0x10 d a (0#9 ++ n))
  | .shai d a n => some (encMo 1 0x11 d a (0#9 ++ n))
  | .rori d a n => some (encMo 1 0x12 d a (0#9 ++ n))
  | .li d imm => some (packJ 1 0x13 (regField d) imm)
  | .lih d q v => some (packJ 1 0x14 (regField d) (0#2 ++ q ++ v))
  | .fadd ty d a b => some (enc3r 1 0x18 d a b (ty.code * 256))
  | .fsub ty d a b => some (enc3r 1 0x18 d a b (ty.code * 256 + 1))
  | .fmul ty d a b => some (enc3r 1 0x18 d a b (ty.code * 256 + 2))
  | .fma ty d a b => some (enc3r 1 0x18 d a b (ty.code * 256 + 3))
  | .fms ty d a b => some (enc3r 1 0x18 d a b (ty.code * 256 + 4))
  | .fnma ty d a b => some (enc3r 1 0x18 d a b (ty.code * 256 + 5))
  | .fdiv ty d a b => some (enc3r 1 0x18 d a b (ty.code * 256 + 6))
  | .fsqrt ty d a => some (enc2r 1 0x18 d a (ty.code * 256 + 7))
  | .fmin ty d a b => some (enc3r 1 0x18 d a b (ty.code * 256 + 8))
  | .fmax ty d a b => some (enc3r 1 0x18 d a b (ty.code * 256 + 9))
  | .fsgn ty d a b => some (enc3r 1 0x18 d a b (ty.code * 256 + 10))
  | .fclass ty d a => some (enc2r 1 0x18 d a (ty.code * 256 + 11))
  | .fcmp ty cc d a b => some (enc3r 1 0x19 d a b (ty.code * 256 + cc.code))
  | .fcvt dst src d a => some (enc2r 1 0x1A d a (dst.code * 256 + src.code * 64))
  | .fcvti src it rm d a => some (enc2r 1 0x1B d a (src.code * 256 + it.code * 64 + rm.code * 16))
  | .fcvtf dst it d a => some (enc2r 1 0x1C d a (dst.code * 256 + it.code * 64))
  | .vadd ty m d a b => some (encV3 0x20 d a b (vMinor ty m 0))
  | .vsub ty m d a b => some (encV3 0x20 d a b (vMinor ty m 1))
  | .vmul ty m d a b => some (encV3 0x20 d a b (vMinor ty m 2))
  | .vfma ty m d a b => some (encV3 0x20 d a b (vMinor ty m 3))
  | .vmin ty m d a b => some (encV3 0x20 d a b (vMinor ty m 4))
  | .vmax ty m d a b => some (encV3 0x20 d a b (vMinor ty m 5))
  | .vand ty m d a b => some (encV3 0x20 d a b (vMinor ty m 6))
  | .vor ty m d a b => some (encV3 0x20 d a b (vMinor ty m 7))
  | .vxor ty m d a b => some (encV3 0x20 d a b (vMinor ty m 8))
  | .vshl ty m d a b => some (encV3 0x20 d a b (vMinor ty m 9))
  | .vshr ty m d a b => some (encV3 0x20 d a b (vMinor ty m 10))
  | .vdot ty m d a b => some (encV3 0x20 d a b (vMinor ty m 11))
  | .vsel ty m d a b => some (encV3 0x20 d a b (vMinor ty (some m) 12))
  | .vperm ty m d a b => some (encV3 0x20 d a b (vMinor ty m 13))
  | .vcmp cc ty m d a b => some (packRR 1 0x21 (mregField d) 0 (vregField a) 0 (vregField b) (minorOf (vMinor ty m cc.code)))
  | .vred op ty m d a => some (packRR 1 0x22 (regField d) 0 (vregField a) 0 0 (minorOf (vMinor ty m op.code)))
  | .vexp2 ty m d a => some (packRR 1 0x23 (vregField d) 0 (vregField a) 0 0 (minorOf (vMinor ty m 0)))
  | .vrcp ty m d a => some (packRR 1 0x23 (vregField d) 0 (vregField a) 0 0 (minorOf (vMinor ty m 1)))
  | .vrsq ty m d a => some (packRR 1 0x23 (vregField d) 0 (vregField a) 0 0 (minorOf (vMinor ty m 2)))
  | .vcvt dst src m d a => some (packRR 1 0x23 (vregField d) 0 (vregField a) 0 (BitVec.ofNat 4 src.code)
      (minorOf (vMinor dst m 3)))
  | .vbcast ty d a => some (packRR 1 0x24 (vregField d) (syncBit a.sync) (regField a.reg) 0 0 (minorOf (ty.code * 128)))
  | .vmovg ty d a lane => some (packRR 1 0x25 (regField d) 0 (vregField a) 0 0 (minorOf (ty.code * 128 + lane.toNat)))
  | .mand d a b => some (packRR 1 0x26 (mregField d) 0 (mregField a) 0 (mregField b) 0)
  | .mor d a b => some (packRR 1 0x26 (mregField d) 0 (mregField a) 0 (mregField b) 1)
  | .mnot d a => some (packRR 1 0x26 (mregField d) 0 (mregField a) 0 0 2)
  | .mpop d a => some (packRR 1 0x26 (regField d) 0 (mregField a) 0 0 3)
  | .memoryReply _ _ | .registerDelivery _ | .launchRecord _ _ | .packetExpansion _ | .packetDispatch _ _ | .packetAging _ _ _ => none
  | .doneWrite _ _ | .migration _ | .migrationArrival _ | .activeMessageArrival _ _ _ | .serverRunStart _ _ | .feHomeOperation _ _ => none
  | .feListServe _ _ | .sendArrival _ _ _ | .sendRetry _ _ _ | .ringBufferDrain _ _ | .lrwRetry _ _ | .remoteUpdate _ _ => none
  | .forwardedRead _ _ _ | .invalidation _ _ _ | .l1Eviction _ _ _ | .sliceEviction _ _ | .getS _ _ _ _ | .getM _ _ _ _ _ => none
  | .walk _ _ | .ptclrWrite _ _ | .l2Uncorrectable _ _ _ | .sectorPin _ _ _ | .shellAckTimeout _ _ | .coreFailed _ _ | .addmPerform _ _ => none
  | .sreq _ _ _ _ | .sgnt _ _ _ _ _ | .pourMessage _ _ _ _ _ _ _ _ | .pack _ _ _ _ _ | .fpr _ _ _ _ | .fpd _ _ _ _ _ _ _ | .srev _ _ _ _ => none
  | .sret _ _ _ _ _ _ _ _ | .tadd _ _ _ _ _ _ | .tack _ _ _ _ | .boundedLoad _ _ | .steepDisable _ | .colourPour _ _ _ | .copyBeat _ _ => none
  | .copyComplete _ _ | .matrixJobPick _ _ | .matrixGroup _ _ | .matrixJobComplete _ _ | .matrixPoison _ _ | .mxstExecute _ _ => none
  | .accrclWrite _ _ _ | .recordWriteDone _ _ | .tqheadWrite _ _ | .tqbaseWrite _ _ | .wakeResume _ _ | .wakeKillThread _ _ => none
  | .wakeKillContext _ _ | .wakeUnservable _ _ | .scrubComplete _ | .deliveryRetry _ | .syshRun _ _ | .gangSwitch _ | .coreDrained _ _ => none
  | .worldExchange _ | .gangResume _ | .dumpComplete _ | .tbindBind _ _ _ | .tbindUnbind _ _ _ | .lognWatchdog _ | .logvioWrite _ _ _ => none
  | .uncorrectableError _ | .relctlPrst _ | .partitionReset _ | .resetWipe _ | .resetComplete _ | .remoteRequest _ => none
  | .remoteErrorReply _ _ | .destinationUnreachable _ _ | .collContribution _ _ | .collComplete _ _ | .collTimeout _ _ | .marker _ _ => none
  | .capturePulse _ | .snapshotCut _ | .captureResume _ | .pageCopy _ _ | .snapshotWriter _ | .snapshotNotice _ _ _ _ _ | .snaprstGo _ _ => none
  | .restoreComplete _ | .hostAccess _ _ _ | .getVersion _ | .getCapabilities _ | .negotiateAlgorithms _ | .getDigests _ => none
  | .getCertificate _ | .challenge _ _ | .getMeasurements _ _ _ | .keyExchange _ | .finish _ | .endSession _ => none
  | .vendorDefinedRequest _ _ _ _ | .getTdispVersion _ _ | .getTdispCapabilities _ _ | .lockInterfaceRequest _ _ => none
  | .getDeviceInterfaceReport _ _ | .getDeviceInterfaceState _ _ | .startInterfaceRequest _ _ | .stopInterfaceRequest _ _ => none
  | .lifeCycleWipeComplete _ | .configChange _ _ | .linkInterval _ | .perfctlPreset _ _ | .clockThrottle _ | .powerOnReset => none
  | .partitionInService _ _ | .scrubPass _ | .idranRegisterAccess _ _ _ _ | .corePowerGating _ _ _ | .pcntWrap _ _ _ => none
  | .traceTimeCondition _ _ | .syncRecord _ _ => none

end Sys2Proof
end

