-- ==== Sys2Proof/Machine/State.lean ====
section
/-! DEFINITION. The state of the module as plain data: its sixteen partitions with their cores, threads, caches, engines,
dispatcher, trap queue, tasters, collectives, snapshots and tenancy, the memory behind them, and the steps that are due. -/
namespace Sys2Proof.Machine

/-! ## Reasons to stop -/

/-- Why a step stops with a fault of the model (the part's own precise faults are taken by the thread: they are next states). -/
inductive Fault where
  /-- Raised by the meaning of an encoded word when the state names no thread that issues it: an encoded word has an effect
  only as the word of some thread (R16). Safe: no claim about a next state follows from it. -/
  | noThread
deriving DecidableEq, Repr

/-- Why a step is refused. -/
inductive Refusal where
  /-- Raised by an arm of exec whose instruction has no meaning yet, by its mnemonic. Safe: nothing can be proved of it. -/
  | notModelled (mnemonic : String)
deriving DecidableEq, Repr

/-! ## Maps and memory -/

/-- A finite map from numbers, in strictly rising order of its keys. -/
abbrev KMap (α : Type) := List (Nat × α)

/-- The bytes of every memory of the module: cell key and byte, keys strictly rising, no zero byte listed. The key of a byte
is ((4·p + space) · 2^48) + offset for partition p, where space 0 is the memory modules (offset: physical address), 1 the
TCMs (offset: core · 2^17 + TCM offset), 2 the scratchpads (cluster · 2^22 + offset) and 3 the shared SRAM. -/
abbrev Memory := List Host.Cell

/-! ## Threads -/

/-- The general registers and their full bits (R10, R13). -/
structure Regs where
  g : Vector Word 16
  full : Vector Bool 16
deriving DecidableEq, Repr

/-- What a record of a taster's log says (R331). -/
inductive LogItem where
  | val (d : Reg) (v : Word)
  | addr (a : Word)
  /-- the stamp that the line read carried: taster core and sequence -/
  | stamp (core : CoreId) (seq : Nat)
  /-- the watched write before it leaves its record's stamp in the line (R335) -/
  | leave (line : Nat)
  | load (d : Reg) (size : Nat) (v : Word)
  | store (d : Reg) (size : Nat) (v : Word)
  | flow (target : Word)
  | atom (kind : Nat) (d : Reg) (v : Word)
  | mark (kind : Nat) (v : Option Word)
  | vec (r : Nat) (v : Word)
  /-- the record of a VST or a VSCAT: the same bytes (R331) -/
  | vecStore (r : Nat) (v : Word)
  | maskw (r : Nat) (v : Word)
  | delivered (r : Reg) (v : Word)
deriving DecidableEq, Repr

/-- What takes effect together when a bundle commits (R18). -/
structure Commit where
  /-- register writes, each with its full bit set -/
  regs : List (Reg × Word)
  /-- full bits cleared by synchronised reads -/
  clears : List Reg
  /-- the destination that DLG empties (R159) -/
  empties : List Reg
  /-- the sticky flags set: NV DZ OF UF NX -/
  flags : BitVec 5
  /-- the word an MTS STATUS writes (R12) -/
  status : Option Word
  vregs : List (VReg × BitVec 512)
  mregs : List (MReg × BitVec 64)
  /-- the target of a taken transfer -/
  target : Option Word
  log : List LogItem
  /-- cycles from issue to the reply (R21, R93, R101, R196); 0 for a fixed latency (R20) -/
  lat : Nat
deriving DecidableEq, Repr

/-- A commit with nothing in it. -/
def Commit.none : Commit :=
  { regs := [], clears := [], empties := [], flags := 0, status := .none, vregs := [], mregs := [], target := .none, log := [], lat := 0 }

/-- Which record a reply adds to the log when it comes (R331). -/
inductive ReplyLog where
  | nothing
  | load (size : Nat)
  | atom (kind : Nat)
deriving DecidableEq, Repr

/-- A bundle that waits for a reply: what commits when it comes, and where the reply's value goes (R21, R25). -/
structure Pend where
  commit : Commit
  dest : Option Reg
  log : ReplyLog
  /-- the load type of the reply's value: a load of a remote address extends it at the requester (R115, R370) -/
  ty : Option LdType
  /-- the address whose error reply takes the poison fault (R370), and whether a large leaf has translated it (R256) -/
  addr : Word
  big : Bool := false
  /-- the bundle's size in bytes and its raw words -/
  size : Nat
  words : List (BitVec 32)
  /-- the cycle before which the bundle does not commit: the other word's own reply time (R93, R101) -/
  notBefore : Nat := 0
deriving DecidableEq, Repr

/-- What a thread out of the rotation waits for (R137, R322). Every wait but `reply` reissues its bundle. -/
inductive Wait where
  /-- a synchronised read of an empty register (R14) -/
  | regs (rs : List Reg)
  /-- a reply that another unit sends (R21) -/
  | reply
  /-- the condition of a FENCE (R248), also inside other words -/
  | fence (sc : Scope)
  /-- the acknowledgements of POUR, wider than .thr or not (R249), and that of a CWB on a steep line (R252) -/
  | pours (wide : Bool)
  | pack (line : Nat)
  /-- the reply of the pair's arithmetic word, for a word that takes effect at the bundle's commit; also, with the cycle of its issue, the turn
  of a word that the waits of its cycle order (R93, R294, R353) -/
  | late (due : Nat)
  /-- a containment point's acknowledgement: the MARK's sequence (R334) -/
  | ack (seq : Nat)
  /-- RECV on an empty ring, since a cycle: RECVs are served in the order they issued (R157) -/
  | recv (since : Nat)
  /-- a copy job, a matrix job, a collective (R286, R375) -/
  | copy (seq : Nat)
  | matrix (seq : Nat)
  | coll (seq : Nat)
  /-- MXR until its slot has no pending entry (R301) -/
  | mxr (slot : Nat)
  /-- RNGI until no queued job names the ring (R293) -/
  | ringFree (ring : RingId)
  /-- LOGN: the next record, or the named taster's ACK (R353) -/
  | record
  | stamp (core : CoreId) (seq : Nat) (since : Nat)
  /-- a full queue that holds the bundle back (R166, R257, R265, R374) -/
  | queue
  /-- SRD or VSRD on a stream without enough bytes (R292) -/
  | stream (s : SReg) (n : Nat)
  /-- the unbinding MTS TBIND (R328) -/
  | unbind
  /-- a write held by the page copier (R389) -/
  | page (page : Nat)
  /-- AMSG until its message can enter the fabric (R138, R322) -/
  | inject
deriving DecidableEq, Repr

/-- A stream register (R270). -/
structure Stream where
  bound : Bool
  /-- no more bytes will arrive -/
  ended : Bool
  buf : List Byte
deriving DecidableEq, Repr

def Stream.unbound : Stream := { bound := false, ended := false, buf := [] }

/-- The strainer's three values for a thread, and the check skipped once after a WAKE (R113, R326). -/
structure Strainer where
  g : BitVec 12
  d : BitVec 12
  c : BitVec 12
  skip : Bool
  /-- the thread has committed a BLK, from which on C accumulates -/
  on : Bool
  /-- parked by a mismatch, until its WAKE (R326) -/
  parked : Bool
deriving DecidableEq, Repr

/-- A trap-queue record (R316), less its SEQ and TSTAMP, which posting adds. -/
structure TrapRec where
  code : Nat
  cls : Nat
  ctx : BitVec 8
  core : Nat
  slot : Nat
  tid : Nat
  corr : BitVec 32
  pc : Word
  addr : Word
  d0 : Word
  d1 : Word
  d2 : Word
  seq : Nat
  ts : Nat
deriving DecidableEq, Repr

/-- A 128-byte line held by a fetch buffer or an L1 instruction cache (R250). -/
structure CodeLine where
  line : Nat
  dom : Nat
  bytes : BitVec 1024
  /-- filled through a large leaf (R256) -/
  big : Bool := false
deriving DecidableEq, Repr

/-! ## Caches and translation -/

/-- MOESI states of an L1 copy; state A is kept with the holders (R207, R218). -/
inductive Moesi where
  | m | o | e | s
deriving DecidableEq, Repr

/-- A taster stamp (R335). -/
structure Stamp where
  core : CoreId
  seq : Nat
deriving DecidableEq, Repr

/-- A line of an L1 data cache. `Memory` always holds the newest bytes; `old` holds the home's bytes of the dirty sectors,
which a fetch fill sees until the sectors leave the L1 (R207, R208, R250). -/
structure L1Line where
  line : Nat
  st : Moesi
  valid : BitVec 2
  dirty : BitVec 2
  dom : Nat
  /-- cell key of the line's first byte -/
  key : Nat
  stamp : Option Stamp
  old : BitVec 1024
deriving DecidableEq, Repr

/-- A line of an L2 slice with its directory entry (R197, R206). Its bytes are those of its frame. -/
structure SliceLine where
  line : Nat
  dom : Nat
  /-- cell key of the frame's bytes -/
  key : Nat
  big : Bool
  way : Nat
  dirty : Bool
  sharers : List CoreId
  /-- sectors that the network endpoint owns (R208) -/
  endpoint : BitVec 2
  stamp : Option Stamp
  /-- in a locked way (R213) -/
  pinned : Bool
deriving DecidableEq, Repr

/-- A translation: a leaf of the page tables (R202). -/
structure Leaf where
  /-- virtual page number: VA[56:16] of its first 64 KiB -/
  page : Nat
  big : Bool
  /-- physical address of the page -/
  pa : Nat
  dom : Nat
  steep : Bool
  sfmt : Nat
  slim : Nat
  nx : Bool
  ro : Bool
  snap : Nat
  /-- cell key of the leaf's entry -/
  pte : Nat
deriving DecidableEq, Repr

/-- An entry of a PLB (R200), most recently used first in its list. -/
structure PlbEntry where
  leaf : Leaf
  ctx : BitVec 8
  domValid : Bool
  rights : BitVec 4
deriving DecidableEq, Repr

/-- A holder of a steep line in state A (R218). -/
structure Holder where
  line : Nat
  dom : Nat
  key : Nat
  fmt : Nat
  p : BitVec 1024
  g : BitVec 32
  f : BitVec 32
  share : BitVec 32
  colour : Bool
deriving DecidableEq, Repr

/-- An ADDM in a core's steep queue (R257), and what it waits for at the holder. -/
structure AddmReq where
  tid : Nat
  line : Nat
  off : Nat
  a : Word
  fmt : Nat
  slim : Nat
  dom : Nat
  key : Nat
  /-- 0 not begun, 1 waits for SGNT, 2 for PACK, 3 for TACK -/
  phase : Nat
  /-- counted as an access to its home slice (R140) -/
  counted : Bool := false
deriving DecidableEq, Repr

/-- What the home of a steep line keeps (R218), and a bounded load that waits for forced pours (R225). -/
structure SteepHome where
  line : Nat
  dom : Nat
  key : Nat
  fmt : Nat
  /-- the page's SLIM, and the limit L that its entry gave when the holder set last emptied (R221, R230) -/
  slim : Nat
  limit : BitVec 32
  u : BitVec 32
  shares : List (CoreId × BitVec 32)
  /-- the pour buffer: holder, colour, partials (R224, R229) -/
  buf : List (CoreId × Bool × BitVec 1024)
  forcing : List CoreId
  load : Option BoundedReq
  deferred : List Instr
  /-- a share request that waits for the revocation of a holder (R221) -/
  revoking : Option CoreId
deriving DecidableEq, Repr

/-! ## Engines -/

/-- The shape of a ring (R271). -/
structure Shape where
  slots : Nat
  base : Nat
  tstr : Nat
  rstr : Nat
  fmt : Nat
  estr : Nat
  cols : Nat
  rows : Nat
deriving DecidableEq, Repr

/-- A ring register (R272). -/
structure Ring where
  shape : Option Shape
  head : Nat
  count : Nat
deriving DecidableEq, Repr

/-- A value format of an engine operand: an IEEE format or a narrow descriptor (R71). -/
inductive NumFmt where
  | f32 | f16 | bf16
  | nf (desc : Word)
deriving DecidableEq, Repr

/-- A matrix operand as bound at its MXQ (R297). -/
structure Operand where
  ring : RingId
  shape : Shape
  fmt : NumFmt
  /-- address of the block scales, when SCALED (R277) -/
  scale : Option Word
deriving DecidableEq, Repr

/-- A matrix job (R297). -/
structure MxJob where
  seq : Nat
  slot : Nat
  sr : Semiring
  na : Bool
  nb : Bool
  az : Bool
  pop : Pop
  a : Operand
  b : Operand
  tid : Nat
  corr : BitVec 32
  ctx : BitVec 8
deriving DecidableEq, Repr

/-- An entry of a core's matrix queue (R265): a job, an MXZ, an MXST. -/
inductive MxEntry where
  | job (j : MxJob)
  | zero (slot tid : Nat) (corr : BitVec 32)
  | store (slot tid : Nat) (corr : BitVec 32) (ctx : BitVec 8) (va : Word) (pages : List Leaf)
deriving DecidableEq, Repr

/-- A job that the engine has picked (R267, R274): the tiles it reads, its next group, the slot's value when it started, and the exact
sums of its checksum as pairs m, e for m · 2^e (R279). -/
structure MxRun where
  core : CoreId
  job : MxJob
  slotA : Nat
  slotB : Nat
  group : Nat
  cin : KMap (BitVec 32)
  malformed : Bool
  /-- an operand or a cell at the start is NaN or infinite -/
  special : Bool
  cs : List (Int × Int)
  mag : List (Int × Int)
  /-- discarded: its slot is poisoned (R281) -/
  disc : Bool
  /-- CHK and the first mismatching column, decided at the last group -/
  chk : Nat
  column : Nat
  /-- the cycle in which it completes, once the last group has been entered (R275) -/
  due : Nat
deriving DecidableEq, Repr

/-- An accumulator slot (R278, R283): 4,096 cells, keyed 64i + j; cells not listed are +0. -/
structure AccSlot where
  cells : KMap (BitVec 32)
  tid : Nat
  tagged : Bool
  /-- its tagged thread has retired by EXIT with jobs on the slot: the tag goes with the last of them -/
  exited : Bool
  orphaned : Bool
  poisoned : Bool
  pend : Nat
  malf : Bool
  disc : Bool
  chk : Nat
  mism : Bool
  unch : Bool
  /-- an ACCRCL that waits for PEND to reach 0 -/
  reclaim : Bool
deriving DecidableEq, Repr

/-- The three forms of copy with their parameters (R288 to R290). -/
inductive CopyForm where
  | lin (n : Nat)
  | rows (sstr dstr rows rlen : Nat)
  | gather (cnt lsz : Nat)
deriving DecidableEq, Repr

/-- A copy in a core's copy queue (R265, R266). -/
structure CopyJob where
  seq : Nat
  form : CopyForm
  dst : Word
  src : Word
  ctx : BitVec 8
  priv : Bool
  corr : BitVec 32
  tid : Nat
  slot : SlotId
  stream : Option SReg
  pages : List Leaf
  /-- bytes of the copy already moved, counted over its whole sequence of bytes -/
  pos : Nat
  /-- words of the destination, by address divided by 8, in which bytes are placed (1), or that a failed or skipped beat leaves (2) -/
  placed : KMap (BitVec 8)
  awaiting : Nat
  finished : Bool
deriving DecidableEq, Repr

/-- A RED under way (R166). -/
structure RedReq where
  src : TRef
  tid : Nat
  corr : BitVec 32
  ctx : BitVec 8
  key : Nat
  line : Nat
  op : AmoOp
  sz : AmoSize
  v : Word
  /-- the cycle of its issue: messages on MSG keep their order (R138) -/
  sent : Nat := 0
deriving DecidableEq, Repr

/-- A collective in flight (R373 to R378). -/
structure Coll where
  seq : BitVec 22
  /-- the issuing core, whose windows the addresses name -/
  core : CoreId
  rank : Nat
  gsize : Nat
  root : Nat
  insw : Bool
  red : Nat
  ty : Nat
  op : Nat
  count : Nat
  src : Word
  dst : Word
  stage : Word
  tmo : Nat
  tag : BitVec 32
  ctx : BitVec 8
  priv : Bool
  corr : BitVec 32
  members : List (BitVec 16 × PartId)
  pages : List Leaf
  /-- the timestamp at its start, and the blocks that have arrived by rank -/
  started : Nat
  got : KMap (List Byte)
  mismatch : Bool
  /-- the rank that is missing, once that has been decided (R378) -/
  missed : Option Nat
deriving DecidableEq, Repr

/-- Which block of a collective a message carries (R373): the collective's TAG and GSIZE, the sender and its rank, and the rank that it is for. -/
structure BlockKey where
  tag : BitVec 32
  gsize : Nat
  rank : Nat
  toRank : Nat
  srcMod : BitVec 16
  src : PartId
deriving DecidableEq, Repr

def blockOf (m : CollMsg) : BlockKey :=
  { tag := m.tag, gsize := m.gsize, rank := m.rank, toRank := m.toRank, srcMod := m.srcMod, src := m.src }

/-- The key of the block that a rank sends to a collective; none where the group has no such rank. -/
def Coll.blockKey (c : Coll) (r : Nat) : Option BlockKey :=
  (c.members[r]?).map (fun m => { tag := c.tag, gsize := c.gsize, rank := r, toRank := c.rank, srcMod := m.1, src := m.2 })

/-- Work that a bundle has prepared and enqueues once its fence is met, or reads once its ring is free (R287, R293, R297, R300, R374): its checks are made once, at issue. -/
inductive Prepared where
  | copy (j : CopyJob)
  | matrix (e : MxEntry)
  /-- a collective, or the id alone of one that ends at once with STATE 2 -/
  | coll (c : Option Coll)
  /-- the pages of a shape record that RNGI has checked (R293) -/
  | shape (pages : List Leaf)
deriving DecidableEq, Repr

/-! ## A thread's context -/

/-- A thread (R10, R24, R136, R140, R168, R309). -/
structure Thread where
  regs : Regs
  /-- the address of the word or pair to issue next: 57 bits, as a canonical 64-bit address; after an ERET the unchecked EPC (R349) -/
  pc : Word
  status : Word
  fa : Word
  fb : Word
  fc : Word
  xa : Word
  xb : Word
  v : Vector (BitVec 512) 8
  m : Vector (BitVec 64) 4
  tid : Nat
  /-- what MFS TID returns: in a server run the requester's TID (R158) -/
  shownTid : Nat
  corr : BitVec 32
  ctx : BitVec 8
  pin : Bool
  dset : Nat
  /-- the launch record whose packet created the thread (R130) -/
  launch : Option Nat
  strain : Strainer
  /-- the remote-access counters: home and count (R140) -/
  homes : List (Nat × Nat)
  accesses : Nat
  /-- a migration requested: towards slice h by the counters or a MIGR (h), to the bank core of slice h by an AMO (16 + h) -/
  migrate : Option Nat
  epc : Word
  ecause : Word
  eaddr : Word
  streams : Vector Stream 4
  wait : Option Wait
  /-- the sources as read at issue, while the bundle waits (R17) -/
  latch : Option Regs
  pend : Option Pend
  /-- parked by a fatal record, by PARK or by a dump, until a WAKE (R313, R350) -/
  parked : Bool
  /-- dropped by a page fault, with the record posted for it (R26, R312) -/
  dropped : Option TrapRec
  /-- a cause that parks the thread at its next issue (R325), and the data addresses of delegations that failed (R159) -/
  parkAt : Option Nat
  delegFailed : List Word
  /-- the cycle in which a PARK last reached the thread (R355) -/
  parkedIn : Option Nat
  /-- the reservation line held or waited for (R162) -/
  resv : Option Nat
  /-- registers awaiting a delivery, and what was delivered in the cycle `arrivedIn` (R85) -/
  awaiting : List Reg
  arrived : List (Reg × Word)
  arrivedIn : Nat
  /-- copies (false) and matrix jobs (true) not yet waited on (R141) -/
  jobs : List (Bool × Nat)
  /-- the request this server run serves (R158) -/
  serves : Option ActiveMsg
  /-- a SYSH run of slot 0 (R320) -/
  sysh : Bool
  /-- the first cycle in which the thread may issue (R20, R21) -/
  readyAt : Nat
  /-- the words of the bundle issued last, which a wait keeps (R17), and the cycle of its issue (R21) -/
  issued : List (BitVec 32)
  issuedIn : Nat
  /-- what the waiting bundle enqueues once its fence is met -/
  prepared : Option Prepared
  fetchBuf : List CodeLine
  /-- the containment MARK already written by the bundle that waits: kind and sequence (R334) -/
  mark : Option (Nat × Nat)
  /-- the barrier arrival counted: word key and generation (R161, R322) -/
  barGen : Option (Nat × Nat)
  /-- the slot's current address of R331, on the worker's side -/
  logAddr : Word
  /-- the taster side took MARK kind 4 for the running capture (R387) -/
  captured : Bool
deriving DecidableEq, Repr

/-- What a slot of a core holds (R120, R142, R314). -/
inductive Slot where
  | thread (t : Thread)
  /-- reserved for a migration message under way, with the context that it carries (R142) -/
  | reserved (t : Thread)
  /-- a killed thread's slot until the scrub ends (R314) -/
  | scrub (tid : Nat)
  /-- freed in this cycle: it may receive a thread in the next (R137) -/
  | freed
deriving DecidableEq, Repr

/-! ## Cores and clusters -/

/-- A taster's log, kept with its worker (R328 to R335). -/
structure LogState where
  /-- sequence of the last record written -/
  seq : Nat
  /-- byte offset of the next record in the ring -/
  wr : Nat
  /-- sequence and length of the records not yet acknowledged -/
  unacked : List (Nat × Nat)
  /-- highest sequence a LOGN has taken, and the offset of the next record to take -/
  taken : Nat
  rd : Nat
  /-- each slot's current address on the taster's side (R331) -/
  addrs : KMap Word
  /-- tasters whose stamps the log remembers, most recent first (R335) -/
  stamped : List (CoreId × Nat)
  /-- slot and sequence of each thread-start MARK (R336) -/
  starts : KMap Nat
  /-- sequence and target of the FLOW records not yet taken: a FLOW holds a delta from its bundle's address (R331) -/
  flows : KMap Word
deriving DecidableEq, Repr

def LogState.empty : LogState :=
  { seq := 0, wr := 0, unacked := [], taken := 0, rd := 0, addrs := [], stamped := [], starts := [], flows := [] }

/-- What of a core belongs to the running world: a gang switch saves it, installs it, or sets it to its reset (R321, R322). -/
structure CoreWorld where
  slots : KMap Slot
  /-- the slot that issued most recently (R121) -/
  lastSlot : Nat
  rxHead : BitVec 9
  rxTail : BitVec 9
  rxBuf : List SendMsg
  serverQ : List ActiveMsg
  landing : List Thread
  updateQ : List RedReq
  outQ : List RedReq
  steepQ : List AddmReq
  inbox : List Delivery
  copyQ : List CopyJob
  mxQ : List MxEntry
  copyNext : Nat
  copyDone : Nat
  mxNext : Nat
  mxDone : Nat
  cpyst : Word
  tbind : Word
  loglim : Word
  loght : Word
  logseq : BitVec 32
  /-- the last LOGA: its cycle, and the ACK before it (R355) -/
  ackIn : Nat
  ackWas : BitVec 32
  log : LogState
  pcnt : Vector Word 4
  psel : Word
  trcctl : Word
  trcptr : Word
  trctrg : Word
  /-- trace records since the last sync record, and the cycle of that record (R418) -/
  trcRecs : Nat
  trcSync : Nat
  /-- the ring was full with WRAP = 0: no record is written until OFF is rewritten (R418) -/
  trcStopped : Bool
deriving DecidableEq, Repr

/-- What of a core belongs to no world. -/
structure CoreFixed where
  l1d : List L1Line
  l1i : List CodeLine
  plb : List PlbEntry
  holders : List Holder
  strctl : Word
  sysh : Word
  trcbase : Word
  trcpc : Word
  trctime : Word
  failed : Bool
  gated : Bool
  /-- the fatal record in the core's holding register (R318) -/
  held : Option TrapRec
  /-- fatal causes not yet formed because the register is full (R318) -/
  unformed : List TrapRec
  /-- addresses of records for which SYSH is still to run (R320) -/
  syshQ : List Word
  /-- the cycles in which the fills of the busy prefetch slots end (R255) -/
  prefetches : List Nat
  /-- cycle in which the vector unit last accepted a word (R173) -/
  vecAt : Option Nat
  /-- cycle in which the barrel last issued (R121, R412) -/
  issuedAt : Option Nat
  /-- trace conditions that held in this cycle, and the records it would write: kind, slot, pc, CORR (R417, R418) -/
  trcNow : List Nat
  trcBuf : List (Nat × Nat × Word × BitVec 32)
  /-- the trace unit's buffer of 32 records, their two words, that wait to be written (R418) -/
  trcOut : List (Word × Word)
deriving DecidableEq, Repr

structure Core where
  w : CoreWorld
  c : CoreFixed
deriving DecidableEq, Repr

/-- A work packet (R132). -/
structure Packet where
  entry : Word
  corr : BitVec 32
  dset : Nat
  ctx : BitVec 8
  prio : Fin 4
  pin : Bool
  clu : ClusterId
  args : Vector Word 4
  enq : Nat
  slotn : BitVec 13
  launch : Nat
deriving DecidableEq, Repr

/-- What an access of a thread has asked of a scratchpad in this cycle: its banks, and the cycles that it waits for them (R195). -/
structure BankUse where
  core : CoreId
  slot : SlotId
  wait : Nat
  banks : List Nat
deriving DecidableEq, Repr

/-- What of a cluster belongs to the world (R271 to R278). -/
structure ClusterWorld where
  rings : Vector Ring 16
  acc : KMap AccSlot
  copyLast : Nat
  mxLast : Nat
  /-- the job in the engine, and jobs past their last group that are not complete, oldest first -/
  run : Option MxRun
  drain : List MxRun
  /-- the core whose MXST the engine has picked and not yet stored (R267, R300) -/
  storing : Option CoreId
  /-- the threads' accesses of this cycle to the scratchpad's banks (R195) -/
  banks : List BankUse
  /-- by bank: the cycles in which the requests that wait there came, oldest first (R195, R276) -/
  bankQ : KMap (List Nat)
  /-- the banks that the matrix engine reads in this cycle (R276) -/
  bankEng : List Nat
  /-- the copy beat that waits for its banks: its core, and the cycle in which they serve it (R276) -/
  copyDue : Option (CoreId × Nat)
deriving DecidableEq, Repr

structure Cluster where
  w : ClusterWorld
  queues : Vector (List Packet) 4
  engctl : Word
  outOfService : Bool
deriving DecidableEq, Repr

/-! ## Partition units -/

/-- A launch record as read at acceptance (R123, R126). -/
structure Launch where
  id : Nat
  slot : BitVec 13
  corr : BitVec 32
  ctx : BitVec 8
  prio : Fin 4
  pin : Bool
  entry : Word
  count : Nat
  clmask : BitVec 32
  shadows : Vector Word 5
  args : Vector Word 4
  done : Word
  seq : BitVec 32
  /-- the next packet to expand, the descriptor set, threads of the record that have ended -/
  next : Nat
  dset : Option Nat
  ended : Nat
deriving DecidableEq, Repr

/-- The two wait lists of a full/empty word (R149). -/
structure FeLists where
  full : List FeReq
  empty : List FeReq
deriving DecidableEq, Repr

/-- A waiting or holding thread of a reserved line (R162). -/
structure Waiter where
  who : TRef
  tid : Nat
  key : Nat
deriving DecidableEq, Repr

/-- A locked way (R212, R213): its set, as slice · 2048 + set; the cell key of the line pinned in it, or none where it is quarantined. -/
structure Pin where
  set : Nat
  way : Nat
  key : Option Nat
deriving DecidableEq, Repr

/-- The control registers of a partition that hold plain fields (R145, R215, R230, R346, R369, R379, R382, R407). -/
structure PRegs where
  lwbase : Word
  dspctl : Word
  agei : Word
  migth : Word
  ptroot : Vector Word 4
  dombase : Word
  rtbase : Word
  memctl : Word
  errinj : Word
  slim : Vector Word 16
  steepq : Word
  steepctl : Word
  ctxbase : Word
  tqbase : Word
  gswt : Word
  wscur : Word
  wsnext : Word
  relctl : Word
  xport : Word
  collctl : Word
  snapctl : Word
  snapdom : Word
  caddy : Word
  caddyp : Word
  snapstg : Word
  snaprst : Word
  snapn : BitVec 16
  perfctl : Word
  lnkctl : Word
  lnkbase : Word
  vfsel : Word
  shcnt : Vector Word 4
deriving DecidableEq, Repr

/-- The trap queue's engine (R315 to R318). -/
structure TrapQ where
  head : Nat
  tail : Nat
  /-- the entry that the next accepted record is allocated -/
  alloc : Nat
  lost : Nat
  ovf : Bool
  seq : Nat
  /-- allocated entries, whether their words are written, and their records -/
  writing : List (Nat × Bool × TrapRec)
  /-- records posted and not yet decided, with the cycle of their posting, in the order of R318 -/
  posted : List (Nat × TrapRec)
  /-- replayable records held by their units, and fatal records that wait (core, record), in the order held -/
  heldReplay : List TrapRec
  heldFatal : List TrapRec
deriving DecidableEq, Repr

/-- Where the gang switch stands (R321), also used by the drain of a capture (R387). -/
inductive SwitchPhase where
  | idle
  | draining
  | saved
  | restored
deriving DecidableEq, Repr

/-- What a snapshot saves beside a world, unlike a gang switch (R388): the dispatcher with its descriptor sets and wait lists, barrier
waiters, and the collectives. -/
structure Rollback where
  launches : List Launch
  expansion : List Nat
  nextLaunch : Nat
  queues : KMap (Vector (List Packet) 4)
  dsets : KMap (Vector Word 5)
  records : List FeReq
  bars : KMap (List Waiter)
  colls : List Coll
  collNext : Nat
  collDone : List (Nat × Word)
  collEarly : List CollMsg
  collMissed : List BlockKey
deriving DecidableEq, Repr

/-- A world: what a gang switch saves and installs (R321, R322). -/
structure World where
  /-- switched out: saved, and not installed since -/
  out : Bool
  cores : KMap CoreWorld
  /-- what every core not listed holds -/
  idle : CoreWorld
  clusters : KMap ClusterWorld
  spill : List Instr
  /-- register deliveries kept for switched-out threads (R320) -/
  kept : List Delivery
  /-- in a world that a restore has built (R392) -/
  back : Option Rollback
deriving DecidableEq, Repr

/-- A core dump under way or queued (R323). -/
structure Dump where
  ctx : BitVec 8
  first : TrapRec
  extra : List TrapRec
deriving DecidableEq, Repr

/-- The states of SNAPQ (R384). -/
structure SnapEntry where
  n : Nat
  state : Nat
deriving DecidableEq, Repr

/-- Where a capture stands (R387). -/
inductive CapPhase where
  | idle | contain | drain | cut
deriving DecidableEq, Repr

/-- What a snapshot's world image, channel log and SRAM images hold (R388), in the part's own terms. -/
structure SnapImage where
  world : World
  log : List Instr
  sram : Memory
  sramFe : List Nat
  sramPoison : List Nat
deriving DecidableEq, Repr

/-- A party whose write to a captured page waits for the page copier (R389, R395). -/
inductive PageWriter where
  | thread (r : TRef) (tid : Nat)
  | copy (c : CoreId) (seq : Nat)
  | step (i : Instr)
deriving DecidableEq, Repr

/-- The snapshot machinery of a partition (R381 to R393). -/
structure SnapSt where
  table : List SnapEntry
  phase : CapPhase
  n : Nat
  coordMod : BitVec 16
  coordPart : PartId
  corr : BitVec 32
  /-- threads whose SNAP has not met its cut (R383) -/
  issuers : List Nat
  /-- of the last cut: it was full, its timestamp, and the colour before it -/
  full : Bool
  cutTs : Nat
  oldColour : Bool
  /-- channels whose marker for `n` has arrived: the peer's MODID · 16 + partition, and the channel -/
  seen : List (Nat × Chan)
  /-- inputs held until the cut or until the writing ends, and the channel log -/
  held : List Instr
  chanLog : List Instr
  /-- the captured list in ascending order, and the pages of the dirty list -/
  captured : List Leaf
  dirty : List Nat
  /-- pages copied before their write: the page, and its staging frame, or none where its image was taken at the cut -/
  staged : List (Nat × Option Nat)
  /-- writers that wait at a page, in the order of their arrival (R395) -/
  writers : List (Nat × PageWriter)
  /-- the image that the last cut took, until it is written -/
  image : Option SnapImage
  /-- the images written to the caddy, by number, IMGHASH and the key generation they are stored under (R402) -/
  images : List (Nat × BitVec 256 × BitVec 32 × SnapImage)
  /-- notices received: number, peer, written -/
  reported : List (Nat × Nat × Bool)
  /-- the last written snapshot and the unit of its manifest -/
  prev : Nat
  prevOff : Option Nat
  /-- BLK packets sent to each peer since the last cut, received from each peer (peer · 2 + colour), and the number that a peer's BLK
  marker names (R385) -/
  blkSent : KMap Nat
  blkGot : KMap Nat
  blkWant : KMap Nat
deriving DecidableEq, Repr

/-- The TDISP states of R399. -/
inductive Tdisp where
  | unlocked | locked | run | error
deriving DecidableEq, Repr

/-- Where a partition reset stands (R340). -/
inductive ResetPhase where
  | none | refusing | wiped
deriving DecidableEq, Repr

/-- A life-cycle wipe under way (R403): for a LOCK or for a STOP, and whom it answers. -/
structure Wipe where
  lock : Bool
  sess : Nat
deriving DecidableEq, Repr

/-- The frozen configuration of R400: the partition's clusters in service, slices, bank cores, memory links and port, the range of module
addresses, LWBASE, and the caddy's MODE, base and length. -/
structure Frozen where
  part : PartId
  clusters : List Nat
  slices : List Nat
  bankCores : List Nat
  memLinks : List Nat
  port : List Nat
  base : Nat
  limit : Nat
  lwbase : Word
  caddyMode : Bool
  caddyBase : Nat
  caddyLen : Nat
deriving DecidableEq, Repr

/-- Link counters latched at a boundary, whose dump is not yet written (R409): the boundary's timestamp, LNKCTL and LNKBASE as they then stood
(R421), and FLITS and STALL. -/
structure LinkDump where
  ts : Nat
  ctl : Word
  base : Word
  grid : KMap (BitVec 32 × BitVec 32)
deriving DecidableEq, Repr

structure Partition where
  /-- the cores that differ from `idleCore` -/
  cores : KMap Core
  /-- every core that no thread and no register write has touched since the partition's reset: they all count the same
  events (R411) -/
  idleCore : Core
  clusters : KMap Cluster
  r : PRegs
  nextTid : Nat
  /-- threads created, and freed ids with the count at which each was freed (R136) -/
  threadsMade : Nat
  freedTids : List (Nat × Nat)
  /-- launch records that are not yet done, those in the expansion order, the next id, the cycle of the last acceptance -/
  launches : List Launch
  expansion : List Nat
  nextLaunch : Nat
  lastAccept : Option Nat
  /-- launch slots whose SEAL landed and whose record is not yet decided (R125) -/
  sealing : List (BitVec 13)
  dsets : KMap (Vector Word 5)
  fe : KMap FeLists
  bars : KMap (List Waiter)
  resv : KMap (List Waiter)
  /-- LRWs that found the tables of their slice full (R162) -/
  lrwFull : List Waiter
  slices : List SliceLine
  /-- the leaf entries of each slice's translation cache (R204) -/
  tcache : KMap (List Leaf)
  /-- locked and quarantined ways (R212, R213): the list survives a reset -/
  pins : List Pin
  /-- corrected reads of each sector (cell key / 64) since the last scrub pass began (R213) -/
  corrections : KMap Nat
  retired : List Nat
  badTables : List Nat
  steep : List SteepHome
  trap : TrapQ
  gang : SwitchPhase
  ready : List CoreId
  spill : List Instr
  worlds : KMap World
  dumps : List Dump
  colls : List Coll
  collNext : Nat
  /-- statuses of the last 64 collectives to complete (R375) -/
  collDone : List (Nat × Word)
  /-- contributions that came before their COLL, and blocks of failed collectives that are still to come (R378) -/
  collEarly : List CollMsg
  collMissed : List BlockKey
  snap : SnapSt
  tdisp : Tdisp
  owner : Option Nat
  keyGen : BitVec 32
  wipe : Option Wipe
  /-- destinations for which a link key is installed (R404) -/
  linkKeys : List (BitVec 16 × PartId)
  /-- destinations that UET has declared unreachable, until a key is installed for them anew (R372) -/
  unreachable : List (BitVec 16 × PartId)
  /-- the configuration frozen at the LOCK (R400) -/
  frozen : Option Frozen
  /-- a register write of this cycle has changed the frozen configuration: the interface enters ERROR as the next begins (R399) -/
  unfrozen : Bool
  /-- the host address of the partition's event messages, which the Idran controller holds (R397) -/
  hostAddr : Word
  inService : Bool
  /-- the cycle in which a bring-up took the partition into service (R429, R430) -/
  serviceAt : Option Nat
  /-- 64 KiB units behind the port that hold objects of written snapshots (R390, R402) -/
  caddyUnits : List Nat
  rst : ResetPhase
  /-- LWBASE when the reset began (R145) -/
  rstBase : Word
  /-- the running link counters, FLITS and STALL of router r, output d and channel v at 30 · r + 6 · d + v; those latched at boundaries
  whose dump is not yet written, with the boundary's timestamp; and the cycle from which boundaries are counted (R408, R409) -/
  links : KMap (BitVec 32 × BitVec 32)
  grid : List LinkDump
  gridFrom : Nat
  /-- corrected errors counted (R212, R339) -/
  corrected : Nat
deriving DecidableEq, Repr

/-! ## The module -/

/-- What the part sends to the host through a port (R396 to R401, R430). -/
inductive HostMsg where
  /-- an event message of R397: the host address that it is sent to, and its 32 bytes -/
  | event (addr : Word) (bytes : List Byte)
  | readData (p : PartId) (t : BitVec 64) (bytes : List Byte)
  | done (p : PartId) (t : BitVec 64)
  | error (p : PartId) (t : BitVec 64)
  | version (sess : Nat) (major minor : Nat)
  /-- the requests that the responder supports, by name (R398) -/
  | capabilities (sess : Nat) (supported : List String)
  /-- the asymmetric algorithm, the hash and the AEAD of the session (R398) -/
  | algorithms (sess : Nat) (asym hash aead : String)
  | digests (sess : Nat) (d : BitVec 512)
  | certificate (sess : Nat) (c : List Byte)
  | challengeAuth (sess : Nat) (signature : List Byte)
  | measurements (sess : Nat) (index : Nat) (digest : BitVec 512) (signature : List Byte)
  | keyExchanged (sess : Nat) (signature : List Byte)
  | finished (sess : Nat)
  | ended (sess : Nat)
  | vendorDone (sess : Nat)
  | tdispVersion (sess : Nat) (p : PartId)
  | tdispCapabilities (sess : Nat) (p : PartId)
  | locked (sess : Nat) (p : PartId)
  | report (sess : Nat) (p : PartId) (t : Tdisp) (m3 : BitVec 512) (gen : BitVec 32) (signature : List Byte)
  | state (sess : Nat) (p : PartId) (t : Tdisp)
  | started (sess : Nat) (p : PartId)
  | stopped (sess : Nat) (p : PartId)
  | busy (sess : Nat) (p : PartId)
  | spdmError (sess : Nat)
  /-- the value that the Idran controller reads from a register (R145) -/
  | register (p : PartId) (c : CoreId) (r : SysReg) (v : Word)
deriving DecidableEq, Repr

/-- What leaves the module for another module of the job (R368, R372). -/
inductive PortMsg where
  | request (q : RemoteReq)
  /-- the reply to another module's request: a value, an acknowledgement, or an error reply (R370) -/
  | reply (modid : BitVec 16) (r : TRef) (tid : Nat) (ok : Bool) (v : Option Word)
  /-- a register delivery to another module (R159) -/
  | delivery (modid : BitVec 16) (m : Delivery)
  | active (modid : BitVec 16) (part : PartId) (m : ActiveMsg)
  | coll (modid : BitVec 16) (part : PartId) (m : CollMsg)
  | marker (modid : BitVec 16) (part : PartId) (m : MarkerMsg)
  | notice (modid : BitVec 16) (part : PartId) (n : Nat) (ok : Bool)
  /-- the data of another module's source beat (R371) -/
  | beatData (modid : BitVec 16) (r : TRef) (bytes : List Byte)
deriving DecidableEq, Repr

/-- Where an SPDM session stands (R398). -/
inductive SessionPhase where
  | negotiating | keyed | secured
deriving DecidableEq, Repr

/-- An SPDM session (R398): where it stands, and the messages exchanged so far, over which its signatures are made. -/
structure Session where
  phase : SessionPhase
  transcript : List (List Byte)
deriving DecidableEq, Repr

/-- Where a bundle's words stand while they execute (R16 to R18). -/
inductive Phase where
  /-- a lone word, or the first word of a pair -/
  | first
  /-- the second word of a pair: its commit is held -/
  | second
  /-- the second word's commit is held in `hold` -/
  | held
deriving DecidableEq, Repr

/-- The thread whose bundle executes, the bundle's size in bytes, its raw words, and the held commit of the second word. -/
structure Cur where
  at_ : TRef
  size : Nat
  words : List (BitVec 32)
  phase : Phase
  hold : Commit
deriving DecidableEq, Repr

structure State where
  parts : Vector Partition 16
  mem : Memory
  /-- keys (cell key / 8) of the words whose full/empty bit is full, rising -/
  fe : List Nat
  /-- poisoned lines of memory (cell key / 128) and poisoned window words (cell key / 8), rising -/
  poison : List Nat
  poisonW : List Nat
  /-- core cycles since power-on (R4) -/
  cycle : Nat
  /-- the global timestamp in parts of a tick: 720,720 to a tick, so that a cycle of every lowered clock is whole (R4, R426) -/
  time : Nat
  /-- the first place not yet considered in this cycle, with n = partition · 272 + core: n for a core's barrel; after all barrels
  4352 + 16 · n + slot for the wait of a slot; and after those 73984 + 16 · n + slot for a slot's containment wait -/
  scan : Nat
  cur : Cur
  /-- steps of other agents that are due, in order -/
  events : List Instr
  /-- steps that fall due in a later cycle -/
  timers : List (Nat × Instr)
  /-- steps held back in this cycle, in the order of their flows, to be tried first in the next -/
  waiting : List Instr
  /-- W1C bits that hardware has set in this cycle; registers that an MTS has written in it, with the value that each would have
  without the MTS (R355) -/
  hwNow : List (PartId × CoreId × SysReg × Nat)
  mtsNow : List (PartId × CoreId × SysReg × Word)
  /-- the model's own counter of free values: DESIGN CHOICE (log 7) -/
  free : Nat
  modid : BitVec 16
  /-- the firmware images loaded since power-on, by index: of the Idran controller (1) and of the compute dies (2) (R401) -/
  firmware : KMap (List Byte)
  sessions : KMap Session
  hostOut : List HostMsg
  portOut : List PortMsg
  /-- 100 MHz steps by which the clocks are lowered, 0 to 15 (R426) -/
  clockSteps : Nat
  /-- the next partition that power-on brings into service; 16 once all have had their turn (R427) -/
  bringUp : Nat
deriving DecidableEq, Repr

/-! ## The state after reset -/

def Regs.zero : Regs := { g := Vector.replicate 16 0, full := Vector.replicate 16 true }

/-- RXQ, TBIND and the rest of a core's world at their reset values: all zero, but PSEL (preset 1, SMASK all ones, R407, R411)
and TRCCTL (SMASK and KINDS all ones, R416). The barrel starts at slot 0 (R121). -/
def CoreWorld.reset : CoreWorld :=
  { slots := [], lastSlot := 15, rxHead := 0, rxTail := 0, rxBuf := [], serverQ := [], landing := [], updateQ := [],
    outQ := [], steepQ := [], inbox := [], copyQ := [], mxQ := [], copyNext := 0, copyDone := 0, mxNext := 0, mxDone := 0,
    cpyst := 0, tbind := 0, loglim := 0, loght := 0, logseq := 0, ackIn := 0, ackWas := 0, log := LogState.empty,
    pcnt := Vector.replicate 4 0, psel := 0xFFFF000009040302, trcctl := 0x00000000FFFF00FF, trcptr := 0, trctrg := 0,
    trcRecs := 0, trcSync := 0, trcStopped := false }

/-- STRCTL.EN is 1 after reset (R327); everything else is empty or zero. -/
def CoreFixed.reset : CoreFixed :=
  { l1d := [], l1i := [], plb := [], holders := [], strctl := 1, sysh := 0, trcbase := 0, trcpc := 0,
    trctime := 0, failed := false, gated := false, held := none, unformed := [], syshQ := [], prefetches := [], vecAt := none, issuedAt := none, trcNow := [],
    trcBuf := [], trcOut := [] }

def Core.reset : Core := { w := CoreWorld.reset, c := CoreFixed.reset }

def Ring.unbound : Ring := { shape := none, head := 0, count := 0 }

/-- An accumulator slot at reset: idle, untagged, zero, CHK 3 (R278, R283). -/
def AccSlot.reset : AccSlot :=
  { cells := [], tid := 0, tagged := false, exited := false, orphaned := false, poisoned := false, pend := 0, malf := false, disc := false,
    chk := 3, mism := false, unch := false, reclaim := false }

/-- Nothing bound, nothing tagged; the scans of R266 and R267 start at core 0. DESIGN CHOICE (log 42). -/
def ClusterWorld.reset : ClusterWorld :=
  { rings := Vector.replicate 16 Ring.unbound, acc := [], copyLast := 7, mxLast := 7, run := none, drain := [],
    storing := none, banks := [], bankQ := [], bankEng := [], copyDue := none }

/-- ENGCTL: SPWAIT 4, CHKSH 19, CHKEN 1 (R283). -/
def Cluster.reset : Cluster :=
  { w := ClusterWorld.reset, queues := Vector.replicate 4 [], engctl := 0x41301, outOfService := false }

/-- SLIM0 is 0 and SLIMi is (119 + i) · 2^23 (R230). -/
def slimReset (i : Nat) : Word := if i = 0 then 0 else word ((119 + i) * 2 ^ 23)

/-- The partition registers at the Reset column of their maps. VFSEL holds the partition's own number (R415). -/
def PRegs.reset (p : Nat) : PRegs :=
  { lwbase := 0, dspctl := 2, agei := 0x2710, migth := 0x20, ptroot := Vector.replicate 4 0, dombase := 0, rtbase := 0,
    memctl := 0x21, errinj := 0,
    slim := #v[slimReset 0, slimReset 1, slimReset 2, slimReset 3, slimReset 4, slimReset 5, slimReset 6, slimReset 7,
      slimReset 8, slimReset 9, slimReset 10, slimReset 11, slimReset 12, slimReset 13, slimReset 14, slimReset 15],
    steepq := 0x39800000, steepctl := 3, ctxbase := 0, tqbase := 0, gswt := 0, wscur := 0, wsnext := 0, relctl := 0x01000000,
    xport := 0, collctl := 0x1000F4240, snapctl := 1, snapdom := 0, caddy := 0, caddyp := 0, snapstg := 0, snaprst := 0,
    snapn := 0, perfctl := 9, lnkctl := 0x5000000000000000, lnkbase := 0, vfsel := word p, shcnt := Vector.replicate 4 0 }

def TrapQ.reset : TrapQ :=
  { head := 0, tail := 0, alloc := 0, lost := 0, ovf := false, seq := 0, writing := [], posted := [], heldReplay := [],
    heldFatal := [] }

def SnapSt.reset : SnapSt :=
  { table := [], phase := .idle, n := 0, coordMod := 0, coordPart := 0, corr := 0, issuers := [], full := true, cutTs := 0,
    oldColour := false, seen := [], held := [], chanLog := [], captured := [], dirty := [], staged := [], writers := [], image := none,
    images := [],
    reported := [], prev := 0, prevOff := none, blkSent := [], blkGot := [], blkWant := [] }

/-- A partition after power-on reset: in service, CONFIG_UNLOCKED, no threads, DSPCTL.EN = 0 (R428). -/
def Partition.reset (p : Nat) : Partition :=
  { cores := [], idleCore := Core.reset, clusters := [], r := PRegs.reset p, nextTid := 1, threadsMade := 0,
    freedTids := [], launches := [], expansion := [], nextLaunch := 0,
    lastAccept := none, sealing := [], dsets := [], fe := [], bars := [], resv := [], lrwFull := [], slices := [],
    tcache := [], pins := [], corrections := [], retired := [], badTables := [], steep := [], trap := TrapQ.reset, gang := .idle, ready := [],
    spill := [], worlds := [], dumps := [], colls := [], collNext := 0, collDone := [], collEarly := [], collMissed := [], snap := SnapSt.reset,
    tdisp := .unlocked, owner := none, keyGen := 1, wipe := none, linkKeys := [], unreachable := [], frozen := none, unfrozen := false, hostAddr := 0, inService := true, serviceAt := none, caddyUnits := [],
    rst := .none, rstBase := 0, links := [], grid := [], gridFrom := 0, corrected := 0 }

def Cur.reset : Cur :=
  { at_ := { part := 0, core := 0, slot := 0 }, size := 4, words := [], phase := .first, hold := Commit.none }

/-- The module right after power-on reset with all sixteen partitions in service (R427, R428): no threads, every register at
its Reset value, every memory wiped to zero with every full/empty bit empty (R403). DEDUCED (log 41), DESIGN CHOICE (logs 2, 32
and 42). -/
def State.reset : State :=
  { parts := #v[Partition.reset 0, Partition.reset 1, Partition.reset 2, Partition.reset 3, Partition.reset 4,
      Partition.reset 5, Partition.reset 6, Partition.reset 7, Partition.reset 8, Partition.reset 9, Partition.reset 10,
      Partition.reset 11, Partition.reset 12, Partition.reset 13, Partition.reset 14, Partition.reset 15],
    mem := [], fe := [], poison := [], poisonW := [], cycle := 0, time := 0, scan := 0, cur := Cur.reset, events := [], timers := [],
    waiting := [], hwNow := [], mtsNow := [], free := 0, modid := 0, firmware := [], sessions := [], hostOut := [], portOut := [],
    clockSteps := 0, bringUp := 16 }

end Sys2Proof.Machine
end

