-- ==== Sys2Proof/Machine/Mem.lean ====
section
/-! DEFINITION. Finite maps, sets of numbers, and the byte memory behind every memory of the module: reading, writing and
wiping bytes, full/empty bits and poison (00 R2, 01 R22, 12 R193, R212, 21 R339). -/
namespace Sys2Proof.Machine

/-! ## Maps with rising keys -/

def kget {α : Type} : KMap α → Nat → Option α
  | [], _ => none
  | (i, a) :: m, k => if i = k then some a else kget m k

def kput {α : Type} : KMap α → Nat → α → KMap α
  | [], k, v => [(k, v)]
  | (i, a) :: m, k, v => if k < i then (k, v) :: (i, a) :: m else if k = i then (k, v) :: m else (i, a) :: kput m k v

def kdel {α : Type} : KMap α → Nat → KMap α
  | [], _ => []
  | (i, a) :: m, k => if i = k then m else (i, a) :: kdel m k

/-- The values, in rising order of their keys. -/
def kvals {α : Type} (m : KMap α) : List α := m.map (fun e => e.2)

/-- Every value changed by `f`. -/
def kmapVals {α : Type} (f : Nat → α → α) (m : KMap α) : KMap α := m.map (fun e => (e.1, f e.1 e.2))

/-! ## Rising sets of numbers -/

def nmem : List Nat → Nat → Bool
  | [], _ => false
  | i :: l, k => i == k || nmem l k

def nput : List Nat → Nat → List Nat
  | [], k => [k]
  | i :: l, k => if k < i then k :: i :: l else if k = i then i :: l else i :: nput l k

def ndel (l : List Nat) (k : Nat) : List Nat := l.filter (fun i => i != k)

/-! ## Keys of memory cells -/

/-- The first key of space `sp` of partition `p`: 0 the memory modules, 1 the TCMs, 2 the scratchpads, 3 the shared SRAM. DESIGN CHOICE (log 2). -/
def spaceBase (p : PartId) (sp : Nat) : Nat := (4 * p.val + sp) * 2 ^ 48

/-- The key of physical address `pa` of partition `p` (48 bits). DEDUCED (log 3). -/
def keyMain (p : PartId) (pa : Nat) : Nat := spaceBase p 0 + pa % 2 ^ 48
/-- The key of offset `off` in the TCM of core `c`. -/
def keyTcm (p : PartId) (c : CoreId) (off : Nat) : Nat := spaceBase p 1 + c.val * 2 ^ 17 + off
/-- The key of offset `off` in the scratchpad of cluster `k`. -/
def keyScratch (p : PartId) (k : ClusterId) (off : Nat) : Nat := spaceBase p 2 + k.val * 2 ^ 22 + off
/-- The key of offset `off` in the partition's share of the base-die SRAM. -/
def keySram (p : PartId) (off : Nat) : Nat := spaceBase p 3 + off

/-! ## Bytes -/

/-- What an unlisted address reads as: every memory is wiped to zero before it is first used (R403, R340). DESIGN CHOICE (log 2). -/
def unlistedByte : Byte := 0

def memByte : Memory → Nat → Byte
  | [], _ => unlistedByte
  | (i, b) :: m, k => if i = k then b else memByte m k

/-- One byte written; a byte that equals what an unlisted address reads as is not listed. -/
def memSetByte : Memory → Nat → Byte → Memory
  | [], k, v => if v = unlistedByte then [] else [(k, v)]
  | (i, b) :: m, k, v =>
    if k < i then (if v = unlistedByte then (i, b) :: m else (k, v) :: (i, b) :: m)
    else if k = i then (if v = unlistedByte then m else (k, v) :: m)
    else (i, b) :: memSetByte m k v

/-- The canonical form: keys strictly rising, no byte listed that an unlisted address reads as. DESIGN CHOICE (log 2). -/
def Memory.wf : Memory → Bool
  | [] => true
  | [(_, b)] => b != unlistedByte
  | (i, b) :: (j, c) :: m => decide (i < j) && b != unlistedByte && Memory.wf ((j, c) :: m)

/-- The `n`-byte little-endian value at key `k` (R2). -/
def memRead (m : Memory) (k : Nat) : Nat → Nat
  | 0 => 0
  | n + 1 => (memByte m k).toNat + 256 * memRead m (k + 1) n

/-- The low `n` bytes of `v` written at key `k`, little-endian (R2). -/
def memWrite (m : Memory) (k : Nat) : Nat → Nat → Memory
  | 0, _ => m
  | n + 1, v => memWrite (memSetByte m k (BitVec.ofNat 8 v)) (k + 1) n (v / 256)

/-- A list of bytes written from key `k` on. -/
def memWriteBytes (m : Memory) (k : Nat) : List Byte → Memory
  | [] => m
  | b :: l => memWriteBytes (memSetByte m k b) (k + 1) l

/-- The `n` bytes from key `k` on. -/
def memBytes (m : Memory) (k : Nat) : Nat → List Byte
  | 0 => []
  | n + 1 => memByte m k :: memBytes m (k + 1) n

/-- Every byte of keys `lo` to `hi - 1` back to what an unlisted address reads as. -/
def memWipe (m : Memory) (lo hi : Nat) : Memory := m.filter (fun c => decide (c.1 < lo) || decide (hi ≤ c.1))

/-- A rising set less its members from `lo` to `hi - 1`. -/
def nwipe (l : List Nat) (lo hi : Nat) : List Nat := l.filter (fun i => decide (i < lo) || decide (hi ≤ i))

/-! ## The module's memory -/

/-- `MemN[key]` as a word, for N = 8n. -/
def State.readMem (s : State) (k n : Nat) : Word := word (memRead s.mem k n)

/-- `MemN[key] <- v`, for N = 8n. -/
def State.writeMem (s : State) (k n : Nat) (v : Word) : State := { s with mem := memWrite s.mem k n v.toNat }

def State.writeMemBytes (s : State) (k : Nat) (l : List Byte) : State := { s with mem := memWriteBytes s.mem k l }

/-- `FE[key]` (R8): the full/empty bit of the aligned 8-byte word that holds the byte. -/
def State.fullBit (s : State) (k : Nat) : Bool := nmem s.fe (k / 8)

def State.setFullBit (s : State) (k : Nat) (b : Bool) : State :=
  { s with fe := if b then nput s.fe (k / 8) else ndel s.fe (k / 8) }

/-- The line is poisoned (R212). -/
def State.linePoisoned (s : State) (k : Nat) : Bool := nmem s.poison (k / 128)
def State.poisonLine (s : State) (k : Nat) : State := { s with poison := nput s.poison (k / 128) }
def State.unpoisonLine (s : State) (k : Nat) : State := { s with poison := ndel s.poison (k / 128) }

/-- The window word is poisoned (R339). -/
def State.wordPoisoned (s : State) (k : Nat) : Bool := nmem s.poisonW (k / 8)
def State.poisonWord (s : State) (k : Nat) : State := { s with poisonW := nput s.poisonW (k / 8) }
def State.unpoisonWord (s : State) (k : Nat) : State := { s with poisonW := ndel s.poisonW (k / 8) }

/-- The window words that `n` bytes from key `k` on cover wholly are no longer poisoned (R339). -/
def State.wholeWords (s : State) (k n : Nat) : State :=
  (List.range ((k + n) / 8 - (k + 7) / 8)).foldl (fun s i => s.unpoisonWord (((k + 7) / 8 + i) * 8)) s

/-- The 128 bytes from key `k` on as one value. -/
def State.readLine (s : State) (k : Nat) : BitVec 1024 := BitVec.ofNat 1024 (memRead s.mem k 128)
def State.writeLine (s : State) (k : Nat) (v : BitVec 1024) : State := { s with mem := memWrite s.mem k 128 v.toNat }

/-- The poisoned lines of the part's memories among `n` bytes from a cell on: a unit's write leaves them as they are (R212). -/
def State.stuckLines (s : State) (k n : Nat) : List Nat :=
  s.poison.filter (fun i => decide (k / 128 ≤ i) && decide (i * 128 < k + n) && decide (i * 128 < 64 * 2 ^ 48))

/-- The bytes of some lines as they were (R212). -/
def State.keepLines (s old : State) (l : List Nat) : State := l.foldl (fun s i => s.writeLine (128 * i) (old.readLine (128 * i))) s

/-- Bytes, full/empty bits and poison of keys `lo` to `hi - 1` wiped: zero, empty, whole. -/
def State.wipeRange (s : State) (lo hi : Nat) : State :=
  { s with
    mem := memWipe s.mem lo hi, fe := nwipe s.fe (lo / 8) (hi / 8), poison := nwipe s.poison (lo / 128) (hi / 128),
    poisonW := nwipe s.poisonW (lo / 8) (hi / 8) }

end Sys2Proof.Machine
end

