-- ==== Sys2Proof/Machine/Base.lean ====
section
/-! DEFINITION. Reading and changing the parts of the state by name: partitions, cores, clusters, threads; steps that fall due;
the causes of traps (20 R310, 21 R325) and the results a word's meaning can have (01 R18, R25 to R27). -/
namespace Sys2Proof.Machine

/-- What a meaning answers. -/
abbrev Out := Host.Outcome State Fault Refusal

/-! ## Partitions, cores, clusters -/

def State.part (s : State) (p : PartId) : Partition := s.parts[p]
def State.setPart (s : State) (p : PartId) (q : Partition) : State := { s with parts := s.parts.set p q }
def State.modPart (s : State) (p : PartId) (f : Partition → Partition) : State := s.setPart p (f (s.part p))
def State.modRegs (s : State) (p : PartId) (f : PRegs → PRegs) : State := s.modPart p (fun q => { q with r := f q.r })

/-- A core; one not listed is as every idle core of the partition. -/
def Partition.core (q : Partition) (c : CoreId) : Core := (kget q.cores c.val).getD q.idleCore
def State.core (s : State) (p : PartId) (c : CoreId) : Core := (s.part p).core c
def State.setCore (s : State) (p : PartId) (c : CoreId) (k : Core) : State :=
  s.modPart p (fun q => { q with cores := kput q.cores c.val k })
def State.modCoreW (s : State) (p : PartId) (c : CoreId) (f : CoreWorld → CoreWorld) : State :=
  s.setCore p c { s.core p c with w := f (s.core p c).w }
def State.modCoreC (s : State) (p : PartId) (c : CoreId) (f : CoreFixed → CoreFixed) : State :=
  s.setCore p c { s.core p c with c := f (s.core p c).c }

def Partition.cluster (q : Partition) (k : ClusterId) : Cluster := (kget q.clusters k.val).getD Cluster.reset
def State.cluster (s : State) (p : PartId) (k : ClusterId) : Cluster := (s.part p).cluster k
def State.setCluster (s : State) (p : PartId) (k : ClusterId) (c : Cluster) : State :=
  s.modPart p (fun q => { q with clusters := kput q.clusters k.val c })
def State.modClusterW (s : State) (p : PartId) (k : ClusterId) (f : ClusterWorld → ClusterWorld) : State :=
  s.setCluster p k { s.cluster p k with w := f (s.cluster p k).w }

/-- Every core of the partition that differs from an idle one, by number. -/
def Partition.coreIds (q : Partition) : List CoreId :=
  q.cores.filterMap (fun e => if h : e.1 < 272 then some ⟨e.1, h⟩ else none)

/-- Every core of a partition, by R148's numbers. -/
def allCores : List CoreId := (List.range 272).filterMap (fun n => if h : n < 272 then some ⟨n, h⟩ else none)
def allClusters : List ClusterId := (List.range 32).filterMap (fun n => if h : n < 32 then some ⟨n, h⟩ else none)
def allParts : List PartId := (List.range 16).filterMap (fun n => if h : n < 16 then some ⟨n, h⟩ else none)
def allSlots : List SlotId := (List.range 16).filterMap (fun n => if h : n < 16 then some ⟨n, h⟩ else none)

/-- The cluster of a compute core; a bank core has none (R148). -/
def clusterOf (c : CoreId) : Option ClusterId :=
  if h : c.val / 8 < 32 then (if c.val < 256 then some ⟨c.val / 8, h⟩ else none) else none
/-- The slice of a bank core (R148). -/
def bankSlice (c : CoreId) : Option SliceId :=
  if h : c.val - 256 < 16 then (if 256 ≤ c.val then some ⟨c.val - 256, h⟩ else none) else none
/-- The bank core of a slice (R148). DEDUCED (log 25). -/
def bankCore (s : SliceId) : CoreId := ⟨256 + s.val, by have := s.isLt; omega⟩
/-- The slice local to a core (R140): slice k is local to clusters 2k and 2k + 1 and to its bank core. -/
def localSlice (c : CoreId) : Nat := if c.val < 256 then c.val / 16 else c.val - 256
def coreOfCluster (k : ClusterId) (i : Fin 8) : CoreId := ⟨8 * k.val + i.val, by have := k.isLt; have := i.isLt; omega⟩
/-- The cores of a cluster. -/
def clusterCores (k : ClusterId) : List CoreId :=
  (List.range 8).filterMap (fun i => if h : 8 * k.val + i < 272 then some ⟨8 * k.val + i, h⟩ else none)

/-- A core number as read from a register (R148): none above 271, or where the core is out of service. -/
def State.coreNum (s : State) (p : PartId) (v : Word) : Option CoreId :=
  if h : v.toNat < 272 then (if (s.core p ⟨v.toNat, h⟩).c.failed then none else some ⟨v.toNat, h⟩) else none

/-! ## Threads -/

def State.slot (s : State) (r : TRef) : Option Slot := kget (s.core r.part r.core).w.slots r.slot.val
def State.setSlot (s : State) (r : TRef) (x : Slot) : State :=
  s.modCoreW r.part r.core (fun w => { w with slots := kput w.slots r.slot.val x })
def State.clearSlot (s : State) (r : TRef) : State :=
  s.modCoreW r.part r.core (fun w => { w with slots := kdel w.slots r.slot.val })

def State.thread (s : State) (r : TRef) : Option Thread :=
  match s.slot r with
  | some (.thread t) => some t
  | _ => none

def State.setThread (s : State) (r : TRef) (t : Thread) : State := s.setSlot r (.thread t)

def State.modThread (s : State) (r : TRef) (f : Thread → Thread) : State :=
  match s.thread r with
  | some t => s.setThread r (f t)
  | none => s

/-- The threads of a core, with their slots, in ascending order. -/
def slotThreads (p : PartId) (c : CoreId) (slots : KMap Slot) : List (TRef × Thread) :=
  slots.filterMap (fun e =>
    if h : e.1 < 16 then
      match e.2 with
      | .thread t => some (⟨p, c, ⟨e.1, h⟩⟩, t)
      | _ => none
    else none)

/-- The living threads of the running world of a partition. -/
def State.threads (s : State) (p : PartId) : List (TRef × Thread) :=
  (s.part p).coreIds.flatMap (fun c => slotThreads p c (s.core p c).w.slots)

/-- The thread of the running world with a thread id. -/
def State.byTid (s : State) (p : PartId) (tid : Nat) : Option (TRef × Thread) :=
  (s.threads p).find? (fun e => e.2.tid == tid)

/-- A slot's thread, in place or under way, changed. -/
def mapSlot (f : Thread → Thread) : Slot → Slot
  | .thread t => .thread (f t)
  | .reserved t => .reserved (f t)
  | .scrub a => .scrub a
  | .freed => .freed

/-- Every thread of the running world changed: in slots, under way, and in landing queues. -/
def State.modThreads (s : State) (p : PartId) (f : Thread → Thread) : State :=
  (s.part p).coreIds.foldl (fun s c =>
    s.modCoreW p c (fun w => { w with slots := kmapVals (fun _ x => mapSlot f x) w.slots, landing := w.landing.map f })) s

/-- A general slot that holds nothing (R120): of several, the lowest. DESIGN CHOICE (log 79). -/
def freeGeneral (w : CoreWorld) : Option SlotId :=
  allSlots.find? (fun i => decide (2 ≤ i.val) && (kget w.slots i.val).isNone)
/-- The number of free general slots of a core. -/
def freeCount (w : CoreWorld) : Nat :=
  (allSlots.filter (fun i => decide (2 ≤ i.val) && (kget w.slots i.val).isNone)).length

/-- The thread holds system privilege (R11). -/
def Thread.priv (t : Thread) : Bool := t.status.getLsbD 12
/-- The thread is in its context's handler: ECAUSE.ACTIVE (R309). -/
def Thread.active (t : Thread) : Bool := t.ecause.getLsbD 63
/-- The vector and mask registers hold a one: STATUS.VDIRTY (R169). -/
def Thread.vdirty (t : Thread) : Bool :=
  (List.range 8).any (fun i => t.v.toList.getD i 0 != 0) || (List.range 4).any (fun i => t.m.toList.getD i 0 != 0)

/-- A fresh register file (R24). -/
def Regs.fresh (g0 g1 g2 g3 : Word) : Regs :=
  { g := #v[g0, g1, g2, g3, 0, 0, 0, 0, 0, 0, 0, 0, 0, 0, 0, 0], full := Vector.replicate 16 true }

/-- STATUS at creation (R11): SLOT, and PRIV in slot 0. -/
def statusAt (slot : SlotId) (watched : Bool) : Word :=
  word (slot.val * 256 + (if slot.val = 0 then 4096 else 0) + (if watched then 16384 else 0))

/-- A thread at its start (R24, R133, R153, R158, R168). -/
def Thread.start (slot : SlotId) (pc : Word) (regs : Regs) (tid : Nat) (ctx : BitVec 8) (corr : BitVec 32) (pin watched : Bool)
    (ready : Nat) : Thread :=
  { regs := regs, pc := pc, status := statusAt slot watched, fa := 0, fb := 0, fc := 0, xa := 0, xb := 0,
    v := Vector.replicate 8 0, m := Vector.replicate 4 0, tid := tid, shownTid := tid, corr := corr, ctx := ctx, pin := pin,
    dset := 0, launch := none, strain := { g := 0, d := 0, c := 0, skip := false, on := false, parked := false }, homes := [],
    accesses := 0, migrate := none, epc := 0, ecause := 0, eaddr := 0, streams := Vector.replicate 4 Stream.unbound, wait := none,
    latch := none, pend := none, parked := false, dropped := none, parkAt := none, delegFailed := [], parkedIn := none, resv := none,
    awaiting := [], arrived := [], arrivedIn := 0, jobs := [], serves := none, sysh := false, readyAt := ready, issued := [],
    issuedIn := 0, prepared := none, fetchBuf := [], mark := none, barGen := none, logAddr := 0, captured := false }

/-! ## Time, events, service -/

/-- The global timestamp, 100 MHz (R4, R346). DESIGN CHOICE (log 67). -/
def State.tstamp (s : State) : Nat := s.time / 720720
/-- Core cycles in a tick of the timestamp: 16 at the full clock of 1.6 GHz (R4), one fewer for each step of 100 MHz (R426). DESIGN CHOICE (log 67). -/
def State.tickCycles (s : State) : Nat := 16 - Nat.min s.clockSteps 15

/-- A step of another agent that is due now, after those already due. DESIGN CHOICE (log 76). -/
def State.push (s : State) (i : Instr) : State := { s with events := s.events ++ [i] }
def State.pushAll (s : State) (l : List Instr) : State := { s with events := s.events ++ l }
/-- A step that falls due `n` cycles from now. -/
def State.after (s : State) (n : Nat) (i : Instr) : State := { s with timers := s.timers ++ [(s.cycle + n, i)] }

/-- A step that cannot be taken in this cycle: it comes first in the next, behind those held back before it. -/
def State.holdBack (s : State) (i : Instr) : State := { s with waiting := s.waiting ++ [i] }

/-- Hardware has set a W1C bit of a register in this cycle (R355); partition registers go by core 0. -/
def State.hwSet (s : State) (p : PartId) (c : CoreId) (r : SysReg) (b : Nat) : State := { s with hwNow := (p, c, r, b) :: s.hwNow }
/-- The bits of a register that hardware has set in this cycle. -/
def State.hwBits (s : State) (p : PartId) (c : CoreId) (r : SysReg) : Word :=
  s.hwNow.foldl (fun m e => if e.1 = p ∧ e.2.1 = c ∧ e.2.2.1 = r then m ||| word (2 ^ e.2.2.2) else m) 0
/-- The W1C fields of a register after an MTS writes it: ones clear bits, but not those that hardware has set in the same cycle (R5, R355). -/
def State.clearOnes (s : State) (p : PartId) (c : CoreId) (r : SysReg) (old v : Word) : Word := old &&& ~~~(v &&& ~~~s.hwBits p c r)
/-- An MTS writes a register in this cycle (R355): `v` is the value that it would have without the MTS. -/
def State.mtsSet (s : State) (p : PartId) (c : CoreId) (r : SysReg) (v : Word) : State :=
  { s with mtsNow := (p, c, r, v) :: s.mtsNow.filter (fun e => !(e.1 == p && e.2.1 == c && e.2.2.1 == r)) }
def State.mtsWas (s : State) (p : PartId) (c : CoreId) (r : SysReg) : Option Word :=
  (s.mtsNow.find? (fun e => e.1 == p && e.2.1 == c && e.2.2.1 == r)).map (fun e => e.2.2.2)

/-- A step that falls due `n` ticks of the timestamp from now. -/
def State.afterTicks (s : State) (n : Nat) (i : Instr) : State := s.after (n * s.tickCycles) i

/-- The partition runs: in service, not under reset or a life-cycle wipe, and its TDISP state lets threads issue (R340, R399, R403,
R429). -/
def Partition.serves (q : Partition) : Bool :=
  q.inService && q.rst == .none && q.wipe.isNone && (q.tdisp == .run || q.tdisp == .locked)

/-! ## Sources -/

/-- The sources a bundle reads: as latched at its issue while it waits, else as they stand (R17). -/
def Thread.src (t : Thread) : Regs := t.latch.getD t.regs
/-- The value of a source field. -/
def Thread.rd (t : Thread) (a : Src) : Word := t.src.g[a.reg]
/-- The value of a register read ordinarily (R37). -/
def Thread.rdD (t : Thread) (d : Reg) : Word := t.src.g[d]
/-- The registers a list of source fields reads synchronously, each once (R15). -/
def syncRegs (l : List Src) : List Reg := ((l.filter (fun x => x.sync)).map (fun x => x.reg)).eraseDups

/-! ## Causes -/

/-- The causes of precise faults (R310). -/
inductive Cause where
  | illegal | alignment | address | misaligned | window | protection | privilege | format | target | delegation
  | reservation | barrier | steep | poison | jobId | copyShape | stream | shape | ring | matrixShape | slotParked
  | slotPoisoned
  | trap (n : BitVec 10)
deriving DecidableEq, Repr

def Cause.code : Cause → Nat
  | .illegal => 0x001 | .alignment => 0x002 | .address => 0x003 | .misaligned => 0x004 | .window => 0x005
  | .protection => 0x006 | .privilege => 0x007 | .format => 0x008 | .target => 0x009 | .delegation => 0x00A
  | .reservation => 0x00B | .barrier => 0x00C | .steep => 0x00D | .poison => 0x00E | .jobId => 0x00F
  | .copyShape => 0x010 | .stream => 0x011 | .shape => 0x012 | .ring => 0x013 | .matrixShape => 0x014
  | .slotParked => 0x015 | .slotPoisoned => 0x016
  | .trap n => 0x400 + n.toNat

/-! ## What a word comes to -/

/-- What a word of a bundle comes to: it completes, it takes a precise fault (with EADDR, or none for EPC), it meets a page
fault and drops its thread, it waits and reissues, it waits for a reply that commits it, or its outcome is already in the
state. -/
inductive Res where
  | done (c : Commit) (s : State)
  | trap (k : Cause) (eaddr : Option Word) (s : State)
  | drop (r : TrapRec) (s : State)
  | wait (w : Wait) (s : State)
  | pend (q : Pend) (s : State)
  | ended (s : State)

/-- A register write with its VAL record (R13, R331). -/
def Commit.reg (d : Reg) (v : Word) : Commit := { Commit.none with regs := [(d, v)], log := [.val d v] }

/-- Two commits of one bundle, the first word's before the second's (R18, R332). -/
def Commit.merge (a b : Commit) : Commit :=
  { regs := a.regs ++ b.regs, clears := a.clears ++ b.clears, empties := a.empties ++ b.empties, flags := a.flags ||| b.flags,
    status := a.status.or b.status, vregs := a.vregs ++ b.vregs, mregs := a.mregs ++ b.mregs, target := a.target.or b.target,
    log := a.log ++ b.log, lat := Nat.max a.lat b.lat }

/-- An empty trap-queue record. DEDUCED (log 75). -/
def TrapRec.none : TrapRec :=
  { code := 0, cls := 0, ctx := 0, core := 0, slot := 0, tid := 0, corr := 0, pc := 0, addr := 0, d0 := 0, d1 := 0, d2 := 0,
    seq := 0, ts := 0 }

/-- A record that carries a thread's CTX, CORE, SLOT, TID and CORR (R316, R317). -/
def TrapRec.ofThread (r : TRef) (t : Thread) (code cls : Nat) (pc addr : Word) : TrapRec :=
  { TrapRec.none with
    code := code, cls := cls, ctx := t.ctx, core := r.core.val, slot := r.slot.val, tid := t.tid, corr := t.corr, pc := pc,
    addr := addr }

/-! ## Addresses -/

/-- Bits 63:57 all equal bit 56 (R22). -/
def canonical (a : Word) : Bool := a.extractLsb' 56 8 == 0 || a.extractLsb' 56 8 == 0xFF
/-- The window region (R193). -/
def inWindowRegion (a : Word) : Bool := a.toNat / 2 ^ 40 == 0xFF0000
/-- The remote region (R368). -/
def inRemoteRegion (a : Word) : Bool := a.toNat / 2 ^ 52 == 0xFFE
/-- The 57 bits of a canonical address. -/
def va57 (a : Word) : Nat := a.toNat % 2 ^ 57
/-- The 128-byte line of an address: VA[56:7]. -/
def lineOf (a : Word) : Nat := va57 a / 128
/-- The address of a line, extended from bit 56. -/
def lineAddr (line : Nat) : Word := (BitVec.ofNat 57 (line * 128)).signExtend 64
/-- The home slice of a line (R197): VA[10:7] XOR VA[14:11] XOR VA[18:15] XOR VA[22:19]. -/
def homeSlice (line : Nat) : SliceId :=
  (BitVec.ofNat 4 line ^^^ BitVec.ofNat 4 (line / 16) ^^^ BitVec.ofNat 4 (line / 256) ^^^ BitVec.ofNat 4 (line / 4096)).toFin

/-- A field of a register: bits `lo + n - 1 : lo`. -/
def field (w : Word) (lo n : Nat) : Nat := w.toNat / 2 ^ lo % 2 ^ n
/-- Bit `i` of a register. -/
def bit (w : Word) (i : Nat) : Bool := w.getLsbD i
/-- A register with bits `lo + n - 1 : lo` replaced. -/
def setField (w : Word) (lo n v : Nat) : Word :=
  word (w.toNat / 2 ^ (lo + n) * 2 ^ (lo + n) + v % 2 ^ n * 2 ^ lo + w.toNat % 2 ^ lo)

/-- An address of 57 bits extended from bit 56, as the base fields of the registers give it (R315, R368, R408). -/
def ext57 (n : Nat) : Word := (BitVec.ofNat 57 n).signExtend 64

/-- The address `n` bytes after a pc, in the 57 bits of the pc (R10, R16). -/
def nextPc (pc : Word) (n : Nat) : Word := ext57 (pc.toNat + n)

end Sys2Proof.Machine
end

