-- ==== Sys2Proof/Machine/Walk.lean ====
section
/-! DEFINITION. Tables in memory as the part reads them: the page walk (12 R201 to R203), the domain and rights tables (R199),
the context table (20 R308), and the translation that the part's own units use. -/
namespace Sys2Proof.Machine

/-- How a walk ends: with a leaf, or with a fault, its level, and the table frame of a poisoned table (R203). -/
inductive Walked where
  | leaf (l : Leaf)
  | page (level : Nat)
  /-- the walked page has been retired (R214) -/
  | retired (l : Leaf)
  | poisoned (level frame : Nat)
  | format (level : Nat)

/-- Index of an address into the table page of a level (R201). -/
def tableIndex (level va : Nat) : Nat :=
  match level with
  | 2 => va / 2 ^ 42 % 2 ^ 13
  | 1 => va / 2 ^ 29 % 2 ^ 13
  | _ => va / 2 ^ 16 % 2 ^ 13

/-- The reserved fields of an entry that points to a table page: all but V and PFN (R202). DEDUCED (log 19). -/
def pointerReserved (e : Nat) : Bool := e / 2 ^ 48 != 0 || e % 2 ^ 16 / 2 != 0

/-- A leaf's reserved bits 54:48, SNAP 3, SFMT 3 with STEEP, SFMT and SLIM without STEEP, LG with bits 28:16 set at level 1, and LG = 0 at
level 0 (R202, R203). DEDUCED (log 19). -/
def leafBad (level e : Nat) : Bool :=
  e / 2 ^ 48 % 2 ^ 7 != 0 || e / 2 ^ 62 == 3 || (e / 8 % 2 == 1 && e / 2 ^ 60 % 4 == 3) ||
  (e / 8 % 2 == 0 && e / 2 ^ 56 % 64 != 0) ||
  (level == 1 && e / 2 ^ 16 % 2 ^ 13 != 0) || (level == 0 && e / 2 ^ 55 % 2 == 0)

/-- The leaf of an entry: `pte` is the key of the entry. -/
def mkLeaf (level va e pte : Nat) : Leaf :=
  { page := if level = 1 then va / 2 ^ 29 * 2 ^ 13 else va / 2 ^ 16, big := level == 1, pa := e / 2 ^ 16 % 2 ^ 32 * 2 ^ 16,
    dom := e / 16 % 2 ^ 12, steep := e / 8 % 2 == 1, sfmt := e / 2 ^ 60 % 4, slim := e / 2 ^ 56 % 16, nx := e / 4 % 2 == 1,
    ro := e / 2 % 2 == 1, snap := e / 2 ^ 62, pte := pte }

/-- The frame of the 64 KiB page of an address under a leaf. -/
def Leaf.frame (l : Leaf) (va : Nat) : Nat :=
  if l.big then (l.pa + va % 2 ^ 29) / 2 ^ 16 else l.pa / 2 ^ 16

/-- The physical address of an address under a leaf (R201). -/
def Leaf.phys (l : Leaf) (va : Nat) : Nat := l.pa + (if l.big then va % 2 ^ 29 else va % 2 ^ 16)

/-- The address lies in the leaf's page. -/
def Leaf.covers (l : Leaf) (va : Nat) : Bool :=
  if l.big then va / 2 ^ 29 * 2 ^ 13 == l.page else va / 2 ^ 16 == l.page

/-- One level of the walk: `frame` is the frame of the table page. -/
def walkLevel (s : State) (p : PartId) (va : Nat) : Nat → Nat → Walked
  | level, frame =>
    let k := keyMain p (frame * 2 ^ 16 + 8 * tableIndex level va)
    let e := memRead s.mem k 8
    if s.linePoisoned k || nmem (s.part p).badTables frame then .poisoned level frame
    else if e % 2 == 0 then .page level
    else if level == 0 || (level == 1 && e / 2 ^ 55 % 2 == 1) then
      if leafBad level e then .format level
      else
        let l := mkLeaf level va e k
        if nmem (s.part p).retired (l.frame va) then .retired l else .leaf l
    else if pointerReserved e then .format level
    else
      match level with
      | 0 => .page 0
      | n + 1 => walkLevel s p va n (e / 2 ^ 16 % 2 ^ 32)
termination_by structural level => level

/-- The page walk of R203. -/
def walkPage (s : State) (p : PartId) (a : Word) : Walked :=
  let va := va57 a
  let root := (s.part p).r.ptroot[va / 2 ^ 55 % 4]'(by omega)
  if bit root 0 then walkLevel s p va 2 (field root 16 32) else .page 3

/-- A table frame enters the poisoned-table list, and whether the list was full (R205). DEDUCED (log 51). -/
def poisonTable (s : State) (p : PartId) (frame : Nat) : State × Bool :=
  if nmem (s.part p).badTables frame then (s, false)
  else if (s.part p).badTables.length < 64 then (s.modPart p (fun q => { q with badTables := nput q.badTables frame }), false)
  else (s, true)

/-- The entries of a table page that are not zero: index and value. -/
def tableEntries (s : State) (p : PartId) (frame : Nat) : List (Nat × Nat) :=
  let base := keyMain p (frame * 2 ^ 16)
  let idx := (((s.mem.filter (fun c => decide (base ≤ c.1) && decide (c.1 < base + 2 ^ 16))).map (fun c => (c.1 - base) / 8))).eraseDups
  (idx.map (fun i => (i, memRead s.mem (base + 8 * i) 8))).filter (fun e =>
    !s.linePoisoned (base + 8 * e.1) && !nmem (s.part p).badTables frame)

/-- The valid leaves below a table page, in ascending order: `va` is the address that its first entry maps. -/
def leavesUnder (s : State) (p : PartId) : Nat → Nat → Nat → List Leaf
  | level, frame, va =>
    (tableEntries s p frame).flatMap (fun e =>
      let at_ := va + e.1 * 2 ^ (16 + 13 * level)
      let pte := keyMain p (frame * 2 ^ 16 + 8 * e.1)
      if e.2 % 2 == 0 then []
      else if level == 0 || (level == 1 && e.2 / 2 ^ 55 % 2 == 1) then
        (if leafBad level e.2 then [] else [mkLeaf level at_ e.2 pte])
      else if pointerReserved e.2 then []
      else
        match level with
        | 0 => []
        | n + 1 => leavesUnder s p n (e.2 / 2 ^ 16 % 2 ^ 32) at_)
termination_by structural level => level

/-- Every valid leaf of the partition's tables (R388). -/
def allLeaves (s : State) (p : PartId) : List Leaf :=
  ((s.part p).r.ptroot.toList.mapIdx (fun i root =>
    if bit root 0 then leavesUnder s p 2 (field root 16 32) (i * 2 ^ 55) else [])).flatten

/-- Entry d of the domain table (R199): V, and OWNER. Its reserved bits 63:9 have no effect, whatever they hold: the spec states no check of
them. DESIGN CHOICE (log 80). -/
def domainEntry (s : State) (p : PartId) (d : Nat) : Bool × Nat :=
  let e := memRead s.mem (keyMain p (field (s.part p).r.dombase 16 32 * 2 ^ 16 + 8 * d)) 8
  (e / 256 % 2 == 1, e % 256)

/-- The rights nibble of a context in a domain, as the rights table holds it (R199). -/
def rightsNibble (s : State) (p : PartId) (ctx d : Nat) : BitVec 4 :=
  let b := memRead s.mem (keyMain p (field (s.part p).r.rtbase 16 32 * 2 ^ 16 + 2048 * ctx + d / 2)) 1
  let n := if d % 2 == 0 then b % 16 else b / 16
  if 8 ≤ n then 0 else BitVec.ofNat 4 n

/-- The rights that a PLB entry gives (R199): R, W and X as bits 0, 1 and 2. -/
def rightsOf (domValid : Bool) (dom : Nat) (nibble : BitVec 4) (priv : Bool) : BitVec 4 :=
  if !domValid then 0 else if priv then nibble ||| 3 else if dom = 0 then 0 else nibble

/-- The context that owns a domain, for the records of errors (R211): bits 43:32 the domain, bit 8 owner valid, bits 7:0 the
owner (R317). -/
def ownerTag (s : State) (p : PartId) (dom : Nat) : Word :=
  let e := domainEntry s p dom
  word (dom * 2 ^ 32 + (if e.1 then 256 + e.2 else 0))

/-- Word `off` of a context's entry (R308). -/
def ctxWord (s : State) (p : PartId) (ctx : BitVec 8) (off : Nat) : Word :=
  s.readMem (keyMain p (field (s.part p).r.ctxbase 14 34 * 2 ^ 14 + 64 * ctx.toNat + off)) 8

/-- A context is in service when its STATE is 1 (R308). The reserved bits and words of its entry have no effect, whatever they hold: the
spec states no check of them. DESIGN CHOICE (log 80). -/
def ctxInService (s : State) (p : PartId) (ctx : BitVec 8) : Bool := field (ctxWord s p ctx 0) 0 2 == 1

/-- The key of an address that one of the part's own units reaches through the partition's translation, in domain 0; none
without a valid leaf, or at a line that is poisoned. -/
def unitKey (s : State) (p : PartId) (a : Word) : Option Nat :=
  match walkPage s p a with
  | .leaf l => if s.linePoisoned (keyMain p (l.phys (va57 a))) then none else some (keyMain p (l.phys (va57 a)))
  | _ => none

/-- The key of an address that a unit reaches as a thread of a context without PRIV would (R131, R377): translation and rights,
with the shared SRAM used without translation: a poisoned word of it cannot be read (R339). `need` is the right as a mask of R (1) and
W (2). -/
def ctxKey (s : State) (p : PartId) (ctx : BitVec 8) (need : BitVec 4) (a : Word) : Option Nat :=
  if !canonical a then none
  else if inWindowRegion a then
    let k := keySram p (a.toNat - 0xFF00000010000000)
    if a.toNat < 0xFF00000010000000 || 0xFF00000014000000 ≤ a.toNat || (need.getLsbD 0 && s.wordPoisoned k) then none else some k
  else if inRemoteRegion a then none
  else
    match walkPage s p a with
    | .leaf l =>
      let r := rightsOf (domainEntry s p l.dom).1 l.dom (rightsNibble s p ctx.toNat l.dom) false
      let k := keyMain p (l.phys (va57 a))
      if r &&& need != need || (l.ro && need.getLsbD 1) || s.linePoisoned k then none else some k
    | _ => none

end Sys2Proof.Machine
end

