-- ==== Sys2Proof/Machine/Ops.lean ====
section
/-! DEFINITION. The operations that every meaning shares: counters and trace (28 R411 to R418), the taster's log (21 R330 to
R335), trap-queue records (20 R315 to R318), taking an exception (20 R311) and returning from one (22 R349), dropping a thread
(01 R26), committing a bundle (01 R18) and running one word of it. -/
namespace Sys2Proof.Machine

/-! ## Core counters and the trace unit -/

/-- The event codes that the slot filter applies to (R412). -/
def countFiltered (code : Nat) : Bool :=
  code == 2 || (4 ≤ code && code ≤ 10) || (14 ≤ code && code ≤ 17)

/-- A counter advanced by `n` occurrences: COUNT modulo 2^48, OVF on a wrap (R411). -/
def addCount (v : Word) (n : Nat) : Word :=
  let c := field v 0 48 + n
  let v := if 2 ^ 48 ≤ c then v ||| 0x8000000000000000 else v
  setField v 0 48 c

/-- Counter i of a core counts an event of a code, in a slot where the event has one (R411, R412). -/
def counts (w : CoreWorld) (i : Fin 4) (code : Nat) (slot : Option SlotId) : Bool :=
  field w.psel (8 * i.val) 8 == code &&
  (match slot with
   | some sl => !countFiltered code || bit w.psel (48 + sl.val)
   | none => true)

/-- The count of a counter has wrapped. -/
def wrappedTo (old new : Word) : Bool := decide (field new 0 48 < field old 0 48)

/-- What the wrap of counter i brings about (R411, R416): OVF, and for counter 0 trace condition 3. -/
def noteWrap (s : State) (p : PartId) (c : CoreId) (i : Fin 4) : State :=
  let s := (s.modCoreW p c (fun w => { w with pcnt := w.pcnt.set i (w.pcnt[i] ||| 0x8000000000000000) })).hwSet p c (.pcnt i) 63
  if i = 0 then s.modCoreC p c (fun k => { k with trcNow := 3 :: k.trcNow }) else s

/-- `n` occurrences counted by counter i (R411). The value that an MTS has written in this cycle stands (R355): the occurrences then only
decide whether the counter would have wrapped. -/
def countReg (s : State) (p : PartId) (c : CoreId) (n : Nat) (i : Fin 4) : State :=
  match s.mtsWas p c (.pcnt i) with
  | some old =>
    let new := addCount old n
    let s := s.mtsSet p c (.pcnt i) new
    if wrappedTo old new then noteWrap s p c i else s
  | none =>
    let old := (s.core p c).w.pcnt[i]
    let new := addCount old n
    let s := s.modCoreW p c (fun w => { w with pcnt := w.pcnt.set i new })
    if wrappedTo old new then noteWrap s p c i else s

/-- The partition's counters run: PERFCTL.EN (R407), no gang switch under way (R413), and no preset written in this cycle, whose events are lost
(R421). -/
def State.counting (s : State) (p : PartId) : Bool :=
  bit (s.part p).r.perfctl 3 && (s.part p).gang == .idle && (s.mtsWas p 0 .perfctl).isNone

/-- An event of a core counted, when the partition's counters run. -/
def State.count (s : State) (p : PartId) (c : CoreId) (code : Nat) (slot : Option SlotId) (n : Nat) : State :=
  if s.counting p then
    (([0, 1, 2, 3] : List (Fin 4)).filter (fun i => counts (s.core p c).w i code slot)).foldl (fun s i => countReg s p c n i) s
  else s

/-- A request of a partition to its die's SRAM controller counts, modulo 2^48, at every partition of the die whose VFSEL selects the requester's
VF (R415). -/
def State.sramAt (s : State) (p : PartId) (key : Nat) : State :=
  if key / 2 ^ 48 = 4 * p.val + 3 then
    (allParts.filter (fun q => q.val / 4 == p.val / 4 && field (s.part q).r.vfsel 0 4 == p.val)).foldl (fun s q =>
      s.modRegs q (fun r => { r with shcnt := r.shcnt.set 0 (setField r.shcnt[0] 0 48 (field r.shcnt[0] 0 48 + 1)) })) s
  else s

/-- A trace condition holds in this cycle for a core (R416). -/
def State.traceCond (s : State) (p : PartId) (c : CoreId) (n : Nat) : State :=
  let k := s.core p c
  if bit k.w.trcctl 63 && (field k.w.trctrg 0 8 == n || field k.w.trctrg 8 8 == n)
  then s.modCoreC p c (fun x => { x with trcNow := n :: x.trcNow }) else s

/-- A trace condition that asks for a traced slot (conditions 2 and 4, R416). -/
def State.traceSlotCond (s : State) (r : TRef) (n : Nat) : State :=
  if bit (s.core r.part r.core).w.trcctl (16 + r.slot.val) then s.traceCond r.part r.core n else s

/-- A record that the trace unit writes if the cycle is recorded (R417, R418). -/
def State.traceRec (s : State) (r : TRef) (kind : Nat) (pc : Word) (corr : BitVec 32) : State :=
  let k := s.core r.part r.core
  if bit k.w.trcctl 63 && bit k.w.trcctl (16 + r.slot.val) && bit k.w.trcctl kind
  then s.modCoreC r.part r.core (fun x => { x with trcBuf := x.trcBuf ++ [(kind, r.slot.val, pc, corr)] }) else s

/-! ## The taster's log -/

/-- The core is a worker bound to a taster (R328). -/
def State.watched (s : State) (p : PartId) (c : CoreId) : Bool := bit (s.core p c).w.tbind 63
/-- The taster of a worker. -/
def tasterOf (tbind : Word) : Nat := field tbind 31 9

/-- Sequence numbers are compared modulo 2^32 within a window of 2^31 (R330): a at or after b. -/
def seqGe (a b : Nat) : Bool := decide ((a + 2 ^ 32 - b % 2 ^ 32) % 2 ^ 32 < 2 ^ 31)
def seqGt (a b : Nat) : Bool := seqGe a b && a % 2 ^ 32 != b % 2 ^ 32

/-- The key of the first byte of a worker's log ring (R328), and its size. -/
def ringKey (p : PartId) (tbind : Word) : Nat :=
  let t := tasterOf tbind
  let off := field tbind 3 19 * 8
  if bit tbind 62 then spaceBase p 2 + t / 8 * 2 ^ 22 + off else spaceBase p 1 + t * 2 ^ 17 + off
def ringSize (tbind : Word) : Nat := 2 ^ (field tbind 58 4 + 10)

/-- The shortest form of a value (R331): no word for zero, one for a sign-extended 32-bit value, else two. -/
def valueWords (v : Word) : List Nat :=
  if v = 0 then [] else if (BitVec.ofNat 32 v.toNat).signExtend 64 = v then [v.toNat % 2 ^ 32]
  else [v.toNat % 2 ^ 32, v.toNat / 2 ^ 32]

/-- The 8-byte form of a delta where it fits, else the 12-byte absolute form (R331). DEDUCED (log 35). -/
def deltaWords (old new : Word) : List Nat :=
  let d := new - old
  if (BitVec.ofNat 32 d.toNat).signExtend 64 = d then [d.toNat % 2 ^ 32] else [new.toNat % 2 ^ 32, new.toNat / 2 ^ 32]

def writeWords (m : Memory) (k : Nat) : List Nat → Memory
  | [] => m
  | v :: l => writeWords (memWrite m k 4 v) (k + 4) l

/-- One record's words appended at the log's write offset, with the next sequence number; a word of the ring that they fill is whole again
(R339). -/
def logAppend (s : State) (p : PartId) (c : CoreId) (ws : List Nat) : State :=
  let w := (s.core p c).w
  let n := 4 * ws.length
  let seq := (w.log.seq + 1) % 2 ^ 32
  let wr := (w.log.wr + n) % ringSize w.tbind
  let s := ({ s with mem := writeWords s.mem (ringKey p w.tbind + w.log.wr) ws } : State).wholeWords (ringKey p w.tbind + w.log.wr) n
  s.modCoreW p c (fun w => { w with log := { w.log with seq := seq, wr := wr, unacked := w.log.unacked ++ [(seq, n)] } })

/-- A record of the log of a watched core (R330): an escape of subtype 0 first where it would cross the ring's end. -/
def logRecord (s : State) (p : PartId) (c : CoreId) (slot : SlotId) (type info : Nat) (payload : List Nat) : State :=
  let w := (s.core p c).w
  if !bit w.tbind 63 then s
  else
    let head := type * 2 ^ 28 + slot.val * 2 ^ 24 + payload.length * 2 ^ 22 + info % 2 ^ 22
    let size := ringSize w.tbind
    let s :=
      if size < w.log.wr + 4 * (payload.length + 1) then
        (logAppend s p c [15 * 2 ^ 28 + slot.val * 2 ^ 24]).modCoreW p c
          (fun w => { w with log := { w.log with wr := 0 } })
      else s
    logAppend s p c (head :: payload)

/-- The stamp that a line's directory entry holds (R335). -/
def State.setStamp (s : State) (p : PartId) (line : Nat) (st : Option Stamp) : State :=
  s.modPart p (fun q => { q with slices := q.slices.map (fun l => if l.line = line then { l with stamp := st } else l) })

/-- The log remembers 8 tasters, most recently stamped first (R335). -/
def rememberStamp (l : List (CoreId × Nat)) (core : CoreId) (seq : Nat) : List (CoreId × Nat) :=
  ((core, seq) :: l.filter (fun e => e.1 != core)).take 8

/-- A stamp is written to a log that has not yet stamped its taster that far (R335). -/
def stampDue (w : CoreWorld) (core : CoreId) (seq : Nat) : Bool :=
  core.val != tasterOf w.tbind &&
  (match w.log.stamped.find? (fun e => e.1 == core) with
   | some (_, n) => seqGt seq n
   | none => true)

/-- One item of a watched thread's commit (R331, R335). DEDUCED (log 35). -/
def logItem (s : State) (r : TRef) (pc : Word) (i : LogItem) : State :=
  let p := r.part
  let c := r.core
  match i with
  | .val d v => logRecord s p c r.slot 0 (d.val * 2 ^ 18) (valueWords v)
  | .addr a =>
    match s.thread r with
    | some t =>
      if t.logAddr = a then s
      else (logRecord s p c r.slot 1 0 (deltaWords t.logAddr a)).modThread r (fun t => { t with logAddr := a })
    | none => s
  | .stamp core seq =>
    if stampDue (s.core p c).w core seq then
      (logRecord s p c r.slot 4 (core.val * 2 ^ 13) [seq % 2 ^ 32]).modCoreW p c
        (fun w => { w with log := { w.log with stamped := rememberStamp w.log.stamped core seq } })
    else s
  | .leave line =>
    let w := (s.core p c).w
    if h : tasterOf w.tbind < 272 then s.setStamp p line (some { core := ⟨tasterOf w.tbind, h⟩, seq := w.log.seq }) else s
  | .load d size v => logRecord s p c r.slot 2 (d.val * 2 ^ 18 + size * 2 ^ 16) (valueWords v)
  | .store d size v => logRecord s p c r.slot 3 (d.val * 2 ^ 18 + size * 2 ^ 16) (valueWords v)
  | .flow t =>
    (logRecord s p c r.slot 5 0 (deltaWords pc t)).modCoreW p c
      (fun w => { w with log := { w.log with flows := kput w.log.flows w.log.seq t } })
  | .atom kind d v => logRecord s p c r.slot 6 (kind * 2 ^ 16 + d.val * 2 ^ 12) (valueWords v)
  | .mark kind v => logRecord s p c r.slot 7 (kind * 2 ^ 18) (match v with | some x => [x.toNat % 2 ^ 32] | none => [])
  | .vec n v | .vecStore n v => logRecord s p c r.slot 15 (1 * 2 ^ 16 + n * 2 ^ 12) (valueWords v)
  | .maskw n v => logRecord s p c r.slot 15 (2 * 2 ^ 16 + n * 2 ^ 12) (valueWords v)
  | .delivered d v => logRecord s p c r.slot 15 (3 * 2 ^ 16 + d.val * 2 ^ 12) (valueWords v)

/-- An item of a write that has been performed: the stamp that it leaves (R335), or the record of a vector store. -/
def LogItem.isWrite : LogItem → Bool
  | .leave _ | .vecStore _ _ => true
  | _ => false

/-- The record of a taken transfer. -/
def LogItem.isFlow : LogItem → Bool
  | .flow _ => true
  | _ => false

/-- The items of a bundle in order, a taken transfer's FLOW last (R332). DEDUCED (log 35). -/
def logItems (s : State) (r : TRef) (pc : Word) (l : List LogItem) : State :=
  if s.watched r.part r.core then
    (l.filter (fun i => !i.isFlow) ++ l.filter LogItem.isFlow).foldl (fun s i => logItem s r pc i) s
  else s

/-- A MARK record of a watched thread (R331), and its sequence. -/
def logMark (s : State) (r : TRef) (kind : Nat) (v : Option Word) : State :=
  if s.watched r.part r.core then logItem s r 0 (.mark kind v) else s

/-- The MARK of a thread that starts in a slot of a worker: kind 5 with its TID, whose sequence LOGVIO needs (R331, R336). The
slot's current address starts at 0. -/
def logStart (s : State) (r : TRef) (tid : Nat) : State :=
  if s.watched r.part r.core then
    let s := logItem s r 0 (.mark 5 (some (word tid)))
    s.modCoreW r.part r.core (fun w => { w with log := { w.log with starts := kput w.log.starts r.slot.val w.log.seq } })
  else s

/-- The last acknowledged sequence of a worker's binding: its taster's LOGSEQ (R329, R333). -/
def State.ackOf (s : State) (p : PartId) (tbind : Word) : Nat :=
  if h : tasterOf tbind < 272 then (s.core p ⟨tasterOf tbind, h⟩).w.logseq.toNat else 0

/-! ## Trap-queue records -/

/-- N, the number of entries of the trap queue (R315). -/
def tqSize (r : PRegs) : Nat := 256 * 2 ^ Nat.min (field r.tqbase 0 4) 8

/-- The virtual address of an entry (R315). -/
def tqAddr (r : PRegs) (index : Nat) : Word := ext57 (field r.tqbase 12 45 * 2 ^ 12 + 64 * index)

/-- A record's class (R316). -/
def TrapRec.fatal (r : TrapRec) : Bool := r.cls == 1

def corePut (n : Nat) : Option CoreId := if h : n < 272 then some ⟨n, h⟩ else none

/-- TSTATE of an event message (R397). -/
def Tdisp.code : Tdisp → Nat
  | .unlocked => 0 | .locked => 1 | .run => 2 | .error => 3

/-- The 32 bytes of an event message (R397): CODE, PART, TSTATE; the timestamp; zeros. -/
def eventBytes (code : Nat) (p : PartId) (t : Tdisp) (now : Nat) : List Byte :=
  let w := code % 2 ^ 16 * 2 ^ 48 + p.val * 2 ^ 44 + t.code * 2 ^ 40
  (List.range 8).map (fun i => BitVec.ofNat 8 (w / 256 ^ i)) ++ (List.range 8).map (fun i => BitVec.ofNat 8 (now / 256 ^ i)) ++
  List.replicate 16 0

/-- The port's event message (R397). -/
def State.hostEvent (s : State) (p : PartId) (code : Nat) : State :=
  { s with hostOut := s.hostOut ++ [.event (s.part p).hostAddr (eventBytes code p (s.part p).tdisp s.tstamp)] }

/-- The order of two postings of one cycle (R318): by core, then by slice. -/
def postsBefore (x y : TrapRec) : Bool :=
  decide (x.core < y.core) || (x.core == y.core && decide ((homeSlice (lineOf x.addr)).val < (homeSlice (lineOf y.addr)).val))

/-- A posting among those not yet decided (R318): after the postings of earlier cycles, and in its place among those of its own. -/
def insertPosting (now : Nat) (x : TrapRec) : List (Nat × TrapRec) → List (Nat × TrapRec)
  | [] => [(now, x)]
  | (n, y) :: l =>
    if n = now && postsBefore x y then (now, x) :: (n, y) :: l
    else (n, y) :: insertPosting now x l

/-- A record reaches the queue engine, which decides its space at the end of a cycle (R318). -/
def enqueueRecord (s : State) (p : PartId) (x : TrapRec) : State :=
  s.modPart p (fun q => { q with trap := { q.trap with posted := insertPosting s.cycle { x with ts := s.tstamp } q.trap.posted } })

/-- A fatal record of a context whose DUMPLEN is nonzero starts a dump, or joins the running one (R323). -/
def dumpStart (s : State) (p : PartId) (x : TrapRec) : State :=
  if x.cls = 1 && x.tid != 0 && ctxWord s p x.ctx 0x20 != 0 then
    let s := s.modThreads p (fun t => if t.ctx = x.ctx then { t with parked := true } else t)
    let q := s.part p
    if q.dumps.any (fun d => d.ctx == x.ctx) then
      s.modPart p (fun q => { q with
        dumps := q.dumps.map (fun d => if d.ctx = x.ctx then { d with extra := d.extra ++ [x] } else d) })
    else if q.dumps.length ≤ 16 then
      let s' := s.modPart p (fun q => { q with dumps := q.dumps ++ [{ ctx := x.ctx, first := x, extra := [] }] })
      if q.dumps.isEmpty then s'.push (.dumpComplete p) else s'
    else enqueueRecord s p { TrapRec.none with code := 0x048, cls := 2, ctx := x.ctx, corr := x.corr }
  else s

/-- A record is posted (R316 to R318), with its TSTAMP. -/
def postRecord (s : State) (p : PartId) (x : TrapRec) : State := dumpStart (enqueueRecord s p x) p { x with ts := s.tstamp }

/-! ## Taking an exception and returning from one -/

/-- The trace and counter events of a fault or a drop (R412 code 17, R416 condition 4, R418 kind 3). -/
def faultEvents (s : State) (r : TRef) (t : Thread) : State :=
  ((s.count r.part r.core 17 (some r.slot) 1).traceSlotCond r 4).traceRec r 3 t.pc t.corr

/-- Handler entry (R311): EPC, EADDR and ECAUSE are saved and the pc becomes the context's HANDLER; without a usable handler, or
inside one, the thread posts a fatal unhandled record and parks. `eaddr` is none where EADDR is EPC (R27). For a TRAP, EPC is
the address of the word after it (R348). The handler's first bundle issues 8 cycles after the faulting one, and in a later cycle than the reply
that brought the fault (R20, R21). DEDUCED (log 18). -/
def takeTrap (s : State) (r : TRef) (k : Cause) (eaddr : Option Word) : State :=
  match s.thread r with
  | none => s
  | some t =>
    let epc := match k with
      | .trap _ => nextPc t.pc 4
      | _ => t.pc
    let ea := eaddr.getD t.pc
    let h := ctxWord s r.part t.ctx 0x08
    let t' := { t with latch := none, wait := none, pend := none, prepared := none, mark := none, barGen := none, migrate := none }
    let s := faultEvents s r t
    let s := match k with
      | .trap n => if field (s.core r.part r.core).w.trctrg 16 10 == n.toNat then s.traceCond r.part r.core 6 else s
      | _ => s
    if t.active || h = 0 || !canonical h || h.toNat % 4 != 0 then
      postRecord (s.setThread r { t' with parked := true }) r.part (TrapRec.ofThread r t 0x030 1 t.pc ea)
    else
      logMark (s.setThread r { t' with
        epc := epc, eaddr := ea, ecause := word (2 ^ 63 + k.code), pc := h, readyAt := Nat.max t.readyAt (s.cycle + 1) })
        r 7 (some (word k.code))

/-- The return from a handler (R349): ACTIVE is cleared, CODE kept, and the pc becomes EPC, which is not checked. -/
def returnTrap (s : State) (r : TRef) : State :=
  s.modThread r (fun t => { t with ecause := setField t.ecause 63 1 0, pc := t.epc })

/-- A thread that one of the causes of R325 reaches is parked at its next issue, or where it waits at a containment point (R342): its record is
posted already. -/
def parkAtIssue (s : State) (r : TRef) (code : Nat) : State :=
  s.modThread r (fun t => { t with
    parked := true, parkAt := none, ecause := setField t.ecause 0 12 code, wait := none, latch := none, prepared := none, mark := none })

/-- A bundle meets a page fault (R26, R312): the thread is dropped, nothing of it is saved or committed, and the unit that found
the fault posts a replayable record, or a fatal one where the poisoned-table list is full (R205). -/
def dropThread (s : State) (r : TRef) (x : TrapRec) : State :=
  match s.thread r with
  | none => s
  | some t =>
    let x := { x with ctx := t.ctx, core := r.core.val, slot := r.slot.val, tid := t.tid, corr := t.corr, pc := t.pc }
    postRecord ((faultEvents s r t).setThread r
      { t with dropped := some x, latch := none, wait := none, pend := none, prepared := none, mark := none, migrate := none }) r.part x

/-- A thread is parked by one of the causes of R325: ECAUSE.CODE is set, ACTIVE is unchanged; its bundle reissues after a WAKE. -/
def fatalPark (s : State) (r : TRef) (x : TrapRec) : State :=
  match s.thread r with
  | none => s
  | some t =>
    postRecord (s.setThread r { t with
      parked := true, ecause := setField t.ecause 0 12 x.code, wait := none, latch := none,
      strain := { t.strain with parked := x.code == 0x032 || x.code == 0x033 } }) r.part x

/-! ## Committing a bundle -/

/-- Full bits cleared. -/
def clearFull (f : Vector Bool 16) (l : List Reg) : Vector Bool 16 := l.foldl (fun f (i : Reg) => f.set i false) f

/-- One register write, with its full bit (R13). -/
def Regs.write (r : Regs) (d : Reg) (v : Word) : Regs := { g := r.g.set d v, full := r.full.set d true }

/-- The general registers after a commit: synchronised reads empty, writes fill (R13, R85). -/
def commitRegs (r : Regs) (c : Commit) : Regs :=
  c.regs.foldl (fun r e => r.write e.1 e.2) { g := r.g, full := clearFull r.full (c.clears ++ c.empties) }

/-- The strainer's CRC of R113: generator x^12 + x^11 + x^3 + x^2 + x + 1, most significant bit first. -/
def crcBit (c : BitVec 12) (b : Bool) : BitVec 12 :=
  if (c.getLsbD 11 != b) then (c <<< 1) ^^^ 0x80F#12 else c <<< 1

/-- The 16-bit tuple of a word (R113). -/
def crcTuple (w : BitVec 32) : BitVec 16 := wK w ++ wD w ++ wA w ++ wB w ++ 0#3

def crcWord (c : BitVec 12) (w : BitVec 32) : BitVec 12 :=
  (List.range 16).foldl (fun c i => crcBit c ((crcTuple w).getLsbD (15 - i))) c

/-- BLK words do not count in the digest (R113). -/
def isBlkWord (w : BitVec 32) : Bool := wK w == 0 && (wMajor w).toNat == 0x07

/-- STATUS after a commit: an MTS STATUS first, then the flags that the bundle sets (R11, R12). -/
def commitStatus (st : Word) (c : Commit) : Word := (c.status.getD st) ||| c.flags.setWidth 64

/-- STATUS.VDIRTY, re-evaluated at the commit of every bundle (R169). -/
def withVdirty (t : Thread) : Thread :=
  { t with status := if t.vdirty then t.status ||| 0x2000 else t.status &&& ~~~(0x2000 : Word) }

/-- The vector and mask registers after a commit. -/
def commitVectors (t : Thread) (c : Commit) : Thread :=
  withVdirty { t with
    v := c.vregs.foldl (fun v e => v.set e.1 e.2) t.v, m := c.mregs.foldl (fun m e => m.set e.1 e.2) t.m }

/-- The registers delivered in the cycle `now` take effect after a bundle that writes them in it (R85). -/
def redeliver (t : Thread) (now : Nat) (c : Commit) (r : Regs) : Regs :=
  if t.arrivedIn = now then
    (t.arrived.filter (fun e => c.regs.any (fun x => x.1 == e.1))).foldl (fun r e => r.write e.1 e.2) r
  else r

/-- The strainer's values after the words of a bundle commit (R113): C takes every word but BLKs, from the thread's first BLK on. -/
def strainCommit (x : Strainer) (ws : List (BitVec 32)) : Strainer :=
  if ws.any isBlkWord then { x with on := true } else if x.on then { x with c := ws.foldl crcWord x.c } else x

/-- The thread after its bundle of `size` bytes and words `ws` commits in cycle `now` (R18). -/
def commitThread (t : Thread) (now size : Nat) (ws : List (BitVec 32)) (c : Commit) : Thread :=
  { commitVectors t c with
    regs := redeliver t now c (commitRegs t.regs c), status := (commitVectors { t with status := commitStatus t.status c } c).status,
    pc := c.target.getD (nextPc t.pc size), strain := strainCommit t.strain ws, wait := none, latch := none, pend := none,
    prepared := none, mark := none, barGen := none }

/-- A bundle commits: its registers, full bits, flags and pc together (R18), then what a commit brings about: the log's records
(R330), the trace record of a taken transfer (R418), and a migration that its accesses requested (R141). -/
def commitAt (s : State) (r : TRef) (size : Nat) (ws : List (BitVec 32)) (c : Commit) : State :=
  match s.thread r with
  | none => s
  | some t =>
    let s := s.setThread r (commitThread t s.cycle size ws c)
    let s := logItems s r t.pc c.log
    let s := if c.log.any LogItem.isFlow then s.traceRec r 1 t.pc t.corr else s
    if t.migrate.isSome then { s with events := .migration r :: s.events } else s

/-- A bundle that waits: its sources stay as read at issue (R17), except where it waits on a register (R14). -/
def waitThread (s : State) (r : TRef) (w : Wait) : State :=
  s.modThread r (fun t => { t with
    wait := some w, latch := match w with | .regs _ => t.latch | _ => some t.src })

/-- A bundle waits for a reply, which commits what `q` says (R21). -/
def pendThread (s : State) (u : Cur) (q : Pend) : State :=
  s.modThread u.at_ (fun t => { t with
    pend := some { q with size := u.size, words := u.words }, wait := some .reply, latch := some t.src })

/-- The cycle before which the second word of a pair does not commit: its reply time counts from the bundle's issue (R93, R101). -/
def holdUntil (s : State) (u : Cur) : Nat :=
  if u.phase ≠ .held ∨ u.hold.lat = 0 then 0 else ((s.thread u.at_).map (fun t => t.issuedIn)).getD 0 + u.hold.lat

/-- The cycle in which a bundle that has computed its effect commits: that of its latest reply (R21). -/
def commitDue (s : State) (u : Cur) (lat : Nat) : Nat := Nat.max (s.cycle + lat) (holdUntil s u)

/-- A word that takes effect at the commit of its bundle (R18, R345): where the arithmetic word beside it replies late, it waits for that (R93, R101). -/
def atCommit (s : State) (go : Unit → Res) : Res :=
  if holdUntil s s.cur ≤ s.cycle then go () else .wait (.late (holdUntil s s.cur)) s

/-- The records of a bundle whose watched write has been performed are written at once, with the write's stamp (R332, R335); the FLOW
of a taken transfer stays for the commit. DEDUCED (log 35). -/
def logPerformed (s : State) (r : TRef) (c : Commit) : State :=
  match s.thread r with
  | none => s
  | some t => if c.log.any LogItem.isWrite then logItems s r t.pc (c.log.filter (fun i => !i.isFlow)) else s

/-- What of a commit is left once `logPerformed` has written its records. -/
def Commit.unlogged (c : Commit) : Commit :=
  if c.log.any LogItem.isWrite then { c with log := c.log.filter LogItem.isFlow } else c

/-- A bundle commits in the cycle of its reply: at once, or when the reply comes (R18, R20, R21). -/
def commitIn (s : State) (u : Cur) (due : Nat) (c : Commit) : State :=
  if due ≤ s.cycle then commitAt s u.at_ u.size u.words c
  else
    (pendThread (logPerformed s u.at_ c) u
        { commit := c.unlogged, dest := none, log := .nothing, ty := none, addr := 0, size := 0, words := [], notBefore := due }).after
      (due - s.cycle) (.memoryReply u.at_ none)

/-- The state after a word of the bundle u has come to `x`. DEDUCED (log 15). -/
def settle (u : Cur) (x : Res) : State :=
  match x with
  | .done c s =>
    match u.phase with
    | .second => { s with cur := { u with hold := c, phase := .held } }
    | .first => commitIn s u (commitDue s u c.lat) c
    | .held => commitIn s u (commitDue s u c.lat) (Commit.merge c u.hold)
  | .trap k ea s => takeTrap s u.at_ k ea
  | .drop q s => dropThread s u.at_ q
  | .wait w s => waitThread s u.at_ w
  | .pend q s =>
    match u.phase with
    | .held => pendThread s u { q with commit := Commit.merge q.commit u.hold, notBefore := holdUntil s u }
    | .first | .second => pendThread s u q
  | .ended s => s

/-- Full bits that a word's synchronised reads clear at the commit (R13, R15). -/
def Res.clearing (x : Res) (l : List Reg) : Res :=
  match x with
  | .done c s => .done { c with clears := c.clears ++ l } s
  | .pend q s => .pend { q with commit := { q.commit with clears := q.commit.clears ++ l } } s
  | .trap _ _ _ | .drop _ _ | .wait _ _ | .ended _ => x

/-- The registers among `l` that are empty as the bundle sees them (R14). -/
def emptyRegs (t : Thread) (l : List Reg) : List Reg := l.filter (fun i => !t.src.full[i])

/-- A word of the running thread's bundle: it waits while a register that it reads synchronously is empty (R14), and comes to
`f` otherwise. DESIGN CHOICE (log 4). -/
def runWord (srcs : List Src) (f : TRef → Thread → State → Res) (s : State) : Out :=
  match s.thread s.cur.at_ with
  | none => .fault .noThread
  | some t =>
    let e := emptyRegs t (syncRegs srcs)
    if e.isEmpty then .next (settle s.cur ((f s.cur.at_ t s).clearing (syncRegs srcs)))
    else .next (waitThread s s.cur.at_ (.regs e))

/-- A word that computes from registers alone and always completes. -/
def runPure (srcs : List Src) (f : Thread → Commit) (s : State) : Out :=
  runWord srcs (fun _ t s => .done (f t) s) s

/-- The address of the bundle that follows (R16). -/
def followPc (t : Thread) (s : State) : Word := nextPc t.pc s.cur.size

end Sys2Proof.Machine
end

