-- ==== Sys2Proof/Config.lean ====
section
/-! DEFINITION. What the spec leaves to one implementation or does not give: free values, without bodies, so that nothing can
be proved of what they are. -/
namespace Sys2Proof

/-- Of the two FP32 values nearest the exact 2^x of a .f32 lane, whether VEXP2 delivers the upper one (R185). DESIGN CHOICE (log 8). -/
opaque Config.vexp2Upper : BitVec 32 → Bool
/-- The same choice for VRCP (R185): the value of greater magnitude. -/
opaque Config.vrcpUpper : BitVec 32 → Bool
/-- The same choice for VRSQ (R185). -/
opaque Config.vrsqUpper : BitVec 32 → Bool

/-- The digest of a certificate chain that SPDM returns (R398): the spec names no hash for it. DESIGN CHOICE (log 9). -/
opaque Config.digest : List Byte → BitVec 512
/-- A signature by one of the part's keys, over bytes, in the order in which signatures are made (R398). -/
opaque Config.signature : Nat → List Byte → List Byte
/-- The part's certificate chain (R398). DESIGN CHOICE (log 9). -/
opaque Config.certificate : List Byte
/-- SPDM's to-be-signed data of the messages exchanged in a session (R398): SPDM lays them out, not the spec. DESIGN CHOICE (log 9). -/
opaque Config.toBeSigned : List (List Byte) → List Byte
/-- The bytes of an SPDM message: its code, and what it carries as numbers (R398). DESIGN CHOICE (log 9). -/
opaque Config.spdmBytes : Nat → List Nat → List Byte
/-- A Falcon-1024 signature over a digest verifies under a key of the part's chain (R401). DESIGN CHOICE (log 9). -/
opaque Config.verifies : List Byte → List Byte → Bool
/-- The firmware image that runs from power-on: of the Idran controller (1), of the compute dies (2) (R401). DESIGN CHOICE (log 9). -/
opaque Config.firmware : Nat → List Byte
/-- The signature of a firmware image that power-on starts (R401, R427), and whether the die-to-die links train. DESIGN CHOICE (log 41). -/
opaque Config.bootSignature : Nat → List Byte
opaque Config.diesTrained : Nat → Bool
/-- The bytes under measurements 3 and 4, of the numbers that are measured (R401): the spec gives no layout. DESIGN CHOICE (log 9). -/
opaque Config.measuredBytes : Nat → List Nat → List Byte

/-- The bytes that another module's memory returns to a copy (R371): that memory is outside the model. DESIGN CHOICE (log 7). DESIGN CHOICE (log 11). -/
opaque Config.remoteByte : Nat → Byte
/-- Another module answers a copy's request with an error reply (R370, R371): its rights and its state are outside the model. DESIGN CHOICE (log 7). DESIGN CHOICE (log 11). -/
opaque Config.beatRefused : Nat → Bool
/-- The domain's switch offers reduction (R376). -/
opaque Config.switchReduces : Bool
/-- The bytes of a sum that the switch delivers (R376), and of a STAGE left undefined (R378). -/
opaque Config.switchByte : Nat → Byte
opaque Config.stageByte : Nat → Byte
/-- What the shared units' counters and the link grid have counted by a reading (R410, R413): flits and conflicts are timing. DESIGN CHOICE (log 7). DESIGN CHOICE (log 12). -/
opaque Config.sharedCount : Nat → Word
/-- A word of the 64-byte state of a stream in a save area (R322): whether it is bound and ended, the bytes in its buffer, and the word's number.
DESIGN CHOICE (log 53). -/
opaque Config.streamState : Bool → Bool → Nat → Nat → Word
/-- The bytes of a channel log's entry (R386, R391): its format is the part's own. DESIGN CHOICE (log 58). -/
opaque Config.chanEntry : Instr → List Byte
/-- An output of a router has a link (R408): the spec does not place the routers of a die's mesh. DESIGN CHOICE (log 12). -/
opaque Config.linked : Nat → Nat → Bool

end Sys2Proof
end

