-- ==== Sys2Proof/Machine/Float.lean ====
section
/-! DEFINITION. Floating-point values, their formats, exact sums and the one rounding (05 R61 to R76, 07 R104 to R109, 10 R185).
Values are computed exactly on integers and rounded once at the end. -/
namespace Sys2Proof.Machine

/-! ## Values and flags -/

/-- A value of a float format: a NaN (signalling or quiet), an infinity, or (-1)^neg · m · 2^e. -/
inductive FVal where
  | nan (signalling : Bool)
  | inf (neg : Bool)
  | fin (neg : Bool) (m : Nat) (e : Int)
deriving DecidableEq, Repr

/-- The sticky flags of R11, bits 4 to 0. -/
abbrev FFlags := BitVec 5
def flNV : FFlags := 0x10#5
def flDZ : FFlags := 0x08#5
def flOF : FFlags := 0x04#5
def flUF : FFlags := 0x02#5
def flNX : FFlags := 0x01#5
def flagIf (b : Bool) (f : FFlags) : FFlags := if b then f else 0

/-- An IEEE format (R61): exponent and mantissa bits. -/
structure Fmt where
  ebits : Nat
  mbits : Nat
deriving DecidableEq, Repr

def Fmt.f32 : Fmt := { ebits := 8, mbits := 23 }
def Fmt.f16 : Fmt := { ebits := 5, mbits := 10 }
def Fmt.bf16 : Fmt := { ebits := 8, mbits := 7 }
def Fmt.bias (f : Fmt) : Nat := 2 ^ (f.ebits - 1) - 1
def Fmt.width (f : Fmt) : Nat := 1 + f.ebits + f.mbits
/-- The pattern of +infinity. -/
def Fmt.infBits (f : Fmt) : Nat := (2 ^ f.ebits - 1) * 2 ^ f.mbits
/-- The canonical NaN (R61, R63). -/
def Fmt.nanBits (f : Fmt) : Nat := f.infBits + 2 ^ (f.mbits - 1)
def Fmt.signBit (f : Fmt) (neg : Bool) : Nat := if neg then 2 ^ (f.ebits + f.mbits) else 0

/-- A rounded result and the flags it sets. -/
structure FRes where
  bits : Nat
  fl : FFlags
deriving DecidableEq, Repr

/-- The value of a pattern (R61). -/
def Fmt.val (f : Fmt) (x : Nat) : FVal :=
  let neg := x / 2 ^ (f.ebits + f.mbits) % 2 == 1
  let e := x / 2 ^ f.mbits % 2 ^ f.ebits
  let m := x % 2 ^ f.mbits
  if e = 2 ^ f.ebits - 1 then (if m = 0 then .inf neg else .nan (m < 2 ^ (f.mbits - 1)))
  else if e = 0 then .fin neg m (1 - (f.bias : Int) - f.mbits)
  else .fin neg (m + 2 ^ f.mbits) ((e : Int) - f.bias - f.mbits)

def FVal.isNan : FVal → Bool
  | .nan _ => true
  | _ => false
def FVal.isSnan : FVal → Bool
  | .nan s => s
  | _ => false
def FVal.isInf : FVal → Bool
  | .inf _ => true
  | _ => false
def FVal.isZero : FVal → Bool
  | .fin _ m _ => m == 0
  | _ => false
def FVal.neg : FVal → FVal
  | .nan s => .nan s
  | .inf n => .inf (!n)
  | .fin n m e => .fin (!n) m e
def FVal.sign : FVal → Bool
  | .nan _ => false
  | .inf n => n
  | .fin n _ _ => n

/-! ## Rounding -/

/-- Rounding of a magnitude: to nearest even, towards zero, away from zero. -/
inductive Rnd where
  | ne | tz | az
deriving DecidableEq, Repr

/-- The magnitude m · 2^e, and a bit more where `st` holds (less than one unit of m), rounded to a multiple of 2^q: the multiple,
and whether it is inexact. Where `st` holds, q exceeds e. Of two multiples that are equally near, the even one is taken, in a format without
mantissa bits too, where R64 names no even neighbour. DESIGN CHOICE (log 81). -/
def roundAt (r : Rnd) (m : Nat) (e : Int) (st : Bool) (q : Int) : Nat × Bool :=
  if q ≤ e then (m * 2 ^ (e - q).toNat, st)
  else
    let k := (q - e).toNat
    let n := m / 2 ^ k
    let d := m % 2 ^ k
    let exact := d == 0 && !st
    let up := match r with
      | .ne => decide (2 ^ k < 2 * d) || (2 * d == 2 ^ k && (st || n % 2 == 1))
      | .tz => false
      | .az => !exact
    (if up then n + 1 else n, !exact)

/-- m1 · 2^e1 < m2 · 2^e2. -/
def magLt (m1 : Nat) (e1 : Int) (m2 : Nat) (e2 : Int) : Bool :=
  if e1 ≤ e2 then decide (m1 < m2 * 2 ^ (e2 - e1).toNat) else decide (m1 * 2 ^ (e1 - e2).toNat < m2)

/-- What a rounding into a format with `mbits` mantissa bits, least normal exponent `emin` and largest finite code `maxc` comes
to: the code of the magnitude, overflow, tininess, inexactness (R64). -/
structure Rounded where
  code : Nat
  beyond : Bool
  tiny : Bool
  inexact : Bool
deriving DecidableEq, Repr

/-- The value of a finite code of a format: mantissa and exponent. -/
def codeMag (mbits : Nat) (emin : Int) (c : Nat) : Nat × Int :=
  let e := c / 2 ^ mbits
  if e = 0 then (c, emin - mbits) else (c % 2 ^ mbits + 2 ^ mbits, emin - mbits + (e - 1 : Nat))

/-- R64: overflow and tininess are judged with an unbounded exponent range, the result is rounded within the format's own. -/
def roundMag (r : Rnd) (mbits : Nat) (emin : Int) (maxc : Nat) (m : Nat) (e : Int) (st : Bool) : Rounded :=
  let top := e + (Nat.log2 m : Int)
  let qu := top - mbits
  let u := roundAt r m e st qu
  let mx := codeMag mbits emin maxc
  let q := if qu < emin - mbits then emin - mbits else qu
  let d := roundAt r m e st q
  { code := d.1 + (q - (emin - mbits)).toNat * 2 ^ mbits, beyond := magLt mx.1 mx.2 u.1 qu,
    tiny := magLt u.1 qu 1 emin, inexact := d.2 }

def Fmt.emin (f : Fmt) : Int := 1 - (f.bias : Int)
def Fmt.maxc (f : Fmt) : Nat := f.infBits - 1

/-- RoundNE, or another rounding, of (-1)^neg · (m · 2^e, and a bit more where `st` holds) to an IEEE format, with the flags of
R64. An overflow rounds to infinity, but to the largest finite value towards zero. -/
def Fmt.round (f : Fmt) (r : Rnd) (neg : Bool) (m : Nat) (e : Int) (st : Bool) : FRes :=
  if m = 0 && !st then { bits := f.signBit neg, fl := 0 }
  else
    let x := roundMag r f.mbits f.emin f.maxc m e st
    if x.beyond then
      { bits := f.signBit neg + (match r with | .tz => f.maxc | _ => f.infBits), fl := flOF ||| flNX }
    else
      { bits := f.signBit neg + x.code, fl := flagIf x.inexact flNX ||| flagIf (x.tiny && x.inexact) flUF }

/-- The canonical NaN, with NV where the operation is invalid (R63). -/
def Fmt.nanRes (f : Fmt) (nv : Bool) : FRes := { bits := f.nanBits, fl := flagIf nv flNV }
def Fmt.infRes (f : Fmt) (neg : Bool) : FRes := { bits := f.signBit neg + f.infBits, fl := 0 }

/-- A value delivered in a format, rounded to nearest even. -/
def Fmt.deliver (f : Fmt) (v : FVal) : FRes :=
  match v with
  | .nan s => f.nanRes s
  | .inf n => f.infRes n
  | .fin n m e => f.round .ne n m e false

/-! ## Sums and products -/

/-- The least exponent of the finite terms. -/
def minExp : List FVal → Int → Int
  | [], a => a
  | .fin _ _ e :: l, a => minExp l (if e < a then e else a)
  | _ :: l, a => minExp l a

/-- The exact sum of finite terms in units of 2^q. -/
def sumAt (q : Int) : List FVal → Int
  | [] => 0
  | .fin n m e :: l =>
    let t : Int := (m * 2 ^ (e - q).toNat : Nat)
    (if n then -t else t) + sumAt q l
  | _ :: l => sumAt q l

/-- The exact sum of terms (R64, R79): a NaN among them or infinities of both signs give NaN (signalling where the operation is
invalid), an infinity stands, a zero sum is -0 only when every term is -0. -/
def sumVal (l : List FVal) : FVal :=
  if l.any FVal.isNan then .nan (l.any FVal.isSnan)
  else
    let pos := l.any (fun v => v.isInf && !v.sign)
    let neg := l.any (fun v => v.isInf && v.sign)
    if pos && neg then .nan true
    else if pos then .inf false
    else if neg then .inf true
    else
      let q := minExp l 0
      let t := sumAt q l
      if t = 0 then .fin (l.all FVal.sign) 0 0
      else .fin (t < 0) t.natAbs q

/-- An exact product; 0 × ∞ is invalid, which the signalling NaN says (R63, R104). -/
def mulVal (x y : FVal) : FVal :=
  match x, y with
  | .nan s, v => .nan (s || v.isSnan)
  | v, .nan s => .nan (s || v.isSnan)
  | .inf n, v => if v.isZero then .nan true else .inf (n != v.sign)
  | v, .inf n => if v.isZero then .nan true else .inf (n != v.sign)
  | .fin n m e, .fin n' m' e' => .fin (n != n') (m * m') (e + e')

/-- x + y in a format. -/
def Fmt.add (f : Fmt) (x y : Nat) : FRes := f.deliver (sumVal [f.val x, f.val y])
/-- x − y: −y is the term (R104). -/
def Fmt.sub (f : Fmt) (x y : Nat) : FRes := f.deliver (sumVal [f.val x, (f.val y).neg])
def Fmt.mul (f : Fmt) (x y : Nat) : FRes := f.deliver (mulVal (f.val x) (f.val y))
/-- z + x × y, rounded once (R104, R81). -/
def Fmt.fma (f : Fmt) (z x y : Nat) : FRes := f.deliver (sumVal [f.val z, mulVal (f.val x) (f.val y)])
/-- z − x × y, rounded once (R104). -/
def Fmt.fms (f : Fmt) (z x y : Nat) : FRes := f.deliver (sumVal [f.val z, (mulVal (f.val x) (f.val y)).neg])
/-- The sign bit of a pattern inverted. -/
def Fmt.flip (f : Fmt) (x : Nat) : Nat :=
  if x / 2 ^ (f.ebits + f.mbits) % 2 = 1 then x - 2 ^ (f.ebits + f.mbits) else x + 2 ^ (f.ebits + f.mbits)
/-- −RoundNE(z + x × y); a NaN stays the canonical NaN (R104). -/
def Fmt.fnma (f : Fmt) (z x y : Nat) : FRes :=
  let r := f.fma z x y
  if r.bits = f.nanBits then r else { r with bits := f.flip r.bits }

/-- x ÷ y (R104). -/
def Fmt.div (f : Fmt) (x y : Nat) : FRes :=
  match f.val x, f.val y with
  | .nan s, v => f.nanRes (s || v.isSnan)
  | v, .nan s => f.nanRes (s || v.isSnan)
  | .inf n, v => if v.isInf then f.nanRes true else f.infRes (n != v.sign)
  | .fin n _ _, .inf n' => { bits := f.signBit (n != n'), fl := 0 }
  | .fin n m e, .fin n' m' e' =>
    if m' = 0 then (if m = 0 then f.nanRes true else { f.infRes (n != n') with fl := flDZ })
    else f.round .ne (n != n') (m * 2 ^ 64 / m') (e - e' - 64) (m * 2 ^ 64 % m' != 0)

/-- One step of Newton's method for the integer square root, while it descends. -/
def isqrtStep (n : Nat) : Nat → Nat → Nat
  | 0, x => x
  | k + 1, x =>
    let y := (x + n / x) / 2
    if y < x then isqrtStep n k y else x

/-- The integer square root, rounded down. -/
def isqrt (n : Nat) : Nat := if n = 0 then 0 else isqrtStep n 400 (2 ^ (Nat.log2 n / 2 + 1))

/-- √x (R104). -/
def Fmt.sqrt (f : Fmt) (x : Nat) : FRes :=
  match f.val x with
  | .nan s => f.nanRes s
  | .inf n => if n then f.nanRes true else f.infRes false
  | .fin n m e =>
    if m = 0 then { bits := f.signBit n, fl := 0 }
    else if n then f.nanRes true
    else
      let k : Nat := if e % 2 = 0 then 64 else 65
      let a := m * 2 ^ k
      let r := isqrt a
      f.round .ne false r ((e - k) / 2) (r * r != a)

/-! ## Comparison, minimum, maximum, class -/

/-- x < y for numbers, zeros of either sign being equal. -/
def valLt (x y : FVal) : Bool :=
  match x, y with
  | .nan _, _ => false
  | _, .nan _ => false
  | .inf n, v => n && !(v.isInf && v.sign)
  | v, .inf n => !n && !(v.isInf && !v.sign)
  | .fin n m e, .fin n' m' e' =>
    if m = 0 && m' = 0 then false
    else if n && !n' then true
    else if !n && n' then false
    else if n then magLt m' e' m e else magLt m e m' e'

/-- x = y for numbers. -/
def valEq (x y : FVal) : Bool := !x.isNan && !y.isNan && !valLt x y && !valLt y x

/-- FMIN (R105). DEDUCED (log 46). -/
def Fmt.min (f : Fmt) (x y : Nat) : FRes :=
  let a := f.val x
  let b := f.val y
  let fl := flagIf (a.isSnan || b.isSnan) flNV
  if a.isNan && b.isNan then { bits := f.nanBits, fl := fl }
  else if a.isNan then { bits := y, fl := fl }
  else if b.isNan then { bits := x, fl := fl }
  else if a.isZero && b.isZero then { bits := if a.sign then x else y, fl := fl }
  else { bits := if valLt b a then y else x, fl := fl }

/-- FMAX (R105). DEDUCED (log 46). -/
def Fmt.max (f : Fmt) (x y : Nat) : FRes :=
  let a := f.val x
  let b := f.val y
  let fl := flagIf (a.isSnan || b.isSnan) flNV
  if a.isNan && b.isNan then { bits := f.nanBits, fl := fl }
  else if a.isNan then { bits := y, fl := fl }
  else if b.isNan then { bits := x, fl := fl }
  else if a.isZero && b.isZero then { bits := if a.sign then y else x, fl := fl }
  else { bits := if valLt a b then y else x, fl := fl }

/-- x with the sign bit of y (R106). -/
def Fmt.sgn (f : Fmt) (x y : Nat) : Nat := x % 2 ^ (f.ebits + f.mbits) + f.signBit (y / 2 ^ (f.ebits + f.mbits) % 2 == 1)

/-- The class mask of FCLASS (R107). -/
def Fmt.classOf (f : Fmt) (x : Nat) : Nat :=
  match f.val x with
  | .nan s => if s then 2 ^ 8 else 2 ^ 9
  | .inf n => if n then 2 ^ 0 else 2 ^ 7
  | .fin n m _ =>
    if m = 0 then (if n then 2 ^ 3 else 2 ^ 4)
    else if m < 2 ^ f.mbits then (if n then 2 ^ 2 else 2 ^ 5)
    else (if n then 2 ^ 1 else 2 ^ 6)

/-! ## Narrow formats -/

/-- A narrow-format descriptor's fields (R66). -/
structure Nf where
  s : Bool
  e : Nat
  m : Nat
  bias : Nat
  spec : Nat
  sat : Nat
  scaled : Bool
deriving DecidableEq, Repr

def Nf.width (n : Nf) : Nat := (if n.s then 1 else 0) + n.e + n.m

/-- The descriptor of a word, where R67 holds it valid. -/
def nfOf (w : Word) : Option Nf :=
  let n : Nf := { s := bit w 0, e := field w 4 4, m := field w 8 4, bias := field w 12 7, spec := field w 19 2,
                  sat := field w 21 2, scaled := bit w 23 }
  if decide (1 ≤ n.width) && decide (n.width ≤ 8) && decide (n.m ≤ 7) && decide (n.e ≤ 7) && decide (n.sat ≤ 1) &&
     decide (n.spec ≤ 2) && field w 24 40 == 0 && field w 1 3 == 0 && (n.spec != 1 || decide (2 ≤ n.e)) &&
     (n.spec != 2 || decide (1 ≤ n.e)) && (n.sat != 1 || n.spec == 1) && (n.e != 0 || n.spec == 0)
  then some n else none

/-- The container of an element, in bits (R69). -/
def Nf.container (n : Nf) : Nat := if n.width ≤ 4 then 4 else 8

/-- The value of an element of a narrow format (R68); its higher container bits are ignored (R69). Of a format whose NaN has no
mantissa bit the NaN is quiet, else its top mantissa bit says so, as in R61. DEDUCED (log 30). -/
def Nf.val (n : Nf) (x : Nat) : FVal :=
  let x := x % 2 ^ n.width
  if n.e = 0 then
    if n.s && 2 ^ (n.width - 1) ≤ x then .fin true (2 ^ n.width - x) (-(n.bias : Int))
    else .fin false x (-(n.bias : Int))
  else
    let neg := n.s && x / 2 ^ (n.e + n.m) % 2 == 1
    let e := x / 2 ^ n.m % 2 ^ n.e
    let m := x % 2 ^ n.m
    let ones := e == 2 ^ n.e - 1
    if n.spec == 1 && ones then (if m = 0 then .inf neg else .nan (m < 2 ^ (n.m - 1)))
    else if n.spec == 2 && ones && m == 2 ^ n.m - 1 then .nan false
    else if e = 0 then .fin neg m (1 - (n.bias : Int) - n.m)
    else .fin neg (m + 2 ^ n.m) ((e : Int) - n.bias - n.m)

/-- The code of the largest finite magnitude of a format with E ≥ 1. -/
def Nf.maxc (n : Nf) : Nat :=
  if n.spec = 1 then (2 ^ n.e - 1) * 2 ^ n.m - 1 else if n.spec = 2 then 2 ^ (n.e + n.m) - 2 else 2 ^ (n.e + n.m) - 1

def Nf.signBit (n : Nf) (neg : Bool) : Nat := if n.s && neg then 2 ^ (n.e + n.m) else 0

/-- Conversion of a value into a narrow format with E ≥ 1 (R74). In a format whose largest finite magnitude is 0 (E = 1, M = 0, SPEC = 2) a tiny
nonzero value meets R74's overflow and R64's tininess together: it is an overflow alone. DESIGN CHOICE (log 81). -/
def Nf.deliverFloat (n : Nf) (v : FVal) : FRes :=
  match v with
  | .nan _ => { bits := if n.spec = 0 then 0 else 2 ^ (n.e + n.m) - 1, fl := flNV }
  | .inf neg =>
    if neg && !n.s then { bits := 0, fl := flOF ||| flNX }
    else if n.spec = 1 then { bits := n.signBit neg + (2 ^ n.e - 1) * 2 ^ n.m, fl := 0 }
    else { bits := n.signBit neg + n.maxc, fl := flOF ||| flNX }
  | .fin neg m e =>
    if m = 0 then { bits := n.signBit neg, fl := 0 }
    else if neg && !n.s then { bits := 0, fl := flNX }
    else
      let x := roundMag .ne n.m (1 - (n.bias : Int)) n.maxc m e false
      if x.beyond then
        { bits := n.signBit neg + (if n.sat = 1 then (2 ^ n.e - 1) * 2 ^ n.m else n.maxc),
          fl := flOF ||| flNX }
      else { bits := n.signBit neg + x.code, fl := flagIf x.inexact flNX ||| flagIf (x.tiny && x.inexact) flUF }

/-- Conversion of a value into a narrow format with E = 0: an integer in units of 2^-BIAS, clamped (R74). -/
def Nf.deliverInt (n : Nf) (v : FVal) : FRes :=
  let w := n.width
  let top := if n.s then 2 ^ (w - 1) - 1 else 2 ^ w - 1
  let low := if n.s then 2 ^ (w - 1) else 0
  match v with
  | .nan _ => { bits := 0, fl := flNV }
  | .inf neg => { bits := if neg then low else top, fl := flOF ||| flNX }
  | .fin neg m e =>
    if m = 0 then { bits := 0, fl := 0 }
    else if neg && !n.s then { bits := 0, fl := flNX }
    else
      let r := roundAt .ne m e false (-(n.bias : Int))
      if (if neg then low else top) < r.1 then { bits := if neg then low else top, fl := flOF ||| flNX }
      else
        { bits := if neg then (2 ^ w - r.1) % 2 ^ w else r.1,
          fl := flagIf r.2 flNX ||| flagIf (r.1 == 0) (flUF ||| flNX) }

def Nf.deliver (n : Nf) (v : FVal) : FRes := if n.e = 0 then n.deliverInt v else n.deliverFloat v

/-! ## Integers -/

/-- The value of an integer. -/
def intVal (i : Int) : FVal := .fin (decide (i < 0)) i.natAbs 0

/-- The magnitude of a finite value rounded to an integer. -/
def roundInt (rm : RMode) (neg : Bool) (m : Nat) (e : Int) : Nat × Bool :=
  roundAt (match rm with
    | .rne => .ne
    | .rz => .tz
    | .rdn => if neg then .az else .tz
    | .rup => if neg then .tz else .az) m e false 0

/-- A float to an integer between two bounds (R75). -/
def toInt (rm : RMode) (lo hi : Int) (v : FVal) : Int × FFlags :=
  match v with
  | .nan _ => (0, flNV)
  | .inf neg => (if neg then lo else hi, flNV)
  | .fin neg m e =>
    let r := roundInt rm neg m e
    let i : Int := if neg then -(r.1 : Int) else r.1
    if i < lo then (lo, flNV) else if hi < i then (hi, flNV) else (i, flagIf r.2 flNX)

/-! ## Functions to within one unit -/

/-- The value of a format just below the exact magnitude is a normal power of two, less than a quarter of its unit away: the next value
below it, half a unit off, is then nearer than the next above. -/
def Fmt.nearBelow (f : Fmt) (code m : Nat) (e : Int) (st : Bool) : Bool :=
  let q := e + (Nat.log2 m : Int) - f.mbits
  code % 2 ^ f.mbits == 0 && decide (2 ≤ code / 2 ^ f.mbits) && (roundAt .tz m e st (q - 2)).1 % 4 == 0

/-- One of the two values of a format that are nearest to the exact magnitude m · 2^e (and a bit more): the upper one when `up`. A
result above the largest finite value is infinity (R185). -/
def Fmt.pick (f : Fmt) (up : Bool) (neg : Bool) (m : Nat) (e : Int) (st : Bool) : Nat :=
  let x := roundMag .tz f.mbits f.emin f.maxc m e st
  if x.beyond || (x.code == f.maxc && x.inexact) then f.signBit neg + f.infBits
  else if !x.inexact then f.signBit neg + x.code
  else if f.nearBelow x.code m e st then f.signBit neg + x.code - (if up then 0 else 1)
  else f.signBit neg + x.code + (if up then 1 else 0)

/-- 2^(2^-i) in units of 2^-160, by square roots from 2. -/
def rootsOfTwo : Nat → Nat → List Nat
  | 0, _ => []
  | k + 1, c =>
    let r := isqrt (c * 2 ^ 160)
    r :: rootsOfTwo k r

/-- 2^f in units of 2^-160, for f = n · 2^-96 with n below 2^96: the product of the roots that f's bits select. -/
def exp2Frac (n : Nat) : List Nat → Nat → Nat → Nat
  | [], _, acc => acc
  | c :: l, i, acc => exp2Frac n l (i - 1) (if n / 2 ^ i % 2 = 1 then acc * c / 2 ^ 160 else acc)

/-- 2^x of a finite x: mantissa, exponent, and whether there is a bit more. -/
def exp2Val (neg : Bool) (m : Nat) (e : Int) : Nat × Int × Bool :=
  -- x in units of 2^-96, rounded down, and what is lost
  let r := roundAt (if neg then .az else .tz) m e false (-96)
  let i : Int := if neg then -(r.1 : Int) else r.1
  let fr := (i % (2 ^ 96 : Int)).toNat
  (exp2Frac fr (rootsOfTwo 96 (2 ^ 161)) 95 (2 ^ 160), i / (2 ^ 96 : Int) - 160, fr != 0 || r.2)

/-- VEXP2 of a lane (R185). The exponent of an operand of 2^15 or more in magnitude is beyond every format. -/
def Fmt.exp2 (f : Fmt) (x : Nat) : Nat :=
  let go (neg : Bool) (m : Nat) (e : Int) : Nat :=
    let y := exp2Val neg m e
    match f.mbits with
    | 23 => f.pick (Config.vexp2Upper (BitVec.ofNat 32 x)) false y.1 y.2.1 y.2.2
    | _ => (f.round .ne false y.1 y.2.1 y.2.2).bits
  match f.val x with
  | .nan _ => f.nanBits
  | .inf n => if n then 0 else f.infBits
  | .fin neg m e => if magLt m e 1 15 then go neg m e else go neg 1 15

/-- VRCP of a lane (R185). -/
def Fmt.rcp (f : Fmt) (x : Nat) : Nat :=
  match f.val x with
  | .nan _ => f.nanBits
  | .inf n => f.signBit n
  | .fin n m e =>
    if m = 0 then f.signBit n + f.infBits
    else
      let q := 2 ^ 64 / m
      let st := 2 ^ 64 % m != 0
      match f.mbits with
      | 23 => f.pick (Config.vrcpUpper (BitVec.ofNat 32 x)) n q (-e - 64) st
      | _ => (f.round .ne n q (-e - 64) st).bits

/-- VRSQ of a lane (R185). -/
def Fmt.rsq (f : Fmt) (x : Nat) : Nat :=
  match f.val x with
  | .nan _ => f.nanBits
  | .inf n => if n then f.nanBits else 0
  | .fin n m e =>
    if m = 0 then f.signBit n + f.infBits
    else if n then f.nanBits
    else
      -- m · 2^e with an even exponent
      let a := if e % 2 = 0 then m else 2 * m
      let h := (if e % 2 = 0 then e else e - 1) / 2
      let r := isqrt (2 ^ 144 / a)
      let st := r * r * a != 2 ^ 144
      match f.mbits with
      | 23 => f.pick (Config.vrsqUpper (BitVec.ofNat 32 x)) false r (-h - 72) st
      | _ => (f.round .ne false r (-h - 72) st).bits

end Sys2Proof.Machine
end

