-- ==== Sys2Proof/Machine/TypeOps.lean ====
section
/-! DEFINITION. What the operand kinds of the encoded words stand for: widths, extensions, formats, bounds and conditions
(03 R42, R43, 06 R89, 07 R99, R108 to R110, R115, 10 R170). -/
namespace Sys2Proof

open Sys2Proof.Machine

def FType.fmt : FType → Fmt
  | .f32 => Fmt.f32
  | .f16 => Fmt.f16
  | .bf16 => Fmt.bf16

/-- A float condition (R108). -/
def FCc.holds (c : FCc) (x y : FVal) : Bool :=
  let un := x.isNan || y.isNan
  match c with
  | .eq => valEq x y
  | .ne => !valEq x y
  | .lt => valLt x y
  | .ge => !un && !valLt x y
  | .le => !un && !valLt y x
  | .gt => valLt y x
  | .un => un
  | .ord => !un

/-- Whether a comparison sets NV (R108): for any NaN in .lt, .ge, .le and .gt, else for a signalling one. -/
def FCc.invalid (c : FCc) (x y : FVal) : Bool :=
  match c with
  | .lt | .ge | .le | .gt => x.isNan || y.isNan
  | .eq | .ne | .un | .ord => x.isSnan || y.isSnan

/-- The width of a load in bytes (R42). -/
def LdType.bytes : LdType → Nat
  | .s8 | .z8 => 1
  | .s16 | .z16 => 2
  | .s32 | .z32 => 4
  | .s64 => 8

/-- The value a load writes to gd (R115). -/
def LdType.extend (ty : LdType) (v : Nat) : Word :=
  match ty with
  | .s8 => sextTo 8 v
  | .s16 => sextTo 16 v
  | .s32 => sextTo 32 v
  | .s64 => word v
  | .z8 => word (v % 2 ^ 8)
  | .z16 => word (v % 2 ^ 16)
  | .z32 => word (v % 2 ^ 32)

/-- The width of a store in bytes (R42). -/
def StType.bytes : StType → Nat
  | .b8 => 1
  | .b16 => 2
  | .b32 => 4
  | .b64 => 8

/-- The value an element has in a general register: sign-extended for integer types, placed by R99 for float types (R184,
R187). -/
def VType.toReg (ty : VType) (x : Nat) : Word := if ty.isInt then sextTo ty.width x else word x

/-- The float format of a vector type; types without one are never asked for it. -/
def VType.fmt : VType → Fmt
  | .f16 => Fmt.f16
  | .bf16 => Fmt.bf16
  | .f32 | .s8 | .s16 | .s32 | .s64 | .nf => Fmt.f32

/-- An integer condition of R89 on 64-bit patterns. -/
def Cc.holds (c : Cc) (x y : Word) : Bool :=
  match c with
  | .eq => x == y
  | .ne => x != y
  | .lt => decide (x.toInt < y.toInt)
  | .ge => decide (x.toInt ≥ y.toInt)
  | .le => decide (x.toInt ≤ y.toInt)
  | .gt => decide (x.toInt > y.toInt)
  | .ult => decide (x.toNat < y.toNat)
  | .uge => decide (x.toNat ≥ y.toNat)
  | .ule => decide (x.toNat ≤ y.toNat)
  | .ugt => decide (x.toNat > y.toNat)

/-- The IEEE format of a conversion's type, or none for .nf. -/
def CType.ieee : CType → Option Fmt
  | .f32 => some Fmt.f32
  | .f16 => some Fmt.f16
  | .bf16 => some Fmt.bf16
  | .nf => none

/-- The bounds of an integer type (R75). -/
def IType.bounds : IType → Int × Int
  | .s32 => (-(2 ^ 31), 2 ^ 31 - 1)
  | .s64 => (-(2 ^ 63), 2 ^ 63 - 1)
  | .z32 => (0, 2 ^ 32 - 1)
  | .z64 => (0, 2 ^ 64 - 1)

/-- The integer that FCVTF reads (R109). -/
def IType.read (it : IType) (x : Word) : Int :=
  match it with
  | .s32 => (x.extractLsb' 0 32).toInt
  | .s64 => x.toInt
  | .z32 => (x.extractLsb' 0 32).toNat
  | .z64 => x.toNat

/-- signed(x) cc 0 (R110). -/
def BrCc.holds (c : BrCc) (x : Word) : Bool :=
  match c with
  | .lt => decide (x.toInt < 0)
  | .ge => decide (x.toInt ≥ 0)
  | .le => decide (x.toInt ≤ 0)
  | .gt => decide (x.toInt > 0)

end Sys2Proof
end

