-- ==== Sys2Proof/Machine/Flags.lean ====
section
/-! DEFINITION. The flags that the scalar floating-point instructions set (01 R11, 05 R64, 07 R102, R103), the results they write,
and the word that STATUS reads as. -/
namespace Sys2Proof.Machine

/-- A commit that writes a floating-point result to gd, higher bits zero, and sets its flags (R99, R102). -/
def fpCommit (d : Reg) (r : FRes) : Commit :=
  { Commit.reg d (word r.bits) with flags := r.fl }

/-- A commit that writes an integer result of a floating-point instruction, with flags. -/
def fpIntCommit (d : Reg) (v : Word) (fl : FFlags) : Commit := { Commit.reg d v with flags := fl }

/-- The same result whose reply arrives some cycles after issue (R101). -/
def Commit.late (c : Commit) (n : Nat) : Commit := { c with lat := n }

/-- The reply time of FDIV (R101). -/
def fdivTime (ty : FType) (x y : FVal) : Nat :=
  if x.isNan || y.isNan || x.isInf || y.isInf || x.isZero || y.isZero then 16
  else match ty with
    | .f32 => 32
    | .f16 | .bf16 => 24

/-- The reply time of FSQRT (R101). -/
def fsqrtTime (ty : FType) (x : FVal) : Nat :=
  if x.isNan || x.isInf || x.isZero || x.sign then 16
  else match ty with
    | .f32 => 32
    | .f16 | .bf16 => 24

/-- STATUS as MTS writes it (R12): the W1C fields ROLLED, NV, DZ, OF, UF and NX clear where a one is written; every other bit of
STATUS is read-only, whoever writes. DEDUCED (log 31). -/
def statusWrite (old v : Word) : Word := old &&& ~~~(v &&& 0x801F)

end Sys2Proof.Machine
end

