-- ==== Sys2Proof/Machine/Operands.lean ====
section
/-! DEFINITION. The operand forms: effective addresses (07 R110, R115, 10 R175), load and store types (R115), branch targets
(R112), float operands (R99), vector lanes and masks (10 R170, R171), narrow-format descriptors (05 R67, R71). -/
namespace Sys2Proof.Machine

/-! ## Scalar memory operands -/

/-- The size code of a log's record (R331) for a width in bytes. -/
def sizeCode (n : Nat) : Nat := Nat.log2 n

/-- `(x + sext(off15, 15)) mod 2^64` (R115). -/
def eaOffset (t : Thread) (a : Src) (off : BitVec 15) : Word := t.rd a + off.signExtend 64

/-- `(x + y × n) mod 2^64` for accesses of n bytes (R115). -/
def eaIndexed (t : Thread) (a b : Src) (n : Nat) : Word := t.rd a + t.rd b * word n

/-! ## Transfers of control -/

/-- `p + 4 × sext(off, n)` (R110). -/
def relTarget (pc : Word) {n : Nat} (off : BitVec n) : Word := pc + off.signExtend 64 * 4

/-- A taken transfer to t (R112): its target must be canonical. -/
def takeTarget (c : Commit) (t : Word) (s : State) : Res :=
  if canonical t then .done { c with target := some t, log := c.log ++ [.flow t] } s else .trap .address (some t) s

/-- A transfer to the value of a register: bits 1:0 are checked first (R54, R112). -/
def takeRegTarget (c : Commit) (t : Word) (s : State) : Res :=
  if t.toNat % 4 != 0 then .trap .alignment (some t) s else takeTarget c t s

/-! ## Floating-point operands -/

/-- A source register as an operand of a float format: its low bits (R99). -/
def fpSrc (f : Fmt) (t : Thread) (a : Src) : Nat := (t.rd a).toNat % 2 ^ f.width
/-- The destination register as an operand (R100). -/
def fpDst (f : Fmt) (t : Thread) (d : Reg) : Nat := (t.rdD d).toNat % 2 ^ f.width

/-! ## Vector operands -/

/-- Lane i of width w (R170). -/
def lane (w : Nat) (v : BitVec 512) (i : Nat) : Nat := v.toNat / 2 ^ (w * i) % 2 ^ w

/-- A vector register of lanes of width w, lane 0 first. -/
def packLanes (w : Nat) : List Nat → Nat
  | [] => 0
  | x :: l => x % 2 ^ w + 2 ^ w * packLanes w l

def lanesVec (w : Nat) (l : List Nat) : BitVec 512 := BitVec.ofNat 512 (packLanes w l)

/-- Lane i of a form with a mask field is active (R171). -/
def laneActive (t : Thread) (m : Option MReg) (i : Nat) : Bool :=
  match m with
  | none => true
  | some r => (t.m[r]).getLsbD i

/-- The new value of vd: each active lane i becomes `f i`, the others keep theirs (R171). -/
def vlanes (t : Thread) (w n : Nat) (m : Option MReg) (d : VReg) (f : Nat → Nat) : BitVec 512 :=
  lanesVec w ((List.range n).map (fun i => if laneActive t m i then f i else lane w t.v[d] i))

/-- A signed lane. -/
def slane (w x : Nat) : Int := (BitVec.ofNat w x).toInt
/-- An integer as a lane, modulo 2^w (R60). -/
def ulane (w : Nat) (i : Int) : Nat := (i % (2 ^ w : Int)).toNat

/-- The XOR of the eight 64-bit words of a vector register, as the log's ESC 1 record carries it (R331). -/
def vecXor (v : BitVec 512) : Word := (List.range 8).foldl (fun acc i => acc ^^^ v.extractLsb' (64 * i) 64) 0

/-- A commit that writes a vector register, with its record. -/
def vecCommit (d : VReg) (v : BitVec 512) : Commit := { Commit.none with vregs := [(d, v)], log := [.vec d.val (vecXor v)] }

/-- A commit that writes a mask register, with its record. -/
def maskCommit (d : MReg) (v : BitVec 64) : Commit := { Commit.none with mregs := [(d, v)], log := [.maskw d.val v] }

/-! ## Narrow-format descriptors -/

/-- The descriptor that an engine's format selector names (R71): a value format, or none where it is invalid. -/
def selectFmt (t : Thread) (sel : Nat) : Option NumFmt :=
  match sel with
  | 0 => some .f32
  | 1 => some .f16
  | 2 => some .bf16
  | 3 => if (nfOf t.fa).isSome then some (.nf t.fa) else none
  | 4 => if (nfOf t.fb).isSome then some (.nf t.fb) else none
  | 5 => if (nfOf t.fc).isSome then some (.nf t.fc) else none
  | _ => none

/-- The width of an element's container in bits. -/
def NumFmt.container : NumFmt → Nat
  | .f32 => 32
  | .f16 | .bf16 => 16
  | .nf d => match nfOf d with
    | some n => n.container
    | none => 8

/-- The value of an element of an engine operand. -/
def NumFmt.val (f : NumFmt) (x : Nat) : FVal :=
  match f with
  | .f32 => Fmt.f32.val x
  | .f16 => Fmt.f16.val x
  | .bf16 => Fmt.bf16.val x
  | .nf d => match nfOf d with
    | some n => n.val x
    | none => .nan false

/-- The descriptor of a vector form with element type .nf: valid and with 8-bit containers (R170). -/
def vecNf (desc : Word) : Option Nf :=
  match nfOf desc with
  | some n => if n.container = 8 then some n else none
  | none => none

end Sys2Proof.Machine
end

