-- ==== Sys2Proof/Machine/Cache.lean ====
section
/-! DEFINITION. The L1 data caches and the L2 slices as places that hold copies (12 R197, R206 to R208, R212, R213): finding,
changing and dropping a copy, dirty sectors, stamps, the choice of a way. `Memory` holds the newest bytes of every line; a copy
holds only what another party may still see older. -/
namespace Sys2Proof.Machine

/-! ## Slice lines -/

def State.sl (s : State) (p : PartId) (line : Nat) : Option SliceLine := (s.part p).slices.find? (fun l => l.line == line)
def State.modSl (s : State) (p : PartId) (line : Nat) (f : SliceLine → SliceLine) : State :=
  s.modPart p (fun q => { q with slices := q.slices.map (fun l => if l.line = line then f l else l) })
def State.dropSl (s : State) (p : PartId) (line : Nat) : State :=
  s.modPart p (fun q => { q with slices := q.slices.filter (fun l => l.line != line) })

/-- The set of a line in its slice: VA[17:7] (R197). -/
def setOf (line : Nat) : Nat := line % 2048
/-- A slice and set as one number, as the pin list names them (R213). -/
def setKey (line : Nat) : Nat := (homeSlice line).val * 2048 + setOf line

/-! ## L1 lines -/

def State.l1 (s : State) (p : PartId) (c : CoreId) (line : Nat) : Option L1Line :=
  (s.core p c).c.l1d.find? (fun l => l.line == line)
def State.modL1 (s : State) (p : PartId) (c : CoreId) (line : Nat) (f : L1Line → L1Line) : State :=
  s.modCoreC p c (fun k => { k with l1d := k.l1d.map (fun l => if l.line = line then f l else l) })
def State.dropL1 (s : State) (p : PartId) (c : CoreId) (line : Nat) : State :=
  s.modCoreC p c (fun k => { k with l1d := k.l1d.filter (fun l => l.line != line) })
/-- A line becomes the most recently used of its L1. -/
def State.touchL1 (s : State) (p : PartId) (c : CoreId) (line : Nat) : State :=
  s.modCoreC p c (fun k => { k with
    l1d := k.l1d.filter (fun l => l.line == line) ++ k.l1d.filter (fun l => l.line != line) })

/-- The 64-byte sector of an address in its line (R208). -/
def sectorOf (a : Nat) : Fin 2 := if a % 128 < 64 then 0 else 1
def sectorBit (i : Fin 2) : BitVec 2 := 1#2 <<< i.val
/-- The bits of a line that lie in the sectors of a mask. -/
def sectorMask (m : BitVec 2) : BitVec 1024 :=
  (if m.getLsbD 0 then (BitVec.allOnes 512).setWidth 1024 else 0) |||
  (if m.getLsbD 1 then (BitVec.allOnes 512).setWidth 1024 <<< 512 else 0)
def mergeSectors (a b : BitVec 1024) (m : BitVec 2) : BitVec 1024 := (a &&& ~~~sectorMask m) ||| (b &&& sectorMask m)

/-- The cores that hold an L1 copy of a line. -/
def State.copies (s : State) (p : PartId) (line : Nat) : List CoreId :=
  (s.part p).coreIds.filter (fun c => (s.l1 p c line).isSome)

/-- The bytes that the home holds: the newest, less what is still dirty in an L1 (R250). -/
def State.homeLine (s : State) (p : PartId) (line key : Nat) : BitVec 1024 :=
  (s.copies p line).foldl (fun v c =>
    match s.l1 p c line with
    | some l => mergeSectors v l.old l.dirty
    | none => v) (s.readLine key)

/-- The slice's line becomes dirty (R206, R212). -/
def State.dirtySlice (s : State) (p : PartId) (line : Nat) : State := s.modSl p line (fun l => { l with dirty := true })

/-- An L1's dirty sectors written to the home slice (R207, R252). -/
def State.writeBack (s : State) (p : PartId) (c : CoreId) (line : Nat) : State :=
  match s.l1 p c line with
  | some l => if l.dirty = 0 then s else (s.dirtySlice p line).modL1 p c line (fun l => { l with dirty := 0, old := 0 })
  | none => s

/-- The home's record of the copies less one core's. -/
def State.unshare (s : State) (p : PartId) (c : CoreId) (line : Nat) : State :=
  s.modSl p line (fun l => { l with sharers := l.sharers.filter (fun x => x != c) })

/-- An L1 copy leaves: dirty sectors go to the home, the copy to I (R207: invalidation, eviction, CINV). -/
def State.loseCopy (s : State) (p : PartId) (c : CoreId) (line : Nat) : State :=
  ((s.writeBack p c line).dropL1 p c line).unshare p c line

/-- Every L1 copy of a line invalidated, but one core's where named (R206, R207). -/
def State.invalidateAll (s : State) (p : PartId) (line : Nat) (keep : Option CoreId) : State :=
  ((s.copies p line).filter (fun c => keep != some c)).foldl (fun s c => s.loseCopy p c line) s

/-- A read forwarded to an L1 (R207): M goes to O, E to S, O stays. -/
def State.forwardRead (s : State) (p : PartId) (c : CoreId) (line : Nat) : State :=
  s.modL1 p c line (fun l => { l with st := match l.st with
    | .m => .o
    | .e => .s
    | .o => .o
    | .s => .s })

/-! ## Stamps and ways -/

/-- A stamp has been passed: its taster's ACK reaches it (R335). -/
def State.stampPassed (s : State) (p : PartId) (st : Stamp) : Bool := seqGe (s.core p st.core).w.logseq.toNat st.seq

/-- The line has no stamp that is not yet passed (R335). -/
def State.unstamped (s : State) (p : PartId) (l : SliceLine) : Bool :=
  match l.stamp with
  | some st => s.stampPassed p st
  | none => true

/-- The slice may evict the line: not in a locked way, and no stamp that is not yet passed (R213, R335). -/
def State.evictable (s : State) (p : PartId) (l : SliceLine) : Bool := !l.pinned && s.unstamped p l

/-- The lines of a line's set. -/
def State.setLines (s : State) (p : PartId) (line : Nat) : List SliceLine :=
  (s.part p).slices.filter (fun l => setKey l.line == setKey line)

/-- The way is locked: pinned or quarantined (R212, R213). -/
def State.wayLocked (s : State) (p : PartId) (line way : Nat) : Bool :=
  (s.part p).pins.any (fun x => x.set == setKey line && x.way == way)

/-- The locked ways of a line's set, at most two (R213). -/
def lockedWays (q : Partition) (line : Nat) : Nat := (q.pins.filter (fun x => x.set == setKey line)).length

/-- The locked way that holds the line of a frame, in a line's set (R213, R256). -/
def pinnedWay (q : Partition) (line key : Nat) : Option Nat :=
  (q.pins.find? (fun x => x.set == setKey line && x.key == some key)).map (fun x => x.way)

/-- A way locked: with the line that it holds from now on, or quarantined (R212, R213). -/
def State.lockWay (s : State) (p : PartId) (x : Pin) : State := s.modPart p (fun q => { q with pins := q.pins ++ [x] })

/-- The lowest way of the set that holds no line and is not locked (R360). -/
def State.freeWay (s : State) (p : PartId) (line : Nat) : Option Nat :=
  (List.range 16).find? (fun w => !s.wayLocked p line w && !(s.setLines p line).any (fun l => l.way == w))

/-! ## Home counters of a thread -/

/-- The entry with the least count, the lowest on ties; an empty entry counts 0 (R140). -/
def leastHome : List (Nat × Nat) → Nat → Nat × Nat → Nat
  | [], _, best => best.1
  | e :: l, i, best => leastHome l (i + 1) (if e.2 < best.2 then (i, e.2) else best)

/-- The counters after a counted access to home h (R140). -/
def countHomes (l : List (Nat × Nat)) (h : Nat) : List (Nat × Nat) :=
  if l.any (fun e => e.1 == h) then l.map (fun e => if e.1 = h then (h, Nat.min (e.2 + 1) 255) else e)
  else
    let l := if l.length < 8 then l ++ [(16, 0)] else l
    l.set (leastHome l 0 (0, 256)) (h, 1)

/-- A counted access of a thread to a slice other than its local one (R140). -/
def State.countHome (s : State) (r : TRef) (h : Nat) : State :=
  if h = localSlice r.core then s
  else
    (s.count r.part r.core 7 (some r.slot) 1).modThread r (fun t =>
      let homes := countHomes t.homes h
      let n := t.accesses + 1
      let homes := if n % 256 = 0 then homes.map (fun e => (e.1, e.2 / 2)) else homes
      let th := field (s.part r.part).r.migth 0 8
      let c := ((homes.find? (fun e => e.1 == h)).map (fun e => e.2)).getD 0
      { t with homes := homes, accesses := n, migrate := if th ≠ 0 ∧ th ≤ c then some h else t.migrate })

end Sys2Proof.Machine
end

