-- ==== Sys2Proof/Machine/Steep.lean ====
section
/-! DEFINITION. Steeping (13 R216 to R230): magnitudes, element additions, what a holder and a home do with each protocol message,
the revocation of every holder and the combination of the pour buffer. -/
namespace Sys2Proof.Machine

/-! ## FP32 magnitudes (R219) -/

/-- A magnitude rounded up to FP32. -/
def magUp (v : FVal) : BitVec 32 :=
  match v with
  | .fin _ m e => BitVec.ofNat 32 (Fmt.f32.round .az false m e false).bits
  | .inf _ | .nan _ => 0x7F800000
/-- A magnitude rounded towards zero to FP32. -/
def magDown (v : FVal) : BitVec 32 :=
  match v with
  | .fin _ m e => BitVec.ofNat 32 (Fmt.f32.round .tz false m e false).bits
  | .inf _ | .nan _ => 0x7F800000
def f32Val (b : BitVec 32) : FVal := Fmt.f32.val b.toNat
/-- RoundUp of a sum of magnitudes. -/
def addUp (l : List (BitVec 32)) : BitVec 32 := magUp (sumVal (l.map f32Val))
/-- a + b and a − b rounded towards zero; a difference below zero is zero. -/
def addDown (a b : BitVec 32) : BitVec 32 := magDown (sumVal [f32Val a, f32Val b])
def subDown (a b : BitVec 32) : BitVec 32 := if a.toNat ≤ b.toNat then 0 else magDown (sumVal [f32Val a, (f32Val b).neg])
def subUp (a b : BitVec 32) : BitVec 32 := if a.toNat ≤ b.toNat then 0 else magUp (sumVal [f32Val a, (f32Val b).neg])
/-- Half of a magnitude, rounded towards zero. -/
def halfDown (a : BitVec 32) : BitVec 32 :=
  match f32Val a with
  | .fin _ m e => magDown (.fin false m (e - 1))
  | .inf _ | .nan _ => a
/-- Magnitudes compare as their patterns do. -/
def magLe (a b : BitVec 32) : Bool := decide (a.toNat ≤ b.toNat)
def magMin (a b : BitVec 32) : BitVec 32 := if magLe a b then a else b
def magMax (a b : BitVec 32) : BitVec 32 := if magLe a b then b else a

/-- A limit or quantum field: infinity and NaN act as the largest finite value (R230). -/
def limitField (w : Word) : BitVec 32 :=
  let v := field w 0 31
  if 0x7F800000 ≤ v then 0x7F7FFFFF else BitVec.ofNat 32 v

/-- |a| rounded up, of an addend in a region's format (R219). -/
def addendMag (fmt : Nat) (a : Word) : BitVec 32 :=
  match fmt with
  | 0 => magUp (intVal (a.extractLsb' 0 32).toInt)
  | 1 => magUp (intVal a.toInt)
  | _ => magUp (Fmt.f32.val (a.toNat % 2 ^ 32))

/-! ## Elements (R216) -/

/-- Element width in bytes. -/
def elemBytes (fmt : Nat) : Nat := if fmt = 1 then 8 else 4

/-- The element addition of a format. -/
def elemAdd (fmt : Nat) (x y : Nat) : Nat :=
  match fmt with
  | 0 => (x + y) % 2 ^ 32
  | 1 => (x + y) % 2 ^ 64
  | _ => (Fmt.f32.add x y).bits

/-- The element at byte offset `off` of a line. -/
def elemAt (fmt : Nat) (v : BitVec 1024) (off : Nat) : Nat := v.toNat / 2 ^ (8 * off) % 2 ^ (8 * elemBytes fmt)

/-- An element of a line replaced. -/
def elemSet (fmt : Nat) (v : BitVec 1024) (off x : Nat) : BitVec 1024 :=
  (v &&& ~~~(BitVec.ofNat 1024 ((2 ^ (8 * elemBytes fmt) - 1) * 2 ^ (8 * off)))) ||| BitVec.ofNat 1024 (x * 2 ^ (8 * off))

/-- Element by element addition of lines (R224). -/
def lineAdd (fmt : Nat) (x y : BitVec 1024) : BitVec 1024 :=
  (List.range (128 / elemBytes fmt)).foldl (fun v i =>
    let off := i * elemBytes fmt
    elemSet fmt v off (elemAdd fmt (elemAt fmt x off) (elemAt fmt y off))) x

/-! ## Holders -/

def State.holder (s : State) (p : PartId) (h : CoreId) (line : Nat) : Option Holder :=
  (s.core p h).c.holders.find? (fun x => x.line == line)
def State.modHolder (s : State) (p : PartId) (h : CoreId) (line : Nat) (f : Holder → Holder) : State :=
  s.modCoreC p h (fun k => { k with holders := k.holders.map (fun x => if x.line = line then f x else x) })
def State.dropHolder (s : State) (p : PartId) (h : CoreId) (line : Nat) : State :=
  s.modCoreC p h (fun k => { k with holders := k.holders.filter (fun x => x.line != line) })

/-- The partition's steep colour, and whether steeping is enabled (R230). -/
def steepColour (s : State) (p : PartId) : Bool := bit (s.part p).r.steepctl 8
def steepOn (s : State) (p : PartId) : Bool := bit (s.part p).r.steepctl 0

/-- A voluntary pour (R220): P and g go to the home, f becomes g; with an earlier pour still unacknowledged, both. -/
def pourHolder (s : State) (p : PartId) (h : CoreId) (line : Nat) (more : Bool) : State :=
  match s.holder p h line with
  | some x =>
    (s.modHolder p h line (fun x => { x with f := addUp [x.f, x.g], g := 0, p := 0 })).push
      (.pourMessage p h line x.dom x.p x.g x.colour more)
  | none => s

/-! ## The home -/

def State.steepHome (s : State) (p : PartId) (line : Nat) : Option SteepHome := (s.part p).steep.find? (fun x => x.line == line)
def State.modHome (s : State) (p : PartId) (line : Nat) (f : SteepHome → SteepHome) : State :=
  s.modPart p (fun q => { q with steep := q.steep.map (fun x => if x.line = line then f x else x) })

/-- The limit L of a line (R216, R230); with steeping disabled nothing is granted. -/
def steepLimit (s : State) (p : PartId) (slim : Nat) : BitVec 32 :=
  limitField ((s.part p).r.slim.toList.getD slim 0)

/-- The home's state of a line, made where there is none yet: no holders, U = L (R218). -/
def State.ensureHome (s : State) (p : PartId) (line dom key fmt slim : Nat) : State :=
  if (s.steepHome p line).isSome then s
  else
    let x : SteepHome :=
      { line := line, dom := dom, key := key, fmt := fmt, slim := slim, limit := steepLimit s p slim, u := steepLimit s p slim,
        shares := [], buf := [], forcing := [], load := none, deferred := [], revoking := none }
    s.modPart p (fun q => { q with steep := q.steep ++ [x] })

/-- A home with no holder, no data and no request ends; a new holder set reads the limit afresh (R221, R230). -/
def State.idleHome (s : State) (p : PartId) (line : Nat) : State :=
  match s.steepHome p line with
  | some x =>
    if x.shares.isEmpty && x.buf.isEmpty && x.load.isNone && x.deferred.isEmpty && x.revoking.isNone
    then s.modPart p (fun q => { q with steep := q.steep.filter (fun x => x.line != line) }) else s
  | none => s

/-- A pour-buffer entry after data have been added to it, in ascending order of holders (R224, R229): entries are kept apart by colour. -/
def bufAdd (fmt : Nat) : List (CoreId × Bool × BitVec 1024) → CoreId → Bool → BitVec 1024 → List (CoreId × Bool × BitVec 1024)
  | [], h, c, v => [(h, c, lineAdd fmt 0 v)]
  | (i, d, x) :: l, h, c, v =>
    if h.val < i.val then (h, c, lineAdd fmt 0 v) :: (i, d, x) :: l
    else if h = i ∧ c = d then (i, d, lineAdd fmt x v) :: l
    else (i, d, x) :: bufAdd fmt l h c v

/-- The home adds a holder's data of a colour to its entry (R224, R229). -/
def State.homeAdd (s : State) (p : PartId) (h : CoreId) (line : Nat) (colour : Bool) (v : BitVec 1024) : State :=
  s.modHome p line (fun x => { x with buf := bufAdd x.fmt x.buf h colour v })

/-- Entries of a home's buffer enter the line's value, in their order. -/
def State.combineThese (s : State) (p : PartId) (line : Nat) (sel : Bool → Bool) : State :=
  match s.steepHome p line with
  | some x =>
    let now := x.buf.filter (fun e => sel e.2.1)
    if now.isEmpty then s
    else
      let s := (s.invalidateAll p line none).dirtySlice p line
      let v := now.foldl (fun v e => lineAdd x.fmt v e.2.2) (s.readLine x.key)
      (s.writeLine x.key v).modHome p line (fun x => { x with buf := x.buf.filter (fun e => !sel e.2.1) })
  | none => s

/-- The data of the colour before the last cut enter the line's value (R229). -/
def State.combineOld (s : State) (p : PartId) (line : Nat) : State := s.combineThese p line (fun c => c != steepColour s p)

/-- The combination of R224: the entries enter the line's value in ascending holder order, those of the old colour first (R229). -/
def State.combine (s : State) (p : PartId) (line : Nat) : State :=
  (s.combineOld p line).combineThese p line (fun c => c == steepColour s p)

/-- A holder's share returned to U; an emptied holder set takes the limit of its entry afresh (R221, R230). -/
def State.returnShare (s : State) (p : PartId) (h : CoreId) (line : Nat) (share : BitVec 32) : State :=
  s.modHome p line (fun x =>
    let rest := x.shares.filter (fun e => e.1 != h)
    if rest.isEmpty then { x with shares := [], limit := steepLimit s p x.slim, u := steepLimit s p x.slim }
    else { x with shares := rest, u := magMin x.limit (addDown x.u share) })

/-- The grant of R221: min(U, max(Q, U ÷ 2)); nothing while steeping is disabled. -/
def grantOf (s : State) (p : PartId) (u : BitVec 32) : BitVec 32 :=
  if steepOn s p then magMin u (magMax (limitField (s.part p).r.steepq) (halfDown u)) else 0

/-- The further share that a POUR with a request is given (R221). -/
def moreShare (s : State) (p : PartId) (x : SteepHome) (h : CoreId) (more : Bool) : BitVec 32 :=
  if more && magLe (limitField (s.part p).r.steepq) x.u && x.shares.any (fun e => e.1 == h) then grantOf s p x.u else 0

/-- The reply of a bounded load: the element, from the combined value (R225, R259). -/
def State.answerLoad (s : State) (p : PartId) (line : Nat) : State :=
  match s.steepHome p line with
  | some x =>
    match x.load with
    | some q =>
      let s := s.combine p line
      let v := word (elemAt x.fmt (s.readLine x.key) q.off)
      let s := s.modHome p line (fun x => { x with load := none, forcing := [] })
      match s.thread q.who with
      | some t => if t.tid = q.tid then s.push (.memoryReply q.who (some v)) else s
      | none => s
    | none => s
  | none => s

/-- The requests that waited for the line at its home come due, in order. -/
def State.releaseHome (s : State) (p : PartId) (line : Nat) : State :=
  match s.steepHome p line with
  | some x =>
    if x.load.isNone && x.revoking.isNone then
      let s := s.modHome p line (fun x => { x with deferred := [] })
      ({ s with events := x.deferred ++ s.events } : State).idleHome p line
    else s
  | none => s

/-- A request of the home to a holder that is still on its way. -/
def asksHolder (p : PartId) (h : CoreId) (line : Nat) (i : Instr) : Bool :=
  match i with
  | .fpr p' h' l _ | .srev p' h' l _ => p' == p && h' == h && l == line
  | _ => false

/-- A holder that the home waits for has answered (R225, R228): with the last one the load is answered. A request that the answer has
crossed is void. -/
def answered (s : State) (p : PartId) (h : CoreId) (line : Nat) : State :=
  match s.steepHome p line with
  | some x =>
    let left := x.forcing.filter (fun y => y != h)
    let s := { s with events := s.events.filter (fun i => !asksHolder p h line i) }
    let s := s.modHome p line (fun x => { x with forcing := left, revoking := if x.revoking = some h then none else x.revoking })
    let s := if x.load.isSome && left.isEmpty then s.answerLoad p line else s
    s.releaseHome p line
  | none => s

/-- An answer of the home that waits while it revokes a holder of the line (R222). DESIGN CHOICE (log 26). -/
def answerHolder (s : State) (p : PartId) (line : Nat) (i : Instr) : State :=
  match s.steepHome p line with
  | some x => if x.revoking.isSome then s.modHome p line (fun x => { x with deferred := x.deferred ++ [i] }) else s.push i
  | none => s.push i

/-- A POUR reaches the home: its data, and what share it is given (R221, R224). -/
def takePour (s : State) (p : PartId) (h : CoreId) (line dom : Nat) (v : BitVec 1024) (colour more : Bool) : State :=
  let s := s.homeAdd p h line colour v
  match s.steepHome p line with
  | none => s
  | some x =>
    let g := moreShare s p x h more
    answerHolder (s.modHome p line (fun x => { x with
      u := subDown x.u g, shares := x.shares.map (fun e => if e.1 = h then (h, addDown e.2 g) else e) })) p line (.pack p h line dom g)

/-- An FPD reaches the home (R224, R225). -/
def takeFpd (s : State) (p : PartId) (h : CoreId) (line : Nat) (v : BitVec 1024) (colour : Bool) : State :=
  answered (s.homeAdd p h line colour v) p h line

/-- A SRET reaches the home: data, combination, share (R221, R222, R224). -/
def takeSret (s : State) (p : PartId) (h : CoreId) (line : Nat) (v : BitVec 1024) (colour : Bool) (share : BitVec 32) : State :=
  answered (((s.homeAdd p h line colour v).combine p line).returnShare p h line share) p h line

/-- A message of a line's holder on its way to the home. -/
def fromHolder (p : PartId) (line : Nat) (i : Instr) : Bool :=
  match i with
  | .pourMessage p' _ l _ _ _ _ _ | .fpd p' _ l _ _ _ _ | .sret p' _ l _ _ _ _ _ => p' == p && l == line
  | _ => false

/-- A holder's message taken by the home. -/
def takeMessage (s : State) (i : Instr) : State :=
  match i with
  | .pourMessage p h l d v _ c m => takePour s p h l d v c m
  | .fpd p h l _ v _ c => takeFpd s p h l v c
  | .sret p h l _ v _ c sh => takeSret s p h l v c sh
  | _ => s

/-- What arrives at the home before an answer that a holder sends later (R223): every message of a line's holders that is on its
way. -/
def State.absorb (s : State) (p : PartId) (line : Nat) : State :=
  (s.events.filter (fromHolder p line)).foldl takeMessage { s with events := s.events.filter (fun i => !fromHolder p line i) }

/-- A line in A leaves its L1 with an unasked SRET (R207, R222). -/
def evictHolder (s : State) (p : PartId) (h : CoreId) (line : Nat) : State :=
  let s := s.absorb p line
  match s.holder p h line with
  | some x => takeSret (s.dropHolder p h line) p h line x.p x.colour x.share
  | none => s

/-- A holder's answer to SREV, as it reaches a home that revokes them all (R222, R227): P enters the buffer, the share returns. -/
def State.surrender (s : State) (p : PartId) (h : CoreId) (line : Nat) : State :=
  match s.holder p h line with
  | some x => ((s.homeAdd p h line x.colour x.p).returnShare p h line x.share).dropHolder p h line
  | none => s.returnShare p h line (((s.steepHome p line).bind (fun x => (x.shares.find? (fun e => e.1 == h)).map (fun e => e.2))).getD 0)

/-- A SREV for a line on its way. -/
def revokes (p : PartId) (line : Nat) (i : Instr) : Bool :=
  match i with
  | .srev p' _ l _ => p' == p && l == line
  | _ => false

/-- A grant that its holder has not yet taken, turned back into a request (R228). -/
def regrant (p : PartId) (line : Nat) (i : Instr) : Instr :=
  match i with
  | .sgnt p' h l d _ => if p' = p ∧ l = line then .sreq p h line d else i
  | _ => i

/-- A forced pour's data taken at once, as if FPR and FPD had been exchanged (R223). -/
def forceHolder (s : State) (p : PartId) (h : CoreId) (line : Nat) : State :=
  match s.holder p h line with
  | some k => (s.homeAdd p h line k.colour k.p).modHolder p h line (fun k => { k with p := 0, g := 0 })
  | none => s

/-- A bounded load that waits for pours is answered before anything else touches the line (R228): its forced holders' data
arrive. -/
def State.finishLoad (s : State) (p : PartId) (line : Nat) : State :=
  let s := s.absorb p line
  match s.steepHome p line with
  | some x => if x.load.isSome then x.forcing.foldl (fun s h => answered (forceHolder s p h line) p h line) s else s
  | none => s

/-- Every holder of a line revoked and the line combined, before an access of R227. -/
def State.revokeAll (s : State) (p : PartId) (line : Nat) : State :=
  match s.steepHome p line with
  | none => s
  | some _ =>
    let s := s.finishLoad p line
    let s : State := { s with events := (s.events.filter (fun i => !revokes p line i)).map (regrant p line) }
    let hs := ((s.steepHome p line).map (fun x => x.shares.map (fun e => e.1))).getD []
    let s := hs.foldl (fun s h => s.surrender p h line) s
    let s := (s.combine p line).modHome p line (fun x => { x with revoking := none, forcing := [] })
    s.releaseHome p line

/-- Every steep line of a partition revoked (R222: STEEPCTL.EN written 0; R321: the drain of a gang switch). -/
def State.revokeEvery (s : State) (p : PartId) : State :=
  (s.part p).steep.foldl (fun s x => s.revokeAll p x.line) s

/-- The holder with the smallest share, ties to the highest index (R221). -/
def smallestShare : List (CoreId × BitVec 32) → Option (CoreId × BitVec 32)
  | [] => none
  | e :: l =>
    match smallestShare l with
    | none => some e
    | some b => if e.2.toNat < b.2.toNat ∨ (e.2 = b.2 ∧ b.1.val < e.1.val) then some e else some b

/-- The holder with the largest share, ties to the lowest index (R221). -/
def largestShare : List (CoreId × BitVec 32) → Option (CoreId × BitVec 32)
  | [] => none
  | e :: l =>
    match largestShare l with
    | none => some e
    | some b => if b.2.toNat < e.2.toNat ∨ (e.2 = b.2 ∧ e.1.val < b.1.val) then some e else some b

/-- The holder that a share request makes the home revoke first (R221). -/
def victimOf (s : State) (p : PartId) (x : SteepHome) : Option CoreId :=
  let q := limitField (s.part p).r.steepq
  if 16 ≤ x.shares.length then (smallestShare x.shares).map (fun e => e.1)
  else if decide (x.u.toNat < q.toNat) && x.shares.any (fun e => magLe (addUp [q, q]) e.2) then
    (largestShare x.shares).map (fun e => e.1)
  else none

/-- The holders that a bounded load forces, in order (R225): descending share, ties to ascending index. -/
def forceList : Nat → List (CoreId × BitVec 32) → BitVec 32 → BitVec 32 → List CoreId
  | 0, _, _, _ => []
  | k + 1, l, remaining, tol =>
    if magLe remaining tol then []
    else
      match largestShare l with
      | none => []
      | some e => e.1 :: forceList k (l.filter (fun x => x.1 != e.1)) (subUp remaining e.2) tol

/-- What a POUR or a drain sends: a pour of every line of the core with something withheld (R249). -/
def pourCore (s : State) (p : PartId) (h : CoreId) : State :=
  (s.core p h).c.holders.foldl (fun s x => if x.g = 0 then s else pourHolder s p h x.line false) s

/-- A pour of the core is not yet acknowledged (R249). -/
def coreUnacked (s : State) (p : PartId) (h : CoreId) : Bool := (s.core p h).c.holders.any (fun x => x.f != 0)

end Sys2Proof.Machine
end

