-- ==== Sys2Proof/Machine/Access.lean ====
section
/-! DEFINITION. How an access reaches its bytes (07 R117, R118, 12 R193 to R214, 26 R389): the checks in their order, the windows,
the PLB, the walk, the home slice, the L1, and the hold of a write to a captured page. -/
namespace Sys2Proof.Machine

/-! ## Windows (R193) -/

/-- The key of a window address as the core reaches it, with its reply time (R193, R196); none beyond a window's backing. -/
def windowKey (p : PartId) (c : CoreId) (ea : Word) : Option (Nat × Nat) :=
  let o := ea.toNat - 0xFF00000000000000
  if o < 2 ^ 17 then some (keyTcm p c o, 8)
  else if 0x400000 ≤ o ∧ o < 0x800000 then (clusterOf c).map (fun k => (keyScratch p k (o - 0x400000), 10))
  else if 0x10000000 ≤ o ∧ o < 0x14000000 then some (keySram p (o - 0x10000000), 40)
  else none

/-- A word of a window that the access touches is poisoned (R339). -/
def windowPoisoned (s : State) (key n : Nat) : Bool := (List.range ((n + 7) / 8)).any (fun i => s.wordPoisoned (key + 8 * i))

/-- A write of whole words clears their poison (R212, R339). -/
def windowWritten (s : State) (key n : Nat) : State := s.wholeWords key n

/-! ## Walks and the PLB -/

/-- The fatal record of a walk that finds the poisoned-table list full (R205, R317). DEDUCED (log 51). -/
def tableLost (frame : Nat) (a : Word) : TrapRec := { TrapRec.none with code := 0x042, cls := 1, addr := a, d0 := word (2 ^ 16 * frame) }

/-- The record of a walk's fault at an address (R203, R205, R214, R317), and the state with the poisoned table listed. -/
def walkFault (s : State) (p : PartId) (w : Walked) (ea : Word) : TrapRec × State :=
  match w with
  | .leaf _ => (TrapRec.none, s)
  | .page level => ({ TrapRec.none with code := 0x020, addr := ea, d0 := word level }, s)
  | .retired l => ({ TrapRec.none with code := 0x020, addr := ea, d0 := word ((if l.big then 1 else 0) + 256) }, s)
  | .format level => ({ TrapRec.none with code := 0x022, addr := ea, d0 := word level }, s)
  | .poisoned level frame =>
    let r := poisonTable s p frame
    if r.2 then (tableLost frame ea, r.1)
    else ({ TrapRec.none with code := 0x021, addr := ea, d0 := word level, d1 := word (2 ^ 16 * frame) }, r.1)

/-- The thread is dropped at a walk's fault (R26). DEDUCED (log 51). -/
def walkDrop (s : State) (p : PartId) (w : Walked) (ea : Word) : Res :=
  let r := walkFault s p w ea
  .drop r.1 r.2

/-- The walk of a slice: its translation cache of 512 leaves first, which a walk fills (R204); of a full cache, the leaf that was filled
first leaves. DESIGN CHOICE (log 79). -/
def sliceWalk (s : State) (p : PartId) (ea : Word) : Walked × State :=
  let va := va57 ea
  let i := (homeSlice (lineOf ea)).val
  let cache := (kget (s.part p).tcache i).getD []
  match cache.find? (fun l => l.covers va) with
  | some l => if nmem (s.part p).retired (l.frame va) then (.retired l, s) else (.leaf l, s)
  | none =>
    match walkPage s p ea with
    | .leaf l => (.leaf l, s.modPart p (fun q => { q with tcache := kput q.tcache i ((l :: cache).take 512) }))
    | w => (w, s)

/-- A walk afresh (R198): what the slice's translation cache holds for the address is replaced. -/
def freshWalk (s : State) (p : PartId) (ea : Word) : Walked × State :=
  let i := (homeSlice (lineOf ea)).val
  sliceWalk (s.modPart p (fun q => { q with
    tcache := kput q.tcache i (((kget q.tcache i).getD []).filter (fun l => !l.covers (va57 ea))) })) p ea

/-- A unit's walk of an address that met a poisoned table page lists it, or posts the fatal record of a full list (R205). -/
def listWalk (s : State) (p : PartId) (a : Word) (w : Walked) : State :=
  match w with
  | .poisoned _ frame =>
    let r := poisonTable s p frame
    if r.2 then postRecord r.1 p (tableLost frame a) else r.1
  | _ => s

/-- The walk of an address by one of the part's own units lists the poisoned table page that it meets (R205). -/
def listTable (s : State) (p : PartId) (a : Word) : State :=
  if !canonical a || inWindowRegion a || inRemoteRegion a then s else listWalk s p a (walkPage s p a)

def plbFind (l : List PlbEntry) (va : Nat) (ctx : BitVec 8) : Option PlbEntry :=
  l.find? (fun e => e.ctx == ctx && e.leaf.covers va)

/-- The PLB with an entry as its most recently used (R200). -/
def plbTouch (l : List PlbEntry) (e : PlbEntry) : List PlbEntry := (e :: l.filter (fun x => x != e)).take 64

/-- The PLB entry of an address for a context (R200): found, or filled by a protection walk and a rights-table read. A retired page of a large
leaf takes the page fault, whichever page filled the entry (R214). -/
def plbEntry (s : State) (p : PartId) (c : CoreId) (ctx : BitVec 8) (ea : Word) : Except Res (PlbEntry × State) :=
  match plbFind (s.core p c).c.plb (va57 ea) ctx with
  | some e =>
    if nmem (s.part p).retired (e.leaf.frame (va57 ea)) then .error (walkDrop s p (.retired e.leaf) ea)
    else .ok (e, s.modCoreC p c (fun k => { k with plb := plbTouch k.plb e }))
  | none =>
    match sliceWalk s p ea with
    | (.leaf l, s) =>
      let e : PlbEntry :=
        { leaf := l, ctx := ctx, domValid := (domainEntry s p l.dom).1, rights := rightsNibble s p ctx.toNat l.dom }
      .ok (e, s.modCoreC p c (fun k => { k with plb := plbTouch k.plb e }))
    | (w, s) => .error (walkDrop s p w ea)

def needR : BitVec 4 := 1
def needW : BitVec 4 := 2
def needRW : BitVec 4 := 3
def needX : BitVec 4 := 4

/-- The rights that an entry gives cover what the access needs (R199, R200). -/
def entryAllows (e : PlbEntry) (priv : Bool) (need : BitVec 4) : Bool :=
  (rightsOf e.domValid e.leaf.dom e.rights priv &&& need) == need && !(need.getLsbD 1 && e.leaf.ro) &&
  !(need.getLsbD 2 && e.leaf.nx)

/-- A thread's lookup in its core's PLB, whose miss is counted (R200, R412 code 6). -/
def plbLookup (s : State) (r : TRef) (t : Thread) (ea : Word) : Except Res (PlbEntry × State) :=
  plbEntry (if (plbFind (s.core r.part r.core).c.plb (va57 ea) t.ctx).isNone then s.count r.part r.core 6 (some r.slot) 1 else s)
    r.part r.core t.ctx ea

/-- The lookup of R200 for a thread: its leaf, a protection fault, or a page fault. DEDUCED (log 72). -/
def protect (s : State) (r : TRef) (t : Thread) (need : BitVec 4) (ea : Word) : Except Res (Leaf × State) :=
  match plbLookup s r t ea with
  | .error x => .error x
  | .ok (e, s) => if entryAllows e t.priv need then .ok (e.leaf, s) else .error (.trap .protection (some ea) s)

/-- Where an access goes after its checks. -/
inductive Place where
  | window (key lat : Nat)
  | mem (leaf : Leaf)
  /-- another partition's exported span (R368) -/
  | remote

/-- A place of a large page. -/
def Place.big : Place → Bool
  | .mem l => l.big
  | .window _ _ | .remote => false

/-- The checks of R118 in their order: canonical form, alignment, translation and protection, the window's bounds. A remote
address is reached only by the forms of R370. DEDUCED (log 72). -/
def checkAccess (s : State) (r : TRef) (t : Thread) (need : BitVec 4) (ea : Word) (n : Nat) (remote : Bool) :
    Except Res (Place × State) :=
  if !canonical ea then .error (.trap .address (some ea) s)
  else if inRemoteRegion ea && !remote then .error (.trap .address (some ea) s)
  else if ea.toNat % n != 0 then .error (.trap .misaligned (some ea) s)
  else if inRemoteRegion ea then .ok (.remote, s)
  else if inWindowRegion ea then
    match windowKey r.part r.core ea with
    | some k => .ok (.window k.1 k.2, s)
    | none => .error (.trap .window (some ea) s)
  else
    match protect s r t need ea with
    | .ok (l, s) => .ok (.mem l, s)
    | .error x => .error x

/-! ## The home slice -/

/-- The record of an error in a cached line (R211, R317, R360): its slice's bank core, the owner's context, the access's CORR. DEDUCED (log 23). DEDUCED (log 25). -/
def lineRecord (s : State) (p : PartId) (code cls line dom key : Nat) (corr : BitVec 32) : TrapRec :=
  let o := domainEntry s p dom
  { TrapRec.none with
    code := code, cls := cls, ctx := if o.1 then BitVec.ofNat 8 o.2 else 0, core := (bankCore (homeSlice line)).val, corr := corr,
    addr := lineAddr line, d0 := word (key % 2 ^ 48 / 2 ^ 16 * 2 ^ 16), d1 := ownerTag s p dom }

/-- The frame of a faulty line is retired (R214): accesses to the page fault from now on, and its lines leave the slices. DEDUCED (log 51). -/
def retirePage (s : State) (p : PartId) (l : SliceLine) : State :=
  let s := (s.part p).coreIds.foldl (fun s c =>
    s.modCoreC p c (fun k => { k with plb := k.plb.filter (fun e => !e.leaf.covers (l.line * 128)) })) s
  let s := s.modPart p (fun q => { q with retired := nput q.retired (l.key % 2 ^ 48 / 2 ^ 16) })
  postRecord (s.pushAll (((s.part p).slices.filter (fun x => x.key / 2 ^ 16 == l.key / 2 ^ 16)).map (fun x => .sliceEviction p x.line))) p
    (lineRecord s p 0x041 2 l.line l.dom l.key 0)

/-- In-service repair is enabled (R215). -/
def repairs (q : Partition) : Bool := bit q.r.memctl 0

/-- The way of a line that erred is quarantined (R212); in a set whose two locked ways are taken, the line's page is retired instead
(R213, R214). DEDUCED (log 24). -/
def quarantine (s : State) (p : PartId) (l : SliceLine) : State :=
  if s.wayLocked p l.line l.way then
    s.modPart p (fun q => { q with pins := q.pins.map (fun x =>
      if x.set = setKey l.line ∧ x.way = l.way then { x with key := none } else x) })
  else if lockedWays (s.part p) l.line < 2 then s.lockWay p { set := setKey l.line, way := l.way, key := none }
  else if repairs (s.part p) then retirePage s p l
  else s

/-- An armed ERRINJ fires at this read of a line's sectors (R215). -/
def errFires (s : State) (p : PartId) (line : Nat) (sectors : BitVec 2) : Bool :=
  let e := (s.part p).r.errinj
  bit e 63 && field e 21 4 == (homeSlice line).val && field e 5 11 == setOf line &&
  (match s.sl p line with
   | some l => l.way == field e 16 4
   | none => false) && sectors.getLsbD (field e 20 1)

/-- An injection that fires disarms (R215); a value that an MTS has written in this cycle stands (R355). -/
def disarm (s : State) (p : PartId) : State :=
  if (s.mtsWas p 0 .errinj).isSome then s else s.modRegs p (fun r => { r with errinj := r.errinj &&& 0x7FFFFFFFFFFFFFFF })

/-- A line's data are lost (R212): it leaves the caches, is poisoned and reported. -/
def loseLine (s : State) (p : PartId) (l : SliceLine) (corr : BitVec 32) : State :=
  let s := ((s.revokeAll p l.line).invalidateAll p l.line none).dropSl p l.line
  postRecord (s.poisonLine l.key) p (lineRecord s p 0x040 1 l.line l.dom l.key corr)

/-- A slice evicts a line (R206): holders revoked and combined, every L1 copy collected, the endpoint's sectors recalled, the line
written back: of a dirty line this reads its way, where an armed injection fires (R215). DESIGN CHOICE (log 22). -/
def sliceEvict (s : State) (p : PartId) (line : Nat) : State :=
  let s := (s.revokeAll p line).invalidateAll p line none
  match s.sl p line with
  | some l => if l.dirty && errFires s p line 3 then loseLine (quarantine (disarm s p) p l) p l 0 else s.dropSl p line
  | none => s

/-- A way for a line: the lowest free one (R360), else that of the lowest-numbered way whose line may be evicted. DESIGN CHOICE (log 22). -/
def chooseWay (s : State) (p : PartId) (line : Nat) : Option (Nat × State) :=
  match s.freeWay p line with
  | some w => some (w, s)
  | none =>
    match (List.range 16).find? (fun w => (s.setLines p line).any (fun l => l.way == w && s.evictable p l)) with
    | some w =>
      match (s.setLines p line).find? (fun l => l.way == w) with
      | some l =>
        let s := sliceEvict s p l.line
        if s.wayLocked p line w then (s.freeWay p line).map (fun w => (w, s)) else some (w, s)
      | none => none
    | none => none

/-- A line as a leaf brings it into a way. -/
def lineOfLeaf (p : PartId) (line : Nat) (l : Leaf) (way : Nat) (pinned : Bool) : SliceLine :=
  { line := line, dom := l.dom, key := keyMain p (l.phys (line * 128)), big := l.big, way := way, dirty := false,
    sharers := [], endpoint := 0, stamp := none, pinned := pinned }

/-- A line enters a slice. -/
def State.addSl (s : State) (p : PartId) (x : SliceLine) : State := s.modPart p (fun q => { q with slices := q.slices ++ [x] })

/-- The slice fills a line through a leaf (R197, R360): into the locked way that holds its frame's line, if one does (R213, R256); none
while every way of the set is locked or stamped (R335). -/
def fillSlice (s : State) (p : PartId) (line : Nat) (l : Leaf) : Option State :=
  match pinnedWay (s.part p) line (keyMain p (l.phys (line * 128))) with
  | some w => some (s.addSl p (lineOfLeaf p line l w true))
  | none => (chooseWay s p line).map (fun x => x.2.addSl p (lineOfLeaf p line l x.1 false))

/-- What a lookup at a line's home comes to (R198). -/
inductive Fill where
  | ok (miss : Bool) (s : State)
  /-- the requester's protection is stale -/
  | stale (s : State)
  | fault (w : Walked) (s : State)
  /-- no way can be had yet -/
  | full (s : State)

/-- A miss: the line is translated and filled under the requester's domain. -/
def homeMiss (p : PartId) (line dom : Nat) (w : Walked × State) : Fill :=
  match w with
  | (.leaf l, s) =>
    if l.dom = dom then
      match fillSlice s p line l with
      | some s => .ok true s
      | none => .full s
    else .stale s
  | (w, s) => .fault w s

/-- The lookup of a line with the requester's domain at its home slice (R198). A line whose stamp is not yet passed stays (R335): the lookup
waits. -/
def homeLookup (s : State) (p : PartId) (line dom : Nat) : Fill :=
  match s.sl p line with
  | some l =>
    if l.dom = dom then .ok false s
    else if !s.unstamped p l then .full s
    else homeMiss p line dom (freshWalk (sliceEvict s p line) p (lineAddr line))
  | none => homeMiss p line dom (sliceWalk s p (lineAddr line))

/-- An uncorrectable error in a slice line (R212): a clean line is fetched again into another way, a dirty one is lost, poisoned and
reported; in both cases the way is quarantined. Where no other way can be had, a clean line leaves, unless a stamp that is not yet passed keeps it
(R335). DEDUCED (log 24). -/
def l2Error (s : State) (p : PartId) (line : Nat) (corr : BitVec 32) : State :=
  match s.sl p line with
  | none => s
  | some l =>
    let s := quarantine s p l
    if l.dirty then loseLine s p l corr
    else
      let s := s.modPart p (fun q => { q with corrected := q.corrected + 1 })
      match chooseWay s p line with
      | some (w, s) => s.modSl p line (fun l => { l with way := w, pinned := false })
      | none => if s.unstamped p l then sliceEvict s p line else s

/-- A read of a line's data in its way at the home (R215): an armed injection fires and disarms. -/
def homeRead (s : State) (p : PartId) (line : Nat) (sectors : BitVec 2) (corr : BitVec 32) : State :=
  if errFires s p line sectors then
    l2Error (disarm s p) p line corr
  else s

/-- The line of a slice, or as its translation would bring it there. -/
def lineStands (s : State) (p : PartId) (line : Nat) : Option SliceLine :=
  match s.sl p line with
  | some l => some l
  | none =>
    match walkPage s p (lineAddr line) with
    | .leaf l => some (lineOfLeaf p line l 0 false)
    | _ => none

/-- A line brought into its slice, where it is not yet. -/
def bringLine (s : State) (p : PartId) (line : Nat) : State :=
  if (s.sl p line).isSome then s
  else
    match walkPage s p (lineAddr line) with
    | .leaf l => (fillSlice s p line l).getD s
    | _ => s

/-- A sector of a line has been declared faulty (R213, R214, R215): with REPAIR, the line is pinned in a locked way of its set, or its
page is retired where the set has none left; without, nothing more is done than to report. -/
def repairSector (s : State) (p : PartId) (l : SliceLine) : State :=
  if !repairs (s.part p) || (pinnedWay (s.part p) l.line l.key).isSome then s
  else if lockedWays (s.part p) l.line < 2 then
    let s := bringLine s p l.line
    match s.sl p l.line with
    | some x =>
      (s.lockWay p { set := setKey x.line, way := x.way, key := some x.key }).modSl p x.line (fun x => { x with pinned := true })
    | none => s
  else retirePage s p l

/-- The mapped line of a physical address, in a slice or not. -/
def lineOfFrame (s : State) (p : PartId) (key : Nat) : Option SliceLine :=
  match (s.part p).slices.find? (fun l => l.key == key / 128 * 128) with
  | some l => some l
  | none =>
    let pa := key - spaceBase p 0
    ((allLeaves s p).find? (fun l => decide (l.pa ≤ pa) && decide (pa < l.pa + (if l.big then 2 ^ 29 else 2 ^ 16)))).map (fun l =>
      lineOfLeaf p ((l.page * 2 ^ 16 + (pa - l.pa)) / 128) l 0 false)

/-- A read of a memory-module sector that was corrected (R213): counted, and at CORRTH corrections in one scrub pass the sector is faulty. -/
def correctSector (s : State) (p : PartId) (pa : Nat) : State :=
  let i := keyMain p pa / 64
  let n := (kget (s.part p).corrections i).getD 0 + 1
  let s := s.modPart p (fun q => { q with corrections := kput q.corrections i n, corrected := q.corrected + 1 })
  if n = Nat.max 1 (field (s.part p).r.memctl 4 4) then
    match lineOfFrame s p (keyMain p pa) with
    | some l => repairSector s p l
    | none => s
  else s

/-- A sector of a memory module, or a line MAC, that fails: the line is poisoned and reported, and its sector repaired or its page
retired (R213, R214, R339). The record names the line's slice, domain and address where its frame is mapped. DEDUCED (log 23). -/
def moduleError (s : State) (p : PartId) (pa : Nat) : State :=
  let key := keyMain p (pa / 128 * 128)
  match lineOfFrame s p key with
  | some l =>
    let s := (s.revokeAll p l.line).invalidateAll p l.line none
    repairSector (postRecord (s.poisonLine key) p (lineRecord s p 0x040 1 l.line l.dom key 0)) p l
  | none => postRecord (s.poisonLine key) p { TrapRec.none with code := 0x040, cls := 1, d0 := word (pa / 2 ^ 16 * 2 ^ 16) }

/-- Entries of a PLB that cover an address for a context leave it (R198: stale protection). -/
def plbDrop (s : State) (p : PartId) (c : CoreId) (ctx : BitVec 8) (va : Nat) : State :=
  s.modCoreC p c (fun k => { k with plb := k.plb.filter (fun e => !(e.ctx == ctx && e.leaf.covers va)) })

/-- A thread's access reaches the line's home: the line stands in its slice under the leaf's domain. A stale-protection reply
refills the PLB entry and reissues the access (R198). A fetch is no memory operation, so it is not counted (R140). -/
def reachHome : Nat → State → TRef → Thread → BitVec 4 → Word → Except Res (Leaf × Bool × State)
  | 0, s, _, _, _, _ => .error (.wait .queue s)
  | k + 1, s, r, t, need, ea =>
    match protect s r t need ea with
    | .error x => .error x
    | .ok (l, s) =>
      match homeLookup s r.part (lineOf ea) l.dom with
      | .ok miss s => .ok (l, miss, if need = needX then s else s.countHome r (homeSlice (lineOf ea)).val)
      | .stale s => reachHome k (plbDrop s r.part r.core t.ctx (va57 ea)) r t need ea
      | .fault w s => .error (walkDrop s r.part w ea)
      | .full s => .error (.wait .queue s)

/-- The reply time of an access served at a slice (R196). DESIGN CHOICE (log 13). -/
def homeLat (c : CoreId) (line : Nat) (miss : Bool) : Nat :=
  if miss then 300 else if (homeSlice line).val = localSlice c then 48 else 60

/-! ## The L1 -/

/-- Room for one more line in a set of an L1: the least recently used line leaves; of a set full of holders, the last (R207,
R222). DESIGN CHOICE (log 22). -/
def l1Room (s : State) (p : PartId) (c : CoreId) (line : Nat) : State :=
  let k := (s.core p c).c
  let ls := k.l1d.filter (fun l => l.line % 64 == line % 64)
  let hs := k.holders.filter (fun x => x.line % 64 == line % 64)
  if ls.length + hs.length < 8 then s
  else
    match ls.getLast?, hs.getLast? with
    | some l, _ => s.loseCopy p c l.line
    | none, some x => evictHolder s p c x.line
    | none, none => s

/-- A copy enters an L1, most recently used (R197). -/
def l1Install (s : State) (p : PartId) (c : CoreId) (l : L1Line) : State :=
  (l1Room s p c l.line).modCoreC p c (fun k => { k with l1d := l :: k.l1d.filter (fun x => x.line != l.line) })

/-- GetS (R207): the home reads through the copies that others own, and supplies the line in E where no other L1 holds it, else in
S. The endpoint's sectors are released (R208). -/
def opGetS (s : State) (p : PartId) (c : CoreId) (line : Nat) : State :=
  match s.sl p line with
  | none => s
  | some l =>
    let others := (s.copies p line).filter (fun x => x != c)
    let s := others.foldl (fun s x => s.forwardRead p x line) s
    let s := s.modSl p line (fun l => { l with endpoint := 0, sharers := c :: l.sharers.filter (fun x => x != c) })
    match s.l1 p c line with
    | some _ => s.modL1 p c line (fun x => { x with valid := 3 })
    | none =>
      let x : L1Line :=
        { line := line, st := if others.isEmpty then .e else .s, valid := 3, dirty := 0, dom := l.dom, key := l.key,
          stamp := l.stamp, old := 0 }
      l1Install s p c x

/-- GetM (R207): the home invalidates every other copy and grants M; a sector that the endpoint owns stays with it unless it is
the one written (R208). -/
def opGetM (s : State) (p : PartId) (c : CoreId) (line : Nat) (sector : Fin 2) : State :=
  match s.sl p line with
  | none => s
  | some l =>
    let s := s.invalidateAll p line (some c)
    let ep := l.endpoint &&& ~~~sectorBit sector
    let s := s.modSl p line (fun l => { l with endpoint := ep, sharers := [c] })
    match s.l1 p c line with
    | some _ => s.modL1 p c line (fun x => { x with st := .m, valid := (x.valid ||| sectorBit sector) &&& ~~~ep })
    | none =>
      let x : L1Line :=
        { line := line, st := .m, valid := 3 &&& ~~~ep, dirty := 0, dom := l.dom, key := l.key, stamp := l.stamp, old := 0 }
      l1Install s p c x

/-- The sectors of a line that GetM reads from its way (R207, R208, R215): the written one alone for a copy that lacks it, else those that the
endpoint does not keep. -/
def sectorsGot (s : State) (p : PartId) (c : CoreId) (line : Nat) (sector : Fin 2) : BitVec 2 :=
  match s.l1 p c line, s.sl p line with
  | none, some l => 3 &&& ~~~(l.endpoint &&& ~~~sectorBit sector)
  | _, _ => sectorBit sector

/-- The line's sector is dirtied in an L1 that holds it in M or E: what the home still holds is kept beside it (R207, R250). -/
def dirtyL1 (s : State) (p : PartId) (c : CoreId) (line : Nat) (sector : Fin 2) : State :=
  s.modL1 p c line (fun x =>
    { x with
      st := .m, dirty := x.dirty ||| sectorBit sector,
      old := if x.dirty &&& sectorBit sector = 0 then mergeSectors x.old (s.readLine x.key) (sectorBit sector) else x.old })

/-- A copy under another domain's tag is dropped as though invalidated (R198). -/
def l1Mismatch (s : State) (p : PartId) (c : CoreId) (line dom : Nat) : State :=
  match s.l1 p c line with
  | some l => if l.dom = dom then s else s.loseCopy p c line
  | none => s

/-- The line's copy in an L1 serves an access of a domain to a sector. -/
def l1Hit (s : State) (p : PartId) (c : CoreId) (line dom : Nat) (sector : Fin 2) : Option L1Line :=
  match s.l1 p c line with
  | some l => if l.dom = dom ∧ l.valid.getLsbD sector.val then some l else none
  | none => none

/-! ## Writes to captured pages (R389) -/

/-- The SNAP field of a leaf's entry as it stands. -/
def snapOf (s : State) (l : Leaf) : Nat := memRead s.mem l.pte 8 / 2 ^ 62
/-- The field written by the part; an entry in a poisoned line is not written (R212). -/
def setSnap (s : State) (l : Leaf) (v : Nat) : State :=
  if s.linePoisoned l.pte then s else s.writeMem l.pte 8 (setField (s.readMem l.pte 8) 62 2 v)

/-- The page is on the captured list of the last cut. -/
def isCaptured (s : State) (p : PartId) (page : Nat) : Bool := (s.part p).snap.captured.any (fun l => l.page == page)

/-- A write to a page waits for the page copier: the page is captured and not yet copied or streamed (R389). DEDUCED (log 70). -/
def pageHeld (s : State) (p : PartId) (l : Leaf) : Bool :=
  (s.part p).r.snapn != 0 && snapOf s l == 1 && isCaptured s p l.page

/-- A write that may go on: a clean page joins the dirty list (R389). -/
def pageWritten (s : State) (p : PartId) (l : Leaf) : State :=
  if (s.part p).r.snapn != 0 && snapOf s l == 0 then
    (setSnap s l 2).modPart p (fun q => { q with snap := { q.snap with dirty := nput q.snap.dirty l.page } })
  else s

/-- The copier is asked for a page, once. -/
def askCopier (s : State) (p : PartId) (page : Nat) : State :=
  if s.events.contains (.pageCopy p page) then s else s.push (.pageCopy p page)

/-- A step as it stands in a page's order: of a remote beat, without the bytes. -/
def beatless (i : Instr) : Instr :=
  match i with
  | .remoteRequest q =>
    match q.op with
    | .beatWrite _ _ c => .remoteRequest { q with op := .beatWrite [] [] c, arrived := false }
    | _ => .remoteRequest { q with arrived := false }
  | _ => i

/-- A remote beat that its copy unit sends again: the copy is still the oldest of its core. -/
def beatStands (s : State) (i : Instr) : Bool :=
  match i with
  | .remoteRequest q =>
    match q.op with
    | .beatWrite _ _ _ =>
      q.srcMod == s.modid && ((s.core q.src.part q.src.core).w.copyQ.head?).any (fun j => !j.finished && j.slot == q.src.slot)
    | _ => false
  | _ => false

/-- A writer still waits at a page. -/
def waitsStill (s : State) (p : PartId) (page : Nat) (w : PageWriter) : Bool :=
  match w with
  | .thread r tid =>
    match s.thread r with
    | some t => t.tid == tid && t.wait == some (.page page)
    | none => false
  | .copy c seq => ((s.core p c).w.copyQ.head?).any (fun j => j.seq == seq)
  | .step i =>
    s.waiting.any (fun j => beatless j == i) || s.events.any (fun j => beatless j == i) || s.timers.any (fun e => beatless e.2 == i) ||
    beatStands s i ||
    (match i with
     | .syncRecord q c => !(s.core q c).c.trcOut.isEmpty
     | .remoteUpdate q c => !(s.core q c).w.updateQ.isEmpty
     | _ => false)

/-- The writers that have come to a page, in the order of their arrival. -/
def writersAt (s : State) (p : PartId) (page : Nat) : List PageWriter :=
  ((s.part p).snap.writers.filter (fun e => e.1 == page)).map (fun e => e.2)

/-- `w`, which writes now, has its place in a page's order: a step that executes has it although it stands nowhere else. -/
def inOrder (s : State) (p : PartId) (page : Nat) (w : PageWriter) : Bool :=
  (writersAt s p page).contains w && (match w with
    | .step _ => true
    | .thread _ _ | .copy _ _ => waitsStill s p page w)

/-- The writers that `w` waits for at a page: those that still wait there and came before it. -/
def writersAhead (s : State) (p : PartId) (page : Nat) (w : PageWriter) : List PageWriter :=
  ((if inOrder s p page w then (writersAt s p page).takeWhile (fun x => x != w)
    else (writersAt s p page).filter (fun x => x != w))).filter (waitsStill s p page)

/-- A write of `w` to a page waits: the page is held, or other writers came before (R389, R395). Then `w` stands in the order of arrival
and the copier is asked. -/
def pageWait (s : State) (p : PartId) (l : Leaf) (w : PageWriter) : Option State :=
  if pageHeld s p l || !(writersAhead s p l.page w).isEmpty then
    let s := if inOrder s p l.page w then s
      else s.modPart p (fun q => { q with snap := { q.snap with
        writers := q.snap.writers.filter (fun e => e != (l.page, w)) ++ [(l.page, w)] } })
    some (askCopier s p l.page)
  else none

/-- A writer passes: it leaves the page's order. -/
def pagePassed (s : State) (p : PartId) (page : Nat) (w : PageWriter) : State :=
  s.modPart p (fun q => { q with snap := { q.snap with writers := q.snap.writers.filter (fun e => e != (page, w)) } })

/-- A thread's write to a page: it goes on, or it waits for the copier. -/
def holdWrite (s : State) (r : TRef) (t : Thread) (l : Leaf) : Except Res State :=
  match pageWait s r.part l (.thread r t.tid) with
  | some s => .error (.wait (.page l.page) s)
  | none => .ok (pageWritten (pagePassed s r.part l.page (.thread r t.tid)) r.part l)

/-! ## Loads, stores and operations at the home -/

/-- Where an access finds its bytes: the cell key, the reply time, the stamp of the line read, and for a steep page its leaf. -/
structure At where
  key : Nat
  lat : Nat
  stamp : Option Stamp

/-- A line that is poisoned stops every thread's access (R212). -/
def poisonStop (s : State) (key : Nat) (ea : Word) : Except Res Unit :=
  if s.linePoisoned key then .error (.trap .poison (some ea) s) else .ok ()

/-- A load of cacheable memory through the L1 (R207). The page is not steep. -/
def loadLine (s : State) (r : TRef) (t : Thread) (l : Leaf) (ea : Word) : Except Res (At × State) :=
  let line := lineOf ea
  let s := l1Mismatch s r.part r.core line l.dom
  match l1Hit s r.part r.core line l.dom (sectorOf ea.toNat) with
  | some x =>
    match poisonStop s x.key ea with
    | .error e => .error e
    | .ok _ => .ok ({ key := x.key + ea.toNat % 128, lat := 12, stamp := x.stamp }, s.touchL1 r.part r.core line)
  | none =>
    match reachHome 2 s r t needR ea with
    | .error e => .error e
    | .ok (_, miss, s) =>
      let s := if miss then s else homeRead s r.part line 3 t.corr
      match s.sl r.part line with
      | none => .error (.trap .poison (some ea) s)
      | some x =>
        match poisonStop s x.key ea with
        | .error e => .error e
        | .ok _ =>
          .ok ({ key := x.key + ea.toNat % 128, lat := homeLat r.core line miss, stamp := x.stamp },
            opGetS (s.count r.part r.core 5 (some r.slot) 1) r.part r.core line)

/-- A store to cacheable memory through the L1 (R207, R227, R389): the line in M there, its sector dirty. -/
def storeLine (s : State) (r : TRef) (t : Thread) (l : Leaf) (ea : Word) : Except Res (At × State) :=
  let line := lineOf ea
  match holdWrite s r t l with
  | .error e => .error e
  | .ok s =>
    let s := l1Mismatch s r.part r.core line l.dom
    let sec := sectorOf ea.toNat
    match l1Hit s r.part r.core line l.dom sec with
    | some x =>
      match poisonStop s x.key ea with
      | .error e => .error e
      | .ok _ =>
        let owned := x.st == .m || x.st == .e
        let s := if owned then s else opGetM (s.countHome r (homeSlice line).val) r.part r.core line sec
        .ok ({ key := x.key + ea.toNat % 128, lat := if owned then 12 else homeLat r.core line false, stamp := none },
          dirtyL1 (s.touchL1 r.part r.core line) r.part r.core line sec)
    | none =>
      match reachHome 2 s r t needW ea with
      | .error e => .error e
      | .ok (_, miss, s) =>
        let s := s.revokeAll r.part line
        let s := if miss then s else homeRead s r.part line (sectorsGot s r.part r.core line sec) t.corr
        match s.sl r.part line with
        | none => .error (.trap .poison (some ea) s)
        | some x =>
          match poisonStop s x.key ea with
          | .error e => .error e
          | .ok _ =>
            .ok ({ key := x.key + ea.toNat % 128, lat := homeLat r.core line miss, stamp := none },
              dirtyL1 (opGetM (s.count r.part r.core 5 (some r.slot) 1) r.part r.core line sec) r.part r.core line sec)

/-- An operation performed at the line's home (R149, R161 to R165): revocation and combination first (R227), every L1 copy
collected, the line dirty there when it writes. -/
def homeOp (s : State) (r : TRef) (t : Thread) (need : BitVec 4) (writes : Bool) (l : Leaf) (ea : Word) :
    Except Res (At × State) :=
  let line := lineOf ea
  let go (s : State) : Except Res (At × State) :=
    match reachHome 2 s r t need ea with
    | .error e => .error e
    | .ok (_, miss, s) =>
      let s := s.revokeAll r.part line
      let s := if miss then s else homeRead s r.part line (sectorBit (sectorOf ea.toNat)) t.corr
      match s.sl r.part line with
      | none => .error (.trap .poison (some ea) s)
      | some x =>
        match poisonStop s x.key ea with
        | .error e => .error e
        | .ok _ =>
          let s := s.invalidateAll r.part line none
          .ok ({ key := x.key + ea.toNat % 128, lat := homeLat r.core line miss, stamp := x.stamp },
            if writes then s.dirtySlice r.part line else s)
  if writes then
    match holdWrite s r t l with
    | .error e => .error e
    | .ok s => go s
  else go s

end Sys2Proof.Machine
end

