-- ==== Sys2Proof/Machine/LoadStore.lean ====
section
/-! DEFINITION. The plain loads and stores (07 R115 to R119), their remote forms (25 R370), and the vector memory forms (10 R175 to
R177). -/
namespace Sys2Proof.Machine

/-! ## What every memory word shares -/

/-- The record of the stamp that a read line carries (R335). -/
def stampItems (a : At) : List LogItem :=
  match a.stamp with
  | some st => [.stamp st.core st.seq]
  | none => []

/-- An unwatched write clears the stamp of its line (R335); a watched one leaves its own when its record is written. -/
def clearStamp (s : State) (r : TRef) (ea : Word) : State :=
  if s.watched r.part r.core then s else s.setStamp r.part (lineOf ea) none

/-- The slot of the launch window whose SEAL word has this key (R123). DEDUCED (log 69). -/
def sealSlot (r : PRegs) (p : PartId) (key : Nat) : Option (BitVec 13) :=
  let base := spaceBase p 0 + field r.lwbase 20 28 * 2 ^ 20
  if base ≤ key ∧ key < base + 2 ^ 20 ∧ (key - base) % 128 = 120 then some (BitVec.ofNat 13 ((key - base) / 128)) else none

/-- The dispatcher's line monitor (R124, R125, R145): an aligned 8-byte write on a SEAL word fires it, unless it is not armed or the
slot's previous record is not yet decided. DEDUCED (log 69). -/
def sealMonitor (s : State) (p : PartId) (key : Nat) : State :=
  match sealSlot (s.part p).r p key with
  | some n =>
    if bit (s.part p).r.dspctl 0 && !(s.part p).sealing.contains n then
      (s.modPart p (fun q => { q with sealing := q.sealing ++ [n] })).push (.launchRecord p n)
    else s
  | none => s

/-- A thread's write of n bytes at a key: the bytes, the poison of whole window words, the line monitor. DEDUCED (log 69). -/
def putBytes (s : State) (p : PartId) (key n : Nat) (v : Word) : State :=
  let s := windowWritten (s.writeMem key n v) key n
  if n = 8 then sealMonitor s p key else s

/-- A containment point of a watched thread (R334): the MARK is written once, and the point is passed when ACK reaches it. -/
def passPoint (s : State) (r : TRef) (t : Thread) (kind : Nat) : Except Res State :=
  if !s.watched r.part r.core then .ok s
  else
    let tb := (s.core r.part r.core).w.tbind
    match t.mark with
    | some (k, seq) =>
      if k = kind then (if seqGe (s.ackOf r.part tb) seq then .ok s else .error (.wait (.ack seq) s))
      else
        let s := logMark s r kind none
        let q := (s.core r.part r.core).w.log.seq
        .error (.wait (.ack q) (s.modThread r (fun t => { t with mark := some (kind, q) })))
    | none =>
      let s := logMark s r kind none
      let q := (s.core r.part r.core).w.log.seq
      .error (.wait (.ack q) (s.modThread r (fun t => { t with mark := some (kind, q) })))

/-! ## Remote requests (R368, R370) -/

/-- The request for a remote address. -/
def remoteReq (s : State) (r : TRef) (t : Thread) (ea : Word) (op : RemoteOp) : RemoteReq :=
  { srcMod := s.modid, src := r, srcTid := t.tid, modid := ea.extractLsb' 36 16, dst := (ea.extractLsb' 32 4).toFin,
    off := ea.extractLsb' 0 32, corr := t.corr, op := op }

/-- A link key is installed for a partition of another module (R404). -/
def keyed (q : Partition) (modid : BitVec 16) (p : PartId) : Bool := q.linkKeys.contains (modid, p)

/-- A partition of another module can be reached: with a link key, and not declared unreachable (R372, R404). DEDUCED (log 56). -/
def linked (q : Partition) (modid : BitVec 16) (p : PartId) : Bool := keyed q modid p && !q.unreachable.contains (modid, p)

/-- A request leaves on REQ: to a partition of this module, or through the port (R368); where its destination cannot be reached it
ends with an error reply (R372, R404). DESIGN CHOICE (log 1). -/
def sendRemote (s : State) (q : RemoteReq) : State :=
  if q.modid = s.modid then s.push (.remoteRequest q)
  else if linked (s.part q.src.part) q.modid q.dst then { s with portOut := s.portOut ++ [.request q] }
  else s.push (.remoteErrorReply q.src q.srcTid)

/-- The address that an offset names in a partition's exported span (R368). -/
def xportAddr (q : Partition) (off : Nat) : Word := ext57 (field q.r.xport 32 25 * 2 ^ 32 + off)

/-- The bytes of an AMO or a RED (R164). -/
def amoBytes : AmoSize → Nat
  | .w32 => 4
  | .w64 => 8

/-- The thread has a RED on its way to the `n` bytes from a cell on (R236). -/
def redPending (s : State) (p : PartId) (tid key n : Nat) : Bool :=
  let meets (x : RedReq) := x.tid == tid && decide (x.key < key + n) && decide (key < x.key + amoBytes x.sz)
  (s.part p).coreIds.any (fun c => (s.core p c).w.outQ.any meets || (s.core p c).w.updateQ.any meets)

/-- The thread has an ADDM queued for a line (R236). -/
def addmPending (s : State) (p : PartId) (tid line : Nat) : Bool :=
  (s.part p).coreIds.any (fun c => (s.core p c).w.steepQ.any (fun a => a.tid == tid && a.line == line))

/-- The thread has a RED or an ADDM on its way to bytes that an access touches: the access waits for it (R236). -/
def ownPending (s : State) (r : TRef) (t : Thread) (l : Leaf) (ea : Word) (n : Nat) : Bool :=
  redPending s r.part t.tid (keyMain r.part (l.phys (va57 ea))) n || addmPending s r.part t.tid (lineOf ea)

/-- The bytes that a thread's remote request touches (R370). -/
def opBytes : RemoteOp → Nat
  | .load ty => ty.bytes
  | .store ty _ => ty.bytes
  | .amo _ sz _ _ | .red _ sz _ => amoBytes sz
  | .fe _ _ => 8
  | .beatRead n _ => n
  | .beatWrite bytes _ _ => bytes.length

/-- A remote address of the thread's own partition names bytes to which it has a RED or an ADDM on its way (R236, R368): the access waits for that. -/
def remoteOwn (s : State) (r : TRef) (t : Thread) (ea : Word) (n : Nat) : Bool :=
  let a := xportAddr (s.part r.part) (ea.toNat % 2 ^ 32)
  ea.extractLsb' 36 16 == s.modid && ea.toNat / 2 ^ 32 % 16 == r.part.val &&
  (match walkPage s r.part a with
   | .leaf l => ownPending s r t l a n
   | _ => false)

/-- A remote read keeps its thread out of the rotation until the reply (R370). It follows the thread's own REDs and ADDMs to its bytes (R236). -/
def remoteRead (s : State) (r : TRef) (t : Thread) (ea : Word) (op : RemoteOp) (d : Option Reg) (ty : Option LdType)
    (log : ReplyLog) : Res :=
  if remoteOwn s r t ea (opBytes op) then .wait .queue s
  else
    .pend { commit := { Commit.none with log := [.addr ea] }, dest := d, log := log, ty := ty, addr := ea, size := 0, words := [] }
      (sendRemote s (remoteReq s r t ea op))

/-- A remote write, after the thread's own REDs and ADDMs to its bytes (R236): a leaving access of a watched thread (R334), then out of the rotation until its acknowledgement. -/
def remoteWrite (s : State) (r : TRef) (t : Thread) (ea : Word) (op : RemoteOp) (log : List LogItem) : Res :=
  if remoteOwn s r t ea (opBytes op) then .wait .queue s
  else
    match passPoint s r t 3 with
    | .error x => x
    | .ok s =>
      .pend { commit := { Commit.none with log := .addr ea :: log }, dest := none, log := .nothing, ty := none, addr := ea, size := 0,
              words := [] }
        (sendRemote s (remoteReq s r t ea op))

/-! ## Reads and writes inside the partition -/

/-- Every holder of a line with a nonzero share answers a forced pour, and the home combines: an exact bounded load, whose messages all
arrive at once (R207, R225). -/
def exactCombine (s : State) (p : PartId) (line : Nat) : State :=
  match s.steepHome p line with
  | none => s
  | some _ =>
    let s := s.finishLoad p line
    let hs := ((s.steepHome p line).map (fun x => (x.shares.filter (fun e => e.2 != 0)).map (fun e => e.1))).getD []
    let s := hs.foldl (fun s h => forceHolder s p h line) s
    (s.combine p line).releaseHome p line

/-- A plain load of a steep line, served by its home (R207). -/
def steepRead (s : State) (r : TRef) (t : Thread) (ea : Word) : Except Res (At × State) :=
  match reachHome 2 s r t needR ea with
  | .error e => .error e
  | .ok (_, miss, s) =>
    let line := lineOf ea
    let s := if miss then s else homeRead s r.part line (sectorBit (sectorOf ea.toNat)) t.corr
    match s.sl r.part line with
    | none => .error (.trap .poison (some ea) s)
    | some x =>
      match poisonStop s x.key ea with
      | .error e => .error e
      | .ok _ =>
        .ok ({ key := x.key + ea.toNat % 128, lat := homeLat r.core line miss, stamp := x.stamp }, exactCombine s r.part line)

/-- The scratchpad banks that `n` bytes from a cell on lie in (R195). -/
def banksOf (key n : Nat) : List Nat := (List.range ((key % 8 + n + 7) / 8)).map (fun i => (key / 8 + i) % 64)

/-- The cycles that a request waits which comes to its banks now: at each bank, for the engine's read of this cycle and for the requests before
it, one a cycle (R195, R276). -/
def bankWait (w : ClusterWorld) (bs : List Nat) : Nat :=
  bs.foldl (fun m b => Nat.max m (((kget w.bankQ b).getD []).length + (if w.bankEng.contains b then 1 else 0))) 0

/-- A request joins those that wait at its banks. -/
def joinBanks (w : ClusterWorld) (bs : List Nat) (now : Nat) : ClusterWorld :=
  { w with bankQ := bs.foldl (fun m b => kput m b ((kget m b).getD [] ++ [now])) w.bankQ }

/-- What the access of a slot's thread has asked of the scratchpad in this cycle. -/
def bankUse (w : ClusterWorld) (c : CoreId) (sl : SlotId) : BankUse :=
  (w.banks.find? (fun e => e.core == c && e.slot == sl)).getD { core := c, slot := sl, wait := 0, banks := [] }

/-- A thread's access to a window, with its reply time: at a scratchpad it waits its turn at each of its banks (R195, R196, R276, R412 code 10);
the lanes of a vector access are one access. DESIGN CHOICE (log 28). -/
def windowAt (s : State) (r : TRef) (key lat n : Nat) : At × State :=
  match clusterOf r.core with
  | some k =>
    if key / 2 ^ 48 % 4 = 2 then
      let own := bankUse (s.cluster r.part k).w r.core r.slot
      let bs := (banksOf key n).filter (fun b => !own.banks.contains b)
      let wait := Nat.max own.wait (bankWait (s.cluster r.part k).w bs)
      let s := s.modClusterW r.part k (fun w => { joinBanks w bs s.cycle with
        banks := w.banks.filter (fun e => e.core != r.core || e.slot != r.slot) ++
          [{ core := r.core, slot := r.slot, wait := wait, banks := own.banks ++ bs }] })
      ({ key := key, lat := lat + wait, stamp := none },
        if own.wait < wait then s.count r.part r.core 10 (some r.slot) (wait - own.wait) else s)
    else ({ key := key, lat := lat, stamp := none }, s.sramAt r.part key)
  | none => ({ key := key, lat := lat, stamp := none }, s.sramAt r.part key)

/-- A read of a window by a thread (R194, R339): a poisoned word faults. -/
def windowRead (s : State) (r : TRef) (key lat n : Nat) (ea : Word) : Except Res (At × State) :=
  if windowPoisoned s key n then .error (.trap .poison (some ea) s) else .ok (windowAt s r key lat n)

/-- A read of n bytes at a checked place. DESIGN CHOICE (log 14). -/
def readPlace (s : State) (r : TRef) (t : Thread) (ea : Word) (n : Nat) (pl : Place) : Except Res (At × State) :=
  match pl with
  | .window key lat => if redPending s r.part t.tid key n then .error (.wait .queue s) else windowRead s r key lat n ea
  | .mem l =>
    if ownPending s r t l ea n then .error (.wait .queue s)
    else if l.steep then steepRead s r t ea else loadLine s r t l ea
  | .remote => .error (.trap .address (some ea) s)

/-- A write of n bytes at a checked place may go on: where its bytes are. -/
def writePlace (s : State) (r : TRef) (t : Thread) (ea : Word) (n : Nat) (pl : Place) : Except Res (At × State) :=
  match pl with
  | .window key lat =>
    if redPending s r.part t.tid key n then .error (.wait .queue s) else .ok (windowAt s r key lat n)
  | .mem l => if ownPending s r t l ea n then .error (.wait .queue s) else storeLine s r t l ea
  | .remote => .error (.trap .address (some ea) s)

/-- An operation on n bytes performed at the home of a checked place (R149, R161, R164): the window's home or the home slice. -/
def homePlace (s : State) (r : TRef) (t : Thread) (need : BitVec 4) (reads writes : Bool) (ea : Word) (n : Nat) (pl : Place) :
    Except Res (At × State) :=
  match pl with
  | .window key lat =>
    if redPending s r.part t.tid key n then .error (.wait .queue s)
    else if reads then windowRead s r key lat n ea else .ok (windowAt s r key lat n)
  | .mem l => if ownPending s r t l ea n then .error (.wait .queue s) else homeOp s r t need writes l ea
  | .remote => .error (.trap .address (some ea) s)

/-! ## Plain loads and stores (R115) -/

/-- A plain load of a type from an address (R115, R118, R331). -/
def loadWord (ty : LdType) (d : Reg) (ea : Word) (r : TRef) (t : Thread) (s : State) : Res :=
  match checkAccess s r t needR ea ty.bytes true with
  | .error x => x
  | .ok (.remote, s) => remoteRead s r t ea (.load ty) (some d) (some ty) (.load (sizeCode ty.bytes))
  | .ok (pl, s) =>
    match readPlace s r t ea ty.bytes pl with
    | .error x => x
    | .ok (a, s) =>
      let v := ty.extend (memRead s.mem a.key ty.bytes)
      .done { Commit.none with
        regs := [(d, v)], log := .addr ea :: stampItems a ++ [.load d (sizeCode ty.bytes) v], lat := a.lat } s

/-- A plain store of the low bytes of register d to an address (R115, R118, R331, R335). -/
def storeWord (ty : StType) (d : Reg) (ea : Word) (r : TRef) (t : Thread) (s : State) : Res :=
  let n := ty.bytes
  let v := word ((t.rdD d).toNat % 2 ^ (8 * n))
  match checkAccess s r t needW ea n true with
  | .error x => x
  | .ok (.remote, s) => remoteWrite s r t ea (.store ty v) [.store d (sizeCode n) v]
  | .ok (pl, s) =>
    match writePlace s r t ea n pl with
    | .error x => x
    | .ok (a, s) =>
      .done { Commit.none with log := [.addr ea, .store d (sizeCode n) v, .leave (lineOf ea)], lat := a.lat }
        (clearStamp (putBytes s r.part a.key n v) r ea)

/-- The offset form of a load (R115). -/
def loadOffset (ty : LdType) (d : Reg) (a : Src) (off : BitVec 15) (s : State) : Out :=
  runWord [a] (fun r t s => loadWord ty d (eaOffset t a off) r t s) s
/-- The offset form of a store (R115). -/
def storeOffset (ty : StType) (d : Reg) (a : Src) (off : BitVec 15) (s : State) : Out :=
  runWord [a] (fun r t s => storeWord ty d (eaOffset t a off) r t s) s

/-- LD.s8 (R115). -/
def execLdS8 (d : Reg) (a : Src) (off : BitVec 15) (s : State) : Out := loadOffset .s8 d a off s
/-- LD.s16 (R115). -/
def execLdS16 (d : Reg) (a : Src) (off : BitVec 15) (s : State) : Out := loadOffset .s16 d a off s
/-- LD.s32 (R115). -/
def execLdS32 (d : Reg) (a : Src) (off : BitVec 15) (s : State) : Out := loadOffset .s32 d a off s
/-- LD.s64, LD.z64 (R115, R119). -/
def execLdS64 (d : Reg) (a : Src) (off : BitVec 15) (s : State) : Out := loadOffset .s64 d a off s
/-- LD.z8 (R115). -/
def execLdZ8 (d : Reg) (a : Src) (off : BitVec 15) (s : State) : Out := loadOffset .z8 d a off s
/-- LD.z16, LD.f16, LD.bf16 (R115). -/
def execLdZ16 (d : Reg) (a : Src) (off : BitVec 15) (s : State) : Out := loadOffset .z16 d a off s
/-- LD.z32, LD.f32 (R115). -/
def execLdZ32 (d : Reg) (a : Src) (off : BitVec 15) (s : State) : Out := loadOffset .z32 d a off s

/-- LDX (R115). -/
def execLdx (ty : LdType) (d : Reg) (a b : Src) (s : State) : Out :=
  runWord [a, b] (fun r t s => loadWord ty d (eaIndexed t a b ty.bytes) r t s) s

/-- ST of 8 bits (R115). -/
def execSt8 (d : Reg) (a : Src) (off : BitVec 15) (s : State) : Out := storeOffset .b8 d a off s
/-- ST of 16 bits (R115). -/
def execSt16 (d : Reg) (a : Src) (off : BitVec 15) (s : State) : Out := storeOffset .b16 d a off s
/-- ST of 32 bits (R115). -/
def execSt32 (d : Reg) (a : Src) (off : BitVec 15) (s : State) : Out := storeOffset .b32 d a off s
/-- ST of 64 bits (R115). -/
def execSt64 (d : Reg) (a : Src) (off : BitVec 15) (s : State) : Out := storeOffset .b64 d a off s

/-- STX (R115). -/
def execStx (ty : StType) (d : Reg) (a b : Src) (s : State) : Out :=
  runWord [a, b] (fun r t s => storeWord ty d (eaIndexed t a b ty.bytes) r t s) s

/-! ## Vector memory forms (R175 to R177) -/

/-- An active lane of a vector memory form: its index and its address. -/
abbrev LaneAt := Nat × Word

/-- The whole bundle is checked before any lane is performed, in ascending order (R176). DEDUCED (log 72). -/
def checkLanes (r : TRef) (t : Thread) (need : BitVec 4) (n : Nat) : List LaneAt → State → Except Res (List (LaneAt × Place) × State)
  | [], s => .ok ([], s)
  | x :: l, s =>
    match checkAccess s r t need x.2 n false with
    | .error e => .error e
    | .ok (pl, s) =>
      match checkLanes r t need n l s with
      | .error e => .error e
      | .ok (ps, s) => .ok ((x, pl) :: ps, s)

/-- The lanes read: lane, value and where it was found. -/
def readLanes (r : TRef) (t : Thread) (n : Nat) : List (LaneAt × Place) → State → Except Res (List (Nat × Nat × At) × State)
  | [], s => .ok ([], s)
  | (x, pl) :: l, s =>
    match readPlace s r t x.2 n pl with
    | .error e => .error e
    | .ok (a, s) =>
      match readLanes r t n l s with
      | .error e => .error e
      | .ok (vs, s) => .ok ((x.1, memRead s.mem a.key n, a) :: vs, s)

/-- The lanes' lines made ready for their writes: lane, address and key. -/
def readyLanes (r : TRef) (t : Thread) (n : Nat) : List (LaneAt × Place) → State → Except Res (List (Nat × Word × At) × State)
  | [], s => .ok ([], s)
  | (x, pl) :: l, s =>
    match writePlace s r t x.2 n pl with
    | .error e => .error e
    | .ok (a, s) =>
      match readyLanes r t n l s with
      | .error e => .error e
      | .ok (vs, s) => .ok ((x.1, x.2, a) :: vs, s)

/-- A vector load whose active lanes `l` of width w bits go to vd (R171, R176); `base` goes into the log (R331). -/
def vectorLoad (w n : Nat) (d : VReg) (base : Word) (l : List LaneAt) (r : TRef) (t : Thread) (s : State) : Res :=
  match checkLanes r t needR (w / 8) l s with
  | .error e => e
  | .ok (ps, s) =>
    match readLanes r t (w / 8) ps s with
    | .error e => e
    | .ok (vs, s) =>
      let v := lanesVec w ((List.range n).map (fun i =>
        match vs.find? (fun x => x.1 == i) with
        | some x => x.2.1
        | none => lane w t.v[d] i))
      let lat := vs.foldl (fun m x => Nat.max m x.2.2.lat) 8
      .done { vecCommit d v with
        log := .addr base :: vs.flatMap (fun x => stampItems x.2.2) ++ (vecCommit d v).log, lat := lat } s

/-- A vector store of the lanes `l` of register vd (R176, R177): nothing is written unless every lane can be; the highest lane's
element stands. -/
def vectorStore (w : Nat) (d : VReg) (base : Word) (l : List LaneAt) (r : TRef) (t : Thread) (s : State) : Res :=
  match checkLanes r t needW (w / 8) l s with
  | .error e => e
  | .ok (ps, s) =>
    match readyLanes r t (w / 8) ps s with
    | .error e => e
    | .ok (vs, s) =>
      let s := vs.foldl (fun s x => clearStamp (putBytes s r.part x.2.2.key (w / 8) (word (lane w t.v[d] x.1))) r x.2.1) s
      let lat := vs.foldl (fun m x => Nat.max m x.2.2.lat) 8
      .done { Commit.none with log := [.addr base, .vecStore d.val (vecXor t.v[d])], lat := lat } s

/-- The active lanes of a form with a mask, with their addresses (R171, R175). -/
def activeLanes (t : Thread) (n : Nat) (mask : Option MReg) (ea : Nat → Word) : List LaneAt :=
  ((List.range n).filter (laneActive t mask)).map (fun i => (i, ea i))

/-- VLD (R175): one 64-byte access, checked as such. -/
def execVld (d : VReg) (a : Src) (off : BitVec 15) (s : State) : Out :=
  runWord [a] (fun r t s =>
    let ea := eaOffset t a off
    match checkAccess s r t needR ea 64 false with
    | .error e => e
    | .ok (pl, s) =>
      match readPlace s r t ea 64 pl with
      | .error e => e
      | .ok (x, s) =>
        let v : BitVec 512 := BitVec.ofNat 512 (memRead s.mem x.key 64)
        .done { vecCommit d v with log := .addr ea :: stampItems x ++ (vecCommit d v).log, lat := x.lat } s) s

/-- VST (R175). -/
def execVst (d : VReg) (a : Src) (off : BitVec 15) (s : State) : Out :=
  runWord [a] (fun r t s =>
    let ea := eaOffset t a off
    match checkAccess s r t needW ea 64 false with
    | .error e => e
    | .ok (pl, s) =>
      match writePlace s r t ea 64 pl with
      | .error e => e
      | .ok (x, s) =>
        let s := (List.range 8).foldl (fun s i => putBytes s r.part (x.key + 8 * i) 8 (t.v[d].extractLsb' (64 * i) 64)) s
        .done { Commit.none with log := [.addr ea, .vecStore d.val (vecXor t.v[d])], lat := x.lat } (clearStamp s r ea)) s

/-- VLDS (R175): lane i at (x + i × y) mod 2^64. -/
def execVlds (ty : VType) (mask : Option MReg) (d : VReg) (a b : Src) (s : State) : Out :=
  runWord [a, b] (fun r t s =>
    vectorLoad ty.width ty.lanes d (t.rd a) (activeLanes t ty.lanes mask (fun i => t.rd a + word i * t.rd b)) r t s) s

/-- The address of lane i of an indexed form: (x + sext(vb[i], w)) mod 2^64 (R175). -/
def indexedLane (t : Thread) (ty : VType) (a : Src) (b : VReg) (i : Nat) : Word :=
  t.rd a + sextTo ty.width (lane ty.width t.v[b] i)

/-- VGATH (R175). -/
def execVgath (ty : VType) (mask : Option MReg) (d : VReg) (a : Src) (b : VReg) (s : State) : Out :=
  runWord [a] (fun r t s =>
    vectorLoad ty.width ty.lanes d (t.rd a) (activeLanes t ty.lanes mask (indexedLane t ty a b)) r t s) s

/-- VSCAT (R175). -/
def execVscat (ty : VType) (mask : Option MReg) (d : VReg) (a : Src) (b : VReg) (s : State) : Out :=
  runWord [a] (fun r t s =>
    vectorStore ty.width d (t.rd a) (activeLanes t ty.lanes mask (indexedLane t ty a b)) r t s) s

end Sys2Proof.Machine
end

