-- ==== Sys2Proof/Machine/Agents.lean ====
section
/-! DEFINITION. The homes as the other parties use them: replies to threads here and elsewhere (01 R21, 25 R370), reads and writes of
engines, dispatcher and port (12 R206, R208, R212, 26 R389), and the operations and lists of full/empty words (09 R149 to R152). -/
namespace Sys2Proof.Machine

/-! ## Replies -/

/-- A world that holds a thread in a slot, by the key of its save area. -/
def worldHolding (q : Partition) (c : CoreId) (slot : SlotId) (tid : Nat) : Option Nat :=
  (q.worlds.find? (fun e => e.2.out &&
    match kget e.2.cores c.val with
    | some w =>
      match kget w.slots slot.val with
      | some (.thread t) => t.tid == tid
      | _ => false
    | none => false)).map (fun e => e.1)

/-- A reply on its way to a thread of this module: to the running world, or kept for a thread that is switched out (R322). -/
def replyThread (s : State) (r : TRef) (tid : Nat) (v : Option Word) : State :=
  if (s.thread r).any (fun t => t.tid == tid) then s.push (.memoryReply r v)
  else
    match worldHolding (s.part r.part) r.core r.slot tid with
    | some k => s.modPart r.part (fun q => { q with
        worlds := kmapVals (fun i w => if i = k then { w with spill := w.spill ++ [.memoryReply r v] } else w) q.worlds })
    | none => s

/-- The reply to a remote request, on RSP or through the port (R370, R372). -/
def replyRemote (s : State) (modid : BitVec 16) (r : TRef) (tid : Nat) (v : Option Word) : State :=
  if modid = s.modid then replyThread s r tid v else { s with portOut := s.portOut ++ [.reply modid r tid true v] }

/-- An error reply to a remote request (R370). -/
def replyError (s : State) (modid : BitVec 16) (r : TRef) (tid : Nat) : State :=
  if modid = s.modid then s.push (.remoteErrorReply r tid)
  else { s with portOut := s.portOut ++ [.reply modid r tid false none] }

/-- A read that waits at a home takes the stamp of its line with it into its log (R335). -/
def stampPend (s : State) (r : TRef) (stamp : Option Stamp) : State :=
  match stamp with
  | some st => s.modThread r (fun t => { t with pend := t.pend.map (fun q => { q with
      commit := { q.commit with log := q.commit.log ++ [.stamp st.core st.seq] } }) })
  | none => s

/-! ## Lines as a home's other clients meet them -/

/-- The slice line that holds a cell. -/
def lineAt (s : State) (p : PartId) (key : Nat) : Option SliceLine :=
  (s.part p).slices.find? (fun l => l.key == key / 128 * 128)

/-- The line is taken at its home by a writer without an L1: holders revoked, copies collected, dirty there (R206, R227). -/
def takeLine (s : State) (p : PartId) (line : Nat) : State :=
  (((s.revokeAll p line).invalidateAll p line none).dirtySlice p line).setStamp p line none

/-- The captured page that a cell of the memory modules lies in. DEDUCED (log 70). -/
def capturedLeaf (s : State) (p : PartId) (key : Nat) : Option Leaf :=
  let pa := key - spaceBase p 0
  if key < spaceBase p 0 || (s.part p).r.snapn == 0 then none
  else (s.part p).snap.captured.find? (fun l => decide (l.pa ≤ pa) && decide (pa < l.pa + (if l.big then 2 ^ 29 else 2 ^ 16)))

/-- A write of `w` to a cell waits at its page (R389, R395): the state with `w` in the page's order. -/
def heldPage (s : State) (p : PartId) (key : Nat) (w : PageWriter) : Option State := (capturedLeaf s p key).bind (fun l => pageWait s p l w)

/-- A write by physical address dirties the clean pages that a leaf maps there (R389, R424). -/
def dirtyFrame (s : State) (p : PartId) (key : Nat) : State :=
  if key < spaceBase p 0 || spaceBase p 1 ≤ key || (s.part p).r.snapn == 0 then s
  else
    let pa := key - spaceBase p 0
    ((allLeaves s p).filter (fun l =>
      l.snap == 0 && decide (l.pa ≤ pa) && decide (pa < l.pa + (if l.big then 2 ^ 29 else 2 ^ 16)))).foldl (fun s l => pageWritten s p l) s

/-- The write of `w` to a cell goes on: `w` leaves its page's order. -/
def heldPassed (s : State) (p : PartId) (key : Nat) (w : PageWriter) : State :=
  match capturedLeaf s p key with
  | some l => pagePassed s p l.page w
  | none => s

/-- The line of a cell collected at its home, dirty there (R206, R227). -/
def collectAt (s : State) (p : PartId) (key : Nat) : State :=
  match lineAt s p key with
  | some l => ((s.revokeAll p l.line).invalidateAll p l.line none).dirtySlice p l.line
  | none => s

/-- The line of a cell carries no stamp any more: an unwatched write (R335). -/
def unstampAt (s : State) (p : PartId) (key : Nat) : State :=
  match lineAt s p key with
  | some l => s.setStamp p l.line none
  | none => s

/-- An operation of `w` on a cell at its home: its line collected there, or the wait at its page (R227, R389). -/
def opAtHome (s : State) (p : PartId) (key : Nat) (w : PageWriter) : Except State State :=
  match heldPage s p key w with
  | some s => .error s
  | none => .ok (collectAt (dirtyFrame (heldPassed s p key w) p key) p key)

/-- A cell about to be written at its home by `w`, a unit of the part: as an operation there, which leaves the line no stamp (R335). -/
def atHome (s : State) (p : PartId) (key : Nat) (w : PageWriter) : Except State State :=
  match opAtHome s p key w with
  | .error s => .error s
  | .ok s => .ok (unstampAt s p key)

/-- A home's read of a cell's sector from its way (R215). -/
def readHome (s : State) (p : PartId) (key : Nat) (corr : BitVec 32) : State :=
  match lineAt s p key with
  | some l => homeRead s p l.line (sectorBit (sectorOf key)) corr
  | none => s

/-- A unit of the part has written to the page of an address: a clean page joins the dirty list (R389). -/
def noteWrite (s : State) (p : PartId) (a : Word) : State :=
  if inWindowRegion a then s
  else
    match walkPage s p a with
    | .leaf l => pageWritten s p l
    | _ => s

/-- What a party other than a thread meets at a line. -/
inductive Reach where
  | ok (s : State)
  /-- the write waits: for the page copier, or for a way -/
  | held (s : State)
  | poisoned (s : State)

/-- A write of another party reaches a line through a leaf (R206, R212, R227, R389). -/
def reachWrite (s : State) (p : PartId) (l : Leaf) (va : Nat) (w : PageWriter) : Reach :=
  if s.linePoisoned (keyMain p (l.phys va)) then .poisoned (pagePassed s p l.page w)
  else
    match pageWait s p l w with
    | some s => .held s
    | none =>
      match homeLookup (pageWritten (pagePassed s p l.page w) p l) p (va / 128) l.dom with
      | .ok _ s => .ok (takeLine s p (va / 128))
      | .stale s => .ok s
      | .fault x s => .ok (listWalk s p (lineAddr (va / 128)) x)
      | .full s => .held s

/-- The sectors of a line that `n` bytes from an address on lie in (R208, R215). -/
def sectorsOf (va n : Nat) : BitVec 2 := sectorBit (sectorOf va) ||| sectorBit (sectorOf (va + (n - 1)))

/-- A read of `n` bytes of a line by another party (R207, R215, R227): copies in M and E are read through, holders of a steep line revoked. -/
def reachRead (s : State) (p : PartId) (l : Leaf) (va n : Nat) (corr : BitVec 32) : Reach :=
  let line := va / 128
  let go (s : State) : Reach :=
    let s := (s.copies p line).foldl (fun s c => s.forwardRead p c line) (s.revokeAll p line)
    if s.linePoisoned (keyMain p (l.phys va)) then .poisoned s else .ok s
  match homeLookup s p line l.dom with
  | .ok miss s => go (if miss then s else homeRead s p line (sectorsOf va n) corr)
  | .stale s => go s
  | .fault x s => go (listWalk s p (lineAddr line) x)
  | .full s => .held s

/-! ## Full/empty words (R149 to R152) -/

def feLists (s : State) (p : PartId) (key : Nat) : FeLists := (kget (s.part p).fe (key / 8 * 8)).getD { full := [], empty := [] }

def setFeLists (s : State) (p : PartId) (key : Nat) (l : FeLists) : State :=
  s.modPart p (fun q => { q with
    fe := if l.full.isEmpty && l.empty.isEmpty then kdel q.fe (key / 8 * 8) else kput q.fe (key / 8 * 8) l })

/-- Entries of a word's lists are due (R149). -/
def feDue (s : State) (p : PartId) (key : Nat) : Bool :=
  let l := feLists s p key
  if s.fullBit key then !l.full.isEmpty else !l.empty.isEmpty

/-- The home serves the word's lists from the next cycle on, one entry a cycle. -/
def feServeSoon (s : State) (p : PartId) (key : Nat) : State :=
  let i : Instr := .feListServe p (key / 8 * 8)
  if feDue s p key && !(s.timers.any (fun e => e.2 == i)) && !s.events.contains i then s.after 1 i else s

/-- A record that waited on its word joins the expansion order (R127). -/
def releaseRecord (s : State) (p : PartId) (id : Nat) : State :=
  (s.modPart p (fun q => { q with expansion := q.expansion ++ [id] })).push (.packetExpansion p)

/-- The reply of a full/empty operation to whoever asked for it. -/
def feReply (s : State) (p : PartId) (q : FeReq) (v : Option Word) : State :=
  match q.who with
  | .thread r tid =>
    let st := match v with
      | some _ => (lineAt s p q.key).bind (fun l => l.stamp)
      | none => none
    replyThread (stampPend s r st) r tid v
  | .record id => releaseRecord s p id
  | .remote m r tid => replyRemote s m r tid v
  | .engine => s

/-- The value that a completed LDS or LDSK returns; LDS leaves the word empty. -/
def feComplete (s : State) (q : FeReq) : Word × State :=
  (s.readMem q.key 8, if q.op = .lds then s.setFullBit q.key false else s)

/-- The word written and filled, as STS and STF do: its line carries no stamp any more (R335), until a watched writer's record leaves its own. -/
def feFill (s : State) (p : PartId) (key : Nat) (v : Word) : State := (putBytes (unstampAt s p key) p key 8 v).setFullBit key true

/-- A watched STS that the word's home has performed writes its records, with the stamp that it leaves (R332, R335). -/
def feLogged (s : State) (q : FeReq) : State :=
  match q.who with
  | .thread r tid =>
    match s.thread r with
    | some t =>
      match t.pend with
      | some x =>
        if t.tid = tid then
          (logPerformed s r x.commit).modThread r (fun t => { t with pend := some { x with commit := x.commit.unlogged } })
        else s
      | none => s
    | none => s
  | .record _ | .remote _ _ _ | .engine => s

/-- An arriving operation of R149 performed, with its result, or appended to a list (none). DESIGN CHOICE (log 74). -/
def feArrive (s : State) (p : PartId) (q : FeReq) : Option (Option Word) × State :=
  let l := feLists s p q.key
  match q.op with
  | .lds | .ldsk =>
    if s.fullBit q.key then
      let r := feComplete s q
      (some (some r.1), r.2)
    else (none, setFeLists s p q.key { l with full := l.full ++ [q] })
  | .sts =>
    if s.fullBit q.key then (none, setFeLists s p q.key { l with empty := l.empty ++ [q] })
    else (some none, feFill s p q.key q.val)
  | .stf => (some none, feFill s p q.key q.val)
  | .clre => (some none, s.setFullBit q.key false)

/-- One step of serve(w) (R149). -/
def feServe (s : State) (p : PartId) (key : Nat) : State :=
  let l := feLists s p key
  match l.full, l.empty, s.fullBit key with
  | q :: rest, _, true =>
    let r := feComplete (setFeLists s p key { l with full := rest }) q
    feReply r.2 p q (some r.1)
  | _, q :: rest, false => feReply (feLogged (feFill (setFeLists s p key { l with empty := rest }) p key q.val) q) p q none
  | _, _, _ => s

/-- A thread that a poisoned word's home cannot serve takes the poison fault (R212, R339). -/
def fePoisoned (s : State) (p : PartId) (key : Nat) : State :=
  let l := feLists s p key
  let s := setFeLists s p key { full := [], empty := [] }
  (l.full ++ l.empty).foldl (fun s q =>
    match q.who with
    | .thread r tid =>
      match s.thread r with
      | some t => if t.tid = tid then takeTrap s r .poison (t.pend.map (fun x => x.addr)) else s
      | none => s
    | .remote m r tid => replyError s m r tid
    | .record _ | .engine => setFeLists s p key { feLists s p key with full := (feLists s p key).full ++ [q] }) s

/-- The CORR of the access that heads the list that is due. -/
def feCorr (s : State) (p : PartId) (key : Nat) : BitVec 32 :=
  let l := feLists s p key
  match (if s.fullBit key then l.full else l.empty) with
  | q :: _ =>
    match q.who with
    | .thread _ _ | .remote _ _ _ => q.corr
    | .record id => (((s.part p).launches.find? (fun x => x.id == id)).map (fun x => x.corr)).getD 0
    | .engine => 0
  | [] => 0

/-- The line of a cell of the memory modules brought into its slice, where it has left that (R149, R197). -/
def lineBack (s : State) (p : PartId) (key : Nat) : State :=
  if key < spaceBase p 0 || spaceBase p 1 ≤ key || (lineAt s p key).isSome then s
  else
    match lineOfFrame s p key with
    | some l => bringLine s p l.line
    | none => s

/-- FE_LIST_SERVE: the home serves one due entry of a word (R149); a write to a captured page waits for the copier (R389). -/
def execFeListServe (p : PartId) (key : Nat) (s : State) : Out :=
  if !feDue s p key then .next s
  else
    match opAtHome (lineBack s p key) p key (.step (.feListServe p key)) with
    | .error s => .next (s.holdBack (.feListServe p key))
    | .ok s =>
      let s := readHome s p key (feCorr s p key)
      if s.linePoisoned key || s.wordPoisoned key then .next (fePoisoned s p key) else .next (feServeSoon (feServe s p key) p key)

/-- FE_HOME_OPERATION: an operation of a party other than a thread of the partition arrives at its word's home (R149, R150). -/
def execFeHomeOperation (p : PartId) (q : FeReq) (s : State) : Out :=
  match opAtHome s p q.key (.step (.feHomeOperation p q)) with
  | .error s => .next (s.holdBack (.feHomeOperation p q))
  | .ok s =>
    let r := feArrive (s.sramAt p q.key) p q
    let s := match r.1 with
      | some v => feReply r.2 p q v
      | none => r.2
    .next (feServeSoon s p q.key)

/-- An operation of a thread of a partition, waiting in a list there or in another partition of the module. -/
def feOf (m : BitVec 16) (p : PartId) (tid : Nat) (here : Bool) (q : FeReq) : Bool :=
  match q.who with
  | .thread _ t => here && t == tid
  | .remote m' r t => m' == m && r.part == p && t == tid
  | .record _ | .engine => false

/-- The lists of full/empty words less some entries. -/
def feDrop (l : KMap FeLists) (out : FeReq → Bool) : KMap FeLists :=
  (kmapVals (fun _ (l : FeLists) => { full := l.full.filter (fun q => !out q), empty := l.empty.filter (fun q => !out q) }) l).filter
    (fun e => !(e.2.full.isEmpty && e.2.empty.isEmpty))

/-- A thread leaves every list that it waits in, in its partition and in others of the module (R152, R370). -/
def feForget (s : State) (p : PartId) (tid : Nat) : State :=
  allParts.foldl (fun u q => u.modPart q (fun x => { x with fe := feDrop x.fe (feOf s.modid p tid (q == p)) })) s

/-! ## The words -/

/-- The ATOM kind of a full/empty operation (R331). -/
def FeOp.kind : FeOp → Nat
  | .lds => 0 | .ldsk => 1 | .sts => 2 | .stf => 3 | .clre => 4

/-- The rights that a full/empty operation needs (R200). -/
def feNeed : FeOp → BitVec 4
  | .lds => needRW
  | .ldsk => needR
  | .sts | .stf | .clre => needW

/-- The operation reads its word's data. -/
def feReads : FeOp → Bool
  | .lds | .ldsk => true
  | .sts | .stf | .clre => false

/-- The records of an operation that writes: its operand, and the stamp that STS and STF leave (R331, R335). -/
def feWriteLog (op : FeOp) (d : Reg) (v : Word) (ea : Word) : List LogItem :=
  .atom (FeOp.kind op) d v :: (match op with
    | .sts | .stf => [.leave (lineOf ea)]
    | .lds | .ldsk | .clre => [])

/-- A full/empty operation of a thread, at its word's home (R149, R150): it commits with the reply, or its thread waits in the word's
list. -/
def feWord (op : FeOp) (d : Reg) (v : Word) (ea : Word) (r : TRef) (t : Thread) (s : State) : Res :=
  match checkAccess s r t (feNeed op) ea 8 true with
  | .error x => x
  | .ok (.remote, s) =>
    if feReads op then remoteRead s r t ea (.fe op v) (some d) (some .s64) (.atom (FeOp.kind op))
    else remoteWrite s r t ea (.fe op v) (feWriteLog op d v ea)
  | .ok (pl, s) =>
    match homePlace s r t (feNeed op) (feReads op) (op != .ldsk) ea 8 pl with
    | .error x => x
    | .ok (a, s) =>
      let res := feArrive s r.part { op := op, key := a.key, val := v, who := .thread r t.tid, corr := t.corr }
      let s := feServeSoon res.2 r.part a.key
      match res.1 with
      | some (some x) =>
        .done { Commit.none with
          regs := [(d, x)], log := .addr ea :: stampItems a ++ [.atom (FeOp.kind op) d x], lat := a.lat } s
      | some none => .done { Commit.none with log := .addr ea :: feWriteLog op d v ea, lat := a.lat } s
      | none =>
        if feReads op then
          .pend { commit := { Commit.none with log := [.addr ea] }, dest := some d, log := .atom (FeOp.kind op), ty := some .s64,
                  addr := ea, big := pl.big, size := 0, words := [] } s
        else
          .pend { commit := { Commit.none with log := .addr ea :: feWriteLog op d v ea }, dest := none, log := .nothing,
                  ty := none, addr := ea, big := pl.big, size := 0, words := [] } s

/-- LDS (R149, R150). -/
def execLds (d : Reg) (a : Src) (off : BitVec 15) (s : State) : Out :=
  runWord [a] (fun r t s => feWord .lds d 0 (eaOffset t a off) r t s) s
/-- LDSK (R149, R150). -/
def execLdsk (d : Reg) (a : Src) (off : BitVec 15) (s : State) : Out :=
  runWord [a] (fun r t s => feWord .ldsk d 0 (eaOffset t a off) r t s) s
/-- STS (R149, R150). -/
def execSts (d : Reg) (a : Src) (off : BitVec 15) (s : State) : Out :=
  runWord [a] (fun r t s => feWord .sts d (t.rdD d) (eaOffset t a off) r t s) s
/-- STF (R149, R150). -/
def execStf (d : Reg) (a : Src) (off : BitVec 15) (s : State) : Out :=
  runWord [a] (fun r t s => feWord .stf d (t.rdD d) (eaOffset t a off) r t s) s
/-- CLRE (R149, R150). -/
def execClre (a : Src) (off : BitVec 15) (s : State) : Out :=
  runWord [a] (fun r t s => feWord .clre 0 0 (eaOffset t a off) r t s) s

/-! ## A reply that commits its bundle -/

/-- The commit of a bundle whose reply has come (R21): the value goes to its register, and its record into the log (R331). -/
def replyCommit (q : Pend) (v : Option Word) : Commit :=
  match v with
  | some x =>
    let x := match q.ty with
      | some ty => ty.extend x.toNat
      | none => x
    let d := q.dest.getD 0
    let item := match q.log with
      | .nothing => []
      | .load n => [LogItem.load d n x]
      | .atom k => [LogItem.atom k d x]
    { q.commit with
      regs := (match q.dest with
        | some d => (d, x) :: q.commit.regs
        | none => q.commit.regs),
      log := match q.commit.log with
        | .addr a :: l => .addr a :: (l.filter (fun i => match i with | .stamp _ _ => true | _ => false)) ++ item ++
            l.filter (fun i => match i with | .stamp _ _ => false | _ => true)
        | l => item ++ l }
  | none => q.commit

/-- MEMORY_REPLY: the reply arrives and the bundle commits (R21, R25), unless the pair's other word has a later reply time (R93, R101): the
commit then waits for it. DESIGN CHOICE (log 13). -/
def execMemoryReply (r : TRef) (v : Option Word) (s : State) : Out :=
  match s.thread r with
  | some t =>
    match t.pend with
    | some q =>
      if s.cycle < q.notBefore then
        .next ((s.setThread r { t with pend := some { q with commit := replyCommit q v, dest := none, log := .nothing } }).after
          (q.notBefore - s.cycle) (.memoryReply r none))
      else
        let s := s.setThread r { t with readyAt := Nat.max t.readyAt (s.cycle + 1) }
        .next (commitAt s r q.size q.words (replyCommit q v))
    | none => .next s
  | none => .next s

/-- REMOTE_ERROR_REPLY: a read takes the poison fault with EADDR the remote address; a write is dropped, and its bundle commits
(R370). -/
def execRemoteErrorReply (r : TRef) (tid : Nat) (s : State) : Out :=
  match s.thread r with
  | some t =>
    if t.tid = tid then
      match t.pend with
      | some q =>
        match q.dest with
        | some _ => .next (takeTrap s r .poison (some q.addr))
        | none => execMemoryReply r none s
      | none => .next s
    else .next s
  | none => .next s

end Sys2Proof.Machine
end

