-- ==== Sys2Proof/Machine/Hash.lean ====
section
/-! DEFINITION. SHAKE256, the hash of snapshots and of the controller's signatures (26 R391, 27 R398, R401). The spec names the function; its
definition is FIPS 202's (PRESUMED), whose tables are computed here from the rules that generate them. -/
namespace Sys2Proof.Machine

/-! ## Tables by rule -/

/-- One step of the 8-bit shift register of x^8 + x^6 + x^5 + x^4 + 1. -/
def registerStep (r : Nat) : Nat := if 2 * r < 256 then 2 * r else (2 * r - 256) ^^^ 0x71

/-- The constant of a round from the register at its start, seven steps: output t of them stands at bit 2^t - 1. -/
def roundWord : Nat → Nat → Nat → BitVec 64
  | 0, _, _ => 0
  | k + 1, t, r => BitVec.ofNat 64 (r % 2 * 2 ^ (2 ^ t - 1)) ||| roundWord k (t + 1) (registerStep r)

/-- The constants of `n` rounds from a register on. -/
def roundWords : Nat → Nat → List (BitVec 64)
  | 0, _ => []
  | n + 1, r => roundWord 7 0 r :: roundWords n (Nat.repeat registerStep 7 r)

/-- A lane's place in the state: column and row. -/
structure LanePos where
  col : Nat
  row : Nat

def LanePos.index (p : LanePos) : Nat := 5 * p.row + p.col

/-- Where a lane moves in a round. -/
def LanePos.next (p : LanePos) : LanePos := { col := p.row, row := (2 * p.col + 3 * p.row) % 5 }

/-- The moves of the 24 lanes that move, step t from 1 on: from, to, and the rotation t(t + 1)/2 on the way. -/
def laneMoves : Nat → Nat → LanePos → List (Nat × Nat × Nat)
  | 0, _, _ => []
  | k + 1, t, p => (p.index, p.next.index, t * (t + 1) / 2 % 64) :: laneMoves k (t + 1) p.next

/-! ## The permutation -/

/-- The parity of a column. -/
def columnParity (a : List (BitVec 64)) (x : Nat) : BitVec 64 :=
  (List.range 5).foldl (fun v y => v ^^^ a.getD (5 * y + x % 5) 0) 0

/-- Each lane takes the parities of the columns beside its own. -/
def mixColumns (a : List (BitVec 64)) : List (BitVec 64) :=
  a.mapIdx (fun i v => v ^^^ columnParity a (i + 4) ^^^ (columnParity a (i + 1)).rotateLeft 1)

/-- The lanes but the first are turned and move. -/
def moveLanes (a : List (BitVec 64)) : List (BitVec 64) :=
  (laneMoves 24 1 { col := 1, row := 0 }).foldl (fun b m => b.set m.2.1 ((a.getD m.1 0).rotateLeft m.2.2)) a

/-- Each lane takes, within its row, the one after the next where the next is zero. -/
def mixRows (a : List (BitVec 64)) : List (BitVec 64) :=
  a.mapIdx (fun i v =>
    let lane (d : Nat) := a.getD (i / 5 * 5 + (i + d) % 5) 0
    v ^^^ (lane 2 &&& ~~~lane 1))

/-- A round: its constant enters the first lane last. -/
def permRound (a : List (BitVec 64)) (k : BitVec 64) : List (BitVec 64) :=
  (mixRows (moveLanes (mixColumns a))).modify 0 (fun v => v ^^^ k)

/-- The permutation of 1,600 bits. PRESUMED (log 10). -/
def permute (a : List (BitVec 64)) : List (BitVec 64) := (roundWords 24 1).foldl permRound a

/-! ## The sponge -/

/-- The number that bytes hold, the first byte lowest. -/
def spongeWord (l : List Byte) : BitVec 64 := l.foldr (fun b v => (v <<< 8) ||| b.setWidth 64) 0

/-- A message's blocks of 136 bytes enter the state in turn. -/
def spongeIn : Nat → List Byte → List (BitVec 64) → List (BitVec 64)
  | 0, _, a => a
  | n + 1, l, a => spongeIn n (l.drop 136) (permute (a.mapIdx (fun i v => if i < 17 then v ^^^ spongeWord ((l.drop (8 * i)).take 8) else v)))

/-- A message with its suffix 1111, and the padding that fills its last block. -/
def spongePad (l : List Byte) : List Byte :=
  let n := 136 - l.length % 136
  let tail := List.replicate n (0 : Byte)
  l ++ ((tail.modify 0 (fun b => b ||| 0x1F)).modify (n - 1) (fun b => b ||| 0x80))

/-- The first n bytes, at most 136, of SHAKE256 over bytes. PRESUMED (log 10). -/
def shake256 (n : Nat) (l : List Byte) : List Byte :=
  let a := spongeIn (l.length / 136 + 1) (spongePad l) (List.replicate 25 0)
  (List.range n).map (fun i => (a.getD (i / 8) 0).extractLsb' (8 * (i % 8)) 8)

end Sys2Proof.Machine
end

