-- ==== Sys2Proof/Machine/Inputs.lean ====
section
/-! DEFINITION. The inputs of a partition as a snapshot governs them: peers, channels, holding and recording (26 R381, R385, R386). -/
namespace Sys2Proof.Machine

/-! ## Peers and channels of a snapshot (R381, R385, R386) -/

/-- A partition of the job, as a number: its MODID and its partition. -/
def peerKey (modid : BitVec 16) (p : PartId) : Nat := modid.toNat * 16 + p.val

/-- The peers of a partition's snapshot domain, each once and without itself (R381). The reserved bits 63:20 of an entry have no effect,
whatever they hold: the spec states no check of them. DESIGN CHOICE (log 80). -/
def snapPeers (s : State) (p : PartId) : List Nat :=
  let r := (s.part p).r
  let base := field r.snapdom 3 45 * 8
  (((List.range (field r.snapctl 16 12)).map (fun i => memRead s.mem (keyMain p (base + 8 * i)) 8)).map
    (fun e => e % 2 ^ 16 * 16 + e / 2 ^ 16 % 16)).eraseDups.filter (fun k => k != peerKey s.modid p)

/-- The marker of a channel waits at its input (R386). -/
def markerWaits (q : Partition) (key : Nat) (ch : Chan) : Bool :=
  q.snap.held.any (fun i => match i with
    | .marker _ m => peerKey m.srcMod m.src == key && m.chan == ch
    | _ => false)

/-- The colour of a partition's BLK packets: the low bit of its last cut's number (R385). -/
def blkColour (q : Partition) : Bool := q.r.snapn.getLsbD 0

/-- The colour that peers' BLK packets had before the cut that this partition awaits, or last took (R385). -/
def oldColour (q : Partition) : Bool := if q.snap.phase == .idle || q.snap.phase == .cut then q.snap.oldColour else blkColour q

def blkGotOf (q : Partition) (key : Nat) (colour : Bool) : Nat := (kget q.snap.blkGot (2 * key + (if colour then 1 else 0))).getD 0
def blkWantOf (q : Partition) (key : Nat) : Nat := (kget q.snap.blkWant key).getD 0

/-- A channel's marker counts as arrived: on BLK together with the packets of the old colour that it names (R385). -/
def chanArrived (q : Partition) (key : Nat) (ch : Chan) : Bool :=
  q.snap.seen.contains (key, ch) && (ch != .blk || decide (blkWantOf q key ≤ blkGotOf q key (oldColour q)))

/-- A first marker waits at an input while the previous snapshot is written (R386). -/
def anyMarkerWaits (q : Partition) : Bool := q.snap.held.any (fun i => match i with
  | .marker _ _ => true
  | _ => false)

/-- The state that the partition keeps of a snapshot, 0 for a number not among the last 16 (R384, R423). -/
def snapState (q : Partition) (n : Nat) : Nat := ((q.snap.table.find? (fun e => e.n == n)).map (fun e => e.state)).getD 0

/-- The partition records the channels on which the marker of its last cut has not arrived: from the cut on (R386). -/
def recording (q : Partition) : Bool := snapState q q.r.snapn.toNat == 1 && (q.snap.phase == .idle || q.snap.phase == .cut)

/-- A BLK packet that its sender sent after the cut that this partition awaits (R385, R386): of another colour than the last cut's, once every
packet of the colour before that has come. -/
def blkAhead (q : Partition) (key : Nat) (colour : Bool) : Bool := colour != blkColour q && (!recording q || chanArrived q key .blk)

/-- A message that arrives is held at the input from the first marker until the cut, and behind those held until they are released (R386, R387);
`colour` is that of a BLK packet. -/
def inputHeld (q : Partition) (key : Nat) (ch : Chan) (colour : Option Bool) : Bool :=
  (q.snap.phase != .idle && (chanArrived q key ch || colour.any (fun c => c != oldColour q))) || markerWaits q key ch ||
  (q.snap.phase == .idle && anyMarkerWaits q && colour.any (blkAhead q key))

/-- A message is recorded in the channel log (R386). -/
def inputLogged (s : State) (p : PartId) (key : Nat) (ch : Chan) (colour : Option Bool) : Bool :=
  let q := s.part p
  recording q && (snapPeers s p).contains key && !chanArrived q key ch && colour.all (fun c => c == q.snap.oldColour)

/-- The input of a partition held, recorded or passed on (R386). `none` says that it is held. -/
def takeInput (s : State) (p : PartId) (key : Nat) (ch : Chan) (colour : Option Bool) (i : Instr) : Option State :=
  if inputHeld (s.part p) key ch colour then none
  else if inputLogged s p key ch colour then
    some (s.modPart p (fun q => { q with snap := { q.snap with chanLog := q.snap.chanLog ++ [i] } }))
  else some s

/-- The state of a snapshot set; the partition keeps its last 16 (R384). -/
def setSnapState (s : State) (p : PartId) (n v : Nat) : State :=
  s.modPart p (fun q => { q with snap := { q.snap with
    table := ({ n := n, state := v } :: q.snap.table.filter (fun e => e.n != n)).take 16 } })

/-- The counts of BLK packets once every marker has come: those that the markers named are done with (R385). -/
def spendBlk (x : SnapSt) : SnapSt :=
  { x with
    seen := [], blkWant := [],
    blkGot := x.blkWant.foldl (fun (m : KMap Nat) e =>
      let k := 2 * e.1 + (if x.oldColour then 1 else 0)
      kput m k ((kget m k).getD 0 - e.2)) x.blkGot }

/-- Cycles from the end of recording to the writer's step. DESIGN CHOICE (log 58). -/
def writerDelay : Nat := 64

/-- Recording ends when every REQ, MSG and BLK channel of every peer has its marker: the snapshot enters state 2 (R386). -/
def endRecording (s : State) (p : PartId) : State :=
  let q := s.part p
  if recording q && q.snap.phase == .idle && (snapPeers s p).all (fun k => chanArrived q k .req && chanArrived q k .msg && chanArrived q k .blk) then
    ((setSnapState s p q.r.snapn.toNat 2).modPart p (fun q => { q with snap := spendBlk q.snap })).after writerDelay (.snapshotWriter p)
  else s

/-- A BLK packet counted at its receiver (R385). -/
def blkArrives (s : State) (p : PartId) (key : Nat) (colour : Bool) : State :=
  let k := 2 * key + (if colour then 1 else 0)
  endRecording (s.modPart p (fun x => { x with snap := { x.snap with blkGot := kput x.snap.blkGot k ((kget x.snap.blkGot k).getD 0 + 1) } })) p

/-- An input held until the cut. -/
def holdInput (s : State) (p : PartId) (i : Instr) : State :=
  s.modPart p (fun q => { q with snap := { q.snap with held := q.snap.held ++ [i] } })

/-! ## The order of a flow (R138, R366, R385) -/

/-- The channel that a request travels on (R371). -/
def reqChan (q : RemoteReq) : Chan :=
  match q.op with
  | .beatRead _ _ | .beatWrite _ _ _ => .blk
  | .load _ | .store _ _ | .amo _ _ _ _ | .red _ _ _ | .fe _ _ => .req

/-- The core that a message on MSG is bound for: a SEND, a request, a migration, or a RED's update on its way to a bank core. -/
def msgTo (i : Instr) : Option (PartId × CoreId) :=
  match i with
  | .sendArrival p c _ | .sendRetry p c _ | .activeMessageArrival p c _ | .remoteUpdate p c => some (p, c)
  | .migrationArrival r => some (r.part, r.core)
  | _ => none

/-- The flow of a message between partitions on REQ or MSG, and whether it is a marker: source, destination, channel. -/
def flowOf (i : Instr) : Option (Nat × PartId × Chan × Bool) :=
  match i with
  | .remoteRequest q => if reqChan q = .req ∧ !q.arrived then some (peerKey q.srcMod q.src.part, q.dst, .req, false) else none
  | .activeMessageArrival p _ m => some (peerKey m.srcMod m.src.part, p, .msg, false)
  | .marker p m => if m.chan = .req ∨ m.chan = .msg then some (peerKey m.srcMod m.src, p, m.chan, true) else none
  | _ => none

/-- The port that an access of the host comes through. -/
def portOf (i : Instr) : Option PartId :=
  match i with
  | .hostAccess p _ _ => some p
  | _ => none

/-- Two messages keep their order: they are bound for one core on MSG (R138), they are accesses of the host through one port (R125), or one
of them is the marker of the other's flow (R385). DEDUCED (log 77). -/
def sameFlow (a b : Instr) : Bool :=
  ((msgTo a).isSome && msgTo a == msgTo b) || ((portOf a).isSome && portOf a == portOf b) ||
  (match flowOf a, flowOf b with
   | some (k, p, c, m), some (k', p', c', m') => k == k' && p == p' && c == c' && (m || m')
   | _, _ => false)

/-- A message of the same flow is held back: this one waits behind it. DEDUCED (log 77). -/
def heldBehind (s : State) (i : Instr) : Bool := s.waiting.any (sameFlow i)

/-- The request comes from another partition: on one of the channels that snapshots govern. -/
def fromPeer (s : State) (m : BitVec 16) (src p : PartId) : Bool := m != s.modid || src != p

end Sys2Proof.Machine
end

