-- ==== Sys2Proof/Machine/Threads.lean ====
section
/-! DEFINITION. The life of threads outside their own words: thread ids and slots (08 R120, R134, R136), the end of a thread and of its
record (R129, R130), reservations (09 R162), deliveries (06 R85, 20 R320), kills and scrubs (20 R314), server runs (R158), and
migration (R141, R142). -/
namespace Sys2Proof.Machine

/-! ## Thread ids -/

/-- The thread ids that slots hold: living threads, threads under way, and killed ones not yet scrubbed. -/
def slotTids (l : KMap Slot) : List Nat :=
  l.filterMap (fun e => match e.2 with
    | .thread t | .reserved t => some t.tid
    | .scrub tid => some tid
    | .freed => none)

def worldTids (l : KMap CoreWorld) : List Nat :=
  l.flatMap (fun e => slotTids e.2.slots ++ e.2.landing.map (fun t => t.tid))

/-- The thread ids in use in a partition, those of its switched-out worlds included (R136). -/
def livingTids (q : Partition) : List Nat :=
  q.cores.flatMap (fun e => slotTids e.2.w.slots ++ e.2.w.landing.map (fun t => t.tid)) ++
  q.worlds.flatMap (fun e => if e.2.out then worldTids e.2.cores else [])

/-- A freed id is not reused before this many further threads (R136). -/
def tidSpan : Nat := 2 ^ 19

/-- The freed ids that may not be reused yet (R136). DESIGN CHOICE (log 32). -/
def restingTids (q : Partition) : List (Nat × Nat) := q.freedTids.filter (fun e => decide (q.threadsMade < e.2 + tidSpan))

/-- The first id from `n` on that is neither 0 nor barred; ids run modulo 2^20. DESIGN CHOICE (log 32). -/
def freeTid : Nat → List Nat → Nat → Nat
  | 0, _, n => n
  | k + 1, used, n => if n = 0 ∨ used.contains n then freeTid k used ((n + 1) % 2 ^ 20) else n

/-- A thread id for a new thread (R136): ids are given in order, past those of living threads and those freed too recently. DESIGN CHOICE (log 32). -/
def allocTid (s : State) (p : PartId) : Nat × State :=
  let resting := restingTids (s.part p)
  let used := livingTids (s.part p) ++ resting.map (fun e => e.1)
  let n := freeTid (used.length + 2) used ((s.part p).nextTid % 2 ^ 20)
  (n, s.modPart p (fun q => { q with nextTid := (n + 1) % 2 ^ 20, threadsMade := q.threadsMade + 1, freedTids := resting }))

/-- A thread's id is freed. -/
def freedTid (s : State) (p : PartId) (tid : Nat) : State :=
  s.modPart p (fun q => { q with freedTids := q.freedTids ++ [(tid, q.threadsMade)] })

/-! ## Slots -/

/-- A thread enters a slot: its STATUS names the slot and whether the core is watched (R11, R143, R328). -/
def slotStatus (t : Thread) (slot : SlotId) (watched : Bool) : Thread :=
  { t with status := setField (setField t.status 8 4 slot.val) 14 1 (if watched then 1 else 0) }

/-- A thread enters a slot of the running world, with its MARK of a watched core (R331). DEDUCED (log 33). DEDUCED (log 77). -/
def placeThread (s : State) (r : TRef) (t : Thread) (ready : Nat) : State :=
  logStart (s.setThread r { slotStatus t r.slot (s.watched r.part r.core) with readyAt := ready }) r t.tid

/-- A core's next update may run: a step of it is due, if none stands yet (R166). -/
def askUpdate (s : State) (p : PartId) (c : CoreId) : State :=
  if (s.events ++ s.waiting).contains (.remoteUpdate p c) then s else s.push (.remoteUpdate p c)

/-- A general slot of a core has become free (R134): the head of its landing queue takes it, else packets and remote updates may. -/
def slotFreed (s : State) (p : PartId) (c : CoreId) : State :=
  let w := (s.core p c).w
  match w.landing, freeGeneral w with
  | t :: rest, some sl =>
    placeThread (s.modCoreW p c (fun w => { w with landing := rest })) ⟨p, c, sl⟩ t (s.cycle + 1)
  | _, some _ =>
    let s := if w.updateQ.isEmpty then s else askUpdate s p c
    match clusterOf c with
    | some k => if (s.cluster p k).queues.toList.all (fun l => l.isEmpty) then s else s.push (.packetDispatch p k)
    | none => s
  | _, none => s

/-- A slot is free: the server slot's and the system slot's next runs may start (R138, R320). -/
def freeSlot (s : State) (r : TRef) : State :=
  let s := s.clearSlot r
  if r.slot.val = 0 then s.push (.syshRun r.part r.core)
  else if r.slot.val = 1 then s.push (.serverRunStart r.part r.core)
  else slotFreed s r.part r.core

/-- A thread's EXIT leaves its slot, which may receive a thread in the next cycle (R137). -/
def leaveSlot (s : State) (r : TRef) : State := s.setSlot r .freed

/-- The slots that EXITs left in the cycle before. -/
def freedSlots (p : PartId) (c : CoreId) (l : KMap Slot) : List TRef :=
  l.filterMap (fun e => if h : e.1 < 16 then (if e.2 = .freed then some ⟨p, c, ⟨e.1, h⟩⟩ else none) else none)

/-- The slots of a partition that EXITs left become free. -/
def freeSlots (s : State) (p : PartId) : State :=
  ((s.part p).coreIds.flatMap (fun c => freedSlots p c (s.core p c).w.slots)).foldl freeSlot s

/-! ## Descriptor sets and records -/

/-- Something still refers to a descriptor set: a thread of any world, a queued packet, a record not wholly expanded (R129). -/
def dsetUsed (q : Partition) (d : Nat) : Bool :=
  let inSlots (l : KMap Slot) := l.any (fun e => match e.2 with
    | .thread t | .reserved t => t.dset == d
    | .scrub _ | .freed => false)
  q.cores.any (fun e => inSlots e.2.w.slots || e.2.w.landing.any (fun t => t.dset == d)) || q.worlds.any (fun e => e.2.out && e.2.cores.any (fun c => inSlots c.2.slots)) ||
  q.clusters.any (fun e => e.2.queues.toList.any (fun l => l.any (fun x => x.dset == d))) ||
  q.launches.any (fun x => x.dset == some d && decide (x.next < x.count))

/-- A set that nothing refers to is freed, and a record that waits for one may go on (R129). -/
def releaseDset (s : State) (p : PartId) (d : Nat) : State :=
  if d = 0 ∨ dsetUsed (s.part p) d then s
  else (s.modPart p (fun q => { q with dsets := kdel q.dsets d })).push (.packetExpansion p)

/-- A thread of a record has ended (R130): with the last one, the DONE word is due. -/
def recordEnded (s : State) (p : PartId) (launch : Option Nat) : State :=
  match launch with
  | none => s
  | some id =>
    let s := s.modPart p (fun q => { q with
      launches := q.launches.map (fun x => if x.id = id then { x with ended := x.ended + 1 } else x) })
    if (s.part p).launches.any (fun x => x.id == id && x.ended == x.count) then s.push (.doneWrite p id) else s

/-! ## Reservations (R162) -/

def resvLines (q : Partition) (sl : SliceId) : KMap (List Waiter) := q.resv.filter (fun e => homeSlice e.1 == sl)

/-- The slice's tables have room for a waiter of the line: 1,024 lines and 4,096 waiters. -/
def resvRoom (q : Partition) (line : Nat) : Bool :=
  let l := resvLines q (homeSlice line)
  ((kget q.resv line).isSome || decide (l.length < 1024)) &&
  decide ((l.foldl (fun n e => n + e.2.length) 0) < 4096)

/-- The line of a reservation collected and read at its home. -/
def resvRead (s : State) (p : PartId) (w : Waiter) : State :=
  let s := match lineAt s p w.key with
    | some l => (s.revokeAll p l.line).invalidateAll p l.line none
    | none => s
  readHome s p w.key (((s.thread w.who).map (fun t => t.corr)).getD 0)

/-- The thread of a waiter, if it is still there. -/
def waiterThread (s : State) (w : Waiter) : Option Thread := (s.thread w.who).bind (fun t => if t.tid = w.tid then some t else none)

/-- The head of a line's queue becomes its holder and receives its word (R162): the value read, and the stamp that the line carries. On a
poisoned line it takes the poison fault (R212), which leaves it no holder, and the reservation passes on. DESIGN CHOICE (log 74). -/
def grantNext (p : PartId) (line : Nat) : List Waiter → State → State
  | [], s => s.modPart p (fun q => { q with resv := kdel q.resv line })
  | w :: rest, s =>
    let s := resvRead (s.modPart p (fun q => { q with resv := kput q.resv line (w :: rest) })) p w
    if s.linePoisoned w.key then
      match waiterThread s w with
      | some t => grantNext p line rest (takeTrap (s.setThread w.who { t with resv := none }) w.who .poison (t.pend.map (fun x => x.addr)))
      | none => grantNext p line rest s
    else replyThread (stampPend s w.who ((lineAt s p w.key).bind (fun l => l.stamp))) w.who w.tid (some (s.readMem w.key 8))

/-- An LRW that waits for room in a slice's tables is tried again. DESIGN CHOICE (log 74). -/
def retryLrw (s : State) (p : PartId) (line : Nat) : State :=
  if (s.part p).lrwFull.any (fun w => match s.thread w.who with
      | some t => (t.resv.map homeSlice) == some (homeSlice line)
      | none => true)
  then s.push (.lrwRetry p (homeSlice line)) else s

/-- The reservation of a line passes to the next waiter (R162). -/
def releaseResv (s : State) (p : PartId) (line : Nat) : State :=
  retryLrw (grantNext p line (((kget (s.part p).resv line).getD []).drop 1) s) p line

/-- A thread that ends or is switched out gives up its reservation, or its place in a queue (R162). -/
def leaveResv (s : State) (p : PartId) (tid : Nat) (resv : Option Nat) : State :=
  match resv with
  | none => s
  | some line =>
    let s := s.modPart p (fun q => { q with lrwFull := q.lrwFull.filter (fun w => w.tid != tid) })
    match kget (s.part p).resv line with
    | some (h :: rest) =>
      if h.tid = tid then releaseResv s p line
      else retryLrw (s.modPart p (fun q => { q with resv := kput q.resv line (h :: rest.filter (fun w => w.tid != tid)) })) p line
    | _ => s

/-- The line that a waiter's thread asks for. -/
def waiterLine (s : State) (w : Waiter) : Option Nat := (waiterThread s w).bind (fun t => t.resv)

/-- An LRW that found its slice's tables full joins its line's queue when they have room now. -/
def joinQueue (p : PartId) (s : State) (w : Waiter) : State :=
  match waiterLine s w with
  | some line =>
    if resvRoom (s.part p) line then
      let l := (kget (s.part p).resv line).getD []
      let s := s.modPart p (fun q => { q with
        lrwFull := q.lrwFull.filter (fun x => x.tid != w.tid), resv := kput q.resv line (l ++ [w]) })
      if l.isEmpty then grantNext p line [w] s else s
    else s
  | none => s.modPart p (fun q => { q with lrwFull := q.lrwFull.filter (fun x => x.tid != w.tid) })

/-- LRW_RETRY: the slice tries the LRWs that found its tables full, in order (R162). -/
def execLrwRetry (p : PartId) (sl : SliceId) (s : State) : Out :=
  .next (((s.part p).lrwFull.filter (fun w => (waiterLine s w).all (fun line => homeSlice line == sl))).foldl (joinQueue p) s)

/-! ## Register deliveries (R85, R159, R320) -/

/-- A delivery written into its register, or the notice of a killed run taken (R85, R159). DESIGN CHOICE (log 82). -/
def applyDelivery (s : State) (r : TRef) (m : Delivery) : State :=
  if m.failed then s.modThread r (fun t => { t with delegFailed := t.delegFailed ++ [m.addr], awaiting := t.awaiting.erase m.reg })
  else
    let s := if s.watched r.part r.core then logItem s r 0 (.delivered m.reg m.val) else s
    s.modThread r (fun t => { t with
      regs := t.regs.write m.reg m.val, awaiting := t.awaiting.erase m.reg, arrivedIn := s.cycle,
      arrived := (if t.arrivedIn = s.cycle then t.arrived else []) ++ [(m.reg, m.val)] })

/-- Entries of a core's inbox, those kept for switched-out threads included (R320). DEDUCED (log 73). -/
def inboxCount (q : Partition) (c : CoreId) : Nat :=
  (q.core c).w.inbox.length + (q.worlds.foldl (fun n e => n + if e.2.out then (e.2.kept.filter (fun m => m.dst.core == c)).length else 0) 0)

/-- A delivery arrives (R85, R320): applied, or placed in the inbox for a thread in its handler or switched out, or refused by a full
inbox and sent again; for a thread that has ended it is dropped (R154). The notice that a delegated run was killed (R159) goes the same
way. DESIGN CHOICE (log 82). -/
def deliver (s : State) (m : Delivery) : State :=
  let p := m.dst.part
  let q := s.part p
  match s.byTid p m.tid with
  | some (r, t) =>
    if t.active then
      if inboxCount q r.core < 16 then s.modCoreW p r.core (fun w => { w with inbox := w.inbox ++ [m] })
      else s.after 256 (.deliveryRetry m)
    else applyDelivery s r m
  | none =>
    match q.worlds.find? (fun e => e.2.out && (worldTids e.2.cores).contains m.tid) with
    | some (k, _) =>
      if inboxCount q m.dst.core < 16 then
        s.modPart p (fun q => { q with
          worlds := kmapVals (fun i w => if i = k then { w with kept := w.kept ++ [m] } else w) q.worlds })
      else s.after 256 (.deliveryRetry m)
    | none => s

/-- REGISTER_DELIVERY (R85). -/
def execRegisterDelivery (m : Delivery) (s : State) : Out := .next (deliver s m)
/-- DELIVERY_RETRY: a delivery refused by a full inbox is sent again (R320). -/
def execDeliveryRetry (m : Delivery) (s : State) : Out := .next (deliver s m)

/-- A delivery leaves for its requester (R159): it arrives before the turns of a later cycle, so that the cycle in which it fills its
register counts as one in which the bundle may issue (R14, R21). -/
def sendDelivery (s : State) (modid : BitVec 16) (m : Delivery) : State :=
  if modid = s.modid then s.after 1 (.registerDelivery m) else { s with portOut := s.portOut ++ [.delivery modid m] }

/-- What the end of a server run owes to a DLG's requester (R159). -/
def serverReply (s : State) (t : Thread) (failed : Bool) : State :=
  match t.serves with
  | some m =>
    match m.reply with
    | some d =>
      sendDelivery s m.srcMod
        { dst := m.src, tid := m.srcTid, reg := d, val := t.regs.g[(0 : Reg)], failed := failed, addr := m.y }
    | none => s
  | none => s

/-! ## Accumulator slots of a thread (R278) -/

def accOf (w : ClusterWorld) (i : Nat) : AccSlot := (kget w.acc i).getD AccSlot.reset
def State.acc (s : State) (p : PartId) (k : ClusterId) (i : Nat) : AccSlot := accOf (s.cluster p k).w i
def State.modAcc (s : State) (p : PartId) (k : ClusterId) (i : Nat) (f : AccSlot → AccSlot) : State :=
  s.modClusterW p k (fun w => { w with acc := kput w.acc i (f (accOf w i)) })

/-- The slots of a core that a condition selects become orphaned (R278). -/
def orphanSlots (s : State) (p : PartId) (c : CoreId) (sel : AccSlot → Bool) : State :=
  match clusterOf c with
  | none => s
  | some k =>
    [2 * (c.val % 8), 2 * (c.val % 8) + 1].foldl (fun s i =>
      let a := s.acc p k i
      if a.tagged && sel a then s.modAcc p k i (fun a => { a with orphaned := true }) else s) s

/-- A change to every slot of a cluster that a thread has tagged. -/
def Cluster.modTagged (k : Cluster) (tid : Nat) (f : AccSlot → AccSlot) : Cluster :=
  { k with w := { k.w with acc := kmapVals (fun _ (a : AccSlot) => if a.tagged && a.tid == tid then f a else a) k.w.acc } }

/-- A change to every slot of a partition that a thread has tagged (R278). DEDUCED (log 43). -/
def modTagged (s : State) (p : PartId) (tid : Nat) (f : AccSlot → AccSlot) : State :=
  s.modPart p (fun q => { q with clusters := kmapVals (fun _ (k : Cluster) => k.modTagged tid f) q.clusters })

/-- A thread retires by EXIT: its tags go with the last job on each slot (R278). DEDUCED (log 43). -/
def exitTags (s : State) (p : PartId) (tid : Nat) : State :=
  modTagged s p tid (fun a => if a.orphaned then a else if a.pend = 0 then { a with tagged := false } else { a with exited := true })

/-! ## Kills and scrubs (R314) -/

/-- The streams of a thread end; its copies go on without them (R270, R282). -/
def endStreams (s : State) (p : PartId) (c : CoreId) (tid : Nat) : State :=
  s.modCoreW p c (fun w => { w with copyQ := w.copyQ.map (fun j => if j.tid = tid then { j with stream := none } else j) })

/-- An ADDM that is queued, or waits at its holder for SGNT or PACK, is not made (R228). -/
def dropAddms (w : CoreWorld) (tid : Nat) : CoreWorld :=
  { w with steepQ := w.steepQ.filter (fun a => a.tid != tid || a.phase == 3) }

/-- The ADDMs of a killed thread leave its core's steep queue; where the one that waited at its holder was the thread's, the next one's turn comes
(R220, R228). -/
def dropThreadAddms (s : State) (p : PartId) (c : CoreId) (tid : Nat) : State :=
  let stuck := ((s.core p c).w.steepQ.head?).any (fun a => a.tid == tid && (a.phase == 1 || a.phase == 2))
  let s := s.modCoreW p c (fun w => dropAddms w tid)
  if stuck && !(s.core p c).w.steepQ.isEmpty then s.push (.addmPerform p c) else s

/-- Waiters of barrier words without a thread; its arrival stays counted (R161). -/
def leaveBars (s : State) (p : PartId) (tid : Nat) : State :=
  s.modPart p (fun q => { q with
    bars := (kmapVals (fun _ (l : List Waiter) => l.filter (fun w => w.tid != tid)) q.bars).filter (fun e => !e.2.isEmpty) })

/-- Steps due for a thread alone. -/
def forThread (r : TRef) (i : Instr) : Bool :=
  match i with
  | .memoryReply x _ | .migration x | .migrationArrival x | .lognWatchdog x => x == r
  | _ => false

/-- A tagged slot of a killed thread is orphaned; on a failed core, only at the last completion of its jobs (R278, R282). -/
def orphanKilled (failed : Bool) (a : AccSlot) : AccSlot := if failed && a.pend != 0 then a else { a with orphaned := true }

/-- A thread stops at once, without a commit; its descriptor set is released, and its slot is scrubbed (R129, R314). -/
def killHeld (s : State) (r : TRef) (t : Thread) : State :=
  let p := r.part
  let s := if (s.core p r.core).c.failed then s else logMark s r 6 none
  let s := leaveBars (leaveResv (feForget s p t.tid) p t.tid t.resv) p t.tid
  let s := dropThreadAddms ((endStreams s p r.core t.tid).modCoreW p r.core (fun w =>
    { w with inbox := w.inbox.filter (fun m => m.tid != t.tid) })) p r.core t.tid
  let s := modTagged s p t.tid (orphanKilled (s.core p r.core).c.failed)
  let s := serverReply s t true
  let s : State := { s with
    events := s.events.filter (fun i => !forThread r i), timers := s.timers.filter (fun e => !forThread r e.2) }
  releaseDset (recordEnded ((s.setSlot r (.scrub t.tid)).after 16 (.scrubComplete r)) p t.launch) p t.dset

/-- A thread of the running world killed, in its slot or on its way to one (R314). -/
def killThread (s : State) (r : TRef) : State :=
  match s.slot r with
  | some (.thread t) | some (.reserved t) => killHeld s r t
  | _ => s

/-- Every living thread of the running world that a condition selects, those under way and in landing queues included. -/
def State.population (s : State) (p : PartId) (sel : Thread → Bool) : List TRef :=
  (s.part p).coreIds.flatMap (fun c =>
    (s.core p c).w.slots.filterMap (fun e =>
      if h : e.1 < 16 then
        match e.2 with
        | .thread t | .reserved t => if sel t then some ⟨p, c, ⟨e.1, h⟩⟩ else none
        | .scrub _ | .freed => none
      else none))

/-- The threads of a core's landing queue that a condition selects end at once: they hold no slot, and the MARK of their kill names slot 0
(R314). DESIGN CHOICE (log 35). -/
def killLanding (s : State) (p : PartId) (c : CoreId) (sel : Thread → Bool) : State :=
  let gone := (s.core p c).w.landing.filter sel
  let s := s.modCoreW p c (fun w => { w with landing := w.landing.filter (fun t => !sel t) })
  gone.foldl (fun s t =>
    let s := if (s.core p c).c.failed then s else logMark s ⟨p, c, 0⟩ 6 none
    releaseDset (freedTid (recordEnded s p t.launch) p t.tid) p t.dset) s

/-- Threads killed that a condition selects. -/
def killWhere (s : State) (p : PartId) (sel : Thread → Bool) : State :=
  let s := (s.part p).coreIds.foldl (fun s c => killLanding s p c sel) s
  (s.population p sel).foldl killThread s

/-- SCRUB_COMPLETE: the scrub ends, and slot and TID are free (R314). -/
def execScrubComplete (r : TRef) (s : State) : Out :=
  match s.slot r with
  | some (.scrub tid) => .next (freeSlot (freedTid s r.part tid) r)
  | _ => .next s

/-! ## Server runs (R138, R158) -/

/-- The MSG channel towards a core is off (R138): its server queue or its update queue is full. -/
def msgOff (w : CoreWorld) : Bool := decide (32 ≤ w.serverQ.length) || decide (64 ≤ w.updateQ.length)

/-- A message on MSG waits in the fabric (R138, R366): the channel of its core is off, or one of its flow waits there. DEDUCED (log 77). -/
def messageWaits (s : State) (p : PartId) (c : CoreId) (i : Instr) : Bool := msgOff (s.core p c).w || heldBehind s i

/-- A request enters the core's server queue, in arrival order (R138). -/
def messageLands (s : State) (p : PartId) (c : CoreId) (m : ActiveMsg) : State :=
  (s.modCoreW p c (fun w => { w with serverQ := w.serverQ ++ [m] })).push (.serverRunStart p c)

/-- Nothing from outside reaches the partition: out of service, in reset, under a wipe, or in ERROR (R340, R399, R403, R429). -/
def shut (q : Partition) : Bool := !q.inService || q.rst != .none || q.wipe.isSome || q.tdisp == .error

/-- A packet from another module authenticates: the partition has a key for its sender's (R404). DESIGN CHOICE (log 1). -/
def authentic (s : State) (p : PartId) (modid : BitVec 16) (src : PartId) : Bool := modid == s.modid || keyed (s.part p) modid src

/-- A request for a server run refused (R340), or without a way to its destination (R372, R404): a DLG's requester gets the notice that no run of it ends (R159). DEDUCED (log 83). -/
def refuseActive (s : State) (m : ActiveMsg) : State :=
  match m.reply with
  | some d => sendDelivery s m.srcMod { dst := m.src, tid := m.srcTid, reg := d, val := 0, failed := true, addr := m.y }
  | none => s

/-- ACTIVE_MESSAGE_ARRIVAL: a request reaches a core (R138); one from another partition may be refused (R340) or dropped (R404), and is an
input that a snapshot may hold or record (R386). DEDUCED (log 77). -/
def execActiveMessageArrival (p : PartId) (c : CoreId) (m : ActiveMsg) (s : State) : Out :=
  if !fromPeer s m.srcMod m.src.part p then
    .next (if messageWaits s p c (.activeMessageArrival p c m) then s.holdBack (.activeMessageArrival p c m) else messageLands s p c m)
  else if shut (s.part p) then .next (refuseActive s m)
  else if !authentic s p m.srcMod m.src.part then .next s
  else if inputHeld (s.part p) (peerKey m.srcMod m.src.part) .msg none then .next (holdInput s p (.activeMessageArrival p c m))
  else if messageWaits s p c (.activeMessageArrival p c m) then .next (s.holdBack (.activeMessageArrival p c m))
  else
    match takeInput s p (peerKey m.srcMod m.src.part) .msg none (.activeMessageArrival p c m) with
    | none => .next (holdInput s p (.activeMessageArrival p c m))
    | some s => .next (messageLands s p c m)

/-- SERVER_RUN_START: the head request becomes the server slot's thread, with a TID of its own (R136, R158); where the queue was full, the
updates bound for the core are tried again (R138, R166). -/
def execServerRunStart (p : PartId) (c : CoreId) (s : State) : Out :=
  let w := (s.core p c).w
  match w.serverQ, kget w.slots 1 with
  | m :: rest, none =>
    if (s.part p).gang != .idle then .next s
    else
      let s := if msgOff w then askUpdate s p c else s
      let x := allocTid (s.modCoreW p c (fun w => { w with serverQ := rest })) p
      let s := x.2
      let t := Thread.start 1 m.pc (Regs.fresh m.y m.g1 m.g2 m.g3) x.1 m.ctx m.corr false (s.watched p c) (s.cycle + 1)
      .next (placeThread s ⟨p, c, 1⟩ { t with shownTid := m.srcTid, serves := some m } (s.cycle + 1))
  | _, _ => .next s

/-! ## Migration (R141, R142) -/

/-- The exclusions of R141 that no target changes. -/
def pinnedHere (s : State) (r : TRef) (t : Thread) : Bool :=
  t.pin || t.vdirty || t.resv.isSome || s.watched r.part r.core || !t.awaiting.isEmpty || !t.jobs.isEmpty ||
  t.streams.toList.any (fun x => x.bound) || t.active || decide (r.slot.val < 2)

/-- The core is already beside slice h: its bank core or, for a move by the counters or MIGR, a core of its clusters (R141). -/
def besideHome (c : CoreId) (h : SliceId) (amo : Bool) : Bool := c == bankCore h || (!amo && c.val / 16 == h.val && decide (c.val < 256))

/-- The core of clusters 2h and 2h + 1 with the most free general slots, ties to the lowest number; none without one (R141). -/
def roomiest (s : State) (p : PartId) (h : SliceId) : Option CoreId :=
  (allCores.filter (fun c => c.val / 16 == h.val && decide (c.val < 256) && !(s.core p c).c.failed)).foldl (fun best c =>
    match best with
    | none => if freeCount (s.core p c).w = 0 then none else some c
    | some b => if freeCount (s.core p b).w < freeCount (s.core p c).w then some c else best) none

/-- The core a migration goes to (R141, R165). -/
def migrationTarget (s : State) (p : PartId) (h : SliceId) (amo : Bool) : Option CoreId :=
  if freeCount (s.core p (bankCore h)).w ≠ 0 ∧ !(s.core p (bankCore h)).c.failed then some (bankCore h)
  else if amo then none else roomiest s p h

/-- The thread's earlier REDs and ADDMs, which a full fence waits for (R242). -/
def updatesPending (s : State) (p : PartId) (tid : Nat) : Bool :=
  (s.part p).coreIds.any (fun c =>
    let w := (s.core p c).w
    w.outQ.any (fun x => x.tid == tid) || w.updateQ.any (fun x => x.tid == tid) || w.steepQ.any (fun x => x.tid == tid))

/-- The context that the message carries (R142): exception registers, vectors and counters start empty. -/
def packContext (t : Thread) : Thread :=
  { t with
    homes := [], accesses := 0, migrate := none, epc := 0, ecause := 0, eaddr := 0, v := Vector.replicate 8 0,
    m := Vector.replicate 4 0, streams := Vector.replicate 4 Stream.unbound, fetchBuf := [], logAddr := 0, jobs := [] }

/-- MIGRATION: a requested migration leaves its core, is dropped under an exclusion of R141, or waits until every access of the thread
is performed (R142). -/
def execMigration (r : TRef) (s : State) : Out :=
  match s.thread r with
  | none => .next s
  | some t =>
    match t.migrate with
    | none => .next s
    | some x =>
      let h : SliceId := Fin.ofNat 16 x
      let amo := decide (16 ≤ x)
      let stay (t : Thread) : Out := .next (s.setThread r { t with migrate := none })
      if pinnedHere s r t || besideHome r.core h amo then stay t
      else if updatesPending s r.part t.tid then .next (s.after 1 (.migration r))
      else
        match migrationTarget s r.part h amo with
        | none =>
          let half := field (s.part r.part).r.migth 0 8 / 2
          stay (if amo then t else { t with homes := t.homes.map (fun e => if e.1 = h.val then (e.1, half) else e) })
        | some c =>
          match freeGeneral (s.core r.part c).w with
          | none => stay t
          | some sl =>
            let r' : TRef := ⟨r.part, c, sl⟩
            let s := ((s.setSlot r' (.reserved (packContext t))).count r.part r.core 8 (some r.slot) 1).traceRec r 6 t.pc t.corr
            .next ((freeSlot s r).after 40 (.migrationArrival r'))

/-- MIGRATION_ARRIVAL: the thread enters the slot kept for it, eligible from the eighth cycle (R142, R143). -/
def execMigrationArrival (r : TRef) (s : State) : Out :=
  match s.slot r with
  | some (.reserved t) =>
    if messageWaits s r.part r.core (.migrationArrival r) then .next (s.holdBack (.migrationArrival r))
    else .next ((placeThread s r t (s.cycle + 8)).traceRec r 7 t.pc t.corr)
  | _ => .next s

end Sys2Proof.Machine
end

