-- ==== Sys2Proof/Machine/ThreadWords.lean ====
section
/-! DEFINITION. Creating and retiring threads, messages, remote work, barriers, reservations, AMO and RED (09 R153 to R167), and the
steps that messages and remote updates take. -/
namespace Sys2Proof.Machine

/-! ## Fences (R248) -/

/-- The condition of FENCE.S, as every word that waits on it tests it (R248): reads are bound and writes performed when they reply; what
can be outstanding is the thread's REDs and ADDMs. DESIGN CHOICE (log 14). DESIGN CHOICE (log 27). -/
def fenceMet (s : State) (r : TRef) (t : Thread) (sc : Scope) : Bool :=
  match sc with
  | .thr => true
  | .core | .clu | .part | .mod | .sys => !updatesPending s r.part t.tid

/-- The word goes on once the fence condition holds. DESIGN CHOICE (log 14). -/
def fenced (s : State) (r : TRef) (t : Thread) (sc : Scope) (go : Unit → Res) : Res :=
  if fenceMet s r t sc then go () else .wait (.fence sc) s

/-! ## Creating and retiring (R153, R154) -/

/-- An entry or routine address (R153): canonical, bits 1:0 zero. -/
def entryOk (x : Word) : Bool := canonical x && x.toNat % 4 == 0

/-- The new thread of a SPAWN placed, or queued to land (R153). DEDUCED (log 33). -/
def spawnAt (s : State) (r : TRef) (t : Thread) (c : CoreId) (x : Word) : Nat × State :=
  let p := r.part
  let n := allocTid s p
  let new := Thread.start 2 x (Regs.fresh t.src.g[(0 : Reg)] t.src.g[(1 : Reg)] t.src.g[(2 : Reg)] (word t.tid)) n.1 t.ctx
    t.corr t.pin (s.watched p c) (s.cycle + 1)
  (n.1, match freeGeneral (s.core p c).w with
    | some sl => placeThread n.2 ⟨p, c, sl⟩ new (s.cycle + 1)
    | none => n.2.modCoreW p c (fun w => { w with landing := w.landing ++ [new] }))

/-- SPAWN (R153): a release for the new thread (R238). DEDUCED (log 33). -/
def execSpawn (d : Reg) (a b : Src) (s : State) : Out :=
  runWord [a, b] (fun r t s =>
    let x := t.rd a
    if !entryOk x then .trap .address (some x) s
    else
      match s.coreNum r.part (t.rd b) with
      | none => .trap .target (some (t.rd b)) s
      | some c => fenced s r t .part (fun _ =>
        let w := (s.core r.part c).w
        if (freeGeneral w).isNone && decide (16 ≤ w.landing.length) then
          .done { Commit.none with regs := [(d, 0xFFFFFFFFFFFFFFFF)], log := [.atom 17 d 0xFFFFFFFFFFFFFFFF] } s
        else
          let n := spawnAt s r t c x
          .done { Commit.none with regs := [(d, word n.1)], log := [.atom 17 d (word n.1)] } n.2)) s

/-- What EXIT waits for (R154, R257): every RED and ADDM of the thread performed. -/
def exitReady (s : State) (r : TRef) (t : Thread) : Bool := !updatesPending s r.part t.tid

/-- A thread retires (R154, R168): its reservation passes on, its streams end, a server run replies, and its slot is free. -/
def retire (s : State) (r : TRef) (t : Thread) : State :=
  let p := r.part
  let s := exitTags (endStreams (leaveResv s p t.tid t.resv) p r.core t.tid) p t.tid
  let s := s.modCoreW p r.core (fun w => { w with inbox := w.inbox.filter (fun m => m.tid != t.tid) })
  let s := serverReply s t false
  releaseDset (recordEnded (leaveSlot (freedTid s p t.tid) r) p t.launch) p t.dset

/-- EXIT (R154, R334): the bundle commits, and the thread retires. The reply of a server run is g0 as the whole bundle leaves it. DESIGN CHOICE (log 85). -/
def execExit (s : State) : Out :=
  runWord [] (fun r t s =>
    if !exitReady s r t then .wait .queue s
    else atCommit s (fun _ =>
      match passPoint s r t 1 with
      | .error x => x
      | .ok s =>
        let held := match s.cur.phase with
          | .held => s.cur.hold
          | .first | .second => Commit.none
        .ended (retire (logItems s r t.pc held.log) r { t with regs := commitRegs t.regs held }))) s

/-! ## Messages (R155 to R157) -/

/-- Key of entry i of a core's receive ring (R155). -/
def rxKey (p : PartId) (c : CoreId) (i : BitVec 9) : Nat := keyTcm p c (0x1F000 + 8 * i.toNat)

/-- The ring is full (R155). -/
def rxFull (w : CoreWorld) : Bool := w.rxTail + 1 == w.rxHead

/-- A message written into the ring: the entry, then TAIL, then the sender's reply (R156). -/
def rxWrite (s : State) (p : PartId) (c : CoreId) (m : SendMsg) : State :=
  let w := (s.core p c).w
  let s := putBytes s p (rxKey p c w.rxTail) 8 m.val
  replyThread (s.modCoreW p c (fun w => { w with rxTail := w.rxTail + 1 })) m.src m.srcTid none

/-- A message reaches its target core (R138, R156): the ring, else the buffer of four, else it is refused. -/
def sendLands (s : State) (p : PartId) (c : CoreId) (m : SendMsg) (again : Instr) : State :=
  let w := (s.core p c).w
  if messageWaits s p c again then s.holdBack again
  else if !rxFull w && w.rxBuf.isEmpty then rxWrite s p c m
  else if w.rxBuf.length < 4 then s.modCoreW p c (fun w => { w with rxBuf := w.rxBuf ++ [m] })
  else s.after 256 (.sendRetry p c m)

/-- SEND_ARRIVAL (R156). -/
def execSendArrival (p : PartId) (c : CoreId) (m : SendMsg) (s : State) : Out := .next (sendLands s p c m (.sendArrival p c m))
/-- SEND_RETRY: a refused message is sent again (R156). -/
def execSendRetry (p : PartId) (c : CoreId) (m : SendMsg) (s : State) : Out := .next (sendLands s p c m (.sendRetry p c m))

/-- Buffered messages enter the ring, in order, while it has room (R156). -/
def drainRing (p : PartId) (c : CoreId) : List SendMsg → State → State
  | [], s => s
  | m :: l, s =>
    if rxFull (s.core p c).w then s else drainRing p c l (rxWrite (s.modCoreW p c (fun w => { w with rxBuf := w.rxBuf.drop 1 })) p c m)

/-- RING_BUFFER_DRAIN: buffered messages enter the ring when it has room (R156). -/
def execRingBufferDrain (p : PartId) (c : CoreId) (s : State) : Out := .next (drainRing p c (s.core p c).w.rxBuf s)

/-- A word that another party completes and that writes no register. -/
def awaitParty (log : List LogItem) (addr : Word) (s : State) : Res :=
  .pend { commit := { Commit.none with log := log }, dest := none, log := .nothing, ty := none, addr := addr, size := 0, words := [] } s

/-- SEND (R156): out of the rotation until the entry is written. -/
def execSend (a b : Src) (s : State) : Out :=
  runWord [a, b] (fun r t s =>
    match s.coreNum r.part (t.rd a) with
    | none => .trap .target (some (t.rd a)) s
    | some c =>
      awaitParty [.atom 13 0 (t.rd b)] 0 (s.push (.sendArrival r.part c { src := r, srcTid := t.tid, val := t.rd b }))) s

/-- Another thread of the core waits in RECV since before this one (R157), a parked one too: its bundle has issued (R350). DEDUCED (log 34). -/
def recvBehind (s : State) (r : TRef) (since : Nat) : Bool :=
  (slotThreads r.part r.core (s.core r.part r.core).w.slots).any (fun e =>
    e.1 != r && e.2.dropped.isNone && (match e.2.wait with
      | some (.recv x) => decide (x < since)
      | _ => false))

/-- RECV (R157). DEDUCED (log 34). -/
def execRecv (d : Reg) (s : State) : Out :=
  runWord [] (fun r t s =>
    let w := (s.core r.part r.core).w
    let since := match t.wait with
      | some (.recv x) => x
      | _ => s.cycle
    if w.rxHead == w.rxTail || recvBehind s r since || (s.mtsWas r.part r.core .rxq).isSome then .wait (.recv since) s
    else
      let key := rxKey r.part r.core w.rxHead
      if s.wordPoisoned key then .trap .poison (some (0xFF0000000001F000 + 8 * w.rxHead.setWidth 64)) s
      else
        let v := s.readMem key 8
        let s := s.modCoreW r.part r.core (fun w => { w with rxHead := w.rxHead + 1 })
        let s := if w.rxBuf.isEmpty then s else s.push (.ringBufferDrain r.part r.core)
        .done { Commit.none with regs := [(d, v)], log := [.atom 14 d v], lat := 8 } s) s

/-! ## Remote work (R158, R159) -/

/-- The owner of an address (R158). -/
inductive Owner where
  | core (c : CoreId)
  /-- the bank core beside the home of an address of another partition's exported span -/
  | remote (modid : BitVec 16) (p : PartId)
  | none
  | badWindow

def firstService (s : State) (p : PartId) (l : List CoreId) : Option CoreId := l.find? (fun c => !(s.core p c).c.failed)

/-- The owner of y for a thread at r (R158). Of a cacheable address it is the bank core of the home slice even where that core is out of
service: the rule names another owner for window addresses alone. A window address whose possible owners are all out of service has none. DESIGN CHOICE (log 82). -/
def ownerOf (s : State) (r : TRef) (y : Word) : Owner :=
  if inRemoteRegion y then .remote (y.extractLsb' 36 16) (y.extractLsb' 32 4).toFin
  else if inWindowRegion y then
    match windowKey r.part r.core y with
    | none => .badWindow
    | some _ =>
      let o := y.toNat - 0xFF00000000000000
      if o < 2 ^ 17 then .core r.core
      else if o < 0x800000 then
        match (clusterOf r.core).bind (fun k => firstService s r.part (clusterCores k)) with
        | some c => .core c
        | none => .none
      else
        match firstService s r.part ((List.range 16).filterMap (fun i => if h : 256 + i < 272 then some ⟨256 + i, h⟩ else none)) with
        | some c => .core c
        | none => .none
  else .core (bankCore (homeSlice (lineOf y)))

/-- The request of AMSG and DLG (R158, R159). -/
def activeMsg (s : State) (r : TRef) (t : Thread) (x y : Word) (reply : Option Reg) : ActiveMsg :=
  { srcMod := s.modid, src := r, srcTid := t.tid, reply := reply, pc := x, y := y, g1 := t.src.g[(1 : Reg)], g2 := t.src.g[(2 : Reg)],
    g3 := t.src.g[(3 : Reg)], corr := t.corr, ctx := t.ctx }

/-- The core of another partition of the module that owns a remote address: the bank core beside its home there (R368). -/
def remoteOwner (s : State) (p : PartId) (y : Word) : CoreId :=
  bankCore (homeSlice (lineOf (ext57 (field (s.part p).r.xport 32 25 * 2 ^ 32 + y.toNat % 2 ^ 32))))

/-- AMSG and DLG share their checks and their way to the owner (R158, R159, R334); they are releases for the run (R238), so the thread's
earlier REDs and ADDMs come first. Without an owner in service the word takes the target fault. DESIGN CHOICE (log 82). Without a way to another
module's partition a request is refused (R372, R404). DEDUCED (log 83). -/
def remoteRun (r : TRef) (t : Thread) (x y : Word) (reply : Option Reg) (c : Commit) (s : State) : Res :=
  if !entryOk x then .trap .address (some x) s
  else if !canonical y then .trap .address (some y) s
  else
    let m := activeMsg s r t x y reply
    let note (s : State) : State := match reply with
      | some d => s.modThread r (fun t => { t with awaiting := t.awaiting ++ [d] })
      | none => s
    let sends (s : State) (go : Unit → Res) : Res := if reply.isSome then atCommit s go else go ()
    match ownerOf s r y with
    | .badWindow => .trap .window (some y) s
    | .none => .trap .target none s
    | .core o =>
      if t.serves.isSome && o == r.core then .trap .target none s
      else fenced s r t .part (fun _ => sends s (fun _ =>
        if reply.isNone && messageWaits s r.part o (.activeMessageArrival r.part o m) then .wait .inject s
        else .done c (note (s.push (.activeMessageArrival r.part o m)))))
    | .remote m' p => fenced s r t .sys (fun _ => sends s (fun _ =>
      match passPoint s r t 3 with
      | .error e => e
      | .ok s =>
        if m' = s.modid then
          let o := remoteOwner s p y
          if t.serves.isSome && o == r.core && p == r.part then .trap .target none s
          else .done c (note (s.push (.activeMessageArrival p o m)))
        else if linked (s.part r.part) m' p then .done c (note { s with portOut := s.portOut ++ [.active m' p m] })
        else .done c (note (refuseActive s m))))

/-- AMSG (R158). -/
def execAmsg (a b : Src) (s : State) : Out :=
  runWord [a, b] (fun r t s =>
    remoteRun r t (t.rd a) (t.rd b) none { Commit.none with log := [.addr (t.rd b), .atom 15 0 (t.rd a)] } s) s

/-- DLG (R159): gd is emptied at once, and filled by the run's reply. -/
def execDlg (d : Reg) (a b : Src) (s : State) : Out :=
  runWord [a, b] (fun r t s =>
    remoteRun r t (t.rd a) (t.rd b) (some d)
      { Commit.none with empties := [d], log := [.addr (t.rd b), .atom 16 d (t.rd a)] } s) s

/-- MIGR (R160): a full fence, then the migration towards the home of ga. -/
def execMigr (a : Src) (s : State) : Out :=
  runWord [a] (fun r t s =>
    let x := t.rd a
    if !canonical x then .trap .address (some x) s
    else fenced s r t .sys (fun _ =>
      if inWindowRegion x || inRemoteRegion x then .done Commit.none s
      else .done Commit.none (s.modThread r (fun t => { t with migrate := some (homeSlice (lineOf x)).val })))) s

/-! ## Barriers (R161) -/

/-- BAR (R161): fenced at its scope, then the arrival at the word's home. DEDUCED (log 18). -/
def execBar (sc : Scope) (a : Src) (s : State) : Out :=
  runWord [a] (fun r t s =>
    let ea := t.rd a
    match checkAccess s r t needRW ea 8 false with
    | .error x => x
    | .ok (pl, s) =>
      fenced s r t sc (fun _ =>
        match homePlace s r t needRW true true ea 8 pl with
        | .error x => x
        | .ok (at_, s) =>
          let b := s.readMem at_.key 8
          let gen := field b 32 32
          let need := field b 16 16
          let have_ := field b 0 16
          let log := [LogItem.addr ea, .atom 12 0 0]
          if need = 0 ∨ need ≤ have_ then .trap .barrier none s
          else if have_ + 1 = need then
            let s := clearStamp (putBytes s r.part at_.key 8 (word ((gen + 1) % 2 ^ 32 * 2 ^ 32 + need * 2 ^ 16))) r ea
            let ws := (kget (s.part r.part).bars at_.key).getD []
            let s := s.modPart r.part (fun q => { q with bars := kdel q.bars at_.key })
            .done { Commit.none with log := log, lat := at_.lat } (ws.foldl (fun s w => replyThread s w.who w.tid none) s)
          else
            let s := clearStamp (putBytes s r.part at_.key 8 (word (gen * 2 ^ 32 + need * 2 ^ 16 + (have_ + 1)))) r ea
            let s := s.modPart r.part (fun q => { q with
              bars := kput q.bars at_.key ((kget q.bars at_.key).getD [] ++ [{ who := r, tid := t.tid, key := at_.key }]) })
            awaitParty log ea (s.modThread r (fun t => { t with barGen := some (at_.key, gen) })))) s

/-! ## Queued reservations (R162, R163) -/

/-- The checks that LRW, SCH and RLS share (R118, R162): a reservation stands at an L2 slice only. DEDUCED (log 18). -/
def resvAccess (s : State) (r : TRef) (t : Thread) (ea : Word) : Except Res (Leaf × State) :=
  match checkAccess s r t needRW ea 8 false with
  | .error x => .error x
  | .ok (.mem l, s) => .ok (l, s)
  | .ok (.window _ _, s) | .ok (.remote, s) =>.error (.trap .window (some ea) s)

/-- The thread heads the queue of the line of an address: it is the line's holder (R162). -/
def holdsResv (s : State) (r : TRef) (t : Thread) (ea : Word) : Bool :=
  t.resv == some (lineOf ea) &&
  (match kget (s.part r.part).resv (lineOf ea) with
   | some (h :: _) => h.tid == t.tid
   | _ => false)

/-- LRW (R162): joins the queue of the line; its reply is the word, read when it heads the queue. -/
def execLrw (d : Reg) (a : Src) (s : State) : Out :=
  runWord [a] (fun r t s =>
    let ea := t.rd a
    match resvAccess s r t ea with
    | .error x => x
    | .ok (l, s) =>
      if t.resv.isSome then .trap .reservation none s
      else
        match homePlace s r t needRW true false ea 8 (.mem l) with
        | .error x => x
        | .ok (at_, s) =>
          let line := lineOf ea
          let w : Waiter := { who := r, tid := t.tid, key := at_.key }
          let s := s.modThread r (fun t => { t with resv := some line })
          let q : Pend := { commit := { Commit.none with log := [.addr ea] }, dest := some d, log := .atom 9, ty := some .s64, addr := ea,
                            big := l.big, size := 0, words := [] }
          if !resvRoom (s.part r.part) line then .pend q (s.modPart r.part (fun q => { q with lrwFull := q.lrwFull ++ [w] }))
          else
            let ws := (kget (s.part r.part).resv line).getD []
            let s := s.modPart r.part (fun q => { q with resv := kput q.resv line (ws ++ [w]) })
            if ws.isEmpty then
              let v := s.readMem at_.key 8
              .done { Commit.none with regs := [(d, v)], log := .addr ea :: stampItems at_ ++ [.atom 9 d v], lat := at_.lat } s
            else .pend q s) s

/-- SCH (R162): the store at the word's home, then the reservation passes on. -/
def execSch (a b : Src) (s : State) : Out :=
  runWord [a, b] (fun r t s =>
    let ea := t.rd a
    match resvAccess s r t ea with
    | .error x => x
    | .ok (l, s) =>
      if !holdsResv s r t ea then .trap .reservation none s
      else fenced s r t .part (fun _ =>
        match homePlace s r t needRW false true ea 8 (.mem l) with
        | .error x => x
        | .ok (at_, s) =>
          let s := clearStamp (putBytes s r.part at_.key 8 (t.rd b)) r ea
          let s := releaseResv (s.modThread r (fun t => { t with resv := none })) r.part (lineOf ea)
          .done { Commit.none with log := [.addr ea, .atom 10 0 (t.rd b), .leave (lineOf ea)], lat := at_.lat } s)) s

/-- RLS (R162). -/
def execRls (a : Src) (s : State) : Out :=
  runWord [a] (fun r t s =>
    let ea := t.rd a
    match resvAccess s r t ea with
    | .error x => x
    | .ok (_, s) =>
      if !holdsResv s r t ea then .trap .reservation none s
      else fenced s r t .part (fun _ =>
        let s := s.countHome r (homeSlice (lineOf ea)).val
        let s := releaseResv (s.modThread r (fun t => { t with resv := none })) r.part (lineOf ea)
        .done { Commit.none with log := [.addr ea, .atom 11 0 0], lat := homeLat r.core (lineOf ea) false } s)) s

/-! ## AMO and RED (R164 to R166) -/

/-- The operation of AMO and RED on n-bit values: m the old value, y the operand, c the comparand (R164). -/
def amoValue (op : AmoOp) (n m y c : Nat) : Nat :=
  let sm := (BitVec.ofNat n m).toInt
  let sy := (BitVec.ofNat n y).toInt
  match op with
  | .add => (m + y) % 2 ^ n
  | .and => m &&& y
  | .or => m ||| y
  | .xor => m ^^^ y
  | .min => if sy < sm then y else m
  | .max => if sm < sy then y else m
  | .minz => Nat.min m y
  | .maxz => Nat.max m y
  | .swap => y
  | .cas => if m = c then y else m

/-- The old value as AMO writes it to gd (R164): a 32-bit one is sign-extended for min and max alone. -/
def amoOld (op : AmoOp) (sz : AmoSize) (m : Nat) : Word :=
  match sz, op with
  | .w32, .min | .w32, .max => sextTo 32 m
  | _, _ => word m

/-- The operation performed on the word at a key: no thread's AMO and no RED fires the line monitor. DESIGN CHOICE (log 69). -/
def amoAt (s : State) (key : Nat) (op : AmoOp) (sz : AmoSize) (v c : Word) : Nat × State :=
  let n := amoBytes sz
  let m := memRead s.mem key n
  (m, windowWritten (s.writeMem key n (word (amoValue op (8 * n) m (v.toNat % 2 ^ (8 * n)) (c.toNat % 2 ^ (8 * n))))) key n)

/-- AMO (R164, R165): a full fence, performed at the word's home; the thread then moves to the bank core beside it when it may. Its own move takes
the place of one that the counters have asked for in the same access. DESIGN CHOICE (log 90). -/
def execAmo (op : AmoOp) (sz : AmoSize) (d : Reg) (a b : Src) (s : State) : Out :=
  runWord [a, b] (fun r t s =>
    let ea := t.rd a
    match checkAccess s r t needRW ea (amoBytes sz) true with
    | .error x => x
    | .ok (pl, s) =>
      fenced s r t .sys (fun _ =>
        match pl with
        | .remote =>
          match passPoint s r t 3 with
          | .error x => x
          | .ok s => remoteRead s r t ea (.amo op sz (t.rd b) (t.rdD d)) (some d) none (.atom 5)
        | .mem _ | .window _ _ =>
          match homePlace s r t needRW true true ea (amoBytes sz) pl with
          | .error x => x
          | .ok (at_, s) =>
            let x := amoAt s at_.key op sz (t.rd b) (t.rdD d)
            let v := amoOld op sz x.1
            let s := clearStamp x.2 r ea
            let s := match pl with
              | .mem _ => s.modThread r (fun t => { t with migrate := some (16 + (homeSlice (lineOf ea)).val) })
              | .window _ _ | .remote => s
            .done { Commit.none with
              regs := [(d, v)], log := .addr ea :: stampItems at_ ++ [.atom 5 d v, .leave (lineOf ea)], lat := at_.lat } s)) s

/-- The line that a watched RED or ADDM writes stands at its home, where its record's stamp is left (R335); `none` while no way can be had. -/
def stampLine (s : State) (r : TRef) (line dom : Nat) : Option State :=
  if !s.watched r.part r.core then some s
  else
    match homeLookup s r.part line dom with
    | .ok _ s | .stale s | .fault _ s => some s
    | .full _ => none

/-- RED (R166): sent to the bank core beside the word's home, performed at once by a window's home, where a poisoned word faults (R339), or sent
to another partition. It follows the thread's ADDMs to its line (R236), and counts as an access to its home (R140). -/
def execRed (op : AmoOp) (sz : AmoSize) (a b : Src) (s : State) : Out :=
  runWord [a, b] (fun r t s =>
    let ea := t.rd a
    let log := [LogItem.addr ea, .atom 6 0 (t.rd b), .leave (lineOf ea)]
    if decide (16 ≤ (s.core r.part r.core).w.outQ.length) then .wait .queue s
    else
      match checkAccess s r t needRW ea (amoBytes sz) true with
      | .error x => x
      | .ok (.remote, s) => remoteWrite s r t ea (.red op sz (t.rd b)) [.atom 6 0 (t.rd b)]
      | .ok (.window key lat, s) =>
        match windowRead s r key lat (amoBytes sz) ea with
        | .error x => x
        | .ok (_, s) => .done { Commit.none with log := log } (amoAt s key op sz (t.rd b) 0).2
      | .ok (.mem l, s) =>
        if addmPending s r.part t.tid (lineOf ea) then .wait .queue s
        else
          match holdWrite s r t l with
          | .error x => x
          | .ok s =>
            match stampLine s r (lineOf ea) l.dom with
            | none => .wait .queue s
            | some s =>
              let q : RedReq :=
                { src := r, tid := t.tid, corr := t.corr, ctx := t.ctx, key := keyMain r.part (l.phys (va57 ea)), line := lineOf ea,
                  op := op, sz := sz, v := t.rd b, sent := s.cycle }
              let s := (s.countHome r (homeSlice (lineOf ea)).val).modCoreW r.part r.core (fun w => { w with outQ := w.outQ ++ [q] })
              .done { Commit.none with log := log } (clearStamp (s.push (.remoteUpdate r.part (bankCore (homeSlice q.line)))) r ea)) s

/-- The REDs of a partition's cores that are on their way to a bank core: the core that each waits in, and its cycle of issue, oldest first. -/
def redsBound (s : State) (p : PartId) (c : CoreId) : List (CoreId × RedReq) :=
  (((s.part p).coreIds.flatMap (fun x =>
    ((s.core p x).w.outQ.filter (fun q => bankCore (homeSlice q.line) == c)).map (fun q => (x, q)))).mergeSort
      (fun a b => decide (a.2.sent ≤ b.2.sent)))

/-- The steps REMOTE_UPDATE of a core that stand, one for each RED on its way there (R138). -/
def updatesDue (s : State) (p : PartId) (c : CoreId) : Nat := ((s.events ++ s.waiting).filter (fun i => i == .remoteUpdate p c)).length

/-- The oldest RED on its way to a bank core leaves its core's outbound queue for the update queue (R166). -/
def takeRed (s : State) (p : PartId) (c : CoreId) : State :=
  match redsBound s p c with
  | (x, q) :: _ =>
    (s.modCoreW p x (fun w => { w with outQ := w.outQ.erase q })).modCoreW p c (fun w => { w with updateQ := w.updateQ ++ [q] })
  | [] => s

/-- A remote-update thread performs its operation and retires (R166): a thread id is used up, and a slot for no longer than the step.
A poisoned word takes the update's poison fault: its thread has no handler of its own, so an unhandled record is posted. -/
def performUpdate (s : State) (p : PartId) (c : CoreId) (sl : SlotId) (q : RedReq) : State :=
  let n := allocTid s p
  let s := readHome ((freedTid n.2 p n.1).sramAt p q.key) p q.key q.corr
  if s.linePoisoned q.key then
    postRecord s p { TrapRec.none with
      code := 0x030, cls := 1, ctx := q.ctx, core := c.val, slot := sl.val, tid := n.1, corr := q.corr, addr := lineAddr q.line }
  else
    let s := ((s.revokeAll p q.line).invalidateAll p q.line none).dirtySlice p q.line
    (amoAt s q.key q.op q.sz q.v 0).2

/-- The first update in a bank core's queue runs when a general slot is free (R166); an update of a captured page waits for the copier (R389). -/
def runUpdate (s : State) (p : PartId) (c : CoreId) : State :=
  match (s.core p c).w.updateQ, freeGeneral (s.core p c).w with
  | q :: rest, some sl =>
    match heldPage s p q.key (.step (.remoteUpdate p c)) with
    | some s => s
    | none =>
      let s := heldPassed s p q.key (.step (.remoteUpdate p c))
      let s := performUpdate (s.modCoreW p c (fun w => { w with updateQ := rest })) p c sl q
      if rest.isEmpty then s else askUpdate s p c
  | _, _ => s

/-- REMOTE_UPDATE: a RED reaches its bank core in its place among the core's messages on MSG, and waits with them while the channel is off (R138,
R166); and the next update in the core's queue runs. A step beside those of the REDs on their way runs an update alone. DEDUCED (log 77). -/
def execRemoteUpdate (p : PartId) (c : CoreId) (s : State) : Out :=
  .next (runUpdate
    (if (redsBound s p c).length ≤ updatesDue s p c then s
     else if messageWaits s p c (.remoteUpdate p c) then s.holdBack (.remoteUpdate p c)
     else takeRed s p c) p c)

end Sys2Proof.Machine
end

