-- ==== Sys2Proof/Machine/MemWords.lean ====
section
/-! DEFINITION. The order group, the line group, ADDM and LDB (15 R247 to R260), and the steps of caches, walkers and the steep
protocol (12 R203 to R214, 13 R220 to R229). -/
namespace Sys2Proof.Machine

/-! ## The order group (R247 to R250) -/

/-- FENCE (R248). -/
def execFence (sc : Scope) (s : State) : Out :=
  runWord [] (fun r t s => fenced s r t sc (fun _ => .done (if sc = .thr then Commit.none else Commit.none.late 12) s)) s

/-- POUR (R249): the thread's ADDMs first, then a pour of every line of the core with something withheld, then every PACK. A POUR.thr comes to its
end in a drain, a wider one reissues after it (R322). DESIGN CHOICE (log 26). -/
def execPour (sc : Scope) (s : State) : Out :=
  runWord [] (fun r t s =>
    let wide := sc != .thr
    if t.wait = some (.pours wide) then
      (if coreUnacked s r.part r.core then .wait (.pours wide) s else .done Commit.none s)
    else if !fenceMet s r t .core then .wait (.fence (if wide then .core else .thr)) s
    else
      let s := pourCore s r.part r.core
      if coreUnacked s r.part r.core then .wait (.pours wide) s else .done (Commit.none.late 12) s) s

/-- FBAR (R250): the thread's fetch buffer is emptied. -/
def execFbar (s : State) : Out :=
  runWord [] (fun r _ s => .done Commit.none (s.modThread r (fun t => { t with fetchBuf := [] }))) s

/-! ## The line group (R251 to R256) -/

/-- The page of a line, on which CWB, CINV and IINV need the R or the X right (R251). -/
def lineRight (s : State) (r : TRef) (t : Thread) (x : Word) : Except Res (Leaf × State) :=
  match plbLookup s r t x with
  | .error e => .error e
  | .ok (e, s) =>
    if (rightsOf e.domValid e.leaf.dom e.rights t.priv) &&& (needR ||| needX) = 0 then .error (.trap .protection (some x) s)
    else .ok (e.leaf, s)

/-- Cell key of the first byte of an address's line under a leaf. -/
def lineKey (p : PartId) (l : Leaf) (x : Word) : Nat := keyMain p (l.phys (va57 x)) / 128 * 128

/-- The thread has a RED on its way to a line's bytes: the words of the line group touch every byte of it (R236, R251). -/
def lineReds (s : State) (r : TRef) (t : Thread) (l : Leaf) (x : Word) : Bool := redPending s r.part t.tid (lineKey r.part l x) 128

/-- What the words of the line group do with an address that is not cacheable memory (R251): none where it is. -/
def lineSpecial (x : Word) (s : State) : Option Res :=
  if !canonical x then some (.trap .address (some x) s)
  else if inWindowRegion x then some (.done Commit.none s)
  else if inRemoteRegion x then some (.trap .address (some x) s)
  else none

/-- What CWB does with the copy in the issuing L1 (R252). -/
def writeBackLine (s : State) (r : TRef) (line : Nat) : Res :=
  let p := r.part
  match s.holder p r.core line with
  | some h =>
    if h.g = 0 || s.linePoisoned h.key then .done (Commit.none.late 12) s
    else .wait (.pack line) (pourHolder s p r.core line false)
  | none =>
    match s.l1 p r.core line with
    | some l =>
      if s.linePoisoned l.key then .done (Commit.none.late 12) s
      else
        let st := match l.st with
          | .m => Moesi.e
          | .o => .s
          | .e => .e
          | .s => .s
        .done (Commit.none.late 12) ((s.writeBack p r.core line).modL1 p r.core line (fun l => { l with st := st }))
    | none => .done (Commit.none.late 12) s

/-- CWB (R252): it does not wait for earlier ADDMs. Its checks are over once it waits for a PACK. -/
def execCwb (a : Src) (s : State) : Out :=
  runWord [a] (fun r t s =>
    let x := t.rd a
    let line := lineOf x
    if t.wait = some (.pack line) then
      (if (s.holder r.part r.core line).any (fun h => h.f != 0) then .wait (.pack line) s else .done Commit.none s)
    else
      match lineSpecial x s with
      | some e => e
      | none =>
        match lineRight s r t x with
        | .error e => e
        | .ok (l, s) => if lineReds s r t l x then .wait .queue s else writeBackLine s r line) s

/-- CINV (R253). -/
def execCinv (a : Src) (s : State) : Out :=
  runWord [a] (fun r t s =>
    let x := t.rd a
    match lineSpecial x s with
    | some e => e
    | none =>
      match lineRight s r t x with
      | .error e => e
      | .ok (l, s) =>
        let line := lineOf x
        if lineReds s r t l x || addmPending s r.part t.tid line then .wait .queue s
        else
          let s := match s.holder r.part r.core line with
            | some _ => evictHolder s r.part r.core line
            | none => s.loseCopy r.part r.core line
          .done (Commit.none.late 12) s) s

/-- IINV (R254): the line leaves every L1 instruction cache of the partition. -/
def execIinv (a : Src) (s : State) : Out :=
  runWord [a] (fun r t s =>
    let x := t.rd a
    match lineSpecial x s with
    | some e => e
    | none =>
      match lineRight s r t x with
      | .error e => e
      | .ok (l, s) =>
        let line := lineOf x
        if lineReds s r t l x || addmPending s r.part t.tid line then .wait .queue s
        else .done (Commit.none.late 12) ((s.part r.part).coreIds.foldl (fun s c =>
          s.modCoreC r.part c (fun k => { k with l1i := k.l1i.filter (fun l => l.line != line) })) s)) s

/-- The prefetch slots of a core that are busy (R255). -/
def busyPrefetches (s : State) (r : TRef) : List Nat := (s.core r.part r.core).c.prefetches.filter (fun n => decide (s.cycle < n))

/-- The fetch of a line into the issuing L1 as a load would make it (R207, R255): a stale-protection reply refills the PLB entry and
asks again (R198); whatever stands against it drops it. -/
def prefetchLine : Nat → State → TRef → Thread → Word → State
  | 0, s, _, _, _ => s
  | k + 1, s, r, t, x =>
    let line := lineOf x
    match plbLookup s r t x with
    | .error _ => s
    | .ok (e, s) =>
      if !entryAllows e t.priv needR || e.leaf.steep then s
      else if (l1Hit s r.part r.core line e.leaf.dom (sectorOf x.toNat)).isSome then s
      else
        match homeLookup (l1Mismatch s r.part r.core line e.leaf.dom) r.part line e.leaf.dom with
        | .ok miss s =>
          let s := if miss then s else homeRead s r.part line 3 t.corr
          let s := s.modCoreC r.part r.core (fun c => { c with prefetches := busyPrefetches s r ++ [s.cycle + homeLat r.core line miss] })
          match s.sl r.part line with
          | some y => if s.linePoisoned y.key then s else opGetS s r.part r.core line
          | none => s
        | .stale s => prefetchLine k (plbDrop s r.part r.core t.ctx (va57 x)) r t x
        | .fault w s => listWalk s r.part (lineAddr line) w
        | .full s => s

/-- The line that PREF asks for (R255); the request is dropped for an address that is not cacheable memory, and while the core's 16 slots are
busy. -/
def prefetch (s : State) (r : TRef) (t : Thread) (x : Word) : State :=
  if !canonical x || inWindowRegion x || inRemoteRegion x || decide (16 ≤ (busyPrefetches s r).length) then s
  else prefetchLine 2 s r t x

/-- The thread has a RED or an ADDM on its way to the line that PREF reads (R236, R251). -/
def prefetchWaits (s : State) (r : TRef) (t : Thread) (x : Word) : Bool :=
  canonical x && !inWindowRegion x && !inRemoteRegion x &&
  (match plbEntry s r.part r.core t.ctx x with
   | .ok (e, _) => lineReds s r t e.leaf x || addmPending s r.part t.tid (lineOf x)
   | .error _ => false)

/-- PREF (R255): it commits at issue. -/
def execPref (a : Src) (s : State) : Out :=
  runWord [a] (fun r t s =>
    if prefetchWaits s r t (t.rd a) then .wait .queue s else .done Commit.none (prefetch s r t (t.rd a))) s

/-- The line lies in the 64 KiB page of an address, or in its 512 MiB span and was filled through a large leaf (R256). -/
def pageLine (x : Word) (l : SliceLine) : Bool := l.line / 512 == va57 x / 2 ^ 16 || (l.big && l.line / 2 ^ 22 == va57 x / 2 ^ 29)

/-- A thread's access under a withdrawn entry waits at a home and is not performed yet, in a full/empty list or for a reservation: one in the
page, or one of the 512 MiB span that a large leaf translated. DEDUCED (log 20). -/
def accessWaits (s : State) (p : PartId) (x : Word) : Bool :=
  (s.threads p).any (fun e => e.2.barGen.isNone && (match e.2.pend with
    | some q =>
      q.addr != 0 && !inRemoteRegion q.addr && !inWindowRegion q.addr &&
      (va57 q.addr / 2 ^ 16 == va57 x / 2 ^ 16 || (q.big && va57 q.addr / 2 ^ 29 == va57 x / 2 ^ 29))
    | none => false))

/-- The line lies in the 512 MiB span of an address. -/
def inSpan (x : Word) (line : Nat) : Bool := line / 2 ^ 22 == va57 x / 2 ^ 29

/-- What a bundle has prepared was checked under a translation of the page (R287, R300, R374). -/
def preparedIn (mine : Leaf → Bool) (t : Thread) : Bool :=
  match t.prepared with
  | some (.copy j) => j.pages.any mine
  | some (.matrix (.store _ _ _ _ _ pages)) | some (.shape pages) => pages.any mine
  | some (.coll (some c)) => c.pages.any mine
  | some (.matrix (.job _)) | some (.matrix (.zero _ _ _)) | some (.coll none) | none => false

/-- An access that passed a PLB under a translation of the page is still to be performed (R256, R287). DEDUCED (log 20). -/
def pageInUse (s : State) (p : PartId) (x : Word) : Bool :=
  let mine (l : Leaf) := l.covers (va57 x)
  (s.part p).coreIds.any (fun c =>
    let w := (s.core p c).w
    w.copyQ.any (fun j => j.pages.any mine) ||
    w.mxQ.any (fun e => match e with
      | .store _ _ _ _ _ pages => pages.any mine
      | .job _ | .zero _ _ _ => false) ||
    w.outQ.any (fun q => inSpan x q.line) || w.updateQ.any (fun q => inSpan x q.line) || w.steepQ.any (fun q => inSpan x q.line)) ||
  (s.part p).colls.any (fun c => c.pages.any mine) ||
  (s.threads p).any (fun e => preparedIn mine e.2 || (match e.2.wait with
    | some (.pack line) => inSpan x line
    | _ => false)) || accessWaits s p x

/-- The translation of a page withdrawn from every PLB and translation cache, and its lines from every cache (R210, R256); a line whose
stamp is not yet passed stays in its slice until then (R335). DEDUCED (log 20). -/
def dropPage (s : State) (p : PartId) (x : Word) : State :=
  let va := va57 x
  let s := (s.part p).coreIds.foldl (fun s c =>
    s.modCoreC p c (fun k => { k with
      plb := k.plb.filter (fun e => !e.leaf.covers va), l1i := k.l1i.filter (fun l =>
        l.line / 512 != va / 2 ^ 16 && !(l.big && inSpan x l.line)) })) s
  let s := s.modPart p (fun q => { q with tcache := kmapVals (fun _ (l : List Leaf) => l.filter (fun e => !e.covers va)) q.tcache })
  ((s.part p).slices.filter (pageLine x)).foldl (fun s l =>
    if s.unstamped p l then sliceEvict s p l.line else (s.revokeAll p l.line).invalidateAll p l.line none) s

/-- PLBI (R251, R256, R347): privileged. DEDUCED (log 20). -/
def execPlbi (a : Src) (s : State) : Out :=
  runWord [a] (fun r t s =>
    let x := t.rd a
    if !t.priv then .trap .privilege none s
    else if !canonical x then .trap .address (some x) s
    else if inWindowRegion x || inRemoteRegion x then .done Commit.none s
    else
      let s := dropPage s r.part x
      if pageInUse s r.part x || (s.part r.part).slices.any (pageLine x) then .wait .queue s else .done (Commit.none.late 2100) s) s

/-! ## ADDM and LDB (R257 to R259) -/

/-- The checks of ADDM and LDB in their order (R257, R259, R370). -/
def steepAccess (s : State) (r : TRef) (t : Thread) (need : BitVec 4) (x : Word) : Except Res (Leaf × State) :=
  if !canonical x || inRemoteRegion x then .error (.trap .address (some x) s)
  else if inWindowRegion x then .error (.trap .steep (some x) s)
  else
    match plbLookup s r t x with
    | .error e => .error e
    | .ok (e, s) =>
      if !e.leaf.steep then .error (.trap .steep (some x) s)
      else if !entryAllows e t.priv need then .error (.trap .protection (some x) s)
      else if x.toNat % elemBytes e.leaf.sfmt != 0 then .error (.trap .misaligned (some x) s)
      else .ok (e.leaf, s)

/-- ADDM (R257): it commits at issue; the addition waits in the core's steep queue. It follows the thread's REDs to its element (R236). -/
def execAddm (a b : Src) (s : State) : Out :=
  runWord [a, b] (fun r t s =>
    let x := t.rd a
    if decide (16 ≤ (s.core r.part r.core).w.steepQ.length) then .wait .queue s
    else
      match steepAccess s r t needRW x with
      | .error e => e
      | .ok (l, s) =>
        let key := keyMain r.part (l.phys (va57 x))
        if redPending s r.part t.tid key (elemBytes l.sfmt) then .wait .queue s
        else
          match holdWrite s r t l with
          | .error e => e
          | .ok s =>
            if s.linePoisoned key then .trap .poison (some x) s
            else
              match stampLine s r (lineOf x) l.dom with
              | none => .wait .queue s
              | some s =>
                let q : AddmReq :=
                  { tid := t.tid, line := lineOf x, off := x.toNat % 128, a := t.rd b, fmt := l.sfmt, slim := l.slim, dom := l.dom,
                    key := key / 128 * 128, phase := 0 }
                let s := s.modCoreW r.part r.core (fun w => { w with steepQ := w.steepQ ++ [q] })
                .done { Commit.none with log := [.addr x, .atom 7 0 (t.rd b), .leave (lineOf x)] }
                  (clearStamp (s.push (.addmPerform r.part r.core)) r x)) s

/-- The tolerance of LDB's register form (R258). -/
def tolOfReg (v : Word) : BitVec 32 :=
  let m := BitVec.ofNat 32 (field v 0 31)
  if 0x7F800000 < m.toNat then 0 else m

/-- The tolerance of LDB's immediate form (R258): 2^k exact in FP32, or 0 for the exact form. -/
def tolOfImm (k : BitVec 8) : BitVec 32 :=
  if k = 0x80 then 0
  else if k = 0x81 then 0x00400000
  else BitVec.ofNat 32 ((k.toInt + 127).toNat * 2 ^ 23)

/-- The load type of a bounded load's reply (R259). -/
def steepType (fmt : Nat) : LdType := if fmt = 0 then .s32 else if fmt = 1 then .s64 else .z32

/-- LDB (R259): a bounded load sent to the line's home. -/
def boundedLoad (d : Reg) (x : Word) (tol : BitVec 32) (r : TRef) (t : Thread) (s : State) : Res :=
  match steepAccess s r t needR x with
  | .error e => e
  | .ok (l, s) =>
    if ownPending s r t l x (elemBytes l.sfmt) then .wait .queue s
    else
      match reachHome 2 s r t needR x with
      | .error e => e
      | .ok (_, miss, s) =>
        let line := lineOf x
        let s := if miss then s else homeRead s r.part line (sectorBit (sectorOf x.toNat)) t.corr
        match s.sl r.part line with
        | none => .trap .poison (some x) s
        | some y =>
          match poisonStop s y.key x with
          | .error e => e
          | .ok _ =>
            let q : BoundedReq :=
              { line := line, key := y.key, fmt := l.sfmt, off := x.toNat % 128, tol := tol, who := r, tid := t.tid }
            let log := LogItem.addr x :: stampItems { key := y.key, lat := 0, stamp := y.stamp }
            .pend { commit := { Commit.none with log := log }, dest := some d, log := .atom 8, ty := some (steepType l.sfmt), addr := x,
                    big := l.big, size := 0, words := [] } (s.push (.boundedLoad r.part q))

/-- LDB with a register tolerance (R258, R259). -/
def execLdb (d : Reg) (a b : Src) (s : State) : Out :=
  runWord [a, b] (fun r t s => boundedLoad d (t.rd a) (tolOfReg (t.rd b)) r t s) s
/-- LDB with an immediate tolerance (R258, R259). -/
def execLdbImm (d : Reg) (a : Src) (k : BitVec 8) (s : State) : Out :=
  runWord [a] (fun r t s => boundedLoad d (t.rd a) (tolOfImm k) r t s) s

/-! ## The steep queue at a core's L1 (R220) -/

/-- The ADDM at the head of a core's steep queue changed. -/
def modHead (s : State) (p : PartId) (c : CoreId) (f : AddmReq → AddmReq) : State :=
  s.modCoreW p c (fun w => { w with steepQ := match w.steepQ with
    | q :: l => f q :: l
    | [] => [] })

/-- The ADDM at the head of a core's steep queue is done; the next one's turn comes. -/
def nextAddm (s : State) (p : PartId) (c : CoreId) : State :=
  let s := s.modCoreW p c (fun w => { w with steepQ := w.steepQ.drop 1 })
  if (s.core p c).w.steepQ.isEmpty then s else s.push (.addmPerform p c)

/-- A wait of the head ADDM on a line ends (R220). -/
def resumeHead (s : State) (p : PartId) (c : CoreId) (line phase : Nat) : State :=
  match (s.core p c).w.steepQ with
  | q :: _ => if q.line = line ∧ q.phase = phase then (modHead s p c (fun q => { q with phase := 0 })).push (.addmPerform p c) else s
  | [] => s

/-- The head ADDM goes to its home slice: an access of its thread that counts once (R140). A thread between two bundles migrates at once. -/
def countAddm (s : State) (p : PartId) (c : CoreId) (q : AddmReq) : State :=
  if q.counted then s
  else
    let s := modHead s p c (fun q => { q with counted := true })
    match (slotThreads p c (s.core p c).w.slots).find? (fun e => e.2.tid == q.tid) with
    | some (r, t) =>
      let s := s.countHome r (homeSlice q.line).val
      if t.migrate.isNone && (s.thread r).any (fun t => t.migrate.isSome && (match t.wait with
        | none | some (.regs _) => true
        | _ => false)) then s.push (.migration r) else s
    | none => s

/-- The loop of R220 for an ADDM whose line is in A. DEDUCED (log 70). -/
def addmInA (s : State) (p : PartId) (c : CoreId) (q : AddmReq) (h : Holder) : State :=
  let m := addendMag q.fmt q.a
  if magLe (addUp [h.f, h.g, m]) h.share then
    let g := addUp [h.g, m]
    let s := s.modHolder p c q.line (fun h => { h with
      p := elemSet q.fmt h.p q.off (elemAdd q.fmt (elemAt q.fmt h.p q.off) (q.a.toNat % 2 ^ (8 * elemBytes q.fmt))), g := g })
    let s := if g = h.share ∧ g ≠ 0 then pourHolder s p c q.line (bit (s.part p).r.steepctl 1) else s
    nextAddm s p c
  else if h.f ≠ 0 then modHead s p c (fun q => { q with phase := 2 })
  else if h.g ≠ 0 then modHead (pourHolder s p c q.line false) p c (fun q => { q with phase := 2 })
  else (modHead (countAddm s p c q) p c (fun q => { q with phase := 3 })).push (.tadd p c q.line q.dom q.off q.a)

/-- ADDM_PERFORM: the L1 begins or goes on with the ADDM at the head of its core's steep queue (R220, R229). -/
def execAddmPerform (p : PartId) (c : CoreId) (s : State) : Out :=
  match (s.core p c).w.steepQ with
  | q :: _ =>
    if q.phase ≠ 0 then .next s
    else
      match s.holder p c q.line with
      | none => .next ((modHead (countAddm (s.loseCopy p c q.line) p c q) p c (fun q => { q with phase := 1 })).push (.sreq p c q.line q.dom))
      | some h =>
        if h.colour != steepColour s p && h.g ≠ 0 then
          .next (modHead (pourHolder s p c q.line false) p c (fun q => { q with phase := 2 }))
        else
          let s := s.modHolder p c q.line (fun h => { h with colour := steepColour s p })
          .next (addmInA s p c q { h with colour := steepColour s p })
  | [] => .next s

/-- COLOUR_POUR: a holder pours what it holds of the old colour (R229). -/
def execColourPour (p : PartId) (h : CoreId) (line : Nat) (s : State) : Out :=
  match s.holder p h line with
  | some x =>
    if x.colour != steepColour s p then
      let s := if x.g = 0 then s else pourHolder s p h line false
      .next (s.modHolder p h line (fun x => { x with colour := steepColour s p }))
    else .next s
  | none => .next s

/-! ## The steep protocol (R221 to R225, R228) -/

/-- What the home learns of a line that a holder's message names: cell key, format, limit entry. -/
def steepInfo (s : State) (p : PartId) (h : CoreId) (line dom : Nat) : Option (Nat × Nat × Nat) :=
  match (s.core p h).w.steepQ.find? (fun q => q.line == line && q.dom == dom) with
  | some q => some (q.key, q.fmt, q.slim)
  | none =>
    match walkPage s p (lineAddr line) with
    | .leaf l => if l.steep then some (keyMain p (l.phys (line * 128)), l.sfmt, l.slim) else none
    | _ => none

/-- The line stands at its home for a message of the steep protocol: in the slice under the message's domain, where a mismatch revokes every
holder (R198, R222), with the home's state; `none` while no way can be had. An ADDM that passed the PLB completes under the entry that it
passed (R210). -/
def steepReady (s : State) (p : PartId) (h : CoreId) (line dom : Nat) : Option State :=
  let ready (s : State) : State :=
    match steepInfo s p h line dom with
    | some (key, fmt, slim) => s.ensureHome p line dom key fmt slim
    | none => s
  match homeLookup s p line dom with
  | .ok _ s | .stale s => some (ready s)
  | .fault w s => some (ready (listWalk s p (lineAddr line) w))
  | .full _ => none

/-- A request that waits its turn at the home (R225). -/
def deferHome (s : State) (p : PartId) (line : Nat) (i : Instr) : State :=
  s.modHome p line (fun x => { x with deferred := x.deferred ++ [i] })

/-- The home serves a bounded load, or revokes a holder first: requests of the line wait. -/
def homeBusy (x : SteepHome) : Bool := x.load.isSome || x.revoking.isSome

/-- SREQ: a share request reaches the home (R221). -/
def execSreq (p : PartId) (h : CoreId) (line dom : Nat) (s : State) : Out :=
  match steepReady s p h line dom with
  | none => .next (s.holdBack (.sreq p h line dom))
  | some s =>
    match s.steepHome p line with
    | none => .next s
    | some x =>
      if homeBusy x then .next (deferHome s p line (.sreq p h line dom))
      else
        match victimOf s p x with
        | some v =>
          .next ((s.modHome p line (fun x => { x with revoking := some v, deferred := .sreq p h line dom :: x.deferred })).push
            (.srev p v line dom))
        | none =>
          let g := grantOf s p x.u
          let s := s.invalidateAll p line none
          .next ((s.modHome p line (fun x => { x with
            u := subDown x.u g, shares := x.shares.filter (fun e => e.1 != h) ++ [(h, g)] })).push (.sgnt p h line dom g))

/-- SGNT: the holder enters A with its share (R220). DESIGN CHOICE (log 26). -/
def execSgnt (p : PartId) (h : CoreId) (line _dom : Nat) (share : BitVec 32) (s : State) : Out :=
  match s.steepHome p line with
  | none => .next s
  | some x =>
    let s := l1Room (s.loseCopy p h line) p h line
    let y : Holder :=
      { line := line, dom := x.dom, key := x.key, fmt := x.fmt, p := 0, g := 0, f := 0, share := share, colour := steepColour s p }
    let s := s.modCoreC p h (fun k => { k with holders := y :: k.holders.filter (fun z => z.line != line) })
    .next (resumeHead s p h line 1)

/-- POUR_MESSAGE: a pour's data reach the home, which answers PACK (R221, R224). -/
def execPourMessage (p : PartId) (h : CoreId) (line dom : Nat) (data : BitVec 1024) (_g : BitVec 32) (colour more : Bool) (s : State) : Out :=
  .next (takePour ((steepReady s p h line dom).getD s) p h line dom data colour more)

/-- Another pour of the holder, or its PACK, is still on its way, or waits at the home. -/
def pourInFlight (s : State) (p : PartId) (h : CoreId) (line : Nat) : Bool :=
  (s.events ++ ((s.steepHome p line).map (fun x => x.deferred)).getD []).any (fun i => match i with
    | .pourMessage p' h' l _ _ _ _ _ | .pack p' h' l _ _ => p' == p && h' == h && l == line
    | _ => false)

/-- PACK: a pour is acknowledged, with further share (R220). -/
def execPack (p : PartId) (h : CoreId) (line _dom : Nat) (added : BitVec 32) (s : State) : Out :=
  let clear := !pourInFlight s p h line
  let s := s.modHolder p h line (fun x => { x with f := if clear then 0 else x.f, share := addDown x.share added })
  .next (resumeHead s p h line 2)

/-- FPR: the holder answers a forced pour at once, keeping its share (R223). -/
def execFpr (p : PartId) (h : CoreId) (line dom : Nat) (s : State) : Out :=
  match s.holder p h line with
  | some x =>
    .next ((s.modHolder p h line (fun x => { x with p := 0, g := 0 })).push (.fpd p h line dom x.p x.g x.colour))
  | none => .next (s.push (.fpd p h line dom 0 0 (steepColour s p)))

/-- FPD: a forced pour's data reach the home (R224, R225). -/
def execFpd (p : PartId) (h : CoreId) (line dom : Nat) (data : BitVec 1024) (_g : BitVec 32) (colour : Bool) (s : State) : Out :=
  .next (takeFpd ((steepReady s p h line dom).getD s) p h line data colour)

/-- A SRET of the holder is on its way to the home. -/
def sretInFlight (s : State) (p : PartId) (h : CoreId) (line : Nat) : Bool :=
  s.events.any (fun i => match i with
    | .sret p' h' l _ _ _ _ _ => p' == p && h' == h && l == line
    | _ => false)

/-- SREV: the holder returns its partials and share, and moves to I (R222); a SRET already on its way is the answer (R228). DESIGN CHOICE (log 26). -/
def execSrev (p : PartId) (h : CoreId) (line dom : Nat) (s : State) : Out :=
  match s.holder p h line with
  | some x => .next ((s.dropHolder p h line).push (.sret p h line dom x.p x.g x.colour x.share))
  | none => .next (if sretInFlight s p h line then s else answered (s.surrender p h line) p h line)

/-- SRET: the home takes a holder's partials and share (R221, R222, R224). -/
def execSret (p : PartId) (h : CoreId) (line dom : Nat) (data : BitVec 1024) (_g : BitVec 32) (colour : Bool) (share : BitVec 32)
    (s : State) : Out :=
  .next (takeSret ((steepReady s p h line dom).getD s) p h line data colour share)

/-- TADD: one addition added to its holder's entry at the home when it arrives, and acknowledged (R222, R223, R224). -/
def execTadd (p : PartId) (h : CoreId) (line dom off : Nat) (a : Word) (s : State) : Out :=
  match steepReady s p h line dom with
  | none => .next (s.holdBack (.tadd p h line dom off a))
  | some s =>
    let s := match s.steepHome p line with
      | some x => s.homeAdd p h line (steepColour s p) (elemSet x.fmt 0 off (a.toNat % 2 ^ (8 * elemBytes x.fmt)))
      | none => s
    .next (answerHolder s p line (.tack p h line dom))

/-- TACK: the addition is performed, and the next ADDM's turn comes (R220, R231). -/
def execTack (p : PartId) (h : CoreId) (line _dom : Nat) (s : State) : Out :=
  match (s.core p h).w.steepQ with
  | q :: _ => .next (if q.line = line ∧ q.phase = 3 then nextAddm s p h else s)
  | [] => .next s

/-- BOUNDED_LOAD: the home serves a bounded load: holders forced until what is left lies within the tolerance (R225). -/
def execBoundedLoad (p : PartId) (q : BoundedReq) (s : State) : Out :=
  match s.steepHome p q.line with
  | none => .next (replyThread s q.who q.tid (some (word (elemAt q.fmt (s.readLine q.key) q.off))))
  | some x =>
    if homeBusy x then .next (deferHome s p q.line (.boundedLoad p q))
    else
      let hs := forceList (x.shares.length + 1) x.shares (addUp (x.shares.map (fun e => e.2))) q.tol
      let s := s.modHome p q.line (fun x => { x with load := some q, forcing := hs })
      if hs.isEmpty then .next ((s.answerLoad p q.line).releaseHome p q.line)
      else .next (s.pushAll (hs.map (fun h => .fpr p h q.line x.dom)))

/-- STEEP_DISABLE: STEEPCTL.EN written 0 revokes every share (R222, R230). -/
def execSteepDisable (p : PartId) (s : State) : Out :=
  .next ((s.modRegs p (fun r => { r with steepctl := r.steepctl &&& ~~~(1 : Word) })).revokeEvery p)

/-! ## Cache and walker steps (R203 to R214) -/

/-- FORWARDED_READ: an L1 copy supplies data (R207); the home reads its way as well, where an armed injection fires (R215). -/
def execForwardedRead (p : PartId) (c : CoreId) (line : Nat) (s : State) : Out := .next (homeRead (s.forwardRead p c line) p line 3 0)

/-- INVALIDATION: an L1 copy is invalidated, its dirty sectors supplied (R207, R209). -/
def execInvalidation (p : PartId) (c : CoreId) (line : Nat) (s : State) : Out := .next (s.loseCopy p c line)

/-- L1_EVICTION: an L1 evicts a copy, or a holder's line with an unasked SRET (R207, R222). -/
def execL1Eviction (p : PartId) (c : CoreId) (line : Nat) (s : State) : Out :=
  match s.holder p c line with
  | some _ => .next (evictHolder s p c line)
  | none => .next (s.loseCopy p c line)

/-- SLICE_EVICTION: a slice evicts a line that it may evict (R206, R213, R335). -/
def execSliceEviction (p : PartId) (line : Nat) (s : State) : Out :=
  match s.sl p line with
  | some l => .next (if s.evictable p l then sliceEvict s p line else s)
  | none => .next s

/-- GETS: a read miss reaches the home (R198, R207). -/
def execGetS (p : PartId) (c : CoreId) (line dom : Nat) (s : State) : Out :=
  match homeLookup s p line dom with
  | .ok miss s => .next (opGetS (if miss then s else homeRead s p line 3 0) p c line)
  | .fault w s => .next (listWalk s p (lineAddr line) w)
  | .stale s | .full s => .next s

/-- GETM: a write or upgrade reaches the home, which revokes the line's holders first (R207, R227). -/
def execGetM (p : PartId) (c : CoreId) (line dom : Nat) (sector : Fin 2) (s : State) : Out :=
  match homeLookup s p line dom with
  | .ok miss s =>
    let s := s.revokeAll p line
    .next (opGetM (if miss then s else homeRead s p line (sectorsGot s p c line sector) 0) p c line sector)
  | .fault w s => .next (listWalk s p (lineAddr line) w)
  | .stale s | .full s => .next s

/-- WALK: a slice's walk ends with a leaf, which its translation cache takes, or finds a poisoned table page, which is listed (R203 to
R205). -/
def execWalk (p : PartId) (va : Word) (s : State) : Out :=
  let x := sliceWalk s p va
  .next (listWalk x.2 p va x.1)

/-- PTCLR's write (R205, R215): a frame leaves the poisoned-table list. -/
def ptclr (s : State) (p : PartId) (frame : Nat) : State := s.modPart p (fun q => { q with badTables := ndel q.badTables frame })

/-- PTCLR_WRITE (R215). -/
def execPtclrWrite (p : PartId) (frame : BitVec 32) (s : State) : Out := .next (ptclr s p frame.toNat)

/-- L2_UNCORRECTABLE: an L2 read finds an uncorrectable error in a slice line (R212). -/
def execL2Uncorrectable (p : PartId) (line : Nat) (corr : BitVec 32) (s : State) : Out := .next (l2Error s p line corr)

/-- SECTOR_PIN: a faulty DRAM sector (R213, R214): its line is pinned in a locked way of its set, or its page is retired when the set has none
left; of one that cannot be read, the line is poisoned and reported first (R339). -/
def execSectorPin (p : PartId) (line : Nat) (readable : Bool) (s : State) : Out :=
  match lineStands s p line with
  | none => .next s
  | some l => .next (if readable then repairSector s p l else moduleError s p (l.key % 2 ^ 48))

end Sys2Proof.Machine
end

