-- ==== Sys2Proof/Machine/Remote.lean ====
section
/-! DEFINITION. Requests that reach a partition from others (25 R368 to R372). -/
namespace Sys2Proof.Machine

/-! ## The target's checks (R368, R370) -/

/-- The partition answers remote requests: open to the outside (R340, R370, R399), and its span exported. -/
def remoteOpen (q : Partition) : Bool := !shut q && bit q.r.xport 63

/-- The leaf of a remote request under the rights of XPORT.CTX (R368); none for an error reply. -/
def remoteLeaf (s : State) (p : PartId) (off : Nat) (need : BitVec 4) : Option Leaf :=
  let a := xportAddr (s.part p) off
  if !remoteOpen (s.part p) || inWindowRegion a || inRemoteRegion a then none
  else
    match walkPage s p a with
    | .leaf l =>
      let r := rightsOf (domainEntry s p l.dom).1 l.dom (rightsNibble s p (field (s.part p).r.xport 0 8) l.dom) false
      if r &&& need != need || (l.ro && need.getLsbD 1) then none else some l
    | _ => none

/-- How a remote request ends at its target. -/
inductive Served where
  /-- done, with the value of a read -/
  | reply (v : Option Word) (s : State)
  | data (bytes : List Byte) (s : State)
  | error (s : State)
  /-- the target waits: for a way, or for the page copier -/
  | later (s : State)
  /-- a full/empty operation waits in its word's list -/
  | listed (s : State)

/-- The walk of a remote request, which lists a poisoned table page (R205). -/
def remoteWalked (s : State) (p : PartId) (off : Nat) : State := listTable s p (xportAddr (s.part p) off)

/-- A remote read of bytes of one line (R368, R370): `corr` is the access's CORR. -/
def remoteLine (s : State) (p : PartId) (off n : Nat) (corr : BitVec 32) : Served :=
  match remoteLeaf s p off needR with
  | none => .error (remoteWalked s p off)
  | some l =>
    let va := va57 (xportAddr (s.part p) off)
    match reachRead s p l va n corr with
    | .held s => .later s
    | .poisoned s => .error s
    | .ok s => .data (memBytes s.mem (keyMain p (l.phys va)) n) s

/-- The bytes of a remote read that may span two lines. -/
def remoteBytes (s : State) (p : PartId) (off n : Nat) (corr : BitVec 32) : Served :=
  let m := Nat.min n (128 - off % 128)
  match remoteLine s p off m corr with
  | .data a s =>
    if m = n then .data a s
    else
      match remoteLine s p (off + m) (n - m) corr with
      | .data b s => .data (a ++ b) s
      | x => x
  | x => x

/-- Full bits set by a copy's last write of a word, and the word's lists served (R149, R150, R269). -/
def fillWord (s : State) (p : PartId) (key : Nat) : State := feServeSoon (s.setFullBit key true) p key

/-- The line of an address stands in its slice under a leaf's domain: an access does not fill it (R198, R360). -/
def lineHits (s : State) (p : PartId) (l : Leaf) (va : Nat) : Bool := (s.sl p (va / 128)).any (fun x => x.dom == l.dom)

/-- Bytes of one line of a remote write: whether its slice holds it, and where they lie, once the line may be written. -/
def remoteReach (s : State) (p : PartId) (off : Nat) (need : BitVec 4) (w : PageWriter) (go : Bool → Nat → State → Served) : Served :=
  match remoteLeaf s p off need with
  | none => .error (remoteWalked s p off)
  | some l =>
    let va := va57 (xportAddr (s.part p) off)
    match reachWrite s p l va w with
    | .poisoned u => .error u
    | .held u => .later u
    | .ok u => go (lineHits s p l va) (keyMain p (l.phys va)) u

/-- The bytes of a copy's remote beat written (R269, R371): the whole beat or, on an error, nothing of it. -/
def remotePut (s : State) (p : PartId) (off : Nat) (bytes : List Byte) (fills : List Nat) (w : PageWriter) : Served :=
  let n := bytes.length
  let m := Nat.min n (128 - off % 128)
  let put (key key' : Nat) (s : State) : Served :=
    let s := (s.writeMemBytes key (bytes.take m)).writeMemBytes key' (bytes.drop m)
    .reply none (fills.foldl (fun s o => fillWord s p (if o < m then key + o else key' + (o - m))) s)
  remoteReach s p off needW w (fun _ key s =>
    if m = n then put key key s else remoteReach s p (off + m) needW w (fun _ key' s => put key key' s))

/-- A request performed at its target (R368, R370). -/
def remotePerform (s : State) (q : RemoteReq) : Served :=
  let p := q.dst
  let off := q.off.toNat
  let w : PageWriter := .step (beatless (.remoteRequest q))
  -- the word is read at its home before it changes: from its way, where the access has not filled that (R360)
  let reading (go : Nat → State → Served) (hit : Bool) (k : Nat) (s : State) : Served :=
    let s := if hit then readHome s p k q.corr else s
    if s.linePoisoned k then .error s else go k s
  match q.op with
  | .load ty =>
    match remoteLine s p off ty.bytes q.corr with
    | .data _ s =>
      match remoteLeaf s p off needR with
      | some l => .reply (some (s.readMem (keyMain p (l.phys (va57 (xportAddr (s.part p) off)))) ty.bytes)) s
      | none => .error s
    | x => x
  | .store ty v => remoteReach s p off needW w (fun _ k s => .reply none (putBytes s p k ty.bytes v))
  | .amo op sz v c =>
    remoteReach s p off needRW w (reading (fun k s => let x := amoAt s k op sz v c; .reply (some (amoOld op sz x.1)) x.2))
  | .red op sz v => remoteReach s p off needRW w (reading (fun k s => .reply none (amoAt s k op sz v 0).2))
  | .fe op v =>
    let arrive (k : Nat) (s : State) : Served :=
      let x := feArrive s p { op := op, key := k, val := v, who := .remote q.srcMod q.src q.srcTid, corr := q.corr }
      match x.1 with
      | some v => .reply v (feServeSoon x.2 p k)
      | none => .listed (feServeSoon x.2 p k)
    if op = .ldsk then
      match remoteLine s p off 8 q.corr with
      | .data _ s =>
        match remoteLeaf s p off needR with
        | some l => arrive (keyMain p (l.phys (va57 (xportAddr (s.part p) off)))) s
        | none => .error s
      | x => x
    else remoteReach s p off (feNeed op) w (if feReads op then reading arrive else fun _ => arrive)
  | .beatRead n _ => remoteBytes s p off n q.corr
  | .beatWrite bytes fills _ => remotePut s p off bytes fills w

/-- The colour of a request that travels on BLK (R385). -/
def reqColour (q : RemoteReq) : Option Bool :=
  match q.op with
  | .beatRead _ c | .beatWrite _ _ c => some c
  | .load _ | .store _ _ | .amo _ _ _ _ | .red _ _ _ | .fe _ _ => none

/-- A BLK packet counted at its receiver (R385). -/
def blkCounted (s : State) (q : RemoteReq) : State :=
  match (if q.arrived then none else reqColour q) with
  | some c => blkArrives s q.dst (peerKey q.srcMod q.src.part) c
  | none => s

/-- The reply of a request sent to its requester. -/
def answerRemote (q : RemoteReq) (x : Served) : State :=
  match x with
  | .reply v s => replyRemote s q.srcMod q.src q.srcTid v
  | .data bytes s => { s with portOut := s.portOut ++ [.beatData q.srcMod q.src bytes] }
  | .error s => replyError s q.srcMod q.src q.srcTid
  | .later s => s.holdBack (.remoteRequest q)
  | .listed s => s

/-- A request that the target performs, once (R370, R386): it is recorded and counted as it is performed, or, while the channels are recorded, as it
begins to wait at its home: it has arrived, and the marker behind it does not wait for it. DEDUCED (log 77). -/
def remoteTaken (s taken : State) (q : RemoteReq) : State :=
  match remotePerform s q with
  | .later u =>
    if recording (s.part q.dst) && !q.arrived then
      match remotePerform (blkCounted taken q) q with
      | .later u => u.holdBack (.remoteRequest { q with arrived := true })
      | x => answerRemote q x
    else u.holdBack (.remoteRequest q)
  | .reply _ _ | .data _ _ | .error _ | .listed _ => answerRemote q (remotePerform (blkCounted taken q) q)

/-- REMOTE_REQUEST: a request reaches a partition of this module (R368, R370): authenticated (R404), checked, held or recorded for a snapshot
(R386), behind the marker of its channel (R385), performed at its home, and answered. DESIGN CHOICE (log 1). -/
def execRemoteRequest (q : RemoteReq) (s : State) : Out :=
  if q.modid ≠ s.modid ∨ !authentic s q.dst q.srcMod q.src.part then .next s
  else if !remoteOpen (s.part q.dst) then .next (replyError s q.srcMod q.src q.srcTid)
  else if !fromPeer s q.srcMod q.src.part q.dst then .next (remoteTaken s s q)
  else if q.arrived then .next (remoteTaken s s q)
  else if heldBehind s (.remoteRequest q) then .next (s.holdBack (.remoteRequest q))
  else
    match takeInput s q.dst (peerKey q.srcMod q.src.part) (reqChan q) (reqColour q) (.remoteRequest q) with
    | none => .next (holdInput s q.dst (.remoteRequest q))
    | some taken => .next (remoteTaken s taken q)

end Sys2Proof.Machine
end

