-- ==== Sys2Proof/Machine/Copies.lean ====
section
/-! DEFINITION. The copy unit and its words: ids, checks and enqueues of copies, waits, streams, and beats (17 R265 to R270, R280, 18
R284 to R292, 10 R178, 25 R371). -/
namespace Sys2Proof.Machine

/-! ## Job ids (R268, R285) -/

/-- An id of a copy (kind false) or of a matrix job (kind true). -/
def jobId (kind : Bool) (c : CoreId) (slot seq : Nat) : Word :=
  word ((if kind then 2 ^ 31 else 0) + c.val * 2 ^ 22 + slot % 2 * 2 ^ 21 + seq % 2 ^ 21)

/-- The id names a job kind of the core (R285). -/
def idOk (kind : Bool) (c : CoreId) (x : Word) : Bool :=
  field x 32 32 == 0 && bit x 31 == kind && field x 22 9 == c.val

/-- A SEQ that is pending by R285's counters. -/
def seqPending (next done seq : Nat) : Bool :=
  decide ((seq + 2 ^ 21 - done % 2 ^ 21) % 2 ^ 21 < (next + 2 ^ 21 - done % 2 ^ 21) % 2 ^ 21)

/-- A job of a core by kind and SEQ is pending (R285). -/
def seqOut (w : CoreWorld) (kind : Bool) (seq : Nat) : Bool :=
  if kind then seqPending w.mxNext w.mxDone seq else seqPending w.copyNext w.copyDone seq

/-- The job that an id names is pending on the core (R285). -/
def jobPending (w : CoreWorld) (kind : Bool) (x : Word) : Bool := seqOut w kind (field x 0 21)

/-- A thread has waited on a job of a kind: that job and earlier ones, once complete, no longer hold it on its core (R141, R302). -/
def waitedOn (w : CoreWorld) (t : Thread) (kind : Bool) (seq : Nat) : Thread :=
  { t with jobs := t.jobs.filter (fun j =>
      j.1 != kind || decide (2 ^ 20 ≤ (seq + 2 ^ 21 - j.2 % 2 ^ 21) % 2 ^ 21) || seqOut w kind j.2) }

/-- CPYW and MXW (R286). -/
def waitJob (kind : Bool) (a : Src) (s : State) : Out :=
  runWord [a] (fun r t s =>
    let x := t.rd a
    if (clusterOf r.core).isNone then .trap .target none s
    else if !idOk kind r.core x then .trap .jobId none s
    else if jobPending (s.core r.part r.core).w kind x then
      .wait (if kind then .matrix (field x 0 21) else .copy (field x 0 21)) s
    else .done Commit.none (s.modThread r (fun t => waitedOn (s.core r.part r.core).w t kind (field x 0 21)))) s

/-- CPYQ and MXP (R286). -/
def queryJob (kind : Bool) (d : Reg) (a : Src) (s : State) : Out :=
  runWord [a] (fun r t s =>
    let x := t.rd a
    if (clusterOf r.core).isNone then .trap .target none s
    else if !idOk kind r.core x then .trap .jobId none s
    else if jobPending (s.core r.part r.core).w kind x then .done (Commit.reg d 0) s
    else .done (Commit.reg d 1) (s.modThread r (fun t => waitedOn (s.core r.part r.core).w t kind (field x 0 21)))) s

/-- CPYW (R286). -/
def execCpyw (a : Src) (s : State) : Out := waitJob false a s
/-- CPYQ (R286). -/
def execCpyq (d : Reg) (a : Src) (s : State) : Out := queryJob false d a s
/-- MXW (R286). -/
def execMxw (a : Src) (s : State) : Out := waitJob true a s
/-- MXP (R286). -/
def execMxp (d : Reg) (a : Src) (s : State) : Out := queryJob true d a s

/-! ## Ranges and their checks (R287) -/

/-- A range of bytes: first address and length. -/
abbrev Range := Word × Nat

/-- The first byte of a range that is not canonical (R22): the range is shorter than half of the address space. -/
def badCanon (x : Range) : Option Word :=
  if x.2 = 0 then none
  else if !canonical x.1 then some x.1
  else if !canonical (x.1 + word (x.2 - 1)) then some (word (2 ^ 56))
  else none

/-- The first byte of a range that lies in the remote region. -/
def firstRemote (x : Range) : Option Word :=
  if x.2 = 0 then none
  else if inRemoteRegion x.1 then some x.1
  else if inRemoteRegion (x.1 + word (x.2 - 1)) then some 0xFFE0000000000000
  else none

/-- The end of the window that backs an address (R193). -/
def windowEnd (x : Word) : Word :=
  let o := x.toNat - 0xFF00000000000000
  if o < 2 ^ 17 then 0xFF00000000020000 else if o < 0x800000 then 0xFF00000000800000 else 0xFF00000014000000

/-- The first byte of a range in the window region that no window backs. -/
def badWindow (p : PartId) (c : CoreId) (x : Range) : Option Word :=
  if x.2 = 0 ∨ !inWindowRegion x.1 then none
  else
    match windowKey p c x.1 with
    | none => some x.1
    | some _ => if (windowEnd x.1 - x.1).toNat < x.2 then some (windowEnd x.1) else none

/-- The first bytes of a range in each 64 KiB page of translated memory, in ascending order. -/
def rangePages (x : Range) : List Word :=
  if x.2 = 0 then []
  else
    ((List.range ((x.1.toNat % 2 ^ 16 + x.2 + 2 ^ 16 - 1) / 2 ^ 16)).map
      (fun i => if i = 0 then x.1 else word ((x.1.toNat / 2 ^ 16 + i) * 2 ^ 16))).filter
        (fun a => !inWindowRegion a && !inRemoteRegion a)

def firstSome (f : Range → Option Word) : List Range → Option Word
  | [] => none
  | x :: l => match f x with
    | some a => some a
    | none => firstSome f l

/-- Pages checked in turn for a right; the leaves gathered, each once (R200, R287 check 4). DEDUCED (log 78). -/
def checkPages (r : TRef) (t : Thread) (need : BitVec 4) : List Word → List Leaf → State → Except Res (List Leaf × State)
  | [], acc, s => .ok (acc, s)
  | a :: l, acc, s =>
    if acc.any (fun x => x.covers (va57 a)) then checkPages r t need l acc s
    else
      match protect s r t need a with
      | .error e => .error e
      | .ok (x, s) => checkPages r t need l (acc ++ [x]) s

/-- Checks 2 to 4 of R287 on source and destination ranges, and the leaves they pass under. `align` is the multiple that `base` must
be (checked between 2 and 3). -/
def checkRanges (s : State) (r : TRef) (t : Thread) (src dst : List Range) (base : Word) (align : Nat) (remote : Bool) :
    Except Res (List Leaf × List Leaf × State) :=
  match firstSome badCanon (src ++ dst) with
  | some a => .error (.trap .address (some a) s)
  | none =>
    match (if remote then none else firstSome firstRemote (src ++ dst)) with
    | some a => .error (.trap .address (some a) s)
    | none =>
      if base.toNat % align ≠ 0 then .error (.trap .misaligned (some base) s)
      else
        match firstSome (badWindow r.part r.core) (src ++ dst) with
        | some a => .error (.trap .window (some a) s)
        | none =>
          match checkPages r t needR (src.flatMap rangePages) [] s with
          | .error e => .error e
          | .ok (a, s) =>
            match checkPages r t needW (dst.flatMap rangePages) [] s with
            | .error e => .error e
            | .ok (b, s) => .ok (a, b, s)

/-- Two ranges share a byte, modulo 2^64. DEDUCED (log 50). -/
def overlap (x y : Range) : Bool :=
  decide (0 < x.2) && decide (0 < y.2) && (decide ((y.1 - x.1).toNat < x.2) || decide ((x.1 - y.1).toNat < y.2))

/-- Reply time of a word whose check 4 takes a cycle for each page beyond the first (R287). -/
def pagesLat (n : Nat) : Nat := if n ≤ 1 then 0 else n + 6

/-! ## The three forms -/

/-- Bytes that a copy moves. -/
def CopyForm.total : CopyForm → Nat
  | .lin n => n
  | .rows _ _ n rlen => n * rlen
  | .gather cnt lsz => cnt * 2 ^ lsz

/-- The destination offset of a copy's byte number i. DESIGN CHOICE (log 48). -/
def CopyForm.dstOff (f : CopyForm) (i : Nat) : Nat :=
  match f with
  | .lin _ | .gather _ _ => i
  | .rows _ dstr _ rlen => i / rlen * (8 * dstr) + i % rlen

/-- The source offset of a copy's byte number i; a gather's sources stand in its table. -/
def CopyForm.srcOff (f : CopyForm) (i : Nat) : Nat :=
  match f with
  | .lin _ | .gather _ _ => i
  | .rows sstr _ _ rlen => i / rlen * (8 * sstr) + i % rlen

/-- Bytes of the beat that begins at byte number i: at most 64, within a row, or one element. DESIGN CHOICE (log 48). -/
def CopyForm.beat (f : CopyForm) (i : Nat) : Nat :=
  match f with
  | .lin n => Nat.min 64 (n - i)
  | .rows _ _ _ rlen => Nat.min 64 (rlen - i % rlen)
  | .gather _ lsz => 2 ^ lsz

/-- The form is one that its word accepts for the ranges it names (R288 to R290). DEDUCED (log 50). -/
def formOk (f : CopyForm) (x y : Word) : Bool :=
  match f with
  | .lin n => !overlap (y, n) (x, n)
  | .rows sstr dstr rows rlen =>
    !(decide (1 < rows) && decide (8 * dstr < rlen)) &&
    (rows == 0 || !overlap (y, 8 * sstr * (rows - 1) + rlen) (x, 8 * dstr * (rows - 1) + rlen))
  | .gather _ lsz => decide (lsz ≤ 6)

/-- The ranges that the issue of a copy checks: sources, destinations. DEDUCED (log 50). -/
def formRanges (f : CopyForm) (x y : Word) : List Range × List Range :=
  match f with
  | .lin n => ([(y, n)], [(x, n)])
  | .rows sstr dstr rows rlen =>
    ((List.range (if sstr = 0 then Nat.min rows 1 else rows)).map (fun r => (y + word (8 * r * sstr), rlen)),
     (List.range rows).map (fun r => (x + word (8 * r * dstr), rlen)))
  | .gather cnt lsz => ([(y, 8 * cnt)], [(x, cnt * 2 ^ lsz)])

/-! ## Streams (R270, R291) -/

def Thread.setStream (t : Thread) (i : SReg) (x : Stream) : Thread := { t with streams := t.streams.set i x }

/-- The stream of a copy, where its thread still stands with it. -/
def jobStream (s : State) (p : PartId) (c : CoreId) (j : CopyJob) : Option (TRef × SReg × Stream) :=
  match j.stream, s.thread ⟨p, c, j.slot⟩ with
  | some i, some t => if t.tid = j.tid then some (⟨p, c, j.slot⟩, i, t.streams[i]) else none
  | _, _ => none

/-- A copy's stream takes bytes, and ends with the last. -/
def streamTake (s : State) (p : PartId) (c : CoreId) (j : CopyJob) (bytes : List Byte) (last : Bool) : State :=
  match jobStream s p c j with
  | some (r, i, x) => s.modThread r (fun t => t.setStream i { x with buf := x.buf ++ bytes, ended := x.ended || last })
  | none => s

/-- A copy binds a stream register; the old binding ends, and its copy goes on without it (R291). -/
def bindStream (s : State) (r : TRef) (t : Thread) (i : SReg) (empty : Bool) : State :=
  (s.modCoreW r.part r.core (fun w => { w with
    copyQ := w.copyQ.map (fun j => if j.tid = t.tid ∧ j.stream = some i then { j with stream := none } else j) })).modThread r
      (fun t => t.setStream i { bound := true, ended := empty, buf := [] })

/-! ## CPY, CPY2, CPYG (R287 to R291) -/

/-- What is left of a reply time that counts from the bundle's issue, of a bundle that has waited since (R21). -/
def latLeft (s : State) (t : Thread) (n : Nat) : Nat := if t.prepared.isSome then t.issuedIn + n - s.cycle else n

/-- A copy whose checks have passed is enqueued: once the condition of FENCE.clu holds, and for a remote destination after the containment
point (R287 steps 2 to 4, R371). Until then the bundle keeps it. -/
def enqueueCopy (bind : Option SReg) (d : Reg) (remote : Bool) (lat : Nat) (j : CopyJob) (r : TRef) (t : Thread) (s : State) : Res :=
  let kept := s.modThread r (fun t => { t with prepared := some (.copy j) })
  fenced kept r t .clu (fun _ =>
    match (if remote then passPoint kept r t 3 else .ok kept) with
    | .error e => e
    | .ok s =>
      if 64 ≤ (s.core r.part r.core).w.copyQ.length then .wait .queue s else
      let seq := (s.core r.part r.core).w.copyNext % 2 ^ 21
      let id := jobId false r.core 0 seq
      let s := match bind with
        | some i => bindStream s r t i (j.form.total == 0)
        | none => s
      let s := s.modCoreW r.part r.core (fun w => { w with copyQ := w.copyQ ++ [{ j with seq := seq }], copyNext := (seq + 1) % 2 ^ 21 })
      let s := s.modThread r (fun t => { t with jobs := t.jobs ++ [(false, seq)] })
      .done { Commit.none with regs := [(d, id)], log := [.atom 18 d id], lat := lat } s)

/-- The address fault of a gather whose table lies in the remote region (R371). -/
def badTable (f : CopyForm) (y : Word) : Option Word :=
  match f with
  | .gather cnt _ => if inRemoteRegion y then some y else firstRemote (y, 8 * cnt)
  | .lin _ | .rows _ _ _ _ => none

/-- Step 1 of R287 once the shape of gd has been accepted: the checks of every address, and the copy that passes them. `align` is what gb
must be a multiple of. -/
def checkCopy (s : State) (r : TRef) (t : Thread) (bind : Option SReg) (x y : Word) (f : CopyForm) (align : Nat) :
    Except Res (CopyJob × State) :=
  let rg := formRanges f x y
  match firstSome badCanon (rg.1 ++ rg.2), badTable f y with
  | none, some a => .error (.trap .address (some a) s)
  | _, _ =>
    match checkRanges s r t rg.1 rg.2 y align true with
    | .error e => .error e
    | .ok (src, dst, s) =>
      .ok ({ seq := 0, form := f, dst := x, src := y, ctx := t.ctx, priv := t.priv, corr := t.corr, tid := t.tid, slot := r.slot,
             stream := if f.total = 0 then none else bind, pages := src ++ dst, pos := 0, placed := [], awaiting := 0,
             finished := f.total == 0 }, s)

/-- A copy word: the target fault on a bank core (R433), the full queue (R265), then the form's shape and the checks, made once (R287). -/
def copyWord (bind : Option SReg) (d : Reg) (a b : Src) (shape : Word → Option CopyForm) (align : Nat) (s : State) : Out :=
  runWord [a, b] (fun r t s =>
    let go (j : CopyJob) (s : State) : Res :=
      let rg := formRanges j.form j.dst j.src
      enqueueCopy bind d (firstSome firstRemote rg.2).isSome
        (latLeft s t (pagesLat ((rg.1 ++ rg.2).foldl (fun n z => n + (rangePages z).length) 0))) j r t s
    match t.prepared with
    | some (.copy j) => go j s
    | _ =>
      if (clusterOf r.core).isNone then .trap .target none s
      else if decide (64 ≤ (s.core r.part r.core).w.copyQ.length) then .wait .queue s
      else
        match shape (t.rdD d) with
        | none => .trap .copyShape none s
        | some f =>
          if formOk f (t.rd a) (t.rd b) then
            match checkCopy s r t bind (t.rd a) (t.rd b) f align with
            | .error e => e
            | .ok (j, s) => go j s
          else .trap .copyShape none s) s

/-- CPY (R288). -/
def execCpy (bind : Option SReg) (d : Reg) (a b : Src) (s : State) : Out :=
  copyWord bind d a b (fun v => if field v 32 32 = 0 then some (.lin v.toNat) else none) 1 s

/-- CPY2 (R289). -/
def execCpy2 (bind : Option SReg) (d : Reg) (a b : Src) (s : State) : Out :=
  copyWord bind d a b (fun v => some (.rows (field v 48 16) (field v 32 16) (field v 16 16) (field v 0 16))) 1 s

/-- CPYG (R290). -/
def execCpyg (bind : Option SReg) (d : Reg) (a b : Src) (s : State) : Out :=
  copyWord bind d a b (fun v =>
    if field v 32 32 ≠ 0 ∨ field v 3 13 ≠ 0 ∨ field v 0 3 = 7 then none else some (.gather (field v 16 16) (field v 0 3))) 8 s

/-! ## SRD and VSRD (R178, R292) -/

/-- The next n bytes of a stream, as SRD and VSRD take them. -/
def streamNext (i : SReg) (n : Nat) (r : TRef) (t : Thread) (s : State) (go : Nat → State → Res) : Res :=
  let x := t.streams[i]
  if !x.bound then .trap .stream none s
  else if x.buf.length < n ∧ !x.ended then .wait (.stream i n) s
  else if x.buf.isEmpty then .trap .stream none s
  else go (memRead ((x.buf.take n).mapIdx (fun k b => (k, b))) 0 n) (s.modThread r (fun t => t.setStream i { x with buf := x.buf.drop n }))

/-- SRD (R292). -/
def execSrd (ty : LdType) (d : Reg) (a : SReg) (s : State) : Out :=
  runWord [] (fun r t s =>
    streamNext a ty.bytes r t s (fun v s =>
      .done { Commit.none with regs := [(d, ty.extend v)], log := [.load d (sizeCode ty.bytes) (ty.extend v)] } s)) s

/-- VSRD (R178): 64 bytes as the elements of its type, lane 0 first. -/
def execVsrd (_ty : VType) (d : VReg) (a : SReg) (s : State) : Out :=
  runWord [] (fun r t s => streamNext a 64 r t s (fun v s => .done (vecCommit d (BitVec.ofNat 512 v)) s)) s

/-! ## Beats (R266, R269, R280, R371) -/

/-- How the reading or writing of a beat ends. -/
inductive Beat where
  | ok (bytes : List Byte) (s : State)
  | fail (cause : Nat) (s : State)
  /-- a gather element whose address fails its checks (R290) -/
  | skip (s : State)
  | later (s : State)

/-- The leaf under which a copy passed its checks (R287). DEDUCED (log 78). -/
def jobLeaf (j : CopyJob) (x : Word) : Option Leaf := j.pages.find? (fun l => l.covers (va57 x))

/-- The leaf of a gather's source address under its thread's context (R290). -/
def gatherLeaf (s : State) (p : PartId) (j : CopyJob) (x : Word) : Option Leaf :=
  match walkPage s p x with
  | .leaf l =>
    if rightsOf (domainEntry s p l.dom).1 l.dom (rightsNibble s p j.ctx.toNat l.dom) j.priv &&& needR == needR then some l else none
  | _ => none

/-- A request that the copy unit sends on BLK (R371). -/
def beatReq (s : State) (p : PartId) (c : CoreId) (j : CopyJob) (x : Word) (op : RemoteOp) : RemoteReq :=
  { srcMod := s.modid, src := ⟨p, c, j.slot⟩, srcTid := 0, modid := x.extractLsb' 36 16, dst := (x.extractLsb' 32 4).toFin,
    off := x.extractLsb' 0 32, corr := j.corr, op := op }

/-- A BLK packet counted at its sender (R385). -/
def blkSends (s : State) (p : PartId) (q : RemoteReq) : State :=
  let k := peerKey q.modid q.dst
  s.modPart p (fun x => { x with snap := { x.snap with blkSent := kput x.snap.blkSent k ((kget x.snap.blkSent k).getD 0 + 1) } })

/-- A remote beat (R371): performed by a partition of this module; read from or written to another module through the port, whose memory
and whose error replies are outside the model. DESIGN CHOICE (log 11). -/
def remoteBeat (s : State) (p : PartId) (q : RemoteReq) (bad : Nat) : Beat :=
  if q.modid = s.modid then
    match (if fromPeer s s.modid p q.dst then takeInput s q.dst (peerKey s.modid p) .blk (reqColour q) (.remoteRequest q)
           else some s) with
    | none => .later s
    | some s' =>
      match remotePerform s q with
      | .later s => .later s
      | .reply _ _ | .data _ _ | .error _ | .listed _ =>
        match remotePerform (blkCounted (blkSends s' p q) q) q with
        | .data bytes s => .ok bytes s
        | .reply _ s | .listed s => .ok [] s
        | .error s => .fail bad s
        | .later s => .later s
  else if !linked (s.part p) q.modid q.dst then .fail bad s
  else
    let s' : State := { blkSends s p q with free := s.free + 1, portOut := s.portOut ++ [.request q] }
    if Config.beatRefused s.free then .fail bad s'
    else
      match q.op with
      | .beatRead n _ => .ok ((List.range n).map (fun i => Config.remoteByte (s'.free + i))) { s' with free := s'.free + n }
      | _ => .ok [] s'

/-- Bytes of one line, or of one window, read for a copy. -/
def readChunk (s : State) (p : PartId) (c : CoreId) (j : CopyJob) (leaf : Option Leaf) (x : Word) (n : Nat) : Beat :=
  if inWindowRegion x then
    match windowKey p c x with
    | some (k, _) => if windowPoisoned s (k / 8 * 8) (k % 8 + n) then .fail 1 s else .ok (memBytes s.mem k n) (s.sramAt p k)
    | none => .fail 1 s
  else
    match leaf with
    | none => .fail 1 s
    | some l =>
      let poisoned := s.linePoisoned (keyMain p (l.phys (va57 x)))
      match reachRead s p l (va57 x) n j.corr with
      | .held s => .later s
      | .poisoned s => .fail (if poisoned then 2 else 1) s
      | .ok s => .ok (memBytes s.mem (keyMain p (l.phys (va57 x))) n) s

/-- Bytes of the first piece of `n` bytes from an address on: those of its line, or all of them where one remote partition holds them, which
travel as one request (R368, R371). -/
def pieceLen (x : Word) (n : Nat) : Nat :=
  let m := Nat.min n (128 - x.toNat % 128)
  if m < n && inRemoteRegion x && x.toNat / 2 ^ 32 == (x + word m).toNat / 2 ^ 32 then n else m

/-- One piece of a copy's source. -/
def readPiece (s : State) (p : PartId) (c : CoreId) (j : CopyJob) (leaf : Option Leaf) (x : Word) (n : Nat) : Beat :=
  if inRemoteRegion x then remoteBeat s p (beatReq s p c j x (.beatRead n (blkColour (s.part p)))) 3 else readChunk s p c j leaf x n

/-- Bytes of a copy's source: at most two pieces. -/
def readSource (s : State) (p : PartId) (c : CoreId) (j : CopyJob) (leaf : Word → Option Leaf) (x : Word) (n : Nat) : Beat :=
  let m := pieceLen x n
  match readPiece s p c j (leaf x) x m with
  | .ok a s' =>
    if m = n then .ok a s'
    else
      match readPiece s' p c j (leaf (x + word m)) (x + word m) (n - m) with
      | .ok b s => .ok (a ++ b) s
      | .later _ => .later s
      | z => z
  | z => z

/-- The source of the beat at the copy's position. -/
def readBeat (s : State) (p : PartId) (c : CoreId) (j : CopyJob) : Beat :=
  match j.form with
  | .lin _ | .rows _ _ _ _ => readSource s p c j (jobLeaf j) (j.src + word (j.form.srcOff j.pos)) (j.form.beat j.pos)
  | .gather _ lsz =>
    let n := 2 ^ lsz
    let at_ := j.src + word (8 * (j.pos / n))
    match readSource s p c j (jobLeaf j) at_ 8 with
    | .ok bytes s =>
      let x := word (memRead (bytes.mapIdx (fun k b => (k, b))) 0 8)
      if !canonical x || x.toNat % n != 0 || (badWindow p c (x, n)).isSome then .skip s
      else if inWindowRegion x || inRemoteRegion x then readSource s p c j (fun _ => none) x n
      else
        match gatherLeaf s p j x with
        | none => .skip (listTable s p x)
        | some l => readSource s p c j (fun _ => some l) x n
    | z => z

/-- Whether a word of the destination (its address divided by 8) receives no byte after byte number i - 1 of the copy. DEDUCED (log 49). -/
def wordClosed (j : CopyJob) (i w : Nat) : Bool :=
  decide (j.form.total ≤ i) || (j.dst + word (j.form.dstOff i)).toNat / 8 != w

/-- Words of a destination range, by address divided by 8. -/
def rangeWords (x : Word) (n : Nat) : List Nat := (List.range ((x.toNat % 8 + n + 7) / 8)).map (fun i => x.toNat / 8 + i)

/-- The key of a destination byte inside the partition. -/
def dstKey (p : PartId) (c : CoreId) (j : CopyJob) (x : Word) : Option Nat :=
  if inWindowRegion x then (windowKey p c x).map (fun k => k.1)
  else (jobLeaf j x).map (fun l => keyMain p (l.phys (va57 x)))

/-- Bytes of one line, or of one window, written by a copy. -/
def writeChunk (s : State) (p : PartId) (c : CoreId) (j : CopyJob) (x : Word) (bytes : List Byte) : Beat :=
  if inWindowRegion x then
    match windowKey p c x with
    | some (k, _) =>
      .ok bytes ((rangeWords x bytes.length).foldl (fun s w =>
        if x.toNat ≤ 8 * w ∧ 8 * w + 8 ≤ x.toNat + bytes.length then s.unpoisonWord (k + (8 * w - x.toNat)) else s)
        ((s.sramAt p k).writeMemBytes k bytes))
    | none => .fail 5 s
  else
    match jobLeaf j x with
    | none => .fail 5 s
    | some l =>
      match reachWrite s p l (va57 x) (.copy c j.seq) with
      | .held s => .later s
      | .poisoned s => .fail 5 s
      | .ok s => .ok bytes (s.writeMemBytes (keyMain p (l.phys (va57 x))) bytes)

/-- A copy's job in its queue changed. -/
def modJob (s : State) (p : PartId) (c : CoreId) (seq : Nat) (f : CopyJob → CopyJob) : State :=
  s.modCoreW p c (fun w => { w with copyQ := w.copyQ.map (fun j => if j.seq = seq then f j else j) })

/-- The words of a piece that was written are marked as placed, but for those that a failed or skipped beat has left. DEDUCED (log 49). -/
def markPlaced (m : KMap (BitVec 8)) (x : Word) (n : Nat) : KMap (BitVec 8) :=
  (rangeWords x n).foldl (fun m w => if kget m w = some 2 then m else kput m w 1) m

/-- The words of bytes that a failed or skipped beat leaves keep their full bits (R280, R290). -/
def markLeft (m : KMap (BitVec 8)) (x : Word) (n : Nat) : KMap (BitVec 8) := (rangeWords x n).foldl (fun m w => kput m w 2) m

/-- Words that are placed and get no further byte become full, as STF makes them, once every byte has been written (R150, R241, R269).
DEDUCED (log 49). -/
def closeWords (s : State) (p : PartId) (c : CoreId) (j : CopyJob) (i : Nat) : State :=
  let done := j.placed.filter (fun e => e.2 == 1 && wordClosed j i e.1)
  let s := done.foldl (fun s e =>
    match dstKey p c j (word (8 * e.1)) with
    | some k => fillWord s p k
    | none => s) s
  modJob s p c j.seq (fun x => { x with placed := j.placed.filter (fun e => !wordClosed j i e.1) })

/-- The destination bytes from offset `o` of the beat at the copy's position stay as they are. -/
def leaveBytes (s : State) (p : PartId) (c : CoreId) (j : CopyJob) (o n : Nat) : State :=
  modJob s p c j.seq (fun x => { x with placed := markLeft x.placed (j.dst + word (j.form.dstOff j.pos + o)) n })

/-- A failed beat (R280, R291, R371): CPYST records the first, a record is posted, and the stream delivers nothing beyond. DEDUCED (log 75). -/
def failBeat (s : State) (p : PartId) (c : CoreId) (j : CopyJob) (cause : Nat) : State :=
  let id := jobId false c 0 j.seq
  let s := (s.modCoreW p c (fun w =>
    if bit w.cpyst 63 then w else { w with cpyst := word (2 ^ 63 + cause * 2 ^ 32) ||| id })).hwSet p c .cpyst 63
  let s := postRecord s p { TrapRec.none with
    code := 0x045, cls := 2, ctx := j.ctx, core := c.val, slot := j.slot.val, tid := j.tid, corr := j.corr, d0 := id, d1 := word cause }
  modJob (streamTake s p c j [] true) p c j.seq (fun x => { x with stream := none })

/-- A skipped element (R290, R291). -/
def skipBeat (s : State) (p : PartId) (c : CoreId) (j : CopyJob) : State :=
  let e := match j.form with
    | .gather _ lsz => j.pos / 2 ^ lsz
    | .lin _ | .rows _ _ _ _ => 0
  let s := postRecord s p { TrapRec.none with
    code := 0x044, cls := 2, ctx := j.ctx, core := c.val, slot := j.slot.val, tid := j.tid, corr := j.corr,
    d0 := jobId false c 0 j.seq, d1 := word e }
  modJob (streamTake s p c j [] true) p c j.seq (fun x => { x with stream := none })

/-- The copy's position moves past a beat of n bytes. -/
def passBeat (s : State) (p : PartId) (c : CoreId) (j : CopyJob) (n : Nat) : State :=
  let i := j.pos + n
  let last := decide (j.form.total ≤ i)
  match (s.core p c).w.copyQ.find? (fun x => x.seq == j.seq) with
  | none => s
  | some x =>
    let s := closeWords s p c x i
    modJob (if last then streamTake s p c x [] true else s) p c j.seq (fun x => { x with pos := i, finished := last })

/-- The words of a remote piece whose bits it sets: offsets from its first byte. -/
def remoteFills (j : CopyJob) (x : Word) (n i : Nat) : List Nat :=
  ((rangeWords x n).filter (fun w => wordClosed j i w && kget j.placed w != some 2)).map (fun w => if 8 * w < x.toNat then 0 else 8 * w - x.toNat)

/-- One piece of a beat's destination written; `i` is the byte number after the beat. -/
def writePiece (s : State) (p : PartId) (c : CoreId) (j : CopyJob) (x : Word) (bytes : List Byte) (i : Nat) : Beat :=
  if inRemoteRegion x then
    remoteBeat s p (beatReq s p c j x (.beatWrite bytes (remoteFills j x bytes.length i) (blkColour (s.part p)))) 4
  else writeChunk s p c j x bytes

/-- The bytes from offset `o` of the beat at the copy's position, as one piece, placed or failed: the cause of a failure, or none where the
piece waits. -/
def placePiece (s : State) (p : PartId) (c : CoreId) (j : CopyJob) (o : Nat) (bytes : List Byte) (i : Nat) : Option (Option Nat × State) :=
  let x := j.dst + word (j.form.dstOff j.pos + o)
  match writePiece s p c j x bytes i with
  | .later _ => none
  | .fail k s => some (some k, leaveBytes s p c j o bytes.length)
  | .ok _ s | .skip s => some (none, modJob s p c j.seq (fun z => { z with placed := markPlaced z.placed x bytes.length }))

/-- The beat of n bytes is over: the bytes written before the first that failed go to the stream, and a failure is recorded (R280, R291,
R371). -/
def beatOver (s : State) (p : PartId) (c : CoreId) (j : CopyJob) (n : Nat) (written : List Byte) (bad : Option Nat) : State :=
  let s := streamTake s p c j written false
  passBeat (match bad with
    | some k => failBeat s p c j k
    | none => s) p c j n

/-- The destination of the beat written: a piece that cannot be written fails the beat and leaves its bytes (R212, R371). -/
def writeBeat (s : State) (p : PartId) (c : CoreId) (j : CopyJob) (bytes : List Byte) : Option State :=
  let n := bytes.length
  let m := pieceLen (j.dst + word (j.form.dstOff j.pos)) n
  match placePiece s p c j 0 (bytes.take m) (j.pos + n) with
  | none => none
  | some (k, s) =>
    let written (k' : Option Nat) : List Byte := if k.isSome then [] else if k'.isSome then bytes.take m else bytes
    if m = n then some (beatOver s p c j n (written none) k)
    else (placePiece s p c j m (bytes.drop m) (j.pos + n)).map (fun z => beatOver z.2 p c j n (written z.1) (k.or z.1))

/-- A beat that is held waits in the order of its page (R389, R395). -/
def beatHeld (s : State) (p : PartId) (c : CoreId) (j : CopyJob) : State :=
  let x := j.dst + word (j.form.dstOff j.pos)
  [x, x + word (j.form.beat j.pos - 1)].foldl (fun s a =>
    if inWindowRegion a then s
    else
      match jobLeaf j a with
      | some l => (pageWait s p l (.copy c j.seq)).getD s
      | none => s) s

/-- The beat at the head of a core's copy queue moved (R266, R269). -/
def moveBeat (s : State) (p : PartId) (c : CoreId) (j : CopyJob) : State :=
  let n := j.form.beat j.pos
  match readBeat s p c j with
  | .later s => s
  | .fail k s => passBeat (failBeat (leaveBytes s p c j 0 n) p c j k) p c j n
  | .skip s => passBeat (skipBeat (leaveBytes s p c j 0 n) p c j) p c j n
  | .ok bytes s' =>
    match writeBeat s' p c j bytes with
    | some s => s.count p c 11 none 1
    | none => beatHeld s p c j

/-- The first source address of the beat at a copy's position; a gather's stands in its table. -/
def beatSource (s : State) (p : PartId) (c : CoreId) (j : CopyJob) : Option Word :=
  match j.form with
  | .lin _ | .rows _ _ _ _ => some (j.src + word (j.form.srcOff j.pos))
  | .gather _ lsz =>
    match readSource s p c j (jobLeaf j) (j.src + word (8 * (j.pos / 2 ^ lsz))) 8 with
    | .ok bytes _ => some (word (memRead (bytes.mapIdx (fun k b => (k, b))) 0 8))
    | .fail _ _ | .skip _ | .later _ => none

/-- The remote addresses that the beat at a copy's position reads, and those that it writes (R371). -/
def beatRemotes (s : State) (p : PartId) (c : CoreId) (j : CopyJob) : List Word × List Word :=
  let n := j.form.beat j.pos
  let dst := j.dst + word (j.form.dstOff j.pos)
  ((match beatSource s p c j with
    | some a => [a, a + word (n - 1)]
    | none => []).filter inRemoteRegion, [dst, dst + word (n - 1)].filter inRemoteRegion)

/-- The banks of the cluster's scratchpad that n bytes from an address on lie in. -/
def rangeBanks (p : PartId) (c : CoreId) (x : Word) (n : Nat) : List Nat :=
  if inWindowRegion x then
    match windowKey p c x with
    | some (k, _) => if k / 2 ^ 48 % 4 = 2 then banksOf k n else []
    | none => []
  else []

/-- The banks of the cluster's scratchpad that the beat at a copy's position reads and writes (R195, R276). -/
def beatBanks (s : State) (p : PartId) (c : CoreId) (j : CopyJob) : List Nat :=
  let n := j.form.beat j.pos
  (((match j.form with
     | .lin _ | .rows _ _ _ _ => []
     | .gather _ lsz => rangeBanks p c (j.src + word (8 * (j.pos / 2 ^ lsz))) 8) ++
    (match beatSource s p c j with
     | some a => rangeBanks p c a n
     | none => [])) ++ rangeBanks p c (j.dst + word (j.form.dstOff j.pos)) n).eraseDups

/-- A core's head copy has a beat ready: bytes left, and room in its stream (R266, R270). -/
def copyReady (s : State) (p : PartId) (c : CoreId) : Option CopyJob :=
  match (s.core p c).w.copyQ with
  | j :: _ =>
    if j.finished then none
    else
      match jobStream s p c j with
      | some (_, _, x) => if x.buf.length + j.form.beat j.pos ≤ 256 then some j else none
      | none => some j
  | [] => none

/-- The eight cores of a cluster from the one after index `last` on (R266, R267). -/
def roundRobin (k : ClusterId) (last : Nat) : List CoreId :=
  (List.range 8).map (fun i => coreOfCluster k ⟨(last + 1 + i) % 8, Nat.mod_lt _ (by decide)⟩)

/-- The beat of a core's head copy moved, where it still has one ready. -/
def coreBeat (s : State) (p : PartId) (c : CoreId) : State :=
  match copyReady s p c with
  | some j => moveBeat s p c j
  | none => s

/-- COPY_BEAT: the copy unit of a cluster takes the next core in turn and moves a beat (R266), once the scratchpad's banks that the beat needs
have served it (R276). DESIGN CHOICE (log 28). -/
def execCopyBeat (p : PartId) (k : ClusterId) (s : State) : Out :=
  match (s.cluster p k).w.copyDue with
  | some (c, n) =>
    .next (if s.cycle < n then s else coreBeat (s.modClusterW p k (fun w => { w with copyDue := none })) p c)
  | none =>
    match (roundRobin k (s.cluster p k).w.copyLast).find? (fun c => (copyReady s p c).isSome) with
    | none => .next s
    | some c =>
      let bs := ((copyReady s p c).map (beatBanks s p c)).getD []
      let n := bankWait (s.cluster p k).w bs
      let s := s.modClusterW p k (fun w => { joinBanks w bs s.cycle with
        copyLast := c.val % 8, copyDue := if n = 0 then none else some (c, s.cycle + n) })
      .next (if n = 0 then coreBeat s p c else s)

/-- COPY_COMPLETE: the oldest copy of a core completes, every write of it performed (R266, R285). -/
def execCopyComplete (p : PartId) (c : CoreId) (s : State) : Out :=
  match (s.core p c).w.copyQ with
  | j :: rest =>
    .next (if j.finished then s.modCoreW p c (fun w => { w with copyQ := rest, copyDone := (j.seq + 1) % 2 ^ 21 }) else s)
  | [] => .next s

end Sys2Proof.Machine
end

