-- ==== Sys2Proof/Machine/Matrix.lean ====
section
/-! DEFINITION. Rings, accumulator slots and the matrix engine (05 R71 to R73, R77 to R80, 17 R267, R271 to R283, 18 R293 to R301). -/
namespace Sys2Proof.Machine

/-! ## Rings (R271, R272, R293 to R295) -/

/-- The container width that a shape's format selector fixes; the narrow selectors fix none (R271). -/
def selectorWidth (fmt : Nat) : Option Nat :=
  match fmt with
  | 0 => some 32
  | 1 | 2 => some 16
  | _ => none

/-- The first scratchpad offset beyond a ring's last element, for containers of w bits (R271). -/
def shapeEnd (x : Shape) (w : Nat) : Nat :=
  x.base + (x.slots - 1) * x.tstr + (x.rows - 1) * x.rstr + ((x.cols - 1) * x.estr * w / 8 + (w + 7) / 8)

/-- The shape of a record's four words, where R271 holds it valid. -/
def shapeOf (w0 w1 w2 w3 : Word) : Option Shape :=
  let x : Shape :=
    { slots := field w0 32 8, base := field w0 0 22, tstr := field w1 0 23, rstr := field w2 0 23, fmt := field w3 40 3,
      estr := field w3 32 4, cols := field w3 16 11, rows := field w3 0 11 }
  let reserved := field w0 40 24 == 0 && field w0 22 10 == 0 && field w1 23 41 == 0 && field w2 23 41 == 0 && field w3 43 21 == 0 &&
    field w3 36 4 == 0 && field w3 27 5 == 0 && field w3 11 5 == 0
  let ranges := decide (1 ≤ x.slots) && decide (x.fmt ≤ 5) && decide (1 ≤ x.estr) && decide (1 ≤ x.cols) && decide (x.cols ≤ 1024) &&
    decide (1 ≤ x.rows) && decide (x.rows ≤ 1024)
  let place := match selectorWidth x.fmt with
    | some w => x.base % (w / 8) == 0 && x.tstr % (w / 8) == 0 && x.rstr % (w / 8) == 0 && decide (shapeEnd x w ≤ 2 ^ 22)
    | none => true
  if reserved && ranges && place then some x else none

def ringOf (w : ClusterWorld) (i : RingId) : Ring := w.rings[i]
def State.ring (s : State) (p : PartId) (k : ClusterId) (i : RingId) : Ring := ringOf (s.cluster p k).w i
def State.setRing (s : State) (p : PartId) (k : ClusterId) (i : RingId) (x : Ring) : State :=
  s.modClusterW p k (fun w => { w with rings := w.rings.set i x })

/-- A job names a ring. -/
def MxJob.names (j : MxJob) (i : RingId) : Bool := j.a.ring == i || j.b.ring == i

/-- The queued jobs of a cluster that name a ring (R272). -/
def ringJobs (s : State) (p : PartId) (k : ClusterId) (i : RingId) : Nat :=
  (clusterCores k).foldl (fun n c => n + ((s.core p c).w.mxQ.filter (fun e => match e with
    | .job j => j.names i
    | .zero _ _ _ | .store _ _ _ _ _ _ => false)).length) 0

/-- The four loads of a shape record checked (R293). -/
def checkRecord (s : State) (r : TRef) (t : Thread) (x : Word) : List Nat → Except Res (List (Word × Place) × State)
  | [] => .ok ([], s)
  | i :: l =>
    match checkRecord s r t x l with
    | .error e => .error e
    | .ok (ps, s) =>
      match checkAccess s r t needR (x + word (8 * i)) 8 false with
      | .error e => .error e
      | .ok (pl, s) => .ok (ps ++ [(x + word (8 * i), pl)], s)

/-- The four words of a shape record read. -/
def readRecord (r : TRef) (t : Thread) : List (Word × Place) → State → Except Res (List Word × Nat × State)
  | [], s => .ok ([], 0, s)
  | (x, pl) :: l, s =>
    match readPlace s r t x 8 pl with
    | .error e => .error e
    | .ok (a, s) =>
      match readRecord r t l s with
      | .error e => .error e
      | .ok (ws, lat, s) => .ok (s.readMem a.key 8 :: ws, Nat.max a.lat lat, s)

/-- The pages of checked places. -/
def placePages (ps : List (Word × Place)) : List Leaf :=
  ps.filterMap (fun x => match x.2 with
    | .mem l => some l
    | .window _ _ | .remote => none)

/-- The place of a word of a shape record whose pages were checked at issue. -/
def keptPlace (r : TRef) (pages : List Leaf) (x : Word) : Place :=
  if inWindowRegion x then ((windowKey r.part r.core x).map (fun k => Place.window k.1 k.2)).getD .remote
  else ((pages.find? (fun l => l.covers (va57 x))).map Place.mem).getD .remote

/-- The record of a checked RNGI is read once no queued job names the ring, and bound (R293); until then the bundle keeps its pages. -/
def bindRing (ring : RingId) (k : ClusterId) (x : Word) (pages : List Leaf) (r : TRef) (t : Thread) (s : State) : Res :=
  let s := s.modThread r (fun t => { t with prepared := some (.shape pages) })
  if ringJobs s r.part k ring ≠ 0 then .wait (.ringFree ring) s
  else
    match readRecord r t ([0, 1, 2, 3].map (fun i => (x + word (8 * i), keptPlace r pages (x + word (8 * i))))) s with
    | .error e => e
    | .ok ([w0, w1, w2, w3], lat, s) =>
      match shapeOf w0 w1 w2 w3 with
      | none => .trap .shape (some x) s
      | some sh => .done (Commit.none.late lat) (s.setRing r.part k ring { shape := some sh, head := 0, count := 0 })
    | .ok (_, _, s) => .trap .shape (some x) s

/-- RNGI (R293): its checks are made once, at issue. -/
def execRngi (ring : RingId) (a : Src) (s : State) : Out :=
  runWord [a] (fun r t s =>
    match clusterOf r.core with
    | none => .trap .target none s
    | some k =>
      match t.prepared with
      | some (.shape pages) => bindRing ring k (t.rd a) pages r t s
      | _ =>
        match checkRecord s r t (t.rd a) [3, 2, 1, 0] with
        | .error e => e
        | .ok (ps, s) => bindRing ring k (t.rd a) (placePages ps) r t s) s

/-- RNGA (R294): a fence, then the tiles. -/
def execRnga (ring : RingId) (a : Src) (s : State) : Out :=
  runWord [a] (fun r t s =>
    match clusterOf r.core with
    | none => .trap .target none s
    | some k =>
      fenced s r t .clu (fun _ =>
        let x := s.ring r.part k ring
        match x.shape with
        | none => .trap .ring none s
        | some sh =>
          let n := x.count + (t.rd a).toNat
          if sh.slots < n then .trap .ring none s else .done Commit.none (s.setRing r.part k ring { x with count := n }))) s

/-- The word that RNGQ returns (R295). -/
def ringWord (x : Ring) (jobs : Nat) : Word :=
  match x.shape with
  | none => 0
  | some sh => word (2 ^ 40 + jobs % 256 * 2 ^ 32 + sh.slots % 256 * 2 ^ 24 + x.count % 256 * 2 ^ 8 + x.head % 256)

/-- RNGQ (R295): the reply comes after 10 cycles. -/
def execRngq (d : Reg) (ring : RingId) (s : State) : Out :=
  runWord [] (fun r _ s =>
    match clusterOf r.core with
    | none => .trap .target none s
    | some k => .done ((Commit.reg d (ringWord (s.ring r.part k ring) (ringJobs s r.part k ring))).late 10) s) s

/-! ## Accumulator slots (R278) -/

/-- The slot number in its cluster of acc S of a core. -/
def accIndex (c : CoreId) (slot : Fin 2) : Nat := 2 * (c.val % 8) + slot.val

/-- STATE of ACCST (R283). -/
def AccSlot.state (a : AccSlot) : Nat := if a.poisoned then 3 else if a.orphaned then 2 else if a.pend ≠ 0 then 1 else 0

/-- An enqueue tags the slot (R278). -/
def tagSlot (s : State) (p : PartId) (k : ClusterId) (i tid : Nat) : State :=
  s.modAcc p k i (fun a => { a with tid := tid, tagged := true, exited := false, pend := a.pend + 1 })

/-- A slot reclaimed, as MXR and ACCRCL do (R283, R301). DEDUCED (log 44). -/
def AccSlot.reclaimed (a : AccSlot) : AccSlot := { a with tagged := false, exited := false, orphaned := false, poisoned := false, reclaim := false }

/-- An entry of the slot has completed: with the last, the slot is idle: reclaimed where an ACCRCL waits (R283), orphaned where its core has
failed (R282), and untagged where its thread has retired by EXIT (R278). DEDUCED (log 43). -/
def entryDone (s : State) (p : PartId) (k : ClusterId) (c : CoreId) (i : Nat) : State :=
  let failed := (s.core p c).c.failed
  s.modAcc p k i (fun a =>
    let a := { a with pend := a.pend - 1 }
    if a.pend ≠ 0 then a
    else if a.reclaim then a.reclaimed
    else if failed && a.tagged then { a with orphaned := true }
    else if a.orphaned then a
    else if a.exited then { a with tagged := false, exited := false }
    else a)

/-! ## MXQ, MXZ, MXST, MXR (R297 to R301) -/

/-- The scale bytes of every slot of a ring lie in the scratchpad window (R277). -/
def scalesOk (x : Word) (slots kk : Nat) : Bool :=
  decide (0xFF00000000400000 ≤ x.toNat) && decide (x.toNat + slots * 64 * ((kk + 31) / 32) ≤ 0xFF00000000800000)

/-- An operand of an MXQ: its format and, where SCALED, its scales; none for the format-descriptor fault (R71, R277, R297). -/
def mxOperand (t : Thread) (ring : RingId) (sh : Shape) (scaleBase : Word) (kk : Nat) : Option Operand :=
  match selectFmt t sh.fmt with
  | none => none
  | some (.nf d) =>
    match nfOf d with
    | none => none
    | some n =>
      if n.scaled then
        (if scalesOk scaleBase sh.slots kk then some { ring := ring, shape := sh, fmt := .nf d, scale := some scaleBase } else none)
      else some { ring := ring, shape := sh, fmt := .nf d, scale := none }
  | some f => some { ring := ring, shape := sh, fmt := f, scale := none }

/-- The class of a format by R77's order of width: its group length. -/
def NumFmt.group (f : NumFmt) : Nat :=
  match f with
  | .f32 => 1
  | .f16 | .bf16 => 4
  | .nf _ => if f.container = 4 then 32 else 16

/-- G: the wider of the two formats decides (R77). -/
def groupLen (a b : NumFmt) : Nat := Nat.min a.group b.group

/-- A narrow ring's 4 MiB bound with its descriptor's containers (R271, R297). -/
def narrowFits (o : Operand) : Bool :=
  match o.fmt with
  | .nf _ => decide (shapeEnd o.shape o.fmt.container ≤ 2 ^ 22)
  | .f32 | .f16 | .bf16 => true

/-- The shapes of a job agree (R274, R297). -/
def shapesOk (a b : Operand) : Bool :=
  decide (a.shape.rows ≤ 64) && decide (b.shape.cols ≤ 64) && b.shape.rows == a.shape.cols &&
  decide (a.shape.cols ≤ 32 * groupLen a.fmt b.fmt)

/-- The matrix queue of the core is full (R265). -/
def mxFull (w : CoreWorld) : Bool := decide (16 ≤ w.mxQ.length)

/-- A matrix entry whose checks have passed is enqueued once the condition of FENCE.clu holds, and its slot tagged (R278, R297, R300). Until
then the bundle keeps it. -/
def enqueueMatrix (e : MxEntry) (i : Nat) (k : ClusterId) (r : TRef) (t : Thread) (s : State) (go : State → Res) : Res :=
  let kept := s.modThread r (fun t => { t with prepared := some (.matrix e) })
  fenced kept r t .clu (fun _ =>
    if mxFull (kept.core r.part r.core).w then .wait .queue kept
    else go (tagSlot (kept.modCoreW r.part r.core (fun w => { w with mxQ := w.mxQ ++ [e] })) r.part k i t.tid))

/-- The checks of an MXQ on its rings: their shapes, formats, scales and bounds (R297). -/
def mxOperands (s : State) (p : PartId) (k : ClusterId) (t : Thread) (ra rb : RingId) : Except Cause (Operand × Operand) :=
  match (s.ring p k ra).shape, (s.ring p k rb).shape with
  | some sa, some sb =>
    match mxOperand t ra sa t.xa sa.cols, mxOperand t rb sb t.xb sb.rows with
    | some oa, some ob => if !narrowFits oa || !narrowFits ob || !shapesOk oa ob then .error .matrixShape else .ok (oa, ob)
    | _, _ => .error .format
  | _, _ => .error .ring

/-- The job takes its SEQ and enters the queue, with the shapes bound at its issue (R272, R297). -/
def enqueueJob (j : MxJob) (d : Reg) (k : ClusterId) (r : TRef) (t : Thread) (s : State) : Res :=
  let seq := (s.core r.part r.core).w.mxNext % 2 ^ 21
  let id := jobId true r.core j.slot seq
  enqueueMatrix (.job { j with seq := seq }) (2 * (r.core.val % 8) + j.slot) k r t s (fun s =>
    let s := s.modCoreW r.part r.core (fun w => { w with mxNext := (seq + 1) % 2 ^ 21 })
    .done { Commit.none with regs := [(d, id)], log := [.atom 18 d id] }
      (s.modThread r (fun t => { t with jobs := t.jobs ++ [(true, seq)] })))

/-- MXQ (R297). -/
def execMxq (slot : Fin 2) (sr : Semiring) (na nb az : Bool) (pop : Pop) (d : Reg) (ra rb : RingId) (s : State) : Out :=
  runWord [] (fun r t s =>
    match clusterOf r.core with
    | none => .trap .target none s
    | some k =>
      match t.prepared with
      | some (.matrix (.job j)) => enqueueJob j d k r t s
      | _ =>
        let acc := s.acc r.part k (accIndex r.core slot)
        if mxFull (s.core r.part r.core).w then .wait .queue s
        else if acc.orphaned && !acc.poisoned then .trap .slotParked none s
        else if acc.poisoned then .trap .slotPoisoned none s
        else
          match mxOperands s r.part k t ra rb with
          | .error c => .trap c none s
          | .ok o =>
            enqueueJob
              { seq := 0, slot := slot.val, sr := sr, na := na, nb := nb, az := az, pop := pop, a := o.1, b := o.2, tid := t.tid,
                corr := t.corr, ctx := t.ctx } d k r t s) s

/-- MXZ (R299). -/
def execMxz (slot : Fin 2) (s : State) : Out :=
  runWord [] (fun r t s =>
    match clusterOf r.core with
    | none => .trap .target none s
    | some k =>
      let i := accIndex r.core slot
      let acc := s.acc r.part k i
      if mxFull (s.core r.part r.core).w then .wait .queue s
      else if acc.poisoned then .trap .slotPoisoned none s
      else if acc.orphaned then .trap .slotParked none s
      else
        let s := s.modCoreW r.part r.core (fun w => { w with mxQ := w.mxQ ++ [.zero slot.val t.tid t.corr] })
        .done { Commit.none with log := [.atom 18 0 0] } (tagSlot s r.part k i t.tid)) s

/-- MXST (R300, R371). -/
def execMxst (slot : Fin 2) (a : Src) (s : State) : Out :=
  runWord [a] (fun r t s =>
    match clusterOf r.core with
    | none => .trap .target none s
    | some k =>
      let i := accIndex r.core slot
      let acc := s.acc r.part k i
      let x := t.rd a
      let go (e : MxEntry) (s : State) : Res := enqueueMatrix e i k r t s (fun s => .done { Commit.none with log := [.atom 18 0 x] } s)
      match t.prepared with
      | some (.matrix e) => go e s
      | _ =>
        if mxFull (s.core r.part r.core).w then .wait .queue s
        else if acc.poisoned then .trap .slotPoisoned none s
        else if acc.orphaned && !t.priv then .trap .slotParked none s
        else
          match checkRanges s r t [] [(x, 16384)] x 64 false with
          | .error e => e
          | .ok (_, pages, s) => go (.store slot.val t.tid t.corr t.ctx x pages) s) s

/-- MXR (R301): on a slot that is idle when it issues it has no effect. DEDUCED (log 44). -/
def execMxr (slot : Fin 2) (s : State) : Out :=
  runWord [] (fun r t s =>
    match clusterOf r.core with
    | none => .trap .target none s
    | some k =>
      let i := accIndex r.core slot
      if (s.acc r.part k i).pend ≠ 0 then .wait (.mxr slot.val) s
      else if (s.acc r.part k i).state = 0 && t.wait != some (.mxr slot.val) then .done Commit.none s
      else .done Commit.none (s.modAcc r.part k i AccSlot.reclaimed)) s

/-! ## Elements and scales (R69, R72, R73, R271, R277) -/

/-- The value of a block scale, and whether it is malformed (R72, R73). -/
def scaleVal (b : Nat) : FVal × Bool :=
  let e := b / 8 % 16
  let m := b % 8
  if 128 ≤ b then (.nan false, true)
  else if b = 127 then (.nan false, false)
  else if e = 0 then (.fin false m (-9), false)
  else (.fin false (8 + m) ((e : Int) - 10), false)

/-- Where an operand's element stands: scratchpad offset, bytes, and the bit within its byte (R69, R271). -/
def elemPlace (o : Operand) (tile row col : Nat) : Nat × Nat × Nat :=
  let w := o.fmt.container
  let ci := col * o.shape.estr
  (o.shape.base + tile * o.shape.tstr + row * o.shape.rstr + ci * w / 8, (w + 7) / 8, if w = 4 then ci % 2 * 4 else 0)

/-- The scratchpad offset of an element's block scale (R277): `first` for operand A, whose elements run along a row. -/
def scalePlace (o : Operand) (first : Bool) (tile row col kk : Nat) : Option Nat :=
  match o.scale with
  | none => none
  | some x =>
    let nb := (kk + 31) / 32
    let base := x.toNat - 0xFF00000000400000 + tile * 64 * nb
    some (if first then base + row * nb + col / 32 else base + row / 32 * 64 + col)

/-- An element read for a job: its value with scale and sign, whether its scale is malformed, whether a word of it is poisoned. -/
structure Elem where
  v : FVal
  malformed : Bool
  poisoned : Bool

def readElem (s : State) (p : PartId) (k : ClusterId) (o : Operand) (first neg : Bool) (tile row col kk : Nat) : Elem :=
  let pl := elemPlace o tile row col
  let key := keyScratch p k pl.1
  let x := memRead s.mem key pl.2.1 / 2 ^ pl.2.2
  let x := if o.fmt.container = 4 then x % 16 else x
  let v := o.fmt.val x
  let v := if neg then v.neg else v
  match scalePlace o first tile row col kk with
  | none => { v := v, malformed := false, poisoned := s.wordPoisoned key }
  | some off =>
    let sc := scaleVal (memByte s.mem (keyScratch p k off)).toNat
    { v := mulVal v sc.1, malformed := sc.2, poisoned := s.wordPoisoned key || s.wordPoisoned (keyScratch p k off) }

/-! ## Groups (R77 to R80) -/

/-- The smaller (or larger) of two values, NaN where either is; of zeros of both signs the negative (positive) one. DEDUCED (log 46). -/
def pickVal (least : Bool) (x y : FVal) : FVal :=
  if x.isNan || y.isNan then .nan false
  else if x.isZero && y.isZero then (if x.sign == least then x else y)
  else if least then (if valLt y x then y else x) else (if valLt x y then y else x)

/-- A cell's value after a group: `ts` are the pairs a′, b′ of the group below K (R78 to R80). -/
def groupCell (sr : Semiring) (c : BitVec 32) (ts : List (FVal × FVal)) : BitVec 32 :=
  let cv := Fmt.f32.val c.toNat
  let out (v : FVal) : BitVec 32 := BitVec.ofNat 32 (Fmt.f32.deliver v).bits
  match sr with
  | .plusTimes => out (sumVal (cv :: ts.map (fun x => mulVal x.1 x.2)))
  | .minPlus => out (ts.foldl (fun acc x => pickVal true acc (sumVal [x.1, x.2])) cv)
  | .maxPlus => out (ts.foldl (fun acc x => pickVal false acc (sumVal [x.1, x.2])) cv)
  | .maxTimes => out (ts.foldl (fun acc x => pickVal false acc (mulVal x.1 x.2)) cv)
  | .orAnd => if !cv.isZero || ts.any (fun x => !x.1.isZero && !x.2.isZero) then 0x3F800000 else 0

/-- The zero of a semiring (R80). -/
def semiringZero : Semiring → BitVec 32
  | .plusTimes | .orAnd => 0
  | .minPlus => 0x7F800000
  | .maxPlus | .maxTimes => 0xFF800000

/-- Entries below a key, the value at it, and the entries above. -/
def splitCells : KMap (BitVec 32) → Nat → KMap (BitVec 32) × BitVec 32 × KMap (BitVec 32)
  | [], _ => ([], 0, [])
  | (i, v) :: m, k =>
    if i < k then
      let x := splitCells m k
      ((i, v) :: x.1, x.2.1, x.2.2)
    else if i = k then ([], v, m)
    else ([], 0, (i, v) :: m)

/-- Cells at rising keys changed; a cell at +0 is not listed. -/
def mapCells (f : Nat → BitVec 32 → BitVec 32) : List Nat → KMap (BitVec 32) → KMap (BitVec 32)
  | [], m => m
  | k :: l, m =>
    let x := splitCells m k
    let v := f k x.2.1
    x.1 ++ (if v = 0 then [] else [(k, v)]) ++ mapCells f l x.2.2

/-- The keys of the cells that a job computes (R274). -/
def jobCells (m n : Nat) : List Nat := (List.range m).flatMap (fun i => (List.range n).map (fun j => 64 * i + j))

/-- K of a job. -/
def MxJob.depth (j : MxJob) : Nat := j.a.shape.cols
/-- The number of groups of a job. -/
def MxJob.groups (j : MxJob) : Nat :=
  let g := groupLen j.a.fmt j.b.fmt
  (j.depth + g - 1) / g

/-- The k indices of group g: the padding of a short last group enters no sum (R77, R274), so that one of -0 products alone stays -0, where +0
products of padding would make it +0 (R78). DESIGN CHOICE (log 87). -/
def groupIndices (j : MxJob) (g : Nat) : List Nat :=
  let n := groupLen j.a.fmt j.b.fmt
  ((List.range n).map (fun i => g * n + i)).filter (fun k => decide (k < j.depth))

/-- An exact number as the pair of its mantissa and exponent. -/
def exactOf (v : FVal) : Int × Int :=
  match v with
  | .fin n m e => (if n then -(m : Int) else (m : Int), e)
  | .inf _ | .nan _ => (0, 0)
def exactVal (x : Int × Int) : FVal := .fin (decide (x.1 < 0)) x.1.natAbs x.2
def exactSum (l : List (Int × Int)) : Int × Int := exactOf (sumVal (l.map exactVal))
def FVal.abs : FVal → FVal
  | .nan s => .nan s
  | .inf _ => .inf false
  | .fin _ m e => .fin false m e
def FVal.special (v : FVal) : Bool := v.isNan || v.isInf

/-- The group's rows of a′ and columns of b′. -/
def groupA (s : State) (p : PartId) (k : ClusterId) (x : MxRun) (ks : List Nat) : List (List Elem) :=
  (List.range x.job.a.shape.rows).map (fun i => ks.map (fun c => readElem s p k x.job.a true x.job.na x.slotA i c x.job.depth))
def groupB (s : State) (p : PartId) (k : ClusterId) (x : MxRun) (ks : List Nat) : List (List Elem) :=
  (List.range x.job.b.shape.cols).map (fun j => ks.map (fun c => readElem s p k x.job.b false x.job.nb x.slotB c j x.job.depth))

/-- The column sums of a checksum, advanced by one group (R279): each column's cs and mag. DESIGN CHOICE (log 47). -/
def checkColumns (as bs : List (List Elem)) (old : List (Int × Int)) (absolute : Bool) : List (Int × Int) :=
  let val (e : Elem) : FVal := if absolute then e.v.abs else e.v
  let n := match bs with
    | b :: _ => b.length
    | [] => 0
  let sums : List (Int × Int) := (List.range n).map (fun q => exactSum (as.map (fun a => exactOf (match a[q]? with
    | some e => val e
    | none => .fin false 0 0))))
  (old.zip bs).map (fun x =>
    exactSum (x.1 :: (sums.zip x.2).map (fun y => exactOf (mulVal (exactVal y.1) (val y.2)))))

/-- ENGCTL.CHKSH as it acts (R283). -/
def chkShift (engctl : Word) : Nat := let v := field engctl 8 5; if 16 ≤ v ∧ v ≤ 24 then v else 19

/-- The sum of a column of a slot's cells. DESIGN CHOICE (log 47). -/
def columnSum (cells : KMap (BitVec 32)) (m j : Nat) (absolute : Bool) : Int × Int :=
  exactSum ((List.range m).map (fun i =>
    let v := Fmt.f32.val ((kget cells (64 * i + j)).getD 0).toNat
    exactOf (if absolute then v.abs else v)))

/-- A column mismatches (R279). -/
def columnBad (sh : Nat) (cin cout : Int × Int) (cs mag : Int × Int) : Bool :=
  let diff := exactSum [cout, (-cin.1, cin.2), (-cs.1, cs.2)]
  valLt (exactVal (mag.1, mag.2 - sh)) (exactVal diff).abs

/-- CHK and the first mismatching column of a job at its end (R279). -/
def jobCheck (s : State) (p : PartId) (k : ClusterId) (x : MxRun) (cout : KMap (BitVec 32)) : Nat × Nat :=
  let ctl := (s.cluster p k).engctl
  let m := x.job.a.shape.rows
  let n := x.job.b.shape.cols
  if x.job.sr ≠ .plusTimes ∨ !bit ctl 0 ∨ x.malformed then (3, 0)
  else if x.special || (jobCells m n).any (fun c => (Fmt.f32.val ((kget cout c).getD 0).toNat).special) then (1, 0)
  else
    let cols := (List.range n).filter (fun j =>
      columnBad (chkShift ctl) (columnSum x.cin m j false) (columnSum cout m j false) (x.cs[j]?.getD (0, 0)) (x.mag[j]?.getD (0, 0)))
    match cols with
    | j :: _ => (2, j)
    | [] => (0, 0)

/-! ## Picking, running and completing (R267, R275, R281, R298) -/

/-- The jobs of a cluster that have been picked and are not complete. -/
def pickedJobs (w : ClusterWorld) : List MxRun := w.drain ++ (match w.run with
  | some x => [x]
  | none => [])

/-- Whether a job pops a ring when it completes (R46, R298). -/
def popsRing (x : MxRun) (i : RingId) : Bool :=
  !x.disc && (match x.job.pop with
    | .both => x.job.a.ring == i || x.job.b.ring == i
    | .a => x.job.a.ring == i
    | .b => x.job.b.ring == i
    | .none => false)

/-- The pops that picked jobs still owe a ring (R298). -/
def popsOwed (w : ClusterWorld) (i : RingId) : Nat := ((pickedJobs w).filter (fun x => popsRing x i)).length

/-- A ring has a tile for a job to read (R298). -/
def tileReady (w : ClusterWorld) (i : RingId) : Bool := decide (popsOwed w i + 1 ≤ (ringOf w i).count)
/-- The tile that the next job of the ring reads (R298). -/
def nextTile (w : ClusterWorld) (i : RingId) : Nat :=
  match (ringOf w i).shape with
  | some sh => ((ringOf w i).head + popsOwed w i) % sh.slots
  | none => 0

/-- The first entry of a core's queue that is not picked. -/
def mxHead (s : State) (p : PartId) (k : ClusterId) (c : CoreId) : Option MxEntry :=
  let picked (e : MxEntry) := match e with
    | .job j => (pickedJobs (s.cluster p k).w).any (fun x => x.core == c && x.job.seq == j.seq)
    | .zero _ _ _ | .store _ _ _ _ _ _ => false
  (s.core p c).w.mxQ.find? (fun e => !picked e)

/-- The entry may be picked (R267). DESIGN CHOICE (log 45). -/
def entryReady (w : ClusterWorld) (e : MxEntry) : Bool :=
  match e with
  | .job j => tileReady w j.a.ring && tileReady w j.b.ring
  | .zero _ _ _ | .store _ _ _ _ _ _ => true

/-- The core whose head the engine picks next (R267). -/
def nextCore (s : State) (p : PartId) (k : ClusterId) : Option CoreId :=
  (roundRobin k (s.cluster p k).w.mxLast).find? (fun c => match mxHead s p k c with
    | some e => entryReady (s.cluster p k).w e
    | none => false)

/-- An entry of a core's matrix queue leaves it. -/
def dropEntry (s : State) (p : PartId) (c : CoreId) (e : MxEntry) : State :=
  s.modCoreW p c (fun w => { w with mxQ := w.mxQ.erase e })

/-- The slot of the cluster that an entry names. -/
def entrySlot (c : CoreId) (slot : Nat) : Nat := 2 * (c.val % 8) + slot % 2

/-- A job as the engine starts it. -/
def startRun (s : State) (p : PartId) (k : ClusterId) (c : CoreId) (j : MxJob) : MxRun :=
  let w := (s.cluster p k).w
  let acc := s.acc p k (entrySlot c j.slot)
  let cells := jobCells j.a.shape.rows j.b.shape.cols
  let cin := if j.az then mapCells (fun _ _ => 0) cells acc.cells else acc.cells
  let cols := List.range j.b.shape.cols
  { core := c, job := j, slotA := nextTile w j.a.ring, slotB := nextTile w j.b.ring, group := 0, cin := cin, malformed := false,
    special := cells.any (fun i => (Fmt.f32.val ((kget cin i).getD 0).toNat).special),
    cs := cols.map (fun _ => (0, 0)), mag := cols.map (fun q => columnSum cin j.a.shape.rows q true), disc := acc.poisoned, chk := 3,
    column := 0, due := s.cycle }

/-- A run joins those that only complete. -/
def toDrain (s : State) (p : PartId) (k : ClusterId) (x : MxRun) : State :=
  s.modClusterW p k (fun w => { w with run := none, drain := w.drain ++ [x] })

/-- MATRIX_JOB_PICK: the engine picks the next ready head (R267): a job starts, or is discarded on a poisoned slot (R281); an MXZ or
MXST, once the core's earlier jobs are complete, is performed, and no other entry is picked before it is. -/
def execMatrixJobPick (p : PartId) (k : ClusterId) (s : State) : Out :=
  if (s.cluster p k).w.run.isSome || (s.cluster p k).w.storing.isSome then .next s
  else
    match nextCore s p k with
    | none => .next s
    | some c =>
      match mxHead s p k c with
      | none => .next s
      | some (.job j) =>
        let x := startRun s p k c j
        let s := s.modClusterW p k (fun w => { w with mxLast := c.val % 8 })
        .next (if x.disc then toDrain s p k x else s.modClusterW p k (fun w => { w with run := some x }))
      | some (.zero slot tid corr) =>
        if (s.cluster p k).w.drain.any (fun x => x.core == c) then .next s
        else
          let i := entrySlot c slot
          let s := s.modClusterW p k (fun w => { w with mxLast := c.val % 8 })
          let s := s.modAcc p k i (fun a => if a.poisoned then { a with disc := true } else { a with cells := [] })
          .next (entryDone (dropEntry s p c (.zero slot tid corr)) p k c i)
      | some (.store _ _ _ _ _ _) =>
        if (s.cluster p k).w.drain.any (fun x => x.core == c) then .next s
        else .next ((s.modClusterW p k (fun w => { w with mxLast := c.val % 8, storing := some c })).push (.mxstExecute p k))

/-- An uncorrectable error stops the engine's job (R281): its slot is poisoned, a record is posted, and the job completes as
discarded. -/
def poisonRun (s : State) (p : PartId) (k : ClusterId) (x : MxRun) : State :=
  let s := s.modAcc p k (entrySlot x.core x.job.slot) (fun a => { a with poisoned := true })
  let s := postRecord s p { TrapRec.none with
    code := 0x046, cls := 2, ctx := x.job.ctx, core := x.core.val, tid := x.job.tid, corr := x.job.corr,
    d0 := jobId true x.core x.job.slot x.job.seq, d1 := word x.group }
  toDrain s p k { x with disc := true, chk := 3, due := s.cycle }

/-- MATRIX_POISON (R281). DEDUCED (log 78). -/
def execMatrixPoison (p : PartId) (k : ClusterId) (s : State) : Out :=
  match (s.cluster p k).w.run with
  | some x => .next (poisonRun s p k x)
  | none => .next s

/-- One group entered: the cells after it, and the job's sums (R78, R279). -/
def enterGroup (s : State) (p : PartId) (k : ClusterId) (x : MxRun) (as bs : List (List Elem)) : State :=
  let j := x.job
  let i := entrySlot x.core j.slot
  let start := decide (x.group = 0) && j.az
  let arrA := as.toArray
  let arrB := bs.toArray
  let f (key : Nat) (c : BitVec 32) : BitVec 32 :=
    let ra := (arrA[key / 64]?).getD []
    let rb := (arrB[key % 64]?).getD []
    groupCell j.sr (if start then semiringZero j.sr else c) ((ra.zip rb).map (fun y => (y.1.v, y.2.v)))
  let cells := mapCells f (jobCells j.a.shape.rows j.b.shape.cols) (s.acc p k i).cells
  let all := as.flatten ++ bs.flatten
  let special := x.special || all.any (fun e => e.v.special)
  let x := { x with
    group := x.group + 1, malformed := x.malformed || all.any (fun e => e.malformed), special := special,
    cs := if special then x.cs else checkColumns as bs x.cs false, mag := if special then x.mag else checkColumns as bs x.mag true }
  let s := (s.modAcc p k i (fun a => { a with cells := cells })).count p x.core 12 none 1
  if x.group < j.groups then s.modClusterW p k (fun w => { w with run := some x })
  else
    let r := jobCheck s p k x cells
    toDrain s p k { x with chk := r.1, column := r.2, due := s.cycle + 32 }

/-- The bank of a scratchpad offset (R195). -/
def bankOf (off : Nat) : Nat := off / 8 % 64

/-- The banks that hold elements of an operand, and their block scales (R195, R271, R277). -/
def operandBanks (o : Operand) (first : Bool) (tile kk : Nat) (cells : List (Nat × Nat)) : List Nat :=
  (cells.flatMap (fun c => bankOf (elemPlace o tile c.1 c.2).1 ::
    (match scalePlace o first tile c.1 c.2 kk with
     | some off => [bankOf off]
     | none => []))).eraseDups

/-- The banks that the engine reads for a group: those of its columns of A, and with the first group those of the B tile, which the engine then
holds (R275). DESIGN CHOICE (log 28). -/
def groupBanks (x : MxRun) (ks : List Nat) : List Nat :=
  let j := x.job
  operandBanks j.a true x.slotA j.depth ((List.range j.a.shape.rows).flatMap (fun i => ks.map (fun c => (i, c)))) ++
  (if x.group = 0 then
    operandBanks j.b false x.slotB j.depth ((List.range j.depth).flatMap (fun c => (List.range j.b.shape.cols).map (fun q => (c, q))))
   else [])

/-- ENGCTL.SPWAIT as it acts (R283). -/
def spWait (engctl : Word) : Nat := Nat.max 1 (field engctl 16 4)

/-- A request has waited SPWAIT cycles at a bank: it is served before the engine (R276). -/
def bankOverdue (s : State) (p : PartId) (k : ClusterId) (b : Nat) : Bool :=
  ((kget (s.cluster p k).w.bankQ b).getD []).head?.any (fun a => decide (a + spWait (s.cluster p k).engctl ≤ s.cycle))

/-- MATRIX_GROUP: the running job enters its next group (R78, R275), unless a bank that it reads serves a request that has waited long enough:
that delays the job, and nothing else (R276). -/
def execMatrixGroup (p : PartId) (k : ClusterId) (s : State) : Out :=
  match (s.cluster p k).w.run with
  | none => .next s
  | some x =>
    let ks := groupIndices x.job x.group
    let banks := groupBanks x ks
    if banks.any (bankOverdue s p k) then .next s else
    let as := groupA s p k x ks
    let bs := groupB s p k x ks
    let s := s.modClusterW p k (fun w => { w with bankEng := banks })
    .next (if (as.flatten ++ bs.flatten).any (fun e => e.poisoned) then poisonRun s p k x else enterGroup s p k x as bs)

/-- A ring is popped (R272). -/
def popRing (x : Ring) : Ring :=
  match x.shape with
  | some sh => { x with head := (x.head + 1) % sh.slots, count := x.count - 1 }
  | none => x

/-- The rings that a completed job pops, each once. -/
def popRings (s : State) (p : PartId) (k : ClusterId) (x : MxRun) : State :=
  ([x.job.a.ring, x.job.b.ring].eraseDups.filter (popsRing x)).foldl (fun s i => s.setRing p k i (popRing (s.ring p k i))) s

/-- MATRIX_JOB_COMPLETE: results, checksum and pops of the oldest picked job complete (R275, R279, R285, R298). -/
def execMatrixJobComplete (p : PartId) (k : ClusterId) (s : State) : Out :=
  match (s.cluster p k).w.drain with
  | [] => .next s
  | x :: rest =>
    if s.cycle < x.due then .next s
    else
      let i := entrySlot x.core x.job.slot
      let s := popRings (s.modClusterW p k (fun w => { w with drain := rest })) p k x
      let s := s.modAcc p k i (fun a => { a with
        malf := x.malformed, disc := x.disc, chk := x.chk, mism := a.mism || x.chk == 2, unch := a.unch || x.chk == 1 })
      let s := if x.chk = 2 then s.hwSet p x.core (.accst (Fin.ofNat 2 x.job.slot)) 1
        else if x.chk = 1 then s.hwSet p x.core (.accst (Fin.ofNat 2 x.job.slot)) 0 else s
      let s := if x.chk = 2 then
          postRecord s p { TrapRec.none with
            code := 0x043, cls := 2, ctx := x.job.ctx, core := x.core.val, tid := x.job.tid, corr := x.job.corr,
            d0 := jobId true x.core x.job.slot x.job.seq, d1 := word x.column }
        else s
      let s := (dropEntry s p x.core (.job x.job)).modCoreW p x.core (fun w => { w with mxDone := (x.job.seq + 1) % 2 ^ 21 })
      .next (entryDone s p k x.core i)

/-! ## MXST (R300, R212) -/

/-- One line of an MXST written: 32 cells, each word full; a poisoned line is left, with one record (R212). -/
def storeLine32 (s : State) (p : PartId) (c : CoreId) (w : PageWriter) (e : Word) (pages : List Leaf) (cells : KMap (BitVec 32)) (corr : BitVec 32)
    (ctx : BitVec 8) (x : Word) (words : List Nat) : State :=
  let put (key : Nat) (s : State) : State :=
    words.foldl (fun s i =>
      let off := (x - e).toNat / 4 + 2 * i
      let v := ((kget cells (off + 1)).getD 0).toNat * 2 ^ 32 + ((kget cells off).getD 0).toNat
      fillWord ((s.writeMem (key + 8 * i) 8 (word v)).unpoisonWord (key + 8 * i)) p (key + 8 * i)) s
  if inWindowRegion x then
    match windowKey p c x with
    | some (k, _) => put k (s.sramAt p k)
    | none => s
  else
    match pages.find? (fun l => l.covers (va57 x)) with
    | none => s
    | some l =>
      match reachWrite s p l (va57 x) w with
      | .ok s => put (keyMain p (l.phys (va57 x))) s
      | .held s => put (keyMain p (l.phys (va57 x))) s
      | .poisoned s =>
        if words = [7] || (x.toNat % 128 != 0 && x != e) then s
        else postRecord s p { TrapRec.none with
          code := 0x04A, cls := 2, ctx := ctx, core := c.val, corr := corr, addr := lineAddr (lineOf x), d1 := 1 }

/-- The 2,048 words of an MXST, the completion word after the others (R300): x is 64-byte aligned, so its chunks are half lines. -/
def storeSlot (s : State) (p : PartId) (c : CoreId) (w : PageWriter) (va : Word) (pages : List Leaf) (cells : KMap (BitVec 32))
    (corr : BitVec 32) (ctx : BitVec 8) : State :=
  let chunk (s : State) (i : Nat) (ws : List Nat) : State :=
    storeLine32 s p c w va pages cells corr ctx (va + word (64 * i)) ws
  let s := (List.range 255).foldl (fun s i => chunk s i (List.range 8)) s
  chunk (chunk s 255 (List.range 7)) 255 [7]

/-- MXST_EXECUTE: the engine stores the slot of the entry it has picked (R300); a captured page waits for the copier (R389), and the engine
with it. DESIGN CHOICE (log 45). DEDUCED (log 75). -/
def execMxstExecute (p : PartId) (k : ClusterId) (s : State) : Out :=
  match (s.cluster p k).w.storing with
  | none => .next s
  | some c =>
    match mxHead s p k c with
    | some (.store slot tid corr ctx va pages) =>
      let i := entrySlot c slot
      let acc := s.acc p k i
      let w : PageWriter := .step (.mxstExecute p k)
      match pages.findSome? (fun l => pageWait s p l w) with
      | some s => .next (s.holdBack (.mxstExecute p k))
      | none =>
        let s := if acc.poisoned then s.modAcc p k i (fun a => { a with disc := true }) else storeSlot s p c w va pages acc.cells corr ctx
        .next (entryDone ((dropEntry s p c (.store slot tid corr ctx va pages)).modClusterW p k (fun w => { w with storing := none })) p k c i)
    | _ => .next (s.modClusterW p k (fun w => { w with storing := none }))

/-! ## ACCRCL (R283) -/

/-- The named slots of a cluster are reclaimed as MXR does, at once or when their PEND reaches 0 (R283, R301). -/
def reclaimSlots (s : State) (p : PartId) (k : ClusterId) (slots : Nat) : State :=
  (List.range 16).foldl (fun s i =>
    if slots / 2 ^ i % 2 = 1 then
      s.modAcc p k i (fun a => if a.pend ≠ 0 then { a with reclaim := true } else if a.state = 0 then a else a.reclaimed)
    else s) s

/-- ACCRCL_WRITE (R283). DEDUCED (log 44). -/
def execAccrclWrite (p : PartId) (k : ClusterId) (slots : BitVec 16) (s : State) : Out := .next (reclaimSlots s p k slots.toNat)

end Sys2Proof.Machine
end

