-- ==== Sys2Proof/Machine/TrapQueue.lean ====
section
/-! DEFINITION. The trap queue and its engine, the wake register, and the system slot's runs (20 R313 to R320, R324). -/
namespace Sys2Proof.Machine

/-! ## Entering the queue (R318) -/

def modTrap (s : State) (p : PartId) (f : TrapQ → TrapQ) : State := s.modPart p (fun q => { q with trap := f q.trap })

/-- The occupancy that a posting sees: entries already allocated count (R316, R318). -/
def tqOccupancy (q : Partition) : Nat := (q.trap.alloc + tqSize q.r - q.trap.head % tqSize q.r) % tqSize q.r

/-- There is room for the record (R318). -/
def tqRoom (q : Partition) (fatal : Bool) : Bool :=
  if fatal then decide (tqOccupancy q + 1 < tqSize q.r) else decide (tqOccupancy q + 9 < tqSize q.r)

/-- The next entry's address has a valid translation (R318). -/
def tqMapped (s : State) (p : PartId) : Bool := (unitKey s p (tqAddr (s.part p).r (s.part p).trap.alloc)).isSome

/-- A record write has found no valid translation (R315, R318). -/
def tqBad (s : State) (p : PartId) : State := (s.modRegs p (fun r => { r with tqbase := r.tqbase ||| 0x800 })).hwSet p 0 .tqbase 11

/-- The walk to the next entry has failed: BAD is set, and a poisoned table page is listed; the fatal record of a full list is posted while BAD is
clear, so that the queue does not fill with its own records (R205). DESIGN CHOICE (log 51). -/
def tqLost (s : State) (p : PartId) : State :=
  tqBad (if bit (s.part p).r.tqbase 11 then s else listTable s p (tqAddr (s.part p).r (s.part p).trap.alloc)) p

/-- A fatal record has found no room: OVF, and the host's interrupt (R318). -/
def tqOverflow (s : State) (p : PartId) : State :=
  (if (s.part p).trap.ovf then s else (modTrap s p (fun t => { t with ovf := true })).hostEvent p 1).hwSet p 0 .fatalovf 63

/-- A record that finds no room (R318): a fatal one sets OVF, interrupts the host and waits in its core's holding register, or,
while that is full, is not yet formed; a replayable one is held; an informational one is lost. -/
def holdRecord (s : State) (p : PartId) (x : TrapRec) : State :=
  if x.cls = 1 then
    let s := tqOverflow s p
    match corePut x.core with
    | some c =>
      match (s.core p c).c.held with
      | none => modTrap (s.modCoreC p c (fun k => { k with held := some x })) p (fun t => { t with heldFatal := t.heldFatal ++ [x] })
      | some _ => s.modCoreC p c (fun k => { k with unformed := k.unformed ++ [x] })
    | none => s
  else if x.cls = 0 then modTrap s p (fun t => { t with heldReplay := t.heldReplay ++ [x] })
  else modTrap s p (fun t => { t with lost := Nat.min (t.lost + 1) 65535 })

/-- An accepted record whose write finds no valid translation: as though it had found no room (R318), before the records held since. -/
def takeBack (p : PartId) (x : TrapRec) (s : State) : State :=
  if x.cls = 1 then
    let s := tqOverflow s p
    match corePut x.core with
    | some c =>
      let old := (s.core p c).c.held
      modTrap (s.modCoreC p c (fun k => { k with held := some x, unformed := old.toList ++ k.unformed })) p
        (fun t => { t with heldFatal := x :: t.heldFatal.filter (fun y => some y != old) })
    | none => s
  else if x.cls = 0 then modTrap s p (fun t => { t with heldReplay := x :: t.heldReplay })
  else modTrap s p (fun t => { t with lost := Nat.min (t.lost + 1) 65535 })

/-- A dump's copy of a record that is accepted takes its SEQ and TSTAMP (R323). -/
def copySeq (x y : TrapRec) : TrapRec := if { y with seq := 0, ts := 0 } = { x with seq := 0, ts := 0 } then x else y

/-- The dumps' copies of an accepted record. -/
def seqDumps (l : List Dump) (x : TrapRec) : List Dump :=
  l.map (fun d => { d with first := copySeq x d.first, extra := d.extra.map (copySeq x) })

/-- A record accepted into the next entry: its SEQ is assigned, and the queue engine writes its words (R316). DEDUCED (log 52). -/
def acceptRecord (s : State) (p : PartId) (x : TrapRec) : State :=
  let q := s.part p
  let i := q.trap.alloc
  let x := { x with seq := q.trap.seq }
  ((modTrap s p (fun t => { t with
    alloc := (i + 1) % tqSize q.r, seq := (q.trap.seq + 1) % 2 ^ 32, writing := t.writing ++ [(i, false, x)] })).modPart p
    (fun q => { q with dumps := seqDumps q.dumps x })).push (.recordWriteDone p i)

/-- The space of a posted record decided (R318): it is accepted, or finds no room; behind a record that its core still holds, a fatal one
waits too (R319). Without a valid translation of its entry, BAD is set and it finds no room. DEDUCED (log 52). -/
def placeRecord (s : State) (p : PartId) (x : TrapRec) : State :=
  if !tqRoom (s.part p) x.fatal || (x.fatal && (corePut x.core).any (fun c => (s.core p c).c.held.isSome)) then holdRecord s p x
  else if tqMapped s p then acceptRecord s p x
  else holdRecord (tqLost s p) p x

/-- A core's holding register is free: the record of its next fatal cause is formed and held (R318). -/
def formRecord (s : State) (p : PartId) (c : CoreId) : State :=
  match (s.core p c).c.unformed with
  | x :: rest =>
    let x := { x with ts := s.tstamp }
    modTrap (s.modCoreC p c (fun k => { k with held := some x, unformed := rest })) p
      (fun t => { t with heldFatal := t.heldFatal ++ [x] })
  | [] => s.modCoreC p c (fun k => { k with held := none })

/-- One held record enters where there is room: fatal ones first, in the order held, then replayable ones (R318); whether one did. Without a
valid translation of its entry BAD is set. -/
def enterHeld (s : State) (p : PartId) : Bool × State :=
  let q := s.part p
  let enter (x : TrapRec) (go : State → State) : Bool × State :=
    if !tqRoom q x.fatal then (false, s) else if tqMapped s p then (true, go s) else (false, tqLost s p)
  match q.trap.heldFatal, q.trap.heldReplay with
  | x :: rest, _ => enter x (fun s =>
      let s := acceptRecord (modTrap s p (fun t => { t with heldFatal := rest })) p x
      match corePut x.core with
      | some c => formRecord s p c
      | none => s)
  | [], x :: rest => enter x (fun s => acceptRecord (modTrap s p (fun t => { t with heldReplay := rest })) p x)
  | [], [] => (false, s)

/-- Held records enter until none can. -/
def enterAll : Nat → State → PartId → State
  | 0, s, _ => s
  | n + 1, s, p =>
    let x := enterHeld s p
    if x.1 then enterAll n x.2 p else x.2

/-- The records that a partition holds, formed or not. -/
def heldCount (q : Partition) : Nat :=
  q.trap.heldFatal.length + q.trap.heldReplay.length + q.cores.foldl (fun n e => n + e.2.c.unformed.length) 0

/-- Room may have been made: held records enter (R318). -/
def refill (s : State) (p : PartId) : State := enterAll (heldCount (s.part p)) s p

/-- The queue engine's turn at the end of a cycle (R318): held records enter first, then the oldest posting is decided, one in a cycle. It sees
the HEAD that the cycle's MTS has written (R324). DEDUCED (log 52). -/
def queueTurn (s : State) (p : PartId) : State :=
  let s := refill s p
  match (s.part p).trap.posted with
  | (_, x) :: rest => placeRecord (modTrap s p (fun t => { t with posted := rest })) p x
  | [] => s

/-! ## Registers of the queue (R315) -/

/-- TQHEAD written: the consumer frees entries, and held records enter (R318). -/
def writeTqhead (s : State) (p : PartId) (v : Word) : State := modTrap s p (fun t => { t with head := field v 0 16 })

/-- TQBASE written: BASE and SZ are set, BAD is cleared by a one unless the hardware sets it in the same cycle (R355), and the queue is
empty (R315). -/
def writeTqbase (s : State) (p : PartId) (v : Word) : State :=
  let bad := s.clearOnes p 0 .tqbase ((s.part p).r.tqbase &&& 0x800) v
  let s := s.modRegs p (fun r => { r with tqbase := (v &&& 0x01FFFFFFFFFFF00F) ||| bad })
  modTrap s p (fun t => { t with head := 0, tail := 0, alloc := 0, writing := [] })

/-- TQTAIL as read. -/
def tqtailWord (q : Partition) : Word := word (q.trap.lost % 2 ^ 16 * 2 ^ 48 + q.trap.tail)
/-- FATALOVF as read: HELD counts the records in core holding registers. -/
def fatalovfWord (q : Partition) : Word := word ((if q.trap.ovf then 2 ^ 63 else 0) + q.trap.heldFatal.length % 2 ^ 16)

/-- TQHEAD_WRITE (R318). -/
def execTqheadWrite (p : PartId) (v : Word) (s : State) : Out := .next (writeTqhead s p v)
/-- TQBASE_WRITE (R315). -/
def execTqbaseWrite (p : PartId) (v : Word) (s : State) : Out := .next (writeTqbase s p v)

/-! ## Writing a record (R316) -/

/-- The eight words of a record (R316). -/
def TrapRec.words (x : TrapRec) : List Word :=
  [word (x.code % 2 ^ 12 * 2 ^ 52 + x.cls % 4 * 2 ^ 50 + x.ctx.toNat * 2 ^ 40 + x.core % 2 ^ 9 * 2 ^ 31 + x.slot % 16 * 2 ^ 27 + x.tid % 2 ^ 20),
   word (x.corr.toNat * 2 ^ 32 + x.seq % 2 ^ 32), x.pc, x.addr, x.d0, x.d1, x.d2, word x.ts]

/-- Words written from a cell on. -/
def writeList (s : State) (k : Nat) : List Word → State
  | [] => s
  | v :: l => writeList (s.writeMem k 8 v) (k + 8) l

/-- TAIL advances over entries whose writes are complete (R316). -/
def advanceTail : Nat → TrapQ → Nat → TrapQ
  | 0, t, _ => t
  | k + 1, t, n =>
    match t.writing with
    | (i, true, _) :: rest => if i = t.tail then advanceTail k { t with tail := (t.tail + 1) % n, writing := rest } n else t
    | _ => t

/-- The core that posted a record runs SYSH for it (R320). -/
def recordPosted (s : State) (p : PartId) (x : TrapRec) (addr : Word) : State :=
  match corePut x.core with
  | some c =>
    if x.tid ≠ 0 ∧ (s.core p c).c.sysh ≠ 0 then
      (s.modCoreC p c (fun k => { k with syshQ := k.syshQ ++ [addr] })).push (.syshRun p c)
    else s
  | none => s

/-- The entries not yet written, oldest first, are given back: their records are held again (R318). -/
def turnBack (s : State) (p : PartId) : State :=
  let l := (s.part p).trap.writing.filter (fun e => !e.2.1)
  match l with
  | [] => s
  | (i, _, x) :: _ =>
    let s := modTrap (tqBad s p) p (fun t => { t with alloc := i, seq := x.seq, writing := t.writing.filter (fun e => e.2.1) })
    l.foldr (fun e s => takeBack p e.2.2 s) s

/-- The entry is written, and TAIL advances over it once those before it are (R316). -/
def entryWritten (s : State) (p : PartId) (index : Nat) : State :=
  modTrap s p (fun t => advanceTail t.writing.length
    { t with writing := t.writing.map (fun e => if e.1 = index then (e.1, true, e.2.2) else e) } (tqSize (s.part p).r))

/-- The entry that is to be written next. -/
def unwritten (q : Partition) : Option (Nat × Bool × TrapRec) := q.trap.writing.find? (fun e => !e.2.1)

/-- The queue engine goes on to the next entry, if it is not yet asked to. -/
def writeNext (s : State) (p : PartId) : State :=
  match unwritten (s.part p) with
  | some e => if s.events.contains (.recordWriteDone p e.1) then s else s.push (.recordWriteDone p e.1)
  | none => s

/-- A record's words reach its entry's cell, the last one full (R316). -/
def putRecord (s : State) (p : PartId) (addr : Word) (key : Nat) (x : TrapRec) : State :=
  fillWord (writeList (noteWrite s p addr) key x.words) p (key + 0x38)

/-- RECORD_WRITE_DONE: the queue engine writes a record, its last word full, and TAIL advances (R316); records are written in the order of
their entries. Where the translation has been lost, BAD is set and the records are held again (R318); a captured page waits for the copier
(R389); in ERROR nothing is written (R399). DEDUCED (log 52). -/
def execRecordWriteDone (p : PartId) (index : Nat) (s : State) : Out :=
  match unwritten (s.part p) with
  | none => .next s
  | some (i, _, x) =>
    if i ≠ index ∨ (s.part p).tdisp = .error then .next s
    else
      let addr := tqAddr (s.part p).r index
      match unitKey s p addr with
      | none => .next (turnBack (listTable s p addr) p)
      | some key =>
        match atHome s p key (.step (.recordWriteDone p index)) with
        | .error s => .next (s.holdBack (.recordWriteDone p index))
        | .ok s => .next (recordPosted (writeNext (entryWritten (putRecord s p addr key x) p index) p) p x addr)

/-- SYSH_RUN: the system slot runs SYSH for the next record of its core (R320). A SYSH that is not canonical becomes pc whole, and faults at the
fetch. DESIGN CHOICE (log 86). -/
def execSyshRun (p : PartId) (c : CoreId) (s : State) : Out :=
  let k := s.core p c
  match k.c.syshQ, kget k.w.slots 0 with
  | addr :: rest, none =>
    if k.c.sysh = 0 then .next (s.modCoreC p c (fun k => { k with syshQ := [] }))
    else if (s.part p).gang != .idle then .next s
    else
      let s := s.modCoreC p c (fun k => { k with syshQ := rest })
      let n := allocTid s p
      let t := Thread.start 0 (k.c.sysh &&& ~~~(3 : Word)) (Regs.fresh addr 0 0 0) n.1 0 0 false (s.watched p c) (s.cycle + 1)
      .next (placeThread n.2 ⟨p, c, 0⟩ { t with sysh := true } (s.cycle + 1))
  | _, _ => .next s

/-! ## The wake register (R313) -/

/-- A thread returns to the rotation. One that the strainer had parked goes past its BLK's checks once (R326). -/
def wakeThread (now : Nat) (t : Thread) : Thread :=
  { t with
    parked := false, dropped := none, readyAt := Nat.max t.readyAt (now + 1),
    strain := if t.strain.parked then { t.strain with skip := true, parked := false } else t.strain }

/-- WAKE ACT 0: a dropped or parked thread returns to the rotation (R313); one that a PARK has reached in the same cycle stays parked
(R355). -/
def wakeResume (s : State) (p : PartId) (tid : Nat) : State :=
  s.modThreads p (fun t =>
    if t.tid = tid ∧ (t.parked || t.dropped.isSome) ∧ t.parkedIn ≠ some s.cycle then wakeThread s.cycle t else t)

/-- WAKE ACT 1 (R313, R314). -/
def wakeKill (s : State) (p : PartId) (tid : Nat) : State := killWhere s p (fun t => t.tid == tid)

/-- WAKE ACT 2: every living thread of a context (R313). -/
def wakeKillCtx (s : State) (p : PartId) (ctx : BitVec 8) : State := killWhere s p (fun t => t.ctx == ctx)

/-- WAKE ACT 3: a dropped thread is parked as unservable (R313). -/
def wakeUnservable (s : State) (p : PartId) (tid : Nat) : State :=
  match s.byTid p tid with
  | some (r, t) =>
    match t.dropped with
    | some x =>
      postRecord (s.setThread r { t with dropped := none, parked := true, ecause := setField t.ecause 0 12 0x031 }) p
        { x with code := 0x031, cls := 1 }
    | none => s
  | none => s

/-- A write of WAKE (R313). -/
def writeWake (s : State) (p : PartId) (v : Word) : State :=
  match field v 62 2 with
  | 0 => wakeResume s p (field v 0 20)
  | 1 => wakeKill s p (field v 0 20)
  | 2 => wakeKillCtx s p (BitVec.ofNat 8 (field v 20 8))
  | _ => wakeUnservable s p (field v 0 20)

/-- WAKE_RESUME (R313). -/
def execWakeResume (p : PartId) (tid : BitVec 20) (s : State) : Out := .next (wakeResume s p tid.toNat)
/-- WAKE_KILL_THREAD (R314). -/
def execWakeKillThread (p : PartId) (tid : BitVec 20) (s : State) : Out := .next (wakeKill s p tid.toNat)
/-- WAKE_KILL_CONTEXT (R313). -/
def execWakeKillContext (p : PartId) (ctx : BitVec 8) (s : State) : Out := .next (wakeKillCtx s p ctx)
/-- WAKE_UNSERVABLE (R313). -/
def execWakeUnservable (p : PartId) (tid : BitVec 20) (s : State) : Out := .next (wakeUnservable s p tid.toNat)

end Sys2Proof.Machine
end

