-- ==== Sys2Proof/Machine/Tasters.lean ====
section
/-! DEFINITION. Binding a taster, its registers, LOGN and LOGA, CONT, late violations, lost tasters and failed cores (21 R328 to R338, 22
R352 to R354). -/
namespace Sys2Proof.Machine

/-! ## Binding (R328) -/

/-- The worker whose taster a core is. -/
def workerOf (s : State) (p : PartId) (c : CoreId) : Option CoreId :=
  (s.part p).coreIds.find? (fun x => s.watched p x && tasterOf (s.core p x).w.tbind == c.val)

/-- The core is a worker or a taster. -/
def bound (s : State) (p : PartId) (c : CoreId) : Bool := s.watched p c || (workerOf s p c).isSome

/-- The fields of TBIND that a write sets. -/
def tbindFields (v : Word) : Word := v &&& 0xFC0000FF803FFFF8

/-- A write with EN = 1 is accepted (R328). -/
def bindOk (s : State) (p : PartId) (c : CoreId) (v : Word) : Bool :=
  match corePut (tasterOf v) with
  | none => false
  | some t =>
    let size := ringSize v
    let base := field v 3 19 * 8
    decide (c.val < 256) && decide (t.val < 256) && t != c && !(s.core p t).c.failed && !bound s p c && !bound s p t &&
    base % size == 0 && decide (base + size ≤ (if bit v 62 then 2 ^ 22 else 0x1F000))

/-- A slot of a core whose STATUS.WATCHED becomes `on`. -/
def markSlot (on : Bool) : Slot → Slot
  | .thread t =>
    .thread { t with status := setField t.status 14 1 (if on then 1 else 0), logAddr := if on then 0 else t.logAddr }
  | x => x

/-- STATUS.WATCHED of every thread of a core, and each slot's current address at 0 where its log begins. -/
def markWatched (s : State) (p : PartId) (c : CoreId) (on : Bool) : State :=
  s.modCoreW p c (fun w => { w with slots := kmapVals (fun _ x => markSlot on x) w.slots })

/-- TBIND written with EN = 1 (R328): refused with ERR, or bound: a new log, the taster's LOGSEQ at 0. -/
def bindTaster (s : State) (p : PartId) (c : CoreId) (v : Word) : State :=
  if bindOk s p c v then
    let s := s.modCoreW p c (fun w => { w with tbind := tbindFields v, log := LogState.empty })
    let s := match corePut (tasterOf v) with
      | some t => s.modCoreW p t (fun w => { w with logseq := 0, ackWas := 0 })
      | none => s
    markWatched s p c true
  else s.modCoreW p c (fun w => { w with tbind := w.tbind ||| 0x10000000000 })

/-- TBIND written with EN = 0 and nothing to wait for (R328). -/
def unbindTaster (s : State) (p : PartId) (c : CoreId) (v : Word) : State :=
  markWatched (s.modCoreW p c (fun w => { w with tbind := tbindFields (v &&& 0x7FFFFFFFFFFFFFFF) ||| (w.tbind &&& 0x10000000000) }))
    p c false

/-- Every record of a worker's log is acknowledged. -/
def logDrained (s : State) (p : PartId) (c : CoreId) : Bool :=
  let w := (s.core p c).w
  s.ackOf p w.tbind % 2 ^ 32 == w.log.seq % 2 ^ 32

/-- The lag limit of a worker in bytes (R329). -/
def lagLimit (w : CoreWorld) : Nat :=
  let lim := field w.loglim 0 23
  if lim = 0 ∨ ringSize w.tbind < lim then ringSize w.tbind else Nat.max lim 64

/-- A worker's log stands at its lag limit: its watched threads stall (R329). -/
def lagHeld (s : State) (p : PartId) (c : CoreId) : Bool :=
  let w := (s.core p c).w
  let ack := s.ackOf p w.tbind
  let n := w.log.unacked.foldl (fun n e => if seqGe ack e.1 then n else n + e.2) 0
  bit w.tbind 63 && decide (lagLimit w < n + 64)

/-- TBIND_BIND (R328). -/
def execTbindBind (p : PartId) (c : CoreId) (v : Word) (s : State) : Out := .next (bindTaster s p c (v ||| 0x8000000000000000))

/-- TBIND_UNBIND: a write with EN = 0 takes effect, once the log of a bound core is acknowledged (R328). -/
def execTbindUnbind (p : PartId) (c : CoreId) (v : Word) (s : State) : Out :=
  .next (if !s.watched p c || logDrained s p c then unbindTaster s p c v else s)

/-! ## Losing a binding, failing a core (R336 to R338) -/

/-- A taster-lost record for a thread (R325). -/
def lostRecord (r : TRef) (t : Thread) : TrapRec := TrapRec.ofThread r t 0x036 1 t.pc 0

/-- A LOGN that waits. -/
def waitsLogn (t : Thread) : Bool :=
  match t.wait with
  | some .record | some (.stamp _ _ _) => true
  | _ => false

/-- A worker's binding is lost (R338): its watched threads are parked at their next issue, each with a record, and waiting LOGNs of the
taster are parked (R353), those of threads that PARK has parked too. DESIGN CHOICE (log 36). -/
def loseBinding (s : State) (p : PartId) (c : CoreId) : State :=
  let taster := corePut (tasterOf (s.core p c).w.tbind)
  let s := (slotThreads p c (s.core p c).w.slots).foldl (fun s e =>
    postRecord (s.modThread e.1 (fun t => { t with parkAt := some 0x036 })) p (lostRecord e.1 e.2)) s
  let s := markWatched (s.modCoreW p c (fun w => { w with tbind := w.tbind &&& 0x7FFFFFFFFFFFFFFF })) p c false
  match taster with
  | some x =>
    (slotThreads p x (s.core p x).w.slots).foldl (fun s e => if waitsLogn e.2 then fatalPark s e.1 (lostRecord e.1 e.2) else s) s
  | none => s

/-- A core is declared failed (R337): its threads are killed, its tagged slots orphaned (the busy ones at their last completion, R282),
and a binding whose taster it is is lost. DESIGN CHOICE (log 36). -/
def failCore (s : State) (p : PartId) (c : CoreId) : State :=
  if (s.core p c).c.failed then s
  else
    let s := s.modCoreC p c (fun k => { k with failed := true })
    let s := killLanding s p c (fun _ => true)
    let s := ((s.population p (fun _ => true)).filter (fun r => r.core == c)).foldl killThread s
    let s := orphanSlots s p c (fun a => a.pend == 0)
    let s := postRecord s p { TrapRec.none with code := 0x035, cls := 1, core := c.val }
    match workerOf s p c with
    | some w => loseBinding s p w
    | none => s

/-- CORE_FAILED (R337). -/
def execCoreFailed (p : PartId) (c : CoreId) (s : State) : Out := .next (failCore s p c)

/-- SHELL_ACK_TIMEOUT: a shell missed the bound of 512 cycles, so its core is declared failed (R210, R254). -/
def execShellAckTimeout (p : PartId) (c : CoreId) (s : State) : Out := .next (failCore s p c)

/-- ACK of a taster core as it was before a LOGA of this cycle (R355). -/
def ackBefore (s : State) (p : PartId) (c : CoreId) : Nat :=
  let w := (s.core p c).w
  if w.ackIn = s.cycle then w.ackWas.toNat else w.logseq.toNat

/-- LOGVIO written on a taster core (R336). -/
def writeLogvio (s : State) (p : PartId) (c : CoreId) (v : Word) : State :=
  match workerOf s p c with
  | none => s
  | some w =>
    let seq := field v 0 32
    let r : TRef := ⟨p, w, Fin.ofNat 16 (field v 36 4)⟩
    let log := (s.core p w).w.log
    let begun := match kget log.starts r.slot.val with
      | some n => seqGt n seq
      | none => false
    let rec_ : TrapRec := { TrapRec.none with code := 0x034, cls := 1, core := w.val, slot := r.slot.val, d0 := word seq }
    match s.thread r with
    | some t =>
      if seqGt seq (ackBefore s p c) && !begun then
        postRecord (s.setThread r { t with parkAt := some 0x034 }) p { rec_ with ctx := t.ctx, tid := t.tid, corr := t.corr }
      else postRecord s p { rec_ with d1 := 0x8000000000000000 }
    | none => postRecord s p { rec_ with d1 := 0x8000000000000000 }

/-- LOGVIO_WRITE (R336). -/
def execLogvioWrite (p : PartId) (c : CoreId) (v : Word) (s : State) : Out := .next (writeLogvio s p c v)

/-- LOGN_WATCHDOG: a LOGN has waited on a STAMP longer than RELCTL.WD (R335): its thread is parked, and the binding is lost (R338). -/
def execLognWatchdog (r : TRef) (s : State) : Out :=
  match s.thread r with
  | some t =>
    match t.wait with
    | some (.stamp _ _ _) =>
      let s := fatalPark s r (lostRecord r t)
      .next (match workerOf s r.part r.core with
        | some w => loseBinding s r.part w
        | none => s)
    | _ => .next s
  | none => .next s

/-! ## CONT (R334, R352) -/

/-- CONT (R352). -/
def execCont (s : State) : Out :=
  runWord [] (fun r t s =>
    match passPoint s r t 0 with
    | .error x => x
    | .ok s => .done Commit.none s) s

/-! ## LOGN and LOGA (R333, R335, R353, R354) -/

/-- A record as a LOGN reads it from the ring. -/
structure LogRec where
  seq : Nat
  head : Nat
  words : List Nat

def LogRec.type (x : LogRec) : Nat := x.head / 2 ^ 28
def LogRec.slot (x : LogRec) : Nat := x.head / 2 ^ 24 % 16
def LogRec.info (x : LogRec) : Nat := x.head % 2 ^ 22

/-- The value of a record's payload by its length (R331). -/
def LogRec.value (x : LogRec) : Word :=
  match x.words with
  | [] => 0
  | [a] => sextTo 32 a
  | a :: b :: _ => word (a + b * 2 ^ 32)

/-- The next record of a worker's log that no LOGN has taken. -/
def nextRecord (s : State) (p : PartId) (w : CoreWorld) : Option LogRec :=
  if w.log.taken % 2 ^ 32 = w.log.seq % 2 ^ 32 then none
  else
    let k := ringKey p w.tbind + w.log.rd
    let head := memRead s.mem k 4
    some { seq := (w.log.taken + 1) % 2 ^ 32, head := head,
           words := (List.range (head / 2 ^ 22 % 4)).map (fun i => memRead s.mem (k + 4 + 4 * i) 4) }

/-- A record of the ring lies in a poisoned word: the window address of the record (R339). -/
def recordPoisoned (s : State) (p : PartId) (w : CoreWorld) (x : LogRec) : Option Word :=
  let k := ringKey p w.tbind + w.log.rd
  if windowPoisoned s (k / 8 * 8) (k % 8 + 4 * (x.words.length + 1)) then
    some ((if bit w.tbind 62 then 0xFF00000000400000 else 0xFF00000000000000) + word (field w.tbind 3 19 * 8 + w.log.rd))
  else none

/-- The log once a record has been taken: an ADDR sets its slot's current address, an escape of subtype 0 goes to the ring's base. -/
def takeRecord (w : CoreWorld) (x : LogRec) : CoreWorld :=
  let l := w.log
  let wrap := decide (x.type = 15) && decide (x.info / 2 ^ 16 = 0)
  let rd := if wrap then 0 else (l.rd + 4 * (x.words.length + 1)) % ringSize w.tbind
  let cur := (kget l.addrs x.slot).getD 0
  let addrs :=
    if x.type = 1 then kput l.addrs x.slot (if x.words.length = 2 then x.value else cur + x.value)
    else if x.type = 7 ∧ x.info / 2 ^ 18 = 5 then kput l.addrs x.slot 0
    else l.addrs
  { w with log := { l with taken := x.seq, rd := rd, addrs := addrs, flows := kdel l.flows x.seq } }

/-- g2 at dispatch (R331). -/
def dispatchValue (before after : CoreWorld) (x : LogRec) : Word :=
  if x.type = 1 then (kget after.log.addrs x.slot).getD 0
  else if x.type = 5 then (kget before.log.flows x.seq).getD x.value
  else x.value

/-- The entry of the handler table for a type (R333), read as the LOGN's thread reads memory. -/
def tableEntry (s : State) (r : TRef) (t : Thread) (type : Nat) : Except Res (Word × State) :=
  let a := ext57 (field (s.core r.part r.core).w.loght 7 50 * 128 + 8 * type)
  match checkAccess s r t needR a 8 false with
  | .error x => .error x
  | .ok (pl, s) =>
    match readPlace s r t a 8 pl with
    | .error x => .error x
    | .ok (z, s) => .ok (s.readMem z.key 8, s)

/-- The ACK of a taster has reached a stamp's sequence (R335). -/
def stampPassed (s : State) (p : PartId) (core : CoreId) (seq : Nat) : Bool := seqGe (s.core p core).w.logseq.toNat seq

/-- Another LOGN of the core waits on a STAMP: no record after it is dispatched meanwhile (R335). DEDUCED (log 34). -/
def stampAhead (s : State) (r : TRef) : Bool :=
  (slotThreads r.part r.core (s.core r.part r.core).w.slots).any (fun e =>
    e.1 != r && (match e.2.wait with
      | some (.stamp q seq _) => !stampPassed s r.part q seq
      | _ => false))

/-- A record that is to be dispatched: its handler's entry, or the record taken without one (R333). A word that ends here otherwise leaves the
record untaken. -/
def dispatchRecord (first : State) (r : TRef) (t : Thread) (wc : CoreId) (x : LogRec) (s : State) (go : State → Res) : Res :=
  let p := r.part
  let w := (s.core p wc).w
  let w' := takeRecord w x
  let untaken (s : State) : State := s.modCoreW p wc (fun k => { k with log := w.log })
  match tableEntry (s.modCoreW p wc (fun _ => w')) r t x.type with
  | .error (.trap k a _) => .trap k a first
  | .error (.drop q s) => .drop q (untaken s)
  | .error (.wait q s) => .wait q (untaken s)
  | .error e => e
  | .ok (entry, s) =>
    if entry = 0 then go s
    else if !entryOk entry then .trap .address (some entry) first
    else
      .done { Commit.none with
        regs := [(0, word x.seq), (1, word x.head), (2, dispatchValue w w' x), (3, (kget w'.log.addrs x.slot).getD 0),
                 (15, followPc t first)],
        target := some entry } s

/-- The loop of LOGN (R353); `first` is the state before the word, which a fault leaves as it was. A STAMP is taken before its wait. -/
def lognLoop (first : State) (r : TRef) (t : Thread) (wc : CoreId) : Nat → State → Res
  | 0, s => .wait .record s
  | n + 1, s =>
    let p := r.part
    let w := (s.core p wc).w
    match nextRecord s p w with
    | none => .wait .record s
    | some x =>
      match recordPoisoned s p w x with
      | some a => .trap .poison (some a) first
      | none =>
        let taken := s.modCoreW p wc (fun _ => takeRecord w x)
        if x.type = 4 then
          match corePut (x.info / 2 ^ 13) with
          | none => lognLoop first r t wc n taken
          | some q =>
            let seq := x.words.headD 0
            if stampPassed s p q seq then lognLoop first r t wc n taken else .wait (.stamp q seq s.cycle) taken
        else if x.type = 15 ∧ x.info / 2 ^ 16 = 0 then lognLoop first r t wc n taken
        else dispatchRecord first r t wc x s (lognLoop first r t wc n)

/-- LOGN (R353): on a core that is no worker's taster the target fault, unless it already waits for a record. -/
def execLogn (s : State) : Out :=
  runWord [] (fun r t s =>
    match t.wait with
    | some (.stamp q seq since) =>
      if !stampPassed s r.part q seq then .wait (.stamp q seq since) s
      else
        match workerOf s r.part r.core with
        | some wc => lognFrom s r t wc
        | none => .wait .record s
    | _ =>
      match workerOf s r.part r.core with
      | some wc => if stampAhead s r then .wait .record s else lognFrom s r t wc
      | none => if t.wait = some .record then .wait .record s else .trap .target none s) s
where
  /-- The records that wait in a worker's log are tried in turn. -/
  lognFrom (s : State) (r : TRef) (t : Thread) (wc : CoreId) : Res :=
    let l := (s.core r.part wc).w.log
    lognLoop s r t wc ((l.seq + 2 ^ 32 - l.taken % 2 ^ 32) % 2 ^ 32 + 1) s

/-- LOGA (R354): a fence, then ACK. -/
def execLoga (a : Src) (s : State) : Out :=
  runWord [a] (fun r t s =>
    match workerOf s r.part r.core with
    | none => .trap .target none s
    | some wc =>
      fenced s r t .part (fun _ => atCommit s (fun _ =>
        let x := field (t.rd a) 0 32
        let ack := (s.core r.part r.core).w.logseq.toNat
        let h := (s.core r.part wc).w.log.taken
        let new := if seqGt x h then h else if seqGt x ack then x else ack
        let s := s.modCoreW r.part r.core (fun w => { w with
          logseq := BitVec.ofNat 32 new, ackIn := s.cycle, ackWas := if w.ackIn = s.cycle then w.ackWas else w.logseq })
        .done Commit.none (s.modCoreW r.part wc (fun w => { w with
          log := { w.log with unacked := w.log.unacked.filter (fun e => seqGt e.1 new) } }))))) s

end Sys2Proof.Machine
end

