-- ==== Sys2Proof/Machine/Reset.lean ====
section
/-! DEFINITION. Uncorrectable errors (21 R339), partition reset (R340, R341), power-on reset, bring-up, clocks and power gating (30 R426
to R429), and the memory controller's scrub (12 R213, R215). -/
namespace Sys2Proof.Machine

/-! ## Wiping a partition's structures (R340, R403) -/

/-- TCMs, scratchpads and the shared-SRAM share wiped to zero and empty. DEDUCED (log 38). -/
def wipeWindows (s : State) (p : PartId) : State := s.wipeRange (spaceBase p 1) (spaceBase p 0 + 4 * 2 ^ 48)

/-- The launch window wiped, at the LWBASE in force when the reset began (R145). -/
def wipeLaunch (s : State) (p : PartId) : State :=
  let k := keyMain p (field (s.part p).rstBase 20 28 * 2 ^ 20)
  s.wipeRange k (k + 2 ^ 20)

/-- The partition whose unit takes a step, for the steps that end with the partition's reset. -/
def stepOf (i : Instr) : Option PartId :=
  match i with
  | .memoryReply r _ | .migration r | .migrationArrival r | .scrubComplete r | .lognWatchdog r | .remoteErrorReply r _ => some r.part
  | .registerDelivery m | .deliveryRetry m => some m.dst.part
  | .packetExpansion p | .packetDispatch p _ | .packetAging p _ _ | .doneWrite p _ | .activeMessageArrival p _ _
  | .serverRunStart p _ | .feHomeOperation p _ | .feListServe p _ | .sendArrival p _ _ | .sendRetry p _ _ | .ringBufferDrain p _
  | .lrwRetry p _ | .remoteUpdate p _ | .addmPerform p _ | .sreq p _ _ _ | .sgnt p _ _ _ _ | .pourMessage p _ _ _ _ _ _ _ | .pack p _ _ _ _
  | .fpr p _ _ _ | .fpd p _ _ _ _ _ _ | .srev p _ _ _ | .sret p _ _ _ _ _ _ _ | .tadd p _ _ _ _ _ | .tack p _ _ _ | .boundedLoad p _
  | .colourPour p _ _ | .copyBeat p _ | .copyComplete p _ | .matrixJobPick p _ | .matrixGroup p _ | .matrixJobComplete p _
  | .mxstExecute p _ | .recordWriteDone p _ | .syshRun p _ | .gangSwitch p | .coreDrained p _ | .worldExchange p | .gangResume p
  | .dumpComplete p | .collContribution p _ | .collComplete p _ | .collTimeout p _ | .marker p _ | .capturePulse p | .snapshotCut p
  | .captureResume p | .pageCopy p _ | .snapshotWriter p | .snapshotNotice p _ _ _ _ | .restoreComplete p | .linkInterval p
  | .syncRecord p _ | .launchRecord p _ => some p
  | _ => none

/-- The steps due for a partition are lost with it. -/
def dropSteps (s : State) (p : PartId) : State :=
  { s with
    events := s.events.filter (fun i => stepOf i != some p), waiting := s.waiting.filter (fun i => stepOf i != some p),
    timers := s.timers.filter (fun e => stepOf e.2 != some p) }

/-- A partition with every register and unit at its reset value (R6): what outlasts a reset is kept (R213, R214, R397, R399, R400, R404), and
the worlds whose save areas stand in memory; the ids of its threads are freed (R136). DEDUCED (log 38). DEDUCED (log 40). -/
def freshPartition (q : Partition) (p : PartId) : Partition :=
  { Partition.reset p.val with
    pins := q.pins, retired := q.retired, worlds := q.worlds, snap := { SnapSt.reset with images := q.snap.images },
    nextTid := q.nextTid, threadsMade := q.threadsMade,
    freedTids := restingTids q ++ (q.cores.flatMap (fun e => slotTids e.2.w.slots ++ e.2.w.landing.map (fun t => t.tid))).map
      (fun n => (n, q.threadsMade)),
    tdisp := q.tdisp, owner := q.owner, keyGen := q.keyGen, wipe := q.wipe, linkKeys := q.linkKeys, unreachable := q.unreachable, frozen := q.frozen,
    hostAddr := q.hostAddr, inService := q.inService, caddyUnits := q.caddyUnits, corrected := q.corrected }

/-! ## Ranks that go missing (R378) -/

/-- A block of a failed collective is discarded: one that came early, or else the one that is still to come. -/
def discardBlock (q : Partition) (k : BlockKey) : Partition :=
  match q.collEarly.find? (fun m => m.miss.isNone && blockOf m == k) with
  | some m => { q with collEarly := q.collEarly.erase m }
  | none => { q with collMissed := q.collMissed ++ [k] }

/-- The word of a missing rank that came early for a failed collective says nothing more. -/
def discardWord (q : Partition) (k : BlockKey) : Partition :=
  match q.collEarly.find? (fun m => m.miss.isSome && blockOf m == k) with
  | some m => { q with collEarly := q.collEarly.erase m }
  | none => q

/-- A rank of a collective is missing: what the ranks not yet in have sent or still send to it is discarded, and the collective's end is
due. DESIGN CHOICE (log 55). -/
def missRank (s : State) (p : PartId) (c : Coll) (rank : Nat) : State :=
  if c.missed.isSome then s
  else
    let others := (List.range c.gsize).filter (fun r => r != c.rank)
    (s.modPart p (fun q =>
      let q := { q with colls := q.colls.map (fun x => if x.seq = c.seq then { x with missed := some rank } else x) }
      let q := ((others.filter (fun r => (kget c.got r).isNone)).filterMap c.blockKey).foldl discardBlock q
      (others.filterMap c.blockKey).foldl discardWord q)).push (.collTimeout p c.seq)

/-- The lowest rank of a collective that a partition has. -/
def rankOf (c : Coll) (modid : BitVec 16) (q : PartId) : Option Nat := (List.range c.gsize).find? (fun r => c.members[r]? == some (modid, q))

/-- The word of a rank that another is missing, sent to every other member (R378). -/
def tellMissing (s : State) (p : PartId) (c : Coll) (rank : Nat) : State :=
  (c.members.mapIdx (fun i m => (i, m))).foldl (fun s e =>
    let m : CollMsg :=
      { srcMod := s.modid, src := p, colour := false, dst := e.2.2, rank := c.rank, toRank := e.1, miss := some rank, again := false, gsize := c.gsize,
        root := c.root, op := c.op, ty := c.ty, red := c.red, count := c.count, tag := c.tag, data := [] }
    if e.1 = c.rank then s
    else if e.2.1 = s.modid then s.push (.collContribution e.2.2 m)
    else if linked (s.part p) e.2.1 e.2.2 then { s with portOut := s.portOut ++ [.coll e.2.1 e.2.2 m] } else s) s

/-- A partition can no longer be reached: its ranks are missing in the collectives of the module's others (R378). -/
def ranksGone (s : State) (modid : BitVec 16) (q : PartId) : State :=
  (allParts.filter (fun p => !(modid == s.modid && p == q))).foldl (fun s p =>
    (s.part p).colls.foldl (fun s c =>
      match rankOf c modid q with
      | some r => tellMissing (missRank s p c r) p c r
      | none => s) s) s

/-- A partition's own collectives end without it: its peers complete them as incomplete (R378, R405). -/
def leaveColls (s : State) (p : PartId) : State :=
  let s := (s.part p).colls.foldl (fun s c => tellMissing s p c c.rank) s
  (ranksGone s s.modid p).modPart p (fun q => { q with colls := [] })

/-! ## What others wait for at a partition that ends -/

/-- Requests of other partitions that wait in the partition's lists end with error replies (R340, R370). -/
def refuseWaiters (s : State) (p : PartId) : State :=
  (s.part p).fe.foldl (fun s e => (e.2.full ++ e.2.empty).foldl (fun s q =>
    match q.who with
    | .remote m r tid => replyError s m r tid
    | .thread _ _ | .record _ | .engine => s) s) s

/-- Runs for threads of other partitions that are queued end unmade (R159). DEDUCED (log 83). -/
def refuseQueued (s : State) (p : PartId) : State :=
  (s.part p).coreIds.foldl (fun s c =>
    ((s.core p c).w.serverQ.filter (fun m => fromPeer s m.srcMod m.src.part p)).foldl refuseActive s) s

/-- Runs for threads of other partitions end unmade: those queued, and those under way (R159). DEDUCED (log 83). -/
def abandonRuns (s : State) (p : PartId) : State :=
  ((s.threads p).filterMap (fun e => e.2.serves.map (fun m => (e.2, m)))).foldl (fun s e =>
    if fromPeer s e.2.srcMod e.2.src.part p then serverReply s e.1 true else s) (refuseQueued s p)

/-! ## Partition reset (R340) -/

/-- Cycles from a reset's start to its wipe, 1.9 ms, and from the wipe to the return to service, 50 us: times within R340's bounds. DESIGN CHOICE (log 39). -/
def wipeTicks : Nat := 190000
def serviceTicks : Nat := 5000

/-- A partition reset begins: the routers refuse requests, those that wait at its inputs included, its ranks are missing elsewhere, and
nothing issues. One asked for before the partition is in service, or while one runs, is ignored (R430). -/
def startReset (s : State) (p : PartId) : State :=
  if !(s.part p).inService || (s.part p).rst != .none then s
  else
    let s := (leaveColls s p).pushAll (s.part p).snap.held
    (s.modPart p (fun q => { q with
      rst := .refusing, rstBase := q.r.lwbase, snap := { q.snap with held := [] } })).afterTicks wipeTicks (.resetWipe p)

/-- PARTITION_RESET: a reset commanded by the Idran controller (R340). -/
def execPartitionReset (p : PartId) (s : State) : Out := .next (startReset s p)

/-- RELCTL_PRST (R341). -/
def execRelctlPrst (p : PartId) (s : State) : Out := .next (startReset s p)

/-- The ticks that a life-cycle wipe takes: about 1.5 s (R403). DESIGN CHOICE (log 39). -/
def lifeTicks : Nat := 150000000

/-- RESET_WIPE: phase 3 (R340): windows, slices, registers and the launch window wiped. Memory modules keep
every store performed (29: they keep x, y and z), those whose lines are dirty in a cache among them. DEDUCED (log 38). -/
def execResetWipe (p : PartId) (s : State) : Out :=
  if (s.part p).rst != .refusing then .next s
  else
    let s := dropSteps (wipeLaunch (wipeWindows (abandonRuns (refuseWaiters s p) p) p) p) p
    .next ((s.setPart p { freshPartition (s.part p) p with rst := .wiped }).afterTicks serviceTicks (.resetComplete p))

/-- RESET_COMPLETE: phase 4 (R340): back in service, event 2; a life-cycle wipe that the reset interrupted starts again (R405). -/
def execResetComplete (p : PartId) (s : State) : Out :=
  if (s.part p).rst != .wiped then .next s
  else
    let s := (s.modPart p (fun q => { q with rst := .none })).hostEvent p 2
    .next (if (s.part p).wipe.isSome then
      let s := { s with timers := s.timers.filter (fun e => e.2 != Instr.lifeCycleWipeComplete p) }
      s.afterTicks lifeTicks (.lifeCycleWipeComplete p)
    else s)

/-! ## Uncorrectable errors (R339) -/

/-- A thread with an uncorrectable register is killed (R339). -/
def registerError (s : State) (r : TRef) : State :=
  match s.thread r with
  | some t => killThread (postRecord s r.part (TrapRec.ofThread r t 0x037 1 t.pc 0)) r
  | none => s

/-- Dirty data of an L1 are lost: the line is poisoned at its home as a dirty slice line is (R212). DEDUCED (log 24). -/
def l1Lost (s : State) (p : PartId) (c : CoreId) (x : L1Line) : State :=
  let s := s.dropL1 p c x.line
  let s := ((s.revokeAll p x.line).invalidateAll p x.line none).dropSl p x.line
  postRecord (s.poisonLine x.key) p (lineRecord s p 0x040 1 x.line x.dom x.key 0)

/-- UNCORRECTABLE_ERROR: an error beyond correction at a site of R339, or one of a single bit that was corrected and is counted: in a memory
module's sector (R213), or in another memory. -/
def execUncorrectableError (e : ErrSite) (s : State) : Out :=
  match e with
  | .generalReg r | .vectorReg r => .next (registerError s r)
  | .windowWord key => .next (if key / 2 ^ 48 % 4 = 0 then s else s.poisonWord key)
  | .l1Data p c line =>
    match s.l1 p c line with
    | none => .next s
    | some x => .next (if x.st == .m || x.st == .o then l1Lost s p c x else s.modPart p (fun q => { q with corrected := q.corrected + 1 }))
  | .l1Code p c line => .next (s.modCoreC p c (fun k => { k with l1i := k.l1i.filter (fun x => x.line != line) }))
  | .fetchBuffer r line =>
    .next (s.modThread r (fun t => { t with fetchBuf := t.fetchBuf.filter (fun x => x.line != line) }))
  | .sliceLine p line => .next (l2Error s p line 0)
  | .moduleSector p pa => .next (moduleError s p (pa % 2 ^ 48))
  | .correctedSector p pa => .next (correctSector s p (pa % 2 ^ 48))
  | .corrected p => .next (s.modPart p (fun q => { q with corrected := q.corrected + 1 }))
  | .tablePage p frame =>
    let x := poisonTable s p frame
    .next (if x.2 then postRecord x.1 p { TrapRec.none with code := 0x042, cls := 1, d0 := word (2 ^ 16 * frame) } else x.1)
  | .copySource p c =>
    match (s.core p c).w.copyQ with
    | j :: _ =>
      let n := j.form.beat j.pos
      .next (if j.finished then s else passBeat (failBeat (leaveBytes s p c j 0 n) p c j 1) p c j n)
    | [] => .next s
  | .matrixOperand p k =>
    match (s.cluster p k).w.run with
    | some x => .next (poisonRun s p k x)
    | none => .next s
  | .control p => .next (startReset s p)

/-- SCRUB_PASS: a scrub pass begins: the counts of corrected reads start anew (R213), and the scrub reads every line held in the slices, so
that an armed injection fires at its way and sector (R215). -/
def execScrubPass (p : PartId) (s : State) : Out :=
  let s := s.modPart p (fun q => { q with corrections := [] })
  match (s.part p).slices.find? (fun l => errFires s p l.line 3) with
  | some l => .next (homeRead s p l.line 3 0)
  | none => .next s

/-! ## Power (R278, R210, R426 to R429) -/

/-- CLOCK_THROTTLE: the clocks are lowered or restored by one step (R426). DESIGN CHOICE (log 67). -/
def execClockThrottle (lower : Bool) (s : State) : Out :=
  .next { s with clockSteps := if lower then Nat.min (s.clockSteps + 1) 15 else s.clockSteps - 1 }

/-- CORE_POWER_GATING: a gated core's PLB is empty (R210) and its tagged slots are orphaned (R278). DESIGN CHOICE (log 37). -/
def execCorePowerGating (p : PartId) (c : CoreId) (gate : Bool) (s : State) : Out :=
  if gate then .next (orphanSlots (s.modCoreC p c (fun k => { k with gated := true, plb := [] })) p c (fun _ => true))
  else .next (s.modCoreC p c (fun k => { k with gated := false }))

/-- A partition as power-on leaves it before it enters service: wiped, under a fresh key, with its pin list and retired frames
(R427, R428). -/
def powerPartition (q : Partition) (p : PartId) : Partition :=
  { Partition.reset p.val with pins := q.pins, retired := q.retired, keyGen := q.keyGen + 1, inService := false }

/-- The signature of a firmware image that power-on starts verifies (R401, R427). -/
def bootVerifies (index : Nat) : Bool := Config.verifies (Config.bootSignature index) (shake256 64 (Config.firmware index))

/-- Steps 1 to 3 of the bring-up have succeeded: the signatures of both firmware images verify, and the die-to-die links have trained (R427).
DESIGN CHOICE (log 41). -/
def bootOk (free : Nat) : Bool := bootVerifies 1 && bootVerifies 2 && Config.diesTrained free

/-- Where the bring-up stands after a step has failed: no partition enters service (R427). -/
def bootStopped : Nat := 17

/-- POWER_ON_RESET (R427, R428): every unit at its reset state, the timestamp at 0, no partition in service yet; a step that fails ends the
sequence there. DEDUCED (log 41). -/
def execPowerOnReset (s : State) : Out :=
  .next (allParts.foldl (fun t p => t.setPart p (powerPartition (s.part p) p))
    { State.reset with bringUp := if bootOk s.free then 0 else bootStopped, free := s.free + 1 })

/-- PARTITION_IN_SERVICE: the next partition in ascending order enters service if its links have trained (R427, R429). -/
def execPartitionInService (p : PartId) (linksTrained : Bool) (s : State) : Out :=
  if s.bringUp = p.val then
    .next { s.modPart p (fun q => { q with
      inService := linksTrained, serviceAt := if linksTrained then some s.cycle else none }) with bringUp := p.val + 1 }
  else .next s

end Sys2Proof.Machine
end

