-- ==== Sys2Proof/Machine/Gang.lean ====
section
/-! DEFINITION. The gang switch with its save area (20 R321, R322, 22 R351, 28 R413) and core dumps (20 R323). -/
namespace Sys2Proof.Machine

/-! ## The save area (R322) -/

/-- The slot state of R322 at a drain's end. -/
def slotCode (t : Thread) : Nat :=
  if t.parked then 3 else if t.dropped.isSome then 2 else if t.pend.isSome || t.wait == some .inject then 5
  else if t.wait.isSome then 4 else 1

/-- The full bits of a register file as a number. -/
def fullMask (f : Vector Bool 16) : Nat :=
  (List.range 16).foldl (fun n i => if f.toList.getD i false then n + 2 ^ i else n) 0

/-- The migration message of a thread (R142). -/
def messageWords (t : Thread) : List Word :=
  t.regs.g.toList ++
  [word (va57 t.pc), t.status,
   word (t.strain.d.toNat * 2 ^ 46 + t.strain.g.toNat * 2 ^ 34 + (if t.pin then 2 ^ 32 else 0) + t.ctx.toNat * 2 ^ 24 +
     t.dset % 256 * 2 ^ 16 + fullMask t.regs.full),
   word (t.strain.c.toNat * 2 ^ 52 + t.tid % 2 ^ 20 * 2 ^ 32 + t.corr.toNat)]

/-- Words written to the cells of a record at their offsets. -/
def writeAt (s : State) (k : Nat) (l : List (Nat × Word)) : State := l.foldl (fun s e => s.writeMem (k + e.1) 8 e.2) s

/-- Numbered words from an offset on. -/
def wordsFrom (off : Nat) (l : List Word) : List (Nat × Word) := l.mapIdx (fun i v => (off + 8 * i, v))

/-- The eight words of a vector register. -/
def vecWords (v : BitVec 512) : List Word := (List.range 8).map (fun i => v.extractLsb' (64 * i) 64)

/-- The 320 bytes of stream i in a slot record: its state, in a format that only the part reads back, and its buffer (R322). DESIGN CHOICE (log 53). -/
def streamWords (i : Nat) (x : Stream) : List (Nat × Word) :=
  wordsFrom (0x300 + 0x140 * i) ((List.range 8).map (fun n => Config.streamState x.bound x.ended x.buf.length n)) ++
  wordsFrom (0x340 + 0x140 * i) ((List.range 32).map (fun n =>
    word (memRead ((x.buf.take 256).mapIdx (fun k b => (k, b))) (8 * n) 8)))

/-- The words of a slot record (R322): message, exception registers, state, masks, vectors and streams. -/
def slotRecord (t : Thread) (code : Nat) : List (Nat × Word) :=
  wordsFrom 0 (messageWords t) ++ [(0x0A0, t.epc), (0x0A8, t.ecause), (0x0B0, t.eaddr), (0x0B8, word code)] ++
  wordsFrom 0x0C0 t.m.toList ++ wordsFrom 0x100 (t.v.toList.flatMap vecWords) ++
  ((List.range 4).map (fun i => streamWords i (t.streams.toList.getD i Stream.unbound))).flatten

/-- The counter block of a core in the world header (R413). -/
def counterWords (w : CoreWorld) : List Word := w.pcnt.toList ++ [w.psel, w.trcctl, w.trcptr, w.trctrg]

/-- The validity word of a save area (R322). -/
def validWord (p : PartId) : Word := word (0x5A31 * 2 ^ 48 + p.val)

/-- The size of a save area (R322). -/
def areaSize : Nat := 0x1500000

/-- Every line of a range of memory collected at its home before the part's units write it. -/
def collectRange (s : State) (p : PartId) (lo hi : Nat) : State :=
  ((s.part p).slices.filter (fun l => decide (lo ≤ l.key) && decide (l.key < hi))).foldl (fun s l => sliceEvict s p l.line) s

/-- A core's block: its slots' records, the empty ones with state 0. -/
def writeCore (s : State) (k : Nat) (w : CoreWorld) (c : CoreId) : State :=
  let at_ (i : SlotId) := k + 0x10000 + c.val * 0xA000 + 0x800 * i.val
  allSlots.foldl (fun s i =>
    match kget w.slots i.val with
    | some (.thread t) | some (.reserved t) => writeAt s (at_ i) (slotRecord t (slotCode t))
    | _ => s.writeMem (at_ i + 0x0B8) 8 0) s

/-- The 16 KiB of an accumulator slot: cell 64i + j at 4(64i + j). -/
def writeSlotCells (s : State) (k : Nat) (a : AccSlot) : State :=
  a.cells.foldl (fun s e => s.writeMem (k + 4 * e.1) 4 (e.2.setWidth 64)) { s with mem := memWipe s.mem k (k + 0x4000) }

/-- A world's documented bytes written from a cell on (R322, R413). -/
def writeWorld (s : State) (k : Nat) (w : World) : State :=
  let coreOf (c : CoreId) := (kget w.cores c.val).getD w.idle
  let s := s.writeMem k 8 (word s.tstamp)
  let s := allCores.foldl (fun s c => writeAt s (k + 0x40 + 64 * c.val) (wordsFrom 0 (counterWords (coreOf c)))) s
  let s := allCores.foldl (fun s c => writeCore s k (coreOf c) c) s
  (List.range 32).foldl (fun s n =>
    let cw := (kget w.clusters n).getD ClusterWorld.reset
    (List.range 16).foldl (fun s i => writeSlotCells s (k + 0xB00000 + n * 0x50000 + 0x4000 * i) (accOf cw i)) s) s

/-- A world written to its save area, the validity word last (R322), but to lines that are poisoned (R212). DESIGN CHOICE (log 53). -/
def writeArea (s : State) (p : PartId) (base : Nat) (w : World) : State :=
  let k := keyMain p base
  let s := collectRange s p k (k + areaSize)
  ((writeWorld s k w).writeMem (k + 8) 8 (validWord p)).keepLines s (s.stuckLines k areaSize)

/-! ## Draining (R321, R322) -/

/-- The thread waits in a full/empty list, of its partition or of another of the module (R152, R370). -/
def feListed (s : State) (p : PartId) (tid : Nat) : Bool :=
  allParts.any (fun q => (s.part q).fe.any (fun e => (e.2.full ++ e.2.empty).any (feOf s.modid p tid (q == p))))

/-- The thread waits in an LRW's queue: for the reservation, or for room in the tables (R162). -/
def lrwListed (q : Partition) (tid : Nat) : Bool :=
  q.lrwFull.any (fun w => w.tid == tid) || q.resv.any (fun e => (e.2.drop 1).any (fun w => w.tid == tid))

/-- A wait that comes to its end in a drain, as every reply does (R321, R322, R387): a POUR.thr's and a CWB's, or a pair's late word. -/
def Wait.drains : Wait → Bool
  | .pours false | .pack _ | .late _ | .fence .thr => true
  | _ => false

/-- A thread in a full/empty list, in an LRW's queue, counted at a barrier or sending a message: its world may be switched out (R322). Every
other reply of an issued bundle arrives in the drain. -/
def switchableWait (s : State) (r : TRef) (t : Thread) : Bool :=
  match t.wait with
  | some .reply =>
    t.barGen.isSome || lrwListed (s.part r.part) t.tid || feListed s r.part t.tid ||
    (t.pend.any (fun q => q.dest.isNone && q.commit.log.any (fun i => match i with | .atom 13 _ _ => true | _ => false)))
  | some w => !w.drains
  | none => true

/-- A core holds nothing that the drain still completes. -/
def coreReady (s : State) (p : PartId) (c : CoreId) : Bool :=
  let w := (s.core p c).w
  w.steepQ.isEmpty &&
  w.slots.all (fun e =>
    if h : e.1 < 16 then
      match e.2 with
      | .thread t => switchableWait s ⟨p, c, ⟨e.1, h⟩⟩ t
      | .reserved _ | .freed => true
      | .scrub _ => false
    else true)

/-- The engines and the partition's queues are drained: matrix jobs past their last group complete, the dump and every collective
done. -/
def enginesReady (q : Partition) : Bool :=
  q.clusters.all (fun e => e.2.w.run.isNone && e.2.w.drain.isEmpty && e.2.w.storing.isNone) && q.dumps.isEmpty && q.colls.isEmpty

/-- A running job that has not entered its first group goes back to its queue (R321). -/
def stopRun (k : ClusterWorld) : ClusterWorld :=
  match k.run with
  | some x => if x.group = 0 then { k with run := none } else k
  | none => k

/-- GANG_SWITCH: the armed time is reached: GSWT returns to 0, nothing issues, and every share is returned (R321, R351). -/
def execGangSwitch (p : PartId) (s : State) : Out :=
  let q := s.part p
  if q.r.gswt = 0 || s.tstamp < q.r.gswt.toNat || q.gang != .idle || q.snap.phase != .idle then .next s
  else
    let s := s.modPart p (fun q => { q with
      gang := .draining, ready := [], r := { q.r with gswt := 0 },
      clusters := kmapVals (fun _ (c : Cluster) => { c with w := stopRun c.w }) q.clusters })
    .next (s.revokeEvery p)

/-- CORE_DRAINED: a core reports ready (R321). -/
def execCoreDrained (p : PartId) (c : CoreId) (s : State) : Out :=
  .next (if (s.part p).gang == .draining && coreReady s p c && !(s.part p).ready.contains c
    then s.modPart p (fun q => { q with ready := q.ready ++ [c] }) else s)

/-! ## Exchanging worlds (R321, R322, R351) -/

/-- A wait that goes on after the switch: for a completion, for the fabric, or for the ACK of a STAMP that its LOGN has taken. -/
def keepsWait (t : Thread) : Bool :=
  t.pend.isSome || (match t.wait with
    | some .inject | some (.stamp _ _ _) => true
    | _ => false)

/-- A thread as a switch saves it: waits that reissue read their sources and make their checks afresh, buffers are dropped, and a
reservation is lost. -/
def savedThread (t : Thread) : Thread :=
  { t with
    wait := if keepsWait t then t.wait else none, latch := if t.wait = some .inject then t.latch else none, prepared := none,
    mark := none, resv := none, fetchBuf := [] }

/-- Threads leave the wait lists before they are saved (R152, R162, R322): those that waited in one reissue. -/
def leaveWaits (s : State) (p : PartId) : State :=
  (s.threads p).foldl (fun s e =>
    let listed := feListed s p e.2.tid || lrwListed (s.part p) e.2.tid
    (feForget s p e.2.tid).modThread e.1 (fun t => if listed then { t with wait := some .queue, pend := none } else t)) s

/-- Threads leave wait lists and reservations (R322): the reservations end together, and pass to no one. -/
def leaveLists (s : State) (p : PartId) : State :=
  (leaveWaits s p).modPart p (fun q => { q with resv := [], lrwFull := [] })

/-- MSG traffic of the partition under way, which falls out into the spill area, and completions of its threads (R321, R322). -/
def isSpill (p : PartId) (i : Instr) : Bool :=
  match i with
  | .sendArrival p' _ _ | .sendRetry p' _ _ | .activeMessageArrival p' _ _ => p' == p
  | .migrationArrival r | .migration r | .memoryReply r _ => r.part == p
  | _ => false

/-- A world with each of its threads as a save leaves it. -/
def savedWorld (w : World) : World :=
  { w with cores := kmapVals (fun _ (k : CoreWorld) => { k with slots := kmapVals (fun _ x => mapSlot savedThread x) k.slots }) w.cores }

/-- The running world of a partition, as data. -/
def worldOf (s : State) (p : PartId) : World :=
  let q := s.part p
  { out := true,
    cores := q.cores.map (fun e => (e.1, e.2.w)),
    idle := q.idleCore.w,
    clusters := q.clusters.map (fun e => (e.1, e.2.w)),
    spill := s.waiting.filter (isSpill p) ++ s.events.filter (isSpill p) ++ (s.timers.filter (fun e => isSpill p e.2)).map (fun e => e.2),
    kept := [], back := none }

def emptyWorld : World :=
  { out := true, cores := [], idle := CoreWorld.reset, clusters := [], spill := [], kept := [], back := none }

/-- Steps under way that belong to the world leave with it. -/
def dropSpill (s : State) (p : PartId) : State :=
  { s with
    events := s.events.filter (fun i => !isSpill p i), waiting := s.waiting.filter (fun i => !isSpill p i),
    timers := s.timers.filter (fun e => !isSpill p e.2) }

/-- The base of the area that WSCUR or WSNEXT names. -/
def areaBase (v : Word) : Nat := field v 16 32 * 2 ^ 16

/-- Killed threads of a world that leaves: their scrubs are over, and their ids are free (R136, R314). -/
def scrubAll (s : State) (p : PartId) : State :=
  let s : State := { s with timers := s.timers.filter (fun e => match e.2 with
    | .scrubComplete r => r.part != p
    | _ => true) }
  (s.part p).coreIds.foldl (fun s c =>
    (s.core p c).w.slots.foldl (fun s e =>
      match e.2 with
      | .scrub tid => (freedTid s p tid).modCoreW p c (fun w => { w with slots := kdel w.slots e.1 })
      | .thread _ | .reserved _ | .freed => s) s) s

/-- The outgoing world is saved, or its threads are killed (R351). DESIGN CHOICE (log 53). -/
def saveWorld (s : State) (p : PartId) : State :=
  let cur := (s.part p).r.wscur
  if bit cur 0 then
    let s := leaveLists s p
    let w := worldOf s p
    (dropSpill (writeArea s p (areaBase cur) w) p).modPart p (fun q => { q with worlds := kput q.worlds (areaBase cur) (savedWorld w) })
  else dropSpill (scrubAll (killWhere s p (fun _ => true)) p) p

/-- A page of the save area that the page copier must first copy: the state with the switch in its order (R389). -/
def areaHeld (s : State) (p : PartId) : Option State :=
  let cur := (s.part p).r.wscur
  if bit cur 0 && (s.part p).r.snapn != 0 then
    (List.range (areaSize / 2 ^ 16)).findSome? (fun i => heldPage s p (keyMain p (areaBase cur + 2 ^ 16 * i)) (.step (.worldExchange p)))
  else none

/-- The clean pages of the save area are dirty (R389). -/
def areaDirty (s : State) (p : PartId) : State :=
  let cur := (s.part p).r.wscur
  if bit cur 0 && (s.part p).r.snapn != 0 then
    (List.range (areaSize / 2 ^ 16)).foldl (fun s i =>
      let k := keyMain p (areaBase cur + 2 ^ 16 * i)
      dirtyFrame (heldPassed s p k (.step (.worldExchange p))) p k) s
  else s

/-- The world that a switch installs: that of WSNEXT, or an empty one (R322, R351). DESIGN CHOICE (log 53). -/
def nextWorld (s : State) (p : PartId) : World :=
  let nxt := (s.part p).r.wsnext
  if bit nxt 0 && s.readMem (keyMain p (areaBase nxt) + 8) 8 == validWord p then
    (kget (s.part p).worlds (areaBase nxt)).getD emptyWorld
  else emptyWorld

/-- A world's cores and clusters with their counters become the partition's. -/
def installCores (q : Partition) (w : World) : Partition :=
  let old := kmapVals (fun i (k : Core) => { k with w := (kget w.cores i).getD w.idle }) q.cores
  let cores := w.cores.foldl (fun (m : KMap Core) e => match kget m e.1 with
    | some _ => m
    | none => kput m e.1 { w := e.2, c := q.idleCore.c }) old
  let oldK := kmapVals (fun i (k : Cluster) => { k with w := (kget w.clusters i).getD ClusterWorld.reset }) q.clusters
  let clusters := w.clusters.foldl (fun (m : KMap Cluster) e => match kget m e.1 with
    | some _ => m
    | none => kput m e.1 { Cluster.reset with w := e.2 }) oldK
  { q with cores := cores, idleCore := { q.idleCore with w := w.idle }, clusters := clusters, spill := w.spill }

/-- A collective that used in-switch reduction completes at its resume with STATE 1 and its own rank missing (R393). -/
def endSwitched (l : List Coll) (done : List (Nat × Word)) : List (Nat × Word) :=
  ((l.filter (fun c => c.insw)).map (fun c => (c.seq.toNat, word (c.rank * 2 ^ 28 + 1))) ++ done).take 64

/-- The dispatcher, barrier waiters and collectives of a restored world (R388, R393). -/
def installBack (q : Partition) (x : Rollback) : Partition :=
  let clusters := x.queues.foldl (fun (m : KMap Cluster) e => kput m e.1 { (kget m e.1).getD Cluster.reset with queues := e.2 }) q.clusters
  { q with
    launches := x.launches, expansion := x.expansion, nextLaunch := x.nextLaunch, dsets := x.dsets, bars := x.bars,
    colls := x.colls.filter (fun c => !c.insw), collNext := x.collNext, collDone := endSwitched x.colls x.collDone,
    collEarly := x.collEarly, collMissed := x.collMissed, clusters := clusters }

/-- A world becomes the partition's running one; its area holds it no longer. -/
def installWorld (s : State) (p : PartId) (w : World) : State :=
  let s := s.modPart p (fun q => installCores q w)
  let s := match w.back with
    | some x => (s.modPart p (fun q => installBack q x)).pushAll (x.records.map (fun q => .feHomeOperation p q))
    | none => s
  s.modPart p (fun q => { q with
    worlds := kmapVals (fun i x => if i = areaBase q.r.wsnext ∧ bit q.r.wsnext 0
      then { x with out := false, kept := [], spill := [], back := none } else x) q.worlds })

/-- Deliveries kept for a world come into its cores' inboxes, to be applied at its resume (R320). DEDUCED (log 73). -/
def keepDeliveries (s : State) (p : PartId) (l : List Delivery) : State :=
  l.foldl (fun s m => match s.byTid p m.tid with
    | some (r, _) => s.modCoreW p r.core (fun w => { w with inbox := w.inbox ++ [m] })
    | none => s) s

/-- WORLD_EXCHANGE: the world is saved to WSCUR, the next is read from WSNEXT, and the two are exchanged (R321, R322). -/
def execWorldExchange (p : PartId) (s : State) : Out :=
  let q := s.part p
  if q.gang != .draining || !(q.coreIds.all (fun c => coreReady s p c)) || !enginesReady q then .next s
  else
    match areaHeld s p with
    | some s => .next (s.holdBack (.worldExchange p))
    | none =>
      let s := saveWorld ((areaDirty s p).revokeEvery p) p
      let w := nextWorld s p
      let s := keepDeliveries (installWorld s p w) p w.kept
      let s := s.modPart p (fun q => { q with gang := .restored, ready := [], r := { q.r with wscur := q.r.wsnext, wsnext := q.r.wscur } })
      .next ((s.part p).dsets.foldl (fun s e => releaseDset s p e.1) s)

/-- Work of a core that waits for a slot or for room starts again. -/
def kickCore (s : State) (p : PartId) (c : CoreId) : State :=
  let w := (s.core p c).w
  let s := if w.serverQ.isEmpty then s else s.push (.serverRunStart p c)
  let s := if (s.core p c).c.syshQ.isEmpty then s else s.push (.syshRun p c)
  let s := if w.rxBuf.isEmpty then s else s.push (.ringBufferDrain p c)
  let s := if w.steepQ.isEmpty then s else s.push (.addmPerform p c)
  let s := s.pushAll (w.outQ.map (fun q => .remoteUpdate p (bankCore (homeSlice q.line))))
  slotFreed s p c

/-- The inbox's deliveries for threads outside their handlers are applied (R320). DEDUCED (log 73). -/
def applyInbox (s : State) (p : PartId) (c : CoreId) : State :=
  let now := (s.core p c).w.inbox.filter (fun m => match s.byTid p m.tid with
    | some (r, t) => r.core == c && !t.active
    | none => false)
  let s := s.modCoreW p c (fun w => { w with inbox := w.inbox.filter (fun m => !now.contains m) })
  now.foldl (fun s m => match s.byTid p m.tid with
    | some (r, _) => applyDelivery s r m
    | none => s) s

/-- A barrier whose word has passed a waiting thread's generation releases it (R322). -/
def passedBarriers (s : State) (p : PartId) : List Instr :=
  (s.threads p).filterMap (fun e => match e.2.barGen with
    | some (key, gen) => if field (s.readMem key 8) 32 32 != gen then some (.memoryReply e.1 none) else none
    | none => none)

/-- GANG_RESUME: every core resumes issue, deliveries kept are applied, and the spilled flits come first (R321, R322). -/
def execGangResume (p : PartId) (s : State) : Out :=
  let q := s.part p
  if q.gang != .restored then .next s
  else
    let s := s.modPart p (fun q => { q with gang := .idle, spill := [] })
    let s := q.coreIds.foldl (fun s c => applyInbox s p c) s
    let s := (s.pushAll q.spill).pushAll (passedBarriers s p)
    .next (q.coreIds.foldl (fun s c => kickCore s p c) s)

/-! ## Core dumps (R323) -/

/-- An item of a dump: its size in bytes, and the words that are written, at their offsets. -/
abbrev DumpItem := Nat × List (Nat × Word)

/-- A record with nothing but its first word. DEDUCED (log 54). -/
def endRecord (code n : Nat) : DumpItem := (64, wordsFrom 0 [word (code * 2 ^ 52 + n), 0, 0, 0, 0, 0, 0, 0])

/-- The words of an accumulator slot, two cells to a word. -/
def slotDump (a : AccSlot) : DumpItem :=
  (0x4000, (List.range 2048).map (fun i =>
    (8 * i, word (((kget a.cells (2 * i + 1)).getD 0).toNat * 2 ^ 32 + ((kget a.cells (2 * i)).getD 0).toNat))))

/-- The accumulator slots of a partition that threads tag, in ascending order. -/
def taggedSlots (q : Partition) (tids : List Nat) : List AccSlot :=
  q.clusters.flatMap (fun e => (List.range 16).filterMap (fun i =>
    let a := accOf e.2.w i
    if a.tagged && tids.contains a.tid then some a else none))

/-- Every thread of a context in the running world: in slots, under way, and in landing queues. -/
def contextThreads (s : State) (p : PartId) (ctx : BitVec 8) : List Thread :=
  (s.part p).coreIds.flatMap (fun c =>
    let w := (s.core p c).w
    ((w.slots.filterMap (fun e => match e.2 with
      | .thread t | .reserved t => some t
      | .scrub _ | .freed => none)) ++ w.landing).filter (fun t => t.ctx == ctx))

/-- What a dump writes, in order (R323). DEDUCED (log 54). -/
def dumpItems (s : State) (p : PartId) (d : Dump) : List DumpItem :=
  let ts := contextThreads s p d.ctx
  [(64, wordsFrom 0 d.first.words)] ++ d.extra.map (fun x => (64, wordsFrom 0 x.words)) ++
  ts.map (fun t => (0x800, slotRecord t (slotCode t))) ++
  (taggedSlots (s.part p) (ts.map (fun t => t.tid))).map slotDump

/-- A word of a dump written through the partition's translation; none where it has no valid one. -/
def dumpWord (s : State) (p : PartId) (a v : Word) : Option State :=
  match unitKey s p a with
  | none => none
  | some k =>
    match atHome (noteWrite s p a) p k (.step (.dumpComplete p)) with
    | .ok s | .error s => some (s.writeMem k 8 v)

def dumpWords (p : PartId) (base : Word) : List (Nat × Word) → State → Option State
  | [], s => some s
  | e :: l, s =>
    match dumpWord s p (base + word e.1) e.2 with
    | some s => dumpWords p base l s
    | none => none

/-- Items written one after the other from an offset, with the end record, or a truncation record where the next does not fit; the
bytes written. DEDUCED (log 54). -/
def writeItems (p : PartId) (base : Word) (len : Nat) : List DumpItem → Nat → State → Option (Nat × State)
  | [], pos, s =>
    if pos + 64 ≤ len then (dumpWords p (base + word pos) (endRecord 0x047 pos).2 s).map (fun s => (pos + 64, s)) else some (pos, s)
  | x :: l, pos, s =>
    if pos + x.1 ≤ len then
      match dumpWords p (base + word pos) x.2 s with
      | some s => writeItems p base len l (pos + x.1) s
      | none => none
    else if pos + 64 ≤ len then (dumpWords p (base + word pos) (endRecord 0x048 pos).2 s).map (fun s => (pos + 64, s))
    else some (pos, s)

/-- A page of the dump area that the page copier must first copy: the state with the dump in its order. -/
def dumpHeld (s : State) (p : PartId) (base : Word) (len : Nat) : Option State :=
  (List.range (len / 2 ^ 16 + 2)).findSome? (fun i =>
    (unitKey s p (base + word (2 ^ 16 * i))).bind (fun k => heldPage s p k (.step (.dumpComplete p))))

/-- The walk to a page of the dump area that fails lists a poisoned table page (R205). -/
def dumpFault (s : State) (p : PartId) (base : Word) (len : Nat) : State :=
  match (List.range (len / 2 ^ 16 + 2)).find? (fun i => (unitKey s p (base + word (2 ^ 16 * i))).isNone) with
  | some i => listTable s p (base + word (2 ^ 16 * i))
  | none => s

/-- A record of a dump is not yet decided: its SEQ is still to come (R316, R318). -/
def recordUndecided (q : Partition) (d : Dump) : Bool :=
  q.trap.posted.any (fun e => (d.first :: d.extra).any (fun x => { x with seq := 0 } == { e.2 with seq := 0 }))

/-- DUMP_COMPLETE: the dump engine has written the area and posts dump-complete; the next dump of the queue starts. An engine that
faults resets the partition (R323, R340); a reset cuts the dump off (R342). DEDUCED (log 54). -/
def execDumpComplete (p : PartId) (s : State) : Out :=
  match (s.part p).dumps with
  | [] => .next s
  | d :: rest =>
    let base := ctxWord s p d.ctx 0x18
    let len := (ctxWord s p d.ctx 0x20).toNat
    if (s.part p).rst != .none then .next s
    else if recordUndecided (s.part p) d then .next (s.holdBack (.dumpComplete p))
    else
      match dumpHeld s p base (Nat.min len 0x1500000) with
      | some s => .next (s.holdBack (.dumpComplete p))
      | none =>
        match writeItems p base len (dumpItems s p d) 0 s with
        | none => .next (startReset (dumpFault s p base (Nat.min len 0x1500000)) p)
        | some (n, s) =>
          let s := s.modPart p (fun q => { q with dumps := rest })
          let s := postRecord s p { TrapRec.none with code := 0x047, cls := 2, ctx := d.ctx, corr := d.first.corr, d0 := base, d1 := word n }
          .next (if rest.isEmpty then s else s.push (.dumpComplete p))

end Sys2Proof.Machine
end

