-- ==== Sys2Proof/Machine/Dispatcher.lean ====
section
/-! DEFINITION. The dispatcher: launch records, expansion, packets, dispatch, aging and completion (08 R123 to R135, R145). -/
namespace Sys2Proof.Machine

/-! ## Launch records (R123 to R127, R131) -/

/-- The record of a launch slot as it stands: words 0x00 to 0x78. -/
structure Posted where
  words : List Word

/-- Word `off / 8` of a record. -/
def Posted.word (x : Posted) (off : Nat) : Word := x.words.getD (off / 8) 0

def slotKey (q : Partition) (p : PartId) (n : BitVec 13) : Nat := keyMain p (field q.r.lwbase 20 28 * 2 ^ 20 + 128 * n.toNat)

def readPosted (s : State) (p : PartId) (n : BitVec 13) : Posted :=
  { words := (List.range 16).map (fun i => s.readMem (slotKey (s.part p) p n + 8 * i) 8) }

/-- CHECK: the XOR of the thirty halves of words 0x00 to 0x70, folded (R123). -/
def Posted.check (x : Posted) : Nat :=
  let h := (x.words.take 15).foldl (fun a w => a ^^^ (field w 0 32) ^^^ (field w 32 32)) 0
  (h % 2 ^ 16) ^^^ (h / 2 ^ 16)

/-- An address that R124 admits for WADDR and DONE: a window address only in the shared SRAM's window, no remote address. -/
def recordAddress (a : Word) : Bool :=
  canonical a && a.toNat % 8 == 0 && !inRemoteRegion a &&
  (!inWindowRegion a || (decide (0xFF00000010000000 ≤ a.toNat) && decide (a.toNat < 0xFF00000014000000)))

/-- The clusters that a mask names, those out of service omitted (R123, R128). -/
def namedClusters (q : Partition) (mask : BitVec 32) : List ClusterId :=
  allClusters.filter (fun k => (mask = 0 || mask.getLsbD k.val) && !(q.cluster k).outOfService)

/-- The first failure of R124, by its code; 0 for a record that passes. -/
def rejectCode (s : State) (p : PartId) (x : Posted) : Nat :=
  let hdr := x.word 0x00
  let sl := x.word 0x78
  let wait := bit hdr 9
  let count := (x.word 0x10).toNat
  let waddr := x.word 0x20
  let done := x.word 0x70
  let ctx := BitVec.ofNat 8 (field hdr 16 8)
  if field sl 0 16 ≠ 1 ∨ field sl 32 32 = 0 then 1
  else if field sl 16 16 ≠ x.check then 2
  else if field hdr 0 8 ≠ 1 ∨ field hdr 24 8 ≠ 0 ∨ field hdr 12 4 ≠ 0 ∨ field (x.word 0x18) 32 32 ≠ 0 ∨ (!wait && waddr != 0) then 3
  else if count = 0 ∨ 2 ^ 24 < count then 4
  else if !entryOk (x.word 0x08) || (wait && !recordAddress waddr) || (done != 0 && !recordAddress done) then 5
  else if !ctxInService s p ctx then 6
  else if (namedClusters (s.part p) (BitVec.ofNat 32 (field (x.word 0x18) 0 32))).isEmpty then 7
  else if wait && (ctxKey s p ctx needR waddr).isNone then 8
  else 0

/-- STATE written by the dispatcher, SEQ and CHECK kept (R124); a poisoned line is not written (R212). -/
def writeState (s : State) (p : PartId) (n : BitVec 13) (v : Nat) : State :=
  let k := slotKey (s.part p) p n
  if s.linePoisoned k then s else s.writeMem (k + 0x78) 2 (word v)

/-- The record as the dispatcher keeps it (R126). -/
def launchOf (x : Posted) (id : Nat) (n : BitVec 13) : Launch :=
  let hdr := x.word 0x00
  { id := id, slot := n, corr := BitVec.ofNat 32 (field hdr 32 32), ctx := BitVec.ofNat 8 (field hdr 16 8),
    prio := Fin.ofNat 4 (field hdr 10 2), pin := bit hdr 8, entry := x.word 0x08, count := (x.word 0x10).toNat,
    clmask := BitVec.ofNat 32 (field (x.word 0x18) 0 32),
    shadows := #v[x.word 0x28, x.word 0x30, x.word 0x38, x.word 0x40, x.word 0x48],
    args := #v[x.word 0x50, x.word 0x58, x.word 0x60, x.word 0x68], done := x.word 0x70,
    seq := BitVec.ofNat 32 (field (x.word 0x78) 32 32), next := 0, dset := none, ended := 0 }

/-- A record joins the expansion order, or waits in the list of its word (R127). -/
def joinOrder (s : State) (p : PartId) (x : Posted) (l : Launch) : State :=
  match (if bit (x.word 0x00) 9 then ctxKey s p l.ctx needR (x.word 0x20) else none) with
  | some key =>
    let s := s.sramAt p key
    if s.fullBit key then releaseRecord s p l.id
    else
      let w := feLists s p key
      setFeLists s p key { w with full := w.full ++ [{ op := .ldsk, key := key, val := 0, who := .record l.id }] }
  | none => releaseRecord s p l.id

/-- An accepted record (R124, R126). -/
def acceptLaunch (s : State) (p : PartId) (n : BitVec 13) (x : Posted) : State :=
  let l := launchOf x (s.part p).nextLaunch n
  let s := (writeState s p n 2).modPart p (fun q => { q with
    launches := q.launches ++ [l], nextLaunch := q.nextLaunch + 1, lastAccept := some s.cycle,
    sealing := q.sealing.filter (fun m => m != n) })
  joinOrder s p x l

/-- A rejected record (R124). -/
def rejectLaunch (s : State) (p : PartId) (n : BitVec 13) (code : Nat) : State :=
  (writeState s p n (0x8000 + code)).modPart p (fun q => { q with sealing := q.sealing.filter (fun m => m != n) })

/-- The cycles until the dispatcher may accept again: one record in 32 cycles (R126). -/
def acceptDelay (s : State) (p : PartId) : Nat :=
  match (s.part p).lastAccept with
  | some c => c + 32 - s.cycle
  | none => 0

/-- LAUNCH_RECORD: the line monitor has fired for a slot, and the dispatcher checks its record (R124). -/
def execLaunchRecord (p : PartId) (n : BitVec 13) (s : State) : Out :=
  if !(s.part p).sealing.contains n then .next s
  else
    let key := slotKey (s.part p) p n
    match atHome s p key (.step (.launchRecord p n)) with
    | .error s => .next (s.holdBack (.launchRecord p n))
    | .ok t =>
      let x := readPosted s p n
      let code := rejectCode s p x
      let t := if code = 8 then listTable t p (x.word 0x20) else t
      if code ≠ 0 then .next (rejectLaunch t p n code)
      else if acceptDelay s p ≠ 0 then .next (s.after (acceptDelay s p) (.launchRecord p n))
      else .next (acceptLaunch t p n x)

/-! ## Expansion (R128, R129, R132) -/

/-- The descriptor set of a record: 0 for zero values, else a free one (R129): of several, the lowest. DESIGN CHOICE (log 79). -/
def chooseDset (q : Partition) (l : Launch) : Option Nat :=
  if l.shadows.toList.all (fun v => v == 0) then some 0
  else ((List.range 256).filter (fun d => d != 0)).find? (fun d => (kget q.dsets d).isNone)

def modLaunch (s : State) (p : PartId) (id : Nat) (f : Launch → Launch) : State :=
  s.modPart p (fun q => { q with launches := q.launches.map (fun x => if x.id = id then f x else x) })

/-- A record at the head of the order holds its descriptor set, or none is free. -/
def withDset (s : State) (p : PartId) (l : Launch) : Option (Nat × State) :=
  match l.dset with
  | some d => some (d, s)
  | none =>
    (chooseDset (s.part p) l).map (fun d =>
      (d, (modLaunch s p l.id (fun x => { x with dset := some d })).modPart p (fun q =>
        if d = 0 then q else { q with dsets := kput q.dsets d l.shadows })))

/-- Packet i of a record (R132). -/
def packetOf (l : Launch) (d : Nat) (k : ClusterId) (now : Nat) : Packet :=
  { entry := l.entry, corr := l.corr, dset := d, ctx := l.ctx, prio := l.prio, pin := l.pin, clu := k,
    args := l.args.set 3 (l.args[3] + word l.next), enq := now, slotn := l.slot, launch := l.id }

def queueOf (s : State) (p : PartId) (k : ClusterId) (q : Fin 4) : List Packet := (s.cluster p k).queues[q]
def setQueue (s : State) (p : PartId) (k : ClusterId) (q : Fin 4) (l : List Packet) : State :=
  let c := s.cluster p k
  s.setCluster p k { c with queues := c.queues.set q l }

/-- PACKET_EXPANSION: the next packet of the record at the head of the order enters its cluster's queue; without a descriptor set or
without room the order waits (R128, R129). -/
def execPacketExpansion (p : PartId) (s : State) : Out :=
  match (s.part p).expansion with
  | [] => .next s
  | id :: rest =>
    match (s.part p).launches.find? (fun x => x.id == id) with
    | none => .next (s.modPart p (fun q => { q with expansion := rest }))
    | some l =>
      match withDset s p l with
      | none => .next s
      | some (d, s) =>
        let ks := namedClusters (s.part p) l.clmask
        match ks[l.next % ks.length]? with
        | none => .next s
        | some k =>
          let queue := queueOf s p k l.prio
          if 64 ≤ queue.length then .next s
          else
            let s := setQueue s p k l.prio (queue ++ [packetOf l d k s.tstamp])
            let s := modLaunch s p id (fun x => { x with next := x.next + 1 })
            let s := if l.next + 1 = l.count then s.modPart p (fun q => { q with expansion := rest }) else s
            .next ((s.push (.packetExpansion p)).push (.packetDispatch p k))

/-! ## Dispatch and aging (R133 to R135) -/

/-- The core of a cluster with the most free general slots, ties to the lowest (R134). DESIGN CHOICE (log 37). -/
def roomiestCore (s : State) (p : PartId) (k : ClusterId) : Option CoreId :=
  ((clusterCores k).filter (fun c => !(s.core p c).c.failed && !(s.core p c).c.gated)).foldl (fun best c =>
    match best with
    | none => if freeCount (s.core p c).w = 0 then none else some c
    | some b => if freeCount (s.core p b).w < freeCount (s.core p c).w then some c else best) none

/-- The highest-priority queue of a cluster that holds a packet. -/
def firstQueue (s : State) (p : PartId) (k : ClusterId) : Option (Fin 4 × Packet × List Packet) :=
  ([0, 1, 2, 3] : List (Fin 4)).findSome? (fun q => match queueOf s p k q with
    | x :: rest => some (q, x, rest)
    | [] => none)

/-- The thread that a packet becomes (R24, R133). -/
def packetThread (s : State) (p : PartId) (c : CoreId) (sl : SlotId) (x : Packet) (tid : Nat) : Thread :=
  let sh := (kget (s.part p).dsets x.dset).getD (Vector.replicate 5 0)
  { Thread.start sl x.entry (Regs.fresh x.args[0] x.args[1] x.args[2] x.args[3]) tid x.ctx x.corr x.pin (s.watched p c) (s.cycle + 8) with
    fa := sh[0], fb := sh[1], fc := sh[2], xa := sh[3], xb := sh[4], dset := x.dset, launch := some x.launch }

/-- PACKET_DISPATCH: the head packet of the highest-priority queue becomes a thread, when no landing queue comes first and a general
slot of the cluster is free (R133, R134). While a gang switch is under way nothing is dispatched (R321). DEDUCED (log 33). -/
def execPacketDispatch (p : PartId) (k : ClusterId) (s : State) : Out :=
  if !(s.part p).serves || (s.part p).gang != .idle || (s.cluster p k).outOfService then .next s
  else
    match firstQueue s p k, roomiestCore s p k with
    | some (q, x, rest), some c =>
      match freeGeneral (s.core p c).w with
      | none => .next s
      | some sl =>
        let n := allocTid (setQueue s p k q rest) p
        let t := packetThread n.2 p c sl x n.1
        let s := placeThread n.2 ⟨p, c, sl⟩ t (s.cycle + 8)
        .next ((s.push (.packetDispatch p k)).push (.packetExpansion p))
    | _, _ => .next s

/-- A queue's head is old enough to move up (R135): AGEI ticks, 0 acting as 1. -/
def agingDue (s : State) (p : PartId) (k : ClusterId) (q : Fin 4) : Bool :=
  let r := (s.part p).r
  bit r.dspctl 1 && q != 0 &&
  (match queueOf s p k q with
   | x :: _ => decide (x.enq + Nat.max 1 (field r.agei 0 32) ≤ s.tstamp)
   | [] => false) &&
  decide ((queueOf s p k (q - 1)).length < 64)

/-- Packets of a queue move up while its head is old enough. -/
def ageQueue (p : PartId) (k : ClusterId) (q : Fin 4) : Nat → State → State
  | 0, s => s
  | n + 1, s =>
    match queueOf s p k q with
    | x :: rest =>
      if agingDue s p k q then
        let s := setQueue s p k q rest
        ageQueue p k q n (setQueue s p k (q - 1) (queueOf s p k (q - 1) ++ [{ x with prio := q - 1, enq := s.tstamp }]))
      else s
    | [] => s

/-- PACKET_AGING (R135): every packet of the queue that is old enough moves up, in order, in one cycle. DESIGN CHOICE (log 79). -/
def execPacketAging (p : PartId) (k : ClusterId) (q : Fin 4) (s : State) : Out := .next (ageQueue p k q (queueOf s p k q).length s)

/-! ## Completion (R130, R131) -/

/-- The value of the DONE word. -/
def doneValue (l : Launch) : Word := word (l.seq.toNat * 2 ^ 32 + l.count)

/-- DONE_WRITE: every thread of a record has ended (R130): the word is written and filled, or its record says that it could not be
(R131). The dispatcher's own write fires no line monitor (R124). -/
def execDoneWrite (p : PartId) (id : Nat) (s : State) : Out :=
  match (s.part p).launches.find? (fun x => x.id == id && x.ended == x.count) with
  | none => .next s
  | some l =>
    let gone (s : State) := s.modPart p (fun q => { q with launches := q.launches.filter (fun x => x.id != id) })
    if l.done = 0 then .next (gone s)
    else
      match ctxKey s p l.ctx needW l.done with
      | none =>
        .next (postRecord (gone (listTable s p l.done)) p { TrapRec.none with
          code := 0x049, cls := 2, ctx := l.ctx, corr := l.corr, addr := l.done, d0 := doneValue l, d1 := word l.slot.toNat })
      | some key =>
        match atHome s p key (.step (.doneWrite p id)) with
        | .error s => .next (s.holdBack (.doneWrite p id))
        | .ok s =>
          let s := noteWrite ((s.sramAt p key).setStamp p (lineOf l.done) none) p l.done
          .next (fillWord (windowWritten ((gone s).writeMem key 8 (doneValue l)) key 8) p key)

end Sys2Proof.Machine
end

