-- ==== Sys2Proof/Machine/Collectives.lean ====
section
/-! DEFINITION. Collectives: COLL and COLLW, contributions, completion and failure (25 R373 to R380), and destinations that UET declares
unreachable (R372). -/
namespace Sys2Proof.Machine

/-! ## Descriptors (R373, R374) -/

/-- Bytes of an element of a TYPE. -/
def collBytes (ty : Nat) : Nat := if ty = 0 ∨ ty = 3 then 4 else if ty = 4 then 8 else 2

/-- The op reduces: RED is used (R374). -/
def collReduces (op : Nat) : Bool := op == 0 || op == 1 || op == 4

/-- A descriptor's fields by themselves (R374). -/
def descriptorOk (ws : List Word) : Bool :=
  let w (i : Nat) := ws.getD i 0
  let op := field (w 0) 0 4
  let gsize := field (w 0) 28 12
  field (w 0) 52 12 == 0 && field (w 0) 13 3 == 0 && field (w 1) 32 32 == 0 && field (w 7) 32 32 == 0 && gsize != 0 &&
  field (w 1) 0 32 != 0 && decide (field (w 0) 40 12 < gsize) && (!(op == 1 || op == 2) || decide (field (w 0) 16 12 < gsize)) &&
  decide (op ≤ 4) && decide (field (w 0) 4 4 ≤ 4) && (!collReduces op || decide (field (w 0) 8 4 ≤ 2))

/-- The key of a word that the engine reads for a thread, under its context's rights, with its privilege; a walk that meets a poisoned table
page lists it (R205). -/
def engineKey (s : State) (r : TRef) (t : Thread) (a : Word) : Option Nat × State :=
  if !canonical a || a.toNat % 8 != 0 || inRemoteRegion a then (none, s)
  else if inWindowRegion a then
    (match windowKey r.part r.core a with
     | some (k, _) => if windowPoisoned s k 8 then none else some k
     | none => none, s)
  else
    match walkPage s r.part a with
    | .leaf l =>
      let q := rightsOf (domainEntry s r.part l.dom).1 l.dom (rightsNibble s r.part t.ctx.toNat l.dom) t.priv
      let k := keyMain r.part (l.phys (va57 a))
      (if q &&& needR != needR || s.linePoisoned k then none else some k, s)
    | w => (none, listWalk s r.part a w)

/-- The n entries of the group table from an address on, or none where one cannot be read or has a reserved bit set (R373, R374). -/
def readGroup (r : TRef) (t : Thread) : Nat → Word → State → Option (List (BitVec 16 × PartId)) × State
  | 0, _, s => (some [], s)
  | n + 1, a, s =>
    match engineKey s r t a with
    | (none, s) => (none, s)
    | (some k, s) =>
      let e := s.readMem k 8
      if field e 20 44 = 0 then
        let x := readGroup r t n (a + 8) s
        (x.1.map (fun l => (BitVec.ofNat 16 (field e 0 16), Fin.ofNat 16 (field e 16 4)) :: l), x.2)
      else (none, s)

/-- The collective that a descriptor describes. -/
def collOf (s : State) (r : TRef) (t : Thread) (ws : List Word) (g : List (BitVec 16 × PartId)) : Coll :=
  let w (i : Nat) := ws.getD i 0
  let tmo := if field (w 6) 0 32 = 0 then Nat.max 1 (field (s.part r.part).r.collctl 0 32) else field (w 6) 0 32
  { seq := BitVec.ofNat 22 (s.part r.part).collNext, core := r.core, rank := field (w 0) 40 12, gsize := field (w 0) 28 12,
    root := field (w 0) 16 12,
    insw := bit (w 0) 12 && bit (s.part r.part).r.collctl 32 && collReduces (field (w 0) 0 4) && Config.switchReduces,
    red := field (w 0) 8 4, ty := field (w 0) 4 4, op := field (w 0) 0 4, count := field (w 1) 0 32, src := w 2, dst := w 3,
    stage := w 4, tmo := tmo, tag := BitVec.ofNat 32 (field (w 7) 0 32), ctx := t.ctx, priv := t.priv, corr := t.corr,
    members := g, pages := [], started := s.tstamp, got := [], mismatch := false, missed := none }

/-- Bytes of SRC read at this rank (R373). -/
def Coll.srcBytes (c : Coll) : Nat :=
  if c.op = 2 ∧ c.rank ≠ c.root then 0 else (if c.op = 4 then c.gsize else 1) * c.count * collBytes c.ty
/-- Bytes of DST and STAGE written at this rank (R373). -/
def Coll.dstBytes (c : Coll) : Nat :=
  if c.op = 1 ∧ c.rank ≠ c.root then 0 else (if c.op = 3 then c.gsize else 1) * c.count * collBytes c.ty

/-! ## What the engine reads and writes -/

/-- The leaf of an address among a collective's pages. -/
def collLeaf (c : Coll) (x : Word) : Option Leaf := c.pages.find? (fun l => l.covers (va57 x))

/-- The pieces of a range that lie in one line each: address and length. -/
def linePieces (x : Word) (n : Nat) : List (Word × Nat) :=
  if n = 0 then []
  else
    (List.range ((x.toNat % 128 + n + 127) / 128)).map (fun i =>
      if i = 0 then (x, Nat.min n (128 - x.toNat % 128))
      else (word ((x.toNat / 128 + i) * 128), Nat.min 128 (x.toNat % 128 + n - 128 * i)))

/-- A range read by the engine, or none where its data are lost. -/
def engineRead (p : PartId) (c : Coll) : List (Word × Nat) → State → Option (List Byte × State)
  | [], s => some ([], s)
  | (x, n) :: l, s =>
    let here : Option (List Byte × State) :=
      if inWindowRegion x then
        match windowKey p c.core x with
        | some (k, _) => if windowPoisoned s (k / 8 * 8) (k % 8 + n) then none else some (memBytes s.mem k n, s.sramAt p k)
        | none => none
      else
        match collLeaf c x with
        | none => none
        | some lf =>
          match reachRead s p lf (va57 x) n c.corr with
          | .ok s => some (memBytes s.mem (keyMain p (lf.phys (va57 x))) n, s)
          | .held s | .poisoned s => if s.linePoisoned (keyMain p (lf.phys (va57 x))) then none
            else some (memBytes s.mem (keyMain p (lf.phys (va57 x))) n, s)
    match here with
    | none => none
    | some (b, s) => (engineRead p c l s).map (fun r => (b ++ r.1, r.2))

/-- The words that a piece touches, by key: each is filled by the engine's write (R241). -/
def fillPiece (s : State) (p : PartId) (key n : Nat) : State :=
  (List.range ((key % 8 + n + 7) / 8)).foldl (fun s i => fillWord s p (key / 8 * 8 + 8 * i)) s

/-- Bytes written at a key, whole window words losing their poison (R212, R339). -/
def enginePut (s : State) (key : Nat) (b : List Byte) : State := (s.writeMemBytes key b).wholeWords key b.length

/-- Pieces of a range written by the engine: full bits where `fill`; a poisoned line is left, with one record (R212). -/
def engineWrite (p : PartId) (c : Coll) (id : Word) (w : PageWriter) (fill : Bool) : List (Word × Nat) → List Byte → State → State
  | [], _, s => s
  | (x, n) :: l, b, s =>
    let put (key : Nat) (s : State) : State :=
      let s := enginePut s key (b.take n)
      if fill then fillPiece s p key n else s
    let s :=
      if inWindowRegion x then
        match windowKey p c.core x with
        | some (k, _) => put k (s.sramAt p k)
        | none => s
      else
        match collLeaf c x with
        | none => s
        | some lf =>
          match reachWrite s p lf (va57 x) w with
          | .ok s | .held s => put (keyMain p (lf.phys (va57 x))) s
          | .poisoned s =>
            if fill then
              postRecord s p { TrapRec.none with
                code := 0x04A, cls := 2, ctx := c.ctx, corr := c.corr, addr := lineAddr (lineOf x), d0 := id, d1 := 2 }
            else s
    engineWrite p c id w fill l (b.drop n) s

/-- The last word of a range, after the pieces before it (R377). -/
def lastWord (x : Word) (n : Nat) : Nat := Nat.min n ((x.toNat + n - 1) % 8 + 1)

/-! ## Contributions (R376, R385) -/

/-- The block that this rank sends to rank r: its data where the op needs them there. -/
def blockFor (c : Coll) (data : List Byte) (r : Nat) : List Byte :=
  let n := c.count * collBytes c.ty
  if c.op = 4 then (data.drop (r * n)).take n
  else if c.op = 1 then (if r = c.root then data else [])
  else if c.op = 2 then (if c.rank = c.root then data else [])
  else data

/-- The contribution of this rank to rank r, of a partition of the group. -/
def blockMsg (s : State) (p : PartId) (c : Coll) (data : List Byte) (r : Nat) (dst : PartId) : CollMsg :=
  { srcMod := s.modid, src := p, colour := blkColour (s.part p), dst := dst, rank := c.rank, toRank := r, miss := none, again := false,
    gsize := c.gsize, root := c.root, op := c.op, ty := c.ty, red := c.red, count := c.count, tag := c.tag, data := blockFor c data r }

/-- A contribution leaves for a member: a BLK packet when it goes to another partition (R364, R385), and only where a key is installed for a
destination in another module (R404). -/
def sendBlock (s : State) (p : PartId) (c : Coll) (data : List Byte) (r : Nat) (peer : BitVec 16 × PartId) : State :=
  let m := blockMsg s p c data r peer.2
  if peer.1 != s.modid && !linked (s.part p) peer.1 peer.2 then s else
  let s :=
    if fromPeer s peer.1 peer.2 p then
      let k := peerKey peer.1 peer.2
      s.modPart p (fun x => { x with snap := { x.snap with blkSent := kput x.snap.blkSent k ((kget x.snap.blkSent k).getD 0 + 1) } })
    else s
  if peer.1 = s.modid then s.push (.collContribution peer.2 m) else { s with portOut := s.portOut ++ [.coll peer.1 peer.2 m] }

/-- The id of a collective (R374). -/
def collId (seq : Nat) : Word := word (0x3FF * 2 ^ 22 + seq % 2 ^ 22)

/-- Ranks agree on what the op uses (R374, R377). -/
def agrees (c : Coll) (m : CollMsg) : Bool :=
  m.op == c.op && m.ty == c.ty && m.count == c.count && (!collReduces c.op || m.red == c.red) &&
  (!(c.op == 1 || c.op == 2) || m.root == c.root)

/-- A message is for a collective: of its group, from the partition that the entry of the sending rank names, to this rank (R373). -/
def forColl (c : Coll) (m : CollMsg) : Bool :=
  c.tag == m.tag && c.gsize == m.gsize && c.rank == m.toRank && c.members[m.rank]? == some (m.srcMod, m.src)

/-- A contribution belongs to a collective that still misses its rank. -/
def wants (c : Coll) (m : CollMsg) : Bool := forColl c m && c.missed.isNone && (kget c.got m.rank).isNone

/-- A contribution enters its collective; with the last one, completion is due (R377). DESIGN CHOICE (log 55). -/
def takeBlock (s : State) (p : PartId) (m : CollMsg) : State :=
  match (s.part p).colls.find? (fun c => wants c m) with
  | none => s.modPart p (fun q => { q with collEarly := q.collEarly ++ [m] })
  | some c =>
    let c' := { c with got := kput c.got m.rank m.data, mismatch := c.mismatch || !agrees c m }
    let s := s.modPart p (fun q => { q with colls := q.colls.map (fun x => if x.seq = c.seq then c' else x) })
    if c'.got.length = c'.gsize then s.push (.collComplete p c.seq) else s

/-- The word that a rank is missing, from a rank that has ended its collective so (R378): the oldest collective that it is for ends so too.
Before that COLL it waits with the sender's block; after it, it says nothing new. DESIGN CHOICE (log 55). -/
def takeMiss (s : State) (p : PartId) (m : CollMsg) (rank : Nat) : State :=
  match (s.part p).colls.find? (fun c => forColl c m && c.missed.isNone) with
  | some c => missRank s p c rank
  | none =>
    if (s.part p).collEarly.any (fun x => x.miss.isNone && { m with miss := none, again := x.again, colour := x.colour, data := x.data } == x) then
      s.modPart p (fun q => { q with collEarly := q.collEarly ++ [m] })
    else s

/-- What came before the COLL: the earliest contribution of each rank, and the word of a missing one. -/
def takeEarly (s : State) (p : PartId) (c : Coll) : State :=
  (List.range c.gsize).foldl (fun s r =>
    if !(s.part p).colls.any (fun x => x.seq == c.seq && x.missed.isNone) then s else
    let first (miss : Bool) (s : State) : Option CollMsg :=
      (s.part p).collEarly.find? (fun m => forColl c m && m.rank == r && m.miss.isSome == miss)
    let s := match first false s with
      | some m => takeBlock (s.modPart p (fun q => { q with collEarly := q.collEarly.erase m })) p m
      | none => s
    match first true s with
    | some m => takeMiss (s.modPart p (fun q => { q with collEarly := q.collEarly.erase m })) p m (m.miss.getD 0)
    | none => s) s

/-- A contribution taken; one that comes after its collective failed is discarded (R378). -/
def arrived (s : State) (p : PartId) (m : CollMsg) : State :=
  match m.miss with
  | some rank => takeMiss s p m rank
  | none =>
    if (s.part p).collMissed.contains (blockOf m) then s.modPart p (fun q => { q with collMissed := q.collMissed.erase (blockOf m) })
    else takeBlock s p m

/-- COLL_CONTRIBUTION: a rank's block arrives (R376), authenticated (R404), held or recorded for a snapshot (R386), unless it is one that a
restore gives back (R393); a partition that is closed to the outside takes none (R340, R399). -/
def execCollContribution (p : PartId) (m : CollMsg) (s : State) : Out :=
  let key := peerKey m.srcMod m.src
  if m.again || !fromPeer s m.srcMod m.src p then .next (arrived s p m)
  else if shut (s.part p) || !authentic s p m.srcMod m.src then .next s
  else if m.miss.isSome then .next (arrived s p m)
  else
    match takeInput s p key .blk (some m.colour) (.collContribution p m) with
    | none => .next (holdInput s p (.collContribution p m))
    | some s => .next (arrived (blkArrives s p key m.colour) p m)

/-! ## COLL and COLLW (R374, R375) -/

/-- The status of a completed collective kept: the last 64 (R375). -/
def keepStatus (s : State) (p : PartId) (seq : Nat) (v : Word) : State :=
  s.modPart p (fun q => { q with collDone := ((seq, v) :: q.collDone).take 64 })

/-- A collective's number taken. -/
def nextColl (s : State) (p : PartId) : State := s.modPart p (fun q => { q with collNext := (q.collNext + 1) % 2 ^ 22 })

/-- The lowest other rank that cannot be reached: of a partition of the module that is closed to the outside, or at a destination that UET has
declared unreachable (R372, R378). -/
def goneRank (s : State) (p : PartId) (c : Coll) : Option Nat :=
  (List.range c.gsize).find? (fun r => r != c.rank && (match c.members[r]? with
    | some (m, q) => if m = s.modid then q != p && shut (s.part q) else (s.part p).unreachable.contains (m, q)
    | none => false))

/-- A rank that cannot be reached is missing as the collective starts (R378). -/
def missGone (s : State) (p : PartId) (seq : BitVec 22) : State :=
  match (s.part p).colls.find? (fun x => x.seq == seq && x.missed.isNone) with
  | some c =>
    match goneRank s p c with
    | some r => tellMissing (missRank s p c r) p c r
    | none => s
  | none => s

/-- The collective starts: SRC is read, this rank's own block enters, and one leaves for every other rank (R376). A rank whose SRC is lost sends
nothing. DESIGN CHOICE (log 55). -/
def startColl (s : State) (p : PartId) (c : Coll) : State :=
  let c := { c with seq := BitVec.ofNat 22 (s.part p).collNext, started := s.tstamp }
  let s := (nextColl s p).modPart p (fun q => { q with colls := q.colls ++ [c] })
  let s := match engineRead p c (linePieces c.src c.srcBytes) s with
    | none => s
    | some (data, s) => (c.members.mapIdx (fun i m => (i, m))).foldl (fun s e =>
        if e.1 = c.rank then takeBlock s p (blockMsg s p c data e.1 p) else sendBlock s p c data e.1 e.2) s
  missGone (takeEarly s p c) p c.seq

/-- A collective whose descriptor has been read and whose ranges have been checked is enqueued after a fence at system scope (R374); `c` is
none where the descriptor is in error: it ends at once with STATE 2. A group with other partitions is a leaving access (R334). -/
def enqueueColl (d : Reg) (lat : Nat) (c : Option Coll) (r : TRef) (t : Thread) (s : State) : Res :=
  let p := r.part
  let kept := s.modThread r (fun t => { t with prepared := some (.coll c) })
  fenced kept r t .sys (fun _ =>
    if 64 ≤ (s.part p).colls.length then .wait .queue kept
    else
      let done : Commit := { Commit.reg d (collId (s.part p).collNext) with lat := lat }
      match c with
      | none => .done done (keepStatus (nextColl kept p) p (s.part p).collNext 2)
      | some c =>
        match (if c.members.any (fun m => fromPeer s m.1 m.2 p) then passPoint kept r t 3 else .ok kept) with
        | .error e => e
        | .ok s => .done done (startColl s p c))

/-- The ranges of a descriptor whose OP and TYPE fix their sizes (R373, R374): SRC, and DST and STAGE. DESIGN CHOICE (log 55). -/
def collRanges (c : Coll) : List Range × List Range :=
  if 4 < c.op ∨ 4 < c.ty then ([], []) else ([(c.src, c.srcBytes)], [(c.dst, c.dstBytes), (c.stage, c.dstBytes)])

/-- The descriptor read, and the checks that precede the fence (R374): the collective, none for a descriptor in error, and the reply time. DESIGN CHOICE (log 55). -/
def checkColl (s : State) (r : TRef) (t : Thread) (a : Word) : Except Res (Option Coll × Nat × State) :=
  match checkRecord s r t a [7, 6, 5, 4, 3, 2, 1, 0] with
  | .error e => .error e
  | .ok (ps, s) =>
    match readRecord r t ps s with
    | .error e => .error e
    | .ok (ws, lat, s) =>
      let (group, s) := if descriptorOk ws then readGroup r t (field (ws.getD 0 0) 28 12) (ws.getD 5 0) s else (none, s)
      let c := collOf s r t ws (group.getD [])
      match checkRanges s r t (collRanges c).1 (collRanges c).2 0 1 false with
      | .error e => .error e
      | .ok (src, dst, s) =>
        if group.isNone || c.members[c.rank]? != some (s.modid, r.part) then .ok (none, lat, s)
        else .ok (some { c with pages := src ++ dst }, lat, s)

/-- COLL (R374): the descriptor is read, the ranges are checked, and after a fence at system scope the collective is enqueued. DESIGN CHOICE (log 55). -/
def execColl (d : Reg) (a : Src) (s : State) : Out :=
  runWord [a] (fun r t s =>
    match t.prepared with
    | some (.coll c) => enqueueColl d 0 c r t s
    | _ =>
      if 64 ≤ (s.part r.part).colls.length then .wait .queue s
      else
        match checkColl s r t (t.rd a) with
        | .error e => e
        | .ok (c, lat, s) => enqueueColl d lat c r t s) s

/-- COLLW (R375): out of the rotation until the collective is no longer pending, then its status; any other id is unknown. -/
def execCollw (d : Reg) (a : Src) (s : State) : Out :=
  runWord [a] (fun r t s =>
    let x := t.rd a
    let seq := field x 0 22
    if field x 22 42 ≠ 0x3FF then .trap .jobId none s
    else if (s.part r.part).colls.any (fun c => c.seq.toNat == seq) then .wait (.coll seq) s
    else
      .done (Commit.reg d ((((s.part r.part).collDone.find? (fun e => e.1 == seq)).map (fun e => e.2)).getD 7)) s) s

/-! ## Completion and failure (R376 to R378) -/

/-- The number that little-endian bytes hold. -/
def bytesNat : List Byte → Nat
  | [] => 0
  | b :: l => b.toNat + 256 * bytesNat l

/-- The low n bytes of a number. -/
def natBytes (v : Nat) : Nat → List Byte
  | 0 => []
  | n + 1 => BitVec.ofNat 8 v :: natBytes (v / 256) n

/-- One element combined with the next rank's (R376, R60, R105). -/
def combineElem (ty red x y : Nat) : Nat :=
  let f := if ty = 1 then Fmt.f16 else if ty = 2 then Fmt.bf16 else Fmt.f32
  if ty ≤ 2 then
    (if red = 0 then (f.add x y).bits else if red = 1 then (f.min x y).bits else (f.max x y).bits)
  else
    let w := 8 * collBytes ty
    let a := (BitVec.ofNat w x).toInt
    let b := (BitVec.ofNat w y).toInt
    if red = 0 then (x + y) % 2 ^ w else if (if red = 1 then decide (b < a) else decide (a < b)) then y else x

/-- A block combined element by element with the next rank's. -/
def combineBlock (ty red : Nat) : Nat → List Byte → List Byte → List Byte
  | 0, _, _ => []
  | n + 1, x, y =>
    let k := collBytes ty
    natBytes (combineElem ty red (bytesNat (x.take k)) (bytesNat (y.take k))) k ++ combineBlock ty red n (x.drop k) (y.drop k)

/-- The result of a collective at this rank, in the order of rank (R373, R376). -/
def collResult (c : Coll) : List Byte :=
  let blocks := (List.range c.gsize).map (fun r => (kget c.got r).getD [])
  if collReduces c.op then
    match blocks with
    | [] => []
    | b :: l => l.foldl (fun a x => combineBlock c.ty c.red c.count a x) b
  else if c.op = 2 then (kget c.got c.root).getD []
  else blocks.flatten

/-- A collective leaves the queue with its status. -/
def endColl (s : State) (p : PartId) (c : Coll) (v : Word) : State :=
  keepStatus (s.modPart p (fun q => { q with colls := q.colls.filter (fun x => x.seq != c.seq) })) p c.seq.toNat v

/-- The writes of a collective wait for the page copier: the state with `w` in the page's order (R389). -/
def collHeld (s : State) (p : PartId) (c : Coll) (w : PageWriter) : Option State :=
  (c.pages.filter (fun l => (linePieces c.dst c.dstBytes ++ linePieces c.stage c.dstBytes).any (fun x => l.covers (va57 x.1)))).findSome?
    (fun l => pageWait s p l w)

/-- COLL_COMPLETE: every contribution has arrived: the result lands in STAGE and is copied to DST, its last word last (R377). Ranks that
disagree leave DST as it is. Where the switch reduces, its bytes are taken as delivered (R376). -/
def execCollComplete (p : PartId) (id : BitVec 22) (s : State) : Out :=
  match (s.part p).colls.find? (fun c => c.seq == id && c.got.length == c.gsize && c.missed.isNone) with
  | none => .next s
  | some c =>
    let me : PageWriter := .step (.collComplete p id)
    if c.mismatch then .next (endColl s p c 3)
    else
      match collHeld s p c me with
      | some s => .next (s.holdBack (.collComplete p id))
      | none =>
        let n := c.dstBytes
        let b := if n = 0 then [] else if c.insw then (List.range n).map (fun i => Config.switchByte (s.free + i)) else collResult c
        let s : State := if c.insw then { s with free := s.free + n } else s
        let w := lastWord c.dst n
        let s := engineWrite p c (collId id.toNat) me false (linePieces c.stage n) b s
        let s := engineWrite p c (collId id.toNat) me true (linePieces c.dst (n - w)) b s
        let s := engineWrite p c (collId id.toNat) me true (linePieces (c.dst + word (n - w)) w) (b.drop (n - w)) s
        .next (endColl s p c (if c.insw then 8 else 0))

/-- The lowest rank that has not contributed. -/
def missingRank (c : Coll) : Option Nat := (List.range c.gsize).find? (fun r => (kget c.got r).isNone)

/-- A collective with a missing rank ends incomplete: DST is kept, STAGE is undefined (R378); the page copier comes first (R389). -/
def failColl (s : State) (p : PartId) (c : Coll) (rank : Nat) : State :=
  let me : PageWriter := .step (.collTimeout p c.seq)
  match collHeld s p c me with
  | some s => s.holdBack (.collTimeout p c.seq)
  | none =>
    let n := c.dstBytes
    let s := engineWrite p c (collId c.seq.toNat) me false (linePieces c.stage n) ((List.range n).map (fun i => Config.stageByte (s.free + i))) s
    endColl { s with free := s.free + n } p c (word (rank * 2 ^ 28 + 1))

/-- A collective has waited for its timeout. -/
def collLate (s : State) (c : Coll) : Bool := decide (c.started + c.tmo ≤ s.tstamp) && c.missed.isNone && (missingRank c).isSome

/-- COLL_TIMEOUT: a rank is missing: when the timeout ends, the lowest that has sent nothing, of which every other rank is told; or as has
been decided before. The collective ends incomplete (R378). -/
def execCollTimeout (p : PartId) (id : BitVec 22) (s : State) : Out :=
  match (s.part p).colls.find? (fun c => c.seq == id) with
  | none => .next s
  | some c =>
    match c.missed with
    | some rank => .next (failColl s p c rank)
    | none =>
      match (if collLate s c then missingRank c else none) with
      | some rank => .next (tellMissing (missRank s p c rank) p c rank)
      | none => .next s

/-! ## Unreachable destinations (R372) -/

/-- The remote address names a destination. -/
def names (a : Word) (modid : BitVec 16) (q : PartId) : Bool :=
  inRemoteRegion a && a.extractLsb' 36 16 == modid && (a.extractLsb' 32 4).toFin == q

/-- A copy's beat that goes to the destination fails (R371): at its source, or at its destination. DEDUCED (log 56). -/
def failRemoteBeat (s : State) (p : PartId) (c : CoreId) (modid : BitVec 16) (q : PartId) : State :=
  match (s.core p c).w.copyQ with
  | j :: _ =>
    let n := j.form.beat j.pos
    let fail (k : Nat) : State := passBeat (failBeat (leaveBytes s p c j 0 n) p c j k) p c j n
    if j.finished then s
    else if (beatRemotes s p c j).1.any (fun a => names a modid q) then fail 3
    else if (beatRemotes s p c j).2.any (fun a => names a modid q) then fail 4
    else s
  | [] => s

/-- What a partition has under way to an unreachable destination ends. DEDUCED (log 56). -/
def unreachableFrom (s : State) (p : PartId) (modid : BitVec 16) (q : PartId) : State :=
  let s := s.pushAll ((s.threads p).filterMap (fun e => match e.2.pend with
    | some x => if names x.addr modid q then some (.remoteErrorReply e.1 e.2.tid) else none
    | none => none))
  (s.part p).coreIds.foldl (fun s c => failRemoteBeat s p c modid q) s

/-- DESTINATION_UNREACHABLE: requests to the destination end with error replies, those that follow too, and its rank is missing (R370, R372,
R378). DEDUCED (log 56). -/
def execDestinationUnreachable (modid : BitVec 16) (q : PartId) (s : State) : Out :=
  .next (ranksGone (allParts.foldl (fun s p =>
    (unreachableFrom s p modid q).modPart p (fun x => { x with unreachable := (modid, q) :: x.unreachable.filter (fun k => k != (modid, q)) })) s)
    modid q)

end Sys2Proof.Machine
end

