-- ==== Sys2Proof/Machine/Control.lean ====
section
/-! DEFINITION. The control words and BLK (03 R52, 07 R110 to R113, 21 R326, R327). -/
namespace Sys2Proof.Machine

/-- NOP (R52). -/
def execNop (s : State) : Out := runPure [] (fun _ => Commit.none) s

/-- B (R110). -/
def execB (off : BitVec 20) (s : State) : Out :=
  runWord [] (fun _ t s => takeTarget Commit.none (relTarget t.pc off) s) s

/-- CALL (R110): g15 gets the address of the bundle that follows. -/
def execCall (off : BitVec 20) (s : State) : Out :=
  runWord [] (fun _ t s => takeTarget (Commit.reg 15 (followPc t s)) (relTarget t.pc off) s) s

/-- A branch on a condition of field a (R110): one that is not taken never faults on its target (R112). -/
def branchWord (cond : Word → Bool) (a : Src) (off : BitVec 15) (s : State) : Out :=
  runWord [a] (fun _ t s =>
    if cond (t.rd a) then takeTarget Commit.none (relTarget t.pc off) s else .done Commit.none s) s

/-- BZ (R110). -/
def execBz (a : Src) (off : BitVec 15) (s : State) : Out := branchWord (fun x => x == 0) a off s
/-- BNZ (R110). -/
def execBnz (a : Src) (off : BitVec 15) (s : State) : Out := branchWord (fun x => x != 0) a off s

/-- B.cc (R110). -/
def execBcc (c : BrCc) (a : Src) (off : BitVec 15) (s : State) : Out := branchWord c.holds a off s

/-- JMP (R54, R110). -/
def execJmp (a : Src) (s : State) : Out := runWord [a] (fun _ t s => takeRegTarget Commit.none (t.rd a) s) s

/-- CALLR (R54, R110). -/
def execCallr (a : Src) (s : State) : Out :=
  runWord [a] (fun _ t s => takeRegTarget (Commit.reg 15 (followPc t s)) (t.rd a) s) s

/-- A(q) of R113. -/
def blockSig (q : Word) : BitVec 12 :=
  q.extractLsb' 2 12 ^^^ q.extractLsb' 14 12 ^^^ q.extractLsb' 26 12 ^^^ q.extractLsb' 38 12 ^^^
    (q.extractLsb' 50 7).setWidth 12

/-- The control-flow check of R113 fails. -/
def sigMismatch (x : Strainer) (pc : Word) (sig : BitVec 12) : Bool := sig != 0 && (x.g ^^^ sig) != blockSig pc
/-- The digest check of R113 fails. -/
def digestMismatch (x : Strainer) : Bool := x.d != 0 && x.c != x.d

/-- The strainer's record (R326): control-flow mismatch where both checks fail. -/
def strainRecord (r : TRef) (t : Thread) (sig : BitVec 12) : TrapRec :=
  let flow := sigMismatch t.strain t.pc sig
  { TrapRec.ofThread r t (if flow then 0x032 else 0x033) 1 t.pc 0 with
    d0 := word (sig.toNat + (blockSig t.pc ^^^ t.strain.g).toNat * 2 ^ 16),
    d1 := if flow then 0 else word (t.strain.d.toNat + t.strain.c.toNat * 2 ^ 16) }

/-- BLK (R113, R326, R327): the checks, unless STRCTL.EN is 0 or a WAKE skips them once, then G, D and C. A mismatch posts a record
and parks the thread at the BLK, or with STRCTL.RECONLY only posts. A pending digest is checked by a BLK whose fields are both zero too, as in
R113's pseudocode. DESIGN CHOICE (log 88). -/
def execBlk (sig dig : BitVec 12) (s : State) : Out :=
  runWord [] (fun r t s =>
    let ctl := (s.core r.part r.core).c.strctl
    let checks := bit ctl 0 && !t.strain.skip
    let s := if checks then s.count r.part r.core 14 (some r.slot) 1 else s
    let bad := checks && (sigMismatch t.strain t.pc sig || digestMismatch t.strain)
    let pass (s : State) : Res :=
      .done Commit.none (s.modThread r (fun t => { t with
        strain := { g := blockSig t.pc, d := dig, c := 0, skip := false, on := true, parked := false } }))
    if bad then
      let s := s.traceCond r.part r.core 5
      (if bit ctl 1 then pass (postRecord s r.part (strainRecord r t sig))
       else .ended (fatalPark s r (strainRecord r t sig)))
    else pass s) s

end Sys2Proof.Machine
end

