-- ==== Sys2Proof/Machine/Integer.lean ====
section
/-! DEFINITION. The integer, address and bit instructions (06 R83 to R98). Each writes gd and sets its full bit, sets no flag and
faults for no operand. -/
namespace Sys2Proof.Machine

/-- A word that computes gd from its sources (R83). -/
def aluWord (srcs : List Src) (d : Reg) (f : Thread → Word) (s : State) : Out :=
  runPure srcs (fun t => Commit.reg d (f t)) s

/-- A three-register form: gd ← f(ga, gb). -/
def alu3 (f : Word → Word → Word) (d : Reg) (a b : Src) (s : State) : Out :=
  aluWord [a, b] d (fun t => f (t.rd a) (t.rd b)) s

/-- A form with field a alone: gd ← f(ga). -/
def alu2 (f : Word → Word) (d : Reg) (a : Src) (s : State) : Out := aluWord [a] d (fun t => f (t.rd a)) s

/-! ## The values -/

/-- The shift count of a register: bits 5:0 (R86). -/
def shiftCount (y : Word) : Nat := y.toNat % 64

def intMin (x y : Word) : Word := if x.toInt ≤ y.toInt then x else y
def intMax (x y : Word) : Word := if x.toInt ≥ y.toInt then x else y
def natMin (x y : Word) : Word := if x.toNat ≤ y.toNat then x else y
def natMax (x y : Word) : Word := if x.toNat ≥ y.toNat then x else y

/-- ROR (R86). -/
def rotRight (x : Word) (n : Nat) : Word := (x >>> n) ||| (x <<< (64 - n))

/-- 1 or 0, as compares write it. -/
def truth (b : Bool) : Word := if b then 1 else 0

/-- MULH (R91). -/
def mulHigh (x y : Word) : Word := BitVec.ofInt 64 (x.toInt * y.toInt / (2 ^ 64 : Int))
/-- MULHZ (R91). -/
def mulHighZ (x y : Word) : Word := word (x.toNat * y.toNat / 2 ^ 64)

/-- The 127-bit carry-less product (R91): the XOR of x · 2^i over every bit i of y. -/
def clProduct (x y : Word) : BitVec 128 :=
  (List.range 64).foldl (fun acc i => if y.getLsbD i then acc ^^^ (x.setWidth 128 <<< i) else acc) 0

/-- Signed quotient and remainder (R92). -/
def divSigned (x y : Word) : Int × Int :=
  if y = 0 then (-1, x.toInt)
  else if x.toInt = -(2 ^ 63) ∧ y.toInt = -1 then (-(2 ^ 63), 0)
  else (Int.tdiv x.toInt y.toInt, x.toInt - Int.tdiv x.toInt y.toInt * y.toInt)

/-- Unsigned quotient and remainder (R92). -/
def divUnsigned (x y : Word) : Nat × Nat :=
  if y = 0 then (2 ^ 64 - 1, x.toNat) else (x.toNat / y.toNat, x.toNat - x.toNat / y.toNat * y.toNat)

/-- When a division's reply arrives, in cycles after issue (R93). -/
def divTime (signed : Bool) (x y : Word) : Nat :=
  if y = 0 then 16
  else if signed then
    (if x.toInt = -(2 ^ 63) ∧ y.toInt = -1 then 16 else if x.toInt.natAbs < 2 ^ 32 then 40 else 72)
  else if x.toNat < 2 ^ 32 then 40 else 72

/-- A division: its result commits with its reply (R21, R93). -/
def divWord (signed : Bool) (f : Word → Word → Word) (d : Reg) (a b : Src) (s : State) : Out :=
  runPure [a, b] (fun t => (Commit.reg d (f (t.rd a) (t.rd b))).late (divTime signed (t.rd a) (t.rd b))) s

/-- Zero bits above the highest 1, from bit n - 1 down (R94). -/
def leadingZeros (x : Word) : Nat → Nat
  | 0 => 0
  | n + 1 => if x.getLsbD n then 0 else 1 + leadingZeros x n

/-- Zero bits below the lowest 1 (R94). -/
def trailingZeros (x : Word) : Nat :=
  (List.range 64).foldr (fun i acc => if x.getLsbD i then i else acc) 64

/-- The number of 1 bits (R94). -/
def onesOf {n : Nat} (x : BitVec n) : Nat := (List.range n).foldl (fun c i => if x.getLsbD i then c + 1 else c) 0

/-- Bit i from bit 63 − i (R94). -/
def bitReverse (x : Word) : Word :=
  (List.range 64).foldl (fun acc i => if x.getLsbD (63 - i) then acc ||| (1#64 <<< i) else acc) 0

/-- Byte i from byte 7 − i (R94). -/
def byteSwap (x : Word) : Word :=
  x.extractLsb' 0 8 ++ x.extractLsb' 8 8 ++ x.extractLsb' 16 8 ++ x.extractLsb' 24 8 ++ x.extractLsb' 32 8 ++
    x.extractLsb' 40 8 ++ x.extractLsb' 48 8 ++ x.extractLsb' 56 8

/-- `x[pos+w−1:pos]` (R95). -/
def fieldAt (x : Word) (pos w : Nat) : Nat := x.toNat / 2 ^ pos % 2 ^ w

/-- z with bits pos+w−1:pos replaced by the low w bits of x (R95, R96). -/
def insertAt (z : Word) (pos w x : Nat) : Word := setField z pos w x

/-! ## The ALU group (R86) -/

def execAdd (d : Reg) (a b : Src) (s : State) : Out := alu3 (fun x y => x + y) d a b s
def execSub (d : Reg) (a b : Src) (s : State) : Out := alu3 (fun x y => x - y) d a b s
def execAnd (d : Reg) (a b : Src) (s : State) : Out := alu3 (fun x y => x &&& y) d a b s
def execOr (d : Reg) (a b : Src) (s : State) : Out := alu3 (fun x y => x ||| y) d a b s
def execXor (d : Reg) (a b : Src) (s : State) : Out := alu3 (fun x y => x ^^^ y) d a b s
def execAndn (d : Reg) (a b : Src) (s : State) : Out := alu3 (fun x y => x &&& ~~~y) d a b s
def execOrn (d : Reg) (a b : Src) (s : State) : Out := alu3 (fun x y => x ||| ~~~y) d a b s
def execShl (d : Reg) (a b : Src) (s : State) : Out := alu3 (fun x y => x <<< shiftCount y) d a b s
def execShr (d : Reg) (a b : Src) (s : State) : Out := alu3 (fun x y => x >>> shiftCount y) d a b s
def execSha (d : Reg) (a b : Src) (s : State) : Out := alu3 (fun x y => x.sshiftRight (shiftCount y)) d a b s
def execRor (d : Reg) (a b : Src) (s : State) : Out := alu3 (fun x y => rotRight x (shiftCount y)) d a b s
def execMin (d : Reg) (a b : Src) (s : State) : Out := alu3 intMin d a b s
def execMax (d : Reg) (a b : Src) (s : State) : Out := alu3 intMax d a b s
def execMinz (d : Reg) (a b : Src) (s : State) : Out := alu3 natMin d a b s
def execMaxz (d : Reg) (a b : Src) (s : State) : Out := alu3 natMax d a b s

/-! ## Multiply and divide (R91 to R93) -/

def execMul (d : Reg) (a b : Src) (s : State) : Out := alu3 (fun x y => x * y) d a b s
def execMulh (d : Reg) (a b : Src) (s : State) : Out := alu3 mulHigh d a b s
def execMulhz (d : Reg) (a b : Src) (s : State) : Out := alu3 mulHighZ d a b s
def execDiv (d : Reg) (a b : Src) (s : State) : Out := divWord true (fun x y => BitVec.ofInt 64 (divSigned x y).1) d a b s
def execDivz (d : Reg) (a b : Src) (s : State) : Out := divWord false (fun x y => word (divUnsigned x y).1) d a b s
def execRem (d : Reg) (a b : Src) (s : State) : Out := divWord true (fun x y => BitVec.ofInt 64 (divSigned x y).2) d a b s
def execRemz (d : Reg) (a b : Src) (s : State) : Out := divWord false (fun x y => word (divUnsigned x y).2) d a b s
def execClmul (d : Reg) (a b : Src) (s : State) : Out := alu3 (fun x y => (clProduct x y).extractLsb' 0 64) d a b s
def execClmulh (d : Reg) (a b : Src) (s : State) : Out := alu3 (fun x y => (clProduct x y).extractLsb' 64 64) d a b s

/-! ## Bits and bit fields (R94, R95) -/

def execClz (d : Reg) (a : Src) (s : State) : Out := alu2 (fun x => word (leadingZeros x 64)) d a s
def execCtz (d : Reg) (a : Src) (s : State) : Out := alu2 (fun x => word (trailingZeros x)) d a s
def execPopc (d : Reg) (a : Src) (s : State) : Out := alu2 (fun x => word (onesOf x)) d a s
def execBrev (d : Reg) (a : Src) (s : State) : Out := alu2 bitReverse d a s
def execBswap (d : Reg) (a : Src) (s : State) : Out := alu2 byteSwap d a s
def execExts (d : Reg) (a : Src) (pos wm1 : BitVec 6) (s : State) : Out :=
  alu2 (fun x => sextTo (wm1.toNat + 1) (fieldAt x pos.toNat (wm1.toNat + 1))) d a s
def execExtz (d : Reg) (a : Src) (pos wm1 : BitVec 6) (s : State) : Out :=
  alu2 (fun x => word (fieldAt x pos.toNat (wm1.toNat + 1))) d a s
def execIns (d : Reg) (a : Src) (pos wm1 : BitVec 6) (s : State) : Out :=
  aluWord [a] d (fun t => insertAt (t.rdD d) pos.toNat (wm1.toNat + 1) (t.rd a).toNat) s

/-! ## Select, compare, address, immediates (R87 to R90, R96) -/

def execSel (d : Reg) (a b : Src) (c : Reg) (s : State) : Out :=
  aluWord [a, b] d (fun t => if t.rdD c ≠ 0 then t.rd a else t.rd b) s
def execAddx (d : Reg) (a b : Src) (sh : Fin 8) (s : State) : Out := alu3 (fun x y => x + (y <<< sh.val)) d a b s
def execCmp (cc : Cc) (d : Reg) (a b : Src) (s : State) : Out := alu3 (fun x y => truth (cc.holds x y)) d a b s
def execCmpi (cc : Cc) (d : Reg) (a : Src) (imm : BitVec 11) (s : State) : Out :=
  alu2 (fun x => truth (cc.holds x (imm.signExtend 64))) d a s
def execAddi (d : Reg) (a : Src) (imm : BitVec 15) (s : State) : Out := alu2 (fun x => x + imm.signExtend 64) d a s
def execAndi (d : Reg) (a : Src) (imm : BitVec 15) (s : State) : Out := alu2 (fun x => x &&& imm.signExtend 64) d a s
def execOri (d : Reg) (a : Src) (imm : BitVec 15) (s : State) : Out := alu2 (fun x => x ||| imm.signExtend 64) d a s
def execXori (d : Reg) (a : Src) (imm : BitVec 15) (s : State) : Out := alu2 (fun x => x ^^^ imm.signExtend 64) d a s
def execShli (d : Reg) (a : Src) (n : BitVec 6) (s : State) : Out := alu2 (fun x => x <<< n.toNat) d a s
def execShri (d : Reg) (a : Src) (n : BitVec 6) (s : State) : Out := alu2 (fun x => x >>> n.toNat) d a s
def execShai (d : Reg) (a : Src) (n : BitVec 6) (s : State) : Out := alu2 (fun x => x.sshiftRight n.toNat) d a s
def execRori (d : Reg) (a : Src) (n : BitVec 6) (s : State) : Out := alu2 (fun x => rotRight x n.toNat) d a s
def execLi (d : Reg) (imm : BitVec 20) (s : State) : Out := aluWord [] d (fun _ => imm.signExtend 64) s
def execLih (d : Reg) (q : BitVec 2) (v : BitVec 16) (s : State) : Out :=
  aluWord [] d (fun t => insertAt (t.rdD d) (16 * q.toNat) 16 v.toNat) s

end Sys2Proof.Machine
end

