-- ==== Sys2Proof/Machine/FpInstr.lean ====
section
/-! DEFINITION. The scalar floating-point instructions (07 R99 to R109). -/
namespace Sys2Proof.Machine

/-- A float form on ga and gb. -/
def fp2 (f : Fmt) (op : Nat → Nat → FRes) (d : Reg) (a b : Src) (s : State) : Out :=
  runPure [a, b] (fun t => fpCommit d (op (fpSrc f t a) (fpSrc f t b))) s

/-- A float form on gd, ga and gb. -/
def fp3 (f : Fmt) (op : Nat → Nat → Nat → FRes) (d : Reg) (a b : Src) (s : State) : Out :=
  runPure [a, b] (fun t => fpCommit d (op (fpDst f t d) (fpSrc f t a) (fpSrc f t b))) s

def execFadd (ty : FType) (d : Reg) (a b : Src) (s : State) : Out := fp2 ty.fmt ty.fmt.add d a b s
def execFsub (ty : FType) (d : Reg) (a b : Src) (s : State) : Out := fp2 ty.fmt ty.fmt.sub d a b s
def execFmul (ty : FType) (d : Reg) (a b : Src) (s : State) : Out := fp2 ty.fmt ty.fmt.mul d a b s
def execFma (ty : FType) (d : Reg) (a b : Src) (s : State) : Out := fp3 ty.fmt ty.fmt.fma d a b s
def execFms (ty : FType) (d : Reg) (a b : Src) (s : State) : Out := fp3 ty.fmt ty.fmt.fms d a b s
def execFnma (ty : FType) (d : Reg) (a b : Src) (s : State) : Out := fp3 ty.fmt ty.fmt.fnma d a b s

/-- FDIV: its result commits with the divider's reply (R101, R104). -/
def execFdiv (ty : FType) (d : Reg) (a b : Src) (s : State) : Out :=
  runPure [a, b] (fun t =>
    let x := fpSrc ty.fmt t a
    let y := fpSrc ty.fmt t b
    (fpCommit d (ty.fmt.div x y)).late (fdivTime ty (ty.fmt.val x) (ty.fmt.val y))) s

/-- FSQRT (R101, R104). -/
def execFsqrt (ty : FType) (d : Reg) (a : Src) (s : State) : Out :=
  runPure [a] (fun t =>
    let x := fpSrc ty.fmt t a
    (fpCommit d (ty.fmt.sqrt x)).late (fsqrtTime ty (ty.fmt.val x))) s

def execFmin (ty : FType) (d : Reg) (a b : Src) (s : State) : Out := fp2 ty.fmt ty.fmt.min d a b s
def execFmax (ty : FType) (d : Reg) (a b : Src) (s : State) : Out := fp2 ty.fmt ty.fmt.max d a b s
def execFsgn (ty : FType) (d : Reg) (a b : Src) (s : State) : Out :=
  fp2 ty.fmt (fun x y => { bits := ty.fmt.sgn x y, fl := 0 }) d a b s
def execFclass (ty : FType) (d : Reg) (a : Src) (s : State) : Out :=
  runPure [a] (fun t => Commit.reg d (word (ty.fmt.classOf (fpSrc ty.fmt t a)))) s

/-- FCMP (R108). -/
def execFcmp (ty : FType) (cc : FCc) (d : Reg) (a b : Src) (s : State) : Out :=
  runPure [a, b] (fun t =>
    let x := ty.fmt.val (fpSrc ty.fmt t a)
    let y := ty.fmt.val (fpSrc ty.fmt t b)
    fpIntCommit d (truth (cc.holds x y)) (flagIf (cc.invalid x y) flNV)) s

/-- The value of a source of FCVT: .nf reads bits W−1:0 by fa's descriptor (R99). -/
def cvtSource (n : Option Nf) (src : CType) (x : Nat) : FVal :=
  match src.ieee, n with
  | some f, _ => f.val (x % 2 ^ f.width)
  | none, some d => d.val x
  | none, none => .nan false

/-- The result of FCVT in its destination format (R74). -/
def cvtResult (n : Option Nf) (dst : CType) (v : FVal) : FRes :=
  match dst.ieee, n with
  | some f, _ => f.deliver v
  | none, some d => d.deliver v
  | none, none => { bits := 0, fl := 0 }

/-- FCVT (R109): with .nf as either type, fa's descriptor must be valid (R67). -/
def execFcvt (dst src : CType) (d : Reg) (a : Src) (s : State) : Out :=
  runWord [a] (fun _ t s =>
    if (dst == .nf || src == .nf) && (nfOf t.fa).isNone then .trap .format none s
    else .done (fpCommit d (cvtResult (nfOf t.fa) dst (cvtSource (nfOf t.fa) src (t.rd a).toNat))) s) s

/-- FCVTI (R75, R109): .s32 results are sign-extended, .z32 results zero-extended. -/
def execFcvti (src : FType) (it : IType) (rm : RMode) (d : Reg) (a : Src) (s : State) : Out :=
  runPure [a] (fun t =>
    let r := toInt rm it.bounds.1 it.bounds.2 (src.fmt.val (fpSrc src.fmt t a))
    fpIntCommit d (BitVec.ofInt 64 r.1) r.2) s

/-- FCVTF (R76, R109). -/
def execFcvtf (dst : FType) (it : IType) (d : Reg) (a : Src) (s : State) : Out :=
  runPure [a] (fun t => fpCommit d (dst.fmt.deliver (intVal (it.read (t.rd a))))) s

end Sys2Proof.Machine
end

