-- ==== Sys2Proof/Machine/Fetch.lean ====
section
/-! DEFINITION. Taking a bundle from memory and framing it (03 R49 to R53, 12 R200, 15 R250): which registers a word reads
synchronously and writes, the fetch buffer, the L1 instruction cache and the home, and the fates of words that are no bundle. -/
namespace Sys2Proof.Machine

/-! ## What a word reads and writes -/

/-- The source fields that a word may read synchronously (R84, R100, R147). -/
def instrSrcs : Instr → List Src
  | .bz a _ | .bnz a _ | .bcc _ a _ | .jmp a | .callr a => [a]
  | .ldS8 _ a _ | .ldS16 _ a _ | .ldS32 _ a _ | .ldS64 _ a _ | .ldZ8 _ a _ | .ldZ16 _ a _ | .ldZ32 _ a _ => [a]
  | .ldx _ _ a b | .stx _ _ a b => [a, b]
  | .st8 _ a _ | .st16 _ a _ | .st32 _ a _ | .st64 _ a _ => [a]
  | .lds _ a _ | .ldsk _ a _ | .sts _ a _ | .stf _ a _ | .clre a _ => [a]
  | .spawn _ a b | .send a b | .amsg a b | .dlg _ a b | .sch a b => [a, b]
  | .migr a | .lrw _ a | .rls a | .bar _ a => [a]
  | .amo _ _ _ a b | .red _ _ a b | .addm a b | .ldb _ a b => [a, b]
  | .cwb a | .cinv a | .iinv a | .pref a | .plbi a | .ldbImm _ a _ => [a]
  | .vld _ a _ | .vst _ a _ | .vgath _ _ _ a _ | .vscat _ _ _ a _ => [a]
  | .vlds _ _ _ a b => [a, b]
  | .cpy _ _ a b | .cpy2 _ _ a b | .cpyg _ _ a b => [a, b]
  | .cpyw a | .cpyq _ a | .rngi _ a | .rnga _ a | .mxw a | .mxp _ a | .mxst _ a => [a]
  | .park a | .gsw a | .loga a | .mts _ a | .coll _ a | .collw _ a | .snapq _ a => [a]
  | .add _ a b | .sub _ a b | .and _ a b | .or _ a b | .xor _ a b | .andn _ a b | .orn _ a b => [a, b]
  | .shl _ a b | .shr _ a b | .sha _ a b | .ror _ a b | .min _ a b | .max _ a b | .minz _ a b | .maxz _ a b => [a, b]
  | .mul _ a b | .mulh _ a b | .mulhz _ a b | .div _ a b | .divz _ a b | .rem _ a b | .remz _ a b => [a, b]
  | .clmul _ a b | .clmulh _ a b => [a, b]
  | .clz _ a | .ctz _ a | .popc _ a | .brev _ a | .bswap _ a | .exts _ a _ _ | .extz _ a _ _ | .ins _ a _ _ => [a]
  | .sel _ a b _ | .addx _ a b _ | .cmp _ _ a b => [a, b]
  | .cmpi _ _ a _ | .addi _ a _ | .andi _ a _ | .ori _ a _ | .xori _ a _ => [a]
  | .shli _ a _ | .shri _ a _ | .shai _ a _ | .rori _ a _ => [a]
  | .fadd _ _ a b | .fsub _ _ a b | .fmul _ _ a b | .fma _ _ a b | .fms _ _ a b | .fnma _ _ a b | .fdiv _ _ a b => [a, b]
  | .fmin _ _ a b | .fmax _ _ a b | .fsgn _ _ a b | .fcmp _ _ _ a b => [a, b]
  | .fsqrt _ _ a | .fclass _ _ a | .fcvt _ _ _ a | .fcvti _ _ _ _ a | .fcvtf _ _ _ a => [a]
  | .vbcast _ _ a => [a]
  | _ => []

/-- The general registers that a class C word writes (R17, R49, R147, R343). -/
def controlWrites : Instr → List Reg
  | .call _ | .callr _ => [15]
  | .ldS8 d _ _ | .ldS16 d _ _ | .ldS32 d _ _ | .ldS64 d _ _ | .ldZ8 d _ _ | .ldZ16 d _ _ | .ldZ32 d _ _ | .ldx _ d _ _ => [d]
  | .lds d _ _ | .ldsk d _ _ | .spawn d _ _ | .recv d | .dlg d _ _ | .lrw d _ | .amo _ _ d _ _ | .ldb d _ _ | .ldbImm d _ _ => [d]
  | .cpy _ d _ _ | .cpy2 _ d _ _ | .cpyg _ d _ _ | .cpyq d _ | .srd _ d _ | .rngq d _ | .mxq _ _ _ _ _ _ d _ _ | .mxp d _ => [d]
  | .mfs d _ | .coll d _ | .collw d _ | .snap d | .snapq d _ => [d]
  | .logn => [0, 1, 2, 3, 15]
  | _ => []

/-- The general register that a class A word writes; vector words without one write none. -/
def arithWrites : Instr → List Reg
  | .vadd _ _ _ _ _ | .vsub _ _ _ _ _ | .vmul _ _ _ _ _ | .vfma _ _ _ _ _ | .vmin _ _ _ _ _ | .vmax _ _ _ _ _ => []
  | .vand _ _ _ _ _ | .vor _ _ _ _ _ | .vxor _ _ _ _ _ | .vshl _ _ _ _ _ | .vshr _ _ _ _ _ | .vdot _ _ _ _ _ => []
  | .vsel _ _ _ _ _ | .vperm _ _ _ _ _ | .vcmp _ _ _ _ _ _ | .vexp2 _ _ _ _ | .vrcp _ _ _ _ | .vrsq _ _ _ _ => []
  | .vcvt _ _ _ _ _ | .vbcast _ _ _ | .mand _ _ _ | .mor _ _ _ | .mnot _ _ => []
  | .vred _ _ _ d _ | .vmovg _ d _ _ | .mpop d _ => [d]
  | .add d _ _ | .sub d _ _ | .and d _ _ | .or d _ _ | .xor d _ _ | .andn d _ _ | .orn d _ _ | .shl d _ _ | .shr d _ _ => [d]
  | .sha d _ _ | .ror d _ _ | .min d _ _ | .max d _ _ | .minz d _ _ | .maxz d _ _ | .mul d _ _ | .mulh d _ _ | .mulhz d _ _ => [d]
  | .div d _ _ | .divz d _ _ | .rem d _ _ | .remz d _ _ | .clmul d _ _ | .clmulh d _ _ => [d]
  | .clz d _ | .ctz d _ | .popc d _ | .brev d _ | .bswap d _ | .exts d _ _ _ | .extz d _ _ _ | .ins d _ _ _ => [d]
  | .sel d _ _ _ | .addx d _ _ _ | .cmp _ d _ _ | .cmpi _ d _ _ | .addi d _ _ | .andi d _ _ | .ori d _ _ | .xori d _ _ => [d]
  | .shli d _ _ | .shri d _ _ | .shai d _ _ | .rori d _ _ | .li d _ | .lih d _ _ => [d]
  | .fadd _ d _ _ | .fsub _ d _ _ | .fmul _ d _ _ | .fma _ d _ _ | .fms _ d _ _ | .fnma _ d _ _ | .fdiv _ d _ _ | .fsqrt _ d _ => [d]
  | .fmin _ d _ _ | .fmax _ d _ _ | .fsgn _ d _ _ | .fclass _ d _ | .fcmp _ _ d _ _ | .fcvt _ _ d _ | .fcvti _ _ _ d _ | .fcvtf _ _ d _ => [d]
  | _ => []

/-- The vector register that a word writes (R174). -/
def vectorWrites : Instr → List VReg
  | .vld d _ _ | .vlds _ _ d _ _ | .vgath _ _ d _ _ | .vsrd _ d _ => [d]
  | .vadd _ _ d _ _ | .vsub _ _ d _ _ | .vmul _ _ d _ _ | .vfma _ _ d _ _ | .vmin _ _ d _ _ | .vmax _ _ d _ _ => [d]
  | .vand _ _ d _ _ | .vor _ _ d _ _ | .vxor _ _ d _ _ | .vshl _ _ d _ _ | .vshr _ _ d _ _ | .vdot _ _ d _ _ => [d]
  | .vsel _ _ d _ _ | .vperm _ _ d _ _ | .vexp2 _ _ d _ | .vrcp _ _ d _ | .vrsq _ _ d _ | .vcvt _ _ _ d _ | .vbcast _ d _ => [d]
  | _ => []

/-- A vector arithmetic word: class A majors 0x20 to 0x26 (R173). -/
def isVectorWord (w : BitVec 32) : Bool :=
  wK w == 1 && decide (0x20 ≤ (wMajor w).toNat) && decide ((wMajor w).toNat ≤ 0x26)

/-! ## Framing (R49 to R53) -/

/-- A bundle: a lone word, or a control word and an arithmetic word. -/
inductive Bundle where
  | lone (i : Instr)
  | pair (c a : Instr)
deriving DecidableEq, Repr

def Bundle.size : Bundle → Nat
  | .lone _ => 4
  | .pair _ _ => 8

/-- The bundle that the word at pc opens, with its raw words, or the framing fault it meets (R49, R53). `w1` is the word that
follows. -/
def frame (pc : Word) (w0 w1 : BitVec 32) : Except Cause (Bundle × List (BitVec 32)) :=
  if w0.getLsbD 31 then
    match decodeWord w0 with
    | .ok i => .ok (.lone i, [w0])
    | .error _ => .error .illegal
  else if pc.getLsbD 2 then .error .alignment
  else if w0.getLsbD 30 || w1.getLsbD 31 || !w1.getLsbD 30 then .error .illegal
  else
    match decodeWord w0, decodeWord w1 with
    | .ok c, .ok a =>
      if c.loneOnly || (controlWrites c).any (fun d => (arithWrites a).contains d) ||
         (vectorWrites c).any (fun d => (vectorWrites a).contains d)
      then .error .illegal
      else .ok (.pair c a, [w0, w1])
    | _, _ => .error .illegal

/-! ## Sources of code (R250) -/

/-- The domain tag under which a fetch buffer holds window code: no domain has it. DESIGN CHOICE (log 21). -/
def windowDom : Nat := 4096

/-- Code lines of a thread's buffer after it has taken a line: the line of pc, and the next in sequence where it is held. DESIGN CHOICE (log 21). -/
def bufferWith (l : List CodeLine) (x : CodeLine) : List CodeLine :=
  x :: l.filter (fun y => y.line == x.line + 1 && y.dom == x.dom)

/-- A line enters an L1 instruction cache of 4 ways and 64 sets (R197); of a full set, the line that was installed first leaves: a hit does not
reorder the set. DESIGN CHOICE (log 22). -/
def l1iInstall (l : List CodeLine) (x : CodeLine) : List CodeLine :=
  let set := l.filter (fun y => y.line % 64 == x.line % 64 && y.line != x.line)
  let rest := l.filter (fun y => y.line % 64 != x.line % 64)
  x :: (set.take 3 ++ rest)

/-- The line of a window address as a fetch reads it, from the thread's buffer where it holds it; a poisoned word faults (R339). -/
def windowLine (s : State) (r : TRef) (pc : Word) (held : Option CodeLine) : Except Res (CodeLine × State) :=
  match windowKey r.part r.core pc with
  | none => .error (.trap .window none s)
  | some (k, _) =>
    if windowPoisoned s k 4 then .error (.trap .poison none s)
    else
      match held with
      | some l => .ok (l, s)
      | none => .ok ({ line := lineOf pc, dom := windowDom, bytes := s.readLine (k - pc.toNat % 128) }, s.sramAt r.part k)

/-- The line of a fetch that neither buffer nor instruction cache holds, from its home slice (R250): never from an L1 data cache,
and combined where it is steep (R227). -/
def homeCode (s : State) (r : TRef) (t : Thread) (pc : Word) : Except Res (CodeLine × State) :=
  match reachHome 2 s r t needX pc with
  | .error e => .error e
  | .ok (l, miss, s) =>
    let line := lineOf pc
    let s := s.revokeAll r.part line
    let s := if miss then s else homeRead s r.part line 3 t.corr
    match s.sl r.part line with
    | none => .error (.trap .poison none s)
    | some x =>
      if s.linePoisoned x.key then .error (.trap .poison none s)
      else
        let y : CodeLine := { line := line, dom := l.dom, bytes := s.homeLine r.part line x.key, big := l.big }
        .ok (y, s.modCoreC r.part r.core (fun k => { k with l1i := l1iInstall k.l1i y }))

/-- The code line of pc: checks of R349, R22, R193, R200, R212, then the sources of R250 in order. DESIGN CHOICE (log 21). -/
def fetchLine (s : State) (r : TRef) (t : Thread) (pc : Word) : Except Res (CodeLine × State) :=
  if pc.toNat % 4 != 0 then .error (.trap .alignment none s)
  else if !canonical pc || inRemoteRegion pc then .error (.trap .address none s)
  else
    let held (dom : Nat) := t.fetchBuf.find? (fun l => l.line == lineOf pc && l.dom == dom)
    if inWindowRegion pc then windowLine s r pc (held windowDom)
    else
      match protect s r t needX pc with
      | .error e => .error e
      | .ok (leaf, s) =>
        if s.linePoisoned (keyMain r.part (leaf.phys (va57 pc))) then .error (.trap .poison none s)
        else
        match held leaf.dom with
        | some l => .ok (l, s)
        | none =>
          match (s.core r.part r.core).c.l1i.find? (fun l => l.line == lineOf pc && l.dom == leaf.dom) with
          | some l => .ok (l, s)
          | none => homeCode s r t pc

/-- The 32-bit word at a byte offset of a code line. -/
def codeWord (l : CodeLine) (off : Nat) : BitVec 32 := (l.bytes >>> (8 * off)).setWidth 32

/-- The bundle at a thread's pc, fetched and framed (R49). A fault on the fetch access comes before every framing fault (R53). -/
def fetchBundle (s : State) (r : TRef) (t : Thread) : Except Res (Bundle × List (BitVec 32) × State) :=
  match fetchLine s r t t.pc with
  | .error e => .error e
  | .ok (l, s) =>
    let s := s.modThread r (fun t => { t with fetchBuf := bufferWith t.fetchBuf l })
    let off := t.pc.toNat % 128
    match frame t.pc (codeWord l off) (codeWord l (off + 4)) with
    | .error c => .error (.trap c none s)
    | .ok (b, ws) => .ok (b, ws, s)

/-! ## What holds a bundle back -/

/-- A thread of the core unbinds it: no watched thread issues meanwhile (R328). -/
def unbinding (s : State) (p : PartId) (c : CoreId) : Bool :=
  (slotThreads p c (s.core p c).w.slots).any (fun e => e.2.wait == some .unbind)

/-- The words of a bundle. -/
def Bundle.instrs : Bundle → List Instr
  | .lone i => [i]
  | .pair c a => [c, a]

/-- The queue that a word fills has no room (R166, R257, R265, R374). -/
def queueFull (s : State) (p : PartId) (c : CoreId) (i : Instr) : Bool :=
  let w := (s.core p c).w
  match i with
  | .cpy _ _ _ _ | .cpy2 _ _ _ _ | .cpyg _ _ _ _ => decide (64 ≤ w.copyQ.length)
  | .mxq _ _ _ _ _ _ _ _ _ | .mxz _ | .mxst _ _ => mxFull w
  | .coll _ _ => decide (64 ≤ (s.part p).colls.length)
  | .red _ _ _ _ => decide (16 ≤ w.outQ.length)
  | .addm _ _ => decide (16 ≤ w.steepQ.length)
  | _ => false

/-- Some queue that a word of the core could fill has no room. -/
def anyFull (s : State) (p : PartId) (c : CoreId) : Bool :=
  let w := (s.core p c).w
  decide (64 ≤ w.copyQ.length) || mxFull w || decide (64 ≤ (s.part p).colls.length) || decide (16 ≤ w.outQ.length) ||
  decide (16 ≤ w.steepQ.length)

/-- The thread's next bundle would overflow a queue: it does not issue, and the barrel passes over it (R166, R257, R265, R374). -/
def queueHeld (s : State) (r : TRef) (t : Thread) : Bool :=
  anyFull s r.part r.core &&
  (match fetchBundle s r t with
   | .ok (b, _, _) => b.instrs.any (queueFull s r.part r.core)
   | .error _ => false)

end Sys2Proof.Machine
end

