-- ==== Sys2Proof/Machine/Snapshot.lean ====
section
/-! DEFINITION. Snapshots: SNAP and SNAPQ (26 R383, R384), markers (R385, R386), the capture pulse (R387, R388), the page copier (R389), the
caddy and its manifests (R390, R391), restore and rollback entry (R392, R393). -/
namespace Sys2Proof.Machine

def modSnap (s : State) (p : PartId) (f : SnapSt → SnapSt) : State := s.modPart p (fun q => { q with snap := f q.snap })

/-! ## SNAP and SNAPQ (R383, R384) -/

/-- The number after a snapshot's (R381). -/
def nextSnap (n : Nat) : Nat := if n + 1 = 2 ^ 16 then 1 else n + 1

/-- The partition is the coordinator (R382). -/
def coordinates (q : Partition) : Bool := bit q.r.snapctl 62

/-- STATE as SNAPQ reads it: at the coordinator, 4 also when a peer reported failure (R384). -/
def snapqState (q : Partition) (n : Nat) : Nat :=
  if snapState q n ≠ 0 ∧ coordinates q ∧ q.snap.reported.any (fun e => e.1 == n && !e.2.2) then 4 else snapState q n

/-- Every peer has reported state 3 (R384). DEDUCED (log 60). -/
def snapJob (s : State) (p : PartId) (n : Nat) : Bool :=
  let q := s.part p
  snapState q n != 0 && coordinates q && (snapPeers s p).all (fun k => q.snap.reported.contains (n, k, true))

/-- The word that SNAPQ reads (R384). -/
def snapqWord (s : State) (p : PartId) (n : Nat) : Word :=
  if snapqState (s.part p) n = 0 then 0 else word (n * 2 ^ 48 + (if snapJob s p n then 8 else 0) + snapqState (s.part p) n)

/-- The marker that SNAP sends to its own partition (R383). -/
def ownMarker (s : State) (p : PartId) (n : Nat) (corr : BitVec 32) : MarkerMsg :=
  { srcMod := s.modid, src := p, chan := .sys, n := n, coordMod := s.modid, coordPart := p, corr := corr, blkCount := 0 }

/-- SNAP (R383). -/
def execSnap (d : Reg) (s : State) : Out :=
  runWord [] (fun r t s =>
    let p := r.part
    if !coordinates (s.part p) then .trap .privilege none s
    else fenced s r t .part (fun _ =>
      let q := s.part p
      let st := snapqState q q.r.snapn.toNat
      if !bit q.r.snapctl 63 || st == 1 || st == 2 then .done (Commit.reg d 0) s
      else
        let n := nextSnap q.r.snapn.toNat
        let s := modSnap s p (fun x => { x with issuers := nput x.issuers t.tid })
        .done (Commit.reg d (word n)) (s.after 1 (.marker p (ownMarker s p n t.corr))))) s

/-- SNAPQ (R384): as an MFS of a partition register, out of the rotation for about 30 cycles. -/
def execSnapq (d : Reg) (a : Src) (s : State) : Out :=
  runWord [a] (fun r t s =>
    .done { Commit.reg d (snapqWord s r.part (field (t.rd a) 0 16)) with lat := 30 } s) s

/-! ## Markers (R385, R386) -/

/-- A marker marks its channel (R386). -/
def markChannel (s : State) (p : PartId) (m : MarkerMsg) : State :=
  let k := peerKey m.srcMod m.src
  modSnap s p (fun x => { x with
    seen := (k, m.chan) :: x.seen.filter (fun e => e != (k, m.chan)),
    blkWant := if m.chan = .blk then kput x.blkWant k m.blkCount else x.blkWant })

/-- The capture pulse begins with containment (R387). -/
def beginPulse (s : State) (p : PartId) (m : MarkerMsg) : State :=
  let s := s.modThreads p (fun t => { t with captured := false })
  modSnap s p (fun x => { x with
    phase := .contain, n := m.n, coordMod := m.coordMod, coordPart := m.coordPart, corr := m.corr, seen := [], blkWant := [] })

/-- A discarded marker of the partition's own SNAP keeps no thread waiting for a cut. -/
def discardMarker (s : State) (p : PartId) (m : MarkerMsg) : State :=
  if m.srcMod = s.modid ∧ m.src = p then modSnap s p (fun x => { x with issuers := [] }) else s

/-- MARKER (R386): one that comes behind a message of its flow that is held back waits with it (R385). DEDUCED (log 59). -/
def execMarker (p : PartId) (m : MarkerMsg) (s : State) : Out :=
  let q := s.part p
  let cur := q.r.snapn.toNat
  if !authentic s p m.srcMod m.src then .next s
  else if heldBehind s (.marker p m) then .next (s.holdBack (.marker p m))
  else if !bit q.r.snapctl 63 then .next (discardMarker s p m)
  else if m.n = nextSnap cur then
    if q.snap.phase != .idle then .next (markChannel s p m)
    else if snapState q cur == 1 || snapState q cur == 2 then .next (holdInput s p (.marker p m))
    else .next (markChannel (beginPulse s p m) p m)
  else if m.n = cur then .next (endRecording (markChannel s p m) p)
  else .next (discardMarker s p m)

/-! ## The capture pulse (R387) -/

/-- A watched thread that will issue before the cut, and has not taken its MARK of kind 4: not one that awaits a reply, or its own SNAP's
cut, or that a full queue, the lag limit or an unbinding of its core holds back (R383, R387). DEDUCED (log 59). -/
def markDue (s : State) (r : TRef) (t : Thread) : Bool :=
  s.watched r.part r.core && !t.captured && t.wait.isNone && !t.parked && t.dropped.isNone && !lagHeld s r.part r.core &&
  !unbinding s r.part r.core && !queueHeld s r t &&
  !(s.part r.part).snap.issuers.contains t.tid && decide (t.readyAt ≤ Nat.max s.cycle (t.issuedIn + 8))

/-- A thread waits for the ACK of its MARK of kind 4. DEDUCED (log 59). -/
def markWaiting (t : Thread) : Bool :=
  match t.wait, t.mark with
  | some (.ack _), some (4, _) => true
  | _, _ => false

/-- Containment is over: no watched thread is waiting at its MARK, and none will write one (R387). -/
def contained (s : State) (p : PartId) : Bool := (s.threads p).all (fun e => !markWaiting e.2 && !markDue s e.1 e.2)

/-- CAPTURE_PULSE: containment ends, and every core stops issuing and drains (R387). -/
def execCapturePulse (p : PartId) (s : State) : Out :=
  let q := s.part p
  if q.snap.phase == .contain && q.gang == .idle && contained s p then
    .next ((modSnap s p (fun x => { x with phase := .drain })).modPart p (fun q => { q with
      clusters := kmapVals (fun _ (c : Cluster) => { c with w := stopRun c.w }) q.clusters }))
  else .next s

/-! ## Page states at the cut (R389) -/

/-- The leaves that a cut captures: in state 2, in state 1 left by a snapshot that was lost, and, when the capture is full, in state 0
(R388, R389). -/
def cutLeaves (s : State) (p : PartId) (full : Bool) : List Leaf :=
  (allLeaves s p).filter (fun l => l.snap == 1 || l.snap == 2 || (l.snap == 0 && full))

/-- Pages enter a state. -/
def setSnaps (s : State) (l : List Leaf) (v : Nat) : State := l.foldl (fun s x => setSnap s x v) s

/-- The markers of a cut leave for a peer, on every channel (R385). -/
def sendMarkers (s : State) (p : PartId) (k : Nat) : State :=
  let q := s.part p
  let m (ch : Chan) : MarkerMsg :=
    { srcMod := s.modid, src := p, chan := ch, n := q.r.snapn.toNat, coordMod := q.snap.coordMod, coordPart := q.snap.coordPart,
      corr := q.snap.corr, blkCount := if ch = .blk then (kget q.snap.blkSent k).getD 0 else 0 }
  let peer : PartId := Fin.ofNat 16 k
  [Chan.req, .rsp, .msg, .blk, .sys].foldl (fun s ch =>
    if k / 16 = s.modid.toNat then s.push (.marker peer (m ch))
    else if linked q (BitVec.ofNat 16 (k / 16)) peer then { s with portOut := s.portOut ++ [.marker (BitVec.ofNat 16 (k / 16)) peer (m ch)] }
    else s) s

/-- Every PLB and every slice's translation cache dropped (R210, R387). -/
def dropTranslations (s : State) (p : PartId) : State :=
  ((s.part p).coreIds.foldl (fun s c => s.modCoreC p c (fun k => { k with plb := [] })) s).modPart p (fun q => { q with tcache := [] })

/-- The holders of a partition, each of which pours its old colour (R229). -/
def colourPours (s : State) (p : PartId) : List Instr :=
  (s.part p).coreIds.flatMap (fun c => (s.core p c).c.holders.map (fun h => .colourPour p c h.line))

/-- STEEPCTL.COL inverted (R229, R387). -/
def flipColour (s : State) (p : PartId) : State := s.modRegs p (fun r => { r with steepctl := r.steepctl ^^^ 0x100 })

/-- A restored world's state of the dispatcher, its wait lists, barriers and collectives. Of the wait lists it holds the records: a thread, of
the partition or of a peer, leaves its list as it is saved, and its bundle reissues (R322). -/
def rollbackOf (q : Partition) : Rollback :=
  { launches := q.launches, expansion := q.expansion, nextLaunch := q.nextLaunch,
    queues := (q.clusters.filter (fun e => e.2.queues.toList.any (fun l => !l.isEmpty))).map (fun e => (e.1, e.2.queues)),
    dsets := q.dsets,
    records := q.fe.flatMap (fun e => (e.2.full ++ e.2.empty).filter (fun x => match x.who with
      | .record _ => true
      | .thread _ _ | .remote _ _ _ | .engine => false)),
    bars := q.bars, colls := q.colls, collNext := q.collNext, collDone := q.collDone, collEarly := q.collEarly,
    collMissed := q.collMissed }

/-- A set of cells taken relative to the first TCM cell of a partition. -/
def windowPart {α : Type} (p : PartId) (unit : Nat) (f : α → Nat) (l : List α) : List α :=
  l.filter (fun x => decide (spaceBase p 1 / unit ≤ f x) && decide (f x < (spaceBase p 0 + 4 * 2 ^ 48) / unit))

/-- A message of a peer, still on its way: it is no part of the receiver's state (R394). -/
def peerMessage (s : State) (p : PartId) (i : Instr) : Bool :=
  match i with
  | .activeMessageArrival _ _ m => fromPeer s m.srcMod m.src.part p
  | _ => false

/-- What a capture saves beside pages, as of the cut (R388). DESIGN CHOICE (log 57). -/
def imageOf (s : State) (p : PartId) : SnapImage :=
  let w := worldOf (leaveLists s p) p
  { world := { w with spill := w.spill.filter (fun i => !peerMessage s p i), back := some (rollbackOf (s.part p)) }, log := [],
    sram := windowPart p 1 (fun (c : Host.Cell) => c.1) s.mem, sramFe := windowPart p 8 id s.fe,
    sramPoison := windowPart p 8 id s.poisonW }

/-- The cut (R387): pages change state, the colour flips, translations drop, SNAPN advances, the markers leave, and what the capture saves
beside pages is taken as it stands. DESIGN CHOICE (log 57). -/
def takeCut (s : State) (p : PartId) : State :=
  let q := s.part p
  let image := imageOf s p
  let full := bit q.r.snapctl 0
  let cap := cutLeaves s p full
  let old := blkColour q
  let n := q.snap.n
  let s := dropTranslations (flipColour (setSnaps s cap 1) p) p
  let s := s.modRegs p (fun r => { r with
    snapn := BitVec.ofNat 16 n, snapctl := if full then r.snapctl &&& 0xFFFFFFFFFFFFFFFE else r.snapctl })
  let s := setSnapState s p n 1
  let s := modSnap s p (fun x => { x with
    phase := .cut, issuers := [], full := full, cutTs := s.tstamp, oldColour := old, chanLog := [], captured := cap, dirty := [],
    staged := [], image := some image, reported := x.reported.filter (fun e => e.1 == n || x.table.any (fun y => y.n == e.1)) })
  let s := (snapPeers s p).foldl (fun s k => sendMarkers s p k) s
  (modSnap s p (fun x => { x with blkSent := [] })).pushAll (colourPours s p)

/-- SNAPSHOT_CUT: every core and every engine has drained (R387). -/
def execSnapshotCut (p : PartId) (s : State) : Out :=
  let q := s.part p
  if q.snap.phase == .drain && q.gang == .idle && q.coreIds.all (fun c => coreReady s p c) &&
      q.clusters.all (fun e => e.2.w.run.isNone && e.2.w.drain.isEmpty)
  then .next (takeCut s p) else .next s

/-! ## Copies of cells -/

/-- Bytes and poison of `n` bytes from one cell on copied to another place, but not to a poisoned line (R212); the two ranges are apart. -/
def copyCells (s : State) (src dst n : Nat) : State :=
  let stuck := s.stuckLines dst n
  let cells := s.mem.filter (fun c => decide (src ≤ c.1) && decide (c.1 < src + n) && !nmem stuck ((c.1 - src + dst) / 128))
  let bad := s.poison.filter (fun i => decide (src / 128 ≤ i) && decide (i < (src + n) / 128))
  let clean := s.mem.filter (fun c => decide (c.1 < dst) || decide (dst + n ≤ c.1) || nmem stuck (c.1 / 128))
  { s with
    mem := cells.foldl (fun (m : Memory) c => memSetByte m (c.1 - src + dst) c.2) clean,
    poison := (bad.map (fun i => i - src / 128 + dst / 128) ++ stuck).foldl nput (nwipe s.poison (dst / 128) ((dst + n) / 128)) }

/-- Full/empty bits of `n` bytes from one cell on copied to another place, but for the words of some lines. -/
def copyFull (s : State) (src dst n : Nat) (stuck : List Nat) : State :=
  let on := (s.fe.filter (fun i => decide (src / 8 ≤ i) && decide (i < (src + n) / 8))).map (fun i => i - src / 8 + dst / 8)
  let clean := s.fe.filter (fun i => decide (i < dst / 8) || decide ((dst + n) / 8 ≤ i) || nmem stuck (i / 16))
  { s with fe := (on.filter (fun i => !nmem stuck (i / 16))).foldl nput clean }

/-- The cell at which the image of a steep page of a physical address is kept from the cut until it is written. -/
def shadowKey (p : PartId) (pa : Nat) : Nat := (80 + p.val) * 2 ^ 48 + pa % 2 ^ 48
/-- The cells in which the writer lays an object out. -/
def layoutKey (p : PartId) : Nat := (96 + p.val) * 2 ^ 48

/-- Bytes of a leaf's page. -/
def Leaf.bytes (l : Leaf) : Nat := if l.big then 2 ^ 29 else 2 ^ 16

/-- A page's bytes, poison and full/empty bits copied. -/
def copyPage (s : State) (src dst n : Nat) : State := copyFull (copyCells s src dst n) src dst n (s.stuckLines dst n)

/-! ## Saving and resuming (R387, R388) -/

/-- The lines of captured steep pages with every old-colour pour combined, and each page's image kept (R229, R388). DESIGN CHOICE (log 57). -/
def imageSteep (s : State) (p : PartId) : State :=
  let s := ((s.part p).steep.filter (fun x => (s.part p).snap.captured.any (fun l => l.covers (x.line * 128)))).foldl
    (fun s x => s.combineOld p x.line) s
  ((s.part p).snap.captured.filter (fun l => l.steep)).foldl (fun s l =>
    copyPage (s.wipeRange (shadowKey p l.pa) (shadowKey p l.pa + l.bytes)) (keyMain p l.pa) (shadowKey p l.pa) l.bytes) s

/-- Held inputs are released: they come before whatever has come since (R386, R387). -/
def releaseHeld (s : State) (p : PartId) : State :=
  let held := (s.part p).snap.held
  { modSnap s p (fun x => { x with held := [] }) with events := held ++ s.events }

/-- CAPTURE_RESUME: the pours of the old colour have come, every core resumes issue, and held inputs are released (R387). DESIGN CHOICE (log 57). -/
def execCaptureResume (p : PartId) (s : State) : Out :=
  if (s.part p).snap.phase != .cut then .next s
  else .next (releaseHeld (endRecording (modSnap (imageSteep s p) p (fun x => { x with phase := .idle })) p) p)

/-! ## The page copier (R389) -/

/-- The first staging frame that holds no copy. -/
def freeFrame (q : Partition) : Option Nat :=
  (List.range (field q.r.snapstg 0 16)).find? (fun i => !q.snap.staged.any (fun e => e.2 == some i))

/-- The cell of a staging frame (R382). -/
def frameKey (q : Partition) (p : PartId) (i : Nat) : Nat := keyMain p (field q.r.snapstg 16 32 * 2 ^ 16 + 2 ^ 16 * i)

/-- Where a captured page's image stands: staged, kept from the cut, or still in place (R389). -/
def imageKey (q : Partition) (p : PartId) (l : Leaf) : Nat :=
  match q.snap.staged.find? (fun e => e.1 == l.page) with
  | some (_, some i) => frameKey q p i
  | some (_, none) => shadowKey p l.pa
  | none => if l.steep then shadowKey p l.pa else keyMain p l.pa

/-- A page leaves state 1 with its copy. -/
def pageCopied (s : State) (p : PartId) (l : Leaf) (frame : Option Nat) : State :=
  modSnap (setSnap s l 2) p (fun x => { x with staged := x.staged ++ [(l.page, frame)], dirty := nput x.dirty l.page })

/-- The copier copies a captured page, or the image of a steep one, into a staging frame; without a free frame, and for a page of 512 MiB, its
writers wait for the writer (R389). -/
def copyCaptured (s : State) (p : PartId) (page : Nat) : State :=
  match (s.part p).snap.captured.find? (fun l => l.page == page && snapOf s l == 1) with
  | none => s
  | some l =>
    if l.big then s
    else if l.steep && (s.part p).snap.phase == .cut then s
    else
      match freeFrame (s.part p) with
      | none => s
      | some i =>
        let k := frameKey (s.part p) p i
        pageCopied (copyPage (collectRange s p k (k + 2 ^ 16)) (imageKey (s.part p) p l) k (2 ^ 16)) p l (some i)

/-- PAGE_COPY: a write to a captured page waits while the copier copies the page (R389); a steep page's image is taken at CAPTURE_RESUME. -/
def execPageCopy (p : PartId) (page : Nat) (s : State) : Out := .next (copyCaptured s p page)

/-! ## The caddy (R382, R390) -/

def caddyLen (r : PRegs) : Nat := field r.caddyp 42 21
def caddyKeep (r : PRegs) : Nat := field r.caddyp 21 21
def caddyPtr (r : PRegs) : Nat := field r.caddyp 0 21

/-- The cell of a caddy unit, modulo LEN: in the memory modules, or behind the port, where it is encrypted under the partition's key
(R390). -/
def caddyUnit (r : PRegs) (p : PartId) (u : Nat) : Nat :=
  let off := field r.caddy 16 32 * 2 ^ 16 + 2 ^ 16 * (u % Nat.max 1 (caddyLen r))
  if bit r.caddy 63 then (64 + p.val) * 2 ^ 48 + off % 2 ^ 48 else keyMain p off

/-- The units that the writer may fill: it never writes one whose successor is KEEP (R390). -/
def caddyRoom (r : PRegs) : Nat :=
  let n := caddyLen r
  if n = 0 then 0 else (caddyKeep r % n + 2 * n - 1 - caddyPtr r % n) % n

/-- Units that hold a number of bytes. -/
def unitsOf (n : Nat) : Nat := (n + 2 ^ 16 - 1) / 2 ^ 16

/-- Bytes of the world image (R322), and of the SRAM images: TCMs, scratchpads and the share, then their full/empty bits. -/
def worldBytes : Nat := areaSize
def sramData : Nat := 272 * 2 ^ 17 + 32 * 2 ^ 22 + 2 ^ 26
def sramBytes : Nat := sramData + sramData / 64

/-- The bytes of a channel log (R391). -/
def chanBytes (l : List Instr) : List Byte := l.flatMap Config.chanEntry

/-- An object laid out in one piece moved to its units. -/
def placeObject (s : State) (r : PRegs) (p : PartId) (src unit n : Nat) : State :=
  (List.range (unitsOf n)).foldl (fun s i =>
    let k := caddyUnit r p (unit + i)
    copyCells (collectRange s p k (k + 2 ^ 16)) (src + 2 ^ 16 * i) k (2 ^ 16)) s

/-- Bytes of an object in its units, in order. -/
def objectBytes (s : State) (r : PRegs) (p : PartId) (unit n : Nat) : List Byte :=
  (List.range (unitsOf n)).flatMap (fun i => memBytes s.mem (caddyUnit r p (unit + i)) (Nat.min (2 ^ 16) (n - 2 ^ 16 * i)))

/-- A 32-byte SHAKE256 hash (R391). PRESUMED (log 10). -/
def hash32 (l : List Byte) : BitVec 256 :=
  (shake256 32 l).foldr (fun b v => (v <<< 8) ||| b.setWidth 256) 0

/-! ## The SRAM images -/

/-- The cell that holds a byte of the windows in their image, at its place from the image's first byte: TCMs, then scratchpads, then the
share. -/
def sramOff (p : PartId) (k : Nat) : Nat :=
  if k < spaceBase p 2 then k - spaceBase p 1
  else if k < spaceBase p 3 then 272 * 2 ^ 17 + (k - spaceBase p 2)
  else 272 * 2 ^ 17 + 32 * 2 ^ 22 + (k - spaceBase p 3)

/-- Bits set in bytes from a cell on. -/
def setBits (m : Memory) (k : Nat) (l : List Nat) : Memory :=
  l.foldl (fun m i => memSetByte m (k + i / 8) (memByte m (k + i / 8) ||| (1#8 <<< (i % 8)))) m

/-- The SRAM images laid out from a cell on. -/
def laySram (s : State) (p : PartId) (k : Nat) (x : SnapImage) : State :=
  let m := x.sram.foldl (fun m c => memSetByte m (k + sramOff p c.1) c.2) s.mem
  { s with mem := setBits m (k + sramData) (x.sramFe.map (fun i => sramOff p (8 * i) / 8)) }

/-! ## The manifest (R391) -/

/-- A page of a snapshot: its first 64 KiB page number, the cell of its bytes, and the cell that names its poison and full/empty bits. -/
structure PageImage where
  page : Nat
  key : Nat

/-- The 64 KiB images of a snapshot, in ascending order. -/
def pageImages (q : Partition) (p : PartId) : List PageImage :=
  q.snap.captured.flatMap (fun l =>
    (List.range (l.bytes / 2 ^ 16)).map (fun i => { page := l.page + i, key := imageKey q p l + 2 ^ 16 * i }))

/-- A line of 64 KiB is poisoned. -/
def pagePoisoned (s : State) (k : Nat) : Bool := (List.range 512).any (fun i => s.linePoisoned (k + 128 * i))

/-- The full/empty bits of 64 KiB as 1 KiB: bit i of the page's words. -/
def fullBytes (s : State) (k : Nat) : List Byte :=
  (List.range 1024).map (fun j =>
    (List.range 8).foldl (fun b i => if s.fullBit (k + 64 * j + 8 * i) then b ||| (1#8 <<< i) else b) (0 : Byte))

/-- The hash of a page's entry. -/
def pageHash (data full : List Byte) : BitVec 256 := hash32 (data ++ full)

/-- Bytes of a hash. -/
def hashBytes (h : BitVec 256) : List Byte := (List.range 32).map (fun i => h.extractLsb' (8 * i) 8)

/-- The units of a snapshot's objects from WPTR on: world, channel log, SRAM, pages, full/empty table, manifest, and the end. -/
structure SnapPlan where
  world : Nat
  chan : Nat
  sram : Nat
  pages : Nat
  full : Nat
  manifest : Nat
  stop : Nat

def planOf (start chan pages : Nat) : SnapPlan :=
  let c := start + unitsOf worldBytes
  let r := c + unitsOf chan
  let g := r + unitsOf sramBytes
  let f := g + pages
  let m := f + unitsOf (1024 * pages)
  { world := start, chan := c, sram := r, pages := g, full := f, manifest := m, stop := m + unitsOf (128 + 48 * pages) }

/-- A unit number as a field of 21 bits. -/
def unitField (r : PRegs) (u : Nat) : Nat := u % Nat.max 1 (caddyLen r) % 2 ^ 21

/-- The header of a manifest (R391). -/
def headerWords (s : State) (p : PartId) (pl : SnapPlan) (chan pages : Nat) : List Nat :=
  let q := s.part p
  let u := unitField q.r
  let prev := if q.snap.full then 0 else q.snap.prev
  let prevo := if prev = 0 then 2 ^ 21 - 1 else q.snap.prevOff.getD (2 ^ 21 - 1)
  [q.r.snapn.toNat * 2 ^ 48 + prev * 2 ^ 32 + s.modid.toNat * 2 ^ 16 + p.val,
   q.snap.corr.toNat * 2 ^ 32 + pages,
   q.snap.cutTs,
   u pl.sram * 2 ^ 42 + u pl.chan * 2 ^ 21 + u pl.world,
   chan,
   prevo * 2 ^ 21 + u pl.full]

/-- Little-endian bytes of words. -/
def wordBytes (l : List Nat) : List Byte := l.flatMap (fun v => natBytes v 8)

/-- The pages' images, full/empty tables and entries laid down in turn. -/
def writePages (r : PRegs) (p : PartId) (n : Nat) (pl : SnapPlan) : List PageImage → Nat → State → State
  | [], _, s => s
  | x :: l, i, s =>
    let k := caddyUnit r p (pl.pages + i)
    let full := fullBytes s x.key
    let h := pageHash (memBytes s.mem x.key (2 ^ 16)) full
    let bad := pagePoisoned s x.key
    let s := copyCells (collectRange s p k (k + 2 ^ 16)) x.key k (2 ^ 16)
    let fk := caddyUnit r p (pl.full + i / 64)
    let s := collectRange s p fk (fk + 2 ^ 16)
    let s := (s.writeMemBytes (fk + 1024 * (i % 64)) full).keepLines s (s.stuckLines (fk + 1024 * (i % 64)) 1024)
    let ent := wordBytes [x.page * 2 ^ 16 + (if bad then 1 else 0), n * 2 ^ 48 + unitField r (pl.pages + i)] ++ hashBytes h
    let s := s.writeMemBytes (layoutKey p + 128 + 48 * i) ent
    writePages r p n pl l (i + 1) s

/-! ## The writer (R389, R390) -/

/-- Pages still in state 1 go to another state, every frame is freed, and the images kept from the cut are dropped. -/
def endCapture (s : State) (p : PartId) (v : Nat) : State :=
  let q := s.part p
  let s := setSnaps s (q.snap.captured.filter (fun l => snapOf s l == 1)) v
  let s := (q.snap.captured.filter (fun l => l.steep)).foldl (fun s l => s.wipeRange (shadowKey p l.pa) (shadowKey p l.pa + l.bytes)) s
  releaseHeld (modSnap s p (fun x => { x with captured := [], staged := [], image := none })) p

/-- A written or failed notice leaves for the coordinator on SYS (R390). -/
def sendNotice (s : State) (p : PartId) (n : Nat) (ok : Bool) : State :=
  let x := (s.part p).snap
  if x.coordMod = s.modid then s.push (.snapshotNotice x.coordPart s.modid p n ok)
  else if linked (s.part p) x.coordMod x.coordPart then { s with portOut := s.portOut ++ [.notice x.coordMod x.coordPart n ok] }
  else s

/-- The objects of a snapshot written, the manifest last; the hash over world image, channel log and SRAM images (R390, R391). DESIGN CHOICE (log 58). -/
def writeObjects (s : State) (p : PartId) (x : SnapImage) (pl : SnapPlan) : State × BitVec 256 :=
  let r := (s.part p).r
  let n := r.snapn.toNat
  let a := layoutKey p
  let clear (s : State) : State := s.wipeRange a (a + 2 ^ 48)
  let chan := chanBytes (s.part p).snap.chanLog
  let pages := pageImages (s.part p) p
  let s := clear (placeObject (writeWorld s a x.world) r p a pl.world worldBytes)
  let s := clear (placeObject (s.writeMemBytes a chan) r p a pl.chan chan.length)
  let s := clear (placeObject (laySram s p a x) r p a pl.sram sramBytes)
  let s := writePages r p n pl pages 0 s
  let h := hash32 (objectBytes s r p pl.world worldBytes ++ chan ++ objectBytes s r p pl.sram sramBytes)
  let s := s.writeMemBytes a (wordBytes (headerWords s p pl chan.length pages.length))
  let s := s.writeMemBytes (a + 0x40) (hashBytes h)
  (clear (placeObject s r p a pl.manifest (128 + 48 * pages.length)), h)

/-- A snapshot that cannot be written fails (R390): port event 4, and a failed notice. -/
def failSnapshot (s : State) (p : PartId) : State :=
  let n := (s.part p).r.snapn.toNat
  sendNotice ((endCapture (setSnapState s p n 4) p 2).hostEvent p 4) p n false

/-- SNAPSHOT_WRITER: the snapshot's objects are written from WPTR on and its state becomes 3, or it fails (R390). DESIGN CHOICE (log 58). -/
def execSnapshotWriter (p : PartId) (s : State) : Out :=
  let q := s.part p
  let n := q.r.snapn.toNat
  match q.snap.image with
  | none => .next s
  | some x =>
    if snapState q n ≠ 2 || q.snap.phase != .idle then .next s
    else
      let start := caddyPtr q.r
      let pl := planOf start (chanBytes q.snap.chanLog).length (pageImages q p).length
      if caddyRoom q.r < pl.stop - start then .next (failSnapshot s p)
      else
        let w := writeObjects s p x pl
        let s := w.1.modRegs p (fun r => { r with caddyp := setField r.caddyp 0 21 (pl.stop % Nat.max 1 (caddyLen r)) })
        let s := if bit q.r.caddy 63 then s.modPart p (fun x => { x with
            caddyUnits := ((List.range (pl.stop - start)).map (fun i => caddyUnit q.r p (start + i) / 2 ^ 16)).foldl nput x.caddyUnits })
          else s
        let s := modSnap s p (fun y => { y with
          images := (n, w.2, q.keyGen, { x with log := y.chanLog }) :: y.images, prev := n, prevOff := some (unitField q.r pl.manifest) })
        .next (sendNotice (endCapture (setSnapState s p n 3) p 0) p n true)

/-- SNAPSHOT_NOTICE: a peer's report reaches the coordinator (R384, R390). -/
def execSnapshotNotice (p : PartId) (srcMod : BitVec 16) (src : PartId) (n : Nat) (ok : Bool) (s : State) : Out :=
  if !authentic s p srcMod src then .next s
  else .next (modSnap s p (fun x => { x with reported := x.reported ++ [(n, peerKey srcMod src, ok)] }))

/-! ## Writes of the part's other units (R389) -/

/-- What a unit's write meets: no valid translation, the wait at a captured page, or the cell ready for the write. -/
inductive UnitWrite where
  | bad (s : State)
  | held (s : State)
  | ok (key : Nat) (s : State)

/-- A unit that writes through the partition's translation reaches a cell, as the writer `w` (R389). -/
def unitWrite (s : State) (p : PartId) (a : Word) (w : Instr) : UnitWrite :=
  match unitKey s p a with
  | none => .bad (listTable s p a)
  | some k =>
    match atHome s p k (.step w) with
    | .error s => .held s
    | .ok s => .ok k s

/-! ## Restore and rollback entry (R392, R393) -/

/-- An entry of a manifest (R391). -/
structure ManEntry where
  page : Nat
  ver : Nat
  off : Nat
  hash : BitVec 256
  idx : Nat

structure Manifest where
  n : Nat
  prev : Nat
  npage : Nat
  sram : Nat
  chan : Nat
  world : Nat
  chanLen : Nat
  prevOff : Nat
  full : Nat
  hash : BitVec 256
  entries : List ManEntry

/-- Bytes of an object that begins at a unit, as a number. -/
def caddyRead (s : State) (r : PRegs) (p : PartId) (unit off n : Nat) : Nat :=
  (List.range n).foldr (fun i v => (memByte s.mem (caddyUnit r p (unit + (off + i) / 2 ^ 16) + (off + i) % 2 ^ 16)).toNat + 256 * v) 0

/-- A line of an object is poisoned. -/
def caddyPoisoned (s : State) (r : PRegs) (p : PartId) (unit n : Nat) : Bool :=
  (List.range ((n + 127) / 128)).any (fun i => s.linePoisoned (caddyUnit r p (unit + i / 512) + 128 * (i % 512)))

/-- An object with its length lies within the caddy. -/
def inCaddy (r : PRegs) (unit n : Nat) : Bool := decide (unit < caddyLen r) && decide (unitsOf n ≤ caddyLen r)

/-- An entry of the manifest at a unit. -/
def manEntry (s : State) (r : PRegs) (p : PartId) (unit i : Nat) : ManEntry :=
  let e := 128 + 48 * i
  let w0 := caddyRead s r p unit e 8
  let w1 := caddyRead s r p unit (e + 8) 8
  { page := w0 / 2 ^ 16 % 2 ^ 41, ver := w1 / 2 ^ 48, off := w1 % 2 ^ 21, hash := BitVec.ofNat 256 (caddyRead s r p unit (e + 16) 32),
    idx := i }

/-- The manifest at a unit, or none where it cannot be used by itself (R392). The reserved bits of its header and its entries (R391) have no
effect, whatever they hold: R392 names no check of them. DESIGN CHOICE (log 80). -/
def readManifest (s : State) (p : PartId) (unit : Nat) : Option Manifest :=
  let r := (s.part p).r
  let w (i : Nat) := caddyRead s r p unit (8 * i) 8
  let npage := w 1 % 2 ^ 32
  let size := 128 + 48 * npage
  let ok := decide (unit < caddyLen r) && !caddyPoisoned s r p unit 128 && w 0 / 2 ^ 48 != 0 &&
    w 0 / 2 ^ 16 % 2 ^ 16 == s.modid.toNat && w 0 % 16 == p.val && decide (npage ≤ 2 ^ 24) && inCaddy r unit size
  if !ok || caddyPoisoned s r p unit size then none
  else
    let m : Manifest :=
      { n := w 0 / 2 ^ 48, prev := w 0 / 2 ^ 32 % 2 ^ 16, npage := npage, sram := w 3 / 2 ^ 42 % 2 ^ 21, chan := w 3 / 2 ^ 21 % 2 ^ 21,
        world := w 3 % 2 ^ 21, chanLen := w 4, prevOff := w 5 / 2 ^ 21 % 2 ^ 21, full := w 5 % 2 ^ 21,
        hash := BitVec.ofNat 256 (caddyRead s r p unit 0x40 32), entries := (List.range npage).map (fun i => manEntry s r p unit i) }
    if inCaddy r m.world worldBytes && inCaddy r m.chan m.chanLen && inCaddy r m.sram sramBytes && inCaddy r m.full (1024 * npage) &&
        m.entries.all (fun e => inCaddy r e.off (2 ^ 16))
    then some m else none

/-- The chain of manifests from a unit back to a full capture; none where one of them cannot be used (R392). -/
def readChain (s : State) (p : PartId) : Nat → Nat → Option Nat → Option (List Manifest)
  | 0, _, _ => none
  | k + 1, unit, want =>
    match readManifest s p unit with
    | none => none
    | some m =>
      if want.any (fun n => n != m.n) then none
      else if m.prev = 0 then some [m]
      else if m.prevOff = 2 ^ 21 - 1 then none
      else (readChain s p k m.prevOff (some m.prev)).map (fun l => m :: l)

/-- The newest version of a page along the chain with VER at most that of the restored snapshot: its manifest's full/empty table, and
its entry. DEDUCED (log 61). -/
def newestVersion (chain : List Manifest) (n page : Nat) : Option (Nat × ManEntry) :=
  chain.findSome? (fun m => (m.entries.find? (fun e => e.page == page && decide (e.ver ≤ n))).map (fun e => (m.full, e)))

/-- SNAPRST.STATE set. -/
def setRestore (s : State) (p : PartId) (v : Nat) : State := s.modRegs p (fun r => { r with snaprst := setField r.snaprst 21 3 v })

/-- One page restored: its hash is checked, then data, full/empty bits and poison are written, but to lines that are poisoned already (R212), and its
leaf's SNAP becomes 0; none on a mismatch. DEDUCED (log 61). -/
def restorePage (s : State) (p : PartId) (l : Leaf) (fullOff : Nat) (e : ManEntry) : Option State :=
  let r := (s.part p).r
  let src := caddyUnit r p e.off
  let full := (List.range 1024).map (fun i => BitVec.ofNat 8 (caddyRead s r p fullOff (1024 * e.idx + i) 1))
  if pageHash (memBytes s.mem src (2 ^ 16)) full != e.hash then none
  else
    let dst := keyMain p (l.phys (e.page * 2 ^ 16))
    let stuck := s.stuckLines dst (2 ^ 16)
    let s := copyCells (collectRange s p dst (dst + 2 ^ 16)) src dst (2 ^ 16)
    let s := ((List.range 8192).filter (fun i => !nmem stuck ((dst + 8 * i) / 128))).foldl (fun s i => s.setFullBit (dst + 8 * i) ((full.getD (i / 8) 0).getLsbD (i % 8))) s
    some (setSnap s l 0)

/-- Pages restored in turn, up to a mismatch. DEDUCED (log 61). -/
def restorePages (p : PartId) (chain : List Manifest) (n : Nat) : List (Nat × Leaf) → State → Bool × State
  | [], s => (true, s)
  | (page, l) :: rest, s =>
    match newestVersion chain n page with
    | none => restorePages p chain n rest s
    | some (f, e) =>
      match restorePage s p l f e with
      | some s => restorePages p chain n rest s
      | none => (false, s)

/-- The pages that a restore rewrites: every page of the chain, or those whose leaf's SNAP is not 0 (R392). -/
def pagesToRestore (s : State) (p : PartId) (chain : List Manifest) (full : Bool) : List (Nat × Leaf) :=
  let all := (chain.flatMap (fun m => m.entries.map (fun e => e.page))).foldl nput []
  all.filterMap (fun page =>
    match walkPage s p ((BitVec.ofNat 57 (page * 2 ^ 16)).signExtend 64) with
    | .leaf l => if full || l.snap != 0 then some (page, l) else none
    | _ => none)

/-- Rollback entry of a thread (R393): ROLLED, and, where its context has one, the rollback entry. A thread that awaits a completion
commits its bundle there, and EPC is the address after it. DESIGN CHOICE (log 62). An entry that is not canonical becomes pc whole, and faults
at the fetch. DESIGN CHOICE (log 86). -/
def rolledThread (s : State) (p : PartId) (t : Thread) : Thread :=
  let e := ctxWord s p t.ctx 0x10
  let t := { t with status := t.status ||| 0x8000 }
  if e = 0 then t
  else
    match t.pend with
    | some q => { t with epc := t.pc + word q.size, pc := e, pend := some { q with commit := { q.commit with target := some e } } }
    | none => { t with epc := t.pc, pc := e }

/-- A message of the channel log as it is given to the partition again (R393): a request's reply goes to no thread, and a block counts as no
packet of its peer's. DESIGN CHOICE (log 62). -/
def replayed (s : State) (p : PartId) (i : Instr) : List Instr :=
  match i with
  | .remoteRequest q =>
    match q.op with
    | .beatRead _ _ => []
    | _ => [.remoteRequest { q with srcMod := s.modid, src := { q.src with part := p }, srcTid := 0 }]
  | .collContribution p' m => [.collContribution p' { m with again := true }]
  | i => [i]

/-- The world that a restore builds (R392, R393): its threads rolled back, the channel log before its own spilled messages. DESIGN CHOICE (log 62). -/
def rolledWorld (s : State) (p : PartId) (x : SnapImage) : World :=
  let w := x.world
  { w with
    out := true,
    cores := kmapVals (fun _ (k : CoreWorld) => { k with
      slots := kmapVals (fun _ y => mapSlot (rolledThread s p) y) k.slots, landing := k.landing.map (rolledThread s p) }) w.cores,
    spill := x.log.flatMap (replayed s p) ++ w.spill }

/-- The windows as a snapshot held them. -/
def loadSram (s : State) (p : PartId) (x : SnapImage) : State :=
  let s := s.wipeRange (spaceBase p 1) (spaceBase p 0 + 4 * 2 ^ 48)
  { s with
    mem := x.sram.foldl (fun m c => memSetByte m c.1 c.2) s.mem, fe := x.sramFe.foldl nput s.fe,
    poisonW := x.sramPoison.foldl nput s.poisonW }

/-- The image that a manifest's world image, channel log and SRAM images hold, under the key that reads them (R402). -/
def imageNamed (q : Partition) (m : Manifest) : SnapImage :=
  ((q.snap.images.find? (fun e => e.1 == m.n && e.2.1 == m.hash && e.2.2.1 == q.keyGen)).map (fun e => e.2.2.2)).getD
    { world := emptyWorld, log := [], sram := [], sramFe := [], sramPoison := [] }

/-- The restored world stands at WSNEXT, SNAPN is the snapshot's number, and the table of states holds it alone (R392, R423). -/
def finishRestore (s : State) (p : PartId) (m : Manifest) (unit : Nat) : State :=
  let x := imageNamed (s.part p) m
  let w := rolledWorld s p x
  let s := loadSram s p x
  let base := areaBase (s.part p).r.wsnext
  let s := (writeArea s p base w).modPart p (fun q => { q with worlds := kput q.worlds base (savedWorld w) })
  let s := s.modRegs p (fun r => { r with wsnext := r.wsnext ||| 1, snapn := BitVec.ofNat 16 m.n })
  setRestore (modSnap s p (fun y => { y with
    table := [{ n := m.n, state := 3 }], reported := [], prev := m.n, prevOff := some unit })) p 2

/-- A thread lives in the partition (R392). -/
def inhabited (s : State) (p : PartId) : Bool :=
  (s.part p).coreIds.any (fun c =>
    let w := (s.core p c).w
    !w.landing.isEmpty || w.slots.any (fun e => match e.2 with
      | .scrub _ | .freed => false
      | .thread _ | .reserved _ => true))

/-- A write of SNAPRST (R382, R392): FULL and MOFF, and a restore where GO is 1. DEDUCED (log 63). -/
def writeSnaprst (s : State) (p : PartId) (v : Word) : State :=
  let s := s.modRegs p (fun r => { r with snaprst := setField (setField r.snaprst 62 1 (field v 62 1)) 0 21 (field v 0 21) })
  if !bit v 63 then s
  else if inhabited s p then setRestore s p 5
  else (setRestore s p 1).push (.restoreComplete p)

/-- SNAPRST_GO (R392). DEDUCED (log 63). -/
def execSnaprstGo (p : PartId) (v : Word) (s : State) : Out := .next (writeSnaprst s p (v ||| 0x8000000000000000))

/-- RESTORE_COMPLETE: manifests, hashes and pages are read and written, and the world is built (R392, R393). -/
def execRestoreComplete (p : PartId) (s : State) : Out :=
  let r := (s.part p).r
  let unit := field r.snaprst 0 21
  if field r.snaprst 21 3 ≠ 1 then .next s
  else
    match readChain s p 65536 unit none with
    | none | some [] => .next (setRestore s p 4)
    | some (m :: l) =>
      let img := objectBytes s r p m.world worldBytes ++ objectBytes s r p m.chan m.chanLen ++ objectBytes s r p m.sram sramBytes
      if hash32 img != m.hash then .next (setRestore s p 3)
      else
        let x := restorePages p (m :: l) m.n (pagesToRestore s p (m :: l) (bit r.snaprst 62)) s
        .next (if x.1 then finishRestore x.2 p m unit else setRestore x.2 p 3)

end Sys2Proof.Machine
end

