-- ==== Sys2Proof/Machine/System.lean ====
section
/-! DEFINITION. The system words: TRAP, ERET, PARK, GSW, MFS and MTS (22 R343 to R351, R355), with every system register's value and the
effect of a write (22 R344 to R347, and the maps that they name). -/
namespace Sys2Proof.Machine

/-! ## Access to the registers (R344, R345, R406) -/

/-- Who may use MFS or MTS on a register. -/
inductive RegAccess where
  | any | priv | none
deriving DecidableEq, Repr

/-- The Reads column (R344, R369, R379, R382, R406). -/
def regReads : SysReg → RegAccess
  | .status | .tid | .core | .clus | .part | .modid | .ctx | .corr | .tstamp | .epc | .ecause | .eaddr | .rxq | .accst _ | .snapn
  | .rbent | .loght | .logseq | .logvio | .perfctl | .lnkctl | .lnkbase | .vfsel | .shcnt _ | .pcnt _ | .psel | .trcctl | .trcbase
  | .trcptr | .trctrg | .trcpc | .trctime => .any
  | .cpyst | .tbind | .loglim | .strctl | .sysh | .engctl | .accrcl | .lwbase | .dspctl | .agei | .migth | .ptroot _ | .dombase
  | .rtbase | .ptclr | .memctl | .errinj | .slim _ | .steepq | .steepctl | .ctxbase | .tqbase | .tqhead | .tqtail | .fatalovf | .wake
  | .gswt | .wscur | .wsnext | .relctl | .xport | .collctl | .snapctl | .snapdom | .caddy | .caddyp | .snapstg | .snaprst => .priv

/-- The Writes column (R344, R369, R379, R382, R406). -/
def regWrites : SysReg → RegAccess
  | .status | .epc | .eaddr | .accst _ => .any
  | .tid | .core | .clus | .part | .modid | .ctx | .tstamp | .ecause | .snapn | .rbent | .logseq | .tqtail | .gswt | .vfsel
  | .shcnt _ => .none
  | .corr | .rxq | .cpyst | .tbind | .loglim | .loght | .logvio | .strctl | .sysh | .engctl | .accrcl | .lwbase | .dspctl | .agei
  | .migth | .ptroot _ | .dombase | .rtbase | .ptclr | .memctl | .errinj | .slim _ | .steepq | .steepctl | .ctxbase | .tqbase
  | .tqhead | .fatalovf | .wake | .wscur | .wsnext | .relctl | .xport | .collctl | .snapctl | .snapdom | .caddy | .caddyp | .snapstg
  | .snaprst | .perfctl | .lnkctl | .lnkbase | .pcnt _ | .psel | .trcctl | .trcbase | .trcptr | .trctrg | .trcpc | .trctime => .priv

/-- Where a register's instances stand (R344, R406). -/
inductive RegHome where
  | thread | core | cluster | partition | module
deriving DecidableEq, Repr

def regHome : SysReg → RegHome
  | .status | .tid | .core | .clus | .part | .modid | .ctx | .corr | .epc | .ecause | .eaddr => .thread
  | .tstamp => .module
  | .rxq | .accst _ | .cpyst | .tbind | .loglim | .loght | .logseq | .logvio | .strctl | .sysh | .pcnt _ | .psel | .trcctl | .trcbase
  | .trcptr | .trctrg | .trcpc | .trctime => .core
  | .engctl | .accrcl => .cluster
  | .snapn | .rbent | .lwbase | .dspctl | .agei | .migth | .ptroot _ | .dombase | .rtbase | .ptclr | .memctl | .errinj | .slim _
  | .steepq | .steepctl | .ctxbase | .tqbase | .tqhead | .tqtail | .fatalovf | .wake | .gswt | .wscur | .wsnext | .relctl | .xport
  | .collctl | .snapctl | .snapdom | .caddy | .caddyp | .snapstg | .snaprst | .perfctl | .lnkctl | .lnkbase | .vfsel | .shcnt _ => .partition

/-- The owner of the register replies after about 30 cycles (R345): it stands outside the thread's core. DEDUCED (log 68). -/
def regRemote (r : SysReg) : Bool := regHome r == .cluster || regHome r == .partition

/-! ## Values (R346 and the maps) -/

/-- ACCSTi of an accumulator slot (R283). -/
def accstWord (a : AccSlot) : Word :=
  let state := if a.poisoned then 3 else if a.orphaned then 2 else if a.pend ≠ 0 then 1 else 0
  word (a.tid % 2 ^ 20 * 2 ^ 32 + state * 2 ^ 22 + (if a.tagged then 2 ^ 21 else 0) + a.pend % 32 * 2 ^ 16 + (if a.malf then 128 else 0) +
    (if a.disc then 64 else 0) + a.chk % 4 * 16 + (if a.mism then 2 else 0) + (if a.unch then 1 else 0))

/-- The accumulator slot that ACCSTi of a core names (R278). -/
def accstSlot (c : CoreId) (i : Fin 2) : Nat := 2 * (c.val % 8) + i.val

/-- CLUS of a core: its cluster, or on a bank core BANK and its slice (R346). -/
def clusWord (c : CoreId) : Word := if c.val < 256 then word (c.val / 8) else word (32 + (c.val - 256))

/-- PART: the die and the partition (R346). -/
def partWord (p : PartId) : Word := word (p.val / 4 * 16 + p.val)

/-- A register that belongs to the thread (R346, R309). -/
def threadReg (s : State) (r : TRef) (t : Thread) : SysReg → Word
  | .status => t.status
  | .tid => word t.shownTid
  | .core => word r.core.val
  | .clus => clusWord r.core
  | .part => partWord r.part
  | .modid => s.modid.setWidth 64
  | .ctx => t.ctx.setWidth 64
  | .corr => t.corr.setWidth 64
  | .epc => t.epc
  | .ecause => t.ecause
  | .eaddr => t.eaddr
  | .rbent => ctxWord s r.part t.ctx 0x10
  | _ => 0

/-- RXQ as read (R155). -/
def rxqWord (w : CoreWorld) : Word := word (w.rxTail.toNat * 2 ^ 16 + w.rxHead.toNat)

/-- The value of a register that belongs to no thread. Write-only registers read as zero (R5). -/
def ownReg (s : State) (p : PartId) (c : CoreId) (reg : SysReg) : Word :=
  let q := s.part p
  let w := (s.core p c).w
  let k := (s.core p c).c
  match reg with
  | .tstamp => word s.tstamp
  | .rxq => rxqWord w
  | .accst i => match clusterOf c with
    | some cl => accstWord (s.acc p cl (accstSlot c i))
    | none => 0
  | .cpyst => if c.val < 256 then w.cpyst else 0
  | .tbind => w.tbind
  | .loglim => w.loglim
  | .loght => w.loght
  | .logseq => w.logseq.setWidth 64
  | .strctl => k.strctl
  | .sysh => k.sysh
  | .pcnt i => w.pcnt[i]
  | .psel => w.psel
  | .trcctl => w.trcctl
  | .trcbase => k.trcbase
  | .trcptr => w.trcptr
  | .trctrg => w.trctrg
  | .trcpc => k.trcpc
  | .trctime => k.trctime
  | .engctl => match clusterOf c with
    | some cl => (s.cluster p cl).engctl
    | none => 0
  | .snapn => q.r.snapn.setWidth 64
  | .lwbase => q.r.lwbase
  | .dspctl => q.r.dspctl
  | .agei => q.r.agei
  | .migth => q.r.migth
  | .ptroot i => q.r.ptroot[i]
  | .dombase => q.r.dombase
  | .rtbase => q.r.rtbase
  | .memctl => q.r.memctl
  | .errinj => q.r.errinj
  | .slim i => q.r.slim[i]
  | .steepq => q.r.steepq
  | .steepctl => q.r.steepctl
  | .ctxbase => q.r.ctxbase
  | .tqbase => q.r.tqbase
  | .tqhead => word q.trap.head
  | .tqtail => tqtailWord q
  | .fatalovf => fatalovfWord q
  | .gswt => q.r.gswt
  | .wscur => q.r.wscur
  | .wsnext => q.r.wsnext
  | .relctl => q.r.relctl
  | .xport => q.r.xport
  | .collctl => q.r.collctl
  | .snapctl => q.r.snapctl
  | .snapdom => q.r.snapdom
  | .caddy => q.r.caddy
  | .caddyp => q.r.caddyp
  | .snapstg => q.r.snapstg
  | .snaprst => q.r.snaprst
  | .perfctl => q.r.perfctl
  | .lnkctl => q.r.lnkctl
  | .lnkbase => q.r.lnkbase
  | .vfsel => q.r.vfsel
  | .shcnt i => q.r.shcnt[i]
  | .logvio | .accrcl | .ptclr | .wake => 0
  | .status | .tid | .core | .clus | .part | .modid | .ctx | .corr | .epc | .ecause | .eaddr | .rbent => 0

/-- SHCNT1 to SHCNT3 have counted on by the reading (R415): bank waits, flits and stalls are timing, so the amount is free. DESIGN CHOICE (log 12). -/
def countShared (s : State) (p : PartId) (reg : SysReg) : State :=
  match reg with
  | .shcnt i =>
    if i = 0 then s else
    { s.modRegs p (fun r => { r with shcnt := r.shcnt.set i (setField (r.shcnt[i] + Config.sharedCount s.free) 48 16 0) }) with
      free := s.free + 1 }
  | _ => s

/-- The value that MFS reads (R345). -/
def readReg (s : State) (r : TRef) (t : Thread) (reg : SysReg) : Word :=
  if regHome reg == .thread || reg == .rbent then threadReg s r t reg else ownReg s r.part r.core reg

/-- MFS (R345, R347, R433). -/
def execMfs (d : Reg) (reg : SysReg) (s : State) : Out :=
  runWord [] (fun r t s =>
    if regReads reg == .priv && !t.priv then .trap .privilege (some (word reg.num)) s
    else if regHome reg == .cluster && (clusterOf r.core).isNone then .trap .target none s
    else
      let s := countShared s r.part reg
      .done { Commit.reg d (readReg s r t reg) with lat := if regRemote reg then 30 else 0 } s) s

/-! ## Writes (R345, R5) -/

/-- A value written into the RW fields of a mask. -/
def fields (old v mask : Word) : Word := (old &&& ~~~mask) ||| (v &&& mask)

/-- The presets of PERFCTL: E3, E2, E1, E0 as PSEL holds them (R407). -/
def presetEvents (n : Nat) : Word :=
  match n with
  | 1 => 0x09040302
  | 2 => 0x0A070605
  | 3 => 0x030D0C0B
  | 4 => 0x11100F0E
  | _ => 0

/-- A core's counters at a preset: SMASK all ones, every PCNT zero (R407). -/
def presetCore (n : Nat) (w : CoreWorld) : CoreWorld :=
  { w with psel := 0xFFFF000000000000 ||| presetEvents n, pcnt := Vector.replicate 4 0 }

/-- PERFCTL written (R407): nothing counts any more in this cycle, so that every counter is zero when the next begins (R355, R421). -/
def writePerfctl (s : State) (p : PartId) (v : Word) : State :=
  let n := field v 0 3
  (s.mtsSet p 0 .perfctl (s.part p).r.perfctl).modPart p (fun q => { q with
    r := { q.r with perfctl := v &&& 0xF },
    cores := kmapVals (fun _ (k : Core) => { k with w := presetCore n k.w }) q.cores,
    idleCore := { q.idleCore with w := presetCore n q.idleCore.w } })

/-- LNKCTL written: the boundaries are counted from the write that sets EN (R408, R409). -/
def writeLnkctl (s : State) (p : PartId) (v : Word) : State :=
  let starts := bit v 63 && !bit (s.part p).r.lnkctl 63
  let s := s.modRegs p (fun r => { r with lnkctl := fields r.lnkctl v 0xFFC0000000000000 })
  if starts then s.modPart p (fun q => { q with gridFrom := s.cycle }) else s

/-- STEEPCTL written: EN written 0 revokes every share (R230). -/
def writeSteepctl (s : State) (p : PartId) (v : Word) : State :=
  let s := s.modRegs p (fun r => { r with steepctl := fields r.steepctl v 3 })
  if bit v 0 then s else s.revokeEvery p

/-- SNAPCTL written: EN written 1 over 0 sets FULLN (R382). -/
def writeSnapctl (s : State) (p : PartId) (v : Word) : State :=
  s.modRegs p (fun r =>
    let x := fields r.snapctl v 0xC00000000FFF0000
    { r with snapctl := if bit v 63 && !bit r.snapctl 63 then x ||| 1 else x })

/-- RELCTL written: PRST resets the partition (R341). -/
def writeRelctl (s : State) (p : PartId) (v : Word) : State :=
  let s := s.modRegs p (fun r => { r with relctl := fields r.relctl v 0xFFFFFFFF })
  if bit v 63 then startReset s p else s

/-- FATALOVF written: OVF is cleared by a one (R315, R355). -/
def writeFatalovf (s : State) (p : PartId) (v : Word) : State :=
  modTrap s p (fun t => { t with ovf := bit (s.clearOnes p 0 .fatalovf (if t.ovf then 0x8000000000000000 else 0) v) 63 })

/-- ERRINJ written (R215); an injection that fires later in the cycle leaves what is written (R355). -/
def writeErrinj (s : State) (p : PartId) (v : Word) : State :=
  (s.mtsSet p 0 .errinj (s.part p).r.errinj).modRegs p (fun r => { r with errinj := fields r.errinj v 0x8000000001FFFFE0 })

/-- A write of a register leaves the configuration frozen at the LOCK as it is (R399, R400): LWBASE, and the caddy's MODE, base and length. DEDUCED (log 65). -/
def keepsFrozen (f : Frozen) (r : PRegs) : SysReg → Bool
  | .lwbase => f.lwbase == r.lwbase
  | .caddy => f.caddyMode == bit r.caddy 63 && f.caddyBase == field r.caddy 16 32
  | .caddyp => f.caddyLen == caddyLen r
  | _ => true

/-- A write that changes the frozen configuration of a locked interface brings it into ERROR (R399). DEDUCED (log 65). -/
def frozenCheck (s : State) (p : PartId) (reg : SysReg) : State :=
  let q := s.part p
  if (q.tdisp == .locked || q.tdisp == .run) && q.frozen.any (fun f => !keepsFrozen f q.r reg) then
    s.modPart p (fun q => { q with unfrozen := true })
  else s

/-- A register of the partition written (R145, R215, R230, R313, R315, R341, R346, R369, R379, R382, R407, R408). -/
def writePartReg (s : State) (p : PartId) (reg : SysReg) (v : Word) : State :=
  match reg with
  | .lwbase => frozenCheck (s.modRegs p (fun r => { r with lwbase := fields r.lwbase v 0x0000FFFFFFF00000 })) p .lwbase
  | .dspctl => s.modRegs p (fun r => { r with dspctl := fields r.dspctl v 3 })
  | .agei => s.modRegs p (fun r => { r with agei := fields r.agei v 0xFFFFFFFF })
  | .migth => s.modRegs p (fun r => { r with migth := fields r.migth v 0xFF })
  | .ptroot i => s.modRegs p (fun r => { r with ptroot := r.ptroot.set i (fields r.ptroot[i] v 0x0000FFFFFFFF0001) })
  | .dombase => s.modRegs p (fun r => { r with dombase := fields r.dombase v 0x0000FFFFFFFF0000 })
  | .rtbase => s.modRegs p (fun r => { r with rtbase := fields r.rtbase v 0x0000FFFFFFFF0000 })
  | .ptclr => ptclr s p (field v 16 32)
  | .memctl => s.modRegs p (fun r => { r with memctl := fields r.memctl v 0xF1 })
  | .errinj => writeErrinj s p v
  | .slim i => s.modRegs p (fun r => { r with slim := r.slim.set i (fields r.slim[i] v 0x7FFFFFFF) })
  | .steepq => s.modRegs p (fun r => { r with steepq := fields r.steepq v 0x7FFFFFFF })
  | .steepctl => writeSteepctl s p v
  | .ctxbase => s.modRegs p (fun r => { r with ctxbase := fields r.ctxbase v 0x0000FFFFFFFFC000 })
  | .tqbase => writeTqbase s p v
  | .tqhead => writeTqhead s p v
  | .fatalovf => writeFatalovf s p v
  | .wake => writeWake s p v
  | .wscur => s.modRegs p (fun r => { r with wscur := fields r.wscur v 0x0000FFFFFFFF0001 })
  | .wsnext => s.modRegs p (fun r => { r with wsnext := fields r.wsnext v 0x0000FFFFFFFF0001 })
  | .relctl => writeRelctl s p v
  | .xport => s.modRegs p (fun r => { r with xport := fields r.xport v 0x81FFFFFF000000FF })
  | .collctl => s.modRegs p (fun r => { r with collctl := fields r.collctl v 0x1FFFFFFFF })
  | .snapctl => writeSnapctl s p v
  | .snapdom => s.modRegs p (fun r => { r with snapdom := fields r.snapdom v 0x0000FFFFFFFFFFF8 })
  | .caddy => frozenCheck (s.modRegs p (fun r => { r with caddy := fields r.caddy v 0x8000FFFFFFFF0000 })) p .caddy
  | .caddyp => frozenCheck (s.modRegs p (fun r => { r with caddyp := fields r.caddyp v 0x7FFFFFFFFFFFFFFF })) p .caddyp
  | .snapstg => s.modRegs p (fun r => { r with snapstg := fields r.snapstg v 0x0000FFFFFFFFFFFF })
  | .snaprst => writeSnaprst s p v
  | .perfctl => writePerfctl s p v
  | .lnkctl => writeLnkctl s p v
  | .lnkbase => s.modRegs p (fun r => { r with
      lnkbase := (v &&& 0x01FFFFFFFFFFC000) ||| s.clearOnes p 0 .lnkbase (r.lnkbase &&& 1) v })
  | .status | .tid | .core | .clus | .part | .modid | .ctx | .corr | .tstamp | .epc | .ecause | .eaddr | .rxq | .accst _ | .cpyst
  | .snapn | .rbent | .tbind | .loglim | .loght | .logseq | .logvio | .strctl | .sysh | .engctl | .accrcl | .tqtail | .gswt | .vfsel
  | .shcnt _ | .pcnt _ | .psel | .trcctl | .trcbase | .trcptr | .trctrg | .trcpc | .trctime => s

/-- TRCCTL written (R416, R417): `full` is what stays of FULL; EN written 0 ends tracing. -/
def trcctlWrite (old v full : Word) : Word :=
  let x := (fields old v 0xCF000000FFFF00FF &&& ~~~(0x2000000000000000 : Word)) ||| full
  if bit v 63 then x else x &&& ~~~(0x1000000000000000 : Word)

/-- A counter written: COUNT is set, OVF cleared by a one (R411, R355). -/
def writePcnt (s : State) (p : PartId) (c : CoreId) (i : Fin 4) (v : Word) : State :=
  let old := (s.core p c).w.pcnt[i]
  let new := (v &&& 0x0000FFFFFFFFFFFF) ||| s.clearOnes p c (.pcnt i) (old &&& 0x8000000000000000) v
  (s.mtsSet p c (.pcnt i) ((s.mtsWas p c (.pcnt i)).getD old)).modCoreW p c (fun w => { w with pcnt := w.pcnt.set i new })

/-- ACCSTi written: its sticky bits are cleared by ones, `v` holding those that act (R283, R355). -/
def accstWrite (v : Word) (a : AccSlot) : AccSlot := { a with mism := a.mism && !bit v 1, unch := a.unch && !bit v 0 }

/-- A register of a core or its cluster written, TBIND's binding apart (R155, R283, R327, R329, R333, R346, R411, R416). The bits of an RW field
that a map calls ignored: TRCPTR's 3:0 are dropped and read as 0, SYSH's 1:0 are kept and read back. DESIGN CHOICE (log 84). -/
def writeCoreReg (s : State) (p : PartId) (c : CoreId) (reg : SysReg) (v : Word) : State :=
  match reg with
  | .rxq =>
    let s := (s.mtsSet p c .rxq (rxqWord (s.core p c).w)).modCoreW p c (fun w => { w with rxHead := BitVec.ofNat 9 (field v 0 9) })
    if (s.core p c).w.rxBuf.isEmpty then s else s.push (.ringBufferDrain p c)
  | .accst i => match clusterOf c with
    | some cl => s.modAcc p cl (accstSlot c i) (accstWrite (v &&& ~~~s.hwBits p c (.accst i)))
    | none => s
  | .cpyst =>
    if c.val < 256 then s.modCoreW p c (fun w => { w with
      cpyst := setField w.cpyst 63 1 (field (s.clearOnes p c .cpyst w.cpyst v) 63 1) }) else s
  | .loglim => s.modCoreW p c (fun w => { w with loglim := fields w.loglim v 0x7FFFFF })
  | .loght => s.modCoreW p c (fun w => { w with loght := fields w.loght v 0x01FFFFFFFFFFFF80 })
  | .logvio => writeLogvio s p c v
  | .strctl => s.modCoreC p c (fun k => { k with strctl := fields k.strctl v 3 })
  | .sysh => s.modCoreC p c (fun k => { k with sysh := v })
  | .pcnt i => writePcnt s p c i v
  | .psel => s.modCoreW p c (fun w => { w with psel := fields w.psel v 0xFFFF0000FFFFFFFF })
  | .trcctl => s.modCoreW p c (fun w => { w with
      trcctl := trcctlWrite w.trcctl v (s.clearOnes p c .trcctl (w.trcctl &&& 0x2000000000000000) v) })
  | .trcbase => s.modCoreC p c (fun k => { k with trcbase := fields k.trcbase v 0x01FFFFFFFFFFF000 })
  | .trcptr => (s.mtsSet p c .trcptr (s.core p c).w.trcptr).modCoreW p c (fun w => { w with
      trcptr := fields w.trcptr v 0xFFFFF0, trcStopped := false })
  | .trctrg => s.modCoreW p c (fun w => { w with trctrg := fields w.trctrg v 0x3FFFFFF })
  | .trcpc => s.modCoreC p c (fun k => { k with trcpc := v })
  | .trctime => s.modCoreC p c (fun k => { k with trctime := v })
  | .engctl => match clusterOf c with
    | some cl => s.setCluster p cl { s.cluster p cl with engctl := fields (s.cluster p cl).engctl v 0xF1F01 }
    | none => s
  | .accrcl => match clusterOf c with
    | some cl => reclaimSlots s p cl (field v 0 16)
    | none => s
  | reg => writePartReg s p reg v

/-- A register of the thread written (R12, R309, R346); STATUS is written by the commit. -/
def writeThreadReg (s : State) (r : TRef) (reg : SysReg) (v : Word) : State :=
  match reg with
  | .corr => s.modThread r (fun t => { t with corr := v.setWidth 32 })
  | .epc => s.modThread r (fun t => { t with epc := v })
  | .eaddr => s.modThread r (fun t => { t with eaddr := v })
  | _ => s

/-- The running bundle's commit made now, for a word that acts after it. -/
def commitNow (s : State) (c : Commit) : State :=
  commitAt s s.cur.at_ s.cur.size s.cur.words (match s.cur.phase with
    | .held => Commit.merge c s.cur.hold
    | .first | .second => c)

/-- MTS TBIND (R328): with EN = 1 the cores are bound once the bundle has committed; with EN = 0 on a bound core it waits until the log
is acknowledged, and unbinds. -/
def writeTbind (r : TRef) (v : Word) (clears : List Reg) (s : State) : Res :=
  if bit v 63 then atCommit s (fun _ => .ended (bindTaster (commitNow s { Commit.none with clears := clears }) r.part r.core v))
  else if s.watched r.part r.core && (!logDrained s r.part r.core || decide (s.cycle < holdUntil s s.cur)) then .wait .unbind s
  else atCommit s (fun _ => .done Commit.none (unbindTaster s r.part r.core v))

/-- MTS (R345, R347, R433): a register of the thread or its core takes the value at the commit, one that another unit owns where the owner
performs the write. DEDUCED (log 31). -/
def execMts (reg : SysReg) (a : Src) (s : State) : Out :=
  runWord [a] (fun r t s =>
    let v := t.rd a
    if regWrites reg == .none || (regWrites reg == .priv && !t.priv) then .trap .privilege (some (word reg.num)) s
    else if regHome reg == .cluster && (clusterOf r.core).isNone then .trap .target none s
    else if reg == .status then atCommit s (fun _ => .done { Commit.none with status := some (statusWrite t.status v) } s)
    else if reg == .tbind then writeTbind r v (syncRegs [a]) s
    else if regHome reg == .thread then atCommit s (fun _ => .done Commit.none (writeThreadReg s r reg v))
    else if regRemote reg then fenced s r t .part (fun _ => .done { Commit.none with lat := 30 } (writeCoreReg s r.part r.core reg v))
    else atCommit s (fun _ => .done Commit.none (writeCoreReg s r.part r.core reg v))) s

/-! ## TRAP and ERET (R348, R349) -/

/-- TRAP (R348): containment, then handler entry. -/
def execTrap (n : BitVec 10) (s : State) : Out :=
  runWord [] (fun r t s =>
    match passPoint s r t 2 with
    | .error x => x
    | .ok s => .trap (.trap n) (some t.pc) s) s

/-- ERET (R349): the handler is left, and the deliveries kept meanwhile are applied. -/
def execEret (s : State) : Out :=
  runWord [] (fun r t s =>
    if !t.active then .trap .privilege none s
    else atCommit s (fun _ =>
      let s := returnTrap (commitNow s { Commit.none with target := some t.epc, log := [.mark 8 none] }) r
      let mine := (s.core r.part r.core).w.inbox.filter (fun m => m.tid == t.tid)
      let s := s.modCoreW r.part r.core (fun w => { w with inbox := w.inbox.filter (fun m => m.tid != t.tid) })
      .ended (mine.foldl (fun s m => applyDelivery s r m) s))) s

/-! ## PARK and GSW (R350, R351) -/

/-- A thread of the running world marked as parked, in this cycle (R350, R355). -/
def parkThread (s : State) (p : PartId) (tid : Nat) : State :=
  s.modThreads p (fun t => if t.tid = tid then { t with parked := true, parkedIn := some s.cycle } else t)

/-- PARK (R350). DEDUCED (log 68). -/
def execPark (a : Src) (s : State) : Out :=
  runWord [a] (fun r t s =>
    if !t.priv then .trap .privilege none s
    else .done { Commit.none with lat := 30 } (parkThread s r.part (field (t.rd a) 0 20))) s

/-- The time that GSW arms (R351). -/
def gswTime (x : Word) (now : Nat) : Word := if x = 0 then 0 else if x.toNat ≤ now then word (now + 1) else x

/-- GSW (R351). DEDUCED (log 68). -/
def execGsw (a : Src) (s : State) : Out :=
  runWord [a] (fun r t s =>
    if !t.priv then .trap .privilege none s
    else .done { Commit.none with lat := 30 } (s.modRegs r.part (fun x => { x with gswt := gswTime (t.rd a) s.tstamp }))) s

/-! ## The same effects as steps of their own -/

/-- PERFCTL_PRESET: a write of PERFCTL (R407). -/
def execPerfctlPreset (p : PartId) (v : Word) (s : State) : Out := .next (writePerfctl s p v)

end Sys2Proof.Machine
end

