-- ==== Sys2Proof/Machine/HostPort.lean ====
section
/-! DEFINITION. What the host reaches: memory through the port (27 R396, R397), SPDM and TDISP (R398 to R401), life-cycle wipes (R403), link keys
(R404), and the Idran controller's register accesses (08 R145, 30 R427). -/
namespace Sys2Proof.Machine

/-! ## Host accesses through a port (R396) -/

/-- The port accepts the host's accesses: the partition is in RUN, in service and not resetting (R340, R396, R430). -/
def portOpen (q : Partition) : Bool := q.tdisp == .run && !shut q

/-- A piece of a host access that lies in one sector: its cell, its length, and the leaf and address of a page of the exported span. -/
structure HostPiece where
  key : Nat
  n : Nat
  leaf : Option (Leaf × Nat)

/-- Offsets and lengths of a range cut at multiples of 64. -/
def sectorPieces (off n : Nat) : List (Nat × Nat) :=
  if n = 0 then []
  else
    (List.range ((off % 64 + n + 63) / 64)).map (fun i =>
      if i = 0 then (off, Nat.min n (64 - off % 64)) else ((off / 64 + i) * 64, Nat.min 64 (off % 64 + n - 64 * i)))

/-- A piece of the exported span, translated and checked as a remote access (R368). -/
def exportPiece (s : State) (p : PartId) (need : BitVec 4) (x : Nat × Nat) : Option HostPiece :=
  (remoteLeaf s p x.1 need).map (fun l =>
    let va := va57 (xportAddr (s.part p) x.1)
    { key := keyMain p (l.phys va), n := x.2, leaf := some (l, va) })

/-- A translation of a piece of the exported span that meets a poisoned table page lists it (R205). -/
def exportListed (s : State) (p : PartId) (t : BitVec 64) (n : Nat) (need : BitVec 4) : State :=
  if t.toNat / 2 ^ 32 = 0x10000000 ∧ remoteOpen (s.part p) then
    match (sectorPieces (t.toNat % 2 ^ 32) n).find? (fun x => (exportPiece s p need x).isNone) with
    | some x => remoteWalked s p x.1
    | none => s
  else s

/-- The pieces of an access at a target offset, or none where its conditions fail (R396). -/
def hostPieces (s : State) (p : PartId) (t : BitVec 64) (n : Nat) (need : BitVec 4) : Option (List HostPiece) :=
  let off := t.toNat % 2 ^ 32
  if t.toNat + n ≤ 2 ^ 20 ∧ t.toNat < 2 ^ 20 then
    some ((sectorPieces t.toNat n).map (fun x =>
      { key := keyMain p (field (s.part p).r.lwbase 20 28 * 2 ^ 20 + x.1), n := x.2, leaf := none }))
  else if t.toNat / 2 ^ 32 = 0x10000000 ∧ off + n ≤ 2 ^ 32 ∧ remoteOpen (s.part p) then
    (sectorPieces off n).foldr (fun x acc => match acc, exportPiece s p need x with
      | some l, some y => some (y :: l)
      | _, _ => none) (some [])
  else none

/-- The endpoint takes a sector of a line (R208): copies lose that sector, which a dirty one supplies first, and keep the other. DEDUCED (log 66). -/
def endpointTakes (s : State) (p : PartId) (line : Nat) (sec : Fin 2) : State :=
  let b := sectorBit sec
  let s := (s.revokeAll p line).dirtySlice p line
  let s := (s.copies p line).foldl (fun s c =>
    let s := s.modL1 p c line (fun x => { x with dirty := x.dirty &&& ~~~b, old := mergeSectors x.old 0 b, valid := x.valid &&& ~~~b })
    match s.l1 p c line with
    | some x => if x.valid = 0 then s.loseCopy p c line else s
    | none => s) s
  s.modSl p line (fun l => { l with endpoint := l.endpoint ||| b, stamp := none })

/-- A write of a piece waits at its page (R389): the state with the access `w` in the page's order. -/
def pieceHeld (s : State) (p : PartId) (w : PageWriter) (x : HostPiece) : Option State :=
  match x.leaf with
  | some (l, _) => pageWait s p l w
  | none => heldPage s p x.key w

/-- The access `w` goes on at a piece's page. -/
def piecePassed (s : State) (p : PartId) (w : PageWriter) (x : HostPiece) : State :=
  match x.leaf with
  | some (l, _) => pageWritten (pagePassed s p l.page w) p l
  | none => dirtyFrame (heldPassed s p x.key w) p x.key

/-- The home is ready for the endpoint's write of a piece, or the write waits for a way. DEDUCED (log 66). -/
def reachPiece (s : State) (p : PartId) (x : HostPiece) : Except State State :=
  let sec := sectorOf x.key
  match x.leaf with
  | some (l, va) =>
    match homeLookup s p (va / 128) l.dom with
    | .ok _ s => .ok (endpointTakes s p (va / 128) sec)
    | .stale s => .ok s
    | .fault x s => .ok (listWalk s p (lineAddr (va / 128)) x)
    | .full s => .error s
  | none => .ok (match lineAt s p x.key with
    | some l => endpointTakes s p l.line sec
    | none => s)

/-- The homes are ready for every piece, or the access waits. -/
def reachPieces (p : PartId) : List HostPiece → State → Except State State
  | [], s => .ok s
  | x :: l, s =>
    match reachPiece s p x with
    | .ok s => reachPieces p l s
    | .error s => .error s

/-- The cells of the words that a piece covers whole. -/
def wholeWords (x : HostPiece) : List Nat :=
  ((List.range (x.n / 8)).map (fun i => (x.key + 7) / 8 * 8 + 8 * i)).filter (fun k => decide (k + 8 ≤ x.key + x.n))

/-- The SEAL words that pieces cover whole fire the line monitor (R124, R396). -/
def sealPieces (s : State) (p : PartId) (l : List HostPiece) : State := (l.flatMap wholeWords).foldl (fun s k => sealMonitor s p k) s

/-- Pieces cover a SEAL word whole. -/
def coversSeal (q : Partition) (p : PartId) (l : List HostPiece) : Bool := (l.flatMap wholeWords).any (fun k => (sealSlot q.r p k).isSome)

/-- A firmware image is loaded only if its signature over its digest verifies (R401). -/
def imageVerifies (f : Firmware) : Bool := Config.verifies f.signature (shake256 64 f.image)

/-- A step brings a partition in RUN into ERROR (R399): a change of its frozen configuration, or an update of the Idran controller. -/
def bringsError (p : PartId) (i : Instr) : Bool :=
  match i with
  | .configChange q none => q == p
  | .configChange _ (some f) => f.index == 1 && imageVerifies f
  | _ => false

/-- What reading at the homes gives: bytes, a poisoned line, or the wait for a way. -/
inductive HostRead where
  | data (b : List Byte) (s : State)
  | poisoned (s : State)
  | later (s : State)

/-- A piece read coherently at its home (R396). -/
def readHostPiece (s : State) (p : PartId) (x : HostPiece) : HostRead :=
  let got (s : State) : HostRead := if s.linePoisoned x.key then .poisoned s else .data (memBytes s.mem x.key x.n) s
  match x.leaf with
  | some (l, va) =>
    match reachRead s p l va x.n 0 with
    | .ok s => got s
    | .held s => .later s
    | .poisoned s => .poisoned s
  | none => got (match lineAt s p x.key with
    | some l => readHome ((s.copies p l.line).foldl (fun s c => s.forwardRead p c l.line) (s.revokeAll p l.line)) p x.key 0
    | none => s)

/-- Pieces read in turn. -/
def readHostPieces (p : PartId) : List HostPiece → List Byte → State → HostRead
  | [], b, s => .data b s
  | x :: l, b, s =>
    match readHostPiece s p x with
    | .data d s => readHostPieces p l (b ++ d) s
    | o => o

/-- Pieces written in turn. -/
def writePieces : List HostPiece → List Byte → State → State
  | [], _, s => s
  | x :: l, b, s => writePieces l (b.drop x.n) (s.writeMemBytes x.key (b.take x.n))

/-- What the port answers. -/
def hostSays (s : State) (m : HostMsg) : State := { s with hostOut := s.hostOut ++ [m] }

/-- The bytes, the rights and the alignment that an access needs. -/
def hostShape : HostOp → Nat × BitVec 4 × Nat
  | .read n => (n, needR, 1)
  | .write b => (b.length, needW, 1)
  | .atomic _ sz _ _ => (amoBytes sz, needRW, amoBytes sz)

/-- A write or an atomic performed at its homes, once its pages and homes are ready, in one with the line monitor (R124). DEDUCED (log 66). -/
def hostWrite (s : State) (p : PartId) (t : BitVec 64) (op : HostOp) (l : List HostPiece) : State :=
  match op, l with
  | .write b, _ => hostSays (sealPieces (writePieces l b s) p l) (.done p t)
  | .atomic o sz v c, x :: _ =>
    let r := amoAt s x.key o sz v c
    hostSays (sealPieces r.2 p l) (.readData p t (natBytes r.1 (amoBytes sz)))
  | _, _ => hostSays s (.error p t)

/-- An access of the host whose conditions hold: it is performed, refused for a poisoned line, or held back (R212, R389, R396). DEDUCED (log 66). -/
def hostPerform (s : State) (p : PartId) (t : BitVec 64) (op : HostOp) (l : List HostPiece) : State :=
  let me : Instr := .hostAccess p t op
  match op with
  | .read _ =>
    match readHostPieces p l [] s with
    | .data b s => hostSays s (.readData p t b)
    | .poisoned s => hostSays s (.error p t)
    | .later s => s.holdBack me
  | .write _ | .atomic _ _ _ _ =>
    match l.findSome? (pieceHeld s p (.step me)) with
    | some s => s.holdBack me
    | none =>
      match reachPieces p l (l.foldl (fun s x => piecePassed s p (.step me) x) s) with
      | .error s => s.holdBack me
      | .ok s => hostWrite s p t op l

/-- HOST_ACCESS: a UET remote operation of the host that the port has authenticated (R396, R404), in the order of its flow: an error
completion and nothing performed where its conditions fail; a SEAL write in the cycle of an entry into ERROR is refused (R405).
DESIGN CHOICE (log 1). -/
def execHostAccess (p : PartId) (t : BitVec 64) (op : HostOp) (s : State) : Out :=
  let sh := hostShape op
  let ps := if portOpen (s.part p) && t.toNat % sh.2.2 == 0 then hostPieces s p t sh.1 sh.2.1 else none
  if heldBehind s (.hostAccess p t op) then .next (s.holdBack (.hostAccess p t op))
  else
    match ps with
    | none => .next (hostSays (if portOpen (s.part p) && t.toNat % sh.2.2 == 0 then exportListed s p t sh.1 sh.2.1 else s) (.error p t))
    | some l =>
      if l.any (fun x => s.linePoisoned x.key) ||
          (sh.2.1.getLsbD 1 && coversSeal (s.part p) p l && s.events.any (bringsError p)) then .next (hostSays s (.error p t))
      else .next (hostPerform s p t op l)

/-! ## SPDM (R398, R401) -/

/-- The session's state, or none. -/
def sessionOf (s : State) (n : Nat) : Option Session := kget s.sessions n

/-- What the SPDM responder does with a request: it is opened on every port as the last step of the bring-up, and answers nothing before
(R427). DEDUCED (log 41). -/
def responds (s : State) (go : State) : Out := .next (if s.bringUp = 16 then go else s)

def secured (s : State) (n : Nat) : Bool := (sessionOf s n).any (fun x => x.phase == .secured)

/-- Messages enter the session's transcript. DEDUCED (log 64). -/
def exchanged (s : State) (n : Nat) (l : List (List Byte)) : State :=
  match sessionOf s n with
  | some x => { s with sessions := kput s.sessions n { x with transcript := x.transcript ++ l } }
  | none => s

/-- A signature by the part's key over the digest of SPDM's to-be-signed data: what the session has exchanged so far, and the messages
that are signed (R398). DEDUCED (log 64). -/
def signed (s : State) (n : Nat) (l : List (List Byte)) : List Byte × State :=
  let told := ((sessionOf s n).map (fun x => x.transcript)).getD []
  (Config.signature s.free (shake256 64 (Config.toBeSigned (told ++ l))), { exchanged s n l with free := s.free + 1 })

/-- Bytes of a digest, and the digest that bytes hold. -/
def digestBytes (d : BitVec 512) : List Byte := natBytes d.toNat 64
def digestOf (l : List Byte) : BitVec 512 := BitVec.ofNat 512 (bytesNat l)

/-- The requests that the responder supports, and its algorithms (R398). -/
def spdmRequests : List String :=
  ["GET_VERSION", "GET_CAPABILITIES", "NEGOTIATE_ALGORITHMS", "GET_DIGESTS", "GET_CERTIFICATE", "CHALLENGE", "GET_MEASUREMENTS",
   "KEY_EXCHANGE", "FINISH", "END_SESSION", "VENDOR_DEFINED_REQUEST"]
def spdmAsym : String := "Falcon-1024 (vendor-defined)"
def spdmHash : String := "SHAKE256, 64 bytes"
def spdmAead : String := "AES-256-GCM"

/-- A request and its response, as the transcript holds them: a code, and what they carry as numbers. -/
def told (req : Nat) (a : List Nat) (rsp : Nat) (b : List Nat) : List (List Byte) := [Config.spdmBytes req a, Config.spdmBytes rsp b]

/-- GET_VERSION: SPDM 1.3; the connection is negotiated afresh (R398). -/
def execGetVersion (sess : Nat) (s : State) : Out :=
  responds s (hostSays { s with sessions := kput s.sessions sess { phase := .negotiating, transcript := told 0x84 [] 0x04 [1, 3] } }
    (.version sess 1 3))

/-- GET_CAPABILITIES (R398). -/
def execGetCapabilities (sess : Nat) (s : State) : Out :=
  responds s (hostSays (exchanged s sess (told 0xE1 [] 0x61 [])) (.capabilities sess spdmRequests))

/-- NEGOTIATE_ALGORITHMS: Falcon-1024, SHAKE256, AES-256-GCM (R398). -/
def execNegotiateAlgorithms (sess : Nat) (s : State) : Out :=
  responds s (hostSays (exchanged s sess (told 0xE3 [] 0x63 [])) (.algorithms sess spdmAsym spdmHash spdmAead))

/-- GET_DIGESTS (R398). -/
def execGetDigests (sess : Nat) (s : State) : Out :=
  let d := Config.digest Config.certificate
  responds s (hostSays (exchanged s sess (told 0x81 [] 0x01 [d.toNat])) (.digests sess d))

/-- GET_CERTIFICATE (R398, R401). -/
def execGetCertificate (sess : Nat) (s : State) : Out :=
  responds s (hostSays (exchanged s sess (told 0x82 [] 0x02 [bytesNat Config.certificate])) (.certificate sess Config.certificate))

/-- CHALLENGE: a signature over the exchange with its nonce (R398). -/
def execChallenge (sess : Nat) (nonce : BitVec 256) (s : State) : Out :=
  let r := signed s sess (told 0x83 [nonce.toNat] 0x03 [])
  responds s (hostSays r.2 (.challengeAuth sess r.1))

/-- The frozen configuration as it stands (R400): clusters in service, slices, bank cores, the four memory links (R429) and the port, the range
of 1 TiB of module addresses, LWBASE, the caddy's MODE and its range; a partition that is out of service has no resources (R429). DEDUCED (log 65). -/
def freezeOf (s : State) (p : PartId) : Frozen :=
  let q := s.part p
  let has (l : List Nat) : List Nat := if q.inService then l else []
  { part := p, clusters := has ((allClusters.filter (fun k => !(s.cluster p k).outOfService)).map (fun k => k.val)),
    slices := has (List.range 16), bankCores := has ((List.range 16).map (fun i => 256 + i)), memLinks := has (List.range 4), port := has [p.val],
    base := 0, limit := if q.inService then 2 ^ 40 else 0,
    lwbase := q.r.lwbase, caddyMode := bit q.r.caddy 63, caddyBase := field q.r.caddy 16 32, caddyLen := caddyLen q.r }

/-- The numbers of a frozen configuration. -/
def Frozen.words (f : Frozen) : List Nat :=
  [f.part.val, f.base, f.limit, f.lwbase.toNat, (if f.caddyMode then 1 else 0), f.caddyBase, f.caddyLen] ++ f.clusters ++ f.slices ++
    f.bankCores ++ f.memLinks ++ f.port

/-- The pin list and the retired frames (R401). -/
def healthWords (q : Partition) : List Nat := q.pins.flatMap (fun x => [x.set, x.way, (x.key.map (fun k => k + 1)).getD 0]) ++ q.retired

/-- The running firmware image (R401). -/
def firmwareOf (s : State) (index : Nat) : List Byte := (kget s.firmware index).getD (Config.firmware index)

/-- The bytes under a measurement block (R401). -/
def measured (s : State) (p : PartId) (index : Nat) : List Byte :=
  if index ≤ 2 then firmwareOf s index
  else Config.measuredBytes index
    (if index = 3 then Frozen.words ((s.part p).frozen.getD (freezeOf s p)) else healthWords (s.part p))

/-- A measurement: a SHAKE256 digest of 64 bytes (R401). -/
def measurement (s : State) (p : PartId) (index : Nat) : BitVec 512 := digestOf (shake256 64 (measured s p index))

/-- GET_MEASUREMENTS: blocks 1 to 4, signed (R401). -/
def execGetMeasurements (sess : Nat) (p : PartId) (index : Nat) (s : State) : Out :=
  if 1 ≤ index ∧ index ≤ 4 then
    let d := measurement s p index
    let r := signed s sess (told 0xE0 [p.val, index] 0x60 [d.toNat])
    responds s (hostSays r.2 (.measurements sess index d r.1))
  else responds s (hostSays s (.spdmError sess))

/-- A session enters a phase. -/
def setPhase (s : State) (n : Nat) (ph : SessionPhase) : State :=
  match sessionOf s n with
  | some x => { s with sessions := kput s.sessions n { x with phase := ph } }
  | none => s

/-- KEY_EXCHANGE: a session's keys are agreed (R398). DEDUCED (log 64). -/
def execKeyExchange (sess : Nat) (s : State) : Out :=
  if (sessionOf s sess).any (fun x => x.phase == .negotiating) then
    let r := signed s sess (told 0xE4 [] 0x64 [])
    responds s (hostSays (setPhase r.2 sess .keyed) (.keyExchanged sess r.1))
  else responds s (hostSays s (.spdmError sess))

/-- FINISH: the session is secured (R398). DEDUCED (log 64). -/
def execFinish (sess : Nat) (s : State) : Out :=
  if (sessionOf s sess).any (fun x => x.phase == .keyed) then
    responds s (hostSays (setPhase (exchanged s sess (told 0xE5 [] 0x65 [])) sess .secured) (.finished sess))
  else responds s (hostSays s (.spdmError sess))

/-- END_SESSION (R398). -/
def execEndSession (sess : Nat) (s : State) : Out :=
  responds s (if (sessionOf s sess).isSome then hostSays { s with sessions := kdel s.sessions sess } (.ended sess)
    else hostSays s (.spdmError sess))

/-! ## TDISP (R398 to R401, R405, R430) -/

/-- The partition was not yet in service as the cycle began (R430). -/
def notServing (s : State) (p : PartId) : Bool := !(s.part p).inService || (s.part p).serviceAt == some s.cycle

/-- A TDISP message for a partition not yet in service is answered Busy (R430); otherwise it is accepted only inside a secured session, from the
session that locked the interface, and for a partition that is not being wiped (R398). DEDUCED (log 64). -/
def tdispGuard (s : State) (sess : Nat) (p : PartId) (go : State) : State :=
  let q := s.part p
  if notServing s p then hostSays s (.busy sess p)
  else if !secured s sess || q.owner.any (fun x => x != sess) then hostSays s (.spdmError sess)
  else if q.wipe.isSome then hostSays s (.busy sess p)
  else go

/-- VENDOR_DEFINED_REQUEST: a link key for a destination is installed, in CONFIG_LOCKED or RUN (R404). -/
def execVendorDefinedRequest (sess : Nat) (p : PartId) (modid : BitVec 16) (part : PartId) (s : State) : Out :=
  let q := s.part p
  if secured s sess && q.owner == some sess && (q.tdisp == .locked || q.tdisp == .run) && q.wipe.isNone then
    .next (hostSays (s.modPart p (fun q => { q with 
        linkKeys := (modid, part) :: q.linkKeys.filter (fun k => k != (modid, part)),
        unreachable := q.unreachable.filter (fun k => k != (modid, part)) }))
      (.vendorDone sess))
  else .next (hostSays s (.spdmError sess))

/-- GET_TDISP_VERSION (R398). -/
def execGetTdispVersion (sess : Nat) (p : PartId) (s : State) : Out := .next (tdispGuard s sess p (hostSays s (.tdispVersion sess p)))

/-- GET_TDISP_CAPABILITIES (R398). -/
def execGetTdispCapabilities (sess : Nat) (p : PartId) (s : State) : Out :=
  .next (tdispGuard s sess p (hostSays s (.tdispCapabilities sess p)))

/-- A TDISP state entered, with its event message (R397, R399). -/
def enterTdisp (s : State) (p : PartId) (t : Tdisp) : State := (s.modPart p (fun q => { q with tdisp := t })).hostEvent p 3

/-- A life-cycle wipe begins (R403): it answers when it is complete. -/
def startWipe (s : State) (p : PartId) (lock : Bool) (sess : Nat) : State :=
  (s.modPart p (fun q => { q with wipe := some { lock := lock, sess := sess } })).afterTicks lifeTicks (.lifeCycleWipeComplete p)

/-- LOCK_INTERFACE_REQUEST (R399): from CONFIG_UNLOCKED alone. -/
def execLockInterfaceRequest (sess : Nat) (p : PartId) (s : State) : Out :=
  .next (tdispGuard s sess p
    (if (s.part p).tdisp == .unlocked then startWipe (s.modPart p (fun q => { q with owner := some sess })) p true sess
     else hostSays s (.spdmError sess)))

/-- GET_DEVICE_INTERFACE_REPORT (R399, R401): the partition, its state, measurement 3 and the key generation, signed. -/
def execGetDeviceInterfaceReport (sess : Nat) (p : PartId) (s : State) : Out :=
  let q := s.part p
  let d := measurement s p 3
  let r := signed s sess (told 0xFE [p.val] 0x7E [p.val, q.tdisp.code, d.toNat, q.keyGen.toNat])
  .next (tdispGuard s sess p
    (if q.tdisp == .locked then hostSays r.2 (.report sess p q.tdisp d q.keyGen r.1) else hostSays s (.spdmError sess)))

/-- The bring-up has passed a partition whose links did not train (R429). -/
def leftOut (s : State) (p : PartId) : Bool := !(s.part p).inService && decide (p.val < s.bringUp) && decide (s.bringUp ≤ 16)

/-- GET_DEVICE_INTERFACE_STATE (R398); a partition that a bring-up has left out of service is reported as CONFIG_UNLOCKED (R429). -/
def execGetDeviceInterfaceState (sess : Nat) (p : PartId) (s : State) : Out :=
  .next (if leftOut s p && secured s sess then hostSays s (.state sess p .unlocked)
    else tdispGuard s sess p (hostSays s (.state sess p (s.part p).tdisp)))

/-- START_INTERFACE_REQUEST (R399): the port opens. -/
def execStartInterfaceRequest (sess : Nat) (p : PartId) (s : State) : Out :=
  .next (tdispGuard s sess p
    (if (s.part p).tdisp == .locked then hostSays (enterTdisp s p .run) (.started sess p) else hostSays s (.spdmError sess)))

/-- A core's world with nothing queued or under way. -/
def idleWorld (w : CoreWorld) : CoreWorld :=
  { w with
    rxBuf := [], serverQ := [], landing := [], updateQ := [], outQ := [], steepQ := [], inbox := [], copyQ := [], mxQ := [],
    copyDone := w.copyNext, mxDone := w.mxNext }

/-- A cluster with nothing under way. -/
def idleCluster (k : Cluster) : Cluster :=
  { k with
    queues := Vector.replicate 4 [],
    w := { k.w with run := none, drain := [], storing := none, acc := kmapVals (fun _ (a : AccSlot) => { a with pend := 0 }) k.w.acc } }

/-- The dispatcher holds nothing, and DSPCTL.EN is 0 (R399). -/
def idleDispatcher (q : Partition) : Partition :=
  { q with
    r := { q.r with dspctl := q.r.dspctl &&& ~~~(1 : Word) }, launches := [], expansion := [], sealing := [], dsets := [],
    clusters := kmapVals (fun _ (k : Cluster) => { k with queues := Vector.replicate 4 [] }) q.clusters }

/-- The units of a core with nothing that is still to be written or run. -/
def idleFixed (k : CoreFixed) : CoreFixed := { k with trcOut := [], trcBuf := [], syshQ := [], prefetches := [] }

/-- A trap queue without records that are still to be written. -/
def idleTrap (t : TrapQ) : TrapQ := { t with posted := [], writing := [], alloc := t.tail, heldReplay := [], heldFatal := [] }

/-- Everything of a partition that runs ends (R399, R405): threads, requests of others, a gang switch, a snapshot's pulse or writing,
collectives, of which its peers' complete with STATE 1, dumps, records on their way, engines and the dispatcher. -/
def haltPartition (s : State) (p : PartId) : State :=
  let s := dropSpill (killWhere (leaveColls (refuseQueued (refuseWaiters s p) p) p) p (fun _ => true)) p
  s.modPart p (fun q => { idleDispatcher q with
    cores := kmapVals (fun _ (k : Core) => { w := idleWorld k.w, c := idleFixed k.c }) q.cores,
    trap := idleTrap q.trap, grid := [],
    clusters := kmapVals (fun _ k => idleCluster k) q.clusters,
    fe := [], gang := .idle, ready := [], spill := [], dumps := [], colls := [],
    snap := { q.snap with
      phase := .idle, image := none, captured := [], staged := [], writers := [], held := [], chanLog := [], issuers := [],
      table := q.snap.table.filter (fun e => e.state != 1 && e.state != 2) } })

/-- STOP_INTERFACE_REQUEST (R399, R405): threads are killed, and the life-cycle wipe begins. -/
def execStopInterfaceRequest (sess : Nat) (p : PartId) (s : State) : Out :=
  .next (tdispGuard s sess p
    (if (s.part p).tdisp == .unlocked then hostSays s (.spdmError sess) else startWipe (haltPartition s p) p false sess))

/-- A locked interface enters ERROR (R399). -/
def enterError (s : State) (p : PartId) : State :=
  let q := s.part p
  if q.tdisp == .locked || q.tdisp == .run then enterTdisp (haltPartition (s.modPart p (fun q => { q with unfrozen := false })) p) p .error
  else s

/-- The interfaces whose frozen configuration a register write has changed enter ERROR as a cycle begins (R399, R405). -/
def enterErrors (s : State) : State := (allParts.filter (fun p => (s.part p).unfrozen)).foldl enterError s

/-- CONFIG_CHANGE: the frozen configuration of an interface changes, and it enters ERROR; or a firmware image is loaded, where its signature
verifies, and every locked interface does so with an update of the Idran controller (R399, R401). DEDUCED (log 65). -/
def execConfigChange (p : PartId) (fw : Option Firmware) (s : State) : Out :=
  match fw with
  | none => .next (enterError s p)
  | some f =>
    if !imageVerifies f then .next s
    else
      let s : State := { s with firmware := kput s.firmware f.index f.image }
      .next (if f.index = 1 then allParts.foldl enterError s else s)

/-! ## Life-cycle wipe (R402, R403) -/

/-- Every line of the caddy behind the port that an earlier key wrote: under the new key their tags do not match (R402). DEDUCED (log 40). -/
def loseCaddy (s : State) (p : PartId) : State :=
  { s with poison := ((s.part p).caddyUnits.flatMap (fun u => (List.range 512).map (fun i => 512 * u + i))).foldl nput s.poison }

/-- What the L1s, slices and windows hold of a partition dropped, and its memory wiped to zero and empty, under a new key (R403). DEDUCED (log 40). -/
def wipeMemory (s : State) (p : PartId) : State :=
  let s := (s.part p).coreIds.foldl (fun s c => s.modCoreC p c (fun k => { k with l1d := [], l1i := [], plb := [], holders := [] })) s
  let s := loseCaddy (s.wipeRange (spaceBase p 0) (spaceBase p 0 + 4 * 2 ^ 48)) p
  let s := s.wipeRange ((80 + p.val) * 2 ^ 48) ((81 + p.val) * 2 ^ 48)
  s.modPart p (fun q => { q with slices := [], tcache := [], steep := [], retired := [], worlds := [], keyGen := q.keyGen + 1 })

/-- LIFE_CYCLE_WIPE_COMPLETE: memory is zero under a fresh key, the configuration is frozen at a LOCK, and the LOCK or STOP is answered (R399,
R403). DEDUCED (log 40). -/
def execLifeCycleWipeComplete (p : PartId) (s : State) : Out :=
  match (s.part p).wipe with
  | none => .next s
  | some w =>
    if (s.part p).rst != .none then .next s
    else
      let s := (wipeMemory s p).modPart p (fun q => { idleDispatcher q with wipe := none })
      if w.lock then
        let s := s.modPart p (fun q => { q with frozen := some (freezeOf s p), unfrozen := false })
        .next (hostSays (enterTdisp s p .locked) (.locked w.sess p))
      else
        let s := s.modPart p (fun q => { q with owner := none, linkKeys := [], unreachable := [], frozen := none })
        .next (hostSays (enterTdisp s p .unlocked) (.stopped w.sess p))

/-! ## The Idran controller's register accesses (R145, R346, R415) -/

/-- MODID and VFSEL, which only the Idran controller sets. -/
def writeIdran (s : State) (p : PartId) (c : CoreId) (reg : SysReg) (v : Word) : State :=
  match reg with
  | .modid => { s with modid := v.setWidth 16 }
  | .vfsel => s.modRegs p (fun r => { r with vfsel := v &&& 0xF })
  | .tbind => if bit v 63 then bindTaster s p c v else if !s.watched p c || logDrained s p c then unbindTaster s p c v else s
  | reg => writeCoreReg s p c reg v

/-- The value that the Idran controller reads: no thread's own. -/
def readIdran (s : State) (p : PartId) (c : CoreId) (reg : SysReg) : Word :=
  match reg with
  | .modid => s.modid.setWidth 64
  | .core => word c.val
  | .clus => clusWord c
  | .part => partWord p
  | reg => ownReg s p c reg

/-- IDRAN_REGISTER_ACCESS: the Idran controller writes a register, or reads one (R145). -/
def execIdranRegisterAccess (p : PartId) (c : CoreId) (reg : SysReg) (v : Option Word) (s : State) : Out :=
  match v with
  | some x => .next (writeIdran s p c reg x)
  | none => .next (hostSays (countShared s p reg) (.register p c reg (readIdran (countShared s p reg) p c reg)))

end Sys2Proof.Machine
end

