-- ==== Sys2Proof/Machine/Trace.lean ====
section
/-! DEFINITION. Link counters (28 R408, R409), counter wraps (R411, R412), and the trace unit (R416 to R418). -/
namespace Sys2Proof.Machine

/-! ## Link counters (R408, R409) -/

/-- SH and RSZ as they act. -/
def linkShift (ctl : Word) : Nat :=
  let n := field ctl 58 5
  if 12 ≤ n ∧ n ≤ 28 then n else 20
def linkSlots (ctl : Word) : Nat := 2 ^ Nat.min (field ctl 54 4) 8
def linkSeq (r : PRegs) : Nat := field r.lnkctl 0 32

/-- A boundary falls in this cycle (R409). -/
def linkDue (s : State) (p : PartId) : Bool :=
  let q := s.part p
  bit q.r.lnkctl 63 && decide (q.gridFrom < s.cycle) && (s.cycle - q.gridFrom) % 2 ^ linkShift q.r.lnkctl == 0

/-- A counter of a link advanced, saturating (R408). -/
def satAdd (a b : BitVec 32) : BitVec 32 := if 2 ^ 32 ≤ a.toNat + b.toNat then 0xFFFFFFFF else a + b

/-- The counters of 48 routers, 5 outputs and 6 channels as they stand: each has counted on by a free amount, since what the links carry is
timing, and an output that has no link counts nothing (R408). DESIGN CHOICE (log 12). -/
def countLinks (links : KMap (BitVec 32 × BitVec 32)) (free : Nat) : KMap (BitVec 32 × BitVec 32) :=
  ((List.range 1440).filter (fun i => i % 30 / 6 == 4 || Config.linked (i / 30) (i % 30 / 6))).map (fun i =>
    let x := (kget links i).getD (0, 0)
    let v := Config.sharedCount (free + i)
    (i, satAdd x.1 (v.extractLsb' 0 32), satAdd x.2 (v.extractLsb' 32 32)))

/-- A boundary (R409): every counter is latched with the timestamp and the registers' values and zeroed, for a dump that is still to be written. -/
def latchLinks (s : State) (p : PartId) : State :=
  { s.modPart p (fun q => { q with
      grid := q.grid ++ [{ ts := s.tstamp, ctl := q.r.lnkctl, base := q.r.lnkbase, grid := countLinks q.links s.free }], links := [] }) with
    free := s.free + 1440 }

/-- Dump k of latched counters at its slot's cell (R409), but for its poisoned lines (R212); the timestamp last, and full. -/
def writeDump (s : State) (p : PartId) (k n : Nat) (d : LinkDump) : State :=
  let old := s
  let s := s.writeMem k 8 (word (n * 2 ^ 32 + linkShift d.ctl * 2 ^ 8 + p.val))
  let s := [8, 16, 24, 32, 40, 48].foldl (fun s o => s.writeMem (k + o) 8 0) s
  let s := (List.range 1440).foldl (fun s i =>
    let x := (kget d.grid i).getD (0, 0)
    s.writeMem (k + 0x40 + 256 * (i / 30) + 48 * (i / 6 % 5) + 8 * (i % 6)) 8 (word (x.2.toNat * 2 ^ 32 + x.1.toNat))) s
  let s := s.keepLines old (old.stuckLines k 16384)
  feServeSoon (feFill s p (k + 0x38) (word d.ts)) p (k + 0x38)

/-- The address of a latched dump's slot (R409, R421). -/
def dumpAddr (d : LinkDump) (n : Nat) : Word := ext57 (field d.base 14 43 * 2 ^ 14 + 16384 * (n % linkSlots d.ctl))

/-- LINK_INTERVAL: at a boundary the counters are latched, and the oldest dump is written, or waits at its page (R389, R409); without a valid
translation BAD is set and that dump is dropped. In ERROR nothing is written (R399). -/
def execLinkInterval (p : PartId) (s : State) : Out :=
  let s := if linkDue s p then latchLinks s p else s
  match (s.part p).grid with
  | [] => .next s
  | d :: rest =>
    let n := linkSeq (s.part p).r
    let taken (s : State) : State := s.modPart p (fun q => { q with grid := rest })
    if (s.part p).tdisp == .error then .next s
    else
      match unitWrite s p (dumpAddr d n) (.linkInterval p) with
      | .bad s => .next (((taken s).modRegs p (fun r => { r with lnkbase := r.lnkbase ||| 1 })).hwSet p 0 .lnkbase 0)
      | .held s => .next (s.holdBack (.linkInterval p))
      | .ok k s =>
        .next ((writeDump (taken (collectRange s p k (k + 16384))) p k n d).modRegs p (fun r => { r with
          lnkctl := setField r.lnkctl 0 32 (n + 1) }))

/-! ## Counters (R411) -/

/-- PCNT_WRAP: a counter at its largest count counts once more, while the counters run (R407, R411): OVF, and for PCNT0 trace condition 3
(R416). -/
def execPcntWrap (p : PartId) (c : CoreId) (i : Fin 4) (s : State) : Out :=
  if s.counting p && field (s.core p c).w.pcnt[i] 0 48 == 2 ^ 48 - 1 then .next (countReg s p c 1 i)
  else .next s

/-! ## The trace unit (R416 to R418) -/

def trcSize (w : CoreWorld) : Nat := 2 ^ (Nat.min (field w.trcctl 56 4) 12 + 12)
def trcOff (w : CoreWorld) : Nat := field w.trcptr 4 20 * 16

/-- A record lost (R418). -/
def trcDrop (s : State) (p : PartId) (c : CoreId) : State :=
  (s.modCoreW p c (fun w => { w with trcptr := setField w.trcptr 48 16 (Nat.min (field w.trcptr 48 16 + 1) 65535) })).count p c 18 none 1

/-- OFF after a record; what an MTS has written in this cycle stands (R355). -/
def trcAdvance (s : State) (p : PartId) (c : CoreId) : State :=
  if (s.mtsWas p c .trcptr).isSome then s
  else s.modCoreW p c (fun w => { w with trcptr := setField w.trcptr 0 24 ((trcOff w + 16) % trcSize w) })

/-- The ring is full with WRAP = 0 (R418): tracing stops, and what the buffer still holds is not written, nor any further record until OFF is
rewritten. -/
def trcFull (s : State) (p : PartId) (c : CoreId) : State :=
  ((s.modCoreW p c (fun w => { w with
    trcStopped := true, trcctl := (w.trcctl ||| 0x2000000000000000) &&& 0xEFFFFFFFFFFFFFFF })).modCoreC p c
    (fun k => { k with trcOut := [] })).hwSet p c .trcctl 61

/-- Records leave the buffer in order, each written at OFF, its second word last and set full as STF does (R150, R418), up to one that waits
at its page (R389): with WRAP = 0 one that would reach the ring's end is not written. DESIGN CHOICE (log 29). -/
def trcDrain (p : PartId) (c : CoreId) : List (Word × Word) → State → State
  | [], s => s
  | (x, y) :: rest, s =>
    let k := s.core p c
    if !bit k.w.trcctl 62 && decide (trcSize k.w ≤ trcOff k.w + 16) then trcFull s p c
    else if k.w.trcStopped then s.modCoreC p c (fun k => { k with trcOut := [] })
    else
      let taken (s : State) : State := s.modCoreC p c (fun k => { k with trcOut := rest })
      match unitWrite s p (ext57 (field k.c.trcbase 12 45 * 2 ^ 12 + trcOff k.w % trcSize k.w)) (.syncRecord p c) with
      | .bad s => trcDrain p c rest (trcDrop (taken s) p c)
      | .held s => s
      | .ok a s => trcDrain p c rest (trcAdvance (feServeSoon (feFill ((taken s).writeMem a 8 x) p (a + 8) y) p (a + 8)) p c)

/-- A record enters the unit's buffer, or is lost where that is full (R418). DESIGN CHOICE (log 29). -/
def writeTrc (s : State) (p : PartId) (c : CoreId) (x y : Word) : State :=
  if 32 ≤ (s.core p c).c.trcOut.length then trcDrop s p c
  else (s.modCoreC p c (fun k => { k with trcOut := k.trcOut ++ [(x, y)] })).modCoreW p c (fun w => { w with trcRecs := w.trcRecs + 1 })

/-- A sync record (R418), where KINDS enables its kind. DESIGN CHOICE (log 29). -/
def writeSync (s : State) (p : PartId) (c : CoreId) : State :=
  if bit (s.core p c).w.trcctl 0 then
    (writeTrc s p c 0 (word s.tstamp)).modCoreW p c (fun w => { w with trcRecs := 0, trcSync := s.cycle })
  else s

/-- What the buffer holds is written, but in ERROR (R399). -/
def trcWrite (s : State) (p : PartId) (c : CoreId) : State :=
  if (s.part p).tdisp == .error then s else trcDrain p c (s.core p c).c.trcOut s

/-- SYNC_RECORD: an active trace unit writes a sync record (R418). -/
def execSyncRecord (p : PartId) (c : CoreId) (s : State) : Out :=
  .next (if bit (s.core p c).w.trcctl 60 then trcWrite (writeSync s p c) p c else s)

/-- A record of a slot's event, after a sync record where its count of cycles would exceed 32 bits; after 4,096 records a sync record follows
(R418). DESIGN CHOICE (log 29). -/
def writeEvent (s : State) (p : PartId) (c : CoreId) (x : Nat × Nat × Word × BitVec 32) : State :=
  let s := if 2 ^ 32 - 1 < s.cycle - (s.core p c).w.trcSync then writeSync s p c else s
  let since := s.cycle - (s.core p c).w.trcSync
  let s := writeTrc s p c (word (x.1 * 2 ^ 60 + x.2.1 * 2 ^ 56 + va57 x.2.2.1 / 4)) (word (x.2.2.2.toNat * 2 ^ 32 + since % 2 ^ 32))
  if 4096 ≤ (s.core p c).w.trcRecs then writeSync s p c else s

/-- A condition number holds in this cycle (R416). DEDUCED (log 28). -/
def condHolds (s : State) (k : Core) (n : Nat) : Bool :=
  n == 1 || (n == 7 && decide (k.c.trctime.toNat ≤ s.tstamp)) || (n != 0 && k.c.trcNow.contains n)

/-- The end of a cycle in a core's trace unit (R417): ACT is decided, and the records of a recorded cycle enter its buffer. -/
def traceCycle (s : State) (p : PartId) (c : CoreId) : State :=
  let k := s.core p c
  let done (s : State) : State := s.modCoreC p c (fun x => { x with trcNow := [], trcBuf := [] })
  if !bit k.w.trcctl 63 then (if k.c.trcNow.isEmpty && k.c.trcBuf.isEmpty then s else done s)
  else
    let a := bit k.w.trcctl 60
    let st := condHolds s k (field k.w.trctrg 0 8)
    let sp := condHolds s k (field k.w.trctrg 8 8)
    let s := done s
    if a || (st && !sp) then
      let s := s.modCoreW p c (fun w => { w with trcctl := w.trcctl ||| 0x1000000000000000 })
      let s := if a then s else writeSync s p c
      let s := k.c.trcBuf.foldl (fun s x => writeEvent s p c x) s
      if sp then s.modCoreW p c (fun w => { w with trcctl := w.trcctl &&& 0xEFFFFFFFFFFFFFFF }) else s
    else s

/-- The end of a cycle in a core's trace unit, with the writes of what its buffer holds (R417, R418). -/
def traceCore (s : State) (p : PartId) (c : CoreId) : State :=
  let s := traceCycle s p c
  if (s.core p c).c.trcOut.isEmpty then s else trcWrite s p c

/-- TRACE_TIME_CONDITION: the timestamp has reached TRCTIME: condition 7 holds (R416). -/
def execTraceTimeCondition (p : PartId) (c : CoreId) (s : State) : Out :=
  .next (if (s.core p c).c.trctime.toNat ≤ s.tstamp then s.traceCond p c 7 else s)

end Sys2Proof.Machine
end

