-- ==== Sys2Proof/Machine/VecInstr.lean ====
section
/-! DEFINITION. The vector arithmetic words (10 R179 to R188, 05 R81, R82). They set no flag and raise no arithmetic fault. -/
namespace Sys2Proof.Machine

/-- An elementwise form on va and vb, with the old vd (R179): `f z x y` on the lanes' patterns. -/
def vec3 (ty : VType) (m : Option MReg) (d a b : VReg) (f : Nat → Nat → Nat → Nat) (s : State) : Out :=
  let w := ty.width
  runPure [] (fun t =>
    vecCommit d (vlanes t w ty.lanes m d (fun i => f (lane w t.v[d] i) (lane w t.v[a] i) (lane w t.v[b] i)))) s

/-- An elementwise form on va alone. -/
def vec2 (ty : VType) (m : Option MReg) (d a : VReg) (f : Nat → Nat) (s : State) : Out :=
  let w := ty.width
  runPure [] (fun t => vecCommit d (vlanes t w ty.lanes m d (fun i => f (lane w t.v[a] i)))) s

/-- A lane operation that is one thing on integers and another on floats (R179). -/
def laneOp (ty : VType) (fi : Int → Int → Int → Int) (ff : Fmt → Nat → Nat → Nat → FRes) (z x y : Nat) : Nat :=
  if ty.isInt then ulane ty.width (fi (slane ty.width z) (slane ty.width x) (slane ty.width y))
  else (ff ty.fmt z x y).bits

def execVadd (ty : VType) (m : Option MReg) (d a b : VReg) (s : State) : Out :=
  vec3 ty m d a b (laneOp ty (fun _ x y => x + y) (fun f _ x y => f.add x y)) s
def execVsub (ty : VType) (m : Option MReg) (d a b : VReg) (s : State) : Out :=
  vec3 ty m d a b (laneOp ty (fun _ x y => x - y) (fun f _ x y => f.sub x y)) s
def execVmul (ty : VType) (m : Option MReg) (d a b : VReg) (s : State) : Out :=
  vec3 ty m d a b (laneOp ty (fun _ x y => x * y) (fun f _ x y => f.mul x y)) s
def execVfma (ty : VType) (m : Option MReg) (d a b : VReg) (s : State) : Out :=
  vec3 ty m d a b (laneOp ty (fun z x y => z + x * y) (fun f z x y => f.fma z x y)) s
def execVmin (ty : VType) (m : Option MReg) (d a b : VReg) (s : State) : Out :=
  vec3 ty m d a b (laneOp ty (fun _ x y => if x ≤ y then x else y) (fun f _ x y => f.min x y)) s
def execVmax (ty : VType) (m : Option MReg) (d a b : VReg) (s : State) : Out :=
  vec3 ty m d a b (laneOp ty (fun _ x y => if x ≥ y then x else y) (fun f _ x y => f.max x y)) s

/-! ## Bitwise and shifts -/

def execVand (ty : VType) (m : Option MReg) (d a b : VReg) (s : State) : Out := vec3 ty m d a b (fun _ x y => x &&& y) s
def execVor (ty : VType) (m : Option MReg) (d a b : VReg) (s : State) : Out := vec3 ty m d a b (fun _ x y => x ||| y) s
def execVxor (ty : VType) (m : Option MReg) (d a b : VReg) (s : State) : Out := vec3 ty m d a b (fun _ x y => x ^^^ y) s
/-- VSHL: a count of w or more empties the lane (R179). -/
def execVshl (ty : VType) (m : Option MReg) (d a b : VReg) (s : State) : Out :=
  vec3 ty m d a b (fun _ x y => if ty.width ≤ y then 0 else x * 2 ^ y % 2 ^ ty.width) s
/-- VSHR fills with the sign (R179). -/
def execVshr (ty : VType) (m : Option MReg) (d a b : VReg) (s : State) : Out :=
  vec3 ty m d a b (fun _ x y =>
    if ty.width ≤ y then (if slane ty.width x < 0 then 2 ^ ty.width - 1 else 0)
    else ulane ty.width (slane ty.width x / (2 ^ y : Int))) s

/-! ## Dot products -/

/-- Source lanes per 32-bit lane (R181). -/
def dotCount (ty : VType) : Nat := 32 / ty.width

/-- The value of source lane i of a float VDOT, va in fa's format and vb in fb's where the type is .nf (R181). -/
def dotVal (ty : VType) (desc : Word) (x : Nat) : FVal :=
  match ty, nfOf desc with
  | .nf, some n => n.val x
  | .nf, none => .nan false
  | _, _ => ty.fmt.val x

/-- The new 32-bit lane of VDOT (R81, R181). -/
def dotLane (ty : VType) (t : Thread) (z : Nat) (a b : VReg) (j : Nat) : Nat :=
  let p := dotCount ty
  let w := ty.width
  let xs := (List.range p).map (fun i => (lane w t.v[a] (p * j + i), lane w t.v[b] (p * j + i)))
  if ty.isInt then ulane 32 (slane 32 z + (xs.map (fun e => slane w e.1 * slane w e.2)).foldl (· + ·) 0)
  else (Fmt.f32.deliver (sumVal (Fmt.f32.val z :: xs.map (fun e => mulVal (dotVal ty t.fa e.1) (dotVal ty t.fb e.2))))).bits

/-- VDOT (R181): with .nf the descriptors in fa and fb must be valid and have 8-bit containers. -/
def execVdot (ty : VType) (m : Option MReg) (d a b : VReg) (s : State) : Out :=
  runWord [] (fun _ t s =>
    if ty == .nf && ((vecNf t.fa).isNone || (vecNf t.fb).isNone) then .trap .format none s
    else .done (vecCommit d (vlanes t 32 16 m d (fun j => dotLane ty t (lane 32 t.v[d] j) a b j))) s) s

/-! ## Selection and permutation -/

/-- VSEL writes every lane (R182). -/
def execVsel (ty : VType) (m : MReg) (d a b : VReg) (s : State) : Out :=
  runPure [] (fun t =>
    vecCommit d (vlanes t ty.width ty.lanes none d (fun i =>
      if (t.m[m]).getLsbD i then lane ty.width t.v[a] i else lane ty.width t.v[b] i))) s

/-- VPERM (R182). -/
def execVperm (ty : VType) (m : Option MReg) (d a b : VReg) (s : State) : Out :=
  runPure [] (fun t =>
    vecCommit d (vlanes t ty.width ty.lanes m d (fun i =>
      lane ty.width t.v[a] (lane ty.width t.v[b] i % ty.lanes)))) s

/-! ## Compare and reduce -/

/-- A lane's condition (R183). -/
def vccHolds (cc : VCc) (ty : VType) (x y : Nat) : Bool :=
  match cc with
  | .int c => c.holds (sextTo ty.width x) (sextTo ty.width y)
  | .flt c => c.holds (ty.fmt.val x) (ty.fmt.val y)

/-- A mask from its bits, lowest lane first. -/
def maskOfBits (n : Nat) (f : Nat → Bool) : BitVec 64 :=
  (List.range n).foldl (fun acc i => if f i then acc ||| (1#64 <<< i) else acc) 0

/-- VCMP (R183). -/
def execVcmp (cc : VCc) (ty : VType) (m : Option MReg) (d : MReg) (a b : VReg) (s : State) : Out :=
  runPure [] (fun t =>
    maskCommit d (maskOfBits ty.lanes (fun i =>
      laneActive t m i && vccHolds cc ty (lane ty.width t.v[a] i) (lane ty.width t.v[b] i)))) s

/-- The identity that a masked-off lane enters as (R82). -/
def redIdentity (op : RedOp) (ty : VType) : Nat :=
  let w := ty.width
  match op with
  | .add => if ty.isInt then 0 else ty.fmt.signBit true
  | .min => if ty.isInt then 2 ^ (w - 1) - 1 else ty.fmt.infBits
  | .max => if ty.isInt then 2 ^ (w - 1) else ty.fmt.signBit true + ty.fmt.infBits
  | .and => 2 ^ w - 1
  | .or => 0
  | .xor => 0

/-- A float minimum or maximum of a reduction: a NaN gives the canonical NaN, and -0 ranks below +0 (R82, R184). -/
def redFloat (f : Fmt) (op : Nat → Nat → FRes) (x y : Nat) : Nat :=
  if (f.val x).isNan || (f.val y).isNan then f.nanBits else (op x y).bits

/-- Two lanes combined (R82). -/
def redCombine (op : RedOp) (ty : VType) (x y : Nat) : Nat :=
  let w := ty.width
  match op with
  | .add => if ty.isInt then (x + y) % 2 ^ w else (ty.fmt.add x y).bits
  | .min =>
    if ty.isInt then (if slane w x ≤ slane w y then x else y) else redFloat ty.fmt ty.fmt.min x y
  | .max =>
    if ty.isInt then (if slane w x ≥ slane w y then x else y) else redFloat ty.fmt ty.fmt.max x y
  | .and => x &&& y
  | .or => x ||| y
  | .xor => x ^^^ y

/-- One level of the tree: lane i of the next level is lane 2i combined with lane 2i + 1 (R82). -/
def redLevel (f : Nat → Nat → Nat) : List Nat → List Nat
  | x :: y :: l => f x y :: redLevel f l
  | l => l

/-- The tree: log2(n) levels (R82). -/
def redTree (f : Nat → Nat → Nat) : Nat → List Nat → Nat
  | 0, l => l.headD 0
  | k + 1, l => redTree f k (redLevel f l)

/-- VRED (R184). -/
def execVred (op : RedOp) (ty : VType) (m : Option MReg) (d : Reg) (a : VReg) (s : State) : Out :=
  runPure [] (fun t =>
    let l := (List.range ty.lanes).map (fun i => if laneActive t m i then lane ty.width t.v[a] i else redIdentity op ty)
    Commit.reg d (ty.toReg (redTree (redCombine op ty) (Nat.log2 ty.lanes) l))) s

/-! ## Functions and conversions -/

def execVexp2 (ty : VType) (m : Option MReg) (d a : VReg) (s : State) : Out := vec2 ty m d a ty.fmt.exp2 s
def execVrcp (ty : VType) (m : Option MReg) (d a : VReg) (s : State) : Out := vec2 ty m d a ty.fmt.rcp s
def execVrsq (ty : VType) (m : Option MReg) (d a : VReg) (s : State) : Out := vec2 ty m d a ty.fmt.rsq s

/-- The value of an element of VCVT's source: an integer or a float. -/
def vcvtVal (ty : VType) (n : Option Nf) (x : Nat) : FVal :=
  if ty.isInt then intVal (slane ty.width x)
  else match ty, n with
    | .nf, some d => d.val x
    | .nf, none => .nan false
    | _, _ => ty.fmt.val x

/-- An element converted (R186): rounding to nearest even, saturating into an integer, a NaN giving 0 there. -/
def vcvtElem (dst : VType) (n : Option Nf) (v : FVal) : Nat :=
  if dst.isInt then
    ulane dst.width (toInt .rne (-(2 ^ (dst.width - 1) : Int)) (2 ^ (dst.width - 1) - 1) v).1
  else match dst, n with
    | .nf, some d => (d.deliver v).bits
    | .nf, none => 0
    | _, _ => (dst.fmt.deliver v).bits

/-- The new vd of VCVT (R186): elements 0 to n − 1 where active, and the rest of vd zero. -/
def vcvtVec (dst src : VType) (m : Option MReg) (t : Thread) (d a : VReg) : BitVec 512 :=
  let n := Nat.min src.lanes dst.lanes
  lanesVec dst.width ((List.range n).map (fun i =>
    if laneActive t m i then vcvtElem dst (nfOf t.fa) (vcvtVal src (nfOf t.fa) (lane src.width t.v[a] i))
    else lane dst.width t.v[d] i))

/-- VCVT (R186): with .nf, fa's descriptor must be valid and have 8-bit containers (R170). -/
def execVcvt (dst src : VType) (m : Option MReg) (d a : VReg) (s : State) : Out :=
  runWord [] (fun _ t s =>
    if (dst == .nf || src == .nf) && (vecNf t.fa).isNone then .trap .format none s
    else .done (vecCommit d (vcvtVec dst src m t d a)) s) s

/-! ## Moves and masks -/

/-- VBCAST (R187). -/
def execVbcast (ty : VType) (d : VReg) (a : Src) (s : State) : Out :=
  runPure [a] (fun t => vecCommit d (lanesVec ty.width (List.replicate ty.lanes (t.rd a).toNat))) s

/-- VMOVG (R187). -/
def execVmovg (ty : VType) (d : Reg) (a : VReg) (ln : BitVec 6) (s : State) : Out :=
  runPure [] (fun t => Commit.reg d (ty.toReg (lane ty.width t.v[a] ln.toNat))) s

def execMand (d a b : MReg) (s : State) : Out := runPure [] (fun t => maskCommit d (t.m[a] &&& t.m[b])) s
def execMor (d a b : MReg) (s : State) : Out := runPure [] (fun t => maskCommit d (t.m[a] ||| t.m[b])) s
def execMnot (d a : MReg) (s : State) : Out := runPure [] (fun t => maskCommit d (~~~t.m[a])) s
def execMpop (d : Reg) (a : MReg) (s : State) : Out := runPure [] (fun t => Commit.reg d (word (onesOf t.m[a]))) s

end Sys2Proof.Machine
end

