-- ==== Sys2Proof/Machine/Dispatch.lean ====
section
/-! DEFINITION. The one dispatch of the machine: each instruction to its own meaning. -/
namespace Sys2Proof.Machine

/-- What an instruction does in a state. -/
def exec (i : Instr) (s : State) : Host.Outcome State Fault Refusal :=
  match i with
  | .nop => Sys2Proof.Machine.execNop s
  | .b off => Sys2Proof.Machine.execB off s
  | .call off => Sys2Proof.Machine.execCall off s
  | .bz a off => Sys2Proof.Machine.execBz a off s
  | .bnz a off => Sys2Proof.Machine.execBnz a off s
  | .bcc c a off => Sys2Proof.Machine.execBcc c a off s
  | .jmp a => Sys2Proof.Machine.execJmp a s
  | .callr a => Sys2Proof.Machine.execCallr a s
  | .blk sig dig => Sys2Proof.Machine.execBlk sig dig s
  | .ldS8 d a off => Sys2Proof.Machine.execLdS8 d a off s
  | .ldS16 d a off => Sys2Proof.Machine.execLdS16 d a off s
  | .ldS32 d a off => Sys2Proof.Machine.execLdS32 d a off s
  | .ldS64 d a off => Sys2Proof.Machine.execLdS64 d a off s
  | .ldZ8 d a off => Sys2Proof.Machine.execLdZ8 d a off s
  | .ldZ16 d a off => Sys2Proof.Machine.execLdZ16 d a off s
  | .ldZ32 d a off => Sys2Proof.Machine.execLdZ32 d a off s
  | .ldx ty d a b => Sys2Proof.Machine.execLdx ty d a b s
  | .st8 d a off => Sys2Proof.Machine.execSt8 d a off s
  | .st16 d a off => Sys2Proof.Machine.execSt16 d a off s
  | .st32 d a off => Sys2Proof.Machine.execSt32 d a off s
  | .st64 d a off => Sys2Proof.Machine.execSt64 d a off s
  | .stx ty d a b => Sys2Proof.Machine.execStx ty d a b s
  | .lds d a off => Sys2Proof.Machine.execLds d a off s
  | .ldsk d a off => Sys2Proof.Machine.execLdsk d a off s
  | .sts d a off => Sys2Proof.Machine.execSts d a off s
  | .stf d a off => Sys2Proof.Machine.execStf d a off s
  | .clre a off => Sys2Proof.Machine.execClre a off s
  | .spawn d a b => Sys2Proof.Machine.execSpawn d a b s
  | .exit => Sys2Proof.Machine.execExit s
  | .send a b => Sys2Proof.Machine.execSend a b s
  | .recv d => Sys2Proof.Machine.execRecv d s
  | .amsg a b => Sys2Proof.Machine.execAmsg a b s
  | .dlg d a b => Sys2Proof.Machine.execDlg d a b s
  | .migr a => Sys2Proof.Machine.execMigr a s
  | .lrw d a => Sys2Proof.Machine.execLrw d a s
  | .sch a b => Sys2Proof.Machine.execSch a b s
  | .rls a => Sys2Proof.Machine.execRls a s
  | .bar sc a => Sys2Proof.Machine.execBar sc a s
  | .amo op sz d a b => Sys2Proof.Machine.execAmo op sz d a b s
  | .red op sz a b => Sys2Proof.Machine.execRed op sz a b s
  | .fence sc => Sys2Proof.Machine.execFence sc s
  | .pour sc => Sys2Proof.Machine.execPour sc s
  | .fbar => Sys2Proof.Machine.execFbar s
  | .cwb a => Sys2Proof.Machine.execCwb a s
  | .cinv a => Sys2Proof.Machine.execCinv a s
  | .iinv a => Sys2Proof.Machine.execIinv a s
  | .pref a => Sys2Proof.Machine.execPref a s
  | .plbi a => Sys2Proof.Machine.execPlbi a s
  | .addm a b => Sys2Proof.Machine.execAddm a b s
  | .ldb d a b => Sys2Proof.Machine.execLdb d a b s
  | .ldbImm d a k => Sys2Proof.Machine.execLdbImm d a k s
  | .vld d a off => Sys2Proof.Machine.execVld d a off s
  | .vst d a off => Sys2Proof.Machine.execVst d a off s
  | .vlds ty mask d a b => Sys2Proof.Machine.execVlds ty mask d a b s
  | .vgath ty mask d a b => Sys2Proof.Machine.execVgath ty mask d a b s
  | .vscat ty mask d a b => Sys2Proof.Machine.execVscat ty mask d a b s
  | .vsrd ty d a => Sys2Proof.Machine.execVsrd ty d a s
  | .cpy bind d a b => Sys2Proof.Machine.execCpy bind d a b s
  | .cpy2 bind d a b => Sys2Proof.Machine.execCpy2 bind d a b s
  | .cpyg bind d a b => Sys2Proof.Machine.execCpyg bind d a b s
  | .cpyw a => Sys2Proof.Machine.execCpyw a s
  | .cpyq d a => Sys2Proof.Machine.execCpyq d a s
  | .srd ty d a => Sys2Proof.Machine.execSrd ty d a s
  | .rngi ring a => Sys2Proof.Machine.execRngi ring a s
  | .rnga ring a => Sys2Proof.Machine.execRnga ring a s
  | .rngq d ring => Sys2Proof.Machine.execRngq d ring s
  | .mxq slot sr na nb az pop d ra rb => Sys2Proof.Machine.execMxq slot sr na nb az pop d ra rb s
  | .mxw a => Sys2Proof.Machine.execMxw a s
  | .mxp d a => Sys2Proof.Machine.execMxp d a s
  | .mxz slot => Sys2Proof.Machine.execMxz slot s
  | .mxst slot a => Sys2Proof.Machine.execMxst slot a s
  | .mxr slot => Sys2Proof.Machine.execMxr slot s
  | .trap n => Sys2Proof.Machine.execTrap n s
  | .eret => Sys2Proof.Machine.execEret s
  | .park a => Sys2Proof.Machine.execPark a s
  | .gsw a => Sys2Proof.Machine.execGsw a s
  | .cont => Sys2Proof.Machine.execCont s
  | .logn => Sys2Proof.Machine.execLogn s
  | .loga a => Sys2Proof.Machine.execLoga a s
  | .mfs d r => Sys2Proof.Machine.execMfs d r s
  | .mts r a => Sys2Proof.Machine.execMts r a s
  | .coll d a => Sys2Proof.Machine.execColl d a s
  | .collw d a => Sys2Proof.Machine.execCollw d a s
  | .snap d => Sys2Proof.Machine.execSnap d s
  | .snapq d a => Sys2Proof.Machine.execSnapq d a s
  | .add d a b => Sys2Proof.Machine.execAdd d a b s
  | .sub d a b => Sys2Proof.Machine.execSub d a b s
  | .and d a b => Sys2Proof.Machine.execAnd d a b s
  | .or d a b => Sys2Proof.Machine.execOr d a b s
  | .xor d a b => Sys2Proof.Machine.execXor d a b s
  | .andn d a b => Sys2Proof.Machine.execAndn d a b s
  | .orn d a b => Sys2Proof.Machine.execOrn d a b s
  | .shl d a b => Sys2Proof.Machine.execShl d a b s
  | .shr d a b => Sys2Proof.Machine.execShr d a b s
  | .sha d a b => Sys2Proof.Machine.execSha d a b s
  | .ror d a b => Sys2Proof.Machine.execRor d a b s
  | .min d a b => Sys2Proof.Machine.execMin d a b s
  | .max d a b => Sys2Proof.Machine.execMax d a b s
  | .minz d a b => Sys2Proof.Machine.execMinz d a b s
  | .maxz d a b => Sys2Proof.Machine.execMaxz d a b s
  | .mul d a b => Sys2Proof.Machine.execMul d a b s
  | .mulh d a b => Sys2Proof.Machine.execMulh d a b s
  | .mulhz d a b => Sys2Proof.Machine.execMulhz d a b s
  | .div d a b => Sys2Proof.Machine.execDiv d a b s
  | .divz d a b => Sys2Proof.Machine.execDivz d a b s
  | .rem d a b => Sys2Proof.Machine.execRem d a b s
  | .remz d a b => Sys2Proof.Machine.execRemz d a b s
  | .clmul d a b => Sys2Proof.Machine.execClmul d a b s
  | .clmulh d a b => Sys2Proof.Machine.execClmulh d a b s
  | .clz d a => Sys2Proof.Machine.execClz d a s
  | .ctz d a => Sys2Proof.Machine.execCtz d a s
  | .popc d a => Sys2Proof.Machine.execPopc d a s
  | .brev d a => Sys2Proof.Machine.execBrev d a s
  | .bswap d a => Sys2Proof.Machine.execBswap d a s
  | .exts d a pos wm1 => Sys2Proof.Machine.execExts d a pos wm1 s
  | .extz d a pos wm1 => Sys2Proof.Machine.execExtz d a pos wm1 s
  | .ins d a pos wm1 => Sys2Proof.Machine.execIns d a pos wm1 s
  | .sel d a b c => Sys2Proof.Machine.execSel d a b c s
  | .addx d a b sh => Sys2Proof.Machine.execAddx d a b sh s
  | .cmp cc d a b => Sys2Proof.Machine.execCmp cc d a b s
  | .cmpi cc d a imm => Sys2Proof.Machine.execCmpi cc d a imm s
  | .addi d a imm => Sys2Proof.Machine.execAddi d a imm s
  | .andi d a imm => Sys2Proof.Machine.execAndi d a imm s
  | .ori d a imm => Sys2Proof.Machine.execOri d a imm s
  | .xori d a imm => Sys2Proof.Machine.execXori d a imm s
  | .shli d a n => Sys2Proof.Machine.execShli d a n s
  | .shri d a n => Sys2Proof.Machine.execShri d a n s
  | .shai d a n => Sys2Proof.Machine.execShai d a n s
  | .rori d a n => Sys2Proof.Machine.execRori d a n s
  | .li d imm => Sys2Proof.Machine.execLi d imm s
  | .lih d q v => Sys2Proof.Machine.execLih d q v s
  | .fadd ty d a b => Sys2Proof.Machine.execFadd ty d a b s
  | .fsub ty d a b => Sys2Proof.Machine.execFsub ty d a b s
  | .fmul ty d a b => Sys2Proof.Machine.execFmul ty d a b s
  | .fma ty d a b => Sys2Proof.Machine.execFma ty d a b s
  | .fms ty d a b => Sys2Proof.Machine.execFms ty d a b s
  | .fnma ty d a b => Sys2Proof.Machine.execFnma ty d a b s
  | .fdiv ty d a b => Sys2Proof.Machine.execFdiv ty d a b s
  | .fsqrt ty d a => Sys2Proof.Machine.execFsqrt ty d a s
  | .fmin ty d a b => Sys2Proof.Machine.execFmin ty d a b s
  | .fmax ty d a b => Sys2Proof.Machine.execFmax ty d a b s
  | .fsgn ty d a b => Sys2Proof.Machine.execFsgn ty d a b s
  | .fclass ty d a => Sys2Proof.Machine.execFclass ty d a s
  | .fcmp ty cc d a b => Sys2Proof.Machine.execFcmp ty cc d a b s
  | .fcvt dst src d a => Sys2Proof.Machine.execFcvt dst src d a s
  | .fcvti src it rm d a => Sys2Proof.Machine.execFcvti src it rm d a s
  | .fcvtf dst it d a => Sys2Proof.Machine.execFcvtf dst it d a s
  | .vadd ty mask d a b => Sys2Proof.Machine.execVadd ty mask d a b s
  | .vsub ty mask d a b => Sys2Proof.Machine.execVsub ty mask d a b s
  | .vmul ty mask d a b => Sys2Proof.Machine.execVmul ty mask d a b s
  | .vfma ty mask d a b => Sys2Proof.Machine.execVfma ty mask d a b s
  | .vmin ty mask d a b => Sys2Proof.Machine.execVmin ty mask d a b s
  | .vmax ty mask d a b => Sys2Proof.Machine.execVmax ty mask d a b s
  | .vand ty mask d a b => Sys2Proof.Machine.execVand ty mask d a b s
  | .vor ty mask d a b => Sys2Proof.Machine.execVor ty mask d a b s
  | .vxor ty mask d a b => Sys2Proof.Machine.execVxor ty mask d a b s
  | .vshl ty mask d a b => Sys2Proof.Machine.execVshl ty mask d a b s
  | .vshr ty mask d a b => Sys2Proof.Machine.execVshr ty mask d a b s
  | .vdot ty mask d a b => Sys2Proof.Machine.execVdot ty mask d a b s
  | .vsel ty mask d a b => Sys2Proof.Machine.execVsel ty mask d a b s
  | .vperm ty mask d a b => Sys2Proof.Machine.execVperm ty mask d a b s
  | .vcmp cc ty mask d a b => Sys2Proof.Machine.execVcmp cc ty mask d a b s
  | .vred op ty mask d a => Sys2Proof.Machine.execVred op ty mask d a s
  | .vexp2 ty mask d a => Sys2Proof.Machine.execVexp2 ty mask d a s
  | .vrcp ty mask d a => Sys2Proof.Machine.execVrcp ty mask d a s
  | .vrsq ty mask d a => Sys2Proof.Machine.execVrsq ty mask d a s
  | .vcvt dst src mask d a => Sys2Proof.Machine.execVcvt dst src mask d a s
  | .vbcast ty d a => Sys2Proof.Machine.execVbcast ty d a s
  | .vmovg ty d a lane => Sys2Proof.Machine.execVmovg ty d a lane s
  | .mand d a b => Sys2Proof.Machine.execMand d a b s
  | .mor d a b => Sys2Proof.Machine.execMor d a b s
  | .mnot d a => Sys2Proof.Machine.execMnot d a s
  | .mpop d a => Sys2Proof.Machine.execMpop d a s
  | .memoryReply r v => Sys2Proof.Machine.execMemoryReply r v s
  | .registerDelivery m => Sys2Proof.Machine.execRegisterDelivery m s
  | .launchRecord p slot => Sys2Proof.Machine.execLaunchRecord p slot s
  | .packetExpansion p => Sys2Proof.Machine.execPacketExpansion p s
  | .packetDispatch p k => Sys2Proof.Machine.execPacketDispatch p k s
  | .packetAging p k q => Sys2Proof.Machine.execPacketAging p k q s
  | .doneWrite p rec => Sys2Proof.Machine.execDoneWrite p rec s
  | .migration r => Sys2Proof.Machine.execMigration r s
  | .migrationArrival r => Sys2Proof.Machine.execMigrationArrival r s
  | .activeMessageArrival p c m => Sys2Proof.Machine.execActiveMessageArrival p c m s
  | .serverRunStart p c => Sys2Proof.Machine.execServerRunStart p c s
  | .feHomeOperation p q => Sys2Proof.Machine.execFeHomeOperation p q s
  | .feListServe p key => Sys2Proof.Machine.execFeListServe p key s
  | .sendArrival p c m => Sys2Proof.Machine.execSendArrival p c m s
  | .sendRetry p c m => Sys2Proof.Machine.execSendRetry p c m s
  | .ringBufferDrain p c => Sys2Proof.Machine.execRingBufferDrain p c s
  | .lrwRetry p sl => Sys2Proof.Machine.execLrwRetry p sl s
  | .remoteUpdate p c => Sys2Proof.Machine.execRemoteUpdate p c s
  | .addmPerform p c => Sys2Proof.Machine.execAddmPerform p c s
  | .sreq p h line dom => Sys2Proof.Machine.execSreq p h line dom s
  | .sgnt p h line dom share => Sys2Proof.Machine.execSgnt p h line dom share s
  | .pourMessage p h line dom data g colour more => Sys2Proof.Machine.execPourMessage p h line dom data g colour more s
  | .pack p h line dom added => Sys2Proof.Machine.execPack p h line dom added s
  | .fpr p h line dom => Sys2Proof.Machine.execFpr p h line dom s
  | .fpd p h line dom data g colour => Sys2Proof.Machine.execFpd p h line dom data g colour s
  | .srev p h line dom => Sys2Proof.Machine.execSrev p h line dom s
  | .sret p h line dom data g colour share => Sys2Proof.Machine.execSret p h line dom data g colour share s
  | .tadd p h line dom off a => Sys2Proof.Machine.execTadd p h line dom off a s
  | .tack p h line dom => Sys2Proof.Machine.execTack p h line dom s
  | .boundedLoad p q => Sys2Proof.Machine.execBoundedLoad p q s
  | .colourPour p h line => Sys2Proof.Machine.execColourPour p h line s
  | .copyBeat p k => Sys2Proof.Machine.execCopyBeat p k s
  | .copyComplete p c => Sys2Proof.Machine.execCopyComplete p c s
  | .matrixJobPick p k => Sys2Proof.Machine.execMatrixJobPick p k s
  | .matrixGroup p k => Sys2Proof.Machine.execMatrixGroup p k s
  | .matrixJobComplete p k => Sys2Proof.Machine.execMatrixJobComplete p k s
  | .mxstExecute p k => Sys2Proof.Machine.execMxstExecute p k s
  | .recordWriteDone p index => Sys2Proof.Machine.execRecordWriteDone p index s
  | .scrubComplete r => Sys2Proof.Machine.execScrubComplete r s
  | .deliveryRetry m => Sys2Proof.Machine.execDeliveryRetry m s
  | .syshRun p c => Sys2Proof.Machine.execSyshRun p c s
  | .gangSwitch p => Sys2Proof.Machine.execGangSwitch p s
  | .coreDrained p c => Sys2Proof.Machine.execCoreDrained p c s
  | .worldExchange p => Sys2Proof.Machine.execWorldExchange p s
  | .gangResume p => Sys2Proof.Machine.execGangResume p s
  | .dumpComplete p => Sys2Proof.Machine.execDumpComplete p s
  | .lognWatchdog r => Sys2Proof.Machine.execLognWatchdog r s
  | .resetWipe p => Sys2Proof.Machine.execResetWipe p s
  | .resetComplete p => Sys2Proof.Machine.execResetComplete p s
  | .remoteRequest q => Sys2Proof.Machine.execRemoteRequest q s
  | .remoteErrorReply r tid => Sys2Proof.Machine.execRemoteErrorReply r tid s
  | .collContribution p m => Sys2Proof.Machine.execCollContribution p m s
  | .collComplete p id => Sys2Proof.Machine.execCollComplete p id s
  | .collTimeout p id => Sys2Proof.Machine.execCollTimeout p id s
  | .marker p m => Sys2Proof.Machine.execMarker p m s
  | .capturePulse p => Sys2Proof.Machine.execCapturePulse p s
  | .snapshotCut p => Sys2Proof.Machine.execSnapshotCut p s
  | .captureResume p => Sys2Proof.Machine.execCaptureResume p s
  | .pageCopy p page => Sys2Proof.Machine.execPageCopy p page s
  | .snapshotWriter p => Sys2Proof.Machine.execSnapshotWriter p s
  | .snapshotNotice p srcMod src n ok => Sys2Proof.Machine.execSnapshotNotice p srcMod src n ok s
  | .restoreComplete p => Sys2Proof.Machine.execRestoreComplete p s
  | .lifeCycleWipeComplete p => Sys2Proof.Machine.execLifeCycleWipeComplete p s
  | .hostAccess p t op => Sys2Proof.Machine.execHostAccess p t op s
  | .linkInterval p => Sys2Proof.Machine.execLinkInterval p s
  | .syncRecord p c => Sys2Proof.Machine.execSyncRecord p c s
  | .forwardedRead p c line => Sys2Proof.Machine.execForwardedRead p c line s
  | .invalidation p c line => Sys2Proof.Machine.execInvalidation p c line s
  | .l1Eviction p c line => Sys2Proof.Machine.execL1Eviction p c line s
  | .sliceEviction p line => Sys2Proof.Machine.execSliceEviction p line s
  | .getS p c line dom => Sys2Proof.Machine.execGetS p c line dom s
  | .getM p c line dom sector => Sys2Proof.Machine.execGetM p c line dom sector s
  | .walk p va => Sys2Proof.Machine.execWalk p va s
  | .ptclrWrite p frame => Sys2Proof.Machine.execPtclrWrite p frame s
  | .l2Uncorrectable p line corr => Sys2Proof.Machine.execL2Uncorrectable p line corr s
  | .sectorPin p line readable => Sys2Proof.Machine.execSectorPin p line readable s
  | .shellAckTimeout p c => Sys2Proof.Machine.execShellAckTimeout p c s
  | .coreFailed p c => Sys2Proof.Machine.execCoreFailed p c s
  | .steepDisable p => Sys2Proof.Machine.execSteepDisable p s
  | .matrixPoison p k => Sys2Proof.Machine.execMatrixPoison p k s
  | .accrclWrite p k slots => Sys2Proof.Machine.execAccrclWrite p k slots s
  | .tqheadWrite p v => Sys2Proof.Machine.execTqheadWrite p v s
  | .tqbaseWrite p v => Sys2Proof.Machine.execTqbaseWrite p v s
  | .wakeResume p tid => Sys2Proof.Machine.execWakeResume p tid s
  | .wakeKillThread p tid => Sys2Proof.Machine.execWakeKillThread p tid s
  | .wakeKillContext p ctx => Sys2Proof.Machine.execWakeKillContext p ctx s
  | .wakeUnservable p tid => Sys2Proof.Machine.execWakeUnservable p tid s
  | .tbindBind p c v => Sys2Proof.Machine.execTbindBind p c v s
  | .tbindUnbind p c v => Sys2Proof.Machine.execTbindUnbind p c v s
  | .logvioWrite p c v => Sys2Proof.Machine.execLogvioWrite p c v s
  | .uncorrectableError e => Sys2Proof.Machine.execUncorrectableError e s
  | .relctlPrst p => Sys2Proof.Machine.execRelctlPrst p s
  | .partitionReset p => Sys2Proof.Machine.execPartitionReset p s
  | .destinationUnreachable modid part => Sys2Proof.Machine.execDestinationUnreachable modid part s
  | .snaprstGo p v => Sys2Proof.Machine.execSnaprstGo p v s
  | .getVersion sess => Sys2Proof.Machine.execGetVersion sess s
  | .getCapabilities sess => Sys2Proof.Machine.execGetCapabilities sess s
  | .negotiateAlgorithms sess => Sys2Proof.Machine.execNegotiateAlgorithms sess s
  | .getDigests sess => Sys2Proof.Machine.execGetDigests sess s
  | .getCertificate sess => Sys2Proof.Machine.execGetCertificate sess s
  | .challenge sess nonce => Sys2Proof.Machine.execChallenge sess nonce s
  | .getMeasurements sess p index => Sys2Proof.Machine.execGetMeasurements sess p index s
  | .keyExchange sess => Sys2Proof.Machine.execKeyExchange sess s
  | .finish sess => Sys2Proof.Machine.execFinish sess s
  | .endSession sess => Sys2Proof.Machine.execEndSession sess s
  | .vendorDefinedRequest sess p modid part => Sys2Proof.Machine.execVendorDefinedRequest sess p modid part s
  | .getTdispVersion sess p => Sys2Proof.Machine.execGetTdispVersion sess p s
  | .getTdispCapabilities sess p => Sys2Proof.Machine.execGetTdispCapabilities sess p s
  | .lockInterfaceRequest sess p => Sys2Proof.Machine.execLockInterfaceRequest sess p s
  | .getDeviceInterfaceReport sess p => Sys2Proof.Machine.execGetDeviceInterfaceReport sess p s
  | .getDeviceInterfaceState sess p => Sys2Proof.Machine.execGetDeviceInterfaceState sess p s
  | .startInterfaceRequest sess p => Sys2Proof.Machine.execStartInterfaceRequest sess p s
  | .stopInterfaceRequest sess p => Sys2Proof.Machine.execStopInterfaceRequest sess p s
  | .configChange p fw => Sys2Proof.Machine.execConfigChange p fw s
  | .perfctlPreset p v => Sys2Proof.Machine.execPerfctlPreset p v s
  | .clockThrottle lower => Sys2Proof.Machine.execClockThrottle lower s
  | .powerOnReset => Sys2Proof.Machine.execPowerOnReset s
  | .partitionInService p linksTrained => Sys2Proof.Machine.execPartitionInService p linksTrained s
  | .scrubPass p => Sys2Proof.Machine.execScrubPass p s
  | .idranRegisterAccess p c r v => Sys2Proof.Machine.execIdranRegisterAccess p c r v s
  | .corePowerGating p c gate => Sys2Proof.Machine.execCorePowerGating p c gate s
  | .pcntWrap p c n => Sys2Proof.Machine.execPcntWrap p c n s
  | .traceTimeCondition p c => Sys2Proof.Machine.execTraceTimeCondition p c s

end Sys2Proof.Machine
end

