-- ==== Sys2Proof/Machine/Issue.lean ====
section
/-! DEFINITION. The barrel: which thread of a core issues in a cycle (08 R121, 10 R173, 21 R329), how its bundle runs (01 R14 to R18), and
how bundles that wait come to their end (R25, R137). -/
namespace Sys2Proof.Machine

/-! ## Which threads may issue -/

/-- Cores of the partition issue: it serves, no gang switch is under way (R321), and no capture drains it (R387). -/
def Partition.issues (q : Partition) : Bool :=
  q.serves && q.gang == .idle && q.snap.phase != .drain && q.snap.phase != .cut

/-- The thread's next bundle holds a vector arithmetic word, and the core's vector unit took one in the preceding cycle (R173). The scan of R121
goes on past it, whatever that makes it wait. DESIGN CHOICE (log 89). -/
def vectorHeld (s : State) (r : TRef) (t : Thread) : Bool :=
  match (s.core r.part r.core).c.vecAt with
  | some n =>
    decide (s.cycle ≤ n + 1) &&
    (match fetchBundle s r t with
     | .ok (_, ws, _) => ws.any isVectorWord
     | .error _ => false)
  | none => false

/-- The notice of a failed delegation that the thread's next issue takes (R159); one that comes before its handler is left waits for that. DESIGN
CHOICE (log 82). -/
def Thread.noticeDue (t : Thread) : Option Word := if t.active then none else t.delegFailed.head?

/-- The thread waits for nothing but registers, which are full (R14, R21), or whose delivery has failed: the fault of R159 stands in for
the issue of the bundle that waits for them. -/
def regsReady (t : Thread) : Bool :=
  match t.wait with
  | none => true
  | some (.regs rs) => t.noticeDue.isSome || rs.all (fun i => t.regs.full[i])
  | some _ => false

/-- What holds back the bundle of a thread that could issue: the lag limit or an unbinding of its core (R328, R329), the vector unit (R173), a
full queue (R265). -/
def bundleHeld (s : State) (r : TRef) (t : Thread) : Bool :=
  (s.watched r.part r.core && (lagHeld s r.part r.core || unbinding s r.part r.core)) || vectorHeld s r t || queueHeld s r t

/-- A thread is eligible (R121, R173, R328, R329, R383), or a cause parks it at this point, its next issue (R325, R336, R338, R359). -/
def eligible (s : State) (r : TRef) (t : Thread) : Bool :=
  !t.parked && t.dropped.isNone && t.migrate.isNone && regsReady t && decide (t.readyAt ≤ s.cycle) &&
  !(s.part r.part).snap.issuers.contains t.tid && (t.parkAt.isSome || !bundleHeld s r t)

/-- The slots of a core in the order of the scan (R121). -/
def scanOrder (last : Nat) : List SlotId := (List.range 16).map (fun i => Fin.ofNat 16 (last + 1 + i))

/-- The thread that the barrel issues. -/
def barrelPick (s : State) (p : PartId) (c : CoreId) : Option (TRef × Thread) :=
  (scanOrder (s.core p c).w.lastSlot).findSome? (fun sl =>
    match s.thread ⟨p, c, sl⟩ with
    | some t => if eligible s ⟨p, c, sl⟩ t then some (⟨p, c, sl⟩, t) else none
    | none => none)

/-! ## Which waits may end -/

/-- The bundle of a thread out of the rotation may go on (R137): what it waits for may have come. DEDUCED (log 17). DESIGN CHOICE (log 27). -/
def waitOver (s : State) (r : TRef) (t : Thread) : Wait → Bool
  | .regs _ | .reply => false
  | .fence sc => fenceMet s r t sc
  | .ack seq => seqGe (s.ackOf r.part (s.core r.part r.core).w.tbind) seq || !s.watched r.part r.core || t.parkAt.isSome
  | .recv since => (s.core r.part r.core).w.rxHead != (s.core r.part r.core).w.rxTail && !recvBehind s r since
  | .copy seq => !seqPending (s.core r.part r.core).w.copyNext (s.core r.part r.core).w.copyDone seq
  | .matrix seq => !seqPending (s.core r.part r.core).w.mxNext (s.core r.part r.core).w.mxDone seq
  | .coll seq => !(s.part r.part).colls.any (fun c => c.seq.toNat == seq)
  | .record =>
    match workerOf s r.part r.core with
    | some wc => (nextRecord s r.part (s.core r.part wc).w).isSome
    | none => false
  | .stamp core seq _ => seqGe (s.core r.part core).w.logseq.toNat seq
  | .unbind => !s.watched r.part r.core || logDrained s r.part r.core
  | .late due => decide (due ≤ s.cycle)
  | .pours _ | .pack _ | .mxr _ | .ringFree _ | .queue | .stream _ _ | .page _ | .inject => true

/-- Cores of the partition drain (R321, R387). -/
def Partition.draining (q : Partition) : Bool := q.serves && (q.gang == .draining || q.snap.phase == .drain)

/-- A containment wait, which is looked at after every other (R334, R354). -/
def Wait.isAck : Wait → Bool
  | .ack _ => true
  | _ => false

/-- A thread whose wait, at a containment point or elsewhere, may end in this cycle: a parked thread's bundle has issued, and goes on too
(R350). While nothing issues, only the waits that a drain completes go on. DEDUCED (log 17). -/
def pollable (s : State) (r : TRef) (acks : Bool) : Option Thread :=
  match s.thread r with
  | some t =>
    match t.wait with
    | some w =>
      if w.isAck == acks && t.dropped.isNone && ((s.part r.part).issues || w.drains) && waitOver s r t w then some t else none
    | none => none
  | none => none

/-! ## Running a bundle -/

/-- A word that operates on memory (R21). DEDUCED (log 28). -/
def isMemoryWord : Instr → Bool
  | .ldS8 _ _ _ | .ldS16 _ _ _ | .ldS32 _ _ _ | .ldS64 _ _ _ | .ldZ8 _ _ _ | .ldZ16 _ _ _ | .ldZ32 _ _ _ | .ldx _ _ _ _ => true
  | .st8 _ _ _ | .st16 _ _ _ | .st32 _ _ _ | .st64 _ _ _ | .stx _ _ _ _ => true
  | .lds _ _ _ | .ldsk _ _ _ | .sts _ _ _ | .stf _ _ _ | .clre _ _ | .lrw _ _ | .sch _ _ | .rls _ | .bar _ _ => true
  | .amo _ _ _ _ _ | .red _ _ _ _ | .addm _ _ | .ldb _ _ _ | .ldbImm _ _ _ | .dlg _ _ _ => true
  | .fence _ | .fbar | .pour _ | .cwb _ | .cinv _ | .iinv _ | .pref _ | .vsrd _ _ _ => true
  | .vld _ _ _ | .vst _ _ _ | .vgath _ _ _ _ _ | .vscat _ _ _ _ _ | .vlds _ _ _ _ _ => true
  | _ => false

def isBlk : Instr → Bool
  | .blk _ _ => true
  | _ => false

/-- The control word of a bundle, or its only word. -/
def Bundle.head : Bundle → Instr
  | .lone i => i
  | .pair c _ => c

/-- What runs: the thread, the bundle's size and words, and where its words stand. -/
def Bundle.cur (b : Bundle) (r : TRef) (ws : List (BitVec 32)) : Cur :=
  { at_ := r, size := b.size, words := ws, phase := (match b with
      | .lone _ => .first
      | .pair _ _ => .second), hold := Commit.none }

/-- The words of a bundle execute: the arithmetic word computes first and its commit is held until the control word completes (R18). DEDUCED (log 15). -/
def runBundle (b : Bundle) (r : TRef) (ws : List (BitVec 32)) (s : State) : Out :=
  let s := { s with cur := b.cur r ws }
  match b with
  | .lone i => exec i s
  | .pair c a =>
    match exec a s with
    | .next s => if s.cur.phase = .held then exec c s else .next s
    | o => o

/-- Entries of the engines' queues that a core can fill. DEDUCED (log 28). -/
def queued (s : State) (r : TRef) : Nat :=
  (s.core r.part r.core).w.copyQ.length + (s.core r.part r.core).w.mxQ.length + (s.part r.part).colls.length

/-- A bundle runs, with the trace record of an enqueue (R418). -/
def runThread (b : Bundle) (r : TRef) (t : Thread) (ws : List (BitVec 32)) (s : State) : Out :=
  match runBundle b r ws s with
  | .next s' => .next (if queued s r < queued s' r then s'.traceRec r 4 t.pc t.corr else s')
  | o => o

/-- What an issue counts and traces (R412, R416, R418). DEDUCED (log 16). -/
def noteIssue (b : Bundle) (r : TRef) (t : Thread) (ws : List (BitVec 32)) (s : State) : State :=
  let s := s.count r.part r.core 2 (some r.slot) 1
  let s := if ws.any isVectorWord then
      (s.count r.part r.core 9 (some r.slot) 1).modCoreC r.part r.core (fun k => { k with vecAt := some s.cycle })
    else s
  let s := if t.pc = (s.core r.part r.core).c.trcpc then s.traceSlotCond r 2 else s
  let s := if isMemoryWord b.head then s.traceRec r 2 t.pc t.corr else s
  if isBlk b.head then s.traceRec r 5 t.pc t.corr else s

/-- The barrel has used the core's turn in this cycle. DEDUCED (log 16). -/
def turnUsed (s : State) (r : TRef) : State :=
  (s.modCoreC r.part r.core (fun k => { k with issuedAt := some s.cycle })).modCoreW r.part r.core
    (fun w => { w with lastSlot := r.slot.val })

/-- The place of a core's barrel in the order of a cycle, and that of a slot's wait, elsewhere or at a containment point. -/
def placeOf (p : PartId) (c : CoreId) : Nat := 272 * p.val + c.val
def waitPlace (acks : Bool) (r : TRef) : Nat := 4352 + (if acks then 69632 else 0) + 16 * placeOf r.part r.core + r.slot.val

/-- A watched thread meets the capture's containment point at its next issue (R387): MARK of kind 4. -/
def takeMark (s : State) (r : TRef) (t : Thread) : State :=
  match passPoint s r t 4 with
  | .ok s => s.modThread r (fun t => { t with captured := true, mark := none })
  | .error (.wait w s) => waitThread s r w
  | .error _ => s

/-- Words of one cycle that are performed in the order of their cores and slots, those among them that have waited (R294, R353): they run with the
waits of the cycle. -/
def takesOrder : Instr → Bool
  | .rnga _ _ | .logn => true
  | _ => false

/-- The synchronised reads of a bundle (R14). -/
def bundleSrcs : Bundle → List Src
  | .lone i => instrSrcs i
  | .pair c a => instrSrcs c ++ instrSrcs a

/-- A thread's turn: what R325 and R159 left for its next issue, the capture's containment point, or its bundle, fetched, framed and, once
every register that it reads synchronously is full, issued (R14, R49). A turn that issues nothing leaves the scan at its place; a fault of the
fetch or the framing uses the turn, and the handler's first bundle comes 8 cycles after it. DEDUCED (log 16). -/
def issue (s : State) (r : TRef) (t : Thread) : Out :=
  let next := placeOf r.part r.core + 1
  match t.parkAt, t.noticeDue with
  | some code, _ => .next (parkAtIssue s r code)
  | none, some a =>
    let s := s.modThread r (fun t => { t with delegFailed := t.delegFailed.drop 1, wait := none, latch := none, readyAt := s.cycle + 8 })
    .next (takeTrap { turnUsed s r with scan := next } r .delegation (some a))
  | none, none =>
    if (s.part r.part).snap.phase == .contain && s.watched r.part r.core && !t.captured then .next (takeMark s r t)
    else
      match fetchBundle s r t with
      | .error (.wait _ s) => .next (s.modThread r (fun t => { t with readyAt := s.cycle + 1 }))
      | .error x => .next (settle ((Bundle.lone .exit).cur r []) (match x with
        | .trap k a s => .trap k a { turnUsed (s.modThread r (fun t => { t with readyAt := s.cycle + 8 })) r with scan := next }
        | .drop q s => .drop q { turnUsed s r with scan := next }
        | x => x))
      | .ok (b, ws, s) =>
        let e := emptyRegs { t with latch := none } (syncRegs (bundleSrcs b))
        if !e.isEmpty then .next (s.modThread r (fun t => { t with wait := some (.regs e), latch := none }))
        else
          let s := noteIssue b r t ws { turnUsed s r with scan := next }
          let s := s.modThread r (fun t => { t with
            wait := none, latch := none, readyAt := s.cycle + 8, issued := ws, issuedIn := s.cycle })
          if takesOrder b.head then .next (waitThread s r (.late s.cycle)) else runThread b r t ws s

/-- A waiting bundle goes on with the sources of its issue (R17, R25). A thread held at the capture's containment point is released; one that
a violation or the loss of its taster parks at a containment point is parked there (R338, R342). DEDUCED (log 17). -/
def resume (s : State) (r : TRef) (t : Thread) : Out :=
  let s := { s with scan := waitPlace (t.wait.any Wait.isAck) r + 1 }
  let s := s.modThread r (fun t => { t with readyAt := Nat.max t.readyAt (s.cycle + 1) })
  match t.wait, t.parkAt, t.mark with
  | some (.ack _), some code, _ => .next (parkAtIssue s r code)
  | some (.ack _), none, some (4, _) =>
    .next (s.modThread r (fun t => { t with wait := none, latch := none, mark := none, captured := true }))
  | _, _, _ =>
    match frame t.pc (t.issued.headD 0) ((t.issued.drop 1).headD 0) with
    | .ok (b, ws) => runThread b r t ws s
    | .error _ => .next (s.modThread r (fun t => { t with wait := none, latch := none }))

/-! ## The order of a cycle -/

/-- What is next in a cycle. -/
inductive Work where
  | wait (r : TRef) (t : Thread)
  | turn (r : TRef) (t : Thread)

/-- The first work that some core of the module has, cores in ascending order: only cores at work, of partitions that issue or drain. -/
def firstCore (s : State) (f : PartId → CoreId → Option Work) : Option Work :=
  allParts.findSome? (fun p =>
    if (s.part p).issues || (s.part p).draining then
      (s.part p).coreIds.findSome? (fun c => if (s.core p c).c.failed || (s.core p c).c.gated then none else f p c)
    else none)

/-- The next turn of a barrel. DESIGN CHOICE (log 5). -/
def turnWork (s : State) (p : PartId) (c : CoreId) : Option Work :=
  if (s.part p).issues ∧ s.scan ≤ placeOf p c then (barrelPick s p c).map (fun e => Work.turn e.1 e.2) else none

/-- The next wait that may end, elsewhere or at a containment point. -/
def waitWork (s : State) (acks : Bool) (p : PartId) (c : CoreId) : Option Work :=
  (allSlots.filter (fun sl => decide (s.scan ≤ waitPlace acks ⟨p, c, sl⟩))).findSome? (fun sl =>
    (pollable s ⟨p, c, sl⟩ acks).map (fun t => Work.wait ⟨p, c, sl⟩ t))

/-- What is next in this cycle: the barrels' turns, then the waits, then the waits at containment points, each in ascending order of cores.
DESIGN CHOICE (log 5). -/
def nextWork (s : State) : Option Work :=
  match firstCore s (turnWork s) with
  | some x => some x
  | none =>
    match firstCore s (waitWork s false) with
    | some x => some x
    | none => firstCore s (waitWork s true)

/-- A piece of work done. -/
def doWork (s : State) : Work → Out
  | .wait r t => resume s r t
  | .turn r t => issue s r t

end Sys2Proof.Machine
end

