-- ==== Sys2Proof/Machine/Cycle.lean ====
section
/-! DEFINITION. The passage of a cycle: what the counters count in it (28 R411, R412), the trace units, the steps that fall due, and the
engines' and the partition's own actions that the next cycle enables; and the order in which everything is stepped. -/
namespace Sys2Proof.Machine

/-! ## The end of a cycle -/

/-- The queue head of a core is not ready (R267, R412 code 13). -/
def headHeld (s : State) (p : PartId) (c : CoreId) : Bool :=
  match clusterOf c with
  | some k =>
    (match mxHead s p k c with
     | some e => !entryReady (s.cluster p k).w e
     | none => false)
  | none => false

/-- The thread awaits a memory reply: its bundle holds a word that operates on memory, and waits for a reply, for a way or for the copier
(R412 code 4). DEDUCED (log 28). -/
def awaitsMemory (t : Thread) : Bool :=
  (match t.wait with
   | some .reply | some .queue | some (.page _) => true
   | _ => false) &&
  (match frame t.pc (t.issued.headD 0) ((t.issued.drop 1).headD 0) with
   | .ok (b, _) => isMemoryWord b.head
   | .error _ => false)

/-- What a cycle counts for a thread: a memory reply awaited, a lag-limit stall, a containment wait (R412 codes 4, 15, 16). -/
def countThread (s : State) (r : TRef) (t : Thread) : State :=
  let s := if awaitsMemory t then s.count r.part r.core 4 (some r.slot) 1 else s
  let s := if s.watched r.part r.core && t.wait.isNone && !t.parked && t.dropped.isNone && lagHeld s r.part r.core
    then s.count r.part r.core 15 (some r.slot) 1 else s
  match t.wait with
  | some (.ack _) => s.count r.part r.core 16 (some r.slot) 1
  | _ => s

/-- What a cycle counts in a core (R412 codes 1, 3, 13). -/
def countCore (s : State) (p : PartId) (c : CoreId) : State :=
  let s := s.count p c 1 none 1
  let s := if (s.core p c).c.issuedAt = some s.cycle then s else s.count p c 3 none 1
  let s := if headHeld s p c then s.count p c 13 none 1 else s
  (slotThreads p c (s.core p c).w.slots).foldl (fun s e => countThread s e.1 e.2) s

/-- One event counted in the world of the cores that nothing has touched (R411). -/
def idleCount (w : CoreWorld) (code : Nat) : CoreWorld :=
  (([0, 1, 2, 3] : List (Fin 4)).filter (fun i => counts w i code none)).foldl (fun (w : CoreWorld) (i : Fin 4) => { w with
    pcnt := w.pcnt.set i (addCount w.pcnt[i] 1) }) w

/-- A cycle of the cores that nothing has touched: it passes with no eligible slot. -/
def countIdle (q : Partition) : Partition := { q with idleCore := { q.idleCore with w := idleCount (idleCount q.idleCore.w 1) 3 } }

/-- Each bank of a scratchpad has served in this cycle the engine, or else the oldest request that waits at it (R195, R276). -/
def freeBanks (q : Partition) : Partition :=
  { q with clusters := kmapVals (fun _ (k : Cluster) => { k with w := { k.w with
      banks := [], bankEng := [],
      bankQ := (kmapVals (fun b l => if k.w.bankEng.contains b then l else l.drop 1) k.w.bankQ).filter (fun e => !e.2.isEmpty) } }) q.clusters }

/-- A partition's cores at the end of a cycle, with the slots that it has freed (R137) and the trap queue's turn (R318). -/
def endPart (s : State) (p : PartId) : State :=
  if (s.part p).inService && (s.part p).rst == .none then
    let s := if s.counting p then s.modPart p countIdle else s
    let s := (s.part p).coreIds.foldl (fun s c => traceCore (countCore s p c) p c) s
    freeSlots ((if (s.part p).tdisp == .error then s else queueTurn s p).modPart p freeBanks) p
  else s

/-! ## What a cycle enables -/

/-- The clusters of the cores that something has touched. -/
def touchedClusters (q : Partition) : List ClusterId := (q.coreIds.filterMap clusterOf).eraseDups

/-- Beats, picks and packets that may begin: not in a drain (R321, R387). -/
def Partition.starts (q : Partition) : Bool := q.gang == .idle && q.snap.phase != .drain && q.snap.phase != .cut

/-- The copy units move a beat in each cycle, after the cores have come to the scratchpads' banks (R266, R276). -/
def beatSteps (s : State) (p : PartId) : List Instr :=
  let q := s.part p
  if q.inService && q.rst == .none && q.serves && q.starts then
    ((touchedClusters q).filter (fun k => match (s.cluster p k).w.copyDue with
      | some (_, n) => decide (n ≤ s.cycle)
      | none => (clusterCores k).any (fun c => (copyReady s p c).isSome))).map (fun k => .copyBeat p k)
  else []

/-- Finished copies complete in order (R266). -/
def copySteps (s : State) (p : PartId) : List Instr :=
  let q := s.part p
  (q.coreIds.filter (fun c => ((s.core p c).w.copyQ.head?.any (fun j => j.finished)))).map (fun c => .copyComplete p c)

/-- The updates of bank cores that may reach their queue or run (R166). -/
def updateSteps (s : State) (p : PartId) : List Instr :=
  let q := s.part p
  ((q.coreIds.flatMap (fun c => (s.core p c).w.outQ.map (fun x => bankCore (homeSlice x.line)))) ++
    q.coreIds.filter (fun c => !(s.core p c).w.updateQ.isEmpty && (freeGeneral (s.core p c).w).isSome)).eraseDups.map
      (fun c => .remoteUpdate p c)

/-- A matrix engine enters a group in each arithmetic cycle, and completes jobs when they are due (R275). -/
def groupSteps (s : State) (p : PartId) : List Instr :=
  (s.part p).clusters.flatMap (fun e =>
    if h : e.1 < 32 then
      (if e.2.w.run.isSome && s.cycle % 2 == 0 then [.matrixGroup p ⟨e.1, h⟩] else []) ++
      (if e.2.w.drain.head?.any (fun x => decide (x.due ≤ s.cycle)) then [.matrixJobComplete p ⟨e.1, h⟩] else [])
    else [])

/-- An idle engine picks the next ready head (R267). -/
def pickSteps (s : State) (p : PartId) : List Instr :=
  ((touchedClusters (s.part p)).filter (fun k =>
    (s.cluster p k).w.run.isNone && (s.cluster p k).w.storing.isNone && (nextCore s p k).isSome)).map (fun k => .matrixJobPick p k)

/-- The dispatcher's steps: expansion, dispatch where a queue and a slot allow it, and aging (R128, R134, R135). -/
def dispatchSteps (s : State) (p : PartId) : List Instr :=
  let q := s.part p
  (if q.expansion.isEmpty then [] else [.packetExpansion p]) ++
  q.clusters.flatMap (fun e =>
    if h : e.1 < 32 then
      let k : ClusterId := ⟨e.1, h⟩
      (if (firstQueue s p k).isSome && (roomiestCore s p k).isSome && !e.2.outOfService then [.packetDispatch p k] else []) ++
      (([1, 2, 3] : List (Fin 4)).filter (fun n => agingDue s p k n)).map (fun n => .packetAging p k n)
    else [])

/-- Stamp waits longer than RELCTL.WD cycles (R335). -/
def watchdogSteps (s : State) (p : PartId) : List Instr :=
  let wd := field (s.part p).r.relctl 0 32
  if wd = 0 then []
  else (s.threads p).filterMap (fun e => match e.2.wait with
    | some (.stamp _ _ since) => if since + wd < s.cycle && !e.2.parked then some (.lognWatchdog e.1) else none
    | _ => none)

/-- A gang switch begins at a tick, before anything else happens in it: counting stops in cycle 0 (R321, R413). -/
def gangStarts (s : State) (p : PartId) (tick : Bool) : List Instr :=
  let q := s.part p
  if q.inService && q.rst == .none && q.serves && q.gang == .idle && tick && q.r.gswt != 0 && decide (q.r.gswt.toNat ≤ s.tstamp) &&
    q.snap.phase == .idle then [.gangSwitch p] else []

/-- The gang switch's further steps (R321): cores report, worlds are exchanged, and the cores resume at a tick. -/
def gangSteps (s : State) (p : PartId) (tick : Bool) : List Instr :=
  let q := s.part p
  match q.gang with
  | .idle => []
  | .draining =>
    (q.coreIds.filter (fun c => coreReady s p c && !q.ready.contains c)).map (fun c => .coreDrained p c) ++
    (if q.coreIds.all (fun c => q.ready.contains c) && enginesReady q then [.worldExchange p] else [])
  | .saved | .restored => if tick then [.gangResume p] else []

/-- The capture pulse's steps (R387). -/
def captureSteps (s : State) (p : PartId) : List Instr :=
  match (s.part p).snap.phase with
  | .idle => []
  | .contain => if contained s p then [.capturePulse p] else []
  | .drain => [.snapshotCut p]
  | .cut => [.captureResume p]

/-- The steps of a partition that a cycle enables. -/
def partSteps (s : State) (p : PartId) (tick : Bool) : List Instr :=
  let q := s.part p
  if !q.inService || q.rst != .none then []
  else
    (if q.serves then
      (if q.starts then copySteps s p ++ pickSteps s p ++ dispatchSteps s p else []) ++ groupSteps s p ++ updateSteps s p ++
      watchdogSteps s p ++ (q.colls.filter (fun c => collLate s c)).map (fun c => .collTimeout p c.seq) ++
      gangSteps s p tick ++ captureSteps s p
     else []) ++
    (if linkDue s p || (!q.grid.isEmpty && q.tdisp != .error) then [.linkInterval p] else [])

/-! ## The next cycle -/

/-- Steps that a cycle enables, those apart that are due already. -/
def pushNew (s : State) (l : List Instr) : State := s.pushAll (l.filter (fun i => !s.events.contains i))

/-- The next cycle begins: time passes (R4, R426), steps held back and steps that are due become the events, interfaces whose configuration has
changed enter ERROR (R399), and the partitions add their steps. -/
def advance (s : State) : State :=
  let s := allParts.foldl endPart s
  let before := s.tstamp
  let now := s.cycle + 1
  let s := enterErrors { s with
    cycle := now, time := s.time + 720720 / s.tickCycles, scan := 0, hwNow := [], mtsNow := [], waiting := [],
    events := s.waiting ++ s.events ++ (s.timers.filter (fun (e : Nat × Instr) => decide (e.1 ≤ now))).map (fun (e : Nat × Instr) => e.2),
    timers := s.timers.filter (fun (e : Nat × Instr) => decide (now < e.1)) }
  let tick := s.tstamp != before
  let s : State := { s with events := allParts.flatMap (fun p => gangStarts s p tick) ++ s.events }
  pushNew s (allParts.flatMap (fun p => partSteps s p tick))

/-- The place behind every turn and wait of a cycle: the copy units' beats. -/
def lastPlace : Nat := 143616

/-- What ends a cycle: the copy units' beats, once, and then the next cycle begins. -/
def endCycle (s : State) : State :=
  let l := if s.scan < lastPlace then allParts.flatMap (beatSteps s) else []
  if l.isEmpty then advance s else { s with events := l, scan := lastPlace }

/-- The machine steps: first what is due, in order; then the work of this cycle; then the beats, and the next cycle. DESIGN CHOICE (log 5). DESIGN CHOICE (log 71). -/
def stepNext (s : State) : Out :=
  match s.events with
  | i :: rest => exec i { s with events := rest }
  | [] =>
    match nextWork s with
    | some w => doWork s w
    | none => .next (endCycle s)

/-! ## Placing an instruction -/

/-- The address at which `placeWord` puts an instruction: the first byte of core 0's TCM window (R193). DESIGN CHOICE (log 6). -/
def placedAt : Word := 0xFF00000000000000

/-- A fresh system thread whose next instruction is at `placedAt`. DESIGN CHOICE (log 6). -/
def placedThread (s : State) : Thread :=
  Thread.start 0 placedAt (Regs.fresh 0 0 0 0) 0xFFFFF 0 0 false false s.cycle

/-- The word stored in core 0's TCM of partition 0, and the partition, the core and its system slot set so that the next step fetches it. DESIGN CHOICE (log 6). -/
def placeWord (s : State) (w : BitVec 32) : State :=
  let key := keyTcm 0 0 0
  let s := { s with
    mem := memWrite s.mem key 4 w.toNat, poisonW := s.poisonW.filter (fun i => i != key / 8),
    scan := 0, events := [] }
  let s := s.modPart 0 (fun q => { q with
    inService := true, rst := .none, wipe := none, tdisp := .run, gang := .idle, snap := { q.snap with phase := .idle, issuers := [] } })
  let s := s.modCoreC 0 0 (fun k => { k with failed := false, gated := false, vecAt := none })
  s.modCoreW 0 0 (fun k => { k with
    lastSlot := 15, tbind := k.tbind &&& 0x7FFFFFFFFFFFFFFF, slots := kput k.slots 0 (.thread (placedThread s)) })

end Sys2Proof.Machine
end

