-- ==== Sys2Proof/Machine/Step.lean ====
section
/-! DEFINITION. One step of the machine, and where its next instruction is fetched. -/
namespace Sys2Proof.Machine

/-- One step: the head of the steps that are due, or the next turn of the cycle, or the passage to the next cycle. DESIGN CHOICE (log 5). -/
def step (s : State) : Out := stepNext s

/-- `s` with a lone instruction word where the next step fetches it: a window holds the word with its bit L set, so that it is a bundle of its
own. It stands for a launch: DESIGN CHOICE (log 6). -/
def State.withFetchWord (s : State) (nbits w : Nat) : State :=
  placeWord s (BitVec.ofNat 32 (w % 2 ^ Nat.min nbits 32) ||| 0x80000000)

end Sys2Proof.Machine
end

