-- ==== Sys2Proof/Safety.lean ====
section
/-! DEFINITION. The terms in which statements about the machine are made: when a word is ready to run, what its completion leaves, what a
taken fault leaves, and the two ways in which a run stays safe. -/
namespace Sys2Proof.Machine

/-! ## Running a word -/

/-- The running word is a bundle of its own, of thread t, and every register among its sources that it reads synchronously is full
(R14). -/
def Ready (s : State) (t : Thread) (srcs : List Src) : Prop :=
  s.thread s.cur.at_ = some t ∧ s.cur.phase = .first ∧ emptyRegs t (syncRegs srcs) = []

/-- STATUS with VDIRTY as the vector and mask registers of t make it (R169). -/
def dirtyStatus (t : Thread) (st : Word) : Word := if t.vdirty then st ||| 0x2000 else st &&& ~~~0x2000

/-- The strainer after the running bundle: its words enter the digest from the thread's first BLK on, unless one of them is a BLK
(R113). -/
def strainAfter (s : State) (t : Thread) : Strainer :=
  { t.strain with
    on := t.strain.on || s.cur.words.any isBlkWord,
    c := if s.cur.words.any isBlkWord = true ∨ t.strain.on = false then t.strain.c else s.cur.words.foldl crcWord t.strain.c }

/-- The values delivered in this cycle to registers that the effect c writes: they take effect after it (R85). -/
def lateArrivals (s : State) (t : Thread) (c : Commit) : List (Reg × Word) :=
  if t.arrivedIn = s.cycle then t.arrived.filter (fun e => c.regs.any (fun x => x.1 == e.1)) else []

/-- The steps that a completed bundle of t makes due at once: a migration that its accesses asked for (R141). -/
def owed (s : State) (t : Thread) : List Instr := if t.migrate.isSome then [.migration s.cur.at_] else []

/-- What the completion of a bundle makes of its thread t, for the effect c (R18): writes in order, what was delivered to the same registers
in this cycle after them, synchronised sources emptied, flags added, the pc at the target or, in its 57 bits, after the bundle; everything
else of the thread as it was, but for what belongs to the bundle itself. -/
structure After (s : State) (t : Thread) (srcs : List Src) (c : Commit) (t' : Thread) : Prop where
  g : t'.regs.g = (c.regs ++ lateArrivals s t c).foldl (fun g e => g.set e.1 e.2) t.regs.g
  full : ∀ j : Reg, t'.regs.full[j] =
    (c.regs.any (fun e => e.1 == j) || (t.regs.full[j] && !(syncRegs srcs).contains j && !(c.clears ++ c.empties).contains j))
  v : t'.v = c.vregs.foldl (fun v e => v.set e.1 e.2) t.v
  m : t'.m = c.mregs.foldl (fun m e => m.set e.1 e.2) t.m
  pc : t'.pc = c.target.getD (nextPc t.pc s.cur.size)
  status : t'.status = dirtyStatus t' (c.status.getD t.status ||| c.flags.setWidth 64)
  strain : t'.strain = strainAfter s t
  rest : t' = { t with
    regs := t'.regs, v := t'.v, m := t'.m, pc := t'.pc, status := t'.status, strain := t'.strain, wait := none,
    latch := none, pend := none, prepared := none, mark := none, barGen := none }

/-- The thread t while the running bundle waits for its reply, which will commit c with the records l in the cycle `due` (R21): its sources
stay as read at issue (R17), and nothing of c shows. -/
def awaiting (s : State) (t : Thread) (srcs : List Src) (c : Commit) (l : List LogItem) (due : Nat) : Thread :=
  { t with
    pend := some
      { commit := { c with log := l, clears := c.clears ++ syncRegs srcs }, dest := none, log := .nothing, ty := none, addr := 0,
        size := s.cur.size, words := s.cur.words, notBefore := due },
    wait := some .reply, latch := some t.src }

/-- Log items that neither name an address nor belong to a write. -/
def LogItem.plain : LogItem → Bool
  | .addr _ | .leave _ | .vecStore _ _ => false
  | _ => true

/-- A bundle with the effect c is under way, its reply `c.lat` cycles off (R21): its thread waits and nothing else has changed; and where
the reply finds it so in a state u, the bundle commits as `After` says, to issue again in a later cycle than the reply's. -/
def Later (s : State) (t : Thread) (srcs : List Src) (o : Out) (c : Commit) : Prop :=
  let r := s.cur.at_
  ∃ l : List LogItem, (s.watched r.part r.core = true → l.all LogItem.plain = true) ∧
    o = .next ((s.setThread r (awaiting s t srcs c l (s.cycle + c.lat))).after c.lat (.memoryReply r none)) ∧
    ∀ u : State, u.thread r = some (awaiting s t srcs c l (s.cycle + c.lat)) → s.cycle + c.lat ≤ u.cycle →
      (l.all LogItem.plain = true ∨ u.watched r.part r.core = false) →
      ∃ u' t', exec (.memoryReply r none) u = .next u' ∧ u'.thread r = some t' ∧
        After { u with cur := s.cur }
          { awaiting s t srcs c l (s.cycle + c.lat) with readyAt := Nat.max t.readyAt (u.cycle + 1) } srcs c t' ∧
        (u.watched r.part r.core = false → u' = { u.setThread r t' with events := owed { u with cur := s.cur } t ++ u.events })

/-- A word that computes from its thread's registers alone has completed with the effect c: the next state holds the thread as `After`
says and, on a core that no taster watches, nothing else has changed: no other thread, no memory, no special register. Where the effect
has a reply time (R93, R101), it is under way as `Later` says. -/
def Completes (s : State) (t : Thread) (srcs : List Src) (o : Out) (c : Commit) : Prop :=
  (c.lat ≠ 0 → Later s t srcs o c) ∧
  (c.lat = 0 → ∃ s' t', o = .next s' ∧ s'.thread s.cur.at_ = some t' ∧ After s t srcs c t' ∧
    (s.watched s.cur.at_.part s.cur.at_.core = false →
      s' = { s.setThread s.cur.at_ t' with events := owed s t ++ s.events }))

/-- The effect of writing one general register. -/
def writes (d : Reg) (v : Word) : Commit := { Commit.none with regs := [(d, v)] }
/-- Writing one general register and adding flags (R102). -/
def writesF (d : Reg) (v : Word) (fl : FFlags) : Commit := { Commit.none with regs := [(d, v)], flags := fl }
/-- Writing one vector register. -/
def writesV (d : VReg) (v : BitVec 512) : Commit := { Commit.none with vregs := [(d, v)] }
/-- Writing one mask register. -/
def writesM (d : MReg) (v : BitVec 64) : Commit := { Commit.none with mregs := [(d, v)] }

/-- A taken transfer has completed (R110): as `Completes`, and the trace unit may have noted the transfer (R418). -/
def Transfers (s : State) (t : Thread) (srcs : List Src) (o : Out) (regs : List (Reg × Word)) (target : Word) : Prop :=
  ∃ s' t', o = .next s' ∧ s'.thread s.cur.at_ = some t' ∧
    After s t srcs { Commit.none with regs := regs, target := some target } t' ∧
    (s.watched s.cur.at_.part s.cur.at_.core = false →
      s' = { (s.setThread s.cur.at_ t').traceRec s.cur.at_ 1 t.pc t.corr with events := owed s t ++ s.events })

/-- The running bundle, whose effect outside its registers has left the state s1, commits c: at once where its reply time is 0, else when
the reply comes (R18, R21). `CommitEffect` says what that makes of the thread, and what it leaves. -/
def Commits (s s1 : State) (srcs : List Src) (o : Out) (c : Commit) : Prop :=
  o = .next (commitIn s1 s.cur (s1.cycle + c.lat) { c with clears := c.clears ++ syncRegs srcs })

/-- The running thread has taken the fault k in the state s1 (R27, R311): `TrapEntry` says what taking it does. -/
def Faults (s s1 : State) (o : Out) (k : Cause) (eaddr : Option Word) : Prop := o = .next (takeTrap s1 s.cur.at_ k eaddr)

/-- The running thread has been dropped by a page fault with the record q (R26). -/
def Drops (s s1 : State) (o : Out) (q : TrapRec) : Prop := o = .next (dropThread s1 s.cur.at_ q)

/-- The running bundle waits, to be tried again (R25): nothing of it is committed. -/
def Waits (s s1 : State) (o : Out) (w : Wait) : Prop := o = .next (waitThread s1 s.cur.at_ w)

/-- The running bundle waits for the reply that will commit q (R21). -/
def Pends (s s1 : State) (srcs : List Src) (o : Out) (q : Pend) : Prop :=
  o = .next (s1.modThread s.cur.at_ (fun t => { t with
    pend := some { q with
      commit := { q.commit with clears := q.commit.clears ++ syncRegs srcs }, size := s.cur.size, words := s.cur.words },
    wait := some .reply, latch := some t.src }))

/-! ## Accesses -/

/-- A read of n bytes at ea passes the checks of R118 for the running thread and finds its bytes at the place a, in the state s2 that the
checks, the fills and the copies that it asks for leave. -/
def Reads (s : State) (t : Thread) (ea : Word) (n : Nat) (remote : Bool) (a : At) (s2 : State) : Prop :=
  ∃ pl s1, checkAccess s s.cur.at_ t needR ea n remote = .ok (pl, s1) ∧ readPlace s1 s.cur.at_ t ea n pl = .ok (a, s2)

/-- The same for a write. -/
def Writes (s : State) (t : Thread) (ea : Word) (n : Nat) (remote : Bool) (a : At) (s2 : State) : Prop :=
  ∃ pl s1, checkAccess s s.cur.at_ t needW ea n remote = .ok (pl, s1) ∧ writePlace s1 s.cur.at_ t ea n pl = .ok (a, s2)

/-- The same for an operation performed at the home of its word, with the rights that it needs. -/
def AtHome (s : State) (t : Thread) (need : BitVec 4) (reads writes : Bool) (ea : Word) (n : Nat) (remote : Bool) (a : At) (s2 : State) :
    Prop :=
  ∃ pl s1, checkAccess s s.cur.at_ t need ea n remote = .ok (pl, s1) ∧ homePlace s1 s.cur.at_ t need reads writes ea n pl = .ok (a, s2)

/-- A value of n bytes sign-extended to 64 bits, by arithmetic (R115). -/
def signExt (n v : Nat) : Word := word (if v < 2 ^ (8 * n - 1) then v else v + 2 ^ 64 - 2 ^ (8 * n))

/-- The byte of memory at a key. -/
def State.byte (s : State) (k : Nat) : Byte := memByte s.mem k

/-! ## Rounded values (05) -/

/-- The number that a finite value is. -/
def FVal.rat (v : FVal) : ℚ :=
  match v with
  | .fin n m e => (if n then -1 else 1) * (m : ℚ) * (2 : ℚ) ^ e
  | .nan _ | .inf _ => 0

/-- Of an exact number v, known by the numbers above it (`lt z`: v < z) and those below it (`gt z`: z < v): y is nearer to v than x is. -/
def Nearer (lt gt : ℚ → Prop) (y x : ℚ) : Prop := (y < x ∧ lt ((x + y) / 2)) ∨ (x < y ∧ gt ((x + y) / 2))

/-- Among the codes up to `top`, no magnitude is nearer to an exact number than c's; of two that are equally near, c is the even one (R64). -/
def NearestCode (val : Nat → FVal) (top : Nat) (lt gt : ℚ → Prop) (c : Nat) : Prop :=
  c ≤ top ∧ ∀ k, k ≤ top → ¬ Nearer lt gt (val k).rat (val c).rat ∧
    ((val k).rat ≠ (val c).rat → ¬ lt (((val k).rat + (val c).rat) / 2) → ¬ gt (((val k).rat + (val c).rat) / 2) → c % 2 = 0)

/-- Among the codes up to `top`, c's magnitude is one of the two nearest to an exact number, and the number itself where that is one of
them (R185). -/
def NearCode (val : Nat → FVal) (top : Nat) (lt gt : ℚ → Prop) (c : Nat) : Prop :=
  c ≤ top ∧ (∀ k l, k ≤ top → l ≤ top → (val k).rat ≠ (val l).rat →
    ¬ (Nearer lt gt (val k).rat (val c).rat ∧ Nearer lt gt (val l).rat (val c).rat)) ∧
  ∀ k, k ≤ top → ¬ lt (val k).rat → ¬ gt (val k).rat → c = k

/-- RoundNE of an exact positive magnitude to an IEEE format, and its flags (R64): infinity where the magnitude, rounded with unbounded
exponent range, exceeds the largest finite one, else the nearest; UF where it is tiny and inexact. -/
def Fmt.Rounds (f : Fmt) (neg : Bool) (lt gt : ℚ → Prop) (r : FRes) : Prop :=
  let half : ℚ := 2 - 1 / 2 ^ (f.mbits + 1)
  (¬ lt (half * 2 ^ f.bias) → r.bits = f.signBit neg + f.infBits ∧ r.fl = flOF ||| flNX) ∧
  (lt (half * 2 ^ f.bias) → ∃ c, NearestCode f.val f.maxc lt gt c ∧ r.bits = f.signBit neg + c ∧
    (¬ lt (f.val c).rat ∧ ¬ gt (f.val c).rat → r.fl = 0) ∧
    (lt (f.val c).rat ∨ gt (f.val c).rat → lt (half * 2 ^ (f.emin - 1)) → r.fl = flUF ||| flNX) ∧
    (lt (f.val c).rat ∨ gt (f.val c).rat → ¬ lt (half * 2 ^ (f.emin - 1)) → r.fl = flNX))

/-! ## Safe runs -/

/-- The memory keeps its one form (the model's own, log entry 2): addresses strictly rising, no byte listed at what an unlisted one reads as. -/
def MemoryCanonical (s : State) : Prop := Memory.wf s.mem = true

/-- A step goes on. -/
def Goes (s : State) : Prop := ∃ s', step s = .next s'

end Sys2Proof.Machine
end

