-- ==== Sys2Proof/Certificates/Slice0/Obligations.lean ====
section
/-! DEFINITION. What is to be proved of the machine. -/
open Sys2Proof Sys2Proof.Machine

/-! ## The machine's step, its encoding and its reset (00, 03, 04) -/

/-- R14, R18, R49, R159, R325: the step. What is due comes first, in order; a core's turn then parks its thread where a cause has come to
it, or takes the fault of a delegation that failed; else it fetches the word at the thread's pc, and where that word decodes to a lone
instruction whose synchronised registers are full, the step is exec of that instruction, in the state that counts the issue and names what
runs, with the trace record of a queue that it filled; where a register is empty, the bundle does not issue; a word and its successor that
decode to a pair run as a pair; RNGA and LOGN, once issued, take their place among the waits of their cycle; a waiting bundle goes on, and
where nothing of the cycle is left the next cycle begins.
The model's choices of log entries 5, 16, 34 and 82 are part of it. -/
def Obligations.StepRunsDecoded : Prop :=
  ∀ (s sf : State) (r : TRef) (t : Thread) (i c a : Instr) (l : CodeLine) (rest : List Instr),
    let w0 := codeWord l (t.pc.toNat % 128)
    let w1 := codeWord l (t.pc.toNat % 128 + 4)
    let next := placeOf r.part r.core + 1
    let full (srcs : List Src) : Prop := emptyRegs { t with latch := none } (syncRegs srcs) = []
    -- the state in which a bundle of the words ws runs, once its issue has been counted
    let s1 := sf.modThread r (fun t => { t with fetchBuf := bufferWith t.fetchBuf l })
    -- the bundle does not issue: it waits for the empty registers
    let lacks (srcs : List Src) : Prop := step s = .next (s1.modThread r (fun u => { u with
      wait := some (.regs (emptyRegs { t with latch := none } (syncRegs srcs))), latch := none }))
    let noted (b : Bundle) (ws : List (BitVec 32)) : State :=
      let u := noteIssue b r t ws { turnUsed s1 r with scan := next }
      u.modThread r (fun t => { t with wait := none, latch := none, readyAt := u.cycle + 8, issued := ws, issuedIn := u.cycle })
    -- what the bundle's run comes to, with the record of an entry that it has put into a queue
    let traced (u : State) (o : Out) : Out := match o with
      | .next v => .next (if queued u r < queued v r then v.traceRec r 4 t.pc t.corr else v)
      | o => o
    -- the bundle runs at once, but for RNGA and LOGN, which run in the order of the cycle's waits
    let runs (u : State) (i : Instr) (o : Out) : Prop :=
      (takesOrder i = false → step s = traced u o) ∧ (takesOrder i = true → step s = .next (waitThread u r (.late u.cycle)))
    (s.events = i :: rest → step s = exec i { s with events := rest }) ∧
    (s.events = [] → nextWork s = none → step s = .next (endCycle s)) ∧
    (s.events = [] → nextWork s = some (.wait r t) → step s = resume s r t) ∧
    (s.events = [] → nextWork s = some (.turn r t) →
      (∀ code, t.parkAt = some code → step s = .next (parkAtIssue s r code)) ∧
      (∀ ea fs, t.parkAt = none → t.delegFailed = ea :: fs → t.active = false →
        step s = .next (takeTrap
          { turnUsed (s.modThread r (fun u => { u with
              delegFailed := u.delegFailed.drop 1, wait := none, latch := none, readyAt := s.cycle + 8 })) r with scan := next }
          r .delegation (some ea)))) ∧
    (s.events = [] → nextWork s = some (.turn r t) → t.parkAt = none → (t.delegFailed = [] ∨ t.active = true) →
      ((s.part r.part).snap.phase ≠ .contain ∨ s.watched r.part r.core = false ∨ t.captured = true) →
      fetchLine s r t t.pc = .ok (l, sf) →
      (w0.getLsbD 31 = true → decodeWord w0 = .ok i → full (instrSrcs i) →
        let u := noted (.lone i) [w0]
        runs u i (exec i { u with cur := Bundle.cur (.lone i) r [w0] })) ∧
      (w0.getLsbD 31 = true → decodeWord w0 = .ok i → ¬ full (instrSrcs i) → lacks (instrSrcs i)) ∧
      (w0.getLsbD 31 = false → t.pc.getLsbD 2 = false → w0.getLsbD 30 = false → w1.getLsbD 31 = false → w1.getLsbD 30 = true →
        decodeWord w0 = .ok c → decodeWord w1 = .ok a → c.loneOnly = false →
        (∀ d, d ∈ controlWrites c → d ∉ arithWrites a) → (∀ v, v ∈ vectorWrites c → v ∉ vectorWrites a) →
        (¬ full (instrSrcs c ++ instrSrcs a) → lacks (instrSrcs c ++ instrSrcs a)) ∧
        (full (instrSrcs c ++ instrSrcs a) →
        let u := noted (.pair c a) [w0, w1]
        runs u c (runBundle (.pair c a) r [w0, w1] u))))

/-- R37 to R48: decoding what the encoder writes for a well-formed instruction gives the instruction back, with every operand at every value
that the encoding admits. -/
def Obligations.DecodeEncode : Prop := ∀ (i : Instr) (w : BitVec 32), i.wf = true → encode i = some w → decodeWord w = .ok i

/-- R37 to R48: a word that decodes is, its bit L apart, the one word of its instruction, which is well-formed: no bit of a word is
dropped, and no two instructions share a word. -/
def Obligations.EncodeDecode : Prop :=
  ∀ (i : Instr) (w : BitVec 32), decodeWord w = .ok i → i.wf = true ∧ i.encoded = true ∧ encode i = some (w ||| 0x80000000)

/-- R7, R37 to R52, R113: words that the spec writes out with what they stand for, and words that stand for nothing. -/
def Obligations.DecodeWords : Prop :=
  ([0x80000000, 0x875A30C1, 0xC4428307, 0xD8429803, 0xDA530100, 0x82000005, 0x94719402, 0x95548000, 0x9A852C05, 0x9B048003, 0x9C449803,
    0xE0200603, 0xE0308930, 0xE2510200, 0xE3101283, 0xE5610105, 0xA2448040, 0x9E000043, 0xA15482FD, 0xA8852C05, 0xAC708003, 0xAE90100C,
    0xB0000003] : List (BitVec 32)).map decodeWord =
  ([.nop, .blk 0x5A3 0x0C1, .exts 4 ⟨5, false⟩ 12 7, .fma .f32 4 ⟨5, false⟩ ⟨6, false⟩, .fcvt .f16 .f32 5 ⟨6, false⟩, .call 5,
    .stx .b32 7 ⟨3, false⟩ ⟨5, false⟩, .lds 5 ⟨9, false⟩ 0, .dlg 8 ⟨10, false⟩ ⟨11, false⟩, .bar .part ⟨9, false⟩,
    .amo .add .w64 4 ⟨9, false⟩ ⟨6, false⟩, .vfma .f32 none 2 0 1, .vadd .s32 (some 1) 3 1 2, .vred .add .f32 none 5 2,
    .vcvt .f16 .f32 none 1 0, .vmovg .s32 6 2 5, .vld 4 ⟨9, false⟩ 64, .pour .part, .ldbImm 5 ⟨9, false⟩ 0xFD,
    .cpy (some 1) 8 ⟨10, false⟩ ⟨11, false⟩, .srd .s64 7 1, .mxq 0 .plusTimes false false true .b 9 0 4, .trap 3] : List Instr).map .ok ∧
  (∀ w ∈ ([0x80000001, 0xB8000000, 0xC0000000, 0xD5000000, 0xBFFFFFFF, 0x9A00000A, 0xC2000009, 0xDA000000] :
    List (BitVec 32)), ∃ e, decodeWord w = .error e)

/-- R6, R283, R327, R344, R403, R428: reset. There is no thread and nothing is due; memory is in its one form, zero everywhere with every
word empty; every interface is in CONFIG_UNLOCKED; and the registers hold their Reset column.
The model's choices of log entries 2 and 41 are part of it. -/
def Obligations.ResetState : Prop :=
  let s := State.reset
  MemoryCanonical s ∧ s.events = [] ∧ s.timers = [] ∧ s.modid = 0 ∧
  (∀ k, s.byte k = 0 ∧ s.fullBit k = false) ∧
  (∀ r, s.thread r = none) ∧
  (∀ p c k i, (s.part p).tdisp = .unlocked ∧ (s.core p c).c.strctl = 1 ∧ (s.cluster p k).engctl = 0x41301 ∧
    (s.acc p k i).state = 0 ∧ (s.acc p k i).tagged = false ∧ (s.acc p k i).chk = 3 ∧ (s.acc p k i).cells = []) ∧
  (∀ p c, ∀ e ∈ ([(.dspctl, 2), (.agei, 0x2710), (.migth, 0x20), (.memctl, 0x21), (.steepq, 0x39800000), (.steepctl, 3),
      (.relctl, 0x01000000), (.collctl, 0x1000F4240), (.snapctl, 1), (.perfctl, 9), (.lnkctl, 0x5000000000000000), (.slim 0, 0),
      (.slim 1, 0x3C000000), (.slim 15, 0x43000000), (.strctl, 1), (.psel, 0xFFFF000009040302), (.trcctl, 0x00000000FFFF00FF),
      (.lwbase, 0), (.ptroot 0, 0), (.dombase, 0), (.rtbase, 0), (.ctxbase, 0), (.tqbase, 0), (.tqhead, 0), (.tqtail, 0), (.fatalovf, 0),
      (.gswt, 0), (.wscur, 0), (.wsnext, 0), (.xport, 0), (.snapn, 0), (.caddy, 0), (.snaprst, 0), (.tbind, 0), (.logseq, 0), (.rxq, 0),
      (.tstamp, 0)] : List (SysReg × Word)),
    readIdran s p c e.1 = e.2)

/-- The model's own invariant (log entry 2): in every state whose memory is in its one form (addresses strictly rising, no byte listed at what an unlisted one reads as), a
step that goes on leaves the memory in that form: no word, no event and no engine of the module writes memory around the operations that
keep it. -/
def Obligations.StepKeepsMemory : Prop := ∀ s s' : State, MemoryCanonical s → step s = .next s' → MemoryCanonical s'

/-! ## Integer words (06) -/

/-- R86, R87: what each of the fifteen ALU words and of the eight immediate forms writes, for every value of its sources, with the frame of
`Completes`. R14, R15: where one of these words, or any other through the one operation that they all share, reads an empty register through
a synchronised field, it waits for it, and nothing of the machine changes but the thread's wait. -/
def Obligations.AluResults : Prop :=
  ∀ (s : State) (t : Thread) (d : Reg) (a b : Src) (imm : BitVec 15) (c : BitVec 6),
    let x := t.rd a
    let y := t.rd b
    let n := y.toNat % 64
    let k := c.toNat
    let gives (i : Instr) (v : Word) : Prop := Completes s t [a, b] (exec i s) (writes d v)
    let gives1 (i : Instr) (v : Word) : Prop := Completes s t [a] (exec i s) (writes d v)
    (Ready s t [a, b] →
      gives (.add d a b) (word (x.toNat + y.toNat)) ∧ gives (.sub d a b) (BitVec.ofInt 64 ((x.toNat : Int) - y.toNat)) ∧
      gives (.and d a b) (x &&& y) ∧ gives (.or d a b) (x ||| y) ∧ gives (.xor d a b) (x ^^^ y) ∧
      gives (.andn d a b) (x &&& ~~~y) ∧ gives (.orn d a b) (x ||| ~~~y) ∧
      gives (.shl d a b) (word (x.toNat * 2 ^ n)) ∧ gives (.shr d a b) (word (x.toNat / 2 ^ n)) ∧
      gives (.sha d a b) (BitVec.ofInt 64 (x.toInt / 2 ^ n)) ∧
      gives (.ror d a b) (word (x.toNat / 2 ^ n + x.toNat * 2 ^ (64 - n))) ∧
      gives (.min d a b) (if x.toInt ≤ y.toInt then x else y) ∧ gives (.max d a b) (if x.toInt ≥ y.toInt then x else y) ∧
      gives (.minz d a b) (if x.toNat ≤ y.toNat then x else y) ∧ gives (.maxz d a b) (if x.toNat ≥ y.toNat then x else y)) ∧
    (Ready s t [a] →
      gives1 (.addi d a imm) (x + imm.signExtend 64) ∧ gives1 (.andi d a imm) (x &&& imm.signExtend 64) ∧
      gives1 (.ori d a imm) (x ||| imm.signExtend 64) ∧ gives1 (.xori d a imm) (x ^^^ imm.signExtend 64) ∧
      gives1 (.shli d a c) (word (x.toNat * 2 ^ k)) ∧ gives1 (.shri d a c) (word (x.toNat / 2 ^ k)) ∧
      gives1 (.shai d a c) (BitVec.ofInt 64 (x.toInt / 2 ^ k)) ∧
      gives1 (.rori d a c) (word (x.toNat / 2 ^ k + x.toNat * 2 ^ (64 - k)))) ∧
    (s.thread s.cur.at_ = some t → emptyRegs t (syncRegs [a, b]) ≠ [] →
      let waits : Out := .next (s.setThread s.cur.at_ { t with wait := some (.regs (emptyRegs t (syncRegs [a, b]))) })
      (∀ i ∈ ([.add d a b, .sub d a b, .and d a b, .andn d a b, .or d a b, .orn d a b, .xor d a b, .shl d a b, .shr d a b, .sha d a b,
        .ror d a b, .min d a b, .max d a b, .minz d a b, .maxz d a b, .mul d a b, .div d a b, .cmp .eq d a b] : List Instr),
        exec i s = waits) ∧
      (∀ f : TRef → Thread → State → Res, runWord [a, b] f s = waits))

/-- R88, R89, R90: ADDX, both compares with every condition of R89's table, and SEL, which reads gc as it stood before the bundle. -/
def Obligations.CompareSelectResults : Prop :=
  ∀ (s : State) (t : Thread) (d c : Reg) (a b : Src) (sh : Fin 8) (cc : Cc) (imm : BitVec 11),
    let holds (x y : Word) : Prop := match cc with
      | .eq => x = y
      | .ne => x ≠ y
      | .lt => x.toInt < y.toInt
      | .ge => x.toInt ≥ y.toInt
      | .le => x.toInt ≤ y.toInt
      | .gt => x.toInt > y.toInt
      | .ult => x.toNat < y.toNat
      | .uge => x.toNat ≥ y.toNat
      | .ule => x.toNat ≤ y.toNat
      | .ugt => x.toNat > y.toNat
    let bit01 (p : Prop) (v : Word) : Prop := (p → v = 1) ∧ (¬ p → v = 0)
    (Ready s t [a, b] →
      let x := t.rd a
      let y := t.rd b
      Completes s t [a, b] (exec (.addx d a b sh) s) (writes d (word (x.toNat + y.toNat * 2 ^ sh.val))) ∧
      (∃ v, bit01 (holds x y) v ∧ Completes s t [a, b] (exec (.cmp cc d a b) s) (writes d v)) ∧
      Completes s t [a, b] (exec (.sel d a b c) s) (writes d (if t.src.g[c] ≠ 0 then x else y))) ∧
    (Ready s t [a] →
      ∃ v, bit01 (holds (t.rd a) (imm.signExtend 64)) v ∧ Completes s t [a] (exec (.cmpi cc d a imm) s) (writes d v))

/-- R91: the three products, and the carry-less ones: bit k of the carry-less product is the XOR, over all i + j = k, of x[i] AND y[j];
CLMUL writes bits 63:0 and CLMULH bits 126:64, so that bit 63 of its result is 0. -/
def Obligations.ProductResults : Prop :=
  ∀ (s : State) (t : Thread) (d : Reg) (a b : Src), Ready s t [a, b] →
    let x := t.rd a
    let y := t.rd b
    let p (k : Nat) : Bool := (List.range (k + 1)).foldl (fun acc i => acc ^^ (y.getLsbD i && x.getLsbD (k - i))) false
    let gives (i : Instr) (v : Word) : Prop := Completes s t [a, b] (exec i s) (writes d v)
    gives (.mul d a b) (word (x.toNat * y.toNat)) ∧ gives (.mulh d a b) (BitVec.ofInt 64 (x.toInt * y.toInt / 2 ^ 64)) ∧
    gives (.mulhz d a b) (word (x.toNat * y.toNat / 2 ^ 64)) ∧
    (∃ lo hi : Word, gives (.clmul d a b) lo ∧ gives (.clmulh d a b) hi ∧
      (∀ k, k < 64 → lo.getLsbD k = p k) ∧ (∀ k, k < 63 → hi.getLsbD k = p (64 + k)) ∧ hi.getLsbD 63 = false)

/-- R92, R93: the four divisions, in every case of R92, with the time at which each commits. -/
def Obligations.DivisionResults : Prop :=
  ∀ (s : State) (t : Thread) (d : Reg) (a b : Src), Ready s t [a, b] →
    let x := t.rd a
    let y := t.rd b
    let gives (i : Instr) (v : Word) (lat : Nat) : Prop := Completes s t [a, b] (exec i s) { writes d v with lat := lat }
    (y = 0 →
      gives (.div d a b) (-1) 16 ∧ gives (.rem d a b) x 16 ∧ gives (.divz d a b) (-1) 16 ∧ gives (.remz d a b) x 16) ∧
    (x.toInt = -2 ^ 63 → y.toInt = -1 → gives (.div d a b) x 16 ∧ gives (.rem d a b) 0 16) ∧
    (y ≠ 0 → ¬ (x.toInt = -2 ^ 63 ∧ y.toInt = -1) →
      let lat := if x.toInt.natAbs < 2 ^ 32 then 40 else 72
      gives (.div d a b) (BitVec.ofInt 64 (x.toInt.tdiv y.toInt)) lat ∧ gives (.rem d a b) (BitVec.ofInt 64 (x.toInt.tmod y.toInt)) lat) ∧
    (y ≠ 0 →
      let lat := if x.toNat < 2 ^ 32 then 40 else 72
      gives (.divz d a b) (word (x.toNat / y.toNat)) lat ∧ gives (.remz d a b) (word (x.toNat % y.toNat)) lat)

/-- R94, R95, R96: the bit group, with CLZ and CTZ said by the bits that they count; the bit-field words for every field that a legal
word names; and the two constant words. -/
def Obligations.BitFieldResults : Prop :=
  ∀ (s : State) (t : Thread) (d : Reg) (a : Src) (pos wm1 : BitVec 6) (imm : BitVec 20) (q : BitVec 2) (v : BitVec 16),
    let w := wm1.toNat + 1
    let x := t.rd a
    let z := t.src.g[d]
    let gives (i : Instr) (v : Word) : Prop := Completes s t [a] (exec i s) (writes d v)
    (Ready s t [a] →
      (∃ n, n ≤ 64 ∧ gives (.clz d a) (word n) ∧ (∀ i, 64 - n ≤ i → x.getLsbD i = false) ∧ (n < 64 → x.getLsbD (63 - n) = true)) ∧
      (∃ n, n ≤ 64 ∧ gives (.ctz d a) (word n) ∧ (∀ i, i < n → x.getLsbD i = false) ∧ (n < 64 → x.getLsbD n = true)) ∧
      gives (.popc d a) (word ((List.range 64).countP (fun i => x.getLsbD i))) ∧
      (∃ v, gives (.brev d a) v ∧ ∀ i, i < 64 → v.getLsbD i = x.getLsbD (63 - i)) ∧
      (∃ v, gives (.bswap d a) v ∧ ∀ i j, i < 8 → j < 8 → v.getLsbD (8 * i + j) = x.getLsbD (8 * (7 - i) + j))) ∧
    (Ready s t [a] → pos.toNat + w ≤ 64 →
      let f := x.toNat / 2 ^ pos.toNat % 2 ^ w
      gives (.extz d a pos wm1) (word f) ∧
      gives (.exts d a pos wm1) (word (if f < 2 ^ (w - 1) then f else f + 2 ^ 64 - 2 ^ w)) ∧
      (∃ r : Word, gives (.ins d a pos wm1) r ∧
        ∀ i, i < 64 → r.getLsbD i = if pos.toNat ≤ i ∧ i < pos.toNat + w then x.getLsbD (i - pos.toNat) else z.getLsbD i)) ∧
    (Ready s t [] →
      Completes s t [] (exec (.li d imm) s) (writes d (imm.signExtend 64)) ∧
      (∃ r : Word, Completes s t [] (exec (.lih d q v) s) (writes d r) ∧
        ∀ i, i < 64 → r.getLsbD i =
          if 16 * q.toNat ≤ i ∧ i < 16 * q.toNat + 16 then v.getLsbD (i - 16 * q.toNat) else z.getLsbD i))
/-! ## Floating-point words (07) -/

/-- R99, R101, R102, R104, R105, R107: the FP group on the values of its type that its registers hold: the result, delivered by one rounding
to nearest even, in the low bits of gd with zeros above, and the flags of that rounding added to STATUS; a quotient and a square root are the
nearest value to the exact one, or the special case of R104, and commit when the divider replies; the lesser and the greater operand are given
bit for bit; the class of a value sets no flag.
The model's choice of log entry 46 (FMIN and FMAX on zeros of both signs) is part of it. -/
def Obligations.FloatResults : Prop :=
  ∀ (s : State) (t : Thread) (ty : FType) (d : Reg) (a b : Src),
    let f := ty.fmt
    let x := (t.rd a).toNat % 2 ^ f.width
    let y := (t.rd b).toNat % 2 ^ f.width
    let z := (t.src.g[d]).toNat % 2 ^ f.width
    let u := f.val x
    let v := f.val y
    let slow := match ty with | .f32 => 32 | .f16 | .bf16 => 24
    let snan := flagIf (u.isSnan || v.isSnan) flNV
    let odd (v : FVal) : Prop := v.isNan ∨ v.isInf ∨ v.isZero
    let gives (i : Instr) (r : FRes) : Prop := Completes s t [a, b] (exec i s) (writesF d (word r.bits) r.fl)
    (Ready s t [a, b] →
      gives (.fadd ty d a b) (f.deliver (sumVal [f.val x, f.val y])) ∧
      gives (.fsub ty d a b) (f.deliver (sumVal [f.val x, (f.val y).neg])) ∧
      gives (.fmul ty d a b) (f.deliver (mulVal (f.val x) (f.val y))) ∧
      gives (.fma ty d a b) (f.deliver (sumVal [f.val z, mulVal (f.val x) (f.val y)])) ∧
      gives (.fms ty d a b) (f.deliver (sumVal [f.val z, (mulVal (f.val x) (f.val y)).neg])) ∧
      (let r := f.deliver (sumVal [f.val z, mulVal (f.val x) (f.val y)])
       gives (.fnma ty d a b) { r with bits :=
         if r.bits = f.nanBits then f.nanBits
         else if r.bits < 2 ^ (f.ebits + f.mbits) then r.bits + 2 ^ (f.ebits + f.mbits) else r.bits - 2 ^ (f.ebits + f.mbits) }) ∧
      gives (.fmin ty d a b) { fl := snan, bits :=
        if u.isNan then (if v.isNan then f.nanBits else y)
        else if v.isNan then x
        else if u.isZero && v.isZero then (if u.sign then x else y)
        else if (valLt v u) then y else x } ∧
      gives (.fmax ty d a b) { fl := snan, bits :=
        if u.isNan then (if v.isNan then f.nanBits else y)
        else if v.isNan then x
        else if u.isZero && v.isZero then (if u.sign then y else x)
        else if (valLt u v) then y else x } ∧
      gives (.fsgn ty d a b)
        { bits := x % 2 ^ (f.ebits + f.mbits) + y / 2 ^ (f.ebits + f.mbits) % 2 * 2 ^ (f.ebits + f.mbits), fl := 0 } ∧
      (∃ lat r, Completes s t [a, b] (exec (.fdiv ty d a b) s) { writesF d (word r.bits) r.fl with lat := lat } ∧
        ((odd u ∨ odd v) → lat = 16) ∧ (¬ odd u → ¬ odd v → lat = slow) ∧
        let neg := u.sign != v.sign
        (u.isNan ∨ v.isNan → r = { bits := f.nanBits, fl := snan }) ∧
        (u.isInf ∧ v.isInf ∨ u.isZero ∧ v.isZero → r = { bits := f.nanBits, fl := flNV }) ∧
        (u.isInf → v.isNan = false → v.isInf = false → r = { bits := f.signBit neg + f.infBits, fl := 0 }) ∧
        (v.isInf → u.isNan = false → u.isInf = false → r = { bits := f.signBit neg, fl := 0 }) ∧
        (u.isZero → ¬ odd v → r = { bits := f.signBit neg, fl := 0 }) ∧
        (v.isZero → ¬ odd u → r = { bits := f.signBit neg + f.infBits, fl := flDZ }) ∧
        (¬ odd u → ¬ odd v → f.Rounds neg (fun z => |u.rat / v.rat| < z) (fun z => z < |u.rat / v.rat|) r))) ∧
    (Ready s t [a] →
      (∃ lat r, Completes s t [a] (exec (.fsqrt ty d a) s) { writesF d (word r.bits) r.fl with lat := lat } ∧
        ((odd u ∨ u.sign) → lat = 16) ∧ (¬ odd u → u.sign = false → lat = slow) ∧
        (u.isNan → r = { bits := f.nanBits, fl := flagIf u.isSnan flNV }) ∧
        (u.isZero → r = { bits := x, fl := 0 }) ∧
        (u.isInf → u.sign = false → r = { bits := f.infBits, fl := 0 }) ∧
        (u.isZero = false → u.sign → r = { bits := f.nanBits, fl := flNV }) ∧
        (¬ odd u → u.sign = false → f.Rounds false (fun z => u.rat < z ^ 2) (fun z => z ^ 2 < u.rat) r)) ∧
      Completes s t [a] (exec (.fclass ty d a) s) (writes d (word (f.classOf x))))

/-- R67, R68, R74, R108, R109: compares and conversions: FCMP writes 1 or 0, FCVTI an integer over all 64 bits, FCVTF and FCVT a float; FCVT
with .nf takes the format-descriptor fault where fa's descriptor is invalid, and converts otherwise: an element has the value of its fields,
every one is exact in FP32, and a value becomes the nearest one of the narrow format, or what its overflow, its infinity and its NaN give.
The model's choices of log entries 30 (which NaN of a narrow format signals) and 81 (ties and overflow in formats without mantissa bits) are
part of it. -/
def Obligations.FloatConvertResults : Prop :=
  ∀ (s : State) (t : Thread) (ty : FType) (it : IType) (rm : RMode) (cc : FCc) (ds ss : CType) (d : Reg) (a b : Src),
    let f := ty.fmt
    let x := f.val ((t.rd a).toNat % 2 ^ f.width)
    let y := f.val ((t.rd b).toNat % 2 ^ f.width)
    let un := x.isNan || y.isNan
    let named := match cc with
      | .eq => !un && valEq x y
      | .ne => un || !valEq x y
      | .lt => !un && valLt x y
      | .ge => !un && !valLt x y
      | .le => !un && !valLt y x
      | .gt => !un && valLt y x
      | .un => un
      | .ord => !un
    let nv := match cc with
      | .lt | .ge | .le | .gt => un
      | .eq | .ne | .un | .ord => x.isSnan || y.isSnan
    (Ready s t [a, b] → Completes s t [a, b] (exec (.fcmp ty cc d a b) s) (writesF d (if named then 1 else 0) (if nv then flNV else 0))) ∧
    (Ready s t [a] →
      let r := toInt rm it.bounds.1 it.bounds.2 x
      Completes s t [a] (exec (.fcvti ty it rm d a) s) (writesF d (BitVec.ofInt 64 r.1) r.2) ∧
      Completes s t [a] (exec (.fcvtf ty it d a) s)
        (writesF d (word (f.deliver (intVal (it.read (t.rd a)))).bits) (f.deliver (intVal (it.read (t.rd a)))).fl) ∧
      ((ds = .nf ∨ ss = .nf) ∧ nfOf t.fa = none → Faults s s (exec (.fcvt ds ss d a) s) .format none) ∧
      (¬ ((ds = .nf ∨ ss = .nf) ∧ nfOf t.fa = none) →
        let w := (t.rd a).toNat
        let from_ : FVal := match ss.ieee with
          | some f => f.val (w % 2 ^ f.width)
          | none => ((nfOf t.fa).map (fun n => n.val w)).getD (.nan false)
        let v : FRes := match ds.ieee with
          | some f => f.deliver from_
          | none => ((nfOf t.fa).map (fun n => n.deliver from_)).getD { bits := 0, fl := 0 }
        Completes s t [a] (exec (.fcvt ds ss d a) s) (writesF d (word v.bits) v.fl))) ∧
    ∀ n, nfOf t.fa = some n →
      let big := if n.spec = 1 then (2 ^ n.e - 1) * 2 ^ n.m - 1 else if n.spec = 2 then 2 ^ (n.e + n.m) - 2 else 2 ^ (n.e + n.m) - 1
      -- the value of an element, and its value in FP32
      (∀ c : Nat, c < 2 ^ n.width →
        let e := c / 2 ^ n.m % 2 ^ n.e
        let m := c % 2 ^ n.m
        let neg := n.s && c / 2 ^ (n.e + n.m) % 2 == 1
        let v := n.val c
        let r := Fmt.f32.deliver v
        let infinite : Prop := n.e ≠ 0 ∧ n.spec = 1 ∧ e = 2 ^ n.e - 1 ∧ m = 0
        let none_ : Prop := n.e ≠ 0 ∧ e = 2 ^ n.e - 1 ∧ (n.spec = 1 ∧ m ≠ 0 ∨ n.spec = 2 ∧ m = 2 ^ n.m - 1)
        (infinite → v = .inf neg ∧ r = { bits := Fmt.f32.signBit neg + Fmt.f32.infBits, fl := 0 }) ∧
        (none_ → v.isNan ∧ r = { bits := Fmt.f32.nanBits, fl := flagIf v.isSnan flNV }) ∧
        (¬ infinite → ¬ none_ →
          v.isNan = false ∧ v.isInf = false ∧ r.bits % 2 ^ 31 < Fmt.f32.infBits ∧ (Fmt.f32.val r.bits).rat = v.rat ∧ r.fl = 0 ∧
          v.rat =
            if n.e = 0 then (if n.s ∧ 2 ^ (n.width - 1) ≤ c then (c : ℚ) - 2 ^ n.width else c) / 2 ^ n.bias
            else (if neg then -1 else 1) *
              (if e = 0 then (m : ℚ) / 2 ^ n.m * 2 ^ (1 - (n.bias : ℤ)) else (1 + (m : ℚ) / 2 ^ n.m) * 2 ^ ((e : ℤ) - n.bias)))) ∧
      -- a value delivered in the narrow format
      ∀ v : FVal,
        let r := n.deliver v
        let lost : Prop := v.isZero = false ∧ v.sign ∧ n.s = false
        let code (c : Nat) : Nat := n.signBit v.sign + c
        (v.isNan → r = { bits := if n.e = 0 ∨ n.spec = 0 then 0 else 2 ^ (n.e + n.m) - 1, fl := flNV }) ∧
        (v.isZero → r = { bits := if n.e ≠ 0 ∧ n.s ∧ v.sign then 2 ^ (n.e + n.m) else 0, fl := 0 }) ∧
        (v.isNan = false → v.isInf = false → lost → r = { bits := 0, fl := flNX }) ∧
        (n.e ≠ 0 → v.isInf →
          (lost → r = { bits := 0, fl := flOF ||| flNX }) ∧
          (¬ lost → n.spec = 1 → r = { bits := code ((2 ^ n.e - 1) * 2 ^ n.m), fl := 0 }) ∧
          (¬ lost → n.spec ≠ 1 → r = { bits := code big, fl := flOF ||| flNX })) ∧
        (n.e ≠ 0 → v.isNan = false → v.isInf = false → v.isZero = false → ¬ lost →
          (n.m ≠ 0 → |v.rat| ≤ (n.val big).rat → ∃ c, NearestCode n.val big (fun z => |v.rat| < z) (fun z => z < |v.rat|) c ∧ r.bits = code c ∧
            r.fl = if (n.val c).rat = |v.rat| then 0
              else if |v.rat| < (2 - 1 / 2 ^ (n.m + 1)) * 2 ^ (-(n.bias : ℤ)) then flUF ||| flNX else flNX) ∧
          (2 * (n.val big).rat ≤ |v.rat| →
            r = { bits := code (if n.sat = 1 then (2 ^ n.e - 1) * 2 ^ n.m else big), fl := flOF ||| flNX })) ∧
        (n.e = 0 →
          let lo : ℤ := if n.s then -2 ^ (n.width - 1) else 0
          let hi : ℤ := if n.s then 2 ^ (n.width - 1) - 1 else 2 ^ n.width - 1
          let bits (i : ℤ) : Nat := (i % 2 ^ n.width).toNat
          (v.isInf → r = { bits := bits (if v.sign then lo else hi), fl := flOF ||| flNX }) ∧
          (v.isNan = false → v.isInf = false → v.isZero = false → ¬ lost →
            let y : ℚ := v.rat * 2 ^ n.bias
            ∃ i : ℤ, |y - i| ≤ 1 / 2 ∧ (|y - i| = 1 / 2 → i % 2 = 0) ∧
              (i < lo → r = { bits := bits lo, fl := flOF ||| flNX }) ∧ (hi < i → r = { bits := bits hi, fl := flOF ||| flNX }) ∧
              (lo ≤ i → i ≤ hi →
                r = { bits := bits i, fl := if i = 0 then flUF ||| flNX else if y = i then 0 else flNX })))

/-! ## Vector words (10) -/

/-- R170, R171, R179, R180: the elementwise words, lane by lane: an active lane holds the result of the table, an inactive one its old
value; no flag is set. -/
def Obligations.VectorLaneResults : Prop :=
  ∀ (s : State) (t : Thread) (ty : VType) (mask : Option MReg) (d a b : VReg), Ready s t [] →
    let w := ty.width
    let gives (i : Instr) (f : Nat → Nat → Nat → Nat) : Prop :=
      ∃ v, Completes s t [] (exec i s) (writesV d v) ∧ ∀ n, n < ty.lanes →
        lane w v n = if laneActive t mask n then f (lane w t.v[d] n) (lane w t.v[a] n) (lane w t.v[b] n) % 2 ^ w else lane w t.v[d] n
    (ty.isInt = true →
      gives (.vadd ty mask d a b) (fun _ x y => x + y) ∧ gives (.vsub ty mask d a b) (fun _ x y => x + 2 ^ w - y) ∧
      gives (.vmul ty mask d a b) (fun _ x y => x * y) ∧ gives (.vfma ty mask d a b) (fun z x y => z + x * y) ∧
      gives (.vmin ty mask d a b) (fun _ x y => if slane w x ≤ slane w y then x else y) ∧
      gives (.vmax ty mask d a b) (fun _ x y => if slane w x ≥ slane w y then x else y)) ∧
    (ty.isInt = false →
      gives (.vadd ty mask d a b) (fun _ x y => (ty.fmt.add x y).bits) ∧ gives (.vsub ty mask d a b) (fun _ x y => (ty.fmt.sub x y).bits) ∧
      gives (.vmul ty mask d a b) (fun _ x y => (ty.fmt.mul x y).bits) ∧ gives (.vfma ty mask d a b) (fun z x y => (ty.fmt.fma z x y).bits) ∧
      gives (.vmin ty mask d a b) (fun _ x y => (ty.fmt.min x y).bits) ∧ gives (.vmax ty mask d a b) (fun _ x y => (ty.fmt.max x y).bits)) ∧
    gives (.vand ty mask d a b) (fun _ x y => x &&& y) ∧ gives (.vor ty mask d a b) (fun _ x y => x ||| y) ∧
    gives (.vxor ty mask d a b) (fun _ x y => x ^^^ y) ∧
    gives (.vshl ty mask d a b) (fun _ x y => if w ≤ y then 0 else x * 2 ^ y) ∧
    gives (.vshr ty mask d a b) (fun _ x y => if w ≤ y then (if slane w x < 0 then 2 ^ w - 1 else 0) else (slane w x / 2 ^ y % 2 ^ w).toNat) ∧
    gives (.vperm ty mask d a b) (fun _ _ y => lane w t.v[a] (y % ty.lanes))

/-- R81, R82, R181, R182, R183, R184: dot products on 32-bit lanes: the exact sum of an integer lane and its products modulo 2^32, or that of an
FP32 lane and its products rounded once; selection; compares into a mask; and reductions by the fixed tree of R82, in which a lane of the next
level is lane 2i combined with lane 2i + 1, and a masked-off lane is the operation's identity. -/
def Obligations.VectorReduceResults : Prop :=
  ∀ (s : State) (t : Thread) (ty : VType) (mask : Option MReg) (mr md : MReg) (d a b : VReg) (g : Reg) (cc : VCc) (op : RedOp),
    Ready s t [] →
    let w := ty.width
    let f := ty.fmt
    let elem (desc : Word) (x : Nat) : FVal := if ty = .nf then ((vecNf desc).map (fun n => n.val x)).getD (.nan false) else f.val x
    (¬ (ty = .nf ∧ (vecNf t.fa = none ∨ vecNf t.fb = none)) →
      ∃ v, Completes s t [] (exec (.vdot ty mask d a b) s) (writesV d v) ∧ ∀ j, j < 16 →
        let n := 32 / w
        let z := lane 32 t.v[d] j
        let x (i : Nat) : Nat := lane w t.v[a] (n * j + i)
        let y (i : Nat) : Nat := lane w t.v[b] (n * j + i)
        lane 32 v j =
          if laneActive t mask j = false then z
          else if ty.isInt then ((slane 32 z + ((List.range n).map (fun i => slane w (x i) * slane w (y i))).sum) % 2 ^ 32).toNat
          else (Fmt.f32.deliver (sumVal (Fmt.f32.val z :: (List.range n).map (fun i => mulVal (elem t.fa (x i)) (elem t.fb (y i)))))).bits) ∧
    (ty = .nf ∧ (vecNf t.fa = none ∨ vecNf t.fb = none) → Faults s s (exec (.vdot ty mask d a b) s) .format none) ∧
    (∃ v, Completes s t [] (exec (.vsel ty mr d a b) s) (writesV d v) ∧ ∀ i, i < ty.lanes →
      lane w v i = if t.m[mr].getLsbD i then lane w t.v[a] i else lane w t.v[b] i) ∧
    (∃ v, Completes s t [] (exec (.vcmp cc ty mask md a b) s) (writesM md v) ∧ ∀ i, i < 64 →
      v.getLsbD i = (decide (i < ty.lanes) && laneActive t mask i && vccHolds cc ty (lane w t.v[a] i) (lane w t.v[b] i))) ∧
    (let top := 2 ^ (f.ebits + f.mbits)
     let identity : Nat := match op with
       | .add => if ty.isInt then 0 else top
       | .min => if ty.isInt then 2 ^ (w - 1) - 1 else f.infBits
       | .max => if ty.isInt then 2 ^ (w - 1) else top + f.infBits
       | .and => 2 ^ w - 1
       | .or | .xor => 0
     let least (greatest : Bool) (x y : Nat) : Nat :=
       if (f.val x).isNan || (f.val y).isNan then f.nanBits
       else if (f.val x).isZero && (f.val y).isZero then (if (f.val x).sign != greatest then x else y)
       else if (if greatest then valLt (f.val x) (f.val y) else valLt (f.val y) (f.val x)) then y else x
     let both (x y : Nat) : Nat := match op with
       | .add => if ty.isInt then (x + y) % 2 ^ w else (f.deliver (sumVal [f.val x, f.val y])).bits
       | .min => if ty.isInt then (if slane w x ≤ slane w y then x else y) else least false x y
       | .max => if ty.isInt then (if slane w x ≥ slane w y then x else y) else least true x y
       | .and => x &&& y
       | .or => x ||| y
       | .xor => x ^^^ y
     ∃ level : Nat → Nat → Nat,
       (∀ i, i < ty.lanes → level 0 i = if laneActive t mask i then lane w t.v[a] i else identity) ∧
       (∀ k i, 2 ^ (k + 1) * (i + 1) ≤ ty.lanes → level (k + 1) i = both (level k (2 * i)) (level k (2 * i + 1))) ∧
       Completes s t [] (exec (.vred op ty mask g a) s) (writes g (ty.toReg (level (Nat.log2 ty.lanes) 0))))

/-- R185, R186, R187, R188: the functions of R185 on each lane, conversions with the rest of vd zeroed, broadcasts and moves, and the words
on masks. Of .f16 and .bf16 the reciprocal and the reciprocal root are the nearest value to the exact one, of .f32 one of the two nearest, and
exact where the exact one is a value of the format; 2^x is exact for an integer x, and of .f16 and .bf16 it lies between the powers next to it.
The model's choice of log entry 8 (which of the two nearest values) is part of it. -/
def Obligations.VectorConvertResults : Prop :=
  ∀ (s : State) (t : Thread) (ty ds ss : VType) (mask : Option MReg) (md ma mb : MReg) (d a : VReg) (g : Reg) (x : Src) (ln : BitVec 6),
    (Ready s t [] →
      let w := ty.width
      let gives (i : Instr) (f : Nat → Nat) : Prop :=
        ∃ v, Completes s t [] (exec i s) (writesV d v) ∧ ∀ n, n < ty.lanes →
          lane w v n = if laneActive t mask n then f (lane w t.v[a] n) % 2 ^ w else lane w t.v[d] n
      gives (.vexp2 ty mask d a) ty.fmt.exp2 ∧ gives (.vrcp ty mask d a) ty.fmt.rcp ∧ gives (.vrsq ty mask d a) ty.fmt.rsq ∧
      ((ds = .nf ∨ ss = .nf) ∧ vecNf t.fa = none → Faults s s (exec (.vcvt ds ss mask d a) s) .format none) ∧
      (¬ ((ds = .nf ∨ ss = .nf) ∧ vecNf t.fa = none) →
        ∃ v, Completes s t [] (exec (.vcvt ds ss mask d a) s) (writesV d v) ∧ ∀ i, i < ds.lanes →
          lane ds.width v i =
            if i < Nat.min ss.lanes ds.lanes then
              (if laneActive t mask i then
                let x := lane ss.width t.v[a] i
                let v : FVal := if ss.isInt then intVal (slane ss.width x)
                  else if ss = .nf then ((vecNf t.fa).map (fun n => n.val x)).getD (.nan false) else ss.fmt.val x
                (if ds.isInt then ((toInt .rne (-2 ^ (ds.width - 1)) (2 ^ (ds.width - 1) - 1) v).1 % 2 ^ ds.width).toNat
                 else if ds = .nf then ((vecNf t.fa).map (fun n => (n.deliver v).bits)).getD 0 else (ds.fmt.deliver v).bits) % 2 ^ ds.width
               else lane ds.width t.v[d] i)
            else 0) ∧
      Completes s t [] (exec (.vmovg ty g a ln) s) (writes g (ty.toReg (lane w t.v[a] ln.toNat))) ∧
      Completes s t [] (exec (.mand md ma mb) s) (writesM md (t.m[ma] &&& t.m[mb])) ∧
      Completes s t [] (exec (.mor md ma mb) s) (writesM md (t.m[ma] ||| t.m[mb])) ∧
      Completes s t [] (exec (.mnot md ma) s) (writesM md (~~~t.m[ma])) ∧
      Completes s t [] (exec (.mpop g ma) s) (writes g (word ((List.range 64).countP (fun i => t.m[ma].getLsbD i))))) ∧
    (Ready s t [x] →
      ∃ v, Completes s t [x] (exec (.vbcast ty d x) s) (writesV d v) ∧ ∀ i, i < ty.lanes →
        lane ty.width v i = (t.rd x).toNat % 2 ^ ty.width) ∧
    ∀ f ∈ [Fmt.f32, Fmt.f16, Fmt.bf16], ∀ n, n < 2 ^ f.width →
      let u := f.val n
      let finite : Prop := u.isNan = false ∧ u.isInf = false
      let big := (f.val f.maxc).rat
      (u.isNan → f.exp2 n = f.nanBits ∧ f.rcp n = f.nanBits ∧ f.rsq n = f.nanBits) ∧
      -- 2^x
      (u.isInf → f.exp2 n = if u.sign then 0 else f.infBits) ∧
      (finite → (f.bias : ℚ) + 1 ≤ u.rat → f.exp2 n = f.infBits) ∧
      (∀ k : ℤ, finite → u.rat = k → f.emin - f.mbits ≤ k → k ≤ f.bias → f.exp2 n ≤ f.maxc ∧ (f.val (f.exp2 n)).rat = 2 ^ k) ∧
      (f ≠ .f32 → finite → f.emin ≤ ⌊u.rat⌋ → ⌊u.rat⌋ + 1 ≤ f.bias →
        f.exp2 n ≤ f.maxc ∧ (2 : ℚ) ^ ⌊u.rat⌋ ≤ (f.val (f.exp2 n)).rat ∧ (f.val (f.exp2 n)).rat ≤ 2 ^ (⌊u.rat⌋ + 1)) ∧
      -- 1 ÷ x
      (u.isZero → f.rcp n = f.signBit u.sign + f.infBits) ∧ (u.isInf → f.rcp n = f.signBit u.sign) ∧
      (finite → u.isZero = false →
        let q := |1 / u.rat|
        (f ≠ .f32 → ∃ fl, f.Rounds u.sign (fun z => q < z) (fun z => z < q) { bits := f.rcp n, fl := fl }) ∧
        (f = .f32 → big < q → f.rcp n = f.signBit u.sign + f.infBits) ∧
        (f = .f32 → q ≤ big → ∃ c, NearCode f.val f.maxc (fun z => q < z) (fun z => z < q) c ∧ f.rcp n = f.signBit u.sign + c)) ∧
      -- 1 ÷ √x
      (u.isZero → f.rsq n = f.signBit u.sign + f.infBits) ∧ (u.isInf → u.sign = false → f.rsq n = 0) ∧
      (u.isZero = false → u.sign → f.rsq n = f.nanBits) ∧
      (finite → u.isZero = false → u.sign = false →
        let lt (z : ℚ) : Prop := 1 < z ^ 2 * u.rat
        let gt (z : ℚ) : Prop := z ^ 2 * u.rat < 1
        (f ≠ .f32 → ∃ fl, f.Rounds false lt gt { bits := f.rsq n, fl := fl }) ∧
        (f = .f32 → NearCode f.val f.maxc lt gt (f.rsq n)))

/-! ## Control words (03, 07) -/

/-- R27, R52, R54, R110, R112: NOP, and every transfer of control: taken ones go to their target where it is canonical (and, for JMP and
CALLR, a multiple of 4), with g15 written by the calls; a branch that is not taken goes on to the bundle that follows, whatever its
target. A register target whose low bits are not zero takes the alignment fault before anything else is looked at, and any taken
transfer to an address that is not canonical the address fault; EADDR is the target, and nothing commits. -/
def Obligations.TransferResults : Prop :=
  ∀ (s : State) (t : Thread) (a : Src) (off : BitVec 20) (o : BitVec 15) (c : BrCc),
    let f := nextPc t.pc s.cur.size
    let far := t.pc + off.signExtend 64 * 4
    let near := t.pc + o.signExtend 64 * 4
    let x := t.rd a
    let cond : Prop := match c with
      | .lt => x.toInt < 0
      | .ge => x.toInt ≥ 0
      | .le => x.toInt ≤ 0
      | .gt => x.toInt > 0
    (Ready s t [] →
      Completes s t [] (exec .nop s) Commit.none ∧
      (canonical far = true → Transfers s t [] (exec (.b off) s) [] far ∧ Transfers s t [] (exec (.call off) s) [(15, f)] far) ∧
      (canonical far = false →
        Faults s s (exec (.b off) s) .address (some far) ∧ Faults s s (exec (.call off) s) .address (some far))) ∧
    (Ready s t [a] →
      (x = 0 → canonical near = true → Transfers s t [a] (exec (.bz a o) s) [] near) ∧
      (x = 0 → canonical near = false → Faults s s (exec (.bz a o) s) .address (some near)) ∧
      (x ≠ 0 → Completes s t [a] (exec (.bz a o) s) Commit.none) ∧
      (x ≠ 0 → canonical near = true → Transfers s t [a] (exec (.bnz a o) s) [] near) ∧
      (x ≠ 0 → canonical near = false → Faults s s (exec (.bnz a o) s) .address (some near)) ∧
      (x = 0 → Completes s t [a] (exec (.bnz a o) s) Commit.none) ∧
      (cond → canonical near = true → Transfers s t [a] (exec (.bcc c a o) s) [] near) ∧
      (cond → canonical near = false → Faults s s (exec (.bcc c a o) s) .address (some near)) ∧
      (¬ cond → Completes s t [a] (exec (.bcc c a o) s) Commit.none) ∧
      (x.toNat % 4 = 0 → canonical x = true →
        Transfers s t [a] (exec (.jmp a) s) [] x ∧ Transfers s t [a] (exec (.callr a) s) [(15, f)] x) ∧
      (x.toNat % 4 ≠ 0 → Faults s s (exec (.jmp a) s) .alignment (some x) ∧ Faults s s (exec (.callr a) s) .alignment (some x)) ∧
      (x.toNat % 4 = 0 → canonical x = false →
        Faults s s (exec (.jmp a) s) .address (some x) ∧ Faults s s (exec (.callr a) s) .address (some x)))

/-- R113, R326, R327, R412: BLK. Where the checks are off or pass, the thread goes on with G, D and C set, and C accumulates from then on;
where one fails, the thread is parked at the BLK with its record posted, or with STRCTL.RECONLY only the record is posted and the thread
goes on; the core's BLK counter advances where the checks are performed. -/
def Obligations.BlockResults : Prop :=
  ∀ (s : State) (t : Thread) (sig dig : BitVec 12), Ready s t [] →
    let r := s.cur.at_
    let ctl := (s.core r.part r.core).c.strctl
    let x := t.strain
    let checks : Prop := ctl.getLsbD 0 = true ∧ x.skip = false
    let counted := s.count r.part r.core 14 (some r.slot) 1
    let failed := counted.traceCond r.part r.core 5
    let sum := t.pc.extractLsb' 2 12 ^^^ t.pc.extractLsb' 14 12 ^^^ t.pc.extractLsb' 26 12 ^^^ t.pc.extractLsb' 38 12 ^^^
      (t.pc.extractLsb' 50 7).setWidth 12
    let bad : Prop := (sig ≠ 0 ∧ (x.g ^^^ sig) ≠ sum) ∨ (x.d ≠ 0 ∧ x.c ≠ x.d)
    let set (u : State) : State := u.modThread r (fun t => { t with
      strain := { g := sum, d := dig, c := 0, skip := false, on := true, parked := false } })
    (¬ checks → Commits s (set s) [] (exec (.blk sig dig) s) Commit.none) ∧
    (checks → ¬ bad → Commits s (set counted) [] (exec (.blk sig dig) s) Commit.none) ∧
    (checks → bad → ctl.getLsbD 1 = true →
      Commits s (set (postRecord failed r.part (strainRecord r t sig))) [] (exec (.blk sig dig) s) Commit.none) ∧
    (checks → bad → ctl.getLsbD 1 = false →
      exec (.blk sig dig) s = .next (fatalPark failed r (strainRecord r t sig)))
/-! ## What the words share: commits, pairs, traps, accesses (01, 03, 07, 20) -/

/-- R18, R21: what the commit of a bundle makes of its thread, whatever the state its words have left: registers, full bits, vectors, masks,
STATUS and the pc change together, and the thread waits for nothing. Records of addresses and stamps of a watched core apart, nothing else
of the thread changes. A bundle with a reply time waits for its reply, with nothing of its effect shown, and then commits the same. -/
def Obligations.CommitEffect : Prop :=
  ∀ (s s' : State) (t : Thread) (srcs : List Src) (c : Commit), s.thread s.cur.at_ = some t →
    (c.log.all LogItem.plain = true ∨ s.watched s.cur.at_.part s.cur.at_.core = false) → Commits s s srcs (.next s') c →
    (c.lat = 0 → ∃ t', s'.thread s.cur.at_ = some t' ∧ After s t srcs c t' ∧
      (s.watched s.cur.at_.part s.cur.at_.core = false → c.log.any LogItem.isFlow = false →
        s' = { s.setThread s.cur.at_ t' with events := owed s t ++ s.events })) ∧
    (c.lat ≠ 0 → c.log.any LogItem.isFlow = false → Later s t srcs (.next s') c)

/-- R18, R49: a pair. Its arithmetic word runs first and its commit is held while the control word runs, in a state where nothing of it
shows. Where the control word, whichever it is, comes to a commit, the pair commits the two together, when the later of the two replies has come;
where it waits for a reply of another unit, that reply will commit the two; where it faults, is dropped or waits, nothing of either word is
committed; and where the arithmetic word faults, whatever the control word, that fault is taken and the control word has no effect. It is said
of any words that go through the one operation that all words share, and then of a load with an addition and of a conversion that faults.
The model's choice of log entry 15 is part of it. -/
def Obligations.PairCommit : Prop :=
  ∀ (s : State) (t : Thread) (r : TRef) (ws : List (BitVec 32)) (d e : Reg) (a b x : Src) (off : BitVec 15) (c i : Instr)
    (csrcs asrcs : List Src) (f g : TRef → Thread → State → Res) (am : Commit), s.thread r = some t →
    let u : Cur := { at_ := r, size := 8, words := ws, phase := .second, hold := Commit.none }
    let s1 := { s with cur := u }
    let hold : Commit := { am with clears := am.clears ++ syncRegs asrcs }
    let held (hold : Commit) : State := { s with cur := { u with phase := .held, hold := hold } }
    let sum : Commit := { Commit.reg e (t.rd a + t.rd b) with clears := syncRegs [a, b] }
    -- the cycle of the arithmetic word's own reply
    let until_ (s2 : State) : Nat := if am.lat = 0 then 0 else ((s2.thread r).map (fun t => t.issuedIn)).getD 0 + am.lat
    let run := runBundle (.pair c i) r ws s
    (exec i s1 = runWord asrcs g s1 → emptyRegs t (syncRegs asrcs) = [] →
      (∀ k ea, g r t s1 = .trap k ea s1 → run = .next (takeTrap s1 r k ea)) ∧
      (g r t s1 = .done am s1 → run = exec c (held hold) ∧
        (exec c (held hold) = runWord csrcs f (held hold) → emptyRegs t (syncRegs csrcs) = [] →
          (∀ cm s2, f r t (held hold) = .done cm s2 →
            run = .next (commitIn s2 (held hold).cur (Nat.max (s2.cycle + cm.lat) (until_ s2))
              (Commit.merge { cm with clears := cm.clears ++ syncRegs csrcs } hold))) ∧
          (∀ q s2, f r t (held hold) = .pend q s2 →
            run = .next (pendThread s2 (held hold).cur { q with
              commit := Commit.merge { q.commit with clears := q.commit.clears ++ syncRegs csrcs } hold, notBefore := until_ s2 })) ∧
          (∀ k ea s2, f r t (held hold) = .trap k ea s2 → run = .next (takeTrap s2 r k ea)) ∧
          (∀ q s2, f r t (held hold) = .drop q s2 → run = .next (dropThread s2 r q)) ∧
          (∀ w s2, f r t (held hold) = .wait w s2 → run = .next (waitThread s2 r w))))) ∧
    (emptyRegs t (syncRegs [a, b]) = [] → runBundle (.pair c (.add e a b)) r ws s = exec c (held sum)) ∧
    (∀ at1 s2, emptyRegs t (syncRegs [a, b]) = [] → emptyRegs t (syncRegs [x]) = [] →
      Reads (held sum) t (t.rd x + off.signExtend 64) 8 true at1 s2 →
      runBundle (.pair (.ldS64 d x off) (.add e a b)) r ws s =
        .next (commitIn s2 (held sum).cur (s2.cycle + at1.lat)
          (Commit.merge { Commit.none with
            regs := [(d, word (memRead s2.mem at1.key 8))], clears := syncRegs [x],
            log := .addr (t.rd x + off.signExtend 64) :: stampItems at1 ++ [.load d 3 (word (memRead s2.mem at1.key 8))],
            lat := at1.lat } sum))) ∧
    (emptyRegs t (syncRegs [a]) = [] → nfOf t.fa = none →
      runBundle (.pair c (.fcvt .f32 .nf d a)) r ws s = .next (takeTrap s1 r .format none))

/-- R20, R21, R27, R311, R348: handler entry. With a usable handler (not zero, canonical, a multiple of 4) and the thread not already in it,
EPC, EADDR and ECAUSE are saved, the pc goes to HANDLER, and no other register changes; the thread issues again no sooner than its bundle's
issue allows, and in a later cycle; for a TRAP, EPC is the address of the word after it.
Otherwise the thread is parked, with the fatal record 0x030 posted. -/
def Obligations.TrapEntry : Prop :=
  ∀ (s : State) (t : Thread) (k : Cause) (eaddr : Option Word), s.thread s.cur.at_ = some t →
    s.watched s.cur.at_.part s.cur.at_.core = false →
    let r := s.cur.at_
    let h := ctxWord s r.part t.ctx 0x08
    let usable : Prop := t.ecause.getLsbD 63 = false ∧ h ≠ 0 ∧ canonical h = true ∧ h.toNat % 4 = 0
    let ea := match eaddr with
      | some a => a
      | none => t.pc
    (usable →
      ∃ t', (takeTrap s r k eaddr).thread r = some t' ∧ t'.pc = h ∧ t'.eaddr = ea ∧ t'.ecause = word (2 ^ 63 + k.code) ∧
        t'.epc = (match k with
          | .trap _ => nextPc t.pc 4
          | _ => t.pc) ∧
        t'.regs = t.regs ∧ t'.status = t.status ∧ t'.v = t.v ∧ t'.m = t.m ∧ t'.ctx = t.ctx ∧ t'.tid = t.tid ∧ t'.parked = t.parked ∧
        t'.wait = none ∧ t'.readyAt = Nat.max t.readyAt (s.cycle + 1) ∧ (takeTrap s r k eaddr).mem = s.mem) ∧
    (¬ usable →
      ∃ t' s1, takeTrap s r k eaddr = postRecord s1 r.part (TrapRec.ofThread r t 0x030 1 t.pc ea) ∧ s1.thread r = some t' ∧
        t'.parked = true ∧ t'.pc = t.pc ∧ t'.epc = t.epc ∧ t'.ecause = t.ecause ∧ t'.regs = t.regs ∧ s1.mem = s.mem)

/-- R22, R118, R175, R193, R370: the checks of every plain load and store, in both addressing forms, and of VLD and VST, in their order: the
form of the address, its alignment, then a window's bounds or the page's translation and rights; and those of the first active lane of VLDS,
VGATH and VSCAT. Each takes the precise fault named, with EADDR the address; a vector form reaches no other partition.
The model's choice of log entry 72 is part of it. -/
def Obligations.AccessFaults : Prop :=
  ∀ (s : State) (t : Thread) (d : Reg) (vd vb : VReg) (a b : Src) (off : BitVec 15) (ty : VType) (mask : Option MReg) (k : Nat),
    let faults (i : Instr) (ea : Word) (n : Nat) (need : BitVec 4) (afar : Bool) : Prop :=
      let window : Prop := ea.toNat / 2 ^ 40 = 0xFF0000
      let remote : Prop := ea.toNat / 2 ^ 52 = 0xFFE
      (canonical ea = false → Faults s s (exec i s) .address (some ea)) ∧
      (remote → afar = false → Faults s s (exec i s) .address (some ea)) ∧
      (canonical ea = true → (remote → afar = true) → ea.toNat % n ≠ 0 → Faults s s (exec i s) .misaligned (some ea)) ∧
      (canonical ea = true → ea.toNat % n = 0 → window → windowKey s.cur.at_.part s.cur.at_.core ea = none →
        Faults s s (exec i s) .window (some ea)) ∧
      (canonical ea = true → ea.toNat % n = 0 → ¬ window → ¬ remote → ∀ k x s1,
        protect s s.cur.at_ t need ea = .error (.trap k x s1) → Faults s s1 (exec i s) k x) ∧
      (canonical ea = true → ea.toNat % n = 0 → ¬ window → ¬ remote → ∀ q s1,
        protect s s.cur.at_ t need ea = .error (.drop q s1) → Drops s s1 (exec i s) q)
    let offset : List (Instr × Nat × BitVec 4 × Bool) :=
      [(.ldS8 d a off, 1, 1, true), (.ldS16 d a off, 2, 1, true), (.ldS32 d a off, 4, 1, true), (.ldS64 d a off, 8, 1, true),
       (.ldZ8 d a off, 1, 1, true), (.ldZ16 d a off, 2, 1, true), (.ldZ32 d a off, 4, 1, true), (.st8 d a off, 1, 2, true),
       (.st16 d a off, 2, 2, true), (.st32 d a off, 4, 2, true), (.st64 d a off, 8, 2, true), (.vld vd a off, 64, 1, false),
       (.vst vd a off, 64, 2, false)]
    let indexed : List (Instr × Nat × BitVec 4) :=
      [(.ldx .s8 d a b, 1, 1), (.ldx .s16 d a b, 2, 1), (.ldx .s32 d a b, 4, 1), (.ldx .s64 d a b, 8, 1), (.ldx .z8 d a b, 1, 1),
       (.ldx .z16 d a b, 2, 1), (.ldx .z32 d a b, 4, 1), (.stx .b8 d a b, 1, 2), (.stx .b16 d a b, 2, 2), (.stx .b32 d a b, 4, 2),
       (.stx .b64 d a b, 8, 2)]
    (Ready s t [a] → ∀ e ∈ offset, faults e.1 (t.rd a + off.signExtend 64) e.2.1 e.2.2.1 e.2.2.2) ∧
    (Ready s t [a, b] → ∀ e ∈ indexed, faults e.1 (t.rd a + t.rd b * word e.2.1) e.2.1 e.2.2 true) ∧
    (((List.range ty.lanes).filter (fun i => laneActive t mask i)).head? = some k →
      let n := ty.width / 8
      let ix := t.rd a + sextTo ty.width (lane ty.width t.v[vb] k)
      (Ready s t [a, b] → faults (.vlds ty mask vd a b) (t.rd a + word k * t.rd b) n 1 false) ∧
      (Ready s t [a] → faults (.vgath ty mask vd a vb) ix n 1 false ∧ faults (.vscat ty mask vd a vb) ix n 2 false))

/-- R199, R200, R203, R205, R214: what the lookup of an access finds. An entry of the PLB for the context that covers the address serves it,
and its rights allow the access or it takes the protection fault; without one, the leaf that a walk finds serves it, with the rights that
the domain and rights tables give, and a walk that ends with no leaf drops the thread, with the record of the walk's fault: an entry that is
not valid, a retired page (of a large page, whichever page filled the PLB entry), a poisoned table page, a malformed entry.
The model's choices of log entry 51 (the DETAIL words of the records of a poisoned table and of a full list) are part of it. -/
def Obligations.ProtectionLookup : Prop :=
  ∀ (s : State) (t : Thread) (need : BitVec 4) (ea : Word),
    let r := s.cur.at_
    let serves (l : Leaf) (valid : Bool) (nibble : BitVec 4) : Prop :=
      let rights : BitVec 4 := rightsOf valid l.dom nibble t.priv
      let allowed : Prop := rights &&& need = need ∧ ¬ (need.getLsbD 1 = true ∧ l.ro = true) ∧ ¬ (need.getLsbD 2 = true ∧ l.nx = true)
      (allowed → ∃ s1, protect s r t need ea = .ok (l, s1) ∧ s1.mem = s.mem) ∧
      (¬ allowed → ∃ s1, protect s r t need ea = .error (.trap .protection (some ea) s1) ∧ s1.mem = s.mem)
    let drops (code cls d0 d1 : Nat) : Prop :=
      ∃ s1 q, protect s r t need ea = .error (.drop q s1) ∧ q.code = code ∧ q.cls = cls ∧ q.addr = ea ∧ q.d0 = word d0 ∧ q.d1 = word d1 ∧
        s1.mem = s.mem
    (∀ e, plbFind (s.core r.part r.core).c.plb (va57 ea) t.ctx = some e →
      (nmem (s.part r.part).retired (e.leaf.frame (va57 ea)) = false → serves e.leaf e.domValid e.rights) ∧
      (nmem (s.part r.part).retired (e.leaf.frame (va57 ea)) = true → drops 0x020 0 ((if e.leaf.big then 1 else 0) + 256) 0)) ∧
    (plbFind (s.core r.part r.core).c.plb (va57 ea) t.ctx = none → (kget (s.part r.part).tcache (homeSlice (lineOf ea)).val).getD [] = [] →
      match walkPage s r.part ea with
      | .leaf l => serves l (domainEntry s r.part l.dom).1 (rightsNibble s r.part t.ctx.toNat l.dom)
      | .page level => drops 0x020 0 level 0
      | .retired l => drops 0x020 0 ((if l.big then 1 else 0) + 256) 0
      | .format level => drops 0x022 0 level 0
      | .poisoned level frame =>
        if nmem (s.part r.part).badTables frame = true ∨ (s.part r.part).badTables.length < 64 then drops 0x021 0 level (2 ^ 16 * frame)
        else drops 0x042 1 (2 ^ 16 * frame) 0)

/-! ## Loads and stores (07) -/

/-- R115: what every plain load writes to gd, for each width and extension, in both addressing forms: the value of its bytes, found as
`Reads` says, least significant byte first.
The model's choice of log entry 13 is part of it. -/
def Obligations.LoadResults : Prop :=
  ∀ (s s2 : State) (t : Thread) (d : Reg) (a b : Src) (off : BitVec 15) (x : At),
    let loads (srcs : List Src) (i : Instr) (ea : Word) (n : Nat) (f : Nat → Word) : Prop :=
      Ready s t srcs → Reads s t ea n true x s2 →
        let v := f (memRead s2.mem x.key n)
        Commits s s2 srcs (exec i s)
          { writes d v with log := .addr ea :: stampItems x ++ [.load d (Nat.log2 n) v], lat := x.lat }
    let e := t.rd a + off.signExtend 64
    let ix (n : Nat) := t.rd a + t.rd b * word n
    loads [a] (.ldS8 d a off) e 1 (signExt 1) ∧ loads [a] (.ldS16 d a off) e 2 (signExt 2) ∧ loads [a] (.ldS32 d a off) e 4 (signExt 4) ∧
    loads [a] (.ldS64 d a off) e 8 word ∧ loads [a] (.ldZ8 d a off) e 1 word ∧ loads [a] (.ldZ16 d a off) e 2 word ∧
    loads [a] (.ldZ32 d a off) e 4 word ∧
    loads [a, b] (.ldx .s8 d a b) (ix 1) 1 (signExt 1) ∧ loads [a, b] (.ldx .s16 d a b) (ix 2) 2 (signExt 2) ∧
    loads [a, b] (.ldx .s32 d a b) (ix 4) 4 (signExt 4) ∧ loads [a, b] (.ldx .s64 d a b) (ix 8) 8 word ∧
    loads [a, b] (.ldx .z8 d a b) (ix 1) 1 word ∧ loads [a, b] (.ldx .z16 d a b) (ix 2) 2 word ∧
    loads [a, b] (.ldx .z32 d a b) (ix 4) 4 word

/-- R115: every plain store writes the low bytes of gd where `Writes` finds them, least significant byte first, and no other byte of
memory; it writes no register.
The model's choice of log entry 13 is part of it. -/
def Obligations.StoreResults : Prop :=
  ∀ (s s2 : State) (t : Thread) (d : Reg) (a b : Src) (off : BitVec 15) (x : At), Memory.wf s2.mem = true →
    let stores (srcs : List Src) (i : Instr) (ea : Word) (n : Nat) : Prop :=
      Ready s t srcs → Writes s t ea n true x s2 →
        let v := word ((t.src.g[d]).toNat % 2 ^ (8 * n))
        ∃ s3, Commits s s3 srcs (exec i s)
            { Commit.none with log := [.addr ea, .store d (Nat.log2 n) v, .leave (lineOf ea)], lat := x.lat } ∧
          (∀ k, s3.byte k = if x.key ≤ k ∧ k < x.key + n then (t.src.g[d]).extractLsb' (8 * (k - x.key)) 8 else s2.byte k) ∧
          MemoryCanonical s3
    let e := t.rd a + off.signExtend 64
    let ix (n : Nat) := t.rd a + t.rd b * word n
    stores [a] (.st8 d a off) e 1 ∧ stores [a] (.st16 d a off) e 2 ∧ stores [a] (.st32 d a off) e 4 ∧ stores [a] (.st64 d a off) e 8 ∧
    stores [a, b] (.stx .b8 d a b) (ix 1) 1 ∧ stores [a, b] (.stx .b16 d a b) (ix 2) 2 ∧ stores [a, b] (.stx .b32 d a b) (ix 4) 4 ∧
    stores [a, b] (.stx .b64 d a b) (ix 8) 8

/-- R175, R193 to R196, R236, R276, R415: a load from a window, in both addressing forms and of a vector, by a thread of which no RED to the
same bytes is on its way: it changes nothing but its thread, and beside it at a scratchpad the queues of the banks that its bytes lie in, where
it waits for the requests that came before it, at the shared SRAM the count of accesses; a store to a window changes besides only its bytes and
what is kept of its line or words beside them. A load of a poisoned word faults.
The model's choices of log entries 13 and 28 are part of it. -/
def Obligations.WindowAccess : Prop :=
  ∀ (s : State) (t : Thread) (d : Reg) (vd : VReg) (a b : Src) (off : BitVec 15) (key lat : Nat),
    s.watched s.cur.at_.part s.cur.at_.core = false → Memory.wf s.mem = true →
    let p := s.cur.at_.part
    let c := s.cur.at_.core
    -- what the bundle has asked of its cluster's scratchpad before, the banks that it comes to now, and the cycles that they cost it
    let w : Option ClusterWorld := (clusterOf c).map (fun k => (s.cluster p k).w)
    let own : BankUse := ((w.bind (fun w => w.banks.find? (fun e => e.core == c && e.slot == s.cur.at_.slot)))).getD
      { core := c, slot := s.cur.at_.slot, wait := 0, banks := [] }
    let bs (n : Nat) : List Nat := (banksOf key n).filter (fun b => !own.banks.contains b)
    let waits (n : Nat) : Nat := Nat.max own.wait ((w.map (fun w => bankWait w (bs n))).getD 0)
    let reply (n : Nat) : Nat := if key / 2 ^ 48 % 4 = 2 then lat + waits n else lat
    let loads (srcs : List Src) (i : Instr) (ea : Word) (n : Nat) (c : Commit) (log : List LogItem) : Prop :=
      Ready s t srcs → inWindowRegion ea = true → windowKey p s.cur.at_.core ea = some (key, lat) → ea.toNat % n = 0 →
      redPending s p t.tid key n = false →
        (windowPoisoned s key n = true → Faults s s (exec i s) .poison (some ea)) ∧
        (windowPoisoned s key n = false →
          ∃ s1, Commits s s1 srcs (exec i s) { c with log := .addr ea :: log, lat := reply n } ∧
            s1.mem = s.mem ∧ s1.fe = s.fe ∧ s1.poison = s.poison ∧ s1.cycle = s.cycle ∧ s1.events = s.events ∧
            ∀ r, s1.thread r = s.thread r)
    let load (srcs : List Src) (i : Instr) (ea : Word) (n : Nat) (f : Nat → Word) : Prop :=
      let v := f (memRead s.mem key n)
      loads srcs i ea n (writes d v) [.load d (Nat.log2 n) v]
    let vec : BitVec 512 := BitVec.ofNat 512 (memRead s.mem key 64)
    let stores (srcs : List Src) (i : Instr) (ea : Word) (n : Nat) (byte : Nat → Byte) (log : List LogItem) : Prop :=
      Ready s t srcs → inWindowRegion ea = true → windowKey p s.cur.at_.core ea = some (key, lat) → ea.toNat % n = 0 →
      redPending s p t.tid key n = false →
        ∃ s1, Commits s s1 srcs (exec i s) { Commit.none with log := .addr ea :: log, lat := reply n } ∧
          (∀ k, s1.byte k = if key ≤ k ∧ k < key + n then byte (k - key) else s.byte k) ∧
          MemoryCanonical s1 ∧ s1.fe = s.fe ∧ s1.poison = s.poison ∧ s1.cycle = s.cycle ∧ ∀ r, s1.thread r = s.thread r
    let store (srcs : List Src) (i : Instr) (ea : Word) (n : Nat) : Prop :=
      stores srcs i ea n (fun k => (t.src.g[d]).extractLsb' (8 * k) 8)
        [.store d (Nat.log2 n) (word ((t.src.g[d]).toNat % 2 ^ (8 * n))), .leave (lineOf ea)]
    let e := t.rd a + off.signExtend 64
    let ix (n : Nat) := t.rd a + t.rd b * word n
    load [a] (.ldS8 d a off) e 1 (signExt 1) ∧ load [a] (.ldS16 d a off) e 2 (signExt 2) ∧ load [a] (.ldS32 d a off) e 4 (signExt 4) ∧
    load [a] (.ldS64 d a off) e 8 word ∧ load [a] (.ldZ8 d a off) e 1 word ∧ load [a] (.ldZ16 d a off) e 2 word ∧
    load [a] (.ldZ32 d a off) e 4 word ∧
    load [a, b] (.ldx .s8 d a b) (ix 1) 1 (signExt 1) ∧ load [a, b] (.ldx .s16 d a b) (ix 2) 2 (signExt 2) ∧
    load [a, b] (.ldx .s32 d a b) (ix 4) 4 (signExt 4) ∧ load [a, b] (.ldx .s64 d a b) (ix 8) 8 word ∧
    load [a, b] (.ldx .z8 d a b) (ix 1) 1 word ∧ load [a, b] (.ldx .z16 d a b) (ix 2) 2 word ∧
    load [a, b] (.ldx .z32 d a b) (ix 4) 4 word ∧
    loads [a] (.vld vd a off) e 64 (writesV vd vec) [.vec vd.val (vecXor vec)] ∧
    store [a] (.st8 d a off) e 1 ∧ store [a] (.st16 d a off) e 2 ∧ store [a] (.st32 d a off) e 4 ∧ store [a] (.st64 d a off) e 8 ∧
    store [a, b] (.stx .b8 d a b) (ix 1) 1 ∧ store [a, b] (.stx .b16 d a b) (ix 2) 2 ∧ store [a, b] (.stx .b32 d a b) (ix 4) 4 ∧
    store [a, b] (.stx .b64 d a b) (ix 8) 8 ∧
    stores [a] (.vst vd a off) e 64 (fun k => t.v[vd].extractLsb' (8 * k) 8) [.vecStore vd.val (vecXor t.v[vd])] ∧
    (∀ i n, (i, n) ∈ ([(.ldS8 d a off, 1), (.ldS16 d a off, 2), (.ldS32 d a off, 4), (.ldS64 d a off, 8), (.ldZ8 d a off, 1),
        (.ldZ16 d a off, 2), (.ldZ32 d a off, 4), (.st8 d a off, 1), (.st16 d a off, 2), (.st32 d a off, 4), (.st64 d a off, 8),
        (.vld vd a off, 64), (.vst vd a off, 64)] : List (Instr × Nat)) →
      Ready s t [a] → inWindowRegion e = true → windowKey p c e = some (key, lat) → e.toNat % n = 0 →
      redPending s p t.tid key n = true → Waits s s (exec i s) .queue)

/-- R175, R236, R368, R370: a plain access to another partition's exported span, in both addressing forms, sends its request, and the bundle
waits for the reply that commits it; through the span of its own partition it waits first for the thread's REDs and ADDMs to its bytes. On a
watched core a store first passes its containment point, so it is said here of an unwatched one. -/
def Obligations.RemoteAccess : Prop :=
  ∀ (s : State) (t : Thread) (d : Reg) (a b : Src) (off : BitVec 15),
    s.watched s.cur.at_.part s.cur.at_.core = false →
    let request (ea : Word) (op : RemoteOp) : State := sendRemote s
      { srcMod := s.modid, src := s.cur.at_, srcTid := t.tid, modid := ea.extractLsb' 36 16, dst := (ea.extractLsb' 32 4).toFin,
        off := ea.extractLsb' 0 32, corr := t.corr, op := op }
    let afar (srcs : List Src) (i : Instr) (ea : Word) (n : Nat) (u : State) (q : Pend) : Prop :=
      Ready s t srcs → inRemoteRegion ea = true → ea.toNat % n = 0 →
        (remoteOwn s s.cur.at_ t ea n = true → Waits s s (exec i s) .queue) ∧
        (remoteOwn s s.cur.at_ t ea n = false → Pends s u srcs (exec i s) q)
    let loads (srcs : List Src) (i : Instr) (ea : Word) (ty : LdType) (n : Nat) : Prop :=
      afar srcs i ea n (request ea (.load ty))
        { commit := { Commit.none with log := [.addr ea] }, dest := some d, log := .load (Nat.log2 n), ty := some ty, addr := ea,
          size := 0, words := [] }
    let stores (srcs : List Src) (i : Instr) (ea : Word) (ty : StType) (n : Nat) : Prop :=
      let v := word ((t.src.g[d]).toNat % 2 ^ (8 * n))
      afar srcs i ea n (request ea (.store ty v))
        { commit := { Commit.none with log := [.addr ea, .store d (Nat.log2 n) v] }, dest := none, log := .nothing, ty := none, addr := ea,
          size := 0, words := [] }
    let e := t.rd a + off.signExtend 64
    let ix (n : Nat) := t.rd a + t.rd b * word n
    loads [a] (.ldS8 d a off) e .s8 1 ∧ loads [a] (.ldS16 d a off) e .s16 2 ∧ loads [a] (.ldS32 d a off) e .s32 4 ∧
    loads [a] (.ldS64 d a off) e .s64 8 ∧ loads [a] (.ldZ8 d a off) e .z8 1 ∧ loads [a] (.ldZ16 d a off) e .z16 2 ∧
    loads [a] (.ldZ32 d a off) e .z32 4 ∧
    loads [a, b] (.ldx .s8 d a b) (ix 1) .s8 1 ∧ loads [a, b] (.ldx .s16 d a b) (ix 2) .s16 2 ∧
    loads [a, b] (.ldx .s32 d a b) (ix 4) .s32 4 ∧ loads [a, b] (.ldx .s64 d a b) (ix 8) .s64 8 ∧
    loads [a, b] (.ldx .z8 d a b) (ix 1) .z8 1 ∧ loads [a, b] (.ldx .z16 d a b) (ix 2) .z16 2 ∧
    loads [a, b] (.ldx .z32 d a b) (ix 4) .z32 4 ∧
    stores [a] (.st8 d a off) e .b8 1 ∧ stores [a] (.st16 d a off) e .b16 2 ∧ stores [a] (.st32 d a off) e .b32 4 ∧
    stores [a] (.st64 d a off) e .b64 8 ∧
    stores [a, b] (.stx .b8 d a b) (ix 1) .b8 1 ∧ stores [a, b] (.stx .b16 d a b) (ix 2) .b16 2 ∧
    stores [a, b] (.stx .b32 d a b) (ix 4) .b32 4 ∧ stores [a, b] (.stx .b64 d a b) (ix 8) .b64 8

/-! ## Full/empty words (09) -/

/-- R149, R150, R335: the five words on full/empty words, where the word stands at its home: what each does to a full word and to an empty one, a
write leaving the line no stamp, and which of them leave their thread waiting in the word's lists; of another partition's word each sends its
request, after the thread's own REDs and ADDMs to a word of its own partition (R236), said of the writing ones on a core without a taster
(R334, R370).
The model's choice of log entry 13 is part of it. -/
def Obligations.FullEmptyResults : Prop :=
  ∀ (s s1 s2 : State) (t : Thread) (d : Reg) (a : Src) (off : BitVec 15) (pl : Place) (x : At), Ready s t [a] →
    let r := s.cur.at_
    let ea := t.rd a + off.signExtend 64
    let v := s2.readMem x.key 8
    let y := t.src.g[d]
    let home (need : BitVec 4) (reads writes : Bool) : Prop :=
      checkAccess s r t need ea 8 true = .ok (pl, s1) ∧ homePlace s1 r t need reads writes ea 8 pl = .ok (x, s2)
    -- whether a large leaf has translated the address (R256)
    let big : Bool := match pl with
      | .mem l => l.big
      | _ => false
    let req (op : FeOp) (w : Word) : FeReq := { op := op, key := x.key, val := w, who := .thread r t.tid, corr := t.corr }
    let l := feLists s2 r.part x.key
    let soon (u : State) : State := feServeSoon u r.part x.key
    let read (k : Nat) : Commit :=
      { writes d v with log := .addr ea :: stampItems x ++ [.atom k d v], lat := x.lat }
    let wrote (log : List LogItem) : Commit := { Commit.none with log := .addr ea :: log, lat := x.lat }
    let waits (k : Nat) (big : Bool) : Pend :=
      { commit := { Commit.none with log := [.addr ea] }, dest := some d, log := .atom k, ty := some .s64, addr := ea, big := big,
        size := 0, words := [] }
    (home 3 true true →
      (s2.fullBit x.key = true → Commits s (soon (s2.setFullBit x.key false)) [a] (exec (.lds d a off) s) (read 0)) ∧
      (s2.fullBit x.key = false →
        Pends s (soon (setFeLists s2 r.part x.key { l with full := l.full ++ [req .lds 0] })) [a] (exec (.lds d a off) s) (waits 0 big))) ∧
    (home 1 true false →
      (s2.fullBit x.key = true → Commits s (soon s2) [a] (exec (.ldsk d a off) s) (read 1)) ∧
      (s2.fullBit x.key = false →
        Pends s (soon (setFeLists s2 r.part x.key { l with full := l.full ++ [req .ldsk 0] })) [a] (exec (.ldsk d a off) s) (waits 1 big))) ∧
    (home 2 false true →
      let filled : State := soon ((putBytes (unstampAt s2 r.part x.key) r.part x.key 8 y).setFullBit x.key true)
      (s2.fullBit x.key = false → Commits s filled [a] (exec (.sts d a off) s) (wrote [.atom 2 d y, .leave (lineOf ea)])) ∧
      (s2.fullBit x.key = true →
        Pends s (soon (setFeLists s2 r.part x.key { l with empty := l.empty ++ [req .sts y] })) [a] (exec (.sts d a off) s)
          { commit := { Commit.none with log := .addr ea :: [.atom 2 d y, .leave (lineOf ea)] }, dest := none, log := .nothing,
            ty := none, addr := ea, big := big, size := 0, words := [] }) ∧
      Commits s filled [a] (exec (.stf d a off) s) (wrote [.atom 3 d y, .leave (lineOf ea)]) ∧
      Commits s (soon (s2.setFullBit x.key false)) [a] (exec (.clre a off) s) (wrote [.atom 4 0 0])) ∧
    (inRemoteRegion ea = true → ea.toNat % 8 = 0 →
      let request (op : RemoteOp) : State := sendRemote s
        { srcMod := s.modid, src := r, srcTid := t.tid, modid := ea.extractLsb' 36 16, dst := (ea.extractLsb' 32 4).toFin,
          off := ea.extractLsb' 0 32, corr := t.corr, op := op }
      let gone (log : List LogItem) : Pend :=
        { commit := { Commit.none with log := .addr ea :: log }, dest := none, log := .nothing, ty := none, addr := ea, size := 0,
          words := [] }
      (remoteOwn s r t ea 8 = true → ∀ i ∈ ([.lds d a off, .ldsk d a off, .sts d a off, .stf d a off, .clre a off] : List Instr),
        Waits s s (exec i s) .queue) ∧
      (remoteOwn s r t ea 8 = false →
        Pends s (request (.fe .lds 0)) [a] (exec (.lds d a off) s) (waits 0 false) ∧
        Pends s (request (.fe .ldsk 0)) [a] (exec (.ldsk d a off) s) (waits 1 false)) ∧
      (remoteOwn s r t ea 8 = false → s.watched r.part r.core = false →
        Pends s (request (.fe .sts y)) [a] (exec (.sts d a off) s) (gone [.atom 2 d y, .leave (lineOf ea)]) ∧
        Pends s (request (.fe .stf y)) [a] (exec (.stf d a off) s) (gone [.atom 3 d y, .leave (lineOf ea)]) ∧
        Pends s (request (.fe .clre 0)) [a] (exec (.clre a off) s) (gone [.atom 4 0 0])))

/-- R149, R212, R335: a word's waiting list is served one entry at a time: while the word is full, the oldest waiting load takes its value, and
LDS leaves it empty; while it is empty, the oldest waiting STS writes it, with the records of a watched one, and leaves it full; a poisoned word
serves no one; and an operation of another party is performed or joins the lists in the same way.
The model's choice of log entry 74 is part of it. -/
def Obligations.FullEmptyService : Prop :=
  ∀ (s s0 : State) (p : PartId) (key : Nat) (q : FeReq) (rest : List FeReq),
    let s1 := readHome s0 p key (feCorr s0 p key)
    let l := feLists s1 p key
    let bad : Prop := s1.linePoisoned key = true ∨ s1.wordPoisoned key = true
    (feDue s p key = false → exec (.feListServe p key) s = .next s) ∧
    let written (u : State) (k : Nat) (v : Word) : State := (putBytes (unstampAt u p k) p k 8 v).setFullBit k true
    (feDue s p key = true → opAtHome (lineBack s p key) p key (.step (.feListServe p key)) = .error s0 →
      exec (.feListServe p key) s = .next (s0.holdBack (.feListServe p key))) ∧
    (feDue s p key = true → opAtHome (lineBack s p key) p key (.step (.feListServe p key)) = .ok s0 → q.key = key →
      (bad → exec (.feListServe p key) s = .next (fePoisoned s1 p key)) ∧
      (¬ bad → s1.fullBit key = true → l.full = q :: rest →
        let s2 := setFeLists s1 p key { l with full := rest }
        exec (.feListServe p key) s = .next (feServeSoon
          (feReply (if q.op = .lds then s2.setFullBit key false else s2) p q (some (s2.readMem key 8))) p key)) ∧
      (¬ bad → s1.fullBit key = false → l.empty = q :: rest →
        exec (.feListServe p key) s = .next (feServeSoon
          (feReply (feLogged (written (setFeLists s1 p key { l with empty := rest }) key q.val) q) p q none) p key))) ∧
    (∀ u, opAtHome s p q.key (.step (.feHomeOperation p q)) = .ok u → u.sramAt p q.key = s0 →
      let lq := feLists s0 p q.key
      let goes (u : State) : Prop := exec (.feHomeOperation p q) s = .next (feServeSoon u p q.key)
      (q.op = .lds → s0.fullBit q.key = true → goes (feReply (s0.setFullBit q.key false) p q (some (s0.readMem q.key 8)))) ∧
      (q.op = .ldsk → s0.fullBit q.key = true → goes (feReply s0 p q (some (s0.readMem q.key 8)))) ∧
      ((q.op = .lds ∨ q.op = .ldsk) → s0.fullBit q.key = false → goes (setFeLists s0 p q.key { lq with full := lq.full ++ [q] })) ∧
      (q.op = .sts → s0.fullBit q.key = true → goes (setFeLists s0 p q.key { lq with empty := lq.empty ++ [q] })) ∧
      ((q.op = .stf ∨ (q.op = .sts ∧ s0.fullBit q.key = false)) →
        goes (feReply (written s0 q.key q.val) p q none)) ∧
      (q.op = .clre → goes (feReply (s0.setFullBit q.key false) p q none)))

/-! ## Threads and messages (09) -/

/-- R153, R154, R238: SPAWN and EXIT. SPAWN with a good entry and core makes a thread with g0 to g2 of the spawner, the spawner's TID in its g3,
its context and CORR, in the lowest free general slot, else in the core's landing queue, and writes its TID to gd; with neither, it
writes all ones. A bad entry or core faults; and as a release for the new thread, SPAWN follows its own REDs and ADDMs (R238). EXIT retires its thread once its REDs and ADDMs are performed.
The model's choices of log entries 32, 33 and 79 (the lowest free slot) are part of it. -/
def Obligations.SpawnExitResults : Prop :=
  ∀ (s : State) (t : Thread) (d : Reg) (a b : Src) (c : CoreId),
    let r := s.cur.at_
    let x := t.rd a
    let w := (s.core r.part c).w
    (Ready s t [a, b] →
      ((canonical x = false ∨ x.toNat % 4 ≠ 0) → Faults s s (exec (.spawn d a b) s) .address (some x)) ∧
      (canonical x = true → x.toNat % 4 = 0 → s.coreNum r.part (t.rd b) = none →
        Faults s s (exec (.spawn d a b) s) .target (some (t.rd b))) ∧
      (canonical x = true → x.toNat % 4 = 0 → s.coreNum r.part (t.rd b) = some c → fenceMet s r t .part = false →
        Waits s s (exec (.spawn d a b) s) (.fence .part)) ∧
      (canonical x = true → x.toNat % 4 = 0 → s.coreNum r.part (t.rd b) = some c → fenceMet s r t .part = true →
        (freeGeneral w = none → 16 ≤ w.landing.length →
          Commits s s [a, b] (exec (.spawn d a b) s) { writes d 0xFFFFFFFFFFFFFFFF with log := [.atom 17 d 0xFFFFFFFFFFFFFFFF] }) ∧
        (∀ n s1 new, allocTid s r.part = (n, s1) →
          new = Thread.start 2 x (Regs.fresh t.src.g[(0 : Reg)] t.src.g[(1 : Reg)] t.src.g[(2 : Reg)] (word t.tid)) n t.ctx t.corr
            t.pin (s1.watched r.part c) (s1.cycle + 1) →
          let done : Commit := { writes d (word n) with log := [.atom 17 d (word n)] }
          (∀ sl, freeGeneral w = some sl →
            Commits s (placeThread s1 ⟨r.part, c, sl⟩ new (s1.cycle + 1)) [a, b] (exec (.spawn d a b) s) done) ∧
          (freeGeneral w = none → w.landing.length < 16 →
            Commits s (s1.modCoreW r.part c (fun w => { w with landing := w.landing ++ [new] })) [a, b] (exec (.spawn d a b) s) done)))) ∧
    (Ready s t [] →
      (updatesPending s r.part t.tid = true → Waits s s (exec .exit s) .queue) ∧
      (updatesPending s r.part t.tid = false → s.watched r.part r.core = false →
        exec .exit s = .next (retire s r { t with regs := commitRegs t.regs Commit.none })))

/-- R138, R155 to R157, R339: SEND leaves for its target core and waits for the entry to be written; the message waits in the fabric while the
core's channel is off or a message of its flow waits there, else enters the ring, TAIL advances and the sender is answered; with a full
ring the buffer of four takes it, and past that it is refused and sent again. RECV on a ring that is not empty reads the entry at HEAD and
advances HEAD, on an empty one waits, and on a poisoned entry faults with its address.
The model's choice of log entry 34 is part of it. -/
def Obligations.MessageResults : Prop :=
  ∀ (s : State) (t : Thread) (d : Reg) (a b : Src) (p : PartId) (c : CoreId) (m : SendMsg) (rest : List SendMsg),
    let r := s.cur.at_
    let w := (s.core r.part r.core).w
    let v := (s.core p c).w
    let entry := keyTcm p c (0x1F000 + 8 * v.rxTail.toNat)
    let full : Prop := v.rxTail + 1 = v.rxHead
    let written (u : State) : State := replyThread ((putBytes u p entry 8 m.val).modCoreW p c (fun w => { w with rxTail := w.rxTail + 1 }))
      m.src m.srcTid none
    (Ready s t [a, b] → s.coreNum r.part (t.rd a) = none → Faults s s (exec (.send a b) s) .target (some (t.rd a))) ∧
    (Ready s t [a, b] → s.coreNum r.part (t.rd a) = some c →
      Pends s (s.push (.sendArrival r.part c { src := r, srcTid := t.tid, val := t.rd b })) [a, b] (exec (.send a b) s)
        { commit := { Commit.none with log := [.atom 13 0 (t.rd b)] }, dest := none, log := .nothing, ty := none, addr := 0, size := 0,
          words := [] }) ∧
    (∀ i ∈ ([.sendArrival p c m, .sendRetry p c m] : List Instr),
      let off : Prop := 32 ≤ v.serverQ.length ∨ 64 ≤ v.updateQ.length ∨ heldBehind s i = true
      (off → exec i s = .next (s.holdBack i)) ∧
      (¬ off → ¬ full → v.rxBuf = [] → exec i s = .next (written s)) ∧
      (¬ off → (full ∨ v.rxBuf ≠ []) → v.rxBuf.length < 4 →
        exec i s = .next (s.modCoreW p c (fun w => { w with rxBuf := w.rxBuf ++ [m] }))) ∧
      (¬ off → 4 ≤ v.rxBuf.length → exec i s = .next (s.after 256 (.sendRetry p c m)))) ∧
    ((full ∨ v.rxBuf = []) → exec (.ringBufferDrain p c) s = .next s) ∧
    (v.rxBuf = m :: rest → ¬ full →
      exec (.ringBufferDrain p c) s = .next (drainRing p c rest (written (s.modCoreW p c (fun w => { w with rxBuf := rest }))))) ∧
    (Ready s t [] → w.rxHead = w.rxTail → t.wait = none → Waits s s (exec (.recv d) s) (.recv s.cycle)) ∧
    (Ready s t [] → w.rxHead ≠ w.rxTail → t.wait = none → recvBehind s r s.cycle = false → s.mtsWas r.part r.core .rxq = none →
      let key := keyTcm r.part r.core (0x1F000 + 8 * w.rxHead.toNat)
      (s.wordPoisoned key = true →
        Faults s s (exec (.recv d) s) .poison (some (0xFF0000000001F000 + 8 * w.rxHead.setWidth 64))) ∧
      (s.wordPoisoned key = false →
        let u := s.modCoreW r.part r.core (fun w => { w with rxHead := w.rxHead + 1 })
        Commits s (if w.rxBuf = [] then u else u.push (.ringBufferDrain r.part r.core)) [] (exec (.recv d) s)
          { writes d (s.readMem key 8) with log := [.atom 14 d (s.readMem key 8)], lat := 8 }))

/-- R158 to R160, R238, R242: AMSG and DLG, once the thread's earlier REDs and ADDMs are performed, send their request to the owner of gb's
address, AMSG going on once its channel takes the request and DLG at once, with gd empty until the run replies; the owner is a core of the
partition, or the bank core beside the home in another partition, said on a core without a taster; a partition of another module that cannot be
reached runs nothing, and a DLG gets the notice of it. A bad routine address faults, as does an
address without an owner, and a server run's request to its own core. MIGR asks for a migration towards the home of its address, once the
thread's updates are performed; a window address or a remote one asks for nothing.
The model's choices of log entries 18, 82 and 83 are part of it. -/
def Obligations.RemoteWorkResults : Prop :=
  ∀ (s : State) (t : Thread) (d : Reg) (a b : Src) (c : CoreId) (m : BitVec 16) (p : PartId),
    let r := s.cur.at_
    let x := t.rd a
    let y := t.rd b
    let msg (reply : Option Reg) : ActiveMsg :=
      { srcMod := s.modid, src := r, srcTid := t.tid, reply := reply, pc := x, y := y, g1 := t.src.g[(1 : Reg)],
        g2 := t.src.g[(2 : Reg)], g3 := t.src.g[(3 : Reg)], corr := t.corr, ctx := t.ctx }
    let both (f : Instr → Prop) : Prop := f (.amsg a b) ∧ f (.dlg d a b)
    let sent (u : State) : Prop :=
      Commits s u [a, b] (exec (.amsg a b) s) { Commit.none with log := [.addr y, .atom 15 0 x] }
    let asked (u : State) : Prop :=
      Commits s (u.modThread r (fun t => { t with awaiting := t.awaiting ++ [d] })) [a, b] (exec (.dlg d a b) s)
        { Commit.none with empties := [d], log := [.addr y, .atom 16 d x] }
    (Ready s t [a, b] →
      (canonical x = false ∨ x.toNat % 4 ≠ 0 → both (fun i => Faults s s (exec i s) .address (some x))) ∧
      (canonical x = true → x.toNat % 4 = 0 → canonical y = false → both (fun i => Faults s s (exec i s) .address (some y))) ∧
      (canonical x = true → x.toNat % 4 = 0 → canonical y = true →
        (ownerOf s r y = .badWindow → both (fun i => Faults s s (exec i s) .window (some y))) ∧
        (ownerOf s r y = .none → both (fun i => Faults s s (exec i s) .target none)) ∧
        (ownerOf s r y = .core c → t.serves.isSome = true → c = r.core → both (fun i => Faults s s (exec i s) .target none)) ∧
        (ownerOf s r y = .core c → (t.serves = none ∨ c ≠ r.core) →
          (fenceMet s r t .part = false → both (fun i => Waits s s (exec i s) (.fence .part))) ∧
          (fenceMet s r t .part = true →
            (messageWaits s r.part c (.activeMessageArrival r.part c (msg none)) = true → Waits s s (exec (.amsg a b) s) .inject) ∧
            (messageWaits s r.part c (.activeMessageArrival r.part c (msg none)) = false →
              sent (s.push (.activeMessageArrival r.part c (msg none)))) ∧
            asked (s.push (.activeMessageArrival r.part c (msg (some d)))))) ∧
        (ownerOf s r y = .remote m p →
          (fenceMet s r t .sys = false → both (fun i => Waits s s (exec i s) (.fence .sys))) ∧
          (fenceMet s r t .sys = true → s.watched r.part r.core = false →
            (m = s.modid → t.serves.isSome = true → remoteOwner s p y = r.core → p = r.part →
              both (fun i => Faults s s (exec i s) .target none)) ∧
            (m = s.modid → (t.serves = none ∨ remoteOwner s p y ≠ r.core ∨ p ≠ r.part) →
              sent (s.push (.activeMessageArrival p (remoteOwner s p y) (msg none))) ∧
              asked (s.push (.activeMessageArrival p (remoteOwner s p y) (msg (some d))))) ∧
            (m ≠ s.modid → linked (s.part r.part) m p = true →
              sent { s with portOut := s.portOut ++ [.active m p (msg none)] } ∧
              asked { s with portOut := s.portOut ++ [.active m p (msg (some d))] }) ∧
            (m ≠ s.modid → linked (s.part r.part) m p = false →
              sent s ∧ asked (sendDelivery s s.modid { dst := r, tid := t.tid, reg := d, val := 0, failed := true, addr := y })))))) ∧
    (Ready s t [a] →
      (canonical x = false → Faults s s (exec (.migr a) s) .address (some x)) ∧
      (canonical x = true → updatesPending s r.part t.tid = true → Waits s s (exec (.migr a) s) (.fence .sys)) ∧
      (canonical x = true → updatesPending s r.part t.tid = false →
        ((inWindowRegion x = true ∨ inRemoteRegion x = true) → Commits s s [a] (exec (.migr a) s) Commit.none) ∧
        (inWindowRegion x = false → inRemoteRegion x = false →
          Commits s (s.modThread r (fun t => { t with migrate := some (homeSlice (lineOf x)).val })) [a] (exec (.migr a) s) Commit.none)))

/-! ## Barriers, reservations, atomics (09) -/

/-- R161: BAR, fenced at its scope. The word holds the generation in bits 63:32, the expected count in 31:16 and the arrivals in 15:0: an
arrival that is not the last counts and waits, the last one starts the next generation with no arrivals and releases the waiters, and a
word that cannot be a barrier's takes the barrier fault.
The model's choices of log entries 13 (reply times) and 18 (the EADDR of the fault) are part of it. -/
def Obligations.BarrierResults : Prop :=
  ∀ (s s1 s2 : State) (t : Thread) (sc : Scope) (a : Src) (pl : Place) (x : At), Ready s t [a] →
    let r := s.cur.at_
    let ea := t.rd a
    checkAccess s r t 3 ea 8 false = .ok (pl, s1) →
    (fenceMet s1 r t sc = false → Waits s s1 (exec (.bar sc a) s) (.fence sc)) ∧
    (fenceMet s1 r t sc = true → homePlace s1 r t 3 true true ea 8 pl = .ok (x, s2) →
      let w := (s2.readMem x.key 8).toNat
      let gen := w / 2 ^ 32
      let need := w / 2 ^ 16 % 2 ^ 16
      let got := w % 2 ^ 16
      let log := [LogItem.addr ea, .atom 12 0 0]
      (need = 0 ∨ need ≤ got → Faults s s2 (exec (.bar sc a) s) .barrier none) ∧
      (got + 1 < need →
        let s3 := clearStamp (putBytes s2 r.part x.key 8 (word (gen * 2 ^ 32 + need * 2 ^ 16 + (got + 1)))) r ea
        let s4 := s3.modPart r.part (fun q => { q with
          bars := kput q.bars x.key ((kget q.bars x.key).getD [] ++ [{ who := r, tid := t.tid, key := x.key }]) })
        Pends s (s4.modThread r (fun t => { t with barGen := some (x.key, gen) })) [a] (exec (.bar sc a) s)
          { commit := { Commit.none with log := log }, dest := none, log := .nothing, ty := none, addr := ea, size := 0, words := [] }) ∧
      (got + 1 = need →
        let s3 := clearStamp (putBytes s2 r.part x.key 8 (word ((gen + 1) % 2 ^ 32 * 2 ^ 32 + need * 2 ^ 16))) r ea
        let ws := (kget (s3.part r.part).bars x.key).getD []
        let s4 := s3.modPart r.part (fun q => { q with bars := kdel q.bars x.key })
        Commits s (ws.foldl (fun s w => replyThread s w.who w.tid none) s4) [a] (exec (.bar sc a) s)
          { Commit.none with log := log, lat := x.lat }))

/-- R140, R162, R163, R370: queued reservations. LRW by a thread that holds none joins the queue of the line: the head reads the word at once,
others wait, as they do while the slice's tables are full; by a thread that holds one it faults. SCH by the holder stores, RLS does not, and
both pass the reservation on, to the next of the queue, whose word is read and sent to it, or to no one; by another they fault. A window
address takes the window fault, a remote one the address fault.
The model's choices of log entries 13, 18 and 74 are part of it. -/
def Obligations.ReservationResults : Prop :=
  ∀ (s s1 s2 : State) (t : Thread) (d : Reg) (a b : Src) (l : Leaf) (x : At) (key lat : Nat),
    let r := s.cur.at_
    let ea := t.rd a
    let line := lineOf ea
    let each (f : Instr → Prop) : Prop := (Ready s t [a] → f (.lrw d a) ∧ f (.rls a)) ∧ (Ready s t [a, b] → f (.sch a b))
    (inRemoteRegion ea = true → each (fun i => Faults s s (exec i s) .address (some ea))) ∧
    (checkAccess s r t 3 ea 8 false = .ok (.window key lat, s1) → each (fun i => Faults s s1 (exec i s) .window (some ea))) ∧
    (checkAccess s r t 3 ea 8 false = .ok (.mem l, s1) →
      (Ready s t [a] →
        (t.resv.isSome = true → Faults s s1 (exec (.lrw d a) s) .reservation none) ∧
        (t.resv = none → homePlace s1 r t 3 true false ea 8 (.mem l) = .ok (x, s2) →
          let w : Waiter := { who := r, tid := t.tid, key := x.key }
          let s3 := s2.modThread r (fun t => { t with resv := some line })
          let ws := (kget (s3.part r.part).resv line).getD []
          let s4 := s3.modPart r.part (fun q => { q with resv := kput q.resv line (ws ++ [w]) })
          let q : Pend := { commit := { Commit.none with log := [.addr ea] }, dest := some d, log := .atom 9, ty := some .s64, addr := ea,
                            big := l.big, size := 0, words := [] }
          (resvRoom (s3.part r.part) line = true → ws = [] →
            Commits s s4 [a] (exec (.lrw d a) s)
              { writes d (s4.readMem x.key 8) with
                log := .addr ea :: stampItems x ++ [.atom 9 d (s4.readMem x.key 8)], lat := x.lat }) ∧
          (resvRoom (s3.part r.part) line = true → ws ≠ [] → Pends s s4 [a] (exec (.lrw d a) s) q) ∧
          (resvRoom (s3.part r.part) line = false →
            Pends s (s3.modPart r.part (fun q => { q with lrwFull := q.lrwFull ++ [w] })) [a] (exec (.lrw d a) s) q)) ∧
        (holdsResv s1 r t ea = false → Faults s s1 (exec (.rls a) s) .reservation none) ∧
        (holdsResv s1 r t ea = true → fenceMet s1 r t .part = false → Waits s s1 (exec (.rls a) s) (.fence .part)) ∧
        (holdsResv s1 r t ea = true → fenceMet s1 r t .part = true →
          Commits s (releaseResv ((s1.countHome r (homeSlice line).val).modThread r (fun t => { t with resv := none })) r.part line) [a]
            (exec (.rls a) s) { Commit.none with log := [.addr ea, .atom 11 0 0], lat := homeLat r.core line false })) ∧
      (Ready s t [a, b] →
        (holdsResv s1 r t ea = false → Faults s s1 (exec (.sch a b) s) .reservation none) ∧
        (holdsResv s1 r t ea = true → fenceMet s1 r t .part = false → Waits s s1 (exec (.sch a b) s) (.fence .part)) ∧
        (holdsResv s1 r t ea = true → fenceMet s1 r t .part = true → homePlace s1 r t 3 false true ea 8 (.mem l) = .ok (x, s2) →
          Commits s (releaseResv ((clearStamp (putBytes s2 r.part x.key 8 (t.rd b)) r ea).modThread r (fun t => { t with resv := none }))
              r.part line) [a, b] (exec (.sch a b) s)
            { Commit.none with log := [.addr ea, .atom 10 0 (t.rd b), .leave line], lat := x.lat }))) ∧
    (∀ (p : PartId) (h w : Waiter) (rest : List Waiter),
      (kget (s.part p).resv line = some [h] →
        releaseResv s p line = retryLrw (s.modPart p (fun q => { q with resv := kdel q.resv line })) p line) ∧
      (kget (s.part p).resv line = some (h :: w :: rest) →
        let u := resvRead (s.modPart p (fun q => { q with resv := kput q.resv line (w :: rest) })) p w
        u.linePoisoned w.key = false →
          releaseResv s p line = retryLrw (replyThread (stampPend u w.who ((lineAt u p w.key).bind (fun l => l.stamp))) w.who w.tid
            (some (u.readMem w.key 8))) p line))

/-- R140, R164 to R166, R236, R370, R389: AMO and RED. AMO, after a full fence, returns the old value of its word and leaves there what its
operation makes of it; on memory it then asks for a migration to the bank core beside the word. RED on memory, once the thread's ADDMs to the
line are done, its page is not held and a watched one's line has its place for a stamp, joins the core's outgoing queue, and a full queue
holds it back; on a window it is performed at once, or faults on a poisoned word (R339). On another partition's word both send their request, said
on a core without a taster; through the span of its own partition a RED first waits for the thread's updates of the word.
The model's choices of log entries 13, 69, 70 and 90 are part of it. -/
def Obligations.AtomicResults : Prop :=
  ∀ (s s1 s2 s3 : State) (t : Thread) (op : AmoOp) (sz : AmoSize) (d : Reg) (a b : Src) (l : Leaf) (pl : Place) (x : At) (key lat page : Nat),
    Ready s t [a, b] →
    let r := s.cur.at_
    let ea := t.rd a
    let n := match sz with
      | .w32 => 4
      | .w64 => 8
    let y := (t.rd b).toNat % 2 ^ (8 * n)
    let sg (v : Nat) : Int := if v < 2 ^ (8 * n - 1) then v else (v : Int) - 2 ^ (8 * n)
    let new (m c : Nat) : Nat := match op with
      | .add => (m + y) % 2 ^ (8 * n)
      | .and => m &&& y
      | .or => m ||| y
      | .xor => m ^^^ y
      | .min => if sg y < sg m then y else m
      | .max => if sg m < sg y then y else m
      | .minz => if y < m then y else m
      | .maxz => if m < y then y else m
      | .swap => y
      | .cas => if m = c then y else m
    let old (m : Nat) : Word := match sz, op with
      | .w32, .min | .w32, .max => signExt 4 m
      | _, _ => word m
    -- the word at the key k after the operation, c the comparand
    let done (u : State) (k c : Nat) : State := windowWritten (u.writeMem k n (word (new (memRead u.mem k n) c))) k n
    let request (op : RemoteOp) : State := sendRemote s
      { srcMod := s.modid, src := r, srcTid := t.tid, modid := ea.extractLsb' 36 16, dst := (ea.extractLsb' 32 4).toFin,
        off := ea.extractLsb' 0 32, corr := t.corr, op := op }
    let amo := exec (.amo op sz d a b) s
    let red := exec (.red op sz a b) s
    let reply : Commit :=
      let v := old (memRead s2.mem x.key n)
      { writes d v with log := .addr ea :: stampItems x ++ [.atom 5 d v, .leave (lineOf ea)], lat := x.lat }
    let cmp := (t.src.g[d]).toNat % 2 ^ (8 * n)
    let log : List LogItem := [.addr ea, .atom 6 0 (t.rd b), .leave (lineOf ea)]
    (checkAccess s r t 3 ea n true = .ok (pl, s1) → fenceMet s1 r t .sys = false → Waits s s1 amo (.fence .sys)) ∧
    (checkAccess s r t 3 ea n true = .ok (.mem l, s1) → fenceMet s1 r t .sys = true →
      homePlace s1 r t 3 true true ea n (.mem l) = .ok (x, s2) →
      Commits s ((clearStamp (done s2 x.key cmp) r ea).modThread r (fun t => { t with migrate := some (16 + (homeSlice (lineOf ea)).val) }))
        [a, b] amo reply) ∧
    (checkAccess s r t 3 ea n true = .ok (.window key lat, s1) → fenceMet s1 r t .sys = true →
      homePlace s1 r t 3 true true ea n (.window key lat) = .ok (x, s2) →
      Commits s (clearStamp (done s2 x.key cmp) r ea) [a, b] amo reply) ∧
    (inRemoteRegion ea = true → ea.toNat % n = 0 → s.watched r.part r.core = false →
      (fenceMet s r t .sys = true → Pends s (request (.amo op sz (t.rd b) t.src.g[d])) [a, b] amo
        { commit := { Commit.none with log := [.addr ea] }, dest := some d, log := .atom 5, ty := none, addr := ea, size := 0,
          words := [] }) ∧
      ((s.core r.part r.core).w.outQ.length < 16 → remoteOwn s r t ea n = true → Waits s s red .queue) ∧
      ((s.core r.part r.core).w.outQ.length < 16 → remoteOwn s r t ea n = false → Pends s (request (.red op sz (t.rd b))) [a, b] red
        { commit := { Commit.none with log := [.addr ea, .atom 6 0 (t.rd b)] }, dest := none, log := .nothing, ty := none, addr := ea,
          size := 0, words := [] })) ∧
    (16 ≤ (s.core r.part r.core).w.outQ.length → Waits s s red .queue) ∧
    ((s.core r.part r.core).w.outQ.length < 16 → checkAccess s r t 3 ea n true = .ok (.window key lat, s1) →
      (windowPoisoned s1 key n = true → Faults s s1 red .poison (some ea)) ∧
      (windowPoisoned s1 key n = false →
        Commits s (done (windowAt s1 r key lat n).2 key 0) [a, b] red { Commit.none with log := log })) ∧
    ((s.core r.part r.core).w.outQ.length < 16 → checkAccess s r t 3 ea n true = .ok (.mem l, s1) →
      (addmPending s1 r.part t.tid (lineOf ea) = true → Waits s s1 red .queue) ∧
      (addmPending s1 r.part t.tid (lineOf ea) = false →
        (holdWrite s1 r t l = .error (.wait (.page page) s2) → Waits s s2 red (.page page)) ∧
        (holdWrite s1 r t l = .ok s2 → stampLine s2 r (lineOf ea) l.dom = none → Waits s s2 red .queue) ∧
        (holdWrite s1 r t l = .ok s2 → stampLine s2 r (lineOf ea) l.dom = some s3 →
          let q : RedReq :=
            { src := r, tid := t.tid, corr := t.corr, ctx := t.ctx, key := keyMain r.part (l.phys (va57 ea)), line := lineOf ea, op := op,
              sz := sz, v := t.rd b, sent := s3.cycle }
          let s4 := (s3.countHome r (homeSlice (lineOf ea)).val).modCoreW r.part r.core (fun w => { w with outQ := w.outQ ++ [q] })
          Commits s (clearStamp (s4.push (.remoteUpdate r.part (bankCore (homeSlice (lineOf ea))))) r ea) [a, b] red
            { Commit.none with log := log })))

/-! ## Order and lines (15) -/

/-- R247 to R250: FENCE waits for its scope's condition and then commits; POUR, once the thread's ADDMs are done, pours the core's lines and waits
until every pour is acknowledged; FBAR empties the thread's fetch buffer.
The model's choices of log entries 14, 26 and 27 are part of it. -/
def Obligations.OrderResults : Prop :=
  ∀ (s : State) (t : Thread) (sc : Scope), Ready s t [] →
    let r := s.cur.at_
    let s1 := pourCore s r.part r.core
    -- a POUR.thr comes to its end in a drain, a wider one reissues after it (R322)
    let wide : Bool := decide (sc ≠ .thr)
    let pour := exec (.pour sc) s
    (sc = .thr → Completes s t [] (exec (.fence sc) s) Commit.none) ∧
    (sc ≠ .thr → fenceMet s r t sc = true → Completes s t [] (exec (.fence sc) s) { Commit.none with lat := 12 }) ∧
    (fenceMet s r t sc = false → Waits s s (exec (.fence sc) s) (.fence sc)) ∧
    (t.wait ≠ some (.pours wide) →
      (fenceMet s r t .core = false → Waits s s pour (.fence (if wide then .core else .thr))) ∧
      (fenceMet s r t .core = true → coreUnacked s1 r.part r.core = true → Waits s s1 pour (.pours wide)) ∧
      (fenceMet s r t .core = true → coreUnacked s1 r.part r.core = false → Commits s s1 [] pour { Commit.none with lat := 12 })) ∧
    (t.wait = some (.pours wide) →
      (coreUnacked s r.part r.core = true → Waits s s pour (.pours wide)) ∧
      (coreUnacked s r.part r.core = false → Completes s t [] pour Commit.none)) ∧
    Commits s (s.modThread r (fun t => { t with fetchBuf := [] })) [] (exec .fbar s) Commit.none

/-- R236, R251 to R256, R335: the words on a line. An address that is not canonical faults, a window address does nothing; a page without R and X
takes the protection fault, one without a translation drops the thread; on memory whose page gives R or X, once the thread's REDs to the line are
done, CWB leaves the L1's copy clean with its dirty sectors at the home, or pours what a holder has withheld and waits for the PACK, without any
further check; CINV, once its ADDMs are done too, removes the copy, and IINV takes the line from every L1 instruction cache. PREF commits once
those updates are done: it is dropped, with nothing changed, for an address that is not cacheable memory, and while the core's 16 slots are busy;
whatever it does, no full bit changes and no byte but of a steep line that a slice must combine to make room, and what it brings into the L1 is
the line, held in E or S with nothing of it dirty. PLBI needs PRIV, drops the page's translations and lines, and waits for what still uses them.
The model's choices of log entries 13 and 20 are part of it. -/
def Obligations.LineResults : Prop :=
  ∀ (s s1 : State) (t : Thread) (a : Src) (l : Leaf) (drop : TrapRec) (e : PlbEntry), Ready s t [a] →
    let r := s.cur.at_
    let x := t.rd a
    let line := lineOf x
    let plain : Prop := canonical x = true ∧ inWindowRegion x = false ∧ inRemoteRegion x = false
    let late : Commit := { Commit.none with lat := 12 }
    (∀ i ∈ ([.cwb a, .cinv a, .iinv a] : List Instr), t.wait ≠ some (.pack line) →
      (canonical x = false → Faults s s (exec i s) .address (some x)) ∧
      (canonical x = true → inWindowRegion x = true → Completes s t [a] (exec i s) Commit.none) ∧
      (canonical x = true → inWindowRegion x = false → inRemoteRegion x = true → Faults s s (exec i s) .address (some x)) ∧
      (plain → plbLookup s r t x = .error (.drop drop s1) → Drops s s1 (exec i s) drop) ∧
      (plain → plbLookup s r t x = .ok (e, s1) → rightsOf e.domValid e.leaf.dom e.rights t.priv &&& 5 = 0 →
        Faults s s1 (exec i s) .protection (some x))) ∧
    (plain → plbLookup s r t x = .ok (e, s1) → rightsOf e.domValid e.leaf.dom e.rights t.priv &&& 5 ≠ 0 → e.leaf = l →
      let reds := redPending s1 r.part t.tid (keyMain r.part (l.phys (va57 x)) / 128 * 128) 128
      let busy := reds || addmPending s1 r.part t.tid line
      (t.wait ≠ some (.pack line) → reds = true → Waits s s1 (exec (.cwb a) s) .queue) ∧
      (t.wait ≠ some (.pack line) → reds = false →
        (∀ h, s1.holder r.part r.core line = some h →
          (h.g = 0 ∨ s1.linePoisoned h.key = true → Commits s s1 [a] (exec (.cwb a) s) late) ∧
          (h.g ≠ 0 → s1.linePoisoned h.key = false →
            Waits s (pourHolder s1 r.part r.core line false) (exec (.cwb a) s) (.pack line))) ∧
        (∀ l, s1.holder r.part r.core line = none → s1.l1 r.part r.core line = some l → s1.linePoisoned l.key = false →
          ∃ s2, Commits s s2 [a] (exec (.cwb a) s) late ∧ s2.mem = s1.mem ∧
            (l.dirty ≠ 0 → ∀ y, s2.sl r.part line = some y → y.dirty = true) ∧
            (∀ y, s2.l1 r.part r.core line = some y → y.dirty = 0 ∧ (y.st = .e ∨ y.st = .s))) ∧
        (s1.holder r.part r.core line = none →
          (s1.l1 r.part r.core line = none ∨ ∃ l, s1.l1 r.part r.core line = some l ∧ s1.linePoisoned l.key = true) →
          Commits s s1 [a] (exec (.cwb a) s) late)) ∧
      (busy = true → t.wait ≠ some (.pack line) → Waits s s1 (exec (.cinv a) s) .queue ∧ Waits s s1 (exec (.iinv a) s) .queue) ∧
      (busy = false →
        ((s1.holder r.part r.core line).isSome = true →
          Commits s (evictHolder s1 r.part r.core line) [a] (exec (.cinv a) s) late) ∧
        (s1.holder r.part r.core line = none →
          ∃ s2, Commits s s2 [a] (exec (.cinv a) s) late ∧ s2.l1 r.part r.core line = none ∧ s2.mem = s1.mem) ∧
        (∃ s2, Commits s s2 [a] (exec (.iinv a) s) late ∧ s2.mem = s1.mem ∧
          ∀ c l, l ∈ (s2.core r.part c).c.l1i → c ∈ (s1.part r.part).coreIds → l.line ≠ line))) ∧
    (t.wait = some (.pack line) →
      ((s.holder r.part r.core line).any (fun h => h.f != 0) = true → Waits s s (exec (.cwb a) s) (.pack line)) ∧
      ((s.holder r.part r.core line).any (fun h => h.f != 0) = false → Completes s t [a] (exec (.cwb a) s) Commit.none)) ∧
    (prefetchWaits s r t x = true → Waits s s (exec (.pref a) s) .queue) ∧
    (prefetchWaits s r t x = false → ∃ s2, Commits s s2 [a] (exec (.pref a) s) Commit.none ∧
      s2.fe = s.fe ∧ s2.cycle = s.cycle ∧
      (Memory.wf s.mem = true →
        ∀ k, (∀ h ∈ (s.part r.part).steep, k < h.key ∨ h.key + 128 ≤ k) → s2.byte k = s.byte k) ∧
      ∀ y, s2.l1 r.part r.core line = some y → s.l1 r.part r.core line = none → (y.st = .e ∨ y.st = .s) ∧ y.dirty = 0) ∧
    (¬ plain → Completes s t [a] (exec (.pref a) s) Commit.none) ∧
    (plain → prefetchWaits s r t x = false → 16 ≤ (busyPrefetches s r).length → Completes s t [a] (exec (.pref a) s) Commit.none) ∧
    (t.priv = false → Faults s s (exec (.plbi a) s) .privilege none) ∧
    (t.priv = true → canonical x = false → Faults s s (exec (.plbi a) s) .address (some x)) ∧
    (t.priv = true → canonical x = true → (inWindowRegion x = true ∨ inRemoteRegion x = true) →
      Completes s t [a] (exec (.plbi a) s) Commit.none) ∧
    (t.priv = true → plain →
      let s2 := dropPage s r.part x
      let used := pageInUse s2 r.part x || (s2.part r.part).slices.any (pageLine x)
      (used = true → Waits s s2 (exec (.plbi a) s) .queue) ∧
      (used = false → Commits s s2 [a] (exec (.plbi a) s) { Commit.none with lat := 2100 }))

/-- R236, R257 to R259, R389: ADDM, once the thread's REDs to its element are done and its page is not held, commits at issue and leaves its
addition to the core's steep queue of 16, which holds it back while it is full; LDB, once the thread's own updates of its element are done,
sends a bounded load to its line's home with the tolerance of its register or its immediate, and waits for the reply. Both fault on an
address that is no steep element of their thread's: not canonical or remote, in a window, on a page that is not steep or whose rights do not
allow it, not aligned to its format, on a poisoned line; and a walk that finds no page drops the thread.
The model's choice of log entry 70 is part of it. -/
def Obligations.SteepWordResults : Prop :=
  ∀ (s s1 s2 s3 : State) (t : Thread) (d : Reg) (a b : Src) (k : BitVec 8) (e : PlbEntry) (l' : Leaf) (miss : Bool) (y : SliceLine)
    (page : Nat) (drop : TrapRec),
    let r := s.cur.at_
    let x := t.rd a
    let l := e.leaf
    let n := match l.sfmt with
      | 1 => 8
      | _ => 4
    let free : Prop := (s.core r.part r.core).w.steepQ.length < 16
    let plain : Prop := canonical x = true ∧ inRemoteRegion x = false ∧ inWindowRegion x = false
    -- the three words, each on the conditions that its sources are full and the steep queue has room
    let each (f : Instr → BitVec 4 → Prop) : Prop :=
      (Ready s t [a, b] → (free → f (.addm a b) 3) ∧ f (.ldb d a b) 1) ∧ (Ready s t [a] → f (.ldbImm d a k) 1)
    let loads (f : List Src → Instr → BitVec 32 → Prop) : Prop :=
      (Ready s t [a, b] → f [a, b] (.ldb d a b) (tolOfReg (t.rd b))) ∧ (Ready s t [a] → f [a] (.ldbImm d a k) (tolOfImm k))
    let bound (tol : BitVec 32) : BoundedReq :=
      { line := lineOf x, key := y.key, fmt := l.sfmt, off := x.toNat % 128, tol := tol, who := r, tid := t.tid }
    let read := if miss then s2 else homeRead s2 r.part (lineOf x) (sectorBit (sectorOf x.toNat)) t.corr
    let q : Pend :=
      { commit := { Commit.none with log := LogItem.addr x :: stampItems { key := y.key, lat := 0, stamp := y.stamp } }, dest := some d,
        log := .atom 8, ty := some (steepType l.sfmt), addr := x, big := l.big, size := 0, words := [] }
    (¬ free → Ready s t [a, b] → Waits s s (exec (.addm a b) s) .queue) ∧
    ((canonical x = false ∨ inRemoteRegion x = true) → each (fun i _ => Faults s s (exec i s) .address (some x))) ∧
    (canonical x = true → inWindowRegion x = true → each (fun i _ => Faults s s (exec i s) .steep (some x))) ∧
    (plain → plbLookup s r t x = .error (.drop drop s1) → each (fun i _ => Drops s s1 (exec i s) drop)) ∧
    (plain → plbLookup s r t x = .ok (e, s1) →
      (l.steep = false → each (fun i _ => Faults s s1 (exec i s) .steep (some x))) ∧
      (l.steep = true → each (fun i need => entryAllows e t.priv need = false → Faults s s1 (exec i s) .protection (some x))) ∧
      (l.steep = true → x.toNat % n ≠ 0 →
        each (fun i need => entryAllows e t.priv need = true → Faults s s1 (exec i s) .misaligned (some x))) ∧
      (l.steep = true → x.toNat % n = 0 → entryAllows e t.priv 3 = true → free → Ready s t [a, b] →
        let addm := exec (.addm a b) s
        let key := keyMain r.part (l.phys (va57 x))
        (redPending s1 r.part t.tid key n = true → Waits s s1 addm .queue) ∧
        (redPending s1 r.part t.tid key n = false →
          (holdWrite s1 r t l = .error (.wait (.page page) s2) → Waits s s2 addm (.page page)) ∧
          (holdWrite s1 r t l = .ok s2 → s2.linePoisoned key = true → Faults s s2 addm .poison (some x)) ∧
          (holdWrite s1 r t l = .ok s2 → s2.linePoisoned key = false → stampLine s2 r (lineOf x) l.dom = none → Waits s s2 addm .queue) ∧
          (holdWrite s1 r t l = .ok s2 → s2.linePoisoned key = false → stampLine s2 r (lineOf x) l.dom = some s3 →
            let e : AddmReq :=
              { tid := t.tid, line := lineOf x, off := x.toNat % 128, a := t.rd b, fmt := l.sfmt, slim := l.slim, dom := l.dom,
                key := key / 128 * 128, phase := 0 }
            Commits s (clearStamp ((s3.modCoreW r.part r.core (fun w => { w with steepQ := w.steepQ ++ [e] })).push
                (.addmPerform r.part r.core)) r x) [a, b] addm
              { Commit.none with log := [.addr x, .atom 7 0 (t.rd b), .leave (lineOf x)] }))) ∧
      (l.steep = true → x.toNat % n = 0 → entryAllows e t.priv 1 = true →
        (ownPending s1 r t l x n = true → loads (fun _ i _ => Waits s s1 (exec i s) .queue)) ∧
        (ownPending s1 r t l x n = false → reachHome 2 s1 r t 1 x = .ok (l', miss, s2) → read.sl r.part (lineOf x) = some y →
          (read.linePoisoned y.key = true → loads (fun _ i _ => Faults s read (exec i s) .poison (some x))) ∧
          (read.linePoisoned y.key = false →
            loads (fun srcs i tol => Pends s (read.push (.boundedLoad r.part (bound tol))) srcs (exec i s) q)))))
/-! ## Vector memory and streams (10, 18) -/

/-- R170, R175 to R177: the memory forms of vectors. VLD and VST move 64 bytes; VLDS, VGATH and VSCAT move the active lanes, each at its
own address, after every one of them has passed its checks in ascending order; a lane that fails them stops the whole word, with nothing
loaded or stored.
The model's choices of log entries 13 and 72 are part of it. -/
def Obligations.VectorMemoryResults : Prop :=
  ∀ (s s1 s2 : State) (t : Thread) (ty : VType) (mask : Option MReg) (d vb : VReg) (a b : Src) (off : BitVec 15) (x : At)
    (ps : List (LaneAt × Place)) (vs : List (Nat × Nat × At)) (ws : List (Nat × Word × At)) (e : Res),
    let r := s.cur.at_
    let ea := t.rd a + off.signExtend 64
    let n := ty.lanes
    let w := ty.width
    let active (f : Nat → Word) : List LaneAt := ((List.range n).filter (fun i => laneActive t mask i)).map (fun i => (i, f i))
    let strided (i : Nat) : Word := t.rd a + word i * t.rd b
    let indexed (i : Nat) : Word := t.rd a + sextTo w (lane w t.v[vb] i)
    let loads (srcs : List Src) (i : Instr) (f : Nat → Word) : Prop :=
      (checkLanes r t 1 (w / 8) (active f) s = .error e → exec i s = .next (settle s.cur (e.clearing (syncRegs srcs)))) ∧
      (checkLanes r t 1 (w / 8) (active f) s = .ok (ps, s1) → readLanes r t (w / 8) ps s1 = .ok (vs, s2) →
        ∃ v, Commits s s2 srcs (exec i s)
            { writesV d v with
              log := .addr (t.rd a) :: vs.flatMap (fun z => stampItems z.2.2) ++ [.vec d.val (vecXor v)],
              lat := vs.foldl (fun m z => Nat.max m z.2.2.lat) 8 } ∧
          ∀ k, k < n → lane w v k = match vs.find? (fun z => z.1 == k) with
            | some z => z.2.1 % 2 ^ w
            | none => lane w t.v[d] k)
    (Ready s t [a] → Reads s t ea 64 false x s2 →
      let v := BitVec.ofNat 512 (memRead s2.mem x.key 64)
      Commits s s2 [a] (exec (.vld d a off) s)
        { writesV d v with log := .addr ea :: stampItems x ++ [.vec d.val (vecXor v)], lat := x.lat }) ∧
    (Ready s t [a] → Writes s t ea 64 false x s2 → Memory.wf s2.mem = true →
      ∃ s3, Commits s s3 [a] (exec (.vst d a off) s)
          { Commit.none with log := [.addr ea, .vecStore d.val (vecXor t.v[d])], lat := x.lat } ∧
        (∀ k, s3.byte k = if x.key ≤ k ∧ k < x.key + 64 then t.v[d].extractLsb' (8 * (k - x.key)) 8 else s2.byte k) ∧ MemoryCanonical s3) ∧
    (Ready s t [a, b] → loads [a, b] (.vlds ty mask d a b) strided) ∧
    (Ready s t [a] → loads [a] (.vgath ty mask d a vb) indexed) ∧
    (Ready s t [a] →
      (checkLanes r t 2 (w / 8) (active indexed) s = .error e →
        exec (.vscat ty mask d a vb) s = .next (settle s.cur (e.clearing (syncRegs [a])))) ∧
      (checkLanes r t 2 (w / 8) (active indexed) s = .ok (ps, s1) → readyLanes r t (w / 8) ps s1 = .ok (ws, s2) →
        Commits s (ws.foldl (fun s z => clearStamp (putBytes s r.part z.2.2.key (w / 8) (word (lane w t.v[d] z.1))) r z.2.1) s2) [a]
          (exec (.vscat ty mask d a vb) s)
          { Commit.none with
            log := [.addr (t.rd a), .vecStore d.val (vecXor t.v[d])], lat := ws.foldl (fun m z => Nat.max m z.2.2.lat) 8 }))

/-- R178, R292: SRD and VSRD. A stream that is not bound, or has ended with nothing left, faults; one that is short and goes on holds the
thread back; otherwise the next bytes are taken from it, the first the least significant, zeros standing for bytes that an ended stream
lacks. -/
def Obligations.StreamResults : Prop :=
  ∀ (s : State) (t : Thread) (ty : LdType) (vt : VType) (d : Reg) (vd : VReg) (i : SReg), Ready s t [] →
    let x := t.streams[i]
    let value (n : Nat) : Nat := (x.buf.take n).foldr (fun b acc => b.toNat + 256 * acc) 0
    let left (n : Nat) : State := s.modThread s.cur.at_ (fun t => t.setStream i { x with buf := x.buf.drop n })
    let forms : List (Instr × Nat) := [(.srd ty d i, ty.bytes), (.vsrd vt vd i, 64)]
    (∀ e ∈ forms,
      (x.bound = false → Faults s s (exec e.1 s) .stream none) ∧
      (x.bound = true → x.buf.length < e.2 → x.ended = false → Waits s s (exec e.1 s) (.stream i e.2)) ∧
      (x.bound = true → x.ended = true → x.buf = [] → Faults s s (exec e.1 s) .stream none)) ∧
    (x.bound = true → x.buf ≠ [] → (x.ended = true ∨ ty.bytes ≤ x.buf.length) →
      let v := ty.extend (value ty.bytes)
      Commits s (left ty.bytes) [] (exec (.srd ty d i) s) { writes d v with log := [.load d (Nat.log2 ty.bytes) v] }) ∧
    (x.bound = true → x.buf ≠ [] → (x.ended = true ∨ 64 ≤ x.buf.length) →
      let v := BitVec.ofNat 512 (value 64)
      Commits s (left 64) [] (exec (.vsrd vt vd i) s) { writesV vd v with log := [.vec vd.val (vecXor v)] })

/-! ## Engines (18) -/

/-- R265, R285, R287 to R291, R371, R433: the three copy words. On a bank core they fault; a queue of 64 holds them back before anything is
checked; a shape that the word does not accept faults, as does a table of a gather in the remote region; a range that fails its checks ends
as `checkRanges` says; and an accepted copy, checked once and for all, joins the core's queue once the thread's earlier accesses are
performed, with the core's next id, which gd receives. Of a remote destination it is said here on a core without a taster.
The model's choices of log entries 17, 50 and 78 are part of it. -/
def Obligations.CopyWordResults : Prop :=
  ∀ (s s1 : State) (t : Thread) (bind : Option SReg) (d : Reg) (a b : Src) (k : ClusterId) (src dst : List Leaf) (e : Res) (f : CopyForm)
    (job : CopyJob), Ready s t [a, b] →
    let r := s.cur.at_
    let v := (t.src.g[d]).toNat
    let x := t.rd a
    let y := t.rd b
    let lin : Option CopyForm := if v / 2 ^ 32 = 0 then some (.lin v) else none
    let rows : Option CopyForm := some (.rows (v / 2 ^ 48) (v / 2 ^ 32 % 2 ^ 16) (v / 2 ^ 16 % 2 ^ 16) (v % 2 ^ 16))
    let gather : Option CopyForm :=
      if v / 2 ^ 32 ≠ 0 ∨ v / 8 % 2 ^ 13 ≠ 0 ∨ v % 8 = 7 then none else some (.gather (v / 2 ^ 16 % 2 ^ 16) (v % 8))
    let forms : List (Instr × Option CopyForm × Nat) :=
      [(.cpy bind d a b, lin, 1), (.cpy2 bind d a b, rows, 1), (.cpyg bind d a b, gather, 8)]
    -- the word z with a copy j that has passed its checks, in the state u, its reply `lat` cycles off
    let joins (z : Instr) (j : CopyJob) (u : State) (lat : Nat) : Prop :=
      let kept := u.modThread r (fun t => { t with prepared := some (.copy j) })
      let w := (kept.core r.part r.core).w
      let seq := w.copyNext % 2 ^ 21
      let id := word (r.core.val * 2 ^ 22 + seq)
      (fenceMet kept r t .clu = false → Waits s kept (exec z s) (.fence .clu)) ∧
      (fenceMet kept r t .clu = true → (firstSome firstRemote (formRanges j.form j.dst j.src).2 = none ∨ kept.watched r.part r.core = false) →
        (64 ≤ w.copyQ.length → Waits s kept (exec z s) .queue) ∧
        (w.copyQ.length < 64 →
          ∃ s2, Commits s s2 [a, b] (exec z s) { writes d id with log := [.atom 18 d id], lat := lat } ∧
            (s2.core r.part r.core).w.copyQ.getLast? = some { j with seq := seq } ∧
            (s2.core r.part r.core).w.copyQ.length = w.copyQ.length + 1 ∧
            (s2.core r.part r.core).w.copyNext = (seq + 1) % 2 ^ 21 ∧ s2.mem = u.mem))
    let pages (f : CopyForm) (x y : Word) : Nat :=
      (((formRanges f x y).1 ++ (formRanges f x y).2).map (fun z => (rangePages z).length)).foldl (fun n z => n + z) 0
    let beyond (n : Nat) : Nat := if n ≤ 1 then 0 else n + 6
    ∀ z ∈ forms,
      (t.prepared = some (.copy job) → joins z.1 job s (t.issuedIn + beyond (pages job.form job.dst job.src) - s.cycle)) ∧
      (t.prepared = none →
        (clusterOf r.core = none → Faults s s (exec z.1 s) .target none) ∧
        (clusterOf r.core = some k → 64 ≤ (s.core r.part r.core).w.copyQ.length → Waits s s (exec z.1 s) .queue) ∧
        (clusterOf r.core = some k → (s.core r.part r.core).w.copyQ.length < 64 →
          (z.2.1 = none → Faults s s (exec z.1 s) .copyShape none) ∧
          (z.2.1 = some f → formOk f x y = false → Faults s s (exec z.1 s) .copyShape none) ∧
          (z.2.1 = some f → formOk f x y = true →
            let rg := formRanges f x y
            let table : Option Word := match f with
              | .gather n _ => if inRemoteRegion y = true then some y else firstRemote (y, 8 * n)
              | _ => none
            (∀ ea, firstSome badCanon (rg.1 ++ rg.2) = none → table = some ea → Faults s s (exec z.1 s) .address (some ea)) ∧
            ((firstSome badCanon (rg.1 ++ rg.2) ≠ none ∨ table = none) →
              (checkRanges s r t rg.1 rg.2 y z.2.2 true = .error e →
                exec z.1 s = .next (settle s.cur (e.clearing (syncRegs [a, b])))) ∧
              (checkRanges s r t rg.1 rg.2 y z.2.2 true = .ok (src, dst, s1) →
                joins z.1
                  { seq := 0, form := f, dst := x, src := y, ctx := t.ctx, priv := t.priv, corr := t.corr, tid := t.tid, slot := r.slot,
                    stream := if f.total = 0 then none else bind, pages := src ++ dst, pos := 0, placed := [], awaiting := 0,
                    finished := f.total == 0 } s1 (beyond (pages f x y)))))))

/-- R285, R286, R302: waiting for a copy or a matrix job, and asking after one. An id that is none of the core's faults; a pending job holds
CPYW and MXW back and makes CPYQ and MXP answer 0; one that is done lets them go on, answering 1. -/
def Obligations.JobWordResults : Prop :=
  ∀ (s : State) (t : Thread) (d : Reg) (a : Src) (k : ClusterId), Ready s t [a] →
    let r := s.cur.at_
    let x := (t.rd a).toNat
    let w := (s.core r.part r.core).w
    let seq := x % 2 ^ 21
    let mine (kind : Nat) : Prop := x / 2 ^ 32 = 0 ∧ x / 2 ^ 31 % 2 = kind ∧ x / 2 ^ 22 % 2 ^ 9 = r.core.val
    let ahead (next done : Nat) : Prop := (seq + 2 ^ 21 - done % 2 ^ 21) % 2 ^ 21 < (next + 2 ^ 21 - done % 2 ^ 21) % 2 ^ 21
    let out (kind : Bool) (n : Nat) : Bool :=
      let next := if kind then w.mxNext else w.copyNext
      let done := if kind then w.mxDone else w.copyDone
      decide ((n + 2 ^ 21 - done % 2 ^ 21) % 2 ^ 21 < (next + 2 ^ 21 - done % 2 ^ 21) % 2 ^ 21)
    -- the job and the earlier ones that are done no longer hold the thread on its core
    let after (kind : Bool) : State := s.modThread r (fun t => { t with
      jobs := t.jobs.filter (fun j => j.1 != kind || decide (2 ^ 20 ≤ (seq + 2 ^ 21 - j.2 % 2 ^ 21) % 2 ^ 21) || out kind j.2) })
    let forms : List (Instr × Instr × Nat × Prop × Wait × Bool) :=
      [(.cpyw a, .cpyq d a, 0, ahead w.copyNext w.copyDone, .copy seq, false), (.mxw a, .mxp d a, 1, ahead w.mxNext w.mxDone, .matrix seq, true)]
    ∀ f ∈ forms,
      (clusterOf r.core = none → Faults s s (exec f.1 s) .target none ∧ Faults s s (exec f.2.1 s) .target none) ∧
      (clusterOf r.core = some k →
        (¬ mine f.2.2.1 → Faults s s (exec f.1 s) .jobId none ∧ Faults s s (exec f.2.1 s) .jobId none) ∧
        (mine f.2.2.1 → f.2.2.2.1 → Waits s s (exec f.1 s) f.2.2.2.2.1 ∧ Completes s t [a] (exec f.2.1 s) (writes d 0)) ∧
        (mine f.2.2.1 → ¬ f.2.2.2.1 →
          Commits s (after f.2.2.2.2.2) [a] (exec f.1 s) Commit.none ∧
          Commits s (after f.2.2.2.2.2) [a] (exec f.2.1 s) { writes d 1 with log := [.val d 1] }))

/-- R271, R272, R293 to R295: the ring words. RNGI checks a shape record of four words once and for all, reads it once no queued job names the ring,
and sets an empty ring of that shape, or faults where R271 does not hold it valid; RNGA adds tiles, and faults beyond the ring's slots or without
a shape; RNGQ says what the ring holds.
The model's choices of log entries 13 and 17 are part of it. -/
def Obligations.RingResults : Prop :=
  ∀ (s s1 s2 : State) (t : Thread) (ring : RingId) (d : Reg) (a : Src) (k : ClusterId) (sh : Shape) (ps : List (Word × Place))
    (kept : List Leaf) (w0 w1 w2 w3 : Word) (lat : Nat),
    let r := s.cur.at_
    let x := s.ring r.part k ring
    let n := x.count + (t.rd a).toNat
    let rngi := exec (.rngi ring a) s
    -- RNGI with the pages under which its record has passed its checks, in the state u
    let binds (pages : List Leaf) (u : State) : Prop :=
      let v := u.modThread r (fun t => { t with prepared := some (.shape pages) })
      let places := ([0, 1, 2, 3] : List Nat).map (fun i => (t.rd a + word (8 * i), keptPlace r pages (t.rd a + word (8 * i))))
      (ringJobs v r.part k ring ≠ 0 → Waits s v rngi (.ringFree ring)) ∧
      (ringJobs v r.part k ring = 0 → readRecord r t places v = .ok ([w0, w1, w2, w3], lat, s2) →
        (shapeOf w0 w1 w2 w3 = none → Faults s s2 rngi .shape (some (t.rd a))) ∧
        (shapeOf w0 w1 w2 w3 = some sh →
          Commits s (s2.setRing r.part k ring { shape := some sh, head := 0, count := 0 }) [a] rngi { Commit.none with lat := lat }))
    (clusterOf r.core = none →
      (Ready s t [a] → Faults s s (exec (.rngi ring a) s) .target none ∧ Faults s s (exec (.rnga ring a) s) .target none) ∧
      (Ready s t [] → Faults s s (exec (.rngq d ring) s) .target none)) ∧
    (clusterOf r.core = some k → Ready s t [a] →
      (t.prepared = some (.shape kept) → binds kept s) ∧
      (t.prepared = none → checkRecord s r t (t.rd a) [3, 2, 1, 0] = .ok (ps, s1) → binds (placePages ps) s1) ∧
      (fenceMet s r t .clu = false → Waits s s (exec (.rnga ring a) s) (.fence .clu)) ∧
      (fenceMet s r t .clu = true →
        (x.shape = none → Faults s s (exec (.rnga ring a) s) .ring none) ∧
        (x.shape = some sh → sh.slots < n → Faults s s (exec (.rnga ring a) s) .ring none) ∧
        (x.shape = some sh → n ≤ sh.slots →
          Commits s (s.setRing r.part k ring { x with count := n }) [a] (exec (.rnga ring a) s) Commit.none))) ∧
    (clusterOf r.core = some k → Ready s t [] →
      (x.shape = none → Completes s t [] (exec (.rngq d ring) s) { writes d 0 with lat := 10 }) ∧
      (x.shape = some sh →
        Completes s t [] (exec (.rngq d ring) s)
          { writes d (word (2 ^ 40 + ringJobs s r.part k ring % 256 * 2 ^ 32 + sh.slots % 256 * 2 ^ 24 + x.count % 256 * 2 ^ 8 + x.head % 256))
            with lat := 10 }))

/-- R265, R278, R297 to R301, R433: the words of the matrix engine. On a bank core they fault, a queue of 16 holds them back before anything is
checked, a poisoned or an orphaned slot faults; MXQ with rings of agreeing shapes and MXST on a range that passes its checks, checked once
and for all, join the queue once the thread's earlier accesses are performed, MXQ with the core's next id; MXZ joins it at once; and each
tags its slot. MXR waits for the slot's entries and reclaims a slot that is not idle.
The model's choices of log entries 17, 44 and 78 are part of it. -/
def Obligations.MatrixWordResults : Prop :=
  ∀ (s s1 : State) (t : Thread) (slot : Fin 2) (sr : Semiring) (na nb az : Bool) (pop : Pop) (d : Reg) (ra rb : RingId) (a : Src)
    (k : ClusterId) (sa sb : Shape) (oa ob : Operand) (src pages : List Leaf) (job : MxJob) (kept : MxEntry) (e : Res),
    let r := s.cur.at_
    let p := r.part
    let w := (s.core p r.core).w
    let i := 2 * (r.core.val % 8) + slot.val
    let acc := s.acc p k i
    let mxq : Instr := .mxq slot sr na nb az pop d ra rb
    let mxst : Instr := .mxst slot a
    let shapeA := (s.ring p k ra).shape
    let shapeB := (s.ring p k rb).shape
    -- the word z with an entry that has passed its checks, in the state u: what it leaves once it has joined the queue, and its commit
    let joins (srcs : List Src) (z : Instr) (x : MxEntry) (i : Nat) (u : State) (left : State → State) (c : Commit) : Prop :=
      let v := u.modThread r (fun t => { t with prepared := some (.matrix x) })
      (fenceMet v r t .clu = false → Waits s v (exec z s) (.fence .clu)) ∧
      (fenceMet v r t .clu = true → 16 ≤ (v.core p r.core).w.mxQ.length → Waits s v (exec z s) .queue) ∧
      (fenceMet v r t .clu = true → (v.core p r.core).w.mxQ.length < 16 →
        Commits s (left (tagSlot (v.modCoreW p r.core (fun w => { w with mxQ := w.mxQ ++ [x] })) p k i t.tid)) srcs (exec z s) c)
    let queues (j : MxJob) : Prop :=
      let seq := w.mxNext % 2 ^ 21
      let id := word (2 ^ 31 + r.core.val * 2 ^ 22 + j.slot % 2 * 2 ^ 21 + seq)
      joins [] mxq (.job { j with seq := seq }) (2 * (r.core.val % 8) + j.slot) s
        (fun u => (u.modCoreW p r.core (fun w => { w with mxNext := (seq + 1) % 2 ^ 21 })).modThread r
          (fun t => { t with jobs := t.jobs ++ [(true, seq)] }))
        { writes d id with log := [.atom 18 d id] }
    let stores (u : State) (x : MxEntry) : Prop :=
      joins [a] mxst x i u (fun u => u) { Commit.none with log := [.atom 18 0 (t.rd a)] }
    (clusterOf r.core = none →
      (Ready s t [] → ∀ z ∈ ([mxq, .mxz slot, .mxr slot] : List Instr), Faults s s (exec z s) .target none) ∧
      (Ready s t [a] → Faults s s (exec mxst s) .target none)) ∧
    (clusterOf r.core = some k →
      (Ready s t [] → t.prepared = some (.matrix (.job job)) → queues job) ∧
      (Ready s t [a] → t.prepared = some (.matrix kept) → stores s kept) ∧
      (Ready s t [] → t.prepared = none → ∀ z ∈ ([mxq, .mxz slot] : List Instr),
        (16 ≤ w.mxQ.length → Waits s s (exec z s) .queue) ∧
        (w.mxQ.length < 16 → acc.poisoned = true → Faults s s (exec z s) .slotPoisoned none) ∧
        (w.mxQ.length < 16 → acc.poisoned = false → acc.orphaned = true → Faults s s (exec z s) .slotParked none)) ∧
      (Ready s t [] → t.prepared = none → w.mxQ.length < 16 → acc.poisoned = false → acc.orphaned = false →
        Commits s (tagSlot (s.modCoreW p r.core (fun w => { w with mxQ := w.mxQ ++ [.zero slot.val t.tid t.corr] })) p k i t.tid) []
          (exec (.mxz slot) s) { Commit.none with log := [.atom 18 0 0] } ∧
        ((shapeA = none ∨ shapeB = none) → Faults s s (exec mxq s) .ring none) ∧
        (shapeA = some sa → shapeB = some sb → (mxOperand t ra sa t.xa sa.cols = none ∨ mxOperand t rb sb t.xb sb.rows = none) →
          Faults s s (exec mxq s) .format none) ∧
        (shapeA = some sa → shapeB = some sb → mxOperand t ra sa t.xa sa.cols = some oa → mxOperand t rb sb t.xb sb.rows = some ob →
          let fits : Prop := narrowFits oa = true ∧ narrowFits ob = true ∧ shapesOk oa ob = true
          (¬ fits → Faults s s (exec mxq s) .matrixShape none) ∧
          (fits → queues
            { seq := 0, slot := slot.val, sr := sr, na := na, nb := nb, az := az, pop := pop, a := oa, b := ob, tid := t.tid,
              corr := t.corr, ctx := t.ctx }))) ∧
      (Ready s t [a] → t.prepared = none →
        (16 ≤ w.mxQ.length → Waits s s (exec mxst s) .queue) ∧
        (w.mxQ.length < 16 → acc.poisoned = true → Faults s s (exec mxst s) .slotPoisoned none) ∧
        (w.mxQ.length < 16 → acc.poisoned = false → acc.orphaned = true → t.priv = false → Faults s s (exec mxst s) .slotParked none) ∧
        (w.mxQ.length < 16 → acc.poisoned = false → (acc.orphaned = false ∨ t.priv = true) →
          (checkRanges s r t [] [(t.rd a, 16384)] (t.rd a) 64 false = .error e →
            exec mxst s = .next (settle s.cur (e.clearing (syncRegs [a])))) ∧
          (checkRanges s r t [] [(t.rd a, 16384)] (t.rd a) 64 false = .ok (src, pages, s1) →
            stores s1 (.store slot.val t.tid t.corr t.ctx (t.rd a) pages)))) ∧
      (Ready s t [] →
        (acc.pend ≠ 0 → Waits s s (exec (.mxr slot) s) (.mxr slot.val)) ∧
        (acc.pend = 0 → acc.poisoned = false → acc.orphaned = false → t.wait = none →
          Completes s t [] (exec (.mxr slot) s) Commit.none) ∧
        (acc.pend = 0 → (acc.poisoned = true ∨ acc.orphaned = true) →
          Commits s (s.modAcc p k i (fun a => { a with
              tagged := false, exited := false, orphaned := false, poisoned := false, reclaim := false })) [] (exec (.mxr slot) s)
            Commit.none)))

/-! ## System words (21, 22) -/

/-- R348 to R352: TRAP takes its software trap with EADDR its own address; ERET outside a handler faults, and inside one clears ACTIVE,
keeps CODE and goes to EPC; PARK and GSW need PRIV; CONT on an unwatched core does nothing.
The model's choice of log entry 68 is part of it. -/
def Obligations.SystemWordResults : Prop :=
  ∀ (s : State) (t : Thread) (n : BitVec 10) (a : Src), s.watched s.cur.at_.part s.cur.at_.core = false →
    let r := s.cur.at_
    (Ready s t [] → Faults s s (exec (.trap n) s) (.trap n) (some t.pc) ∧ Completes s t [] (exec .cont s) Commit.none) ∧
    (Ready s t [] → t.ecause.getLsbD 63 = false → Faults s s (exec .eret s) .privilege none) ∧
    (Ready s t [] → t.ecause.getLsbD 63 = true → (s.core r.part r.core).w.inbox.all (fun m => m.tid != t.tid) = true →
      ∃ s' t', exec .eret s = .next s' ∧ s'.thread r = some t' ∧ t'.pc = t.epc ∧ t'.ecause = word (t.ecause.toNat - 2 ^ 63) ∧
        t'.epc = t.epc ∧ t'.eaddr = t.eaddr ∧ t'.regs = t.regs ∧ t'.v = t.v ∧ t'.m = t.m ∧ t'.tid = t.tid ∧ s'.mem = s.mem) ∧
    (Ready s t [a] → t.priv = false → Faults s s (exec (.park a) s) .privilege none ∧ Faults s s (exec (.gsw a) s) .privilege none) ∧
    (Ready s t [a] → t.priv = true →
      let x := (t.rd a).toNat
      Commits s (s.modThreads r.part (fun u =>
          if u.tid = x % 2 ^ 20 then { u with parked := true, parkedIn := some s.cycle } else u)) [a] (exec (.park a) s)
        { Commit.none with lat := 30 } ∧
      Commits s (s.modRegs r.part (fun q => { q with
          gswt := if x = 0 then 0 else if x ≤ s.tstamp then word (s.tstamp + 1) else t.rd a })) [a] (exec (.gsw a) s)
        { Commit.none with lat := 30 })

/-- R333, R335, R339, R353, R354: LOGN and LOGA. On a core that is no worker's taster they fault; LOGN with nothing to take, or behind another
LOGN's stamp (log entry 34), waits; at a stamp that its taster has not acknowledged it takes the record and waits for that; with a record whose type has a
handler it takes the record, hands over its sequence, head, value and address, and goes to the handler, g15 its return; a poisoned record
faults, and a handler table that cannot be read leaves the record untaken. LOGA moves ACK forward, to the last record taken where its number lies
beyond that.
The model's choice of log entry 34 is part of it. -/
def Obligations.LogWordResults : Prop :=
  ∀ (s s2 : State) (t : Thread) (a : Src) (wc q : CoreId) (x : LogRec) (entry ea : Word) (drop : TrapRec) (wait : Wait) (n since : Nat),
    let r := s.cur.at_
    let w := (s.core r.part wc).w
    let w' := takeRecord w x
    let ack := (s.core r.part r.core).w.logseq.toNat
    let v := (t.rd a).toNat % 2 ^ 32
    let logn := exec .logn s
    let takes : Prop := stampAhead s r = false ∧ (t.wait = none ∨ t.wait = some .record)
    (workerOf s r.part r.core = none →
      (Ready s t [] → t.wait = none → Faults s s logn .target none) ∧
      (Ready s t [a] → Faults s s (exec (.loga a) s) .target none)) ∧
    (Ready s t [] → t.wait = some (.stamp q n since) → stampPassed s r.part q n = false → Waits s s logn (.stamp q n since)) ∧
    (workerOf s r.part r.core = some wc →
      (Ready s t [] → stampAhead s r = true → (t.wait = none ∨ t.wait = some .record) → Waits s s logn .record) ∧
      (Ready s t [] → takes → nextRecord s r.part w = none → Waits s s logn .record) ∧
      (Ready s t [] → takes → nextRecord s r.part w = some x → recordPoisoned s r.part w x = some ea →
        Faults s s logn .poison (some ea)) ∧
      (Ready s t [] → takes → nextRecord s r.part w = some x → recordPoisoned s r.part w x = none → x.type = 4 →
        x.info / 2 ^ 13 = q.val → stampPassed s r.part q (x.words.headD 0) = false →
        Waits s (s.modCoreW r.part wc (fun _ => w')) logn (.stamp q (x.words.headD 0) s.cycle)) ∧
      (Ready s t [] → takes → nextRecord s r.part w = some x → recordPoisoned s r.part w x = none → x.type ≠ 4 →
        ¬ (x.type = 15 ∧ x.info / 2 ^ 16 = 0) →
        let table := tableEntry (s.modCoreW r.part wc (fun _ => w')) r t x.type
        let untaken := s2.modCoreW r.part wc (fun k => { k with log := w.log })
        (table = .error (.drop drop s2) → Drops s untaken logn drop) ∧
        (table = .error (.wait wait s2) → Waits s untaken logn wait) ∧
        (table = .ok (entry, s2) → entry ≠ 0 → entryOk entry = false → Faults s s logn .address (some entry)) ∧
        (table = .ok (entry, s2) → entry ≠ 0 → entryOk entry = true →
          Commits s s2 [] logn { Commit.none with
            regs := [(0, word x.seq), (1, word x.head), (2, dispatchValue w w' x), (3, (kget w'.log.addrs x.slot).getD 0),
                     (15, nextPc t.pc s.cur.size)],
            target := some entry })) ∧
      (Ready s t [a] → fenceMet s r t .part = false → Waits s s (exec (.loga a) s) (.fence .part)) ∧
      (Ready s t [a] → fenceMet s r t .part = true →
        let new := if seqGt v w.log.taken then w.log.taken else if seqGt v ack then v else ack
        let s1 := s.modCoreW r.part r.core (fun w => { w with
          logseq := BitVec.ofNat 32 new, ackIn := s.cycle, ackWas := if w.ackIn = s.cycle then w.ackWas else w.logseq })
        Commits s (s1.modCoreW r.part wc (fun w => { w with
            log := { w.log with unacked := w.log.unacked.filter (fun e => seqGt e.1 new) } })) [a] (exec (.loga a) s) Commit.none))

/-- R5, R11, R148, R155, R283, R315, R344 to R347: MFS. A register that only PRIV may read takes the privilege fault, a cluster's register on a
bank core the target fault; otherwise gd receives the register, which is said here of every one: the thread's, the core's, its cluster's and the
partition's, each as the state holds it, those that are made up of fields as their map says, and the write-only ones, which read as zero.
The model's choices of log entries 12, 31 and 68 are part of it. -/
def Obligations.ReadRegisterResults : Prop :=
  ∀ (s : State) (t : Thread) (d : Reg) (reg : SysReg) (i : Fin 2) (i4 : Fin 4) (i16 : Fin 16), Ready s t [] →
    let r := s.cur.at_
    let q := s.part r.part
    let w := (s.core r.part r.core).w
    let k := (s.core r.part r.core).c
    let n := r.core.val
    let acc (a : AccSlot) : Word :=
      word (a.tid % 2 ^ 20 * 2 ^ 32 + (if a.poisoned then 3 else if a.orphaned then 2 else if a.pend ≠ 0 then 1 else 0) * 2 ^ 22 +
        (if a.tagged then 2 ^ 21 else 0) + a.pend % 32 * 2 ^ 16 + (if a.malf then 128 else 0) + (if a.disc then 64 else 0) + a.chk % 4 * 16 +
        (if a.mism then 2 else 0) + (if a.unch then 1 else 0))
    (regReads reg = .priv → t.priv = false → Faults s s (exec (.mfs d reg) s) .privilege (some (word reg.num))) ∧
    (¬ (regReads reg = .priv ∧ t.priv = false) → regHome reg = .cluster → clusterOf r.core = none →
      Faults s s (exec (.mfs d reg) s) .target none) ∧
    (¬ (regReads reg = .priv ∧ t.priv = false) → ¬ (regHome reg = .cluster ∧ clusterOf r.core = none) →
      (reg = .shcnt 0 ∨ ∀ i, reg ≠ .shcnt i) →
      ∃ v, Completes s t [] (exec (.mfs d reg) s)
          { writes d v with lat := if regHome reg = .cluster ∨ regHome reg = .partition then 30 else 0 } ∧
        (∀ e ∈ ([(.status, t.status), (.tid, word t.shownTid), (.core, word n), (.modid, s.modid.setWidth 64),
            (.clus, if n < 256 then word (n / 8) else word (32 + (n - 256))), (.part, word (r.part.val / 4 * 16 + r.part.val)),
            (.ctx, t.ctx.setWidth 64), (.corr, t.corr.setWidth 64), (.epc, t.epc), (.ecause, t.ecause), (.eaddr, t.eaddr),
            (.rbent, ctxWord s r.part t.ctx 0x10), (.tstamp, word s.tstamp)] : List (SysReg × Word)), reg = e.1 → v = e.2) ∧
        (∀ e ∈ ([(.rxq, word (w.rxTail.toNat * 2 ^ 16 + w.rxHead.toNat)), (.cpyst, if n < 256 then w.cpyst else 0), (.tbind, w.tbind),
            (.loglim, w.loglim), (.loght, w.loght), (.logseq, w.logseq.setWidth 64), (.strctl, k.strctl), (.sysh, k.sysh),
            (.pcnt i4, w.pcnt[i4]), (.psel, w.psel), (.trcctl, w.trcctl), (.trcbase, k.trcbase), (.trcptr, w.trcptr), (.trctrg, w.trctrg),
            (.trcpc, k.trcpc), (.trctime, k.trctime), (.logvio, 0)] : List (SysReg × Word)), reg = e.1 → v = e.2) ∧
        (∀ cl, clusterOf r.core = some cl →
          ∀ e ∈ ([(.accst i, acc (s.acc r.part cl (2 * (n % 8) + i.val))), (.engctl, (s.cluster r.part cl).engctl), (.accrcl, 0)] :
            List (SysReg × Word)), reg = e.1 → v = e.2) ∧
        (clusterOf r.core = none → reg = .accst i → v = 0) ∧
        (∀ e ∈ ([(.lwbase, q.r.lwbase), (.dspctl, q.r.dspctl), (.agei, q.r.agei), (.migth, q.r.migth), (.ptroot i4, q.r.ptroot[i4]),
            (.dombase, q.r.dombase), (.rtbase, q.r.rtbase), (.memctl, q.r.memctl), (.errinj, q.r.errinj), (.slim i16, q.r.slim[i16]),
            (.steepq, q.r.steepq), (.steepctl, q.r.steepctl), (.ctxbase, q.r.ctxbase), (.tqbase, q.r.tqbase), (.tqhead, word q.trap.head),
            (.tqtail, word (q.trap.lost % 2 ^ 16 * 2 ^ 48 + q.trap.tail)),
            (.fatalovf, word ((if q.trap.ovf then 2 ^ 63 else 0) + q.trap.heldFatal.length % 2 ^ 16)), (.gswt, q.r.gswt), (.wscur, q.r.wscur),
            (.wsnext, q.r.wsnext), (.relctl, q.r.relctl), (.ptclr, 0), (.wake, 0)] : List (SysReg × Word)), reg = e.1 → v = e.2) ∧
        (∀ e ∈ ([(.xport, q.r.xport), (.collctl, q.r.collctl), (.snapctl, q.r.snapctl), (.snapdom, q.r.snapdom), (.caddy, q.r.caddy),
            (.caddyp, q.r.caddyp), (.snapstg, q.r.snapstg), (.snaprst, q.r.snaprst), (.snapn, q.r.snapn.setWidth 64),
            (.perfctl, q.r.perfctl), (.lnkctl, q.r.lnkctl), (.lnkbase, q.r.lnkbase), (.vfsel, q.r.vfsel), (.shcnt 0, q.r.shcnt[(0 : Fin 4)])] :
          List (SysReg × Word)), reg = e.1 → v = e.2)) ∧
    (i4 ≠ 0 → reg = .shcnt i4 → ∃ s1, Commits s s1 [] (exec (.mfs d reg) s)
      { writes d ((s1.part r.part).r.shcnt[i4]) with log := [.val d ((s1.part r.part).r.shcnt[i4])], lat := 30 } ∧ s1.mem = s.mem)

/-- R5, R12, R155, R215, R230, R283, R315, R328, R341, R344 to R347, R355, R382, R407, R408, R411, R416: MTS. A register that none may write, or only
PRIV, takes the privilege fault; STATUS clears the sticky bits where a one is written and changes in no other bit; CORR, EPC and EADDR are the
thread's; a register with a mask of RW fields takes them from the written value and keeps every other bit; bits cleared by a one stay where
hardware has set them in the same cycle; those of a cluster and of the partition are written once the thread's updates are performed, in about 30
cycles. TBIND binds a taster once the bundle has committed, and unbinds it when its log is acknowledged. The writes that act beyond their
register say so: PERFCTL presets the counters, TQBASE empties the queue, RELCTL.PRST begins a reset.
The model's choices of log entries 31, 68 and 84 are part of it. -/
def Obligations.WriteRegisterResults : Prop :=
  ∀ (s : State) (t : Thread) (reg : SysReg) (a : Src) (i : Fin 2) (i4 : Fin 4) (i16 : Fin 16), Ready s t [a] →
    let r := s.cur.at_
    let p := r.part
    let v := t.rd a
    let may : Prop := regWrites reg ≠ .none ∧ ¬ (regWrites reg = .priv ∧ t.priv = false)
    let old (reg : SysReg) : Word := ownReg s p r.core reg
    let mix (old mask : Word) : Word := (old &&& ~~~mask) ||| (v &&& mask)
    -- sticky bits after the write, `at_` the core under which their hardware settings are kept
    let ones (at_ : CoreId) (reg : SysReg) (old : Word) : Word := old &&& ~~~(v &&& ~~~s.hwBits p at_ reg)
    -- a register of the core, which reads as w afterwards
    let core (reg : SysReg) (w : Word) : Prop :=
      ∃ s1, Commits s s1 [a] (exec (.mts reg a) s) Commit.none ∧ s1.mem = s.mem ∧ ownReg s1 p r.core reg = w
    -- one of its cluster or of the partition, of which Q holds afterwards
    let afar (reg : SysReg) (Q : State → Prop) : Prop :=
      (fenceMet s r t .part = false → Waits s s (exec (.mts reg a) s) (.fence .part)) ∧
      (fenceMet s r t .part = true → ∃ s1, Commits s s1 [a] (exec (.mts reg a) s) { Commit.none with lat := 30 } ∧ Q s1)
    let reads (reg : SysReg) (w : Word) (s1 : State) : Prop := s1.mem = s.mem ∧ ownReg s1 p r.core reg = w
    (¬ may → Faults s s (exec (.mts reg a) s) .privilege (some (word reg.num))) ∧
    (may → regHome reg = .cluster → clusterOf r.core = none → Faults s s (exec (.mts reg a) s) .target none) ∧
    Completes s t [a] (exec (.mts .status a) s) { Commit.none with status := some (t.status &&& ~~~(v &&& 0x801F)) } ∧
    Commits s (s.modThread r (fun t => { t with epc := v })) [a] (exec (.mts .epc a) s) Commit.none ∧
    Commits s (s.modThread r (fun t => { t with eaddr := v })) [a] (exec (.mts .eaddr a) s) Commit.none ∧
    (∀ k, clusterOf r.core = some k →
      let m := v &&& ~~~s.hwBits p r.core (.accst i)
      Commits s (s.modAcc p k (2 * (r.core.val % 8) + i.val) (fun x => { x with
        mism := x.mism && !m.getLsbD 1, unch := x.unch && !m.getLsbD 0 })) [a] (exec (.mts (.accst i) a) s) Commit.none) ∧
    (clusterOf r.core = none → Commits s s [a] (exec (.mts (.accst i) a) s) Commit.none) ∧
    (t.priv = true →
      Commits s (s.modThread r (fun t => { t with corr := v.setWidth 32 })) [a] (exec (.mts .corr a) s) Commit.none ∧
      (∀ e ∈ ([(.loglim, 0x7FFFFF), (.loght, 0x01FFFFFFFFFFFF80), (.strctl, 3), (.sysh, 0xFFFFFFFFFFFFFFFF),
          (.psel, 0xFFFF0000FFFFFFFF), (.trcbase, 0x01FFFFFFFFFFF000), (.trcptr, 0xFFFFF0), (.trctrg, 0x3FFFFFF),
          (.trcpc, 0xFFFFFFFFFFFFFFFF), (.trctime, 0xFFFFFFFFFFFFFFFF)] : List (SysReg × Word)), core e.1 (mix (old e.1) e.2)) ∧
      core .rxq (word ((s.core p r.core).w.rxTail.toNat * 2 ^ 16 + v.toNat % 2 ^ 9)) ∧
      (r.core.val < 256 →
        core .cpyst ((old .cpyst &&& 0x7FFFFFFFFFFFFFFF) ||| (ones r.core .cpyst (old .cpyst) &&& 0x8000000000000000))) ∧
      core (.pcnt i4) ((v &&& 0xFFFFFFFFFFFF) ||| ones r.core (.pcnt i4) (old (.pcnt i4) &&& 0x8000000000000000)) ∧
      (let x := (mix (old .trcctl) 0xCF000000FFFF00FF &&& ~~~(0x2000000000000000 : Word)) |||
          ones r.core .trcctl (old .trcctl &&& 0x2000000000000000)
       core .trcctl (if v.getLsbD 63 then x else x &&& ~~~(0x1000000000000000 : Word))) ∧
      (v.getLsbD 63 = true → exec (.mts .tbind a) s =
        .next (bindTaster (commitAt s r s.cur.size s.cur.words { Commit.none with clears := syncRegs [a] }) p r.core v)) ∧
      (v.getLsbD 63 = false → s.watched p r.core = true → logDrained s p r.core = false → Waits s s (exec (.mts .tbind a) s) .unbind) ∧
      (v.getLsbD 63 = false → (s.watched p r.core = false ∨ logDrained s p r.core = true) →
        ∃ s1, Commits s s1 [a] (exec (.mts .tbind a) s) Commit.none ∧ s1.watched p r.core = false ∧
          ownReg s1 p r.core .tbind = (v &&& 0x7C0000FF803FFFF8) ||| (old .tbind &&& 0x10000000000)) ∧
      Commits s (writeLogvio s p r.core v) [a] (exec (.mts .logvio a) s) Commit.none ∧
      (∀ u : State,
        (bindOk u p r.core v = true → ownReg (bindTaster u p r.core v) p r.core .tbind = v &&& 0xFC0000FF803FFFF8) ∧
        (bindOk u p r.core v = false →
          bindTaster u p r.core v = u.modCoreW p r.core (fun w => { w with tbind := w.tbind ||| 0x10000000000 }))) ∧
      (clusterOf r.core ≠ none → afar .engctl (reads .engctl (mix (old .engctl) 0xF1F01))) ∧
      (∀ k, clusterOf r.core = some k → afar .accrcl (fun s1 => s1 = reclaimSlots s p k (v.toNat % 2 ^ 16))) ∧
      (∀ e ∈ ([(.lwbase, 0x0000FFFFFFF00000), (.dspctl, 3), (.agei, 0xFFFFFFFF), (.migth, 0xFF), (.ptroot i4, 0x0000FFFFFFFF0001),
          (.dombase, 0x0000FFFFFFFF0000), (.rtbase, 0x0000FFFFFFFF0000), (.memctl, 0xF1), (.errinj, 0x8000000001FFFFE0),
          (.slim i16, 0x7FFFFFFF), (.steepq, 0x7FFFFFFF), (.ctxbase, 0x0000FFFFFFFFC000), (.wscur, 0x0000FFFFFFFF0001),
          (.wsnext, 0x0000FFFFFFFF0001), (.xport, 0x81FFFFFF000000FF), (.collctl, 0x1FFFFFFFF), (.snapdom, 0x0000FFFFFFFFFFF8),
          (.caddy, 0x8000FFFFFFFF0000), (.caddyp, 0x7FFFFFFFFFFFFFFF), (.snapstg, 0x0000FFFFFFFFFFFF), (.lnkctl, 0xFFC0000000000000)] :
        List (SysReg × Word)), afar e.1 (reads e.1 (mix (old e.1) e.2))) ∧
      (v.getLsbD 0 = true → afar .steepctl (reads .steepctl (mix (old .steepctl) 3))) ∧
      (v.getLsbD 63 = false → afar .relctl (reads .relctl (mix (old .relctl) 0xFFFFFFFF)) ∧
        afar .snaprst (reads .snaprst (mix (old .snaprst) 0x40000000001FFFFF))) ∧
      (v.getLsbD 63 = true → (s.part p).inService = true → (s.part p).rst = .none →
        afar .relctl (fun s1 => reads .relctl (mix (old .relctl) 0xFFFFFFFF) s1 ∧ (s1.part p).rst = .refusing)) ∧
      (let x := mix (old .snapctl) 0xC00000000FFF0000
       afar .snapctl (reads .snapctl (if v.getLsbD 63 = true ∧ (old .snapctl).getLsbD 63 = false then x ||| 1 else x))) ∧
      afar .perfctl (fun s1 => reads .perfctl (v &&& 0xF) s1 ∧ ∀ c, (∀ j : Fin 4, (s1.core p c).w.pcnt[j] = 0) ∧
        (s1.core p c).w.psel = match v.toNat % 8 with
          | 1 => 0xFFFF000009040302
          | 2 => 0xFFFF00000A070605
          | 3 => 0xFFFF0000030D0C0B
          | 4 => 0xFFFF000011100F0E
          | _ => 0xFFFF000000000000) ∧
      afar .lnkbase (reads .lnkbase ((v &&& 0x01FFFFFFFFFFC000) ||| ones 0 .lnkbase (old .lnkbase &&& 1))) ∧
      afar .fatalovf (fun s1 => s1.mem = s.mem ∧ (s1.part p).trap = { (s.part p).trap with
        ovf := (s.part p).trap.ovf && !(v.getLsbD 63 && !(s.hwBits p 0 .fatalovf).getLsbD 63) }) ∧
      afar .tqbase (fun s1 => reads .tqbase ((v &&& 0x01FFFFFFFFFFF00F) ||| ones 0 .tqbase (old .tqbase &&& 0x800)) s1 ∧
        (s1.part p).trap = { (s.part p).trap with head := 0, tail := 0, alloc := 0, writing := [] }) ∧
      afar .tqhead (reads .tqhead (word (v.toNat % 2 ^ 16))) ∧
      afar .ptclr (fun s1 => s1 = s.modPart p (fun q => { q with badTables := ndel q.badTables (v.toNat / 2 ^ 16 % 2 ^ 32) })) ∧
      afar .wake (fun s1 => s1 = writeWake s p v))

/-- R334, R374, R375, R383, R384: COLL reads its descriptor and checks its ranges once and for all, waits for the thread's earlier accesses,
and gives the collective the partition's next number, whatever becomes of it: one whose descriptor is in error ends at once with STATE 2, any
other starts, said on a core without a taster where its group has other partitions. COLLW waits while it is pending and then answers its
status, 7 for one not known, and faults on an id that is no collective's; SNAP by a thread that does not coordinate faults, and otherwise
sends the markers of the next snapshot, or answers 0 where none may begin; SNAPQ answers how a snapshot stands.
The model's choices of log entries 17, 55, 60 and 68 are part of it. -/
def Obligations.CollectiveSnapshotResults : Prop :=
  ∀ (s s1 s2 s3 : State) (t : Thread) (d : Reg) (a : Src) (ps : List (Word × Place)) (ws : List Word) (lat : Nat) (kept : Option Coll)
    (src dst : List Leaf) (e : Res),
    let r := s.cur.at_
    let p := r.part
    let x := (t.rd a).toNat
    -- COLL with what its descriptor describes, in the state u
    let joins (c : Option Coll) (u : State) (lat : Nat) : Prop :=
      let v := u.modThread r (fun t => { t with prepared := some (.coll c) })
      let n := (u.part p).collNext
      let id := word (0x3FF * 2 ^ 22 + n % 2 ^ 22)
      let done : Commit := { writes d id with log := [.val d id], lat := lat }
      (fenceMet v r t .sys = false → Waits s v (exec (.coll d a) s) (.fence .sys)) ∧
      (fenceMet v r t .sys = true → 64 ≤ (u.part p).colls.length → Waits s v (exec (.coll d a) s) .queue) ∧
      (fenceMet v r t .sys = true → (u.part p).colls.length < 64 → c = none →
        Commits s (keepStatus (nextColl v p) p n 2) [a] (exec (.coll d a) s) done) ∧
      (∀ y, fenceMet v r t .sys = true → (u.part p).colls.length < 64 → c = some y →
        (v.watched p r.core = false ∨ y.members.any (fun m => fromPeer v m.1 m.2 p) = false) →
        Commits s (startColl v p y) [a] (exec (.coll d a) s) done)
    (Ready s t [a] →
      (t.prepared = some (.coll kept) → joins kept s 0) ∧
      (t.prepared = none → 64 ≤ (s.part p).colls.length → Waits s s (exec (.coll d a) s) .queue) ∧
      (t.prepared = none → (s.part p).colls.length < 64 → checkRecord s r t (t.rd a) [7, 6, 5, 4, 3, 2, 1, 0] = .ok (ps, s1) →
        readRecord r t ps s1 = .ok (ws, lat, s2) →
        -- the group table, which the engine reads where the descriptor stands
        let read := if descriptorOk ws then readGroup r t (field (ws.getD 0 0) 28 12) (ws.getD 5 0) s2 else (none, s2)
        let group := read.1
        let c := collOf read.2 r t ws (group.getD [])
        let sized : Prop := c.op ≤ 4 ∧ c.ty ≤ 4
        let checked := checkRanges read.2 r t (if sized then [(c.src, c.srcBytes)] else [])
          (if sized then [(c.dst, c.dstBytes), (c.stage, c.dstBytes)] else []) 0 1 false
        (checked = .error e → exec (.coll d a) s = .next (settle s.cur (e.clearing (syncRegs [a])))) ∧
        (checked = .ok (src, dst, s3) →
          joins (if group ≠ none ∧ c.members[c.rank]? = some (s3.modid, p) then some { c with pages := src ++ dst } else none) s3 lat)) ∧
      (x / 2 ^ 22 ≠ 0x3FF → Faults s s (exec (.collw d a) s) .jobId none) ∧
      (x / 2 ^ 22 = 0x3FF → (s.part p).colls.any (fun c => c.seq.toNat == x % 2 ^ 22) = true →
        Waits s s (exec (.collw d a) s) (.coll (x % 2 ^ 22))) ∧
      (x / 2 ^ 22 = 0x3FF → (s.part p).colls.any (fun c => c.seq.toNat == x % 2 ^ 22) = false →
        Completes s t [a] (exec (.collw d a) s)
          (writes d ((((s.part p).collDone.find? (fun e => e.1 == x % 2 ^ 22)).map (fun e => e.2)).getD 7))) ∧
      Completes s t [a] (exec (.snapq d a) s) { writes d (snapqWord s p (x % 2 ^ 16)) with lat := 30 }) ∧
    (Ready s t [] →
      let q := s.part p
      let st := snapqState q q.r.snapn.toNat
      let busy : Prop := q.r.snapctl.getLsbD 63 = false ∨ st = 1 ∨ st = 2
      (coordinates q = false → Faults s s (exec (.snap d) s) .privilege none) ∧
      (coordinates q = true → fenceMet s r t .part = false → Waits s s (exec (.snap d) s) (.fence .part)) ∧
      (coordinates q = true → fenceMet s r t .part = true → busy → Completes s t [] (exec (.snap d) s) (writes d 0)) ∧
      (coordinates q = true → fenceMet s r t .part = true → ¬ busy →
        let n := nextSnap q.r.snapn.toNat
        let s1 := modSnap s p (fun x => { x with issuers := nput x.issuers t.tid })
        Commits s (s1.after 1 (.marker p (ownMarker s1 p n t.corr))) [] (exec (.snap d) s)
          { writes d (word n) with log := [.val d (word n)] }))
/-! ## Steps of threads, messages and the dispatcher (01, 06, 08, 09, 20) -/

/-- R21, R25, R85, R141 to R143, R162, R278, R282, R313, R314, R320, R337, R353: the steps that end a thread's waits, move it, or end it. A reply
commits the bundle that waits for it, its value in the destination register; a delivery fills its register, or goes to the inbox of a thread in
its handler, or comes again; the reservation's retry, the scrub's end, a migration and its arrival; the four actions of WAKE. A core that fails is
out of service with no thread on it and none in its landing queue, its idle tagged accumulator slots orphaned and the busy ones kept for their
last completion, its record posted, and the binding of which it is the taster lost.
The model's choices are part of it: log entry 13 (the 40 cycles of a migration), 35 (kills in a landing queue), 36 (a failed core, a lost
binding), 73 (an inbox that counts entries kept for threads switched out), 74 (the retry of LRW), 79 (the lowest free slot), 82 (the kept
notice of a failed run). -/
def Obligations.ThreadSteps : Prop :=
  ∀ (s s1 : State) (r r1 : TRef) (t t1 : Thread) (q : Pend) (m : Delivery) (p : PartId) (c : CoreId) (tid : BitVec 20) (ctx : BitVec 8)
    (w : Waiter) (rest : List Waiter) (line x since : Nat),
    -- replies and deliveries
    (s.thread r = some t → t.pend = some q → q.notBefore ≤ s.cycle →
      let u := s.setThread r { t with readyAt := Nat.max t.readyAt (s.cycle + 1) }
      exec (.memoryReply r none) s = .next (commitAt u r q.size q.words q.commit) ∧
      (∀ v d, q.dest = some d → q.ty = none → ∃ log,
        exec (.memoryReply r (some v)) s =
          .next (commitAt u r q.size q.words { q.commit with regs := (d, v) :: q.commit.regs, log := log })) ∧
      (∀ v d ty, q.dest = some d → q.ty = some ty → ∃ log,
        exec (.memoryReply r (some v)) s =
          .next (commitAt u r q.size q.words { q.commit with regs := (d, ty.extend v.toNat) :: q.commit.regs, log := log }))) ∧
    (s.thread r = some t → t.pend = some q → s.cycle < q.notBefore → ∀ v,
      exec (.memoryReply r v) s =
        .next ((s.setThread r { t with pend := some { q with commit := replyCommit q v, dest := none, log := .nothing } }).after
          (q.notBefore - s.cycle) (.memoryReply r none))) ∧
    (∀ i ∈ ([.registerDelivery m, .deliveryRetry m] : List Instr), s.byTid m.dst.part m.tid = some (r1, t1) →
      (t1.ecause.getLsbD 63 = false → m.failed = false → s.watched r1.part r1.core = false →
        exec i s = .next (s.modThread r1 (fun t => { t with
          regs := { g := t.regs.g.set m.reg m.val, full := t.regs.full.set m.reg true }, awaiting := t.awaiting.erase m.reg,
          arrivedIn := s.cycle, arrived := (if t.arrivedIn = s.cycle then t.arrived else []) ++ [(m.reg, m.val)] }))) ∧
      (t1.ecause.getLsbD 63 = false → m.failed = true →
        exec i s = .next (s.modThread r1 (fun t => { t with
          delegFailed := t.delegFailed ++ [m.addr], awaiting := t.awaiting.erase m.reg }))) ∧
      (t1.ecause.getLsbD 63 = true → inboxCount (s.part m.dst.part) r1.core < 16 →
        exec i s = .next (s.modCoreW m.dst.part r1.core (fun w => { w with inbox := w.inbox ++ [m] }))) ∧
      (t1.ecause.getLsbD 63 = true → 16 ≤ inboxCount (s.part m.dst.part) r1.core →
        exec i s = .next (s.after 256 (.deliveryRetry m)))) ∧
    ((s.part p).lrwFull = w :: rest → s.thread w.who = some t1 → t1.tid = w.tid → t1.resv = some line →
      let others (u : State) : State :=
        (rest.filter (fun w => (waiterLine s w).all (fun n => homeSlice n == homeSlice line))).foldl (joinQueue p) u
      let retry := exec (.lrwRetry p (homeSlice line)) s
      (resvRoom (s.part p) line = false → retry = .next (others s)) ∧
      (resvRoom (s.part p) line = true →
        let l := (kget (s.part p).resv line).getD []
        let u := s.modPart p (fun q => { q with
          lrwFull := q.lrwFull.filter (fun x => x.tid != w.tid), resv := kput q.resv line (l ++ [w]) })
        retry = .next (others (if l = [] then grantNext p line [w] u else u)))) ∧
    -- the end of a thread, and its way to another core
    (s.slot r = some (.scrub x) → exec (.scrubComplete r) s = .next (freeSlot (freedTid s r.part x) r)) ∧
    (s.thread r = some t → t.migrate = some x → x < 16 →
      let h : SliceId := Fin.ofNat 16 x
      (pinnedHere s r t = true → exec (.migration r) s = .next (s.setThread r { t with migrate := none })) ∧
      (pinnedHere s r t = false → besideHome r.core h false = false → updatesPending s r.part t.tid = true →
        exec (.migration r) s = .next (s.after 1 (.migration r))) ∧
      (pinnedHere s r t = false → besideHome r.core h false = false → updatesPending s r.part t.tid = false →
        ∀ c1 sl, migrationTarget s r.part h false = some c1 → freeGeneral (s.core r.part c1).w = some sl →
          let u := ((s.setSlot ⟨r.part, c1, sl⟩ (.reserved (packContext t))).count r.part r.core 8 (some r.slot) 1).traceRec r 6 t.pc t.corr
          exec (.migration r) s = .next ((freeSlot u r).after 40 (.migrationArrival ⟨r.part, c1, sl⟩)))) ∧
    (s.slot r1 = some (.reserved t) →
      (messageWaits s r1.part r1.core (.migrationArrival r1) = true →
        exec (.migrationArrival r1) s = .next (s.holdBack (.migrationArrival r1))) ∧
      (messageWaits s r1.part r1.core (.migrationArrival r1) = false →
        exec (.migrationArrival r1) s = .next ((placeThread s r1 t (s.cycle + 8)).traceRec r1 7 t.pc t.corr))) ∧
    -- WAKE
    (∃ u, exec (.wakeResume p tid) s = .next u ∧ u.mem = s.mem ∧
      ∀ r2 t2, r2.part = p → r2.core ∈ (s.part p).coreIds → s.thread r2 = some t2 →
        u.thread r2 = some (if t2.tid = tid.toNat ∧ (t2.parked = true ∨ t2.dropped.isSome = true) ∧ t2.parkedIn ≠ some s.cycle then
          { t2 with
            parked := false, dropped := none, readyAt := Nat.max t2.readyAt (s.cycle + 1),
            strain := if t2.strain.parked = true then { t2.strain with skip := true, parked := false } else t2.strain }
          else t2)) ∧
    exec (.wakeKillThread p tid) s = .next (killWhere s p (fun t => t.tid == tid.toNat)) ∧
    exec (.wakeKillContext p ctx) s = .next (killWhere s p (fun t => t.ctx == ctx)) ∧
    (∀ rec_, s.byTid p tid.toNat = some (r, t) → t.dropped = some rec_ →
      exec (.wakeUnservable p tid) s = .next (postRecord
        (s.setThread r { t with dropped := none, parked := true, ecause := setField t.ecause 0 12 0x031 }) p
        { rec_ with code := 0x031, cls := 1 })) ∧
    -- failed cores and watchdogs
    (∃ u, exec (.coreFailed p c) s = .next u ∧ exec (.shellAckTimeout p c) s = .next u ∧
      ((s.core p c).c.failed = true → u = s) ∧
      ((s.core p c).c.failed = false →
        let v0 := s.modCoreC p c (fun k => { k with failed := true })
        let v1 := killLanding v0 p c (fun _ => true)
        let v2 := ((v1.population p (fun _ => true)).filter (fun r => r.core == c)).foldl killThread v1
        let v3 := postRecord (orphanSlots v2 p c (fun a => a.pend == 0)) p { TrapRec.none with code := 0x035, cls := 1, core := c.val }
        (workerOf v3 p c = none → u = v3) ∧ (∀ w, workerOf v3 p c = some w → u = loseBinding v3 p w) ∧
        (u.core p c).c.failed = true ∧ (u.core p c).w.landing = [] ∧
        (c ∈ (s.part p).coreIds → ∀ sl, u.thread ⟨p, c, sl⟩ = none) ∧
        ∀ k i, clusterOf c = some k → i / 2 = c.val % 8 →
          ((s.acc p k i).pend ≠ 0 → u.acc p k i = s.acc p k i) ∧
          ((u.acc p k i).tagged = true → (u.acc p k i).pend = 0 → (u.acc p k i).orphaned = true))) ∧
    (s.thread r = some t → t.wait = some (.stamp c x since) →
      let v := fatalPark s r (TrapRec.ofThread r t 0x036 1 t.pc 0)
      (workerOf v r.part r.core = none → exec (.lognWatchdog r) s = .next v) ∧
      (∀ k, workerOf v r.part r.core = some k → exec (.lognWatchdog r) s = .next (loseBinding v r.part k) ∧
        (((loseBinding v r.part k).core r.part k).w.tbind.getLsbD 63 = false)))

/-- R123 to R135, R138, R158, R166, R212, R320, R389: the dispatcher's steps, and those of the server and system slots. A sealed record is accepted or
rejected with the code of the first check that fails; the record at the head of the order is expanded a packet at a time, round the
clusters it names; the head of the highest queue becomes a thread with the record's shadows; old packets move up; the DONE word is
written when the record's threads have ended; a queued request becomes the server slot's thread.
A record with a shadow that is not zero holds a descriptor set from its first packet on, and waits at the head of the order while none of
the 255 is free. A RED reaches its bank core in its place among the messages on MSG, and the first update there runs in a free slot.
The model's choices are part of it: log entry 5 (fields a record leaves open), 32 (the dispatcher's own accesses), 33 (the cycle of a thread's
first issue), 77 (messages that wait on MSG), 79 (the lowest free slot and set, the aging of all due packets in one cycle). -/
def Obligations.DispatcherSteps : Prop :=
  ∀ (s s1 v : State) (p : PartId) (n : BitVec 13) (k : ClusterId) (c c1 : CoreId) (q : Fin 4) (l : Launch) (x : Packet) (rest : List Packet)
    (ids : List Nat) (d e code : Nat) (m : ActiveMsg) (ms : List ActiveMsg) (sl : SlotId) (u : RedReq) (us : List RedReq) (addr : Word)
    (as_ : List Word),
    let posted := readPosted s p n
    ((s.part p).sealing.contains n = true → atHome s p (slotKey (s.part p) p n) (.step (.launchRecord p n)) = .error s1 →
      exec (.launchRecord p n) s = .next (s1.holdBack (.launchRecord p n))) ∧
    ((s.part p).sealing.contains n = true → atHome s p (slotKey (s.part p) p n) (.step (.launchRecord p n)) = .ok s1 →
      (rejectCode s p posted = code → code ≠ 0 →
        let v := if code = 8 then listTable s1 p (posted.word 0x20) else s1
        let key := slotKey (v.part p) p n
        exec (.launchRecord p n) s =
          .next ((if v.linePoisoned key = true then v else v.writeMem (key + 0x78) 2 (word (0x8000 + code))).modPart p
            (fun q => { q with sealing := q.sealing.filter (fun m => m != n) }))) ∧
      (rejectCode s p posted = 0 → acceptDelay s p ≠ 0 →
        exec (.launchRecord p n) s = .next (s.after (acceptDelay s p) (.launchRecord p n))) ∧
      (rejectCode s p posted = 0 → acceptDelay s p = 0 → exec (.launchRecord p n) s = .next (acceptLaunch s1 p n posted))) ∧
    ((s.part p).expansion = d :: ids → (s.part p).launches.find? (fun x => x.id == d) = some l → l.dset = none →
      let zeros := l.shadows = Vector.replicate 5 0
      let free := (List.range 256).filter (fun i => i != 0 && (kget (s.part p).dsets i).isNone)
      (¬ zeros → free = [] → exec (.packetExpansion p) s = .next s) ∧
      (zeros → exec (.packetExpansion p) s = exec (.packetExpansion p) (modLaunch s p d (fun y => { y with dset := some 0 }))) ∧
      (¬ zeros → free.head? = some e →
        exec (.packetExpansion p) s = exec (.packetExpansion p) ((modLaunch s p d (fun y => { y with dset := some e })).modPart p
          (fun y => { y with dsets := kput y.dsets e l.shadows })))) ∧
    ((s.part p).expansion = d :: ids → (s.part p).launches.find? (fun x => x.id == d) = some l → l.dset = some e →
      (namedClusters (s.part p) l.clmask)[l.next % (namedClusters (s.part p) l.clmask).length]? = some k →
      (64 ≤ (queueOf s p k l.prio).length → exec (.packetExpansion p) s = .next s) ∧
      ((queueOf s p k l.prio).length < 64 →
        let y : Packet :=
          { entry := l.entry, corr := l.corr, dset := e, ctx := l.ctx, prio := l.prio, pin := l.pin, clu := k,
            args := l.args.set 3 (l.args[3] + word l.next), enq := s.tstamp, slotn := l.slot, launch := l.id }
        let v := modLaunch (setQueue s p k l.prio (queueOf s p k l.prio ++ [y])) p d (fun x => { x with next := x.next + 1 })
        let v := if l.next + 1 = l.count then v.modPart p (fun q => { q with expansion := ids }) else v
        exec (.packetExpansion p) s = .next ((v.push (.packetExpansion p)).push (.packetDispatch p k)))) ∧
    ((s.part p).serves = true → (s.part p).gang = .idle → (s.cluster p k).outOfService = false → firstQueue s p k = some (q, x, rest) →
      roomiestCore s p k = some c → freeGeneral (s.core p c).w = some sl →
      let a := allocTid (setQueue s p k q rest) p
      let sh := (kget (a.2.part p).dsets x.dset).getD (Vector.replicate 5 0)
      let t0 := Thread.start sl x.entry (Regs.fresh x.args[0] x.args[1] x.args[2] x.args[3]) a.1 x.ctx x.corr x.pin (a.2.watched p c)
        (a.2.cycle + 8)
      exec (.packetDispatch p k) s = .next (((placeThread a.2 ⟨p, c, sl⟩ { t0 with
          fa := sh[0], fb := sh[1], fc := sh[2], xa := sh[3], xb := sh[4], dset := x.dset, launch := some x.launch }
        (a.2.cycle + 8)).push (.packetDispatch p k)).push (.packetExpansion p))) ∧
    (q ≠ 0 → (s.part p).r.dspctl.getLsbD 1 = true → queueOf s p k q = x :: rest → (queueOf s p k (q - 1)).length < 64 →
      (s.tstamp < x.enq + Nat.max 1 ((s.part p).r.agei.toNat % 2 ^ 32) → exec (.packetAging p k q) s = .next s) ∧
      (x.enq + Nat.max 1 ((s.part p).r.agei.toNat % 2 ^ 32) ≤ s.tstamp →
        let v := setQueue s p k q rest
        exec (.packetAging p k q) s = .next (ageQueue p k q rest.length
          (setQueue v p k (q - 1) (queueOf v p k (q - 1) ++ [{ x with prio := q - 1, enq := s.tstamp }]))))) ∧
    ((s.part p).launches.find? (fun x => x.id == d && x.ended == x.count) = some l →
      let gone (v : State) := v.modPart p (fun q => { q with launches := q.launches.filter (fun x => x.id != d) })
      (l.done = 0 → exec (.doneWrite p d) s = .next (gone s)) ∧
      let value := word (l.seq.toNat * 2 ^ 32 + l.count)
      (l.done ≠ 0 → ctxKey s p l.ctx needW l.done = none →
        exec (.doneWrite p d) s = .next (postRecord (gone (listTable s p l.done)) p { TrapRec.none with
          code := 0x049, cls := 2, ctx := l.ctx, corr := l.corr, addr := l.done, d0 := value, d1 := word l.slot.toNat })) ∧
      (∀ key, l.done ≠ 0 → ctxKey s p l.ctx needW l.done = some key → atHome s p key (.step (.doneWrite p d)) = .ok s1 →
        exec (.doneWrite p d) s = .next (fillWord
          (windowWritten ((gone (noteWrite ((s1.sramAt p key).setStamp p (lineOf l.done) none) p l.done)).writeMem key 8 value) key 8) p key)) ∧
      (∀ key, l.done ≠ 0 → ctxKey s p l.ctx needW l.done = some key → atHome s p key (.step (.doneWrite p d)) = .error s1 →
        exec (.doneWrite p d) s = .next (s1.holdBack (.doneWrite p d)))) ∧
    (fromPeer s m.srcMod m.src.part p = false →
      let arrival : Instr := .activeMessageArrival p c m
      (messageWaits s p c arrival = true → exec arrival s = .next (s.holdBack arrival)) ∧
      (messageWaits s p c arrival = false →
        exec arrival s = .next ((s.modCoreW p c (fun w => { w with serverQ := w.serverQ ++ [m] })).push (.serverRunStart p c)))) ∧
    ((s.core p c).w.serverQ = m :: ms → kget (s.core p c).w.slots 1 = none → (s.part p).gang = .idle →
      let s0 := if msgOff (s.core p c).w = true then askUpdate s p c else s
      let a := allocTid (s0.modCoreW p c (fun w => { w with serverQ := ms })) p
      let t0 := Thread.start 1 m.pc (Regs.fresh m.y m.g1 m.g2 m.g3) a.1 m.ctx m.corr false (a.2.watched p c) (a.2.cycle + 1)
      exec (.serverRunStart p c) s = .next (placeThread a.2 ⟨p, c, 1⟩ { t0 with shownTid := m.srcTid, serves := some m } (a.2.cycle + 1))) ∧
    -- a RED that reaches its bank core, and the updates there
    (let due := ((s.events ++ s.waiting).filter (fun i => i == .remoteUpdate p c)).length
     ((redsBound s p c).length ≤ due → exec (.remoteUpdate p c) s = .next (runUpdate s p c)) ∧
     (due < (redsBound s p c).length →
       (messageWaits s p c (.remoteUpdate p c) = true →
         exec (.remoteUpdate p c) s = .next (runUpdate (s.holdBack (.remoteUpdate p c)) p c)) ∧
       (messageWaits s p c (.remoteUpdate p c) = false → (redsBound s p c).head? = some (c1, u) →
         (u ∈ (s.core p c1).w.outQ ∧ bankCore (homeSlice u.line) = c ∧
           ∀ c2 ∈ (s.part p).coreIds, ∀ u2 ∈ (s.core p c2).w.outQ, bankCore (homeSlice u2.line) = c → u.sent ≤ u2.sent) ∧
         exec (.remoteUpdate p c) s = .next (runUpdate
           ((s.modCoreW p c1 (fun w => { w with outQ := w.outQ.erase u })).modCoreW p c (fun w => { w with updateQ := w.updateQ ++ [u] }))
           p c)))) ∧
    ((v.core p c).w.updateQ = [] → runUpdate v p c = v) ∧
    (freeGeneral (v.core p c).w = none → runUpdate v p c = v) ∧
    ((v.core p c).w.updateQ = u :: us → freeGeneral (v.core p c).w = some sl →
      (heldPage v p u.key (.step (.remoteUpdate p c)) = some s1 → runUpdate v p c = s1) ∧
      (heldPage v p u.key (.step (.remoteUpdate p c)) = none →
        let v0 := heldPassed v p u.key (.step (.remoteUpdate p c))
        let v1 := performUpdate (v0.modCoreW p c (fun w => { w with updateQ := us })) p c sl u
        runUpdate v p c = if us = [] then v1 else askUpdate v1 p c)) ∧
    ((s.core p c).c.syshQ = addr :: as_ → kget (s.core p c).w.slots 0 = none → (s.part p).gang = .idle → (s.core p c).c.sysh ≠ 0 →
      let v := s.modCoreC p c (fun k => { k with syshQ := as_ })
      let a := allocTid v p
      let t0 := Thread.start 0 ((s.core p c).c.sysh &&& ~~~3) (Regs.fresh addr 0 0 0) a.1 0 0 false (v.watched p c) (v.cycle + 1)
      exec (.syshRun p c) s = .next (placeThread a.2 ⟨p, c, 0⟩ { t0 with sysh := true } (v.cycle + 1)))

/-! ## Steps of the steep protocol and of the caches (12, 13) -/

/-- R218 to R231: the messages of the steep protocol. An ADDM on a line that its core does not hold asks for a share; one that its share
covers is added to the holder's partials, after a pour of what is left of the colour before the last cut; another pours first, or goes to
the home; the home grants shares, takes pours, forced pours, returns and single additions by their colour, keeps back its acknowledgements
while it revokes a holder, and answers a bounded load once every holder that it forced has answered. An ADDM that its home must serve counts
once as an access of its thread (R140).
The model's choices of log entries 26 and 70 are part of it. -/
def Obligations.SteepSteps : Prop :=
  ∀ (s s1 : State) (p : PartId) (h v : CoreId) (line dom off : Nat) (q : AddmReq) (qs : List AddmReq) (k : Holder) (x : SteepHome)
    (data : BitVec 1024) (g share : BitVec 32) (colour more : Bool) (a : Word) (l : BoundedReq),
    ((s.core p h).w.steepQ = q :: qs →
      (q.phase ≠ 0 → exec (.addmPerform p h) s = .next s) ∧
      (q.phase = 0 → s.holder p h q.line = none →
        exec (.addmPerform p h) s =
          .next ((modHead (countAddm (s.loseCopy p h q.line) p h q) p h (fun q => { q with phase := 1 })).push (.sreq p h q.line q.dom))) ∧
      (q.phase = 0 → s.holder p h q.line = some k → k.colour ≠ steepColour s p → k.g ≠ 0 →
        exec (.addmPerform p h) s = .next (modHead (pourHolder s p h q.line false) p h (fun q => { q with phase := 2 }))) ∧
      (q.phase = 0 → s.holder p h q.line = some k → (k.colour = steepColour s p ∨ k.g = 0) →
        let s1 := s.modHolder p h q.line (fun h => { h with colour := steepColour s p })
        let m := addendMag q.fmt q.a
        let s2 := s1.modHolder p h q.line (fun h => { h with
          p := elemSet q.fmt h.p q.off (elemAdd q.fmt (elemAt q.fmt h.p q.off) (q.a.toNat % 2 ^ (8 * elemBytes q.fmt))),
          g := addUp [k.g, m] })
        (magLe (addUp [k.f, k.g, m]) k.share = true → (addUp [k.g, m] ≠ k.share ∨ addUp [k.g, m] = 0) →
          exec (.addmPerform p h) s = .next (nextAddm s2 p h)) ∧
        (magLe (addUp [k.f, k.g, m]) k.share = true → addUp [k.g, m] = k.share → addUp [k.g, m] ≠ 0 →
          exec (.addmPerform p h) s = .next (nextAddm (pourHolder s2 p h q.line (bit (s.part p).r.steepctl 1)) p h)) ∧
        (magLe (addUp [k.f, k.g, m]) k.share = false → k.f ≠ 0 →
          exec (.addmPerform p h) s = .next (modHead s1 p h (fun q => { q with phase := 2 }))) ∧
        (magLe (addUp [k.f, k.g, m]) k.share = false → k.f = 0 → k.g ≠ 0 →
          exec (.addmPerform p h) s = .next (modHead (pourHolder s1 p h q.line false) p h (fun q => { q with phase := 2 }))) ∧
        (magLe (addUp [k.f, k.g, m]) k.share = false → k.f = 0 → k.g = 0 →
          exec (.addmPerform p h) s =
            .next ((modHead (countAddm s1 p h q) p h (fun q => { q with phase := 3 })).push (.tadd p h q.line q.dom q.off q.a)))) ∧
      (q.counted = true → countAddm s p h q = s) ∧
      (q.counted = false →
        let s0 := modHead s p h (fun q => { q with counted := true })
        let found := (slotThreads p h (s0.core p h).w.slots).find? (fun e => e.2.tid == q.tid)
        (found = none → countAddm s p h q = s0) ∧
        (∀ r t, found = some (r, t) → t.migrate.isSome = true → countAddm s p h q = s0.countHome r (homeSlice q.line).val)) ∧
      exec (.tack p h line dom) s = .next (if q.line = line ∧ q.phase = 3 then nextAddm s p h else s)) ∧
    (s.holder p h line = some k →
      pourHolder s p h line more =
        (s.modHolder p h line (fun k => { k with f := addUp [k.f, k.g], g := 0, p := 0 })).push
          (.pourMessage p h line k.dom k.p k.g k.colour more)) ∧
    (steepReady s p h line dom = none →
      exec (.sreq p h line dom) s = .next (s.holdBack (.sreq p h line dom)) ∧
      exec (.tadd p h line dom off a) s = .next (s.holdBack (.tadd p h line dom off a))) ∧
    (steepReady s p h line dom = some s1 → s1.steepHome p line = some x →
      ((x.load.isSome = true ∨ x.revoking.isSome = true) →
        exec (.sreq p h line dom) s =
          .next (s1.modHome p line (fun x => { x with deferred := x.deferred ++ [.sreq p h line dom] }))) ∧
      (x.load = none → x.revoking = none → victimOf s1 p x = some v →
        exec (.sreq p h line dom) s =
          .next ((s1.modHome p line (fun x => { x with
            revoking := some v, deferred := .sreq p h line dom :: x.deferred })).push (.srev p v line dom))) ∧
      (x.load = none → x.revoking = none → victimOf s1 p x = none →
        let gr := if steepOn s1 p then magMin x.u (magMax (limitField (s1.part p).r.steepq) (halfDown x.u)) else 0
        exec (.sreq p h line dom) s =
          .next (((s1.invalidateAll p line none).modHome p line (fun y => { y with
            u := subDown y.u gr, shares := y.shares.filter (fun e => e.1 != h) ++ [(h, gr)] })).push (.sgnt p h line dom gr))) ∧
      (let s2 := s1.homeAdd p h line (steepColour s1 p) (elemSet x.fmt 0 off (a.toNat % 2 ^ (8 * elemBytes x.fmt)))
       (x.revoking = none → exec (.tadd p h line dom off a) s = .next (s2.push (.tack p h line dom))) ∧
       (x.revoking.isSome = true →
         exec (.tadd p h line dom off a) s =
           .next (s2.modHome p line (fun x => { x with deferred := x.deferred ++ [.tack p h line dom] }))))) ∧
    (s.steepHome p line = some x →
      let s1 := l1Room (s.loseCopy p h line) p h line
      let y : Holder :=
        { line := line, dom := x.dom, key := x.key, fmt := x.fmt, p := 0, g := 0, f := 0, share := share, colour := steepColour s1 p }
      exec (.sgnt p h line dom share) s = .next (resumeHead (s1.modCoreC p h (fun k => { k with
        holders := y :: k.holders.filter (fun z => z.line != line) })) p h line 1)) ∧
    (let s1 := (steepReady s p h line dom).getD s
     s1.steepHome p line = some x →
      let s2 := s1.homeAdd p h line colour data
      let gr := moreShare s2 p { x with buf := bufAdd x.fmt x.buf h colour data } h more
      let s3 := s2.modHome p line (fun x => { x with
        u := subDown x.u gr, shares := x.shares.map (fun e => if e.1 = h then (h, addDown e.2 gr) else e) })
      (x.revoking = none → exec (.pourMessage p h line dom data g colour more) s = .next (s3.push (.pack p h line dom gr))) ∧
      (x.revoking.isSome = true →
        exec (.pourMessage p h line dom data g colour more) s =
          .next (s3.modHome p line (fun x => { x with deferred := x.deferred ++ [.pack p h line dom gr] }))) ∧
      exec (.fpd p h line dom data g colour) s = .next (answered s2 p h line) ∧
      exec (.sret p h line dom data g colour share) s =
        .next (answered ((s2.combine p line).returnShare p h line share) p h line)) ∧
    (pourInFlight s p h line = false →
      exec (.pack p h line dom share) s =
        .next (resumeHead (s.modHolder p h line (fun x => { x with f := 0, share := addDown x.share share })) p h line 2)) ∧
    (pourInFlight s p h line = true →
      exec (.pack p h line dom share) s =
        .next (resumeHead (s.modHolder p h line (fun x => { x with share := addDown x.share share })) p h line 2)) ∧
    (s.holder p h line = some k →
      exec (.fpr p h line dom) s =
        .next ((s.modHolder p h line (fun x => { x with p := 0, g := 0 })).push (.fpd p h line dom k.p k.g k.colour)) ∧
      exec (.srev p h line dom) s = .next ((s.dropHolder p h line).push (.sret p h line dom k.p k.g k.colour k.share)) ∧
      (k.colour = steepColour s p → exec (.colourPour p h line) s = .next s) ∧
      (k.colour ≠ steepColour s p → k.g = 0 →
        exec (.colourPour p h line) s = .next (s.modHolder p h line (fun x => { x with colour := steepColour s p }))) ∧
      (k.colour ≠ steepColour s p → k.g ≠ 0 →
        exec (.colourPour p h line) s =
          .next ((pourHolder s p h line false).modHolder p h line (fun x => { x with colour := steepColour s p })))) ∧
    (s.holder p h line = none →
      exec (.fpr p h line dom) s = .next (s.push (.fpd p h line dom 0 0 (steepColour s p))) ∧
      (sretInFlight s p h line = true → exec (.srev p h line dom) s = .next s) ∧
      (sretInFlight s p h line = false → exec (.srev p h line dom) s = .next (answered (s.surrender p h line) p h line))) ∧
    (s.steepHome p l.line = none →
      exec (.boundedLoad p l) s = .next (replyThread s l.who l.tid (some (word (elemAt l.fmt (s.readLine l.key) l.off))))) ∧
    (s.steepHome p l.line = some x → x.load.isSome = true ∨ x.revoking.isSome = true →
      exec (.boundedLoad p l) s = .next (s.modHome p l.line (fun x => { x with deferred := x.deferred ++ [.boundedLoad p l] }))) ∧
    (s.steepHome p l.line = some x → x.load = none → x.revoking = none →
      let hs := forceList (x.shares.length + 1) x.shares (addUp (x.shares.map (fun e => e.2))) l.tol
      let s1 := s.modHome p l.line (fun x => { x with load := some l, forcing := hs })
      (hs = [] → exec (.boundedLoad p l) s = .next ((s1.answerLoad p l.line).releaseHome p l.line)) ∧
      (hs ≠ [] → exec (.boundedLoad p l) s = .next (s1.pushAll (hs.map (fun h => .fpr p h l.line x.dom))))) ∧
    exec (.steepDisable p) s =
      .next ((s.modPart p (fun q => { q with r := { q.r with steepctl := q.r.steepctl &&& ~~~(1 : Word) } })).revokeEvery p)

/-- R197 to R214: the steps of the caches and walkers. A read forwarded to a copy takes M to O and E to S; an invalidated or evicted copy is
gone, its dirty sectors at the home, which no longer counts the core among the sharers; a holder's line leaves with its partials and its
share at the home; a slice evicts only what it may, and of a dirty line in whose way an armed injection fires the data are lost; GetS
supplies a copy, in E where no other holds the line, else in S, and releases the endpoint's sectors; GetM leaves no copy but the writer's,
in M; neither does anything but the lookup where the lookup does not end with the line; a walk's leaf enters the slice's translation cache;
a poisoned table is listed, a fatal record posted where the list is full, and PTCLR clears an entry; an uncorrectable error of a dirty slice
line poisons it with a record, that of a clean one moves it to another way, or drops it where there is none and no stamp keeps it; a faulty sector's line is pinned in a locked way, or its page is retired where two ways of the set are locked.
The model's choices of log entries 22, 23, 24, 51 and 79 are part of it. -/
def Obligations.CacheSteps : Prop :=
  ∀ (s s1 : State) (p : PartId) (c : CoreId) (line : Nat) (x : L1Line) (y z : SliceLine) (k : Holder) (l : Leaf) (w : Walked) (va : Word)
    (dom frame level way : Nat) (f32 corr : BitVec 32) (sec : Fin 2) (miss : Bool),
    (s.l1 p c line = some x →
      let u := s.forwardRead p c line
      (∃ z, u.l1 p c line = some z ∧ u.mem = s.mem ∧
        z = { x with st := match x.st with
          | .m => .o
          | .e => .s
          | .o => .o
          | .s => .s }) ∧
      (errFires u p line 3 = false → exec (.forwardedRead p c line) s = .next u) ∧
      (errFires u p line 3 = true → exec (.forwardedRead p c line) s = .next (l2Error (disarm u p) p line 0))) ∧
    (∀ i ∈ ([.invalidation p c line] ++ (if s.holder p c line = none then [.l1Eviction p c line] else []) : List Instr),
      ∃ s2, exec i s = .next s2 ∧ s2.l1 p c line = none ∧ s2.mem = s.mem ∧
        (s.sl p line = some y →
          s2.sl p line = some { y with
            dirty := y.dirty || (match s.l1 p c line with
              | some x => x.dirty != 0
              | none => false),
            sharers := y.sharers.filter (fun x => x != c) })) ∧
    (let u := s.absorb p line
     s.holder p c line ≠ none → u.holder p c line = some k →
      exec (.l1Eviction p c line) s = .next (answered ((((u.dropHolder p c line).homeAdd p c line k.colour k.p).combine p line).returnShare p c
        line k.share) p c line)) ∧
    (s.sl p line = none → exec (.sliceEviction p line) s = .next s ∧ exec (.l2Uncorrectable p line corr) s = .next s) ∧
    (s.sl p line = some y →
      let u := (s.revokeAll p line).invalidateAll p line none
      (s.evictable p y = false → exec (.sliceEviction p line) s = .next s) ∧
      (s.evictable p y = true → u.sl p line = some z → (z.dirty && errFires u p line 3) = false →
        exec (.sliceEviction p line) s = .next (u.dropSl p line)) ∧
      (s.evictable p y = true → u.sl p line = some z → (z.dirty && errFires u p line 3) = true →
        exec (.sliceEviction p line) s = .next (loseLine (quarantine (disarm u p) p z) p z 0))) ∧
    (homeLookup s p line dom = .ok miss s1 →
      (let u := if miss then s1 else homeRead s1 p line 3 0
       (u.sl p line = none → exec (.getS p c line dom) s = .next u) ∧
       (u.sl p line = some y →
         let others := (u.copies p line).filter (fun x => x != c)
         let u1 := (others.foldl (fun s x => s.forwardRead p x line) u).modSl p line (fun l => { l with
           endpoint := 0, sharers := c :: l.sharers.filter (fun x => x != c) })
         (u1.l1 p c line = none →
           exec (.getS p c line dom) s = .next (l1Install u1 p c
             { line := line, st := if others.isEmpty then .e else .s, valid := 3, dirty := 0, dom := y.dom, key := y.key,
               stamp := y.stamp, old := 0 })) ∧
         (u1.l1 p c line = some x → exec (.getS p c line dom) s = .next (u1.modL1 p c line (fun x => { x with valid := 3 }))))) ∧
      (let r := s1.revokeAll p line
       let got : BitVec 2 := match r.l1 p c line, r.sl p line with
         | none, some l => 3 &&& ~~~(l.endpoint &&& ~~~sectorBit sec)
         | _, _ => sectorBit sec
       let u := if miss then r else homeRead r p line got 0
       (u.sl p line = none → exec (.getM p c line dom sec) s = .next u) ∧
       (u.sl p line = some y →
         let alone := u.invalidateAll p line (some c)
         let ep := y.endpoint &&& ~~~sectorBit sec
         let u1 := alone.modSl p line (fun l => { l with endpoint := ep, sharers := [c] })
         (∀ c1 ∈ alone.copies p line, c1 = c) ∧
         (u1.l1 p c line = none →
           exec (.getM p c line dom sec) s = .next (l1Install u1 p c
             { line := line, st := .m, valid := 3 &&& ~~~ep, dirty := 0, dom := y.dom, key := y.key, stamp := y.stamp, old := 0 })) ∧
         (u1.l1 p c line = some x →
           exec (.getM p c line dom sec) s =
             .next (u1.modL1 p c line (fun x => { x with st := .m, valid := (x.valid ||| sectorBit sec) &&& ~~~ep })))))) ∧
    ((homeLookup s p line dom = .stale s1 ∨ homeLookup s p line dom = .full s1) →
      exec (.getS p c line dom) s = .next s1 ∧ exec (.getM p c line dom sec) s = .next s1) ∧
    (homeLookup s p line dom = .fault w s1 →
      let listed : State := match w with
        | .poisoned _ f =>
          if nmem (s1.part p).badTables f then s1
          else if (s1.part p).badTables.length < 64 then s1.modPart p (fun q => { q with badTables := nput q.badTables f })
          else postRecord s1 p { TrapRec.none with code := 0x042, cls := 1, addr := lineAddr line, d0 := word (2 ^ 16 * f) }
        | _ => s1
      exec (.getS p c line dom) s = .next listed ∧ exec (.getM p c line dom sec) s = .next listed) ∧
    (let cache := (kget (s.part p).tcache (homeSlice (lineOf va)).val).getD []
     (cache.find? (fun l => l.covers (va57 va)) = some l → exec (.walk p va) s = .next s) ∧
     (cache.find? (fun l => l.covers (va57 va)) = none →
      (walkPage s p va = .leaf l →
        exec (.walk p va) s = .next (s.modPart p (fun q => { q with
          tcache := kput q.tcache (homeSlice (lineOf va)).val ((l :: cache).take 512) }))) ∧
      (walkPage s p va = .poisoned level frame →
        (nmem (s.part p).badTables frame = true → exec (.walk p va) s = .next s) ∧
        (nmem (s.part p).badTables frame = false → (s.part p).badTables.length < 64 →
          exec (.walk p va) s = .next (s.modPart p (fun q => { q with badTables := nput q.badTables frame }))) ∧
        (nmem (s.part p).badTables frame = false → 64 ≤ (s.part p).badTables.length →
          exec (.walk p va) s = .next (postRecord s p { TrapRec.none with
            code := 0x042, cls := 1, addr := va, d0 := word (2 ^ 16 * frame) }))) ∧
      ((walkPage s p va = .page level ∨ walkPage s p va = .format level ∨ walkPage s p va = .retired l) →
        exec (.walk p va) s = .next s))) ∧
    exec (.ptclrWrite p f32) s = .next (s.modPart p (fun q => { q with badTables := ndel q.badTables f32.toNat })) ∧
    (s.sl p line = some y →
      (y.dirty = true →
        let u := quarantine s p y
        let v := (((u.revokeAll p line).invalidateAll p line none).dropSl p line).poisonLine y.key
        ∃ rec_, exec (.l2Uncorrectable p line corr) s = .next (postRecord v p rec_) ∧ rec_.code = 0x040 ∧ rec_.cls = 1 ∧
          rec_.corr = corr ∧ rec_.addr = lineAddr line) ∧
      (y.dirty = false →
        let u := (quarantine s p y).modPart p (fun q => { q with corrected := q.corrected + 1 })
        (chooseWay u p line = some (way, s1) →
          exec (.l2Uncorrectable p line corr) s = .next (s1.modSl p line (fun l => { l with way := way, pinned := false }))) ∧
        (chooseWay u p line = none → u.unstamped p y = true → exec (.l2Uncorrectable p line corr) s = .next (sliceEvict u p line)) ∧
        (chooseWay u p line = none → u.unstamped p y = false → exec (.l2Uncorrectable p line corr) s = .next u))) ∧
    (lineStands s p line = none → exec (.sectorPin p line true) s = .next s ∧ exec (.sectorPin p line false) s = .next s) ∧
    (lineStands s p line = some y →
      exec (.sectorPin p line false) s = .next (moduleError s p (y.key % 2 ^ 48)) ∧
      (((s.part p).r.memctl.getLsbD 0 = false ∨ (pinnedWay (s.part p) y.line y.key).isSome = true) →
        exec (.sectorPin p line true) s = .next s) ∧
      ((s.part p).r.memctl.getLsbD 0 = true → pinnedWay (s.part p) y.line y.key = none →
        (lockedWays (s.part p) y.line < 2 → s.sl p line = some y →
          exec (.sectorPin p line true) s = .next ((s.lockWay p { set := setKey y.line, way := y.way, key := some y.key }).modSl p y.line
            (fun l => { l with pinned := true }))) ∧
        (2 ≤ lockedWays (s.part p) y.line → exec (.sectorPin p line true) s = .next (retirePage s p y))))

/-! ## Steps of the engines (17, 18) -/

/-- R69, R78, R80, R212, R265 to R283, R298, R300: the engines' steps. The copy unit serves the cores of its cluster in turn, once the banks
that the beat needs have served it: a beat's bytes are those of its source, and each word that gets its last byte becomes full; a beat whose
source cannot be read writes nothing, and CPYST says why; a finished copy at the head of its queue completes. The matrix engine picks a ready
head in turn while it neither runs a job nor stores a slot; a group adds to each cell of the job what its semiring makes of the products of
its elements, and leaves the other cells; a poisoned element poisons the slot; slots are zeroed and stored once the core's earlier jobs are
complete, and jobs complete when they are due, with the record of a checksum that does not match; ACCRCL reclaims idle slots at once.
The model's choices are part of it: log entries 28 (the banks' queues), 44 (an idle slot that ACCRCL names), 45 (the turns of MXZ and MXST),
46 (the least of zeros of both signs), 48 (the beats of a copy), 49 (the word that a copy closes), 75 (the fields of a record), 87 (padding). -/
def Obligations.EngineSteps : Prop :=
  ∀ (s s1 : State) (p : PartId) (k : ClusterId) (c : CoreId) (j : CopyJob) (js : List CopyJob) (m : MxJob) (x : MxRun) (xs : List MxRun)
    (slots : BitVec 16) (slot tid : Nat) (corr : BitVec 32) (ctx : BitVec 8) (va : Word) (pages : List Leaf)
    (y : Word) (b : List Byte) (key lat due total n why : Nat) (l : Leaf) (s2 : State) (as_ bs_ : List (List Elem)) (o : Operand)
    (first neg : Bool) (tile row col depth : Nat),
    let w := (s.cluster p k).w
    -- the turns of the copy unit
    (w.copyDue = some (c, due) →
      let v := s.modClusterW p k (fun w => { w with copyDue := none })
      (s.cycle < due → exec (.copyBeat p k) s = .next s) ∧
      (due ≤ s.cycle → copyReady v p c = some j → exec (.copyBeat p k) s = .next (moveBeat v p c j)) ∧
      (due ≤ s.cycle → copyReady v p c = none → exec (.copyBeat p k) s = .next v)) ∧
    (w.copyDue = none →
      ((roundRobin k w.copyLast).find? (fun c => (copyReady s p c).isSome) = none → exec (.copyBeat p k) s = .next s) ∧
      ((roundRobin k w.copyLast).find? (fun c => (copyReady s p c).isSome) = some c → copyReady s p c = some j →
        let banks := beatBanks s p c j
        let n := bankWait w banks
        let v := s.modClusterW p k (fun w => { joinBanks w banks s.cycle with
          copyLast := c.val % 8, copyDue := if n = 0 then none else some (c, s.cycle + n) })
        exec (.copyBeat p k) s = .next (if n = 0 then moveBeat v p c j else v))) ∧
    -- the bytes of one line, or of a window, read and written
    (inWindowRegion y = true → windowKey p c y = some (key, lat) →
      (windowPoisoned s (key / 8 * 8) (key % 8 + n) = false → ∀ lf, readChunk s p c j lf y n = .ok (memBytes s.mem key n) (s.sramAt p key)) ∧
      (windowPoisoned s (key / 8 * 8) (key % 8 + n) = true → ∀ lf, readChunk s p c j lf y n = .fail 1 s) ∧
      (MemoryCanonical s → ∃ u, writeChunk s p c j y b = .ok b u ∧ u.fe = s.fe ∧
        ∀ a, u.byte a = if key ≤ a ∧ a < key + b.length then b.getD (a - key) 0 else s.byte a)) ∧
    (inWindowRegion y = false →
      let key := keyMain p (l.phys (va57 y))
      (reachRead s p l (va57 y) n j.corr = .ok s1 → readChunk s p c j (some l) y n = .ok (memBytes s1.mem key n) s1) ∧
      (reachRead s p l (va57 y) n j.corr = .poisoned s1 →
        readChunk s p c j (some l) y n = .fail (if s.linePoisoned key then 2 else 1) s1) ∧
      (reachRead s p l (va57 y) n j.corr = .held s1 → readChunk s p c j (some l) y n = .later s1) ∧
      (jobLeaf j y = some l →
        (reachWrite s p l (va57 y) (.copy c j.seq) = .poisoned s1 → writeChunk s p c j y b = .fail 5 s1) ∧
        (reachWrite s p l (va57 y) (.copy c j.seq) = .held s1 → writeChunk s p c j y b = .later s1) ∧
        (reachWrite s p l (va57 y) (.copy c j.seq) = .ok s1 → MemoryCanonical s1 → ∃ u, writeChunk s p c j y b = .ok b u ∧ u.fe = s1.fe ∧
          ∀ a, u.byte a = if key ≤ a ∧ a < key + b.length then b.getD (a - key) 0 else s1.byte a))) ∧
    -- a beat of a copy within a line on both sides
    (j.form = .lin total → j.placed = [] → n = Nat.min 64 (total - j.pos) → 0 < n →
      let from_ := j.src + word j.pos
      let to_ := j.dst + word j.pos
      from_.toNat % 128 + n ≤ 128 → to_.toNat % 128 + n ≤ 128 → inRemoteRegion from_ = false → inRemoteRegion to_ = false →
      let u := moveBeat s p c j
      let last := decide (total ≤ j.pos + n)
      (readChunk s p c j (jobLeaf j from_) from_ n = .later s1 → u = s1) ∧
      (readChunk s p c j (jobLeaf j from_) from_ n = .fail why s1 → (s1.core p c).w.copyQ = j :: js →
        u.mem = s1.mem ∧ u.fe = s1.fe ∧
        ((s1.core p c).w.cpyst.getLsbD 63 = false →
          (u.core p c).w.cpyst = word (2 ^ 63 + why * 2 ^ 32) ||| word (c.val * 2 ^ 22 + j.seq % 2 ^ 21)) ∧
        ∃ z, (u.core p c).w.copyQ.head? = some z ∧ z.pos = j.pos + n ∧ z.finished = last ∧ z.stream = none) ∧
      (readChunk s p c j (jobLeaf j from_) from_ n = .ok b s1 → writeChunk s1 p c j to_ b = .ok b s2 → b.length = n →
        (s2.core p c).w.copyQ = j :: js → to_.toNat % 8 = 0 → (n % 8 = 0 ∨ last = true) →
        u.mem = s2.mem ∧
        (∀ a, u.fullBit a = (s2.fullBit a || (List.range ((n + 7) / 8)).any (fun i => (dstKey p c j (to_ + word (8 * i))).any (fun k => k / 8 == a / 8)))) ∧
        (u.core p c).w.copyQ.head? = some { j with pos := j.pos + n, finished := last } ∧
        ∀ r i z, jobStream s2 p c j = some (r, i, z) →
          ∃ t, u.thread r = some t ∧ t.streams[i] = { z with buf := z.buf ++ b, ended := z.ended || last })) ∧
    ((s.core p c).w.copyQ = j :: js →
      (j.finished = true →
        exec (.copyComplete p c) s = .next (s.modCoreW p c (fun w => { w with copyQ := js, copyDone := (j.seq + 1) % 2 ^ 21 }))) ∧
      (j.finished = false → exec (.copyComplete p c) s = .next s)) ∧
    ((w.run ≠ none ∨ w.storing ≠ none) → exec (.matrixJobPick p k) s = .next s) ∧
    (w.run = none → w.storing = none → nextCore s p k = some c →
      let s1 := s.modClusterW p k (fun w => { w with mxLast := c.val % 8 })
      let i := 2 * (c.val % 8) + slot % 2
      (mxHead s p k c = some (.job m) →
        let r := startRun s p k c m
        ((s.acc p k (2 * (c.val % 8) + m.slot % 2)).poisoned = true →
          exec (.matrixJobPick p k) s = .next (s1.modClusterW p k (fun w => { w with run := none, drain := w.drain ++ [r] }))) ∧
        ((s.acc p k (2 * (c.val % 8) + m.slot % 2)).poisoned = false →
          exec (.matrixJobPick p k) s = .next (s1.modClusterW p k (fun w => { w with run := some r })))) ∧
      (mxHead s p k c = some (.zero slot tid corr) → w.drain.any (fun x => x.core == c) = false →
        exec (.matrixJobPick p k) s = .next (entryDone (dropEntry
          (s1.modAcc p k i (fun a => if a.poisoned then { a with disc := true } else { a with cells := [] })) p c
          (.zero slot tid corr)) p k c i)) ∧
      (mxHead s p k c = some (.store slot tid corr ctx va pages) → w.drain.any (fun x => x.core == c) = false →
        exec (.matrixJobPick p k) s =
          .next ((s.modClusterW p k (fun w => { w with mxLast := c.val % 8, storing := some c })).push (.mxstExecute p k))) ∧
      ((mxHead s p k c = some (.zero slot tid corr) ∨ mxHead s p k c = some (.store slot tid corr ctx va pages)) →
        w.drain.any (fun x => x.core == c) = true → exec (.matrixJobPick p k) s = .next s)) ∧
    (w.run = some x →
      let ks := groupIndices x.job x.group
      let as := groupA s p k x ks
      let bs := groupB s p k x ks
      let banks := groupBanks x ks
      let v := s.modClusterW p k (fun w => { w with bankEng := banks })
      let poisons (s : State) : State := (postRecord
        (s.modAcc p k (2 * (x.core.val % 8) + x.job.slot % 2) (fun a => { a with poisoned := true })) p { TrapRec.none with
          code := 0x046, cls := 2, ctx := x.job.ctx, core := x.core.val, tid := x.job.tid, corr := x.job.corr,
          d0 := jobId true x.core x.job.slot x.job.seq, d1 := word x.group }).modClusterW p k (fun w => { w with
        run := none, drain := w.drain ++ [{ x with disc := true, chk := 3, due := s.cycle }] })
      exec (.matrixPoison p k) s = .next (poisons s) ∧
      (banks.any (bankOverdue s p k) = true → exec (.matrixGroup p k) s = .next s) ∧
      (banks.any (bankOverdue s p k) = false → (as.flatten ++ bs.flatten).any (fun e => e.poisoned) = true →
        exec (.matrixGroup p k) s = .next (poisons v)) ∧
      (banks.any (bankOverdue s p k) = false → (as.flatten ++ bs.flatten).any (fun e => e.poisoned) = false →
        exec (.matrixGroup p k) s = .next (enterGroup v p k x as bs))) ∧
    -- what a group adds to the cells, and the elements it reads
    (let i := 2 * (x.core.val % 8) + x.job.slot % 2
     let cells := (s.acc p k i).cells
     let u := enterGroup s p k x as_ bs_
     (cells.map (fun e => e.1)).Pairwise (· < ·) → x.job.a.shape.rows ≤ 64 → x.job.b.shape.cols ≤ 64 →
      (∀ r q, r < 64 → q < 64 →
        let old := (kget cells (64 * r + q)).getD 0
        let new := (kget (u.acc p k i).cells (64 * r + q)).getD 0
        let c : BitVec 32 := if x.group = 0 ∧ x.job.az = true then (match x.job.sr with
          | .plusTimes | .orAnd => 0
          | .minPlus => 0x7F800000
          | .maxPlus | .maxTimes => 0xFF800000) else old
        let pairs := ((as_[r]?.getD []).zip (bs_[q]?.getD [])).map (fun e => (e.1.v, e.2.v))
        let terms (f : FVal × FVal → FVal) : List FVal := Fmt.f32.val c.toNat :: pairs.map f
        let best (greatest : Bool) (l : List FVal) : Prop :=
          (l.any FVal.isNan = true → new = 0x7FC00000) ∧
          (l.any FVal.isNan = false → ∃ v ∈ l, new = BitVec.ofNat 32 (Fmt.f32.deliver v).bits ∧
            ∀ y ∈ l, (if greatest then valLt v y else valLt y v) = false ∧ (v.isZero → y.isZero → y.sign = !greatest → v.sign = !greatest))
        (¬ (r < x.job.a.shape.rows ∧ q < x.job.b.shape.cols) → new = old) ∧
        (r < x.job.a.shape.rows → q < x.job.b.shape.cols → match x.job.sr with
          | .plusTimes => new = BitVec.ofNat 32 (Fmt.f32.deliver (sumVal (terms (fun e => mulVal e.1 e.2)))).bits
          | .minPlus => best false (terms (fun e => sumVal [e.1, e.2]))
          | .maxPlus => best true (terms (fun e => sumVal [e.1, e.2]))
          | .maxTimes => best true (terms (fun e => mulVal e.1 e.2))
          | .orAnd => new = if (Fmt.f32.val c.toNat).isZero = false ∨ pairs.any (fun e => !e.1.isZero && !e.2.isZero) = true
              then 0x3F800000 else 0)) ∧
      (x.group + 1 < x.job.groups → ∃ z, (u.cluster p k).w.run = some z ∧ z.job = x.job ∧ z.group = x.group + 1) ∧
      (x.job.groups ≤ x.group + 1 → (u.cluster p k).w.run = none ∧
        ∃ z, (u.cluster p k).w.drain = w.drain ++ [z] ∧ z.job = x.job ∧ z.due = s.cycle + 32)) ∧
    (o.fmt.container ≠ 4 →
      let bytes := (o.fmt.container + 7) / 8
      let at_ := keyScratch p k (o.shape.base + tile * o.shape.tstr + row * o.shape.rstr + col * o.shape.estr * o.fmt.container / 8)
      let v := if neg then (o.fmt.val (memRead s.mem at_ bytes)).neg else o.fmt.val (memRead s.mem at_ bytes)
      let e := readElem s p k o first neg tile row col depth
      (o.scale = none → e = { v := v, malformed := false, poisoned := s.wordPoisoned at_ }) ∧
      (∀ z, o.scale = some z →
        let nb := (depth + 31) / 32
        let off := z.toNat - 0xFF00000000400000 + tile * 64 * nb + if first then row * nb + col / 32 else row / 32 * 64 + col
        let scale := (s.byte (keyScratch p k off)).toNat
        e.v = mulVal v (scaleVal scale).1 ∧ e.poisoned = (s.wordPoisoned at_ || s.wordPoisoned (keyScratch p k off)) ∧
        (scale < 127 → (scaleVal scale).1.rat =
            (let m : ℕ := scale % 8
             if scale / 8 = 0 then (m : ℚ) / 8 * 2 ^ (-6 : ℤ) else (1 + (m : ℚ) / 8) * 2 ^ (((scale / 8 : ℕ) : ℤ) - 7)) ∧
          e.malformed = false))) ∧
    (nextCore s p k = some c → mxHead s p k c = some (.job m) →
      popsOwed w m.a.ring + 1 ≤ w.rings[m.a.ring].count ∧ popsOwed w m.b.ring + 1 ≤ w.rings[m.b.ring].count) ∧
    (w.run = none → exec (.matrixPoison p k) s = .next s ∧ exec (.matrixGroup p k) s = .next s) ∧
    (w.drain = x :: xs →
      (s.cycle < x.due → exec (.matrixJobComplete p k) s = .next s) ∧
      (x.due ≤ s.cycle →
        let i := 2 * (x.core.val % 8) + x.job.slot % 2
        let s1 := popRings (s.modClusterW p k (fun w => { w with drain := xs })) p k x
        let s2 := s1.modAcc p k i (fun a => { a with
          malf := x.malformed, disc := x.disc, chk := x.chk, mism := a.mism || x.chk == 2, unch := a.unch || x.chk == 1 })
        let ended (s : State) : State := entryDone
          ((dropEntry s p x.core (.job x.job)).modCoreW p x.core (fun w => { w with mxDone := (x.job.seq + 1) % 2 ^ 21 })) p k x.core i
        (x.chk ≠ 1 → x.chk ≠ 2 → exec (.matrixJobComplete p k) s = .next (ended s2)) ∧
        (x.chk = 1 →
          exec (.matrixJobComplete p k) s = .next (ended (s2.hwSet p x.core (.accst (Fin.ofNat 2 x.job.slot)) 0))) ∧
        (x.chk = 2 →
          exec (.matrixJobComplete p k) s =
            .next (ended (postRecord (s2.hwSet p x.core (.accst (Fin.ofNat 2 x.job.slot)) 1) p { TrapRec.none with
              code := 0x043, cls := 2, ctx := x.job.ctx, core := x.core.val, tid := x.job.tid, corr := x.job.corr,
              d0 := jobId true x.core x.job.slot x.job.seq, d1 := word x.column }))))) ∧
    (w.drain = [] → exec (.matrixJobComplete p k) s = .next s) ∧
    (w.storing = none → exec (.mxstExecute p k) s = .next s) ∧
    (w.storing = some c → mxHead s p k c = some (.store slot tid corr ctx va pages) →
      let i := 2 * (c.val % 8) + slot % 2
      let stored (s : State) : State := entryDone
        ((dropEntry s p c (.store slot tid corr ctx va pages)).modClusterW p k (fun w => { w with storing := none })) p k c i
      (pages.findSome? (fun l => pageWait s p l (.step (.mxstExecute p k))) = some s1 →
        exec (.mxstExecute p k) s = .next (s1.holdBack (.mxstExecute p k))) ∧
      (pages.findSome? (fun l => pageWait s p l (.step (.mxstExecute p k))) = none → (s.acc p k i).poisoned = false →
        exec (.mxstExecute p k) s =
          .next (stored (storeSlot s p c (.step (.mxstExecute p k)) va pages (s.acc p k i).cells corr ctx))) ∧
      (pages.findSome? (fun l => pageWait s p l (.step (.mxstExecute p k))) = none → (s.acc p k i).poisoned = true →
        exec (.mxstExecute p k) s = .next (stored (s.modAcc p k i (fun a => { a with disc := true }))))) ∧
    (∃ s1, exec (.accrclWrite p k slots) s = .next s1 ∧ s1.mem = s.mem ∧
      ∀ i, i < 16 →
        let a := s.acc p k i
        s1.acc p k i =
          if slots.getLsbD i = false then a
          else if a.pend ≠ 0 then { a with reclaim := true }
          else if a.poisoned || a.orphaned then
            { a with tagged := false, exited := false, orphaned := false, poisoned := false, reclaim := false }
          else a)

/-! ## The trap queue, gang switches, resets and power (20, 21, 30) -/

/-- R315 to R323, R339: the queue engine, the registers of the queue, gang switches and dumps. The records are written in the order of their
entries; a record's eight words reach its entry, the last one full, TAIL advances over entries that are written, and a record whose entry
has lost its translation is held again (in ERROR nothing is written, R399); TQHEAD takes the consumer's count, and TQBASE starts an empty queue; a gang switch begins at its
time, stops the issue and the jobs that have not entered a group, and returns every share; a core reports ready; the worlds are exchanged
once every core and engine is ready, and the cores resume with the deliveries kept for them and the spilled messages; a dump is written
once its records are decided, and a dump that cannot be written resets the partition; a reset cuts a dump off.
The model's choices of log entries 52, 53, 54 and 73 are part of it. -/
def Obligations.QueueGangSteps : Prop :=
  ∀ (s s1 : State) (p : PartId) (c : CoreId) (index key : Nat) (x : TrapRec) (v : Word) (d : Dump) (ds : List Dump),
    let q := s.part p
    (q.trap.writing.find? (fun e => !e.2.1) = none → exec (.recordWriteDone p index) s = .next s) ∧
    (∀ i, q.trap.writing.find? (fun e => !e.2.1) = some (i, false, x) → i ≠ index → exec (.recordWriteDone p index) s = .next s) ∧
    (q.tdisp = .error → exec (.recordWriteDone p index) s = .next s) ∧
    (q.trap.writing.find? (fun e => !e.2.1) = some (index, false, x) → q.tdisp ≠ .error →
      let put : PageWriter := .step (.recordWriteDone p index)
      (unitKey s p (tqAddr q.r index) = none →
        exec (.recordWriteDone p index) s = .next (turnBack (listTable s p (tqAddr q.r index)) p)) ∧
      (unitKey s p (tqAddr q.r index) = some key → atHome s p key put = .error s1 →
        exec (.recordWriteDone p index) s = .next (s1.holdBack (.recordWriteDone p index))) ∧
      (unitKey s p (tqAddr q.r index) = some key → atHome s p key put = .ok s1 →
        let s2 := fillWord (writeList (noteWrite s1 p (tqAddr q.r index)) key
          [word (x.code % 2 ^ 12 * 2 ^ 52 + x.cls % 4 * 2 ^ 50 + x.ctx.toNat * 2 ^ 40 + x.core % 2 ^ 9 * 2 ^ 31 + x.slot % 16 * 2 ^ 27 +
             x.tid % 2 ^ 20), word (x.corr.toNat * 2 ^ 32 + x.seq % 2 ^ 32), x.pc, x.addr, x.d0, x.d1, x.d2, word x.ts]) p (key + 0x38)
        let s3 := modTrap s2 p (fun t => advanceTail t.writing.length
          { t with writing := t.writing.map (fun e => if e.1 = index then (e.1, true, e.2.2) else e) } (tqSize (s2.part p).r))
        ((s3.part p).trap.writing.find? (fun e => !e.2.1) = none →
          exec (.recordWriteDone p index) s = .next (recordPosted s3 p x (tqAddr q.r index))) ∧
        (∀ e, (s3.part p).trap.writing.find? (fun e => !e.2.1) = some e → s3.events.contains (.recordWriteDone p e.1) = false →
          exec (.recordWriteDone p index) s =
            .next (recordPosted (s3.push (.recordWriteDone p e.1)) p x (tqAddr q.r index))) ∧
        (∀ e, (s3.part p).trap.writing.find? (fun e => !e.2.1) = some e → s3.events.contains (.recordWriteDone p e.1) = true →
          exec (.recordWriteDone p index) s = .next (recordPosted s3 p x (tqAddr q.r index))))) ∧
    exec (.tqheadWrite p v) s =
      .next (s.modPart p (fun q => { q with trap := { q.trap with head := v.toNat % 2 ^ 16 } })) ∧
    exec (.tqbaseWrite p v) s = .next (s.modPart p (fun q => { q with
      trap := { q.trap with head := 0, tail := 0, alloc := 0, writing := [] },
      r := { q.r with tqbase :=
        (v &&& 0x01FFFFFFFFFFF00F) ||| (q.r.tqbase &&& 0x800 &&& ~~~(v &&& ~~~s.hwBits p 0 .tqbase)) } })) ∧
    ((q.r.gswt = 0 ∨ s.tstamp < q.r.gswt.toNat ∨ q.gang ≠ .idle ∨ q.snap.phase ≠ .idle) → exec (.gangSwitch p) s = .next s) ∧
    (q.r.gswt ≠ 0 → q.r.gswt.toNat ≤ s.tstamp → q.gang = .idle → q.snap.phase = .idle →
      exec (.gangSwitch p) s = .next ((s.modPart p (fun q => { q with
        gang := .draining, ready := [], r := { q.r with gswt := 0 },
        clusters := kmapVals (fun _ (c : Cluster) => { c with w := stopRun c.w }) q.clusters })).revokeEvery p)) ∧
    (q.gang = .draining → coreReady s p c = true → q.ready.contains c = false →
      exec (.coreDrained p c) s = .next (s.modPart p (fun q => { q with ready := q.ready ++ [c] }))) ∧
    ((q.gang ≠ .draining ∨ coreReady s p c = false ∨ q.ready.contains c = true) → exec (.coreDrained p c) s = .next s) ∧
    ((q.gang ≠ .draining ∨ q.coreIds.all (fun c => coreReady s p c) = false ∨ enginesReady q = false) →
      exec (.worldExchange p) s = .next s) ∧
    (q.gang = .draining → q.coreIds.all (fun c => coreReady s p c) = true → enginesReady q = true →
      (areaHeld s p = some s1 → exec (.worldExchange p) s = .next (s1.holdBack (.worldExchange p))) ∧
      (areaHeld s p = none →
        let s2 := saveWorld ((areaDirty s p).revokeEvery p) p
        let w := nextWorld s2 p
        let s3 := (keepDeliveries (installWorld s2 p w) p w.kept).modPart p (fun q => { q with
          gang := .restored, ready := [], r := { q.r with wscur := q.r.wsnext, wsnext := q.r.wscur } })
        exec (.worldExchange p) s = .next ((s3.part p).dsets.foldl (fun s e => releaseDset s p e.1) s3))) ∧
    (q.gang ≠ .restored → exec (.gangResume p) s = .next s) ∧
    (q.gang = .restored →
      let s2 := q.coreIds.foldl (fun s c => applyInbox s p c) (s.modPart p (fun q => { q with gang := .idle, spill := [] }))
      exec (.gangResume p) s =
        .next (q.coreIds.foldl (fun s c => kickCore s p c) ((s2.pushAll q.spill).pushAll (passedBarriers s2 p)))) ∧
    (q.dumps = [] → exec (.dumpComplete p) s = .next s) ∧
    (q.dumps = d :: ds →
      let base := ctxWord s p d.ctx 0x18
      let len := (ctxWord s p d.ctx 0x20).toNat
      (q.rst ≠ .none → exec (.dumpComplete p) s = .next s) ∧
      (q.rst = .none → recordUndecided q d = true → exec (.dumpComplete p) s = .next (s.holdBack (.dumpComplete p))) ∧
      (q.rst = .none → recordUndecided q d = false → dumpHeld s p base (Nat.min len 0x1500000) = some s1 →
        exec (.dumpComplete p) s = .next (s1.holdBack (.dumpComplete p))) ∧
      (q.rst = .none → recordUndecided q d = false → dumpHeld s p base (Nat.min len 0x1500000) = none →
        (writeItems p base len (dumpItems s p d) 0 s = none →
          exec (.dumpComplete p) s = .next (startReset (match (List.range (Nat.min len 0x1500000 / 2 ^ 16 + 2)).find?
            (fun i => (unitKey s p (base + word (2 ^ 16 * i))).isNone) with
          | some i => listTable s p (base + word (2 ^ 16 * i))
          | none => s) p)) ∧
        (writeItems p base len (dumpItems s p d) 0 s = some (index, s1) →
          let s2 := postRecord (s1.modPart p (fun q => { q with dumps := ds })) p { TrapRec.none with
            code := 0x047, cls := 2, ctx := d.ctx, corr := d.first.corr, d0 := base, d1 := word index }
          exec (.dumpComplete p) s = .next (if ds = [] then s2 else s2.push (.dumpComplete p)))))

/-- R339 to R341, R426 to R429: uncorrectable errors, partition resets, power and clocks. An error in a register kills its thread with a
record, one in a window word poisons it, one in a clean copy is corrected; a reset refuses requests, those already waiting included, its
ranks go missing at its peers, it wipes, and returns the partition to service with event 2; power-on leaves no partition in service, and
one whose signatures or die links fail lets none enter it; partitions enter service in ascending order; a scrub pass starts the correction counts anew and meets an armed injection; a gated core's
PLB is empty.
The model's choices of log entries 24, 37, 38, 39, 40, 41 and 67 are part of it. -/
def Obligations.ResetPowerSteps : Prop :=
  ∀ (s : State) (p : PartId) (c : CoreId) (r : TRef) (t : Thread) (line key : Nat) (x : L1Line) (y : SliceLine) (trained lower : Bool),
    let q := s.part p
    (s.thread r = some t → ∀ e ∈ ([.generalReg r, .vectorReg r] : List ErrSite),
      exec (.uncorrectableError e) s = .next (killThread (postRecord s r.part (TrapRec.ofThread r t 0x037 1 t.pc 0)) r)) ∧
    (key / 2 ^ 48 % 4 ≠ 0 → exec (.uncorrectableError (.windowWord key)) s = .next (s.poisonWord key)) ∧
    (s.l1 p c line = some x → x.st ≠ .m → x.st ≠ .o →
      exec (.uncorrectableError (.l1Data p c line)) s = .next (s.modPart p (fun q => { q with corrected := q.corrected + 1 }))) ∧
    exec (.uncorrectableError (.corrected p)) s = .next (s.modPart p (fun q => { q with corrected := q.corrected + 1 })) ∧
    (∀ i ∈ ([.partitionReset p, .relctlPrst p, .uncorrectableError (.control p)] : List Instr),
      ((q.inService = false ∨ q.rst ≠ .none) → exec i s = .next s) ∧
      (q.inService = true → q.rst = .none →
        exec i s = .next ((((leaveColls s p).pushAll (s.part p).snap.held).modPart p (fun q => { q with
          rst := .refusing, rstBase := q.r.lwbase, snap := { q.snap with held := [] } })).afterTicks 190000 (.resetWipe p)))) ∧
    (q.rst ≠ .refusing → exec (.resetWipe p) s = .next s) ∧
    (q.rst = .refusing → ∃ s1, exec (.resetWipe p) s = .next s1 ∧ (s1.part p).rst = .wiped ∧ (s1.part p).cores = [] ∧
      (s1.part p).r = (Partition.reset p.val).r ∧ (s1.part p).retired = q.retired ∧ (s1.part p).tdisp = q.tdisp ∧
      (s1.part p).colls = [] ∧ (s1.part p).hostAddr = q.hostAddr ∧
      ∀ k, keyTcm p 0 0 ≤ k → k < keySram p 0 + 2 ^ 48 → s1.byte k = 0 ∧ s1.fullBit k = false) ∧
    (q.rst = .wiped → q.wipe = none →
      exec (.resetComplete p) s = .next { s.modPart p (fun q => { q with rst := .none }) with
        hostOut := s.hostOut ++ [.event q.hostAddr (eventBytes 2 p q.tdisp s.tstamp)] }) ∧
    (q.rst ≠ .wiped → exec (.resetComplete p) s = .next s) ∧
    (∃ s1, exec .powerOnReset s = .next s1 ∧ s1.bringUp = (if bootOk s.free = true then 0 else 17) ∧ s1.mem = [] ∧ s1.cycle = 0 ∧ s1.time = 0 ∧
      ∀ p1, (s1.part p1).inService = false ∧ (s1.part p1).cores = [] ∧ (s1.part p1).retired = (s.part p1).retired ∧
        (s1.part p1).pins = (s.part p1).pins) ∧
    (s.bringUp = p.val → exec (.partitionInService p trained) s =
      .next { s.modPart p (fun q => { q with inService := trained, serviceAt := if trained then some s.cycle else none }) with bringUp := p.val + 1 }) ∧
    (s.bringUp ≠ p.val → exec (.partitionInService p trained) s = .next s) ∧
    (let u := s.modPart p (fun q => { q with corrections := [] })
     (q.slices.find? (fun l => errFires u p l.line 3) = some y → exec (.scrubPass p) s = .next (homeRead u p y.line 3 0)) ∧
     (q.slices.find? (fun l => errFires u p l.line 3) = none → exec (.scrubPass p) s = .next u)) ∧
    exec (.clockThrottle lower) s =
      .next { s with clockSteps := if lower then (if s.clockSteps < 15 then s.clockSteps + 1 else 15) else s.clockSteps - 1 } ∧
    (∃ s1, exec (.corePowerGating p c true) s = .next s1 ∧ (s1.core p c).c.gated = true ∧ (s1.core p c).c.plb = [] ∧ s1.mem = s.mem) ∧
    exec (.corePowerGating p c false) s = .next (s.modCoreC p c (fun k => { k with gated := false }))

/-! ## Steps of the fabric and of snapshots (25, 26) -/

/-- R368 to R378, R385, R386, R404: what reaches a partition from others. A request that does not authenticate is dropped; one is refused
with an error reply while the partition answers none, waits behind a marker or message of its flow, is held or recorded where a snapshot
governs its channel, and is otherwise performed at its home under the rights of XPORT.CTX and answered; one that has to wait there while
the channels are recorded has arrived; an error reply ends the request that it answers; a rank's block joins its collective, whose last one
completes it; a collective without a rank at its timeout tells the others and ends incomplete; and an unreachable destination ends what is
under way to it, stays unreachable, and its ranks are missing.
The model's choices of log entries 1, 55 (that peers are told of a missing rank, and what becomes of a failed collective's blocks), 56, 77
(a request that waits at its home has arrived) and 83 (the error replies of waiting and held requests) are part of it. -/
def Obligations.FabricSteps : Prop :=
  ∀ (s s1 : State) (q : RemoteReq) (l : Leaf) (ty : LdType) (st : StType) (op : AmoOp) (sz : AmoSize) (v c : Word) (r : TRef) (t : Thread)
    (x : Pend) (p : PartId) (m : CollMsg) (co : Coll) (rank : Nat) (modid : BitVec 16),
    let dst := s.part q.dst
    let a := va57 (xportAddr dst q.off.toNat)
    let key := keyMain q.dst (l.phys a)
    let peer := peerKey q.srcMod q.src.part
    let alien := fromPeer s q.srcMod q.src.part q.dst
    let isOpen (q : Partition) : Prop :=
      q.inService = true ∧ q.rst = .none ∧ q.wipe.isSome = false ∧ q.tdisp ≠ .error
    let known (p : PartId) (m : BitVec 16) (src : PartId) : Prop := m = s.modid ∨ (s.part p).linkKeys.contains (m, src) = true
    let put : PageWriter := .step (beatless (.remoteRequest q))
    ((q.modid ≠ s.modid ∨ ¬ known q.dst q.srcMod q.src.part) → exec (.remoteRequest q) s = .next s) ∧
    (q.modid = s.modid → known q.dst q.srcMod q.src.part →
      (¬ isOpen dst ∨ dst.r.xport.getLsbD 63 = false →
        exec (.remoteRequest q) s = .next (replyError s q.srcMod q.src q.srcTid)) ∧
      (isOpen dst → dst.r.xport.getLsbD 63 = true →
        let go (taken : State) : Out :=
          match remotePerform s q with
          | .later u =>
            if recording dst = true ∧ q.arrived = false then
              match remotePerform (blkCounted taken q) q with
              | .later u => .next (u.holdBack (.remoteRequest { q with arrived := true }))
              | x => .next (answerRemote q x)
            else .next (u.holdBack (.remoteRequest q))
          | _ => .next (answerRemote q (remotePerform (blkCounted taken q) q))
        (alien = false ∨ q.arrived = true → exec (.remoteRequest q) s = go s) ∧
        (alien = true → q.arrived = false → heldBehind s (.remoteRequest q) = true →
          exec (.remoteRequest q) s = .next (s.holdBack (.remoteRequest q))) ∧
        (alien = true → q.arrived = false → heldBehind s (.remoteRequest q) = false →
          takeInput s q.dst peer (reqChan q) (reqColour q) (.remoteRequest q) = none →
          exec (.remoteRequest q) s = .next (holdInput s q.dst (.remoteRequest q))) ∧
        (alien = true → q.arrived = false → heldBehind s (.remoteRequest q) = false →
          takeInput s q.dst peer (reqChan q) (reqColour q) (.remoteRequest q) = some s1 → exec (.remoteRequest q) s = go s1))) ∧
    (q.op = .load ty → remoteLeaf s q.dst q.off.toNat needR = none →
      remotePerform s q = .error (listTable s q.dst (xportAddr dst q.off.toNat))) ∧
    (q.op = .load ty → remoteLeaf s q.dst q.off.toNat needR = some l → reachRead s q.dst l a ty.bytes q.corr = .ok s1 →
      remoteLeaf s1 q.dst q.off.toNat needR = some l → (s1.part q.dst).r = dst.r →
      remotePerform s q = .reply (some (word (memRead s1.mem key ty.bytes))) s1) ∧
    (q.op = .store st v → remoteLeaf s q.dst q.off.toNat needW = some l → reachWrite s q.dst l a put = .ok s1 →
      remotePerform s q = .reply none (putBytes s1 q.dst key st.bytes v)) ∧
    (q.op = .amo op sz v c → remoteLeaf s q.dst q.off.toNat needRW = some l → reachWrite s q.dst l a put = .ok s1 →
      let u := if lineHits s q.dst l a then readHome s1 q.dst key q.corr else s1
      (u.linePoisoned key = true → remotePerform s q = .error u) ∧
      (u.linePoisoned key = false →
        remotePerform s q = .reply (some (amoOld op sz (amoAt u key op sz v c).1)) (amoAt u key op sz v c).2)) ∧
    -- replies
    (s.thread r = some t → t.pend = some x →
      (x.dest.isSome = true → exec (.remoteErrorReply r t.tid) s = .next (takeTrap s r .poison (some x.addr))) ∧
      (x.dest = none → x.notBefore ≤ s.cycle → exec (.remoteErrorReply r t.tid) s =
        .next (commitAt (s.setThread r { t with readyAt := Nat.max t.readyAt (s.cycle + 1) }) r x.size x.words x.commit))) ∧
    -- collectives
    (m.again = false → fromPeer s m.srcMod m.src p = true → (¬ isOpen (s.part p) ∨ ¬ known p m.srcMod m.src) →
      exec (.collContribution p m) s = .next s) ∧
    (m.again = false → fromPeer s m.srcMod m.src p = true → isOpen (s.part p) → known p m.srcMod m.src → m.miss = none →
      takeInput s p (peerKey m.srcMod m.src) .blk (some m.colour) (.collContribution p m) = none →
      exec (.collContribution p m) s = .next (holdInput s p (.collContribution p m))) ∧
    (m.miss = none →
      ∀ u, ((m.again = true ∨ fromPeer s m.srcMod m.src p = false) ∧ u = s ∨
        m.again = false ∧ fromPeer s m.srcMod m.src p = true ∧ isOpen (s.part p) ∧ known p m.srcMod m.src ∧
          takeInput s p (peerKey m.srcMod m.src) .blk (some m.colour) (.collContribution p m) = some s1 ∧
          u = blkArrives s1 p (peerKey m.srcMod m.src) m.colour) →
      ((u.part p).collMissed.contains (blockOf m) = true →
        exec (.collContribution p m) s =
          .next (u.modPart p (fun q => { q with collMissed := q.collMissed.erase (blockOf m) }))) ∧
      ((u.part p).collMissed.contains (blockOf m) = false → (u.part p).colls.find? (fun c => wants c m) = none →
        exec (.collContribution p m) s = .next (u.modPart p (fun q => { q with collEarly := q.collEarly ++ [m] }))) ∧
      ((u.part p).collMissed.contains (blockOf m) = false → (u.part p).colls.find? (fun c => wants c m) = some co →
        let co1 := { co with got := kput co.got m.rank m.data, mismatch := co.mismatch || !agrees co m }
        let u1 := u.modPart p (fun q => { q with colls := q.colls.map (fun x => if x.seq = co.seq then co1 else x) })
        exec (.collContribution p m) s = .next (if co1.got.length = co1.gsize then u1.push (.collComplete p co.seq) else u1))) ∧
    (m.miss = some rank → (m.again = true ∨ fromPeer s m.srcMod m.src p = false ∨ isOpen (s.part p) ∧ known p m.srcMod m.src) →
      (s.part p).colls.find? (fun c => forColl c m && c.missed.isNone) = some co →
      exec (.collContribution p m) s = .next (missRank s p co rank)) ∧
    ((s.part p).colls.find? (fun c => c.seq == co.seq && c.got.length == c.gsize && c.missed.isNone) = some co →
      let put : PageWriter := .step (.collComplete p co.seq)
      let w := lastWord co.dst co.dstBytes
      let id := collId co.seq.toNat
      let writes (b : List Byte) (s : State) : State :=
        engineWrite p co id put true (linePieces (co.dst + word (co.dstBytes - w)) w) (b.drop (co.dstBytes - w))
          (engineWrite p co id put true (linePieces co.dst (co.dstBytes - w)) b
            (engineWrite p co id put false (linePieces co.stage co.dstBytes) b s))
      (co.mismatch = true → exec (.collComplete p co.seq) s = .next (endColl s p co 3)) ∧
      (co.mismatch = false → collHeld s p co put = some s1 →
        exec (.collComplete p co.seq) s = .next (s1.holdBack (.collComplete p co.seq))) ∧
      (co.mismatch = false → collHeld s p co put = none → co.insw = true → ∃ b : List Byte, b.length = co.dstBytes ∧
        exec (.collComplete p co.seq) s = .next (endColl (writes b { s with free := s.free + co.dstBytes }) p co 8)) ∧
      (co.mismatch = false → collHeld s p co put = none → co.insw = false →
        exec (.collComplete p co.seq) s =
          .next (endColl (writes (if co.dstBytes = 0 then [] else collResult co) s) p co 0))) ∧
    ((s.part p).colls.find? (fun c => c.seq == co.seq) = some co →
      (co.missed = none → collLate s co = true → missingRank co = some rank →
        exec (.collTimeout p co.seq) s = .next (tellMissing (missRank s p co rank) p co rank)) ∧
      (co.missed = none → collLate s co = false → exec (.collTimeout p co.seq) s = .next s) ∧
      (co.missed = some rank → collHeld s p co (.step (.collTimeout p co.seq)) = some s1 →
        exec (.collTimeout p co.seq) s = .next (s1.holdBack (.collTimeout p co.seq))) ∧
      (co.missed = some rank → collHeld s p co (.step (.collTimeout p co.seq)) = none → ∃ b : List Byte, b.length = co.dstBytes ∧
        exec (.collTimeout p co.seq) s = .next (endColl
          { engineWrite p co (collId co.seq.toNat) (.step (.collTimeout p co.seq)) false (linePieces co.stage co.dstBytes) b s with
            free := (engineWrite p co (collId co.seq.toNat) (.step (.collTimeout p co.seq)) false (linePieces co.stage co.dstBytes) b
              s).free + co.dstBytes } p co (word (rank * 2 ^ 28 + 1))))) ∧
    exec (.destinationUnreachable modid p) s =
      .next (ranksGone (allParts.foldl (fun s x => (unreachableFrom s x modid p).modPart x (fun y => { y with
        unreachable := (modid, p) :: y.unreachable.filter (fun k => k != (modid, p)) })) s) modid p)

/-- R384 to R393: the steps of a snapshot and of a restore. A marker or a notice that does not authenticate is dropped; a marker behind a
message of its flow waits with it; one of the next number begins the capture, one of the current number marks its channel, another is
discarded; containment ends in the drain, the drain in the cut, which takes the image, advances SNAPN, flips the colour and enters state 1,
and the resume releases what was held; the copier stages a page, or the image of a steep one, where a frame is free; the writer ends in
state 3 or, without room, in state 4 with port event 4; a restore ends in state 2, 3, 4 or 5.
The model's choices of log entries 1, 40, 57, 58, 59, 61, 62 and 63 are part of it. -/
def Obligations.SnapshotSteps : Prop :=
  ∀ (s : State) (p src : PartId) (m : MarkerMsg) (page n i : Nat) (l : Leaf) (img : SnapImage) (mod_ : BitVec 16) (ok : Bool) (v : Word)
    (x : Manifest) (xs : List Manifest),
    let q := s.part p
    let cur := q.r.snapn.toNat
    let k := peerKey m.srcMod m.src
    let own := m.srcMod = s.modid ∧ m.src = p
    let known (m : BitVec 16) (src : PartId) : Prop := m = s.modid ∨ q.linkKeys.contains (m, src) = true
    let unit := q.r.snaprst.toNat % 2 ^ 21
    (¬ known m.srcMod m.src → exec (.marker p m) s = .next s) ∧
    (known m.srcMod m.src → heldBehind s (.marker p m) = true → exec (.marker p m) s = .next (s.holdBack (.marker p m))) ∧
    (known m.srcMod m.src → heldBehind s (.marker p m) = false →
      ((q.r.snapctl.getLsbD 63 = false ∨ (m.n ≠ nextSnap cur ∧ m.n ≠ cur)) →
        exec (.marker p m) s = .next (if own then modSnap s p (fun x => { x with issuers := [] }) else s)) ∧
      (q.r.snapctl.getLsbD 63 = true → m.n = nextSnap cur →
        (q.snap.phase ≠ .idle → exec (.marker p m) s = .next (markChannel s p m)) ∧
        (q.snap.phase = .idle → (snapState q cur = 1 ∨ snapState q cur = 2) →
          exec (.marker p m) s = .next (holdInput s p (.marker p m))) ∧
        (q.snap.phase = .idle → snapState q cur ≠ 1 → snapState q cur ≠ 2 →
          ∃ s1, exec (.marker p m) s = .next s1 ∧ s1.mem = s.mem ∧ (s1.part p).r = q.r ∧ (s1.part p).snap = { q.snap with
            phase := .contain, n := m.n, coordMod := m.coordMod, coordPart := m.coordPart, corr := m.corr, seen := [(k, m.chan)],
            blkWant := if m.chan = .blk then [(k, m.blkCount)] else [] })) ∧
      (q.r.snapctl.getLsbD 63 = true → m.n ≠ nextSnap cur → m.n = cur →
        exec (.marker p m) s = .next (endRecording (markChannel s p m) p))) ∧
    -- the pulse and the cut
    (q.snap.phase = .contain → q.gang = .idle → contained s p = true →
      exec (.capturePulse p) s = .next (s.modPart p (fun q => { q with
        snap := { q.snap with phase := .drain },
        clusters := kmapVals (fun _ (c : Cluster) => { c with w := stopRun c.w }) q.clusters }))) ∧
    ((q.snap.phase ≠ .contain ∨ q.gang ≠ .idle ∨ contained s p = false) → exec (.capturePulse p) s = .next s) ∧
    (q.snap.phase = .drain → q.gang = .idle → q.coreIds.all (fun c => coreReady s p c) = true →
      q.clusters.all (fun e => e.2.w.run.isNone && e.2.w.drain.isEmpty) = true →
      ∃ s1, exec (.snapshotCut p) s = .next s1 ∧ (s1.part p).snap.phase = .cut ∧ (s1.part p).r.snapn = BitVec.ofNat 16 q.snap.n ∧
        (s1.part p).r.steepctl = q.r.steepctl ^^^ 0x100 ∧ (s1.part p).r.snapctl = q.r.snapctl &&& 0xFFFFFFFFFFFFFFFE ∧
        snapState (s1.part p) q.snap.n = 1 ∧ (s1.part p).tcache = [] ∧ (s1.part p).snap.chanLog = [] ∧
        (s1.part p).snap.captured = cutLeaves s p (q.r.snapctl.getLsbD 0) ∧ (s1.part p).snap.image = some (imageOf s p) ∧
        (s1.part p).snap.issuers = []) ∧
    (q.snap.phase ≠ .drain → exec (.snapshotCut p) s = .next s) ∧
    (q.snap.phase = .cut →
      exec (.captureResume p) s =
        .next (releaseHeld (endRecording (modSnap (imageSteep s p) p (fun x => { x with phase := .idle })) p) p)) ∧
    (q.snap.phase ≠ .cut → exec (.captureResume p) s = .next s) ∧
    -- the copier and the writer
    (q.snap.captured.find? (fun l => l.page == page && snapOf s l == 1) = none → exec (.pageCopy p page) s = .next s) ∧
    (q.snap.captured.find? (fun l => l.page == page && snapOf s l == 1) = some l →
      let copied (s : State) (f : Option Nat) : State :=
        modSnap (setSnap s l 2) p (fun x => { x with staged := x.staged ++ [(l.page, f)], dirty := nput x.dirty l.page })
      (l.big = true → exec (.pageCopy p page) s = .next s) ∧
      (l.big = false → l.steep = true → q.snap.phase = .cut → exec (.pageCopy p page) s = .next s) ∧
      (l.big = false → ¬ (l.steep = true ∧ q.snap.phase = .cut) → freeFrame q = none → exec (.pageCopy p page) s = .next s) ∧
      (l.big = false → ¬ (l.steep = true ∧ q.snap.phase = .cut) → freeFrame q = some i →
        let f := frameKey q p i
        exec (.pageCopy p page) s =
          .next (copied (copyPage (collectRange s p f (f + 2 ^ 16)) (imageKey q p l) f (2 ^ 16)) (some i))) ∧
      (q.snap.staged.find? (fun e => e.1 == l.page) = none → imageKey q p l = if l.steep then shadowKey p l.pa else keyMain p l.pa)) ∧
    (q.snap.image = none → exec (.snapshotWriter p) s = .next s) ∧
    (q.snap.image = some img → snapState q cur = 2 → q.snap.phase = .idle →
      let pl := planOf (caddyPtr q.r) (chanBytes q.snap.chanLog).length (pageImages q p).length
      (caddyRoom q.r < pl.stop - caddyPtr q.r →
        exec (.snapshotWriter p) s =
          .next (sendNotice ((endCapture (setSnapState s p cur 4) p 2).hostEvent p 4) p cur false)) ∧
      (pl.stop - caddyPtr q.r ≤ caddyRoom q.r →
        let w := writeObjects s p img pl
        let s1 := w.1.modRegs p (fun r => { r with caddyp := setField r.caddyp 0 21 (pl.stop % Nat.max 1 (caddyLen r)) })
        let used := (List.range (pl.stop - caddyPtr q.r)).map (fun i => caddyUnit q.r p (caddyPtr q.r + i) / 2 ^ 16)
        let s1 := if q.r.caddy.getLsbD 63 = true then s1.modPart p (fun x => { x with caddyUnits := used.foldl nput x.caddyUnits }) else s1
        let s2 := modSnap s1 p (fun y => { y with
          images := (cur, w.2, q.keyGen, { img with log := y.chanLog }) :: y.images, prev := cur,
          prevOff := some (unitField q.r pl.manifest) })
        exec (.snapshotWriter p) s = .next (sendNotice (endCapture (setSnapState s2 p cur 3) p 0) p cur true))) ∧
    (¬ known mod_ src → exec (.snapshotNotice p mod_ src n ok) s = .next s) ∧
    (known mod_ src → exec (.snapshotNotice p mod_ src n ok) s =
      .next (modSnap s p (fun x => { x with reported := x.reported ++ [(n, peerKey mod_ src, ok)] }))) ∧
    -- restores
    (let s1 := s.modRegs p (fun r => { r with snaprst := setField (setField r.snaprst 62 1 (v.toNat / 2 ^ 62 % 2)) 0 21 (v.toNat % 2 ^ 21) })
     (inhabited s p = true → exec (.snaprstGo p v) s = .next (setRestore s1 p 5)) ∧
     (inhabited s p = false → exec (.snaprstGo p v) s = .next ((setRestore s1 p 1).push (.restoreComplete p)))) ∧
    (q.r.snaprst.toNat / 2 ^ 21 % 8 ≠ 1 → exec (.restoreComplete p) s = .next s) ∧
    (q.r.snaprst.toNat / 2 ^ 21 % 8 = 1 → (readChain s p 65536 unit none).getD [] = [] →
      exec (.restoreComplete p) s = .next (setRestore s p 4)) ∧
    (q.r.snaprst.toNat / 2 ^ 21 % 8 = 1 → readChain s p 65536 unit none = some (x :: xs) →
      let h := hash32 (objectBytes s q.r p x.world worldBytes ++ objectBytes s q.r p x.chan x.chanLen ++ objectBytes s q.r p x.sram sramBytes)
      let y := restorePages p (x :: xs) x.n (pagesToRestore s p (x :: xs) (q.r.snaprst.getLsbD 62)) s
      (h ≠ x.hash → exec (.restoreComplete p) s = .next (setRestore s p 3)) ∧
      (h = x.hash → y.1 = false → exec (.restoreComplete p) s = .next (setRestore y.2 p 3)) ∧
      (h = x.hash → y.1 = true → exec (.restoreComplete p) s = .next (finishRestore y.2 p x unit)))

/-! ## Steps of the host (27) -/

/-- R396 to R405, R430: what the host reaches. A port access meets its conditions or gets an error completion with nothing performed, keeps
the order of its flow, and fires the line monitor where it covers a SEAL word; once the bring-up has opened it the SPDM responder answers,
its messages enter the session's transcript, which a signature covers, and move the session; a TDISP message to a partition not yet in
service as the cycle began, or under a wipe, is told Busy, and one outside its session is an error; a partition left out of service by the
bring-up is reported as unlocked; LOCK and STOP begin the life-cycle wipe, whose end answers them and, for a LOCK, freezes the
configuration; a change of the frozen configuration enters ERROR, and a firmware image is loaded only if its signature verifies.
The model's choices of log entries 1, 9, 40, 41 (the key generation goes up by one at each completed wipe, and what a failed bring-up
leaves), 51, 64, 65 and 66 are part of it. -/
def Obligations.HostSteps : Prop :=
  ∀ (s s1 : State) (p dst : PartId) (n i : Nat) (a : BitVec 64) (op : HostOp) (ps : List HostPiece) (x : HostPiece) (b : List Byte)
    (aop : AmoOp) (sz : AmoSize) (v c : Word) (nonce : BitVec 256) (mod_ : BitVec 16) (w : Wipe) (se : Session) (fw : Firmware),
    let q := s.part p
    let replies (s : State) (m : HostMsg) : State := { s with hostOut := s.hostOut ++ [m] }
    let answers (i : Instr) (m : HostMsg) : Prop := exec i s = .next (replies s m)
    let need := (hostShape op).2.1
    let pieces := hostPieces s p a (hostShape op).1 need
    let me : Instr := .hostAccess p a op
    let passed := ps.foldl (fun s x => piecePassed s p (.step me) x) s
    let sealing := need.getLsbD 1 && coversSeal q p ps && s.events.any (bringsError p)
    let clear := ps.any (fun x => s.linePoisoned x.key) = false
    let isOpen := q.tdisp = .run ∧ q.inService = true ∧ q.rst = .none ∧ q.wipe.isSome = false
    let ss := kget s.sessions n
    let said (ph : SessionPhase) : Prop := ∃ se, ss = some se ∧ se.phase = ph
    let secret := said .secured ∧ (q.owner = none ∨ q.owner = some n)
    let serving := q.inService = true ∧ q.serviceAt ≠ some s.cycle
    let idle := serving ∧ q.wipe = none
    let enters (t : Tdisp) (s : State) : State :=
      { s.modPart p (fun q => { q with tdisp := t }) with
        hostOut := s.hostOut ++ [.event (s.part p).hostAddr (eventBytes 3 p t s.tstamp)] }
    let fails (s : State) : State := enters .error (haltPartition (s.modPart p (fun q => { q with unfrozen := false })) p)
    -- accesses through the port
    (heldBehind s me = true → exec me s = .next (s.holdBack me)) ∧
    (heldBehind s me = false →
      ((¬ isOpen ∨ a.toNat % (hostShape op).2.2 ≠ 0) → answers me (.error p a)) ∧
      (isOpen → a.toNat % (hostShape op).2.2 = 0 → pieces = none →
        let lost := (sectorPieces (a.toNat % 2 ^ 32) (hostShape op).1).find? (fun x => (remoteLeaf s p x.1 need).isNone)
        exec me s = .next (replies (if a.toNat / 2 ^ 32 = 0x10000000 ∧ q.r.xport.getLsbD 63 = true then
          (match lost with
            | some x => listTable s p (xportAddr q x.1)
            | none => s) else s) (.error p a))) ∧
      (pieces = some ps → (¬ clear ∨ sealing = true) → answers me (.error p a)) ∧
      (isOpen → a.toNat % (hostShape op).2.2 = 0 → pieces = some ps → clear → sealing = false →
        (op = .read i →
          (∀ u, readHostPieces p ps [] s = .data b u → exec me s = .next (replies u (.readData p a b))) ∧
          (∀ u, readHostPieces p ps [] s = .poisoned u → exec me s = .next (replies u (.error p a))) ∧
          (∀ u, readHostPieces p ps [] s = .later u → exec me s = .next (u.holdBack me))) ∧
        ((op = .write b ∨ op = .atomic aop sz v c) → ps.findSome? (pieceHeld s p (.step me)) = some s1 →
          exec me s = .next (s1.holdBack me)) ∧
        ((op = .write b ∨ op = .atomic aop sz v c) → ps.findSome? (pieceHeld s p (.step me)) = none →
          reachPieces p ps passed = .error s1 → exec me s = .next (s1.holdBack me)) ∧
        (op = .write b → ps.findSome? (pieceHeld s p (.step me)) = none → reachPieces p ps passed = .ok s1 →
          exec me s = .next (replies (sealPieces (writePieces ps b s1) p ps) (.done p a))) ∧
        (op = .atomic aop sz v c → ps = [x] → pieceHeld s p (.step me) x = none → reachPieces p ps passed = .ok s1 →
          let r := amoAt s1 x.key aop sz v c
          exec me s = .next (replies (sealPieces r.2 p ps) (.readData p a (natBytes r.1 (amoBytes sz))))))) ∧
    -- SPDM
    (s.bringUp ≠ 16 → ∀ j ∈ ([.getVersion n, .getCapabilities n, .negotiateAlgorithms n, .getDigests n, .getCertificate n, .challenge n nonce,
        .getMeasurements n p i, .keyExchange n, .finish n, .endSession n] : List Instr), exec j s = .next s) ∧
    (s.bringUp = 16 →
    (let se1 : Session := { phase := .negotiating, transcript := [Config.spdmBytes 0x84 [], Config.spdmBytes 0x04 [1, 3]] }
     exec (.getVersion n) s = .next (replies { s with sessions := kput s.sessions n se1 } (.version n 1 3))) ∧
    exec (.getCapabilities n) s =
      .next (replies (exchanged s n [Config.spdmBytes 0xE1 [], Config.spdmBytes 0x61 []]) (.capabilities n spdmRequests)) ∧
    exec (.negotiateAlgorithms n) s =
      .next (replies (exchanged s n [Config.spdmBytes 0xE3 [], Config.spdmBytes 0x63 []])
        (.algorithms n "Falcon-1024 (vendor-defined)" "SHAKE256, 64 bytes" "AES-256-GCM")) ∧
    (let d := Config.digest Config.certificate
     exec (.getDigests n) s =
      .next (replies (exchanged s n [Config.spdmBytes 0x81 [], Config.spdmBytes 0x01 [d.toNat]]) (.digests n d))) ∧
    exec (.getCertificate n) s =
      .next (replies (exchanged s n [Config.spdmBytes 0x82 [], Config.spdmBytes 0x02 [bytesNat Config.certificate]])
        (.certificate n Config.certificate)) ∧
    (let r := signed s n [Config.spdmBytes 0x83 [nonce.toNat], Config.spdmBytes 0x03 []]
     exec (.challenge n nonce) s = .next (replies r.2 (.challengeAuth n r.1))) ∧
    (1 ≤ i → i ≤ 4 →
      let d := measurement s p i
      let r := signed s n [Config.spdmBytes 0xE0 [p.val, i], Config.spdmBytes 0x60 [d.toNat]]
      exec (.getMeasurements n p i) s = .next (replies r.2 (.measurements n i d r.1))) ∧
    (¬ (1 ≤ i ∧ i ≤ 4) → answers (.getMeasurements n p i) (.spdmError n)) ∧
    (ss = some se → se.phase = .negotiating →
      let l := [Config.spdmBytes 0xE4 [], Config.spdmBytes 0x64 []]
      exec (.keyExchange n) s = .next (replies (setPhase (signed s n l).2 n .keyed) (.keyExchanged n (signed s n l).1))) ∧
    (¬ said .negotiating → answers (.keyExchange n) (.spdmError n)) ∧
    (said .keyed → exec (.finish n) s =
      .next (replies (setPhase (exchanged s n [Config.spdmBytes 0xE5 [], Config.spdmBytes 0x65 []]) n .secured) (.finished n))) ∧
    (¬ said .keyed → answers (.finish n) (.spdmError n)) ∧
    (ss ≠ none → exec (.endSession n) s = .next (replies { s with sessions := kdel s.sessions n } (.ended n))) ∧
    (ss = none → answers (.endSession n) (.spdmError n))) ∧
    (ss = some se → ∀ l : List (List Byte),
      exchanged s n l = { s with sessions := kput s.sessions n { se with transcript := se.transcript ++ l } } ∧
      signed s n l = (Config.signature s.free (shake256 64 (Config.toBeSigned (se.transcript ++ l))),
        { exchanged s n l with free := s.free + 1 })) ∧
    (ss = none → ∀ l : List (List Byte), exchanged s n l = s) ∧
    measurement s p i = BitVec.ofNat 512 (bytesNat (shake256 64 (
      if i ≤ 2 then (kget s.firmware i).getD (Config.firmware i)
      else Config.measuredBytes i (if i = 3 then (q.frozen.getD (freezeOf s p)).words else healthWords q)))) ∧
    (said .secured → q.owner = some n → (q.tdisp = .locked ∨ q.tdisp = .run) → q.wipe = none →
      exec (.vendorDefinedRequest n p mod_ dst) s = .next (replies (s.modPart p (fun q => { q with
        linkKeys := (mod_, dst) :: q.linkKeys.filter (fun k => k != (mod_, dst)),
        unreachable := q.unreachable.filter (fun k => k != (mod_, dst)) })) (.vendorDone n))) ∧
    ((¬ said .secured ∨ q.owner ≠ some n ∨ (q.tdisp ≠ .locked ∧ q.tdisp ≠ .run) ∨ q.wipe.isSome = true) →
      answers (.vendorDefinedRequest n p mod_ dst) (.spdmError n)) ∧
    -- TDISP
    (let turned (j : Instr) : Prop :=
      (¬ serving → answers j (.busy n p)) ∧ (serving → ¬ secret → answers j (.spdmError n)) ∧
      (serving → secret → q.wipe.isSome = true → answers j (.busy n p))
     let passedBy := q.inService = false ∧ p.val < s.bringUp ∧ s.bringUp ≤ 16
     (∀ j ∈ ([.getTdispVersion n p, .getTdispCapabilities n p, .lockInterfaceRequest n p, .getDeviceInterfaceReport n p,
        .startInterfaceRequest n p, .stopInterfaceRequest n p] : List Instr), turned j) ∧
     (passedBy → said .secured → answers (.getDeviceInterfaceState n p) (.state n p .unlocked)) ∧
     (¬ (passedBy ∧ said .secured) → turned (.getDeviceInterfaceState n p))) ∧
    (secret → idle →
      answers (.getTdispVersion n p) (.tdispVersion n p) ∧ answers (.getTdispCapabilities n p) (.tdispCapabilities n p) ∧
      answers (.getDeviceInterfaceState n p) (.state n p q.tdisp) ∧
      (q.tdisp = .unlocked →
        (let w1 : Wipe := { lock := true, sess := n }
         exec (.lockInterfaceRequest n p) s =
          .next ((s.modPart p (fun q => { q with owner := some n, wipe := some w1 })).afterTicks lifeTicks (.lifeCycleWipeComplete p))) ∧
        answers (.stopInterfaceRequest n p) (.spdmError n)) ∧
      (q.tdisp ≠ .unlocked → answers (.lockInterfaceRequest n p) (.spdmError n) ∧
        (let w1 : Wipe := { lock := false, sess := n }
         exec (.stopInterfaceRequest n p) s =
          .next (((haltPartition s p).modPart p (fun q => { q with wipe := some w1 })).afterTicks lifeTicks (.lifeCycleWipeComplete p)))) ∧
      (q.tdisp = .locked →
        let d := measurement s p 3
        let r := signed s n [Config.spdmBytes 0xFE [p.val], Config.spdmBytes 0x7E [p.val, q.tdisp.code, d.toNat, q.keyGen.toNat]]
        exec (.getDeviceInterfaceReport n p) s = .next (replies r.2 (.report n p .locked d q.keyGen r.1)) ∧
        exec (.startInterfaceRequest n p) s = .next (replies (enters .run s) (.started n p))) ∧
      (q.tdisp ≠ .locked →
        answers (.getDeviceInterfaceReport n p) (.spdmError n) ∧ answers (.startInterfaceRequest n p) (.spdmError n))) ∧
    ((q.tdisp = .locked ∨ q.tdisp = .run) → exec (.configChange p none) s = .next (fails s)) ∧
    (q.tdisp ≠ .locked → q.tdisp ≠ .run → exec (.configChange p none) s = .next s) ∧
    (let u : State := { s with firmware := kput s.firmware fw.index fw.image }
     exec (.configChange p (some fw)) s = .next (if imageVerifies fw = false then s else if fw.index = 1 then allParts.foldl enterError u else u)) ∧
    (q.wipe = none → exec (.lifeCycleWipeComplete p) s = .next s) ∧
    (q.wipe.isSome = true → q.rst ≠ .none → exec (.lifeCycleWipeComplete p) s = .next s) ∧
    (q.wipe = some w → q.rst = .none →
      ∃ u, exec (.lifeCycleWipeComplete p) s = .next u ∧ (u.part p).wipe = none ∧ (u.part p).keyGen = q.keyGen + 1 ∧
        (u.part p).tdisp = (if w.lock then .locked else .unlocked) ∧ (u.part p).retired = [] ∧ (u.part p).pins = q.pins ∧
        (u.part p).r.dspctl.getLsbD 0 = false ∧ ((u.part p).frozen.isSome = true ↔ w.lock = true) ∧
        (∀ z, (u.part p).frozen = some z → z.part = p ∧ z.base = 0 ∧ z.lwbase = q.r.lwbase ∧ z.caddyMode = q.r.caddy.getLsbD 63 ∧
          (q.inService = true → z.limit = 2 ^ 40 ∧ z.slices = List.range 16 ∧ z.bankCores = (List.range 16).map (fun i => 256 + i) ∧
            z.memLinks = [0, 1, 2, 3] ∧ z.port = [p.val])) ∧
        (w.lock = false → (u.part p).owner = none ∧ (u.part p).linkKeys = []) ∧
        (∀ k, spaceBase p 0 ≤ k → k < spaceBase p 0 + 4 * 2 ^ 48 → u.byte k = 0 ∧ u.fullBit k = false) ∧
        u.hostOut = s.hostOut ++ (if w.lock then [.event q.hostAddr (eventBytes 3 p .locked s.tstamp), .locked w.sess p]
          else [.event q.hostAddr (eventBytes 3 p .unlocked s.tstamp), .stopped w.sess p]))

/-! ## Tasters, counters and the trace unit (21, 28), and the Idran controller -/

/-- R328, R336, R407 to R418, R346: TBIND written with EN = 1 binds or sets ERR; an unbinding waits for the log; LOGVIO stops a thread whose
record was not acknowledged as its cycle began; a link interval latches and zeroes the counters at a boundary, and the oldest dump is
written, waits at its page, or sets BAD; a counter wraps while the counters run; trace condition 7; a sync record; the presets of PERFCTL;
and the Idran controller's accesses to registers.
The model's choices of log entries 12, 29 and 51 are part of it. -/
def Obligations.MonitorSteps : Prop :=
  ∀ (s s1 : State) (p : PartId) (c t1 : CoreId) (i : Fin 4) (v : Word) (key : Nat) (d : LinkDump) (rest : List LinkDump) (w : CoreId) (t : Thread) (reg : SysReg),
    let k := s.core p c
    let v1 := v ||| 0x8000000000000000
    let seq := v.toNat % 2 ^ 32
    let r : TRef := ⟨p, w, Fin.ofNat 16 (v.toNat / 2 ^ 36 % 16)⟩
    let log := (s.core p w).w.log
    let rec_ : TrapRec := { TrapRec.none with code := 0x034, cls := 1, core := w.val, slot := r.slot.val, d0 := word seq }
    let begun := match kget log.starts r.slot.val with
      | some n => seqGt n seq
      | none => false
    (bindOk s p c v1 = true → corePut (tasterOf v1) = some t1 →
      ∃ u, exec (.tbindBind p c v) s = .next u ∧ u.mem = s.mem ∧ (u.core p c).w.tbind = v1 &&& 0xFC0000FF803FFFF8 ∧
        (u.core p c).w.log = LogState.empty ∧ (u.core p t1).w.logseq = 0 ∧ u.watched p c = true) ∧
    (bindOk s p c v1 = false →
      exec (.tbindBind p c v) s = .next (s.modCoreW p c (fun w => { w with tbind := w.tbind ||| 0x10000000000 }))) ∧
    (s.watched p c = true → logDrained s p c = false → exec (.tbindUnbind p c v) s = .next s) ∧
    ((s.watched p c = false ∨ logDrained s p c = true) →
      ∃ u, exec (.tbindUnbind p c v) s = .next u ∧ u.mem = s.mem ∧ u.watched p c = false) ∧
    (workerOf s p c = none → exec (.logvioWrite p c v) s = .next s) ∧
    (workerOf s p c = some w → s.thread r = some t → seqGt seq (ackBefore s p c) = true → begun = false →
      exec (.logvioWrite p c v) s = .next (postRecord (s.setThread r { t with parkAt := some 0x034 }) p { rec_ with
        ctx := t.ctx, tid := t.tid, corr := t.corr })) ∧
    (workerOf s p c = some w → (s.thread r = none ∨ seqGt seq (ackBefore s p c) = false ∨ begun = true) →
      exec (.logvioWrite p c v) s = .next (postRecord s p { rec_ with d1 := 0x8000000000000000 })) ∧
    -- counters and traces
    (let u : State :=
      if linkDue s p then
        { s.modPart p (fun q => { q with
            grid := q.grid ++ [{ ts := s.tstamp, ctl := q.r.lnkctl, base := q.r.lnkbase, grid := countLinks q.links s.free }], links := [] }) with
          free := s.free + 1440 }
      else s
     let seq := (u.part p).r.lnkctl.toNat % 2 ^ 32
     let slots := 2 ^ Nat.min (d.ctl.toNat / 2 ^ 54 % 16) 8
     let a := ext57 (d.base.toNat / 2 ^ 14 % 2 ^ 43 * 2 ^ 14 + 16384 * (seq % slots))
     ((u.part p).grid = [] → exec (.linkInterval p) s = .next u) ∧
     ((u.part p).grid = d :: rest →
      ((u.part p).tdisp = .error → exec (.linkInterval p) s = .next u) ∧
      ((u.part p).tdisp ≠ .error →
        (unitWrite u p a (.linkInterval p) = .bad s1 →
          exec (.linkInterval p) s = .next (((s1.modPart p (fun q => { q with grid := rest })).modRegs p (fun r => { r with
            lnkbase := r.lnkbase ||| 1 })).hwSet p 0 .lnkbase 0)) ∧
        (unitWrite u p a (.linkInterval p) = .held s1 → exec (.linkInterval p) s = .next (s1.holdBack (.linkInterval p))) ∧
        (unitWrite u p a (.linkInterval p) = .ok key s1 →
          exec (.linkInterval p) s = .next ((writeDump ((collectRange s1 p key (key + 16384)).modPart p (fun q => { q with grid := rest }))
            p key seq d).modRegs p (fun r => { r with lnkctl := setField r.lnkctl 0 32 (seq + 1) })))))) ∧
    (s.counting p = true → k.w.pcnt[i].toNat % 2 ^ 48 = 2 ^ 48 - 1 →
      s.mtsWas p c (.pcnt i) = none →
      ∃ u, exec (.pcntWrap p c i) s = .next u ∧ u.mem = s.mem ∧ (u.core p c).w.pcnt = k.w.pcnt.set i (addCount k.w.pcnt[i] 1)) ∧
    ((s.counting p = false ∨ k.w.pcnt[i].toNat % 2 ^ 48 ≠ 2 ^ 48 - 1) →
      exec (.pcntWrap p c i) s = .next s) ∧
    exec (.traceTimeCondition p c) s = .next (if k.c.trctime.toNat ≤ s.tstamp then s.traceCond p c 7 else s) ∧
    (k.w.trcctl.getLsbD 60 = false → exec (.syncRecord p c) s = .next s) ∧
    (k.w.trcctl.getLsbD 60 = true →
      (k.w.trcctl.getLsbD 0 = false → exec (.syncRecord p c) s = .next (trcWrite s p c)) ∧
      (k.w.trcctl.getLsbD 0 = true →
        exec (.syncRecord p c) s = .next (trcWrite ((writeTrc s p c 0 (word s.tstamp)).modCoreW p c (fun w => { w with
          trcRecs := 0, trcSync := (writeTrc s p c 0 (word s.tstamp)).cycle })) p c))) ∧
    (∃ u, exec (.perfctlPreset p v) s = .next u ∧ u.mem = s.mem ∧ (u.part p).r.perfctl = v &&& 0xF ∧
      (u.core p c).w = { k.w with psel := 0xFFFF000000000000 ||| presetEvents (v.toNat % 8), pcnt := Vector.replicate 4 0 }) ∧
    -- the Idran controller
    exec (.idranRegisterAccess p c .modid (some v)) s = .next { s with modid := v.setWidth 16 } ∧
    exec (.idranRegisterAccess p c .vfsel (some v)) s = .next (s.modRegs p (fun r => { r with vfsel := v &&& 0xF })) ∧
    (reg ≠ .modid → reg ≠ .vfsel → reg ≠ .tbind →
      exec (.idranRegisterAccess p c reg (some v)) s = .next (writeCoreReg s p c reg v)) ∧
    ((∀ j, reg ≠ .shcnt j) → exec (.idranRegisterAccess p c reg none) s =
      .next { s with hostOut := s.hostOut ++ [.register p c reg (readIdran s p c reg)] })
end

