-- ==== Sys2Proof/Laws/Memory.lean ====
section
/-! SUPPORT. The byte memory: what reads as what was written, what a write leaves, and that every operation keeps the canonical form. -/
namespace Sys2Proof.Machine

/-- Every key of a memory is at least `n`. -/
def Memory.above (n : Nat) (m : Memory) : Prop := ∀ c ∈ m, n ≤ c.1

theorem Memory.wf_cons {i : Nat} {b : Byte} {m : Memory} :
    Memory.wf ((i, b) :: m) = true ↔ b ≠ unlistedByte ∧ Memory.above (i + 1) m ∧ Memory.wf m = true := by
  induction m generalizing i b with
  | nil => simp [Memory.wf, Memory.above]
  | cons e m ih =>
    obtain ⟨j, c⟩ := e
    constructor
    · intro h
      simp only [Memory.wf, Bool.and_eq_true, decide_eq_true_eq, bne_iff_ne, ne_eq] at h
      obtain ⟨⟨hij, hb⟩, hw⟩ := h
      refine ⟨hb, ?_, hw⟩
      have ha := (ih.mp hw).2.1
      intro x hx
      rcases List.mem_cons.mp hx with rfl | hx
      · exact hij
      · have := ha x hx; omega
    · rintro ⟨hb, ha, hw⟩
      simp only [Memory.wf, Bool.and_eq_true, decide_eq_true_eq, bne_iff_ne, ne_eq]
      exact ⟨⟨ha (j, c) (by simp), hb⟩, hw⟩

theorem Memory.above_mono {n k : Nat} {m : Memory} (h : Memory.above k m) (hn : n ≤ k) : Memory.above n m :=
  fun c hc => Nat.le_trans hn (h c hc)

/-- A byte at a key below every listed one reads as an unlisted address does. -/
theorem memByte_below {m : Memory} {n k : Nat} (h : Memory.above n m) (hk : k < n) : memByte m k = unlistedByte := by
  induction m with
  | nil => rfl
  | cons e m ih =>
    obtain ⟨i, b⟩ := e
    have hi := h (i, b) (by simp)
    have : i ≠ k := by simp at hi; omega
    simp only [memByte, this, if_false]
    exact ih (fun c hc => h c (by simp [hc]))

theorem memSetByte_above {m : Memory} {n k : Nat} (v : Byte) (h : Memory.above n m) (hk : n ≤ k) :
    Memory.above n (memSetByte m k v) := by
  induction m with
  | nil =>
    simp only [memSetByte]
    split <;> simp [Memory.above, hk]
  | cons e m ih =>
    obtain ⟨i, b⟩ := e
    have hi : n ≤ i := h (i, b) (by simp)
    have ht : Memory.above n m := fun c hc => h c (by simp [hc])
    simp only [memSetByte]
    split
    · split
      · exact h
      · intro c hc
        rcases List.mem_cons.mp hc with rfl | hc
        · exact hk
        · exact h c hc
    · split
      · split
        · exact ht
        · intro c hc
          rcases List.mem_cons.mp hc with rfl | hc
          · exact hk
          · exact ht c hc
      · intro c hc
        rcases List.mem_cons.mp hc with rfl | hc
        · exact hi
        · exact ih ht c hc

/-- Writing a byte keeps the canonical form. -/
theorem memSetByte_wf {m : Memory} (k : Nat) (v : Byte) (h : Memory.wf m = true) : Memory.wf (memSetByte m k v) = true := by
  induction m with
  | nil =>
    simp only [memSetByte]
    split
    · rfl
    · rename_i hv; simp [Memory.wf, hv]
  | cons e m ih =>
    obtain ⟨i, b⟩ := e
    obtain ⟨hb, ha, hw⟩ := Memory.wf_cons.mp h
    simp only [memSetByte]
    split
    · split
      · exact h
      · rename_i hki hv
        refine Memory.wf_cons.mpr ⟨hv, ?_, h⟩
        intro c hc
        rcases List.mem_cons.mp hc with rfl | hc
        · simp; omega
        · have := ha c hc; omega
    · split
      · split
        · exact hw
        · rename_i hki hv
          subst hki
          exact Memory.wf_cons.mpr ⟨hv, ha, hw⟩
      · rename_i h1 h2
        exact Memory.wf_cons.mpr ⟨hb, memSetByte_above v ha (by omega), ih hw⟩

/-- The byte written reads back. -/
theorem memByte_memSetByte {m : Memory} (k : Nat) (v : Byte) (h : Memory.wf m = true) : memByte (memSetByte m k v) k = v := by
  induction m with
  | nil =>
    simp only [memSetByte]
    split
    · rename_i hv; simp [memByte, hv]
    · simp [memByte]
  | cons e m ih =>
    obtain ⟨i, b⟩ := e
    obtain ⟨hb, ha, hw⟩ := Memory.wf_cons.mp h
    simp only [memSetByte]
    split
    · rename_i hki
      split
      · rename_i hv
        have : i ≠ k := by omega
        simp only [memByte, this, if_false, hv]
        exact memByte_below ha (by omega)
      · simp [memByte]
    · split
      · rename_i h1 hki
        subst hki
        split
        · rename_i hv
          rw [hv]
          exact memByte_below ha (by omega)
        · simp [memByte]
      · rename_i h1 h2
        have : i ≠ k := fun e => h2 e.symm
        simp only [memByte, this, if_false]
        exact ih hw

/-- Every other byte reads as before. -/
theorem memByte_memSetByte_ne {m : Memory} {k j : Nat} (v : Byte) (h : j ≠ k) (hw : Memory.wf m = true) :
    memByte (memSetByte m k v) j = memByte m j := by
  induction m with
  | nil =>
    simp only [memSetByte]
    split
    · rfl
    · simp [memByte, h.symm]
  | cons e m ih =>
    obtain ⟨i, b⟩ := e
    obtain ⟨hb, ha, hm⟩ := Memory.wf_cons.mp hw
    simp only [memSetByte]
    split
    · split
      · rfl
      · simp [memByte, h.symm]
    · split
      · rename_i h1 hki
        subst hki
        split
        · simp [memByte, h.symm]
        · simp [memByte, h.symm]
      · simp only [memByte, ih hm]

/-! ## Values of several bytes -/

theorem memWrite_wf {m : Memory} (k n v : Nat) (h : Memory.wf m = true) : Memory.wf (memWrite m k n v) = true := by
  induction n generalizing m k v with
  | zero => exact h
  | succ n ih => exact ih _ _ (memSetByte_wf _ _ h)

theorem memWriteBytes_wf {m : Memory} (k : Nat) (l : List Byte) (h : Memory.wf m = true) : Memory.wf (memWriteBytes m k l) = true := by
  induction l generalizing m k with
  | nil => exact h
  | cons b l ih => exact ih _ (memSetByte_wf _ _ h)

/-- A write leaves every byte outside the bytes written. -/
theorem memByte_memWrite_out {m : Memory} {k n v j : Nat} (h : j < k ∨ k + n ≤ j) (hw : Memory.wf m = true) :
    memByte (memWrite m k n v) j = memByte m j := by
  induction n generalizing m k v with
  | zero => rfl
  | succ n ih =>
    rw [memWrite, ih (by omega) (memSetByte_wf _ _ hw)]
    exact memByte_memSetByte_ne _ (by omega) hw

/-- Byte `i` of the bytes written reads as byte `i` of the value. -/
theorem memByte_memWrite_in {m : Memory} {k n v i : Nat} (h : i < n) (hw : Memory.wf m = true) :
    memByte (memWrite m k n v) (k + i) = BitVec.ofNat 8 (v / 256 ^ i) := by
  induction n generalizing m k v i with
  | zero => omega
  | succ n ih =>
    rw [memWrite]
    cases i with
    | zero =>
      rw [memByte_memWrite_out (by omega) (memSetByte_wf _ _ hw)]
      simpa using memByte_memSetByte k (BitVec.ofNat 8 v) hw
    | succ i =>
      have e : k + (i + 1) = (k + 1) + i := by omega
      rw [e, ih (by omega) (memSetByte_wf _ _ hw), Nat.div_div_eq_div_mul, Nat.pow_succ, Nat.mul_comm]

/-- A read of what was written gives the value's low bytes. -/
theorem memRead_memWrite {m : Memory} (k n v : Nat) (hw : Memory.wf m = true) : memRead (memWrite m k n v) k n = v % 256 ^ n := by
  suffices h : ∀ n (m' : Memory) k v, (∀ i, i < n → memByte m' (k + i) = BitVec.ofNat 8 (v / 256 ^ i)) → memRead m' k n = v % 256 ^ n by
    exact h n _ k v (fun i hi => memByte_memWrite_in hi hw)
  intro n
  induction n with
  | zero => intro m' k v _; simp [memRead, Nat.mod_one]
  | succ n ih =>
    intro m' k v h
    rw [memRead, ih m' (k + 1) (v / 256) (fun i hi => by
      have := h (i + 1) (by omega)
      rw [show k + 1 + i = k + (i + 1) by omega, this, Nat.div_div_eq_div_mul, Nat.pow_succ, Nat.mul_comm])]
    have h0 := h 0 (by omega)
    simp only [Nat.add_zero, Nat.pow_zero, Nat.div_one] at h0
    rw [h0, BitVec.toNat_ofNat, show (2 : Nat) ^ 8 = 256 from rfl, show (256 : Nat) ^ (n + 1) = 256 * 256 ^ n from by
      rw [Nat.pow_succ, Nat.mul_comm], Nat.mod_mul]

/-- A read that a write does not touch gives what it gave. -/
theorem memRead_memWrite_out {m : Memory} {k n v j c : Nat} (h : j + c ≤ k ∨ k + n ≤ j) (hw : Memory.wf m = true) :
    memRead (memWrite m k n v) j c = memRead m j c := by
  induction c generalizing j with
  | zero => rfl
  | succ c ih => rw [memRead, memRead, memByte_memWrite_out (by omega) hw, ih (by omega)]

/-! ## Wiping -/

theorem memWipe_above {m : Memory} {n lo hi : Nat} (h : Memory.above n m) : Memory.above n (memWipe m lo hi) :=
  fun c hc => h c (List.mem_of_mem_filter hc)

theorem memWipe_wf {m : Memory} (lo hi : Nat) (h : Memory.wf m = true) : Memory.wf (memWipe m lo hi) = true := by
  induction m with
  | nil => rfl
  | cons e m ih =>
    obtain ⟨i, b⟩ := e
    obtain ⟨hb, ha, hw⟩ := Memory.wf_cons.mp h
    unfold memWipe
    rw [List.filter_cons]
    split
    · exact Memory.wf_cons.mpr ⟨hb, memWipe_above ha, ih hw⟩
    · exact ih hw

/-- A wiped byte reads as an unlisted address does, and every other byte as before. -/
theorem memByte_memWipe (m : Memory) (lo hi j : Nat) :
    memByte (memWipe m lo hi) j = if lo ≤ j ∧ j < hi then unlistedByte else memByte m j := by
  induction m with
  | nil => simp [memWipe, memByte]
  | cons e m ih =>
    obtain ⟨i, b⟩ := e
    unfold memWipe at ih ⊢
    rw [List.filter_cons]
    split
    · rename_i hk
      simp only [Bool.or_eq_true, decide_eq_true_eq] at hk
      simp only [memByte, ih]
      split
      · rename_i hij
        subst hij
        rw [if_neg (by omega)]
      · rfl
    · rename_i hk
      simp only [Bool.or_eq_true, decide_eq_true_eq, not_or] at hk
      simp only [memByte, ih]
      by_cases hij : i = j
      · subst hij
        rw [if_pos (by omega), if_pos (by omega)]
      · simp [hij]

/-! ## Every operation that changes memory keeps the canonical form -/

theorem memFold_wf {α : Type} (f : Memory → α → Memory) (hf : ∀ m a, Memory.wf m = true → Memory.wf (f m a) = true) (l : List α)
    {m : Memory} (h : Memory.wf m = true) : Memory.wf (l.foldl f m) = true := by
  induction l generalizing m with
  | nil => exact h
  | cons a l ih => exact ih (hf _ _ h)

theorem writeWords_wf (l : List Nat) {m : Memory} (k : Nat) (h : Memory.wf m = true) : Memory.wf (writeWords m k l) = true := by
  induction l generalizing m k with
  | nil => exact h
  | cons v l ih => exact ih _ (memWrite_wf _ _ _ h)

theorem setBits_wf (l : List Nat) {m : Memory} (k : Nat) (h : Memory.wf m = true) : Memory.wf (setBits m k l) = true :=
  memFold_wf _ (fun _ _ hm => memSetByte_wf _ _ hm) l h

theorem State.writeMem_wf (s : State) (k n : Nat) (v : Word) (h : Memory.wf s.mem = true) : Memory.wf (s.writeMem k n v).mem = true :=
  memWrite_wf _ _ _ h

theorem State.writeMemBytes_wf (s : State) (k : Nat) (l : List Byte) (h : Memory.wf s.mem = true) :
    Memory.wf (s.writeMemBytes k l).mem = true := memWriteBytes_wf _ _ h

theorem State.writeLine_wf (s : State) (k : Nat) (v : BitVec 1024) (h : Memory.wf s.mem = true) :
    Memory.wf (s.writeLine k v).mem = true := by
  simp only [State.writeLine]
  exact memWrite_wf _ _ _ h

theorem State.wipeRange_wf (s : State) (lo hi : Nat) (h : Memory.wf s.mem = true) : Memory.wf (s.wipeRange lo hi).mem = true :=
  memWipe_wf _ _ h

theorem copyBytes_wf (cells : List Host.Cell) (src dst n : Nat) {m : Memory} (h : Memory.wf m = true) :
    Memory.wf (cells.foldl (fun (m : Memory) c => memSetByte m (c.1 - src + dst) c.2) (memWipe m dst (dst + n))) = true :=
  memFold_wf _ (fun _ _ hm => memSetByte_wf _ _ hm) cells (memWipe_wf _ _ h)

theorem restoreBytes_wf (l : Memory) {m : Memory} (h : Memory.wf m = true) :
    Memory.wf (l.foldl (fun m c => memSetByte m c.1 c.2) m) = true :=
  memFold_wf _ (fun _ _ hm => memSetByte_wf _ _ hm) l h

/-- The memory at reset is canonical. -/
theorem reset_mem_wf : Memory.wf State.reset.mem = true := rfl

end Sys2Proof.Machine
end

