-- ==== Sys2Proof/Laws/State.lean ====
section
/-! SUPPORT. What each update of the state leaves as it was, field by field, and what it puts in place. -/
namespace Sys2Proof.Machine

@[simp] theorem State.setPart_mem (s : State) (p : PartId) (q : Partition) : (s.setPart p q).mem = s.mem := rfl
@[simp] theorem State.setPart_fe (s : State) (p : PartId) (q : Partition) : (s.setPart p q).fe = s.fe := rfl
@[simp] theorem State.setPart_poison (s : State) (p : PartId) (q : Partition) : (s.setPart p q).poison = s.poison := rfl
@[simp] theorem State.setPart_poisonW (s : State) (p : PartId) (q : Partition) : (s.setPart p q).poisonW = s.poisonW := rfl
@[simp] theorem State.setPart_cycle (s : State) (p : PartId) (q : Partition) : (s.setPart p q).cycle = s.cycle := rfl
@[simp] theorem State.setPart_time (s : State) (p : PartId) (q : Partition) : (s.setPart p q).time = s.time := rfl
@[simp] theorem State.setPart_scan (s : State) (p : PartId) (q : Partition) : (s.setPart p q).scan = s.scan := rfl
@[simp] theorem State.setPart_cur (s : State) (p : PartId) (q : Partition) : (s.setPart p q).cur = s.cur := rfl
@[simp] theorem State.setPart_events (s : State) (p : PartId) (q : Partition) : (s.setPart p q).events = s.events := rfl
@[simp] theorem State.setPart_timers (s : State) (p : PartId) (q : Partition) : (s.setPart p q).timers = s.timers := rfl
@[simp] theorem State.setPart_waiting (s : State) (p : PartId) (q : Partition) : (s.setPart p q).waiting = s.waiting := rfl
@[simp] theorem State.setPart_hwNow (s : State) (p : PartId) (q : Partition) : (s.setPart p q).hwNow = s.hwNow := rfl
@[simp] theorem State.setPart_mtsNow (s : State) (p : PartId) (q : Partition) : (s.setPart p q).mtsNow = s.mtsNow := rfl
@[simp] theorem State.setPart_free (s : State) (p : PartId) (q : Partition) : (s.setPart p q).free = s.free := rfl
@[simp] theorem State.setPart_modid (s : State) (p : PartId) (q : Partition) : (s.setPart p q).modid = s.modid := rfl
@[simp] theorem State.setPart_firmware (s : State) (p : PartId) (q : Partition) : (s.setPart p q).firmware = s.firmware := rfl
@[simp] theorem State.setPart_sessions (s : State) (p : PartId) (q : Partition) : (s.setPart p q).sessions = s.sessions := rfl
@[simp] theorem State.setPart_hostOut (s : State) (p : PartId) (q : Partition) : (s.setPart p q).hostOut = s.hostOut := rfl
@[simp] theorem State.setPart_portOut (s : State) (p : PartId) (q : Partition) : (s.setPart p q).portOut = s.portOut := rfl
@[simp] theorem State.setPart_clockSteps (s : State) (p : PartId) (q : Partition) : (s.setPart p q).clockSteps = s.clockSteps := rfl
@[simp] theorem State.setPart_bringUp (s : State) (p : PartId) (q : Partition) : (s.setPart p q).bringUp = s.bringUp := rfl

@[simp] theorem State.modPart_mem (s : State) (p : PartId) (f : Partition → Partition) : (s.modPart p f).mem = s.mem := rfl
@[simp] theorem State.modPart_fe (s : State) (p : PartId) (f : Partition → Partition) : (s.modPart p f).fe = s.fe := rfl
@[simp] theorem State.modPart_poison (s : State) (p : PartId) (f : Partition → Partition) : (s.modPart p f).poison = s.poison := rfl
@[simp] theorem State.modPart_poisonW (s : State) (p : PartId) (f : Partition → Partition) : (s.modPart p f).poisonW = s.poisonW := rfl
@[simp] theorem State.modPart_cycle (s : State) (p : PartId) (f : Partition → Partition) : (s.modPart p f).cycle = s.cycle := rfl
@[simp] theorem State.modPart_time (s : State) (p : PartId) (f : Partition → Partition) : (s.modPart p f).time = s.time := rfl
@[simp] theorem State.modPart_scan (s : State) (p : PartId) (f : Partition → Partition) : (s.modPart p f).scan = s.scan := rfl
@[simp] theorem State.modPart_cur (s : State) (p : PartId) (f : Partition → Partition) : (s.modPart p f).cur = s.cur := rfl
@[simp] theorem State.modPart_events (s : State) (p : PartId) (f : Partition → Partition) : (s.modPart p f).events = s.events := rfl
@[simp] theorem State.modPart_timers (s : State) (p : PartId) (f : Partition → Partition) : (s.modPart p f).timers = s.timers := rfl
@[simp] theorem State.modPart_waiting (s : State) (p : PartId) (f : Partition → Partition) : (s.modPart p f).waiting = s.waiting := rfl
@[simp] theorem State.modPart_hwNow (s : State) (p : PartId) (f : Partition → Partition) : (s.modPart p f).hwNow = s.hwNow := rfl
@[simp] theorem State.modPart_mtsNow (s : State) (p : PartId) (f : Partition → Partition) : (s.modPart p f).mtsNow = s.mtsNow := rfl
@[simp] theorem State.modPart_free (s : State) (p : PartId) (f : Partition → Partition) : (s.modPart p f).free = s.free := rfl
@[simp] theorem State.modPart_modid (s : State) (p : PartId) (f : Partition → Partition) : (s.modPart p f).modid = s.modid := rfl
@[simp] theorem State.modPart_firmware (s : State) (p : PartId) (f : Partition → Partition) : (s.modPart p f).firmware = s.firmware := rfl
@[simp] theorem State.modPart_sessions (s : State) (p : PartId) (f : Partition → Partition) : (s.modPart p f).sessions = s.sessions := rfl
@[simp] theorem State.modPart_hostOut (s : State) (p : PartId) (f : Partition → Partition) : (s.modPart p f).hostOut = s.hostOut := rfl
@[simp] theorem State.modPart_portOut (s : State) (p : PartId) (f : Partition → Partition) : (s.modPart p f).portOut = s.portOut := rfl
@[simp] theorem State.modPart_clockSteps (s : State) (p : PartId) (f : Partition → Partition) : (s.modPart p f).clockSteps = s.clockSteps := rfl
@[simp] theorem State.modPart_bringUp (s : State) (p : PartId) (f : Partition → Partition) : (s.modPart p f).bringUp = s.bringUp := rfl

@[simp] theorem State.modRegs_mem (s : State) (p : PartId) (f : PRegs → PRegs) : (s.modRegs p f).mem = s.mem := rfl
@[simp] theorem State.modRegs_fe (s : State) (p : PartId) (f : PRegs → PRegs) : (s.modRegs p f).fe = s.fe := rfl
@[simp] theorem State.modRegs_poison (s : State) (p : PartId) (f : PRegs → PRegs) : (s.modRegs p f).poison = s.poison := rfl
@[simp] theorem State.modRegs_poisonW (s : State) (p : PartId) (f : PRegs → PRegs) : (s.modRegs p f).poisonW = s.poisonW := rfl
@[simp] theorem State.modRegs_cycle (s : State) (p : PartId) (f : PRegs → PRegs) : (s.modRegs p f).cycle = s.cycle := rfl
@[simp] theorem State.modRegs_time (s : State) (p : PartId) (f : PRegs → PRegs) : (s.modRegs p f).time = s.time := rfl
@[simp] theorem State.modRegs_scan (s : State) (p : PartId) (f : PRegs → PRegs) : (s.modRegs p f).scan = s.scan := rfl
@[simp] theorem State.modRegs_cur (s : State) (p : PartId) (f : PRegs → PRegs) : (s.modRegs p f).cur = s.cur := rfl
@[simp] theorem State.modRegs_events (s : State) (p : PartId) (f : PRegs → PRegs) : (s.modRegs p f).events = s.events := rfl
@[simp] theorem State.modRegs_timers (s : State) (p : PartId) (f : PRegs → PRegs) : (s.modRegs p f).timers = s.timers := rfl
@[simp] theorem State.modRegs_waiting (s : State) (p : PartId) (f : PRegs → PRegs) : (s.modRegs p f).waiting = s.waiting := rfl
@[simp] theorem State.modRegs_hwNow (s : State) (p : PartId) (f : PRegs → PRegs) : (s.modRegs p f).hwNow = s.hwNow := rfl
@[simp] theorem State.modRegs_mtsNow (s : State) (p : PartId) (f : PRegs → PRegs) : (s.modRegs p f).mtsNow = s.mtsNow := rfl
@[simp] theorem State.modRegs_free (s : State) (p : PartId) (f : PRegs → PRegs) : (s.modRegs p f).free = s.free := rfl
@[simp] theorem State.modRegs_modid (s : State) (p : PartId) (f : PRegs → PRegs) : (s.modRegs p f).modid = s.modid := rfl
@[simp] theorem State.modRegs_firmware (s : State) (p : PartId) (f : PRegs → PRegs) : (s.modRegs p f).firmware = s.firmware := rfl
@[simp] theorem State.modRegs_sessions (s : State) (p : PartId) (f : PRegs → PRegs) : (s.modRegs p f).sessions = s.sessions := rfl
@[simp] theorem State.modRegs_hostOut (s : State) (p : PartId) (f : PRegs → PRegs) : (s.modRegs p f).hostOut = s.hostOut := rfl
@[simp] theorem State.modRegs_portOut (s : State) (p : PartId) (f : PRegs → PRegs) : (s.modRegs p f).portOut = s.portOut := rfl
@[simp] theorem State.modRegs_clockSteps (s : State) (p : PartId) (f : PRegs → PRegs) : (s.modRegs p f).clockSteps = s.clockSteps := rfl
@[simp] theorem State.modRegs_bringUp (s : State) (p : PartId) (f : PRegs → PRegs) : (s.modRegs p f).bringUp = s.bringUp := rfl

@[simp] theorem State.setCore_mem (s : State) (p : PartId) (c : CoreId) (k : Core) : (s.setCore p c k).mem = s.mem := rfl
@[simp] theorem State.setCore_fe (s : State) (p : PartId) (c : CoreId) (k : Core) : (s.setCore p c k).fe = s.fe := rfl
@[simp] theorem State.setCore_poison (s : State) (p : PartId) (c : CoreId) (k : Core) : (s.setCore p c k).poison = s.poison := rfl
@[simp] theorem State.setCore_poisonW (s : State) (p : PartId) (c : CoreId) (k : Core) : (s.setCore p c k).poisonW = s.poisonW := rfl
@[simp] theorem State.setCore_cycle (s : State) (p : PartId) (c : CoreId) (k : Core) : (s.setCore p c k).cycle = s.cycle := rfl
@[simp] theorem State.setCore_time (s : State) (p : PartId) (c : CoreId) (k : Core) : (s.setCore p c k).time = s.time := rfl
@[simp] theorem State.setCore_scan (s : State) (p : PartId) (c : CoreId) (k : Core) : (s.setCore p c k).scan = s.scan := rfl
@[simp] theorem State.setCore_cur (s : State) (p : PartId) (c : CoreId) (k : Core) : (s.setCore p c k).cur = s.cur := rfl
@[simp] theorem State.setCore_events (s : State) (p : PartId) (c : CoreId) (k : Core) : (s.setCore p c k).events = s.events := rfl
@[simp] theorem State.setCore_timers (s : State) (p : PartId) (c : CoreId) (k : Core) : (s.setCore p c k).timers = s.timers := rfl
@[simp] theorem State.setCore_waiting (s : State) (p : PartId) (c : CoreId) (k : Core) : (s.setCore p c k).waiting = s.waiting := rfl
@[simp] theorem State.setCore_hwNow (s : State) (p : PartId) (c : CoreId) (k : Core) : (s.setCore p c k).hwNow = s.hwNow := rfl
@[simp] theorem State.setCore_mtsNow (s : State) (p : PartId) (c : CoreId) (k : Core) : (s.setCore p c k).mtsNow = s.mtsNow := rfl
@[simp] theorem State.setCore_free (s : State) (p : PartId) (c : CoreId) (k : Core) : (s.setCore p c k).free = s.free := rfl
@[simp] theorem State.setCore_modid (s : State) (p : PartId) (c : CoreId) (k : Core) : (s.setCore p c k).modid = s.modid := rfl
@[simp] theorem State.setCore_firmware (s : State) (p : PartId) (c : CoreId) (k : Core) : (s.setCore p c k).firmware = s.firmware := rfl
@[simp] theorem State.setCore_sessions (s : State) (p : PartId) (c : CoreId) (k : Core) : (s.setCore p c k).sessions = s.sessions := rfl
@[simp] theorem State.setCore_hostOut (s : State) (p : PartId) (c : CoreId) (k : Core) : (s.setCore p c k).hostOut = s.hostOut := rfl
@[simp] theorem State.setCore_portOut (s : State) (p : PartId) (c : CoreId) (k : Core) : (s.setCore p c k).portOut = s.portOut := rfl
@[simp] theorem State.setCore_clockSteps (s : State) (p : PartId) (c : CoreId) (k : Core) : (s.setCore p c k).clockSteps = s.clockSteps := rfl
@[simp] theorem State.setCore_bringUp (s : State) (p : PartId) (c : CoreId) (k : Core) : (s.setCore p c k).bringUp = s.bringUp := rfl

@[simp] theorem State.modCoreW_mem (s : State) (p : PartId) (c : CoreId) (f : CoreWorld → CoreWorld) : (s.modCoreW p c f).mem = s.mem := rfl
@[simp] theorem State.modCoreW_fe (s : State) (p : PartId) (c : CoreId) (f : CoreWorld → CoreWorld) : (s.modCoreW p c f).fe = s.fe := rfl
@[simp] theorem State.modCoreW_poison (s : State) (p : PartId) (c : CoreId) (f : CoreWorld → CoreWorld) : (s.modCoreW p c f).poison = s.poison := rfl
@[simp] theorem State.modCoreW_poisonW (s : State) (p : PartId) (c : CoreId) (f : CoreWorld → CoreWorld) : (s.modCoreW p c f).poisonW = s.poisonW := rfl
@[simp] theorem State.modCoreW_cycle (s : State) (p : PartId) (c : CoreId) (f : CoreWorld → CoreWorld) : (s.modCoreW p c f).cycle = s.cycle := rfl
@[simp] theorem State.modCoreW_time (s : State) (p : PartId) (c : CoreId) (f : CoreWorld → CoreWorld) : (s.modCoreW p c f).time = s.time := rfl
@[simp] theorem State.modCoreW_scan (s : State) (p : PartId) (c : CoreId) (f : CoreWorld → CoreWorld) : (s.modCoreW p c f).scan = s.scan := rfl
@[simp] theorem State.modCoreW_cur (s : State) (p : PartId) (c : CoreId) (f : CoreWorld → CoreWorld) : (s.modCoreW p c f).cur = s.cur := rfl
@[simp] theorem State.modCoreW_events (s : State) (p : PartId) (c : CoreId) (f : CoreWorld → CoreWorld) : (s.modCoreW p c f).events = s.events := rfl
@[simp] theorem State.modCoreW_timers (s : State) (p : PartId) (c : CoreId) (f : CoreWorld → CoreWorld) : (s.modCoreW p c f).timers = s.timers := rfl
@[simp] theorem State.modCoreW_waiting (s : State) (p : PartId) (c : CoreId) (f : CoreWorld → CoreWorld) : (s.modCoreW p c f).waiting = s.waiting := rfl
@[simp] theorem State.modCoreW_hwNow (s : State) (p : PartId) (c : CoreId) (f : CoreWorld → CoreWorld) : (s.modCoreW p c f).hwNow = s.hwNow := rfl
@[simp] theorem State.modCoreW_mtsNow (s : State) (p : PartId) (c : CoreId) (f : CoreWorld → CoreWorld) : (s.modCoreW p c f).mtsNow = s.mtsNow := rfl
@[simp] theorem State.modCoreW_free (s : State) (p : PartId) (c : CoreId) (f : CoreWorld → CoreWorld) : (s.modCoreW p c f).free = s.free := rfl
@[simp] theorem State.modCoreW_modid (s : State) (p : PartId) (c : CoreId) (f : CoreWorld → CoreWorld) : (s.modCoreW p c f).modid = s.modid := rfl
@[simp] theorem State.modCoreW_firmware (s : State) (p : PartId) (c : CoreId) (f : CoreWorld → CoreWorld) : (s.modCoreW p c f).firmware = s.firmware := rfl
@[simp] theorem State.modCoreW_sessions (s : State) (p : PartId) (c : CoreId) (f : CoreWorld → CoreWorld) : (s.modCoreW p c f).sessions = s.sessions := rfl
@[simp] theorem State.modCoreW_hostOut (s : State) (p : PartId) (c : CoreId) (f : CoreWorld → CoreWorld) : (s.modCoreW p c f).hostOut = s.hostOut := rfl
@[simp] theorem State.modCoreW_portOut (s : State) (p : PartId) (c : CoreId) (f : CoreWorld → CoreWorld) : (s.modCoreW p c f).portOut = s.portOut := rfl
@[simp] theorem State.modCoreW_clockSteps (s : State) (p : PartId) (c : CoreId) (f : CoreWorld → CoreWorld) : (s.modCoreW p c f).clockSteps = s.clockSteps := rfl
@[simp] theorem State.modCoreW_bringUp (s : State) (p : PartId) (c : CoreId) (f : CoreWorld → CoreWorld) : (s.modCoreW p c f).bringUp = s.bringUp := rfl

@[simp] theorem State.modCoreC_mem (s : State) (p : PartId) (c : CoreId) (f : CoreFixed → CoreFixed) : (s.modCoreC p c f).mem = s.mem := rfl
@[simp] theorem State.modCoreC_fe (s : State) (p : PartId) (c : CoreId) (f : CoreFixed → CoreFixed) : (s.modCoreC p c f).fe = s.fe := rfl
@[simp] theorem State.modCoreC_poison (s : State) (p : PartId) (c : CoreId) (f : CoreFixed → CoreFixed) : (s.modCoreC p c f).poison = s.poison := rfl
@[simp] theorem State.modCoreC_poisonW (s : State) (p : PartId) (c : CoreId) (f : CoreFixed → CoreFixed) : (s.modCoreC p c f).poisonW = s.poisonW := rfl
@[simp] theorem State.modCoreC_cycle (s : State) (p : PartId) (c : CoreId) (f : CoreFixed → CoreFixed) : (s.modCoreC p c f).cycle = s.cycle := rfl
@[simp] theorem State.modCoreC_time (s : State) (p : PartId) (c : CoreId) (f : CoreFixed → CoreFixed) : (s.modCoreC p c f).time = s.time := rfl
@[simp] theorem State.modCoreC_scan (s : State) (p : PartId) (c : CoreId) (f : CoreFixed → CoreFixed) : (s.modCoreC p c f).scan = s.scan := rfl
@[simp] theorem State.modCoreC_cur (s : State) (p : PartId) (c : CoreId) (f : CoreFixed → CoreFixed) : (s.modCoreC p c f).cur = s.cur := rfl
@[simp] theorem State.modCoreC_events (s : State) (p : PartId) (c : CoreId) (f : CoreFixed → CoreFixed) : (s.modCoreC p c f).events = s.events := rfl
@[simp] theorem State.modCoreC_timers (s : State) (p : PartId) (c : CoreId) (f : CoreFixed → CoreFixed) : (s.modCoreC p c f).timers = s.timers := rfl
@[simp] theorem State.modCoreC_waiting (s : State) (p : PartId) (c : CoreId) (f : CoreFixed → CoreFixed) : (s.modCoreC p c f).waiting = s.waiting := rfl
@[simp] theorem State.modCoreC_hwNow (s : State) (p : PartId) (c : CoreId) (f : CoreFixed → CoreFixed) : (s.modCoreC p c f).hwNow = s.hwNow := rfl
@[simp] theorem State.modCoreC_mtsNow (s : State) (p : PartId) (c : CoreId) (f : CoreFixed → CoreFixed) : (s.modCoreC p c f).mtsNow = s.mtsNow := rfl
@[simp] theorem State.modCoreC_free (s : State) (p : PartId) (c : CoreId) (f : CoreFixed → CoreFixed) : (s.modCoreC p c f).free = s.free := rfl
@[simp] theorem State.modCoreC_modid (s : State) (p : PartId) (c : CoreId) (f : CoreFixed → CoreFixed) : (s.modCoreC p c f).modid = s.modid := rfl
@[simp] theorem State.modCoreC_firmware (s : State) (p : PartId) (c : CoreId) (f : CoreFixed → CoreFixed) : (s.modCoreC p c f).firmware = s.firmware := rfl
@[simp] theorem State.modCoreC_sessions (s : State) (p : PartId) (c : CoreId) (f : CoreFixed → CoreFixed) : (s.modCoreC p c f).sessions = s.sessions := rfl
@[simp] theorem State.modCoreC_hostOut (s : State) (p : PartId) (c : CoreId) (f : CoreFixed → CoreFixed) : (s.modCoreC p c f).hostOut = s.hostOut := rfl
@[simp] theorem State.modCoreC_portOut (s : State) (p : PartId) (c : CoreId) (f : CoreFixed → CoreFixed) : (s.modCoreC p c f).portOut = s.portOut := rfl
@[simp] theorem State.modCoreC_clockSteps (s : State) (p : PartId) (c : CoreId) (f : CoreFixed → CoreFixed) : (s.modCoreC p c f).clockSteps = s.clockSteps := rfl
@[simp] theorem State.modCoreC_bringUp (s : State) (p : PartId) (c : CoreId) (f : CoreFixed → CoreFixed) : (s.modCoreC p c f).bringUp = s.bringUp := rfl

@[simp] theorem State.setCluster_mem (s : State) (p : PartId) (k : ClusterId) (c : Cluster) : (s.setCluster p k c).mem = s.mem := rfl
@[simp] theorem State.setCluster_fe (s : State) (p : PartId) (k : ClusterId) (c : Cluster) : (s.setCluster p k c).fe = s.fe := rfl
@[simp] theorem State.setCluster_poison (s : State) (p : PartId) (k : ClusterId) (c : Cluster) : (s.setCluster p k c).poison = s.poison := rfl
@[simp] theorem State.setCluster_poisonW (s : State) (p : PartId) (k : ClusterId) (c : Cluster) : (s.setCluster p k c).poisonW = s.poisonW := rfl
@[simp] theorem State.setCluster_cycle (s : State) (p : PartId) (k : ClusterId) (c : Cluster) : (s.setCluster p k c).cycle = s.cycle := rfl
@[simp] theorem State.setCluster_time (s : State) (p : PartId) (k : ClusterId) (c : Cluster) : (s.setCluster p k c).time = s.time := rfl
@[simp] theorem State.setCluster_scan (s : State) (p : PartId) (k : ClusterId) (c : Cluster) : (s.setCluster p k c).scan = s.scan := rfl
@[simp] theorem State.setCluster_cur (s : State) (p : PartId) (k : ClusterId) (c : Cluster) : (s.setCluster p k c).cur = s.cur := rfl
@[simp] theorem State.setCluster_events (s : State) (p : PartId) (k : ClusterId) (c : Cluster) : (s.setCluster p k c).events = s.events := rfl
@[simp] theorem State.setCluster_timers (s : State) (p : PartId) (k : ClusterId) (c : Cluster) : (s.setCluster p k c).timers = s.timers := rfl
@[simp] theorem State.setCluster_waiting (s : State) (p : PartId) (k : ClusterId) (c : Cluster) : (s.setCluster p k c).waiting = s.waiting := rfl
@[simp] theorem State.setCluster_hwNow (s : State) (p : PartId) (k : ClusterId) (c : Cluster) : (s.setCluster p k c).hwNow = s.hwNow := rfl
@[simp] theorem State.setCluster_mtsNow (s : State) (p : PartId) (k : ClusterId) (c : Cluster) : (s.setCluster p k c).mtsNow = s.mtsNow := rfl
@[simp] theorem State.setCluster_free (s : State) (p : PartId) (k : ClusterId) (c : Cluster) : (s.setCluster p k c).free = s.free := rfl
@[simp] theorem State.setCluster_modid (s : State) (p : PartId) (k : ClusterId) (c : Cluster) : (s.setCluster p k c).modid = s.modid := rfl
@[simp] theorem State.setCluster_firmware (s : State) (p : PartId) (k : ClusterId) (c : Cluster) : (s.setCluster p k c).firmware = s.firmware := rfl
@[simp] theorem State.setCluster_sessions (s : State) (p : PartId) (k : ClusterId) (c : Cluster) : (s.setCluster p k c).sessions = s.sessions := rfl
@[simp] theorem State.setCluster_hostOut (s : State) (p : PartId) (k : ClusterId) (c : Cluster) : (s.setCluster p k c).hostOut = s.hostOut := rfl
@[simp] theorem State.setCluster_portOut (s : State) (p : PartId) (k : ClusterId) (c : Cluster) : (s.setCluster p k c).portOut = s.portOut := rfl
@[simp] theorem State.setCluster_clockSteps (s : State) (p : PartId) (k : ClusterId) (c : Cluster) : (s.setCluster p k c).clockSteps = s.clockSteps := rfl
@[simp] theorem State.setCluster_bringUp (s : State) (p : PartId) (k : ClusterId) (c : Cluster) : (s.setCluster p k c).bringUp = s.bringUp := rfl

@[simp] theorem State.modClusterW_mem (s : State) (p : PartId) (k : ClusterId) (f : ClusterWorld → ClusterWorld) : (s.modClusterW p k f).mem = s.mem := rfl
@[simp] theorem State.modClusterW_fe (s : State) (p : PartId) (k : ClusterId) (f : ClusterWorld → ClusterWorld) : (s.modClusterW p k f).fe = s.fe := rfl
@[simp] theorem State.modClusterW_poison (s : State) (p : PartId) (k : ClusterId) (f : ClusterWorld → ClusterWorld) : (s.modClusterW p k f).poison = s.poison := rfl
@[simp] theorem State.modClusterW_poisonW (s : State) (p : PartId) (k : ClusterId) (f : ClusterWorld → ClusterWorld) : (s.modClusterW p k f).poisonW = s.poisonW := rfl
@[simp] theorem State.modClusterW_cycle (s : State) (p : PartId) (k : ClusterId) (f : ClusterWorld → ClusterWorld) : (s.modClusterW p k f).cycle = s.cycle := rfl
@[simp] theorem State.modClusterW_time (s : State) (p : PartId) (k : ClusterId) (f : ClusterWorld → ClusterWorld) : (s.modClusterW p k f).time = s.time := rfl
@[simp] theorem State.modClusterW_scan (s : State) (p : PartId) (k : ClusterId) (f : ClusterWorld → ClusterWorld) : (s.modClusterW p k f).scan = s.scan := rfl
@[simp] theorem State.modClusterW_cur (s : State) (p : PartId) (k : ClusterId) (f : ClusterWorld → ClusterWorld) : (s.modClusterW p k f).cur = s.cur := rfl
@[simp] theorem State.modClusterW_events (s : State) (p : PartId) (k : ClusterId) (f : ClusterWorld → ClusterWorld) : (s.modClusterW p k f).events = s.events := rfl
@[simp] theorem State.modClusterW_timers (s : State) (p : PartId) (k : ClusterId) (f : ClusterWorld → ClusterWorld) : (s.modClusterW p k f).timers = s.timers := rfl
@[simp] theorem State.modClusterW_waiting (s : State) (p : PartId) (k : ClusterId) (f : ClusterWorld → ClusterWorld) : (s.modClusterW p k f).waiting = s.waiting := rfl
@[simp] theorem State.modClusterW_hwNow (s : State) (p : PartId) (k : ClusterId) (f : ClusterWorld → ClusterWorld) : (s.modClusterW p k f).hwNow = s.hwNow := rfl
@[simp] theorem State.modClusterW_mtsNow (s : State) (p : PartId) (k : ClusterId) (f : ClusterWorld → ClusterWorld) : (s.modClusterW p k f).mtsNow = s.mtsNow := rfl
@[simp] theorem State.modClusterW_free (s : State) (p : PartId) (k : ClusterId) (f : ClusterWorld → ClusterWorld) : (s.modClusterW p k f).free = s.free := rfl
@[simp] theorem State.modClusterW_modid (s : State) (p : PartId) (k : ClusterId) (f : ClusterWorld → ClusterWorld) : (s.modClusterW p k f).modid = s.modid := rfl
@[simp] theorem State.modClusterW_firmware (s : State) (p : PartId) (k : ClusterId) (f : ClusterWorld → ClusterWorld) : (s.modClusterW p k f).firmware = s.firmware := rfl
@[simp] theorem State.modClusterW_sessions (s : State) (p : PartId) (k : ClusterId) (f : ClusterWorld → ClusterWorld) : (s.modClusterW p k f).sessions = s.sessions := rfl
@[simp] theorem State.modClusterW_hostOut (s : State) (p : PartId) (k : ClusterId) (f : ClusterWorld → ClusterWorld) : (s.modClusterW p k f).hostOut = s.hostOut := rfl
@[simp] theorem State.modClusterW_portOut (s : State) (p : PartId) (k : ClusterId) (f : ClusterWorld → ClusterWorld) : (s.modClusterW p k f).portOut = s.portOut := rfl
@[simp] theorem State.modClusterW_clockSteps (s : State) (p : PartId) (k : ClusterId) (f : ClusterWorld → ClusterWorld) : (s.modClusterW p k f).clockSteps = s.clockSteps := rfl
@[simp] theorem State.modClusterW_bringUp (s : State) (p : PartId) (k : ClusterId) (f : ClusterWorld → ClusterWorld) : (s.modClusterW p k f).bringUp = s.bringUp := rfl

@[simp] theorem State.setSlot_mem (s : State) (r : TRef) (x : Slot) : (s.setSlot r x).mem = s.mem := rfl
@[simp] theorem State.setSlot_fe (s : State) (r : TRef) (x : Slot) : (s.setSlot r x).fe = s.fe := rfl
@[simp] theorem State.setSlot_poison (s : State) (r : TRef) (x : Slot) : (s.setSlot r x).poison = s.poison := rfl
@[simp] theorem State.setSlot_poisonW (s : State) (r : TRef) (x : Slot) : (s.setSlot r x).poisonW = s.poisonW := rfl
@[simp] theorem State.setSlot_cycle (s : State) (r : TRef) (x : Slot) : (s.setSlot r x).cycle = s.cycle := rfl
@[simp] theorem State.setSlot_time (s : State) (r : TRef) (x : Slot) : (s.setSlot r x).time = s.time := rfl
@[simp] theorem State.setSlot_scan (s : State) (r : TRef) (x : Slot) : (s.setSlot r x).scan = s.scan := rfl
@[simp] theorem State.setSlot_cur (s : State) (r : TRef) (x : Slot) : (s.setSlot r x).cur = s.cur := rfl
@[simp] theorem State.setSlot_events (s : State) (r : TRef) (x : Slot) : (s.setSlot r x).events = s.events := rfl
@[simp] theorem State.setSlot_timers (s : State) (r : TRef) (x : Slot) : (s.setSlot r x).timers = s.timers := rfl
@[simp] theorem State.setSlot_waiting (s : State) (r : TRef) (x : Slot) : (s.setSlot r x).waiting = s.waiting := rfl
@[simp] theorem State.setSlot_hwNow (s : State) (r : TRef) (x : Slot) : (s.setSlot r x).hwNow = s.hwNow := rfl
@[simp] theorem State.setSlot_mtsNow (s : State) (r : TRef) (x : Slot) : (s.setSlot r x).mtsNow = s.mtsNow := rfl
@[simp] theorem State.setSlot_free (s : State) (r : TRef) (x : Slot) : (s.setSlot r x).free = s.free := rfl
@[simp] theorem State.setSlot_modid (s : State) (r : TRef) (x : Slot) : (s.setSlot r x).modid = s.modid := rfl
@[simp] theorem State.setSlot_firmware (s : State) (r : TRef) (x : Slot) : (s.setSlot r x).firmware = s.firmware := rfl
@[simp] theorem State.setSlot_sessions (s : State) (r : TRef) (x : Slot) : (s.setSlot r x).sessions = s.sessions := rfl
@[simp] theorem State.setSlot_hostOut (s : State) (r : TRef) (x : Slot) : (s.setSlot r x).hostOut = s.hostOut := rfl
@[simp] theorem State.setSlot_portOut (s : State) (r : TRef) (x : Slot) : (s.setSlot r x).portOut = s.portOut := rfl
@[simp] theorem State.setSlot_clockSteps (s : State) (r : TRef) (x : Slot) : (s.setSlot r x).clockSteps = s.clockSteps := rfl
@[simp] theorem State.setSlot_bringUp (s : State) (r : TRef) (x : Slot) : (s.setSlot r x).bringUp = s.bringUp := rfl

@[simp] theorem State.clearSlot_mem (s : State) (r : TRef) : (s.clearSlot r).mem = s.mem := rfl
@[simp] theorem State.clearSlot_fe (s : State) (r : TRef) : (s.clearSlot r).fe = s.fe := rfl
@[simp] theorem State.clearSlot_poison (s : State) (r : TRef) : (s.clearSlot r).poison = s.poison := rfl
@[simp] theorem State.clearSlot_poisonW (s : State) (r : TRef) : (s.clearSlot r).poisonW = s.poisonW := rfl
@[simp] theorem State.clearSlot_cycle (s : State) (r : TRef) : (s.clearSlot r).cycle = s.cycle := rfl
@[simp] theorem State.clearSlot_time (s : State) (r : TRef) : (s.clearSlot r).time = s.time := rfl
@[simp] theorem State.clearSlot_scan (s : State) (r : TRef) : (s.clearSlot r).scan = s.scan := rfl
@[simp] theorem State.clearSlot_cur (s : State) (r : TRef) : (s.clearSlot r).cur = s.cur := rfl
@[simp] theorem State.clearSlot_events (s : State) (r : TRef) : (s.clearSlot r).events = s.events := rfl
@[simp] theorem State.clearSlot_timers (s : State) (r : TRef) : (s.clearSlot r).timers = s.timers := rfl
@[simp] theorem State.clearSlot_waiting (s : State) (r : TRef) : (s.clearSlot r).waiting = s.waiting := rfl
@[simp] theorem State.clearSlot_hwNow (s : State) (r : TRef) : (s.clearSlot r).hwNow = s.hwNow := rfl
@[simp] theorem State.clearSlot_mtsNow (s : State) (r : TRef) : (s.clearSlot r).mtsNow = s.mtsNow := rfl
@[simp] theorem State.clearSlot_free (s : State) (r : TRef) : (s.clearSlot r).free = s.free := rfl
@[simp] theorem State.clearSlot_modid (s : State) (r : TRef) : (s.clearSlot r).modid = s.modid := rfl
@[simp] theorem State.clearSlot_firmware (s : State) (r : TRef) : (s.clearSlot r).firmware = s.firmware := rfl
@[simp] theorem State.clearSlot_sessions (s : State) (r : TRef) : (s.clearSlot r).sessions = s.sessions := rfl
@[simp] theorem State.clearSlot_hostOut (s : State) (r : TRef) : (s.clearSlot r).hostOut = s.hostOut := rfl
@[simp] theorem State.clearSlot_portOut (s : State) (r : TRef) : (s.clearSlot r).portOut = s.portOut := rfl
@[simp] theorem State.clearSlot_clockSteps (s : State) (r : TRef) : (s.clearSlot r).clockSteps = s.clockSteps := rfl
@[simp] theorem State.clearSlot_bringUp (s : State) (r : TRef) : (s.clearSlot r).bringUp = s.bringUp := rfl

@[simp] theorem State.setThread_mem (s : State) (r : TRef) (t : Thread) : (s.setThread r t).mem = s.mem := rfl
@[simp] theorem State.setThread_fe (s : State) (r : TRef) (t : Thread) : (s.setThread r t).fe = s.fe := rfl
@[simp] theorem State.setThread_poison (s : State) (r : TRef) (t : Thread) : (s.setThread r t).poison = s.poison := rfl
@[simp] theorem State.setThread_poisonW (s : State) (r : TRef) (t : Thread) : (s.setThread r t).poisonW = s.poisonW := rfl
@[simp] theorem State.setThread_cycle (s : State) (r : TRef) (t : Thread) : (s.setThread r t).cycle = s.cycle := rfl
@[simp] theorem State.setThread_time (s : State) (r : TRef) (t : Thread) : (s.setThread r t).time = s.time := rfl
@[simp] theorem State.setThread_scan (s : State) (r : TRef) (t : Thread) : (s.setThread r t).scan = s.scan := rfl
@[simp] theorem State.setThread_cur (s : State) (r : TRef) (t : Thread) : (s.setThread r t).cur = s.cur := rfl
@[simp] theorem State.setThread_events (s : State) (r : TRef) (t : Thread) : (s.setThread r t).events = s.events := rfl
@[simp] theorem State.setThread_timers (s : State) (r : TRef) (t : Thread) : (s.setThread r t).timers = s.timers := rfl
@[simp] theorem State.setThread_waiting (s : State) (r : TRef) (t : Thread) : (s.setThread r t).waiting = s.waiting := rfl
@[simp] theorem State.setThread_hwNow (s : State) (r : TRef) (t : Thread) : (s.setThread r t).hwNow = s.hwNow := rfl
@[simp] theorem State.setThread_mtsNow (s : State) (r : TRef) (t : Thread) : (s.setThread r t).mtsNow = s.mtsNow := rfl
@[simp] theorem State.setThread_free (s : State) (r : TRef) (t : Thread) : (s.setThread r t).free = s.free := rfl
@[simp] theorem State.setThread_modid (s : State) (r : TRef) (t : Thread) : (s.setThread r t).modid = s.modid := rfl
@[simp] theorem State.setThread_firmware (s : State) (r : TRef) (t : Thread) : (s.setThread r t).firmware = s.firmware := rfl
@[simp] theorem State.setThread_sessions (s : State) (r : TRef) (t : Thread) : (s.setThread r t).sessions = s.sessions := rfl
@[simp] theorem State.setThread_hostOut (s : State) (r : TRef) (t : Thread) : (s.setThread r t).hostOut = s.hostOut := rfl
@[simp] theorem State.setThread_portOut (s : State) (r : TRef) (t : Thread) : (s.setThread r t).portOut = s.portOut := rfl
@[simp] theorem State.setThread_clockSteps (s : State) (r : TRef) (t : Thread) : (s.setThread r t).clockSteps = s.clockSteps := rfl
@[simp] theorem State.setThread_bringUp (s : State) (r : TRef) (t : Thread) : (s.setThread r t).bringUp = s.bringUp := rfl

@[simp] theorem State.modThread_mem (s : State) (r : TRef) (g : Thread → Thread) : (s.modThread r g).mem = s.mem := by
  unfold State.modThread; split <;> rfl
@[simp] theorem State.modThread_fe (s : State) (r : TRef) (g : Thread → Thread) : (s.modThread r g).fe = s.fe := by
  unfold State.modThread; split <;> rfl
@[simp] theorem State.modThread_poison (s : State) (r : TRef) (g : Thread → Thread) : (s.modThread r g).poison = s.poison := by
  unfold State.modThread; split <;> rfl
@[simp] theorem State.modThread_poisonW (s : State) (r : TRef) (g : Thread → Thread) : (s.modThread r g).poisonW = s.poisonW := by
  unfold State.modThread; split <;> rfl
@[simp] theorem State.modThread_cycle (s : State) (r : TRef) (g : Thread → Thread) : (s.modThread r g).cycle = s.cycle := by
  unfold State.modThread; split <;> rfl
@[simp] theorem State.modThread_time (s : State) (r : TRef) (g : Thread → Thread) : (s.modThread r g).time = s.time := by
  unfold State.modThread; split <;> rfl
@[simp] theorem State.modThread_scan (s : State) (r : TRef) (g : Thread → Thread) : (s.modThread r g).scan = s.scan := by
  unfold State.modThread; split <;> rfl
@[simp] theorem State.modThread_cur (s : State) (r : TRef) (g : Thread → Thread) : (s.modThread r g).cur = s.cur := by
  unfold State.modThread; split <;> rfl
@[simp] theorem State.modThread_events (s : State) (r : TRef) (g : Thread → Thread) : (s.modThread r g).events = s.events := by
  unfold State.modThread; split <;> rfl
@[simp] theorem State.modThread_timers (s : State) (r : TRef) (g : Thread → Thread) : (s.modThread r g).timers = s.timers := by
  unfold State.modThread; split <;> rfl
@[simp] theorem State.modThread_waiting (s : State) (r : TRef) (g : Thread → Thread) : (s.modThread r g).waiting = s.waiting := by
  unfold State.modThread; split <;> rfl
@[simp] theorem State.modThread_hwNow (s : State) (r : TRef) (g : Thread → Thread) : (s.modThread r g).hwNow = s.hwNow := by
  unfold State.modThread; split <;> rfl
@[simp] theorem State.modThread_mtsNow (s : State) (r : TRef) (g : Thread → Thread) : (s.modThread r g).mtsNow = s.mtsNow := by
  unfold State.modThread; split <;> rfl
@[simp] theorem State.modThread_free (s : State) (r : TRef) (g : Thread → Thread) : (s.modThread r g).free = s.free := by
  unfold State.modThread; split <;> rfl
@[simp] theorem State.modThread_modid (s : State) (r : TRef) (g : Thread → Thread) : (s.modThread r g).modid = s.modid := by
  unfold State.modThread; split <;> rfl
@[simp] theorem State.modThread_firmware (s : State) (r : TRef) (g : Thread → Thread) : (s.modThread r g).firmware = s.firmware := by
  unfold State.modThread; split <;> rfl
@[simp] theorem State.modThread_sessions (s : State) (r : TRef) (g : Thread → Thread) : (s.modThread r g).sessions = s.sessions := by
  unfold State.modThread; split <;> rfl
@[simp] theorem State.modThread_hostOut (s : State) (r : TRef) (g : Thread → Thread) : (s.modThread r g).hostOut = s.hostOut := by
  unfold State.modThread; split <;> rfl
@[simp] theorem State.modThread_portOut (s : State) (r : TRef) (g : Thread → Thread) : (s.modThread r g).portOut = s.portOut := by
  unfold State.modThread; split <;> rfl
@[simp] theorem State.modThread_clockSteps (s : State) (r : TRef) (g : Thread → Thread) : (s.modThread r g).clockSteps = s.clockSteps := by
  unfold State.modThread; split <;> rfl
@[simp] theorem State.modThread_bringUp (s : State) (r : TRef) (g : Thread → Thread) : (s.modThread r g).bringUp = s.bringUp := by
  unfold State.modThread; split <;> rfl

@[simp] theorem State.push_mem (s : State) (i : Instr) : (s.push i).mem = s.mem := rfl
@[simp] theorem State.push_fe (s : State) (i : Instr) : (s.push i).fe = s.fe := rfl
@[simp] theorem State.push_poison (s : State) (i : Instr) : (s.push i).poison = s.poison := rfl
@[simp] theorem State.push_poisonW (s : State) (i : Instr) : (s.push i).poisonW = s.poisonW := rfl
@[simp] theorem State.push_cycle (s : State) (i : Instr) : (s.push i).cycle = s.cycle := rfl
@[simp] theorem State.push_time (s : State) (i : Instr) : (s.push i).time = s.time := rfl
@[simp] theorem State.push_scan (s : State) (i : Instr) : (s.push i).scan = s.scan := rfl
@[simp] theorem State.push_cur (s : State) (i : Instr) : (s.push i).cur = s.cur := rfl
@[simp] theorem State.push_timers (s : State) (i : Instr) : (s.push i).timers = s.timers := rfl
@[simp] theorem State.push_waiting (s : State) (i : Instr) : (s.push i).waiting = s.waiting := rfl
@[simp] theorem State.push_hwNow (s : State) (i : Instr) : (s.push i).hwNow = s.hwNow := rfl
@[simp] theorem State.push_mtsNow (s : State) (i : Instr) : (s.push i).mtsNow = s.mtsNow := rfl
@[simp] theorem State.push_free (s : State) (i : Instr) : (s.push i).free = s.free := rfl
@[simp] theorem State.push_modid (s : State) (i : Instr) : (s.push i).modid = s.modid := rfl
@[simp] theorem State.push_firmware (s : State) (i : Instr) : (s.push i).firmware = s.firmware := rfl
@[simp] theorem State.push_sessions (s : State) (i : Instr) : (s.push i).sessions = s.sessions := rfl
@[simp] theorem State.push_hostOut (s : State) (i : Instr) : (s.push i).hostOut = s.hostOut := rfl
@[simp] theorem State.push_portOut (s : State) (i : Instr) : (s.push i).portOut = s.portOut := rfl
@[simp] theorem State.push_clockSteps (s : State) (i : Instr) : (s.push i).clockSteps = s.clockSteps := rfl
@[simp] theorem State.push_bringUp (s : State) (i : Instr) : (s.push i).bringUp = s.bringUp := rfl
@[simp] theorem State.push_parts (s : State) (i : Instr) : (s.push i).parts = s.parts := rfl
@[simp] theorem State.pushAll_mem (s : State) (l : List Instr) : (s.pushAll l).mem = s.mem := rfl
@[simp] theorem State.pushAll_fe (s : State) (l : List Instr) : (s.pushAll l).fe = s.fe := rfl
@[simp] theorem State.pushAll_poison (s : State) (l : List Instr) : (s.pushAll l).poison = s.poison := rfl
@[simp] theorem State.pushAll_poisonW (s : State) (l : List Instr) : (s.pushAll l).poisonW = s.poisonW := rfl
@[simp] theorem State.pushAll_cycle (s : State) (l : List Instr) : (s.pushAll l).cycle = s.cycle := rfl
@[simp] theorem State.pushAll_time (s : State) (l : List Instr) : (s.pushAll l).time = s.time := rfl
@[simp] theorem State.pushAll_scan (s : State) (l : List Instr) : (s.pushAll l).scan = s.scan := rfl
@[simp] theorem State.pushAll_cur (s : State) (l : List Instr) : (s.pushAll l).cur = s.cur := rfl
@[simp] theorem State.pushAll_timers (s : State) (l : List Instr) : (s.pushAll l).timers = s.timers := rfl
@[simp] theorem State.pushAll_waiting (s : State) (l : List Instr) : (s.pushAll l).waiting = s.waiting := rfl
@[simp] theorem State.pushAll_hwNow (s : State) (l : List Instr) : (s.pushAll l).hwNow = s.hwNow := rfl
@[simp] theorem State.pushAll_mtsNow (s : State) (l : List Instr) : (s.pushAll l).mtsNow = s.mtsNow := rfl
@[simp] theorem State.pushAll_free (s : State) (l : List Instr) : (s.pushAll l).free = s.free := rfl
@[simp] theorem State.pushAll_modid (s : State) (l : List Instr) : (s.pushAll l).modid = s.modid := rfl
@[simp] theorem State.pushAll_firmware (s : State) (l : List Instr) : (s.pushAll l).firmware = s.firmware := rfl
@[simp] theorem State.pushAll_sessions (s : State) (l : List Instr) : (s.pushAll l).sessions = s.sessions := rfl
@[simp] theorem State.pushAll_hostOut (s : State) (l : List Instr) : (s.pushAll l).hostOut = s.hostOut := rfl
@[simp] theorem State.pushAll_portOut (s : State) (l : List Instr) : (s.pushAll l).portOut = s.portOut := rfl
@[simp] theorem State.pushAll_clockSteps (s : State) (l : List Instr) : (s.pushAll l).clockSteps = s.clockSteps := rfl
@[simp] theorem State.pushAll_bringUp (s : State) (l : List Instr) : (s.pushAll l).bringUp = s.bringUp := rfl
@[simp] theorem State.pushAll_parts (s : State) (l : List Instr) : (s.pushAll l).parts = s.parts := rfl
@[simp] theorem State.after_mem (s : State) (n : Nat) (i : Instr) : (s.after n i).mem = s.mem := rfl
@[simp] theorem State.after_fe (s : State) (n : Nat) (i : Instr) : (s.after n i).fe = s.fe := rfl
@[simp] theorem State.after_poison (s : State) (n : Nat) (i : Instr) : (s.after n i).poison = s.poison := rfl
@[simp] theorem State.after_poisonW (s : State) (n : Nat) (i : Instr) : (s.after n i).poisonW = s.poisonW := rfl
@[simp] theorem State.after_cycle (s : State) (n : Nat) (i : Instr) : (s.after n i).cycle = s.cycle := rfl
@[simp] theorem State.after_time (s : State) (n : Nat) (i : Instr) : (s.after n i).time = s.time := rfl
@[simp] theorem State.after_scan (s : State) (n : Nat) (i : Instr) : (s.after n i).scan = s.scan := rfl
@[simp] theorem State.after_cur (s : State) (n : Nat) (i : Instr) : (s.after n i).cur = s.cur := rfl
@[simp] theorem State.after_events (s : State) (n : Nat) (i : Instr) : (s.after n i).events = s.events := rfl
@[simp] theorem State.after_waiting (s : State) (n : Nat) (i : Instr) : (s.after n i).waiting = s.waiting := rfl
@[simp] theorem State.after_hwNow (s : State) (n : Nat) (i : Instr) : (s.after n i).hwNow = s.hwNow := rfl
@[simp] theorem State.after_mtsNow (s : State) (n : Nat) (i : Instr) : (s.after n i).mtsNow = s.mtsNow := rfl
@[simp] theorem State.after_free (s : State) (n : Nat) (i : Instr) : (s.after n i).free = s.free := rfl
@[simp] theorem State.after_modid (s : State) (n : Nat) (i : Instr) : (s.after n i).modid = s.modid := rfl
@[simp] theorem State.after_firmware (s : State) (n : Nat) (i : Instr) : (s.after n i).firmware = s.firmware := rfl
@[simp] theorem State.after_sessions (s : State) (n : Nat) (i : Instr) : (s.after n i).sessions = s.sessions := rfl
@[simp] theorem State.after_hostOut (s : State) (n : Nat) (i : Instr) : (s.after n i).hostOut = s.hostOut := rfl
@[simp] theorem State.after_portOut (s : State) (n : Nat) (i : Instr) : (s.after n i).portOut = s.portOut := rfl
@[simp] theorem State.after_clockSteps (s : State) (n : Nat) (i : Instr) : (s.after n i).clockSteps = s.clockSteps := rfl
@[simp] theorem State.after_bringUp (s : State) (n : Nat) (i : Instr) : (s.after n i).bringUp = s.bringUp := rfl
@[simp] theorem State.after_parts (s : State) (n : Nat) (i : Instr) : (s.after n i).parts = s.parts := rfl

@[simp] theorem State.holdBack_mem (s : State) (i : Instr) : (s.holdBack i).mem = s.mem := rfl
@[simp] theorem State.holdBack_fe (s : State) (i : Instr) : (s.holdBack i).fe = s.fe := rfl
@[simp] theorem State.holdBack_poison (s : State) (i : Instr) : (s.holdBack i).poison = s.poison := rfl
@[simp] theorem State.holdBack_poisonW (s : State) (i : Instr) : (s.holdBack i).poisonW = s.poisonW := rfl
@[simp] theorem State.holdBack_cycle (s : State) (i : Instr) : (s.holdBack i).cycle = s.cycle := rfl
@[simp] theorem State.holdBack_time (s : State) (i : Instr) : (s.holdBack i).time = s.time := rfl
@[simp] theorem State.holdBack_scan (s : State) (i : Instr) : (s.holdBack i).scan = s.scan := rfl
@[simp] theorem State.holdBack_cur (s : State) (i : Instr) : (s.holdBack i).cur = s.cur := rfl
@[simp] theorem State.holdBack_events (s : State) (i : Instr) : (s.holdBack i).events = s.events := rfl
@[simp] theorem State.holdBack_timers (s : State) (i : Instr) : (s.holdBack i).timers = s.timers := rfl
@[simp] theorem State.holdBack_hwNow (s : State) (i : Instr) : (s.holdBack i).hwNow = s.hwNow := rfl
@[simp] theorem State.holdBack_mtsNow (s : State) (i : Instr) : (s.holdBack i).mtsNow = s.mtsNow := rfl
@[simp] theorem State.holdBack_free (s : State) (i : Instr) : (s.holdBack i).free = s.free := rfl
@[simp] theorem State.holdBack_modid (s : State) (i : Instr) : (s.holdBack i).modid = s.modid := rfl
@[simp] theorem State.holdBack_firmware (s : State) (i : Instr) : (s.holdBack i).firmware = s.firmware := rfl
@[simp] theorem State.holdBack_sessions (s : State) (i : Instr) : (s.holdBack i).sessions = s.sessions := rfl
@[simp] theorem State.holdBack_hostOut (s : State) (i : Instr) : (s.holdBack i).hostOut = s.hostOut := rfl
@[simp] theorem State.holdBack_portOut (s : State) (i : Instr) : (s.holdBack i).portOut = s.portOut := rfl
@[simp] theorem State.holdBack_clockSteps (s : State) (i : Instr) : (s.holdBack i).clockSteps = s.clockSteps := rfl
@[simp] theorem State.holdBack_bringUp (s : State) (i : Instr) : (s.holdBack i).bringUp = s.bringUp := rfl
@[simp] theorem State.holdBack_parts (s : State) (i : Instr) : (s.holdBack i).parts = s.parts := rfl

@[simp] theorem State.hwSet_mem (s : State) (p : PartId) (c : CoreId) (x : SysReg) (b : Nat) : (s.hwSet p c x b).mem = s.mem := rfl
@[simp] theorem State.hwSet_fe (s : State) (p : PartId) (c : CoreId) (x : SysReg) (b : Nat) : (s.hwSet p c x b).fe = s.fe := rfl
@[simp] theorem State.hwSet_poison (s : State) (p : PartId) (c : CoreId) (x : SysReg) (b : Nat) : (s.hwSet p c x b).poison = s.poison := rfl
@[simp] theorem State.hwSet_poisonW (s : State) (p : PartId) (c : CoreId) (x : SysReg) (b : Nat) : (s.hwSet p c x b).poisonW = s.poisonW := rfl
@[simp] theorem State.hwSet_cycle (s : State) (p : PartId) (c : CoreId) (x : SysReg) (b : Nat) : (s.hwSet p c x b).cycle = s.cycle := rfl
@[simp] theorem State.hwSet_time (s : State) (p : PartId) (c : CoreId) (x : SysReg) (b : Nat) : (s.hwSet p c x b).time = s.time := rfl
@[simp] theorem State.hwSet_scan (s : State) (p : PartId) (c : CoreId) (x : SysReg) (b : Nat) : (s.hwSet p c x b).scan = s.scan := rfl
@[simp] theorem State.hwSet_cur (s : State) (p : PartId) (c : CoreId) (x : SysReg) (b : Nat) : (s.hwSet p c x b).cur = s.cur := rfl
@[simp] theorem State.hwSet_events (s : State) (p : PartId) (c : CoreId) (x : SysReg) (b : Nat) : (s.hwSet p c x b).events = s.events := rfl
@[simp] theorem State.hwSet_timers (s : State) (p : PartId) (c : CoreId) (x : SysReg) (b : Nat) : (s.hwSet p c x b).timers = s.timers := rfl
@[simp] theorem State.hwSet_waiting (s : State) (p : PartId) (c : CoreId) (x : SysReg) (b : Nat) : (s.hwSet p c x b).waiting = s.waiting := rfl
@[simp] theorem State.hwSet_mtsNow (s : State) (p : PartId) (c : CoreId) (x : SysReg) (b : Nat) : (s.hwSet p c x b).mtsNow = s.mtsNow := rfl
@[simp] theorem State.hwSet_free (s : State) (p : PartId) (c : CoreId) (x : SysReg) (b : Nat) : (s.hwSet p c x b).free = s.free := rfl
@[simp] theorem State.hwSet_modid (s : State) (p : PartId) (c : CoreId) (x : SysReg) (b : Nat) : (s.hwSet p c x b).modid = s.modid := rfl
@[simp] theorem State.hwSet_firmware (s : State) (p : PartId) (c : CoreId) (x : SysReg) (b : Nat) : (s.hwSet p c x b).firmware = s.firmware := rfl
@[simp] theorem State.hwSet_sessions (s : State) (p : PartId) (c : CoreId) (x : SysReg) (b : Nat) : (s.hwSet p c x b).sessions = s.sessions := rfl
@[simp] theorem State.hwSet_hostOut (s : State) (p : PartId) (c : CoreId) (x : SysReg) (b : Nat) : (s.hwSet p c x b).hostOut = s.hostOut := rfl
@[simp] theorem State.hwSet_portOut (s : State) (p : PartId) (c : CoreId) (x : SysReg) (b : Nat) : (s.hwSet p c x b).portOut = s.portOut := rfl
@[simp] theorem State.hwSet_clockSteps (s : State) (p : PartId) (c : CoreId) (x : SysReg) (b : Nat) : (s.hwSet p c x b).clockSteps = s.clockSteps := rfl
@[simp] theorem State.hwSet_bringUp (s : State) (p : PartId) (c : CoreId) (x : SysReg) (b : Nat) : (s.hwSet p c x b).bringUp = s.bringUp := rfl
@[simp] theorem State.hwSet_parts (s : State) (p : PartId) (c : CoreId) (x : SysReg) (b : Nat) : (s.hwSet p c x b).parts = s.parts := rfl

@[simp] theorem State.mtsSet_mem (s : State) (p : PartId) (c : CoreId) (x : SysReg) (v : Word) : (s.mtsSet p c x v).mem = s.mem := rfl
@[simp] theorem State.mtsSet_fe (s : State) (p : PartId) (c : CoreId) (x : SysReg) (v : Word) : (s.mtsSet p c x v).fe = s.fe := rfl
@[simp] theorem State.mtsSet_poison (s : State) (p : PartId) (c : CoreId) (x : SysReg) (v : Word) : (s.mtsSet p c x v).poison = s.poison := rfl
@[simp] theorem State.mtsSet_poisonW (s : State) (p : PartId) (c : CoreId) (x : SysReg) (v : Word) : (s.mtsSet p c x v).poisonW = s.poisonW := rfl
@[simp] theorem State.mtsSet_cycle (s : State) (p : PartId) (c : CoreId) (x : SysReg) (v : Word) : (s.mtsSet p c x v).cycle = s.cycle := rfl
@[simp] theorem State.mtsSet_time (s : State) (p : PartId) (c : CoreId) (x : SysReg) (v : Word) : (s.mtsSet p c x v).time = s.time := rfl
@[simp] theorem State.mtsSet_scan (s : State) (p : PartId) (c : CoreId) (x : SysReg) (v : Word) : (s.mtsSet p c x v).scan = s.scan := rfl
@[simp] theorem State.mtsSet_cur (s : State) (p : PartId) (c : CoreId) (x : SysReg) (v : Word) : (s.mtsSet p c x v).cur = s.cur := rfl
@[simp] theorem State.mtsSet_events (s : State) (p : PartId) (c : CoreId) (x : SysReg) (v : Word) : (s.mtsSet p c x v).events = s.events := rfl
@[simp] theorem State.mtsSet_timers (s : State) (p : PartId) (c : CoreId) (x : SysReg) (v : Word) : (s.mtsSet p c x v).timers = s.timers := rfl
@[simp] theorem State.mtsSet_waiting (s : State) (p : PartId) (c : CoreId) (x : SysReg) (v : Word) : (s.mtsSet p c x v).waiting = s.waiting := rfl
@[simp] theorem State.mtsSet_hwNow (s : State) (p : PartId) (c : CoreId) (x : SysReg) (v : Word) : (s.mtsSet p c x v).hwNow = s.hwNow := rfl
@[simp] theorem State.mtsSet_free (s : State) (p : PartId) (c : CoreId) (x : SysReg) (v : Word) : (s.mtsSet p c x v).free = s.free := rfl
@[simp] theorem State.mtsSet_modid (s : State) (p : PartId) (c : CoreId) (x : SysReg) (v : Word) : (s.mtsSet p c x v).modid = s.modid := rfl
@[simp] theorem State.mtsSet_firmware (s : State) (p : PartId) (c : CoreId) (x : SysReg) (v : Word) : (s.mtsSet p c x v).firmware = s.firmware := rfl
@[simp] theorem State.mtsSet_sessions (s : State) (p : PartId) (c : CoreId) (x : SysReg) (v : Word) : (s.mtsSet p c x v).sessions = s.sessions := rfl
@[simp] theorem State.mtsSet_hostOut (s : State) (p : PartId) (c : CoreId) (x : SysReg) (v : Word) : (s.mtsSet p c x v).hostOut = s.hostOut := rfl
@[simp] theorem State.mtsSet_portOut (s : State) (p : PartId) (c : CoreId) (x : SysReg) (v : Word) : (s.mtsSet p c x v).portOut = s.portOut := rfl
@[simp] theorem State.mtsSet_clockSteps (s : State) (p : PartId) (c : CoreId) (x : SysReg) (v : Word) : (s.mtsSet p c x v).clockSteps = s.clockSteps := rfl
@[simp] theorem State.mtsSet_bringUp (s : State) (p : PartId) (c : CoreId) (x : SysReg) (v : Word) : (s.mtsSet p c x v).bringUp = s.bringUp := rfl
@[simp] theorem State.mtsSet_parts (s : State) (p : PartId) (c : CoreId) (x : SysReg) (v : Word) : (s.mtsSet p c x v).parts = s.parts := rfl

@[simp] theorem State.writeMem_fe (s : State) (k n : Nat) (v : Word) : (s.writeMem k n v).fe = s.fe := by simp only [State.writeMem]
@[simp] theorem State.writeMem_poison (s : State) (k n : Nat) (v : Word) : (s.writeMem k n v).poison = s.poison := by simp only [State.writeMem]
@[simp] theorem State.writeMem_poisonW (s : State) (k n : Nat) (v : Word) : (s.writeMem k n v).poisonW = s.poisonW := by simp only [State.writeMem]
@[simp] theorem State.writeMem_cycle (s : State) (k n : Nat) (v : Word) : (s.writeMem k n v).cycle = s.cycle := by simp only [State.writeMem]
@[simp] theorem State.writeMem_time (s : State) (k n : Nat) (v : Word) : (s.writeMem k n v).time = s.time := by simp only [State.writeMem]
@[simp] theorem State.writeMem_scan (s : State) (k n : Nat) (v : Word) : (s.writeMem k n v).scan = s.scan := by simp only [State.writeMem]
@[simp] theorem State.writeMem_cur (s : State) (k n : Nat) (v : Word) : (s.writeMem k n v).cur = s.cur := by simp only [State.writeMem]
@[simp] theorem State.writeMem_events (s : State) (k n : Nat) (v : Word) : (s.writeMem k n v).events = s.events := by simp only [State.writeMem]
@[simp] theorem State.writeMem_timers (s : State) (k n : Nat) (v : Word) : (s.writeMem k n v).timers = s.timers := by simp only [State.writeMem]
@[simp] theorem State.writeMem_waiting (s : State) (k n : Nat) (v : Word) : (s.writeMem k n v).waiting = s.waiting := by simp only [State.writeMem]
@[simp] theorem State.writeMem_hwNow (s : State) (k n : Nat) (v : Word) : (s.writeMem k n v).hwNow = s.hwNow := by simp only [State.writeMem]
@[simp] theorem State.writeMem_mtsNow (s : State) (k n : Nat) (v : Word) : (s.writeMem k n v).mtsNow = s.mtsNow := by simp only [State.writeMem]
@[simp] theorem State.writeMem_free (s : State) (k n : Nat) (v : Word) : (s.writeMem k n v).free = s.free := by simp only [State.writeMem]
@[simp] theorem State.writeMem_modid (s : State) (k n : Nat) (v : Word) : (s.writeMem k n v).modid = s.modid := by simp only [State.writeMem]
@[simp] theorem State.writeMem_firmware (s : State) (k n : Nat) (v : Word) : (s.writeMem k n v).firmware = s.firmware := by simp only [State.writeMem]
@[simp] theorem State.writeMem_sessions (s : State) (k n : Nat) (v : Word) : (s.writeMem k n v).sessions = s.sessions := by simp only [State.writeMem]
@[simp] theorem State.writeMem_hostOut (s : State) (k n : Nat) (v : Word) : (s.writeMem k n v).hostOut = s.hostOut := by simp only [State.writeMem]
@[simp] theorem State.writeMem_portOut (s : State) (k n : Nat) (v : Word) : (s.writeMem k n v).portOut = s.portOut := by simp only [State.writeMem]
@[simp] theorem State.writeMem_clockSteps (s : State) (k n : Nat) (v : Word) : (s.writeMem k n v).clockSteps = s.clockSteps := by simp only [State.writeMem]
@[simp] theorem State.writeMem_bringUp (s : State) (k n : Nat) (v : Word) : (s.writeMem k n v).bringUp = s.bringUp := by simp only [State.writeMem]
@[simp] theorem State.writeMem_parts (s : State) (k n : Nat) (v : Word) : (s.writeMem k n v).parts = s.parts := by simp only [State.writeMem]

@[simp] theorem State.writeMemBytes_fe (s : State) (k : Nat) (l : List Byte) : (s.writeMemBytes k l).fe = s.fe := by simp only [State.writeMemBytes]
@[simp] theorem State.writeMemBytes_poison (s : State) (k : Nat) (l : List Byte) : (s.writeMemBytes k l).poison = s.poison := by simp only [State.writeMemBytes]
@[simp] theorem State.writeMemBytes_poisonW (s : State) (k : Nat) (l : List Byte) : (s.writeMemBytes k l).poisonW = s.poisonW := by simp only [State.writeMemBytes]
@[simp] theorem State.writeMemBytes_cycle (s : State) (k : Nat) (l : List Byte) : (s.writeMemBytes k l).cycle = s.cycle := by simp only [State.writeMemBytes]
@[simp] theorem State.writeMemBytes_time (s : State) (k : Nat) (l : List Byte) : (s.writeMemBytes k l).time = s.time := by simp only [State.writeMemBytes]
@[simp] theorem State.writeMemBytes_scan (s : State) (k : Nat) (l : List Byte) : (s.writeMemBytes k l).scan = s.scan := by simp only [State.writeMemBytes]
@[simp] theorem State.writeMemBytes_cur (s : State) (k : Nat) (l : List Byte) : (s.writeMemBytes k l).cur = s.cur := by simp only [State.writeMemBytes]
@[simp] theorem State.writeMemBytes_events (s : State) (k : Nat) (l : List Byte) : (s.writeMemBytes k l).events = s.events := by simp only [State.writeMemBytes]
@[simp] theorem State.writeMemBytes_timers (s : State) (k : Nat) (l : List Byte) : (s.writeMemBytes k l).timers = s.timers := by simp only [State.writeMemBytes]
@[simp] theorem State.writeMemBytes_waiting (s : State) (k : Nat) (l : List Byte) : (s.writeMemBytes k l).waiting = s.waiting := by simp only [State.writeMemBytes]
@[simp] theorem State.writeMemBytes_hwNow (s : State) (k : Nat) (l : List Byte) : (s.writeMemBytes k l).hwNow = s.hwNow := by simp only [State.writeMemBytes]
@[simp] theorem State.writeMemBytes_mtsNow (s : State) (k : Nat) (l : List Byte) : (s.writeMemBytes k l).mtsNow = s.mtsNow := by simp only [State.writeMemBytes]
@[simp] theorem State.writeMemBytes_free (s : State) (k : Nat) (l : List Byte) : (s.writeMemBytes k l).free = s.free := by simp only [State.writeMemBytes]
@[simp] theorem State.writeMemBytes_modid (s : State) (k : Nat) (l : List Byte) : (s.writeMemBytes k l).modid = s.modid := by simp only [State.writeMemBytes]
@[simp] theorem State.writeMemBytes_firmware (s : State) (k : Nat) (l : List Byte) : (s.writeMemBytes k l).firmware = s.firmware := by simp only [State.writeMemBytes]
@[simp] theorem State.writeMemBytes_sessions (s : State) (k : Nat) (l : List Byte) : (s.writeMemBytes k l).sessions = s.sessions := by simp only [State.writeMemBytes]
@[simp] theorem State.writeMemBytes_hostOut (s : State) (k : Nat) (l : List Byte) : (s.writeMemBytes k l).hostOut = s.hostOut := by simp only [State.writeMemBytes]
@[simp] theorem State.writeMemBytes_portOut (s : State) (k : Nat) (l : List Byte) : (s.writeMemBytes k l).portOut = s.portOut := by simp only [State.writeMemBytes]
@[simp] theorem State.writeMemBytes_clockSteps (s : State) (k : Nat) (l : List Byte) : (s.writeMemBytes k l).clockSteps = s.clockSteps := by simp only [State.writeMemBytes]
@[simp] theorem State.writeMemBytes_bringUp (s : State) (k : Nat) (l : List Byte) : (s.writeMemBytes k l).bringUp = s.bringUp := by simp only [State.writeMemBytes]
@[simp] theorem State.writeMemBytes_parts (s : State) (k : Nat) (l : List Byte) : (s.writeMemBytes k l).parts = s.parts := by simp only [State.writeMemBytes]

@[simp] theorem State.writeLine_fe (s : State) (k : Nat) (v : BitVec 1024) : (s.writeLine k v).fe = s.fe := by simp only [State.writeLine]
@[simp] theorem State.writeLine_poison (s : State) (k : Nat) (v : BitVec 1024) : (s.writeLine k v).poison = s.poison := by simp only [State.writeLine]
@[simp] theorem State.writeLine_poisonW (s : State) (k : Nat) (v : BitVec 1024) : (s.writeLine k v).poisonW = s.poisonW := by simp only [State.writeLine]
@[simp] theorem State.writeLine_cycle (s : State) (k : Nat) (v : BitVec 1024) : (s.writeLine k v).cycle = s.cycle := by simp only [State.writeLine]
@[simp] theorem State.writeLine_time (s : State) (k : Nat) (v : BitVec 1024) : (s.writeLine k v).time = s.time := by simp only [State.writeLine]
@[simp] theorem State.writeLine_scan (s : State) (k : Nat) (v : BitVec 1024) : (s.writeLine k v).scan = s.scan := by simp only [State.writeLine]
@[simp] theorem State.writeLine_cur (s : State) (k : Nat) (v : BitVec 1024) : (s.writeLine k v).cur = s.cur := by simp only [State.writeLine]
@[simp] theorem State.writeLine_events (s : State) (k : Nat) (v : BitVec 1024) : (s.writeLine k v).events = s.events := by simp only [State.writeLine]
@[simp] theorem State.writeLine_timers (s : State) (k : Nat) (v : BitVec 1024) : (s.writeLine k v).timers = s.timers := by simp only [State.writeLine]
@[simp] theorem State.writeLine_waiting (s : State) (k : Nat) (v : BitVec 1024) : (s.writeLine k v).waiting = s.waiting := by simp only [State.writeLine]
@[simp] theorem State.writeLine_hwNow (s : State) (k : Nat) (v : BitVec 1024) : (s.writeLine k v).hwNow = s.hwNow := by simp only [State.writeLine]
@[simp] theorem State.writeLine_mtsNow (s : State) (k : Nat) (v : BitVec 1024) : (s.writeLine k v).mtsNow = s.mtsNow := by simp only [State.writeLine]
@[simp] theorem State.writeLine_free (s : State) (k : Nat) (v : BitVec 1024) : (s.writeLine k v).free = s.free := by simp only [State.writeLine]
@[simp] theorem State.writeLine_modid (s : State) (k : Nat) (v : BitVec 1024) : (s.writeLine k v).modid = s.modid := by simp only [State.writeLine]
@[simp] theorem State.writeLine_firmware (s : State) (k : Nat) (v : BitVec 1024) : (s.writeLine k v).firmware = s.firmware := by simp only [State.writeLine]
@[simp] theorem State.writeLine_sessions (s : State) (k : Nat) (v : BitVec 1024) : (s.writeLine k v).sessions = s.sessions := by simp only [State.writeLine]
@[simp] theorem State.writeLine_hostOut (s : State) (k : Nat) (v : BitVec 1024) : (s.writeLine k v).hostOut = s.hostOut := by simp only [State.writeLine]
@[simp] theorem State.writeLine_portOut (s : State) (k : Nat) (v : BitVec 1024) : (s.writeLine k v).portOut = s.portOut := by simp only [State.writeLine]
@[simp] theorem State.writeLine_clockSteps (s : State) (k : Nat) (v : BitVec 1024) : (s.writeLine k v).clockSteps = s.clockSteps := by simp only [State.writeLine]
@[simp] theorem State.writeLine_bringUp (s : State) (k : Nat) (v : BitVec 1024) : (s.writeLine k v).bringUp = s.bringUp := by simp only [State.writeLine]
@[simp] theorem State.writeLine_parts (s : State) (k : Nat) (v : BitVec 1024) : (s.writeLine k v).parts = s.parts := by simp only [State.writeLine]

@[simp] theorem State.setFullBit_mem (s : State) (k : Nat) (b : Bool) : (s.setFullBit k b).mem = s.mem := rfl
@[simp] theorem State.setFullBit_poison (s : State) (k : Nat) (b : Bool) : (s.setFullBit k b).poison = s.poison := rfl
@[simp] theorem State.setFullBit_poisonW (s : State) (k : Nat) (b : Bool) : (s.setFullBit k b).poisonW = s.poisonW := rfl
@[simp] theorem State.setFullBit_cycle (s : State) (k : Nat) (b : Bool) : (s.setFullBit k b).cycle = s.cycle := rfl
@[simp] theorem State.setFullBit_time (s : State) (k : Nat) (b : Bool) : (s.setFullBit k b).time = s.time := rfl
@[simp] theorem State.setFullBit_scan (s : State) (k : Nat) (b : Bool) : (s.setFullBit k b).scan = s.scan := rfl
@[simp] theorem State.setFullBit_cur (s : State) (k : Nat) (b : Bool) : (s.setFullBit k b).cur = s.cur := rfl
@[simp] theorem State.setFullBit_events (s : State) (k : Nat) (b : Bool) : (s.setFullBit k b).events = s.events := rfl
@[simp] theorem State.setFullBit_timers (s : State) (k : Nat) (b : Bool) : (s.setFullBit k b).timers = s.timers := rfl
@[simp] theorem State.setFullBit_waiting (s : State) (k : Nat) (b : Bool) : (s.setFullBit k b).waiting = s.waiting := rfl
@[simp] theorem State.setFullBit_hwNow (s : State) (k : Nat) (b : Bool) : (s.setFullBit k b).hwNow = s.hwNow := rfl
@[simp] theorem State.setFullBit_mtsNow (s : State) (k : Nat) (b : Bool) : (s.setFullBit k b).mtsNow = s.mtsNow := rfl
@[simp] theorem State.setFullBit_free (s : State) (k : Nat) (b : Bool) : (s.setFullBit k b).free = s.free := rfl
@[simp] theorem State.setFullBit_modid (s : State) (k : Nat) (b : Bool) : (s.setFullBit k b).modid = s.modid := rfl
@[simp] theorem State.setFullBit_firmware (s : State) (k : Nat) (b : Bool) : (s.setFullBit k b).firmware = s.firmware := rfl
@[simp] theorem State.setFullBit_sessions (s : State) (k : Nat) (b : Bool) : (s.setFullBit k b).sessions = s.sessions := rfl
@[simp] theorem State.setFullBit_hostOut (s : State) (k : Nat) (b : Bool) : (s.setFullBit k b).hostOut = s.hostOut := rfl
@[simp] theorem State.setFullBit_portOut (s : State) (k : Nat) (b : Bool) : (s.setFullBit k b).portOut = s.portOut := rfl
@[simp] theorem State.setFullBit_clockSteps (s : State) (k : Nat) (b : Bool) : (s.setFullBit k b).clockSteps = s.clockSteps := rfl
@[simp] theorem State.setFullBit_bringUp (s : State) (k : Nat) (b : Bool) : (s.setFullBit k b).bringUp = s.bringUp := rfl
@[simp] theorem State.setFullBit_parts (s : State) (k : Nat) (b : Bool) : (s.setFullBit k b).parts = s.parts := rfl

@[simp] theorem State.poisonLine_mem (s : State) (k : Nat) : (s.poisonLine k).mem = s.mem := rfl
@[simp] theorem State.poisonLine_fe (s : State) (k : Nat) : (s.poisonLine k).fe = s.fe := rfl
@[simp] theorem State.poisonLine_poisonW (s : State) (k : Nat) : (s.poisonLine k).poisonW = s.poisonW := rfl
@[simp] theorem State.poisonLine_cycle (s : State) (k : Nat) : (s.poisonLine k).cycle = s.cycle := rfl
@[simp] theorem State.poisonLine_time (s : State) (k : Nat) : (s.poisonLine k).time = s.time := rfl
@[simp] theorem State.poisonLine_scan (s : State) (k : Nat) : (s.poisonLine k).scan = s.scan := rfl
@[simp] theorem State.poisonLine_cur (s : State) (k : Nat) : (s.poisonLine k).cur = s.cur := rfl
@[simp] theorem State.poisonLine_events (s : State) (k : Nat) : (s.poisonLine k).events = s.events := rfl
@[simp] theorem State.poisonLine_timers (s : State) (k : Nat) : (s.poisonLine k).timers = s.timers := rfl
@[simp] theorem State.poisonLine_waiting (s : State) (k : Nat) : (s.poisonLine k).waiting = s.waiting := rfl
@[simp] theorem State.poisonLine_hwNow (s : State) (k : Nat) : (s.poisonLine k).hwNow = s.hwNow := rfl
@[simp] theorem State.poisonLine_mtsNow (s : State) (k : Nat) : (s.poisonLine k).mtsNow = s.mtsNow := rfl
@[simp] theorem State.poisonLine_free (s : State) (k : Nat) : (s.poisonLine k).free = s.free := rfl
@[simp] theorem State.poisonLine_modid (s : State) (k : Nat) : (s.poisonLine k).modid = s.modid := rfl
@[simp] theorem State.poisonLine_firmware (s : State) (k : Nat) : (s.poisonLine k).firmware = s.firmware := rfl
@[simp] theorem State.poisonLine_sessions (s : State) (k : Nat) : (s.poisonLine k).sessions = s.sessions := rfl
@[simp] theorem State.poisonLine_hostOut (s : State) (k : Nat) : (s.poisonLine k).hostOut = s.hostOut := rfl
@[simp] theorem State.poisonLine_portOut (s : State) (k : Nat) : (s.poisonLine k).portOut = s.portOut := rfl
@[simp] theorem State.poisonLine_clockSteps (s : State) (k : Nat) : (s.poisonLine k).clockSteps = s.clockSteps := rfl
@[simp] theorem State.poisonLine_bringUp (s : State) (k : Nat) : (s.poisonLine k).bringUp = s.bringUp := rfl
@[simp] theorem State.poisonLine_parts (s : State) (k : Nat) : (s.poisonLine k).parts = s.parts := rfl

@[simp] theorem State.unpoisonLine_mem (s : State) (k : Nat) : (s.unpoisonLine k).mem = s.mem := rfl
@[simp] theorem State.unpoisonLine_fe (s : State) (k : Nat) : (s.unpoisonLine k).fe = s.fe := rfl
@[simp] theorem State.unpoisonLine_poisonW (s : State) (k : Nat) : (s.unpoisonLine k).poisonW = s.poisonW := rfl
@[simp] theorem State.unpoisonLine_cycle (s : State) (k : Nat) : (s.unpoisonLine k).cycle = s.cycle := rfl
@[simp] theorem State.unpoisonLine_time (s : State) (k : Nat) : (s.unpoisonLine k).time = s.time := rfl
@[simp] theorem State.unpoisonLine_scan (s : State) (k : Nat) : (s.unpoisonLine k).scan = s.scan := rfl
@[simp] theorem State.unpoisonLine_cur (s : State) (k : Nat) : (s.unpoisonLine k).cur = s.cur := rfl
@[simp] theorem State.unpoisonLine_events (s : State) (k : Nat) : (s.unpoisonLine k).events = s.events := rfl
@[simp] theorem State.unpoisonLine_timers (s : State) (k : Nat) : (s.unpoisonLine k).timers = s.timers := rfl
@[simp] theorem State.unpoisonLine_waiting (s : State) (k : Nat) : (s.unpoisonLine k).waiting = s.waiting := rfl
@[simp] theorem State.unpoisonLine_hwNow (s : State) (k : Nat) : (s.unpoisonLine k).hwNow = s.hwNow := rfl
@[simp] theorem State.unpoisonLine_mtsNow (s : State) (k : Nat) : (s.unpoisonLine k).mtsNow = s.mtsNow := rfl
@[simp] theorem State.unpoisonLine_free (s : State) (k : Nat) : (s.unpoisonLine k).free = s.free := rfl
@[simp] theorem State.unpoisonLine_modid (s : State) (k : Nat) : (s.unpoisonLine k).modid = s.modid := rfl
@[simp] theorem State.unpoisonLine_firmware (s : State) (k : Nat) : (s.unpoisonLine k).firmware = s.firmware := rfl
@[simp] theorem State.unpoisonLine_sessions (s : State) (k : Nat) : (s.unpoisonLine k).sessions = s.sessions := rfl
@[simp] theorem State.unpoisonLine_hostOut (s : State) (k : Nat) : (s.unpoisonLine k).hostOut = s.hostOut := rfl
@[simp] theorem State.unpoisonLine_portOut (s : State) (k : Nat) : (s.unpoisonLine k).portOut = s.portOut := rfl
@[simp] theorem State.unpoisonLine_clockSteps (s : State) (k : Nat) : (s.unpoisonLine k).clockSteps = s.clockSteps := rfl
@[simp] theorem State.unpoisonLine_bringUp (s : State) (k : Nat) : (s.unpoisonLine k).bringUp = s.bringUp := rfl
@[simp] theorem State.unpoisonLine_parts (s : State) (k : Nat) : (s.unpoisonLine k).parts = s.parts := rfl

@[simp] theorem State.poisonWord_mem (s : State) (k : Nat) : (s.poisonWord k).mem = s.mem := rfl
@[simp] theorem State.poisonWord_fe (s : State) (k : Nat) : (s.poisonWord k).fe = s.fe := rfl
@[simp] theorem State.poisonWord_poison (s : State) (k : Nat) : (s.poisonWord k).poison = s.poison := rfl
@[simp] theorem State.poisonWord_cycle (s : State) (k : Nat) : (s.poisonWord k).cycle = s.cycle := rfl
@[simp] theorem State.poisonWord_time (s : State) (k : Nat) : (s.poisonWord k).time = s.time := rfl
@[simp] theorem State.poisonWord_scan (s : State) (k : Nat) : (s.poisonWord k).scan = s.scan := rfl
@[simp] theorem State.poisonWord_cur (s : State) (k : Nat) : (s.poisonWord k).cur = s.cur := rfl
@[simp] theorem State.poisonWord_events (s : State) (k : Nat) : (s.poisonWord k).events = s.events := rfl
@[simp] theorem State.poisonWord_timers (s : State) (k : Nat) : (s.poisonWord k).timers = s.timers := rfl
@[simp] theorem State.poisonWord_waiting (s : State) (k : Nat) : (s.poisonWord k).waiting = s.waiting := rfl
@[simp] theorem State.poisonWord_hwNow (s : State) (k : Nat) : (s.poisonWord k).hwNow = s.hwNow := rfl
@[simp] theorem State.poisonWord_mtsNow (s : State) (k : Nat) : (s.poisonWord k).mtsNow = s.mtsNow := rfl
@[simp] theorem State.poisonWord_free (s : State) (k : Nat) : (s.poisonWord k).free = s.free := rfl
@[simp] theorem State.poisonWord_modid (s : State) (k : Nat) : (s.poisonWord k).modid = s.modid := rfl
@[simp] theorem State.poisonWord_firmware (s : State) (k : Nat) : (s.poisonWord k).firmware = s.firmware := rfl
@[simp] theorem State.poisonWord_sessions (s : State) (k : Nat) : (s.poisonWord k).sessions = s.sessions := rfl
@[simp] theorem State.poisonWord_hostOut (s : State) (k : Nat) : (s.poisonWord k).hostOut = s.hostOut := rfl
@[simp] theorem State.poisonWord_portOut (s : State) (k : Nat) : (s.poisonWord k).portOut = s.portOut := rfl
@[simp] theorem State.poisonWord_clockSteps (s : State) (k : Nat) : (s.poisonWord k).clockSteps = s.clockSteps := rfl
@[simp] theorem State.poisonWord_bringUp (s : State) (k : Nat) : (s.poisonWord k).bringUp = s.bringUp := rfl
@[simp] theorem State.poisonWord_parts (s : State) (k : Nat) : (s.poisonWord k).parts = s.parts := rfl

@[simp] theorem State.unpoisonWord_mem (s : State) (k : Nat) : (s.unpoisonWord k).mem = s.mem := rfl
@[simp] theorem State.unpoisonWord_fe (s : State) (k : Nat) : (s.unpoisonWord k).fe = s.fe := rfl
@[simp] theorem State.unpoisonWord_poison (s : State) (k : Nat) : (s.unpoisonWord k).poison = s.poison := rfl
@[simp] theorem State.unpoisonWord_cycle (s : State) (k : Nat) : (s.unpoisonWord k).cycle = s.cycle := rfl
@[simp] theorem State.unpoisonWord_time (s : State) (k : Nat) : (s.unpoisonWord k).time = s.time := rfl
@[simp] theorem State.unpoisonWord_scan (s : State) (k : Nat) : (s.unpoisonWord k).scan = s.scan := rfl
@[simp] theorem State.unpoisonWord_cur (s : State) (k : Nat) : (s.unpoisonWord k).cur = s.cur := rfl
@[simp] theorem State.unpoisonWord_events (s : State) (k : Nat) : (s.unpoisonWord k).events = s.events := rfl
@[simp] theorem State.unpoisonWord_timers (s : State) (k : Nat) : (s.unpoisonWord k).timers = s.timers := rfl
@[simp] theorem State.unpoisonWord_waiting (s : State) (k : Nat) : (s.unpoisonWord k).waiting = s.waiting := rfl
@[simp] theorem State.unpoisonWord_hwNow (s : State) (k : Nat) : (s.unpoisonWord k).hwNow = s.hwNow := rfl
@[simp] theorem State.unpoisonWord_mtsNow (s : State) (k : Nat) : (s.unpoisonWord k).mtsNow = s.mtsNow := rfl
@[simp] theorem State.unpoisonWord_free (s : State) (k : Nat) : (s.unpoisonWord k).free = s.free := rfl
@[simp] theorem State.unpoisonWord_modid (s : State) (k : Nat) : (s.unpoisonWord k).modid = s.modid := rfl
@[simp] theorem State.unpoisonWord_firmware (s : State) (k : Nat) : (s.unpoisonWord k).firmware = s.firmware := rfl
@[simp] theorem State.unpoisonWord_sessions (s : State) (k : Nat) : (s.unpoisonWord k).sessions = s.sessions := rfl
@[simp] theorem State.unpoisonWord_hostOut (s : State) (k : Nat) : (s.unpoisonWord k).hostOut = s.hostOut := rfl
@[simp] theorem State.unpoisonWord_portOut (s : State) (k : Nat) : (s.unpoisonWord k).portOut = s.portOut := rfl
@[simp] theorem State.unpoisonWord_clockSteps (s : State) (k : Nat) : (s.unpoisonWord k).clockSteps = s.clockSteps := rfl
@[simp] theorem State.unpoisonWord_bringUp (s : State) (k : Nat) : (s.unpoisonWord k).bringUp = s.bringUp := rfl
@[simp] theorem State.unpoisonWord_parts (s : State) (k : Nat) : (s.unpoisonWord k).parts = s.parts := rfl

@[simp] theorem State.wipeRange_cycle (s : State) (lo hi : Nat) : (s.wipeRange lo hi).cycle = s.cycle := by simp only [State.wipeRange]
@[simp] theorem State.wipeRange_time (s : State) (lo hi : Nat) : (s.wipeRange lo hi).time = s.time := by simp only [State.wipeRange]
@[simp] theorem State.wipeRange_scan (s : State) (lo hi : Nat) : (s.wipeRange lo hi).scan = s.scan := by simp only [State.wipeRange]
@[simp] theorem State.wipeRange_cur (s : State) (lo hi : Nat) : (s.wipeRange lo hi).cur = s.cur := by simp only [State.wipeRange]
@[simp] theorem State.wipeRange_events (s : State) (lo hi : Nat) : (s.wipeRange lo hi).events = s.events := by simp only [State.wipeRange]
@[simp] theorem State.wipeRange_timers (s : State) (lo hi : Nat) : (s.wipeRange lo hi).timers = s.timers := by simp only [State.wipeRange]
@[simp] theorem State.wipeRange_waiting (s : State) (lo hi : Nat) : (s.wipeRange lo hi).waiting = s.waiting := by simp only [State.wipeRange]
@[simp] theorem State.wipeRange_hwNow (s : State) (lo hi : Nat) : (s.wipeRange lo hi).hwNow = s.hwNow := by simp only [State.wipeRange]
@[simp] theorem State.wipeRange_mtsNow (s : State) (lo hi : Nat) : (s.wipeRange lo hi).mtsNow = s.mtsNow := by simp only [State.wipeRange]
@[simp] theorem State.wipeRange_free (s : State) (lo hi : Nat) : (s.wipeRange lo hi).free = s.free := by simp only [State.wipeRange]
@[simp] theorem State.wipeRange_modid (s : State) (lo hi : Nat) : (s.wipeRange lo hi).modid = s.modid := by simp only [State.wipeRange]
@[simp] theorem State.wipeRange_firmware (s : State) (lo hi : Nat) : (s.wipeRange lo hi).firmware = s.firmware := by simp only [State.wipeRange]
@[simp] theorem State.wipeRange_sessions (s : State) (lo hi : Nat) : (s.wipeRange lo hi).sessions = s.sessions := by simp only [State.wipeRange]
@[simp] theorem State.wipeRange_hostOut (s : State) (lo hi : Nat) : (s.wipeRange lo hi).hostOut = s.hostOut := by simp only [State.wipeRange]
@[simp] theorem State.wipeRange_portOut (s : State) (lo hi : Nat) : (s.wipeRange lo hi).portOut = s.portOut := by simp only [State.wipeRange]
@[simp] theorem State.wipeRange_clockSteps (s : State) (lo hi : Nat) : (s.wipeRange lo hi).clockSteps = s.clockSteps := by simp only [State.wipeRange]
@[simp] theorem State.wipeRange_bringUp (s : State) (lo hi : Nat) : (s.wipeRange lo hi).bringUp = s.bringUp := by simp only [State.wipeRange]
@[simp] theorem State.wipeRange_parts (s : State) (lo hi : Nat) : (s.wipeRange lo hi).parts = s.parts := by simp only [State.wipeRange]

/-! ## What stands where -/

@[simp] theorem kget_kput_same {α : Type} (m : KMap α) (k : Nat) (v : α) : kget (kput m k v) k = some v := by
  induction m with
  | nil => simp [kput, kget]
  | cons e m ih =>
    obtain ⟨i, a⟩ := e
    unfold kput
    split
    · simp [kget]
    · split
      · simp [kget]
      · rename_i h1 h2
        have : i ≠ k := fun h => h2 h.symm
        simp [kget, this, ih]

theorem kget_kput_ne {α : Type} (m : KMap α) {k j : Nat} (v : α) (h : j ≠ k) : kget (kput m k v) j = kget m j := by
  induction m with
  | nil => simp [kput, kget, h.symm]
  | cons e m ih =>
    obtain ⟨i, a⟩ := e
    unfold kput
    split
    · simp [kget, h.symm]
    · split
      · rename_i _ h2
        subst h2
        simp [kget, h.symm]
      · simp [kget, ih]

@[simp] theorem State.part_setPart (s : State) (p : PartId) (q : Partition) : (s.setPart p q).part p = q := by
  simp [State.part, State.setPart]

theorem State.part_setPart_ne (s : State) {p p' : PartId} (q : Partition) (h : p' ≠ p) : (s.setPart p q).part p' = s.part p' := by
  have hv : p.val ≠ p'.val := fun e => h (Fin.ext e.symm)
  simp [State.part, State.setPart, hv]

@[simp] theorem State.part_modPart (s : State) (p : PartId) (f : Partition → Partition) : (s.modPart p f).part p = f (s.part p) := by
  simp [State.modPart]

theorem State.part_modPart_ne (s : State) {p p' : PartId} (f : Partition → Partition) (h : p' ≠ p) :
    (s.modPart p f).part p' = s.part p' := by
  simp [State.modPart, State.part_setPart_ne _ _ h]

@[simp] theorem State.core_setCore (s : State) (p : PartId) (c : CoreId) (k : Core) : (s.setCore p c k).core p c = k := by
  simp [State.core, State.setCore, Partition.core]

theorem State.core_setCore_ne (s : State) {p p' : PartId} {c c' : CoreId} (k : Core) (h : p' ≠ p ∨ c' ≠ c) :
    (s.setCore p c k).core p' c' = s.core p' c' := by
  by_cases hp : p' = p
  · subst hp
    have hc : c'.val ≠ c.val := by
      rcases h with h | h
      · exact absurd rfl h
      · exact fun e => h (Fin.ext e)
    simp [State.core, State.setCore, Partition.core, kget_kput_ne _ _ hc]
  · simp [State.core, State.setCore, State.part_modPart_ne _ _ hp]

@[simp] theorem State.core_modCoreW (s : State) (p : PartId) (c : CoreId) (f : CoreWorld → CoreWorld) :
    (s.modCoreW p c f).core p c = { s.core p c with w := f (s.core p c).w } := by
  simp [State.modCoreW]

@[simp] theorem State.core_modCoreC (s : State) (p : PartId) (c : CoreId) (f : CoreFixed → CoreFixed) :
    (s.modCoreC p c f).core p c = { s.core p c with c := f (s.core p c).c } := by
  simp [State.modCoreC]

@[simp] theorem State.slot_setSlot (s : State) (r : TRef) (x : Slot) : (s.setSlot r x).slot r = some x := by
  simp [State.slot, State.setSlot]

theorem State.slot_setSlot_ne (s : State) {r r' : TRef} (x : Slot) (h : r' ≠ r) : (s.setSlot r x).slot r' = s.slot r' := by
  obtain ⟨p, c, n⟩ := r
  obtain ⟨p', c', n'⟩ := r'
  simp only [State.slot, State.setSlot]
  by_cases hpc : p' = p ∧ c' = c
  · obtain ⟨rfl, rfl⟩ := hpc
    have hn : n'.val ≠ n.val := fun e => h (by rw [Fin.ext e])
    simp [kget_kput_ne _ _ hn]
  · have hne : p' ≠ p ∨ c' ≠ c := by
      by_cases hp : p' = p
      · exact .inr (fun hc => hpc ⟨hp, hc⟩)
      · exact .inl hp
    simp [State.modCoreW, State.core_setCore_ne _ _ hne]

@[simp] theorem State.thread_setThread (s : State) (r : TRef) (t : Thread) : (s.setThread r t).thread r = some t := by
  simp [State.thread, State.setThread]

theorem State.thread_setThread_ne (s : State) {r r' : TRef} (t : Thread) (h : r' ≠ r) :
    (s.setThread r t).thread r' = s.thread r' := by
  simp [State.thread, State.setThread, State.slot_setSlot_ne _ _ h]

theorem kput_kput {α : Type} (m : KMap α) (k : Nat) (v w : α) : kput (kput m k v) k w = kput m k w := by
  induction m with
  | nil => simp [kput]
  | cons e m ih =>
    obtain ⟨i, a⟩ := e
    by_cases h1 : k < i
    · simp [kput, h1]
    · by_cases h2 : k = i
      · simp [kput, h2]
      · simp [kput, h1, h2, ih]

@[simp] theorem State.setPart_setPart (s : State) (p : PartId) (q q' : Partition) : (s.setPart p q).setPart p q' = s.setPart p q' := by
  simp [State.setPart]

@[simp] theorem State.setCore_setCore (s : State) (p : PartId) (c : CoreId) (k k' : Core) : (s.setCore p c k).setCore p c k' = s.setCore p c k' := by
  simp [State.setCore, State.modPart, kput_kput]

/-- The last of two values that a thread is given stands. -/
@[simp] theorem State.setThread_setThread (s : State) (r : TRef) (t t' : Thread) : (s.setThread r t).setThread r t' = s.setThread r t' := by
  simp [State.setThread, State.setSlot, State.modCoreW, kput_kput]

/-- A thread changed is the thread as it was, changed; without a thread nothing changes. -/
theorem State.thread_modThread (s : State) (r : TRef) (g : Thread → Thread) : (s.modThread r g).thread r = (s.thread r).map g := by
  unfold State.modThread
  split
  · rename_i t h
    simp [h]
  · rename_i h
    simp [h]

theorem State.thread_modThread_ne (s : State) {r r' : TRef} (g : Thread → Thread) (h : r' ≠ r) :
    (s.modThread r g).thread r' = s.thread r' := by
  unfold State.modThread
  split
  · simp [State.thread_setThread_ne _ _ h]
  · rfl

/-- A change to the units of a core that a gang switch leaves alone leaves every thread. -/
@[simp] theorem State.thread_modCoreC (s : State) (p : PartId) (c : CoreId) (f : CoreFixed → CoreFixed) (r : TRef) :
    (s.modCoreC p c f).thread r = s.thread r := by
  have key : ((s.modCoreC p c f).core r.part r.core).w = (s.core r.part r.core).w := by
    by_cases h : r.part = p ∧ r.core = c
    · obtain ⟨h1, h2⟩ := h
      rw [h1, h2]
      simp
    · have hne : r.part ≠ p ∨ r.core ≠ c := by
        by_cases hp : r.part = p
        · exact .inr (fun hc => h ⟨hp, hc⟩)
        · exact .inl hp
      simp [State.modCoreC, State.core_setCore_ne _ _ hne]
  simp [State.thread, State.slot, key]

theorem State.foldl_unpoisonWord (f : Nat → Nat) (l : List Nat) (s : State) :
    l.foldl (fun s i => s.unpoisonWord (f i)) s = { s with poisonW := (l.foldl (fun s i => s.unpoisonWord (f i)) s).poisonW } := by
  induction l generalizing s with
  | nil => rfl
  | cons i l ih => simp only [List.foldl_cons]; rw [ih]; rfl

/-- Window words wholly covered lose their poison, and nothing else changes. -/
theorem State.wholeWords_eq (s : State) (k n : Nat) : s.wholeWords k n = { s with poisonW := (s.wholeWords k n).poisonW } :=
  State.foldl_unpoisonWord _ _ s

@[simp] theorem State.wholeWords_mem (s : State) (k n : Nat) : (s.wholeWords k n).mem = s.mem := by rw [State.wholeWords_eq]
@[simp] theorem State.wholeWords_fe (s : State) (k n : Nat) : (s.wholeWords k n).fe = s.fe := by rw [State.wholeWords_eq]
@[simp] theorem State.wholeWords_poison (s : State) (k n : Nat) : (s.wholeWords k n).poison = s.poison := by rw [State.wholeWords_eq]
@[simp] theorem State.wholeWords_cycle (s : State) (k n : Nat) : (s.wholeWords k n).cycle = s.cycle := by rw [State.wholeWords_eq]
@[simp] theorem State.wholeWords_time (s : State) (k n : Nat) : (s.wholeWords k n).time = s.time := by rw [State.wholeWords_eq]
@[simp] theorem State.wholeWords_scan (s : State) (k n : Nat) : (s.wholeWords k n).scan = s.scan := by rw [State.wholeWords_eq]
@[simp] theorem State.wholeWords_cur (s : State) (k n : Nat) : (s.wholeWords k n).cur = s.cur := by rw [State.wholeWords_eq]
@[simp] theorem State.wholeWords_events (s : State) (k n : Nat) : (s.wholeWords k n).events = s.events := by rw [State.wholeWords_eq]
@[simp] theorem State.wholeWords_timers (s : State) (k n : Nat) : (s.wholeWords k n).timers = s.timers := by rw [State.wholeWords_eq]
@[simp] theorem State.wholeWords_waiting (s : State) (k n : Nat) : (s.wholeWords k n).waiting = s.waiting := by rw [State.wholeWords_eq]
@[simp] theorem State.wholeWords_hwNow (s : State) (k n : Nat) : (s.wholeWords k n).hwNow = s.hwNow := by rw [State.wholeWords_eq]
@[simp] theorem State.wholeWords_mtsNow (s : State) (k n : Nat) : (s.wholeWords k n).mtsNow = s.mtsNow := by rw [State.wholeWords_eq]
@[simp] theorem State.wholeWords_free (s : State) (k n : Nat) : (s.wholeWords k n).free = s.free := by rw [State.wholeWords_eq]
@[simp] theorem State.wholeWords_modid (s : State) (k n : Nat) : (s.wholeWords k n).modid = s.modid := by rw [State.wholeWords_eq]
@[simp] theorem State.wholeWords_firmware (s : State) (k n : Nat) : (s.wholeWords k n).firmware = s.firmware := by rw [State.wholeWords_eq]
@[simp] theorem State.wholeWords_sessions (s : State) (k n : Nat) : (s.wholeWords k n).sessions = s.sessions := by rw [State.wholeWords_eq]
@[simp] theorem State.wholeWords_hostOut (s : State) (k n : Nat) : (s.wholeWords k n).hostOut = s.hostOut := by rw [State.wholeWords_eq]
@[simp] theorem State.wholeWords_portOut (s : State) (k n : Nat) : (s.wholeWords k n).portOut = s.portOut := by rw [State.wholeWords_eq]
@[simp] theorem State.wholeWords_clockSteps (s : State) (k n : Nat) : (s.wholeWords k n).clockSteps = s.clockSteps := by rw [State.wholeWords_eq]
@[simp] theorem State.wholeWords_bringUp (s : State) (k n : Nat) : (s.wholeWords k n).bringUp = s.bringUp := by rw [State.wholeWords_eq]
@[simp] theorem State.wholeWords_parts (s : State) (k n : Nat) : (s.wholeWords k n).parts = s.parts := by rw [State.wholeWords_eq]
@[simp] theorem State.wholeWords_thread (s : State) (k n : Nat) (r : TRef) : (s.wholeWords k n).thread r = s.thread r := by rw [State.wholeWords_eq]; rfl
@[simp] theorem State.wholeWords_core (s : State) (k n : Nat) (p : PartId) (c : CoreId) : (s.wholeWords k n).core p c = s.core p c := by rw [State.wholeWords_eq]; rfl

end Sys2Proof.Machine
end

