-- ==== Sys2Proof/Laws/Ops.lean ====
section
/-! SUPPORT. What each shared operation does, said once: the log's records, the commit of a bundle, running one word, taking an exception,
waiting. -/
namespace Sys2Proof.Machine

/-! ## Threads under changes that keep slots -/

theorem State.slot_congr {s s' : State} (h : s'.parts = s.parts) (r : TRef) : s'.slot r = s.slot r := by
  simp only [State.slot, State.core, State.part, h]

theorem State.thread_congr {s s' : State} (h : s'.parts = s.parts) (r : TRef) : s'.thread r = s.thread r := by
  simp only [State.thread, State.slot_congr h]

/-- A change of a core's world that keeps its slots keeps every slot of the machine. -/
theorem State.slot_modCoreW_of (s : State) (p : PartId) (c : CoreId) (f : CoreWorld → CoreWorld)
    (h : (f (s.core p c).w).slots = (s.core p c).w.slots) (r : TRef) : (s.modCoreW p c f).slot r = s.slot r := by
  by_cases hr : r.part = p ∧ r.core = c
  · obtain ⟨rfl, rfl⟩ := hr
    simp only [State.slot, State.core_modCoreW, h]
  · have hn : r.part ≠ p ∨ r.core ≠ c := by
      by_cases hp : r.part = p
      · exact Or.inr (fun hc => hr ⟨hp, hc⟩)
      · exact Or.inl hp
    simp only [State.slot, State.modCoreW, State.core_setCore_ne _ _ hn]

theorem State.thread_modCoreW_of (s : State) (p : PartId) (c : CoreId) (f : CoreWorld → CoreWorld)
    (h : (f (s.core p c).w).slots = (s.core p c).w.slots) (r : TRef) : (s.modCoreW p c f).thread r = s.thread r := by
  simp only [State.thread, State.slot_modCoreW_of s p c f h r]

/-! ## The taster's log (R330, R331) -/

theorem logAppend_thread (s : State) (p : PartId) (c : CoreId) (ws : List Nat) (r : TRef) :
    (logAppend s p c ws).thread r = s.thread r := by
  simp only [logAppend]
  rw [State.thread_modCoreW_of _ _ _ _ rfl, State.wholeWords_thread]
  rfl

theorem logRecord_thread (s : State) (p : PartId) (c : CoreId) (slot : SlotId) (type info : Nat) (payload : List Nat) (r : TRef) :
    (logRecord s p c slot type info payload).thread r = s.thread r := by
  simp only [logRecord]
  split
  · rfl
  · rw [logAppend_thread]
    split
    · rw [State.thread_modCoreW_of _ _ _ _ rfl, logAppend_thread]
    · rfl

theorem logItem_thread (s : State) (r : TRef) (pc : Word) (i : LogItem) (h : i.plain = true) (r' : TRef) :
    (logItem s r pc i).thread r' = s.thread r' := by
  cases i with
  | val d v => exact logRecord_thread _ _ _ _ _ _ _ _
  | addr a => exact absurd h (by simp [LogItem.plain])
  | stamp core seq =>
    simp only [logItem]
    split
    · rw [State.thread_modCoreW_of _ _ _ _ rfl, logRecord_thread]
    · rfl
  | leave line => exact absurd h (by simp [LogItem.plain])
  | load d n v => exact logRecord_thread _ _ _ _ _ _ _ _
  | store d n v => exact logRecord_thread _ _ _ _ _ _ _ _
  | flow t =>
    simp only [logItem]
    rw [State.thread_modCoreW_of _ _ _ _ rfl, logRecord_thread]
  | atom k d v => exact logRecord_thread _ _ _ _ _ _ _ _
  | mark k v => exact logRecord_thread _ _ _ _ _ _ _ _
  | vec n v => exact logRecord_thread _ _ _ _ _ _ _ _
  | vecStore n v => exact absurd h (by simp [LogItem.plain])
  | maskw n v => exact logRecord_thread _ _ _ _ _ _ _ _
  | delivered d v => exact logRecord_thread _ _ _ _ _ _ _ _

theorem logFold_thread (r : TRef) (pc : Word) (r' : TRef) (l : List LogItem) :
    ∀ s : State, l.all LogItem.plain = true → (l.foldl (fun s i => logItem s r pc i) s).thread r' = s.thread r' := by
  induction l with
  | nil => intro s _; rfl
  | cons i l ih =>
    intro s h
    simp only [List.all_cons, Bool.and_eq_true] at h
    rw [List.foldl_cons, ih _ h.2, logItem_thread _ _ _ _ h.1]

theorem logItems_thread (s : State) (r : TRef) (pc : Word) (l : List LogItem) (h : l.all LogItem.plain = true) (r' : TRef) :
    (logItems s r pc l).thread r' = s.thread r' := by
  unfold logItems
  split
  · apply logFold_thread
    rw [List.all_eq_true] at h ⊢
    intro i hi
    simp only [List.mem_append, List.mem_filter] at hi
    rcases hi with hi | hi <;> exact h i hi.1
  · rfl

theorem logItems_unwatched (s : State) (r : TRef) (pc : Word) (l : List LogItem) (h : s.watched r.part r.core = false) :
    logItems s r pc l = s := by
  simp only [logItems, h, Bool.false_eq_true, if_false]

@[simp] theorem State.watched_setThread (s : State) (r : TRef) (t : Thread) (p : PartId) (c : CoreId) :
    (s.setThread r t).watched p c = s.watched p c := by
  unfold State.setThread State.setSlot State.watched
  by_cases hp : p = r.part
  · by_cases hc : c = r.core
    · subst hp hc
      rw [State.core_modCoreW]
    · rw [State.modCoreW, State.core_setCore_ne _ _ (Or.inr hc)]
  · rw [State.modCoreW, State.core_setCore_ne _ _ (Or.inl hp)]

/-- The same state with other steps due. -/
def State.withEvents (s : State) (l : List Instr) : State := { s with events := l }
@[simp] theorem State.thread_withEvents (s : State) (l : List Instr) (r : TRef) : (s.withEvents l).thread r = s.thread r := rfl

/-! ## Committing (R18) -/

theorem vget_set (f : Vector Bool 16) (i j : Reg) (b : Bool) : (f.set i b)[j] = if i = j then b else f[j] := by
  simp only [Fin.getElem_fin, Vector.getElem_set, Fin.ext_iff]

theorem clearFull_get (l : List Reg) (j : Reg) : ∀ f : Vector Bool 16, (clearFull f l)[j] = (f[j] && !l.contains j) := by
  induction l with
  | nil => intro f; simp [clearFull]
  | cons i l ih =>
    intro f
    have := ih (f.set i false)
    simp only [clearFull, List.foldl_cons] at this ⊢
    rw [this, vget_set, List.contains_cons]
    by_cases h : i = j
    · subst h; simp
    · have h2 : (j == i) = false := by simpa using Ne.symm h
      simp only [h, if_false, h2, Bool.false_or]

theorem writeFold_g (l : List (Reg × Word)) (r : Regs) :
    (l.foldl (fun r e => r.write e.1 e.2) r).g = l.foldl (fun g e => g.set e.1 e.2) r.g := by
  induction l generalizing r with
  | nil => rfl
  | cons e l ih => rw [List.foldl_cons, ih]; rfl

theorem writeFold_full (l : List (Reg × Word)) (j : Reg) :
    ∀ r : Regs, (l.foldl (fun r e => r.write e.1 e.2) r).full[j] = (l.any (fun e => e.1 == j) || r.full[j]) := by
  induction l with
  | nil => intro r; simp
  | cons e l ih =>
    intro r
    rw [List.foldl_cons, ih, List.any_cons]
    simp only [Regs.write, vget_set]
    by_cases h : e.1 = j
    · simp [h]
    · have h2 : (e.1 == j) = false := by simpa using h
      simp only [h, if_false, h2, Bool.false_or]

theorem commitVectors_vdirty (t : Thread) (c : Commit) (u : Thread) (hv : u.v = (commitVectors t c).v) (hm : u.m = (commitVectors t c).m) :
    u.vdirty = (commitVectors t c).vdirty := by
  simp only [Thread.vdirty, hv, hm]

theorem withVdirty_vdirty (t : Thread) : (withVdirty t).vdirty = t.vdirty := rfl

theorem redeliver_eq (s : State) (t : Thread) (c c' : Commit) (r : Regs) (h : c'.regs = c.regs) :
    redeliver t s.cycle c' r = (lateArrivals s t c).foldl (fun r e => r.write e.1 e.2) r := by
  simp only [redeliver, lateArrivals, h]
  split <;> rfl

/-- What arrived for a register and is written again is among the registers that the effect writes. -/
theorem lateArrivals_any (s : State) (t : Thread) (c : Commit) (j : Reg) (h : (lateArrivals s t c).any (fun e => e.1 == j) = true) :
    c.regs.any (fun e => e.1 == j) = true := by
  simp only [lateArrivals] at h
  split at h
  · simp only [List.any_eq_true, List.mem_filter] at h
    obtain ⟨e, ⟨-, x, hx, he⟩, hj⟩ := h
    exact List.any_eq_true.mpr ⟨x, hx, by rw [beq_iff_eq] at he hj ⊢; rw [he, hj]⟩
  · simp at h

theorem strainCommit_eq (s : State) (t : Thread) : strainCommit t.strain s.cur.words = strainAfter s t := by
  simp only [strainCommit, strainAfter]
  obtain ⟨g, d, c, skip, on, parked⟩ := t.strain
  cases s.cur.words.any isBlkWord <;> cases on <;> simp

theorem commitThread_regs (s : State) (t : Thread) (srcs : List Src) (c : Commit) (n : Nat) (ws : List (BitVec 32)) :
    (commitThread t s.cycle n ws { c with clears := c.clears ++ syncRegs srcs }).regs =
      (lateArrivals s t c).foldl (fun r e => r.write e.1 e.2) (commitRegs t.regs { c with clears := c.clears ++ syncRegs srcs }) :=
  redeliver_eq s t c _ _ rfl

/-- The commit of a bundle on its thread. -/
theorem commitThread_after (s : State) (t : Thread) (srcs : List Src) (c : Commit) :
    After s t srcs c (commitThread t s.cycle s.cur.size s.cur.words { c with clears := c.clears ++ syncRegs srcs }) where
  g := by rw [commitThread_regs]; simp only [commitRegs, writeFold_g, List.foldl_append]
  full := by
    intro j
    rw [commitThread_regs]
    have h := lateArrivals_any s t c j
    simp only [commitRegs, writeFold_full, clearFull_get, List.contains_append, Bool.not_or, Bool.and_assoc, List.append_assoc]
    cases hl : (lateArrivals s t c).any (fun e => e.1 == j) with
    | false =>
      simp only [Bool.false_or]
      congr 1
      cases t.regs.full[j] <;> cases (syncRegs srcs).contains j <;> cases c.clears.contains j <;> cases c.empties.contains j <;> rfl
    | true => rw [h hl]; rfl
  v := rfl
  m := rfl
  pc := rfl
  status := rfl
  strain := strainCommit_eq s t
  rest := rfl

/-- Records that are plain, or of a core that no taster watches, leave every thread as it was. -/
theorem logItems_keep (s : State) (r : TRef) (pc : Word) (l : List LogItem)
    (h : l.all LogItem.plain = true ∨ s.watched r.part r.core = false) (r' : TRef) : (logItems s r pc l).thread r' = s.thread r' := by
  rcases h with h | h
  · exact logItems_thread s r pc l h r'
  · rw [logItems_unwatched s r pc l h]

/-- A bundle with no transfer and plain records, or on an unwatched core, commits: its thread, and on an unwatched core nothing else. -/
theorem commitAt_plain (s : State) (r : TRef) (t : Thread) (size : Nat) (ws : List (BitVec 32)) (c : Commit) (ht : s.thread r = some t)
    (hp : c.log.all LogItem.plain = true ∨ s.watched r.part r.core = false) (hf : c.log.any LogItem.isFlow = false) :
    (commitAt s r size ws c).thread r = some (commitThread t s.cycle size ws c) ∧
    (s.watched r.part r.core = false → commitAt s r size ws c =
      (s.setThread r (commitThread t s.cycle size ws c)).withEvents ((if t.migrate.isSome then [.migration r] else []) ++ s.events)) := by
  have key : commitAt s r size ws c =
      State.withEvents (logItems (s.setThread r (commitThread t s.cycle size ws c)) r t.pc c.log)
        ((if t.migrate.isSome then [.migration r] else []) ++
          (logItems (s.setThread r (commitThread t s.cycle size ws c)) r t.pc c.log).events) := by
    simp only [commitAt, ht, hf, Bool.false_eq_true, if_false, State.withEvents]
    split <;> rfl
  refine ⟨?_, ?_⟩
  · rw [key, State.thread_withEvents, logItems_keep _ _ _ _ (by rw [State.watched_setThread]; exact hp), State.thread_setThread]
  · intro hw
    rw [key, logItems_unwatched _ _ _ _ (by rw [State.watched_setThread]; exact hw)]
    rfl

theorem plain_noWrite (l : List LogItem) (h : l.all LogItem.plain = true) : l.any LogItem.isWrite = false := by
  rw [List.any_eq_false]
  intro i hi
  have := List.all_eq_true.mp h i hi
  cases i <;> simp_all [LogItem.plain, LogItem.isWrite]

/-- The records of a bundle that has no watched write are written at its commit. -/
theorem logPerformed_keep (s : State) (r : TRef) (c : Commit)
    (h : c.log.all LogItem.plain = true ∨ s.watched r.part r.core = false) : logPerformed s r c = s := by
  unfold logPerformed
  split
  · rfl
  · split
    · rename_i h2
      rcases h with h | h
      · rw [plain_noWrite _ h] at h2; cases h2
      · exact logItems_unwatched _ _ _ _ h
    · rfl

theorem unlogged_log (c : Commit) (hf : c.log.any LogItem.isFlow = false) :
    ∃ l, c.unlogged = { c with log := l } ∧ l.any LogItem.isFlow = false ∧ (c.log.all LogItem.plain = true → l = c.log) := by
  unfold Commit.unlogged
  split
  · rename_i h
    have he : c.log.filter LogItem.isFlow = [] := by
      rw [List.filter_eq_nil_iff]
      intro i hi
      have := List.any_eq_false.mp hf i hi
      simpa using this
    refine ⟨_, rfl, by rw [he]; rfl, fun hp => ?_⟩
    rw [plain_noWrite _ hp] at h; cases h
  · exact ⟨c.log, rfl, hf, fun _ => rfl⟩

/-- A bundle with plain records, or on an unwatched core, and a reply time is under way. -/
theorem commitIn_later (s : State) (t : Thread) (srcs : List Src) (c : Commit) (ht : s.thread s.cur.at_ = some t)
    (hp : c.log.all LogItem.plain = true ∨ s.watched s.cur.at_.part s.cur.at_.core = false)
    (hf : c.log.any LogItem.isFlow = false) (hlat : c.lat ≠ 0) :
    Later s t srcs (.next (commitIn s s.cur (s.cycle + c.lat) { c with clears := c.clears ++ syncRegs srcs })) c := by
  obtain ⟨l, hl, hfl, hpl⟩ := unlogged_log { c with clears := c.clears ++ syncRegs srcs } hf
  refine ⟨l, fun hw => ?_, ?_, ?_⟩
  · rcases hp with hp | hp
    · rw [hpl hp]; exact hp
    · rw [hw] at hp; cases hp
  · have hd : ¬ (s.cycle + c.lat ≤ s.cycle) := by omega
    simp only [commitIn, hd, if_false]
    rw [logPerformed_keep s s.cur.at_ { c with clears := c.clears ++ syncRegs srcs } hp, hl]
    simp only [pendThread, State.modThread, ht, awaiting, State.after, State.setThread_cycle, Nat.add_sub_cancel_left]
  · intro u hu hd hpu
    have hc : ¬ (u.cycle < s.cycle + c.lat) := by omega
    have hr := commitAt_plain (u.setThread s.cur.at_
        { awaiting s t srcs c l (s.cycle + c.lat) with readyAt := Nat.max t.readyAt (u.cycle + 1) })
      s.cur.at_ _ s.cur.size s.cur.words { c with log := l, clears := c.clears ++ syncRegs srcs } (State.thread_setThread _ _ _)
      (by rw [State.watched_setThread]; exact hpu) hfl
    refine ⟨_, _, ?_, hr.1, ?_, ?_⟩
    · show execMemoryReply s.cur.at_ none u = _
      simp only [execMemoryReply, hu, awaiting, hc, if_false, replyCommit]
    · have := commitThread_after { u with cur := s.cur }
        { awaiting s t srcs c l (s.cycle + c.lat) with readyAt := Nat.max t.readyAt (u.cycle + 1) } srcs c
      exact this
    · intro hw
      rw [hr.2 (by rw [State.watched_setThread]; exact hw)]
      simp only [State.withEvents, State.setThread_setThread, State.setThread_events, State.setThread_cycle]
      rfl

@[simp] theorem State.cur_setThread (s : State) (r : TRef) (t : Thread) : (s.setThread r t).cur = s.cur := rfl

/-! ## Running a word (R14, R18) -/

theorem runWord_ready {s : State} {t : Thread} {srcs : List Src} (h : Ready s t srcs) (f : TRef → Thread → State → Res) :
    runWord srcs f s = .next (settle s.cur ((f s.cur.at_ t s).clearing (syncRegs srcs))) := by
  obtain ⟨ht, -, he⟩ := h
  simp only [runWord, ht, he, List.isEmpty_nil, if_true]

/-- A word whose synchronised sources are not all full waits (R14). -/
theorem runWord_empty {s : State} {t : Thread} {srcs : List Src} (ht : s.thread s.cur.at_ = some t)
    (he : emptyRegs t (syncRegs srcs) ≠ []) (f : TRef → Thread → State → Res) :
    runWord srcs f s = .next (waitThread s s.cur.at_ (.regs (emptyRegs t (syncRegs srcs)))) := by
  have : (emptyRegs t (syncRegs srcs)).isEmpty = false := by
    cases h : emptyRegs t (syncRegs srcs) with
    | nil => exact absurd h he
    | cons _ _ => rfl
  simp only [runWord, ht, this, Bool.false_eq_true, if_false]

theorem settle_done_first {u : Cur} {s1 : State} (c : Commit) (h : u.phase = .first) :
    settle u (.done c s1) = commitIn s1 u (s1.cycle + c.lat) c := by
  have hh : holdUntil s1 u = 0 := by simp [holdUntil, h]
  have hm : Nat.max (s1.cycle + c.lat) 0 = s1.cycle + c.lat := Nat.max_zero _
  simp only [settle, h, commitDue, hh, hm]

/-- A word of a lone bundle that comes to `done` commits. -/
theorem runWord_commits {s s1 : State} {t : Thread} {srcs : List Src} {f : TRef → Thread → State → Res} {c : Commit} (h : Ready s t srcs)
    (hf : f s.cur.at_ t s = .done c s1) : Commits s s1 srcs (runWord srcs f s) c := by
  rw [Commits, runWord_ready h, hf]
  simp only [Res.clearing]
  rw [settle_done_first _ h.2.1]

theorem runWord_faults {s s1 : State} {t : Thread} {srcs : List Src} {f : TRef → Thread → State → Res} {k : Cause} {ea : Option Word}
    (h : Ready s t srcs) (hf : f s.cur.at_ t s = .trap k ea s1) : Faults s s1 (runWord srcs f s) k ea := by
  rw [Faults, runWord_ready h, hf]; rfl

theorem runWord_drops {s s1 : State} {t : Thread} {srcs : List Src} {f : TRef → Thread → State → Res} {q : TrapRec}
    (h : Ready s t srcs) (hf : f s.cur.at_ t s = .drop q s1) : Drops s s1 (runWord srcs f s) q := by
  rw [Drops, runWord_ready h, hf]; rfl

theorem runWord_waits {s s1 : State} {t : Thread} {srcs : List Src} {f : TRef → Thread → State → Res} {w : Wait}
    (h : Ready s t srcs) (hf : f s.cur.at_ t s = .wait w s1) : Waits s s1 (runWord srcs f s) w := by
  rw [Waits, runWord_ready h, hf]; rfl

theorem runWord_pends {s s1 : State} {t : Thread} {srcs : List Src} {f : TRef → Thread → State → Res} {q : Pend}
    (h : Ready s t srcs) (hf : f s.cur.at_ t s = .pend q s1) : Pends s s1 srcs (runWord srcs f s) q := by
  rw [Pends, runWord_ready h, hf]
  simp only [Res.clearing, settle, h.2.1]
  rfl

/-- A word that computes from registers alone completes (R18). -/
theorem runPure_completes {s : State} {t : Thread} {srcs : List Src} (h : Ready s t srcs) (f : Thread → Commit)
    (hp : (f t).log.all LogItem.plain = true) (hf : (f t).log.any LogItem.isFlow = false) :
    Completes s t srcs (runPure srcs f s) (f t) := by
  rw [runPure, runWord_ready h]
  simp only [Res.clearing]
  rw [settle_done_first _ h.2.1]
  refine ⟨fun hl => commitIn_later s t srcs (f t) h.1 (.inl hp) hf hl, fun hl => ?_⟩
  obtain ⟨h1, h2⟩ := commitAt_plain s s.cur.at_ t s.cur.size s.cur.words { f t with clears := (f t).clears ++ syncRegs srcs } h.1 (.inl hp) hf
  refine ⟨_, _, ?_, h1, commitThread_after s t srcs (f t), h2⟩
  simp only [commitIn, hl, Nat.add_zero, Nat.le_refl, if_true]

/-- What a commit's records say does not enter its effect on the thread. -/
theorem After.log {s : State} {t t' : Thread} {srcs : List Src} {c : Commit} (h : After s t srcs c t') (l : List LogItem) :
    After s t srcs { c with log := l } t' :=
  ⟨h.g, h.full, h.v, h.m, h.pc, h.status, h.strain, h.rest⟩

theorem Completes.log {s : State} {t : Thread} {srcs : List Src} {o : Out} {c : Commit} (h : Completes s t srcs o c) (l : List LogItem) :
    Completes s t srcs o { c with log := l } := by
  refine ⟨fun hl => ?_, fun hl => ?_⟩
  · obtain ⟨l', hw, ho, hr⟩ := h.1 hl
    refine ⟨l', hw, ho, fun u hu hd hp => ?_⟩
    obtain ⟨u', t', h1, h2, h3, h4⟩ := hr u hu hd hp
    exact ⟨u', t', h1, h2, h3.log l, h4⟩
  · obtain ⟨s', t', ho, ht, ha, hs⟩ := h.2 hl
    exact ⟨s', t', ho, ht, ha.log l, hs⟩

/-- A word that writes one general register from registers alone. -/
theorem aluWord_completes {s : State} {t : Thread} {srcs : List Src} (h : Ready s t srcs) (d : Reg) (f : Thread → Word) :
    Completes s t srcs (aluWord srcs d f s) (writes d (f t)) :=
  (runPure_completes h (fun t => Commit.reg d (f t)) rfl rfl).log []

theorem alu3_completes {s : State} {t : Thread} {a b : Src} (h : Ready s t [a, b]) (d : Reg) (f : Word → Word → Word) :
    Completes s t [a, b] (alu3 f d a b s) (writes d (f (t.rd a) (t.rd b))) :=
  aluWord_completes h d (fun t => f (t.rd a) (t.rd b))

theorem alu2_completes {s : State} {t : Thread} {a : Src} (h : Ready s t [a]) (d : Reg) (f : Word → Word) :
    Completes s t [a] (alu2 f d a s) (writes d (f (t.rd a))) :=
  aluWord_completes h d (fun t => f (t.rd a))

theorem divWord_completes {s : State} {t : Thread} {a b : Src} (h : Ready s t [a, b]) (sg : Bool) (f : Word → Word → Word) (d : Reg) :
    Completes s t [a, b] (divWord sg f d a b s)
      { writes d (f (t.rd a) (t.rd b)) with lat := divTime sg (t.rd a) (t.rd b) } :=
  (runPure_completes h (fun t => (Commit.reg d (f (t.rd a) (t.rd b))).late (divTime sg (t.rd a) (t.rd b))) rfl rfl).log []

/-- A scalar floating-point word: its register and its flags (R99, R102). -/
theorem fpWord_completes {s : State} {t : Thread} {srcs : List Src} (h : Ready s t srcs) (d : Reg) (f : Thread → FRes) :
    Completes s t srcs (runPure srcs (fun t => fpCommit d (f t)) s) (writesF d (word (f t).bits) (f t).fl) :=
  (runPure_completes h (fun t => fpCommit d (f t)) rfl rfl).log []

/-- A word that writes one vector register from registers alone (R179). -/
theorem vecWord_completes {s : State} {t : Thread} {srcs : List Src} (h : Ready s t srcs) (d : VReg) (f : Thread → BitVec 512) :
    Completes s t srcs (runPure srcs (fun t => vecCommit d (f t)) s) (writesV d (f t)) :=
  (runPure_completes h (fun t => vecCommit d (f t)) rfl rfl).log []

theorem maskWord_completes {s : State} {t : Thread} {srcs : List Src} (h : Ready s t srcs) (d : MReg) (f : Thread → BitVec 64) :
    Completes s t srcs (runPure srcs (fun t => maskCommit d (f t)) s) (writesM d (f t)) :=
  (runPure_completes h (fun t => maskCommit d (f t)) rfl rfl).log []

/-! ## What leaves memory, the running bundle and the time alone -/

/-- Two states that differ in no byte of memory, no full bit, no poison, not in the running bundle, nor in the time. -/
structure SameOutside (s s' : State) : Prop where
  mem : s'.mem = s.mem
  fe : s'.fe = s.fe
  poison : s'.poison = s.poison
  poisonW : s'.poisonW = s.poisonW
  cur : s'.cur = s.cur
  cycle : s'.cycle = s.cycle
  time : s'.time = s.time

theorem SameOutside.rfl_ {s : State} : SameOutside s s := ⟨rfl, rfl, rfl, rfl, rfl, rfl, rfl⟩
theorem SameOutside.trans {a b c : State} (h : SameOutside a b) (k : SameOutside b c) : SameOutside a c :=
  ⟨k.mem.trans h.mem, k.fe.trans h.fe, k.poison.trans h.poison, k.poisonW.trans h.poisonW, k.cur.trans h.cur, k.cycle.trans h.cycle, k.time.trans h.time⟩

theorem same_modPart (s : State) (p : PartId) (f : Partition → Partition) : SameOutside s (s.modPart p f) := ⟨rfl, rfl, rfl, rfl, rfl, rfl, rfl⟩
theorem same_modCoreC (s : State) (p : PartId) (c : CoreId) (f : CoreFixed → CoreFixed) : SameOutside s (s.modCoreC p c f) := ⟨rfl, rfl, rfl, rfl, rfl, rfl, rfl⟩
theorem same_modCoreW (s : State) (p : PartId) (c : CoreId) (f : CoreWorld → CoreWorld) : SameOutside s (s.modCoreW p c f) := ⟨rfl, rfl, rfl, rfl, rfl, rfl, rfl⟩
theorem same_setThread (s : State) (r : TRef) (t : Thread) : SameOutside s (s.setThread r t) := ⟨rfl, rfl, rfl, rfl, rfl, rfl, rfl⟩
theorem same_push (s : State) (i : Instr) : SameOutside s (s.push i) := ⟨rfl, rfl, rfl, rfl, rfl, rfl, rfl⟩
theorem same_hostEvent (s : State) (p : PartId) (n : Nat) : SameOutside s (s.hostEvent p n) := ⟨rfl, rfl, rfl, rfl, rfl, rfl, rfl⟩

theorem same_modThread (s : State) (r : TRef) (f : Thread → Thread) : SameOutside s (s.modThread r f) := by
  unfold State.modThread; split
  · exact same_setThread _ _ _
  · exact SameOutside.rfl_

theorem same_foldl {α : Type} (f : State → α → State) (h : ∀ s a, SameOutside s (f s a)) (l : List α) :
    ∀ s, SameOutside s (l.foldl f s) := by
  induction l with
  | nil => intro s; exact SameOutside.rfl_
  | cons a l ih => intro s; exact (h s a).trans (ih _)

theorem same_modThreads (s : State) (p : PartId) (f : Thread → Thread) : SameOutside s (s.modThreads p f) :=
  same_foldl _ (fun _ _ => same_modCoreW _ _ _ _) _ _

theorem same_hwSet (s : State) (p : PartId) (c : CoreId) (x : SysReg) (b : Nat) : SameOutside s (s.hwSet p c x b) := ⟨rfl, rfl, rfl, rfl, rfl, rfl, rfl⟩
theorem same_mtsSet (s : State) (p : PartId) (c : CoreId) (x : SysReg) (v : Word) : SameOutside s (s.mtsSet p c x v) := ⟨rfl, rfl, rfl, rfl, rfl, rfl, rfl⟩

theorem same_noteWrap (s : State) (p : PartId) (c : CoreId) (i : Fin 4) : SameOutside s (noteWrap s p c i) := by
  unfold noteWrap; dsimp only; split
  · exact ((same_modCoreW _ _ _ _).trans (same_hwSet _ _ _ _ _)).trans (same_modCoreC _ _ _ _)
  · exact (same_modCoreW _ _ _ _).trans (same_hwSet _ _ _ _ _)

theorem same_countReg (s : State) (p : PartId) (c : CoreId) (n : Nat) (i : Fin 4) : SameOutside s (countReg s p c n i) := by
  unfold countReg; split <;> dsimp only <;> split
  · exact (same_mtsSet _ _ _ _ _).trans (same_noteWrap _ _ _ _)
  · exact same_mtsSet _ _ _ _ _
  · exact (same_modCoreW _ _ _ _).trans (same_noteWrap _ _ _ _)
  · exact same_modCoreW _ _ _ _

theorem same_count (s : State) (p : PartId) (c : CoreId) (code : Nat) (sl : Option SlotId) (n : Nat) : SameOutside s (s.count p c code sl n) := by
  unfold State.count; split
  · exact same_foldl _ (fun _ _ => same_countReg _ _ _ _ _) _ _
  · exact SameOutside.rfl_

theorem same_traceCond (s : State) (p : PartId) (c : CoreId) (n : Nat) : SameOutside s (s.traceCond p c n) := by
  unfold State.traceCond; dsimp only; split
  · exact same_modCoreC _ _ _ _
  · exact SameOutside.rfl_

theorem same_traceSlotCond (s : State) (r : TRef) (n : Nat) : SameOutside s (s.traceSlotCond r n) := by
  unfold State.traceSlotCond; split
  · exact same_traceCond _ _ _ _
  · exact SameOutside.rfl_

theorem same_traceRec (s : State) (r : TRef) (k : Nat) (pc : Word) (corr : BitVec 32) : SameOutside s (s.traceRec r k pc corr) := by
  unfold State.traceRec; dsimp only; split
  · exact same_modCoreC _ _ _ _
  · exact SameOutside.rfl_

theorem same_enqueueRecord (s : State) (p : PartId) (x : TrapRec) : SameOutside s (enqueueRecord s p x) := same_modPart _ _ _

theorem same_dumpStart (s : State) (p : PartId) (x : TrapRec) : SameOutside s (dumpStart s p x) := by
  simp only [dumpStart]
  split
  · split
    · exact (same_modThreads _ _ _).trans (same_modPart _ _ _)
    · split
      · split
        · exact ((same_modThreads _ _ _).trans (same_modPart _ _ _)).trans (same_push _ _)
        · exact (same_modThreads _ _ _).trans (same_modPart _ _ _)
      · exact (same_modThreads _ _ _).trans (same_enqueueRecord _ _ _)
  · exact SameOutside.rfl_

/-- Posting a record changes no memory: its words are written when the queue engine's turn comes (R316). -/
theorem same_postRecord (s : State) (p : PartId) (x : TrapRec) : SameOutside s (postRecord s p x) :=
  (same_enqueueRecord _ _ _).trans (same_dumpStart _ _ _)

theorem same_faultEvents (s : State) (r : TRef) (t : Thread) : SameOutside s (faultEvents s r t) :=
  ((same_count _ _ _ _ _ _).trans (same_traceSlotCond _ _ _)).trans (same_traceRec _ _ _ _ _)

theorem cur_logAppend (s : State) (p : PartId) (c : CoreId) (ws : List Nat) : (logAppend s p c ws).cur = s.cur := by
  simp [logAppend]
theorem cur_logRecord (s : State) (p : PartId) (c : CoreId) (slot : SlotId) (type info : Nat) (payload : List Nat) :
    (logRecord s p c slot type info payload).cur = s.cur := by
  simp only [logRecord]; split
  · rfl
  · rw [cur_logAppend]; split
    · rw [State.modCoreW_cur, cur_logAppend]
    · rfl
theorem cur_logMark (s : State) (r : TRef) (k : Nat) (v : Option Word) : (logMark s r k v).cur = s.cur := by
  unfold logMark; split
  · exact cur_logRecord _ _ _ _ _ _ _
  · rfl

theorem takeTrap_cur (s : State) (r : TRef) (k : Cause) (ea : Option Word) : (takeTrap s r k ea).cur = s.cur := by
  unfold takeTrap
  split
  · rfl
  · extract_lets epc a h t' s1 s2
    have h2 : SameOutside s s2 := by
      have h1 : SameOutside s s1 := same_faultEvents s r _
      refine h1.trans ?_
      simp only [s2]
      split
      · split
        · exact same_traceCond _ _ _ _
        · exact SameOutside.rfl_
      · exact SameOutside.rfl_
    split
    · exact ((h2.trans (same_setThread _ _ _)).trans (same_postRecord _ _ _)).cur
    · rw [cur_logMark]; exact h2.cur

theorem logMark_unwatched (s : State) (r : TRef) (k : Nat) (v : Option Word) (h : s.watched r.part r.core = false) : logMark s r k v = s := by
  simp only [logMark, h, Bool.false_eq_true, if_false]

/-! ## Requests to the shared SRAM (R415) -/

theorem State.foldl_modRegs (f : PRegs → PRegs) (l : List PartId) (s : State) :
    l.foldl (fun s q => s.modRegs q f) s = { s with parts := (l.foldl (fun s q => s.modRegs q f) s).parts } := by
  induction l generalizing s with
  | nil => rfl
  | cons i l ih => simp only [List.foldl_cons]; rw [ih]; rfl

/-- A request to the shared SRAM counts in registers of partitions, and changes nothing else. -/
theorem State.sramAt_eq (s : State) (p : PartId) (k : Nat) : s.sramAt p k = { s with parts := (s.sramAt p k).parts } := by
  unfold State.sramAt
  split
  · exact State.foldl_modRegs _ _ s
  · rfl

@[simp] theorem State.sramAt_mem (s : State) (p : PartId) (k : Nat) : (s.sramAt p k).mem = s.mem := by rw [State.sramAt_eq]
@[simp] theorem State.sramAt_fe (s : State) (p : PartId) (k : Nat) : (s.sramAt p k).fe = s.fe := by rw [State.sramAt_eq]
@[simp] theorem State.sramAt_poison (s : State) (p : PartId) (k : Nat) : (s.sramAt p k).poison = s.poison := by rw [State.sramAt_eq]
@[simp] theorem State.sramAt_cycle (s : State) (p : PartId) (k : Nat) : (s.sramAt p k).cycle = s.cycle := by rw [State.sramAt_eq]
@[simp] theorem State.sramAt_time (s : State) (p : PartId) (k : Nat) : (s.sramAt p k).time = s.time := by rw [State.sramAt_eq]
@[simp] theorem State.sramAt_scan (s : State) (p : PartId) (k : Nat) : (s.sramAt p k).scan = s.scan := by rw [State.sramAt_eq]
@[simp] theorem State.sramAt_cur (s : State) (p : PartId) (k : Nat) : (s.sramAt p k).cur = s.cur := by rw [State.sramAt_eq]
@[simp] theorem State.sramAt_events (s : State) (p : PartId) (k : Nat) : (s.sramAt p k).events = s.events := by rw [State.sramAt_eq]
@[simp] theorem State.sramAt_timers (s : State) (p : PartId) (k : Nat) : (s.sramAt p k).timers = s.timers := by rw [State.sramAt_eq]
@[simp] theorem State.sramAt_waiting (s : State) (p : PartId) (k : Nat) : (s.sramAt p k).waiting = s.waiting := by rw [State.sramAt_eq]
@[simp] theorem State.sramAt_hwNow (s : State) (p : PartId) (k : Nat) : (s.sramAt p k).hwNow = s.hwNow := by rw [State.sramAt_eq]
@[simp] theorem State.sramAt_mtsNow (s : State) (p : PartId) (k : Nat) : (s.sramAt p k).mtsNow = s.mtsNow := by rw [State.sramAt_eq]
@[simp] theorem State.sramAt_free (s : State) (p : PartId) (k : Nat) : (s.sramAt p k).free = s.free := by rw [State.sramAt_eq]
@[simp] theorem State.sramAt_modid (s : State) (p : PartId) (k : Nat) : (s.sramAt p k).modid = s.modid := by rw [State.sramAt_eq]
@[simp] theorem State.sramAt_firmware (s : State) (p : PartId) (k : Nat) : (s.sramAt p k).firmware = s.firmware := by rw [State.sramAt_eq]
@[simp] theorem State.sramAt_sessions (s : State) (p : PartId) (k : Nat) : (s.sramAt p k).sessions = s.sessions := by rw [State.sramAt_eq]
@[simp] theorem State.sramAt_hostOut (s : State) (p : PartId) (k : Nat) : (s.sramAt p k).hostOut = s.hostOut := by rw [State.sramAt_eq]
@[simp] theorem State.sramAt_portOut (s : State) (p : PartId) (k : Nat) : (s.sramAt p k).portOut = s.portOut := by rw [State.sramAt_eq]
@[simp] theorem State.sramAt_clockSteps (s : State) (p : PartId) (k : Nat) : (s.sramAt p k).clockSteps = s.clockSteps := by rw [State.sramAt_eq]
@[simp] theorem State.sramAt_bringUp (s : State) (p : PartId) (k : Nat) : (s.sramAt p k).bringUp = s.bringUp := by rw [State.sramAt_eq]
@[simp] theorem State.sramAt_poisonW (s : State) (p : PartId) (k : Nat) : (s.sramAt p k).poisonW = s.poisonW := by rw [State.sramAt_eq]

end Sys2Proof.Machine
end

