-- ==== Sys2Proof/Laws/PerInstr.lean ====
section
/-! SUPPORT. A statement made of every instruction: it has a word if and only if it is one of those that have one. -/
namespace Sys2Proof.Laws.Coded

/-- The instruction has a word (R45 to R48) exactly when it is no step of another agent. -/
def Statement (i : Instr) : Prop := i.encoded = (encode i).isSome

theorem nop : Statement (.nop) := rfl
theorem b (off : BitVec 20) : Statement (.b off) := rfl
theorem call (off : BitVec 20) : Statement (.call off) := rfl
theorem bz (a : Src) (off : BitVec 15) : Statement (.bz a off) := rfl
theorem bnz (a : Src) (off : BitVec 15) : Statement (.bnz a off) := rfl
theorem bcc (c : BrCc) (a : Src) (off : BitVec 15) : Statement (.bcc c a off) := rfl
theorem jmp (a : Src) : Statement (.jmp a) := rfl
theorem callr (a : Src) : Statement (.callr a) := rfl
theorem blk (sig dig : BitVec 12) : Statement (.blk sig dig) := rfl
theorem ldS8 (d : Reg) (a : Src) (off : BitVec 15) : Statement (.ldS8 d a off) := rfl
theorem ldS16 (d : Reg) (a : Src) (off : BitVec 15) : Statement (.ldS16 d a off) := rfl
theorem ldS32 (d : Reg) (a : Src) (off : BitVec 15) : Statement (.ldS32 d a off) := rfl
theorem ldS64 (d : Reg) (a : Src) (off : BitVec 15) : Statement (.ldS64 d a off) := rfl
theorem ldZ8 (d : Reg) (a : Src) (off : BitVec 15) : Statement (.ldZ8 d a off) := rfl
theorem ldZ16 (d : Reg) (a : Src) (off : BitVec 15) : Statement (.ldZ16 d a off) := rfl
theorem ldZ32 (d : Reg) (a : Src) (off : BitVec 15) : Statement (.ldZ32 d a off) := rfl
theorem ldx (ty : LdType) (d : Reg) (a b : Src) : Statement (.ldx ty d a b) := rfl
theorem st8 (d : Reg) (a : Src) (off : BitVec 15) : Statement (.st8 d a off) := rfl
theorem st16 (d : Reg) (a : Src) (off : BitVec 15) : Statement (.st16 d a off) := rfl
theorem st32 (d : Reg) (a : Src) (off : BitVec 15) : Statement (.st32 d a off) := rfl
theorem st64 (d : Reg) (a : Src) (off : BitVec 15) : Statement (.st64 d a off) := rfl
theorem stx (ty : StType) (d : Reg) (a b : Src) : Statement (.stx ty d a b) := rfl
theorem lds (d : Reg) (a : Src) (off : BitVec 15) : Statement (.lds d a off) := rfl
theorem ldsk (d : Reg) (a : Src) (off : BitVec 15) : Statement (.ldsk d a off) := rfl
theorem sts (d : Reg) (a : Src) (off : BitVec 15) : Statement (.sts d a off) := rfl
theorem stf (d : Reg) (a : Src) (off : BitVec 15) : Statement (.stf d a off) := rfl
theorem clre (a : Src) (off : BitVec 15) : Statement (.clre a off) := rfl
theorem spawn (d : Reg) (a b : Src) : Statement (.spawn d a b) := rfl
theorem exit : Statement (.exit) := rfl
theorem send (a b : Src) : Statement (.send a b) := rfl
theorem recv (d : Reg) : Statement (.recv d) := rfl
theorem amsg (a b : Src) : Statement (.amsg a b) := rfl
theorem dlg (d : Reg) (a b : Src) : Statement (.dlg d a b) := rfl
theorem migr (a : Src) : Statement (.migr a) := rfl
theorem lrw (d : Reg) (a : Src) : Statement (.lrw d a) := rfl
theorem sch (a b : Src) : Statement (.sch a b) := rfl
theorem rls (a : Src) : Statement (.rls a) := rfl
theorem bar (sc : Scope) (a : Src) : Statement (.bar sc a) := rfl
theorem amo (op : AmoOp) (sz : AmoSize) (d : Reg) (a b : Src) : Statement (.amo op sz d a b) := rfl
theorem red (op : AmoOp) (sz : AmoSize) (a b : Src) : Statement (.red op sz a b) := rfl
theorem fence (sc : Scope) : Statement (.fence sc) := rfl
theorem pour (sc : Scope) : Statement (.pour sc) := rfl
theorem fbar : Statement (.fbar) := rfl
theorem cwb (a : Src) : Statement (.cwb a) := rfl
theorem cinv (a : Src) : Statement (.cinv a) := rfl
theorem iinv (a : Src) : Statement (.iinv a) := rfl
theorem pref (a : Src) : Statement (.pref a) := rfl
theorem plbi (a : Src) : Statement (.plbi a) := rfl
theorem addm (a b : Src) : Statement (.addm a b) := rfl
theorem ldb (d : Reg) (a b : Src) : Statement (.ldb d a b) := rfl
theorem ldbImm (d : Reg) (a : Src) (k : BitVec 8) : Statement (.ldbImm d a k) := rfl
theorem vld (d : VReg) (a : Src) (off : BitVec 15) : Statement (.vld d a off) := rfl
theorem vst (d : VReg) (a : Src) (off : BitVec 15) : Statement (.vst d a off) := rfl
theorem vlds (ty : VType) (mask : Option MReg) (d : VReg) (a b : Src) : Statement (.vlds ty mask d a b) := rfl
theorem vgath (ty : VType) (mask : Option MReg) (d : VReg) (a : Src) (b : VReg) : Statement (.vgath ty mask d a b) := rfl
theorem vscat (ty : VType) (mask : Option MReg) (d : VReg) (a : Src) (b : VReg) : Statement (.vscat ty mask d a b) := rfl
theorem vsrd (ty : VType) (d : VReg) (a : SReg) : Statement (.vsrd ty d a) := rfl
theorem cpy (bind : Option SReg) (d : Reg) (a b : Src) : Statement (.cpy bind d a b) := rfl
theorem cpy2 (bind : Option SReg) (d : Reg) (a b : Src) : Statement (.cpy2 bind d a b) := rfl
theorem cpyg (bind : Option SReg) (d : Reg) (a b : Src) : Statement (.cpyg bind d a b) := rfl
theorem cpyw (a : Src) : Statement (.cpyw a) := rfl
theorem cpyq (d : Reg) (a : Src) : Statement (.cpyq d a) := rfl
theorem srd (ty : LdType) (d : Reg) (a : SReg) : Statement (.srd ty d a) := rfl
theorem rngi (ring : RingId) (a : Src) : Statement (.rngi ring a) := rfl
theorem rnga (ring : RingId) (a : Src) : Statement (.rnga ring a) := rfl
theorem rngq (d : Reg) (ring : RingId) : Statement (.rngq d ring) := rfl
theorem mxq (slot : Fin 2) (sr : Semiring) (na nb az : Bool) (pop : Pop) (d : Reg) (ra rb : RingId) : Statement (.mxq slot sr na nb az pop d ra rb) := rfl
theorem mxw (a : Src) : Statement (.mxw a) := rfl
theorem mxp (d : Reg) (a : Src) : Statement (.mxp d a) := rfl
theorem mxz (slot : Fin 2) : Statement (.mxz slot) := rfl
theorem mxst (slot : Fin 2) (a : Src) : Statement (.mxst slot a) := rfl
theorem mxr (slot : Fin 2) : Statement (.mxr slot) := rfl
theorem trap (n : BitVec 10) : Statement (.trap n) := rfl
theorem eret : Statement (.eret) := rfl
theorem park (a : Src) : Statement (.park a) := rfl
theorem gsw (a : Src) : Statement (.gsw a) := rfl
theorem cont : Statement (.cont) := rfl
theorem logn : Statement (.logn) := rfl
theorem loga (a : Src) : Statement (.loga a) := rfl
theorem mfs (d : Reg) (r : SysReg) : Statement (.mfs d r) := rfl
theorem mts (r : SysReg) (a : Src) : Statement (.mts r a) := rfl
theorem coll (d : Reg) (a : Src) : Statement (.coll d a) := rfl
theorem collw (d : Reg) (a : Src) : Statement (.collw d a) := rfl
theorem snap (d : Reg) : Statement (.snap d) := rfl
theorem snapq (d : Reg) (a : Src) : Statement (.snapq d a) := rfl
theorem add (d : Reg) (a b : Src) : Statement (.add d a b) := rfl
theorem sub (d : Reg) (a b : Src) : Statement (.sub d a b) := rfl
theorem and (d : Reg) (a b : Src) : Statement (.and d a b) := rfl
theorem or (d : Reg) (a b : Src) : Statement (.or d a b) := rfl
theorem xor (d : Reg) (a b : Src) : Statement (.xor d a b) := rfl
theorem andn (d : Reg) (a b : Src) : Statement (.andn d a b) := rfl
theorem orn (d : Reg) (a b : Src) : Statement (.orn d a b) := rfl
theorem shl (d : Reg) (a b : Src) : Statement (.shl d a b) := rfl
theorem shr (d : Reg) (a b : Src) : Statement (.shr d a b) := rfl
theorem sha (d : Reg) (a b : Src) : Statement (.sha d a b) := rfl
theorem ror (d : Reg) (a b : Src) : Statement (.ror d a b) := rfl
theorem min (d : Reg) (a b : Src) : Statement (.min d a b) := rfl
theorem max (d : Reg) (a b : Src) : Statement (.max d a b) := rfl
theorem minz (d : Reg) (a b : Src) : Statement (.minz d a b) := rfl
theorem maxz (d : Reg) (a b : Src) : Statement (.maxz d a b) := rfl
theorem mul (d : Reg) (a b : Src) : Statement (.mul d a b) := rfl
theorem mulh (d : Reg) (a b : Src) : Statement (.mulh d a b) := rfl
theorem mulhz (d : Reg) (a b : Src) : Statement (.mulhz d a b) := rfl
theorem div (d : Reg) (a b : Src) : Statement (.div d a b) := rfl
theorem divz (d : Reg) (a b : Src) : Statement (.divz d a b) := rfl
theorem rem (d : Reg) (a b : Src) : Statement (.rem d a b) := rfl
theorem remz (d : Reg) (a b : Src) : Statement (.remz d a b) := rfl
theorem clmul (d : Reg) (a b : Src) : Statement (.clmul d a b) := rfl
theorem clmulh (d : Reg) (a b : Src) : Statement (.clmulh d a b) := rfl
theorem clz (d : Reg) (a : Src) : Statement (.clz d a) := rfl
theorem ctz (d : Reg) (a : Src) : Statement (.ctz d a) := rfl
theorem popc (d : Reg) (a : Src) : Statement (.popc d a) := rfl
theorem brev (d : Reg) (a : Src) : Statement (.brev d a) := rfl
theorem bswap (d : Reg) (a : Src) : Statement (.bswap d a) := rfl
theorem exts (d : Reg) (a : Src) (pos wm1 : BitVec 6) : Statement (.exts d a pos wm1) := rfl
theorem extz (d : Reg) (a : Src) (pos wm1 : BitVec 6) : Statement (.extz d a pos wm1) := rfl
theorem ins (d : Reg) (a : Src) (pos wm1 : BitVec 6) : Statement (.ins d a pos wm1) := rfl
theorem sel (d : Reg) (a b : Src) (c : Reg) : Statement (.sel d a b c) := rfl
theorem addx (d : Reg) (a b : Src) (sh : Fin 8) : Statement (.addx d a b sh) := rfl
theorem cmp (cc : Cc) (d : Reg) (a b : Src) : Statement (.cmp cc d a b) := rfl
theorem cmpi (cc : Cc) (d : Reg) (a : Src) (imm : BitVec 11) : Statement (.cmpi cc d a imm) := rfl
theorem addi (d : Reg) (a : Src) (imm : BitVec 15) : Statement (.addi d a imm) := rfl
theorem andi (d : Reg) (a : Src) (imm : BitVec 15) : Statement (.andi d a imm) := rfl
theorem ori (d : Reg) (a : Src) (imm : BitVec 15) : Statement (.ori d a imm) := rfl
theorem xori (d : Reg) (a : Src) (imm : BitVec 15) : Statement (.xori d a imm) := rfl
theorem shli (d : Reg) (a : Src) (n : BitVec 6) : Statement (.shli d a n) := rfl
theorem shri (d : Reg) (a : Src) (n : BitVec 6) : Statement (.shri d a n) := rfl
theorem shai (d : Reg) (a : Src) (n : BitVec 6) : Statement (.shai d a n) := rfl
theorem rori (d : Reg) (a : Src) (n : BitVec 6) : Statement (.rori d a n) := rfl
theorem li (d : Reg) (imm : BitVec 20) : Statement (.li d imm) := rfl
theorem lih (d : Reg) (q : BitVec 2) (v : BitVec 16) : Statement (.lih d q v) := rfl
theorem fadd (ty : FType) (d : Reg) (a b : Src) : Statement (.fadd ty d a b) := rfl
theorem fsub (ty : FType) (d : Reg) (a b : Src) : Statement (.fsub ty d a b) := rfl
theorem fmul (ty : FType) (d : Reg) (a b : Src) : Statement (.fmul ty d a b) := rfl
theorem fma (ty : FType) (d : Reg) (a b : Src) : Statement (.fma ty d a b) := rfl
theorem fms (ty : FType) (d : Reg) (a b : Src) : Statement (.fms ty d a b) := rfl
theorem fnma (ty : FType) (d : Reg) (a b : Src) : Statement (.fnma ty d a b) := rfl
theorem fdiv (ty : FType) (d : Reg) (a b : Src) : Statement (.fdiv ty d a b) := rfl
theorem fsqrt (ty : FType) (d : Reg) (a : Src) : Statement (.fsqrt ty d a) := rfl
theorem fmin (ty : FType) (d : Reg) (a b : Src) : Statement (.fmin ty d a b) := rfl
theorem fmax (ty : FType) (d : Reg) (a b : Src) : Statement (.fmax ty d a b) := rfl
theorem fsgn (ty : FType) (d : Reg) (a b : Src) : Statement (.fsgn ty d a b) := rfl
theorem fclass (ty : FType) (d : Reg) (a : Src) : Statement (.fclass ty d a) := rfl
theorem fcmp (ty : FType) (cc : FCc) (d : Reg) (a b : Src) : Statement (.fcmp ty cc d a b) := rfl
theorem fcvt (dst src : CType) (d : Reg) (a : Src) : Statement (.fcvt dst src d a) := rfl
theorem fcvti (src : FType) (it : IType) (rm : RMode) (d : Reg) (a : Src) : Statement (.fcvti src it rm d a) := rfl
theorem fcvtf (dst : FType) (it : IType) (d : Reg) (a : Src) : Statement (.fcvtf dst it d a) := rfl
theorem vadd (ty : VType) (mask : Option MReg) (d a b : VReg) : Statement (.vadd ty mask d a b) := rfl
theorem vsub (ty : VType) (mask : Option MReg) (d a b : VReg) : Statement (.vsub ty mask d a b) := rfl
theorem vmul (ty : VType) (mask : Option MReg) (d a b : VReg) : Statement (.vmul ty mask d a b) := rfl
theorem vfma (ty : VType) (mask : Option MReg) (d a b : VReg) : Statement (.vfma ty mask d a b) := rfl
theorem vmin (ty : VType) (mask : Option MReg) (d a b : VReg) : Statement (.vmin ty mask d a b) := rfl
theorem vmax (ty : VType) (mask : Option MReg) (d a b : VReg) : Statement (.vmax ty mask d a b) := rfl
theorem vand (ty : VType) (mask : Option MReg) (d a b : VReg) : Statement (.vand ty mask d a b) := rfl
theorem vor (ty : VType) (mask : Option MReg) (d a b : VReg) : Statement (.vor ty mask d a b) := rfl
theorem vxor (ty : VType) (mask : Option MReg) (d a b : VReg) : Statement (.vxor ty mask d a b) := rfl
theorem vshl (ty : VType) (mask : Option MReg) (d a b : VReg) : Statement (.vshl ty mask d a b) := rfl
theorem vshr (ty : VType) (mask : Option MReg) (d a b : VReg) : Statement (.vshr ty mask d a b) := rfl
theorem vdot (ty : VType) (mask : Option MReg) (d a b : VReg) : Statement (.vdot ty mask d a b) := rfl
theorem vsel (ty : VType) (mask : MReg) (d a b : VReg) : Statement (.vsel ty mask d a b) := rfl
theorem vperm (ty : VType) (mask : Option MReg) (d a b : VReg) : Statement (.vperm ty mask d a b) := rfl
theorem vcmp (cc : VCc) (ty : VType) (mask : Option MReg) (d : MReg) (a b : VReg) : Statement (.vcmp cc ty mask d a b) := rfl
theorem vred (op : RedOp) (ty : VType) (mask : Option MReg) (d : Reg) (a : VReg) : Statement (.vred op ty mask d a) := rfl
theorem vexp2 (ty : VType) (mask : Option MReg) (d a : VReg) : Statement (.vexp2 ty mask d a) := rfl
theorem vrcp (ty : VType) (mask : Option MReg) (d a : VReg) : Statement (.vrcp ty mask d a) := rfl
theorem vrsq (ty : VType) (mask : Option MReg) (d a : VReg) : Statement (.vrsq ty mask d a) := rfl
theorem vcvt (dst src : VType) (mask : Option MReg) (d a : VReg) : Statement (.vcvt dst src mask d a) := rfl
theorem vbcast (ty : VType) (d : VReg) (a : Src) : Statement (.vbcast ty d a) := rfl
theorem vmovg (ty : VType) (d : Reg) (a : VReg) (lane : BitVec 6) : Statement (.vmovg ty d a lane) := rfl
theorem mand (d a b : MReg) : Statement (.mand d a b) := rfl
theorem mor (d a b : MReg) : Statement (.mor d a b) := rfl
theorem mnot (d a : MReg) : Statement (.mnot d a) := rfl
theorem mpop (d : Reg) (a : MReg) : Statement (.mpop d a) := rfl
theorem memoryReply (r : TRef) (v : Option Word) : Statement (.memoryReply r v) := rfl
theorem registerDelivery (m : Delivery) : Statement (.registerDelivery m) := rfl
theorem launchRecord (p : PartId) (slot : BitVec 13) : Statement (.launchRecord p slot) := rfl
theorem packetExpansion (p : PartId) : Statement (.packetExpansion p) := rfl
theorem packetDispatch (p : PartId) (k : ClusterId) : Statement (.packetDispatch p k) := rfl
theorem packetAging (p : PartId) (k : ClusterId) (q : Fin 4) : Statement (.packetAging p k q) := rfl
theorem doneWrite (p : PartId) (rec : Nat) : Statement (.doneWrite p rec) := rfl
theorem migration (r : TRef) : Statement (.migration r) := rfl
theorem migrationArrival (r : TRef) : Statement (.migrationArrival r) := rfl
theorem activeMessageArrival (p : PartId) (c : CoreId) (m : ActiveMsg) : Statement (.activeMessageArrival p c m) := rfl
theorem serverRunStart (p : PartId) (c : CoreId) : Statement (.serverRunStart p c) := rfl
theorem feHomeOperation (p : PartId) (q : FeReq) : Statement (.feHomeOperation p q) := rfl
theorem feListServe (p : PartId) (key : Nat) : Statement (.feListServe p key) := rfl
theorem sendArrival (p : PartId) (c : CoreId) (m : SendMsg) : Statement (.sendArrival p c m) := rfl
theorem sendRetry (p : PartId) (c : CoreId) (m : SendMsg) : Statement (.sendRetry p c m) := rfl
theorem ringBufferDrain (p : PartId) (c : CoreId) : Statement (.ringBufferDrain p c) := rfl
theorem lrwRetry (p : PartId) (sl : SliceId) : Statement (.lrwRetry p sl) := rfl
theorem remoteUpdate (p : PartId) (c : CoreId) : Statement (.remoteUpdate p c) := rfl
theorem addmPerform (p : PartId) (c : CoreId) : Statement (.addmPerform p c) := rfl
theorem sreq (p : PartId) (h : CoreId) (line dom : Nat) : Statement (.sreq p h line dom) := rfl
theorem sgnt (p : PartId) (h : CoreId) (line dom : Nat) (share : BitVec 32) : Statement (.sgnt p h line dom share) := rfl
theorem pourMessage (p : PartId) (h : CoreId) (line dom : Nat) (data : BitVec 1024) (g : BitVec 32) (colour : Bool) (more : Bool) : Statement (.pourMessage p h line dom data g colour more) := rfl
theorem pack (p : PartId) (h : CoreId) (line dom : Nat) (added : BitVec 32) : Statement (.pack p h line dom added) := rfl
theorem fpr (p : PartId) (h : CoreId) (line dom : Nat) : Statement (.fpr p h line dom) := rfl
theorem fpd (p : PartId) (h : CoreId) (line dom : Nat) (data : BitVec 1024) (g : BitVec 32) (colour : Bool) : Statement (.fpd p h line dom data g colour) := rfl
theorem srev (p : PartId) (h : CoreId) (line dom : Nat) : Statement (.srev p h line dom) := rfl
theorem sret (p : PartId) (h : CoreId) (line dom : Nat) (data : BitVec 1024) (g : BitVec 32) (colour : Bool) (share : BitVec 32) : Statement (.sret p h line dom data g colour share) := rfl
theorem tadd (p : PartId) (h : CoreId) (line dom : Nat) (off : Nat) (a : Word) : Statement (.tadd p h line dom off a) := rfl
theorem tack (p : PartId) (h : CoreId) (line dom : Nat) : Statement (.tack p h line dom) := rfl
theorem boundedLoad (p : PartId) (q : BoundedReq) : Statement (.boundedLoad p q) := rfl
theorem colourPour (p : PartId) (h : CoreId) (line : Nat) : Statement (.colourPour p h line) := rfl
theorem copyBeat (p : PartId) (k : ClusterId) : Statement (.copyBeat p k) := rfl
theorem copyComplete (p : PartId) (c : CoreId) : Statement (.copyComplete p c) := rfl
theorem matrixJobPick (p : PartId) (k : ClusterId) : Statement (.matrixJobPick p k) := rfl
theorem matrixGroup (p : PartId) (k : ClusterId) : Statement (.matrixGroup p k) := rfl
theorem matrixJobComplete (p : PartId) (k : ClusterId) : Statement (.matrixJobComplete p k) := rfl
theorem mxstExecute (p : PartId) (k : ClusterId) : Statement (.mxstExecute p k) := rfl
theorem recordWriteDone (p : PartId) (index : Nat) : Statement (.recordWriteDone p index) := rfl
theorem scrubComplete (r : TRef) : Statement (.scrubComplete r) := rfl
theorem deliveryRetry (m : Delivery) : Statement (.deliveryRetry m) := rfl
theorem syshRun (p : PartId) (c : CoreId) : Statement (.syshRun p c) := rfl
theorem gangSwitch (p : PartId) : Statement (.gangSwitch p) := rfl
theorem coreDrained (p : PartId) (c : CoreId) : Statement (.coreDrained p c) := rfl
theorem worldExchange (p : PartId) : Statement (.worldExchange p) := rfl
theorem gangResume (p : PartId) : Statement (.gangResume p) := rfl
theorem dumpComplete (p : PartId) : Statement (.dumpComplete p) := rfl
theorem lognWatchdog (r : TRef) : Statement (.lognWatchdog r) := rfl
theorem resetWipe (p : PartId) : Statement (.resetWipe p) := rfl
theorem resetComplete (p : PartId) : Statement (.resetComplete p) := rfl
theorem remoteRequest (q : RemoteReq) : Statement (.remoteRequest q) := rfl
theorem remoteErrorReply (r : TRef) (tid : Nat) : Statement (.remoteErrorReply r tid) := rfl
theorem collContribution (p : PartId) (m : CollMsg) : Statement (.collContribution p m) := rfl
theorem collComplete (p : PartId) (id : BitVec 22) : Statement (.collComplete p id) := rfl
theorem collTimeout (p : PartId) (id : BitVec 22) : Statement (.collTimeout p id) := rfl
theorem marker (p : PartId) (m : MarkerMsg) : Statement (.marker p m) := rfl
theorem capturePulse (p : PartId) : Statement (.capturePulse p) := rfl
theorem snapshotCut (p : PartId) : Statement (.snapshotCut p) := rfl
theorem captureResume (p : PartId) : Statement (.captureResume p) := rfl
theorem pageCopy (p : PartId) (page : Nat) : Statement (.pageCopy p page) := rfl
theorem snapshotWriter (p : PartId) : Statement (.snapshotWriter p) := rfl
theorem snapshotNotice (p : PartId) (srcMod : BitVec 16) (src : PartId) (n : Nat) (ok : Bool) : Statement (.snapshotNotice p srcMod src n ok) := rfl
theorem restoreComplete (p : PartId) : Statement (.restoreComplete p) := rfl
theorem lifeCycleWipeComplete (p : PartId) : Statement (.lifeCycleWipeComplete p) := rfl
theorem hostAccess (p : PartId) (t : BitVec 64) (op : HostOp) : Statement (.hostAccess p t op) := rfl
theorem linkInterval (p : PartId) : Statement (.linkInterval p) := rfl
theorem syncRecord (p : PartId) (c : CoreId) : Statement (.syncRecord p c) := rfl
theorem forwardedRead (p : PartId) (c : CoreId) (line : Nat) : Statement (.forwardedRead p c line) := rfl
theorem invalidation (p : PartId) (c : CoreId) (line : Nat) : Statement (.invalidation p c line) := rfl
theorem l1Eviction (p : PartId) (c : CoreId) (line : Nat) : Statement (.l1Eviction p c line) := rfl
theorem sliceEviction (p : PartId) (line : Nat) : Statement (.sliceEviction p line) := rfl
theorem getS (p : PartId) (c : CoreId) (line : Nat) (dom : Nat) : Statement (.getS p c line dom) := rfl
theorem getM (p : PartId) (c : CoreId) (line : Nat) (dom : Nat) (sector : Fin 2) : Statement (.getM p c line dom sector) := rfl
theorem walk (p : PartId) (va : Word) : Statement (.walk p va) := rfl
theorem ptclrWrite (p : PartId) (frame : BitVec 32) : Statement (.ptclrWrite p frame) := rfl
theorem l2Uncorrectable (p : PartId) (line : Nat) (corr : BitVec 32) : Statement (.l2Uncorrectable p line corr) := rfl
theorem sectorPin (p : PartId) (line : Nat) (readable : Bool) : Statement (.sectorPin p line readable) := rfl
theorem shellAckTimeout (p : PartId) (c : CoreId) : Statement (.shellAckTimeout p c) := rfl
theorem coreFailed (p : PartId) (c : CoreId) : Statement (.coreFailed p c) := rfl
theorem steepDisable (p : PartId) : Statement (.steepDisable p) := rfl
theorem matrixPoison (p : PartId) (k : ClusterId) : Statement (.matrixPoison p k) := rfl
theorem accrclWrite (p : PartId) (k : ClusterId) (slots : BitVec 16) : Statement (.accrclWrite p k slots) := rfl
theorem tqheadWrite (p : PartId) (v : Word) : Statement (.tqheadWrite p v) := rfl
theorem tqbaseWrite (p : PartId) (v : Word) : Statement (.tqbaseWrite p v) := rfl
theorem wakeResume (p : PartId) (tid : BitVec 20) : Statement (.wakeResume p tid) := rfl
theorem wakeKillThread (p : PartId) (tid : BitVec 20) : Statement (.wakeKillThread p tid) := rfl
theorem wakeKillContext (p : PartId) (ctx : BitVec 8) : Statement (.wakeKillContext p ctx) := rfl
theorem wakeUnservable (p : PartId) (tid : BitVec 20) : Statement (.wakeUnservable p tid) := rfl
theorem tbindBind (p : PartId) (c : CoreId) (v : Word) : Statement (.tbindBind p c v) := rfl
theorem tbindUnbind (p : PartId) (c : CoreId) (v : Word) : Statement (.tbindUnbind p c v) := rfl
theorem logvioWrite (p : PartId) (c : CoreId) (v : Word) : Statement (.logvioWrite p c v) := rfl
theorem uncorrectableError (e : ErrSite) : Statement (.uncorrectableError e) := rfl
theorem relctlPrst (p : PartId) : Statement (.relctlPrst p) := rfl
theorem partitionReset (p : PartId) : Statement (.partitionReset p) := rfl
theorem destinationUnreachable (modid : BitVec 16) (part : PartId) : Statement (.destinationUnreachable modid part) := rfl
theorem snaprstGo (p : PartId) (v : Word) : Statement (.snaprstGo p v) := rfl
theorem getVersion (sess : Nat) : Statement (.getVersion sess) := rfl
theorem getCapabilities (sess : Nat) : Statement (.getCapabilities sess) := rfl
theorem negotiateAlgorithms (sess : Nat) : Statement (.negotiateAlgorithms sess) := rfl
theorem getDigests (sess : Nat) : Statement (.getDigests sess) := rfl
theorem getCertificate (sess : Nat) : Statement (.getCertificate sess) := rfl
theorem challenge (sess : Nat) (nonce : BitVec 256) : Statement (.challenge sess nonce) := rfl
theorem getMeasurements (sess : Nat) (p : PartId) (index : Nat) : Statement (.getMeasurements sess p index) := rfl
theorem keyExchange (sess : Nat) : Statement (.keyExchange sess) := rfl
theorem finish (sess : Nat) : Statement (.finish sess) := rfl
theorem endSession (sess : Nat) : Statement (.endSession sess) := rfl
theorem vendorDefinedRequest (sess : Nat) (p : PartId) (modid : BitVec 16) (part : PartId) : Statement (.vendorDefinedRequest sess p modid part) := rfl
theorem getTdispVersion (sess : Nat) (p : PartId) : Statement (.getTdispVersion sess p) := rfl
theorem getTdispCapabilities (sess : Nat) (p : PartId) : Statement (.getTdispCapabilities sess p) := rfl
theorem lockInterfaceRequest (sess : Nat) (p : PartId) : Statement (.lockInterfaceRequest sess p) := rfl
theorem getDeviceInterfaceReport (sess : Nat) (p : PartId) : Statement (.getDeviceInterfaceReport sess p) := rfl
theorem getDeviceInterfaceState (sess : Nat) (p : PartId) : Statement (.getDeviceInterfaceState sess p) := rfl
theorem startInterfaceRequest (sess : Nat) (p : PartId) : Statement (.startInterfaceRequest sess p) := rfl
theorem stopInterfaceRequest (sess : Nat) (p : PartId) : Statement (.stopInterfaceRequest sess p) := rfl
theorem configChange (p : PartId) (fw : Option Firmware) : Statement (.configChange p fw) := rfl
theorem perfctlPreset (p : PartId) (v : Word) : Statement (.perfctlPreset p v) := rfl
theorem clockThrottle (lower : Bool) : Statement (.clockThrottle lower) := rfl
theorem powerOnReset : Statement (.powerOnReset) := rfl
theorem partitionInService (p : PartId) (linksTrained : Bool) : Statement (.partitionInService p linksTrained) := rfl
theorem scrubPass (p : PartId) : Statement (.scrubPass p) := rfl
theorem idranRegisterAccess (p : PartId) (c : CoreId) (r : SysReg) (v : Option Word) : Statement (.idranRegisterAccess p c r v) := rfl
theorem corePowerGating (p : PartId) (c : CoreId) (gate : Bool) : Statement (.corePowerGating p c gate) := rfl
theorem pcntWrap (p : PartId) (c : CoreId) (n : Fin 4) : Statement (.pcntWrap p c n) := rfl
theorem traceTimeCondition (p : PartId) (c : CoreId) : Statement (.traceTimeCondition p c) := rfl

end Sys2Proof.Laws.Coded
end

