-- ==== Sys2Proof/Tests/Slice0.lean ====
section
/-! SUPPORT. Tests of the model on words and small states taken from the spec, and witnesses that the hypotheses of the statements can be
met. -/
namespace Sys2Proof.Tests
set_option Elab.async false
open Sys2Proof Sys2Proof.Machine

/-! ## Well-formed instructions: a term that each check refuses -/

/-- R46, R48, R95, R170, R172, R183, R186: one ill-formed term for each check of `Instr.wf`. -/
theorem test_wf_refuses :
    ([.red .swap .w64 ⟨1, false⟩ ⟨2, false⟩, .red .cas .w32 ⟨1, false⟩ ⟨2, false⟩, .exts 1 ⟨2, false⟩ 60 4, .extz 1 ⟨2, false⟩ 63 1,
      .ins 1 ⟨2, false⟩ 1 63, .fcvt .f16 .f16 1 ⟨2, false⟩, .vlds .nf none 1 ⟨2, false⟩ ⟨3, false⟩, .vgath .nf none 1 ⟨2, false⟩ 3,
      .vscat .nf none 1 ⟨2, false⟩ 3, .vsrd .nf 1 2, .vadd .nf none 1 2 3, .vand .f32 none 1 2 3, .vdot .s32 none 1 2 3,
      .vsel .nf 1 1 2 3, .vbcast .nf 1 ⟨2, false⟩, .vcmp (.flt .eq) .s8 none 1 2 3, .vcmp (.int .eq) .f32 none 1 2 3, .vred .and .f16 none 1 2,
      .vred .add .nf none 1 2, .vexp2 .s32 none 1 2, .vcvt .f32 .f32 none 1 2, .vcvt .nf .s8 none 1 2, .vmovg .nf 1 2 0,
      .vmovg .s64 1 2 8, .tadd 0 0 0 0 128 0,
      .remoteRequest { srcMod := 0, src := ⟨0, 0, 0⟩, srcTid := 0, modid := 0, dst := 0, off := 0, corr := 0, op := .red .cas .w64 0 },
      .remoteRequest { srcMod := 0, src := ⟨0, 0, 0⟩, srcTid := 0, modid := 0, dst := 0, off := 0, corr := 0, op := .beatRead 65 false },
      .remoteRequest { srcMod := 0, src := ⟨0, 0, 0⟩, srcTid := 0, modid := 0, dst := 0, off := 0, corr := 0, op := .beatWrite [] [] false }] :
        List Instr).all (fun i => !i.wf) = true := by
  decide

/-- The largest fields that the same checks allow. -/
theorem test_wf_allows :
    ([.exts 1 ⟨2, false⟩ 63 0, .ins 1 ⟨2, false⟩ 0 63, .vmovg .s64 1 2 7, .vcvt .nf .f32 none 1 2, .vdot .nf none 1 2 3,
      .tadd 0 0 0 0 127 0] : List Instr).all Instr.wf = true := by
  decide

/-- R7, R40 to R48: words with a reserved code or a reserved field set are refused. -/
theorem test_decode_refuses :
    ([0x80000001, 0x80100000, 0x85000000, 0x85100000, 0x85600000, 0x86000002, 0x8F000007, 0x8F000008, 0x94000004, 0x99100000, 0x9A00000A,
      0x9A100001, 0x9B000006, 0x9C000000, 0x9C000283, 0x9D000203, 0x9D000243, 0x9E0000C0, 0x9E000006, 0x9E000081, 0x9F000005, 0xA1000301,
      0xA1000101, 0xA2800000, 0xA4000020, 0xA8000001, 0xAB000002, 0xAC020000, 0xAD000003, 0xAE000140, 0xAE000001, 0xAF000005, 0xAF000200,
      0xB1000006, 0xB200003F, 0xB8000000, 0xC0000000, 0xC100000F, 0xC2000009, 0xC3000400, 0xC4001000, 0xC4000FFF, 0xC7000010, 0xC8000008,
      0xC900000A, 0xCF000040, 0xD5000000, 0xD8000300, 0xD800000C, 0xDA000000, 0xE0000020, 0xE000000C, 0xE1000208, 0xE3000204, 0xE5000040,
      0xE6000004, 0xE6800000, 0xE7000000] : List (BitVec 32)).all (fun w => (decodeWord w).toOption.isNone) = true := by
  decide

/-! ## Decoding (03) -/

/-- R45, R46, R52, R113: words written out field by field. -/
theorem test_decode_control :
    ([0x80000000, 0x810FFFFE, 0x82000005, 0x830B7FFF, 0x840B0002, 0x852B0003, 0x853B0003, 0x854B0003, 0x855B0003, 0x86068000, 0x860B0001,
        0x875A30C1] : List (BitVec 32)).map decodeWord =
      ([.nop, .b 0xFFFFE, .call 5, .bz ⟨6, true⟩ 0x7FFF, .bnz ⟨6, true⟩ 2, .bcc .lt ⟨6, true⟩ 3, .bcc .ge ⟨6, true⟩ 3, .bcc .le ⟨6,
        true⟩ 3, .bcc .gt ⟨6, true⟩ 3, .jmp ⟨13, false⟩, .callr ⟨6, true⟩, .blk 0x5A3 0x0C1] : List Instr).map .ok := by
  decide

/-- R42, R45, R46: words written out field by field. -/
theorem test_decode_loads_1 :
    ([0x885B7FF8, 0x895B7FF8, 0x8A5B7FF8, 0x8B5B7FF8, 0x8C5B7FF8, 0x8D5B7FF8, 0x8E5B7FF8, 0x8F5B2400, 0x8F5B2401, 0x8F5B2402, 0x8F5B2403,
        0x8F5B2404] : List (BitVec 32)).map decodeWord =
      ([.ldS8 5 ⟨6, true⟩ 0x7FF8, .ldS16 5 ⟨6, true⟩ 0x7FF8, .ldS32 5 ⟨6, true⟩ 0x7FF8, .ldS64 5 ⟨6, true⟩ 0x7FF8, .ldZ8 5 ⟨6,
        true⟩ 0x7FF8, .ldZ16 5 ⟨6, true⟩ 0x7FF8, .ldZ32 5 ⟨6, true⟩ 0x7FF8, .ldx .s8 5 ⟨6, true⟩ ⟨9, false⟩, .ldx .s16 5 ⟨6, true⟩ ⟨9,
        false⟩, .ldx .s32 5 ⟨6, true⟩ ⟨9, false⟩, .ldx .s64 5 ⟨6, true⟩ ⟨9, false⟩, .ldx .z8 5 ⟨6, true⟩ ⟨9,
        false⟩] : List Instr).map .ok := by
  decide

/-- R42, R45, R46: words written out field by field. -/
theorem test_decode_loads_2 :
    ([0x8F5B2405, 0x8F5B2406] : List (BitVec 32)).map decodeWord =
      ([.ldx .z16 5 ⟨6, true⟩ ⟨9, false⟩, .ldx .z32 5 ⟨6, true⟩ ⟨9, false⟩] : List Instr).map .ok := by
  decide

/-- R42, R45: words written out field by field. -/
theorem test_decode_stores :
    ([0x905B0008, 0x915B0008, 0x925B0008, 0x935B0008, 0x945B2400, 0x945B2401, 0x945B2402, 0x945B2403] : List (BitVec 32)).map decodeWord =
      ([.st8 5 ⟨6, true⟩ 8, .st16 5 ⟨6, true⟩ 8, .st32 5 ⟨6, true⟩ 8, .st64 5 ⟨6, true⟩ 8, .stx .b8 5 ⟨6, true⟩ ⟨9, false⟩,
        .stx .b16 5 ⟨6, true⟩ ⟨9, false⟩, .stx .b32 5 ⟨6, true⟩ ⟨9, false⟩, .stx .b64 5 ⟨6, true⟩ ⟨9, false⟩] : List Instr).map .ok := by
  decide

/-- R45: words written out field by field. -/
theorem test_decode_words :
    ([0x955B0010, 0x965B0010, 0x975B0010, 0x985B0010, 0x990B0010] : List (BitVec 32)).map decodeWord =
      ([.lds 5 ⟨6, true⟩ 16, .ldsk 5 ⟨6, true⟩ 16, .sts 5 ⟨6, true⟩ 16, .stf 5 ⟨6, true⟩ 16, .clre ⟨6,
        true⟩ 16] : List Instr).map .ok := by
  decide

/-- R46: words written out field by field. -/
theorem test_decode_threads :
    ([0x9A5B2400, 0x9A000001, 0x9A0B2402, 0x9A500003, 0x9A0B2404, 0x9A5B2405, 0x9A0B0006, 0x9A5B0007, 0x9A0B2408,
        0x9A0B0009] : List (BitVec 32)).map decodeWord =
      ([.spawn 5 ⟨6, true⟩ ⟨9, false⟩, .exit, .send ⟨6, true⟩ ⟨9, false⟩, .recv 5, .amsg ⟨6, true⟩ ⟨9, false⟩, .dlg 5 ⟨6, true⟩ ⟨9,
        false⟩, .migr ⟨6, true⟩, .lrw 5 ⟨6, true⟩, .sch ⟨6, true⟩ ⟨9, false⟩, .rls ⟨6, true⟩] : List Instr).map .ok := by
  decide

/-- R43, R46: words written out field by field. -/
theorem test_decode_order_1 :
    ([0x9B0B0000, 0x9E000000, 0x9B0B0001, 0x9E000001, 0x9B0B0002, 0x9E000002, 0x9B0B0003, 0x9E000003, 0x9B0B0004, 0x9E000004, 0x9B0B0005,
        0x9E000005] : List (BitVec 32)).map decodeWord =
      ([.bar .thr ⟨6, true⟩, .fence .thr, .bar .core ⟨6, true⟩, .fence .core, .bar .clu ⟨6, true⟩, .fence .clu, .bar .part ⟨6, true⟩,
        .fence .part, .bar .mod ⟨6, true⟩, .fence .mod, .bar .sys ⟨6, true⟩, .fence .sys] : List Instr).map .ok := by
  decide

/-- R43, R46: words written out field by field. -/
theorem test_decode_order_2 :
    ([0x9E000043, 0x9E000080, 0x9F0B0000, 0x9F0B0001, 0x9F0B0002, 0x9F0B0003, 0x9F0B0004] : List (BitVec 32)).map decodeWord =
      ([.pour .part, .fbar, .cwb ⟨6, true⟩, .cinv ⟨6, true⟩, .iinv ⟨6, true⟩, .pref ⟨6, true⟩, .plbi ⟨6,
        true⟩] : List Instr).map .ok := by
  decide

/-- R46: words written out field by field. -/
theorem test_decode_atomics_1 :
    ([0x9C5B2402, 0x9C5B2442, 0x9C5B2482, 0x9C5B24C2, 0x9C5B2502, 0x9C5B2542, 0x9C5B2582, 0x9C5B25C2, 0x9C5B2602, 0x9C5B2642, 0x9D0B2403,
        0x9D0B2443] : List (BitVec 32)).map decodeWord =
      ([.amo .add .w32 5 ⟨6, true⟩ ⟨9, false⟩, .amo .and .w32 5 ⟨6, true⟩ ⟨9, false⟩, .amo .or .w32 5 ⟨6, true⟩ ⟨9, false⟩,
        .amo .xor .w32 5 ⟨6, true⟩ ⟨9, false⟩, .amo .min .w32 5 ⟨6, true⟩ ⟨9, false⟩, .amo .max .w32 5 ⟨6, true⟩ ⟨9, false⟩,
        .amo .minz .w32 5 ⟨6, true⟩ ⟨9, false⟩, .amo .maxz .w32 5 ⟨6, true⟩ ⟨9, false⟩, .amo .swap .w32 5 ⟨6, true⟩ ⟨9, false⟩,
        .amo .cas .w32 5 ⟨6, true⟩ ⟨9, false⟩, .red .add .w64 ⟨6, true⟩ ⟨9, false⟩, .red .and .w64 ⟨6, true⟩ ⟨9,
        false⟩] : List Instr).map .ok := by
  decide

/-- R46: words written out field by field. -/
theorem test_decode_atomics_2 :
    ([0x9D0B2483, 0x9D0B24C3, 0x9D0B2503, 0x9D0B2543, 0x9D0B2583, 0x9D0B25C3] : List (BitVec 32)).map decodeWord =
      ([.red .or .w64 ⟨6, true⟩ ⟨9, false⟩, .red .xor .w64 ⟨6, true⟩ ⟨9, false⟩, .red .min .w64 ⟨6, true⟩ ⟨9, false⟩, .red .max .w64 ⟨6,
        true⟩ ⟨9, false⟩, .red .minz .w64 ⟨6, true⟩ ⟨9, false⟩, .red .maxz .w64 ⟨6, true⟩ ⟨9, false⟩] : List Instr).map .ok := by
  decide

/-- R46: words written out field by field. -/
theorem test_decode_steep :
    ([0xA0049000, 0xA1549800, 0xA15482FD, 0xA1648280] : List (BitVec 32)).map decodeWord =
      ([.addm ⟨9, false⟩ ⟨4, false⟩, .ldb 5 ⟨9, false⟩ ⟨6, false⟩, .ldbImm 5 ⟨9, false⟩ 0xFD, .ldbImm 6 ⟨9,
        false⟩ 0x80] : List Instr).map .ok := by
  decide

/-- R44, R46: words written out field by field. -/
theorem test_decode_vmem :
    ([0xA2448040, 0xA34B0040, 0xA44B2650, 0xA54B1D80, 0xA64B1C70, 0xA7418300] : List (BitVec 32)).map decodeWord =
      ([.vld 4 ⟨9, false⟩ 64, .vst 4 ⟨6, true⟩ 64, .vlds .f32 (some 2) 4 ⟨6, true⟩ ⟨9, false⟩, .vgath .s64 none 4 ⟨6, true⟩ 7,
        .vscat .s8 (some 3) 4 ⟨6, true⟩ 7, .vsrd .bf16 4 3] : List Instr).map .ok := by
  decide

/-- R46: words written out field by field. -/
theorem test_decode_engines_1 :
    ([0xA85B2406, 0xA85B2400, 0xA95B2406, 0xA95B2400, 0xAA5B2406, 0xAA5B2400, 0xAB0B0000, 0xAB5B0001, 0xAC708003, 0xAD028000, 0xAD030041,
        0xAD5003C2] : List (BitVec 32)).map decodeWord =
      ([.cpy (some 2) 5 ⟨6, true⟩ ⟨9, false⟩, .cpy none 5 ⟨6, true⟩ ⟨9, false⟩, .cpy2 (some 2) 5 ⟨6, true⟩ ⟨9, false⟩, .cpy2 none 5 ⟨6,
        true⟩ ⟨9, false⟩, .cpyg (some 2) 5 ⟨6, true⟩ ⟨9, false⟩, .cpyg none 5 ⟨6, true⟩ ⟨9, false⟩, .cpyw ⟨6, true⟩, .cpyq 5 ⟨6, true⟩,
        .srd .s64 7 1, .rngi 0 ⟨5, false⟩, .rnga 1 ⟨6, false⟩, .rngq 5 15] : List Instr).map .ok := by
  decide

/-- R46: words written out field by field. -/
theorem test_decode_engines_2 :
    ([0xAE901226, 0xAE901266, 0xAE9012A6, 0xAE9012E6, 0xAE901326, 0xAE90101C, 0xAF0B0000, 0xAF5B0001, 0xAF000002, 0xAF058003,
        0xAF000204] : List (BitVec 32)).map decodeWord =
      ([.mxq 1 .plusTimes true false false .none 9 0 4, .mxq 1 .minPlus true false false .none 9 0 4,
        .mxq 1 .maxPlus true false false .none 9 0 4, .mxq 1 .maxTimes true false false .none 9 0 4,
        .mxq 1 .orAnd true false false .none 9 0 4, .mxq 0 .plusTimes false true true .b 9 0 4, .mxw ⟨6, true⟩, .mxp 5 ⟨6, true⟩, .mxz 0,
        .mxst 0 ⟨11, false⟩, .mxr 1] : List Instr).map .ok := by
  decide

/-- R46, R344: words written out field by field. -/
theorem test_decode_system_1 :
    ([0xB0000003, 0xB1000000, 0xB1028001, 0xB1030002, 0xB1000003, 0xB1000004, 0xB1038005, 0xB2D0000A, 0xB2D00009, 0xB2400322, 0xB3060000,
        0xB30200C2] : List (BitVec 32)).map decodeWord =
      ([.trap 3, .eret, .park ⟨5, false⟩, .gsw ⟨6, false⟩, .cont, .logn, .loga ⟨7, false⟩, .mfs 13 .ecause, .mfs 13 .epc, .mfs 4 .trcptr,
        .mts .status ⟨12, false⟩, .mts .tqhead ⟨4, false⟩] : List Instr).map .ok := by
  decide

/-- R46, R344: words written out field by field. -/
theorem test_decode_system_2 :
    ([0xB45B0000, 0xB55B0000, 0xB6400000, 0xB75B0000] : List (BitVec 32)).map decodeWord =
      ([.coll 5 ⟨6, true⟩, .collw 5 ⟨6, true⟩, .snap 4, .snapq 5 ⟨6, true⟩] : List Instr).map .ok := by
  decide

/-- R48: words written out field by field. -/
theorem test_decode_alu_1 :
    ([0xC15B2400, 0xC15B2401, 0xC15B2402, 0xC15B2403, 0xC15B2404, 0xC15B2405, 0xC15B2406, 0xC15B2407, 0xC15B2408, 0xC15B2409, 0xC15B240A,
        0xC15B240B] : List (BitVec 32)).map decodeWord =
      ([.add 5 ⟨6, true⟩ ⟨9, false⟩, .sub 5 ⟨6, true⟩ ⟨9, false⟩, .and 5 ⟨6, true⟩ ⟨9, false⟩, .or 5 ⟨6, true⟩ ⟨9, false⟩, .xor 5 ⟨6,
        true⟩ ⟨9, false⟩, .andn 5 ⟨6, true⟩ ⟨9, false⟩, .orn 5 ⟨6, true⟩ ⟨9, false⟩, .shl 5 ⟨6, true⟩ ⟨9, false⟩, .shr 5 ⟨6, true⟩ ⟨9,
        false⟩, .sha 5 ⟨6, true⟩ ⟨9, false⟩, .ror 5 ⟨6, true⟩ ⟨9, false⟩, .min 5 ⟨6, true⟩ ⟨9, false⟩] : List Instr).map .ok := by
  decide

/-- R48: words written out field by field. -/
theorem test_decode_alu_2 :
    ([0xC15B240C, 0xC15B240D, 0xC15B240E, 0xC25B2400, 0xC25B2401, 0xC25B2402, 0xC25B2403, 0xC25B2404, 0xC25B2405, 0xC25B2406, 0xC25B2407,
        0xC25B2408] : List (BitVec 32)).map decodeWord =
      ([.max 5 ⟨6, true⟩ ⟨9, false⟩, .minz 5 ⟨6, true⟩ ⟨9, false⟩, .maxz 5 ⟨6, true⟩ ⟨9, false⟩, .mul 5 ⟨6, true⟩ ⟨9, false⟩, .mulh 5 ⟨6,
        true⟩ ⟨9, false⟩, .mulhz 5 ⟨6, true⟩ ⟨9, false⟩, .div 5 ⟨6, true⟩ ⟨9, false⟩, .divz 5 ⟨6, true⟩ ⟨9, false⟩, .rem 5 ⟨6, true⟩ ⟨9,
        false⟩, .remz 5 ⟨6, true⟩ ⟨9, false⟩, .clmul 5 ⟨6, true⟩ ⟨9, false⟩, .clmulh 5 ⟨6, true⟩ ⟨9, false⟩] : List Instr).map .ok := by
  decide

/-- R47, R48: words written out field by field. -/
theorem test_decode_bits_1 :
    ([0xC35B0000, 0xC35B0001, 0xC35B0002, 0xC35B0003, 0xC35B0004, 0xC4428307, 0xC55B0F03, 0xC65B0F03, 0xC75B240C, 0xC85B2407, 0xCB5B7FFF,
        0xCC5B7FFF] : List (BitVec 32)).map decodeWord =
      ([.clz 5 ⟨6, true⟩, .ctz 5 ⟨6, true⟩, .popc 5 ⟨6, true⟩, .brev 5 ⟨6, true⟩, .bswap 5 ⟨6, true⟩, .exts 4 ⟨5, false⟩ 12 7,
        .extz 5 ⟨6, true⟩ 60 3, .ins 5 ⟨6, true⟩ 60 3, .sel 5 ⟨6, true⟩ ⟨9, false⟩ 12, .addx 5 ⟨6, true⟩ ⟨9, false⟩ 7, .addi 5 ⟨6,
        true⟩ 0x7FFF, .andi 5 ⟨6, true⟩ 0x7FFF] : List Instr).map .ok := by
  decide

/-- R47, R48: words written out field by field. -/
theorem test_decode_bits_2 :
    ([0xCD5B7FFF, 0xCE5B7FFF, 0xCF5B003F, 0xD05B003F, 0xD15B003F, 0xD25B003F, 0xD3580001, 0xD452ABCD] : List (BitVec 32)).map decodeWord =
      ([.ori 5 ⟨6, true⟩ 0x7FFF, .xori 5 ⟨6, true⟩ 0x7FFF, .shli 5 ⟨6, true⟩ 63, .shri 5 ⟨6, true⟩ 63, .shai 5 ⟨6, true⟩ 63, .rori 5 ⟨6,
        true⟩ 63, .li 5 0x80001, .lih 5 2 0xABCD] : List Instr).map .ok := by
  decide

/-- R43, R48: words written out field by field. -/
theorem test_decode_compare_1 :
    ([0xC95B2400, 0xC95B2401, 0xC95B2402, 0xC95B2403, 0xC95B2404, 0xC95B2405, 0xC95B2406, 0xC95B2407, 0xC95B2408, 0xC95B2409, 0xCA5B07FF,
        0xCA5B0FFF] : List (BitVec 32)).map decodeWord =
      ([.cmp .eq 5 ⟨6, true⟩ ⟨9, false⟩, .cmp .ne 5 ⟨6, true⟩ ⟨9, false⟩, .cmp .lt 5 ⟨6, true⟩ ⟨9, false⟩, .cmp .ge 5 ⟨6, true⟩ ⟨9,
        false⟩, .cmp .le 5 ⟨6, true⟩ ⟨9, false⟩, .cmp .gt 5 ⟨6, true⟩ ⟨9, false⟩, .cmp .ult 5 ⟨6, true⟩ ⟨9, false⟩, .cmp .uge 5 ⟨6,
        true⟩ ⟨9, false⟩, .cmp .ule 5 ⟨6, true⟩ ⟨9, false⟩, .cmp .ugt 5 ⟨6, true⟩ ⟨9, false⟩, .cmpi .eq 5 ⟨6, true⟩ 0x7FF,
        .cmpi .ne 5 ⟨6, true⟩ 0x7FF] : List Instr).map .ok := by
  decide

/-- R43, R48: words written out field by field. -/
theorem test_decode_compare_2 :
    ([0xCA5B17FF] : List (BitVec 32)).map decodeWord =
      ([.cmpi .lt 5 ⟨6, true⟩ 0x7FF] : List Instr).map .ok := by
  decide

/-- R43, R48: words written out field by field. -/
theorem test_decode_float_1 :
    ([0xD85B2500, 0xD85B2501, 0xD85B2502, 0xD85B2503, 0xD85B2504, 0xD85B2505, 0xD85B2506, 0xD85B2508, 0xD85B2509, 0xD85B250A, 0xD85B0207,
        0xD85B000B] : List (BitVec 32)).map decodeWord =
      ([.fadd .f16 5 ⟨6, true⟩ ⟨9, false⟩, .fsub .f16 5 ⟨6, true⟩ ⟨9, false⟩, .fmul .f16 5 ⟨6, true⟩ ⟨9, false⟩, .fma .f16 5 ⟨6,
        true⟩ ⟨9, false⟩, .fms .f16 5 ⟨6, true⟩ ⟨9, false⟩, .fnma .f16 5 ⟨6, true⟩ ⟨9, false⟩, .fdiv .f16 5 ⟨6, true⟩ ⟨9, false⟩,
        .fmin .f16 5 ⟨6, true⟩ ⟨9, false⟩, .fmax .f16 5 ⟨6, true⟩ ⟨9, false⟩, .fsgn .f16 5 ⟨6, true⟩ ⟨9, false⟩, .fsqrt .bf16 5 ⟨6,
        true⟩, .fclass .f32 5 ⟨6, true⟩] : List Instr).map .ok := by
  decide

/-- R43, R48: words written out field by field. -/
theorem test_decode_float_2 :
    ([0xD95B2400, 0xD95B2401, 0xD95B2402, 0xD95B2403, 0xD95B2404, 0xD95B2405, 0xD95B2406, 0xD95B2407, 0xDA5B0380, 0xDA530100, 0xDB5B0180,
        0xDB5B0190] : List (BitVec 32)).map decodeWord =
      ([.fcmp .f32 .eq 5 ⟨6, true⟩ ⟨9, false⟩, .fcmp .f32 .ne 5 ⟨6, true⟩ ⟨9, false⟩, .fcmp .f32 .lt 5 ⟨6, true⟩ ⟨9, false⟩,
        .fcmp .f32 .ge 5 ⟨6, true⟩ ⟨9, false⟩, .fcmp .f32 .le 5 ⟨6, true⟩ ⟨9, false⟩, .fcmp .f32 .gt 5 ⟨6, true⟩ ⟨9, false⟩,
        .fcmp .f32 .un 5 ⟨6, true⟩ ⟨9, false⟩, .fcmp .f32 .ord 5 ⟨6, true⟩ ⟨9, false⟩, .fcvt .nf .bf16 5 ⟨6, true⟩, .fcvt .f16 .f32 5 ⟨6,
        false⟩, .fcvti .f16 .z32 .rne 5 ⟨6, true⟩, .fcvti .f16 .z32 .rz 5 ⟨6, true⟩] : List Instr).map .ok := by
  decide

/-- R43, R48: words written out field by field. -/
theorem test_decode_float_3 :
    ([0xDB5B01A0, 0xDB5B01B0, 0xDC5B02C0] : List (BitVec 32)).map decodeWord =
      ([.fcvti .f16 .z32 .rdn 5 ⟨6, true⟩, .fcvti .f16 .z32 .rup 5 ⟨6, true⟩, .fcvtf .bf16 .z64 5 ⟨6, true⟩] : List Instr).map .ok := by
  decide

/-- R44, R48: words written out field by field. -/
theorem test_decode_vector_1 :
    ([0xE0321CB0, 0xE0321CB1, 0xE0321CB2, 0xE0321CB3, 0xE0321CB4, 0xE0321CB5, 0xE0321CB6, 0xE0321CB7, 0xE0321CB8, 0xE0321CB9, 0xE0321CBA,
        0xE0321CBB] : List (BitVec 32)).map decodeWord =
      ([.vadd .s16 (some 1) 3 4 7, .vsub .s16 (some 1) 3 4 7, .vmul .s16 (some 1) 3 4 7, .vfma .s16 (some 1) 3 4 7,
        .vmin .s16 (some 1) 3 4 7, .vmax .s16 (some 1) 3 4 7, .vand .s16 (some 1) 3 4 7, .vor .s16 (some 1) 3 4 7,
        .vxor .s16 (some 1) 3 4 7, .vshl .s16 (some 1) 3 4 7, .vshr .s16 (some 1) 3 4 7,
        .vdot .s16 (some 1) 3 4 7] : List Instr).map .ok := by
  decide

/-- R44, R48: words written out field by field. -/
theorem test_decode_vector_2 :
    ([0xE0321EDC, 0xE0321C0D, 0xE1321D89, 0xE1321F17, 0xE2D20100, 0xE2D20101, 0xE2D20102, 0xE2D20103, 0xE2D20104, 0xE2D20105, 0xE3320200,
        0xE3320201] : List (BitVec 32)).map decodeWord =
      ([.vsel .f16 2 3 4 7, .vperm .s8 none 3 4 7, .vcmp (.int .ugt) .s64 none 3 4 7, .vcmp (.flt .ord) .bf16 (some 0) 3 4 7,
        .vred .add .s32 none 13 4, .vred .min .s32 none 13 4, .vred .max .s32 none 13 4, .vred .and .s32 none 13 4,
        .vred .or .s32 none 13 4, .vred .xor .s32 none 13 4, .vexp2 .f32 none 3 4, .vrcp .f32 none 3 4] : List Instr).map .ok := by
  decide

/-- R44, R48: words written out field by field. -/
theorem test_decode_vector_3 :
    ([0xE3320202, 0xE3101283, 0xE43B0000, 0xE5610105, 0xE6308800, 0xE6308801, 0xE6308002, 0xE6D08003] : List (BitVec 32)).map decodeWord =
      ([.vrsq .f32 none 3 4, .vcvt .f16 .f32 none 1 0, .vbcast .s8 3 ⟨6, true⟩, .vmovg .s32 6 2 5, .mand 3 1 2, .mor 3 1 2, .mnot 3 1,
        .mpop 13 1] : List Instr).map .ok := by
  decide

/-! ## Small states for the witnesses -/

/-- Slot 2 of core 0 of partition 0. -/
def at0 : TRef := ⟨0, 0, 2⟩
def r1 : Src := ⟨1, false⟩
def r2 : Src := ⟨2, false⟩
/-- A register read synchronously. -/
def r1s : Src := ⟨1, true⟩

/-- A thread of the slot with its g1 to g3. -/
def thr (slot : SlotId) (x y z : Word) : Thread := Thread.start slot 0x10000 (Regs.fresh 0 x y z) 5 0 0 false false 0
def thr2 (x y : Word) : Thread := thr 2 x y 0

/-- The machine after reset with the partition in RUN, a thread in that slot, and its bundle running, in a state changed by f. -/
def onWith (f : State → State) (t : Thread) : State :=
  f { (State.reset.modPart 0 (fun q => { q with tdisp := .run })).setThread at0 t with
    cur := { at_ := at0, size := 4, words := [0x80000000], phase := .first, hold := Commit.none } }
def on (t : Thread) : State := onWith id t

/-- The states that the witnesses use are ready for every pair of operand values. -/
theorem witness_ready (x y z : Word) (k : SlotId) : Ready (on (thr k x y z)) (thr k x y z) [r1, r2] ∧ (thr k x y z).rd r1 = x ∧
    (thr k x y z).rd r2 = y := by
  refine ⟨⟨rfl, rfl, rfl⟩, rfl, rfl⟩
theorem witness_ready1 (x y z : Word) (k : SlotId) : Ready (on (thr k x y z)) (thr k x y z) [r1] ∧ Ready (on (thr k x y z)) (thr k x y z) [] := by
  refine ⟨⟨rfl, rfl, rfl⟩, ⟨rfl, rfl, rfl⟩⟩

/-- A page at 0x10000 whose frame stands at 0x50000, and the PLB's entry for it; a second page at 0x20000 that is steep. -/
def leaf0 : Leaf :=
  { page := 1, big := false, pa := 0x50000, dom := 3, steep := false, sfmt := 0, slim := 0, nx := false, ro := false, snap := 0,
    pte := keyMain 0 0x40000 }
def leaf1 : Leaf := { leaf0 with page := 2, pa := 0x60000, steep := true, sfmt := 0, slim := 1 }
def plb0 : PlbEntry := { leaf := leaf0, ctx := 0, domValid := true, rights := 7 }
def slice0 : SliceLine :=
  { line := 512, dom := 3, key := keyMain 0 0x50000, big := false, way := 0, dirty := false, sharers := [], endpoint := 0, stamp := none,
    pinned := false }
/-- A state whose PLB and slices hold the two pages' first lines. -/
def mapped (s : State) : State :=
  (s.modCoreC 0 0 (fun k => { k with plb := [plb0, { plb0 with leaf := leaf1 }] })).modPart 0 (fun q => { q with
    slices := [slice0, { slice0 with line := 1024, key := keyMain 0 0x60000 }] })
def onMapped (t : Thread) : State := onWith mapped t
def pagedMem : Memory := memWrite (memWrite [] (keyMain 0 0x70000) 8 0x80001) (keyMain 0 0x80000) 8 (2 ^ 55 + 0x20000031)
/-- The addresses below 512 MiB stand at 512 MiB in the frame, in domain 3, which is valid and of which context 0 has every right. -/
def paged (s : State) : State :=
  { (s.modRegs 0 (fun r => { r with ptroot := r.ptroot.set 0 0x70001, dombase := 0x90000, rtbase := 0xA0000 })) with
    mem := memWrite (memWrite pagedMem (keyMain 0 (0x90000 + 24)) 8 0x100) (keyMain 0 (0xA0000 + 1)) 1 0x70 }
/-- The same, exported whole, and seen through the core's PLB with a large leaf. -/
def exported (s : State) : State := (paged s).modRegs 0 (fun r => { r with xport := 0x8000000000000000 })

/-- An access passes and finds its bytes, as computed. -/
def reads (s : State) (t : Thread) (ea : Word) (n : Nat) : Bool :=
  match checkAccess s s.cur.at_ t needR ea n true with
  | .ok (pl, s1) => (readPlace s1 s.cur.at_ t ea n pl).toOption.isSome
  | .error _ => false
def writesAt (s : State) (t : Thread) (ea : Word) (n : Nat) : Bool :=
  match checkAccess s s.cur.at_ t needW ea n true with
  | .ok (pl, s1) => (writePlace s1 s.cur.at_ t ea n pl).toOption.isSome
  | .error _ => false

/-! ## Witnesses: the hypotheses of the statements are met -/

/-- Two words at the pc of a thread that has the turn, changed by f. -/
def placed (x y : BitVec 32) (f : Thread → Thread) : State :=
  let s := placeWord State.reset x
  ({ s with mem := memWrite s.mem (keyTcm 0 0 0 + 4) 4 y.toNat }).modThread ⟨0, 0, 0⟩ f
/-- The thread whose turn it is, with the words at its pc. -/
def turnOf (s : State) : Option (Thread × BitVec 32 × BitVec 32) :=
  match nextWork s with
  | some (.turn r t) =>
    match fetchLine s r t t.pc with
    | .ok (l, _) =>
      if t.parkAt = none ∧ t.delegFailed = [] ∧ (s.part r.part).snap.phase ≠ .contain then
        some (t, codeWord l (t.pc.toNat % 128), codeWord l (t.pc.toNat % 128 + 4))
      else none
    | .error _ => none
  | _ => none
def emptyT (t : Thread) : Thread := { t with regs := { t.regs with full := Vector.replicate 16 false } }

/-- StepRunsDecoded: a step that is due; a cycle with nothing left; a waiting thread; a word at the pc that decodes and whose registers are
full; one that reads an empty register; and a pair. The words: a lone ADD of g1 and g2 synchronised, NOP with ADD. -/
theorem witness_StepRunsDecoded :
    (State.reset.push (.gangSwitch 0)).events = .gangSwitch 0 :: [] ∧
    (State.reset.events = [] ∧ (nextWork State.reset).isNone = true) ∧
    ((match nextWork { placed 0x80000000 0 (fun t => { t with wait := some (.fence .core) }) with scan := 0 } with
      | some (.wait _ _) => true
      | _ => false) = true) ∧
    ((turnOf (placed 0x80000000 0 id)).map (fun e => (e.2.1, decodeWord e.2.1)) = some (0x80000000, .ok .nop)) ∧
    ((turnOf (placed 0xC1498400 0 emptyT)).map (fun e => (decodeWord e.2.1,
        emptyRegs { e.1 with latch := none } (syncRegs (instrSrcs (.add 4 ⟨3, true⟩ ⟨1, false⟩))))) =
      some (.ok (.add 4 ⟨3, true⟩ ⟨1, false⟩), [3])) ∧
    ((turnOf (placed 0x00000000 0x41418400 id)).map (fun e => (e.2.1.getLsbD 31, e.2.1.getLsbD 30, e.2.2.getLsbD 31, e.2.2.getLsbD 30)) =
      some (false, false, false, true)) ∧
    ((turnOf (placed 0x00000000 0x41418400 id)).map (fun e => (decodeWord e.2.1, decodeWord e.2.2,
        emptyRegs { e.1 with latch := none } (syncRegs (instrSrcs (.add 4 ⟨3, false⟩ ⟨1, false⟩))))) =
      some (.ok .nop, .ok (.add 4 ⟨3, false⟩ ⟨1, false⟩), [])) := by
  decide +kernel

/-- AluResults: an addition that carries out, a shift count of 64, and g1 empty and read synchronously. -/
theorem witness_AluResults :
    Ready (on (thr2 0xFFFFFFFFFFFFFFFF 64)) (thr2 0xFFFFFFFFFFFFFFFF 64) [r1, r2] ∧
    Ready (on (thr2 0xFFFFFFFFFFFFFFFF 64)) (thr2 0xFFFFFFFFFFFFFFFF 64) [r1] ∧
    (on (emptyT (thr2 1 2))).thread at0 = some (emptyT (thr2 1 2)) ∧ emptyRegs (emptyT (thr2 1 2)) (syncRegs [r1s, r2]) ≠ [] :=
  ⟨(witness_ready _ _ _ _).1, (witness_ready1 _ _ _ _).1, rfl, by decide⟩

/-- CompareSelectResults: operands whose signed and unsigned orders differ. -/
theorem witness_CompareSelectResults :
    Ready (on (thr2 0x8000000000000000 1)) (thr2 0x8000000000000000 1) [r1, r2] ∧
    Ready (on (thr2 0x8000000000000000 1)) (thr2 0x8000000000000000 1) [r1] :=
  ⟨(witness_ready _ _ _ _).1, (witness_ready1 _ _ _ _).1⟩

/-- ProductResults: two negative factors. -/
theorem witness_ProductResults : Ready (on (thr2 (-1) (-1))) (thr2 (-1) (-1)) [r1, r2] := (witness_ready _ _ _ _).1

/-- DivisionResults: a zero divisor, the overflow, and the two sides of the time's boundary. -/
theorem witness_DivisionResults :
    (∀ x y : Word, Ready (on (thr2 x y)) (thr2 x y) [r1, r2] ∧ (thr2 x y).rd r1 = x ∧ (thr2 x y).rd r2 = y) ∧
    (0x8000000000000000 : Word).toInt = -2 ^ 63 ∧ (-1 : Word).toInt = -1 ∧ (-1 : Word) ≠ 0 ∧
    ¬ ((0x100000000 : Word).toInt = -2 ^ 63 ∧ (3 : Word).toInt = -1) ∧ ¬ ((0xFFFFFFFF : Word).toInt = -2 ^ 63 ∧ (3 : Word).toInt = -1) := by
  refine ⟨fun x y => witness_ready x y 0 2, ?_⟩
  decide

/-- BitFieldResults: the widest fields that a legal word names. -/
theorem witness_BitFieldResults :
    Ready (on (thr2 1 0)) (thr2 1 0) [r1] ∧ Ready (on (thr2 1 0)) (thr2 1 0) [] ∧
    (0 : BitVec 6).toNat + ((63 : BitVec 6).toNat + 1) ≤ 64 ∧ (63 : BitVec 6).toNat + ((0 : BitVec 6).toNat + 1) ≤ 64 :=
  ⟨(witness_ready1 _ _ _ _).1, (witness_ready1 _ _ _ _).2, by decide, by decide⟩

/-- FloatResults: every pair of operands is met; among those of FP32 a NaN, an infinity, a zero and finite ones of both signs. -/
theorem witness_FloatResults :
    (∀ x y : Word, Ready (on (thr2 x y)) (thr2 x y) [r1, r2] ∧ Ready (on (thr2 x y)) (thr2 x y) [r1]) ∧
    (let v (n : Nat) : FVal := FType.f32.fmt.val n
     let kind (n : Nat) : Bool × Bool × Bool × Bool := ((v n).isNan, (v n).isInf, (v n).isZero, (v n).sign)
     kind 0x3F800000 = (false, false, false, false) ∧ kind 0xBF800000 = (false, false, false, true) ∧
     kind 0x7F800000 = (false, true, false, false) ∧ (kind 0x7FC00000).1 = true ∧ (v 0x7FA00000).isSnan = true ∧
     kind 0 = (false, false, true, false) ∧ kind 0x80000000 = (false, false, true, true) ∧ kind 1 = (false, false, false, false)) := by
  refine ⟨fun x y => ⟨(witness_ready x y 0 2).1, (witness_ready1 x y 0 2).1⟩, ?_⟩
  decide +kernel

/-- A thread whose format descriptors are set: a valid one for the narrow float of one exponent and two mantissa bits, and none. -/
def nfT (v : Word) : Thread := { thr2 1 2 with fa := v, fb := v }

/-- FloatConvertResults: a valid and an invalid descriptor; among the valid ones a format with an infinity and NaNs, which saturates to infinity or
to its largest value, one with a NaN alone, one without either, one without a sign and one without an exponent; and a code of each kind. -/
theorem witness_FloatConvertResults :
    Ready (on (nfT 0)) (nfT 0) [r1, r2] ∧ Ready (on (nfT 0)) (nfT 0) [r1] ∧ (nfOf (nfT 0).fa).isNone = true ∧
    Ready (on (nfT 0x7341)) (nfT 0x7341) [r1] ∧ (nfOf (nfT 0x7341).fa).isSome = true ∧
    ([0x8F251, 0x28F251, 0x107341, 0x7341, 0x7440, 0x701] : List Word).map (fun w => (nfOf w).map (fun n => (n.spec, n.sat, n.s, n.e, n.m))) =
      [some (1, 0, true, 5, 2), some (1, 1, true, 5, 2), some (2, 0, true, 4, 3), some (0, 0, true, 4, 3), some (0, 0, false, 4, 4),
       some (0, 0, true, 0, 7)] ∧
    (nfOf 0x8F251).map (fun n => ((n.val 0x7C).isInf, (n.val 0x7D).isNan, (n.val 0x7B).isInf || (n.val 0x7B).isNan)) = some (true, true, false) ∧
    (nfOf 0x107341).map (fun n => ((n.val 0x7F).isNan, (n.val 0x7E).isNan)) = some (true, false) := by
  refine ⟨⟨rfl, rfl, rfl⟩, ⟨rfl, rfl, rfl⟩, by decide, ⟨rfl, rfl, rfl⟩, ?_⟩
  decide +kernel

/-- VectorLaneResults: a thread that is ready, an integer type and a float type. -/
theorem witness_VectorLaneResults :
    Ready (on (thr2 1 2)) (thr2 1 2) [] ∧ VType.s8.isInt = true ∧ VType.bf16.isInt = false := ⟨⟨rfl, rfl, rfl⟩, rfl, rfl⟩

/-- VectorReduceResults: narrow operands with and without a descriptor that packs 8 bits. -/
theorem witness_VectorReduceResults :
    Ready (on (nfT 0)) (nfT 0) [] ∧ vecNf (nfT 0).fa = none ∧
    Ready (on (nfT 0x7341)) (nfT 0x7341) [] ∧ (vecNf (nfT 0x7341).fa).isSome = true ∧ (vecNf (nfT 0x7341).fb).isSome = true :=
  ⟨⟨rfl, rfl, rfl⟩, by decide, ⟨rfl, rfl, rfl⟩, by decide, by decide⟩

/-- VectorConvertResults: the descriptors; and of FP16 and FP32 a NaN, infinities, zeros, integers at the edges of the exponents, a value between
two integers, a negative one, and one whose reciprocal is beyond the format. -/
theorem witness_VectorConvertResults :
    Ready (on (nfT 0)) (nfT 0) [r1] ∧ Ready (on (nfT 0)) (nfT 0) [] ∧ vecNf (nfT 0).fa = none ∧
    Ready (on (nfT 0x7341)) (nfT 0x7341) [] ∧ (vecNf (nfT 0x7341).fa).isSome = true ∧
    (let kind (f : Fmt) (n : Nat) : Bool × Bool × Bool × Bool := ((f.val n).isNan, (f.val n).isInf, (f.val n).isZero, (f.val n).sign)
     (kind .f16 0x7E00).1 = true ∧ kind .f16 0x7C00 = (false, true, false, false) ∧ kind .f16 0xFC00 = (false, true, false, true) ∧
     kind .f16 0 = (false, false, true, false) ∧ kind .f16 0x3C00 = (false, false, false, false) ∧
     kind .f16 0xBC00 = (false, false, false, true) ∧ Fmt.f16.val 0x4B80 = .fin false 1920 (-7) ∧ Fmt.f16.val 0x3E00 = .fin false 1536 (-10) ∧ Fmt.f16.val 0x4C00 = .fin false 1024 (-6) ∧
     Fmt.f32.val 1 = .fin false 1 (-149) ∧ kind .f32 0x3F800000 = (false, false, false, false)) := by
  refine ⟨⟨rfl, rfl, rfl⟩, ⟨rfl, rfl, rfl⟩, by decide, ⟨rfl, rfl, rfl⟩, ?_⟩
  decide +kernel

/-- TransferResults: zero and non-zero registers; targets that are canonical, misaligned, and not canonical, at the edges; a pc whose far
branch leaves the canonical addresses. -/
theorem witness_TransferResults :
    (∀ x y : Word, Ready (on (thr2 x y)) (thr2 x y) [r1] ∧ Ready (on (thr2 x y)) (thr2 x y) [] ∧ (thr2 x y).rd r1 = x) ∧
    (let edge : Thread := { thr2 0 0 with pc := 0x00FFFFFFFFFFFFFC }
     Ready (on edge) edge [r1] ∧ Ready (on edge) edge [] ∧ canonical (edge.pc + (1 : BitVec 20).signExtend 64 * 4) = false ∧
     canonical (edge.pc + (1 : BitVec 15).signExtend 64 * 4) = false) ∧
    canonical (0x10000 + (1 : BitVec 20).signExtend 64 * 4) = true ∧ canonical (0x10000 + (1 : BitVec 15).signExtend 64 * 4) = true ∧
    (canonical 0x00FFFFFFFFFFFFFC = true ∧ (0x00FFFFFFFFFFFFFC : Word).toNat % 4 = 0) ∧ (0x00FFFFFFFFFFFFFE : Word).toNat % 4 ≠ 0 ∧
    (canonical 0x0100000000000000 = false ∧ (0x0100000000000000 : Word).toNat % 4 = 0) ∧
    ((-1 : Word).toInt < 0 ∧ ¬ (0 : Word).toInt < 0 ∧ (0 : Word).toInt ≥ 0 ∧ (0 : Word).toInt ≤ 0 ∧ (1 : Word).toInt > 0) := by
  refine ⟨fun x y => ⟨(witness_ready1 x y 0 2).1, (witness_ready1 x y 0 2).2, rfl⟩, ⟨⟨rfl, rfl, rfl⟩, ⟨rfl, rfl, rfl⟩, ?_, ?_⟩, ?_⟩ <;>
    decide

/-- BlockResults: checks that pass, are off, and fail. -/
theorem witness_BlockResults :
    let x (ctl : Word) : State := onWith (fun s => s.modCoreC 0 0 (fun k => { k with strctl := ctl })) (thr2 0 0)
    Ready (x 0) (thr2 0 0) [] ∧ Ready (x 1) (thr2 0 0) [] ∧ ((x 0).core 0 0).c.strctl.getLsbD 0 = false ∧
    ((x 1).core 0 0).c.strctl.getLsbD 0 = true ∧ ((x 1).core 0 0).c.strctl.getLsbD 1 = false ∧ (thr2 0 0).strain.skip = false ∧
    (let sum : BitVec 12 := (0x10000 : Word).extractLsb' 2 12 ^^^ (0x10000 : Word).extractLsb' 14 12 ^^^ (0x10000 : Word).extractLsb' 26 12 ^^^
        (0x10000 : Word).extractLsb' 38 12 ^^^ ((0x10000 : Word).extractLsb' 50 7).setWidth 12
     ((sum ≠ 0 ∧ ((0 : BitVec 12) ^^^ sum) = sum) ∧ ((1 : BitVec 12) ≠ 0 ∧ ((0 : BitVec 12) ^^^ 1) ≠ sum))) :=
  ⟨⟨rfl, rfl, rfl⟩, ⟨rfl, rfl, rfl⟩, rfl, rfl, rfl, rfl, by decide⟩

/-- CommitEffect: a commit of a register write at once, and one with a reply time. -/
theorem witness_CommitEffect :
    let s := on (thr2 1 2)
    s.thread s.cur.at_ = some (thr2 1 2) ∧ (writes 4 9).log.all LogItem.plain = true ∧ s.watched 0 0 = false ∧
    Commits s s [r1] (.next (commitIn s s.cur s.cycle { writes 4 9 with clears := syncRegs [r1] })) (writes 4 9) ∧
    (let c : Commit := { writes 4 9 with lat := 16 }
     Commits s s [r1] (.next (commitIn s s.cur (s.cycle + 16) { c with clears := syncRegs [r1] })) c ∧ c.lat ≠ 0 ∧
     c.log.any LogItem.isFlow = false) :=
  ⟨rfl, rfl, rfl, rfl, rfl, by decide, rfl⟩

/-- The running word's own meaning, as a word ends: 0 done, 1 a trap, 2 a drop, 3 a wait, 4 pending. -/
def resKind : Res → Nat
  | .done _ _ => 0
  | .trap _ _ _ => 1
  | .drop _ _ => 2
  | .wait _ _ => 3
  | .pend _ _ => 4
  | _ => 5
/-- A word goes through the operation that all words share, with the sources, and its meaning there ends as k. -/
def EndsAs (i : Instr) (srcs : List Src) (s : State) (t : Thread) (k : Nat) : Prop :=
  ∃ f, exec i s = runWord srcs f s ∧ resKind (f at0 t s) = k

/-- PairCommit: full registers, a word that can be read (from the TCM and from memory), no valid descriptor, and words that end in each way. -/
theorem witness_PairCommit :
    ((on (thr2 0xFF00000000000010 2)).thread at0 = some (thr2 0xFF00000000000010 2) ∧
      emptyRegs (thr2 0xFF00000000000010 2) (syncRegs [r1s, r2]) = [] ∧ nfOf (thr2 1 2).fa = none ∧
      reads (on (thr2 0xFF00000000000010 2)) (thr2 0xFF00000000000010 2) 0xFF00000000000010 8 = true ∧
      reads (onMapped (thr2 0x10008 2)) (thr2 0x10008 2) 0x10008 8 = true) ∧
    EndsAs (.add 4 r1 r2) [r1, r2] (on (thr2 0 0)) (thr2 0 0) 0 ∧
    EndsAs (.ldS64 4 r1 0) [r1] (on (thr2 0xFF00000000000010 0)) (thr2 0xFF00000000000010 0) 0 ∧ EndsAs (.ldS64 4 r1 0) [r1] (on (thr2 0x0100000000000000 0)) (thr2 0x0100000000000000 0) 1 ∧
    EndsAs (.ldS64 4 r1 0) [r1] (on (thr2 0x10008 0)) (thr2 0x10008 0) 2 ∧
    EndsAs (.fence .part) [] (onWith (fun s => s.modCoreW 0 0 (fun w => { w with
      outQ := [{ src := at0, tid := 5, corr := 0, ctx := 0, key := 0, line := 0, op := .add, sz := .w64, v := 1 }] })) (thr2 0 0)) (thr2 0 0) 3 ∧
    EndsAs (.ldS64 4 r1 0) [r1] (on (thr2 0xFFE0000100000000 0)) (thr2 0xFFE0000100000000 0) 4 := by
  refine ⟨⟨rfl, ?_⟩, ⟨fun _ t s => .done (Commit.reg 4 (t.rd r1 + t.rd r2)) s, by simp only [exec, execAdd, alu3, aluWord, runPure], ?_⟩,
    ⟨fun r t s => loadWord .s64 4 (eaOffset t r1 0) r t s, by simp only [exec, execLdS64, loadOffset], ?_⟩,
    ⟨fun r t s => loadWord .s64 4 (eaOffset t r1 0) r t s, by simp only [exec, execLdS64, loadOffset], ?_⟩,
    ⟨fun r t s => loadWord .s64 4 (eaOffset t r1 0) r t s, by simp only [exec, execLdS64, loadOffset], ?_⟩,
    ⟨fun r t s => fenced s r t .part (fun _ => .done (Commit.none.late 12) s), by simp only [exec, execFence, reduceCtorEq, if_false], ?_⟩,
    ⟨fun r t s => loadWord .s64 4 (eaOffset t r1 0) r t s, by simp only [exec, execLdS64, loadOffset], ?_⟩⟩ <;>
    decide +kernel

/-- A state whose context 0 has the handler h. -/
def handled (h : Word) (t : Thread) : State := onWith (fun s => { s with mem := memWrite [] (keyMain 0 8) 8 h.toNat }) t
/-- Whether the handler can be entered, as the statement has it. -/
def usableB (s : State) (t : Thread) : Bool :=
  let h := ctxWord s 0 t.ctx 0x08
  decide (t.ecause.getLsbD 63 = false ∧ h ≠ 0 ∧ canonical h = true ∧ h.toNat % 4 = 0)

/-- TrapEntry: a usable handler; none; a misaligned one; one beyond the addresses; and a thread that is already in its handler. -/
theorem witness_TrapEntry :
    (on (thr2 1 2)).thread at0 = some (thr2 1 2) ∧ (on (thr2 1 2)).watched 0 0 = false ∧
    usableB (handled 0x20000 (thr2 1 2)) (thr2 1 2) = true ∧ usableB (handled 0 (thr2 1 2)) (thr2 1 2) = false ∧
    usableB (handled 0x20002 (thr2 1 2)) (thr2 1 2) = false ∧ usableB (handled 0x0100000000000000 (thr2 1 2)) (thr2 1 2) = false ∧
    usableB (handled 0x20000 (thr2 1 2)) { thr2 1 2 with ecause := 0x8000000000000010 } = false := by
  refine ⟨rfl, ?_⟩
  decide +kernel

/-- How a lookup of the protection ends: the code of a trap, the code of a drop's record, or 0. -/
def lookup (s : State) (t : Thread) (need : BitVec 4) (ea : Word) : Nat × Nat :=
  match protect s at0 t need ea with
  | .error (.trap k _ _) => (k.code, 0)
  | .error (.drop q _) => (0, q.code)
  | _ => (0, 0)
/-- The mapped state with other rights in its PLB. -/
def rightsOnly (x : BitVec 4) (t : Thread) : State :=
  onWith (fun s => (mapped s).modCoreC 0 0 (fun k => { k with plb := [{ plb0 with rights := x }] })) t
/-- A table whose root entry e is that of the address 0. -/
def tabled (e : Word) (t : Thread) : State :=
  onWith (fun s => { (s.modRegs 0 (fun r => { r with ptroot := r.ptroot.set 0 0x70001 })) with
    mem := memWrite [] (keyMain 0 0x70000) 8 e.toNat }) t

/-- AccessFaults: an address that is not canonical, one misaligned, one in a hole of the windows, one of another partition, one without rights,
one without a page; and lanes of which the second is the first active one. -/
theorem witness_AccessFaults :
    (∀ x y : Word, Ready (on (thr2 x y)) (thr2 x y) [r1] ∧ Ready (on (thr2 x y)) (thr2 x y) [r1, r2]) ∧
    canonical 0x0100000000000000 = false ∧ (canonical 0x10001 = true ∧ (0x10001 : Word).toNat % 2 ≠ 0) ∧
    (let ea : Word := 0xFF00000000020000
     canonical ea = true ∧ ea.toNat % 64 = 0 ∧ ea.toNat / 2 ^ 40 = 0xFF0000 ∧ windowKey 0 0 ea = none) ∧
    (canonical 0xFFE0000000000000 = true ∧ (0xFFE0000000000000 : Word).toNat / 2 ^ 52 = 0xFFE) ∧
    ((0x10040 : Word).toNat / 2 ^ 40 ≠ 0xFF0000 ∧ (0x10040 : Word).toNat / 2 ^ 52 ≠ 0xFFE ∧ (0x10040 : Word).toNat % 64 = 0) ∧
    (∀ need ∈ ([1, 2] : List (BitVec 4)),
      lookup (rightsOnly 0 (thr2 0x10040 0)) (thr2 0x10040 0) need 0x10040 = (Cause.protection.code, 0) ∧
      lookup (on (thr2 0x10040 0)) (thr2 0x10040 0) need 0x10040 = (0, 0x020)) ∧
    ((List.range VType.s32.lanes).filter (fun i => laneActive { thr2 0 0 with m := Vector.replicate 4 2 } (some 0) i)).head? = some 1 := by
  refine ⟨fun x y => ⟨(witness_ready1 x y 0 2).1, (witness_ready x y 0 2).1⟩, ?_⟩
  decide +kernel

/-- The small page of 0x10000 with its tables, changed by f. -/
def smallPage (f : State → State) (t : Thread) : State :=
  onWith (fun s => f { (s.modRegs 0 (fun r => { r with ptroot := r.ptroot.set 0 0x70001 })) with
    mem := memWrite (memWrite (memWrite [] (keyMain 0 0x70000) 8 0x80001) (keyMain 0 0x80000) 8 0xB0001) (keyMain 0 0xB0008) 8 (2 ^ 55 + 0x50031) }) t
/-- How a walk of 0x10008 ends: 0 a leaf, 1 no page, 2 a retired page, 3 a malformed entry, 4 a poisoned table, with its level. -/
def walkKind (s : State) : Nat × Nat :=
  match walkPage s 0 0x10008 with
  | .leaf _ => (0, 0)
  | .page n => (1, n)
  | .retired _ => (2, 0)
  | .format n => (3, n)
  | .poisoned n _ => (4, n)

/-- ProtectionLookup: an entry that allows a read, one that does not allow a write, and one whose page is retired; a walk that ends at a leaf,
without a root, at a retired page, at an entry with a reserved field, and at a poisoned table, with room in the list, without, and listed. -/
theorem witness_ProtectionLookup :
    plbFind ((rightsOnly 1 (thr2 0 0)).core 0 0).c.plb (va57 0x10008) 0 = some { plb0 with rights := 1 } ∧
    (rightsOf true 3 1 false &&& 1 = 1 ∧ rightsOf true 3 1 false &&& 2 ≠ 2) ∧
    (nmem ((rightsOnly 1 (thr2 0 0)).part 0).retired (leaf0.frame (va57 0x10008)) = false ∧
      nmem ((onWith (fun s => (mapped s).modPart 0 (fun q => { q with retired := [5] })) (thr2 0 0)).part 0).retired
        (leaf0.frame (va57 0x10008)) = true) ∧
    plbFind ((on (thr2 0 0)).core 0 0).c.plb (va57 0x10008) 0 = none ∧
    (kget ((on (thr2 0 0)).part 0).tcache (homeSlice (lineOf 0x10008)).val).getD [] = [] ∧
    walkKind (smallPage id (thr2 0 0)) = (0, 0) ∧ walkKind (on (thr2 0 0)) = (1, 3) ∧
    walkKind (smallPage (fun s => s.modPart 0 (fun q => { q with retired := [5] })) (thr2 0 0)) = (2, 0) ∧
    walkKind (tabled 3 (thr2 0 0)) = (3, 2) ∧ walkKind (smallPage (fun s => s.poisonLine (keyMain 0 0xB0000)) (thr2 0 0)) = (4, 0) ∧
    walkKind (smallPage (fun s => s.modPart 0 (fun q => { q with badTables := [11] })) (thr2 0 0)) = (4, 0) ∧ nmem [11] 11 = true ∧
    (let l := List.range 64
     walkKind (smallPage (fun s => (s.poisonLine (keyMain 0 0x80000)).modPart 0 (fun q => { q with badTables := l.map (· + 100) })) (thr2 0 0)) =
       (4, 1) ∧ nmem (l.map (· + 100)) 8 = false ∧ ¬ (l.map (· + 100)).length < 64) := by
  decide +kernel

/-- LoadResults, StoreResults: words of the TCM and of memory, the last of a line among them. -/
theorem witness_LoadResults :
    (∀ x : Word, Ready (onMapped (thr2 x 1)) (thr2 x 1) [r1] ∧ Ready (onMapped (thr2 x 1)) (thr2 x 1) [r1, r2]) ∧
    (∀ e ∈ ([(0x10000, 1), (0x10002, 2), (0x1007C, 4), (0x10078, 8), (0xFF0000000001FFF8, 8)] : List (Word × Nat)),
      reads (onMapped (thr2 e.1 1)) (thr2 e.1 1) e.1 e.2 = true) := by
  refine ⟨fun x => ⟨⟨rfl, rfl, rfl⟩, ⟨rfl, rfl, rfl⟩⟩, ?_⟩
  decide +kernel

theorem witness_StoreResults :
    (∀ x : Word, Ready (onMapped (thr2 x 1)) (thr2 x 1) [r1] ∧ Ready (onMapped (thr2 x 1)) (thr2 x 1) [r1, r2]) ∧
    (∀ e ∈ ([(0x10000, 1), (0x10002, 2), (0x1007C, 4), (0x10078, 8), (0xFF0000000001FFF8, 8)] : List (Word × Nat)),
      writesAt (onMapped (thr2 e.1 1)) (thr2 e.1 1) e.1 e.2 = true) ∧ Memory.wf (onMapped (thr2 0 0)).mem = true := by
  refine ⟨fun x => ⟨⟨rfl, rfl, rfl⟩, ⟨rfl, rfl, rfl⟩⟩, ?_⟩
  decide +kernel

/-- An aligned word of a window that is not poisoned. -/
def windowOk (e : Word) : Bool :=
  inWindowRegion e && e.toNat % 8 == 0 &&
  (match windowKey 0 0 e with
   | some (key, _) => !windowPoisoned (on (thr2 0 0)) key 8
   | none => false)

/-- WindowAccess: the TCM, the scratchpad and the shared SRAM, each at its last words; a poisoned word; and a RED of the thread to a word on its way. -/
theorem witness_WindowAccess :
    (∀ x y : Word, Ready (on (thr2 x y)) (thr2 x y) [r1] ∧ Ready (on (thr2 x y)) (thr2 x y) [r1, r2]) ∧ (on (thr2 0 0)).watched 0 0 = false ∧
    Memory.wf (on (thr2 0 0)).mem = true ∧
    windowOk 0xFF0000000001FFF8 = true ∧ windowOk 0xFF000000007FFFF8 = true ∧ windowOk 0xFF00000013FFFFF8 = true ∧
    windowOk 0xFF000000007FFFC0 = true ∧ (0xFF000000007FFFC0 : Word).toNat % 64 = 0 ∧
    windowPoisoned ((on (thr2 0 0)).poisonWord (keyTcm 0 0 16)) (keyTcm 0 0 16) 8 = true ∧ (windowKey 0 0 0xFF00000000000010).map (fun e => e.1) = some (keyTcm 0 0 16) ∧
    redPending (on (thr2 0 0)) 0 5 (keyTcm 0 0 16) 8 = false ∧
    redPending (onWith (fun s => s.modCoreW 0 0 (fun w => { w with outQ :=
      [{ src := at0, tid := 5, corr := 0, ctx := 0, key := keyTcm 0 0 16, line := 0, op := .add, sz := .w64, v := 1 }] })) (thr2 0 0))
      0 5 (keyTcm 0 0 16) 8 = true := by
  refine ⟨fun x y => ⟨(witness_ready1 x y 0 2).1, (witness_ready x y 0 2).1⟩, rfl, rfl, ?_⟩
  decide +kernel

/-- The own partition's span, exported, with a RED of the thread to its word at 0x10008 on its way. -/
def ownSpan (t : Thread) : State :=
  onWith (fun s => (exported s).modCoreW 0 0 (fun w => { w with outQ :=
    [{ src := at0, tid := 5, corr := 0, ctx := 0, key := keyMain 0 (0x20000000 + 0x10008), line := 513, op := .add, sz := .w64, v := 1 }] })) t

/-- RemoteAccess: the span's first and last word; the own partition's span with a RED to the word on its way, and another word of it. -/
theorem witness_RemoteAccess :
    (∀ x y : Word, Ready (on (thr2 x y)) (thr2 x y) [r1] ∧ Ready (on (thr2 x y)) (thr2 x y) [r1, r2] ∧ Ready (ownSpan (thr2 x y)) (thr2 x y) [r1]) ∧
    (on (thr2 0 0)).watched 0 0 = false ∧ (ownSpan (thr2 0 0)).watched 0 0 = false ∧
    (inRemoteRegion 0xFFE0000000000000 = true ∧ (0xFFE0000000000000 : Word).toNat % 8 = 0) ∧
    (inRemoteRegion 0xFFEFFFFFFFFFFFF8 = true ∧ (0xFFEFFFFFFFFFFFF8 : Word).toNat % 8 = 0) ∧
    remoteOwn (ownSpan (thr2 0 0)) at0 (thr2 0 0) 0xFFE0000000010008 8 = true ∧
    remoteOwn (ownSpan (thr2 0 0)) at0 (thr2 0 0) 0xFFE0000000010010 8 = false := by
  refine ⟨fun x y => ⟨(witness_ready1 x y 0 2).1, (witness_ready x y 0 2).1, ⟨rfl, rfl, rfl⟩⟩, ?_⟩
  decide +kernel

/-- Where an operation at its word's home finds it: the key and the state. -/
def home (s : State) (t : Thread) (need : BitVec 4) (reads writes : Bool) (ea : Word) (n : Nat) : Option (Nat × State) :=
  match checkAccess s s.cur.at_ t need ea n true with
  | .ok (pl, s1) => (homePlace s1 s.cur.at_ t need reads writes ea n pl).toOption.map (fun e => (e.1.key, e.2))
  | .error _ => none
/-- The mapped state with the word at 0x10008 full. -/
def fullWord (t : Thread) : State := onWith (fun s => { mapped s with fe := [(keyMain 0 0x50008) / 8] }) t

/-- FullEmptyResults: an empty word and a full one, for the rights of each of the five words; a remote one, with a RED to it on its way and
without. -/
theorem witness_FullEmptyResults :
    Ready (onMapped (thr2 0x10008 0)) (thr2 0x10008 0) [r1] ∧ Ready (fullWord (thr2 0x10008 0)) (thr2 0x10008 0) [r1] ∧
    (∀ e ∈ ([(3, true, true), (1, true, false), (2, false, true)] : List (BitVec 4 × Bool × Bool)),
      (home (onMapped (thr2 0x10008 0)) (thr2 0x10008 0) e.1 e.2.1 e.2.2 0x10008 8).map (fun x => x.2.fullBit x.1) = some false ∧
      (home (fullWord (thr2 0x10008 0)) (thr2 0x10008 0) e.1 e.2.1 e.2.2 0x10008 8).map (fun x => x.2.fullBit x.1) = some true) ∧
    (inRemoteRegion 0xFFE0000000010008 = true ∧ (0xFFE0000000010008 : Word).toNat % 8 = 0 ∧
      remoteOwn (ownSpan (thr2 0xFFE0000000010008 0)) at0 (thr2 0xFFE0000000010008 0) 0xFFE0000000010008 8 = true ∧
      remoteOwn (on (thr2 0xFFE0000000010008 0)) at0 (thr2 0xFFE0000000010008 0) 0xFFE0000000010008 8 = false ∧
      (on (thr2 0xFFE0000000010008 0)).watched 0 0 = false) := by
  refine ⟨⟨rfl, rfl, rfl⟩, ⟨rfl, rfl, rfl⟩, ?_⟩
  decide +kernel

def tcmKey : Nat := keyTcm 0 0 16
def feReq (op : FeOp) : FeReq := { op := op, key := tcmKey, val := 7, who := .thread at0 5 }
/-- A TCM word, full or empty, with these lists. -/
def listed (full : Bool) (l : FeLists) : State :=
  setFeLists { State.reset with fe := if full then [tcmKey / 8] else [] } 0 tcmKey l
/-- The word as its list is served: poisoned, full, and the lists. -/
def servedAt (s : State) : Option (Bool × Bool × FeLists) :=
  (opAtHome (lineBack s 0 tcmKey) 0 tcmKey (.step (.feListServe 0 tcmKey))).toOption.map (fun s0 =>
    let u := readHome s0 0 tcmKey (feCorr s0 0 tcmKey)
    (u.linePoisoned tcmKey || u.wordPoisoned tcmKey, u.fullBit tcmKey, feLists u 0 tcmKey))
/-- The word where an operation of another party finds it. -/
def operatedAt (s : State) : Option Bool :=
  (opAtHome s 0 tcmKey (.step (.feHomeOperation 0 (feReq .lds)))).toOption.map (fun u => u.fullBit tcmKey)
/-- The page of 0x10000 captured and not yet copied, with n staging frames. -/
def captured0 (frames : Nat) (s : State) : State :=
  let s := s.modPart 0 (fun q => { q with
    r := { q.r with snapstg := word (0x200000 + frames), snapn := 1 },
    snap := { q.snap with table := [{ n := 1, state := 1 }], captured := [leaf0] } })
  { s with mem := memWrite s.mem leaf0.pte 8 (2 ^ 62 + 1) }

/-- FullEmptyService: a full word with a waiting LDS, an empty one with a waiting STS, a poisoned one, one in a held page, one with nothing to
serve, and each operation's two cases. -/
theorem witness_FullEmptyService :
    (let s := listed true { full := [feReq .lds], empty := [] }
     feDue s 0 tcmKey = true ∧ servedAt s = some (false, true, { full := [feReq .lds], empty := [] }) ∧
     servedAt (s.poisonWord tcmKey) = some (true, true, { full := [feReq .lds], empty := [] })) ∧
    (let s := listed false { full := [], empty := [feReq .sts] }
     feDue s 0 tcmKey = true ∧ servedAt s = some (false, false, { full := [], empty := [feReq .sts] })) ∧
    (let key := keyMain 0 0x50008
     let s := captured0 1 (setFeLists State.reset 0 key { full := [], empty := [{ feReq .sts with key := key }] })
     feDue s 0 key = true ∧ (opAtHome (lineBack s 0 key) 0 key (.step (.feListServe 0 key))).toOption.isNone = true) ∧
    feDue State.reset 0 tcmKey = false ∧
    operatedAt (listed true { full := [], empty := [] }) = some true ∧ operatedAt (listed false { full := [], empty := [] }) = some false := by
  decide +kernel

/-- A thread's own update waits in its core's queue. -/
def pendingRed : RedReq :=
  { src := at0, tid := 5, corr := 0, ctx := 0, key := keyMain 0 0x50008, line := 513, op := .add, sz := .w64, v := 1 }
def busy (t : Thread) : State := onWith (fun s => s.modCoreW 0 0 (fun w => { w with outQ := [pendingRed] })) t
def unwatched (t : Thread) : Bool := (on t).watched 0 0 = false
/-- A core whose slots are all taken, with n threads in its landing queue. -/
def crowded (n : Nat) (t : Thread) : State :=
  onWith (fun s => s.modCoreW 0 0 (fun w => { w with
    slots := (List.range 16).map (fun i => (i, Slot.thread t)), landing := List.replicate n t })) t

/-- SpawnExitResults: bad and good entries, a core that is none, a free slot, a landing queue with and without room; an EXIT with and
without updates pending. -/
theorem witness_SpawnExitResults :
    (∀ x y : Word, Ready (on (thr2 x y)) (thr2 x y) [r1, r2] ∧ Ready (busy (thr2 x y)) (thr2 x y) [] ∧ Ready (on (thr2 x y)) (thr2 x y) []) ∧
    (canonical 0x0100000000000000 = false ∧ (0x20002 : Word).toNat % 4 ≠ 0 ∧ canonical 0x20000 = true ∧ (0x20000 : Word).toNat % 4 = 0) ∧
    ((on (thr2 0x20000 272)).coreNum 0 272 = none ∧ (on (thr2 0x20000 0)).coreNum 0 0 = some 0 ∧ (on (thr2 0x20000 0)).coreNum 0 271 = some 271) ∧
    freeGeneral ((on (thr2 0x20000 0)).core 0 0).w = some 3 ∧
    (freeGeneral ((crowded 15 (thr2 0x20000 0)).core 0 0).w = none ∧ ((crowded 15 (thr2 0x20000 0)).core 0 0).w.landing.length < 16) ∧
    (freeGeneral ((crowded 16 (thr2 0x20000 0)).core 0 0).w = none ∧ 16 ≤ ((crowded 16 (thr2 0x20000 0)).core 0 0).w.landing.length) ∧
    (crowded 16 (thr2 0x20000 0)).thread at0 = some (thr2 0x20000 0) ∧
    fenceMet (on (thr2 0x20000 0)) at0 (thr2 0x20000 0) .part = true ∧ fenceMet (busy (thr2 0x20000 0)) at0 (thr2 0x20000 0) .part = false ∧
    (busy (thr2 0x20000 0)).coreNum 0 0 = some 0 ∧
    updatesPending (busy (thr2 0 0)) 0 5 = true ∧ updatesPending (on (thr2 0 0)) 0 5 = false ∧ unwatched (thr2 0 0) = true := by
  refine ⟨fun x y => ⟨⟨rfl, rfl, rfl⟩, ⟨rfl, rfl, rfl⟩, ⟨rfl, rfl, rfl⟩⟩, ?_⟩
  decide +kernel

def msg0 : SendMsg := { src := at0, srcTid := 5, val := 7 }
/-- A receive ring from head to tail, with n messages that wait for room. -/
def ringed (head tail : BitVec 9) (n : Nat) (t : Thread) : State :=
  onWith (fun s => s.modCoreW 0 0 (fun w => { w with
    rxHead := head.setWidth _, rxTail := tail.setWidth _, rxBuf := List.replicate n msg0 })) t

/-- MessageResults: a core that is none and one that is; a channel that is off; rings that are empty, full, and neither; a buffer with and
without room. -/
theorem witness_MessageResults :
    (∀ x y : Word, Ready (on (thr2 x y)) (thr2 x y) [r1, r2]) ∧
    ((on (thr2 272 0)).coreNum 0 272 = none ∧ (on (thr2 3 0)).coreNum 0 3 = some 3) ∧
    (64 ≤ ((onWith (fun s => s.modCoreW 0 0 (fun w => { w with updateQ := List.replicate 64 pendingRed })) (thr2 0 0)).core 0 0).w.updateQ.length) ∧
    (∀ i ∈ ([.sendArrival 0 0 msg0, .sendRetry 0 0 msg0] : List Instr),
      heldBehind (on (thr2 0 0)) i = false ∧ heldBehind { on (thr2 0 0) with waiting := [.sendArrival 0 0 msg0] } i = true) ∧
    (let w := ((ringed 0 0 0 (thr2 0 0)).core 0 0).w
     w.rxHead = w.rxTail ∧ w.rxTail + 1 ≠ w.rxHead ∧ w.rxBuf = [] ∧ w.serverQ.length < 32 ∧ w.updateQ.length < 64) ∧
    (let w := ((ringed 1 0 3 (thr2 0 0)).core 0 0).w
     w.rxTail + 1 = w.rxHead ∧ w.rxHead ≠ w.rxTail ∧ w.rxBuf.length < 4) ∧
    (4 ≤ ((ringed 1 0 4 (thr2 0 0)).core 0 0).w.rxBuf.length) ∧
    (let w := ((ringed 0 1 1 (thr2 0 0)).core 0 0).w
     w.rxBuf = [msg0] ∧ w.rxTail + 1 ≠ w.rxHead ∧ w.rxHead ≠ w.rxTail ∧ recvBehind (ringed 0 1 1 (thr2 0 0)) at0 0 = false ∧
     (ringed 0 1 1 (thr2 0 0)).wordPoisoned (keyTcm 0 0 0x1F000) = false ∧
     ((ringed 0 1 1 (thr2 0 0)).poisonWord (keyTcm 0 0 0x1F000)).wordPoisoned (keyTcm 0 0 0x1F000) = true ∧
     (ringed 0 1 1 (thr2 0 0)).mtsWas 0 0 .rxq = none) ∧
    (ringed 0 1 0 (thr2 0 0)).thread at0 = some (thr2 0 0) ∧ (thr2 0 0).wait = none := by
  refine ⟨fun x y => ⟨rfl, rfl, rfl⟩, ?_⟩
  decide +kernel

/-- The run of a request of core 0, and a request of its thread. -/
def active0 : ActiveMsg :=
  { srcMod := 0, src := at0, srcTid := 5, reply := none, pc := 0x20000, y := 0, g1 := 0, g2 := 0, g3 := 0, corr := 0, ctx := 0 }
def servingT : Thread := { thr2 0x20000 0xFF00000000000000 with serves := some active0 }
/-- The machine with a key for partition 0 of module 1. -/
def keyedTo (t : Thread) : State := onWith (fun s => s.modPart 0 (fun q => { q with linkKeys := [(1, 0)] })) t
/-- The owner of an address, as 0 none, 1 a bad window, 2 a core that takes messages, 3 one that does not, 4 another partition of this module,
5 one of another module. -/
def ownerKind (s : State) (y : Word) : Nat :=
  match ownerOf s at0 y with
  | .none => 0
  | .badWindow => 1
  | .core c => if messageWaits s 0 c (.activeMessageArrival 0 c active0) then 3 else 2
  | .remote m _ => if m = s.modid then 4 else 5

/-- RemoteWorkResults: bad routines and addresses; each kind of owner; a server run that asks its own core; the fence met and not met; MIGR
with and without updates pending, to memory, a window and the remote region. -/
theorem witness_RemoteWorkResults :
    (∀ x y : Word, Ready (on (thr2 x y)) (thr2 x y) [r1, r2] ∧ Ready (on (thr2 x y)) (thr2 x y) [r1] ∧ Ready (busy (thr2 x y)) (thr2 x y) [r1] ∧
      Ready (on servingT) servingT [r1, r2]) ∧
    (canonical 0x0100000000000000 = false ∧ (0x20002 : Word).toNat % 4 ≠ 0 ∧ canonical 0x20000 = true ∧ (0x20000 : Word).toNat % 4 = 0) ∧
    ([0xFF00000000020000, 0x10008, 0xFF00000000000000, 0xFFE0000100000000, 0xFFE0001000000000] : List Word).map
      (ownerKind (on (thr2 0x20000 0))) = [1, 2, 2, 4, 5] ∧
    (linked ((keyedTo (thr2 0 0)).part 0) 1 0 = true ∧ linked ((on (thr2 0 0)).part 0) 1 0 = false ∧
      ownerKind (keyedTo (thr2 0 0)) 0xFFE0001000000000 = 5) ∧
    (ownerKind (on (thr2 0 0)) 0xFFE0000000000000 = 4 ∧ remoteOwner (on (thr2 0 0)) 0 0xFFE0000000000000 ≠ 0) ∧
    ownerKind (onWith (fun s => s.modCoreW 0 0 (fun w => { w with updateQ := List.replicate 64 pendingRed })) (thr2 0 0)) 0xFF00000000000000 = 3 ∧
    ownerKind (onWith (fun s => ([0, 1, 2, 3, 4, 5, 6, 7] : List CoreId).foldl
      (fun s c => s.modCoreC 0 c (fun k => { k with failed := true })) s) (thr2 0 0)) 0xFF00000000400000 = 0 ∧
    (∀ sc ∈ ([.part, .sys] : List Scope), fenceMet (on (thr2 0 0)) at0 (thr2 0 0) sc = true ∧ fenceMet (busy (thr2 0 0)) at0 (thr2 0 0) sc = false) ∧
    unwatched (thr2 0 0) = true ∧ (thr2 0 0).serves = none ∧ servingT.serves.isSome = true ∧ updatesPending (busy (thr2 0 0)) 0 5 = true ∧ updatesPending (on (thr2 0 0)) 0 5 = false ∧
    (inWindowRegion 0xFF00000000000000 = true ∧ inRemoteRegion 0xFFE0000000000000 = true) ∧
    (inWindowRegion 0x10008 = false ∧ inRemoteRegion 0x10008 = false) := by
  refine ⟨fun x y => ⟨⟨rfl, rfl, rfl⟩, ⟨rfl, rfl, rfl⟩, ⟨rfl, rfl, rfl⟩, ⟨rfl, rfl, rfl⟩⟩, ?_⟩
  decide +kernel

/-- A barrier word v in the TCM, and what an arrival finds there: generation, expected count, arrivals. -/
def barred (v : Word) (t : Thread) : State := onWith (fun s => { s with mem := memWrite [] (keyTcm 0 0 16) 8 v.toNat }) t
def arrival (s : State) (t : Thread) : Option (Nat × Nat) :=
  (home s t 3 true true 0xFF00000000000010 8).map (fun x => ((x.2.readMem x.1 8).toNat / 2 ^ 16 % 2 ^ 16, (x.2.readMem x.1 8).toNat % 2 ^ 16))

/-- BarrierResults: the fence met and not met; a word that is no barrier's, an arrival that is not the last, and the last one. -/
theorem witness_BarrierResults :
    (∀ x y : Word, Ready (busy (thr2 x y)) (thr2 x y) [r1] ∧ Ready (on (thr2 x y)) (thr2 x y) [r1]) ∧
    fenceMet (busy (thr2 0xFF00000000000010 0)) at0 (thr2 0xFF00000000000010 0) .part = false ∧
    fenceMet (on (thr2 0xFF00000000000010 0)) at0 (thr2 0xFF00000000000010 0) .part = true ∧
    arrival (barred 0 (thr2 0 0)) (thr2 0 0) = some (0, 0) ∧ arrival (barred 0x20002 (thr2 0 0)) (thr2 0 0) = some (2, 2) ∧
    arrival (barred 0x20000 (thr2 0 0)) (thr2 0 0) = some (2, 0) ∧ arrival (barred 0x20001 (thr2 0 0)) (thr2 0 0) = some (2, 1) := by
  refine ⟨fun x y => ⟨⟨rfl, rfl, rfl⟩, ⟨rfl, rfl, rfl⟩⟩, ?_⟩
  decide +kernel

/-- A thread that holds the line of 0x10008, and the mapped state with that reservation. -/
def holderT : Thread := { thr2 0x10008 9 with resv := some 512 }
def w5 : Waiter := { who := at0, tid := 5, key := keyMain 0 0x50008 }
def reserved (l : List Waiter) (t : Thread) : State := onWith (fun s => (mapped s).modPart 0 (fun q => { q with resv := [(512, l)] })) t
/-- A checked address of memory. -/
def inMemory (s : State) (t : Thread) (ea : Word) (n : Nat) : Bool :=
  match checkAccess s at0 t 3 ea n false with
  | .ok (.mem _, _) => true
  | _ => false

/-- ReservationResults: a remote and a window address; a thread with and without a reservation, a queue that is empty, taken and full, the
holder and another thread, the fence not met, and a release that leaves the queue empty or grants the next. -/
theorem witness_ReservationResults :
    Ready (reserved [w5] holderT) holderT [r1, r2] ∧ Ready (reserved [w5] holderT) holderT [r1] ∧
    Ready (onMapped (thr2 0x10008 9)) (thr2 0x10008 9) [r1, r2] ∧
    inMemory (reserved [w5] holderT) holderT 0x10008 8 = true ∧ inMemory (onMapped (thr2 0x10008 9)) (thr2 0x10008 9) 0x10008 8 = true ∧
    holdsResv (reserved [w5] holderT) at0 holderT 0x10008 = true ∧ holdsResv (onMapped (thr2 0x10008 9)) at0 (thr2 0x10008 9) 0x10008 = false ∧
    fenceMet (reserved [w5] holderT) at0 holderT .part = true ∧
    fenceMet ((reserved [w5] holderT).modCoreW 0 0 (fun w => { w with outQ := [pendingRed] })) at0 holderT .part = false ∧
    (home (reserved [w5] holderT) holderT 3 false true 0x10008 8).isSome = true ∧
    (home (onMapped (thr2 0x10008 9)) (thr2 0x10008 9) 3 true false 0x10008 8).isSome = true ∧
    (resvRoom ((onMapped (thr2 0x10008 9)).part 0) 512 = true ∧ kget ((onMapped (thr2 0x10008 9)).part 0).resv 512 = none) ∧
    (resvRoom ((reserved [{ w5 with tid := 6 }] (thr2 0x10008 9)).part 0) 512 = true) ∧
    resvRoom ((reserved (List.replicate 4096 { w5 with tid := 6 }) (thr2 0x10008 9)).part 0) 512 = false ∧
    inRemoteRegion (0xFFE0000000000000 : Word) = true ∧
    (match checkAccess (on (thr2 0xFF00000000000010 9)) at0 (thr2 0xFF00000000000010 9) 3 0xFF00000000000010 8 false with
      | .ok (.window _ _, _) => true
      | _ => false) = true ∧
    kget ((reserved [w5] holderT).part 0).resv 512 = some [w5] ∧
    (let w : Waiter := { w5 with tid := 6 }
     let s := reserved [w5, w] holderT
     kget (s.part 0).resv 512 = some (w5 :: w :: []) ∧
     (resvRead (s.modPart 0 (fun q => { q with resv := kput q.resv 512 [w] })) 0 w).linePoisoned w.key = false) := by
  refine ⟨⟨rfl, rfl, rfl⟩, ⟨rfl, rfl, rfl⟩, ⟨rfl, rfl, rfl⟩, ?_⟩
  decide +kernel

/-- A thread whose ADDM to the line of 0x10008 is queued. -/
def addm1 : AddmReq := { tid := 5, line := 512, off := 0, a := 1, fmt := 0, slim := 1, dom := 3, key := keyMain 0 0x50000, phase := 1 }
def adding (t : Thread) : State := onWith (fun s => (mapped s).modCoreW 0 0 (fun w => { w with steepQ := [addm1] })) t
/-- A state that taster core 1 watches core 0 in. -/
def watchedOn (t : Thread) : State := onWith (fun s => (mapped s).modCoreW 0 0 (fun w => { w with tbind := 0x8000000000000001 })) t

/-- AtomicResults: the fence met and not met, memory, a window and the remote region, the queue of REDs with and without room, an ADDM queued
to the line, a page held, and a watched core's line with its place at the home. -/
theorem witness_AtomicResults :
    (∀ x y : Word, Ready (onMapped (thr2 x y)) (thr2 x y) [r1, r2] ∧ Ready (busy (thr2 x y)) (thr2 x y) [r1, r2]) ∧
    fenceMet (busy (thr2 0xFF00000000000010 0)) at0 (thr2 0xFF00000000000010 0) .sys = false ∧
    fenceMet (onMapped (thr2 0x10008 0)) at0 (thr2 0x10008 0) .sys = true ∧
    (home (busy (thr2 0xFF00000000000010 0)) (thr2 0xFF00000000000010 0) 3 true true 0xFF00000000000010 8).isSome = true ∧
    (home (onMapped (thr2 0x10008 0)) (thr2 0x10008 0) 3 true true 0x10008 8).isSome = true ∧
    (home (onMapped (thr2 0x1000C 0)) (thr2 0x1000C 0) 3 true true 0x1000C 4).isSome = true ∧
    (inMemory (onMapped (thr2 0x10008 0)) (thr2 0x10008 0) 0x10008 8 = true ∧ (holdWrite (onMapped (thr2 0x10008 0)) at0 (thr2 0x10008 0) leaf0).toOption.isSome = true ∧
      ((onMapped (thr2 0x10008 0)).core 0 0).w.outQ.length < 16) ∧
    16 ≤ ((onWith (fun s => s.modCoreW 0 0 (fun w => { w with outQ := List.replicate 16 pendingRed })) (thr2 0 0)).core 0 0).w.outQ.length ∧
    (inMemory (adding (thr2 0x10008 0)) (thr2 0x10008 0) 0x10008 8 = true ∧ addmPending (adding (thr2 0x10008 0)) 0 5 512 = true ∧
      addmPending (onMapped (thr2 0x10008 0)) 0 5 512 = false) ∧
    (match holdWrite (captured0 1 (onMapped (thr2 0x10008 0))) at0 (thr2 0x10008 0) leaf0 with
      | .error (.wait (.page n) _) => n == 1
      | _ => false) = true ∧
    ((stampLine (onMapped (thr2 0x10008 0)) at0 512 3).isSome = true ∧ (watchedOn (thr2 0x10008 0)).watched 0 0 = true ∧
      (stampLine (watchedOn (thr2 0x10008 0)) at0 512 3).isSome = true ∧
      (stampLine ((watchedOn (thr2 0x10008 0)).modPart 0 (fun q => { q with
        slices := [{ slice0 with dom := 4, stamp := some { core := 1, seq := 9 } }] })) at0 512 3).isNone = true) ∧
    (inRemoteRegion (0xFFE0000000010008 : Word) = true ∧ (0xFFE0000000010008 : Word).toNat % 8 = 0 ∧ unwatched (thr2 0 0) = true ∧
      remoteOwn (ownSpan (thr2 0 0)) at0 (thr2 0 0) 0xFFE0000000010008 8 = true ∧ ((ownSpan (thr2 0 0)).core 0 0).w.outQ.length < 16 ∧
      remoteOwn (on (thr2 0 0)) at0 (thr2 0 0) 0xFFE0000000010008 8 = false ∧ fenceMet (on (thr2 0 0)) at0 (thr2 0 0) .sys = true) ∧
    (windowPoisoned ((on (thr2 0 0)).poisonWord (keyTcm 0 0 16)) (keyTcm 0 0 16) 8 = true ∧
      windowPoisoned (on (thr2 0 0)) (keyTcm 0 0 16) 8 = false ∧
      (match checkAccess ((on (thr2 0 0)).poisonWord (keyTcm 0 0 16)) at0 (thr2 0 0) 3 0xFF00000000000010 8 true with
        | .ok (.window k _, _) => k == keyTcm 0 0 16
        | _ => false) = true) := by
  refine ⟨fun x y => ⟨⟨rfl, rfl, rfl⟩, ⟨rfl, rfl, rfl⟩⟩, ?_⟩
  decide +kernel

def holder0 (f : BitVec 32) : Holder :=
  { line := 512, dom := 3, key := keyMain 0 0x50000, fmt := 0, p := 0, g := f, f := f, share := 0x3F800000, colour := false }
def holding (f : BitVec 32) (t : Thread) : State := onWith (fun s => (mapped s).modCoreC 0 0 (fun k => { k with holders := [holder0 f] })) t

/-- OrderResults: a fence that is met and one that is not, at every scope, and a pour with and without an acknowledgement to come. -/
theorem witness_OrderResults :
    Ready (on (thr2 0 0)) (thr2 0 0) [] ∧ Ready (busy (thr2 0 0)) (thr2 0 0) [] ∧ Ready (holding 0x3F800000 (thr2 0 0)) (thr2 0 0) [] ∧
    (∀ sc ∈ ([.core, .clu, .part, .mod, .sys] : List Scope),
      fenceMet (on (thr2 0 0)) at0 (thr2 0 0) sc = true ∧ fenceMet (busy (thr2 0 0)) at0 (thr2 0 0) sc = false) ∧
    coreUnacked (pourCore (on (thr2 0 0)) 0 0) 0 0 = false ∧ coreUnacked (pourCore (holding 0x3F800000 (thr2 0 0)) 0 0) 0 0 = true ∧
    fenceMet (holding 0x3F800000 (thr2 0 0)) at0 (thr2 0 0) .core = true ∧
    (∀ w ∈ ([true, false] : List Bool),
      let t := { thr2 0 0 with wait := some (.pours w) }
      (on t).thread at0 = some t ∧ coreUnacked (on t) 0 0 = false ∧
        coreUnacked (onWith (fun s => (mapped s).modCoreC 0 0 (fun k => { k with holders := [holder0 0x3F800000] })) t) 0 0 = true) := by
  refine ⟨⟨rfl, rfl, rfl⟩, ⟨rfl, rfl, rfl⟩, ⟨rfl, rfl, rfl⟩, ?_⟩
  decide +kernel

/-- A dirty copy of the line in the L1. -/
def copied (t : Thread) : State :=
  onWith (fun s => (mapped s).modCoreC 0 0 (fun k => { k with l1d := [
    { line := 512, st := .m, valid := 3, dirty := 1, dom := 3, key := keyMain 0 0x50000, stamp := none, old := 0 }] })) t
def engaged (t : Thread) : State :=
  onWith (fun s => (mapped s).modCoreW 0 0 (fun w => { w with mxQ := [.store 0 5 0 0 0x10000 [leaf0]] })) t

/-- The mapped state with a RED of the thread to the line of 0x10008 under way. -/
def reducing (t : Thread) : State :=
  onWith (fun s => (mapped s).modCoreW 0 0 (fun w => { w with outQ := [{ pendingRed with line := 512, key := keyMain 0 0x50008 }] })) t
/-- A thread whose CWB has poured. -/
def pouringT : Thread := { thr2 0x10008 0 with wait := some (.pack 512) }
/-- What the lookup of a line's page finds: the rights it gives of R and X, and whether REDs and ADDMs of the thread are under way to the line;
or the code of the record that drops the thread. -/
def lineFound (s : State) (t : Thread) : Option (BitVec 4 × Bool × Bool) × Nat :=
  match plbLookup s at0 t 0x10008 with
  | .ok (e, s1) => (some (rightsOf e.domValid e.leaf.dom e.rights t.priv &&& 5,
      redPending s1 0 t.tid (keyMain 0 (e.leaf.phys (va57 0x10008)) / 128 * 128) 128, addmPending s1 0 t.tid 512), 0)
  | .error (.drop q _) => (none, q.code)
  | .error _ => (none, 0)
/-- A thread whose CWB awaits the PACK, with a holder of magnitude f. -/
def packing (f : BitVec 32) : State := onWith (fun s => (mapped s).modCoreC 0 0 (fun k => { k with holders := [holder0 f] })) pouringT

/-- LineResults: an address that is not canonical, a window's, a remote one, and one of memory, without a page, without rights, with a copy, with
a holder, poisoned and plain, and without; with updates under way and without; a CWB that has poured, with its PACK to come and without; a PREF
with the 16 slots busy; PLBI with and without PRIV, and on a page that an engine uses. -/
theorem witness_LineResults :
    (∀ x : Word, ∀ k : SlotId, Ready (on (thr k x 0 0)) (thr k x 0 0) [r1]) ∧ Ready (copied (thr2 0x10008 0)) (thr2 0x10008 0) [r1] ∧
    Ready (onMapped pouringT) pouringT [r1] ∧ pouringT.wait = some (.pack (lineOf 0x10008)) ∧ (thr2 0x10008 0).wait ≠ some (.pack (lineOf 0x10008)) ∧
    canonical 0x0100000000000000 = false ∧ (canonical 0xFF00000000000000 = true ∧ inWindowRegion 0xFF00000000000000 = true) ∧
    (canonical 0xFFE0000000000000 = true ∧ inWindowRegion 0xFFE0000000000000 = false ∧ inRemoteRegion 0xFFE0000000000000 = true) ∧
    (canonical 0x10008 = true ∧ inWindowRegion 0x10008 = false ∧ inRemoteRegion 0x10008 = false) ∧
    lineFound (on (thr2 0x10008 0)) (thr2 0x10008 0) = (none, 0x020) ∧
    lineFound (rightsOnly 0 (thr2 0x10008 0)) (thr2 0x10008 0) = (some (0, false, false), 0) ∧
    lineFound (copied (thr2 0x10008 0)) (thr2 0x10008 0) = (some (5, false, false), 0) ∧
    ((copied (thr2 0x10008 0)).l1 0 0 512).isSome = true ∧ (copied (thr2 0x10008 0)).holder 0 0 512 = none ∧
    (copied (thr2 0x10008 0)).linePoisoned (keyMain 0 0x50000) = false ∧
    lineFound (onMapped (thr2 0x10008 0)) (thr2 0x10008 0) = (some (5, false, false), 0) ∧
    (onMapped (thr2 0x10008 0)).l1 0 0 512 = none ∧
    ((copied (thr2 0x10008 0)).poisonLine (keyMain 0 0x50000)).linePoisoned (keyMain 0 0x50000) = true ∧
    lineFound (reducing (thr2 0x10008 0)) (thr2 0x10008 0) = (some (5, true, false), 0) ∧
    lineFound (adding (thr2 0x10008 0)) (thr2 0x10008 0) = (some (5, false, true), 0) ∧
    ((holding 0x3F800000 (thr2 0 0)).holder 0 0 512).map (fun h => (h.g != 0, h.f != 0, (holding 0x3F800000 (thr2 0 0)).linePoisoned h.key)) =
      some (true, true, false) ∧
    ((holding 0 (thr2 0 0)).holder 0 0 512).map (fun h => (h.g != 0, h.f != 0)) = some (false, false) ∧
    (((packing 0x3F800000).holder 0 0 512).any (fun h => h.f != 0) = true ∧ ((packing 0).holder 0 0 512).any (fun h => h.f != 0) = false ∧
      (packing 0).thread at0 = some pouringT) ∧
    prefetchWaits (onMapped (thr2 0x10008 0)) at0 (thr2 0x10008 0) 0x10008 = false ∧
    prefetchWaits (reducing (thr2 0x10008 0)) at0 (thr2 0x10008 0) 0x10008 = true ∧
    (let s := onWith (fun s => (mapped s).modCoreC 0 0 (fun k => { k with prefetches := List.replicate 16 9 })) (thr2 0x10008 0)
     prefetchWaits s at0 (thr2 0x10008 0) 0x10008 = false ∧ 16 ≤ (busyPrefetches s at0).length) ∧
    Memory.wf (onMapped (thr2 0x10008 0)).mem = true ∧
    (thr 2 0 0 0).priv = false ∧ (thr 0 0 0 0).priv = true ∧
    pageInUse (dropPage (engaged (thr2 0x10008 0)) 0 0x10008) 0 0x10008 = true ∧
    pageInUse (dropPage (onMapped (thr2 0x10008 0)) 0 0x10008) 0 0x10008 = false ∧
    ((dropPage (onMapped (thr2 0x10008 0)) 0 0x10008).part 0).slices.any (pageLine 0x10008) = false := by
  refine ⟨fun x k => ⟨rfl, rfl, rfl⟩, ⟨rfl, rfl, rfl⟩, ⟨rfl, rfl, rfl⟩, rfl, by decide, by decide, by decide, by decide, by decide, ?_, ?_, ?_, ?_,
    ?_, ?_⟩ <;> decide +kernel

/-- Whether an access of LDB finds its steep element at the home, as the statement has it. -/
def foundB (s : State) (t : Thread) (x : Word) : Bool :=
  match steepAccess s at0 t 1 x with
  | .ok (l, s1) =>
    !ownPending s1 at0 t l x (elemBytes l.sfmt) &&
    (match reachHome 2 s1 at0 t 1 x with
     | .ok (_, miss, s2) =>
       let s3 := if miss then s2 else homeRead s2 0 (lineOf x) (sectorBit (sectorOf x.toNat)) t.corr
       (match s3.sl 0 (lineOf x) with
        | some y => !s3.linePoisoned y.key
        | none => false)
     | .error _ => false)
  | .error _ => false

/-- What the lookup of an address of the steep page finds: whether it is steep, and whether it allows a read and an update; or the code of the
record that drops the thread. -/
def steepFound (s : State) (t : Thread) (x : Word) : Option (Bool × Bool × Bool) × Nat :=
  match plbLookup s at0 t x with
  | .ok (e, _) => (some (e.leaf.steep, entryAllows e t.priv 1, entryAllows e t.priv 3), 0)
  | .error (.drop q _) => (none, q.code)
  | .error _ => (none, 0)
/-- The mapped state, whose steep page gives these rights. -/
def steepRights (x : BitVec 4) (t : Thread) : State :=
  onWith (fun s => (mapped s).modCoreC 0 0 (fun k => { k with plb := [{ plb0 with leaf := leaf1, rights := x }] })) t
/-- The mapped state with the steep page captured and not yet copied. -/
def steepHeld (t : Thread) : State :=
  let s := captured0 1 (onMapped t)
  s.modPart 0 (fun q => { q with snap := { q.snap with captured := [leaf1] } })

/-- SteepWordResults: the queue with and without room; addresses of each kind; a page that is not steep, without rights, with the right to
read alone, and none; a misaligned element; one with its line poisoned and not, with updates under way and not, on a held page and not. -/
theorem witness_SteepWordResults :
    (∀ x y : Word, Ready (onMapped (thr2 x y)) (thr2 x y) [r1, r2] ∧ Ready (onMapped (thr2 x y)) (thr2 x y) [r1]) ∧
    16 ≤ ((onWith (fun s => s.modCoreW 0 0 (fun w => { w with steepQ := List.replicate 16 addm1 })) (thr2 0 0)).core 0 0).w.steepQ.length ∧
    steepFound (onMapped (thr2 0 0)) (thr2 0 0) 0x10008 = (some (false, true, true), 0) ∧
    steepFound (onMapped (thr2 0 0)) (thr2 0 0) 0x20004 = (some (true, true, true), 0) ∧
    steepFound (steepRights 0 (thr2 0 0)) (thr2 0 0) 0x20004 = (some (true, false, false), 0) ∧
    steepFound (steepRights 1 (thr2 0 0)) (thr2 0 0) 0x20004 = (some (true, true, false), 0) ∧
    steepFound (on (thr2 0 0)) (thr2 0 0) 0x20004 = (none, 0x020) ∧
    ((0x20004 : Word).toNat % 4 = 0 ∧ (0x20002 : Word).toNat % 4 ≠ 0) ∧
    (redPending (onMapped (thr2 0 0)) 0 5 (keyMain 0 0x60004) 4 = false ∧
      redPending (onWith (fun s => (mapped s).modCoreW 0 0 (fun w => { w with outQ := [{ pendingRed with key := keyMain 0 0x60000 }] }))
        (thr2 0 0)) 0 5 (keyMain 0 0x60004) 4 = true ∧
      ownPending (onMapped (thr2 0 0)) at0 (thr2 0 0) leaf1 0x20004 4 = false ∧
      ownPending (onWith (fun s => (mapped s).modCoreW 0 0 (fun w => { w with outQ := [{ pendingRed with key := keyMain 0 0x60000 }] }))
        (thr2 0 0)) at0 (thr2 0 0) leaf1 0x20004 4 = true) ∧
    (match holdWrite (steepHeld (thr2 0 0)) at0 (thr2 0 0) leaf1 with
      | .error (.wait (.page n) _) => n == 2
      | _ => false) = true ∧
    (stampLine (onMapped (thr2 0 0)) at0 1024 3).isSome = true ∧
    (canonical 0x0100000000000000 = false ∧ inRemoteRegion 0xFFE0000000000000 = true ∧ canonical 0xFF00000000000000 = true ∧
      inWindowRegion 0xFF00000000000000 = true) ∧
    ((onMapped (thr2 0x20004 0)).core 0 0).w.steepQ.length < 16 ∧
    (steepAccess (onMapped (thr2 0x20004 0)) at0 (thr2 0x20004 0) 3 0x20004).toOption.isSome = true ∧
    (holdWrite (onMapped (thr2 0x20004 0)) at0 (thr2 0x20004 0) leaf1).toOption.isSome = true ∧ (onMapped (thr2 0 0)).linePoisoned (keyMain 0 0x60004) = false ∧
    ((onMapped (thr2 0 0)).poisonLine (keyMain 0 0x60004)).linePoisoned (keyMain 0 0x60004) = true ∧
    foundB (onMapped (thr2 0x20004 0)) (thr2 0x20004 0) 0x20004 = true := by
  refine ⟨fun x y => ⟨⟨rfl, rfl, rfl⟩, ⟨rfl, rfl, rfl⟩⟩, ?_, ?_, ?_, ?_, ?_, ?_, ?_, ?_⟩ <;> decide +kernel

/-- A state whose memory holds these 64-bit words from an address of the TCM of core 0 on. -/
def tcmWords (l : List Word) (o : Nat) : Memory := (l.zipIdx).foldl (fun m e => memWrite m (keyTcm 0 0 (o + 8 * e.2)) 8 e.1.toNat) []
def withTcm (l : List Word) (t : Thread) : State := onWith (fun s => { s with mem := tcmWords l 0 }) t
/-- The lanes of a strided access pass their checks and are read and made ready. -/
def lanesPass (need : BitVec 4) (a stride : Word) : Bool :=
  let t := thr2 a stride
  let l := (List.range 8).map (fun i => (i, a + word i * stride))
  match checkLanes at0 t need 8 l (on t) with
  | .ok (ps, s1) => (readLanes at0 t 8 ps s1).toOption.isSome && (readyLanes at0 t 8 ps s1).toOption.isSome
  | .error _ => false

/-- VectorMemoryResults: 64 bytes that can be read and written; lanes that pass, down to the last word of the TCM; a lane beyond it. -/
theorem witness_VectorMemoryResults :
    (∀ x y : Word, Ready (onMapped (thr2 x y)) (thr2 x y) [r1, r2] ∧ Ready (onMapped (thr2 x y)) (thr2 x y) [r1]) ∧
    reads (onMapped (thr2 0x10040 0)) (thr2 0x10040 0) 0x10040 64 = true ∧ writesAt (onMapped (thr2 0x10040 0)) (thr2 0x10040 0) 0x10040 64 = true ∧
    Memory.wf (onMapped (thr2 0x10040 0)).mem = true ∧
    lanesPass 1 0xFF0000000001FFC0 8 = true ∧ lanesPass 2 0xFF0000000001FFC0 8 = true ∧ lanesPass 1 0xFF0000000001FFC8 8 = false ∧
    lanesPass 2 0xFF0000000001FFC1 8 = false := by
  refine ⟨fun x y => ⟨⟨rfl, rfl, rfl⟩, ⟨rfl, rfl, rfl⟩⟩, ?_⟩
  decide +kernel

def streamed (n : Nat) (ended : Bool) : Thread :=
  { thr2 0 0 with streams := (thr2 0 0).streams.set 1 { bound := true, ended := ended, buf := List.replicate n 7 } }

/-- StreamResults: no stream; one that is short and goes on; one that has ended, with a byte left and with none; one with just enough. -/
theorem witness_StreamResults :
    Ready (on (thr2 0 0)) (thr2 0 0) [] ∧ (thr2 0 0).streams[1].bound = false ∧
    (∀ n b, Ready (on (streamed n b)) (streamed n b) []) ∧
    ((streamed 7 false).streams[1].buf.length < 8 ∧ (streamed 7 false).streams[1].ended = false) ∧
    ((streamed 0 true).streams[1].ended = true ∧ (streamed 0 true).streams[1].buf = []) ∧
    ((streamed 1 true).streams[1].buf ≠ [] ∧ (streamed 1 true).streams[1].ended = true) ∧
    (8 ≤ (streamed 8 false).streams[1].buf.length ∧ 64 ≤ (streamed 64 false).streams[1].buf.length) :=
  ⟨⟨rfl, rfl, rfl⟩, rfl, fun _ _ => ⟨rfl, rfl, rfl⟩, by decide, by decide, by decide, by decide⟩

/-- A thread on a bank core. -/
def onBank (t : Thread) : State :=
  { (State.reset.modPart 0 (fun q => { q with tdisp := .run })).setThread ⟨0, 256, 2⟩ t with
    cur := { at_ := ⟨0, 256, 2⟩, size := 4, words := [0x80000000], phase := .first, hold := Commit.none } }
def copyJob0 : CopyJob :=
  { seq := 0, form := .lin 8, dst := 0, src := 0, ctx := 0, priv := false, corr := 0, tid := 5, slot := 2, stream := none, pages := [], pos := 0,
    placed := [], awaiting := 0, finished := false }

/-- A thread that has prepared work. -/
def preparedT (x : Prepared) : Thread := { thr 2 0xFF00000000400000 0xFF00000000000000 64 with prepared := some x }

/-- CopyWordResults: a bank core; a full queue; shapes that the words refuse, and one each that they accept; ranges that pass and that do
not, one that is not canonical, a gather's table in the remote region, a remote destination; the fence met and not met; a copy prepared. -/
theorem witness_CopyWordResults :
    (∀ x y z : Word, Ready (on (thr 2 x y z)) (thr 2 x y z) [r1, r2] ∧ Ready (onBank (thr 2 x y z)) (thr 2 x y z) [r1, r2] ∧
      Ready (busy (thr 2 x y z)) (thr 2 x y z) [r1, r2] ∧
      Ready (on (preparedT (.copy copyJob0))) (preparedT (.copy copyJob0)) [r1, r2]) ∧
    clusterOf 256 = none ∧ clusterOf 0 = some 0 ∧ clusterOf 255 = some 31 ∧ (thr2 0 0).prepared = none ∧
    (firstSome badCanon [((0x0100000000000000 : Word), 64)]).isSome = true ∧
    (let rg := formRanges (.gather 8 3) 0xFF00000000400000 0xFFE0000000000000
     firstSome badCanon (rg.1 ++ rg.2) = none ∧ inRemoteRegion 0xFFE0000000000000 = true) ∧
    ((firstSome firstRemote (formRanges (.lin 64) 0xFFE0000000000000 0xFF00000000000000).2).isSome = true ∧ unwatched (thr2 0 0) = true) ∧
    64 ≤ ((onWith (fun s => s.modCoreW 0 0 (fun w => { w with copyQ := List.replicate 64 copyJob0 })) (thr2 0 0)).core 0 0).w.copyQ.length ∧
    ((on (thr2 0 0)).core 0 0).w.copyQ.length < 64 ∧
    ((0x100000000 : Word).toNat / 2 ^ 32 ≠ 0 ∧ (0xFFFFFFFF : Word).toNat / 2 ^ 32 = 0 ∧ (7 : Word).toNat % 8 = 7) ∧
    formOk (.lin 64) 0xFF00000000000000 0xFF00000000000008 = false ∧ formOk (.rows 0 1 2 64) 0 0 = false ∧
    (∀ f ∈ ([.lin 64, .rows 8 8 2 64, .gather 8 3] : List CopyForm),
      formOk f 0xFF00000000400000 0xFF00000000000000 = true ∧
      firstSome firstRemote ((formRanges f 0xFF00000000400000 0xFF00000000000000).1 ++ (formRanges f 0xFF00000000400000 0xFF00000000000000).2) = none ∧
      (checkRanges (on (thr2 0 0)) at0 (thr2 0 0) (formRanges f 0xFF00000000400000 0xFF00000000000000).1
        (formRanges f 0xFF00000000400000 0xFF00000000000000).2 0xFF00000000000000 8 true).toOption.isSome = true) ∧
    (checkRanges (on (thr2 0 0)) at0 (thr2 0 0) [(0xFF0000000001FFF8, 64)] [(0xFF00000000400000, 64)] 0xFF0000000001FFF8 1 true).toOption.isNone
      = true ∧
    fenceMet (on (thr2 0 0)) at0 (thr2 0 0) .clu = true ∧ fenceMet (busy (thr2 0 0)) at0 (thr2 0 0) .clu = false := by
  refine ⟨fun x y z => ⟨⟨rfl, rfl, rfl⟩, ⟨rfl, rfl, rfl⟩, ⟨rfl, rfl, rfl⟩, ⟨rfl, rfl, rfl⟩⟩, ?_⟩
  decide +kernel

/-- A core that has numbered three copies, one of them done, and the same of jobs. -/
def numbered (t : Thread) : State :=
  onWith (fun s => s.modCoreW 0 0 (fun w => { w with copyNext := 3, copyDone := 1, mxNext := 3, mxDone := 1 })) t

/-- JobWordResults: a bank core; an id of another core or kind; ids that are pending and done. -/
theorem witness_JobWordResults :
    (∀ x : Word, Ready (numbered (thr2 x 0)) (thr2 x 0) [r1] ∧ Ready (onBank (thr2 x 0)) (thr2 x 0) [r1]) ∧
    (let w := ((numbered (thr2 0 0)).core 0 0).w
     let mine (x kind : Nat) : Prop := x / 2 ^ 32 = 0 ∧ x / 2 ^ 31 % 2 = kind ∧ x / 2 ^ 22 % 2 ^ 9 = 0
     let ahead (seq next done : Nat) : Prop := (seq + 2 ^ 21 - done % 2 ^ 21) % 2 ^ 21 < (next + 2 ^ 21 - done % 2 ^ 21) % 2 ^ 21
     ¬ mine (2 ^ 22) 0 ∧ ¬ mine 0 1 ∧ mine 2 0 ∧ mine (2 ^ 31 + 2) 1 ∧ ahead 1 w.copyNext w.copyDone ∧ ahead 2 w.mxNext w.mxDone ∧
     ¬ ahead 0 w.copyNext w.copyDone ∧ ¬ ahead 3 w.mxNext w.mxDone) :=
  ⟨fun _ => ⟨⟨rfl, rfl, rfl⟩, ⟨rfl, rfl, rfl⟩⟩, by decide +kernel⟩

/-- The shape of two slots of 4 by 4 values of .f32: base 0, tiles 64 bytes apart, rows 16. -/
def shapeWords : List Word := [0x200000000, 64, 16, 0x100040004]
def shaped (t : Thread) : State :=
  onWith (fun s =>
    let x : Ring := { shape := shapeOf 0x200000000 64 16 0x100040004, head := 0, count := 1 }
    (s.setRing 0 0 0 x).setRing 0 0 1 x) t
def mxJob0 : Option MxJob :=
  (shapeOf 0x200000000 64 16 0x100040004).map (fun sh =>
    let o : Operand := { ring := 0, shape := sh, fmt := .f32, scale := none }
    { seq := 0, slot := 0, sr := .plusTimes, na := false, nb := false, az := false, pop := .none, a := o, b := { o with ring := 1 }, tid := 5,
      corr := 0, ctx := 0 })
/-- A job stands in the core's queue. -/
def jobbed (t : Thread) : State :=
  onWith (fun s => s.modCoreW 0 0 (fun w => { w with mxQ := match mxJob0 with | some j => [.job j] | none => [] })) t

def readShape (l : List Word) : Option (Option Shape) :=
  let t := thr2 0xFF00000000000000 0
  match checkRecord (withTcm l t) at0 t (t.rd r1) [3, 2, 1, 0] with
  | .ok (ps, s1) =>
    match readRecord at0 t ps s1 with
    | .ok (ws, _, _) => some (shapeOf (ws.getD 0 0) (ws.getD 1 0) (ws.getD 2 0) (ws.getD 3 0))
    | .error _ => none
  | .error _ => none
/-- The same of a record that has passed its checks before. -/
def keptShape (l : List Word) : Option (Option Shape) :=
  let t := thr2 0xFF00000000000000 0
  let ps := ([0, 1, 2, 3] : List Nat).map (fun i => (t.rd r1 + word (8 * i), keptPlace at0 [] (t.rd r1 + word (8 * i))))
  match readRecord at0 t ps (withTcm l t) with
  | .ok (ws, _, _) => some (shapeOf (ws.getD 0 0) (ws.getD 1 0) (ws.getD 2 0) (ws.getD 3 0))
  | .error _ => none
def shapingT : Thread := { thr2 0xFF00000000000000 0 with prepared := some (.shape []) }

/-- RingResults: a bank core; a record that can be read, at once and after its checks, with a valid shape and without; a ring that a job names;
rings with and without a shape, and tiles to add up to their slots and beyond. -/
theorem witness_RingResults :
    (∀ x : Word, Ready (shaped (thr2 x 0)) (thr2 x 0) [r1] ∧ Ready (onBank (thr2 x 0)) (thr2 x 0) [r1] ∧ Ready (onBank (thr2 x 0)) (thr2 x 0) [] ∧
      Ready (busy (thr2 x 0)) (thr2 x 0) [r1] ∧ Ready (shaped (thr2 x 0)) (thr2 x 0) []) ∧
    Ready (on shapingT) shapingT [r1] ∧ shapingT.prepared = some (.shape []) ∧ (thr2 0 0).prepared = none ∧
    (keptShape shapeWords).map (fun x => x.isSome) = some true ∧ (keptShape [0, 0, 0, 0]).map (fun x => x.isSome) = some false ∧
    (readShape shapeWords).map (fun x => x.isSome) = some true ∧ (readShape [0, 0, 0, 0]).map (fun x => x.isSome) = some false ∧
    ringJobs (jobbed (thr2 0 0)) 0 0 0 ≠ 0 ∧ ringJobs (on (thr2 0 0)) 0 0 0 = 0 ∧
    fenceMet (on (thr2 0 0)) at0 (thr2 0 0) .clu = true ∧ fenceMet (busy (thr2 0 0)) at0 (thr2 0 0) .clu = false ∧
    ((on (thr2 0 0)).ring 0 0 0).shape = none ∧
    ((shaped (thr2 0 0)).ring 0 0 0).shape.map (fun sh => (sh.slots, decide (sh.slots < 1 + 2), decide (1 + 1 ≤ sh.slots))) =
      some (2, true, true) := by
  refine ⟨fun x => ⟨⟨rfl, rfl, rfl⟩, ⟨rfl, rfl, rfl⟩, ⟨rfl, rfl, rfl⟩, ⟨rfl, rfl, rfl⟩, ⟨rfl, rfl, rfl⟩⟩, ⟨rfl, rfl, rfl⟩, rfl, rfl, ?_⟩
  decide +kernel

/-- A state whose accumulator slot 0 is changed by f. -/
def slotted (f : AccSlot → AccSlot) (t : Thread) : State := onWith (fun s => s.modAcc 0 0 0 f) t
/-- The operands of rings 0 and 1, and whether they agree. -/
def operandsFit (s : State) (t : Thread) : Option Bool :=
  match (s.ring 0 0 0).shape, (s.ring 0 0 1).shape with
  | some a, some b =>
    match mxOperand t 0 a t.xa a.cols, mxOperand t 1 b t.xb b.rows with
    | some oa, some ob => some (narrowFits oa && narrowFits ob && shapesOk oa ob)
    | _, _ => none
  | _, _ => none
/-- Ring 1 has other rows than ring 0 has columns; ring 0 names a descriptor that is not valid. -/
def misshaped (t : Thread) : State :=
  onWith (fun s =>
    (s.setRing 0 0 0 { shape := shapeOf 0x200000000 64 16 0x100040004, head := 0, count := 1 }).setRing 0 0 1
      { shape := shapeOf 0x200000000 64 16 0x100040003, head := 0, count := 1 }) t
def narrowed (t : Thread) : State :=
  onWith (fun s =>
    let x : Ring := { shape := shapeOf 0x200000000 64 16 0x30100040004, head := 0, count := 1 }
    (s.setRing 0 0 0 x).setRing 0 0 1 x) t

/-- MatrixWordResults: a bank core, a full queue, slots that are poisoned, orphaned, pending and plain; rings without shapes, with shapes
that agree and that do not, and without a valid descriptor; a range for MXST; the fence met and not met; PRIV and no PRIV. -/
theorem witness_MatrixWordResults :
    (∀ x : Word, Ready (on (thr2 x 0)) (thr2 x 0) [r1] ∧ Ready (on (thr2 x 0)) (thr2 x 0) [] ∧ Ready (onBank (thr2 x 0)) (thr2 x 0) [r1] ∧
      Ready (shaped (thr2 x 0)) (thr2 x 0) [] ∧
      (∀ y, Ready (on (preparedT y)) (preparedT y) [r1] ∧ Ready (on (preparedT y)) (preparedT y) [])) ∧
    clusterOf 256 = none ∧ clusterOf 0 = some 0 ∧ (thr2 0 0).prepared = none ∧ (thr2 0 0).wait = none ∧ mxJob0.isSome = true ∧
    16 ≤ ((onWith (fun s => s.modCoreW 0 0 (fun w => { w with mxQ := List.replicate 16 (.zero 0 5 0) })) (thr2 0 0)).core 0 0).w.mxQ.length ∧
    ((slotted (fun a => { a with poisoned := true }) (thr2 0 0)).acc 0 0 0).poisoned = true ∧
    ((slotted (fun a => { a with orphaned := true }) (thr2 0 0)).acc 0 0 0).orphaned = true ∧
    ((slotted (fun a => { a with pend := 1 }) (thr2 0 0)).acc 0 0 0).pend ≠ 0 ∧
    (let a := (on (thr2 0 0)).acc 0 0 0
     a.poisoned = false ∧ a.orphaned = false ∧ a.pend = 0) ∧
    ((on (thr2 0 0)).ring 0 0 0).shape = none ∧ operandsFit (shaped (thr2 0 0)) (thr2 0 0) = some true ∧
    operandsFit (misshaped (thr2 0 0)) (thr2 0 0) = some false ∧ operandsFit (narrowed (thr2 0 0)) (thr2 0 0) = none ∧
    (checkRanges (on (thr2 0 0)) at0 (thr2 0 0) [] [(0xFF00000000000000, 16384)] 0xFF00000000000000 64 false).toOption.isSome = true ∧
    (checkRanges (on (thr2 0 0)) at0 (thr2 0 0) [] [(0xFF00000000000008, 16384)] 0xFF00000000000008 64 false).toOption.isNone = true ∧
    fenceMet (shaped (thr2 0 0)) at0 (thr2 0 0) .clu = true ∧
    fenceMet ((shaped (thr2 0 0)).modCoreW 0 0 (fun w => { w with outQ := [pendingRed] })) at0 (thr2 0 0) .clu = false ∧
    (thr 2 0 0 0).priv = false ∧ (thr 0 0 0 0).priv = true := by
  refine ⟨fun x => ⟨⟨rfl, rfl, rfl⟩, ⟨rfl, rfl, rfl⟩, ⟨rfl, rfl, rfl⟩, ⟨rfl, rfl, rfl⟩, fun y => ⟨⟨rfl, rfl, rfl⟩, ⟨rfl, rfl, rfl⟩⟩⟩, ?_⟩
  decide +kernel

/-- SystemWordResults: a thread outside a handler and one in it, with and without PRIV. -/
theorem witness_SystemWordResults :
    (on (thr2 0 0)).watched 0 0 = false ∧ (∀ (x : Word) (k : SlotId), Ready (on (thr k x 0 0)) (thr k x 0 0) [r1] ∧ Ready (on (thr k x 0 0)) (thr k x 0 0) []) ∧
    (thr2 0 0).ecause.getLsbD 63 = false ∧ (thr 2 0 0 0).priv = false ∧ (thr 0 0 0 0).priv = true ∧
    (let t := { thr2 0 0 with ecause := 0x8000000000000010 }
     Ready (on t) t [] ∧ t.ecause.getLsbD 63 = true ∧ ((on t).core 0 0).w.inbox.all (fun m => m.tid != t.tid) = true) :=
  ⟨rfl, fun x k => witness_ready1 x 0 0 k, rfl, rfl, rfl, ⟨rfl, rfl, rfl⟩, rfl, rfl⟩

/-- Core 0 is the taster of core 1, whose log at its ring's start holds a record with this head word; the handler table of core 0 stands in
its TCM, its entries x. -/
def tasting (head : Nat) (x : Word) (seq : Nat) (t : Thread) : State :=
  onWith (fun s =>
    let s := s.modCoreW 0 1 (fun w => { w with tbind := 0x8000000000000000, log := { w.log with seq := seq } })
    let s := { s with mem := memWrite (tcmWords (List.replicate 16 x) 0x100) (ringKey 0 0x8000000000000000) 4 head }
    s.modCoreW 0 0 (fun w => { w with loght := 0xFF00000000000100 })) t
def dispatch (s : State) (t : Thread) : Option (Nat × Word) :=
  match workerOf s 0 0 with
  | some wc =>
    match nextRecord s 0 (s.core 0 wc).w with
    | some x =>
      (tableEntry (s.modCoreW 0 wc (fun _ => takeRecord (s.core 0 wc).w x)) at0 t x.type).toOption.map (fun e => (x.type, e.1))
    | none => none
  | none => none

/-- The same with the handler table at 0x10000, in a state changed by f. -/
def tabledLog (f : State → State) (t : Thread) : State :=
  f ((tasting 0 0x20000 1 t).modCoreW 0 0 (fun w => { w with loght := 0x10000 }))
/-- How the read of the handler table ends: a dropped thread, a wait. -/
def tableEnds (s : State) (t : Thread) : Bool × Bool :=
  match workerOf s 0 0 with
  | some wc =>
    match nextRecord s 0 (s.core 0 wc).w with
    | some x =>
      (match tableEntry (s.modCoreW 0 wc (fun _ => takeRecord (s.core 0 wc).w x)) at0 t x.type with
       | .error (.drop _ _) => (true, false)
       | .error (.wait _ _) => (false, true)
       | _ => (false, false))
    | none => (false, false)
  | none => (false, false)
/-- The head of a STAMP of producer core 1, whose sequence 5 follows. -/
def stampRecord (t : Thread) : State :=
  let s := tasting (4 * 2 ^ 28 + 2 ^ 22 + 2 ^ 13) 0x20000 1 t
  { s with mem := memWrite s.mem (ringKey 0 0x8000000000000000 + 4) 4 5 }
/-- The next record: its type, whether it is poisoned, and for a STAMP whether its producer's taster has acknowledged it. -/
def nextOf (s : State) : Option (Nat × Bool × Bool) :=
  (workerOf s 0 0).bind (fun wc => (nextRecord s 0 (s.core 0 wc).w).map (fun x =>
    (x.type, (recordPoisoned s 0 (s.core 0 wc).w x).isSome, stampPassed s 0 (Fin.ofNat 272 (x.info / 2 ^ 13)) (x.words.headD 0))))

/-- LogWordResults: a core that is no taster; a taster with nothing to take; one behind another LOGN's stamp; a record that is poisoned, a
stamp that is not passed, a record whose type has a handler, good or bad, and one whose handler cannot be read; the fence met and not met. -/
theorem witness_LogWordResults :
    (∀ x : Word, Ready (on (thr2 x 0)) (thr2 x 0) [r1] ∧ Ready (on (thr2 x 0)) (thr2 x 0) []) ∧
    (let t := { thr2 0 0 with wait := some (.stamp 1 5 0) }
     Ready (on t) t []) ∧ workerOf (on (thr2 0 0)) 0 0 = none ∧
    workerOf (tasting 0 0x20000 0 (thr2 0 0)) 0 0 = some 1 ∧
    (nextRecord (tasting 0 0x20000 0 (thr2 0 0)) 0 ((tasting 0 0x20000 0 (thr2 0 0)).core 0 1).w).isNone = true ∧
    (stampAhead (tasting 0 0x20000 1 (thr2 0 0)) at0 = false ∧ (thr2 0 0).wait = none ∧
      stampAhead ((tasting 0 0x20000 1 (thr2 0 0)).setThread ⟨0, 0, 3⟩ { thr2 0 0 with tid := 6, wait := some (.stamp 2 5 0) }) at0 = true) ∧
    nextOf (tasting 0 0x20000 1 (thr2 0 0)) = some (0, false, true) ∧
    nextOf ((tasting 0 0x20000 1 (thr2 0 0)).poisonWord (ringKey 0 0x8000000000000000)) = some (0, true, true) ∧
    nextOf (stampRecord (thr2 0 0)) = some (4, false, false) ∧ stampPassed (stampRecord (thr2 0 0)) 0 1 5 = false ∧
    tableEnds (tabledLog id (thr2 0 0)) (thr2 0 0) = (true, false) ∧
    tableEnds (tabledLog (fun s => (mapped s).modCoreW 0 0 (fun w => { w with outQ := [{ pendingRed with key := keyMain 0 0x50000 }] }))
      (thr2 0 0)) (thr2 0 0) = (false, true) ∧
    dispatch (tasting 0 0x20000 1 (thr2 0 0)) (thr2 0 0) = some (0, 0x20000) ∧ entryOk 0x20000 = true ∧
    dispatch (tasting 0 0x20002 1 (thr2 0 0)) (thr2 0 0) = some (0, 0x20002) ∧ entryOk 0x20002 = false ∧
    fenceMet (tasting 0 0x20000 1 (thr2 0 0)) at0 (thr2 0 0) .part = true ∧
    fenceMet ((tasting 0 0x20000 1 (thr2 0 0)).modCoreW 0 0 (fun w => { w with outQ := [pendingRed] })) at0 (thr2 0 0) .part = false := by
  refine ⟨fun x => ⟨(witness_ready1 x 0 0 2).1, (witness_ready1 x 0 0 2).2⟩, ⟨rfl, rfl, rfl⟩, ?_⟩
  decide +kernel

/-- ReadRegisterResults: a register that only PRIV reads, without PRIV and with it; a cluster's register on a bank core; one of each home. -/
theorem witness_ReadRegisterResults :
    (∀ k : SlotId, Ready (on (thr k 0 0 0)) (thr k 0 0 0) []) ∧ Ready (onBank (thr2 0 0)) (thr2 0 0) [] ∧
    (regReads .ctxbase = .priv ∧ (thr 2 0 0 0).priv = false ∧ (thr 0 0 0 0).priv = true) ∧
    (regReads .status ≠ .priv ∧ regHome .engctl = .cluster ∧ clusterOf 256 = none ∧ clusterOf 0 = some 0) ∧ (∀ i, SysReg.tid ≠ .shcnt i) := by
  refine ⟨fun k => ⟨rfl, rfl, rfl⟩, ⟨rfl, rfl, rfl⟩, ?_⟩
  decide

/-- WriteRegisterResults: a register that nobody writes, one that only PRIV writes, and one that every thread writes; the fence; a watched core
whose log is drained and one whose log is not, and one without a taster; a partition in service; a core without a cluster. -/
theorem witness_WriteRegisterResults :
    (∀ (x : Word) (k : SlotId), Ready (on (thr k x 0 0)) (thr k x 0 0) [r1] ∧ Ready (busy (thr k x 0 0)) (thr k x 0 0) [r1]) ∧
    regWrites .tid = .none ∧ (regWrites .ctxbase = .priv ∧ (thr 2 0 0 0).priv = false ∧ (thr 0 0 0 0).priv = true) ∧
    (regWrites .epc ≠ .none ∧ regWrites .epc ≠ .priv) ∧ clusterOf 256 = none ∧ clusterOf 0 = some 0 ∧
    (let s (seq : Nat) : State := onWith (fun s => s.modCoreW 0 0 (fun w => { w with
       tbind := 0x8000000000000001, log := { w.log with seq := seq } })) (thr 0 0 0 0)
     (s 0).watched 0 0 = true ∧ logDrained (s 0) 0 0 = true ∧ logDrained (s 1) 0 0 = false) ∧ (on (thr 0 0 0 0)).watched 0 0 = false ∧
    (let s := onWith (fun s => s.modPart 0 (fun q => { q with inService := true })) (thr 0 0 0 0)
     (s.part 0).inService = true ∧ (s.part 0).rst = .none) ∧
    (0x8000000000000001 : Word).getLsbD 63 = true ∧ (0x8000000000000001 : Word).getLsbD 0 = true ∧ (0 : Word).getLsbD 63 = false ∧
    fenceMet (on (thr 0 0 0 0)) at0 (thr 0 0 0 0) .part = true ∧ fenceMet (busy (thr 0 0 0 0)) at0 (thr 0 0 0 0) .part = false := by
  refine ⟨fun x k => ⟨⟨rfl, rfl, rfl⟩, ⟨rfl, rfl, rfl⟩⟩, ?_⟩
  decide +kernel

/-- A descriptor in the TCM, of a group of one, this partition: all-reduce of one .f32, its buffers and its table in the TCM too. -/
def collWords (op count : Nat) : List Word :=
  [word (op + 2 ^ 28), word count, 0xFF00000000001000, 0xFF00000000002000, 0xFF00000000003000, 0xFF00000000000080, 0, 9]
def collective (op count : Nat) : Option (Bool × Bool × Bool) :=
  let t := thr2 0xFF00000000000000 0
  match checkRecord (withTcm (collWords op count) t) at0 t (t.rd r1) [7, 6, 5, 4, 3, 2, 1, 0] with
  | .ok (ps, s1) =>
    match readRecord at0 t ps s1 with
    | .ok (ws, _, s2) =>
      let (g, s2) := if descriptorOk ws then readGroup at0 t (field (ws.getD 0 0) 28 12) (ws.getD 5 0) s2 else (none, s2)
      let c := collOf s2 at0 t ws (g.getD [])
      let sized := decide (c.op ≤ 4 ∧ c.ty ≤ 4)
      some (g.isSome, decide ((g.getD [])[c.rank]? = some (s2.modid, 0)),
        (checkRanges s2 at0 t (if sized then [(c.src, c.srcBytes)] else [])
          (if sized then [(c.dst, c.dstBytes), (c.stage, c.dstBytes)] else []) 0 1 false).toOption.isSome)
    | .error _ => none
  | .error _ => none
def snapping (v : Word) (n : BitVec 16) (table : List SnapEntry) (t : Thread) : State :=
  onWith (fun s => s.modPart 0 (fun q => { q with r := { q.r with snapctl := v, snapn := n }, snap := { q.snap with table := table } })) t
def snapBusy (s : State) : Bool :=
  let q := s.part 0
  let st := snapqState q q.r.snapn.toNat
  q.r.snapctl.getLsbD 63 = false || st == 1 || st == 2

/-- CollectiveSnapshotResults: a descriptor of a group that holds this partition, one that is bad, and one whose buffers end beyond the TCM; a
collective prepared; ids of collectives, pending and not; a partition that coordinates and one that does not, with a snapshot under way and without. -/
theorem witness_CollectiveSnapshotResults :
    (∀ x : Word, Ready (on (thr2 x 0)) (thr2 x 0) [r1] ∧ Ready (on (thr2 x 0)) (thr2 x 0) [] ∧
      (∀ y, Ready (on (preparedT y)) (preparedT y) [r1])) ∧
    collective 0 1 = some (true, true, true) ∧ collective 5 1 = some (false, false, true) ∧
    collective 0 0x8000 = some (true, true, false) ∧
    (collOf (on (thr2 0 0)) at0 (thr2 0 0) (collWords 0 1) []).members.any (fun m => fromPeer (on (thr2 0 0)) m.1 m.2 0) = false ∧
    fenceMet (busy (thr2 0 0)) at0 (thr2 0 0) .sys = false ∧
    ((on (thr2 0 0)).part 0).colls.length < 64 ∧ ((on (thr2 0 0)).watched 0 0 = false) ∧ fenceMet (on (thr2 0 0)) at0 (thr2 0 0) .sys = true ∧
    ((5 : Word).toNat / 2 ^ 22 ≠ 0x3FF ∧ (0xFFC00001 : Word).toNat / 2 ^ 22 = 0x3FF) ∧
    (let c := collOf (on (thr2 0 0)) at0 (thr2 0 0) (collWords 0 1) []
     let s := onWith (fun s => s.modPart 0 (fun q => { q with colls := [c] })) (thr2 0 0)
     (s.part 0).colls.any (fun c => c.seq.toNat == 0) = true ∧ (s.part 0).colls.any (fun c => c.seq.toNat == 1) = false ∧
     64 ≤ ((onWith (fun s => s.modPart 0 (fun q => { q with colls := List.replicate 64 c })) (thr2 0 0)).part 0).colls.length) ∧
    coordinates ((on (thr2 0 0)).part 0) = false ∧
    (coordinates ((snapping 0xC000000000000000 0 [] (thr2 0 0)).part 0) = true ∧ snapBusy (snapping 0xC000000000000000 0 [] (thr2 0 0)) = false) ∧
    snapBusy (snapping 0x4000000000000000 0 [] (thr2 0 0)) = true ∧
    snapBusy (snapping 0xC000000000000000 1 [{ n := 1, state := 1 }] (thr2 0 0)) = true ∧
    fenceMet (on (thr2 0 0)) at0 (thr2 0 0) .part = true ∧ fenceMet (busy (thr2 0 0)) at0 (thr2 0 0) .part = false := by
  refine ⟨fun x => ⟨(witness_ready1 x 0 0 2).1, (witness_ready1 x 0 0 2).2, fun y => ⟨rfl, rfl, rfl⟩⟩, ?_⟩
  decide +kernel

/-- A waiting thread, a message and a partition's tables, for the steps of the other agents. -/
def repliedT : Thread :=
  { thr2 0 0 with
    pend := some { commit := Commit.none, dest := some 4, log := .load 3, ty := some .s8, addr := 0x10008, size := 4, words := [] }, wait := some .reply }
def msgTo (x : Reg) (failed : Bool) : Delivery := { dst := at0, tid := 5, reg := x, val := 7, failed := failed, addr := 0x10008 }
def handlerT : Thread := { thr2 0 0 with ecause := 0x8000000000000010 }
def waiting5 : Waiter := { who := at0, tid := 5, key := keyMain 0 0x50008 }

/-- ThreadSteps: a thread with its reply due; deliveries to a thread in and out of its handler, delivered and failed, its inbox with room and
without; a reservation that waits, with room and without; a scrub; migrations of a thread that is pinned, busy, and free; a reserved slot; a
dropped thread; a core that has failed, one that has not, and a taster's, its slots idle and busy; a stamp's wait, on a taster and elsewhere. -/
theorem witness_ThreadSteps :
    ((on repliedT).thread at0 = some repliedT ∧
      repliedT.pend.map (fun q => (decide (q.notBefore ≤ (on repliedT).cycle), q.dest.isSome, q.ty.isSome)) = some (true, true, true)) ∧
    (let t : Thread := { repliedT with pend := repliedT.pend.map (fun q => { q with notBefore := 9, ty := none }) }
     t.pend.map (fun q => (decide ((on t).cycle < q.notBefore), q.ty.isSome)) = some (true, false)) ∧
    ((on (thr2 0 0)).byTid 0 5 = some (at0, thr2 0 0) ∧ (thr2 0 0).ecause.getLsbD 63 = false ∧ (on (thr2 0 0)).watched 0 0 = false) ∧
    ((on handlerT).byTid 0 5 = some (at0, handlerT) ∧ handlerT.ecause.getLsbD 63 = true ∧ inboxCount ((on handlerT).part 0) 0 < 16) ∧
    16 ≤ inboxCount ((onWith (fun s => s.modCoreW 0 0 (fun w => { w with inbox := List.replicate 16 (msgTo 3 false) })) handlerT).part 0) 0 ∧
    (let t := { thr2 0 0 with resv := some 512 }
     let s := onWith (fun s => s.modPart 0 (fun q => { q with lrwFull := [waiting5] })) t
     (s.part 0).lrwFull = waiting5 :: [] ∧ s.thread at0 = some t ∧ resvRoom (s.part 0) 512 = true ∧
     resvRoom { s.part 0 with resv := [(512, List.replicate 4096 waiting5)] } 512 = false) ∧
    ((on (thr2 0 0)).setSlot at0 (.scrub 5)).slot at0 = some (.scrub 5) ∧
    (let t := { thr2 0 0 with migrate := some 3 }
     (on t).thread at0 = some t ∧ pinnedHere (on t) at0 t = false ∧ pinnedHere (on t) at0 { t with pin := true } = true ∧
     besideHome 0 3 false = false ∧ updatesPending (busy t) 0 5 = true ∧ updatesPending (on t) 0 5 = false ∧
     (migrationTarget (on t) 0 3 false).map (fun c => (freeGeneral ((on t).core 0 c).w).isSome) = some true) ∧
    (((on (thr2 0 0)).setSlot at0 (.reserved (thr2 0 0))).slot at0 = some (.reserved (thr2 0 0)) ∧
     messageWaits (on (thr2 0 0)) 0 0 (.migrationArrival at0) = false ∧
     messageWaits { on (thr2 0 0) with waiting := [.sendArrival 0 0 msg0] } 0 0 (.migrationArrival at0) = true) ∧
    (let t := { thr2 0 0 with dropped := some TrapRec.none }
     (on t).byTid 0 5 = some (at0, t) ∧ t.dropped.isSome = true) ∧
    (((on (thr2 0 0)).modCoreC 0 0 (fun k => { k with failed := true })).core 0 0).c.failed = true ∧
    (let fail (s : State) : State :=
       let s := killLanding (s.modCoreC 0 0 (fun k => { k with failed := true })) 0 0 (fun _ => true)
       let s := ((s.population 0 (fun _ => true)).filter (fun r => r.core == 0)).foldl killThread s
       postRecord (orphanSlots s 0 0 (fun a => a.pend == 0)) 0 { TrapRec.none with code := 0x035, cls := 1, core := 0 }
     let s := (on (thr2 0 0)).modAcc 0 0 0 (fun a => { a with tagged := true, pend := 1 }) |>.modAcc 0 0 1 (fun a => { a with tagged := true })
     (s.core 0 0).c.failed = false ∧ (s.part 0).coreIds.contains 0 = true ∧ clusterOf 0 = some 0 ∧ (s.acc 0 0 0).pend ≠ 0 ∧
     ((fail s).acc 0 0 1).tagged = true ∧ ((fail s).acc 0 0 1).pend = 0 ∧ workerOf (fail s) 0 0 = none ∧
     workerOf (fail (s.modCoreW 0 1 (fun w => { w with tbind := 0x8000000000000000 }))) 0 0 = some 1) ∧
    (let t := { thr2 0 0 with wait := some (.stamp 1 2 0) }
     let s := onWith (fun s => s.modCoreW 0 1 (fun w => { w with tbind := 0x8000000000000000 })) t
     (on t).thread at0 = some t ∧ workerOf (fatalPark (on t) at0 (TrapRec.ofThread at0 t 0x036 1 t.pc 0)) 0 0 = none ∧
     s.thread at0 = some t ∧ workerOf (fatalPark s at0 (TrapRec.ofThread at0 t 0x036 1 t.pc 0)) 0 0 = some 1) := by
  decide +kernel

def launch0 : Launch :=
  { id := 7, slot := 0, corr := 0, ctx := 0, prio := 0, pin := false, entry := 0x20000, count := 1, clmask := 0, shadows := Vector.replicate 5 0,
    args := Vector.replicate 4 0, done := 0x10008, seq := 1, next := 0, dset := some 0, ended := 1 }
def packet0 : Packet :=
  { entry := 0x20000, corr := 0, dset := 0, ctx := 0, prio := 1, pin := false, clu := 0, args := Vector.replicate 4 0, enq := 0, slotn := 0, launch := 7 }
def launching (s : State) : State := (paged s).modPart 0 (fun q => { q with tdisp := .run, launches := [launch0], expansion := [7], sealing := [0] })
/-- A record that passes every check: PROTO 1, one thread, entry 0x20000, its seal; context 0 in service. -/
def postedRec : State :=
  let s := launching State.reset
  let put (m : Memory) (o : Nat) (v : Nat) : Memory := memWrite m (slotKey (s.part 0) 0 0 + o) 8 v
  let m := put (put (put (put s.mem 0 1) 8 0x20000) 0x10 1) 0x78 (1 + 2 ^ 16 * 2 + 2 ^ 32)
  { s with
    mem := memWrite m (keyMain 0 0x4000) 8 1,
    parts := (s.modRegs 0 (fun r => { r with ctxbase := 0x4000 })).parts }

/-- The page of the launch window captured and not yet copied. -/
def recordHeld (s : State) : State :=
  let s := s.modPart 0 (fun q => { q with
    r := { q.r with snapn := 1 }, snap := { q.snap with table := [{ n := 1, state := 1 }], captured := [{ leaf0 with page := 0, pa := 0 }] } })
  { s with mem := memWrite s.mem leaf0.pte 8 (2 ^ 62 + 1) }

/-- The launch with another descriptor set and shadows, of the n sets taken. -/
def setting (e : Option Nat) (x : Word) (n : Nat) : State :=
  (launching State.reset).modPart 0 (fun q => { q with
    launches := [{ launch0 with dset := e, shadows := Vector.replicate 5 x }],
    dsets := (List.range n).map (fun i => (i + 1, Vector.replicate 5 1)) })
def freeSets (s : State) : List Nat := (List.range 256).filter (fun i => i != 0 && (kget (s.part 0).dsets i).isNone)
def bank0 : CoreId := bankCore (homeSlice 513)
/-- The RED has reached its bank core. -/
def reached (s : State) : State := s.modCoreW 0 bank0 (fun w => { w with updateQ := [pendingRed] })

/-- DispatcherSteps: a sealed record that passes, one that does not, and one in a held page; the head of the order, with room in its queue and without; a packet
that can become a thread, and one that ages; a record without a set, with shadows and without, with a free set and none; a launch that has
ended, with a DONE word, one in a held page, and without; requests of the server, update and system slots; a RED on its way, with room at its
bank core and without, and all due; updates with a free slot and without, and in a held page. -/
theorem witness_DispatcherSteps :
    ((launching State.reset).part 0).sealing.contains 0 = true ∧ rejectCode (launching State.reset) 0 (readPosted (launching State.reset) 0 0) ≠ 0 ∧
    (let w : PageWriter := .step (.launchRecord 0 0)
     (atHome (launching State.reset) 0 (slotKey ((launching State.reset).part 0) 0 0) w).toOption.isSome = true ∧
     (atHome (recordHeld (launching State.reset)) 0 (slotKey ((launching State.reset).part 0) 0 0) w).toOption.isNone = true) ∧
    rejectCode postedRec 0 (readPosted postedRec 0 0) = 0 ∧ acceptDelay postedRec 0 = 0 ∧
    acceptDelay (postedRec.modPart 0 (fun q => { q with lastAccept := some 0 })) 0 ≠ 0 ∧
    (((launching State.reset).part 0).expansion = [7] ∧ ((launching State.reset).part 0).launches.find? (fun x => x.id == 7) = some launch0 ∧
      (namedClusters ((launching State.reset).part 0) 0)[0]? = some 0 ∧ (queueOf (launching State.reset) 0 0 0).length < 64) ∧
    64 ≤ (queueOf (setQueue State.reset 0 0 0 (List.replicate 64 packet0)) 0 0 0).length ∧
    (let s := setQueue (launching State.reset) 0 0 1 [packet0]
     (s.part 0).serves = true ∧ (s.part 0).gang = .idle ∧ (s.cluster 0 0).outOfService = false ∧ firstQueue s 0 0 = some (1, packet0, []) ∧
     roomiestCore s 0 0 = some 0 ∧ freeGeneral (s.core 0 0).w = some 2 ∧ (s.part 0).r.dspctl.getLsbD 1 = true ∧ (queueOf s 0 0 0).length < 64 ∧
     s.tstamp < packet0.enq + 0x2710 ∧ packet0.enq + 0x2710 ≤ ({ s with time := 0x2710 * 720720 } : State).tstamp) ∧
    (((launching State.reset).part 0).launches.find? (fun x => x.id == 7 && x.ended == x.count) = some launch0 ∧
      launch0.done ≠ 0 ∧
      (match ctxKey (launching State.reset) 0 0 needW 0x10008 with
       | some k => (atHome (launching State.reset) 0 k (.step (.doneWrite 0 7))).toOption.isSome
       | none => false) = true ∧
      ctxKey ((launching State.reset).modRegs 0 (fun r => { r with rtbase := 0 })) 0 0 needW 0x10008 = none) ∧
    (let i : Instr := .activeMessageArrival 0 0 active0
     messageWaits State.reset 0 0 i = false ∧ fromPeer State.reset 0 0 0 = false ∧
      messageWaits (State.reset.modCoreW 0 0 (fun w => { w with updateQ := List.replicate 64 pendingRed })) 0 0 i = true) ∧
    (let s := State.reset.modCoreW 0 0 (fun w => { w with serverQ := [active0] })
     (s.core 0 0).w.serverQ = [active0] ∧ kget (s.core 0 0).w.slots 1 = none ∧ (s.part 0).gang = .idle) ∧
    ((setting none 0 0).part 0).launches.find? (fun x => x.id == 7) = some { launch0 with dset := none } ∧
    (Vector.replicate 5 (1 : Word) ≠ Vector.replicate 5 0 ∧ (freeSets (setting none 1 0)).head? = some 1 ∧ freeSets (setting none 1 255) = []) ∧
    (let s := (launching State.reset).modPart 0 (fun q => { q with
       r := { q.r with snapn := 1 }, snap := { q.snap with table := [{ n := 1, state := 1 }], captured := [{ leaf0 with pa := 0x20010000 }] } })
     let s := { s with mem := memWrite s.mem leaf0.pte 8 (2 ^ 62 + 1) }
     (match ctxKey s 0 0 needW 0x10008 with
      | some k => (atHome s 0 k (.step (.doneWrite 0 7))).toOption.isNone
      | none => false) = true) ∧
    (let due (s : State) : Nat := ((s.events ++ s.waiting).filter (fun i => i == .remoteUpdate 0 bank0)).length
     let s := busy (thr2 0 0)
     redsBound s 0 bank0 = [(0, pendingRed)] ∧ due s < (redsBound s 0 bank0).length ∧ messageWaits s 0 bank0 (.remoteUpdate 0 bank0) = false ∧
     messageWaits (s.modCoreW 0 bank0 (fun w => { w with updateQ := List.replicate 64 pendingRed })) 0 bank0 (.remoteUpdate 0 bank0) = true ∧
     (redsBound (on (thr2 0 0)) 0 bank0).length ≤ due (on (thr2 0 0))) ∧
    (let v := reached (on (thr2 0 0))
     (v.core 0 bank0).w.updateQ = [pendingRed] ∧ (freeGeneral (v.core 0 bank0).w).isSome = true ∧
     heldPage v 0 pendingRed.key (.step (.remoteUpdate 0 bank0)) = none ∧ ((on (thr2 0 0)).core 0 bank0).w.updateQ = [] ∧
     freeGeneral ((v.modCoreW 0 bank0 (fun w => { w with slots := (List.range 16).map (fun i => (i, Slot.thread (thr2 0 0))) })).core 0 bank0).w =
       none) ∧
    (heldPage (captured0 1 (reached (on (thr2 0 0)))) 0 pendingRed.key (.step (.remoteUpdate 0 bank0))).isSome = true ∧
    (let s := State.reset.modCoreC 0 0 (fun k => { k with syshQ := [0x10008], sysh := 0x20000 })
     (s.core 0 0).c.syshQ = [0x10008] ∧ kget (s.core 0 0).w.slots 0 = none ∧ (s.core 0 0).c.sysh ≠ 0) := by
  refine ⟨?_, ?_, ?_, ?_, ?_, ?_, ?_, ?_⟩ <;> decide +kernel

def addm0 (phase : Nat) : AddmReq :=
  { tid := 5, line := 512, off := 0, a := 1, fmt := 0, slim := 1, dom := 3, key := keyMain 0 0x50000, phase := phase }
/-- A steep queue whose head is in a phase, and a holder of its line with an unpoured magnitude g, an unacknowledged f and a share. -/
def steeped (phase : Nat) (h : Option Holder) : State :=
  (mapped State.reset).modCoreW 0 0 (fun w => { w with steepQ := [addm0 phase] }) |>.modCoreC 0 0 (fun k => { k with holders := h.toList })
def share (x g f : BitVec 32) : Holder := { holder0 0 with share := x, g := g, f := f, colour := steepColour State.reset 0 }
def steepHome0 : SteepHome :=
  { line := 512, dom := 3, key := keyMain 0 0x50000, fmt := 0, slim := 0, limit := 0x3F800000, u := 0x3F800000, shares := [], buf := [], forcing := [], load := none,
    deferred := [], revoking := none }
def bounded0 : BoundedReq := { line := 512, key := keyMain 0 0x50000, fmt := 0, off := 0, tol := 0, who := at0, tid := 5 }
def homed (x : SteepHome) : State := (mapped State.reset).modPart 0 (fun q => { q with steep := [x] })
/-- Whether a share covers an addend with what is unpoured and unacknowledged, and whether it would be spent. -/
def covered (x : Holder) : Bool × Bool :=
  let m := addendMag 0 (addm0 0).a
  (magLe (addUp [x.f, x.g, m]) x.share, addUp [x.g, m] == x.share)

/-- What a home that a request brings about holds: its load, its revocation. -/
def homeAt (s : State) : Option (Option (Bool × Bool)) :=
  (steepReady s 0 0 512 3).map (fun u => (u.steepHome 0 512).map (fun x => (x.load.isSome, x.revoking.isSome)))
/-- The mapped state whose line is in another domain, with a stamp that is not passed. -/
def stampedLine : State :=
  (mapped State.reset).modPart 0 (fun q => { q with slices := [{ slice0 with dom := 4, stamp := some { core := 1, seq := 9 } }] })

/-- SteepSteps: a head that waits; a line that is not held; shares that cover the addend, that it spends, that must be poured first, that await
an acknowledgement, and that are too small; homes that cannot be brought about, that are plain, that load, that revoke, and that must revoke;
a pour and a return under way; a bounded load with nothing to force and with a holder to force; an ADDM counted and not, of a thread that asks
for a migration and of one that has left. -/
theorem witness_SteepSteps :
    ((steeped 1 none).core 0 0).w.steepQ = [addm0 1] ∧ (steeped 0 none).holder 0 0 512 = none ∧
    (steeped 0 (some (share 0x40800000 0 0))).holder 0 0 512 = some (share 0x40800000 0 0) ∧
    (share 0x40800000 0 0).colour = steepColour (steeped 0 none) 0 ∧ covered (share 0x40800000 0 0) = (true, false) ∧
    (covered (share 0x3FC00000 0x3F800000 0) = (false, false) ∧ (share 0x3FC00000 0x3F800000 0).g ≠ 0) ∧
    ((covered (share 0x3FC00000 0 0x3F800000)).1 = false ∧ (share 0x3FC00000 0 0x3F800000).f ≠ 0) ∧ (covered (share 0x3F000000 0 0)).1 = false ∧
    (let x : Holder := share (addendMag 0 1) 0 0
     covered x = (true, true) ∧ addUp [x.g, addendMag 0 (addm0 0).a] ≠ 0) ∧
    (steepReady stampedLine 0 0 512 3).isNone = true ∧ homeAt (homed steepHome0) = some (some (false, false)) ∧
    homeAt (homed { steepHome0 with load := some bounded0 }) = some (some (true, false)) ∧
    homeAt (homed { steepHome0 with revoking := some 1 }) = some (some (false, true)) ∧
    (victimOf (homed steepHome0) 0 steepHome0 = none ∧
      (victimOf (homed steepHome0) 0 { steepHome0 with shares := (List.range 16).map (fun i => (Fin.ofNat 272 i, 0x3F800000)) }).isSome = true) ∧
    ((homed steepHome0).steepHome 0 512 = some steepHome0 ∧ State.reset.steepHome 0 512 = none) ∧
    (pourInFlight State.reset 0 0 512 = false ∧ State.reset.holder 0 0 512 = none ∧
      pourInFlight (State.reset.push (.pack 0 0 512 3 0)) 0 0 512 = true) ∧
    (sretInFlight State.reset 0 0 512 = false ∧ sretInFlight (State.reset.push (.sret 0 0 512 3 0 0 false 0)) 0 0 512 = true) ∧
    (forceList 1 [] (addUp []) bounded0.tol = [] ∧ forceList 2 [(0, 0x3F800000)] (addUp [0x3F800000]) bounded0.tol ≠ []) ∧
    ({ share 0x40800000 0x3F800000 0 with colour := true } : Holder).colour ≠ steepColour State.reset 0 ∧
    ((addm0 0).counted = false ∧ { addm0 0 with counted := true }.counted = true ∧
      ((slotThreads 0 0 (State.reset.core 0 0).w.slots).find? (fun e => e.2.tid == (addm0 0).tid)).isNone = true ∧
      (let t := { thr2 0 0 with migrate := some 3 }
       ((slotThreads 0 0 ((on t).core 0 0).w.slots).find? (fun e => e.2.tid == (addm0 0).tid)) = some (at0, t))) := by
  decide +kernel

def l1Line (st : Moesi) : L1Line := { line := 512, st := st, valid := 3, dirty := 0, dom := 3, key := keyMain 0 0x50000, stamp := none, old := 0 }
def caching (st : Moesi) : State := (mapped State.reset).modCoreC 0 0 (fun k => { k with l1d := [l1Line st] })
def sliced (x : SliceLine) : State := State.reset.modPart 0 (fun q => { q with slices := [x] })

/-- The mapped state with an armed injection in the way of slice0, the line dirty. -/
def injected : State :=
  let e : Word := word (2 ^ 63 + (homeSlice 512).val * 2 ^ 21 + (Machine.setOf 512) * 2 ^ 5)
  ((mapped State.reset).modRegs 0 (fun r => { r with errinj := e })).modPart 0 (fun q => { q with slices := [{ slice0 with dirty := true }] })
/-- The line with two locked ways in its set. -/
def lockedSet (s : State) : State :=
  s.modPart 0 (fun q => { q with pins := [{ set := setKey 512, way := 1, key := none }, { set := setKey 512, way := 2, key := none }] })

/-- CacheSteps: copies in each state; a line that a slice may evict, one that it may not, and one in whose way an injection fires; a lookup that
ends with the line, by a fill and without, as stale, in a fault and with no way free; walks that end with a leaf, in each fault, and at a table
that is poisoned, listed or not; a dirty line and a clean one; a faulty sector with pinning off, with room to pin, pinned, and without room. -/
theorem witness_CacheSteps :
    (∀ st ∈ ([.m, .e, .o, .s] : List Moesi), (caching st).l1 0 0 512 = some (l1Line st) ∧
      errFires ((caching st).forwardRead 0 0 512) 0 512 3 = false) ∧ (caching .m).holder 0 0 512 = none ∧
    (let s := injected.modCoreC 0 0 (fun k => { k with l1d := [l1Line .m] })
     s.l1 0 0 512 = some (l1Line .m) ∧ errFires (s.forwardRead 0 0 512) 0 512 3 = true) ∧
    ((chooseWay (quarantine (lockedSet (sliced slice0)) 0 slice0) 0 512).isSome = true ∧
      (let s := quarantine (stampedLine.modPart 0 (fun q => { q with pins := (List.range 16).map (fun i => { set := setKey 512, way := i + 1, key := none }) }))
         0 { slice0 with stamp := some { core := 1, seq := 9 } }
       chooseWay s 0 512 = none ∧ s.unstamped 0 { slice0 with stamp := some { core := 1, seq := 9 } } = false ∧ s.unstamped 0 slice0 = true)) ∧
    ((mapped State.reset).sl 0 512 = some slice0 ∧ (mapped State.reset).evictable 0 slice0 = true ∧
      (mapped State.reset).evictable 0 { slice0 with pinned := true } = false) ∧
    (match homeLookup (mapped State.reset) 0 512 3 with | .ok m _ => !m | _ => false) = true ∧
    (match homeLookup (paged State.reset) 0 512 3 with | .ok m _ => m | _ => false) = true ∧
    (match homeLookup (paged State.reset) 0 512 4 with | .stale _ => true | _ => false) = true ∧
    (match homeLookup State.reset 0 512 3 with | .fault _ _ => true | _ => false) = true ∧
    (match homeLookup stampedLine 0 512 3 with | .full _ => true | _ => false) = true ∧
    (((homeRead (mapped State.reset) 0 512 3 0).sl 0 512).isSome = true ∧ (homeRead (mapped State.reset) 0 512 3 0).l1 0 0 512 = none ∧
      ((homeRead (caching .s) 0 512 3 0).l1 0 0 512).isSome = true) ∧
    ((((mapped State.reset).revokeAll 0 512).invalidateAll 0 512 none).sl 0 512).map (fun z => z.dirty) = some false ∧
    (((injected.revokeAll 0 512).invalidateAll 0 512 none).sl 0 512).map (fun z =>
      z.dirty && errFires ((injected.revokeAll 0 512).invalidateAll 0 512 none) 0 512 3) = some true ∧
    ((holding 0 (thr2 0 0)).absorb 0 512).holder 0 0 512 ≠ none ∧
    ((kget ((paged State.reset).part 0).tcache (homeSlice (lineOf 0x10008)).val).getD [] = [] ∧
      (match walkPage (paged State.reset) 0 0x10008 with | .leaf _ => true | _ => false) = true) ∧
    (match walkPage ((paged State.reset).poisonLine (keyMain 0 0x80000)) 0 0x10008 with | .poisoned 1 8 => true | _ => false) = true ∧
    (∀ n ∈ ([0, 64] : List Nat),
      let s := ((paged State.reset).poisonLine (keyMain 0 0x80000)).modPart 0 (fun q => { q with badTables := (List.range n).map (fun i => i + 100) })
      nmem (s.part 0).badTables 8 = false ∧ (s.part 0).badTables.length = n) ∧
    nmem [8] 8 = true ∧ ([leaf0].find? (fun l => l.covers (va57 0x10008))).isSome = true ∧
    (match walkPage State.reset 0 0x10008 with | .page _ => true | _ => false) = true ∧
    (match walkPage (tabled 3 (thr2 0 0)) 0 0x10008 with | .format _ => true | _ => false) = true ∧
    ((sliced { slice0 with dirty := true }).sl 0 512 = some { slice0 with dirty := true }) ∧
    ((chooseWay (quarantine (sliced slice0) 0 slice0) 0 512).isSome = true) ∧
    (State.reset.sl 0 512 = none ∧ lineStands State.reset 0 512 = none ∧ lineStands (sliced slice0) 0 512 = some slice0) ∧
    (((sliced slice0).modRegs 0 (fun r => { r with memctl := 0 })).part 0).r.memctl.getLsbD 0 = false ∧
    (((sliced slice0).part 0).r.memctl.getLsbD 0 = true ∧ pinnedWay ((sliced slice0).part 0) 512 slice0.key = none ∧
      lockedWays ((sliced slice0).part 0) 512 < 2) ∧
    2 ≤ lockedWays ((lockedSet (sliced slice0)).part 0) 512 ∧
    (pinnedWay (((sliced slice0).lockWay 0 { set := setKey 512, way := 0, key := some slice0.key }).part 0) 512 slice0.key).isSome = true := by
  refine ⟨?_, ?_, ?_, ?_, ?_, ?_, ?_, ?_, ?_, ?_, ?_⟩ <;> decide +kernel

def jobOf (t : Thread) : State :=
  (shaped t).modCoreW 0 0 (fun w => { w with mxQ := match mxJob0 with | some j => [.job j] | none => [] })
/-- The engine with a job running, picked from the queue; and with one in its drain. -/
def running (f : MxRun → MxRun) (drained : Bool) : Option (State × MxRun) :=
  mxJob0.map (fun j =>
    let x := f (startRun (jobOf (thr2 0 0)) 0 0 0 j)
    ((jobOf (thr2 0 0)).modClusterW 0 0 (fun w => if drained then { w with drain := [x] } else { w with run := some x }), x))

/-- An MXST of core 0's slot at the head, over these pages, which the engine has picked or not. -/
def storingOf (pages : List Leaf) (picked : Bool) (s : State) : State :=
  let s := s.modCoreW 0 0 (fun w => { w with mxQ := [.store 0 5 0 0 0x10000 pages] })
  s.modClusterW 0 0 (fun w => { w with storing := if picked then some 0 else none })

/-- A copy of eight bytes at the head of core 0's queue, from y and to z, through the page of 0x10000. -/
def copyOf (y z : Word) : CopyJob := { copyJob0 with src := y, dst := z, pages := [leaf0] }
def moving (j : CopyJob) (s : State) : State := s.modCoreW 0 0 (fun w => { w with copyQ := [j] })
/-- How a beat of eight bytes ends: 1 with its bytes, 2 in a failure, 3 later. -/
def beatEnds (b : Beat) : Nat :=
  match b with
  | .ok _ _ => 1
  | .fail _ _ => 2
  | _ => 3
def reachEnds (r : Reach) : Nat :=
  match r with
  | .ok _ => 1
  | .poisoned _ => 2
  | .held _ => 3
def chunkRead (s : State) (y : Word) : Nat := beatEnds (readChunk s 0 0 (copyOf y 0) (jobLeaf (copyOf y 0) y) y 8)
def chunkWritten (s : State) (z : Word) : Nat := beatEnds (writeChunk s 0 0 (copyOf 0 z) z [1, 2, 3, 4, 5, 6, 7, 8])
/-- Where a beat through the page of 0x10000 is read from. -/
def lineReach (s : State) : Nat := reachEnds (reachRead s 0 leaf0 0x10000 8 0)
def lineWrite (s : State) : Nat := reachEnds (reachWrite s 0 leaf0 0x10000 (.copy 0 0))
def scratch0 : Word := 0xFF00000000400000

/-- EngineSteps, the copy unit: a beat whose banks are taken and whose time has come or not, with its copy ready or gone; one that finds its banks free
and taken; none; a window whose word is read and one that is poisoned; a line that is read and written, poisoned, and held back; a beat within a
line on both sides that is written whole, fails, and waits; a copy with a stream and without. -/
theorem witness_EngineSteps_copies :
    (let s := (moving copyJob0 State.reset).modClusterW 0 0 (fun w => { w with copyDue := some (0, 9) })
     let v (s : State) := s.modClusterW 0 0 (fun w => { w with copyDue := none })
     (s.cluster 0 0).w.copyDue = some (0, 9) ∧ s.cycle < 9 ∧ copyReady (v s) 0 0 = some copyJob0 ∧ copyReady (v (moving { copyJob0 with finished := true } s)) 0 0 = none ∧
     ((moving copyJob0 State.reset).cluster 0 0).w.copyDue = none) ∧
    (let w := ((moving (copyOf scratch0 0) State.reset).cluster 0 0).w
     let banks := beatBanks State.reset 0 0 (copyOf scratch0 0)
     banks ≠ [] ∧ bankWait w banks = 0 ∧ bankWait { w with bankEng := banks } banks = 1) ∧
    (roundRobin 0 (State.reset.cluster 0 0).w.copyLast).find? (fun c => (copyReady State.reset 0 c).isSome) = none ∧
    (inWindowRegion scratch0 = true ∧ (windowKey 0 0 scratch0).isSome = true ∧ chunkRead State.reset scratch0 = 1 ∧
      chunkRead (State.reset.poisonWord (keyScratch 0 0 0)) scratch0 = 2 ∧ MemoryCanonical State.reset ∧ chunkWritten State.reset scratch0 = 1) ∧
    (inWindowRegion 0x10000 = false ∧ jobLeaf (copyOf 0x10000 0) 0x10000 = some leaf0 ∧
      lineReach (mapped State.reset) = 1 ∧ lineReach ((mapped State.reset).poisonLine (keyMain 0 0x50000)) = 2 ∧
      lineReach stampedLine = 3 ∧ lineWrite (mapped State.reset) = 1 ∧ lineWrite ((mapped State.reset).poisonLine (keyMain 0 0x50000)) = 2 ∧
      lineWrite (captured0 1 (mapped State.reset)) = 3) ∧
    ((copyOf scratch0 0x10000).form = .lin 8 ∧ (copyOf scratch0 0x10000).placed = [] ∧ Nat.min 64 (8 - (copyOf scratch0 0x10000).pos) = 8 ∧
      inRemoteRegion scratch0 = false ∧ inRemoteRegion 0x10000 = false ∧ scratch0.toNat % 128 + 8 ≤ 128 ∧ (0x10000 : Word).toNat % 128 + 8 ≤ 128 ∧
      chunkRead (mapped State.reset) 0x10000 = 1 ∧ chunkWritten (mapped State.reset) 0x10000 = 1 ∧
      chunkRead ((mapped State.reset).poisonLine (keyMain 0 0x50000)) 0x10000 = 2 ∧ chunkRead stampedLine 0x10000 = 3) ∧
    (let j := { copyJob0 with stream := some 0 }
     (jobStream (on (thr2 0 0)) 0 0 j).map (fun e => e.1) = some at0 ∧ (jobStream (on (thr2 0 0)) 0 0 copyJob0).isNone = true) ∧
    ((moving { copyJob0 with finished := true } State.reset).core 0 0).w.copyQ = [{ copyJob0 with finished := true }] := by
  refine ⟨?_, ?_, ?_, ⟨?_, ?_, ?_, ?_, ?_, ?_⟩, ?_, ?_, ?_, ?_⟩ <;> first | decide +kernel | rfl

/-- EngineSteps: a copy that can move and one that has finished; a group's banks overdue and not; cells in order; a group that is not the last and
the last one; elements with a scale and without; a job, an MXZ, an MXST and a poisoned slot at the head, with the core's jobs
complete and not; a running job whose group is plain and whose group is poisoned; a drained job before its time and after, with each
outcome of its check; an MXST picked, whose page is held and is not. -/
theorem witness_EngineSteps :
    (let s := State.reset.modCoreW 0 0 (fun w => { w with copyQ := [copyJob0] })
     (roundRobin 0 (s.cluster 0 0).w.copyLast).find? (fun c => (copyReady s 0 c).isSome) = some 0 ∧ copyReady s 0 0 = some copyJob0 ∧
     (s.core 0 0).w.copyQ = [copyJob0] ∧ copyJob0.finished = false) ∧
    ((jobOf (thr2 0 0)).cluster 0 0).w.run = none ∧ nextCore (jobOf (thr2 0 0)) 0 0 = some 0 ∧
    (mxHead (jobOf (thr2 0 0)) 0 0 0 = mxJob0.map (fun j => .job j) ∧ mxJob0.isSome = true) ∧
    (((jobOf (thr2 0 0)).acc 0 0 0).poisoned = false ∧ (((jobOf (thr2 0 0)).modAcc 0 0 0 (fun a => { a with poisoned := true })).acc 0 0 0).poisoned = true) ∧
    (let s := State.reset.modCoreW 0 0 (fun w => { w with mxQ := [.store 0 5 0 0 0xFF00000000000000 []] })
     nextCore s 0 0 = some 0 ∧ mxHead s 0 0 0 = some (.store 0 5 0 0 0xFF00000000000000 []) ∧ (s.cluster 0 0).w.drain.any (fun x => x.core == 0) = false ∧
     mxHead s 0 0 (coreOfCluster 0 (Fin.ofNat 8 0)) = some (.store 0 5 0 0 0xFF00000000000000 [])) ∧
    ((running id false).map (fun e => ((groupA e.1 0 0 e.2 (groupIndices e.2.job 0)).flatten).any (fun e => e.poisoned)) = some false) ∧
    ((running id false).map (fun e =>
      ((groupA (e.1.poisonWord (keyScratch 0 0 0)) 0 0 e.2 (groupIndices e.2.job 0)).flatten).any (fun e => e.poisoned)) = some true) ∧
    ((running (fun x => { x with due := 9 }) true).map (fun e => (decide (e.1.cycle < e.2.due), (e.1.cluster 0 0).w.drain == [e.2])) = some (true, true)) ∧
    (∀ n ∈ ([0, 1, 2] : List Nat), (running (fun x => { x with chk := n }) true).map (fun e => (decide (e.2.due ≤ e.1.cycle), e.2.chk)) =
      some (true, n)) ∧
    (let s := State.reset.modCoreW 0 0 (fun w => { w with mxQ := [.zero 0 5 0] })
     nextCore s 0 0 = some 0 ∧ mxHead s 0 0 0 = some (.zero 0 5 0) ∧ (s.cluster 0 0).w.drain.any (fun x => x.core == 0) = false) ∧
    ((running id true).map (fun e => ((e.1.cluster 0 0).w.drain.any (fun x => x.core == 0))) = some true) ∧
    ((running id false).map (fun e =>
       let banks := groupBanks e.2 (groupIndices e.2.job 0)
       let late := { e.1.modClusterW 0 0 (fun w => { w with bankQ := banks.map (fun b => (b, [0])) }) with cycle := 2 ^ 40 }
       (banks.any (bankOverdue e.1 0 0), banks.any (bankOverdue late 0 0))) = some (false, true)) ∧
    ((running id false).map (fun e => ((e.1.acc 0 0 0).cells == [], decide (e.2.job.a.shape.rows ≤ 64 ∧ e.2.job.b.shape.cols ≤ 64),
       decide (e.2.group + 1 < e.2.job.groups), decide (e.2.job.groups ≤ e.2.group + 1))) = some (true, true, true, false)) ∧
    ((running (fun x => { x with group := 3 }) false).map (fun e => decide (e.2.job.groups ≤ e.2.group + 1)) = some true) ∧
    (mxJob0.map (fun j => (j.a.fmt.container, j.a.scale)) = some (32, none)) ∧
    (let s := storingOf [leaf0] true State.reset
     (s.cluster 0 0).w.storing = some 0 ∧ mxHead s 0 0 0 = some (.store 0 5 0 0 0x10000 [leaf0]) ∧
     ([leaf0].findSome? (fun l => pageWait s 0 l (.step (.mxstExecute 0 0)))).isNone = true) ∧
    (let s := captured0 1 (storingOf [leaf0] true State.reset)
     ([leaf0].findSome? (fun l => pageWait s 0 l (.step (.mxstExecute 0 0)))).isSome = true) := by
  refine ⟨?_, ?_, ?_, ?_, ?_, ?_, ?_, ?_, ?_, ?_, ?_, ?_, ?_, ?_, ?_⟩ <;> decide +kernel

/-- A partition whose trap queue stands at 0x10000, with a record in entry 0 to write. -/
def queued (s : State) : State :=
  s.modPart 0 (fun q => { q with
    r := { q.r with tqbase := 0x10000 }, trap := { q.trap with alloc := 1, writing := [(0, false, TrapRec.none)] } })
def dump0 : Dump := { ctx := 0, first := TrapRec.none, extra := [] }
/-- The paged frame captured and not yet copied. -/
def tqHeld (s : State) : State :=
  let l := { leaf0 with page := 0, big := true, pa := 0x20000000 }
  let s := s.modPart 0 (fun q => { q with r := { q.r with snapn := 1 }, snap := { q.snap with table := [{ n := 1, state := 1 }], captured := [l] } })
  { s with mem := memWrite s.mem leaf0.pte 8 (2 ^ 62 + 1) }

/-- QueueGangSteps: a record whose entry cannot be reached, one whose entry can, one in a held page, one that is not the next, and none; a gang
switch that is not armed, not due, and due; cores that are ready; a switch under way and restored; a dump, and one whose record is not yet
decided, whose area is held, and whose area cannot be reached. -/
theorem witness_QueueGangSteps :
    ((queued State.reset).part 0).trap.writing.find? (fun e => !e.2.1) = some (0, false, TrapRec.none) ∧
    (((queued State.reset).part 0).tdisp ≠ .error ∧ (((queued State.reset).modPart 0 (fun q => { q with tdisp := .error })).part 0).tdisp = .error) ∧
    (State.reset.part 0).trap.writing.find? (fun e => !e.2.1) = none ∧
    (match unitKey (queued (paged State.reset)) 0 (tqAddr ((queued (paged State.reset)).part 0).r 0) with
     | some k => (atHome (tqHeld (queued (paged State.reset))) 0 k (.step (.recordWriteDone 0 0))).toOption.isNone
     | none => false) = true ∧
    unitKey (queued State.reset) 0 (tqAddr ((queued State.reset).part 0).r 0) = none ∧
    (match unitKey (queued (paged State.reset)) 0 (tqAddr ((queued (paged State.reset)).part 0).r 0) with
     | some k => (atHome (queued (paged State.reset)) 0 k (.step (.recordWriteDone 0 0))).toOption.isSome
     | none => false) = true ∧
    ((State.reset.part 0).r.gswt = 0 ∧ State.reset.tstamp < (9 : Word).toNat ∧ (1 : Word) ≠ 0 ∧
      (1 : Word).toNat ≤ ({ State.reset with time := 720720 } : State).tstamp ∧ (State.reset.part 0).gang = .idle ∧
      (State.reset.part 0).snap.phase = .idle) ∧
    (let s := (on (thr2 0 0)).modPart 0 (fun q => { q with gang := .draining })
     (s.part 0).gang = .draining ∧ coreReady s 0 0 = true ∧ (s.part 0).ready.contains 0 = false ∧
     (s.part 0).coreIds.all (fun c => coreReady s 0 c) = true ∧ enginesReady (s.part 0) = true ∧ (areaHeld s 0).isNone = true) ∧
    (let s := (on repliedT).modPart 0 (fun q => { q with gang := .draining })
     coreReady s 0 0 = false ∧ (s.part 0).coreIds.all (fun c => coreReady s 0 c) = false) ∧
    (let s := tqHeld ((paged State.reset).modRegs 0 (fun r => { r with wscur := 0x20000001 }))
     (areaHeld s 0).isSome = true) ∧
    ((State.reset.modPart 0 (fun q => { q with gang := .restored })).part 0).gang = .restored ∧
    (let s := (paged State.reset).modPart 0 (fun q => { q with dumps := [dump0] })
     (s.part 0).dumps = [dump0] ∧ recordUndecided (s.part 0) dump0 = false ∧
     recordUndecided { s.part 0 with trap := { (s.part 0).trap with posted := [(0, TrapRec.none)] } } dump0 = true ∧
     (writeItems 0 0 0x1500000 (dumpItems State.reset 0 dump0) 0 State.reset).isNone = true ∧
     (s.part 0).rst = .none ∧ ((s.modPart 0 (fun q => { q with rst := .refusing })).part 0).rst ≠ .none ∧
     ((List.range 3).find? (fun i => (unitKey s 0 (0xE0000 + word (2 ^ 16 * i))).isNone)) = none ∧
     ((List.range 3).find? (fun i => (unitKey State.reset 0 (word (2 ^ 16 * i))).isNone)) = some 0 ∧
     (dumpHeld (tqHeld s) 0 0x10000 0x10000).isSome = true ∧ dumpHeld s 0 (ctxWord s 0 0 0x18) (Nat.min (ctxWord s 0 0 0x20).toNat 0x1500000) = none ∧
     (writeItems 0 (ctxWord s 0 0 0x18) (ctxWord s 0 0 0x20).toNat (dumpItems s 0 dump0) 0 s).isSome = true) := by
  decide +kernel

/-- ResetPowerSteps: a thread; a window's word; clean copies; a reset that is refused, and its two ends; partitions in and out of their turn. -/
theorem witness_ResetPowerSteps :
    ((State.reset.modPart 0 (fun q => { q with inService := false })).part 0).inService = false ∧
    (on (thr2 0 0)).thread at0 = some (thr2 0 0) ∧ keyTcm 0 0 16 / 2 ^ 48 % 4 ≠ 0 ∧
    ((caching .e).l1 0 0 512 = some (l1Line .e) ∧ (l1Line .e).st ≠ .m ∧ (l1Line .e).st ≠ .o) ∧
    ((State.reset.part 0).inService = true ∧ (State.reset.part 0).rst = .none) ∧
    ((State.reset.modPart 0 (fun q => { q with rst := .refusing })).part 0).rst = .refusing ∧
    ((State.reset.modPart 0 (fun q => { q with rst := .wiped })).part 0).rst = .wiped ∧ (State.reset.part 0).wipe = none ∧
    ({ State.reset with bringUp := 15 } : State).bringUp = (15 : PartId).val ∧ State.reset.bringUp ≠ (15 : PartId).val ∧
    ((mapped State.reset).part 0).slices.find? (fun l => errFires (mapped State.reset) 0 l.line 3) = none ∧
    (let e : Word := word (2 ^ 63 + (homeSlice 512).val * 2 ^ 21 + (Machine.setOf 512) * 2 ^ 5)
     let s := (mapped State.reset).modRegs 0 (fun r => { r with errinj := e })
     (s.part 0).slices.find? (fun l => errFires s 0 l.line 3) = some slice0) := by
  decide +kernel

/-- Partition 0 exports the addresses from 0 on, with the rights of context 0, and has a link key for partition 0 of module 1. -/
def exporting (s : State) : State :=
  ((paged s).modRegs 0 (fun r => { r with xport := 0x8000000000000000 })).modPart 0 (fun q => { q with linkKeys := [(1, 0)] })
def loadReq (m : BitVec 16) : RemoteReq :=
  { srcMod := m, src := ⟨0, 0, 2⟩, srcTid := 5, modid := 0, dst := 0, off := 0x10008, op := .load .s64, corr := 0 }
def storedT : Thread := { repliedT with pend := repliedT.pend.map (fun x => { x with dest := none, ty := none }) }
/-- A request of partition 1 of this module. -/
def peerReq : RemoteReq := { loadReq 0 with src := ⟨1, 0, 2⟩ }
def marker0 (n : Nat) : MarkerMsg := { srcMod := 0, src := 1, chan := .req, n := n, coordMod := 0, coordPart := 0, corr := 0, blkCount := 0 }
def block0 : CollMsg :=
  { srcMod := 1, src := 0, colour := true, dst := 0, rank := 1, toRank := 0, miss := none, again := false, gsize := 2, root := 0, op := 0, ty := 0, red := 0,
    count := 1, tag := 9, data := [0, 0, 0, 0] }
/-- A collective of two ranks, of which rank 0 is this partition. -/
def coll0 (got : KMap (List Byte)) (missed : Option Nat) : Coll :=
  { collOf State.reset at0 (thr2 0 0) [word (2 ^ 29), 1, 0xFF00000000001000, 0xFF00000000002000, 0xFF00000000003000, 0, 0, 9] [(0, 0), (1, 0)] with
    got := got, missed := missed }
def collecting (c : Coll) (s : State) : State := s.modPart 0 (fun q => { q with colls := [c] })
/-- A collective whose result lands in the page of 0x10000. -/
def landing0 (missed : Option Nat) : Coll := { coll0 [(0, [0, 0, 0, 0]), (1, [0, 0, 0, 0])] missed with dst := 0x10000, pages := [leaf0] }
def capturing (ph : CapPhase) (s : State) : State :=
  s.modPart 0 (fun q => { q with
    r := { q.r with snapctl := 0xC000000000000001 }, snap := { q.snap with phase := ph, n := 1, seen := [(peerKey 0 1, .req)] } })
/-- The cell of 0x10008. -/
def homeKey : Nat := keyMain 0 0x20010008
/-- What a request's write at its home comes to: 0 not ready, 1 ready, 2 poisoned. -/
def atHome0 (s : State) (q : RemoteReq) : Nat :=
  match remoteLeaf s q.dst q.off.toNat needRW with
  | some l =>
    match reachWrite s q.dst l 0x10008 (.step (beatless (.remoteRequest q))) with
    | .ok s1 =>
      if (if lineHits s q.dst l 0x10008 then readHome s1 q.dst homeKey q.corr else s1).linePoisoned homeKey then 2 else 1
    | _ => 0
  | none => 0

/-- The exported line of 0x10008 in its slice, dirty, and an armed injection in its way or not. -/
def dirtyHome (armed : Bool) : State :=
  ((exporting State.reset).modPart 0 (fun q => { q with slices := [{ slice0 with key := keyMain 0 0x20010000, dirty := true }] })).modRegs 0
    (fun r => { r with errinj := if armed then word (2 ^ 63 + (homeSlice 512).val * 2 ^ 21 + Machine.setOf 512 * 2 ^ 5) else 0 })
/-- The exported page captured and not yet copied; the channels are recorded in state 1 of the snapshot. -/
def exportCaught (state : Nat) : State :=
  let s := (tqHeld (exporting State.reset)).modPart 0 (fun q => { q with snap := { q.snap with table := [{ n := 1, state := state }] } })
  { s with mem := memWrite s.mem (keyMain 0 0x80000) 8 (2 ^ 62 + 2 ^ 55 + 0x20000031) }
def waitsAtHome (s : State) (q : RemoteReq) : Bool := match remotePerform s q with | .later _ => true | _ => false
def storeReq (m : BitVec 16) : RemoteReq := { loadReq m with op := .store .b64 1 }
def linkKnown (s : State) (m : BitVec 16) (p : PartId) : Bool := (s.part 0).linkKeys.contains (m, p)

/-- FabricSteps, requests: for another module, without a link key, to a closed partition, from this one and from others, arrived and not, behind a
marker of their flow, passed on and held; one that waits at its home while the channels are recorded and while they are not; a page that can be
read and written by its rights, whose line is in its slice or not, one whose word is lost as it is read, and none; a reply due with a destination
and without. -/
theorem witness_FabricSteps :
    ((loadReq 0).modid = State.reset.modid ∧ ({ loadReq 0 with modid := 3 } : RemoteReq).modid ≠ State.reset.modid ∧
      linkKnown (exporting State.reset) 1 0 = true ∧ linkKnown State.reset 1 0 = false ∧ State.reset.modid ≠ 1) ∧
    (State.reset.part 0).r.xport.getLsbD 63 = false ∧
    (((exporting State.reset).part 0).inService = true ∧ ((exporting State.reset).part 0).rst = .none ∧
      ((exporting State.reset).part 0).wipe.isSome = false ∧ ((exporting State.reset).part 0).tdisp ≠ .error ∧
      ((exporting State.reset).part 0).r.xport.getLsbD 63 = true) ∧
    (fromPeer State.reset 0 0 0 = false ∧ fromPeer State.reset 0 1 0 = true ∧ fromPeer State.reset 1 0 0 = true ∧
      peerReq.arrived = false ∧ { peerReq with arrived := true }.arrived = true) ∧
    (heldBehind (exporting State.reset) (.remoteRequest peerReq) = false ∧
      heldBehind { exporting State.reset with waiting := [.marker 0 (marker0 1)] } (.remoteRequest peerReq) = true) ∧
    (takeInput (exporting State.reset) 0 (peerKey 0 1) .req none (.remoteRequest peerReq)).isSome = true ∧
    (takeInput (capturing .contain (exporting State.reset)) 0 (peerKey 0 1) .req none (.remoteRequest peerReq)).isNone = true ∧
    (waitsAtHome (exportCaught 1) (storeReq 0) = true ∧ recording ((exportCaught 1).part 0) = true ∧
      waitsAtHome (exportCaught 2) (storeReq 0) = true ∧ recording ((exportCaught 2).part 0) = false ∧
      waitsAtHome (exporting State.reset) (storeReq 0) = false) ∧
    (remoteLeaf State.reset 0 0x10008 needR).isNone = true ∧
    (match remoteLeaf (exporting State.reset) 0 0x10008 needR with
     | some l => (match reachRead (exporting State.reset) 0 l 0x10008 8 0 with
       | .ok s1 => decide (remoteLeaf s1 0 0x10008 needR = some l ∧ (s1.part 0).r = ((exporting State.reset).part 0).r)
       | _ => false)
     | none => false) = true ∧
    (remoteLeaf (exporting State.reset) 0 0x10008 needR).map (fun l => (lineHits (exporting State.reset) 0 l 0x10008, lineHits (dirtyHome false) 0 l 0x10008)) =
      some (false, true) ∧
    (atHome0 (exporting State.reset) (loadReq 0) = 1 ∧ atHome0 (dirtyHome false) (loadReq 0) = 1 ∧ atHome0 (dirtyHome true) (loadReq 0) = 2) ∧
    ((on repliedT).thread at0 = some repliedT ∧ (repliedT.pend.map (fun x => x.dest.isSome)) = some true ∧
      (on storedT).thread at0 = some storedT ∧
      storedT.pend.map (fun x => (x.dest.isNone, decide (x.notBefore ≤ (on storedT).cycle))) = some (true, true)) := by
  refine ⟨?_, ?_, ?_, ?_, ?_, ?_, ?_, ?_, ?_, ?_, ?_, ?_, ?_⟩ <;> decide +kernel

/-- FabricSteps, collectives: a closed partition and an open one; a block held and passed on, wanted, early and missed; the word that a rank is
missing; a collective that is complete, that disagrees, that the switch reduces, and one whose page is captured; one that is late and not, and
one whose missing rank is decided. -/
theorem witness_FabricSteps_collectives :
    (let s := exporting (collecting (coll0 [] none) State.reset)
     (State.reset.part 1).tdisp = .unlocked ∧
     ((s.modPart 0 (fun q => { q with tdisp := .error })).part 0).tdisp = .error ∧
     (takeInput s 0 (peerKey 1 0) .blk (some true) (.collContribution 0 block0)).isSome = true ∧
     (takeInput (capturing .contain s) 0 (peerKey 1 0) .blk (some true) (.collContribution 0 block0)).isNone = true ∧
     (s.part 0).colls.find? (fun c => wants c block0) = some (coll0 [] none) ∧ (s.part 0).collMissed.contains (blockOf block0) = false ∧
     (State.reset.part 0).colls.find? (fun c => wants c block0) = none ∧
     ((s.modPart 0 (fun q => { q with collMissed := [blockOf block0] })).part 0).collMissed.contains (blockOf block0) = true ∧
     (s.part 0).colls.find? (fun c => forColl c { block0 with miss := some 1 } && c.missed.isNone) = some (coll0 [] none)) ∧
    (let c := coll0 [(0, [0, 0, 0, 0]), (1, [0, 0, 0, 0])] none
     let full (c : Coll) : Option Coll :=
       ((collecting c State.reset).part 0).colls.find? (fun x => x.seq == c.seq && x.got.length == x.gsize && x.missed.isNone)
     (full c = some c ∧ c.mismatch = false ∧ c.insw = false ∧ (collHeld State.reset 0 c (.step (.collComplete 0 c.seq))).isNone = true) ∧
     full { c with mismatch := true } = some { c with mismatch := true } ∧ full { c with insw := true } = some { c with insw := true } ∧
     full (landing0 none) = some (landing0 none) ∧
     (collHeld (captured0 1 State.reset) 0 (landing0 none) (.step (.collComplete 0 (landing0 none).seq))).isSome = true) ∧
    (let now (c : Coll) (t : Nat) : State := { collecting c State.reset with time := t }
     collLate (now (coll0 [] none) (2 ^ 33 * 720720)) (coll0 [] none) = true ∧ missingRank (coll0 [] none) = some 0 ∧
     collLate (now (coll0 [] none) 0) (coll0 [] none) = false ∧ (coll0 [] (some 1)).missed = some 1 ∧
     (collHeld State.reset 0 (coll0 [] (some 1)) (.step (.collTimeout 0 (coll0 [] (some 1)).seq))).isNone = true ∧
     (collHeld (captured0 1 State.reset) 0 (landing0 (some 1)) (.step (.collTimeout 0 (landing0 (some 1)).seq))).isSome = true) := by
  refine ⟨?_, ?_, ?_⟩ <;> decide +kernel

def snapState0 (n : BitVec 16) (table : List SnapEntry) (ph : CapPhase) : State :=
  (capturing ph State.reset).modPart 0 (fun q => { q with r := { q.r with snapn := n }, snap := { q.snap with table := table } })
def world0 : World :=
  { out := false, cores := [], idle := CoreWorld.reset, clusters := [], spill := [], kept := [], back := none }
def image0 : SnapImage := { world := world0, log := [], sram := [], sramFe := [], sramPoison := [] }
/-- A caddy of n units, with the manifest of snapshot 1 in its first. -/
def caddied (n : Nat) (s : State) : State :=
  let s := s.modRegs 0 (fun r => { r with caddy := 0x100000, caddyp := word (n * 2 ^ 42) })
  { s with mem := memWrite s.mem (keyMain 0 0x100000) 8 (2 ^ 48) }
/-- A snapshot that is captured, with a page that is still to be copied: the phase of the last cut, the page, and the staging frames. -/
def copying (ph : CapPhase) (l : Leaf) (frames : Nat) : State :=
  (captured0 frames State.reset).modPart 0 (fun q => { q with snap := { q.snap with phase := ph, captured := [l] } })
def toCopy (s : State) : Option Leaf := (s.part 0).snap.captured.find? (fun l => l.page == 1 && snapOf s l == 1)

/-- SnapshotSteps: a marker and a notice of a module with a link key and without; a caddy of each mode; a page that has a staging frame and one
that has none; a marker behind its flow; markers of the next number, the current one and another, for each phase and state of the last
snapshot; threads that are contained; cores that are ready; a captured page, large, steep and plain, with a frame and without; an image with
room and without; a partition with threads and without; a chain of manifests and none. (What a restore makes of its hash is not computed
here.) -/
theorem witness_SnapshotSteps :
    ((marker0 1).srcMod = State.reset.modid ∧ { marker0 1 with srcMod := 1 }.srcMod ≠ State.reset.modid ∧ linkKnown State.reset 1 1 = false ∧
      linkKnown (State.reset.modPart 0 (fun q => { q with linkKeys := [(1, 1)] })) 1 1 = true) ∧
    ((State.reset.part 0).r.caddy.getLsbD 63 = false ∧
      ((State.reset.modRegs 0 (fun r => { r with caddy := 0x8000000000000000 })).part 0).r.caddy.getLsbD 63 = true) ∧
    (((copying .idle leaf0 1).part 0).snap.staged.find? (fun e => e.1 == leaf0.page) = none ∧ leaf0.steep = false ∧ leaf1.steep = true) ∧
    (heldBehind State.reset (.marker 0 (marker0 1)) = false ∧
      heldBehind { State.reset with waiting := [.remoteRequest peerReq] } (.marker 0 (marker0 1)) = true) ∧
    (((snapState0 0 [] .idle).part 0).r.snapctl.getLsbD 63 = true ∧ nextSnap 0 = 1 ∧ nextSnap 65535 = 1 ∧ (State.reset.part 0).r.snapctl.getLsbD 63 = false) ∧
    (((snapState0 0 [] .contain).part 0).snap.phase ≠ .idle ∧ ((snapState0 0 [] .idle).part 0).snap.phase = .idle ∧
      snapState ((snapState0 1 [{ n := 1, state := 1 }] .idle).part 0) 1 = 1 ∧ snapState ((snapState0 1 [{ n := 1, state := 2 }] .idle).part 0) 1 = 2 ∧
      snapState ((snapState0 1 [{ n := 1, state := 3 }] .idle).part 0) 1 = 3) ∧
    ((State.reset.part 0).gang = .idle ∧ contained (snapState0 0 [] .contain) 0 = true ∧
      ((snapState0 0 [] .drain).part 0).coreIds.all (fun c => coreReady (snapState0 0 [] .drain) 0 c) = true ∧
      ((snapState0 0 [] .drain).part 0).clusters.all (fun e => e.2.w.run.isNone && e.2.w.drain.isEmpty) = true) ∧
    ((snapState0 1 [] .cut).part 0).snap.phase = .cut ∧
    (toCopy State.reset = none ∧ toCopy (copying .idle { leaf0 with big := true } 1) = some { leaf0 with big := true } ∧
      toCopy (copying .cut { leaf0 with steep := true } 1) = some { leaf0 with steep := true } ∧
      toCopy (copying .idle { leaf0 with steep := true } 1) = some { leaf0 with steep := true } ∧
      toCopy (copying .idle leaf0 1) = some leaf0 ∧
      toCopy (copying .idle { leaf0 with steep := true } 0) = some { leaf0 with steep := true } ∧
      freeFrame ((copying .idle leaf0 1).part 0) = some 0 ∧ freeFrame ((copying .idle leaf0 0).part 0) = none ∧
      freeFrame ((copying .idle { leaf0 with steep := true } 1).part 0) = some 0) ∧
    (let s := (snapState0 1 [{ n := 1, state := 2 }] .idle).modPart 0 (fun q => { q with snap := { q.snap with image := some image0 } })
     let x (n : Nat) := ((caddied n s).part 0).r
     let pl := planOf (caddyPtr (x 1)) (chanBytes []).length 0
     (State.reset.part 0).snap.image = none ∧ ((caddied 1 s).part 0).snap.image = some image0 ∧ ((caddied 1 s).part 0).snap.chanLog = [] ∧
     (pageImages ((caddied 1 s).part 0) 0).length = 0 ∧ snapState ((caddied 1 s).part 0) 1 = 2 ∧
     caddyRoom (x 1) < pl.stop - caddyPtr (x 1) ∧ pl.stop - caddyPtr (x 100000) ≤ caddyRoom (x 100000)) ∧
    (inhabited (on (thr2 0 0)) 0 = true ∧ inhabited State.reset 0 = false) ∧
    (let s := setRestore State.reset 0 1
     (s.part 0).r.snaprst.toNat / 2 ^ 21 % 8 = 1 ∧ (readChain s 0 65536 0 none).isNone = true ∧
     (readChain (caddied 100000 s) 0 65536 0 none).map (fun l => l.map (fun m => (m.n, m.prev))) = some [(1, 0)]) := by
  refine ⟨?_, ?_, ?_, ?_, ?_, ?_, ?_, ?_, ?_, ?_, ?_, ?_⟩ <;> decide +kernel

def sess0 (ph : SessionPhase) : Session := { phase := ph, transcript := [] }
def tdispOf (t : Tdisp) : State :=
  { State.reset.modPart 0 (fun q => { q with tdisp := t, owner := some 1 }) with
    sessions := [(1, sess0 .secured), (2, sess0 .negotiating), (3, sess0 .keyed)] }
/-- The partition in RUN with the addresses from 0 on exported. -/
def portSpan (s : State) : State := (exporting s).modPart 0 (fun q => { q with tdisp := .run })
/-- The page that is exported, captured and not yet copied. -/
def exportHeld : State :=
  let s := tqHeld (portSpan State.reset)
  { s with mem := memWrite s.mem (keyMain 0 0x80000) 8 (2 ^ 62 + 2 ^ 55 + 0x20000031) }
def spanAt (off : Nat) : BitVec 64 := BitVec.ofNat 64 (0x10000000 * 2 ^ 32 + off)
/-- What the pieces of a read come to: 1 bytes, 2 a poisoned line. -/
def readsAs (s : State) (a : BitVec 64) (n : Nat) : Nat :=
  match hostPieces s 0 a n needR with
  | some ps => (match readHostPieces 0 ps [] s with | .data _ _ => 1 | .poisoned _ => 2 | .later _ => 3)
  | none => 0
/-- What a write of pieces meets: 1 a held page, 2 homes that are ready, 3 ones that are not. -/
def writesAs (s : State) (a : BitVec 64) (n : Nat) : Nat :=
  let me : Instr := .hostAccess 0 a (.write (List.replicate n 0))
  match hostPieces s 0 a n needW with
  | some ps =>
    (match ps.findSome? (pieceHeld s 0 (.step me)) with
     | some _ => 1
     | none => (match reachPieces 0 ps (ps.foldl (fun s x => piecePassed s 0 (.step me) x) s) with | .ok _ => 2 | .error _ => 3))
  | none => 0

/-- HostSteps, accesses: a port that is not open and one that is; an access behind another; offsets without conditions met, with a page of the
exported span lost and without; a poisoned line and a
clean one; a SEAL word with an entry into ERROR due and not; reads that give bytes and that meet poison; writes that are held and that go on;
and an atomic's one piece. -/
theorem witness_HostSteps :
    ((State.reset.part 0).tdisp ≠ .run ∧ ((tdispOf .run).part 0).tdisp = .run ∧ ((tdispOf .run).part 0).inService = true ∧
      ((tdispOf .run).part 0).rst = .none ∧ ((tdispOf .run).part 0).wipe = none) ∧
    (heldBehind (tdispOf .run) (.hostAccess 0 0 (.read 8)) = false ∧
      heldBehind { tdispOf .run with waiting := [.hostAccess 0 64 (.read 8)] } (.hostAccess 0 0 (.read 8)) = true) ∧
    ((hostPieces (portSpan State.reset) 0 (spanAt 0x30000000) 8 needR).isNone = true ∧
      ((sectorPieces ((spanAt 0x30000000).toNat % 2 ^ 32) 8).find? (fun x => (remoteLeaf (portSpan State.reset) 0 x.1 needR).isNone)).isSome = true ∧
      (spanAt 0x30000000).toNat / 2 ^ 32 = 0x10000000 ∧ (0x100000 : BitVec 64).toNat / 2 ^ 32 ≠ 0x10000000 ∧
      ((portSpan State.reset).part 0).r.xport.getLsbD 63 = true ∧ ((tdispOf .run).part 0).r.xport.getLsbD 63 = false) ∧
    ((hostPieces (tdispOf .run) 0 0x100000 1 needR).isNone = true ∧ (hostPieces (tdispOf .run) 0 0xFFFFF 1 needR).isSome = true ∧
      (12 : BitVec 64).toNat % (hostShape (.atomic .add .w64 1 0)).2.2 ≠ 0 ∧ (3 : BitVec 64).toNat % (hostShape (.read 1)).2.2 = 0) ∧
    ((hostPieces (tdispOf .run) 0 0 64 needW).map (fun ps => (ps.any (fun x => (tdispOf .run).linePoisoned x.key),
      ps.any (fun x => ((tdispOf .run).poisonLine (keyMain 0 0)).linePoisoned x.key))) = some (false, true)) ∧
    (bringsError 0 (.configChange 0 none) = true ∧ (tdispOf .run).events.any (bringsError 0) = false) ∧
    (readsAs (tdispOf .run) 0 64 = 1 ∧ readsAs (portSpan State.reset) (spanAt 0x10008) 100 = 1 ∧
      readsAs ((portSpan State.reset).poisonLine homeKey) (spanAt 0x10008) 8 = 2) ∧
    (writesAs (tdispOf .run) 0 64 = 2 ∧ writesAs (portSpan State.reset) (spanAt 0x10008) 8 = 2 ∧
      writesAs exportHeld (spanAt 0x10008) 8 = 1) ∧
    ((hostPieces (tdispOf .run) 0 8 8 needRW).map (fun ps => ps.length) = some 1 ∧ (8 : BitVec 64).toNat % (hostShape (.atomic .add .w64 1 0)).2.2 = 0) := by
  refine ⟨?_, ?_, ?_, ?_, ?_, ?_, ?_, ?_, ?_⟩ <;> decide +kernel

/-- HostSteps, messages: a bring-up that has reached its end and one that has not; a partition that serves, one that entered service in this
cycle, and one that the bring-up has left out; each state of a session and none; an owner, another owner and none; each TDISP state, out of service and under a wipe; a
wipe for a LOCK and a STOP, during a reset and not; the indexes of measurements. -/
theorem witness_HostSteps_messages :
    (State.reset.bringUp = 16 ∧ ({ State.reset with bringUp := 17 } : State).bringUp ≠ 16) ∧
    (let at_ (x : Option Nat) (b : Bool) : Partition := (State.reset.modPart 0 (fun q => { q with serviceAt := x, inService := b })).part 0
     (State.reset.part 0).serviceAt ≠ some State.reset.cycle ∧ (at_ (some 0) true).serviceAt = some State.reset.cycle ∧
     (at_ none false).inService = false ∧ (0 : PartId).val < State.reset.bringUp ∧ State.reset.bringUp ≤ 16) ∧
    (∀ b : Bool, (((tdispOf .locked).modPart 0 (fun q => { q with wipe := if b then some { lock := true, sess := 1 } else none })).part 0).wipe.isSome = b) ∧
    (kget (tdispOf .run).sessions 1 = some (sess0 .secured) ∧ kget (tdispOf .run).sessions 2 = some (sess0 .negotiating) ∧
      kget (tdispOf .run).sessions 3 = some (sess0 .keyed) ∧ kget (tdispOf .run).sessions 4 = none) ∧
    (((tdispOf .run).part 0).owner = some 1 ∧ ((tdispOf .run).part 0).owner ≠ some 2 ∧ (State.reset.part 0).owner = none) ∧
    (((tdispOf .locked).part 0).tdisp = .locked ∧ ((tdispOf .unlocked).part 0).tdisp = .unlocked ∧ ((tdispOf .error).part 0).tdisp = .error) ∧
    ((State.reset.part 0).inService = true ∧ ((State.reset.modPart 0 (fun q => { q with inService := false })).part 0).inService = false) ∧
    (∀ b : Bool, (((tdispOf .unlocked).modPart 0 (fun q => { q with wipe := some { lock := b, sess := 1 } })).part 0).wipe =
      some { lock := b, sess := 1 }) ∧
    ((State.reset.part 0).wipe = none ∧ (State.reset.part 0).rst = .none ∧ ResetPhase.wiped ≠ .none) ∧
    (1 ≤ (4 : Nat) ∧ ¬ (1 ≤ (0 : Nat) ∧ (0 : Nat) ≤ 4)) := by
  refine ⟨?_, ?_, ?_, ?_, ?_, ?_, ?_, ?_, ?_, ?_⟩ <;> decide +kernel

def bound0 : State := State.reset.modCoreW 0 1 (fun w => { w with tbind := 0x8000000000000000 })
/-- A dump of the links that waits to be written. -/
def dumped0 : LinkDump := { ts := 0, ctl := 0, base := 0, grid := [] }
/-- What the write of a unit comes to: 0 no translation, 1 held, 2 a cell. -/
def unitAt (s : State) (a : Word) : Nat :=
  match unitWrite s 0 a (.linkInterval 0) with
  | .bad _ => 0
  | .held _ => 1
  | .ok _ _ => 2
/-- MonitorSteps: a binding that is accepted and one that is not; a worker with its log drained and not; a taster's LOGVIO for a thread that is
there with its record not yet acknowledged, already begun, and for none; a link interval that is due and not, with dumps and none, whose base can
be reached, is captured, and is not mapped; a counter at its end, with the counters on and off; a trace unit that is active, with sync records
and without. -/
theorem witness_MonitorSteps :
    (bindOk State.reset 0 1 0x8000000000000000 = true ∧ corePut (tasterOf 0x8000000000000000) = some 0) ∧
    bindOk State.reset 0 0 0x8000000000000000 = false ∧
    (bound0.watched 0 1 = true ∧ logDrained bound0 0 1 = true ∧
      logDrained (bound0.modCoreW 0 1 (fun w => { w with log := { w.log with seq := 1 } })) 0 1 = false) ∧
    (workerOf State.reset 0 0 = none ∧ workerOf bound0 0 0 = some 1) ∧
    (let s := bound0.setThread ⟨0, 1, 2⟩ (thr2 0 0)
     let v : Word := word (2 * 2 ^ 36 + 1)
     s.thread ⟨0, 1, Fin.ofNat 16 (v.toNat / 2 ^ 36 % 16)⟩ = some (thr2 0 0) ∧ seqGt (v.toNat % 2 ^ 32) (ackBefore s 0 0) = true ∧
     kget (s.core 0 1).w.log.starts 2 = none ∧ seqGt ((word (2 * 2 ^ 36)).toNat % 2 ^ 32) (ackBefore s 0 0) = false ∧
     seqGt 2 1 = true) ∧
    (linkDue State.reset 0 = false ∧
      (let s := { State.reset.modRegs 0 (fun r => { r with lnkctl := 0xD000000000000000 }) with cycle := 2 ^ 60 }
       linkDue s 0 = true ∧ (State.reset.part 0).grid = [] ∧
       ((State.reset.modPart 0 (fun q => { q with grid := [dumped0] })).part 0).grid = dumped0 :: [] ∧
       (s.part 0).tdisp ≠ .error ∧ ((s.modPart 0 (fun q => { q with tdisp := .error })).part 0).tdisp = .error ∧
       unitAt s 0x10000 = 0 ∧ unitAt (paged s) 0x10000 = 2 ∧ unitAt (tqHeld (paged s)) 0x10000 = 1)) ∧
    (((((State.reset.modCoreW 0 0 (fun w => { w with pcnt := Vector.replicate 4 0xFFFFFFFFFFFF })).core 0 0).w.pcnt[0]).toNat % 2 ^ 48 = 2 ^ 48 - 1) ∧
      (State.reset.part 0).r.perfctl.getLsbD 3 = true ∧ ((State.reset.modRegs 0 (fun r => { r with perfctl := 0 })).part 0).r.perfctl.getLsbD 3 = false ∧
      (State.reset.part 0).gang = .idle ∧ State.reset.mtsWas 0 0 (.pcnt 0) = none ∧
      State.reset.counting 0 = true ∧ (State.reset.modRegs 0 (fun r => { r with perfctl := 0 })).counting 0 = false) ∧
    ((((State.reset.modCoreW 0 0 (fun w => { w with trcctl := 0x1000000000000001 })).core 0 0).w.trcctl.getLsbD 60 = true ∧
      ((State.reset.modCoreW 0 0 (fun w => { w with trcctl := 0x1000000000000001 })).core 0 0).w.trcctl.getLsbD 0 = true) ∧
      (State.reset.core 0 0).w.trcctl.getLsbD 60 = false ∧
      ((State.reset.modCoreW 0 0 (fun w => { w with trcctl := 0x1000000000000000 })).core 0 0).w.trcctl.getLsbD 0 = false) ∧
    (SysReg.tid ≠ .modid ∧ SysReg.tid ≠ .vfsel ∧ SysReg.tid ≠ .tbind ∧ (∀ j, SysReg.tid ≠ .shcnt j)) := by
  refine ⟨?_, ?_, ?_, ?_, ?_, ?_, ?_, ?_, ?_⟩ <;> decide +kernel

/-- DecodeEncode, EncodeDecode: a well-formed instruction with a word, with every field at its largest value. -/
theorem witness_DecodeEncode : (Instr.exts 15 ⟨15, true⟩ 63 0).wf = true ∧ (encode (.exts 15 ⟨15, true⟩ 63 0)).isSome = true := by decide
theorem witness_EncodeDecode : decodeWord 0xC4428307 = .ok (.exts 4 ⟨5, false⟩ 12 7) := by decide

/-! ## What instructions do: the spec's tables and worked examples -/

/-- The state after an instruction's reply has come, where it awaits one. -/
def replied (s : State) : State :=
  match exec (.memoryReply at0 none) { s with cycle := s.cycle + 100 } with
  | .next u => u
  | _ => s

/-- A register of the thread and its STATUS after an instruction that runs with g1 to g3 as given and g4 zero. -/
def outcome (i : Instr) (d : Reg) (x y z : Word) : Option (Word × Word) :=
  match exec i (on (thr 2 x y z)) with
  | .next s => ((replied s).thread at0).map (fun t => (t.regs.g[d], t.status &&& 0x1F))
  | _ => none
def gives (i : Instr) (x y : Word) : Option Word := (outcome i 4 x y 0).map (fun e => e.1)

/-- The table of R92: 7 and 2, −7 and 2, 7 and −2, a zero divisor, the overflow, in the order DIV, REM, DIVZ, REMZ. -/
theorem test_division_table :
    ([(7, 2), (-7, 2), (7, -2), (9, 0), (0x8000000000000000, -1)] : List (Word × Word)).map (fun e =>
      [gives (.div 4 r1 r2) e.1 e.2, gives (.rem 4 r1 r2) e.1 e.2, gives (.divz 4 r1 r2) e.1 e.2, gives (.remz 4 r1 r2) e.1 e.2]) =
    ([[3, 1, 3, 1], [-3, -1, 0x7FFFFFFFFFFFFFFC, 1], [-3, 1, 0, 7], [-1, 9, 0xFFFFFFFFFFFFFFFF, 9],
      [0x8000000000000000, 0, 0, 0x8000000000000000]] : List (List Word)).map (fun l => l.map some) := by
  decide +kernel

/-- The example of R91: x = 0b1011, y = 0b0111: CLMUL 0x31, CLMULH 0, MUL 77. -/
theorem test_clmul_example :
    [gives (.clmul 4 r1 r2) 0b1011 0b0111, gives (.clmulh 4 r1 r2) 0b1011 0b0111, gives (.mul 4 r1 r2) 0b1011 0b0111] = [some 0x31, some 0, some 77] := by
  decide +kernel

/-- The worked fragment of the chapter on floating point: FMUL of 1 + 2^−12 by itself is 0x3F801000 with NX (STATUS bit 0); FMS of it
leaves 0xB3800000 with no flag; that is below zero. -/
theorem test_float_fragment :
    outcome (.fmul .f32 4 r1 r1) 4 0x3F800800 0 0 = some (0x3F801000, 1) ∧
    outcome (.fms .f32 3 r1 r1) 3 0x3F800800 0 0x3F801000 = some (0xB3800000, 0) ∧
    outcome (.fcmp .f32 .lt 4 r1 r2) 4 0xB3800000 0 0 = some (1, 0) := by
  decide +kernel

/-- R95, R96: fields at the top of a register, a bit set by LIH above the rest. -/
theorem test_fields :
    gives (.exts 4 r1 60 3) 0x8000000000000000 0 = some 0xFFFFFFFFFFFFFFF8 ∧ gives (.extz 4 r1 60 3) 0x8000000000000000 0 = some 8 ∧
    (outcome (.ins 3 r1 60 3) 3 0x1F 0 1).map (fun e => e.1) = some 0xF000000000000001 ∧
    gives (.li 4 0x80000) 0 0 = some 0xFFFFFFFFFFF80000 ∧ (outcome (.lih 3 3 0x8000) 3 0 0 5).map (fun e => e.1) = some 0x8000000000000005 := by
  decide +kernel

/-- R94: the byte order and the bit counts of 0x0123456789ABCDEF. -/
theorem test_bits :
    [gives (.clz 4 r1) 0x0123456789ABCDEF 0, gives (.ctz 4 r1) 0x0123456789ABCDE0 0, gives (.popc 4 r1) 0x0123456789ABCDEF 0,
     gives (.bswap 4 r1) 0x0123456789ABCDEF 0, gives (.brev 4 r1) 1 0, gives (.clz 4 r1) 0 0, gives (.ctz 4 r1) 0 0] =
    [some 7, some 5, some 32, some 0xEFCDAB8967452301, some 0x8000000000000000, some 64, some 64] := by
  decide +kernel

/-- R104, R105, R107: a division of zero by zero, a square root below zero, zeros that compare equal, the class of −0. -/
theorem test_float_corners :
    [outcome (.fdiv .f32 4 r1 r2) 4 0 0 0, outcome (.fdiv .f32 4 r1 r2) 4 0x3F800000 0 0, outcome (.fsqrt .f32 4 r1) 4 0xBF800000 0 0,
     outcome (.fsqrt .f32 4 r1) 4 0x80000000 0 0, outcome (.fmin .f32 4 r1 r2) 4 0 0x80000000 0, outcome (.fclass .f32 4 r1) 4 0x80000000 0 0] =
    [some (0x7FC00000, 16), some (0x7F800000, 8), some (0x7FC00000, 16), some (0x80000000, 0), some (0x80000000, 0), some (8, 0)] := by
  decide +kernel

/-- R110: a call leaves the address that follows in g15; a branch that is not taken goes on. -/
theorem test_transfers :
    (match exec (.call 0x10) (on (thr2 0 0)) with
      | .next s => (s.thread at0).map (fun t => (t.pc, t.regs.g[(15 : Reg)]))
      | _ => none) = some (0x10040, 0x10004) ∧
    (match exec (.bcc .lt r1 0x7FFF) (on (thr2 (-1) 0)) with
      | .next s => (s.thread at0).map (fun t => t.pc)
      | _ => none) = some 0xFFFC ∧
    (match exec (.bz r1 4) (on (thr2 1 0)) with
      | .next s => (s.thread at0).map (fun t => t.pc)
      | _ => none) = some 0x10004 := by
  decide +kernel

/-- R115, R193: a store to the TCM and a load that sign-extends its second byte. -/
theorem test_store_load :
    (match exec (.st16 2 r1 2) (on (thr2 0xFF00000000000010 0x8001)) with
      | .next s => (match exec (.ldS8 4 r1 3) { replied s with cur := (on (thr2 0 0)).cur } with
        | .next s => ((replied s).thread at0).map (fun t => (t.regs.g[(4 : Reg)], s.readMem (keyTcm 0 0 0x10) 8))
        | _ => none)
      | _ => none) = some (0xFFFFFFFFFFFFFF80, 0x80010000) := by
  decide +kernel

/-- R149: STS fills an empty word and LDS empties it again. -/
theorem test_full_empty :
    (match exec (.sts 2 r1 0) (on (thr2 0xFF00000000000010 7)) with
      | .next s => (match exec (.lds 4 r1 0) { replied s with cur := (on (thr2 0 0)).cur } with
        | .next u => ((replied u).thread at0).map (fun t => (s.fullBit (keyTcm 0 0 0x10), t.regs.g[(4 : Reg)], u.fullBit (keyTcm 0 0 0x10)))
        | _ => none)
      | _ => none) = some (true, 7, false) := by
  decide +kernel

/-- R164: a 32-bit MIN returns the old value sign-extended and leaves the lesser. -/
theorem test_amo_min :
    (match exec (.amo .min .w32 4 r1 r2) (onWith (fun s => { s with mem := memWrite [] (keyTcm 0 0 0x10) 4 0xFFFFFFFE }) (thr2 0xFF00000000000010 3)) with
      | .next s => ((replied s).thread at0).map (fun t => (t.regs.g[(4 : Reg)], s.readMem (keyTcm 0 0 0x10) 8))
      | _ => none) = some (0xFFFFFFFFFFFFFFFE, 0xFFFFFFFE) := by
  decide +kernel

/-- R309, R311: a privilege fault with a handler: ECAUSE.ACTIVE, EPC the word's own address; a TRAP's is the address after it. -/
theorem test_trap_entry :
    (match exec (.park r1) (handled 0x20000 (thr2 0 0)) with
      | .next s => (s.thread at0).map (fun t => (t.pc, t.epc, t.ecause.getLsbD 63))
      | _ => none) = some (0x20000, 0x10000, true) ∧
    (match exec (.trap 3) (handled 0x20000 (thr2 0 0)) with
      | .next s => (s.thread at0).map (fun t => (t.pc, t.epc))
      | _ => none) = some (0x20000, 0x10004) := by
  decide +kernel

/-- R180: a lane-wise subtraction that wraps, and a shift by the lane's width. -/
theorem test_vector :
    (match exec (.vsub .s8 none 1 0 2) (on { thr2 0 0 with v := #v[5, 0, 6, 0, 0, 0, 0, 0] }) with
      | .next s => (s.thread at0).map (fun t => t.v[(1 : VReg)])
      | _ => none) = some 0xFF ∧
    (match exec (.vshr .s8 none 1 0 2) (on { thr2 0 0 with v := #v[0x80, 0, 8, 0, 0, 0, 0, 0] }) with
      | .next s => (s.thread at0).map (fun t => t.v[(1 : VReg)])
      | _ => none) = some 0xFF := by
  decide +kernel

end Sys2Proof.Tests
end

section
/-! SUPPORT. Transfers of control (07 R110 to R112): what a taken transfer commits, where a bad target faults, and a branch that goes on. -/
namespace Sys2Proof.Machine

/-! ## The trace unit beside a commit (R418) -/

@[simp] theorem State.thread_traceRec (s : State) (r : TRef) (k : Nat) (pc : Word) (corr : BitVec 32) (r' : TRef) :
    (s.traceRec r k pc corr).thread r' = s.thread r' := by
  simp only [State.traceRec]
  split
  · exact State.thread_modCoreC _ _ _ _ _
  · rfl

@[simp] theorem State.events_traceRec (s : State) (r : TRef) (k : Nat) (pc : Word) (corr : BitVec 32) :
    (s.traceRec r k pc corr).events = s.events := by
  simp only [State.traceRec]
  split <;> rfl

/-! ## The commit of a taken transfer -/

/-- A commit that writes general registers, with their records, and nothing else. -/
def Commit.RegsOnly (c : Commit) : Prop :=
  c = { Commit.none with regs := c.regs, log := c.log } ∧ c.log.all LogItem.plain = true

theorem Commit.none_regsOnly : Commit.none.RegsOnly := ⟨rfl, rfl⟩
theorem Commit.reg_regsOnly (d : Reg) (v : Word) : (Commit.reg d v).RegsOnly := ⟨rfl, rfl⟩

/-- A bundle that transfers commits its thread as every bundle does; on an unwatched core the trace unit may have noted the transfer (R418),
and nothing else has changed. -/
theorem commitAt_flow (s : State) (r : TRef) (t : Thread) (size : Nat) (ws : List (BitVec 32)) (c : Commit) (ht : s.thread r = some t)
    (hp : c.log.all LogItem.plain = true) (hf : c.log.any LogItem.isFlow = true) :
    (commitAt s r size ws c).thread r = some (commitThread t s.cycle size ws c) ∧
    (s.watched r.part r.core = false → commitAt s r size ws c =
      ((s.setThread r (commitThread t s.cycle size ws c)).traceRec r 1 t.pc t.corr).withEvents
        ((if t.migrate.isSome then [.migration r] else []) ++ s.events)) := by
  have key : commitAt s r size ws c =
      State.withEvents ((logItems (s.setThread r (commitThread t s.cycle size ws c)) r t.pc c.log).traceRec r 1 t.pc t.corr)
        ((if t.migrate.isSome then [.migration r] else []) ++
          ((logItems (s.setThread r (commitThread t s.cycle size ws c)) r t.pc c.log).traceRec r 1 t.pc t.corr).events) := by
    simp only [commitAt, ht, hf, if_true, State.withEvents]
    split <;> rfl
  refine ⟨?_, fun hw => ?_⟩
  · rw [key, State.thread_withEvents, State.thread_traceRec, logItems_keep _ _ _ _ (.inl hp), State.thread_setThread]
  · rw [key, logItems_unwatched _ _ _ _ (by rw [State.watched_setThread]; exact hw), State.events_traceRec]
    rfl

/-- A lone word that comes to a commit of registers with a target has transferred (R110). -/
theorem Commits.transfers {s : State} {t : Thread} {srcs : List Src} {o : Out} {c : Commit} {target : Word} (h : Ready s t srcs)
    (hc : Commits s s srcs o { c with target := some target, log := c.log ++ [.flow target] }) (hr : c.RegsOnly) :
    Transfers s t srcs o c.regs target := by
  obtain ⟨he, hp⟩ := hr
  have hlat : c.lat = 0 := by rw [he]; rfl
  simp only [Commits, commitIn, hlat, Nat.add_zero, Nat.le_refl, if_true] at hc
  obtain ⟨hthread, hstate⟩ := commitAt_flow s s.cur.at_ t s.cur.size s.cur.words
    { c with target := some target, log := c.log ++ [.flow target], clears := c.clears ++ syncRegs srcs } h.1
    (by simp [hp, LogItem.plain]) (by simp [LogItem.isFlow])
  have hafter := (commitThread_after s t srcs { c with target := some target, log := c.log ++ [.flow target] }).log []
  refine ⟨_, _, hc, hthread, ?_, hstate⟩
  rw [he] at hafter ⊢
  exact hafter

/-! ## The words that transfer -/

section
variable {s : State} {t : Thread} {srcs : List Src} {f : TRef → Thread → State → Res} {c : Commit} {target : Word} (h : Ready s t srcs)
include h

/-- A word that comes to a transfer makes it where the target is canonical, and takes the address fault with EADDR the target where it is
not (R110, R112). -/
theorem takeTarget_outcome (hf : f s.cur.at_ t s = takeTarget c target s) (hr : c.RegsOnly) :
    (canonical target = true → Transfers s t srcs (runWord srcs f s) c.regs target) ∧
    (canonical target = false → Faults s s (runWord srcs f s) .address (some target)) := by
  unfold takeTarget at hf
  refine ⟨fun ht => ?_, fun ht => ?_⟩
  · rw [if_pos ht] at hf
    exact (runWord_commits h hf).transfers h hr
  · rw [if_neg (by simp [ht])] at hf
    exact runWord_faults h hf

/-- A register target whose low bits are not zero takes the alignment fault before anything else is looked at; another is taken as any
target is (R54, R112). -/
theorem takeRegTarget_outcome (hf : f s.cur.at_ t s = takeRegTarget c target s) (hr : c.RegsOnly) :
    (target.toNat % 4 = 0 → canonical target = true → Transfers s t srcs (runWord srcs f s) c.regs target) ∧
    (target.toNat % 4 ≠ 0 → Faults s s (runWord srcs f s) .alignment (some target)) ∧
    (target.toNat % 4 = 0 → canonical target = false → Faults s s (runWord srcs f s) .address (some target)) := by
  unfold takeRegTarget at hf
  have aligned (hx : target.toNat % 4 = 0) := takeTarget_outcome h (hf.trans (if_neg (by simp [hx]))) hr
  refine ⟨fun hx => (aligned hx).1, fun hx => ?_, fun hx => (aligned hx).2⟩
  rw [if_pos (by simpa using hx)] at hf
  exact runWord_faults h hf

end

section
variable {s : State} {t : Thread} {a : Src} (h : Ready s t [a]) (cond : Word → Bool) (o : BitVec 15)
include h

/-- A branch whose condition holds is a transfer to its target. -/
theorem branchWord_taken (hc : cond (t.rd a) = true) :
    (canonical (relTarget t.pc o) = true → Transfers s t [a] (branchWord cond a o s) [] (relTarget t.pc o)) ∧
    (canonical (relTarget t.pc o) = false → Faults s s (branchWord cond a o s) .address (some (relTarget t.pc o))) :=
  takeTarget_outcome h (if_pos hc) Commit.none_regsOnly

/-- A branch whose condition fails goes on to the bundle that follows, whatever its target (R112). -/
theorem branchWord_notTaken (hc : cond (t.rd a) = false) : Completes s t [a] (branchWord cond a o s) Commit.none := by
  have he : branchWord cond a o s = runPure [a] (fun _ => Commit.none) s := by
    rw [branchWord, runPure, runWord_ready h, runWord_ready h, if_neg (by simp [hc])]
  rw [he]
  exact runPure_completes h (fun _ => Commit.none) rfl rfl

end

/-! ## B and CALL, JMP and CALLR -/

section
variable {s : State} {t : Thread}

/-- B and CALL go to the same far target; CALL leaves the address of the bundle that follows in g15 (R110). -/
theorem execB_outcome (h : Ready s t []) (off : BitVec 20) :
    (canonical (relTarget t.pc off) = true → Transfers s t [] (execB off s) [] (relTarget t.pc off)) ∧
    (canonical (relTarget t.pc off) = false → Faults s s (execB off s) .address (some (relTarget t.pc off))) :=
  takeTarget_outcome h (f := fun _ t s => takeTarget Commit.none (relTarget t.pc off) s) rfl Commit.none_regsOnly

theorem execCall_outcome (h : Ready s t []) (off : BitVec 20) :
    (canonical (relTarget t.pc off) = true → Transfers s t [] (execCall off s) [(15, followPc t s)] (relTarget t.pc off)) ∧
    (canonical (relTarget t.pc off) = false → Faults s s (execCall off s) .address (some (relTarget t.pc off))) :=
  takeTarget_outcome h (f := fun _ t s => takeTarget (Commit.reg 15 (followPc t s)) (relTarget t.pc off) s) rfl (Commit.reg_regsOnly _ _)

/-- JMP and CALLR go to the value of their register; CALLR leaves the address of the bundle that follows in g15 (R110). -/
theorem execJmp_outcome {a : Src} (h : Ready s t [a]) :
    ((t.rd a).toNat % 4 = 0 → canonical (t.rd a) = true → Transfers s t [a] (execJmp a s) [] (t.rd a)) ∧
    ((t.rd a).toNat % 4 ≠ 0 → Faults s s (execJmp a s) .alignment (some (t.rd a))) ∧
    ((t.rd a).toNat % 4 = 0 → canonical (t.rd a) = false → Faults s s (execJmp a s) .address (some (t.rd a))) :=
  takeRegTarget_outcome h (f := fun _ t s => takeRegTarget Commit.none (t.rd a) s) rfl Commit.none_regsOnly

theorem execCallr_outcome {a : Src} (h : Ready s t [a]) :
    ((t.rd a).toNat % 4 = 0 → canonical (t.rd a) = true → Transfers s t [a] (execCallr a s) [(15, followPc t s)] (t.rd a)) ∧
    ((t.rd a).toNat % 4 ≠ 0 → Faults s s (execCallr a s) .alignment (some (t.rd a))) ∧
    ((t.rd a).toNat % 4 = 0 → canonical (t.rd a) = false → Faults s s (execCallr a s) .address (some (t.rd a))) :=
  takeRegTarget_outcome h (f := fun _ t s => takeRegTarget (Commit.reg 15 (followPc t s)) (t.rd a) s) rfl (Commit.reg_regsOnly _ _)

end

end Sys2Proof.Machine

open Sys2Proof Sys2Proof.Machine

/-- Settles O17: a transfer is the check of its target and then a commit, and a branch chooses between that and a bare commit. -/
theorem transferResults : Obligations.TransferResults := by
  intro s t a off o c f far near x cond
  refine ⟨fun h => ⟨runPure_completes h (fun _ => Commit.none) rfl rfl, fun ht => ⟨?_, ?_⟩, fun ht => ⟨?_, ?_⟩⟩, fun h => ?_⟩
  · exact (execB_outcome h off).1 ht
  · exact (execCall_outcome h off).1 ht
  · exact (execB_outcome h off).2 ht
  · exact (execCall_outcome h off).2 ht
  · have hcond : c.holds x = true ↔ cond := by cases c <;> exact decide_eq_true_iff
    have bz (hx : x = 0) := branchWord_taken h (fun x => x == 0) o (by simpa using hx)
    have bnz (hx : x ≠ 0) := branchWord_taken h (fun x => x != 0) o (by simpa using hx)
    have bcc (hx : cond) := branchWord_taken h c.holds o (hcond.mpr hx)
    obtain ⟨jmpGoes, jmpMisaligned, jmpFar⟩ := execJmp_outcome h
    obtain ⟨callGoes, callMisaligned, callFar⟩ := execCallr_outcome h
    exact ⟨fun hx => (bz hx).1, fun hx => (bz hx).2,
      fun hx => branchWord_notTaken h (fun x => x == 0) o (by simpa using hx),
      fun hx => (bnz hx).1, fun hx => (bnz hx).2,
      fun hx => branchWord_notTaken h (fun x => x != 0) o (by simpa using hx),
      fun hx => (bcc hx).1, fun hx => (bcc hx).2,
      fun hx => branchWord_notTaken h c.holds o (Bool.eq_false_iff.mpr (mt hcond.mp hx)),
      fun hx ht => ⟨jmpGoes hx ht, callGoes hx ht⟩, fun hx => ⟨jmpMisaligned hx, callMisaligned hx⟩,
      fun hx ht => ⟨jmpFar hx ht, callFar hx ht⟩⟩
end

section
/-! SUPPORT. Rounding to nearest even (05 R61, R64) over the reals: what a rounding at a fixed unit gives, the values of the codes of a format and the
distance between neighbours, and that the code delivered is the nearest one. The formats are any with a mantissa bit. -/
namespace Sys2Proof.Machine

/-! ## Magnitudes given with a sticky bit -/

/-- The real number that m · 2^e, and a bit more where `st` holds (less than one unit of m), stands for. -/
def Encloses (m : Nat) (e : Int) (st : Bool) (v : ℝ) : Prop :=
  if st = true then (m : ℝ) * 2 ^ e < v ∧ v < ((m : ℝ) + 1) * 2 ^ e else v = (m : ℝ) * 2 ^ e

theorem zpow_pos_two (q : Int) : (0 : ℝ) < 2 ^ q := zpow_pos (by norm_num) q

theorem Encloses.le {m : Nat} {e : Int} {st : Bool} {v : ℝ} (h : Encloses m e st v) : (m : ℝ) * 2 ^ e ≤ v := by
  cases st with
  | false => exact (show v = _ from h).ge
  | true => exact (show _ ∧ _ from h).1.le

theorem Encloses.lt {m : Nat} {e : Int} {st : Bool} {v : ℝ} (h : Encloses m e st v) : v < ((m : ℝ) + 1) * 2 ^ e := by
  cases st with
  | false =>
    rw [show v = (m : ℝ) * 2 ^ e from h]
    have := zpow_pos_two e
    linarith
  | true => exact (show _ ∧ _ from h).2

/-- The fraction of one unit of m that the sticky bit stands for. -/
theorem Encloses.fraction {m : Nat} {e : Int} {st : Bool} {v : ℝ} (h : Encloses m e st v) :
    ∃ d : ℝ, v = ((m : ℝ) + d) * 2 ^ e ∧ 0 ≤ d ∧ d < 1 ∧ (d = 0 ↔ st = false) := by
  have he := zpow_pos_two e
  refine ⟨v / 2 ^ e - m, by field_simp; ring, ?_, ?_, ?_⟩
  · have := (le_div_iff₀ he).mpr h.le; linarith
  · have := (div_lt_iff₀ he).mpr h.lt; linarith
  · cases st with
    | false =>
      have hv : v = (m : ℝ) * 2 ^ e := h
      simp [hv, he.ne']
    | true =>
      have hv : (m : ℝ) * 2 ^ e < v := (show _ ∧ _ from h).1
      have := (lt_div_iff₀ he).mpr hv
      simpa using (sub_pos.mpr this).ne'

theorem encloses_exact (m : Nat) (e : Int) : Encloses m e false ((m : ℝ) * 2 ^ e) := rfl

/-- A quotient rounded down, with what is left over as the sticky bit. -/
theorem encloses_div (a : Nat) {b : Nat} (hb : 0 < b) (e : Int) : Encloses (a / b) e (a % b != 0) ((a : ℝ) / b * 2 ^ e) := by
  have he := zpow_pos_two e
  have hb' : (0 : ℝ) < b := by exact_mod_cast hb
  have hab : (a : ℝ) = b * (a / b : Nat) + (a % b : Nat) := by exact_mod_cast (Nat.div_add_mod a b).symm
  have hlt : ((a % b : Nat) : ℝ) < b := by exact_mod_cast Nat.mod_lt a hb
  unfold Encloses
  split
  · rename_i h
    have hpos : (0 : ℝ) < (a % b : Nat) := by exact_mod_cast Nat.pos_of_ne_zero (by simpa using h)
    refine ⟨mul_lt_mul_of_pos_right ((lt_div_iff₀ hb').mpr ?_) he, mul_lt_mul_of_pos_right ((div_lt_iff₀ hb').mpr ?_) he⟩ <;> nlinarith
  · rename_i h
    have hzero : a % b = 0 := by simpa using h
    rw [hzero, Nat.cast_zero, add_zero] at hab
    rw [hab, mul_div_cancel_left₀ _ hb'.ne']

/-- An integer square root, with whether it is inexact as the sticky bit. -/
theorem encloses_sqrt (a : Nat) (e : Int) :
    Encloses (Nat.sqrt a) e (Nat.sqrt a * Nat.sqrt a != a) (Real.sqrt a * 2 ^ e) := by
  have he := zpow_pos_two e
  have hle : ((Nat.sqrt a : Nat) : ℝ) ≤ Real.sqrt a := Real.nat_sqrt_le_real_sqrt
  have hlt : Real.sqrt a < (Nat.sqrt a : Nat) + 1 := Real.real_sqrt_lt_nat_sqrt_succ
  unfold Encloses
  split
  · rename_i h
    refine ⟨mul_lt_mul_of_pos_right (lt_of_le_of_ne hle fun hs => ?_) he, mul_lt_mul_of_pos_right hlt he⟩
    have : ((Nat.sqrt a * Nat.sqrt a : Nat) : ℝ) = (a : ℝ) := by
      push_cast; rw [hs, Real.mul_self_sqrt (Nat.cast_nonneg a)]
    exact absurd (Nat.cast_injective this) (by simpa using h)
  · rename_i h
    have hs : Nat.sqrt a * Nat.sqrt a = a := by simpa using h
    have : Real.sqrt a = (Nat.sqrt a : Nat) := by
      rw [Real.sqrt_eq_iff_mul_self_eq (Nat.cast_nonneg a) (Nat.cast_nonneg _)]
      exact_mod_cast hs.symm
    rw [this]

/-- The power of two at or below a magnitude, and the next. -/
theorem Encloses.log2 {m : Nat} {e : Int} {st : Bool} {v : ℝ} (h : Encloses m e st v) (hm : m ≠ 0) :
    (2 : ℝ) ^ (e + (Nat.log2 m : Int)) ≤ v ∧ v < (2 : ℝ) ^ (e + (Nat.log2 m : Int) + 1) := by
  have he := zpow_pos_two e
  have h1 : ((2 : ℝ) ^ Nat.log2 m) ≤ m := by exact_mod_cast Nat.log2_self_le hm
  have h2 : (m : ℝ) + 1 ≤ (2 : ℝ) ^ (Nat.log2 m + 1) := by exact_mod_cast Nat.lt_log2_self
  refine ⟨?_, ?_⟩
  · rw [zpow_add₀ two_ne_zero, zpow_natCast, mul_comm]
    exact (mul_le_mul_of_nonneg_right h1 he.le).trans h.le
  · rw [add_assoc, zpow_add₀ two_ne_zero, mul_comm]
    exact h.lt.trans_le (mul_le_mul_of_nonneg_right (by exact_mod_cast h2) he.le)

theorem magLt_iff (m1 : Nat) (e1 : Int) (m2 : Nat) (e2 : Int) :
    magLt m1 e1 m2 e2 = true ↔ (m1 : ℝ) * 2 ^ e1 < (m2 : ℝ) * 2 ^ e2 := by
  have scale (a b : Int) (h : a ≤ b) : (2 : ℝ) ^ b = 2 ^ (b - a).toNat * 2 ^ a := by
    rw [← zpow_natCast, ← zpow_add₀ two_ne_zero]; congr 1; omega
  unfold magLt
  split
  · rename_i h
    rw [decide_eq_true_iff, scale e1 e2 h, ← mul_assoc, mul_lt_mul_iff_left₀ (zpow_pos_two e1)]
    exact_mod_cast Iff.rfl
  · rename_i h
    rw [decide_eq_true_iff, scale e2 e1 (by omega), ← mul_assoc, mul_lt_mul_iff_left₀ (zpow_pos_two e2)]
    exact_mod_cast Iff.rfl

/-! ## Rounding at a unit -/

/-- n · 2^q is nearest to v among the multiples of 2^q; of two that are equally near, n is the even one. -/
structure NearestMultiple (v : ℝ) (q : Int) (n : Nat) : Prop where
  le : v ≤ ((n : ℝ) + 1 / 2) * 2 ^ q
  ge : ((n : ℝ) - 1 / 2) * 2 ^ q ≤ v
  even : v = ((n : ℝ) + 1 / 2) * 2 ^ q ∨ v = ((n : ℝ) - 1 / 2) * 2 ^ q → n % 2 = 0

theorem nearestMultiple_self (q : Int) (n : Nat) : NearestMultiple ((n : ℝ) * 2 ^ q) q n := by
  have hq := zpow_pos_two q
  refine ⟨by nlinarith, by nlinarith, ?_⟩
  rintro (h | h) <;> nlinarith

/-- The same for a magnitude y counted in halves of a unit of 2 · H: n units are nearest. -/
structure NearestHalves (H : Nat) (y : ℝ) (n : Nat) : Prop where
  le : y ≤ 2 * H * n + H
  ge : 2 * H * n - H ≤ y
  even : y = 2 * H * n + H ∨ y = 2 * H * n - H → n % 2 = 0

theorem NearestHalves.nearestMultiple {v y u : ℝ} {q : Int} {H n : Nat} (h : NearestHalves H y n) (hu : 0 < u) (hv : v = y * u)
    (hq : (2 : ℝ) ^ q = 2 * H * u) : NearestMultiple v q n := by
  have hup : ((n : ℝ) + 1 / 2) * 2 ^ q = (2 * H * n + H) * u := by rw [hq]; ring
  have hdown : ((n : ℝ) - 1 / 2) * 2 ^ q = (2 * H * n - H) * u := by rw [hq]; ring
  refine ⟨?_, ?_, ?_⟩
  · rw [hup, hv]; exact mul_le_mul_of_nonneg_right h.le hu.le
  · rw [hdown, hv]; exact mul_le_mul_of_nonneg_right h.ge hu.le
  · rw [hup, hdown, hv, mul_left_inj' hu.ne', mul_left_inj' hu.ne']
    exact h.even

section
variable {H N r : Nat} {d : ℝ} {st : Bool} (hd0 : 0 ≤ d) (hd : d = 0 ↔ st = false)
include hd0 hd

/-- A remainder above the half, or at it with more below or an odd multiple: the next multiple is nearest, and it is not the magnitude. -/
theorem nearestHalves_up (hr : r < 2 * H) (hd1 : d < 1) (hup : H < r ∨ r = H ∧ (st = true ∨ N % 2 = 1)) :
    NearestHalves H (2 * H * N + r + d) (N + 1) ∧ 2 * (H : ℝ) * N + r + d ≠ 2 * H * (N + 1 : Nat) := by
  have hle : (H : ℝ) ≤ r := by exact_mod_cast hup.elim Nat.le_of_lt (fun h => h.1.ge)
  have hlt : (r : ℝ) + 1 ≤ 2 * H := by exact_mod_cast hr
  push_cast
  refine ⟨⟨by push_cast; linarith, by push_cast; linarith, ?_⟩, by linarith⟩
  push_cast
  rintro (htie | htie)
  · linarith
  · have hrH : r ≤ H := by exact_mod_cast (show (r : ℝ) ≤ H by linarith)
    have hrH' : (r : ℝ) = H := le_antisymm (by exact_mod_cast hrH) hle
    have hst : st = false := hd.mp (by linarith)
    rcases hup with h | ⟨-, h | h⟩
    · omega
    · rw [hst] at h; cases h
    · exact Nat.succ_mod_two_eq_zero_iff.mpr h

/-- A remainder below the half, or at it with nothing below and an even multiple: the multiple itself is nearest. -/
theorem nearestHalves_down (hd1 : d < 1) (hdown : r < H ∨ r = H ∧ st = false ∧ N % 2 = 0) :
    NearestHalves H (2 * H * N + r + d) N ∧ (2 * (H : ℝ) * N + r + d = 2 * H * N ↔ r = 0 ∧ st = false) := by
  have hr0 : (0 : ℝ) ≤ r := Nat.cast_nonneg r
  have hle : (r : ℝ) + d ≤ H := by
    rcases hdown with h | ⟨h, hst, -⟩
    · have : (r : ℝ) + 1 ≤ H := by exact_mod_cast h
      linarith
    · rw [h, hd.mpr hst, add_zero]
  refine ⟨⟨by linarith, by linarith, ?_⟩, fun he => ?_, fun he => ?_⟩
  · rintro (htie | htie)
    · rcases hdown with h | ⟨-, -, heven⟩
      · have : (r : ℝ) + 1 ≤ H := by exact_mod_cast h
        linarith
      · exact heven
    · have hH : (0 : ℝ) = H := by linarith [Nat.cast_nonneg (α := ℝ) H]
      rcases hdown with h | ⟨-, -, heven⟩
      · have : H = 0 := by exact_mod_cast hH.symm
        omega
      · exact heven
  · exact ⟨by exact_mod_cast (show (r : ℝ) = 0 by linarith), hd.mp (by linarith)⟩
  · rw [he.1, hd.mpr he.2]; simp

end

/-- What `roundAt` gives, to nearest even, at a unit of m's exponent or below: the magnitude itself. -/
theorem roundAt_exact {m : Nat} {e q : Int} {v : ℝ} (h : Encloses m e false v) (hq : q ≤ e) (r : Rnd) :
    v = ((roundAt r m e false q).1 : ℝ) * 2 ^ q ∧ (roundAt r m e false q).2 = false := by
  rw [roundAt, if_pos hq, show v = (m : ℝ) * 2 ^ e from h]
  refine ⟨?_, rfl⟩
  push_cast
  rw [mul_assoc, ← zpow_natCast, ← zpow_add₀ two_ne_zero]
  congr 2; omega

/-- What `roundAt` gives, to nearest even: the nearest multiple, and whether it is inexact. -/
theorem roundAt_nearest {m : Nat} {e q : Int} {st : Bool} {v : ℝ} (h : Encloses m e st v) (hst : st = true → e < q) :
    NearestMultiple v q (roundAt .ne m e st q).1 ∧ ((roundAt .ne m e st q).2 = false ↔ v = ((roundAt .ne m e st q).1 : ℝ) * 2 ^ q) := by
  by_cases hqe : q ≤ e
  · obtain rfl : st = false := by
      cases st with
      | false => rfl
      | true => exact absurd (hst rfl) (by omega)
    obtain ⟨hv, hx⟩ := roundAt_exact h hqe .ne
    exact ⟨by rw [hv]; exact nearestMultiple_self _ _, by simp [hx, ← hv]⟩
  · rw [roundAt, if_neg hqe]
    obtain ⟨d, hv, hd0, hd1, hd⟩ := h.fraction
    obtain ⟨j, hj⟩ : ∃ j, (q - e).toNat = j + 1 := ⟨(q - e).toNat - 1, by omega⟩
    have he := zpow_pos_two e
    have hpow : (2 : ℝ) ^ q = 2 * (2 ^ j : Nat) * 2 ^ e := by
      rw [show q = e + ((j + 1 : Nat) : Int) by omega, zpow_add₀ two_ne_zero, zpow_natCast, pow_succ]; push_cast; ring
    have hk : 2 ^ (q - e).toNat = 2 * 2 ^ j := by rw [hj, pow_succ, mul_comm]
    have hH : 0 < 2 ^ j := Nat.two_pow_pos j
    dsimp only
    rw [hk]
    generalize 2 ^ j = H at hpow hH ⊢
    have hm : (m : ℝ) = 2 * H * (m / (2 * H) : Nat) + (m % (2 * H) : Nat) := by exact_mod_cast (Nat.div_add_mod m (2 * H)).symm
    have hr : m % (2 * H) < 2 * H := Nat.mod_lt _ (by omega)
    generalize m / (2 * H) = N at hm ⊢
    generalize m % (2 * H) = r at hm hr ⊢
    rw [hm] at hv
    have hmultiple (n : Nat) : v = (n : ℝ) * 2 ^ q ↔ 2 * (H : ℝ) * N + r + d = 2 * H * n := by
      rw [hv, hpow, show (n : ℝ) * (2 * H * 2 ^ e) = 2 * H * n * 2 ^ e by ring, mul_left_inj' he.ne']
    split
    · rename_i hup
      have hup' : H < r ∨ r = H ∧ (st = true ∨ N % 2 = 1) := by
        simp only [Bool.or_eq_true, Bool.and_eq_true, decide_eq_true_eq, beq_iff_eq] at hup
        exact hup.imp (by omega) (And.imp_left (by omega))
      obtain ⟨hnear, hne⟩ := nearestHalves_up hd0 hd hr hd1 hup'
      refine ⟨hnear.nearestMultiple he hv hpow, ?_⟩
      rw [hmultiple]
      refine iff_of_false (fun hx => ?_) hne
      have : r = 0 ∧ st = false := by simpa using hx
      rcases hup' with h1 | ⟨h1, -⟩ <;> omega
    · rename_i hup
      have hdown : r < H ∨ r = H ∧ st = false ∧ N % 2 = 0 := by
        simp only [Bool.or_eq_true, Bool.and_eq_true, decide_eq_true_eq, beq_iff_eq, not_or, not_and] at hup
        rcases lt_trichotomy r H with h1 | h1 | h1
        · exact .inl h1
        · obtain ⟨hst, hodd⟩ := hup.2 (by omega)
          exact .inr ⟨h1, by simpa using hst, by omega⟩
        · omega
      obtain ⟨hnear, hexact⟩ := nearestHalves_down hd0 hd hd1 hdown
      refine ⟨hnear.nearestMultiple he hv hpow, ?_⟩
      rw [hmultiple, hexact]
      simp

end Sys2Proof.Machine
end

section
/-! SUPPORT. The codes of a format with `mbits` mantissa bits and least normal exponent `emin`: their values, the distance between neighbours, and
when a code is the nearest to a number (05 R61, R64). -/
namespace Sys2Proof.Machine

/-! ## Values of codes -/

/-- The value of a finite code, as a real number. -/
noncomputable def codeVal (mbits : Nat) (emin : Int) (c : Nat) : ℝ := ((codeMag mbits emin c).1 : ℝ) * 2 ^ (codeMag mbits emin c).2

/-- The distance from a finite code's value to the next code's. -/
noncomputable def codeUlp (mbits : Nat) (emin : Int) (c : Nat) : ℝ := 2 ^ (emin - mbits + (c / 2 ^ mbits - 1 : Nat))

section
variable (mbits : Nat) (emin : Int)

/-- A code with a mantissa and, above the subnormal codes, a count of binades: its value. -/
theorem codeVal_add_mul {n j : Nat} (hn : n ≤ 2 * 2 ^ mbits) (hj : j = 0 ∨ 2 ^ mbits ≤ n) :
    codeVal mbits emin (n + j * 2 ^ mbits) = (n : ℝ) * 2 ^ (emin - mbits + (j : Int)) := by
  have hP : 0 < 2 ^ mbits := Nat.two_pow_pos mbits
  unfold codeVal codeMag
  generalize hPe : 2 ^ mbits = P at *
  have hdm : (n + j * P) / P = n / P + j ∧ (n + j * P) % P = n % P := by
    rw [Nat.add_mul_div_right _ _ hP, Nat.add_mul_mod_self_right]; exact ⟨rfl, rfl⟩
  rw [hdm.1, hdm.2]
  rcases Nat.lt_or_ge n P with h | h
  · -- a subnormal code
    obtain rfl : j = 0 := hj.resolve_right (by omega)
    simp [Nat.div_eq_of_lt h]
  · rcases Nat.lt_or_ge n (2 * P) with h2 | h2
    · -- a normal code
      have hq : n / P = 1 := Nat.div_eq_of_lt_le (by omega) (by omega)
      have hr : n % P + P = n := by have := Nat.div_add_mod n P; rw [hq] at this; omega
      rw [hq, if_neg (by omega)]
      dsimp only
      rw [hr]
      congr 3; omega
    · -- the first code of the next binade
      obtain rfl : n = 2 * P := by omega
      have hq : 2 * P / P = 2 := Nat.mul_div_cancel _ hP
      rw [hq, if_neg (by omega), Nat.mul_mod_left]
      dsimp only
      have : (2 + j - 1 : Nat) = j + 1 := by omega
      rw [this]
      push_cast
      rw [← add_assoc, zpow_add_one₀ two_ne_zero]; ring

theorem codeUlp_pos (c : Nat) : 0 < codeUlp mbits emin c := zpow_pos_two _

theorem codeUlp_mono {a b : Nat} (h : a ≤ b) : codeUlp mbits emin a ≤ codeUlp mbits emin b := by
  refine zpow_le_zpow_right₀ one_le_two ?_
  have : a / 2 ^ mbits ≤ b / 2 ^ mbits := Nat.div_le_div_right h
  omega

/-- Every code is a mantissa below 2 · 2^mbits in a binade, the subnormal codes in the first. -/
theorem exists_code (c : Nat) :
    ∃ n j, c = n + j * 2 ^ mbits ∧ n < 2 * 2 ^ mbits ∧ (j = 0 ∨ 2 ^ mbits ≤ n) ∧ j = c / 2 ^ mbits - 1 := by
  have hP : 0 < 2 ^ mbits := Nat.two_pow_pos mbits
  have hc := Nat.div_add_mod c (2 ^ mbits)
  have hr := Nat.mod_lt c hP
  rcases Nat.eq_zero_or_pos (c / 2 ^ mbits) with h | h
  · exact ⟨c, 0, by simp, by rw [h] at hc; omega, .inl rfl, by rw [h]⟩
  · obtain ⟨k, hk⟩ : ∃ k, c / 2 ^ mbits = k + 1 := ⟨c / 2 ^ mbits - 1, by omega⟩
    rw [hk] at hc
    exact ⟨c % 2 ^ mbits + 2 ^ mbits, k, by linarith, by omega, .inr (by omega), by omega⟩

/-- The distance above a code of binade j is at least the unit of that binade. -/
theorem le_codeUlp {n j : Nat} (hj : j = 0 ∨ 2 ^ mbits ≤ n) :
    (2 : ℝ) ^ (emin - mbits + (j : Int)) ≤ codeUlp mbits emin (n + j * 2 ^ mbits) := by
  have hP : 0 < 2 ^ mbits := Nat.two_pow_pos mbits
  refine zpow_le_zpow_right₀ one_le_two ?_
  rw [Nat.add_mul_div_right _ _ hP]
  rcases hj with rfl | h
  · omega
  · have := (Nat.one_le_div_iff hP).mpr h; omega

/-- The distance below a code of binade j is the unit of that binade, but at the binade's first code. -/
theorem codeUlp_pred {n j b : Nat} (hn : n ≤ 2 * 2 ^ mbits) (hj : j = 0 ∨ 2 ^ mbits < n) (hb : b + 1 = n + j * 2 ^ mbits) :
    codeUlp mbits emin b = 2 ^ (emin - mbits + (j : Int)) := by
  have hP : 0 < 2 ^ mbits := Nat.two_pow_pos mbits
  have hdiv : b / 2 ^ mbits - 1 = j := by
    rcases hj with rfl | h
    · have : b / 2 ^ mbits < 2 := Nat.div_lt_of_lt_mul (by omega)
      omega
    · have : b / 2 ^ mbits = j + 1 := by
        refine Nat.div_eq_of_lt_le ?_ ?_ <;> (simp only [add_mul, one_mul]; omega)
      omega
  rw [codeUlp, hdiv]

theorem codeVal_succ (c : Nat) : codeVal mbits emin (c + 1) = codeVal mbits emin c + codeUlp mbits emin c := by
  obtain ⟨n, j, hc, hn, hj, hu⟩ := exists_code mbits c
  have h1 := codeVal_add_mul mbits emin (n := n) (j := j) hn.le hj
  have h2 := codeVal_add_mul mbits emin (n := n + 1) (j := j) hn (hj.imp_right (by omega))
  rw [show n + 1 + j * 2 ^ mbits = c + 1 by omega] at h2
  rw [← hc] at h1
  rw [h1, h2, codeUlp, ← hu]
  push_cast; ring

theorem codeVal_strictMono : StrictMono (codeVal mbits emin) :=
  strictMono_nat_of_lt_succ (fun c => by rw [codeVal_succ]; linarith [codeUlp_pos mbits emin c])

theorem codeVal_nonneg (c : Nat) : 0 ≤ codeVal mbits emin c := mul_nonneg (Nat.cast_nonneg _) (zpow_pos_two _).le

end

/-! ## The nearest code -/

/-- The numbers above and below an exact number v, as the statements of R64 are given them. -/
def Cut (lt gt : ℚ → Prop) (v : ℝ) : Prop := ∀ z : ℚ, 0 ≤ z → (lt z ↔ v < z) ∧ (gt z ↔ (z : ℝ) < v)

/-- v is within half the distance to the neighbours of c; where it is half-way, c is even. -/
structure NearCodeVal (mbits : Nat) (emin : Int) (v : ℝ) (c : Nat) : Prop where
  le : v ≤ codeVal mbits emin c + codeUlp mbits emin c / 2
  ge : ∀ b, b + 1 = c → codeVal mbits emin b + codeUlp mbits emin b / 2 ≤ v
  evenUp : v = codeVal mbits emin c + codeUlp mbits emin c / 2 → c % 2 = 0
  evenDown : ∀ b, b + 1 = c → v = codeVal mbits emin b + codeUlp mbits emin b / 2 → c % 2 = 0

/-- A code above another's is at or above the half-way point over it. -/
theorem NearCodeVal.le_mid {mbits : Nat} {emin : Int} {v : ℝ} {c k : Nat} (h : NearCodeVal mbits emin v c) (hk : c < k) :
    v ≤ (codeVal mbits emin k + codeVal mbits emin c) / 2 ∧ (v = (codeVal mbits emin k + codeVal mbits emin c) / 2 → c % 2 = 0) := by
  have h1 : codeVal mbits emin (c + 1) ≤ codeVal mbits emin k := (codeVal_strictMono mbits emin).monotone hk
  rw [codeVal_succ] at h1
  exact ⟨by linarith [h.le], fun he => h.evenUp (le_antisymm h.le (by linarith))⟩

/-- A code below another's is at or below the half-way point under it. -/
theorem NearCodeVal.mid_le {mbits : Nat} {emin : Int} {v : ℝ} {c k : Nat} (h : NearCodeVal mbits emin v c) (hk : k < c) :
    (codeVal mbits emin k + codeVal mbits emin c) / 2 ≤ v ∧ (v = (codeVal mbits emin k + codeVal mbits emin c) / 2 → c % 2 = 0) := by
  obtain ⟨b, rfl⟩ : ∃ b, b + 1 = c := ⟨c - 1, by omega⟩
  have h1 : codeVal mbits emin k ≤ codeVal mbits emin b := (codeVal_strictMono mbits emin).monotone (by omega)
  have h2 := h.ge b rfl
  rw [codeVal_succ]
  exact ⟨by linarith, fun he => h.evenDown b rfl (le_antisymm (by linarith) h2)⟩

/-- A code within half the distance to its neighbours is the nearest of all (R64). -/
theorem NearCodeVal.nearestCode {mbits : Nat} {emin : Int} {v : ℝ} {c top : Nat} {val : Nat → FVal} {lt gt : ℚ → Prop}
    (h : NearCodeVal mbits emin v c) (hcut : Cut lt gt v) (hval : ∀ k, k ≤ top → ((val k).rat : ℝ) = codeVal mbits emin k)
    (hc : c ≤ top) : NearestCode val top lt gt c := by
  refine ⟨hc, fun k hk => ?_⟩
  have hx := hval c hc
  have hy := hval k hk
  have hx0 : 0 ≤ (val c).rat := by
    have := codeVal_nonneg mbits emin c; rw [← hx] at this; exact_mod_cast this
  have hy0 : 0 ≤ (val k).rat := by
    have := codeVal_nonneg mbits emin k; rw [← hy] at this; exact_mod_cast this
  have below (a b : Nat) : codeVal mbits emin a < codeVal mbits emin b ↔ a < b := (codeVal_strictMono mbits emin).lt_iff_lt
  have hless : (val k).rat < (val c).rat ↔ k < c := by rw [← below, ← hx, ← hy]; exact_mod_cast Iff.rfl
  have hmore : (val c).rat < (val k).rat ↔ c < k := by rw [← below, ← hx, ← hy]; exact_mod_cast Iff.rfl
  obtain ⟨hlt, hgt⟩ := hcut (((val k).rat + (val c).rat) / 2) (by positivity)
  have hmid : ((((val k).rat + (val c).rat) / 2 : ℚ) : ℝ) = (codeVal mbits emin k + codeVal mbits emin c) / 2 := by
    push_cast; rw [hx, hy]
  rw [hmid] at hlt hgt
  refine ⟨?_, fun hne hnlt hngt => ?_⟩
  · rw [Nearer, add_comm (val c).rat, hless, hmore, hlt, hgt]
    rintro (⟨hkc, hv⟩ | ⟨hck, hv⟩)
    · exact absurd hv (h.mid_le hkc).1.not_gt
    · exact absurd hv (h.le_mid hck).1.not_gt
  · have hv : v = (codeVal mbits emin k + codeVal mbits emin c) / 2 :=
      le_antisymm (not_lt.mp (hgt.not.mp hngt)) (not_lt.mp (hlt.not.mp hnlt))
    rcases lt_trichotomy k c with hkc | rfl | hck
    · exact (h.mid_le hkc).2 hv
    · exact absurd rfl hne
    · exact (h.le_mid hck).2 hv

end Sys2Proof.Machine
end

section
/-! SUPPORT. The one rounding of the model (05 R64): the code that `roundMag` gives is nearest, inexactness, tininess and overflow are what R64 says,
and the rounding to an IEEE format meets `Fmt.Rounds`. -/
namespace Sys2Proof.Machine

/-! ## Rounding with an unbounded exponent range -/

/-- A magnitude between 2^(mbits + q) and the next power of two, rounded at the unit 2^q. -/
structure Normalised (mbits : Nat) (q : Int) (v : ℝ) (n : Nat) : Prop where
  near : NearestMultiple v q n
  ge : (2 : ℝ) ^ (q + (mbits : Int)) ≤ v
  lt : v < (2 : ℝ) ^ (q + (mbits : Int) + 1)

theorem zpow_add_nat (q : Int) (k : Nat) : (2 : ℝ) ^ (q + (k : Int)) = ((2 ^ k : Nat) : ℝ) * 2 ^ q := by
  rw [zpow_add₀ two_ne_zero, zpow_natCast, mul_comm]; push_cast; rfl

/-- The largest number of mbits mantissa bits below 2^(B + 1). -/
noncomputable def largestBelow (mbits : Nat) (B : Int) : ℝ := (2 * (2 ^ mbits : Nat) - 1) * 2 ^ (B - mbits)

/-- The number half-way between the largest value below 2^(B + 1) and that power. -/
noncomputable def halfBelow (mbits : Nat) (B : Int) : ℝ := (2 - 1 / 2 ^ (mbits + 1)) * 2 ^ B

theorem halfBelow_eq (mbits : Nat) (q : Int) : halfBelow mbits (q + (mbits : Int)) = (2 * (2 ^ mbits : Nat) - 1 / 2) * 2 ^ q := by
  rw [halfBelow, zpow_add_nat]
  have : (2 : ℝ) ^ mbits ≠ 0 := by positivity
  push_cast; rw [pow_succ]; field_simp

theorem halfBelow_lt (mbits : Nat) (B : Int) : halfBelow mbits B < 2 ^ (B + 1) := by
  rw [halfBelow, zpow_add_one₀ two_ne_zero, mul_comm]
  exact mul_lt_mul_of_pos_left (sub_lt_self _ (by positivity)) (zpow_pos_two B)

theorem le_halfBelow (mbits : Nat) (B : Int) : 2 ^ B ≤ halfBelow mbits B := by
  have : (1 : ℝ) / 2 ^ (mbits + 1) ≤ 1 := by
    rw [div_le_one (by positivity)]; exact one_le_pow₀ one_le_two
  rw [halfBelow]
  exact le_mul_of_one_le_left (zpow_pos_two B).le (by linarith)

/-- The half-way point lies half a unit over the largest number. -/
theorem largestBelow_add (mbits : Nat) (B : Int) : largestBelow mbits B + 2 ^ (B - mbits) / 2 = halfBelow mbits B := by
  have h := halfBelow_eq mbits (B - mbits)
  rw [sub_add_cancel] at h
  rw [h, largestBelow]; ring

theorem largestBelow_lt (mbits : Nat) (B : Int) : largestBelow mbits B < 2 ^ (B + 1) := by
  linarith [largestBelow_add mbits B, halfBelow_lt mbits B, zpow_pos_two (B - mbits)]

section
variable {mbits : Nat} {q : Int} {v : ℝ} {n : Nat}

theorem NearestMultiple.le_of_lt (h : NearestMultiple v q n) {k : Nat} (hv : v < (k : ℝ) * 2 ^ q) : n ≤ k := by
  have hq := zpow_pos_two q
  by_contra hk
  have : (k : ℝ) + 1 ≤ n := by exact_mod_cast (not_le.mp hk)
  nlinarith [h.ge]

theorem NearestMultiple.ge_of_le (h : NearestMultiple v q n) {k : Nat} (hv : (k : ℝ) * 2 ^ q ≤ v) : k ≤ n := by
  have hq := zpow_pos_two q
  by_contra hk
  have : (n : ℝ) + 1 ≤ k := by exact_mod_cast (not_le.mp hk)
  nlinarith [h.le]

theorem Normalised.bounds (h : Normalised mbits q v n) : 2 ^ mbits ≤ n ∧ n ≤ 2 ^ (mbits + 1) := by
  refine ⟨h.near.ge_of_le ?_, h.near.le_of_lt ?_⟩
  · rw [← zpow_add_nat]; exact h.ge
  · rw [← zpow_add_nat]; push_cast; rw [← add_assoc]; exact h.lt

/-- Below the half-way point under 2^(B + 1) a magnitude rounds to at most the largest value below that power. -/
theorem Normalised.le_of_lt_half (h : Normalised mbits q v n) {B : Int} (hv : v < halfBelow mbits B) :
    (n : ℝ) * 2 ^ q ≤ largestBelow mbits B := by
  rw [largestBelow]
  have hq := zpow_pos_two q
  have hP : (1 : ℝ) ≤ (2 ^ mbits : Nat) := by exact_mod_cast Nat.one_le_two_pow
  obtain ⟨-, hn⟩ := h.bounds
  have hn' : (n : ℝ) ≤ 2 * (2 ^ mbits : Nat) := by rw [pow_succ, mul_comm] at hn; exact_mod_cast hn
  have hqB : q + mbits ≤ B := by
    by_contra hlt
    have : (2 : ℝ) ^ (B + 1) ≤ 2 ^ (q + (mbits : Int)) := zpow_le_zpow_right₀ one_le_two (by omega)
    linarith [h.ge, halfBelow_lt mbits B]
  rcases hqB.eq_or_lt with rfl | hlt
  · rw [add_sub_cancel_right]
    refine mul_le_mul_of_nonneg_right ?_ hq.le
    rw [halfBelow_eq] at hv
    by_contra hgt
    have hnP : 2 * 2 ^ mbits ≤ n := by
      have : ((2 * 2 ^ mbits : Nat) : ℝ) < (n : ℝ) + 1 := by push_cast at hgt ⊢; linarith
      exact Nat.lt_succ_iff.mp (by exact_mod_cast this)
    have : (2 : ℝ) * (2 ^ mbits : Nat) ≤ n := by exact_mod_cast hnP
    nlinarith [h.near.ge]
  · have hB : (2 : ℝ) * 2 ^ q ≤ 2 ^ (B - mbits) := by
      rw [mul_comm, ← zpow_add_one₀ two_ne_zero]
      exact zpow_le_zpow_right₀ one_le_two (by omega)
    have hB0 := zpow_pos_two (B - mbits)
    nlinarith

/-- From that half-way point on it rounds to at least the power: the tie goes up, to the even mantissa. -/
theorem Normalised.ge_of_half_le (h : Normalised mbits q v n) {B : Int} (hv : halfBelow mbits B ≤ v) : (2 : ℝ) ^ (B + 1) ≤ n * 2 ^ q := by
  have hq := zpow_pos_two q
  obtain ⟨hn, -⟩ := h.bounds
  have hBq : B ≤ q + mbits := by
    by_contra hlt
    have : (2 : ℝ) ^ (q + (mbits : Int) + 1) ≤ 2 ^ B := zpow_le_zpow_right₀ one_le_two (by omega)
    linarith [h.lt, le_halfBelow mbits B]
  rcases hBq.eq_or_lt with rfl | hlt
  · rw [halfBelow_eq] at hv
    rw [add_assoc, ← Nat.cast_succ, zpow_add_nat]
    refine mul_le_mul_of_nonneg_right ?_ hq.le
    by_contra hgt
    have hnP : n + 1 ≤ 2 * 2 ^ mbits := by
      have : n < 2 ^ (mbits + 1) := by exact_mod_cast not_le.mp hgt
      rw [pow_succ] at this; omega
    have hnP' : (n : ℝ) + 1 ≤ 2 * (2 ^ mbits : Nat) := by exact_mod_cast hnP
    have hle : ((n : ℝ) + 1 / 2) * 2 ^ q ≤ (2 * (2 ^ mbits : Nat) - 1 / 2) * 2 ^ q :=
      mul_le_mul_of_nonneg_right (by linarith) hq.le
    have htie : v = ((n : ℝ) + 1 / 2) * 2 ^ q := le_antisymm h.near.le (hle.trans hv)
    have heq : (n : ℝ) + 1 = 2 * (2 ^ mbits : Nat) := by
      have : ((2 * (2 ^ mbits : Nat) - 1 / 2 : ℝ)) ≤ (n : ℝ) + 1 / 2 := le_of_mul_le_mul_right (hv.trans htie.le) hq
      linarith
    have heq' : n + 1 = 2 * 2 ^ mbits := by exact_mod_cast heq
    have := h.near.even (.inl htie)
    omega
  · calc (2 : ℝ) ^ (B + 1) ≤ 2 ^ (q + (mbits : Int)) := zpow_le_zpow_right₀ one_le_two (by omega)
      _ = (2 ^ mbits : Nat) * 2 ^ q := zpow_add_nat q mbits
      _ ≤ n * 2 ^ q := mul_le_mul_of_nonneg_right (by exact_mod_cast hn) hq.le

/-- A magnitude rounds to below a power of two exactly where it lies below the half-way point under it (R64: tininess). -/
theorem Normalised.lt_pow_iff (h : Normalised mbits q v n) (B : Int) : (n : ℝ) * 2 ^ q < 2 ^ (B + 1) ↔ v < halfBelow mbits B :=
  ⟨fun hlt => not_le.mp (fun hv => not_lt.mpr (h.ge_of_half_le hv) hlt), fun hv => (h.le_of_lt_half hv).trans_lt (largestBelow_lt mbits B)⟩

/-- It rounds to above the largest number below a power of two exactly from the half-way point on (R64: overflow). -/
theorem Normalised.largest_lt_iff (h : Normalised mbits q v n) (B : Int) : largestBelow mbits B < n * 2 ^ q ↔ ¬ v < halfBelow mbits B :=
  ⟨fun hlt hv => not_lt.mpr (h.le_of_lt_half hv) hlt, fun hv => (largestBelow_lt mbits B).trans_le (h.ge_of_half_le (not_lt.mp hv))⟩

end

/-! ## The code of a rounded magnitude -/

/-- A magnitude rounded at the unit of binade j is within half the distance to the neighbours of its code. -/
theorem NearestMultiple.nearCodeVal {mbits : Nat} {emin : Int} {v : ℝ} {n j : Nat} (hm : 1 ≤ mbits)
    (h : NearestMultiple v (emin - mbits + (j : Int)) n) (hlt : v < (2 : ℝ) ^ (emin + (j : Int) + 1))
    (hge : j = 0 ∨ (2 : ℝ) ^ (emin + (j : Int)) ≤ v) :
    NearCodeVal mbits emin v (n + j * 2 ^ mbits) ∧ codeVal mbits emin (n + j * 2 ^ mbits) = (n : ℝ) * 2 ^ (emin - mbits + (j : Int)) := by
  have hPeven : 2 ^ mbits % 2 = 0 := by
    obtain ⟨k, rfl⟩ : ∃ k, mbits = k + 1 := ⟨mbits - 1, by omega⟩
    rw [pow_succ, Nat.mul_mod_left]
  have hn2 : n ≤ 2 * 2 ^ mbits := by
    refine h.le_of_lt ?_
    rw [Nat.mul_comm, ← pow_succ, ← zpow_add_nat]
    push_cast
    rwa [show emin - mbits + (j : Int) + ((mbits : Int) + 1) = emin + j + 1 by omega]
  have hn1 : j = 0 ∨ 2 ^ mbits ≤ n := by
    refine hge.imp_right (fun hv => h.ge_of_le ?_)
    rw [← zpow_add_nat]
    rwa [show emin - mbits + (j : Int) + (mbits : Int) = emin + j by omega]
  have hval := codeVal_add_mul mbits emin hn2 hn1
  have hulp := le_codeUlp mbits emin hn1
  have heven (hev : n % 2 = 0) : (n + j * 2 ^ mbits) % 2 = 0 := by
    rw [Nat.add_mod, Nat.mul_mod, hev, hPeven]; simp
  -- what stands under the code: one unit below, or at the first code of a binade a number that v does not reach
  have hunder (b : Nat) (hb : b + 1 = n + j * 2 ^ mbits) :
      codeVal mbits emin b + codeUlp mbits emin b / 2 ≤ v ∧ (v = codeVal mbits emin b + codeUlp mbits emin b / 2 → n % 2 = 0) := by
    have hsucc := codeVal_succ mbits emin b
    rw [hb, hval] at hsucc
    have hub := codeUlp_pos mbits emin b
    by_cases hfirst : j = 0 ∨ 2 ^ mbits < n
    · rw [codeUlp_pred mbits emin hn2 hfirst hb] at hsucc ⊢
      have := h.ge
      exact ⟨by linarith, fun he => h.even (.inr (by linarith))⟩
    · obtain ⟨hj0, hn⟩ := not_or.mp hfirst
      have hv : (n : ℝ) * 2 ^ (emin - mbits + (j : Int)) ≤ v := by
        rw [show n = 2 ^ mbits from le_antisymm (not_lt.mp hn) (hn1.resolve_left hj0), ← zpow_add_nat,
          show emin - mbits + (j : Int) + (mbits : Int) = emin + j by omega]
        exact hge.resolve_left hj0
      exact ⟨by linarith, fun he => by linarith⟩
  refine ⟨⟨?_, fun b hb => (hunder b hb).1, fun he => heven ?_, fun b hb he => heven ((hunder b hb).2 he)⟩, hval⟩
  · rw [hval]; have := h.le; linarith
  · rw [hval] at he
    exact h.even (.inl (le_antisymm h.le (by linarith)))

/-- What `roundMag` gives, to nearest even, of a magnitude v: a code near to v, whether its value is v's own, and v rounded without a bound on
the exponent, from which tininess and overflow are judged. -/
theorem roundMag_near {mbits m : Nat} {emin e : Int} {st : Bool} {v : ℝ} (maxc : Nat) (hm : 1 ≤ mbits) (h : Encloses m e st v) (hm0 : m ≠ 0)
    (hst : st = true → mbits < Nat.log2 m) :
    let x := roundMag .ne mbits emin maxc m e st
    NearCodeVal mbits emin v x.code ∧ (x.inexact = false ↔ v = codeVal mbits emin x.code) ∧
    ∃ q n, Normalised mbits q v n ∧ (x.beyond = true ↔ codeVal mbits emin maxc < (n : ℝ) * 2 ^ q) ∧
      (x.tiny = true ↔ (n : ℝ) * 2 ^ q < 2 ^ emin) := by
  obtain ⟨hlo, hhi⟩ := h.log2 hm0
  have hlog (hs : st = true) : (mbits : Int) < Nat.log2 m := by exact_mod_cast hst hs
  simp only [roundMag]
  generalize hqu : e + (Nat.log2 m : Int) - mbits = qu
  have htop : e + (Nat.log2 m : Int) = qu + mbits := by omega
  rw [htop] at hlo hhi
  obtain ⟨j, hq, hj⟩ : ∃ j : Nat, (if qu < emin - mbits then emin - mbits else qu) = emin - mbits + (j : Int) ∧
      (j = 0 ∧ qu ≤ emin - mbits ∨ qu = emin - mbits + (j : Int)) := by
    split
    · exact ⟨0, by simp, .inl ⟨rfl, by omega⟩⟩
    · exact ⟨(qu - (emin - mbits)).toNat, by omega, .inr (by omega)⟩
  rw [hq, show (emin - mbits + (j : Int) - (emin - mbits)).toNat = j by omega]
  obtain ⟨hnear, hexact⟩ := roundAt_nearest h (q := emin - mbits + (j : Int)) (fun hs => by have := hlog hs; omega)
  have hjlt : v < (2 : ℝ) ^ (emin + (j : Int) + 1) := hhi.trans_le (zpow_le_zpow_right₀ one_le_two (by omega))
  have hjge : j = 0 ∨ (2 : ℝ) ^ (emin + (j : Int)) ≤ v :=
    hj.imp And.left (fun he => by rwa [he, show emin - mbits + (j : Int) + (mbits : Int) = emin + j by omega] at hlo)
  obtain ⟨hcode, hval⟩ := hnear.nearCodeVal hm hjlt hjge
  refine ⟨hcode, by rw [hexact, hval], qu, _,
    ⟨(roundAt_nearest h (fun hs => by have := hlog hs; omega)).1, hlo, hhi⟩, magLt_iff _ _ _ _, ?_⟩
  rw [magLt_iff, Nat.cast_one, one_mul]

/-! ## Rounding to an IEEE format -/

/-- The formats of R61: two exponent bits and one mantissa bit at the least. -/
structure Fmt.Ieee (f : Fmt) : Prop where
  ebits : 2 ≤ f.ebits
  mbits : 1 ≤ f.mbits

/-- Twice the bias and two are the exponent codes. -/
theorem Fmt.Ieee.two_pow_ebits {f : Fmt} (hf : f.Ieee) : 2 ^ f.ebits = 2 * f.bias + 2 ∧ 1 ≤ f.bias := by
  obtain ⟨k, hk⟩ : ∃ k, f.ebits = k + 2 := ⟨f.ebits - 2, by have := hf.ebits; omega⟩
  have : 1 ≤ 2 ^ k := Nat.one_le_two_pow
  simp only [Fmt.bias, hk, show k + 2 - 1 = k + 1 from rfl, pow_succ]
  omega

/-- The largest finite code: all ones in the mantissa, under the exponent of the infinities. -/
theorem Fmt.Ieee.maxc_eq {f : Fmt} (hf : f.Ieee) : f.maxc = 2 ^ f.mbits - 1 + 2 * f.bias * 2 ^ f.mbits := by
  have hP : 0 < 2 ^ f.mbits := Nat.two_pow_pos _
  have h : (2 ^ f.ebits - 1) * 2 ^ f.mbits = 2 * f.bias * 2 ^ f.mbits + 2 ^ f.mbits := by
    rw [hf.two_pow_ebits.1, show 2 * f.bias + 2 - 1 = 2 * f.bias + 1 by omega, Nat.succ_mul]
  rw [Fmt.maxc, Fmt.infBits, h]; omega

theorem Fmt.Ieee.maxc_lt {f : Fmt} (hf : f.Ieee) : f.maxc < f.infBits ∧ f.nanBits < 2 ^ (f.ebits + f.mbits) := by
  have hP : 2 * 2 ^ (f.mbits - 1) = 2 ^ f.mbits := by
    rw [← Nat.pow_succ', show (f.mbits - 1).succ = f.mbits by have := hf.mbits; omega]
  have hP0 : 0 < 2 ^ (f.mbits - 1) := Nat.two_pow_pos _
  have hE := hf.two_pow_ebits
  have h : 2 ^ (f.ebits + f.mbits) = f.infBits + 2 ^ f.mbits := by
    rw [Fmt.infBits, pow_add, ← Nat.succ_mul]; congr 1; omega
  have hi : 0 < f.infBits := Nat.mul_pos (by omega) (by omega)
  refine ⟨by rw [Fmt.maxc]; omega, by rw [Fmt.nanBits, h]; omega⟩

/-- The value of the largest finite code, and the half-way point over it. -/
theorem Fmt.Ieee.codeVal_maxc {f : Fmt} (hf : f.Ieee) :
    codeVal f.mbits f.emin f.maxc = largestBelow f.mbits f.bias ∧
    codeVal f.mbits f.emin f.maxc + codeUlp f.mbits f.emin f.maxc / 2 = halfBelow f.mbits f.bias := by
  have hP : 0 < 2 ^ f.mbits := Nat.two_pow_pos _
  obtain ⟨-, hb⟩ := hf.two_pow_ebits
  have hc : f.maxc = (2 * 2 ^ f.mbits - 1) + (2 * f.bias - 1) * 2 ^ f.mbits := by
    rw [hf.maxc_eq]
    obtain ⟨k, hk⟩ : ∃ k, 2 * f.bias = k + 1 := ⟨2 * f.bias - 1, by omega⟩
    rw [hk, Nat.add_sub_cancel, Nat.succ_mul]; omega
  have hexp : f.emin - f.mbits + ((2 * f.bias - 1 : Nat) : Int) = f.bias - f.mbits := by rw [Fmt.emin]; omega
  have hdiv : f.maxc / 2 ^ f.mbits - 1 = 2 * f.bias - 1 := by
    rw [hf.maxc_eq, Nat.add_mul_div_right _ _ hP, Nat.div_eq_of_lt (by omega), zero_add]
  have hval : codeVal f.mbits f.emin f.maxc = largestBelow f.mbits f.bias := by
    rw [hc, codeVal_add_mul f.mbits f.emin (by omega) (.inr (by omega)), hexp, Nat.cast_sub (by omega), largestBelow]
    push_cast; rfl
  exact ⟨hval, by rw [hval, codeUlp, hdiv, hexp, largestBelow_add]⟩

/-- The finite codes of an IEEE format have the values of their patterns (R61). -/
theorem Fmt.Ieee.rat_val {f : Fmt} (hf : f.Ieee) {k : Nat} (hk : k ≤ f.maxc) : ((f.val k).rat : ℝ) = codeVal f.mbits f.emin k := by
  have hP : 0 < 2 ^ f.mbits := Nat.two_pow_pos _
  have hE := hf.two_pow_ebits.1
  have hlt : k / 2 ^ f.mbits < 2 ^ f.ebits - 1 := by
    rw [hf.maxc_eq] at hk
    rw [hE, Nat.div_lt_iff_lt_mul hP, show 2 * f.bias + 2 - 1 = 2 * f.bias + 1 by omega, Nat.succ_mul]; omega
  have hsign : k / 2 ^ (f.ebits + f.mbits) = 0 := by
    rw [Nat.div_eq_zero_iff_lt (Nat.two_pow_pos _), pow_add, ← Nat.div_lt_iff_lt_mul hP]; omega
  have hmod : k / 2 ^ f.mbits % 2 ^ f.ebits = k / 2 ^ f.mbits := Nat.mod_eq_of_lt (by omega)
  simp only [Fmt.val, codeVal, codeMag, hsign, hmod, if_neg hlt.ne, Nat.zero_mod]
  split
  · rename_i h0
    have : k % 2 ^ f.mbits = k := Nat.mod_eq_of_lt (by rwa [Nat.div_eq_zero_iff_lt hP] at h0)
    simp [FVal.rat, this, Fmt.emin]
  · rename_i h0
    have hexp : ((k / 2 ^ f.mbits : Nat) : Int) - f.bias - f.mbits = f.emin - f.mbits + ((k / 2 ^ f.mbits - 1 : Nat) : Int) := by
      rw [Fmt.emin]; omega
    rw [hexp]
    simp [FVal.rat]

/-- A code near to a number below the half-way point over the largest finite value is finite. -/
theorem NearCodeVal.le_maxc {f : Fmt} (hf : f.Ieee) {v : ℝ} {c : Nat} (h : NearCodeVal f.mbits f.emin v c)
    (hv : v < halfBelow f.mbits f.bias) : c ≤ f.maxc := by
  by_contra hc
  obtain ⟨b, rfl⟩ : ∃ b, b + 1 = c := ⟨c - 1, by omega⟩
  have hb : f.maxc ≤ b := by omega
  have h1 := (codeVal_strictMono f.mbits f.emin).monotone hb
  have h2 := codeUlp_mono f.mbits f.emin hb
  linarith [h.ge b rfl, hf.codeVal_maxc.2]

/-- The half-way points of R64's tests for overflow and tininess, as the statement writes them. -/
theorem Cut.lt_half {lt gt : ℚ → Prop} {v : ℝ} (hcut : Cut lt gt v) (mbits : Nat) (B : Int) :
    lt ((2 - 1 / 2 ^ (mbits + 1)) * 2 ^ B) ↔ v < halfBelow mbits B := by
  have hle : (1 : ℚ) / 2 ^ (mbits + 1) ≤ 1 := by rw [div_le_one (by positivity)]; exact one_le_pow₀ one_le_two
  rw [(hcut _ (mul_nonneg (by linarith) (by positivity))).1, halfBelow]
  push_cast; exact Iff.rfl

/-- The rounding of a nonzero magnitude to an IEEE format is RoundNE of R64, with its flags. -/
theorem Fmt.round_rounds {f : Fmt} (hf : f.Ieee) (neg : Bool) {m : Nat} {e : Int} {st : Bool} {v : ℝ} (h : Encloses m e st v) (hm0 : m ≠ 0)
    (hst : st = true → f.mbits < Nat.log2 m) {lt gt : ℚ → Prop} (hcut : Cut lt gt v) : f.Rounds neg lt gt (f.round .ne neg m e st) := by
  obtain ⟨hcode, hexact, q, n, hn, hbeyond, htiny⟩ := roundMag_near (emin := f.emin) f.maxc hf.mbits h hm0 hst
  rw [hf.codeVal_maxc.1, hn.largest_lt_iff] at hbeyond
  have hpow := hn.lt_pow_iff (f.emin - 1)
  rw [sub_add_cancel] at hpow
  rw [hpow] at htiny
  have hover := hcut.lt_half f.mbits f.bias
  rw [zpow_natCast] at hover
  have hunder := hcut.lt_half f.mbits (f.emin - 1)
  have hzero : ¬ ((decide (m = 0) && !st) = true) := by simp [hm0]
  simp only [Fmt.round, if_neg hzero]
  generalize roundMag .ne f.mbits f.emin f.maxc m e st = x at hcode hexact hbeyond htiny
  refine ⟨fun hv => ?_, fun hv => ?_⟩
  · rw [if_pos (hbeyond.mpr (hover.not.mp hv))]
    exact ⟨rfl, rfl⟩
  · rw [if_neg (fun hx => hbeyond.mp hx (hover.mp hv))]
    have hc := hcode.le_maxc hf (hover.mp hv)
    obtain ⟨hlt, hgt⟩ := hcut (f.val x.code).rat (by
      have := codeVal_nonneg f.mbits f.emin x.code; rw [← hf.rat_val hc] at this; exact_mod_cast this)
    rw [hf.rat_val hc] at hlt hgt
    have hne : lt (f.val x.code).rat ∨ gt (f.val x.code).rat ↔ x.inexact = true := by
      rw [hlt, hgt, ← ne_iff_lt_or_gt, ← Bool.not_eq_false]; exact hexact.not.symm
    refine ⟨x.code, hcode.nearestCode hcut (fun k hk => hf.rat_val hk) hc, rfl, fun he => ?_, fun he hs => ?_, fun he hs => ?_⟩
    · have : x.inexact = false := by rw [← not_or, hne] at he; simpa using he
      simp [this, flagIf]
    · simp [hne.mp he, htiny.mpr (hunder.mp hs), flagIf, flUF, flNX]
    · simp [hne.mp he, Bool.eq_false_iff.mpr (mt htiny.mp (hunder.not.mp hs)), flagIf]

end Sys2Proof.Machine
end

section
/-! SUPPORT. The results of the scalar floating-point words (07 R99 to R107) as the statements give them: the integer square root, quotients and square
roots, the sign of FNMA's result, and the values of patterns. -/
namespace Sys2Proof.Machine

/-! ## The integer square root -/

/-- Newton's method from above reaches the root in as many steps as the distance has bits: each step halves it. -/
theorem isqrtStep_eq_sqrt (n : Nat) : ∀ k x : Nat, Nat.sqrt n ≤ x → x < Nat.sqrt n + 2 ^ k → isqrtStep n k x = Nat.sqrt n := by
  intro k
  induction k with
  | zero => intro x hle hlt; simp only [isqrtStep]; omega
  | succ k ih =>
    intro x hle hlt
    rw [pow_succ] at hlt
    have hroot : Nat.sqrt n * Nat.sqrt n ≤ n := Nat.sqrt_le n
    simp only [isqrtStep]
    rcases hle.eq_or_lt with rfl | hgt
    · rcases Nat.eq_zero_or_pos (Nat.sqrt n) with h0 | hpos
      · rw [h0, if_neg (Nat.not_lt_zero _)]
      · have : Nat.sqrt n ≤ n / Nat.sqrt n := (Nat.le_div_iff_mul_le hpos).mpr hroot
        rw [if_neg (by omega)]
    · have hquot : n / x ≤ Nat.sqrt n := by
        refine Nat.lt_succ_iff.mp ((Nat.div_lt_iff_lt_mul (by omega)).mpr ?_)
        exact (Nat.lt_succ_sqrt n).trans_le (Nat.mul_le_mul_left _ hgt)
      have hmean : 2 * Nat.sqrt n ≤ x + n / x := by
        have : 2 * Nat.sqrt n - x ≤ n / x := by
          refine (Nat.le_div_iff_mul_le (by omega)).mpr (le_trans ?_ hroot)
          rcases Nat.le_total (2 * Nat.sqrt n) x with h | h
          · simp [Nat.sub_eq_zero_of_le h]
          · zify [h]; nlinarith [sq_nonneg ((x : Int) - Nat.sqrt n)]
        omega
      rw [if_pos (by omega)]
      exact ih _ (by omega) (by omega)

/-- The power of two from which the root is sought lies above it, and no further than its own number of bits. -/
theorem isqrtStep_start {n k : Nat} (hn : n ≠ 0) (hk : Nat.log2 n / 2 + 1 ≤ k) :
    isqrtStep n k (2 ^ (Nat.log2 n / 2 + 1)) = Nat.sqrt n := by
  refine isqrtStep_eq_sqrt n k _ ?_ ?_
  · have h1 : n < 2 ^ (Nat.log2 n + 1) := Nat.lt_log2_self
    have h2 : (2 : Nat) ^ (Nat.log2 n + 1) ≤ 2 ^ (Nat.log2 n / 2 + 1) * 2 ^ (Nat.log2 n / 2 + 1) := by
      rw [← pow_add]; exact Nat.pow_le_pow_right (by norm_num) (by omega)
    exact Nat.le_of_lt (Nat.sqrt_lt.mpr (h1.trans_le h2))
  · exact (Nat.pow_le_pow_right (by norm_num) hk).trans_lt (Nat.lt_add_of_pos_left (Nat.sqrt_pos.mpr (Nat.pos_of_ne_zero hn)))

/-- The integer square root is rounded down, for every number of up to 798 bits. -/
theorem isqrt_eq_sqrt {n : Nat} (hn : Nat.log2 n < 798) : isqrt n = Nat.sqrt n := by
  unfold isqrt
  split
  · rename_i h; simp [h]
  · rename_i h; exact isqrtStep_start h (by omega)

/-! ## The values of patterns (R61) -/

theorem FVal.isNan_iff {v : FVal} : v.isNan = true ↔ ∃ s, v = .nan s := by cases v <;> simp [FVal.isNan]
theorem FVal.isInf_iff {v : FVal} : v.isInf = true ↔ ∃ n, v = .inf n := by cases v <;> simp [FVal.isInf]
theorem FVal.isZero_iff {v : FVal} : v.isZero = true ↔ ∃ n e, v = .fin n 0 e := by cases v <;> simp [FVal.isZero]

/-- The value is one of those that R101 sets apart: a NaN, an infinity or a zero. -/
def FVal.Special (v : FVal) : Prop := v.isNan = true ∨ v.isInf = true ∨ v.isZero = true

theorem FVal.fin_of_not_special {v : FVal} (h : ¬ v.Special) : ∃ n m e, v = .fin n m e ∧ m ≠ 0 := by
  cases v with
  | nan s => exact absurd (.inl rfl) h
  | inf n => exact absurd (.inr (.inl rfl)) h
  | fin n m e => exact ⟨n, m, e, rfl, fun hm => h (.inr (.inr (by simp [FVal.isZero, hm])))⟩

theorem FVal.fin_of_finite {v : FVal} (hn : v.isNan = false) (hi : v.isInf = false) : ∃ n m e, v = .fin n m e := by
  cases v with
  | nan s => exact absurd hn (by simp [FVal.isNan])
  | inf n => exact absurd hi (by simp [FVal.isInf])
  | fin n m e => exact ⟨n, m, e, rfl⟩

theorem FVal.abs_rat_fin (n : Bool) (m : Nat) (e : Int) : |(FVal.fin n m e).rat| = (m : ℚ) * 2 ^ e := by
  have : (0 : ℚ) ≤ (m : ℚ) * 2 ^ e := by positivity
  cases n <;> simp [FVal.rat, abs_of_nonneg this]

theorem Fmt.val_fin_lt {f : Fmt} {x : Nat} {n : Bool} {m : Nat} {e : Int} (h : f.val x = .fin n m e) : m < 2 ^ (f.mbits + 1) := by
  have hm : x % 2 ^ f.mbits < 2 ^ f.mbits := Nat.mod_lt _ (Nat.two_pow_pos _)
  rw [pow_succ]
  simp only [Fmt.val] at h
  split at h
  · split at h <;> cases h
  · split at h <;> (injection h; omega)

/-- A zero's pattern has its sign bit alone. -/
theorem Fmt.bits_of_zero {f : Fmt} {x : Nat} {n : Bool} {e : Int} (hx : x < 2 ^ f.width) (h : f.val x = .fin n 0 e) : x = f.signBit n := by
  have hP : 0 < 2 ^ f.mbits := Nat.two_pow_pos _
  simp only [Fmt.val] at h
  split at h
  · split at h <;> cases h
  · split at h
    · rename_i he
      injection h with hn hm
      have hlow : x % 2 ^ (f.ebits + f.mbits) = 0 := by
        rw [add_comm, pow_add, Nat.mod_mul, hm, he]; simp
      have hhigh : x / 2 ^ (f.ebits + f.mbits) < 2 := by
        rw [Nat.div_lt_iff_lt_mul (Nat.two_pow_pos _), ← pow_succ']
        rwa [Fmt.width, show 1 + f.ebits + f.mbits = f.ebits + f.mbits + 1 by omega] at hx
      have hx' := Nat.div_add_mod x (2 ^ (f.ebits + f.mbits))
      rw [hlow] at hx'
      rw [Nat.mod_eq_of_lt hhigh] at hn
      rcases Nat.le_one_iff_eq_zero_or_eq_one.mp (Nat.le_of_lt_succ hhigh) with h0 | h1
      · rw [h0] at hn hx'
        rw [← hn, ← hx']; simp [Fmt.signBit]
      · rw [h1] at hn hx'
        rw [← hn, ← hx']; simp [Fmt.signBit]
    · injection h with _ hm; omega

/-! ## Quotients and square roots (R104) -/

theorem Cut.of_rat (q : ℚ) : Cut (fun z => q < z) (fun z => z < q) (q : ℝ) :=
  fun z _ => ⟨by exact_mod_cast Iff.rfl, by exact_mod_cast Iff.rfl⟩

/-- The numbers above and below a square root, said of their squares. -/
theorem Cut.sqrt {q : ℚ} (hq : 0 < q) : Cut (fun z => q < z ^ 2) (fun z => z ^ 2 < q) (Real.sqrt q) := by
  intro z hz
  have hz' : (0 : ℝ) ≤ z := by exact_mod_cast hz
  have hq' : (0 : ℝ) ≤ q := by exact_mod_cast hq.le
  refine ⟨?_, ?_⟩
  · rw [Real.sqrt_lt hq' hz']; exact_mod_cast Iff.rfl
  · rw [Real.lt_sqrt hz']; exact_mod_cast Iff.rfl

section
variable {f : Fmt} (hf : f.Ieee) (hb : f.mbits ≤ 31)
include hf hb

/-- The quotient of two nonzero finite values is the nearest value to the exact one. -/
theorem Fmt.div_rounds {x y : Nat} {n n' : Bool} {m m' : Nat} {e e' : Int} (hx : f.val x = .fin n m e) (hy : f.val y = .fin n' m' e')
    (hm : m ≠ 0) (hm' : m' ≠ 0) :
    f.Rounds (n != n') (fun z => |(f.val x).rat / (f.val y).rat| < z) (fun z => z < |(f.val x).rat / (f.val y).rat|) (f.div x y) := by
  have hm'' : 0 < m' := Nat.pos_of_ne_zero hm'
  have hquot : (((|(f.val x).rat / (f.val y).rat| : ℚ)) : ℝ) = ((m * 2 ^ 64 : Nat) : ℝ) / m' * 2 ^ (e - e' - 64) := by
    rw [abs_div, hx, hy, FVal.abs_rat_fin, FVal.abs_rat_fin, zpow_sub₀ two_ne_zero, zpow_sub₀ two_ne_zero]
    push_cast
    field_simp
    norm_cast
  have hlarge : 2 ^ (f.mbits + 1) ≤ m * 2 ^ 64 / m' := by
    rw [Nat.le_div_iff_mul_le hm'']
    calc 2 ^ (f.mbits + 1) * m' ≤ 2 ^ 32 * 2 ^ 32 := Nat.mul_le_mul (Nat.pow_le_pow_right (by norm_num) (by omega))
          ((Fmt.val_fin_lt hy).le.trans (Nat.pow_le_pow_right (by norm_num) (by omega)))
      _ ≤ m * 2 ^ 64 := by rw [← pow_add]; exact Nat.le_mul_of_pos_left _ (Nat.pos_of_ne_zero hm)
  have hne : m * 2 ^ 64 / m' ≠ 0 := by have := Nat.two_pow_pos (f.mbits + 1); omega
  have heq : f.div x y = f.round .ne (n != n') (m * 2 ^ 64 / m') (e - e' - 64) (m * 2 ^ 64 % m' != 0) := by
    simp only [Fmt.div, hx, hy, if_neg hm']
  rw [heq]
  refine Fmt.round_rounds hf _ (encloses_div (m * 2 ^ 64) hm'' _) hne (fun _ => (Nat.le_log2 hne).mpr hlarge) ?_
  rw [← hquot]
  exact Cut.of_rat _

/-- The square root of a positive finite value is the nearest value to the exact one. -/
theorem Fmt.sqrt_rounds {x : Nat} {m : Nat} {e : Int} (hx : f.val x = .fin false m e) (hm : m ≠ 0) :
    f.Rounds false (fun z => (f.val x).rat < z ^ 2) (fun z => z ^ 2 < (f.val x).rat) (f.sqrt x) := by
  have hrat : (f.val x).rat = (m : ℚ) * 2 ^ e := by rw [hx]; simp [FVal.rat]
  have hpos : 0 < (f.val x).rat := by
    have : 0 < m := Nat.pos_of_ne_zero hm
    rw [hrat]; positivity
  obtain ⟨k, hk, hk64, heven⟩ : ∃ k : Nat, (if e % 2 = 0 then 64 else 65) = k ∧ (64 ≤ k ∧ k ≤ 65) ∧ (e - k) % 2 = 0 := by
    split
    · exact ⟨64, rfl, by omega, by omega⟩
    · exact ⟨65, rfl, by omega, by omega⟩
  have hsmall : Nat.log2 (m * 2 ^ k) < 97 := by
    rw [Nat.log2_lt (by positivity)]
    calc m * 2 ^ k < 2 ^ 32 * 2 ^ 65 := Nat.mul_lt_mul_of_lt_of_le
          ((Fmt.val_fin_lt hx).trans_le (Nat.pow_le_pow_right (by norm_num) (by omega)))
          (Nat.pow_le_pow_right (by norm_num) (by omega)) (by positivity)
      _ = 2 ^ 97 := by norm_num
  have hlarge : 2 ^ (f.mbits + 1) ≤ Nat.sqrt (m * 2 ^ k) := by
    rw [Nat.le_sqrt, ← pow_add]
    exact (Nat.pow_le_pow_right (by norm_num) (by omega)).trans (Nat.le_mul_of_pos_left _ (Nat.pos_of_ne_zero hm))
  have hne : Nat.sqrt (m * 2 ^ k) ≠ 0 := by have := Nat.two_pow_pos (f.mbits + 1); omega
  have hroot : Real.sqrt ((f.val x).rat : ℝ) = Real.sqrt (m * 2 ^ k : Nat) * 2 ^ ((e - k) / 2) := by
    rw [Real.sqrt_eq_iff_mul_self_eq (by exact_mod_cast hpos.le) (by positivity), mul_mul_mul_comm,
      Real.mul_self_sqrt (Nat.cast_nonneg _), ← zpow_add₀ two_ne_zero, show (e - k) / 2 + (e - k) / 2 = e - k by omega, hrat,
      zpow_sub₀ two_ne_zero]
    push_cast
    field_simp
    norm_cast
  have heq : f.sqrt x = f.round .ne false (Nat.sqrt (m * 2 ^ k)) ((e - k) / 2) (Nat.sqrt (m * 2 ^ k) * Nat.sqrt (m * 2 ^ k) != m * 2 ^ k) := by
    simp only [Fmt.sqrt, hx, if_neg hm, hk, isqrt_eq_sqrt (hsmall.trans (by norm_num)), Bool.false_eq_true, if_false]
  rw [heq]
  refine Fmt.round_rounds hf _ (encloses_sqrt (m * 2 ^ k) _) hne (fun _ => (Nat.le_log2 hne).mpr hlarge) ?_
  rw [← hroot]
  exact Cut.sqrt hpos

end

/-! ## The special cases of R104 and R105 -/

section
variable {f : Fmt} {x y : Nat}

theorem Fmt.div_nan (h : (f.val x).isNan = true ∨ (f.val y).isNan = true) :
    f.div x y = { bits := f.nanBits, fl := flagIf ((f.val x).isSnan || (f.val y).isSnan) flNV } := by
  rcases h with h | h <;> obtain ⟨s, hs⟩ := FVal.isNan_iff.mp h
  · simp only [Fmt.div, hs]; rfl
  · cases hx : f.val x <;> simp [Fmt.div, hx, hs, Fmt.nanRes, FVal.isSnan]

/-- 0 ÷ 0 and ∞ ÷ ∞ are invalid. -/
theorem Fmt.div_invalid (h : (f.val x).isInf = true ∧ (f.val y).isInf = true ∨ (f.val x).isZero = true ∧ (f.val y).isZero = true) :
    f.div x y = { bits := f.nanBits, fl := flNV } := by
  rcases h with ⟨hu, hv⟩ | ⟨hu, hv⟩
  · obtain ⟨n, hn⟩ := FVal.isInf_iff.mp hu
    obtain ⟨n', hn'⟩ := FVal.isInf_iff.mp hv
    simp [Fmt.div, hn, hn', FVal.isInf, Fmt.nanRes, flagIf]
  · obtain ⟨n, e, hn⟩ := FVal.isZero_iff.mp hu
    obtain ⟨n', e', hn'⟩ := FVal.isZero_iff.mp hv
    simp [Fmt.div, hn, hn', Fmt.nanRes, flagIf]

theorem Fmt.div_inf_left (hu : (f.val x).isInf = true) (hn : (f.val y).isNan = false) (hi : (f.val y).isInf = false) :
    f.div x y = { bits := f.signBit ((f.val x).sign != (f.val y).sign) + f.infBits, fl := 0 } := by
  obtain ⟨n, hx⟩ := FVal.isInf_iff.mp hu
  obtain ⟨n', m', e', hy⟩ := FVal.fin_of_finite hn hi
  simp [Fmt.div, hx, hy, FVal.isInf, FVal.sign, Fmt.infRes]

theorem Fmt.div_inf_right (hv : (f.val y).isInf = true) (hn : (f.val x).isNan = false) (hi : (f.val x).isInf = false) :
    f.div x y = { bits := f.signBit ((f.val x).sign != (f.val y).sign), fl := 0 } := by
  obtain ⟨n', hy⟩ := FVal.isInf_iff.mp hv
  obtain ⟨n, m, e, hx⟩ := FVal.fin_of_finite hn hi
  simp [Fmt.div, hx, hy, FVal.sign]

theorem Fmt.div_zero_left (hu : (f.val x).isZero = true) (hv : ¬ (f.val y).Special) :
    f.div x y = { bits := f.signBit ((f.val x).sign != (f.val y).sign), fl := 0 } := by
  obtain ⟨n, e, hx⟩ := FVal.isZero_iff.mp hu
  obtain ⟨n', m', e', hy, hm'⟩ := FVal.fin_of_not_special hv
  simp [Fmt.div, hx, hy, hm', FVal.sign, Fmt.round]

theorem Fmt.div_zero_right (hv : (f.val y).isZero = true) (hu : ¬ (f.val x).Special) :
    f.div x y = { bits := f.signBit ((f.val x).sign != (f.val y).sign) + f.infBits, fl := flDZ } := by
  obtain ⟨n', e', hy⟩ := FVal.isZero_iff.mp hv
  obtain ⟨n, m, e, hx, hm⟩ := FVal.fin_of_not_special hu
  simp [Fmt.div, hx, hy, hm, FVal.sign, Fmt.infRes]

theorem Fmt.sqrt_nan (h : (f.val x).isNan = true) : f.sqrt x = { bits := f.nanBits, fl := flagIf (f.val x).isSnan flNV } := by
  obtain ⟨s, hs⟩ := FVal.isNan_iff.mp h
  simp only [Fmt.sqrt, hs]; rfl

/-- √−0 is −0. -/
theorem Fmt.sqrt_zero (hx : x < 2 ^ f.width) (h : (f.val x).isZero = true) : f.sqrt x = { bits := x, fl := 0 } := by
  obtain ⟨n, e, hv⟩ := FVal.isZero_iff.mp h
  simp only [Fmt.sqrt, hv, if_true, ← Fmt.bits_of_zero hx hv]

theorem Fmt.sqrt_inf (h : (f.val x).isInf = true) (hs : (f.val x).sign = false) : f.sqrt x = { bits := f.infBits, fl := 0 } := by
  obtain ⟨n, hv⟩ := FVal.isInf_iff.mp h
  obtain rfl : n = false := by rwa [hv] at hs
  simp [Fmt.sqrt, hv, Fmt.infRes, Fmt.signBit]

/-- The square root of a value below zero, −∞ among them, is invalid. -/
theorem Fmt.sqrt_negative (hz : (f.val x).isZero = false) (hs : (f.val x).sign = true) : f.sqrt x = { bits := f.nanBits, fl := flNV } := by
  cases hv : f.val x with
  | nan s => rw [hv] at hs; cases hs
  | inf n =>
    obtain rfl : n = true := by rwa [hv] at hs
    simp [Fmt.sqrt, hv, Fmt.nanRes, flagIf]
  | fin n m e =>
    obtain rfl : n = true := by rwa [hv] at hs
    have hm : m ≠ 0 := by simpa [hv, FVal.isZero] using hz
    simp [Fmt.sqrt, hv, hm, Fmt.nanRes, flagIf]

/-- The cases of R105, each with its flags, are one pattern chosen by cases, with those flags. -/
theorem fres_of_cases (xNan yNan zeros : Bool) (fl : FFlags) (nan x y ofZeros other : Nat) :
    (if xNan && yNan then ({ bits := nan, fl := fl } : FRes) else if xNan then { bits := y, fl := fl }
      else if yNan then { bits := x, fl := fl } else if zeros then { bits := ofZeros, fl := fl } else { bits := other, fl := fl }) =
    { fl := fl, bits := if xNan then (if yNan then nan else y) else if yNan then x else if zeros then ofZeros else other } := by
  cases xNan <;> cases yNan <;> cases zeros <;> rfl

/-- FMIN, with the cases of R105 one inside the other. -/
theorem Fmt.min_eq (f : Fmt) (x y : Nat) : f.min x y =
    { fl := flagIf ((f.val x).isSnan || (f.val y).isSnan) flNV, bits :=
      if (f.val x).isNan then (if (f.val y).isNan then f.nanBits else y)
      else if (f.val y).isNan then x
      else if (f.val x).isZero && (f.val y).isZero then (if (f.val x).sign then x else y)
      else if valLt (f.val y) (f.val x) then y else x } :=
  fres_of_cases _ _ _ _ _ _ _ _ _

/-- FMAX, likewise. -/
theorem Fmt.max_eq (f : Fmt) (x y : Nat) : f.max x y =
    { fl := flagIf ((f.val x).isSnan || (f.val y).isSnan) flNV, bits :=
      if (f.val x).isNan then (if (f.val y).isNan then f.nanBits else y)
      else if (f.val y).isNan then x
      else if (f.val x).isZero && (f.val y).isZero then (if (f.val x).sign then y else x)
      else if valLt (f.val x) (f.val y) then y else x } :=
  fres_of_cases _ _ _ _ _ _ _ _ _

/-- FSGN by arithmetic (R106). -/
theorem Fmt.sgn_eq (f : Fmt) (x y : Nat) : f.sgn x y =
    x % 2 ^ (f.ebits + f.mbits) + y / 2 ^ (f.ebits + f.mbits) % 2 * 2 ^ (f.ebits + f.mbits) := by
  rw [Fmt.sgn, Fmt.signBit]
  rcases Nat.mod_two_eq_zero_or_one (y / 2 ^ (f.ebits + f.mbits)) with h | h <;> simp [h]

end

/-! ## The sign of FNMA's result -/

section
variable {f : Fmt} (hf : f.Ieee)
include hf

/-- A delivered result fits the format: its magnitude lies below the sign bit. -/
theorem Fmt.deliver_bits (v : FVal) : ∃ neg c, (f.deliver v).bits = f.signBit neg + c ∧ c < 2 ^ (f.ebits + f.mbits) := by
  obtain ⟨hmax, hnan⟩ := hf.maxc_lt
  have hinf : f.infBits < 2 ^ (f.ebits + f.mbits) := (Nat.le_add_right _ _).trans_lt hnan
  cases v with
  | nan s => exact ⟨false, f.nanBits, (Nat.zero_add _).symm, hnan⟩
  | inf n => exact ⟨n, f.infBits, rfl, hinf⟩
  | fin n m e =>
    by_cases hm : m = 0
    · exact ⟨n, 0, by simp [Fmt.deliver, Fmt.round, hm], Nat.two_pow_pos _⟩
    · obtain ⟨hover, hfin⟩ := Fmt.round_rounds hf n (encloses_exact m e) hm (fun h => by cases h)
        (lt := fun z => (m : ℚ) * 2 ^ e < z) (gt := fun z => z < (m : ℚ) * 2 ^ e)
        (by have := Cut.of_rat ((m : ℚ) * 2 ^ e); push_cast at this; exact this)
      by_cases hlt : (m : ℚ) * 2 ^ e < (2 - 1 / 2 ^ (f.mbits + 1)) * 2 ^ f.bias
      · obtain ⟨c, ⟨hc, -⟩, hbits, -⟩ := hfin hlt
        exact ⟨n, c, hbits, (hc.trans_lt hmax).trans hinf⟩
      · exact ⟨n, f.infBits, (hover hlt).1, hinf⟩

/-- −RoundNE(z + x × y): the sign bit turned, but of the canonical NaN (R104). -/
theorem Fmt.fnma_eq (z x y : Nat) : f.fnma z x y =
    { f.fma z x y with bits :=
      if (f.fma z x y).bits = f.nanBits then f.nanBits
      else if (f.fma z x y).bits < 2 ^ (f.ebits + f.mbits) then (f.fma z x y).bits + 2 ^ (f.ebits + f.mbits)
      else (f.fma z x y).bits - 2 ^ (f.ebits + f.mbits) } := by
  obtain ⟨neg, c, hbits, hc⟩ := Fmt.deliver_bits hf (sumVal [f.val z, mulVal (f.val x) (f.val y)])
  have hsign : (f.fma z x y).bits / 2 ^ (f.ebits + f.mbits) % 2 = 1 ↔ ¬ (f.fma z x y).bits < 2 ^ (f.ebits + f.mbits) := by
    rw [Fmt.fma, hbits]
    cases neg with
    | false => simp [Fmt.signBit, Nat.div_eq_of_lt hc, hc]
    | true => simp [Fmt.signBit, Nat.add_div_left _ (Nat.two_pow_pos _), Nat.div_eq_of_lt hc]
  unfold Fmt.fnma Fmt.flip
  dsimp only
  split
  · rename_i h
    rw [← h]
  · by_cases hlt : (f.fma z x y).bits < 2 ^ (f.ebits + f.mbits)
    · rw [if_neg (fun h => hsign.mp h hlt), if_pos hlt]
    · rw [if_pos (hsign.mpr hlt), if_neg hlt]

end

/-! ## The words -/

/-- The three formats of the scalar words are IEEE formats whose mantissas have less than 32 bits. -/
theorem fmt_ieee (ty : FType) : ty.fmt.Ieee ∧ ty.fmt.mbits ≤ 31 := by
  cases ty <;> exact ⟨⟨by decide, by decide⟩, by decide⟩

/-- A scalar floating-point word whose result commits with a reply (R101). -/
theorem fpLate_completes {s : State} {t : Thread} {srcs : List Src} (h : Ready s t srcs) (d : Reg) (f : Thread → FRes) (n : Thread → Nat) :
    Completes s t srcs (runPure srcs (fun t => (fpCommit d (f t)).late (n t)) s) { writesF d (word (f t).bits) (f t).fl with lat := n t } :=
  (runPure_completes h (fun t => (fpCommit d (f t)).late (n t)) rfl rfl).log []

/-- The reply time of the divider for operands with nothing special (R101). -/
def dividerTime : FType → Nat
  | .f32 => 32
  | .f16 | .bf16 => 24

theorem fdivTime_eq (ty : FType) (u v : FVal) :
    ((u.Special ∨ v.Special) → fdivTime ty u v = 16) ∧ (¬ u.Special → ¬ v.Special → fdivTime ty u v = dividerTime ty) := by
  have hcond : (u.isNan || v.isNan || u.isInf || v.isInf || u.isZero || v.isZero) = true ↔ u.Special ∨ v.Special := by
    simp only [FVal.Special, Bool.or_eq_true]; tauto
  unfold fdivTime
  refine ⟨fun h => if_pos (hcond.mpr h), fun hu hv => (if_neg (fun h => (hcond.mp h).elim hu hv)).trans ?_⟩
  cases ty <;> rfl

theorem fsqrtTime_eq (ty : FType) (u : FVal) :
    ((u.Special ∨ u.sign = true) → fsqrtTime ty u = 16) ∧ (¬ u.Special → u.sign = false → fsqrtTime ty u = dividerTime ty) := by
  have hcond : (u.isNan || u.isInf || u.isZero || u.sign) = true ↔ u.Special ∨ u.sign = true := by
    simp only [FVal.Special, Bool.or_eq_true]; tauto
  unfold fsqrtTime
  refine ⟨fun h => if_pos (hcond.mpr h), fun hu hs => (if_neg (fun h => (hcond.mp h).elim hu (by simp [hs]))).trans ?_⟩
  cases ty <;> rfl

end Sys2Proof.Machine

open Sys2Proof Sys2Proof.Machine

/-- Settles O12: each word commits what its own operation on values gives, in R104's and R105's cases; a quotient and a square root are rounded
once, from enough bits of the exact one to be the nearest value (`Fmt.round_rounds`). -/
theorem floatResults : Obligations.FloatResults := by
  intro s t ty d a b f x y z u v slow snan odd gives
  obtain ⟨hf, hb⟩ := fmt_ieee ty
  have hslow : dividerTime ty = slow := by cases ty <;> rfl
  refine ⟨fun h => ?_, fun h => ⟨?_, ?_⟩⟩
  · refine ⟨?_, ?_, ?_, ?_, ?_, ?_, ?_, ?_, ?_, fdivTime ty u v, f.div x y, ?_, ?_⟩
    · exact fpWord_completes h d (fun t => f.add (fpSrc f t a) (fpSrc f t b))
    · exact fpWord_completes h d (fun t => f.sub (fpSrc f t a) (fpSrc f t b))
    · exact fpWord_completes h d (fun t => f.mul (fpSrc f t a) (fpSrc f t b))
    · exact fpWord_completes h d (fun t => f.fma (fpDst f t d) (fpSrc f t a) (fpSrc f t b))
    · exact fpWord_completes h d (fun t => f.fms (fpDst f t d) (fpSrc f t a) (fpSrc f t b))
    · have hw := fpWord_completes h d (fun t => f.fnma (fpDst f t d) (fpSrc f t a) (fpSrc f t b))
      rw [Fmt.fnma_eq hf] at hw
      exact hw
    · have hw := fpWord_completes h d (fun t => f.min (fpSrc f t a) (fpSrc f t b))
      rw [Fmt.min_eq] at hw
      exact hw
    · have hw := fpWord_completes h d (fun t => f.max (fpSrc f t a) (fpSrc f t b))
      rw [Fmt.max_eq] at hw
      exact hw
    · have hw := fpWord_completes h d (fun t => { bits := f.sgn (fpSrc f t a) (fpSrc f t b), fl := 0 })
      rw [Fmt.sgn_eq] at hw
      exact hw
    · exact fpLate_completes h d (fun t => f.div (fpSrc f t a) (fpSrc f t b)) (fun t => fdivTime ty (f.val (fpSrc f t a)) (f.val (fpSrc f t b)))
    · refine ⟨(fdivTime_eq ty u v).1, fun hu hv => ((fdivTime_eq ty u v).2 hu hv).trans hslow, Fmt.div_nan, Fmt.div_invalid,
        Fmt.div_inf_left, Fmt.div_inf_right, Fmt.div_zero_left, Fmt.div_zero_right, fun hu hv => ?_⟩
      obtain ⟨n, m, e, hx, hm⟩ := FVal.fin_of_not_special hu
      obtain ⟨n', m', e', hy, hm'⟩ := FVal.fin_of_not_special hv
      have hneg : (u.sign != v.sign) = (n != n') := by rw [hx, hy]; rfl
      rw [hneg]
      exact Fmt.div_rounds hf hb hx hy hm hm'
  · refine ⟨fsqrtTime ty u, f.sqrt x,
      fpLate_completes h d (fun t => f.sqrt (fpSrc f t a)) (fun t => fsqrtTime ty (f.val (fpSrc f t a))),
      (fsqrtTime_eq ty u).1, fun hu hs => ((fsqrtTime_eq ty u).2 hu hs).trans hslow, Fmt.sqrt_nan,
      Fmt.sqrt_zero (Nat.mod_lt _ (Nat.two_pow_pos _)), Fmt.sqrt_inf, Fmt.sqrt_negative, fun hu hs => ?_⟩
    obtain ⟨n, m, e, hx, hm⟩ := FVal.fin_of_not_special hu
    obtain rfl : n = false := by rw [hx] at hs; exact hs
    exact Fmt.sqrt_rounds hf hb hx hm
  · exact aluWord_completes h d (fun t => word (f.classOf (fpSrc f t a)))
end

section
/-! SUPPORT. The ring words (18 R293 to R295): the fault of a bank core, how RNGI goes on once its record has passed its checks, RNGA behind its
fence, and the word that RNGQ returns. -/
namespace Sys2Proof.Machine

/-- A word that is ready depends on its meaning at its own thread and state alone (R14). -/
theorem runWord_congr {s : State} {t : Thread} {srcs : List Src} {f g : TRef → Thread → State → Res} (h : Ready s t srcs)
    (hfg : f s.cur.at_ t s = g s.cur.at_ t s) : runWord srcs f s = runWord srcs g s := by
  rw [runWord_ready h, runWord_ready h, hfg]

/-- A word that comes to a commit in the state it ran in, with plain records and no transfer, completes (R18). -/
theorem runWord_completes {s : State} {t : Thread} {srcs : List Src} {f : TRef → Thread → State → Res} {c : Commit} (h : Ready s t srcs)
    (hf : f s.cur.at_ t s = .done c s) (hp : c.log.all LogItem.plain = true) (hn : c.log.any LogItem.isFlow = false) :
    Completes s t srcs (runWord srcs f s) c := by
  rw [runWord_congr (g := fun _ _ s => .done c s) h hf]
  exact runPure_completes h (fun _ => c) hp hn

/-! ## RNGI with its record checked (R293) -/

/-- The state in which the running bundle keeps the pages of its checked shape record. -/
def State.keepShapePages (u : State) (r : TRef) (pages : List Leaf) : State :=
  u.modThread r (fun t => { t with prepared := some (.shape pages) })

/-- The four words of the shape record at x, each in the place where its check has found it. -/
def shapePlaces (r : TRef) (pages : List Leaf) (x : Word) : List (Word × Place) :=
  ([0, 1, 2, 3] : List Nat).map (fun i => (x + word (8 * i), keptPlace r pages (x + word (8 * i))))

section
variable {ring : RingId} {k : ClusterId} {x w0 w1 w2 w3 : Word} {pages : List Leaf} {r : TRef} {t : Thread} {u s2 : State} {lat : Nat}

/-- A ring that a queued job names holds RNGI back, its pages kept (R272). -/
theorem bindRing_named (hj : ringJobs (u.keepShapePages r pages) r.part k ring ≠ 0) :
    bindRing ring k x pages r t u = .wait (.ringFree ring) (u.keepShapePages r pages) :=
  if_pos hj

/-- On a ring that no job names, the record is read: a shape that R271 does not hold valid faults, with EADDR the record's address. -/
theorem bindRing_invalid (hj : ringJobs (u.keepShapePages r pages) r.part k ring = 0)
    (hr : readRecord r t (shapePlaces r pages x) (u.keepShapePages r pages) = .ok ([w0, w1, w2, w3], lat, s2))
    (hs : shapeOf w0 w1 w2 w3 = none) : bindRing ring k x pages r t u = .trap .shape (some x) s2 := by
  unfold State.keepShapePages at hj hr
  unfold shapePlaces at hr
  simp only [bindRing, hj, hr, hs, ne_eq, not_true_eq_false, if_false]

/-- A valid shape is bound, with no tile in the ring. -/
theorem bindRing_valid {sh : Shape} (hj : ringJobs (u.keepShapePages r pages) r.part k ring = 0)
    (hr : readRecord r t (shapePlaces r pages x) (u.keepShapePages r pages) = .ok ([w0, w1, w2, w3], lat, s2))
    (hs : shapeOf w0 w1 w2 w3 = some sh) :
    bindRing ring k x pages r t u =
      .done (Commit.none.late lat) (s2.setRing r.part k ring { shape := some sh, head := 0, count := 0 }) := by
  unfold State.keepShapePages at hj hr
  unfold shapePlaces at hr
  simp only [bindRing, hj, hr, hs, ne_eq, not_true_eq_false, if_false]

end

/-! ## The word of a ring (R295) -/

theorem ringWord_unbound {x : Ring} (hx : x.shape = none) (jobs : Nat) : ringWord x jobs = 0 := by
  simp only [ringWord, hx]

theorem ringWord_bound {x : Ring} {sh : Shape} (hx : x.shape = some sh) (jobs : Nat) :
    ringWord x jobs = word (2 ^ 40 + jobs % 256 * 2 ^ 32 + sh.slots % 256 * 2 ^ 24 + x.count % 256 * 2 ^ 8 + x.head % 256) := by
  simp only [ringWord, hx]

/-! ## The words -/

section
variable {s : State} {t : Thread} {a : Src} {ring : RingId} {d : Reg}

/-- A bank core has no ring (R148): every ring word faults there. -/
theorem ringWords_bank (hk : clusterOf s.cur.at_.core = none) :
    (Ready s t [a] → Faults s s (execRngi ring a s) .target none ∧ Faults s s (execRnga ring a s) .target none) ∧
    (Ready s t [] → Faults s s (execRngq d ring s) .target none) :=
  ⟨fun h => ⟨runWord_faults h (by simp only [hk]), runWord_faults h (by simp only [hk])⟩, fun h => runWord_faults h (by simp only [hk])⟩

variable {k : ClusterId} (hk : clusterOf s.cur.at_.core = some k)
include hk

/-- RNGI's record is checked once (R293): a bundle that issues again goes on with the pages that it keeps. -/
theorem execRngi_kept {kept : List Leaf} (h : Ready s t [a]) (hp : t.prepared = some (.shape kept)) :
    execRngi ring a s = runWord [a] (fun r t _ => bindRing ring k (t.rd a) kept r t s) s :=
  runWord_congr h (by simp only [hk, hp])

/-- At its first issue RNGI goes on with the pages of its checks. -/
theorem execRngi_checked {ps : List (Word × Place)} {s1 : State} (h : Ready s t [a]) (hp : t.prepared = none)
    (hc : checkRecord s s.cur.at_ t (t.rd a) [3, 2, 1, 0] = .ok (ps, s1)) :
    execRngi ring a s = runWord [a] (fun r t _ => bindRing ring k (t.rd a) (placePages ps) r t s1) s :=
  runWord_congr h (by simp only [hk, hp, hc])

/-- RNGA waits first as FENCE.clu does (R294). -/
theorem execRnga_waits (h : Ready s t [a]) (hf : fenceMet s s.cur.at_ t .clu = false) : Waits s s (execRnga ring a s) (.fence .clu) :=
  runWord_waits h (by simp only [hk, fenced, hf, Bool.false_eq_true, if_false])

section
variable (h : Ready s t [a]) (hf : fenceMet s s.cur.at_ t .clu = true)
include h hf

/-- RNGA on an unbound ring faults (R294). -/
theorem execRnga_unbound (hx : (s.ring s.cur.at_.part k ring).shape = none) : Faults s s (execRnga ring a s) .ring none :=
  runWord_faults h (by simp only [hk, fenced, hf, if_true, hx])

variable {sh : Shape} (hx : (s.ring s.cur.at_.part k ring).shape = some sh)
include hx

/-- Tiles beyond the ring's slots fault. -/
theorem execRnga_beyond (hn : sh.slots < (s.ring s.cur.at_.part k ring).count + (t.rd a).toNat) :
    Faults s s (execRnga ring a s) .ring none :=
  runWord_faults h (by simp only [hk, fenced, hf, if_true, hx, hn])

/-- Tiles within the ring's slots are added, the rest of the ring as it was. -/
theorem execRnga_adds (hn : (s.ring s.cur.at_.part k ring).count + (t.rd a).toNat ≤ sh.slots) :
    Commits s
      (s.setRing s.cur.at_.part k ring
        { s.ring s.cur.at_.part k ring with count := (s.ring s.cur.at_.part k ring).count + (t.rd a).toNat })
      [a] (execRnga ring a s) Commit.none :=
  runWord_commits h (by simp only [hk, fenced, hf, if_true, hx, if_neg (Nat.not_lt.mpr hn)])

end

/-- RNGQ returns the ring's word 10 cycles after its issue (R295). -/
theorem execRngq_completes (h : Ready s t []) {v : Word}
    (hv : ringWord (s.ring s.cur.at_.part k ring) (ringJobs s s.cur.at_.part k ring) = v) :
    Completes s t [] (execRngq d ring s) { writes d v with lat := 10 } :=
  (runWord_completes (c := (Commit.reg d v).late 10) h (by simp only [hk, hv]) rfl rfl).log []

end

end Sys2Proof.Machine

open Sys2Proof Sys2Proof.Machine

/-- Settles O43: a bank core faults; RNGI, once its record is checked, is `bindRing`, whether its pages are its own or kept; RNGA is decided by its
fence, the ring's shape and its slots; and RNGQ returns `ringWord`. -/
theorem ringResults : Obligations.RingResults := by
  intro s s1 s2 t ring d a k sh ps kept w0 w1 w2 w3 lat r x n rngi binds
  have goesOn {pages : List Leaf} {u : State} (h : Ready s t [a])
      (hw : rngi = runWord [a] (fun r t _ => bindRing ring k (t.rd a) pages r t u) s) : binds pages u := by
    refine ⟨fun hj => ?_, fun hj hr => ⟨fun hs => ?_, fun hs => ?_⟩⟩
    · exact hw ▸ runWord_waits h (bindRing_named hj)
    · exact hw ▸ runWord_faults h (bindRing_invalid hj hr hs)
    · exact hw ▸ runWord_commits h (bindRing_valid hj hr hs)
  refine ⟨ringWords_bank,
    fun hk h => ⟨fun hp => ?_, fun hp hc => ?_, fun hf => ?_, fun hf => ⟨fun hx => ?_, fun hx hn => ?_, fun hx hn => ?_⟩⟩,
    fun hk h => ⟨fun hx => ?_, fun hx => ?_⟩⟩
  · exact goesOn h (execRngi_kept hk h hp)
  · exact goesOn h (execRngi_checked hk h hp hc)
  · exact execRnga_waits hk h hf
  · exact execRnga_unbound hk h hf hx
  · exact execRnga_beyond hk h hf hx hn
  · exact execRnga_adds hk h hf hx hn
  · exact execRngq_completes hk h (ringWord_unbound hx _)
  · exact execRngq_completes hk h (ringWord_bound hx _)
end

section
/-! SUPPORT. The fields of a word (03 R37, R38): reading one from a packed word gives what was packed, and a word's fields pack to the word
with bit L set. -/
namespace Sys2Proof

section
variable (k : BitVec 1) (major : BitVec 6) (d a b : BitVec 4) (sa sb : BitVec 1) (minor : BitVec 10) (low : BitVec 15) (off : BitVec 20)
  (sig dig : BitVec 12)

theorem packRR_toNat : (packRR k major d sa a sb b minor).toNat =
   2 ^ 31 + k.toNat * 2 ^ 30 + major.toNat * 2 ^ 24 + d.toNat * 2 ^ 20 + sa.toNat * 2 ^ 19 + a.toNat * 2 ^ 15 + sb.toNat * 2 ^ 14 +
     b.toNat * 2 ^ 10 + minor.toNat := by
  simp only [packRR, BitVec.toNat_append]
  repeat rw [← Nat.shiftLeft_add_eq_or_of_lt (BitVec.isLt _)]
  simp [Nat.shiftLeft_eq]
  omega

theorem packM_toNat : (packM k major d sa a low).toNat =
   2 ^ 31 + k.toNat * 2 ^ 30 + major.toNat * 2 ^ 24 + d.toNat * 2 ^ 20 + sa.toNat * 2 ^ 19 + a.toNat * 2 ^ 15 + low.toNat := by
  simp only [packM, BitVec.toNat_append]
  repeat rw [← Nat.shiftLeft_add_eq_or_of_lt (BitVec.isLt _)]
  simp [Nat.shiftLeft_eq]
  omega

theorem packJ_toNat : (packJ k major d off).toNat = 2 ^ 31 + k.toNat * 2 ^ 30 + major.toNat * 2 ^ 24 + d.toNat * 2 ^ 20 + off.toNat := by
  simp only [packJ, BitVec.toNat_append]
  repeat rw [← Nat.shiftLeft_add_eq_or_of_lt (BitVec.isLt _)]
  simp [Nat.shiftLeft_eq]
  omega

theorem packG_toNat : (packG k major sig dig).toNat =
    2 ^ 31 + k.toNat * 2 ^ 30 + major.toNat * 2 ^ 24 + sig.toNat * 2 ^ 12 + dig.toNat := by
  simp only [packG, BitVec.toNat_append]
  repeat rw [← Nat.shiftLeft_add_eq_or_of_lt (BitVec.isLt _)]
  simp [Nat.shiftLeft_eq]
  omega

theorem extract_eq {n : Nat} {w : BitVec 32} {pos : Nat} {x : BitVec n} (h : w.toNat / 2 ^ pos % 2 ^ n = x.toNat) :
    w.extractLsb' pos n = x :=
  BitVec.eq_of_toNat_eq (by rw [BitVec.extractLsb'_toNat, Nat.shiftRight_eq_div_pow, h])

@[simp] theorem wK_packRR : wK (packRR k major d sa a sb b minor) = k := extract_eq (by rw [packRR_toNat]; omega)
@[simp] theorem wMajor_packRR : wMajor (packRR k major d sa a sb b minor) = major := extract_eq (by rw [packRR_toNat]; omega)
@[simp] theorem wD_packRR : wD (packRR k major d sa a sb b minor) = d := extract_eq (by rw [packRR_toNat]; omega)
@[simp] theorem wSa_packRR : wSa (packRR k major d sa a sb b minor) = sa := extract_eq (by rw [packRR_toNat]; omega)
@[simp] theorem wA_packRR : wA (packRR k major d sa a sb b minor) = a := extract_eq (by rw [packRR_toNat]; omega)
@[simp] theorem wSb_packRR : wSb (packRR k major d sa a sb b minor) = sb := extract_eq (by rw [packRR_toNat]; omega)
@[simp] theorem wB_packRR : wB (packRR k major d sa a sb b minor) = b := extract_eq (by rw [packRR_toNat]; omega)
@[simp] theorem wMinor_packRR : wMinor (packRR k major d sa a sb b minor) = minor := extract_eq (by rw [packRR_toNat]; omega)

@[simp] theorem wK_packM : wK (packM k major d sa a low) = k := extract_eq (by rw [packM_toNat]; omega)
@[simp] theorem wMajor_packM : wMajor (packM k major d sa a low) = major := extract_eq (by rw [packM_toNat]; omega)
@[simp] theorem wD_packM : wD (packM k major d sa a low) = d := extract_eq (by rw [packM_toNat]; omega)
@[simp] theorem wSa_packM : wSa (packM k major d sa a low) = sa := extract_eq (by rw [packM_toNat]; omega)
@[simp] theorem wA_packM : wA (packM k major d sa a low) = a := extract_eq (by rw [packM_toNat]; omega)
@[simp] theorem wOff15_packM : wOff15 (packM k major d sa a low) = low := extract_eq (by rw [packM_toNat]; omega)

@[simp] theorem wK_packJ : wK (packJ k major d off) = k := extract_eq (by rw [packJ_toNat]; omega)
@[simp] theorem wMajor_packJ : wMajor (packJ k major d off) = major := extract_eq (by rw [packJ_toNat]; omega)
@[simp] theorem wD_packJ : wD (packJ k major d off) = d := extract_eq (by rw [packJ_toNat]; omega)
@[simp] theorem wOff20_packJ : wOff20 (packJ k major d off) = off := extract_eq (by rw [packJ_toNat]; omega)

@[simp] theorem wK_packG : wK (packG k major sig dig) = k := extract_eq (by rw [packG_toNat]; omega)
@[simp] theorem wMajor_packG : wMajor (packG k major sig dig) = major := extract_eq (by rw [packG_toNat]; omega)
end

/-- Setting bit L keeps bits 30:0. -/
theorem or_bitL_toNat (w : BitVec 32) : (w ||| 0x80000000).toNat = 2 ^ 31 + w.toNat % 2 ^ 31 := by
  have h := Nat.two_pow_add_eq_or_of_lt (i := 31) (Nat.mod_lt w.toNat (by decide)) 1
  rw [Nat.mul_one] at h
  show w.toNat ||| 2 ^ 31 = _
  rw [h]
  rcases (by omega : w.toNat / 2 ^ 31 = 0 ∨ w.toNat / 2 ^ 31 = 1) with hq | hq
  · rw [Nat.mod_eq_of_lt (by omega), Nat.or_comm]
  · have hw := Nat.two_pow_add_eq_or_of_lt (i := 31) (Nat.mod_lt w.toNat (by decide)) (w.toNat / 2 ^ 31)
    rw [Nat.div_add_mod, hq, Nat.mul_one] at hw
    calc w.toNat ||| 2 ^ 31 = 2 ^ 31 ||| (2 ^ 31 ||| w.toNat % 2 ^ 31) := by rw [← hw, Nat.or_comm]
      _ = 2 ^ 31 ||| w.toNat % 2 ^ 31 := by rw [← Nat.or_assoc, Nat.or_self]

section
variable (w : BitVec 32)

theorem packRR_fields : packRR (wK w) (wMajor w) (wD w) (wSa w) (wA w) (wSb w) (wB w) (wMinor w) = w ||| 0x80000000 := by
  apply BitVec.eq_of_toNat_eq
  rw [packRR_toNat, or_bitL_toNat]
  simp only [wK, wMajor, wD, wSa, wA, wSb, wB, wMinor, BitVec.extractLsb'_toNat, Nat.shiftRight_eq_div_pow]
  omega
theorem packM_fields : packM (wK w) (wMajor w) (wD w) (wSa w) (wA w) (wOff15 w) = w ||| 0x80000000 := by
  apply BitVec.eq_of_toNat_eq
  rw [packM_toNat, or_bitL_toNat]
  simp only [wK, wMajor, wD, wSa, wA, wOff15, BitVec.extractLsb'_toNat, Nat.shiftRight_eq_div_pow]
  omega
theorem packJ_fields : packJ (wK w) (wMajor w) (wD w) (wOff20 w) = w ||| 0x80000000 := by
  apply BitVec.eq_of_toNat_eq
  rw [packJ_toNat, or_bitL_toNat]
  simp only [wK, wMajor, wD, wOff20, BitVec.extractLsb'_toNat, Nat.shiftRight_eq_div_pow]
  omega
theorem packG_fields : packG (wK w) (wMajor w) (w.extractLsb' 12 12) (w.extractLsb' 0 12) = w ||| 0x80000000 := by
  apply BitVec.eq_of_toNat_eq
  rw [packG_toNat, or_bitL_toNat]
  simp only [wK, wMajor, BitVec.extractLsb'_toNat, Nat.shiftRight_eq_div_pow]
  omega
end
end Sys2Proof
end

section
/-! SUPPORT. What a decoding that succeeds has met: its conditions, and a code for each field (03 R39 to R48). -/
namespace Sys2Proof

/-! ## What a decoding that succeeds has met -/

theorem ok_inj_iff {α : Type} {a b : α} : (Except.ok a : Except Reject α) = .ok b ↔ a = b := ⟨Except.ok.inj, congrArg _⟩

@[simp] theorem bind_ok_iff {α β : Type} {x : Except Reject α} {f : α → Except Reject β} {b : β} :
    (x >>= f) = .ok b ↔ ∃ a, x = .ok a ∧ f a = .ok b := by
  cases x with
  | error e => exact ⟨nofun, nofun⟩
  | ok a => exact ⟨fun h => ⟨a, rfl, h⟩, fun ⟨_, ha, h⟩ => Except.ok.inj ha ▸ h⟩

@[simp] theorem map_ok_iff {α β : Type} {x : Except Reject α} {f : α → β} {b : β} : f <$> x = .ok b ↔ ∃ a, x = .ok a ∧ f a = b := by
  cases x with
  | error e => exact ⟨nofun, nofun⟩
  | ok a => exact ⟨fun h => ⟨a, rfl, Except.ok.inj h⟩, fun ⟨_, ha, h⟩ => Except.ok.inj ha ▸ congrArg _ h⟩

@[simp] theorem pure_ok_iff {α : Type} {a b : α} : (pure a : Except Reject α) = .ok b ↔ a = b := ok_inj_iff

@[simp] theorem need_ok_iff {c : Bool} {r : Reject} {u : Unit} : need c r = .ok u ↔ c = true := by
  cases c <;> simp [need]

@[simp] theorem code_ok_iff {α : Type} {x : Option α} {a : α} : code x = .ok a ↔ x = some a := by
  cases x <;> simp [code]

@[simp] theorem vregOf_ok_iff {x : BitVec 4} {v : VReg} : vregOf x = .ok v ↔ x = vregField v := by
  unfold vregOf vregField
  split
  case isTrue h =>
    rw [ok_inj_iff, Fin.ext_iff, ← BitVec.toNat_inj, BitVec.toNat_ofNat, Nat.mod_eq_of_lt (by omega)]
  case isFalse h =>
    refine ⟨nofun, fun hx => absurd ?_ h⟩
    rw [hx, BitVec.toNat_ofNat, Nat.mod_eq_of_lt (by omega)]; exact v.isLt

@[simp] theorem mregOf_ok_iff {x : BitVec 4} {m : MReg} : mregOf x = .ok m ↔ x = mregField m := by
  unfold mregOf mregField
  split
  case isTrue h =>
    rw [ok_inj_iff, Fin.ext_iff, ← BitVec.toNat_inj, BitVec.toNat_ofNat, Nat.mod_eq_of_lt (by omega)]
  case isFalse h =>
    refine ⟨nofun, fun hx => absurd ?_ h⟩
    rw [hx, BitVec.toNat_ofNat, Nat.mod_eq_of_lt (by omega)]; exact m.isLt

/-- Bits 6:4 hold the mask's field. -/
@[simp] theorem maskOf_ok_iff {x : BitVec 10} {m : Option MReg} : maskOf x = .ok m ↔ x.toNat / 16 % 8 * 16 = maskBits m := by
  have h1 : x.extractLsb' 4 1 = 1 ↔ x.toNat / 16 % 2 = 1 := by
    rw [← BitVec.toNat_inj, BitVec.extractLsb'_toNat, Nat.shiftRight_eq_div_pow]; rfl
  have h2 : x.extractLsb' 5 2 = 0 ↔ x.toNat / 32 % 4 = 0 := by
    rw [← BitVec.toNat_inj, BitVec.extractLsb'_toNat, Nat.shiftRight_eq_div_pow]; rfl
  have h3 : ((x.extractLsb' 5 2).toFin : Fin 4).val = x.toNat / 32 % 4 := by
    show (x.extractLsb' 5 2).toNat = _
    rw [BitVec.extractLsb'_toNat, Nat.shiftRight_eq_div_pow]
  unfold maskOf
  simp only [h1, h2]
  split
  case isTrue hb =>
    cases m with
    | none => simp [maskBits]; omega
    | some m =>
      rw [ok_inj_iff, Option.some_inj, Fin.ext_iff, h3]; simp only [maskBits]; omega
  case isFalse hb =>
    cases m with
    | none => split <;> simp [maskBits] <;> omega
    | some m => split <;> simp [maskBits] <;> omega

/-! ## Codes and the values that they stand for -/

@[simp] theorem ldTypeOf_iff {n : Nat} {x : LdType} : ldTypeOf n = some x ↔ n = x.code := by
  refine ⟨fun h => ?_, ?_⟩
  · unfold ldTypeOf at h; split at h <;> cases h <;> rfl
  · rintro rfl; cases x <;> rfl
@[simp] theorem stTypeOf_iff {n : Nat} {x : StType} : stTypeOf n = some x ↔ n = x.code := by
  refine ⟨fun h => ?_, ?_⟩
  · unfold stTypeOf at h; split at h <;> cases h <;> rfl
  · rintro rfl; cases x <;> rfl
@[simp] theorem ccOf_iff {n : Nat} {x : Cc} : ccOf n = some x ↔ n = x.code := by
  refine ⟨fun h => ?_, ?_⟩
  · unfold ccOf at h; split at h <;> cases h <;> rfl
  · rintro rfl; cases x <;> rfl
@[simp] theorem brCcOf_iff {n : Nat} {x : BrCc} : brCcOf n = some x ↔ n = x.code := by
  refine ⟨fun h => ?_, ?_⟩
  · unfold brCcOf at h; split at h <;> cases h <;> rfl
  · rintro rfl; cases x <;> rfl
@[simp] theorem fccOf_iff {n : Nat} {x : FCc} : fccOf n = some x ↔ n = x.code := by
  refine ⟨fun h => ?_, ?_⟩
  · unfold fccOf at h; split at h <;> cases h <;> rfl
  · rintro rfl; cases x <;> rfl
@[simp] theorem scopeOf_iff {n : Nat} {x : Scope} : scopeOf n = some x ↔ n = x.code := by
  refine ⟨fun h => ?_, ?_⟩
  · unfold scopeOf at h; split at h <;> cases h <;> rfl
  · rintro rfl; cases x <;> rfl
@[simp] theorem fTypeOf_iff {n : Nat} {x : FType} : fTypeOf n = some x ↔ n = x.code := by
  refine ⟨fun h => ?_, ?_⟩
  · unfold fTypeOf at h; split at h <;> cases h <;> rfl
  · rintro rfl; cases x <;> rfl
@[simp] theorem cTypeOf_iff {n : Nat} {x : CType} : cTypeOf n = some x ↔ n = x.code := by
  refine ⟨fun h => ?_, ?_⟩
  · unfold cTypeOf at h; split at h <;> cases h <;> rfl
  · rintro rfl; cases x <;> rfl
@[simp] theorem iTypeOf_iff {n : Nat} {x : IType} : iTypeOf n = some x ↔ n = x.code := by
  refine ⟨fun h => ?_, ?_⟩
  · unfold iTypeOf at h; split at h <;> cases h <;> rfl
  · rintro rfl; cases x <;> rfl
@[simp] theorem rModeOf_iff {n : Nat} {x : RMode} : rModeOf n = some x ↔ n = x.code := by
  refine ⟨fun h => ?_, ?_⟩
  · unfold rModeOf at h; split at h <;> cases h <;> rfl
  · rintro rfl; cases x <;> rfl
@[simp] theorem vTypeOf_iff {n : Nat} {x : VType} : vTypeOf n = some x ↔ n = x.code := by
  refine ⟨fun h => ?_, ?_⟩
  · unfold vTypeOf at h; split at h <;> cases h <;> rfl
  · rintro rfl; cases x <;> rfl
@[simp] theorem redOpOf_iff {n : Nat} {x : RedOp} : redOpOf n = some x ↔ n = x.code := by
  refine ⟨fun h => ?_, ?_⟩
  · unfold redOpOf at h; split at h <;> cases h <;> rfl
  · rintro rfl; cases x <;> rfl
@[simp] theorem amoOpOf_iff {n : Nat} {x : AmoOp} : amoOpOf n = some x ↔ n = x.code := by
  refine ⟨fun h => ?_, ?_⟩
  · unfold amoOpOf at h; split at h <;> cases h <;> rfl
  · rintro rfl; cases x <;> rfl
@[simp] theorem amoSizeOf_iff {n : Nat} {x : AmoSize} : amoSizeOf n = some x ↔ n = x.code := by
  refine ⟨fun h => ?_, ?_⟩
  · unfold amoSizeOf at h; split at h <;> cases h <;> rfl
  · rintro rfl; cases x <;> rfl
@[simp] theorem semiringOf_iff {n : Nat} {x : Semiring} : semiringOf n = some x ↔ n = x.code := by
  refine ⟨fun h => ?_, ?_⟩
  · unfold semiringOf at h; split at h <;> cases h <;> rfl
  · rintro rfl; cases x <;> rfl
@[simp] theorem popOf_iff {n : Nat} {x : Pop} : popOf n = some x ↔ n = x.code := by
  refine ⟨fun h => ?_, ?_⟩
  · unfold popOf at h; split at h <;> cases h <;> rfl
  · rintro rfl; cases x <;> rfl
@[simp] theorem sysRegOf_iff {n : Nat} {x : SysReg} : sysRegOf n = some x ↔ n = x.num := by
  refine ⟨fun h => ?_, ?_⟩
  · unfold sysRegOf at h; split at h <;> cases h <;> rfl
  · rintro rfl
    cases x with
    | accst i | ptroot i | slim i | shcnt i | pcnt i => revert i; decide
    | _ => rfl

end Sys2Proof
end

section
/-! SUPPORT. The operand forms read back what the encoder writes (03 R57). -/
namespace Sys2Proof

/-! ## The words that the encoder writes, field by field -/

@[simp] theorem syncBit_beq_one (v : Bool) : (syncBit v == 1#1) = v := by cases v <;> rfl
@[simp] theorem regField_toFin (g : Reg) : (regField g).toFin = g := rfl
@[simp] theorem minorOf_toNat (n : Nat) : (minorOf n).toNat = n % 1024 := rfl

section
variable (k : BitVec 1) (major : BitVec 6) (d a b : BitVec 4) (x : Src) (sa sb : BitVec 1) (minor : BitVec 10) (low : BitVec 15)
  (off : BitVec 20) (g : Reg)
@[simp] theorem wSrcA_packRR : wSrcA (packRR k major d (syncBit x.sync) (regField x.reg) sb b minor) = x := by simp [wSrcA]
@[simp] theorem wSrcB_packRR : wSrcB (packRR k major d sa a (syncBit x.sync) (regField x.reg) minor) = x := by simp [wSrcB]
@[simp] theorem wSrcA_packM : wSrcA (packM k major d (syncBit x.sync) (regField x.reg) low) = x := by simp [wSrcA]
@[simp] theorem wRegD_packRR : wRegD (packRR k major (regField g) sa a sb b minor) = g := by simp [wRegD]
@[simp] theorem wRegD_packM : wRegD (packM k major (regField g) sa a low) = g := by simp [wRegD]
@[simp] theorem wRegD_packJ : wRegD (packJ k major (regField g) off) = g := by simp [wRegD]
end

section
variable (k : BitVec 1) (major : BitVec 6) (d : Reg) (a b : Src) (n : Nat) (low : BitVec 15) (v x y : VReg)
@[simp] theorem wK_enc3r : wK (enc3r k major d a b n) = k := wK_packRR ..
@[simp] theorem wK_enc2r : wK (enc2r k major d a n) = k := wK_packRR ..
@[simp] theorem wK_encM2 : wK (encM2 k major a b n) = k := wK_packRR ..
@[simp] theorem wK_encM1 : wK (encM1 k major a n) = k := wK_packRR ..
@[simp] theorem wK_encD : wK (encD k major d n) = k := wK_packRR ..
@[simp] theorem wK_enc0 : wK (enc0 k major n) = k := wK_packRR ..
@[simp] theorem wK_encMo : wK (encMo k major d a low) = k := wK_packM ..
@[simp] theorem wK_encV3 : wK (encV3 major v x y n) = 1#1 := wK_packRR ..
@[simp] theorem wMajor_enc3r : wMajor (enc3r k major d a b n) = major := wMajor_packRR ..
@[simp] theorem wMajor_enc2r : wMajor (enc2r k major d a n) = major := wMajor_packRR ..
@[simp] theorem wMajor_encM2 : wMajor (encM2 k major a b n) = major := wMajor_packRR ..
@[simp] theorem wMajor_encM1 : wMajor (encM1 k major a n) = major := wMajor_packRR ..
@[simp] theorem wMajor_encD : wMajor (encD k major d n) = major := wMajor_packRR ..
@[simp] theorem wMajor_enc0 : wMajor (enc0 k major n) = major := wMajor_packRR ..
@[simp] theorem wMajor_encMo : wMajor (encMo k major d a low) = major := wMajor_packM ..
@[simp] theorem wMajor_encV3 : wMajor (encV3 major v x y n) = major := wMajor_packRR ..
@[simp] theorem wMinor_enc3r : wMinor (enc3r k major d a b n) = minorOf n := wMinor_packRR ..
@[simp] theorem wMinor_enc2r : wMinor (enc2r k major d a n) = minorOf n := wMinor_packRR ..
@[simp] theorem wMinor_encM2 : wMinor (encM2 k major a b n) = minorOf n := wMinor_packRR ..
@[simp] theorem wMinor_encM1 : wMinor (encM1 k major a n) = minorOf n := wMinor_packRR ..
@[simp] theorem wMinor_encD : wMinor (encD k major d n) = minorOf n := wMinor_packRR ..
@[simp] theorem wMinor_enc0 : wMinor (enc0 k major n) = minorOf n := wMinor_packRR ..
@[simp] theorem wMinor_encV3 : wMinor (encV3 major v x y n) = minorOf n := wMinor_packRR ..
@[simp] theorem wOff15_encMo : wOff15 (encMo k major d a low) = low := wOff15_packM ..
@[simp] theorem wRegD_encMo : wRegD (encMo k major d a low) = d := wRegD_packM ..
@[simp] theorem wSrcA_encMo : wSrcA (encMo k major d a low) = a := wSrcA_packM ..
@[simp] theorem form3r_enc3r (f : Reg → Src → Src → Instr) : form3r (enc3r k major d a b n) f = .ok (f d a b) := by
  simp [form3r, enc3r]
@[simp] theorem form2r_enc2r (f : Reg → Src → Instr) : form2r (enc2r k major d a n) f = .ok (f d a) := by
  simp [form2r, enc2r, noB]
@[simp] theorem formM2_encM2 (f : Src → Src → Instr) : formM2 (encM2 k major a b n) f = .ok (f a b) := by
  simp [formM2, encM2, noD]
@[simp] theorem formM1_encM1 (f : Src → Instr) : formM1 (encM1 k major a n) f = .ok (f a) := by
  simp [formM1, encM1, noB, noD]
@[simp] theorem formD_encD (f : Reg → Instr) : formD (encD k major d n) f = .ok (f d) := by
  simp [formD, encD, noA, noB]
@[simp] theorem form0_enc0 (i : Instr) : form0 (enc0 k major n) i = .ok i := by
  simp [form0, enc0, noA, noB, noD]
@[simp] theorem formMo_encMo (f : Reg → Src → BitVec 15 → Instr) : formMo (encMo k major d a low) f = .ok (f d a low) := by
  simp [formMo]
end

/-- The minor field of a typed vector form holds its type, its mask and its operation. -/
theorem vMinor_fields (ty : VType) (m : Option MReg) {op : Nat} (h : op < 16) :
    vMinor ty m op < 1024 ∧ vMinor ty m op / 128 = ty.code ∧ vMinor ty m op / 16 % 8 * 16 = maskBits m ∧ vMinor ty m op % 16 = op := by
  have ht : ty.code < 8 := by cases ty <;> decide
  have hm : maskBits m < 128 ∧ maskBits m % 16 = 0 := by
    cases m with
    | none => decide
    | some m => simp only [maskBits]; omega
  unfold vMinor; omega

end Sys2Proof
end

section
/-! SUPPORT. Fields made of parts: immediates, masks and minor fields (03 R38, R44, R46). -/
namespace Sys2Proof

/-! ## Low fields made of parts -/

theorem extract_low_eq {m n : Nat} {x : BitVec m} {pos : Nat} {y : BitVec n} (h : x.toNat / 2 ^ pos % 2 ^ n = y.toNat) :
    x.extractLsb' pos n = y :=
  BitVec.eq_of_toNat_eq (by rw [BitVec.extractLsb'_toNat, Nat.shiftRight_eq_div_pow, h])

theorem append_toNat {m n : Nat} (x : BitVec m) (y : BitVec n) : (x ++ y).toNat = x.toNat * 2 ^ n + y.toNat := by
  rw [BitVec.toNat_append, ← Nat.shiftLeft_add_eq_or_of_lt y.isLt, Nat.shiftLeft_eq]

section
variable (k : BitVec 1) (major : BitVec 6) (d : Reg) (a b : Src)

theorem bitFieldOf_encMo {pos wm1 : BitVec 6} (h : pos.toNat + wm1.toNat + 1 ≤ 64) :
    bitFieldOf (encMo k major d a (0#3 ++ pos ++ wm1)) = .ok (pos, wm1) := by
  have hl : (0#3 ++ pos ++ wm1).toNat = pos.toNat * 64 + wm1.toNat := by
    rw [append_toNat, append_toNat, BitVec.toNat_ofNat]; omega
  have h1 : (0#3 ++ pos ++ wm1).extractLsb' 12 3 = 0#3 := extract_low_eq (by rw [hl, BitVec.toNat_ofNat]; omega)
  have h2 : (0#3 ++ pos ++ wm1).extractLsb' 6 6 = pos := extract_low_eq (by rw [hl]; omega)
  have h3 : (0#3 ++ pos ++ wm1).extractLsb' 0 6 = wm1 := extract_low_eq (by rw [hl]; omega)
  simp [bitFieldOf, h1, h2, h3, h]

@[simp] theorem shiftOf_encMo (n : BitVec 6) : shiftOf (encMo k major d a (0#9 ++ n)) = .ok n := by
  have hl : (0#9 ++ n).toNat = n.toNat := by rw [append_toNat, BitVec.toNat_ofNat]; omega
  have h1 : (0#9 ++ n).extractLsb' 6 9 = 0#9 := extract_low_eq (by rw [hl, BitVec.toNat_ofNat]; omega)
  have h2 : (0#9 ++ n).extractLsb' 0 6 = n := extract_low_eq (by rw [hl]; omega)
  simp [shiftOf, h1, h2]

@[simp] theorem bindOf_enc3r (bd : Option SReg) : bindOf (enc3r k major d a b (bindBits bd)) = .ok bd := by
  cases bd with
  | none => simp [bindOf, bindBits]
  | some s => revert s; simp [bindOf, bindBits]; decide

@[simp] theorem numOf_packM (d a : BitVec 4) (sa : BitVec 1) (n : BitVec 12) : numOf (packM k major d sa a (0#3 ++ n)) = .ok n := by
  have hl : (0#3 ++ n).toNat = n.toNat := by rw [append_toNat, BitVec.toNat_ofNat]; omega
  have h1 : (0#3 ++ n).extractLsb' 12 3 = 0#3 := extract_low_eq (by rw [hl, BitVec.toNat_ofNat]; omega)
  have h2 : (0#3 ++ n).extractLsb' 0 12 = n := extract_low_eq (by rw [hl]; omega)
  simp [numOf, h1, h2]

end

theorem SysReg.num_lt (r : SysReg) : r.num < 4096 := by
  cases r <;> simp only [SysReg.num] <;> omega

/-- A register's number in the S format's low field. -/
theorem num_low (r : SysReg) : BitVec.ofNat 15 r.num = 0#3 ++ BitVec.ofNat 12 r.num := by
  have := r.num_lt
  apply BitVec.eq_of_toNat_eq
  rw [append_toNat, BitVec.toNat_ofNat, BitVec.toNat_ofNat, BitVec.toNat_ofNat]; omega

/-- A trap's number in the S format's low field. -/
theorem trap_low (n : BitVec 10) : 0#5 ++ n = 0#3 ++ (0#2 ++ n) := by
  apply BitVec.eq_of_toNat_eq
  rw [append_toNat, append_toNat, append_toNat]; simp

@[simp] theorem ldTypeOf_code (x : LdType) : ldTypeOf x.code = some x := ldTypeOf_iff.mpr rfl
@[simp] theorem stTypeOf_code (x : StType) : stTypeOf x.code = some x := stTypeOf_iff.mpr rfl
@[simp] theorem ccOf_code (x : Cc) : ccOf x.code = some x := ccOf_iff.mpr rfl
@[simp] theorem brCcOf_code (x : BrCc) : brCcOf x.code = some x := brCcOf_iff.mpr rfl
@[simp] theorem fccOf_code (x : FCc) : fccOf x.code = some x := fccOf_iff.mpr rfl
@[simp] theorem scopeOf_code (x : Scope) : scopeOf x.code = some x := scopeOf_iff.mpr rfl
@[simp] theorem fTypeOf_code (x : FType) : fTypeOf x.code = some x := fTypeOf_iff.mpr rfl
@[simp] theorem cTypeOf_code (x : CType) : cTypeOf x.code = some x := cTypeOf_iff.mpr rfl
@[simp] theorem iTypeOf_code (x : IType) : iTypeOf x.code = some x := iTypeOf_iff.mpr rfl
@[simp] theorem rModeOf_code (x : RMode) : rModeOf x.code = some x := rModeOf_iff.mpr rfl
@[simp] theorem vTypeOf_code (x : VType) : vTypeOf x.code = some x := vTypeOf_iff.mpr rfl
@[simp] theorem redOpOf_code (x : RedOp) : redOpOf x.code = some x := redOpOf_iff.mpr rfl
@[simp] theorem amoOpOf_code (x : AmoOp) : amoOpOf x.code = some x := amoOpOf_iff.mpr rfl
@[simp] theorem amoSizeOf_code (x : AmoSize) : amoSizeOf x.code = some x := amoSizeOf_iff.mpr rfl
@[simp] theorem semiringOf_code (x : Semiring) : semiringOf x.code = some x := semiringOf_iff.mpr rfl
@[simp] theorem popOf_code (x : Pop) : popOf x.code = some x := popOf_iff.mpr rfl
@[simp] theorem sysRegOf_num (x : SysReg) : sysRegOf x.num = some x := sysRegOf_iff.mpr rfl
@[simp] theorem maskBits_inj {x y : Option MReg} : maskBits x = maskBits y ↔ x = y := by
  cases x with
  | none => cases y <;> simp [maskBits]
  | some x =>
    cases y with
    | none => simp [maskBits]
    | some y => simp only [maskBits, Option.some.injEq, Fin.ext_iff]; omega
@[simp] theorem vregField_inj {x y : VReg} : vregField x = vregField y ↔ x = y := by
  rw [← vregOf_ok_iff]; revert x y; decide
@[simp] theorem mregField_inj {x y : MReg} : mregField x = mregField y ↔ x = y := by
  rw [← mregOf_ok_iff]; revert x y; decide

section
variable (ty : VType) (m : Option MReg) {op : Nat} (h : op < 16)
include h
theorem vMinor_mod : vMinor ty m op % 1024 = vMinor ty m op := Nat.mod_eq_of_lt (vMinor_fields ty m h).1
theorem vMinor_ty : vMinor ty m op / 128 = ty.code := (vMinor_fields ty m h).2.1
theorem vMinor_mask : vMinor ty m op / 16 % 8 * 16 = maskBits m := (vMinor_fields ty m h).2.2.1
theorem vMinor_op : vMinor ty m op % 16 = op := (vMinor_fields ty m h).2.2.2

theorem formV3_encV3 (major : BitVec 6) (d a b : VReg) {okTy : VType → Bool} (f : VType → Option MReg → VReg → VReg → VReg → Instr)
    (hty : okTy ty = true) : formV3 (encV3 major d a b (vMinor ty m op)) okTy f = .ok (f ty m d a b) := by
  simp [formV3, encV3, vMinor_mod, vMinor_ty, vMinor_mask, h, noSync, hty]
end

end Sys2Proof
end

section
/-! SUPPORT. Decoding the word of each family of instructions gives the instruction back (03 R37 to R48). -/
namespace Sys2Proof
set_option Elab.async false

/-- Decoding the word of `i` gives `i` back. -/
def ReadsBack (i : Instr) : Prop := ∀ w ∈ encode i, decodeWord w = .ok i

section
variable (d : Reg) (a b : Src) (imm : BitVec 15) (off : BitVec 20) (v x y : VReg) (m : Option MReg)

/-! ## Class C (R45, R46) -/

theorem readsBack_control : ∀ i ∈ ([.nop, .b off, .call off, .bz a imm, .bnz a imm, .jmp a, .callr a] : List Instr), ReadsBack i := by
  intro i hi
  fin_cases hi <;> rintro _ ⟨⟩ <;> simp [decodeWord, decodeClassC, noD, noMinor]
  rfl

theorem readsBack_bcc (c : BrCc) : ReadsBack (.bcc c a imm) := by
  rintro _ ⟨⟩
  cases c <;> simp [decodeWord, decodeClassC, BrCc.code]

theorem readsBack_blk (sig dig : BitVec 12) : ReadsBack (.blk sig dig) := by
  rintro _ ⟨⟩
  have hs : (packG 0#1 7#6 sig dig).extractLsb' 12 12 = sig := extract_eq (by rw [packG_toNat]; omega)
  have hd : (packG 0#1 7#6 sig dig).extractLsb' 0 12 = dig := extract_eq (by rw [packG_toNat]; omega)
  simp [decodeWord, decodeClassC, hs, hd]

theorem readsBack_memory : ∀ i ∈ ([.ldS8 d a imm, .ldS16 d a imm, .ldS32 d a imm, .ldS64 d a imm, .ldZ8 d a imm, .ldZ16 d a imm,
    .ldZ32 d a imm, .st8 d a imm, .st16 d a imm, .st32 d a imm, .st64 d a imm, .lds d a imm, .ldsk d a imm, .sts d a imm, .stf d a imm,
    .clre a imm, .vld v a imm, .vst v a imm] : List Instr), ReadsBack i := by
  intro i hi
  fin_cases hi <;> rintro _ ⟨⟩ <;> simp [decodeWord, decodeClassC, noD]

theorem readsBack_ldx (ty : LdType) : ReadsBack (.ldx ty d a b) := by
  rintro _ ⟨⟩
  cases ty <;> simp [decodeWord, decodeClassC, decodeIndexedType, LdType.code]

theorem readsBack_stx (ty : StType) : ReadsBack (.stx ty d a b) := by
  rintro _ ⟨⟩
  cases ty <;> simp [decodeWord, decodeClassC, decodeIndexedType, StType.code]

theorem readsBack_srd (ty : LdType) (s : SReg) : ReadsBack (.srd ty d s) := by
  rintro _ ⟨⟩
  cases ty <;> simp [decodeWord, decodeClassC, decodeIndexedType, noB, LdType.code]

theorem readsBack_thread : ∀ i ∈ ([.spawn d a b, .exit, .send a b, .recv d, .amsg a b, .dlg d a b, .migr a, .lrw d a, .sch a b, .rls a] :
    List Instr), ReadsBack i := by
  intro i hi
  fin_cases hi <;> rintro _ ⟨⟩ <;> simp [decodeWord, decodeClassC, decodeThreadGroup]

theorem readsBack_bar (sc : Scope) : ReadsBack (.bar sc a) := by
  rintro _ ⟨⟩
  cases sc <;> simp [decodeWord, decodeClassC, decodeIndexedType, Scope.code]

/-- The minor field of AMO and RED holds the operation and the size. -/
theorem amoMinor_fields (op : AmoOp) (sz : AmoSize) : (op.code * 64 + sz.code) % 1024 = op.code * 64 + sz.code ∧
    (op.code * 64 + sz.code) / 64 = op.code ∧ (op.code * 64 + sz.code) / 4 % 16 = 0 ∧ (op.code * 64 + sz.code) % 4 = sz.code := by
  cases op <;> cases sz <;> decide

theorem readsBack_amo (op : AmoOp) (sz : AmoSize) : ReadsBack (.amo op sz d a b) := by
  rintro _ ⟨⟩
  obtain ⟨h0, h1, h2, h3⟩ := amoMinor_fields op sz
  simp [decodeWord, decodeClassC, amoFieldsOf, h0, h1, h2, h3]

theorem readsBack_red {op : AmoOp} (sz : AmoSize) (h : op.isRed = true) : ReadsBack (.red op sz a b) := by
  rintro _ ⟨⟩
  obtain ⟨h0, h1, h2, h3⟩ := amoMinor_fields op sz
  simp [decodeWord, decodeClassC, amoFieldsOf, h0, h1, h2, h3, h]

theorem readsBack_fence (sc : Scope) : ReadsBack (.fence sc) := by
  rintro _ ⟨⟩
  cases sc <;> simp [decodeWord, decodeClassC, decodeOrderGroup, Scope.code]

theorem readsBack_pour (sc : Scope) : ReadsBack (.pour sc) := by
  rintro _ ⟨⟩
  cases sc <;> simp [decodeWord, decodeClassC, decodeOrderGroup, Scope.code]

theorem readsBack_line : ∀ i ∈ ([.fbar, .cwb a, .cinv a, .iinv a, .pref a, .plbi a, .addm a b, .ldb d a b] : List Instr),
    ReadsBack i := by
  intro i hi
  fin_cases hi <;> rintro _ ⟨⟩ <;> simp [decodeWord, decodeClassC, decodeOrderGroup, decodeLineGroup, decodeLdb, noMinor]
  rfl

theorem readsBack_ldbImm (n : BitVec 8) : ReadsBack (.ldbImm d a n) := by
  rintro _ ⟨⟩
  have hm : (512 + n.toNat) % 1024 = 512 + n.toNat := by omega
  have hk : (minorOf (512 + n.toNat)).extractLsb' 0 8 = n := extract_low_eq (by rw [minorOf_toNat]; omega)
  have h0 : (512 + n.toNat) / 256 % 2 = 0 := by omega
  simp [enc2r, decodeWord, decodeClassC, decodeLdb, noB, hm, hk, h0]

theorem readsBack_vmem {ty : VType} (h : ty.isIF = true) :
    ∀ i ∈ ([.vlds ty m v a b, .vgath ty m v a x, .vscat ty m v a x] : List Instr), ReadsBack i := by
  intro i hi
  fin_cases hi <;> rintro _ ⟨⟩ <;>
    simp [decodeWord, decodeClassC, vmemOf, vMinor_mod, vMinor_op, vMinor_ty, vMinor_mask, h]

theorem readsBack_vsrd {ty : VType} (s : SReg) (h : ty.isIF = true) : ReadsBack (.vsrd ty v s) := by
  rintro _ ⟨⟩
  have hc : ty.code * 128 % 1024 = ty.code * 128 := by cases ty <;> rfl
  simp [decodeWord, decodeClassC, noB, hc, h]

theorem readsBack_copy (bd : Option SReg) : ∀ i ∈ ([.cpy bd d a b, .cpy2 bd d a b, .cpyg bd d a b, .cpyw a, .cpyq d a] : List Instr),
    ReadsBack i := by
  intro i hi
  fin_cases hi <;> rintro _ ⟨⟩ <;> simp [decodeWord, decodeClassC]

theorem readsBack_ring (k : RingId) : ∀ i ∈ ([.rngi k a, .rnga k a, .rngq d k] : List Instr), ReadsBack i := by
  have hk {c : Nat} (h : c < 64) : (minorOf (k.val * 64 + c)).extractLsb' 6 4 = regField k :=
    extract_low_eq (by rw [minorOf_toNat]; simp [regField]; omega)
  have h0 : (minorOf (k.val * 64)).extractLsb' 6 4 = regField k := hk (c := 0) (by decide)
  intro i hi
  have h1 : (k.val * 64 + 1) % 4 = 1 := by omega
  have h2 : (k.val * 64 + 2) % 4 = 2 := by omega
  have h3 : k.val * 64 % 4 = 0 := by omega
  fin_cases hi <;> rintro _ ⟨⟩ <;> simp [decodeWord, decodeClassC, decodeRingGroup, hk, h0, h1, h2, h3] <;> omega

theorem readsBack_mxq (slot : Fin 2) (sr : Semiring) (na nb az : Bool) (pop : Pop) (p q : RingId) :
    ReadsBack (.mxq slot sr na nb az pop d p q) := by
  rintro _ ⟨⟩
  have hsr : sr.code < 8 := by cases sr <;> decide
  have hpop : pop.code < 4 := by cases pop <;> decide
  have hbit (x : Bool) : boolBit x < 2 ∧ (BitVec.ofBool x).toNat = boolBit x := by cases x <;> decide
  obtain ⟨hna, ena⟩ := hbit na
  obtain ⟨hnb, enb⟩ := hbit nb
  obtain ⟨haz, eaz⟩ := hbit az
  obtain ⟨n, hn⟩ : ∃ n, n = slot.val * 512 + sr.code * 64 + boolBit na * 32 + boolBit nb * 16 + boolBit az * 8 + pop.code * 2 := ⟨_, rfl⟩
  have h0 : n % 1024 = n := by omega
  have h1 : n % 2 = 0 := by omega
  have h2 : n / 64 % 8 = sr.code := by omega
  have h3 : n / 2 % 4 = pop.code := by omega
  have b9 : (minorOf n).extractLsb' 9 1 = BitVec.ofFin slot := extract_low_eq (by rw [minorOf_toNat]; simp; omega)
  have b5 : (minorOf n).extractLsb' 5 1 = BitVec.ofBool na := extract_low_eq (by rw [minorOf_toNat, ena]; omega)
  have b4 : (minorOf n).extractLsb' 4 1 = BitVec.ofBool nb := extract_low_eq (by rw [minorOf_toNat, enb]; omega)
  have b3 : (minorOf n).extractLsb' 3 1 = BitVec.ofBool az := extract_low_eq (by rw [minorOf_toNat, eaz]; omega)
  have hb (x : Bool) : (BitVec.ofBool x == 1#1) = x := syncBit_beq_one x
  rw [← hn]
  simp [decodeWord, decodeClassC, decodeMxq, noSync, h0, h1, h2, h3, b9, b5, b4, b3, hb]

theorem readsBack_matrix (slot : Fin 2) : ∀ i ∈ ([.mxw a, .mxp d a, .mxz slot, .mxst slot a, .mxr slot] : List Instr), ReadsBack i := by
  have hk {c : Nat} (h : c < 8) : (minorOf (slot.val * 512 + c)).extractLsb' 9 1 = BitVec.ofFin slot ∧
      (slot.val * 512 + c) % 1024 / 8 % 64 = 0 ∧ (slot.val * 512 + c) % 8 = c := by
    refine ⟨extract_low_eq ?_, ?_, ?_⟩
    · rw [minorOf_toNat]; simp; omega
    · omega
    · omega
  have h2 := hk (c := 2) (by decide)
  have h3 := hk (c := 3) (by decide)
  have h4 := hk (c := 4) (by decide)
  intro i hi
  fin_cases hi <;> rintro _ ⟨⟩ <;> simp [decodeWord, decodeClassC, decodeMatrixGroup, h2, h3, h4]

theorem readsBack_system : ∀ i ∈ ([.eret, .park a, .gsw a, .cont, .logn, .loga a] : List Instr), ReadsBack i := by
  intro i hi
  fin_cases hi <;> rintro _ ⟨⟩ <;> simp [decodeWord, decodeClassC, decodeSystemGroup]

theorem readsBack_trap (n : BitVec 10) : ReadsBack (.trap n) := by
  intro w hw
  obtain rfl := Option.some.inj hw
  have hl : (0#2 ++ n).toNat = n.toNat := by rw [append_toNat, BitVec.toNat_ofNat]; omega
  have h1 : (0#2 ++ n).extractLsb' 10 2 = 0#2 := extract_low_eq (by rw [hl, BitVec.toNat_ofNat]; omega)
  have h2 : (0#2 ++ n).extractLsb' 0 10 = n := extract_low_eq (by rw [hl]; omega)
  simp [decodeWord, decodeClassC, trap_low, noA, noD, h1, h2]

theorem readsBack_sysReg (r : SysReg) : ∀ i ∈ ([.mfs d r, .mts r a] : List Instr), ReadsBack i := by
  intro i hi
  fin_cases hi <;> rintro _ ⟨⟩ <;> simp [decodeWord, decodeClassC, num_low, Nat.mod_eq_of_lt r.num_lt, noA, noD]

theorem readsBack_collective : ∀ i ∈ ([.coll d a, .collw d a, .snap d, .snapq d a] : List Instr), ReadsBack i := by
  have h0 : minorOf 0 = 0#10 := rfl
  intro i hi
  fin_cases hi <;> rintro _ ⟨⟩ <;> simp [decodeWord, decodeClassC, noMinor, h0]

/-! ## Class A (R47, R48) -/

theorem readsBack_alu : ∀ i ∈ ([.add d a b, .sub d a b, .and d a b, .or d a b, .xor d a b, .andn d a b, .orn d a b, .shl d a b, .shr d a b,
    .sha d a b, .ror d a b, .min d a b, .max d a b, .minz d a b, .maxz d a b] : List Instr), ReadsBack i := by
  intro i hi
  fin_cases hi <;> rintro _ ⟨⟩ <;> simp [decodeWord, decodeClassA, decodeAlu]

theorem readsBack_multiply : ∀ i ∈ ([.mul d a b, .mulh d a b, .mulhz d a b, .div d a b, .divz d a b, .rem d a b, .remz d a b, .clmul d a b,
    .clmulh d a b] : List Instr), ReadsBack i := by
  intro i hi
  fin_cases hi <;> rintro _ ⟨⟩ <;> simp [decodeWord, decodeClassA, decodeMultiply]

theorem readsBack_bit : ∀ i ∈ ([.clz d a, .ctz d a, .popc d a, .brev d a, .bswap d a] : List Instr), ReadsBack i := by
  intro i hi
  fin_cases hi <;> rintro _ ⟨⟩ <;> simp [decodeWord, decodeClassA, decodeBit]

theorem readsBack_bitField {pos wm1 : BitVec 6} (h : pos.toNat + wm1.toNat + 1 ≤ 64) :
    ∀ i ∈ ([.exts d a pos wm1, .extz d a pos wm1, .ins d a pos wm1] : List Instr), ReadsBack i := by
  intro i hi
  fin_cases hi <;> rintro _ ⟨⟩ <;> simp [decodeWord, decodeClassA, bitFieldOf_encMo, h]

theorem readsBack_immediate (n : BitVec 6) : ∀ i ∈ ([.addi d a imm, .andi d a imm, .ori d a imm, .xori d a imm, .shli d a n, .shri d a n,
    .shai d a n, .rori d a n, .li d off] : List Instr), ReadsBack i := by
  intro i hi
  fin_cases hi <;> rintro _ ⟨⟩ <;> simp [decodeWord, decodeClassA]

theorem readsBack_lih (q : BitVec 2) (u : BitVec 16) : ReadsBack (.lih d q u) := by
  rintro _ ⟨⟩
  have hl : (0#2 ++ q ++ u).toNat = q.toNat * 2 ^ 16 + u.toNat := by rw [append_toNat, append_toNat, BitVec.toNat_ofNat]; omega
  have h1 : (0#2 ++ q ++ u).extractLsb' 18 2 = 0#2 := extract_low_eq (by rw [hl, BitVec.toNat_ofNat]; omega)
  have h2 : (0#2 ++ q ++ u).extractLsb' 16 2 = q := extract_low_eq (by rw [hl]; omega)
  have h3 : (0#2 ++ q ++ u).extractLsb' 0 16 = u := extract_low_eq (by rw [hl]; omega)
  simp [decodeWord, decodeClassA, h1, h2, h3]

theorem readsBack_sel (c : Reg) : ReadsBack (.sel d a b c) := by
  rintro _ ⟨⟩
  have hc : (minorOf c).extractLsb' 0 4 = regField c := extract_low_eq (by rw [minorOf_toNat]; simp [regField])
  have h0 : c.val % 1024 < 16 := by omega
  simp [decodeWord, decodeClassA, hc, h0]

theorem readsBack_addx (sh : Fin 8) : ReadsBack (.addx d a b sh) := by
  rintro _ ⟨⟩
  have hc : (minorOf sh).extractLsb' 0 3 = BitVec.ofFin sh := extract_low_eq (by rw [minorOf_toNat]; simp)
  have h0 : sh.val % 1024 < 8 := by omega
  simp [decodeWord, decodeClassA, hc, h0]

theorem readsBack_cmp (cc : Cc) : ReadsBack (.cmp cc d a b) := by
  rintro _ ⟨⟩
  cases cc <;> simp [decodeWord, decodeClassA, Cc.code]

theorem readsBack_cmpi (cc : Cc) (n : BitVec 11) : ReadsBack (.cmpi cc d a n) := by
  rintro _ ⟨⟩
  have hl : (BitVec.ofNat 4 cc.code ++ n).extractLsb' 11 4 = BitVec.ofNat 4 cc.code := extract_low_eq (by rw [append_toNat]; omega)
  have hr : (BitVec.ofNat 4 cc.code ++ n).extractLsb' 0 11 = n := extract_low_eq (by rw [append_toNat]; omega)
  have hc : cc.code % 16 = cc.code := by cases cc <;> rfl
  simp [decodeWord, decodeClassA, hl, hr, hc, -BitVec.extractLsb'_toNat]

theorem readsBack_fp (ty : FType) : ∀ i ∈ ([.fadd ty d a b, .fsub ty d a b, .fmul ty d a b, .fma ty d a b, .fms ty d a b, .fnma ty d a b,
    .fdiv ty d a b, .fsqrt ty d a, .fmin ty d a b, .fmax ty d a b, .fsgn ty d a b, .fclass ty d a] : List Instr), ReadsBack i := by
  intro i hi
  have hty : ty.code < 3 := by cases ty <;> decide
  have hm {op : Nat} (h : op < 16) : (ty.code * 256 + op) % 1024 = ty.code * 256 + op := by omega
  have h0 {op : Nat} (h : op < 16) : (ty.code * 256 + op) / 16 % 16 = 0 := by omega
  have ht {op : Nat} (h : op < 16) : (ty.code * 256 + op) / 256 = ty.code := by omega
  have ho {op : Nat} (h : op < 16) : (ty.code * 256 + op) % 16 = op := by omega
  have hz : ty.code * 256 % 1024 = ty.code * 256 := by omega
  have hz0 : ty.code * 256 / 16 % 16 = 0 := by omega
  have hz1 : ty.code * 256 % 16 = 0 := by simp [Nat.mul_mod]
  fin_cases hi <;> rintro _ ⟨⟩ <;> simp [decodeWord, decodeClassA, decodeFp, hm, h0, ht, ho, hz, hz0, hz1]

theorem readsBack_fcmp (ty : FType) (cc : FCc) : ReadsBack (.fcmp ty cc d a b) := by
  rintro _ ⟨⟩
  have hm : ty.code * 256 + cc.code < 1024 ∧ cc.code < 16 := by cases ty <;> cases cc <;> decide
  have h0 : (ty.code * 256 + cc.code) / 16 % 16 = 0 ∧ (ty.code * 256 + cc.code) / 256 = ty.code ∧ (ty.code * 256 + cc.code) % 16 = cc.code := by
    omega
  simp [decodeWord, decodeClassA, Nat.mod_eq_of_lt hm.1, h0]

theorem readsBack_fcvt {dst src : CType} (h : (dst != src) = true) : ReadsBack (.fcvt dst src d a) := by
  rintro _ ⟨⟩
  have hm : (dst.code * 256 + src.code * 64) % 1024 = dst.code * 256 + src.code * 64 := by cases dst <;> cases src <;> decide
  have h0 : (dst.code * 256 + src.code * 64) / 256 = dst.code ∧ (dst.code * 256 + src.code * 64) / 64 % 4 = src.code := by
    cases dst <;> cases src <;> decide
  have h1 : dst.code * 256 % 64 = 0 := by simp [Nat.mul_mod]
  simp [decodeWord, decodeClassA, hm, h0, h1, bne_iff_ne.mp h]

theorem readsBack_fcvti (src : FType) (it : IType) (rm : RMode) : ReadsBack (.fcvti src it rm d a) := by
  rintro _ ⟨⟩
  have hm : src.code < 4 ∧ it.code < 4 ∧ rm.code < 4 := by cases src <;> cases it <;> cases rm <;> decide
  have h0 : (src.code * 256 + it.code * 64 + rm.code * 16) % 1024 = src.code * 256 + it.code * 64 + rm.code * 16 := by omega
  have h1 : (src.code * 256 + it.code * 64 + rm.code * 16) / 256 = src.code := by omega
  have h2 : (src.code * 256 + it.code * 64 + rm.code * 16) / 64 % 4 = it.code := by omega
  have h3 : (src.code * 256 + it.code * 64 + rm.code * 16) / 16 % 4 = rm.code := by omega
  have h4 : (src.code * 256 + it.code * 64 + rm.code * 16) % 16 = 0 := by omega
  simp [decodeWord, decodeClassA, h0, h1, h2, h3, h4]

theorem readsBack_fcvtf (dst : FType) (it : IType) : ReadsBack (.fcvtf dst it d a) := by
  rintro _ ⟨⟩
  have hm : dst.code < 4 ∧ it.code < 4 := by cases dst <;> cases it <;> decide
  have h0 : (dst.code * 256 + it.code * 64) % 1024 = dst.code * 256 + it.code * 64 := by omega
  have h1 : (dst.code * 256 + it.code * 64) / 256 = dst.code := by omega
  have h2 : (dst.code * 256 + it.code * 64) / 64 % 4 = it.code := by omega
  have h3 : dst.code * 256 % 64 = 0 := by simp [Nat.mul_mod]
  simp [decodeWord, decodeClassA, h0, h1, h2, h3]

theorem readsBack_vectorIF {ty : VType} (h : ty.isIF = true) : ∀ i ∈ ([.vadd ty m v x y, .vsub ty m v x y, .vmul ty m v x y,
    .vfma ty m v x y, .vmin ty m v x y, .vmax ty m v x y, .vperm ty m v x y] : List Instr), ReadsBack i := by
  intro i hi
  fin_cases hi <;> rintro _ ⟨⟩ <;> simp [decodeWord, decodeClassA, decodeVector, vMinor_mod, vMinor_op, formV3_encV3, h]

theorem readsBack_vectorInt {ty : VType} (h : ty.isInt = true) : ∀ i ∈ ([.vand ty m v x y, .vor ty m v x y, .vxor ty m v x y,
    .vshl ty m v x y, .vshr ty m v x y] : List Instr), ReadsBack i := by
  intro i hi
  fin_cases hi <;> rintro _ ⟨⟩ <;> simp [decodeWord, decodeClassA, decodeVector, vMinor_mod, vMinor_op, formV3_encV3, h]

theorem readsBack_vdot {ty : VType} (h : ty.isDot = true) : ReadsBack (.vdot ty m v x y) := by
  rintro _ ⟨⟩
  simp [decodeWord, decodeClassA, decodeVector, vMinor_mod, vMinor_op, formV3_encV3, h]

theorem readsBack_vsel {ty : VType} (q : MReg) (h : ty.isIF = true) : ReadsBack (.vsel ty q v x y) := by
  rintro _ ⟨⟩
  simp [encV3, decodeWord, decodeClassA, decodeVector, vMinor_mod, vMinor_op, vMinor_ty, vMinor_mask, noSync, h]

theorem readsBack_vcmp {cc : VCc} {ty : VType} (q : MReg) (h : cc.fits ty = true) : ReadsBack (.vcmp cc ty m q x y) := by
  intro w hw
  obtain rfl := Option.some.inj hw
  cases cc with
  | int c =>
    have hc : c.code < 16 := by cases c <;> decide
    have hty : ty.isInt = true := h
    simp [VCc.code, decodeWord, decodeClassA, decodeVcmp, vMinor_mod, vMinor_op, vMinor_ty, vMinor_mask, noSync, hc, hty]
  | flt c =>
    have hc : c.code < 16 := by cases c <;> decide
    have hty : ty.isFloat = true := h
    have hin : ty.isInt = false := by cases ty <;> first | rfl | cases hty
    simp [VCc.code, decodeWord, decodeClassA, decodeVcmp, vMinor_mod, vMinor_op, vMinor_ty, vMinor_mask, noSync, hc, hty, hin]

theorem readsBack_vred {op : RedOp} {ty : VType} (h : op.fits ty = true) : ReadsBack (.vred op ty m d x) := by
  intro w hw
  obtain rfl := Option.some.inj hw
  have hop : op.code < 16 := by cases op <;> decide
  simp [decodeWord, decodeClassA, decodeVred, vMinor_mod, vMinor_op, vMinor_ty, vMinor_mask, noB, hop, h]

theorem readsBack_vunary {ty : VType} (h : ty.isFloat = true) :
    ∀ i ∈ ([.vexp2 ty m v x, .vrcp ty m v x, .vrsq ty m v x] : List Instr), ReadsBack i := by
  intro i hi
  fin_cases hi <;> rintro _ ⟨⟩ <;>
    simp [decodeWord, decodeClassA, decodeVUnary, vMinor_mod, vMinor_op, vMinor_ty, vMinor_mask, noSync, h]

theorem readsBack_vcvt {dst src : VType} (h : VType.converts dst src = true) : ReadsBack (.vcvt dst src m v x) := by
  rintro _ ⟨⟩
  have hc : src.code < 8 ∧ src.code % 16 = src.code := by cases src <;> decide
  simp [decodeWord, decodeClassA, decodeVUnary, vMinor_mod, vMinor_op, vMinor_ty, vMinor_mask, noSync, hc, h]

theorem readsBack_vbcast {ty : VType} (h : ty.isIF = true) : ReadsBack (.vbcast ty v a) := by
  rintro _ ⟨⟩
  have hc : ty.code * 128 % 1024 = ty.code * 128 := by cases ty <;> rfl
  simp [decodeWord, decodeClassA, noB, hc, h]

theorem readsBack_vmovg {ty : VType} {lane : BitVec 6} (h : ty.isIF = true) (hl : lane.toNat < ty.lanes) :
    ReadsBack (.vmovg ty d x lane) := by
  rintro _ ⟨⟩
  have hc : ty.code < 8 := by cases ty <;> decide
  have h0 : (ty.code * 128 + lane.toNat) % 1024 = ty.code * 128 + lane.toNat := by omega
  have h1 : (minorOf (ty.code * 128 + lane.toNat)).extractLsb' 0 6 = lane := extract_low_eq (by rw [minorOf_toNat]; omega)
  have h2 : (ty.code * 128 + lane.toNat) / 128 = ty.code := by omega
  have h3 : (ty.code * 128 + lane.toNat) / 64 % 2 = 0 := by omega
  have h4 : (ty.code * 128 + lane.toNat) % 64 = lane.toNat := by omega
  simp [decodeWord, decodeClassA, noB, h0, h1, h2, h3, h4, h, hl]

theorem readsBack_mask (p q r : MReg) : ∀ i ∈ ([.mand p q r, .mor p q r, .mnot p q, .mpop d p] : List Instr), ReadsBack i := by
  intro i hi
  fin_cases hi <;> rintro _ ⟨⟩ <;> simp [decodeWord, decodeClassA, decodeMask, noSync]
end

/-- R37 to R48: every field of a well-formed instruction's word is read back as the encoder wrote it. -/
theorem readsBack {i : Instr} (hw : i.wf = true) : ReadsBack i := by
  -- operands for the members of a family that have fewer than its list is given
  have a₀ : Src := ⟨0, false⟩
  have d₀ : Reg := 0
  have v₀ : VReg := 0
  cases i with
  | nop => exact readsBack_control a₀ 0 0 _ (by simp)
  | b off | call off => exact readsBack_control a₀ 0 off _ (by simp)
  | bz a imm | bnz a imm => exact readsBack_control a imm 0 _ (by simp)
  | bcc c a imm => exact readsBack_bcc a imm c
  | jmp a | callr a => exact readsBack_control a 0 0 _ (by simp)
  | blk sig dig => exact readsBack_blk sig dig
  | ldS8 d a imm | ldS16 d a imm | ldS32 d a imm | ldS64 d a imm | ldZ8 d a imm | ldZ16 d a imm | ldZ32 d a imm | st8 d a imm
  | st16 d a imm | st32 d a imm | st64 d a imm | lds d a imm | ldsk d a imm | sts d a imm | stf d a imm =>
    exact readsBack_memory d a imm v₀ _ (by simp)
  | clre a imm => exact readsBack_memory d₀ a imm v₀ _ (by simp)
  | vld v a imm | vst v a imm => exact readsBack_memory d₀ a imm v _ (by simp)
  | ldx ty d a b => exact readsBack_ldx d a b ty
  | stx ty d a b => exact readsBack_stx d a b ty
  | srd ty d s => exact readsBack_srd d ty s
  | spawn d a b | dlg d a b => exact readsBack_thread d a b _ (by simp)
  | send a b | amsg a b | sch a b => exact readsBack_thread d₀ a b _ (by simp)
  | recv d => exact readsBack_thread d a₀ a₀ _ (by simp)
  | migr a | rls a => exact readsBack_thread d₀ a a₀ _ (by simp)
  | lrw d a => exact readsBack_thread d a a₀ _ (by simp)
  | exit => exact readsBack_thread d₀ a₀ a₀ _ (by simp)
  | bar sc a => exact readsBack_bar a sc
  | amo op sz d a b => exact readsBack_amo d a b op sz
  | red op sz a b => exact readsBack_red a b sz hw
  | fence sc => exact readsBack_fence sc
  | pour sc => exact readsBack_pour sc
  | fbar => exact readsBack_line d₀ a₀ a₀ _ (by simp)
  | cwb a | cinv a | iinv a | pref a | plbi a => exact readsBack_line d₀ a a₀ _ (by simp)
  | addm a b => exact readsBack_line d₀ a b _ (by simp)
  | ldb d a b => exact readsBack_line d a b _ (by simp)
  | ldbImm d a k => exact readsBack_ldbImm d a k
  | vlds ty m v a b => exact readsBack_vmem a b v v₀ m hw _ (by simp)
  | vgath ty m v a x | vscat ty m v a x => exact readsBack_vmem a a₀ v x m hw _ (by simp)
  | vsrd ty v s => exact readsBack_vsrd v s hw
  | cpy bd d a b | cpy2 bd d a b | cpyg bd d a b => exact readsBack_copy d a b bd _ (by simp)
  | cpyw a => exact readsBack_copy d₀ a a₀ none _ (by simp)
  | cpyq d a => exact readsBack_copy d a a₀ none _ (by simp)
  | rngi k a | rnga k a => exact readsBack_ring d₀ a k _ (by simp)
  | rngq d k => exact readsBack_ring d a₀ k _ (by simp)
  | mxq slot sr na nb az pop d p q => exact readsBack_mxq d slot sr na nb az pop p q
  | mxw a => exact readsBack_matrix d₀ a 0 _ (by simp)
  | mxp d a => exact readsBack_matrix d a 0 _ (by simp)
  | mxz slot | mxr slot => exact readsBack_matrix d₀ a₀ slot _ (by simp)
  | mxst slot a => exact readsBack_matrix d₀ a slot _ (by simp)
  | trap n => exact readsBack_trap n
  | eret | cont | logn => exact readsBack_system a₀ _ (by simp)
  | park a | gsw a | loga a => exact readsBack_system a _ (by simp)
  | mfs d r => exact readsBack_sysReg d a₀ r _ (by simp)
  | mts r a => exact readsBack_sysReg d₀ a r _ (by simp)
  | coll d a | collw d a | snapq d a => exact readsBack_collective d a _ (by simp)
  | snap d => exact readsBack_collective d a₀ _ (by simp)
  | add d a b | sub d a b | and d a b | or d a b | xor d a b | andn d a b | orn d a b | shl d a b | shr d a b | sha d a b | ror d a b
  | min d a b | max d a b | minz d a b | maxz d a b => exact readsBack_alu d a b _ (by simp)
  | mul d a b | mulh d a b | mulhz d a b | div d a b | divz d a b | rem d a b | remz d a b | clmul d a b | clmulh d a b =>
    exact readsBack_multiply d a b _ (by simp)
  | clz d a | ctz d a | popc d a | brev d a | bswap d a => exact readsBack_bit d a _ (by simp)
  | exts d a pos wm1 | extz d a pos wm1 | ins d a pos wm1 => exact readsBack_bitField d a (of_decide_eq_true hw) _ (by simp)
  | sel d a b c => exact readsBack_sel d a b c
  | addx d a b sh => exact readsBack_addx d a b sh
  | cmp cc d a b => exact readsBack_cmp d a b cc
  | cmpi cc d a n => exact readsBack_cmpi d a cc n
  | addi d a imm | andi d a imm | ori d a imm | xori d a imm => exact readsBack_immediate d a imm 0 0 _ (by simp)
  | shli d a n | shri d a n | shai d a n | rori d a n => exact readsBack_immediate d a 0 0 n _ (by simp)
  | li d off => exact readsBack_immediate d a₀ 0 off 0 _ (by simp)
  | lih d q u => exact readsBack_lih d q u
  | fadd ty d a b | fsub ty d a b | fmul ty d a b | fma ty d a b | fms ty d a b | fnma ty d a b | fdiv ty d a b | fmin ty d a b
  | fmax ty d a b | fsgn ty d a b => exact readsBack_fp d a b ty _ (by simp)
  | fsqrt ty d a | fclass ty d a => exact readsBack_fp d a a₀ ty _ (by simp)
  | fcmp ty cc d a b => exact readsBack_fcmp d a b ty cc
  | fcvt dst src d a => exact readsBack_fcvt d a hw
  | fcvti src it rm d a => exact readsBack_fcvti d a src it rm
  | fcvtf dst it d a => exact readsBack_fcvtf d a dst it
  | vadd ty m v x y | vsub ty m v x y | vmul ty m v x y | vfma ty m v x y | vmin ty m v x y | vmax ty m v x y | vperm ty m v x y =>
    exact readsBack_vectorIF v x y m hw _ (by simp)
  | vand ty m v x y | vor ty m v x y | vxor ty m v x y | vshl ty m v x y | vshr ty m v x y =>
    exact readsBack_vectorInt v x y m hw _ (by simp)
  | vdot ty m v x y => exact readsBack_vdot v x y m hw
  | vsel ty q v x y => exact readsBack_vsel v x y q hw
  | vcmp cc ty m q x y => exact readsBack_vcmp x y m q hw
  | vred op ty m d x => exact readsBack_vred d x m hw
  | vexp2 ty m v x | vrcp ty m v x | vrsq ty m v x => exact readsBack_vunary v x m hw _ (by simp)
  | vcvt dst src m v x => exact readsBack_vcvt v x m hw
  | vbcast ty v a => exact readsBack_vbcast a v hw
  | vmovg ty d x lane =>
    obtain ⟨hty, hl⟩ := Bool.and_eq_true_iff.mp hw
    exact readsBack_vmovg d x hty (of_decide_eq_true hl)
  | mand p q r | mor p q r => exact readsBack_mask d₀ p q r _ (by simp)
  | mnot p q => exact readsBack_mask d₀ p q 0 _ (by simp)
  | mpop d p => exact readsBack_mask d p 0 0 _ (by simp)
  | _ => exact fun _ hi => nomatch hi

end Sys2Proof

/-- Settles O2: each family of words reads back its own fields. -/
theorem decodeEncode : Obligations.DecodeEncode := fun _ _ hw h => Sys2Proof.readsBack hw _ h
end

section
/-! SUPPORT. The other direction (03 R37 to R48): a word that a form or a group of class C decodes is the word of its instruction. -/
namespace Sys2Proof
set_option Elab.async false

/-- The word is, its bit L apart, the one word of the well-formed instruction `i`. -/
def Codes (w : BitVec 32) (i : Instr) : Prop := i.wf = true ∧ i.encoded = true ∧ encode i = some (w ||| 0x80000000)

/-! ## A word from its fields -/

@[simp] theorem regField_wRegD (w : BitVec 32) : regField (wRegD w) = wD w := rfl
@[simp] theorem regField_wSrcA (w : BitVec 32) : regField (wSrcA w).reg = wA w := rfl
@[simp] theorem regField_wSrcB (w : BitVec 32) : regField (wSrcB w).reg = wB w := rfl
theorem syncBit_beq (x : BitVec 1) : syncBit (x == 1) = x := by revert x; decide
@[simp] theorem syncBit_wSrcA (w : BitVec 32) : syncBit (wSrcA w).sync = wSa w := syncBit_beq _
@[simp] theorem syncBit_wSrcB (w : BitVec 32) : syncBit (wSrcB w).sync = wSb w := syncBit_beq _

section
variable {w : BitVec 32} {k : BitVec 1} {M : BitVec 6} {d a b : BitVec 4} {sa sb : BitVec 1} {n : Nat} {low : BitVec 15} {off : BitVec 20}
  {i : Instr}

theorem packRR_eq (hk : wK w = k) (hM : (wMajor w).toNat = M.toNat) (hd : wD w = d) (hsa : wSa w = sa) (ha : wA w = a) (hsb : wSb w = sb)
    (hb : wB w = b) (hn : (wMinor w).toNat = n) : packRR k M d sa a sb b (minorOf n) = w ||| 0x80000000 := by
  obtain rfl := BitVec.eq_of_toNat_eq hM
  subst hk hd hsa ha hsb hb hn
  rw [minorOf, BitVec.ofNat_toNat, BitVec.setWidth_eq, packRR_fields]

theorem packM_eq (hk : wK w = k) (hM : (wMajor w).toNat = M.toNat) (hd : wD w = d) (hsa : wSa w = sa) (ha : wA w = a)
    (hl : wOff15 w = low) : packM k M d sa a low = w ||| 0x80000000 := by
  obtain rfl := BitVec.eq_of_toNat_eq hM
  subst hk hd hsa ha hl
  exact packM_fields w

theorem packJ_eq (hk : wK w = k) (hM : (wMajor w).toNat = M.toNat) (hd : wD w = d) (hl : wOff20 w = off) :
    packJ k M d off = w ||| 0x80000000 := by
  obtain rfl := BitVec.eq_of_toNat_eq hM
  subst hk hd hl
  exact packJ_fields w

/-! ## What the operand forms read is what the encoder writes -/

variable (hk : wK w = k) (hM : (wMajor w).toNat = M.toNat)
include hk hM

theorem form3r_codes {f : Reg → Src → Src → Instr} (h : form3r w f = .ok i) (hn : (wMinor w).toNat = n)
    (he : ∀ d a b, (f d a b).wf = true ∧ (f d a b).encoded = true ∧ encode (f d a b) = some (enc3r k M d a b n)) : Codes w i := by
  obtain rfl := Except.ok.inj h
  obtain ⟨hw, hc, he⟩ := he (wRegD w) (wSrcA w) (wSrcB w)
  exact ⟨hw, hc, he.trans (congrArg some (packRR_eq hk hM (by simp) (by simp) (by simp) (by simp) (by simp) hn))⟩

theorem form2r_codes {f : Reg → Src → Instr} (h : form2r w f = .ok i) (hn : (wMinor w).toNat = n)
    (he : ∀ d a, (f d a).wf = true ∧ (f d a).encoded = true ∧ encode (f d a) = some (enc2r k M d a n)) : Codes w i := by
  simp only [form2r, noB, bind_ok_iff, need_ok_iff, pure_ok_iff, Bool.and_eq_true, beq_iff_eq] at h
  obtain ⟨-, ⟨hb, hsb⟩, rfl⟩ := h
  obtain ⟨hw, hc, he⟩ := he (wRegD w) (wSrcA w)
  exact ⟨hw, hc, he.trans (congrArg some (packRR_eq hk hM (by simp) (by simp) (by simp) hsb hb hn))⟩

theorem formM2_codes {f : Src → Src → Instr} (h : formM2 w f = .ok i) (hn : (wMinor w).toNat = n)
    (he : ∀ a b, (f a b).wf = true ∧ (f a b).encoded = true ∧ encode (f a b) = some (encM2 k M a b n)) : Codes w i := by
  simp only [formM2, noD, bind_ok_iff, need_ok_iff, pure_ok_iff, beq_iff_eq] at h
  obtain ⟨-, hd, rfl⟩ := h
  obtain ⟨hw, hc, he⟩ := he (wSrcA w) (wSrcB w)
  exact ⟨hw, hc, he.trans (congrArg some (packRR_eq hk hM hd (by simp) (by simp) (by simp) (by simp) hn))⟩

theorem formM1_codes {f : Src → Instr} (h : formM1 w f = .ok i) (hn : (wMinor w).toNat = n)
    (he : ∀ a, (f a).wf = true ∧ (f a).encoded = true ∧ encode (f a) = some (encM1 k M a n)) : Codes w i := by
  simp only [formM1, noB, noD, bind_ok_iff, need_ok_iff, pure_ok_iff, Bool.and_eq_true, beq_iff_eq] at h
  obtain ⟨-, hd, -, ⟨hb, hsb⟩, rfl⟩ := h
  obtain ⟨hw, hc, he⟩ := he (wSrcA w)
  exact ⟨hw, hc, he.trans (congrArg some (packRR_eq hk hM hd (by simp) (by simp) hsb hb hn))⟩

theorem formD_codes {f : Reg → Instr} (h : formD w f = .ok i) (hn : (wMinor w).toNat = n)
    (he : ∀ d, (f d).wf = true ∧ (f d).encoded = true ∧ encode (f d) = some (encD k M d n)) : Codes w i := by
  simp only [formD, noA, noB, bind_ok_iff, need_ok_iff, pure_ok_iff, Bool.and_eq_true, beq_iff_eq] at h
  obtain ⟨-, ⟨ha, hsa⟩, -, ⟨hb, hsb⟩, rfl⟩ := h
  obtain ⟨hw, hc, he⟩ := he (wRegD w)
  exact ⟨hw, hc, he.trans (congrArg some (packRR_eq hk hM (by simp) hsa ha hsb hb hn))⟩

theorem form0_codes {j : Instr} (h : form0 w j = .ok i) (hn : (wMinor w).toNat = n)
    (he : j.wf = true ∧ j.encoded = true ∧ encode j = some (enc0 k M n)) : Codes w i := by
  simp only [form0, noA, noB, noD, bind_ok_iff, need_ok_iff, pure_ok_iff, Bool.and_eq_true, beq_iff_eq] at h
  obtain ⟨-, hd, -, ⟨ha, hsa⟩, -, ⟨hb, hsb⟩, rfl⟩ := h
  obtain ⟨hw, hc, he⟩ := he
  exact ⟨hw, hc, he.trans (congrArg some (packRR_eq hk hM hd hsa ha hsb hb hn))⟩

theorem formMo_codes {f : Reg → Src → BitVec 15 → Instr} (h : formMo w f = .ok i)
    (he : ∀ d a l, (f d a l).wf = true ∧ (f d a l).encoded = true ∧ encode (f d a l) = some (encMo k M d a l)) : Codes w i := by
  obtain rfl := Except.ok.inj h
  obtain ⟨hw, hc, he⟩ := he (wRegD w) (wSrcA w) (wOff15 w)
  exact ⟨hw, hc, he.trans (congrArg some (packM_eq hk hM (by simp) (by simp) (by simp) rfl))⟩
end

/-! ## The groups of class C -/

section
variable {w : BitVec 32} {i : Instr} (hk : wK w = 0)
include hk

theorem decodeThreadGroup_codes (hM : (wMajor w).toNat = (0x1A#6).toNat) (h : decodeThreadGroup w = .ok i) : Codes w i := by
  unfold decodeThreadGroup at h
  split at h
  case h_1 | h_6 => exact form3r_codes hk hM h ‹_› fun _ _ _ => ⟨rfl, rfl, rfl⟩
  case h_2 => exact form0_codes hk hM h ‹_› ⟨rfl, rfl, rfl⟩
  case h_3 | h_5 | h_9 => exact formM2_codes hk hM h ‹_› fun _ _ => ⟨rfl, rfl, rfl⟩
  case h_4 => exact formD_codes hk hM h ‹_› fun _ => ⟨rfl, rfl, rfl⟩
  case h_7 | h_10 => exact formM1_codes hk hM h ‹_› fun _ => ⟨rfl, rfl, rfl⟩
  case h_8 => exact form2r_codes hk hM h ‹_› fun _ _ => ⟨rfl, rfl, rfl⟩
  case h_11 => exact nomatch h

theorem decodeOrderGroup_codes (hM : (wMajor w).toNat = (0x1E#6).toNat) (h : decodeOrderGroup w = .ok i) : Codes w i := by
  unfold decodeOrderGroup at h
  split at h
  case h_1 hn | h_2 hn =>
    simp only [bind_ok_iff, need_ok_iff, code_ok_iff, scopeOf_iff, beq_iff_eq] at h
    obtain ⟨-, hz, sc, hsc, h⟩ := h
    exact form0_codes hk hM h (by omega) ⟨rfl, rfl, rfl⟩
  case h_3 hn =>
    simp only [bind_ok_iff, need_ok_iff, beq_iff_eq] at h
    obtain ⟨-, hz, h⟩ := h
    exact form0_codes hk hM h (by omega) ⟨rfl, rfl, rfl⟩
  case h_4 => exact nomatch h

theorem decodeLineGroup_codes (hM : (wMajor w).toNat = (0x1F#6).toNat) (h : decodeLineGroup w = .ok i) : Codes w i := by
  unfold decodeLineGroup at h
  split at h
  case h_6 => exact nomatch h
  all_goals exact formM1_codes hk hM h ‹_› fun _ => ⟨rfl, rfl, rfl⟩

theorem decodeLdb_codes (hM : (wMajor w).toNat = (0x21#6).toNat) (h : decodeLdb w = .ok i) : Codes w i := by
  simp only [decodeLdb, bind_ok_iff, need_ok_iff, beq_iff_eq] at h
  obtain ⟨-, hz, h⟩ := h
  split at h
  case isTrue hf =>
    simp only [bind_ok_iff, need_ok_iff, beq_iff_eq] at h
    obtain ⟨-, hn, h⟩ := h
    exact form3r_codes hk hM h (by omega) fun _ _ _ => ⟨rfl, rfl, rfl⟩
  case isFalse hf =>
    simp only [noB, bind_ok_iff, need_ok_iff, pure_ok_iff, Bool.and_eq_true, beq_iff_eq] at h
    obtain ⟨-, ⟨hb, hsb⟩, rfl⟩ := h
    have hn : (wMinor w).toNat = 512 + ((wMinor w).extractLsb' 0 8).toNat := by
      rw [BitVec.extractLsb'_toNat, Nat.shiftRight_eq_div_pow]; omega
    exact ⟨rfl, rfl, congrArg some (packRR_eq hk hM (by simp) (by simp) (by simp) hsb hb hn)⟩

theorem decodeRingGroup_codes (hM : (wMajor w).toNat = (0x2D#6).toNat) (h : decodeRingGroup w = .ok i) : Codes w i := by
  simp only [decodeRingGroup, bind_ok_iff, need_ok_iff, beq_iff_eq] at h
  obtain ⟨-, hz, h⟩ := h
  have hr : ((wMinor w).extractLsb' 6 4).toFin.val = (wMinor w).toNat / 64 % 16 := by
    rw [BitVec.val_toFin, BitVec.extractLsb'_toNat, Nat.shiftRight_eq_div_pow]
  split at h
  case h_1 | h_2 => exact formM1_codes hk hM h (by rw [hr]; omega) fun _ => ⟨rfl, rfl, rfl⟩
  case h_3 => exact formD_codes hk hM h (by rw [hr]; omega) fun _ => ⟨rfl, rfl, rfl⟩
  case h_4 => exact nomatch h

theorem decodeMxq_codes (hM : (wMajor w).toNat = (0x2E#6).toNat) (h : decodeMxq w = .ok i) : Codes w i := by
  simp only [decodeMxq, noSync, bind_ok_iff, need_ok_iff, code_ok_iff, semiringOf_iff, popOf_iff, pure_ok_iff, Bool.and_eq_true,
    beq_iff_eq] at h
  obtain ⟨-, ⟨hsa, hsb⟩, -, hz, sr, hsr, pop, hpop, rfl⟩ := h
  have hs : ((wMinor w).extractLsb' 9 1).toFin.val = (wMinor w).toNat / 512 % 2 := by
    rw [BitVec.val_toFin, BitVec.extractLsb'_toNat, Nat.shiftRight_eq_div_pow]
  have hb (p : Nat) : boolBit ((wMinor w).extractLsb' p 1 == 1) = (wMinor w).toNat / 2 ^ p % 2 := by
    rw [← Nat.shiftRight_eq_div_pow, ← Nat.pow_one 2, ← BitVec.extractLsb'_toNat]
    generalize (wMinor w).extractLsb' p 1 = x
    revert x; decide
  refine ⟨rfl, rfl, congrArg some (packRR_eq hk hM (by simp) hsa rfl hsb rfl ?_)⟩
  rw [hs, hb, hb, hb]
  omega

theorem decodeMatrixGroup_codes (hM : (wMajor w).toNat = (0x2F#6).toNat) (h : decodeMatrixGroup w = .ok i) : Codes w i := by
  simp only [decodeMatrixGroup, bind_ok_iff, need_ok_iff, beq_iff_eq] at h
  obtain ⟨-, hz, h⟩ := h
  have hs : ((wMinor w).extractLsb' 9 1).toFin.val = (wMinor w).toNat / 512 % 2 := by
    rw [BitVec.val_toFin, BitVec.extractLsb'_toNat, Nat.shiftRight_eq_div_pow]
  split at h
  case h_1 =>
    simp only [bind_ok_iff, need_ok_iff, beq_iff_eq] at h
    obtain ⟨-, hn, h⟩ := h
    exact formM1_codes hk hM h (by omega) fun _ => ⟨rfl, rfl, rfl⟩
  case h_2 =>
    simp only [bind_ok_iff, need_ok_iff, beq_iff_eq] at h
    obtain ⟨-, hn, h⟩ := h
    exact form2r_codes hk hM h (by omega) fun _ _ => ⟨rfl, rfl, rfl⟩
  case h_3 | h_5 => exact form0_codes hk hM h (by rw [hs]; omega) ⟨rfl, rfl, rfl⟩
  case h_4 => exact formM1_codes hk hM h (by rw [hs]; omega) fun _ => ⟨rfl, rfl, rfl⟩
  case h_6 => exact nomatch h

theorem decodeSystemGroup_codes (hM : (wMajor w).toNat = (0x31#6).toNat) (h : decodeSystemGroup w = .ok i) : Codes w i := by
  simp only [decodeSystemGroup, bind_ok_iff, need_ok_iff, beq_iff_eq] at h
  obtain ⟨-, hz, h⟩ := h
  split at h
  case h_1 | h_4 | h_5 => exact form0_codes hk hM h (by omega) ⟨rfl, rfl, rfl⟩
  case h_2 | h_3 | h_6 => exact formM1_codes hk hM h (by omega) fun _ => ⟨rfl, rfl, rfl⟩
  case h_7 => exact nomatch h

end
end Sys2Proof
end

section
/-! SUPPORT. The words of class C (03 R45, R46). -/
namespace Sys2Proof
set_option Elab.async false

/-! ## The parts of a word that several forms share -/

section
variable {w : BitVec 32}

theorem decodeIndexedType_ok_iff {α : Type} {f : Nat → Option α} {x : α} :
    decodeIndexedType w f = .ok x ↔ (wMinor w).toNat / 8 = 0 ∧ f ((wMinor w).toNat % 8) = some x := by
  simp only [decodeIndexedType, bind_ok_iff, need_ok_iff, code_ok_iff, beq_iff_eq, exists_const]

theorem amoFieldsOf_minor {op : AmoOp} {sz : AmoSize} (h : amoFieldsOf w = .ok (op, sz)) : (wMinor w).toNat = op.code * 64 + sz.code := by
  simp only [amoFieldsOf, bind_ok_iff, need_ok_iff, code_ok_iff, amoOpOf_iff, amoSizeOf_iff, pure_ok_iff, beq_iff_eq, Prod.mk.injEq] at h
  obtain ⟨op', hop, -, hz, sz', hsz, rfl, rfl⟩ := h
  omega

theorem bindOf_minor {bd : Option SReg} (h : bindOf w = .ok bd) : (wMinor w).toNat = bindBits bd := by
  simp only [bindOf, bind_ok_iff, need_ok_iff, beq_iff_eq] at h
  obtain ⟨-, hz, h⟩ := h
  split at h
  case isTrue hb =>
    obtain rfl := ok_inj_iff.mp h
    have hs : ((wMinor w).extractLsb' 0 2).toFin.val = (wMinor w).toNat % 4 := by
      rw [BitVec.val_toFin, BitVec.extractLsb'_toNat, Nat.shiftRight_eq_div_pow, Nat.pow_zero, Nat.div_one]
    simp only [bindBits, hs]
    omega
  case isFalse hb =>
    simp only [bind_ok_iff, need_ok_iff, pure_ok_iff, beq_iff_eq] at h
    obtain ⟨-, hn, rfl⟩ := h
    simp only [bindBits]
    omega

theorem vmemOf_minor {ty : VType} {m : Option MReg} (h : vmemOf w = .ok (ty, m)) :
    (wMinor w).toNat = vMinor ty m 0 ∧ ty.isIF = true := by
  simp only [vmemOf, bind_ok_iff, need_ok_iff, code_ok_iff, vTypeOf_iff, maskOf_ok_iff, pure_ok_iff, beq_iff_eq, Prod.mk.injEq] at h
  obtain ⟨-, hz, ty', hty, -, hif, m', hm, rfl, rfl⟩ := h
  exact ⟨by unfold vMinor; omega, hif⟩

theorem numOf_low {n : BitVec 12} (h : numOf w = .ok n) : wOff15 w = 0#3 ++ n := by
  simp only [numOf, bind_ok_iff, need_ok_iff, pure_ok_iff, beq_iff_eq, ← BitVec.toNat_inj, BitVec.extractLsb'_toNat,
    Nat.shiftRight_eq_div_pow, BitVec.ofNat_eq_ofNat, BitVec.toNat_ofNat] at h
  obtain ⟨-, hz, hn⟩ := h
  apply BitVec.eq_of_toNat_eq
  rw [append_toNat, BitVec.toNat_ofNat]
  omega

theorem shiftOf_low {n : BitVec 6} (h : shiftOf w = .ok n) : wOff15 w = 0#9 ++ n := by
  simp only [shiftOf, bind_ok_iff, need_ok_iff, pure_ok_iff, beq_iff_eq, ← BitVec.toNat_inj, BitVec.extractLsb'_toNat,
    Nat.shiftRight_eq_div_pow, BitVec.ofNat_eq_ofNat, BitVec.toNat_ofNat] at h
  obtain ⟨-, hz, hn⟩ := h
  apply BitVec.eq_of_toNat_eq
  rw [append_toNat, BitVec.toNat_ofNat]
  omega

theorem bitFieldOf_low {pw : BitVec 6 × BitVec 6} (h : bitFieldOf w = .ok pw) :
    wOff15 w = 0#3 ++ pw.1 ++ pw.2 ∧ pw.1.toNat + pw.2.toNat + 1 ≤ 64 := by
  simp only [bitFieldOf, bind_ok_iff, need_ok_iff, pure_ok_iff, beq_iff_eq, decide_eq_true_eq] at h
  obtain ⟨-, hz, -, hn, rfl⟩ := h
  refine ⟨BitVec.eq_of_toNat_eq ?_, hn⟩
  rw [← BitVec.toNat_inj, BitVec.extractLsb'_toNat, Nat.shiftRight_eq_div_pow, BitVec.ofNat_eq_ofNat, BitVec.toNat_ofNat, Nat.zero_mod] at hz
  rw [append_toNat, append_toNat, BitVec.toNat_ofNat]
  simp only [BitVec.extractLsb'_toNat, Nat.shiftRight_eq_div_pow]
  omega

theorem num_field {r : SysReg} {n : BitVec 12} (h : n.toNat = r.num) : 0#3 ++ n = BitVec.ofNat 15 r.num := by
  rw [num_low, ← h, BitVec.ofNat_toNat, BitVec.setWidth_eq]

end

/-! ## Class C -/

theorem decodeClassC_codes {w : BitVec 32} {i : Instr} (hk : wK w = 0) (h : decodeClassC w = .ok i) : Codes w i := by
  unfold decodeClassC at h
  split at h
  -- the offset memory forms
  case h_9 | h_10 | h_11 | h_12 | h_13 | h_14 | h_15 | h_17 | h_18 | h_19 | h_20 | h_22 | h_23 | h_24 | h_25 =>
    exact formMo_codes hk ‹_› h fun _ _ _ => ⟨rfl, rfl, rfl⟩
  -- the groups
  case h_27 hM => exact decodeThreadGroup_codes hk hM h
  case h_31 hM => exact decodeOrderGroup_codes hk hM h
  case h_32 hM => exact decodeLineGroup_codes hk hM h
  case h_34 hM => exact decodeLdb_codes hk hM h
  case h_46 hM => exact decodeRingGroup_codes hk hM h
  case h_47 hM => exact decodeMxq_codes hk hM h
  case h_48 hM => exact decodeMatrixGroup_codes hk hM h
  case h_50 hM => exact decodeSystemGroup_codes hk hM h
  -- NOP, branches and BLK
  case h_1 hM =>
    simp only [noMinor, bind_ok_iff, need_ok_iff, beq_iff_eq] at h
    obtain ⟨-, hn, h⟩ := h
    exact form0_codes hk ‹_› h (congrArg BitVec.toNat hn) ⟨rfl, rfl, rfl⟩
  case h_2 hM | h_3 hM =>
    simp only [noD, bind_ok_iff, need_ok_iff, pure_ok_iff, beq_iff_eq] at h
    obtain ⟨-, hd, rfl⟩ := h
    exact ⟨rfl, rfl, congrArg some (packJ_eq hk hM hd rfl)⟩
  case h_4 hM | h_5 hM | h_26 hM =>
    simp only [noD, bind_ok_iff, need_ok_iff, pure_ok_iff, beq_iff_eq] at h
    obtain ⟨-, hd, rfl⟩ := h
    exact ⟨rfl, rfl, congrArg some (packM_eq hk hM hd (by simp) (by simp) rfl)⟩
  case h_6 hM =>
    simp only [bind_ok_iff, code_ok_iff, brCcOf_iff, pure_ok_iff] at h
    obtain ⟨c, hc, rfl⟩ := h
    exact ⟨rfl, rfl, congrArg some (packM_eq hk hM (by rw [← hc, BitVec.ofNat_toNat, BitVec.setWidth_eq]) (by simp) (by simp) rfl)⟩
  case h_7 hM =>
    split at h
    case h_1 | h_2 => exact formM1_codes hk ‹_› h ‹_› fun _ => ⟨rfl, rfl, rfl⟩
    case h_3 => exact nomatch h
  case h_8 hM =>
    obtain rfl := Except.ok.inj h
    have hM' : wMajor w = 0x07 := BitVec.eq_of_toNat_eq hM
    exact ⟨rfl, rfl, congrArg some (by rw [← packG_fields, hk, hM'])⟩
  -- indexed memory forms, AMO and RED, barriers
  case h_16 hM | h_21 hM =>
    simp only [bind_ok_iff, decodeIndexedType_ok_iff, ldTypeOf_iff, stTypeOf_iff] at h
    obtain ⟨ty, ⟨hz, hty⟩, h⟩ := h
    exact form3r_codes hk ‹_› h (by omega) fun _ _ _ => ⟨rfl, rfl, rfl⟩
  case h_28 hM =>
    simp only [bind_ok_iff, decodeIndexedType_ok_iff, scopeOf_iff] at h
    obtain ⟨sc, ⟨hz, hsc⟩, h⟩ := h
    exact formM1_codes hk ‹_› h (by omega) fun _ => ⟨rfl, rfl, rfl⟩
  case h_29 hM =>
    obtain ⟨⟨op, sz⟩, hf, h⟩ := bind_ok_iff.mp h
    exact form3r_codes hk ‹_› h (amoFieldsOf_minor hf) fun _ _ _ => ⟨rfl, rfl, rfl⟩
  case h_30 hM =>
    obtain ⟨⟨op, sz⟩, hf, h⟩ := bind_ok_iff.mp h
    simp only [bind_ok_iff, need_ok_iff] at h
    obtain ⟨-, hop, h⟩ := h
    exact formM2_codes hk ‹_› h (amoFieldsOf_minor hf) fun _ _ => ⟨hop, rfl, rfl⟩
  case h_33 hM =>
    simp only [noMinor, bind_ok_iff, need_ok_iff, beq_iff_eq] at h
    obtain ⟨-, hn, h⟩ := h
    exact formM2_codes hk ‹_› h (congrArg BitVec.toNat hn) fun _ _ => ⟨rfl, rfl, rfl⟩
  -- vector memory
  case h_35 hM | h_36 hM =>
    simp only [bind_ok_iff, vregOf_ok_iff, pure_ok_iff] at h
    obtain ⟨v, hv, rfl⟩ := h
    exact ⟨rfl, rfl, congrArg some (packM_eq hk hM hv (by simp) (by simp) rfl)⟩
  case h_37 hM =>
    obtain ⟨⟨ty, m⟩, hf, h⟩ := bind_ok_iff.mp h
    obtain ⟨hn, hty⟩ := vmemOf_minor hf
    simp only [bind_ok_iff, vregOf_ok_iff, pure_ok_iff] at h
    obtain ⟨v, hv, rfl⟩ := h
    exact ⟨hty, rfl, congrArg some (packRR_eq hk hM hv (by simp) (by simp) (by simp) (by simp) hn)⟩
  case h_38 hM | h_39 hM =>
    obtain ⟨⟨ty, m⟩, hf, h⟩ := bind_ok_iff.mp h
    obtain ⟨hn, hty⟩ := vmemOf_minor hf
    simp only [bind_ok_iff, need_ok_iff, vregOf_ok_iff, pure_ok_iff, beq_iff_eq] at h
    obtain ⟨-, hsb, v, hv, x, hx, rfl⟩ := h
    exact ⟨hty, rfl, congrArg some (packRR_eq hk hM hv (by simp) (by simp) hsb hx hn)⟩
  case h_40 hM =>
    simp only [noB, bind_ok_iff, need_ok_iff, code_ok_iff, vTypeOf_iff, vregOf_ok_iff, mregOf_ok_iff, pure_ok_iff, beq_iff_eq,
      Bool.and_eq_true] at h
    obtain ⟨-, hz, ty, hty, -, hif, -, hsa, -, ⟨hb, hsb⟩, v, hv, st, hst, rfl⟩ := h
    exact ⟨hif, rfl, congrArg some (packRR_eq hk hM hv hsa hst hsb hb (by omega))⟩
  -- copies, streams, registers, collectives
  case h_41 hM | h_42 hM | h_43 hM =>
    obtain ⟨bd, hbd, h⟩ := bind_ok_iff.mp h
    exact form3r_codes hk ‹_› h (bindOf_minor hbd) fun _ _ _ => ⟨rfl, rfl, rfl⟩
  case h_44 hM =>
    split at h
    case h_1 => exact formM1_codes hk ‹_› h ‹_› fun _ => ⟨rfl, rfl, rfl⟩
    case h_2 => exact form2r_codes hk ‹_› h ‹_› fun _ _ => ⟨rfl, rfl, rfl⟩
    case h_3 => exact nomatch h
  case h_45 hM =>
    simp only [noB, bind_ok_iff, decodeIndexedType_ok_iff, ldTypeOf_iff, need_ok_iff, mregOf_ok_iff, pure_ok_iff, beq_iff_eq,
      Bool.and_eq_true] at h
    obtain ⟨ty, ⟨hz, hty⟩, -, hsa, -, ⟨hb, hsb⟩, st, hst, rfl⟩ := h
    exact ⟨rfl, rfl, congrArg some (packRR_eq hk hM (by simp) hsa hst hsb hb (by omega))⟩
  case h_49 hM =>
    simp only [noA, noD, bind_ok_iff, need_ok_iff, pure_ok_iff, beq_iff_eq, Bool.and_eq_true] at h
    obtain ⟨-, hd, -, ⟨ha, hsa⟩, n, hn, -, hz, rfl⟩ := h
    have hl : n = 0#2 ++ n.extractLsb' 0 10 := by
      simp only [← BitVec.toNat_inj, BitVec.extractLsb'_toNat, Nat.shiftRight_eq_div_pow, BitVec.ofNat_eq_ofNat, BitVec.toNat_ofNat, Nat.zero_mod] at hz
      apply BitVec.eq_of_toNat_eq
      rw [append_toNat, BitVec.toNat_ofNat, BitVec.extractLsb'_toNat, Nat.shiftRight_eq_div_pow]
      omega
    exact ⟨rfl, rfl, congrArg some (packM_eq hk hM hd hsa ha (by rw [numOf_low hn, trap_low, ← hl]))⟩
  case h_51 hM =>
    simp only [noA, bind_ok_iff, need_ok_iff, code_ok_iff, sysRegOf_iff, pure_ok_iff, beq_iff_eq, Bool.and_eq_true] at h
    obtain ⟨-, ⟨ha, hsa⟩, n, hn, r, hr, rfl⟩ := h
    exact ⟨rfl, rfl, congrArg some (packM_eq hk hM (by simp) hsa ha ((numOf_low hn).trans (num_field hr)))⟩
  case h_52 hM =>
    simp only [noD, bind_ok_iff, need_ok_iff, code_ok_iff, sysRegOf_iff, pure_ok_iff, beq_iff_eq] at h
    obtain ⟨-, hd, n, hn, r, hr, rfl⟩ := h
    exact ⟨rfl, rfl, congrArg some (packM_eq hk hM hd (by simp) (by simp) ((numOf_low hn).trans (num_field hr)))⟩
  case h_53 hM | h_54 hM | h_56 hM =>
    simp only [noMinor, bind_ok_iff, need_ok_iff, beq_iff_eq] at h
    obtain ⟨-, hn, h⟩ := h
    exact form2r_codes hk ‹_› h (congrArg BitVec.toNat hn) fun _ _ => ⟨rfl, rfl, rfl⟩
  case h_55 hM =>
    simp only [noMinor, bind_ok_iff, need_ok_iff, beq_iff_eq] at h
    obtain ⟨-, hn, h⟩ := h
    exact formD_codes hk ‹_› h (congrArg BitVec.toNat hn) fun _ => ⟨rfl, rfl, rfl⟩
  case h_57 => exact nomatch h

end Sys2Proof
end

section
/-! SUPPORT. The words of class A (03 R47, R48). -/
namespace Sys2Proof
set_option Elab.async false

section
variable {w : BitVec 32} {i : Instr} (hk : wK w = 1)
include hk

/-! ## The groups of class A -/

theorem decodeAlu_codes (hM : (wMajor w).toNat = (0x01#6).toNat) (h : decodeAlu w = .ok i) : Codes w i := by
  unfold decodeAlu at h
  split at h
  case h_16 => exact nomatch h
  all_goals exact form3r_codes hk hM h ‹_› fun _ _ _ => ⟨rfl, rfl, rfl⟩

theorem decodeMultiply_codes (hM : (wMajor w).toNat = (0x02#6).toNat) (h : decodeMultiply w = .ok i) : Codes w i := by
  unfold decodeMultiply at h
  split at h
  case h_10 => exact nomatch h
  all_goals exact form3r_codes hk hM h ‹_› fun _ _ _ => ⟨rfl, rfl, rfl⟩

theorem decodeBit_codes (hM : (wMajor w).toNat = (0x03#6).toNat) (h : decodeBit w = .ok i) : Codes w i := by
  unfold decodeBit at h
  split at h
  case h_6 => exact nomatch h
  all_goals exact form2r_codes hk hM h ‹_› fun _ _ => ⟨rfl, rfl, rfl⟩

theorem decodeFp_codes (hM : (wMajor w).toNat = (0x18#6).toNat) (h : decodeFp w = .ok i) : Codes w i := by
  simp only [decodeFp, bind_ok_iff, need_ok_iff, code_ok_iff, fTypeOf_iff, beq_iff_eq] at h
  obtain ⟨-, hz, ty, hty, h⟩ := h
  split at h
  case h_8 | h_12 => exact form2r_codes hk hM h (by omega) fun _ _ => ⟨rfl, rfl, rfl⟩
  case h_13 => exact nomatch h
  all_goals exact form3r_codes hk hM h (by omega) fun _ _ _ => ⟨rfl, rfl, rfl⟩

theorem formV3_codes {M : BitVec 6} {okTy : VType → Bool} {f : VType → Option MReg → VReg → VReg → VReg → Instr} {op : Nat}
    (hM : (wMajor w).toNat = M.toNat) (h : formV3 w okTy f = .ok i) (hop : (wMinor w).toNat % 16 = op)
    (he : ∀ ty m d a b, okTy ty = true → (f ty m d a b).wf = true ∧ (f ty m d a b).encoded = true ∧
      encode (f ty m d a b) = some (encV3 M d a b (vMinor ty m op))) : Codes w i := by
  simp only [formV3, noSync, bind_ok_iff, need_ok_iff, code_ok_iff, vTypeOf_iff, maskOf_ok_iff, vregOf_ok_iff, pure_ok_iff,
    Bool.and_eq_true, beq_iff_eq] at h
  obtain ⟨ty, hty, -, hok, -, ⟨hsa, hsb⟩, m, hm, d, hd, a, ha, b, hb, rfl⟩ := h
  obtain ⟨hw, hc, he⟩ := he ty m d a b hok
  exact ⟨hw, hc, he.trans (congrArg some (packRR_eq hk hM hd hsa ha hsb hb (by unfold vMinor; omega)))⟩

theorem decodeVector_codes (hM : (wMajor w).toNat = (0x20#6).toNat) (h : decodeVector w = .ok i) : Codes w i := by
  unfold decodeVector at h
  split at h
  case h_13 hop =>
    simp only [noSync, bind_ok_iff, need_ok_iff, code_ok_iff, vTypeOf_iff, maskOf_ok_iff, vregOf_ok_iff, Bool.and_eq_true, beq_iff_eq] at h
    obtain ⟨ty, hty, -, hif, -, ⟨hsa, hsb⟩, m, hm, d, hd, a, ha, b, hb, h⟩ := h
    cases m with
    | none => exact nomatch h
    | some m =>
      obtain rfl := Except.ok.inj h
      exact ⟨hif, rfl, congrArg some (packRR_eq hk hM hd hsa ha hsb hb (by unfold vMinor; omega))⟩
  case h_15 => exact nomatch h
  all_goals exact formV3_codes hk hM h ‹_› fun _ _ _ _ _ hty => ⟨hty, rfl, rfl⟩

theorem decodeVcmp_codes (hM : (wMajor w).toNat = (0x21#6).toNat) (h : decodeVcmp w = .ok i) : Codes w i := by
  simp only [decodeVcmp, noSync, bind_ok_iff, need_ok_iff, code_ok_iff, vTypeOf_iff, maskOf_ok_iff, vregOf_ok_iff, mregOf_ok_iff,
    pure_ok_iff, Bool.and_eq_true, beq_iff_eq] at h
  obtain ⟨ty, hty, cc, hcc, -, ⟨hsa, hsb⟩, m, hm, d, hd, a, ha, b, hb, rfl⟩ := h
  have hc : cc.fits ty = true ∧ (wMinor w).toNat % 16 = cc.code := by
    split at hcc
    case isTrue hint =>
      simp only [bind_ok_iff, code_ok_iff, ccOf_iff, pure_ok_iff] at hcc
      obtain ⟨c, hn, rfl⟩ := hcc
      exact ⟨hint, hn⟩
    case isFalse =>
      split at hcc
      case isTrue hfl =>
        simp only [bind_ok_iff, code_ok_iff, fccOf_iff, pure_ok_iff] at hcc
        obtain ⟨c, hn, rfl⟩ := hcc
        exact ⟨hfl, hn⟩
      case isFalse => exact nomatch hcc
  obtain ⟨hfit, hn⟩ := hc
  exact ⟨hfit, rfl, congrArg some (packRR_eq hk hM hd hsa ha hsb hb (by unfold vMinor; omega))⟩

theorem decodeVred_codes (hM : (wMajor w).toNat = (0x22#6).toNat) (h : decodeVred w = .ok i) : Codes w i := by
  simp only [decodeVred, noB, bind_ok_iff, need_ok_iff, code_ok_iff, vTypeOf_iff, redOpOf_iff, maskOf_ok_iff, vregOf_ok_iff,
    pure_ok_iff, Bool.and_eq_true, beq_iff_eq] at h
  obtain ⟨op, hop, ty, hty, -, hfit, -, hsa, -, ⟨hb, hsb⟩, m, hm, a, ha, rfl⟩ := h
  exact ⟨hfit, rfl, congrArg some (packRR_eq hk hM (by simp) hsa ha hsb hb (by unfold vMinor; omega))⟩

theorem decodeVUnary_codes (hM : (wMajor w).toNat = (0x23#6).toNat) (h : decodeVUnary w = .ok i) : Codes w i := by
  simp only [decodeVUnary, noSync, bind_ok_iff, need_ok_iff, code_ok_iff, vTypeOf_iff, maskOf_ok_iff, vregOf_ok_iff, Bool.and_eq_true,
    beq_iff_eq] at h
  obtain ⟨ty, hty, -, ⟨hsa, hsb⟩, m, hm, d, hd, a, ha, h⟩ := h
  split at h
  case h_1 | h_2 | h_3 =>
    simp only [bind_ok_iff, need_ok_iff, pure_ok_iff, beq_iff_eq] at h
    obtain ⟨-, hfl, -, hb, rfl⟩ := h
    exact ⟨hfl, rfl, congrArg some (packRR_eq hk hM hd hsa ha hsb hb (by unfold vMinor; omega))⟩
  case h_4 =>
    simp only [bind_ok_iff, need_ok_iff, code_ok_iff, vTypeOf_iff, pure_ok_iff] at h
    obtain ⟨-, -, src, hsrc, -, hcv, rfl⟩ := h
    have hb : wB w = BitVec.ofNat 4 src.code := by rw [← hsrc, BitVec.ofNat_toNat, BitVec.setWidth_eq]
    exact ⟨hcv, rfl, congrArg some (packRR_eq hk hM hd hsa ha hsb hb (by unfold vMinor; omega))⟩
  case h_5 => exact nomatch h

theorem decodeMask_codes (hM : (wMajor w).toNat = (0x26#6).toNat) (h : decodeMask w = .ok i) : Codes w i := by
  simp only [decodeMask, noSync, bind_ok_iff, need_ok_iff, Bool.and_eq_true, beq_iff_eq] at h
  obtain ⟨-, ⟨hsa, hsb⟩, h⟩ := h
  split at h
  case h_1 hn | h_2 hn =>
    simp only [bind_ok_iff, mregOf_ok_iff, pure_ok_iff] at h
    obtain ⟨d, hd, a, ha, b, hb, rfl⟩ := h
    exact ⟨rfl, rfl, congrArg some (packRR_eq hk hM hd hsa ha hsb hb hn)⟩
  case h_3 hn =>
    simp only [bind_ok_iff, need_ok_iff, mregOf_ok_iff, pure_ok_iff, beq_iff_eq] at h
    obtain ⟨d, hd, a, ha, -, hb, rfl⟩ := h
    exact ⟨rfl, rfl, congrArg some (packRR_eq hk hM hd hsa ha hsb hb hn)⟩
  case h_4 hn =>
    simp only [bind_ok_iff, need_ok_iff, mregOf_ok_iff, pure_ok_iff, beq_iff_eq] at h
    obtain ⟨a, ha, -, hb, rfl⟩ := h
    exact ⟨rfl, rfl, congrArg some (packRR_eq hk hM (by simp) hsa ha hsb hb hn)⟩
  case h_5 => exact nomatch h

/-! ## Class A -/

theorem decodeClassA_codes (h : decodeClassA w = .ok i) : Codes w i := by
  unfold decodeClassA at h
  split at h
  -- the groups
  case h_1 hM => exact decodeAlu_codes hk hM h
  case h_2 hM => exact decodeMultiply_codes hk hM h
  case h_3 hM => exact decodeBit_codes hk hM h
  case h_21 hM => exact decodeFp_codes hk hM h
  case h_26 hM => exact decodeVector_codes hk hM h
  case h_27 hM => exact decodeVcmp_codes hk hM h
  case h_28 hM => exact decodeVred_codes hk hM h
  case h_29 hM => exact decodeVUnary_codes hk hM h
  case h_32 hM => exact decodeMask_codes hk hM h
  -- bit fields, immediates and shifts
  case h_4 hM | h_5 hM | h_6 hM =>
    obtain ⟨pw, hpw, h⟩ := bind_ok_iff.mp h
    obtain rfl := Except.ok.inj h
    obtain ⟨hl, hle⟩ := bitFieldOf_low hpw
    exact ⟨decide_eq_true hle, rfl, congrArg some (packM_eq hk hM (by simp) (by simp) (by simp) hl)⟩
  case h_11 | h_12 | h_13 | h_14 => exact formMo_codes hk ‹_› h fun _ _ _ => ⟨rfl, rfl, rfl⟩
  case h_15 hM | h_16 hM | h_17 hM | h_18 hM =>
    obtain ⟨n, hn, h⟩ := bind_ok_iff.mp h
    obtain rfl := Except.ok.inj h
    exact ⟨rfl, rfl, congrArg some (packM_eq hk hM (by simp) (by simp) (by simp) (shiftOf_low hn))⟩
  case h_19 hM =>
    obtain rfl := Except.ok.inj h
    exact ⟨rfl, rfl, congrArg some (packJ_eq hk hM (by simp) rfl)⟩
  case h_20 hM =>
    simp only [bind_ok_iff, need_ok_iff, pure_ok_iff, beq_iff_eq] at h
    obtain ⟨-, hz, rfl⟩ := h
    have hl : wOff20 w = 0#2 ++ (wOff20 w).extractLsb' 16 2 ++ (wOff20 w).extractLsb' 0 16 := by
      simp only [← BitVec.toNat_inj, BitVec.extractLsb'_toNat, Nat.shiftRight_eq_div_pow, BitVec.ofNat_eq_ofNat, BitVec.toNat_ofNat,
        Nat.zero_mod] at hz
      apply BitVec.eq_of_toNat_eq
      rw [append_toNat, append_toNat, BitVec.toNat_ofNat]
      simp only [BitVec.extractLsb'_toNat, Nat.shiftRight_eq_div_pow]
      omega
    exact ⟨rfl, rfl, congrArg some (packJ_eq hk hM (by simp) hl)⟩
  -- SEL, ADDX and compares
  case h_7 hM =>
    simp only [bind_ok_iff, need_ok_iff, beq_iff_eq] at h
    obtain ⟨-, hz, h⟩ := h
    have hc : ((wMinor w).extractLsb' 0 4).toFin.val = (wMinor w).toNat % 16 := by
      rw [BitVec.val_toFin, BitVec.extractLsb'_toNat, Nat.shiftRight_eq_div_pow, Nat.pow_zero, Nat.div_one]
    exact form3r_codes hk ‹_› h (by rw [hc]; omega) fun _ _ _ => ⟨rfl, rfl, rfl⟩
  case h_8 hM =>
    simp only [bind_ok_iff, need_ok_iff, beq_iff_eq] at h
    obtain ⟨-, hz, h⟩ := h
    have hc : ((wMinor w).extractLsb' 0 3).toFin.val = (wMinor w).toNat % 8 := by
      rw [BitVec.val_toFin, BitVec.extractLsb'_toNat, Nat.shiftRight_eq_div_pow, Nat.pow_zero, Nat.div_one]
    exact form3r_codes hk ‹_› h (by rw [hc]; omega) fun _ _ _ => ⟨rfl, rfl, rfl⟩
  case h_9 hM =>
    simp only [bind_ok_iff, need_ok_iff, code_ok_iff, ccOf_iff, beq_iff_eq] at h
    obtain ⟨-, hz, c, hc, h⟩ := h
    exact form3r_codes hk ‹_› h (by omega) fun _ _ _ => ⟨rfl, rfl, rfl⟩
  case h_10 hM =>
    simp only [bind_ok_iff, code_ok_iff, ccOf_iff, pure_ok_iff] at h
    obtain ⟨c, hc, rfl⟩ := h
    have hl : wOff15 w = BitVec.ofNat 4 c.code ++ (wOff15 w).extractLsb' 0 11 := by
      rw [← hc, BitVec.ofNat_toNat, BitVec.setWidth_eq]
      apply BitVec.eq_of_toNat_eq
      rw [append_toNat]
      simp only [BitVec.extractLsb'_toNat, Nat.shiftRight_eq_div_pow]
      omega
    exact ⟨rfl, rfl, congrArg some (packM_eq hk hM (by simp) (by simp) (by simp) hl)⟩
  -- floating-point compares and conversions
  case h_22 hM =>
    simp only [bind_ok_iff, need_ok_iff, code_ok_iff, fTypeOf_iff, fccOf_iff, beq_iff_eq] at h
    obtain ⟨-, hz, ty, hty, c, hc, h⟩ := h
    exact form3r_codes hk ‹_› h (by omega) fun _ _ _ => ⟨rfl, rfl, rfl⟩
  case h_23 hM =>
    simp only [bind_ok_iff, need_ok_iff, code_ok_iff, cTypeOf_iff, beq_iff_eq] at h
    obtain ⟨-, hz, dst, hdst, src, hsrc, -, hne, h⟩ := h
    exact form2r_codes hk ‹_› h (by omega) fun _ _ => ⟨hne, rfl, rfl⟩
  case h_24 hM =>
    simp only [bind_ok_iff, need_ok_iff, code_ok_iff, fTypeOf_iff, iTypeOf_iff, rModeOf_iff, beq_iff_eq] at h
    obtain ⟨-, hz, src, hsrc, it, hit, rm, hrm, h⟩ := h
    exact form2r_codes hk ‹_› h (by omega) fun _ _ => ⟨rfl, rfl, rfl⟩
  case h_25 hM =>
    simp only [bind_ok_iff, need_ok_iff, code_ok_iff, fTypeOf_iff, iTypeOf_iff, beq_iff_eq] at h
    obtain ⟨-, hz, dst, hdst, it, hit, h⟩ := h
    exact form2r_codes hk ‹_› h (by omega) fun _ _ => ⟨rfl, rfl, rfl⟩
  -- vector moves
  case h_30 hM =>
    simp only [noB, bind_ok_iff, need_ok_iff, code_ok_iff, vTypeOf_iff, vregOf_ok_iff, pure_ok_iff, Bool.and_eq_true, beq_iff_eq] at h
    obtain ⟨-, hz, ty, hty, -, hif, -, ⟨hb, hsb⟩, d, hd, rfl⟩ := h
    exact ⟨hif, rfl, congrArg some (packRR_eq hk hM hd (by simp) (by simp) hsb hb (by omega))⟩
  case h_31 hM =>
    simp only [noB, bind_ok_iff, need_ok_iff, code_ok_iff, vTypeOf_iff, vregOf_ok_iff, pure_ok_iff, Bool.and_eq_true, beq_iff_eq,
      decide_eq_true_eq] at h
    obtain ⟨-, hz, ty, hty, -, hif, -, hsa, -, ⟨hb, hsb⟩, a, ha, -, hlane, rfl⟩ := h
    have hl : ((wMinor w).extractLsb' 0 6).toNat = (wMinor w).toNat % 64 := by
      rw [BitVec.extractLsb'_toNat, Nat.shiftRight_eq_div_pow, Nat.pow_zero, Nat.div_one]
    exact ⟨Bool.and_eq_true_iff.mpr ⟨hif, decide_eq_true (hl ▸ hlane)⟩, rfl,
      congrArg some (packRR_eq hk hM (by simp) hsa ha hsb hb (by rw [hl]; omega))⟩
  case h_33 => exact nomatch h

end

end Sys2Proof

open Sys2Proof

/-- Settles O3: a word of either class is what the encoder writes for the instruction read from its fields. -/
theorem encodeDecode : Obligations.EncodeDecode := by
  intro i w h
  rcases BitVec.eq_zero_or_eq_one (wK w) with hk | hk
  · exact decodeClassC_codes hk ((if_pos hk).symm.trans h)
  · exact decodeClassA_codes hk ((if_neg (by rw [hk]; decide)).symm.trans h)
end

section
/-! SUPPORT. The integer words (06 R86 to R96) as the statements give them: shifts, rotations, products and divisions by arithmetic, counts and
fields by their bits. -/
namespace Sys2Proof.Machine

/-! ## Arithmetic on words -/

theorem shl_eq (x : Word) (n : Nat) : x <<< n = word (x.toNat * 2 ^ n) := by
  apply BitVec.eq_of_toNat_eq; simp [word, Nat.shiftLeft_eq]
theorem shr_eq (x : Word) (n : Nat) : x >>> n = word (x.toNat / 2 ^ n) := by
  apply BitVec.eq_of_toNat_eq
  rw [BitVec.toNat_ushiftRight, word, BitVec.toNat_ofNat, Nat.shiftRight_eq_div_pow,
    Nat.mod_eq_of_lt (Nat.lt_of_le_of_lt (Nat.div_le_self _ _) x.isLt)]
theorem sshr_eq (x : Word) (n : Nat) : x.sshiftRight n = BitVec.ofInt 64 (x.toInt / 2 ^ n) := by
  rw [BitVec.sshiftRight, Int.shiftRight_eq_div_pow]; norm_cast
theorem add_eq (x y : Word) : x + y = word (x.toNat + y.toNat) := by
  apply BitVec.eq_of_toNat_eq; simp [word]
theorem sub_eq (x y : Word) : x - y = BitVec.ofInt 64 ((x.toNat : Int) - y.toNat) := by
  apply BitVec.eq_of_toNat_eq
  rw [BitVec.toNat_sub, BitVec.toNat_ofInt]
  omega
theorem rotRight_eq (x : Word) {n : Nat} (h : n < 64) : rotRight x n = word (x.toNat / 2 ^ n + x.toNat * 2 ^ (64 - n)) := by
  have hp : x.toNat / 2 ^ n < 2 ^ (64 - n) := by
    rw [Nat.div_lt_iff_lt_mul (by positivity), ← pow_add, Nat.sub_add_cancel h.le]; exact x.isLt
  have ho := Nat.two_pow_add_eq_or_of_lt hp x.toNat
  apply BitVec.eq_of_toNat_eq
  rw [rotRight, BitVec.toNat_or, BitVec.toNat_ushiftRight, BitVec.toNat_shiftLeft, word, BitVec.toNat_ofNat, Nat.shiftRight_eq_div_pow,
    Nat.shiftLeft_eq, Nat.add_comm, Nat.mul_comm _ (2 ^ (64 - n)), ho, Nat.or_mod_two_pow, Nat.or_comm,
    Nat.mod_eq_of_lt (a := x.toNat / 2 ^ n) (hp.trans_le (Nat.pow_le_pow_right (by decide) (by omega)))]

/-! ## Carry-less products (R91) -/

/-- The XOR of f 0 … f (n − 1). -/
def xorUpTo (f : Nat → Bool) (n : Nat) : Bool := (List.range n).foldl (fun acc i => acc ^^ f i) false

theorem xorUpTo_succ (f : Nat → Bool) (n : Nat) : xorUpTo f (n + 1) = (xorUpTo f n ^^ f n) := by
  simp only [xorUpTo, List.range_succ, List.foldl_append, List.foldl_cons, List.foldl_nil]

theorem xorUpTo_congr {f g : Nat → Bool} {n : Nat} (h : ∀ i, i < n → f i = g i) : xorUpTo f n = xorUpTo g n := by
  induction n with
  | zero => rfl
  | succ n ih => rw [xorUpTo_succ, xorUpTo_succ, ih fun i hi => h i (by omega), h n (by omega)]

/-- Terms that are false at the end do not count. -/
theorem xorUpTo_add {f : Nat → Bool} {n : Nat} (j : Nat) (h : ∀ i, n ≤ i → f i = false) : xorUpTo f (n + j) = xorUpTo f n := by
  induction j with
  | zero => rfl
  | succ j ih => rw [← Nat.add_assoc, xorUpTo_succ, ih, h _ (by omega), Bool.xor_false]

theorem getLsbD_clFold (x y : Word) (k : Nat) (l : List Nat) : ∀ acc : BitVec 128,
    (l.foldl (fun acc i => if y.getLsbD i then acc ^^^ (x.setWidth 128 <<< i) else acc) acc).getLsbD k =
      l.foldl (fun b i => b ^^ (y.getLsbD i && (x.setWidth 128 <<< i).getLsbD k)) (acc.getLsbD k) := by
  induction l with
  | nil => intro acc; rfl
  | cons i l ih =>
    intro acc
    rw [List.foldl_cons, List.foldl_cons, ih]
    cases y.getLsbD i <;> simp

/-- Bit k of the carry-less product. -/
theorem getLsbD_clProduct (x y : Word) {k : Nat} (hk : k < 128) :
    (clProduct x y).getLsbD k = xorUpTo (fun i => y.getLsbD i && x.getLsbD (k - i)) (k + 1) := by
  let g (i : Nat) : Bool := y.getLsbD i && (x.setWidth 128 <<< i).getLsbD k
  have hg : ∀ i, i < k + 1 → (y.getLsbD i && x.getLsbD (k - i)) = g i := by
    intro i hi
    have h1 : ¬ k < i := by omega
    simp [g, hk, h1]
  have hy : ∀ i, 64 ≤ i → g i = false := fun i hi => by simp [g, BitVec.getLsbD_of_ge y i hi]
  have hx : ∀ i, k + 1 ≤ i → g i = false := fun i hi => by simp [g, show k < i by omega]
  have h0 : (clProduct x y).getLsbD k = xorUpTo g 64 := by
    rw [clProduct, getLsbD_clFold, show (0 : BitVec 128).getLsbD k = false from BitVec.getLsbD_zero]; rfl
  calc (clProduct x y).getLsbD k = xorUpTo g 64 := h0
    _ = xorUpTo g (64 + (k + 1)) := (xorUpTo_add _ hy).symm
    _ = xorUpTo g (k + 1) := by rw [Nat.add_comm 64, xorUpTo_add _ hx]
    _ = _ := (xorUpTo_congr hg).symm

/-- The carry-less product has 127 bits. -/
theorem clProduct_bit127 (x y : Word) : (clProduct x y).getLsbD 127 = false := by
  rw [getLsbD_clProduct x y (by decide)]
  have h : ∀ i, i < 128 → (y.getLsbD i && x.getLsbD (127 - i)) = false := by
    intro i hi
    rcases Nat.lt_or_ge i 64 with h | h
    · rw [BitVec.getLsbD_of_ge x _ (by omega), Bool.and_false]
    · rw [BitVec.getLsbD_of_ge y _ h, Bool.false_and]
  rw [xorUpTo_congr (g := fun _ => false) h]
  exact xorUpTo_add (n := 0) 128 fun _ _ => rfl

/-! ## Divisions (R92, R93) -/

theorem divSigned_zero {x y : Word} (hy : y = 0) : divSigned x y = (-1, x.toInt) := if_pos hy
theorem divSigned_overflow {x y : Word} (hx : x.toInt = -2 ^ 63) (hy : y.toInt = -1) : divSigned x y = (-(2 ^ 63), 0) := by
  have h0 : y ≠ 0 := by rintro rfl; exact absurd hy (by decide)
  simp only [divSigned, h0, if_false, hx, hy]
  rfl
theorem divSigned_other {x y : Word} (h0 : y ≠ 0) (h : ¬ (x.toInt = -2 ^ 63 ∧ y.toInt = -1)) :
    divSigned x y = (x.toInt.tdiv y.toInt, x.toInt.tmod y.toInt) := by
  rw [divSigned, if_neg h0, if_neg h, Int.tmod_def, Int.mul_comm y.toInt]

theorem divUnsigned_other {x y : Word} (h0 : y ≠ 0) : divUnsigned x y = (x.toNat / y.toNat, x.toNat % y.toNat) := by
  rw [divUnsigned, if_neg h0, Nat.mod_eq_sub_div_mul]

/-! ## Counting bits (R94) -/

theorem leadingZeros_spec (x : Word) (n : Nat) : leadingZeros x n ≤ n ∧ (∀ i, n - leadingZeros x n ≤ i → i < n → x.getLsbD i = false) ∧
    (leadingZeros x n < n → x.getLsbD (n - 1 - leadingZeros x n) = true) := by
  induction n with
  | zero => exact ⟨Nat.le_refl _, fun i _ h => absurd h (Nat.not_lt_zero i), fun h => absurd h (Nat.not_lt_zero _)⟩
  | succ n ih =>
    obtain ⟨hle, hz, ho⟩ := ih
    unfold leadingZeros
    split
    case isTrue h => exact ⟨Nat.zero_le _, fun i _ h2 => absurd h2 (by omega), fun _ => by simpa using h⟩
    case isFalse h =>
      refine ⟨by omega, fun i h1 h2 => ?_, fun h1 => ?_⟩
      · rcases Nat.lt_or_ge i n with hi | hi
        · exact hz i (by omega) hi
        · obtain rfl : i = n := by omega
          simpa using h
      · rw [show n + 1 - 1 - (1 + leadingZeros x n) = n - 1 - leadingZeros x n by omega]
        exact ho (by omega)

theorem trailingZeros_eq (x : Word) : trailingZeros x = ((List.range 64).find? (fun i => x.getLsbD i)).getD 64 := by
  have h (l : List Nat) : l.foldr (fun i acc => if x.getLsbD i then i else acc) 64 = (l.find? (fun i => x.getLsbD i)).getD 64 := by
    induction l with
    | nil => rfl
    | cons i l ih =>
      rw [List.foldr_cons, ih, List.find?_cons]
      cases x.getLsbD i <;> rfl
  exact h _

theorem trailingZeros_spec (x : Word) : trailingZeros x ≤ 64 ∧ (∀ i, i < trailingZeros x → x.getLsbD i = false) ∧
    (trailingZeros x < 64 → x.getLsbD (trailingZeros x) = true) := by
  rw [trailingZeros_eq]
  cases h : (List.range 64).find? (fun i => x.getLsbD i) with
  | none =>
    rw [List.find?_eq_none] at h
    exact ⟨Nat.le_refl _, fun i hi => by simpa using h i (List.mem_range.mpr hi), fun hi => absurd hi (Nat.lt_irrefl _)⟩
  | some k =>
    obtain ⟨hk, hm, hj⟩ := List.find?_range_eq_some.mp h
    exact ⟨(List.mem_range.mp hm).le, fun i hi => by simpa using hj i hi, fun _ => hk⟩

theorem onesOf_eq {n : Nat} (x : BitVec n) : onesOf x = (List.range n).countP (fun i => x.getLsbD i) := by
  have h (l : List Nat) : ∀ c, l.foldl (fun c i => if x.getLsbD i then c + 1 else c) c = c + l.countP (fun i => x.getLsbD i) := by
    induction l with
    | nil => intro c; rfl
    | cons i l ih =>
      intro c
      rw [List.foldl_cons, ih, List.countP_cons]
      cases x.getLsbD i <;> simp; omega
  rw [onesOf, h, Nat.zero_add]

theorem getLsbD_bitReverse (x : Word) {j : Nat} (hj : j < 64) : (bitReverse x).getLsbD j = x.getLsbD (63 - j) := by
  have h (l : List Nat) : ∀ acc : Word, (l.foldl (fun acc i => if x.getLsbD (63 - i) then acc ||| (1#64 <<< i) else acc) acc).getLsbD j =
      (acc.getLsbD j || (l.contains j && x.getLsbD (63 - j))) := by
    induction l with
    | nil => intro acc; simp
    | cons i l ih =>
      intro acc
      rw [List.foldl_cons, ih, List.contains_cons]
      by_cases hi : j = i
      · subst hi
        cases x.getLsbD (63 - j) <;> simp [hj]
      · have h1 : (1#64 <<< i).getLsbD j = false := by
          simp [hj]; omega
        have h2 : (j == i) = false := by simpa using hi
        cases x.getLsbD (63 - i) <;> simp [h1, h2]
  rw [bitReverse, h]
  simp [hj]

theorem getLsbD_byteSwap (x : Word) {i j : Nat} (hi : i < 8) (hj : j < 8) :
    (byteSwap x).getLsbD (8 * i + j) = x.getLsbD (8 * (7 - i) + j) := by
  simp only [byteSwap, BitVec.getLsbD_append, BitVec.getLsbD_extractLsb']
  split_ifs
  all_goals rw [decide_eq_true (by omega), Bool.true_and]; congr 1; omega

/-! ## Bit fields (R95, R96) -/

theorem getLsbD_setField (w : Word) (lo n v : Nat) {i : Nat} (hi : i < 64) :
    (setField w lo n v).getLsbD i = if lo ≤ i ∧ i < lo + n then v.testBit (i - lo) else w.getLsbD i := by
  have hv : v % 2 ^ n < 2 ^ n := Nat.mod_lt _ (by positivity)
  have hw : w.toNat % 2 ^ lo < 2 ^ lo := Nat.mod_lt _ (by positivity)
  have he : w.toNat / 2 ^ (lo + n) * 2 ^ (lo + n) + v % 2 ^ n * 2 ^ lo + w.toNat % 2 ^ lo =
      2 ^ lo * (2 ^ n * (w.toNat / 2 ^ (lo + n)) + v % 2 ^ n) + w.toNat % 2 ^ lo := by rw [Nat.pow_add]; ring
  rw [setField, word, BitVec.getLsbD_ofNat, he, Nat.testBit_two_pow_mul_add _ hw, Nat.testBit_two_pow_mul_add _ hv, Nat.testBit_mod_two_pow,
    Nat.testBit_mod_two_pow, Nat.testBit_div_two_pow]
  simp only [hi, decide_true, Bool.true_and, BitVec.getLsbD]
  rcases Nat.lt_or_ge i lo with h1 | h1
  · simp [h1, Nat.not_le.mpr h1]
  · rcases Nat.lt_or_ge i (lo + n) with h2 | h2
    · simp [h1, h2, Nat.not_lt.mpr h1, show i - lo < n by omega]
    · simp [Nat.not_lt.mpr h1, Nat.not_lt.mpr h2, show ¬ i - lo < n by omega, show i - lo - n + (lo + n) = i by omega]

theorem sextTo_eq {w f : Nat} (h2 : w ≤ 64) (hf : f < 2 ^ w) :
    sextTo w f = word (if f < 2 ^ (w - 1) then f else f + 2 ^ 64 - 2 ^ w) := by
  have hm : (BitVec.ofNat w f).msb = decide (2 ^ (w - 1) ≤ f) := by
    rw [BitVec.msb_eq_decide, BitVec.toNat_ofNat, Nat.mod_eq_of_lt hf]
  have hp : 2 ^ w ≤ 2 ^ 64 := Nat.pow_le_pow_right (by decide) h2
  apply BitVec.eq_of_toNat_eq
  rw [sextTo, BitVec.toNat_signExtend, hm, BitVec.toNat_setWidth, BitVec.toNat_ofNat, Nat.mod_eq_of_lt hf, word, BitVec.toNat_ofNat]
  by_cases h : f < 2 ^ (w - 1)
  · simp [h, Nat.not_le.mpr h]
  · simp [h, Nat.not_lt.mp h]
    omega

/-! ## The words -/

section
variable {s : State} {t : Thread} {a b : Src} {d : Reg}

theorem alu3_gives {f : Word → Word → Word} {v : Word} (h : Ready s t [a, b]) (hv : f (t.rd a) (t.rd b) = v) :
    Completes s t [a, b] (alu3 f d a b s) (writes d v) := hv ▸ alu3_completes h d f

theorem alu2_gives {f : Word → Word} {v : Word} (h : Ready s t [a]) (hv : f (t.rd a) = v) :
    Completes s t [a] (alu2 f d a s) (writes d v) := hv ▸ alu2_completes h d f

theorem divWord_gives {sg : Bool} {f : Word → Word → Word} {v : Word} {n : Nat} (h : Ready s t [a, b]) (hv : f (t.rd a) (t.rd b) = v)
    (hn : divTime sg (t.rd a) (t.rd b) = n) : Completes s t [a, b] (divWord sg f d a b s) { writes d v with lat := n } :=
  hv ▸ hn ▸ divWord_completes h sg f d

/-- A word that reads an empty register waits for it (R14): of the thread, only its wait changes. -/
theorem runWord_waits_regs {srcs : List Src} (ht : s.thread s.cur.at_ = some t) (he : emptyRegs t (syncRegs srcs) ≠ [])
    (f : TRef → Thread → State → Res) :
    runWord srcs f s = .next (s.setThread s.cur.at_ { t with wait := some (.regs (emptyRegs t (syncRegs srcs))) }) := by
  rw [runWord_empty ht he, waitThread, State.modThread, ht]

theorem alu3_waits_regs (d : Reg) (ht : s.thread s.cur.at_ = some t) (he : emptyRegs t (syncRegs [a, b]) ≠ []) (f : Word → Word → Word) :
    alu3 f d a b s = .next (s.setThread s.cur.at_ { t with wait := some (.regs (emptyRegs t (syncRegs [a, b]))) }) :=
  runWord_waits_regs ht he fun _ t s => .done (Commit.reg d (f (t.rd a) (t.rd b))) s

theorem divWord_waits_regs (d : Reg) (ht : s.thread s.cur.at_ = some t) (he : emptyRegs t (syncRegs [a, b]) ≠ []) (sg : Bool)
    (f : Word → Word → Word) :
    divWord sg f d a b s = .next (s.setThread s.cur.at_ { t with wait := some (.regs (emptyRegs t (syncRegs [a, b]))) }) :=
  runWord_waits_regs ht he fun _ t s => .done ((Commit.reg d (f (t.rd a) (t.rd b))).late (divTime sg (t.rd a) (t.rd b))) s

end

end Sys2Proof.Machine

open Sys2Proof Sys2Proof.Machine

/-- Settles O7: each word's function is the arithmetic that its row states; an empty register stops them all in `runWord`. -/
theorem aluResults : Obligations.AluResults := by
  intro s t d a b imm c x y n k gives gives1
  have hn : n < 64 := Nat.mod_lt _ (by decide)
  have hk : k < 64 := c.isLt
  refine ⟨fun h => ?_, fun h => ?_, fun ht he => ⟨fun i hi => ?_, runWord_waits_regs ht he⟩⟩
  · exact ⟨alu3_gives (f := fun x y => x + y) h (add_eq x y), alu3_gives (f := fun x y => x - y) h (sub_eq x y),
      alu3_gives (f := fun x y => x &&& y) h rfl, alu3_gives (f := fun x y => x ||| y) h rfl, alu3_gives (f := fun x y => x ^^^ y) h rfl,
      alu3_gives (f := fun x y => x &&& ~~~y) h rfl, alu3_gives (f := fun x y => x ||| ~~~y) h rfl,
      alu3_gives (f := fun x y => x <<< shiftCount y) h (shl_eq x n), alu3_gives (f := fun x y => x >>> shiftCount y) h (shr_eq x n),
      alu3_gives (f := fun x y => x.sshiftRight (shiftCount y)) h (sshr_eq x n),
      alu3_gives (f := fun x y => rotRight x (shiftCount y)) h (rotRight_eq x hn),
      alu3_gives (f := intMin) h rfl, alu3_gives (f := intMax) h rfl, alu3_gives (f := natMin) h rfl, alu3_gives (f := natMax) h rfl⟩
  · exact ⟨alu2_gives (f := fun x => x + imm.signExtend 64) h rfl, alu2_gives (f := fun x => x &&& imm.signExtend 64) h rfl,
      alu2_gives (f := fun x => x ||| imm.signExtend 64) h rfl, alu2_gives (f := fun x => x ^^^ imm.signExtend 64) h rfl,
      alu2_gives (f := fun x => x <<< k) h (shl_eq x k), alu2_gives (f := fun x => x >>> k) h (shr_eq x k),
      alu2_gives (f := fun x => x.sshiftRight k) h (sshr_eq x k), alu2_gives (f := fun x => rotRight x k) h (rotRight_eq x hk)⟩
  · have hw (f : Word → Word → Word) := alu3_waits_regs d ht he f
    fin_cases hi
    · exact hw fun x y => x + y
    · exact hw fun x y => x - y
    · exact hw fun x y => x &&& y
    · exact hw fun x y => x &&& ~~~y
    · exact hw fun x y => x ||| y
    · exact hw fun x y => x ||| ~~~y
    · exact hw fun x y => x ^^^ y
    · exact hw fun x y => x <<< shiftCount y
    · exact hw fun x y => x >>> shiftCount y
    · exact hw fun x y => x.sshiftRight (shiftCount y)
    · exact hw fun x y => rotRight x (shiftCount y)
    · exact hw intMin
    · exact hw intMax
    · exact hw natMin
    · exact hw natMax
    · exact hw fun x y => x * y
    · exact divWord_waits_regs d ht he true fun x y => BitVec.ofInt 64 (divSigned x y).1
    · exact hw fun x y => truth (Cc.eq.holds x y)

/-- Settles O8: a compare writes the truth of its condition. -/
theorem compareSelectResults : Obligations.CompareSelectResults := by
  intro s t d c a b sh cc imm holds bit01
  have htruth (x y : Word) : bit01 (holds x y) (truth (cc.holds x y)) := by
    have hc : cc.holds x y = true ↔ holds x y := by cases cc <;> simp [Cc.holds, holds]
    exact ⟨fun h => by rw [hc.mpr h]; rfl, fun h => by rw [Bool.eq_false_iff.mpr (mt hc.mp h)]; rfl⟩
  refine ⟨fun h => ⟨alu3_gives (f := fun x y => x + (y <<< sh.val)) h ?_,
      ⟨_, htruth _ _, alu3_gives (f := fun x y => truth (cc.holds x y)) h rfl⟩,
      aluWord_completes h d fun t => if t.rdD c ≠ 0 then t.rd a else t.rd b⟩,
    fun h => ⟨_, htruth _ _, alu2_gives (f := fun x => truth (cc.holds x (imm.signExtend 64))) h rfl⟩⟩
  rw [add_eq, shl_eq, word, word, word, BitVec.toNat_ofNat]
  exact BitVec.eq_of_toNat_eq (by simp)

/-- Settles O9: bit k of the carry-less product is an XOR over the bits of its factors. -/
theorem productResults : Obligations.ProductResults := by
  intro s t d a b h x y p gives
  refine ⟨alu3_gives (f := fun x y => x * y) h (BitVec.eq_of_toNat_eq (BitVec.toNat_mul x y)), alu3_gives (f := mulHigh) h rfl,
    alu3_gives (f := mulHighZ) h rfl, (clProduct x y).extractLsb' 0 64, (clProduct x y).extractLsb' 64 64,
    alu3_gives (f := fun x y => (clProduct x y).extractLsb' 0 64) h rfl, alu3_gives (f := fun x y => (clProduct x y).extractLsb' 64 64) h rfl, fun k hk => ?_, fun k hk => ?_, ?_⟩
  · rw [BitVec.getLsbD_extractLsb', decide_eq_true hk, Bool.true_and, Nat.zero_add]
    exact getLsbD_clProduct x y (by omega)
  · rw [BitVec.getLsbD_extractLsb', decide_eq_true (by omega), Bool.true_and]
    exact getLsbD_clProduct x y (by omega)
  · rw [BitVec.getLsbD_extractLsb', clProduct_bit127, Bool.and_false]

/-- Settles O10: quotient, remainder and time in each case of R92. -/
theorem divisionResults : Obligations.DivisionResults := by
  intro s t d a b h x y gives
  have hdiv {v : Word} {n : Nat} (hv : BitVec.ofInt 64 (divSigned x y).1 = v) (hn : divTime true x y = n) : gives (.div d a b) v n :=
    divWord_gives (f := fun x y => BitVec.ofInt 64 (divSigned x y).1) h hv hn
  have hrem {v : Word} {n : Nat} (hv : BitVec.ofInt 64 (divSigned x y).2 = v) (hn : divTime true x y = n) : gives (.rem d a b) v n :=
    divWord_gives (f := fun x y => BitVec.ofInt 64 (divSigned x y).2) h hv hn
  have hdivz {v : Word} {n : Nat} (hv : word (divUnsigned x y).1 = v) (hn : divTime false x y = n) : gives (.divz d a b) v n :=
    divWord_gives (f := fun x y => word (divUnsigned x y).1) h hv hn
  have hremz {v : Word} {n : Nat} (hv : word (divUnsigned x y).2 = v) (hn : divTime false x y = n) : gives (.remz d a b) v n :=
    divWord_gives (f := fun x y => word (divUnsigned x y).2) h hv hn
  refine ⟨fun hy => ?_, fun hx hy => ?_, fun h0 hn => ?_, fun h0 => ?_⟩
  · have hs : divSigned x y = (-1, x.toInt) := divSigned_zero hy
    have hu : divUnsigned x y = (2 ^ 64 - 1, x.toNat) := if_pos hy
    have ht (sg : Bool) : divTime sg x y = 16 := if_pos hy
    refine ⟨hdiv ?_ (ht _), hrem ?_ (ht _), hdivz ?_ (ht _), hremz ?_ (ht _)⟩
    · rw [hs]; rfl
    · rw [hs]; exact BitVec.ofInt_toInt
    · rw [hu]; rfl
    · rw [hu]; exact BitVec.ofNat_toNat ..
  · have hs := divSigned_overflow hx hy
    have h0 : y ≠ 0 := by rintro h0; rw [h0] at hy; exact absurd hy (by decide)
    have ht : divTime true x y = 16 := by rw [divTime, if_neg h0, if_pos rfl, if_pos ⟨hx, hy⟩]
    refine ⟨hdiv ?_ ht, hrem ?_ ht⟩
    · rw [hs]; exact (congrArg (BitVec.ofInt 64) hx.symm).trans BitVec.ofInt_toInt
    · rw [hs]; rfl
  · intro lat
    have hs := divSigned_other h0 hn
    have ht : divTime true x y = lat := by rw [divTime, if_neg h0, if_pos rfl, if_neg hn]
    exact ⟨hdiv (by rw [hs]) ht, hrem (by rw [hs]) ht⟩
  · intro lat
    have hu := divUnsigned_other (x := x) h0
    have ht : divTime false x y = lat := by rw [divTime, if_neg h0]; rfl
    exact ⟨hdivz (by rw [hu]) ht, hremz (by rw [hu]) ht⟩

/-- Settles O11: the counts by the bits that they pass over, the fields bit by bit. -/
theorem bitFieldResults : Obligations.BitFieldResults := by
  intro s t d a pos wm1 imm q v w x z gives
  have hw : w ≤ 64 := wm1.isLt
  refine ⟨fun h => ?_, fun h _ => ?_, fun h => ?_⟩
  · obtain ⟨hl, hlz, hlo⟩ := leadingZeros_spec x 64
    obtain ⟨ht, htz, hto⟩ := trailingZeros_spec x
    refine ⟨⟨leadingZeros x 64, hl, alu2_gives (f := fun x => word (leadingZeros x 64)) h rfl, fun i hi => ?_, hlo⟩,
      ⟨trailingZeros x, ht, alu2_gives (f := fun x => word (trailingZeros x)) h rfl, htz, hto⟩,
      alu2_gives (f := fun x => word (onesOf x)) h (congrArg word (onesOf_eq x)),
      ⟨bitReverse x, alu2_gives (f := bitReverse) h rfl, fun i hi => getLsbD_bitReverse x hi⟩,
      ⟨byteSwap x, alu2_gives (f := byteSwap) h rfl, fun i j hi hj => getLsbD_byteSwap x hi hj⟩⟩
    rcases Nat.lt_or_ge i 64 with h64 | h64
    · exact hlz i hi h64
    · exact BitVec.getLsbD_of_ge x i h64
  · intro f
    have hf : f < 2 ^ w := Nat.mod_lt _ (by positivity)
    exact ⟨alu2_gives (f := fun x => word (fieldAt x pos.toNat w)) h rfl,
      alu2_gives (f := fun x => sextTo w (fieldAt x pos.toNat w)) h (sextTo_eq hw hf),
      ⟨insertAt z pos.toNat w x.toNat, aluWord_completes h d fun t => insertAt (t.rdD d) pos.toNat w (t.rd a).toNat,
        fun i hi => getLsbD_setField z pos.toNat w x.toNat hi⟩⟩
  · exact ⟨aluWord_completes h d fun _ => imm.signExtend 64,
      ⟨insertAt z (16 * q.toNat) 16 v.toNat, aluWord_completes h d fun t => insertAt (t.rdD d) (16 * q.toNat) 16 v.toNat,
        fun i hi => getLsbD_setField z (16 * q.toNat) 16 v.toNat hi⟩⟩
end

section
/-! SUPPORT. What a commit and a trap make of their thread (01 R18, 20 R311). -/
namespace Sys2Proof.Machine

/-! ## Commits -/

/-- A commit that is due now is the bundle's commit. -/
theorem commitIn_now (s : State) (u : Cur) (c : Commit) : commitIn s u s.cycle c = commitAt s u.at_ u.size u.words c :=
  if_pos (Nat.le_refl _)

/-- The thread that a commit leaves, with or without the trace record of a taken transfer. -/
theorem commitAt_thread {s : State} {r : TRef} {t : Thread} {c : Commit} (n : Nat) (ws : List (BitVec 32)) (ht : s.thread r = some t)
    (hp : c.log.all LogItem.plain = true ∨ s.watched r.part r.core = false) :
    (commitAt s r n ws c).thread r = some (commitThread t s.cycle n ws c) := by
  have hl : (logItems (s.setThread r (commitThread t s.cycle n ws c)) r t.pc c.log).thread r = some (commitThread t s.cycle n ws c) := by
    rw [logItems_keep _ _ _ _ (by rw [State.watched_setThread]; exact hp), State.thread_setThread]
  simp only [commitAt, ht]
  split
  · split
    · exact (State.thread_traceRec ..).trans hl
    · exact hl
  · split
    · exact (State.thread_traceRec ..).trans hl
    · exact hl

/-! ## What counters and the trace unit leave of a core -/

theorem State.core_modCoreC_w (s : State) (p : PartId) (c : CoreId) (f : CoreFixed → CoreFixed) (p' : PartId) (c' : CoreId) :
    ((s.modCoreC p c f).core p' c').w = (s.core p' c').w := by
  by_cases h : p' = p ∧ c' = c
  · obtain ⟨rfl, rfl⟩ := h
    rw [State.core_modCoreC]
  · rw [State.modCoreC, State.core_setCore_ne _ _ (not_and_or.mp h)]

theorem State.watched_modCoreC (s : State) (p : PartId) (c : CoreId) (f : CoreFixed → CoreFixed) (p' : PartId) (c' : CoreId) :
    (s.modCoreC p c f).watched p' c' = s.watched p' c' := by rw [State.watched, State.core_modCoreC_w]; rfl

/-- A change of a core's world that keeps its binding to a taster. -/
theorem State.watched_modCoreW_of (s : State) (p : PartId) (c : CoreId) (f : CoreWorld → CoreWorld)
    (h : (f (s.core p c).w).tbind = (s.core p c).w.tbind) (p' : PartId) (c' : CoreId) :
    (s.modCoreW p c f).watched p' c' = s.watched p' c' := by
  by_cases hc : p' = p ∧ c' = c
  · obtain ⟨rfl, rfl⟩ := hc
    rw [State.watched, State.core_modCoreW, h]; rfl
  · rw [State.watched, State.modCoreW, State.core_setCore_ne _ _ (not_and_or.mp hc)]; rfl

theorem State.hwSet_watched (s : State) (p : PartId) (c : CoreId) (x : SysReg) (b : Nat) (p' : PartId) (c' : CoreId) :
    (s.hwSet p c x b).watched p' c' = s.watched p' c' := rfl

theorem State.mtsSet_watched (s : State) (p : PartId) (c : CoreId) (x : SysReg) (v : Word) (p' : PartId) (c' : CoreId) :
    (s.mtsSet p c x v).watched p' c' = s.watched p' c' := rfl

theorem noteWrap_watched (s : State) (p : PartId) (c : CoreId) (i : Fin 4) (p' : PartId) (c' : CoreId) :
    (noteWrap s p c i).watched p' c' = s.watched p' c' := by
  unfold noteWrap
  dsimp only
  split
  · rw [State.watched_modCoreC, State.hwSet_watched, State.watched_modCoreW_of _ _ _ _ rfl]
  · rw [State.hwSet_watched, State.watched_modCoreW_of _ _ _ _ rfl]

theorem countReg_watched (s : State) (p : PartId) (c : CoreId) (n : Nat) (i : Fin 4) (p' : PartId) (c' : CoreId) :
    (countReg s p c n i).watched p' c' = s.watched p' c' := by
  unfold countReg
  split <;> dsimp only <;> split
  · rw [noteWrap_watched, State.mtsSet_watched]
  · rw [State.mtsSet_watched]
  · rw [noteWrap_watched, State.watched_modCoreW_of _ _ _ _ rfl]
  · rw [State.watched_modCoreW_of _ _ _ _ rfl]

theorem State.count_watched (s : State) (p : PartId) (c : CoreId) (code : Nat) (sl : Option SlotId) (n : Nat) (p' : PartId) (c' : CoreId) :
    (s.count p c code sl n).watched p' c' = s.watched p' c' := by
  unfold State.count
  split
  · generalize List.filter _ _ = l
    rename_i h; clear h
    induction l generalizing s with
    | nil => rfl
    | cons i l ih => rw [List.foldl_cons, ih, countReg_watched]
  · rfl

theorem State.traceCond_watched (s : State) (p : PartId) (c : CoreId) (n : Nat) (p' : PartId) (c' : CoreId) :
    (s.traceCond p c n).watched p' c' = s.watched p' c' := by
  simp only [State.traceCond]
  split
  · exact State.watched_modCoreC ..
  · rfl

theorem State.traceSlotCond_watched (s : State) (r : TRef) (n : Nat) (p' : PartId) (c' : CoreId) :
    (s.traceSlotCond r n).watched p' c' = s.watched p' c' := by
  unfold State.traceSlotCond
  split
  · exact State.traceCond_watched ..
  · rfl

theorem State.traceRec_watched (s : State) (r : TRef) (k : Nat) (pc : Word) (corr : BitVec 32) (p' : PartId) (c' : CoreId) :
    (s.traceRec r k pc corr).watched p' c' = s.watched p' c' := by
  simp only [State.traceRec]
  split
  · exact State.watched_modCoreC ..
  · rfl

theorem faultEvents_watched (s : State) (r : TRef) (t : Thread) (p' : PartId) (c' : CoreId) :
    (faultEvents s r t).watched p' c' = s.watched p' c' := by
  rw [faultEvents, State.traceRec_watched, State.traceSlotCond_watched, State.count_watched]

/-! ## Entry to a handler -/

/-- The state in which a trap is taken: its events counted and traced (R412, R416, R418). -/
def trapNoted (s : State) (r : TRef) (t : Thread) (k : Cause) : State :=
  match k with
  | .trap n =>
    if field ((faultEvents s r t).core r.part r.core).w.trctrg 16 10 == n.toNat then (faultEvents s r t).traceCond r.part r.core 6
    else faultEvents s r t
  | _ => faultEvents s r t

theorem same_trapNoted (s : State) (r : TRef) (t : Thread) (k : Cause) : SameOutside s (trapNoted s r t k) := by
  have h := same_faultEvents s r t
  unfold trapNoted
  split
  · split
    · exact h.trans (same_traceCond _ _ _ _)
    · exact h
  · exact h

theorem trapNoted_watched (s : State) (r : TRef) (t : Thread) (k : Cause) (p : PartId) (c : CoreId) :
    (trapNoted s r t k).watched p c = s.watched p c := by
  unfold trapNoted
  split
  · split
    · rw [State.traceCond_watched, faultEvents_watched]
    · exact faultEvents_watched ..
  · exact faultEvents_watched ..

/-- The address after the bundle that a trap returns to (R311, R348). -/
def trapReturn (k : Cause) (pc : Word) : Word :=
  match k with
  | .trap _ => nextPc pc 4
  | _ => pc

/-- What a trap leaves of a thread beside its handler registers. -/
def trapCleared (t : Thread) : Thread :=
  { t with latch := none, wait := none, pend := none, prepared := none, mark := none, barGen := none, migrate := none }

/-- The handler of a context is usable, and the thread is not already in it (R311). -/
def handlerUsable (s : State) (r : TRef) (t : Thread) : Prop :=
  t.ecause.getLsbD 63 = false ∧ ctxWord s r.part t.ctx 8 ≠ 0 ∧ canonical (ctxWord s r.part t.ctx 8) = true ∧
    (ctxWord s r.part t.ctx 8).toNat % 4 = 0

theorem handlerUsable_iff (s : State) (r : TRef) (t : Thread) :
    (t.active || ctxWord s r.part t.ctx 8 = 0 || !canonical (ctxWord s r.part t.ctx 8) || (ctxWord s r.part t.ctx 8).toNat % 4 != 0) = false
      ↔ handlerUsable s r t := by
  simp only [handlerUsable, Bool.or_eq_false_iff, decide_eq_false_iff_not, Bool.not_eq_false', bne_eq_false_iff_eq, and_assoc]
  exact Iff.rfl

theorem takeTrap_eq {s : State} {r : TRef} {t : Thread} (ht : s.thread r = some t) (k : Cause) (eaddr : Option Word) :
    takeTrap s r k eaddr =
      if t.active || ctxWord s r.part t.ctx 8 = 0 || !canonical (ctxWord s r.part t.ctx 8) || (ctxWord s r.part t.ctx 8).toNat % 4 != 0 then
        postRecord ((trapNoted s r t k).setThread r { trapCleared t with parked := true }) r.part
          (TrapRec.ofThread r t 0x030 1 t.pc (eaddr.getD t.pc))
      else
        logMark ((trapNoted s r t k).setThread r { trapCleared t with
          epc := trapReturn k t.pc, eaddr := eaddr.getD t.pc, ecause := word (2 ^ 63 + k.code), pc := ctxWord s r.part t.ctx 8,
          readyAt := Nat.max t.readyAt ((trapNoted s r t k).cycle + 1) }) r 7 (some (word k.code)) := by
  unfold takeTrap
  rw [ht]
  rfl

theorem takeTrap_enters {s : State} {r : TRef} {t : Thread} (ht : s.thread r = some t) (hw : s.watched r.part r.core = false)
    (hu : handlerUsable s r t) (k : Cause) (eaddr : Option Word) :
    takeTrap s r k eaddr = (trapNoted s r t k).setThread r { trapCleared t with
      epc := trapReturn k t.pc, eaddr := eaddr.getD t.pc, ecause := word (2 ^ 63 + k.code), pc := ctxWord s r.part t.ctx 8,
      readyAt := Nat.max t.readyAt (s.cycle + 1) } := by
  rw [takeTrap_eq ht, (handlerUsable_iff s r t).mpr hu, if_neg Bool.false_ne_true, (same_trapNoted s r t k).cycle,
    logMark_unwatched _ _ _ _ (by rw [State.watched_setThread, trapNoted_watched, hw])]

theorem takeTrap_parks {s : State} {r : TRef} {t : Thread} (ht : s.thread r = some t) (hu : ¬ handlerUsable s r t) (k : Cause)
    (eaddr : Option Word) :
    takeTrap s r k eaddr = postRecord ((trapNoted s r t k).setThread r { trapCleared t with parked := true }) r.part
      (TrapRec.ofThread r t 0x030 1 t.pc (eaddr.getD t.pc)) := by
  rw [takeTrap_eq ht, if_pos (Bool.of_not_eq_false (mt (handlerUsable_iff s r t).mp hu))]

end Sys2Proof.Machine

open Sys2Proof Sys2Proof.Machine

/-- Settles O19: a commit at once and one that waits for its reply, by the laws of `commitAt` and `commitIn`. -/
theorem commitEffect : Obligations.CommitEffect := by
  intro s s' t srcs c ht hp hc
  obtain rfl : s' = commitIn s s.cur (s.cycle + c.lat) { c with clears := c.clears ++ syncRegs srcs } := Host.Outcome.next.inj hc
  refine ⟨fun hl => ?_, fun hl hf => commitIn_later s t srcs c ht hp hf hl⟩
  rw [show s.cycle + c.lat = s.cycle by rw [hl, Nat.add_zero], commitIn_now]
  exact ⟨_, commitAt_thread _ _ ht hp, commitThread_after s t srcs c, fun hw hf =>
    (commitAt_plain s s.cur.at_ t s.cur.size s.cur.words { c with clears := c.clears ++ syncRegs srcs } ht hp hf).2 hw⟩

/-- Settles O21: with a usable handler the last change is the thread's own, and without one the record follows it. -/
theorem trapEntry : Obligations.TrapEntry := by
  intro s t k eaddr ht hw r h usable ea
  have hea : eaddr.getD t.pc = ea := by cases eaddr <;> rfl
  have hmem : (trapNoted s r t k).mem = s.mem := (same_trapNoted s r t k).mem
  refine ⟨fun hu => ?_, fun hu => ?_⟩
  · rw [takeTrap_enters ht hw hu]
    exact ⟨_, State.thread_setThread .., rfl, hea, rfl, by cases k <;> rfl, rfl, rfl, rfl, rfl, rfl, rfl, rfl, rfl, rfl, hmem⟩
  · rw [takeTrap_parks ht hu, hea]
    exact ⟨_, _, rfl, State.thread_setThread .., rfl, rfl, rfl, rfl, rfl, hmem⟩
end

section
/-! SUPPORT. The threads that counters and records leave as they were, the strainer's checks (07 R113), and pairs (01 R18, 03 R49). -/
namespace Sys2Proof.Machine

/-! ## Threads under counters, records and changes of every thread -/

theorem State.hwSet_thread (s : State) (p : PartId) (c : CoreId) (x : SysReg) (b : Nat) (r : TRef) :
    (s.hwSet p c x b).thread r = s.thread r := rfl

theorem noteWrap_thread (s : State) (p : PartId) (c : CoreId) (i : Fin 4) (r : TRef) : (noteWrap s p c i).thread r = s.thread r := by
  unfold noteWrap
  dsimp only
  split
  · rw [State.thread_modCoreC, State.hwSet_thread, State.thread_modCoreW_of _ _ _ _ rfl]
  · rw [State.hwSet_thread, State.thread_modCoreW_of _ _ _ _ rfl]

theorem countReg_thread (s : State) (p : PartId) (c : CoreId) (n : Nat) (i : Fin 4) (r : TRef) :
    (countReg s p c n i).thread r = s.thread r := by
  unfold countReg
  split <;> dsimp only <;> split
  · exact noteWrap_thread ..
  · rfl
  · rw [noteWrap_thread, State.thread_modCoreW_of _ _ _ _ rfl]
  · rw [State.thread_modCoreW_of _ _ _ _ rfl]

@[simp] theorem State.count_thread (s : State) (p : PartId) (c : CoreId) (code : Nat) (sl : Option SlotId) (n : Nat) (r : TRef) :
    (s.count p c code sl n).thread r = s.thread r := by
  unfold State.count
  split
  · generalize List.filter _ _ = l
    rename_i h; clear h
    induction l generalizing s with
    | nil => rfl
    | cons i l ih => rw [List.foldl_cons, ih, countReg_thread]
  · rfl

@[simp] theorem State.traceCond_thread (s : State) (p : PartId) (c : CoreId) (n : Nat) (r : TRef) :
    (s.traceCond p c n).thread r = s.thread r := by
  simp only [State.traceCond]
  split
  · exact State.thread_modCoreC ..
  · rfl

theorem kget_kmapVals {α : Type} (f : Nat → α → α) (m : KMap α) (k : Nat) : kget (kmapVals f m) k = (kget m k).map (f k) := by
  induction m with
  | nil => rfl
  | cons e m ih =>
    obtain ⟨i, a⟩ := e
    change (if i = k then some (f i a) else kget (kmapVals f m) k) = (if i = k then some a else kget m k).map (f k)
    split
    · next h => rw [h]; rfl
    · exact ih

/-- The thread of a slot. -/
def Slot.thread? : Slot → Option Thread
  | .thread t => some t
  | _ => none

theorem State.thread_eq (s : State) (r : TRef) : s.thread r = (s.slot r).bind Slot.thread? := by
  unfold State.thread
  split
  · next h => rw [h]; rfl
  · next h =>
    cases hs : s.slot r with
    | none => rfl
    | some x =>
      cases x with
      | thread t => exact absurd hs (h t)
      | reserved _ => rfl
      | scrub _ => rfl
      | freed => rfl

theorem mapSlot_thread (f : Thread → Thread) (x : Slot) : (mapSlot f x).thread? = x.thread?.map f := by cases x <;> rfl

theorem mapSlot_thread_proj {α : Type} (π : Thread → α) (f : Thread → Thread) (h : ∀ t, π (f t) = π t) (x : Option Slot) :
    ((x.map (mapSlot f)).bind Slot.thread?).map π = (x.bind Slot.thread?).map π := by
  cases x with
  | none => rfl
  | some x =>
    change (mapSlot f x).thread?.map π = x.thread?.map π
    rw [mapSlot_thread]
    cases x.thread? with
    | none => rfl
    | some t => exact congrArg some (h t)

/-- What `f` keeps of a thread, it keeps where every thread of a partition is changed. -/
theorem State.thread_modThreads_proj {α : Type} (π : Thread → α) (f : Thread → Thread) (h : ∀ t, π (f t) = π t) (s : State) (p : PartId)
    (r : TRef) : ((s.modThreads p f).thread r).map π = (s.thread r).map π := by
  unfold State.modThreads
  generalize (s.part p).coreIds = l
  induction l generalizing s with
  | nil => rfl
  | cons c l ih =>
    rw [List.foldl_cons, ih]
    by_cases hr : r.part = p ∧ r.core = c
    · obtain ⟨rfl, rfl⟩ := hr
      rw [State.thread_eq, State.thread_eq, State.slot, State.core_modCoreW]
      dsimp only
      rw [kget_kmapVals]
      exact mapSlot_thread_proj π f h _
    · rw [State.thread_eq, State.slot, State.modCoreW, State.core_setCore_ne _ _ (not_and_or.mp hr), ← State.slot, ← State.thread_eq]

/-- A change of a partition that leaves its cores leaves every thread. -/
theorem State.thread_modPart_of (s : State) (p : PartId) (f : Partition → Partition)
    (h : ∀ c, (f (s.part p)).core c = (s.part p).core c) (r : TRef) : (s.modPart p f).thread r = s.thread r := by
  have hc : (s.modPart p f).core r.part r.core = s.core r.part r.core := by
    by_cases hp : r.part = p
    · rw [State.core, hp, State.part_modPart, h]; rfl
    · rw [State.core, State.part_modPart_ne _ _ hp]; rfl
  rw [State.thread, State.slot, hc]; rfl

theorem enqueueRecord_thread (s : State) (p : PartId) (x : TrapRec) (r : TRef) : (enqueueRecord s p x).thread r = s.thread r :=
  State.thread_modPart_of s p _ (fun _ => rfl) r

/-- A record that starts a dump parks threads, and changes nothing else of any. -/
theorem dumpStart_thread_proj {α : Type} (π : Thread → α) (h : ∀ t : Thread, π { t with parked := true } = π t) (s : State) (p : PartId)
    (x : TrapRec) (r : TRef) : ((dumpStart s p x).thread r).map π = (s.thread r).map π := by
  have hm : ((s.modThreads p (fun t => if t.ctx = x.ctx then { t with parked := true } else t)).thread r).map π = (s.thread r).map π :=
    State.thread_modThreads_proj π _ (fun t => by split; exacts [h t, rfl]) s p r
  simp only [dumpStart]
  split
  · split
    · rw [State.thread_modPart_of _ _ _ (fun _ => rfl), hm]
    · split
      · split
        · rw [State.thread_congr (State.push_parts _ _), State.thread_modPart_of _ _ _ (fun _ => rfl), hm]
        · rw [State.thread_modPart_of _ _ _ (fun _ => rfl), hm]
      · rw [enqueueRecord_thread, hm]
  · rfl

theorem postRecord_thread_proj {α : Type} (π : Thread → α) (h : ∀ t : Thread, π { t with parked := true } = π t) (s : State) (p : PartId)
    (x : TrapRec) (r : TRef) : ((postRecord s p x).thread r).map π = (s.thread r).map π := by
  rw [postRecord, dumpStart_thread_proj π h, enqueueRecord_thread]

/-! ## BLK (R113) -/

/-- BLK sets G, D and C of its thread, and C accumulates from then on. -/
def blockSet (r : TRef) (pc : Word) (dig : BitVec 12) (s : State) : State :=
  s.modThread r (fun u => { u with strain := { g := blockSig pc, d := dig, c := 0, skip := false, on := true, parked := false } })

/-- A check of R113 fails at a BLK. -/
def blockBad (t : Thread) (sig : BitVec 12) : Bool := sigMismatch t.strain t.pc sig || digestMismatch t.strain

theorem blockBad_iff (t : Thread) (sig : BitVec 12) : blockBad t sig = true ↔
    (sig ≠ 0 ∧ (t.strain.g ^^^ sig) ≠ blockSig t.pc) ∨ (t.strain.d ≠ 0 ∧ t.strain.c ≠ t.strain.d) := by
  simp [blockBad, sigMismatch, digestMismatch]

/-- The thread's own pc is the one that G is set from. -/
theorem blockSet_own {s : State} {r : TRef} {pc : Word} (h : (s.thread r).map (fun t => t.pc) = some pc) (dig : BitVec 12) :
    s.modThread r (fun u => { u with strain := { g := blockSig u.pc, d := dig, c := 0, skip := false, on := true, parked := false } }) =
      blockSet r pc dig s := by
  unfold blockSet State.modThread
  split
  · next t ht =>
    rw [ht] at h
    obtain rfl : t.pc = pc := Option.some.inj h
    rfl
  · rfl

end Sys2Proof.Machine

open Sys2Proof Sys2Proof.Machine

/-- Settles O18: the two conditions of `execBlk`, that the checks are on and that one fails, give its four outcomes. -/
theorem blockResults : Obligations.BlockResults := by
  intro s t sig dig h r ctl x checks counted failed sum bad set
  have hb : blockBad t sig = true ↔ bad := blockBad_iff t sig
  have hc : (bit ctl 0 && !x.skip) = true ↔ checks := by simp [checks, bit]
  have hset (u : State) (hu : (u.thread r).map (fun t => t.pc) = (s.thread r).map (fun t => t.pc)) :
      Res.done Commit.none (u.modThread r (fun t => { t with
        strain := { g := blockSig t.pc, d := dig, c := 0, skip := false, on := true, parked := false } })) = .done Commit.none (set u) :=
    congrArg _ (blockSet_own (by rw [hu, h.1]; rfl) dig)
  have hcount : (counted.thread r).map (fun t => t.pc) = (s.thread r).map (fun t => t.pc) := by rw [State.count_thread]
  have hpost : ((postRecord failed r.part (strainRecord r t sig)).thread r).map (fun t => t.pc) = (s.thread r).map (fun t => t.pc) := by
    rw [postRecord_thread_proj _ (fun _ => rfl), State.traceCond_thread, hcount]
  have he : exec (.blk sig dig) s = execBlk sig dig s := rfl
  rw [he, execBlk]
  refine ⟨fun hn => ?_, fun hy hn => ?_, fun hy hn h1 => ?_, fun hy hn h1 => ?_⟩
  · have hoff : (bit ctl 0 && !x.skip) = false := Bool.eq_false_iff.mpr (mt hc.mp hn)
    refine runWord_commits h ?_
    simp only [r, ctl, x] at hoff
    simp only [hoff, Bool.false_and, Bool.false_eq_true, if_false]
    exact hset s rfl
  · have hon := hc.mpr hy
    have hgood : blockBad t sig = false := Bool.eq_false_iff.mpr (mt hb.mp hn)
    refine runWord_commits h ?_
    simp only [r, ctl, x] at hon
    simp only [blockBad] at hgood
    simp only [hon, hgood, Bool.and_false, Bool.false_eq_true, if_false, if_true]
    exact hset counted hcount
  · have hon := hc.mpr hy
    refine runWord_commits h ?_
    have hbad := hb.mpr hn
    simp only [r, ctl, x] at hon
    simp only [blockBad] at hbad
    simp only [hon, hbad, Bool.and_true, if_true]
    rw [if_pos (show bit _ 1 = true from h1)]
    exact hset _ hpost
  · have hon := hc.mpr hy
    have hbad := hb.mpr hn
    simp only [r, ctl, x] at hon
    simp only [blockBad] at hbad
    rw [runWord_ready h]
    simp only [hon, hbad, Bool.and_true, if_true]
    rw [if_neg (by rw [bit]; exact Bool.eq_false_iff.mp h1)]
    rfl
end

section
/-! SUPPORT. What plain loads come to (07 R115), and pairs (01 R18, 03 R49): the arithmetic word's commit held while the control word
runs. -/
namespace Sys2Proof.Machine

/-! ## Plain loads -/

/-- The commit of a load of the value v from x. -/
def loadCommit (ty : LdType) (d : Reg) (ea : Word) (x : At) (v : Word) : Commit :=
  { Commit.none with regs := [(d, v)], log := .addr ea :: stampItems x ++ [.load d (sizeCode ty.bytes) v], lat := x.lat }

/-- A load whose read finds its bytes commits their value. -/
theorem loadWord_reads {s s2 : State} {t : Thread} {ty : LdType} {ea : Word} {x : At} (h : Reads s t ea ty.bytes true x s2) (d : Reg) :
    loadWord ty d ea s.cur.at_ t s = .done (loadCommit ty d ea x (ty.extend (memRead s2.mem x.key ty.bytes))) s2 := by
  obtain ⟨pl, s1, hc, hp⟩ := h
  unfold loadWord
  rw [hc]
  cases pl with
  | remote => cases hp
  | window key lat => dsimp only; rw [hp]; rfl
  | mem l => dsimp only; rw [hp]; rfl

/-! ## Words whose sources are full -/

theorem runWord_full {s : State} {t : Thread} {srcs : List Src} (ht : s.thread s.cur.at_ = some t) (he : emptyRegs t (syncRegs srcs) = [])
    (f : TRef → Thread → State → Res) :
    runWord srcs f s = .next (settle s.cur ((f s.cur.at_ t s).clearing (syncRegs srcs))) := by
  simp only [runWord, ht, he, List.isEmpty_nil, if_true]

/-! ## Pairs -/

/-- The bundle of a pair while its arithmetic word runs. -/
def pairCur (r : TRef) (ws : List (BitVec 32)) : Cur := { at_ := r, size := 8, words := ws, phase := .second, hold := Commit.none }

/-- The state in which the control word of a pair runs: what the arithmetic word commits is held. -/
def pairHeld (s : State) (r : TRef) (ws : List (BitVec 32)) (hold : Commit) : State :=
  { s with cur := { pairCur r ws with phase := .held, hold := hold } }

/-- The cycle of the held word's own reply, in the state that the control word leaves. -/
def heldUntil (s : State) (r : TRef) (lat : Nat) : Nat := if lat = 0 then 0 else ((s.thread r).map (fun t => t.issuedIn)).getD 0 + lat

theorem runBundle_pair (s : State) (r : TRef) (ws : List (BitVec 32)) (c i : Instr) :
    runBundle (.pair c i) r ws s = match exec i { s with cur := pairCur r ws } with
      | .next s' => if s'.cur.phase = Phase.held then exec c s' else .next s'
      | o => o := rfl

section
variable {s : State} {r : TRef} {t : Thread} {ws : List (BitVec 32)} {i : Instr}

theorem runBundle_pair_held {hold : Commit} (h : exec i { s with cur := pairCur r ws } = .next (pairHeld s r ws hold)) (c : Instr) :
    runBundle (.pair c i) r ws s = exec c (pairHeld s r ws hold) := by
  rw [runBundle_pair, h]; rfl

theorem runBundle_pair_over {s' : State} (h : exec i { s with cur := pairCur r ws } = .next s') (hc : s'.cur.phase ≠ Phase.held) (c : Instr) :
    runBundle (.pair c i) r ws s = .next s' := by
  rw [runBundle_pair, h]; exact if_neg hc

variable {srcs : List Src} {g : TRef → Thread → State → Res}

/-- The arithmetic word comes to its commit: it is held. -/
theorem runBundle_arith_done {am : Commit} (hi : exec i { s with cur := pairCur r ws } = runWord srcs g { s with cur := pairCur r ws })
    (ht : s.thread r = some t) (he : emptyRegs t (syncRegs srcs) = [])
    (hg : g r t { s with cur := pairCur r ws } = .done am { s with cur := pairCur r ws }) (c : Instr) :
    runBundle (.pair c i) r ws s = exec c (pairHeld s r ws { am with clears := am.clears ++ syncRegs srcs }) := by
  refine runBundle_pair_held ?_ c
  rw [hi, runWord_full (s := { s with cur := pairCur r ws }) (t := t) ht he g]
  change Host.Outcome.next (settle (pairCur r ws) ((g r t { s with cur := pairCur r ws }).clearing _)) = _
  rw [hg]
  rfl

/-- The arithmetic word faults: the pair has no other effect. -/
theorem runBundle_arith_trap {k : Cause} {ea : Option Word}
    (hi : exec i { s with cur := pairCur r ws } = runWord srcs g { s with cur := pairCur r ws }) (ht : s.thread r = some t)
    (he : emptyRegs t (syncRegs srcs) = []) (hg : g r t { s with cur := pairCur r ws } = .trap k ea { s with cur := pairCur r ws })
    (c : Instr) : runBundle (.pair c i) r ws s = .next (takeTrap { s with cur := pairCur r ws } r k ea) := by
  refine runBundle_pair_over ?_ (by rw [takeTrap_cur]; exact Phase.noConfusion) c
  rw [hi, runWord_full (s := { s with cur := pairCur r ws }) (t := t) ht he g]
  change Host.Outcome.next (settle (pairCur r ws) ((g r t { s with cur := pairCur r ws }).clearing _)) = _
  rw [hg]
  rfl

/-- The control word, with what is held beside it. -/
theorem exec_control {c : Instr} {hold : Commit} (hc : exec c (pairHeld s r ws hold) = runWord srcs g (pairHeld s r ws hold))
    (ht : s.thread r = some t) (he : emptyRegs t (syncRegs srcs) = []) :
    exec c (pairHeld s r ws hold) =
      .next (settle (pairHeld s r ws hold).cur ((g r t (pairHeld s r ws hold)).clearing (syncRegs srcs))) := by
  rw [hc, runWord_full (s := pairHeld s r ws hold) (t := t) ht he g]
  rfl

theorem holdUntil_held (s2 : State) (hold : Commit) : holdUntil s2 (pairHeld s r ws hold).cur = heldUntil s2 r hold.lat := by
  simp [holdUntil, pairHeld, heldUntil, pairCur]

theorem settle_held_done (s2 : State) (hold cm : Commit) : settle (pairHeld s r ws hold).cur (.done cm s2) =
    commitIn s2 (pairHeld s r ws hold).cur (Nat.max (s2.cycle + cm.lat) (heldUntil s2 r hold.lat)) (cm.merge hold) := by
  rw [← holdUntil_held (s := s) (ws := ws)]; rfl

theorem settle_held_pend (s2 : State) (hold : Commit) (q : Pend) : settle (pairHeld s r ws hold).cur (.pend q s2) =
    pendThread s2 (pairHeld s r ws hold).cur
      { q with commit := q.commit.merge hold, notBefore := heldUntil s2 r hold.lat } := by
  rw [← holdUntil_held (s := s) (ws := ws)]; rfl

end

end Sys2Proof.Machine

open Sys2Proof Sys2Proof.Machine

/-- Settles O20: the arithmetic word's settlement holds its commit or ends the bundle, and the control word's merges the two. -/
theorem pairCommit : Obligations.PairCommit := by
  intro s t r ws d e a b x off c i csrcs asrcs f g am ht u s1 hold held sum until_ run
  have hadd (he : emptyRegs t (syncRegs [a, b]) = []) (c : Instr) : runBundle (.pair c (.add e a b)) r ws s = exec c (held sum) :=
    runBundle_arith_done (g := fun _ t s => .done (Commit.reg e (t.rd a + t.rd b)) s) rfl ht he rfl c
  refine ⟨fun hi hia => ⟨fun k ea hg => runBundle_arith_trap hi ht hia hg c, fun hg => ?_⟩, fun he => hadd he c, ?_, ?_⟩
  · have hrun : run = exec c (held hold) := runBundle_arith_done hi ht hia hg c
    refine ⟨hrun, fun hc hce => ?_⟩
    have hex : exec c (held hold) = .next (settle (held hold).cur ((f r t (held hold)).clearing (syncRegs csrcs))) :=
      exec_control hc ht hce
    rw [hrun, hex]
    refine ⟨fun cm s2 hf => ?_, fun q s2 hf => ?_, fun k ea s2 hf => ?_, fun q s2 hf => ?_, fun w s2 hf => ?_⟩
    · rw [hf]
      exact congrArg _ (settle_held_done ..)
    · rw [hf]
      exact congrArg _ (settle_held_pend ..)
    · rw [hf]; rfl
    · rw [hf]; rfl
    · rw [hf]; rfl
  · intro at1 s2 he hx hr
    rw [hadd he]
    have hex := exec_control (s := s) (r := r) (ws := ws) (hold := sum) (srcs := [x]) (c := .ldS64 d x off)
      (g := fun r t s => loadWord .s64 d (eaOffset t x off) r t s) rfl ht hx
    refine hex.trans ?_
    have hl := loadWord_reads (ty := .s64) hr d
    change loadWord .s64 d (eaOffset t x off) r t (pairHeld s r ws sum) = _ at hl
    rw [hl]
    refine congrArg _ ((settle_held_done ..).trans ?_)
    rw [show heldUntil s2 r sum.lat = 0 from rfl, show ∀ n, Nat.max n 0 = n from Nat.max_zero]
    rfl
  · intro ha hn
    refine runBundle_arith_trap (g := fun _ t s =>
      if (CType.f32 == .nf || CType.nf == .nf) && (nfOf t.fa).isNone then .trap .format none s
      else .done (fpCommit d (cvtResult (nfOf t.fa) .f32 (cvtSource (nfOf t.fa) .nf (t.rd a).toNat))) s) rfl ht ha ?_ c
    rw [hn]
    rfl
end

section
/-! SUPPORT. The partitions after reset (30 R427). -/
namespace Sys2Proof.Machine

theorem reset_part (p : PartId) : State.reset.part p = Partition.reset p := by fin_cases p <;> rfl

theorem reset_core (p : PartId) (c : CoreId) : State.reset.core p c = Core.reset := by rw [State.core, reset_part]; rfl

theorem reset_cluster (p : PartId) (k : ClusterId) : State.reset.cluster p k = Cluster.reset := by rw [State.cluster, reset_part]; rfl

theorem reset_tqtail (n : Nat) : tqtailWord (Partition.reset n) = 0 := by simp [tqtailWord, Partition.reset, TrapQ.reset, word]

theorem reset_tstamp : State.reset.tstamp = 0 := Nat.zero_div _

end Sys2Proof.Machine

open Sys2Proof Sys2Proof.Machine

/-- Settles O4: the decoder computes each of the words. -/
theorem decodeWords : Obligations.DecodeWords := by
  refine ⟨by decide +kernel, fun w hw => ?_⟩
  fin_cases hw
  all_goals exact ⟨_, rfl⟩

/-- Settles O5: every partition, core and cluster after reset is the one of the Reset columns. -/
theorem resetState : Obligations.ResetState := by
  unfold Obligations.ResetState
  refine ⟨reset_mem_wf, rfl, rfl, rfl, fun k => ⟨rfl, rfl⟩, fun r => ?_, fun p c k i => ?_, fun p c e he => ?_⟩
  · rw [State.thread, State.slot, reset_core]; rfl
  · simp only [State.acc, reset_part, reset_core, reset_cluster]
    exact ⟨rfl, rfl, rfl, rfl, rfl, rfl, rfl⟩
  · fin_cases he
    all_goals simp only [readIdran, ownReg, reset_part, reset_core, reset_tstamp, reset_tqtail] <;> rfl
end

section
/-! SUPPORT. The checks of an access (07 R118), and what plain loads and stores come to (07 R115). -/
namespace Sys2Proof.Machine

/-! ## Regions -/

theorem canonical_of_top {a : Word} (h : a.toNat / 2 ^ 56 = 0xFF) : canonical a = true := by
  have ht : a.extractLsb' 56 8 = 0xFF := by
    apply BitVec.eq_of_toNat_eq
    rw [BitVec.extractLsb'_toNat, Nat.shiftRight_eq_div_pow, h]; rfl
  rw [canonical, ht]; rfl

theorem canonical_of_remote {a : Word} (h : inRemoteRegion a = true) : canonical a = true := by
  have h1 : a.toNat / 2 ^ 52 = 0xFFE := beq_iff_eq.mp h
  exact canonical_of_top (by omega)

theorem canonical_of_window {a : Word} (h : inWindowRegion a = true) : canonical a = true := by
  have h1 : a.toNat / 2 ^ 40 = 0xFF0000 := beq_iff_eq.mp h
  exact canonical_of_top (by omega)

theorem remote_of_window {a : Word} (h : inWindowRegion a = true) : inRemoteRegion a = false := by
  have h1 : a.toNat / 2 ^ 40 = 0xFF0000 := beq_iff_eq.mp h
  exact beq_eq_false_iff_ne.mpr (by omega)

theorem window_of_remote {a : Word} (h : inRemoteRegion a = true) : inWindowRegion a = false := by
  have h1 : a.toNat / 2 ^ 52 = 0xFFE := beq_iff_eq.mp h
  exact beq_eq_false_iff_ne.mpr (by omega)

/-! ## The checks, in their order -/

section
variable {s : State} {r : TRef} {t : Thread} {need : BitVec 4} {ea : Word} {n : Nat} {afar : Bool}

theorem checkAccess_form (h : canonical ea = false) :
    checkAccess s r t need ea n afar = .error (.trap .address (some ea) s) := by
  rw [checkAccess, h]; rfl

theorem checkAccess_refused (h : inRemoteRegion ea = true) :
    checkAccess s r t need ea n false = .error (.trap .address (some ea) s) := by
  rw [checkAccess, canonical_of_remote h, h]; rfl

theorem checkAccess_misaligned (hc : canonical ea = true) (hr : inRemoteRegion ea = true → afar = true) (hn : ea.toNat % n ≠ 0) :
    checkAccess s r t need ea n afar = .error (.trap .misaligned (some ea) s) := by
  have h2 : (inRemoteRegion ea && !afar) = false := by
    cases hx : inRemoteRegion ea with
    | false => rfl
    | true => rw [hr hx]; rfl
  rw [checkAccess, hc, h2, if_neg (by decide), if_neg (by decide), if_pos (by simpa using hn)]

theorem checkAccess_remote (hr : inRemoteRegion ea = true) (hn : ea.toNat % n = 0) :
    checkAccess s r t need ea n true = .ok (.remote, s) := by
  simp only [checkAccess, canonical_of_remote hr, hr, hn, Bool.not_true, Bool.and_false, bne_self_eq_false, Bool.false_eq_true, if_false,
    if_true]

theorem checkAccess_window {k : Nat × Nat} (hw : inWindowRegion ea = true) (hn : ea.toNat % n = 0)
    (hk : windowKey r.part r.core ea = some k) : checkAccess s r t need ea n afar = .ok (.window k.1 k.2, s) := by
  simp only [checkAccess, canonical_of_window hw, remote_of_window hw, hw, hn, hk, Bool.not_true, Bool.false_and, bne_self_eq_false,
    Bool.false_eq_true, if_false, if_true]

theorem checkAccess_outside (hw : inWindowRegion ea = true) (hn : ea.toNat % n = 0) (hk : windowKey r.part r.core ea = none) :
    checkAccess s r t need ea n afar = .error (.trap .window (some ea) s) := by
  simp only [checkAccess, canonical_of_window hw, remote_of_window hw, hw, hn, hk, Bool.not_true, Bool.false_and, bne_self_eq_false,
    Bool.false_eq_true, if_false, if_true]

theorem checkAccess_denied {x : Res} (hc : canonical ea = true) (hn : ea.toNat % n = 0) (hr : inRemoteRegion ea = false)
    (hw : inWindowRegion ea = false) (hp : protect s r t need ea = .error x) : checkAccess s r t need ea n afar = .error x := by
  simp only [checkAccess, hc, hr, hw, hn, hp, Bool.not_true, Bool.false_and, bne_self_eq_false, Bool.false_eq_true, if_false]

end

/-- What the failing checks of an access at ea do to the word that has outcome o: each fault, and the drop of a page fault (R118). -/
def ChecksStop (s : State) (t : Thread) (o : Out) (ea : Word) (n : Nat) (need : BitVec 4) (afar : Bool) : Prop :=
  (canonical ea = false → Faults s s o .address (some ea)) ∧
  (inRemoteRegion ea = true → afar = false → Faults s s o .address (some ea)) ∧
  (canonical ea = true → (inRemoteRegion ea = true → afar = true) → ea.toNat % n ≠ 0 → Faults s s o .misaligned (some ea)) ∧
  (canonical ea = true → ea.toNat % n = 0 → inWindowRegion ea = true → windowKey s.cur.at_.part s.cur.at_.core ea = none →
    Faults s s o .window (some ea)) ∧
  (canonical ea = true → ea.toNat % n = 0 → inWindowRegion ea = false → inRemoteRegion ea = false →
    (∀ k x s1, protect s s.cur.at_ t need ea = .error (.trap k x s1) → Faults s s1 o k x) ∧
    ∀ q s1, protect s s.cur.at_ t need ea = .error (.drop q s1) → Drops s s1 o q)

/-- A word that comes to the result of its failing checks takes their faults. -/
theorem checks_stop {s : State} {t : Thread} {srcs : List Src} {f : TRef → Thread → State → Res} {ea : Word} {n : Nat} {need : BitVec 4}
    {afar : Bool} (h : Ready s t srcs)
    (hf : ∀ x, checkAccess s s.cur.at_ t need ea n afar = .error x → f s.cur.at_ t s = x) :
    ChecksStop s t (runWord srcs f s) ea n need afar := by
  refine ⟨fun hc => runWord_faults h (hf _ (checkAccess_form hc)), fun hr ha => ?_,
    fun hc hr hn => runWord_faults h (hf _ (checkAccess_misaligned hc hr hn)), fun _ hn hw hk => ?_, fun hc hn hw hr => ⟨?_, ?_⟩⟩
  · subst ha
    exact runWord_faults h (hf _ (checkAccess_refused hr))
  · exact runWord_faults h (hf _ (checkAccess_outside hw hn hk))
  · intro k x s1 hp
    exact runWord_faults h (hf _ (checkAccess_denied hc hn hr hw hp))
  · intro q s1 hp
    exact runWord_drops h (hf _ (checkAccess_denied hc hn hr hw hp))

theorem loadWord_stops {s : State} {r : TRef} {t : Thread} {ty : LdType} {d : Reg} {ea : Word} (x : Res)
    (h : checkAccess s r t needR ea ty.bytes true = .error x) : loadWord ty d ea r t s = x := by rw [loadWord, h]

theorem storeWord_stops {s : State} {r : TRef} {t : Thread} {ty : StType} {d : Reg} {ea : Word} (x : Res)
    (h : checkAccess s r t needW ea ty.bytes true = .error x) : storeWord ty d ea r t s = x := by rw [storeWord, h]

/-- The first lane of a vector form that fails its checks stops the form. -/
theorem checkLanes_stops {s : State} {r : TRef} {t : Thread} {need : BitVec 4} {n : Nat} {y : LaneAt} {l : List LaneAt} {x : Res}
    (h : checkAccess s r t need y.2 n false = .error x) : checkLanes r t need n (y :: l) s = .error x := by rw [checkLanes, h]

theorem activeLanes_cons {t : Thread} {n k : Nat} {mask : Option MReg} {l : List Nat} (ea : Nat → Word)
    (h : (List.range n).filter (laneActive t mask) = k :: l) : activeLanes t n mask ea = (k, ea k) :: l.map (fun i => (i, ea i)) := by
  rw [activeLanes, h]; rfl

theorem vectorLoad_stops {s : State} {r : TRef} {t : Thread} {w n : Nat} {d : VReg} {base : Word} {y : LaneAt} {l : List LaneAt} (x : Res)
    (h : checkAccess s r t needR y.2 (w / 8) false = .error x) : vectorLoad w n d base (y :: l) r t s = x := by
  rw [vectorLoad, checkLanes_stops h]

theorem vectorStore_stops {s : State} {r : TRef} {t : Thread} {w : Nat} {d : VReg} {base : Word} {y : LaneAt} {l : List LaneAt} (x : Res)
    (h : checkAccess s r t needW y.2 (w / 8) false = .error x) : vectorStore w d base (y :: l) r t s = x := by
  rw [vectorStore, checkLanes_stops h]

section
variable {s : State} {t : Thread} {d vb : VReg} {a b : Src} {ty : VType} {mask : Option MReg} {k : Nat} {l : List Nat}

theorem vld_stops {off : BitVec 15} (h : Ready s t [a]) :
    ChecksStop s t (execVld d a off s) (t.rd a + off.signExtend 64) 64 needR false := by
  unfold execVld
  exact checks_stop h fun x hx => by dsimp only; rw [eaOffset, hx]

theorem vst_stops {off : BitVec 15} (h : Ready s t [a]) :
    ChecksStop s t (execVst d a off s) (t.rd a + off.signExtend 64) 64 needW false := by
  unfold execVst
  exact checks_stop h fun x hx => by dsimp only; rw [eaOffset, hx]

theorem vlds_stops (h : Ready s t [a, b]) (hk : (List.range ty.lanes).filter (fun i => laneActive t mask i) = k :: l) :
    ChecksStop s t (execVlds ty mask d a b s) (t.rd a + word k * t.rd b) (ty.width / 8) needR false := by
  unfold execVlds
  refine checks_stop h fun x hx => ?_
  rw [activeLanes_cons _ hk]
  exact vectorLoad_stops x hx

theorem vgath_stops (h : Ready s t [a]) (hk : (List.range ty.lanes).filter (fun i => laneActive t mask i) = k :: l) :
    ChecksStop s t (execVgath ty mask d a vb s) (t.rd a + sextTo ty.width (lane ty.width t.v[vb] k)) (ty.width / 8) needR false := by
  unfold execVgath
  refine checks_stop h fun x hx => ?_
  rw [activeLanes_cons _ hk]
  exact vectorLoad_stops x hx

theorem vscat_stops (h : Ready s t [a]) (hk : (List.range ty.lanes).filter (fun i => laneActive t mask i) = k :: l) :
    ChecksStop s t (execVscat ty mask d a vb s) (t.rd a + sextTo ty.width (lane ty.width t.v[vb] k)) (ty.width / 8) needW false := by
  unfold execVscat
  refine checks_stop h fun x hx => ?_
  rw [activeLanes_cons _ hk]
  exact vectorStore_stops x hx

end

end Sys2Proof.Machine

open Sys2Proof Sys2Proof.Machine

/-- Settles O22: every form comes to what `checkAccess` says of its address, or of its first active lane's. -/
theorem accessFaults : Obligations.AccessFaults := by
  intro s t d vd vb a b off ty mask k faults offset indexed
  have hfaults {i : Instr} {ea : Word} {n : Nat} {need : BitVec 4} {afar : Bool} (h : ChecksStop s t (exec i s) ea n need afar) :
      faults i ea n need afar := by
    obtain ⟨h1, h2, h3, h4, h5⟩ := h
    have hw : ¬ ea.toNat / 2 ^ 40 = 0xFF0000 → inWindowRegion ea = false := fun h => beq_eq_false_iff_ne.mpr h
    have hr : ¬ ea.toNat / 2 ^ 52 = 0xFFE → inRemoteRegion ea = false := fun h => beq_eq_false_iff_ne.mpr h
    exact ⟨h1, fun hx => h2 (beq_iff_eq.mpr hx), fun hc hx hn => h3 hc (fun hy => hx (beq_iff_eq.mp hy)) hn,
      fun hc hn hx => h4 hc hn (beq_iff_eq.mpr hx), fun hc hn hx hy => (h5 hc hn (hw hx) (hr hy)).1,
      fun hc hn hx hy => (h5 hc hn (hw hx) (hr hy)).2⟩
  have hld (ty : LdType) (h : Ready s t [a]) : ChecksStop s t (loadOffset ty d a off s) (t.rd a + off.signExtend 64) ty.bytes needR true :=
    checks_stop (f := fun r t s => loadWord ty d (eaOffset t a off) r t s) h loadWord_stops
  have hst (ty : StType) (h : Ready s t [a]) :
      ChecksStop s t (storeOffset ty d a off s) (t.rd a + off.signExtend 64) ty.bytes needW true :=
    checks_stop (f := fun r t s => storeWord ty d (eaOffset t a off) r t s) h storeWord_stops
  have hldx (ty : LdType) (h : Ready s t [a, b]) :
      ChecksStop s t (execLdx ty d a b s) (t.rd a + t.rd b * word ty.bytes) ty.bytes needR true :=
    checks_stop (f := fun r t s => loadWord ty d (eaIndexed t a b ty.bytes) r t s) h loadWord_stops
  have hstx (ty : StType) (h : Ready s t [a, b]) :
      ChecksStop s t (execStx ty d a b s) (t.rd a + t.rd b * word ty.bytes) ty.bytes needW true :=
    checks_stop (f := fun r t s => storeWord ty d (eaIndexed t a b ty.bytes) r t s) h storeWord_stops
  refine ⟨fun h e he => ?_, fun h e he => ?_, fun hk => ?_⟩
  · dsimp only [offset] at he
    fin_cases he
    · exact hfaults (hld .s8 h)
    · exact hfaults (hld .s16 h)
    · exact hfaults (hld .s32 h)
    · exact hfaults (hld .s64 h)
    · exact hfaults (hld .z8 h)
    · exact hfaults (hld .z16 h)
    · exact hfaults (hld .z32 h)
    · exact hfaults (hst .b8 h)
    · exact hfaults (hst .b16 h)
    · exact hfaults (hst .b32 h)
    · exact hfaults (hst .b64 h)
    · exact hfaults (vld_stops h)
    · exact hfaults (vst_stops h)
  · dsimp only [indexed] at he
    fin_cases he
    · exact hfaults (hldx .s8 h)
    · exact hfaults (hldx .s16 h)
    · exact hfaults (hldx .s32 h)
    · exact hfaults (hldx .s64 h)
    · exact hfaults (hldx .z8 h)
    · exact hfaults (hldx .z16 h)
    · exact hfaults (hldx .z32 h)
    · exact hfaults (hstx .b8 h)
    · exact hfaults (hstx .b16 h)
    · exact hfaults (hstx .b32 h)
    · exact hfaults (hstx .b64 h)
  · obtain ⟨l, hl⟩ := List.head?_eq_some_iff.mp hk
    intro n ix
    exact ⟨fun h => hfaults (vlds_stops h hl), fun h => ⟨hfaults (vgath_stops h hl), hfaults (vscat_stops h hl)⟩⟩
end

section
/-! SUPPORT. What plain loads and stores come to (07 R115), in the partition and in another one's span (25 R370). -/
namespace Sys2Proof.Machine

/-! ## Values of bytes -/

theorem memRead_lt (m : Memory) (k n : Nat) : memRead m k n < 2 ^ (8 * n) := by
  induction n generalizing k with
  | zero => exact Nat.one_pos
  | succ n ih =>
    have hb : (memByte m k).toNat < 2 ^ 8 := (memByte m k).isLt
    have h := ih (k + 1)
    rw [memRead, show 8 * (n + 1) = 8 * n + 8 by omega, Nat.pow_add]
    omega

theorem sextTo_signExt {n v : Nat} (hn : 8 * n ≤ 64) (hv : v < 2 ^ (8 * n)) : sextTo (8 * n) v = signExt n v := sextTo_eq hn hv

theorem word_mod {n v : Nat} (hv : v < 2 ^ n) : word (v % 2 ^ n) = word v := by rw [Nat.mod_eq_of_lt hv]

/-- The value of a load's bytes as the table of R115 gives it. -/
def loadValue : LdType → Nat → Word
  | .s8 => signExt 1
  | .s16 => signExt 2
  | .s32 => signExt 4
  | .s64 | .z8 | .z16 | .z32 => word

theorem extend_eq (ty : LdType) {v : Nat} (hv : v < 2 ^ (8 * ty.bytes)) : ty.extend v = loadValue ty v := by
  cases ty with
  | s8 => exact sextTo_signExt (n := 1) (by decide) hv
  | s16 => exact sextTo_signExt (n := 2) (by decide) hv
  | s32 => exact sextTo_signExt (n := 4) (by decide) hv
  | s64 => rfl
  | z8 => exact word_mod (n := 8) hv
  | z16 => exact word_mod (n := 16) hv
  | z32 => exact word_mod (n := 32) hv

theorem load_commits {s s2 : State} {t : Thread} {srcs : List Src} (h : Ready s t srcs) (e : Thread → Word) {x : At} (ty : LdType) (d : Reg)
    (hr : Reads s t (e t) ty.bytes true x s2) :
    Commits s s2 srcs (runWord srcs (fun r t s => loadWord ty d (e t) r t s) s)
      (loadCommit ty d (e t) x (loadValue ty (memRead s2.mem x.key ty.bytes))) := by
  rw [← extend_eq ty (memRead_lt ..)]
  exact runWord_commits h (loadWord_reads hr d)

/-! ## Bytes written -/

/-- The monitor leaves the state, or notes the slot and makes its record's step due. (The body is unfolded as a function, so that the kernel
never has to evaluate the comparison of keys in `sealSlot`.) -/
theorem sealMonitor_ind {P : State → Prop} (s : State) (p : PartId) (key : Nat) (h0 : P s)
    (h1 : ∀ n, P ((s.modPart p (fun q => { q with sealing := q.sealing ++ [n] })).push (.launchRecord p n))) :
    P (sealMonitor s p key) := by
  have h (F : State → PartId → Nat → State) (hF : F = sealMonitor) : P (F s p key) := by
    delta sealMonitor at hF
    rw [hF]
    beta_reduce
    generalize sealSlot (s.part p).r p key = o
    cases o with
    | none => exact h0
    | some n =>
      dsimp only
      split
      · exact h1 n
      · exact h0
  exact h _ rfl

theorem sealMonitor_mem (s : State) (p : PartId) (key : Nat) : (sealMonitor s p key).mem = s.mem :=
  sealMonitor_ind (P := fun s' => s'.mem = s.mem) s p key rfl fun _ => rfl

@[simp] theorem putBytes_mem (s : State) (p : PartId) (key n : Nat) (v : Word) : (putBytes s p key n v).mem = memWrite s.mem key n v.toNat := by
  unfold putBytes
  dsimp only
  split
  · rw [sealMonitor_mem, windowWritten, State.wholeWords_mem]; rfl
  · rw [windowWritten, State.wholeWords_mem]; rfl

@[simp] theorem clearStamp_mem (s : State) (r : TRef) (ea : Word) : (clearStamp s r ea).mem = s.mem := by
  unfold clearStamp
  split <;> rfl

/-- Byte i of a value below n bytes. -/
theorem byte_of_low {v : Word} {n i : Nat} (hi : i < n) : BitVec.ofNat 8 ((word (v.toNat % 2 ^ (8 * n))).toNat / 256 ^ i) =
    v.extractLsb' (8 * i) 8 := by
  apply BitVec.eq_of_getLsbD_eq
  intro j hj
  have hp : (256 : Nat) ^ i = 2 ^ (8 * i) := by rw [Nat.pow_mul]
  rw [BitVec.getLsbD_ofNat, BitVec.getLsbD_extractLsb', hp, Nat.testBit_div_two_pow, word, BitVec.toNat_ofNat, Nat.testBit_mod_two_pow,
    Nat.testBit_mod_two_pow, decide_eq_true hj, decide_eq_true (show j + 8 * i < 8 * n by omega), Nat.add_comm j]
  by_cases h64 : 8 * i + j < 64
  · simp [h64, BitVec.getLsbD]
  · simp [h64, BitVec.getLsbD_of_ge v _ (Nat.not_lt.mp h64)]

/-- The bytes of memory after a write of the low bytes of a word. -/
theorem memByte_memWrite_low {m : Memory} (hw : Memory.wf m = true) (key n : Nat) (v : Word) (k : Nat) :
    memByte (memWrite m key n (word (v.toNat % 2 ^ (8 * n))).toNat) k =
      if key ≤ k ∧ k < key + n then v.extractLsb' (8 * (k - key)) 8 else memByte m k := by
  split
  · next h =>
    obtain ⟨i, rfl⟩ := Nat.exists_eq_add_of_le h.1
    rw [memByte_memWrite_in (by omega) hw, byte_of_low (by omega), Nat.add_sub_cancel_left]
  · exact memByte_memWrite_out (by omega) hw

/-- The commit of a store of the low bytes of a register. -/
def storeCommit (n : Nat) (d : Reg) (ea : Word) (x : At) (v : Word) : Commit :=
  { Commit.none with log := [.addr ea, .store d (sizeCode n) v, .leave (lineOf ea)], lat := x.lat }

/-- The value that a store of n bytes writes. -/
def storeValue (t : Thread) (d : Reg) (n : Nat) : Word := word ((t.src.g[d]).toNat % 2 ^ (8 * n))

theorem storeWord_writes {s s2 : State} {t : Thread} {ty : StType} {ea : Word} {x : At} (h : Writes s t ea ty.bytes true x s2) (d : Reg) :
    storeWord ty d ea s.cur.at_ t s = .done (storeCommit ty.bytes d ea x (storeValue t d ty.bytes))
      (clearStamp (putBytes s2 s.cur.at_.part x.key ty.bytes (storeValue t d ty.bytes)) s.cur.at_ ea) := by
  obtain ⟨pl, s1, hc, hp⟩ := h
  unfold storeWord
  dsimp only
  rw [hc]
  cases pl with
  | remote => cases hp
  | window key lat => dsimp only; rw [hp]; rfl
  | mem l => dsimp only; rw [hp]; rfl

theorem store_commits {s s2 : State} {t : Thread} {srcs : List Src} (h : Ready s t srcs) (e : Thread → Word) {x : At} (ty : StType) (d : Reg)
    (hm : Memory.wf s2.mem = true) (hr : Writes s t (e t) ty.bytes true x s2) :
    ∃ s3, Commits s s3 srcs (runWord srcs (fun r t s => storeWord ty d (e t) r t s) s)
        (storeCommit ty.bytes d (e t) x (storeValue t d ty.bytes)) ∧
      (∀ k, s3.byte k = if x.key ≤ k ∧ k < x.key + ty.bytes then (t.src.g[d]).extractLsb' (8 * (k - x.key)) 8 else s2.byte k) ∧
      MemoryCanonical s3 := by
  refine ⟨_, runWord_commits h (storeWord_writes hr d), fun k => ?_, ?_⟩
  · rw [State.byte, clearStamp_mem, putBytes_mem]
    exact memByte_memWrite_low hm ..
  · rw [MemoryCanonical, clearStamp_mem, putBytes_mem]
    exact memWrite_wf _ _ _ hm

/-! ## Another partition's span -/

/-- On a core without a taster no word stops at a containment point. -/
theorem passPoint_unwatched {s : State} {r : TRef} (h : s.watched r.part r.core = false) (t : Thread) (kind : Nat) :
    passPoint s r t kind = .ok s := by rw [passPoint, h]; rfl

/-- What an access of n bytes to another partition's span comes to: it waits for the thread's own updates of its bytes, or sends its request
and leaves `q` waiting. -/
def Asks (s : State) (t : Thread) (srcs : List Src) (o : Out) (ea : Word) (n : Nat) (op : RemoteOp) (q : Pend) : Prop :=
  (remoteOwn s s.cur.at_ t ea n = true → Waits s s o .queue) ∧
  (remoteOwn s s.cur.at_ t ea n = false → Pends s (sendRemote s (remoteReq s s.cur.at_ t ea op)) srcs o q)

/-- What waits for the reply of a remote read. -/
def readPend (d : Option Reg) (ty : Option LdType) (log : ReplyLog) (ea : Word) : Pend :=
  { commit := { Commit.none with log := [.addr ea] }, dest := d, log := log, ty := ty, addr := ea, size := 0, words := [] }

/-- What waits for the acknowledgement of a remote write. -/
def writePend (log : List LogItem) (ea : Word) : Pend :=
  { commit := { Commit.none with log := .addr ea :: log }, dest := none, log := .nothing, ty := none, addr := ea, size := 0, words := [] }

section
variable {s : State} {t : Thread} {srcs : List Src} {f : TRef → Thread → State → Res} {ea : Word} {op : RemoteOp}

theorem remoteRead_asks {d : Option Reg} {ty : Option LdType} {log : ReplyLog} (h : Ready s t srcs)
    (hf : f s.cur.at_ t s = remoteRead s s.cur.at_ t ea op d ty log) :
    Asks s t srcs (runWord srcs f s) ea (opBytes op) op (readPend d ty log ea) := by
  refine ⟨fun ho => runWord_waits h ?_, fun ho => runWord_pends h ?_⟩
  · rw [hf, remoteRead, if_pos ho]
  · rw [hf, remoteRead, if_neg (Bool.not_eq_true _ ▸ ho)]; rfl

theorem remoteWrite_asks {log : List LogItem} (h : Ready s t srcs) (hw : s.watched s.cur.at_.part s.cur.at_.core = false)
    (hf : f s.cur.at_ t s = remoteWrite s s.cur.at_ t ea op log) :
    Asks s t srcs (runWord srcs f s) ea (opBytes op) op (writePend log ea) := by
  refine ⟨fun ho => runWord_waits h ?_, fun ho => runWord_pends h ?_⟩
  · rw [hf, remoteWrite, if_pos ho]
  · rw [hf, remoteWrite, if_neg (Bool.not_eq_true _ ▸ ho), passPoint_unwatched hw]; rfl

end

theorem load_asks {s : State} {t : Thread} {srcs : List Src} (h : Ready s t srcs) (e : Thread → Word) (ty : LdType) (d : Reg)
    (hr : inRemoteRegion (e t) = true) (hn : (e t).toNat % ty.bytes = 0) :
    Asks s t srcs (runWord srcs (fun r t s => loadWord ty d (e t) r t s) s) (e t) ty.bytes (.load ty)
      (readPend (some d) (some ty) (.load (sizeCode ty.bytes)) (e t)) :=
  remoteRead_asks (op := .load ty) h (by rw [loadWord, checkAccess_remote hr hn])

theorem store_asks {s : State} {t : Thread} {srcs : List Src} (h : Ready s t srcs) (hw : s.watched s.cur.at_.part s.cur.at_.core = false)
    (e : Thread → Word) (ty : StType) (d : Reg) (hr : inRemoteRegion (e t) = true) (hn : (e t).toNat % ty.bytes = 0) :
    Asks s t srcs (runWord srcs (fun r t s => storeWord ty d (e t) r t s) s) (e t) ty.bytes (.store ty (storeValue t d ty.bytes))
      (writePend [.store d (sizeCode ty.bytes) (storeValue t d ty.bytes)] (e t)) :=
  remoteWrite_asks (op := .store ty (storeValue t d ty.bytes)) h hw (by simp only [storeWord, checkAccess_remote hr hn]; rfl)

end Sys2Proof.Machine

open Sys2Proof Sys2Proof.Machine

/-- Settles O24: every width and extension is one `loadWord`, whose value is the table's. -/
theorem loadResults : Obligations.LoadResults := by
  intro s s2 t d a b off x loads e ix
  have ho (ty : LdType) (h : Ready s t [a]) (hr : Reads s t e ty.bytes true x s2) :
      Commits s s2 [a] (loadOffset ty d a off s) (loadCommit ty d e x (loadValue ty (memRead s2.mem x.key ty.bytes))) :=
    load_commits h (fun t => eaOffset t a off) ty d hr
  have hx (ty : LdType) (h : Ready s t [a, b]) (hr : Reads s t (ix ty.bytes) ty.bytes true x s2) :
      Commits s s2 [a, b] (execLdx ty d a b s) (loadCommit ty d (ix ty.bytes) x (loadValue ty (memRead s2.mem x.key ty.bytes))) :=
    load_commits h (fun t => eaIndexed t a b ty.bytes) ty d hr
  exact ⟨ho .s8, ho .s16, ho .s32, ho .s64, ho .z8, ho .z16, ho .z32, hx .s8, hx .s16, hx .s32, hx .s64, hx .z8, hx .z16, hx .z32⟩

/-- Settles O25: every width is one `storeWord`, which writes the low bytes of gd at the place found. -/
theorem storeResults : Obligations.StoreResults := by
  intro s s2 t d a b off x hm stores e ix
  have ho (ty : StType) (h : Ready s t [a]) := store_commits h (fun t => eaOffset t a off) (x := x) ty d hm
  have hx (ty : StType) (h : Ready s t [a, b]) := store_commits h (fun t => eaIndexed t a b ty.bytes) (x := x) ty d hm
  exact ⟨ho .b8, ho .b16, ho .b32, ho .b64, hx .b8, hx .b16, hx .b32, hx .b64⟩

/-- Settles O27: the checks end at the remote region, and `remoteRead` and `remoteWrite` send the request. -/
theorem remoteAccess : Obligations.RemoteAccess := by
  intro s t d a b off hw request afar loads stores e ix
  have lo (ty : LdType) (h : Ready s t [a]) (hr : inRemoteRegion e = true) (hn : e.toNat % ty.bytes = 0) :
      Asks s t [a] (loadOffset ty d a off s) e ty.bytes (.load ty) (readPend (some d) (some ty) (.load (sizeCode ty.bytes)) e) :=
    load_asks h (fun t => eaOffset t a off) ty d hr hn
  have lx (ty : LdType) (h : Ready s t [a, b]) (hr : inRemoteRegion (ix ty.bytes) = true) (hn : (ix ty.bytes).toNat % ty.bytes = 0) :
      Asks s t [a, b] (execLdx ty d a b s) (ix ty.bytes) ty.bytes (.load ty) 
        (readPend (some d) (some ty) (.load (sizeCode ty.bytes)) (ix ty.bytes)) :=
    load_asks h (fun t => eaIndexed t a b ty.bytes) ty d hr hn
  have so (ty : StType) (h : Ready s t [a]) (hr : inRemoteRegion e = true) (hn : e.toNat % ty.bytes = 0) :
      Asks s t [a] (storeOffset ty d a off s) e ty.bytes (.store ty (storeValue t d ty.bytes))
        (writePend [.store d (sizeCode ty.bytes) (storeValue t d ty.bytes)] e) :=
    store_asks h hw (fun t => eaOffset t a off) ty d hr hn
  have sx (ty : StType) (h : Ready s t [a, b]) (hr : inRemoteRegion (ix ty.bytes) = true) (hn : (ix ty.bytes).toNat % ty.bytes = 0) :
      Asks s t [a, b] (execStx ty d a b s) (ix ty.bytes) ty.bytes (.store ty (storeValue t d ty.bytes))
        (writePend [.store d (sizeCode ty.bytes) (storeValue t d ty.bytes)] (ix ty.bytes)) :=
    store_asks h hw (fun t => eaIndexed t a b ty.bytes) ty d hr hn
  exact ⟨lo .s8, lo .s16, lo .s32, lo .s64, lo .z8, lo .z16, lo .z32, lx .s8, lx .s16, lx .s32, lx .s64, lx .z8, lx .z16, lx .z32,
    so .b8, so .b16, so .b32, so .b64, sx .b8, sx .b16, sx .b32, sx .b64⟩
end

section
/-! SUPPORT. Accesses to the windows (12 R193 to R196): their reply time, their bytes, and what they leave as it was. -/
namespace Sys2Proof.Machine

/-! ## What an access to a window leaves -/

/-- Two states that differ in no byte, no full bit, no poisoned line, no thread, in nothing that is due, nor in the cycle. -/
structure Quiet (s s' : State) : Prop where
  mem : s'.mem = s.mem
  fe : s'.fe = s.fe
  poison : s'.poison = s.poison
  cycle : s'.cycle = s.cycle
  events : s'.events = s.events
  thread : ∀ r, s'.thread r = s.thread r

theorem Quiet.refl (s : State) : Quiet s s := ⟨rfl, rfl, rfl, rfl, rfl, fun _ => rfl⟩

theorem Quiet.trans {a b c : State} (h : Quiet a b) (k : Quiet b c) : Quiet a c :=
  ⟨k.mem.trans h.mem, k.fe.trans h.fe, k.poison.trans h.poison, k.cycle.trans h.cycle, k.events.trans h.events,
    fun r => (k.thread r).trans (h.thread r)⟩

theorem quiet_modPart (s : State) (p : PartId) (f : Partition → Partition) (h : ∀ c, (f (s.part p)).core c = (s.part p).core c) :
    Quiet s (s.modPart p f) := ⟨rfl, rfl, rfl, rfl, rfl, State.thread_modPart_of s p f h⟩

theorem quiet_modClusterW (s : State) (p : PartId) (k : ClusterId) (f : ClusterWorld → ClusterWorld) : Quiet s (s.modClusterW p k f) :=
  quiet_modPart s p (fun q => { q with clusters := kput q.clusters k.val { s.cluster p k with w := f (s.cluster p k).w } }) fun _ => rfl

theorem quiet_modCoreC (s : State) (p : PartId) (c : CoreId) (f : CoreFixed → CoreFixed) : Quiet s (s.modCoreC p c f) :=
  ⟨rfl, rfl, rfl, rfl, rfl, State.thread_modCoreC s p c f⟩

theorem quiet_modCoreW (s : State) (p : PartId) (c : CoreId) (f : CoreWorld → CoreWorld)
    (h : (f (s.core p c).w).slots = (s.core p c).w.slots) : Quiet s (s.modCoreW p c f) :=
  ⟨rfl, rfl, rfl, rfl, rfl, State.thread_modCoreW_of s p c f h⟩

theorem quiet_hwSet (s : State) (p : PartId) (c : CoreId) (x : SysReg) (b : Nat) : Quiet s (s.hwSet p c x b) :=
  ⟨rfl, rfl, rfl, rfl, rfl, fun _ => rfl⟩

theorem quiet_mtsSet (s : State) (p : PartId) (c : CoreId) (x : SysReg) (v : Word) : Quiet s (s.mtsSet p c x v) :=
  ⟨rfl, rfl, rfl, rfl, rfl, fun _ => rfl⟩

theorem quiet_noteWrap (s : State) (p : PartId) (c : CoreId) (i : Fin 4) : Quiet s (noteWrap s p c i) := by
  unfold noteWrap
  dsimp only
  split
  · exact ((quiet_modCoreW _ _ _ _ rfl).trans (quiet_hwSet ..)).trans (quiet_modCoreC ..)
  · exact (quiet_modCoreW _ _ _ _ rfl).trans (quiet_hwSet ..)

theorem quiet_countReg (s : State) (p : PartId) (c : CoreId) (n : Nat) (i : Fin 4) : Quiet s (countReg s p c n i) := by
  unfold countReg
  split <;> dsimp only <;> split
  · exact (quiet_mtsSet ..).trans (quiet_noteWrap ..)
  · exact quiet_mtsSet ..
  · exact (quiet_modCoreW _ _ _ _ rfl).trans (quiet_noteWrap ..)
  · exact quiet_modCoreW _ _ _ _ rfl

theorem quiet_foldl {α : Type} (f : State → α → State) (h : ∀ s a, Quiet s (f s a)) (l : List α) : ∀ s, Quiet s (l.foldl f s) := by
  induction l with
  | nil => exact Quiet.refl
  | cons a l ih => exact fun s => (h s a).trans (ih _)

theorem quiet_count (s : State) (p : PartId) (c : CoreId) (code : Nat) (sl : Option SlotId) (n : Nat) : Quiet s (s.count p c code sl n) := by
  unfold State.count
  split
  · exact quiet_foldl _ (fun s i => quiet_countReg s p c n i) _ s
  · exact Quiet.refl s

theorem quiet_sramAt (s : State) (p : PartId) (key : Nat) : Quiet s (s.sramAt p key) := by
  unfold State.sramAt
  split
  · exact quiet_foldl _ (fun s q => quiet_modPart s q _ fun _ => rfl) _ s
  · exact Quiet.refl s

theorem windowAt_quiet (s : State) (r : TRef) (key lat n : Nat) : Quiet s (windowAt s r key lat n).2 := by
  unfold windowAt
  split
  · split
    · dsimp only
      split
      · exact (quiet_modClusterW ..).trans (quiet_count ..)
      · exact quiet_modClusterW ..
    · exact quiet_sramAt ..
  · exact quiet_sramAt ..

/-! ## Its reply time -/

/-- The reply time of an access of n bytes at a key (R195, R196). -/
def windowReply (s : State) (r : TRef) (key lat n : Nat) : Nat :=
  if key / 2 ^ 48 % 4 = 2 then
    match clusterOf r.core with
    | some k =>
      let own := bankUse (s.cluster r.part k).w r.core r.slot
      lat + Nat.max own.wait (bankWait (s.cluster r.part k).w ((banksOf key n).filter (fun b => !own.banks.contains b)))
    | none => lat
  else lat

theorem windowAt_at (s : State) (r : TRef) (key lat n : Nat) :
    (windowAt s r key lat n).1 = { key := key, lat := windowReply s r key lat n, stamp := none } := by
  unfold windowAt windowReply
  by_cases hk : key / 2 ^ 48 % 4 = 2
  · simp only [if_pos hk]
    cases clusterOf r.core <;> rfl
  · simp only [if_neg hk]
    cases clusterOf r.core <;> rfl

/-- Only a core of a cluster reaches a scratchpad. -/
theorem cluster_of_scratch {p : PartId} {c : CoreId} {ea : Word} {key lat : Nat} (h : windowKey p c ea = some (key, lat))
    (h2 : key / 2 ^ 48 % 4 = 2) : ∃ k, clusterOf c = some k := by
  unfold windowKey at h
  dsimp only at h
  split at h
  · next ho =>
    obtain ⟨rfl, -⟩ := Prod.mk.inj (Option.some.inj h)
    have hc := c.isLt
    rw [keyTcm, spaceBase] at h2
    omega
  · split at h
    · cases hk : clusterOf c with
      | some k => exact ⟨k, rfl⟩
      | none => rw [hk] at h; cases h
    · split at h
      · obtain ⟨rfl, -⟩ := Prod.mk.inj (Option.some.inj h)
        rw [keySram, spaceBase] at h2
        omega
      · cases h

/-! ## Bytes -/

theorem quiet_unstamp (s : State) (p : PartId) (line : Nat) (st : Option Stamp) : Quiet s (s.setStamp p line st) := quiet_modPart s p _ fun _ => rfl

theorem quiet_clearStamp (s : State) (r : TRef) (ea : Word) : Quiet s (clearStamp s r ea) := by
  unfold clearStamp
  split
  · exact Quiet.refl s
  · exact quiet_unstamp ..

/-- What a write leaves: every full bit, poisoned line and thread, and the cycle. -/
structure Cells (s s' : State) : Prop where
  fe : s'.fe = s.fe
  poison : s'.poison = s.poison
  cycle : s'.cycle = s.cycle
  thread : ∀ r, s'.thread r = s.thread r

theorem Cells.trans {a b c : State} (h : Cells a b) (k : Cells b c) : Cells a c :=
  ⟨k.fe.trans h.fe, k.poison.trans h.poison, k.cycle.trans h.cycle, fun r => (k.thread r).trans (h.thread r)⟩

theorem Quiet.cells {a b : State} (h : Quiet a b) : Cells a b := ⟨h.fe, h.poison, h.cycle, h.thread⟩

theorem sealMonitor_cells (s : State) (p : PartId) (key : Nat) : Cells s (sealMonitor s p key) :=
  sealMonitor_ind (P := Cells s) s p key (Quiet.refl s).cells fun _ =>
    ⟨rfl, rfl, rfl, fun r => (State.thread_congr (State.push_parts _ _) r).trans (State.thread_modPart_of s p _ (fun _ => rfl) r)⟩

theorem putBytes_cells (s : State) (p : PartId) (key n : Nat) (v : Word) : Cells s (putBytes s p key n v) := by
  have h : Cells s (windowWritten (s.writeMem key n v) key n) :=
    ⟨State.wholeWords_fe .., State.wholeWords_poison .., State.wholeWords_cycle .., fun r => State.wholeWords_thread ..⟩
  unfold putBytes
  dsimp only
  split
  · exact h.trans (sealMonitor_cells ..)
  · exact h

/-! ## Vectors of 64 bytes (R175) -/

/-- The commit of VLD. -/
def vldCommit (d : VReg) (ea : Word) (x : At) (v : BitVec 512) : Commit :=
  { writesV d v with log := .addr ea :: stampItems x ++ [.vec d.val (vecXor v)], lat := x.lat }

/-- The commit of VST. -/
def vstCommit (d : VReg) (ea : Word) (x : At) (v : BitVec 512) : Commit :=
  { Commit.none with log := [.addr ea, .vecStore d.val (vecXor v)], lat := x.lat }

/-- The words of a vector written from a key on. -/
def putVector (s : State) (p : PartId) (key : Nat) (v : BitVec 512) : Nat → State
  | 0 => s
  | n + 1 => putBytes (putVector s p key v n) p (key + 8 * n) 8 (v.extractLsb' (64 * n) 64)

theorem putVector_eq (s : State) (p : PartId) (key : Nat) (v : BitVec 512) (n : Nat) :
    (List.range n).foldl (fun s i => putBytes s p (key + 8 * i) 8 (v.extractLsb' (64 * i) 64)) s = putVector s p key v n := by
  induction n with
  | zero => rfl
  | succ n ih => rw [List.range_succ, List.foldl_append, ih, List.foldl_cons, List.foldl_nil, putVector]

theorem putVector_wf {s : State} (h : Memory.wf s.mem = true) (p : PartId) (key : Nat) (v : BitVec 512) (n : Nat) :
    Memory.wf (putVector s p key v n).mem = true := by
  induction n with
  | zero => exact h
  | succ n ih => rw [putVector, putBytes_mem]; exact memWrite_wf _ _ _ ih

theorem putVector_cells (s : State) (p : PartId) (key : Nat) (v : BitVec 512) (n : Nat) : Cells s (putVector s p key v n) := by
  induction n with
  | zero => exact (Quiet.refl s).cells
  | succ n ih => exact ih.trans (putBytes_cells ..)

theorem word_toNat (v : Word) : word v.toNat = v := BitVec.ofNat_toNat ..

/-- The bytes of memory after a write of a whole word. -/
theorem memByte_memWrite_word {m : Memory} (hw : Memory.wf m = true) (key : Nat) (v : Word) (k : Nat) :
    memByte (memWrite m key 8 v.toNat) k = if key ≤ k ∧ k < key + 8 then v.extractLsb' (8 * (k - key)) 8 else memByte m k := by
  have h := memByte_memWrite_low hw key 8 v k
  rwa [Nat.mod_eq_of_lt v.isLt, word_toNat] at h

theorem putVector_byte {s : State} (h : Memory.wf s.mem = true) (p : PartId) (key : Nat) (v : BitVec 512) (n k : Nat) :
    (putVector s p key v n).byte k = if key ≤ k ∧ k < key + 8 * n then v.extractLsb' (8 * (k - key)) 8 else s.byte k := by
  induction n with
  | zero => rw [if_neg (by omega)]; rfl
  | succ n ih =>
    rw [putVector, State.byte, putBytes_mem, memByte_memWrite_word (putVector_wf h ..), ← State.byte, ih]
    by_cases h1 : key + 8 * n ≤ k ∧ k < key + 8 * n + 8
    · rw [if_pos h1, if_pos (by omega)]
      apply BitVec.eq_of_getLsbD_eq
      intro j hj
      rw [BitVec.getLsbD_extractLsb', BitVec.getLsbD_extractLsb', BitVec.getLsbD_extractLsb', decide_eq_true hj,
        decide_eq_true (show 8 * (k - (key + 8 * n)) + j < 64 by omega), Bool.true_and, Bool.true_and, Bool.true_and]
      congr 1; omega
    · rw [if_neg h1]
      by_cases h2 : key ≤ k ∧ k < key + 8 * n
      · rw [if_pos h2, if_pos (by omega)]
      · rw [if_neg h2, if_neg (by omega)]

section
variable {s s2 : State} {t : Thread} {a : Src} {off : BitVec 15} {x : At}

theorem vld_commits (h : Ready s t [a]) (d : VReg) (hr : Reads s t (eaOffset t a off) 64 false x s2) :
    Commits s s2 [a] (execVld d a off s) (vldCommit d (eaOffset t a off) x (BitVec.ofNat 512 (memRead s2.mem x.key 64))) := by
  obtain ⟨pl, s1, hc, hp⟩ := hr
  unfold execVld
  refine runWord_commits h ?_
  dsimp only
  rw [hc]
  dsimp only
  rw [hp]
  rfl

theorem vst_commits (h : Ready s t [a]) (d : VReg) (hr : Writes s t (eaOffset t a off) 64 false x s2) :
    Commits s (clearStamp (putVector s2 s.cur.at_.part x.key t.v[d] 8) s.cur.at_ (eaOffset t a off)) [a] (execVst d a off s)
      (vstCommit d (eaOffset t a off) x t.v[d]) := by
  obtain ⟨pl, s1, hc, hp⟩ := hr
  unfold execVst
  refine runWord_commits h ?_
  dsimp only
  rw [hc]
  dsimp only
  rw [hp]
  dsimp only
  rw [putVector_eq]
  rfl

end

/-! ## The words -/

section
variable {s : State} {t : Thread} {srcs : List Src} {key lat n : Nat} {ea : Word} {afar : Bool}

/-- The place that an access to a window finds its bytes at. -/
def windowPlace (s : State) (key lat n : Nat) : At := { key := key, lat := windowReply s s.cur.at_ key lat n, stamp := none }

/-- The state that an access to a window leaves. -/
def windowState (s : State) (key lat n : Nat) : State := (windowAt s s.cur.at_ key lat n).2

theorem windowState_quiet (s : State) (key lat n : Nat) : Quiet s (windowState s key lat n) := windowAt_quiet ..

theorem window_reads (hw : inWindowRegion ea = true) (hk : windowKey s.cur.at_.part s.cur.at_.core ea = some (key, lat))
    (hn : ea.toNat % n = 0) (hr : redPending s s.cur.at_.part t.tid key n = false) (hp : windowPoisoned s key n = false) :
    Reads s t ea n afar (windowPlace s key lat n) (windowState s key lat n) := by
  refine ⟨_, _, checkAccess_window hw hn hk, ?_⟩
  rw [readPlace, hr, windowRead, hp, windowPlace, ← windowAt_at]; rfl

theorem window_writes (hw : inWindowRegion ea = true) (hk : windowKey s.cur.at_.part s.cur.at_.core ea = some (key, lat))
    (hn : ea.toNat % n = 0) (hr : redPending s s.cur.at_.part t.tid key n = false) :
    Writes s t ea n afar (windowPlace s key lat n) (windowState s key lat n) := by
  refine ⟨_, _, checkAccess_window hw hn hk, ?_⟩
  rw [writePlace, hr, windowPlace, ← windowAt_at]; rfl

end

/-- What a load from a window does, of the commit c: a poisoned word faults, another read changes nothing beside the thread that a statement
about threads, bytes and what is due could see. -/
def WindowLoads (s : State) (srcs : List Src) (o : Out) (ea : Word) (key n : Nat) (c : Commit) : Prop :=
  (windowPoisoned s key n = true → Faults s s o .poison (some ea)) ∧
  (windowPoisoned s key n = false → ∃ s1, Commits s s1 srcs o c ∧ Quiet s s1)

/-- What a store to a window does. -/
def WindowStores (s : State) (srcs : List Src) (o : Out) (key n : Nat) (byte : Nat → Byte) (c : Commit) : Prop :=
  ∃ s1, Commits s s1 srcs o c ∧ (∀ k, s1.byte k = if key ≤ k ∧ k < key + n then byte (k - key) else s.byte k) ∧ MemoryCanonical s1 ∧
    Cells s s1

section
variable {s : State} {t : Thread} {srcs : List Src} {key lat : Nat} {d : VReg} {a : Src} {off : BitVec 15}

theorem loadWord_window {ty : LdType} (d : Reg) (h : Ready s t srcs) (e : Thread → Word) (hw : inWindowRegion (e t) = true)
    (hk : windowKey s.cur.at_.part s.cur.at_.core (e t) = some (key, lat)) (hn : (e t).toNat % ty.bytes = 0)
    (hr : redPending s s.cur.at_.part t.tid key ty.bytes = false) :
    WindowLoads s srcs (runWord srcs (fun r t s => loadWord ty d (e t) r t s) s) (e t) key ty.bytes
      (loadCommit ty d (e t) (windowPlace s key lat ty.bytes) (loadValue ty (memRead s.mem key ty.bytes))) := by
  refine ⟨fun hp => runWord_faults h ?_, fun hp => ⟨_, ?_, windowState_quiet s key lat ty.bytes⟩⟩
  · simp only [loadWord, checkAccess_window hw hn hk, readPlace, hr, windowRead, hp, if_true, Bool.false_eq_true, if_false]
  · have hc := load_commits h e ty d (window_reads hw hk hn hr hp)
    rwa [(windowState_quiet s key lat ty.bytes).mem] at hc

theorem vld_window (h : Ready s t [a]) (hw : inWindowRegion (eaOffset t a off) = true)
    (hk : windowKey s.cur.at_.part s.cur.at_.core (eaOffset t a off) = some (key, lat)) (hn : (eaOffset t a off).toNat % 64 = 0)
    (hr : redPending s s.cur.at_.part t.tid key 64 = false) :
    WindowLoads s [a] (execVld d a off s) (eaOffset t a off) key 64
      (vldCommit d (eaOffset t a off) (windowPlace s key lat 64) (BitVec.ofNat 512 (memRead s.mem key 64))) := by
  refine ⟨fun hp => ?_, fun hp => ⟨_, ?_, windowState_quiet s key lat 64⟩⟩
  · unfold execVld
    refine runWord_faults h ?_
    simp only [checkAccess_window hw hn hk, readPlace, hr, windowRead, hp, if_true, Bool.false_eq_true, if_false]
  · have hc := vld_commits h d (window_reads hw hk hn hr hp)
    rwa [(windowState_quiet s key lat 64).mem] at hc

theorem storeWord_window {ty : StType} (d : Reg) (h : Ready s t srcs) (hm : Memory.wf s.mem = true) (e : Thread → Word)
    (hw : inWindowRegion (e t) = true) (hk : windowKey s.cur.at_.part s.cur.at_.core (e t) = some (key, lat))
    (hn : (e t).toNat % ty.bytes = 0) (hr : redPending s s.cur.at_.part t.tid key ty.bytes = false) :
    WindowStores s srcs (runWord srcs (fun r t s => storeWord ty d (e t) r t s) s) key ty.bytes (fun k => (t.src.g[d]).extractLsb' (8 * k) 8)
      (storeCommit ty.bytes d (e t) (windowPlace s key lat ty.bytes) (storeValue t d ty.bytes)) := by
  have hq := windowState_quiet s key lat ty.bytes
  have hm2 : Memory.wf (windowState s key lat ty.bytes).mem = true := by rw [hq.mem]; exact hm
  refine ⟨_, runWord_commits h (storeWord_writes (window_writes hw hk hn hr) d), fun k => ?_, ?_,
    (hq.cells.trans (putBytes_cells ..)).trans (quiet_clearStamp ..).cells⟩
  · rw [State.byte, clearStamp_mem, putBytes_mem, storeValue, memByte_memWrite_low hm2, hq.mem]; rfl
  · rw [MemoryCanonical, clearStamp_mem, putBytes_mem]
    exact memWrite_wf _ _ _ hm2

theorem vst_window (h : Ready s t [a]) (hm : Memory.wf s.mem = true) (hw : inWindowRegion (eaOffset t a off) = true)
    (hk : windowKey s.cur.at_.part s.cur.at_.core (eaOffset t a off) = some (key, lat)) (hn : (eaOffset t a off).toNat % 64 = 0)
    (hr : redPending s s.cur.at_.part t.tid key 64 = false) :
    WindowStores s [a] (execVst d a off s) key 64 (fun k => t.v[d].extractLsb' (8 * k) 8)
      (vstCommit d (eaOffset t a off) (windowPlace s key lat 64) t.v[d]) := by
  have hq := windowState_quiet s key lat 64
  have hm2 : Memory.wf (windowState s key lat 64).mem = true := by rw [hq.mem]; exact hm
  refine ⟨_, vst_commits h d (window_writes hw hk hn hr), fun k => ?_, ?_,
    (hq.cells.trans (putVector_cells ..)).trans (quiet_clearStamp ..).cells⟩
  · rw [State.byte, clearStamp_mem, ← State.byte, putVector_byte hm2, State.byte, hq.mem]; rfl
  · rw [MemoryCanonical, clearStamp_mem]
    exact putVector_wf hm2 ..

end

/-! ## An access waits for the thread's own RED to its bytes (R236) -/

section
variable {s : State} {t : Thread} {srcs : List Src} {key lat : Nat} {a : Src} {off : BitVec 15}

theorem loadWord_waits {ty : LdType} (d : Reg) (h : Ready s t srcs) (e : Thread → Word) (hw : inWindowRegion (e t) = true)
    (hk : windowKey s.cur.at_.part s.cur.at_.core (e t) = some (key, lat)) (hn : (e t).toNat % ty.bytes = 0)
    (hr : redPending s s.cur.at_.part t.tid key ty.bytes = true) :
    Waits s s (runWord srcs (fun r t s => loadWord ty d (e t) r t s) s) .queue := by
  refine runWord_waits h ?_
  simp only [loadWord, checkAccess_window hw hn hk, readPlace, hr, if_true]

theorem storeWord_waits {ty : StType} (d : Reg) (h : Ready s t srcs) (e : Thread → Word) (hw : inWindowRegion (e t) = true)
    (hk : windowKey s.cur.at_.part s.cur.at_.core (e t) = some (key, lat)) (hn : (e t).toNat % ty.bytes = 0)
    (hr : redPending s s.cur.at_.part t.tid key ty.bytes = true) :
    Waits s s (runWord srcs (fun r t s => storeWord ty d (e t) r t s) s) .queue := by
  refine runWord_waits h ?_
  simp only [storeWord, checkAccess_window hw hn hk, writePlace, hr, if_true]

theorem vld_waits (d : VReg) (h : Ready s t [a]) (hw : inWindowRegion (eaOffset t a off) = true)
    (hk : windowKey s.cur.at_.part s.cur.at_.core (eaOffset t a off) = some (key, lat)) (hn : (eaOffset t a off).toNat % 64 = 0)
    (hr : redPending s s.cur.at_.part t.tid key 64 = true) : Waits s s (execVld d a off s) .queue := by
  unfold execVld
  refine runWord_waits h ?_
  simp only [checkAccess_window hw hn hk, readPlace, hr, if_true]

theorem vst_waits (d : VReg) (h : Ready s t [a]) (hw : inWindowRegion (eaOffset t a off) = true)
    (hk : windowKey s.cur.at_.part s.cur.at_.core (eaOffset t a off) = some (key, lat)) (hn : (eaOffset t a off).toNat % 64 = 0)
    (hr : redPending s s.cur.at_.part t.tid key 64 = true) : Waits s s (execVst d a off s) .queue := by
  unfold execVst
  refine runWord_waits h ?_
  simp only [checkAccess_window hw hn hk, writePlace, hr, if_true]

end

end Sys2Proof.Machine

open Sys2Proof Sys2Proof.Machine

/-- Settles O26: every form is `loadWord`, `storeWord`, VLD or VST at a place that depends on the address alone. -/
theorem windowAccess : Obligations.WindowAccess := by
  intro s t d vd a b off key lat hw hm p c w own bs waits reply loads load vec stores store e ix
  have hreply (ea : Word) (n : Nat) (hk : windowKey p c ea = some (key, lat)) : windowReply s s.cur.at_ key lat n = reply n := by
    unfold windowReply
    split
    · next h2 =>
      obtain ⟨k, hc⟩ := cluster_of_scratch hk h2
      simp only [reply, waits, bs, own, w, hc, if_pos h2, Option.map_some, Option.bind_some, Option.getD_some, c]
      rfl
    · next h2 => simp only [reply, if_neg h2]
  have hload {srcs : List Src} {i : Instr} {ea : Word} {n : Nat} {cm : Commit} {log : List LogItem}
      (h : Ready s t srcs → inWindowRegion ea = true → windowKey p c ea = some (key, lat) → ea.toNat % n = 0 →
        redPending s p t.tid key n = false →
        WindowLoads s srcs (exec i s) ea key n { cm with log := .addr ea :: log, lat := windowReply s s.cur.at_ key lat n }) :
      loads srcs i ea n cm log := by
    intro h0 hw hk hn hr
    obtain ⟨h1, h2⟩ := h h0 hw hk hn hr
    rw [hreply ea n hk] at h2
    refine ⟨h1, fun hp => ?_⟩
    obtain ⟨s1, hc, hq⟩ := h2 hp
    exact ⟨s1, hc, hq.mem, hq.fe, hq.poison, hq.cycle, hq.events, hq.thread⟩
  have hstore {srcs : List Src} {i : Instr} {ea : Word} {n : Nat} {byte : Nat → Byte} {log : List LogItem}
      (h : Ready s t srcs → inWindowRegion ea = true → windowKey p c ea = some (key, lat) → ea.toNat % n = 0 →
        redPending s p t.tid key n = false →
        WindowStores s srcs (exec i s) key n byte { Commit.none with log := .addr ea :: log, lat := windowReply s s.cur.at_ key lat n }) :
      stores srcs i ea n byte log := by
    intro h0 hw hk hn hr
    have h1 := h h0 hw hk hn hr
    rw [hreply ea n hk] at h1
    obtain ⟨s1, hc, hb, hm, hq⟩ := h1
    exact ⟨s1, hc, hb, hm, hq.fe, hq.poison, hq.cycle, hq.thread⟩
  have hst {srcs : List Src} {i : Instr} {ea : Word} {n : Nat}
      (h : Ready s t srcs → inWindowRegion ea = true → windowKey p c ea = some (key, lat) → ea.toNat % n = 0 →
        redPending s p t.tid key n = false →
        WindowStores s srcs (exec i s) key n (fun k => (t.src.g[d]).extractLsb' (8 * k) 8)
          (storeCommit n d ea (windowPlace s key lat n) (storeValue t d n))) : store srcs i ea n := hstore h
  have lo (ty : LdType) (h : Ready s t [a]) := loadWord_window (ty := ty) (key := key) (lat := lat) d h (fun t => eaOffset t a off)
  have lx (ty : LdType) (h : Ready s t [a, b]) :=
    loadWord_window (ty := ty) (key := key) (lat := lat) d h (fun t => eaIndexed t a b ty.bytes)
  have so (ty : StType) (h : Ready s t [a]) := storeWord_window (ty := ty) (key := key) (lat := lat) d h hm (fun t => eaOffset t a off)
  have sx (ty : StType) (h : Ready s t [a, b]) :=
    storeWord_window (ty := ty) (key := key) (lat := lat) d h hm (fun t => eaIndexed t a b ty.bytes)
  have sv : stores [a] (.vst vd a off) e 64 (fun k => t.v[vd].extractLsb' (8 * k) 8) [.vecStore vd.val (vecXor t.v[vd])] :=
    hstore (srcs := [a]) (i := .vst vd a off) (ea := e) (n := 64) (byte := fun k => t.v[vd].extractLsb' (8 * k) 8)
      (log := [.vecStore vd.val (vecXor t.v[vd])]) fun h => vst_window h hm
  refine ⟨hload (lo .s8), hload (lo .s16), hload (lo .s32), hload (lo .s64), hload (lo .z8), hload (lo .z16), hload (lo .z32),
    hload (lx .s8), hload (lx .s16), hload (lx .s32), hload (lx .s64), hload (lx .z8), hload (lx .z16), hload (lx .z32),
    hload vld_window, hst (so .b8), hst (so .b16), hst (so .b32), hst (so .b64), hst (sx .b8), hst (sx .b16),
    hst (sx .b32), hst (sx .b64), sv, fun i n hi h hw hk hn hr => ?_⟩
  have wl (ty : LdType) (hn : e.toNat % ty.bytes = 0) (hr : redPending s p t.tid key ty.bytes = true) :=
    loadWord_waits d h (fun t => eaOffset t a off) hw hk hn hr
  have ws (ty : StType) (hn : e.toNat % ty.bytes = 0) (hr : redPending s p t.tid key ty.bytes = true) :=
    storeWord_waits d h (fun t => eaOffset t a off) hw hk hn hr
  fin_cases hi
  · exact wl .s8 hn hr
  · exact wl .s16 hn hr
  · exact wl .s32 hn hr
  · exact wl .s64 hn hr
  · exact wl .z8 hn hr
  · exact wl .z16 hn hr
  · exact wl .z32 hn hr
  · exact ws .b8 hn hr
  · exact ws .b16 hn hr
  · exact ws .b32 hn hr
  · exact ws .b64 hn hr
  · exact vld_waits vd h hw hk hn hr
  · exact vst_waits vd h hw hk hn hr
end

section
/-! SUPPORT. The lanes of a vector register (10 R170, R171), and the memory forms of vectors (10 R175 to R177). -/
namespace Sys2Proof.Machine

/-! ## Lanes -/

theorem lane_lt (w : Nat) (v : BitVec 512) (i : Nat) : lane w v i < 2 ^ w := Nat.mod_lt _ (by positivity)

theorem lane_mod (w : Nat) (v : BitVec 512) (i : Nat) : lane w v i % 2 ^ w = lane w v i := Nat.mod_eq_of_lt (lane_lt w v i)

theorem packLanes_lt (w : Nat) (l : List Nat) : packLanes w l < 2 ^ (w * l.length) := by
  induction l with
  | nil => exact Nat.one_pos
  | cons x l ih =>
    have hx : x % 2 ^ w < 2 ^ w := Nat.mod_lt _ (by positivity)
    calc packLanes w (x :: l) = x % 2 ^ w + 2 ^ w * packLanes w l := rfl
      _ < 2 ^ w * (packLanes w l + 1) := by rw [Nat.mul_add]; omega
      _ ≤ 2 ^ w * 2 ^ (w * l.length) := Nat.mul_le_mul_left _ ih
      _ = 2 ^ (w * (x :: l).length) := by rw [← Nat.pow_add, List.length_cons, Nat.mul_add, Nat.mul_one, Nat.add_comm]

theorem packLanes_lt_of_le {w n : Nat} {l : List Nat} (h : w * l.length ≤ n) : packLanes w l < 2 ^ n :=
  (packLanes_lt w l).trans_le (Nat.pow_le_pow_right Nat.two_pos h)

theorem packLanes_get (w : Nat) (l : List Nat) (i : Nat) : packLanes w l / 2 ^ (w * i) % 2 ^ w = l.getD i 0 % 2 ^ w := by
  induction l generalizing i with
  | nil => simp [packLanes]
  | cons x l ih =>
    have hp : 0 < 2 ^ w := by positivity
    have hx : x % 2 ^ w < 2 ^ w := Nat.mod_lt _ hp
    cases i with
    | zero => simp [packLanes]
    | succ i =>
      rw [packLanes, Nat.mul_add, Nat.mul_one, Nat.add_comm (w * i), Nat.pow_add, ← Nat.div_div_eq_div_mul, Nat.add_mul_div_left _ _ hp,
        Nat.div_eq_of_lt hx, Nat.zero_add, ih]
      rfl

theorem toNat_ofNat_lt {n x : Nat} (h : x < 2 ^ n) : (BitVec.ofNat n x).toNat = x := by rw [BitVec.toNat_ofNat, Nat.mod_eq_of_lt h]

theorem lane_lanesVec {w : Nat} {l : List Nat} (h : w * l.length ≤ 512) (i : Nat) : lane w (lanesVec w l) i = l.getD i 0 % 2 ^ w := by
  rw [lane, lanesVec, toNat_ofNat_lt (packLanes_lt_of_le h), packLanes_get]

theorem lanes_width (ty : VType) : ty.width * ty.lanes = 512 := by cases ty <;> rfl

/-- The lanes of a vector made lane by lane. -/
theorem lane_map {w n : Nat} (h : w * n ≤ 512) (f : Nat → Nat) {i : Nat} (hi : i < n) :
    lane w (lanesVec w ((List.range n).map f)) i = f i % 2 ^ w := by
  rw [lane_lanesVec (by simpa using h)]
  simp [hi]

/-! ## Vector loads and stores -/

section
variable {s s1 s2 : State} {t : Thread} {w n : Nat} {d : VReg} {base : Word} {l : List LaneAt}

theorem vectorLoad_error {e : Res} (r : TRef) (hc : checkLanes r t needR (w / 8) l s = .error e) : vectorLoad w n d base l r t s = e := by
  rw [vectorLoad, hc]

theorem vectorStore_error {e : Res} (r : TRef) (hc : checkLanes r t needW (w / 8) l s = .error e) : vectorStore w d base l r t s = e := by
  rw [vectorStore, hc]

/-- What a vector load leaves in a lane: what was read for it, or what it held. -/
def loadedLane (t : Thread) (w : Nat) (d : VReg) (vs : List (Nat × Nat × At)) (i : Nat) : Nat :=
  match vs.find? (fun x => x.1 == i) with
  | some x => x.2.1
  | none => lane w t.v[d] i

theorem vectorLoad_ok {ps : List (LaneAt × Place)} {vs : List (Nat × Nat × At)} (r : TRef)
    (hc : checkLanes r t needR (w / 8) l s = .ok (ps, s1)) (hr : readLanes r t (w / 8) ps s1 = .ok (vs, s2)) :
    vectorLoad w n d base l r t s = .done
      { writesV d (lanesVec w ((List.range n).map (loadedLane t w d vs))) with
        log := .addr base :: vs.flatMap (fun x => stampItems x.2.2) ++ [.vec d.val (vecXor (lanesVec w ((List.range n).map (loadedLane t w d vs))))],
        lat := vs.foldl (fun m x => Nat.max m x.2.2.lat) 8 } s2 := by
  rw [vectorLoad, hc]
  dsimp only
  rw [hr]
  rfl

theorem vectorStore_ok {ps : List (LaneAt × Place)} {ws : List (Nat × Word × At)} (r : TRef)
    (hc : checkLanes r t needW (w / 8) l s = .ok (ps, s1)) (hr : readyLanes r t (w / 8) ps s1 = .ok (ws, s2)) :
    vectorStore w d base l r t s = .done
      { Commit.none with log := [.addr base, .vecStore d.val (vecXor t.v[d])], lat := ws.foldl (fun m x => Nat.max m x.2.2.lat) 8 }
      (ws.foldl (fun s x => clearStamp (putBytes s r.part x.2.2.key (w / 8) (word (lane w t.v[d] x.1))) r x.2.1) s2) := by
  rw [vectorStore, hc]
  dsimp only
  rw [hr]

/-- A lane after a vector load. -/
theorem lane_loaded (t : Thread) (w : Nat) (d : VReg) (vs : List (Nat × Nat × At)) (i : Nat) :
    loadedLane t w d vs i % 2 ^ w = match vs.find? (fun z => z.1 == i) with
      | some z => z.2.1 % 2 ^ w
      | none => lane w t.v[d] i := by
  unfold loadedLane
  cases vs.find? (fun z => z.1 == i) with
  | some z => rfl
  | none => exact lane_mod ..

end

/-- What a vector load of the lanes l does: the result of the first lane that fails its checks, or the bytes of every active lane. -/
def VectorLoads (s : State) (t : Thread) (srcs : List Src) (o : Out) (w n : Nat) (d : VReg) (base : Word) (l : List LaneAt) : Prop :=
  (∀ e, checkLanes s.cur.at_ t needR (w / 8) l s = .error e → o = .next (settle s.cur (e.clearing (syncRegs srcs)))) ∧
  (∀ ps s1 vs s2, checkLanes s.cur.at_ t needR (w / 8) l s = .ok (ps, s1) → readLanes s.cur.at_ t (w / 8) ps s1 = .ok (vs, s2) →
    Commits s s2 srcs o
      { writesV d (lanesVec w ((List.range n).map (loadedLane t w d vs))) with
        log := .addr base :: vs.flatMap (fun x => stampItems x.2.2) ++ [.vec d.val (vecXor (lanesVec w ((List.range n).map (loadedLane t w d vs))))],
        lat := vs.foldl (fun m x => Nat.max m x.2.2.lat) 8 })

theorem vectorLoad_loads {s : State} {t : Thread} {srcs : List Src} (h : Ready s t srcs) (w n : Nat) (d : VReg) (base : Thread → Word)
    (l : Thread → List LaneAt) :
    VectorLoads s t srcs (runWord srcs (fun r t s => vectorLoad w n d (base t) (l t) r t s) s) w n d (base t) (l t) := by
  refine ⟨fun e he => ?_, fun ps s1 vs s2 hc hr => runWord_commits h (vectorLoad_ok _ hc hr)⟩
  rw [runWord_ready h, vectorLoad_error _ he]

end Sys2Proof.Machine

open Sys2Proof Sys2Proof.Machine

/-- Settles O39: VLD and VST are one access of 64 bytes, the other forms check every lane and then read or write each. -/
theorem vectorMemoryResults : Obligations.VectorMemoryResults := by
  intro s s1 s2 t ty mask d vb a b off x ps vs ws e r ea n w active strided indexed loads
  have hloads {srcs : List Src} {i : Instr} {f : Nat → Word} (h : VectorLoads s t srcs (exec i s) w n d (t.rd a) (active f)) :
      loads srcs i f := by
    obtain ⟨h1, h2⟩ := h
    refine ⟨h1 e, fun hc hr => ⟨_, h2 ps s1 vs s2 hc hr, fun k hk => ?_⟩⟩
    rw [lane_map (lanes_width ty).le _ hk]
    exact lane_loaded ..
  refine ⟨fun h hr => vld_commits h d hr, fun h hr hm => ⟨_, vst_commits h d hr, fun k => ?_, ?_⟩,
    fun h => hloads (vectorLoad_loads h w n d (fun t => t.rd a) fun t => activeLanes t n mask fun i => t.rd a + word i * t.rd b),
    fun h => hloads (vectorLoad_loads h w n d (fun t => t.rd a) fun t => activeLanes t n mask (indexedLane t ty a vb)), fun h => ⟨fun hc => ?_, fun hc hr => ?_⟩⟩
  · rw [State.byte, clearStamp_mem, ← State.byte, putVector_byte hm]
  · rw [MemoryCanonical, clearStamp_mem]
    exact putVector_wf hm ..
  · have he : exec (.vscat ty mask d a vb) s = execVscat ty mask d a vb s := rfl
    rw [he, execVscat, runWord_ready h]
    exact congrArg (fun x => Host.Outcome.next (settle s.cur (x.clearing (syncRegs [a])))) (vectorStore_error (l := active indexed) r hc)
  · exact runWord_commits (f := fun r t s => vectorStore w d (t.rd a) (activeLanes t n mask (indexedLane t ty a vb)) r t s) h
      (vectorStore_ok (l := active indexed) r hc hr)
end

section
/-! SUPPORT. The elementwise vector words (10 R179, R180), lane by lane. -/
namespace Sys2Proof.Machine

/-! ## Signed lanes -/

theorem slane_emod (w x : Nat) : slane w x % (2 ^ w : Int) = (x : Int) % 2 ^ w := by
  rw [slane, BitVec.toInt_ofNat', Int.bmod_def]
  push_cast
  split
  · exact Int.emod_emod_of_dvd _ dvd_rfl
  · rw [Int.sub_emod_right]; exact Int.emod_emod_of_dvd _ dvd_rfl

theorem ulane_lt (w : Nat) (i : Int) : ulane w i < 2 ^ w := by
  have h : (0 : Int) < 2 ^ w := by positivity
  have h1 := Int.emod_nonneg i h.ne'
  have h2 := Int.emod_lt_of_pos i h
  have h3 : ((ulane w i : Nat) : Int) < ((2 ^ w : Nat) : Int) := by
    rw [ulane, Int.toNat_of_nonneg h1]; push_cast; exact h2
  exact_mod_cast h3

/-- A lane is known by its number modulo 2^w. -/
theorem ulane_eq {w n : Nat} {i : Int} (h : i % (2 ^ w : Int) = (n : Int) % 2 ^ w) : ulane w i = n % 2 ^ w := by
  rw [ulane, h]
  have : ((n : Int) % 2 ^ w) = ((n % 2 ^ w : Nat) : Int) := by push_cast; rfl
  rw [this, Int.toNat_natCast]

theorem ulane_slane (w x : Nat) : ulane w (slane w x) = x % 2 ^ w := ulane_eq (slane_emod w x)

theorem ulane_add (w x y : Nat) : ulane w (slane w x + slane w y) = (x + y) % 2 ^ w := by
  apply ulane_eq
  rw [Int.add_emod, slane_emod, slane_emod, ← Int.add_emod]; push_cast; rfl

theorem ulane_mul (w x y : Nat) : ulane w (slane w x * slane w y) = (x * y) % 2 ^ w := by
  apply ulane_eq
  rw [Int.mul_emod, slane_emod, slane_emod, ← Int.mul_emod]; push_cast; rfl

theorem ulane_fma (w z x y : Nat) : ulane w (slane w z + slane w x * slane w y) = (z + x * y) % 2 ^ w := by
  apply ulane_eq
  rw [Int.add_emod, slane_emod, Int.mul_emod, slane_emod, slane_emod, ← Int.mul_emod, ← Int.add_emod]; push_cast; rfl

theorem ulane_sub {w x y : Nat} (hy : y < 2 ^ w) : ulane w (slane w x - slane w y) = (x + 2 ^ w - y) % 2 ^ w := by
  apply ulane_eq
  have h : ((x + 2 ^ w - y : Nat) : Int) = x - y + 2 ^ w := by
    rw [Nat.cast_sub (by omega)]; push_cast; ring
  rw [Int.sub_emod, slane_emod, slane_emod, ← Int.sub_emod, h, Int.add_emod_right]

/-! ## Words that write a vector register lane by lane -/

/-- A word that leaves in each active lane n of vd what f gives, modulo 2^w. -/
def GivesLanes (s : State) (t : Thread) (srcs : List Src) (o : Out) (ty : VType) (mask : Option MReg) (d : VReg) (f : Nat → Nat) : Prop :=
  ∃ v, Completes s t srcs o (writesV d v) ∧ ∀ n, n < ty.lanes →
    lane ty.width v n = if laneActive t mask n then f n % 2 ^ ty.width else lane ty.width t.v[d] n

section
variable {s : State} {t : Thread} {srcs : List Src} {ty : VType} {mask : Option MReg} {d a b : VReg}

theorem lane_vlanes (f : Nat → Nat) {n : Nat} (hn : n < ty.lanes) :
    lane ty.width (vlanes t ty.width ty.lanes mask d f) n =
      if laneActive t mask n then f n % 2 ^ ty.width else lane ty.width t.v[d] n := by
  rw [vlanes, lane_map (lanes_width ty).le _ hn]
  split
  · rfl
  · exact lane_mod ..

/-- A word made of `vlanes`, whose lanes agree modulo 2^w with those of f. -/
theorem vlanes_gives (h : Ready s t srcs) (g : Thread → Nat → Nat) {f : Nat → Nat}
    (hf : ∀ n, g t n % 2 ^ ty.width = f n % 2 ^ ty.width) :
    GivesLanes s t srcs (runPure srcs (fun t => vecCommit d (vlanes t ty.width ty.lanes mask d (g t))) s) ty mask d f :=
  ⟨_, vecWord_completes h d _, fun n hn => by rw [lane_vlanes _ hn, hf]⟩

theorem vec3_gives (h : Ready s t []) {g f : Nat → Nat → Nat → Nat}
    (hf : ∀ z x y, y < 2 ^ ty.width → g z x y % 2 ^ ty.width = f z x y % 2 ^ ty.width) :
    GivesLanes s t [] (vec3 ty mask d a b g s) ty mask d
      (fun n => f (lane ty.width t.v[d] n) (lane ty.width t.v[a] n) (lane ty.width t.v[b] n)) :=
  vlanes_gives h (fun t i => g (lane ty.width t.v[d] i) (lane ty.width t.v[a] i) (lane ty.width t.v[b] i)) fun n => hf _ _ _ (lane_lt ..)

/-- The integer form of an elementwise word. -/
theorem laneOp_int_gives (h : Ready s t []) (hi : ty.isInt = true) {fi : Int → Int → Int → Int} (ff : Fmt → Nat → Nat → Nat → FRes)
    {f : Nat → Nat → Nat → Nat}
    (hf : ∀ z x y, y < 2 ^ ty.width → ulane ty.width (fi (slane ty.width z) (slane ty.width x) (slane ty.width y)) = f z x y % 2 ^ ty.width) :
    GivesLanes s t [] (vec3 ty mask d a b (laneOp ty fi ff) s) ty mask d
      (fun n => f (lane ty.width t.v[d] n) (lane ty.width t.v[a] n) (lane ty.width t.v[b] n)) :=
  vec3_gives h fun z x y hy => by rw [laneOp, if_pos hi, hf z x y hy, Nat.mod_mod]

/-- Its float form. -/
theorem laneOp_float_gives (h : Ready s t []) (hi : ty.isInt = false) (fi : Int → Int → Int → Int) (ff : Fmt → Nat → Nat → Nat → FRes) :
    GivesLanes s t [] (vec3 ty mask d a b (laneOp ty fi ff) s) ty mask d
      (fun n => (ff ty.fmt (lane ty.width t.v[d] n) (lane ty.width t.v[a] n) (lane ty.width t.v[b] n)).bits) :=
  vec3_gives (f := fun z x y => (ff ty.fmt z x y).bits) h fun z x y _ => by rw [laneOp, if_neg (by rw [hi]; decide)]

end

end Sys2Proof.Machine

open Sys2Proof Sys2Proof.Machine

/-- Settles O14: each word is `vec3` of a function that agrees with the table's modulo 2^w. -/
theorem vectorLaneResults : Obligations.VectorLaneResults := by
  intro s t ty mask d a b h w gives
  refine ⟨fun hi => ⟨?_, ?_, ?_, ?_, ?_, ?_⟩, fun hi => ⟨?_, ?_, ?_, ?_, ?_, ?_⟩, ?_, ?_, ?_, ?_, ?_, ?_⟩
  · exact laneOp_int_gives (fi := fun _ x y => x + y) (f := fun _ x y => x + y) h hi (fun f _ x y => f.add x y) fun z x y _ => ulane_add ..
  · exact laneOp_int_gives (fi := fun _ x y => x - y) (f := fun _ x y => x + 2 ^ w - y) h hi (fun f _ x y => f.sub x y)
      fun z x y hy => ulane_sub hy
  · exact laneOp_int_gives (fi := fun _ x y => x * y) (f := fun _ x y => x * y) h hi (fun f _ x y => f.mul x y) fun z x y _ => ulane_mul ..
  · exact laneOp_int_gives (fi := fun z x y => z + x * y) (f := fun z x y => z + x * y) h hi (fun f z x y => f.fma z x y)
      fun z x y _ => ulane_fma ..
  · exact laneOp_int_gives (fi := fun _ x y => if x ≤ y then x else y) (f := fun _ x y => if slane w x ≤ slane w y then x else y) h hi
      (fun f _ x y => f.min x y) fun z x y _ => by split <;> exact ulane_slane ..
  · exact laneOp_int_gives (fi := fun _ x y => if x ≥ y then x else y) (f := fun _ x y => if slane w x ≥ slane w y then x else y) h hi
      (fun f _ x y => f.max x y) fun z x y _ => by split <;> exact ulane_slane ..
  · exact laneOp_float_gives h hi (fun _ x y => x + y) fun f _ x y => f.add x y
  · exact laneOp_float_gives h hi (fun _ x y => x - y) fun f _ x y => f.sub x y
  · exact laneOp_float_gives h hi (fun _ x y => x * y) fun f _ x y => f.mul x y
  · exact laneOp_float_gives h hi (fun z x y => z + x * y) fun f z x y => f.fma z x y
  · exact laneOp_float_gives h hi (fun _ x y => if x ≤ y then x else y) fun f _ x y => f.min x y
  · exact laneOp_float_gives h hi (fun _ x y => if x ≥ y then x else y) fun f _ x y => f.max x y
  · exact vec3_gives (g := fun _ x y => x &&& y) (f := fun _ x y => x &&& y) h fun _ _ _ _ => rfl
  · exact vec3_gives (g := fun _ x y => x ||| y) (f := fun _ x y => x ||| y) h fun _ _ _ _ => rfl
  · exact vec3_gives (g := fun _ x y => x ^^^ y) (f := fun _ x y => x ^^^ y) h fun _ _ _ _ => rfl
  · refine vec3_gives (g := fun _ x y => if ty.width ≤ y then 0 else x * 2 ^ y % 2 ^ ty.width) (f := fun _ x y => if w ≤ y then 0 else x * 2 ^ y)
      h fun z x y _ => ?_
    split
    · rfl
    · exact Nat.mod_mod ..
  · exact vec3_gives (g := fun _ x y =>
        if ty.width ≤ y then (if slane ty.width x < 0 then 2 ^ ty.width - 1 else 0) else ulane ty.width (slane ty.width x / (2 ^ y : Int)))
      (f := fun _ x y => if w ≤ y then (if slane w x < 0 then 2 ^ w - 1 else 0) else (slane w x / 2 ^ y % 2 ^ w).toNat) h fun _ _ _ _ => rfl
  · exact vlanes_gives h (fun t i => lane ty.width t.v[a] (lane ty.width t.v[b] i % ty.lanes))
      (f := fun i => lane w t.v[a] (lane w t.v[b] i % ty.lanes)) fun _ => rfl
end

section
/-! SUPPORT. Dot products, selections, compares and reductions of vectors (10 R181 to R184, 05 R82). -/
namespace Sys2Proof.Machine

/-! ## Dot products -/

theorem f32_deliver_lt (v : FVal) : (Fmt.f32.deliver v).bits < 2 ^ 32 := by
  obtain ⟨neg, c, hb, hc⟩ := Fmt.deliver_bits (fmt_ieee .f32).1 v
  change c < 2 ^ 31 at hc
  rw [show Fmt.f32 = FType.f32.fmt from rfl, hb]
  cases neg
  · change 0 + c < 2 ^ 32; omega
  · change 2 ^ 31 + c < 2 ^ 32; omega

theorem vecNf_some {desc : Word} {n : Nf} (h : vecNf desc = some n) : nfOf desc = some n := by
  unfold vecNf at h
  generalize nfOf desc = o at h ⊢
  cases o with
  | none => cases h
  | some m =>
    dsimp only at h
    split at h
    · exact h
    · cases h

/-- The value of an element of .nf under a valid descriptor. -/
theorem dotVal_nf {desc : Word} {n : Nf} (h : vecNf desc = some n) (x : Nat) : dotVal .nf desc x = n.val x := by
  unfold dotVal; rw [vecNf_some h]

theorem dotVal_eq {ty : VType} {desc : Word} (h : ¬ (ty = .nf ∧ vecNf desc = none)) (x : Nat) :
    dotVal ty desc x = if ty = .nf then ((vecNf desc).map (fun n => n.val x)).getD (.nan false) else ty.fmt.val x := by
  by_cases hty : ty = .nf
  · subst hty
    obtain ⟨n, hn⟩ := Option.ne_none_iff_exists'.mp fun hv => h ⟨rfl, hv⟩
    rw [if_pos rfl, dotVal_nf hn, hn]; rfl
  · rw [if_neg hty]; cases ty <;> first | rfl | exact absurd rfl hty

theorem foldl_add_sum (l : List Int) (z : Int) : l.foldl (· + ·) z = z + l.sum := by
  induction l generalizing z with
  | nil => simp
  | cons x l ih => rw [List.foldl_cons, ih, List.sum_cons, add_assoc]

theorem lane_vlanes32 {t : Thread} {mask : Option MReg} {d : VReg} (f : Nat → Nat) {j : Nat} (hj : j < 16) :
    lane 32 (vlanes t 32 16 mask d f) j = if laneActive t mask j = false then lane 32 t.v[d] j else f j % 2 ^ 32 := by
  rw [vlanes, lane_map (by decide) _ hj]
  cases laneActive t mask j
  · exact lane_mod ..
  · rfl

/-! ## Masks from their bits -/

theorem getLsbD_maskOfBits_range (f : Nat → Bool) (n i : Nat) (acc : BitVec 64) (hi : i < 64) :
    ((List.range n).foldl (fun acc i => if f i then acc ||| (1#64 <<< i) else acc) acc).getLsbD i = (acc.getLsbD i || (decide (i < n) && f i)) := by
  induction n with
  | zero => simp
  | succ n ih =>
    rw [List.range_succ, List.foldl_append, List.foldl_cons, List.foldl_nil]
    have hbit : (1#64 <<< n).getLsbD i = decide (i = n) := by
      rw [BitVec.getLsbD_shiftLeft, BitVec.getLsbD_one]
      by_cases h : i = n
      · simp [h, show n < 64 by omega]
      · simp [h, hi]; omega
    by_cases hin : i = n
    · subst hin
      cases hf : f i <;> simp_all
    · have hlt : decide (i < n + 1) = decide (i < n) := decide_eq_decide.mpr (by omega)
      cases hf : f n <;> simp_all

theorem getLsbD_maskOfBits (f : Nat → Bool) (n : Nat) {i : Nat} (hi : i < 64) : (maskOfBits n f).getLsbD i = (decide (i < n) && f i) := by
  rw [maskOfBits, getLsbD_maskOfBits_range f n i 0 hi]; simp

/-! ## The tree of R82 -/

section
variable (f : Nat → Nat → Nat)

theorem redLevel_getD (l : List Nat) (i : Nat) (h : 2 * i + 1 < l.length) :
    (redLevel f l).getD i 0 = f (l.getD (2 * i) 0) (l.getD (2 * i + 1) 0) := by
  fun_induction redLevel f l generalizing i with
  | case1 x y l ih =>
    cases i with
    | zero => rfl
    | succ i => simpa [Nat.mul_add] using ih i (by simp at h; omega)
  | case2 l hl =>
    match l, hl, h with
    | x :: y :: l, hl, _ => exact absurd rfl (hl x y l)

theorem redLevel_length (l : List Nat) : l.length / 2 ≤ (redLevel f l).length := by
  fun_induction redLevel f l with
  | case1 x y l ih => simp only [List.length_cons]; omega
  | case2 l => omega

/-- The lanes of the tree's level k. -/
def redLanes (l : List Nat) : Nat → List Nat
  | 0 => l
  | k + 1 => redLevel f (redLanes l k)

theorem redLanes_redLevel (l : List Nat) (k : Nat) : redLanes f (redLevel f l) k = redLanes f l (k + 1) := by
  induction k with
  | zero => rfl
  | succ k ih => rw [redLanes, ih]; rfl

theorem redTree_eq (l : List Nat) (k : Nat) : redTree f k l = (redLanes f l k).getD 0 0 := by
  induction k generalizing l with
  | zero => cases l <;> rfl
  | succ k ih => rw [redTree, ih, redLanes_redLevel]

theorem redLanes_length (l : List Nat) (k : Nat) : l.length / 2 ^ k ≤ (redLanes f l k).length := by
  induction k with
  | zero => simp [redLanes]
  | succ k ih =>
    calc l.length / 2 ^ (k + 1) = l.length / 2 ^ k / 2 := by rw [Nat.div_div_eq_div_mul, Nat.pow_succ]
      _ ≤ (redLanes f l k).length / 2 := Nat.div_le_div_right ih
      _ ≤ _ := redLevel_length ..

/-- Lane i of the next level is lane 2i combined with lane 2i + 1, as far as the lanes reach. -/
theorem redLanes_succ (l : List Nat) (k i : Nat) (h : 2 ^ (k + 1) * (i + 1) ≤ l.length) :
    (redLanes f l (k + 1)).getD i 0 = f ((redLanes f l k).getD (2 * i) 0) ((redLanes f l k).getD (2 * i + 1) 0) := by
  refine redLevel_getD f _ i ?_
  have h1 : 2 * (i + 1) ≤ l.length / 2 ^ k := (Nat.le_div_iff_mul_le (by positivity)).mpr (by rw [Nat.pow_succ] at h; linarith)
  have := redLanes_length f l k
  omega

end

/-- The least or the greatest of two lanes in a float reduction (R82, R184): a NaN gives the canonical NaN, and -0 ranks below +0. -/
def redLeast (f : Fmt) (greatest : Bool) (x y : Nat) : Nat :=
  if (f.val x).isNan || (f.val y).isNan then f.nanBits
  else if (f.val x).isZero && (f.val y).isZero then (if (f.val x).sign != greatest then x else y)
  else if (if greatest then valLt (f.val x) (f.val y) else valLt (f.val y) (f.val x)) then y else x

theorem redFloat_min (f : Fmt) (x y : Nat) : redFloat f f.min x y = redLeast f false x y := by
  rw [redFloat, redLeast, Fmt.min_eq]
  cases (f.val x).isNan <;> cases (f.val y).isNan <;> simp

theorem redFloat_max (f : Fmt) (x y : Nat) : redFloat f f.max x y = redLeast f true x y := by
  rw [redFloat, redLeast, Fmt.max_eq]
  cases (f.val x).isNan <;> cases (f.val y).isNan <;> cases (f.val x).sign <;> simp

/-- Two lanes combined, with the float cases by `redLeast`. -/
theorem redCombine_eq (op : RedOp) (ty : VType) (x y : Nat) : redCombine op ty x y = match op with
    | .add => if ty.isInt then (x + y) % 2 ^ ty.width else (ty.fmt.deliver (sumVal [ty.fmt.val x, ty.fmt.val y])).bits
    | .min => if ty.isInt then (if slane ty.width x ≤ slane ty.width y then x else y) else redLeast ty.fmt false x y
    | .max => if ty.isInt then (if slane ty.width x ≥ slane ty.width y then x else y) else redLeast ty.fmt true x y
    | .and => x &&& y
    | .or => x ||| y
    | .xor => x ^^^ y := by
  cases op
  case min => rw [redCombine, redFloat_min]
  case max => rw [redCombine, redFloat_max]
  all_goals rfl

end Sys2Proof.Machine

open Sys2Proof Sys2Proof.Machine

/-- Settles O15: a word reads its lanes and writes them by `vlanes`; the tree's levels are the lists that `redLevel` leaves, of which the next
holds at i the combination of lanes 2i and 2i + 1. -/
theorem vectorReduceResults : Obligations.VectorReduceResults := by
  intro s t ty mask mr md d a b g cc op h w f elem
  have hel : ¬ (ty = .nf ∧ (vecNf t.fa = none ∨ vecNf t.fb = none)) →
      dotVal ty t.fa = elem t.fa ∧ dotVal ty t.fb = elem t.fb := fun hnf =>
    ⟨funext fun x => dotVal_eq (fun hx => hnf ⟨hx.1, .inl hx.2⟩) x, funext fun x => dotVal_eq (fun hx => hnf ⟨hx.1, .inr hx.2⟩) x⟩
  have he : exec (.vdot ty mask d a b) s = execVdot ty mask d a b s := rfl
  refine ⟨fun hnf => ?_, fun hnf => ?_, ?_, ?_, ?_⟩
  · refine ⟨vlanes t 32 16 mask d (fun j => dotLane ty t (lane 32 t.v[d] j) a b j), ?_, fun j hj => ?_⟩
    · have hc : ¬ (ty == .nf && ((vecNf t.fa).isNone || (vecNf t.fb).isNone)) = true := by simpa using hnf
      rw [he]
      exact (runWord_completes (c := vecCommit d _) h (if_neg hc) rfl rfl).log []
    · intro n z x y
      rw [lane_vlanes32 _ hj]
      congr 1
      rw [dotLane, (hel hnf).1, (hel hnf).2]
      split
      · rw [Nat.mod_eq_of_lt (ulane_lt ..), foldl_add_sum, zero_add, List.map_map]; rfl
      · rw [Nat.mod_eq_of_lt (f32_deliver_lt _), List.map_map]; rfl
  · have hc : (ty == .nf && ((vecNf t.fa).isNone || (vecNf t.fb).isNone)) = true := by simpa using hnf
    rw [he, execVdot]
    exact runWord_faults h (if_pos hc)
  · refine ⟨_, vecWord_completes h d _, fun i hi => ?_⟩
    rw [lane_vlanes _ hi]
    rw [if_pos (show laneActive t none i = true from rfl)]
    split <;> exact lane_mod ..
  · refine ⟨_, maskWord_completes h md _, fun i hi => ?_⟩
    rw [getLsbD_maskOfBits _ _ hi, Bool.and_assoc]
  · intro top identity least both
    have hid : redIdentity op ty = identity := by cases op <;> rfl
    let l := (List.range ty.lanes).map (fun i => if laneActive t mask i then lane ty.width t.v[a] i else redIdentity op ty)
    refine ⟨fun k i => (redLanes (redCombine op ty) l k).getD i 0, fun i hi => ?_, fun k i hk => ?_, ?_⟩
    · have hi' : i < l.length := by simpa [l] using hi
      calc (redLanes (redCombine op ty) l 0).getD i 0 = l[i] := List.getD_eq_getElem _ _ hi'
        _ = if laneActive t mask i then lane ty.width t.v[a] i else redIdentity op ty := by simp [l]
        _ = if laneActive t mask i then lane ty.width t.v[a] i else identity := by rw [hid]
    · exact (redLanes_succ (redCombine op ty) l k i (by simpa [l] using hk)).trans (redCombine_eq op ty _ _)
    · have hc := aluWord_completes h g (fun t => ty.toReg (redTree (redCombine op ty) (Nat.log2 ty.lanes)
        ((List.range ty.lanes).map (fun i => if laneActive t mask i then lane ty.width t.v[a] i else redIdentity op ty))))
      rw [redTree_eq] at hc
      exact hc
end

section
/-! SUPPORT. What counting an event leaves of the machine (28 R411), and what the lookup of an access finds (12 R199 to R205, R214). -/
namespace Sys2Proof.Machine

/-! ## Walks -/

/-- The last level of a walk. -/
theorem walkLevel_zero (s : State) (p : PartId) (va frame : Nat) : walkLevel s p va 0 frame =
    let k := keyMain p (frame * 2 ^ 16 + 8 * tableIndex 0 va)
    let e := memRead s.mem k 8
    if s.linePoisoned k || nmem (s.part p).badTables frame then .poisoned 0 frame
    else if e % 2 == 0 then .page 0
    else if leafBad 0 e then .format 0
    else if nmem (s.part p).retired ((mkLeaf 0 va e k).frame va) then .retired (mkLeaf 0 va e k) else .leaf (mkLeaf 0 va e k) := by
  rfl

/-- A level above the last. -/
theorem walkLevel_succ (s : State) (p : PartId) (va frame n : Nat) : walkLevel s p va (n + 1) frame =
    let k := keyMain p (frame * 2 ^ 16 + 8 * tableIndex (n + 1) va)
    let e := memRead s.mem k 8
    if s.linePoisoned k || nmem (s.part p).badTables frame then .poisoned (n + 1) frame
    else if e % 2 == 0 then .page (n + 1)
    else if n + 1 == 0 || (n + 1 == 1 && e / 2 ^ 55 % 2 == 1) then
      if leafBad (n + 1) e then .format (n + 1)
      else if nmem (s.part p).retired ((mkLeaf (n + 1) va e k).frame va) then .retired (mkLeaf (n + 1) va e k) else .leaf (mkLeaf (n + 1) va e k)
    else if pointerReserved e then .format (n + 1)
    else walkLevel s p va n (e / 2 ^ 16 % 2 ^ 32) := by
  rfl

/-- A walk reads memory, poison, the listed tables and the retired pages, and nothing else. -/
theorem walkLevel_congr {s s' : State} (p : PartId) (va : Nat) (hm : s'.mem = s.mem) (hp : s'.poison = s.poison)
    (hb : (s'.part p).badTables = (s.part p).badTables) (hr : (s'.part p).retired = (s.part p).retired) (level : Nat) :
    ∀ frame, walkLevel s' p va level frame = walkLevel s p va level frame := by
  have hl : ∀ k, s'.linePoisoned k = s.linePoisoned k := fun k => by rw [State.linePoisoned, State.linePoisoned, hp]
  induction level with
  | zero =>
    intro frame
    rw [walkLevel_zero, walkLevel_zero, hm, hb, hr]
    simp only [hl]
  | succ n ih =>
    intro frame
    rw [walkLevel_succ, walkLevel_succ, hm, hb, hr]
    simp only [hl, ih]
/-! ## Counting -/

/-- The states differ in performance counters, their trace conditions and the marks of what hardware set in this cycle, and in nothing else. -/
structure Counted (s s' : State) : Prop where
  state : s' = { s with parts := s'.parts, hwNow := s'.hwNow, mtsNow := s'.mtsNow }
  part : ∀ p, s'.part p = { s.part p with cores := (s'.part p).cores }
  world : ∀ p c, (s'.core p c).w = { (s.core p c).w with pcnt := (s'.core p c).w.pcnt }
  fixed : ∀ p c, (s'.core p c).c = { (s.core p c).c with trcNow := (s'.core p c).c.trcNow }

theorem Counted.refl (s : State) : Counted s s := ⟨rfl, fun _ => rfl, fun _ _ => rfl, fun _ _ => rfl⟩

theorem Counted.trans {s s1 s2 : State} (h : Counted s s1) (k : Counted s1 s2) : Counted s s2 where
  state := by have e := k.state; rw [h.state] at e; exact e
  part p := by have e := k.part p; rw [h.part p] at e; exact e
  world p c := by have e := k.world p c; rw [h.world p c] at e; exact e
  fixed p c := by have e := k.fixed p c; rw [h.fixed p c] at e; exact e

/-- A change of one core that keeps all but its counters and trace conditions. -/
theorem counted_setCore (s : State) (p : PartId) (c : CoreId) (k : Core) (hw : k.w = { (s.core p c).w with pcnt := k.w.pcnt })
    (hc : k.c = { (s.core p c).c with trcNow := k.c.trcNow }) : Counted s (s.setCore p c k) := by
  have hcore : ∀ p' c', (s.setCore p c k).core p' c' = if p' = p ∧ c' = c then k else s.core p' c' := fun p' c' => by
    split
    · next h => obtain ⟨rfl, rfl⟩ := h; exact State.core_setCore ..
    · next h => exact State.core_setCore_ne _ _ (not_and_or.mp h)
  refine ⟨rfl, fun p' => ?_, fun p' c' => ?_, fun p' c' => ?_⟩
  · by_cases h : p' = p
    · subst h; rw [State.setCore, State.part_modPart]
    · rw [State.setCore, State.part_modPart_ne _ _ h]
  · rw [hcore]
    split
    · next h => obtain ⟨rfl, rfl⟩ := h; exact hw
    · rfl
  · rw [hcore]
    split
    · next h => obtain ⟨rfl, rfl⟩ := h; exact hc
    · rfl

theorem counted_modCoreW (s : State) (p : PartId) (c : CoreId) (f : CoreWorld → CoreWorld)
    (hf : f (s.core p c).w = { (s.core p c).w with pcnt := (f (s.core p c).w).pcnt }) : Counted s (s.modCoreW p c f) :=
  counted_setCore s p c _ hf rfl

theorem counted_modCoreC (s : State) (p : PartId) (c : CoreId) (f : CoreFixed → CoreFixed)
    (hf : f (s.core p c).c = { (s.core p c).c with trcNow := (f (s.core p c).c).trcNow }) : Counted s (s.modCoreC p c f) :=
  counted_setCore s p c _ rfl hf

theorem counted_hwSet (s : State) (p : PartId) (c : CoreId) (x : SysReg) (b : Nat) : Counted s (s.hwSet p c x b) :=
  ⟨rfl, fun _ => rfl, fun _ _ => rfl, fun _ _ => rfl⟩

theorem counted_mtsSet (s : State) (p : PartId) (c : CoreId) (x : SysReg) (v : Word) : Counted s (s.mtsSet p c x v) :=
  ⟨rfl, fun _ => rfl, fun _ _ => rfl, fun _ _ => rfl⟩

theorem counted_noteWrap (s : State) (p : PartId) (c : CoreId) (i : Fin 4) : Counted s (noteWrap s p c i) := by
  unfold noteWrap
  dsimp only
  split
  · exact ((counted_modCoreW _ _ _ _ rfl).trans (counted_hwSet ..)).trans (counted_modCoreC _ _ _ _ rfl)
  · exact (counted_modCoreW _ _ _ _ rfl).trans (counted_hwSet ..)

theorem counted_countReg (s : State) (p : PartId) (c : CoreId) (n : Nat) (i : Fin 4) : Counted s (countReg s p c n i) := by
  unfold countReg
  split <;> dsimp only <;> split
  · exact (counted_mtsSet ..).trans (counted_noteWrap ..)
  · exact counted_mtsSet ..
  · exact (counted_modCoreW _ _ _ _ rfl).trans (counted_noteWrap ..)
  · exact counted_modCoreW _ _ _ _ rfl

theorem counted_foldl {α : Type} (f : State → α → State) (h : ∀ s a, Counted s (f s a)) (l : List α) : ∀ s, Counted s (l.foldl f s) := by
  induction l with
  | nil => exact Counted.refl
  | cons a l ih => exact fun s => (h s a).trans (ih _)

/-- An event counted leaves all but counters as it was (R411). -/
theorem counted_count (s : State) (p : PartId) (c : CoreId) (code : Nat) (sl : Option SlotId) (n : Nat) :
    Counted s (s.count p c code sl n) := by
  unfold State.count
  split
  · exact counted_foldl _ (fun s i => counted_countReg s p c n i) _ s
  · exact Counted.refl s

section
variable {s s' : State} (h : Counted s s')
include h

theorem Counted.mem : s'.mem = s.mem := (congrArg State.mem h.state :)
theorem Counted.poison : s'.poison = s.poison := (congrArg State.poison h.state :)
theorem Counted.r (p : PartId) : (s'.part p).r = (s.part p).r := (congrArg Partition.r (h.part p) :)
theorem Counted.retired (p : PartId) : (s'.part p).retired = (s.part p).retired := (congrArg Partition.retired (h.part p) :)
theorem Counted.badTables (p : PartId) : (s'.part p).badTables = (s.part p).badTables := (congrArg Partition.badTables (h.part p) :)
theorem Counted.tcache (p : PartId) : (s'.part p).tcache = (s.part p).tcache := (congrArg Partition.tcache (h.part p) :)
theorem Counted.plb (p : PartId) (c : CoreId) : (s'.core p c).c.plb = (s.core p c).c.plb := (congrArg CoreFixed.plb (h.fixed p c) :)

/-- Counting changes no table that a walk reads. -/
theorem Counted.walkPage (p : PartId) (a : Word) : walkPage s' p a = walkPage s p a := by
  simp only [Machine.walkPage, h.r, walkLevel_congr p _ h.mem h.poison (h.badTables p) (h.retired p)]

end

/-! ## The list of poisoned tables (R205) -/

theorem poisonTable_listed {s s' : State} (h : Counted s s') {p : PartId} {frame : Nat}
    (hl : nmem (s.part p).badTables frame = true ∨ (s.part p).badTables.length < 64) :
    ∃ s1, poisonTable s' p frame = (s1, false) ∧ s1.mem = s.mem := by
  rw [poisonTable, h.badTables]
  by_cases hn : nmem (s.part p).badTables frame = true
  · exact ⟨s', if_pos hn, h.mem⟩
  · exact ⟨_, (if_neg hn).trans (if_pos (hl.resolve_left hn)), h.mem⟩

theorem poisonTable_full {s s' : State} (h : Counted s s') {p : PartId} {frame : Nat}
    (hl : ¬ (nmem (s.part p).badTables frame = true ∨ (s.part p).badTables.length < 64)) : poisonTable s' p frame = (s', true) := by
  rw [poisonTable, h.badTables]
  exact (if_neg fun hn => hl (.inl hn)).trans (if_neg fun hn => hl (.inr hn))

/-! ## The lookup (R199, R200) -/

section
variable {s s1 : State} {r : TRef} {t : Thread} {need : BitVec 4} {ea : Word} {e : PlbEntry}

/-- The state in which a miss of the PLB goes on: the miss counted. -/
def missed (s : State) (r : TRef) : State := s.count r.part r.core 6 (some r.slot) 1

theorem plbLookup_found (hf : plbFind (s.core r.part r.core).c.plb (va57 ea) t.ctx = some e) :
    plbLookup s r t ea = if nmem (s.part r.part).retired (e.leaf.frame (va57 ea)) then .error (walkDrop s r.part (.retired e.leaf) ea)
      else .ok (e, s.modCoreC r.part r.core (fun k => { k with plb := plbTouch k.plb e })) := by
  rw [plbLookup, hf, plbEntry]
  simp only [Option.isNone_some, Bool.false_eq_true, if_false, hf]

/-- What a walk leaves in the PLB for the context of a thread (R199). -/
def walkedEntry (s : State) (r : TRef) (t : Thread) (l : Leaf) : PlbEntry :=
  { leaf := l, ctx := t.ctx, domValid := (domainEntry s r.part l.dom).1, rights := rightsNibble s r.part t.ctx.toNat l.dom }

theorem walkedEntry_congr {s' : State} (hm : s'.mem = s.mem) (hr : (s'.part r.part).r = (s.part r.part).r) (l : Leaf) :
    walkedEntry s' r t l = walkedEntry s r t l := by
  simp only [walkedEntry, domainEntry, rightsNibble, hm, hr]

theorem plbLookup_missed (hf : plbFind (s.core r.part r.core).c.plb (va57 ea) t.ctx = none) :
    plbLookup s r t ea = plbEntry (missed s r) r.part r.core t.ctx ea := by
  rw [plbLookup, hf]; rfl

theorem missed_counted (s : State) (r : TRef) : Counted s (missed s r) := counted_count ..

section
variable (hf : plbFind (s.core r.part r.core).c.plb (va57 ea) t.ctx = none)
  (hc : (kget (s.part r.part).tcache (homeSlice (lineOf ea)).val).getD [] = [])

include hc in
/-- A walk that the slice's empty translation cache does not answer, and its leaf there from then on (R204). -/
theorem sliceWalk_leaf {l : Leaf} (hw : walkPage s r.part ea = .leaf l) : sliceWalk (missed s r) r.part ea =
    (.leaf l, (missed s r).modPart r.part (fun q => { q with tcache := kput q.tcache (homeSlice (lineOf ea)).val [l] })) := by
  have hk := missed_counted s r
  rw [sliceWalk, hk.tcache, hc, hk.walkPage, hw]
  rfl

include hc in
theorem sliceWalk_fault {w : Walked} (hw : walkPage s r.part ea = w) (hl : ∀ l, w ≠ .leaf l) :
    sliceWalk (missed s r) r.part ea = (w, missed s r) := by
  have hk := missed_counted s r
  rw [sliceWalk, hk.tcache, hc, hk.walkPage, hw]
  cases w with
  | leaf l => exact absurd rfl (hl l)
  | page _ | retired _ | poisoned _ _ | format _ => rfl

include hf hc

theorem plbLookup_leaf {l : Leaf} (hw : walkPage s r.part ea = .leaf l) :
    ∃ s1, plbLookup s r t ea = .ok (walkedEntry s r t l, s1) ∧ s1.mem = s.mem := by
  have hk := missed_counted s r
  let s2 := (missed s r).modPart r.part (fun q => { q with tcache := kput q.tcache (homeSlice (lineOf ea)).val [l] })
  have hs : sliceWalk (missed s r) r.part ea = (.leaf l, s2) := sliceWalk_leaf hc hw
  have hm : s2.mem = s.mem := hk.mem
  have hr : (s2.part r.part).r = (s.part r.part).r := (congrArg Partition.r (State.part_modPart ..)).trans (hk.r _)
  refine ⟨s2.modCoreC r.part r.core (fun k => { k with plb := plbTouch k.plb (walkedEntry s r t l) }), ?_, hm⟩
  clear_value s2
  have he : walkedEntry s2 r t l = walkedEntry s r t l := walkedEntry_congr hm hr l
  rw [plbLookup_missed hf, plbEntry, hk.plb, hf]
  dsimp only
  rw [hs, ← he]
  rfl

theorem protect_fault {w : Walked} (hw : walkPage s r.part ea = w) (hl : ∀ l, w ≠ .leaf l) :
    protect s r t need ea = .error (walkDrop (missed s r) r.part w ea) := by
  rw [protect, plbLookup_missed hf, plbEntry, (missed_counted s r).plb, hf]
  dsimp only
  rw [sliceWalk_fault hc hw hl]
  cases w with
  | leaf l => exact absurd rfl (hl l)
  | page _ | retired _ | poisoned _ _ | format _ => rfl
end

theorem entryAllows_iff (e : PlbEntry) (priv : Bool) (need : BitVec 4) : entryAllows e priv need = true ↔
    rightsOf e.domValid e.leaf.dom e.rights priv &&& need = need ∧ ¬ (need.getLsbD 1 = true ∧ e.leaf.ro = true) ∧
      ¬ (need.getLsbD 2 = true ∧ e.leaf.nx = true) := by
  cases h1 : need.getLsbD 1 <;> cases h2 : need.getLsbD 2 <;> simp [entryAllows, h1, h2, and_assoc, -BitVec.getLsbD_eq_getElem]

theorem protect_allowed (hp : plbLookup s r t ea = .ok (e, s1)) (ha : entryAllows e t.priv need = true) :
    protect s r t need ea = .ok (e.leaf, s1) := by
  rw [protect, hp]; exact if_pos ha

theorem protect_refused (hp : plbLookup s r t ea = .ok (e, s1)) (ha : ¬ entryAllows e t.priv need = true) :
    protect s r t need ea = .error (.trap .protection (some ea) s1) := by
  rw [protect, hp]; exact if_neg ha

theorem protect_dropped {x : Res} (hp : plbLookup s r t ea = .error x) : protect s r t need ea = .error x := by rw [protect, hp]

end

end Sys2Proof.Machine

open Sys2Proof Sys2Proof.Machine

/-- Settles O23: an entry found or walked serves the access by `entryAllows`; a retired page, and each end of a walk but a leaf, is the record of
`walkFault`. -/
theorem protectionLookup : Obligations.ProtectionLookup := by
  intro s t need ea r serves drops
  have hserves : ∀ e s1, plbLookup s r t ea = .ok (e, s1) → s1.mem = s.mem → serves e.leaf e.domValid e.rights := fun e s1 hp hm =>
    ⟨fun ha => ⟨s1, protect_allowed hp ((entryAllows_iff ..).mpr ha), hm⟩,
      fun ha => ⟨s1, protect_refused hp fun h => ha ((entryAllows_iff ..).mp h), hm⟩⟩
  refine ⟨fun e hf => ⟨fun hn => ?_, fun hn => ?_⟩, fun hf hc => ?_⟩
  · exact hserves e _ ((plbLookup_found hf).trans (if_neg (by rw [hn]; decide))) rfl
  · exact ⟨s, _, protect_dropped ((plbLookup_found hf).trans (if_pos hn)), rfl, rfl, rfl, rfl, rfl, rfl⟩
  · have hk := missed_counted s r
    cases hw : walkPage s r.part ea with
    | leaf l =>
      obtain ⟨s1, hp, hm⟩ := plbLookup_leaf hf hc hw
      exact hserves _ s1 hp hm
    | page level => exact ⟨missed s r, _, protect_fault hf hc hw (fun _ h => by cases h), rfl, rfl, rfl, rfl, rfl, hk.mem⟩
    | retired l => exact ⟨missed s r, _, protect_fault hf hc hw (fun _ h => by cases h), rfl, rfl, rfl, rfl, rfl, hk.mem⟩
    | format level => exact ⟨missed s r, _, protect_fault hf hc hw (fun _ h => by cases h), rfl, rfl, rfl, rfl, rfl, hk.mem⟩
    | poisoned level frame =>
      have hp := protect_fault (need := need) hf hc hw (fun _ h => by cases h)
      by_cases hlist : nmem (s.part r.part).badTables frame = true ∨ (s.part r.part).badTables.length < 64
      · obtain ⟨s1, hl, hm⟩ := poisonTable_listed hk hlist
        rw [walkDrop, walkFault, hl] at hp
        refine (if_pos hlist).mpr ?_
        exact ⟨s1, _, hp, rfl, rfl, rfl, rfl, rfl, hm⟩
      · rw [walkDrop, walkFault, poisonTable_full hk hlist] at hp
        refine (if_neg hlist).mpr ?_
        exact ⟨missed s r, _, hp, rfl, rfl, rfl, rfl, rfl, hk.mem⟩
end

section
/-! SUPPORT. FENCE, POUR and FBAR (15 R247 to R250), streams (10 R178, 18 R292), and the words that wait for jobs or ask after them
(18 R285, R286). -/
namespace Sys2Proof.Machine

/-! ## Fences -/

theorem fenced_met {s : State} {r : TRef} {t : Thread} {sc : Scope} (h : fenceMet s r t sc = true) (go : Unit → Res) :
    fenced s r t sc go = go () := if_pos h

theorem fenced_waits {s : State} {r : TRef} {t : Thread} {sc : Scope} (h : fenceMet s r t sc = false) (go : Unit → Res) :
    fenced s r t sc go = .wait (.fence sc) s := if_neg (by rw [h]; decide)

/-- A word that comes to a commit with no records in the state it ran in. -/
theorem runWord_bare {s : State} {t : Thread} {srcs : List Src} {f : TRef → Thread → State → Res} (h : Ready s t srcs) {n : Nat}
    (hf : f s.cur.at_ t s = .done (Commit.none.late n) s) : Completes s t srcs (runWord srcs f s) { Commit.none with lat := n } :=
  runWord_completes h hf rfl rfl

/-! ## Bytes in a row -/

theorem memByte_ne {m : Memory} {i k : Nat} (b : Byte) (h : i ≠ k) : memByte ((i, b) :: m) k = memByte m k := if_neg h

theorem memRead_cons_below {m : Memory} {i : Nat} (b : Byte) (n : Nat) : ∀ k, i < k → memRead ((i, b) :: m) k n = memRead m k n := by
  induction n with
  | zero => exact fun _ _ => rfl
  | succ n ih => exact fun k hk => by rw [memRead, memRead, memByte_ne b (by omega), ih (k + 1) (by omega)]

/-- What a row of bytes reads as, the first the least significant, with zeros behind it. -/
theorem memRead_row (l : List Byte) (n : Nat) : ∀ k, l.length ≤ n →
    memRead (l.mapIdx (fun i b => (k + i, b))) k n = l.foldr (fun b acc => b.toNat + 256 * acc) 0 := by
  induction l generalizing n with
  | nil =>
    intro k _
    induction n generalizing k with
    | zero => rfl
    | succ n ih => exact (congrArg (fun x => 0 + 256 * x) (ih (k + 1) (Nat.zero_le _)))
  | cons b l ih =>
    intro k hn
    obtain ⟨n, rfl⟩ := Nat.exists_eq_succ_of_ne_zero (Nat.ne_of_gt (Nat.lt_of_lt_of_le (Nat.succ_pos _) hn))
    have hf : (fun i (b : Byte) => (k + (i + 1), b)) = fun i b => (k + 1 + i, b) := by funext i b; rw [Nat.add_right_comm, Nat.add_assoc]
    rw [List.mapIdx_cons, hf, Nat.add_zero, memRead, memRead_cons_below b n (k + 1) (Nat.lt_succ_self k),
      ih n (k + 1) (Nat.le_of_succ_le_succ hn), memByte, if_pos rfl, List.foldr_cons]

/-! ## Streams -/

section
variable {s : State} {r : TRef} {t : Thread} {i : SReg} {n : Nat} {go : Nat → State → Res}

theorem streamNext_unbound (h : t.streams[i].bound = false) : streamNext i n r t s go = .trap .stream none s := by
  rw [streamNext]; exact if_pos (by rw [h]; rfl)

theorem streamNext_short (h : t.streams[i].bound = true) (hn : t.streams[i].buf.length < n) (he : t.streams[i].ended = false) :
    streamNext i n r t s go = .wait (.stream i n) s := by
  rw [streamNext]; exact (if_neg (by rw [h]; decide)).trans (if_pos ⟨hn, by rw [he]; rfl⟩)

theorem streamNext_over (h : t.streams[i].bound = true) (he : t.streams[i].ended = true) (hb : t.streams[i].buf = []) :
    streamNext i n r t s go = .trap .stream none s := by
  rw [streamNext]; exact (if_neg (by rw [h]; decide)).trans ((if_neg (by rw [he]; simp)).trans (if_pos (by rw [hb]; rfl)))

theorem streamNext_takes (h : t.streams[i].bound = true) (hb : t.streams[i].buf ≠ [])
    (hn : t.streams[i].ended = true ∨ n ≤ t.streams[i].buf.length) : streamNext i n r t s go =
      go ((t.streams[i].buf.take n).foldr (fun b acc => b.toNat + 256 * acc) 0)
        (s.modThread r (fun u => u.setStream i { t.streams[i] with buf := t.streams[i].buf.drop n })) := by
  have hrow := memRead_row (t.streams[i].buf.take n) n 0 (List.length_take_le ..)
  simp only [Nat.zero_add] at hrow
  rw [streamNext, ← hrow]
  refine (if_neg (by rw [h]; decide)).trans ((if_neg ?_).trans (if_neg ?_))
  · rcases hn with hn | hn
    · rw [hn]; simp
    · exact fun hc => absurd hc.1 (Nat.not_lt.mpr hn)
  · simpa using hb

end

/-! ## Job ids -/

section
variable {s : State} {t : Thread} {a : Src} {d : Reg} {kind : Bool}

/-- The conditions of R285 by arithmetic. -/
theorem idOk_iff (kind : Bool) (c : CoreId) (x : Word) : idOk kind c x = true ↔
    x.toNat / 2 ^ 32 = 0 ∧ x.toNat / 2 ^ 31 % 2 = (if kind then 1 else 0) ∧ x.toNat / 2 ^ 22 % 2 ^ 9 = c.val := by
  have h : bit x 31 = decide (x.toNat / 2 ^ 31 % 2 = 1) := by rw [bit, BitVec.getLsbD, Nat.testBit_eq_decide_div_mod_eq]
  have hx := x.isLt
  rw [idOk, field, field, h]
  cases kind <;> simp <;> omega

/-- Whether a job is pending, by R285's counters of its kind. -/
theorem seqOut_eq (w : CoreWorld) (kind : Bool) (n : Nat) : seqOut w kind n =
    decide ((n + 2 ^ 21 - (if kind then w.mxDone else w.copyDone) % 2 ^ 21) % 2 ^ 21 <
      ((if kind then w.mxNext else w.copyNext) + 2 ^ 21 - (if kind then w.mxDone else w.copyDone) % 2 ^ 21) % 2 ^ 21) := by
  cases kind <;> simp only [seqOut, seqPending, if_true, if_false, Bool.false_eq_true]

theorem waitJob_bank (h : Ready s t [a]) (hc : clusterOf s.cur.at_.core = none) : Faults s s (waitJob kind a s) .target none := by
  refine runWord_faults h ?_
  rw [hc]; rfl

theorem queryJob_bank (h : Ready s t [a]) (hc : clusterOf s.cur.at_.core = none) : Faults s s (queryJob kind d a s) .target none := by
  refine runWord_faults h ?_
  rw [hc]; rfl

variable {k : ClusterId} (hc : clusterOf s.cur.at_.core = some k)
include hc

theorem waitJob_unknown (h : Ready s t [a]) (hi : idOk kind s.cur.at_.core (t.rd a) = false) : Faults s s (waitJob kind a s) .jobId none := by
  refine runWord_faults h ?_
  simp only [hc, hi, Option.isNone_some, Bool.not_false, Bool.false_eq_true, if_false, if_true]

theorem queryJob_unknown (h : Ready s t [a]) (hi : idOk kind s.cur.at_.core (t.rd a) = false) :
    Faults s s (queryJob kind d a s) .jobId none := by
  refine runWord_faults h ?_
  simp only [hc, hi, Option.isNone_some, Bool.not_false, Bool.false_eq_true, if_false, if_true]

variable (h : Ready s t [a]) (hi : idOk kind s.cur.at_.core (t.rd a) = true)
include h hi

theorem waitJob_waits (hp : jobPending (s.core s.cur.at_.part s.cur.at_.core).w kind (t.rd a) = true) :
    Waits s s (waitJob kind a s) (if kind then .matrix (field (t.rd a) 0 21) else .copy (field (t.rd a) 0 21)) := by
  refine runWord_waits h ?_
  simp only [hc, hi, hp, Option.isNone_some, Bool.not_true, Bool.false_eq_true, if_false, if_true]

theorem queryJob_pending (hp : jobPending (s.core s.cur.at_.part s.cur.at_.core).w kind (t.rd a) = true) :
    Completes s t [a] (queryJob kind d a s) (writes d 0) := by
  refine (runWord_completes (c := Commit.reg d 0) h ?_ rfl rfl).log []
  simp only [hc, hi, hp, Option.isNone_some, Bool.not_true, Bool.false_eq_true, if_false, if_true]

/-- The state in which the job that an id names and the earlier ones no longer hold the thread. -/
def jobsWaited (s : State) (t : Thread) (a : Src) (kind : Bool) : State :=
  s.modThread s.cur.at_ (fun u => waitedOn (s.core s.cur.at_.part s.cur.at_.core).w u kind (field (t.rd a) 0 21))

theorem waitJob_goes (hp : jobPending (s.core s.cur.at_.part s.cur.at_.core).w kind (t.rd a) = false) :
    Commits s (jobsWaited s t a kind) [a] (waitJob kind a s) Commit.none := by
  refine runWord_commits h ?_
  simp only [hc, hi, hp, Option.isNone_some, Bool.not_true, Bool.false_eq_true, if_false, jobsWaited]

theorem queryJob_done (hp : jobPending (s.core s.cur.at_.part s.cur.at_.core).w kind (t.rd a) = false) :
    Commits s (jobsWaited s t a kind) [a] (queryJob kind d a s) (Commit.reg d 1) := by
  refine runWord_commits h ?_
  simp only [hc, hi, hp, Option.isNone_some, Bool.not_true, Bool.false_eq_true, if_false, jobsWaited]

end

end Sys2Proof.Machine

open Sys2Proof Sys2Proof.Machine

/-- Settles O36: each word waits for its condition, and goes on where it holds. -/
theorem orderResults : Obligations.OrderResults := by
  intro s t sc h r s1 wide pour
  have ef : exec (.fence sc) s = runWord [] (fun r t s =>
    fenced s r t sc (fun _ => .done (if sc = .thr then Commit.none else Commit.none.late 12) s)) s := rfl
  have ep : pour = execPour sc s := rfl
  have hw : (sc != .thr) = wide := by cases sc <;> rfl
  rw [ef, ep]
  unfold execPour
  refine ⟨fun hs => ?_, fun hs hm => ?_, fun hm => ?_, fun hn => ⟨fun hm => ?_, fun hm hu => ?_, fun hm hu => ?_⟩,
    fun hp => ⟨fun hu => ?_, fun hu => ?_⟩, ?_⟩
  · subst hs
    exact runWord_bare (n := 0) h rfl
  · exact runWord_bare h ((fenced_met hm _).trans (by rw [if_neg hs]))
  · exact runWord_waits h (fenced_waits hm _)
  · refine runWord_waits h ?_
    simp only [hw, if_neg hn]
    exact if_pos (by rw [hm]; rfl)
  · refine runWord_waits h ?_
    simp only [hw, if_neg hn]
    exact (if_neg (by rw [hm]; decide)).trans (if_pos hu)
  · refine runWord_commits h ?_
    simp only [hw, if_neg hn]
    exact (if_neg (by rw [hm]; decide)).trans (if_neg (by rw [hu]; decide))
  · refine runWord_waits h ?_
    simp only [hw, if_pos hp]
    exact if_pos hu
  · refine runWord_bare (n := 0) h ?_
    simp only [hw, if_pos hp]
    exact if_neg (by rw [hu]; decide)
  · exact runWord_commits (f := fun r _ s => .done Commit.none (s.modThread r (fun t => { t with fetchBuf := [] }))) h rfl

/-- Settles O40: the bytes that a stream holds, in a row, read as their little-endian value. -/
theorem streamResults : Obligations.StreamResults := by
  intro s t ty vt d vd i h x value left forms
  have es : exec (.srd ty d i) s = execSrd ty d i s := rfl
  have ev : exec (.vsrd vt vd i) s = execVsrd vt vd i s := rfl
  have fails : ∀ (n : Nat) (go : Nat → State → Res) (o : Out), o = runWord [] (fun r t s => streamNext i n r t s go) s →
      (x.bound = false → Faults s s o .stream none) ∧ (x.bound = true → x.buf.length < n → x.ended = false → Waits s s o (.stream i n)) ∧
        (x.bound = true → x.ended = true → x.buf = [] → Faults s s o .stream none) := by
    rintro n go o rfl
    exact ⟨fun hb => runWord_faults h (streamNext_unbound hb), fun hb hl he => runWord_waits h (streamNext_short hb hl he),
        fun hb he hn => runWord_faults h (streamNext_over hb he hn)⟩
  refine ⟨fun e he => ?_, fun hb hn hl => ?_, fun hb hn hl => ?_⟩
  · dsimp only [forms] at he
    fin_cases he
    · exact fails _ _ _ es
    · exact fails _ _ _ ev
  · rw [es, execSrd]
    exact runWord_commits h (streamNext_takes hb hn (by rwa [or_comm, or_comm] at hl))
  · rw [ev, execVsrd]
    exact runWord_commits h (streamNext_takes hb hn hl)

/-- Settles O42: R285's conditions on an id are those of `idOk` and `jobPending`. -/
theorem jobWordResults : Obligations.JobWordResults := by
  intro s t d a k h r x w seq mine ahead out after forms f hf
  have hq : field (t.rd a) 0 21 = seq := by rw [field, Nat.pow_zero, Nat.div_one]
  have both : ∀ kind : Bool,
      (clusterOf r.core = none → Faults s s (waitJob kind a s) .target none ∧ Faults s s (queryJob kind d a s) .target none) ∧
      (clusterOf r.core = some k →
        (¬ mine (if kind then 1 else 0) → Faults s s (waitJob kind a s) .jobId none ∧ Faults s s (queryJob kind d a s) .jobId none) ∧
        (mine (if kind then 1 else 0) → seqOut w kind seq = true →
          Waits s s (waitJob kind a s) (if kind then .matrix seq else .copy seq) ∧ Completes s t [a] (queryJob kind d a s) (writes d 0)) ∧
        (mine (if kind then 1 else 0) → seqOut w kind seq = false →
          Commits s (jobsWaited s t a kind) [a] (waitJob kind a s) Commit.none ∧
          Commits s (jobsWaited s t a kind) [a] (queryJob kind d a s) { writes d 1 with log := [.val d 1] })) := fun kind => by
    have hm : mine (if kind then 1 else 0) ↔ idOk kind r.core (t.rd a) = true := (idOk_iff ..).symm
    have hs : jobPending w kind (t.rd a) = seqOut w kind seq := by rw [jobPending, hq]
    refine ⟨fun hc => ⟨waitJob_bank h hc, queryJob_bank h hc⟩, fun hc => ⟨fun hi => ?_, fun hi hp => ?_, fun hi hp => ?_⟩⟩
    · rw [hm, Bool.not_eq_true] at hi
      exact ⟨waitJob_unknown hc h hi, queryJob_unknown hc h hi⟩
    · rw [hm] at hi; rw [← hs] at hp
      exact ⟨hq ▸ waitJob_waits hc h hi hp, queryJob_pending hc h hi hp⟩
    · rw [hm] at hi; rw [← hs] at hp
      exact ⟨waitJob_goes hc h hi hp, queryJob_done hc h hi hp⟩
  have hgone : ∀ kind, jobsWaited s t a kind = after kind := fun kind => by
    simp only [jobsWaited, hq, waitedOn, seqOut_eq]; rfl
  dsimp only [forms] at hf
  fin_cases hf
  · obtain ⟨hb, hk⟩ := both false
    simp only [seqOut_eq, decide_eq_true_eq, decide_eq_false_iff_not, hgone] at hk
    exact ⟨hb, hk⟩
  · obtain ⟨hb, hk⟩ := both true
    simp only [seqOut_eq, decide_eq_true_eq, decide_eq_false_iff_not, hgone] at hk
    exact ⟨hb, hk⟩
end

section
/-! SUPPORT. ERET: the commit that leaves the handler, with nothing kept for its thread (22 R349). -/
namespace Sys2Proof.Machine

/-- The commit of ERET. -/
def eretCommit (t : Thread) : Commit := { Commit.none with target := some t.epc, log := [.mark 8 none] }

/-- A commit with no register and no full bit leaves both, whatever was delivered in its cycle. -/
theorem commitThread_eret (t : Thread) (now n : Nat) (ws : List (BitVec 32)) : (commitThread t now n ws (eretCommit t)).regs = t.regs := by
  have hc : commitRegs t.regs (eretCommit t) = t.regs := rfl
  simp only [commitThread, hc, redeliver]
  split
  · have : List.filter (fun e : Reg × Word => (eretCommit t).regs.any (fun x => x.1 == e.1)) t.arrived = [] :=
      List.filter_eq_nil_iff.mpr fun _ _ => by simp [eretCommit, Commit.none]
    rw [this]; rfl
  · rfl

theorem State.inbox_setThread (s : State) (r : TRef) (t : Thread) (p : PartId) (c : CoreId) :
    ((s.setThread r t).core p c).w.inbox = (s.core p c).w.inbox := by
  by_cases h : p = r.part ∧ c = r.core
  · obtain ⟨rfl, rfl⟩ := h
    rw [State.setThread, State.setSlot, State.core_modCoreW]
  · rw [State.setThread, State.setSlot, State.modCoreW, State.core_setCore_ne _ _ (not_and_or.mp h)]

theorem State.inbox_withEvents (s : State) (l : List Instr) (p : PartId) (c : CoreId) :
    ((s.withEvents l).core p c).w.inbox = (s.core p c).w.inbox := rfl

theorem State.inbox_modThread (s : State) (r : TRef) (g : Thread → Thread) (p : PartId) (c : CoreId) :
    ((s.modThread r g).core p c).w.inbox = (s.core p c).w.inbox := by
  unfold State.modThread
  split
  · exact State.inbox_setThread ..
  · rfl

/-- ACTIVE cleared leaves the other bits of ECAUSE. -/
theorem setField_63 (x : Word) (h : x.getLsbD 63 = true) : setField x 63 1 0 = word (x.toNat - 2 ^ 63) := by
  have hx := x.isLt
  have h63 : x.toNat / 2 ^ 63 % 2 = 1 := by
    rw [BitVec.getLsbD, Nat.testBit_eq_decide_div_mod_eq, decide_eq_true_eq] at h; exact h
  have e : x.toNat / 2 ^ (63 + 1) * 2 ^ (63 + 1) + 0 % 2 ^ 1 * 2 ^ 63 + x.toNat % 2 ^ 63 = x.toNat - 2 ^ 63 := by omega
  rw [setField, e]

theorem eret_returns {s : State} {t : Thread} (h : Ready s t []) (hw : s.watched s.cur.at_.part s.cur.at_.core = false)
    (ha : t.active = true) (hin : (s.core s.cur.at_.part s.cur.at_.core).w.inbox.all (fun m => m.tid != t.tid) = true) :
    ∃ s', exec .eret s = .next s' ∧ s'.mem = s.mem ∧ s'.thread s.cur.at_ =
      ((some (commitThread t s.cycle s.cur.size s.cur.words (eretCommit t))).map fun t =>
        { t with ecause := setField t.ecause 63 1 0, pc := t.epc }) := by
  have hc : commitNow s (eretCommit t) = commitAt s s.cur.at_ s.cur.size s.cur.words (eretCommit t) := by
    rw [commitNow, h.2.1]
  obtain ⟨hth, hst⟩ := commitAt_plain s s.cur.at_ t s.cur.size s.cur.words (eretCommit t) h.1 (.inr hw) rfl
  have hst := hst hw
  have hmem : (commitNow s (eretCommit t)).mem = s.mem := by rw [hc, hst]; rfl
  have hbox : ((commitNow s (eretCommit t)).core s.cur.at_.part s.cur.at_.core).w.inbox = (s.core s.cur.at_.part s.cur.at_.core).w.inbox := by
    rw [hc, hst, State.inbox_withEvents, State.inbox_setThread]
  rw [← hc] at hth
  generalize hu : commitNow s (eretCommit t) = u at hth hmem hbox
  have hnone : ((returnTrap u s.cur.at_).core s.cur.at_.part s.cur.at_.core).w.inbox.filter (fun m => m.tid == t.tid) = [] := by
    rw [returnTrap, State.inbox_modThread, hbox, List.filter_eq_nil_iff]
    intro m hm
    have := List.all_eq_true.mp hin m hm
    simpa using this
  refine ⟨(returnTrap u s.cur.at_).modCoreW s.cur.at_.part s.cur.at_.core (fun w => { w with inbox := w.inbox.filter (fun m => m.tid != t.tid) }),
    ?_, ?_, ?_⟩
  · have he : exec .eret s = execEret s := rfl
    rw [he, execEret, runWord_ready h]
    have hnow : holdUntil s s.cur ≤ s.cycle := by simp [holdUntil, h.2.1]
    simp only [ha, Bool.not_true, Bool.false_eq_true, if_false, atCommit, if_pos hnow]
    have hu' : commitNow s { Commit.none with target := some t.epc, log := [.mark 8 none] } = u := hu
    rw [hu', hnone]
    rfl
  · rw [State.modCoreW_mem, returnTrap, State.modThread_mem, hmem]
  · rw [State.thread_modCoreW_of _ _ _ _ rfl, returnTrap, State.thread_modThread, hth]

/-! ## PARK and GSW (R350, R351) -/

theorem parkThread_low (s : State) (p : PartId) (x : Word) : parkThread s p (field x 0 20) =
    s.modThreads p (fun u => if u.tid = x.toNat % 2 ^ 20 then { u with parked := true, parkedIn := some s.cycle } else u) := by
  rw [parkThread, field, Nat.pow_zero, Nat.div_one]

theorem gswTime_eq (x : Word) (now : Nat) :
    gswTime x now = if x.toNat = 0 then 0 else if x.toNat ≤ now then word (now + 1) else x := by
  have h : x = 0 ↔ x.toNat = 0 := by rw [← BitVec.toNat_inj]; rfl
  rw [gswTime]
  by_cases hx : x = 0
  · rw [if_pos hx, if_pos (h.mp hx)]
  · rw [if_neg hx, if_neg (h.not.mp hx)]

end Sys2Proof.Machine

open Sys2Proof Sys2Proof.Machine

/-- Settles O45: on an unwatched core the containment point lets a word pass, and ERET's commit writes no register. -/
theorem systemWordResults : Obligations.SystemWordResults := by
  intro s t n a hw r
  have et : exec (.trap n) s = execTrap n s := rfl
  have ec : exec .cont s = execCont s := rfl
  have ee : exec .eret s = execEret s := rfl
  have ep : exec (.park a) s = execPark a s := rfl
  have eg : exec (.gsw a) s = execGsw a s := rfl
  refine ⟨fun h => ⟨?_, ?_⟩, fun h ha => ?_, fun h ha hin => ?_, fun h hp => ⟨?_, ?_⟩, fun h hp => ⟨?_, ?_⟩⟩
  · rw [et, execTrap]
    exact runWord_faults h (by rw [passPoint_unwatched hw])
  · rw [ec, execCont]
    exact runWord_bare (n := 0) h (by rw [passPoint_unwatched hw]; rfl)
  · rw [ee, execEret]
    exact runWord_faults h (if_pos (by rw [Thread.active, ha]; rfl))
  · obtain ⟨s', he, hm, hth⟩ := eret_returns h hw ha hin
    refine ⟨s', _, he, hth, rfl, setField_63 _ ha, rfl, rfl, commitThread_eret t s.cycle s.cur.size s.cur.words, rfl, rfl, rfl, hm⟩
  · rw [ep, execPark]
    exact runWord_faults h (if_pos (by rw [hp]; rfl))
  · rw [eg, execGsw]
    exact runWord_faults h (if_pos (by rw [hp]; rfl))
  · rw [ep, execPark]
    refine runWord_commits h ((if_neg (by rw [hp]; decide)).trans ?_)
    rw [parkThread_low]
  · rw [eg, execGsw]
    refine runWord_commits h ((if_neg (by rw [hp]; decide)).trans ?_)
    rw [gswTime_eq]
end

section
/-! SUPPORT. SPAWN and EXIT, messages, and remote work (09 R153 to R160). -/
namespace Sys2Proof.Machine

theorem entryOk_iff (x : Word) : entryOk x = true ↔ canonical x = true ∧ x.toNat % 4 = 0 := by simp [entryOk]

theorem entryOk_not (x : Word) : entryOk x = false ↔ canonical x = false ∨ x.toNat % 4 ≠ 0 := by
  rw [← Bool.not_eq_true, entryOk_iff, not_and_or, Bool.not_eq_true]

/-- A lone bundle's word that takes effect at its commit takes it at once. -/
theorem atCommit_ready {s : State} {t : Thread} {srcs : List Src} (h : Ready s t srcs) (go : Unit → Res) : atCommit s go = go () :=
  if_pos (by simp [holdUntil, h.2.1])

/-! ## SPAWN (R153) -/

section
variable {s : State} {t : Thread} {d : Reg} {a b : Src}

theorem State.core_modPart_of (s : State) (p : PartId) (f : Partition → Partition) (h : ∀ c, (f (s.part p)).core c = (s.part p).core c)
    (p' : PartId) (c : CoreId) : (s.modPart p f).core p' c = s.core p' c := by
  by_cases hp : p' = p
  · subst hp; rw [State.core, State.part_modPart, h]; rfl
  · rw [State.core, State.part_modPart_ne _ _ hp]; rfl

theorem allocTid_watched (s : State) (p p' : PartId) (c : CoreId) : (allocTid s p).2.watched p' c = s.watched p' c := by
  rw [State.watched, State.watched, allocTid, State.core_modPart_of]
  exact fun _ => rfl

variable (h : Ready s t [a, b])
include h

theorem spawn_badEntry (hx : entryOk (t.rd a) = false) : Faults s s (exec (.spawn d a b) s) .address (some (t.rd a)) := by
  have he : exec (.spawn d a b) s = execSpawn d a b s := rfl
  rw [he, execSpawn]
  exact runWord_faults h (if_pos (by rw [hx]; rfl))

variable (hx : entryOk (t.rd a) = true)
include hx

theorem spawn_badCore (hc : s.coreNum s.cur.at_.part (t.rd b) = none) : Faults s s (exec (.spawn d a b) s) .target (some (t.rd b)) := by
  have he : exec (.spawn d a b) s = execSpawn d a b s := rfl
  rw [he, execSpawn]
  refine runWord_faults h ((if_neg (by rw [hx]; decide)).trans ?_)
  rw [hc]

variable {c : CoreId} (hc : s.coreNum s.cur.at_.part (t.rd b) = some c)
include hc

theorem spawn_waits (hf : fenceMet s s.cur.at_ t .part = false) : Waits s s (exec (.spawn d a b) s) (.fence .part) := by
  have he : exec (.spawn d a b) s = execSpawn d a b s := rfl
  rw [he, execSpawn]
  refine runWord_waits h ((if_neg (by rw [hx]; decide)).trans ?_)
  rw [hc]
  exact fenced_waits hf _

variable (hf : fenceMet s s.cur.at_ t .part = true)
include hf

theorem spawn_full (hg : freeGeneral (s.core s.cur.at_.part c).w = none) (hl : 16 ≤ (s.core s.cur.at_.part c).w.landing.length) :
    Commits s s [a, b] (exec (.spawn d a b) s) { writes d 0xFFFFFFFFFFFFFFFF with log := [.atom 17 d 0xFFFFFFFFFFFFFFFF] } := by
  have he : exec (.spawn d a b) s = execSpawn d a b s := rfl
  rw [he, execSpawn]
  refine runWord_commits h ((if_neg (by rw [hx]; decide)).trans ?_)
  rw [hc]
  refine (fenced_met hf _).trans (if_pos ?_)
  rw [hg, decide_eq_true hl]; rfl

theorem spawn_makes (hr : ¬ (freeGeneral (s.core s.cur.at_.part c).w = none ∧ 16 ≤ (s.core s.cur.at_.part c).w.landing.length)) :
    Commits s (spawnAt s s.cur.at_ t c (t.rd a)).2 [a, b] (exec (.spawn d a b) s)
      { writes d (word (allocTid s s.cur.at_.part).1) with log := [.atom 17 d (word (allocTid s s.cur.at_.part).1)] } := by
  have he : exec (.spawn d a b) s = execSpawn d a b s := rfl
  rw [he, execSpawn]
  refine runWord_commits h ((if_neg (by rw [hx]; decide)).trans ?_)
  rw [hc]
  refine (fenced_met hf _).trans (if_neg ?_)
  simpa using hr

end

/-- Where the new thread of a SPAWN goes, its id and the state that `allocTid` leaves being n and s1. -/
theorem spawnAt_eq {s s1 : State} {r : TRef} {t new : Thread} {c : CoreId} {x : Word} {n : Nat} (hn : allocTid s r.part = (n, s1))
    (hnew : new = Thread.start 2 x (Regs.fresh t.src.g[(0 : Reg)] t.src.g[(1 : Reg)] t.src.g[(2 : Reg)] (word t.tid)) n t.ctx t.corr
      t.pin (s1.watched r.part c) (s1.cycle + 1)) :
    (∀ sl, freeGeneral (s.core r.part c).w = some sl → (spawnAt s r t c x).2 = placeThread s1 ⟨r.part, c, sl⟩ new (s1.cycle + 1)) ∧
    (freeGeneral (s.core r.part c).w = none →
      (spawnAt s r t c x).2 = s1.modCoreW r.part c (fun w => { w with landing := w.landing ++ [new] })) := by
  have e1 : (allocTid s r.part).1 = n := congrArg Prod.fst hn
  have e2 : (allocTid s r.part).2 = s1 := congrArg Prod.snd hn
  have hcyc : s1.cycle = s.cycle := by rw [← e2]; rfl
  have hwat : s1.watched r.part c = s.watched r.part c := by rw [← e2, allocTid_watched]
  rw [hwat, hcyc] at hnew
  refine ⟨fun sl hg => ?_, fun hg => ?_⟩
  · rw [spawnAt, hg, hcyc, e1, e2, hnew]
  · rw [spawnAt, hg, e1, e2, hnew]

/-! ## EXIT (R154) -/

theorem exit_waits {s : State} {t : Thread} (h : Ready s t []) (hu : updatesPending s s.cur.at_.part t.tid = true) :
    Waits s s (exec .exit s) .queue := by
  have he : exec .exit s = execExit s := rfl
  rw [he, execExit]
  exact runWord_waits h (if_pos (by rw [exitReady, hu]; rfl))

theorem exit_retires {s : State} {t : Thread} (h : Ready s t []) (hu : updatesPending s s.cur.at_.part t.tid = false)
    (hw : s.watched s.cur.at_.part s.cur.at_.core = false) :
    exec .exit s = .next (retire s s.cur.at_ { t with regs := commitRegs t.regs Commit.none }) := by
  have he : exec .exit s = execExit s := rfl
  have hr : exitReady s s.cur.at_ t = true := by rw [exitReady, hu]; rfl
  rw [he, execExit, runWord_ready h]
  simp only [hr, Bool.not_true, Bool.false_eq_true, if_false, atCommit_ready h, passPoint_unwatched hw, h.2.1,
    logItems_unwatched _ _ _ _ hw]
  rfl

/-! ## Messages (R155 to R157) -/

theorem rxFull_iff (w : CoreWorld) : rxFull w = true ↔ w.rxTail + 1 = w.rxHead := by simp [rxFull]

theorem messageWaits_iff (s : State) (p : PartId) (c : CoreId) (i : Instr) : messageWaits s p c i = true ↔
    32 ≤ (s.core p c).w.serverQ.length ∨ 64 ≤ (s.core p c).w.updateQ.length ∨ heldBehind s i = true := by
  simp [messageWaits, msgOff, or_assoc]

/-- A message in the ring, where the core's record of the ring is the one of another state. -/
theorem rxWrite_eq {s : State} {p : PartId} {c : CoreId} (m : SendMsg) {v : CoreWorld} (h : (s.core p c).w.rxTail = v.rxTail) :
    rxWrite s p c m = replyThread ((putBytes s p (keyTcm p c (0x1F000 + 8 * v.rxTail.toNat)) 8 m.val).modCoreW p c
      (fun w => { w with rxTail := w.rxTail + 1 })) m.src m.srcTid none := by
  rw [rxWrite, rxKey, h]

theorem sendLands_waits {s : State} {p : PartId} {c : CoreId} {i : Instr} (m : SendMsg) (h : messageWaits s p c i = true) :
    sendLands s p c m i = s.holdBack i := if_pos h

theorem sendLands_ring {s : State} {p : PartId} {c : CoreId} {i : Instr} (m : SendMsg) (h : messageWaits s p c i = false)
    (hf : rxFull (s.core p c).w = false) (hb : (s.core p c).w.rxBuf = []) : sendLands s p c m i = rxWrite s p c m :=
  (if_neg (by rw [h]; decide)).trans (if_pos (by rw [hf, hb]; rfl))

theorem sendLands_buffer {s : State} {p : PartId} {c : CoreId} {i : Instr} (m : SendMsg) (h : messageWaits s p c i = false)
    (hf : rxFull (s.core p c).w = true ∨ (s.core p c).w.rxBuf ≠ []) (hb : (s.core p c).w.rxBuf.length < 4) :
    sendLands s p c m i = s.modCoreW p c (fun w => { w with rxBuf := w.rxBuf ++ [m] }) :=
  (if_neg (by rw [h]; decide)).trans ((if_neg (by rcases hf with hf | hf <;> simp [hf])).trans (if_pos hb))

theorem sendLands_refused {s : State} {p : PartId} {c : CoreId} {i : Instr} (m : SendMsg) (h : messageWaits s p c i = false)
    (hb : 4 ≤ (s.core p c).w.rxBuf.length) : sendLands s p c m i = s.after 256 (.sendRetry p c m) :=
  (if_neg (by rw [h]; decide)).trans ((if_neg (by
    have : (s.core p c).w.rxBuf ≠ [] := fun h0 => by rw [h0] at hb; exact absurd hb (by decide)
    simp [this])).trans (if_neg (Nat.not_lt.mpr hb)))

theorem State.modCoreW_congr {s : State} {p : PartId} {c : CoreId} {f g : CoreWorld → CoreWorld} (h : f (s.core p c).w = g (s.core p c).w) :
    s.modCoreW p c f = s.modCoreW p c g := by rw [State.modCoreW, State.modCoreW, h]

theorem drainRing_full {s : State} {p : PartId} {c : CoreId} (l : List SendMsg) (h : rxFull (s.core p c).w = true) : drainRing p c l s = s := by
  cases l with
  | nil => rfl
  | cons m l => exact if_pos h

theorem drainRing_cons {s : State} {p : PartId} {c : CoreId} {m : SendMsg} {l : List SendMsg} (hb : (s.core p c).w.rxBuf = m :: l)
    (h : rxFull (s.core p c).w = false) : drainRing p c (m :: l) s =
      drainRing p c l (rxWrite (s.modCoreW p c (fun w => { w with rxBuf := l })) p c m) := by
  have hd : s.modCoreW p c (fun w => { w with rxBuf := w.rxBuf.drop 1 }) = s.modCoreW p c (fun w => { w with rxBuf := l }) :=
    State.modCoreW_congr (by rw [hb]; rfl)
  rw [drainRing, if_neg (by rw [h]; decide), hd]

section
variable {s : State} {t : Thread} {d : Reg} (h : Ready s t []) (hn : t.wait = none)
include h hn

theorem recv_waits (he : (s.core s.cur.at_.part s.cur.at_.core).w.rxHead = (s.core s.cur.at_.part s.cur.at_.core).w.rxTail) :
    Waits s s (execRecv d s) (.recv s.cycle) := by
  rw [execRecv]
  refine runWord_waits h ?_
  simp only [hn]
  exact if_pos (by rw [he]; simp)

variable (he : (s.core s.cur.at_.part s.cur.at_.core).w.rxHead ≠ (s.core s.cur.at_.part s.cur.at_.core).w.rxTail)
  (hr : recvBehind s s.cur.at_ s.cycle = false) (hm : s.mtsWas s.cur.at_.part s.cur.at_.core .rxq = none)
include he hr hm

theorem recv_poisoned
    (hp : s.wordPoisoned (rxKey s.cur.at_.part s.cur.at_.core (s.core s.cur.at_.part s.cur.at_.core).w.rxHead) = true) :
    Faults s s (execRecv d s) .poison (some (0xFF0000000001F000 + 8 * (s.core s.cur.at_.part s.cur.at_.core).w.rxHead.setWidth 64)) := by
  rw [execRecv]
  refine runWord_faults h ?_
  simp only [hn, beq_false_of_ne he, hr, hm, Option.isSome_none, Bool.or_self, Bool.false_eq_true, if_false]
  exact if_pos hp

theorem recv_takes
    (hp : s.wordPoisoned (rxKey s.cur.at_.part s.cur.at_.core (s.core s.cur.at_.part s.cur.at_.core).w.rxHead) = false) :
    Commits s
      (if (s.core s.cur.at_.part s.cur.at_.core).w.rxBuf.isEmpty then
        s.modCoreW s.cur.at_.part s.cur.at_.core (fun w => { w with rxHead := w.rxHead + 1 })
      else (s.modCoreW s.cur.at_.part s.cur.at_.core (fun w => { w with rxHead := w.rxHead + 1 })).push
        (.ringBufferDrain s.cur.at_.part s.cur.at_.core)) []
      (execRecv d s)
      { writes d (s.readMem (rxKey s.cur.at_.part s.cur.at_.core (s.core s.cur.at_.part s.cur.at_.core).w.rxHead) 8) with
        log := [.atom 14 d (s.readMem (rxKey s.cur.at_.part s.cur.at_.core (s.core s.cur.at_.part s.cur.at_.core).w.rxHead) 8)], lat := 8 } := by
  rw [execRecv]
  refine runWord_commits h ?_
  simp only [hn, beq_false_of_ne he, hr, hm, Option.isSome_none, Bool.or_self, Bool.false_eq_true, if_false]
  exact if_neg (by rw [hp]; decide)

end

end Sys2Proof.Machine

open Sys2Proof Sys2Proof.Machine

/-- Settles O30: SPAWN makes the thread that `spawnAt` makes, and EXIT on an unwatched core passes its containment point. -/
theorem spawnExitResults : Obligations.SpawnExitResults := by
  intro s t d a b c r x w
  refine ⟨fun h => ⟨fun hx => spawn_badEntry h ((entryOk_not _).mpr hx), fun h1 h2 hc => spawn_badCore h ((entryOk_iff _).mpr ⟨h1, h2⟩) hc,
    fun h1 h2 hc hf => spawn_waits h ((entryOk_iff _).mpr ⟨h1, h2⟩) hc hf, fun h1 h2 hc hf => ?_⟩, fun h => ⟨fun hu => ?_, fun hu hw => ?_⟩⟩
  · have hx := (entryOk_iff _).mpr ⟨h1, h2⟩
    refine ⟨fun hg hl => spawn_full h hx hc hf hg hl, fun n s1 new hn hnew => ?_⟩
    have hmake := fun hr => spawn_makes (d := d) h hx hc hf hr
    rw [show (allocTid s s.cur.at_.part).1 = n from congrArg Prod.fst hn] at hmake
    obtain ⟨hslot, hland⟩ := spawnAt_eq hn hnew
    refine ⟨fun sl hg => ?_, fun hg hl => ?_⟩
    · rw [← hslot sl hg]
      exact hmake fun hr => absurd (hg.symm.trans hr.1) (by simp)
    · rw [← hland hg]
      exact hmake fun hr => absurd hr.2 (Nat.not_le.mpr hl)
  · exact exit_waits h hu
  · exact exit_retires h hu hw

/-- Settles O31: a message lands by `sendLands`, and `rxWrite` is its entry, the new TAIL and the reply. -/
theorem messageResults : Obligations.MessageResults := by
  intro s t d a b p c m rest r w v entry full written
  have es : exec (.send a b) s = execSend a b s := rfl
  have er : exec (.recv d) s = execRecv d s := rfl
  have hfull : rxFull v = true ↔ full := rxFull_iff v
  have hwritten : rxWrite s p c m = written s := rxWrite_eq m rfl
  refine ⟨fun h hc => ?_, fun h hc => ?_, fun i hi => ?_, fun hf => ?_, fun hb hf => ?_, fun h he hn => ?_, fun h he hn hr hm => ⟨fun hp => ?_, fun hp => ?_⟩⟩
  · rw [es, execSend]
    exact runWord_faults h (by rw [hc])
  · rw [es, execSend]
    exact runWord_pends h (by rw [hc]; rfl)
  · have hi' : exec i s = .next (sendLands s p c m i) := by
      rcases List.mem_pair.mp hi with rfl | rfl <;> rfl
    have hw := messageWaits_iff s p c i
    rw [hi']
    refine ⟨fun ho => ?_, fun ho hf hb => ?_, fun ho hf hb => ?_, fun ho hb => ?_⟩
    · rw [sendLands_waits m (hw.mpr ho)]
    · rw [sendLands_ring m (Bool.eq_false_iff.mpr (hw.not.mpr ho)) (Bool.eq_false_iff.mpr (hfull.not.mpr hf)) hb, hwritten]
    · rw [sendLands_buffer m (Bool.eq_false_iff.mpr (hw.not.mpr ho)) (hf.imp_left hfull.mpr) hb]
    · rw [sendLands_refused m (Bool.eq_false_iff.mpr (hw.not.mpr ho)) hb]
  · change Host.Outcome.next (drainRing p c v.rxBuf s) = _
    rcases hf with hf | hb
    · rw [drainRing_full _ (hfull.mpr hf)]
    · rw [hb]; rfl
  · change Host.Outcome.next (drainRing p c v.rxBuf s) = _
    have hu : ((s.modCoreW p c (fun w => { w with rxBuf := rest })).core p c).w.rxTail = v.rxTail := by rw [State.core_modCoreW]
    rw [hb, drainRing_cons hb (Bool.eq_false_iff.mpr (hfull.not.mpr hf)), rxWrite_eq m hu]
  · exact recv_waits h hn he
  · exact recv_poisoned h hn he hr hm hp
  · have := recv_takes (d := d) h hn he hr hm hp
    simp only [List.isEmpty_iff] at this
    exact this
end

section
/-! SUPPORT. AMSG, DLG and MIGR (09 R158 to R160): one way of a request to its owner, said once for both words. -/
namespace Sys2Proof.Machine

/-! ## The request of AMSG and DLG -/

/-- What the requester keeps of a request whose reply fills a register (R159). -/
def noteReply (r : TRef) (reply : Option Reg) (u : State) : State :=
  match reply with
  | some d => u.modThread r (fun t => { t with awaiting := t.awaiting ++ [d] })
  | none => u

section
variable {s : State} {t : Thread} {srcs : List Src} {x y : Word} {reply : Option Reg} {c : Commit}

theorem remoteRun_badEntry (r : TRef) (hx : entryOk x = false) : remoteRun r t x y reply c s = .trap .address (some x) s :=
  if_pos (by rw [hx]; rfl)

theorem remoteRun_badAddress (r : TRef) (hx : entryOk x = true) (hy : canonical y = false) :
    remoteRun r t x y reply c s = .trap .address (some y) s :=
  (if_neg (by rw [hx]; decide)).trans (if_pos (by rw [hy]; rfl))

variable {r : TRef} (hx : entryOk x = true) (hy : canonical y = true)
include hx hy

theorem remoteRun_badWindow (ho : ownerOf s r y = .badWindow) : remoteRun r t x y reply c s = .trap .window (some y) s := by
  simp only [remoteRun, hx, hy, ho, Bool.not_true, Bool.false_eq_true, if_false]

theorem remoteRun_noOwner (ho : ownerOf s r y = .none) : remoteRun r t x y reply c s = .trap .target none s := by
  simp only [remoteRun, hx, hy, ho, Bool.not_true, Bool.false_eq_true, if_false]

theorem remoteRun_ownCore {o : CoreId} (ho : ownerOf s r y = .core o) (hs : (t.serves.isSome && o == r.core) = true) :
    remoteRun r t x y reply c s = .trap .target none s := by
  simp only [remoteRun, hx, hy, ho, hs, Bool.not_true, Bool.false_eq_true, if_false, if_true]

theorem remoteRun_core_waits {o : CoreId} (ho : ownerOf s r y = .core o) (hs : (t.serves.isSome && o == r.core) = false)
    (hf : fenceMet s r t .part = false) : remoteRun r t x y reply c s = .wait (.fence .part) s := by
  simp only [remoteRun, hx, hy, ho, hs, Bool.not_true, Bool.false_eq_true, if_false, fenced_waits hf]

theorem remoteRun_remote_waits {m : BitVec 16} {p : PartId} (ho : ownerOf s r y = .remote m p) (hf : fenceMet s r t .sys = false) :
    remoteRun r t x y reply c s = .wait (.fence .sys) s := by
  simp only [remoteRun, hx, hy, ho, Bool.not_true, Bool.false_eq_true, if_false, fenced_waits hf]

end

section
variable {s : State} {t : Thread} {srcs : List Src} {x y : Word} {reply : Option Reg} {c : Commit}
  (h : Ready s t srcs) (hx : entryOk x = true) (hy : canonical y = true)
include h hx hy

theorem remoteRun_core {o : CoreId} (ho : ownerOf s s.cur.at_ y = .core o) (hs : (t.serves.isSome && o == s.cur.at_.core) = false)
    (hf : fenceMet s s.cur.at_ t .part = true) : remoteRun s.cur.at_ t x y reply c s =
      if reply.isNone && messageWaits s s.cur.at_.part o (.activeMessageArrival s.cur.at_.part o (activeMsg s s.cur.at_ t x y reply))
      then .wait .inject s
      else .done c (noteReply s.cur.at_ reply (s.push (.activeMessageArrival s.cur.at_.part o (activeMsg s s.cur.at_ t x y reply)))) := by
  simp only [remoteRun, hx, hy, ho, hs, Bool.not_true, Bool.false_eq_true, if_false, fenced_met hf, atCommit_ready h, ite_self]
  rfl

variable {m : BitVec 16} {p : PartId} (ho : ownerOf s s.cur.at_ y = .remote m p) (hf : fenceMet s s.cur.at_ t .sys = true)
  (hw : s.watched s.cur.at_.part s.cur.at_.core = false)
include ho hf hw

theorem remoteRun_remote : remoteRun s.cur.at_ t x y reply c s =
    if m = s.modid then
      if t.serves.isSome && remoteOwner s p y == s.cur.at_.core && p == s.cur.at_.part then .trap .target none s
      else .done c (noteReply s.cur.at_ reply (s.push (.activeMessageArrival p (remoteOwner s p y) (activeMsg s s.cur.at_ t x y reply))))
    else if linked (s.part s.cur.at_.part) m p then
      .done c (noteReply s.cur.at_ reply { s with portOut := s.portOut ++ [.active m p (activeMsg s s.cur.at_ t x y reply)] })
    else .done c (noteReply s.cur.at_ reply (refuseActive s (activeMsg s s.cur.at_ t x y reply))) := by
  simp only [remoteRun, hx, hy, ho, Bool.not_true, Bool.false_eq_true, if_false, fenced_met hf, atCommit_ready h, ite_self,
    passPoint_unwatched hw]
  rfl

end

end Sys2Proof.Machine

open Sys2Proof Sys2Proof.Machine

/-- Settles O32: both words run `remoteRun`, whose owner decides the way. -/
theorem remoteWorkResults : Obligations.RemoteWorkResults := by
  intro s t d a b c m p r x y msg both sent asked
  have ea : exec (.amsg a b) s = runWord [a, b] (fun r t s => remoteRun r t (t.rd a) (t.rd b) none
    { Commit.none with log := [.addr (t.rd b), .atom 15 0 (t.rd a)] } s) s := rfl
  have ed : exec (.dlg d a b) s = runWord [a, b] (fun r t s => remoteRun r t (t.rd a) (t.rd b) (some d)
    { Commit.none with empties := [d], log := [.addr (t.rd b), .atom 16 d (t.rd a)] } s) s := rfl
  refine ⟨fun h => ?_, fun h => ?_⟩
  · have trap : ∀ {k v}, (∀ reply c, remoteRun r t x y reply c s = .trap k v s) → both (fun i => Faults s s (exec i s) k v) := fun hf => by
      refine ⟨?_, ?_⟩ <;> beta_reduce
      · rw [ea]; exact runWord_faults h (hf ..)
      · rw [ed]; exact runWord_faults h (hf ..)
    have wait : ∀ {q}, (∀ reply c, remoteRun r t x y reply c s = .wait q s) → both (fun i => Waits s s (exec i s) q) := fun hf => by
      refine ⟨?_, ?_⟩ <;> beta_reduce
      · rw [ea]; exact runWord_waits h (hf ..)
      · rw [ed]; exact runWord_waits h (hf ..)
    have sends : ∀ {u}, (∀ c, remoteRun r t x y none c s = .done c u) → sent u := fun hf => by
      change Commits s _ [a, b] (exec (.amsg a b) s) _
      rw [ea]; exact runWord_commits h (hf _)
    have asks : ∀ {u}, (∀ c, remoteRun r t x y (some d) c s = .done c (noteReply r (some d) u)) → asked u := fun hf => by
      change Commits s _ [a, b] (exec (.dlg d a b) s) _
      rw [ed]; exact runWord_commits h (hf _)
    refine ⟨fun hx => trap fun _ _ => remoteRun_badEntry r ((entryOk_not _).mpr hx), fun h1 h2 hy =>
      trap fun _ _ => remoteRun_badAddress r ((entryOk_iff _).mpr ⟨h1, h2⟩) hy, fun h1 h2 hy => ?_⟩
    have hx := (entryOk_iff _).mpr ⟨h1, h2⟩
    refine ⟨fun ho => trap fun _ _ => remoteRun_badWindow hx hy ho, fun ho => trap fun _ _ => remoteRun_noOwner hx hy ho, fun ho hs hc =>
      trap fun _ _ => remoteRun_ownCore hx hy ho (by rw [hs, hc]; simp), fun ho hs => ?_, fun ho => ?_⟩
    · have hs' : (t.serves.isSome && c == r.core) = false := by
        rcases hs with hs | hs <;> simp [hs]
      refine ⟨fun hf => wait fun _ _ => remoteRun_core_waits hx hy ho hs' hf, fun hf => ⟨fun hm => ?_, fun hm => sends fun _ => ?_, asks fun _ => ?_⟩⟩
      · rw [ea]; exact runWord_waits h ((remoteRun_core h hx hy ho hs' hf).trans (if_pos hm))
      · exact (remoteRun_core h hx hy ho hs' hf).trans (if_neg (Bool.eq_false_iff.mp hm))
      · exact (remoteRun_core h hx hy ho hs' hf).trans (if_neg Bool.false_ne_true)
    · refine ⟨fun hf => wait fun _ _ => remoteRun_remote_waits hx hy ho hf, fun hf hw => ⟨fun hm hs ho' hp => ?_, fun hm hs => ?_,
        fun hm hl => ?_, fun hm hl => ?_⟩⟩
      · exact trap fun _ _ => (remoteRun_remote h hx hy ho hf hw).trans ((if_pos hm).trans (if_pos (by rw [hs, ho', hp]; exact (Bool.and_eq_true ..).mpr ⟨beq_self_eq_true _, beq_self_eq_true _⟩)))
      · have hs' : ¬ (t.serves.isSome && remoteOwner s p y == r.core && p == r.part) = true := by
          rcases hs with hs | hs | hs <;> simp [hs]
        exact ⟨sends fun _ => (remoteRun_remote h hx hy ho hf hw).trans ((if_pos hm).trans (if_neg hs')),
          asks fun _ => (remoteRun_remote h hx hy ho hf hw).trans ((if_pos hm).trans (if_neg hs'))⟩
      · exact ⟨sends fun _ => (remoteRun_remote h hx hy ho hf hw).trans ((if_neg hm).trans (if_pos hl)),
          asks fun _ => (remoteRun_remote h hx hy ho hf hw).trans ((if_neg hm).trans (if_pos hl))⟩
      · have hl' : ¬ linked (s.part r.part) m p = true := by rw [hl]; decide
        exact ⟨sends fun _ => (remoteRun_remote h hx hy ho hf hw).trans ((if_neg hm).trans (if_neg hl')),
          asks fun _ => (remoteRun_remote h hx hy ho hf hw).trans ((if_neg hm).trans (if_neg hl'))⟩
  · have em : exec (.migr a) s = execMigr a s := rfl
    rw [em, execMigr]
    refine ⟨fun hx => runWord_faults h (if_pos (by rw [hx]; rfl)), fun hx hu => ?_, fun hx hu => ?_⟩
    · have hf : fenceMet s r t .sys = false := by rw [fenceMet, hu]; rfl
      exact runWord_waits h ((if_neg (by rw [hx]; decide)).trans (fenced_waits hf _))
    · have hf : fenceMet s r t .sys = true := by rw [fenceMet, hu]; rfl
      refine ⟨fun hr => runWord_commits h ((if_neg (by rw [hx]; decide)).trans ((fenced_met hf _).trans (if_pos (by simpa using hr)))),
        fun h1 h2 => runWord_commits h ((if_neg (by rw [hx]; decide)).trans ((fenced_met hf _).trans (if_neg (by rw [h1, h2]; decide))))⟩
end

section
/-! SUPPORT. Barriers and queued reservations (09 R161 to R163). -/
namespace Sys2Proof.Machine

/-! ## BAR -/

section
variable {s s1 s2 : State} {t : Thread} {sc : Scope} {a : Src} {pl : Place} {x : At}
  (h : Ready s t [a]) (hc : checkAccess s s.cur.at_ t needRW (t.rd a) 8 false = .ok (pl, s1))
include h hc

theorem bar_waits (hf : fenceMet s1 s.cur.at_ t sc = false) : Waits s s1 (execBar sc a s) (.fence sc) := by
  rw [execBar]
  refine runWord_waits h ?_
  dsimp only
  rw [hc]
  exact fenced_waits hf _

/-- What an arrival makes of the barrier's word, once the word stands at its home (R161). -/
def barArrives (r : TRef) (t : Thread) (ea : Word) (x : At) (gen need got : Nat) (s : State) : Res :=
  if need = 0 ∨ need ≤ got then .trap .barrier none s
  else if got + 1 = need then
    let s := clearStamp (putBytes s r.part x.key 8 (word ((gen + 1) % 2 ^ 32 * 2 ^ 32 + need * 2 ^ 16))) r ea
    .done { Commit.none with log := [.addr ea, .atom 12 0 0], lat := x.lat }
      (((kget (s.part r.part).bars x.key).getD []).foldl (fun s w => replyThread s w.who w.tid none)
        (s.modPart r.part (fun q => { q with bars := kdel q.bars x.key })))
  else
    awaitParty [.addr ea, .atom 12 0 0] ea
      (((clearStamp (putBytes s r.part x.key 8 (word (gen * 2 ^ 32 + need * 2 ^ 16 + (got + 1)))) r ea).modPart r.part (fun q => { q with
        bars := kput q.bars x.key ((kget q.bars x.key).getD [] ++ [{ who := r, tid := t.tid, key := x.key }]) })).modThread r
          (fun t => { t with barGen := some (x.key, gen) }))

theorem bar_arrives (hf : fenceMet s1 s.cur.at_ t sc = true)
    (hp : homePlace s1 s.cur.at_ t needRW true true (t.rd a) 8 pl = .ok (x, s2)) :
    execBar sc a s = runWord [a] (fun _ _ _ => barArrives s.cur.at_ t (t.rd a) x (field (s2.readMem x.key 8) 32 32)
      (field (s2.readMem x.key 8) 16 16) (field (s2.readMem x.key 8) 0 16) s2) s := by
  rw [execBar]
  refine runWord_congr h ?_
  dsimp only
  rw [hc]
  dsimp only
  rw [fenced_met hf, hp]
  rfl

end

/-! ## Reservations -/

section
variable {s s1 s2 : State} {r : TRef} {t : Thread} {ea : Word} {l : Leaf} {key lat : Nat}

theorem resvAccess_error {e : Res} (h : checkAccess s r t needRW ea 8 false = .error e) : resvAccess s r t ea = .error e := by
  rw [resvAccess, h]

theorem resvAccess_window (h : checkAccess s r t needRW ea 8 false = .ok (.window key lat, s1)) :
    resvAccess s r t ea = .error (.trap .window (some ea) s1) := by rw [resvAccess, h]

theorem resvAccess_mem (h : checkAccess s r t needRW ea 8 false = .ok (.mem l, s1)) : resvAccess s r t ea = .ok (l, s1) := by
  rw [resvAccess, h]

end

/-- What LRW, SCH and RLS come to where the checks that they share fail (R162). -/
theorem reservation_stops {s : State} {t : Thread} {a b : Src} {d : Reg} {e : Res}
    (he : resvAccess s s.cur.at_ t (t.rd a) = .error e) :
    (Ready s t [a] → execLrw d a s = runWord [a] (fun _ _ _ => e) s ∧ execRls a s = runWord [a] (fun _ _ _ => e) s) ∧
    (Ready s t [a, b] → execSch a b s = runWord [a, b] (fun _ _ _ => e) s) := by
  refine ⟨fun h => ⟨?_, ?_⟩, fun h => ?_⟩
  · rw [execLrw]; exact runWord_congr h (by dsimp only; rw [he])
  · rw [execRls]; exact runWord_congr h (by dsimp only; rw [he])
  · rw [execSch]; exact runWord_congr h (by dsimp only; rw [he])

section
variable {s s1 s2 : State} {t : Thread} {a b : Src} {d : Reg} {l : Leaf} {x : At}
  (hc : resvAccess s s.cur.at_ t (t.rd a) = .ok (l, s1))
include hc

theorem lrw_holds (h : Ready s t [a]) (hr : t.resv.isSome = true) : Faults s s1 (execLrw d a s) .reservation none := by
  rw [execLrw]
  refine runWord_faults h ?_
  dsimp only
  rw [hc]
  exact if_pos hr

/-- LRW by a thread that holds no reservation, its word at its home (R162). -/
theorem lrw_joins (h : Ready s t [a]) (hr : t.resv = none) (hp : homePlace s1 s.cur.at_ t needRW true false (t.rd a) 8 (.mem l) = .ok (x, s2)) :
    let r := s.cur.at_
    let line := lineOf (t.rd a)
    let w : Waiter := { who := r, tid := t.tid, key := x.key }
    let s3 := s2.modThread r (fun t => { t with resv := some line })
    let ws := (kget (s3.part r.part).resv line).getD []
    let s4 := s3.modPart r.part (fun q => { q with resv := kput q.resv line (ws ++ [w]) })
    let q : Pend := { commit := { Commit.none with log := [.addr (t.rd a)] }, dest := some d, log := .atom 9, ty := some .s64,
                      addr := t.rd a, big := l.big, size := 0, words := [] }
    execLrw d a s = runWord [a] (fun _ _ _ =>
      if !resvRoom (s3.part r.part) line then .pend q (s3.modPart r.part (fun q => { q with lrwFull := q.lrwFull ++ [w] }))
      else if ws.isEmpty then
        .done { Commit.none with
          regs := [(d, s4.readMem x.key 8)], log := .addr (t.rd a) :: stampItems x ++ [.atom 9 d (s4.readMem x.key 8)], lat := x.lat } s4
      else .pend q s4) s := by
  rw [execLrw]
  refine runWord_congr h ?_
  dsimp only
  rw [hc]
  dsimp only
  rw [hr, hp]
  rfl

theorem sch_refused (h : Ready s t [a, b]) (hr : holdsResv s1 s.cur.at_ t (t.rd a) = false) :
    Faults s s1 (execSch a b s) .reservation none := by
  rw [execSch]
  refine runWord_faults h ?_
  dsimp only
  rw [hc]
  exact if_pos (by rw [hr]; rfl)

theorem rls_refused (h : Ready s t [a]) (hr : holdsResv s1 s.cur.at_ t (t.rd a) = false) :
    Faults s s1 (execRls a s) .reservation none := by
  rw [execRls]
  refine runWord_faults h ?_
  dsimp only
  rw [hc]
  exact if_pos (by rw [hr]; rfl)

variable (hr : holdsResv s1 s.cur.at_ t (t.rd a) = true)
include hr

theorem sch_waits (h : Ready s t [a, b]) (hf : fenceMet s1 s.cur.at_ t .part = false) : Waits s s1 (execSch a b s) (.fence .part) := by
  rw [execSch]
  refine runWord_waits h ?_
  dsimp only
  rw [hc]
  exact (if_neg (by rw [hr]; decide)).trans (fenced_waits hf _)

theorem rls_waits (h : Ready s t [a]) (hf : fenceMet s1 s.cur.at_ t .part = false) : Waits s s1 (execRls a s) (.fence .part) := by
  rw [execRls]
  refine runWord_waits h ?_
  dsimp only
  rw [hc]
  exact (if_neg (by rw [hr]; decide)).trans (fenced_waits hf _)

theorem rls_releases (h : Ready s t [a]) (hf : fenceMet s1 s.cur.at_ t .part = true) :
    Commits s (releaseResv ((s1.countHome s.cur.at_ (homeSlice (lineOf (t.rd a))).val).modThread s.cur.at_ (fun t => { t with resv := none }))
      s.cur.at_.part (lineOf (t.rd a))) [a] (execRls a s)
      { Commit.none with log := [.addr (t.rd a), .atom 11 0 0], lat := homeLat s.cur.at_.core (lineOf (t.rd a)) false } := by
  rw [execRls]
  refine runWord_commits h ?_
  dsimp only
  rw [hc]
  exact (if_neg (by rw [hr]; decide)).trans (fenced_met hf _)

theorem sch_stores (h : Ready s t [a, b]) (hf : fenceMet s1 s.cur.at_ t .part = true)
    (hp : homePlace s1 s.cur.at_ t needRW false true (t.rd a) 8 (.mem l) = .ok (x, s2)) :
    Commits s (releaseResv ((clearStamp (putBytes s2 s.cur.at_.part x.key 8 (t.rd b)) s.cur.at_ (t.rd a)).modThread s.cur.at_
      (fun t => { t with resv := none })) s.cur.at_.part (lineOf (t.rd a))) [a, b] (execSch a b s)
      { Commit.none with log := [.addr (t.rd a), .atom 10 0 (t.rd b), .leave (lineOf (t.rd a))], lat := x.lat } := by
  rw [execSch]
  refine runWord_commits h ?_
  dsimp only
  rw [hc]
  refine (if_neg (by rw [hr]; decide)).trans ((fenced_met hf _).trans ?_)
  rw [hp]

end

/-! ## The reservation passes on -/

section
variable {s : State} {p : PartId} {line : Nat} {h w : Waiter} {rest : List Waiter}

theorem releaseResv_last (hk : kget (s.part p).resv line = some [h]) :
    releaseResv s p line = retryLrw (s.modPart p (fun q => { q with resv := kdel q.resv line })) p line := by
  rw [releaseResv, hk]; rfl

theorem releaseResv_next (hk : kget (s.part p).resv line = some (h :: w :: rest)) {u : State}
    (hu : resvRead (s.modPart p (fun q => { q with resv := kput q.resv line (w :: rest) })) p w = u) (hn : u.linePoisoned w.key = false) :
    releaseResv s p line = retryLrw (replyThread (stampPend u w.who ((lineAt u p w.key).bind (fun l => l.stamp))) w.who w.tid
      (some (u.readMem w.key 8))) p line := by
  rw [releaseResv, hk]
  change retryLrw (grantNext p line (w :: rest) s) p line = _
  rw [grantNext, hu]
  rw [if_neg (by rw [hn]; decide)]

end

end Sys2Proof.Machine

open Sys2Proof Sys2Proof.Machine

/-- Settles O33: an arrival is `barArrives` on the three fields of the word. -/
theorem barrierResults : Obligations.BarrierResults := by
  intro s s1 s2 t sc a pl x h r ea hc
  have he : exec (.bar sc a) s = execBar sc a s := rfl
  rw [he]
  refine ⟨fun hf => bar_waits h hc hf, fun hf hp => ?_⟩
  intro w gen need got log
  have hgen : field (s2.readMem x.key 8) 32 32 = gen := Nat.mod_eq_of_lt (by have := (s2.readMem x.key 8).isLt; omega)
  have hneed : field (s2.readMem x.key 8) 16 16 = need := rfl
  have hgot : field (s2.readMem x.key 8) 0 16 = got := by rw [field, Nat.pow_zero, Nat.div_one]
  rw [bar_arrives h hc hf hp, hgen, hneed, hgot]
  exact ⟨fun hn => runWord_faults h (if_pos hn), fun hn => runWord_pends h ((if_neg (by omega)).trans (if_neg (by omega))),
    fun hn => runWord_commits h ((if_neg (by omega)).trans (if_pos hn))⟩

/-- Settles O34: the words after their shared checks, and the queue of the line as `grantNext` passes it on. -/
theorem reservationResults : Obligations.ReservationResults := by
  intro s s1 s2 t d a b l x key lat r ea line each
  have el : exec (.lrw d a) s = execLrw d a s := rfl
  have er : exec (.rls a) s = execRls a s := rfl
  have es : exec (.sch a b) s = execSch a b s := rfl
  have stops : ∀ {k v u}, resvAccess s r t ea = .error (.trap k v u) → each (fun i => Faults s u (exec i s) k v) := fun hx => by
    obtain ⟨h1, h2⟩ := reservation_stops (b := b) (d := d) hx
    refine ⟨fun h => ⟨?_, ?_⟩, fun h => ?_⟩
    · beta_reduce; rw [el, (h1 h).1]; exact runWord_faults h rfl
    · beta_reduce; rw [er, (h1 h).2]; exact runWord_faults h rfl
    · beta_reduce; rw [es, h2 h]; exact runWord_faults h rfl
  refine ⟨fun hr => stops (resvAccess_error (checkAccess_refused hr)), fun hk => stops (resvAccess_window hk), fun hk => ?_, ?_⟩
  · have hc := resvAccess_mem hk
    rw [el, er, es]
    refine ⟨fun h => ⟨fun hr => lrw_holds hc h hr, fun hr hp => ?_, fun hr => rls_refused hc h hr, fun hr hf => rls_waits hc hr h hf,
      fun hr hf => rls_releases hc hr h hf⟩,
      fun h => ⟨fun hr => sch_refused hc h hr, fun hr hf => sch_waits hc hr h hf, fun hr hf hp => sch_stores hc hr h hf hp⟩⟩
    intro w s3 ws s4 q
    have hj := lrw_joins (d := d) hc h hr hp
    rw [hj]
    refine ⟨fun hm hw => runWord_commits h ?_, fun hm hw => runWord_pends h ?_, fun hm => runWord_pends h ?_⟩
    · exact (if_neg (by rw [hm]; decide)).trans (if_pos (by rw [List.isEmpty_iff]; exact hw))
    · exact (if_neg (by rw [hm]; decide)).trans (if_neg (by rw [List.isEmpty_iff]; exact hw))
    · exact if_pos (by rw [hm]; rfl)
  · exact fun p h w rest => ⟨fun hk => releaseResv_last hk, fun hk => fun hn => releaseResv_next hk rfl hn⟩
end

section
/-! SUPPORT. AMO and RED (09 R164 to R166): the value of the operation by arithmetic, and the two words. -/
namespace Sys2Proof.Machine

/-! ## The value of the operation (R164) -/

/-- The signed value of an n-byte pattern. -/
def signedOf (n v : Nat) : Int := if v < 2 ^ (8 * n - 1) then v else (v : Int) - 2 ^ (8 * n)

theorem toInt_signedOf {n v : Nat} (hn : 0 < n) (hv : v < 2 ^ (8 * n)) : (BitVec.ofNat (8 * n) v).toInt = signedOf n v := by
  have hp : 2 ^ (8 * n) = 2 * 2 ^ (8 * n - 1) := by rw [← Nat.pow_succ']; congr 1; omega
  rw [BitVec.toInt_eq_toNat_cond, BitVec.toNat_ofNat, Nat.mod_eq_of_lt hv, signedOf]
  by_cases h : v < 2 ^ (8 * n - 1)
  · rw [if_pos h, if_pos (by omega)]
  · rw [if_neg h, if_neg (by omega)]; push_cast; rfl

/-- The new value of an AMO's or a RED's word, by the table of R164. -/
def amoNew (op : AmoOp) (n m y c : Nat) : Nat :=
  match op with
  | .add => (m + y) % 2 ^ (8 * n)
  | .and => m &&& y
  | .or => m ||| y
  | .xor => m ^^^ y
  | .min => if signedOf n y < signedOf n m then y else m
  | .max => if signedOf n m < signedOf n y then y else m
  | .minz => if y < m then y else m
  | .maxz => if m < y then y else m
  | .swap => y
  | .cas => if m = c then y else m

theorem amoValue_eq (op : AmoOp) {n m y : Nat} (c : Nat) (hn : 0 < n) (hm : m < 2 ^ (8 * n)) (hy : y < 2 ^ (8 * n)) :
    amoValue op (8 * n) m y c = amoNew op n m y c := by
  cases op with
  | min => rw [amoValue, toInt_signedOf hn hm, toInt_signedOf hn hy]; rfl
  | max => rw [amoValue, toInt_signedOf hn hm, toInt_signedOf hn hy]; rfl
  | minz =>
    rw [amoValue, amoNew]
    split
    · next h => exact Nat.min_eq_right h.le
    · next h => exact Nat.min_eq_left (Nat.not_lt.mp h)
  | maxz =>
    rw [amoValue, amoNew]
    split
    · next h => exact Nat.max_eq_right h.le
    · next h => exact Nat.max_eq_left (Nat.not_lt.mp h)
  | add | and | or | xor | swap | cas => rfl

theorem amoBytes_pos (sz : AmoSize) : 0 < amoBytes sz := by cases sz <;> decide

/-- The word at k after the operation, y the operand and c the comparand, each within the word's width. -/
def amoDone (op : AmoOp) (sz : AmoSize) (u : State) (k y c : Nat) : State :=
  windowWritten (u.writeMem k (amoBytes sz) (word (amoNew op (amoBytes sz) (memRead u.mem k (amoBytes sz)) y c))) k (amoBytes sz)

theorem amoAt_eq (u : State) (k : Nat) (op : AmoOp) (sz : AmoSize) (v c : Word) : amoAt u k op sz v c =
    (memRead u.mem k (amoBytes sz),
      amoDone op sz u k (v.toNat % 2 ^ (8 * amoBytes sz)) (c.toNat % 2 ^ (8 * amoBytes sz))) := by
  rw [amoAt, amoDone, ← amoValue_eq op _ (amoBytes_pos sz) (memRead_lt ..) (Nat.mod_lt _ (Nat.two_pow_pos _))]

/-- The old value as AMO returns it. -/
def amoReturns (op : AmoOp) (sz : AmoSize) (m : Nat) : Word :=
  match sz, op with
  | .w32, .min | .w32, .max => signExt 4 m
  | _, _ => word m

theorem amoOld_eq (op : AmoOp) (sz : AmoSize) {m : Nat} (hm : m < 2 ^ (8 * amoBytes sz)) : amoOld op sz m = amoReturns op sz m := by
  cases sz with
  | w32 =>
    have hs : sextTo 32 m = signExt 4 m := sextTo_signExt (n := 4) (by decide) hm
    cases op with
    | min | max => exact hs
    | add | and | or | xor | minz | maxz | swap | cas => rfl
  | w64 => cases op <;> rfl

/-! ## The thread's own updates -/

theorem redPending_of_none {s : State} {p : PartId} {tid : Nat} (h : updatesPending s p tid = false) (key n : Nat) :
    redPending s p tid key n = false := by
  rw [redPending, List.any_eq_false]
  rw [updatesPending, List.any_eq_false] at h
  intro c hc
  have := h c hc
  simp only [Bool.or_eq_true, List.any_eq_true, not_or, not_exists, not_and] at this ⊢
  exact ⟨fun x hx hm => this.1.1 x hx (by simp only [Bool.and_eq_true] at hm; exact hm.1.1),
    fun x hx hm => this.1.2 x hx (by simp only [Bool.and_eq_true] at hm; exact hm.1.1)⟩

theorem addmPending_of_none {s : State} {p : PartId} {tid : Nat} (h : updatesPending s p tid = false) (line : Nat) :
    addmPending s p tid line = false := by
  rw [addmPending, List.any_eq_false]
  rw [updatesPending, List.any_eq_false] at h
  intro c hc
  have := h c hc
  simp only [Bool.or_eq_true, List.any_eq_true, not_or, not_exists, not_and] at this ⊢
  exact fun x hx hm => this.2 x hx (by simp only [Bool.and_eq_true] at hm; exact hm.1)

/-- A thread none of whose updates is on its way has none to the bytes of a remote access. -/
theorem remoteOwn_of_none {s : State} {r : TRef} {t : Thread} (h : updatesPending s r.part t.tid = false) (ea : Word) (n : Nat) :
    remoteOwn s r t ea n = false := by
  rw [remoteOwn]
  have hl : ∀ l a, ownPending s r t l a n = false := fun l a => by
    rw [ownPending, redPending_of_none h, addmPending_of_none h]; rfl
  simp only [hl]
  split <;> simp

theorem updatesPending_of_sys {s : State} {r : TRef} {t : Thread} (h : fenceMet s r t .sys = true) : updatesPending s r.part t.tid = false := by
  simpa [fenceMet] using h

/-! ## AMO -/

section
variable {s s1 s2 : State} {t : Thread} {op : AmoOp} {sz : AmoSize} {d : Reg} {a b : Src} {l : Leaf} {pl : Place} {x : At} {key lat : Nat}
  (h : Ready s t [a, b])
include h

/-- The commit of an AMO performed at its word's home. -/
def amoCommit (op : AmoOp) (sz : AmoSize) (d : Reg) (ea : Word) (x : At) (m : Nat) : Commit :=
  { writes d (amoReturns op sz m) with
    log := .addr ea :: stampItems x ++ [.atom 5 d (amoReturns op sz m), .leave (lineOf ea)], lat := x.lat }

theorem amo_waits (hc : checkAccess s s.cur.at_ t needRW (t.rd a) (amoBytes sz) true = .ok (pl, s1))
    (hf : fenceMet s1 s.cur.at_ t .sys = false) : Waits s s1 (execAmo op sz d a b s) (.fence .sys) := by
  rw [execAmo]
  refine runWord_waits h ?_
  dsimp only
  rw [hc]
  exact fenced_waits hf _

theorem amo_mem (hc : checkAccess s s.cur.at_ t needRW (t.rd a) (amoBytes sz) true = .ok (.mem l, s1))
    (hf : fenceMet s1 s.cur.at_ t .sys = true)
    (hp : homePlace s1 s.cur.at_ t needRW true true (t.rd a) (amoBytes sz) (.mem l) = .ok (x, s2)) :
    Commits s ((clearStamp (amoDone op sz s2 x.key ((t.rd b).toNat % 2 ^ (8 * amoBytes sz)) ((t.rdD d).toNat % 2 ^ (8 * amoBytes sz)))
        s.cur.at_ (t.rd a)).modThread s.cur.at_ (fun t' => { t' with migrate := some (16 + (homeSlice (lineOf (t.rd a))).val) }))
      [a, b] (execAmo op sz d a b s) (amoCommit op sz d (t.rd a) x (memRead s2.mem x.key (amoBytes sz))) := by
  rw [execAmo]
  refine runWord_commits h ?_
  dsimp only
  rw [hc]
  refine (fenced_met hf _).trans ?_
  dsimp only
  rw [hp]
  dsimp only
  rw [amoAt_eq, amoCommit, amoOld_eq _ _ (memRead_lt ..)]
  rfl

theorem amo_window (hc : checkAccess s s.cur.at_ t needRW (t.rd a) (amoBytes sz) true = .ok (.window key lat, s1))
    (hf : fenceMet s1 s.cur.at_ t .sys = true)
    (hp : homePlace s1 s.cur.at_ t needRW true true (t.rd a) (amoBytes sz) (.window key lat) = .ok (x, s2)) :
    Commits s (clearStamp (amoDone op sz s2 x.key ((t.rd b).toNat % 2 ^ (8 * amoBytes sz)) ((t.rdD d).toNat % 2 ^ (8 * amoBytes sz)))
        s.cur.at_ (t.rd a))
      [a, b] (execAmo op sz d a b s) (amoCommit op sz d (t.rd a) x (memRead s2.mem x.key (amoBytes sz))) := by
  rw [execAmo]
  refine runWord_commits h ?_
  dsimp only
  rw [hc]
  refine (fenced_met hf _).trans ?_
  dsimp only
  rw [hp]
  dsimp only
  rw [amoAt_eq, amoCommit, amoOld_eq _ _ (memRead_lt ..)]
  rfl

theorem amo_remote (hr : inRemoteRegion (t.rd a) = true) (hn : (t.rd a).toNat % amoBytes sz = 0)
    (hw : s.watched s.cur.at_.part s.cur.at_.core = false) (hf : fenceMet s s.cur.at_ t .sys = true) :
    Pends s (sendRemote s (remoteReq s s.cur.at_ t (t.rd a) (.amo op sz (t.rd b) (t.rdD d)))) [a, b] (execAmo op sz d a b s)
      (readPend (some d) none (.atom 5) (t.rd a)) := by
  rw [execAmo]
  refine runWord_pends h ?_
  dsimp only
  rw [checkAccess_remote hr hn]
  refine (fenced_met hf _).trans ?_
  dsimp only
  rw [passPoint_unwatched hw]
  dsimp only
  rw [remoteRead, if_neg (Bool.eq_false_iff.mp (remoteOwn_of_none (updatesPending_of_sys hf) ..))]
  rfl

end

/-! ## RED -/

section
variable {s s1 s2 s3 : State} {t : Thread} {op : AmoOp} {sz : AmoSize} {a b : Src} {l : Leaf} {key lat page : Nat}
  (h : Ready s t [a, b])
include h

theorem red_full (hq : 16 ≤ (s.core s.cur.at_.part s.cur.at_.core).w.outQ.length) : Waits s s (execRed op sz a b s) .queue := by
  rw [execRed]
  exact runWord_waits h (if_pos (decide_eq_true hq))

variable (hq : (s.core s.cur.at_.part s.cur.at_.core).w.outQ.length < 16)
include hq

theorem red_asks (hr : inRemoteRegion (t.rd a) = true) (hn : (t.rd a).toNat % amoBytes sz = 0)
    (hw : s.watched s.cur.at_.part s.cur.at_.core = false) :
    Asks s t [a, b] (execRed op sz a b s) (t.rd a) (amoBytes sz) (.red op sz (t.rd b)) (writePend [.atom 6 0 (t.rd b)] (t.rd a)) := by
  rw [execRed]
  change Asks s t [a, b] _ (t.rd a) (opBytes (.red op sz (t.rd b))) _ _
  refine remoteWrite_asks h hw ?_
  dsimp only
  rw [if_neg (by simpa using hq), checkAccess_remote hr hn]

/-- The commit of a RED. -/
def redCommit (ea v : Word) : Commit := { Commit.none with log := [.addr ea, .atom 6 0 v, .leave (lineOf ea)] }

section
variable (hc : checkAccess s s.cur.at_ t needRW (t.rd a) (amoBytes sz) true = .ok (.window key lat, s1))
include hc

theorem red_poisoned (hp : windowPoisoned s1 key (amoBytes sz) = true) : Faults s s1 (execRed op sz a b s) .poison (some (t.rd a)) := by
  rw [execRed]
  refine runWord_faults h ((if_neg (by simpa using hq)).trans ?_)
  rw [hc]
  dsimp only
  rw [windowRead, if_pos hp]

theorem red_window (hp : windowPoisoned s1 key (amoBytes sz) = false) :
    Commits s (amoDone op sz (windowAt s1 s.cur.at_ key lat (amoBytes sz)).2 key ((t.rd b).toNat % 2 ^ (8 * amoBytes sz)) 0) [a, b]
      (execRed op sz a b s) (redCommit (t.rd a) (t.rd b)) := by
  rw [execRed]
  refine runWord_commits h ((if_neg (by simpa using hq)).trans ?_)
  rw [hc]
  dsimp only
  rw [windowRead, if_neg (Bool.eq_false_iff.mp hp)]
  dsimp only
  have h0 : BitVec.toNat (0 : Word) % 2 ^ (8 * amoBytes sz) = 0 := Nat.zero_mod _
  rw [amoAt_eq, h0]
  rfl

end

variable (hc : checkAccess s s.cur.at_ t needRW (t.rd a) (amoBytes sz) true = .ok (.mem l, s1))
include hc

theorem red_behind (ha : addmPending s1 s.cur.at_.part t.tid (lineOf (t.rd a)) = true) : Waits s s1 (execRed op sz a b s) .queue := by
  rw [execRed]
  refine runWord_waits h ((if_neg (by simpa using hq)).trans ?_)
  rw [hc]
  exact if_pos ha

variable (ha : addmPending s1 s.cur.at_.part t.tid (lineOf (t.rd a)) = false)
include ha

theorem red_held (hh : holdWrite s1 s.cur.at_ t l = .error (.wait (.page page) s2)) : Waits s s2 (execRed op sz a b s) (.page page) := by
  rw [execRed]
  refine runWord_waits h ((if_neg (by simpa using hq)).trans ?_)
  rw [hc]
  refine (if_neg (Bool.eq_false_iff.mp ha)).trans ?_
  rw [hh]

theorem red_unplaced (hh : holdWrite s1 s.cur.at_ t l = .ok s2) (hs : stampLine s2 s.cur.at_ (lineOf (t.rd a)) l.dom = none) :
    Waits s s2 (execRed op sz a b s) .queue := by
  rw [execRed]
  refine runWord_waits h ((if_neg (by simpa using hq)).trans ?_)
  rw [hc]
  refine (if_neg (Bool.eq_false_iff.mp ha)).trans ?_
  rw [hh]
  dsimp only
  rw [hs]

theorem red_leaves (hh : holdWrite s1 s.cur.at_ t l = .ok s2) (hs : stampLine s2 s.cur.at_ (lineOf (t.rd a)) l.dom = some s3) :
    let q : RedReq :=
      { src := s.cur.at_, tid := t.tid, corr := t.corr, ctx := t.ctx, key := keyMain s.cur.at_.part (l.phys (va57 (t.rd a))),
        line := lineOf (t.rd a), op := op, sz := sz, v := t.rd b, sent := s3.cycle }
    Commits s (clearStamp (((s3.countHome s.cur.at_ (homeSlice (lineOf (t.rd a))).val).modCoreW s.cur.at_.part s.cur.at_.core
        (fun w => { w with outQ := w.outQ ++ [q] })).push (.remoteUpdate s.cur.at_.part (bankCore (homeSlice (lineOf (t.rd a))))))
        s.cur.at_ (t.rd a)) [a, b] (execRed op sz a b s) (redCommit (t.rd a) (t.rd b)) := by
  rw [execRed]
  refine runWord_commits h ((if_neg (by simpa using hq)).trans ?_)
  rw [hc]
  refine (if_neg (Bool.eq_false_iff.mp ha)).trans ?_
  rw [hh]
  dsimp only
  rw [hs]
  rfl

end

end Sys2Proof.Machine

open Sys2Proof Sys2Proof.Machine

/-- Settles O35: the operation is `amoNew` of the word, the operand and the comparand; each way of the two words is one of the lemmas above. -/
theorem atomicResults : Obligations.AtomicResults := by
  intro s s1 s2 s3 t op sz d a b l pl x key lat page h r ea n y sg new old done request amo red reply cmp log
  have hn : n = amoBytes sz := by cases sz <;> rfl
  clear_value n
  subst hn
  have hnew : ∀ m c, new m c = amoNew op (amoBytes sz) m y c := fun m c => by cases op <;> rfl
  have hdone : done = fun u k c => amoDone op sz u k y c := by
    funext u k c
    simp only [done, hnew]
    rfl
  have hreply : reply = amoCommit op sz d ea x (memRead s2.mem x.key (amoBytes sz)) := by
    have hold : ∀ m, old m = amoReturns op sz m := fun m => by cases sz <;> cases op <;> rfl
    simp only [reply, hold]
    rfl
  have hamo : amo = execAmo op sz d a b s := rfl
  have hred : red = execRed op sz a b s := rfl
  rw [hamo, hred, hdone, hreply]
  refine ⟨fun hc hf => amo_waits h hc hf, fun hc hf hp => amo_mem h hc hf hp, fun hc hf hp => amo_window h hc hf hp,
    fun hr hm hw => ⟨fun hf => amo_remote h hr hm hw hf, fun hq => (red_asks h hq hr hm hw).1, fun hq => (red_asks h hq hr hm hw).2⟩,
    fun hq => red_full h hq, fun hq hc => ⟨fun hp => red_poisoned h hq hc hp, fun hp => red_window h hq hc hp⟩, fun hq hc => ?_⟩
  exact ⟨fun hp => red_behind h hq hc hp, fun hp => ⟨fun hh => red_held h hq hc hp hh, fun hh hs => red_unplaced h hq hc hp hh hs,
    fun hh hs => red_leaves h hq hc hp hh hs⟩⟩
end

section
/-! SUPPORT. Full/empty words (09 R149, R150): what an operation does at its word's home, and the lists that the home serves. -/
namespace Sys2Proof.Machine

/-! ## An operation that arrives at its word's home -/

section
variable {s : State} {p : PartId} {q : FeReq}

theorem feArrive_lds (h : q.op = .lds) (hf : s.fullBit q.key = true) :
    feArrive s p q = (some (some (s.readMem q.key 8)), s.setFullBit q.key false) := by
  simp only [feArrive, h, hf, feComplete, if_true]

theorem feArrive_ldsk (h : q.op = .ldsk) (hf : s.fullBit q.key = true) : feArrive s p q = (some (some (s.readMem q.key 8)), s) := by
  simp only [feArrive, h, hf, feComplete, if_true]; rfl

theorem feArrive_load_waits (h : q.op = .lds ∨ q.op = .ldsk) (hf : s.fullBit q.key = false) :
    feArrive s p q = (none, setFeLists s p q.key { feLists s p q.key with full := (feLists s p q.key).full ++ [q] }) := by
  rcases h with h | h <;> simp only [feArrive, h, hf, Bool.false_eq_true, if_false]

theorem feArrive_sts_waits (h : q.op = .sts) (hf : s.fullBit q.key = true) :
    feArrive s p q = (none, setFeLists s p q.key { feLists s p q.key with empty := (feLists s p q.key).empty ++ [q] }) := by
  simp only [feArrive, h, hf, if_true]

theorem feArrive_fills (h : q.op = .stf ∨ (q.op = .sts ∧ s.fullBit q.key = false)) :
    feArrive s p q = (some none, feFill s p q.key q.val) := by
  rcases h with h | ⟨h, hf⟩
  · simp only [feArrive, h]
  · simp only [feArrive, h, hf, Bool.false_eq_true, if_false]

theorem feArrive_clre (h : q.op = .clre) : feArrive s p q = (some none, s.setFullBit q.key false) := by simp only [feArrive, h]

end

/-! ## The words of a thread -/

section
variable {s s1 s2 : State} {t : Thread} {op : FeOp} {d : Reg} {v ea : Word} {pl : Place} {x : At}

/-- What a thread asks of its word's home. -/
def feAsk (op : FeOp) (key : Nat) (v : Word) (r : TRef) (t : Thread) : FeReq :=
  { op := op, key := key, val := v, who := .thread r t.tid, corr := t.corr }

section
variable (r : TRef) (hc : checkAccess s r t (feNeed op) ea 8 true = .ok (pl, s1))
  (hp : homePlace s1 r t (feNeed op) (feReads op) (op != .ldsk) ea 8 pl = .ok (x, s2))
include hc hp

/-- An operation at its word's home that returns a value. -/
theorem feWord_returns {u : State} {y : Word} (ha : feArrive s2 r.part (feAsk op x.key v r t) = (some (some y), u)) :
    feWord op d v ea r t s = .done
      { writes d y with log := .addr ea :: stampItems x ++ [.atom (FeOp.kind op) d y], lat := x.lat } (feServeSoon u r.part x.key) := by
  rw [feWord, hc]
  cases pl with
  | remote => cases hp
  | window key lat => dsimp only; rw [hp]; dsimp only; rw [← feAsk, ha]; rfl
  | mem l => dsimp only; rw [hp]; dsimp only; rw [← feAsk, ha]; rfl

/-- One that writes. -/
theorem feWord_writes {u : State} (ha : feArrive s2 r.part (feAsk op x.key v r t) = (some none, u)) :
    feWord op d v ea r t s = .done { Commit.none with log := .addr ea :: feWriteLog op d v ea, lat := x.lat } (feServeSoon u r.part x.key) := by
  rw [feWord, hc]
  cases pl with
  | remote => cases hp
  | window key lat => dsimp only; rw [hp]; dsimp only; rw [← feAsk, ha]
  | mem l => dsimp only; rw [hp]; dsimp only; rw [← feAsk, ha]

/-- One that joins the word's lists. -/
theorem feWord_joins {u : State} (ha : feArrive s2 r.part (feAsk op x.key v r t) = (none, u)) :
    feWord op d v ea r t s =
      if feReads op then
        .pend { commit := { Commit.none with log := [.addr ea] }, dest := some d, log := .atom (FeOp.kind op), ty := some .s64,
                addr := ea, big := pl.big, size := 0, words := [] } (feServeSoon u r.part x.key)
      else
        .pend { commit := { Commit.none with log := .addr ea :: feWriteLog op d v ea }, dest := none, log := .nothing,
                ty := none, addr := ea, big := pl.big, size := 0, words := [] } (feServeSoon u r.part x.key) := by
  rw [feWord, hc]
  cases pl with
  | remote => cases hp
  | window key lat => dsimp only; rw [hp]; dsimp only; rw [← feAsk, ha]
  | mem l => dsimp only; rw [hp]; dsimp only; rw [← feAsk, ha]

end

/-! ## Another partition's words -/

theorem feWord_remote_reads (r : TRef) (hr : inRemoteRegion ea = true) (hn : ea.toNat % 8 = 0) (ho : feReads op = true) :
    feWord op d v ea r t s = remoteRead s r t ea (.fe op v) (some d) (some .s64) (.atom (FeOp.kind op)) := by
  rw [feWord, checkAccess_remote hr hn]
  exact if_pos ho

theorem feWord_remote_writes (r : TRef) (hr : inRemoteRegion ea = true) (hn : ea.toNat % 8 = 0) (ho : feReads op = false) :
    feWord op d v ea r t s = remoteWrite s r t ea (.fe op v) (feWriteLog op d v ea) := by
  rw [feWord, checkAccess_remote hr hn]
  exact if_neg (Bool.eq_false_iff.mp ho)

end

theorem feReads_asks {s : State} {t : Thread} {srcs : List Src} (h : Ready s t srcs) (e : Thread → Word) (op : FeOp) (d : Reg)
    (hr : inRemoteRegion (e t) = true) (hn : (e t).toNat % 8 = 0) (ho : feReads op = true) :
    Asks s t srcs (runWord srcs (fun r t s => feWord op d 0 (e t) r t s) s) (e t) 8 (.fe op 0)
      (readPend (some d) (some .s64) (.atom (FeOp.kind op)) (e t)) :=
  remoteRead_asks (op := .fe op 0) h (feWord_remote_reads _ hr hn ho)

theorem feWrites_asks {s : State} {t : Thread} {srcs : List Src} (h : Ready s t srcs) (hw : s.watched s.cur.at_.part s.cur.at_.core = false)
    (e : Thread → Word) (op : FeOp) (d : Reg) (v : Thread → Word) (hr : inRemoteRegion (e t) = true) (hn : (e t).toNat % 8 = 0)
    (ho : feReads op = false) :
    Asks s t srcs (runWord srcs (fun r t s => feWord op d (v t) (e t) r t s) s) (e t) 8 (.fe op (v t))
      (writePend (feWriteLog op d (v t) (e t)) (e t)) :=
  remoteWrite_asks (op := .fe op (v t)) h hw (feWord_remote_writes _ hr hn ho)

/-! ## The lists of a word -/

section
variable {s s0 : State} {p : PartId} {key : Nat} {q : FeReq} {rest : List FeReq}

theorem feServe_full (hq : q.key = key) (hf : s.fullBit key = true) (hl : (feLists s p key).full = q :: rest) :
    feServe s p key = feReply (if q.op = .lds then
        (setFeLists s p key { feLists s p key with full := rest }).setFullBit key false
      else setFeLists s p key { feLists s p key with full := rest }) p q
      (some ((setFeLists s p key { feLists s p key with full := rest }).readMem key 8)) := by
  subst hq
  rw [feServe]
  simp only [hl, hf, feComplete]

theorem feServe_empty (hf : s.fullBit key = false) (hl : (feLists s p key).empty = q :: rest) :
    feServe s p key = feReply (feLogged (feFill (setFeLists s p key { feLists s p key with empty := rest }) p key q.val) q) p q none := by
  rw [feServe]
  simp only [hl, hf]

/-- What an operation of another party comes to at its word's home, said of any function that is the step's, so that the kernel never has
to evaluate what arrives. -/
theorem feHome_arrives {u : State} {x : Option (Option Word) × State} {F : PartId → FeReq → State → Out} (hF : F = execFeHomeOperation)
    (hu : opAtHome s p q.key (.step (.feHomeOperation p q)) = .ok u) (hs : u.sramAt p q.key = s0) (hx : feArrive s0 p q = x) :
    F p q s = .next (match x.1 with
      | some v => feServeSoon (feReply x.2 p q v) p q.key
      | none => feServeSoon x.2 p q.key) := by
  delta execFeHomeOperation at hF
  rw [hF]
  beta_reduce
  rw [hu]
  dsimp only
  rw [hs, hx]
  obtain ⟨o, w⟩ := x
  cases o <;> rfl

theorem feHome_replies {u w : State} {v : Option Word} (hu : opAtHome s p q.key (.step (.feHomeOperation p q)) = .ok u)
    (hs : u.sramAt p q.key = s0) (hx : feArrive s0 p q = (some v, w)) :
    execFeHomeOperation p q s = .next (feServeSoon (feReply w p q v) p q.key) := feHome_arrives rfl hu hs hx

theorem feHome_joins {u w : State} (hu : opAtHome s p q.key (.step (.feHomeOperation p q)) = .ok u) (hs : u.sramAt p q.key = s0)
    (hx : feArrive s0 p q = (none, w)) : execFeHomeOperation p q s = .next (feServeSoon w p q.key) := feHome_arrives rfl hu hs hx

end

end Sys2Proof.Machine

open Sys2Proof Sys2Proof.Machine

/-- Settles O29: one step of `serve(w)` takes the head of the list that is due. -/
theorem fullEmptyService : Obligations.FullEmptyService := by
  intro s s0 p key q rest s1 l bad
  have hbad : (s1.linePoisoned key || s1.wordPoisoned key) = true ↔ bad := by simp [bad]
  have el : exec (.feListServe p key) s = execFeListServe p key s := rfl
  have eh : exec (.feHomeOperation p q) s = execFeHomeOperation p q s := rfl
  have served : feDue s p key = true → opAtHome (lineBack s p key) p key (.step (.feListServe p key)) = .ok s0 → execFeListServe p key s =
      if s1.linePoisoned key || s1.wordPoisoned key then .next (fePoisoned s1 p key) else .next (feServeSoon (feServe s1 p key) p key) :=
    fun hd hs => by rw [execFeListServe, hd, hs]; rfl
  rw [el, eh]
  refine ⟨fun hd => ?_, fun hd hs => ?_, fun hd hs hq => ⟨fun hb => ?_, fun hb hf hl => ?_, fun hb hf hl => ?_⟩, fun u hu hs => ?_⟩
  · rw [execFeListServe, hd]; rfl
  · rw [execFeListServe, hd, hs]; rfl
  · rw [served hd hs, if_pos (hbad.mpr hb)]
  · rw [served hd hs, if_neg (hbad.not.mpr hb), feServe_full hq hf hl]
  · rw [served hd hs, if_neg (hbad.not.mpr hb), feServe_empty hf hl]; rfl
  · exact ⟨fun ho hf => feHome_replies hu hs (feArrive_lds ho hf), fun ho hf => feHome_replies hu hs (feArrive_ldsk ho hf),
      fun ho hf => feHome_joins hu hs (feArrive_load_waits ho hf), fun ho hf => feHome_joins hu hs (feArrive_sts_waits ho hf),
      fun ho => feHome_replies hu hs (feArrive_fills ho), fun ho => feHome_replies hu hs (feArrive_clre ho)⟩

/-- Settles O28: each word is its operation at the word's home, or its request to another partition. -/
theorem fullEmptyResults : Obligations.FullEmptyResults := by
  intro s s1 s2 t d a off pl x h r ea v y home big req l soon read wrote waits
  have hbig {need reads writes} (hp : homePlace s1 r t need reads writes ea 8 pl = .ok (x, s2)) : pl.big = big := by
    cases pl with
    | remote => cases hp
    | window => rfl
    | mem => rfl
  have lds : exec (.lds d a off) s = runWord [a] (fun r t st => feWord .lds d 0 (eaOffset t a off) r t st) s := rfl
  have ldsk : exec (.ldsk d a off) s = runWord [a] (fun r t st => feWord .ldsk d 0 (eaOffset t a off) r t st) s := rfl
  have sts : exec (.sts d a off) s = runWord [a] (fun r t st => feWord .sts d (t.rdD d) (eaOffset t a off) r t st) s := rfl
  have stf : exec (.stf d a off) s = runWord [a] (fun r t st => feWord .stf d (t.rdD d) (eaOffset t a off) r t st) s := rfl
  have clre : exec (.clre a off) s = runWord [a] (fun r t st => feWord .clre 0 0 (eaOffset t a off) r t st) s := rfl
  rw [lds, ldsk, sts, stf, clre]
  refine ⟨fun ⟨hc, hp⟩ => ⟨fun hf => ?_, fun hf => ?_⟩, fun ⟨hc, hp⟩ => ⟨fun hf => ?_, fun hf => ?_⟩,
    fun ⟨hc, hp⟩ => ⟨fun hf => ?_, fun hf => ?_, ?_, ?_⟩, fun hr hn => ⟨fun ho i hi => ?_, fun ho => ⟨?_, ?_⟩, fun ho hw => ⟨?_, ?_, ?_⟩⟩⟩
  · exact runWord_commits h (feWord_returns (op := .lds) (d := d) (v := 0) r hc hp (feArrive_lds rfl hf))
  · rw [← hbig hp]
    exact runWord_pends h ((feWord_joins (op := .lds) (d := d) (v := 0) r hc hp (feArrive_load_waits (.inl rfl) hf)).trans (if_pos rfl))
  · exact runWord_commits h (feWord_returns (op := .ldsk) (d := d) (v := 0) r hc hp (feArrive_ldsk rfl hf))
  · rw [← hbig hp]
    exact runWord_pends h ((feWord_joins (op := .ldsk) (d := d) (v := 0) r hc hp (feArrive_load_waits (.inr rfl) hf)).trans (if_pos rfl))
  · exact runWord_commits h (feWord_writes (op := .sts) (d := d) (v := y) r hc hp (feArrive_fills (.inr ⟨rfl, hf⟩)))
  · rw [← hbig hp]
    exact runWord_pends h ((feWord_joins (op := .sts) (d := d) (v := y) r hc hp (feArrive_sts_waits rfl hf)).trans (if_neg nofun))
  · exact runWord_commits h (feWord_writes (op := .stf) (d := d) (v := y) r hc hp (feArrive_fills (.inl rfl)))
  · exact runWord_commits h (feWord_writes (op := .clre) (d := 0) (v := 0) r hc hp (feArrive_clre rfl))
  · have reads {op d v ty log} : remoteRead s r t ea (.fe op v) d ty log = .wait .queue s := if_pos ho
    have writes {op v log} : remoteWrite s r t ea (.fe op v) log = .wait .queue s := if_pos ho
    have waits {f : TRef → Thread → State → Res} (e : exec i s = runWord [a] f s) (hf : f r t s = .wait .queue s) :
        Waits s s (exec i s) .queue := e ▸ runWord_waits h hf
    fin_cases hi
    · exact waits lds ((feWord_remote_reads (op := .lds) r hr hn rfl).trans reads)
    · exact waits ldsk ((feWord_remote_reads (op := .ldsk) r hr hn rfl).trans reads)
    · exact waits sts ((feWord_remote_writes (op := .sts) r hr hn rfl).trans writes)
    · exact waits stf ((feWord_remote_writes (op := .stf) r hr hn rfl).trans writes)
    · exact waits clre ((feWord_remote_writes (op := .clre) r hr hn rfl).trans writes)
  · exact (feReads_asks h (fun t => eaOffset t a off) .lds d hr hn rfl).2 ho
  · exact (feReads_asks h (fun t => eaOffset t a off) .ldsk d hr hn rfl).2 ho
  · exact (feWrites_asks h hw (fun t => eaOffset t a off) .sts d (fun t => t.rdD d) hr hn rfl).2 ho
  · exact (feWrites_asks h hw (fun t => eaOffset t a off) .stf d (fun t => t.rdD d) hr hn rfl).2 ho
  · exact (feWrites_asks h hw (fun t => eaOffset t a off) .clre 0 (fun _ => 0) hr hn rfl).2 ho
end

section
/-! SUPPORT. MFS (22 R344 to R347): what it refuses, and the register that it reads. -/
namespace Sys2Proof.Machine

section
variable {s : State} {r : TRef} {t : Thread} {d : Reg} {reg : SysReg}

/-- What MFS does with its register. -/
def mfsAt (d : Reg) (reg : SysReg) (r : TRef) (t : Thread) (s : State) : Res :=
  if regReads reg == .priv && !t.priv then .trap .privilege (some (word reg.num)) s
  else if regHome reg == .cluster && (clusterOf r.core).isNone then .trap .target none s
  else
    let s := countShared s r.part reg
    .done { Commit.reg d (readReg s r t reg) with lat := if regRemote reg then 30 else 0 } s

theorem execMfs_eq : execMfs d reg s = runWord [] (mfsAt d reg) s := rfl

theorem mfs_privileged (h : regReads reg = .priv) (ht : t.priv = false) : mfsAt d reg r t s = .trap .privilege (some (word reg.num)) s :=
  if_pos (by rw [h, ht]; rfl)

theorem mfs_no_cluster (h : ¬ (regReads reg = .priv ∧ t.priv = false)) (hh : regHome reg = .cluster) (hc : clusterOf r.core = none) :
    mfsAt d reg r t s = .trap .target none s :=
  (if_neg (by simpa using h)).trans (if_pos (by rw [hh, hc]; rfl))

theorem mfs_reads (h : ¬ (regReads reg = .priv ∧ t.priv = false)) (hh : ¬ (regHome reg = .cluster ∧ clusterOf r.core = none)) :
    mfsAt d reg r t s = .done { Commit.reg d (readReg (countShared s r.part reg) r t reg) with lat := if regRemote reg then 30 else 0 }
      (countShared s r.part reg) :=
  (if_neg (by simpa using h)).trans (if_neg (by simpa using hh))

theorem regRemote_iff : regRemote reg = true ↔ regHome reg = .cluster ∨ regHome reg = .partition := by simp [regRemote]

/-- Only a shared counter past the first counts on when it is read. -/
theorem countShared_still (h : reg = .shcnt 0 ∨ ∀ i, reg ≠ .shcnt i) {p : PartId} : countShared s p reg = s := by
  rcases h with rfl | h
  · rfl
  · cases reg
    case shcnt i => exact absurd rfl (h i)
    all_goals rfl

theorem countShared_mem {p : PartId} : (countShared s p reg).mem = s.mem := by
  cases reg
  case shcnt i => exact (apply_ite State.mem (i = 0) _ _).trans (ite_self _)
  all_goals rfl

end

end Sys2Proof.Machine

open Sys2Proof Sys2Proof.Machine

/-- Settles O47: MFS refuses, or reads `readReg`. -/
theorem readRegisterResults : Obligations.ReadRegisterResults := by
  intro s t d reg i i4 i16 h r q w k n acc
  have e : exec (.mfs d reg) s = runWord [] (mfsAt d reg) s := rfl
  rw [e]
  refine ⟨fun hp ht => runWord_faults h (mfs_privileged hp ht), fun hm hh hc => runWord_faults h (mfs_no_cluster hm hh hc),
    fun hm hh hs => ⟨readReg s r t reg, ?_, ?_, ?_, ?_, ?_, ?_, ?_⟩, ?_⟩
  · have hl : (if regRemote reg then 30 else 0) = if regHome reg = .cluster ∨ regHome reg = .partition then 30 else 0 := by
      simp only [regRemote_iff]
    rw [← hl]
    have hr := mfs_reads (d := d) (s := s) (t := t) hm hh
    rw [countShared_still hs] at hr
    exact (runWord_completes h hr rfl rfl).log []
  · intro e he hr; fin_cases he <;> cases hr <;> rfl
  · intro e he hr; fin_cases he <;> cases hr <;> rfl
  · intro cl hc
    have accst (reg) (hr : reg = .accst i) : readReg s r t reg = acc (s.acc r.part cl (2 * (n % 8) + i.val)) := by
      subst hr
      exact (congrArg (fun c => match c with | some cl => accstWord (s.acc r.part cl (accstSlot r.core i)) | none => 0) hc :)
    have engctl (reg) (hr : reg = .engctl) : readReg s r t reg = (s.cluster r.part cl).engctl := by
      subst hr
      exact (congrArg (fun c => match c with | some cl => (s.cluster r.part cl).engctl | none => 0) hc :)
    intro e he hr
    fin_cases he
    · exact accst reg hr
    · exact engctl reg hr
    · cases hr; rfl
  · intro hc hr
    subst hr
    exact (congrArg (fun c => match c with | some cl => accstWord (s.acc r.part cl (accstSlot r.core i)) | none => 0) hc :)
  · intro e he hr; fin_cases he <;> cases hr <;> rfl
  · intro e he hr; fin_cases he <;> cases hr <;> rfl
  · rintro hi rfl
    refine ⟨countShared s r.part (.shcnt i4), runWord_commits h (mfs_reads (by simp [regReads]) (by simp [regHome])), countShared_mem⟩
end

section
/-! SUPPORT. ADDM and LDB (15 R257 to R259): the checks in their order, and what each word leaves. -/
namespace Sys2Proof.Machine

/-! ## The checks -/

section
variable {s s1 : State} {r : TRef} {t : Thread} {need : BitVec 4} {x : Word} {e : PlbEntry}

theorem steepAccess_form (h : canonical x = false ∨ inRemoteRegion x = true) : steepAccess s r t need x = .error (.trap .address (some x) s) :=
  if_pos (by rcases h with h | h <;> simp [h])

theorem steepAccess_window (hw : inWindowRegion x = true) : steepAccess s r t need x = .error (.trap .steep (some x) s) := by
  rw [steepAccess, if_neg (by rw [canonical_of_window hw, remote_of_window hw]; decide), if_pos hw]

variable (hp : canonical x = true ∧ inRemoteRegion x = false ∧ inWindowRegion x = false)
include hp

/-- On cacheable memory the page's entry decides. -/
theorem steepAccess_plain : steepAccess s r t need x = match plbLookup s r t x with
    | .error e => .error e
    | .ok (e, s) =>
      if !e.leaf.steep then .error (.trap .steep (some x) s)
      else if !entryAllows e t.priv need then .error (.trap .protection (some x) s)
      else if x.toNat % elemBytes e.leaf.sfmt != 0 then .error (.trap .misaligned (some x) s)
      else .ok (e.leaf, s) := by
  obtain ⟨hc, hr, hw⟩ := hp
  rw [steepAccess]
  exact (if_neg (by rw [hc, hr]; decide)).trans (if_neg (by rw [hw]; decide))

theorem steepAccess_dropped {q : Res} (hl : plbLookup s r t x = .error q) : steepAccess s r t need x = .error q := by
  rw [steepAccess_plain hp, hl]

variable (hl : plbLookup s r t x = .ok (e, s1))
include hl

theorem steepAccess_flat (hs : e.leaf.steep = false) : steepAccess s r t need x = .error (.trap .steep (some x) s1) := by
  rw [steepAccess_plain hp, hl]
  exact if_pos (by rw [hs]; rfl)

variable (hs : e.leaf.steep = true)
include hs

theorem steepAccess_denied (ha : entryAllows e t.priv need = false) : steepAccess s r t need x = .error (.trap .protection (some x) s1) := by
  rw [steepAccess_plain hp, hl]
  exact (if_neg (by rw [hs]; decide)).trans (if_pos (by rw [ha]; rfl))

theorem steepAccess_misaligned (ha : entryAllows e t.priv need = true) (hn : x.toNat % elemBytes e.leaf.sfmt ≠ 0) :
    steepAccess s r t need x = .error (.trap .misaligned (some x) s1) := by
  rw [steepAccess_plain hp, hl]
  exact (if_neg (by rw [hs]; decide)).trans ((if_neg (by rw [ha]; decide)).trans (if_pos (by simpa using hn)))

theorem steepAccess_ok (ha : entryAllows e t.priv need = true) (hn : x.toNat % elemBytes e.leaf.sfmt = 0) :
    steepAccess s r t need x = .ok (e.leaf, s1) := by
  rw [steepAccess_plain hp, hl]
  exact (if_neg (by rw [hs]; decide)).trans ((if_neg (by rw [ha]; decide)).trans (if_neg (by simpa using hn)))

end

theorem elemBytes_eq (fmt : Nat) : elemBytes fmt = match fmt with
    | 1 => 8
    | _ => 4 := by
  by_cases h : fmt = 1
  · subst h; rfl
  · rw [elemBytes, if_neg h]
    split
    · exact absurd rfl h
    · rfl

/-! ## The words -/

section
variable {s s1 s2 s3 : State} {t : Thread} {d : Reg} {a b : Src} {l : Leaf}

/-- What ADDM does once its checks have passed with the leaf l. -/
def addmGoes (a b : Src) (l : Leaf) (r : TRef) (t : Thread) (s : State) : Res :=
  let x := t.rd a
  let key := keyMain r.part (l.phys (va57 x))
  if redPending s r.part t.tid key (elemBytes l.sfmt) then .wait .queue s
  else
    match holdWrite s r t l with
    | .error e => e
    | .ok s =>
      if s.linePoisoned key then .trap .poison (some x) s
      else
        match stampLine s r (lineOf x) l.dom with
        | none => .wait .queue s
        | some s =>
          let q : AddmReq :=
            { tid := t.tid, line := lineOf x, off := x.toNat % 128, a := t.rd b, fmt := l.sfmt, slim := l.slim, dom := l.dom,
              key := key / 128 * 128, phase := 0 }
          .done { Commit.none with log := [.addr x, .atom 7 0 (t.rd b), .leave (lineOf x)] }
            (clearStamp ((s.modCoreW r.part r.core (fun w => { w with steepQ := w.steepQ ++ [q] })).push (.addmPerform r.part r.core)) r x)

/-- What ADDM does. -/
def addmAt (a b : Src) (r : TRef) (t : Thread) (s : State) : Res :=
  if decide (16 ≤ (s.core r.part r.core).w.steepQ.length) then .wait .queue s
  else
    match steepAccess s r t needRW (t.rd a) with
    | .error e => e
    | .ok (l, s) => addmGoes a b l r t s

section
variable {r : TRef}

theorem addmAt_full (hf : ¬ (s.core r.part r.core).w.steepQ.length < 16) : addmAt a b r t s = .wait .queue s := if_pos (by simpa using hf)

theorem addmAt_stops (hf : (s.core r.part r.core).w.steepQ.length < 16) {e : Res} (hx : steepAccess s r t needRW (t.rd a) = .error e) :
    addmAt a b r t s = e := by
  rw [addmAt, if_neg (by simpa using hf), hx]

theorem addmAt_goes (hf : (s.core r.part r.core).w.steepQ.length < 16) (hx : steepAccess s r t needRW (t.rd a) = .ok (l, s1)) :
    addmAt a b r t s = addmGoes a b l r t s1 := by
  rw [addmAt, if_neg (by simpa using hf), hx]

theorem addmGoes_behind (hr : redPending s r.part t.tid (keyMain r.part (l.phys (va57 (t.rd a)))) (elemBytes l.sfmt) = true) :
    addmGoes a b l r t s = .wait .queue s := if_pos hr

variable (hr : redPending s r.part t.tid (keyMain r.part (l.phys (va57 (t.rd a)))) (elemBytes l.sfmt) = false)
include hr

theorem addmGoes_held {e : Res} (hh : holdWrite s r t l = .error e) : addmGoes a b l r t s = e := by
  rw [addmGoes, hr, hh]; rfl

variable (hh : holdWrite s r t l = .ok s1)
include hh

theorem addmGoes_poisoned (hp : s1.linePoisoned (keyMain r.part (l.phys (va57 (t.rd a)))) = true) :
    addmGoes a b l r t s = .trap .poison (some (t.rd a)) s1 := by
  rw [addmGoes, hr, hh]
  exact (if_neg nofun).trans (if_pos hp)

variable (hp : s1.linePoisoned (keyMain r.part (l.phys (va57 (t.rd a)))) = false)
include hp

theorem addmGoes_unplaced (hs : stampLine s1 r (lineOf (t.rd a)) l.dom = none) : addmGoes a b l r t s = .wait .queue s1 := by
  rw [addmGoes, hr, hh]
  refine (if_neg nofun).trans ((if_neg (Bool.eq_false_iff.mp hp)).trans ?_)
  rw [hs]

theorem addmGoes_leaves (hs : stampLine s1 r (lineOf (t.rd a)) l.dom = some s2) : addmGoes a b l r t s =
    .done { Commit.none with log := [.addr (t.rd a), .atom 7 0 (t.rd b), .leave (lineOf (t.rd a))] }
      (clearStamp ((s2.modCoreW r.part r.core (fun w => { w with steepQ := w.steepQ ++ [
        { tid := t.tid, line := lineOf (t.rd a), off := (t.rd a).toNat % 128, a := t.rd b, fmt := l.sfmt, slim := l.slim, dom := l.dom,
          key := keyMain r.part (l.phys (va57 (t.rd a))) / 128 * 128, phase := 0 }] })).push (.addmPerform r.part r.core)) r (t.rd a)) := by
  rw [addmGoes, hr, hh]
  refine (if_neg nofun).trans ((if_neg (Bool.eq_false_iff.mp hp)).trans ?_)
  rw [hs]

end

/-! ## The bounded load -/

section
variable {r : TRef} {x : Word} {tol : BitVec 32} {l' : Leaf} {miss : Bool} {y : SliceLine}

theorem boundedLoad_stops {e : Res} (hx : steepAccess s r t needR x = .error e) : boundedLoad d x tol r t s = e := by
  rw [boundedLoad, hx]

variable (hx : steepAccess s r t needR x = .ok (l, s1))
include hx

theorem boundedLoad_behind (ho : ownPending s1 r t l x (elemBytes l.sfmt) = true) : boundedLoad d x tol r t s = .wait .queue s1 := by
  rw [boundedLoad, hx]
  exact if_pos ho

variable (ho : ownPending s1 r t l x (elemBytes l.sfmt) = false) (hh : reachHome 2 s1 r t needR x = .ok (l', miss, s2))
  (hr : (if miss then s2 else homeRead s2 r.part (lineOf x) (sectorBit (sectorOf x.toNat)) t.corr) = s3) (hy : s3.sl r.part (lineOf x) = some y)
include ho hh hr hy

theorem boundedLoad_poisoned (hp : s3.linePoisoned y.key = true) : boundedLoad d x tol r t s = .trap .poison (some x) s3 := by
  rw [boundedLoad, hx]
  refine (if_neg (Bool.eq_false_iff.mp ho)).trans ?_
  rw [hh]
  dsimp only
  rw [hr, hy]
  dsimp only
  rw [poisonStop, if_pos hp]

theorem boundedLoad_asks (hp : s3.linePoisoned y.key = false) : boundedLoad d x tol r t s =
    .pend { commit := { Commit.none with log := LogItem.addr x :: stampItems { key := y.key, lat := 0, stamp := y.stamp } }, dest := some d,
            log := .atom 8, ty := some (steepType l.sfmt), addr := x, big := l.big, size := 0, words := [] }
      (s3.push (.boundedLoad r.part
        { line := lineOf x, key := y.key, fmt := l.sfmt, off := x.toNat % 128, tol := tol, who := r, tid := t.tid })) := by
  rw [boundedLoad, hx]
  refine (if_neg (Bool.eq_false_iff.mp ho)).trans ?_
  rw [hh]
  dsimp only
  rw [hr, hy]
  dsimp only
  rw [poisonStop, if_neg (Bool.eq_false_iff.mp hp)]

end

end

end Sys2Proof.Machine

open Sys2Proof Sys2Proof.Machine

/-- Settles O38: both words go through `steepAccess`; ADDM then joins the queue, LDB goes to the home. -/
theorem steepWordResults : Obligations.SteepWordResults := by
  intro s s1 s2 s3 t d a b k e l' miss y page drop r x l n free plain each loads bound read q
  have hn : n = elemBytes l.sfmt := (elemBytes_eq l.sfmt).symm
  have addm : exec (.addm a b) s = runWord [a, b] (addmAt a b) s := rfl
  have ldb : exec (.ldb d a b) s = runWord [a, b] (fun r t s => boundedLoad d (t.rd a) (tolOfReg (t.rd b)) r t s) s := rfl
  have ldbImm : exec (.ldbImm d a k) s = runWord [a] (fun r t s => boundedLoad d (t.rd a) (tolOfImm k) r t s) s := rfl
  -- a check that fails stops each of the three words
  have stops {Q : Out → BitVec 4 → Prop} (hQ : ∀ {srcs f m}, Ready s t srcs → (∀ e, steepAccess s r t m x = .error e → f r t s = e) →
      Q (runWord srcs f s) m) : each (fun i m => Q (exec i s) m) := by
    refine ⟨fun h => ⟨fun hf => ?_, ?_⟩, fun h => ?_⟩
    · beta_reduce
      rw [addm]
      exact hQ h (fun _ => addmAt_stops hf)
    · beta_reduce
      rw [ldb]
      exact hQ h (fun _ => boundedLoad_stops)
    · beta_reduce
      rw [ldbImm]
      exact hQ h (fun _ => boundedLoad_stops)
  -- the two bounded loads
  have both {Q : List Src → Out → BitVec 32 → Prop}
      (hQ : ∀ {srcs f tol}, Ready s t srcs → f r t s = boundedLoad d x tol r t s → Q srcs (runWord srcs f s) tol) :
      loads (fun srcs i tol => Q srcs (exec i s) tol) := by
    refine ⟨fun h => ?_, fun h => ?_⟩
    · beta_reduce
      rw [ldb]
      exact hQ h rfl
    · beta_reduce
      rw [ldbImm]
      exact hQ h rfl
  refine ⟨fun hf h => ?_, fun hx => ?_, fun hc hw => ?_, fun hp hl => ?_, fun hp hl => ⟨fun hs => ?_, fun hs => ?_, fun hs hx => ?_,
    fun hs hx ha hf h => ?_, fun hs hx ha => ?_⟩⟩
  · rw [addm]
    exact runWord_waits h (addmAt_full hf)
  · exact stops (Q := fun o _ => Faults s s o .address (some x)) (fun h hf => runWord_faults h (hf _ (steepAccess_form hx)))
  · exact stops (Q := fun o _ => Faults s s o .steep (some x)) (fun h hf => runWord_faults h (hf _ (steepAccess_window hw)))
  · exact stops (Q := fun o _ => Drops s s1 o drop) (fun h hf => runWord_drops h (hf _ (steepAccess_dropped hp hl)))
  · exact stops (Q := fun o _ => Faults s s1 o .steep (some x)) (fun h hf => runWord_faults h (hf _ (steepAccess_flat hp hl hs)))
  · exact stops (Q := fun o m => entryAllows e t.priv m = false → Faults s s1 o .protection (some x))
      (fun h hf ha => runWord_faults h (hf _ (steepAccess_denied hp hl hs ha)))
  · exact stops (Q := fun o m => entryAllows e t.priv m = true → Faults s s1 o .misaligned (some x))
      (fun h hf ha => runWord_faults h (hf _ (steepAccess_misaligned hp hl hs ha (hn ▸ hx))))
  · have hgo := addmAt_goes (b := b) hf (steepAccess_ok (need := needRW) hp hl hs ha (hn ▸ hx))
    rw [addm, hn]
    exact ⟨fun hr => runWord_waits h (hgo.trans (addmGoes_behind hr)),
      fun hr => ⟨fun hh => runWord_waits h (hgo.trans (addmGoes_held hr hh)),
        fun hh hp => runWord_faults h (hgo.trans (addmGoes_poisoned hr hh hp)),
        fun hh hp hs => runWord_waits h (hgo.trans (addmGoes_unplaced hr hh hp hs)),
        fun hh hp hs => runWord_commits h (hgo.trans (addmGoes_leaves hr hh hp hs))⟩⟩
  · have hgo := steepAccess_ok (need := needR) hp hl hs ha (hn ▸ hx)
    rw [hn]
    exact ⟨fun ho => both (Q := fun _ o _ => Waits s s1 o .queue) (fun h hf => runWord_waits h (hf.trans (boundedLoad_behind hgo ho))),
      fun ho hh hy => ⟨
        fun hp => both (Q := fun _ o _ => Faults s read o .poison (some x))
          (fun h hf => runWord_faults h (hf.trans (boundedLoad_poisoned hgo ho hh rfl hy hp))),
        fun hp => both (Q := fun srcs o tol => Pends s (read.push (.boundedLoad r.part (bound tol))) srcs o q)
          (fun h hf => runWord_pends h (hf.trans (boundedLoad_asks hgo ho hh rfl hy hp)))⟩⟩
end

section
/-! SUPPORT. The words that queue work for a core's engines: copies (18 R287 to R291). -/
namespace Sys2Proof.Machine

/-- What a core's world holds beside its slots does not see a change of a thread. -/
theorem State.world_modThread {α : Type} (π : CoreWorld → α) (hπ : ∀ (w : CoreWorld) l, π { w with slots := l } = π w) (s : State) (r : TRef)
    (g : Thread → Thread) (p : PartId) (c : CoreId) : π ((s.modThread r g).core p c).w = π (s.core p c).w := by
  unfold State.modThread
  split
  · by_cases h : p = r.part ∧ c = r.core
    · obtain ⟨rfl, rfl⟩ := h
      rw [State.setThread, State.setSlot, State.core_modCoreW]
      exact hπ _ _
    · rw [State.setThread, State.setSlot, State.modCoreW, State.core_setCore_ne _ _ (not_and_or.mp h)]
  · rfl

theorem jobId_copy (c : CoreId) {seq : Nat} (h : seq < 2 ^ 21) : jobId false c 0 seq = word (c.val * 2 ^ 22 + seq) := by
  rw [jobId, Nat.mod_eq_of_lt h]
  congr 1
  simp

section
variable {bind : Option SReg} {d : Reg} {remote : Bool} {lat : Nat} {j : CopyJob} {r : TRef} {t : Thread} {u : State}

/-- The state in which a bundle keeps what it has prepared. -/
def State.keeping (u : State) (r : TRef) (x : Prepared) : State := u.modThread r (fun t => { t with prepared := some x })

theorem enqueueCopy_waits (hf : fenceMet (u.keeping r (.copy j)) r t .clu = false) :
    enqueueCopy bind d remote lat j r t u = .wait (.fence .clu) (u.keeping r (.copy j)) := by
  rw [enqueueCopy]
  exact fenced_waits hf _

variable (hr : remote = false ∨ (u.keeping r (.copy j)).watched r.part r.core = false)
include hr

/-- Once it is fenced, no containment point holds the copy back. -/
theorem enqueueCopy_point :
    (if remote then passPoint (u.keeping r (.copy j)) r t 3 else .ok (u.keeping r (.copy j))) = .ok (u.keeping r (.copy j)) := by
  rcases hr with h | h
  · rw [h]; rfl
  · rw [passPoint_unwatched h, ite_self]

variable (hf : fenceMet (u.keeping r (.copy j)) r t .clu = true)
include hf

theorem enqueueCopy_full (hq : 64 ≤ ((u.keeping r (.copy j)).core r.part r.core).w.copyQ.length) :
    enqueueCopy bind d remote lat j r t u = .wait .queue (u.keeping r (.copy j)) := by
  rw [enqueueCopy]
  refine (fenced_met hf _).trans ?_
  rw [← State.keeping, enqueueCopy_point hr]
  exact if_pos hq

/-- The state that an accepted copy leaves. -/
def copyQueued (bind : Option SReg) (j : CopyJob) (seq : Nat) (r : TRef) (t : Thread) (s : State) : State :=
  let s := match bind with
    | some i => bindStream s r t i (j.form.total == 0)
    | none => s
  (s.modCoreW r.part r.core (fun w => { w with copyQ := w.copyQ ++ [{ j with seq := seq }], copyNext := (seq + 1) % 2 ^ 21 })).modThread r
    (fun t => { t with jobs := t.jobs ++ [(false, seq)] })

theorem enqueueCopy_joins {seq : Nat} (hq : ((u.keeping r (.copy j)).core r.part r.core).w.copyQ.length < 64)
    (hn : ((u.keeping r (.copy j)).core r.part r.core).w.copyNext % 2 ^ 21 = seq) :
    enqueueCopy bind d remote lat j r t u =
      .done { writes d (word (r.core.val * 2 ^ 22 + seq)) with log := [.atom 18 d (word (r.core.val * 2 ^ 22 + seq))], lat := lat }
        (copyQueued bind j seq r t (u.keeping r (.copy j))) := by
  rw [enqueueCopy]
  refine (fenced_met hf _).trans ?_
  rw [← State.keeping, enqueueCopy_point hr]
  refine (if_neg (Nat.not_le.mpr hq)).trans ?_
  rw [hn, ← jobId_copy r.core (seq := seq) (hn ▸ Nat.mod_lt _ (by decide))]
  rfl

end

section
variable (bind : Option SReg) (j : CopyJob) (seq : Nat) (r : TRef) (t : Thread) (s : State)

theorem copyQueued_mem : (copyQueued bind j seq r t s).mem = s.mem := by
  cases bind <;> simp [copyQueued, bindStream]

/-- The binding of a stream changes no copy but in its stream, and none of the core's counters. -/
theorem copyQueued_world : ∃ l : List CopyJob, l.length = (s.core r.part r.core).w.copyQ.length ∧
    ((copyQueued bind j seq r t s).core r.part r.core).w.copyQ = l ++ [{ j with seq := seq }] ∧
    ((copyQueued bind j seq r t s).core r.part r.core).w.copyNext = (seq + 1) % 2 ^ 21 := by
  unfold copyQueued
  simp only [State.world_modThread CoreWorld.copyQ (fun _ _ => rfl), State.world_modThread CoreWorld.copyNext (fun _ _ => rfl),
    State.core_modCoreW]
  cases bind with
  | none => exact ⟨_, rfl, rfl, trivial⟩
  | some i =>
    simp only [bindStream, State.world_modThread CoreWorld.copyQ (fun _ _ => rfl), State.core_modCoreW]
    exact ⟨_, List.length_map .., rfl, trivial⟩

end

/-! ## The shape in gd -/

theorem field_top (v : Word) {lo n : Nat} (h : 64 ≤ lo + n) : field v lo n = v.toNat / 2 ^ lo :=
  Nat.mod_eq_of_lt (Nat.div_lt_of_lt_mul (by rw [← Nat.pow_add]; exact lt_of_lt_of_le v.isLt (Nat.pow_le_pow_right (by decide) h)))

theorem field_low (v : Word) (n : Nat) : field v 0 n = v.toNat % 2 ^ n := by rw [field, Nat.pow_zero, Nat.div_one]

theorem linShape_eq (v : Word) : (if field v 32 32 = 0 then some (CopyForm.lin v.toNat) else none) =
    if v.toNat / 2 ^ 32 = 0 then some (.lin v.toNat) else none := by rw [field_top v (by decide)]

theorem rowsShape_eq (v : Word) : some (CopyForm.rows (field v 48 16) (field v 32 16) (field v 16 16) (field v 0 16)) =
    some (.rows (v.toNat / 2 ^ 48) (v.toNat / 2 ^ 32 % 2 ^ 16) (v.toNat / 2 ^ 16 % 2 ^ 16) (v.toNat % 2 ^ 16)) := by
  rw [field_top v (lo := 48) (by decide), field_low]; rfl

theorem gatherShape_eq (v : Word) :
    (if field v 32 32 ≠ 0 ∨ field v 3 13 ≠ 0 ∨ field v 0 3 = 7 then none else some (CopyForm.gather (field v 16 16) (field v 0 3))) =
    if v.toNat / 2 ^ 32 ≠ 0 ∨ v.toNat / 8 % 2 ^ 13 ≠ 0 ∨ v.toNat % 8 = 7 then none
    else some (.gather (v.toNat / 2 ^ 16 % 2 ^ 16) (v.toNat % 8)) := by
  rw [field_top v (by decide), field_low]; rfl

/-! ## The checks of a copy -/

section
variable {s s1 : State} {r : TRef} {t : Thread} {bind : Option SReg} {x y : Word} {f : CopyForm} {align : Nat}

theorem checkCopy_table {a : Word} (hc : firstSome badCanon ((formRanges f x y).1 ++ (formRanges f x y).2) = none)
    (hb : badTable f y = some a) : checkCopy s r t bind x y f align = .error (.trap .address (some a) s) := by
  rw [checkCopy, hc, hb]

variable (h : firstSome badCanon ((formRanges f x y).1 ++ (formRanges f x y).2) ≠ none ∨ badTable f y = none)
include h

theorem checkCopy_ranges : checkCopy s r t bind x y f align =
    match checkRanges s r t (formRanges f x y).1 (formRanges f x y).2 y align true with
    | .error e => .error e
    | .ok (src, dst, s) =>
      .ok ({ seq := 0, form := f, dst := x, src := y, ctx := t.ctx, priv := t.priv, corr := t.corr, tid := t.tid, slot := r.slot,
             stream := if f.total = 0 then none else bind, pages := src ++ dst, pos := 0, placed := [], awaiting := 0,
             finished := f.total == 0 }, s) := by
  rw [checkCopy]
  split
  · next h1 h2 =>
    rcases h with h | h
    · exact absurd h1 h
    · rw [h] at h2; cases h2
  · rfl

end
/-! ## The word -/

/-- The reply time of a copy's checks. -/
def copyLat (s : State) (t : Thread) (f : CopyForm) (x y : Word) : Nat :=
  latLeft s t (pagesLat (((formRanges f x y).1 ++ (formRanges f x y).2).foldl (fun n z => n + (rangePages z).length) 0))

/-- A copy that has passed its checks is enqueued. -/
def copyGoes (bind : Option SReg) (d : Reg) (j : CopyJob) (r : TRef) (t : Thread) (s : State) : Res :=
  enqueueCopy bind d (firstSome firstRemote (formRanges j.form j.dst j.src).2).isSome (copyLat s t j.form j.dst j.src) j r t s

/-- What a copy word does whose shape takes gd for a form. -/
def copyAt (bind : Option SReg) (d : Reg) (a b : Src) (shape : Word → Option CopyForm) (align : Nat) (r : TRef) (t : Thread) (s : State) : Res :=
  match t.prepared with
  | some (.copy j) => copyGoes bind d j r t s
  | _ =>
    if (clusterOf r.core).isNone then .trap .target none s
    else if decide (64 ≤ (s.core r.part r.core).w.copyQ.length) then .wait .queue s
    else
      match shape (t.rdD d) with
      | none => .trap .copyShape none s
      | some f =>
        if formOk f (t.rd a) (t.rd b) then
          match checkCopy s r t bind (t.rd a) (t.rd b) f align with
          | .error e => e
          | .ok (j, s) => copyGoes bind d j r t s
        else .trap .copyShape none s

section
variable {bind : Option SReg} {d : Reg} {a b : Src} {shape : Word → Option CopyForm} {align : Nat} {r : TRef} {t : Thread} {s s1 : State}
  {k : ClusterId} {f : CopyForm}

theorem copyWord_eq : copyWord bind d a b shape align s = runWord [a, b] (copyAt bind d a b shape align) s := rfl

theorem copyAt_kept {j : CopyJob} (hp : t.prepared = some (.copy j)) : copyAt bind d a b shape align r t s = copyGoes bind d j r t s := by
  rw [copyAt, hp]

variable (hp : t.prepared = none)
include hp

theorem copyAt_bank (hc : clusterOf r.core = none) : copyAt bind d a b shape align r t s = .trap .target none s := by
  rw [copyAt, hp]
  exact if_pos (by rw [hc]; rfl)

variable (hc : clusterOf r.core = some k)
include hc

theorem copyAt_full (hq : 64 ≤ (s.core r.part r.core).w.copyQ.length) : copyAt bind d a b shape align r t s = .wait .queue s := by
  rw [copyAt, hp]
  exact (if_neg (by rw [hc]; nofun)).trans (if_pos (by simpa using hq))

variable (hq : (s.core r.part r.core).w.copyQ.length < 64)
include hq

/-- With room in the queue, the shape of gd decides. -/
theorem copyAt_shape : copyAt bind d a b shape align r t s = match shape (t.rdD d) with
    | none => .trap .copyShape none s
    | some f =>
      if formOk f (t.rd a) (t.rd b) then
        match checkCopy s r t bind (t.rd a) (t.rd b) f align with
        | .error e => e
        | .ok (j, s) => copyGoes bind d j r t s
      else .trap .copyShape none s := by
  rw [copyAt, hp]
  exact (if_neg (by rw [hc]; nofun)).trans (if_neg (by simpa using hq))

theorem copyAt_unshaped (hs : shape (t.rdD d) = none) : copyAt bind d a b shape align r t s = .trap .copyShape none s := by
  rw [copyAt_shape hp hc hq, hs]

variable (hs : shape (t.rdD d) = some f)
include hs

theorem copyAt_refused (hf : formOk f (t.rd a) (t.rd b) = false) : copyAt bind d a b shape align r t s = .trap .copyShape none s := by
  rw [copyAt_shape hp hc hq, hs]
  exact if_neg (Bool.eq_false_iff.mp hf)

theorem copyAt_stops (hf : formOk f (t.rd a) (t.rd b) = true) {e : Res} (hx : checkCopy s r t bind (t.rd a) (t.rd b) f align = .error e) :
    copyAt bind d a b shape align r t s = e := by
  rw [copyAt_shape hp hc hq, hs]
  refine (if_pos hf).trans ?_
  rw [hx]

theorem copyAt_goes (hf : formOk f (t.rd a) (t.rd b) = true) {j : CopyJob} (hx : checkCopy s r t bind (t.rd a) (t.rd b) f align = .ok (j, s1)) :
    copyAt bind d a b shape align r t s = copyGoes bind d j r t s1 := by
  rw [copyAt_shape hp hc hq, hs]
  refine (if_pos hf).trans ?_
  rw [hx]

end

end Sys2Proof.Machine

open Sys2Proof Sys2Proof.Machine

/-- Settles O41: the three words are one `copyWord`, whose shapes are the table's. -/
theorem copyWordResults : Obligations.CopyWordResults := by
  intro s s1 t bind d a b k src dst e f job h r v x y lin rows gather forms joins pages beyond z hz
  have hpages (f : CopyForm) (x y : Word) :
      ((formRanges f x y).1 ++ (formRanges f x y).2).foldl (fun n z => n + (rangePages z).length) 0 = pages f x y := (List.foldl_map ..).symm
  -- each of the three words, by its shape
  have word : ∃ shape, exec z.1 s = runWord [a, b] (copyAt bind d a b shape z.2.2) s ∧ shape (t.rdD d) = z.2.1 := by
    dsimp only [forms] at hz
    fin_cases hz
    · exact ⟨fun v => if field v 32 32 = 0 then some (.lin v.toNat) else none, rfl, linShape_eq _⟩
    · exact ⟨fun v => some (.rows (field v 48 16) (field v 32 16) (field v 16 16) (field v 0 16)), rfl, rowsShape_eq _⟩
    · exact ⟨fun v => if field v 32 32 ≠ 0 ∨ field v 3 13 ≠ 0 ∨ field v 0 3 = 7 then none else some (.gather (field v 16 16) (field v 0 3)), rfl,
        gatherShape_eq _⟩
  obtain ⟨shape, hw, hs⟩ := word
  have goes {j u lat} (hgo : copyAt bind d a b shape z.2.2 r t s = copyGoes bind d j r t u) (hl : copyLat u t j.form j.dst j.src = lat) :
      joins z.1 j u lat := by
    subst hl
    let kept := u.keeping r (.copy j)
    let seq := (kept.core r.part r.core).w.copyNext % 2 ^ 21
    have waits {u' w} (hf : copyAt bind d a b shape z.2.2 r t s = .wait w u') : Waits s u' (exec z.1 s) w := hw ▸ runWord_waits h hf
    refine ⟨fun hf => waits (hgo.trans (enqueueCopy_waits hf)), fun hf hr => ?_⟩
    have hr' : (firstSome firstRemote (formRanges j.form j.dst j.src).2).isSome = false ∨ kept.watched r.part r.core = false :=
      hr.imp_left fun hn => by rw [hn]; rfl
    refine ⟨fun hq => waits (hgo.trans (enqueueCopy_full hr' hf hq)), fun hq => ?_⟩
    obtain ⟨l, hl, hcq, hcn⟩ := copyQueued_world bind j seq r t kept
    refine ⟨copyQueued bind j seq r t kept, ?_, ?_, ?_, hcn, ?_⟩
    · rw [hw]
      exact runWord_commits h (hgo.trans (enqueueCopy_joins hr' hf hq rfl))
    · exact (congrArg List.getLast? hcq).trans (List.getLast?_concat ..)
    · exact (congrArg List.length hcq).trans ((List.length_append ..).trans (congrArg (· + 1) hl))
    · exact (copyQueued_mem ..).trans (State.modThread_mem ..)
  rw [hw]
  refine ⟨fun hp => goes (copyAt_kept hp) ?_, fun hp => ⟨fun hc => runWord_faults h (copyAt_bank hp hc),
    fun hc hq => runWord_waits h (copyAt_full hp hc hq), fun hc hq => ⟨fun hz => runWord_faults h (copyAt_unshaped hp hc hq (hs.trans hz)),
      fun hz hf => runWord_faults h (copyAt_refused hp hc hq (hs.trans hz) hf), fun hz hf => ?_⟩⟩⟩
  · rw [copyLat, hpages, latLeft, hp]
    rfl
  · intro rg table
    have htable : badTable f y = table := by cases f <;> rfl
    refine ⟨fun ea hb ht => runWord_faults h (copyAt_stops hp hc hq (hs.trans hz) hf (checkCopy_table hb (htable.trans ht))), fun hb => ?_⟩
    have hck := checkCopy_ranges (s := s) (r := r) (t := t) (bind := bind) (align := z.2.2) (hb.imp_right htable.trans)
    refine ⟨fun he => ?_, fun he => goes (copyAt_goes hp hc hq (hs.trans hz) hf (by rw [hck, he])) ?_⟩
    · rw [runWord_ready h, copyAt_stops hp hc hq (hs.trans hz) hf (by rw [hck, he])]
    · rw [copyLat, hpages, latLeft, hp]
      rfl
end

section
/-! SUPPORT. The words of the matrix engine (18 R297 to R301). -/
namespace Sys2Proof.Machine

section
variable {u : State} {r : TRef} {t : Thread} {e : MxEntry} {i : Nat} {k : ClusterId} {go : State → Res}

theorem mxFull_iff (w : CoreWorld) : mxFull w = true ↔ 16 ≤ w.mxQ.length := decide_eq_true_iff

theorem mxFull_not {w : CoreWorld} (h : w.mxQ.length < 16) : ¬ mxFull w = true := by rw [mxFull_iff]; omega

theorem enqueueMatrix_waits (hf : fenceMet (u.keeping r (.matrix e)) r t .clu = false) :
    enqueueMatrix e i k r t u go = .wait (.fence .clu) (u.keeping r (.matrix e)) := by
  rw [enqueueMatrix]
  exact fenced_waits hf _

variable (hf : fenceMet (u.keeping r (.matrix e)) r t .clu = true)
include hf

theorem enqueueMatrix_full (hq : 16 ≤ ((u.keeping r (.matrix e)).core r.part r.core).w.mxQ.length) :
    enqueueMatrix e i k r t u go = .wait .queue (u.keeping r (.matrix e)) := by
  rw [enqueueMatrix]
  exact (fenced_met hf _).trans (if_pos ((mxFull_iff _).mpr hq))

theorem enqueueMatrix_joins (hq : ((u.keeping r (.matrix e)).core r.part r.core).w.mxQ.length < 16) :
    enqueueMatrix e i k r t u go =
      go (tagSlot ((u.keeping r (.matrix e)).modCoreW r.part r.core (fun w => { w with mxQ := w.mxQ ++ [e] })) r.part k i t.tid) := by
  rw [enqueueMatrix]
  exact (fenced_met hf _).trans (if_neg (mxFull_not hq))

end

/-- The word of outcome o has an entry x for slot i that has passed its checks, in the state u: it waits, or joins the queue. -/
def JoinsMatrix (s : State) (t : Thread) (srcs : List Src) (o : Out) (x : MxEntry) (k : ClusterId) (i : Nat) (u : State) (left : State → State)
    (c : Commit) : Prop :=
  let r := s.cur.at_
  let v := u.keeping r (.matrix x)
  (fenceMet v r t .clu = false → Waits s v o (.fence .clu)) ∧
  (fenceMet v r t .clu = true → 16 ≤ (v.core r.part r.core).w.mxQ.length → Waits s v o .queue) ∧
  (fenceMet v r t .clu = true → (v.core r.part r.core).w.mxQ.length < 16 →
    Commits s (left (tagSlot (v.modCoreW r.part r.core (fun w => { w with mxQ := w.mxQ ++ [x] })) r.part k i t.tid)) srcs o c)

theorem enqueueMatrix_queues {s u : State} {t : Thread} {srcs : List Src} {x : MxEntry} {k : ClusterId} {i : Nat} {left : State → State} {c : Commit}
    {f : TRef → Thread → State → Res} (h : Ready s t srcs)
    (hgo : f s.cur.at_ t s = enqueueMatrix x i k s.cur.at_ t u (fun v => .done c (left v))) :
    JoinsMatrix s t srcs (runWord srcs f s) x k i u left c :=
  ⟨fun hf => runWord_waits h (hgo.trans (enqueueMatrix_waits hf)), fun hf hq => runWord_waits h (hgo.trans (enqueueMatrix_full hf hq)),
    fun hf hq => runWord_commits h (hgo.trans (enqueueMatrix_joins hf hq))⟩

theorem jobId_matrix (c : CoreId) (slot : Nat) {seq : Nat} (h : seq < 2 ^ 21) :
    jobId true c slot seq = word (2 ^ 31 + c.val * 2 ^ 22 + slot % 2 * 2 ^ 21 + seq) := by
  rw [jobId, Nat.mod_eq_of_lt h]; rfl

theorem enqueueJob_eq (j : MxJob) (d : Reg) (k : ClusterId) (r : TRef) (t : Thread) (s : State) {seq : Nat}
    (hn : (s.core r.part r.core).w.mxNext % 2 ^ 21 = seq) : enqueueJob j d k r t s =
      enqueueMatrix (.job { j with seq := seq }) (2 * (r.core.val % 8) + j.slot) k r t s (fun u =>
        .done { writes d (word (2 ^ 31 + r.core.val * 2 ^ 22 + j.slot % 2 * 2 ^ 21 + seq)) with
                log := [.atom 18 d (word (2 ^ 31 + r.core.val * 2 ^ 22 + j.slot % 2 * 2 ^ 21 + seq))] }
          ((u.modCoreW r.part r.core (fun w => { w with mxNext := (seq + 1) % 2 ^ 21 })).modThread r
            (fun t => { t with jobs := t.jobs ++ [(true, seq)] }))) := by
  rw [enqueueJob, hn, jobId_matrix r.core j.slot (seq := seq) (hn ▸ Nat.mod_lt _ (by decide))]
  rfl

/-! ## The operands of a job -/

section
variable {s : State} {p : PartId} {k : ClusterId} {t : Thread} {ra rb : RingId} {sa sb : Shape} {oa ob : Operand}

theorem mxOperands_unbound (h : (s.ring p k ra).shape = none ∨ (s.ring p k rb).shape = none) : mxOperands s p k t ra rb = .error .ring := by
  rw [mxOperands]
  split
  · next h1 h2 => rcases h with h | h <;> simp_all
  · rfl

variable (ha : (s.ring p k ra).shape = some sa) (hb : (s.ring p k rb).shape = some sb)
include ha hb

theorem mxOperands_format (h : mxOperand t ra sa t.xa sa.cols = none ∨ mxOperand t rb sb t.xb sb.rows = none) :
    mxOperands s p k t ra rb = .error .format := by
  rw [mxOperands, ha, hb]
  dsimp only
  split
  · next h1 h2 => rcases h with h | h <;> simp_all
  · rfl

theorem mxOperands_fit (hoa : mxOperand t ra sa t.xa sa.cols = some oa) (hob : mxOperand t rb sb t.xb sb.rows = some ob) :
    mxOperands s p k t ra rb =
      if narrowFits oa = true ∧ narrowFits ob = true ∧ shapesOk oa ob = true then .ok (oa, ob) else .error .matrixShape := by
  rw [mxOperands, ha, hb]
  dsimp only
  rw [hoa, hob]
  dsimp only
  cases narrowFits oa <;> cases narrowFits ob <;> cases shapesOk oa ob <;> rfl

end

/-! ## MXQ -/

section
variable {slot : Fin 2} {sr : Semiring} {na nb az : Bool} {pop : Pop} {d : Reg} {ra rb : RingId} {r : TRef} {t : Thread} {s : State} {k : ClusterId}

/-- What MXQ does. -/
def mxqAt (slot : Fin 2) (sr : Semiring) (na nb az : Bool) (pop : Pop) (d : Reg) (ra rb : RingId) (r : TRef) (t : Thread) (s : State) : Res :=
  match clusterOf r.core with
  | none => .trap .target none s
  | some k =>
    match t.prepared with
    | some (.matrix (.job j)) => enqueueJob j d k r t s
    | _ =>
      let acc := s.acc r.part k (accIndex r.core slot)
      if mxFull (s.core r.part r.core).w then .wait .queue s
      else if acc.orphaned && !acc.poisoned then .trap .slotParked none s
      else if acc.poisoned then .trap .slotPoisoned none s
      else
        match mxOperands s r.part k t ra rb with
        | .error c => .trap c none s
        | .ok o =>
          enqueueJob
            { seq := 0, slot := slot.val, sr := sr, na := na, nb := nb, az := az, pop := pop, a := o.1, b := o.2, tid := t.tid,
              corr := t.corr, ctx := t.ctx } d k r t s

theorem mxqAt_bank (hc : clusterOf r.core = none) : mxqAt slot sr na nb az pop d ra rb r t s = .trap .target none s := by rw [mxqAt, hc]

variable (hc : clusterOf r.core = some k)
include hc

theorem mxqAt_kept {j : MxJob} (hp : t.prepared = some (.matrix (.job j))) :
    mxqAt slot sr na nb az pop d ra rb r t s = enqueueJob j d k r t s := by
  rw [mxqAt, hc]
  dsimp only
  rw [hp]

variable (hp : t.prepared = none)
include hp

theorem mxqAt_full (hq : 16 ≤ (s.core r.part r.core).w.mxQ.length) : mxqAt slot sr na nb az pop d ra rb r t s = .wait .queue s := by
  rw [mxqAt, hc]
  dsimp only
  rw [hp]
  exact if_pos ((mxFull_iff _).mpr hq)

variable (hq : (s.core r.part r.core).w.mxQ.length < 16)
include hq

theorem mxqAt_poisoned (h : (s.acc r.part k (accIndex r.core slot)).poisoned = true) :
    mxqAt slot sr na nb az pop d ra rb r t s = .trap .slotPoisoned none s := by
  rw [mxqAt, hc]
  dsimp only
  rw [hp]
  refine (if_neg (mxFull_not hq)).trans ?_
  rw [h, Bool.not_true, Bool.and_false]
  rfl

variable (h : (s.acc r.part k (accIndex r.core slot)).poisoned = false)
include h

theorem mxqAt_parked (ho : (s.acc r.part k (accIndex r.core slot)).orphaned = true) :
    mxqAt slot sr na nb az pop d ra rb r t s = .trap .slotParked none s := by
  rw [mxqAt, hc]
  dsimp only
  rw [hp]
  refine (if_neg (mxFull_not hq)).trans ?_
  rw [h, ho]
  rfl

theorem mxqAt_operands (ho : (s.acc r.part k (accIndex r.core slot)).orphaned = false) :
    mxqAt slot sr na nb az pop d ra rb r t s = match mxOperands s r.part k t ra rb with
      | .error c => .trap c none s
      | .ok o =>
        enqueueJob
          { seq := 0, slot := slot.val, sr := sr, na := na, nb := nb, az := az, pop := pop, a := o.1, b := o.2, tid := t.tid,
            corr := t.corr, ctx := t.ctx } d k r t s := by
  rw [mxqAt, hc]
  dsimp only
  rw [hp]
  refine (if_neg (mxFull_not hq)).trans ?_
  rw [h, ho]
  rfl

end

/-! ## MXZ, MXST and MXR -/

section
variable {slot : Fin 2} {r : TRef} {t : Thread} {s : State} {k : ClusterId}

/-- What MXZ does. -/
def mxzAt (slot : Fin 2) (r : TRef) (t : Thread) (s : State) : Res :=
  match clusterOf r.core with
  | none => .trap .target none s
  | some k =>
    let i := accIndex r.core slot
    let acc := s.acc r.part k i
    if mxFull (s.core r.part r.core).w then .wait .queue s
    else if acc.poisoned then .trap .slotPoisoned none s
    else if acc.orphaned then .trap .slotParked none s
    else
      let s := s.modCoreW r.part r.core (fun w => { w with mxQ := w.mxQ ++ [.zero slot.val t.tid t.corr] })
      .done { Commit.none with log := [.atom 18 0 0] } (tagSlot s r.part k i t.tid)

theorem mxzAt_bank (hc : clusterOf r.core = none) : mxzAt slot r t s = .trap .target none s := by rw [mxzAt, hc]

section
variable (hc : clusterOf r.core = some k)
include hc

theorem mxzAt_full (hq : 16 ≤ (s.core r.part r.core).w.mxQ.length) : mxzAt slot r t s = .wait .queue s := by
  rw [mxzAt, hc]
  exact if_pos ((mxFull_iff _).mpr hq)

variable (hq : (s.core r.part r.core).w.mxQ.length < 16)
include hq

theorem mxzAt_poisoned (h : (s.acc r.part k (accIndex r.core slot)).poisoned = true) : mxzAt slot r t s = .trap .slotPoisoned none s := by
  rw [mxzAt, hc]
  exact (if_neg (mxFull_not hq)).trans (if_pos h)

variable (h : (s.acc r.part k (accIndex r.core slot)).poisoned = false)
include h

theorem mxzAt_parked (ho : (s.acc r.part k (accIndex r.core slot)).orphaned = true) : mxzAt slot r t s = .trap .slotParked none s := by
  rw [mxzAt, hc]
  exact (if_neg (mxFull_not hq)).trans ((if_neg (Bool.eq_false_iff.mp h)).trans (if_pos ho))

theorem mxzAt_joins (ho : (s.acc r.part k (accIndex r.core slot)).orphaned = false) : mxzAt slot r t s =
    .done { Commit.none with log := [.atom 18 0 0] }
      (tagSlot (s.modCoreW r.part r.core (fun w => { w with mxQ := w.mxQ ++ [.zero slot.val t.tid t.corr] })) r.part k (accIndex r.core slot) t.tid) := by
  rw [mxzAt, hc]
  exact (if_neg (mxFull_not hq)).trans ((if_neg (Bool.eq_false_iff.mp h)).trans (if_neg (Bool.eq_false_iff.mp ho)))

end

/-- An entry of MXST is enqueued. -/
def mxstGoes (x : Word) (e : MxEntry) (i : Nat) (k : ClusterId) (r : TRef) (t : Thread) (s : State) : Res :=
  enqueueMatrix e i k r t s (fun s => .done { Commit.none with log := [.atom 18 0 x] } s)

/-- What MXST does. -/
def mxstAt (slot : Fin 2) (a : Src) (r : TRef) (t : Thread) (s : State) : Res :=
  match clusterOf r.core with
  | none => .trap .target none s
  | some k =>
    let i := accIndex r.core slot
    let acc := s.acc r.part k i
    let x := t.rd a
    match t.prepared with
    | some (.matrix e) => mxstGoes x e i k r t s
    | _ =>
      if mxFull (s.core r.part r.core).w then .wait .queue s
      else if acc.poisoned then .trap .slotPoisoned none s
      else if acc.orphaned && !t.priv then .trap .slotParked none s
      else
        match checkRanges s r t [] [(x, 16384)] x 64 false with
        | .error e => e
        | .ok (_, pages, s) => mxstGoes x (.store slot.val t.tid t.corr t.ctx x pages) i k r t s

section
variable {a : Src}

theorem mxstAt_bank (hc : clusterOf r.core = none) : mxstAt slot a r t s = .trap .target none s := by rw [mxstAt, hc]

variable (hc : clusterOf r.core = some k)
include hc

theorem mxstAt_kept {e : MxEntry} (hp : t.prepared = some (.matrix e)) :
    mxstAt slot a r t s = mxstGoes (t.rd a) e (accIndex r.core slot) k r t s := by
  rw [mxstAt, hc]
  dsimp only
  rw [hp]

variable (hp : t.prepared = none)
include hp

theorem mxstAt_full (hq : 16 ≤ (s.core r.part r.core).w.mxQ.length) : mxstAt slot a r t s = .wait .queue s := by
  rw [mxstAt, hc]
  dsimp only
  rw [hp]
  exact if_pos ((mxFull_iff _).mpr hq)

variable (hq : (s.core r.part r.core).w.mxQ.length < 16)
include hq

theorem mxstAt_poisoned (h : (s.acc r.part k (accIndex r.core slot)).poisoned = true) : mxstAt slot a r t s = .trap .slotPoisoned none s := by
  rw [mxstAt, hc]
  dsimp only
  rw [hp]
  exact (if_neg (mxFull_not hq)).trans (if_pos h)

variable (h : (s.acc r.part k (accIndex r.core slot)).poisoned = false)
include h

theorem mxstAt_parked (ho : (s.acc r.part k (accIndex r.core slot)).orphaned = true) (ht : t.priv = false) :
    mxstAt slot a r t s = .trap .slotParked none s := by
  rw [mxstAt, hc]
  dsimp only
  rw [hp]
  exact (if_neg (mxFull_not hq)).trans ((if_neg (Bool.eq_false_iff.mp h)).trans (if_pos (by rw [ho, ht]; rfl)))

theorem mxstAt_ranges (ho : (s.acc r.part k (accIndex r.core slot)).orphaned = false ∨ t.priv = true) : mxstAt slot a r t s =
    match checkRanges s r t [] [(t.rd a, 16384)] (t.rd a) 64 false with
    | .error e => e
    | .ok (_, pages, s) => mxstGoes (t.rd a) (.store slot.val t.tid t.corr t.ctx (t.rd a) pages) (accIndex r.core slot) k r t s := by
  rw [mxstAt, hc]
  dsimp only
  rw [hp]
  exact (if_neg (mxFull_not hq)).trans ((if_neg (Bool.eq_false_iff.mp h)).trans (if_neg (by rcases ho with h | h <;> rw [h] <;> simp)))

end

/-- What MXR does. -/
def mxrAt (slot : Fin 2) (r : TRef) (t : Thread) (s : State) : Res :=
  match clusterOf r.core with
  | none => .trap .target none s
  | some k =>
    let i := accIndex r.core slot
    if (s.acc r.part k i).pend ≠ 0 then .wait (.mxr slot.val) s
    else if (s.acc r.part k i).state = 0 && t.wait != some (.mxr slot.val) then .done Commit.none s
    else .done Commit.none (s.modAcc r.part k i AccSlot.reclaimed)

theorem mxrAt_bank (hc : clusterOf r.core = none) : mxrAt slot r t s = .trap .target none s := by rw [mxrAt, hc]

variable (hc : clusterOf r.core = some k)
include hc

theorem mxrAt_busy (h : (s.acc r.part k (accIndex r.core slot)).pend ≠ 0) : mxrAt slot r t s = .wait (.mxr slot.val) s := by
  rw [mxrAt, hc]
  exact if_pos h

variable (hp : (s.acc r.part k (accIndex r.core slot)).pend = 0)
include hp

theorem mxrAt_idle (hi : (s.acc r.part k (accIndex r.core slot)).poisoned = false) (ho : (s.acc r.part k (accIndex r.core slot)).orphaned = false)
    (hw : t.wait = none) : mxrAt slot r t s = .done Commit.none s := by
  rw [mxrAt, hc]
  exact (if_neg (not_not.mpr hp)).trans (if_pos (by rw [AccSlot.state, hi, ho, hp, hw]; rfl))

theorem mxrAt_reclaims (h : (s.acc r.part k (accIndex r.core slot)).poisoned = true ∨ (s.acc r.part k (accIndex r.core slot)).orphaned = true) :
    mxrAt slot r t s = .done Commit.none (s.modAcc r.part k (accIndex r.core slot) AccSlot.reclaimed) := by
  rw [mxrAt, hc]
  refine (if_neg (not_not.mpr hp)).trans (if_neg ?_)
  have hs : (s.acc r.part k (accIndex r.core slot)).state ≠ 0 := by
    rw [AccSlot.state]
    rcases h with h | h <;> rw [h]
    · simp
    · split <;> simp
  simp [hs]

end

end Sys2Proof.Machine

open Sys2Proof Sys2Proof.Machine

/-- Settles O44: MXQ and MXST enqueue an entry that has passed its checks, MXZ one at once, and MXR reclaims. -/
theorem matrixWordResults : Obligations.MatrixWordResults := by
  intro s s1 t slot sr na nb az pop d ra rb a k sa sb oa ob src pages job kept e r p w i acc mxq mxst shapeA shapeB joins queues stores
  have hmxq : exec mxq s = runWord [] (mxqAt slot sr na nb az pop d ra rb) s := rfl
  have hmxz : exec (.mxz slot) s = runWord [] (mxzAt slot) s := rfl
  have hmxst : exec mxst s = runWord [a] (mxstAt slot a) s := rfl
  have hmxr : exec (.mxr slot) s = runWord [] (mxrAt slot) s := rfl
  -- an entry that is enqueued
  have enqueues {srcs z x i u left c f} (h : Ready s t srcs) (hz : exec z s = runWord srcs f s)
      (hgo : f r t s = enqueueMatrix x i k r t u (fun v => .done c (left v))) : joins srcs z x i u left c := by
    have hj := enqueueMatrix_queues h hgo
    rw [← hz] at hj
    exact hj
  have job' {j : MxJob} (h : Ready s t []) (hj : mxqAt slot sr na nb az pop d ra rb r t s = enqueueJob j d k r t s) : queues j := by
    have hq := enqueues h hmxq (hj.trans (enqueueJob_eq j d k r t s rfl))
    exact hq
  refine ⟨fun hc => ⟨fun h z hz => ?_, fun h => ?_⟩, fun hc => ⟨fun h hp => job' h (mxqAt_kept hc hp),
    fun h hp => enqueues h hmxst (mxstAt_kept hc hp), fun h hp z hz => ?_, fun h hp hq hpo ho => ⟨?_, fun hs => ?_, fun hsa hsb hx => ?_,
      fun hsa hsb hoa hob => ?_⟩, fun h hp => ⟨fun hq => ?_, fun hq hpo => ?_, fun hq hpo ho ht => ?_, fun hq hpo ho => ?_⟩,
    fun h => ⟨fun hb => ?_, fun hb hpo ho hw => ?_, fun hb hpo => ?_⟩⟩⟩
  · fin_cases hz
    · exact hmxq ▸ runWord_faults h (mxqAt_bank hc)
    · exact hmxz ▸ runWord_faults h (mxzAt_bank hc)
    · exact hmxr ▸ runWord_faults h (mxrAt_bank hc)
  · rw [hmxst]; exact runWord_faults h (mxstAt_bank hc)
  · fin_cases hz
    · exact hmxq ▸ ⟨fun hq => runWord_waits h (mxqAt_full hc hp hq), fun hq hpo => runWord_faults h (mxqAt_poisoned hc hp hq hpo),
        fun hq hpo ho => runWord_faults h (mxqAt_parked hc hp hq hpo ho)⟩
    · exact hmxz ▸ ⟨fun hq => runWord_waits h (mxzAt_full hc hq), fun hq hpo => runWord_faults h (mxzAt_poisoned hc hq hpo),
        fun hq hpo ho => runWord_faults h (mxzAt_parked hc hq hpo ho)⟩
  · rw [hmxz]; exact runWord_commits h (mxzAt_joins hc hq hpo ho)
  · rw [hmxq]; exact runWord_faults h ((mxqAt_operands hc hp hq hpo ho).trans (by rw [mxOperands_unbound hs]))
  · rw [hmxq]; exact runWord_faults h ((mxqAt_operands hc hp hq hpo ho).trans (by rw [mxOperands_format hsa hsb hx]))
  · intro fits
    have hfit := mxOperands_fit hsa hsb hoa hob
    refine ⟨fun hf => ?_, fun hf => job' h ((mxqAt_operands hc hp hq hpo ho).trans ?_)⟩
    · rw [hmxq]; exact runWord_faults h ((mxqAt_operands hc hp hq hpo ho).trans (by rw [hfit, if_neg hf]))
    · rw [hfit, if_pos hf]
  · rw [hmxst]; exact runWord_waits h (mxstAt_full hc hp hq)
  · rw [hmxst]; exact runWord_faults h (mxstAt_poisoned hc hp hq hpo)
  · rw [hmxst]; exact runWord_faults h (mxstAt_parked hc hp hq hpo ho ht)
  · refine ⟨fun he => ?_, fun he => enqueues h hmxst ((mxstAt_ranges hc hp hq hpo ho).trans (by rw [he]; rfl))⟩
    rw [hmxst, runWord_ready h, mxstAt_ranges hc hp hq hpo ho, he]
  · rw [hmxr]; exact runWord_waits h (mxrAt_busy hc hb)
  · rw [hmxr]; exact runWord_completes h (mxrAt_idle hc hb hpo ho hw) rfl rfl
  · rw [hmxr]; exact runWord_commits h (mxrAt_reclaims hc hb hpo)
end

section
/-! SUPPORT. LOGN and LOGA (22 R353, R354). -/
namespace Sys2Proof.Machine

section
variable {s : State} {r : TRef} {t : Thread} {wc q : CoreId} {x : LogRec} {n : Nat}

/-! ## A turn of LOGN's loop -/

theorem lognLoop_none (h : nextRecord s r.part (s.core r.part wc).w = none) : lognLoop s r t wc (n + 1) s = .wait .record s := by
  rw [lognLoop, h]

variable (h : nextRecord s r.part (s.core r.part wc).w = some x)
include h

theorem lognLoop_poisoned {ea : Word} (hp : recordPoisoned s r.part (s.core r.part wc).w x = some ea) :
    lognLoop s r t wc (n + 1) s = .trap .poison (some ea) s := by
  rw [lognLoop, h]
  dsimp only
  rw [hp]

variable (hp : recordPoisoned s r.part (s.core r.part wc).w x = none)
include hp

theorem lognLoop_stamp (ht : x.type = 4) (hq : x.info / 2 ^ 13 = q.val) (hs : stampPassed s r.part q (x.words.headD 0) = false) :
    lognLoop s r t wc (n + 1) s =
      .wait (.stamp q (x.words.headD 0) s.cycle) (s.modCoreW r.part wc (fun _ => takeRecord (s.core r.part wc).w x)) := by
  have hc : corePut (x.info / 2 ^ 13) = some q := by rw [hq]; exact dif_pos q.isLt
  rw [lognLoop, h]
  dsimp only
  rw [hp]
  dsimp only
  rw [if_pos ht, hc]
  exact if_neg (Bool.eq_false_iff.mp hs)

theorem lognLoop_dispatches (ht : x.type ≠ 4) (hw : ¬ (x.type = 15 ∧ x.info / 2 ^ 16 = 0)) :
    lognLoop s r t wc (n + 1) s = dispatchRecord s r t wc x s (lognLoop s r t wc n) := by
  rw [lognLoop, h]
  dsimp only
  rw [hp]
  dsimp only
  rw [if_neg ht, if_neg hw]

end

/-! ## Dispatch -/

section
variable {s s2 : State} {r : TRef} {t : Thread} {wc : CoreId} {x : LogRec} {go : State → Res}

theorem dispatchRecord_drops {q : TrapRec} (h : tableEntry (s.modCoreW r.part wc (fun _ => takeRecord (s.core r.part wc).w x)) r t x.type =
    .error (.drop q s2)) :
    dispatchRecord s r t wc x s go = .drop q (s2.modCoreW r.part wc (fun k => { k with log := (s.core r.part wc).w.log })) := by
  rw [dispatchRecord, h]

theorem dispatchRecord_waits {q : Wait} (h : tableEntry (s.modCoreW r.part wc (fun _ => takeRecord (s.core r.part wc).w x)) r t x.type =
    .error (.wait q s2)) :
    dispatchRecord s r t wc x s go = .wait q (s2.modCoreW r.part wc (fun k => { k with log := (s.core r.part wc).w.log })) := by
  rw [dispatchRecord, h]

variable {entry : Word} (h : tableEntry (s.modCoreW r.part wc (fun _ => takeRecord (s.core r.part wc).w x)) r t x.type = .ok (entry, s2))
  (hn : entry ≠ 0)
include h hn

theorem dispatchRecord_badEntry (he : entryOk entry = false) : dispatchRecord s r t wc x s go = .trap .address (some entry) s := by
  rw [dispatchRecord, h]
  exact (if_neg hn).trans (if_pos (by rw [he]; rfl))

theorem dispatchRecord_goes (he : entryOk entry = true) : dispatchRecord s r t wc x s go =
    .done { Commit.none with
      regs := [(0, word x.seq), (1, word x.head), (2, dispatchValue (s.core r.part wc).w (takeRecord (s.core r.part wc).w x) x),
               (3, (kget (takeRecord (s.core r.part wc).w x).log.addrs x.slot).getD 0), (15, followPc t s)],
      target := some entry } s2 := by
  rw [dispatchRecord, h]
  exact (if_neg hn).trans (if_neg (by rw [he]; nofun))

end

/-! ## The words -/

section
variable {s : State} {r : TRef} {t : Thread} {wc : CoreId}

/-- What LOGN does. -/
def lognAt (r : TRef) (t : Thread) (s : State) : Res :=
  match t.wait with
  | some (.stamp q seq since) =>
    if !stampPassed s r.part q seq then .wait (.stamp q seq since) s
    else
      match workerOf s r.part r.core with
      | some wc => execLogn.lognFrom s r t wc
      | none => .wait .record s
  | _ =>
    match workerOf s r.part r.core with
    | some wc => if stampAhead s r then .wait .record s else execLogn.lognFrom s r t wc
    | none => if t.wait = some .record then .wait .record s else .trap .target none s

theorem lognAt_stamp {q : CoreId} {n since : Nat} (hw : t.wait = some (.stamp q n since)) (hs : stampPassed s r.part q n = false) :
    lognAt r t s = .wait (.stamp q n since) s := by
  rw [lognAt, hw]
  exact if_pos (by rw [hs]; rfl)

theorem lognAt_noWorker (hw : t.wait = none) (hc : workerOf s r.part r.core = none) : lognAt r t s = .trap .target none s := by
  rw [lognAt, hw, hc]
  rfl

/-- A LOGN that is new, or waits for a record. -/
theorem lognAt_record (hw : t.wait = none ∨ t.wait = some .record) (hc : workerOf s r.part r.core = some wc) :
    lognAt r t s = if stampAhead s r then .wait .record s else execLogn.lognFrom s r t wc := by
  rcases hw with hw | hw <;> rw [lognAt, hw, hc]

/-- One turn at least of the loop runs. -/
theorem lognFrom_eq : ∃ n, execLogn.lognFrom s r t wc = lognLoop s r t wc (n + 1) s := ⟨_, rfl⟩

end
end Sys2Proof.Machine

open Sys2Proof Sys2Proof.Machine

/-- Settles O46: a LOGN that may take runs one turn of its loop; LOGA moves ACK behind its fence. -/
theorem logWordResults : Obligations.LogWordResults := by
  intro s s2 t a wc q x entry ea drop wait n since r w w' ack v logn takes
  have hlogn : logn = runWord [] lognAt s := rfl
  have hloga : exec (.loga a) s = execLoga a s := rfl
  have loop (hc : workerOf s r.part r.core = some wc) (ht : takes) : ∃ n, lognAt r t s = lognLoop s r t wc (n + 1) s := by
    obtain ⟨hs, hw⟩ := ht
    obtain ⟨n, hn⟩ := lognFrom_eq (s := s) (r := r) (t := t) (wc := wc)
    exact ⟨n, (lognAt_record hw hc).trans ((if_neg (Bool.eq_false_iff.mp hs)).trans hn)⟩
  rw [hlogn, hloga]
  refine ⟨fun hc => ⟨fun h hw => runWord_faults h (lognAt_noWorker hw hc), fun h => ?_⟩, fun h hw hs => runWord_waits h (lognAt_stamp hw hs),
    fun hc => ⟨fun h hs hw => runWord_waits h ((lognAt_record hw hc).trans (if_pos hs)), fun h ht hn => ?_, fun h ht hn hp => ?_,
      fun h ht hn hp hty hq hs => ?_, fun h ht hn hp hty hw => ?_, fun h hf => ?_, fun h hf => ?_⟩⟩
  · rw [execLoga]; exact runWord_faults h (by rw [hc])
  · obtain ⟨m, hm⟩ := loop hc ht
    exact runWord_waits h (hm.trans (lognLoop_none hn))
  · obtain ⟨m, hm⟩ := loop hc ht
    exact runWord_faults h (hm.trans (lognLoop_poisoned hn hp))
  · obtain ⟨m, hm⟩ := loop hc ht
    exact runWord_waits h (hm.trans (lognLoop_stamp hn hp hty hq hs))
  · obtain ⟨m, hm⟩ := loop hc ht
    have hd := hm.trans (lognLoop_dispatches hn hp hty hw)
    intro table untaken
    exact ⟨fun he => runWord_drops h (hd.trans (dispatchRecord_drops he)), fun he => runWord_waits h (hd.trans (dispatchRecord_waits he)),
      fun he h0 hb => runWord_faults h (hd.trans (dispatchRecord_badEntry he h0 hb)),
      fun he h0 hb => runWord_commits h (hd.trans (dispatchRecord_goes he h0 hb))⟩
  · rw [execLoga]
    refine runWord_waits h ?_
    rw [hc]
    exact fenced_waits hf _
  · rw [execLoga]
    refine runWord_commits h ?_
    rw [hc]
    refine ((fenced_met hf _).trans (atCommit_ready h _)).trans ?_
    dsimp only
    rw [field_low]
end

section
/-! SUPPORT. MTS (22 R344 to R347): what it refuses, when it waits, and what a register reads after the write. -/
namespace Sys2Proof.Machine

/-! ## The word -/

section
variable {s : State} {r : TRef} {t : Thread} {reg : SysReg} {a : Src}

/-- What MTS does. -/
def mtsAt (reg : SysReg) (a : Src) (r : TRef) (t : Thread) (s : State) : Res :=
  let v := t.rd a
  if regWrites reg == .none || (regWrites reg == .priv && !t.priv) then .trap .privilege (some (word reg.num)) s
  else if regHome reg == .cluster && (clusterOf r.core).isNone then .trap .target none s
  else if reg == .status then atCommit s (fun _ => .done { Commit.none with status := some (statusWrite t.status v) } s)
  else if reg == .tbind then writeTbind r v (syncRegs [a]) s
  else if regHome reg == .thread then atCommit s (fun _ => .done Commit.none (writeThreadReg s r reg v))
  else if regRemote reg then fenced s r t .part (fun _ => .done { Commit.none with lat := 30 } (writeCoreReg s r.part r.core reg v))
  else atCommit s (fun _ => .done Commit.none (writeCoreReg s r.part r.core reg v))

theorem exec_mts : exec (.mts reg a) s = runWord [a] (mtsAt reg a) s := rfl

/-- The thread may write the register. -/
def mayWrite (reg : SysReg) (t : Thread) : Prop := regWrites reg ≠ .none ∧ ¬ (regWrites reg = .priv ∧ t.priv = false)

theorem mayWrite_priv (hw : regWrites reg ≠ .none) (ht : t.priv = true) : mayWrite reg t := ⟨hw, fun h => by rw [ht] at h; cases h.2⟩

theorem mtsAt_refused (h : ¬ mayWrite reg t) : mtsAt reg a r t s = .trap .privilege (some (word reg.num)) s := by
  refine if_pos ?_
  cases hr : regWrites reg <;> simp_all [mayWrite]

theorem mtsAt_may (h : mayWrite reg t) : ¬ (regWrites reg == .none || (regWrites reg == .priv && !t.priv)) = true := by
  obtain ⟨h1, h2⟩ := h
  cases hr : regWrites reg <;> simp_all

variable (hm : mayWrite reg t)
include hm

theorem mtsAt_no_cluster (hh : regHome reg = .cluster) (hc : clusterOf r.core = none) : mtsAt reg a r t s = .trap .target none s :=
  (if_neg (mtsAt_may hm)).trans (if_pos (by rw [hh, hc]; rfl))

variable (hc : ¬ (regHome reg = .cluster ∧ clusterOf r.core = none))
include hc

/-- Past its checks, the register's home decides. -/
theorem mtsAt_home : mtsAt reg a r t s =
    if reg == .status then atCommit s (fun _ => .done { Commit.none with status := some (statusWrite t.status (t.rd a)) } s)
    else if reg == .tbind then writeTbind r (t.rd a) (syncRegs [a]) s
    else if regHome reg == .thread then atCommit s (fun _ => .done Commit.none (writeThreadReg s r reg (t.rd a)))
    else if regRemote reg then fenced s r t .part (fun _ => .done { Commit.none with lat := 30 } (writeCoreReg s r.part r.core reg (t.rd a)))
    else atCommit s (fun _ => .done Commit.none (writeCoreReg s r.part r.core reg (t.rd a))) :=
  (if_neg (mtsAt_may hm)).trans (if_neg (by simpa using hc))

end

section
variable {s : State} {t : Thread} {reg : SysReg} {a : Src} (h : Ready s t [a]) (hm : mayWrite reg t)
  (hc : ¬ (regHome reg = .cluster ∧ clusterOf s.cur.at_.core = none))
include h hm

/-- A register of the thread. -/
theorem mts_thread (hs : (reg == .status) = false) (hh : regHome reg = .thread) :
    Commits s (writeThreadReg s s.cur.at_ reg (t.rd a)) [a] (exec (.mts reg a) s) Commit.none := by
  have hb : (reg == .tbind) = false := beq_eq_false_iff_ne.mpr (fun e => by rw [e] at hh; cases hh)
  refine runWord_commits h ((mtsAt_home hm (fun hx => by rw [hh] at hx; cases hx.1)).trans ?_)
  rw [hs, hb, hh]
  exact (if_neg nofun).trans ((if_neg nofun).trans ((if_pos (by decide)).trans (atCommit_ready h _)))

/-- A register of the core. -/
theorem mts_core (hb : (reg == .tbind) = false) (hh : regHome reg = .core) :
    Commits s (writeCoreReg s s.cur.at_.part s.cur.at_.core reg (t.rd a)) [a] (exec (.mts reg a) s) Commit.none := by
  have hs : (reg == .status) = false := beq_eq_false_iff_ne.mpr (fun e => by rw [e] at hh; cases hh)
  refine runWord_commits h ((mtsAt_home hm (fun hx => by rw [hh] at hx; cases hx.1)).trans ?_)
  rw [hs, hb, regRemote, hh]
  exact (if_neg nofun).trans ((if_neg nofun).trans ((if_neg (by decide)).trans ((if_neg (by decide)).trans (atCommit_ready h _))))

include hc

/-- One that another unit owns. -/
theorem mts_far (hr : regRemote reg = true) : (fenceMet s s.cur.at_ t .part = false → Waits s s (exec (.mts reg a) s) (.fence .part)) ∧
    (fenceMet s s.cur.at_ t .part = true → Commits s (writeCoreReg s s.cur.at_.part s.cur.at_.core reg (t.rd a)) [a] (exec (.mts reg a) s)
      { Commit.none with lat := 30 }) := by
  have hth : (regHome reg == .thread) = false := by
    rcases regRemote_iff.mp hr with h | h <;> rw [h] <;> rfl
  have hs : (reg == .status) = false := beq_eq_false_iff_ne.mpr (fun e => by rw [e] at hr; cases hr)
  have hb : (reg == .tbind) = false := beq_eq_false_iff_ne.mpr (fun e => by rw [e] at hr; cases hr)
  have hgo : mtsAt reg a s.cur.at_ t s = _ := mtsAt_home hm hc
  rw [hs, hb, hth, hr] at hgo
  replace hgo := hgo.trans ((if_neg nofun).trans ((if_neg nofun).trans ((if_neg nofun).trans (if_pos rfl))))
  exact ⟨fun hf => runWord_waits h (hgo.trans (fenced_waits hf _)), fun hf => runWord_commits h (hgo.trans (fenced_met hf _))⟩

end

/-! ## What a register reads after the write -/

theorem fields_all (x v : Word) : fields x v 18446744073709551615#64 = v := by
  rw [fields, show 18446744073709551615#64 = BitVec.allOnes 64 by decide, BitVec.not_allOnes, BitVec.and_zero, BitVec.zero_or,
    BitVec.and_allOnes]

theorem testBit_field (y : Word) (lo n k : Nat) : (field y lo n).testBit k = (decide (k < n) && y.getLsbD (lo + k)) := by
  rw [field, Nat.testBit_mod_two_pow, Nat.testBit_div_two_pow, BitVec.getLsbD, Nat.add_comm]

theorem getLsbD_mask (lo n : Nat) {i : Nat} (hi : i < 64) : (word ((2 ^ n - 1) * 2 ^ lo)).getLsbD i = decide (lo ≤ i ∧ i < lo + n) := by
  rw [word, BitVec.getLsbD_ofNat, Nat.testBit_mul_two_pow, Nat.testBit_two_pow_sub_one, decide_eq_true hi, Bool.true_and, ← Bool.decide_and]
  exact decide_eq_decide.mpr (by omega)

/-- A field replaced by that of another word is a write of the field's mask. -/
theorem setField_field (x y : Word) (lo n : Nat) : setField x lo n (field y lo n) = fields x y (word ((2 ^ n - 1) * 2 ^ lo)) := by
  apply BitVec.eq_of_getLsbD_eq
  intro i hi
  rw [getLsbD_setField _ _ _ _ hi, fields]
  simp only [BitVec.getLsbD_or, BitVec.getLsbD_and, BitVec.getLsbD_not, getLsbD_mask lo n hi, testBit_field, hi, decide_true, Bool.true_and]
  by_cases h : lo ≤ i ∧ i < lo + n
  · rw [if_pos h, decide_eq_true h, Nat.add_sub_cancel' h.1]
    simp; omega
  · rw [if_neg h, decide_eq_false h]; simp

theorem fields_fields (x v m m' : Word) : fields (fields x v m) v m' = fields x v (m ||| m') := by
  apply BitVec.eq_of_getLsbD_eq
  intro i hi
  simp only [fields, BitVec.getLsbD_or, BitVec.getLsbD_and, BitVec.getLsbD_not, hi, decide_true, Bool.true_and]
  cases x.getLsbD i <;> cases v.getLsbD i <;> cases m.getLsbD i <;> cases m'.getLsbD i <;> rfl

/-- The registers of a core that take their RW fields, with the mask of these. -/
def coreMasks : List (SysReg × Word) :=
  [(.loglim, 0x7FFFFF), (.loght, 0x01FFFFFFFFFFFF80), (.strctl, 3), (.sysh, 0xFFFFFFFFFFFFFFFF), (.psel, 0xFFFF0000FFFFFFFF),
   (.trcbase, 0x01FFFFFFFFFFF000), (.trcptr, 0xFFFFF0), (.trctrg, 0x3FFFFFF), (.trcpc, 0xFFFFFFFFFFFFFFFF), (.trctime, 0xFFFFFFFFFFFFFFFF)]

/-- Those of a partition. -/
def partMasks (i4 : Fin 4) (i16 : Fin 16) : List (SysReg × Word) :=
  [(.lwbase, 0x0000FFFFFFF00000), (.dspctl, 3), (.agei, 0xFFFFFFFF), (.migth, 0xFF), (.ptroot i4, 0x0000FFFFFFFF0001),
   (.dombase, 0x0000FFFFFFFF0000), (.rtbase, 0x0000FFFFFFFF0000), (.memctl, 0xF1), (.errinj, 0x8000000001FFFFE0),
   (.slim i16, 0x7FFFFFFF), (.steepq, 0x7FFFFFFF), (.ctxbase, 0x0000FFFFFFFFC000), (.wscur, 0x0000FFFFFFFF0001),
   (.wsnext, 0x0000FFFFFFFF0001), (.xport, 0x81FFFFFF000000FF), (.collctl, 0x1FFFFFFFF), (.snapdom, 0x0000FFFFFFFFFFF8),
   (.caddy, 0x8000FFFFFFFF0000), (.caddyp, 0x7FFFFFFFFFFFFFFF), (.snapstg, 0x0000FFFFFFFFFFFF), (.lnkctl, 0xFFC0000000000000)]

section
variable {s : State} {p : PartId} {c : CoreId} {v : Word}

theorem frozenCheck_r {reg : SysReg} : ((frozenCheck s p reg).part p).r = (s.part p).r := by
  rw [frozenCheck]
  split <;> simp

theorem frozenCheck_mem {reg : SysReg} : (frozenCheck s p reg).mem = s.mem := by
  rw [frozenCheck]
  split <;> simp

theorem writeLnkctl_r : ((writeLnkctl s p v).part p).r = { (s.part p).r with lnkctl := fields (s.part p).r.lnkctl v 0xFFC0000000000000 } := by
  rw [writeLnkctl]
  dsimp only
  split <;> simp [State.modRegs]

theorem writeLnkctl_mem : (writeLnkctl s p v).mem = s.mem := by
  rw [writeLnkctl]
  split <;> simp

theorem part_mtsSet {c' : CoreId} {reg : SysReg} {x : Word} : (s.mtsSet p c' reg x).part p = s.part p := rfl

theorem core_mtsSet {c' : CoreId} {reg : SysReg} {x : Word} : (s.mtsSet p c' reg x).core p c = s.core p c := rfl

theorem writeCoreReg_masked {e : SysReg × Word} (he : e ∈ coreMasks) : (writeCoreReg s p c e.1 v).mem = s.mem ∧
    ownReg (writeCoreReg s p c e.1 v) p c e.1 = fields (ownReg s p c e.1) v e.2 := by
  fin_cases he <;> refine ⟨rfl, ?_⟩ <;> simp [writeCoreReg, ownReg, fields_all, core_mtsSet]

theorem writeCoreReg_partMasked {i4 : Fin 4} {i16 : Fin 16} {e : SysReg × Word} (he : e ∈ partMasks i4 i16) :
    (writeCoreReg s p c e.1 v).mem = s.mem ∧ ownReg (writeCoreReg s p c e.1 v) p c e.1 = fields (ownReg s p c e.1) v e.2 := by
  fin_cases he
  all_goals
    simp [writeCoreReg, writePartReg, ownReg, frozenCheck_r, frozenCheck_mem, writeLnkctl_r, writeLnkctl_mem, State.modRegs, writeErrinj,
      part_mtsSet]

/-! ## The registers that are made up of fields -/

/-- Sticky bits after a write (R355). -/
def onesLeft (s : State) (p : PartId) (c : CoreId) (reg : SysReg) (old v : Word) : Word := old &&& ~~~(v &&& ~~~s.hwBits p c reg)

theorem writeRxq : (writeCoreReg s p c .rxq v).mem = s.mem ∧ ownReg (writeCoreReg s p c .rxq v) p c .rxq =
    word ((s.core p c).w.rxTail.toNat * 2 ^ 16 + v.toNat % 2 ^ 9) := by
  have hw : ∀ u : State, (u.core p c).w = { (s.core p c).w with rxHead := BitVec.ofNat 9 (field v 0 9) } →
      ownReg u p c .rxq = word ((s.core p c).w.rxTail.toNat * 2 ^ 16 + v.toNat % 2 ^ 9) := by
    intro u hu
    rw [ownReg, hu, rxqWord, BitVec.toNat_ofNat, field_low, Nat.mod_mod]
  have hc := State.core_modCoreW (s.mtsSet p c .rxq (rxqWord (s.core p c).w)) p c (fun w => { w with rxHead := BitVec.ofNat 9 (field v 0 9) })
  rw [writeCoreReg]
  split
  · exact ⟨rfl, hw _ (congrArg Core.w hc)⟩
  · exact ⟨rfl, hw _ (congrArg Core.w hc)⟩

theorem writeCpyst (h : c.val < 256) : (writeCoreReg s p c .cpyst v).mem = s.mem ∧ ownReg (writeCoreReg s p c .cpyst v) p c .cpyst =
    (ownReg s p c .cpyst &&& 0x7FFFFFFFFFFFFFFF) ||| (onesLeft s p c .cpyst (ownReg s p c .cpyst) v &&& 0x8000000000000000) := by
  rw [writeCoreReg, if_pos h]
  refine ⟨rfl, ?_⟩
  have hold : ownReg s p c .cpyst = (s.core p c).w.cpyst := if_pos h
  have hnew (u : State) : ownReg u p c .cpyst = (u.core p c).w.cpyst := if_pos h
  rw [hnew, hold, State.core_modCoreW]
  dsimp only
  rw [setField_field]
  rfl

theorem writePcnt_reads (i : Fin 4) : (writeCoreReg s p c (.pcnt i) v).mem = s.mem ∧ ownReg (writeCoreReg s p c (.pcnt i) v) p c (.pcnt i) =
    (v &&& 0xFFFFFFFFFFFF) ||| onesLeft s p c (.pcnt i) (ownReg s p c (.pcnt i) &&& 0x8000000000000000) v := by
  refine ⟨rfl, ?_⟩
  simp [writeCoreReg, writePcnt, ownReg, State.clearOnes, onesLeft]

theorem writeTrcctl : (writeCoreReg s p c .trcctl v).mem = s.mem ∧ ownReg (writeCoreReg s p c .trcctl v) p c .trcctl =
    trcctlWrite (ownReg s p c .trcctl) v (onesLeft s p c .trcctl (ownReg s p c .trcctl &&& 0x2000000000000000) v) := by
  refine ⟨rfl, ?_⟩
  simp [writeCoreReg, ownReg, State.clearOnes, onesLeft]

theorem writeSteepctl_en (h : v.getLsbD 0 = true) :
    writeSteepctl s p v = s.modRegs p (fun r => { r with steepctl := fields r.steepctl v 3 }) := by
  rw [writeSteepctl]
  exact if_pos h

theorem writeRelctl_kept (h : v.getLsbD 63 = false) :
    writeRelctl s p v = s.modRegs p (fun r => { r with relctl := fields r.relctl v 0xFFFFFFFF }) := by
  rw [writeRelctl]
  exact if_neg (Bool.eq_false_iff.mp h)

theorem writeSnaprst_kept (h : v.getLsbD 63 = false) :
    writeSnaprst s p v = s.modRegs p (fun r => { r with snaprst := fields r.snaprst v 0x40000000001FFFFF }) := by
  have hm : word ((2 ^ 1 - 1) * 2 ^ 62) ||| word ((2 ^ 21 - 1) * 2 ^ 0) = 0x40000000001FFFFF := by decide
  rw [writeSnaprst]
  refine (if_pos (by rw [bit, h]; rfl)).trans ?_
  congr 1
  funext r
  rw [setField_field, setField_field, fields_fields, hm]

theorem ownReg_relctl : ownReg (s.modRegs p (fun r => { r with relctl := fields r.relctl v 0xFFFFFFFF })) p c .relctl =
    fields (ownReg s p c .relctl) v 0xFFFFFFFF := by simp [ownReg, State.modRegs]

theorem writeSnapctl_reads : ownReg (writeSnapctl s p v) p c .snapctl =
    if v.getLsbD 63 = true ∧ (ownReg s p c .snapctl).getLsbD 63 = false then fields (ownReg s p c .snapctl) v 0xC00000000FFF0000 ||| 1
    else fields (ownReg s p c .snapctl) v 0xC00000000FFF0000 := by
  simp [ownReg, writeSnapctl, State.modRegs, bit]

theorem writeLnkbase_reads : ownReg (writeCoreReg s p c .lnkbase v) p c .lnkbase =
    (v &&& 0x01FFFFFFFFFFC000) ||| onesLeft s p 0 .lnkbase (ownReg s p c .lnkbase &&& 1) v := by
  simp [ownReg, writeCoreReg, writePartReg, State.modRegs, State.clearOnes, onesLeft]

theorem writeFatalovf_trap : ((writeFatalovf s p v).part p).trap = { (s.part p).trap with
    ovf := (s.part p).trap.ovf && !(v.getLsbD 63 && !(s.hwBits p 0 .fatalovf).getLsbD 63) } := by
  have hb : bit (s.clearOnes p 0 .fatalovf (if (s.part p).trap.ovf then 0x8000000000000000 else 0) v) 63 =
      ((s.part p).trap.ovf && !(v.getLsbD 63 && !(s.hwBits p 0 .fatalovf).getLsbD 63)) := by
    cases (s.part p).trap.ovf <;> simp [bit, State.clearOnes]
  rw [writeFatalovf, modTrap, State.part_modPart, hb]

theorem writeTqbase_reads : ownReg (writeTqbase s p v) p c .tqbase =
    (v &&& 0x01FFFFFFFFFFF00F) ||| onesLeft s p 0 .tqbase (ownReg s p c .tqbase &&& 0x800) v := by
  simp [ownReg, writeTqbase, modTrap, State.modRegs, State.clearOnes, onesLeft]

theorem writeTqbase_trap : ((writeTqbase s p v).part p).trap = { (s.part p).trap with head := 0, tail := 0, alloc := 0, writing := [] } := by
  simp [writeTqbase, modTrap, State.modRegs]

theorem writeTqhead_reads : ownReg (writeTqhead s p v) p c .tqhead = word (v.toNat % 2 ^ 16) := by
  simp [ownReg, writeTqhead, modTrap, field_low]

theorem writePerfctl_reads : ownReg (writePerfctl s p v) p c .perfctl = v &&& 0xF := by simp [ownReg, writePerfctl]

theorem writePerfctl_core : ((writePerfctl s p v).core p c).w = presetCore (v.toNat % 8) (s.core p c).w := by
  have hf : field v 0 3 = v.toNat % 8 := field_low v 3
  rw [State.core, writePerfctl, State.part_modPart, Partition.core]
  dsimp only
  rw [kget_kmapVals, hf, part_mtsSet, State.core, Partition.core]
  cases kget (s.part p).cores c.val <;> rfl

/-- A counter of a core at a preset, and the events that it selects (R407). -/
theorem presetCore_psel (n : Nat) (w : CoreWorld) : (presetCore n w).psel = match n with
    | 1 => 0xFFFF000009040302
    | 2 => 0xFFFF00000A070605
    | 3 => 0xFFFF0000030D0C0B
    | 4 => 0xFFFF000011100F0E
    | _ => 0xFFFF000000000000 := by
  change 0xFFFF000000000000 ||| presetEvents n = _
  match n with
  | 0 | 1 | 2 | 3 | 4 => decide
  | _ + 5 => change (0xFFFF000000000000 : Word) ||| 0 = 0xFFFF000000000000; decide

end

end Sys2Proof.Machine
end

section
/-! SUPPORT. The writes that act beyond their register: RELCTL.PRST and TBIND. -/
namespace Sys2Proof.Machine

/-! ## What keeps memory and every partition's registers -/

/-- Memory and the registers of every partition stand as before. -/
structure SameRegs (s u : State) : Prop where
  mem : u.mem = s.mem
  regs : ∀ q, (u.part q).r = (s.part q).r

theorem SameRegs.refl (s : State) : SameRegs s s := ⟨rfl, fun _ => rfl⟩

theorem SameRegs.trans {s u v : State} (h : SameRegs s u) (h' : SameRegs u v) : SameRegs s v :=
  ⟨h'.mem.trans h.mem, fun q => (h'.regs q).trans (h.regs q)⟩

theorem SameRegs.foldl {α : Type} {f : State → α → State} (hf : ∀ s a, SameRegs s (f s a)) (l : List α) : ∀ s, SameRegs s (l.foldl f s) := by
  induction l with
  | nil => exact SameRegs.refl
  | cons a l ih => exact fun s => (hf s a).trans (ih _)

theorem sameRegs_modPart (s : State) (p : PartId) {f : Partition → Partition} (hf : ∀ q, (f q).r = q.r) : SameRegs s (s.modPart p f) := by
  refine ⟨State.modPart_mem .., fun q => ?_⟩
  by_cases h : q = p
  · subst h; rw [State.part_modPart, hf]
  · rw [State.part_modPart_ne _ _ h]

theorem SameRegs.push {s u : State} (h : SameRegs s u) (i : Instr) : SameRegs s (u.push i) := ⟨h.mem, h.regs⟩

theorem SameRegs.pushAll {s u : State} (h : SameRegs s u) (l : List Instr) : SameRegs s (u.pushAll l) := ⟨h.mem, h.regs⟩

theorem SameRegs.afterTicks {s u : State} (h : SameRegs s u) (n : Nat) (i : Instr) : SameRegs s (u.afterTicks n i) := ⟨h.mem, h.regs⟩

theorem SameRegs.modPart {s u : State} (h : SameRegs s u) (p : PartId) {f : Partition → Partition} (hf : ∀ q, (f q).r = q.r) :
    SameRegs s (u.modPart p f) := h.trans (sameRegs_modPart u p hf)

theorem discard_r {α : Type} {f : Partition → α → Partition} (hf : ∀ q a, (f q a).r = q.r) (l : List α) : ∀ q, (l.foldl f q).r = q.r := by
  induction l with
  | nil => exact fun _ => rfl
  | cons a l ih => exact fun q => (ih _).trans (hf q a)

theorem discardBlock_r (q : Partition) (k : BlockKey) : (discardBlock q k).r = q.r := by
  rw [discardBlock]
  split <;> rfl

theorem discardWord_r (q : Partition) (k : BlockKey) : (discardWord q k).r = q.r := by
  rw [discardWord]
  split <;> rfl

theorem sameRegs_missRank (s : State) (p : PartId) (c : Coll) (rank : Nat) : SameRegs s (missRank s p c rank) := by
  rw [missRank]
  split
  · exact .refl s
  · refine SameRegs.push (sameRegs_modPart s p ?_) _
    exact fun q => (discard_r discardWord_r _ _).trans (discard_r discardBlock_r _ _)

theorem sameRegs_tellMissing (s : State) (p : PartId) (c : Coll) (rank : Nat) : SameRegs s (tellMissing s p c rank) := by
  refine SameRegs.foldl (fun s e => ?_) _ s
  dsimp only
  split
  · exact .refl s
  · split
    · exact ⟨rfl, fun _ => rfl⟩
    · split
      · exact ⟨rfl, fun _ => rfl⟩
      · exact .refl s

theorem sameRegs_ranksGone (s : State) (m : BitVec 16) (q : PartId) : SameRegs s (ranksGone s m q) := by
  refine SameRegs.foldl (fun s p => SameRegs.foldl (fun s c => ?_) _ s) _ s
  split
  · exact (sameRegs_missRank ..).trans (sameRegs_tellMissing ..)
  · exact .refl s

theorem sameRegs_leaveColls (s : State) (p : PartId) : SameRegs s (leaveColls s p) := by
  rw [leaveColls]
  refine SameRegs.modPart (SameRegs.trans (SameRegs.foldl ?_ _ s) (sameRegs_ranksGone ..)) p ?_
  · exact fun s c => sameRegs_tellMissing s p c c.rank
  · exact fun _ => rfl

theorem State.part_afterTicks (s : State) (n : Nat) (i : Instr) (q : PartId) : (s.afterTicks n i).part q = s.part q := rfl

theorem startReset_begins {s : State} {p : PartId} (hs : (s.part p).inService = true) (hr : (s.part p).rst = .none) :
    SameRegs s (startReset s p) ∧ ((startReset s p).part p).rst = .refusing := by
  have h := sameRegs_leaveColls s p
  rw [startReset, if_neg (by rw [hs, hr]; decide)]
  refine ⟨SameRegs.afterTicks (SameRegs.modPart (h.pushAll _) p ?_) _ _, ?_⟩
  · exact fun _ => rfl
  · dsimp only
    rw [State.part_afterTicks, State.part_modPart]

theorem writeRelctl_resets {s : State} {p : PartId} {c : CoreId} {v : Word} (hv : bit v 63 = true) (hs : (s.part p).inService = true)
    (hr : (s.part p).rst = .none) : ((writeRelctl s p v).mem = s.mem ∧
      ownReg (writeRelctl s p v) p c .relctl = fields (ownReg s p c .relctl) v 0xFFFFFFFF) ∧ ((writeRelctl s p v).part p).rst = .refusing := by
  have e : writeRelctl s p v = startReset (s.modRegs p (fun r => { r with relctl := fields r.relctl v 0xFFFFFFFF })) p := if_pos hv
  obtain ⟨hk, hb⟩ := startReset_begins (s := s.modRegs p (fun r => { r with relctl := fields r.relctl v 0xFFFFFFFF })) (p := p)
    (by rw [State.modRegs, State.part_modPart]; exact hs) (by rw [State.modRegs, State.part_modPart]; exact hr)
  rw [e]
  refine ⟨⟨hk.mem, ?_⟩, hb⟩
  rw [← ownReg_relctl]
  exact congrArg PRegs.relctl (hk.regs p)

theorem writeSteepctl_reads {s : State} {p : PartId} {c : CoreId} {v : Word} (h : v.getLsbD 0 = true) : (writeSteepctl s p v).mem = s.mem ∧
    ownReg (writeSteepctl s p v) p c .steepctl = fields (ownReg s p c .steepctl) v 3 := by
  rw [writeSteepctl_en h]
  exact ⟨rfl, by simp [ownReg, State.modRegs]⟩

theorem writeRelctl_reads {s : State} {p : PartId} {c : CoreId} {v : Word} (h : v.getLsbD 63 = false) : (writeRelctl s p v).mem = s.mem ∧
    ownReg (writeRelctl s p v) p c .relctl = fields (ownReg s p c .relctl) v 0xFFFFFFFF := by
  rw [writeRelctl_kept h]
  exact ⟨rfl, ownReg_relctl⟩

theorem writeSnaprst_reads {s : State} {p : PartId} {c : CoreId} {v : Word} (h : v.getLsbD 63 = false) : (writeSnaprst s p v).mem = s.mem ∧
    ownReg (writeSnaprst s p v) p c .snaprst = fields (ownReg s p c .snaprst) v 0x40000000001FFFFF := by
  rw [writeSnaprst_kept h]
  exact ⟨rfl, by simp [ownReg, State.modRegs]⟩

/-! ## A register of the cluster -/

theorem writeAccst {s : State} {p : PartId} {c : CoreId} {v : Word} {k : ClusterId} (i : Fin 2) (hk : clusterOf c = some k) :
    writeCoreReg s p c (.accst i) v = s.modAcc p k (accstSlot c i) (accstWrite (v &&& ~~~s.hwBits p c (.accst i))) := by
  rw [writeCoreReg, hk]

theorem writeAccst_bank {s : State} {p : PartId} {c : CoreId} {v : Word} (i : Fin 2) (hk : clusterOf c = none) :
    writeCoreReg s p c (.accst i) v = s := by
  rw [writeCoreReg, hk]

theorem writeEngctl {s : State} {p : PartId} {c : CoreId} {v : Word} (hk : clusterOf c ≠ none) : (writeCoreReg s p c .engctl v).mem = s.mem ∧
    ownReg (writeCoreReg s p c .engctl v) p c .engctl = fields (ownReg s p c .engctl) v 0xF1F01 := by
  obtain ⟨k, hk⟩ := Option.ne_none_iff_exists'.mp hk
  have ho (u : State) : ownReg u p c .engctl = (u.cluster p k).engctl :=
    (congrArg (fun c => match c with | some cl => (u.cluster p cl).engctl | none => 0) hk :)
  rw [ho, ho, writeCoreReg, hk]
  exact ⟨rfl, by simp [State.cluster, State.setCluster, Partition.cluster]⟩

theorem writeAccrcl {s : State} {p : PartId} {c : CoreId} {v : Word} {k : ClusterId} (hk : clusterOf c = some k) :
    writeCoreReg s p c .accrcl v = reclaimSlots s p k (v.toNat % 2 ^ 16) := by
  rw [writeCoreReg, hk]
  exact congrArg (reclaimSlots s p k) (field_low v 16)

/-! ## TBIND (R328) -/

section
variable {s : State} {p : PartId} {c : CoreId} {v : Word}

theorem markWatched_tbind {on : Bool} : ((markWatched s p c on).core p c).w.tbind = (s.core p c).w.tbind := by
  rw [markWatched, State.core_modCoreW]

theorem bindTaster_binds (h : bindOk s p c v = true) : ownReg (bindTaster s p c v) p c .tbind = v &&& 0xFC0000FF803FFFF8 := by
  rw [bindTaster, if_pos h, ownReg]
  dsimp only
  rw [markWatched_tbind]
  split
  · next t ht =>
    by_cases hc : t = c
    · subst hc; simp [tbindFields]
    · rw [State.modCoreW, State.core_setCore_ne _ _ (.inr (Ne.symm hc)), State.core_modCoreW]; rfl
  · rw [State.core_modCoreW]; rfl

theorem bindTaster_refuses (h : bindOk s p c v = false) :
    bindTaster s p c v = s.modCoreW p c (fun w => { w with tbind := w.tbind ||| 0x10000000000 }) := by
  rw [bindTaster, if_neg (Bool.eq_false_iff.mp h)]

theorem unbindTaster_tbind : ownReg (unbindTaster s p c v) p c .tbind = (v &&& 0x7C0000FF803FFFF8) ||| (ownReg s p c .tbind &&& 0x10000000000) := by
  have hm : (0x7FFFFFFFFFFFFFFF : Word) &&& 0xFC0000FF803FFFF8 = 0x7C0000FF803FFFF8 := by decide
  change ((unbindTaster s p c v).core p c).w.tbind = _
  rw [unbindTaster, markWatched_tbind, State.core_modCoreW]
  dsimp only
  rw [tbindFields, BitVec.and_assoc, hm]
  rfl

theorem unbindTaster_watched : (unbindTaster s p c v).watched p c = false := by
  have h : ((unbindTaster s p c v).core p c).w.tbind = _ := unbindTaster_tbind
  rw [State.watched, h, bit]
  simp

end

section
variable {s : State} {t : Thread} {a : Src} (hp : t.priv = true)
include hp

theorem tbind_at : mtsAt .tbind a s.cur.at_ t s = writeTbind s.cur.at_ (t.rd a) (syncRegs [a]) s :=
  mtsAt_home (mayWrite_priv nofun hp) (fun h => nomatch h.1)

variable (h : Ready s t [a])
include h

theorem tbind_binds (hv : bit (t.rd a) 63 = true) : exec (.mts .tbind a) s =
    .next (bindTaster (commitAt s s.cur.at_ s.cur.size s.cur.words { Commit.none with clears := syncRegs [a] }) s.cur.at_.part s.cur.at_.core
      (t.rd a)) := by
  have hc : commitNow s { Commit.none with clears := syncRegs [a] } =
      commitAt s s.cur.at_ s.cur.size s.cur.words { Commit.none with clears := syncRegs [a] } := by rw [commitNow, h.2.1]
  rw [exec_mts, runWord_ready h, tbind_at hp, writeTbind, if_pos hv, atCommit_ready h, hc]
  rfl

theorem tbind_waits (hv : bit (t.rd a) 63 = false) (hw : s.watched s.cur.at_.part s.cur.at_.core = true)
    (hd : logDrained s s.cur.at_.part s.cur.at_.core = false) : Waits s s (exec (.mts .tbind a) s) .unbind := by
  refine runWord_waits h ((tbind_at hp).trans ?_)
  rw [writeTbind, if_neg (Bool.eq_false_iff.mp hv)]
  exact if_pos (by rw [hw, hd]; rfl)

theorem tbind_unbinds (hv : bit (t.rd a) 63 = false)
    (hd : s.watched s.cur.at_.part s.cur.at_.core = false ∨ logDrained s s.cur.at_.part s.cur.at_.core = true) :
    Commits s (unbindTaster s s.cur.at_.part s.cur.at_.core (t.rd a)) [a] (exec (.mts .tbind a) s) Commit.none := by
  have hu : ¬ s.cycle < holdUntil s s.cur := by
    rw [holdUntil, if_pos (.inl (by rw [h.2.1]; nofun))]; omega
  refine runWord_commits h ((tbind_at hp).trans ?_)
  rw [writeTbind, if_neg (Bool.eq_false_iff.mp hv)]
  refine (if_neg ?_).trans (atCommit_ready h _)
  rcases hd with hd | hd <;> simp [hd, hu]

end

end Sys2Proof.Machine

open Sys2Proof Sys2Proof.Machine

/-- Settles O48: MTS refuses, or writes its register as `writeThreadReg` and `writeCoreReg` say. -/
theorem writeRegisterResults : Obligations.WriteRegisterResults := by
  intro s t reg a i i4 i16 h r p v may old mix ones core afar reads
  -- a register of the core whose value after the write is known
  have cores {reg} (hm : mayWrite reg t) (hb : (reg == .tbind) = false) (hh : regHome reg = .core) {w : Word}
      (hx : (writeCoreReg s p r.core reg v).mem = s.mem ∧ ownReg (writeCoreReg s p r.core reg v) p r.core reg = w) : core reg w :=
    ⟨_, mts_core h hm hb hh, hx⟩
  -- one of another unit
  have fars {reg} {Q : State → Prop} (hm : mayWrite reg t) (hc : ¬ (regHome reg = .cluster ∧ clusterOf r.core = none))
      (hr : regRemote reg = true) (hQ : Q (writeCoreReg s p r.core reg v)) : afar reg Q :=
    ⟨(mts_far h hm hc hr).1, fun hf => ⟨_, (mts_far h hm hc hr).2 hf, hQ⟩⟩
  have accst : Commits s (writeCoreReg s p r.core (.accst i) v) [a] (exec (.mts (.accst i) a) s) Commit.none :=
    mts_core h ⟨nofun, nofun⟩ rfl rfl
  refine ⟨fun hm => runWord_faults h (mtsAt_refused hm), fun hm hh hc => runWord_faults h (mtsAt_no_cluster hm hh hc), ?_,
    mts_thread h ⟨nofun, nofun⟩ rfl rfl, mts_thread h ⟨nofun, nofun⟩ rfl rfl, fun k hk => ?_, fun hc => ?_, fun hp => ?_⟩
  · exact runWord_completes h ((mtsAt_home (reg := .status) ⟨nofun, nofun⟩ nofun).trans ((if_pos rfl).trans (atCommit_ready h _))) rfl rfl
  · rw [writeAccst i hk] at accst
    exact accst
  · rw [writeAccst_bank i hc] at accst
    exact accst
  have priv (reg) (hw : regWrites reg ≠ .none) : mayWrite reg t := mayWrite_priv hw hp
  have part {reg} {Q : State → Prop} (hw : regWrites reg = .priv) (hr : regHome reg = .partition) (hQ : Q (writeCoreReg s p r.core reg v)) :
      afar reg Q :=
    fars (priv reg (by rw [hw]; nofun)) (by rw [hr]; nofun) (regRemote_iff.mpr (.inr hr)) hQ
  refine ⟨mts_thread h (priv .corr nofun) rfl rfl, fun e he => ?_, cores (priv .rxq nofun) rfl rfl writeRxq,
    fun hc => cores (priv .cpyst nofun) rfl rfl (writeCpyst hc), cores (priv (.pcnt i4) nofun) rfl rfl (writePcnt_reads i4),
    cores (priv .trcctl nofun) rfl rfl writeTrcctl, fun hv => tbind_binds hp h hv, fun hv hw hd => tbind_waits hp h hv hw hd,
    fun hv hd => ⟨_, tbind_unbinds hp h hv hd, unbindTaster_watched, unbindTaster_tbind⟩,
    mts_core h (priv .logvio nofun) rfl rfl, fun u => ⟨bindTaster_binds, bindTaster_refuses⟩,
    fun hc => fars (priv .engctl nofun) (fun hx => hc hx.2) rfl (writeEngctl hc),
    fun k hk => fars (priv .accrcl nofun) (fun hx => by rw [hk] at hx; cases hx.2) rfl (writeAccrcl hk), fun e he => ?_,
    fun hv => part rfl rfl (writeSteepctl_reads hv), fun hv => ⟨part rfl rfl (writeRelctl_reads hv), part rfl rfl (writeSnaprst_reads hv)⟩,
    fun hv hs hr => part rfl rfl (writeRelctl_resets hv hs hr), part rfl rfl ⟨rfl, writeSnapctl_reads⟩,
    part rfl rfl ⟨⟨rfl, writePerfctl_reads⟩, fun c => ⟨fun j => ?_, ?_⟩⟩, part rfl rfl ⟨rfl, writeLnkbase_reads⟩,
    part rfl rfl ⟨rfl, writeFatalovf_trap⟩, part rfl rfl ⟨⟨rfl, writeTqbase_reads⟩, writeTqbase_trap⟩, part rfl rfl ⟨rfl, writeTqhead_reads⟩,
    part rfl rfl rfl, part rfl rfl rfl⟩
  · have hx := writeCoreReg_masked (s := s) (p := p) (c := r.core) (v := v) (e := e) he
    refine cores ?_ ?_ ?_ hx
    · fin_cases he <;> exact priv _ nofun
    · fin_cases he <;> rfl
    · fin_cases he <;> rfl
  · have hx := writeCoreReg_partMasked (s := s) (p := p) (c := r.core) (v := v) (i4 := i4) (i16 := i16) (e := e) he
    refine part ?_ ?_ hx
    · fin_cases he <;> rfl
    · fin_cases he <;> rfl
  · refine (congrArg (fun w => w.pcnt[j]) (writePerfctl_core (s := s) (p := p) (c := c) (v := v))).trans ?_
    exact Vector.getElem_replicate _
  · exact (congrArg CoreWorld.psel (writePerfctl_core (s := s) (p := p) (c := c) (v := v))).trans (presetCore_psel _ _)
end

section
/-! SUPPORT. The words of collectives and snapshots (25 R374, R375, 26 R383, R384). -/
namespace Sys2Proof.Machine

/-! ## COLL -/

section
variable {d : Reg} {lat : Nat} {c : Option Coll} {r : TRef} {t : Thread} {u : State}

theorem enqueueColl_waits (hf : fenceMet (u.keeping r (.coll c)) r t .sys = false) :
    enqueueColl d lat c r t u = .wait (.fence .sys) (u.keeping r (.coll c)) := by
  rw [enqueueColl]
  exact fenced_waits hf _

variable (hf : fenceMet (u.keeping r (.coll c)) r t .sys = true)
include hf

theorem enqueueColl_full (hq : 64 ≤ (u.part r.part).colls.length) : enqueueColl d lat c r t u = .wait .queue (u.keeping r (.coll c)) := by
  rw [enqueueColl]
  exact (fenced_met hf _).trans (if_pos hq)

variable (hq : (u.part r.part).colls.length < 64)
include hq

/-- What COLL commits: the collective's id. -/
def collDone (d : Reg) (lat n : Nat) : Commit := { writes d (collId n) with log := [.val d (collId n)], lat := lat }

theorem enqueueColl_error (hc : c = none) : enqueueColl d lat c r t u =
    .done (collDone d lat (u.part r.part).collNext)
      (keepStatus (nextColl (u.keeping r (.coll c)) r.part) r.part (u.part r.part).collNext 2) := by
  subst hc
  rw [enqueueColl]
  exact (fenced_met hf _).trans (if_neg (Nat.not_le.mpr hq))

theorem enqueueColl_starts {y : Coll} (hc : c = some y) (hp : (u.keeping r (.coll c)).watched r.part r.core = false ∨
      y.members.any (fun m => fromPeer (u.keeping r (.coll c)) m.1 m.2 r.part) = false) :
    enqueueColl d lat c r t u = .done (collDone d lat (u.part r.part).collNext) (startColl (u.keeping r (.coll c)) r.part y) := by
  subst hc
  have hm : (u.keeping r (.coll (some y))).modid = u.modid := State.modThread_modid ..
  have hpoint : (if y.members.any (fun m => fromPeer u m.1 m.2 r.part) then passPoint (u.keeping r (.coll (some y))) r t 3
      else .ok (u.keeping r (.coll (some y)))) = .ok (u.keeping r (.coll (some y))) := by
    rcases hp with hp | hp
    · rw [passPoint_unwatched hp, ite_self]
    · refine if_neg (Bool.eq_false_iff.mp ?_)
      rw [← hp]
      simp only [fromPeer, hm]
  rw [enqueueColl]
  refine (fenced_met hf _).trans ((if_neg (Nat.not_le.mpr hq)).trans ?_)
  dsimp only
  rw [← State.keeping, hpoint]
  rfl

end

section
variable {s s1 s2 : State} {r : TRef} {t : Thread} {a : Src} {d : Reg} {ps : List (Word × Place)} {ws : List Word} {lat : Nat}

/-- What COLL does. -/
def collAt (d : Reg) (a : Src) (r : TRef) (t : Thread) (s : State) : Res :=
  match t.prepared with
  | some (.coll c) => enqueueColl d 0 c r t s
  | _ =>
    if 64 ≤ (s.part r.part).colls.length then .wait .queue s
    else
      match checkColl s r t (t.rd a) with
      | .error e => e
      | .ok (c, lat, s) => enqueueColl d lat c r t s

theorem collAt_kept {c : Option Coll} (hp : t.prepared = some (.coll c)) : collAt d a r t s = enqueueColl d 0 c r t s := by
  rw [collAt, hp]

section
variable (hp : t.prepared = none)
include hp

theorem collAt_full (hq : 64 ≤ (s.part r.part).colls.length) : collAt d a r t s = .wait .queue s := by
  rw [collAt, hp]
  exact if_pos hq

variable (hq : (s.part r.part).colls.length < 64)
include hq

theorem collAt_stops {e : Res} (hc : checkColl s r t (t.rd a) = .error e) : collAt d a r t s = e := by
  rw [collAt, hp]
  refine (if_neg (Nat.not_le.mpr hq)).trans ?_
  rw [hc]

theorem collAt_goes {c : Option Coll} (hc : checkColl s r t (t.rd a) = .ok (c, lat, s1)) : collAt d a r t s = enqueueColl d lat c r t s1 := by
  rw [collAt, hp]
  refine (if_neg (Nat.not_le.mpr hq)).trans ?_
  rw [hc]

end

/-- The group that COLL reads, with the state in which it has been read. -/
def collGroup (r : TRef) (t : Thread) (ws : List Word) (s : State) : Option (List (BitVec 16 × PartId)) × State :=
  if descriptorOk ws then readGroup r t (field (ws.getD 0 0) 28 12) (ws.getD 5 0) s else (none, s)

variable {x : Word} (hc : checkRecord s r t x [7, 6, 5, 4, 3, 2, 1, 0] = .ok (ps, s1)) (hr : readRecord r t ps s1 = .ok (ws, lat, s2))
  {g : Option (List (BitVec 16 × PartId))} {s3 : State} (hg : collGroup r t ws s2 = (g, s3))
include hc hr hg

theorem checkColl_stops {e : Res} (hk : checkRanges s3 r t (collRanges (collOf s3 r t ws (g.getD []))).1 (collRanges (collOf s3 r t ws (g.getD []))).2
    0 1 false = .error e) : checkColl s r t x = .error e := by
  rw [checkColl, hc]
  dsimp only
  rw [hr]
  dsimp only
  rw [← collGroup, hg]
  dsimp only
  rw [hk]

theorem checkColl_passes {src dst : List Leaf} {s4 : State}
    (hk : checkRanges s3 r t (collRanges (collOf s3 r t ws (g.getD []))).1 (collRanges (collOf s3 r t ws (g.getD []))).2 0 1 false = .ok (src, dst, s4)) :
    checkColl s r t x = .ok (if g ≠ none ∧ (collOf s3 r t ws (g.getD [])).members[(collOf s3 r t ws (g.getD [])).rank]? = some (s4.modid, r.part)
      then some { collOf s3 r t ws (g.getD []) with pages := src ++ dst } else none, lat, s4) := by
  rw [checkColl, hc]
  dsimp only
  rw [hr]
  dsimp only
  rw [← collGroup, hg]
  dsimp only
  rw [hk]
  dsimp only
  by_cases h : g ≠ none ∧ (collOf s3 r t ws (g.getD [])).members[(collOf s3 r t ws (g.getD [])).rank]? = some (s4.modid, r.part)
  · rw [if_pos h, if_neg]
    obtain ⟨h1, h2⟩ := h
    rw [h2]
    simpa using h1
  · rw [if_neg h, if_pos]
    by_contra hn
    refine h ⟨fun h1 => hn (by rw [h1]; rfl), ?_⟩
    by_contra h2
    exact hn (by simp [h2])

end

theorem collRanges_eq (c : Coll) : collRanges c =
    (if c.op ≤ 4 ∧ c.ty ≤ 4 then [(c.src, c.srcBytes)] else [], if c.op ≤ 4 ∧ c.ty ≤ 4 then [(c.dst, c.dstBytes), (c.stage, c.dstBytes)] else []) := by
  rw [collRanges]
  by_cases h : c.op ≤ 4 ∧ c.ty ≤ 4
  · rw [if_neg (by omega), if_pos h, if_pos h]
  · rw [if_pos (by omega), if_neg h, if_neg h]

/-! ## COLLW, SNAPQ and SNAP -/

section
variable {s : State} {t : Thread} {a : Src} {d : Reg}

section
variable (h : Ready s t [a])
include h

theorem collw_unknown (hx : (t.rd a).toNat / 2 ^ 22 ≠ 0x3FF) : Faults s s (exec (.collw d a) s) .jobId none := by
  have e : exec (.collw d a) s = execCollw d a s := rfl
  rw [e, execCollw]
  exact runWord_faults h (if_pos (by rwa [field_top _ (by decide)]))

variable (hx : (t.rd a).toNat / 2 ^ 22 = 0x3FF)
include hx

theorem collw_waits (hp : (s.part s.cur.at_.part).colls.any (fun c => c.seq.toNat == (t.rd a).toNat % 2 ^ 22) = true) :
    Waits s s (exec (.collw d a) s) (.coll ((t.rd a).toNat % 2 ^ 22)) := by
  have e : exec (.collw d a) s = execCollw d a s := rfl
  rw [e, execCollw]
  refine runWord_waits h ((if_neg (not_not.mpr ((field_top _ (by decide)).trans hx))).trans ?_)
  rw [field_low]
  exact if_pos hp

theorem collw_answers (hp : (s.part s.cur.at_.part).colls.any (fun c => c.seq.toNat == (t.rd a).toNat % 2 ^ 22) = false) :
    Completes s t [a] (exec (.collw d a) s)
      (writes d ((((s.part s.cur.at_.part).collDone.find? (fun e => e.1 == (t.rd a).toNat % 2 ^ 22)).map (fun e => e.2)).getD 7)) := by
  have e : exec (.collw d a) s = execCollw d a s := rfl
  rw [e, execCollw]
  refine (runWord_completes (c := Commit.reg d _) h ((if_neg (not_not.mpr ((field_top _ (by decide)).trans hx))).trans ?_) rfl rfl).log []
  rw [field_low]
  exact if_neg (Bool.eq_false_iff.mp hp)

end

theorem snapq_answers (h : Ready s t [a]) : Completes s t [a] (exec (.snapq d a) s)
    { writes d (snapqWord s s.cur.at_.part ((t.rd a).toNat % 2 ^ 16)) with lat := 30 } := by
  have e : exec (.snapq d a) s = execSnapq d a s := rfl
  rw [e, execSnapq, ← field_low]
  exact (runWord_completes (c := { Commit.reg d _ with lat := 30 }) h rfl rfl rfl).log []

section
variable (h : Ready s t [])
include h

theorem snap_refused (hc : coordinates (s.part s.cur.at_.part) = false) : Faults s s (exec (.snap d) s) .privilege none := by
  have e : exec (.snap d) s = execSnap d s := rfl
  rw [e, execSnap]
  exact runWord_faults h (if_pos (by rw [hc]; rfl))

variable (hc : coordinates (s.part s.cur.at_.part) = true)
include hc

theorem snap_waits (hf : fenceMet s s.cur.at_ t .part = false) : Waits s s (exec (.snap d) s) (.fence .part) := by
  have e : exec (.snap d) s = execSnap d s := rfl
  rw [e, execSnap]
  exact runWord_waits h ((if_neg (by rw [hc]; nofun)).trans (fenced_waits hf _))

variable (hf : fenceMet s s.cur.at_ t .part = true)
include hf

/-- No snapshot may begin while one is under way, or SNAPCTL.EN is 0. -/
def snapBusy (q : Partition) : Prop :=
  q.r.snapctl.getLsbD 63 = false ∨ snapqState q q.r.snapn.toNat = 1 ∨ snapqState q q.r.snapn.toNat = 2

theorem snap_busy (hb : snapBusy (s.part s.cur.at_.part)) : Completes s t [] (exec (.snap d) s) (writes d 0) := by
  have e : exec (.snap d) s = execSnap d s := rfl
  rw [e, execSnap]
  refine (runWord_completes (c := Commit.reg d 0) h ((if_neg (by rw [hc]; nofun)).trans ((fenced_met hf _).trans (if_pos ?_))) rfl rfl).log []
  rcases hb with hb | hb | hb <;> simp [bit, hb, -BitVec.getLsbD_eq_getElem]

theorem snap_begins (hb : ¬ snapBusy (s.part s.cur.at_.part)) :
    let p := s.cur.at_.part
    let n := nextSnap (s.part p).r.snapn.toNat
    let s1 := modSnap s p (fun x => { x with issuers := nput x.issuers t.tid })
    Commits s (s1.after 1 (.marker p (ownMarker s1 p n t.corr))) [] (exec (.snap d) s) { writes d (word n) with log := [.val d (word n)] } := by
  have e : exec (.snap d) s = execSnap d s := rfl
  rw [e, execSnap]
  refine runWord_commits h ((if_neg (by rw [hc]; nofun)).trans ((fenced_met hf _).trans (if_neg ?_)))
  simpa [bit, snapBusy, not_or, and_assoc] using hb

end

end

end Sys2Proof.Machine

open Sys2Proof Sys2Proof.Machine

/-- Settles O49: COLL's checks and its enqueue, and the three words that read or begin. -/
theorem collectiveSnapshotResults : Obligations.CollectiveSnapshotResults := by
  intro s s1 s2 s3 t d a ps ws lat kept src dst e r p x joins
  have coll : exec (.coll d a) s = runWord [a] (collAt d a) s := rfl
  have goes {c u lat} (h : Ready s t [a]) (hgo : collAt d a r t s = enqueueColl d lat c r t u) : joins c u lat := by
    refine ⟨fun hf => ?_, fun hf hq => ?_, fun hf hq hc => ?_, fun y hf hq hc hp => ?_⟩
    · rw [coll]; exact runWord_waits h (hgo.trans (enqueueColl_waits hf))
    · rw [coll]; exact runWord_waits h (hgo.trans (enqueueColl_full hf hq))
    · rw [coll]; exact runWord_commits h (hgo.trans (enqueueColl_error hf hq hc))
    · rw [coll]; exact runWord_commits h (hgo.trans (enqueueColl_starts hf hq hc hp))
  refine ⟨fun h => ⟨fun hp => goes h (collAt_kept hp), fun hp hq => ?_, fun hp hq hck hrd => ?_, collw_unknown h, collw_waits h, collw_answers h,
    snapq_answers h⟩, fun h => ⟨snap_refused h, snap_waits h, snap_busy h, snap_begins h⟩⟩
  · rw [coll]; exact runWord_waits h (collAt_full hp hq)
  · intro read group c sized checked
    have hck' : checkRanges read.2 r t (collRanges c).1 (collRanges c).2 0 1 false = checked := by
      rw [collRanges_eq]
    refine ⟨fun he => ?_, fun he => goes h ?_⟩
    · rw [coll, runWord_ready h, collAt_stops hp hq (checkColl_stops hck hrd rfl (hck'.trans he))]
    · have hgo := collAt_goes (d := d) hp hq (checkColl_passes hck hrd rfl (hck'.trans he))
      exact hgo
end

section
/-! SUPPORT. The dispatcher, and the runs of the server and system slots (08 R123 to R138, 09 R158, R166, 20 R320). -/
namespace Sys2Proof.Machine

/-! ## Launch records -/

section
variable {s s1 : State} {p : PartId} {n : BitVec 13} (hn : (s.part p).sealing.contains n = true)
include hn

theorem launchRecord_waits (ha : atHome s p (slotKey (s.part p) p n) (.step (.launchRecord p n)) = .error s1) :
    execLaunchRecord p n s = .next (s1.holdBack (.launchRecord p n)) := by
  rw [execLaunchRecord, if_neg (by rw [hn]; decide)]
  simp only [ha]

variable (ha : atHome s p (slotKey (s.part p) p n) (.step (.launchRecord p n)) = .ok s1)
include ha

theorem launchRecord_rejects (hc : rejectCode s p (readPosted s p n) ≠ 0) :
    execLaunchRecord p n s = .next (rejectLaunch
      (if rejectCode s p (readPosted s p n) = 8 then listTable s1 p ((readPosted s p n).word 0x20) else s1) p n
      (rejectCode s p (readPosted s p n))) := by
  rw [execLaunchRecord, if_neg (by rw [hn]; decide)]
  simp only [ha]
  rw [if_pos hc]

theorem launchRecord_delays (hc : rejectCode s p (readPosted s p n) = 0) (hd : acceptDelay s p ≠ 0) :
    execLaunchRecord p n s = .next (s.after (acceptDelay s p) (.launchRecord p n)) := by
  rw [execLaunchRecord, if_neg (by rw [hn]; decide)]
  simp only [ha]
  rw [if_neg (fun h => h hc), if_pos hd]

theorem launchRecord_accepts (hc : rejectCode s p (readPosted s p n) = 0) (hd : acceptDelay s p = 0) :
    execLaunchRecord p n s = .next (acceptLaunch s1 p n (readPosted s p n)) := by
  rw [execLaunchRecord, if_neg (by rw [hn]; decide)]
  simp only [ha]
  rw [if_neg (fun h => h hc), if_neg (fun h => h hd), if_neg (fun h => absurd (hc.symm.trans h) (by decide))]

end

/-! ## Expansion -/

/-- The packet that a record with its descriptor set sends on, and the record after it. -/
def expandHeld (p : PartId) (d : Nat) (ids : List Nat) (l : Launch) (e : Nat) (s : State) : Out :=
  match (namedClusters (s.part p) l.clmask)[l.next % (namedClusters (s.part p) l.clmask).length]? with
  | none => .next s
  | some k =>
    if 64 ≤ (queueOf s p k l.prio).length then .next s
    else
      let v := modLaunch (setQueue s p k l.prio (queueOf s p k l.prio ++ [packetOf l e k s.tstamp])) p d (fun x => { x with next := x.next + 1 })
      let v := if l.next + 1 = l.count then v.modPart p (fun q => { q with expansion := ids }) else v
      .next ((v.push (.packetExpansion p)).push (.packetDispatch p k))

section
variable {s : State} {p : PartId} {d : Nat} {ids : List Nat} {l : Launch} (hx : (s.part p).expansion = d :: ids)
  (hl : (s.part p).launches.find? (fun x => x.id == d) = some l)
include hx hl

theorem packetExpansion_held {e : Nat} {v : State} (hd : withDset s p l = some (e, v)) :
    execPacketExpansion p s = expandHeld p d ids l e v := by
  rw [execPacketExpansion, hx]
  dsimp only
  rw [hl]
  dsimp only
  rw [hd]
  rfl

theorem packetExpansion_none (hd : withDset s p l = none) : execPacketExpansion p s = .next s := by
  rw [execPacketExpansion, hx]
  dsimp only
  rw [hl]
  dsimp only
  rw [hd]

end

theorem chooseDset_zeros {q : Partition} {l : Launch} (h : l.shadows = Vector.replicate 5 0) : chooseDset q l = some 0 := by
  rw [chooseDset, h]
  rfl

theorem zeros_of_all {l : Launch} (h : l.shadows.toList.all (fun v => v == 0) = true) : l.shadows = Vector.replicate 5 0 := by
  rw [List.all_eq_true] at h
  ext1 i hi
  rw [Vector.getElem_replicate]
  exact eq_of_beq (h _ (Vector.mem_toList_iff.mpr (Vector.getElem_mem hi)))

theorem chooseDset_free {q : Partition} {l : Launch} (h : l.shadows ≠ Vector.replicate 5 0) :
    chooseDset q l = ((List.range 256).filter (fun i => i != 0 && (kget q.dsets i).isNone)).head? := by
  rw [chooseDset, if_neg (fun e => h (zeros_of_all e)), List.head?_filter, List.find?_filter]
  refine congrArg (fun f => List.find? f _) (funext fun i => ?_)
  rw [Bool.decide_and, Bool.decide_eq_true, Bool.decide_eq_true]

/-- A descriptor set in the head of the order's record. -/
def dsetGiven (s : State) (p : PartId) (d e : Nat) : State := modLaunch s p d (fun y => { y with dset := some e })

theorem launch_dsetGiven {s : State} {p : PartId} {d : Nat} {l : Launch} (e : Nat)
    (hl : (s.part p).launches.find? (fun x => x.id == d) = some l) :
    ((dsetGiven s p d e).part p).launches.find? (fun x => x.id == d) = some { l with dset := some e } := by
  have hid : l.id = d := eq_of_beq (List.find?_some (p := fun x : Launch => x.id == d) hl)
  rw [dsetGiven, modLaunch, State.part_modPart]
  dsimp only
  rw [List.find?_map]
  have hf : ((fun x : Launch => x.id == d) ∘ fun x : Launch => if x.id = d then { x with dset := some e } else x) = fun x => x.id == d := by
    funext x
    dsimp only [Function.comp]
    by_cases h : x.id = d
    · rw [if_pos h]
    · rw [if_neg h]
  rw [hf, hl, Option.map_some, if_pos hid]

theorem State.modPart_id_modPart (s : State) (p : PartId) (f : Partition → Partition) : (s.modPart p f).modPart p (fun q => q) = s.modPart p f := by
  show State.setPart _ p _ = _
  rw [State.part_modPart]
  show ({ s with parts := (s.parts.set p (f (s.part p))).set p (f (s.part p)) } : State) = { s with parts := s.parts.set p (f (s.part p)) }
  rw [Vector.set_set]

theorem withDset_zero {s : State} {p : PartId} {d : Nat} {l : Launch} (hid : l.id = d) (hd : l.dset = none)
    (hc : chooseDset (s.part p) l = some 0) : withDset s p l = some (0, dsetGiven s p d 0) := by
  rw [withDset, hd]
  dsimp only
  rw [hc, hid, Option.map_some]
  exact congrArg (fun v => some (0, v)) (State.modPart_id_modPart s p _)

theorem withDset_free {s : State} {p : PartId} {d e : Nat} {l : Launch} (hid : l.id = d) (hd : l.dset = none)
    (hc : chooseDset (s.part p) l = some e) (he : e ≠ 0) :
    withDset s p l = some (e, (dsetGiven s p d e).modPart p (fun y => { y with dsets := kput y.dsets e l.shadows })) := by
  rw [withDset, hd]
  dsimp only
  rw [hc, hid, Option.map_some]
  simp only [if_neg he]
  rfl

section
variable {s : State} {p : PartId} {d : Nat} {ids : List Nat} {l : Launch} (hx : (s.part p).expansion = d :: ids)
  (hl : (s.part p).launches.find? (fun x => x.id == d) = some l) (hd : l.dset = none)
include hx hl hd

theorem packetExpansion_zeros (hz : l.shadows = Vector.replicate 5 0) :
    execPacketExpansion p s = execPacketExpansion p (dsetGiven s p d 0) := by
  have hid : l.id = d := eq_of_beq (List.find?_some (p := fun x : Launch => x.id == d) hl)
  rw [packetExpansion_held hx hl (withDset_zero hid hd (chooseDset_zeros hz)),
    packetExpansion_held (l := { l with dset := some 0 }) (ids := ids) (d := d) (e := 0) (v := dsetGiven s p d 0)
      (by rw [dsetGiven, modLaunch, State.part_modPart]; exact hx) (launch_dsetGiven 0 hl) rfl]
  rfl

theorem packetExpansion_free {e : Nat} (hz : l.shadows ≠ Vector.replicate 5 0)
    (he : ((List.range 256).filter (fun i => i != 0 && (kget (s.part p).dsets i).isNone)).head? = some e) :
    execPacketExpansion p s =
      execPacketExpansion p ((dsetGiven s p d e).modPart p (fun y => { y with dsets := kput y.dsets e l.shadows })) := by
  have hid : l.id = d := eq_of_beq (List.find?_some (p := fun x : Launch => x.id == d) hl)
  have he0 : e ≠ 0 := by
    have hm := (List.mem_filter.mp (List.mem_of_mem_head? he)).2
    rw [Bool.and_eq_true] at hm
    exact bne_iff_ne.mp hm.1
  rw [packetExpansion_held hx hl (withDset_free hid hd ((chooseDset_free hz).trans he) he0),
    packetExpansion_held (l := { l with dset := some e }) (ids := ids) (d := d) (e := e)
      (v := (dsetGiven s p d e).modPart p (fun y => { y with dsets := kput y.dsets e l.shadows }))
      (by rw [dsetGiven, modLaunch, State.part_modPart, State.part_modPart]; exact hx)
      (by rw [State.part_modPart]; exact launch_dsetGiven e hl) rfl]
  rfl

end

/-! ## Dispatch and aging -/

theorem packetDispatch_starts {s : State} {p : PartId} {k : ClusterId} {q : Fin 4} {x : Packet} {rest : List Packet} {c : CoreId} {sl : SlotId}
    (hs : (s.part p).serves = true) (hg : (s.part p).gang = .idle) (ho : (s.cluster p k).outOfService = false)
    (hq : firstQueue s p k = some (q, x, rest)) (hc : roomiestCore s p k = some c) (hf : freeGeneral (s.core p c).w = some sl) :
    execPacketDispatch p k s = .next (((placeThread (allocTid (setQueue s p k q rest) p).2 ⟨p, c, sl⟩
      (packetThread (allocTid (setQueue s p k q rest) p).2 p c sl x (allocTid (setQueue s p k q rest) p).1) (s.cycle + 8)).push
      (.packetDispatch p k)).push (.packetExpansion p)) := by
  rw [execPacketDispatch, hs, hg, ho, hq, hc]
  dsimp only
  rw [hf]
  rfl

theorem agingDue_iff {s : State} {p : PartId} {k : ClusterId} {q : Fin 4} {x : Packet} {rest : List Packet} (hq : q ≠ 0)
    (hd : (s.part p).r.dspctl.getLsbD 1 = true) (hx : queueOf s p k q = x :: rest) (hr : (queueOf s p k (q - 1)).length < 64) :
    agingDue s p k q = decide (x.enq + Nat.max 1 ((s.part p).r.agei.toNat % 2 ^ 32) ≤ s.tstamp) := by
  have hb : bit (s.part p).r.dspctl 1 = true := hd
  have hq' : (q != 0) = true := bne_iff_ne.mpr hq
  have hf : field (s.part p).r.agei 0 32 = (s.part p).r.agei.toNat % 2 ^ 32 := by simp [field]
  rw [agingDue, hb, hq', hx, hf, decide_eq_true hr]
  simp

section
variable {s : State} {p : PartId} {k : ClusterId} {q : Fin 4} {x : Packet} {rest : List Packet} (hx : queueOf s p k q = x :: rest)
include hx

theorem ageQueue_stays (n : Nat) (h : agingDue s p k q = false) : ageQueue p k q (n + 1) s = s := by
  rw [ageQueue, hx]
  exact if_neg (Bool.eq_false_iff.mp h)

theorem ageQueue_moves (n : Nat) (h : agingDue s p k q = true) :
    ageQueue p k q (n + 1) s = ageQueue p k q n (setQueue (setQueue s p k q rest) p k (q - 1)
      (queueOf (setQueue s p k q rest) p k (q - 1) ++ [{ x with prio := q - 1, enq := s.tstamp }])) := by
  rw [ageQueue, hx]
  exact if_pos h

end

/-! ## Completion -/

section
variable {s s1 : State} {p : PartId} {d : Nat} {l : Launch}
  (hl : (s.part p).launches.find? (fun x => x.id == d && x.ended == x.count) = some l)
include hl

/-- The record of a launch gone. -/
def launchGone (v : State) (p : PartId) (d : Nat) : State :=
  v.modPart p (fun q => { q with launches := q.launches.filter (fun x => x.id != d) })

theorem doneWrite_unnamed (h : l.done = 0) : execDoneWrite p d s = .next (launchGone s p d) := by
  rw [execDoneWrite, hl]
  exact if_pos h

variable (h : l.done ≠ 0)
include h

theorem doneWrite_lost (hk : ctxKey s p l.ctx needW l.done = none) :
    execDoneWrite p d s = .next (postRecord (launchGone (listTable s p l.done) p d) p { TrapRec.none with
      code := 0x049, cls := 2, ctx := l.ctx, corr := l.corr, addr := l.done, d0 := doneValue l, d1 := word l.slot.toNat }) := by
  rw [execDoneWrite, hl]
  refine (if_neg h).trans ?_
  rw [hk]
  rfl

variable {key : Nat} (hk : ctxKey s p l.ctx needW l.done = some key)
include hk

theorem doneWrite_writes (ha : atHome s p key (.step (.doneWrite p d)) = .ok s1) :
    execDoneWrite p d s = .next (fillWord (windowWritten
      ((launchGone (noteWrite ((s1.sramAt p key).setStamp p (lineOf l.done) none) p l.done) p d).writeMem key 8 (doneValue l)) key 8) p key) := by
  obtain ⟨F, hF⟩ : ∃ F, F = atHome := ⟨_, rfl⟩
  rw [← hF] at ha
  rw [execDoneWrite, ← hF, hl]
  refine (if_neg h).trans ?_
  rw [hk]
  dsimp only
  rw [ha]
  rfl

theorem doneWrite_waits (ha : atHome s p key (.step (.doneWrite p d)) = .error s1) :
    execDoneWrite p d s = .next (s1.holdBack (.doneWrite p d)) := by
  obtain ⟨F, hF⟩ : ∃ F, F = atHome := ⟨_, rfl⟩
  rw [← hF] at ha
  rw [execDoneWrite, ← hF, hl]
  refine (if_neg h).trans ?_
  rw [hk]
  dsimp only
  rw [ha]

end

/-! ## The server and system slots -/

section
variable {s : State} {p : PartId} {c : CoreId} {m : ActiveMsg} (hm : fromPeer s m.srcMod m.src.part p = false)
include hm

theorem activeMessage_waits (h : messageWaits s p c (.activeMessageArrival p c m) = true) :
    execActiveMessageArrival p c m s = .next (s.holdBack (.activeMessageArrival p c m)) := by
  rw [execActiveMessageArrival, hm, h]
  rfl

theorem activeMessage_lands (h : messageWaits s p c (.activeMessageArrival p c m) = false) :
    execActiveMessageArrival p c m s = .next (messageLands s p c m) := by
  rw [execActiveMessageArrival, hm, h]
  rfl

end

/-- The thread that a request becomes. -/
def serverThread (v : State) (p : PartId) (c : CoreId) (m : ActiveMsg) (tid : Nat) : Thread :=
  { Thread.start 1 m.pc (Regs.fresh m.y m.g1 m.g2 m.g3) tid m.ctx m.corr false (v.watched p c) (v.cycle + 1) with
    shownTid := m.srcTid, serves := some m }

/-- A core whose head request has left its server queue. -/
def serverTaken (s : State) (p : PartId) (c : CoreId) (ms : List ActiveMsg) : State :=
  (if msgOff (s.core p c).w = true then askUpdate s p c else s).modCoreW p c (fun w => { w with serverQ := ms })

theorem serverRunStart_starts {s : State} {p : PartId} {c : CoreId} {m : ActiveMsg} {ms : List ActiveMsg}
    (hq : (s.core p c).w.serverQ = m :: ms) (hs : kget (s.core p c).w.slots 1 = none) (hg : (s.part p).gang = .idle) :
    execServerRunStart p c s = .next (placeThread (allocTid (serverTaken s p c ms) p).2 ⟨p, c, 1⟩
      (serverThread (allocTid (serverTaken s p c ms) p).2 p c m (allocTid (serverTaken s p c ms) p).1)
      ((allocTid (serverTaken s p c ms) p).2.cycle + 1)) := by
  rw [execServerRunStart]
  dsimp only
  rw [hq, hs, hg]
  rfl

/-- The system slot's thread. -/
def syshThread (v : State) (p : PartId) (c : CoreId) (sysh addr : Word) (tid : Nat) : Thread :=
  { Thread.start 0 (sysh &&& ~~~(3 : Word)) (Regs.fresh addr 0 0 0) tid 0 0 false (v.watched p c) (v.cycle + 1) with sysh := true }

theorem syshRun_starts {s : State} {p : PartId} {c : CoreId} {addr : Word} {rest : List Word}
    (hq : (s.core p c).c.syshQ = addr :: rest) (hs : kget (s.core p c).w.slots 0 = none) (hg : (s.part p).gang = .idle)
    (hh : (s.core p c).c.sysh ≠ 0) :
    execSyshRun p c s = .next (placeThread (allocTid (s.modCoreC p c (fun k => { k with syshQ := rest })) p).2 ⟨p, c, 0⟩
      (syshThread (s.modCoreC p c (fun k => { k with syshQ := rest })) p c (s.core p c).c.sysh addr
        (allocTid (s.modCoreC p c (fun k => { k with syshQ := rest })) p).1)
      ((s.modCoreC p c (fun k => { k with syshQ := rest })).cycle + 1)) := by
  rw [execSyshRun]
  dsimp only
  rw [hq, hs, hg]
  exact (if_neg hh).trans rfl

/-! ## Remote updates -/

section
variable {s : State} {p : PartId} {c : CoreId}

theorem remoteUpdate_extra (h : (redsBound s p c).length ≤ updatesDue s p c) : execRemoteUpdate p c s = .next (runUpdate s p c) := by
  rw [execRemoteUpdate, if_pos h]

variable (h : updatesDue s p c < (redsBound s p c).length)
include h

theorem remoteUpdate_waits (hw : messageWaits s p c (.remoteUpdate p c) = true) :
    execRemoteUpdate p c s = .next (runUpdate (s.holdBack (.remoteUpdate p c)) p c) := by
  rw [execRemoteUpdate, if_neg (Nat.not_le.mpr h), if_pos hw]

theorem remoteUpdate_takes (hw : messageWaits s p c (.remoteUpdate p c) = false) :
    execRemoteUpdate p c s = .next (runUpdate (takeRed s p c) p c) := by
  rw [execRemoteUpdate, if_neg (Nat.not_le.mpr h), if_neg (Bool.eq_false_iff.mp hw)]

end

theorem takeRed_head {s : State} {p : PartId} {c c1 : CoreId} {u : RedReq} (h : (redsBound s p c).head? = some (c1, u)) :
    takeRed s p c =
      (s.modCoreW p c1 (fun w => { w with outQ := w.outQ.erase u })).modCoreW p c (fun w => { w with updateQ := w.updateQ ++ [u] }) := by
  obtain ⟨l, hl⟩ := List.head?_eq_some_iff.mp h
  rw [takeRed, hl]

theorem mem_redsBound {s : State} {p : PartId} {c c1 : CoreId} {u : RedReq} :
    (c1, u) ∈ redsBound s p c ↔ c1 ∈ (s.part p).coreIds ∧ u ∈ (s.core p c1).w.outQ ∧ bankCore (homeSlice u.line) = c := by
  simp only [redsBound, List.mem_mergeSort, List.mem_flatMap, List.mem_map, List.mem_filter, beq_iff_eq, Prod.mk.injEq]
  constructor
  · rintro ⟨x, hx, q, ⟨hq, hb⟩, rfl, rfl⟩
    exact ⟨hx, hq, hb⟩
  · rintro ⟨hx, hq, hb⟩
    exact ⟨c1, hx, u, ⟨hq, hb⟩, rfl, rfl⟩

theorem redsBound_sorted (s : State) (p : PartId) (c : CoreId) : (redsBound s p c).Pairwise (fun a b => a.2.sent ≤ b.2.sent) := by
  refine (List.pairwise_mergeSort (le := fun a b : CoreId × RedReq => decide (a.2.sent ≤ b.2.sent)) ?_ ?_ _).imp ?_
  · intro a b d hab hbd
    exact decide_eq_true (Nat.le_trans (of_decide_eq_true hab) (of_decide_eq_true hbd))
  · intro a b
    rw [Bool.or_eq_true, decide_eq_true_iff, decide_eq_true_iff]
    exact Nat.le_total _ _
  · intro a b hab
    exact of_decide_eq_true hab

theorem redsBound_head {s : State} {p : PartId} {c c1 : CoreId} {u : RedReq} (h : (redsBound s p c).head? = some (c1, u)) :
    u ∈ (s.core p c1).w.outQ ∧ bankCore (homeSlice u.line) = c ∧
      ∀ c2 ∈ (s.part p).coreIds, ∀ u2 ∈ (s.core p c2).w.outQ, bankCore (homeSlice u2.line) = c → u.sent ≤ u2.sent := by
  obtain ⟨l, hl⟩ := List.head?_eq_some_iff.mp h
  obtain ⟨-, hu, hb⟩ := mem_redsBound.mp (List.mem_of_mem_head? h)
  refine ⟨hu, hb, fun c2 h2 u2 hu2 hb2 => ?_⟩
  have hs := redsBound_sorted s p c
  have hm := mem_redsBound.mpr ⟨h2, hu2, hb2⟩
  rw [hl] at hs hm
  rcases List.mem_cons.mp hm with he | he
  · rw [(Prod.mk.inj he).2]
  · exact (List.pairwise_cons.mp hs).1 _ he

section
variable {v s1 : State} {p : PartId} {c : CoreId} {u : RedReq} {us : List RedReq} {sl : SlotId}

theorem runUpdate_empty (h : (v.core p c).w.updateQ = []) : runUpdate v p c = v := by
  rw [runUpdate, h]

theorem runUpdate_noSlot (h : freeGeneral (v.core p c).w = none) : runUpdate v p c = v := by
  rw [runUpdate, h]
  cases (v.core p c).w.updateQ <;> rfl

variable (hq : (v.core p c).w.updateQ = u :: us) (hf : freeGeneral (v.core p c).w = some sl)
include hq hf

theorem runUpdate_held (h : heldPage v p u.key (.step (.remoteUpdate p c)) = some s1) : runUpdate v p c = s1 := by
  obtain ⟨F, hF⟩ : ∃ F, F = heldPage := ⟨_, rfl⟩
  rw [← hF] at h
  rw [runUpdate, ← hF, hq, hf]
  dsimp only
  rw [h]

theorem runUpdate_performs (h : heldPage v p u.key (.step (.remoteUpdate p c)) = none) :
    runUpdate v p c =
      if us = [] then
        performUpdate ((heldPassed v p u.key (.step (.remoteUpdate p c))).modCoreW p c (fun w => { w with updateQ := us })) p c sl u
      else askUpdate
        (performUpdate ((heldPassed v p u.key (.step (.remoteUpdate p c))).modCoreW p c (fun w => { w with updateQ := us })) p c sl u) p c := by
  obtain ⟨F, hF⟩ : ∃ F, F = heldPage := ⟨_, rfl⟩
  rw [← hF] at h
  rw [runUpdate, ← hF, hq, hf]
  dsimp only
  rw [h]
  cases us <;> rfl

end

end Sys2Proof.Machine

open Sys2Proof Sys2Proof.Machine

/-- Settles O51, from the equation of each step in each of its cases; the head of the REDs on their way is the oldest, as they are sorted. -/
theorem dispatcherSteps : Obligations.DispatcherSteps := by
  unfold Obligations.DispatcherSteps
  intro s s1 v p n k c c1 q l x rest ids d e code m ms sl u us addr as_ posted
  refine ⟨fun hn ha => launchRecord_waits hn ha, fun hn ha => ⟨?_, fun hc hd => launchRecord_delays hn ha hc hd,
    fun hc hd => launchRecord_accepts hn ha hc hd⟩, ?_, ?_, ?_, ?_, ?_, ?_, ?_, ?_, runUpdate_empty, runUpdate_noSlot, ?_, ?_⟩
  · rintro rfl hc
    exact launchRecord_rejects hn ha hc
  · intro hx hl hd
    refine ⟨fun hz hf => packetExpansion_none hx hl ?_, fun hz => packetExpansion_zeros hx hl hd hz,
      fun hz he => packetExpansion_free hx hl hd hz he⟩
    rw [withDset, hd]
    dsimp only
    rw [(chooseDset_free hz).trans (congrArg List.head? hf)]
    rfl
  · intro hx hl hd hk
    have hh : exec (.packetExpansion p) s = expandHeld p d ids l e s := packetExpansion_held hx hl (by rw [withDset, hd])
    rw [hh, expandHeld, hk]
    exact ⟨fun hq => if_pos hq, fun hq => if_neg (Nat.not_le.mpr hq)⟩
  · exact packetDispatch_starts
  · intro hq hd hx hr
    have hn : exec (.packetAging p k q) s = .next (ageQueue p k q (rest.length + 1) s) := by
      show Host.Outcome.next (ageQueue p k q (queueOf s p k q).length s) = _
      rw [hx]
      rfl
    have hdue := agingDue_iff hq hd hx hr
    rw [hn]
    refine ⟨fun ht => congrArg _ (ageQueue_stays hx _ (hdue.trans (decide_eq_false (Nat.not_le.mpr ht)))),
      fun ht => congrArg _ (ageQueue_moves hx _ (hdue.trans (decide_eq_true ht)))⟩
  · intro hl
    exact ⟨doneWrite_unnamed hl, doneWrite_lost hl, fun _ h hk ha => doneWrite_writes hl h hk ha, fun _ h hk ha => doneWrite_waits hl h hk ha⟩
  · intro hm
    exact ⟨activeMessage_waits hm, activeMessage_lands hm⟩
  · exact serverRunStart_starts
  · refine ⟨remoteUpdate_extra, fun h => ⟨remoteUpdate_waits h, fun hw hu => ⟨redsBound_head hu, ?_⟩⟩⟩
    exact (remoteUpdate_takes h hw).trans (congrArg (fun w => Host.Outcome.next (runUpdate w p c)) (takeRed_head hu))
  · exact fun hq hf => ⟨runUpdate_held hq hf, runUpdate_performs hq hf⟩
  · exact syshRun_starts

end

section
/-! SUPPORT. The steps of the steep protocol (13 R218 to R231), and what a change of one line of a home, a slice or an L1 leaves there. -/
namespace Sys2Proof.Machine

/-! ## A line found after a change of it -/

theorem find?_mapKey {α : Type} (key : α → Nat) (k : Nat) (f : α → α) (hf : ∀ x, key (f x) = key x) (l : List α) :
    (l.map (fun x => if key x = k then f x else x)).find? (fun x => key x == k) = (l.find? (fun x => key x == k)).map f := by
  have hk : ((fun x => key x == k) ∘ fun x => if key x = k then f x else x) = fun x => key x == k := by
    funext x
    by_cases h : key x = k
    · simp [h, hf]
    · simp [h]
  rw [List.find?_map, hk]
  cases h : l.find? (fun x => key x == k) with
  | none => rfl
  | some x => simp only [Option.map_some, if_pos (eq_of_beq (List.find?_some (p := fun x => key x == k) h) : key x = k)]

section
variable (s : State) (p : PartId) (c : CoreId) (line : Nat)

theorem State.steepHome_modHome {f : SteepHome → SteepHome} (hf : ∀ x, (f x).line = x.line) :
    (s.modHome p line f).steepHome p line = (s.steepHome p line).map f := by
  rw [State.steepHome, State.modHome, State.part_modPart]
  exact find?_mapKey (fun x : SteepHome => x.line) line f hf _

theorem State.sl_modSl {f : SliceLine → SliceLine} (hf : ∀ x, (f x).line = x.line) : (s.modSl p line f).sl p line = (s.sl p line).map f := by
  rw [State.sl, State.modSl, State.part_modPart]
  exact find?_mapKey (fun x : SliceLine => x.line) line f hf _

theorem State.l1_modL1 {f : L1Line → L1Line} (hf : ∀ x, (f x).line = x.line) : (s.modL1 p c line f).l1 p c line = (s.l1 p c line).map f := by
  rw [State.l1, State.modL1, State.core_modCoreC]
  exact find?_mapKey (fun x : L1Line => x.line) line f hf _

theorem State.holder_modHolder {f : Holder → Holder} (hf : ∀ x, (f x).line = x.line) :
    (s.modHolder p c line f).holder p c line = (s.holder p c line).map f := by
  rw [State.holder, State.modHolder, State.core_modCoreC]
  exact find?_mapKey (fun x : Holder => x.line) line f hf _

theorem State.r_modHolder (f : Holder → Holder) : ((s.modHolder p c line f).part p).r = (s.part p).r := by
  rw [State.modHolder, State.modCoreC, State.setCore, State.part_modPart]

end

/-! ## The ADDM at the head of a core's steep queue (R220) -/

section
variable {s : State} {p : PartId} {h : CoreId} {q : AddmReq} {qs : List AddmReq} (hq : (s.core p h).w.steepQ = q :: qs)
include hq

theorem addmPerform_waits (hp : q.phase ≠ 0) : execAddmPerform p h s = .next s := by
  rw [execAddmPerform, hq]
  exact if_pos hp

theorem tack_head (line dom : Nat) : execTack p h line dom s = .next (if q.line = line ∧ q.phase = 3 then nextAddm s p h else s) := by
  rw [execTack, hq]

variable (hp : q.phase = 0)
include hp

theorem addmPerform_asks (hn : s.holder p h q.line = none) : execAddmPerform p h s =
    .next ((modHead (countAddm (s.loseCopy p h q.line) p h q) p h (fun q => { q with phase := 1 })).push (.sreq p h q.line q.dom)) := by
  rw [execAddmPerform, hq]
  refine (if_neg (fun e => e hp)).trans ?_
  rw [hn]

variable {k : Holder} (hk : s.holder p h q.line = some k)
include hk

theorem addmPerform_oldColour (hc : k.colour ≠ steepColour s p) (hg : k.g ≠ 0) : execAddmPerform p h s =
    .next (modHead (pourHolder s p h q.line false) p h (fun q => { q with phase := 2 })) := by
  rw [execAddmPerform, hq]
  refine (if_neg (fun e => e hp)).trans ?_
  rw [hk]
  refine if_pos ?_
  rw [bne_iff_ne.mpr hc, decide_eq_true hg]
  rfl

theorem addmPerform_inA (hc : k.colour = steepColour s p ∨ k.g = 0) : execAddmPerform p h s =
    .next (addmInA (s.modHolder p h q.line (fun h => { h with colour := steepColour s p })) p h q { k with colour := steepColour s p }) := by
  rw [execAddmPerform, hq]
  refine (if_neg (fun e => e hp)).trans ?_
  rw [hk]
  refine if_neg ?_
  rw [Bool.and_eq_true, bne_iff_ne, decide_eq_true_iff]
  exact fun e => hc.elim e.1 e.2

end

/-- A holder's partials with an ADDM's element added. -/
def addmAdded (s : State) (p : PartId) (c : CoreId) (q : AddmReq) (g : BitVec 32) : State :=
  s.modHolder p c q.line (fun h => { h with
    p := elemSet q.fmt h.p q.off (elemAdd q.fmt (elemAt q.fmt h.p q.off) (q.a.toNat % 2 ^ (8 * elemBytes q.fmt))), g := g })

section
variable {s : State} {p : PartId} {c : CoreId} {q : AddmReq} {k : Holder}

section
variable (hm : magLe (addUp [k.f, k.g, addendMag q.fmt q.a]) k.share = true)
include hm

theorem addmInA_adds (hg : addUp [k.g, addendMag q.fmt q.a] ≠ k.share ∨ addUp [k.g, addendMag q.fmt q.a] = 0) :
    addmInA s p c q k = nextAddm (addmAdded s p c q (addUp [k.g, addendMag q.fmt q.a])) p c := by
  rw [addmInA]
  refine (if_pos hm).trans (congrArg (fun v => nextAddm v p c) (if_neg ?_))
  exact fun e => hg.elim (fun h => h e.1) e.2

theorem addmInA_fills (hg : addUp [k.g, addendMag q.fmt q.a] = k.share) (h0 : addUp [k.g, addendMag q.fmt q.a] ≠ 0) :
    addmInA s p c q k = nextAddm (pourHolder (addmAdded s p c q (addUp [k.g, addendMag q.fmt q.a])) p c q.line
      (bit (s.part p).r.steepctl 1)) p c := by
  rw [addmInA]
  refine (if_pos hm).trans (congrArg (fun v => nextAddm v p c) ((if_pos ⟨hg, h0⟩).trans ?_))
  rw [State.r_modHolder]
  rfl

end

variable (hm : magLe (addUp [k.f, k.g, addendMag q.fmt q.a]) k.share = false)
include hm

theorem addmInA_awaits (hf : k.f ≠ 0) : addmInA s p c q k = modHead s p c (fun q => { q with phase := 2 }) := by
  rw [addmInA]
  exact (if_neg (Bool.eq_false_iff.mp hm)).trans (if_pos hf)

variable (hf : k.f = 0)
include hf

theorem addmInA_pours (hg : k.g ≠ 0) :
    addmInA s p c q k = modHead (pourHolder s p c q.line false) p c (fun q => { q with phase := 2 }) := by
  rw [addmInA]
  exact (if_neg (Bool.eq_false_iff.mp hm)).trans ((if_neg (fun h => h hf)).trans (if_pos hg))

theorem addmInA_goesHome (hg : k.g = 0) : addmInA s p c q k =
    (modHead (countAddm s p c q) p c (fun q => { q with phase := 3 })).push (.tadd p c q.line q.dom q.off q.a) := by
  rw [addmInA]
  exact (if_neg (Bool.eq_false_iff.mp hm)).trans ((if_neg (fun h => h hf)).trans (if_neg (fun h => h hg)))

end

section
variable {s : State} {p : PartId} {h : CoreId} {q : AddmReq}

theorem countAddm_counted (hc : q.counted = true) : countAddm s p h q = s := by
  rw [countAddm, if_pos hc]

variable (hc : q.counted = false)
include hc

/-- The head ADDM counted. -/
def headCounted (s : State) (p : PartId) (h : CoreId) : State := modHead s p h (fun q => { q with counted := true })

theorem countAddm_gone
    (hf : (slotThreads p h ((headCounted s p h).core p h).w.slots).find? (fun e => e.2.tid == q.tid) = none) :
    countAddm s p h q = headCounted s p h := by
  rw [countAddm, if_neg (Bool.eq_false_iff.mp hc), ← headCounted]
  dsimp only
  rw [hf]

theorem countAddm_migrating {r : TRef} {t : Thread}
    (hf : (slotThreads p h ((headCounted s p h).core p h).w.slots).find? (fun e => e.2.tid == q.tid) = some (r, t))
    (hm : t.migrate.isSome = true) : countAddm s p h q = (headCounted s p h).countHome r (homeSlice q.line).val := by
  have hn : t.migrate.isNone = false := by
    cases h : t.migrate with
    | none => rw [h] at hm; exact absurd hm (by decide)
    | some x => rfl
  rw [countAddm, if_neg (Bool.eq_false_iff.mp hc), ← headCounted]
  dsimp only
  rw [hf]
  dsimp only
  rw [hn, Bool.false_and]
  exact if_neg Bool.false_ne_true

end

/-! ## The home (R221 to R225) -/

section
variable {s s1 : State} {p : PartId} {h v : CoreId} {line dom off : Nat} {a : Word} {x : SteepHome}

theorem sreq_full (hr : steepReady s p h line dom = none) : execSreq p h line dom s = .next (s.holdBack (.sreq p h line dom)) := by
  rw [execSreq, hr]

theorem tadd_full (hr : steepReady s p h line dom = none) :
    execTadd p h line dom off a s = .next (s.holdBack (.tadd p h line dom off a)) := by
  rw [execTadd, hr]

theorem homeBusy_of (hb : x.load.isSome = true ∨ x.revoking.isSome = true) : homeBusy x = true := by
  rw [homeBusy, Bool.or_eq_true]
  exact hb

theorem homeBusy_not (hl : x.load = none) (hv : x.revoking = none) : homeBusy x = false := by
  rw [homeBusy, hl, hv]
  rfl

variable (hr : steepReady s p h line dom = some s1) (hx : s1.steepHome p line = some x)
include hr hx

theorem sreq_defers (hb : homeBusy x = true) : execSreq p h line dom s = .next (deferHome s1 p line (.sreq p h line dom)) := by
  rw [execSreq, hr]
  dsimp only
  rw [hx]
  exact if_pos hb

theorem sreq_revokes (hb : homeBusy x = false) (hv : victimOf s1 p x = some v) : execSreq p h line dom s =
    .next ((s1.modHome p line (fun x => { x with
      revoking := some v, deferred := .sreq p h line dom :: x.deferred })).push (.srev p v line dom)) := by
  rw [execSreq, hr]
  dsimp only
  rw [hx]
  refine (if_neg (Bool.eq_false_iff.mp hb)).trans ?_
  rw [hv]

theorem sreq_grants (hb : homeBusy x = false) (hv : victimOf s1 p x = none) : execSreq p h line dom s =
    .next (((s1.invalidateAll p line none).modHome p line (fun y => { y with
      u := subDown y.u (grantOf s1 p x.u), shares := y.shares.filter (fun e => e.1 != h) ++ [(h, grantOf s1 p x.u)] })).push
      (.sgnt p h line dom (grantOf s1 p x.u))) := by
  rw [execSreq, hr]
  dsimp only
  rw [hx]
  refine (if_neg (Bool.eq_false_iff.mp hb)).trans ?_
  rw [hv]

end

section
variable {s : State} {p : PartId} {line : Nat} {i : Instr} {x : SteepHome} (hx : s.steepHome p line = some x)
include hx

theorem answerHolder_sends (hv : x.revoking = none) : answerHolder s p line i = s.push i := by
  rw [answerHolder, hx]
  dsimp only
  rw [hv]
  rfl

theorem answerHolder_keeps (hv : x.revoking.isSome = true) :
    answerHolder s p line i = s.modHome p line (fun x => { x with deferred := x.deferred ++ [i] }) := by
  rw [answerHolder, hx]
  exact if_pos hv

/-- A home after a holder's data have been added to it. -/
theorem State.steepHome_homeAdd (h : CoreId) (c : Bool) (d : BitVec 1024) :
    (s.homeAdd p h line c d).steepHome p line = some { x with buf := bufAdd x.fmt x.buf h c d } := by
  refine (State.steepHome_modHome s p line (f := fun x => { x with buf := bufAdd x.fmt x.buf h c d }) (fun _ => rfl)).trans ?_
  rw [hx]
  rfl

end

section
variable {s1 : State} {p : PartId} {h : CoreId} {line dom off : Nat} {x : SteepHome} (hx : s1.steepHome p line = some x)
include hx

theorem tadd_answers {s : State} {a : Word} (hr : steepReady s p h line dom = some s1) : execTadd p h line dom off a s =
    .next (answerHolder (s1.homeAdd p h line (steepColour s1 p) (elemSet x.fmt 0 off (a.toNat % 2 ^ (8 * elemBytes x.fmt)))) p line
      (.tack p h line dom)) := by
  rw [execTadd, hr]
  dsimp only
  rw [hx]

/-- The home with a pour's further share granted. -/
def pourGranted (s : State) (p : PartId) (h : CoreId) (line : Nat) (g : BitVec 32) : State :=
  s.modHome p line (fun x => { x with
    u := subDown x.u g, shares := x.shares.map (fun e => if e.1 = h then (h, addDown e.2 g) else e) })

variable {c m : Bool} {d : BitVec 1024}

/-- The further share that a pour gets. -/
def pourShare (s1 : State) (p : PartId) (h : CoreId) (line : Nat) (x : SteepHome) (c m : Bool) (d : BitVec 1024) : BitVec 32 :=
  moreShare (s1.homeAdd p h line c d) p { x with buf := bufAdd x.fmt x.buf h c d } h m

theorem takePour_answers : takePour s1 p h line dom d c m =
    answerHolder (pourGranted (s1.homeAdd p h line c d) p h line (pourShare s1 p h line x c m d)) p line
      (.pack p h line dom (pourShare s1 p h line x c m d)) := by
  rw [takePour]
  dsimp only
  rw [State.steepHome_homeAdd hx]
  rfl

theorem steepHome_pourGranted (g : BitVec 32) : ∃ y, (pourGranted (s1.homeAdd p h line c d) p h line g).steepHome p line = some y ∧
    y.revoking = x.revoking := by
  refine ⟨_, (State.steepHome_modHome _ p line (f := fun x => { x with
    u := subDown x.u g, shares := x.shares.map (fun e => if e.1 = h then (h, addDown e.2 g) else e) }) (fun _ => rfl)).trans
    (congrArg (Option.map _) (State.steepHome_homeAdd hx h c d)), rfl⟩

theorem takePour_acknowledges (hv : x.revoking = none) : takePour s1 p h line dom d c m =
    (pourGranted (s1.homeAdd p h line c d) p h line (pourShare s1 p h line x c m d)).push
      (.pack p h line dom (pourShare s1 p h line x c m d)) := by
  obtain ⟨y, hy, hr⟩ := steepHome_pourGranted (h := h) (c := c) (d := d) hx (pourShare s1 p h line x c m d)
  rw [takePour_answers hx, answerHolder_sends hy (hr.trans hv)]

theorem takePour_keepsBack (hv : x.revoking.isSome = true) : takePour s1 p h line dom d c m =
    (pourGranted (s1.homeAdd p h line c d) p h line (pourShare s1 p h line x c m d)).modHome p line
      (fun y => { y with deferred := y.deferred ++ [.pack p h line dom (pourShare s1 p h line x c m d)] }) := by
  obtain ⟨y, hy, hr⟩ := steepHome_pourGranted (h := h) (c := c) (d := d) hx (pourShare s1 p h line x c m d)
  rw [takePour_answers hx, answerHolder_keeps hy ((congrArg Option.isSome hr).trans hv)]

end

/-! ## Holders (R220, R222, R223, R229) -/

section
variable {s : State} {p : PartId} {h : CoreId} {line dom : Nat} {k : Holder}

theorem pourHolder_some (hk : s.holder p h line = some k) (more : Bool) : pourHolder s p h line more =
    (s.modHolder p h line (fun k => { k with f := addUp [k.f, k.g], g := 0, p := 0 })).push
      (.pourMessage p h line k.dom k.p k.g k.colour more) := by
  rw [pourHolder, hk]

theorem colourPour_same (hk : s.holder p h line = some k) (hc : k.colour = steepColour s p) : execColourPour p h line s = .next s := by
  rw [execColourPour, hk]
  exact if_neg (by rw [hc, bne_self_eq_false]; decide)

theorem steepColour_pourHolder (hk : s.holder p h line = some k) (more : Bool) :
    steepColour (pourHolder s p h line more) p = steepColour s p := by
  rw [pourHolder_some hk]
  exact congrArg (fun r : PRegs => bit r.steepctl 8) (State.r_modHolder s p h line _)

section
variable (hk : s.holder p h line = some k) (hc : k.colour ≠ steepColour s p)
include hk hc

theorem colourPour_empty (hg : k.g = 0) :
    execColourPour p h line s = .next (s.modHolder p h line (fun x => { x with colour := steepColour s p })) := by
  rw [execColourPour, hk]
  refine (if_pos (bne_iff_ne.mpr hc)).trans ?_
  rw [if_pos hg]

theorem colourPour_pours (hg : k.g ≠ 0) : execColourPour p h line s =
    .next ((pourHolder s p h line false).modHolder p h line (fun x => { x with colour := steepColour s p })) := by
  rw [execColourPour, hk]
  refine (if_pos (bne_iff_ne.mpr hc)).trans ?_
  rw [if_neg hg]
  dsimp only
  rw [steepColour_pourHolder hk]

end

theorem pack_last (hf : pourInFlight s p h line = false) (share : BitVec 32) : execPack p h line dom share s =
    .next (resumeHead (s.modHolder p h line (fun x => { x with f := 0, share := addDown x.share share })) p h line 2) := by
  rw [execPack, hf]
  rfl

theorem pack_inFlight (hf : pourInFlight s p h line = true) (share : BitVec 32) : execPack p h line dom share s =
    .next (resumeHead (s.modHolder p h line (fun x => { x with share := addDown x.share share })) p h line 2) := by
  rw [execPack, hf]
  rfl

theorem fpr_holder (hk : s.holder p h line = some k) : execFpr p h line dom s =
    .next ((s.modHolder p h line (fun x => { x with p := 0, g := 0 })).push (.fpd p h line dom k.p k.g k.colour)) := by
  rw [execFpr, hk]

theorem fpr_none (hk : s.holder p h line = none) : execFpr p h line dom s = .next (s.push (.fpd p h line dom 0 0 (steepColour s p))) := by
  rw [execFpr, hk]

theorem srev_holder (hk : s.holder p h line = some k) : execSrev p h line dom s =
    .next ((s.dropHolder p h line).push (.sret p h line dom k.p k.g k.colour k.share)) := by
  rw [execSrev, hk]

theorem srev_crossed (hk : s.holder p h line = none) (hs : sretInFlight s p h line = true) : execSrev p h line dom s = .next s := by
  rw [execSrev, hk, hs]
  rfl

theorem srev_gone (hk : s.holder p h line = none) (hs : sretInFlight s p h line = false) : execSrev p h line dom s =
    .next (answered (s.surrender p h line) p h line) := by
  rw [execSrev, hk, hs]
  rfl

/-- What a grant makes of its holder's line. -/
def grantedHolder (x : SteepHome) (line : Nat) (share : BitVec 32) (colour : Bool) : Holder :=
  { line := line, dom := x.dom, key := x.key, fmt := x.fmt, p := 0, g := 0, f := 0, share := share, colour := colour }

/-- The holder's L1 with room for the line. -/
def grantRoom (s : State) (p : PartId) (h : CoreId) (line : Nat) : State := l1Room (s.loseCopy p h line) p h line

theorem sgnt_enters {x : SteepHome} (hx : s.steepHome p line = some x) (share : BitVec 32) : execSgnt p h line dom share s =
    .next (resumeHead ((grantRoom s p h line).modCoreC p h (fun k => { k with
      holders := grantedHolder x line share (steepColour (grantRoom s p h line) p) :: k.holders.filter (fun z => z.line != line) }))
      p h line 1) := by
  rw [execSgnt, hx]
  rfl

end

/-! ## Bounded loads (R225) -/

section
variable {s : State} {p : PartId} {l : BoundedReq} {x : SteepHome}

theorem boundedLoad_flat (hx : s.steepHome p l.line = none) : execBoundedLoad p l s =
    .next (replyThread s l.who l.tid (some (word (elemAt l.fmt (s.readLine l.key) l.off)))) := by
  rw [execBoundedLoad, hx]

variable (hx : s.steepHome p l.line = some x)
include hx

theorem boundedLoad_defers (hb : homeBusy x = true) : execBoundedLoad p l s = .next (deferHome s p l.line (.boundedLoad p l)) := by
  rw [execBoundedLoad, hx]
  exact if_pos hb

variable (hb : homeBusy x = false)
include hb

/-- The holders that a bounded load forces. -/
def forced (x : SteepHome) (l : BoundedReq) : List CoreId :=
  forceList (x.shares.length + 1) x.shares (addUp (x.shares.map (fun e => e.2))) l.tol

/-- The home with a bounded load under way. -/
def loadBegun (s : State) (p : PartId) (l : BoundedReq) (x : SteepHome) : State :=
  s.modHome p l.line (fun y => { y with load := some l, forcing := forced x l })

theorem boundedLoad_answers (hf : forced x l = []) :
    execBoundedLoad p l s = .next (((loadBegun s p l x).answerLoad p l.line).releaseHome p l.line) := by
  rw [execBoundedLoad, hx]
  exact (if_neg (Bool.eq_false_iff.mp hb)).trans (if_pos (List.isEmpty_iff.mpr hf))

theorem boundedLoad_forces (hf : forced x l ≠ []) :
    execBoundedLoad p l s = .next ((loadBegun s p l x).pushAll ((forced x l).map (fun h => .fpr p h l.line x.dom))) := by
  rw [execBoundedLoad, hx]
  exact (if_neg (Bool.eq_false_iff.mp hb)).trans (if_neg (fun h => hf (List.isEmpty_iff.mp h)))

end

end Sys2Proof.Machine

open Sys2Proof Sys2Proof.Machine

/-- Settles O52, from the equation of each message of the steep protocol in each state of its core and home. -/
theorem steepSteps : Obligations.SteepSteps := by
  unfold Obligations.SteepSteps
  intro s s1 p h v line dom off q qs k x data g share colour more a l
  refine ⟨fun hq => ⟨addmPerform_waits hq, addmPerform_asks hq, fun hp hk => addmPerform_oldColour hq hp hk, ?_, countAddm_counted, ?_, tack_head hq line dom⟩,
    fun hk => pourHolder_some hk more, fun hr => ⟨sreq_full hr, tadd_full hr⟩, ?_, fun hx => sgnt_enters (dom := dom) hx share, ?_,
    fun hf => pack_last (dom := dom) hf share, fun hf => pack_inFlight (dom := dom) hf share, ?_, ?_, boundedLoad_flat,
    fun hx hb => boundedLoad_defers hx (homeBusy_of hb), ?_, rfl⟩
  · intro hp hk hc
    have he : exec (.addmPerform p h) s = _ := addmPerform_inA hq hp hk hc
    refine ⟨fun hm hg => he.trans (congrArg _ (addmInA_adds hm hg)), fun hm hg h0 => he.trans (congrArg _ ?_),
      fun hm hf => he.trans (congrArg _ (addmInA_awaits hm hf)), fun hm hf hg => he.trans (congrArg _ (addmInA_pours hm hf hg)),
      fun hm hf hg => he.trans (congrArg _ (addmInA_goesHome hm hf hg))⟩
    refine (addmInA_fills hm hg h0).trans ?_
    rw [State.r_modHolder]
    rfl
  · intro hc
    exact ⟨countAddm_gone hc, fun r t => countAddm_migrating hc⟩
  · intro hr hx
    refine ⟨fun hb => sreq_defers hr hx (homeBusy_of hb), fun hl hv => sreq_revokes hr hx (homeBusy_not hl hv),
      fun hl hv => sreq_grants hr hx (homeBusy_not hl hv), fun hv => ?_, fun hv => ?_⟩
    · exact (tadd_answers hx hr).trans (congrArg _ (answerHolder_sends (State.steepHome_homeAdd hx ..) hv))
    · exact (tadd_answers hx hr).trans (congrArg _ (answerHolder_keeps (State.steepHome_homeAdd hx ..) hv))
  · intro s2 hx
    exact ⟨fun hv => congrArg _ (takePour_acknowledges hx hv), fun hv => congrArg _ (takePour_keepsBack hx hv), rfl, rfl⟩
  · intro hk
    exact ⟨fpr_holder hk, srev_holder hk, colourPour_same hk, colourPour_empty hk, colourPour_pours hk⟩
  · intro hk
    exact ⟨fpr_none hk, srev_crossed hk, srev_gone hk⟩
  · intro hx hl hv
    exact ⟨boundedLoad_answers hx (homeBusy_not hl hv), boundedLoad_forces hx (homeBusy_not hl hv)⟩

end

section
/-! SUPPORT. The steps of the caches and walkers (12 R197 to R214). -/
namespace Sys2Proof.Machine

/-! ## What a change of one place leaves of the others -/

section
variable (s : State) (p : PartId) (c : CoreId) (line : Nat)

theorem State.sl_modCoreC (f : CoreFixed → CoreFixed) : (s.modCoreC p c f).sl p line = s.sl p line := by
  rw [State.sl, State.modCoreC, State.setCore, State.part_modPart]
  rfl

theorem State.sl_modL1 (f : L1Line → L1Line) : (s.modL1 p c line f).sl p line = s.sl p line := State.sl_modCoreC s p c line _

theorem State.core_modSl (f : SliceLine → SliceLine) (c' : CoreId) : (s.modSl p line f).core p c' = s.core p c' :=
  State.core_modPart_of s p _ (fun _ => rfl) p c'

theorem State.l1_modSl (f : SliceLine → SliceLine) (c' : CoreId) : (s.modSl p line f).l1 p c' line = s.l1 p c' line := by
  rw [State.l1, State.core_modSl]
  rfl

theorem State.coreIds_modSl (f : SliceLine → SliceLine) : ((s.modSl p line f).part p).coreIds = (s.part p).coreIds := by
  rw [State.modSl, State.part_modPart]
  rfl

theorem State.l1_modCoreC_ne {c' : CoreId} (f : CoreFixed → CoreFixed) (h : c' ≠ c) : (s.modCoreC p c f).l1 p c' line = s.l1 p c' line := by
  rw [State.l1, State.modCoreC, State.core_setCore_ne _ _ (.inr h)]
  rfl

theorem State.l1_dropL1 : (s.dropL1 p c line).l1 p c line = none := by
  rw [State.l1, State.dropL1, State.core_modCoreC]
  refine List.find?_eq_none.mpr fun x hx => ?_
  exact fun h => bne_iff_ne.mp (List.mem_filter.mp hx).2 (eq_of_beq h)

end

theorem mem_keys_kput {α : Type} {m : KMap α} {k j : Nat} {v : α} (h : j ∈ (kput m k v).map (fun e => e.1)) :
    j = k ∨ j ∈ m.map (fun e => e.1) := by
  induction m with
  | nil => exact .inl (List.mem_singleton.mp h)
  | cons e m ih =>
    rw [kput] at h
    by_cases h1 : k < e.1
    · rw [if_pos h1] at h
      exact List.mem_cons.mp h
    · rw [if_neg h1] at h
      by_cases h2 : k = e.1
      · rw [if_pos h2] at h
        exact (List.mem_cons.mp h).imp id (List.mem_cons_of_mem _)
      · rw [if_neg h2] at h
        rcases List.mem_cons.mp h with h | h
        · exact .inr (h ▸ List.mem_cons_self)
        · exact (ih h).imp id (List.mem_cons_of_mem _)

theorem mem_coreIds {q : Partition} {c : CoreId} : c ∈ q.coreIds ↔ c.val ∈ q.cores.map (fun e => e.1) := by
  rw [Partition.coreIds, List.mem_filterMap, List.mem_map]
  refine exists_congr fun e => and_congr_right fun _ => ?_
  by_cases he : e.1 < 272
  · rw [dif_pos he, Option.some.injEq, Fin.ext_iff]
  · rw [dif_neg he]
    exact ⟨nofun, fun h => absurd (h ▸ c.isLt) he⟩

theorem State.mem_coreIds_modCoreC {s : State} {p : PartId} {c c' : CoreId} {f : CoreFixed → CoreFixed}
    (h : c' ∈ ((s.modCoreC p c f).part p).coreIds) : c' = c ∨ c' ∈ (s.part p).coreIds := by
  rw [State.modCoreC, State.setCore, State.part_modPart, mem_coreIds] at h
  exact (mem_keys_kput h).imp Fin.ext mem_coreIds.mpr

/-! ## A copy that leaves its L1 (R207) -/

section
variable (s : State) (p : PartId) (c : CoreId) (line : Nat)

theorem State.l1_loseCopy : (s.loseCopy p c line).l1 p c line = none := by
  rw [State.loseCopy, State.unshare, State.l1_modSl]
  exact State.l1_dropL1 _ p c line

theorem State.writeBack_clean (h : ∀ x, s.l1 p c line = some x → x.dirty = 0) : s.writeBack p c line = s := by
  rw [State.writeBack]
  cases hx : s.l1 p c line with
  | none => rfl
  | some x => exact if_pos (h x hx)

theorem State.writeBack_dirty {x : L1Line} (hx : s.l1 p c line = some x) (hd : x.dirty ≠ 0) :
    s.writeBack p c line = (s.dirtySlice p line).modL1 p c line (fun l => { l with dirty := 0, old := 0 }) := by
  rw [State.writeBack, hx]
  exact if_neg hd

/-- A write back changes nothing, or the line's slice and its copy. -/
theorem State.writeBack_cases : s.writeBack p c line = s ∨
    s.writeBack p c line = (s.dirtySlice p line).modL1 p c line (fun l => { l with dirty := 0, old := 0 }) := by
  by_cases h : ∀ x, s.l1 p c line = some x → x.dirty = 0
  · exact .inl (s.writeBack_clean p c line h)
  · push Not at h
    obtain ⟨x, hx, hd⟩ := h
    exact .inr (s.writeBack_dirty p c line hx hd)

theorem State.l1_writeBack_ne {c' : CoreId} (h : c' ≠ c) : (s.writeBack p c line).l1 p c' line = s.l1 p c' line := by
  rcases s.writeBack_cases p c line with e | e <;> rw [e]
  rw [State.modL1, State.l1_modCoreC_ne _ _ _ _ _ h, State.dirtySlice, State.l1_modSl]

theorem State.l1_loseCopy_ne {c' : CoreId} (h : c' ≠ c) : (s.loseCopy p c line).l1 p c' line = s.l1 p c' line := by
  rw [State.loseCopy, State.unshare, State.l1_modSl, State.dropL1, State.l1_modCoreC_ne _ _ _ _ _ h, State.l1_writeBack_ne _ _ _ _ h]

theorem State.mem_coreIds_loseCopy {c' : CoreId} (h : c' ∈ ((s.loseCopy p c line).part p).coreIds) : c' = c ∨ c' ∈ (s.part p).coreIds := by
  rw [State.loseCopy, State.unshare, State.coreIds_modSl, State.dropL1] at h
  rcases State.mem_coreIds_modCoreC h with h | h
  · exact .inl h
  rcases s.writeBack_cases p c line with e | e <;> rw [e] at h
  · exact .inr h
  · refine (State.mem_coreIds_modCoreC h).imp id fun h => ?_
    rwa [State.dirtySlice, State.coreIds_modSl] at h

/-- The dirty sectors of a lost copy reach the home. -/
theorem State.sl_writeBack {y : SliceLine} (hy : s.sl p line = some y) : (s.writeBack p c line).sl p line =
    some { y with dirty := y.dirty || (match s.l1 p c line with
      | some x => x.dirty != 0
      | none => false) } := by
  cases hx : s.l1 p c line with
  | none =>
    rw [s.writeBack_clean p c line (fun x h => nomatch hx.symm.trans h), hy, Bool.or_false]
  | some x =>
    by_cases hd : x.dirty = 0
    · rw [s.writeBack_clean p c line (fun z h => Option.some.inj (hx.symm.trans h) ▸ hd), hy]
      dsimp only
      rw [hd, bne_self_eq_false, Bool.or_false]
    · rw [s.writeBack_dirty p c line hx hd, State.sl_modL1]
      dsimp only
      rw [bne_iff_ne.mpr hd, Bool.or_true]
      refine (State.sl_modSl s p line (f := fun l => { l with dirty := true }) (fun _ => rfl)).trans ?_
      rw [hy]
      rfl

theorem State.sl_loseCopy {y : SliceLine} (hy : s.sl p line = some y) : (s.loseCopy p c line).sl p line =
    some { y with
      dirty := y.dirty || (match s.l1 p c line with
        | some x => x.dirty != 0
        | none => false),
      sharers := y.sharers.filter (fun x => x != c) } := by
  refine (State.sl_modSl _ p line (f := fun l => { l with sharers := l.sharers.filter (fun x => x != c) }) (fun _ => rfl)).trans ?_
  rw [State.dropL1, State.sl_modCoreC, State.sl_writeBack s p c line hy]
  rfl

end

theorem loseCopy_mem (s : State) (p : PartId) (c : CoreId) (line : Nat) : (s.loseCopy p c line).mem = s.mem := by
  rw [State.loseCopy, State.unshare, State.modSl, State.modPart_mem, State.dropL1, State.modCoreC_mem]
  rcases s.writeBack_cases p c line with e | e <;> rw [e]
  rfl

/-! ## Every copy but one invalidated (R207) -/

theorem loseCopies_l1 (p : PartId) (line : Nat) (l : List CoreId) (s : State) (c : CoreId) :
    (l.foldl (fun s c => s.loseCopy p c line) s).l1 p c line = if c ∈ l then none else s.l1 p c line := by
  induction l generalizing s with
  | nil => rfl
  | cons d l ih =>
    rw [List.foldl_cons, ih]
    by_cases hl : c ∈ l
    · rw [if_pos hl, if_pos (List.mem_cons_of_mem _ hl)]
    · rw [if_neg hl]
      by_cases hd : c = d
      · rw [if_pos (hd ▸ List.mem_cons_self), hd, State.l1_loseCopy]
      · rw [if_neg (fun h => (List.mem_cons.mp h).elim hd hl), State.l1_loseCopy_ne _ _ _ _ hd]

theorem loseCopies_coreIds (p : PartId) (line : Nat) (l : List CoreId) (s : State) {c : CoreId}
    (h : c ∈ ((l.foldl (fun s c => s.loseCopy p c line) s).part p).coreIds) : c ∈ l ∨ c ∈ (s.part p).coreIds := by
  induction l generalizing s with
  | nil => exact .inr h
  | cons d l ih =>
    rcases ih _ h with h | h
    · exact .inl (List.mem_cons_of_mem _ h)
    · exact (State.mem_coreIds_loseCopy _ _ _ _ h).imp (fun e => List.mem_cons.mpr (.inl e)) id

theorem invalidateAll_copies {s : State} {p : PartId} {line : Nat} {c c1 : CoreId}
    (h : c1 ∈ (s.invalidateAll p line (some c)).copies p line) : c1 = c := by
  obtain ⟨hi, hl⟩ := List.mem_filter.mp h
  rw [State.invalidateAll] at hi hl
  rw [loseCopies_l1] at hl
  by_cases hm : c1 ∈ (s.copies p line).filter (fun x => some c != some x)
  · rw [if_pos hm] at hl
    exact absurd hl (by decide)
  · rw [if_neg hm] at hl
    have hc : c1 ∈ s.copies p line := List.mem_filter.mpr ⟨(loseCopies_coreIds p line _ s hi).resolve_left hm, hl⟩
    by_contra hne
    exact hm (List.mem_filter.mpr ⟨hc, bne_iff_ne.mpr fun e => hne (Option.some.inj e).symm⟩)

/-! ## Reads and evictions -/

section
variable {s : State} {p : PartId} {line : Nat} {y z : SliceLine}

theorem homeRead_quiet {sec : BitVec 2} {corr : BitVec 32} (h : errFires s p line sec = false) : homeRead s p line sec corr = s := by
  rw [homeRead, h]
  exact if_neg Bool.false_ne_true

theorem homeRead_fires {sec : BitVec 2} {corr : BitVec 32} (h : errFires s p line sec = true) :
    homeRead s p line sec corr = l2Error (disarm s p) p line corr := by
  rw [homeRead, h]
  exact if_pos rfl

theorem sliceEviction_none (h : s.sl p line = none) : execSliceEviction p line s = .next s := by
  rw [execSliceEviction, h]

variable (hy : s.sl p line = some y)
include hy

theorem sliceEviction_stays (h : s.evictable p y = false) : execSliceEviction p line s = .next s := by
  rw [execSliceEviction, hy]
  exact congrArg _ (if_neg (Bool.eq_false_iff.mp h))

theorem sliceEviction_evicts (h : s.evictable p y = true) : execSliceEviction p line s = .next (sliceEvict s p line) := by
  rw [execSliceEviction, hy]
  exact congrArg _ (if_pos h)

end

section
variable {s : State} {p : PartId} {line : Nat} {z : SliceLine} (hz : ((s.revokeAll p line).invalidateAll p line none).sl p line = some z)
include hz

theorem sliceEvict_drops (h : (z.dirty && errFires ((s.revokeAll p line).invalidateAll p line none) p line 3) = false) :
    sliceEvict s p line = ((s.revokeAll p line).invalidateAll p line none).dropSl p line := by
  rw [sliceEvict, hz]
  exact if_neg (Bool.eq_false_iff.mp h)

theorem sliceEvict_loses (h : (z.dirty && errFires ((s.revokeAll p line).invalidateAll p line none) p line 3) = true) :
    sliceEvict s p line =
      loseLine (quarantine (disarm ((s.revokeAll p line).invalidateAll p line none) p) p z) p z 0 := by
  rw [sliceEvict, hz]
  exact if_pos h

end

/-! ## GetS and GetM (R207) -/

section
variable {s : State} {p : PartId} {c : CoreId} {line : Nat} {y : SliceLine} {x : L1Line}

theorem opGetS_none (h : s.sl p line = none) : opGetS s p c line = s := by
  rw [opGetS, h]

theorem opGetM_none {sec : Fin 2} (h : s.sl p line = none) : opGetM s p c line sec = s := by
  rw [opGetM, h]

variable (hy : s.sl p line = some y)
include hy

/-- The other cores that hold a copy. -/
def otherCopies (s : State) (p : PartId) (c : CoreId) (line : Nat) : List CoreId := (s.copies p line).filter (fun x => x != c)

/-- The home after it has read through the other copies. -/
def readThrough (s : State) (p : PartId) (c : CoreId) (line : Nat) : State :=
  ((otherCopies s p c line).foldl (fun s x => s.forwardRead p x line) s).modSl p line (fun l => { l with
    endpoint := 0, sharers := c :: l.sharers.filter (fun x => x != c) })

theorem opGetS_installs (hx : (readThrough s p c line).l1 p c line = none) : opGetS s p c line =
    l1Install (readThrough s p c line) p c
      { line := line, st := if (otherCopies s p c line).isEmpty then .e else .s, valid := 3, dirty := 0, dom := y.dom, key := y.key,
        stamp := y.stamp, old := 0 } := by
  rw [readThrough, otherCopies] at hx
  rw [opGetS, hy]
  dsimp only
  rw [hx]
  rfl

theorem opGetS_refills (hx : (readThrough s p c line).l1 p c line = some x) :
    opGetS s p c line = (readThrough s p c line).modL1 p c line (fun x => { x with valid := 3 }) := by
  rw [readThrough, otherCopies] at hx
  rw [opGetS, hy]
  dsimp only
  rw [hx]
  rfl

/-- The home with the writer its only sharer. -/
def madeSole (s : State) (p : PartId) (c : CoreId) (line : Nat) (ep : BitVec 2) : State :=
  (s.invalidateAll p line (some c)).modSl p line (fun l => { l with endpoint := ep, sharers := [c] })

variable {sec : Fin 2}

theorem opGetM_installs (hx : (madeSole s p c line (y.endpoint &&& ~~~sectorBit sec)).l1 p c line = none) : opGetM s p c line sec =
    l1Install (madeSole s p c line (y.endpoint &&& ~~~sectorBit sec)) p c
      { line := line, st := .m, valid := 3 &&& ~~~(y.endpoint &&& ~~~sectorBit sec), dirty := 0, dom := y.dom, key := y.key,
        stamp := y.stamp, old := 0 } := by
  rw [madeSole] at hx
  rw [opGetM, hy]
  dsimp only
  rw [hx]
  rfl

theorem opGetM_upgrades (hx : (madeSole s p c line (y.endpoint &&& ~~~sectorBit sec)).l1 p c line = some x) : opGetM s p c line sec =
    (madeSole s p c line (y.endpoint &&& ~~~sectorBit sec)).modL1 p c line (fun x => { x with
      st := .m, valid := (x.valid ||| sectorBit sec) &&& ~~~(y.endpoint &&& ~~~sectorBit sec) }) := by
  rw [madeSole] at hx
  rw [opGetM, hy]
  dsimp only
  rw [hx]
  rfl

end

section
variable {s s1 : State} {p : PartId} {c : CoreId} {line dom : Nat} {sec : Fin 2}

theorem getS_ok {miss : Bool} (h : homeLookup s p line dom = .ok miss s1) :
    execGetS p c line dom s = .next (opGetS (if miss then s1 else homeRead s1 p line 3 0) p c line) := by
  rw [execGetS, h]

theorem getM_ok {miss : Bool} (h : homeLookup s p line dom = .ok miss s1) :
    execGetM p c line dom sec s = .next (opGetM (if miss then s1.revokeAll p line
      else homeRead (s1.revokeAll p line) p line (sectorsGot (s1.revokeAll p line) p c line sec) 0) p c line sec) := by
  rw [execGetM, h]

theorem gets_turned (h : homeLookup s p line dom = .stale s1 ∨ homeLookup s p line dom = .full s1) :
    execGetS p c line dom s = .next s1 ∧ execGetM p c line dom sec s = .next s1 := by
  rw [execGetS, execGetM]
  rcases h with h | h <;> rw [h] <;> exact ⟨rfl, rfl⟩

theorem gets_fault {w : Walked} (h : homeLookup s p line dom = .fault w s1) :
    execGetS p c line dom s = .next (listWalk s1 p (lineAddr line) w) ∧
      execGetM p c line dom sec s = .next (listWalk s1 p (lineAddr line) w) := by
  rw [execGetS, execGetM, h]
  exact ⟨rfl, rfl⟩

end

/-! ## Walks and poisoned tables (R204, R205) -/

section
variable {s : State} {p : PartId} {a : Word} {level frame : Nat}

theorem listWalk_known (h : nmem (s.part p).badTables frame = true) : listWalk s p a (.poisoned level frame) = s := by
  rw [listWalk, poisonTable, if_pos h]
  rfl

theorem listWalk_listed (h : nmem (s.part p).badTables frame = false) (hl : (s.part p).badTables.length < 64) :
    listWalk s p a (.poisoned level frame) = s.modPart p (fun q => { q with badTables := nput q.badTables frame }) := by
  rw [listWalk, poisonTable, if_neg (Bool.eq_false_iff.mp h), if_pos hl]
  rfl

theorem listWalk_full (h : nmem (s.part p).badTables frame = false) (hl : ¬ (s.part p).badTables.length < 64) :
    listWalk s p a (.poisoned level frame) = postRecord s p (tableLost frame a) := by
  rw [listWalk, poisonTable, if_neg (Bool.eq_false_iff.mp h), if_neg hl]
  rfl

/-- What a fault of a walk for a line lists (R205). -/
def listed (s1 : State) (p : PartId) (line : Nat) (w : Walked) : State :=
  match w with
  | .poisoned _ f =>
    if nmem (s1.part p).badTables f then s1
    else if (s1.part p).badTables.length < 64 then s1.modPart p (fun q => { q with badTables := nput q.badTables f })
    else postRecord s1 p { TrapRec.none with code := 0x042, cls := 1, addr := lineAddr line, d0 := word (2 ^ 16 * f) }
  | _ => s1

theorem listWalk_listed_eq (s1 : State) (p : PartId) (line : Nat) (w : Walked) : listWalk s1 p (lineAddr line) w = listed s1 p line w := by
  cases w with
  | poisoned level f =>
    rw [listed]
    by_cases hn : nmem (s1.part p).badTables f = true
    · exact (listWalk_known hn).trans (if_pos hn).symm
    · have hn' := Bool.eq_false_iff.mpr hn
      by_cases hl : (s1.part p).badTables.length < 64
      · exact (listWalk_listed hn' hl).trans ((if_neg hn).trans (if_pos hl)).symm
      · exact (listWalk_full hn' hl).trans ((if_neg hn).trans (if_neg hl)).symm
  | leaf | page | format | retired => rfl

/-- The leaves that the slice of an address has in its translation cache. -/
def sliceCache (s : State) (p : PartId) (va : Word) : List Leaf := (kget (s.part p).tcache (homeSlice (lineOf va)).val).getD []

theorem walk_cached {l : Leaf} (h : (sliceCache s p a).find? (fun l => l.covers (va57 a)) = some l) : execWalk p a s = .next s := by
  rw [sliceCache] at h
  rw [execWalk, sliceWalk, h]
  dsimp only
  by_cases hr : nmem (s.part p).retired (l.frame (va57 a)) = true
  · rw [if_pos hr]
    rfl
  · rw [if_neg hr]
    rfl

variable (h : (sliceCache s p a).find? (fun l => l.covers (va57 a)) = none)
include h

theorem sliceWalk_missed : sliceWalk s p a = match walkPage s p a with
    | .leaf l => (.leaf l, s.modPart p (fun q => { q with
        tcache := kput q.tcache (homeSlice (lineOf a)).val ((l :: sliceCache s p a).take 512) }))
    | w => (w, s) := by
  rw [sliceCache] at h
  rw [sliceWalk, h]
  rfl

theorem walk_leaf {l : Leaf} (hw : walkPage s p a = .leaf l) : execWalk p a s = .next (s.modPart p (fun q => { q with
    tcache := kput q.tcache (homeSlice (lineOf a)).val ((l :: sliceCache s p a).take 512) })) := by
  rw [execWalk, sliceWalk_missed h, hw]
  rfl

theorem walk_poisoned (hw : walkPage s p a = .poisoned level frame) :
    execWalk p a s = .next (listWalk s p a (.poisoned level frame)) := by
  rw [execWalk, sliceWalk_missed h, hw]

theorem walk_noPage {l : Leaf} (hw : walkPage s p a = .page level ∨ walkPage s p a = .format level ∨ walkPage s p a = .retired l) :
    execWalk p a s = .next s := by
  rw [execWalk, sliceWalk_missed h]
  rcases hw with hw | hw | hw <;> rw [hw] <;> rfl

end

/-! ## Errors and pins (R212 to R214) -/

section
variable {s : State} {p : PartId} {line : Nat} {corr : BitVec 32}

theorem l2Error_none (h : s.sl p line = none) : l2Error s p line corr = s := by
  rw [l2Error, h]

variable {y : SliceLine} (hy : s.sl p line = some y)
include hy

theorem l2Error_dirty (hd : y.dirty = true) : l2Error s p line corr = loseLine (quarantine s p y) p y corr := by
  rw [l2Error, hy]
  exact if_pos hd

/-- A slice with an error in a clean line counted, and its way quarantined. -/
def cleanError (s : State) (p : PartId) (y : SliceLine) : State :=
  (quarantine s p y).modPart p (fun q => { q with corrected := q.corrected + 1 })

variable (hd : y.dirty = false)
include hd

theorem l2Error_moves {way : Nat} {s1 : State} (hw : chooseWay (cleanError s p y) p line = some (way, s1)) :
    l2Error s p line corr = s1.modSl p line (fun l => { l with way := way, pinned := false }) := by
  rw [cleanError] at hw
  rw [l2Error, hy]
  refine (if_neg (Bool.eq_false_iff.mp hd)).trans ?_
  dsimp only
  rw [hw]

theorem l2Error_leaves (hw : chooseWay (cleanError s p y) p line = none) : l2Error s p line corr =
    if (cleanError s p y).unstamped p y then sliceEvict (cleanError s p y) p line else cleanError s p y := by
  rw [cleanError] at hw
  rw [l2Error, hy]
  refine (if_neg (Bool.eq_false_iff.mp hd)).trans ?_
  dsimp only
  rw [hw]
  rfl

theorem l2Uncorrectable_moves {way : Nat} {s1 : State} (hw : chooseWay (cleanError s p y) p line = some (way, s1)) :
    execL2Uncorrectable p line corr s = .next (s1.modSl p line (fun l => { l with way := way, pinned := false })) := by
  rw [execL2Uncorrectable, l2Error_moves hy hd hw]

theorem l2Uncorrectable_leaves (hw : chooseWay (cleanError s p y) p line = none) (hu : (cleanError s p y).unstamped p y = true) :
    execL2Uncorrectable p line corr s = .next (sliceEvict (cleanError s p y) p line) := by
  rw [execL2Uncorrectable, l2Error_leaves hy hd hw, if_pos hu]

theorem l2Uncorrectable_stays (hw : chooseWay (cleanError s p y) p line = none) (hu : (cleanError s p y).unstamped p y = false) :
    execL2Uncorrectable p line corr s = .next (cleanError s p y) := by
  rw [execL2Uncorrectable, l2Error_leaves hy hd hw, if_neg (Bool.eq_false_iff.mp hu)]

end

theorem sl_line {s : State} {p : PartId} {line : Nat} {y : SliceLine} (hy : s.sl p line = some y) : y.line = line :=
  eq_of_beq (List.find?_some (p := fun l : SliceLine => l.line == line) hy)

/-- A line's data gone from the caches, and the line poisoned. -/
def lineLost (s : State) (p : PartId) (line key : Nat) : State :=
  (((s.revokeAll p line).invalidateAll p line none).dropSl p line).poisonLine key

theorem l2Uncorrectable_dirty {s : State} {p : PartId} {line : Nat} {corr : BitVec 32} {y : SliceLine} (hy : s.sl p line = some y)
    (hd : y.dirty = true) : ∃ x, execL2Uncorrectable p line corr s = .next (postRecord (lineLost (quarantine s p y) p line y.key) p x) ∧
      x.code = 0x040 ∧ x.cls = 1 ∧ x.corr = corr ∧ x.addr = lineAddr line := by
  obtain rfl := sl_line hy
  refine ⟨lineRecord ((((quarantine s p y).revokeAll p y.line).invalidateAll p y.line none).dropSl p y.line) p 0x040 1 y.line y.dom y.key corr,
    ?_, rfl, rfl, rfl, rfl⟩
  rw [execL2Uncorrectable, l2Error_dirty hy hd]
  rfl

theorem lineStands_line {s : State} {p : PartId} {line : Nat} {y : SliceLine} (hy : lineStands s p line = some y) : y.line = line := by
  rw [lineStands] at hy
  cases hs : s.sl p line with
  | some x =>
    rw [hs] at hy
    exact Option.some.inj hy ▸ sl_line hs
  | none =>
    rw [hs] at hy
    dsimp only at hy
    cases hw : walkPage s p (lineAddr line) with
    | leaf l => rw [hw] at hy; exact Option.some.inj hy ▸ rfl
    | page | format | retired | poisoned => rw [hw] at hy; cases hy

section
variable {s : State} {p : PartId} {y : SliceLine}

theorem repairSector_off (h : (s.part p).r.memctl.getLsbD 0 = false ∨ (pinnedWay (s.part p) y.line y.key).isSome = true) :
    repairSector s p y = s := by
  rw [repairSector]
  refine if_pos ?_
  rw [Bool.or_eq_true, Bool.not_eq_true']
  exact h

variable (hm : (s.part p).r.memctl.getLsbD 0 = true) (hn : pinnedWay (s.part p) y.line y.key = none)
include hm hn

theorem repairs_unpinned : ¬ (!repairs (s.part p) || (pinnedWay (s.part p) y.line y.key).isSome) = true := by
  rw [hn, repairs, bit, hm]
  decide

theorem repairSector_pins (hl : lockedWays (s.part p) y.line < 2) (hy : s.sl p y.line = some y) : repairSector s p y =
    (s.lockWay p { set := setKey y.line, way := y.way, key := some y.key }).modSl p y.line (fun l => { l with pinned := true }) := by
  rw [repairSector]
  refine (if_neg (repairs_unpinned hm hn)).trans ((if_pos hl).trans ?_)
  have hb : bringLine s p y.line = s := if_pos (by rw [hy]; rfl)
  rw [hb]
  dsimp only
  rw [hy]

theorem repairSector_retires (hl : 2 ≤ lockedWays (s.part p) y.line) : repairSector s p y = retirePage s p y := by
  rw [repairSector]
  exact (if_neg (repairs_unpinned hm hn)).trans (if_neg (Nat.not_lt.mpr hl))

end

section
variable {s : State} {p : PartId} {line : Nat}

theorem sectorPin_none (h : lineStands s p line = none) (b : Bool) : execSectorPin p line b s = .next s := by
  rw [execSectorPin, h]

theorem sectorPin_some {y : SliceLine} (h : lineStands s p line = some y) (b : Bool) :
    execSectorPin p line b s = .next (if b then repairSector s p y else moduleError s p (y.key % 2 ^ 48)) := by
  rw [execSectorPin, h]

end

end Sys2Proof.Machine

open Sys2Proof Sys2Proof.Machine

/-- Settles O53, from the equation of each step of the caches and walkers in each of its cases. -/
theorem cacheSteps : Obligations.CacheSteps := by
  unfold Obligations.CacheSteps
  intro s s1 p c line x y z k l w va dom frame level way f32 corr sec miss
  refine ⟨?_, ?_, ?_, fun h => ⟨sliceEviction_none h, congrArg _ (l2Error_none h)⟩, ?_, ?_, gets_turned, ?_, ?_, rfl, ?_,
    fun h => ⟨sectorPin_none h true, sectorPin_none h false⟩, ?_⟩
  · intro hx
    refine ⟨⟨_, ?_, rfl, rfl⟩, fun h => congrArg _ (homeRead_quiet h), fun h => congrArg _ (homeRead_fires h)⟩
    rw [State.forwardRead]
    refine (State.l1_modL1 s p c line ?_).trans (congrArg (Option.map _) hx)
    exact fun _ => rfl
  · intro i hi
    have he : exec i s = .next (s.loseCopy p c line) := by
      by_cases hn : s.holder p c line = none
      · rw [if_pos hn] at hi
        rcases List.mem_cons.mp hi with rfl | hi
        · rfl
        · obtain rfl := List.mem_singleton.mp hi
          show execL1Eviction p c line s = _
          rw [execL1Eviction, hn]
      · rw [if_neg hn] at hi
        obtain rfl := List.mem_singleton.mp hi
        rfl
    exact ⟨_, he, State.l1_loseCopy s p c line, loseCopy_mem s p c line, fun hy => State.sl_loseCopy s p c line hy⟩
  · intro u hn hk
    obtain ⟨x, hx⟩ := Option.ne_none_iff_exists'.mp hn
    show execL1Eviction p c line s = _
    rw [execL1Eviction, hx]
    dsimp only
    rw [evictHolder, hk]
    rfl
  · intro hy u
    exact ⟨sliceEviction_stays hy, fun he hz hf => (sliceEviction_evicts hy he).trans (congrArg _ (sliceEvict_drops hz hf)),
      fun he hz hf => (sliceEviction_evicts hy he).trans (congrArg _ (sliceEvict_loses hz hf))⟩
  · intro h
    refine ⟨?_, ?_⟩
    · have he := getS_ok (c := c) h
      intro u
      refine ⟨fun hu => he.trans (congrArg _ (opGetS_none hu)), fun hu => ?_⟩
      intro others u1
      exact ⟨fun hx => he.trans (congrArg _ (opGetS_installs hu hx)), fun hx => he.trans (congrArg _ (opGetS_refills hu hx))⟩
    · have he := getM_ok (c := c) (sec := sec) h
      intro r got u
      refine ⟨fun hu => he.trans (congrArg _ (opGetM_none hu)), fun hu => ?_⟩
      intro alone ep u1
      exact ⟨fun c1 hc => invalidateAll_copies hc, fun hx => he.trans (congrArg _ (opGetM_installs hu hx)),
        fun hx => he.trans (congrArg _ (opGetM_upgrades hu hx))⟩
  · intro h
    have he : listWalk s1 p (lineAddr line) w = listed s1 p line w := listWalk_listed_eq s1 p line w
    exact ⟨(gets_fault (sec := sec) h).1.trans (congrArg _ he), (gets_fault h).2.trans (congrArg _ he)⟩
  · refine ⟨walk_cached, fun h => ⟨walk_leaf h, fun hw => ⟨fun hn => ?_, fun hn hl => ?_, fun hn hl => ?_⟩, walk_noPage h⟩⟩
    · exact (walk_poisoned h hw).trans (congrArg _ (listWalk_known hn))
    · exact (walk_poisoned h hw).trans (congrArg _ (listWalk_listed hn hl))
    · exact (walk_poisoned h hw).trans (congrArg _ (listWalk_full hn (Nat.not_lt.mpr hl)))
  · intro hy
    exact ⟨l2Uncorrectable_dirty hy, fun hd => ⟨l2Uncorrectable_moves hy hd, l2Uncorrectable_leaves hy hd, l2Uncorrectable_stays hy hd⟩⟩
  · intro hy
    have he := sectorPin_some hy
    refine ⟨he false, fun h => (he true).trans (congrArg _ (repairSector_off h)), fun hm hn => ⟨fun hl hs => ?_, fun hl => ?_⟩⟩
    · have hs' : s.sl p y.line = some y := by rw [lineStands_line hy]; exact hs
      exact (he true).trans (congrArg _ (repairSector_pins hm hn hl hs'))
    · exact (he true).trans (congrArg _ (repairSector_retires hm hn hl))

end

section
/-! SUPPORT. The trap queue's engine and registers, gang switches and dumps (20 R315 to R323). -/
namespace Sys2Proof.Machine

/-! ## The queue engine (R316, R318) -/

section
variable {s s1 : State} {p : PartId} {index key : Nat} {x : TrapRec}

theorem recordWrite_none (h : unwritten (s.part p) = none) : execRecordWriteDone p index s = .next s := by
  rw [execRecordWriteDone, h]

theorem recordWrite_other {i : Nat} (h : unwritten (s.part p) = some (i, false, x)) (hi : i ≠ index) :
    execRecordWriteDone p index s = .next s := by
  rw [execRecordWriteDone, h]
  exact if_pos (.inl hi)

theorem recordWrite_inError (h : (s.part p).tdisp = .error) : execRecordWriteDone p index s = .next s := by
  obtain ⟨F, hF⟩ : ∃ F, F = atHome := ⟨_, rfl⟩
  rw [execRecordWriteDone, ← hF]
  cases unwritten (s.part p) with
  | none => rfl
  | some e => exact if_pos (.inr h)

variable (h : unwritten (s.part p) = some (index, false, x)) (ht : (s.part p).tdisp ≠ .error)
include h ht

/-- The engine's write of a record, by where its entry lies. -/
theorem recordWrite_goes : execRecordWriteDone p index s =
    match unitKey s p (tqAddr (s.part p).r index) with
    | none => .next (turnBack (listTable s p (tqAddr (s.part p).r index)) p)
    | some key =>
      match atHome s p key (.step (.recordWriteDone p index)) with
      | .error s => .next (s.holdBack (.recordWriteDone p index))
      | .ok u => .next (recordPosted (writeNext (entryWritten (putRecord u p (tqAddr (s.part p).r index) key x) p index) p) p x
          (tqAddr (s.part p).r index)) := by
  obtain ⟨F, hF⟩ : ∃ F, F = atHome := ⟨_, rfl⟩
  rw [execRecordWriteDone, ← hF, h]
  exact if_neg (fun e => e.elim (fun h => h rfl) ht)

theorem recordWrite_lost (hk : unitKey s p (tqAddr (s.part p).r index) = none) :
    execRecordWriteDone p index s = .next (turnBack (listTable s p (tqAddr (s.part p).r index)) p) := by
  rw [recordWrite_goes h ht, hk]

variable (hk : unitKey s p (tqAddr (s.part p).r index) = some key)
include hk

theorem recordWrite_waits (ha : atHome s p key (.step (.recordWriteDone p index)) = .error s1) :
    execRecordWriteDone p index s = .next (s1.holdBack (.recordWriteDone p index)) := by
  rw [recordWrite_goes h ht, hk]
  obtain ⟨F, hF⟩ : ∃ F, F = atHome := ⟨_, rfl⟩
  rw [← hF] at ha ⊢
  dsimp only
  rw [ha]

theorem recordWrite_writes (ha : atHome s p key (.step (.recordWriteDone p index)) = .ok s1) : execRecordWriteDone p index s =
    .next (recordPosted (writeNext (entryWritten (putRecord s1 p (tqAddr (s.part p).r index) key x) p index) p) p x
      (tqAddr (s.part p).r index)) := by
  rw [recordWrite_goes h ht, hk]
  obtain ⟨F, hF⟩ : ∃ F, F = atHome := ⟨_, rfl⟩
  rw [← hF] at ha ⊢
  dsimp only
  rw [ha]

end

section
variable {s : State} {p : PartId} {e : Nat × Bool × TrapRec}

theorem writeNext_done (h : unwritten (s.part p) = none) : writeNext s p = s := by
  rw [writeNext, h]

theorem writeNext_asks (h : unwritten (s.part p) = some e) (he : s.events.contains (.recordWriteDone p e.1) = false) :
    writeNext s p = s.push (.recordWriteDone p e.1) := by
  rw [writeNext, h]
  exact if_neg (Bool.eq_false_iff.mp he)

theorem writeNext_asked (h : unwritten (s.part p) = some e) (he : s.events.contains (.recordWriteDone p e.1) = true) :
    writeNext s p = s := by
  rw [writeNext, h]
  exact if_pos he

end

theorem State.modPart_modPart (s : State) (p : PartId) (f g : Partition → Partition) :
    (s.modPart p f).modPart p g = s.modPart p (fun q => g (f q)) := by
  show State.setPart _ p _ = _
  rw [State.part_modPart]
  show ({ s with parts := (s.parts.set p (f (s.part p))).set p (g (f (s.part p))) } : State) = { s with parts := s.parts.set p (g (f (s.part p))) }
  rw [Vector.set_set]

theorem writeTqhead_eq (s : State) (p : PartId) (v : Word) :
    writeTqhead s p v = s.modPart p (fun q => { q with trap := { q.trap with head := v.toNat % 2 ^ 16 } }) := by
  rw [writeTqhead, field_low]
  rfl

theorem writeTqbase_eq (s : State) (p : PartId) (v : Word) : writeTqbase s p v = s.modPart p (fun q => { q with
    trap := { q.trap with head := 0, tail := 0, alloc := 0, writing := [] },
    r := { q.r with tqbase := (v &&& 0x01FFFFFFFFFFF00F) ||| ((s.part p).r.tqbase &&& 0x800 &&& ~~~(v &&& ~~~s.hwBits p 0 .tqbase)) } }) := by
  rw [writeTqbase, modTrap]
  exact State.modPart_modPart s p _ _

/-! ## Gang switches (R321, R322) -/

section
variable {s s1 : State} {p : PartId} {c : CoreId}

theorem gangSwitch_rests (h : (s.part p).r.gswt = 0 ∨ s.tstamp < (s.part p).r.gswt.toNat ∨ (s.part p).gang ≠ .idle ∨ (s.part p).snap.phase ≠ .idle) :
    execGangSwitch p s = .next s := by
  rw [execGangSwitch]
  refine if_pos ?_
  simp only [Bool.or_eq_true, decide_eq_true_eq, bne_iff_ne, or_assoc]
  exact h

theorem gangSwitch_begins (h : ¬ ((s.part p).r.gswt = 0 ∨ s.tstamp < (s.part p).r.gswt.toNat ∨ (s.part p).gang ≠ .idle ∨
      (s.part p).snap.phase ≠ .idle)) : execGangSwitch p s = .next ((s.modPart p (fun q => { q with
    gang := .draining, ready := [], r := { q.r with gswt := 0 },
    clusters := kmapVals (fun _ (c : Cluster) => { c with w := stopRun c.w }) q.clusters })).revokeEvery p) := by
  rw [execGangSwitch]
  refine if_neg ?_
  simp only [Bool.or_eq_true, decide_eq_true_eq, bne_iff_ne, or_assoc]
  exact h

/-- A core that reports ready. -/
theorem coreDrained_reports (hg : (s.part p).gang = .draining) (hc : coreReady s p c = true) (hr : (s.part p).ready.contains c = false) :
    execCoreDrained p c s = .next (s.modPart p (fun q => { q with ready := q.ready ++ [c] })) := by
  rw [execCoreDrained, hg, hc, hr]
  exact congrArg _ (if_pos rfl)

theorem coreDrained_rests (h : (s.part p).gang ≠ .draining ∨ coreReady s p c = false ∨ (s.part p).ready.contains c = true) :
    execCoreDrained p c s = .next s := by
  rw [execCoreDrained]
  refine congrArg _ (if_neg ?_)
  simp only [Bool.and_eq_true, beq_iff_eq, Bool.not_eq_true']
  rintro ⟨⟨hg, hc⟩, hr⟩
  rcases h with h | h | h
  · exact h hg
  · exact Bool.false_ne_true (h.symm.trans hc)
  · exact Bool.false_ne_true (hr.symm.trans h)

/-- A switch that goes on: every core and engine is ready. -/
def switchReady (s : State) (p : PartId) : Prop :=
  (s.part p).gang = .draining ∧ (s.part p).coreIds.all (fun c => coreReady s p c) = true ∧ enginesReady (s.part p) = true

theorem switchReady_iff : ((s.part p).gang != .draining || !((s.part p).coreIds.all (fun c => coreReady s p c)) ||
    !enginesReady (s.part p)) = true ↔ ¬ switchReady s p := by
  rw [switchReady]
  cases (s.part p).gang <;> cases (s.part p).coreIds.all (fun c => coreReady s p c) <;> cases enginesReady (s.part p) <;> decide

theorem worldExchange_rests (h : ¬ switchReady s p) : execWorldExchange p s = .next s := by
  rw [execWorldExchange]
  exact if_pos (switchReady_iff.mpr h)

variable (h : switchReady s p)
include h

theorem worldExchange_waits (ha : areaHeld s p = some s1) : execWorldExchange p s = .next (s1.holdBack (.worldExchange p)) := by
  obtain ⟨F, hF⟩ : ∃ F, F = areaHeld := ⟨_, rfl⟩
  rw [← hF] at ha
  rw [execWorldExchange, ← hF]
  refine (if_neg (fun e => switchReady_iff.mp e h)).trans ?_
  rw [ha]

/-- The state that a switch saves its world from. -/
def worldSaved (s : State) (p : PartId) : State := saveWorld ((areaDirty s p).revokeEvery p) p

/-- The next world in its place. -/
def worldNext (s : State) (p : PartId) : State :=
  (keepDeliveries (installWorld (worldSaved s p) p (nextWorld (worldSaved s p) p)) p (nextWorld (worldSaved s p) p).kept).modPart p
    (fun q => { q with gang := .restored, ready := [], r := { q.r with wscur := q.r.wsnext, wsnext := q.r.wscur } })

theorem worldExchange_exchanges (ha : areaHeld s p = none) : execWorldExchange p s =
    .next (((worldNext s p).part p).dsets.foldl (fun s e => releaseDset s p e.1) (worldNext s p)) := by
  obtain ⟨F, hF⟩ : ∃ F, F = areaHeld := ⟨_, rfl⟩
  rw [← hF] at ha
  rw [execWorldExchange, ← hF]
  refine (if_neg (fun e => switchReady_iff.mp e h)).trans ?_
  rw [ha]
  rfl

end

section
variable {s : State} {p : PartId}

theorem gangResume_rests (h : (s.part p).gang ≠ .restored) : execGangResume p s = .next s := by
  rw [execGangResume]
  exact if_pos (bne_iff_ne.mpr h)

/-- The deliveries kept for a core's threads applied at its resume. -/
def inboxesApplied (s : State) (p : PartId) : State :=
  (s.part p).coreIds.foldl (fun s c => applyInbox s p c) (s.modPart p (fun q => { q with gang := .idle, spill := [] }))

theorem gangResume_resumes (h : (s.part p).gang = .restored) : execGangResume p s =
    .next ((s.part p).coreIds.foldl (fun s c => kickCore s p c)
      (((inboxesApplied s p).pushAll (s.part p).spill).pushAll (passedBarriers (inboxesApplied s p) p))) := by
  rw [execGangResume]
  exact if_neg (by rw [h]; decide)

end

/-! ## Core dumps (R323) -/

section
variable {s s1 : State} {p : PartId} {d : Dump} {ds : List Dump}

theorem dumpComplete_none (h : (s.part p).dumps = []) : execDumpComplete p s = .next s := by
  rw [execDumpComplete, h]

/-- Where a context's dump lies, and its length there. -/
def dumpBase (s : State) (p : PartId) (d : Dump) : Word := ctxWord s p d.ctx 0x18
def dumpLen (s : State) (p : PartId) (d : Dump) : Nat := (ctxWord s p d.ctx 0x20).toNat

variable (h : (s.part p).dumps = d :: ds)
include h

theorem dumpComplete_cut (hr : (s.part p).rst ≠ .none) : execDumpComplete p s = .next s := by
  rw [execDumpComplete, h]
  exact if_pos (bne_iff_ne.mpr hr)

variable (hr : (s.part p).rst = .none)
include hr

theorem dumpComplete_undecided (hu : recordUndecided (s.part p) d = true) : execDumpComplete p s = .next (s.holdBack (.dumpComplete p)) := by
  rw [execDumpComplete, h]
  exact (if_neg (by rw [hr]; decide)).trans (if_pos hu)

variable (hu : recordUndecided (s.part p) d = false)
include hu

/-- The dump, by its area's pages and what can be written there. -/
theorem dumpComplete_goes : execDumpComplete p s =
    match dumpHeld s p (dumpBase s p d) (Nat.min (dumpLen s p d) 0x1500000) with
    | some s => .next (s.holdBack (.dumpComplete p))
    | none =>
      match writeItems p (dumpBase s p d) (dumpLen s p d) (dumpItems s p d) 0 s with
      | none => .next (startReset (dumpFault s p (dumpBase s p d) (Nat.min (dumpLen s p d) 0x1500000)) p)
      | some (n, u) =>
        let v := postRecord (u.modPart p (fun q => { q with dumps := ds })) p { TrapRec.none with
          code := 0x047, cls := 2, ctx := d.ctx, corr := d.first.corr, d0 := dumpBase s p d, d1 := word n }
        .next (if ds.isEmpty then v else v.push (.dumpComplete p)) := by
  obtain ⟨F, hF⟩ : ∃ F, F = dumpHeld := ⟨_, rfl⟩
  obtain ⟨G, hG⟩ : ∃ G, G = writeItems := ⟨_, rfl⟩
  rw [execDumpComplete, ← hF, ← hG, h]
  exact (if_neg (by rw [hr]; decide)).trans (if_neg (Bool.eq_false_iff.mp hu))

theorem dumpComplete_waits (hd : dumpHeld s p (dumpBase s p d) (Nat.min (dumpLen s p d) 0x1500000) = some s1) :
    execDumpComplete p s = .next (s1.holdBack (.dumpComplete p)) := by
  rw [dumpComplete_goes h hr hu]
  obtain ⟨F, hF⟩ : ∃ F, F = dumpHeld := ⟨_, rfl⟩
  rw [← hF] at hd ⊢
  rw [hd]

variable (hd : dumpHeld s p (dumpBase s p d) (Nat.min (dumpLen s p d) 0x1500000) = none)
include hd

theorem dumpComplete_fails (hw : writeItems p (dumpBase s p d) (dumpLen s p d) (dumpItems s p d) 0 s = none) :
    execDumpComplete p s = .next (startReset (dumpFault s p (dumpBase s p d) (Nat.min (dumpLen s p d) 0x1500000)) p) := by
  rw [dumpComplete_goes h hr hu]
  obtain ⟨F, hF⟩ : ∃ F, F = dumpHeld := ⟨_, rfl⟩
  obtain ⟨G, hG⟩ : ∃ G, G = writeItems := ⟨_, rfl⟩
  rw [← hF] at hd ⊢
  rw [← hG] at hw ⊢
  rw [hd]
  dsimp only
  rw [hw]

/-- The record of a dump that is complete. -/
def dumpPosted (s u : State) (p : PartId) (d : Dump) (ds : List Dump) (n : Nat) : State :=
  postRecord (u.modPart p (fun q => { q with dumps := ds })) p { TrapRec.none with
    code := 0x047, cls := 2, ctx := d.ctx, corr := d.first.corr, d0 := dumpBase s p d, d1 := word n }

theorem dumpComplete_writes {n : Nat} (hw : writeItems p (dumpBase s p d) (dumpLen s p d) (dumpItems s p d) 0 s = some (n, s1)) :
    execDumpComplete p s =
      .next (if ds = [] then dumpPosted s s1 p d ds n else (dumpPosted s s1 p d ds n).push (.dumpComplete p)) := by
  rw [dumpComplete_goes h hr hu]
  obtain ⟨F, hF⟩ : ∃ F, F = dumpHeld := ⟨_, rfl⟩
  obtain ⟨G, hG⟩ : ∃ G, G = writeItems := ⟨_, rfl⟩
  rw [← hF] at hd ⊢
  rw [← hG] at hw ⊢
  rw [hd]
  dsimp only
  rw [hw]
  cases ds <;> rfl

end

end Sys2Proof.Machine

open Sys2Proof Sys2Proof.Machine

/-- Settles O55, from the equation of each step of the queue engine, the gang switch and the dump engine in each of its cases. -/
theorem queueGangSteps : Obligations.QueueGangSteps := by
  unfold Obligations.QueueGangSteps
  intro s s1 p c index key x v d ds
  refine ⟨recordWrite_none, fun i => recordWrite_other, recordWrite_inError, ?_, congrArg _ (writeTqhead_eq s p v), congrArg _ (writeTqbase_eq s p v), gangSwitch_rests, ?_,
    coreDrained_reports, coreDrained_rests, ?_, ?_, gangResume_rests, gangResume_resumes, dumpComplete_none, ?_⟩
  · intro h ht
    refine ⟨recordWrite_lost h ht, recordWrite_waits h ht, fun hk ha => ?_⟩
    have he := recordWrite_writes h ht hk ha
    refine ⟨fun hw => he.trans ?_, fun e hw hc => he.trans ?_, fun e hw hc => he.trans ?_⟩
    · exact congrArg (fun u => Host.Outcome.next (recordPosted u p x _)) (writeNext_done hw)
    · exact congrArg (fun u => Host.Outcome.next (recordPosted u p x _)) (writeNext_asks hw hc)
    · exact congrArg (fun u => Host.Outcome.next (recordPosted u p x _)) (writeNext_asked hw hc)
  · intro h0 ht hg hs
    refine gangSwitch_begins ?_
    rintro (h | h | h | h)
    · exact h0 h
    · exact Nat.not_lt.mpr ht h
    · exact h hg
    · exact h hs
  · intro h
    refine worldExchange_rests ?_
    rintro ⟨hg, hc, he⟩
    rcases h with h | h | h
    · exact h hg
    · exact Bool.false_ne_true (h.symm.trans hc)
    · exact Bool.false_ne_true (h.symm.trans he)
  · intro hg hc he
    exact ⟨worldExchange_waits ⟨hg, hc, he⟩, worldExchange_exchanges ⟨hg, hc, he⟩⟩
  · intro h
    refine ⟨dumpComplete_cut h, dumpComplete_undecided h, dumpComplete_waits h, fun hr hu hd => ⟨dumpComplete_fails h hr hu hd, ?_⟩⟩
    exact dumpComplete_writes h hr hu hd

end

section
/-! SUPPORT. Uncorrectable errors, partition resets, power-on and clocks (21 R339 to R341, 30 R426 to R429). -/
namespace Sys2Proof.Machine

/-! ## What ends the runs of others leaves every partition -/

theorem foldl_parts {α : Type} {f : State → α → State} (h : ∀ s a, (f s a).parts = s.parts) (l : List α) (s : State) :
    (l.foldl f s).parts = s.parts := by
  induction l generalizing s with
  | nil => rfl
  | cons a l ih => exact (ih _).trans (h s a)

theorem replyError_parts (s : State) (m : BitVec 16) (r : TRef) (tid : Nat) : (replyError s m r tid).parts = s.parts := by
  rw [replyError]
  by_cases h : m = s.modid
  · rw [if_pos h]; rfl
  · rw [if_neg h]

theorem sendDelivery_parts (s : State) (m : BitVec 16) (d : Delivery) : (sendDelivery s m d).parts = s.parts := by
  rw [sendDelivery]
  by_cases h : m = s.modid
  · rw [if_pos h]; rfl
  · rw [if_neg h]

theorem refuseActive_parts (s : State) (m : ActiveMsg) : (refuseActive s m).parts = s.parts := by
  rw [refuseActive]
  cases m.reply with
  | none => rfl
  | some d => exact sendDelivery_parts s _ _

theorem serverReply_parts (s : State) (t : Thread) (failed : Bool) : (serverReply s t failed).parts = s.parts := by
  rw [serverReply]
  cases t.serves with
  | none => rfl
  | some m =>
    cases h : m.reply with
    | none => simp only [h]
    | some d => simp only [h]; exact sendDelivery_parts s _ _

theorem refuseWaiters_parts (s : State) (p : PartId) : (refuseWaiters s p).parts = s.parts := by
  rw [refuseWaiters]
  refine foldl_parts (fun s e => foldl_parts (fun s q => ?_) _ s) _ s
  cases q.who with
  | remote m r tid => exact replyError_parts s m r tid
  | thread | record | engine => rfl

theorem abandonRuns_parts (s : State) (p : PartId) : (abandonRuns s p).parts = s.parts := by
  rw [abandonRuns]
  refine (foldl_parts (fun s e => ?_) _ _).trans ?_
  · by_cases h : fromPeer s e.2.srcMod e.2.src.part p = true
    · rw [if_pos h]
      exact serverReply_parts s _ _
    · rw [if_neg h]
  · rw [refuseQueued]
    exact foldl_parts (fun s c => foldl_parts refuseActive_parts _ s) _ s

/-! ## Wiped ranges -/

theorem nmem_iff {l : List Nat} {k : Nat} : nmem l k = true ↔ k ∈ l := by
  induction l with
  | nil => exact ⟨nofun, nofun⟩
  | cons i l ih => rw [nmem, Bool.or_eq_true, beq_iff_eq, ih, List.mem_cons, eq_comm]

theorem nmem_nwipe {l : List Nat} {lo hi k : Nat} (h : lo ≤ k) (hk : k < hi) : nmem (nwipe l lo hi) k = false := by
  rw [← Bool.not_eq_true, nmem_iff, nwipe, List.mem_filter, Bool.or_eq_true, decide_eq_true_iff, decide_eq_true_iff]
  omega

theorem nmem_nwipe_of {l : List Nat} {lo hi k : Nat} (h : nmem l k = false) : nmem (nwipe l lo hi) k = false := by
  rw [← Bool.not_eq_true, nmem_iff] at h ⊢
  exact fun hm => h (List.mem_of_mem_filter hm)

/-- A cell wiped: zero, and empty. -/
def State.blank (s : State) (k : Nat) : Prop := s.byte k = 0 ∧ s.fullBit k = false

theorem State.blank_wipeRange {s : State} {lo hi k : Nat} (h : lo ≤ k) (hk : k / 8 < hi / 8) : (s.wipeRange lo hi).blank k := by
  refine ⟨?_, nmem_nwipe (Nat.div_le_div_right h) hk⟩
  rw [State.byte, State.wipeRange, memByte_memWipe, if_pos ⟨h, by omega⟩]
  rfl

theorem State.blank_wipeRange_of {s : State} {k : Nat} (lo hi : Nat) (h : s.blank k) : (s.wipeRange lo hi).blank k := by
  obtain ⟨hb, hf⟩ := h
  refine ⟨?_, nmem_nwipe_of hf⟩
  rw [State.byte, State.wipeRange, memByte_memWipe]
  by_cases hr : lo ≤ k ∧ k < hi
  · rw [if_pos hr]
    rfl
  · rw [if_neg hr]
    exact hb

/-! ## Partition resets (R340) -/

section
variable {s : State} {p : PartId}

theorem startReset_ignored (h : (s.part p).inService = false ∨ (s.part p).rst ≠ .none) : startReset s p = s := by
  rw [startReset]
  refine if_pos ?_
  rw [Bool.or_eq_true, Bool.not_eq_true', bne_iff_ne]
  exact h

theorem startReset_starts (hs : (s.part p).inService = true) (hr : (s.part p).rst = .none) : startReset s p =
    (((leaveColls s p).pushAll (s.part p).snap.held).modPart p (fun q => { q with
      rst := .refusing, rstBase := q.r.lwbase, snap := { q.snap with held := [] } })).afterTicks 190000 (.resetWipe p) := by
  rw [startReset]
  exact if_neg (by rw [hs, hr]; decide)

theorem resetWipe_rests (h : (s.part p).rst ≠ .refusing) : execResetWipe p s = .next s := by
  rw [execResetWipe]
  exact if_pos (bne_iff_ne.mpr h)

/-- The state of a reset whose windows are wiped. -/
def resetWiped (s : State) (p : PartId) : State := dropSteps (wipeLaunch (wipeWindows (abandonRuns (refuseWaiters s p) p) p) p) p

theorem part_resetWiped : (resetWiped s p).part p = s.part p := by
  have h : (abandonRuns (refuseWaiters s p) p).parts = s.parts := (abandonRuns_parts _ p).trans (refuseWaiters_parts s p)
  rw [State.part, State.part, ← h]
  rfl

/-- The reset's state once its units are at their reset values. -/
def resetFresh (s : State) (p : PartId) : State :=
  ((resetWiped s p).setPart p { freshPartition ((resetWiped s p).part p) p with rst := .wiped }).afterTicks serviceTicks (.resetComplete p)

theorem resetWipe_wipes (h : (s.part p).rst = .refusing) : execResetWipe p s = .next (resetFresh s p) := by
  rw [execResetWipe]
  exact if_neg (by rw [h]; decide)

theorem part_resetFresh : (resetFresh s p).part p = { freshPartition (s.part p) p with rst := .wiped } := by
  rw [resetFresh, State.part_afterTicks, State.part_setPart, part_resetWiped]

theorem blank_resetFresh {k : Nat} (h : keyTcm p 0 0 ≤ k) (hk : k < keySram p 0 + 2 ^ 48) : (resetFresh s p).blank k := by
  have hw : (wipeWindows (abandonRuns (refuseWaiters s p) p) p).blank k := by
    rw [wipeWindows]
    have h0 : keyTcm p 0 0 = spaceBase p 1 := by simp [keyTcm]
    have h3 : keySram p 0 + 2 ^ 48 = spaceBase p 0 + 4 * 2 ^ 48 := by simp only [keySram, spaceBase]; omega
    have h8 : spaceBase p 0 + 4 * 2 ^ 48 = 8 * ((spaceBase p 0 + 4 * 2 ^ 48) / 8) := by simp only [spaceBase]; omega
    refine State.blank_wipeRange (h0 ▸ h) ?_
    rw [h3] at hk
    omega
  have hl : (wipeLaunch (wipeWindows (abandonRuns (refuseWaiters s p) p) p) p).blank k := State.blank_wipeRange_of _ _ hw
  exact hl

theorem resetComplete_rests (h : (s.part p).rst ≠ .wiped) : execResetComplete p s = .next s := by
  rw [execResetComplete]
  exact if_pos (bne_iff_ne.mpr h)

theorem resetComplete_serves (h : (s.part p).rst = .wiped) (hw : (s.part p).wipe = none) : execResetComplete p s =
    .next { s.modPart p (fun q => { q with rst := .none }) with
      hostOut := s.hostOut ++ [.event (s.part p).hostAddr (eventBytes 2 p (s.part p).tdisp s.tstamp)] } := by
  rw [execResetComplete]
  refine (if_neg (by rw [h]; decide)).trans ?_
  have hn : ((s.modPart p (fun q => { q with rst := .none })).part p).wipe = none := by rw [State.part_modPart]; exact hw
  have he : (((s.modPart p (fun q => { q with rst := .none })).hostEvent p 2).part p).wipe.isSome = false := congrArg Option.isSome hn
  refine (congrArg Host.Outcome.next (if_neg (Bool.eq_false_iff.mp he))).trans ?_
  rw [State.hostEvent, State.part_modPart]
  rfl

end

/-! ## Power-on (R427) -/

/-- A module whose partitions are all as power-on leaves them. -/
theorem part_powered (s : State) (l : List PartId) (u : State) (p : PartId) :
    (l.foldl (fun t p => t.setPart p (powerPartition (s.part p) p)) u).part p =
      if p ∈ l then powerPartition (s.part p) p else u.part p := by
  induction l generalizing u with
  | nil => rfl
  | cons q l ih =>
    rw [List.foldl_cons, ih]
    by_cases hl : p ∈ l
    · rw [if_pos hl, if_pos (List.mem_cons_of_mem _ hl)]
    · rw [if_neg hl]
      by_cases hq : p = q
      · subst hq
        rw [if_pos List.mem_cons_self, State.part_setPart]
      · rw [if_neg (fun h => (List.mem_cons.mp h).elim hq hl), State.part_setPart_ne _ _ hq]

theorem mem_allParts (p : PartId) : p ∈ allParts :=
  List.mem_filterMap.mpr ⟨p.val, List.mem_range.mpr p.isLt, dif_pos p.isLt⟩

/-- Power-on, but for its partitions. -/
theorem powered_rest (s : State) (l : List PartId) (u : State) {α : Type} (π : State → α) (hπ : ∀ t p q, π (State.setPart t p q) = π t) :
    π (l.foldl (fun t p => t.setPart p (powerPartition (s.part p) p)) u) = π u := by
  induction l generalizing u with
  | nil => rfl
  | cons q l ih => exact (ih _).trans (hπ u q _)

/-! ## Errors, scrubs and power gating -/

section
variable {s : State} {p : PartId}

theorem registerError_kills {r : TRef} {t : Thread} (h : s.thread r = some t) :
    registerError s r = killThread (postRecord s r.part (TrapRec.ofThread r t 0x037 1 t.pc 0)) r := by
  rw [registerError, h]

theorem windowWord_poisons {key : Nat} (h : key / 2 ^ 48 % 4 ≠ 0) :
    execUncorrectableError (.windowWord key) s = .next (s.poisonWord key) := by
  rw [execUncorrectableError]
  exact congrArg _ (if_neg h)

theorem l1Data_clean {c : CoreId} {line : Nat} {x : L1Line} (h : s.l1 p c line = some x) (hm : x.st ≠ .m) (ho : x.st ≠ .o) :
    execUncorrectableError (.l1Data p c line) s = .next (s.modPart p (fun q => { q with corrected := q.corrected + 1 })) := by
  rw [execUncorrectableError, h]
  refine congrArg _ (if_neg ?_)
  rw [Bool.or_eq_true, beq_iff_eq, beq_iff_eq]
  exact fun e => e.elim hm ho

/-- A scrub pass that counts anew. -/
def scrubbed (s : State) (p : PartId) : State := s.modPart p (fun q => { q with corrections := [] })

theorem slices_scrubbed : ((scrubbed s p).part p).slices = (s.part p).slices := by rw [scrubbed, State.part_modPart]

theorem scrubPass_fires {y : SliceLine} (h : (s.part p).slices.find? (fun l => errFires (scrubbed s p) p l.line 3) = some y) :
    execScrubPass p s = .next (homeRead (scrubbed s p) p y.line 3 0) := by
  rw [← slices_scrubbed] at h
  rw [execScrubPass, ← scrubbed, h]

theorem scrubPass_quiet (h : (s.part p).slices.find? (fun l => errFires (scrubbed s p) p l.line 3) = none) :
    execScrubPass p s = .next (scrubbed s p) := by
  rw [← slices_scrubbed] at h
  rw [execScrubPass, ← scrubbed, h]

theorem core_modAcc (s : State) (p : PartId) (k : ClusterId) (i : Nat) (f : AccSlot → AccSlot) (c : CoreId) :
    (s.modAcc p k i f).core p c = s.core p c := State.core_modPart_of s p _ (fun _ => rfl) p c

/-- Orphaned slots leave every core and memory. -/
theorem orphanSlots_keeps (s : State) (p : PartId) (c c' : CoreId) (sel : AccSlot → Bool) :
    (orphanSlots s p c sel).core p c' = s.core p c' ∧ (orphanSlots s p c sel).mem = s.mem := by
  rw [orphanSlots]
  cases clusterOf c with
  | none => exact ⟨rfl, rfl⟩
  | some k =>
    have step : ∀ (u : State) (i : Nat), ((if (u.acc p k i).tagged && sel (u.acc p k i)
        then u.modAcc p k i (fun a => { a with orphaned := true }) else u).core p c' = u.core p c') ∧
        (if (u.acc p k i).tagged && sel (u.acc p k i) then u.modAcc p k i (fun a => { a with orphaned := true }) else u).mem = u.mem := by
      intro u i
      by_cases h : ((u.acc p k i).tagged && sel (u.acc p k i)) = true
      · rw [if_pos h]
        exact ⟨core_modAcc u p k i _ c', rfl⟩
      · rw [if_neg h]
        exact ⟨rfl, rfl⟩
    exact ⟨(step _ _).1.trans (step _ _).1, (step _ _).2.trans (step _ _).2⟩

end

end Sys2Proof.Machine

open Sys2Proof Sys2Proof.Machine

/-- Settles O56, from the equation of each step; what a reset wipes reads as zero, and what power-on makes of each partition stands. -/
theorem resetPowerSteps : Obligations.ResetPowerSteps := by
  unfold Obligations.ResetPowerSteps
  intro s p c r t line key x y trained lower q
  refine ⟨?_, windowWord_poisons, l1Data_clean, rfl, ?_, resetWipe_rests, ?_, resetComplete_serves, resetComplete_rests, ?_, ?_, ?_, ?_, ?_,
    ?_, rfl⟩
  · intro h e he
    have hk : execUncorrectableError (.generalReg r) s = _ := congrArg Host.Outcome.next (registerError_kills h)
    rcases List.mem_cons.mp he with rfl | he
    · exact hk
    · obtain rfl := List.mem_singleton.mp he
      exact hk
  · intro i hi
    have he : exec i s = .next (startReset s p) := by
      rcases List.mem_cons.mp hi with rfl | hi
      · rfl
      · rcases List.mem_cons.mp hi with rfl | hi
        · rfl
        · obtain rfl := List.mem_singleton.mp hi
          rfl
    exact ⟨fun h => he.trans (congrArg _ (startReset_ignored h)), fun hs hr => he.trans (congrArg _ (startReset_starts hs hr))⟩
  · intro h
    refine ⟨resetFresh s p, resetWipe_wipes h, ?_, ?_, ?_, ?_, ?_, ?_, ?_, fun k hk hl => blank_resetFresh hk hl⟩ <;>
      rw [part_resetFresh] <;> rfl
  · refine ⟨_, rfl, ?_, ?_, ?_, ?_, fun p1 => ?_⟩
    · exact powered_rest s _ _ (fun u => u.bringUp) (fun _ _ _ => rfl)
    · exact powered_rest s _ _ (fun u => u.mem) (fun _ _ _ => rfl)
    · exact powered_rest s _ _ (fun u => u.cycle) (fun _ _ _ => rfl)
    · exact powered_rest s _ _ (fun u => u.time) (fun _ _ _ => rfl)
    · rw [part_powered, if_pos (mem_allParts p1)]
      exact ⟨rfl, rfl, rfl, rfl⟩
  · exact fun h => if_pos h
  · exact fun h => if_neg h
  · exact ⟨scrubPass_fires, scrubPass_quiet⟩
  · show Host.Outcome.next _ = Host.Outcome.next _
    have hm : Nat.min (s.clockSteps + 1) 15 = if s.clockSteps < 15 then s.clockSteps + 1 else 15 := by
      show min (s.clockSteps + 1) 15 = _
      by_cases h : s.clockSteps < 15
      · rw [if_pos h]; omega
      · rw [if_neg h]; omega
    rw [hm]
  · refine ⟨_, rfl, ?_, ?_, ?_⟩
    · rw [(orphanSlots_keeps _ p c c _).1, State.core_modCoreC]
    · rw [(orphanSlots_keeps _ p c c _).1, State.core_modCoreC]
    · rw [(orphanSlots_keeps _ p c c _).2]
      rfl

end

section
/-! SUPPORT. What reaches a partition from others: remote requests and their replies, collectives' blocks, failures (25 R368 to R378). -/
namespace Sys2Proof.Machine

/-- A partition that is open to the outside. -/
def openTo (q : Partition) : Prop := q.inService = true ∧ q.rst = .none ∧ q.wipe.isSome = false ∧ q.tdisp ≠ .error

/-- A sender of this module, or one that the partition has a key for. -/
def knownTo (s : State) (p : PartId) (m : BitVec 16) (src : PartId) : Prop :=
  m = s.modid ∨ (s.part p).linkKeys.contains (m, src) = true

theorem shut_iff (q : Partition) : shut q = true ↔ ¬ openTo q := by
  rw [shut, openTo]
  cases q.inService <;> cases q.rst <;> cases q.wipe.isSome <;> cases q.tdisp <;> decide

theorem shut_false {q : Partition} (h : openTo q) : shut q = false := Bool.eq_false_iff.mpr fun e => (shut_iff q).mp e h

theorem authentic_iff (s : State) (p : PartId) (m : BitVec 16) (src : PartId) : authentic s p m src = true ↔ knownTo s p m src := by
  rw [authentic, keyed, Bool.or_eq_true, beq_iff_eq]
  exact Iff.rfl

/-! ## Remote requests (R370) -/

/-- A request that its target takes: performed and answered, or waiting at its home. -/
def remoteGoes (s : State) (q : RemoteReq) (taken : State) : Out :=
  match remotePerform s q with
  | .later u =>
    if recording (s.part q.dst) = true ∧ q.arrived = false then
      match remotePerform (blkCounted taken q) q with
      | .later u => .next (u.holdBack (.remoteRequest { q with arrived := true }))
      | x => .next (answerRemote q x)
    else .next (u.holdBack (.remoteRequest q))
  | _ => .next (answerRemote q (remotePerform (blkCounted taken q) q))

theorem remoteTaken_goes (s taken : State) (q : RemoteReq) : Host.Outcome.next (remoteTaken s taken q) = remoteGoes s q taken := by
  rw [remoteTaken, remoteGoes]
  cases remotePerform s q with
  | later u =>
    dsimp only
    by_cases h : recording (s.part q.dst) = true ∧ q.arrived = false
    · rw [if_pos h, if_pos (by rw [h.1, h.2]; rfl)]
      cases remotePerform (blkCounted taken q) q <;> rfl
    · rw [if_neg h, if_neg (by rw [Bool.and_eq_true, Bool.not_eq_true']; exact h)]
  | reply | data | error | listed => rfl

section
variable {s s1 : State} {q : RemoteReq}

theorem remoteRequest_dropped (h : q.modid ≠ s.modid ∨ ¬ knownTo s q.dst q.srcMod q.src.part) : execRemoteRequest q s = .next s := by
  rw [execRemoteRequest]
  refine if_pos (h.imp id fun h => ?_)
  rw [Bool.not_eq_true', ← Bool.not_eq_true, authentic_iff]
  exact h

variable (hm : q.modid = s.modid) (hk : knownTo s q.dst q.srcMod q.src.part)
include hm hk

theorem remoteRequest_known : ¬ (q.modid ≠ s.modid ∨ (!authentic s q.dst q.srcMod q.src.part) = true) := by
  rw [(authentic_iff ..).mpr hk]
  exact fun h => h.elim (fun h => h hm) nofun

theorem remoteRequest_refused (h : ¬ openTo (s.part q.dst) ∨ (s.part q.dst).r.xport.getLsbD 63 = false) :
    execRemoteRequest q s = .next (replyError s q.srcMod q.src q.srcTid) := by
  rw [execRemoteRequest]
  refine (if_neg (remoteRequest_known hm hk)).trans (if_pos ?_)
  rw [remoteOpen, Bool.not_and, Bool.or_eq_true, Bool.not_not, Bool.not_eq_true', shut_iff]
  exact h

variable (ho : openTo (s.part q.dst)) (hx : (s.part q.dst).r.xport.getLsbD 63 = true)
include ho hx

/-- A request at an open partition with its span exported. -/
theorem remoteRequest_open : execRemoteRequest q s =
    if !fromPeer s q.srcMod q.src.part q.dst then .next (remoteTaken s s q)
    else if q.arrived then .next (remoteTaken s s q)
    else if heldBehind s (.remoteRequest q) then .next (s.holdBack (.remoteRequest q))
    else
      match takeInput s q.dst (peerKey q.srcMod q.src.part) (reqChan q) (reqColour q) (.remoteRequest q) with
      | none => .next (holdInput s q.dst (.remoteRequest q))
      | some taken => .next (remoteTaken s taken q) := by
  have hr : remoteOpen (s.part q.dst) = true := by rw [remoteOpen, shut_false ho, bit, hx]; rfl
  rw [execRemoteRequest]
  exact (if_neg (remoteRequest_known hm hk)).trans (if_neg (by rw [hr]; decide))

theorem remoteRequest_goes (h : fromPeer s q.srcMod q.src.part q.dst = false ∨ q.arrived = true) :
    execRemoteRequest q s = remoteGoes s q s := by
  rw [remoteRequest_open hm hk ho hx, ← remoteTaken_goes]
  by_cases hf : fromPeer s q.srcMod q.src.part q.dst = true
  · rw [if_neg (by rw [hf]; decide), if_pos (h.resolve_left fun e => Bool.false_ne_true (e.symm.trans hf))]
  · rw [if_pos (by rw [Bool.eq_false_iff.mpr hf]; rfl)]

variable (hf : fromPeer s q.srcMod q.src.part q.dst = true) (ha : q.arrived = false)
include hf ha

theorem remoteRequest_behind (hb : heldBehind s (.remoteRequest q) = true) : execRemoteRequest q s = .next (s.holdBack (.remoteRequest q)) := by
  rw [remoteRequest_open hm hk ho hx, if_neg (by rw [hf]; decide), if_neg (Bool.eq_false_iff.mp ha), if_pos hb]

variable (hb : heldBehind s (.remoteRequest q) = false)
include hb

theorem remoteRequest_held
    (ht : takeInput s q.dst (peerKey q.srcMod q.src.part) (reqChan q) (reqColour q) (.remoteRequest q) = none) :
    execRemoteRequest q s = .next (holdInput s q.dst (.remoteRequest q)) := by
  rw [remoteRequest_open hm hk ho hx, if_neg (by rw [hf]; decide), if_neg (Bool.eq_false_iff.mp ha), if_neg (Bool.eq_false_iff.mp hb), ht]

theorem remoteRequest_taken
    (ht : takeInput s q.dst (peerKey q.srcMod q.src.part) (reqChan q) (reqColour q) (.remoteRequest q) = some s1) :
    execRemoteRequest q s = remoteGoes s q s1 := by
  rw [remoteRequest_open hm hk ho hx, if_neg (by rw [hf]; decide), if_neg (Bool.eq_false_iff.mp ha), if_neg (Bool.eq_false_iff.mp hb), ht]
  exact remoteTaken_goes s s1 q

end

/-! ## Requests performed at their home (R368, R370) -/

section
variable {s s1 : State} {p : PartId} {off n : Nat} {corr : BitVec 32} {l : Leaf}

theorem remoteLine_none (hl : remoteLeaf s p off needR = none) : remoteLine s p off n corr = .error (remoteWalked s p off) := by
  rw [remoteLine, hl]

theorem remoteLine_ok (hl : remoteLeaf s p off needR = some l)
    (hr : reachRead s p l (va57 (xportAddr (s.part p) off)) n corr = .ok s1) : remoteLine s p off n corr =
      .data (memBytes s1.mem (keyMain p (l.phys (va57 (xportAddr (s.part p) off)))) n) s1 := by
  obtain ⟨F, hF⟩ : ∃ F, F = reachRead := ⟨_, rfl⟩
  rw [← hF] at hr
  rw [remoteLine, ← hF, hl]
  dsimp only
  rw [hr]

theorem remoteReach_ok {need : BitVec 4} {w : PageWriter} (go : Bool → Nat → State → Served) (hl : remoteLeaf s p off need = some l)
    (hr : reachWrite s p l (va57 (xportAddr (s.part p) off)) w = .ok s1) : remoteReach s p off need w go =
      go (lineHits s p l (va57 (xportAddr (s.part p) off))) (keyMain p (l.phys (va57 (xportAddr (s.part p) off)))) s1 := by
  obtain ⟨F, hF⟩ : ∃ F, F = reachWrite := ⟨_, rfl⟩
  rw [← hF] at hr
  rw [remoteReach, ← hF, hl]
  dsimp only
  rw [hr]

end

section
variable {s s1 : State} {q : RemoteReq} {l : Leaf}

/-- A load at its home: its bytes' line read, and the word where it then stands. -/
def loadServed (s : State) (q : RemoteReq) (ty : LdType) : Served :=
  match remoteLine s q.dst q.off.toNat ty.bytes q.corr with
  | .data _ s =>
    match remoteLeaf s q.dst q.off.toNat needR with
    | some l => .reply (some (s.readMem (keyMain q.dst (l.phys (va57 (xportAddr (s.part q.dst) q.off.toNat)))) ty.bytes)) s
    | none => .error s
  | x => x

theorem remotePerform_load {ty : LdType} (ho : q.op = .load ty) : remotePerform s q = loadServed s q ty := by
  obtain ⟨F, hF⟩ : ∃ F, F = remoteLine := ⟨_, rfl⟩
  rw [remotePerform, loadServed, ← hF, ho] <;> rfl

theorem remotePerform_loadLost {ty : LdType} (ho : q.op = .load ty) (hl : remoteLeaf s q.dst q.off.toNat needR = none) :
    remotePerform s q = .error (listTable s q.dst (xportAddr (s.part q.dst) q.off.toNat)) := by
  rw [remotePerform_load ho, loadServed, remoteLine_none hl]
  rfl

theorem remotePerform_loads {ty : LdType} (ho : q.op = .load ty) (hl : remoteLeaf s q.dst q.off.toNat needR = some l)
    (hr : reachRead s q.dst l (va57 (xportAddr (s.part q.dst) q.off.toNat)) ty.bytes q.corr = .ok s1)
    (hl1 : remoteLeaf s1 q.dst q.off.toNat needR = some l) (he : (s1.part q.dst).r = (s.part q.dst).r) : remotePerform s q =
      .reply (some (word (memRead s1.mem (keyMain q.dst (l.phys (va57 (xportAddr (s.part q.dst) q.off.toNat)))) ty.bytes))) s1 := by
  have hx : xportAddr (s1.part q.dst) q.off.toNat = xportAddr (s.part q.dst) q.off.toNat := by rw [xportAddr, xportAddr, he]
  rw [remotePerform_load ho, loadServed, remoteLine_ok hl hr]
  dsimp only
  rw [hl1, hx]
  rfl

theorem remotePerform_stores {st : StType} {v : Word} (ho : q.op = .store st v) (hl : remoteLeaf s q.dst q.off.toNat needW = some l)
    (hr : reachWrite s q.dst l (va57 (xportAddr (s.part q.dst) q.off.toNat)) (.step (beatless (.remoteRequest q))) = .ok s1) :
    remotePerform s q =
      .reply none (putBytes s1 q.dst (keyMain q.dst (l.phys (va57 (xportAddr (s.part q.dst) q.off.toNat)))) st.bytes v) := by
  rw [remotePerform, ho]
  exact remoteReach_ok (fun _ k s => .reply none (putBytes s q.dst k st.bytes v)) hl hr

/-- An AMO at its home, once its word is read there. -/
def amoServed (u : State) (q : RemoteReq) (op : AmoOp) (sz : AmoSize) (v c : Word) (hit : Bool) (k : Nat) : Served :=
  if (if hit then readHome u q.dst k q.corr else u).linePoisoned k then .error (if hit then readHome u q.dst k q.corr else u)
  else .reply (some (amoOld op sz (amoAt (if hit then readHome u q.dst k q.corr else u) k op sz v c).1))
    (amoAt (if hit then readHome u q.dst k q.corr else u) k op sz v c).2

theorem remotePerform_amo {op : AmoOp} {sz : AmoSize} {v c : Word} (ho : q.op = .amo op sz v c)
    (hl : remoteLeaf s q.dst q.off.toNat needRW = some l)
    (hr : reachWrite s q.dst l (va57 (xportAddr (s.part q.dst) q.off.toNat)) (.step (beatless (.remoteRequest q))) = .ok s1) :
    remotePerform s q = amoServed s1 q op sz v c (lineHits s q.dst l (va57 (xportAddr (s.part q.dst) q.off.toNat)))
      (keyMain q.dst (l.phys (va57 (xportAddr (s.part q.dst) q.off.toNat)))) := by
  rw [remotePerform, ho]
  exact remoteReach_ok (fun hit k u => amoServed u q op sz v c hit k) hl hr

end

/-! ## Replies (R370) -/

section
variable {s : State} {r : TRef} {t : Thread} {x : Pend} (ht : s.thread r = some t) (hp : t.pend = some x)
include ht hp

theorem errorReply_faults (hd : x.dest.isSome = true) : execRemoteErrorReply r t.tid s = .next (takeTrap s r .poison (some x.addr)) := by
  obtain ⟨d, hd⟩ := Option.isSome_iff_exists.mp hd
  rw [execRemoteErrorReply, ht]
  refine (if_pos rfl).trans ?_
  rw [hp]
  dsimp only
  rw [hd]

theorem errorReply_commits (hd : x.dest = none) (hc : x.notBefore ≤ s.cycle) : execRemoteErrorReply r t.tid s =
    .next (commitAt (s.setThread r { t with readyAt := Nat.max t.readyAt (s.cycle + 1) }) r x.size x.words x.commit) := by
  rw [execRemoteErrorReply, ht]
  refine (if_pos rfl).trans ?_
  rw [hp]
  dsimp only
  rw [hd]
  dsimp only
  rw [execMemoryReply, ht]
  dsimp only
  rw [hp]
  exact if_neg (Nat.not_lt.mpr hc)

end

/-! ## Collectives' blocks (R376) -/

section
variable {s s1 : State} {p : PartId} {m : CollMsg}

theorem collContribution_within (h : m.again = true ∨ fromPeer s m.srcMod m.src p = false) :
    execCollContribution p m s = .next (arrived s p m) := by
  rw [execCollContribution]
  refine if_pos ?_
  rw [Bool.or_eq_true, Bool.not_eq_true']
  exact h

theorem collContribution_enters (ho : openTo (s.part p)) (hk : knownTo s p m.srcMod m.src) :
    ¬ (shut (s.part p) || !authentic s p m.srcMod m.src) = true := by
  rw [shut_false ho, (authentic_iff ..).mpr hk]
  decide

section
variable (ha : m.again = false) (hf : fromPeer s m.srcMod m.src p = true)
include ha hf

theorem collContribution_alien : ¬ (m.again || !fromPeer s m.srcMod m.src p) = true := by
  rw [ha, hf]
  decide

theorem collContribution_dropped (h : ¬ openTo (s.part p) ∨ ¬ knownTo s p m.srcMod m.src) : execCollContribution p m s = .next s := by
  rw [execCollContribution]
  refine (if_neg (collContribution_alien ha hf)).trans (if_pos ?_)
  rw [Bool.or_eq_true, Bool.not_eq_true', ← Bool.not_eq_true, shut_iff, authentic_iff]
  exact h

variable (ho : openTo (s.part p)) (hk : knownTo s p m.srcMod m.src)
include ho hk

theorem collContribution_word (hm : m.miss.isSome = true) : execCollContribution p m s = .next (arrived s p m) := by
  rw [execCollContribution]
  exact (if_neg (collContribution_alien ha hf)).trans ((if_neg (collContribution_enters ho hk)).trans (if_pos hm))

variable (hm : m.miss = none)
include hm

theorem collContribution_held
    (ht : takeInput s p (peerKey m.srcMod m.src) .blk (some m.colour) (.collContribution p m) = none) :
    execCollContribution p m s = .next (holdInput s p (.collContribution p m)) := by
  rw [execCollContribution]
  refine (if_neg (collContribution_alien ha hf)).trans ((if_neg (collContribution_enters ho hk)).trans ((if_neg ?_).trans ?_))
  · rw [hm]
    decide
  · rw [ht]

theorem collContribution_taken
    (ht : takeInput s p (peerKey m.srcMod m.src) .blk (some m.colour) (.collContribution p m) = some s1) :
    execCollContribution p m s = .next (arrived (blkArrives s1 p (peerKey m.srcMod m.src) m.colour) p m) := by
  rw [execCollContribution]
  refine (if_neg (collContribution_alien ha hf)).trans ((if_neg (collContribution_enters ho hk)).trans ((if_neg ?_).trans ?_))
  · rw [hm]
    decide
  · rw [ht]

end

section
variable {u : State} (hm : m.miss = none)
include hm

theorem arrived_late (h : (u.part p).collMissed.contains (blockOf m) = true) :
    arrived u p m = u.modPart p (fun q => { q with collMissed := q.collMissed.erase (blockOf m) }) := by
  rw [arrived, hm]
  exact if_pos h

variable (h : (u.part p).collMissed.contains (blockOf m) = false)
include h

theorem arrived_taken : arrived u p m = takeBlock u p m := by
  rw [arrived, hm]
  exact if_neg (Bool.eq_false_iff.mp h)

theorem arrived_early (hc : (u.part p).colls.find? (fun c => wants c m) = none) :
    arrived u p m = u.modPart p (fun q => { q with collEarly := q.collEarly ++ [m] }) := by
  rw [arrived_taken hm h, takeBlock, hc]

/-- A collective with a block taken. -/
def blockTaken (c : Coll) (m : CollMsg) : Coll := { c with got := kput c.got m.rank m.data, mismatch := c.mismatch || !agrees c m }

/-- The partition's collectives with a block taken in one of them. -/
def collsTaken (u : State) (p : PartId) (c : Coll) (m : CollMsg) : State :=
  u.modPart p (fun q => { q with colls := q.colls.map (fun x => if x.seq = c.seq then blockTaken c m else x) })

theorem arrived_joins {co : Coll} (hc : (u.part p).colls.find? (fun c => wants c m) = some co) : arrived u p m =
    if (blockTaken co m).got.length = (blockTaken co m).gsize then (collsTaken u p co m).push (.collComplete p co.seq)
    else collsTaken u p co m := by
  rw [arrived_taken hm h, takeBlock, hc]
  rfl

end

theorem arrived_missing {rank : Nat} {co : Coll} (hm : m.miss = some rank)
    (hc : (s.part p).colls.find? (fun c => forColl c m && c.missed.isNone) = some co) : arrived s p m = missRank s p co rank := by
  rw [arrived, hm]
  dsimp only
  rw [takeMiss, hc]

end

/-! ## The end of a collective (R377, R378) -/

/-- The bytes that the switch delivers, from a number on. -/
def switchBytes (n free : Nat) : List Byte := if n = 0 then [] else (List.range n).map (fun i => Config.switchByte (free + i))

theorem length_switchBytes (n free : Nat) : (switchBytes n free).length = n := by
  rw [switchBytes]
  by_cases h : n = 0
  · rw [if_pos h, h]
    rfl
  · rw [if_neg h, List.length_map, List.length_range]

/-- A collective's result written: to STAGE, then to DST, its last word last. -/
def collWritten (p : PartId) (co : Coll) (w : PageWriter) (b : List Byte) (s : State) : State :=
  engineWrite p co (collId co.seq.toNat) w true
    (linePieces (co.dst + word (co.dstBytes - lastWord co.dst co.dstBytes)) (lastWord co.dst co.dstBytes))
    (b.drop (co.dstBytes - lastWord co.dst co.dstBytes))
    (engineWrite p co (collId co.seq.toNat) w true (linePieces co.dst (co.dstBytes - lastWord co.dst co.dstBytes)) b
      (engineWrite p co (collId co.seq.toNat) w false (linePieces co.stage co.dstBytes) b s))

section
variable {s s1 : State} {p : PartId} {co : Coll}

section
variable (hc : (s.part p).colls.find? (fun c => c.seq == co.seq && c.got.length == c.gsize && c.missed.isNone) = some co)
include hc

theorem collComplete_disagrees (hm : co.mismatch = true) : execCollComplete p co.seq s = .next (endColl s p co 3) := by
  rw [execCollComplete, hc]
  exact if_pos hm

variable (hm : co.mismatch = false)
include hm

theorem collComplete_waits (hh : collHeld s p co (.step (.collComplete p co.seq)) = some s1) :
    execCollComplete p co.seq s = .next (s1.holdBack (.collComplete p co.seq)) := by
  obtain ⟨F, hF⟩ : ∃ F, F = collHeld := ⟨_, rfl⟩
  rw [← hF] at hh
  rw [execCollComplete, ← hF, hc]
  refine (if_neg (Bool.eq_false_iff.mp hm)).trans ?_
  rw [hh]

variable (hh : collHeld s p co (.step (.collComplete p co.seq)) = none)
include hh

theorem collComplete_switch (hi : co.insw = true) : execCollComplete p co.seq s =
    .next (endColl (collWritten p co (.step (.collComplete p co.seq)) (switchBytes co.dstBytes s.free) { s with free := s.free + co.dstBytes })
      p co 8) := by
  obtain ⟨F, hF⟩ : ∃ F, F = collHeld := ⟨_, rfl⟩
  rw [← hF] at hh
  rw [execCollComplete, ← hF, hc]
  refine (if_neg (Bool.eq_false_iff.mp hm)).trans ?_
  rw [hh, hi]
  rfl

theorem collComplete_result (hi : co.insw = false) : execCollComplete p co.seq s =
    .next (endColl (collWritten p co (.step (.collComplete p co.seq)) (if co.dstBytes = 0 then [] else collResult co) s) p co 0) := by
  obtain ⟨F, hF⟩ : ∃ F, F = collHeld := ⟨_, rfl⟩
  rw [← hF] at hh
  rw [execCollComplete, ← hF, hc]
  refine (if_neg (Bool.eq_false_iff.mp hm)).trans ?_
  rw [hh, hi]
  rfl

end

variable (hc : (s.part p).colls.find? (fun c => c.seq == co.seq) = some co)
include hc

theorem collTimeout_decides {rank : Nat} (hm : co.missed = none) (hl : collLate s co = true) (hr : missingRank co = some rank) :
    execCollTimeout p co.seq s = .next (tellMissing (missRank s p co rank) p co rank) := by
  rw [execCollTimeout, hc]
  dsimp only
  rw [hm]
  dsimp only
  rw [if_pos hl, hr]

theorem collTimeout_early (hm : co.missed = none) (hl : collLate s co = false) : execCollTimeout p co.seq s = .next s := by
  rw [execCollTimeout, hc]
  dsimp only
  rw [hm]
  dsimp only
  rw [if_neg (Bool.eq_false_iff.mp hl)]

variable {rank : Nat} (hm : co.missed = some rank)
include hm

theorem collTimeout_waits (hh : collHeld s p co (.step (.collTimeout p co.seq)) = some s1) :
    execCollTimeout p co.seq s = .next (s1.holdBack (.collTimeout p co.seq)) := by
  rw [execCollTimeout, hc]
  dsimp only
  rw [hm]
  dsimp only
  refine congrArg _ ?_
  obtain ⟨F, hF⟩ : ∃ F, F = collHeld := ⟨_, rfl⟩
  rw [← hF] at hh
  rw [failColl, ← hF, hh]

/-- What a failed collective leaves in STAGE. -/
def stageBytes (n free : Nat) : List Byte := (List.range n).map (fun i => Config.stageByte (free + i))

/-- STAGE written by a collective that fails. -/
def stageLeft (s : State) (p : PartId) (co : Coll) : State :=
  engineWrite p co (collId co.seq.toNat) (.step (.collTimeout p co.seq)) false (linePieces co.stage co.dstBytes) (stageBytes co.dstBytes s.free) s

theorem collTimeout_fails (hh : collHeld s p co (.step (.collTimeout p co.seq)) = none) : execCollTimeout p co.seq s =
    .next (endColl { stageLeft s p co with free := (stageLeft s p co).free + co.dstBytes } p co (word (rank * 2 ^ 28 + 1))) := by
  rw [execCollTimeout, hc]
  dsimp only
  rw [hm]
  dsimp only
  refine congrArg _ ?_
  obtain ⟨F, hF⟩ : ∃ F, F = collHeld := ⟨_, rfl⟩
  rw [← hF] at hh
  rw [failColl, ← hF, hh]
  rfl

end

end Sys2Proof.Machine

open Sys2Proof Sys2Proof.Machine

/-- Settles O57, from the equation of each request, block and failure in each state of its partition. -/
theorem fabricSteps : Obligations.FabricSteps := by
  unfold Obligations.FabricSteps
  intro s s1 q l ty st op sz v c r t x p m co rank modid dst a key peer alien isOpen known put
  refine ⟨remoteRequest_dropped, fun hm hk => ⟨remoteRequest_refused hm hk, fun ho hx => ?_⟩, remotePerform_loadLost, remotePerform_loads,
    remotePerform_stores, ?_, fun ht hp => ⟨errorReply_faults ht hp, errorReply_commits ht hp⟩, collContribution_dropped,
    fun ha hf ho hk hm => collContribution_held ha hf ho hk hm, ?_, ?_, ?_, ?_, rfl⟩
  · intro go
    exact ⟨remoteRequest_goes hm hk ho hx, remoteRequest_behind hm hk ho hx, remoteRequest_held hm hk ho hx,
      remoteRequest_taken hm hk ho hx⟩
  · intro ho hl hr
    have he := remotePerform_amo ho hl hr
    intro u
    exact ⟨fun hp => he.trans (if_pos hp), fun hp => he.trans (if_neg (Bool.eq_false_iff.mp hp))⟩
  · intro hm u hu
    have he : exec (.collContribution p m) s = .next (arrived u p m) := by
      rcases hu with ⟨h, rfl⟩ | ⟨ha, hf, ho, hk, ht, rfl⟩
      · exact collContribution_within h
      · exact collContribution_taken ha hf ho hk hm ht
    exact ⟨fun h => he.trans (congrArg _ (arrived_late hm h)), fun h hc => he.trans (congrArg _ (arrived_early hm h hc)),
      fun h hc => he.trans (congrArg _ (arrived_joins hm h hc))⟩
  · intro hm h hc
    have he : exec (.collContribution p m) s = .next (arrived s p m) := by
      by_cases hw : m.again = true ∨ fromPeer s m.srcMod m.src p = false
      · exact collContribution_within hw
      · rw [not_or, Bool.not_eq_true, Bool.not_eq_false] at hw
        obtain ⟨ho, hk⟩ := (h.resolve_left fun e => Bool.false_ne_true (hw.1.symm.trans e)).resolve_left
          fun e => Bool.false_ne_true (e.symm.trans hw.2)
        exact collContribution_word hw.1 hw.2 ho hk (by rw [hm]; rfl)
    exact he.trans (congrArg _ (arrived_missing hm hc))
  · intro hc
    exact ⟨collComplete_disagrees hc, collComplete_waits hc,
      fun hm hh hi => ⟨_, length_switchBytes _ _, collComplete_switch hc hm hh hi⟩, collComplete_result hc⟩
  · intro hc
    exact ⟨collTimeout_decides hc, collTimeout_early hc, collTimeout_waits hc,
      fun hm hh => ⟨_, by rw [stageBytes, List.length_map, List.length_range], collTimeout_fails hc hm hh⟩⟩

end

section
/-! SUPPORT. The steps of snapshots and restores (26 R384 to R393). -/
namespace Sys2Proof.Machine

/-- What every step of a fold keeps, the fold keeps. -/
theorem foldl_keeps {σ α β : Type} (π : σ → β) {f : σ → α → σ} (h : ∀ s a, π (f s a) = π s) (l : List α) (s : σ) :
    π (l.foldl f s) = π s := by
  induction l generalizing s with
  | nil => rfl
  | cons a l ih => exact (ih _).trans (h s a)

/-- A projection of a partition that a change of a core's state does not touch. -/
theorem part_modCore_keeps {β : Type} (π : Partition → β) (h : ∀ q cores, π { q with cores := cores } = π q) (s : State) (p : PartId)
    (c : CoreId) (k : Core) : π ((s.setCore p c k).part p) = π (s.part p) := by
  rw [State.setCore, State.part_modPart]
  exact h _ _

theorem part_pushAll (s : State) (l : List Instr) (p : PartId) : (s.pushAll l).part p = s.part p := rfl

/-! ## Markers (R385, R386) -/

section
variable {s : State} {p : PartId} {m : MarkerMsg}

theorem marker_dropped (h : ¬ knownTo s p m.srcMod m.src) : execMarker p m s = .next s := by
  rw [execMarker]
  refine if_pos ?_
  rw [Bool.not_eq_true', ← Bool.not_eq_true, authentic_iff]
  exact h

variable (hk : knownTo s p m.srcMod m.src)
include hk

theorem marker_known : ¬ (!authentic s p m.srcMod m.src) = true := by
  rw [(authentic_iff ..).mpr hk]
  decide

theorem marker_behind (hb : heldBehind s (.marker p m) = true) : execMarker p m s = .next (s.holdBack (.marker p m)) := by
  rw [execMarker]
  exact (if_neg (marker_known hk)).trans (if_pos hb)

variable (hb : heldBehind s (.marker p m) = false)
include hb

theorem marker_discarded (h : (s.part p).r.snapctl.getLsbD 63 = false ∨
      (m.n ≠ nextSnap (s.part p).r.snapn.toNat ∧ m.n ≠ (s.part p).r.snapn.toNat)) : execMarker p m s = .next (discardMarker s p m) := by
  rw [execMarker]
  refine (if_neg (marker_known hk)).trans ((if_neg (Bool.eq_false_iff.mp hb)).trans ?_)
  rcases h with h | ⟨hn, hc⟩
  · exact if_pos (by rw [bit, h]; rfl)
  · cases hx : (s.part p).r.snapctl.getLsbD 63 with
    | false => exact if_pos (by rw [bit, hx]; rfl)
    | true => exact (if_neg (by rw [bit, hx]; decide)).trans ((if_neg hn).trans (if_neg hc))

variable (hx : (s.part p).r.snapctl.getLsbD 63 = true)
include hx

section
variable (hn : m.n = nextSnap (s.part p).r.snapn.toNat)
include hn

theorem marker_marks (hp : (s.part p).snap.phase ≠ .idle) : execMarker p m s = .next (markChannel s p m) := by
  rw [execMarker]
  exact (if_neg (marker_known hk)).trans ((if_neg (Bool.eq_false_iff.mp hb)).trans ((if_neg (by rw [bit, hx]; decide)).trans
    ((if_pos hn).trans (if_pos (bne_iff_ne.mpr hp)))))

variable (hp : (s.part p).snap.phase = .idle)
include hp

theorem marker_held (hs : snapState (s.part p) (s.part p).r.snapn.toNat = 1 ∨ snapState (s.part p) (s.part p).r.snapn.toNat = 2) :
    execMarker p m s = .next (holdInput s p (.marker p m)) := by
  rw [execMarker]
  refine (if_neg (marker_known hk)).trans ((if_neg (Bool.eq_false_iff.mp hb)).trans ((if_neg (by rw [bit, hx]; decide)).trans
    ((if_pos hn).trans ((if_neg (by rw [hp]; decide)).trans (if_pos ?_)))))
  rw [Bool.or_eq_true, beq_iff_eq, beq_iff_eq]
  exact hs

theorem marker_begins (h1 : snapState (s.part p) (s.part p).r.snapn.toNat ≠ 1) (h2 : snapState (s.part p) (s.part p).r.snapn.toNat ≠ 2) :
    execMarker p m s = .next (markChannel (beginPulse s p m) p m) := by
  rw [execMarker]
  refine (if_neg (marker_known hk)).trans ((if_neg (Bool.eq_false_iff.mp hb)).trans ((if_neg (by rw [bit, hx]; decide)).trans
    ((if_pos hn).trans ((if_neg (by rw [hp]; decide)).trans (if_neg ?_)))))
  rw [Bool.or_eq_true, beq_iff_eq, beq_iff_eq]
  exact fun h => h.elim h1 h2

end

theorem marker_current (hn : m.n ≠ nextSnap (s.part p).r.snapn.toNat) (hc : m.n = (s.part p).r.snapn.toNat) :
    execMarker p m s = .next (endRecording (markChannel s p m) p) := by
  rw [execMarker]
  exact (if_neg (marker_known hk)).trans ((if_neg (Bool.eq_false_iff.mp hb)).trans ((if_neg (by rw [bit, hx]; decide)).trans
    ((if_neg hn).trans (if_pos hc))))

end

/-- A change of a partition's threads leaves its registers, its snapshot and memory. -/
theorem modThreads_keeps (s : State) (p : PartId) (f : Thread → Thread) :
    ((s.modThreads p f).part p).r = (s.part p).r ∧ ((s.modThreads p f).part p).snap = (s.part p).snap ∧ (s.modThreads p f).mem = s.mem := by
  unfold State.modThreads
  exact ⟨foldl_keeps (fun u : State => (u.part p).r) (fun u c => part_modCore_keeps (fun q => q.r) (fun _ _ => rfl) u p c _) _ s,
    foldl_keeps (fun u : State => (u.part p).snap) (fun u c => part_modCore_keeps (fun q => q.snap) (fun _ _ => rfl) u p c _) _ s,
    foldl_keeps (fun u : State => u.mem) (fun _ _ => State.modCoreW_mem ..) _ s⟩

/-- The partition as the first marker of a snapshot leaves it. -/
theorem beginPulse_marks (s : State) (p : PartId) (m : MarkerMsg) : (markChannel (beginPulse s p m) p m).mem = s.mem ∧
    ((markChannel (beginPulse s p m) p m).part p).r = (s.part p).r ∧
    ((markChannel (beginPulse s p m) p m).part p).snap = { (s.part p).snap with
      phase := .contain, n := m.n, coordMod := m.coordMod, coordPart := m.coordPart, corr := m.corr,
      seen := [(peerKey m.srcMod m.src, m.chan)], blkWant := if m.chan = .blk then [(peerKey m.srcMod m.src, m.blkCount)] else [] } := by
  obtain ⟨hr, hs, hm⟩ := modThreads_keeps s p (fun t => { t with captured := false })
  refine ⟨hm, ?_, ?_⟩
  · rw [markChannel, modSnap, State.part_modPart, beginPulse, modSnap, State.part_modPart]
    exact hr
  · rw [markChannel, modSnap, State.part_modPart, beginPulse, modSnap, State.part_modPart]
    dsimp only
    rw [hs]
    rfl

/-! ## The pulse and the cut (R387) -/

section
variable {s : State} {p : PartId}

theorem capturePulse_drains (hp : (s.part p).snap.phase = .contain) (hg : (s.part p).gang = .idle) (hc : contained s p = true) :
    execCapturePulse p s = .next (s.modPart p (fun q => { q with
      snap := { q.snap with phase := .drain },
      clusters := kmapVals (fun _ (c : Cluster) => { c with w := stopRun c.w }) q.clusters })) := by
  rw [execCapturePulse]
  refine (if_pos (by rw [hp, hg, hc]; rfl)).trans ?_
  rw [modSnap, State.modPart_modPart]

theorem capturePulse_rests (h : (s.part p).snap.phase ≠ .contain ∨ (s.part p).gang ≠ .idle ∨ contained s p = false) :
    execCapturePulse p s = .next s := by
  rw [execCapturePulse]
  refine if_neg ?_
  simp only [Bool.and_eq_true, beq_iff_eq]
  rintro ⟨⟨hp, hg⟩, hc⟩
  rcases h with h | h | h
  · exact h hp
  · exact h hg
  · exact Bool.false_ne_true (h.symm.trans hc)

theorem snapshotCut_rests (h : (s.part p).snap.phase ≠ .drain) : execSnapshotCut p s = .next s := by
  rw [execSnapshotCut]
  refine if_neg ?_
  simp only [Bool.and_eq_true, beq_iff_eq]
  exact fun e => h e.1.1.1

theorem snapshotCut_cuts (hp : (s.part p).snap.phase = .drain) (hg : (s.part p).gang = .idle)
    (hc : (s.part p).coreIds.all (fun c => coreReady s p c) = true)
    (he : (s.part p).clusters.all (fun e => e.2.w.run.isNone && e.2.w.drain.isEmpty) = true) :
    execSnapshotCut p s = .next (takeCut s p) := by
  rw [execSnapshotCut]
  refine if_pos ?_
  simp only [Bool.and_eq_true, beq_iff_eq]
  exact ⟨⟨⟨hp, hg⟩, hc⟩, he⟩

theorem setSnap_parts (s : State) (l : Leaf) (v : Nat) : (setSnap s l v).parts = s.parts := by
  rw [setSnap]
  by_cases h : s.linePoisoned l.pte = true
  · rw [if_pos h]
  · rw [if_neg h]
    rfl

theorem part_setSnaps (s : State) (l : List Leaf) (v : Nat) (p : PartId) : (setSnaps s l v).part p = s.part p :=
  congrArg (fun x : Vector Partition 16 => x[p]) (foldl_keeps (fun u : State => u.parts) (fun u x => setSnap_parts u x v) l s)

/-- Dropped translations leave the registers and the snapshot. -/
theorem dropTranslations_keeps (s : State) (p : PartId) : ((dropTranslations s p).part p).r = (s.part p).r ∧
    ((dropTranslations s p).part p).snap = (s.part p).snap ∧ ((dropTranslations s p).part p).tcache = [] := by
  rw [dropTranslations, State.part_modPart]
  exact ⟨foldl_keeps (fun u : State => (u.part p).r) (fun u c => part_modCore_keeps (fun q => q.r) (fun _ _ => rfl) u p c _) _ s,
    foldl_keeps (fun u : State => (u.part p).snap) (fun u c => part_modCore_keeps (fun q => q.snap) (fun _ _ => rfl) u p c _) _ s, rfl⟩

theorem sendMarkers_parts (s : State) (p : PartId) (k : Nat) : (sendMarkers s p k).parts = s.parts := by
  rw [sendMarkers]
  refine foldl_keeps (fun u : State => u.parts) (fun u ch => ?_) _ s
  by_cases h : k / 16 = u.modid.toNat
  · exact (congrArg State.parts (if_pos h)).trans rfl
  · by_cases hl : linked (s.part p) (BitVec.ofNat 16 (k / 16)) (Fin.ofNat 16 k) = true
    · exact (congrArg State.parts ((if_neg h).trans (if_pos hl))).trans rfl
    · exact (congrArg State.parts ((if_neg h).trans (if_neg hl))).trans rfl

/-- A cut with its pages in state 1, its colour flipped and its translations dropped. -/
def cutBegun (s : State) (p : PartId) : State :=
  dropTranslations (flipColour (setSnaps s (cutLeaves s p (bit (s.part p).r.snapctl 0)) 1) p) p

/-- A cut with its number in SNAPN and in the table of states. -/
def cutNamed (s : State) (p : PartId) : State :=
  setSnapState ((cutBegun s p).modRegs p (fun r => { r with
    snapn := BitVec.ofNat 16 (s.part p).snap.n,
    snapctl := if bit (s.part p).r.snapctl 0 then r.snapctl &&& 0xFFFFFFFFFFFFFFFE else r.snapctl })) p (s.part p).snap.n 1

/-- What the partition keeps of its cut. -/
def cutSnap (s : State) (p : PartId) (x : SnapSt) : SnapSt :=
  { x with
    phase := .cut, issuers := [], full := bit (s.part p).r.snapctl 0, cutTs := (cutNamed s p).tstamp, oldColour := blkColour (s.part p),
    chanLog := [], captured := cutLeaves s p (bit (s.part p).r.snapctl 0), dirty := [], staged := [], image := some (imageOf s p),
    reported := x.reported.filter (fun e => e.1 == (s.part p).snap.n || x.table.any (fun y => y.n == e.1)) }

/-- A cut as its markers leave. -/
def cutTaken (s : State) (p : PartId) : State := modSnap (cutNamed s p) p (cutSnap s p)

theorem takeCut_eq (s : State) (p : PartId) : takeCut s p =
    (modSnap ((snapPeers (cutTaken s p) p).foldl (fun u k => sendMarkers u p k) (cutTaken s p)) p (fun x => { x with blkSent := [] })).pushAll
      (colourPours ((snapPeers (cutTaken s p) p).foldl (fun u k => sendMarkers u p k) (cutTaken s p)) p) := rfl

theorem cutBegun_keeps (s : State) (p : PartId) :
    ((cutBegun s p).part p).r = { (s.part p).r with steepctl := (s.part p).r.steepctl ^^^ 0x100 } ∧
    ((cutBegun s p).part p).snap = (s.part p).snap ∧ ((cutBegun s p).part p).tcache = [] := by
  obtain ⟨hr, hs, ht⟩ := dropTranslations_keeps (flipColour (setSnaps s (cutLeaves s p (bit (s.part p).r.snapctl 0)) 1) p) p
  refine ⟨hr.trans ?_, hs.trans ?_, ht⟩
  all_goals rw [flipColour, State.modRegs, State.part_modPart, part_setSnaps]

theorem part_cutNamed (s : State) (p : PartId) : (cutNamed s p).part p = { (cutBegun s p).part p with
    r := { ((cutBegun s p).part p).r with
      snapn := BitVec.ofNat 16 (s.part p).snap.n,
      snapctl := if bit (s.part p).r.snapctl 0 then ((cutBegun s p).part p).r.snapctl &&& 0xFFFFFFFFFFFFFFFE
        else ((cutBegun s p).part p).r.snapctl },
    snap := { ((cutBegun s p).part p).snap with
      table := ({ n := (s.part p).snap.n, state := 1 } ::
        ((cutBegun s p).part p).snap.table.filter (fun e => e.n != (s.part p).snap.n)).take 16 } } := by
  rw [cutNamed, setSnapState, State.part_modPart, State.modRegs, State.part_modPart]

theorem part_takeCut (s : State) (p : PartId) : (takeCut s p).part p = { (cutNamed s p).part p with
    snap := { cutSnap s p ((cutNamed s p).part p).snap with blkSent := [] } } := by
  rw [takeCut_eq, part_pushAll, modSnap, State.part_modPart]
  have h : ((snapPeers (cutTaken s p) p).foldl (fun u k => sendMarkers u p k) (cutTaken s p)).part p = (cutTaken s p).part p :=
    congrArg (fun x : Vector Partition 16 => x[p]) (foldl_keeps (fun u : State => u.parts) (fun u k => sendMarkers_parts u p k) _ _)
  rw [h, cutTaken, modSnap, State.part_modPart]

/-- Clearing bit 0 changes nothing of a word without it. -/
theorem clear_bit0 (x : Word) (h : x.getLsbD 0 = false) : x &&& 0xFFFFFFFFFFFFFFFE = x := by
  apply BitVec.eq_of_getLsbD_eq
  intro i hi
  rw [BitVec.getLsbD_and]
  rcases i with _ | i
  · rw [h, Bool.false_and]
  · have hm : (0xFFFFFFFFFFFFFFFE : BitVec 64).getLsbD (i + 1) = true := by
      have := (by decide : ∀ j : Fin 63, (0xFFFFFFFFFFFFFFFE : BitVec 64).getLsbD (j.val + 1) = true) ⟨i, by omega⟩
      exact this
    rw [hm, Bool.and_true]

theorem takeCut_snapctl (s : State) (p : PartId) :
    ((takeCut s p).part p).r.snapctl = (s.part p).r.snapctl &&& 0xFFFFFFFFFFFFFFFE := by
  rw [part_takeCut, part_cutNamed, (cutBegun_keeps s p).1]
  cases h : bit (s.part p).r.snapctl 0
  · exact (clear_bit0 _ h).symm
  · rfl

/-- What the cut leaves of its partition (R387). -/
theorem takeCut_leaves (s : State) (p : PartId) :
    ((takeCut s p).part p).r.snapn = BitVec.ofNat 16 (s.part p).snap.n ∧
    ((takeCut s p).part p).r.steepctl = (s.part p).r.steepctl ^^^ 0x100 ∧
    snapState ((takeCut s p).part p) (s.part p).snap.n = 1 ∧ ((takeCut s p).part p).tcache = [] := by
  obtain ⟨hr, -, ht⟩ := cutBegun_keeps s p
  rw [part_takeCut, part_cutNamed]
  refine ⟨rfl, ?_, ?_, ht⟩
  · rw [hr]
  · rw [snapState, cutSnap]
    dsimp only
    rw [List.take_succ_cons, List.find?_cons_of_pos (p := fun e : SnapEntry => e.n == (s.part p).snap.n) (beq_self_eq_true _)]
    rfl

theorem snap_takeCut (s : State) (p : PartId) :
    ((takeCut s p).part p).snap = { cutSnap s p ((cutNamed s p).part p).snap with blkSent := [] } := by
  rw [part_takeCut]

/-! ## Resuming, the copier and the writer (R387 to R390) -/

theorem captureResume_resumes (h : (s.part p).snap.phase = .cut) : execCaptureResume p s =
    .next (releaseHeld (endRecording (modSnap (imageSteep s p) p (fun x => { x with phase := .idle })) p) p) := by
  rw [execCaptureResume]
  exact if_neg (by rw [h]; decide)

theorem captureResume_rests (h : (s.part p).snap.phase ≠ .cut) : execCaptureResume p s = .next s := by
  rw [execCaptureResume]
  exact if_pos (bne_iff_ne.mpr h)

section
variable {page i : Nat} {l : Leaf}

theorem copyCaptured_none (h : (s.part p).snap.captured.find? (fun l => l.page == page && snapOf s l == 1) = none) :
    copyCaptured s p page = s := by
  rw [copyCaptured, h]

variable (hl : (s.part p).snap.captured.find? (fun l => l.page == page && snapOf s l == 1) = some l)
include hl

theorem copyCaptured_big (h : l.big = true) : copyCaptured s p page = s := by
  rw [copyCaptured, hl]
  exact if_pos h

variable (hb : l.big = false)
include hb

theorem copyCaptured_steep (hs : l.steep = true) (hc : (s.part p).snap.phase = .cut) : copyCaptured s p page = s := by
  rw [copyCaptured, hl]
  exact (if_neg (Bool.eq_false_iff.mp hb)).trans (if_pos (by rw [hs, hc]; rfl))

variable (hs : ¬ (l.steep = true ∧ (s.part p).snap.phase = .cut))
include hs

theorem copyCaptured_free : copyCaptured s p page = match freeFrame (s.part p) with
    | none => s
    | some i => pageCopied (copyPage (collectRange s p (frameKey (s.part p) p i) (frameKey (s.part p) p i + 2 ^ 16)) (imageKey (s.part p) p l)
        (frameKey (s.part p) p i) (2 ^ 16)) p l (some i) := by
  rw [copyCaptured, hl]
  refine (if_neg (Bool.eq_false_iff.mp hb)).trans ((if_neg ?_).trans ?_)
  · rw [Bool.and_eq_true, beq_iff_eq]
    exact hs
  · cases freeFrame (s.part p) <;> rfl

end

theorem imageKey_inPlace {l : Leaf} (h : (s.part p).snap.staged.find? (fun e => e.1 == l.page) = none) :
    imageKey (s.part p) p l = if l.steep then shadowKey p l.pa else keyMain p l.pa := by
  rw [imageKey, h]

/-- The units that the objects of a snapshot will fill. -/
def snapPlan (q : Partition) (p : PartId) : SnapPlan :=
  planOf (caddyPtr q.r) (chanBytes q.snap.chanLog).length (pageImages q p).length

/-- A snapshot's objects written, with the caddy's pointer behind them. -/
def objectsWritten (s : State) (p : PartId) (w : State) : State :=
  w.modRegs p (fun r => { r with caddyp := setField r.caddyp 0 21 ((snapPlan (s.part p) p).stop % Nat.max 1 (caddyLen r)) })

/-- The units of the caddy that a snapshot has filled, noted where the caddy stands behind the port. -/
def unitsTaken (s : State) (p : PartId) (w : State) : State :=
  if (s.part p).r.caddy.getLsbD 63 = true then (objectsWritten s p w).modPart p (fun x => { x with
    caddyUnits := ((List.range ((snapPlan (s.part p) p).stop - caddyPtr (s.part p).r)).map
      (fun i => caddyUnit (s.part p).r p (caddyPtr (s.part p).r + i) / 2 ^ 16)).foldl nput x.caddyUnits })
  else objectsWritten s p w

/-- A written snapshot's image, kept under its number. -/
def imageKept (s : State) (p : PartId) (img : SnapImage) (w : State × BitVec 256) : State :=
  modSnap (unitsTaken s p w.1) p (fun y => { y with
    images := ((s.part p).r.snapn.toNat, w.2, (s.part p).keyGen, { img with log := y.chanLog }) :: y.images,
    prev := (s.part p).r.snapn.toNat, prevOff := some (unitField (s.part p).r (snapPlan (s.part p) p).manifest) })

section
variable {img : SnapImage}

theorem snapshotWriter_none (h : (s.part p).snap.image = none) : execSnapshotWriter p s = .next s := by
  rw [execSnapshotWriter, h]

variable (hi : (s.part p).snap.image = some img) (h2 : snapState (s.part p) (s.part p).r.snapn.toNat = 2) (hp : (s.part p).snap.phase = .idle)
include h2 hp

theorem writer_due : ¬ (decide (snapState (s.part p) (s.part p).r.snapn.toNat ≠ 2) || (s.part p).snap.phase != .idle) = true := by
  rw [h2, hp]
  decide

include hi

theorem snapshotWriter_noRoom
    (hr : caddyRoom (s.part p).r < (snapPlan (s.part p) p).stop - caddyPtr (s.part p).r) :
    execSnapshotWriter p s = .next (sendNotice ((endCapture (setSnapState s p (s.part p).r.snapn.toNat 4) p 2).hostEvent p 4) p
      (s.part p).r.snapn.toNat false) := by
  rw [execSnapshotWriter, hi]
  exact (if_neg (writer_due h2 hp)).trans (if_pos hr)

theorem snapshotWriter_writes
    (hr : (snapPlan (s.part p) p).stop - caddyPtr (s.part p).r ≤ caddyRoom (s.part p).r) :
    execSnapshotWriter p s = .next (sendNotice (endCapture (setSnapState
      (imageKept s p img (writeObjects s p img (snapPlan (s.part p) p))) p (s.part p).r.snapn.toNat 3) p 0) p
      (s.part p).r.snapn.toNat true) := by
  obtain ⟨F, hF⟩ : ∃ F, F = writeObjects := ⟨_, rfl⟩
  rw [execSnapshotWriter, hi, ← hF]
  refine (if_neg (writer_due h2 hp)).trans ((if_neg (Nat.not_lt.mpr hr)).trans ?_)
  rfl

end

theorem snapshotNotice_dropped {mod_ : BitVec 16} {src : PartId} {n : Nat} {ok : Bool} (h : ¬ knownTo s p mod_ src) :
    execSnapshotNotice p mod_ src n ok s = .next s := by
  rw [execSnapshotNotice]
  refine if_pos ?_
  rw [Bool.not_eq_true', ← Bool.not_eq_true, authentic_iff]
  exact h

theorem snapshotNotice_reported {mod_ : BitVec 16} {src : PartId} {n : Nat} {ok : Bool} (h : knownTo s p mod_ src) :
    execSnapshotNotice p mod_ src n ok s =
      .next (modSnap s p (fun x => { x with reported := x.reported ++ [(n, peerKey mod_ src, ok)] })) := by
  rw [execSnapshotNotice]
  exact if_neg (by rw [(authentic_iff ..).mpr h]; decide)

/-! ## Restores (R392, R393) -/

/-- A state whose SNAPRST has taken FULL and MOFF from a written value. -/
def restoreNamed (s : State) (p : PartId) (v : Word) : State :=
  s.modRegs p (fun r => { r with snaprst := setField (setField r.snaprst 62 1 (v.toNat / 2 ^ 62 % 2)) 0 21 (v.toNat % 2 ^ 21) })

theorem field_or_top (v : Word) (lo n : Nat) (h : lo + n ≤ 63) : field (v ||| 0x8000000000000000) lo n = v.toNat / 2 ^ lo % 2 ^ n := by
  apply Nat.eq_of_testBit_eq
  intro i
  rw [testBit_field, Nat.testBit_mod_two_pow, Nat.testBit_div_two_pow]
  by_cases hi : i < n
  · have h63 : (0x8000000000000000 : BitVec 64).getLsbD (lo + i) = false := by
      exact (by decide : ∀ j : Fin 63, (0x8000000000000000 : BitVec 64).getLsbD j.val = false) ⟨lo + i, by omega⟩
    rw [BitVec.getLsbD_or, h63, Bool.or_false, BitVec.getLsbD, Nat.add_comm lo i]
  · simp [hi]

theorem bit_or_top (v : Word) : bit (v ||| 0x8000000000000000) 63 = true := by
  rw [bit, BitVec.getLsbD_or]
  exact (congrArg _ (by decide : (0x8000000000000000 : BitVec 64).getLsbD 63 = true)).trans (Bool.or_true _)

theorem restoreNamed_or_top (s : State) (p : PartId) (v : Word) : (s.modRegs p (fun r => { r with
    snaprst := setField (setField r.snaprst 62 1 (field (v ||| 0x8000000000000000) 62 1)) 0 21
      (field (v ||| 0x8000000000000000) 0 21) })) = restoreNamed s p v := by
  rw [restoreNamed, field_or_top v 62 1 (by decide), field_or_top v 0 21 (by decide), Nat.pow_zero, Nat.div_one, Nat.pow_one]

theorem writeSnaprst_go (s : State) (p : PartId) (v : Word) (h : bit v 63 = true) : writeSnaprst s p v =
    if inhabited (s.modRegs p (fun r => { r with snaprst := setField (setField r.snaprst 62 1 (field v 62 1)) 0 21 (field v 0 21) })) p
    then setRestore (s.modRegs p (fun r => { r with snaprst := setField (setField r.snaprst 62 1 (field v 62 1)) 0 21 (field v 0 21) })) p 5
    else (setRestore (s.modRegs p (fun r => { r with
      snaprst := setField (setField r.snaprst 62 1 (field v 62 1)) 0 21 (field v 0 21) })) p 1).push (.restoreComplete p) := by
  rw [writeSnaprst, h]
  exact if_neg (by decide)

theorem snaprstGo_eq (s : State) (p : PartId) (v : Word) : execSnaprstGo p v s =
    .next (if inhabited (restoreNamed s p v) p then setRestore (restoreNamed s p v) p 5
      else (setRestore (restoreNamed s p v) p 1).push (.restoreComplete p)) := by
  have e : writeSnaprst s p (v ||| 0x8000000000000000) = _ := writeSnaprst_go s p _ (bit_or_top v)
  rw [restoreNamed_or_top] at e
  exact congrArg Host.Outcome.next e

/-- Whether a thread lives in the partition depends on its cores alone. -/
theorem inhabited_congr {u : State} (hi : (u.part p).coreIds = (s.part p).coreIds) (hc : ∀ c, u.core p c = s.core p c) :
    inhabited u p = inhabited s p := by
  rw [inhabited, inhabited, hi]
  simp only [hc]

theorem coreIds_restoreNamed (s : State) (p : PartId) (v : Word) : ((restoreNamed s p v).part p).coreIds = (s.part p).coreIds := by
  rw [restoreNamed, State.modRegs, State.part_modPart, Partition.coreIds, Partition.coreIds]

theorem core_restoreNamed (s : State) (p : PartId) (v : Word) (c : CoreId) : (restoreNamed s p v).core p c = s.core p c := by
  rw [restoreNamed, State.modRegs]
  exact State.core_modPart_of s p _ (fun _ => by rw [Partition.core, Partition.core]) p c

theorem inhabited_restoreNamed (s : State) (p : PartId) (v : Word) : inhabited (restoreNamed s p v) p = inhabited s p :=
  inhabited_congr (coreIds_restoreNamed s p v) (core_restoreNamed s p v)

section
variable {x : Manifest} {xs : List Manifest}

theorem restoreComplete_rests (h : field (s.part p).r.snaprst 21 3 ≠ 1) : execRestoreComplete p s = .next s := by
  rw [execRestoreComplete]
  exact if_pos h

variable (h : field (s.part p).r.snaprst 21 3 = 1)
include h

theorem restoreComplete_noChain (hc : (readChain s p 65536 (field (s.part p).r.snaprst 0 21) none).getD [] = []) :
    execRestoreComplete p s = .next (setRestore s p 4) := by
  obtain ⟨F, hF⟩ : ∃ F, F = readChain := ⟨_, rfl⟩
  rw [← hF] at hc
  rw [execRestoreComplete, ← hF]
  refine (if_neg (not_not.mpr h)).trans ?_
  dsimp only
  generalize F s p 65536 (field (s.part p).r.snaprst 0 21) none = c at hc ⊢
  match c with
  | none => rfl
  | some [] => rfl

/-- The bytes that a manifest's hash covers. -/
def hashedBytes (s : State) (p : PartId) (x : Manifest) : List Byte :=
  objectBytes s (s.part p).r p x.world worldBytes ++ objectBytes s (s.part p).r p x.chan x.chanLen ++
    objectBytes s (s.part p).r p x.sram sramBytes

/-- What the pages of a chain of manifests restored leave, and whether every hash matched. -/
def pagesRestored (s : State) (p : PartId) (x : Manifest) (xs : List Manifest) : Bool × State :=
  restorePages p (x :: xs) x.n (pagesToRestore s p (x :: xs) ((s.part p).r.snaprst.getLsbD 62)) s

variable (hc : readChain s p 65536 (field (s.part p).r.snaprst 0 21) none = some (x :: xs))
include hc

theorem restoreComplete_reads : execRestoreComplete p s =
    if hash32 (hashedBytes s p x) != x.hash then .next (setRestore s p 3)
    else .next (if (pagesRestored s p x xs).1 then finishRestore (pagesRestored s p x xs).2 p x (field (s.part p).r.snaprst 0 21)
      else setRestore (pagesRestored s p x xs).2 p 3) := by
  obtain ⟨F, hF⟩ : ∃ F, F = readChain := ⟨_, rfl⟩
  obtain ⟨H, hH⟩ : ∃ H, H = hash32 := ⟨_, rfl⟩
  rw [← hF] at hc
  rw [execRestoreComplete, ← hF, ← hH]
  refine (if_neg (not_not.mpr h)).trans ?_
  dsimp only
  rw [hc]
  rfl

theorem restoreComplete_badHash (hh : hash32 (hashedBytes s p x) ≠ x.hash) : execRestoreComplete p s = .next (setRestore s p 3) :=
  (restoreComplete_reads h hc).trans (if_pos (bne_iff_ne.mpr hh))

variable (hh : hash32 (hashedBytes s p x) = x.hash)
include hh

theorem restoreComplete_hashed : execRestoreComplete p s =
    .next (if (pagesRestored s p x xs).1 then finishRestore (pagesRestored s p x xs).2 p x (field (s.part p).r.snaprst 0 21)
      else setRestore (pagesRestored s p x xs).2 p 3) :=
  (restoreComplete_reads h hc).trans (if_neg (by rw [bne_iff_ne]; exact not_not.mpr hh))

theorem restoreComplete_stops (hy : (pagesRestored s p x xs).1 = false) :
    execRestoreComplete p s = .next (setRestore (pagesRestored s p x xs).2 p 3) :=
  (restoreComplete_hashed h hc hh).trans (congrArg Host.Outcome.next (if_neg (Bool.eq_false_iff.mp hy)))

theorem restoreComplete_finishes (hy : (pagesRestored s p x xs).1 = true) : execRestoreComplete p s =
    .next (finishRestore (pagesRestored s p x xs).2 p x (field (s.part p).r.snaprst 0 21)) :=
  (restoreComplete_hashed h hc hh).trans (congrArg Host.Outcome.next (if_pos hy))

end

end

/-- STATE of SNAPRST. -/
theorem field_state (v : Word) : field v 21 3 = v.toNat / 2 ^ 21 % 8 := rfl

end Sys2Proof.Machine

open Sys2Proof Sys2Proof.Machine

/-- Settles O58, from the equation of each marker and of each step of a capture, of the writer and of a restore. -/
theorem snapshotSteps : Obligations.SnapshotSteps := by
  unfold Obligations.SnapshotSteps
  intro s p src m page n i l img mod_ ok v x xs q cur k own known unit
  refine ⟨marker_dropped, marker_behind, fun hk hb => ⟨marker_discarded hk hb, fun hx hn => ⟨marker_marks hk hb hx hn,
      marker_held hk hb hx hn, fun hp h1 h2 => ⟨_, marker_begins hk hb hx hn hp h1 h2, beginPulse_marks s p m⟩⟩, marker_current hk hb⟩,
    capturePulse_drains, capturePulse_rests, fun hp hg hc he => ?_, snapshotCut_rests, captureResume_resumes, captureResume_rests,
    fun h => congrArg _ (copyCaptured_none h), fun hl => ?_, snapshotWriter_none, fun hi h2 hp => ?_, snapshotNotice_dropped,
    snapshotNotice_reported, ?_, fun h => restoreComplete_rests (by rwa [field_state]), fun h hc => ?_, fun h hc => ?_⟩
  · obtain ⟨hn, hst, h1, ht⟩ := takeCut_leaves s p
    have hs := snap_takeCut s p
    refine ⟨_, snapshotCut_cuts hp hg hc he, ?_, hn, hst, takeCut_snapctl s p, h1, ht, ?_, ?_, ?_, ?_⟩ <;> rw [hs, cutSnap]
    rfl
  · intro copied
    refine ⟨fun hb => congrArg _ (copyCaptured_big hl hb), fun hb hs hc => congrArg _ (copyCaptured_steep hl hb hs hc),
      fun hb hs hf => congrArg _ ((copyCaptured_free hl hb hs).trans ?_), fun hb hs hf => ?_, imageKey_inPlace⟩
    · rw [hf]
    · exact congrArg _ ((copyCaptured_free hl hb hs).trans (by rw [hf]; rfl))
  · exact ⟨snapshotWriter_noRoom hi h2 hp, snapshotWriter_writes hi h2 hp⟩
  · refine ⟨fun h => (snaprstGo_eq s p v).trans (congrArg _ (if_pos ?_)), fun h => (snaprstGo_eq s p v).trans (congrArg _ (if_neg ?_))⟩
    · rwa [inhabited_restoreNamed]
    · rw [inhabited_restoreNamed, h]
      decide
  · rw [← field_state] at h
    have hu : unit = field q.r.snaprst 0 21 := (field_low ..).symm
    rw [hu] at hc
    exact restoreComplete_noChain h hc
  · rw [← field_state] at h
    have hu : unit = field q.r.snaprst 0 21 := (field_low ..).symm
    rw [hu] at hc ⊢
    exact ⟨restoreComplete_badHash h hc, restoreComplete_stops h hc, restoreComplete_finishes h hc⟩

end

section
/-! SUPPORT. What the host reaches through a port: memory, SPDM and TDISP (27 R396 to R405). -/
namespace Sys2Proof.Machine

/-! ## Host accesses (R396) -/

section
variable {s s1 : State} {p : PartId} {a : BitVec 64} {op : HostOp} {ps : List HostPiece}

theorem portOpen_iff (q : Partition) : portOpen q = true ↔
    q.tdisp = .run ∧ q.inService = true ∧ q.rst = .none ∧ q.wipe.isSome = false := by
  rw [portOpen, shut]
  cases q.inService <;> cases q.rst <;> cases q.wipe.isSome <;> cases q.tdisp <;> decide

/-- The pieces of an access that meets the port's conditions, or none (R396). -/
def hostAsked (s : State) (p : PartId) (a : BitVec 64) (op : HostOp) : Option (List HostPiece) :=
  hostPieces s p a (hostShape op).1 (hostShape op).2.1

/-- The port accepts the access, and it is aligned. -/
def hostFit (s : State) (p : PartId) (a : BitVec 64) (op : HostOp) : Bool :=
  portOpen (s.part p) && a.toNat % (hostShape op).2.2 == 0

theorem hostFit_iff : hostFit s p a op = true ↔ ((s.part p).tdisp = .run ∧ (s.part p).inService = true ∧ (s.part p).rst = .none ∧
    (s.part p).wipe.isSome = false) ∧ a.toNat % (hostShape op).2.2 = 0 := by
  rw [hostFit, Bool.and_eq_true, portOpen_iff, beq_iff_eq]

/-- An access refused at the start: with its conditions met, a poisoned line or a SEAL write in an entry into ERROR. -/
def hostBarred (s : State) (p : PartId) (op : HostOp) (l : List HostPiece) : Bool :=
  l.any (fun x => s.linePoisoned x.key) ||
    ((hostShape op).2.1.getLsbD 1 && coversSeal (s.part p) p l && s.events.any (bringsError p))

/-- What an access that no other holds back does. -/
def hostAnswered (s : State) (p : PartId) (a : BitVec 64) (op : HostOp) : Option (List HostPiece) → State
  | none => hostSays (if hostFit s p a op then exportListed s p a (hostShape op).1 (hostShape op).2.1 else s) (.error p a)
  | some l => if hostBarred s p op l then hostSays s (.error p a) else hostPerform s p a op l

theorem hostAccess_behind (h : heldBehind s (.hostAccess p a op) = true) :
    execHostAccess p a op s = .next (s.holdBack (.hostAccess p a op)) := by
  rw [execHostAccess]
  exact if_pos h

variable (hb : heldBehind s (.hostAccess p a op) = false)
include hb

theorem hostAccess_answered : execHostAccess p a op s =
    .next (hostAnswered s p a op (if hostFit s p a op then hostAsked s p a op else none)) := by
  obtain ⟨F, hF⟩ : ∃ F, F = hostPieces := ⟨_, rfl⟩
  rw [execHostAccess, hostAsked, ← hF]
  refine (if_neg (Bool.eq_false_iff.mp hb)).trans ?_
  rw [hostFit]
  generalize (if (portOpen (s.part p) && a.toNat % (hostShape op).2.2 == 0) = true then F s p a (hostShape op).1 (hostShape op).2.1
    else none) = o
  cases o with
  | none => rfl
  | some l =>
    rw [hostAnswered]
    exact (apply_ite Host.Outcome.next _ _ _).symm

theorem hostAccess_closed (h : hostFit s p a op = false) : execHostAccess p a op s = .next (hostSays s (.error p a)) := by
  rw [hostAccess_answered hb, if_neg (Bool.eq_false_iff.mp h), hostAnswered, if_neg (Bool.eq_false_iff.mp h)]

variable (hf : hostFit s p a op = true)
include hf

theorem hostAccess_asked : execHostAccess p a op s = .next (hostAnswered s p a op (hostAsked s p a op)) := by
  rw [hostAccess_answered hb, if_pos hf]

theorem hostAccess_nowhere (h : hostAsked s p a op = none) : execHostAccess p a op s =
    .next (hostSays (exportListed s p a (hostShape op).1 (hostShape op).2.1) (.error p a)) := by
  rw [hostAccess_asked hb hf, h, hostAnswered, if_pos hf]

variable (h : hostAsked s p a op = some ps)
include h

theorem hostAccess_barred (hx : hostBarred s p op ps = true) : execHostAccess p a op s = .next (hostSays s (.error p a)) := by
  rw [hostAccess_asked hb hf, h, hostAnswered, if_pos hx]

theorem hostAccess_performed (hx : hostBarred s p op ps = false) : execHostAccess p a op s = .next (hostPerform s p a op ps) := by
  rw [hostAccess_asked hb hf, h, hostAnswered, if_neg (Bool.eq_false_iff.mp hx)]

end

section
variable {s s1 : State} {p : PartId} {a : BitVec 64} {op : HostOp} {ps : List HostPiece}

/-- The table that a translation of the exported span has met, listed where it is poisoned (R205). -/
def spanListed (s : State) (p : PartId) : Option (Nat × Nat) → State
  | some x => listTable s p (xportAddr (s.part p) x.1)
  | none => s

/-- A translation of the exported span that finds no page. -/
theorem exportListed_eq (ho : openTo (s.part p)) (n : Nat) (need : BitVec 4) : exportListed s p a n need =
    if a.toNat / 2 ^ 32 = 0x10000000 ∧ (s.part p).r.xport.getLsbD 63 = true then
      spanListed s p ((sectorPieces (a.toNat % 2 ^ 32) n).find? (fun x => (remoteLeaf s p x.1 need).isNone)) else s := by
  have hr : remoteOpen (s.part p) = (s.part p).r.xport.getLsbD 63 := by
    rw [remoteOpen, shut_false ho, bit]
    rfl
  rw [exportListed, hr]
  refine ite_congr rfl (fun _ => ?_) (fun _ => rfl)
  simp only [exportPiece, Option.isNone_map, remoteWalked]
  generalize (sectorPieces (a.toNat % 2 ^ 32) n).find? (fun x => (remoteLeaf s p x.1 need).isNone) = o
  cases o <;> rfl

/-- What the port answers to a read (R396, R212). -/
def readAnswered (p : PartId) (a : BitVec 64) (op : HostOp) : HostRead → State
  | .data b s => hostSays s (.readData p a b)
  | .poisoned s => hostSays s (.error p a)
  | .later s => s.holdBack (.hostAccess p a op)

theorem hostPerform_read {i : Nat} (h : op = .read i) : hostPerform s p a op ps = readAnswered p a op (readHostPieces p ps [] s) := by
  subst h
  rw [hostPerform]
  cases readHostPieces p ps [] s <;> rfl

theorem hostWrite_write {b : List Byte} (h : op = .write b) :
    hostWrite s p a op ps = hostSays (sealPieces (writePieces ps b s) p ps) (.done p a) := by
  subst h
  rw [hostWrite]

theorem hostWrite_atomic {aop : AmoOp} {sz : AmoSize} {v c : Word} {x : HostPiece} (h : op = .atomic aop sz v c) (hp : ps = [x]) :
    hostWrite s p a op ps = hostSays (sealPieces (amoAt s x.key aop sz v c).2 p ps)
      (.readData p a (natBytes (amoAt s x.key aop sz v c).1 (amoBytes sz))) := by
  subst h hp
  rw [hostWrite]

/-- An operation that writes memory. -/
def hostWrites : HostOp → Prop
  | .read _ => False
  | .write _ | .atomic _ _ _ _ => True

theorem hostWrites_of {b : List Byte} {aop : AmoOp} {sz : AmoSize} {v c : Word} (h : op = .write b ∨ op = .atomic aop sz v c) :
    hostWrites op := by
  rcases h with rfl | rfl <;> trivial

variable (hw : hostWrites op)
include hw

theorem hostPerform_held (h : ps.findSome? (pieceHeld s p (.step (.hostAccess p a op))) = some s1) :
    hostPerform s p a op ps = s1.holdBack (.hostAccess p a op) := by
  cases op with
  | read _ => exact hw.elim
  | write _ => rw [hostPerform, h]
  | atomic _ _ _ _ => rw [hostPerform, h]

variable (h : ps.findSome? (pieceHeld s p (.step (.hostAccess p a op))) = none)
include h

theorem hostPerform_waits (hr : reachPieces p ps (ps.foldl (fun s x => piecePassed s p (.step (.hostAccess p a op)) x) s) = .error s1) :
    hostPerform s p a op ps = s1.holdBack (.hostAccess p a op) := by
  cases op with
  | read _ => exact hw.elim
  | write _ => rw [hostPerform, h]; dsimp only; rw [hr]
  | atomic _ _ _ _ => rw [hostPerform, h]; dsimp only; rw [hr]

theorem hostPerform_writes (hr : reachPieces p ps (ps.foldl (fun s x => piecePassed s p (.step (.hostAccess p a op)) x) s) = .ok s1) :
    hostPerform s p a op ps = hostWrite s1 p a op ps := by
  cases op with
  | read _ => exact hw.elim
  | write _ => rw [hostPerform, h]; dsimp only; rw [hr]
  | atomic _ _ _ _ => rw [hostPerform, h]; dsimp only; rw [hr]

end

/-! ## SPDM (R398, R401) -/

section
variable {s : State} {n i : Nat} {p : PartId}

/-- The session stands in a phase. -/
def inPhase (s : State) (n : Nat) (ph : SessionPhase) : Prop := ∃ se, kget s.sessions n = some se ∧ se.phase = ph

theorem inPhase_iff (ph : SessionPhase) : (sessionOf s n).any (fun x => x.phase == ph) = true ↔ inPhase s n ph := by
  rw [sessionOf, inPhase]
  cases kget s.sessions n <;> simp

theorem secured_iff : secured s n = true ↔ inPhase s n .secured := inPhase_iff _

theorem responds_open (h : s.bringUp = 16) (u : State) : responds s u = .next u := by
  rw [responds, if_pos h]

theorem responds_closed (h : s.bringUp ≠ 16) (u : State) : responds s u = .next s := by
  rw [responds, if_neg h]

theorem getMeasurements_none (h : ¬ (1 ≤ i ∧ i ≤ 4)) : execGetMeasurements n p i s = responds s (hostSays s (.spdmError n)) := by
  rw [execGetMeasurements, if_neg h]

theorem getMeasurements_block (h : 1 ≤ i ∧ i ≤ 4) : execGetMeasurements n p i s =
    responds s (hostSays (signed s n (told 0xE0 [p.val, i] 0x60 [(measurement s p i).toNat])).2
      (.measurements n i (measurement s p i) (signed s n (told 0xE0 [p.val, i] 0x60 [(measurement s p i).toNat])).1)) := by
  rw [execGetMeasurements, if_pos h]

theorem keyExchange_agrees (h : inPhase s n .negotiating) : execKeyExchange n s =
    responds s (hostSays (setPhase (signed s n (told 0xE4 [] 0x64 [])).2 n .keyed)
      (.keyExchanged n (signed s n (told 0xE4 [] 0x64 [])).1)) := by
  rw [execKeyExchange, if_pos ((inPhase_iff _).mpr h)]

theorem keyExchange_errs (h : ¬ inPhase s n .negotiating) : execKeyExchange n s = responds s (hostSays s (.spdmError n)) := by
  rw [execKeyExchange, if_neg fun e => h ((inPhase_iff _).mp e)]

theorem finish_secures (h : inPhase s n .keyed) : execFinish n s =
    responds s (hostSays (setPhase (exchanged s n (told 0xE5 [] 0x65 [])) n .secured) (.finished n)) := by
  rw [execFinish, if_pos ((inPhase_iff _).mpr h)]

theorem finish_errs (h : ¬ inPhase s n .keyed) : execFinish n s = responds s (hostSays s (.spdmError n)) := by
  rw [execFinish, if_neg fun e => h ((inPhase_iff _).mp e)]

theorem endSession_ends (h : kget s.sessions n ≠ none) : execEndSession n s =
    responds s (hostSays { s with sessions := kdel s.sessions n } (.ended n)) := by
  rw [execEndSession, sessionOf, if_pos (Option.isSome_iff_ne_none.mpr h)]

theorem endSession_errs (h : kget s.sessions n = none) : execEndSession n s = responds s (hostSays s (.spdmError n)) := by
  rw [execEndSession, sessionOf, h]
  rfl

theorem exchanged_some {se : Session} (h : kget s.sessions n = some se) (l : List (List Byte)) :
    exchanged s n l = { s with sessions := kput s.sessions n { se with transcript := se.transcript ++ l } } := by
  rw [exchanged, sessionOf, h]

theorem exchanged_none (h : kget s.sessions n = none) (l : List (List Byte)) : exchanged s n l = s := by
  rw [exchanged, sessionOf, h]

theorem signed_some {se : Session} (h : kget s.sessions n = some se) (l : List (List Byte)) :
    signed s n l = (Config.signature s.free (shake256 64 (Config.toBeSigned (se.transcript ++ l))),
      { exchanged s n l with free := s.free + 1 }) := by
  rw [signed, sessionOf, h, Option.map_some, Option.getD_some]

theorem measurement_eq : measurement s p i = BitVec.ofNat 512 (bytesNat (shake256 64 (
    if i ≤ 2 then (kget s.firmware i).getD (Config.firmware i)
    else Config.measuredBytes i (if i = 3 then ((s.part p).frozen.getD (freezeOf s p)).words else healthWords (s.part p))))) := by
  rw [measurement, digestOf, measured, firmwareOf]

end

/-! ## TDISP (R398 to R401, R405) -/

section
variable {s : State} {n : Nat} {p dst : PartId} {mod_ : BitVec 16}

/-- The partition takes part in TDISP: in service since before this cycle. -/
def serves (s : State) (p : PartId) : Prop := (s.part p).inService = true ∧ (s.part p).serviceAt ≠ some s.cycle

/-- The session is secured, and the interface is no other's. -/
def mayAsk (s : State) (n : Nat) (p : PartId) : Prop := inPhase s n .secured ∧ ((s.part p).owner = none ∨ (s.part p).owner = some n)

theorem notServing_iff : notServing s p = true ↔ ¬ serves s p := by
  rw [notServing, serves, Bool.or_eq_true, Bool.not_eq_true', beq_iff_eq]
  cases (s.part p).inService <;> simp

theorem stranger_iff : (!secured s n || (s.part p).owner.any (fun x => x != n)) = true ↔ ¬ mayAsk s n p := by
  rw [mayAsk, ← secured_iff]
  cases secured s n <;> cases (s.part p).owner <;> simp

variable (go : State)

theorem tdispGuard_notServing (h : ¬ serves s p) : tdispGuard s n p go = hostSays s (.busy n p) := by
  rw [tdispGuard]
  exact if_pos (notServing_iff.mpr h)

section
variable (h : serves s p)
include h

theorem tdispGuard_stranger (ha : ¬ mayAsk s n p) : tdispGuard s n p go = hostSays s (.spdmError n) := by
  rw [tdispGuard]
  exact (if_neg fun e => notServing_iff.mp e h).trans (if_pos (stranger_iff.mpr ha))

variable (ha : mayAsk s n p)
include ha

theorem tdispGuard_wiping (hw : (s.part p).wipe.isSome = true) : tdispGuard s n p go = hostSays s (.busy n p) := by
  rw [tdispGuard]
  exact (if_neg fun e => notServing_iff.mp e h).trans ((if_neg fun e => stranger_iff.mp e ha).trans (if_pos hw))

theorem tdispGuard_goes (hw : (s.part p).wipe = none) : tdispGuard s n p go = go := by
  rw [tdispGuard]
  exact (if_neg fun e => notServing_iff.mp e h).trans ((if_neg fun e => stranger_iff.mp e ha).trans (if_neg (by rw [hw]; decide)))

end

/-- A TDISP message behind the guard (R398, R430). -/
theorem tdispGuard_turns : (¬ serves s p → (.next (tdispGuard s n p go) : Out) = .next (hostSays s (.busy n p))) ∧
    (serves s p → ¬ mayAsk s n p → (.next (tdispGuard s n p go) : Out) = .next (hostSays s (.spdmError n))) ∧
    (serves s p → mayAsk s n p → (s.part p).wipe.isSome = true → (.next (tdispGuard s n p go) : Out) = .next (hostSays s (.busy n p))) :=
  ⟨fun h => congrArg _ (tdispGuard_notServing go h), fun h ha => congrArg _ (tdispGuard_stranger go h ha),
    fun h ha hw => congrArg _ (tdispGuard_wiping go h ha hw)⟩

theorem leftOut_iff : leftOut s p = true ↔ (s.part p).inService = false ∧ p.val < s.bringUp ∧ s.bringUp ≤ 16 := by
  rw [leftOut, Bool.and_eq_true, Bool.and_eq_true, Bool.not_eq_true', decide_eq_true_eq, decide_eq_true_eq, and_assoc]

theorem interfaceState_passed (h : leftOut s p = true) (hs : inPhase s n .secured) :
    execGetDeviceInterfaceState n p s = .next (hostSays s (.state n p .unlocked)) := by
  rw [execGetDeviceInterfaceState, h, secured_iff.mpr hs]
  rfl

theorem interfaceState_guarded (h : ¬ (leftOut s p = true ∧ inPhase s n .secured)) :
    execGetDeviceInterfaceState n p s = .next (tdispGuard s n p (hostSays s (.state n p (s.part p).tdisp))) := by
  rw [execGetDeviceInterfaceState, if_neg]
  rw [Bool.and_eq_true, secured_iff]
  exact h

theorem vendorDefined_installs (hs : inPhase s n .secured) (ho : (s.part p).owner = some n)
    (ht : (s.part p).tdisp = .locked ∨ (s.part p).tdisp = .run) (hw : (s.part p).wipe = none) :
    execVendorDefinedRequest n p mod_ dst s = .next (hostSays (s.modPart p (fun q => { q with
      linkKeys := (mod_, dst) :: q.linkKeys.filter (fun k => k != (mod_, dst)),
      unreachable := q.unreachable.filter (fun k => k != (mod_, dst)) })) (.vendorDone n)) := by
  rw [execVendorDefinedRequest]
  refine if_pos ?_
  simp only [Bool.and_eq_true, Bool.or_eq_true, beq_iff_eq, Option.isNone_iff_eq_none]
  exact ⟨⟨⟨secured_iff.mpr hs, ho⟩, ht⟩, hw⟩

theorem vendorDefined_errs (h : ¬ inPhase s n .secured ∨ (s.part p).owner ≠ some n ∨
      ((s.part p).tdisp ≠ .locked ∧ (s.part p).tdisp ≠ .run) ∨ (s.part p).wipe.isSome = true) :
    execVendorDefinedRequest n p mod_ dst s = .next (hostSays s (.spdmError n)) := by
  rw [execVendorDefinedRequest]
  refine if_neg ?_
  simp only [Bool.and_eq_true, Bool.or_eq_true, beq_iff_eq, Option.isNone_iff_eq_none]
  rintro ⟨⟨⟨hs, ho⟩, ht⟩, hw⟩
  rcases h with h | h | ⟨hl, hr⟩ | h
  · exact h (secured_iff.mp hs)
  · exact h ho
  · exact ht.elim hl hr
  · rw [hw] at h
    exact Bool.false_ne_true h

/-- A TDISP state entered, with its event. -/
theorem enterTdisp_eq (t : Tdisp) : enterTdisp s p t = { s.modPart p (fun q => { q with tdisp := t }) with
    hostOut := s.hostOut ++ [.event (s.part p).hostAddr (eventBytes 3 p t s.tstamp)] } := by
  rw [enterTdisp, State.hostEvent, State.part_modPart]
  rfl

/-- What an interface in LOCKED or RUN becomes in ERROR (R399). -/
theorem enterError_enters (h : (s.part p).tdisp = .locked ∨ (s.part p).tdisp = .run) :
    enterError s p = enterTdisp (haltPartition (s.modPart p (fun q => { q with unfrozen := false })) p) p .error := by
  rw [enterError]
  refine if_pos ?_
  rw [Bool.or_eq_true, beq_iff_eq, beq_iff_eq]
  exact h

theorem enterError_stays (hl : (s.part p).tdisp ≠ .locked) (hr : (s.part p).tdisp ≠ .run) : enterError s p = s := by
  rw [enterError]
  refine if_neg ?_
  rw [Bool.or_eq_true, beq_iff_eq, beq_iff_eq]
  exact fun h => h.elim hl hr

end

/-! ## The life-cycle wipe (R402, R403) -/

section
variable {s : State} {p : PartId} {w : Wipe}

/-- A partition whose cores' copies and translations are dropped. -/
def copiesDropped (s : State) (p : PartId) : State :=
  (s.part p).coreIds.foldl (fun s c => s.modCoreC p c (fun k => { k with l1d := [], l1i := [], plb := [], holders := [] })) s

/-- A projection of a partition that does not look at its cores is as before. -/
theorem part_copiesDropped {β : Type} (π : Partition → β) (h : ∀ q cores, π { q with cores := cores } = π q) :
    π ((copiesDropped s p).part p) = π (s.part p) := by
  rw [copiesDropped]
  exact foldl_keeps (fun u : State => π (u.part p)) (fun u c => part_modCore_keeps π h u p c _) _ s

theorem copiesDropped_keeps : (copiesDropped s p).hostOut = s.hostOut ∧ (copiesDropped s p).time = s.time := by
  rw [copiesDropped]
  refine ⟨foldl_keeps (fun u : State => u.hostOut) ?_ _ s, foldl_keeps (fun u : State => u.time) ?_ _ s⟩ <;>
  · intro _ _
    rfl

theorem wipeMemory_eq : wipeMemory s p =
    ((loseCaddy ((copiesDropped s p).wipeRange (spaceBase p 0) (spaceBase p 0 + 4 * 2 ^ 48)) p).wipeRange
      ((80 + p.val) * 2 ^ 48) ((81 + p.val) * 2 ^ 48)).modPart p
        (fun q => { q with slices := [], tcache := [], steep := [], retired := [], worlds := [], keyGen := q.keyGen + 1 }) := by
  rw [wipeMemory, copiesDropped]

theorem part_wipeMemory : (wipeMemory s p).part p = { (copiesDropped s p).part p with
    slices := [], tcache := [], steep := [], retired := [], worlds := [], keyGen := ((copiesDropped s p).part p).keyGen + 1 } := by
  rw [wipeMemory_eq, State.part_modPart]
  rfl

/-- A wipe that is over, before the interface's state changes. -/
def wipeOver (s : State) (p : PartId) : State := (wipeMemory s p).modPart p (fun q => { idleDispatcher q with wipe := none })

theorem part_wipeOver : (wipeOver s p).part p = { idleDispatcher ((wipeMemory s p).part p) with wipe := none } := by
  rw [wipeOver, State.part_modPart]

theorem wipeOver_rest : (wipeOver s p).hostOut = s.hostOut ∧ (wipeOver s p).time = s.time := by
  rw [wipeOver, wipeMemory_eq]
  exact copiesDropped_keeps

theorem wipeOver_keeps : ((wipeOver s p).part p).keyGen = (s.part p).keyGen + 1 ∧ ((wipeOver s p).part p).pins = (s.part p).pins ∧
    ((wipeOver s p).part p).r = { (s.part p).r with dspctl := (s.part p).r.dspctl &&& ~~~(1 : Word) } ∧
    ((wipeOver s p).part p).hostAddr = (s.part p).hostAddr ∧ ((wipeOver s p).part p).inService = (s.part p).inService := by
  rw [part_wipeOver, part_wipeMemory]
  exact ⟨part_copiesDropped (fun q => q.keyGen + 1) (fun _ _ => rfl), part_copiesDropped (fun q => q.pins) (fun _ _ => rfl),
    part_copiesDropped (fun q => { q.r with dspctl := q.r.dspctl &&& ~~~(1 : Word) }) (fun _ _ => rfl),
    part_copiesDropped (fun q => q.hostAddr) (fun _ _ => rfl), part_copiesDropped (fun q => q.inService) (fun _ _ => rfl)⟩

theorem wipeOver_drops : ((wipeOver s p).part p).retired = [] ∧ ((wipeOver s p).part p).wipe = none := by
  rw [part_wipeOver, part_wipeMemory]
  exact ⟨rfl, rfl⟩

theorem blank_wipeOver {k : Nat} (h : spaceBase p 0 ≤ k) (hk : k < spaceBase p 0 + 4 * 2 ^ 48) : (wipeOver s p).blank k := by
  have h8 : spaceBase p 0 + 4 * 2 ^ 48 = 8 * ((spaceBase p 0 + 4 * 2 ^ 48) / 8) := by simp only [spaceBase]; omega
  have hw : ((copiesDropped s p).wipeRange (spaceBase p 0) (spaceBase p 0 + 4 * 2 ^ 48)).blank k :=
    State.blank_wipeRange h (by omega)
  have hl : (loseCaddy ((copiesDropped s p).wipeRange (spaceBase p 0) (spaceBase p 0 + 4 * 2 ^ 48)) p).blank k := hw
  have hz := State.blank_wipeRange_of ((80 + p.val) * 2 ^ 48) ((81 + p.val) * 2 ^ 48) hl
  rw [wipeOver, wipeMemory_eq]
  exact hz

/-- What a LOCK or a STOP makes of the interface's configuration (R399, R400, R404). -/
def configSettled (s : State) (p : PartId) (lock : Bool) : State :=
  if lock then s.modPart p (fun q => { q with frozen := some (freezeOf s p), unfrozen := false })
  else s.modPart p (fun q => { q with owner := none, linkKeys := [], unreachable := [], frozen := none })

/-- The state that a wipe ends in, and its answer. -/
def wipeState (w : Wipe) : Tdisp := if w.lock then .locked else .unlocked
def wipeAnswer (w : Wipe) (p : PartId) : HostMsg := if w.lock then .locked w.sess p else .stopped w.sess p

theorem wipeComplete_none (h : (s.part p).wipe = none) : execLifeCycleWipeComplete p s = .next s := by
  rw [execLifeCycleWipeComplete, h]

theorem wipeComplete_resetting (h : (s.part p).wipe.isSome = true) (hr : (s.part p).rst ≠ .none) :
    execLifeCycleWipeComplete p s = .next s := by
  obtain ⟨w, hw⟩ := Option.isSome_iff_exists.mp h
  rw [execLifeCycleWipeComplete, hw]
  exact if_pos (bne_iff_ne.mpr hr)

theorem wipeComplete_ends (h : (s.part p).wipe = some w) (hr : (s.part p).rst = .none) : execLifeCycleWipeComplete p s =
    .next (hostSays (enterTdisp (configSettled (wipeOver s p) p w.lock) p (wipeState w)) (wipeAnswer w p)) := by
  rw [execLifeCycleWipeComplete, h]
  refine (if_neg (by rw [hr]; decide)).trans ?_
  rw [configSettled, wipeState, wipeAnswer]
  cases w.lock <;> rfl

/-- The state after a completed wipe. -/
def lifeEnded (s : State) (p : PartId) (w : Wipe) : State :=
  hostSays (enterTdisp (configSettled (wipeOver s p) p w.lock) p (wipeState w)) (wipeAnswer w p)

theorem part_lifeEnded : (lifeEnded s p w).part p = { (configSettled (wipeOver s p) p w.lock).part p with tdisp := wipeState w } := by
  rw [lifeEnded, enterTdisp_eq]
  exact State.part_modPart (configSettled (wipeOver s p) p w.lock) p (fun q => { q with tdisp := wipeState w })

theorem configSettled_keeps {β : Type} (π : Partition → β) (u : State) (lock : Bool)
    (h : ∀ q o l x f z, π { q with owner := o, linkKeys := l, unreachable := x, frozen := f, unfrozen := z } = π q) :
    π ((configSettled u p lock).part p) = π (u.part p) := by
  cases lock
  · rw [configSettled, if_neg Bool.false_ne_true, State.part_modPart]
    exact h (u.part p) _ _ _ _ (u.part p).unfrozen
  · rw [configSettled, if_pos rfl, State.part_modPart]
    exact h (u.part p) (u.part p).owner (u.part p).linkKeys (u.part p).unreachable _ _

theorem clear_enable (v : Word) : (v &&& ~~~(1 : Word)).getLsbD 0 = false := by
  rw [BitVec.getLsbD_and, BitVec.getLsbD_not]
  simp

/-- What a completed wipe leaves of its partition. -/
theorem lifeEnded_leaves : ((lifeEnded s p w).part p).wipe = none ∧ ((lifeEnded s p w).part p).keyGen = (s.part p).keyGen + 1 ∧
    ((lifeEnded s p w).part p).tdisp = wipeState w ∧ ((lifeEnded s p w).part p).retired = [] ∧
    ((lifeEnded s p w).part p).pins = (s.part p).pins ∧ ((lifeEnded s p w).part p).r.dspctl.getLsbD 0 = false := by
  obtain ⟨hk, hp, hr, -, -⟩ := wipeOver_keeps (s := s) (p := p)
  obtain ⟨ht, hw⟩ := wipeOver_drops (s := s) (p := p)
  rw [part_lifeEnded]
  refine ⟨(configSettled_keeps (fun q => q.wipe) _ w.lock (fun _ _ _ _ _ _ => rfl)).trans hw,
    (configSettled_keeps (fun q => q.keyGen) _ w.lock (fun _ _ _ _ _ _ => rfl)).trans hk, rfl,
    (configSettled_keeps (fun q => q.retired) _ w.lock (fun _ _ _ _ _ _ => rfl)).trans ht,
    (configSettled_keeps (fun q => q.pins) _ w.lock (fun _ _ _ _ _ _ => rfl)).trans hp, ?_⟩
  refine (congrArg (fun r : PRegs => r.dspctl.getLsbD 0) ((configSettled_keeps (fun q => q.r) _ w.lock
    (fun _ _ _ _ _ _ => rfl)).trans hr)).trans ?_
  exact clear_enable _

theorem frozen_lifeEnded : ((lifeEnded s p w).part p).frozen = if w.lock then some (freezeOf (wipeOver s p) p) else none := by
  rw [part_lifeEnded, configSettled]
  cases w.lock
  · rw [if_neg Bool.false_ne_true, State.part_modPart]
    rfl
  · rw [if_pos rfl, State.part_modPart]
    rfl

theorem lifeEnded_unowned (h : w.lock = false) : ((lifeEnded s p w).part p).owner = none ∧ ((lifeEnded s p w).part p).linkKeys = [] := by
  rw [part_lifeEnded, configSettled, h, if_neg Bool.false_ne_true, State.part_modPart]
  exact ⟨rfl, rfl⟩

theorem blank_lifeEnded {k : Nat} (h : spaceBase p 0 ≤ k) (hk : k < spaceBase p 0 + 4 * 2 ^ 48) : (lifeEnded s p w).blank k := by
  have hb := blank_wipeOver (s := s) h hk
  rw [lifeEnded, enterTdisp_eq, configSettled]
  cases w.lock
  · exact hb
  · exact hb

theorem hostOut_lifeEnded : (lifeEnded s p w).hostOut =
    s.hostOut ++ [.event (s.part p).hostAddr (eventBytes 3 p (wipeState w) s.tstamp), wipeAnswer w p] := by
  obtain ⟨-, -, -, ha, -⟩ := wipeOver_keeps (s := s) (p := p)
  obtain ⟨ho, ht⟩ := wipeOver_rest (s := s) (p := p)
  have hh : (configSettled (wipeOver s p) p w.lock).hostOut = (wipeOver s p).hostOut := by
    rw [configSettled]
    cases w.lock <;> rfl
  have hn : (configSettled (wipeOver s p) p w.lock).time = (wipeOver s p).time := by
    rw [configSettled]
    cases w.lock <;> rfl
  have hx : ((configSettled (wipeOver s p) p w.lock).part p).hostAddr = ((wipeOver s p).part p).hostAddr :=
    configSettled_keeps (fun q => q.hostAddr) (wipeOver s p) w.lock (fun _ _ _ _ _ _ => rfl)
  rw [lifeEnded, enterTdisp_eq, hostSays, hh, ho, State.tstamp, hn, ht, List.append_assoc]
  rw [hx, ha]
  rfl

/-- The frozen configuration of an interface after its LOCK (R400). -/
theorem freezeOf_wipeOver : (freezeOf (wipeOver s p) p).part = p ∧ (freezeOf (wipeOver s p) p).base = 0 ∧
    (freezeOf (wipeOver s p) p).lwbase = (s.part p).r.lwbase ∧ (freezeOf (wipeOver s p) p).caddyMode = (s.part p).r.caddy.getLsbD 63 ∧
    ((s.part p).inService = true → (freezeOf (wipeOver s p) p).limit = 2 ^ 40 ∧ (freezeOf (wipeOver s p) p).slices = List.range 16 ∧
      (freezeOf (wipeOver s p) p).bankCores = (List.range 16).map (fun i => 256 + i) ∧
      (freezeOf (wipeOver s p) p).memLinks = [0, 1, 2, 3] ∧ (freezeOf (wipeOver s p) p).port = [p.val]) := by
  obtain ⟨-, -, hr, -, hs⟩ := wipeOver_keeps (s := s) (p := p)
  rw [freezeOf, hr, hs]
  refine ⟨rfl, rfl, rfl, rfl, fun h => ?_⟩
  rw [h]
  exact ⟨rfl, rfl, rfl, rfl, rfl⟩

end

/-! ## The responder before it opens, and the guard of each TDISP message -/

theorem spdm_closed {s : State} {p : PartId} {n i : Nat} {nonce : BitVec 256} (h : s.bringUp ≠ 16) {j : Instr}
    (hj : j ∈ ([.getVersion n, .getCapabilities n, .negotiateAlgorithms n, .getDigests n, .getCertificate n, .challenge n nonce,
      .getMeasurements n p i, .keyExchange n, .finish n, .endSession n] : List Instr)) : exec j s = .next s := by
  simp only [List.mem_cons, List.not_mem_nil, or_false] at hj
  rcases hj with rfl | rfl | rfl | rfl | rfl | rfl | rfl | rfl | rfl | rfl
  case inr.inr.inr.inr.inr.inr.inl =>
    by_cases hi : 1 ≤ i ∧ i ≤ 4
    · exact (getMeasurements_block hi).trans (responds_closed h _)
    · exact (getMeasurements_none hi).trans (responds_closed h _)
  case inr.inr.inr.inr.inr.inr.inr.inl =>
    by_cases hp : inPhase s n .negotiating
    · exact (keyExchange_agrees hp).trans (responds_closed h _)
    · exact (keyExchange_errs hp).trans (responds_closed h _)
  case inr.inr.inr.inr.inr.inr.inr.inr.inl =>
    by_cases hp : inPhase s n .keyed
    · exact (finish_secures hp).trans (responds_closed h _)
    · exact (finish_errs hp).trans (responds_closed h _)
  all_goals exact responds_closed h _

/-- The answers that the guard gives in a message's place. -/
def guarded (s : State) (n : Nat) (p : PartId) (j : Instr) : Prop :=
  (¬ serves s p → exec j s = .next (hostSays s (.busy n p))) ∧
  (serves s p → ¬ mayAsk s n p → exec j s = .next (hostSays s (.spdmError n))) ∧
  (serves s p → mayAsk s n p → (s.part p).wipe.isSome = true → exec j s = .next (hostSays s (.busy n p)))

theorem tdisp_guarded {s : State} {p : PartId} {n : Nat} {j : Instr}
    (hj : j ∈ ([.getTdispVersion n p, .getTdispCapabilities n p, .lockInterfaceRequest n p, .getDeviceInterfaceReport n p,
      .startInterfaceRequest n p, .stopInterfaceRequest n p] : List Instr)) : guarded s n p j := by
  simp only [List.mem_cons, List.not_mem_nil, or_false] at hj
  rcases hj with rfl | rfl | rfl | rfl | rfl | rfl
  all_goals exact tdispGuard_turns _

section
variable {s : State} {p : PartId} {n : Nat} (hs : serves s p) (ha : mayAsk s n p) (hw : (s.part p).wipe = none)
include hs ha hw

theorem lock_begins (h : (s.part p).tdisp = .unlocked) : execLockInterfaceRequest n p s =
    .next ((s.modPart p (fun q => { q with owner := some n, wipe := some { lock := true, sess := n } })).afterTicks lifeTicks
      (.lifeCycleWipeComplete p)) := by
  rw [execLockInterfaceRequest, tdispGuard_goes _ hs ha hw, h, startWipe, State.modPart_modPart]
  rfl

theorem lock_errs (h : (s.part p).tdisp ≠ .unlocked) : execLockInterfaceRequest n p s = .next (hostSays s (.spdmError n)) := by
  rw [execLockInterfaceRequest, tdispGuard_goes _ hs ha hw, if_neg (fun e => h (beq_iff_eq.mp e))]

theorem stop_errs (h : (s.part p).tdisp = .unlocked) : execStopInterfaceRequest n p s = .next (hostSays s (.spdmError n)) := by
  rw [execStopInterfaceRequest, tdispGuard_goes _ hs ha hw, if_pos (beq_iff_eq.mpr h)]

theorem stop_begins (h : (s.part p).tdisp ≠ .unlocked) :
    execStopInterfaceRequest n p s = .next (startWipe (haltPartition s p) p false n) := by
  rw [execStopInterfaceRequest, tdispGuard_goes _ hs ha hw, if_neg (fun e => h (beq_iff_eq.mp e))]

theorem report_signed (h : (s.part p).tdisp = .locked) : execGetDeviceInterfaceReport n p s =
    .next (hostSays (signed s n (told 0xFE [p.val] 0x7E [p.val, (s.part p).tdisp.code, (measurement s p 3).toNat, (s.part p).keyGen.toNat])).2
      (.report n p .locked (measurement s p 3) (s.part p).keyGen
        (signed s n (told 0xFE [p.val] 0x7E [p.val, (s.part p).tdisp.code, (measurement s p 3).toNat, (s.part p).keyGen.toNat])).1)) := by
  rw [execGetDeviceInterfaceReport, tdispGuard_goes _ hs ha hw, if_pos (beq_iff_eq.mpr h), h]

theorem report_errs (h : (s.part p).tdisp ≠ .locked) :
    execGetDeviceInterfaceReport n p s = .next (hostSays s (.spdmError n)) := by
  rw [execGetDeviceInterfaceReport, tdispGuard_goes _ hs ha hw, if_neg (fun e => h (beq_iff_eq.mp e))]

theorem start_opens (h : (s.part p).tdisp = .locked) :
    execStartInterfaceRequest n p s = .next (hostSays (enterTdisp s p .run) (.started n p)) := by
  rw [execStartInterfaceRequest, tdispGuard_goes _ hs ha hw, if_pos (beq_iff_eq.mpr h)]

theorem start_errs (h : (s.part p).tdisp ≠ .locked) : execStartInterfaceRequest n p s = .next (hostSays s (.spdmError n)) := by
  rw [execStartInterfaceRequest, tdispGuard_goes _ hs ha hw, if_neg (fun e => h (beq_iff_eq.mp e))]

end

/-- A partition halted because its configuration has changed. -/
def halted (s : State) (p : PartId) : State := haltPartition (s.modPart p (fun q => { q with unfrozen := false })) p

theorem configChange_fails {s : State} {p : PartId} (h : (s.part p).tdisp = .locked ∨ (s.part p).tdisp = .run) :
    execConfigChange p none s = .next { (halted s p).modPart p (fun q => { q with tdisp := .error }) with
      hostOut := (halted s p).hostOut ++ [.event ((halted s p).part p).hostAddr (eventBytes 3 p .error (halted s p).tstamp)] } := by
  rw [execConfigChange, enterError_enters h, enterTdisp_eq, halted]

theorem configChange_stays {s : State} {p : PartId} (hl : (s.part p).tdisp ≠ .locked) (hr : (s.part p).tdisp ≠ .run) :
    execConfigChange p none s = .next s := by
  rw [execConfigChange, enterError_stays hl hr]

theorem configChange_image {s : State} {p : PartId} {f : Firmware} : execConfigChange p (some f) s =
    .next (if imageVerifies f = false then s
      else if f.index = 1 then allParts.foldl enterError { s with firmware := kput s.firmware f.index f.image }
      else { s with firmware := kput s.firmware f.index f.image }) := by
  rw [execConfigChange]
  cases hv : imageVerifies f with
  | false => rw [if_pos rfl]; rfl
  | true => rw [if_neg Bool.false_ne_true.symm]; rfl

/-- A host access that nothing holds back, in each outcome (R396). -/
theorem hostAccess_outcomes {s s1 : State} {p : PartId} {a : BitVec 64} {op : HostOp} {ps : List HostPiece} {i : Nat} {b : List Byte}
    {aop : AmoOp} {sz : AmoSize} {v c : Word} {x : HostPiece} (hb : heldBehind s (.hostAccess p a op) = false)
    (hf : hostFit s p a op = true) (hp : hostAsked s p a op = some ps) (hx : hostBarred s p op ps = false) :
    (op = .read i →
      (∀ u, readHostPieces p ps [] s = .data b u → execHostAccess p a op s = .next (hostSays u (.readData p a b))) ∧
      (∀ u, readHostPieces p ps [] s = .poisoned u → execHostAccess p a op s = .next (hostSays u (.error p a))) ∧
      (∀ u, readHostPieces p ps [] s = .later u → execHostAccess p a op s = .next (u.holdBack (.hostAccess p a op)))) ∧
    ((op = .write b ∨ op = .atomic aop sz v c) → ps.findSome? (pieceHeld s p (.step (.hostAccess p a op))) = some s1 →
      execHostAccess p a op s = .next (s1.holdBack (.hostAccess p a op))) ∧
    ((op = .write b ∨ op = .atomic aop sz v c) → ps.findSome? (pieceHeld s p (.step (.hostAccess p a op))) = none →
      reachPieces p ps (ps.foldl (fun s x => piecePassed s p (.step (.hostAccess p a op)) x) s) = .error s1 →
      execHostAccess p a op s = .next (s1.holdBack (.hostAccess p a op))) ∧
    (op = .write b → ps.findSome? (pieceHeld s p (.step (.hostAccess p a op))) = none →
      reachPieces p ps (ps.foldl (fun s x => piecePassed s p (.step (.hostAccess p a op)) x) s) = .ok s1 →
      execHostAccess p a op s = .next (hostSays (sealPieces (writePieces ps b s1) p ps) (.done p a))) ∧
    (op = .atomic aop sz v c → ps = [x] → pieceHeld s p (.step (.hostAccess p a op)) x = none →
      reachPieces p ps (ps.foldl (fun s x => piecePassed s p (.step (.hostAccess p a op)) x) s) = .ok s1 →
      execHostAccess p a op s = .next (hostSays (sealPieces (amoAt s1 x.key aop sz v c).2 p ps)
        (.readData p a (natBytes (amoAt s1 x.key aop sz v c).1 (amoBytes sz))))) := by
  have he := hostAccess_performed hb hf hp hx
  refine ⟨fun ho => ?_, fun ho h => he.trans (congrArg _ (hostPerform_held (hostWrites_of ho) h)),
    fun ho h hr => he.trans (congrArg _ (hostPerform_waits (hostWrites_of ho) h hr)), fun ho h hr => ?_, fun ho h1 h hr => ?_⟩
  · have hr := hostPerform_read (s := s) (p := p) (a := a) (ps := ps) ho
    refine ⟨fun u hu => ?_, fun u hu => ?_, fun u hu => ?_⟩ <;>
      exact he.trans (congrArg _ (hr.trans (congrArg (readAnswered p a op) hu)))
  · have hw := hostPerform_writes (hostWrites_of (aop := aop) (sz := sz) (v := v) (c := c) (Or.inl ho)) h hr
    exact he.trans (congrArg _ (hw.trans (hostWrite_write ho)))
  · have hn : ps.findSome? (pieceHeld s p (.step (.hostAccess p a op))) = none := by
      rw [h1, List.findSome?_cons, h]
      rfl
    have hw := hostPerform_writes (hostWrites_of (b := b) (Or.inr ho)) hn hr
    exact he.trans (congrArg _ (hw.trans (hostWrite_atomic ho h1)))

end Sys2Proof.Machine

open Sys2Proof Sys2Proof.Machine

/-- Settles O59, from the equation of each access, message and change in each state of its interface. -/
theorem hostSteps : Obligations.HostSteps := by
  unfold Obligations.HostSteps
  intro s s1 p dst n i a op ps x b aop sz v c nonce mod_ w se fw q replies answers need pieces me passed sealing clear isOpen ss said secret
    serving idle enters fails
  refine ⟨hostAccess_behind, fun hb => ⟨fun h => hostAccess_closed hb ?_, fun ho ha hp => ?_, fun hp h => ?_, fun ho ha hp hc hs => ?_⟩,
    fun h j hj => spdm_closed h hj, fun hu => ?_, fun h l => ⟨exchanged_some h l, signed_some h l⟩, exchanged_none, measurement_eq,
    vendorDefined_installs, vendorDefined_errs, ?_, ?_, fun h => ?_, configChange_stays, ?_,
    wipeComplete_none, wipeComplete_resetting, fun h hr => ?_⟩
  · rw [← Bool.not_eq_true, hostFit_iff, not_and_or]
    exact h
  · refine (hostAccess_nowhere hb (hostFit_iff.mpr ⟨ho, ha⟩) hp).trans (congrArg (fun u => Host.Outcome.next (hostSays u _)) ?_)
    obtain ⟨ht, hi, hr, hw⟩ := ho
    exact exportListed_eq ⟨hi, hr, hw, by rw [ht]; decide⟩ _ _
  · cases hf : hostFit s p a op with
    | false => exact hostAccess_closed hb hf
    | true =>
      refine hostAccess_barred hb hf hp ?_
      rw [hostBarred, Bool.or_eq_true]
      exact h.imp (fun h => Bool.not_eq_false _ ▸ h) id
  · refine hostAccess_outcomes hb (hostFit_iff.mpr ⟨ho, ha⟩) hp ?_
    rw [hostBarred, Bool.or_eq_false_iff]
    exact ⟨hc, hs⟩
  · have hr := responds_open hu
    exact ⟨hr _, hr _, hr _, hr _, hr _, hr _, fun h1 h4 => (getMeasurements_block ⟨h1, h4⟩).trans (hr _),
      fun h => (getMeasurements_none h).trans (hr _), fun h hp => (keyExchange_agrees ⟨_, h, hp⟩).trans (hr _),
      fun h => (keyExchange_errs h).trans (hr _), fun h => (finish_secures h).trans (hr _), fun h => (finish_errs h).trans (hr _),
      fun h => (endSession_ends h).trans (hr _), fun h => (endSession_errs h).trans (hr _)⟩
  · refine ⟨fun j hj => tdisp_guarded hj, fun h hs => interfaceState_passed (leftOut_iff.mpr h) hs, fun h => ?_⟩
    have he := interfaceState_guarded (s := s) (n := n) (p := p) fun e => h ⟨leftOut_iff.mp e.1, e.2⟩
    obtain ⟨h1, h2, h3⟩ := tdispGuard_turns (s := s) (n := n) (p := p) (hostSays s (.state n p (s.part p).tdisp))
    exact ⟨fun e => he.trans (h1 e), fun e e' => he.trans (h2 e e'), fun e e' e'' => he.trans (h3 e e' e'')⟩
  · rintro ha ⟨hs, hw⟩
    have hg (go : State) : tdispGuard s n p go = go := tdispGuard_goes go hs ha hw
    have hi := interfaceState_guarded (s := s) (n := n) (p := p) fun e =>
      Bool.false_ne_true ((leftOut_iff.mp e.1).1.symm.trans hs.1)
    exact ⟨congrArg _ (hg _), congrArg _ (hg _), hi.trans (congrArg _ (hg _)),
      fun h => ⟨lock_begins hs ha hw h, stop_errs hs ha hw h⟩, fun h => ⟨lock_errs hs ha hw h, stop_begins hs ha hw h⟩,
      fun h => ⟨report_signed hs ha hw h, (start_opens hs ha hw h).trans (by rw [enterTdisp_eq]; rfl)⟩,
      fun h => ⟨report_errs hs ha hw h, start_errs hs ha hw h⟩⟩
  · exact configChange_fails h
  · exact configChange_image (p := p)
  · obtain ⟨h1, h2, h3, h4, h5, h6⟩ := lifeEnded_leaves (s := s) (p := p) (w := w)
    refine ⟨lifeEnded s p w, wipeComplete_ends h hr, h1, h2, h3, h4, h5, h6, ?_, fun z hz => ?_, lifeEnded_unowned,
      fun k hk hl => blank_lifeEnded hk hl, ?_⟩
    · rw [frozen_lifeEnded]
      cases w.lock <;> simp
    · rw [frozen_lifeEnded] at hz
      cases hl : w.lock with
      | false => rw [hl] at hz; cases hz
      | true =>
        rw [hl, if_pos rfl] at hz
        cases hz
        exact freezeOf_wipeOver
    · rw [hostOut_lifeEnded, wipeState, wipeAnswer]
      cases w.lock <;> rfl

end

section
/-! SUPPORT. Tasters' bindings and violations (21 R328, R336), counters and traces (28 R407 to R418), and the Idran controller (08 R145). -/
namespace Sys2Proof.Machine

theorem State.core_modCoreW_ne (s : State) (p : PartId) {c c' : CoreId} (f : CoreWorld → CoreWorld) (h : c' ≠ c) :
    (s.modCoreW p c f).core p c' = s.core p c' := by
  rw [State.modCoreW, State.core_setCore_ne _ _ (Or.inr h)]

/-! ## Bindings (R328) -/

section
variable {s : State} {p : PartId} {c t1 : CoreId} {v : Word}

theorem markWatched_mem (on : Bool) : (markWatched s p c on).mem = s.mem := rfl

theorem watched_markWatched (on : Bool) : (markWatched s p c on).watched p c = s.watched p c := by
  rw [markWatched]
  exact State.watched_modCoreW_of _ _ _ _ rfl p c

theorem core_markWatched (on : Bool) : (markWatched s p c on).core p c =
    { s.core p c with w := { (s.core p c).w with slots := kmapVals (fun _ x => markSlot on x) (s.core p c).w.slots } } := by
  rw [markWatched, State.core_modCoreW]

theorem bindOk_other (hb : bindOk s p c v = true) (ht : corePut (tasterOf v) = some t1) : t1 ≠ c := by
  rw [bindOk, ht] at hb
  simp only [Bool.and_eq_true, bne_iff_ne] at hb
  exact hb.1.1.1.1.1.2

theorem bindTaster_declines (h : bindOk s p c v = false) :
    bindTaster s p c v = s.modCoreW p c (fun w => { w with tbind := w.tbind ||| 0x10000000000 }) := by
  rw [bindTaster]
  exact if_neg (Bool.eq_false_iff.mp h)

theorem bindTaster_accepts (hb : bindOk s p c v = true) (ht : corePut (tasterOf v) = some t1) : bindTaster s p c v =
    markWatched ((s.modCoreW p c (fun w => { w with tbind := tbindFields v, log := LogState.empty })).modCoreW p t1
      (fun w => { w with logseq := 0, ackWas := 0 })) p c true := by
  rw [bindTaster]
  refine (if_pos hb).trans ?_
  rw [ht]

/-- A written EN is in the fields of TBIND. -/
theorem tbindFields_enabled (h : v.getLsbD 63 = true) : (tbindFields v).getLsbD 63 = true := by
  rw [tbindFields, BitVec.getLsbD_and, h]
  decide

/-- A new binding: TBIND as written, a new log, and the taster's LOGSEQ at 0. -/
theorem bindTaster_leaves (hv : v.getLsbD 63 = true) (hb : bindOk s p c v = true) (ht : corePut (tasterOf v) = some t1) :
    (bindTaster s p c v).mem = s.mem ∧ ((bindTaster s p c v).core p c).w.tbind = tbindFields v ∧
    ((bindTaster s p c v).core p c).w.log = LogState.empty ∧ ((bindTaster s p c v).core p t1).w.logseq = 0 ∧
    (bindTaster s p c v).watched p c = true := by
  have hne := bindOk_other hb ht
  have hc : ((s.modCoreW p c (fun w => { w with tbind := tbindFields v, log := LogState.empty })).modCoreW p t1
      (fun w => { w with logseq := 0, ackWas := 0 })).core p c =
      { s.core p c with w := { (s.core p c).w with tbind := tbindFields v, log := LogState.empty } } := by
    rw [State.core_modCoreW_ne _ _ _ hne.symm, State.core_modCoreW]
  rw [bindTaster_accepts hb ht]
  refine ⟨rfl, ?_, ?_, ?_, ?_⟩
  · rw [core_markWatched, hc]
  · rw [core_markWatched, hc]
  · rw [markWatched, State.core_modCoreW_ne _ _ _ hne, State.core_modCoreW]
  · rw [watched_markWatched, State.watched, hc]
    exact tbindFields_enabled hv

theorem tbindUnbind_waits (hw : s.watched p c = true) (hl : logDrained s p c = false) : execTbindUnbind p c v s = .next s := by
  rw [execTbindUnbind, hw, hl]
  rfl

theorem tbindUnbind_unbinds (h : s.watched p c = false ∨ logDrained s p c = true) :
    execTbindUnbind p c v s = .next (unbindTaster s p c v) := by
  rw [execTbindUnbind, if_pos]
  rw [Bool.or_eq_true, Bool.not_eq_true']
  exact h

theorem unbindTaster_unwatched : (unbindTaster s p c v).watched p c = false := by
  rw [unbindTaster, watched_markWatched, State.watched, State.core_modCoreW, bit]
  dsimp only
  rw [tbindFields, BitVec.getLsbD_or, BitVec.getLsbD_and, BitVec.getLsbD_and, BitVec.getLsbD_and,
    (by decide : (0x7FFFFFFFFFFFFFFF : BitVec 64).getLsbD 63 = false), (by decide : (0x10000000000 : BitVec 64).getLsbD 63 = false),
    Bool.and_false, Bool.and_false, Bool.false_and]
  rfl

end

/-! ## Late violations (R336) -/

section
variable {s : State} {p : PartId} {c w : CoreId} {v : Word} {t : Thread}

/-- The slot that LOGVIO names, of a worker. -/
def vioSlot (p : PartId) (w : CoreId) (v : Word) : TRef := ⟨p, w, Fin.ofNat 16 (field v 36 4)⟩

/-- The slot's log has begun after the record that LOGVIO names. -/
def logBegun (s : State) (p : PartId) (w : CoreId) (v : Word) : Bool :=
  match kget (s.core p w).w.log.starts (vioSlot p w v).slot.val with
  | some n => seqGt n (v.toNat % 2 ^ 32)
  | none => false

/-- The record of a late violation. -/
def vioRecord (p : PartId) (w : CoreId) (v : Word) : TrapRec :=
  { TrapRec.none with code := 0x034, cls := 1, core := w.val, slot := (vioSlot p w v).slot.val, d0 := word (v.toNat % 2 ^ 32) }

/-- What a late violation leaves, by the thread of its slot. -/
def vioDone (s : State) (p : PartId) (c w : CoreId) (v : Word) : Option Thread → State
  | some t =>
    if seqGt (v.toNat % 2 ^ 32) (ackBefore s p c) && !logBegun s p w v then
      postRecord (s.setThread (vioSlot p w v) { t with parkAt := some 0x034 }) p
        { vioRecord p w v with ctx := t.ctx, tid := t.tid, corr := t.corr }
    else postRecord s p { vioRecord p w v with d1 := 0x8000000000000000 }
  | none => postRecord s p { vioRecord p w v with d1 := 0x8000000000000000 }

theorem writeLogvio_eq (hw : workerOf s p c = some w) : writeLogvio s p c v = vioDone s p c w v (s.thread (vioSlot p w v)) := by
  rw [writeLogvio, hw]
  dsimp only
  have hs : s.thread ⟨p, w, Fin.ofNat 16 (field v 36 4)⟩ = s.thread (vioSlot p w v) := rfl
  rw [hs, field_low]
  cases s.thread (vioSlot p w v) <;> rfl

theorem writeLogvio_none (h : workerOf s p c = none) : writeLogvio s p c v = s := by
  rw [writeLogvio, h]

variable (hw : workerOf s p c = some w)
include hw

theorem writeLogvio_parks (ht : s.thread (vioSlot p w v) = some t) (hs : seqGt (v.toNat % 2 ^ 32) (ackBefore s p c) = true)
    (hb : logBegun s p w v = false) : writeLogvio s p c v =
    postRecord (s.setThread (vioSlot p w v) { t with parkAt := some 0x034 }) p
      { vioRecord p w v with ctx := t.ctx, tid := t.tid, corr := t.corr } := by
  rw [writeLogvio_eq hw, ht, vioDone]
  exact if_pos (by rw [hs, hb]; rfl)

theorem writeLogvio_late (h : s.thread (vioSlot p w v) = none ∨ seqGt (v.toNat % 2 ^ 32) (ackBefore s p c) = false ∨
      logBegun s p w v = true) : writeLogvio s p c v = postRecord s p { vioRecord p w v with d1 := 0x8000000000000000 } := by
  rw [writeLogvio_eq hw]
  cases ht : s.thread (vioSlot p w v) with
  | none => rfl
  | some t =>
    refine if_neg ?_
    rw [Bool.and_eq_true, Bool.not_eq_true']
    rintro ⟨hs, hb⟩
    rcases h with h | h | h
    · rw [ht] at h
      cases h
    · exact Bool.false_ne_true (h.symm.trans hs)
    · exact Bool.false_ne_true (hb.symm.trans h)

end

/-! ## Link counters (R409) -/

section
variable {s s1 : State} {p : PartId} {d : LinkDump} {rest : List LinkDump} {key : Nat}

/-- The partition with a boundary's counters latched, where one is due. -/
def linkLatched (s : State) (p : PartId) : State := if linkDue s p then latchLinks s p else s

theorem linkInterval_empty (h : ((linkLatched s p).part p).grid = []) : execLinkInterval p s = .next (linkLatched s p) := by
  rw [linkLatched] at h ⊢
  rw [execLinkInterval]
  dsimp only
  rw [h]

variable (h : ((linkLatched s p).part p).grid = d :: rest)
include h

theorem linkInterval_error (ht : ((linkLatched s p).part p).tdisp = .error) : execLinkInterval p s = .next (linkLatched s p) := by
  rw [linkLatched] at h ht ⊢
  rw [execLinkInterval]
  dsimp only
  rw [h]
  exact if_pos (beq_iff_eq.mpr ht)

variable (ht : ((linkLatched s p).part p).tdisp ≠ .error)
include ht

/-- What the write of a dump at its slot gives. -/
def dumpSettled (p : PartId) (d : LinkDump) (rest : List LinkDump) (n : Nat) : UnitWrite → Out
  | .bad s => .next (((s.modPart p (fun q => { q with grid := rest })).modRegs p (fun r => { r with lnkbase := r.lnkbase ||| 1 })).hwSet
      p 0 .lnkbase 0)
  | .held s => .next (s.holdBack (.linkInterval p))
  | .ok k s => .next ((writeDump ((collectRange s p k (k + 16384)).modPart p (fun q => { q with grid := rest })) p k n d).modRegs p
      (fun r => { r with lnkctl := setField r.lnkctl 0 32 (n + 1) }))

theorem linkInterval_dumps : execLinkInterval p s = dumpSettled p d rest (linkSeq ((linkLatched s p).part p).r)
    (unitWrite (linkLatched s p) p (dumpAddr d (linkSeq ((linkLatched s p).part p).r)) (.linkInterval p)) := by
  obtain ⟨F, hF⟩ : ∃ F, F = unitWrite := ⟨_, rfl⟩
  rw [execLinkInterval, ← hF]
  rw [linkLatched] at h ht ⊢
  dsimp only
  rw [h]
  refine (if_neg (fun e => ht (beq_iff_eq.mp e))).trans ?_
  generalize F _ _ _ _ = x
  cases x <;> rfl

end

theorem linkSeq_eq (r : PRegs) : linkSeq r = r.lnkctl.toNat % 2 ^ 32 := field_low ..

theorem dumpAddr_eq (d : LinkDump) (n : Nat) : dumpAddr d n =
    ext57 (d.base.toNat / 2 ^ 14 % 2 ^ 43 * 2 ^ 14 + 16384 * (n % 2 ^ Nat.min (d.ctl.toNat / 2 ^ 54 % 16) 8)) := rfl

/-! ## Counters and the trace unit (R407, R411, R418) -/

section
variable {s : State} {p : PartId} {c : CoreId} {i : Fin 4} {v : Word}

/-- A word with its top bit set keeps every bit where that bit is set again. -/
theorem or_top_of (x : Word) (h : x.getLsbD 63 = true) : x ||| 0x8000000000000000 = x := by
  apply BitVec.eq_of_getLsbD_eq
  intro j hj
  rw [BitVec.getLsbD_or]
  by_cases h63 : j = 63
  · rw [h63, h, Bool.true_or]
  · rw [(by decide : ∀ j : Fin 63, (0x8000000000000000 : BitVec 64).getLsbD j.val = false) ⟨j, by omega⟩, Bool.or_false]

theorem addCount_wraps (h : field v 0 48 = 2 ^ 48 - 1) : (addCount v 1).getLsbD 63 = true := by
  rw [addCount, h]
  rw [if_pos (by decide), getLsbD_setField _ _ _ _ (by decide), if_neg (by decide), BitVec.getLsbD_or]
  exact (congrArg _ (by decide : (0x8000000000000000 : BitVec 64).getLsbD 63 = true)).trans (Bool.or_true _)

theorem State.core_hwSet (x : SysReg) (b : Nat) (p' : PartId) (c' : CoreId) : (s.hwSet p c x b).core p' c' = s.core p' c' := rfl

theorem pcnt_noteWrap : ((noteWrap s p c i).core p c).w.pcnt =
    (s.core p c).w.pcnt.set i ((s.core p c).w.pcnt[i] ||| 0x8000000000000000) := by
  rw [noteWrap]
  split
  · rw [State.core_modCoreC, State.core_hwSet, State.core_modCoreW]
  · rw [State.core_hwSet, State.core_modCoreW]

/-- A counter at its largest count, counted once more (R411). -/
theorem pcnt_countReg (hm : s.mtsWas p c (.pcnt i) = none) (h : field (s.core p c).w.pcnt[i] 0 48 = 2 ^ 48 - 1) :
    ((countReg s p c 1 i).core p c).w.pcnt = (s.core p c).w.pcnt.set i (addCount (s.core p c).w.pcnt[i] 1) := by
  rw [countReg, hm]
  dsimp only
  split
  · rw [pcnt_noteWrap, State.core_modCoreW]
    simp only [Fin.getElem_fin, Vector.getElem_set_self, Vector.set_set]
    exact congrArg (fun x => Vector.set _ i.val x _) (or_top_of _ (addCount_wraps h))
  · rw [State.core_modCoreW]

theorem pcntWrap_counts (hc : s.counting p = true) (h : field (s.core p c).w.pcnt[i] 0 48 = 2 ^ 48 - 1) :
    execPcntWrap p c i s = .next (countReg s p c 1 i) := by
  rw [execPcntWrap, if_pos]
  rw [hc, h]
  rfl

theorem pcntWrap_rests (h : s.counting p = false ∨ field (s.core p c).w.pcnt[i] 0 48 ≠ 2 ^ 48 - 1) :
    execPcntWrap p c i s = .next s := by
  rw [execPcntWrap, if_neg]
  rw [Bool.and_eq_true, beq_iff_eq]
  rintro ⟨hc, hn⟩
  rcases h with h | h
  · exact Bool.false_ne_true (h.symm.trans hc)
  · exact h hn

theorem cycle_writeTrc (x y : Word) : (writeTrc s p c x y).cycle = s.cycle := by
  rw [writeTrc]
  split
  · rw [trcDrop]
    exact (same_count ..).cycle
  · rfl

theorem syncRecord_idle (h : bit (s.core p c).w.trcctl 60 = false) : execSyncRecord p c s = .next s := by
  rw [execSyncRecord, if_neg (Bool.eq_false_iff.mp h)]

variable (h : bit (s.core p c).w.trcctl 60 = true)
include h

theorem syncRecord_none (h0 : bit (s.core p c).w.trcctl 0 = false) : execSyncRecord p c s = .next (trcWrite s p c) := by
  rw [execSyncRecord, if_pos h, writeSync, if_neg (Bool.eq_false_iff.mp h0)]

theorem syncRecord_writes (h0 : bit (s.core p c).w.trcctl 0 = true) : execSyncRecord p c s =
    .next (trcWrite ((writeTrc s p c 0 (word s.tstamp)).modCoreW p c (fun w => { w with
      trcRecs := 0, trcSync := (writeTrc s p c 0 (word s.tstamp)).cycle })) p c) := by
  rw [execSyncRecord, if_pos h, writeSync, if_pos h0, cycle_writeTrc]

end

/-! ## The Idran controller (R145) -/

section
variable {s : State} {p : PartId} {c : CoreId} {reg : SysReg}

theorem writeIdran_core (hm : reg ≠ .modid) (hv : reg ≠ .vfsel) (ht : reg ≠ .tbind) (v : Word) :
    writeIdran s p c reg v = writeCoreReg s p c reg v := by
  unfold writeIdran
  split
  · exact absurd rfl hm
  · exact absurd rfl hv
  · exact absurd rfl ht
  · rfl

theorem countShared_own (h : ∀ j, reg ≠ .shcnt j) : countShared s p reg = s := by
  unfold countShared
  split
  · exact absurd rfl (h _)
  · rfl

theorem idranAccess_reads (h : ∀ j, reg ≠ .shcnt j) : execIdranRegisterAccess p c reg none s =
    .next { s with hostOut := s.hostOut ++ [.register p c reg (readIdran s p c reg)] } := by
  rw [execIdranRegisterAccess, countShared_own h, hostSays]

end

end Sys2Proof.Machine

open Sys2Proof Sys2Proof.Machine

/-- Settles O60, from the equation of each binding, violation, dump, counter and record. -/
theorem monitorSteps : Obligations.MonitorSteps := by
  unfold Obligations.MonitorSteps
  intro s s1 p c t1 i v key d rest w t reg k v1 seq r log rec_ begun
  have hv : v1.getLsbD 63 = true := bit_or_top v
  refine ⟨fun hb ht => ⟨_, rfl, bindTaster_leaves hv hb ht⟩, fun hb => congrArg _ (bindTaster_declines hb), tbindUnbind_waits,
    fun h => ⟨_, tbindUnbind_unbinds h, rfl, unbindTaster_unwatched⟩, fun h => congrArg _ (writeLogvio_none h), ?_, ?_, ?_,
    fun hc h hm => ⟨_, pcntWrap_counts hc ((field_low ..).trans h), (same_countReg ..).mem, pcnt_countReg hm ((field_low ..).trans h)⟩,
    fun h => pcntWrap_rests (h.imp id (fun h e => h ((field_low ..).symm.trans e))), rfl, syncRecord_idle,
    fun h => ⟨syncRecord_none h, syncRecord_writes h⟩, ⟨_, rfl, rfl, ?_, writePerfctl_core⟩, rfl, rfl,
    fun hm hf ht => congrArg _ (writeIdran_core hm hf ht v), fun h => ?_⟩
  · exact fun hw ht hs hb => congrArg _ (writeLogvio_parks hw ht hs hb)
  · exact fun hw h => congrArg _ (writeLogvio_late hw h)
  · intro u seq slots a
    have hq : linkSeq (u.part p).r = seq := linkSeq_eq _
    have ha : dumpAddr d seq = a := dumpAddr_eq d seq
    refine ⟨linkInterval_empty, fun h => ⟨linkInterval_error h, fun ht => ?_⟩⟩
    have he : exec (.linkInterval p) s = _ := linkInterval_dumps h ht
    change exec (.linkInterval p) s = dumpSettled p d rest (linkSeq (u.part p).r)
      (unitWrite u p (dumpAddr d (linkSeq (u.part p).r)) (.linkInterval p)) at he
    rw [hq, ha] at he
    exact ⟨fun hu => he.trans (congrArg (dumpSettled p d rest seq) hu), fun hu => he.trans (congrArg (dumpSettled p d rest seq) hu),
      fun hu => he.trans (congrArg (dumpSettled p d rest seq) hu)⟩
  · rw [writePerfctl, State.part_modPart]
  · exact idranAccess_reads h

end

section
/-! SUPPORT. The copy unit at work (17 R266 to R270, R276, R280). -/
namespace Sys2Proof.Machine

/-! ## The turns of the copy unit (R266, R276) -/

section
variable {s : State} {p : PartId} {k : ClusterId} {c : CoreId} {j : CopyJob} {js : List CopyJob} {due : Nat}

theorem State.core_modClusterW (s : State) (p : PartId) (k : ClusterId) (f : ClusterWorld → ClusterWorld) (p' : PartId) (c : CoreId) :
    (s.modClusterW p k f).core p' c = s.core p' c := State.core_modPart_of s p _ (fun _ => rfl) p' c

theorem State.thread_modClusterW (s : State) (p : PartId) (k : ClusterId) (f : ClusterWorld → ClusterWorld) (r : TRef) :
    (s.modClusterW p k f).thread r = s.thread r := State.thread_modPart_of s p _ (fun _ => rfl) r

theorem copyReady_modClusterW (f : ClusterWorld → ClusterWorld) : copyReady (s.modClusterW p k f) p c = copyReady s p c := by
  rw [copyReady, copyReady, State.core_modClusterW]
  simp only [jobStream, State.thread_modClusterW]

theorem coreBeat_ready (h : copyReady s p c = some j) : coreBeat s p c = moveBeat s p c j := by
  rw [coreBeat, h]

theorem coreBeat_rests (h : copyReady s p c = none) : coreBeat s p c = s := by
  rw [coreBeat, h]

theorem copyBeat_due (h : (s.cluster p k).w.copyDue = some (c, due)) : execCopyBeat p k s =
    .next (if s.cycle < due then s else coreBeat (s.modClusterW p k (fun w => { w with copyDue := none })) p c) := by
  rw [execCopyBeat, h]

variable (h : (s.cluster p k).w.copyDue = none)
include h

theorem copyBeat_none (hf : (roundRobin k (s.cluster p k).w.copyLast).find? (fun c => (copyReady s p c).isSome) = none) :
    execCopyBeat p k s = .next s := by
  rw [execCopyBeat, h]
  dsimp only
  rw [hf]

/-- The cluster as the beat of a core has asked its banks. -/
def beatAsked (s : State) (p : PartId) (k : ClusterId) (c : CoreId) (banks : List Nat) : State :=
  s.modClusterW p k (fun w => { joinBanks w banks s.cycle with
    copyLast := c.val % 8,
    copyDue := if bankWait (s.cluster p k).w banks = 0 then none else some (c, s.cycle + bankWait (s.cluster p k).w banks) })

theorem copyBeat_turn (hf : (roundRobin k (s.cluster p k).w.copyLast).find? (fun c => (copyReady s p c).isSome) = some c)
    (hr : copyReady s p c = some j) : execCopyBeat p k s =
    .next (if bankWait (s.cluster p k).w (beatBanks s p c j) = 0 then moveBeat (beatAsked s p k c (beatBanks s p c j)) p c j
      else beatAsked s p k c (beatBanks s p c j)) := by
  obtain ⟨F, hF⟩ : ∃ F, F = beatBanks := ⟨_, rfl⟩
  rw [execCopyBeat, h, ← hF]
  dsimp only
  rw [hf]
  dsimp only
  rw [hr, Option.map_some, Option.getD_some]
  refine congrArg _ (ite_congr rfl (fun _ => ?_) (fun _ => rfl))
  exact coreBeat_ready ((copyReady_modClusterW _).trans hr)

end

section
variable {s : State} {p : PartId} {c : CoreId} {j : CopyJob} {js : List CopyJob}

theorem copyComplete_completes (h : (s.core p c).w.copyQ = j :: js) (hf : j.finished = true) : execCopyComplete p c s =
    .next (s.modCoreW p c (fun w => { w with copyQ := js, copyDone := (j.seq + 1) % 2 ^ 21 })) := by
  rw [execCopyComplete, h]
  exact congrArg _ (if_pos hf)

theorem copyComplete_waits (h : (s.core p c).w.copyQ = j :: js) (hf : j.finished = false) : execCopyComplete p c s = .next s := by
  rw [execCopyComplete, h]
  exact congrArg _ (if_neg (Bool.eq_false_iff.mp hf))

end

/-! ## Bytes of one line or window (R212, R280) -/

theorem memByte_memWriteBytes (l : List Byte) {m : Memory} (k a : Nat) (h : Memory.wf m = true) :
    memByte (memWriteBytes m k l) a = if k ≤ a ∧ a < k + l.length then l.getD (a - k) 0 else memByte m a := by
  induction l generalizing m k with
  | nil =>
    rw [memWriteBytes, if_neg]
    rw [List.length_nil]
    omega
  | cons b l ih =>
    rw [memWriteBytes, ih _ (memSetByte_wf _ _ h), List.length_cons]
    by_cases hk : a = k
    · subst hk
      rw [if_neg (by omega), if_pos (by omega), memByte_memSetByte _ _ h, Nat.sub_self]
      rfl
    · rw [memByte_memSetByte_ne _ hk h]
      by_cases hr : k ≤ a ∧ a < k + (l.length + 1)
      · rw [if_pos (by omega), if_pos hr, (by omega : a - k = (a - (k + 1)) + 1), List.getD_cons_succ]
      · rw [if_neg (by omega), if_neg hr]

section
variable {s s1 : State} {p : PartId} {c : CoreId} {j : CopyJob} {y : Word} {n key lat : Nat} {b : List Byte} {l : Leaf}

section
variable (hy : inWindowRegion y = true) (hk : windowKey p c y = some (key, lat))
include hy hk

theorem readChunk_window (hp : windowPoisoned s (key / 8 * 8) (key % 8 + n) = false) (lf : Option Leaf) :
    readChunk s p c j lf y n = .ok (memBytes s.mem key n) (s.sramAt p key) := by
  rw [readChunk.eq_def, if_pos hy, hk]
  exact if_neg (Bool.eq_false_iff.mp hp)

theorem readChunk_windowPoisoned (hp : windowPoisoned s (key / 8 * 8) (key % 8 + n) = true) (lf : Option Leaf) :
    readChunk s p c j lf y n = .fail 1 s := by
  rw [readChunk.eq_def, if_pos hy, hk]
  exact if_pos hp

/-- A window's bytes written, with the poison of its whole words gone. -/
def windowFilled (s : State) (p : PartId) (key : Nat) (y : Word) (b : List Byte) : State :=
  (rangeWords y b.length).foldl (fun s w =>
    if y.toNat ≤ 8 * w ∧ 8 * w + 8 ≤ y.toNat + b.length then s.unpoisonWord (key + (8 * w - y.toNat)) else s)
    ((s.sramAt p key).writeMemBytes key b)

theorem writeChunk_window : writeChunk s p c j y b = .ok b (windowFilled s p key y b) := by
  rw [writeChunk, if_pos hy, hk]
  rfl

end

theorem windowFilled_keeps : (windowFilled s p key y b).mem = memWriteBytes s.mem key b ∧ (windowFilled s p key y b).fe = s.fe := by
  have h : ∀ (l : List Nat) (u : State), (l.foldl (fun s w =>
      if y.toNat ≤ 8 * w ∧ 8 * w + 8 ≤ y.toNat + b.length then s.unpoisonWord (key + (8 * w - y.toNat)) else s) u).mem = u.mem ∧
      (l.foldl (fun s w =>
        if y.toNat ≤ 8 * w ∧ 8 * w + 8 ≤ y.toNat + b.length then s.unpoisonWord (key + (8 * w - y.toNat)) else s) u).fe = u.fe := by
    intro l u
    refine ⟨foldl_keeps (fun u : State => u.mem) (fun u w => ?_) l u, foldl_keeps (fun u : State => u.fe) (fun u w => ?_) l u⟩ <;>
    · split <;> rfl
  obtain ⟨hm, hf⟩ := h (rangeWords y b.length) ((s.sramAt p key).writeMemBytes key b)
  exact ⟨hm.trans (by rw [State.writeMemBytes, State.sramAt_mem]), hf.trans (by rw [State.writeMemBytes_fe, State.sramAt_fe])⟩

section
variable (hy : inWindowRegion y = false)
include hy

/-- What a copy's read of one line gives, by what its home answers (R280). -/
def lineRead (key n : Nat) (poisoned : Bool) : Reach → Beat
  | .held s => .later s
  | .poisoned s => .fail (if poisoned then 2 else 1) s
  | .ok s => .ok (memBytes s.mem key n) s

/-- What a copy's write of one line gives, by what its home answers (R280). -/
def lineWritten (key : Nat) (b : List Byte) : Reach → Beat
  | .held s => .later s
  | .poisoned s => .fail 5 s
  | .ok s => .ok b (s.writeMemBytes key b)

theorem readChunk_line : readChunk s p c j (some l) y n =
    lineRead (keyMain p (l.phys (va57 y))) n (s.linePoisoned (keyMain p (l.phys (va57 y)))) (reachRead s p l (va57 y) n j.corr) := by
  obtain ⟨F, hF⟩ : ∃ F, F = reachRead := ⟨_, rfl⟩
  rw [readChunk, if_neg (Bool.eq_false_iff.mp hy), ← hF]
  cases F s p l (va57 y) n j.corr <;> rfl

theorem writeChunk_line (hl : jobLeaf j y = some l) : writeChunk s p c j y b =
    lineWritten (keyMain p (l.phys (va57 y))) b (reachWrite s p l (va57 y) (.copy c j.seq)) := by
  obtain ⟨F, hF⟩ : ∃ F, F = reachWrite := ⟨_, rfl⟩
  rw [writeChunk, if_neg (Bool.eq_false_iff.mp hy), hl, ← hF]
  dsimp only
  cases F s p l (va57 y) (.copy c j.seq) <;> rfl

end

end

/-! ## Full bits and queues under a beat (R150, R269, R280) -/

theorem mem_nput {l : List Nat} {k i : Nat} : i ∈ nput l k ↔ i = k ∨ i ∈ l := by
  induction l with
  | nil => rw [nput, List.mem_singleton]; simp
  | cons x l ih =>
    rw [nput]
    split
    · rw [List.mem_cons]
    · split
      · next h => rw [h, List.mem_cons]; tauto
      · rw [List.mem_cons, ih, List.mem_cons]
        tauto

theorem fullBit_fillWord (s : State) (p : PartId) (key a : Nat) :
    (fillWord s p key).fullBit a = (s.fullBit a || key / 8 == a / 8) := by
  have h : (fillWord s p key).fe = nput s.fe (key / 8) := by
    rw [fillWord, feServeSoon]
    split <;> rfl
  rw [State.fullBit, h, State.fullBit, Bool.eq_iff_iff, Bool.or_eq_true, nmem_iff, nmem_iff, mem_nput, beq_iff_eq]
  tauto

/-- A word filled changes nothing but its full bit and what is due. -/
theorem fillWord_keeps (s : State) (p : PartId) (key : Nat) :
    (fillWord s p key).mem = s.mem ∧ (fillWord s p key).parts = s.parts := by
  rw [fillWord, feServeSoon]
  split <;> exact ⟨rfl, rfl⟩

section
variable {s : State} {p : PartId} {c : CoreId} {j : CopyJob}

/-- The words of a copy that get no further byte made full. -/
def fillPlaced (s : State) (p : PartId) (c : CoreId) (j : CopyJob) (l : KMap (BitVec 8)) : State :=
  l.foldl (fun s e =>
    match dstKey p c j (word (8 * e.1)) with
    | some k => fillWord s p k
    | none => s) s

theorem fillPlaced_keeps (l : KMap (BitVec 8)) :
    (fillPlaced s p c j l).mem = s.mem ∧ (fillPlaced s p c j l).parts = s.parts := by
  rw [fillPlaced]
  refine ⟨foldl_keeps (fun u : State => u.mem) (fun u e => ?_) l s, foldl_keeps (fun u : State => u.parts) (fun u e => ?_) l s⟩
  · cases dstKey p c j (word (8 * e.1)) with
    | none => rfl
    | some k => exact (fillWord_keeps u p k).1
  · cases dstKey p c j (word (8 * e.1)) with
    | none => rfl
    | some k => exact (fillWord_keeps u p k).2

theorem fullBit_fillPlaced (l : KMap (BitVec 8)) (a : Nat) : (fillPlaced s p c j l).fullBit a =
    (s.fullBit a || l.any (fun e => (dstKey p c j (word (8 * e.1))).any (fun k => k / 8 == a / 8))) := by
  induction l generalizing s with
  | nil => exact (Bool.or_false _).symm
  | cons e l ih =>
    rw [List.any_cons, ← Bool.or_assoc]
    refine ih.trans (congrArg (· || _) ?_)
    dsimp only
    generalize dstKey p c j (word (8 * e.1)) = o
    cases o with
    | none => exact (Bool.or_false _).symm
    | some k => exact fullBit_fillWord s p k a

theorem closeWords_eq (i : Nat) : closeWords s p c j i =
    modJob (fillPlaced s p c j (j.placed.filter (fun e => e.2 == 1 && wordClosed j i e.1))) p c j.seq
      (fun x => { x with placed := j.placed.filter (fun e => !wordClosed j i e.1) }) := rfl

/-! ### What the steps of a beat leave of the core's queue, of CPYST and of threads -/

theorem State.core_modThread_proj {β : Type} (π : CoreWorld → β) (h : ∀ w slots, π { w with slots := slots } = π w) (s : State) (r : TRef)
    (f : Thread → Thread) (p : PartId) (c : CoreId) : π ((s.modThread r f).core p c).w = π (s.core p c).w := by
  rw [State.modThread]
  cases s.thread r with
  | none => rfl
  | some t =>
    dsimp only
    rw [State.setThread, State.setSlot]
    by_cases hc : p = r.part ∧ c = r.core
    · obtain ⟨rfl, rfl⟩ := hc
      rw [State.core_modCoreW]
      exact h _ _
    · rw [State.modCoreW, State.core_setCore_ne _ _ (not_and_or.mp hc)]

theorem core_streamTake_proj {β : Type} (π : CoreWorld → β) (h : ∀ w slots, π { w with slots := slots } = π w) (bytes : List Byte)
    (last : Bool) : π ((streamTake s p c j bytes last).core p c).w = π (s.core p c).w := by
  rw [streamTake]
  cases jobStream s p c j with
  | none => rfl
  | some x => exact State.core_modThread_proj π h s _ _ p c

theorem copyQ_streamTake (bytes : List Byte) (last : Bool) :
    ((streamTake s p c j bytes last).core p c).w.copyQ = (s.core p c).w.copyQ :=
  core_streamTake_proj (fun w => w.copyQ) (fun _ _ => rfl) bytes last

theorem cpyst_streamTake (bytes : List Byte) (last : Bool) :
    ((streamTake s p c j bytes last).core p c).w.cpyst = (s.core p c).w.cpyst :=
  core_streamTake_proj (fun w => w.cpyst) (fun _ _ => rfl) bytes last

theorem streamTake_keeps (bytes : List Byte) (last : Bool) :
    (streamTake s p c j bytes last).mem = s.mem ∧ (streamTake s p c j bytes last).fe = s.fe := by
  rw [streamTake]
  cases jobStream s p c j with
  | none => exact ⟨rfl, rfl⟩
  | some x =>
    dsimp only
    rw [State.modThread]
    cases s.thread x.1 <;> exact ⟨rfl, rfl⟩

theorem core_modJob (seq : Nat) (f : CopyJob → CopyJob) : ((modJob s p c seq f).core p c).w =
    { (s.core p c).w with copyQ := (s.core p c).w.copyQ.map (fun j => if j.seq = seq then f j else j) } := by
  rw [modJob, State.core_modCoreW]

theorem thread_modJob (seq : Nat) (f : CopyJob → CopyJob) (r : TRef) : (modJob s p c seq f).thread r = s.thread r :=
  State.thread_modCoreW_of s p c _ rfl r

/-- The job at the head of the queue changed. -/
theorem copyQ_modJob {js : List CopyJob} (h : (s.core p c).w.copyQ = j :: js) (f : CopyJob → CopyJob) :
    ((modJob s p c j.seq f).core p c).w.copyQ = f j :: js.map (fun x => if x.seq = j.seq then f x else x) := by
  rw [core_modJob, h, List.map_cons, if_pos rfl]

theorem enqueueRecord_core (x : TrapRec) (c' : CoreId) : (enqueueRecord s p x).core p c' = s.core p c' :=
  State.core_modPart_of s p _ (fun _ => rfl) p c'

theorem postRecord_plain {x : TrapRec} (h : x.cls ≠ 1) : postRecord s p x = enqueueRecord s p x := by
  rw [postRecord, dumpStart, if_neg]
  rw [Bool.and_eq_true, Bool.and_eq_true, decide_eq_true_eq]
  exact fun e => h e.1.1

end

/-! ### The end of a beat -/

section
variable {s : State} {p : PartId} {c : CoreId} {j : CopyJob} {js : List CopyJob} {n : Nat}

/-- The position of the head job moved past a beat, its closed words filled first. -/
def beatPassed (s : State) (p : PartId) (c : CoreId) (j : CopyJob) (n : Nat) : State :=
  modJob (if decide (j.form.total ≤ j.pos + n) then streamTake (closeWords s p c j (j.pos + n)) p c j [] true
    else closeWords s p c j (j.pos + n)) p c j.seq (fun x => { x with pos := j.pos + n, finished := decide (j.form.total ≤ j.pos + n) })

theorem passBeat_head {x : CopyJob} (hq : (s.core p c).w.copyQ = x :: js) (hs : x.seq = j.seq) (hf : x.form = j.form) (hp : x.pos = j.pos) :
    passBeat s p c j n = beatPassed s p c x n := by
  rw [passBeat]
  have hfind : (s.core p c).w.copyQ.find? (fun x => x.seq == j.seq) = some x := by
    rw [hq, List.find?_cons_of_pos (p := fun x : CopyJob => x.seq == j.seq) (beq_iff_eq.mpr hs)]
  dsimp only
  rw [hfind, beatPassed, hf, hp, hs]

theorem copyQ_closeWords (hq : (s.core p c).w.copyQ = j :: js) (i : Nat) : ∃ js', ((closeWords s p c j i).core p c).w.copyQ =
    { j with placed := j.placed.filter (fun e => !wordClosed j i e.1) } :: js' := by
  rw [closeWords_eq]
  have hc : ∀ u : State, u.parts = s.parts → (u.core p c).w.copyQ = j :: js := by
    intro u hu
    rw [State.core, State.part, hu]
    exact hq
  exact ⟨_, copyQ_modJob (hc _ (fillPlaced_keeps _).2) _⟩

theorem closeWords_keeps (i : Nat) : (closeWords s p c j i).mem = s.mem ∧
    ((closeWords s p c j i).core p c).w.cpyst = (s.core p c).w.cpyst ∧ ∀ r, (closeWords s p c j i).thread r = s.thread r := by
  rw [closeWords_eq]
  obtain ⟨hm, hp⟩ := fillPlaced_keeps (s := s) (p := p) (c := c) (j := j) (j.placed.filter (fun e => e.2 == 1 && wordClosed j i e.1))
  refine ⟨hm, ?_, fun r => (thread_modJob ..).trans (State.thread_congr hp r)⟩
  rw [core_modJob, State.core, State.part, hp]
  rfl

theorem fe_closeWords (i : Nat) (h : j.placed.filter (fun e => e.2 == 1 && wordClosed j i e.1) = []) :
    (closeWords s p c j i).fe = s.fe := by
  rw [closeWords_eq, h]
  rfl

/-- A job whose position has moved to byte number i. -/
def jobPassed (j : CopyJob) (i : Nat) : CopyJob :=
  { j with placed := j.placed.filter (fun e => !wordClosed j i e.1), pos := i, finished := decide (j.form.total ≤ i) }

/-- The closed words of a beat, and the job as it stands, once its position has moved. -/
theorem beatPassed_leaves (hq : (s.core p c).w.copyQ = j :: js) :
    (beatPassed s p c j n).mem = s.mem ∧ (beatPassed s p c j n).fe = (closeWords s p c j (j.pos + n)).fe ∧
    ((beatPassed s p c j n).core p c).w.cpyst = (s.core p c).w.cpyst ∧
    ((beatPassed s p c j n).core p c).w.copyQ.head? = some (jobPassed j (j.pos + n)) := by
  obtain ⟨js', hq'⟩ := copyQ_closeWords hq (j.pos + n)
  obtain ⟨hm, hc, -⟩ := closeWords_keeps (s := s) (p := p) (c := c) (j := j) (j.pos + n)
  obtain ⟨hm', hf'⟩ := streamTake_keeps (s := closeWords s p c j (j.pos + n)) (p := p) (c := c) (j := j) [] true
  rw [beatPassed]
  split
  · refine ⟨hm'.trans hm, hf', ?_, ?_⟩
    · rw [core_modJob]
      exact (cpyst_streamTake _ _).trans hc
    · rw [core_modJob, copyQ_streamTake, hq', List.map_cons, if_pos rfl]
      rfl
  · refine ⟨hm, rfl, ?_, ?_⟩
    · rw [core_modJob]
      exact hc
    · rw [core_modJob, hq', List.map_cons, if_pos rfl]
      rfl

end

/-! ### The words that a beat leaves or places -/

section
variable {x : Word} {n : Nat}

theorem kput_mem {α : Type} {m : KMap α} {k : Nat} {v : α} : (k, v) ∈ kput m k v := by
  induction m with
  | nil => exact List.mem_singleton.mpr rfl
  | cons a m ih =>
    rw [kput]
    split
    · exact List.mem_cons_self
    · split
      · exact List.mem_cons_self
      · exact List.mem_cons_of_mem _ ih

theorem mem_of_kput {α : Type} {m : KMap α} {k : Nat} {v : α} {e : Nat × α} (h : e ∈ kput m k v) : e = (k, v) ∨ e ∈ m := by
  induction m with
  | nil => exact Or.inl (List.mem_singleton.mp h)
  | cons a m ih =>
    rw [kput] at h
    split at h
    · exact List.mem_cons.mp h
    · split at h
      · exact (List.mem_cons.mp h).imp id (List.mem_cons_of_mem _)
      · rcases List.mem_cons.mp h with h | h
        · exact Or.inr (h ▸ List.mem_cons_self)
        · exact (ih h).imp id (List.mem_cons_of_mem _)

theorem kput_mem_of {α : Type} {m : KMap α} {k : Nat} {v : α} {e : Nat × α} (h : e ∈ m) (hk : e.1 = k → e.2 = v) : e ∈ kput m k v := by
  by_cases he : e.1 = k
  · obtain rfl : e = (k, v) := Prod.ext he (hk he)
    exact kput_mem
  · induction m with
    | nil => cases h
    | cons a m ih =>
      rw [kput]
      split
      · exact List.mem_cons_of_mem _ h
      · split
        · next hka =>
          rcases List.mem_cons.mp h with h | h
          · exact absurd (h ▸ hka.symm) he
          · exact List.mem_cons_of_mem _ h
        · rcases List.mem_cons.mp h with h | h
          · exact h ▸ List.mem_cons_self
          · exact List.mem_cons_of_mem _ (ih h)

theorem kget_mem {α : Type} {m : KMap α} {k : Nat} {v : α} (h : kget m k = some v) : (k, v) ∈ m := by
  induction m with
  | nil => cases h
  | cons a m ih =>
    rw [kget] at h
    split at h
    · next hk =>
      cases h
      exact hk ▸ List.mem_cons_self
    · exact List.mem_cons_of_mem _ (ih h)

/-- Every word of a beat that was left keeps its full bit. -/
theorem markLeft_left : ∀ e ∈ markLeft [] x n, e.2 = 2 := by
  have h : ∀ (l : List Nat) (m : KMap (BitVec 8)), (∀ e ∈ m, e.2 = 2) → ∀ e ∈ l.foldl (fun m w => kput m w 2) m, e.2 = 2 := by
    intro l
    induction l with
    | nil => exact fun m h => h
    | cons w l ih =>
      intro m h
      refine ih _ (fun e he => ?_)
      rcases mem_of_kput he with rfl | he
      · rfl
      · exact h e he
  exact h _ _ (fun _ he => (List.not_mem_nil he).elim)

/-- The words of a beat that was placed are marked so. -/
theorem mem_markPlaced {e : Nat × BitVec 8} : e ∈ markPlaced [] x n ↔ e.2 = 1 ∧ e.1 ∈ rangeWords x n := by
  have h : ∀ (l : List Nat) (m : KMap (BitVec 8)), (∀ e ∈ m, e.2 = 1) → ∀ e : Nat × BitVec 8,
      e ∈ l.foldl (fun m w => if kget m w = some 2 then m else kput m w 1) m ↔ e ∈ m ∨ (e.2 = 1 ∧ e.1 ∈ l) := by
    intro l
    induction l with
    | nil => exact fun m _ e => by simp
    | cons w l ih =>
      intro m h e
      have hg : kget m w ≠ some 2 := by
        intro hg
        have h1 : (2 : BitVec 8) = 1 := h _ (kget_mem hg)
        exact absurd h1 (by decide)
      rw [List.foldl_cons, if_neg hg, ih _ (fun e he => ?_)]
      · constructor
        · rintro (he | ⟨he, hl⟩)
          · exact (mem_of_kput he).elim (fun e => Or.inr (e ▸ ⟨rfl, List.mem_cons_self⟩)) Or.inl
          · exact Or.inr ⟨he, List.mem_cons_of_mem _ hl⟩
        · rintro (he | ⟨he, hl⟩)
          · exact Or.inl (kput_mem_of he (fun _ => h e he))
          · rcases List.mem_cons.mp hl with hl | hl
            · exact Or.inl ((Prod.ext hl he : e = (w, 1)) ▸ kput_mem)
            · exact Or.inr ⟨he, hl⟩
      · rcases mem_of_kput he with rfl | he
        · rfl
        · exact h e he
  rw [markPlaced, h _ _ (fun _ he => (List.not_mem_nil he).elim)]
  simp

end

section
variable {j : CopyJob} {n total : Nat} (hl : j.form = .lin total)
include hl

/-- The words of a beat that fills whole words, or ends its copy, get no further byte. -/
theorem wordClosed_beat (h8 : (j.dst + word j.pos).toNat % 8 = 0) (hn : 0 < n)
    (ht : (j.dst + word j.pos).toNat % 128 + n ≤ 128) (hw : n % 8 = 0 ∨ decide (total ≤ j.pos + n) = true) {w : Nat}
    (h : w ∈ rangeWords (j.dst + word j.pos) n) : wordClosed j (j.pos + n) w = true := by
  rw [wordClosed, hl, CopyForm.total, CopyForm.dstOff, Bool.or_eq_true, bne_iff_ne]
  rcases hw with hw | hw
  · refine Or.inr ?_
    have hx : j.dst + word (j.pos + n) = (j.dst + word j.pos) + word n := by
      rw [word, BitVec.ofNat_add, ← BitVec.add_assoc]
      rfl
    rw [rangeWords, List.mem_map] at h
    obtain ⟨i, hi, rfl⟩ := h
    rw [List.mem_range] at hi
    have hn' : (word n).toNat = n := by
      rw [word, BitVec.toNat_ofNat]
      omega
    rw [hx, BitVec.toNat_add, hn']
    have hlt := (j.dst + word j.pos).isLt
    rcases Nat.lt_or_ge ((j.dst + word j.pos).toNat + n) (2 ^ 64) with hs | hs
    · rw [Nat.mod_eq_of_lt hs]
      omega
    · omega
  · exact Or.inl hw

end

theorem word_of_aligned (x : Word) (i : Nat) (h : x.toNat % 8 = 0) : word (8 * (x.toNat / 8 + i)) = x + word (8 * i) := by
  apply BitVec.eq_of_toNat_eq
  have hx := x.isLt
  rw [word, BitVec.toNat_ofNat, BitVec.toNat_add, word, BitVec.toNat_ofNat]
  omega

/-! ## A beat within a line on both sides (R266, R269, R280) -/

theorem pieceLen_within {x : Word} {n : Nat} (h : x.toNat % 128 + n ≤ 128) : pieceLen x n = n := by
  have hm : Nat.min n (128 - x.toNat % 128) = n := Nat.min_eq_left (by omega)
  rw [pieceLen, hm]
  refine if_neg ?_
  rw [decide_eq_false (Nat.lt_irrefl n), Bool.false_and, Bool.false_and]
  exact Bool.false_ne_true

section
variable {s s1 s2 : State} {p : PartId} {c : CoreId} {j : CopyJob} {js : List CopyJob} {n total why : Nat} {b : List Byte}

theorem readSource_within {x : Word} (hx : x.toNat % 128 + n ≤ 128) (hr : inRemoteRegion x = false) (lf : Word → Option Leaf) :
    readSource s p c j lf x n = readChunk s p c j (lf x) x n := by
  obtain ⟨F, hF⟩ : ∃ F, F = readChunk := ⟨_, rfl⟩
  rw [readSource, pieceLen_within hx, readPiece, if_neg (Bool.eq_false_iff.mp hr), ← hF]
  generalize F s p c j (lf x) x n = o
  cases o with
  | ok a u => exact if_pos rfl
  | fail _ _ => rfl
  | skip _ => rfl
  | later _ => rfl

theorem moveBeat_later (h : readBeat s p c j = .later s1) : moveBeat s p c j = s1 := by
  obtain ⟨F, hF⟩ : ∃ F, F = readBeat := ⟨_, rfl⟩
  rw [← hF] at h
  rw [moveBeat, ← hF, h]

theorem moveBeat_fails (h : readBeat s p c j = .fail why s1) : moveBeat s p c j =
    passBeat (failBeat (leaveBytes s1 p c j 0 (j.form.beat j.pos)) p c j why) p c j (j.form.beat j.pos) := by
  obtain ⟨F, hF⟩ : ∃ F, F = readBeat := ⟨_, rfl⟩
  rw [← hF] at h
  rw [moveBeat, ← hF, h]

theorem moveBeat_moves (h : readBeat s p c j = .ok b s1) (hw : writeBeat s1 p c j b = some s2) :
    moveBeat s p c j = s2.count p c 11 none 1 := by
  obtain ⟨F, hF⟩ : ∃ F, F = readBeat := ⟨_, rfl⟩
  obtain ⟨G, hG⟩ : ∃ G, G = writeBeat := ⟨_, rfl⟩
  rw [← hF] at h
  rw [← hG] at hw
  rw [moveBeat, ← hF, ← hG, h]
  dsimp only
  rw [hw]

/-! ### A beat that cannot be read -/

/-- A failed beat's job: its bytes left, and its stream gone. -/
def jobFailed (j : CopyJob) (n : Nat) : CopyJob :=
  { j with placed := markLeft j.placed (j.dst + word (j.form.dstOff j.pos)) n, stream := none }

/-- CPYST records a failure, the first one alone (R280). -/
def failNoted (w : CoreWorld) (c : CoreId) (seq why : Nat) : CoreWorld :=
  if bit w.cpyst 63 then w else { w with cpyst := word (2 ^ 63 + why * 2 ^ 32) ||| jobId false c 0 seq }

theorem failBeat_eq : failBeat s p c j why = modJob (streamTake (enqueueRecord ((s.modCoreW p c (fun w => failNoted w c j.seq why)).hwSet
    p c .cpyst 63) p { TrapRec.none with
      code := 0x045, cls := 2, ctx := j.ctx, core := c.val, slot := j.slot.val, tid := j.tid, corr := j.corr,
      d0 := jobId false c 0 j.seq, d1 := word why }) p c j [] true) p c j.seq (fun x => { x with stream := none }) := by
  rw [failBeat, postRecord_plain (by exact (by decide : (2 : Nat) ≠ 1))]
  rfl

theorem copyQ_failNoted (w : CoreWorld) (seq : Nat) : (failNoted w c seq why).copyQ = w.copyQ := by
  rw [failNoted]
  split <;> rfl

/-- What a failed beat leaves, before its position moves. -/
theorem failBeat_leaves (hq : (s.core p c).w.copyQ = j :: js) (m : Nat) :
    (failBeat (leaveBytes s p c j 0 m) p c j why).mem = s.mem ∧ (failBeat (leaveBytes s p c j 0 m) p c j why).fe = s.fe ∧
    ((failBeat (leaveBytes s p c j 0 m) p c j why).core p c).w.cpyst = (failNoted (s.core p c).w c j.seq why).cpyst ∧
    ∃ js', ((failBeat (leaveBytes s p c j 0 m) p c j why).core p c).w.copyQ = jobFailed j m :: js' := by
  have hl : ((leaveBytes s p c j 0 m).core p c).w = { (s.core p c).w with copyQ := (s.core p c).w.copyQ.map (fun x =>
      if x.seq = j.seq then { x with placed := markLeft x.placed (j.dst + word (j.form.dstOff j.pos + 0)) m } else x) } := by
    rw [leaveBytes, core_modJob]
  obtain ⟨hm, hf⟩ := streamTake_keeps (s := enqueueRecord (((leaveBytes s p c j 0 m).modCoreW p c (fun w =>
    failNoted w c j.seq why)).hwSet p c .cpyst 63) p { TrapRec.none with
      code := 0x045, cls := 2, ctx := j.ctx, core := c.val, slot := j.slot.val, tid := j.tid, corr := j.corr,
      d0 := jobId false c 0 j.seq, d1 := word why }) (p := p) (c := c) (j := j) [] true
  rw [failBeat_eq]
  refine ⟨hm, hf, ?_, ?_⟩
  · rw [core_modJob]
    refine (cpyst_streamTake _ _).trans ?_
    rw [enqueueRecord_core, State.core_hwSet, State.core_modCoreW, hl, failNoted, failNoted]
    split <;> rfl
  · rw [core_modJob, copyQ_streamTake, enqueueRecord_core, State.core_hwSet, State.core_modCoreW]
    dsimp only
    rw [copyQ_failNoted, hl, hq, List.map_cons, List.map_cons, if_pos rfl, if_pos rfl]
    exact ⟨_, rfl⟩

section
variable (hl : j.form = .lin total) (hp : j.placed = []) (hn : n = Nat.min 64 (total - j.pos))
include hl

theorem beat_lin (hn : n = Nat.min 64 (total - j.pos)) : j.form.beat j.pos = n := by
  rw [hl, CopyForm.beat, hn]

theorem readBeat_lin (hn : n = Nat.min 64 (total - j.pos)) (hf : (j.src + word j.pos).toNat % 128 + n ≤ 128)
    (hr : inRemoteRegion (j.src + word j.pos) = false) :
    readBeat s p c j = readChunk s p c j (jobLeaf j (j.src + word j.pos)) (j.src + word j.pos) n := by
  have hb := beat_lin hl hn
  obtain ⟨F, hF⟩ : ∃ F, F = readSource := ⟨_, rfl⟩
  have hs := readSource_within (s := s) (p := p) (c := c) (j := j) hf hr (jobLeaf j)
  rw [← hF] at hs
  rw [readBeat, ← hF, hb, hl]
  exact hs

include hp hn

theorem beat_fails (hf : (j.src + word j.pos).toNat % 128 + n ≤ 128) (hr : inRemoteRegion (j.src + word j.pos) = false)
    (h : readChunk s p c j (jobLeaf j (j.src + word j.pos)) (j.src + word j.pos) n = .fail why s1)
    (hq : (s1.core p c).w.copyQ = j :: js) :
    (moveBeat s p c j).mem = s1.mem ∧ (moveBeat s p c j).fe = s1.fe ∧
    ((moveBeat s p c j).core p c).w.cpyst = (failNoted (s1.core p c).w c j.seq why).cpyst ∧
    ((moveBeat s p c j).core p c).w.copyQ.head? = some (jobPassed (jobFailed j n) (j.pos + n)) := by
  rw [moveBeat_fails ((readBeat_lin hl hn hf hr).trans h), beat_lin hl hn]
  obtain ⟨hm, hfe, hc, js', hq'⟩ := failBeat_leaves (why := why) hq n
  have hx : (jobFailed j n).placed.filter (fun e => e.2 == 1 && wordClosed (jobFailed j n) ((jobFailed j n).pos + n) e.1) = [] := by
    rw [List.filter_eq_nil_iff]
    intro e he
    rw [jobFailed, hp] at he
    rw [markLeft_left e he]
    simp
  rw [passBeat_head (j := j) hq' rfl rfl rfl]
  obtain ⟨hm', hf', hc', hh'⟩ := beatPassed_leaves (n := n) hq'
  exact ⟨hm'.trans hm, hf'.trans ((fe_closeWords _ hx).trans hfe), hc'.trans hc, hh'⟩

end

end

/-! ### A beat that is moved -/

section
variable {s s1 s2 : State} {p : PartId} {c : CoreId} {j : CopyJob} {js : List CopyJob} {n total : Nat} {b : List Byte} {r : TRef} {i : SReg}
  {z : Stream}

theorem jobStream_some (h : jobStream s p c j = some (r, i, z)) :
    ∃ t, r = ⟨p, c, j.slot⟩ ∧ j.stream = some i ∧ s.thread r = some t ∧ t.tid = j.tid ∧ t.streams[i] = z := by
  rw [jobStream.eq_def] at h
  split at h
  · next i' t hi ht =>
    split at h
    · next htid =>
      cases h
      exact ⟨t, rfl, hi, ht, htid, rfl⟩
    · cases h
  · cases h

theorem jobStream_of {t : Thread} (hi : j.stream = some i) (ht : s.thread ⟨p, c, j.slot⟩ = some t) (htid : t.tid = j.tid) :
    jobStream s p c j = some (⟨p, c, j.slot⟩, i, t.streams[i]) := by
  rw [jobStream, hi, ht]
  exact if_pos htid

theorem jobStream_congr {u : State} (h : ∀ r, u.thread r = s.thread r) : jobStream u p c j = jobStream s p c j := by
  rw [jobStream, jobStream, h]

/-- A copy's stream after it has taken bytes. -/
theorem streamTake_takes (h : jobStream s p c j = some (r, i, z)) (last : Bool) :
    ∃ t, (streamTake s p c j b last).thread r = some t ∧ t.tid = j.tid ∧
      t.streams[i] = { z with buf := z.buf ++ b, ended := z.ended || last } := by
  obtain ⟨t, rfl, hi, ht, htid, hz⟩ := jobStream_some h
  rw [streamTake, h]
  refine ⟨_, (State.thread_modThread _ _ _).trans (congrArg _ ht), htid, ?_⟩
  simp [Thread.setStream]

theorem beatPassed_stream (h : jobStream s p c j = some (r, i, z)) :
    ∃ t, (beatPassed s p c j n).thread r = some t ∧
      t.streams[i] = { z with ended := z.ended || decide (j.form.total ≤ j.pos + n) } := by
  obtain ⟨-, -, hk⟩ := closeWords_keeps (s := s) (p := p) (c := c) (j := j) (j.pos + n)
  rw [beatPassed, thread_modJob]
  split
  · next hd =>
    obtain ⟨t, ht, -, hz⟩ := streamTake_takes (b := []) ((jobStream_congr hk).trans h) true
    refine ⟨t, ht, hz.trans ?_⟩
    rw [List.append_nil, hd]
  · next hd =>
    obtain ⟨t, -, -, ht, -, hz⟩ := jobStream_some h
    refine ⟨t, (hk r).trans ht, hz.trans ?_⟩
    rw [Bool.eq_false_iff.mpr hd, Bool.or_false]

/-- A job of the queue with a beat of the job j marked as placed. -/
def beatMarked (j : CopyJob) (n : Nat) (x : CopyJob) : CopyJob := { x with placed := markPlaced x.placed (j.dst + word j.pos) n }

/-- The state with a beat's bytes placed and given to the stream. -/
def beatPlaced (s : State) (p : PartId) (c : CoreId) (j : CopyJob) (n : Nat) (b : List Byte) : State :=
  streamTake (modJob s p c j.seq (beatMarked j n)) p c j b false

theorem State.core_modCoreW_proj {β : Type} (π : CoreWorld → β) (s : State) (p : PartId) (c : CoreId) (f : CoreWorld → CoreWorld)
    (h : π (f (s.core p c).w) = π (s.core p c).w) (p' : PartId) (c' : CoreId) :
    π ((s.modCoreW p c f).core p' c').w = π (s.core p' c').w := by
  by_cases hc : p' = p ∧ c' = c
  · obtain ⟨rfl, rfl⟩ := hc
    rw [State.core_modCoreW]
    exact h
  · rw [State.modCoreW, State.core_setCore_ne _ _ (not_and_or.mp hc)]

section
variable {β : Type} (π : CoreWorld → β) (h : ∀ w v, π { w with pcnt := v } = π w) (s : State) (p : PartId) (c : CoreId)
include h

theorem core_noteWrap_proj (i : Fin 4) (p' : PartId) (c' : CoreId) : π ((noteWrap s p c i).core p' c').w = π (s.core p' c').w := by
  unfold noteWrap
  dsimp only
  split
  · rw [State.core_modCoreC_w, State.core_hwSet, State.core_modCoreW_proj π _ _ _ _ (h _ _)]
  · rw [State.core_hwSet, State.core_modCoreW_proj π _ _ _ _ (h _ _)]

theorem core_countReg_proj (m : Nat) (i : Fin 4) (p' : PartId) (c' : CoreId) :
    π ((countReg s p c m i).core p' c').w = π (s.core p' c').w := by
  unfold countReg
  split <;> dsimp only <;> split
  · exact core_noteWrap_proj π h (s.mtsSet p c (.pcnt i) _) p c i p' c'
  · rfl
  · rw [core_noteWrap_proj π h, State.core_modCoreW_proj π _ _ _ _ (h _ _)]
  · rw [State.core_modCoreW_proj π _ _ _ _ (h _ _)]

/-- What a count of an event leaves of a core: all but its counters. -/
theorem State.core_count_proj (code : Nat) (sl : Option SlotId) (m : Nat) (p' : PartId) (c' : CoreId) :
    π ((s.count p c code sl m).core p' c').w = π (s.core p' c').w := by
  unfold State.count
  split
  · exact foldl_keeps (fun u : State => π (u.core p' c').w) (fun u i => core_countReg_proj π h u p c m i p' c') _ s
  · rfl

end

theorem copyQ_beatPlaced (hq : (s2.core p c).w.copyQ = j :: js) : ∃ js', ((beatPlaced s2 p c j n b).core p c).w.copyQ = beatMarked j n j :: js' := by
  rw [beatPlaced, copyQ_streamTake]
  exact ⟨_, copyQ_modJob hq _⟩

section
variable (hl : j.form = .lin total)
include hl

theorem writeBeat_within (hb : b.length = n) (ht : (j.dst + word j.pos).toNat % 128 + n ≤ 128)
    (hr : inRemoteRegion (j.dst + word j.pos) = false) (hw : writeChunk s p c j (j.dst + word j.pos) b = .ok b s2) :
    writeBeat s p c j b = some (passBeat (beatPlaced s2 p c j n b) p c j n) := by
  obtain ⟨F, hF⟩ : ∃ F, F = writeChunk := ⟨_, rfl⟩
  have ho : j.form.dstOff j.pos = j.pos := by rw [hl, CopyForm.dstOff]
  rw [← hF] at hw
  have hp : placePiece s p c j 0 b (j.pos + n) = some (none, modJob s2 p c j.seq (beatMarked j n)) := by
    rw [placePiece, writePiece, ← hF, Nat.add_zero, ho, if_neg (Bool.eq_false_iff.mp hr), hw, hb]
    rfl
  rw [writeBeat, hb, ho, pieceLen_within ht, List.take_of_length_le (Nat.le_of_eq hb), hp]
  exact if_pos rfl

section
variable (hp : j.placed = [])
include hp

theorem beatMarked_closed (h8 : (j.dst + word j.pos).toNat % 8 = 0) (hn : 0 < n) (ht : (j.dst + word j.pos).toNat % 128 + n ≤ 128)
    (hw : n % 8 = 0 ∨ decide (total ≤ j.pos + n) = true) : ∀ e ∈ (beatMarked j n j).placed,
    e.2 = 1 ∧ e.1 ∈ rangeWords (j.dst + word j.pos) n ∧ wordClosed (beatMarked j n j) (j.pos + n) e.1 = true := by
  intro e he
  rw [beatMarked, hp] at he
  obtain ⟨h1, hr⟩ := mem_markPlaced.mp he
  exact ⟨h1, hr, wordClosed_beat hl h8 hn ht hw hr⟩

/-- The full bits of a beat's words, once its closed words are filled (R269). -/
theorem fullBit_beat (h8 : (j.dst + word j.pos).toNat % 8 = 0) (hn : 0 < n) (ht : (j.dst + word j.pos).toNat % 128 + n ≤ 128)
    (hw : n % 8 = 0 ∨ decide (total ≤ j.pos + n) = true) (u : State) (a : Nat) :
    (closeWords u p c (beatMarked j n j) (j.pos + n)).fullBit a = (u.fullBit a || (List.range ((n + 7) / 8)).any
      (fun i => (dstKey p c j (j.dst + word j.pos + word (8 * i))).any (fun k => k / 8 == a / 8))) := by
  have hc := beatMarked_closed hl hp h8 hn ht hw
  have hd : ∀ x, dstKey p c (beatMarked j n j) x = dstKey p c j x := fun _ => rfl
  rw [closeWords_eq]
  refine (fullBit_fillPlaced _ a).trans (congrArg _ ?_)
  rw [List.filter_eq_self.mpr (fun e he => by rw [(hc e he).1, (hc e he).2.2]; rfl), Bool.eq_iff_iff, List.any_eq_true, List.any_eq_true]
  simp only [hd, List.mem_range]
  constructor
  · rintro ⟨e, he, hk⟩
    obtain ⟨-, hr, -⟩ := hc e he
    rw [rangeWords, List.mem_map] at hr
    obtain ⟨i, hi, hie⟩ := hr
    rw [List.mem_range] at hi
    rw [← hie, word_of_aligned _ _ h8] at hk
    exact ⟨i, by omega, hk⟩
  · rintro ⟨i, hi, hk⟩
    rw [← word_of_aligned _ _ h8] at hk
    refine ⟨((j.dst + word j.pos).toNat / 8 + i, 1), ?_, hk⟩
    rw [beatMarked, hp]
    refine mem_markPlaced.mpr ⟨rfl, ?_⟩
    rw [rangeWords, List.mem_map]
    exact ⟨i, List.mem_range.mpr (by omega), rfl⟩

variable (hq : (s2.core p c).w.copyQ = j :: js)
include hq

/-- A beat whose bytes are placed: its words full, its job's position moved, and its stream given its bytes. -/
theorem beat_moves (hb : b.length = n) (hn : n = Nat.min 64 (total - j.pos)) (h0 : 0 < n) (hf : (j.src + word j.pos).toNat % 128 + n ≤ 128)
    (ht : (j.dst + word j.pos).toNat % 128 + n ≤ 128) (hr : inRemoteRegion (j.src + word j.pos) = false)
    (hr' : inRemoteRegion (j.dst + word j.pos) = false)
    (h : readChunk s p c j (jobLeaf j (j.src + word j.pos)) (j.src + word j.pos) n = .ok b s1)
    (hw : writeChunk s1 p c j (j.dst + word j.pos) b = .ok b s2) (h8 : (j.dst + word j.pos).toNat % 8 = 0)
    (hx : n % 8 = 0 ∨ decide (total ≤ j.pos + n) = true) :
    (moveBeat s p c j).mem = s2.mem ∧
    (∀ a, (moveBeat s p c j).fullBit a = (s2.fullBit a || (List.range ((n + 7) / 8)).any
      (fun i => (dstKey p c j (j.dst + word j.pos + word (8 * i))).any (fun k => k / 8 == a / 8)))) ∧
    ((moveBeat s p c j).core p c).w.copyQ.head? = some { j with pos := j.pos + n, finished := decide (total ≤ j.pos + n) } ∧
    ∀ r i z, jobStream s2 p c j = some (r, i, z) → ∃ t, (moveBeat s p c j).thread r = some t ∧
      t.streams[i] = { z with buf := z.buf ++ b, ended := z.ended || decide (total ≤ j.pos + n) } := by
  obtain ⟨js', hq'⟩ := copyQ_beatPlaced (n := n) (b := b) hq
  have hc := beatMarked_closed hl hp h8 h0 ht hx
  have hv : moveBeat s p c j = (beatPassed (beatPlaced s2 p c j n b) p c (beatMarked j n j) n).count p c 11 none 1 := by
    rw [moveBeat_moves ((readBeat_lin hl hn hf hr).trans h) (writeBeat_within hl hb ht hr' hw), passBeat_head (j := j) hq' rfl rfl rfl]
  obtain ⟨hm, hfe, -, hh⟩ := beatPassed_leaves (n := n) hq'
  obtain ⟨hm', hf'⟩ := streamTake_keeps (s := modJob s2 p c j.seq (beatMarked j n)) (p := p) (c := c) (j := j) b false
  have hs := same_count (beatPassed (beatPlaced s2 p c j n b) p c (beatMarked j n j) n) p c 11 none 1
  have htot : (beatMarked j n j).form.total = total := by
    rw [beatMarked, hl, CopyForm.total]
  rw [hv]
  refine ⟨hs.mem.trans (hm.trans hm'), fun a => ?_, ?_, fun r i z hz => ?_⟩
  · rw [State.fullBit, hs.fe, hfe]
    refine (fullBit_beat hl hp h8 h0 ht hx _ a).trans (congrArg (· || _) ?_)
    rw [State.fullBit, beatPlaced, hf']
    rfl
  · rw [State.core_count_proj (fun w => w.copyQ) (fun _ _ => rfl), hh, jobPassed]
    have hnil : (beatMarked j n j).placed.filter (fun e => !wordClosed (beatMarked j n j) (j.pos + n) e.1) = [] := by
      rw [List.filter_eq_nil_iff]
      intro e he
      rw [(hc e he).2.2]
      decide
    have hpos : (beatMarked j n j).pos = j.pos := rfl
    rw [hpos, hnil, htot, beatMarked, hp]
  · have hj : jobStream (modJob s2 p c j.seq (beatMarked j n)) p c j = some (r, i, z) :=
      (jobStream_congr (fun r => thread_modJob _ _ r)).trans hz
    obtain ⟨t, ht, htid, hts⟩ := streamTake_takes (b := b) hj false
    obtain ⟨-, rfl, hi, -⟩ := jobStream_some hz
    obtain ⟨t', ht', hts'⟩ := beatPassed_stream (j := beatMarked j n j) (n := n) (jobStream_of (j := beatMarked j n j) hi ht htid)
    refine ⟨t', (State.count_thread ..).trans ht', hts'.trans ?_⟩
    rw [hts, htot, Bool.or_false]
    rfl

end

end

end

end Sys2Proof.Machine
end

section
/-! SUPPORT. The matrix engine's groups, elements and cells (05 R69 to R80). -/
namespace Sys2Proof.Machine

/-! ## The order of values (R80) -/

theorem magLt_iff_rat (m1 : Nat) (e1 : Int) (m2 : Nat) (e2 : Int) : magLt m1 e1 m2 e2 = true ↔ (m1 : ℚ) * 2 ^ e1 < (m2 : ℚ) * 2 ^ e2 := by
  have key : ∀ (a b : ℕ) (x y : ℤ), x ≤ y → ((a : ℚ) * 2 ^ x < (b : ℚ) * 2 ^ y ↔ a < b * 2 ^ (y - x).toNat) ∧
      ((b : ℚ) * 2 ^ y < (a : ℚ) * 2 ^ x ↔ b * 2 ^ (y - x).toNat < a) := by
    intro a b x y h
    have hy : (2 : ℚ) ^ y = 2 ^ (y - x).toNat * 2 ^ x := by
      rw [← zpow_natCast, ← zpow_add₀ (by norm_num), Int.toNat_of_nonneg (by omega), sub_add_cancel]
    have hx : (0 : ℚ) < 2 ^ x := by positivity
    rw [hy, ← mul_assoc, mul_lt_mul_iff_left₀ hx, mul_lt_mul_iff_left₀ hx]
    constructor <;> norm_cast
  rw [magLt]
  split
  · next h => rw [decide_eq_true_eq, (key m1 m2 e1 e2 h).1]
  · next h => rw [decide_eq_true_eq, (key m2 m1 e2 e1 (by omega)).2]

/-- The place of a number in the order of values, with the infinities at its ends. -/
def FVal.place : FVal → WithBot (WithTop ℚ)
  | .nan _ => ⊥
  | .inf true => ⊥
  | .inf false => ((⊤ : WithTop ℚ) : WithBot (WithTop ℚ))
  | .fin n m e => (((FVal.fin n m e).rat : WithTop ℚ) : WithBot (WithTop ℚ))

theorem valLt_fin (n n' : Bool) (m m' : Nat) (e e' : Int) :
    valLt (.fin n m e) (.fin n' m' e') = true ↔ (FVal.fin n m e).rat < (FVal.fin n' m' e').rat := by
  have hp : (0 : ℚ) < 2 ^ e := by positivity
  have hp' : (0 : ℚ) < 2 ^ e' := by positivity
  have hm : (0 : ℚ) ≤ m * 2 ^ e := by positivity
  have hm' : (0 : ℚ) ≤ m' * 2 ^ e' := by positivity
  rw [valLt]
  by_cases h0 : m = 0 ∧ m' = 0
  · obtain ⟨rfl, rfl⟩ := h0
    simp [FVal.rat]
  · have hs : 0 < (m : ℚ) * 2 ^ e ∨ 0 < (m' : ℚ) * 2 ^ e' := by
      rcases not_and_or.mp h0 with h | h
      · exact Or.inl (mul_pos (by exact_mod_cast Nat.pos_of_ne_zero h) hp)
      · exact Or.inr (mul_pos (by exact_mod_cast Nat.pos_of_ne_zero h) hp')
    rw [if_neg (by simpa using h0)]
    cases n <;> cases n' <;> simp only [FVal.rat, Bool.not_true, Bool.not_false, Bool.and_true, Bool.and_false,
      if_true, if_false, Bool.false_eq_true, magLt_iff_rat, one_mul, neg_mul, false_iff, true_iff, not_lt, neg_lt_neg_iff]
    · linarith
    · rcases hs with hs | hs <;> linarith

theorem valLt_iff {x y : FVal} (hx : x.isNan = false) (hy : y.isNan = false) : valLt x y = true ↔ x.place < y.place := by
  cases x with
  | nan _ => cases hx
  | inf n =>
    cases y with
    | nan _ => cases hy
    | inf n' => cases n <;> cases n' <;> simp [valLt, FVal.place, FVal.isInf, FVal.sign]
    | fin n' m' e' => cases n <;> simp [valLt, FVal.place, FVal.isInf, FVal.sign]
  | fin n m e =>
    cases y with
    | nan _ => cases hy
    | inf n' =>
      cases n'
      · simpa [valLt, FVal.place, FVal.isInf] using WithBot.coe_lt_coe.mpr (WithTop.coe_lt_top (FVal.fin n m e).rat)
      · simp [valLt, FVal.place, FVal.isInf, FVal.sign]
    | fin n' m' e' =>
      rw [valLt_fin, FVal.place, FVal.place, WithBot.coe_lt_coe, WithTop.coe_lt_coe]

theorem place_zero_iff {x : FVal} (hx : x.isNan = false) : x.place = (((0 : ℚ) : WithTop ℚ) : WithBot (WithTop ℚ)) ↔ x.isZero = true := by
  cases x with
  | nan _ => cases hx
  | inf n =>
    cases n
    · simpa [FVal.place, FVal.isZero] using fun h => WithTop.top_ne_coe (a := (0 : ℚ)) (WithBot.coe_inj.mp h)
    · simp [FVal.place, FVal.isZero]
  | fin n m e =>
    rw [FVal.place, WithBot.coe_inj, WithTop.coe_inj, FVal.rat, FVal.isZero, beq_iff_eq]
    have hp : (2 : ℚ) ^ e ≠ 0 := by positivity
    cases n <;> simp [hp]

/-! ## The least or greatest of a group's terms (R80) -/

section
variable {least : Bool} {x y : FVal}

/-- y comes before x among the values of which the least, or the greatest, is sought. -/
def beats (least : Bool) (y x : FVal) : Bool := if least then valLt y x else valLt x y

theorem pickVal_nan (h : x.isNan = true ∨ y.isNan = true) : pickVal least x y = .nan false := by
  rw [pickVal, if_pos (by rw [Bool.or_eq_true]; exact h)]

section
variable (hx : x.isNan = false) (hy : y.isNan = false)
include hx hy

theorem pickVal_eq : pickVal least x y = if x.isZero && y.isZero then (if x.sign == least then x else y) else if beats least y x then y else x := by
  rw [pickVal, hx, hy, beats]
  cases least <;> simp

theorem pickVal_mem : pickVal least x y = x ∨ pickVal least x y = y := by
  rw [pickVal_eq hx hy]
  split
  · split
    · exact Or.inl rfl
    · exact Or.inr rfl
  · split
    · exact Or.inr rfl
    · exact Or.inl rfl

theorem beats_iff : beats least y x = true ↔ if least then y.place < x.place else x.place < y.place := by
  rw [beats]
  cases least
  · exact valLt_iff hx hy
  · exact valLt_iff hy hx

end

/-- A value is at least as good as another: nothing beats it, and of two zeros it has the better sign where the other has. -/
def rules (least : Bool) (v y : FVal) : Prop := beats least y v = false ∧ (v.isZero = true → y.isZero = true → y.sign = least → v.sign = least)

theorem beats_false (hx : x.isNan = false) (hy : y.isNan = false) :
    beats least y x = false ↔ if least then x.place ≤ y.place else y.place ≤ x.place := by
  rw [← Bool.not_eq_true, beats_iff hx hy]
  cases least <;> simp

theorem rules_refl (hx : x.isNan = false) : rules least x x :=
  ⟨(beats_false hx hx).mpr (by cases least <;> simp), fun _ _ h => h⟩

theorem rules_trans {v : FVal} (hv : v.isNan = false) (hx : x.isNan = false) (hy : y.isNan = false) (h : rules least v x)
    (h' : rules least x y) : rules least v y := by
  obtain ⟨h1, h2⟩ := h
  obtain ⟨h3, h4⟩ := h'
  rw [beats_false hv hx] at h1
  rw [beats_false hx hy] at h3
  refine ⟨(beats_false hv hy).mpr ?_, fun hvz hyz hs => ?_⟩
  · cases least
    · exact le_trans h3 h1
    · exact le_trans h1 h3
  · have hxz : x.isZero = true := by
      rw [← place_zero_iff hx]
      have h5 := (place_zero_iff hv).mpr hvz
      have h6 := (place_zero_iff hy).mpr hyz
      rw [h5] at h1
      rw [h6] at h3
      cases least
      · exact le_antisymm h1 h3
      · exact le_antisymm h3 h1
    exact h2 hvz hxz (h4 hxz hyz hs)

theorem pickVal_rules (hx : x.isNan = false) (hy : y.isNan = false) :
    rules least (pickVal least x y) x ∧ rules least (pickVal least x y) y := by
  rw [pickVal_eq hx hy]
  by_cases hz : x.isZero = true ∧ y.isZero = true
  · rw [if_pos (by rw [Bool.and_eq_true]; exact hz)]
    have hp : x.place = y.place := ((place_zero_iff hx).mpr hz.1).trans ((place_zero_iff hy).mpr hz.2).symm
    by_cases hs : x.sign = least
    · rw [if_pos (beq_iff_eq.mpr hs)]
      exact ⟨rules_refl hx, (beats_false hx hy).mpr (by rw [hp]; cases least <;> simp), fun _ _ _ => hs⟩
    · rw [if_neg (fun e => hs (beq_iff_eq.mp e))]
      exact ⟨⟨(beats_false hy hx).mpr (by rw [hp]; cases least <;> simp), fun _ _ h => absurd h hs⟩, rules_refl hy⟩
  · rw [if_neg (by rw [Bool.and_eq_true]; exact hz)]
    by_cases hb : beats least y x = true
    · rw [if_pos hb]
      refine ⟨⟨(beats_false hy hx).mpr ?_, fun h1 h2 => absurd ⟨h2, h1⟩ hz⟩, rules_refl hy⟩
      rw [beats_iff hx hy] at hb
      cases least
      · exact le_of_lt hb
      · exact le_of_lt hb
    · rw [if_neg hb]
      exact ⟨rules_refl hx, Bool.eq_false_iff.mpr hb, fun h1 h2 => absurd ⟨h1, h2⟩ hz⟩

end

/-- The value that a fold of picks ends in. -/
theorem foldl_pickVal {least : Bool} (l : List FVal) : ∀ c : FVal, (∀ y ∈ c :: l, y.isNan = false) →
    l.foldl (pickVal least) c ∈ c :: l ∧ ∀ y ∈ c :: l, rules least (l.foldl (pickVal least) c) y := by
  induction l with
  | nil =>
    intro c h
    refine ⟨List.mem_cons_self, fun y hy => ?_⟩
    obtain rfl := List.mem_singleton.mp hy
    exact rules_refl (h y List.mem_cons_self)
  | cons x l ih =>
    intro c h
    have hc := h c List.mem_cons_self
    have hx := h x (List.mem_cons_of_mem _ List.mem_cons_self)
    have hp := pickVal_mem (least := least) hc hx
    have hn : ∀ y ∈ pickVal least c x :: l, y.isNan = false := by
      intro y hy
      rcases List.mem_cons.mp hy with rfl | hy
      · rcases hp with hp | hp <;> rw [hp]
        · exact hc
        · exact hx
      · exact h y (List.mem_cons_of_mem _ (List.mem_cons_of_mem _ hy))
    obtain ⟨hm, hr⟩ := ih (pickVal least c x) hn
    rw [List.foldl_cons]
    have hv := hn _ hm
    have hk := hr _ List.mem_cons_self
    obtain ⟨h1, h2⟩ := pickVal_rules (least := least) hc hx
    refine ⟨?_, fun y hy => ?_⟩
    · rcases List.mem_cons.mp hm with hm | hm
      · rw [hm]
        rcases hp with hp | hp <;> rw [hp]
        · exact List.mem_cons_self
        · exact List.mem_cons_of_mem _ List.mem_cons_self
      · exact List.mem_cons_of_mem _ (List.mem_cons_of_mem _ hm)
    · rcases List.mem_cons.mp hy with rfl | hy
      · exact rules_trans hv (hn _ List.mem_cons_self) hc hk h1
      · rcases List.mem_cons.mp hy with rfl | hy
        · exact rules_trans hv (hn _ List.mem_cons_self) hx hk h2
        · exact hr y (List.mem_cons_of_mem _ hy)

/-- A NaN among the terms stays. -/
theorem foldl_pickVal_nan {least : Bool} (l : List FVal) : ∀ c : FVal, (c :: l).any FVal.isNan = true →
    (l.foldl (pickVal least) c).isNan = true := by
  induction l with
  | nil =>
    intro c h
    simpa using h
  | cons x l ih =>
    intro c h
    rw [List.foldl_cons]
    refine ih _ ?_
    rw [List.any_cons, List.any_cons] at h
    rw [List.any_cons, Bool.or_eq_true]
    by_cases hn : c.isNan = true ∨ x.isNan = true
    · rw [pickVal_nan hn]
      exact Or.inl rfl
    · rw [not_or, Bool.not_eq_true, Bool.not_eq_true] at hn
      rw [hn.1, hn.2, Bool.false_or, Bool.false_or] at h
      exact Or.inr h

theorem deliver_nan {v : FVal} (h : v.isNan = true) : BitVec.ofNat 32 (Fmt.f32.deliver v).bits = 0x7FC00000#32 := by
  cases v with
  | nan s => cases s <;> decide
  | inf _ => cases h
  | fin _ _ _ => cases h

/-! ## The cells of a slot (R274, R278) -/

/-- The value of a cell; one not listed is +0. -/
def cellAt (m : KMap (BitVec 32)) (k : Nat) : BitVec 32 := (kget m k).getD 0

theorem cellAt_cons (i : Nat) (v : BitVec 32) (m : KMap (BitVec 32)) (k : Nat) : cellAt ((i, v) :: m) k = if i = k then v else cellAt m k := by
  rw [cellAt, kget]
  split <;> rfl

/-- Keys that rise, all of them above a number. -/
def risesAbove (k : Nat) (m : KMap (BitVec 32)) : Prop := (m.map (fun e => e.1)).Pairwise (· < ·) ∧ ∀ e ∈ m, k < e.1

theorem cellAt_below {m : KMap (BitVec 32)} {k : Nat} (h : ∀ e ∈ m, e.1 ≠ k) : cellAt m k = 0 := by
  induction m with
  | nil => rfl
  | cons e m ih =>
    rw [cellAt_cons, if_neg (h e List.mem_cons_self), ih (fun e he => h e (List.mem_cons_of_mem _ he))]

/-- A split of rising cells at a key: what lies below, the value there, and what lies above. -/
theorem splitCells_spec (k : Nat) (m : KMap (BitVec 32)) (h : (m.map (fun e => e.1)).Pairwise (· < ·)) :
    (∀ e ∈ (splitCells m k).1, e.1 < k) ∧ (splitCells m k).2.1 = cellAt m k ∧ risesAbove k (splitCells m k).2.2 ∧
    (∀ j, j < k → cellAt (splitCells m k).1 j = cellAt m j) ∧ (∀ j, k < j → cellAt (splitCells m k).2.2 j = cellAt m j) := by
  induction m with
  | nil =>
    rw [splitCells]
    exact ⟨fun _ he => (List.not_mem_nil he).elim, rfl, ⟨List.Pairwise.nil, fun _ he => (List.not_mem_nil he).elim⟩, fun _ _ => rfl, fun _ _ => rfl⟩
  | cons e m ih =>
    obtain ⟨i, v⟩ := e
    rw [List.map_cons, List.pairwise_cons] at h
    obtain ⟨hi, hm⟩ := h
    have hi' : ∀ e ∈ m, i < e.1 := fun e he => hi _ (List.mem_map_of_mem he)
    rw [splitCells]
    by_cases hlt : i < k
    · rw [if_pos hlt]
      obtain ⟨h1, h2, h3, h4, h5⟩ := ih hm
      refine ⟨fun e he => ?_, ?_, h3, fun j hj => ?_, fun j hj => ?_⟩
      · rcases List.mem_cons.mp he with rfl | he
        · exact hlt
        · exact h1 e he
      · rw [cellAt_cons, if_neg (Nat.ne_of_lt hlt)]
        exact h2
      · rw [cellAt_cons, cellAt_cons, h4 j hj]
      · rw [cellAt_cons, if_neg (by omega)]
        exact h5 j hj
    · rw [if_neg hlt]
      by_cases hk : i = k
      · subst hk
        rw [if_pos rfl]
        refine ⟨fun _ he => (List.not_mem_nil he).elim, ?_, ⟨hm, hi'⟩, fun j hj => ?_, fun j hj => ?_⟩
        · rw [cellAt_cons, if_pos rfl]
        · rw [cellAt_cons, if_neg (by omega), cellAt_below (m := m) (fun e he => by have := hi' e he; omega)]
          rfl
        · rw [cellAt_cons, if_neg (by omega)]
      · rw [if_neg hk]
        have hall : ∀ e ∈ (i, v) :: m, k < e.1 := by
          intro e he
          rcases List.mem_cons.mp he with rfl | he
          · exact Nat.lt_of_le_of_ne (Nat.not_lt.mp hlt) (Ne.symm hk)
          · have := hi' e he
            omega
        refine ⟨fun _ he => (List.not_mem_nil he).elim, ?_, ⟨?_, hall⟩, fun j hj => ?_, fun _ _ => rfl⟩
        · rw [cellAt_below (fun e he => by have := hall e he; omega)]
        · rw [List.map_cons]
          exact List.pairwise_cons.mpr ⟨hi, hm⟩
        · rw [cellAt_below (m := (i, v) :: m) (fun e he => by have := hall e he; omega)]
          rfl

theorem cellAt_append (a b : KMap (BitVec 32)) (k : Nat) :
    cellAt (a ++ b) k = if (kget a k).isSome then cellAt a k else cellAt b k := by
  induction a with
  | nil => rfl
  | cons e a ih =>
    rw [List.cons_append, cellAt_cons, cellAt_cons, ih, kget]
    by_cases h : e.1 = k
    · rw [if_pos h, if_pos h, if_pos h]
      rfl
    · rw [if_neg h, if_neg h, if_neg h]

theorem kget_none {m : KMap (BitVec 32)} {k : Nat} (h : ∀ e ∈ m, e.1 ≠ k) : kget m k = none := by
  cases hk : kget m k with
  | none => rfl
  | some v => exact absurd rfl (h _ (kget_mem hk))

/-- Cells changed at rising keys: those keys hold the new values, and the others are as before. -/
theorem cellAt_mapCells (f : Nat → BitVec 32 → BitVec 32) (l : List Nat) (m : KMap (BitVec 32)) (hl : l.Pairwise (· < ·))
    (hm : (m.map (fun e => e.1)).Pairwise (· < ·)) (j : Nat) :
    cellAt (mapCells f l m) j = if j ∈ l then f j (cellAt m j) else cellAt m j := by
  induction l generalizing m with
  | nil => rfl
  | cons k l ih =>
    obtain ⟨h1, h2, ⟨h3, h3'⟩, h4, h5⟩ := splitCells_spec k m hm
    rw [List.pairwise_cons] at hl
    obtain ⟨hk, hl⟩ := hl
    have hrest := ih (splitCells m k).2.2 hl h3
    rw [mapCells, List.append_assoc, cellAt_append]
    rcases Nat.lt_trichotomy j k with hj | rfl | hj
    · have hn : ¬ j ∈ k :: l := by
        rintro h
        rcases List.mem_cons.mp h with h | h
        · omega
        · have := hk j h
          omega
      have hz : cellAt (splitCells m k).2.2 j = 0 := cellAt_below (fun e he => by have := h3' e he; omega)
      have hv : cellAt ((if f k (splitCells m k).2.1 = 0 then [] else [(k, f k (splitCells m k).2.1)]) ++
          mapCells f l (splitCells m k).2.2) j = 0 := by
        rw [cellAt_append, kget_none, if_neg (by simp), hrest, if_neg (fun h => hn (List.mem_cons_of_mem _ h)), hz]
        intro e he
        split at he
        · exact (List.not_mem_nil he).elim
        · rw [List.mem_singleton.mp he]
          exact Nat.ne_of_gt hj
      rw [if_neg hn, ← h4 j hj, hv]
      split
      · rfl
      · next h => rw [cellAt, Option.not_isSome_iff_eq_none.mp h]; rfl
    · have hz : cellAt (splitCells m j).2.2 j = 0 := cellAt_below (fun e he => by have := h3' e he; omega)
      have hnl : ¬ j ∈ l := fun h => Nat.lt_irrefl j (hk j h)
      rw [kget_none (fun e he => by have := h1 e he; omega), if_neg (by simp), if_pos List.mem_cons_self, h2]
      by_cases hf : f j (cellAt m j) = 0
      · rw [if_pos hf, List.nil_append, hrest, if_neg hnl, hz, hf]
      · rw [if_neg hf, List.singleton_append, cellAt_cons, if_pos rfl]
    · have hjl : j ∈ k :: l ↔ j ∈ l := by
        rw [List.mem_cons]
        exact ⟨fun h => h.resolve_left (by omega), Or.inr⟩
      have hs : cellAt ((if f k (splitCells m k).2.1 = 0 then [] else [(k, f k (splitCells m k).2.1)]) ++
          mapCells f l (splitCells m k).2.2) j = cellAt (mapCells f l (splitCells m k).2.2) j := by
        split
        · rfl
        · rw [List.singleton_append, cellAt_cons, if_neg (by omega)]
      rw [kget_none (fun e he => by have := h1 e he; omega), if_neg (by simp), hs, hrest, h5 j hj, if_congr hjl rfl rfl]

theorem mem_jobCells {rows cols r q : Nat} (hq : q < 64) (hc : cols ≤ 64) :
    64 * r + q ∈ jobCells rows cols ↔ r < rows ∧ q < cols := by
  rw [jobCells, List.mem_flatMap]
  simp only [List.mem_map, List.mem_range]
  constructor
  · rintro ⟨i, hi, j, hj, he⟩
    obtain ⟨rfl, rfl⟩ : i = r ∧ j = q := by omega
    exact ⟨hi, hj⟩
  · rintro ⟨hr, hq⟩
    exact ⟨r, hr, q, hq, rfl⟩

theorem jobCells_rise {rows cols : Nat} (hc : cols ≤ 64) : (jobCells rows cols).Pairwise (· < ·) := by
  rw [jobCells, List.pairwise_flatMap]
  refine ⟨fun i _ => ?_, ?_⟩
  · rw [List.pairwise_map]
    exact List.pairwise_lt_range.imp (fun h => by omega)
  · refine List.pairwise_lt_range.imp (fun {i i'} h x hx y hy => ?_)
    rw [List.mem_map] at hx hy
    obtain ⟨j, hj, rfl⟩ := hx
    obtain ⟨j', _, rfl⟩ := hy
    rw [List.mem_range] at hj
    omega

/-! ## A group entered (R78, R275) -/

section
variable {s : State} {p : PartId} {k : ClusterId} {x : MxRun} {as_ bs_ : List (List Elem)}

theorem State.cluster_modPart_of (s : State) (p : PartId) (f : Partition → Partition) (h : (f (s.part p)).clusters = (s.part p).clusters)
    (p' : PartId) (k : ClusterId) : (s.modPart p f).cluster p' k = s.cluster p' k := by
  by_cases hp : p' = p
  · subst hp
    rw [State.cluster, State.part_modPart, Partition.cluster, h]
    rfl
  · rw [State.cluster, State.part_modPart_ne _ _ hp]
    rfl

theorem State.cluster_modCoreW (s : State) (p : PartId) (c : CoreId) (f : CoreWorld → CoreWorld) (p' : PartId) (k : ClusterId) :
    (s.modCoreW p c f).cluster p' k = s.cluster p' k := State.cluster_modPart_of s p _ rfl p' k

theorem State.cluster_modCoreC (s : State) (p : PartId) (c : CoreId) (f : CoreFixed → CoreFixed) (p' : PartId) (k : ClusterId) :
    (s.modCoreC p c f).cluster p' k = s.cluster p' k := State.cluster_modPart_of s p _ rfl p' k

theorem State.cluster_hwSet (s : State) (p : PartId) (c : CoreId) (r : SysReg) (b : Nat) (p' : PartId) (k : ClusterId) :
    (s.hwSet p c r b).cluster p' k = s.cluster p' k := rfl

theorem cluster_noteWrap (s : State) (p : PartId) (c : CoreId) (i : Fin 4) (p' : PartId) (k : ClusterId) :
    (noteWrap s p c i).cluster p' k = s.cluster p' k := by
  unfold noteWrap
  dsimp only
  split
  · rw [State.cluster_modCoreC, State.cluster_hwSet, State.cluster_modCoreW]
  · rw [State.cluster_hwSet, State.cluster_modCoreW]

theorem cluster_countReg (s : State) (p : PartId) (c : CoreId) (m : Nat) (i : Fin 4) (p' : PartId) (k : ClusterId) :
    (countReg s p c m i).cluster p' k = s.cluster p' k := by
  unfold countReg
  split <;> dsimp only <;> split
  · exact cluster_noteWrap (s.mtsSet p c (.pcnt i) _) p c i p' k
  · rfl
  · rw [cluster_noteWrap, State.cluster_modCoreW]
  · rw [State.cluster_modCoreW]

theorem State.cluster_count (s : State) (p : PartId) (c : CoreId) (code : Nat) (sl : Option SlotId) (m : Nat) (p' : PartId) (k : ClusterId) :
    (s.count p c code sl m).cluster p' k = s.cluster p' k := by
  unfold State.count
  split
  · exact foldl_keeps (fun u : State => u.cluster p' k) (fun u i => cluster_countReg u p c m i p' k) _ s
  · rfl

theorem State.cluster_modClusterW (s : State) (p : PartId) (k : ClusterId) (f : ClusterWorld → ClusterWorld) :
    (s.modClusterW p k f).cluster p k = { s.cluster p k with w := f (s.cluster p k).w } := by
  rw [State.modClusterW, State.setCluster, State.cluster, State.part_modPart, Partition.cluster, kget_kput_same]
  rfl

theorem State.acc_modClusterW_of (s : State) (p : PartId) (k : ClusterId) (f : ClusterWorld → ClusterWorld)
    (h : (f (s.cluster p k).w).acc = (s.cluster p k).w.acc) (i : Nat) : (s.modClusterW p k f).acc p k i = s.acc p k i := by
  rw [State.acc, State.acc, State.cluster_modClusterW, accOf, accOf]
  dsimp only
  rw [h]

theorem State.acc_modAcc (s : State) (p : PartId) (k : ClusterId) (i : Nat) (f : AccSlot → AccSlot) (j : Nat) :
    (s.modAcc p k i f).acc p k j = if j = i then f (s.acc p k i) else s.acc p k j := by
  rw [State.acc, State.modAcc, State.cluster_modClusterW, accOf]
  dsimp only
  split
  · next h =>
    rw [h, kget_kput_same]
    rfl
  · next h =>
    rw [kget_kput_ne _ _ h]
    rfl

theorem State.world_modAcc (s : State) (p : PartId) (k : ClusterId) (i : Nat) (f : AccSlot → AccSlot) :
    ((s.modAcc p k i f).cluster p k).w = { (s.cluster p k).w with acc := kput (s.cluster p k).w.acc i (f (s.acc p k i)) } := by
  rw [State.modAcc, State.cluster_modClusterW]
  rfl

/-- The pairs of a group's row and column: a′ and b′ of each index. -/
def groupPairs (as_ bs_ : List (List Elem)) (r q : Nat) : List (FVal × FVal) :=
  ((as_[r]?.getD []).zip (bs_[q]?.getD [])).map (fun e => (e.1.v, e.2.v))

/-- The cell of a group's row and column before it: the semiring's zero at the start of a job that zeroes. -/
def groupStart (x : MxRun) (old : BitVec 32) : BitVec 32 := if x.group = 0 ∧ x.job.az = true then semiringZero x.job.sr else old

/-- The cell that a group leaves at a key. -/
def groupAt (x : MxRun) (as_ bs_ : List (List Elem)) (key : Nat) (c : BitVec 32) : BitVec 32 :=
  groupCell x.job.sr (groupStart x c) (groupPairs as_ bs_ (key / 64) (key % 64))

/-- The cells of a run's slot after a group. -/
def groupCells (s : State) (p : PartId) (k : ClusterId) (x : MxRun) (as_ bs_ : List (List Elem)) : KMap (BitVec 32) :=
  mapCells (groupAt x as_ bs_) (jobCells x.job.a.shape.rows x.job.b.shape.cols) (s.acc p k (entrySlot x.core x.job.slot)).cells

/-- A run after a group. -/
def groupRun (x : MxRun) (as_ bs_ : List (List Elem)) : MxRun :=
  { x with
    group := x.group + 1, malformed := x.malformed || (as_.flatten ++ bs_.flatten).any (fun e => e.malformed),
    special := x.special || (as_.flatten ++ bs_.flatten).any (fun e => e.v.special),
    cs := if x.special || (as_.flatten ++ bs_.flatten).any (fun e => e.v.special) then x.cs else checkColumns as_ bs_ x.cs false,
    mag := if x.special || (as_.flatten ++ bs_.flatten).any (fun e => e.v.special) then x.mag else checkColumns as_ bs_ x.mag true }

/-- The state with a group's cells in the slot. -/
def groupPut (s : State) (p : PartId) (k : ClusterId) (x : MxRun) (as_ bs_ : List (List Elem)) : State :=
  (s.modAcc p k (entrySlot x.core x.job.slot) (fun a => { a with cells := groupCells s p k x as_ bs_ })).count p x.core 12 none 1

theorem groupAt_eq (key : Nat) (c : BitVec 32) : groupAt x as_ bs_ key c =
    groupCell x.job.sr (if decide (x.group = 0) && x.job.az then semiringZero x.job.sr else c)
      ((((as_.toArray[key / 64]?).getD []).zip ((bs_.toArray[key % 64]?).getD [])).map (fun y => (y.1.v, y.2.v))) := by
  rw [groupAt, groupStart, groupPairs]
  simp only [List.getElem?_toArray, Bool.and_eq_true, decide_eq_true_eq]

theorem enterGroup_eq : enterGroup s p k x as_ bs_ =
    if (groupRun x as_ bs_).group < x.job.groups then
      (groupPut s p k x as_ bs_).modClusterW p k (fun w => { w with run := some (groupRun x as_ bs_) })
    else
      toDrain (groupPut s p k x as_ bs_) p k { groupRun x as_ bs_ with
        chk := (jobCheck (groupPut s p k x as_ bs_) p k (groupRun x as_ bs_) (groupCells s p k x as_ bs_)).1,
        column := (jobCheck (groupPut s p k x as_ bs_) p k (groupRun x as_ bs_) (groupCells s p k x as_ bs_)).2,
        due := (groupPut s p k x as_ bs_).cycle + 32 } := by
  have hf : groupAt x as_ bs_ = fun key c => groupCell x.job.sr (if decide (x.group = 0) && x.job.az then semiringZero x.job.sr else c)
      ((((as_.toArray[key / 64]?).getD []).zip ((bs_.toArray[key % 64]?).getD [])).map (fun y => (y.1.v, y.2.v))) :=
    funext fun key => funext fun c => groupAt_eq key c
  rw [enterGroup, groupPut, groupCells, hf]
  rfl

theorem world_groupPut : ((groupPut s p k x as_ bs_).cluster p k).w = { (s.cluster p k).w with
    acc := kput (s.cluster p k).w.acc (entrySlot x.core x.job.slot)
      { s.acc p k (entrySlot x.core x.job.slot) with cells := groupCells s p k x as_ bs_ } } := by
  rw [groupPut, State.cluster_count, State.world_modAcc]

theorem acc_enterGroup : ((enterGroup s p k x as_ bs_).acc p k (entrySlot x.core x.job.slot)).cells = groupCells s p k x as_ bs_ := by
  have hp : (groupPut s p k x as_ bs_).acc p k (entrySlot x.core x.job.slot) =
      { s.acc p k (entrySlot x.core x.job.slot) with cells := groupCells s p k x as_ bs_ } := by
    rw [State.acc, world_groupPut, accOf, kget_kput_same, Option.getD_some]
  rw [enterGroup_eq]
  split
  · rw [State.acc_modClusterW_of _ _ _ _ (by rfl), hp]
  · rw [toDrain, State.acc_modClusterW_of _ _ _ _ (by rfl), hp]

theorem enterGroup_goesOn (h : x.group + 1 < x.job.groups) :
    ∃ z, ((enterGroup s p k x as_ bs_).cluster p k).w.run = some z ∧ z.job = x.job ∧ z.group = x.group + 1 := by
  have h' : (groupRun x as_ bs_).group < x.job.groups := h
  rw [enterGroup_eq, if_pos h', State.cluster_modClusterW]
  exact ⟨_, rfl, rfl, rfl⟩

theorem enterGroup_ends (h : x.job.groups ≤ x.group + 1) : ((enterGroup s p k x as_ bs_).cluster p k).w.run = none ∧
    ∃ z, ((enterGroup s p k x as_ bs_).cluster p k).w.drain = (s.cluster p k).w.drain ++ [z] ∧ z.job = x.job ∧ z.due = s.cycle + 32 := by
  have hc : (groupPut s p k x as_ bs_).cycle = s.cycle := by
    rw [groupPut]
    exact (same_count ..).cycle
  have h' : ¬ (groupRun x as_ bs_).group < x.job.groups := Nat.not_lt.mpr h
  rw [enterGroup_eq, if_neg h', toDrain, State.cluster_modClusterW, hc]
  refine ⟨rfl, ?_⟩
  dsimp only
  rw [world_groupPut]
  exact ⟨_, rfl, rfl, rfl⟩

/-- What a group leaves in the cell of a row and a column. -/
theorem enterGroup_cell (hs : ((s.acc p k (entrySlot x.core x.job.slot)).cells.map (fun e => e.1)).Pairwise (· < ·))
    (hc : x.job.b.shape.cols ≤ 64) {r q : Nat} (hq : q < 64) :
    cellAt ((enterGroup s p k x as_ bs_).acc p k (entrySlot x.core x.job.slot)).cells (64 * r + q) =
      if r < x.job.a.shape.rows ∧ q < x.job.b.shape.cols then
        groupCell x.job.sr (groupStart x (cellAt (s.acc p k (entrySlot x.core x.job.slot)).cells (64 * r + q))) (groupPairs as_ bs_ r q)
      else cellAt (s.acc p k (entrySlot x.core x.job.slot)).cells (64 * r + q) := by
  rw [acc_enterGroup, groupCells, cellAt_mapCells _ _ _ (jobCells_rise hc) hs, if_congr (mem_jobCells hq hc) rfl rfl, groupAt,
    (by omega : (64 * r + q) / 64 = r), (by omega : (64 * r + q) % 64 = q)]

/-- The value that a group gives a cell as the best of its terms. -/
def bestOf (greatest : Bool) (new : BitVec 32) (l : List FVal) : Prop :=
  (l.any FVal.isNan = true → new = 0x7FC00000) ∧
  (l.any FVal.isNan = false → ∃ v ∈ l, new = BitVec.ofNat 32 (Fmt.f32.deliver v).bits ∧
    ∀ y ∈ l, (if greatest then valLt v y else valLt y v) = false ∧ (v.isZero → y.isZero → y.sign = !greatest → v.sign = !greatest))

theorem bestOf_picks (greatest : Bool) (c : FVal) (l : List FVal) :
    bestOf greatest (BitVec.ofNat 32 (Fmt.f32.deliver (l.foldl (pickVal !greatest) c)).bits) (c :: l) := by
  refine ⟨fun h => deliver_nan (foldl_pickVal_nan l c h), fun h => ?_⟩
  rw [List.any_eq_false] at h
  obtain ⟨hm, hr⟩ := foldl_pickVal (least := !greatest) l c (fun y hy => Bool.eq_false_iff.mpr (h y hy))
  refine ⟨_, hm, rfl, fun y hy => ?_⟩
  obtain ⟨hb, hz⟩ := hr y hy
  refine ⟨?_, hz⟩
  rw [← hb, beats]
  cases greatest <;> rfl

end

/-! ## Elements and scales (R69, R72, R73, R271, R277) -/

section
variable {s : State} {p : PartId} {k : ClusterId} {o : Operand} {first neg : Bool} {tile row col depth : Nat}

/-- The cell of an element of whole bytes. -/
def elemKey (p : PartId) (k : ClusterId) (o : Operand) (tile row col : Nat) : Nat :=
  keyScratch p k (o.shape.base + tile * o.shape.tstr + row * o.shape.rstr + col * o.shape.estr * o.fmt.container / 8)

/-- The value of an element of whole bytes, with its operand's sign. -/
def elemVal (s : State) (p : PartId) (k : ClusterId) (o : Operand) (neg : Bool) (tile row col : Nat) : FVal :=
  if neg then (o.fmt.val (memRead s.mem (elemKey p k o tile row col) ((o.fmt.container + 7) / 8))).neg
  else o.fmt.val (memRead s.mem (elemKey p k o tile row col) ((o.fmt.container + 7) / 8))

variable (h4 : o.fmt.container ≠ 4)
include h4

theorem readElem_plain (hs : o.scale = none) : readElem s p k o first neg tile row col depth =
    { v := elemVal s p k o neg tile row col, malformed := false, poisoned := s.wordPoisoned (elemKey p k o tile row col) } := by
  rw [readElem, scalePlace, hs, elemPlace]
  dsimp only
  rw [if_neg h4, if_neg h4, Nat.pow_zero, Nat.div_one]
  rfl

theorem readElem_scaled {z : Word} (hs : o.scale = some z) : readElem s p k o first neg tile row col depth =
    { v := mulVal (elemVal s p k o neg tile row col) (scaleVal (s.byte (keyScratch p k (z.toNat - 0xFF00000000400000 +
        tile * 64 * ((depth + 31) / 32) + if first then row * ((depth + 31) / 32) + col / 32 else row / 32 * 64 + col))).toNat).1,
      malformed := (scaleVal (s.byte (keyScratch p k (z.toNat - 0xFF00000000400000 +
        tile * 64 * ((depth + 31) / 32) + if first then row * ((depth + 31) / 32) + col / 32 else row / 32 * 64 + col))).toNat).2,
      poisoned := s.wordPoisoned (elemKey p k o tile row col) || s.wordPoisoned (keyScratch p k (z.toNat - 0xFF00000000400000 +
        tile * 64 * ((depth + 31) / 32) + if first then row * ((depth + 31) / 32) + col / 32 else row / 32 * 64 + col)) } := by
  rw [readElem, scalePlace, hs, elemPlace]
  dsimp only
  rw [if_neg h4, if_neg h4, Nat.pow_zero, Nat.div_one]
  cases first
  · rw [if_neg Bool.false_ne_true, if_neg Bool.false_ne_true, ← Nat.add_assoc]
    rfl
  · rw [if_pos rfl, if_pos rfl, ← Nat.add_assoc]
    rfl

end

theorem scaleVal_finite {b : Nat} (h : b < 127) : (scaleVal b).1.rat =
    (if b / 8 = 0 then ((b % 8 : ℕ) : ℚ) / 8 * 2 ^ (-6 : ℤ) else (1 + ((b % 8 : ℕ) : ℚ) / 8) * 2 ^ (((b / 8 : ℕ) : ℤ) - 7)) ∧
    (scaleVal b).2 = false := by
  have he : b / 8 % 16 = b / 8 := by omega
  rw [scaleVal, if_neg (by omega), if_neg (by omega), he]
  by_cases h0 : b / 8 = 0
  · rw [if_pos h0, if_pos h0]
    refine ⟨?_, rfl⟩
    rw [FVal.rat, if_neg Bool.false_ne_true]
    norm_num
    ring
  · rw [if_neg h0, if_neg h0]
    refine ⟨?_, rfl⟩
    have hz : (2 : ℚ) ^ (((b / 8 : ℕ) : ℤ) - 10) = 2 ^ (((b / 8 : ℕ) : ℤ) - 7) / 8 := by
      rw [(by ring : ((b / 8 : ℕ) : ℤ) - 10 = (((b / 8 : ℕ) : ℤ) - 7) - 3), zpow_sub₀ (by norm_num)]
      norm_num
    rw [FVal.rat, if_neg Bool.false_ne_true, one_mul, hz]
    push_cast
    ring

end Sys2Proof.Machine
end

section
/-! SUPPORT. Lemmas about the matrix engine: picks, groups, completions and stores (17 R267, R275, R281, R298, R300; 18 R283). -/
namespace Sys2Proof.Machine

/-! ## Picks (R267) -/

section
variable {s : State} {p : PartId} {k : ClusterId} {c : CoreId} {m : MxJob} {x : MxRun} {slot tid : Nat} {corr : BitVec 32}
  {ctx : BitVec 8} {va : Word} {pages : List Leaf}

theorem matrixJobPick_busy (h : (s.cluster p k).w.run ≠ none ∨ (s.cluster p k).w.storing ≠ none) : execMatrixJobPick p k s = .next s := by
  rw [execMatrixJobPick]
  refine if_pos ?_
  rw [Bool.or_eq_true, Option.isSome_iff_ne_none, Option.isSome_iff_ne_none]
  exact h

/-- What the engine's pick leaves, by the head that it finds. -/
def headPicked (s : State) (p : PartId) (k : ClusterId) (c : CoreId) : Option MxEntry → Out
  | none => .next s
  | some (.job j) =>
    .next (if (startRun s p k c j).disc then toDrain (s.modClusterW p k (fun w => { w with mxLast := c.val % 8 })) p k (startRun s p k c j)
      else (s.modClusterW p k (fun w => { w with mxLast := c.val % 8 })).modClusterW p k (fun w => { w with run := some (startRun s p k c j) }))
  | some (.zero slot tid corr) =>
    if (s.cluster p k).w.drain.any (fun x => x.core == c) then .next s
    else .next (entryDone (dropEntry ((s.modClusterW p k (fun w => { w with mxLast := c.val % 8 })).modAcc p k (entrySlot c slot)
      (fun a => if a.poisoned then { a with disc := true } else { a with cells := [] })) p c (.zero slot tid corr)) p k c (entrySlot c slot))
  | some (.store _ _ _ _ _ _) =>
    if (s.cluster p k).w.drain.any (fun x => x.core == c) then .next s
    else .next ((s.modClusterW p k (fun w => { w with mxLast := c.val % 8, storing := some c })).push (.mxstExecute p k))

theorem matrixJobPick_head (hr : (s.cluster p k).w.run = none) (hs : (s.cluster p k).w.storing = none) (hn : nextCore s p k = some c) :
    execMatrixJobPick p k s = headPicked s p k c (mxHead s p k c) := by
  obtain ⟨F, hF⟩ : ∃ F, F = nextCore := ⟨_, rfl⟩
  obtain ⟨G, hG⟩ : ∃ G, G = mxHead := ⟨_, rfl⟩
  rw [← hF] at hn
  rw [execMatrixJobPick, hr, hs, ← hF, ← hG, hn]
  rw [Option.isSome_none, Option.isSome_none, Bool.or_self, if_neg Bool.false_ne_true]
  dsimp only
  generalize G s p k c = o
  rcases o with - | e
  · rfl
  · cases e <;> rfl

/-- A head that the engine picks finds a tile in each ring that it reads. -/
theorem nextCore_tiles (hn : nextCore s p k = some c) (hm : mxHead s p k c = some (.job m)) :
    popsOwed (s.cluster p k).w m.a.ring + 1 ≤ (s.cluster p k).w.rings[m.a.ring].count ∧
    popsOwed (s.cluster p k).w m.b.ring + 1 ≤ (s.cluster p k).w.rings[m.b.ring].count := by
  have h := List.find?_some hn
  rw [hm] at h
  have h' := Bool.and_eq_true_iff.mp h
  exact ⟨of_decide_eq_true h'.1, of_decide_eq_true h'.2⟩

/-! ## Groups (R275, R276, R281) -/

theorem matrixPoison_run (h : (s.cluster p k).w.run = some x) : execMatrixPoison p k s = .next (poisonRun s p k x) := by
  rw [execMatrixPoison, h]

theorem matrixPoison_none (h : (s.cluster p k).w.run = none) : execMatrixPoison p k s = .next s := by
  rw [execMatrixPoison, h]

theorem matrixGroup_none (h : (s.cluster p k).w.run = none) : execMatrixGroup p k s = .next s := by
  rw [execMatrixGroup, h]

/-- The state in which a group has read its banks. -/
def banksRead (s : State) (p : PartId) (k : ClusterId) (x : MxRun) : State :=
  s.modClusterW p k (fun w => { w with bankEng := groupBanks x (groupIndices x.job x.group) })

/-- A group with a poisoned element. -/
def groupPoisoned (s : State) (p : PartId) (k : ClusterId) (x : MxRun) : Bool :=
  ((groupA s p k x (groupIndices x.job x.group)).flatten ++ (groupB s p k x (groupIndices x.job x.group)).flatten).any (fun e => e.poisoned)

theorem matrixGroup_run (h : (s.cluster p k).w.run = some x) : execMatrixGroup p k s =
    if (groupBanks x (groupIndices x.job x.group)).any (bankOverdue s p k) then .next s
    else .next (if groupPoisoned s p k x then poisonRun (banksRead s p k x) p k x
      else enterGroup (banksRead s p k x) p k x (groupA s p k x (groupIndices x.job x.group)) (groupB s p k x (groupIndices x.job x.group))) := by
  rw [execMatrixGroup, h]
  rfl

/-! ## Completions (R275, R279, R285, R298) -/

theorem matrixJobComplete_none (h : (s.cluster p k).w.drain = []) : execMatrixJobComplete p k s = .next s := by
  rw [execMatrixJobComplete, h]

/-- The state with the result of a job in its slot. -/
def resultNoted (s : State) (p : PartId) (k : ClusterId) (x : MxRun) (xs : List MxRun) : State :=
  (popRings (s.modClusterW p k (fun w => { w with drain := xs })) p k x).modAcc p k (entrySlot x.core x.job.slot) (fun a => { a with
    malf := x.malformed, disc := x.disc, chk := x.chk, mism := a.mism || x.chk == 2, unch := a.unch || x.chk == 1 })

/-- The state with the outcome of a job's checksum told. -/
def checkTold (s : State) (p : PartId) (x : MxRun) : State :=
  if x.chk = 2 then
    postRecord (s.hwSet p x.core (.accst (Fin.ofNat 2 x.job.slot)) 1) p { TrapRec.none with
      code := 0x043, cls := 2, ctx := x.job.ctx, core := x.core.val, tid := x.job.tid, corr := x.job.corr,
      d0 := jobId true x.core x.job.slot x.job.seq, d1 := word x.column }
  else if x.chk = 1 then s.hwSet p x.core (.accst (Fin.ofNat 2 x.job.slot)) 0 else s

/-- The state with a job ended. -/
def jobEnded (s : State) (p : PartId) (k : ClusterId) (x : MxRun) : State :=
  entryDone ((dropEntry s p x.core (.job x.job)).modCoreW p x.core (fun w => { w with mxDone := (x.job.seq + 1) % 2 ^ 21 })) p k x.core
    (entrySlot x.core x.job.slot)

theorem matrixJobComplete_head {xs : List MxRun} (h : (s.cluster p k).w.drain = x :: xs) : execMatrixJobComplete p k s =
    if s.cycle < x.due then .next s else .next (jobEnded (checkTold (resultNoted s p k x xs) p x) p k x) := by
  rw [execMatrixJobComplete, h]
  dsimp only
  refine if_congr Iff.rfl rfl (congrArg Host.Outcome.next (congrArg (jobEnded · p k x) ?_))
  rw [checkTold]
  by_cases h2 : x.chk = 2
  · rw [if_pos h2, if_pos h2, if_pos h2]
    rfl
  · rw [if_neg h2, if_neg h2, if_neg h2]
    rfl

/-! ## Stores (R300) -/

theorem mxstExecute_none (h : (s.cluster p k).w.storing = none) : execMxstExecute p k s = .next s := by
  rw [execMxstExecute, h]

/-- The state with the store of a slot ended. -/
def storeEnded (s : State) (p : PartId) (k : ClusterId) (c : CoreId) (e : MxEntry) (slot : Nat) : State :=
  entryDone ((dropEntry s p c e).modClusterW p k (fun w => { w with storing := none })) p k c (entrySlot c slot)

/-- What an MXST does, by the wait for a captured page. -/
def storeDone (s : State) (p : PartId) (k : ClusterId) (c : CoreId) (slot tid : Nat) (corr : BitVec 32) (ctx : BitVec 8) (va : Word)
    (pages : List Leaf) : Option State → Out
  | some s => .next (s.holdBack (.mxstExecute p k))
  | none => .next (storeEnded (if (s.acc p k (entrySlot c slot)).poisoned then s.modAcc p k (entrySlot c slot) (fun a => { a with disc := true })
      else storeSlot s p c (.step (.mxstExecute p k)) va pages (s.acc p k (entrySlot c slot)).cells corr ctx) p k c
      (.store slot tid corr ctx va pages) slot)

theorem mxstExecute_head (h : (s.cluster p k).w.storing = some c) (hm : mxHead s p k c = some (.store slot tid corr ctx va pages)) :
    execMxstExecute p k s =
      storeDone s p k c slot tid corr ctx va pages (pages.findSome? (fun l => pageWait s p l (.step (.mxstExecute p k)))) := by
  obtain ⟨G, hG⟩ : ∃ G, G = mxHead := ⟨_, rfl⟩
  obtain ⟨F, hF⟩ : ∃ F, F = storeSlot := ⟨_, rfl⟩
  rw [← hG] at hm
  rw [execMxstExecute, h, ← hG, storeDone.eq_def, ← hF]
  dsimp only
  rw [hm]
  dsimp only
  generalize pages.findSome? (fun l => pageWait s p l (.step (.mxstExecute p k))) = o
  cases o <;> rfl

/-! ## ACCRCL (R283) -/

/-- A slot that an ACCRCL names. -/
def slotReclaimed (a : AccSlot) : AccSlot :=
  if a.pend ≠ 0 then { a with reclaim := true } else if a.state = 0 then a else a.reclaimed

/-- The fold of ACCRCL over the first n slots. -/
def reclaimBelow (s : State) (p : PartId) (k : ClusterId) (slots n : Nat) : State :=
  (List.range n).foldl (fun s i => if slots / 2 ^ i % 2 = 1 then s.modAcc p k i slotReclaimed else s) s

theorem reclaimBelow_succ (slots n : Nat) : reclaimBelow s p k slots (n + 1) =
    if slots / 2 ^ n % 2 = 1 then (reclaimBelow s p k slots n).modAcc p k n slotReclaimed else reclaimBelow s p k slots n := by
  rw [reclaimBelow, List.range_succ, List.foldl_append]
  rfl

theorem mem_reclaimBelow (slots n : Nat) : (reclaimBelow s p k slots n).mem = s.mem := by
  induction n with
  | zero => rfl
  | succ n ih =>
    rw [reclaimBelow_succ]
    split
    · exact ih
    · exact ih

theorem acc_reclaimBelow (slots n i : Nat) : (reclaimBelow s p k slots n).acc p k i =
    if i < n ∧ slots / 2 ^ i % 2 = 1 then slotReclaimed (s.acc p k i) else s.acc p k i := by
  induction n with
  | zero => exact (if_neg (fun h => Nat.not_lt_zero i h.1)).symm
  | succ n ih =>
    have hn : (reclaimBelow s p k slots (n + 1)).acc p k i =
        if i = n ∧ slots / 2 ^ n % 2 = 1 then slotReclaimed ((reclaimBelow s p k slots n).acc p k n)
        else (reclaimBelow s p k slots n).acc p k i := by
      rw [reclaimBelow_succ]
      split
      · next h =>
        rw [State.acc_modAcc]
        exact if_congr (by rw [and_iff_left h]) rfl rfl
      · next h => rw [if_neg (fun e => h e.2)]
    rw [hn]
    by_cases hi : i = n
    · subst hi
      have hb : (reclaimBelow s p k slots i).acc p k i = s.acc p k i := by
        rw [ih, if_neg (fun h => Nat.lt_irrefl i h.1)]
      rw [hb]
      exact if_congr (by simp) rfl rfl
    · rw [if_neg (fun h => hi h.1), ih]
      exact if_congr (by omega) rfl rfl

theorem slotReclaimed_eq (a : AccSlot) : slotReclaimed a =
    if a.pend ≠ 0 then { a with reclaim := true }
    else if a.poisoned || a.orphaned then
      { a with tagged := false, exited := false, orphaned := false, poisoned := false, reclaim := false }
    else a := by
  rw [slotReclaimed]
  refine if_ctx_congr Iff.rfl (fun _ => rfl) fun h => ?_
  rw [AccSlot.state, if_neg h]
  cases a.poisoned <;> cases a.orphaned <;> rfl

theorem acc_accrcl (slots : BitVec 16) {i : Nat} (hi : i < 16) : (reclaimSlots s p k slots.toNat).acc p k i =
    if slots.getLsbD i = false then s.acc p k i
    else slotReclaimed (s.acc p k i) := by
  refine (acc_reclaimBelow slots.toNat 16 i).trans ?_
  have hb : slots.toNat / 2 ^ i % 2 = 1 ↔ ¬ slots.getLsbD i = false := by
    rw [Bool.not_eq_false, BitVec.getLsbD, Nat.testBit_eq_decide_div_mod_eq, decide_eq_true_eq]
  by_cases h : slots.getLsbD i = false
  · rw [if_pos h, if_neg (fun e => hb.mp e.2 h)]
  · rw [if_neg h, if_pos ⟨hi, hb.mpr h⟩]

end

/-! ## The cell that a group leaves, said by its terms (R78 to R80) -/

section
variable {x : MxRun} {old : BitVec 32} {ts : List (FVal × FVal)}

theorem groupCell_best (greatest : Bool) (f : FVal × FVal → FVal) (c : BitVec 32) :
    bestOf greatest (BitVec.ofNat 32 (Fmt.f32.deliver (ts.foldl (fun acc y => pickVal (!greatest) acc (f y)) (Fmt.f32.val c.toNat))).bits)
      (Fmt.f32.val c.toNat :: ts.map f) := by
  have h := bestOf_picks greatest (Fmt.f32.val c.toNat) (ts.map f)
  rwa [List.foldl_map] at h

theorem groupCell_orAnd (c : BitVec 32) : groupCell .orAnd c ts =
    if (Fmt.f32.val c.toNat).isZero = false ∨ ts.any (fun e => !e.1.isZero && !e.2.isZero) = true then 0x3F800000 else 0 := by
  rw [groupCell]
  refine if_congr ?_ rfl rfl
  rw [Bool.or_eq_true, Bool.not_eq_true']

end

/-! ## Bytes written (R280) -/

theorem byte_writeMemBytes {s : State} (h : MemoryCanonical s) (key a : Nat) (b : List Byte) :
    (s.writeMemBytes key b).byte a = if key ≤ a ∧ a < key + b.length then b.getD (a - key) 0 else s.byte a :=
  memByte_memWriteBytes b key a h

end Sys2Proof.Machine
end

section
/-! SUPPORT. The steps of the engines, put together (17 R266 to R281; 18 R283, R300). -/
namespace Sys2Proof.Machine

section
variable {s s1 : State} {p : PartId} {k : ClusterId} {c : CoreId} {j : CopyJob} {x : MxRun} {y : Word} {b : List Byte} {key lat n : Nat} {l : Leaf}

/-! ## A line or a window written (R280) -/

theorem writeChunk_window_bytes (hy : inWindowRegion y = true) (hk : windowKey p c y = some (key, lat)) (hm : MemoryCanonical s) :
    ∃ u, writeChunk s p c j y b = .ok b u ∧ u.fe = s.fe ∧
      ∀ a, u.byte a = if key ≤ a ∧ a < key + b.length then b.getD (a - key) 0 else s.byte a := by
  obtain ⟨hmem, hfe⟩ := windowFilled_keeps (s := s) (p := p) (key := key) (y := y) (b := b)
  refine ⟨_, writeChunk_window hy hk, hfe, fun a => ?_⟩
  rw [State.byte, hmem]
  exact memByte_memWriteBytes b key a hm

theorem writeChunk_line_bytes (hy : inWindowRegion y = false) (hl : jobLeaf j y = some l)
    (h : reachWrite s p l (va57 y) (.copy c j.seq) = .ok s1) (hm : MemoryCanonical s1) :
    ∃ u, writeChunk s p c j y b = .ok b u ∧ u.fe = s1.fe ∧
      ∀ a, u.byte a = if keyMain p (l.phys (va57 y)) ≤ a ∧ a < keyMain p (l.phys (va57 y)) + b.length
        then b.getD (a - keyMain p (l.phys (va57 y))) 0 else s1.byte a := by
  refine ⟨_, (writeChunk_line hy hl).trans (congrArg (lineWritten (keyMain p (l.phys (va57 y))) b) h), rfl, fun a => ?_⟩
  exact byte_writeMemBytes hm _ a b

/-- The status of a copy that failed, where no earlier failure stands in CPYST. -/
theorem cpyst_failNoted {w : CoreWorld} {seq why : Nat} (h : w.cpyst.getLsbD 63 = false) :
    (failNoted w c seq why).cpyst = word (2 ^ 63 + why * 2 ^ 32) ||| word (c.val * 2 ^ 22 + seq % 2 ^ 21) := by
  have hb : bit w.cpyst 63 = false := h
  have hid : jobId false c 0 seq = word (c.val * 2 ^ 22 + seq % 2 ^ 21) := by
    rw [jobId, if_neg Bool.false_ne_true, Nat.zero_mod, Nat.zero_mul, Nat.zero_add, Nat.add_zero]
  rw [failNoted, if_neg (Bool.eq_false_iff.mp hb), hid]

/-! ## What a group leaves in a cell (R78 to R80) -/

/-- What the new value of a cell is, by the semiring, of its value before the group and the group's pairs. -/
def cellSays (sr : Semiring) (new c : BitVec 32) (pairs : List (FVal × FVal)) : Prop :=
  match sr with
  | .plusTimes => new = BitVec.ofNat 32 (Fmt.f32.deliver (sumVal (Fmt.f32.val c.toNat :: pairs.map (fun e => mulVal e.1 e.2)))).bits
  | .minPlus => bestOf false new (Fmt.f32.val c.toNat :: pairs.map (fun e => sumVal [e.1, e.2]))
  | .maxPlus => bestOf true new (Fmt.f32.val c.toNat :: pairs.map (fun e => sumVal [e.1, e.2]))
  | .maxTimes => bestOf true new (Fmt.f32.val c.toNat :: pairs.map (fun e => mulVal e.1 e.2))
  | .orAnd => new = if (Fmt.f32.val c.toNat).isZero = false ∨ pairs.any (fun e => !e.1.isZero && !e.2.isZero) = true then 0x3F800000 else 0

theorem groupCell_says (sr : Semiring) (c : BitVec 32) (pairs : List (FVal × FVal)) : cellSays sr (groupCell sr c pairs) c pairs := by
  cases sr with
  | plusTimes => exact rfl
  | minPlus => exact groupCell_best false (fun e => sumVal [e.1, e.2]) c
  | maxPlus => exact groupCell_best true (fun e => sumVal [e.1, e.2]) c
  | maxTimes => exact groupCell_best true (fun e => mulVal e.1 e.2) c
  | orAnd => exact groupCell_orAnd c

theorem enterGroup_says {as_ bs_ : List (List Elem)}
    (hs : ((s.acc p k (entrySlot x.core x.job.slot)).cells.map (fun e => e.1)).Pairwise (· < ·)) (hc : x.job.b.shape.cols ≤ 64) {r q : Nat}
    (hq : q < 64) (h : r < x.job.a.shape.rows ∧ q < x.job.b.shape.cols) :
    cellSays x.job.sr (cellAt ((enterGroup s p k x as_ bs_).acc p k (entrySlot x.core x.job.slot)).cells (64 * r + q))
      (groupStart x (cellAt (s.acc p k (entrySlot x.core x.job.slot)).cells (64 * r + q))) (groupPairs as_ bs_ r q) := by
  rw [enterGroup_cell hs hc hq, if_pos h]
  exact groupCell_says ..

end

end Sys2Proof.Machine
open Sys2Proof Sys2Proof.Machine

/-- Settles O54: each step of the copy unit and of the matrix engine by the cases of its state; a beat within a line on both sides by what its
read and its write answer, a group by the pairs of each cell's row and column. -/
theorem engineSteps : Obligations.EngineSteps := by
  unfold Obligations.EngineSteps
  intro s s1 p k c j js m x xs slots slot tid corr ctx va pages y b key lat due total n why l s2 as_ bs_ o first neg tile row col depth w
  refine ⟨?_, ?_, ?_, ?_, ?_, ?_, ?_, ?_, ?_, ?_, ?_, ?_, ?_, ?_, ?_, ?_, ?_, ?_⟩
  · intro h v
    refine ⟨fun hd => ?_, fun hd hj => ?_, fun hd hj => ?_⟩
    · exact (copyBeat_due h).trans (congrArg _ (if_pos hd))
    · exact (copyBeat_due h).trans (congrArg _ ((if_neg (Nat.not_lt.mpr hd)).trans (coreBeat_ready hj)))
    · exact (copyBeat_due h).trans (congrArg _ ((if_neg (Nat.not_lt.mpr hd)).trans (coreBeat_rests hj)))
  · exact fun h => ⟨copyBeat_none h, copyBeat_turn h⟩
  · exact fun hy hk => ⟨fun hp lf => readChunk_window hy hk hp lf, fun hp lf => readChunk_windowPoisoned hy hk hp lf,
      writeChunk_window_bytes hy hk⟩
  · intro hy key
    have hr := readChunk_line (s := s) (p := p) (c := c) (j := j) (y := y) (n := n) (l := l) hy
    refine ⟨fun h => ?_, fun h => ?_, fun h => ?_, fun hl => ⟨fun h => ?_, fun h => ?_, fun h hm => ?_⟩⟩
    · rw [hr, h]
      rfl
    · rw [hr, h]
      rfl
    · rw [hr, h]
      rfl
    · rw [writeChunk_line hy hl, h]
      rfl
    · rw [writeChunk_line hy hl, h]
      rfl
    · exact writeChunk_line_bytes hy hl h hm
  · intro hl hp hn h0 from_ to_ hf ht hr hr' u last
    refine ⟨fun h => moveBeat_later ((readBeat_lin hl hn hf hr).trans h), fun h hq => ?_, fun h hw hb hq h8 hx => ?_⟩
    · obtain ⟨hm, hfe, hc, hh⟩ := beat_fails hl hp hn hf hr h hq
      refine ⟨hm, hfe, fun hb => hc.trans ?_, _, hh, rfl, ?_, rfl⟩
      · exact cpyst_failNoted hb
      · rw [jobPassed]
        dsimp only
        rw [jobFailed, hl]
        rfl
    · exact beat_moves hl hp hq hb hn h0 hf ht hr hr' h hw h8 hx
  · exact fun hq => ⟨copyComplete_completes hq, copyComplete_waits hq⟩
  · exact matrixJobPick_busy
  · intro hr hs hn s1 i
    have hh := matrixJobPick_head hr hs hn
    refine ⟨fun hm => ?_, fun hm hd => ?_, fun hm hd => ?_, fun hm hd => ?_⟩
    · rw [hm] at hh
      exact ⟨fun hd => hh.trans (congrArg _ (if_pos hd)), fun hd => hh.trans (congrArg _ (if_neg (Bool.eq_false_iff.mp hd)))⟩
    · rw [hm] at hh
      exact hh.trans (if_neg (Bool.eq_false_iff.mp hd))
    · rw [hm] at hh
      exact hh.trans (if_neg (Bool.eq_false_iff.mp hd))
    · rcases hm with hm | hm <;> rw [hm] at hh <;> exact hh.trans (if_pos hd)
  · intro h ks as bs banks v poisons
    have hg := matrixGroup_run h
    refine ⟨matrixPoison_run h, fun hb => hg.trans (if_pos hb), fun hb hp => ?_, fun hb hp => ?_⟩
    · exact hg.trans ((if_neg (Bool.eq_false_iff.mp hb)).trans (congrArg _ (if_pos hp)))
    · exact hg.trans ((if_neg (Bool.eq_false_iff.mp hb)).trans (congrArg _ (if_neg (Bool.eq_false_iff.mp hp))))
  · intro i cells u hs _ hc
    refine ⟨fun r q _ hq => ⟨fun h => ?_, fun h1 h2 => ?_⟩, enterGroup_goesOn, enterGroup_ends⟩
    · exact (enterGroup_cell hs hc hq).trans (if_neg h)
    · exact enterGroup_says hs hc hq ⟨h1, h2⟩
  · intro h4 bytes at_ v e
    refine ⟨readElem_plain h4, ?_⟩
    intro z hz nb off scale
    have he := readElem_scaled (s := s) (p := p) (k := k) (first := first) (neg := neg) (tile := tile) (row := row) (col := col)
      (depth := depth) h4 hz
    refine ⟨congrArg Elem.v he, congrArg Elem.poisoned he, fun hb => ?_⟩
    obtain ⟨hv, hf⟩ := scaleVal_finite hb
    exact ⟨hv, (congrArg Elem.malformed he).trans hf⟩
  · exact nextCore_tiles
  · exact fun h => ⟨matrixPoison_none h, matrixGroup_none h⟩
  · intro h
    have hh := matrixJobComplete_head h
    refine ⟨fun hd => hh.trans (if_pos hd), ?_⟩
    intro hd i s1 s2 ended
    replace hh := hh.trans (if_neg (Nat.not_lt.mpr hd))
    refine ⟨fun h1 h2 => ?_, fun h1 => ?_, fun h2 => ?_⟩
    · exact hh.trans (congrArg (fun u => Host.Outcome.next (jobEnded u p k x)) ((if_neg h2).trans (if_neg h1)))
    · exact hh.trans (congrArg (fun u => Host.Outcome.next (jobEnded u p k x)) ((if_neg (by rw [h1]; decide)).trans (if_pos h1)))
    · exact hh.trans (congrArg (fun u => Host.Outcome.next (jobEnded u p k x)) (if_pos h2))
  · exact matrixJobComplete_none
  · exact mxstExecute_none
  · intro h hm i stored
    have hh := mxstExecute_head h hm
    refine ⟨fun hw => ?_, fun hw hp => ?_, fun hw hp => ?_⟩
    · rw [hw] at hh
      exact hh
    · rw [hw] at hh
      exact hh.trans (congrArg (fun u => Host.Outcome.next (storeEnded u p k c _ slot)) (if_neg (Bool.eq_false_iff.mp hp)))
    · rw [hw] at hh
      exact hh.trans (congrArg (fun u => Host.Outcome.next (storeEnded u p k c _ slot)) (if_pos hp))
  · refine ⟨_, rfl, mem_reclaimBelow _ 16, fun i hi => ?_⟩
    refine (acc_accrcl slots hi).trans (if_congr Iff.rfl rfl ?_)
    exact slotReclaimed_eq _
end

section
/-! SUPPORT. What the steps that follow the end of a thread leave of a core: its service, its empty landing queue, its slots without a thread, and
the accumulators of the engines (20 R314; 21 R337). -/
namespace Sys2Proof.Machine

/-- What a change leaves of a core: its service, its empty landing queue, its slots without a thread; and every accumulator slot. -/
structure Leaves (p : PartId) (c : CoreId) (s u : State) : Prop where
  failed : (u.core p c).c.failed = (s.core p c).c.failed
  landing : (s.core p c).w.landing = [] → (u.core p c).w.landing = []
  vacant : ∀ sl, s.thread ⟨p, c, sl⟩ = none → u.thread ⟨p, c, sl⟩ = none
  acc : ∀ k i, u.acc p k i = s.acc p k i
  listed : c ∈ (s.part p).coreIds → c ∈ (u.part p).coreIds

/-- A key of a map is still one after another is put there. -/
theorem keys_kput_of {α : Type} {m : KMap α} {k n : Nat} {v : α} (h : n ∈ m.map (fun e => e.1)) : n ∈ (kput m k v).map (fun e => e.1) := by
  obtain ⟨e, he, rfl⟩ := List.mem_map.mp h
  by_cases hk : e.1 = k
  · exact List.mem_map.mpr ⟨(k, v), kput_mem, hk.symm⟩
  · exact List.mem_map.mpr ⟨e, kput_mem_of he (fun h => absurd h hk), rfl⟩

section
variable {p : PartId} {c : CoreId} {s u v : State} {q : PartId} {d : CoreId} {r : TRef}

theorem Leaves.refl : Leaves p c s s := ⟨rfl, id, fun _ h => h, fun _ _ => rfl, id⟩

theorem Leaves.trans (h : Leaves p c s u) (k : Leaves p c u v) : Leaves p c s v :=
  ⟨k.failed.trans h.failed, fun e => k.landing (h.landing e), fun sl e => k.vacant sl (h.vacant sl e), fun i j => (k.acc i j).trans (h.acc i j),
    fun e => k.listed (h.listed e)⟩

theorem Leaves.foldl {α : Type} {f : State → α → State} (h : ∀ s a, Leaves p c s (f s a)) (l : List α) (s : State) :
    Leaves p c s (l.foldl f s) := by
  induction l generalizing s with
  | nil => exact .refl
  | cons a l ih => exact (h s a).trans (ih _)

/-! ## The changes of the parts of a state -/

theorem leaves_of_parts (h : u.parts = s.parts) : Leaves p c s u := by
  have hp : ∀ q, u.part q = s.part q := fun q => by rw [State.part, h, State.part]
  have hc : u.core p c = s.core p c := by rw [State.core, hp, State.core]
  exact ⟨by rw [hc], fun e => by rw [hc]; exact e, fun sl e => (State.thread_congr h _).trans e, fun k i => by
    rw [State.acc, State.cluster, hp, State.acc, State.cluster], fun e => by rw [hp]; exact e⟩

theorem leaves_modPart {f : Partition → Partition} (h : ((f (s.part q)).cores, (f (s.part q)).idleCore, (f (s.part q)).clusters) =
    ((s.part q).cores, (s.part q).idleCore, (s.part q).clusters)) : Leaves p c s (s.modPart q f) := by
  simp only [Prod.mk.injEq] at h
  obtain ⟨hs, hi, hk⟩ := h
  have hc : ∀ d, (f (s.part q)).core d = (s.part q).core d := fun d => by rw [Partition.core, hs, hi, Partition.core]
  have h := State.core_modPart_of s q f hc p c
  refine ⟨by rw [h], fun e => by rw [h]; exact e, fun sl e => (State.thread_modPart_of s q f hc _).trans e, fun k i => by
    rw [State.acc, State.cluster_modPart_of s q f hk, State.acc], fun e => ?_⟩
  by_cases hq : p = q
  · subst hq
    rw [State.part_modPart, Partition.coreIds, hs]
    exact e
  · rw [State.part_modPart_ne _ _ hq]
    exact e

/-- A core written is listed, and those that were listed still are. -/
theorem listed_setCore {k : Core} (h : c ∈ (s.part p).coreIds) : c ∈ ((s.setCore q d k).part p).coreIds := by
  by_cases hq : p = q
  · subst hq
    rw [State.setCore, State.part_modPart, mem_coreIds]
    exact keys_kput_of (mem_coreIds.mp h)
  · rw [State.setCore, State.part_modPart_ne _ _ hq]
    exact h

theorem leaves_modCoreC {f : CoreFixed → CoreFixed} (h : (f (s.core q d).c).failed = (s.core q d).c.failed) :
    Leaves p c s (s.modCoreC q d f) := by
  have hk : ((s.modCoreC q d f).core p c).c.failed = (s.core p c).c.failed ∧ ((s.modCoreC q d f).core p c).w = (s.core p c).w := by
    by_cases hd : p = q ∧ c = d
    · obtain ⟨rfl, rfl⟩ := hd
      rw [State.core_modCoreC]
      exact ⟨h, rfl⟩
    · rw [State.modCoreC, State.core_setCore_ne _ _ (not_and_or.mp hd)]
      exact ⟨rfl, rfl⟩
  exact ⟨hk.1, fun e => by rw [hk.2]; exact e, fun sl e => (State.thread_modCoreC ..).trans e, fun k i => by
    rw [State.acc, State.cluster_modCoreC, State.acc], listed_setCore⟩

/-- A change of a core's world that gives no slot a thread. -/
theorem leaves_modCoreW {f : CoreWorld → CoreWorld} (hl : (s.core q d).w.landing = [] → (f (s.core q d).w).landing = [])
    (hs : ∀ i, (kget (s.core q d).w.slots i).bind Slot.thread? = none → (kget (f (s.core q d).w).slots i).bind Slot.thread? = none) :
    Leaves p c s (s.modCoreW q d f) := by
  have ha : ∀ k i, (s.modCoreW q d f).acc p k i = s.acc p k i := fun k i => by rw [State.acc, State.cluster_modCoreW, State.acc]
  by_cases hd : p = q ∧ c = d
  · obtain ⟨rfl, rfl⟩ := hd
    have hw : ((s.modCoreW p c f).core p c).w = f (s.core p c).w := by rw [State.core_modCoreW]
    refine ⟨by rw [State.core_modCoreW], fun e => by rw [hw]; exact hl e, fun sl e => ?_, ha, listed_setCore⟩
    rw [State.thread_eq, State.slot] at e ⊢
    dsimp only at e ⊢
    rw [hw]
    exact hs _ e
  · have h : (s.modCoreW q d f).core p c = s.core p c := by
      rw [State.modCoreW, State.core_setCore_ne _ _ (not_and_or.mp hd)]
    refine ⟨by rw [h], fun e => by rw [h]; exact e, fun sl e => ?_, ha, listed_setCore⟩
    rw [State.thread_eq, State.slot] at e ⊢
    dsimp only at e ⊢
    rw [h]
    exact e

/-- A change of a core's world beside its slots and its landing queue. -/
theorem leaves_besideSlots {f : CoreWorld → CoreWorld}
    (h : ((f (s.core q d).w).landing, (f (s.core q d).w).slots) = ((s.core q d).w.landing, (s.core q d).w.slots)) :
    Leaves p c s (s.modCoreW q d f) := by
  obtain ⟨hl, hs⟩ := Prod.mk.inj h
  exact leaves_modCoreW (fun e => hl.trans e) fun i h => by rw [hs]; exact h

theorem leaves_setSlot {x : Slot} (h : x.thread? = none ∨ s.thread r ≠ none) : Leaves p c s (s.setSlot r x) := by
  refine leaves_modCoreW id fun i e => ?_
  dsimp only
  by_cases hi : i = r.slot.val
  · subst hi
    rw [kget_kput_same, Option.bind_some]
    refine h.resolve_right fun hn => hn ?_
    rw [State.thread_eq, State.slot]
    exact e
  · rw [kget_kput_ne _ _ hi]
    exact e

theorem leaves_setThread {t : Thread} (h : s.thread r ≠ none) : Leaves p c s (s.setThread r t) := leaves_setSlot (Or.inr h)

theorem leaves_modThread {f : Thread → Thread} : Leaves p c s (s.modThread r f) := by
  rw [State.modThread]
  cases h : s.thread r with
  | none => exact .refl
  | some t => exact leaves_setThread (by rw [h]; exact Option.some_ne_none t)

/-- A change of the slots of a core, each by itself, that makes no thread. -/
theorem leaves_mapSlots {f : Slot → Slot} (h : ∀ x : Slot, x.thread? = none → (f x).thread? = none) (i : Nat) (l : KMap Slot)
    (e : (kget l i).bind Slot.thread? = none) : (kget (kmapVals (fun _ x => f x) l) i).bind Slot.thread? = none := by
  rw [kget_kmapVals]
  cases hk : kget l i with
  | none => rfl
  | some x =>
    rw [hk] at e
    exact h x e

theorem Leaves.ite {b : Prop} [Decidable b] (h : Leaves p c s u) (k : Leaves p c s v) : Leaves p c s (if b then u else v) := by
  split
  · exact h
  · exact k

/-! ## Events, counters and trace -/

theorem leaves_push {i : Instr} : Leaves p c s (s.push i) := leaves_of_parts (by rfl)
theorem leaves_after {n : Nat} {i : Instr} : Leaves p c s (s.after n i) := leaves_of_parts (by rfl)
theorem leaves_hwSet {x : SysReg} {b : Nat} : Leaves p c s (s.hwSet q d x b) := leaves_of_parts (by rfl)
theorem leaves_mtsSet {x : SysReg} {w : Word} : Leaves p c s (s.mtsSet q d x w) := leaves_of_parts (by rfl)

theorem leaves_noteWrap {i : Fin 4} : Leaves p c s (noteWrap s q d i) :=
  (Leaves.trans (leaves_besideSlots (by rfl)) leaves_hwSet).trans (.ite (leaves_modCoreC (by rfl)) .refl)

theorem leaves_countReg {n : Nat} {i : Fin 4} : Leaves p c s (countReg s q d n i) := by
  rw [countReg]
  cases s.mtsWas q d (.pcnt i) with
  | none => exact .trans (leaves_besideSlots (by rfl)) (.ite leaves_noteWrap .refl)
  | some x => exact leaves_mtsSet.trans (.ite leaves_noteWrap .refl)

theorem leaves_count {code n : Nat} {sl : Option SlotId} : Leaves p c s (s.count q d code sl n) :=
  .ite (Leaves.foldl (fun _ _ => leaves_countReg) _ s) .refl

theorem leaves_traceCond {n : Nat} : Leaves p c s (s.traceCond q d n) := .ite (leaves_modCoreC (by rfl)) .refl
theorem leaves_traceSlotCond {n : Nat} : Leaves p c s (s.traceSlotCond r n) := .ite leaves_traceCond .refl
theorem leaves_traceRec {k : Nat} {pc : Word} {corr : BitVec 32} : Leaves p c s (s.traceRec r k pc corr) :=
  .ite (leaves_modCoreC (by rfl)) .refl

theorem leaves_faultEvents {t : Thread} : Leaves p c s (faultEvents s r t) :=
  (leaves_count.trans leaves_traceSlotCond).trans leaves_traceRec

/-! ## The taster's log -/

theorem leaves_wholeWords {k n : Nat} : Leaves p c s (s.wholeWords k n) :=
  Leaves.foldl (f := fun s i => s.unpoisonWord (((k + 7) / 8 + i) * 8)) (fun _ _ => (leaves_of_parts (by rfl))) _ s

theorem leaves_logAppend {ws : List Nat} : Leaves p c s (logAppend s q d ws) := by
  rw [logAppend]
  exact .trans (.trans (leaves_of_parts (by rfl)) leaves_wholeWords) (leaves_besideSlots (by rfl))

theorem leaves_logRecord {sl : SlotId} {type info : Nat} {l : List Nat} : Leaves p c s (logRecord s q d sl type info l) := by
  rw [logRecord]
  exact .ite .refl (.trans (.ite (.trans leaves_logAppend (leaves_besideSlots (by rfl))) .refl) leaves_logAppend)

theorem leaves_setStamp {line : Nat} {st : Option Stamp} : Leaves p c s (s.setStamp q line st) := leaves_modPart (by rfl)

theorem leaves_logMark {k : Nat} {x : Option Word} : Leaves p c s (logMark s r k x) := by
  rw [logMark]
  exact .ite leaves_logRecord .refl

/-! ## Trap records and traps -/

/-- A change of each slot of a core that makes no thread, beside other changes of its world. -/
theorem leaves_mapped {f : CoreWorld → CoreWorld} {g : Slot → Slot} (hl : ∀ w, w.landing = [] → (f w).landing = [])
    (hf : ∀ w, (f w).slots = kmapVals (fun _ x => g x) w.slots) (hg : ∀ x : Slot, x.thread? = none → (g x).thread? = none) :
    Leaves p c s (s.modCoreW q d f) :=
  leaves_modCoreW (hl _) fun i h => by rw [hf]; exact leaves_mapSlots hg i _ h

theorem leaves_modThreads {f : Thread → Thread} : Leaves p c s (s.modThreads q f) := by
  refine Leaves.foldl (fun u d => leaves_mapped (g := mapSlot f) (fun w e => ?_) (fun _ => rfl) fun x e => ?_) _ s
  · dsimp only
    rw [e]
    rfl
  · rw [mapSlot_thread, e]
    rfl

theorem leaves_enqueueRecord {x : TrapRec} : Leaves p c s (enqueueRecord s q x) := leaves_modPart (by rfl)

theorem leaves_dumpStart {x : TrapRec} : Leaves p c s (dumpStart s q x) := by
  rw [dumpStart]
  exact .ite (leaves_modThreads.trans (.ite (leaves_modPart (by rfl)) (.ite (.ite (.trans (leaves_modPart (by rfl)) leaves_push) (leaves_modPart (by rfl))) leaves_enqueueRecord)))
    .refl

theorem leaves_postRecord {x : TrapRec} : Leaves p c s (postRecord s q x) := leaves_enqueueRecord.trans leaves_dumpStart

theorem faultEvents_thread (s : State) (r : TRef) (t : Thread) (r' : TRef) : (faultEvents s r t).thread r' = s.thread r' := by
  have h : ∀ u : State, (u.traceSlotCond r 4).thread r' = u.thread r' := fun u => by
    rw [State.traceSlotCond]
    split
    · exact State.traceCond_thread ..
    · rfl
  rw [faultEvents, State.traceRec]
  split
  · rw [State.thread_modCoreC, h, State.count_thread]
  · rw [h, State.count_thread]

theorem trapNoted_thread (s : State) (r : TRef) (t : Thread) (k : Cause) (r' : TRef) : (trapNoted s r t k).thread r' = s.thread r' := by
  unfold trapNoted
  split
  · split
    · rw [State.traceCond_thread, faultEvents_thread]
    · exact faultEvents_thread ..
  · exact faultEvents_thread ..

theorem leaves_takeTrap {k : Cause} {ea : Option Word} : Leaves p c s (takeTrap s r k ea) := by
  cases ht : s.thread r with
  | none =>
    rw [takeTrap, ht]
    exact .refl
  | some t =>
    have hn : Leaves p c s (trapNoted s r t k) := by
      unfold trapNoted
      split
      · exact .ite (leaves_faultEvents.trans leaves_traceCond) leaves_faultEvents
      · exact leaves_faultEvents
    have ht' : (trapNoted s r t k).thread r ≠ none := by
      rw [trapNoted_thread, ht]
      exact Option.some_ne_none t
    rw [takeTrap_eq ht]
    exact .ite ((hn.trans (leaves_setThread ht')).trans leaves_postRecord) ((hn.trans (leaves_setThread ht')).trans leaves_logMark)

theorem leaves_fatalPark {x : TrapRec} : Leaves p c s (fatalPark s r x) := by
  rw [fatalPark]
  cases ht : s.thread r with
  | none => exact .refl
  | some t => exact (leaves_setThread (by rw [ht]; exact Option.some_ne_none t)).trans leaves_postRecord

/-! ## Caches and the steep protocol -/

theorem leaves_modSl {line : Nat} {f : SliceLine → SliceLine} : Leaves p c s (s.modSl q line f) := leaves_modPart (by rfl)
theorem leaves_dropSl {line : Nat} : Leaves p c s (s.dropSl q line) := leaves_modPart (by rfl)
theorem leaves_dirtySlice {line : Nat} : Leaves p c s (s.dirtySlice q line) := leaves_modSl
theorem leaves_modL1 {line : Nat} {f : L1Line → L1Line} : Leaves p c s (s.modL1 q d line f) := leaves_modCoreC (by rfl)

theorem leaves_writeBack {line : Nat} : Leaves p c s (s.writeBack q d line) := by
  rw [State.writeBack]
  cases s.l1 q d line with
  | none => exact .refl
  | some l => exact .ite .refl (leaves_dirtySlice.trans leaves_modL1)

theorem leaves_loseCopy {line : Nat} : Leaves p c s (s.loseCopy q d line) := .trans (.trans leaves_writeBack (leaves_modCoreC (by rfl))) leaves_modSl

theorem leaves_invalidateAll {line : Nat} {keep : Option CoreId} : Leaves p c s (s.invalidateAll q line keep) :=
  Leaves.foldl (f := fun s c => s.loseCopy q c line) (fun _ _ => leaves_loseCopy) _ s

theorem leaves_modHome {line : Nat} {f : SteepHome → SteepHome} : Leaves p c s (s.modHome q line f) := leaves_modPart (by rfl)
theorem leaves_homeAdd {line : Nat} {b : Bool} {x : BitVec 1024} : Leaves p c s (s.homeAdd q d line b x) := leaves_modHome
theorem leaves_returnShare {line : Nat} {x : BitVec 32} : Leaves p c s (s.returnShare q d line x) := leaves_modHome
theorem leaves_dropHolder {line : Nat} : Leaves p c s (s.dropHolder q d line) := leaves_modCoreC (by rfl)
theorem leaves_modHolder {line : Nat} {f : Holder → Holder} : Leaves p c s (s.modHolder q d line f) := leaves_modCoreC (by rfl)

theorem leaves_writeLine {k : Nat} {x : BitVec 1024} : Leaves p c s (s.writeLine k x) := by
  have h : (s.writeLine k x).parts = s.parts := by rw [State.writeLine]
  exact leaves_of_parts h

theorem leaves_combineThese {line : Nat} {sel : Bool → Bool} : Leaves p c s (s.combineThese q line sel) := by
  rw [State.combineThese]
  cases s.steepHome q line with
  | none => exact .refl
  | some x => exact .ite .refl (.trans (.trans (leaves_invalidateAll.trans leaves_dirtySlice) leaves_writeLine) leaves_modHome)

theorem leaves_combine {line : Nat} : Leaves p c s (s.combine q line) := leaves_combineThese.trans leaves_combineThese

theorem leaves_answerLoad {line : Nat} : Leaves p c s (s.answerLoad q line) := by
  rw [State.answerLoad]
  cases s.steepHome q line with
  | none => exact .refl
  | some x =>
    dsimp only
    cases x.load with
    | none => exact .refl
    | some y =>
      have h : Leaves p c s ((s.combine q line).modHome q line fun x => { x with load := none, forcing := [] }) :=
        leaves_combine.trans leaves_modHome
      dsimp only
      split
      · exact .ite (h.trans leaves_push) h
      · exact h

theorem leaves_idleHome {line : Nat} : Leaves p c s (s.idleHome q line) := by
  rw [State.idleHome]
  cases s.steepHome q line with
  | none => exact .refl
  | some x => exact .ite (leaves_modPart (by rfl)) .refl

theorem leaves_releaseHome {line : Nat} : Leaves p c s (s.releaseHome q line) := by
  rw [State.releaseHome]
  cases s.steepHome q line with
  | none => exact .refl
  | some x => exact .ite (leaves_modHome.trans (.trans (leaves_of_parts (by rfl)) leaves_idleHome)) .refl

theorem leaves_answered {line : Nat} : Leaves p c s (answered s q d line) := by
  rw [answered]
  cases s.steepHome q line with
  | none => exact .refl
  | some x => exact (Leaves.trans (.trans (leaves_of_parts (by rfl)) leaves_modHome) (.ite leaves_answerLoad .refl)).trans leaves_releaseHome

theorem leaves_answerHolder {line : Nat} {i : Instr} : Leaves p c s (answerHolder s q line i) := by
  rw [answerHolder]
  cases s.steepHome q line with
  | none => exact leaves_push
  | some x => exact .ite leaves_modHome leaves_push

theorem leaves_takePour {line dom : Nat} {x : BitVec 1024} {a b : Bool} : Leaves p c s (takePour s q d line dom x a b) := by
  rw [takePour]
  dsimp only
  cases (s.homeAdd q d line a x).steepHome q line with
  | none => exact leaves_homeAdd
  | some y => exact leaves_homeAdd.trans (leaves_modHome.trans leaves_answerHolder)

theorem leaves_takeFpd {line : Nat} {x : BitVec 1024} {a : Bool} : Leaves p c s (takeFpd s q d line x a) :=
  leaves_homeAdd.trans leaves_answered

theorem leaves_takeSret {line : Nat} {x : BitVec 1024} {a : Bool} {y : BitVec 32} : Leaves p c s (takeSret s q d line x a y) :=
  ((leaves_homeAdd.trans leaves_combine).trans leaves_returnShare).trans leaves_answered

theorem leaves_takeMessage {i : Instr} : Leaves p c s (takeMessage s i) := by
  unfold takeMessage
  split
  · exact leaves_takePour
  · exact leaves_takeFpd
  · exact leaves_takeSret
  · exact .refl

theorem leaves_absorb {line : Nat} : Leaves p c s (s.absorb q line) :=
  .trans (leaves_of_parts (by rfl)) (Leaves.foldl (f := takeMessage) (fun _ _ => leaves_takeMessage) _ _)

theorem leaves_forceHolder {line : Nat} : Leaves p c s (forceHolder s q d line) := by
  rw [forceHolder]
  cases s.holder q d line with
  | none => exact .refl
  | some x => exact leaves_homeAdd.trans leaves_modHolder

theorem leaves_finishLoad {line : Nat} : Leaves p c s (s.finishLoad q line) := by
  rw [State.finishLoad]
  cases (s.absorb q line).steepHome q line with
  | none => exact leaves_absorb
  | some x => exact .ite (leaves_absorb.trans (Leaves.foldl (f := fun s h => answered (forceHolder s q h line) q h line)
      (fun _ _ => leaves_forceHolder.trans leaves_answered) _ _)) leaves_absorb

theorem leaves_surrender {line : Nat} : Leaves p c s (s.surrender q d line) := by
  rw [State.surrender]
  cases s.holder q d line with
  | none => exact leaves_returnShare
  | some x => exact (leaves_homeAdd.trans leaves_returnShare).trans leaves_dropHolder

theorem leaves_revokeAll {line : Nat} : Leaves p c s (s.revokeAll q line) := by
  rw [State.revokeAll]
  cases s.steepHome q line with
  | none => exact .refl
  | some x =>
    exact (Leaves.trans (.trans (.trans leaves_finishLoad (leaves_of_parts (by rfl)))
      (Leaves.foldl (f := fun s h => s.surrender q h line) (fun _ _ => leaves_surrender) _ _))
      (leaves_combine.trans leaves_modHome)).trans leaves_releaseHome

end
end Sys2Proof.Machine
end

section
/-! SUPPORT. What kills leave of a core: reservations and lists that threads leave, and the threads killed (20 R314; 21 R337). -/
namespace Sys2Proof.Machine

section
variable {p : PartId} {c : CoreId} {s u v : State} {q : PartId} {d : CoreId} {r : TRef}

theorem leaves_pushAll {l : List Instr} : Leaves p c s (s.pushAll l) := leaves_of_parts (by rfl)

/-! ## Reads at a home -/

theorem leaves_disarm : Leaves p c s (disarm s q) := .ite .refl (leaves_modPart (by rfl))

theorem leaves_loseLine {l : SliceLine} {corr : BitVec 32} : Leaves p c s (loseLine s q l corr) := by
  rw [loseLine]
  exact .trans (.trans (.trans (leaves_revokeAll.trans leaves_invalidateAll) leaves_dropSl) (leaves_of_parts (by rfl))) leaves_postRecord

theorem leaves_retirePage {l : SliceLine} : Leaves p c s (retirePage s q l) := by
  rw [retirePage]
  have h : Leaves p c s ((s.part q).coreIds.foldl (fun s d => s.modCoreC q d (fun k => { k with
      plb := k.plb.filter (fun e => !e.leaf.covers (l.line * 128)) })) s) := Leaves.foldl (fun _ _ => (leaves_modCoreC (by rfl))) _ s
  exact (h.trans (.trans (leaves_modPart (by rfl)) leaves_pushAll)).trans leaves_postRecord

theorem leaves_quarantine {l : SliceLine} : Leaves p c s (quarantine s q l) := by
  rw [quarantine]
  exact .ite (leaves_modPart (by rfl)) (.ite (leaves_modPart (by rfl)) (.ite leaves_retirePage .refl))

theorem leaves_sliceEvict {line : Nat} : Leaves p c s (sliceEvict s q line) := by
  have h : Leaves p c s ((s.revokeAll q line).invalidateAll q line none) := leaves_revokeAll.trans leaves_invalidateAll
  rw [sliceEvict]
  cases ((s.revokeAll q line).invalidateAll q line none).sl q line with
  | none => exact h
  | some l => exact .ite (h.trans (.trans (leaves_disarm.trans leaves_quarantine) leaves_loseLine)) (h.trans leaves_dropSl)

theorem leaves_chooseWay {line w : Nat} (h : chooseWay s q line = some (w, u)) : Leaves p c s u := by
  rw [chooseWay] at h
  cases hf : s.freeWay q line with
  | some w' =>
    rw [hf] at h
    obtain ⟨-, rfl⟩ := Prod.mk.inj (Option.some.inj h)
    exact .refl
  | none =>
    rw [hf] at h
    dsimp only at h
    split at h
    · split at h
      · split at h
        · obtain ⟨w', -, e⟩ := Option.map_eq_some_iff.mp h
          obtain ⟨-, rfl⟩ := Prod.mk.inj e
          exact leaves_sliceEvict
        · obtain ⟨-, rfl⟩ := Prod.mk.inj (Option.some.inj h)
          exact leaves_sliceEvict
      · cases h
    · cases h

theorem leaves_l2Error {line : Nat} {corr : BitVec 32} : Leaves p c s (l2Error s q line corr) := by
  rw [l2Error]
  cases s.sl q line with
  | none => exact .refl
  | some l =>
    refine .ite (leaves_quarantine.trans leaves_loseLine) ?_
    have h : Leaves p c s ((quarantine s q l).modPart q (fun q => { q with corrected := q.corrected + 1 })) :=
      leaves_quarantine.trans (leaves_modPart (by rfl))
    dsimp only
    split
    · next w u hw => exact h.trans ((leaves_chooseWay hw).trans leaves_modSl)
    · exact .ite (h.trans leaves_sliceEvict) h

theorem leaves_readHome {key : Nat} {corr : BitVec 32} : Leaves p c s (readHome s q key corr) := by
  rw [readHome]
  cases lineAt s q key with
  | none => exact .refl
  | some l => exact .ite (leaves_disarm.trans leaves_l2Error) .refl

/-! ## Reservations -/

theorem leaves_resvRead {w : Waiter} : Leaves p c s (resvRead s q w) := by
  rw [resvRead]
  cases lineAt s q w.key with
  | none => exact leaves_readHome
  | some l => exact (leaves_revokeAll.trans leaves_invalidateAll).trans leaves_readHome

theorem leaves_replyThread {tid : Nat} {x : Option Word} : Leaves p c s (replyThread s r tid x) := by
  rw [replyThread]
  refine .ite leaves_push ?_
  cases worldHolding (s.part r.part) r.core r.slot tid with
  | none => exact .refl
  | some k => exact leaves_modPart (by rfl)

theorem leaves_stampPend {x : Option Stamp} : Leaves p c s (stampPend s r x) := by
  cases x with
  | none => exact .refl
  | some st => exact leaves_modThread

theorem leaves_grantNext {line : Nat} (l : List Waiter) : ∀ s, Leaves p c s (grantNext q line l s) := by
  induction l with
  | nil => exact fun s => leaves_modPart (by rfl)
  | cons w rest ih =>
    intro s
    have h : Leaves p c s (resvRead (s.modPart q (fun q => { q with resv := kput q.resv line (w :: rest) })) q w) :=
      .trans (leaves_modPart (by rfl)) leaves_resvRead
    rw [grantNext]
    refine .ite ?_ (h.trans (leaves_stampPend.trans leaves_replyThread))
    split
    · next t ht =>
      have hw : (resvRead (s.modPart q (fun q => { q with resv := kput q.resv line (w :: rest) })) q w).thread w.who ≠ none := by
        intro e
        rw [waiterThread, e] at ht
        cases ht
      exact (h.trans ((leaves_setThread hw).trans leaves_takeTrap)).trans (ih _)
    · exact h.trans (ih _)

theorem leaves_retryLrw {line : Nat} : Leaves p c s (retryLrw s q line) := .ite leaves_push .refl

theorem leaves_leaveResv {tid : Nat} {x : Option Nat} : Leaves p c s (leaveResv s q tid x) := by
  cases x with
  | none => exact .refl
  | some line =>
    rw [leaveResv]
    have h : Leaves p c s (s.modPart q (fun q => { q with lrwFull := q.lrwFull.filter (fun w => w.tid != tid) })) := leaves_modPart (by rfl)
    split
    · refine .ite (h.trans ?_) (h.trans (.trans (leaves_modPart (by rfl)) leaves_retryLrw))
      exact (leaves_grantNext _ _).trans leaves_retryLrw
    · exact h

/-! ## Lists and queues that a killed thread leaves -/

theorem leaves_feForget {tid : Nat} : Leaves p c s (feForget s q tid) :=
  Leaves.foldl (f := fun u q' => u.modPart q' (fun x => { x with fe := feDrop x.fe (feOf s.modid q tid (q' == q)) }))
    (fun _ _ => (leaves_modPart (by rfl))) _ s

theorem leaves_leaveBars {tid : Nat} : Leaves p c s (leaveBars s q tid) := leaves_modPart (by rfl)
theorem leaves_endStreams {tid : Nat} : Leaves p c s (endStreams s q d tid) := leaves_besideSlots (by rfl)
theorem leaves_freedTid {tid : Nat} : Leaves p c s (freedTid s q tid) := leaves_modPart (by rfl)

theorem leaves_dropThreadAddms {tid : Nat} : Leaves p c s (dropThreadAddms s q d tid) := by
  rw [dropThreadAddms]
  have h : Leaves p c s (s.modCoreW q d (fun w => dropAddms w tid)) := leaves_besideSlots (by rfl)
  exact .ite (h.trans leaves_push) h

theorem leaves_sendDelivery {m : BitVec 16} {x : Delivery} : Leaves p c s (sendDelivery s m x) := .ite leaves_after (leaves_of_parts (by rfl))

theorem leaves_serverReply {t : Thread} {b : Bool} : Leaves p c s (serverReply s t b) := by
  rw [serverReply]
  cases t.serves with
  | none => exact .refl
  | some m =>
    dsimp only
    cases m.reply with
    | none => exact .refl
    | some x => exact leaves_sendDelivery

theorem leaves_recordEnded {x : Option Nat} : Leaves p c s (recordEnded s q x) := by
  cases x with
  | none => exact .refl
  | some id =>
    rw [recordEnded]
    have h : Leaves p c s (s.modPart q (fun q => { q with
      launches := q.launches.map (fun x => if x.id = id then { x with ended := x.ended + 1 } else x) })) := leaves_modPart (by rfl)
    exact .ite (h.trans leaves_push) h

theorem leaves_releaseDset {n : Nat} : Leaves p c s (releaseDset s q n) := by
  rw [releaseDset]
  exact .ite .refl (.trans (leaves_modPart (by rfl)) leaves_push)

/-! ## Kills -/

/-- What kills leave of a failed core: they make no thread there, and change no accumulator slot that has jobs under way. -/
structure Kills (p : PartId) (c : CoreId) (s u : State) : Prop where
  failed : (u.core p c).c.failed = (s.core p c).c.failed
  landing : (s.core p c).w.landing = [] → (u.core p c).w.landing = []
  vacant : ∀ sl, s.thread ⟨p, c, sl⟩ = none → u.thread ⟨p, c, sl⟩ = none
  busy : ∀ k i, (s.acc p k i).pend ≠ 0 → u.acc p k i = s.acc p k i

theorem Leaves.kills (h : Leaves p c s u) : Kills p c s u := ⟨h.failed, h.landing, h.vacant, fun k i _ => h.acc k i⟩

theorem Kills.trans (h : Kills p c s u) (k : Kills p c u v) : Kills p c s v :=
  ⟨k.failed.trans h.failed, fun e => k.landing (h.landing e), fun sl e => k.vacant sl (h.vacant sl e), fun i j e =>
    (k.busy i j (by rw [h.busy i j e]; exact e)).trans (h.busy i j e)⟩

/-- A slot after a change to those that a thread has tagged. -/
theorem acc_modTagged {tid : Nat} {f : AccSlot → AccSlot} (k : ClusterId) (i : Nat) :
    (modTagged s p tid f).acc p k i = s.acc p k i ∨ (modTagged s p tid f).acc p k i = f (s.acc p k i) := by
  have hc : (modTagged s p tid f).cluster p k = ((kget (s.part p).clusters k.val).map (fun x => x.modTagged tid f)).getD Cluster.reset := by
    rw [State.cluster, modTagged, State.part_modPart, Partition.cluster]
    dsimp only
    rw [kget_kmapVals]
  rw [State.acc, hc, State.acc, State.cluster, Partition.cluster]
  cases kget (s.part p).clusters k.val with
  | none => exact Or.inl rfl
  | some x =>
    rw [Option.map_some, Option.getD_some, Option.getD_some, accOf, accOf, Cluster.modTagged]
    dsimp only
    rw [kget_kmapVals]
    cases kget x.w.acc i with
    | none => exact Or.inl rfl
    | some a =>
      rw [Option.map_some, Option.getD_some, Option.getD_some]
      split
      · exact Or.inr rfl
      · exact Or.inl rfl

theorem kills_modTagged {tid : Nat} : Kills p c s (modTagged s p tid (orphanKilled true)) := by
  have hc := State.core_modPart_of s p (fun q => { q with
    clusters := kmapVals (fun _ (k : Cluster) => k.modTagged tid (orphanKilled true)) q.clusters }) (fun _ => rfl) p c
  have ht := State.thread_modPart_of s p (fun q => { q with
    clusters := kmapVals (fun _ (k : Cluster) => k.modTagged tid (orphanKilled true)) q.clusters }) (fun _ => rfl)
  refine ⟨congrArg (fun x : Core => x.c.failed) hc, fun e => (congrArg (fun x : Core => x.w.landing) hc).trans e, fun sl e => (ht _).trans e,
    fun k i e => ?_⟩
  rcases acc_modTagged (s := s) (p := p) (tid := tid) (f := orphanKilled true) k i with h | h
  · exact h
  · rw [h, orphanKilled, Bool.true_and, if_pos (bne_iff_ne.mpr e)]

/-- A thread to be killed has left reservations, lists, streams, inbox and steep queue. -/
def heldLeft (s : State) (r : TRef) (t : Thread) : State :=
  dropThreadAddms ((endStreams (leaveBars (leaveResv (feForget (if (s.core r.part r.core).c.failed then s else logMark s r 6 none)
    r.part t.tid) r.part t.tid t.resv) r.part t.tid) r.part r.core t.tid).modCoreW r.part r.core (fun w =>
    { w with inbox := w.inbox.filter (fun m => m.tid != t.tid) })) r.part r.core t.tid

/-- A state without the steps due for a thread alone. -/
def withoutSteps (s : State) (r : TRef) : State :=
  { s with events := s.events.filter (fun i => !forThread r i), timers := s.timers.filter (fun e => !forThread r e.2) }

theorem killHeld_eq (s : State) (r : TRef) (t : Thread) : killHeld s r t =
    releaseDset (recordEnded (((withoutSteps (serverReply (modTagged (heldLeft s r t) r.part t.tid
      (orphanKilled ((heldLeft s r t).core r.part r.core).c.failed)) t true) r).setSlot r (.scrub t.tid)).after 16 (.scrubComplete r))
      r.part t.launch) r.part t.dset := rfl

theorem leaves_heldLeft {t : Thread} : Leaves p c s (heldLeft s r t) := by
  rw [heldLeft]
  have h : Leaves p c s (if (s.core r.part r.core).c.failed then s else logMark s r 6 none) := .ite .refl leaves_logMark
  exact ((h.trans ((leaves_feForget.trans leaves_leaveResv).trans leaves_leaveBars)).trans leaves_endStreams).trans
    (.trans (leaves_besideSlots (by rfl)) leaves_dropThreadAddms)

theorem killHeld_kills {sl : SlotId} {t : Thread} (hf : (s.core p c).c.failed = true) : Kills p c s (killHeld s ⟨p, c, sl⟩ t) ∧
    (killHeld s ⟨p, c, sl⟩ t).thread ⟨p, c, sl⟩ = none := by
  have hl : Leaves p c s (heldLeft s ⟨p, c, sl⟩ t) := leaves_heldLeft
  have hk : Kills p c s (modTagged (heldLeft s ⟨p, c, sl⟩ t) p t.tid (orphanKilled true)) := hl.kills.trans kills_modTagged
  rw [killHeld_eq]
  dsimp only
  rw [hl.failed, hf]
  generalize modTagged (heldLeft s ⟨p, c, sl⟩ t) p t.tid (orphanKilled true) = x at hk
  have hx : Leaves p c x (withoutSteps (serverReply x t true) ⟨p, c, sl⟩) := leaves_serverReply.trans (leaves_of_parts (by rfl))
  have hy : ∀ y : State, Leaves p c y (releaseDset (recordEnded (y.after 16 (.scrubComplete ⟨p, c, sl⟩)) p t.launch) p t.dset) := fun y =>
    (leaves_after.trans leaves_recordEnded).trans leaves_releaseDset
  refine ⟨hk.trans ((hx.trans (leaves_setSlot (Or.inl rfl))).trans (hy _)).kills, (hy _).vacant _ ?_⟩
  rw [State.thread_eq, State.slot_setSlot]
  rfl

theorem killThread_kills {sl : SlotId} (hf : (s.core p c).c.failed = true) : Kills p c s (killThread s ⟨p, c, sl⟩) ∧
    (killThread s ⟨p, c, sl⟩).thread ⟨p, c, sl⟩ = none := by
  rw [killThread]
  split
  · exact killHeld_kills hf
  · exact killHeld_kills hf
  · next h1 h2 =>
    refine ⟨Leaves.refl.kills, ?_⟩
    rw [State.thread_eq]
    cases hs : s.slot ⟨p, c, sl⟩ with
    | none => rfl
    | some x =>
      cases x with
      | thread t => exact absurd hs (h1 t)
      | reserved t => rfl
      | scrub n => rfl
      | freed => rfl

/-- The kills of some threads of a failed core: none of them is left. -/
theorem killThreads_kills (l : List TRef) : ∀ s : State, (∀ r ∈ l, r.part = p ∧ r.core = c) → (s.core p c).c.failed = true →
    Kills p c s (l.foldl killThread s) ∧ ∀ sl, ⟨p, c, sl⟩ ∈ l → (l.foldl killThread s).thread ⟨p, c, sl⟩ = none := by
  induction l with
  | nil => exact fun s _ _ => ⟨Leaves.refl.kills, fun sl h => absurd h List.not_mem_nil⟩
  | cons r l ih =>
    intro s hl hf
    obtain ⟨rp, rc, sl⟩ := r
    obtain ⟨hp, hc⟩ := hl _ List.mem_cons_self
    dsimp only at hp hc
    subst hp hc
    obtain ⟨hk, hn⟩ := killThread_kills (sl := sl) hf
    obtain ⟨hk', hn'⟩ := ih (killThread s ⟨rp, rc, sl⟩) (fun r h => hl r (List.mem_cons_of_mem _ h)) (hk.failed.trans hf)
    refine ⟨hk.trans hk', fun sl' h => ?_⟩
    rcases List.mem_cons.mp h with h | h
    · obtain rfl : sl' = sl := congrArg TRef.slot h
      exact hk'.vacant _ hn
    · exact hn' sl' h

theorem killLanding_leaves {sel : Thread → Bool} : Leaves p c (s.modCoreW q d (fun w => { w with
    landing := w.landing.filter (fun t => !sel t) })) (killLanding s q d sel) := by
  rw [killLanding]
  refine Leaves.foldl (fun u t => ?_) _ _
  have h : Leaves p c u (if (u.core q d).c.failed then u else logMark u ⟨q, d, 0⟩ 6 none) := .ite .refl leaves_logMark
  exact (h.trans (leaves_recordEnded.trans leaves_freedTid)).trans leaves_releaseDset

/-- Every thread of a core's landing queue killed. -/
theorem killLanding_all : Leaves p c s (killLanding s p c (fun _ => true)) ∧
    ((killLanding s p c (fun _ => true)).core p c).w.landing = [] := by
  have h := killLanding_leaves (p := p) (c := c) (s := s) (q := p) (d := c) (sel := fun _ => true)
  have he : ((s.modCoreW p c (fun w => { w with landing := w.landing.filter (fun _ => !true) })).core p c).w.landing = [] := by
    rw [State.core_modCoreW]
    exact List.filter_eq_nil_iff.mpr fun t _ => Bool.false_ne_true
  refine ⟨.trans (leaves_modCoreW (fun hw => ?_) fun i hi => hi) h, h.landing he⟩
  dsimp only
  rw [hw]
  rfl

/-! ## A core that fails -/

theorem mem_population {sel : Thread → Bool} {t : Thread} {sl : SlotId} (hc : c ∈ (s.part p).coreIds) (h : s.thread ⟨p, c, sl⟩ = some t)
    (ht : sel t = true) : (⟨p, c, sl⟩ : TRef) ∈ s.population p sel := by
  rw [State.population, List.mem_flatMap]
  refine ⟨c, hc, List.mem_filterMap.mpr ⟨(sl.val, .thread t), kget_mem ?_, ?_⟩⟩
  · rw [State.thread_eq, State.slot] at h
    dsimp only at h
    cases hk : kget (s.core p c).w.slots sl.val with
    | none => rw [hk] at h; cases h
    | some x =>
      rw [hk] at h
      cases x with
      | thread t' => rw [Option.some.inj h]
      | _ => cases h
  · rw [dif_pos sl.isLt]
    exact if_pos ht

theorem part_of_population {sel : Thread → Bool} {r : TRef} (h : r ∈ s.population p sel) : r.part = p := by
  rw [State.population, List.mem_flatMap] at h
  obtain ⟨c, -, h⟩ := h
  obtain ⟨e, -, h⟩ := List.mem_filterMap.mp h
  split at h
  · split at h
    · split at h
      · rw [← Option.some.inj h]
      · cases h
    · split at h
      · rw [← Option.some.inj h]
      · cases h
    · cases h
    · cases h
  · cases h

theorem acc_orphanStep {sel : AccSlot → Bool} {k : ClusterId} (n i : Nat) :
    (if (s.acc p k n).tagged && sel (s.acc p k n) then s.modAcc p k n (fun a => { a with orphaned := true }) else s).acc p k i =
      if i = n ∧ ((s.acc p k i).tagged && sel (s.acc p k i)) then { s.acc p k i with orphaned := true } else s.acc p k i := by
  by_cases h : i = n
  · subst h
    by_cases hs : (s.acc p k i).tagged && sel (s.acc p k i)
    · rw [if_pos hs, if_pos ⟨rfl, hs⟩, State.acc_modAcc, if_pos rfl]
    · rw [if_neg hs, if_neg (fun e => hs e.2)]
  · rw [if_neg (c := i = n ∧ _) (fun e => h e.1)]
    split
    · rw [State.acc_modAcc, if_neg h]
    · rfl

/-- A core's slots orphaned by a condition. -/
theorem acc_orphanSlots {sel : AccSlot → Bool} {k : ClusterId} {i : Nat} (hk : clusterOf c = some k) (hi : i / 2 = c.val % 8) :
    (orphanSlots s p c sel).acc p k i =
      if (s.acc p k i).tagged && sel (s.acc p k i) then { s.acc p k i with orphaned := true } else s.acc p k i := by
  rw [orphanSlots, hk]
  refine (acc_orphanStep _ i).trans ?_
  rw [acc_orphanStep]
  rcases (by omega : i = 2 * (c.val % 8) ∨ i = 2 * (c.val % 8) + 1) with h | h
  · rw [if_neg (fun e => absurd (e.1.symm.trans h) (by omega))]
    exact if_congr (and_iff_right h) rfl rfl
  · rw [if_neg (c := i = 2 * (c.val % 8) ∧ _) (fun e => absurd (h.symm.trans e.1) (by omega))]
    exact if_congr (and_iff_right h) rfl rfl

end
end Sys2Proof.Machine
end

section
/-! SUPPORT. The steps that end a thread's waits, move it, wake it or kill it (01 R21; 09 R142, R162; 20 R313, R314, R320; 21 R337, R338). -/
namespace Sys2Proof.Machine

/-! ## A binding that is lost (R338) -/

section
variable {s : State} {p : PartId} {c : CoreId}

theorem watched_modThreads (q : PartId) (f : Thread → Thread) : (s.modThreads q f).watched p c = s.watched p c :=
  foldl_keeps (fun u : State => u.watched p c) (fun u d => State.watched_modCoreW_of u q d _ (by rfl) p c) _ s

theorem watched_modPart (q : PartId) {f : Partition → Partition} (h : ∀ d, (f (s.part q)).core d = (s.part q).core d) :
    (s.modPart q f).watched p c = s.watched p c := by
  rw [State.watched, State.core_modPart_of s q f h, State.watched]

theorem watched_push (i : Instr) : (s.push i).watched p c = s.watched p c := rfl

theorem watched_dumpStart (q : PartId) (x : TrapRec) : (dumpStart s q x).watched p c = s.watched p c := by
  simp only [dumpStart]
  split
  · split
    · rw [watched_modPart _ (fun _ => rfl), watched_modThreads]
    · split
      · split
        · rw [watched_push, watched_modPart _ (fun _ => rfl), watched_modThreads]
        · rw [watched_modPart _ (fun _ => rfl), watched_modThreads]
      · rw [enqueueRecord, watched_modPart _ (fun _ => rfl), watched_modThreads]
  · rfl

theorem watched_postRecord (q : PartId) (x : TrapRec) : (postRecord s q x).watched p c = s.watched p c :=
  (watched_dumpStart q _).trans (watched_modPart q (fun _ => rfl))

theorem watched_fatalPark (r : TRef) (x : TrapRec) : (fatalPark s r x).watched p c = s.watched p c := by
  rw [fatalPark]
  cases s.thread r with
  | none => rfl
  | some t => exact (watched_postRecord ..).trans (State.watched_setThread ..)

/-- The threads of a worker that loses its taster, each to be parked at its next issue, with its record. -/
def workersParked (s : State) (p : PartId) (c : CoreId) : State :=
  (slotThreads p c (s.core p c).w.slots).foldl (fun s e =>
    postRecord (s.modThread e.1 (fun t => { t with parkAt := some 0x036 })) p (lostRecord e.1 e.2)) s

/-- The waiting LOGNs of a core parked. -/
def lognsParked (p : PartId) (s : State) (x : CoreId) : State :=
  (slotThreads p x (s.core p x).w.slots).foldl (fun s e => if waitsLogn e.2 then fatalPark s e.1 (lostRecord e.1 e.2) else s) s

theorem loseBinding_eq : loseBinding s p c =
    (corePut (tasterOf (s.core p c).w.tbind)).elim
      (markWatched ((workersParked s p c).modCoreW p c (fun w => { w with tbind := w.tbind &&& 0x7FFFFFFFFFFFFFFF })) p c false)
      (lognsParked p (markWatched ((workersParked s p c).modCoreW p c
        (fun w => { w with tbind := w.tbind &&& 0x7FFFFFFFFFFFFFFF })) p c false)) := by
  rw [loseBinding]
  cases corePut (tasterOf (s.core p c).w.tbind) <;> rfl

theorem watched_lognsParked (x : CoreId) : (lognsParked p s x).watched p c = s.watched p c := by
  refine foldl_keeps (fun u : State => u.watched p c) (fun u e => ?_) _ s
  split
  · exact watched_fatalPark ..
  · rfl

theorem loseBinding_unwatched : (loseBinding s p c).watched p c = false := by
  have h : (markWatched ((workersParked s p c).modCoreW p c (fun w => { w with tbind := w.tbind &&& 0x7FFFFFFFFFFFFFFF })) p c false).watched
      p c = false := by
    rw [watched_markWatched, State.watched, State.core_modCoreW, bit]
    simp
  rw [loseBinding_eq]
  cases corePut (tasterOf (s.core p c).w.tbind) with
  | none => exact h
  | some x => exact (watched_lognsParked x).trans h

theorem leaves_loseBinding {d : CoreId} : Leaves p c s (loseBinding s p d) := by
  have hw : Leaves p c s (workersParked s p d) := Leaves.foldl (fun u e => leaves_modThread.trans leaves_postRecord) _ s
  have hm : Leaves p c s (markWatched ((workersParked s p d).modCoreW p d (fun w => { w with tbind := w.tbind &&& 0x7FFFFFFFFFFFFFFF }))
      p d false) := by
    refine (hw.trans (leaves_besideSlots (by rfl))).trans (leaves_mapped (g := markSlot false) (fun _ => id) (fun _ => rfl) fun x e => ?_)
    cases x with
    | thread t => cases e
    | _ => rfl
  rw [loseBinding_eq]
  cases corePut (tasterOf (s.core p d).w.tbind) with
  | none => exact hm
  | some x => exact hm.trans (Leaves.foldl (fun u e => .ite leaves_fatalPark .refl) _ _)

/-! ## A core that fails (R337) -/

theorem kills_orphanSlots : (orphanSlots s p c (fun a => a.pend == 0)).core p c = s.core p c ∧
    ∀ r, r.part = p → r.core = c → (orphanSlots s p c (fun a => a.pend == 0)).thread r = s.thread r := by
  have h := (orphanSlots_keeps s p c c (fun a => a.pend == 0)).1
  refine ⟨h, fun r hp hc => ?_⟩
  subst hp hc
  rw [State.thread_eq, State.slot, h, State.thread_eq, State.slot]

/-- The state as a core is declared failed. -/
def failedAt (s : State) (p : PartId) (c : CoreId) : State := s.modCoreC p c (fun k => { k with failed := true })

/-- Every thread of a failed core killed, those of its landing queue first. -/
def failedKilled (s : State) (p : PartId) (c : CoreId) : State :=
  (((killLanding (failedAt s p c) p c (fun _ => true)).population p (fun _ => true)).filter (fun r => r.core == c)).foldl killThread
    (killLanding (failedAt s p c) p c (fun _ => true))

/-- The failure of a core posted, its tagged slots orphaned. -/
def failedPosted (s : State) (p : PartId) (c : CoreId) : State :=
  postRecord (orphanSlots (failedKilled s p c) p c (fun a => a.pend == 0)) p { TrapRec.none with code := 0x035, cls := 1, core := c.val }

theorem failCore_failed (h : (s.core p c).c.failed = true) : failCore s p c = s := if_pos h

theorem failCore_worker (h : (s.core p c).c.failed = false) (w : Option CoreId) (hw : workerOf (failedPosted s p c) p c = w) :
    failCore s p c = w.elim (failedPosted s p c) (loseBinding (failedPosted s p c) p) := by
  refine (if_neg (Bool.eq_false_iff.mp h)).trans ?_
  subst hw
  change (match workerOf (failedPosted s p c) p c with
    | some w => loseBinding (failedPosted s p c) p w
    | none => failedPosted s p c) = _
  cases workerOf (failedPosted s p c) p c <;> rfl

/-- Every thread of a failed core killed, of those that the partition lists. -/
theorem killPopulation_kills (hf : (s.core p c).c.failed = true) :
    Kills p c s (((s.population p (fun _ => true)).filter (fun r => r.core == c)).foldl killThread s) ∧
    (c ∈ (s.part p).coreIds → ∀ sl,
      (((s.population p (fun _ => true)).filter (fun r => r.core == c)).foldl killThread s).thread ⟨p, c, sl⟩ = none) := by
  have hl : ∀ r ∈ (s.population p (fun _ => true)).filter (fun r => r.core == c), r.part = p ∧ r.core = c := fun r hr =>
    ⟨part_of_population (List.mem_filter.mp hr).1, beq_iff_eq.mp (List.mem_filter.mp hr).2⟩
  obtain ⟨hk, hn⟩ := killThreads_kills _ s hl hf
  refine ⟨hk, fun hc sl => ?_⟩
  cases ht : s.thread ⟨p, c, sl⟩ with
  | none => exact hk.vacant sl ht
  | some t => exact hn sl (List.mem_filter.mpr ⟨mem_population hc ht rfl, beq_self_eq_true c⟩)

theorem failedKilled_kills : Kills p c (failedAt s p c) (failedKilled s p c) ∧ ((failedKilled s p c).core p c).w.landing = [] ∧
    (c ∈ (s.part p).coreIds → ∀ sl, (failedKilled s p c).thread ⟨p, c, sl⟩ = none) := by
  have hf : ((failedAt s p c).core p c).c.failed = true := by rw [failedAt, State.core_modCoreC]
  have hs : c ∈ (s.part p).coreIds → c ∈ ((failedAt s p c).part p).coreIds := listed_setCore
  obtain ⟨hl, he⟩ := killLanding_all (p := p) (c := c) (s := failedAt s p c)
  rw [failedKilled]
  obtain ⟨hk, hn⟩ := killPopulation_kills (p := p) (c := c) (hl.failed.trans hf)
  exact ⟨hl.kills.trans hk, hk.landing he, fun hc => hn (hl.listed (hs hc))⟩

/-- What a core's failure leaves: no thread and none that lands there, its idle tagged slots orphaned, the others as they were. -/
theorem failCore_leaves (h : (s.core p c).c.failed = false) : ((failCore s p c).core p c).c.failed = true ∧
    ((failCore s p c).core p c).w.landing = [] ∧ (c ∈ (s.part p).coreIds → ∀ sl, (failCore s p c).thread ⟨p, c, sl⟩ = none) ∧
    ∀ k i, clusterOf c = some k → i / 2 = c.val % 8 →
      ((s.acc p k i).pend ≠ 0 → (failCore s p c).acc p k i = s.acc p k i) ∧
      (((failCore s p c).acc p k i).tagged = true → ((failCore s p c).acc p k i).pend = 0 → ((failCore s p c).acc p k i).orphaned = true) := by
  have hf : ((failedAt s p c).core p c).c.failed = true := by rw [failedAt, State.core_modCoreC]
  have ha : ∀ k i, (failedAt s p c).acc p k i = s.acc p k i := fun k i => by
    rw [State.acc, failedAt, State.cluster_modCoreC, State.acc]
  obtain ⟨hk, hl, hn⟩ := failedKilled_kills (s := s) (p := p) (c := c)
  obtain ⟨hoc, hot⟩ := kills_orphanSlots (s := failedKilled s p c) (p := p) (c := c)
  have hp : Leaves p c (orphanSlots (failedKilled s p c) p c (fun a => a.pend == 0)) (failCore s p c) := by
    rw [failCore_worker h _ rfl]
    have hr : Leaves p c (orphanSlots (failedKilled s p c) p c (fun a => a.pend == 0)) (failedPosted s p c) := leaves_postRecord
    cases workerOf (failedPosted s p c) p c with
    | none => exact hr
    | some w => exact hr.trans leaves_loseBinding
  refine ⟨by rw [hp.failed, hoc, hk.failed, hf], hp.landing (by rw [hoc, hl]), fun hc sl => hp.vacant sl ((hot _ rfl rfl).trans (hn hc sl)),
    fun k i hc hi => ?_⟩
  rw [hp.acc, acc_orphanSlots hc hi]
  refine ⟨fun hb => ?_, fun h1 h2 => ?_⟩
  · rw [hk.busy k i (by rw [ha]; exact hb), ha, if_neg]
    rw [beq_eq_false_iff_ne.mpr hb, Bool.and_false]
    exact Bool.false_ne_true
  · split
    · rfl
    · next hx =>
      rw [if_neg hx] at h1 h2
      rw [h1, h2] at hx
      exact absurd rfl hx

end

end Sys2Proof.Machine
end

section
/-! SUPPORT. Replies, deliveries, retries, migrations and wakes (01 R21; 09 R142, R143, R162; 20 R313, R320). -/
namespace Sys2Proof.Machine

section
variable {s : State} {r r1 : TRef} {t t1 : Thread} {q : Pend} {m : Delivery} {p : PartId} {c : CoreId}

/-! ## Replies (R21) -/

theorem memoryReply_commits (ht : s.thread r = some t) (hp : t.pend = some q) (h : q.notBefore ≤ s.cycle) (v : Option Word) :
    execMemoryReply r v s =
      .next (commitAt (s.setThread r { t with readyAt := Nat.max t.readyAt (s.cycle + 1) }) r q.size q.words (replyCommit q v)) := by
  rw [execMemoryReply, ht]
  dsimp only
  rw [hp]
  exact if_neg (Nat.not_lt.mpr h)

theorem memoryReply_waits (ht : s.thread r = some t) (hp : t.pend = some q) (h : s.cycle < q.notBefore) (v : Option Word) :
    execMemoryReply r v s =
      .next ((s.setThread r { t with pend := some { q with commit := replyCommit q v, dest := none, log := .nothing } }).after
        (q.notBefore - s.cycle) (.memoryReply r none)) := by
  rw [execMemoryReply, ht]
  dsimp only
  rw [hp]
  exact if_pos h

theorem replyCommit_word {d : Reg} (v : Word) (hd : q.dest = some d) (ht : q.ty = none) :
    ∃ log, replyCommit q (some v) = { q.commit with regs := (d, v) :: q.commit.regs, log := log } := by
  rw [replyCommit, hd, ht]
  exact ⟨_, rfl⟩

theorem replyCommit_typed {d : Reg} {ty : LdType} (v : Word) (hd : q.dest = some d) (ht : q.ty = some ty) :
    ∃ log, replyCommit q (some v) = { q.commit with regs := (d, ty.extend v.toNat) :: q.commit.regs, log := log } := by
  rw [replyCommit, hd, ht]
  exact ⟨_, rfl⟩

/-! ## Deliveries (R85, R320) -/

theorem deliver_found (h : s.byTid m.dst.part m.tid = some (r1, t1)) : deliver s m =
    if t1.active then
      if inboxCount (s.part m.dst.part) r1.core < 16 then s.modCoreW m.dst.part r1.core (fun w => { w with inbox := w.inbox ++ [m] })
      else s.after 256 (.deliveryRetry m)
    else applyDelivery s r1 m := by
  rw [deliver, h]

theorem applyDelivery_fills (hf : m.failed = false) (hw : s.watched r1.part r1.core = false) : applyDelivery s r1 m =
    s.modThread r1 (fun t => { t with
      regs := t.regs.write m.reg m.val, awaiting := t.awaiting.erase m.reg, arrivedIn := s.cycle,
      arrived := (if t.arrivedIn = s.cycle then t.arrived else []) ++ [(m.reg, m.val)] }) := by
  rw [applyDelivery, hf, hw]
  rfl

theorem applyDelivery_fails (hf : m.failed = true) : applyDelivery s r1 m =
    s.modThread r1 (fun t => { t with delegFailed := t.delegFailed ++ [m.addr], awaiting := t.awaiting.erase m.reg }) := if_pos hf

/-! ## The retry of a reservation (R162) -/

section
variable {w : Waiter} {rest : List Waiter} {line : Nat}

/-- The waiters behind the head that the retry of a slice tries. -/
def othersTried (s : State) (p : PartId) (rest : List Waiter) (line : Nat) (u : State) : State :=
  (rest.filter (fun w => (waiterLine s w).all (fun n => homeSlice n == homeSlice line))).foldl (joinQueue p) u

theorem waiterLine_found (ht : s.thread w.who = some t1) (hi : t1.tid = w.tid) (hr : t1.resv = some line) : waiterLine s w = some line := by
  rw [waiterLine, waiterThread, ht, Option.bind_some, if_pos hi, Option.bind_some, hr]

theorem lrwRetry_head (hq : (s.part p).lrwFull = w :: rest) (hl : waiterLine s w = some line) : execLrwRetry p (homeSlice line) s =
    .next (othersTried s p rest line (joinQueue p s w)) := by
  rw [execLrwRetry, hq, List.filter_cons_of_pos, List.foldl_cons]
  · rfl
  · rw [hl]
    exact beq_self_eq_true _

theorem joinQueue_full (hl : waiterLine s w = some line) (h : resvRoom (s.part p) line = false) : joinQueue p s w = s := by
  rw [joinQueue, hl]
  exact if_neg (Bool.eq_false_iff.mp h)

theorem joinQueue_joins (hl : waiterLine s w = some line) (h : resvRoom (s.part p) line = true) : joinQueue p s w =
    if (kget (s.part p).resv line).getD [] = [] then
      grantNext p line [w] (s.modPart p (fun q => { q with
        lrwFull := q.lrwFull.filter (fun x => x.tid != w.tid),
        resv := kput q.resv line ((kget (s.part p).resv line).getD [] ++ [w]) }))
    else s.modPart p (fun q => { q with
        lrwFull := q.lrwFull.filter (fun x => x.tid != w.tid),
        resv := kput q.resv line ((kget (s.part p).resv line).getD [] ++ [w]) }) := by
  rw [joinQueue, hl]
  refine (if_pos h).trans (if_congr ?_ rfl rfl)
  exact List.isEmpty_iff

end

/-! ## Migrations (R141 to R143) -/

section
variable {x : Nat} (ht : s.thread r = some t) (hm : t.migrate = some x)
include ht hm

theorem migration_pinned (hp : pinnedHere s r t = true) : execMigration r s = .next (s.setThread r { t with migrate := none }) := by
  rw [execMigration, ht]
  dsimp only
  rw [hm]
  refine if_pos ?_
  rw [hp, Bool.true_or]

variable (hx : x < 16) (hp : pinnedHere s r t = false) (hb : besideHome r.core (Fin.ofNat 16 x) false = false)
include hx hp hb

theorem migration_waits (hu : updatesPending s r.part t.tid = true) : execMigration r s = .next (s.after 1 (.migration r)) := by
  have ha : decide (16 ≤ x) = false := decide_eq_false (Nat.not_le.mpr hx)
  rw [execMigration, ht]
  dsimp only
  rw [hm]
  dsimp only
  rw [ha, hp, hb, hu]
  rfl

theorem migration_leaves (hu : updatesPending s r.part t.tid = false) {c1 : CoreId} {sl : SlotId}
    (hc : migrationTarget s r.part (Fin.ofNat 16 x) false = some c1) (hs : freeGeneral (s.core r.part c1).w = some sl) :
    execMigration r s = .next ((freeSlot (((s.setSlot ⟨r.part, c1, sl⟩ (.reserved (packContext t))).count r.part r.core 8 (some r.slot) 1).traceRec
      r 6 t.pc t.corr) r).after 40 (.migrationArrival ⟨r.part, c1, sl⟩)) := by
  have ha : decide (16 ≤ x) = false := decide_eq_false (Nat.not_le.mpr hx)
  rw [execMigration, ht]
  dsimp only
  rw [hm]
  dsimp only
  rw [ha, hp, hb, hu, hc]
  dsimp only
  rw [hs]
  rfl

end

theorem migrationArrival_eq (h : s.slot r1 = some (.reserved t)) : execMigrationArrival r1 s =
    if messageWaits s r1.part r1.core (.migrationArrival r1) then .next (s.holdBack (.migrationArrival r1))
    else .next ((placeThread s r1 t (s.cycle + 8)).traceRec r1 7 t.pc t.corr) := by
  rw [execMigrationArrival, h]

theorem scrubComplete_frees {x : Nat} (h : s.slot r = some (.scrub x)) : execScrubComplete r s = .next (freeSlot (freedTid s r.part x) r) := by
  rw [execScrubComplete, h]

/-! ## WAKE (R313) -/

/-- A change made twice of no more effect than once, of every thread of a core that the partition lists. -/
theorem State.thread_modThreads {f : Thread → Thread} (hf : ∀ t, f (f t) = f t) (hr : r.part = p) (hc : r.core ∈ (s.part p).coreIds)
    (ht : s.thread r = some t) : (s.modThreads p f).thread r = some (f t) := by
  have step : ∀ (u : State) (d : CoreId), (u.modCoreW p d (fun w => { w with
      slots := kmapVals (fun _ x => mapSlot f x) w.slots, landing := w.landing.map f })).thread r =
      if r.core = d then (u.thread r).map f else u.thread r := by
    intro u d
    split
    · next h =>
      subst h hr
      rw [State.thread_eq, State.thread_eq, State.slot, State.core_modCoreW]
      dsimp only
      rw [kget_kmapVals, State.slot]
      cases kget (u.core r.part r.core).w.slots r.slot.val with
      | none => rfl
      | some x => exact mapSlot_thread f x
    · next h => rw [State.thread_eq, State.slot, State.modCoreW, State.core_setCore_ne _ _ (Or.inr h), ← State.slot, ← State.thread_eq]
  have fold : ∀ (l : List CoreId) (u : State), (u.thread r = some t ∧ r.core ∈ l ∨ u.thread r = some (f t)) →
      (l.foldl (fun s c => s.modCoreW p c (fun w => { w with
        slots := kmapVals (fun _ x => mapSlot f x) w.slots, landing := w.landing.map f })) u).thread r = some (f t) := by
    intro l
    induction l with
    | nil => exact fun u h => h.elim (fun e => absurd e.2 List.not_mem_nil) id
    | cons d l ih =>
      intro u h
      refine ih _ ?_
      rw [step]
      by_cases hd : r.core = d
      · rw [if_pos hd]
        rcases h with ⟨h, -⟩ | h
        · exact Or.inr (by rw [h]; rfl)
        · exact Or.inr (by rw [h, Option.map_some, hf])
      · rw [if_neg hd]
        exact h.imp (And.imp_right fun e => (List.mem_cons.mp e).resolve_left hd) id
  exact fold _ s (Or.inl ⟨ht, hc⟩)

/-- The change of a thread that WAKE resumes. -/
def wokenAt (now tid : Nat) (t : Thread) : Thread :=
  if t.tid = tid ∧ (t.parked || t.dropped.isSome) ∧ t.parkedIn ≠ some now then wakeThread now t else t

theorem wokenAt_wokenAt (now tid : Nat) (t : Thread) : wokenAt now tid (wokenAt now tid t) = wokenAt now tid t := by
  by_cases h : t.tid = tid ∧ (t.parked || t.dropped.isSome) ∧ t.parkedIn ≠ some now
  · have hw : wokenAt now tid t = wakeThread now t := if_pos h
    rw [hw]
    exact if_neg (fun e => absurd e.2.1 Bool.false_ne_true)
  · have hw : wokenAt now tid t = t := if_neg h
    rw [hw, hw]

theorem wakeResume_thread {tid : Nat} (hr : r.part = p) (hc : r.core ∈ (s.part p).coreIds) (ht : s.thread r = some t) :
    (wakeResume s p tid).thread r = some (wokenAt s.cycle tid t) :=
  State.thread_modThreads (f := wokenAt s.cycle tid) (wokenAt_wokenAt s.cycle tid) hr hc ht

theorem wakeUnservable_parks {tid : Nat} {x : TrapRec} (h : s.byTid p tid = some (r, t)) (hx : t.dropped = some x) : wakeUnservable s p tid =
    postRecord (s.setThread r { t with dropped := none, parked := true, ecause := setField t.ecause 0 12 0x031 }) p
      { x with code := 0x031, cls := 1 } := by
  rw [wakeUnservable, h]
  dsimp only
  rw [hx]

/-! ## The watchdog of LOGN (R335) -/

theorem lognWatchdog_fires {x since : Nat} (ht : s.thread r = some t) (hw : t.wait = some (.stamp c x since)) : execLognWatchdog r s =
    .next ((workerOf (fatalPark s r (lostRecord r t)) r.part r.core).elim (fatalPark s r (lostRecord r t))
      (loseBinding (fatalPark s r (lostRecord r t)) r.part)) := by
  obtain ⟨F, hF⟩ : ∃ F, F = loseBinding := ⟨_, rfl⟩
  rw [execLognWatchdog, ht, ← hF]
  dsimp only
  rw [hw]
  dsimp only
  cases workerOf (fatalPark s r (lostRecord r t)) r.part r.core <;> rfl

end

end Sys2Proof.Machine
open Sys2Proof Sys2Proof.Machine

/-- Settles O50: each step by the cases of the state that it meets; the failure of a core by what each of the changes that follow leaves of
the core's slots and of the accumulators. -/
theorem threadSteps : Obligations.ThreadSteps := by
  unfold Obligations.ThreadSteps
  intro s s1 r r1 t t1 q m p c tid ctx w rest line x since
  refine ⟨?_, ?_, ?_, ?_, ?_, ?_, ?_, ?_, rfl, rfl, ?_, ?_, ?_⟩
  · intro ht hp hn u
    refine ⟨memoryReply_commits ht hp hn none, fun v d hd hy => ?_, fun v d ty hd hy => ?_⟩
    · obtain ⟨log, h⟩ := replyCommit_word v hd hy
      exact ⟨log, (memoryReply_commits ht hp hn (some v)).trans (congrArg (fun k => Host.Outcome.next (commitAt u r q.size q.words k)) h)⟩
    · obtain ⟨log, h⟩ := replyCommit_typed v hd hy
      exact ⟨log, (memoryReply_commits ht hp hn (some v)).trans (congrArg (fun k => Host.Outcome.next (commitAt u r q.size q.words k)) h)⟩
  · exact fun ht hp hn v => memoryReply_waits ht hp hn v
  · intro i hi hb
    have hd : exec i s = .next (deliver s m) := by
      rcases List.mem_cons.mp hi with rfl | hi
      · rfl
      · rw [List.mem_singleton.mp hi]
        rfl
    rw [hd, deliver_found hb]
    refine ⟨fun ha hf hw => ?_, fun ha hf => ?_, fun ha hc => ?_, fun ha hc => ?_⟩
    · exact congrArg _ ((if_neg (Bool.eq_false_iff.mp ha)).trans (applyDelivery_fills hf hw))
    · exact congrArg _ ((if_neg (Bool.eq_false_iff.mp ha)).trans (applyDelivery_fails hf))
    · exact congrArg _ ((if_pos ha).trans (if_pos hc))
    · exact congrArg _ ((if_pos ha).trans (if_neg (Nat.not_lt.mpr hc)))
  · intro hq ht hi hr others retry
    have hl := waiterLine_found ht hi hr
    have hh : retry = .next (others (joinQueue p s w)) := lrwRetry_head hq hl
    refine ⟨fun h => hh.trans (congrArg (fun u => Host.Outcome.next (others u)) (joinQueue_full hl h)), ?_⟩
    intro h l u
    exact hh.trans (congrArg (fun u => Host.Outcome.next (others u)) (joinQueue_joins hl h))
  · exact scrubComplete_frees
  · intro ht hm hx h
    exact ⟨migration_pinned ht hm, migration_waits ht hm hx, fun hp hb hu c1 sl => migration_leaves ht hm hx hp hb hu⟩
  · exact fun h => ⟨fun hw => (migrationArrival_eq h).trans (if_pos hw),
      fun hw => (migrationArrival_eq h).trans (if_neg (Bool.eq_false_iff.mp hw))⟩
  · refine ⟨_, rfl, (same_modThreads ..).mem, fun r2 t2 hr hc ht => (wakeResume_thread hr hc ht).trans (congrArg some ?_)⟩
    refine if_congr ?_ rfl rfl
    rw [Bool.or_eq_true]
  · exact fun rec_ hb hx => congrArg _ (wakeUnservable_parks hb hx)
  · refine ⟨failCore s p c, rfl, rfl, failCore_failed, fun hf => ?_⟩
    intro v0 v1 v2 v3
    have hv : v3 = failedPosted s p c := rfl
    obtain ⟨h1, h2, h3, h4⟩ := failCore_leaves hf
    rw [hv]
    exact ⟨fun hw => failCore_worker hf none hw, fun w hw => failCore_worker hf (some w) hw, h1, h2, h3, h4⟩
  · intro ht hw v
    have h := lognWatchdog_fires ht hw
    refine ⟨fun hn => ?_, fun k hk => ⟨?_, loseBinding_unwatched⟩⟩
    · exact h.trans (congrArg (fun o => Host.Outcome.next (Option.elim o v (loseBinding v r.part))) hn)
    · exact h.trans (congrArg (fun o => Host.Outcome.next (Option.elim o v (loseBinding v r.part))) hk)
end

section
/-! SUPPORT. The machine's step: what is due, turns and waits (00; 01 R14, R18; 03 R49 to R53; 08 R121). -/
namespace Sys2Proof.Machine

section
variable {s s1 : State} {r : TRef} {t : Thread} {i c a : Instr} {l : CodeLine} {b : Bundle} {ws : List (BitVec 32)}

/-! ## The order of a step (R121) -/

theorem step_event {rest : List Instr} (h : s.events = i :: rest) : step s = exec i { s with events := rest } := by
  obtain ⟨F, hF⟩ : ∃ F, F = exec := ⟨_, rfl⟩
  rw [step, stepNext, h, ← hF]

theorem step_ends (h : s.events = []) (hn : nextWork s = none) : step s = .next (endCycle s) := by
  obtain ⟨F, hF⟩ : ∃ F, F = endCycle := ⟨_, rfl⟩
  obtain ⟨G, hG⟩ : ∃ G, G = nextWork := ⟨_, rfl⟩
  rw [← hG] at hn
  rw [step, stepNext, h, ← hF, ← hG]
  dsimp only
  rw [hn]

theorem step_works (h : s.events = []) {w : Work} (hn : nextWork s = some w) : step s = doWork s w := by
  obtain ⟨F, hF⟩ : ∃ F, F = doWork := ⟨_, rfl⟩
  obtain ⟨G, hG⟩ : ∃ G, G = nextWork := ⟨_, rfl⟩
  rw [← hG] at hn
  rw [step, stepNext, h, ← hF, ← hG]
  dsimp only
  rw [hn]

/-! ## A turn (R325, R159, R14) -/

theorem issue_parks {code : Nat} (h : t.parkAt = some code) : issue s r t = .next (parkAtIssue s r code) := by
  rw [issue, h]

theorem issue_notifies {x : Word} {xs : List Word} (h : t.parkAt = none) (hd : t.delegFailed = x :: xs) (ha : t.active = false) : issue s r t =
    .next (takeTrap { turnUsed (s.modThread r (fun u => { u with
      delegFailed := u.delegFailed.drop 1, wait := none, latch := none, readyAt := s.cycle + 8 })) r with scan := placeOf r.part r.core + 1 }
      r .delegation (some x)) := by
  have hn : t.noticeDue = some x := by rw [Thread.noticeDue, ha, hd]; rfl
  rw [issue, h, hn]

/-- Nothing but the bundle is left for the thread's issue. -/
structure BundleDue (s : State) (r : TRef) (t : Thread) : Prop where
  park : t.parkAt = none
  notice : t.noticeDue = none
  mark : ((s.part r.part).snap.phase == .contain && s.watched r.part r.core && !t.captured) = false

theorem bundleDue_of (hp : t.parkAt = none) (hd : t.delegFailed = [] ∨ t.active = true)
    (hm : (s.part r.part).snap.phase ≠ .contain ∨ s.watched r.part r.core = false ∨ t.captured = true) : BundleDue s r t := by
  refine ⟨hp, ?_, ?_⟩
  · rw [Thread.noticeDue]
    rcases hd with hd | hd
    · rw [hd]
      exact ite_self _
    · rw [hd]
      rfl
  · rcases hm with hm | hm | hm
    · rw [beq_eq_false_iff_ne.mpr hm]
      rfl
    · rw [hm, Bool.and_false, Bool.false_and]
    · rw [hm, Bool.not_true, Bool.and_false]

/-- The state in which a bundle runs, once its issue has been counted. -/
def issueNoted (s : State) (r : TRef) (t : Thread) (b : Bundle) (ws : List (BitVec 32)) : State :=
  (noteIssue b r t ws { turnUsed s r with scan := placeOf r.part r.core + 1 }).modThread r (fun u => { u with
    wait := none, latch := none, readyAt := (noteIssue b r t ws { turnUsed s r with scan := placeOf r.part r.core + 1 }).cycle + 8,
    issued := ws, issuedIn := (noteIssue b r t ws { turnUsed s r with scan := placeOf r.part r.core + 1 }).cycle })

theorem issue_bundle (h : BundleDue s r t) (hf : fetchBundle s r t = .ok (b, ws, s1)) : issue s r t =
    if !(emptyRegs { t with latch := none } (syncRegs (bundleSrcs b))).isEmpty then
      .next (s1.modThread r (fun u => { u with
        wait := some (.regs (emptyRegs { t with latch := none } (syncRegs (bundleSrcs b)))), latch := none }))
    else if takesOrder b.head then .next (waitThread (issueNoted s1 r t b ws) r (.late (issueNoted s1 r t b ws).cycle))
    else runThread b r t ws (issueNoted s1 r t b ws) := by
  obtain ⟨F, hF⟩ : ∃ F, F = fetchBundle := ⟨_, rfl⟩
  obtain ⟨G, hG⟩ : ∃ G, G = runThread := ⟨_, rfl⟩
  obtain ⟨N, hN⟩ : ∃ N, N = noteIssue := ⟨_, rfl⟩
  obtain ⟨E, hE⟩ : ∃ E, E = emptyRegs := ⟨_, rfl⟩
  rw [← hF] at hf
  rw [issue, issueNoted, ← hF, ← hG, ← hN, ← hE]
  dsimp only
  split
  · next code hp => exact absurd (h.park.symm.trans hp) nofun
  · next x hp hn => exact absurd (h.notice.symm.trans hn) nofun
  · rw [h.mark, hf, if_neg Bool.false_ne_true]

/-! ## The framing of a bundle (R49, R53) -/

theorem fetchBundle_framed {sf : State} (hf : fetchLine s r t t.pc = .ok (l, sf))
    (hb : frame t.pc (codeWord l (t.pc.toNat % 128)) (codeWord l (t.pc.toNat % 128 + 4)) = .ok (b, ws)) : fetchBundle s r t =
    .ok (b, ws, sf.modThread r (fun t => { t with fetchBuf := bufferWith t.fetchBuf l })) := by
  obtain ⟨F, hF⟩ : ∃ F, F = fetchLine := ⟨_, rfl⟩
  rw [← hF] at hf
  rw [fetchBundle, ← hF, hf]
  dsimp only
  rw [hb]

theorem frame_lone {pc : Word} {w0 w1 : BitVec 32} (h : w0.getLsbD 31 = true) (hd : decodeWord w0 = .ok i) :
    frame pc w0 w1 = .ok (.lone i, [w0]) := by
  rw [frame, if_pos h, hd]

theorem frame_pair {pc : Word} {w0 w1 : BitVec 32} (h0 : w0.getLsbD 31 = false) (hp : pc.getLsbD 2 = false) (h1 : w0.getLsbD 30 = false)
    (h2 : w1.getLsbD 31 = false) (h3 : w1.getLsbD 30 = true) (hc : decodeWord w0 = .ok c) (ha : decodeWord w1 = .ok a)
    (hl : c.loneOnly = false) (hd : ∀ d, d ∈ controlWrites c → d ∉ arithWrites a) (hv : ∀ v, v ∈ vectorWrites c → v ∉ vectorWrites a) :
    frame pc w0 w1 = .ok (.pair c a, [w0, w1]) := by
  have hd' : (controlWrites c).any (fun d => (arithWrites a).contains d) = false :=
    List.any_eq_false.mpr fun d h => by rw [List.contains_iff_mem]; exact hd d h
  have hv' : (vectorWrites c).any (fun d => (vectorWrites a).contains d) = false :=
    List.any_eq_false.mpr fun d h => by rw [List.contains_iff_mem]; exact hv d h
  rw [frame, h0, hp, h1, h2, h3, hc, ha, if_neg Bool.false_ne_true, if_neg Bool.false_ne_true]
  dsimp only
  rw [hl, hd', hv']
  rfl

/-! ## A bundle run (R18) -/

/-- What a bundle's run comes to, with the record of an entry that it has put into a queue. -/
def runTraced (u : State) (r : TRef) (t : Thread) : Out → Out
  | .next v => .next (if queued u r < queued v r then v.traceRec r 4 t.pc t.corr else v)
  | o => o

theorem runThread_eq (u : State) : runThread b r t ws u = runTraced u r t (runBundle b r ws u) := by
  obtain ⟨F, hF⟩ : ∃ F, F = runBundle := ⟨_, rfl⟩
  rw [runThread, ← hF]
  generalize F b r ws u = o
  cases o <;> rfl

end

end Sys2Proof.Machine
open Sys2Proof Sys2Proof.Machine

/-- Settles O1: what is due, what a turn finds, and the framing, in their order; then the bundle that the fetch has found. -/
theorem stepRunsDecoded : Obligations.StepRunsDecoded := by
  unfold Obligations.StepRunsDecoded
  intro s sf r t i c a l rest w0 w1 next full s1 lacks noted traced runs
  refine ⟨step_event, step_ends, fun he hn => step_works he hn, fun he hn => ⟨fun code hp => ?_, fun ea fs hp hd ha => ?_⟩, fun he hn hp hd hm hf => ?_⟩
  · exact (step_works he hn).trans (issue_parks hp)
  · exact (step_works he hn).trans (issue_notifies hp hd ha)
  · have hdue := bundleDue_of hp hd hm
    have hrun : ∀ {b ws}, frame t.pc w0 w1 = .ok (b, ws) → emptyRegs { t with latch := none } (syncRegs (bundleSrcs b)) = [] →
        (takesOrder b.head = false → step s = runTraced (issueNoted s1 r t b ws) r t (runBundle b r ws (issueNoted s1 r t b ws))) ∧
        (takesOrder b.head = true → step s = .next (waitThread (issueNoted s1 r t b ws) r (.late (issueNoted s1 r t b ws).cycle))) := by
      intro b ws hb hfull
      have h := (step_works he hn).trans (issue_bundle hdue (fetchBundle_framed hf hb))
      rw [hfull] at h
      exact ⟨fun ho => (h.trans (if_neg (Bool.eq_false_iff.mp ho))).trans (runThread_eq _), fun ho => h.trans (if_pos ho)⟩
    have hlack : ∀ {b ws}, frame t.pc w0 w1 = .ok (b, ws) → ¬ full (bundleSrcs b) → lacks (bundleSrcs b) := by
      intro b ws hb hfull
      refine ((step_works he hn).trans (issue_bundle hdue (fetchBundle_framed hf hb))).trans (if_pos ?_)
      rw [Bool.not_eq_true', List.isEmpty_eq_false_iff]
      exact hfull
    refine ⟨fun h hi hfull => ?_, fun h hi => hlack (frame_lone h hi), fun h0 hpc h1 h2 h3 hc ha hl hd hv => ⟨?_, fun hfull => ?_⟩⟩
    · exact hrun (frame_lone h hi) hfull
    · exact hlack (frame_pair h0 hpc h1 h2 h3 hc ha hl hd hv)
    · exact hrun (frame_pair h0 hpc h1 h2 h3 hc ha hl hd hv) hfull
end

section
/-! SUPPORT. What the fetch of a line leaves of a partition: time, full bits, every byte but of the lines that its homes combine, and the copies that
an L1 does not hold (12 R206, R207, R212 to R214; 13 R222 to R228; 15 R255). -/
namespace Sys2Proof.Machine

/-- A fetch leaves time and full bits, every byte outside the steep lines of the partition, and an L1 without the line. -/
structure Fetches (p : PartId) (c : CoreId) (line : Nat) (s u : State) : Prop where
  fe : u.fe = s.fe
  cycle : u.cycle = s.cycle
  homes : ∀ h ∈ (u.part p).steep, ∃ h' ∈ (s.part p).steep, h'.key = h.key
  bytes : Memory.wf s.mem = true → Memory.wf u.mem = true ∧
    ∀ k, (∀ h ∈ (s.part p).steep, k < h.key ∨ h.key + 128 ≤ k) → u.byte k = s.byte k
  missing : s.l1 p c line = none → u.l1 p c line = none

section
variable {p : PartId} {c : CoreId} {line n : Nat} {s u v : State} {d : CoreId} {r : TRef}

theorem Fetches.refl : Fetches p c n s s := ⟨rfl, rfl, fun h e => ⟨h, e, rfl⟩, fun h => ⟨h, fun _ _ => rfl⟩, id⟩

theorem Fetches.trans (h : Fetches p c n s u) (k : Fetches p c n u v) : Fetches p c n s v := by
  refine ⟨k.fe.trans h.fe, k.cycle.trans h.cycle, fun x hx => ?_, fun hw => ?_, fun e => k.missing (h.missing e)⟩
  · obtain ⟨y, hy, ey⟩ := k.homes x hx
    obtain ⟨z, hz, ez⟩ := h.homes y hy
    exact ⟨z, hz, ez.trans ey⟩
  · obtain ⟨wu, bu⟩ := h.bytes hw
    obtain ⟨wv, bv⟩ := k.bytes wu
    refine ⟨wv, fun a ha => (bv a fun x hx => ?_).trans (bu a ha)⟩
    obtain ⟨y, hy, ey⟩ := h.homes x hx
    rw [← ey]
    exact ha y hy

theorem Fetches.foldl {α : Type} {f : State → α → State} (l : List α) (h : ∀ s, ∀ a ∈ l, Fetches p c n s (f s a)) (s : State) :
    Fetches p c n s (l.foldl f s) := by
  induction l generalizing s with
  | nil => exact .refl
  | cons a l ih => exact (h s a List.mem_cons_self).trans (ih (fun s b hb => h s b (List.mem_cons_of_mem _ hb)) _)

theorem Fetches.ite {b : Prop} [Decidable b] (h : Fetches p c n s u) (k : Fetches p c n s v) : Fetches p c n s (if b then u else v) := by
  split
  · exact h
  · exact k

/-! ## The changes of the parts of a state -/

theorem fetches_of_parts (h : (u.parts, u.mem, u.fe, u.cycle) = (s.parts, s.mem, s.fe, s.cycle)) : Fetches p c n s u := by
  simp only [Prod.mk.injEq] at h
  obtain ⟨h, hm, hf, hc⟩ := h
  have hp : u.part p = s.part p := by rw [State.part, h, State.part]
  refine ⟨hf, hc, fun x hx => ⟨x, by rw [← hp]; exact hx, rfl⟩, fun hw => ⟨by rw [hm]; exact hw, fun k _ => by
    rw [State.byte, hm, State.byte]⟩, fun e => ?_⟩
  rw [State.l1, State.core, hp]
  exact e

/-- A change of a partition that makes no home, and none of whose cores' fixed parts. -/
theorem fetches_modPart {f : Partition → Partition} (h : ((f (s.part p)).steep, (f (s.part p)).cores, (f (s.part p)).idleCore) =
    ((s.part p).steep, (s.part p).cores, (s.part p).idleCore)) : Fetches p c n s (s.modPart p f) := by
  simp only [Prod.mk.injEq] at h
  obtain ⟨hs, hc, hi⟩ := h
  refine ⟨rfl, rfl, fun x hx => ⟨x, ?_, rfl⟩, fun hw => ⟨hw, fun _ _ => rfl⟩, fun e => ?_⟩
  · rw [State.part_modPart, hs] at hx
    exact hx
  · rw [State.l1, State.core_modPart_of s p f fun d => by rw [Partition.core, hc, hi, Partition.core]]
    exact e

/-- A change of the homes of a partition that gives none a new key. -/
theorem fetches_modHomes {f : List SteepHome → List SteepHome} (h : ∀ x ∈ f (s.part p).steep, ∃ y ∈ (s.part p).steep, y.key = x.key) :
    Fetches p c n s (s.modPart p (fun q => { q with steep := f q.steep })) := by
  refine ⟨rfl, rfl, fun x hx => ?_, fun hw => ⟨hw, fun _ _ => rfl⟩, fun e => ?_⟩
  · rw [State.part_modPart] at hx
    exact h x hx
  · rw [State.l1, State.core_modPart_of s p _ fun _ => rfl]
    exact e

theorem fetches_modHome {l : Nat} {f : SteepHome → SteepHome} (h : ∀ x, (f x).key = x.key) :
    Fetches p c n s (s.modHome p l f) := by
  refine fetches_modHomes fun x hx => ?_
  obtain ⟨y, hy, rfl⟩ := List.mem_map.mp hx
  refine ⟨y, hy, ?_⟩
  split
  · exact (h y).symm
  · rfl

/-- A change of a core's fixed part that brings the line into no L1. -/
theorem fetches_modCopies {f : CoreFixed → CoreFixed}
    (h : ∀ k : CoreFixed, k.l1d.find? (fun l => l.line == n) = none → (f k).l1d.find? (fun l => l.line == n) = none) :
    Fetches p c n s (s.modCoreC p d f) := by
  refine ⟨rfl, rfl, fun x hx => ⟨x, ?_, rfl⟩, fun hw => ⟨hw, fun _ _ => rfl⟩, fun e => ?_⟩
  · rw [State.modCoreC, State.setCore, State.part_modPart] at hx
    exact hx
  · rw [State.l1] at e ⊢
    by_cases hd : c = d
    · subst hd
      rw [State.core_modCoreC]
      exact h _ e
    · rw [State.modCoreC, State.core_setCore_ne _ _ (Or.inr hd)]
      exact e

/-- A change of a core's fixed part beside its copies. -/
theorem fetches_modCoreC {f : CoreFixed → CoreFixed} (h : ∀ k, (f k).l1d = k.l1d) : Fetches p c n s (s.modCoreC p d f) :=
  fetches_modCopies fun k e => by rw [h]; exact e

theorem core_modCoreW_c (f : CoreWorld → CoreWorld) : ((s.modCoreW p d f).core p c).c = (s.core p c).c := by
  by_cases h : p = p ∧ c = d
  · obtain ⟨-, rfl⟩ := h
    rw [State.core_modCoreW]
  · rw [State.modCoreW, State.core_setCore_ne _ _ (not_and_or.mp h)]

theorem fetches_modCoreW {f : CoreWorld → CoreWorld} : Fetches p c n s (s.modCoreW p d f) := by
  refine ⟨rfl, rfl, fun x hx => ⟨x, ?_, rfl⟩, fun hw => ⟨hw, fun _ _ => rfl⟩, fun e => ?_⟩
  · rw [State.modCoreW, State.setCore, State.part_modPart] at hx
    exact hx
  · rw [State.l1, core_modCoreW_c]
    exact e

/-- A copy changed in its place brings no line. -/
theorem fetches_modL1 {l : Nat} {f : L1Line → L1Line} (h : ∀ x, (f x).line = x.line) : Fetches p c n s (s.modL1 p d l f) := by
  refine fetches_modCopies fun k e => ?_
  rw [List.find?_eq_none] at e ⊢
  intro x hx
  obtain ⟨y, hy, rfl⟩ := List.mem_map.mp hx
  have hl : (if y.line = l then f y else y).line = y.line := by
    split
    · exact h y
    · rfl
  rw [hl]
  exact e y hy

/-- Copies that leave an L1 bring no line. -/
theorem fetches_filterL1 {g : L1Line → Bool} : Fetches p c n s (s.modCoreC p d (fun k => { k with l1d := k.l1d.filter g })) :=
  fetches_modCopies fun _ e => List.find?_eq_none.mpr fun x hx => List.find?_eq_none.mp e x (List.mem_filter.mp hx).1

/-- A write of a line that a home holds. -/
theorem fetches_writeLine {x : SteepHome} {w : BitVec 1024} (h : x ∈ (s.part p).steep) : Fetches p c n s (s.writeLine x.key w) := by
  have hp : (s.writeLine x.key w).part p = s.part p := by rw [State.part, State.writeLine_parts, State.part]
  refine ⟨State.writeLine_fe .., State.writeLine_cycle .., fun y hy => ⟨y, by rw [← hp]; exact hy, rfl⟩, fun hw => ?_, fun e => ?_⟩
  · refine ⟨State.writeLine_wf _ _ _ hw, fun k hk => ?_⟩
    simp only [State.byte, State.writeLine]
    exact memByte_memWrite_out (hk x h) hw
  · rw [State.l1, State.core, hp]
    exact e

/-! ## Events, records and threads -/

theorem fetches_push {i : Instr} : Fetches p c n s (s.push i) := fetches_of_parts (by rfl)
theorem fetches_events {l : List Instr} : Fetches p c n s { s with events := l } := fetches_of_parts (by rfl)
theorem fetches_pushAll {l : List Instr} : Fetches p c n s (s.pushAll l) := fetches_of_parts (by rfl)

theorem fetches_modThreads {f : Thread → Thread} : Fetches p c n s (s.modThreads p f) :=
  Fetches.foldl _ (fun _ _ _ => fetches_modCoreW) s

theorem fetches_dumpStart {x : TrapRec} : Fetches p c n s (dumpStart s p x) := by
  rw [dumpStart]
  exact .ite (fetches_modThreads.trans (.ite (fetches_modPart (by rfl)) (.ite (.ite (.trans (fetches_modPart (by rfl)) fetches_push) (fetches_modPart (by rfl)))
    (fetches_modPart (by rfl))))) .refl

theorem fetches_postRecord {x : TrapRec} : Fetches p c n s (postRecord s p x) := .trans (fetches_modPart (by rfl)) fetches_dumpStart

theorem fetches_hwSet {x : SysReg} {b : Nat} : Fetches p c n s (s.hwSet p d x b) := fetches_of_parts (by rfl)
theorem fetches_mtsSet {x : SysReg} {w : Word} : Fetches p c n s (s.mtsSet p d x w) := fetches_of_parts (by rfl)

theorem fetches_noteWrap {i : Fin 4} : Fetches p c n s (noteWrap s p d i) :=
  (Fetches.trans fetches_modCoreW fetches_hwSet).trans (.ite (fetches_modCoreC (by exact fun _ => rfl)) .refl)

theorem fetches_countReg {k : Nat} {i : Fin 4} : Fetches p c n s (countReg s p d k i) := by
  rw [countReg]
  cases s.mtsWas p d (.pcnt i) with
  | none => exact .trans fetches_modCoreW (.ite fetches_noteWrap .refl)
  | some x => exact fetches_mtsSet.trans (.ite fetches_noteWrap .refl)

theorem fetches_count {code k : Nat} {sl : Option SlotId} : Fetches p c n s (s.count p d code sl k) :=
  .ite (Fetches.foldl _ (fun _ _ _ => fetches_countReg) s) .refl

/-! ## Caches and the steep protocol -/

theorem fetches_modSl {l : Nat} {f : SliceLine → SliceLine} : Fetches p c n s (s.modSl p l f) := fetches_modPart (by rfl)

theorem fetches_dropSl {l : Nat} : Fetches p c n s (s.dropSl p l) := fetches_modPart (by rfl)
theorem fetches_poisonLine {k : Nat} : Fetches p c n s (s.poisonLine k) := fetches_of_parts (by rfl)

theorem fetches_writeBack {l : Nat} : Fetches p c n s (s.writeBack p d l) := by
  rw [State.writeBack]
  cases s.l1 p d l with
  | none => exact .refl
  | some x => exact .ite .refl (fetches_modSl.trans (fetches_modL1 (by exact fun _ => rfl)))

theorem fetches_loseCopy {l : Nat} : Fetches p c n s (s.loseCopy p d l) := .trans (.trans fetches_writeBack fetches_filterL1) fetches_modSl

theorem fetches_invalidateAll {l : Nat} {keep : Option CoreId} : Fetches p c n s (s.invalidateAll p l keep) :=
  Fetches.foldl _ (fun _ _ _ => fetches_loseCopy) s

theorem fetches_homeAdd {l : Nat} {b : Bool} {x : BitVec 1024} : Fetches p c n s (s.homeAdd p d l b x) := fetches_modHome fun _ => rfl

theorem fetches_returnShare {l : Nat} {x : BitVec 32} : Fetches p c n s (s.returnShare p d l x) := by
  refine fetches_modHome fun y => ?_
  dsimp only
  split <;> rfl

theorem fetches_dropHolder {l : Nat} : Fetches p c n s (s.dropHolder p d l) := fetches_modCoreC fun _ => rfl
theorem fetches_modHolder {l : Nat} {f : Holder → Holder} : Fetches p c n s (s.modHolder p d l f) := fetches_modCoreC fun _ => rfl

/-- The homes of a partition stand while copies are invalidated. -/
theorem steep_invalidateAll (s : State) (p : PartId) (l : Nat) (keep : Option CoreId) :
    ((s.invalidateAll p l keep).part p).steep = (s.part p).steep := by
  refine foldl_keeps (fun u : State => (u.part p).steep) (fun u d => ?_) _ s
  rw [State.loseCopy, State.unshare, State.modSl, State.part_modPart, State.dropL1, State.modCoreC, State.setCore, State.part_modPart,
    State.writeBack]
  dsimp only
  cases u.l1 p d l with
  | none => rfl
  | some x =>
    dsimp only
    split
    · rfl
    · rw [State.modL1, State.modCoreC, State.setCore, State.part_modPart, State.dirtySlice, State.modSl, State.part_modPart]

theorem fetches_combineThese {l : Nat} {sel : Bool → Bool} : Fetches p c n s (s.combineThese p l sel) := by
  rw [State.combineThese]
  cases hx : s.steepHome p l with
  | none => exact .refl
  | some x =>
    have hm : x ∈ (((s.invalidateAll p l none).dirtySlice p l).part p).steep := by
      rw [State.dirtySlice, State.modSl, State.part_modPart]
      dsimp only
      rw [steep_invalidateAll]
      exact List.mem_of_find?_eq_some hx
    exact .ite .refl (.trans (.trans (fetches_invalidateAll.trans fetches_modSl) (fetches_writeLine hm)) (fetches_modHome (by exact fun _ => rfl)))

theorem fetches_combine {l : Nat} : Fetches p c n s (s.combine p l) := fetches_combineThese.trans fetches_combineThese

theorem fetches_answerLoad {l : Nat} : Fetches p c n s (s.answerLoad p l) := by
  rw [State.answerLoad]
  cases s.steepHome p l with
  | none => exact .refl
  | some x =>
    dsimp only
    cases x.load with
    | none => exact .refl
    | some y =>
      have h : Fetches p c n s ((s.combine p l).modHome p l fun x => { x with load := none, forcing := [] }) :=
        fetches_combine.trans (fetches_modHome (by exact fun _ => rfl))
      dsimp only
      split
      · exact .ite (h.trans fetches_push) h
      · exact h

theorem fetches_idleHome {l : Nat} : Fetches p c n s (s.idleHome p l) := by
  rw [State.idleHome]
  cases s.steepHome p l with
  | none => exact .refl
  | some x => exact .ite (fetches_modHomes fun y hy => ⟨y, (List.mem_filter.mp hy).1, rfl⟩) .refl

theorem fetches_releaseHome {l : Nat} : Fetches p c n s (s.releaseHome p l) := by
  rw [State.releaseHome]
  cases s.steepHome p l with
  | none => exact .refl
  | some x =>
    have h : Fetches p c n s (s.modHome p l fun x => { x with deferred := [] }) := fetches_modHome fun _ => rfl
    exact .ite (h.trans (fetches_events.trans fetches_idleHome)) .refl

theorem fetches_answered {l : Nat} : Fetches p c n s (answered s p d l) := by
  rw [answered]
  cases s.steepHome p l with
  | none => exact .refl
  | some x => exact (Fetches.trans (.trans (fetches_of_parts (by rfl)) (fetches_modHome (by exact fun _ => rfl))) (.ite fetches_answerLoad .refl)).trans fetches_releaseHome

theorem fetches_answerHolder {l : Nat} {i : Instr} : Fetches p c n s (answerHolder s p l i) := by
  rw [answerHolder]
  cases s.steepHome p l with
  | none => exact fetches_push
  | some x => exact .ite (fetches_modHome (by exact fun _ => rfl)) fetches_push

theorem fetches_takePour {l dom : Nat} {x : BitVec 1024} {a b : Bool} : Fetches p c n s (takePour s p d l dom x a b) := by
  rw [takePour]
  dsimp only
  cases (s.homeAdd p d l a x).steepHome p l with
  | none => exact fetches_homeAdd
  | some y => exact fetches_homeAdd.trans (.trans (fetches_modHome (by exact fun _ => rfl)) fetches_answerHolder)

theorem fetches_takeFpd {l : Nat} {x : BitVec 1024} {a : Bool} : Fetches p c n s (takeFpd s p d l x a) :=
  fetches_homeAdd.trans fetches_answered

theorem fetches_takeSret {l : Nat} {x : BitVec 1024} {a : Bool} {y : BitVec 32} : Fetches p c n s (takeSret s p d l x a y) :=
  ((fetches_homeAdd.trans fetches_combine).trans fetches_returnShare).trans fetches_answered

/-- A message of a line's holders taken by its home. -/
theorem fetches_takeMessage {l : Nat} {i : Instr} (h : fromHolder p l i = true) : Fetches p c n s (takeMessage s i) := by
  unfold takeMessage
  unfold fromHolder at h
  split at h
  · obtain ⟨rfl, -⟩ := Bool.and_eq_true_iff.mp h |>.imp_left beq_iff_eq.mp
    exact fetches_takePour
  · obtain ⟨rfl, -⟩ := Bool.and_eq_true_iff.mp h |>.imp_left beq_iff_eq.mp
    exact fetches_takeFpd
  · obtain ⟨rfl, -⟩ := Bool.and_eq_true_iff.mp h |>.imp_left beq_iff_eq.mp
    exact fetches_takeSret
  · cases h

theorem fetches_absorb {l : Nat} : Fetches p c n s (s.absorb p l) :=
  .trans (fetches_of_parts (by rfl)) (Fetches.foldl (f := takeMessage) _ (fun _ _ hi => fetches_takeMessage (List.mem_filter.mp hi).2) _)

theorem fetches_forceHolder {l : Nat} : Fetches p c n s (forceHolder s p d l) := by
  rw [forceHolder]
  cases s.holder p d l with
  | none => exact .refl
  | some x => exact fetches_homeAdd.trans fetches_modHolder

theorem fetches_finishLoad {l : Nat} : Fetches p c n s (s.finishLoad p l) := by
  rw [State.finishLoad]
  cases (s.absorb p l).steepHome p l with
  | none => exact fetches_absorb
  | some x => exact .ite (fetches_absorb.trans (Fetches.foldl _ (fun _ _ _ => fetches_forceHolder.trans fetches_answered) _)) fetches_absorb

theorem fetches_surrender {l : Nat} : Fetches p c n s (s.surrender p d l) := by
  rw [State.surrender]
  cases s.holder p d l with
  | none => exact fetches_returnShare
  | some x => exact (fetches_homeAdd.trans fetches_returnShare).trans fetches_dropHolder

theorem fetches_revokeAll {l : Nat} : Fetches p c n s (s.revokeAll p l) := by
  rw [State.revokeAll]
  cases s.steepHome p l with
  | none => exact .refl
  | some x =>
    exact (Fetches.trans (.trans (.trans fetches_finishLoad (fetches_of_parts (by rfl)))
      (Fetches.foldl _ (fun _ _ _ => fetches_surrender) _))
      (fetches_combine.trans (fetches_modHome (by exact fun _ => rfl)))).trans fetches_releaseHome

theorem fetches_evictHolder {l : Nat} : Fetches p c n s (evictHolder s p d l) := by
  rw [evictHolder]
  cases (s.absorb p l).holder p d l with
  | none => exact fetches_absorb
  | some x => exact fetches_absorb.trans (fetches_dropHolder.trans fetches_takeSret)

/-! ## Reads and misses at a home -/

theorem fetches_disarm : Fetches p c n s (disarm s p) := .ite .refl (fetches_modPart (by rfl))

theorem fetches_loseLine {l : SliceLine} {corr : BitVec 32} : Fetches p c n s (loseLine s p l corr) := by
  rw [loseLine]
  exact .trans (.trans (.trans (fetches_revokeAll.trans fetches_invalidateAll) fetches_dropSl) fetches_poisonLine) fetches_postRecord

theorem fetches_retirePage {l : SliceLine} : Fetches p c n s (retirePage s p l) := by
  rw [retirePage]
  have h : Fetches p c n s ((s.part p).coreIds.foldl (fun s d => s.modCoreC p d (fun k => { k with
      plb := k.plb.filter (fun e => !e.leaf.covers (l.line * 128)) })) s) := Fetches.foldl _ (fun _ _ _ => (fetches_modCoreC (by exact fun _ => rfl))) s
  exact (h.trans (.trans (fetches_modPart (by rfl)) fetches_pushAll)).trans fetches_postRecord

theorem fetches_quarantine {l : SliceLine} : Fetches p c n s (quarantine s p l) := by
  rw [quarantine]
  exact .ite (fetches_modPart (by rfl)) (.ite (fetches_modPart (by rfl)) (.ite fetches_retirePage .refl))

theorem fetches_sliceEvict {l : Nat} : Fetches p c n s (sliceEvict s p l) := by
  have h : Fetches p c n s ((s.revokeAll p l).invalidateAll p l none) := fetches_revokeAll.trans fetches_invalidateAll
  rw [sliceEvict]
  cases ((s.revokeAll p l).invalidateAll p l none).sl p l with
  | none => exact h
  | some x => exact .ite (h.trans (.trans (fetches_disarm.trans fetches_quarantine) fetches_loseLine)) (h.trans (fetches_modPart (by rfl)))

theorem fetches_chooseWay {l w : Nat} (h : chooseWay s p l = some (w, u)) : Fetches p c n s u := by
  rw [chooseWay] at h
  cases hf : s.freeWay p l with
  | some w' =>
    rw [hf] at h
    obtain ⟨-, rfl⟩ := Prod.mk.inj (Option.some.inj h)
    exact .refl
  | none =>
    rw [hf] at h
    dsimp only at h
    split at h
    · split at h
      · split at h
        · obtain ⟨w', -, e⟩ := Option.map_eq_some_iff.mp h
          obtain ⟨-, rfl⟩ := Prod.mk.inj e
          exact fetches_sliceEvict
        · obtain ⟨-, rfl⟩ := Prod.mk.inj (Option.some.inj h)
          exact fetches_sliceEvict
      · cases h
    · cases h

theorem fetches_fillSlice {l : Nat} {x : Leaf} (h : fillSlice s p l x = some u) : Fetches p c n s u := by
  rw [fillSlice] at h
  split at h
  · obtain rfl := Option.some.inj h
    exact fetches_modPart (by rfl)
  · obtain ⟨⟨w, v⟩, hw, rfl⟩ := Option.map_eq_some_iff.mp h
    exact (fetches_chooseWay hw).trans (fetches_modPart (by rfl))

theorem fetches_l2Error {l : Nat} {corr : BitVec 32} : Fetches p c n s (l2Error s p l corr) := by
  rw [l2Error]
  cases s.sl p l with
  | none => exact .refl
  | some x =>
    refine .ite (fetches_quarantine.trans fetches_loseLine) ?_
    have h : Fetches p c n s ((quarantine s p x).modPart p (fun q => { q with corrected := q.corrected + 1 })) :=
      fetches_quarantine.trans (fetches_modPart (by rfl))
    dsimp only
    split
    · next w u hw => exact h.trans ((fetches_chooseWay hw).trans fetches_modSl)
    · exact .ite (h.trans fetches_sliceEvict) h

theorem fetches_homeRead {l : Nat} {g : BitVec 2} {corr : BitVec 32} : Fetches p c n s (homeRead s p l g corr) := by
  rw [homeRead]
  exact .ite (fetches_disarm.trans fetches_l2Error) .refl

/-- The state that a lookup at a home leaves. -/
def Fill.left : Fill → State
  | .ok _ s => s
  | .stale s => s
  | .fault _ s => s
  | .full s => s

theorem fetches_sliceWalk {ea : Word} : Fetches p c n s (sliceWalk s p ea).2 := by
  rw [sliceWalk]
  split
  · split <;> exact .refl
  · cases walkPage s p ea with
    | leaf l =>
      exact fetches_modPart (f := fun q => { q with
        tcache := kput q.tcache (homeSlice (lineOf ea)).val
          ((l :: ((kget (s.part p).tcache (homeSlice (lineOf ea)).val).getD [])).take 512) }) (by rfl)
    | _ => exact .refl

theorem fetches_freshWalk {ea : Word} : Fetches p c n s (freshWalk s p ea).2 := by
  rw [freshWalk]
  exact .trans (fetches_modPart (by rfl)) fetches_sliceWalk

theorem fetches_homeMiss {l dom : Nat} {w : Walked × State} (h : Fetches p c n s w.2) : Fetches p c n s (homeMiss p l dom w).left := by
  unfold homeMiss
  split
  · split
    · split
      · next v hv => exact h.trans (fetches_fillSlice hv)
      · exact h
    · exact h
  · exact h

theorem fetches_homeLookup {l dom : Nat} : Fetches p c n s (homeLookup s p l dom).left := by
  rw [homeLookup]
  split
  · split
    · exact .refl
    · split
      · exact .refl
      · exact fetches_homeMiss (fetches_sliceEvict.trans fetches_freshWalk)
  · exact fetches_homeMiss fetches_sliceWalk

theorem fetches_listWalk {a : Word} {w : Walked} : Fetches p c n s (listWalk s p a w) := by
  unfold listWalk
  split
  · have h : ∀ frame, Fetches p c n s (poisonTable s p frame).1 := fun frame => by
      rw [poisonTable]
      split
      · exact .refl
      · split
        · exact fetches_modPart (f := fun q => { q with badTables := nput q.badTables frame }) (by rfl)
        · exact .refl
    exact .ite ((h _).trans fetches_postRecord) (h _)
  · exact .refl

theorem fetches_plbEntry {ctx : BitVec 8} {ea : Word} {e : PlbEntry} (h : plbEntry s p d ctx ea = .ok (e, u)) : Fetches p c n s u := by
  unfold plbEntry at h
  split at h
  · split at h
    · cases h
    · obtain ⟨-, rfl⟩ := Prod.mk.inj (Except.ok.inj h)
      exact fetches_modCoreC fun _ => rfl
  · have hw : Fetches p c n s (sliceWalk s p ea).2 := fetches_sliceWalk
    split at h
    · next l v hv =>
      obtain ⟨-, rfl⟩ := Prod.mk.inj (Except.ok.inj h)
      rw [hv] at hw
      exact hw.trans (fetches_modCoreC (by exact fun _ => rfl))
    · cases h

theorem fetches_plbLookup {t : Thread} {x : Word} {e : PlbEntry} (hr : r.part = p) (h : plbLookup s r t x = .ok (e, u)) :
    Fetches p c n s u := by
  subst hr
  exact Fetches.trans (.ite fetches_count .refl) (fetches_plbEntry h)

theorem fetches_l1Mismatch {l dom : Nat} : Fetches p c n s (l1Mismatch s p d l dom) := by
  rw [l1Mismatch]
  cases s.l1 p d l with
  | none => exact .refl
  | some x => exact .ite .refl fetches_loseCopy

theorem fetches_l1Room {l : Nat} : Fetches p c n s (l1Room s p d l) := by
  rw [l1Room]
  refine .ite .refl ?_
  split
  · exact fetches_loseCopy
  · exact fetches_evictHolder
  · exact .refl

end
end Sys2Proof.Machine
end

section
/-! SUPPORT. The words on a line (12 R207, R210; 15 R251 to R256). -/
namespace Sys2Proof.Machine

/-! ## PREF -/

/-- A prefetch does what a fetch does, at most with the line brought into the L1 at the end, clean in E or S. -/
def Prefetched (p : PartId) (c : CoreId) (n : Nat) (s u : State) : Prop :=
  Fetches p c n s u ∨ ∃ v x, Fetches p c n s v ∧ x.line = n ∧ (x.st = .e ∨ x.st = .s) ∧ x.dirty = 0 ∧
    u = v.modCoreC p c (fun k => { k with l1d := x :: k.l1d.filter (fun y => y.line != x.line) })

section
variable {p : PartId} {c : CoreId} {n : Nat} {s u v : State} {r : TRef} {t : Thread} {x : Word}

theorem Fetches.then (h : Fetches p c n s u) (k : Prefetched p c n u v) : Prefetched p c n s v := by
  rcases k with k | ⟨w, x, k, hx⟩
  · exact .inl (h.trans k)
  · exact .inr ⟨w, x, h.trans k, hx⟩

/-- What a prefetch leaves (R255): time, full bits, the bytes outside the steep lines, and no copy that was not there but clean in E or S. -/
theorem Prefetched.leaves (h : Prefetched p c n s u) : u.fe = s.fe ∧ u.cycle = s.cycle ∧
    (Memory.wf s.mem = true → ∀ k, (∀ h ∈ (s.part p).steep, k < h.key ∨ h.key + 128 ≤ k) → u.byte k = s.byte k) ∧
    ∀ y, u.l1 p c n = some y → s.l1 p c n = none → (y.st = .e ∨ y.st = .s) ∧ y.dirty = 0 := by
  rcases h with h | ⟨v, x, h, hl, hx, hd, rfl⟩
  · exact ⟨h.fe, h.cycle, fun hw => (h.bytes hw).2, fun y hy hn => absurd ((h.missing hn).symm.trans hy) nofun⟩
  · refine ⟨h.fe, h.cycle, fun hw => (h.bytes hw).2, fun y hy _ => ?_⟩
    rw [State.l1, State.core_modCoreC] at hy
    dsimp only at hy
    rw [List.find?_cons_of_pos (p := fun l : L1Line => l.line == n) (beq_iff_eq.mpr hl)] at hy
    obtain rfl := Option.some.inj hy
    exact ⟨hx, hd⟩

theorem fetches_forwardRead {d : CoreId} {l : Nat} : Fetches p c n s (s.forwardRead p d l) := fetches_modL1 fun _ => rfl

/-- GetS of the line that is asked for (R207). -/
theorem opGetS_prefetched : Prefetched p c n s (opGetS s p c n) := by
  cases hy : s.sl p n with
  | none => rw [opGetS_none hy]; exact .inl .refl
  | some y =>
    have h : Fetches p c n s (readThrough s p c n) :=
      Fetches.trans (Fetches.foldl _ (fun _ _ _ => fetches_forwardRead) s) fetches_modSl
    cases hx : (readThrough s p c n).l1 p c n with
    | some x =>
      rw [opGetS_refills hy hx]
      exact .inl (h.trans (fetches_modL1 fun _ => rfl))
    | none =>
      rw [opGetS_installs hy hx, l1Install]
      refine .inr ⟨_, _, h.trans fetches_l1Room, ?_, ?_, ?_, rfl⟩
      · rfl
      · dsimp only
        split
        · exact .inl rfl
        · exact .inr rfl
      · rfl

/-- A prefetch slot taken until the reply. -/
def slotTaken (s : State) (r : TRef) (line : Nat) (miss : Bool) : State :=
  s.modCoreC r.part r.core (fun c => { c with prefetches := busyPrefetches s r ++ [s.cycle + homeLat r.core line miss] })

theorem fetches_slotTaken {l : Nat} {miss : Bool} : Fetches r.part c n s (slotTaken s r l miss) := fetches_modCoreC fun _ => rfl

/-- The copy asked for at the home, once the line stands there. -/
def prefetchHome (s : State) (r : TRef) (line : Nat) (corr : BitVec 32) (miss : Bool) : State :=
  slotTaken (if miss then s else homeRead s r.part line 3 corr) r line miss

theorem fetches_prefetchHome {corr : BitVec 32} {miss : Bool} : Fetches r.part c n s (prefetchHome s r n corr miss) := by
  have h : Fetches r.part c n s (if miss then s else homeRead s r.part n 3 corr) := .ite .refl fetches_homeRead
  exact h.trans fetches_slotTaken

/-- The copy brought into the L1, where the line stands whole at its home. -/
def prefetchEnd (s : State) (r : TRef) (line : Nat) : State :=
  match s.sl r.part line with
  | some y => if s.linePoisoned y.key then s else opGetS s r.part r.core line
  | none => s

theorem prefetchEnd_prefetched : Prefetched r.part r.core n s (prefetchEnd s r n) := by
  rw [prefetchEnd]
  split
  · split
    · exact .inl .refl
    · exact opGetS_prefetched
  · exact .inl .refl

theorem prefetchLine_prefetched (k : Nat) (s : State) : Prefetched r.part r.core (lineOf x) s (prefetchLine k s r t x) := by
  induction k generalizing s with
  | zero => exact .inl .refl
  | succ k ih =>
    rw [prefetchLine]
    cases hp : plbLookup s r t x with
    | error e => exact .inl .refl
    | ok y =>
      obtain ⟨e, s1⟩ := y
      have h1 : Fetches r.part r.core (lineOf x) s s1 := fetches_plbLookup rfl hp
      have h2 : Fetches r.part r.core (lineOf x) s (homeLookup (l1Mismatch s1 r.part r.core (lineOf x) e.leaf.dom) r.part (lineOf x)
          e.leaf.dom).left := h1.trans (fetches_l1Mismatch.trans fetches_homeLookup)
      dsimp only
      split
      · exact .inl h1
      split
      · exact .inl h1
      cases hh : homeLookup (l1Mismatch s1 r.part r.core (lineOf x) e.leaf.dom) r.part (lineOf x) e.leaf.dom with
      | ok miss s2 =>
        rw [hh] at h2
        change Prefetched _ _ _ s (prefetchEnd (prefetchHome s2 r (lineOf x) t.corr miss) r (lineOf x))
        exact (h2.trans fetches_prefetchHome).then prefetchEnd_prefetched
      | stale s2 =>
        rw [hh] at h2
        have h3 : Fetches r.part r.core (lineOf x) s2 (plbDrop s2 r.part r.core t.ctx (va57 x)) := fetches_modCoreC fun _ => rfl
        exact (h2.trans h3).then (ih _)
      | fault w s2 =>
        rw [hh] at h2
        exact .inl (h2.trans fetches_listWalk)
      | full s2 =>
        rw [hh] at h2
        exact .inl h2

theorem prefetch_prefetched : Prefetched r.part r.core (lineOf x) s (prefetch s r t x) := by
  rw [prefetch]
  split
  · exact .inl .refl
  · exact prefetchLine_prefetched 2 s

theorem prefetch_special (h : ¬ (canonical x = true ∧ inWindowRegion x = false ∧ inRemoteRegion x = false)) : prefetch s r t x = s := by
  refine if_pos ?_
  cases hc : canonical x <;> cases hw : inWindowRegion x <;> cases hr : inRemoteRegion x <;> simp_all

theorem prefetch_busy (h : 16 ≤ (busyPrefetches s r).length) : prefetch s r t x = s := if_pos (by rw [decide_eq_true h, Bool.or_true])

theorem prefetchWaits_special (h : ¬ (canonical x = true ∧ inWindowRegion x = false ∧ inRemoteRegion x = false)) :
    prefetchWaits s r t x = false := by
  rw [prefetchWaits]
  cases hc : canonical x <;> cases hw : inWindowRegion x <;> cases hr : inRemoteRegion x <;> simp_all

end

section
variable {s : State} {t : Thread} {a : Src} (h : Ready s t [a])
include h

omit h in
theorem exec_pref : exec (.pref a) s = runWord [a] (fun r t s =>
    if prefetchWaits s r t (t.rd a) then .wait .queue s else .done Commit.none (prefetch s r t (t.rd a))) s := rfl

theorem pref_waits (hw : prefetchWaits s s.cur.at_ t (t.rd a) = true) : Waits s s (exec (.pref a) s) .queue := by
  rw [exec_pref]
  exact runWord_waits h (if_pos hw)

theorem pref_commits (hw : prefetchWaits s s.cur.at_ t (t.rd a) = false) :
    Commits s (prefetch s s.cur.at_ t (t.rd a)) [a] (exec (.pref a) s) Commit.none := by
  rw [exec_pref]
  exact runWord_commits h (if_neg (Bool.eq_false_iff.mp hw))

theorem pref_dropped (hw : prefetchWaits s s.cur.at_ t (t.rd a) = false) (hp : prefetch s s.cur.at_ t (t.rd a) = s) :
    Completes s t [a] (exec (.pref a) s) Commit.none := by
  rw [exec_pref]
  exact runWord_completes h ((if_neg (Bool.eq_false_iff.mp hw)).trans (by rw [hp])) rfl rfl

end

/-! ## The checks that CWB, CINV and IINV share -/

/-- The checks of a word on a line, and what it does once its page has been found. -/
def lineChecked (a : Src) (goes : TRef → Thread → Leaf → State → Res) (r : TRef) (t : Thread) (s : State) : Res :=
  (lineSpecial (t.rd a) s).getD (match lineRight s r t (t.rd a) with
    | .error e => e
    | .ok (l, s) => goes r t l s)

section
variable {s s1 : State} {r : TRef} {t : Thread} {a : Src} {e : PlbEntry} {goes : TRef → Thread → Leaf → State → Res}

theorem lineChecked_form (hc : canonical (t.rd a) = false) : lineChecked a goes r t s = .trap .address (some (t.rd a)) s := by
  rw [lineChecked, lineSpecial, hc]
  rfl

theorem lineChecked_window (hc : canonical (t.rd a) = true) (hw : inWindowRegion (t.rd a) = true) :
    lineChecked a goes r t s = .done Commit.none s := by
  rw [lineChecked, lineSpecial, hc, hw]
  rfl

theorem lineChecked_remote (hc : canonical (t.rd a) = true) (hw : inWindowRegion (t.rd a) = false) (hr : inRemoteRegion (t.rd a) = true) :
    lineChecked a goes r t s = .trap .address (some (t.rd a)) s := by
  rw [lineChecked, lineSpecial, hc, hw, hr]
  rfl

variable (hp : canonical (t.rd a) = true ∧ inWindowRegion (t.rd a) = false ∧ inRemoteRegion (t.rd a) = false)
include hp

theorem lineSpecial_plain : lineSpecial (t.rd a) s = none := by
  obtain ⟨hc, hw, hr⟩ := hp
  rw [lineSpecial, hc, hw, hr]
  rfl

theorem lineChecked_dropped {x : Res} (hl : plbLookup s r t (t.rd a) = .error x) : lineChecked a goes r t s = x := by
  rw [lineChecked, lineSpecial_plain hp, lineRight, hl]
  rfl

theorem lineChecked_denied (hl : plbLookup s r t (t.rd a) = .ok (e, s1)) (hr : rightsOf e.domValid e.leaf.dom e.rights t.priv &&& 5 = 0) :
    lineChecked a goes r t s = .trap .protection (some (t.rd a)) s1 := by
  have h : lineRight s r t (t.rd a) = .error (.trap .protection (some (t.rd a)) s1) := by
    rw [lineRight, hl]
    exact if_pos hr
  rw [lineChecked, lineSpecial_plain hp, h]
  rfl

theorem lineChecked_goes (hl : plbLookup s r t (t.rd a) = .ok (e, s1)) (hr : rightsOf e.domValid e.leaf.dom e.rights t.priv &&& 5 ≠ 0) :
    lineChecked a goes r t s = goes r t e.leaf s1 := by
  have h : lineRight s r t (t.rd a) = .ok (e.leaf, s1) := by
    rw [lineRight, hl]
    exact if_neg hr
  rw [lineChecked, lineSpecial_plain hp, h]
  rfl

end

/-- What CWB does once its page has been found. -/
def cwbGoes (a : Src) (r : TRef) (t : Thread) (l : Leaf) (s : State) : Res :=
  if lineReds s r t l (t.rd a) then .wait .queue s else writeBackLine s r (lineOf (t.rd a))

/-- The copy of a line gone from its L1. -/
def lineGone (s : State) (r : TRef) (line : Nat) : State :=
  (s.holder r.part r.core line).elim (s.loseCopy r.part r.core line) (fun _ => evictHolder s r.part r.core line)

/-- What CINV does once its page has been found. -/
def cinvGoes (a : Src) (r : TRef) (t : Thread) (l : Leaf) (s : State) : Res :=
  if lineReds s r t l (t.rd a) || addmPending s r.part t.tid (lineOf (t.rd a)) then .wait .queue s
  else .done (Commit.none.late 12) (lineGone s r (lineOf (t.rd a)))

/-- A line gone from every L1 instruction cache. -/
def fetchedGone (s : State) (p : PartId) (line : Nat) : State :=
  (s.part p).coreIds.foldl (fun s c => s.modCoreC p c (fun k => { k with l1i := k.l1i.filter (fun l => l.line != line) })) s

/-- What IINV does once its page has been found. -/
def iinvGoes (a : Src) (r : TRef) (t : Thread) (l : Leaf) (s : State) : Res :=
  if lineReds s r t l (t.rd a) || addmPending s r.part t.tid (lineOf (t.rd a)) then .wait .queue s
  else .done (Commit.none.late 12) (fetchedGone s r.part (lineOf (t.rd a)))

section
variable {s s1 : State} {t : Thread} {a : Src}

/-- CWB that waits for no PACK checks its line. -/
theorem cwb_checked (h : Ready s t [a]) (hw : t.wait ≠ some (.pack (lineOf (t.rd a)))) :
    exec (.cwb a) s = runWord [a] (lineChecked a (cwbGoes a)) s := by
  change execCwb a s = _
  rw [execCwb]
  refine runWord_congr h ((if_neg hw).trans ?_)
  rw [lineChecked]
  cases lineSpecial (t.rd a) s with
  | some e => rfl
  | none => rfl

theorem cinv_checked (h : Ready s t [a]) : exec (.cinv a) s = runWord [a] (lineChecked a (cinvGoes a)) s := by
  change execCinv a s = _
  rw [execCinv]
  refine runWord_congr h ?_
  rw [lineChecked]
  dsimp only
  cases lineSpecial (t.rd a) s with
  | some e => rfl
  | none =>
    cases lineRight s s.cur.at_ t (t.rd a) with
    | error e => rfl
    | ok y =>
      obtain ⟨l, u⟩ := y
      dsimp only
      rw [Option.getD_none, cinvGoes, lineGone]
      cases u.holder s.cur.at_.part s.cur.at_.core (lineOf (t.rd a)) <;> rfl

theorem iinv_checked (h : Ready s t [a]) : exec (.iinv a) s = runWord [a] (lineChecked a (iinvGoes a)) s := by
  change execIinv a s = _
  rw [execIinv]
  refine runWord_congr h ?_
  rw [lineChecked]
  dsimp only
  cases lineSpecial (t.rd a) s with
  | some e => rfl
  | none => rfl

end

end Sys2Proof.Machine
end

section
/-! SUPPORT. What CWB, CINV, IINV and PLBI leave (15 R251 to R256). -/
namespace Sys2Proof.Machine

section
variable {s s1 : State} {t : Thread} {a : Src} {e : PlbEntry}

/-- The three words on a line pass the same checks, CWB where it waits for no PACK. -/
theorem line_checked (h : Ready s t [a]) (hw : t.wait ≠ some (.pack (lineOf (t.rd a)))) {i : Instr}
    (hi : i ∈ ([.cwb a, .cinv a, .iinv a] : List Instr)) : ∃ goes, exec i s = runWord [a] (lineChecked a goes) s := by
  simp only [List.mem_cons, List.not_mem_nil, or_false] at hi
  rcases hi with rfl | rfl | rfl
  · exact ⟨_, cwb_checked h hw⟩
  · exact ⟨_, cinv_checked h⟩
  · exact ⟨_, iinv_checked h⟩

/-! ## CWB (R252) -/

section
variable {r : TRef} {line : Nat} {k : Holder} {y : L1Line}

theorem writeBackLine_poured (hk : s.holder r.part r.core line = some k) (hg : k.g = 0 ∨ s.linePoisoned k.key = true) :
    writeBackLine s r line = .done (Commit.none.late 12) s := by
  rw [writeBackLine, hk]
  exact if_pos (by rcases hg with h | h <;> simp [h])

theorem writeBackLine_pours (hk : s.holder r.part r.core line = some k) (hg : k.g ≠ 0) (hp : s.linePoisoned k.key = false) :
    writeBackLine s r line = .wait (.pack line) (pourHolder s r.part r.core line false) := by
  rw [writeBackLine, hk]
  refine if_neg ?_
  rw [hp, Bool.or_false, decide_eq_true_iff]
  exact hg

/-- The state of a copy once its dirty sectors are at the home (R252). -/
def cleaned : Moesi → Moesi
  | .m => .e
  | .o => .s
  | .e => .e
  | .s => .s

theorem cleaned_clean (x : Moesi) : cleaned x = .e ∨ cleaned x = .s := by cases x <;> simp [cleaned]

/-- The L1's copy left clean, its dirty sectors at the home. -/
def copyCleaned (s : State) (r : TRef) (line : Nat) (st : Moesi) : State :=
  (s.writeBack r.part r.core line).modL1 r.part r.core line (fun l => { l with st := cleaned st })

variable (hk : s.holder r.part r.core line = none)
include hk

theorem writeBackLine_cleans (hy : s.l1 r.part r.core line = some y) (hp : s.linePoisoned y.key = false) :
    writeBackLine s r line = .done (Commit.none.late 12) (copyCleaned s r line y.st) := by
  rw [writeBackLine, hk]
  dsimp only
  rw [hy]
  refine (if_neg (by rw [hp]; decide)).trans ?_
  rw [copyCleaned]
  cases y.st <;> rfl

theorem writeBackLine_idle (hy : s.l1 r.part r.core line = none ∨ ∃ y, s.l1 r.part r.core line = some y ∧ s.linePoisoned y.key = true) :
    writeBackLine s r line = .done (Commit.none.late 12) s := by
  rw [writeBackLine, hk]
  rcases hy with hy | ⟨y, hy, hp⟩
  · rw [hy]
  · rw [hy]
    exact if_pos hp

end

theorem copyCleaned_mem (r : TRef) (line : Nat) (st : Moesi) : (copyCleaned s r line st).mem = s.mem := by
  rw [copyCleaned, State.modL1, State.modCoreC_mem]
  rcases s.writeBack_cases r.part r.core line with e | e <;> rw [e]
  rfl

/-- The dirty sectors of a cleaned copy are at the home. -/
theorem copyCleaned_home {r : TRef} {line : Nat} {st : Moesi} {x : L1Line} {y : SliceLine} (hx : s.l1 r.part r.core line = some x)
    (hd : x.dirty ≠ 0) (hy : (copyCleaned s r line st).sl r.part line = some y) : y.dirty = true := by
  rw [copyCleaned, State.sl_modL1, s.writeBack_dirty _ _ _ hx hd, State.sl_modL1, State.dirtySlice,
    State.sl_modSl _ _ _ (fun _ => by rfl)] at hy
  obtain ⟨z, -, rfl⟩ := Option.map_eq_some_iff.mp hy
  rfl

/-- A cleaned copy has nothing dirty, in E or S. -/
theorem copyCleaned_copy {r : TRef} {line : Nat} {st : Moesi} {y : L1Line} (hy : (copyCleaned s r line st).l1 r.part r.core line = some y) :
    y.dirty = 0 ∧ (y.st = .e ∨ y.st = .s) := by
  rw [copyCleaned, State.l1_modL1 _ _ _ _ (fun _ => by rfl)] at hy
  obtain ⟨z, hz, rfl⟩ := Option.map_eq_some_iff.mp hy
  refine ⟨?_, cleaned_clean st⟩
  change z.dirty = 0
  by_cases hc : ∀ x, s.l1 r.part r.core line = some x → x.dirty = 0
  · rw [s.writeBack_clean _ _ _ hc] at hz
    exact hc z hz
  · push Not at hc
    obtain ⟨x, hx, hd⟩ := hc
    rw [s.writeBack_dirty _ _ _ hx hd, State.l1_modL1 _ _ _ _ (fun _ => by rfl)] at hz
    obtain ⟨w, -, rfl⟩ := Option.map_eq_some_iff.mp hz
    rfl

section
variable (h : Ready s t [a])
include h

theorem cwb_unpacked (hw : t.wait = some (.pack (lineOf (t.rd a)))) :
    ((s.holder s.cur.at_.part s.cur.at_.core (lineOf (t.rd a))).any (fun h => h.f != 0) = true →
      Waits s s (exec (.cwb a) s) (.pack (lineOf (t.rd a)))) ∧
    ((s.holder s.cur.at_.part s.cur.at_.core (lineOf (t.rd a))).any (fun h => h.f != 0) = false →
      Completes s t [a] (exec (.cwb a) s) Commit.none) := by
  change (_ → Waits s s (execCwb a s) _) ∧ (_ → Completes s t [a] (execCwb a s) _)
  rw [execCwb]
  exact ⟨fun hf => runWord_waits h ((if_pos hw).trans (if_pos hf)),
    fun hf => runWord_completes h ((if_pos hw).trans (if_neg (Bool.eq_false_iff.mp hf))) rfl rfl⟩

variable (hp : canonical (t.rd a) = true ∧ inWindowRegion (t.rd a) = false ∧ inRemoteRegion (t.rd a) = false)
  (hl : plbLookup s s.cur.at_ t (t.rd a) = .ok (e, s1)) (hr : rightsOf e.domValid e.leaf.dom e.rights t.priv &&& 5 ≠ 0)
include hp hl hr

theorem cwb_behind (hw : t.wait ≠ some (.pack (lineOf (t.rd a)))) (hb : lineReds s1 s.cur.at_ t e.leaf (t.rd a) = true) :
    Waits s s1 (exec (.cwb a) s) .queue := by
  rw [cwb_checked h hw]
  exact runWord_waits h ((lineChecked_goes hp hl hr).trans (if_pos hb))

omit h in
/-- CWB behind no RED does what `writeBackLine` says. -/
theorem cwb_goes (hw : t.wait ≠ some (.pack (lineOf (t.rd a)))) (hb : lineReds s1 s.cur.at_ t e.leaf (t.rd a) = false) :
    lineChecked a (cwbGoes a) s.cur.at_ t s = writeBackLine s1 s.cur.at_ (lineOf (t.rd a)) :=
  (lineChecked_goes hp hl hr).trans (if_neg (Bool.eq_false_iff.mp hb))

/-! ## CINV and IINV (R253, R254) -/

theorem line_behind (hb : (lineReds s1 s.cur.at_ t e.leaf (t.rd a) || addmPending s1 s.cur.at_.part t.tid (lineOf (t.rd a))) = true) :
    Waits s s1 (exec (.cinv a) s) .queue ∧ Waits s s1 (exec (.iinv a) s) .queue := by
  rw [cinv_checked h, iinv_checked h]
  exact ⟨runWord_waits h ((lineChecked_goes hp hl hr).trans (if_pos hb)), runWord_waits h ((lineChecked_goes hp hl hr).trans (if_pos hb))⟩

variable (hb : (lineReds s1 s.cur.at_ t e.leaf (t.rd a) || addmPending s1 s.cur.at_.part t.tid (lineOf (t.rd a))) = false)
include hb

theorem cinv_commits : Commits s (lineGone s1 s.cur.at_ (lineOf (t.rd a))) [a] (exec (.cinv a) s) (Commit.none.late 12) := by
  rw [cinv_checked h]
  exact runWord_commits h ((lineChecked_goes hp hl hr).trans (if_neg (Bool.eq_false_iff.mp hb)))

theorem iinv_commits : Commits s (fetchedGone s1 s.cur.at_.part (lineOf (t.rd a))) [a] (exec (.iinv a) s) (Commit.none.late 12) := by
  rw [iinv_checked h]
  exact runWord_commits h ((lineChecked_goes hp hl hr).trans (if_neg (Bool.eq_false_iff.mp hb)))

end

theorem lineGone_holder {r : TRef} {line : Nat} (hk : (s.holder r.part r.core line).isSome = true) :
    lineGone s r line = evictHolder s r.part r.core line := by
  obtain ⟨k, hk⟩ := Option.isSome_iff_exists.mp hk
  rw [lineGone, hk]
  rfl

theorem lineGone_copy {r : TRef} {line : Nat} (hk : s.holder r.part r.core line = none) : lineGone s r line = s.loseCopy r.part r.core line := by
  rw [lineGone, hk]
  rfl

/-- A core without a line in its instruction cache. -/
def Unfetched (p : PartId) (c : CoreId) (line : Nat) (s : State) : Prop := ∀ l ∈ (s.core p c).c.l1i, l.line ≠ line

theorem unfetched_step {p : PartId} {c d : CoreId} {line : Nat} (h : c = d ∨ Unfetched p c line s) :
    Unfetched p c line (s.modCoreC p d (fun k => { k with l1i := k.l1i.filter (fun l => l.line != line) })) := by
  intro l hl
  by_cases hd : c = d
  · subst hd
    rw [State.core_modCoreC] at hl
    exact bne_iff_ne.mp (List.mem_filter.mp hl).2
  · rw [State.modCoreC, State.core_setCore_ne _ _ (Or.inr hd)] at hl
    exact h.resolve_left hd l hl

theorem unfetched_fold (p : PartId) (c : CoreId) (line : Nat) (ds : List CoreId) (s : State) (h : c ∈ ds ∨ Unfetched p c line s) :
    Unfetched p c line (ds.foldl (fun s d => s.modCoreC p d (fun k => { k with l1i := k.l1i.filter (fun l => l.line != line) })) s) := by
  induction ds generalizing s with
  | nil => exact h.resolve_left List.not_mem_nil
  | cons d ds ih =>
    refine ih _ ?_
    rcases h with h | h
    · exact (List.mem_cons.mp h).symm.imp_right fun hd => unfetched_step (.inl hd)
    · exact .inr (unfetched_step (.inr h))

theorem fetchedGone_mem (p : PartId) (line : Nat) : (fetchedGone s p line).mem = s.mem :=
  foldl_keeps (fun u : State => u.mem) (fun _ _ => by rfl) _ s

/-! ## PLBI (R256) -/

section
variable (h : Ready s t [a])
include h

theorem plbi_refused (hv : t.priv = false) : Faults s s (exec (.plbi a) s) .privilege none := by
  change Faults s s (execPlbi a s) _ _
  rw [execPlbi]
  exact runWord_faults h (if_pos (by rw [hv]; rfl))

variable (hv : t.priv = true)
include hv

theorem plbi_form (hc : canonical (t.rd a) = false) : Faults s s (exec (.plbi a) s) .address (some (t.rd a)) := by
  change Faults s s (execPlbi a s) _ _
  rw [execPlbi]
  exact runWord_faults h ((if_neg (by rw [hv]; decide)).trans (if_pos (by rw [hc]; rfl)))

theorem plbi_special (hc : canonical (t.rd a) = true) (hw : inWindowRegion (t.rd a) = true ∨ inRemoteRegion (t.rd a) = true) :
    Completes s t [a] (exec (.plbi a) s) Commit.none := by
  change Completes s t [a] (execPlbi a s) _
  rw [execPlbi]
  exact runWord_completes h ((if_neg (by rw [hv]; decide)).trans ((if_neg (by rw [hc]; decide)).trans
    (if_pos (by rw [Bool.or_eq_true]; exact hw)))) rfl rfl

variable (hp : canonical (t.rd a) = true ∧ inWindowRegion (t.rd a) = false ∧ inRemoteRegion (t.rd a) = false)
include hp

theorem plbi_drops : exec (.plbi a) s = runWord [a] (fun _ _ _ =>
    if pageInUse (dropPage s s.cur.at_.part (t.rd a)) s.cur.at_.part (t.rd a) ||
      ((dropPage s s.cur.at_.part (t.rd a)).part s.cur.at_.part).slices.any (pageLine (t.rd a)) then
      .wait .queue (dropPage s s.cur.at_.part (t.rd a))
    else .done (Commit.none.late 2100) (dropPage s s.cur.at_.part (t.rd a))) s := by
  obtain ⟨hc, hw, hr⟩ := hp
  change execPlbi a s = _
  rw [execPlbi]
  refine runWord_congr h ((if_neg (by rw [hv]; decide)).trans ((if_neg (by rw [hc]; decide)).trans (if_neg (by rw [hw, hr]; decide))))

end

end

end Sys2Proof.Machine

open Sys2Proof Sys2Proof.Machine

/-- Settles O37: the words on a line share their checks; CWB, CINV, IINV and PLBI by what each leaves, and PREF as a fetch, whose writes to memory
are those of the homes that it combines. -/
theorem lineResults : Obligations.LineResults := by
  unfold Obligations.LineResults
  intro s s1 t a l drop e h r x line plain late
  refine ⟨fun i hi hw => ?_, fun hp hl hr hel => ?_, cwb_unpacked h, pref_waits h, fun hw => ?_, fun hn => ?_, fun hp hw hb => ?_,
    plbi_refused h, fun hv hc => plbi_form h hv hc, fun hv hc hw => plbi_special h hv hc hw, fun hv hp => ?_⟩
  · obtain ⟨goes, hg⟩ := line_checked h hw hi
    rw [hg]
    exact ⟨fun hc => runWord_faults h (lineChecked_form hc), fun hc hw => runWord_completes h (lineChecked_window hc hw) rfl rfl,
      fun hc hw hr => runWord_faults h (lineChecked_remote hc hw hr), fun hp hl => runWord_drops h (lineChecked_dropped hp hl),
      fun hp hl hr => runWord_faults h (lineChecked_denied hp hl hr)⟩
  · subst hel
    refine ⟨fun hw hb => cwb_behind h hp hl hr hw hb, fun hw hb => ?_, fun hb _ => line_behind h hp hl hr hb, fun hb => ⟨fun hk => ?_,
      fun hk => ?_, _, iinv_commits h hp hl hr hb, fetchedGone_mem .., fun c l hm hc => unfetched_fold _ _ _ _ _ (.inl hc) l hm⟩⟩
    · have hg := cwb_goes hp hl hr hw hb
      rw [cwb_checked h hw]
      exact ⟨fun k hk => ⟨fun hz => runWord_commits h (hg.trans (writeBackLine_poured hk hz)),
          fun hz hq => runWord_waits h (hg.trans (writeBackLine_pours hk hz hq))⟩,
        fun y hk hy hq => ⟨_, runWord_commits h (hg.trans (writeBackLine_cleans hk hy hq)), copyCleaned_mem ..,
          fun hd z hz => copyCleaned_home hy hd hz, fun z hz => copyCleaned_copy hz⟩,
        fun hk hy => runWord_commits h (hg.trans (writeBackLine_idle hk hy))⟩
    · have hc := cinv_commits h hp hl hr hb
      rw [lineGone_holder hk] at hc
      exact hc
    · have hc := cinv_commits h hp hl hr hb
      rw [lineGone_copy hk] at hc
      exact ⟨_, hc, State.l1_loseCopy .., loseCopy_mem ..⟩
  · exact ⟨_, pref_commits h hw, prefetch_prefetched.leaves⟩
  · exact pref_dropped h (prefetchWaits_special hn) (prefetch_special hn)
  · exact pref_dropped h hw (prefetch_busy hb)
  · rw [plbi_drops h hv hp]
    exact ⟨fun hu => runWord_waits h (if_pos hu), fun hu => runWord_commits h (if_neg (Bool.eq_false_iff.mp hu))⟩
end

section
/-! SUPPORT. Rounding towards zero over the reals, and the choice of one of the two values of a format that are nearest to a magnitude (10 R185). -/
namespace Sys2Proof.Machine

/-! ## Rounding towards zero at a unit -/

/-- n · 2^q is the multiple of 2^q at or below v. -/
structure FloorMultiple (v : ℝ) (q : Int) (n : Nat) : Prop where
  le : (n : ℝ) * 2 ^ q ≤ v
  lt : v < ((n : ℝ) + 1) * 2 ^ q

theorem FloorMultiple.unique {v : ℝ} {q : Int} {n k : Nat} (h : FloorMultiple v q n) (hk : FloorMultiple v q k) : n = k := by
  have hq := zpow_pos_two q
  have h1 : (n : ℝ) < (k : ℝ) + 1 := lt_of_mul_lt_mul_right (h.le.trans_lt hk.lt) hq.le
  have h2 : (k : ℝ) < (n : ℝ) + 1 := lt_of_mul_lt_mul_right (hk.le.trans_lt h.lt) hq.le
  have h1' : n < k + 1 := by exact_mod_cast h1
  have h2' : k < n + 1 := by exact_mod_cast h2
  omega

theorem FloorMultiple.ge_of_le {v : ℝ} {q : Int} {n k : Nat} (h : FloorMultiple v q n) (hv : (k : ℝ) * 2 ^ q ≤ v) : k ≤ n := by
  have h1 : (k : ℝ) < (n : ℝ) + 1 := lt_of_mul_lt_mul_right (hv.trans_lt h.lt) (zpow_pos_two q).le
  exact Nat.lt_succ_iff.mp (by exact_mod_cast h1)

theorem FloorMultiple.lt_of_lt {v : ℝ} {q : Int} {n k : Nat} (h : FloorMultiple v q n) (hv : v < (k : ℝ) * 2 ^ q) : n < k := by
  have h1 : (n : ℝ) < k := lt_of_mul_lt_mul_right (h.le.trans_lt hv) (zpow_pos_two q).le
  exact_mod_cast h1

/-- What `roundAt` gives towards zero: the multiple at or below the magnitude, and whether it is inexact. -/
theorem roundAt_floor {m : Nat} {e q : Int} {st : Bool} {v : ℝ} (h : Encloses m e st v) (hst : st = true → e < q) :
    FloorMultiple v q (roundAt .tz m e st q).1 ∧ ((roundAt .tz m e st q).2 = false ↔ v = ((roundAt .tz m e st q).1 : ℝ) * 2 ^ q) := by
  have hq := zpow_pos_two q
  by_cases hqe : q ≤ e
  · obtain rfl : st = false := by
      cases st with
      | false => rfl
      | true => exact absurd (hst rfl) (by omega)
    obtain ⟨hv, hx⟩ := roundAt_exact h hqe .tz
    exact ⟨⟨hv.ge, by rw [hv]; linarith⟩, by simp [hx, ← hv]⟩
  · rw [roundAt, if_neg hqe]
    obtain ⟨d, hv, hd0, hd1, hd⟩ := h.fraction
    have he := zpow_pos_two e
    have hpow : (2 : ℝ) ^ q = (2 ^ (q - e).toNat : Nat) * 2 ^ e := by
      rw [← zpow_add_nat]; congr 1; omega
    have hK : 0 < 2 ^ (q - e).toNat := Nat.two_pow_pos _
    dsimp only
    generalize 2 ^ (q - e).toNat = K at hpow hK ⊢
    have hm : (m : ℝ) = K * (m / K : Nat) + (m % K : Nat) := by exact_mod_cast (Nat.div_add_mod m K).symm
    have hr : ((m % K : Nat) : ℝ) + 1 ≤ K := by exact_mod_cast Nat.mod_lt m hK
    rw [if_neg Bool.false_ne_true]
    have hr0 : (0 : ℝ) ≤ (m % K : Nat) := Nat.cast_nonneg _
    rw [hm] at hv
    refine ⟨⟨?_, ?_⟩, ?_⟩
    · rw [hv, hpow, ← mul_assoc]
      exact mul_le_mul_of_nonneg_right (by linarith) he.le
    · rw [hv, hpow, ← mul_assoc]
      exact mul_lt_mul_of_pos_right (by linarith) he
    · rw [hv, hpow, ← mul_assoc, mul_left_inj' he.ne', Bool.not_eq_false', Bool.and_eq_true, beq_iff_eq, Bool.not_eq_true']
      constructor
      · rintro ⟨h0, hs⟩
        rw [h0, hd.mpr hs]
        push_cast; ring
      · intro hx
        have h0 : ((m % K : Nat) : ℝ) = 0 := by linarith
        exact ⟨by exact_mod_cast h0, hd.mp (by linarith)⟩

/-! ## The code at or below a magnitude -/

/-- What `roundMag` gives towards zero of a magnitude v: the last code whose value is not above v, made of a mantissa n in the binade j; and v
rounded without a bound on the exponent, from which overflow is judged. -/
structure FloorCode (mbits : Nat) (emin qu : Int) (v : ℝ) (c : Nat) : Prop where
  le : codeVal mbits emin c ≤ v
  lt : v < codeVal mbits emin (c + 1)
  normal : 2 ≤ c / 2 ^ mbits → codeUlp mbits emin c = 2 ^ qu
  lead : (2 : ℝ) ^ (qu + (mbits : Int)) ≤ v
  ahead : v < (2 : ℝ) ^ (qu + (mbits : Int) + 1)

theorem roundMag_floor {mbits m : Nat} {emin e : Int} {st : Bool} {v : ℝ} (maxc : Nat) (h : Encloses m e st v) (hm0 : m ≠ 0)
    (hst : st = true → mbits < Nat.log2 m) :
    let x := roundMag .tz mbits emin maxc m e st
    FloorCode mbits emin (e + (Nat.log2 m : Int) - mbits) v x.code ∧ (x.inexact = false ↔ v = codeVal mbits emin x.code) ∧
    ∃ n, FloorMultiple v (e + (Nat.log2 m : Int) - mbits) n ∧
      (x.beyond = true ↔ codeVal mbits emin maxc < (n : ℝ) * 2 ^ (e + (Nat.log2 m : Int) - mbits)) := by
  obtain ⟨hlo, hhi⟩ := h.log2 hm0
  have hlog (hs : st = true) : (mbits : Int) < Nat.log2 m := by exact_mod_cast hst hs
  have hP : 0 < 2 ^ mbits := Nat.two_pow_pos mbits
  simp only [roundMag]
  generalize hqu : e + (Nat.log2 m : Int) - mbits = qu
  have htop : e + (Nat.log2 m : Int) = qu + mbits := by omega
  rw [htop] at hlo hhi
  obtain ⟨j, hq, hj⟩ : ∃ j : Nat, (if qu < emin - mbits then emin - mbits else qu) = emin - mbits + (j : Int) ∧
      (j = 0 ∧ qu ≤ emin - mbits ∨ qu = emin - mbits + (j : Int)) := by
    split
    · exact ⟨0, by simp, .inl ⟨rfl, by omega⟩⟩
    · exact ⟨(qu - (emin - mbits)).toNat, by omega, .inr (by omega)⟩
  rw [hq, show (emin - mbits + (j : Int) - (emin - mbits)).toNat = j by omega]
  obtain ⟨hfloor, hexact⟩ := roundAt_floor h (q := emin - mbits + (j : Int)) (fun hs => by have := hlog hs; omega)
  generalize (roundAt .tz m e st (emin - mbits + (j : Int))).2 = inexact at hexact ⊢
  generalize (roundAt .tz m e st (emin - mbits + (j : Int))).1 = n at hfloor hexact ⊢
  have hn2 : n < 2 * 2 ^ mbits := by
    refine hfloor.lt_of_lt (hhi.trans_le ?_)
    rw [Nat.mul_comm, ← pow_succ, ← zpow_add_nat]
    exact zpow_le_zpow_right₀ one_le_two (by push_cast; omega)
  have hn1 : j = 0 ∨ 2 ^ mbits ≤ n := by
    refine hj.imp And.left (fun he => hfloor.ge_of_le ?_)
    rw [← zpow_add_nat, ← he]
    exact hlo
  have hval := codeVal_add_mul mbits emin hn2.le hn1
  have hval1 := codeVal_add_mul mbits emin (n := n + 1) (j := j) hn2 (hn1.imp_right (by omega))
  refine ⟨⟨by rw [hval]; exact hfloor.le, ?_, fun hc => ?_, hlo, hhi⟩, by rw [hexact, hval], _,
    (roundAt_floor h (fun hs => by have := hlog hs; omega)).1, magLt_iff _ _ _ _⟩
  · rw [show n + j * 2 ^ mbits + 1 = n + 1 + j * 2 ^ mbits by omega, hval1, Nat.cast_succ]
    exact hfloor.lt
  · have hdiv : (n + j * 2 ^ mbits) / 2 ^ mbits = n / 2 ^ mbits + j := Nat.add_mul_div_right _ _ hP
    have hn : n / 2 ^ mbits < 2 := Nat.div_lt_of_lt_mul (by omega)
    have hj1 : 1 ≤ j := by rw [hdiv] at hc; omega
    have hn' : n / 2 ^ mbits = 1 := by
      have := (Nat.one_le_div_iff hP).mpr (hn1.resolve_left (by omega))
      omega
    rw [codeUlp, hdiv, hn', hj.resolve_left (by omega)]
    congr 2
    omega

/-! ## One of the two nearest codes -/

/-- The code k is nearer to v than c is. -/
def NearerCode (mbits : Nat) (emin : Int) (v : ℝ) (k c : Nat) : Prop :=
  (k < c ∧ v < (codeVal mbits emin k + codeVal mbits emin c) / 2) ∨ (c < k ∧ (codeVal mbits emin k + codeVal mbits emin c) / 2 < v)

/-- c is one of the two codes nearest to v, and v's own where v is a code's value: at most the code i is nearer. -/
structure TwoNearest (mbits : Nat) (emin : Int) (v : ℝ) (c : Nat) : Prop where
  own : ∀ k, v = codeVal mbits emin k → c = k
  two : ∃ i, ∀ k, NearerCode mbits emin v k c → k = i

section
variable {mbits : Nat} {emin qu : Int} {v : ℝ} {c : Nat} (h : FloorCode mbits emin qu v c)
include h

/-- The value of a code is v only where it is the last at or below v. -/
theorem FloorCode.own {k : Nat} (hk : v = codeVal mbits emin k) : c = k := by
  have h1 := (codeVal_strictMono mbits emin).le_iff_le.mp (hk ▸ h.le)
  have h2 := (codeVal_strictMono mbits emin).lt_iff_lt.mp (hk ▸ h.lt)
  omega

/-- The last code at or below v is one of the two nearest: only the next can be nearer. -/
theorem FloorCode.below : TwoNearest mbits emin v c := by
  refine ⟨fun k hk => h.own hk, c + 1, fun k hk => ?_⟩
  rcases hk with ⟨hlt, hv⟩ | ⟨hlt, hv⟩
  · have := codeVal_strictMono mbits emin hlt
    linarith [h.le]
  · by_contra hne
    have h2 : codeVal mbits emin (c + 1 + 1) ≤ codeVal mbits emin k := (codeVal_strictMono mbits emin).monotone (by omega)
    have hu := codeUlp_mono mbits emin (Nat.le_succ c)
    have hs := codeVal_succ mbits emin c
    have hs' := codeVal_succ mbits emin (c + 1)
    linarith [h.lt]

variable (hx : v ≠ codeVal mbits emin c)
include hx

theorem FloorCode.not_own (k : Nat) : v ≠ codeVal mbits emin k := fun hk => hx (by rw [h.own hk]; exact hk)

/-- The code above v is one of the two nearest where the second below is not nearer. -/
theorem FloorCode.above (hb : ∀ b, b + 1 = c → (codeVal mbits emin b + codeVal mbits emin (c + 1)) / 2 ≤ v) :
    TwoNearest mbits emin v (c + 1) := by
  refine ⟨fun k hk => absurd hk (h.not_own hx k), c, fun k hk => ?_⟩
  rcases hk with ⟨hlt, hv⟩ | ⟨hlt, hv⟩
  · by_contra hne
    obtain ⟨b, rfl⟩ : ∃ b, b + 1 = c := ⟨c - 1, by omega⟩
    have h1 : codeVal mbits emin k ≤ codeVal mbits emin b := (codeVal_strictMono mbits emin).monotone (by omega)
    linarith [hb b rfl]
  · have := codeVal_strictMono mbits emin hlt
    linarith [h.lt]

/-- The code below the last one below v is one of the two nearest where the next above v is not nearer. -/
theorem FloorCode.before {b : Nat} (hb : b + 1 = c) (hv : v ≤ (codeVal mbits emin b + codeVal mbits emin (c + 1)) / 2) :
    TwoNearest mbits emin v b := by
  refine ⟨fun k hk => absurd hk (h.not_own hx k), c, fun k hk => ?_⟩
  rcases hk with ⟨hlt, hk⟩ | ⟨hlt, hk⟩
  · have h1 := codeVal_strictMono mbits emin hlt
    have h2 := codeVal_strictMono mbits emin (show b < c by omega)
    linarith [h.le]
  · by_contra hne
    have h1 : codeVal mbits emin (c + 1) ≤ codeVal mbits emin k := (codeVal_strictMono mbits emin).monotone (by omega)
    linarith

end

/-- The unit below a code is its own, but half of it below a power of two. -/
theorem codeUlp_before (mbits : Nat) (emin : Int) {b c : Nat} (hb : b + 1 = c) :
    (¬ (c % 2 ^ mbits = 0 ∧ 2 ≤ c / 2 ^ mbits) → codeUlp mbits emin b = codeUlp mbits emin c) ∧
    (c % 2 ^ mbits = 0 ∧ 2 ≤ c / 2 ^ mbits → codeUlp mbits emin b = codeUlp mbits emin c / 2) := by
  have hP : 0 < 2 ^ mbits := Nat.two_pow_pos mbits
  have hc := Nat.div_add_mod c (2 ^ mbits)
  have hr := Nat.mod_lt c hP
  constructor
  · intro hn
    rw [codeUlp, codeUlp]
    congr 2
    norm_cast
    by_cases h0 : c % 2 ^ mbits = 0
    · have hlt : c / 2 ^ mbits < 2 := by omega
      have : b / 2 ^ mbits ≤ c / 2 ^ mbits := Nat.div_le_div_right (by omega)
      omega
    · have : b / 2 ^ mbits = c / 2 ^ mbits := by
        refine Nat.div_eq_of_lt_le ?_ ?_
        · rw [Nat.mul_comm]; omega
        · rw [Nat.mul_comm, Nat.mul_add]; omega
      rw [this]
  · rintro ⟨h0, h2⟩
    obtain ⟨k, hk⟩ : ∃ k, c / 2 ^ mbits = k + 2 := ⟨c / 2 ^ mbits - 2, by omega⟩
    have hb' : b / 2 ^ mbits = k + 1 := by
      refine Nat.div_eq_of_lt_le ?_ ?_
      · rw [hk] at hc
        have : 2 ^ mbits * (k + 2) = (k + 1) * 2 ^ mbits + 2 ^ mbits := by ring
        omega
      · rw [hk] at hc
        have : 2 ^ mbits * (k + 2) = (k + 1 + 1) * 2 ^ mbits := by ring
        omega
    rw [codeUlp, codeUlp, hk, hb', eq_div_iff two_ne_zero, ← zpow_add_one₀ two_ne_zero]
    congr 1
    push_cast
    omega

/-- What `nearBelow` finds (R185): v lies less than a quarter of the unit above a power of two. -/
theorem Fmt.nearBelow_iff {f : Fmt} {m : Nat} {e : Int} {st : Bool} {v : ℝ} {c : Nat} (h : Encloses m e st v)
    (hst : st = true → f.mbits + 2 < Nat.log2 m) (hc : FloorCode f.mbits f.emin (e + (Nat.log2 m : Int) - f.mbits) v c) :
    f.nearBelow c m e st = true ↔ (c % 2 ^ f.mbits = 0 ∧ 2 ≤ c / 2 ^ f.mbits) ∧
      v < codeVal f.mbits f.emin c + codeUlp f.mbits f.emin c / 4 := by
  have hlog (hs : st = true) : (f.mbits : Int) + 2 < Nat.log2 m := by exact_mod_cast hst hs
  rw [Fmt.nearBelow]
  simp only [Bool.and_eq_true, beq_iff_eq, decide_eq_true_eq]
  refine and_congr_right fun ⟨h0, h2⟩ => ?_
  have hu := hc.normal h2
  obtain ⟨hq, -⟩ := roundAt_floor h (q := e + (Nat.log2 m : Int) - f.mbits - 2) (fun hs => by have := hlog hs; omega)
  generalize (roundAt .tz m e st (e + (Nat.log2 m : Int) - f.mbits - 2)).1 = k at hq ⊢
  generalize e + (Nat.log2 m : Int) - f.mbits = q at hc hu hq ⊢
  have hval : codeVal f.mbits f.emin c = (2 ^ f.mbits : Nat) * 2 ^ q := by
    have hcode : c = 2 ^ f.mbits + (c / 2 ^ f.mbits - 1) * 2 ^ f.mbits := by
      have h1 := Nat.div_add_mod c (2 ^ f.mbits)
      obtain ⟨i, hi⟩ : ∃ i, c / 2 ^ f.mbits = i + 1 := ⟨c / 2 ^ f.mbits - 1, by omega⟩
      rw [h0, hi] at h1
      rw [hi, Nat.add_sub_cancel]
      linarith
    rw [hcode, codeVal_add_mul f.mbits f.emin (by omega) (.inr le_rfl), ← hu, codeUlp]
  have hq4 : (2 : ℝ) ^ q = 4 * 2 ^ (q - 2) := by
    rw [show q = q - 2 + 1 + 1 by omega, zpow_add_one₀ two_ne_zero, zpow_add_one₀ two_ne_zero, show q - 2 + 1 + 1 - 2 = q - 2 by omega]; ring
  have hq0 := zpow_pos_two (q - 2)
  have hlt : v < codeVal f.mbits f.emin c + 2 ^ q := by
    have := hc.lt
    rwa [codeVal_succ, hu] at this
  have hc' := hc.le
  rw [hval] at hlt hc' ⊢
  rw [hq4] at hlt hc'
  rw [hu, hq4]
  constructor
  · intro hk
    obtain ⟨i, rfl⟩ : ∃ i, k = 4 * i := ⟨k / 4, by omega⟩
    have hi : FloorMultiple v q i := ⟨by rw [hq4]; have := hq.le; push_cast at this; linarith, by
      rw [hq4]; have := hq.lt; push_cast at this; linarith⟩
    obtain rfl := hi.unique ⟨by rw [hq4]; exact hc', by rw [hq4]; linarith⟩
    have := hq.lt
    push_cast at this ⊢
    linarith
  · intro hv
    have hk : FloorMultiple v (q - 2) (4 * 2 ^ f.mbits) := ⟨by push_cast at hc' ⊢; linarith, by push_cast at hv ⊢; linarith⟩
    rw [hq.unique hk]
    omega

/-! ## The pick of one of the two (R185) -/

section
variable {f : Fmt} (hf : f.Ieee)
include hf

/-- The value above the largest finite one, were there one: a power of two. -/
theorem Fmt.Ieee.codeVal_over : codeVal f.mbits f.emin (f.maxc + 1) = 2 ^ ((f.bias : Int) + 1) := by
  obtain ⟨h1, h2⟩ := hf.codeVal_maxc
  have h3 := largestBelow_add f.mbits f.bias
  have h4 : largestBelow f.mbits f.bias + 2 ^ ((f.bias : Int) - f.mbits) = 2 ^ ((f.bias : Int) + 1) := by
    rw [largestBelow, show (f.bias : Int) + 1 = (f.bias : Int) - f.mbits + ((f.mbits + 1 : Nat) : Int) by push_cast; ring, zpow_add_nat]
    push_cast; ring
  rw [codeVal_succ, h1]
  linarith

/-- A magnitude above the largest finite value overflows, or has that value below it. -/
theorem FloorCode.overflows {e : Int} {v : ℝ} {c n : Nat} (h : FloorCode f.mbits f.emin e v c) (hn : FloorMultiple v e n)
    (hv : codeVal f.mbits f.emin f.maxc < v) : codeVal f.mbits f.emin f.maxc < (n : ℝ) * 2 ^ e ∨ c = f.maxc := by
  have hmono := codeVal_strictMono f.mbits f.emin
  have hc : f.maxc < c + 1 := hmono.lt_iff_lt.mp (hv.trans h.lt)
  by_cases he : c = f.maxc
  · exact .inr he
  · have hover : (2 : ℝ) ^ ((f.bias : Int) + 1) ≤ v := by
      rw [← hf.codeVal_over]
      exact (hmono.monotone (by omega)).trans h.le
    have hexp : (f.bias : Int) + 1 ≤ e + f.mbits := by
      by_contra hlt
      have : (2 : ℝ) ^ (e + (f.mbits : Int) + 1) ≤ 2 ^ ((f.bias : Int) + 1) := zpow_le_zpow_right₀ one_le_two (by omega)
      linarith [h.ahead]
    refine .inl ?_
    calc codeVal f.mbits f.emin f.maxc < codeVal f.mbits f.emin (f.maxc + 1) := hmono (Nat.lt_succ_self _)
      _ = 2 ^ ((f.bias : Int) + 1) := hf.codeVal_over
      _ ≤ 2 ^ (e + (f.mbits : Int)) := zpow_le_zpow_right₀ one_le_two hexp
      _ = (2 ^ f.mbits : Nat) * 2 ^ e := zpow_add_nat ..
      _ ≤ n * 2 ^ e := mul_le_mul_of_nonneg_right
          (by exact_mod_cast hn.ge_of_le (by rw [← zpow_add_nat]; exact h.lead)) (zpow_pos_two e).le

/-- What `pick` delivers (R185): infinity where the magnitude lies above the largest finite value, else one of the two codes nearest to it. -/
theorem Fmt.pick_nearest (up neg : Bool) {m : Nat} {e : Int} {st : Bool} {v : ℝ} (h : Encloses m e st v) (hm0 : m ≠ 0)
    (hst : st = true → f.mbits + 2 < Nat.log2 m) :
    (codeVal f.mbits f.emin f.maxc < v → f.pick up neg m e st = f.signBit neg + f.infBits) ∧
    (v ≤ codeVal f.mbits f.emin f.maxc →
      ∃ c, c ≤ f.maxc ∧ TwoNearest f.mbits f.emin v c ∧ f.pick up neg m e st = f.signBit neg + c) := by
  obtain ⟨hcode, hexact, n, hn, hbeyond⟩ := roundMag_floor (mbits := f.mbits) (emin := f.emin) f.maxc h hm0 (fun hs => by have := hst hs; omega)
  have hmono := codeVal_strictMono f.mbits f.emin
  simp only [Fmt.pick]
  generalize roundMag .tz f.mbits f.emin f.maxc m e st = x at hcode hexact hbeyond
  constructor
  · intro hv
    refine if_pos ?_
    rw [Bool.or_eq_true, Bool.and_eq_true, beq_iff_eq, hbeyond]
    refine (hcode.overflows hf hn hv).imp id fun hc => ⟨hc, ?_⟩
    rw [← Bool.not_eq_false, hexact, hc]
    exact hv.ne'
  · intro hv
    have hle : x.code ≤ f.maxc := hmono.le_iff_le.mp (hcode.le.trans hv)
    have hnot : ¬ ((x.beyond || x.code == f.maxc && x.inexact) = true) := by
      rw [Bool.or_eq_true, Bool.and_eq_true, beq_iff_eq, hbeyond, ← Bool.not_eq_false x.inexact, hexact]
      rintro (hb | ⟨hc, hx⟩)
      · linarith [hn.le]
      · rw [hc] at hx
        exact hx (le_antisymm hv (hc ▸ hcode.le))
    rw [if_neg hnot]
    cases hi : x.inexact with
    | false => exact ⟨x.code, hle, hcode.below, if_pos rfl⟩
    | true =>
      have hx : v ≠ codeVal f.mbits f.emin x.code := hexact.not.mp (by rw [hi]; decide)
      have hlt : x.code < f.maxc := lt_of_le_of_ne hle fun hc => hx (le_antisymm (hc ▸ hv) hcode.le)
      rw [if_neg (by decide)]
      have hnear := Fmt.nearBelow_iff h hst hcode
      split
      · next hb =>
        obtain ⟨hpow, hquarter⟩ := hnear.mp hb
        cases up with
        | true => exact ⟨x.code, hle, hcode.below, by simp⟩
        | false =>
          have hc0 : x.code ≠ 0 := by
            rintro h0
            rw [h0] at hpow
            have := hpow.2
            simp at this
          obtain ⟨b, hb⟩ : ∃ b, b + 1 = x.code := ⟨x.code - 1, by omega⟩
          refine ⟨b, by omega, hcode.before hx hb ?_, by simp; omega⟩
          have h1 := codeVal_succ f.mbits f.emin b
          have h2 := codeVal_succ f.mbits f.emin x.code
          rw [(codeUlp_before f.mbits f.emin hb).2 hpow, hb] at h1
          linarith
      · next hb =>
        cases up with
        | false => exact ⟨x.code, hle, hcode.below, by simp⟩
        | true =>
          refine ⟨x.code + 1, hlt, hcode.above hx fun b hb' => ?_, by simp; omega⟩
          have h1 := codeVal_succ f.mbits f.emin b
          have h2 := codeVal_succ f.mbits f.emin x.code
          rw [hb'] at h1
          by_cases hpow : x.code % 2 ^ f.mbits = 0 ∧ 2 ≤ x.code / 2 ^ f.mbits
          · have hquarter : ¬ v < codeVal f.mbits f.emin x.code + codeUlp f.mbits f.emin x.code / 4 := fun hv => hb (hnear.mpr ⟨hpow, hv⟩)
            rw [(codeUlp_before f.mbits f.emin hb').2 hpow] at h1
            linarith [not_lt.mp hquarter]
          · rw [(codeUlp_before f.mbits f.emin hb').1 hpow] at h1
            linarith [hcode.le]

/-- One of the two nearest codes to v is one of the two nearest values (R185). -/
theorem TwoNearest.nearCode {v : ℝ} {c : Nat} {lt gt : ℚ → Prop} (h : TwoNearest f.mbits f.emin v c) (hc : c ≤ f.maxc) (hcut : Cut lt gt v) :
    NearCode f.val f.maxc lt gt c := by
  have hmono := codeVal_strictMono f.mbits f.emin
  have hval : ∀ k, k ≤ f.maxc → 0 ≤ (f.val k).rat := fun k hk => by
    have := codeVal_nonneg f.mbits f.emin k; rw [← hf.rat_val hk] at this; exact_mod_cast this
  have hless : ∀ j k, j ≤ f.maxc → k ≤ f.maxc → ((f.val j).rat < (f.val k).rat ↔ j < k) := fun j k hj hk => by
    rw [← hmono.lt_iff_lt, ← hf.rat_val hj, ← hf.rat_val hk]; exact_mod_cast Iff.rfl
  have hnearer : ∀ k, k ≤ f.maxc → Nearer lt gt (f.val k).rat (f.val c).rat → NearerCode f.mbits f.emin v k c := fun k hk hn => by
    obtain ⟨hlt, hgt⟩ := hcut (((f.val c).rat + (f.val k).rat) / 2) (by linarith [hval k hk, hval c hc])
    have hmid : ((((f.val c).rat + (f.val k).rat) / 2 : ℚ) : ℝ) = (codeVal f.mbits f.emin k + codeVal f.mbits f.emin c) / 2 := by
      push_cast; rw [hf.rat_val hk, hf.rat_val hc, add_comm]
    rw [hmid] at hlt hgt
    rw [Nearer, hless k c hk hc, hless c k hc hk, hlt, hgt] at hn
    exact hn
  obtain ⟨i, hi⟩ := h.two
  refine ⟨hc, fun k l hk hl hne ⟨hnk, hnl⟩ => hne ?_, fun k hk hlt hgt => h.own k ?_⟩
  · rw [hi k (hnearer k hk hnk), hi l (hnearer l hl hnl)]
  · obtain ⟨h1, h2⟩ := hcut (f.val k).rat (hval k hk)
    rw [hf.rat_val hk] at h1 h2
    exact le_antisymm (not_lt.mp (h2.not.mp hgt)) (not_lt.mp (h1.not.mp hlt))

end

end Sys2Proof.Machine
end

section
/-! SUPPORT. The powers of two of VEXP2 (10 R185): the product of roots that the model takes, and where it puts the power of a number. -/
namespace Sys2Proof.Machine

/-! ## The product of roots -/

theorem isqrt_le {n k : Nat} (hn : n < 2 ^ k) (hk : k ≤ 798) : isqrt n * isqrt n ≤ n ∧ ∀ k, k * k ≤ n → k ≤ isqrt n := by
  have hl : Nat.log2 n < 798 := by
    by_cases h0 : n = 0
    · rw [h0]; decide
    · exact ((Nat.log2_lt h0).mpr hn).trans_le hk
  rw [isqrt_eq_sqrt hl]
  exact ⟨Nat.sqrt_le n, fun k hk => Nat.le_sqrt.mpr hk⟩

/-- A root of a number from 2^160 to 2^161, in units of 2^-160. -/
theorem isqrt_scaled {c : Nat} (h1 : 2 ^ 160 ≤ c) (h2 : c ≤ 2 ^ 161) :
    2 ^ 160 ≤ isqrt (c * 2 ^ 160) ∧ isqrt (c * 2 ^ 160) ≤ 2 ^ 161 ∧ isqrt (c * 2 ^ 160) * isqrt (c * 2 ^ 160) ≤ c * 2 ^ 160 := by
  have hc : c * 2 ^ 160 < 2 ^ (162 + 160) := by
    rw [pow_add]
    exact Nat.mul_lt_mul_of_pos_right (h2.trans_lt (Nat.pow_lt_pow_right (by decide) (by decide))) (Nat.two_pow_pos _)
  obtain ⟨hle, hge⟩ := isqrt_le hc (by decide)
  generalize isqrt (c * 2 ^ 160) = r at hle hge ⊢
  refine ⟨hge _ (Nat.mul_le_mul_right _ h1), ?_, hle⟩
  by_contra hgt
  have h3 : (2 ^ 161 + 1) * (2 ^ 161 + 1) ≤ r * r := Nat.mul_self_le_mul_self (by omega)
  have h4 : c * 2 ^ 160 ≤ 2 ^ 161 * 2 ^ 160 := Nat.mul_le_mul_right _ h2
  norm_num at h3 h4
  omega

/-- A product by a root that is selected, or not. -/
def rootStep (n i c acc : Nat) : Nat := if n / 2 ^ i % 2 = 1 then acc * c / 2 ^ 160 else acc

theorem rootStep_ge {n i c acc : Nat} (hc : 2 ^ 160 ≤ c) : acc ≤ rootStep n i c acc := by
  rw [rootStep]
  split
  · exact (Nat.le_div_iff_mul_le (Nat.two_pow_pos _)).mpr (Nat.mul_le_mul_left _ hc)
  · exact le_rfl

theorem rootStep_le {n i c acc : Nat} (hc : 2 ^ 160 ≤ c) : rootStep n i c acc * 2 ^ 160 ≤ acc * c := by
  rw [rootStep]
  split
  · exact Nat.div_mul_le_self ..
  · exact Nat.mul_le_mul_left _ hc

/-- The product of the selected roots lies between its start and its start times what the roots are of. -/
theorem exp2Frac_bounds (n k : Nat) : ∀ c i acc, 2 ^ 160 ≤ c → c ≤ 2 ^ 161 →
    acc ≤ exp2Frac n (rootsOfTwo k c) i acc ∧ exp2Frac n (rootsOfTwo k c) i acc * 2 ^ 160 ≤ acc * c := by
  induction k with
  | zero => exact fun c i acc h1 _ => ⟨le_rfl, Nat.mul_le_mul_left _ h1⟩
  | succ k ih =>
    intro c i acc h1 h2
    obtain ⟨hr1, hr2, hrr⟩ := isqrt_scaled h1 h2
    rw [rootsOfTwo]
    generalize isqrt (c * 2 ^ 160) = r at hr1 hr2 hrr ⊢
    change acc ≤ exp2Frac n (rootsOfTwo k r) (i - 1) (rootStep n i r acc) ∧
      exp2Frac n (rootsOfTwo k r) (i - 1) (rootStep n i r acc) * 2 ^ 160 ≤ acc * c
    obtain ⟨hlo, hhi⟩ := ih r (i - 1) (rootStep n i r acc) hr1 hr2
    refine ⟨(rootStep_ge hr1).trans hlo, ?_⟩
    refine Nat.le_of_mul_le_mul_right (c := 2 ^ 160) ?_ (Nat.two_pow_pos _)
    calc _ ≤ rootStep n i r acc * r * 2 ^ 160 := Nat.mul_le_mul_right _ hhi
      _ = rootStep n i r acc * 2 ^ 160 * r := by ring
      _ ≤ acc * r * r := Nat.mul_le_mul_right _ (rootStep_le hr1)
      _ = acc * (r * r) := by ring
      _ ≤ acc * (c * 2 ^ 160) := Nat.mul_le_mul_left _ hrr
      _ = _ := by ring

theorem exp2Frac_zero (l : List Nat) : ∀ i acc, exp2Frac 0 l i acc = acc := by
  induction l with
  | nil => exact fun _ _ => rfl
  | cons c l ih =>
    intro i acc
    rw [exp2Frac, ih, Nat.zero_div, Nat.zero_mod]
    rfl

/-- Two to an odd power is no square. -/
theorem two_pow_odd_ne_sq (r k : Nat) : r * r ≠ 2 ^ (k + 1) * 2 ^ k := by
  intro h
  rw [← pow_add] at h
  have hr : r ≠ 0 := by
    rintro rfl
    have := Nat.two_pow_pos (k + 1 + k)
    omega
  have hv := congrArg (padicValNat 2) h
  rw [padicValNat.mul hr hr, padicValNat.prime_pow] at hv
  omega

/-- The product lies below its start times what the roots are of, where the first root is inexact. -/
theorem exp2Frac_lt_mul (n k : Nat) {c i acc : Nat} (h1 : 2 ^ 160 ≤ c) (h2 : c ≤ 2 ^ 161) (ha : 0 < acc)
    (hne : isqrt (c * 2 ^ 160) * isqrt (c * 2 ^ 160) ≠ c * 2 ^ 160) : exp2Frac n (rootsOfTwo (k + 1) c) i acc * 2 ^ 160 < acc * c := by
  obtain ⟨hr1, hr2, hrr⟩ := isqrt_scaled h1 h2
  rw [rootsOfTwo]
  generalize isqrt (c * 2 ^ 160) = r at hr1 hr2 hrr hne ⊢
  change exp2Frac n (rootsOfTwo k r) (i - 1) (rootStep n i r acc) * 2 ^ 160 < acc * c
  obtain ⟨-, hhi⟩ := exp2Frac_bounds n k r (i - 1) (rootStep n i r acc) hr1 hr2
  refine Nat.lt_of_mul_lt_mul_right (a := 2 ^ 160) ?_
  calc _ ≤ rootStep n i r acc * r * 2 ^ 160 := Nat.mul_le_mul_right _ hhi
    _ = rootStep n i r acc * 2 ^ 160 * r := by ring
    _ ≤ acc * r * r := Nat.mul_le_mul_right _ (rootStep_le hr1)
    _ = acc * (r * r) := by ring
    _ < acc * (c * 2 ^ 160) := Nat.mul_lt_mul_of_pos_left (lt_of_le_of_ne hrr hne) ha
    _ = _ := by ring

/-- The mantissa of 2^f, from 1 to below 2 in units of 2^-160. -/
theorem exp2Frac_lt (n : Nat) :
    2 ^ 160 ≤ exp2Frac n (rootsOfTwo 96 (2 ^ 161)) 95 (2 ^ 160) ∧ exp2Frac n (rootsOfTwo 96 (2 ^ 161)) 95 (2 ^ 160) < 2 ^ 161 := by
  have h1 : 2 ^ 160 ≤ 2 ^ 161 := Nat.pow_le_pow_right (by decide) (by decide)
  refine ⟨(exp2Frac_bounds n 96 _ 95 _ h1 le_rfl).1, ?_⟩
  have hlt := exp2Frac_lt_mul n 95 (i := 95) h1 le_rfl (Nat.two_pow_pos 160) (two_pow_odd_ne_sq _ 160)
  rw [Nat.mul_comm (2 ^ 160)] at hlt
  exact Nat.lt_of_mul_lt_mul_right hlt

/-! ## The exponent in units of 2^-96 -/

/-- What `roundAt` gives away from zero of an exact magnitude: the multiple at or above it, and whether it is inexact. -/
theorem roundAt_ceil (m : Nat) (e q : Int) : (((roundAt .az m e false q).1 : ℝ) - 1) * 2 ^ q < (m : ℝ) * 2 ^ e ∧
    (m : ℝ) * 2 ^ e ≤ ((roundAt .az m e false q).1 : ℝ) * 2 ^ q ∧
    ((roundAt .az m e false q).2 = false ↔ (m : ℝ) * 2 ^ e = ((roundAt .az m e false q).1 : ℝ) * 2 ^ q) := by
  have hq := zpow_pos_two q
  by_cases hqe : q ≤ e
  · obtain ⟨hv, hx⟩ := roundAt_exact (encloses_exact m e) hqe .az
    exact ⟨by rw [hv]; linarith, hv.le, by simp [hx, ← hv]⟩
  · obtain ⟨hf, hx⟩ := roundAt_floor (encloses_exact m e) (q := q) (fun h => by cases h)
    have hn : roundAt .az m e false q =
        (if (roundAt .tz m e false q).2 then (roundAt .tz m e false q).1 + 1 else (roundAt .tz m e false q).1, (roundAt .tz m e false q).2) := by
      rw [roundAt, roundAt, if_neg hqe, if_neg hqe]
      rfl
    rw [hn]
    generalize roundAt .tz m e false q = x at hf hx ⊢
    obtain ⟨n, inexact⟩ := x
    dsimp only at hf hx ⊢
    cases inexact with
    | false =>
      have hv := hx.mp rfl
      rw [if_neg Bool.false_ne_true]
      exact ⟨by rw [hv]; linarith, hv.le, hx⟩
    | true =>
      have hv : (m : ℝ) * 2 ^ e ≠ n * 2 ^ q := fun h => absurd (hx.mpr h) (by decide)
      rw [if_pos rfl]
      push_cast
      refine ⟨?_, hf.lt.le, iff_of_false (by decide) hf.lt.ne⟩
      rw [add_sub_cancel_right]
      exact lt_of_le_of_ne hf.le hv.symm

/-- The number that a sign, a mantissa and an exponent stand for. -/
noncomputable def signedReal (neg : Bool) (m : Nat) (e : Int) : ℝ := (if neg then -1 else 1) * (m : ℝ) * 2 ^ e

theorem signedReal_rat (neg : Bool) (m : Nat) (e : Int) : ((FVal.fin neg m e).rat : ℝ) = signedReal neg m e := by
  rw [FVal.rat, signedReal]
  cases neg <;> simp

/-- A number in units of 2^-96, rounded down, and whether that is inexact. -/
def expUnits (neg : Bool) (m : Nat) (e : Int) : Int × Bool :=
  let r := roundAt (if neg then .az else .tz) m e false (-96)
  (if neg then -(r.1 : Int) else r.1, r.2)

theorem expUnits_floor (neg : Bool) (m : Nat) (e : Int) : ((expUnits neg m e).1 : ℝ) ≤ signedReal neg m e * 2 ^ 96 ∧
    signedReal neg m e * 2 ^ 96 < ((expUnits neg m e).1 : ℝ) + 1 ∧
    ((expUnits neg m e).2 = false ↔ signedReal neg m e * 2 ^ 96 = ((expUnits neg m e).1 : ℝ)) := by
  have hu : (2 : ℝ) ^ (-96 : Int) * 2 ^ 96 = 1 := by norm_num
  have h96 : (0 : ℝ) < 2 ^ 96 := by norm_num
  cases neg with
  | true =>
    obtain ⟨h1, h2, h3⟩ := roundAt_ceil m e (-96)
    rw [expUnits, signedReal]
    dsimp only
    rw [if_pos rfl, if_pos rfl, if_pos rfl]
    generalize roundAt .az m e false (-96) = x at h1 h2 h3 ⊢
    obtain ⟨n, inexact⟩ := x
    dsimp only at h1 h2 h3 ⊢
    push_cast
    have h1' := mul_lt_mul_of_pos_right h1 h96
    have h2' := mul_le_mul_of_nonneg_right h2 h96.le
    rw [mul_assoc ((n : ℝ) - 1), hu, mul_one] at h1'
    rw [mul_assoc (n : ℝ), hu, mul_one] at h2'
    refine ⟨by linarith, by linarith, h3.trans ⟨fun h => ?_, fun h => ?_⟩⟩
    · rw [show -1 * (m : ℝ) * 2 ^ e * 2 ^ 96 = -((m : ℝ) * 2 ^ e) * 2 ^ 96 by ring, h, neg_mul, mul_assoc, hu, mul_one]
    · refine mul_right_cancel₀ h96.ne' ?_
      rw [mul_assoc (n : ℝ), hu, mul_one]
      linarith
  | false =>
    obtain ⟨hf, h3⟩ := roundAt_floor (encloses_exact m e) (q := -96) (fun h => by cases h)
    have h1 := hf.le
    have h2 := hf.lt
    rw [expUnits, signedReal]
    dsimp only
    rw [if_neg Bool.false_ne_true, if_neg Bool.false_ne_true, if_neg Bool.false_ne_true]
    generalize roundAt .tz m e false (-96) = x at h1 h2 h3 ⊢
    obtain ⟨n, inexact⟩ := x
    dsimp only at h1 h2 h3 ⊢
    push_cast
    have h1' := mul_le_mul_of_nonneg_right h1 h96.le
    have h2' := mul_lt_mul_of_pos_right h2 h96
    rw [mul_assoc (n : ℝ), hu, mul_one] at h1'
    rw [mul_assoc ((n : ℝ) + 1), hu, mul_one] at h2'
    refine ⟨by linarith, by linarith, h3.trans ⟨fun h => ?_, fun h => ?_⟩⟩
    · rw [one_mul, h, mul_assoc, hu, mul_one]
    · refine mul_right_cancel₀ h96.ne' ?_
      rw [mul_assoc (n : ℝ), hu, mul_one]
      linarith

/-- A number's floor, from its units. -/
theorem floor_of_units {u : ℝ} {i : Int} (h1 : (i : ℝ) ≤ u * 2 ^ 96) (h2 : u * 2 ^ 96 < (i : ℝ) + 1) : ⌊u⌋ = i / (2 ^ 96 : Int) := by
  have h96 : (0 : ℝ) < 2 ^ 96 := by norm_num
  rw [Int.floor_eq_iff]
  have hlo : i / (2 ^ 96 : Int) * 2 ^ 96 ≤ i := Int.ediv_mul_le _ (by norm_num)
  have hhi : i + 1 ≤ (i / (2 ^ 96 : Int) + 1) * 2 ^ 96 := Int.lt_ediv_add_one_mul_self i (by norm_num)
  generalize i / (2 ^ 96 : Int) = z at hlo hhi ⊢
  have hlo' : (z : ℝ) * 2 ^ 96 ≤ i := by exact_mod_cast hlo
  have hhi' : (i : ℝ) + 1 ≤ ((z : ℝ) + 1) * 2 ^ 96 := by exact_mod_cast hhi
  exact ⟨le_of_mul_le_mul_right (hlo'.trans h1) h96, lt_of_mul_lt_mul_right (h2.trans_le hhi') h96.le⟩

/-! ## The power -/

/-- What `exp2Val` gives of a number u: a mantissa and a sticky bit that enclose a number v between the powers of two next to 2^u, and that power
itself where u is an integer. -/
structure Exp2 (u : ℝ) (y : Nat × Int × Bool) (v : ℝ) : Prop where
  encloses : Encloses y.1 y.2.1 y.2.2 v
  ge : 2 ^ 160 ≤ y.1
  le : (2 : ℝ) ^ ⌊u⌋ ≤ v
  lt : v < (2 : ℝ) ^ (⌊u⌋ + 1)
  own : u = ⌊u⌋ → v = (2 : ℝ) ^ ⌊u⌋

theorem exp2Val_exp2 (neg : Bool) (m : Nat) (e : Int) : ∃ v, Exp2 (signedReal neg m e) (exp2Val neg m e) v := by
  obtain ⟨h1, h2, h3⟩ := expUnits_floor neg m e
  have hy : exp2Val neg m e = (exp2Frac ((expUnits neg m e).1 % (2 ^ 96 : Int)).toNat (rootsOfTwo 96 (2 ^ 161)) 95 (2 ^ 160),
      (expUnits neg m e).1 / (2 ^ 96 : Int) - 160, ((expUnits neg m e).1 % (2 ^ 96 : Int)).toNat != 0 || (expUnits neg m e).2) := rfl
  rw [hy, ← floor_of_units h1 h2]
  generalize expUnits neg m e = x at h1 h2 h3 ⊢
  obtain ⟨i, inexact⟩ := x
  dsimp only at h1 h2 h3 ⊢
  have hfl := floor_of_units h1 h2
  obtain ⟨hlo, hhi⟩ := exp2Frac_lt (i % (2 ^ 96 : Int)).toNat
  generalize hfr : (i % (2 ^ 96 : Int)).toNat = fr at hlo hhi ⊢
  generalize hM : exp2Frac fr (rootsOfTwo 96 (2 ^ 161)) 95 (2 ^ 160) = M at hlo hhi ⊢
  have hz := zpow_pos_two (⌊signedReal neg m e⌋ - 160)
  have hscale : ∀ k : Nat, (2 : ℝ) ^ (⌊signedReal neg m e⌋ + ((k : Int) - 160)) = (2 ^ k : Nat) * 2 ^ (⌊signedReal neg m e⌋ - 160) := fun k => by
    rw [← zpow_add_nat]; congr 1; ring
  have hge : (2 : ℝ) ^ ⌊signedReal neg m e⌋ = (2 ^ 160 : Nat) * 2 ^ (⌊signedReal neg m e⌋ - 160) := by
    rw [← hscale]; norm_num
  have hlt : (2 : ℝ) ^ (⌊signedReal neg m e⌋ + 1) = (2 ^ 161 : Nat) * 2 ^ (⌊signedReal neg m e⌋ - 160) := by
    rw [← hscale]; norm_num
  have hlo' : ((2 ^ 160 : Nat) : ℝ) ≤ M := by exact_mod_cast hlo
  have hhi' : (M : ℝ) + 1 ≤ (2 ^ 161 : Nat) := by exact_mod_cast hhi
  cases hst : (fr != 0 || inexact) with
  | true =>
    refine ⟨((M : ℝ) + 1 / 2) * 2 ^ (⌊signedReal neg m e⌋ - 160), ⟨mul_lt_mul_of_pos_right (lt_add_of_pos_right _ (by norm_num)) hz,
      mul_lt_mul_of_pos_right ((add_lt_add_iff_left _).mpr (by norm_num)) hz⟩, hlo, ?_, ?_, fun hu => absurd hst ?_⟩
    · rw [hge]; exact mul_le_mul_of_nonneg_right (hlo'.trans (le_add_of_nonneg_right (by norm_num))) hz.le
    · rw [hlt]; exact mul_lt_mul_of_pos_right (((add_lt_add_iff_left _).mpr (by norm_num)).trans_le hhi') hz
    · have h4 : (⌊signedReal neg m e⌋ : ℝ) * 2 ^ 96 = ((⌊signedReal neg m e⌋ * 2 ^ 96 : Int) : ℝ) := by push_cast; norm_num
      have hi : signedReal neg m e * 2 ^ 96 = i := by
        rw [hu, h4] at h1 h2 ⊢
        have h1' : i ≤ ⌊signedReal neg m e⌋ * 2 ^ 96 := by exact_mod_cast h1
        have h2' : ⌊signedReal neg m e⌋ * 2 ^ 96 < i + 1 := by exact_mod_cast h2
        exact_mod_cast (show ⌊signedReal neg m e⌋ * 2 ^ 96 = i by omega)
      have hfr0 : fr = 0 := by
        rw [← hfr, show i = ⌊signedReal neg m e⌋ * 2 ^ 96 from by
          have : ((⌊signedReal neg m e⌋ * 2 ^ 96 : Int) : ℝ) = i := by rw [← h4, ← hu]; exact hi
          exact_mod_cast this.symm, Int.mul_emod_left]
        rfl
      rw [hfr0, h3.mpr hi]
      decide
  | false =>
    obtain ⟨hf0, -⟩ := Bool.or_eq_false_iff.mp hst
    obtain rfl : fr = 0 := by simpa using hf0
    rw [exp2Frac_zero] at hM
    subst hM
    refine ⟨(2 : ℝ) ^ ⌊signedReal neg m e⌋, hge, le_rfl, le_rfl, ?_, fun _ => rfl⟩
    exact zpow_lt_zpow_right₀ one_lt_two (by omega)

end Sys2Proof.Machine
end

section
/-! SUPPORT. The functions of R185 on the patterns of a format: what their one rounding, or their pick of two values, delivers (10 R185). -/
namespace Sys2Proof.Machine

/-! ## Codes of powers of two -/

section
variable {f : Fmt} (hf : f.Ieee)
include hf

/-- Every power of two in the range of a format is a code's value. -/
theorem Fmt.Ieee.exists_power {k : Int} (h1 : f.emin - f.mbits ≤ k) (h2 : k ≤ f.bias) :
    ∃ c, c ≤ f.maxc ∧ codeVal f.mbits f.emin c = (2 : ℝ) ^ k := by
  have hmono := codeVal_strictMono f.mbits f.emin
  have hle : ∀ c, codeVal f.mbits f.emin c = (2 : ℝ) ^ k → c ≤ f.maxc := fun c hc => by
    have h3 : (2 : ℝ) ^ k < codeVal f.mbits f.emin (f.maxc + 1) := by
      rw [hf.codeVal_over]
      exact zpow_lt_zpow_right₀ one_lt_two (by omega)
    rw [← hc] at h3
    exact Nat.lt_succ_iff.mp (hmono.lt_iff_lt.mp h3)
  rcases lt_or_ge k f.emin with hk | hk
  · obtain ⟨i, hi⟩ : ∃ i : Nat, k = f.emin - f.mbits + i := ⟨(k - (f.emin - f.mbits)).toNat, by omega⟩
    have hi' : i < f.mbits := by omega
    have hP : 2 ^ i ≤ 2 * 2 ^ f.mbits := (Nat.pow_le_pow_right (by decide) hi'.le).trans (by omega)
    have hv := codeVal_add_mul f.mbits f.emin (n := 2 ^ i) (j := 0) hP (.inl rfl)
    rw [Nat.zero_mul, Nat.add_zero, Nat.cast_zero, add_zero, ← zpow_add_nat, ← hi] at hv
    exact ⟨2 ^ i, hle _ hv, hv⟩
  · obtain ⟨j, hj⟩ : ∃ j : Nat, k = f.emin + j := ⟨(k - f.emin).toNat, by omega⟩
    have hv := codeVal_add_mul f.mbits f.emin (n := 2 ^ f.mbits) (j := j) (by omega) (.inr le_rfl)
    rw [← zpow_add_nat, show f.emin - f.mbits + (j : Int) + (f.mbits : Int) = k by omega] at hv
    exact ⟨_, hle _ hv, hv⟩

end

/-- The numbers above and below a real number. -/
theorem Cut.of_real (v : ℝ) : Cut (fun z => v < z) (fun z => (z : ℝ) < v) v := fun _ _ => ⟨Iff.rfl, Iff.rfl⟩

section
variable {f : Fmt} (hf : f.Ieee)
include hf

/-- The nearest code to a number between the values of two codes lies between them. -/
theorem NearestCode.between {v : ℝ} {lt gt : ℚ → Prop} {c : Nat} (h : NearestCode f.val f.maxc lt gt c) (hcut : Cut lt gt v) {b : Nat}
    (hb : b ≤ f.maxc) : (codeVal f.mbits f.emin b ≤ v → b ≤ c) ∧ (v ≤ codeVal f.mbits f.emin b → c ≤ b) := by
  obtain ⟨hc, hk⟩ := h
  have hmono := codeVal_strictMono f.mbits f.emin
  have hval : ∀ k, k ≤ f.maxc → 0 ≤ (f.val k).rat := fun k hk => by
    have := codeVal_nonneg f.mbits f.emin k; rw [← hf.rat_val hk] at this; exact_mod_cast this
  have hless : ∀ j k, j ≤ f.maxc → k ≤ f.maxc → j < k → (f.val j).rat < (f.val k).rat := fun j k hj hk hjk => by
    have := hmono hjk; rw [← hf.rat_val hj, ← hf.rat_val hk] at this; exact_mod_cast this
  obtain ⟨hlt, hgt⟩ := hcut (((f.val c).rat + (f.val b).rat) / 2) (by linarith [hval b hb, hval c hc])
  have hmid : ((((f.val c).rat + (f.val b).rat) / 2 : ℚ) : ℝ) = (codeVal f.mbits f.emin c + codeVal f.mbits f.emin b) / 2 := by
    push_cast; rw [hf.rat_val hb, hf.rat_val hc]
  rw [hmid] at hlt hgt
  refine ⟨fun hv => ?_, fun hv => ?_⟩
  · by_contra hlt'
    have hcb := hmono (not_le.mp hlt')
    exact (hk b hb).1 (.inr ⟨hless c b hc hb (not_le.mp hlt'), hgt.mpr (by linarith)⟩)
  · by_contra hlt'
    have hcb := hmono (not_le.mp hlt')
    exact (hk b hb).1 (.inl ⟨hless b c hb hc (not_le.mp hlt'), hlt.mpr (by linarith)⟩)

end

/-! ## One delivery for both kinds of format -/

/-- The code that a function of R185 delivers for a magnitude: of .f32 the pick of two, of the others the nearest. -/
def Fmt.near (f : Fmt) (up neg : Bool) (m : Nat) (e : Int) (st : Bool) : Nat :=
  if f.mbits = 23 then f.pick up neg m e st else (f.round .ne neg m e st).bits

section
variable {f : Fmt} (hf : f.Ieee) {up neg : Bool} {m : Nat} {e : Int} {st : Bool} {v : ℝ} (h : Encloses m e st v) (hm : m ≠ 0)
  (hst : f.mbits + 2 < Nat.log2 m)
include hf h hm hst

theorem Fmt.near_picks (hb : f.mbits = 23) : (codeVal f.mbits f.emin f.maxc < v → f.near up neg m e st = f.signBit neg + f.infBits) ∧
    (v ≤ codeVal f.mbits f.emin f.maxc →
      ∃ c, c ≤ f.maxc ∧ TwoNearest f.mbits f.emin v c ∧ f.near up neg m e st = f.signBit neg + c) := by
  rw [Fmt.near, if_pos hb]
  exact Fmt.pick_nearest hf up neg h hm fun _ => hst

theorem Fmt.near_rounds (hb : f.mbits ≠ 23) {lt gt : ℚ → Prop} (hcut : Cut lt gt v) :
    ∃ fl, f.Rounds neg lt gt { bits := f.near up neg m e st, fl := fl } := by
  rw [Fmt.near, if_neg hb]
  exact ⟨_, Fmt.round_rounds hf neg h hm (fun _ => by omega) hcut⟩

/-- A magnitude from the half-way point over the largest finite value on is delivered as infinity. -/
theorem Fmt.near_overflows (hv : halfBelow f.mbits f.bias ≤ v) : f.near up neg m e st = f.signBit neg + f.infBits := by
  by_cases hb : f.mbits = 23
  · refine (Fmt.near_picks hf h hm hst hb).1 (lt_of_lt_of_le ?_ hv)
    rw [← hf.codeVal_maxc.2]
    exact lt_add_of_pos_right _ (half_pos (codeUlp_pos ..))
  · obtain ⟨fl, hover, -⟩ := Fmt.near_rounds hf (neg := neg) h hm hst hb (Cut.of_real v)
    refine (hover fun hlt => not_lt.mpr hv ?_).1
    exact ((Cut.of_real v).lt_half f.mbits f.bias).mp (by rw [zpow_natCast]; exact hlt)

/-- What is delivered of a number between the values of two codes of a format that rounds lies between them. -/
theorem Fmt.near_between (hb : f.mbits ≠ 23) {a b : Nat} (hbm : b ≤ f.maxc) (ha : codeVal f.mbits f.emin a ≤ v)
    (hv : v ≤ codeVal f.mbits f.emin b) : ∃ c, a ≤ c ∧ c ≤ b ∧ f.near up neg m e st = f.signBit neg + c := by
  have hmono := codeVal_strictMono f.mbits f.emin
  obtain ⟨fl, -, hfin⟩ := Fmt.near_rounds hf (up := up) (neg := neg) h hm hst hb (Cut.of_real v)
  have hhalf : v < halfBelow f.mbits f.bias := by
    rw [← hf.codeVal_maxc.2]
    exact (hv.trans (hmono.monotone hbm)).trans_lt (lt_add_of_pos_right _ (half_pos (codeUlp_pos ..)))
  obtain ⟨c, hc, hbits, -⟩ := hfin (by
    have := ((Cut.of_real v).lt_half f.mbits f.bias).mpr hhalf
    rwa [zpow_natCast] at this)
  have hab : a ≤ b := hmono.le_iff_le.mp (ha.trans hv)
  exact ⟨c, (hc.between hf (Cut.of_real v) (hab.trans hbm)).1 ha, (hc.between hf (Cut.of_real v) hbm).2 hv, hbits⟩

/-- A code's own value is delivered as that code. -/
theorem Fmt.near_own {c : Nat} (hc : c ≤ f.maxc) (hv : v = codeVal f.mbits f.emin c) : f.near up neg m e st = f.signBit neg + c := by
  by_cases hb : f.mbits = 23
  · obtain ⟨k, -, hk, hbits⟩ := (Fmt.near_picks hf h hm hst hb).2 (by rw [hv]; exact (codeVal_strictMono f.mbits f.emin).monotone hc)
    rw [hbits, hk.own c hv]
  · obtain ⟨k, h1, h2, hbits⟩ := Fmt.near_between hf h hm hst hb hc hv.ge hv.le
    rw [hbits, le_antisymm h2 h1]

end

/-! ## The formats of the vector functions -/

/-- .f32, .f16 or .bf16. -/
def Fmt.OfLanes (f : Fmt) : Prop := f ∈ [Fmt.f32, Fmt.f16, Fmt.bf16]

theorem Fmt.OfLanes.cases {f : Fmt} (h : f.OfLanes) {P : Fmt → Prop} (h1 : P Fmt.f32) (h2 : P Fmt.f16) (h3 : P Fmt.bf16) : P f := by
  simp only [Fmt.OfLanes, List.mem_cons, List.not_mem_nil, or_false] at h
  rcases h with rfl | rfl | rfl
  · exact h1
  · exact h2
  · exact h3

theorem Fmt.OfLanes.ieee {f : Fmt} (h : f.OfLanes) : f.Ieee ∧ f.mbits ≤ 23 ∧ f.bias ≤ 127 ∧ (f.mbits = 23 ↔ f = .f32) :=
  h.cases (P := fun f => f.Ieee ∧ f.mbits ≤ 23 ∧ f.bias ≤ 127 ∧ (f.mbits = 23 ↔ f = .f32)) ⟨(fmt_ieee .f32).1, by decide, by decide, by decide⟩ ⟨(fmt_ieee .f16).1, by decide, by decide, by decide⟩
    ⟨(fmt_ieee .bf16).1, by decide, by decide, by decide⟩

section
variable {f : Fmt} (hf : f.OfLanes) {n : Nat}
include hf

omit hf in
theorem Fmt.exp2_special : ((f.val n).isNan = true → f.exp2 n = f.nanBits) ∧
    ((f.val n).isInf = true → f.exp2 n = if (f.val n).sign then 0 else f.infBits) := by
  refine ⟨fun h => ?_, fun h => ?_⟩
  · obtain ⟨s, hs⟩ := FVal.isNan_iff.mp h
    rw [Fmt.exp2, hs]
  · obtain ⟨s, hs⟩ := FVal.isInf_iff.mp h
    rw [Fmt.exp2, hs]
    rfl

/-- 2^x of a finite number: the delivery of what `exp2Val` gives. -/
theorem Fmt.exp2_fin {neg : Bool} {m : Nat} {e : Int} (h : f.val n = .fin neg m e) : f.exp2 n =
    if magLt m e 1 15 then
      f.near (Config.vexp2Upper (BitVec.ofNat 32 n)) false (exp2Val neg m e).1 (exp2Val neg m e).2.1 (exp2Val neg m e).2.2
    else f.near (Config.vexp2Upper (BitVec.ofNat 32 n)) false (exp2Val neg 1 15).1 (exp2Val neg 1 15).2.1 (exp2Val neg 1 15).2.2 := by
  rw [Fmt.exp2, h]
  simp only [Fmt.OfLanes, List.mem_cons, List.not_mem_nil, or_false] at hf
  rcases hf with rfl | rfl | rfl <;> rfl

theorem Fmt.rcp_fin {neg : Bool} {m : Nat} {e : Int} (h : f.val n = .fin neg m e) (hm : m ≠ 0) :
    f.rcp n = f.near (Config.vrcpUpper (BitVec.ofNat 32 n)) neg (2 ^ 64 / m) (-e - 64) (2 ^ 64 % m != 0) := by
  rw [Fmt.rcp, h]
  refine (if_neg hm).trans ?_
  simp only [Fmt.OfLanes, List.mem_cons, List.not_mem_nil, or_false] at hf
  rcases hf with rfl | rfl | rfl <;> rfl

/-- A number's mantissa with an even exponent, and half of that. -/
def evenMantissa (m : Nat) (e : Int) : Nat := if e % 2 = 0 then m else 2 * m
def halfExponent (e : Int) : Int := (if e % 2 = 0 then e else e - 1) / 2

theorem Fmt.rsq_fin {m : Nat} {e : Int} (h : f.val n = .fin false m e) (hm : m ≠ 0) :
    f.rsq n = f.near (Config.vrsqUpper (BitVec.ofNat 32 n)) false (isqrt (2 ^ 144 / evenMantissa m e)) (-halfExponent e - 72)
      (isqrt (2 ^ 144 / evenMantissa m e) * isqrt (2 ^ 144 / evenMantissa m e) * evenMantissa m e != 2 ^ 144) := by
  rw [Fmt.rsq, h]
  refine (if_neg hm).trans ((if_neg Bool.false_ne_true).trans ?_)
  simp only [Fmt.OfLanes, List.mem_cons, List.not_mem_nil, or_false] at hf
  rcases hf with rfl | rfl | rfl <;> rfl

end

end Sys2Proof.Machine
end

section
/-! SUPPORT. 2^x, the reciprocal and the reciprocal root on the patterns of a format (10 R185). -/
namespace Sys2Proof.Machine

section
variable {f : Fmt} (hf : f.OfLanes) {n : Nat}
include hf

/-- The value of a finite code, as a rational. -/
theorem Fmt.OfLanes.rat_eq {c : Nat} (hc : c ≤ f.maxc) {q : ℚ} (h : codeVal f.mbits f.emin c = q) : (f.val c).rat = q := by
  have hv := hf.ieee.1.rat_val hc
  rw [h] at hv
  exact_mod_cast hv

/-! ## 2^x -/

/-- 2^x of a number below 2^15 in magnitude: the delivery of a number next to 2^x. -/
theorem Fmt.exp2_near {neg : Bool} {m : Nat} {e : Int} (h : f.val n = .fin neg m e) (hlt : (m : ℝ) * 2 ^ e < 2 ^ 15) :
    ∃ up y v, Exp2 (signedReal neg m e) y v ∧ f.exp2 n = f.near up false y.1 y.2.1 y.2.2 ∧ y.1 ≠ 0 ∧ f.mbits + 2 < Nat.log2 y.1 := by
  obtain ⟨v, hv⟩ := exp2Val_exp2 neg m e
  have h0 : (exp2Val neg m e).1 ≠ 0 := by
    have := Nat.two_pow_pos 160
    exact fun h0 => absurd hv.ge (by rw [h0]; exact not_le.mpr this)
  refine ⟨_, exp2Val neg m e, v, hv, (Fmt.exp2_fin hf h).trans (if_pos ?_), h0, ?_⟩
  · rw [magLt_iff]
    norm_num at hlt ⊢
    exact hlt
  · have h160 : 160 ≤ Nat.log2 (exp2Val neg m e).1 := (Nat.le_log2 h0).mpr hv.ge
    have := hf.ieee.2.1
    omega

omit hf in
theorem FVal.rat_abs_lt {neg : Bool} {m : Nat} {e : Int} {k : Nat} (h1 : -(2 ^ k : ℚ) < (FVal.fin neg m e).rat)
    (h2 : (FVal.fin neg m e).rat < 2 ^ k) : (m : ℝ) * 2 ^ e < 2 ^ k := by
  have h := abs_lt.mpr ⟨h1, h2⟩
  rw [FVal.abs_rat_fin, ← Rat.cast_lt (K := ℝ)] at h
  push_cast at h
  exact h

/-- From bias + 1 on, 2^x is infinity. -/
theorem Fmt.exp2_overflows (hn : (f.val n).isNan = false) (hi : (f.val n).isInf = false) (hx : (f.bias : ℚ) + 1 ≤ (f.val n).rat) :
    f.exp2 n = f.infBits := by
  obtain ⟨hieee, hb, hbias, -⟩ := hf.ieee
  obtain ⟨neg, m, e, h⟩ := FVal.fin_of_finite hn hi
  have hover : ∀ {up : Bool} {u : ℝ} {y : Nat × Int × Bool} {v : ℝ}, Exp2 u y v → (f.bias : Int) + 1 ≤ ⌊u⌋ →
      f.near up false y.1 y.2.1 y.2.2 = f.infBits := fun {up u y v} hv hu => by
    have h0 : y.1 ≠ 0 := fun h0 => absurd hv.ge (by rw [h0]; exact not_le.mpr (Nat.two_pow_pos 160))
    have h160 : 160 ≤ Nat.log2 y.1 := (Nat.le_log2 h0).mpr hv.ge
    refine (Fmt.near_overflows hieee hv.encloses h0 (by omega) ?_).trans (Nat.zero_add _)
    exact ((halfBelow_lt f.mbits f.bias).le.trans (zpow_le_zpow_right₀ one_le_two hu)).trans hv.le
  by_cases hlt : (m : ℝ) * 2 ^ e < 2 ^ 15
  · obtain ⟨up, y, v, hv, he, -⟩ := Fmt.exp2_near hf h hlt
    rw [he]
    refine hover hv (Int.le_floor.mpr ?_)
    rw [← signedReal_rat, ← h]
    exact_mod_cast hx
  · have hneg : neg = false := by
      cases neg with
      | false => rfl
      | true =>
        rw [h, FVal.rat] at hx
        have : (0 : ℚ) ≤ (m : ℚ) * 2 ^ e := by positivity
        have hb0 : (0 : ℚ) ≤ f.bias := Nat.cast_nonneg _
        rw [if_pos rfl] at hx
        linarith
    obtain ⟨v, hv⟩ := exp2Val_exp2 false 1 15
    subst hneg
    rw [Fmt.exp2_fin hf h, if_neg]
    · refine hover hv (Int.le_floor.mpr ?_)
      rw [signedReal, if_neg Bool.false_ne_true]
      have : (f.bias : ℝ) ≤ 127 := by exact_mod_cast hbias
      push_cast
      norm_num
      linarith
    · rw [magLt_iff]
      norm_num at hlt ⊢
      exact hlt

/-- 2^x of an integer in range is exact. -/
theorem Fmt.exp2_integer {k : Int} (hn : (f.val n).isNan = false) (hi : (f.val n).isInf = false) (hx : (f.val n).rat = k)
    (h1 : f.emin - f.mbits ≤ k) (h2 : k ≤ f.bias) : f.exp2 n ≤ f.maxc ∧ (f.val (f.exp2 n)).rat = 2 ^ k := by
  obtain ⟨hieee, hb, hbias, -⟩ := hf.ieee
  obtain ⟨neg, m, e, h⟩ := FVal.fin_of_finite hn hi
  have hu : signedReal neg m e = k := by
    rw [← signedReal_rat, ← h, hx]
    push_cast; rfl
  have hlo : -(2 ^ 15 : Int) < k := by rw [Fmt.emin] at h1; omega
  have hhi : k < 2 ^ 15 := by omega
  obtain ⟨up, y, v, hv, he, h0, hl⟩ := Fmt.exp2_near hf h (FVal.rat_abs_lt (k := 15) (by rw [← h, hx]; exact_mod_cast hlo)
    (by rw [← h, hx]; exact_mod_cast hhi))
  obtain ⟨c, hc, hcode⟩ := hieee.exists_power h1 h2
  have hfl : ⌊signedReal neg m e⌋ = k := by rw [hu, Int.floor_intCast]
  have hown : v = codeVal f.mbits f.emin c := by
    rw [hcode, hv.own (by rw [hfl, hu]), hfl]
  have hbits := Fmt.near_own (up := up) (neg := false) hieee hv.encloses h0 hl hc hown
  rw [he, hbits, show f.signBit false + c = c from Nat.zero_add c]
  exact ⟨hc, hf.rat_eq hc (by rw [hcode]; push_cast; rfl)⟩

/-- Of a format that rounds, 2^x lies between the powers next to it. -/
theorem Fmt.exp2_between (hne : f ≠ .f32) (hn : (f.val n).isNan = false) (hi : (f.val n).isInf = false) (h1 : f.emin ≤ ⌊(f.val n).rat⌋)
    (h2 : ⌊(f.val n).rat⌋ + 1 ≤ f.bias) : f.exp2 n ≤ f.maxc ∧ (2 : ℚ) ^ ⌊(f.val n).rat⌋ ≤ (f.val (f.exp2 n)).rat ∧
      (f.val (f.exp2 n)).rat ≤ 2 ^ (⌊(f.val n).rat⌋ + 1) := by
  obtain ⟨hieee, hb, hbias, hf32⟩ := hf.ieee
  obtain ⟨neg, m, e, h⟩ := FVal.fin_of_finite hn hi
  have hfl : ⌊signedReal neg m e⌋ = ⌊(f.val n).rat⌋ := by rw [← signedReal_rat, ← h, Rat.floor_cast]
  have hle := Int.floor_le (f.val n).rat
  have hlt := Int.lt_floor_add_one (f.val n).rat
  generalize ⌊(f.val n).rat⌋ = k at *
  have hlo : -(2 ^ 15 : ℚ) < k := by rw [Fmt.emin] at h1; exact_mod_cast (show -(2 ^ 15 : Int) < k by omega)
  have hhi : (k : ℚ) + 1 < 2 ^ 15 := by exact_mod_cast (show k + 1 < 2 ^ 15 by omega)
  obtain ⟨up, y, v, hv, he, h0, hl⟩ := Fmt.exp2_near hf h (FVal.rat_abs_lt (k := 15) (by rw [← h]; linarith) (by rw [← h]; linarith))
  obtain ⟨a, ha, hca⟩ := hieee.exists_power (k := k) (by omega) (by omega)
  obtain ⟨b, hb', hcb⟩ := hieee.exists_power (k := k + 1) (by omega) h2
  have hva := hv.le
  have hvb := hv.lt.le
  rw [hfl] at hva hvb
  obtain ⟨c, hac, hcb', hbits⟩ := Fmt.near_between (up := up) (neg := false) hieee hv.encloses h0 hl (fun h => hne (hf32.mp h)) hb'
    (by rw [hca]; exact hva) (by rw [hcb]; exact hvb)
  rw [he, hbits, show f.signBit false + c = c from Nat.zero_add c]
  have hc : c ≤ f.maxc := hcb'.trans hb'
  have hmono := codeVal_strictMono f.mbits f.emin
  have h3 := hmono.monotone hac
  have h4 := hmono.monotone hcb'
  rw [hca, ← hieee.rat_val hc] at h3
  rw [hcb, ← hieee.rat_val hc] at h4
  exact ⟨hc, Rat.cast_le (K := ℝ) |>.mp (by push_cast; exact h3), Rat.cast_le (K := ℝ) |>.mp (by push_cast; exact h4)⟩

/-! ## 1 ÷ x -/

omit hf in
theorem Fmt.rcp_special : ((f.val n).isNan = true → f.rcp n = f.nanBits) ∧
    ((f.val n).isZero = true → f.rcp n = f.signBit (f.val n).sign + f.infBits) ∧
    ((f.val n).isInf = true → f.rcp n = f.signBit (f.val n).sign) := by
  refine ⟨fun h => ?_, fun h => ?_, fun h => ?_⟩
  · obtain ⟨s, hs⟩ := FVal.isNan_iff.mp h
    rw [Fmt.rcp, hs]
  · obtain ⟨s, e, hs⟩ := FVal.isZero_iff.mp h
    rw [Fmt.rcp, hs]
    exact if_pos rfl
  · obtain ⟨s, hs⟩ := FVal.isInf_iff.mp h
    rw [Fmt.rcp, hs]
    rfl

/-- The magnitude of a reciprocal, enclosed. -/
theorem Fmt.rcp_encloses {neg : Bool} {m : Nat} {e : Int} (h : f.val n = .fin neg m e) (hm : m ≠ 0) :
    Encloses (2 ^ 64 / m) (-e - 64) (2 ^ 64 % m != 0) ((|1 / (f.val n).rat| : ℚ) : ℝ) ∧ 2 ^ 64 / m ≠ 0 ∧ f.mbits + 2 < Nat.log2 (2 ^ 64 / m) := by
  obtain ⟨-, hb, -⟩ := hf.ieee
  have hm24 : m < 2 ^ 24 := (Fmt.val_fin_lt h).trans_le (Nat.pow_le_pow_right (by decide) (by omega))
  have hq : 2 ^ 40 ≤ 2 ^ 64 / m := by
    rw [Nat.le_div_iff_mul_le (Nat.pos_of_ne_zero hm)]
    calc 2 ^ 40 * m ≤ 2 ^ 40 * 2 ^ 24 := Nat.mul_le_mul_left _ hm24.le
      _ = 2 ^ 64 := by norm_num
  have h0 : 2 ^ 64 / m ≠ 0 := by omega
  refine ⟨?_, h0, ?_⟩
  · have hv : ((|1 / (f.val n).rat| : ℚ) : ℝ) = ((2 ^ 64 : Nat) : ℝ) / m * 2 ^ (-e - 64) := by
      rw [abs_div, abs_one, h, FVal.abs_rat_fin, zpow_sub₀ two_ne_zero, zpow_neg]
      push_cast
      have h64 : ((2 : ℝ) ^ (64 : Int)) = 2 ^ 64 := by norm_cast
      rw [h64]
      have hm' : (m : ℝ) ≠ 0 := by exact_mod_cast hm
      have he : (2 : ℝ) ^ e ≠ 0 := (zpow_pos_two e).ne'
      field_simp
      norm_num
    rw [hv]
    exact encloses_div _ (Nat.pos_of_ne_zero hm) _
  · have : 40 ≤ Nat.log2 (2 ^ 64 / m) := (Nat.le_log2 h0).mpr hq
    omega

theorem Fmt.rcp_delivers (hn : (f.val n).isNan = false) (hi : (f.val n).isInf = false) (hz : (f.val n).isZero = false) :
    (f ≠ .f32 → ∃ fl, f.Rounds (f.val n).sign (fun z => |1 / (f.val n).rat| < z) (fun z => z < |1 / (f.val n).rat|)
      { bits := f.rcp n, fl := fl }) ∧
    (f = .f32 → (f.val f.maxc).rat < |1 / (f.val n).rat| → f.rcp n = f.signBit (f.val n).sign + f.infBits) ∧
    (f = .f32 → |1 / (f.val n).rat| ≤ (f.val f.maxc).rat → ∃ c, NearCode f.val f.maxc (fun z => |1 / (f.val n).rat| < z)
      (fun z => z < |1 / (f.val n).rat|) c ∧ f.rcp n = f.signBit (f.val n).sign + c) := by
  obtain ⟨hieee, -, -, hf32⟩ := hf.ieee
  obtain ⟨neg, m, e, h⟩ := FVal.fin_of_finite hn hi
  have hm : m ≠ 0 := by rw [h] at hz; simpa [FVal.isZero] using hz
  obtain ⟨henc, h0, hl⟩ := Fmt.rcp_encloses hf h hm
  have hs : (f.val n).sign = neg := by rw [h]; rfl
  have hmax := hieee.rat_val (le_refl f.maxc)
  have hcut := Cut.of_rat |1 / (f.val n).rat|
  rw [Fmt.rcp_fin hf h hm, hs]
  refine ⟨fun hne => Fmt.near_rounds hieee henc h0 hl (fun hb => hne (hf32.mp hb)) hcut, fun he hq => ?_, fun he hq => ?_⟩
  · refine (Fmt.near_picks hieee henc h0 hl (hf32.mpr he)).1 ?_
    rw [← hmax]
    exact_mod_cast hq
  · obtain ⟨c, hc, hnear, hbits⟩ := (Fmt.near_picks (up := Config.vrcpUpper (BitVec.ofNat 32 n)) (neg := neg) hieee henc h0 hl (hf32.mpr he)).2
      (by rw [← hmax]; exact_mod_cast hq)
    exact ⟨c, hnear.nearCode hieee hc hcut, hbits⟩

/-! ## 1 ÷ √x -/

omit hf in
theorem Fmt.rsq_special : ((f.val n).isNan = true → f.rsq n = f.nanBits) ∧
    ((f.val n).isZero = true → f.rsq n = f.signBit (f.val n).sign + f.infBits) ∧
    ((f.val n).isInf = true → (f.val n).sign = false → f.rsq n = 0) ∧
    ((f.val n).isZero = false → (f.val n).sign = true → f.rsq n = f.nanBits) := by
  refine ⟨fun h => ?_, fun h => ?_, fun h h' => ?_, fun h h' => ?_⟩
  · obtain ⟨s, hs⟩ := FVal.isNan_iff.mp h
    rw [Fmt.rsq, hs]
  · obtain ⟨s, e, hs⟩ := FVal.isZero_iff.mp h
    rw [Fmt.rsq, hs]
    exact if_pos rfl
  · obtain ⟨s, hs⟩ := FVal.isInf_iff.mp h
    rw [hs] at h'
    rw [Fmt.rsq, hs]
    exact if_neg (Bool.eq_false_iff.mp h')
  · cases hv : f.val n with
    | nan s => rw [hv] at h'; cases h'
    | inf s =>
      rw [hv] at h'
      rw [Fmt.rsq, hv]
      exact if_pos h'
    | fin s m e =>
      rw [hv] at h h'
      rw [Fmt.rsq, hv]
      exact (if_neg (by simpa [FVal.isZero] using h)).trans (if_pos h')

omit hf in
theorem evenMantissa_eq (m : Nat) (e : Int) : (m : ℝ) * 2 ^ e = evenMantissa m e * (2 ^ halfExponent e * 2 ^ halfExponent e) := by
  rw [evenMantissa, halfExponent, ← zpow_add₀ two_ne_zero]
  split
  · next h => congr 2; omega
  · next h =>
    have he : e = 1 + ((e - 1) / 2 + (e - 1) / 2) := by omega
    push_cast
    rw [mul_comm 2 (m : ℝ), mul_assoc, ← zpow_one_add₀ two_ne_zero, ← he]

omit hf in
/-- The root of a quotient rounded down, with whether it is inexact. -/
theorem encloses_rsqrt {a r : Nat} (ha : 0 < a) (h1 : r * r ≤ 2 ^ 144 / a) (h2 : 2 ^ 144 / a < (r + 1) * (r + 1)) (e : Int) :
    Encloses r e (r * r * a != 2 ^ 144) (Real.sqrt ((2 ^ 144 : Nat) / a) * 2 ^ e) := by
  have he := zpow_pos_two e
  have ha' : (0 : ℝ) < a := by exact_mod_cast ha
  have hlo : ((r * r * a : Nat) : ℝ) ≤ (2 ^ 144 : Nat) := by exact_mod_cast (Nat.le_div_iff_mul_le ha).mp h1
  have hhi : ((2 ^ 144 : Nat) : ℝ) < ((r + 1) * (r + 1) * a : Nat) := by exact_mod_cast (Nat.div_lt_iff_lt_mul ha).mp h2
  generalize hN : 2 ^ 144 = N at *
  have hle : (r : ℝ) ≤ Real.sqrt ((N : ℝ) / a) := Real.le_sqrt_of_sq_le (by
    rw [le_div_iff₀ ha', sq]; push_cast at hlo; exact hlo)
  have hlt : Real.sqrt ((N : ℝ) / a) < (r : ℝ) + 1 := by
    rw [Real.sqrt_lt' (by positivity), div_lt_iff₀ ha', sq]; push_cast at hhi; exact hhi
  unfold Encloses
  split
  · next h =>
    refine ⟨mul_lt_mul_of_pos_right (lt_of_le_of_ne hle fun hs => ?_) he, mul_lt_mul_of_pos_right hlt he⟩
    have hsq : (r : ℝ) * r = (N : ℝ) / a := by
      rw [hs, Real.mul_self_sqrt (by positivity)]
    rw [eq_div_iff ha'.ne'] at hsq
    exact absurd (show r * r * a = N by exact_mod_cast hsq) (by simpa using h)
  · next h =>
    have hsq : r * r * a = N := by simpa using h
    have hs : Real.sqrt ((N : ℝ) / a) = r := by
      rw [Real.sqrt_eq_iff_mul_self_eq (by positivity) (Nat.cast_nonneg _), div_eq_iff ha'.ne']
      exact_mod_cast hsq.symm
    rw [hs]

/-- The reciprocal root of a number, enclosed. -/
theorem Fmt.rsq_encloses {m : Nat} {e : Int} (h : f.val n = .fin false m e) (hm : m ≠ 0) : ∃ v : ℝ, 0 < v ∧ v * v * ((f.val n).rat : ℝ) = 1 ∧
    Encloses (isqrt (2 ^ 144 / evenMantissa m e)) (-halfExponent e - 72)
      (isqrt (2 ^ 144 / evenMantissa m e) * isqrt (2 ^ 144 / evenMantissa m e) * evenMantissa m e != 2 ^ 144) v ∧
    isqrt (2 ^ 144 / evenMantissa m e) ≠ 0 ∧ f.mbits + 2 < Nat.log2 (isqrt (2 ^ 144 / evenMantissa m e)) := by
  obtain ⟨-, hb, -⟩ := hf.ieee
  have hm24 : m < 2 ^ 24 := (Fmt.val_fin_lt h).trans_le (Nat.pow_le_pow_right (by decide) (by omega))
  have heq := evenMantissa_eq m e
  have ha : 0 < evenMantissa m e ∧ evenMantissa m e < 2 ^ 25 := by
    rw [evenMantissa]
    split <;> omega
  generalize evenMantissa m e = a at heq ha ⊢
  obtain ⟨ha0, ha25⟩ := ha
  have hq : 2 ^ 119 ≤ 2 ^ 144 / a := by
    rw [Nat.le_div_iff_mul_le ha0]
    calc 2 ^ 119 * a ≤ 2 ^ 119 * 2 ^ 25 := Nat.mul_le_mul_left _ ha25.le
      _ = 2 ^ 144 := by rw [← pow_add]
  have hq' : 2 ^ 144 / a < 2 ^ 145 := (Nat.div_le_self ..).trans_lt (Nat.pow_lt_pow_right (by decide) (by decide))
  obtain ⟨h1, h2⟩ := isqrt_le hq' (by decide)
  have hr : 2 ^ 59 ≤ isqrt (2 ^ 144 / a) := h2 _ (by
    rw [← pow_add]
    exact (Nat.pow_le_pow_right (by decide) (by decide)).trans hq)
  have hlt : 2 ^ 144 / a < (isqrt (2 ^ 144 / a) + 1) * (isqrt (2 ^ 144 / a) + 1) := by
    by_contra hge
    have := h2 _ (not_lt.mp hge)
    omega
  generalize isqrt (2 ^ 144 / a) = r at h1 hr hlt ⊢
  have hr0 : r ≠ 0 := by
    have := Nat.two_pow_pos 59
    omega
  refine ⟨_, ?_, ?_, encloses_rsqrt ha0 h1 hlt _, hr0, ?_⟩
  · have : (0 : ℝ) < a := by exact_mod_cast ha0
    positivity
  · have ha' : (0 : ℝ) < a := by exact_mod_cast ha0
    have hh := zpow_pos_two (halfExponent e)
    have hrat : ((f.val n).rat : ℝ) = (m : ℝ) * 2 ^ e := by rw [h, FVal.rat]; push_cast; simp
    rw [hrat, heq, mul_mul_mul_comm (Real.sqrt _) ((2 : ℝ) ^ (-halfExponent e - 72)), Real.mul_self_sqrt (by positivity), zpow_sub₀ two_ne_zero, zpow_neg]
    have h72 : ((2 : ℝ) ^ (72 : Int)) = 2 ^ 72 := by norm_cast
    rw [h72]
    push_cast
    field_simp
    norm_num
  · have : 59 ≤ Nat.log2 r := (Nat.le_log2 hr0).mpr hr
    omega

omit hf in
/-- The numbers above and below a reciprocal root. -/
theorem Cut.rsqrt {q : ℚ} {v : ℝ} (hv : 0 < v) (hq : v * v * q = 1) : Cut (fun z => 1 < z ^ 2 * q) (fun z => z ^ 2 * q < 1) v := by
  intro z hz
  have hz' : (0 : ℝ) ≤ z := by exact_mod_cast hz
  have hq0 : (0 : ℝ) < q := by
    by_contra hn
    have := mul_nonpos_of_nonneg_of_nonpos (mul_self_nonneg v) (not_lt.mp hn)
    linarith
  have h1 : ((1 : ℚ) < z ^ 2 * q) ↔ (1 : ℝ) < (z : ℝ) ^ 2 * q := by exact_mod_cast Iff.rfl
  have h2 : (z ^ 2 * q < (1 : ℚ)) ↔ (z : ℝ) ^ 2 * q < 1 := by exact_mod_cast Iff.rfl
  dsimp only
  rw [h1, h2, ← hq, mul_lt_mul_iff_left₀ hq0, mul_lt_mul_iff_left₀ hq0, sq]
  exact ⟨(mul_self_lt_mul_self_iff hv.le hz').symm, (mul_self_lt_mul_self_iff hz' hv.le).symm⟩

omit hf in
/-- The least exponent of a format's finite values. -/
theorem Fmt.val_fin_exp {neg : Bool} {m : Nat} {e : Int} (h : f.val n = .fin neg m e) : f.emin - f.mbits ≤ e := by
  rw [Fmt.val] at h
  rw [Fmt.emin]
  split at h
  · split at h <;> cases h
  · split at h <;> (injection h; omega)

theorem Fmt.rsq_delivers (hn : (f.val n).isNan = false) (hi : (f.val n).isInf = false) (hz : (f.val n).isZero = false)
    (hs : (f.val n).sign = false) :
    (f ≠ .f32 → ∃ fl, f.Rounds false (fun z => 1 < z ^ 2 * (f.val n).rat) (fun z => z ^ 2 * (f.val n).rat < 1) { bits := f.rsq n, fl := fl }) ∧
    (f = .f32 → NearCode f.val f.maxc (fun z => 1 < z ^ 2 * (f.val n).rat) (fun z => z ^ 2 * (f.val n).rat < 1) (f.rsq n)) := by
  obtain ⟨hieee, -, -, hf32⟩ := hf.ieee
  obtain ⟨neg, m, e, h⟩ := FVal.fin_of_finite hn hi
  obtain rfl : neg = false := by rw [h] at hs; exact hs
  have hm : m ≠ 0 := by rw [h] at hz; simpa [FVal.isZero] using hz
  obtain ⟨v, hv, hvv, henc, h0, hl⟩ := Fmt.rsq_encloses hf h hm
  have hcut := Cut.rsqrt hv hvv
  rw [Fmt.rsq_fin hf h hm]
  refine ⟨fun hne => Fmt.near_rounds hieee henc h0 hl (fun hb => hne (hf32.mp hb)) hcut, fun he => ?_⟩
  subst he
  have hvmax : v ≤ codeVal Fmt.f32.mbits Fmt.f32.emin Fmt.f32.maxc := by
    obtain ⟨c, hc, hpow⟩ := hieee.exists_power (k := 75) (by decide) (by decide)
    refine le_trans ?_ ((codeVal_strictMono Fmt.f32.mbits Fmt.f32.emin).monotone hc)
    rw [hpow]
    have hlow : (2 : ℝ) ^ (-149 : Int) ≤ ((Fmt.f32.val n).rat : ℝ) := by
      have hrat : ((Fmt.f32.val n).rat : ℝ) = (m : ℝ) * 2 ^ e := by rw [h, FVal.rat]; push_cast; simp
      have hm1 : (1 : ℝ) ≤ m := by exact_mod_cast Nat.one_le_iff_ne_zero.mpr hm
      rw [hrat]
      calc (2 : ℝ) ^ (-149 : Int) ≤ 2 ^ e := zpow_le_zpow_right₀ one_le_two (Fmt.val_fin_exp h)
        _ ≤ m * 2 ^ e := le_mul_of_one_le_left (zpow_pos_two e).le hm1
    by_contra hgt
    have h75 : (2 : ℝ) ^ (75 : Int) < v := not_le.mp hgt
    have hsq : (2 : ℝ) ^ (75 : Int) * 2 ^ (75 : Int) < v * v := mul_self_lt_mul_self (zpow_pos_two 75).le h75
    have h1 : (2 : ℝ) ^ (75 : Int) * 2 ^ (75 : Int) * 2 ^ (-149 : Int) ≤ 1 := by
      rw [← hvv]
      exact mul_le_mul hsq.le hlow (zpow_pos_two _).le (mul_self_nonneg v)
    rw [← zpow_add₀ two_ne_zero, ← zpow_add₀ two_ne_zero] at h1
    norm_num at h1
  obtain ⟨c, hc, hnear, hbits⟩ := (Fmt.near_picks (up := Config.vrsqUpper (BitVec.ofNat 32 n)) (neg := false) hieee henc h0 hl rfl).2 hvmax
  rw [hbits, show Fmt.f32.signBit false + c = c from Nat.zero_add c]
  exact hnear.nearCode hieee hc hcut

end

end Sys2Proof.Machine
end

section
/-! SUPPORT. Conversions of vectors (10 R186). -/
namespace Sys2Proof.Machine

section
variable {ty : VType} {desc : Word}

/-- The value of an element of a conversion's source, under a descriptor that is valid where it is asked for. -/
theorem vcvtVal_eq (h : ty = .nf → vecNf desc ≠ none) (x : Nat) : vcvtVal ty (nfOf desc) x =
    if ty.isInt then intVal (slane ty.width x)
    else if ty = .nf then ((vecNf desc).map (fun n => n.val x)).getD (.nan false) else ty.fmt.val x := by
  unfold vcvtVal
  refine ite_congr rfl (fun _ => rfl) fun _ => ?_
  by_cases hty : ty = .nf
  · subst hty
    obtain ⟨n, hn⟩ := Option.ne_none_iff_exists'.mp (h rfl)
    rw [if_pos rfl, vecNf_some hn, hn]
    rfl
  · rw [if_neg hty]
    cases ty with
    | nf => exact absurd rfl hty
    | _ => rfl

/-- What a conversion delivers, likewise. -/
theorem vcvtElem_eq (h : ty = .nf → vecNf desc ≠ none) (v : FVal) : vcvtElem ty (nfOf desc) v =
    if ty.isInt then ((toInt .rne (-2 ^ (ty.width - 1)) (2 ^ (ty.width - 1) - 1) v).1 % 2 ^ ty.width).toNat
    else if ty = .nf then ((vecNf desc).map (fun n => (n.deliver v).bits)).getD 0 else (ty.fmt.deliver v).bits := by
  unfold vcvtElem
  refine ite_congr rfl (fun _ => rfl) fun _ => ?_
  by_cases hty : ty = .nf
  · subst hty
    obtain ⟨n, hn⟩ := Option.ne_none_iff_exists'.mp (h rfl)
    rw [if_pos rfl, vecNf_some hn, hn]
    rfl
  · rw [if_neg hty]
    cases ty with
    | nf => exact absurd rfl hty
    | _ => rfl

end

section
variable {ds ss : VType} {mask : Option MReg} {t : Thread} {d a : VReg} {i : Nat}

theorem vcvt_width : ds.width * ((List.range (Nat.min ss.lanes ds.lanes)).length) ≤ 512 := by
  rw [List.length_range, ← lanes_width ds]
  exact Nat.mul_le_mul_left _ (Nat.min_le_right ..)

/-- A lane of a conversion: the element converted, or as it was, and zero beyond the elements. -/
theorem lane_vcvtVec : lane ds.width (vcvtVec ds ss mask t d a) i =
    if i < Nat.min ss.lanes ds.lanes then
      (if laneActive t mask i then vcvtElem ds (nfOf t.fa) (vcvtVal ss (nfOf t.fa) (lane ss.width t.v[a] i)) % 2 ^ ds.width
       else lane ds.width t.v[d] i)
    else 0 := by
  rw [vcvtVec, lane_lanesVec (by rw [List.length_map]; exact vcvt_width)]
  by_cases hi : i < Nat.min ss.lanes ds.lanes
  · rw [if_pos hi, List.getD_eq_getElem _ _ (by rw [List.length_map, List.length_range]; exact hi), List.getElem_map, List.getElem_range]
    split
    · rfl
    · exact lane_mod ..
  · rw [if_neg hi, List.getD_eq_default _ _ (by rw [List.length_map, List.length_range]; exact not_lt.mp hi), Nat.zero_mod]

end

end Sys2Proof.Machine

open Sys2Proof Sys2Proof.Machine

/-- Settles O16: a function of R185 delivers an enclosed number, nearest where the format rounds (`Fmt.round_rounds`) and one of the two nearest for
.f32 (`Fmt.pick_nearest`); the number of 2^x is a product of roots between the powers next to it (`exp2Val_exp2`). -/
theorem vectorConvertResults : Obligations.VectorConvertResults := by
  intro s t ty ds ss mask md ma mb d a g x ln
  refine ⟨fun h => ⟨?_, ?_, ?_, fun hf => ?_, fun hf => ?_, ?_, ?_, ?_, ?_, ?_⟩, fun h => ?_, fun f hf n _ => ?_⟩
  · exact vlanes_gives h (fun t i => ty.fmt.exp2 (lane ty.width t.v[a] i)) (f := fun i => ty.fmt.exp2 (lane ty.width t.v[a] i)) fun _ => rfl
  · exact vlanes_gives h (fun t i => ty.fmt.rcp (lane ty.width t.v[a] i)) (f := fun i => ty.fmt.rcp (lane ty.width t.v[a] i)) fun _ => rfl
  · exact vlanes_gives h (fun t i => ty.fmt.rsq (lane ty.width t.v[a] i)) (f := fun i => ty.fmt.rsq (lane ty.width t.v[a] i)) fun _ => rfl
  · have hc : ((ds == .nf || ss == .nf) && (vecNf t.fa).isNone) = true := by simpa using hf
    change Faults s s (execVcvt ds ss mask d a s) _ _
    rw [execVcvt]
    exact runWord_faults h (if_pos hc)
  · have hc : ¬ ((ds == .nf || ss == .nf) && (vecNf t.fa).isNone) = true := by simpa using hf
    have hds : ds = .nf → vecNf t.fa ≠ none := fun hn hv => hf ⟨.inl hn, hv⟩
    have hss : ss = .nf → vecNf t.fa ≠ none := fun hn hv => hf ⟨.inr hn, hv⟩
    have he : exec (.vcvt ds ss mask d a) s = execVcvt ds ss mask d a s := rfl
    refine ⟨vcvtVec ds ss mask t d a, ?_, fun i _ => ?_⟩
    · rw [he, execVcvt]
      exact (runWord_completes (c := vecCommit d _) h (if_neg hc) rfl rfl).log []
    · rw [lane_vcvtVec, vcvtElem_eq hds, vcvtVal_eq hss]
  · exact aluWord_completes h g (fun t => ty.toReg (lane ty.width t.v[a] ln.toNat))
  · exact maskWord_completes h md (fun t => t.m[ma] &&& t.m[mb])
  · exact maskWord_completes h md (fun t => t.m[ma] ||| t.m[mb])
  · exact maskWord_completes h md (fun t => ~~~t.m[ma])
  · have hc := aluWord_completes h g (fun t => word (onesOf t.m[ma]))
    rw [onesOf_eq] at hc
    exact hc
  · refine ⟨_, vecWord_completes h d (fun t => lanesVec ty.width (List.replicate ty.lanes (t.rd x).toNat)), fun i hi => ?_⟩
    rw [lane_lanesVec (by rw [List.length_replicate]; exact (lanes_width ty).le),
      List.getD_eq_getElem _ _ (by rw [List.length_replicate]; exact hi), List.getElem_replicate]
  · obtain ⟨e1, e2⟩ := Fmt.exp2_special (f := f) (n := n)
    obtain ⟨c1, c2, c3⟩ := Fmt.rcp_special (f := f) (n := n)
    obtain ⟨q1, q2, q3, q4⟩ := Fmt.rsq_special (f := f) (n := n)
    exact ⟨fun h => ⟨e1 h, c1 h, q1 h⟩, e2, fun h hx => Fmt.exp2_overflows hf h.1 h.2 hx,
      fun k h hk h1 h2 => Fmt.exp2_integer hf h.1 h.2 hk h1 h2, fun hne h h1 h2 => Fmt.exp2_between hf hne h.1 h.2 h1 h2, c2, c3,
      fun h hz => Fmt.rcp_delivers hf h.1 h.2 hz, q2, q3, q4, fun h hz hs => Fmt.rsq_delivers hf h.1 h.2 hz hs⟩
end

section
/-! SUPPORT. The compare and the conversions of floats as words (07 R108, R109): what each commits, and the fault of a format descriptor. -/
namespace Sys2Proof.Machine

/-! ## Conditions on values (R108) -/

/-- Nothing is less than a NaN, nor a NaN less than anything. -/
theorem valLt_nan {x y : FVal} (h : (x.isNan || y.isNan) = true) : valLt x y = false := by
  rcases Bool.or_eq_true_iff.mp h with h | h <;> obtain ⟨q, rfl⟩ := FVal.isNan_iff.mp h
  · rfl
  · cases x <;> rfl

theorem valLt_and_ordered (x y : FVal) : (!(x.isNan || y.isNan) && valLt x y) = valLt x y := by
  cases h : x.isNan || y.isNan with
  | false => rfl
  | true => exact (valLt_nan h).symm

theorem valEq_and_ordered (x y : FVal) : (!(x.isNan || y.isNan) && valEq x y) = valEq x y := by
  rw [valEq]
  cases x.isNan <;> cases y.isNan <;> rfl

/-- A word that writes an integer and sets flags. -/
theorem fpIntWord_completes {s : State} {t : Thread} {srcs : List Src} (h : Ready s t srcs) (d : Reg) (v : Thread → Word)
    (fl : Thread → FFlags) : Completes s t srcs (runPure srcs (fun t => fpIntCommit d (v t) (fl t)) s) (writesF d (v t) (fl t)) :=
  (runPure_completes h (fun t => fpIntCommit d (v t) (fl t)) rfl rfl).log []

/-- FCMP commits the truth of its condition, with NV where it is invalid. -/
theorem execFcmp_completes {s : State} {t : Thread} {a b : Src} (h : Ready s t [a, b]) (ty : FType) (cc : FCc) (d : Reg) :
    Completes s t [a, b] (execFcmp ty cc d a b s)
      (writesF d (truth (cc.holds (ty.fmt.val (fpSrc ty.fmt t a)) (ty.fmt.val (fpSrc ty.fmt t b))))
        (flagIf (cc.invalid (ty.fmt.val (fpSrc ty.fmt t a)) (ty.fmt.val (fpSrc ty.fmt t b))) flNV)) :=
  fpIntWord_completes h d (fun t => truth (cc.holds (ty.fmt.val (fpSrc ty.fmt t a)) (ty.fmt.val (fpSrc ty.fmt t b))))
    (fun t => flagIf (cc.invalid (ty.fmt.val (fpSrc ty.fmt t a)) (ty.fmt.val (fpSrc ty.fmt t b))) flNV)

/-! ## FCVT (R109) -/

section
variable {s : State} {t : Thread} {a : Src} {ds ss : CType}

/-- A type .nf without a valid descriptor in fa faults. -/
theorem execFcvt_faults (h : Ready s t [a]) (hn : (ds = .nf ∨ ss = .nf) ∧ nfOf t.fa = none) (d : Reg) :
    Faults s s (execFcvt ds ss d a s) .format none := by
  have hc : ((ds == .nf || ss == .nf) && (nfOf t.fa).isNone) = true := by simpa using hn
  rw [execFcvt]
  exact runWord_faults h (if_pos hc)

theorem execFcvt_completes (h : Ready s t [a]) (hn : ¬ ((ds = .nf ∨ ss = .nf) ∧ nfOf t.fa = none)) (d : Reg) :
    let v := cvtResult (nfOf t.fa) ds (cvtSource (nfOf t.fa) ss (t.rd a).toNat)
    Completes s t [a] (execFcvt ds ss d a s) (writesF d (word v.bits) v.fl) := by
  have hc : ¬ ((ds == .nf || ss == .nf) && (nfOf t.fa).isNone) = true := by simpa using hn
  rw [execFcvt]
  exact (runWord_completes (c := fpCommit d _) h (if_neg hc) rfl rfl).log []

end

end Sys2Proof.Machine
end

section
/-! SUPPORT. The narrow formats (05 R66 to R69): what a valid descriptor bounds, the values of the codes, and that every value is exact in FP32. -/
namespace Sys2Proof.Machine

/-! ## Valid descriptors (R67) -/

/-- What R67 asks of a descriptor, as far as values depend on it. -/
structure Nf.Valid (n : Nf) : Prop where
  width_pos : 1 ≤ n.width
  width_le : n.width ≤ 8
  e_le : n.e ≤ 7
  bias_lt : n.bias < 128
  spec_le : n.spec ≤ 2
  infinite : n.spec = 1 → 2 ≤ n.e
  noneAtTop : n.spec = 2 → 1 ≤ n.e
  plain : n.e = 0 → n.spec = 0

theorem nfOf_valid {w : Word} {n : Nf} (h : nfOf w = some n) : n.Valid := by
  simp only [nfOf] at h
  split at h
  · rename_i hc
    simp only [Bool.and_eq_true, decide_eq_true_eq, Bool.or_eq_true, bne_iff_ne, beq_iff_eq, ne_eq] at hc
    cases h
    obtain ⟨⟨⟨⟨⟨⟨⟨⟨⟨⟨⟨h1, h2⟩, -⟩, he⟩, -⟩, h3⟩, -⟩, -⟩, h4⟩, h5⟩, -⟩, h6⟩ := hc
    exact ⟨h1, h2, he, Nat.mod_lt _ (Nat.two_pow_pos 7), h3, fun h => h4.resolve_left (fun hn => hn h), fun h => h5.resolve_left (fun hn => hn h),
      fun h => h6.resolve_left (fun hn => hn h)⟩
  · cases h

section
variable {n : Nf}

theorem Nf.le_width (n : Nf) : n.e + n.m ≤ n.width := by
  rw [Nf.width]; omega

/-- The least normal exponent of a narrow format. -/
def Nf.emin (n : Nf) : Int := 1 - (n.bias : Int)

/-! ## The values of codes (R68) -/

/-- Whether an element is an infinity. -/
def Nf.Infinite (n : Nf) (c : Nat) : Prop := n.e ≠ 0 ∧ n.spec = 1 ∧ c / 2 ^ n.m % 2 ^ n.e = 2 ^ n.e - 1 ∧ c % 2 ^ n.m = 0

/-- Whether an element is a NaN. -/
def Nf.NoNumber (n : Nf) (c : Nat) : Prop := n.e ≠ 0 ∧ c / 2 ^ n.m % 2 ^ n.e = 2 ^ n.e - 1 ∧
  (n.spec = 1 ∧ c % 2 ^ n.m ≠ 0 ∨ n.spec = 2 ∧ c % 2 ^ n.m = 2 ^ n.m - 1)

/-- The sign of an element. -/
def Nf.neg (n : Nf) (c : Nat) : Bool := n.s && c / 2 ^ (n.e + n.m) % 2 == 1

section
variable {c : Nat} (hc : c < 2 ^ n.width)
include hc

theorem Nf.val_infinite (h : n.Infinite c) : n.val c = .inf (n.neg c) := by
  obtain ⟨he, hs, hx, hm⟩ := h
  simp only [Nf.val, Nat.mod_eq_of_lt hc, if_neg he, hs, hx, hm, Nf.neg, BEq.rfl, Bool.and_self, if_true]

theorem Nf.val_noNumber (h : n.NoNumber c) : ∃ s, n.val c = .nan s := by
  obtain ⟨he, hx, ⟨hs, hm⟩ | ⟨hs, hm⟩⟩ := h
  · exact ⟨decide (c % 2 ^ n.m < 2 ^ (n.m - 1)), by
      simp only [Nf.val, Nat.mod_eq_of_lt hc, if_neg he, hs, hx, if_neg hm, BEq.rfl, Bool.and_self, if_true]⟩
  · refine ⟨false, ?_⟩
    have h21 : ((2 : Nat) == 1 && true) = false := rfl
    simp only [Nf.val, Nat.mod_eq_of_lt hc, if_neg he, hs, hx, hm, BEq.rfl, Bool.and_self, h21, Bool.false_eq_true, if_false, if_true]

/-- Any other element is finite. -/
theorem Nf.val_finite (hi : ¬ n.Infinite c) (hn : ¬ n.NoNumber c) : n.val c =
    if n.e = 0 then
      (if (n.s && 2 ^ (n.width - 1) ≤ c) = true then .fin true (2 ^ n.width - c) (-(n.bias : Int)) else .fin false c (-(n.bias : Int)))
    else if c / 2 ^ n.m % 2 ^ n.e = 0 then .fin (n.neg c) (c % 2 ^ n.m) (n.emin - n.m)
    else .fin (n.neg c) (c % 2 ^ n.m + 2 ^ n.m) (((c / 2 ^ n.m % 2 ^ n.e : Nat) : Int) - n.bias - n.m) := by
  simp only [Nf.val, Nat.mod_eq_of_lt hc]
  split
  · rfl
  · rename_i he
    rw [if_neg, if_neg]
    · rfl
    · intro h
      simp only [Bool.and_eq_true, beq_iff_eq] at h
      exact hn ⟨he, h.1.2, .inr ⟨h.1.1, h.2⟩⟩
    · intro h
      simp only [Bool.and_eq_true, beq_iff_eq] at h
      by_cases hm : c % 2 ^ n.m = 0
      · exact hi ⟨he, h.1, h.2, hm⟩
      · exact hn ⟨he, h.2, .inl ⟨h.1, hm⟩⟩

end

/-! ## The magnitudes from 0 to the largest finite one -/

theorem Nf.maxc_lt (n : Nf) : n.maxc < 2 ^ (n.e + n.m) := by
  have hE : 0 < 2 ^ n.e := Nat.two_pow_pos _
  have hM : 0 < 2 ^ n.m := Nat.two_pow_pos _
  have h : (2 ^ n.e - 1) * 2 ^ n.m + 2 ^ n.m = 2 ^ n.e * 2 ^ n.m := by
    rw [← Nat.succ_mul]; congr 1; omega
  rw [Nf.maxc, pow_add]
  split
  · omega
  · have : 0 < 2 ^ n.e * 2 ^ n.m := Nat.mul_pos hE hM
    split <;> omega

/-- A code up to the largest finite one is neither an infinity nor a NaN, and has no sign. -/
theorem Nf.finite_of_le {c : Nat} (hc : c ≤ n.maxc) : ¬ n.Infinite c ∧ ¬ n.NoNumber c ∧ n.neg c = false := by
  have hM : 0 < 2 ^ n.m := Nat.two_pow_pos _
  have hlt := hc.trans_lt n.maxc_lt
  have hdm := Nat.div_add_mod c (2 ^ n.m)
  have hx : c / 2 ^ n.m % 2 ^ n.e = c / 2 ^ n.m := by
    refine Nat.mod_eq_of_lt ((Nat.div_lt_iff_lt_mul hM).mpr ?_)
    rwa [← pow_add]
  have hE : 0 < 2 ^ n.e := Nat.two_pow_pos _
  refine ⟨?_, ?_, ?_⟩
  · rintro ⟨he, hs, hx', hm⟩
    rw [hx] at hx'
    rw [hx', hm, Nat.mul_comm] at hdm
    rw [Nf.maxc, if_pos hs] at hc
    have : 0 < (2 ^ n.e - 1) * 2 ^ n.m := by
      have : 2 ^ 1 ≤ 2 ^ n.e := Nat.pow_le_pow_right (by decide) (by omega)
      exact Nat.mul_pos (by omega) hM
    omega
  · rintro ⟨he, hx', ⟨hs, hm⟩ | ⟨hs, hm⟩⟩
    · rw [hx] at hx'
      rw [hx', Nat.mul_comm] at hdm
      rw [Nf.maxc, if_pos hs] at hc
      omega
    · rw [hx] at hx'
      rw [hx', hm, Nat.mul_comm] at hdm
      rw [Nf.maxc, if_neg (by omega), if_pos hs, pow_add] at hc
      have h : (2 ^ n.e - 1) * 2 ^ n.m + 2 ^ n.m = 2 ^ n.e * 2 ^ n.m := by
        rw [← Nat.succ_mul]; congr 1; omega
      have h2 : 2 ≤ 2 ^ n.e * 2 ^ n.m := by
        have : 2 ^ 1 ≤ 2 ^ n.e := Nat.pow_le_pow_right (by decide) (by omega)
        exact this.trans (Nat.le_mul_of_pos_right _ hM)
      omega
  · rw [Nf.neg, Nat.div_eq_of_lt hlt]
    simp

/-- The codes up to the largest finite one have the values of `codeVal`. -/
theorem Nf.rat_val (he : n.e ≠ 0) {c : Nat} (hc : c ≤ n.maxc) : ((n.val c).rat : ℝ) = codeVal n.m n.emin c := by
  have hM : 0 < 2 ^ n.m := Nat.two_pow_pos _
  have hlt := hc.trans_lt n.maxc_lt
  obtain ⟨hi, ho, hs⟩ := Nf.finite_of_le hc
  have hx : c / 2 ^ n.m % 2 ^ n.e = c / 2 ^ n.m := by
    refine Nat.mod_eq_of_lt ((Nat.div_lt_iff_lt_mul hM).mpr ?_)
    rwa [← pow_add]
  rw [Nf.val_finite (hlt.trans_le (Nat.pow_le_pow_right (by decide) n.le_width)) hi ho, if_neg he, hx, hs, codeVal, codeMag]
  split
  · rename_i h0
    have : c % 2 ^ n.m = c := Nat.mod_eq_of_lt (by rwa [Nat.div_eq_zero_iff_lt hM] at h0)
    simp [FVal.rat, this]
  · rename_i h0
    have hexp : ((c / 2 ^ n.m : Nat) : Int) - n.bias - n.m = n.emin - n.m + ((c / 2 ^ n.m - 1 : Nat) : Int) := by
      rw [Nf.emin]; omega
    rw [hexp]
    simp [FVal.rat]

end

/-! ## Values that a format holds exactly -/

/-- A value of a format's precision, within its range, is a code's. -/
theorem Fmt.Ieee.exists_code {f : Fmt} (hf : f.Ieee) {m : Nat} {e : Int} (hm : m < 2 ^ (f.mbits + 1)) (he : f.emin - f.mbits ≤ e)
    (hlt : (m : ℝ) * 2 ^ e < 2 ^ ((f.bias : Int) + 1)) : ∃ c, c ≤ f.maxc ∧ codeVal f.mbits f.emin c = (m : ℝ) * 2 ^ e := by
  have hmono := codeVal_strictMono f.mbits f.emin
  have hle : ∀ c, codeVal f.mbits f.emin c = (m : ℝ) * 2 ^ e → c ≤ f.maxc := fun c hc => by
    rw [← hc, ← hf.codeVal_over] at hlt
    exact Nat.lt_succ_iff.mp (hmono.lt_iff_lt.mp hlt)
  suffices h : ∃ k j i : Nat, m * 2 ^ k < 2 ^ (f.mbits + 1) ∧ (j = 0 ∨ 2 ^ f.mbits ≤ m * 2 ^ k) ∧ e = f.emin - f.mbits + j + k by
    obtain ⟨k, j, -, h1, h2, h3⟩ := h
    have hv := codeVal_add_mul f.mbits f.emin (n := m * 2 ^ k) (j := j) (by rw [← pow_succ']; exact h1.le) h2
    have hv' : codeVal f.mbits f.emin (m * 2 ^ k + j * 2 ^ f.mbits) = (m : ℝ) * 2 ^ e := by
      rw [hv, h3, zpow_add₀ two_ne_zero (f.emin - f.mbits + j : Int), zpow_natCast]
      push_cast; ring
    exact ⟨_, hle _ hv', hv'⟩
  obtain ⟨p, hp⟩ : ∃ p : Nat, e = f.emin - f.mbits + p := ⟨(e - (f.emin - f.mbits)).toNat, by omega⟩
  by_cases hsub : m * 2 ^ p < 2 ^ (f.mbits + 1)
  · exact ⟨p, 0, 0, hsub, .inl rfl, by omega⟩
  · -- as many binades up as leave the mantissa normal
    have hm0 : m ≠ 0 := fun h0 => hsub (by rw [h0, Nat.zero_mul]; exact Nat.two_pow_pos _)
    have hl1 := Nat.log2_self_le hm0
    have hl2 : m < 2 ^ (Nat.log2 m + 1) := Nat.lt_log2_self
    have hlog : Nat.log2 m ≤ f.mbits := Nat.lt_succ_iff.mp ((Nat.log2_lt hm0).mpr hm)
    have hfit : m * 2 ^ (f.mbits - Nat.log2 m) < 2 ^ (f.mbits + 1) := by
      rw [show f.mbits + 1 = Nat.log2 m + 1 + (f.mbits - Nat.log2 m) by omega, pow_add]
      exact Nat.mul_lt_mul_of_pos_right hl2 (Nat.two_pow_pos _)
    have hpk : f.mbits - Nat.log2 m ≤ p := by
      by_contra hlt'
      exact hsub ((Nat.mul_le_mul_left _ (Nat.pow_le_pow_right (by decide) (by omega))).trans_lt hfit)
    refine ⟨f.mbits - Nat.log2 m, p - (f.mbits - Nat.log2 m), 0, hfit, .inr ?_, by omega⟩
    calc 2 ^ f.mbits = 2 ^ Nat.log2 m * 2 ^ (f.mbits - Nat.log2 m) := by rw [← pow_add]; congr 1; omega
      _ ≤ _ := Nat.mul_le_mul_right _ hl1

/-- The delivery of a code's own value is that code, with no flag. -/
theorem Fmt.round_own {f : Fmt} (hf : f.Ieee) (neg : Bool) {m c : Nat} {e : Int} (hm : m ≠ 0) (hc : c ≤ f.maxc)
    (hv : codeVal f.mbits f.emin c = (m : ℝ) * 2 ^ e) : f.round .ne neg m e false = { bits := f.signBit neg + c, fl := 0 } := by
  have hcut := Cut.of_real ((m : ℝ) * 2 ^ e)
  obtain ⟨-, hfin⟩ := Fmt.round_rounds hf neg (encloses_exact m e) hm (fun h => by cases h) hcut
  have hmono := codeVal_strictMono f.mbits f.emin
  have hhalf : (m : ℝ) * 2 ^ e < halfBelow f.mbits f.bias := by
    rw [← hf.codeVal_maxc.2, ← hv]
    exact (hmono.monotone hc).trans_lt (lt_add_of_pos_right _ (half_pos (codeUlp_pos ..)))
  obtain ⟨k, hk, hbits, hfl, -⟩ := hfin (by
    have := (hcut.lt_half f.mbits f.bias).mpr hhalf
    rwa [zpow_natCast] at this)
  have hck : k = c := le_antisymm ((hk.between hf hcut hc).2 hv.ge) ((hk.between hf hcut hc).1 hv.le)
  subst hck
  have hown : ((f.val k).rat : ℝ) = (m : ℝ) * 2 ^ e := (hf.rat_val hc).trans hv
  have hfl0 := hfl ⟨not_lt.mpr hown.le, not_lt.mpr hown.ge⟩
  generalize f.round .ne neg m e false = r at hbits hfl0
  cases r
  cases hbits
  cases hfl0
  rfl

/-- A pattern of FP32 with its sign bit: the value turned. -/
theorem Fmt.f32_val_signBit (neg : Bool) {c : Nat} (hc : c ≤ Fmt.f32.maxc) : (Fmt.f32.signBit neg + c) % 2 ^ 31 < Fmt.f32.infBits ∧
    (Fmt.f32.val (Fmt.f32.signBit neg + c)).rat = (if neg then -1 else 1) * (Fmt.f32.val c).rat := by
  have hmax : Fmt.f32.maxc = 2139095039 := rfl
  rw [hmax] at hc
  have hinf : Fmt.f32.infBits = 2139095040 := rfl
  have hsign : Fmt.f32.signBit neg = if neg then 2147483648 else 0 := rfl
  have hlow : (Fmt.f32.signBit neg + c) % 8388608 = c % 8388608 := by rw [hsign]; split <;> omega
  have hexp : (Fmt.f32.signBit neg + c) / 8388608 % 256 = c / 8388608 % 256 := by rw [hsign]; split <;> omega
  have htop : ((Fmt.f32.signBit neg + c) / 2147483648 % 2 == 1) = neg := by
    rw [hsign]; cases neg <;> simp <;> omega
  have htop0 : (c / 2147483648 % 2 == 1) = false := by simp; omega
  have hval : ∀ x, Fmt.f32.val x = if x / 8388608 % 256 = 255 then
      (if x % 8388608 = 0 then .inf (x / 2147483648 % 2 == 1) else .nan (x % 8388608 < 4194304))
      else if x / 8388608 % 256 = 0 then .fin (x / 2147483648 % 2 == 1) (x % 8388608) (-149)
      else .fin (x / 2147483648 % 2 == 1) (x % 8388608 + 8388608) ((x / 8388608 % 256 : Nat) - 127 - 23) := fun _ => rfl
  refine ⟨by rw [hinf, hsign]; split <;> omega, ?_⟩
  have hnormal : ¬ c / 8388608 % 256 = 255 := by omega
  rw [hval, hval, hlow, hexp, htop, htop0, if_neg hnormal, if_neg hnormal]
  split <;> simp only [FVal.rat, Bool.false_eq_true, if_false] <;> ring

/-- A value with at most eight bits of mantissa, within FP32's range, is delivered in FP32 exactly. -/
theorem f32_deliver_exact {neg : Bool} {m : Nat} {e : Int} (hm : m ≤ 2 ^ 8) (he : -149 ≤ e) (hlt : (m : ℝ) * 2 ^ e < 2 ^ (128 : Int)) :
    let v := FVal.fin neg m e
    let r := Fmt.f32.deliver v
    r.bits % 2 ^ 31 < Fmt.f32.infBits ∧ (Fmt.f32.val r.bits).rat = v.rat ∧ r.fl = 0 := by
  have hf : Fmt.f32.Ieee := (fmt_ieee .f32).1
  obtain ⟨c, hc, hv⟩ := hf.exists_code (m := m) (e := e) (hm.trans_lt (by decide)) he hlt
  have hrat : (Fmt.f32.val c).rat = (m : ℚ) * 2 ^ e := by
    refine Rat.cast_injective (α := ℝ) ((hf.rat_val hc).trans (hv.trans ?_))
    push_cast; rfl
  have hr : Fmt.f32.deliver (.fin neg m e) = { bits := Fmt.f32.signBit neg + c, fl := 0 } := by
    by_cases h0 : m = 0
    · subst h0
      have hc0 : c = 0 := by
        refine (codeVal_strictMono Fmt.f32.mbits Fmt.f32.emin).injective ?_
        rw [hv]
        simp [codeVal, codeMag]
      subst hc0
      rfl
    · exact Fmt.round_own hf neg h0 hc hv
  obtain ⟨h1, h2⟩ := Fmt.f32_val_signBit neg hc
  intro v r
  have hr' : r = { bits := Fmt.f32.signBit neg + c, fl := 0 } := hr
  rw [hr']
  refine ⟨h1, h2.trans ?_, rfl⟩
  rw [hrat]
  exact (mul_assoc ..).symm

/-- A finite element of a narrow format lies within FP32's precision and range. -/
theorem Nf.Valid.val_bounds {n : Nf} (hn : n.Valid) {c : Nat} (hc : c < 2 ^ n.width) (hi : ¬ n.Infinite c) (ho : ¬ n.NoNumber c) :
    ∃ neg m e, n.val c = .fin neg m e ∧ m ≤ 2 ^ 8 ∧ -149 ≤ e ∧ (m : ℝ) * 2 ^ e < 2 ^ (128 : Int) := by
  have hw : 2 ^ n.width ≤ 2 ^ 8 := Nat.pow_le_pow_right (by decide) hn.width_le
  have hbias := hn.bias_lt
  have hem := n.le_width.trans hn.width_le
  -- a mantissa below 2^(k + 1) in units of 2^e, with e + k at most 127, lies below 2^128
  have hrange : ∀ {m k : Nat} {e : Int}, m < 2 ^ (k + 1) → e + k ≤ 127 → (m : ℝ) * 2 ^ e < 2 ^ (128 : Int) := fun {m k e} hm he => by
    calc (m : ℝ) * 2 ^ e < (2 ^ (k + 1) : Nat) * 2 ^ e := mul_lt_mul_of_pos_right (by exact_mod_cast hm) (zpow_pos_two e)
      _ = 2 ^ (e + ((k + 1 : Nat) : Int)) := (zpow_add_nat ..).symm
      _ ≤ 2 ^ (128 : Int) := zpow_le_zpow_right₀ one_le_two (by push_cast; omega)
  rw [Nf.val_finite hc hi ho]
  by_cases he : n.e = 0
  · rw [if_pos he]
    split
    · exact ⟨_, _, _, rfl, by omega, by omega, hrange (k := 8) (by omega) (by omega)⟩
    · exact ⟨_, _, _, rfl, by omega, by omega, hrange (k := 8) (by omega) (by omega)⟩
  · rw [if_neg he]
    have hM : c % 2 ^ n.m < 2 ^ n.m := Nat.mod_lt _ (Nat.two_pow_pos _)
    have hM7 : 2 ^ n.m ≤ 2 ^ 7 := Nat.pow_le_pow_right (by decide) (by omega)
    have hE : c / 2 ^ n.m % 2 ^ n.e < 2 ^ n.e := Nat.mod_lt _ (Nat.two_pow_pos _)
    have hm2 : c % 2 ^ n.m + 2 ^ n.m < 2 ^ (n.m + 1) := by rw [pow_succ]; omega
    split
    · exact ⟨_, _, _, rfl, by omega, by rw [Nf.emin]; omega,
        hrange (k := n.m) (by omega) (by rw [Nf.emin]; omega)⟩
    · have hE7 : 2 ^ n.e ≤ 2 ^ 7 := Nat.pow_le_pow_right (by decide) hn.e_le
      exact ⟨_, _, _, rfl, by omega, by omega, hrange (k := n.m) hm2 (by omega)⟩

/-- The number that a finite element is (R68). -/
theorem Nf.rat_eq {n : Nf} {c : Nat} (hc : c < 2 ^ n.width) (hi : ¬ n.Infinite c) (ho : ¬ n.NoNumber c) : (n.val c).rat =
    if n.e = 0 then (if n.s ∧ 2 ^ (n.width - 1) ≤ c then (c : ℚ) - 2 ^ n.width else c) / 2 ^ n.bias
    else (if n.neg c then -1 else 1) *
      (if c / 2 ^ n.m % 2 ^ n.e = 0 then ((c % 2 ^ n.m : Nat) : ℚ) / 2 ^ n.m * 2 ^ (1 - (n.bias : ℤ))
        else (1 + ((c % 2 ^ n.m : Nat) : ℚ) / 2 ^ n.m) * 2 ^ (((c / 2 ^ n.m % 2 ^ n.e : Nat) : ℤ) - n.bias)) := by
  have hM : (2 : ℚ) ^ n.m ≠ 0 := by positivity
  rw [Nf.val_finite hc hi ho]
  by_cases he : n.e = 0
  · rw [if_pos he, if_pos he, div_eq_mul_inv]
    have hcond : (n.s && decide (2 ^ (n.width - 1) ≤ c)) = true ↔ n.s ∧ 2 ^ (n.width - 1) ≤ c := by
      rw [Bool.and_eq_true, decide_eq_true_iff]
    by_cases hs : n.s ∧ 2 ^ (n.width - 1) ≤ c
    · rw [if_pos hs, if_pos (hcond.mpr hs), FVal.rat, zpow_neg, zpow_natCast, Nat.cast_sub hc.le]
      push_cast
      simp
    · rw [if_neg hs, if_neg (mt hcond.mp hs), FVal.rat, zpow_neg, zpow_natCast]
      simp
  · rw [if_neg he, if_neg he]
    split
    · rw [FVal.rat, Nf.emin, zpow_sub₀ two_ne_zero, zpow_natCast]
      field_simp
    · rw [FVal.rat, zpow_sub₀ two_ne_zero _ (n.m : ℤ), zpow_natCast]
      push_cast
      field_simp
      ring

end Sys2Proof.Machine
end

section
/-! SUPPORT. A value delivered in a narrow format (05 R74): the nearest code of a format with an exponent and its overflow, and the clamped integer of
one without. -/
namespace Sys2Proof.Machine

/-! ## Overflow in a format of any mantissa (R64) -/

section
variable {mbits m maxc : Nat} {emin e : Int} {v : ℝ} (h : Encloses m e false v) (hm0 : m ≠ 0)
include h hm0

/-- A magnitude of twice the largest finite value overflows: rounded, it keeps its leading power of two. -/
theorem roundMag_beyond (hv : 2 * codeVal mbits emin maxc ≤ v) : (roundMag .ne mbits emin maxc m e false).beyond = true := by
  obtain ⟨hlo, hhi⟩ := h.log2 hm0
  simp only [roundMag]
  generalize hqu : e + (Nat.log2 m : Int) - mbits = qu
  rw [show e + (Nat.log2 m : Int) = qu + mbits by omega] at hlo hhi
  obtain ⟨hnear, -⟩ := roundAt_nearest h (q := qu) (fun hs => by cases hs)
  rw [magLt_iff]
  rw [zpow_add_nat] at hlo
  have hn : ((2 ^ mbits : Nat) : ℝ) ≤ (roundAt .ne m e false qu).1 := by exact_mod_cast hnear.ge_of_le hlo
  have hpow := mul_le_mul_of_nonneg_right hn (zpow_pos_two qu).le
  rw [zpow_add_one₀ two_ne_zero, zpow_add_nat] at hhi
  exact lt_of_lt_of_le (show codeVal mbits emin maxc < _ by linarith) hpow

/-- A magnitude up to the largest finite value does not overflow: that value is a multiple of the unit at which it is rounded. -/
theorem roundMag_within (hv : v ≤ codeVal mbits emin maxc) : (roundMag .ne mbits emin maxc m e false).beyond = false := by
  obtain ⟨hlo, hhi⟩ := h.log2 hm0
  simp only [roundMag]
  generalize hqu : e + (Nat.log2 m : Int) - mbits = qu
  rw [show e + (Nat.log2 m : Int) = qu + mbits by omega] at hlo
  obtain ⟨hnear, -⟩ := roundAt_nearest h (q := qu) (fun hs => by cases hs)
  rw [Bool.eq_false_iff, Ne, magLt_iff, not_lt]
  obtain ⟨n, j, hc, hn, hj, -⟩ := exists_code mbits maxc
  have hval := codeVal_add_mul mbits emin hn.le hj
  rw [← hc] at hval
  have hunit : qu ≤ emin - mbits + (j : Int) := by
    by_contra hlt
    have h1 : (2 : ℝ) ^ (emin - mbits + (j : Int) + ((mbits + 1 : Nat) : Int)) ≤ 2 ^ (qu + (mbits : Int)) :=
      zpow_le_zpow_right₀ one_le_two (by push_cast; omega)
    have h2 : codeVal mbits emin maxc < 2 ^ (emin - mbits + (j : Int) + ((mbits + 1 : Nat) : Int)) := by
      rw [hval, zpow_add_nat (emin - mbits + (j : Int))]
      exact mul_lt_mul_of_pos_right (Nat.cast_lt.mpr (hn.trans_eq (pow_succ' 2 mbits).symm)) (zpow_pos_two _)
    linarith
  obtain ⟨k, hk⟩ : ∃ k : Nat, codeVal mbits emin maxc = (k : ℝ) * 2 ^ qu := by
    refine ⟨n * 2 ^ (emin - mbits + (j : Int) - qu).toNat, ?_⟩
    rw [hval, Nat.cast_mul, mul_assoc, ← zpow_add_nat]
    congr 2; omega
  change _ ≤ codeVal mbits emin maxc
  rw [hk] at hv ⊢
  have hq := zpow_pos_two qu
  have h1 : ((roundAt .ne m e false qu).1 : ℝ) - 1 / 2 ≤ k := le_of_mul_le_mul_right (hnear.ge.trans hv) hq
  have h2 : (roundAt .ne m e false qu).1 < k + 1 := by
    exact_mod_cast (show ((roundAt .ne m e false qu).1 : ℝ) < (k : ℝ) + 1 by linarith)
  exact mul_le_mul_of_nonneg_right (by exact_mod_cast Nat.lt_succ_iff.mp h2) hq.le

end

/-- A code near to a magnitude that another code's value bounds lies at or below that code. -/
theorem NearCodeVal.le_of_le {mbits : Nat} {emin : Int} {v : ℝ} {c k : Nat} (h : NearCodeVal mbits emin v c)
    (hv : v ≤ codeVal mbits emin k) : c ≤ k := by
  by_contra hc
  obtain ⟨b, rfl⟩ : ∃ b, b + 1 = c := ⟨c - 1, by omega⟩
  have h1 := (codeVal_strictMono mbits emin).monotone (show k ≤ b by omega)
  have h2 := codeUlp_pos mbits emin b
  linarith [h.ge b rfl]

/-! ## Formats with an exponent (R74) -/

section
variable {n : Nf} (he : n.e ≠ 0) {neg : Bool} {m : Nat} {e : Int}
include he

theorem Nf.deliver_nan (s : Bool) : n.deliver (.nan s) = { bits := if n.spec = 0 then 0 else 2 ^ (n.e + n.m) - 1, fl := flNV } := by
  rw [Nf.deliver, if_neg he, Nf.deliverFloat]

theorem Nf.deliver_inf : n.deliver (.inf neg) =
    if (neg && !n.s) = true then { bits := 0, fl := flOF ||| flNX }
    else if n.spec = 1 then { bits := n.signBit neg + (2 ^ n.e - 1) * 2 ^ n.m, fl := 0 }
    else { bits := n.signBit neg + n.maxc, fl := flOF ||| flNX } := by
  rw [Nf.deliver, if_neg he, Nf.deliverFloat]

theorem Nf.deliver_zero : n.deliver (.fin neg 0 e) = { bits := n.signBit neg, fl := 0 } := by
  rw [Nf.deliver, if_neg he, Nf.deliverFloat, if_pos rfl]

theorem Nf.deliver_lost (hm : m ≠ 0) (hl : (neg && !n.s) = true) : n.deliver (.fin neg m e) = { bits := 0, fl := flNX } := by
  rw [Nf.deliver, if_neg he, Nf.deliverFloat, if_neg hm, if_pos hl]

section
variable (hm : m ≠ 0) (hl : ¬ (neg && !n.s) = true)
include hm hl

theorem Nf.deliver_fin :
    let x := roundMag .ne n.m n.emin n.maxc m e false
    n.deliver (.fin neg m e) =
      if x.beyond = true then { bits := n.signBit neg + (if n.sat = 1 then (2 ^ n.e - 1) * 2 ^ n.m else n.maxc), fl := flOF ||| flNX }
      else { bits := n.signBit neg + x.code, fl := flagIf x.inexact flNX ||| flagIf (x.tiny && x.inexact) flUF } := by
  rw [Nf.deliver, if_neg he, Nf.deliverFloat, if_neg hm, if_neg hl]
  rfl

/-- A value of twice the largest finite one and more overflows. -/
theorem Nf.deliver_overflows (hv : 2 * (n.val n.maxc).rat ≤ |(FVal.fin neg m e).rat|) : n.deliver (.fin neg m e) =
    { bits := n.signBit neg + (if n.sat = 1 then (2 ^ n.e - 1) * 2 ^ n.m else n.maxc), fl := flOF ||| flNX } := by
  rw [FVal.abs_rat_fin, ← Rat.cast_le (K := ℝ)] at hv
  push_cast at hv
  rw [Nf.rat_val he le_rfl] at hv
  refine (Nf.deliver_fin he hm hl).trans (if_pos (roundMag_beyond (encloses_exact m e) hm hv))

/-- A value up to the largest finite one becomes the nearest, of a format with a mantissa, with the flags of R64. -/
theorem Nf.deliver_nearest (hn : n.m ≠ 0) (hv : |(FVal.fin neg m e).rat| ≤ (n.val n.maxc).rat) :
    let y := |(FVal.fin neg m e).rat|
    ∃ c, NearestCode n.val n.maxc (fun z => y < z) (fun z => z < y) c ∧ (n.deliver (.fin neg m e)).bits = n.signBit neg + c ∧
      (n.deliver (.fin neg m e)).fl = if (n.val c).rat = y then 0
        else if y < (2 - 1 / 2 ^ (n.m + 1)) * 2 ^ (-(n.bias : ℤ)) then flUF ||| flNX else flNX := by
  have hy : ((|(FVal.fin neg m e).rat| : ℚ) : ℝ) = (m : ℝ) * 2 ^ e := by
    rw [FVal.abs_rat_fin]; push_cast; rfl
  have hcut := Cut.of_rat |(FVal.fin neg m e).rat|
  have hbound : (m : ℝ) * 2 ^ e ≤ codeVal n.m n.emin n.maxc := by
    rw [← hy, ← Nf.rat_val he le_rfl]
    exact_mod_cast hv
  have henc : Encloses m e false ((|(FVal.fin neg m e).rat| : ℚ) : ℝ) := hy
  rw [← hy] at hbound
  intro y
  obtain ⟨hcode, hexact, q, k, hk, -, htiny⟩ := roundMag_near (emin := n.emin) n.maxc (Nat.one_le_iff_ne_zero.mpr hn) henc hm (fun h => by cases h)
  have hwithin := roundMag_within henc hm hbound
  have hpow := hk.lt_pow_iff (n.emin - 1)
  rw [sub_add_cancel] at hpow
  have hunder := hcut.lt_half n.m (n.emin - 1)
  rw [show n.emin - 1 = -(n.bias : ℤ) by rw [Nf.emin]; omega] at hpow hunder
  rw [hpow, ← hunder] at htiny
  rw [Nf.deliver_fin he hm hl]
  generalize roundMag .ne n.m n.emin n.maxc m e false = x at hcode hexact hwithin htiny ⊢
  rw [if_neg (by rw [hwithin]; exact Bool.false_ne_true)]
  have hc := hcode.le_of_le hbound
  refine ⟨x.code, hcode.nearestCode hcut (fun j hj => Nf.rat_val he hj) hc, rfl, ?_⟩
  have hown : x.inexact = false ↔ (n.val x.code).rat = y := by
    rw [hexact, ← Nf.rat_val he hc, Rat.cast_inj, eq_comm]
  by_cases hx : (n.val x.code).rat = y
  · rw [if_pos hx, hown.mpr hx]
    simp [flagIf]
  · have hi : x.inexact = true := by simpa using mt hown.mp hx
    rw [if_neg hx, hi]
    by_cases ht : y < (2 - 1 / 2 ^ (n.m + 1)) * 2 ^ (-(n.bias : ℤ))
    · rw [if_pos ht, htiny.mpr ht]
      rfl
    · rw [if_neg ht, Bool.eq_false_iff.mpr (mt htiny.mp ht)]
      rfl

end

end

/-! ## Formats without an exponent (R74) -/

/-- The least and the greatest integer of a format without an exponent, in its units. -/
def Nf.lo (n : Nf) : Int := if n.s then -2 ^ (n.width - 1) else 0
def Nf.hi (n : Nf) : Int := if n.s then 2 ^ (n.width - 1) - 1 else 2 ^ n.width - 1

/-- The bits of an integer of that format. -/
def Nf.intBits (n : Nf) (i : Int) : Nat := (i % 2 ^ n.width).toNat

/-- The magnitude beyond which a value of a sign is clamped. -/
def Nf.bound (n : Nf) (neg : Bool) : Nat :=
  if neg then (if n.s then 2 ^ (n.width - 1) else 0) else if n.s then 2 ^ (n.width - 1) - 1 else 2 ^ n.width - 1

/-- An integer from its magnitude and its sign. -/
def signedInt (neg : Bool) (k : Nat) : Int := if neg then -(k : Int) else k

section
variable {n : Nf} (hw : 1 ≤ n.width)
include hw

/-- The bounds of a format of 2 · P integers. -/
theorem Nf.limits : ∃ P : Nat, 0 < P ∧ 2 ^ n.width = 2 * P ∧ n.lo = (if n.s then -(P : Int) else 0) ∧
    n.hi = (if n.s then (P : Int) - 1 else 2 * P - 1) ∧
    ∀ neg, n.bound neg = if neg then (if n.s then P else 0) else if n.s then P - 1 else 2 * P - 1 := by
  have h2 : 2 ^ n.width = 2 * 2 ^ (n.width - 1) := by rw [← pow_succ']; congr 1; omega
  refine ⟨2 ^ (n.width - 1), Nat.two_pow_pos _, h2, by rw [Nf.lo]; push_cast; rfl, ?_, fun neg => by rw [Nf.bound, h2]⟩
  rw [Nf.hi, show (2 : Int) ^ n.width = ((2 ^ n.width : Nat) : Int) by push_cast; rfl, h2]
  push_cast; rfl

/-- A magnitude is beyond its bound where the integer leaves the format on its sign's side. -/
theorem Nf.bound_lt_iff (neg : Bool) (k : Nat) :
    n.bound neg < k ↔ if neg then signedInt neg k < n.lo else n.hi < signedInt neg k := by
  obtain ⟨P, hP, -, hlo, hhi, hb⟩ := Nf.limits hw
  rw [hlo, hhi, hb, signedInt]
  cases neg <;> cases n.s <;> simp <;> omega

/-- No integer leaves the format on the side that is not its sign's. -/
theorem Nf.signedInt_side (k : Nat) : n.lo ≤ signedInt false k ∧ signedInt true k ≤ n.hi := by
  obtain ⟨P, hP, -, hlo, hhi, -⟩ := Nf.limits hw
  rw [hlo, hhi, signedInt, signedInt]
  cases n.s <;> simp <;> omega

/-- The bits of an integer whose magnitude its sign's bound allows, two's complement below zero. -/
theorem Nf.intBits_signed {neg : Bool} {k : Nat} (hk : k ≤ n.bound neg) :
    n.intBits (signedInt neg k) = if neg then (2 ^ n.width - k) % 2 ^ n.width else k := by
  obtain ⟨P, hP, h2, -, -, hb⟩ := Nf.limits hw
  have hle : k ≤ 2 * P ∧ (neg = false → k < 2 * P) := by
    rw [hb] at hk
    revert hk
    cases neg <;> cases n.s <;> simp <;> omega
  rw [Nf.intBits, show (2 : Int) ^ n.width = ((2 ^ n.width : Nat) : Int) by push_cast; rfl, h2, signedInt]
  cases neg with
  | true =>
    rw [if_pos rfl, if_pos rfl, show -(k : Int) = ((2 * P - k : Nat) : Int) - (2 * P : Nat) by omega, Int.sub_emod_right]
    exact_mod_cast rfl
  | false =>
    rw [if_neg Bool.false_ne_true, if_neg Bool.false_ne_true]
    exact Nat.mod_eq_of_lt (hle.2 rfl)

/-- The bits of the clamps. -/
theorem Nf.intBits_clamp (neg : Bool) : n.intBits (if neg then n.lo else n.hi) = n.bound neg := by
  obtain ⟨P, hP, h2, hlo, hhi, hb⟩ := Nf.limits hw
  have hs : (if neg then n.lo else n.hi) = signedInt neg (n.bound neg) := by
    rw [hlo, hhi, hb, signedInt]
    cases neg <;> cases n.s <;> simp <;> omega
  rw [hs, Nf.intBits_signed hw le_rfl, h2]
  cases neg with
  | false => rfl
  | true =>
    rw [if_pos rfl, hb, if_pos rfl]
    cases n.s with
    | false => simp
    | true => rw [if_pos rfl, Nat.mod_eq_of_lt (by omega)]; omega

end

/-- A value in the units of a format without an exponent, and the integer nearest to it, of two the even one. -/
theorem FVal.nearest_int (neg : Bool) (m : Nat) (e : Int) (b : Nat) :
    let y := (FVal.fin neg m e).rat * 2 ^ b
    let r := roundAt .ne m e false (-(b : Int))
    let i := signedInt neg r.1
    |y - i| ≤ 1 / 2 ∧ (|y - i| = 1 / 2 → i % 2 = 0) ∧ (r.2 = false ↔ y = i) := by
  obtain ⟨⟨hle, hge, heven⟩, hexact⟩ := roundAt_nearest (encloses_exact m e) (q := -(b : Int)) (fun h => by cases h)
  intro y r i
  change (m : ℝ) * 2 ^ e ≤ ((r.1 : ℝ) + 1 / 2) * 2 ^ (-(b : Int)) at hle
  change ((r.1 : ℝ) - 1 / 2) * 2 ^ (-(b : Int)) ≤ (m : ℝ) * 2 ^ e at hge
  change (m : ℝ) * 2 ^ e = ((r.1 : ℝ) + 1 / 2) * 2 ^ (-(b : Int)) ∨ (m : ℝ) * 2 ^ e = ((r.1 : ℝ) - 1 / 2) * 2 ^ (-(b : Int)) → r.1 % 2 = 0 at heven
  change r.2 = false ↔ (m : ℝ) * 2 ^ e = (r.1 : ℝ) * 2 ^ (-(b : Int)) at hexact
  have hb : (0 : ℝ) < 2 ^ b := by positivity
  rw [zpow_neg, zpow_natCast, ← div_eq_mul_inv] at hle hge hexact
  rw [zpow_neg, zpow_natCast, ← div_eq_mul_inv, ← div_eq_mul_inv, eq_div_iff hb.ne', eq_div_iff hb.ne'] at heven
  rw [le_div_iff₀ hb] at hle
  rw [div_le_iff₀ hb] at hge
  rw [eq_div_iff hb.ne'] at hexact
  -- the magnitude in units
  obtain ⟨z, hz⟩ : ∃ z : ℚ, z = (m : ℚ) * 2 ^ e * 2 ^ b := ⟨_, rfl⟩
  have hzr : (z : ℝ) = (m : ℝ) * 2 ^ e * 2 ^ b := by rw [hz]; push_cast; rfl
  rw [← hzr] at hle hge hexact heven
  have hdist : |y - i| = |z - r.1| ∧ (y = i ↔ z = r.1) := by
    have hy : y = (if neg then -1 else 1) * z := by rw [hz]; exact mul_assoc .. |>.trans (by ring)
    have hi : (i : ℚ) = (if neg then -1 else 1) * (r.1 : ℚ) := by
      show ((signedInt neg r.1 : Int) : ℚ) = _
      rw [signedInt]
      cases neg <;> simp
    rw [hy, hi, ← mul_sub, abs_mul]
    cases neg <;> simp
  have hpar : i % 2 = 0 ↔ r.1 % 2 = 0 := by
    show signedInt neg r.1 % 2 = 0 ↔ _
    rw [signedInt]
    split <;> omega
  rw [hdist.1, hdist.2, hpar]
  refine ⟨abs_le.mpr ⟨?_, ?_⟩, fun hx => heven ?_, hexact.trans ?_⟩
  · have := (Rat.cast_le (K := ℝ) (p := (r.1 : ℚ) - 1 / 2) (q := z)).mp (by push_cast; exact hge)
    linarith
  · have := (Rat.cast_le (K := ℝ) (p := z) (q := (r.1 : ℚ) + 1 / 2)).mp (by push_cast; exact hle)
    linarith
  · rcases (abs_eq (by norm_num)).mp hx with h | h
    · exact .inl (by rw [show z = (r.1 : ℚ) + 1 / 2 by linarith]; push_cast; rfl)
    · exact .inr (by rw [show z = (r.1 : ℚ) - 1 / 2 by linarith]; push_cast; ring)
  · exact_mod_cast Iff.rfl

section
variable {n : Nf} (he : n.e = 0) {neg : Bool} {m : Nat} {e : Int}
include he

theorem Nf.deliver_int_nan (s : Bool) : n.deliver (.nan s) = { bits := 0, fl := flNV } := by
  rw [Nf.deliver, if_pos he, Nf.deliverInt]

theorem Nf.deliver_int_zero : n.deliver (.fin neg 0 e) = { bits := 0, fl := 0 } := by
  rw [Nf.deliver, if_pos he, Nf.deliverInt, if_pos rfl]

theorem Nf.deliver_int_lost (hm : m ≠ 0) (hl : (neg && !n.s) = true) : n.deliver (.fin neg m e) = { bits := 0, fl := flNX } := by
  rw [Nf.deliver, if_pos he, Nf.deliverInt, if_neg hm, if_pos hl]

theorem Nf.deliver_int_inf (hw : 1 ≤ n.width) : n.deliver (.inf neg) = { bits := n.intBits (if neg then n.lo else n.hi), fl := flOF ||| flNX } := by
  rw [Nf.deliver, if_pos he, Nf.deliverInt, Nf.intBits_clamp hw]
  rfl

theorem Nf.deliver_int_fin (hm : m ≠ 0) (hl : ¬ (neg && !n.s) = true) :
    let r := roundAt .ne m e false (-(n.bias : Int))
    n.deliver (.fin neg m e) = if n.bound neg < r.1 then { bits := n.bound neg, fl := flOF ||| flNX }
      else { bits := if neg then (2 ^ n.width - r.1) % 2 ^ n.width else r.1, fl := flagIf r.2 flNX ||| flagIf (r.1 == 0) (flUF ||| flNX) } := by
  rw [Nf.deliver, if_pos he, Nf.deliverInt, if_neg hm, if_neg hl]
  rfl

/-- A value in a format without an exponent: the nearest integer, clamped. -/
theorem Nf.deliver_int_nearest (hw : 1 ≤ n.width) (hm : m ≠ 0) (hl : ¬ (neg && !n.s) = true) :
    let y := (FVal.fin neg m e).rat * 2 ^ n.bias
    let r := n.deliver (.fin neg m e)
    ∃ i : Int, |y - i| ≤ 1 / 2 ∧ (|y - i| = 1 / 2 → i % 2 = 0) ∧
      (i < n.lo → r = { bits := n.intBits n.lo, fl := flOF ||| flNX }) ∧ (n.hi < i → r = { bits := n.intBits n.hi, fl := flOF ||| flNX }) ∧
      (n.lo ≤ i → i ≤ n.hi → r = { bits := n.intBits i, fl := if i = 0 then flUF ||| flNX else if y = i then 0 else flNX }) := by
  obtain ⟨h1, h2, h3⟩ := FVal.nearest_int neg m e n.bias
  have hr := Nf.deliver_int_fin he (e := e) hm hl
  dsimp only at hr h1 h2 h3 ⊢
  generalize n.deliver (.fin neg m e) = r at hr ⊢
  generalize roundAt .ne m e false (-(n.bias : Int)) = x at h1 h2 h3 hr
  have hbeyond := Nf.bound_lt_iff hw neg x.1
  obtain ⟨hpos, hneg⟩ := Nf.signedInt_side hw x.1
  have hclamp := Nf.intBits_clamp hw neg
  refine ⟨signedInt neg x.1, h1, h2, fun hi => ?_, fun hi => ?_, fun hi1 hi2 => ?_⟩
  · cases neg with
    | false => exact absurd hi (not_lt.mpr hpos)
    | true => rw [hr, if_pos (hbeyond.mpr hi), ← hclamp]; rfl
  · cases neg with
    | false => rw [hr, if_pos (hbeyond.mpr hi), ← hclamp]; rfl
    | true => exact absurd hi (not_lt.mpr hneg)
  · have hin : ¬ n.bound neg < x.1 := by
      rw [hbeyond]
      split <;> omega
    rw [hr, if_neg hin, Nf.intBits_signed hw (not_lt.mp hin)]
    have h0 : signedInt neg x.1 = 0 ↔ x.1 = 0 := by rw [signedInt]; split <;> omega
    congr 1
    by_cases hx0 : x.1 = 0
    · rw [if_pos (h0.mpr hx0), hx0]
      cases x.2 <;> rfl
    · rw [if_neg (mt h0.mp hx0), beq_eq_false_iff_ne.mpr hx0]
      by_cases hy : (FVal.fin neg m e).rat * 2 ^ n.bias = signedInt neg x.1
      · rw [if_pos hy, h3.mpr hy]
        rfl
      · rw [if_neg hy, Bool.eq_true_of_not_eq_false (mt h3.mp hy)]
        rfl

end

end Sys2Proof.Machine
end

section
/-! SUPPORT. A word of FCVT by its two types, and the values that a narrow format without a sign cannot deliver (05 R74, 07 R109). -/
namespace Sys2Proof.Machine

/-- A value below zero for a format without a sign, as R74 sets it apart. -/
def Nf.Loses (n : Nf) (v : FVal) : Prop := v.isZero = false ∧ v.sign = true ∧ n.s = false

theorem Nf.loses_fin {n : Nf} {neg : Bool} {m : Nat} {e : Int} (hm : m ≠ 0) : n.Loses (.fin neg m e) ↔ (neg && !n.s) = true := by
  rw [Nf.Loses, Bool.and_eq_true, Bool.not_eq_true']
  exact and_iff_right (beq_eq_false_iff_ne.mpr hm)

theorem Nf.loses_inf {n : Nf} {neg : Bool} : n.Loses (.inf neg) ↔ (neg && !n.s) = true := by
  rw [Nf.Loses, Bool.and_eq_true, Bool.not_eq_true']
  exact and_iff_right rfl

/-- A value that is no NaN, no infinity and no zero. -/
theorem FVal.fin_of_nonzero {v : FVal} (hn : v.isNan = false) (hi : v.isInf = false) (hz : v.isZero = false) :
    ∃ neg m e, v = .fin neg m e ∧ m ≠ 0 := by
  obtain ⟨neg, m, e, rfl⟩ := FVal.fin_of_finite hn hi
  exact ⟨neg, m, e, rfl, by simpa [FVal.isZero] using hz⟩

/-- A value below zero that the format loses becomes 0, inexact. -/
theorem Nf.deliver_loses {n : Nf} {v : FVal} (hn : v.isNan = false) (hi : v.isInf = false) (hl : n.Loses v) :
    n.deliver v = { bits := 0, fl := flNX } := by
  obtain ⟨neg, m, e, rfl, hm⟩ := FVal.fin_of_nonzero hn hi hl.1
  by_cases he : n.e = 0
  · exact Nf.deliver_int_lost he hm ((Nf.loses_fin hm).mp hl)
  · exact Nf.deliver_lost he hm ((Nf.loses_fin hm).mp hl)

/-- A NaN has no place in a format without one, nor in one without an exponent. -/
theorem Nf.deliver_isNan {n : Nf} {v : FVal} (h : v.isNan = true) :
    n.deliver v = { bits := if n.e = 0 ∨ n.spec = 0 then 0 else 2 ^ (n.e + n.m) - 1, fl := flNV } := by
  obtain ⟨q, rfl⟩ := FVal.isNan_iff.mp h
  by_cases he : n.e = 0
  · rw [Nf.deliver_int_nan he, if_pos (.inl he)]
  · rw [Nf.deliver_nan he]
    simp only [he, false_or]

/-- A zero keeps its sign where the format has one and an exponent. -/
theorem Nf.deliver_isZero {n : Nf} {v : FVal} (h : v.isZero = true) :
    n.deliver v = { bits := if n.e ≠ 0 ∧ n.s ∧ v.sign then 2 ^ (n.e + n.m) else 0, fl := 0 } := by
  obtain ⟨neg, e, rfl⟩ := FVal.isZero_iff.mp h
  by_cases he : n.e = 0
  · rw [Nf.deliver_int_zero he, if_neg (fun hx => hx.1 he)]
  · rw [Nf.deliver_zero he, Nf.signBit]
    congr 1
    refine if_congr ?_ rfl rfl
    rw [Bool.and_eq_true]
    exact (and_iff_right he).symm

section
variable {t : Thread} {ds ss : CType}

/-- The source of FCVT under a descriptor that is valid where it is asked for. -/
theorem cvtSource_eq (w : Nat) : cvtSource (nfOf t.fa) ss w =
    ss.ieee.elim (((nfOf t.fa).map (fun n => n.val w)).getD (.nan false)) (fun f => f.val (w % 2 ^ f.width)) := by
  unfold cvtSource
  cases ss.ieee with
  | some f => rfl
  | none => cases nfOf t.fa <;> rfl

/-- What FCVT delivers, likewise. -/
theorem cvtResult_eq (v : FVal) : cvtResult (nfOf t.fa) ds v =
    ds.ieee.elim (((nfOf t.fa).map (fun n => n.deliver v)).getD { bits := 0, fl := 0 }) (fun f => f.deliver v) := by
  unfold cvtResult
  cases ds.ieee with
  | some f => rfl
  | none => cases nfOf t.fa <;> rfl

end

end Sys2Proof.Machine

open Sys2Proof Sys2Proof.Machine

/-- Settles O13: FCMP's condition is a truth of `valLt`; an element lies within FP32's precision and range (`f32_deliver_exact`); and a value becomes
the nearest code of a narrow format (`Nf.deliver_nearest`), or the nearest integer, clamped (`Nf.deliver_int_nearest`). -/
theorem floatConvertResults : Obligations.FloatConvertResults := by
  intro s t ty it rm cc ds ss d a b f x y un named nv
  refine ⟨fun h => ?_, fun h => ⟨?_, ?_, fun hn => execFcvt_faults h hn d, fun hn => ?_⟩, fun n hn => ⟨fun c hc => ?_, fun v => ?_⟩⟩
  · have hnamed : cc.holds x y = named := by
      cases cc with
      | eq => exact (valEq_and_ordered x y).symm
      | ne =>
        change (!valEq x y) = (un || !valEq x y)
        rw [← valEq_and_ordered x y]
        change _ = (x.isNan || y.isNan || _)
        cases x.isNan || y.isNan <;> rfl
      | lt => exact (valLt_and_ordered x y).symm
      | gt =>
        change valLt y x = (!un && valLt y x)
        rw [show un = (y.isNan || x.isNan) from Bool.or_comm .., valLt_and_ordered]
      | _ => rfl
    have hnv : cc.invalid x y = nv := by cases cc <;> rfl
    have hw := execFcmp_completes h ty cc d
    rw [show cc.holds (ty.fmt.val (fpSrc ty.fmt t a)) (ty.fmt.val (fpSrc ty.fmt t b)) = named from hnamed,
      show cc.invalid (ty.fmt.val (fpSrc ty.fmt t a)) (ty.fmt.val (fpSrc ty.fmt t b)) = nv from hnv] at hw
    exact hw
  · exact fpIntWord_completes h d (fun t => BitVec.ofInt 64 (toInt rm it.bounds.1 it.bounds.2 (f.val (fpSrc f t a))).1)
      (fun t => (toInt rm it.bounds.1 it.bounds.2 (f.val (fpSrc f t a))).2)
  · exact fpWord_completes h d (fun t => f.deliver (intVal (it.read (t.rd a))))
  · have hw := execFcvt_completes h hn d
    rw [cvtResult_eq, cvtSource_eq] at hw
    cases ds <;> cases ss <;> exact hw
  · refine ⟨fun hi => ?_, fun ho => ?_, fun hi ho => ?_⟩
    · have hv := Nf.val_infinite hc hi
      exact ⟨hv, by rw [hv]; rfl⟩
    · obtain ⟨q, hv⟩ := Nf.val_noNumber hc ho
      rw [hv]
      exact ⟨rfl, rfl⟩
    · obtain ⟨neg, m, e, hv, hm, he, hlt⟩ := (nfOf_valid hn).val_bounds hc hi ho
      obtain ⟨h1, h2, h3⟩ := f32_deliver_exact (neg := neg) hm he hlt
      rw [← hv] at h1 h2 h3
      exact ⟨by rw [hv]; rfl, by rw [hv]; rfl, h1, h2, h3, Nf.rat_eq hc hi ho⟩
  · refine ⟨Nf.deliver_isNan, Nf.deliver_isZero, Nf.deliver_loses, fun he hi => ?_, fun he hnan hinf hz hl => ?_, fun he => ?_⟩
    · obtain ⟨neg, rfl⟩ := FVal.isInf_iff.mp hi
      rw [Nf.deliver_inf he]
      refine ⟨fun hl => if_pos (Nf.loses_inf.mp hl), fun hl hs => ?_, fun hl hs => ?_⟩
      · rw [if_neg (mt Nf.loses_inf.mpr hl), if_pos hs]
        rfl
      · rw [if_neg (mt Nf.loses_inf.mpr hl), if_neg hs]
        rfl
    · obtain ⟨neg, m, e, rfl, hm⟩ := FVal.fin_of_nonzero hnan hinf hz
      have hl' := mt (Nf.loses_fin hm).mpr hl
      exact ⟨fun h0 hv => Nf.deliver_nearest he hm hl' h0 hv, fun hv => Nf.deliver_overflows he hm hl' hv⟩
    · have hw := (nfOf_valid hn).width_pos
      refine ⟨fun hi => ?_, fun hnan hinf hz hl => ?_⟩
      · obtain ⟨neg, rfl⟩ := FVal.isInf_iff.mp hi
        exact Nf.deliver_int_inf he hw
      · obtain ⟨neg, m, e, rfl, hm⟩ := FVal.fin_of_nonzero hnan hinf hz
        exact Nf.deliver_int_nearest he hw hm (mt (Nf.loses_fin hm).mpr hl)
end

section
/-! SUPPORT. The memory's one form (the model's own invariant, log entry 2) as a relation between two states: what a change keeps, composed along
the functions of the model, and read off their results. -/
namespace Sys2Proof.Machine

/-- A change that keeps the memory in its one form. -/
structure Keeps (s u : State) : Prop where
  canonical : MemoryCanonical s → MemoryCanonical u

/-- The state that the effect of a word leaves, whatever the effect is. -/
abbrev Res.state : Res → State
  | .done _ s | .trap _ _ s | .drop _ s | .wait _ s | .pend _ s | .ended s => s

/-! The same of the results of a fetch, of an access at its home, of a request served there, of a beat, of a unit's write and of a host's read. -/

abbrev Fill.state : Fill → State
  | .ok _ s | .stale s | .fault _ s | .full s => s

abbrev Reach.state : Reach → State
  | .ok s | .held s | .poisoned s => s

abbrev Served.state : Served → State
  | .reply _ s | .data _ s | .error s | .later s | .listed s => s

abbrev Beat.state : Beat → State
  | .ok _ s | .fail _ s | .skip s | .later s => s

abbrev UnitWrite.state : UnitWrite → State
  | .bad s | .held s | .ok _ s => s

abbrev HostRead.state : HostRead → State
  | .data _ s | .poisoned s | .later s => s

/-- The state of a check: that of its result, or of the effect in which it fails. -/
abbrev checkState {α : Type} (f : α → State) (x : Except Res α) : State := x.casesOn Res.state f

/-- The state of a result that need not be there, and s where it is not. -/
abbrev optState {α : Type} (s : State) (f : α → State) (o : Option α) : State := o.casesOn s f

/-- The state that a step goes on with, and s where it does not. -/
abbrev outState (s : State) : Out → State
  | .next u => u
  | .fault _ | .refused _ => s

section
variable {α β : Type} {s u v : State}

theorem Keeps.refl : Keeps s s := ⟨id⟩
theorem Keeps.trans (h : Keeps s u) (k : Keeps u v) : Keeps s v := ⟨fun c => k.canonical (h.canonical c)⟩
theorem Keeps.of_mem (h : u.mem = s.mem) : Keeps s u := ⟨fun c => (congrArg (fun m => Memory.wf m = true) h).mpr c⟩
theorem Keeps.of_wf (h : Memory.wf s.mem = true → Memory.wf u.mem = true) : Keeps s u := ⟨h⟩

theorem Keeps.ite {c : Prop} [Decidable c] (h : Keeps s u) (k : Keeps s v) : Keeps s (if c then u else v) := by
  split
  · exact h
  · exact k

theorem Keeps.foldl {f : State → α → State} (h : ∀ u a, Keeps u (f u a)) (l : List α) : Keeps s (l.foldl f s) := by
  induction l generalizing s with
  | nil => exact .refl
  | cons a l ih => exact (h s a).trans ih

/-- The state of a check that gives a state in either case. -/
abbrev eitherState (x : Except State State) : State := x.casesOn (fun u => u) (fun u => u)

/-! ## A result that is known -/

theorem Keeps.some {o : Option α} {f : α → State} {a : α} (h : Keeps s (optState s f o)) (e : o = some a) : Keeps s (f a) := by
  subst e; exact h

theorem Keeps.ok {x : Except Res α} {f : α → State} {a : α} (h : Keeps s (checkState f x)) (e : x = .ok a) : Keeps s (f a) := by
  subst e; exact h

theorem Keeps.error {x : Except Res α} {f : α → State} {r : Res} (h : Keeps s (checkState f x)) (e : x = .error r) : Keeps s r.state := by
  subst e; exact h

theorem Keeps.right {x : Except State State} {a : State} (h : Keeps s (eitherState x)) (e : x = .ok a) : Keeps s a := by
  subst e; exact h

theorem Keeps.left {x : Except State State} {a : State} (h : Keeps s (eitherState x)) (e : x = .error a) : Keeps s a := by
  subst e; exact h

theorem Keeps.cast {a b : State} (h : Keeps s a) (e : a = b) : Keeps s b := by
  subst e; exact h

theorem Keeps.snd {x : α × State} {a : α} (h : Keeps s x.2) (e : x = (a, u)) : Keeps s u := by
  subst e; exact h

end

/-- The state that a step goes on with. -/
theorem Keeps.next {s u : State} {o : Out} (h : Keeps s (outState s o)) (e : o = .next u) : Keeps s u := by
  subst e
  exact h

/-- A step of a later state. -/
theorem Keeps.out {s u : State} {o : Out} (h : Keeps s u) (k : Keeps u (outState u o)) : Keeps s (outState s o) := by
  cases o with
  | next v => exact h.trans k
  | fault f => exact .refl
  | refused x => exact .refl

/-- A result all of whose cases keep the memory's form, said of any property that follows from it. Its cases are told apart while the result is
only an argument of P, so that no check of the proof evaluates the computation that gives it (a page walk, a window's key): `Res.state` and its
like reduce as soon as their argument does. For the same reason such a proof may name the function and what it matches on (`F`, `G`), and open
`F` by its defining equation alone. -/
theorem Keeps.generic {s : State} {α : Type} {g : α → State} {x : α} (h : ∀ P : α → Prop, (∀ y, Keeps s (g y) → P y) → P x) : Keeps s (g x) :=
  h _ (fun _ k => k)

/-! ## Options -/

theorem Keeps.map {s : State} {α β : Type} {o : Option α} {g : α → β} {f : β → State} (h : ∀ a, Keeps s (f (g a))) :
    Keeps s (optState s f (o.map g)) := by
  cases o with
  | none => exact .refl
  | some a => exact h a

theorem Keeps.getD {s : State} {o : Option State} (h : Keeps s (optState s (fun u => u) o)) : Keeps s (o.getD s) := by
  cases o with
  | none => exact .refl
  | some u => exact h

theorem Keeps.findSome {s : State} {α : Type} {f : α → Option State} (h : ∀ a, Keeps s (optState s (fun u => u) (f a))) (l : List α) :
    Keeps s (optState s (fun u => u) (l.findSome? f)) := by
  induction l with
  | nil => exact .refl
  | cons a l ih =>
    rw [List.findSome?_cons]
    split
    · rename_i hb
      exact (h a).some hb
    · exact ih

/-! ## Updates of one field -/

section
variable (s : State)

theorem State.with_events_keepsMem (x : List Instr) : Keeps s { s with events := x } := .of_mem rfl
theorem State.with_timers_keepsMem (x : List (Nat × Instr)) : Keeps s { s with timers := x } := .of_mem rfl
theorem State.with_events_timers_keepsMem (x : List Instr) (y : List (Nat × Instr)) : Keeps s { s with events := x, timers := y } := .of_mem rfl
theorem State.with_firmware_keepsMem (x : KMap (List Byte)) : Keeps s { s with firmware := x } := .of_mem rfl
theorem State.with_modid_keepsMem (x : BitVec 16) : Keeps s { s with modid := x } := .of_mem rfl
theorem State.with_scan_events_keepsMem (x : Nat) (y : List Instr) : Keeps s { s with events := y, scan := x } := .of_mem rfl
theorem State.with_cur_keepsMem (x : Cur) : Keeps s { s with cur := x } := .of_mem rfl
theorem State.with_free_keepsMem (x : Nat) : Keeps s { s with free := x } := .of_mem rfl
theorem State.with_sessions_keepsMem (x : KMap Session) : Keeps s { s with sessions := x } := .of_mem rfl
theorem State.with_portOut_keepsMem (x : List PortMsg) : Keeps s { s with portOut := x } := .of_mem rfl
theorem State.with_bringUp_keepsMem (x : Nat) : Keeps s { s with bringUp := x } := .of_mem rfl

end

/-! ## The functions that write memory -/

/-- Bytes left out leave the rest in its form. -/
theorem memFilter_wf {m : Memory} (f : Nat × Byte → Bool) (h : Memory.wf m = true) : Memory.wf (m.filter f) = true := by
  induction m with
  | nil => rfl
  | cons e m ih =>
    obtain ⟨i, b⟩ := e
    obtain ⟨hb, ha, hw⟩ := Memory.wf_cons.mp h
    rw [List.filter_cons]
    split
    · exact Memory.wf_cons.mpr ⟨hb, fun c hc => ha c (List.mem_of_mem_filter hc), ih hw⟩
    · exact ih hw

theorem State.writeMem_keepsMem (s : State) (k n : Nat) (v : Word) : Keeps s (s.writeMem k n v) := .of_wf (s.writeMem_wf k n v)
theorem State.writeMemBytes_keepsMem (s : State) (k : Nat) (l : List Byte) : Keeps s (s.writeMemBytes k l) := .of_wf (s.writeMemBytes_wf k l)
theorem State.writeLine_keepsMem (s : State) (k : Nat) (v : BitVec 1024) : Keeps s (s.writeLine k v) := .of_wf (s.writeLine_wf k v)
theorem State.wipeRange_keepsMem (s : State) (lo hi : Nat) : Keeps s (s.wipeRange lo hi) := .of_wf (s.wipeRange_wf lo hi)

end Sys2Proof.Machine
end

section
/-! SUPPORT. The memory's form through the operations on the state, the walk and the operations that every meaning shares: one lemma per function. -/
namespace Sys2Proof.Machine

/-! ## Machine/Mem -/

theorem State.setFullBit_keepsMem (s : State) (k : Nat) (b : Bool) : Keeps s (State.setFullBit s k b) := .of_mem rfl

theorem State.poisonLine_keepsMem (s : State) (k : Nat) : Keeps s (State.poisonLine s k) := .of_mem rfl

theorem State.poisonWord_keepsMem (s : State) (k : Nat) : Keeps s (State.poisonWord s k) := .of_mem rfl

theorem State.unpoisonWord_keepsMem (s : State) (k : Nat) : Keeps s (State.unpoisonWord s k) := .of_mem rfl

theorem State.wholeWords_keepsMem (s : State) (k : Nat) (n : Nat) : Keeps s (State.wholeWords s k n) := by
  unfold State.wholeWords
  exact Keeps.foldl (fun u e => State.unpoisonWord_keepsMem ..) _

theorem State.keepLines_keepsMem (s old : State) (l : List Nat) : Keeps s (State.keepLines s old l) :=
  .foldl (fun _ _ => State.writeLine_keepsMem ..) l

/-! ## Machine/Base -/

theorem State.setPart_keepsMem (s : State) (p : PartId) (q : Partition) : Keeps s (State.setPart s p q) := .of_mem rfl

theorem State.modPart_keepsMem (s : State) (p : PartId) (f : Partition → Partition) : Keeps s (State.modPart s p f) := .of_mem rfl

theorem State.modRegs_keepsMem (s : State) (p : PartId) (f : PRegs → PRegs) : Keeps s (State.modRegs s p f) := .of_mem rfl

theorem State.modCoreW_keepsMem (s : State) (p : PartId) (c : CoreId) (f : CoreWorld → CoreWorld) :
    Keeps s (State.modCoreW s p c f) := .of_mem rfl

theorem State.modCoreC_keepsMem (s : State) (p : PartId) (c : CoreId) (f : CoreFixed → CoreFixed) :
    Keeps s (State.modCoreC s p c f) := .of_mem rfl

theorem State.setCluster_keepsMem (s : State) (p : PartId) (k : ClusterId) (c : Cluster) :
    Keeps s (State.setCluster s p k c) := .of_mem rfl

theorem State.modClusterW_keepsMem (s : State) (p : PartId) (k : ClusterId) (f : ClusterWorld → ClusterWorld) :
    Keeps s (State.modClusterW s p k f) := .of_mem rfl

theorem State.setSlot_keepsMem (s : State) (r : TRef) (x : Slot) : Keeps s (State.setSlot s r x) := .of_mem rfl

theorem State.clearSlot_keepsMem (s : State) (r : TRef) : Keeps s (State.clearSlot s r) := .of_mem rfl

theorem State.setThread_keepsMem (s : State) (r : TRef) (t : Thread) : Keeps s (State.setThread s r t) := .of_mem rfl

theorem State.modThread_keepsMem (s : State) (r : TRef) (f : Thread → Thread) : Keeps s (State.modThread s r f) := by
  unfold State.modThread
  split
  · exact State.setThread_keepsMem ..
  · exact .refl

theorem State.modThreads_keepsMem (s : State) (p : PartId) (f : Thread → Thread) : Keeps s (State.modThreads s p f) := by
  unfold State.modThreads
  exact Keeps.foldl (fun u e => State.modCoreW_keepsMem ..) _

theorem State.push_keepsMem (s : State) (i : Instr) : Keeps s (State.push s i) := .of_mem rfl

theorem State.pushAll_keepsMem (s : State) (l : List Instr) : Keeps s (State.pushAll s l) := .of_mem rfl

theorem State.after_keepsMem (s : State) (n : Nat) (i : Instr) : Keeps s (State.after s n i) := .of_mem rfl

theorem State.holdBack_keepsMem (s : State) (i : Instr) : Keeps s (State.holdBack s i) := .of_mem rfl

theorem State.hwSet_keepsMem (s : State) (p : PartId) (c : CoreId) (r : SysReg) (b : Nat) : Keeps s (State.hwSet s p c r b) := .of_mem rfl

theorem State.mtsSet_keepsMem (s : State) (p : PartId) (c : CoreId) (r : SysReg) (v : Word) :
    Keeps s (State.mtsSet s p c r v) := .of_mem rfl

theorem State.afterTicks_keepsMem (s : State) (n : Nat) (i : Instr) : Keeps s (State.afterTicks s n i) := .of_mem rfl

/-! ## Machine/Walk -/

theorem poisonTable_keepsMem (s : State) (p : PartId) (frame : Nat) : Keeps s (poisonTable s p frame).1 := by
  unfold poisonTable
  split
  · dsimp only
    exact .refl
  · split
    · dsimp only
      exact State.modPart_keepsMem ..
    · dsimp only
      exact .refl

/-! ## Machine/Ops -/

theorem noteWrap_keepsMem (s : State) (p : PartId) (c : CoreId) (i : Fin 4) : Keeps s (noteWrap s p c i) := by
  unfold noteWrap
  dsimp only
  split
  · exact ((State.modCoreW_keepsMem ..).trans (State.hwSet_keepsMem ..)).trans (State.modCoreC_keepsMem ..)
  · exact (State.modCoreW_keepsMem ..).trans (State.hwSet_keepsMem ..)

theorem countReg_keepsMem (s : State) (p : PartId) (c : CoreId) (n : Nat) (i : Fin 4) : Keeps s (countReg s p c n i) := by
  unfold countReg
  dsimp only
  split
  · split
    · exact (State.mtsSet_keepsMem ..).trans (noteWrap_keepsMem ..)
    · exact State.mtsSet_keepsMem ..
  · split
    · exact (State.modCoreW_keepsMem ..).trans (noteWrap_keepsMem ..)
    · exact State.modCoreW_keepsMem ..

theorem State.count_keepsMem (s : State) (p : PartId) (c : CoreId) (code : Nat) (slot : Option SlotId) (n : Nat) :
    Keeps s (State.count s p c code slot n) := by
  unfold State.count
  split
  · exact Keeps.foldl (fun u e => countReg_keepsMem ..) _
  · exact .refl

theorem State.sramAt_keepsMem (s : State) (p : PartId) (key : Nat) : Keeps s (State.sramAt s p key) := by
  unfold State.sramAt
  split
  · exact Keeps.foldl (fun u e => State.modRegs_keepsMem ..) _
  · exact .refl

theorem State.traceCond_keepsMem (s : State) (p : PartId) (c : CoreId) (n : Nat) : Keeps s (State.traceCond s p c n) := by
  unfold State.traceCond
  dsimp only
  split
  · exact State.modCoreC_keepsMem ..
  · exact .refl

theorem State.traceSlotCond_keepsMem (s : State) (r : TRef) (n : Nat) : Keeps s (State.traceSlotCond s r n) := by
  unfold State.traceSlotCond
  split
  · exact State.traceCond_keepsMem ..
  · exact .refl

theorem State.traceRec_keepsMem (s : State) (r : TRef) (kind : Nat) (pc : Word) (corr : BitVec 32) :
    Keeps s (State.traceRec s r kind pc corr) := by
  unfold State.traceRec
  dsimp only
  split
  · exact State.modCoreC_keepsMem ..
  · exact .refl

theorem State.with_words_keepsMem (s : State) (k : Nat) (l : List Nat) : Keeps s { s with mem := writeWords s.mem k l } :=
  .of_wf (writeWords_wf l k)

theorem logAppend_keepsMem (s : State) (p : PartId) (c : CoreId) (ws : List Nat) : Keeps s (logAppend s p c ws) := by
  unfold logAppend
  exact ((State.with_words_keepsMem ..).trans (State.wholeWords_keepsMem ..)).trans (State.modCoreW_keepsMem ..)

theorem logRecord_keepsMem (s : State) (p : PartId) (c : CoreId) (slot : SlotId) (type : Nat) (info : Nat) (payload : List Nat) :
    Keeps s (logRecord s p c slot type info payload) := by
  unfold logRecord
  dsimp only
  split
  · exact .refl
  · refine .trans ?_ (logAppend_keepsMem ..)
    split
    · exact (logAppend_keepsMem ..).trans (State.modCoreW_keepsMem ..)
    · exact .refl

theorem State.setStamp_keepsMem (s : State) (p : PartId) (line : Nat) (st : Option Stamp) :
    Keeps s (State.setStamp s p line st) := .of_mem rfl

theorem logItem_keepsMem (s : State) (r : TRef) (pc : Word) (i : LogItem) : Keeps s (logItem s r pc i) := by
  unfold logItem
  dsimp only
  split
  · exact logRecord_keepsMem ..
  · split
    · split
      · exact .refl
      · exact (logRecord_keepsMem ..).trans (State.modThread_keepsMem ..)
    · exact .refl
  · split
    · exact (logRecord_keepsMem ..).trans (State.modCoreW_keepsMem ..)
    · exact .refl
  · split
    · exact State.setStamp_keepsMem ..
    · exact .refl
  · exact logRecord_keepsMem ..
  · exact logRecord_keepsMem ..
  · exact (logRecord_keepsMem ..).trans (State.modCoreW_keepsMem ..)
  · exact logRecord_keepsMem ..
  · exact logRecord_keepsMem ..
  · exact logRecord_keepsMem ..
  · exact logRecord_keepsMem ..
  · exact logRecord_keepsMem ..
  · exact logRecord_keepsMem ..

theorem logItems_keepsMem (s : State) (r : TRef) (pc : Word) (l : List LogItem) : Keeps s (logItems s r pc l) := by
  unfold logItems
  split
  · exact Keeps.foldl (fun u e => logItem_keepsMem ..) _
  · exact .refl

theorem logMark_keepsMem (s : State) (r : TRef) (kind : Nat) (v : Option Word) : Keeps s (logMark s r kind v) := by
  unfold logMark
  split
  · exact logItem_keepsMem ..
  · exact .refl

theorem logStart_keepsMem (s : State) (r : TRef) (tid : Nat) : Keeps s (logStart s r tid) := by
  unfold logStart
  dsimp only
  split
  · exact (logItem_keepsMem ..).trans (State.modCoreW_keepsMem ..)
  · exact .refl

theorem State.hostEvent_keepsMem (s : State) (p : PartId) (code : Nat) : Keeps s (State.hostEvent s p code) := .of_mem rfl

theorem enqueueRecord_keepsMem (s : State) (p : PartId) (x : TrapRec) : Keeps s (enqueueRecord s p x) := .of_mem rfl

theorem dumpStart_keepsMem (s : State) (p : PartId) (x : TrapRec) : Keeps s (dumpStart s p x) := by
  unfold dumpStart
  dsimp only
  split
  · split
    · exact (State.modThreads_keepsMem ..).trans (State.modPart_keepsMem ..)
    · split
      · split
        · exact ((State.modThreads_keepsMem ..).trans (State.modPart_keepsMem ..)).trans (State.push_keepsMem ..)
        · exact (State.modThreads_keepsMem ..).trans (State.modPart_keepsMem ..)
      · exact (State.modThreads_keepsMem ..).trans (enqueueRecord_keepsMem ..)
  · exact .refl

theorem postRecord_keepsMem (s : State) (p : PartId) (x : TrapRec) : Keeps s (postRecord s p x) := by
  unfold postRecord
  exact (enqueueRecord_keepsMem ..).trans (dumpStart_keepsMem ..)

theorem faultEvents_keepsMem (s : State) (r : TRef) (t : Thread) : Keeps s (faultEvents s r t) := by
  unfold faultEvents
  exact ((State.count_keepsMem ..).trans (State.traceSlotCond_keepsMem ..)).trans (State.traceRec_keepsMem ..)

theorem takeTrap_keepsMem (s : State) (r : TRef) (k : Cause) (eaddr : Option Word) : Keeps s (takeTrap s r k eaddr) := by
  unfold takeTrap
  dsimp only
  split
  · exact .refl
  · split
    · refine .trans ?_ ((State.setThread_keepsMem ..).trans (postRecord_keepsMem ..))
      split
      · split
        · exact (faultEvents_keepsMem ..).trans (State.traceCond_keepsMem ..)
        · exact faultEvents_keepsMem ..
      · exact faultEvents_keepsMem ..
    · refine .trans ?_ ((State.setThread_keepsMem ..).trans (logMark_keepsMem ..))
      split
      · split
        · exact (faultEvents_keepsMem ..).trans (State.traceCond_keepsMem ..)
        · exact faultEvents_keepsMem ..
      · exact faultEvents_keepsMem ..

theorem returnTrap_keepsMem (s : State) (r : TRef) : Keeps s (returnTrap s r) := by
  unfold returnTrap
  exact State.modThread_keepsMem ..

theorem parkAtIssue_keepsMem (s : State) (r : TRef) (code : Nat) : Keeps s (parkAtIssue s r code) := by
  unfold parkAtIssue
  exact State.modThread_keepsMem ..

theorem dropThread_keepsMem (s : State) (r : TRef) (x : TrapRec) : Keeps s (dropThread s r x) := by
  unfold dropThread
  dsimp only
  split
  · exact .refl
  · exact ((faultEvents_keepsMem ..).trans (State.setThread_keepsMem ..)).trans (postRecord_keepsMem ..)

theorem fatalPark_keepsMem (s : State) (r : TRef) (x : TrapRec) : Keeps s (fatalPark s r x) := by
  unfold fatalPark
  dsimp only
  split
  · exact .refl
  · exact (State.setThread_keepsMem ..).trans (postRecord_keepsMem ..)

theorem commitAt_keepsMem (s : State) (r : TRef) (size : Nat) (ws : List (BitVec 32)) (c : Commit) :
    Keeps s (commitAt s r size ws c) := by
  unfold commitAt
  dsimp only
  split
  · exact .refl
  · split
    · refine .trans ?_ (State.with_events_keepsMem ..)
      split
      · exact ((State.setThread_keepsMem ..).trans (logItems_keepsMem ..)).trans (State.traceRec_keepsMem ..)
      · exact (State.setThread_keepsMem ..).trans (logItems_keepsMem ..)
    · split
      · exact ((State.setThread_keepsMem ..).trans (logItems_keepsMem ..)).trans (State.traceRec_keepsMem ..)
      · exact (State.setThread_keepsMem ..).trans (logItems_keepsMem ..)

theorem waitThread_keepsMem (s : State) (r : TRef) (w : Wait) : Keeps s (waitThread s r w) := by
  unfold waitThread
  exact State.modThread_keepsMem ..

theorem pendThread_keepsMem (s : State) (u : Cur) (q : Pend) : Keeps s (pendThread s u q) := by
  unfold pendThread
  exact State.modThread_keepsMem ..

theorem atCommit_keepsMem {s : State} {go : Unit → Res} (h : ∀ x, Keeps s (go x).state) : Keeps s (atCommit s go).state := by
  unfold atCommit
  split
  · exact h ()
  · exact .refl

theorem logPerformed_keepsMem (s : State) (r : TRef) (c : Commit) : Keeps s (logPerformed s r c) := by
  unfold logPerformed
  split
  · exact .refl
  · split
    · exact logItems_keepsMem ..
    · exact .refl

theorem commitIn_keepsMem (s : State) (u : Cur) (due : Nat) (c : Commit) : Keeps s (commitIn s u due c) := by
  unfold commitIn
  split
  · exact commitAt_keepsMem ..
  · exact ((logPerformed_keepsMem ..).trans (pendThread_keepsMem ..)).trans (State.after_keepsMem ..)

theorem settle_keepsMem (u : Cur) (x : Res) : Keeps x.state (settle u x) := by
  cases x with
  | done c s =>
    unfold settle
    dsimp only
    split
    · exact State.with_cur_keepsMem ..
    · exact commitIn_keepsMem ..
    · exact commitIn_keepsMem ..
  | trap k ea s => exact takeTrap_keepsMem ..
  | drop q s => exact dropThread_keepsMem ..
  | wait w s => exact waitThread_keepsMem ..
  | pend q s =>
    unfold settle
    dsimp only
    split <;> exact pendThread_keepsMem ..
  | ended s => exact .refl

theorem Res.clearing_keepsMem (x : Res) (l : List Reg) : Keeps x.state (x.clearing l).state := by
  cases x <;> exact .refl

/-- A word keeps what its effect keeps, whatever the thread and the state are. -/
theorem runWord_keepsMem {srcs : List Src} {f : TRef → Thread → State → Res} {s : State} (h : ∀ r t u, Keeps u (f r t u).state) :
    Keeps s (outState s (runWord srcs f s)) := by
  unfold runWord
  split
  · exact .refl
  · dsimp only
    split
    · exact ((h ..).trans (Res.clearing_keepsMem ..)).trans (settle_keepsMem ..)
    · exact waitThread_keepsMem ..

theorem runPure_keepsMem (srcs : List Src) (f : Thread → Commit) (s : State) : Keeps s (outState s (runPure srcs f s)) := by
  unfold runPure
  exact runWord_keepsMem (fun x0 x1 x2 => .refl)

/-! ## Machine/Operands -/

theorem takeTarget_keepsMem (c : Commit) (t : Word) (s : State) : Keeps s (takeTarget c t s).state := by
  unfold takeTarget
  split
  all_goals exact .refl

theorem takeRegTarget_keepsMem (c : Commit) (t : Word) (s : State) : Keeps s (takeRegTarget c t s).state := by
  unfold takeRegTarget
  split
  · exact .refl
  · exact takeTarget_keepsMem ..

end Sys2Proof.Machine
end

section
/-! SUPPORT. The memory's form through the caches, the steep protocol and the checks of an access: one lemma per function. -/
namespace Sys2Proof.Machine

/-! ## Machine/Cache -/

theorem State.modSl_keepsMem (s : State) (p : PartId) (line : Nat) (f : SliceLine → SliceLine) :
    Keeps s (State.modSl s p line f) := .of_mem rfl

theorem State.dropSl_keepsMem (s : State) (p : PartId) (line : Nat) : Keeps s (State.dropSl s p line) := .of_mem rfl

theorem State.modL1_keepsMem (s : State) (p : PartId) (c : CoreId) (line : Nat) (f : L1Line → L1Line) :
    Keeps s (State.modL1 s p c line f) := .of_mem rfl

theorem State.dropL1_keepsMem (s : State) (p : PartId) (c : CoreId) (line : Nat) : Keeps s (State.dropL1 s p c line) := .of_mem rfl

theorem State.touchL1_keepsMem (s : State) (p : PartId) (c : CoreId) (line : Nat) : Keeps s (State.touchL1 s p c line) := .of_mem rfl

theorem State.dirtySlice_keepsMem (s : State) (p : PartId) (line : Nat) : Keeps s (State.dirtySlice s p line) := .of_mem rfl

theorem State.writeBack_keepsMem (s : State) (p : PartId) (c : CoreId) (line : Nat) : Keeps s (State.writeBack s p c line) := by
  unfold State.writeBack
  split
  · split
    · exact .refl
    · exact (State.dirtySlice_keepsMem ..).trans (State.modL1_keepsMem ..)
  · exact .refl

theorem State.unshare_keepsMem (s : State) (p : PartId) (c : CoreId) (line : Nat) : Keeps s (State.unshare s p c line) := .of_mem rfl

theorem State.loseCopy_keepsMem (s : State) (p : PartId) (c : CoreId) (line : Nat) : Keeps s (State.loseCopy s p c line) := by
  unfold State.loseCopy
  exact ((State.writeBack_keepsMem ..).trans (State.dropL1_keepsMem ..)).trans (State.unshare_keepsMem ..)

theorem State.invalidateAll_keepsMem (s : State) (p : PartId) (line : Nat) (keep : Option CoreId) :
    Keeps s (State.invalidateAll s p line keep) := by
  unfold State.invalidateAll
  exact Keeps.foldl (fun u e => State.loseCopy_keepsMem ..) _

theorem State.forwardRead_keepsMem (s : State) (p : PartId) (c : CoreId) (line : Nat) :
    Keeps s (State.forwardRead s p c line) := .of_mem rfl

theorem State.lockWay_keepsMem (s : State) (p : PartId) (x : Pin) : Keeps s (State.lockWay s p x) := .of_mem rfl

theorem State.countHome_keepsMem (s : State) (r : TRef) (h : Nat) : Keeps s (State.countHome s r h) := by
  unfold State.countHome
  dsimp only
  split
  · exact .refl
  · exact (State.count_keepsMem ..).trans (State.modThread_keepsMem ..)

/-! ## Machine/Steep -/

theorem State.modHolder_keepsMem (s : State) (p : PartId) (h : CoreId) (line : Nat) (f : Holder → Holder) :
    Keeps s (State.modHolder s p h line f) := .of_mem rfl

theorem State.dropHolder_keepsMem (s : State) (p : PartId) (h : CoreId) (line : Nat) :
    Keeps s (State.dropHolder s p h line) := .of_mem rfl

theorem pourHolder_keepsMem (s : State) (p : PartId) (h : CoreId) (line : Nat) (more : Bool) : Keeps s (pourHolder s p h line more) := by
  unfold pourHolder
  split
  · exact (State.modHolder_keepsMem ..).trans (State.push_keepsMem ..)
  · exact .refl

theorem State.modHome_keepsMem (s : State) (p : PartId) (line : Nat) (f : SteepHome → SteepHome) :
    Keeps s (State.modHome s p line f) := .of_mem rfl

theorem State.ensureHome_keepsMem (s : State) (p : PartId) (line : Nat) (dom : Nat) (key : Nat) (fmt : Nat) (slim : Nat) :
    Keeps s (State.ensureHome s p line dom key fmt slim) := by
  unfold State.ensureHome
  dsimp only
  split
  · exact .refl
  · exact State.modPart_keepsMem ..

theorem State.idleHome_keepsMem (s : State) (p : PartId) (line : Nat) : Keeps s (State.idleHome s p line) := by
  unfold State.idleHome
  split
  · split
    · exact State.modPart_keepsMem ..
    · exact .refl
  · exact .refl

theorem State.homeAdd_keepsMem (s : State) (p : PartId) (h : CoreId) (line : Nat) (colour : Bool) (v : BitVec 1024) :
    Keeps s (State.homeAdd s p h line colour v) := .of_mem rfl

theorem State.combineThese_keepsMem (s : State) (p : PartId) (line : Nat) (sel : Bool → Bool) :
    Keeps s (State.combineThese s p line sel) := by
  unfold State.combineThese
  dsimp only
  split
  · split
    · exact .refl
    · exact (((State.invalidateAll_keepsMem ..).trans (State.dirtySlice_keepsMem ..)).trans (State.writeLine_keepsMem ..)).trans
        (State.modHome_keepsMem ..)
  · exact .refl

theorem State.combineOld_keepsMem (s : State) (p : PartId) (line : Nat) : Keeps s (State.combineOld s p line) := by
  unfold State.combineOld
  exact State.combineThese_keepsMem ..

theorem State.combine_keepsMem (s : State) (p : PartId) (line : Nat) : Keeps s (State.combine s p line) := by
  unfold State.combine
  exact (State.combineOld_keepsMem ..).trans (State.combineThese_keepsMem ..)

theorem State.returnShare_keepsMem (s : State) (p : PartId) (h : CoreId) (line : Nat) (share : BitVec 32) :
    Keeps s (State.returnShare s p h line share) := .of_mem rfl

theorem State.answerLoad_keepsMem (s : State) (p : PartId) (line : Nat) : Keeps s (State.answerLoad s p line) := by
  unfold State.answerLoad
  dsimp only
  split
  · split
    · split
      · split
        · exact ((State.combine_keepsMem ..).trans (State.modHome_keepsMem ..)).trans (State.push_keepsMem ..)
        · exact (State.combine_keepsMem ..).trans (State.modHome_keepsMem ..)
      · exact (State.combine_keepsMem ..).trans (State.modHome_keepsMem ..)
    · exact .refl
  · exact .refl

theorem State.releaseHome_keepsMem (s : State) (p : PartId) (line : Nat) : Keeps s (State.releaseHome s p line) := by
  unfold State.releaseHome
  dsimp only
  split
  · split
    · exact ((State.modHome_keepsMem ..).trans (State.with_events_keepsMem ..)).trans (State.idleHome_keepsMem ..)
    · exact .refl
  · exact .refl

theorem answered_keepsMem (s : State) (p : PartId) (h : CoreId) (line : Nat) : Keeps s (answered s p h line) := by
  unfold answered
  dsimp only
  split
  · refine .trans ?_ (State.releaseHome_keepsMem ..)
    split
    · exact ((State.with_events_keepsMem ..).trans (State.modHome_keepsMem ..)).trans (State.answerLoad_keepsMem ..)
    · exact (State.with_events_keepsMem ..).trans (State.modHome_keepsMem ..)
  · exact .refl

theorem answerHolder_keepsMem (s : State) (p : PartId) (line : Nat) (i : Instr) : Keeps s (answerHolder s p line i) := by
  unfold answerHolder
  split
  · split
    · exact State.modHome_keepsMem ..
    · exact State.push_keepsMem ..
  · exact State.push_keepsMem ..

theorem takePour_keepsMem (s : State) (p : PartId) (h : CoreId) (line : Nat) (dom : Nat) (v : BitVec 1024) (colour : Bool) (more : Bool) :
    Keeps s (takePour s p h line dom v colour more) := by
  unfold takePour
  dsimp only
  split
  · exact State.homeAdd_keepsMem ..
  · exact ((State.homeAdd_keepsMem ..).trans (State.modHome_keepsMem ..)).trans (answerHolder_keepsMem ..)

theorem takeFpd_keepsMem (s : State) (p : PartId) (h : CoreId) (line : Nat) (v : BitVec 1024) (colour : Bool) :
    Keeps s (takeFpd s p h line v colour) := by
  unfold takeFpd
  exact (State.homeAdd_keepsMem ..).trans (answered_keepsMem ..)

theorem takeSret_keepsMem (s : State) (p : PartId) (h : CoreId) (line : Nat) (v : BitVec 1024) (colour : Bool) (share : BitVec 32) :
    Keeps s (takeSret s p h line v colour share) := by
  unfold takeSret
  exact (((State.homeAdd_keepsMem ..).trans (State.combine_keepsMem ..)).trans (State.returnShare_keepsMem ..)).trans
    (answered_keepsMem ..)

theorem takeMessage_keepsMem (s : State) (i : Instr) : Keeps s (takeMessage s i) := by
  unfold takeMessage
  split
  · exact takePour_keepsMem ..
  · exact takeFpd_keepsMem ..
  · exact takeSret_keepsMem ..
  · exact .refl

theorem State.absorb_keepsMem (s : State) (p : PartId) (line : Nat) : Keeps s (State.absorb s p line) := by
  unfold State.absorb
  exact (State.with_events_keepsMem ..).trans (Keeps.foldl (fun u e => takeMessage_keepsMem ..) _)

theorem evictHolder_keepsMem (s : State) (p : PartId) (h : CoreId) (line : Nat) : Keeps s (evictHolder s p h line) := by
  unfold evictHolder
  dsimp only
  split
  · exact ((State.absorb_keepsMem ..).trans (State.dropHolder_keepsMem ..)).trans (takeSret_keepsMem ..)
  · exact State.absorb_keepsMem ..

theorem State.surrender_keepsMem (s : State) (p : PartId) (h : CoreId) (line : Nat) : Keeps s (State.surrender s p h line) := by
  unfold State.surrender
  split
  · exact ((State.homeAdd_keepsMem ..).trans (State.returnShare_keepsMem ..)).trans (State.dropHolder_keepsMem ..)
  · exact State.returnShare_keepsMem ..

theorem forceHolder_keepsMem (s : State) (p : PartId) (h : CoreId) (line : Nat) : Keeps s (forceHolder s p h line) := by
  unfold forceHolder
  split
  · exact (State.homeAdd_keepsMem ..).trans (State.modHolder_keepsMem ..)
  · exact .refl

theorem State.finishLoad_keepsMem (s : State) (p : PartId) (line : Nat) : Keeps s (State.finishLoad s p line) := by
  unfold State.finishLoad
  dsimp only
  split
  · split
    · exact (State.absorb_keepsMem ..).trans (Keeps.foldl (fun u e => (forceHolder_keepsMem ..).trans (answered_keepsMem ..)) _)
    · exact State.absorb_keepsMem ..
  · exact State.absorb_keepsMem ..

theorem State.revokeAll_keepsMem (s : State) (p : PartId) (line : Nat) : Keeps s (State.revokeAll s p line) := by
  unfold State.revokeAll
  dsimp only
  split
  · exact .refl
  · exact (((((State.finishLoad_keepsMem ..).trans (State.with_events_keepsMem ..)).trans
      (Keeps.foldl (fun u e => State.surrender_keepsMem ..) _)).trans (State.combine_keepsMem ..)).trans
      (State.modHome_keepsMem ..)).trans (State.releaseHome_keepsMem ..)

theorem State.revokeEvery_keepsMem (s : State) (p : PartId) : Keeps s (State.revokeEvery s p) := by
  unfold State.revokeEvery
  exact Keeps.foldl (fun u e => State.revokeAll_keepsMem ..) _

theorem pourCore_keepsMem (s : State) (p : PartId) (h : CoreId) : Keeps s (pourCore s p h) := by
  unfold pourCore
  refine Keeps.foldl (fun u e => ?_) _
  split
  · exact .refl
  · exact pourHolder_keepsMem ..

/-! ## Machine/Access -/

theorem windowWritten_keepsMem (s : State) (key : Nat) (n : Nat) : Keeps s (windowWritten s key n) := by
  unfold windowWritten
  exact State.wholeWords_keepsMem ..

theorem walkFault_keepsMem (s : State) (p : PartId) (w : Walked) (ea : Word) : Keeps s (walkFault s p w ea).2 := by
  unfold walkFault
  dsimp only
  split
  · dsimp only
    exact .refl
  · dsimp only
    exact .refl
  · dsimp only
    exact .refl
  · dsimp only
    exact .refl
  · split
    all_goals
      dsimp only
      exact poisonTable_keepsMem ..

theorem walkDrop_keepsMem (s : State) (p : PartId) (w : Walked) (ea : Word) : Keeps s (walkDrop s p w ea).state := by
  unfold walkDrop
  dsimp only
  exact walkFault_keepsMem ..

theorem sliceWalk_keepsMem (s : State) (p : PartId) (ea : Word) : Keeps s (sliceWalk s p ea).2 := by
  unfold sliceWalk
  dsimp only
  split
  · split
    all_goals
      dsimp only
      exact .refl
  · split
    · dsimp only
      exact State.modPart_keepsMem ..
    · dsimp only
      exact .refl

theorem freshWalk_keepsMem (s : State) (p : PartId) (ea : Word) : Keeps s (freshWalk s p ea).2 := by
  unfold freshWalk
  dsimp only
  exact (State.modPart_keepsMem ..).trans (sliceWalk_keepsMem ..)

theorem listWalk_keepsMem (s : State) (p : PartId) (a : Word) (w : Walked) : Keeps s (listWalk s p a w) := by
  unfold listWalk
  dsimp only
  split
  · split
    · exact (poisonTable_keepsMem ..).trans (postRecord_keepsMem ..)
    · exact poisonTable_keepsMem ..
  · exact .refl

theorem listTable_keepsMem (s : State) (p : PartId) (a : Word) : Keeps s (listTable s p a) := by
  unfold listTable
  split
  · exact .refl
  · exact listWalk_keepsMem ..

theorem plbEntry_keepsMem (s : State) (p : PartId) (c : CoreId) (ctx : BitVec 8) (ea : Word) :
    Keeps s (checkState (fun x => x.2) (plbEntry s p c ctx ea)) := by
  unfold plbEntry
  dsimp only
  split
  · split
    · dsimp only [checkState]
      exact walkDrop_keepsMem ..
    · dsimp only [checkState]
      exact State.modCoreC_keepsMem ..
  · split
    · rename_i h1
      dsimp only [checkState]
      exact ((sliceWalk_keepsMem ..).snd h1).trans (State.modCoreC_keepsMem ..)
    · rename_i h1
      dsimp only [checkState]
      exact ((sliceWalk_keepsMem ..).snd h1).trans (walkDrop_keepsMem ..)

theorem plbLookup_keepsMem (s : State) (r : TRef) (t : Thread) (ea : Word) :
    Keeps s (checkState (fun x => x.2) (plbLookup s r t ea)) := by
  unfold plbLookup
  refine .trans ?_ (plbEntry_keepsMem ..)
  split
  · exact State.count_keepsMem ..
  · exact .refl

theorem protect_keepsMem (s : State) (r : TRef) (t : Thread) (need : BitVec 4) (ea : Word) :
    Keeps s (checkState (fun x => x.2) (protect s r t need ea)) := by
  unfold protect
  split
  · rename_i h0
    exact (plbLookup_keepsMem ..).error h0
  · rename_i h0
    split
    all_goals
      exact (plbLookup_keepsMem ..).ok h0

theorem checkAccess_keepsMem (s : State) (r : TRef) (t : Thread) (need : BitVec 4) (ea : Word) (n : Nat) (remote : Bool) :
    Keeps s (checkState (fun x => x.2) (checkAccess s r t need ea n remote)) := by
  unfold checkAccess
  split
  · exact .refl
  · split
    · exact .refl
    · split
      · exact .refl
      · split
        · exact .refl
        · split
          · split
            all_goals
              exact .refl
          · split
            · rename_i h5
              exact (protect_keepsMem ..).ok h5
            · rename_i h5
              exact (protect_keepsMem ..).error h5

theorem retirePage_keepsMem (s : State) (p : PartId) (l : SliceLine) : Keeps s (retirePage s p l) := by
  unfold retirePage
  dsimp only
  exact (((Keeps.foldl (fun u e => State.modCoreC_keepsMem ..) _).trans (State.modPart_keepsMem ..)).trans
    (State.pushAll_keepsMem ..)).trans (postRecord_keepsMem ..)

theorem quarantine_keepsMem (s : State) (p : PartId) (l : SliceLine) : Keeps s (quarantine s p l) := by
  unfold quarantine
  split
  · exact State.modPart_keepsMem ..
  · split
    · exact State.lockWay_keepsMem ..
    · split
      · exact retirePage_keepsMem ..
      · exact .refl

theorem disarmed_keepsMem (s : State) (p : PartId) : Keeps s (disarm s p) := by
  unfold disarm
  split
  · exact .refl
  · exact State.modRegs_keepsMem ..

theorem loseLine_keepsMem (s : State) (p : PartId) (l : SliceLine) (corr : BitVec 32) : Keeps s (loseLine s p l corr) := by
  unfold loseLine
  dsimp only
  exact ((((State.revokeAll_keepsMem ..).trans (State.invalidateAll_keepsMem ..)).trans (State.dropSl_keepsMem ..)).trans
    (State.poisonLine_keepsMem ..)).trans (postRecord_keepsMem ..)

theorem sliceEvict_keepsMem (s : State) (p : PartId) (line : Nat) : Keeps s (sliceEvict s p line) := by
  unfold sliceEvict
  dsimp only
  split
  · split
    · exact ((((State.revokeAll_keepsMem ..).trans (State.invalidateAll_keepsMem ..)).trans (disarmed_keepsMem ..)).trans
        (quarantine_keepsMem ..)).trans (loseLine_keepsMem ..)
    · exact ((State.revokeAll_keepsMem ..).trans (State.invalidateAll_keepsMem ..)).trans (State.dropSl_keepsMem ..)
  · exact (State.revokeAll_keepsMem ..).trans (State.invalidateAll_keepsMem ..)

theorem chooseWay_keepsMem (s : State) (p : PartId) (line : Nat) : Keeps s (optState s (fun x => x.2) (chooseWay s p line)) := by
  unfold chooseWay
  split
  · exact .refl
  · split
    · split
      · dsimp only
        split
        · rename_i l _ _
          cases (sliceEvict s p l.line).freeWay p line with
          | none => exact .refl
          | some w => exact sliceEvict_keepsMem ..
        · exact sliceEvict_keepsMem ..
      · exact .refl
    · exact .refl

theorem State.addSl_keepsMem (s : State) (p : PartId) (x : SliceLine) : Keeps s (State.addSl s p x) := .of_mem rfl

theorem fillSlice_keepsMem (s : State) (p : PartId) (line : Nat) (l : Leaf) :
    Keeps s (optState s (fun u => u) (fillSlice s p line l)) := by
  unfold fillSlice
  split
  · exact State.addSl_keepsMem ..
  · cases h : chooseWay s p line with
    | none => exact .refl
    | some x =>
      have hx : Keeps s x.2 := (chooseWay_keepsMem ..).some h
      exact hx.trans (State.addSl_keepsMem ..)

theorem homeMiss_keepsMem (p : PartId) (line dom : Nat) (w : Walked × State) : Keeps w.2 (homeMiss p line dom w).state := by
  unfold homeMiss
  split
  · split
    · split
      · rename_i h
        exact (fillSlice_keepsMem ..).some h
      · exact .refl
    · exact .refl
  · exact .refl

theorem homeLookup_keepsMem (s : State) (p : PartId) (line dom : Nat) : Keeps s (homeLookup s p line dom).state := by
  unfold homeLookup
  split
  · split
    · exact .refl
    · split
      · exact .refl
      · exact ((sliceEvict_keepsMem ..).trans (freshWalk_keepsMem ..)).trans (homeMiss_keepsMem ..)
  · exact (sliceWalk_keepsMem ..).trans (homeMiss_keepsMem ..)

theorem l2Error_keepsMem (s : State) (p : PartId) (line : Nat) (corr : BitVec 32) : Keeps s (l2Error s p line corr) := by
  unfold l2Error
  dsimp only
  split
  · exact .refl
  · split
    · exact (quarantine_keepsMem ..).trans (loseLine_keepsMem ..)
    · split
      · rename_i h2
        exact (((quarantine_keepsMem ..).trans (State.modPart_keepsMem ..)).trans ((chooseWay_keepsMem ..).some h2)).trans
          (State.modSl_keepsMem ..)
      · split
        · exact ((quarantine_keepsMem ..).trans (State.modPart_keepsMem ..)).trans (sliceEvict_keepsMem ..)
        · exact (quarantine_keepsMem ..).trans (State.modPart_keepsMem ..)

theorem homeRead_keepsMem (s : State) (p : PartId) (line : Nat) (sectors : BitVec 2) (corr : BitVec 32) :
    Keeps s (homeRead s p line sectors corr) := by
  unfold homeRead
  split
  · exact (disarmed_keepsMem ..).trans (l2Error_keepsMem ..)
  · exact .refl

theorem bringLine_keepsMem (s : State) (p : PartId) (line : Nat) : Keeps s (bringLine s p line) := by
  unfold bringLine
  split
  · exact .refl
  · split
    · exact Keeps.getD (fillSlice_keepsMem ..)
    · exact .refl

theorem repairSector_keepsMem (s : State) (p : PartId) (l : SliceLine) : Keeps s (repairSector s p l) := by
  unfold repairSector
  dsimp only
  split
  · exact .refl
  · split
    · split
      · exact ((bringLine_keepsMem ..).trans (State.lockWay_keepsMem ..)).trans (State.modSl_keepsMem ..)
      · exact bringLine_keepsMem ..
    · exact retirePage_keepsMem ..

theorem correctSector_keepsMem (s : State) (p : PartId) (pa : Nat) : Keeps s (correctSector s p pa) := by
  unfold correctSector
  dsimp only
  split
  · split
    · exact (State.modPart_keepsMem ..).trans (repairSector_keepsMem ..)
    · exact State.modPart_keepsMem ..
  · exact State.modPart_keepsMem ..

theorem moduleError_keepsMem (s : State) (p : PartId) (pa : Nat) : Keeps s (moduleError s p pa) := by
  unfold moduleError
  dsimp only
  split
  · exact ((((State.revokeAll_keepsMem ..).trans (State.invalidateAll_keepsMem ..)).trans (State.poisonLine_keepsMem ..)).trans
      (postRecord_keepsMem ..)).trans (repairSector_keepsMem ..)
  · exact (State.poisonLine_keepsMem ..).trans (postRecord_keepsMem ..)

theorem plbDrop_keepsMem (s : State) (p : PartId) (c : CoreId) (ctx : BitVec 8) (va : Nat) : Keeps s (plbDrop s p c ctx va) := .of_mem rfl

theorem reachHome_keepsMem (n : Nat) (s : State) (r : TRef) (t : Thread) (need : BitVec 4) (ea : Word) :
    Keeps s (checkState (fun x => x.2.2) (reachHome n s r t need ea)) := by
  induction n generalizing s with
  | zero => exact .refl
  | succ k ih =>
    rw [reachHome]
    split
    · rename_i h
      exact (protect_keepsMem ..).error h
    · rename_i h
      refine ((protect_keepsMem ..).ok h).trans ?_
      split
      · rename_i h1
        exact ((homeLookup_keepsMem ..).cast (congrArg Fill.state h1)).trans (.ite .refl (State.countHome_keepsMem ..))
      · rename_i h1
        exact (((homeLookup_keepsMem ..).cast (congrArg Fill.state h1)).trans (plbDrop_keepsMem ..)).trans (ih _)
      · rename_i h1
        exact ((homeLookup_keepsMem ..).cast (congrArg Fill.state h1)).trans (walkDrop_keepsMem ..)
      · rename_i h1
        exact (homeLookup_keepsMem ..).cast (congrArg Fill.state h1)

theorem l1Room_keepsMem (s : State) (p : PartId) (c : CoreId) (line : Nat) : Keeps s (l1Room s p c line) := by
  unfold l1Room
  dsimp only
  split
  · exact .refl
  · split
    · exact State.loseCopy_keepsMem ..
    · exact evictHolder_keepsMem ..
    · exact .refl

theorem l1Install_keepsMem (s : State) (p : PartId) (c : CoreId) (l : L1Line) : Keeps s (l1Install s p c l) := by
  unfold l1Install
  exact (l1Room_keepsMem ..).trans (State.modCoreC_keepsMem ..)

theorem opGetS_keepsMem (s : State) (p : PartId) (c : CoreId) (line : Nat) : Keeps s (opGetS s p c line) := by
  unfold opGetS
  dsimp only
  split
  · exact .refl
  · split
    · exact ((Keeps.foldl (fun u e => State.forwardRead_keepsMem ..) _).trans (State.modSl_keepsMem ..)).trans (State.modL1_keepsMem ..)
    · exact ((Keeps.foldl (fun u e => State.forwardRead_keepsMem ..) _).trans (State.modSl_keepsMem ..)).trans (l1Install_keepsMem ..)

theorem opGetM_keepsMem (s : State) (p : PartId) (c : CoreId) (line : Nat) (sector : Fin 2) : Keeps s (opGetM s p c line sector) := by
  unfold opGetM
  dsimp only
  split
  · exact .refl
  · split
    · exact ((State.invalidateAll_keepsMem ..).trans (State.modSl_keepsMem ..)).trans (State.modL1_keepsMem ..)
    · exact ((State.invalidateAll_keepsMem ..).trans (State.modSl_keepsMem ..)).trans (l1Install_keepsMem ..)

theorem dirtyL1_keepsMem (s : State) (p : PartId) (c : CoreId) (line : Nat) (sector : Fin 2) :
    Keeps s (dirtyL1 s p c line sector) := .of_mem rfl

theorem l1Mismatch_keepsMem (s : State) (p : PartId) (c : CoreId) (line : Nat) (dom : Nat) : Keeps s (l1Mismatch s p c line dom) := by
  unfold l1Mismatch
  split
  · split
    · exact .refl
    · exact State.loseCopy_keepsMem ..
  · exact .refl

theorem setSnap_keepsMem (s : State) (l : Leaf) (v : Nat) : Keeps s (setSnap s l v) := by
  unfold setSnap
  split
  · exact .refl
  · exact State.writeMem_keepsMem ..

theorem pageWritten_keepsMem (s : State) (p : PartId) (l : Leaf) : Keeps s (pageWritten s p l) := by
  unfold pageWritten
  dsimp only
  split
  · exact (setSnap_keepsMem ..).trans (State.modPart_keepsMem ..)
  · exact .refl

theorem askCopier_keepsMem (s : State) (p : PartId) (page : Nat) : Keeps s (askCopier s p page) := by
  unfold askCopier
  split
  · exact .refl
  · exact State.push_keepsMem ..

theorem pageWait_keepsMem (s : State) (p : PartId) (l : Leaf) (w : PageWriter) :
    Keeps s (optState s (fun u => u) (pageWait s p l w)) := by
  unfold pageWait
  dsimp only
  split
  · refine .trans ?_ (askCopier_keepsMem ..)
    split
    · exact .refl
    · exact State.modPart_keepsMem ..
  · exact .refl

theorem pagePassed_keepsMem (s : State) (p : PartId) (page : Nat) (w : PageWriter) : Keeps s (pagePassed s p page w) := .of_mem rfl

theorem holdWrite_keepsMem (s : State) (r : TRef) (t : Thread) (l : Leaf) : Keeps s (checkState (fun u => u) (holdWrite s r t l)) := by
  unfold holdWrite
  split
  · rename_i h0
    exact (pageWait_keepsMem ..).some h0
  · exact (pagePassed_keepsMem ..).trans (pageWritten_keepsMem ..)

theorem poisonStop_keepsMem (s : State) (key : Nat) (ea : Word) : Keeps s (checkState (fun _ => s) (poisonStop s key ea)) := by
  unfold poisonStop
  split
  all_goals exact .refl

theorem loadLine_keepsMem (s : State) (r : TRef) (t : Thread) (l : Leaf) (ea : Word) :
    Keeps s (checkState (fun x => x.2) (loadLine s r t l ea)) := by
  unfold loadLine
  dsimp only
  split
  · split
    · rename_i h1
      exact (l1Mismatch_keepsMem ..).trans ((poisonStop_keepsMem ..).error h1)
    · exact (l1Mismatch_keepsMem ..).trans (State.touchL1_keepsMem ..)
  · split
    · rename_i h1
      exact (l1Mismatch_keepsMem ..).trans ((reachHome_keepsMem ..).error h1)
    · rename_i h1
      split
      · split
        · exact (l1Mismatch_keepsMem ..).trans ((reachHome_keepsMem ..).ok h1)
        · exact ((l1Mismatch_keepsMem ..).trans ((reachHome_keepsMem ..).ok h1)).trans (homeRead_keepsMem ..)
      · split
        · rename_i h3
          refine .trans ?_ ((poisonStop_keepsMem ..).error h3)
          split
          · exact (l1Mismatch_keepsMem ..).trans ((reachHome_keepsMem ..).ok h1)
          · exact ((l1Mismatch_keepsMem ..).trans ((reachHome_keepsMem ..).ok h1)).trans (homeRead_keepsMem ..)
        · refine .trans ?_ ((State.count_keepsMem ..).trans (opGetS_keepsMem ..))
          split
          · exact (l1Mismatch_keepsMem ..).trans ((reachHome_keepsMem ..).ok h1)
          · exact ((l1Mismatch_keepsMem ..).trans ((reachHome_keepsMem ..).ok h1)).trans (homeRead_keepsMem ..)

theorem storeLine_keepsMem (s : State) (r : TRef) (t : Thread) (l : Leaf) (ea : Word) :
    Keeps s (checkState (fun x => x.2) (storeLine s r t l ea)) := by
  unfold storeLine
  dsimp only
  split
  · rename_i h0
    exact (holdWrite_keepsMem ..).error h0
  · rename_i h0
    split
    · split
      · rename_i h2
        exact (((holdWrite_keepsMem ..).ok h0).trans (l1Mismatch_keepsMem ..)).trans ((poisonStop_keepsMem ..).error h2)
      · refine .trans ?_ ((State.touchL1_keepsMem ..).trans (dirtyL1_keepsMem ..))
        split
        · exact ((holdWrite_keepsMem ..).ok h0).trans (l1Mismatch_keepsMem ..)
        · exact ((((holdWrite_keepsMem ..).ok h0).trans (l1Mismatch_keepsMem ..)).trans (State.countHome_keepsMem ..)).trans
            (opGetM_keepsMem ..)
    · split
      · rename_i h2
        exact (((holdWrite_keepsMem ..).ok h0).trans (l1Mismatch_keepsMem ..)).trans ((reachHome_keepsMem ..).error h2)
      · rename_i h2
        split
        · split
          · exact ((((holdWrite_keepsMem ..).ok h0).trans (l1Mismatch_keepsMem ..)).trans ((reachHome_keepsMem ..).ok h2)).trans
              (State.revokeAll_keepsMem ..)
          · exact (((((holdWrite_keepsMem ..).ok h0).trans (l1Mismatch_keepsMem ..)).trans ((reachHome_keepsMem ..).ok h2)).trans
              (State.revokeAll_keepsMem ..)).trans (homeRead_keepsMem ..)
        · split
          · rename_i h4
            refine .trans ?_ ((poisonStop_keepsMem ..).error h4)
            split
            · exact ((((holdWrite_keepsMem ..).ok h0).trans (l1Mismatch_keepsMem ..)).trans ((reachHome_keepsMem ..).ok h2)).trans
                (State.revokeAll_keepsMem ..)
            · exact (((((holdWrite_keepsMem ..).ok h0).trans (l1Mismatch_keepsMem ..)).trans ((reachHome_keepsMem ..).ok h2)).trans
                (State.revokeAll_keepsMem ..)).trans (homeRead_keepsMem ..)
          · refine .trans ?_ (((State.count_keepsMem ..).trans (opGetM_keepsMem ..)).trans (dirtyL1_keepsMem ..))
            split
            · exact ((((holdWrite_keepsMem ..).ok h0).trans (l1Mismatch_keepsMem ..)).trans ((reachHome_keepsMem ..).ok h2)).trans
                (State.revokeAll_keepsMem ..)
            · exact (((((holdWrite_keepsMem ..).ok h0).trans (l1Mismatch_keepsMem ..)).trans ((reachHome_keepsMem ..).ok h2)).trans
                (State.revokeAll_keepsMem ..)).trans (homeRead_keepsMem ..)

theorem homeOp_keepsMem (s : State) (r : TRef) (t : Thread) (need : BitVec 4) (writes : Bool) (l : Leaf) (ea : Word) :
    Keeps s (checkState (fun x => x.2) (homeOp s r t need writes l ea)) := by
  unfold homeOp
  dsimp only
  split
  · split
    · rename_i h1
      exact (holdWrite_keepsMem ..).error h1
    · rename_i h1
      split
      · rename_i h2
        exact ((holdWrite_keepsMem ..).ok h1).trans ((reachHome_keepsMem ..).error h2)
      · rename_i h2
        split
        · split
          · exact (((holdWrite_keepsMem ..).ok h1).trans ((reachHome_keepsMem ..).ok h2)).trans (State.revokeAll_keepsMem ..)
          · exact ((((holdWrite_keepsMem ..).ok h1).trans ((reachHome_keepsMem ..).ok h2)).trans (State.revokeAll_keepsMem ..)).trans
              (homeRead_keepsMem ..)
        · split
          · rename_i h4
            refine .trans ?_ ((poisonStop_keepsMem ..).error h4)
            split
            · exact (((holdWrite_keepsMem ..).ok h1).trans ((reachHome_keepsMem ..).ok h2)).trans (State.revokeAll_keepsMem ..)
            · exact ((((holdWrite_keepsMem ..).ok h1).trans ((reachHome_keepsMem ..).ok h2)).trans (State.revokeAll_keepsMem ..)).trans
                (homeRead_keepsMem ..)
          · refine .trans ?_ ((State.invalidateAll_keepsMem ..).trans (State.dirtySlice_keepsMem ..))
            split
            · exact (((holdWrite_keepsMem ..).ok h1).trans ((reachHome_keepsMem ..).ok h2)).trans (State.revokeAll_keepsMem ..)
            · exact ((((holdWrite_keepsMem ..).ok h1).trans ((reachHome_keepsMem ..).ok h2)).trans (State.revokeAll_keepsMem ..)).trans
                (homeRead_keepsMem ..)
  · split
    · rename_i h1
      exact (reachHome_keepsMem ..).error h1
    · rename_i h1
      split
      · split
        · exact ((reachHome_keepsMem ..).ok h1).trans (State.revokeAll_keepsMem ..)
        · exact (((reachHome_keepsMem ..).ok h1).trans (State.revokeAll_keepsMem ..)).trans (homeRead_keepsMem ..)
      · split
        · rename_i h3
          refine .trans ?_ ((poisonStop_keepsMem ..).error h3)
          split
          · exact ((reachHome_keepsMem ..).ok h1).trans (State.revokeAll_keepsMem ..)
          · exact (((reachHome_keepsMem ..).ok h1).trans (State.revokeAll_keepsMem ..)).trans (homeRead_keepsMem ..)
        · refine .trans ?_ (State.invalidateAll_keepsMem ..)
          split
          · exact ((reachHome_keepsMem ..).ok h1).trans (State.revokeAll_keepsMem ..)
          · exact (((reachHome_keepsMem ..).ok h1).trans (State.revokeAll_keepsMem ..)).trans (homeRead_keepsMem ..)

end Sys2Proof.Machine
end

section
/-! SUPPORT. The memory's form through loads and stores, and through the accesses of other parties at their homes: one lemma per function. -/
namespace Sys2Proof.Machine

/-! ## Machine/LoadStore -/

theorem clearStamp_keepsMem (s : State) (r : TRef) (ea : Word) : Keeps s (clearStamp s r ea) := by
  unfold clearStamp
  split
  · exact .refl
  · exact State.setStamp_keepsMem ..

theorem sealMonitor_keepsMem (s : State) (p : PartId) (key : Nat) : Keeps s (sealMonitor s p key) :=
  sealMonitor_ind (P := Keeps s) s p key .refl fun _ => (State.modPart_keepsMem ..).trans (State.push_keepsMem ..)

theorem putBytes_keepsMem (s : State) (p : PartId) (key : Nat) (n : Nat) (v : Word) : Keeps s (putBytes s p key n v) := by
  unfold putBytes
  dsimp only
  split
  · exact ((State.writeMem_keepsMem ..).trans (windowWritten_keepsMem ..)).trans (sealMonitor_keepsMem ..)
  · exact (State.writeMem_keepsMem ..).trans (windowWritten_keepsMem ..)

theorem passPoint_keepsMem (s : State) (r : TRef) (t : Thread) (kind : Nat) :
    Keeps s (checkState (fun u => u) (passPoint s r t kind)) := by
  unfold passPoint
  dsimp only
  split
  · exact .refl
  · split
    · split
      · split
        all_goals exact .refl
      · exact (logMark_keepsMem ..).trans (State.modThread_keepsMem ..)
    · exact (logMark_keepsMem ..).trans (State.modThread_keepsMem ..)

theorem sendRemote_keepsMem (s : State) (q : RemoteReq) : Keeps s (sendRemote s q) := by
  unfold sendRemote
  split
  · exact State.push_keepsMem ..
  · split
    · exact State.with_portOut_keepsMem ..
    · exact State.push_keepsMem ..

theorem remoteRead_keepsMem (s : State) (r : TRef) (t : Thread) (ea : Word) (op : RemoteOp) (d : Option Reg) (ty : Option LdType)
    (log : ReplyLog) : Keeps s (remoteRead s r t ea op d ty log).state := by
  unfold remoteRead
  dsimp only
  split
  · exact .refl
  · exact sendRemote_keepsMem ..

theorem remoteWrite_keepsMem (s : State) (r : TRef) (t : Thread) (ea : Word) (op : RemoteOp) (log : List LogItem) :
    Keeps s (remoteWrite s r t ea op log).state := by
  unfold remoteWrite
  dsimp only
  split
  · exact .refl
  · split
    · rename_i h1
      exact (passPoint_keepsMem ..).error h1
    · rename_i h1
      exact ((passPoint_keepsMem ..).ok h1).trans (sendRemote_keepsMem ..)

theorem exactCombine_keepsMem (s : State) (p : PartId) (line : Nat) : Keeps s (exactCombine s p line) := by
  unfold exactCombine
  dsimp only
  split
  · exact .refl
  · exact (((State.finishLoad_keepsMem ..).trans (Keeps.foldl (fun u e => forceHolder_keepsMem ..) _)).trans
      (State.combine_keepsMem ..)).trans (State.releaseHome_keepsMem ..)

theorem steepRead_keepsMem (s : State) (r : TRef) (t : Thread) (ea : Word) :
    Keeps s (checkState (fun x => x.2) (steepRead s r t ea)) := by
  unfold steepRead
  dsimp only
  split
  · rename_i h0
    exact (reachHome_keepsMem ..).error h0
  · rename_i h0
    split
    · split
      · exact (reachHome_keepsMem ..).ok h0
      · exact ((reachHome_keepsMem ..).ok h0).trans (homeRead_keepsMem ..)
    · split
      · rename_i h2
        refine .trans ?_ ((poisonStop_keepsMem ..).error h2)
        split
        · exact (reachHome_keepsMem ..).ok h0
        · exact ((reachHome_keepsMem ..).ok h0).trans (homeRead_keepsMem ..)
      · refine .trans ?_ (exactCombine_keepsMem ..)
        split
        · exact (reachHome_keepsMem ..).ok h0
        · exact ((reachHome_keepsMem ..).ok h0).trans (homeRead_keepsMem ..)

theorem windowAt_keepsMem (s : State) (r : TRef) (key : Nat) (lat : Nat) (n : Nat) : Keeps s (windowAt s r key lat n).2 := by
  unfold windowAt
  dsimp only
  split
  · split
    · dsimp only
      split
      · exact (State.modClusterW_keepsMem ..).trans (State.count_keepsMem ..)
      · exact State.modClusterW_keepsMem ..
    · dsimp only
      exact State.sramAt_keepsMem ..
  · dsimp only
    exact State.sramAt_keepsMem ..

theorem windowRead_keepsMem (s : State) (r : TRef) (key : Nat) (lat : Nat) (n : Nat) (ea : Word) :
    Keeps s (checkState (fun x => x.2) (windowRead s r key lat n ea)) := by
  unfold windowRead
  split
  · exact .refl
  · exact windowAt_keepsMem ..

theorem readPlace_keepsMem (s : State) (r : TRef) (t : Thread) (ea : Word) (n : Nat) (pl : Place) :
    Keeps s (checkState (fun x => x.2) (readPlace s r t ea n pl)) := by
  unfold readPlace
  split
  · split
    · exact .refl
    · exact windowRead_keepsMem ..
  · split
    · exact .refl
    · split
      · exact steepRead_keepsMem ..
      · exact loadLine_keepsMem ..
  · exact .refl

theorem writePlace_keepsMem (s : State) (r : TRef) (t : Thread) (ea : Word) (n : Nat) (pl : Place) :
    Keeps s (checkState (fun x => x.2) (writePlace s r t ea n pl)) := by
  unfold writePlace
  split
  · split
    · exact .refl
    · exact windowAt_keepsMem ..
  · split
    · exact .refl
    · exact storeLine_keepsMem ..
  · exact .refl

theorem homePlace_keepsMem (s : State) (r : TRef) (t : Thread) (need : BitVec 4) (reads : Bool) (writes : Bool) (ea : Word) (n : Nat)
    (pl : Place) : Keeps s (checkState (fun x => x.2) (homePlace s r t need reads writes ea n pl)) := by
  unfold homePlace
  split
  · split
    · exact .refl
    · split
      · exact windowRead_keepsMem ..
      · exact windowAt_keepsMem ..
  · split
    · exact .refl
    · exact homeOp_keepsMem ..
  · exact .refl

theorem loadWord_keepsMem (ty : LdType) (d : Reg) (ea : Word) (r : TRef) (t : Thread) (s : State) :
    Keeps s (loadWord ty d ea r t s).state := by
  unfold loadWord
  dsimp only
  split
  · rename_i h0
    exact (checkAccess_keepsMem ..).error h0
  · rename_i h0
    exact ((checkAccess_keepsMem ..).ok h0).trans (remoteRead_keepsMem ..)
  · rename_i h0
    split
    · rename_i h1
      exact ((checkAccess_keepsMem ..).ok h0).trans ((readPlace_keepsMem ..).error h1)
    · rename_i h1
      exact ((checkAccess_keepsMem ..).ok h0).trans ((readPlace_keepsMem ..).ok h1)

theorem storeWord_keepsMem (ty : StType) (d : Reg) (ea : Word) (r : TRef) (t : Thread) (s : State) :
    Keeps s (storeWord ty d ea r t s).state := by
  unfold storeWord
  dsimp only
  split
  · rename_i h0
    exact (checkAccess_keepsMem ..).error h0
  · rename_i h0
    exact ((checkAccess_keepsMem ..).ok h0).trans (remoteWrite_keepsMem ..)
  · rename_i h0
    split
    · rename_i h1
      exact ((checkAccess_keepsMem ..).ok h0).trans ((writePlace_keepsMem ..).error h1)
    · rename_i h1
      exact ((((checkAccess_keepsMem ..).ok h0).trans ((writePlace_keepsMem ..).ok h1)).trans (putBytes_keepsMem ..)).trans
        (clearStamp_keepsMem ..)

theorem loadOffset_keepsMem (ty : LdType) (d : Reg) (a : Src) (off : BitVec 15) (s : State) :
    Keeps s (outState s (loadOffset ty d a off s)) := by
  unfold loadOffset
  exact runWord_keepsMem (fun x0 x1 x2 => loadWord_keepsMem ..)

theorem storeOffset_keepsMem (ty : StType) (d : Reg) (a : Src) (off : BitVec 15) (s : State) :
    Keeps s (outState s (storeOffset ty d a off s)) := by
  unfold storeOffset
  exact runWord_keepsMem (fun x0 x1 x2 => storeWord_keepsMem ..)

theorem execLdS8_keepsMem (d : Reg) (a : Src) (off : BitVec 15) (s : State) : Keeps s (outState s (execLdS8 d a off s)) := by
  unfold execLdS8
  exact loadOffset_keepsMem ..

theorem execLdS16_keepsMem (d : Reg) (a : Src) (off : BitVec 15) (s : State) : Keeps s (outState s (execLdS16 d a off s)) := by
  unfold execLdS16
  exact loadOffset_keepsMem ..

theorem execLdS32_keepsMem (d : Reg) (a : Src) (off : BitVec 15) (s : State) : Keeps s (outState s (execLdS32 d a off s)) := by
  unfold execLdS32
  exact loadOffset_keepsMem ..

theorem execLdS64_keepsMem (d : Reg) (a : Src) (off : BitVec 15) (s : State) : Keeps s (outState s (execLdS64 d a off s)) := by
  unfold execLdS64
  exact loadOffset_keepsMem ..

theorem execLdZ8_keepsMem (d : Reg) (a : Src) (off : BitVec 15) (s : State) : Keeps s (outState s (execLdZ8 d a off s)) := by
  unfold execLdZ8
  exact loadOffset_keepsMem ..

theorem execLdZ16_keepsMem (d : Reg) (a : Src) (off : BitVec 15) (s : State) : Keeps s (outState s (execLdZ16 d a off s)) := by
  unfold execLdZ16
  exact loadOffset_keepsMem ..

theorem execLdZ32_keepsMem (d : Reg) (a : Src) (off : BitVec 15) (s : State) : Keeps s (outState s (execLdZ32 d a off s)) := by
  unfold execLdZ32
  exact loadOffset_keepsMem ..

theorem execLdx_keepsMem (ty : LdType) (d : Reg) (a : Src) (b : Src) (s : State) : Keeps s (outState s (execLdx ty d a b s)) := by
  unfold execLdx
  exact runWord_keepsMem (fun x0 x1 x2 => loadWord_keepsMem ..)

theorem execSt8_keepsMem (d : Reg) (a : Src) (off : BitVec 15) (s : State) : Keeps s (outState s (execSt8 d a off s)) := by
  unfold execSt8
  exact storeOffset_keepsMem ..

theorem execSt16_keepsMem (d : Reg) (a : Src) (off : BitVec 15) (s : State) : Keeps s (outState s (execSt16 d a off s)) := by
  unfold execSt16
  exact storeOffset_keepsMem ..

theorem execSt32_keepsMem (d : Reg) (a : Src) (off : BitVec 15) (s : State) : Keeps s (outState s (execSt32 d a off s)) := by
  unfold execSt32
  exact storeOffset_keepsMem ..

theorem execSt64_keepsMem (d : Reg) (a : Src) (off : BitVec 15) (s : State) : Keeps s (outState s (execSt64 d a off s)) := by
  unfold execSt64
  exact storeOffset_keepsMem ..

theorem execStx_keepsMem (ty : StType) (d : Reg) (a : Src) (b : Src) (s : State) : Keeps s (outState s (execStx ty d a b s)) := by
  unfold execStx
  exact runWord_keepsMem (fun x0 x1 x2 => storeWord_keepsMem ..)

theorem checkLanes_keepsMem (r : TRef) (t : Thread) (need : BitVec 4) (n : Nat) (l : List LaneAt) (s : State) :
    Keeps s (checkState (fun x => x.2) (checkLanes r t need n l s)) := by
  induction l generalizing s with
  | nil => exact .refl
  | cons x l ih =>
    rw [checkLanes]
    split
    · rename_i h
      exact (checkAccess_keepsMem ..).error h
    · rename_i pl u h
      have hu : Keeps s u := (checkAccess_keepsMem ..).ok h
      split
      · rename_i h1
        exact hu.trans ((ih _).error h1)
      · rename_i ps v h1
        have hv : Keeps u v := (ih _).ok h1
        exact hu.trans hv

theorem readLanes_keepsMem (r : TRef) (t : Thread) (n : Nat) (l : List (LaneAt × Place)) (s : State) :
    Keeps s (checkState (fun x => x.2) (readLanes r t n l s)) := by
  induction l generalizing s with
  | nil => exact .refl
  | cons e l ih =>
    rw [readLanes]
    split
    · rename_i h
      exact (readPlace_keepsMem ..).error h
    · rename_i pl u h
      have hu : Keeps s u := (readPlace_keepsMem ..).ok h
      split
      · rename_i h1
        exact hu.trans ((ih _).error h1)
      · rename_i ps v h1
        have hv : Keeps u v := (ih _).ok h1
        exact hu.trans hv

theorem readyLanes_keepsMem (r : TRef) (t : Thread) (n : Nat) (l : List (LaneAt × Place)) (s : State) :
    Keeps s (checkState (fun x => x.2) (readyLanes r t n l s)) := by
  induction l generalizing s with
  | nil => exact .refl
  | cons e l ih =>
    rw [readyLanes]
    split
    · rename_i h
      exact (writePlace_keepsMem ..).error h
    · rename_i pl u h
      have hu : Keeps s u := (writePlace_keepsMem ..).ok h
      split
      · rename_i h1
        exact hu.trans ((ih _).error h1)
      · rename_i ps v h1
        have hv : Keeps u v := (ih _).ok h1
        exact hu.trans hv

theorem vectorLoad_keepsMem (w : Nat) (n : Nat) (d : VReg) (base : Word) (l : List LaneAt) (r : TRef) (t : Thread) (s : State) :
    Keeps s (vectorLoad w n d base l r t s).state := by
  unfold vectorLoad
  dsimp only
  split
  · rename_i h0
    exact (checkLanes_keepsMem ..).error h0
  · rename_i h0
    split
    · rename_i h1
      exact ((checkLanes_keepsMem ..).ok h0).trans ((readLanes_keepsMem ..).error h1)
    · rename_i h1
      exact ((checkLanes_keepsMem ..).ok h0).trans ((readLanes_keepsMem ..).ok h1)

theorem vectorStore_keepsMem (w : Nat) (d : VReg) (base : Word) (l : List LaneAt) (r : TRef) (t : Thread) (s : State) :
    Keeps s (vectorStore w d base l r t s).state := by
  unfold vectorStore
  dsimp only
  split
  · rename_i h0
    exact (checkLanes_keepsMem ..).error h0
  · rename_i h0
    split
    · rename_i h1
      exact ((checkLanes_keepsMem ..).ok h0).trans ((readyLanes_keepsMem ..).error h1)
    · rename_i h1
      exact (((checkLanes_keepsMem ..).ok h0).trans ((readyLanes_keepsMem ..).ok h1)).trans
        (Keeps.foldl (fun u e => (putBytes_keepsMem ..).trans (clearStamp_keepsMem ..)) _)

theorem execVld_keepsMem (d : VReg) (a : Src) (off : BitVec 15) (s : State) : Keeps s (outState s (execVld d a off s)) := by
  unfold execVld
  dsimp only
  refine runWord_keepsMem (fun _ _ _ => ?_)
  split
  · rename_i h1
    exact (checkAccess_keepsMem ..).error h1
  · rename_i h1
    split
    · rename_i h2
      exact ((checkAccess_keepsMem ..).ok h1).trans ((readPlace_keepsMem ..).error h2)
    · rename_i h2
      exact ((checkAccess_keepsMem ..).ok h1).trans ((readPlace_keepsMem ..).ok h2)

theorem execVst_keepsMem (d : VReg) (a : Src) (off : BitVec 15) (s : State) : Keeps s (outState s (execVst d a off s)) := by
  unfold execVst
  dsimp only
  refine runWord_keepsMem (fun _ _ _ => ?_)
  split
  · rename_i h1
    exact (checkAccess_keepsMem ..).error h1
  · rename_i h1
    split
    · rename_i h2
      exact ((checkAccess_keepsMem ..).ok h1).trans ((writePlace_keepsMem ..).error h2)
    · rename_i h2
      exact ((((checkAccess_keepsMem ..).ok h1).trans ((writePlace_keepsMem ..).ok h2)).trans
        (Keeps.foldl (fun u e => putBytes_keepsMem ..) _)).trans (clearStamp_keepsMem ..)

theorem execVlds_keepsMem (ty : VType) (mask : Option MReg) (d : VReg) (a : Src) (b : Src) (s : State) :
    Keeps s (outState s (execVlds ty mask d a b s)) := by
  unfold execVlds
  exact runWord_keepsMem (fun x0 x1 x2 => vectorLoad_keepsMem ..)

theorem execVgath_keepsMem (ty : VType) (mask : Option MReg) (d : VReg) (a : Src) (b : VReg) (s : State) :
    Keeps s (outState s (execVgath ty mask d a b s)) := by
  unfold execVgath
  exact runWord_keepsMem (fun x0 x1 x2 => vectorLoad_keepsMem ..)

theorem execVscat_keepsMem (ty : VType) (mask : Option MReg) (d : VReg) (a : Src) (b : VReg) (s : State) :
    Keeps s (outState s (execVscat ty mask d a b s)) := by
  unfold execVscat
  exact runWord_keepsMem (fun x0 x1 x2 => vectorStore_keepsMem ..)

/-! ## Machine/Agents -/

theorem replyThread_keepsMem (s : State) (r : TRef) (tid : Nat) (v : Option Word) : Keeps s (replyThread s r tid v) := by
  unfold replyThread
  split
  · exact State.push_keepsMem ..
  · split
    · exact State.modPart_keepsMem ..
    · exact .refl

theorem replyRemote_keepsMem (s : State) (modid : BitVec 16) (r : TRef) (tid : Nat) (v : Option Word) :
    Keeps s (replyRemote s modid r tid v) := by
  unfold replyRemote
  split
  · exact replyThread_keepsMem ..
  · exact State.with_portOut_keepsMem ..

theorem replyError_keepsMem (s : State) (modid : BitVec 16) (r : TRef) (tid : Nat) : Keeps s (replyError s modid r tid) := by
  unfold replyError
  split
  · exact State.push_keepsMem ..
  · exact State.with_portOut_keepsMem ..

theorem stampPend_keepsMem (s : State) (r : TRef) (stamp : Option Stamp) : Keeps s (stampPend s r stamp) := by
  unfold stampPend
  dsimp only
  split
  · exact State.modThread_keepsMem ..
  · exact .refl

theorem takeLine_keepsMem (s : State) (p : PartId) (line : Nat) : Keeps s (takeLine s p line) := by
  unfold takeLine
  exact (((State.revokeAll_keepsMem ..).trans (State.invalidateAll_keepsMem ..)).trans (State.dirtySlice_keepsMem ..)).trans
    (State.setStamp_keepsMem ..)

theorem heldPage_keepsMem (s : State) (p : PartId) (key : Nat) (w : PageWriter) :
    Keeps s (optState s (fun u => u) (heldPage s p key w)) := by
  obtain ⟨F, hF⟩ : ∃ F, F = capturedLeaf := ⟨_, rfl⟩
  rw [heldPage, ← hF]
  cases F s p key with
  | none => exact .refl
  | some l =>
    rw [Option.bind_some]
    exact pageWait_keepsMem ..

theorem dirtyFrame_keepsMem (s : State) (p : PartId) (key : Nat) : Keeps s (dirtyFrame s p key) := by
  unfold dirtyFrame
  dsimp only
  split
  · exact .refl
  · exact Keeps.foldl (fun u e => pageWritten_keepsMem ..) _

theorem heldPassed_keepsMem (s : State) (p : PartId) (key : Nat) (w : PageWriter) : Keeps s (heldPassed s p key w) := by
  have h (F : State → PartId → Nat → PageWriter → State) (hF : F = heldPassed) : Keeps s (F s p key w) := by
    delta heldPassed at hF
    rw [hF]
    beta_reduce
    generalize capturedLeaf s p key = o
    cases o with
    | none => exact .refl
    | some l => exact pagePassed_keepsMem ..
  exact h _ rfl

theorem collectAt_keepsMem (s : State) (p : PartId) (key : Nat) : Keeps s (collectAt s p key) := by
  unfold collectAt
  split
  · exact ((State.revokeAll_keepsMem ..).trans (State.invalidateAll_keepsMem ..)).trans (State.dirtySlice_keepsMem ..)
  · exact .refl

theorem unstampAt_keepsMem (s : State) (p : PartId) (key : Nat) : Keeps s (unstampAt s p key) := by
  unfold unstampAt
  split
  · exact State.setStamp_keepsMem ..
  · exact .refl

theorem opAtHome_ind {P : Except State State → Prop} (s : State) (p : PartId) (key : Nat) (w : PageWriter)
    (h1 : ∀ u, heldPage s p key w = some u → P (.error u))
    (h2 : P (.ok (collectAt (dirtyFrame (heldPassed s p key w) p key) p key))) : P (opAtHome s p key w) := by
  have h (F : State → PartId → Nat → PageWriter → Except State State) (hF : F = opAtHome) : P (F s p key w) := by
    delta opAtHome at hF
    rw [hF]
    beta_reduce
    generalize heldPage s p key w = o at h1 ⊢
    cases o with
    | some u => exact h1 u rfl
    | none => exact h2
  exact h _ rfl

theorem opAtHome_keepsMem (s : State) (p : PartId) (key : Nat) (w : PageWriter) : Keeps s (eitherState (opAtHome s p key w)) :=
  opAtHome_ind (P := fun x => Keeps s (eitherState x)) s p key w (fun _ h => (heldPage_keepsMem ..).some h)
    (((heldPassed_keepsMem ..).trans (dirtyFrame_keepsMem ..)).trans (collectAt_keepsMem ..))

theorem atHome_keepsMem (s : State) (p : PartId) (key : Nat) (w : PageWriter) : Keeps s (eitherState (atHome s p key w)) := by
  refine .generic fun P hP => ?_
  obtain ⟨F, hF⟩ : ∃ F, F = atHome := ⟨_, rfl⟩
  rw [← hF]
  delta atHome at hF
  rw [hF]
  beta_reduce
  split
  · rename_i h0
    exact hP _ ((opAtHome_keepsMem ..).left h0)
  · rename_i h0
    exact hP _ (((opAtHome_keepsMem ..).right h0).trans (unstampAt_keepsMem ..))

theorem readHome_keepsMem (s : State) (p : PartId) (key : Nat) (corr : BitVec 32) : Keeps s (readHome s p key corr) := by
  unfold readHome
  split
  · exact homeRead_keepsMem ..
  · exact .refl

theorem noteWrite_keepsMem (s : State) (p : PartId) (a : Word) : Keeps s (noteWrite s p a) := by
  unfold noteWrite
  split
  · exact .refl
  · split
    · exact pageWritten_keepsMem ..
    · exact .refl

theorem reachWrite_keepsMem (s : State) (p : PartId) (l : Leaf) (va : Nat) (w : PageWriter) : Keeps s (reachWrite s p l va w).state := by
  unfold reachWrite
  split
  · exact pagePassed_keepsMem ..
  · split
    · rename_i h1
      exact (pageWait_keepsMem ..).some h1
    · split
      · rename_i h2
        exact (((pagePassed_keepsMem ..).trans (pageWritten_keepsMem ..)).trans
          ((homeLookup_keepsMem ..).cast (congrArg Fill.state h2))).trans (takeLine_keepsMem ..)
      · rename_i h2
        exact ((pagePassed_keepsMem ..).trans (pageWritten_keepsMem ..)).trans ((homeLookup_keepsMem ..).cast (congrArg Fill.state h2))
      · rename_i h2
        exact (((pagePassed_keepsMem ..).trans (pageWritten_keepsMem ..)).trans
          ((homeLookup_keepsMem ..).cast (congrArg Fill.state h2))).trans (listWalk_keepsMem ..)
      · rename_i h2
        exact ((pagePassed_keepsMem ..).trans (pageWritten_keepsMem ..)).trans ((homeLookup_keepsMem ..).cast (congrArg Fill.state h2))

theorem reachRead_keepsMem (s : State) (p : PartId) (l : Leaf) (va : Nat) (n : Nat) (corr : BitVec 32) :
    Keeps s (reachRead s p l va n corr).state := by
  unfold reachRead
  dsimp only
  split
  · rename_i h0
    split
    · split
      all_goals
        exact (((homeLookup_keepsMem ..).cast (congrArg Fill.state h0)).trans (State.revokeAll_keepsMem ..)).trans
          (Keeps.foldl (fun u e => State.forwardRead_keepsMem ..) _)
    · split
      all_goals
        exact ((((homeLookup_keepsMem ..).cast (congrArg Fill.state h0)).trans (homeRead_keepsMem ..)).trans
          (State.revokeAll_keepsMem ..)).trans (Keeps.foldl (fun u e => State.forwardRead_keepsMem ..) _)
  · rename_i h0
    split
    all_goals
      exact (((homeLookup_keepsMem ..).cast (congrArg Fill.state h0)).trans (State.revokeAll_keepsMem ..)).trans
        (Keeps.foldl (fun u e => State.forwardRead_keepsMem ..) _)
  · rename_i h0
    split
    all_goals
      exact ((((homeLookup_keepsMem ..).cast (congrArg Fill.state h0)).trans (listWalk_keepsMem ..)).trans
        (State.revokeAll_keepsMem ..)).trans (Keeps.foldl (fun u e => State.forwardRead_keepsMem ..) _)
  · rename_i h0
    exact (homeLookup_keepsMem ..).cast (congrArg Fill.state h0)

theorem setFeLists_keepsMem (s : State) (p : PartId) (key : Nat) (l : FeLists) : Keeps s (setFeLists s p key l) := .of_mem rfl

theorem feServeSoon_keepsMem (s : State) (p : PartId) (key : Nat) : Keeps s (feServeSoon s p key) := by
  unfold feServeSoon
  dsimp only
  split
  · exact State.after_keepsMem ..
  · exact .refl

theorem releaseRecord_keepsMem (s : State) (p : PartId) (id : Nat) : Keeps s (releaseRecord s p id) := .of_mem rfl

theorem feReply_keepsMem (s : State) (p : PartId) (q : FeReq) (v : Option Word) : Keeps s (feReply s p q v) := by
  unfold feReply
  dsimp only
  split
  · exact (stampPend_keepsMem ..).trans (replyThread_keepsMem ..)
  · exact releaseRecord_keepsMem ..
  · exact replyRemote_keepsMem ..
  · exact .refl

theorem feComplete_keepsMem (s : State) (q : FeReq) : Keeps s (feComplete s q).2 := by
  unfold feComplete
  dsimp only
  split
  · exact State.setFullBit_keepsMem ..
  · exact .refl

theorem feFill_keepsMem (s : State) (p : PartId) (key : Nat) (v : Word) : Keeps s (feFill s p key v) := by
  unfold feFill
  exact ((unstampAt_keepsMem ..).trans (putBytes_keepsMem ..)).trans (State.setFullBit_keepsMem ..)

theorem feLogged_keepsMem (s : State) (q : FeReq) : Keeps s (feLogged s q) := by
  unfold feLogged
  split
  · split
    · split
      · split
        · exact (logPerformed_keepsMem ..).trans (State.modThread_keepsMem ..)
        · exact .refl
      · exact .refl
    · exact .refl
  · exact .refl
  · exact .refl
  · exact .refl

theorem feArrive_keepsMem (s : State) (p : PartId) (q : FeReq) : Keeps s (feArrive s p q).2 := by
  unfold feArrive
  dsimp only
  split
  · split
    · dsimp only
      exact feComplete_keepsMem ..
    · dsimp only
      exact setFeLists_keepsMem ..
  · split
    · dsimp only
      exact feComplete_keepsMem ..
    · dsimp only
      exact setFeLists_keepsMem ..
  · split
    · dsimp only
      exact setFeLists_keepsMem ..
    · dsimp only
      exact feFill_keepsMem ..
  · dsimp only
    exact feFill_keepsMem ..
  · dsimp only
    exact State.setFullBit_keepsMem ..

theorem feServe_keepsMem (s : State) (p : PartId) (key : Nat) : Keeps s (feServe s p key) := by
  unfold feServe
  dsimp only
  split
  · exact ((setFeLists_keepsMem ..).trans (feComplete_keepsMem ..)).trans (feReply_keepsMem ..)
  · exact (((setFeLists_keepsMem ..).trans (feFill_keepsMem ..)).trans (feLogged_keepsMem ..)).trans (feReply_keepsMem ..)
  · exact .refl

theorem fePoisoned_keepsMem (s : State) (p : PartId) (key : Nat) : Keeps s (fePoisoned s p key) := by
  unfold fePoisoned
  dsimp only
  refine (setFeLists_keepsMem ..).trans (Keeps.foldl (fun u e => ?_) _)
  split
  · split
    · split
      · exact takeTrap_keepsMem ..
      · exact .refl
    · exact .refl
  · exact replyError_keepsMem ..
  · exact setFeLists_keepsMem ..
  · exact setFeLists_keepsMem ..

theorem lineBack_keepsMem (s : State) (p : PartId) (key : Nat) : Keeps s (lineBack s p key) := by
  unfold lineBack
  split
  · exact .refl
  · split
    · exact bringLine_keepsMem ..
    · exact .refl

theorem execFeListServe_keepsMem (p : PartId) (key : Nat) (s : State) : Keeps s (outState s (execFeListServe p key s)) := by
  refine .generic fun P hP => ?_
  unfold execFeListServe
  split
  · exact hP _ .refl
  · split
    · rename_i h1
      exact hP _ (((lineBack_keepsMem ..).trans ((opAtHome_keepsMem ..).left h1)).trans (State.holdBack_keepsMem ..))
    · rename_i h1
      dsimp only
      split
      · exact hP _ ((((lineBack_keepsMem ..).trans ((opAtHome_keepsMem ..).right h1)).trans (readHome_keepsMem ..)).trans
          (fePoisoned_keepsMem ..))
      · exact hP _ (((((lineBack_keepsMem ..).trans ((opAtHome_keepsMem ..).right h1)).trans (readHome_keepsMem ..)).trans
          (feServe_keepsMem ..)).trans (feServeSoon_keepsMem ..))

theorem execFeHomeOperation_keepsMem (p : PartId) (q : FeReq) (s : State) : Keeps s (outState s (execFeHomeOperation p q s)) := by
  refine .generic fun P hP => ?_
  obtain ⟨F, hF⟩ : ∃ F, F = execFeHomeOperation := ⟨_, rfl⟩
  rw [← hF]
  delta execFeHomeOperation at hF
  rw [hF]
  beta_reduce
  split
  · rename_i h0
    exact hP _ (((opAtHome_keepsMem ..).left h0).trans (State.holdBack_keepsMem ..))
  · rename_i h0
    dsimp only
    split
    · exact hP _ ((((((opAtHome_keepsMem ..).right h0).trans (State.sramAt_keepsMem ..)).trans (feArrive_keepsMem ..)).trans
        (feReply_keepsMem ..)).trans (feServeSoon_keepsMem ..))
    · exact hP _ (((((opAtHome_keepsMem ..).right h0).trans (State.sramAt_keepsMem ..)).trans (feArrive_keepsMem ..)).trans
        (feServeSoon_keepsMem ..))

theorem feForget_keepsMem (s : State) (p : PartId) (tid : Nat) : Keeps s (feForget s p tid) := by
  unfold feForget
  exact Keeps.foldl (fun u e => State.modPart_keepsMem ..) _

theorem feWord_keepsMem (op : FeOp) (d : Reg) (v : Word) (ea : Word) (r : TRef) (t : Thread) (s : State) :
    Keeps s (feWord op d v ea r t s).state := by
  unfold feWord
  dsimp only
  split
  · rename_i h0
    exact (checkAccess_keepsMem ..).error h0
  · rename_i h0
    split
    · exact ((checkAccess_keepsMem ..).ok h0).trans (remoteRead_keepsMem ..)
    · exact ((checkAccess_keepsMem ..).ok h0).trans (remoteWrite_keepsMem ..)
  · rename_i h0
    split
    · rename_i h1
      exact ((checkAccess_keepsMem ..).ok h0).trans ((homePlace_keepsMem ..).error h1)
    · rename_i h1
      split
      · exact ((((checkAccess_keepsMem ..).ok h0).trans ((homePlace_keepsMem ..).ok h1)).trans (feArrive_keepsMem ..)).trans
          (feServeSoon_keepsMem ..)
      · exact ((((checkAccess_keepsMem ..).ok h0).trans ((homePlace_keepsMem ..).ok h1)).trans (feArrive_keepsMem ..)).trans
          (feServeSoon_keepsMem ..)
      · split
        all_goals
          exact ((((checkAccess_keepsMem ..).ok h0).trans ((homePlace_keepsMem ..).ok h1)).trans (feArrive_keepsMem ..)).trans
            (feServeSoon_keepsMem ..)

theorem execLds_keepsMem (d : Reg) (a : Src) (off : BitVec 15) (s : State) : Keeps s (outState s (execLds d a off s)) := by
  unfold execLds
  exact runWord_keepsMem (fun x0 x1 x2 => feWord_keepsMem ..)

theorem execLdsk_keepsMem (d : Reg) (a : Src) (off : BitVec 15) (s : State) : Keeps s (outState s (execLdsk d a off s)) := by
  unfold execLdsk
  exact runWord_keepsMem (fun x0 x1 x2 => feWord_keepsMem ..)

theorem execSts_keepsMem (d : Reg) (a : Src) (off : BitVec 15) (s : State) : Keeps s (outState s (execSts d a off s)) := by
  unfold execSts
  exact runWord_keepsMem (fun x0 x1 x2 => feWord_keepsMem ..)

theorem execStf_keepsMem (d : Reg) (a : Src) (off : BitVec 15) (s : State) : Keeps s (outState s (execStf d a off s)) := by
  unfold execStf
  exact runWord_keepsMem (fun x0 x1 x2 => feWord_keepsMem ..)

theorem execClre_keepsMem (a : Src) (off : BitVec 15) (s : State) : Keeps s (outState s (execClre a off s)) := by
  unfold execClre
  exact runWord_keepsMem (fun x0 x1 x2 => feWord_keepsMem ..)

theorem execMemoryReply_keepsMem (r : TRef) (v : Option Word) (s : State) : Keeps s (outState s (execMemoryReply r v s)) := by
  unfold execMemoryReply
  dsimp only
  split
  · split
    · split
      · exact (State.setThread_keepsMem ..).trans (State.after_keepsMem ..)
      · exact (State.setThread_keepsMem ..).trans (commitAt_keepsMem ..)
    · exact .refl
  · exact .refl

theorem execRemoteErrorReply_keepsMem (r : TRef) (tid : Nat) (s : State) : Keeps s (outState s (execRemoteErrorReply r tid s)) := by
  unfold execRemoteErrorReply
  split
  · split
    · split
      · split
        · exact takeTrap_keepsMem ..
        · exact execMemoryReply_keepsMem ..
      · exact .refl
    · exact .refl
  · exact .refl

/-! ## Machine/Inputs -/

theorem takeInput_keepsMem (s : State) (p : PartId) (key : Nat) (ch : Chan) (colour : Option Bool) (i : Instr) :
    Keeps s (optState s (fun u => u) (takeInput s p key ch colour i)) := by
  unfold takeInput
  dsimp only
  split
  · exact .refl
  · split
    · exact State.modPart_keepsMem ..
    · exact .refl

theorem setSnapState_keepsMem (s : State) (p : PartId) (n : Nat) (v : Nat) : Keeps s (setSnapState s p n v) := .of_mem rfl

theorem endRecording_keepsMem (s : State) (p : PartId) : Keeps s (endRecording s p) := by
  unfold endRecording
  dsimp only
  split
  · exact ((setSnapState_keepsMem ..).trans (State.modPart_keepsMem ..)).trans (State.after_keepsMem ..)
  · exact .refl

theorem blkArrives_keepsMem (s : State) (p : PartId) (key : Nat) (colour : Bool) : Keeps s (blkArrives s p key colour) := by
  unfold blkArrives
  dsimp only
  exact (State.modPart_keepsMem ..).trans (endRecording_keepsMem ..)

theorem holdInput_keepsMem (s : State) (p : PartId) (i : Instr) : Keeps s (holdInput s p i) := .of_mem rfl

end Sys2Proof.Machine
end

section
/-! SUPPORT. The memory's form through the life of threads and their words: one lemma per function. -/
namespace Sys2Proof.Machine

/-! ## Machine/Threads -/

theorem allocTid_keepsMem (s : State) (p : PartId) : Keeps s (allocTid s p).2 := .of_mem rfl

theorem freedTid_keepsMem (s : State) (p : PartId) (tid : Nat) : Keeps s (freedTid s p tid) := .of_mem rfl

theorem placeThread_keepsMem (s : State) (r : TRef) (t : Thread) (ready : Nat) : Keeps s (placeThread s r t ready) := by
  unfold placeThread
  dsimp only
  exact (State.setThread_keepsMem ..).trans (logStart_keepsMem ..)

theorem askUpdate_keepsMem (s : State) (p : PartId) (c : CoreId) : Keeps s (askUpdate s p c) := by
  unfold askUpdate
  split
  · exact .refl
  · exact State.push_keepsMem ..

theorem slotFreed_keepsMem (s : State) (p : PartId) (c : CoreId) : Keeps s (slotFreed s p c) := by
  unfold slotFreed
  dsimp only
  split
  · exact (State.modCoreW_keepsMem ..).trans (placeThread_keepsMem ..)
  · split
    · split
      · split
        · exact .refl
        · exact State.push_keepsMem ..
      · split
        · exact askUpdate_keepsMem ..
        · exact (askUpdate_keepsMem ..).trans (State.push_keepsMem ..)
    · split
      · exact .refl
      · exact askUpdate_keepsMem ..
  · exact .refl

theorem freeSlot_keepsMem (s : State) (r : TRef) : Keeps s (freeSlot s r) := by
  unfold freeSlot
  dsimp only
  split
  · exact (State.clearSlot_keepsMem ..).trans (State.push_keepsMem ..)
  · split
    · exact (State.clearSlot_keepsMem ..).trans (State.push_keepsMem ..)
    · exact (State.clearSlot_keepsMem ..).trans (slotFreed_keepsMem ..)

theorem leaveSlot_keepsMem (s : State) (r : TRef) : Keeps s (leaveSlot s r) := .of_mem rfl

theorem freeSlots_keepsMem (s : State) (p : PartId) : Keeps s (freeSlots s p) := by
  unfold freeSlots
  exact Keeps.foldl (fun u e => freeSlot_keepsMem ..) _

theorem releaseDset_keepsMem (s : State) (p : PartId) (d : Nat) : Keeps s (releaseDset s p d) := by
  unfold releaseDset
  split
  · exact .refl
  · exact (State.modPart_keepsMem ..).trans (State.push_keepsMem ..)

theorem recordEnded_keepsMem (s : State) (p : PartId) (launch : Option Nat) : Keeps s (recordEnded s p launch) := by
  unfold recordEnded
  dsimp only
  split
  · exact .refl
  · split
    · exact (State.modPart_keepsMem ..).trans (State.push_keepsMem ..)
    · exact State.modPart_keepsMem ..

theorem resvRead_keepsMem (s : State) (p : PartId) (w : Waiter) : Keeps s (resvRead s p w) := by
  unfold resvRead
  dsimp only
  refine .trans ?_ (readHome_keepsMem ..)
  split
  · exact (State.revokeAll_keepsMem ..).trans (State.invalidateAll_keepsMem ..)
  · exact .refl

theorem grantNext_keepsMem (p : PartId) (line : Nat) (l : List Waiter) (s : State) : Keeps s (grantNext p line l s) := by
  induction l generalizing s with
  | nil => exact State.modPart_keepsMem ..
  | cons w l ih =>
    have hread := (State.modPart_keepsMem s p fun q => { q with resv := kput q.resv line (w :: l) }).trans (resvRead_keepsMem _ p w)
    refine hread.trans (.ite ?_ ((stampPend_keepsMem ..).trans (replyThread_keepsMem ..)))
    split
    · exact ((State.setThread_keepsMem ..).trans (takeTrap_keepsMem ..)).trans (ih _)
    · exact ih _

theorem retryLrw_keepsMem (s : State) (p : PartId) (line : Nat) : Keeps s (retryLrw s p line) := by
  unfold retryLrw
  split
  · exact State.push_keepsMem ..
  · exact .refl

theorem releaseResv_keepsMem (s : State) (p : PartId) (line : Nat) : Keeps s (releaseResv s p line) := by
  unfold releaseResv
  exact (grantNext_keepsMem ..).trans (retryLrw_keepsMem ..)

theorem leaveResv_keepsMem (s : State) (p : PartId) (tid : Nat) (resv : Option Nat) : Keeps s (leaveResv s p tid resv) := by
  unfold leaveResv
  dsimp only
  split
  · exact .refl
  · split
    · split
      · exact (State.modPart_keepsMem ..).trans (releaseResv_keepsMem ..)
      · exact ((State.modPart_keepsMem ..).trans (State.modPart_keepsMem ..)).trans (retryLrw_keepsMem ..)
    · exact State.modPart_keepsMem ..

theorem joinQueue_keepsMem (p : PartId) (s : State) (w : Waiter) : Keeps s (joinQueue p s w) := by
  unfold joinQueue
  dsimp only
  split
  · split
    · split
      · exact (State.modPart_keepsMem ..).trans (grantNext_keepsMem ..)
      · exact State.modPart_keepsMem ..
    · exact .refl
  · exact State.modPart_keepsMem ..

theorem execLrwRetry_keepsMem (p : PartId) (sl : SliceId) (s : State) : Keeps s (outState s (execLrwRetry p sl s)) := by
  unfold execLrwRetry
  exact Keeps.foldl (fun u e => joinQueue_keepsMem ..) _

theorem applyDelivery_keepsMem (s : State) (r : TRef) (m : Delivery) : Keeps s (applyDelivery s r m) := by
  unfold applyDelivery
  dsimp only
  split
  · exact State.modThread_keepsMem ..
  · refine .trans ?_ (State.modThread_keepsMem ..)
    split
    · exact logItem_keepsMem ..
    · exact .refl

theorem deliver_keepsMem (s : State) (m : Delivery) : Keeps s (deliver s m) := by
  unfold deliver
  dsimp only
  split
  · split
    · split
      · exact State.modCoreW_keepsMem ..
      · exact State.after_keepsMem ..
    · exact applyDelivery_keepsMem ..
  · split
    · split
      · exact State.modPart_keepsMem ..
      · exact State.after_keepsMem ..
    · exact .refl

theorem execRegisterDelivery_keepsMem (m : Delivery) (s : State) : Keeps s (outState s (execRegisterDelivery m s)) := by
  unfold execRegisterDelivery
  exact deliver_keepsMem ..

theorem execDeliveryRetry_keepsMem (m : Delivery) (s : State) : Keeps s (outState s (execDeliveryRetry m s)) := by
  unfold execDeliveryRetry
  exact deliver_keepsMem ..

theorem sendDelivery_keepsMem (s : State) (modid : BitVec 16) (m : Delivery) : Keeps s (sendDelivery s modid m) := by
  unfold sendDelivery
  split
  · exact State.after_keepsMem ..
  · exact State.with_portOut_keepsMem ..

theorem serverReply_keepsMem (s : State) (t : Thread) (failed : Bool) : Keeps s (serverReply s t failed) := by
  unfold serverReply
  split
  · split
    · exact sendDelivery_keepsMem ..
    · exact .refl
  · exact .refl

theorem State.modAcc_keepsMem (s : State) (p : PartId) (k : ClusterId) (i : Nat) (f : AccSlot → AccSlot) :
    Keeps s (State.modAcc s p k i f) := .of_mem rfl

theorem orphanSlots_keepsMem (s : State) (p : PartId) (c : CoreId) (sel : AccSlot → Bool) : Keeps s (orphanSlots s p c sel) := by
  unfold orphanSlots
  dsimp only
  split
  · exact .refl
  · refine Keeps.foldl (fun u e => ?_) _
    split
    · exact State.modAcc_keepsMem ..
    · exact .refl

theorem modTagged_keepsMem (s : State) (p : PartId) (tid : Nat) (f : AccSlot → AccSlot) : Keeps s (modTagged s p tid f) := .of_mem rfl

theorem exitTags_keepsMem (s : State) (p : PartId) (tid : Nat) : Keeps s (exitTags s p tid) := .of_mem rfl

theorem endStreams_keepsMem (s : State) (p : PartId) (c : CoreId) (tid : Nat) : Keeps s (endStreams s p c tid) := .of_mem rfl

theorem dropThreadAddms_keepsMem (s : State) (p : PartId) (c : CoreId) (tid : Nat) : Keeps s (dropThreadAddms s p c tid) := by
  unfold dropThreadAddms
  dsimp only
  split
  · exact (State.modCoreW_keepsMem ..).trans (State.push_keepsMem ..)
  · exact State.modCoreW_keepsMem ..

theorem leaveBars_keepsMem (s : State) (p : PartId) (tid : Nat) : Keeps s (leaveBars s p tid) := .of_mem rfl

theorem killHeld_keepsMem (s : State) (r : TRef) (t : Thread) : Keeps s (killHeld s r t) := by
  unfold killHeld
  dsimp only
  refine .trans ?_ (((((((((((((feForget_keepsMem ..).trans (leaveResv_keepsMem ..)).trans (leaveBars_keepsMem ..)).trans
    (endStreams_keepsMem ..)).trans (State.modCoreW_keepsMem ..)).trans (dropThreadAddms_keepsMem ..)).trans
    (modTagged_keepsMem ..)).trans (serverReply_keepsMem ..)).trans (State.with_events_timers_keepsMem ..)).trans
    (State.setSlot_keepsMem ..)).trans (State.after_keepsMem ..)).trans (recordEnded_keepsMem ..)).trans (releaseDset_keepsMem ..))
  split
  · exact .refl
  · exact logMark_keepsMem ..

theorem killThread_keepsMem (s : State) (r : TRef) : Keeps s (killThread s r) := by
  unfold killThread
  split
  · exact killHeld_keepsMem ..
  · exact killHeld_keepsMem ..
  · exact .refl

theorem killLanding_keepsMem (s : State) (p : PartId) (c : CoreId) (sel : Thread → Bool) : Keeps s (killLanding s p c sel) := by
  unfold killLanding
  dsimp only
  refine (State.modCoreW_keepsMem ..).trans (Keeps.foldl (fun u e => ?_) _)
  refine .trans ?_ (((recordEnded_keepsMem ..).trans (freedTid_keepsMem ..)).trans (releaseDset_keepsMem ..))
  split
  · exact .refl
  · exact logMark_keepsMem ..

theorem killWhere_keepsMem (s : State) (p : PartId) (sel : Thread → Bool) : Keeps s (killWhere s p sel) := by
  unfold killWhere
  dsimp only
  exact (Keeps.foldl (fun u e => killLanding_keepsMem ..) _).trans (Keeps.foldl (fun u e => killThread_keepsMem ..) _)

theorem execScrubComplete_keepsMem (r : TRef) (s : State) : Keeps s (outState s (execScrubComplete r s)) := by
  unfold execScrubComplete
  split
  · exact (freedTid_keepsMem ..).trans (freeSlot_keepsMem ..)
  · exact .refl

theorem messageLands_keepsMem (s : State) (p : PartId) (c : CoreId) (m : ActiveMsg) : Keeps s (messageLands s p c m) := .of_mem rfl

theorem refuseActive_keepsMem (s : State) (m : ActiveMsg) : Keeps s (refuseActive s m) := by
  unfold refuseActive
  split
  · exact sendDelivery_keepsMem ..
  · exact .refl

theorem execActiveMessageArrival_keepsMem (p : PartId) (c : CoreId) (m : ActiveMsg) (s : State) :
    Keeps s (outState s (execActiveMessageArrival p c m s)) := by
  unfold execActiveMessageArrival
  split
  · split
    · exact State.holdBack_keepsMem ..
    · exact messageLands_keepsMem ..
  · split
    · exact refuseActive_keepsMem ..
    · split
      · exact .refl
      · split
        · exact holdInput_keepsMem ..
        · split
          · exact State.holdBack_keepsMem ..
          · split
            · exact holdInput_keepsMem ..
            · rename_i h5
              exact ((takeInput_keepsMem ..).some h5).trans (messageLands_keepsMem ..)

theorem execServerRunStart_keepsMem (p : PartId) (c : CoreId) (s : State) : Keeps s (outState s (execServerRunStart p c s)) := by
  unfold execServerRunStart
  dsimp only
  split
  · split
    · exact .refl
    · refine .trans ?_ (((State.modCoreW_keepsMem ..).trans (allocTid_keepsMem ..)).trans (placeThread_keepsMem ..))
      split
      · exact askUpdate_keepsMem ..
      · exact .refl
  · exact .refl

theorem execMigration_keepsMem (r : TRef) (s : State) : Keeps s (outState s (execMigration r s)) := by
  unfold execMigration
  dsimp only
  split
  · exact .refl
  · split
    · exact .refl
    · split
      · exact State.setThread_keepsMem ..
      · split
        · exact State.after_keepsMem ..
        · split
          · exact State.setThread_keepsMem ..
          · split
            · exact State.setThread_keepsMem ..
            · exact ((((State.setSlot_keepsMem ..).trans (State.count_keepsMem ..)).trans (State.traceRec_keepsMem ..)).trans
                (freeSlot_keepsMem ..)).trans (State.after_keepsMem ..)

theorem execMigrationArrival_keepsMem (r : TRef) (s : State) : Keeps s (outState s (execMigrationArrival r s)) := by
  unfold execMigrationArrival
  split
  · split
    · exact State.holdBack_keepsMem ..
    · exact (placeThread_keepsMem ..).trans (State.traceRec_keepsMem ..)
  · exact .refl

/-! ## Machine/ThreadWords -/

theorem fenced_keepsMem {s : State} {r : TRef} {t : Thread} {sc : Scope} {go : Unit → Res} (h : ∀ x, Keeps s (go x).state) :
    Keeps s (fenced s r t sc go).state := by
  unfold fenced
  split
  · exact h ()
  · exact .refl

theorem spawnAt_keepsMem (s : State) (r : TRef) (t : Thread) (c : CoreId) (x : Word) : Keeps s (spawnAt s r t c x).2 := by
  unfold spawnAt
  dsimp only
  split
  · exact (allocTid_keepsMem ..).trans (placeThread_keepsMem ..)
  · exact (allocTid_keepsMem ..).trans (State.modCoreW_keepsMem ..)

theorem execSpawn_keepsMem (d : Reg) (a : Src) (b : Src) (s : State) : Keeps s (outState s (execSpawn d a b s)) := by
  unfold execSpawn
  dsimp only
  refine runWord_keepsMem (fun _ _ _ => ?_)
  split
  · exact .refl
  · split
    · exact .refl
    · refine fenced_keepsMem (fun _ => ?_)
      split
      · exact .refl
      · exact spawnAt_keepsMem ..

theorem retire_keepsMem (s : State) (r : TRef) (t : Thread) : Keeps s (retire s r t) := by
  unfold retire
  dsimp only
  exact ((((((((leaveResv_keepsMem ..).trans (endStreams_keepsMem ..)).trans (exitTags_keepsMem ..)).trans
    (State.modCoreW_keepsMem ..)).trans (serverReply_keepsMem ..)).trans (freedTid_keepsMem ..)).trans (leaveSlot_keepsMem ..)).trans
    (recordEnded_keepsMem ..)).trans (releaseDset_keepsMem ..)

theorem execExit_keepsMem (s : State) : Keeps s (outState s (execExit s)) := by
  unfold execExit
  dsimp only
  refine runWord_keepsMem (fun _ _ _ => ?_)
  split
  · exact .refl
  · refine atCommit_keepsMem (fun _ => ?_)
    split
    · rename_i h3
      exact (passPoint_keepsMem ..).error h3
    · rename_i h3
      exact (((passPoint_keepsMem ..).ok h3).trans (logItems_keepsMem ..)).trans (retire_keepsMem ..)

theorem rxWrite_keepsMem (s : State) (p : PartId) (c : CoreId) (m : SendMsg) : Keeps s (rxWrite s p c m) := by
  unfold rxWrite
  dsimp only
  exact ((putBytes_keepsMem ..).trans (State.modCoreW_keepsMem ..)).trans (replyThread_keepsMem ..)

theorem sendLands_keepsMem (s : State) (p : PartId) (c : CoreId) (m : SendMsg) (again : Instr) : Keeps s (sendLands s p c m again) := by
  unfold sendLands
  dsimp only
  split
  · exact State.holdBack_keepsMem ..
  · split
    · exact rxWrite_keepsMem ..
    · split
      · exact State.modCoreW_keepsMem ..
      · exact State.after_keepsMem ..

theorem execSendArrival_keepsMem (p : PartId) (c : CoreId) (m : SendMsg) (s : State) :
    Keeps s (outState s (execSendArrival p c m s)) := by
  unfold execSendArrival
  exact sendLands_keepsMem ..

theorem execSendRetry_keepsMem (p : PartId) (c : CoreId) (m : SendMsg) (s : State) : Keeps s (outState s (execSendRetry p c m s)) := by
  unfold execSendRetry
  exact sendLands_keepsMem ..

theorem drainRing_keepsMem (p : PartId) (c : CoreId) (l : List SendMsg) (s : State) : Keeps s (drainRing p c l s) := by
  induction l generalizing s with
  | nil => exact .refl
  | cons m l ih =>
    rw [drainRing]
    exact .ite .refl (((State.modCoreW_keepsMem ..).trans (rxWrite_keepsMem ..)).trans (ih _))

theorem execRingBufferDrain_keepsMem (p : PartId) (c : CoreId) (s : State) : Keeps s (outState s (execRingBufferDrain p c s)) := by
  unfold execRingBufferDrain
  exact drainRing_keepsMem ..

theorem awaitParty_keepsMem (log : List LogItem) (addr : Word) (s : State) : Keeps s (awaitParty log addr s).state := .of_mem rfl

theorem execSend_keepsMem (a : Src) (b : Src) (s : State) : Keeps s (outState s (execSend a b s)) := by
  unfold execSend
  refine runWord_keepsMem (fun _ _ _ => ?_)
  split
  · exact .refl
  · exact (State.push_keepsMem ..).trans (awaitParty_keepsMem ..)

theorem execRecv_keepsMem (d : Reg) (s : State) : Keeps s (outState s (execRecv d s)) := by
  unfold execRecv
  dsimp only
  refine runWord_keepsMem (fun _ _ _ => ?_)
  split
  all_goals
    split
    · exact .refl
    · split
      · exact .refl
      · split
        · exact State.modCoreW_keepsMem ..
        · exact (State.modCoreW_keepsMem ..).trans (State.push_keepsMem ..)

theorem remoteRun_keepsMem (r : TRef) (t : Thread) (x : Word) (y : Word) (reply : Option Reg) (c : Commit) (s : State) :
    Keeps s (remoteRun r t x y reply c s).state := by
  unfold remoteRun
  dsimp only
  split
  · exact .refl
  · split
    · exact .refl
    · split
      · exact .refl
      · exact .refl
      · split
        · exact .refl
        · refine fenced_keepsMem (fun _ => ?_)
          split
          · refine atCommit_keepsMem (fun _ => ?_)
            split
            · exact .refl
            · split
              · exact (State.push_keepsMem ..).trans (State.modThread_keepsMem ..)
              · exact State.push_keepsMem ..
          · split
            · exact .refl
            · split
              · exact (State.push_keepsMem ..).trans (State.modThread_keepsMem ..)
              · exact State.push_keepsMem ..
      · refine fenced_keepsMem (fun _ => ?_)
        split
        · refine atCommit_keepsMem (fun _ => ?_)
          split
          · rename_i h6
            exact (passPoint_keepsMem ..).error h6
          · rename_i h6
            split
            · split
              · exact (passPoint_keepsMem ..).ok h6
              · split
                · exact (((passPoint_keepsMem ..).ok h6).trans (State.push_keepsMem ..)).trans (State.modThread_keepsMem ..)
                · exact ((passPoint_keepsMem ..).ok h6).trans (State.push_keepsMem ..)
            · split
              · split
                · exact (((passPoint_keepsMem ..).ok h6).trans (State.with_portOut_keepsMem ..)).trans (State.modThread_keepsMem ..)
                · exact ((passPoint_keepsMem ..).ok h6).trans (State.with_portOut_keepsMem ..)
              · split
                · exact (((passPoint_keepsMem ..).ok h6).trans (refuseActive_keepsMem ..)).trans (State.modThread_keepsMem ..)
                · exact ((passPoint_keepsMem ..).ok h6).trans (refuseActive_keepsMem ..)
        · split
          · rename_i h5
            exact (passPoint_keepsMem ..).error h5
          · rename_i h5
            split
            · split
              · exact (passPoint_keepsMem ..).ok h5
              · split
                · exact (((passPoint_keepsMem ..).ok h5).trans (State.push_keepsMem ..)).trans (State.modThread_keepsMem ..)
                · exact ((passPoint_keepsMem ..).ok h5).trans (State.push_keepsMem ..)
            · split
              · split
                · exact (((passPoint_keepsMem ..).ok h5).trans (State.with_portOut_keepsMem ..)).trans (State.modThread_keepsMem ..)
                · exact ((passPoint_keepsMem ..).ok h5).trans (State.with_portOut_keepsMem ..)
              · split
                · exact (((passPoint_keepsMem ..).ok h5).trans (refuseActive_keepsMem ..)).trans (State.modThread_keepsMem ..)
                · exact ((passPoint_keepsMem ..).ok h5).trans (refuseActive_keepsMem ..)

theorem execAmsg_keepsMem (a : Src) (b : Src) (s : State) : Keeps s (outState s (execAmsg a b s)) := by
  unfold execAmsg
  dsimp only
  exact runWord_keepsMem (fun x0 x1 x2 => remoteRun_keepsMem ..)

theorem execDlg_keepsMem (d : Reg) (a : Src) (b : Src) (s : State) : Keeps s (outState s (execDlg d a b s)) := by
  unfold execDlg
  dsimp only
  exact runWord_keepsMem (fun x0 x1 x2 => remoteRun_keepsMem ..)

theorem execMigr_keepsMem (a : Src) (s : State) : Keeps s (outState s (execMigr a s)) := by
  unfold execMigr
  dsimp only
  refine runWord_keepsMem (fun _ _ _ => ?_)
  split
  · exact .refl
  · refine fenced_keepsMem (fun _ => ?_)
    split
    · exact .refl
    · exact State.modThread_keepsMem ..

theorem execBar_keepsMem (sc : Scope) (a : Src) (s : State) : Keeps s (outState s (execBar sc a s)) := by
  unfold execBar
  dsimp only
  refine runWord_keepsMem (fun _ _ _ => ?_)
  split
  · rename_i h1
    exact (checkAccess_keepsMem ..).error h1
  · rename_i h1
    refine ((checkAccess_keepsMem ..).ok h1).trans (fenced_keepsMem (fun _ => ?_))
    split
    · rename_i h3
      exact (homePlace_keepsMem ..).error h3
    · rename_i h3
      split
      · exact (homePlace_keepsMem ..).ok h3
      · split
        · exact (((((homePlace_keepsMem ..).ok h3).trans (putBytes_keepsMem ..)).trans (clearStamp_keepsMem ..)).trans
            (State.modPart_keepsMem ..)).trans (Keeps.foldl (fun u e => replyThread_keepsMem ..) _)
        · exact ((((((homePlace_keepsMem ..).ok h3).trans (putBytes_keepsMem ..)).trans (clearStamp_keepsMem ..)).trans
            (State.modPart_keepsMem ..)).trans (State.modThread_keepsMem ..)).trans (awaitParty_keepsMem ..)

theorem resvAccess_keepsMem (s : State) (r : TRef) (t : Thread) (ea : Word) :
    Keeps s (checkState (fun x => x.2) (resvAccess s r t ea)) := by
  unfold resvAccess
  split
  · rename_i h0
    exact (checkAccess_keepsMem ..).error h0
  · rename_i h0
    exact (checkAccess_keepsMem ..).ok h0
  · rename_i h0
    exact (checkAccess_keepsMem ..).ok h0
  · rename_i h0
    exact (checkAccess_keepsMem ..).ok h0

theorem execLrw_keepsMem (d : Reg) (a : Src) (s : State) : Keeps s (outState s (execLrw d a s)) := by
  unfold execLrw
  dsimp only
  refine runWord_keepsMem (fun _ _ _ => ?_)
  split
  · rename_i h1
    exact (resvAccess_keepsMem ..).error h1
  · rename_i h1
    split
    · exact (resvAccess_keepsMem ..).ok h1
    · split
      · rename_i h3
        exact ((resvAccess_keepsMem ..).ok h1).trans ((homePlace_keepsMem ..).error h3)
      · rename_i h3
        split
        · exact ((((resvAccess_keepsMem ..).ok h1).trans ((homePlace_keepsMem ..).ok h3)).trans (State.modThread_keepsMem ..)).trans
            (State.modPart_keepsMem ..)
        · split
          all_goals
            exact ((((resvAccess_keepsMem ..).ok h1).trans ((homePlace_keepsMem ..).ok h3)).trans (State.modThread_keepsMem ..)).trans
              (State.modPart_keepsMem ..)

theorem execSch_keepsMem (a : Src) (b : Src) (s : State) : Keeps s (outState s (execSch a b s)) := by
  unfold execSch
  dsimp only
  refine runWord_keepsMem (fun _ _ _ => ?_)
  split
  · rename_i h1
    exact (resvAccess_keepsMem ..).error h1
  · rename_i h1
    split
    · exact (resvAccess_keepsMem ..).ok h1
    · refine ((resvAccess_keepsMem ..).ok h1).trans (fenced_keepsMem (fun _ => ?_))
      split
      · rename_i h4
        exact (homePlace_keepsMem ..).error h4
      · rename_i h4
        exact (((((homePlace_keepsMem ..).ok h4).trans (putBytes_keepsMem ..)).trans (clearStamp_keepsMem ..)).trans
          (State.modThread_keepsMem ..)).trans (releaseResv_keepsMem ..)

theorem execRls_keepsMem (a : Src) (s : State) : Keeps s (outState s (execRls a s)) := by
  unfold execRls
  dsimp only
  refine runWord_keepsMem (fun _ _ _ => ?_)
  split
  · rename_i h1
    exact (resvAccess_keepsMem ..).error h1
  · rename_i h1
    split
    · exact (resvAccess_keepsMem ..).ok h1
    · exact ((resvAccess_keepsMem ..).ok h1).trans (fenced_keepsMem (fun x0 => ((State.countHome_keepsMem ..).trans
        (State.modThread_keepsMem ..)).trans (releaseResv_keepsMem ..)))

theorem amoAt_keepsMem (s : State) (key : Nat) (op : AmoOp) (sz : AmoSize) (v : Word) (c : Word) : Keeps s (amoAt s key op sz v c).2 := by
  unfold amoAt
  dsimp only
  exact (State.writeMem_keepsMem ..).trans (windowWritten_keepsMem ..)

theorem execAmo_keepsMem (op : AmoOp) (sz : AmoSize) (d : Reg) (a : Src) (b : Src) (s : State) :
    Keeps s (outState s (execAmo op sz d a b s)) := by
  unfold execAmo
  dsimp only
  refine runWord_keepsMem (fun _ _ _ => ?_)
  split
  · rename_i h1
    exact (checkAccess_keepsMem ..).error h1
  · rename_i h1
    refine ((checkAccess_keepsMem ..).ok h1).trans (fenced_keepsMem (fun _ => ?_))
    split
    · split
      · rename_i h4
        exact (passPoint_keepsMem ..).error h4
      · rename_i h4
        exact ((passPoint_keepsMem ..).ok h4).trans (remoteRead_keepsMem ..)
    · split
      · rename_i h4
        exact (homePlace_keepsMem ..).error h4
      · rename_i h4
        split
        · exact ((((homePlace_keepsMem ..).ok h4).trans (amoAt_keepsMem ..)).trans (clearStamp_keepsMem ..)).trans
            (State.modThread_keepsMem ..)
        · exact (((homePlace_keepsMem ..).ok h4).trans (amoAt_keepsMem ..)).trans (clearStamp_keepsMem ..)
        · exact (((homePlace_keepsMem ..).ok h4).trans (amoAt_keepsMem ..)).trans (clearStamp_keepsMem ..)
    · split
      · rename_i h4
        exact (homePlace_keepsMem ..).error h4
      · rename_i h4
        split
        · exact ((((homePlace_keepsMem ..).ok h4).trans (amoAt_keepsMem ..)).trans (clearStamp_keepsMem ..)).trans
            (State.modThread_keepsMem ..)
        · exact (((homePlace_keepsMem ..).ok h4).trans (amoAt_keepsMem ..)).trans (clearStamp_keepsMem ..)
        · exact (((homePlace_keepsMem ..).ok h4).trans (amoAt_keepsMem ..)).trans (clearStamp_keepsMem ..)

theorem stampLine_keepsMem (s : State) (r : TRef) (line : Nat) (dom : Nat) :
    Keeps s (optState s (fun u => u) (stampLine s r line dom)) := by
  unfold stampLine
  split
  · exact .refl
  · split
    · rename_i h1
      exact (homeLookup_keepsMem ..).cast (congrArg Fill.state h1)
    · rename_i h1
      exact (homeLookup_keepsMem ..).cast (congrArg Fill.state h1)
    · rename_i h1
      exact (homeLookup_keepsMem ..).cast (congrArg Fill.state h1)
    · exact .refl

theorem execRed_keepsMem (op : AmoOp) (sz : AmoSize) (a : Src) (b : Src) (s : State) : Keeps s (outState s (execRed op sz a b s)) := by
  unfold execRed
  dsimp only
  refine runWord_keepsMem (fun _ _ _ => ?_)
  split
  · exact .refl
  · split
    · rename_i h2
      exact (checkAccess_keepsMem ..).error h2
    · rename_i h2
      exact ((checkAccess_keepsMem ..).ok h2).trans (remoteWrite_keepsMem ..)
    · rename_i h2
      split
      · rename_i h3
        exact ((checkAccess_keepsMem ..).ok h2).trans ((windowRead_keepsMem ..).error h3)
      · rename_i h3
        exact (((checkAccess_keepsMem ..).ok h2).trans ((windowRead_keepsMem ..).ok h3)).trans (amoAt_keepsMem ..)
    · rename_i h2
      split
      · exact (checkAccess_keepsMem ..).ok h2
      · split
        · rename_i h4
          exact ((checkAccess_keepsMem ..).ok h2).trans ((holdWrite_keepsMem ..).error h4)
        · rename_i h4
          split
          · exact ((checkAccess_keepsMem ..).ok h2).trans ((holdWrite_keepsMem ..).ok h4)
          · rename_i h5
            exact (((((((checkAccess_keepsMem ..).ok h2).trans ((holdWrite_keepsMem ..).ok h4)).trans
              ((stampLine_keepsMem ..).some h5)).trans (State.countHome_keepsMem ..)).trans (State.modCoreW_keepsMem ..)).trans
              (State.push_keepsMem ..)).trans (clearStamp_keepsMem ..)

theorem takeRed_keepsMem (s : State) (p : PartId) (c : CoreId) : Keeps s (takeRed s p c) := by
  unfold takeRed
  split
  · exact (State.modCoreW_keepsMem ..).trans (State.modCoreW_keepsMem ..)
  · exact .refl

theorem performUpdate_keepsMem (s : State) (p : PartId) (c : CoreId) (sl : SlotId) (q : RedReq) : Keeps s (performUpdate s p c sl q) := by
  unfold performUpdate
  dsimp only
  split
  · exact ((((allocTid_keepsMem ..).trans (freedTid_keepsMem ..)).trans (State.sramAt_keepsMem ..)).trans (readHome_keepsMem ..)).trans
      (postRecord_keepsMem ..)
  · exact (((((((allocTid_keepsMem ..).trans (freedTid_keepsMem ..)).trans (State.sramAt_keepsMem ..)).trans (readHome_keepsMem ..)).trans
      (State.revokeAll_keepsMem ..)).trans (State.invalidateAll_keepsMem ..)).trans (State.dirtySlice_keepsMem ..)).trans
      (amoAt_keepsMem ..)

theorem runUpdate_ind {P : State → Prop} (s : State) (p : PartId) (c : CoreId) (h0 : P s)
    (h1 : ∀ (q : RedReq) (w : PageWriter) u, heldPage s p q.key w = some u → P u)
    (h2 : ∀ (q : RedReq) (w : PageWriter) f sl, P (performUpdate ((heldPassed s p q.key w).modCoreW p c f) p c sl q))
    (h3 : ∀ (q : RedReq) (w : PageWriter) f sl, P (askUpdate (performUpdate ((heldPassed s p q.key w).modCoreW p c f) p c sl q) p c)) :
    P (runUpdate s p c) := by
  obtain ⟨F, hF⟩ : ∃ F, F = heldPage := ⟨_, rfl⟩
  rw [← hF] at h1
  rw [runUpdate]
  simp only [← hF]
  split
  · split
    · rename_i h
      exact h1 _ _ _ h
    · split
      · exact h2 ..
      · exact h3 ..
  · exact h0

theorem runUpdate_keepsMem (s : State) (p : PartId) (c : CoreId) : Keeps s (runUpdate s p c) :=
  runUpdate_ind (P := Keeps s) s p c .refl (fun _ _ _ h => (heldPage_keepsMem ..).some h)
    (fun _ _ _ _ => ((heldPassed_keepsMem ..).trans (State.modCoreW_keepsMem ..)).trans (performUpdate_keepsMem ..))
    (fun _ _ _ _ => (((heldPassed_keepsMem ..).trans (State.modCoreW_keepsMem ..)).trans (performUpdate_keepsMem ..)).trans
      (askUpdate_keepsMem ..))

theorem execRemoteUpdate_keepsMem (p : PartId) (c : CoreId) (s : State) : Keeps s (outState s (execRemoteUpdate p c s)) := by
  unfold execRemoteUpdate
  refine .trans ?_ (runUpdate_keepsMem ..)
  split
  · exact .refl
  · split
    · exact State.holdBack_keepsMem ..
    · exact takeRed_keepsMem ..

end Sys2Proof.Machine
end

section
/-! SUPPORT. The memory's form through the words on memory and lines, and through remote requests: one lemma per function. -/
namespace Sys2Proof.Machine

/-! ## Machine/MemWords -/

theorem execFence_keepsMem (sc : Scope) (s : State) : Keeps s (outState s (execFence sc s)) := by
  unfold execFence
  exact runWord_keepsMem (fun x0 x1 x2 => fenced_keepsMem (fun x0 => .refl))

theorem execPour_keepsMem (sc : Scope) (s : State) : Keeps s (outState s (execPour sc s)) := by
  unfold execPour
  dsimp only
  refine runWord_keepsMem (fun _ _ _ => ?_)
  split
  · split
    all_goals exact .refl
  · split
    · exact .refl
    · split
      all_goals exact pourCore_keepsMem ..

theorem execFbar_keepsMem (s : State) : Keeps s (outState s (execFbar s)) := by
  unfold execFbar
  exact runWord_keepsMem (fun x0 x1 x2 => State.modThread_keepsMem ..)

theorem lineRight_keepsMem (s : State) (r : TRef) (t : Thread) (x : Word) : Keeps s (checkState (fun x => x.2) (lineRight s r t x)) := by
  unfold lineRight
  split
  · rename_i h0
    exact (plbLookup_keepsMem ..).error h0
  · rename_i h0
    split
    all_goals
      exact (plbLookup_keepsMem ..).ok h0

theorem lineSpecial_keepsMem (x : Word) (s : State) : Keeps s (optState s Res.state (lineSpecial x s)) := by
  unfold lineSpecial
  split
  · exact .refl
  · split
    · exact .refl
    · split
      all_goals exact .refl

theorem writeBackLine_keepsMem (s : State) (r : TRef) (line : Nat) : Keeps s (writeBackLine s r line).state := by
  unfold writeBackLine
  dsimp only
  split
  · split
    · exact .refl
    · exact pourHolder_keepsMem ..
  · split
    · split
      · exact .refl
      · exact (State.writeBack_keepsMem ..).trans (State.modL1_keepsMem ..)
    · exact .refl

theorem execCwb_keepsMem (a : Src) (s : State) : Keeps s (outState s (execCwb a s)) := by
  unfold execCwb
  dsimp only
  refine runWord_keepsMem (fun _ _ _ => ?_)
  split
  · split
    all_goals exact .refl
  · split
    · rename_i h2
      exact (lineSpecial_keepsMem ..).some h2
    · split
      · rename_i h3
        exact (lineRight_keepsMem ..).error h3
      · rename_i h3
        split
        · exact (lineRight_keepsMem ..).ok h3
        · exact ((lineRight_keepsMem ..).ok h3).trans (writeBackLine_keepsMem ..)

theorem execCinv_keepsMem (a : Src) (s : State) : Keeps s (outState s (execCinv a s)) := by
  unfold execCinv
  dsimp only
  refine runWord_keepsMem (fun _ _ _ => ?_)
  split
  · rename_i h1
    exact (lineSpecial_keepsMem ..).some h1
  · split
    · rename_i h2
      exact (lineRight_keepsMem ..).error h2
    · rename_i h2
      split
      · exact (lineRight_keepsMem ..).ok h2
      · split
        · exact ((lineRight_keepsMem ..).ok h2).trans (evictHolder_keepsMem ..)
        · exact ((lineRight_keepsMem ..).ok h2).trans (State.loseCopy_keepsMem ..)

theorem execIinv_keepsMem (a : Src) (s : State) : Keeps s (outState s (execIinv a s)) := by
  unfold execIinv
  dsimp only
  refine runWord_keepsMem (fun _ _ _ => ?_)
  split
  · rename_i h1
    exact (lineSpecial_keepsMem ..).some h1
  · split
    · rename_i h2
      exact (lineRight_keepsMem ..).error h2
    · rename_i h2
      split
      · exact (lineRight_keepsMem ..).ok h2
      · exact ((lineRight_keepsMem ..).ok h2).trans (Keeps.foldl (fun u e => State.modCoreC_keepsMem ..) _)

theorem prefetchLine_keepsMem (n : Nat) (s : State) (r : TRef) (t : Thread) (x : Word) : Keeps s (prefetchLine n s r t x) := by
  induction n generalizing s with
  | zero => exact .refl
  | succ k ih =>
    rw [prefetchLine]
    dsimp only
    split
    · exact .refl
    · rename_i h
      refine ((plbLookup_keepsMem ..).ok h).trans (.ite .refl (.ite .refl ?_))
      split
      · rename_i miss u h1
        have hu : Keeps _ u := (l1Mismatch_keepsMem ..).trans ((homeLookup_keepsMem ..).cast (congrArg Fill.state h1))
        have hr : Keeps u (if miss = true then u else homeRead u r.part (lineOf x) 3 t.corr) := .ite .refl (homeRead_keepsMem ..)
        split
        · exact ((hu.trans hr).trans (State.modCoreC_keepsMem ..)).trans (.ite .refl (opGetS_keepsMem ..))
        · exact (hu.trans hr).trans (State.modCoreC_keepsMem ..)
      · rename_i h1
        exact (((l1Mismatch_keepsMem ..).trans ((homeLookup_keepsMem ..).cast (congrArg Fill.state h1))).trans
          (plbDrop_keepsMem ..)).trans (ih _)
      · rename_i h1
        exact ((l1Mismatch_keepsMem ..).trans ((homeLookup_keepsMem ..).cast (congrArg Fill.state h1))).trans (listWalk_keepsMem ..)
      · rename_i h1
        exact (l1Mismatch_keepsMem ..).trans ((homeLookup_keepsMem ..).cast (congrArg Fill.state h1))

theorem prefetch_keepsMem (s : State) (r : TRef) (t : Thread) (x : Word) : Keeps s (prefetch s r t x) := by
  unfold prefetch
  split
  · exact .refl
  · exact prefetchLine_keepsMem ..

theorem execPref_keepsMem (a : Src) (s : State) : Keeps s (outState s (execPref a s)) := by
  unfold execPref
  refine runWord_keepsMem (fun _ _ _ => ?_)
  split
  · exact .refl
  · exact prefetch_keepsMem ..

theorem dropPage_keepsMem (s : State) (p : PartId) (x : Word) : Keeps s (dropPage s p x) := by
  unfold dropPage
  dsimp only
  refine ((Keeps.foldl (fun u e => State.modCoreC_keepsMem ..) _).trans (State.modPart_keepsMem ..)).trans (Keeps.foldl (fun u e => ?_) _)
  split
  · exact sliceEvict_keepsMem ..
  · exact (State.revokeAll_keepsMem ..).trans (State.invalidateAll_keepsMem ..)

theorem execPlbi_keepsMem (a : Src) (s : State) : Keeps s (outState s (execPlbi a s)) := by
  unfold execPlbi
  dsimp only
  refine runWord_keepsMem (fun _ _ _ => ?_)
  split
  · exact .refl
  · split
    · exact .refl
    · split
      · exact .refl
      · split
        all_goals exact dropPage_keepsMem ..

theorem steepAccess_keepsMem (s : State) (r : TRef) (t : Thread) (need : BitVec 4) (x : Word) :
    Keeps s (checkState (fun x => x.2) (steepAccess s r t need x)) := by
  unfold steepAccess
  split
  · exact .refl
  · split
    · exact .refl
    · split
      · rename_i h2
        exact (plbLookup_keepsMem ..).error h2
      · rename_i h2
        split
        · exact (plbLookup_keepsMem ..).ok h2
        · split
          · exact (plbLookup_keepsMem ..).ok h2
          · split
            all_goals
              exact (plbLookup_keepsMem ..).ok h2

theorem execAddm_keepsMem (a : Src) (b : Src) (s : State) : Keeps s (outState s (execAddm a b s)) := by
  unfold execAddm
  dsimp only
  refine runWord_keepsMem (fun _ _ _ => ?_)
  split
  · exact .refl
  · split
    · rename_i h2
      exact (steepAccess_keepsMem ..).error h2
    · rename_i h2
      split
      · exact (steepAccess_keepsMem ..).ok h2
      · split
        · rename_i h4
          exact ((steepAccess_keepsMem ..).ok h2).trans ((holdWrite_keepsMem ..).error h4)
        · rename_i h4
          split
          · exact ((steepAccess_keepsMem ..).ok h2).trans ((holdWrite_keepsMem ..).ok h4)
          · split
            · exact ((steepAccess_keepsMem ..).ok h2).trans ((holdWrite_keepsMem ..).ok h4)
            · rename_i h6
              exact ((((((steepAccess_keepsMem ..).ok h2).trans ((holdWrite_keepsMem ..).ok h4)).trans
                ((stampLine_keepsMem ..).some h6)).trans (State.modCoreW_keepsMem ..)).trans (State.push_keepsMem ..)).trans
                (clearStamp_keepsMem ..)

theorem boundedLoad_keepsMem (d : Reg) (x : Word) (tol : BitVec 32) (r : TRef) (t : Thread) (s : State) :
    Keeps s (boundedLoad d x tol r t s).state := by
  unfold boundedLoad
  dsimp only
  split
  · rename_i h0
    exact (steepAccess_keepsMem ..).error h0
  · rename_i h0
    split
    · exact (steepAccess_keepsMem ..).ok h0
    · split
      · rename_i h2
        exact ((steepAccess_keepsMem ..).ok h0).trans ((reachHome_keepsMem ..).error h2)
      · rename_i h2
        split
        · split
          · exact ((steepAccess_keepsMem ..).ok h0).trans ((reachHome_keepsMem ..).ok h2)
          · exact (((steepAccess_keepsMem ..).ok h0).trans ((reachHome_keepsMem ..).ok h2)).trans (homeRead_keepsMem ..)
        · split
          · rename_i h4
            refine .trans ?_ ((poisonStop_keepsMem ..).error h4)
            split
            · exact ((steepAccess_keepsMem ..).ok h0).trans ((reachHome_keepsMem ..).ok h2)
            · exact (((steepAccess_keepsMem ..).ok h0).trans ((reachHome_keepsMem ..).ok h2)).trans (homeRead_keepsMem ..)
          · refine .trans ?_ (State.push_keepsMem ..)
            split
            · exact ((steepAccess_keepsMem ..).ok h0).trans ((reachHome_keepsMem ..).ok h2)
            · exact (((steepAccess_keepsMem ..).ok h0).trans ((reachHome_keepsMem ..).ok h2)).trans (homeRead_keepsMem ..)

theorem execLdb_keepsMem (d : Reg) (a : Src) (b : Src) (s : State) : Keeps s (outState s (execLdb d a b s)) := by
  unfold execLdb
  exact runWord_keepsMem (fun x0 x1 x2 => boundedLoad_keepsMem ..)

theorem execLdbImm_keepsMem (d : Reg) (a : Src) (k : BitVec 8) (s : State) : Keeps s (outState s (execLdbImm d a k s)) := by
  unfold execLdbImm
  exact runWord_keepsMem (fun x0 x1 x2 => boundedLoad_keepsMem ..)

theorem modHead_keepsMem (s : State) (p : PartId) (c : CoreId) (f : AddmReq → AddmReq) : Keeps s (modHead s p c f) := .of_mem rfl

theorem nextAddm_keepsMem (s : State) (p : PartId) (c : CoreId) : Keeps s (nextAddm s p c) := by
  unfold nextAddm
  dsimp only
  split
  · exact State.modCoreW_keepsMem ..
  · exact (State.modCoreW_keepsMem ..).trans (State.push_keepsMem ..)

theorem resumeHead_keepsMem (s : State) (p : PartId) (c : CoreId) (line : Nat) (phase : Nat) : Keeps s (resumeHead s p c line phase) := by
  unfold resumeHead
  split
  · split
    · exact (modHead_keepsMem ..).trans (State.push_keepsMem ..)
    · exact .refl
  · exact .refl

theorem countAddm_keepsMem (s : State) (p : PartId) (c : CoreId) (q : AddmReq) : Keeps s (countAddm s p c q) := by
  unfold countAddm
  dsimp only
  split
  · exact .refl
  · split
    · split
      · exact ((modHead_keepsMem ..).trans (State.countHome_keepsMem ..)).trans (State.push_keepsMem ..)
      · exact (modHead_keepsMem ..).trans (State.countHome_keepsMem ..)
    · exact modHead_keepsMem ..

theorem addmInA_keepsMem (s : State) (p : PartId) (c : CoreId) (q : AddmReq) (h : Holder) : Keeps s (addmInA s p c q h) := by
  unfold addmInA
  dsimp only
  split
  · refine .trans ?_ (nextAddm_keepsMem ..)
    split
    · exact (State.modHolder_keepsMem ..).trans (pourHolder_keepsMem ..)
    · exact State.modHolder_keepsMem ..
  · split
    · exact modHead_keepsMem ..
    · split
      · exact (pourHolder_keepsMem ..).trans (modHead_keepsMem ..)
      · exact ((countAddm_keepsMem ..).trans (modHead_keepsMem ..)).trans (State.push_keepsMem ..)

theorem execAddmPerform_keepsMem (p : PartId) (c : CoreId) (s : State) : Keeps s (outState s (execAddmPerform p c s)) := by
  unfold execAddmPerform
  dsimp only
  split
  · split
    · exact .refl
    · split
      · exact (((State.loseCopy_keepsMem ..).trans (countAddm_keepsMem ..)).trans (modHead_keepsMem ..)).trans (State.push_keepsMem ..)
      · split
        · exact (pourHolder_keepsMem ..).trans (modHead_keepsMem ..)
        · exact (State.modHolder_keepsMem ..).trans (addmInA_keepsMem ..)
  · exact .refl

theorem execColourPour_keepsMem (p : PartId) (h : CoreId) (line : Nat) (s : State) :
    Keeps s (outState s (execColourPour p h line s)) := by
  unfold execColourPour
  dsimp only
  split
  · split
    · refine .trans ?_ (State.modHolder_keepsMem ..)
      split
      · exact .refl
      · exact pourHolder_keepsMem ..
    · exact .refl
  · exact .refl

theorem steepReady_keepsMem (s : State) (p : PartId) (h : CoreId) (line : Nat) (dom : Nat) :
    Keeps s (optState s (fun u => u) (steepReady s p h line dom)) := by
  unfold steepReady
  dsimp only
  split
  · rename_i h0
    split
    · exact ((homeLookup_keepsMem ..).cast (congrArg Fill.state h0)).trans (State.ensureHome_keepsMem ..)
    · exact (homeLookup_keepsMem ..).cast (congrArg Fill.state h0)
  · rename_i h0
    split
    · exact ((homeLookup_keepsMem ..).cast (congrArg Fill.state h0)).trans (State.ensureHome_keepsMem ..)
    · exact (homeLookup_keepsMem ..).cast (congrArg Fill.state h0)
  · rename_i h0
    split
    · exact (((homeLookup_keepsMem ..).cast (congrArg Fill.state h0)).trans (listWalk_keepsMem ..)).trans (State.ensureHome_keepsMem ..)
    · exact ((homeLookup_keepsMem ..).cast (congrArg Fill.state h0)).trans (listWalk_keepsMem ..)
  · exact .refl

theorem deferHome_keepsMem (s : State) (p : PartId) (line : Nat) (i : Instr) : Keeps s (deferHome s p line i) := .of_mem rfl

theorem execSreq_keepsMem (p : PartId) (h : CoreId) (line : Nat) (dom : Nat) (s : State) :
    Keeps s (outState s (execSreq p h line dom s)) := by
  unfold execSreq
  dsimp only
  split
  · exact State.holdBack_keepsMem ..
  · rename_i h0
    split
    · exact (steepReady_keepsMem ..).some h0
    · split
      · exact ((steepReady_keepsMem ..).some h0).trans (deferHome_keepsMem ..)
      · split
        · exact (((steepReady_keepsMem ..).some h0).trans (State.modHome_keepsMem ..)).trans (State.push_keepsMem ..)
        · exact ((((steepReady_keepsMem ..).some h0).trans (State.invalidateAll_keepsMem ..)).trans (State.modHome_keepsMem ..)).trans
            (State.push_keepsMem ..)

theorem execSgnt_keepsMem (p : PartId) (h : CoreId) (line : Nat) (_dom : Nat) (share : BitVec 32) (s : State) :
    Keeps s (outState s (execSgnt p h line _dom share s)) := by
  unfold execSgnt
  dsimp only
  split
  · exact .refl
  · exact (((State.loseCopy_keepsMem ..).trans (l1Room_keepsMem ..)).trans (State.modCoreC_keepsMem ..)).trans (resumeHead_keepsMem ..)

theorem execPourMessage_keepsMem (p : PartId) (h : CoreId) (line : Nat) (dom : Nat) (data : BitVec 1024) (_g : BitVec 32) (colour : Bool)
    (more : Bool) (s : State) : Keeps s (outState s (execPourMessage p h line dom data _g colour more s)) := by
  unfold execPourMessage
  exact (Keeps.getD (steepReady_keepsMem ..)).trans (takePour_keepsMem ..)

theorem execPack_keepsMem (p : PartId) (h : CoreId) (line : Nat) (_dom : Nat) (added : BitVec 32) (s : State) :
    Keeps s (outState s (execPack p h line _dom added s)) := by
  unfold execPack
  dsimp only
  exact (State.modHolder_keepsMem ..).trans (resumeHead_keepsMem ..)

theorem execFpr_keepsMem (p : PartId) (h : CoreId) (line : Nat) (dom : Nat) (s : State) :
    Keeps s (outState s (execFpr p h line dom s)) := by
  unfold execFpr
  split
  · exact (State.modHolder_keepsMem ..).trans (State.push_keepsMem ..)
  · exact State.push_keepsMem ..

theorem execFpd_keepsMem (p : PartId) (h : CoreId) (line : Nat) (dom : Nat) (data : BitVec 1024) (_g : BitVec 32) (colour : Bool)
    (s : State) : Keeps s (outState s (execFpd p h line dom data _g colour s)) := by
  unfold execFpd
  exact (Keeps.getD (steepReady_keepsMem ..)).trans (takeFpd_keepsMem ..)

theorem execSrev_keepsMem (p : PartId) (h : CoreId) (line : Nat) (dom : Nat) (s : State) :
    Keeps s (outState s (execSrev p h line dom s)) := by
  unfold execSrev
  split
  · exact (State.dropHolder_keepsMem ..).trans (State.push_keepsMem ..)
  · split
    · exact .refl
    · exact (State.surrender_keepsMem ..).trans (answered_keepsMem ..)

theorem execSret_keepsMem (p : PartId) (h : CoreId) (line : Nat) (dom : Nat) (data : BitVec 1024) (_g : BitVec 32) (colour : Bool)
    (share : BitVec 32) (s : State) : Keeps s (outState s (execSret p h line dom data _g colour share s)) := by
  unfold execSret
  exact (Keeps.getD (steepReady_keepsMem ..)).trans (takeSret_keepsMem ..)

theorem execTadd_keepsMem (p : PartId) (h : CoreId) (line : Nat) (dom : Nat) (off : Nat) (a : Word) (s : State) :
    Keeps s (outState s (execTadd p h line dom off a s)) := by
  unfold execTadd
  dsimp only
  split
  · exact State.holdBack_keepsMem ..
  · rename_i h0
    refine .trans ?_ (answerHolder_keepsMem ..)
    split
    · exact ((steepReady_keepsMem ..).some h0).trans (State.homeAdd_keepsMem ..)
    · exact (steepReady_keepsMem ..).some h0

theorem execTack_keepsMem (p : PartId) (h : CoreId) (line : Nat) (_dom : Nat) (s : State) :
    Keeps s (outState s (execTack p h line _dom s)) := by
  unfold execTack
  split
  · split
    · exact nextAddm_keepsMem ..
    · exact .refl
  · exact .refl

theorem execBoundedLoad_keepsMem (p : PartId) (q : BoundedReq) (s : State) : Keeps s (outState s (execBoundedLoad p q s)) := by
  unfold execBoundedLoad
  dsimp only
  split
  · exact replyThread_keepsMem ..
  · split
    · exact deferHome_keepsMem ..
    · split
      · exact ((State.modHome_keepsMem ..).trans (State.answerLoad_keepsMem ..)).trans (State.releaseHome_keepsMem ..)
      · exact (State.modHome_keepsMem ..).trans (State.pushAll_keepsMem ..)

theorem execSteepDisable_keepsMem (p : PartId) (s : State) : Keeps s (outState s (execSteepDisable p s)) := by
  unfold execSteepDisable
  exact (State.modRegs_keepsMem ..).trans (State.revokeEvery_keepsMem ..)

theorem execForwardedRead_keepsMem (p : PartId) (c : CoreId) (line : Nat) (s : State) :
    Keeps s (outState s (execForwardedRead p c line s)) := by
  unfold execForwardedRead
  exact (State.forwardRead_keepsMem ..).trans (homeRead_keepsMem ..)

theorem execInvalidation_keepsMem (p : PartId) (c : CoreId) (line : Nat) (s : State) :
    Keeps s (outState s (execInvalidation p c line s)) := by
  unfold execInvalidation
  exact State.loseCopy_keepsMem ..

theorem execL1Eviction_keepsMem (p : PartId) (c : CoreId) (line : Nat) (s : State) :
    Keeps s (outState s (execL1Eviction p c line s)) := by
  unfold execL1Eviction
  split
  · exact evictHolder_keepsMem ..
  · exact State.loseCopy_keepsMem ..

theorem execSliceEviction_keepsMem (p : PartId) (line : Nat) (s : State) : Keeps s (outState s (execSliceEviction p line s)) := by
  unfold execSliceEviction
  split
  · split
    · exact sliceEvict_keepsMem ..
    · exact .refl
  · exact .refl

theorem execGetS_keepsMem (p : PartId) (c : CoreId) (line : Nat) (dom : Nat) (s : State) :
    Keeps s (outState s (execGetS p c line dom s)) := by
  unfold execGetS
  split
  · rename_i h0
    refine .trans ?_ (opGetS_keepsMem ..)
    split
    · exact (homeLookup_keepsMem ..).cast (congrArg Fill.state h0)
    · exact ((homeLookup_keepsMem ..).cast (congrArg Fill.state h0)).trans (homeRead_keepsMem ..)
  · rename_i h0
    exact ((homeLookup_keepsMem ..).cast (congrArg Fill.state h0)).trans (listWalk_keepsMem ..)
  · rename_i h0
    exact (homeLookup_keepsMem ..).cast (congrArg Fill.state h0)
  · rename_i h0
    exact (homeLookup_keepsMem ..).cast (congrArg Fill.state h0)

theorem execGetM_keepsMem (p : PartId) (c : CoreId) (line : Nat) (dom : Nat) (sector : Fin 2) (s : State) :
    Keeps s (outState s (execGetM p c line dom sector s)) := by
  unfold execGetM
  dsimp only
  split
  · rename_i h0
    refine .trans ?_ (opGetM_keepsMem ..)
    split
    · exact ((homeLookup_keepsMem ..).cast (congrArg Fill.state h0)).trans (State.revokeAll_keepsMem ..)
    · exact (((homeLookup_keepsMem ..).cast (congrArg Fill.state h0)).trans (State.revokeAll_keepsMem ..)).trans (homeRead_keepsMem ..)
  · rename_i h0
    exact ((homeLookup_keepsMem ..).cast (congrArg Fill.state h0)).trans (listWalk_keepsMem ..)
  · rename_i h0
    exact (homeLookup_keepsMem ..).cast (congrArg Fill.state h0)
  · rename_i h0
    exact (homeLookup_keepsMem ..).cast (congrArg Fill.state h0)

theorem execWalk_keepsMem (p : PartId) (va : Word) (s : State) : Keeps s (outState s (execWalk p va s)) := by
  unfold execWalk
  dsimp only
  exact (sliceWalk_keepsMem ..).trans (listWalk_keepsMem ..)

theorem ptclr_keepsMem (s : State) (p : PartId) (frame : Nat) : Keeps s (ptclr s p frame) := .of_mem rfl

theorem execPtclrWrite_keepsMem (p : PartId) (frame : BitVec 32) (s : State) :
    Keeps s (outState s (execPtclrWrite p frame s)) := .of_mem rfl

theorem execL2Uncorrectable_keepsMem (p : PartId) (line : Nat) (corr : BitVec 32) (s : State) :
    Keeps s (outState s (execL2Uncorrectable p line corr s)) := by
  unfold execL2Uncorrectable
  exact l2Error_keepsMem ..

theorem execSectorPin_keepsMem (p : PartId) (line : Nat) (readable : Bool) (s : State) :
    Keeps s (outState s (execSectorPin p line readable s)) := by
  unfold execSectorPin
  split
  · exact .refl
  · split
    · exact repairSector_keepsMem ..
    · exact moduleError_keepsMem ..

/-! ## Machine/Remote -/

theorem remoteWalked_keepsMem (s : State) (p : PartId) (off : Nat) : Keeps s (remoteWalked s p off) := by
  unfold remoteWalked
  exact listTable_keepsMem ..

theorem remoteLine_keepsMem (s : State) (p : PartId) (off : Nat) (n : Nat) (corr : BitVec 32) :
    Keeps s (remoteLine s p off n corr).state := by
  unfold remoteLine
  dsimp only
  split
  · exact remoteWalked_keepsMem ..
  · split
    all_goals
      rename_i h1
      exact (reachRead_keepsMem ..).cast (congrArg Reach.state h1)

theorem remoteBytes_keepsMem (s : State) (p : PartId) (off n : Nat) (corr : BitVec 32) : Keeps s (remoteBytes s p off n corr).state := by
  unfold remoteBytes
  dsimp only
  split
  · rename_i u h
    have hu : Keeps s u := (remoteLine_keepsMem ..).cast (congrArg Served.state h)
    split
    · exact hu
    · split
      · rename_i v k
        have hv : Keeps u v := (remoteLine_keepsMem ..).cast (congrArg Served.state k)
        exact hu.trans hv
      · exact hu.trans (remoteLine_keepsMem ..)
  · exact remoteLine_keepsMem ..

theorem fillWord_keepsMem (s : State) (p : PartId) (key : Nat) : Keeps s (fillWord s p key) := by
  unfold fillWord
  exact (State.setFullBit_keepsMem ..).trans (feServeSoon_keepsMem ..)

theorem remoteReach_keepsMem (s : State) (p : PartId) (off : Nat) (need : BitVec 4) (w : PageWriter) {go : Bool → Nat → State → Served}
    (h : ∀ b k u, Keeps u (go b k u).state) : Keeps s (remoteReach s p off need w go).state := by
  unfold remoteReach
  split
  · exact remoteWalked_keepsMem ..
  · dsimp only
    split
    · rename_i h1
      exact (reachWrite_keepsMem ..).cast (congrArg Reach.state h1)
    · rename_i h1
      exact (reachWrite_keepsMem ..).cast (congrArg Reach.state h1)
    · rename_i h1
      exact ((reachWrite_keepsMem ..).cast (congrArg Reach.state h1)).trans (h ..)

theorem remotePut_keepsMem (s : State) (p : PartId) (off : Nat) (bytes : List Byte) (fills : List Nat) (w : PageWriter) :
    Keeps s (remotePut s p off bytes fills w).state := by
  unfold remotePut
  dsimp only
  refine remoteReach_keepsMem _ _ _ _ _ fun _ key u => ?_
  have hp (key' : Nat) (v : State) (k : State → Nat → Nat) : Keeps v (fills.foldl (fun s o => fillWord s p (k s o))
      ((v.writeMemBytes key (bytes.take (Nat.min bytes.length (128 - off % 128)))).writeMemBytes key'
        (bytes.drop (Nat.min bytes.length (128 - off % 128))))) :=
    ((State.writeMemBytes_keepsMem ..).trans (State.writeMemBytes_keepsMem ..)).trans (.foldl (fun _ _ => fillWord_keepsMem ..) _)
  split
  · exact hp _ _ (fun _ _ => _)
  · exact remoteReach_keepsMem _ _ _ _ _ fun _ key' v => hp key' v (fun _ _ => _)

/-- A word read at its home before its operation, which a poisoned line prevents. -/
theorem Served.read_keepsMem {u v : State} {c : Prop} [Decidable c] {x : Served} (h : Keeps u v) (k : Keeps v x.state) :
    Keeps u (if c then Served.error v else x).state := by
  split
  · exact h
  · exact h.trans k

theorem remotePerform_keepsMem (s : State) (q : RemoteReq) : Keeps s (remotePerform s q).state := by
  have hr (b : Bool) (k : Nat) (u : State) : Keeps u (if b then readHome u q.dst k q.corr else u) := .ite (readHome_keepsMem ..) .refl
  have ha (op : FeOp) (v : Word) (k : Nat) (u : State) : Keeps u (feServeSoon
      (feArrive u q.dst { op := op, key := k, val := v, who := .remote q.srcMod q.src q.srcTid, corr := q.corr }).2 q.dst k) :=
    (feArrive_keepsMem ..).trans (feServeSoon_keepsMem ..)
  unfold remotePerform
  dsimp only
  split
  · split
    · rename_i u h
      have hu : Keeps s u := (remoteLine_keepsMem ..).cast (congrArg Served.state h)
      split
      all_goals exact hu
    · exact remoteLine_keepsMem ..
  · exact remoteReach_keepsMem _ _ _ _ _ fun _ _ _ => putBytes_keepsMem ..
  · exact remoteReach_keepsMem _ _ _ _ _ fun b k u => Served.read_keepsMem (hr b k u) (amoAt_keepsMem ..)
  · exact remoteReach_keepsMem _ _ _ _ _ fun b k u => Served.read_keepsMem (hr b k u) (amoAt_keepsMem ..)
  · split
    · split
      · rename_i u h
        have hu : Keeps s u := (remoteLine_keepsMem ..).cast (congrArg Served.state h)
        split
        · split
          all_goals exact hu.trans (ha ..)
        · exact hu
      · exact remoteLine_keepsMem ..
    · refine remoteReach_keepsMem _ _ _ _ _ ?_
      split
      · intro b k u
        dsimp only
        have hu := hr b k u
        generalize (if b then readHome u q.dst k q.corr else u) = v at hu ⊢
        refine Served.read_keepsMem hu ?_
        split
        all_goals exact ha _ _ k _
      · intro _ _ _
        dsimp only
        split
        all_goals exact ha ..
  · exact remoteBytes_keepsMem ..
  · exact remotePut_keepsMem ..

theorem blkCounted_keepsMem (s : State) (q : RemoteReq) : Keeps s (blkCounted s q) := by
  unfold blkCounted
  split
  · exact blkArrives_keepsMem ..
  · exact .refl

theorem answerRemote_keepsMem (q : RemoteReq) (x : Served) : Keeps x.state (answerRemote q x) := by
  cases x with
  | reply v s => exact replyRemote_keepsMem ..
  | data bytes s => exact State.with_portOut_keepsMem ..
  | error s => exact replyError_keepsMem ..
  | later s => exact State.holdBack_keepsMem ..
  | listed s => exact .refl

theorem remoteTaken_keepsMem {s v taken : State} (h : Keeps s v) (k : Keeps s taken) (q : RemoteReq) :
    Keeps s (remoteTaken v taken q) := by
  have hq : Keeps s (remotePerform (blkCounted taken q) q).state := (k.trans (blkCounted_keepsMem ..)).trans (remotePerform_keepsMem ..)
  unfold remoteTaken
  split
  · rename_i u hu
    have hl : Keeps s u := h.trans ((remotePerform_keepsMem ..).cast (congrArg Served.state hu))
    split
    · split
      · rename_i w hw
        exact (hq.cast (congrArg Served.state hw)).trans (State.holdBack_keepsMem ..)
      · exact hq.trans (answerRemote_keepsMem ..)
    · exact hl.trans (State.holdBack_keepsMem ..)
  all_goals exact hq.trans (answerRemote_keepsMem ..)

theorem execRemoteRequest_keepsMem (q : RemoteReq) (s : State) : Keeps s (outState s (execRemoteRequest q s)) := by
  refine .generic fun P hP => ?_
  unfold execRemoteRequest
  split
  · exact hP _ .refl
  · split
    · exact hP _ (replyError_keepsMem ..)
    · split
      · exact hP _ (remoteTaken_keepsMem .refl .refl q)
      · split
        · exact hP _ (remoteTaken_keepsMem .refl .refl q)
        · split
          · exact hP _ (State.holdBack_keepsMem ..)
          · split
            · exact hP _ (holdInput_keepsMem ..)
            · rename_i h
              exact hP _ (remoteTaken_keepsMem .refl ((takeInput_keepsMem ..).some h) q)

end Sys2Proof.Machine
end

section
/-! SUPPORT. The memory's form through the copy unit and the matrix engine: one lemma per function. -/
namespace Sys2Proof.Machine

/-! ## Machine/Copies -/

theorem waitJob_keepsMem (kind : Bool) (a : Src) (s : State) : Keeps s (outState s (waitJob kind a s)) := by
  unfold waitJob
  dsimp only
  refine runWord_keepsMem (fun _ _ _ => ?_)
  split
  · exact .refl
  · split
    · exact .refl
    · split
      · exact .refl
      · exact State.modThread_keepsMem ..

theorem queryJob_keepsMem (kind : Bool) (d : Reg) (a : Src) (s : State) : Keeps s (outState s (queryJob kind d a s)) := by
  unfold queryJob
  dsimp only
  refine runWord_keepsMem (fun _ _ _ => ?_)
  split
  · exact .refl
  · split
    · exact .refl
    · split
      · exact .refl
      · exact State.modThread_keepsMem ..

theorem execCpyw_keepsMem (a : Src) (s : State) : Keeps s (outState s (execCpyw a s)) := by
  unfold execCpyw
  exact waitJob_keepsMem ..

theorem execCpyq_keepsMem (d : Reg) (a : Src) (s : State) : Keeps s (outState s (execCpyq d a s)) := by
  unfold execCpyq
  exact queryJob_keepsMem ..

theorem execMxw_keepsMem (a : Src) (s : State) : Keeps s (outState s (execMxw a s)) := by
  unfold execMxw
  exact waitJob_keepsMem ..

theorem execMxp_keepsMem (d : Reg) (a : Src) (s : State) : Keeps s (outState s (execMxp d a s)) := by
  unfold execMxp
  exact queryJob_keepsMem ..

theorem checkPages_keepsMem (r : TRef) (t : Thread) (need : BitVec 4) (l : List Word) (acc : List Leaf) (s : State) :
    Keeps s (checkState (fun x => x.2) (checkPages r t need l acc s)) := by
  induction l generalizing acc s with
  | nil => exact .refl
  | cons a l ih =>
    rw [checkPages]
    split
    · exact ih ..
    · split
      · rename_i h
        exact (protect_keepsMem ..).error h
      · rename_i h
        exact ((protect_keepsMem ..).ok h).trans (ih ..)

theorem checkRanges_keepsMem (s : State) (r : TRef) (t : Thread) (src : List Range) (dst : List Range) (base : Word) (align : Nat)
    (remote : Bool) : Keeps s (checkState (fun x => x.2.2) (checkRanges s r t src dst base align remote)) := by
  unfold checkRanges
  split
  · exact .refl
  · split
    · exact .refl
    · split
      · exact .refl
      · split
        · exact .refl
        · split
          · rename_i h4
            exact (checkPages_keepsMem ..).error h4
          · rename_i h4
            split
            · rename_i h5
              exact ((checkPages_keepsMem ..).ok h4).trans ((checkPages_keepsMem ..).error h5)
            · rename_i h5
              exact ((checkPages_keepsMem ..).ok h4).trans ((checkPages_keepsMem ..).ok h5)

theorem streamTake_keepsMem (s : State) (p : PartId) (c : CoreId) (j : CopyJob) (bytes : List Byte) (last : Bool) :
    Keeps s (streamTake s p c j bytes last) := by
  unfold streamTake
  split
  · exact State.modThread_keepsMem ..
  · exact .refl

theorem bindStream_keepsMem (s : State) (r : TRef) (t : Thread) (i : SReg) (empty : Bool) : Keeps s (bindStream s r t i empty) := by
  unfold bindStream
  exact (State.modCoreW_keepsMem ..).trans (State.modThread_keepsMem ..)

theorem enqueueCopy_keepsMem (bind : Option SReg) (d : Reg) (remote : Bool) (lat : Nat) (j : CopyJob) (r : TRef) (t : Thread)
    (s : State) :
    Keeps s (enqueueCopy bind d remote lat j r t s).state := by
  unfold enqueueCopy
  refine (State.modThread_keepsMem ..).trans (fenced_keepsMem fun _ => ?_)
  generalize s.modThread r (fun t => { t with prepared := some (.copy j) }) = kept
  have hpass : Keeps kept (checkState (fun u => u) (if remote = true then passPoint kept r t 3 else .ok kept)) := by
    split
    · exact passPoint_keepsMem ..
    · exact .refl
  split
  · rename_i h
    exact hpass.error h
  · rename_i h
    have hu := hpass.ok h
    dsimp only
    split
    · exact hu
    · refine .trans ?_ ((State.modCoreW_keepsMem ..).trans (State.modThread_keepsMem ..))
      split
      · exact hu.trans (bindStream_keepsMem ..)
      · exact hu

theorem checkCopy_keepsMem (s : State) (r : TRef) (t : Thread) (bind : Option SReg) (x : Word) (y : Word) (f : CopyForm) (align : Nat) :
    Keeps s (checkState (fun x => x.2) (checkCopy s r t bind x y f align)) := by
  unfold checkCopy
  dsimp only
  split
  · exact .refl
  · split
    · rename_i h1
      exact (checkRanges_keepsMem ..).error h1
    · rename_i h1
      exact (checkRanges_keepsMem ..).ok h1

theorem copyWord_keepsMem (bind : Option SReg) (d : Reg) (a : Src) (b : Src) (shape : Word → Option CopyForm) (align : Nat) (s : State) :
    Keeps s (outState s (copyWord bind d a b shape align s)) := by
  unfold copyWord
  dsimp only
  refine runWord_keepsMem (fun _ _ _ => ?_)
  split
  · exact enqueueCopy_keepsMem ..
  · split
    · exact .refl
    · split
      · exact .refl
      · split
        · exact .refl
        · split
          · split
            · rename_i h6
              exact (checkCopy_keepsMem ..).error h6
            · rename_i h6
              exact ((checkCopy_keepsMem ..).ok h6).trans (enqueueCopy_keepsMem ..)
          · exact .refl

theorem execCpy_keepsMem (bind : Option SReg) (d : Reg) (a : Src) (b : Src) (s : State) :
    Keeps s (outState s (execCpy bind d a b s)) := by
  unfold execCpy
  exact copyWord_keepsMem ..

theorem execCpy2_keepsMem (bind : Option SReg) (d : Reg) (a : Src) (b : Src) (s : State) :
    Keeps s (outState s (execCpy2 bind d a b s)) := by
  unfold execCpy2
  exact copyWord_keepsMem ..

theorem execCpyg_keepsMem (bind : Option SReg) (d : Reg) (a : Src) (b : Src) (s : State) :
    Keeps s (outState s (execCpyg bind d a b s)) := by
  unfold execCpyg
  exact copyWord_keepsMem ..

theorem streamNext_keepsMem {i : SReg} {n : Nat} {r : TRef} {t : Thread} {s : State} {go : Nat → State → Res}
    (h : ∀ v u, Keeps u (go v u).state) : Keeps s (streamNext i n r t s go).state := by
  unfold streamNext
  dsimp only
  split
  · exact .refl
  · split
    · exact .refl
    · split
      · exact .refl
      · exact (State.modThread_keepsMem ..).trans (h ..)

theorem execSrd_keepsMem (ty : LdType) (d : Reg) (a : SReg) (s : State) : Keeps s (outState s (execSrd ty d a s)) := by
  unfold execSrd
  dsimp only
  exact runWord_keepsMem (fun x0 x1 x2 => streamNext_keepsMem (fun x0 x1 => .refl))

theorem execVsrd_keepsMem (_ty : VType) (d : VReg) (a : SReg) (s : State) : Keeps s (outState s (execVsrd _ty d a s)) := by
  unfold execVsrd
  exact runWord_keepsMem (fun x0 x1 x2 => streamNext_keepsMem (fun x0 x1 => .refl))

theorem blkSends_keepsMem (s : State) (p : PartId) (q : RemoteReq) : Keeps s (blkSends s p q) := .of_mem rfl

theorem remoteBeat_keepsMem (s : State) (p : PartId) (q : RemoteReq) (bad : Nat) : Keeps s (remoteBeat s p q bad).state := by
  have ht (c : Prop) [Decidable c] (u : State) (h : (if c then takeInput s q.dst (peerKey s.modid p) .blk (reqColour q) (.remoteRequest q)
      else some s) = some u) : Keeps s u := by
    split at h
    · exact (takeInput_keepsMem ..).some h
    · cases h
      exact .refl
  have hs : Keeps s { blkSends s p q with free := s.free + 1, portOut := s.portOut ++ [.request q] } :=
    (blkSends_keepsMem s p q).trans (.of_mem rfl)
  refine .generic fun P hP => ?_
  unfold remoteBeat
  split
  · split
    · exact hP _ .refl
    · rename_i u h
      have hq : Keeps s (remotePerform (blkCounted (blkSends u p q) q) q).state :=
        (((ht _ u h).trans (blkSends_keepsMem ..)).trans (blkCounted_keepsMem ..)).trans (remotePerform_keepsMem ..)
      split
      · rename_i k
        exact hP _ ((remotePerform_keepsMem ..).cast (congrArg Served.state k))
      all_goals
        split
        all_goals
          rename_i k
          exact hP _ (hq.cast (congrArg Served.state k))
  · split
    · exact hP _ .refl
    · dsimp only
      split
      · exact hP _ hs
      · split
        · exact hP _ (hs.trans (.of_mem rfl))
        · exact hP _ hs

theorem readChunk_keepsMem (s : State) (p : PartId) (c : CoreId) (j : CopyJob) (leaf : Option Leaf) (x : Word) (n : Nat) :
    Keeps s (readChunk s p c j leaf x n).state := by
  unfold readChunk
  dsimp only
  split
  · split
    · split
      · exact .refl
      · exact State.sramAt_keepsMem ..
    · exact .refl
  · split
    · exact .refl
    · split
      all_goals
        rename_i h2
        exact (reachRead_keepsMem ..).cast (congrArg Reach.state h2)

theorem readPiece_keepsMem (s : State) (p : PartId) (c : CoreId) (j : CopyJob) (leaf : Option Leaf) (x : Word) (n : Nat) :
    Keeps s (readPiece s p c j leaf x n).state := by
  unfold readPiece
  split
  · exact remoteBeat_keepsMem ..
  · exact readChunk_keepsMem ..

theorem readSource_keepsMem (s : State) (p : PartId) (c : CoreId) (j : CopyJob) (leaf : Word → Option Leaf) (x : Word) (n : Nat) :
    Keeps s (readSource s p c j leaf x n).state := by
  unfold readSource
  dsimp only
  split
  · rename_i u h
    have hu : Keeps s u := (readPiece_keepsMem ..).cast (congrArg Beat.state h)
    split
    · exact hu
    · split
      · rename_i v k
        have hv : Keeps u v := (readPiece_keepsMem ..).cast (congrArg Beat.state k)
        exact hu.trans hv
      · exact .refl
      · exact hu.trans (readPiece_keepsMem ..)
  · exact readPiece_keepsMem ..

theorem readBeat_keepsMem (s : State) (p : PartId) (c : CoreId) (j : CopyJob) : Keeps s (readBeat s p c j).state := by
  unfold readBeat
  dsimp only
  split
  · exact readSource_keepsMem ..
  · exact readSource_keepsMem ..
  · split
    · rename_i u h
      have hu : Keeps s u := (readSource_keepsMem ..).cast (congrArg Beat.state h)
      split
      · exact hu
      · split
        · exact hu.trans (readSource_keepsMem ..)
        · split
          · exact hu.trans (listTable_keepsMem ..)
          · exact hu.trans (readSource_keepsMem ..)
    · exact readSource_keepsMem ..

theorem writeChunk_keepsMem (s : State) (p : PartId) (c : CoreId) (j : CopyJob) (x : Word) (bytes : List Byte) :
    Keeps s (writeChunk s p c j x bytes).state := by
  unfold writeChunk
  split
  · split
    · refine ((State.sramAt_keepsMem ..).trans (State.writeMemBytes_keepsMem ..)).trans (Keeps.foldl (fun u e => ?_) _)
      split
      · exact State.unpoisonWord_keepsMem ..
      · exact .refl
    · exact .refl
  · split
    · exact .refl
    · split
      · rename_i h2
        exact (reachWrite_keepsMem ..).cast (congrArg Reach.state h2)
      · rename_i h2
        exact (reachWrite_keepsMem ..).cast (congrArg Reach.state h2)
      · rename_i h2
        exact ((reachWrite_keepsMem ..).cast (congrArg Reach.state h2)).trans (State.writeMemBytes_keepsMem ..)

theorem modJob_keepsMem (s : State) (p : PartId) (c : CoreId) (seq : Nat) (f : CopyJob → CopyJob) :
    Keeps s (modJob s p c seq f) := .of_mem rfl

theorem closeWords_keepsMem (s : State) (p : PartId) (c : CoreId) (j : CopyJob) (i : Nat) : Keeps s (closeWords s p c j i) := by
  unfold closeWords
  dsimp only
  refine (Keeps.foldl (fun u e => ?_) _).trans (modJob_keepsMem ..)
  split
  · exact fillWord_keepsMem ..
  · exact .refl

theorem leaveBytes_keepsMem (s : State) (p : PartId) (c : CoreId) (j : CopyJob) (o : Nat) (n : Nat) :
    Keeps s (leaveBytes s p c j o n) := .of_mem rfl

theorem failBeat_keepsMem (s : State) (p : PartId) (c : CoreId) (j : CopyJob) (cause : Nat) : Keeps s (failBeat s p c j cause) := by
  unfold failBeat
  dsimp only
  exact ((((State.modCoreW_keepsMem ..).trans (State.hwSet_keepsMem ..)).trans (postRecord_keepsMem ..)).trans
    (streamTake_keepsMem ..)).trans (modJob_keepsMem ..)

theorem skipBeat_keepsMem (s : State) (p : PartId) (c : CoreId) (j : CopyJob) : Keeps s (skipBeat s p c j) := by
  unfold skipBeat
  dsimp only
  exact ((postRecord_keepsMem ..).trans (streamTake_keepsMem ..)).trans (modJob_keepsMem ..)

theorem passBeat_keepsMem (s : State) (p : PartId) (c : CoreId) (j : CopyJob) (n : Nat) : Keeps s (passBeat s p c j n) := by
  unfold passBeat
  dsimp only
  split
  · exact .refl
  · refine .trans ?_ (modJob_keepsMem ..)
    split
    · exact (closeWords_keepsMem ..).trans (streamTake_keepsMem ..)
    · exact closeWords_keepsMem ..

theorem writePiece_keepsMem (s : State) (p : PartId) (c : CoreId) (j : CopyJob) (x : Word) (bytes : List Byte) (i : Nat) :
    Keeps s (writePiece s p c j x bytes i).state := by
  unfold writePiece
  split
  · exact remoteBeat_keepsMem ..
  · exact writeChunk_keepsMem ..

theorem placePiece_keepsMem (s : State) (p : PartId) (c : CoreId) (j : CopyJob) (o : Nat) (bytes : List Byte) (i : Nat) :
    Keeps s (optState s (fun x => x.2) (placePiece s p c j o bytes i)) := by
  unfold placePiece
  dsimp only
  split
  · exact .refl
  · rename_i h0
    exact ((writePiece_keepsMem ..).cast (congrArg Beat.state h0)).trans (leaveBytes_keepsMem ..)
  · rename_i h0
    exact ((writePiece_keepsMem ..).cast (congrArg Beat.state h0)).trans (modJob_keepsMem ..)
  · rename_i h0
    exact ((writePiece_keepsMem ..).cast (congrArg Beat.state h0)).trans (modJob_keepsMem ..)

theorem beatOver_keepsMem (s : State) (p : PartId) (c : CoreId) (j : CopyJob) (n : Nat) (written : List Byte) (bad : Option Nat) :
    Keeps s (beatOver s p c j n written bad) := by
  unfold beatOver
  dsimp only
  refine .trans ?_ (passBeat_keepsMem ..)
  split
  · exact (streamTake_keepsMem ..).trans (failBeat_keepsMem ..)
  · exact streamTake_keepsMem ..

theorem writeBeat_keepsMem (s : State) (p : PartId) (c : CoreId) (j : CopyJob) (bytes : List Byte) :
    Keeps s (optState s (fun u => u) (writeBeat s p c j bytes)) := by
  unfold writeBeat
  dsimp only
  split
  · exact .refl
  · rename_i k u h
    have hu : Keeps s u := (placePiece_keepsMem ..).some h
    split
    · exact hu.trans (beatOver_keepsMem ..)
    · rename_i m hm
      cases hb : placePiece u p c j (pieceLen (j.dst + word (j.form.dstOff j.pos)) bytes.length)
        (bytes.drop (pieceLen (j.dst + word (j.form.dstOff j.pos)) bytes.length)) (j.pos + bytes.length) with
      | none => exact .refl
      | some z =>
        have hz : Keeps u z.2 := (placePiece_keepsMem ..).some hb
        exact (hu.trans hz).trans (beatOver_keepsMem ..)

theorem beatHeld_keepsMem (s : State) (p : PartId) (c : CoreId) (j : CopyJob) : Keeps s (beatHeld s p c j) := by
  unfold beatHeld
  refine .foldl (fun u a => ?_) _
  split
  · exact .refl
  · split
    · exact .getD (pageWait_keepsMem ..)
    · exact .refl

theorem moveBeat_keepsMem (s : State) (p : PartId) (c : CoreId) (j : CopyJob) : Keeps s (moveBeat s p c j) := by
  unfold moveBeat
  dsimp only
  split
  · rename_i h0
    exact (readBeat_keepsMem ..).cast (congrArg Beat.state h0)
  · rename_i h0
    exact ((((readBeat_keepsMem ..).cast (congrArg Beat.state h0)).trans (leaveBytes_keepsMem ..)).trans (failBeat_keepsMem ..)).trans
      (passBeat_keepsMem ..)
  · rename_i h0
    exact ((((readBeat_keepsMem ..).cast (congrArg Beat.state h0)).trans (leaveBytes_keepsMem ..)).trans (skipBeat_keepsMem ..)).trans
      (passBeat_keepsMem ..)
  · rename_i h0
    split
    · rename_i h1
      exact (((readBeat_keepsMem ..).cast (congrArg Beat.state h0)).trans ((writeBeat_keepsMem ..).some h1)).trans
        (State.count_keepsMem ..)
    · exact beatHeld_keepsMem ..

theorem coreBeat_keepsMem (s : State) (p : PartId) (c : CoreId) : Keeps s (coreBeat s p c) := by
  unfold coreBeat
  split
  · exact moveBeat_keepsMem ..
  · exact .refl

theorem execCopyBeat_keepsMem (p : PartId) (k : ClusterId) (s : State) : Keeps s (outState s (execCopyBeat p k s)) := by
  unfold execCopyBeat
  dsimp only
  split
  · split
    · exact .refl
    · exact (State.modClusterW_keepsMem ..).trans (coreBeat_keepsMem ..)
  · split
    · exact .refl
    · split
      · exact (State.modClusterW_keepsMem ..).trans (coreBeat_keepsMem ..)
      · exact State.modClusterW_keepsMem ..

theorem execCopyComplete_keepsMem (p : PartId) (c : CoreId) (s : State) : Keeps s (outState s (execCopyComplete p c s)) := by
  unfold execCopyComplete
  split
  · split
    · exact State.modCoreW_keepsMem ..
    · exact .refl
  · exact .refl

/-! ## Machine/Matrix -/

theorem State.setRing_keepsMem (s : State) (p : PartId) (k : ClusterId) (i : RingId) (x : Ring) :
    Keeps s (State.setRing s p k i x) := .of_mem rfl

theorem checkRecord_keepsMem (s : State) (r : TRef) (t : Thread) (x : Word) (l : List Nat) :
    Keeps s (checkState (fun x => x.2) (checkRecord s r t x l)) := by
  induction l with
  | nil => exact .refl
  | cons i l ih =>
    rw [checkRecord]
    split
    · rename_i h
      exact ih.error h
    · rename_i h
      have hx := ih.ok h
      split
      · rename_i h1
        exact hx.trans ((checkAccess_keepsMem ..).error h1)
      · rename_i h1
        exact hx.trans ((checkAccess_keepsMem ..).ok h1)

theorem readRecord_keepsMem (r : TRef) (t : Thread) (l : List (Word × Place)) (s : State) :
    Keeps s (checkState (fun x => x.2.2) (readRecord r t l s)) := by
  induction l generalizing s with
  | nil => exact .refl
  | cons e l ih =>
    rw [readRecord]
    split
    · rename_i h
      exact (readPlace_keepsMem ..).error h
    · rename_i pl u h
      have hu : Keeps s u := (readPlace_keepsMem ..).ok h
      split
      · rename_i h1
        exact hu.trans ((ih _).error h1)
      · rename_i ws lat v h1
        have hv : Keeps u v := (ih _).ok h1
        exact hu.trans hv

theorem bindRing_keepsMem (ring : RingId) (k : ClusterId) (x : Word) (pages : List Leaf) (r : TRef) (t : Thread) (s : State) :
    Keeps s (bindRing ring k x pages r t s).state := by
  unfold bindRing
  dsimp only
  split
  · exact State.modThread_keepsMem ..
  · split
    · rename_i h1
      exact (State.modThread_keepsMem ..).trans ((readRecord_keepsMem ..).error h1)
    · rename_i h1
      split
      · exact (State.modThread_keepsMem ..).trans ((readRecord_keepsMem ..).ok h1)
      · exact ((State.modThread_keepsMem ..).trans ((readRecord_keepsMem ..).ok h1)).trans (State.setRing_keepsMem ..)
    · rename_i h1
      exact (State.modThread_keepsMem ..).trans ((readRecord_keepsMem ..).ok h1)

theorem execRngi_keepsMem (ring : RingId) (a : Src) (s : State) : Keeps s (outState s (execRngi ring a s)) := by
  unfold execRngi
  refine runWord_keepsMem (fun _ _ _ => ?_)
  split
  · exact .refl
  · split
    · exact bindRing_keepsMem ..
    · split
      · rename_i h3
        exact (checkRecord_keepsMem ..).error h3
      · rename_i h3
        exact ((checkRecord_keepsMem ..).ok h3).trans (bindRing_keepsMem ..)

theorem execRnga_keepsMem (ring : RingId) (a : Src) (s : State) : Keeps s (outState s (execRnga ring a s)) := by
  unfold execRnga
  dsimp only
  refine runWord_keepsMem (fun _ _ _ => ?_)
  split
  · exact .refl
  · refine fenced_keepsMem (fun _ => ?_)
    split
    · exact .refl
    · split
      · exact .refl
      · exact State.setRing_keepsMem ..

theorem execRngq_keepsMem (d : Reg) (ring : RingId) (s : State) : Keeps s (outState s (execRngq d ring s)) := by
  unfold execRngq
  refine runWord_keepsMem (fun _ _ _ => ?_)
  split
  all_goals exact .refl

theorem tagSlot_keepsMem (s : State) (p : PartId) (k : ClusterId) (i : Nat) (tid : Nat) : Keeps s (tagSlot s p k i tid) := .of_mem rfl

theorem entryDone_keepsMem (s : State) (p : PartId) (k : ClusterId) (c : CoreId) (i : Nat) : Keeps s (entryDone s p k c i) := .of_mem rfl

theorem enqueueMatrix_keepsMem {e : MxEntry} {i : Nat} {k : ClusterId} {r : TRef} {t : Thread} {s : State} {go : State → Res}
    (h : ∀ u, Keeps u (go u).state) : Keeps s (enqueueMatrix e i k r t s go).state := by
  unfold enqueueMatrix
  refine (State.modThread_keepsMem ..).trans (fenced_keepsMem fun _ => ?_)
  split
  · exact .refl
  · exact ((State.modCoreW_keepsMem ..).trans (tagSlot_keepsMem ..)).trans (h ..)

theorem enqueueJob_keepsMem (j : MxJob) (d : Reg) (k : ClusterId) (r : TRef) (t : Thread) (s : State) :
    Keeps s (enqueueJob j d k r t s).state := by
  unfold enqueueJob
  dsimp only
  exact enqueueMatrix_keepsMem (fun x0 => (State.modCoreW_keepsMem ..).trans (State.modThread_keepsMem ..))

theorem execMxq_keepsMem (slot : Fin 2) (sr : Semiring) (na : Bool) (nb : Bool) (az : Bool) (pop : Pop) (d : Reg) (ra : RingId)
    (rb : RingId) (s : State) : Keeps s (outState s (execMxq slot sr na nb az pop d ra rb s)) := by
  unfold execMxq
  dsimp only
  refine runWord_keepsMem (fun _ _ _ => ?_)
  split
  · exact .refl
  · split
    · exact enqueueJob_keepsMem ..
    · split
      · exact .refl
      · split
        · exact .refl
        · split
          · exact .refl
          · split
            · exact .refl
            · exact enqueueJob_keepsMem ..

theorem execMxz_keepsMem (slot : Fin 2) (s : State) : Keeps s (outState s (execMxz slot s)) := by
  unfold execMxz
  dsimp only
  refine runWord_keepsMem (fun _ _ _ => ?_)
  split
  · exact .refl
  · split
    · exact .refl
    · split
      · exact .refl
      · split
        · exact .refl
        · exact (State.modCoreW_keepsMem ..).trans (tagSlot_keepsMem ..)

theorem execMxst_keepsMem (slot : Fin 2) (a : Src) (s : State) : Keeps s (outState s (execMxst slot a s)) := by
  unfold execMxst
  dsimp only
  refine runWord_keepsMem (fun _ _ _ => ?_)
  split
  · exact .refl
  · split
    · exact enqueueMatrix_keepsMem (fun x0 => .refl)
    · split
      · exact .refl
      · split
        · exact .refl
        · split
          · exact .refl
          · split
            · rename_i h6
              exact (checkRanges_keepsMem ..).error h6
            · rename_i h6
              exact ((checkRanges_keepsMem ..).ok h6).trans (enqueueMatrix_keepsMem (fun x0 => .refl))

theorem execMxr_keepsMem (slot : Fin 2) (s : State) : Keeps s (outState s (execMxr slot s)) := by
  unfold execMxr
  dsimp only
  refine runWord_keepsMem (fun _ _ _ => ?_)
  split
  · exact .refl
  · split
    · exact .refl
    · split
      · exact .refl
      · exact State.modAcc_keepsMem ..

theorem dropEntry_keepsMem (s : State) (p : PartId) (c : CoreId) (e : MxEntry) : Keeps s (dropEntry s p c e) := .of_mem rfl

theorem toDrain_keepsMem (s : State) (p : PartId) (k : ClusterId) (x : MxRun) : Keeps s (toDrain s p k x) := .of_mem rfl

theorem execMatrixJobPick_keepsMem (p : PartId) (k : ClusterId) (s : State) : Keeps s (outState s (execMatrixJobPick p k s)) := by
  unfold execMatrixJobPick
  dsimp only
  split
  · exact .refl
  · split
    · exact .refl
    · split
      · exact .refl
      · split
        · exact (State.modClusterW_keepsMem ..).trans (toDrain_keepsMem ..)
        · exact (State.modClusterW_keepsMem ..).trans (State.modClusterW_keepsMem ..)
      · split
        · exact .refl
        · exact (((State.modClusterW_keepsMem ..).trans (State.modAcc_keepsMem ..)).trans (dropEntry_keepsMem ..)).trans
            (entryDone_keepsMem ..)
      · split
        · exact .refl
        · exact (State.modClusterW_keepsMem ..).trans (State.push_keepsMem ..)

theorem poisonRun_keepsMem (s : State) (p : PartId) (k : ClusterId) (x : MxRun) : Keeps s (poisonRun s p k x) := .of_mem rfl

theorem execMatrixPoison_keepsMem (p : PartId) (k : ClusterId) (s : State) : Keeps s (outState s (execMatrixPoison p k s)) := by
  unfold execMatrixPoison
  split
  · exact poisonRun_keepsMem ..
  · exact .refl

theorem enterGroup_keepsMem (s : State) (p : PartId) (k : ClusterId) (x : MxRun) (as : List (List Elem)) (bs : List (List Elem)) :
    Keeps s (enterGroup s p k x as bs) := by
  unfold enterGroup
  dsimp only
  split
  · exact ((State.modAcc_keepsMem ..).trans (State.count_keepsMem ..)).trans (State.modClusterW_keepsMem ..)
  · exact ((State.modAcc_keepsMem ..).trans (State.count_keepsMem ..)).trans (toDrain_keepsMem ..)

theorem execMatrixGroup_keepsMem (p : PartId) (k : ClusterId) (s : State) : Keeps s (outState s (execMatrixGroup p k s)) := by
  unfold execMatrixGroup
  dsimp only
  split
  · exact .refl
  · split
    · exact .refl
    · split
      · exact (State.modClusterW_keepsMem ..).trans (poisonRun_keepsMem ..)
      · exact (State.modClusterW_keepsMem ..).trans (enterGroup_keepsMem ..)

theorem popRings_keepsMem (s : State) (p : PartId) (k : ClusterId) (x : MxRun) : Keeps s (popRings s p k x) := by
  unfold popRings
  exact Keeps.foldl (fun u e => State.setRing_keepsMem ..) _

theorem execMatrixJobComplete_keepsMem (p : PartId) (k : ClusterId) (s : State) : Keeps s (outState s (execMatrixJobComplete p k s)) := by
  unfold execMatrixJobComplete
  dsimp only
  split
  · exact .refl
  · split
    · exact .refl
    · refine .trans ?_ (((dropEntry_keepsMem ..).trans (State.modCoreW_keepsMem ..)).trans (entryDone_keepsMem ..))
      split
      · exact ((((State.modClusterW_keepsMem ..).trans (popRings_keepsMem ..)).trans (State.modAcc_keepsMem ..)).trans
          (State.hwSet_keepsMem ..)).trans (postRecord_keepsMem ..)
      · split
        · exact (((State.modClusterW_keepsMem ..).trans (popRings_keepsMem ..)).trans (State.modAcc_keepsMem ..)).trans
            (State.hwSet_keepsMem ..)
        · exact ((State.modClusterW_keepsMem ..).trans (popRings_keepsMem ..)).trans (State.modAcc_keepsMem ..)

theorem storeLine32_keepsMem (s : State) (p : PartId) (c : CoreId) (w : PageWriter) (e : Word) (pages : List Leaf)
    (cells : KMap (BitVec 32))
    (corr : BitVec 32) (ctx : BitVec 8) (x : Word) (words : List Nat) : Keeps s (storeLine32 s p c w e pages cells corr ctx x words) := by
  have hp (k : State → Nat → Nat) (v : State → Nat → Word) (u : State) :
      Keeps u (words.foldl (fun s i => fillWord ((s.writeMem (k s i) 8 (v s i)).unpoisonWord (k s i)) p (k s i)) u) :=
    .foldl (fun _ _ => ((State.writeMem_keepsMem ..).trans (State.unpoisonWord_keepsMem ..)).trans (fillWord_keepsMem ..)) _
  refine .generic (g := fun u => u) (x := storeLine32 s p c w e pages cells corr ctx x words) fun P hP => ?_
  obtain ⟨F, hF⟩ : ∃ F, F = storeLine32 := ⟨_, rfl⟩
  rw [← hF]
  delta storeLine32 at hF
  rw [hF]
  beta_reduce
  obtain ⟨W, hW⟩ : ∃ W, W = windowKey := ⟨_, rfl⟩
  rw [← hW]
  obtain ⟨R, hR⟩ : ∃ R, R = reachWrite := ⟨_, rfl⟩
  rw [← hR]
  dsimp only
  split
  · split
    · exact hP _ ((State.sramAt_keepsMem ..).trans (hp (fun _ _ => _) (fun _ _ => _) _))
    · exact hP _ .refl
  · split
    · exact hP _ .refl
    · split
      · rename_i h
        rw [hR] at h
        exact hP _ (((reachWrite_keepsMem ..).cast (congrArg Reach.state h)).trans (hp (fun _ _ => _) (fun _ _ => _) _))
      · rename_i h
        rw [hR] at h
        exact hP _ (((reachWrite_keepsMem ..).cast (congrArg Reach.state h)).trans (hp (fun _ _ => _) (fun _ _ => _) _))
      · rename_i h
        rw [hR] at h
        split
        · exact hP _ ((reachWrite_keepsMem ..).cast (congrArg Reach.state h))
        · exact hP _ (((reachWrite_keepsMem ..).cast (congrArg Reach.state h)).trans (postRecord_keepsMem ..))

theorem storeSlot_keepsMem (s : State) (p : PartId) (c : CoreId) (w : PageWriter) (va : Word) (pages : List Leaf)
    (cells : KMap (BitVec 32)) (corr : BitVec 32) (ctx : BitVec 8) : Keeps s (storeSlot s p c w va pages cells corr ctx) := by
  unfold storeSlot
  dsimp only
  exact ((Keeps.foldl (fun u e => storeLine32_keepsMem ..) _).trans (storeLine32_keepsMem ..)).trans (storeLine32_keepsMem ..)

theorem execMxstExecute_keepsMem (p : PartId) (k : ClusterId) (s : State) : Keeps s (outState s (execMxstExecute p k s)) := by
  have hw (l : List Leaf) (w : PageWriter) (u : State) (h : l.findSome? (fun l => pageWait s p l w) = some u) : Keeps s u :=
    (Keeps.findSome (fun _ => pageWait_keepsMem ..) l).some h
  refine .generic fun P hP => ?_
  unfold execMxstExecute
  split
  · exact hP _ .refl
  · split
    · dsimp only
      split
      · rename_i h
        exact hP _ ((hw _ _ _ h).trans (State.holdBack_keepsMem ..))
      · split
        · exact hP _ ((((State.modAcc_keepsMem ..).trans (dropEntry_keepsMem ..)).trans (State.modClusterW_keepsMem ..)).trans
            (entryDone_keepsMem ..))
        · exact hP _ ((((storeSlot_keepsMem ..).trans (dropEntry_keepsMem ..)).trans (State.modClusterW_keepsMem ..)).trans
            (entryDone_keepsMem ..))
    · exact hP _ (State.modClusterW_keepsMem ..)

theorem reclaimSlots_keepsMem (s : State) (p : PartId) (k : ClusterId) (slots : Nat) : Keeps s (reclaimSlots s p k slots) := by
  unfold reclaimSlots
  refine Keeps.foldl (fun u e => ?_) _
  split
  · exact State.modAcc_keepsMem ..
  · exact .refl

theorem execAccrclWrite_keepsMem (p : PartId) (k : ClusterId) (slots : BitVec 16) (s : State) :
    Keeps s (outState s (execAccrclWrite p k slots s)) := by
  unfold execAccrclWrite
  exact reclaimSlots_keepsMem ..

end Sys2Proof.Machine
end

section
/-! SUPPORT. The memory's form through the trap queue, tasters, resets and gang switches: one lemma per function. -/
namespace Sys2Proof.Machine

/-! ## Machine/TrapQueue -/

theorem modTrap_keepsMem (s : State) (p : PartId) (f : TrapQ → TrapQ) : Keeps s (modTrap s p f) := .of_mem rfl

theorem tqBad_keepsMem (s : State) (p : PartId) : Keeps s (tqBad s p) := .of_mem rfl

theorem tqLost_keepsMem (s : State) (p : PartId) : Keeps s (tqLost s p) := by
  unfold tqLost
  refine .trans ?_ (tqBad_keepsMem ..)
  split
  · exact .refl
  · exact listTable_keepsMem ..

theorem tqOverflow_keepsMem (s : State) (p : PartId) : Keeps s (tqOverflow s p) := by
  unfold tqOverflow
  refine .trans ?_ (State.hwSet_keepsMem ..)
  split
  · exact .refl
  · exact (modTrap_keepsMem ..).trans (State.hostEvent_keepsMem ..)

theorem holdRecord_keepsMem (s : State) (p : PartId) (x : TrapRec) : Keeps s (holdRecord s p x) := by
  unfold holdRecord
  dsimp only
  split
  · split
    · split
      · exact ((tqOverflow_keepsMem ..).trans (State.modCoreC_keepsMem ..)).trans (modTrap_keepsMem ..)
      · exact (tqOverflow_keepsMem ..).trans (State.modCoreC_keepsMem ..)
    · exact tqOverflow_keepsMem ..
  · split
    all_goals exact modTrap_keepsMem ..

theorem takeBack_keepsMem (p : PartId) (x : TrapRec) (s : State) : Keeps s (takeBack p x s) := by
  unfold takeBack
  dsimp only
  split
  · split
    · exact ((tqOverflow_keepsMem ..).trans (State.modCoreC_keepsMem ..)).trans (modTrap_keepsMem ..)
    · exact tqOverflow_keepsMem ..
  · split
    all_goals exact modTrap_keepsMem ..

theorem acceptRecord_keepsMem (s : State) (p : PartId) (x : TrapRec) : Keeps s (acceptRecord s p x) := .of_mem rfl

theorem placeRecord_keepsMem (s : State) (p : PartId) (x : TrapRec) : Keeps s (placeRecord s p x) := by
  unfold placeRecord
  split
  · exact holdRecord_keepsMem ..
  · split
    · exact acceptRecord_keepsMem ..
    · exact (tqLost_keepsMem ..).trans (holdRecord_keepsMem ..)

theorem formRecord_keepsMem (s : State) (p : PartId) (c : CoreId) : Keeps s (formRecord s p c) := by
  unfold formRecord
  dsimp only
  split
  · exact (State.modCoreC_keepsMem ..).trans (modTrap_keepsMem ..)
  · exact State.modCoreC_keepsMem ..

theorem enterHeld_keepsMem (s : State) (p : PartId) : Keeps s (enterHeld s p).2 := by
  unfold enterHeld
  dsimp only
  split
  · split
    · dsimp only
      exact .refl
    · split
      · dsimp only
        split
        · exact ((modTrap_keepsMem ..).trans (acceptRecord_keepsMem ..)).trans (formRecord_keepsMem ..)
        · exact (modTrap_keepsMem ..).trans (acceptRecord_keepsMem ..)
      · dsimp only
        exact tqLost_keepsMem ..
  · split
    · dsimp only
      exact .refl
    · split
      · dsimp only
        exact (modTrap_keepsMem ..).trans (acceptRecord_keepsMem ..)
      · dsimp only
        exact tqLost_keepsMem ..
  · dsimp only
    exact .refl

theorem enterAll_keepsMem (n : Nat) (s : State) (p : PartId) : Keeps s (enterAll n s p) := by
  induction n generalizing s with
  | zero => exact .refl
  | succ n ih =>
    rw [enterAll]
    exact .ite ((enterHeld_keepsMem ..).trans (ih _)) (enterHeld_keepsMem ..)

theorem refill_keepsMem (s : State) (p : PartId) : Keeps s (refill s p) := by
  unfold refill
  exact enterAll_keepsMem ..

theorem queueTurn_keepsMem (s : State) (p : PartId) : Keeps s (queueTurn s p) := by
  unfold queueTurn
  dsimp only
  split
  · exact ((refill_keepsMem ..).trans (modTrap_keepsMem ..)).trans (placeRecord_keepsMem ..)
  · exact refill_keepsMem ..

theorem writeTqhead_keepsMem (s : State) (p : PartId) (v : Word) : Keeps s (writeTqhead s p v) := .of_mem rfl

theorem writeTqbase_keepsMem (s : State) (p : PartId) (v : Word) : Keeps s (writeTqbase s p v) := .of_mem rfl

theorem execTqheadWrite_keepsMem (p : PartId) (v : Word) (s : State) : Keeps s (outState s (execTqheadWrite p v s)) := .of_mem rfl

theorem execTqbaseWrite_keepsMem (p : PartId) (v : Word) (s : State) : Keeps s (outState s (execTqbaseWrite p v s)) := .of_mem rfl

theorem writeList_keepsMem (s : State) (k : Nat) (l : List Word) : Keeps s (writeList s k l) := by
  induction l generalizing s k with
  | nil => exact .refl
  | cons v l ih => exact (State.writeMem_keepsMem ..).trans (ih ..)

theorem recordPosted_keepsMem (s : State) (p : PartId) (x : TrapRec) (addr : Word) : Keeps s (recordPosted s p x addr) := by
  unfold recordPosted
  split
  · split
    · exact (State.modCoreC_keepsMem ..).trans (State.push_keepsMem ..)
    · exact .refl
  · exact .refl

theorem Keeps.foldr {α : Type} {f : α → State → State} {s : State} (h : ∀ a u, Keeps u (f a u)) (l : List α) : Keeps s (l.foldr f s) := by
  induction l with
  | nil => exact .refl
  | cons a l ih => exact ih.trans (h ..)

theorem turnBack_keepsMem (s : State) (p : PartId) : Keeps s (turnBack s p) := by
  unfold turnBack
  dsimp only
  split
  · exact .refl
  · exact ((tqBad_keepsMem ..).trans (modTrap_keepsMem ..)).trans (.foldr (fun _ _ => takeBack_keepsMem ..) _)

theorem entryWritten_keepsMem (s : State) (p : PartId) (index : Nat) : Keeps s (entryWritten s p index) := .of_mem rfl

theorem writeNext_keepsMem (s : State) (p : PartId) : Keeps s (writeNext s p) := by
  unfold writeNext
  split
  · split
    · exact .refl
    · exact State.push_keepsMem ..
  · exact .refl

theorem putRecord_keepsMem (s : State) (p : PartId) (addr : Word) (key : Nat) (x : TrapRec) : Keeps s (putRecord s p addr key x) := by
  unfold putRecord
  exact ((noteWrite_keepsMem ..).trans (writeList_keepsMem ..)).trans (fillWord_keepsMem ..)

theorem execRecordWriteDone_keepsMem (p : PartId) (index : Nat) (s : State) : Keeps s (outState s (execRecordWriteDone p index s)) := by
  refine .generic fun P hP => ?_
  obtain ⟨F, hF⟩ : ∃ F, F = execRecordWriteDone := ⟨_, rfl⟩
  rw [← hF]
  delta execRecordWriteDone at hF
  rw [hF]
  beta_reduce
  obtain ⟨G0, hG0⟩ : ∃ G, G = atHome := ⟨_, rfl⟩
  rw [← hG0]
  split
  · exact hP _ .refl
  · split
    · exact hP _ .refl
    · dsimp only
      split
      · exact hP _ ((listTable_keepsMem ..).trans (turnBack_keepsMem ..))
      · split
        · rename_i h4
          rw [hG0] at h4
          exact hP _ (((atHome_keepsMem ..).left h4).trans (State.holdBack_keepsMem ..))
        · rename_i h4
          rw [hG0] at h4
          exact hP _ ((((((atHome_keepsMem ..).right h4).trans (putRecord_keepsMem ..)).trans (entryWritten_keepsMem ..)).trans
            (writeNext_keepsMem ..)).trans (recordPosted_keepsMem ..))

theorem execSyshRun_keepsMem (p : PartId) (c : CoreId) (s : State) : Keeps s (outState s (execSyshRun p c s)) := by
  unfold execSyshRun
  dsimp only
  split
  · split
    · exact State.modCoreC_keepsMem ..
    · split
      · exact .refl
      · exact ((State.modCoreC_keepsMem ..).trans (allocTid_keepsMem ..)).trans (placeThread_keepsMem ..)
  · exact .refl

theorem wakeResume_keepsMem (s : State) (p : PartId) (tid : Nat) : Keeps s (wakeResume s p tid) := by
  unfold wakeResume
  exact State.modThreads_keepsMem ..

theorem wakeKill_keepsMem (s : State) (p : PartId) (tid : Nat) : Keeps s (wakeKill s p tid) := by
  unfold wakeKill
  exact killWhere_keepsMem ..

theorem wakeKillCtx_keepsMem (s : State) (p : PartId) (ctx : BitVec 8) : Keeps s (wakeKillCtx s p ctx) := by
  unfold wakeKillCtx
  exact killWhere_keepsMem ..

theorem wakeUnservable_keepsMem (s : State) (p : PartId) (tid : Nat) : Keeps s (wakeUnservable s p tid) := by
  unfold wakeUnservable
  split
  · split
    · exact (State.setThread_keepsMem ..).trans (postRecord_keepsMem ..)
    · exact .refl
  · exact .refl

theorem writeWake_keepsMem (s : State) (p : PartId) (v : Word) : Keeps s (writeWake s p v) := by
  unfold writeWake
  split
  · exact wakeResume_keepsMem ..
  · exact wakeKill_keepsMem ..
  · exact wakeKillCtx_keepsMem ..
  · exact wakeUnservable_keepsMem ..

theorem execWakeResume_keepsMem (p : PartId) (tid : BitVec 20) (s : State) : Keeps s (outState s (execWakeResume p tid s)) := by
  unfold execWakeResume
  exact wakeResume_keepsMem ..

theorem execWakeKillThread_keepsMem (p : PartId) (tid : BitVec 20) (s : State) : Keeps s (outState s (execWakeKillThread p tid s)) := by
  unfold execWakeKillThread
  exact wakeKill_keepsMem ..

theorem execWakeKillContext_keepsMem (p : PartId) (ctx : BitVec 8) (s : State) : Keeps s (outState s (execWakeKillContext p ctx s)) := by
  unfold execWakeKillContext
  exact wakeKillCtx_keepsMem ..

theorem execWakeUnservable_keepsMem (p : PartId) (tid : BitVec 20) (s : State) : Keeps s (outState s (execWakeUnservable p tid s)) := by
  unfold execWakeUnservable
  exact wakeUnservable_keepsMem ..

/-! ## Machine/Tasters -/

theorem markWatched_keepsMem (s : State) (p : PartId) (c : CoreId) (on : Bool) : Keeps s (markWatched s p c on) := .of_mem rfl

theorem bindTaster_keepsMem (s : State) (p : PartId) (c : CoreId) (v : Word) : Keeps s (bindTaster s p c v) := by
  unfold bindTaster
  dsimp only
  split
  · refine .trans ?_ (markWatched_keepsMem ..)
    split
    · exact (State.modCoreW_keepsMem ..).trans (State.modCoreW_keepsMem ..)
    · exact State.modCoreW_keepsMem ..
  · exact State.modCoreW_keepsMem ..

theorem unbindTaster_keepsMem (s : State) (p : PartId) (c : CoreId) (v : Word) : Keeps s (unbindTaster s p c v) := .of_mem rfl

theorem execTbindBind_keepsMem (p : PartId) (c : CoreId) (v : Word) (s : State) : Keeps s (outState s (execTbindBind p c v s)) := by
  unfold execTbindBind
  exact bindTaster_keepsMem ..

theorem execTbindUnbind_keepsMem (p : PartId) (c : CoreId) (v : Word) (s : State) : Keeps s (outState s (execTbindUnbind p c v s)) := by
  unfold execTbindUnbind
  split
  · exact unbindTaster_keepsMem ..
  · exact .refl

theorem loseBinding_keepsMem (s : State) (p : PartId) (c : CoreId) : Keeps s (loseBinding s p c) := by
  unfold loseBinding
  dsimp only
  split
  · refine (((Keeps.foldl (fun u e => (State.modThread_keepsMem ..).trans (postRecord_keepsMem ..)) _).trans
      (State.modCoreW_keepsMem ..)).trans (markWatched_keepsMem ..)).trans (Keeps.foldl (fun u e => ?_) _)
    split
    · exact fatalPark_keepsMem ..
    · exact .refl
  · exact ((Keeps.foldl (fun u e => (State.modThread_keepsMem ..).trans (postRecord_keepsMem ..)) _).trans
      (State.modCoreW_keepsMem ..)).trans (markWatched_keepsMem ..)

theorem failCore_keepsMem (s : State) (p : PartId) (c : CoreId) : Keeps s (failCore s p c) := by
  unfold failCore
  dsimp only
  split
  · exact .refl
  · split
    · exact (((((State.modCoreC_keepsMem ..).trans (killLanding_keepsMem ..)).trans
        (Keeps.foldl (fun u e => killThread_keepsMem ..) _)).trans (orphanSlots_keepsMem ..)).trans (postRecord_keepsMem ..)).trans
        (loseBinding_keepsMem ..)
    · exact ((((State.modCoreC_keepsMem ..).trans (killLanding_keepsMem ..)).trans
        (Keeps.foldl (fun u e => killThread_keepsMem ..) _)).trans (orphanSlots_keepsMem ..)).trans (postRecord_keepsMem ..)

theorem execCoreFailed_keepsMem (p : PartId) (c : CoreId) (s : State) : Keeps s (outState s (execCoreFailed p c s)) := by
  unfold execCoreFailed
  exact failCore_keepsMem ..

theorem execShellAckTimeout_keepsMem (p : PartId) (c : CoreId) (s : State) : Keeps s (outState s (execShellAckTimeout p c s)) := by
  unfold execShellAckTimeout
  exact failCore_keepsMem ..

theorem writeLogvio_keepsMem (s : State) (p : PartId) (c : CoreId) (v : Word) : Keeps s (writeLogvio s p c v) := by
  unfold writeLogvio
  dsimp only
  split
  · exact .refl
  · split
    · split
      · exact (State.setThread_keepsMem ..).trans (postRecord_keepsMem ..)
      · exact postRecord_keepsMem ..
    · exact postRecord_keepsMem ..

theorem execLogvioWrite_keepsMem (p : PartId) (c : CoreId) (v : Word) (s : State) : Keeps s (outState s (execLogvioWrite p c v s)) := by
  unfold execLogvioWrite
  exact writeLogvio_keepsMem ..

theorem execLognWatchdog_keepsMem (r : TRef) (s : State) : Keeps s (outState s (execLognWatchdog r s)) := by
  unfold execLognWatchdog
  dsimp only
  split
  · split
    · split
      · exact (fatalPark_keepsMem ..).trans (loseBinding_keepsMem ..)
      · exact fatalPark_keepsMem ..
    · exact .refl
  · exact .refl

theorem execCont_keepsMem (s : State) : Keeps s (outState s (execCont s)) := by
  unfold execCont
  refine runWord_keepsMem (fun _ _ _ => ?_)
  split
  · rename_i h1
    exact (passPoint_keepsMem ..).error h1
  · rename_i h1
    exact (passPoint_keepsMem ..).ok h1

theorem tableEntry_keepsMem (s : State) (r : TRef) (t : Thread) (type : Nat) :
    Keeps s (checkState (fun x => x.2) (tableEntry s r t type)) := by
  unfold tableEntry
  dsimp only
  split
  · rename_i h0
    exact (checkAccess_keepsMem ..).error h0
  · rename_i h0
    split
    · rename_i h1
      exact ((checkAccess_keepsMem ..).ok h0).trans ((readPlace_keepsMem ..).error h1)
    · rename_i h1
      exact ((checkAccess_keepsMem ..).ok h0).trans ((readPlace_keepsMem ..).ok h1)

/-- A record that goes to its handler, or is left untaken, keeps what the taking and the going on keep. -/
theorem dispatchRecord_keepsMem {first s : State} {r : TRef} {t : Thread} {wc : CoreId} {x : LogRec} {go : State → Res} (hs :
    Keeps first s)
    (h : ∀ u, Keeps first u → Keeps first (go u).state) : Keeps first (dispatchRecord first r t wc x s go).state := by
  unfold dispatchRecord
  dsimp only
  have ht := hs.trans ((State.modCoreW_keepsMem s r.part wc fun _ => takeRecord (s.core r.part wc).w x).trans
    (tableEntry_keepsMem _ r t x.type))
  split
  · exact .refl
  · rename_i h1
    exact (ht.error h1).trans (State.modCoreW_keepsMem ..)
  · rename_i h1
    exact (ht.error h1).trans (State.modCoreW_keepsMem ..)
  · rename_i h1
    exact ht.error h1
  · rename_i h1
    split
    · exact h _ (ht.ok h1)
    · split
      · exact .refl
      · exact ht.ok h1

/-- One turn of LOGN's loop: it waits, faults, takes the record and goes on or waits at a stamp, or hands the record to its handler. -/
theorem lognLoop_succ_ind {P : Res → Prop} {first : State} {r : TRef} {t : Thread} {wc : CoreId} {n : Nat} {s : State}
    (h1 : P (.wait .record s)) (h2 : ∀ a, P (.trap .poison (some a) first))
    (h3 : ∀ x, P (lognLoop first r t wc n (s.modCoreW r.part wc (fun _ => takeRecord (s.core r.part wc).w x))))
    (h4 : ∀ w x, P (.wait w (s.modCoreW r.part wc (fun _ => takeRecord (s.core r.part wc).w x))))
    (h5 : ∀ x, P (dispatchRecord first r t wc x s (lognLoop first r t wc n))) : P (lognLoop first r t wc (n + 1) s) := by
  rw [lognLoop]
  dsimp only
  split
  · exact h1
  · split
    · exact h2 _
    · split
      · split
        · exact h3 _
        · split
          · exact h3 _
          · exact h4 ..
      · split
        · exact h3 _
        · exact h5 _

theorem lognLoop_keepsMem (first : State) (r : TRef) (t : Thread) (wc : CoreId) (n : Nat) (s : State) (h : Keeps first s) :
    Keeps first (lognLoop first r t wc n s).state := by
  induction n generalizing s with
  | zero => exact h
  | succ n ih =>
    have ht (x : LogRec) := h.trans (State.modCoreW_keepsMem s r.part wc fun _ => takeRecord (s.core r.part wc).w x)
    exact lognLoop_succ_ind (P := fun x => Keeps first x.state) h (fun _ => .refl) (fun x => ih _ (ht x)) (fun _ x => ht x)
      (fun _ => dispatchRecord_keepsMem h ih)

theorem execLogn.lognFrom_keepsMem (s : State) (r : TRef) (t : Thread) (wc : CoreId) : Keeps s (execLogn.lognFrom s r t wc).state := by
  refine .generic fun P hP => ?_
  have hl (n : Nat) : P (lognLoop s r t wc n s) := hP _ (lognLoop_keepsMem s r t wc n s .refl)
  obtain ⟨F, hF⟩ : ∃ F, F = execLogn.lognFrom := ⟨_, rfl⟩
  rw [← hF]
  delta execLogn.lognFrom at hF
  rw [hF]
  exact hl _

theorem execLogn_keepsMem (s : State) : Keeps s (outState s (execLogn s)) := by
  refine .generic fun P hP => ?_
  have hw (f : TRef → Thread → State → Res) (h : ∀ r t u, Keeps u (f r t u).state) : P (runWord [] f s) := hP _ (runWord_keepsMem h)
  have hl (s : State) (r : TRef) (t : Thread) (c : CoreId) : Keeps s (execLogn.lognFrom s r t c).state := execLogn.lognFrom_keepsMem ..
  obtain ⟨F, hF⟩ : ∃ F, F = execLogn := ⟨_, rfl⟩
  rw [← hF]
  delta execLogn at hF
  obtain ⟨L, hL⟩ : ∃ L, L = execLogn.lognFrom := ⟨_, rfl⟩
  rw [← hL] at hF hl
  obtain ⟨W, hW⟩ : ∃ W, W = workerOf := ⟨_, rfl⟩
  rw [← hW] at hF
  rw [hF]
  refine hw _ fun r t u => .generic fun Q hQ => ?_
  split
  · split
    · exact hQ _ .refl
    · split
      · exact hQ _ (hl ..)
      · exact hQ _ .refl
  · split
    · split
      · exact hQ _ .refl
      · exact hQ _ (hl ..)
    · split
      all_goals exact hQ _ .refl

theorem execLoga_keepsMem (a : Src) (s : State) : Keeps s (outState s (execLoga a s)) := by
  unfold execLoga
  dsimp only
  refine runWord_keepsMem (fun _ _ _ => ?_)
  split
  · exact .refl
  · exact fenced_keepsMem (fun x0 => atCommit_keepsMem (fun x0 => (State.modCoreW_keepsMem ..).trans (State.modCoreW_keepsMem ..)))

/-! ## Machine/Reset -/

theorem wipeWindows_keepsMem (s : State) (p : PartId) : Keeps s (wipeWindows s p) := by
  unfold wipeWindows
  exact State.wipeRange_keepsMem ..

theorem wipeLaunch_keepsMem (s : State) (p : PartId) : Keeps s (wipeLaunch s p) := by
  unfold wipeLaunch
  dsimp only
  exact State.wipeRange_keepsMem ..

theorem dropSteps_keepsMem (s : State) (p : PartId) : Keeps s (dropSteps s p) := .of_mem rfl

theorem missRank_keepsMem (s : State) (p : PartId) (c : Coll) (rank : Nat) : Keeps s (missRank s p c rank) := by
  unfold missRank
  dsimp only
  split
  · exact .refl
  · exact (State.modPart_keepsMem ..).trans (State.push_keepsMem ..)

theorem tellMissing_keepsMem (s : State) (p : PartId) (c : Coll) (rank : Nat) : Keeps s (tellMissing s p c rank) := by
  unfold tellMissing
  dsimp only
  refine Keeps.foldl (fun u e => ?_) _
  split
  · exact .refl
  · split
    · exact State.push_keepsMem ..
    · split
      · exact State.with_portOut_keepsMem ..
      · exact .refl

theorem ranksGone_keepsMem (s : State) (modid : BitVec 16) (q : PartId) : Keeps s (ranksGone s modid q) := by
  unfold ranksGone
  refine Keeps.foldl (fun u e => ?_) _
  refine Keeps.foldl (fun u e => ?_) _
  split
  · exact (missRank_keepsMem ..).trans (tellMissing_keepsMem ..)
  · exact .refl

theorem leaveColls_keepsMem (s : State) (p : PartId) : Keeps s (leaveColls s p) := by
  unfold leaveColls
  dsimp only
  exact ((Keeps.foldl (fun u e => tellMissing_keepsMem ..) _).trans (ranksGone_keepsMem ..)).trans (State.modPart_keepsMem ..)

theorem refuseWaiters_keepsMem (s : State) (p : PartId) : Keeps s (refuseWaiters s p) := by
  unfold refuseWaiters
  refine Keeps.foldl (fun u e => ?_) _
  refine Keeps.foldl (fun u e => ?_) _
  split
  · exact replyError_keepsMem ..
  · exact .refl
  · exact .refl
  · exact .refl

theorem refuseQueued_keepsMem (s : State) (p : PartId) : Keeps s (refuseQueued s p) := by
  unfold refuseQueued
  exact Keeps.foldl (fun u e => Keeps.foldl (fun u e => refuseActive_keepsMem ..) _) _

theorem abandonRuns_keepsMem (s : State) (p : PartId) : Keeps s (abandonRuns s p) := by
  unfold abandonRuns
  refine (refuseQueued_keepsMem ..).trans (Keeps.foldl (fun u e => ?_) _)
  split
  · exact serverReply_keepsMem ..
  · exact .refl

theorem startReset_keepsMem (s : State) (p : PartId) : Keeps s (startReset s p) := by
  unfold startReset
  dsimp only
  split
  · exact .refl
  · exact (((leaveColls_keepsMem ..).trans (State.pushAll_keepsMem ..)).trans (State.modPart_keepsMem ..)).trans
      (State.afterTicks_keepsMem ..)

theorem execPartitionReset_keepsMem (p : PartId) (s : State) : Keeps s (outState s (execPartitionReset p s)) := by
  unfold execPartitionReset
  exact startReset_keepsMem ..

theorem execRelctlPrst_keepsMem (p : PartId) (s : State) : Keeps s (outState s (execRelctlPrst p s)) := by
  unfold execRelctlPrst
  exact startReset_keepsMem ..

theorem execResetWipe_keepsMem (p : PartId) (s : State) : Keeps s (outState s (execResetWipe p s)) := by
  unfold execResetWipe
  dsimp only
  split
  · exact .refl
  · exact ((((((refuseWaiters_keepsMem ..).trans (abandonRuns_keepsMem ..)).trans (wipeWindows_keepsMem ..)).trans
      (wipeLaunch_keepsMem ..)).trans (dropSteps_keepsMem ..)).trans (State.setPart_keepsMem ..)).trans (State.afterTicks_keepsMem ..)

theorem execResetComplete_keepsMem (p : PartId) (s : State) : Keeps s (outState s (execResetComplete p s)) := by
  unfold execResetComplete
  dsimp only
  split
  · exact .refl
  · split
    · exact (((State.modPart_keepsMem ..).trans (State.hostEvent_keepsMem ..)).trans (State.with_timers_keepsMem ..)).trans
        (State.afterTicks_keepsMem ..)
    · exact (State.modPart_keepsMem ..).trans (State.hostEvent_keepsMem ..)

theorem registerError_keepsMem (s : State) (r : TRef) : Keeps s (registerError s r) := by
  unfold registerError
  split
  · exact (postRecord_keepsMem ..).trans (killThread_keepsMem ..)
  · exact .refl

theorem l1Lost_keepsMem (s : State) (p : PartId) (c : CoreId) (x : L1Line) : Keeps s (l1Lost s p c x) := by
  unfold l1Lost
  dsimp only
  exact (((((State.dropL1_keepsMem ..).trans (State.revokeAll_keepsMem ..)).trans (State.invalidateAll_keepsMem ..)).trans
    (State.dropSl_keepsMem ..)).trans (State.poisonLine_keepsMem ..)).trans (postRecord_keepsMem ..)

theorem execUncorrectableError_keepsMem (e : ErrSite) (s : State) : Keeps s (outState s (execUncorrectableError e s)) := by
  unfold execUncorrectableError
  dsimp only
  split
  · exact registerError_keepsMem ..
  · exact registerError_keepsMem ..
  · split
    · exact .refl
    · exact State.poisonWord_keepsMem ..
  · split
    · exact .refl
    · split
      · exact l1Lost_keepsMem ..
      · exact State.modPart_keepsMem ..
  · exact State.modCoreC_keepsMem ..
  · exact State.modThread_keepsMem ..
  · exact l2Error_keepsMem ..
  · exact moduleError_keepsMem ..
  · exact correctSector_keepsMem ..
  · exact State.modPart_keepsMem ..
  · split
    · exact (poisonTable_keepsMem ..).trans (postRecord_keepsMem ..)
    · exact poisonTable_keepsMem ..
  · split
    · split
      · exact .refl
      · exact ((leaveBytes_keepsMem ..).trans (failBeat_keepsMem ..)).trans (passBeat_keepsMem ..)
    · exact .refl
  · split
    · exact poisonRun_keepsMem ..
    · exact .refl
  · exact startReset_keepsMem ..

theorem execScrubPass_keepsMem (p : PartId) (s : State) : Keeps s (outState s (execScrubPass p s)) := by
  unfold execScrubPass
  dsimp only
  split
  · exact (State.modPart_keepsMem ..).trans (homeRead_keepsMem ..)
  · exact State.modPart_keepsMem ..

theorem execClockThrottle_keepsMem (lower : Bool) (s : State) : Keeps s (outState s (execClockThrottle lower s)) := .of_mem rfl

theorem execCorePowerGating_keepsMem (p : PartId) (c : CoreId) (gate : Bool) (s : State) :
    Keeps s (outState s (execCorePowerGating p c gate s)) := by
  unfold execCorePowerGating
  split
  · exact (State.modCoreC_keepsMem ..).trans (orphanSlots_keepsMem ..)
  · exact State.modCoreC_keepsMem ..

/-- After power-on memory is as at reset. -/
theorem execPowerOnReset_keepsMem (s : State) : Keeps s (outState s (execPowerOnReset s)) := by
  unfold execPowerOnReset
  have h : Keeps s { State.reset with bringUp := if bootOk s.free then 0 else bootStopped, free := s.free + 1 } :=
    .of_wf fun _ => reset_mem_wf
  exact h.trans (.foldl (fun _ _ => State.setPart_keepsMem ..) _)

theorem execPartitionInService_keepsMem (p : PartId) (linksTrained : Bool) (s : State) :
    Keeps s (outState s (execPartitionInService p linksTrained s)) := by
  unfold execPartitionInService
  dsimp only
  split
  · exact (State.modPart_keepsMem ..).trans (State.with_bringUp_keepsMem ..)
  · exact .refl

/-! ## Machine/Gang -/

theorem writeAt_keepsMem (s : State) (k : Nat) (l : List (Nat × Word)) : Keeps s (writeAt s k l) := by
  unfold writeAt
  exact Keeps.foldl (fun u e => State.writeMem_keepsMem ..) _

theorem collectRange_keepsMem (s : State) (p : PartId) (lo : Nat) (hi : Nat) : Keeps s (collectRange s p lo hi) := by
  unfold collectRange
  exact Keeps.foldl (fun u e => sliceEvict_keepsMem ..) _

theorem writeCore_keepsMem (s : State) (k : Nat) (w : CoreWorld) (c : CoreId) : Keeps s (writeCore s k w c) := by
  unfold writeCore
  dsimp only
  refine Keeps.foldl (fun u e => ?_) _
  split
  · exact writeAt_keepsMem ..
  · exact writeAt_keepsMem ..
  · exact State.writeMem_keepsMem ..

theorem State.with_wipe_keepsMem (s : State) (lo hi : Nat) : Keeps s { s with mem := memWipe s.mem lo hi } := .of_wf (memWipe_wf lo hi)

theorem writeSlotCells_keepsMem (s : State) (k : Nat) (a : AccSlot) : Keeps s (writeSlotCells s k a) :=
  (State.with_wipe_keepsMem ..).trans (.foldl (fun _ _ => State.writeMem_keepsMem ..) _)

theorem writeWorld_keepsMem (s : State) (k : Nat) (w : World) : Keeps s (writeWorld s k w) := by
  unfold writeWorld
  dsimp only
  exact (((State.writeMem_keepsMem ..).trans (Keeps.foldl (fun u e => writeAt_keepsMem ..) _)).trans
    (Keeps.foldl (fun u e => writeCore_keepsMem ..) _)).trans
    (Keeps.foldl (fun u e => Keeps.foldl (fun u e => writeSlotCells_keepsMem ..) _) _)

theorem writeArea_keepsMem (s : State) (p : PartId) (base : Nat) (w : World) : Keeps s (writeArea s p base w) := by
  unfold writeArea
  dsimp only
  exact (((collectRange_keepsMem ..).trans (writeWorld_keepsMem ..)).trans (State.writeMem_keepsMem ..)).trans
    (State.keepLines_keepsMem ..)

theorem execGangSwitch_keepsMem (p : PartId) (s : State) : Keeps s (outState s (execGangSwitch p s)) := by
  unfold execGangSwitch
  dsimp only
  split
  · exact .refl
  · exact (State.modPart_keepsMem ..).trans (State.revokeEvery_keepsMem ..)

theorem execCoreDrained_keepsMem (p : PartId) (c : CoreId) (s : State) : Keeps s (outState s (execCoreDrained p c s)) := by
  unfold execCoreDrained
  split
  · exact State.modPart_keepsMem ..
  · exact .refl

theorem leaveWaits_keepsMem (s : State) (p : PartId) : Keeps s (leaveWaits s p) := by
  unfold leaveWaits
  dsimp only
  exact Keeps.foldl (fun u e => (feForget_keepsMem ..).trans (State.modThread_keepsMem ..)) _

theorem leaveLists_keepsMem (s : State) (p : PartId) : Keeps s (leaveLists s p) := by
  unfold leaveLists
  exact (leaveWaits_keepsMem ..).trans (State.modPart_keepsMem ..)

theorem dropSpill_keepsMem (s : State) (p : PartId) : Keeps s (dropSpill s p) := .of_mem rfl

theorem scrubAll_keepsMem (s : State) (p : PartId) : Keeps s (scrubAll s p) := by
  unfold scrubAll
  dsimp only
  refine (State.with_timers_keepsMem ..).trans (Keeps.foldl (fun u e => ?_) _)
  refine Keeps.foldl (fun u e => ?_) _
  split
  · exact (freedTid_keepsMem ..).trans (State.modCoreW_keepsMem ..)
  · exact .refl
  · exact .refl
  · exact .refl

theorem saveWorld_keepsMem (s : State) (p : PartId) : Keeps s (saveWorld s p) := by
  unfold saveWorld
  dsimp only
  split
  · exact (((leaveLists_keepsMem ..).trans (writeArea_keepsMem ..)).trans (dropSpill_keepsMem ..)).trans (State.modPart_keepsMem ..)
  · exact ((killWhere_keepsMem ..).trans (scrubAll_keepsMem ..)).trans (dropSpill_keepsMem ..)

theorem areaHeld_keepsMem (s : State) (p : PartId) : Keeps s (optState s (fun u => u) (areaHeld s p)) := by
  refine .generic fun P hP => ?_
  obtain ⟨F, hF⟩ : ∃ F, F = areaHeld := ⟨_, rfl⟩
  rw [← hF]
  delta areaHeld at hF
  rw [hF]
  beta_reduce
  have hH (k : Nat) : Keeps s (optState s (fun u => u) (heldPage s p k (.step (.worldExchange p)))) := heldPage_keepsMem ..
  obtain ⟨H, e⟩ : ∃ H, H = heldPage := ⟨_, rfl⟩
  rw [← e] at hH ⊢
  dsimp only
  split
  · exact hP _ (.findSome (fun _ => hH _) _)
  · exact hP _ .refl

theorem areaDirty_keepsMem (s : State) (p : PartId) : Keeps s (areaDirty s p) := by
  unfold areaDirty
  dsimp only
  split
  · exact Keeps.foldl (fun u e => (heldPassed_keepsMem ..).trans (dirtyFrame_keepsMem ..)) _
  · exact .refl

theorem installWorld_keepsMem (s : State) (p : PartId) (w : World) : Keeps s (installWorld s p w) := by
  unfold installWorld
  dsimp only
  refine .trans ?_ (State.modPart_keepsMem ..)
  split
  · exact ((State.modPart_keepsMem ..).trans (State.modPart_keepsMem ..)).trans (State.pushAll_keepsMem ..)
  · exact State.modPart_keepsMem ..

theorem keepDeliveries_keepsMem (s : State) (p : PartId) (l : List Delivery) : Keeps s (keepDeliveries s p l) := by
  unfold keepDeliveries
  refine Keeps.foldl (fun u e => ?_) _
  split
  · exact State.modCoreW_keepsMem ..
  · exact .refl

theorem execWorldExchange_keepsMem (p : PartId) (s : State) : Keeps s (outState s (execWorldExchange p s)) := by
  unfold execWorldExchange
  dsimp only
  split
  · exact .refl
  · split
    · rename_i h1
      exact ((areaHeld_keepsMem ..).some h1).trans (State.holdBack_keepsMem ..)
    · exact ((((((areaDirty_keepsMem ..).trans (State.revokeEvery_keepsMem ..)).trans (saveWorld_keepsMem ..)).trans
        (installWorld_keepsMem ..)).trans (keepDeliveries_keepsMem ..)).trans (State.modPart_keepsMem ..)).trans
        (Keeps.foldl (fun u e => releaseDset_keepsMem ..) _)

theorem kickCore_keepsMem (s : State) (p : PartId) (c : CoreId) : Keeps s (kickCore s p c) := by
  unfold kickCore
  dsimp only
  refine .trans ?_ ((State.pushAll_keepsMem ..).trans (slotFreed_keepsMem ..))
  split
  · split
    · split
      · split
        · exact .refl
        · exact State.push_keepsMem ..
      · split
        · exact State.push_keepsMem ..
        · exact (State.push_keepsMem ..).trans (State.push_keepsMem ..)
    · refine .trans ?_ (State.push_keepsMem ..)
      split
      · split
        · exact .refl
        · exact State.push_keepsMem ..
      · split
        · exact State.push_keepsMem ..
        · exact (State.push_keepsMem ..).trans (State.push_keepsMem ..)
  · refine .trans ?_ (State.push_keepsMem ..)
    split
    · split
      · split
        · exact .refl
        · exact State.push_keepsMem ..
      · split
        · exact State.push_keepsMem ..
        · exact (State.push_keepsMem ..).trans (State.push_keepsMem ..)
    · refine .trans ?_ (State.push_keepsMem ..)
      split
      · split
        · exact .refl
        · exact State.push_keepsMem ..
      · split
        · exact State.push_keepsMem ..
        · exact (State.push_keepsMem ..).trans (State.push_keepsMem ..)

theorem applyInbox_keepsMem (s : State) (p : PartId) (c : CoreId) : Keeps s (applyInbox s p c) := by
  unfold applyInbox
  dsimp only
  refine (State.modCoreW_keepsMem ..).trans (Keeps.foldl (fun u e => ?_) _)
  split
  · exact applyDelivery_keepsMem ..
  · exact .refl

theorem execGangResume_keepsMem (p : PartId) (s : State) : Keeps s (outState s (execGangResume p s)) := by
  unfold execGangResume
  dsimp only
  split
  · exact .refl
  · exact ((((State.modPart_keepsMem ..).trans (Keeps.foldl (fun u e => applyInbox_keepsMem ..) _)).trans
      (State.pushAll_keepsMem ..)).trans (State.pushAll_keepsMem ..)).trans (Keeps.foldl (fun u e => kickCore_keepsMem ..) _)

theorem dumpWord_keepsMem (s : State) (p : PartId) (a : Word) (v : Word) : Keeps s (optState s (fun u => u) (dumpWord s p a v)) := by
  refine .generic fun P hP => ?_
  obtain ⟨F, hF⟩ : ∃ F, F = dumpWord := ⟨_, rfl⟩
  rw [← hF]
  delta dumpWord at hF
  rw [hF]
  beta_reduce
  obtain ⟨G0, hG0⟩ : ∃ G, G = atHome := ⟨_, rfl⟩
  rw [← hG0]
  split
  · exact hP _ .refl
  · split
    · rename_i h1
      rw [hG0] at h1
      exact hP _ (((noteWrite_keepsMem ..).trans ((atHome_keepsMem ..).right h1)).trans (State.writeMem_keepsMem ..))
    · rename_i h1
      rw [hG0] at h1
      exact hP _ (((noteWrite_keepsMem ..).trans ((atHome_keepsMem ..).left h1)).trans (State.writeMem_keepsMem ..))

theorem dumpWords_keepsMem (p : PartId) (base : Word) (l : List (Nat × Word)) (s : State) :
    Keeps s (optState s (fun u => u) (dumpWords p base l s)) := by
  induction l generalizing s with
  | nil => exact .refl
  | cons e l ih =>
    rw [dumpWords]
    split
    · rename_i u h
      have hu : Keeps s u := (dumpWord_keepsMem ..).some h
      cases hl : dumpWords p base l u with
      | none => exact .refl
      | some v => exact hu.trans ((ih u).some hl)
    · exact .refl

theorem dumpEnd_keepsMem (p : PartId) (a : Word) (ws : List (Nat × Word)) (n : Nat) (s : State) :
    Keeps s (optState s (fun x => x.2) ((dumpWords p a ws s).map (fun s => (n, s)))) := by
  cases h : dumpWords p a ws s with
  | none => exact .refl
  | some u => exact (dumpWords_keepsMem ..).some h

theorem writeItems_keepsMem (p : PartId) (base : Word) (len : Nat) (l : List DumpItem) (pos : Nat) (s : State) :
    Keeps s (optState s (fun x => x.2) (writeItems p base len l pos s)) := by
  induction l generalizing pos s with
  | nil =>
    rw [writeItems]
    split
    · exact dumpEnd_keepsMem ..
    · exact .refl
  | cons x l ih =>
    rw [writeItems]
    split
    · split
      · rename_i u h
        have hu : Keeps s u := (dumpWords_keepsMem ..).some h
        cases hl : writeItems p base len l (pos + x.1) u with
        | none => exact .refl
        | some v => exact hu.trans ((ih _ u).some hl)
      · exact .refl
    · split
      · exact dumpEnd_keepsMem ..
      · exact .refl

theorem dumpHeld_keepsMem (s : State) (p : PartId) (base : Word) (len : Nat) :
    Keeps s (optState s (fun u => u) (dumpHeld s p base len)) := by
  have h (o : Option Nat) : Keeps s (optState s (fun u => u) (o.bind fun k => heldPage s p k (.step (.dumpComplete p)))) := by
    cases o with
    | none => exact .refl
    | some k =>
      rw [Option.bind_some]
      exact heldPage_keepsMem ..
  exact .findSome (fun i => h _) _

theorem dumpFault_keepsMem (s : State) (p : PartId) (base : Word) (len : Nat) : Keeps s (dumpFault s p base len) := by
  unfold dumpFault
  split
  · exact listTable_keepsMem ..
  · exact .refl

theorem execDumpComplete_keepsMem (p : PartId) (s : State) : Keeps s (outState s (execDumpComplete p s)) := by
  unfold execDumpComplete
  dsimp only
  split
  · exact .refl
  · split
    · exact .refl
    · split
      · exact State.holdBack_keepsMem ..
      · split
        · rename_i h3
          exact ((dumpHeld_keepsMem ..).some h3).trans (State.holdBack_keepsMem ..)
        · split
          · exact (dumpFault_keepsMem ..).trans (startReset_keepsMem ..)
          · rename_i h4
            split
            · exact (((writeItems_keepsMem ..).some h4).trans (State.modPart_keepsMem ..)).trans (postRecord_keepsMem ..)
            · exact ((((writeItems_keepsMem ..).some h4).trans (State.modPart_keepsMem ..)).trans (postRecord_keepsMem ..)).trans
                (State.push_keepsMem ..)

end Sys2Proof.Machine
end

section
/-! SUPPORT. The memory's form through the dispatcher, collectives, the control words and the scalar words: one lemma per function. -/
namespace Sys2Proof.Machine

/-! ## Machine/Dispatcher -/

theorem writeState_keepsMem (s : State) (p : PartId) (n : BitVec 13) (v : Nat) : Keeps s (writeState s p n v) := by
  unfold writeState
  dsimp only
  split
  · exact .refl
  · exact State.writeMem_keepsMem ..

theorem joinOrder_keepsMem (s : State) (p : PartId) (x : Posted) (l : Launch) : Keeps s (joinOrder s p x l) := by
  unfold joinOrder
  dsimp only
  split
  · split
    · exact (State.sramAt_keepsMem ..).trans (releaseRecord_keepsMem ..)
    · exact (State.sramAt_keepsMem ..).trans (setFeLists_keepsMem ..)
  · exact releaseRecord_keepsMem ..

theorem acceptLaunch_keepsMem (s : State) (p : PartId) (n : BitVec 13) (x : Posted) : Keeps s (acceptLaunch s p n x) := by
  unfold acceptLaunch
  dsimp only
  exact ((writeState_keepsMem ..).trans (State.modPart_keepsMem ..)).trans (joinOrder_keepsMem ..)

theorem rejectLaunch_keepsMem (s : State) (p : PartId) (n : BitVec 13) (code : Nat) : Keeps s (rejectLaunch s p n code) := by
  unfold rejectLaunch
  exact (writeState_keepsMem ..).trans (State.modPart_keepsMem ..)

theorem execLaunchRecord_keepsMem (p : PartId) (n : BitVec 13) (s : State) : Keeps s (outState s (execLaunchRecord p n s)) := by
  refine .generic fun P hP => ?_
  obtain ⟨F, hF⟩ : ∃ F, F = execLaunchRecord := ⟨_, rfl⟩
  rw [← hF]
  delta execLaunchRecord at hF
  rw [hF]
  beta_reduce
  obtain ⟨G0, hG0⟩ : ∃ G, G = atHome := ⟨_, rfl⟩
  rw [← hG0]
  split
  · exact hP _ .refl
  · dsimp only
    split
    · rename_i h2
      rw [hG0] at h2
      exact hP _ (((atHome_keepsMem ..).left h2).trans (State.holdBack_keepsMem ..))
    · rename_i h2
      rw [hG0] at h2
      split
      · split
        · exact hP _ ((((atHome_keepsMem ..).right h2).trans (listTable_keepsMem ..)).trans (rejectLaunch_keepsMem ..))
        · exact hP _ (((atHome_keepsMem ..).right h2).trans (rejectLaunch_keepsMem ..))
      · split
        · exact hP _ (State.after_keepsMem ..)
        · split
          · exact hP _ ((((atHome_keepsMem ..).right h2).trans (listTable_keepsMem ..)).trans (acceptLaunch_keepsMem ..))
          · exact hP _ (((atHome_keepsMem ..).right h2).trans (acceptLaunch_keepsMem ..))

theorem modLaunch_keepsMem (s : State) (p : PartId) (id : Nat) (f : Launch → Launch) : Keeps s (modLaunch s p id f) := .of_mem rfl

theorem withDset_keepsMem (s : State) (p : PartId) (l : Launch) : Keeps s (optState s (fun x => x.2) (withDset s p l)) := by
  unfold withDset
  split
  · exact .refl
  · refine .map fun d => ?_
    dsimp only
    exact (modLaunch_keepsMem ..).trans (State.modPart_keepsMem ..)

theorem setQueue_keepsMem (s : State) (p : PartId) (k : ClusterId) (q : Fin 4) (l : List Packet) :
    Keeps s (setQueue s p k q l) := .of_mem rfl

theorem execPacketExpansion_keepsMem (p : PartId) (s : State) : Keeps s (outState s (execPacketExpansion p s)) := by
  unfold execPacketExpansion
  dsimp only
  split
  · exact .refl
  · split
    · exact State.modPart_keepsMem ..
    · split
      · exact .refl
      · rename_i h2
        split
        · exact (withDset_keepsMem ..).some h2
        · split
          · exact (withDset_keepsMem ..).some h2
          · refine .trans ?_ ((State.push_keepsMem ..).trans (State.push_keepsMem ..))
            split
            · exact ((((withDset_keepsMem ..).some h2).trans (setQueue_keepsMem ..)).trans (modLaunch_keepsMem ..)).trans
                (State.modPart_keepsMem ..)
            · exact (((withDset_keepsMem ..).some h2).trans (setQueue_keepsMem ..)).trans (modLaunch_keepsMem ..)

theorem execPacketDispatch_keepsMem (p : PartId) (k : ClusterId) (s : State) : Keeps s (outState s (execPacketDispatch p k s)) := by
  unfold execPacketDispatch
  dsimp only
  split
  · exact .refl
  · split
    · split
      · exact .refl
      · exact ((((setQueue_keepsMem ..).trans (allocTid_keepsMem ..)).trans (placeThread_keepsMem ..)).trans
          (State.push_keepsMem ..)).trans (State.push_keepsMem ..)
    · exact .refl

theorem ageQueue_keepsMem (p : PartId) (k : ClusterId) (q : Fin 4) (n : Nat) (s : State) : Keeps s (ageQueue p k q n s) := by
  induction n generalizing s with
  | zero => exact .refl
  | succ n ih =>
    rw [ageQueue]
    split
    · exact .ite (((setQueue_keepsMem ..).trans (setQueue_keepsMem ..)).trans (ih _)) .refl
    · exact .refl

theorem execPacketAging_keepsMem (p : PartId) (k : ClusterId) (q : Fin 4) (s : State) :
    Keeps s (outState s (execPacketAging p k q s)) := by
  unfold execPacketAging
  exact ageQueue_keepsMem ..

theorem execDoneWrite_keepsMem (p : PartId) (id : Nat) (s : State) : Keeps s (outState s (execDoneWrite p id s)) := by
  refine .generic fun P hP => ?_
  obtain ⟨F, hF⟩ : ∃ F, F = execDoneWrite := ⟨_, rfl⟩
  rw [← hF]
  delta execDoneWrite at hF
  rw [hF]
  beta_reduce
  obtain ⟨G0, hG0⟩ : ∃ G, G = atHome := ⟨_, rfl⟩
  rw [← hG0]
  split
  · exact hP _ .refl
  · dsimp only
    split
    · exact hP _ (State.modPart_keepsMem ..)
    · split
      · exact hP _ (((listTable_keepsMem ..).trans (State.modPart_keepsMem ..)).trans (postRecord_keepsMem ..))
      · split
        · rename_i h4
          rw [hG0] at h4
          exact hP _ (((atHome_keepsMem ..).left h4).trans (State.holdBack_keepsMem ..))
        · rename_i h4
          rw [hG0] at h4
          exact hP _ (((((((((atHome_keepsMem ..).right h4).trans (State.sramAt_keepsMem ..)).trans (State.setStamp_keepsMem ..)).trans
            (noteWrite_keepsMem ..)).trans (State.modPart_keepsMem ..)).trans (State.writeMem_keepsMem ..)).trans
            (windowWritten_keepsMem ..)).trans (fillWord_keepsMem ..))

/-! ## Machine/Collectives -/

theorem engineKey_keepsMem (s : State) (r : TRef) (t : Thread) (a : Word) : Keeps s (engineKey s r t a).2 := by
  unfold engineKey
  dsimp only
  split
  · dsimp only
    exact .refl
  · split
    · dsimp only
      exact .refl
    · split
      · dsimp only
        exact .refl
      · dsimp only
        exact listWalk_keepsMem ..

theorem readGroup_keepsMem (r : TRef) (t : Thread) (n : Nat) (a : Word) (s : State) : Keeps s (readGroup r t n a s).2 := by
  induction n generalizing a s with
  | zero => exact .refl
  | succ n ih =>
    rw [readGroup]
    split
    · rename_i h
      exact (engineKey_keepsMem ..).snd h
    · rename_i h
      dsimp only
      have hk := (engineKey_keepsMem ..).snd h
      split
      · exact hk.trans (ih ..)
      · exact hk

theorem engineRead_keepsMem (p : PartId) (c : Coll) (l : List (Word × Nat)) (s : State) :
    Keeps s (optState s (fun x => x.2) (engineRead p c l s)) := by
  induction l generalizing s with
  | nil => exact .refl
  | cons e l ih =>
    have hm (b : List Byte) (u : State) (h : Keeps s u) :
        Keeps s (optState s (fun x => x.2) ((engineRead p c l u).map (fun r => (b ++ r.1, r.2)))) := by
      have hl := ih u
      generalize engineRead p c l u = o at hl ⊢
      cases o with
      | none => exact .refl
      | some x => exact h.trans hl
    refine .generic fun P hP => ?_
    rw [engineRead]
    split
    · exact hP _ .refl
    · rename_i h
      refine hP _ (hm _ _ ?_)
      split at h
      · split at h
        · split at h
          · cases h
          · cases h
            exact State.sramAt_keepsMem ..
        · cases h
      · split at h
        · cases h
        · split at h
          · rename_i k
            cases h
            exact (reachRead_keepsMem ..).cast (congrArg Reach.state k)
          all_goals
            rename_i k
            split at h
            · cases h
            · cases h
              exact (reachRead_keepsMem ..).cast (congrArg Reach.state k)

theorem fillPiece_keepsMem (s : State) (p : PartId) (key : Nat) (n : Nat) : Keeps s (fillPiece s p key n) := by
  unfold fillPiece
  exact Keeps.foldl (fun u e => fillWord_keepsMem ..) _

theorem enginePut_keepsMem (s : State) (key : Nat) (b : List Byte) : Keeps s (enginePut s key b) := by
  unfold enginePut
  exact (State.writeMemBytes_keepsMem ..).trans (State.wholeWords_keepsMem ..)

theorem engineWrite_keepsMem (p : PartId) (c : Coll) (id : Word) (w : PageWriter) (fill : Bool) (l : List (Word × Nat)) (b : List Byte)
    (s : State) : Keeps s (engineWrite p c id w fill l b s) := by
  have hp (key n : Nat) (b : List Byte) (u : State) :
      Keeps u (if fill then fillPiece (enginePut u key (b.take n)) p key n else enginePut u key (b.take n)) :=
    .ite ((enginePut_keepsMem ..).trans (fillPiece_keepsMem ..)) (enginePut_keepsMem ..)
  have hr (s : State) (l : Leaf) (a : Nat) : Keeps s (reachWrite s p l a w).state := reachWrite_keepsMem ..
  obtain ⟨F, hF⟩ : ∃ F, F = engineWrite := ⟨_, rfl⟩
  rw [← hF]
  delta engineWrite engineWrite._f at hF
  obtain ⟨R, hR⟩ : ∃ R, R = reachWrite := ⟨_, rfl⟩
  rw [← hR] at hF hr
  obtain ⟨W, hW⟩ : ∃ W, W = windowKey := ⟨_, rfl⟩
  rw [← hW] at hF
  have hc (x : Word) (n : Nat) (l : List (Word × Nat)) (b : List Byte) (s : State) :
      ∃ u, F p c id w fill ((x, n) :: l) b s = F p c id w fill l (b.drop n) u ∧ Keeps s u := by
    subst hF
    refine ⟨_, rfl, ?_⟩
    dsimp only
    split
    · split
      · exact (State.sramAt_keepsMem ..).trans (hp ..)
      · exact .refl
    · split
      · exact .refl
      · split
        · rename_i u h
          have hu : Keeps s u := (hr ..).cast (congrArg Reach.state h)
          exact hu.trans (hp ..)
        · rename_i u h
          have hu : Keeps s u := (hr ..).cast (congrArg Reach.state h)
          exact hu.trans (hp ..)
        · rename_i u h
          have hu : Keeps s u := (hr ..).cast (congrArg Reach.state h)
          exact .ite (hu.trans (postRecord_keepsMem ..)) hu
  induction l generalizing b s with
  | nil =>
    subst hF
    exact .refl
  | cons e l ih =>
    obtain ⟨u, h, k⟩ := hc e.1 e.2 l b s
    exact .cast (k.trans (ih ..)) h.symm

theorem sendBlock_keepsMem (s : State) (p : PartId) (c : Coll) (data : List Byte) (r : Nat) (peer : BitVec 16 × PartId) :
    Keeps s (sendBlock s p c data r peer) := by
  unfold sendBlock
  dsimp only
  split
  · exact .refl
  · split
    · split
      · exact (State.modPart_keepsMem ..).trans (State.push_keepsMem ..)
      · exact (State.modPart_keepsMem ..).trans (State.with_portOut_keepsMem ..)
    · split
      · exact State.push_keepsMem ..
      · exact State.with_portOut_keepsMem ..

theorem takeBlock_keepsMem (s : State) (p : PartId) (m : CollMsg) : Keeps s (takeBlock s p m) := by
  unfold takeBlock
  dsimp only
  split
  · exact State.modPart_keepsMem ..
  · split
    · exact (State.modPart_keepsMem ..).trans (State.push_keepsMem ..)
    · exact State.modPart_keepsMem ..

theorem takeMiss_keepsMem (s : State) (p : PartId) (m : CollMsg) (rank : Nat) : Keeps s (takeMiss s p m rank) := by
  unfold takeMiss
  split
  · exact missRank_keepsMem ..
  · split
    · exact State.modPart_keepsMem ..
    · exact .refl

theorem takeEarly_keepsMem (s : State) (p : PartId) (c : Coll) : Keeps s (takeEarly s p c) := by
  unfold takeEarly
  dsimp only
  refine Keeps.foldl (fun u e => ?_) _
  split
  · exact .refl
  · split
    · refine .trans ?_ ((State.modPart_keepsMem ..).trans (takeMiss_keepsMem ..))
      split
      · exact (State.modPart_keepsMem ..).trans (takeBlock_keepsMem ..)
      · exact .refl
    · split
      · exact (State.modPart_keepsMem ..).trans (takeBlock_keepsMem ..)
      · exact .refl

theorem arrived_keepsMem (s : State) (p : PartId) (m : CollMsg) : Keeps s (arrived s p m) := by
  unfold arrived
  split
  · exact takeMiss_keepsMem ..
  · split
    · exact State.modPart_keepsMem ..
    · exact takeBlock_keepsMem ..

theorem execCollContribution_keepsMem (p : PartId) (m : CollMsg) (s : State) : Keeps s (outState s (execCollContribution p m s)) := by
  unfold execCollContribution
  dsimp only
  split
  · exact arrived_keepsMem ..
  · split
    · exact .refl
    · split
      · exact arrived_keepsMem ..
      · split
        · exact holdInput_keepsMem ..
        · rename_i h3
          exact (((takeInput_keepsMem ..).some h3).trans (blkArrives_keepsMem ..)).trans (arrived_keepsMem ..)

theorem keepStatus_keepsMem (s : State) (p : PartId) (seq : Nat) (v : Word) : Keeps s (keepStatus s p seq v) := .of_mem rfl

theorem nextColl_keepsMem (s : State) (p : PartId) : Keeps s (nextColl s p) := .of_mem rfl

theorem missGone_keepsMem (s : State) (p : PartId) (seq : BitVec 22) : Keeps s (missGone s p seq) := by
  unfold missGone
  split
  · split
    · exact (missRank_keepsMem ..).trans (tellMissing_keepsMem ..)
    · exact .refl
  · exact .refl

theorem startColl_keepsMem (s : State) (p : PartId) (c : Coll) : Keeps s (startColl s p c) := by
  unfold startColl
  dsimp only
  refine .trans ?_ ((takeEarly_keepsMem ..).trans (missGone_keepsMem ..))
  split
  · exact (nextColl_keepsMem ..).trans (State.modPart_keepsMem ..)
  · rename_i h1
    refine (((nextColl_keepsMem ..).trans (State.modPart_keepsMem ..)).trans ((engineRead_keepsMem ..).some h1)).trans
      (Keeps.foldl (fun u e => ?_) _)
    split
    · exact takeBlock_keepsMem ..
    · exact sendBlock_keepsMem ..

theorem enqueueColl_keepsMem (d : Reg) (lat : Nat) (c : Option Coll) (r : TRef) (t : Thread) (s : State) :
    Keeps s (enqueueColl d lat c r t s).state := by
  have hs (f : Thread → Thread) : Keeps s (s.modThread r f) := State.modThread_keepsMem ..
  have hp (c : Prop) [Decidable c] (u : State) (x : Except Res State) (h : (if c then passPoint u r t 3 else .ok u) = x) :
      Keeps u (checkState (fun u => u) x) := by
    subst h
    split
    · exact passPoint_keepsMem ..
    · exact .refl
  unfold enqueueColl
  dsimp only
  refine (hs _).trans (fenced_keepsMem fun _ => ?_)
  split
  · exact .refl
  · split
    · exact (nextColl_keepsMem ..).trans (keepStatus_keepsMem ..)
    · split
      · rename_i h
        exact (hp _ _ _ h).error rfl
      · rename_i h
        exact ((hp _ _ _ h).ok rfl).trans (startColl_keepsMem ..)

theorem checkColl_keepsMem (s : State) (r : TRef) (t : Thread) (a : Word) :
    Keeps s (checkState (fun x => x.2.2) (checkColl s r t a)) := by
  unfold checkColl
  dsimp only
  split
  · rename_i h0
    exact (checkRecord_keepsMem ..).error h0
  · rename_i h0
    split
    · rename_i h1
      exact ((checkRecord_keepsMem ..).ok h0).trans ((readRecord_keepsMem ..).error h1)
    · rename_i h1
      split
      · rename_i h2
        refine .trans ?_ ((checkRanges_keepsMem ..).error h2)
        split
        · exact (((checkRecord_keepsMem ..).ok h0).trans ((readRecord_keepsMem ..).ok h1)).trans (readGroup_keepsMem ..)
        · dsimp only
          exact ((checkRecord_keepsMem ..).ok h0).trans ((readRecord_keepsMem ..).ok h1)
      · rename_i h2
        split
        · split
          all_goals
            refine .trans ?_ ((checkRanges_keepsMem ..).ok h2)
            split
            all_goals exact (((checkRecord_keepsMem ..).ok h0).trans ((readRecord_keepsMem ..).ok h1)).trans (readGroup_keepsMem ..)
        · split
          all_goals
            refine .trans ?_ ((checkRanges_keepsMem ..).ok h2)
            split
            · exact (((checkRecord_keepsMem ..).ok h0).trans ((readRecord_keepsMem ..).ok h1)).trans (readGroup_keepsMem ..)
            · dsimp only
              exact ((checkRecord_keepsMem ..).ok h0).trans ((readRecord_keepsMem ..).ok h1)

theorem execColl_keepsMem (d : Reg) (a : Src) (s : State) : Keeps s (outState s (execColl d a s)) := by
  unfold execColl
  refine runWord_keepsMem (fun _ _ _ => ?_)
  split
  · exact enqueueColl_keepsMem ..
  · split
    · exact .refl
    · split
      · rename_i h3
        exact (checkColl_keepsMem ..).error h3
      · rename_i h3
        exact ((checkColl_keepsMem ..).ok h3).trans (enqueueColl_keepsMem ..)

theorem execCollw_keepsMem (d : Reg) (a : Src) (s : State) : Keeps s (outState s (execCollw d a s)) := by
  unfold execCollw
  dsimp only
  refine runWord_keepsMem (fun _ _ _ => ?_)
  split
  · exact .refl
  · split
    all_goals exact .refl

theorem endColl_keepsMem (s : State) (p : PartId) (c : Coll) (v : Word) : Keeps s (endColl s p c v) := .of_mem rfl

theorem collHeld_keepsMem (s : State) (p : PartId) (c : Coll) (w : PageWriter) : Keeps s (optState s (fun u => u) (collHeld s p c w)) :=
  .findSome (fun _ => pageWait_keepsMem ..) _

theorem execCollComplete_keepsMem (p : PartId) (id : BitVec 22) (s : State) : Keeps s (outState s (execCollComplete p id s)) := by
  unfold execCollComplete
  dsimp only
  split
  · exact .refl
  · split
    · exact endColl_keepsMem ..
    · split
      · rename_i h2
        exact ((collHeld_keepsMem ..).some h2).trans (State.holdBack_keepsMem ..)
      · refine .trans ?_ ((((engineWrite_keepsMem ..).trans (engineWrite_keepsMem ..)).trans (engineWrite_keepsMem ..)).trans
          (endColl_keepsMem ..))
        split
        · exact State.with_free_keepsMem ..
        · exact .refl

theorem failColl_keepsMem (s : State) (p : PartId) (c : Coll) (rank : Nat) : Keeps s (failColl s p c rank) := by
  unfold failColl
  dsimp only
  split
  · rename_i h0
    exact ((collHeld_keepsMem ..).some h0).trans (State.holdBack_keepsMem ..)
  · exact ((engineWrite_keepsMem ..).trans (State.with_free_keepsMem ..)).trans (endColl_keepsMem ..)

theorem execCollTimeout_keepsMem (p : PartId) (id : BitVec 22) (s : State) : Keeps s (outState s (execCollTimeout p id s)) := by
  unfold execCollTimeout
  split
  · exact .refl
  · split
    · exact failColl_keepsMem ..
    · split
      · exact (missRank_keepsMem ..).trans (tellMissing_keepsMem ..)
      · exact .refl

theorem failRemoteBeat_keepsMem (s : State) (p : PartId) (c : CoreId) (modid : BitVec 16) (q : PartId) :
    Keeps s (failRemoteBeat s p c modid q) := by
  unfold failRemoteBeat
  dsimp only
  split
  · split
    · exact .refl
    · split
      · exact ((leaveBytes_keepsMem ..).trans (failBeat_keepsMem ..)).trans (passBeat_keepsMem ..)
      · split
        · exact ((leaveBytes_keepsMem ..).trans (failBeat_keepsMem ..)).trans (passBeat_keepsMem ..)
        · exact .refl
  · exact .refl

theorem unreachableFrom_keepsMem (s : State) (p : PartId) (modid : BitVec 16) (q : PartId) : Keeps s (unreachableFrom s p modid q) := by
  unfold unreachableFrom
  dsimp only
  exact (State.pushAll_keepsMem ..).trans (Keeps.foldl (fun u e => failRemoteBeat_keepsMem ..) _)

theorem execDestinationUnreachable_keepsMem (modid : BitVec 16) (q : PartId) (s : State) :
    Keeps s (outState s (execDestinationUnreachable modid q s)) := by
  unfold execDestinationUnreachable
  exact (Keeps.foldl (fun u e => (unreachableFrom_keepsMem ..).trans (State.modPart_keepsMem ..)) _).trans (ranksGone_keepsMem ..)

/-! ## Machine/Control -/

theorem execNop_keepsMem (s : State) : Keeps s (outState s (execNop s)) := by
  unfold execNop
  exact runPure_keepsMem ..

theorem execB_keepsMem (off : BitVec 20) (s : State) : Keeps s (outState s (execB off s)) := by
  unfold execB
  exact runWord_keepsMem (fun x0 x1 x2 => takeTarget_keepsMem ..)

theorem execCall_keepsMem (off : BitVec 20) (s : State) : Keeps s (outState s (execCall off s)) := by
  unfold execCall
  exact runWord_keepsMem (fun x0 x1 x2 => takeTarget_keepsMem ..)

theorem branchWord_keepsMem (cond : Word → Bool) (a : Src) (off : BitVec 15) (s : State) :
    Keeps s (outState s (branchWord cond a off s)) := by
  unfold branchWord
  refine runWord_keepsMem (fun _ _ _ => ?_)
  split
  · exact takeTarget_keepsMem ..
  · exact .refl

theorem execBz_keepsMem (a : Src) (off : BitVec 15) (s : State) : Keeps s (outState s (execBz a off s)) := by
  unfold execBz
  exact branchWord_keepsMem ..

theorem execBnz_keepsMem (a : Src) (off : BitVec 15) (s : State) : Keeps s (outState s (execBnz a off s)) := by
  unfold execBnz
  exact branchWord_keepsMem ..

theorem execBcc_keepsMem (c : BrCc) (a : Src) (off : BitVec 15) (s : State) : Keeps s (outState s (execBcc c a off s)) := by
  unfold execBcc
  exact branchWord_keepsMem ..

theorem execJmp_keepsMem (a : Src) (s : State) : Keeps s (outState s (execJmp a s)) := by
  unfold execJmp
  exact runWord_keepsMem (fun x0 x1 x2 => takeRegTarget_keepsMem ..)

theorem execCallr_keepsMem (a : Src) (s : State) : Keeps s (outState s (execCallr a s)) := by
  unfold execCallr
  exact runWord_keepsMem (fun x0 x1 x2 => takeRegTarget_keepsMem ..)

theorem execBlk_keepsMem (sig : BitVec 12) (dig : BitVec 12) (s : State) : Keeps s (outState s (execBlk sig dig s)) := by
  unfold execBlk
  dsimp only
  refine runWord_keepsMem (fun _ _ _ => ?_)
  split
  · split
    · refine .trans ?_ (((State.traceCond_keepsMem ..).trans (postRecord_keepsMem ..)).trans (State.modThread_keepsMem ..))
      split
      · exact State.count_keepsMem ..
      · exact .refl
    · refine .trans ?_ ((State.traceCond_keepsMem ..).trans (fatalPark_keepsMem ..))
      split
      · exact State.count_keepsMem ..
      · exact .refl
  · refine .trans ?_ (State.modThread_keepsMem ..)
    split
    · exact State.count_keepsMem ..
    · exact .refl

/-! ## Machine/Integer -/

theorem aluWord_keepsMem (srcs : List Src) (d : Reg) (f : Thread → Word) (s : State) : Keeps s (outState s (aluWord srcs d f s)) := by
  unfold aluWord
  exact runPure_keepsMem ..

theorem alu3_keepsMem (f : Word → Word → Word) (d : Reg) (a : Src) (b : Src) (s : State) : Keeps s (outState s (alu3 f d a b s)) := by
  unfold alu3
  exact aluWord_keepsMem ..

theorem alu2_keepsMem (f : Word → Word) (d : Reg) (a : Src) (s : State) : Keeps s (outState s (alu2 f d a s)) := by
  unfold alu2
  exact aluWord_keepsMem ..

theorem divWord_keepsMem (signed : Bool) (f : Word → Word → Word) (d : Reg) (a : Src) (b : Src) (s : State) :
    Keeps s (outState s (divWord signed f d a b s)) := by
  unfold divWord
  exact runPure_keepsMem ..

theorem execAdd_keepsMem (d : Reg) (a : Src) (b : Src) (s : State) : Keeps s (outState s (execAdd d a b s)) := by
  unfold execAdd
  exact alu3_keepsMem ..

theorem execSub_keepsMem (d : Reg) (a : Src) (b : Src) (s : State) : Keeps s (outState s (execSub d a b s)) := by
  unfold execSub
  exact alu3_keepsMem ..

theorem execAnd_keepsMem (d : Reg) (a : Src) (b : Src) (s : State) : Keeps s (outState s (execAnd d a b s)) := by
  unfold execAnd
  exact alu3_keepsMem ..

theorem execOr_keepsMem (d : Reg) (a : Src) (b : Src) (s : State) : Keeps s (outState s (execOr d a b s)) := by
  unfold execOr
  exact alu3_keepsMem ..

theorem execXor_keepsMem (d : Reg) (a : Src) (b : Src) (s : State) : Keeps s (outState s (execXor d a b s)) := by
  unfold execXor
  exact alu3_keepsMem ..

theorem execAndn_keepsMem (d : Reg) (a : Src) (b : Src) (s : State) : Keeps s (outState s (execAndn d a b s)) := by
  unfold execAndn
  exact alu3_keepsMem ..

theorem execOrn_keepsMem (d : Reg) (a : Src) (b : Src) (s : State) : Keeps s (outState s (execOrn d a b s)) := by
  unfold execOrn
  exact alu3_keepsMem ..

theorem execShl_keepsMem (d : Reg) (a : Src) (b : Src) (s : State) : Keeps s (outState s (execShl d a b s)) := by
  unfold execShl
  exact alu3_keepsMem ..

theorem execShr_keepsMem (d : Reg) (a : Src) (b : Src) (s : State) : Keeps s (outState s (execShr d a b s)) := by
  unfold execShr
  exact alu3_keepsMem ..

theorem execSha_keepsMem (d : Reg) (a : Src) (b : Src) (s : State) : Keeps s (outState s (execSha d a b s)) := by
  unfold execSha
  exact alu3_keepsMem ..

theorem execRor_keepsMem (d : Reg) (a : Src) (b : Src) (s : State) : Keeps s (outState s (execRor d a b s)) := by
  unfold execRor
  exact alu3_keepsMem ..

theorem execMin_keepsMem (d : Reg) (a : Src) (b : Src) (s : State) : Keeps s (outState s (execMin d a b s)) := by
  unfold execMin
  exact alu3_keepsMem ..

theorem execMax_keepsMem (d : Reg) (a : Src) (b : Src) (s : State) : Keeps s (outState s (execMax d a b s)) := by
  unfold execMax
  exact alu3_keepsMem ..

theorem execMinz_keepsMem (d : Reg) (a : Src) (b : Src) (s : State) : Keeps s (outState s (execMinz d a b s)) := by
  unfold execMinz
  exact alu3_keepsMem ..

theorem execMaxz_keepsMem (d : Reg) (a : Src) (b : Src) (s : State) : Keeps s (outState s (execMaxz d a b s)) := by
  unfold execMaxz
  exact alu3_keepsMem ..

theorem execMul_keepsMem (d : Reg) (a : Src) (b : Src) (s : State) : Keeps s (outState s (execMul d a b s)) := by
  unfold execMul
  exact alu3_keepsMem ..

theorem execMulh_keepsMem (d : Reg) (a : Src) (b : Src) (s : State) : Keeps s (outState s (execMulh d a b s)) := by
  unfold execMulh
  exact alu3_keepsMem ..

theorem execMulhz_keepsMem (d : Reg) (a : Src) (b : Src) (s : State) : Keeps s (outState s (execMulhz d a b s)) := by
  unfold execMulhz
  exact alu3_keepsMem ..

theorem execDiv_keepsMem (d : Reg) (a : Src) (b : Src) (s : State) : Keeps s (outState s (execDiv d a b s)) := by
  unfold execDiv
  exact divWord_keepsMem ..

theorem execDivz_keepsMem (d : Reg) (a : Src) (b : Src) (s : State) : Keeps s (outState s (execDivz d a b s)) := by
  unfold execDivz
  exact divWord_keepsMem ..

theorem execRem_keepsMem (d : Reg) (a : Src) (b : Src) (s : State) : Keeps s (outState s (execRem d a b s)) := by
  unfold execRem
  exact divWord_keepsMem ..

theorem execRemz_keepsMem (d : Reg) (a : Src) (b : Src) (s : State) : Keeps s (outState s (execRemz d a b s)) := by
  unfold execRemz
  exact divWord_keepsMem ..

theorem execClmul_keepsMem (d : Reg) (a : Src) (b : Src) (s : State) : Keeps s (outState s (execClmul d a b s)) := by
  unfold execClmul
  exact alu3_keepsMem ..

theorem execClmulh_keepsMem (d : Reg) (a : Src) (b : Src) (s : State) : Keeps s (outState s (execClmulh d a b s)) := by
  unfold execClmulh
  exact alu3_keepsMem ..

theorem execClz_keepsMem (d : Reg) (a : Src) (s : State) : Keeps s (outState s (execClz d a s)) := by
  unfold execClz
  exact alu2_keepsMem ..

theorem execCtz_keepsMem (d : Reg) (a : Src) (s : State) : Keeps s (outState s (execCtz d a s)) := by
  unfold execCtz
  exact alu2_keepsMem ..

theorem execPopc_keepsMem (d : Reg) (a : Src) (s : State) : Keeps s (outState s (execPopc d a s)) := by
  unfold execPopc
  exact alu2_keepsMem ..

theorem execBrev_keepsMem (d : Reg) (a : Src) (s : State) : Keeps s (outState s (execBrev d a s)) := by
  unfold execBrev
  exact alu2_keepsMem ..

theorem execBswap_keepsMem (d : Reg) (a : Src) (s : State) : Keeps s (outState s (execBswap d a s)) := by
  unfold execBswap
  exact alu2_keepsMem ..

theorem execExts_keepsMem (d : Reg) (a : Src) (pos : BitVec 6) (wm1 : BitVec 6) (s : State) :
    Keeps s (outState s (execExts d a pos wm1 s)) := by
  unfold execExts
  exact alu2_keepsMem ..

theorem execExtz_keepsMem (d : Reg) (a : Src) (pos : BitVec 6) (wm1 : BitVec 6) (s : State) :
    Keeps s (outState s (execExtz d a pos wm1 s)) := by
  unfold execExtz
  exact alu2_keepsMem ..

theorem execIns_keepsMem (d : Reg) (a : Src) (pos : BitVec 6) (wm1 : BitVec 6) (s : State) :
    Keeps s (outState s (execIns d a pos wm1 s)) := by
  unfold execIns
  exact aluWord_keepsMem ..

theorem execSel_keepsMem (d : Reg) (a : Src) (b : Src) (c : Reg) (s : State) : Keeps s (outState s (execSel d a b c s)) := by
  unfold execSel
  exact aluWord_keepsMem ..

theorem execAddx_keepsMem (d : Reg) (a : Src) (b : Src) (sh : Fin 8) (s : State) : Keeps s (outState s (execAddx d a b sh s)) := by
  unfold execAddx
  exact alu3_keepsMem ..

theorem execCmp_keepsMem (cc : Cc) (d : Reg) (a : Src) (b : Src) (s : State) : Keeps s (outState s (execCmp cc d a b s)) := by
  unfold execCmp
  exact alu3_keepsMem ..

theorem execCmpi_keepsMem (cc : Cc) (d : Reg) (a : Src) (imm : BitVec 11) (s : State) : Keeps s (outState s (execCmpi cc d a imm s)) := by
  unfold execCmpi
  exact alu2_keepsMem ..

theorem execAddi_keepsMem (d : Reg) (a : Src) (imm : BitVec 15) (s : State) : Keeps s (outState s (execAddi d a imm s)) := by
  unfold execAddi
  exact alu2_keepsMem ..

theorem execAndi_keepsMem (d : Reg) (a : Src) (imm : BitVec 15) (s : State) : Keeps s (outState s (execAndi d a imm s)) := by
  unfold execAndi
  exact alu2_keepsMem ..

theorem execOri_keepsMem (d : Reg) (a : Src) (imm : BitVec 15) (s : State) : Keeps s (outState s (execOri d a imm s)) := by
  unfold execOri
  exact alu2_keepsMem ..

theorem execXori_keepsMem (d : Reg) (a : Src) (imm : BitVec 15) (s : State) : Keeps s (outState s (execXori d a imm s)) := by
  unfold execXori
  exact alu2_keepsMem ..

theorem execShli_keepsMem (d : Reg) (a : Src) (n : BitVec 6) (s : State) : Keeps s (outState s (execShli d a n s)) := by
  unfold execShli
  exact alu2_keepsMem ..

theorem execShri_keepsMem (d : Reg) (a : Src) (n : BitVec 6) (s : State) : Keeps s (outState s (execShri d a n s)) := by
  unfold execShri
  exact alu2_keepsMem ..

theorem execShai_keepsMem (d : Reg) (a : Src) (n : BitVec 6) (s : State) : Keeps s (outState s (execShai d a n s)) := by
  unfold execShai
  exact alu2_keepsMem ..

theorem execRori_keepsMem (d : Reg) (a : Src) (n : BitVec 6) (s : State) : Keeps s (outState s (execRori d a n s)) := by
  unfold execRori
  exact alu2_keepsMem ..

theorem execLi_keepsMem (d : Reg) (imm : BitVec 20) (s : State) : Keeps s (outState s (execLi d imm s)) := by
  unfold execLi
  exact aluWord_keepsMem ..

theorem execLih_keepsMem (d : Reg) (q : BitVec 2) (v : BitVec 16) (s : State) : Keeps s (outState s (execLih d q v s)) := by
  unfold execLih
  exact aluWord_keepsMem ..

/-! ## Machine/FpInstr -/

theorem fp2_keepsMem (f : Fmt) (op : Nat → Nat → FRes) (d : Reg) (a : Src) (b : Src) (s : State) :
    Keeps s (outState s (fp2 f op d a b s)) := by
  unfold fp2
  exact runPure_keepsMem ..

theorem fp3_keepsMem (f : Fmt) (op : Nat → Nat → Nat → FRes) (d : Reg) (a : Src) (b : Src) (s : State) :
    Keeps s (outState s (fp3 f op d a b s)) := by
  unfold fp3
  exact runPure_keepsMem ..

theorem execFadd_keepsMem (ty : FType) (d : Reg) (a : Src) (b : Src) (s : State) : Keeps s (outState s (execFadd ty d a b s)) := by
  unfold execFadd
  exact fp2_keepsMem ..

theorem execFsub_keepsMem (ty : FType) (d : Reg) (a : Src) (b : Src) (s : State) : Keeps s (outState s (execFsub ty d a b s)) := by
  unfold execFsub
  exact fp2_keepsMem ..

theorem execFmul_keepsMem (ty : FType) (d : Reg) (a : Src) (b : Src) (s : State) : Keeps s (outState s (execFmul ty d a b s)) := by
  unfold execFmul
  exact fp2_keepsMem ..

theorem execFma_keepsMem (ty : FType) (d : Reg) (a : Src) (b : Src) (s : State) : Keeps s (outState s (execFma ty d a b s)) := by
  unfold execFma
  exact fp3_keepsMem ..

theorem execFms_keepsMem (ty : FType) (d : Reg) (a : Src) (b : Src) (s : State) : Keeps s (outState s (execFms ty d a b s)) := by
  unfold execFms
  exact fp3_keepsMem ..

theorem execFnma_keepsMem (ty : FType) (d : Reg) (a : Src) (b : Src) (s : State) : Keeps s (outState s (execFnma ty d a b s)) := by
  unfold execFnma
  exact fp3_keepsMem ..

theorem execFdiv_keepsMem (ty : FType) (d : Reg) (a : Src) (b : Src) (s : State) : Keeps s (outState s (execFdiv ty d a b s)) := by
  unfold execFdiv
  dsimp only
  exact runPure_keepsMem ..

theorem execFsqrt_keepsMem (ty : FType) (d : Reg) (a : Src) (s : State) : Keeps s (outState s (execFsqrt ty d a s)) := by
  unfold execFsqrt
  dsimp only
  exact runPure_keepsMem ..

theorem execFmin_keepsMem (ty : FType) (d : Reg) (a : Src) (b : Src) (s : State) : Keeps s (outState s (execFmin ty d a b s)) := by
  unfold execFmin
  exact fp2_keepsMem ..

theorem execFmax_keepsMem (ty : FType) (d : Reg) (a : Src) (b : Src) (s : State) : Keeps s (outState s (execFmax ty d a b s)) := by
  unfold execFmax
  exact fp2_keepsMem ..

theorem execFsgn_keepsMem (ty : FType) (d : Reg) (a : Src) (b : Src) (s : State) : Keeps s (outState s (execFsgn ty d a b s)) := by
  unfold execFsgn
  exact fp2_keepsMem ..

theorem execFclass_keepsMem (ty : FType) (d : Reg) (a : Src) (s : State) : Keeps s (outState s (execFclass ty d a s)) := by
  unfold execFclass
  exact runPure_keepsMem ..

theorem execFcmp_keepsMem (ty : FType) (cc : FCc) (d : Reg) (a : Src) (b : Src) (s : State) :
    Keeps s (outState s (execFcmp ty cc d a b s)) := by
  unfold execFcmp
  dsimp only
  exact runPure_keepsMem ..

theorem execFcvt_keepsMem (dst : CType) (src : CType) (d : Reg) (a : Src) (s : State) :
    Keeps s (outState s (execFcvt dst src d a s)) := by
  unfold execFcvt
  refine runWord_keepsMem (fun _ _ _ => ?_)
  split
  all_goals exact .refl

theorem execFcvti_keepsMem (src : FType) (it : IType) (rm : RMode) (d : Reg) (a : Src) (s : State) :
    Keeps s (outState s (execFcvti src it rm d a s)) := by
  unfold execFcvti
  dsimp only
  exact runPure_keepsMem ..

theorem execFcvtf_keepsMem (dst : FType) (it : IType) (d : Reg) (a : Src) (s : State) :
    Keeps s (outState s (execFcvtf dst it d a s)) := by
  unfold execFcvtf
  exact runPure_keepsMem ..

/-! ## Machine/Fetch -/

theorem windowLine_keepsMem (s : State) (r : TRef) (pc : Word) (held : Option CodeLine) :
    Keeps s (checkState (fun x => x.2) (windowLine s r pc held)) := by
  refine .generic fun P hP => ?_
  obtain ⟨F, hF⟩ : ∃ F, F = windowLine := ⟨_, rfl⟩
  rw [← hF]
  delta windowLine at hF
  rw [hF]
  beta_reduce
  split
  · exact hP _ .refl
  · split
    · exact hP _ .refl
    · split
      · exact hP _ .refl
      · exact hP _ (State.sramAt_keepsMem ..)

theorem homeCode_keepsMem (s : State) (r : TRef) (t : Thread) (pc : Word) : Keeps s (checkState (fun x => x.2) (homeCode s r t pc)) := by
  unfold homeCode
  dsimp only
  split
  · rename_i h0
    dsimp only [checkState]
    exact (reachHome_keepsMem ..).error h0
  · rename_i h0
    split
    · dsimp only [checkState]
      split
      · exact ((reachHome_keepsMem ..).ok h0).trans (State.revokeAll_keepsMem ..)
      · exact (((reachHome_keepsMem ..).ok h0).trans (State.revokeAll_keepsMem ..)).trans (homeRead_keepsMem ..)
    · split
      · split
        · dsimp only [checkState]
          exact ((reachHome_keepsMem ..).ok h0).trans (State.revokeAll_keepsMem ..)
        · dsimp only [checkState]
          exact (((reachHome_keepsMem ..).ok h0).trans (State.revokeAll_keepsMem ..)).trans (State.modCoreC_keepsMem ..)
      · split
        · dsimp only [checkState]
          exact (((reachHome_keepsMem ..).ok h0).trans (State.revokeAll_keepsMem ..)).trans (homeRead_keepsMem ..)
        · dsimp only [checkState]
          exact ((((reachHome_keepsMem ..).ok h0).trans (State.revokeAll_keepsMem ..)).trans (homeRead_keepsMem ..)).trans
            (State.modCoreC_keepsMem ..)

theorem fetchLine_keepsMem (s : State) (r : TRef) (t : Thread) (pc : Word) :
    Keeps s (checkState (fun x => x.2) (fetchLine s r t pc)) := by
  unfold fetchLine
  dsimp only
  split
  · exact .refl
  · split
    · exact .refl
    · split
      · exact windowLine_keepsMem ..
      · split
        · rename_i h3
          exact (protect_keepsMem ..).error h3
        · rename_i h3
          split
          · exact (protect_keepsMem ..).ok h3
          · split
            · exact (protect_keepsMem ..).ok h3
            · split
              · exact (protect_keepsMem ..).ok h3
              · exact ((protect_keepsMem ..).ok h3).trans (homeCode_keepsMem ..)

theorem fetchBundle_keepsMem (s : State) (r : TRef) (t : Thread) : Keeps s (checkState (fun x => x.2.2) (fetchBundle s r t)) := by
  unfold fetchBundle
  dsimp only
  split
  · rename_i h0
    exact (fetchLine_keepsMem ..).error h0
  · rename_i h0
    split
    all_goals
      exact ((fetchLine_keepsMem ..).ok h0).trans (State.modThread_keepsMem ..)

end Sys2Proof.Machine
end

section
/-! SUPPORT. The memory's form through snapshots and the system words: one lemma per function. -/
namespace Sys2Proof.Machine

/-! ## Machine/Snapshot -/

theorem modSnap_keepsMem (s : State) (p : PartId) (f : SnapSt → SnapSt) : Keeps s (modSnap s p f) := .of_mem rfl

theorem execSnap_keepsMem (d : Reg) (s : State) : Keeps s (outState s (execSnap d s)) := by
  unfold execSnap
  dsimp only
  refine runWord_keepsMem (fun _ _ _ => ?_)
  split
  · exact .refl
  · refine fenced_keepsMem (fun _ => ?_)
    split
    · exact .refl
    · exact (modSnap_keepsMem ..).trans (State.after_keepsMem ..)

theorem execSnapq_keepsMem (d : Reg) (a : Src) (s : State) : Keeps s (outState s (execSnapq d a s)) := by
  unfold execSnapq
  dsimp only
  exact runWord_keepsMem (fun x0 x1 x2 => .refl)

theorem markChannel_keepsMem (s : State) (p : PartId) (m : MarkerMsg) : Keeps s (markChannel s p m) := .of_mem rfl

theorem beginPulse_keepsMem (s : State) (p : PartId) (m : MarkerMsg) : Keeps s (beginPulse s p m) := by
  unfold beginPulse
  dsimp only
  exact (State.modThreads_keepsMem ..).trans (modSnap_keepsMem ..)

theorem discardMarker_keepsMem (s : State) (p : PartId) (m : MarkerMsg) : Keeps s (discardMarker s p m) := by
  unfold discardMarker
  split
  · exact modSnap_keepsMem ..
  · exact .refl

theorem execMarker_keepsMem (p : PartId) (m : MarkerMsg) (s : State) : Keeps s (outState s (execMarker p m s)) := by
  unfold execMarker
  dsimp only
  split
  · exact .refl
  · split
    · exact State.holdBack_keepsMem ..
    · split
      · exact discardMarker_keepsMem ..
      · split
        · split
          · exact markChannel_keepsMem ..
          · split
            · exact holdInput_keepsMem ..
            · exact (beginPulse_keepsMem ..).trans (markChannel_keepsMem ..)
        · split
          · exact (markChannel_keepsMem ..).trans (endRecording_keepsMem ..)
          · exact discardMarker_keepsMem ..

theorem execCapturePulse_keepsMem (p : PartId) (s : State) : Keeps s (outState s (execCapturePulse p s)) := by
  unfold execCapturePulse
  dsimp only
  split
  · exact (modSnap_keepsMem ..).trans (State.modPart_keepsMem ..)
  · exact .refl

theorem setSnaps_keepsMem (s : State) (l : List Leaf) (v : Nat) : Keeps s (setSnaps s l v) := by
  unfold setSnaps
  exact Keeps.foldl (fun u e => setSnap_keepsMem ..) _

theorem sendMarkers_keepsMem (s : State) (p : PartId) (k : Nat) : Keeps s (sendMarkers s p k) := by
  unfold sendMarkers
  dsimp only
  refine Keeps.foldl (fun u e => ?_) _
  split
  · exact State.push_keepsMem ..
  · split
    · exact State.with_portOut_keepsMem ..
    · exact .refl

theorem dropTranslations_keepsMem (s : State) (p : PartId) : Keeps s (dropTranslations s p) := by
  unfold dropTranslations
  exact (Keeps.foldl (fun u e => State.modCoreC_keepsMem ..) _).trans (State.modPart_keepsMem ..)

theorem flipColour_keepsMem (s : State) (p : PartId) : Keeps s (flipColour s p) := .of_mem rfl

theorem takeCut_keepsMem (s : State) (p : PartId) : Keeps s (takeCut s p) := by
  unfold takeCut
  dsimp only
  exact ((((((((setSnaps_keepsMem ..).trans (flipColour_keepsMem ..)).trans (dropTranslations_keepsMem ..)).trans
    (State.modRegs_keepsMem ..)).trans (setSnapState_keepsMem ..)).trans (modSnap_keepsMem ..)).trans
    (Keeps.foldl (fun u e => sendMarkers_keepsMem ..) _)).trans (modSnap_keepsMem ..)).trans (State.pushAll_keepsMem ..)

theorem execSnapshotCut_keepsMem (p : PartId) (s : State) : Keeps s (outState s (execSnapshotCut p s)) := by
  unfold execSnapshotCut
  dsimp only
  split
  · exact takeCut_keepsMem ..
  · exact .refl

theorem copyCells_keepsMem (s : State) (src dst n : Nat) : Keeps s (copyCells s src dst n) :=
  .of_wf fun h => memFold_wf _ (fun _ _ hm => memSetByte_wf _ _ hm) _ (memFilter_wf _ h)

theorem copyFull_keepsMem (s : State) (src : Nat) (dst : Nat) (n : Nat) (stuck : List Nat) :
    Keeps s (copyFull s src dst n stuck) := .of_mem rfl

theorem copyPage_keepsMem (s : State) (src : Nat) (dst : Nat) (n : Nat) : Keeps s (copyPage s src dst n) := by
  unfold copyPage
  exact (copyCells_keepsMem ..).trans (copyFull_keepsMem ..)

theorem imageSteep_keepsMem (s : State) (p : PartId) : Keeps s (imageSteep s p) := by
  unfold imageSteep
  dsimp only
  exact (Keeps.foldl (fun u e => State.combineOld_keepsMem ..) _).trans (Keeps.foldl (fun u e => (State.wipeRange_keepsMem ..).trans
    (copyPage_keepsMem ..)) _)

theorem releaseHeld_keepsMem (s : State) (p : PartId) : Keeps s (releaseHeld s p) := .of_mem rfl

theorem execCaptureResume_keepsMem (p : PartId) (s : State) : Keeps s (outState s (execCaptureResume p s)) := by
  unfold execCaptureResume
  split
  · exact .refl
  · exact (((imageSteep_keepsMem ..).trans (modSnap_keepsMem ..)).trans (endRecording_keepsMem ..)).trans (releaseHeld_keepsMem ..)

theorem pageCopied_keepsMem (s : State) (p : PartId) (l : Leaf) (frame : Option Nat) : Keeps s (pageCopied s p l frame) := by
  unfold pageCopied
  exact (setSnap_keepsMem ..).trans (modSnap_keepsMem ..)

theorem copyCaptured_keepsMem (s : State) (p : PartId) (page : Nat) : Keeps s (copyCaptured s p page) := by
  unfold copyCaptured
  dsimp only
  split
  · exact .refl
  · split
    · exact .refl
    · split
      · exact .refl
      · split
        · exact .refl
        · exact ((collectRange_keepsMem ..).trans (copyPage_keepsMem ..)).trans (pageCopied_keepsMem ..)

theorem execPageCopy_keepsMem (p : PartId) (page : Nat) (s : State) : Keeps s (outState s (execPageCopy p page s)) := by
  unfold execPageCopy
  exact copyCaptured_keepsMem ..

theorem placeObject_keepsMem (s : State) (r : PRegs) (p : PartId) (src : Nat) (unit : Nat) (n : Nat) :
    Keeps s (placeObject s r p src unit n) := by
  unfold placeObject
  dsimp only
  exact Keeps.foldl (fun u e => (collectRange_keepsMem ..).trans (copyCells_keepsMem ..)) _

theorem laySram_keepsMem (s : State) (p : PartId) (k : Nat) (x : SnapImage) : Keeps s (laySram s p k x) :=
  .of_wf fun h => setBits_wf _ _ (memFold_wf _ (fun _ _ hm => memSetByte_wf _ _ hm) _ h)

theorem writePages_keepsMem (r : PRegs) (p : PartId) (n : Nat) (pl : SnapPlan) (l : List PageImage) (i : Nat) (s : State) :
    Keeps s (writePages r p n pl l i s) := by
  induction l generalizing i s with
  | nil => exact .refl
  | cons x l ih =>
    rw [writePages]
    exact ((((((collectRange_keepsMem ..).trans (copyCells_keepsMem ..)).trans (collectRange_keepsMem ..)).trans
      (State.writeMemBytes_keepsMem ..)).trans (State.keepLines_keepsMem ..)).trans (State.writeMemBytes_keepsMem ..)).trans (ih ..)

theorem endCapture_keepsMem (s : State) (p : PartId) (v : Nat) : Keeps s (endCapture s p v) := by
  unfold endCapture
  dsimp only
  exact (((setSnaps_keepsMem ..).trans (Keeps.foldl (fun u e => State.wipeRange_keepsMem ..) _)).trans (modSnap_keepsMem ..)).trans
    (releaseHeld_keepsMem ..)

theorem sendNotice_keepsMem (s : State) (p : PartId) (n : Nat) (ok : Bool) : Keeps s (sendNotice s p n ok) := by
  unfold sendNotice
  dsimp only
  split
  · exact State.push_keepsMem ..
  · split
    · exact State.with_portOut_keepsMem ..
    · exact .refl

theorem writeObjects_keepsMem (s : State) (p : PartId) (x : SnapImage) (pl : SnapPlan) : Keeps s (writeObjects s p x pl).1 := by
  unfold writeObjects
  dsimp only
  exact (((((((((((((writeWorld_keepsMem ..).trans (placeObject_keepsMem ..)).trans (State.wipeRange_keepsMem ..)).trans
    (State.writeMemBytes_keepsMem ..)).trans (placeObject_keepsMem ..)).trans (State.wipeRange_keepsMem ..)).trans
    (laySram_keepsMem ..)).trans (placeObject_keepsMem ..)).trans (State.wipeRange_keepsMem ..)).trans (writePages_keepsMem ..)).trans
    (State.writeMemBytes_keepsMem ..)).trans (State.writeMemBytes_keepsMem ..)).trans (placeObject_keepsMem ..)).trans
    (State.wipeRange_keepsMem ..)

theorem failSnapshot_keepsMem (s : State) (p : PartId) : Keeps s (failSnapshot s p) := by
  unfold failSnapshot
  dsimp only
  exact (((setSnapState_keepsMem ..).trans (endCapture_keepsMem ..)).trans (State.hostEvent_keepsMem ..)).trans (sendNotice_keepsMem ..)

theorem execSnapshotWriter_keepsMem (p : PartId) (s : State) : Keeps s (outState s (execSnapshotWriter p s)) := by
  unfold execSnapshotWriter
  dsimp only
  split
  · exact .refl
  · split
    · exact .refl
    · split
      · exact failSnapshot_keepsMem ..
      · refine .trans ?_ ((((modSnap_keepsMem ..).trans (setSnapState_keepsMem ..)).trans (endCapture_keepsMem ..)).trans
          (sendNotice_keepsMem ..))
        split
        · exact ((writeObjects_keepsMem ..).trans (State.modRegs_keepsMem ..)).trans (State.modPart_keepsMem ..)
        · exact (writeObjects_keepsMem ..).trans (State.modRegs_keepsMem ..)

theorem execSnapshotNotice_keepsMem (p : PartId) (srcMod : BitVec 16) (src : PartId) (n : Nat) (ok : Bool) (s : State) :
    Keeps s (outState s (execSnapshotNotice p srcMod src n ok s)) := by
  unfold execSnapshotNotice
  split
  · exact .refl
  · exact modSnap_keepsMem ..

theorem unitWrite_keepsMem (s : State) (p : PartId) (a : Word) (w : Instr) : Keeps s (unitWrite s p a w).state := by
  refine .generic fun P hP => ?_
  obtain ⟨F, hF⟩ : ∃ F, F = unitWrite := ⟨_, rfl⟩
  rw [← hF]
  delta unitWrite at hF
  rw [hF]
  beta_reduce
  obtain ⟨G0, hG0⟩ : ∃ G, G = atHome := ⟨_, rfl⟩
  rw [← hG0]
  split
  · exact hP _ (listTable_keepsMem ..)
  · split
    · rename_i h1
      rw [hG0] at h1
      exact hP _ ((atHome_keepsMem ..).left h1)
    · rename_i h1
      rw [hG0] at h1
      exact hP _ ((atHome_keepsMem ..).right h1)

theorem setRestore_keepsMem (s : State) (p : PartId) (v : Nat) : Keeps s (setRestore s p v) := .of_mem rfl

theorem restorePage_keepsMem (s : State) (p : PartId) (l : Leaf) (fullOff : Nat) (e : ManEntry) :
    Keeps s (optState s (fun u => u) (restorePage s p l fullOff e)) := by
  refine .generic fun P hP => ?_
  unfold restorePage
  dsimp only
  split
  · exact hP _ .refl
  · exact hP _ ((((collectRange_keepsMem ..).trans (copyCells_keepsMem ..)).trans
      (.foldl (fun _ _ => State.setFullBit_keepsMem ..) _)).trans
      (setSnap_keepsMem ..))

theorem restorePages_keepsMem (p : PartId) (chain : List Manifest) (n : Nat) (l : List (Nat × Leaf)) (s : State) :
    Keeps s (restorePages p chain n l s).2 := by
  have hr (s : State) (l : Leaf) (f : Nat) (e : ManEntry) : Keeps s (optState s (fun u => u)
    (restorePage s p l f e)) := restorePage_keepsMem ..
  obtain ⟨F, hF⟩ : ∃ F, F = restorePages := ⟨_, rfl⟩
  rw [← hF]
  delta restorePages restorePages._f at hF
  obtain ⟨R, e⟩ : ∃ R, R = restorePage := ⟨_, rfl⟩
  rw [← e] at hF hr
  have hc (e : Nat × Leaf) (l : List (Nat × Leaf)) (s : State) : F p chain n (e :: l) s =
      match newestVersion chain n e.1 with
      | none => F p chain n l s
      | some (f, x) =>
        match R s p e.2 f x with
        | some s => F p chain n l s
        | none => (false, s) := by
    subst hF
    rfl
  induction l generalizing s with
  | nil =>
    subst hF
    exact .refl
  | cons e l ih =>
    rw [hc]
    split
    · exact ih _
    · split
      · rename_i h
        exact ((hr ..).some h).trans (ih _)
      · exact .refl

theorem loadSram_keepsMem (s : State) (p : PartId) (x : SnapImage) : Keeps s (loadSram s p x) :=
  (State.wipeRange_keepsMem ..).trans (.of_wf fun h => restoreBytes_wf _ h)

theorem finishRestore_keepsMem (s : State) (p : PartId) (m : Manifest) (unit : Nat) : Keeps s (finishRestore s p m unit) := by
  unfold finishRestore
  dsimp only
  exact (((((loadSram_keepsMem ..).trans (writeArea_keepsMem ..)).trans (State.modPart_keepsMem ..)).trans
    (State.modRegs_keepsMem ..)).trans (modSnap_keepsMem ..)).trans (setRestore_keepsMem ..)

theorem writeSnaprst_keepsMem (s : State) (p : PartId) (v : Word) : Keeps s (writeSnaprst s p v) := by
  unfold writeSnaprst
  dsimp only
  split
  · exact State.modRegs_keepsMem ..
  · split
    · exact (State.modRegs_keepsMem ..).trans (setRestore_keepsMem ..)
    · exact ((State.modRegs_keepsMem ..).trans (setRestore_keepsMem ..)).trans (State.push_keepsMem ..)

theorem execSnaprstGo_keepsMem (p : PartId) (v : Word) (s : State) : Keeps s (outState s (execSnaprstGo p v s)) := by
  unfold execSnaprstGo
  exact writeSnaprst_keepsMem ..

theorem execRestoreComplete_keepsMem (p : PartId) (s : State) : Keeps s (outState s (execRestoreComplete p s)) := by
  refine .generic fun P hP => ?_
  unfold execRestoreComplete
  dsimp only
  split
  · exact hP _ .refl
  · split
    · exact hP _ (setRestore_keepsMem ..)
    · exact hP _ (setRestore_keepsMem ..)
    · split
      · exact hP _ (setRestore_keepsMem ..)
      · split
        · exact hP _ ((restorePages_keepsMem ..).trans (finishRestore_keepsMem ..))
        · exact hP _ ((restorePages_keepsMem ..).trans (setRestore_keepsMem ..))

/-! ## Machine/System -/

theorem countShared_keepsMem (s : State) (p : PartId) (reg : SysReg) : Keeps s (countShared s p reg) := by
  unfold countShared
  dsimp only
  split
  · split
    · exact .refl
    · exact (State.modRegs_keepsMem ..).trans (State.with_free_keepsMem ..)
  · exact .refl

theorem execMfs_keepsMem (d : Reg) (reg : SysReg) (s : State) : Keeps s (outState s (execMfs d reg s)) := by
  unfold execMfs
  dsimp only
  refine runWord_keepsMem (fun _ _ _ => ?_)
  split
  · exact .refl
  · split
    · exact .refl
    · exact countShared_keepsMem ..

theorem writePerfctl_keepsMem (s : State) (p : PartId) (v : Word) : Keeps s (writePerfctl s p v) := .of_mem rfl

theorem writeLnkctl_keepsMem (s : State) (p : PartId) (v : Word) : Keeps s (writeLnkctl s p v) := by
  unfold writeLnkctl
  dsimp only
  split
  · exact (State.modRegs_keepsMem ..).trans (State.modPart_keepsMem ..)
  · exact State.modRegs_keepsMem ..

theorem writeSteepctl_keepsMem (s : State) (p : PartId) (v : Word) : Keeps s (writeSteepctl s p v) := by
  unfold writeSteepctl
  dsimp only
  split
  · exact State.modRegs_keepsMem ..
  · exact (State.modRegs_keepsMem ..).trans (State.revokeEvery_keepsMem ..)

theorem writeSnapctl_keepsMem (s : State) (p : PartId) (v : Word) : Keeps s (writeSnapctl s p v) := .of_mem rfl

theorem writeRelctl_keepsMem (s : State) (p : PartId) (v : Word) : Keeps s (writeRelctl s p v) := by
  unfold writeRelctl
  dsimp only
  split
  · exact (State.modRegs_keepsMem ..).trans (startReset_keepsMem ..)
  · exact State.modRegs_keepsMem ..

theorem writeFatalovf_keepsMem (s : State) (p : PartId) (v : Word) : Keeps s (writeFatalovf s p v) := .of_mem rfl

theorem writeErrinj_keepsMem (s : State) (p : PartId) (v : Word) : Keeps s (writeErrinj s p v) := .of_mem rfl

theorem frozenCheck_keepsMem (s : State) (p : PartId) (reg : SysReg) : Keeps s (frozenCheck s p reg) := by
  unfold frozenCheck
  dsimp only
  split
  · exact State.modPart_keepsMem ..
  · exact .refl

theorem writePartReg_keepsMem (s : State) (p : PartId) (reg : SysReg) (v : Word) : Keeps s (writePartReg s p reg v) := by
  unfold writePartReg
  split
  · exact (State.modRegs_keepsMem ..).trans (frozenCheck_keepsMem ..)
  · exact State.modRegs_keepsMem ..
  · exact State.modRegs_keepsMem ..
  · exact State.modRegs_keepsMem ..
  · exact State.modRegs_keepsMem ..
  · exact State.modRegs_keepsMem ..
  · exact State.modRegs_keepsMem ..
  · exact ptclr_keepsMem ..
  · exact State.modRegs_keepsMem ..
  · exact writeErrinj_keepsMem ..
  · exact State.modRegs_keepsMem ..
  · exact State.modRegs_keepsMem ..
  · exact writeSteepctl_keepsMem ..
  · exact State.modRegs_keepsMem ..
  · exact writeTqbase_keepsMem ..
  · exact writeTqhead_keepsMem ..
  · exact writeFatalovf_keepsMem ..
  · exact writeWake_keepsMem ..
  · exact State.modRegs_keepsMem ..
  · exact State.modRegs_keepsMem ..
  · exact writeRelctl_keepsMem ..
  · exact State.modRegs_keepsMem ..
  · exact State.modRegs_keepsMem ..
  · exact writeSnapctl_keepsMem ..
  · exact State.modRegs_keepsMem ..
  · exact (State.modRegs_keepsMem ..).trans (frozenCheck_keepsMem ..)
  · exact (State.modRegs_keepsMem ..).trans (frozenCheck_keepsMem ..)
  · exact State.modRegs_keepsMem ..
  · exact writeSnaprst_keepsMem ..
  · exact writePerfctl_keepsMem ..
  · exact writeLnkctl_keepsMem ..
  · exact State.modRegs_keepsMem ..
  · exact .refl
  · exact .refl
  · exact .refl
  · exact .refl
  · exact .refl
  · exact .refl
  · exact .refl
  · exact .refl
  · exact .refl
  · exact .refl
  · exact .refl
  · exact .refl
  · exact .refl
  · exact .refl
  · exact .refl
  · exact .refl
  · exact .refl
  · exact .refl
  · exact .refl
  · exact .refl
  · exact .refl
  · exact .refl
  · exact .refl
  · exact .refl
  · exact .refl
  · exact .refl
  · exact .refl
  · exact .refl
  · exact .refl
  · exact .refl
  · exact .refl
  · exact .refl
  · exact .refl
  · exact .refl
  · exact .refl
  · exact .refl
  · exact .refl
  · exact .refl

theorem writePcnt_keepsMem (s : State) (p : PartId) (c : CoreId) (i : Fin 4) (v : Word) : Keeps s (writePcnt s p c i v) := .of_mem rfl

theorem writeCoreReg_keepsMem (s : State) (p : PartId) (c : CoreId) (reg : SysReg) (v : Word) : Keeps s (writeCoreReg s p c reg v) := by
  unfold writeCoreReg
  dsimp only
  split
  · split
    · exact (State.mtsSet_keepsMem ..).trans (State.modCoreW_keepsMem ..)
    · exact ((State.mtsSet_keepsMem ..).trans (State.modCoreW_keepsMem ..)).trans (State.push_keepsMem ..)
  · split
    · exact State.modAcc_keepsMem ..
    · exact .refl
  · split
    · exact State.modCoreW_keepsMem ..
    · exact .refl
  · exact State.modCoreW_keepsMem ..
  · exact State.modCoreW_keepsMem ..
  · exact writeLogvio_keepsMem ..
  · exact State.modCoreC_keepsMem ..
  · exact State.modCoreC_keepsMem ..
  · exact writePcnt_keepsMem ..
  · exact State.modCoreW_keepsMem ..
  · exact State.modCoreW_keepsMem ..
  · exact State.modCoreC_keepsMem ..
  · exact (State.mtsSet_keepsMem ..).trans (State.modCoreW_keepsMem ..)
  · exact State.modCoreW_keepsMem ..
  · exact State.modCoreC_keepsMem ..
  · exact State.modCoreC_keepsMem ..
  · split
    · exact State.setCluster_keepsMem ..
    · exact .refl
  · split
    · exact reclaimSlots_keepsMem ..
    · exact .refl
  · exact writePartReg_keepsMem ..

theorem writeThreadReg_keepsMem (s : State) (r : TRef) (reg : SysReg) (v : Word) : Keeps s (writeThreadReg s r reg v) := by
  unfold writeThreadReg
  split
  · exact State.modThread_keepsMem ..
  · exact State.modThread_keepsMem ..
  · exact State.modThread_keepsMem ..
  · exact .refl

theorem commitNow_keepsMem (s : State) (c : Commit) : Keeps s (commitNow s c) := by
  unfold commitNow
  exact commitAt_keepsMem ..

theorem writeTbind_keepsMem (r : TRef) (v : Word) (clears : List Reg) (s : State) : Keeps s (writeTbind r v clears s).state := by
  unfold writeTbind
  dsimp only
  split
  · exact atCommit_keepsMem (fun x0 => (commitNow_keepsMem ..).trans (bindTaster_keepsMem ..))
  · split
    · exact .refl
    · exact atCommit_keepsMem (fun x0 => unbindTaster_keepsMem ..)

theorem execMts_keepsMem (reg : SysReg) (a : Src) (s : State) : Keeps s (outState s (execMts reg a s)) := by
  unfold execMts
  dsimp only
  refine runWord_keepsMem (fun _ _ _ => ?_)
  split
  · exact .refl
  · split
    · exact .refl
    · split
      · exact atCommit_keepsMem (fun x0 => .refl)
      · split
        · exact writeTbind_keepsMem ..
        · split
          · exact atCommit_keepsMem (fun x0 => writeThreadReg_keepsMem ..)
          · split
            · exact fenced_keepsMem (fun x0 => writeCoreReg_keepsMem ..)
            · exact atCommit_keepsMem (fun x0 => writeCoreReg_keepsMem ..)

theorem execTrap_keepsMem (n : BitVec 10) (s : State) : Keeps s (outState s (execTrap n s)) := by
  unfold execTrap
  refine runWord_keepsMem (fun _ _ _ => ?_)
  split
  · rename_i h1
    exact (passPoint_keepsMem ..).error h1
  · rename_i h1
    exact (passPoint_keepsMem ..).ok h1

theorem execEret_keepsMem (s : State) : Keeps s (outState s (execEret s)) := by
  unfold execEret
  dsimp only
  refine runWord_keepsMem (fun _ _ _ => ?_)
  split
  · exact .refl
  · exact atCommit_keepsMem (fun x0 => (((commitNow_keepsMem ..).trans (returnTrap_keepsMem ..)).trans (State.modCoreW_keepsMem ..)).trans
      (Keeps.foldl (fun u e => applyDelivery_keepsMem ..) _))

theorem parkThread_keepsMem (s : State) (p : PartId) (tid : Nat) : Keeps s (parkThread s p tid) := by
  unfold parkThread
  exact State.modThreads_keepsMem ..

theorem execPark_keepsMem (a : Src) (s : State) : Keeps s (outState s (execPark a s)) := by
  unfold execPark
  dsimp only
  refine runWord_keepsMem (fun _ _ _ => ?_)
  split
  · exact .refl
  · exact parkThread_keepsMem ..

theorem execGsw_keepsMem (a : Src) (s : State) : Keeps s (outState s (execGsw a s)) := by
  unfold execGsw
  dsimp only
  refine runWord_keepsMem (fun _ _ _ => ?_)
  split
  · exact .refl
  · exact State.modRegs_keepsMem ..

theorem execPerfctlPreset_keepsMem (p : PartId) (v : Word) (s : State) : Keeps s (outState s (execPerfctlPreset p v s)) := .of_mem rfl

end Sys2Proof.Machine
end

section
/-! SUPPORT. The memory's form through the host's accesses, trace and the vector words: one lemma per function. -/
namespace Sys2Proof.Machine

/-! ## Machine/HostPort -/

theorem exportListed_keepsMem (s : State) (p : PartId) (t : BitVec 64) (n : Nat) (need : BitVec 4) :
    Keeps s (exportListed s p t n need) := by
  unfold exportListed
  split
  · split
    · exact remoteWalked_keepsMem ..
    · exact .refl
  · exact .refl

theorem endpointTakes_keepsMem (s : State) (p : PartId) (line : Nat) (sec : Fin 2) : Keeps s (endpointTakes s p line sec) := by
  unfold endpointTakes
  dsimp only
  refine (((State.revokeAll_keepsMem ..).trans (State.dirtySlice_keepsMem ..)).trans (Keeps.foldl (fun u e => ?_) _)).trans
    (State.modSl_keepsMem ..)
  split
  · split
    · exact (State.modL1_keepsMem ..).trans (State.loseCopy_keepsMem ..)
    · exact State.modL1_keepsMem ..
  · exact State.modL1_keepsMem ..

theorem pieceHeld_ind {P : Option State → Prop} (s : State) (p : PartId) (w : PageWriter) (x : HostPiece)
    (h1 : ∀ l, P (pageWait s p l w)) (h2 : P (heldPage s p x.key w)) : P (pieceHeld s p w x) := by
  unfold pieceHeld
  split
  · exact h1 _
  · exact h2

theorem pieceHeld_keepsMem (s : State) (p : PartId) (w : PageWriter) (x : HostPiece) :
    Keeps s (optState s (fun u => u) (pieceHeld s p w x)) :=
  pieceHeld_ind (P := fun o => Keeps s (optState s (fun u => u) o)) s p w x (fun _ => pageWait_keepsMem ..) (heldPage_keepsMem ..)

theorem piecePassed_keepsMem (s : State) (p : PartId) (w : PageWriter) (x : HostPiece) : Keeps s (piecePassed s p w x) := by
  unfold piecePassed
  split
  · exact (pagePassed_keepsMem ..).trans (pageWritten_keepsMem ..)
  · exact (heldPassed_keepsMem ..).trans (dirtyFrame_keepsMem ..)

theorem reachPiece_keepsMem (s : State) (p : PartId) (x : HostPiece) : Keeps s (eitherState (reachPiece s p x)) := by
  unfold reachPiece
  dsimp only
  split
  · split
    · rename_i h1
      exact ((homeLookup_keepsMem ..).cast (congrArg Fill.state h1)).trans (endpointTakes_keepsMem ..)
    · rename_i h1
      exact (homeLookup_keepsMem ..).cast (congrArg Fill.state h1)
    · rename_i h1
      exact ((homeLookup_keepsMem ..).cast (congrArg Fill.state h1)).trans (listWalk_keepsMem ..)
    · rename_i h1
      exact (homeLookup_keepsMem ..).cast (congrArg Fill.state h1)
  · split
    · exact endpointTakes_keepsMem ..
    · exact .refl

theorem reachPieces_keepsMem (p : PartId) (l : List HostPiece) (s : State) : Keeps s (eitherState (reachPieces p l s)) := by
  induction l generalizing s with
  | nil => exact .refl
  | cons x l ih =>
    rw [reachPieces]
    split
    · rename_i h
      exact ((reachPiece_keepsMem ..).right h).trans (ih _)
    · rename_i h
      exact (reachPiece_keepsMem ..).left h

theorem sealPieces_keepsMem (s : State) (p : PartId) (l : List HostPiece) : Keeps s (sealPieces s p l) := by
  unfold sealPieces
  exact Keeps.foldl (fun u e => sealMonitor_keepsMem ..) _

theorem readHostPiece_keepsMem (s : State) (p : PartId) (x : HostPiece) : Keeps s (readHostPiece s p x).state := by
  unfold readHostPiece
  dsimp only
  split
  · split
    · rename_i h1
      split
      all_goals exact (reachRead_keepsMem ..).cast (congrArg Reach.state h1)
    · rename_i h1
      exact (reachRead_keepsMem ..).cast (congrArg Reach.state h1)
    · rename_i h1
      exact (reachRead_keepsMem ..).cast (congrArg Reach.state h1)
  · split
    · split
      all_goals
        exact ((State.revokeAll_keepsMem ..).trans (Keeps.foldl (fun u e => State.forwardRead_keepsMem ..) _)).trans
          (readHome_keepsMem ..)
    · split
      all_goals exact .refl

theorem readHostPieces_keepsMem (p : PartId) (l : List HostPiece) (b : List Byte) (s : State) :
    Keeps s (readHostPieces p l b s).state := by
  induction l generalizing b s with
  | nil => exact .refl
  | cons x l ih =>
    rw [readHostPieces]
    split
    · rename_i h
      exact ((readHostPiece_keepsMem ..).cast (congrArg HostRead.state h)).trans (ih ..)
    · exact readHostPiece_keepsMem ..

theorem writePieces_keepsMem (l : List HostPiece) (b : List Byte) (s : State) : Keeps s (writePieces l b s) := by
  induction l generalizing b s with
  | nil => exact .refl
  | cons x l ih => exact (State.writeMemBytes_keepsMem ..).trans (ih ..)

theorem hostSays_keepsMem (s : State) (m : HostMsg) : Keeps s (hostSays s m) := .of_mem rfl

theorem hostWrite_keepsMem (s : State) (p : PartId) (t : BitVec 64) (op : HostOp) (l : List HostPiece) :
    Keeps s (hostWrite s p t op l) := by
  unfold hostWrite
  dsimp only
  split
  · exact ((writePieces_keepsMem ..).trans (sealPieces_keepsMem ..)).trans (hostSays_keepsMem ..)
  · exact ((amoAt_keepsMem ..).trans (sealPieces_keepsMem ..)).trans (hostSays_keepsMem ..)
  · exact hostSays_keepsMem ..

theorem hostPerform_keepsMem (s : State) (p : PartId) (t : BitVec 64) (op : HostOp) (l : List HostPiece) :
    Keeps s (hostPerform s p t op l) := by
  have hp (w : PageWriter) : Keeps s (l.foldl (fun s x => piecePassed s p w x) s) := .foldl (fun _ _ => piecePassed_keepsMem ..) _
  have hw (w : PageWriter) (u : State) (h : l.findSome? (pieceHeld s p w) = some u) : Keeps s u :=
    (Keeps.findSome (fun _ => pieceHeld_keepsMem ..) l).some h
  refine .generic (g := fun u => u) fun P hP => ?_
  unfold hostPerform
  dsimp only
  split
  · split
    · rename_i h
      exact hP _ (((readHostPieces_keepsMem ..).cast (congrArg HostRead.state h)).trans (hostSays_keepsMem ..))
    · rename_i h
      exact hP _ (((readHostPieces_keepsMem ..).cast (congrArg HostRead.state h)).trans (hostSays_keepsMem ..))
    · rename_i h
      exact hP _ (((readHostPieces_keepsMem ..).cast (congrArg HostRead.state h)).trans (State.holdBack_keepsMem ..))
  all_goals
    split
    · rename_i h
      exact hP _ ((hw _ _ h).trans (State.holdBack_keepsMem ..))
    · split
      · rename_i h
        exact hP _ (((hp _).trans ((reachPieces_keepsMem ..).left h)).trans (State.holdBack_keepsMem ..))
      · rename_i h
        exact hP _ (((hp _).trans ((reachPieces_keepsMem ..).right h)).trans (hostWrite_keepsMem ..))

theorem execHostAccess_keepsMem (p : PartId) (t : BitVec 64) (op : HostOp) (s : State) :
    Keeps s (outState s (execHostAccess p t op s)) := by
  unfold execHostAccess
  dsimp only
  split
  · exact State.holdBack_keepsMem ..
  · split
    · refine .trans ?_ (hostSays_keepsMem ..)
      split
      · exact exportListed_keepsMem ..
      · exact .refl
    · split
      · exact hostSays_keepsMem ..
      · exact hostPerform_keepsMem ..

theorem responds_keepsMem {s go : State} (h : Keeps s go) : Keeps s (outState s (responds s go)) := by
  unfold responds
  exact .ite h .refl

theorem exchanged_keepsMem (s : State) (n : Nat) (l : List (List Byte)) : Keeps s (exchanged s n l) := by
  unfold exchanged
  split
  · exact State.with_sessions_keepsMem ..
  · exact .refl

theorem signed_keepsMem (s : State) (n : Nat) (l : List (List Byte)) : Keeps s (signed s n l).2 := by
  unfold signed
  dsimp only
  exact (exchanged_keepsMem ..).trans (State.with_free_keepsMem ..)

theorem execGetVersion_keepsMem (sess : Nat) (s : State) : Keeps s (outState s (execGetVersion sess s)) := by
  unfold execGetVersion
  exact responds_keepsMem ((State.with_sessions_keepsMem ..).trans (hostSays_keepsMem ..))

theorem execGetCapabilities_keepsMem (sess : Nat) (s : State) : Keeps s (outState s (execGetCapabilities sess s)) := by
  unfold execGetCapabilities
  exact responds_keepsMem ((exchanged_keepsMem ..).trans (hostSays_keepsMem ..))

theorem execNegotiateAlgorithms_keepsMem (sess : Nat) (s : State) : Keeps s (outState s (execNegotiateAlgorithms sess s)) := by
  unfold execNegotiateAlgorithms
  exact responds_keepsMem ((exchanged_keepsMem ..).trans (hostSays_keepsMem ..))

theorem execGetDigests_keepsMem (sess : Nat) (s : State) : Keeps s (outState s (execGetDigests sess s)) := by
  unfold execGetDigests
  dsimp only
  exact responds_keepsMem ((exchanged_keepsMem ..).trans (hostSays_keepsMem ..))

theorem execGetCertificate_keepsMem (sess : Nat) (s : State) : Keeps s (outState s (execGetCertificate sess s)) := by
  unfold execGetCertificate
  exact responds_keepsMem ((exchanged_keepsMem ..).trans (hostSays_keepsMem ..))

theorem execChallenge_keepsMem (sess : Nat) (nonce : BitVec 256) (s : State) : Keeps s (outState s (execChallenge sess nonce s)) := by
  unfold execChallenge
  dsimp only
  exact responds_keepsMem ((signed_keepsMem ..).trans (hostSays_keepsMem ..))

theorem execGetMeasurements_keepsMem (sess : Nat) (p : PartId) (index : Nat) (s : State) :
    Keeps s (outState s (execGetMeasurements sess p index s)) := by
  unfold execGetMeasurements
  dsimp only
  split
  · exact responds_keepsMem ((signed_keepsMem ..).trans (hostSays_keepsMem ..))
  · exact responds_keepsMem (hostSays_keepsMem ..)

theorem setPhase_keepsMem (s : State) (n : Nat) (ph : SessionPhase) : Keeps s (setPhase s n ph) := by
  unfold setPhase
  split
  · exact State.with_sessions_keepsMem ..
  · exact .refl

theorem execKeyExchange_keepsMem (sess : Nat) (s : State) : Keeps s (outState s (execKeyExchange sess s)) := by
  unfold execKeyExchange
  dsimp only
  split
  · exact responds_keepsMem (((signed_keepsMem ..).trans (setPhase_keepsMem ..)).trans (hostSays_keepsMem ..))
  · exact responds_keepsMem (hostSays_keepsMem ..)

theorem execFinish_keepsMem (sess : Nat) (s : State) : Keeps s (outState s (execFinish sess s)) := by
  unfold execFinish
  split
  · exact responds_keepsMem (((exchanged_keepsMem ..).trans (setPhase_keepsMem ..)).trans (hostSays_keepsMem ..))
  · exact responds_keepsMem (hostSays_keepsMem ..)

theorem execEndSession_keepsMem (sess : Nat) (s : State) : Keeps s (outState s (execEndSession sess s)) := by
  unfold execEndSession
  refine responds_keepsMem ?_
  split
  · exact (State.with_sessions_keepsMem ..).trans (hostSays_keepsMem ..)
  · exact hostSays_keepsMem ..

theorem tdispGuard_keepsMem {s go : State} {sess : Nat} {p : PartId} (h : Keeps s go) : Keeps s (tdispGuard s sess p go) := by
  unfold tdispGuard
  exact .ite (hostSays_keepsMem ..) (.ite (hostSays_keepsMem ..) (.ite (hostSays_keepsMem ..) h))

theorem execVendorDefinedRequest_keepsMem (sess : Nat) (p : PartId) (modid : BitVec 16) (part : PartId) (s : State) :
    Keeps s (outState s (execVendorDefinedRequest sess p modid part s)) := by
  unfold execVendorDefinedRequest
  dsimp only
  split
  · exact (State.modPart_keepsMem ..).trans (hostSays_keepsMem ..)
  · exact hostSays_keepsMem ..

theorem execGetTdispVersion_keepsMem (sess : Nat) (p : PartId) (s : State) : Keeps s (outState s (execGetTdispVersion sess p s)) := by
  unfold execGetTdispVersion
  exact tdispGuard_keepsMem (hostSays_keepsMem ..)

theorem execGetTdispCapabilities_keepsMem (sess : Nat) (p : PartId) (s : State) :
    Keeps s (outState s (execGetTdispCapabilities sess p s)) := by
  unfold execGetTdispCapabilities
  exact tdispGuard_keepsMem (hostSays_keepsMem ..)

theorem enterTdisp_keepsMem (s : State) (p : PartId) (t : Tdisp) : Keeps s (enterTdisp s p t) := .of_mem rfl

theorem startWipe_keepsMem (s : State) (p : PartId) (lock : Bool) (sess : Nat) : Keeps s (startWipe s p lock sess) := .of_mem rfl

theorem execLockInterfaceRequest_keepsMem (sess : Nat) (p : PartId) (s : State) :
    Keeps s (outState s (execLockInterfaceRequest sess p s)) := by
  unfold execLockInterfaceRequest
  refine tdispGuard_keepsMem ?_
  split
  · exact (State.modPart_keepsMem ..).trans (startWipe_keepsMem ..)
  · exact hostSays_keepsMem ..

theorem execGetDeviceInterfaceReport_keepsMem (sess : Nat) (p : PartId) (s : State) :
    Keeps s (outState s (execGetDeviceInterfaceReport sess p s)) := by
  unfold execGetDeviceInterfaceReport
  dsimp only
  refine tdispGuard_keepsMem ?_
  split
  · exact (signed_keepsMem ..).trans (hostSays_keepsMem ..)
  · exact hostSays_keepsMem ..

theorem execGetDeviceInterfaceState_keepsMem (sess : Nat) (p : PartId) (s : State) :
    Keeps s (outState s (execGetDeviceInterfaceState sess p s)) := by
  unfold execGetDeviceInterfaceState
  split
  · exact hostSays_keepsMem ..
  · exact tdispGuard_keepsMem (hostSays_keepsMem ..)

theorem execStartInterfaceRequest_keepsMem (sess : Nat) (p : PartId) (s : State) :
    Keeps s (outState s (execStartInterfaceRequest sess p s)) := by
  unfold execStartInterfaceRequest
  refine tdispGuard_keepsMem ?_
  split
  · exact (enterTdisp_keepsMem ..).trans (hostSays_keepsMem ..)
  · exact hostSays_keepsMem ..

theorem haltPartition_keepsMem (s : State) (p : PartId) : Keeps s (haltPartition s p) := by
  unfold haltPartition
  dsimp only
  exact (((((refuseWaiters_keepsMem ..).trans (refuseQueued_keepsMem ..)).trans (leaveColls_keepsMem ..)).trans
    (killWhere_keepsMem ..)).trans (dropSpill_keepsMem ..)).trans (State.modPart_keepsMem ..)

theorem execStopInterfaceRequest_keepsMem (sess : Nat) (p : PartId) (s : State) :
    Keeps s (outState s (execStopInterfaceRequest sess p s)) := by
  unfold execStopInterfaceRequest
  refine tdispGuard_keepsMem ?_
  split
  · exact hostSays_keepsMem ..
  · exact (haltPartition_keepsMem ..).trans (startWipe_keepsMem ..)

theorem enterError_keepsMem (s : State) (p : PartId) : Keeps s (enterError s p) := by
  unfold enterError
  dsimp only
  split
  · exact ((State.modPart_keepsMem ..).trans (haltPartition_keepsMem ..)).trans (enterTdisp_keepsMem ..)
  · exact .refl

theorem enterErrors_keepsMem (s : State) : Keeps s (enterErrors s) := by
  unfold enterErrors
  exact Keeps.foldl (fun u e => enterError_keepsMem ..) _

theorem execConfigChange_keepsMem (p : PartId) (fw : Option Firmware) (s : State) : Keeps s (outState s (execConfigChange p fw s)) := by
  unfold execConfigChange
  dsimp only
  split
  · exact enterError_keepsMem ..
  · split
    · exact .refl
    · split
      · exact (State.with_firmware_keepsMem ..).trans (Keeps.foldl (fun u e => enterError_keepsMem ..) _)
      · exact State.with_firmware_keepsMem ..

theorem loseCaddy_keepsMem (s : State) (p : PartId) : Keeps s (loseCaddy s p) := .of_mem rfl

theorem wipeMemory_keepsMem (s : State) (p : PartId) : Keeps s (wipeMemory s p) := by
  unfold wipeMemory
  dsimp only
  exact ((((Keeps.foldl (fun u e => State.modCoreC_keepsMem ..) _).trans (State.wipeRange_keepsMem ..)).trans
    (loseCaddy_keepsMem ..)).trans (State.wipeRange_keepsMem ..)).trans (State.modPart_keepsMem ..)

theorem execLifeCycleWipeComplete_keepsMem (p : PartId) (s : State) : Keeps s (outState s (execLifeCycleWipeComplete p s)) := by
  unfold execLifeCycleWipeComplete
  dsimp only
  split
  · exact .refl
  · split
    · exact .refl
    · split
      all_goals
        exact ((((wipeMemory_keepsMem ..).trans (State.modPart_keepsMem ..)).trans (State.modPart_keepsMem ..)).trans
          (enterTdisp_keepsMem ..)).trans (hostSays_keepsMem ..)

theorem writeIdran_keepsMem (s : State) (p : PartId) (c : CoreId) (reg : SysReg) (v : Word) : Keeps s (writeIdran s p c reg v) := by
  unfold writeIdran
  split
  · exact State.with_modid_keepsMem ..
  · exact State.modRegs_keepsMem ..
  · split
    · exact bindTaster_keepsMem ..
    · split
      · exact unbindTaster_keepsMem ..
      · exact .refl
  · exact writeCoreReg_keepsMem ..

theorem execIdranRegisterAccess_keepsMem (p : PartId) (c : CoreId) (reg : SysReg) (v : Option Word) (s : State) :
    Keeps s (outState s (execIdranRegisterAccess p c reg v s)) := by
  unfold execIdranRegisterAccess
  split
  · exact writeIdran_keepsMem ..
  · exact (countShared_keepsMem ..).trans (hostSays_keepsMem ..)

/-! ## Machine/Trace -/

theorem latchLinks_keepsMem (s : State) (p : PartId) : Keeps s (latchLinks s p) := by
  unfold latchLinks
  dsimp only
  exact (State.modPart_keepsMem ..).trans (State.with_free_keepsMem ..)

theorem writeDump_keepsMem (s : State) (p : PartId) (k : Nat) (n : Nat) (d : LinkDump) : Keeps s (writeDump s p k n d) := by
  unfold writeDump
  dsimp only
  exact (((((State.writeMem_keepsMem ..).trans (Keeps.foldl (fun u e => State.writeMem_keepsMem ..) _)).trans
    (Keeps.foldl (fun u e => State.writeMem_keepsMem ..) _)).trans (State.keepLines_keepsMem ..)).trans (feFill_keepsMem ..)).trans
    (feServeSoon_keepsMem ..)

theorem execLinkInterval_keepsMem (p : PartId) (s : State) : Keeps s (outState s (execLinkInterval p s)) := by
  unfold execLinkInterval
  dsimp only
  split
  · split
    · exact latchLinks_keepsMem ..
    · exact .refl
  · split
    · split
      · exact latchLinks_keepsMem ..
      · split
        · rename_i h3
          exact ((((latchLinks_keepsMem ..).trans ((unitWrite_keepsMem ..).cast (congrArg UnitWrite.state h3))).trans
            (State.modPart_keepsMem ..)).trans (State.modRegs_keepsMem ..)).trans (State.hwSet_keepsMem ..)
        · rename_i h3
          exact ((latchLinks_keepsMem ..).trans ((unitWrite_keepsMem ..).cast (congrArg UnitWrite.state h3))).trans
            (State.holdBack_keepsMem ..)
        · rename_i h3
          exact (((((latchLinks_keepsMem ..).trans ((unitWrite_keepsMem ..).cast (congrArg UnitWrite.state h3))).trans
            (collectRange_keepsMem ..)).trans (State.modPart_keepsMem ..)).trans (writeDump_keepsMem ..)).trans
            (State.modRegs_keepsMem ..)
    · split
      · exact .refl
      · split
        · rename_i h3
          exact ((((unitWrite_keepsMem ..).cast (congrArg UnitWrite.state h3)).trans (State.modPart_keepsMem ..)).trans
            (State.modRegs_keepsMem ..)).trans (State.hwSet_keepsMem ..)
        · rename_i h3
          exact ((unitWrite_keepsMem ..).cast (congrArg UnitWrite.state h3)).trans (State.holdBack_keepsMem ..)
        · rename_i h3
          exact (((((unitWrite_keepsMem ..).cast (congrArg UnitWrite.state h3)).trans (collectRange_keepsMem ..)).trans
            (State.modPart_keepsMem ..)).trans (writeDump_keepsMem ..)).trans (State.modRegs_keepsMem ..)

theorem execPcntWrap_keepsMem (p : PartId) (c : CoreId) (i : Fin 4) (s : State) : Keeps s (outState s (execPcntWrap p c i s)) := by
  unfold execPcntWrap
  split
  · exact countReg_keepsMem ..
  · exact .refl

theorem trcDrop_keepsMem (s : State) (p : PartId) (c : CoreId) : Keeps s (trcDrop s p c) := by
  unfold trcDrop
  exact (State.modCoreW_keepsMem ..).trans (State.count_keepsMem ..)

theorem trcAdvance_keepsMem (s : State) (p : PartId) (c : CoreId) : Keeps s (trcAdvance s p c) := by
  unfold trcAdvance
  split
  · exact .refl
  · exact State.modCoreW_keepsMem ..

theorem trcFull_keepsMem (s : State) (p : PartId) (c : CoreId) : Keeps s (trcFull s p c) := .of_mem rfl

theorem trcDrain_keepsMem (p : PartId) (c : CoreId) (l : List (Word × Word)) (s : State) : Keeps s (trcDrain p c l s) := by
  induction l generalizing s with
  | nil => exact .refl
  | cons e l ih =>
    unfold trcDrain
    dsimp only
    split
    · exact trcFull_keepsMem ..
    · split
      · exact State.modCoreC_keepsMem ..
      · split
        · rename_i u h
          have hu : Keeps s u := (unitWrite_keepsMem ..).cast (congrArg UnitWrite.state h)
          exact ((hu.trans (State.modCoreC_keepsMem ..)).trans (trcDrop_keepsMem ..)).trans (ih _)
        · rename_i u h
          have hu : Keeps s u := (unitWrite_keepsMem ..).cast (congrArg UnitWrite.state h)
          exact hu
        · rename_i u h
          have hu : Keeps s u := (unitWrite_keepsMem ..).cast (congrArg UnitWrite.state h)
          exact (((((hu.trans (State.modCoreC_keepsMem ..)).trans (State.writeMem_keepsMem ..)).trans (feFill_keepsMem ..)).trans
            (feServeSoon_keepsMem ..)).trans (trcAdvance_keepsMem ..)).trans (ih _)

theorem writeTrc_keepsMem (s : State) (p : PartId) (c : CoreId) (x : Word) (y : Word) : Keeps s (writeTrc s p c x y) := by
  unfold writeTrc
  split
  · exact trcDrop_keepsMem ..
  · exact (State.modCoreC_keepsMem ..).trans (State.modCoreW_keepsMem ..)

theorem writeSync_keepsMem (s : State) (p : PartId) (c : CoreId) : Keeps s (writeSync s p c) := by
  unfold writeSync
  split
  · exact (writeTrc_keepsMem ..).trans (State.modCoreW_keepsMem ..)
  · exact .refl

theorem trcWrite_keepsMem (s : State) (p : PartId) (c : CoreId) : Keeps s (trcWrite s p c) := by
  unfold trcWrite
  split
  · exact .refl
  · exact trcDrain_keepsMem ..

theorem execSyncRecord_keepsMem (p : PartId) (c : CoreId) (s : State) : Keeps s (outState s (execSyncRecord p c s)) := by
  unfold execSyncRecord
  split
  · exact (writeSync_keepsMem ..).trans (trcWrite_keepsMem ..)
  · exact .refl

theorem writeEvent_keepsMem (s : State) (p : PartId) (c : CoreId) (x : Nat × Nat × Word × BitVec 32) : Keeps s (writeEvent s p c x) := by
  unfold writeEvent
  dsimp only
  split
  · split
    · exact ((writeSync_keepsMem ..).trans (writeTrc_keepsMem ..)).trans (writeSync_keepsMem ..)
    · exact (writeSync_keepsMem ..).trans (writeTrc_keepsMem ..)
  · split
    · exact (writeTrc_keepsMem ..).trans (writeSync_keepsMem ..)
    · exact writeTrc_keepsMem ..

theorem traceCycle_keepsMem (s : State) (p : PartId) (c : CoreId) : Keeps s (traceCycle s p c) := by
  unfold traceCycle
  dsimp only
  split
  · split
    · exact .refl
    · exact State.modCoreC_keepsMem ..
  · split
    · split
      · refine .trans ?_ ((Keeps.foldl (fun u e => writeEvent_keepsMem ..) _).trans (State.modCoreW_keepsMem ..))
        split
        · exact (State.modCoreC_keepsMem ..).trans (State.modCoreW_keepsMem ..)
        · exact ((State.modCoreC_keepsMem ..).trans (State.modCoreW_keepsMem ..)).trans (writeSync_keepsMem ..)
      · refine .trans ?_ (Keeps.foldl (fun u e => writeEvent_keepsMem ..) _)
        split
        · exact (State.modCoreC_keepsMem ..).trans (State.modCoreW_keepsMem ..)
        · exact ((State.modCoreC_keepsMem ..).trans (State.modCoreW_keepsMem ..)).trans (writeSync_keepsMem ..)
    · exact State.modCoreC_keepsMem ..

theorem traceCore_keepsMem (s : State) (p : PartId) (c : CoreId) : Keeps s (traceCore s p c) := by
  unfold traceCore
  dsimp only
  split
  · exact traceCycle_keepsMem ..
  · exact (traceCycle_keepsMem ..).trans (trcWrite_keepsMem ..)

theorem execTraceTimeCondition_keepsMem (p : PartId) (c : CoreId) (s : State) : Keeps s (outState s (execTraceTimeCondition p c s)) := by
  unfold execTraceTimeCondition
  split
  · exact State.traceCond_keepsMem ..
  · exact .refl

/-! ## Machine/VecInstr -/

theorem vec3_keepsMem (ty : VType) (m : Option MReg) (d : VReg) (a : VReg) (b : VReg) (f : Nat → Nat → Nat → Nat) (s : State) :
    Keeps s (outState s (vec3 ty m d a b f s)) := by
  unfold vec3
  dsimp only
  exact runPure_keepsMem ..

theorem vec2_keepsMem (ty : VType) (m : Option MReg) (d : VReg) (a : VReg) (f : Nat → Nat) (s : State) :
    Keeps s (outState s (vec2 ty m d a f s)) := by
  unfold vec2
  dsimp only
  exact runPure_keepsMem ..

theorem execVadd_keepsMem (ty : VType) (m : Option MReg) (d : VReg) (a : VReg) (b : VReg) (s : State) :
    Keeps s (outState s (execVadd ty m d a b s)) := by
  unfold execVadd
  exact vec3_keepsMem ..

theorem execVsub_keepsMem (ty : VType) (m : Option MReg) (d : VReg) (a : VReg) (b : VReg) (s : State) :
    Keeps s (outState s (execVsub ty m d a b s)) := by
  unfold execVsub
  exact vec3_keepsMem ..

theorem execVmul_keepsMem (ty : VType) (m : Option MReg) (d : VReg) (a : VReg) (b : VReg) (s : State) :
    Keeps s (outState s (execVmul ty m d a b s)) := by
  unfold execVmul
  exact vec3_keepsMem ..

theorem execVfma_keepsMem (ty : VType) (m : Option MReg) (d : VReg) (a : VReg) (b : VReg) (s : State) :
    Keeps s (outState s (execVfma ty m d a b s)) := by
  unfold execVfma
  exact vec3_keepsMem ..

theorem execVmin_keepsMem (ty : VType) (m : Option MReg) (d : VReg) (a : VReg) (b : VReg) (s : State) :
    Keeps s (outState s (execVmin ty m d a b s)) := by
  unfold execVmin
  exact vec3_keepsMem ..

theorem execVmax_keepsMem (ty : VType) (m : Option MReg) (d : VReg) (a : VReg) (b : VReg) (s : State) :
    Keeps s (outState s (execVmax ty m d a b s)) := by
  unfold execVmax
  exact vec3_keepsMem ..

theorem execVand_keepsMem (ty : VType) (m : Option MReg) (d : VReg) (a : VReg) (b : VReg) (s : State) :
    Keeps s (outState s (execVand ty m d a b s)) := by
  unfold execVand
  exact vec3_keepsMem ..

theorem execVor_keepsMem (ty : VType) (m : Option MReg) (d : VReg) (a : VReg) (b : VReg) (s : State) :
    Keeps s (outState s (execVor ty m d a b s)) := by
  unfold execVor
  exact vec3_keepsMem ..

theorem execVxor_keepsMem (ty : VType) (m : Option MReg) (d : VReg) (a : VReg) (b : VReg) (s : State) :
    Keeps s (outState s (execVxor ty m d a b s)) := by
  unfold execVxor
  exact vec3_keepsMem ..

theorem execVshl_keepsMem (ty : VType) (m : Option MReg) (d : VReg) (a : VReg) (b : VReg) (s : State) :
    Keeps s (outState s (execVshl ty m d a b s)) := by
  unfold execVshl
  exact vec3_keepsMem ..

theorem execVshr_keepsMem (ty : VType) (m : Option MReg) (d : VReg) (a : VReg) (b : VReg) (s : State) :
    Keeps s (outState s (execVshr ty m d a b s)) := by
  unfold execVshr
  exact vec3_keepsMem ..

theorem execVdot_keepsMem (ty : VType) (m : Option MReg) (d : VReg) (a : VReg) (b : VReg) (s : State) :
    Keeps s (outState s (execVdot ty m d a b s)) := by
  unfold execVdot
  refine runWord_keepsMem (fun _ _ _ => ?_)
  split
  all_goals exact .refl

theorem execVsel_keepsMem (ty : VType) (m : MReg) (d : VReg) (a : VReg) (b : VReg) (s : State) :
    Keeps s (outState s (execVsel ty m d a b s)) := by
  unfold execVsel
  exact runPure_keepsMem ..

theorem execVperm_keepsMem (ty : VType) (m : Option MReg) (d : VReg) (a : VReg) (b : VReg) (s : State) :
    Keeps s (outState s (execVperm ty m d a b s)) := by
  unfold execVperm
  exact runPure_keepsMem ..

theorem execVcmp_keepsMem (cc : VCc) (ty : VType) (m : Option MReg) (d : MReg) (a : VReg) (b : VReg) (s : State) :
    Keeps s (outState s (execVcmp cc ty m d a b s)) := by
  unfold execVcmp
  exact runPure_keepsMem ..

theorem execVred_keepsMem (op : RedOp) (ty : VType) (m : Option MReg) (d : Reg) (a : VReg) (s : State) :
    Keeps s (outState s (execVred op ty m d a s)) := by
  unfold execVred
  dsimp only
  exact runPure_keepsMem ..

theorem execVexp2_keepsMem (ty : VType) (m : Option MReg) (d : VReg) (a : VReg) (s : State) :
    Keeps s (outState s (execVexp2 ty m d a s)) := by
  unfold execVexp2
  exact vec2_keepsMem ..

theorem execVrcp_keepsMem (ty : VType) (m : Option MReg) (d : VReg) (a : VReg) (s : State) :
    Keeps s (outState s (execVrcp ty m d a s)) := by
  unfold execVrcp
  exact vec2_keepsMem ..

theorem execVrsq_keepsMem (ty : VType) (m : Option MReg) (d : VReg) (a : VReg) (s : State) :
    Keeps s (outState s (execVrsq ty m d a s)) := by
  unfold execVrsq
  exact vec2_keepsMem ..

theorem execVcvt_keepsMem (dst : VType) (src : VType) (m : Option MReg) (d : VReg) (a : VReg) (s : State) :
    Keeps s (outState s (execVcvt dst src m d a s)) := by
  unfold execVcvt
  refine runWord_keepsMem (fun _ _ _ => ?_)
  split
  all_goals exact .refl

theorem execVbcast_keepsMem (ty : VType) (d : VReg) (a : Src) (s : State) : Keeps s (outState s (execVbcast ty d a s)) := by
  unfold execVbcast
  exact runPure_keepsMem ..

theorem execVmovg_keepsMem (ty : VType) (d : Reg) (a : VReg) (ln : BitVec 6) (s : State) :
    Keeps s (outState s (execVmovg ty d a ln s)) := by
  unfold execVmovg
  exact runPure_keepsMem ..

theorem execMand_keepsMem (d : MReg) (a : MReg) (b : MReg) (s : State) : Keeps s (outState s (execMand d a b s)) := by
  unfold execMand
  exact runPure_keepsMem ..

theorem execMor_keepsMem (d : MReg) (a : MReg) (b : MReg) (s : State) : Keeps s (outState s (execMor d a b s)) := by
  unfold execMor
  exact runPure_keepsMem ..

theorem execMnot_keepsMem (d : MReg) (a : MReg) (s : State) : Keeps s (outState s (execMnot d a s)) := by
  unfold execMnot
  exact runPure_keepsMem ..

theorem execMpop_keepsMem (d : Reg) (a : MReg) (s : State) : Keeps s (outState s (execMpop d a s)) := by
  unfold execMpop
  exact runPure_keepsMem ..

end Sys2Proof.Machine
end

section
/-! SUPPORT. The memory's form through the dispatch of a word, a bundle, a cycle and a step: one lemma per function. -/
namespace Sys2Proof.Machine

/-! ## Machine/Dispatch -/

theorem exec_keepsMem (i : Instr) (s : State) : Keeps s (outState s (exec i s)) := by
  refine .generic fun P hP => ?_
  unfold exec
  split
  · exact hP _ (execNop_keepsMem ..)
  · exact hP _ (execB_keepsMem ..)
  · exact hP _ (execCall_keepsMem ..)
  · exact hP _ (execBz_keepsMem ..)
  · exact hP _ (execBnz_keepsMem ..)
  · exact hP _ (execBcc_keepsMem ..)
  · exact hP _ (execJmp_keepsMem ..)
  · exact hP _ (execCallr_keepsMem ..)
  · exact hP _ (execBlk_keepsMem ..)
  · exact hP _ (execLdS8_keepsMem ..)
  · exact hP _ (execLdS16_keepsMem ..)
  · exact hP _ (execLdS32_keepsMem ..)
  · exact hP _ (execLdS64_keepsMem ..)
  · exact hP _ (execLdZ8_keepsMem ..)
  · exact hP _ (execLdZ16_keepsMem ..)
  · exact hP _ (execLdZ32_keepsMem ..)
  · exact hP _ (execLdx_keepsMem ..)
  · exact hP _ (execSt8_keepsMem ..)
  · exact hP _ (execSt16_keepsMem ..)
  · exact hP _ (execSt32_keepsMem ..)
  · exact hP _ (execSt64_keepsMem ..)
  · exact hP _ (execStx_keepsMem ..)
  · exact hP _ (execLds_keepsMem ..)
  · exact hP _ (execLdsk_keepsMem ..)
  · exact hP _ (execSts_keepsMem ..)
  · exact hP _ (execStf_keepsMem ..)
  · exact hP _ (execClre_keepsMem ..)
  · exact hP _ (execSpawn_keepsMem ..)
  · exact hP _ (execExit_keepsMem ..)
  · exact hP _ (execSend_keepsMem ..)
  · exact hP _ (execRecv_keepsMem ..)
  · exact hP _ (execAmsg_keepsMem ..)
  · exact hP _ (execDlg_keepsMem ..)
  · exact hP _ (execMigr_keepsMem ..)
  · exact hP _ (execLrw_keepsMem ..)
  · exact hP _ (execSch_keepsMem ..)
  · exact hP _ (execRls_keepsMem ..)
  · exact hP _ (execBar_keepsMem ..)
  · exact hP _ (execAmo_keepsMem ..)
  · exact hP _ (execRed_keepsMem ..)
  · exact hP _ (execFence_keepsMem ..)
  · exact hP _ (execPour_keepsMem ..)
  · exact hP _ (execFbar_keepsMem ..)
  · exact hP _ (execCwb_keepsMem ..)
  · exact hP _ (execCinv_keepsMem ..)
  · exact hP _ (execIinv_keepsMem ..)
  · exact hP _ (execPref_keepsMem ..)
  · exact hP _ (execPlbi_keepsMem ..)
  · exact hP _ (execAddm_keepsMem ..)
  · exact hP _ (execLdb_keepsMem ..)
  · exact hP _ (execLdbImm_keepsMem ..)
  · exact hP _ (execVld_keepsMem ..)
  · exact hP _ (execVst_keepsMem ..)
  · exact hP _ (execVlds_keepsMem ..)
  · exact hP _ (execVgath_keepsMem ..)
  · exact hP _ (execVscat_keepsMem ..)
  · exact hP _ (execVsrd_keepsMem ..)
  · exact hP _ (execCpy_keepsMem ..)
  · exact hP _ (execCpy2_keepsMem ..)
  · exact hP _ (execCpyg_keepsMem ..)
  · exact hP _ (execCpyw_keepsMem ..)
  · exact hP _ (execCpyq_keepsMem ..)
  · exact hP _ (execSrd_keepsMem ..)
  · exact hP _ (execRngi_keepsMem ..)
  · exact hP _ (execRnga_keepsMem ..)
  · exact hP _ (execRngq_keepsMem ..)
  · exact hP _ (execMxq_keepsMem ..)
  · exact hP _ (execMxw_keepsMem ..)
  · exact hP _ (execMxp_keepsMem ..)
  · exact hP _ (execMxz_keepsMem ..)
  · exact hP _ (execMxst_keepsMem ..)
  · exact hP _ (execMxr_keepsMem ..)
  · exact hP _ (execTrap_keepsMem ..)
  · exact hP _ (execEret_keepsMem ..)
  · exact hP _ (execPark_keepsMem ..)
  · exact hP _ (execGsw_keepsMem ..)
  · exact hP _ (execCont_keepsMem ..)
  · exact hP _ (execLogn_keepsMem ..)
  · exact hP _ (execLoga_keepsMem ..)
  · exact hP _ (execMfs_keepsMem ..)
  · exact hP _ (execMts_keepsMem ..)
  · exact hP _ (execColl_keepsMem ..)
  · exact hP _ (execCollw_keepsMem ..)
  · exact hP _ (execSnap_keepsMem ..)
  · exact hP _ (execSnapq_keepsMem ..)
  · exact hP _ (execAdd_keepsMem ..)
  · exact hP _ (execSub_keepsMem ..)
  · exact hP _ (execAnd_keepsMem ..)
  · exact hP _ (execOr_keepsMem ..)
  · exact hP _ (execXor_keepsMem ..)
  · exact hP _ (execAndn_keepsMem ..)
  · exact hP _ (execOrn_keepsMem ..)
  · exact hP _ (execShl_keepsMem ..)
  · exact hP _ (execShr_keepsMem ..)
  · exact hP _ (execSha_keepsMem ..)
  · exact hP _ (execRor_keepsMem ..)
  · exact hP _ (execMin_keepsMem ..)
  · exact hP _ (execMax_keepsMem ..)
  · exact hP _ (execMinz_keepsMem ..)
  · exact hP _ (execMaxz_keepsMem ..)
  · exact hP _ (execMul_keepsMem ..)
  · exact hP _ (execMulh_keepsMem ..)
  · exact hP _ (execMulhz_keepsMem ..)
  · exact hP _ (execDiv_keepsMem ..)
  · exact hP _ (execDivz_keepsMem ..)
  · exact hP _ (execRem_keepsMem ..)
  · exact hP _ (execRemz_keepsMem ..)
  · exact hP _ (execClmul_keepsMem ..)
  · exact hP _ (execClmulh_keepsMem ..)
  · exact hP _ (execClz_keepsMem ..)
  · exact hP _ (execCtz_keepsMem ..)
  · exact hP _ (execPopc_keepsMem ..)
  · exact hP _ (execBrev_keepsMem ..)
  · exact hP _ (execBswap_keepsMem ..)
  · exact hP _ (execExts_keepsMem ..)
  · exact hP _ (execExtz_keepsMem ..)
  · exact hP _ (execIns_keepsMem ..)
  · exact hP _ (execSel_keepsMem ..)
  · exact hP _ (execAddx_keepsMem ..)
  · exact hP _ (execCmp_keepsMem ..)
  · exact hP _ (execCmpi_keepsMem ..)
  · exact hP _ (execAddi_keepsMem ..)
  · exact hP _ (execAndi_keepsMem ..)
  · exact hP _ (execOri_keepsMem ..)
  · exact hP _ (execXori_keepsMem ..)
  · exact hP _ (execShli_keepsMem ..)
  · exact hP _ (execShri_keepsMem ..)
  · exact hP _ (execShai_keepsMem ..)
  · exact hP _ (execRori_keepsMem ..)
  · exact hP _ (execLi_keepsMem ..)
  · exact hP _ (execLih_keepsMem ..)
  · exact hP _ (execFadd_keepsMem ..)
  · exact hP _ (execFsub_keepsMem ..)
  · exact hP _ (execFmul_keepsMem ..)
  · exact hP _ (execFma_keepsMem ..)
  · exact hP _ (execFms_keepsMem ..)
  · exact hP _ (execFnma_keepsMem ..)
  · exact hP _ (execFdiv_keepsMem ..)
  · exact hP _ (execFsqrt_keepsMem ..)
  · exact hP _ (execFmin_keepsMem ..)
  · exact hP _ (execFmax_keepsMem ..)
  · exact hP _ (execFsgn_keepsMem ..)
  · exact hP _ (execFclass_keepsMem ..)
  · exact hP _ (execFcmp_keepsMem ..)
  · exact hP _ (execFcvt_keepsMem ..)
  · exact hP _ (execFcvti_keepsMem ..)
  · exact hP _ (execFcvtf_keepsMem ..)
  · exact hP _ (execVadd_keepsMem ..)
  · exact hP _ (execVsub_keepsMem ..)
  · exact hP _ (execVmul_keepsMem ..)
  · exact hP _ (execVfma_keepsMem ..)
  · exact hP _ (execVmin_keepsMem ..)
  · exact hP _ (execVmax_keepsMem ..)
  · exact hP _ (execVand_keepsMem ..)
  · exact hP _ (execVor_keepsMem ..)
  · exact hP _ (execVxor_keepsMem ..)
  · exact hP _ (execVshl_keepsMem ..)
  · exact hP _ (execVshr_keepsMem ..)
  · exact hP _ (execVdot_keepsMem ..)
  · exact hP _ (execVsel_keepsMem ..)
  · exact hP _ (execVperm_keepsMem ..)
  · exact hP _ (execVcmp_keepsMem ..)
  · exact hP _ (execVred_keepsMem ..)
  · exact hP _ (execVexp2_keepsMem ..)
  · exact hP _ (execVrcp_keepsMem ..)
  · exact hP _ (execVrsq_keepsMem ..)
  · exact hP _ (execVcvt_keepsMem ..)
  · exact hP _ (execVbcast_keepsMem ..)
  · exact hP _ (execVmovg_keepsMem ..)
  · exact hP _ (execMand_keepsMem ..)
  · exact hP _ (execMor_keepsMem ..)
  · exact hP _ (execMnot_keepsMem ..)
  · exact hP _ (execMpop_keepsMem ..)
  · exact hP _ (execMemoryReply_keepsMem ..)
  · exact hP _ (execRegisterDelivery_keepsMem ..)
  · exact hP _ (execLaunchRecord_keepsMem ..)
  · exact hP _ (execPacketExpansion_keepsMem ..)
  · exact hP _ (execPacketDispatch_keepsMem ..)
  · exact hP _ (execPacketAging_keepsMem ..)
  · exact hP _ (execDoneWrite_keepsMem ..)
  · exact hP _ (execMigration_keepsMem ..)
  · exact hP _ (execMigrationArrival_keepsMem ..)
  · exact hP _ (execActiveMessageArrival_keepsMem ..)
  · exact hP _ (execServerRunStart_keepsMem ..)
  · exact hP _ (execFeHomeOperation_keepsMem ..)
  · exact hP _ (execFeListServe_keepsMem ..)
  · exact hP _ (execSendArrival_keepsMem ..)
  · exact hP _ (execSendRetry_keepsMem ..)
  · exact hP _ (execRingBufferDrain_keepsMem ..)
  · exact hP _ (execLrwRetry_keepsMem ..)
  · exact hP _ (execRemoteUpdate_keepsMem ..)
  · exact hP _ (execAddmPerform_keepsMem ..)
  · exact hP _ (execSreq_keepsMem ..)
  · exact hP _ (execSgnt_keepsMem ..)
  · exact hP _ (execPourMessage_keepsMem ..)
  · exact hP _ (execPack_keepsMem ..)
  · exact hP _ (execFpr_keepsMem ..)
  · exact hP _ (execFpd_keepsMem ..)
  · exact hP _ (execSrev_keepsMem ..)
  · exact hP _ (execSret_keepsMem ..)
  · exact hP _ (execTadd_keepsMem ..)
  · exact hP _ (execTack_keepsMem ..)
  · exact hP _ (execBoundedLoad_keepsMem ..)
  · exact hP _ (execColourPour_keepsMem ..)
  · exact hP _ (execCopyBeat_keepsMem ..)
  · exact hP _ (execCopyComplete_keepsMem ..)
  · exact hP _ (execMatrixJobPick_keepsMem ..)
  · exact hP _ (execMatrixGroup_keepsMem ..)
  · exact hP _ (execMatrixJobComplete_keepsMem ..)
  · exact hP _ (execMxstExecute_keepsMem ..)
  · exact hP _ (execRecordWriteDone_keepsMem ..)
  · exact hP _ (execScrubComplete_keepsMem ..)
  · exact hP _ (execDeliveryRetry_keepsMem ..)
  · exact hP _ (execSyshRun_keepsMem ..)
  · exact hP _ (execGangSwitch_keepsMem ..)
  · exact hP _ (execCoreDrained_keepsMem ..)
  · exact hP _ (execWorldExchange_keepsMem ..)
  · exact hP _ (execGangResume_keepsMem ..)
  · exact hP _ (execDumpComplete_keepsMem ..)
  · exact hP _ (execLognWatchdog_keepsMem ..)
  · exact hP _ (execResetWipe_keepsMem ..)
  · exact hP _ (execResetComplete_keepsMem ..)
  · exact hP _ (execRemoteRequest_keepsMem ..)
  · exact hP _ (execRemoteErrorReply_keepsMem ..)
  · exact hP _ (execCollContribution_keepsMem ..)
  · exact hP _ (execCollComplete_keepsMem ..)
  · exact hP _ (execCollTimeout_keepsMem ..)
  · exact hP _ (execMarker_keepsMem ..)
  · exact hP _ (execCapturePulse_keepsMem ..)
  · exact hP _ (execSnapshotCut_keepsMem ..)
  · exact hP _ (execCaptureResume_keepsMem ..)
  · exact hP _ (execPageCopy_keepsMem ..)
  · exact hP _ (execSnapshotWriter_keepsMem ..)
  · exact hP _ (execSnapshotNotice_keepsMem ..)
  · exact hP _ (execRestoreComplete_keepsMem ..)
  · exact hP _ (execLifeCycleWipeComplete_keepsMem ..)
  · exact hP _ (execHostAccess_keepsMem ..)
  · exact hP _ (execLinkInterval_keepsMem ..)
  · exact hP _ (execSyncRecord_keepsMem ..)
  · exact hP _ (execForwardedRead_keepsMem ..)
  · exact hP _ (execInvalidation_keepsMem ..)
  · exact hP _ (execL1Eviction_keepsMem ..)
  · exact hP _ (execSliceEviction_keepsMem ..)
  · exact hP _ (execGetS_keepsMem ..)
  · exact hP _ (execGetM_keepsMem ..)
  · exact hP _ (execWalk_keepsMem ..)
  · exact hP _ (execPtclrWrite_keepsMem ..)
  · exact hP _ (execL2Uncorrectable_keepsMem ..)
  · exact hP _ (execSectorPin_keepsMem ..)
  · exact hP _ (execShellAckTimeout_keepsMem ..)
  · exact hP _ (execCoreFailed_keepsMem ..)
  · exact hP _ (execSteepDisable_keepsMem ..)
  · exact hP _ (execMatrixPoison_keepsMem ..)
  · exact hP _ (execAccrclWrite_keepsMem ..)
  · exact hP _ (execTqheadWrite_keepsMem ..)
  · exact hP _ (execTqbaseWrite_keepsMem ..)
  · exact hP _ (execWakeResume_keepsMem ..)
  · exact hP _ (execWakeKillThread_keepsMem ..)
  · exact hP _ (execWakeKillContext_keepsMem ..)
  · exact hP _ (execWakeUnservable_keepsMem ..)
  · exact hP _ (execTbindBind_keepsMem ..)
  · exact hP _ (execTbindUnbind_keepsMem ..)
  · exact hP _ (execLogvioWrite_keepsMem ..)
  · exact hP _ (execUncorrectableError_keepsMem ..)
  · exact hP _ (execRelctlPrst_keepsMem ..)
  · exact hP _ (execPartitionReset_keepsMem ..)
  · exact hP _ (execDestinationUnreachable_keepsMem ..)
  · exact hP _ (execSnaprstGo_keepsMem ..)
  · exact hP _ (execGetVersion_keepsMem ..)
  · exact hP _ (execGetCapabilities_keepsMem ..)
  · exact hP _ (execNegotiateAlgorithms_keepsMem ..)
  · exact hP _ (execGetDigests_keepsMem ..)
  · exact hP _ (execGetCertificate_keepsMem ..)
  · exact hP _ (execChallenge_keepsMem ..)
  · exact hP _ (execGetMeasurements_keepsMem ..)
  · exact hP _ (execKeyExchange_keepsMem ..)
  · exact hP _ (execFinish_keepsMem ..)
  · exact hP _ (execEndSession_keepsMem ..)
  · exact hP _ (execVendorDefinedRequest_keepsMem ..)
  · exact hP _ (execGetTdispVersion_keepsMem ..)
  · exact hP _ (execGetTdispCapabilities_keepsMem ..)
  · exact hP _ (execLockInterfaceRequest_keepsMem ..)
  · exact hP _ (execGetDeviceInterfaceReport_keepsMem ..)
  · exact hP _ (execGetDeviceInterfaceState_keepsMem ..)
  · exact hP _ (execStartInterfaceRequest_keepsMem ..)
  · exact hP _ (execStopInterfaceRequest_keepsMem ..)
  · exact hP _ (execConfigChange_keepsMem ..)
  · exact hP _ (execPerfctlPreset_keepsMem ..)
  · exact hP _ (execClockThrottle_keepsMem ..)
  · exact hP _ (execPowerOnReset_keepsMem ..)
  · exact hP _ (execPartitionInService_keepsMem ..)
  · exact hP _ (execScrubPass_keepsMem ..)
  · exact hP _ (execIdranRegisterAccess_keepsMem ..)
  · exact hP _ (execCorePowerGating_keepsMem ..)
  · exact hP _ (execPcntWrap_keepsMem ..)
  · exact hP _ (execTraceTimeCondition_keepsMem ..)

/-! ## Machine/Issue -/

theorem runBundle_keepsMem (b : Bundle) (r : TRef) (ws : List (BitVec 32)) (s : State) : Keeps s (outState s (runBundle b r ws s)) := by
  unfold runBundle
  dsimp only
  split
  · exact .out (State.with_cur_keepsMem ..) (exec_keepsMem ..)
  · split
    · rename_i u h
      have hu : Keeps s u := (State.with_cur_keepsMem ..).trans ((exec_keepsMem ..).next h)
      split
      · exact .out hu (exec_keepsMem ..)
      · exact hu
    · exact .out (State.with_cur_keepsMem ..) (exec_keepsMem ..)

theorem runThread_keepsMem (b : Bundle) (r : TRef) (t : Thread) (ws : List (BitVec 32)) (s : State) :
    Keeps s (outState s (runThread b r t ws s)) := by
  unfold runThread
  split
  · rename_i u h
    have hu : Keeps s u := (runBundle_keepsMem ..).next h
    exact .ite (hu.trans (State.traceRec_keepsMem ..)) hu
  · exact runBundle_keepsMem ..

theorem noteIssue_keepsMem (b : Bundle) (r : TRef) (t : Thread) (ws : List (BitVec 32)) (s : State) : Keeps s (noteIssue b r t ws s) := by
  unfold noteIssue
  dsimp only
  split
  · refine .trans ?_ (State.traceRec_keepsMem ..)
    split
    · refine .trans ?_ (State.traceRec_keepsMem ..)
      split
      · split
        · exact (((State.count_keepsMem ..).trans (State.count_keepsMem ..)).trans (State.modCoreC_keepsMem ..)).trans
            (State.traceSlotCond_keepsMem ..)
        · exact ((State.count_keepsMem ..).trans (State.count_keepsMem ..)).trans (State.modCoreC_keepsMem ..)
      · split
        · exact (State.count_keepsMem ..).trans (State.traceSlotCond_keepsMem ..)
        · exact State.count_keepsMem ..
    · split
      · split
        · exact (((State.count_keepsMem ..).trans (State.count_keepsMem ..)).trans (State.modCoreC_keepsMem ..)).trans
            (State.traceSlotCond_keepsMem ..)
        · exact ((State.count_keepsMem ..).trans (State.count_keepsMem ..)).trans (State.modCoreC_keepsMem ..)
      · split
        · exact (State.count_keepsMem ..).trans (State.traceSlotCond_keepsMem ..)
        · exact State.count_keepsMem ..
  · split
    · refine .trans ?_ (State.traceRec_keepsMem ..)
      split
      · split
        · exact (((State.count_keepsMem ..).trans (State.count_keepsMem ..)).trans (State.modCoreC_keepsMem ..)).trans
            (State.traceSlotCond_keepsMem ..)
        · exact ((State.count_keepsMem ..).trans (State.count_keepsMem ..)).trans (State.modCoreC_keepsMem ..)
      · split
        · exact (State.count_keepsMem ..).trans (State.traceSlotCond_keepsMem ..)
        · exact State.count_keepsMem ..
    · split
      · split
        · exact (((State.count_keepsMem ..).trans (State.count_keepsMem ..)).trans (State.modCoreC_keepsMem ..)).trans
            (State.traceSlotCond_keepsMem ..)
        · exact ((State.count_keepsMem ..).trans (State.count_keepsMem ..)).trans (State.modCoreC_keepsMem ..)
      · split
        · exact (State.count_keepsMem ..).trans (State.traceSlotCond_keepsMem ..)
        · exact State.count_keepsMem ..

theorem takeMark_keepsMem (s : State) (r : TRef) (t : Thread) : Keeps s (takeMark s r t) := by
  unfold takeMark
  split
  · rename_i h0
    exact ((passPoint_keepsMem ..).ok h0).trans (State.modThread_keepsMem ..)
  · rename_i h0
    exact ((passPoint_keepsMem ..).error h0).trans (waitThread_keepsMem ..)
  · exact .refl

theorem issue_keepsMem (s : State) (r : TRef) (t : Thread) : Keeps s (outState s (issue s r t)) := by
  have hu (u : State) : Keeps u { turnUsed u r with scan := placeOf r.part r.core + 1 } := .of_mem rfl
  have hn (b : Bundle) (ws : List (BitVec 32)) (u : State) (f : Thread → Thread) :
      Keeps u ((noteIssue b r t ws { turnUsed u r with scan := placeOf r.part r.core + 1 }).modThread r f) :=
    ((hu u).trans (noteIssue_keepsMem ..)).trans (State.modThread_keepsMem ..)
  unfold issue
  dsimp only
  split
  · exact parkAtIssue_keepsMem ..
  · exact ((State.modThread_keepsMem ..).trans (hu _)).trans (takeTrap_keepsMem ..)
  · split
    · exact takeMark_keepsMem ..
    · split
      · rename_i h
        exact ((fetchBundle_keepsMem ..).error h).trans (State.modThread_keepsMem ..)
      · rename_i x _ h
        have hx : Keeps s x.state := (fetchBundle_keepsMem ..).error h
        refine .trans ?_ (settle_keepsMem ..)
        split
        · exact (hx.trans (State.modThread_keepsMem ..)).trans (hu _)
        · exact hx.trans (hu _)
        · exact hx
      · rename_i b ws u h
        have hb : Keeps s u := (fetchBundle_keepsMem ..).ok h
        split
        · exact hb.trans (State.modThread_keepsMem ..)
        · split
          · exact (hb.trans (hn ..)).trans (waitThread_keepsMem ..)
          · exact .out (hb.trans (hn ..)) (runThread_keepsMem ..)

theorem resume_keepsMem (s : State) (r : TRef) (t : Thread) : Keeps s (outState s (resume s r t)) := by
  have hs : Keeps s { s with scan := waitPlace (t.wait.any Wait.isAck) r + 1 } := .of_mem rfl
  unfold resume
  dsimp only
  split
  · exact (hs.trans (State.modThread_keepsMem ..)).trans (parkAtIssue_keepsMem ..)
  · exact (hs.trans (State.modThread_keepsMem ..)).trans (State.modThread_keepsMem ..)
  · split
    · exact .out (hs.trans (State.modThread_keepsMem ..)) (runThread_keepsMem ..)
    · exact (hs.trans (State.modThread_keepsMem ..)).trans (State.modThread_keepsMem ..)

theorem doWork_keepsMem (s : State) (y1 : Work) : Keeps s (outState s (doWork s y1)) := by
  unfold doWork
  split
  · exact resume_keepsMem ..
  · exact issue_keepsMem ..

/-! ## Machine/Cycle -/

theorem countThread_keepsMem (s : State) (r : TRef) (t : Thread) : Keeps s (countThread s r t) := by
  unfold countThread
  dsimp only
  split
  · refine .trans ?_ (State.count_keepsMem ..)
    split
    · split
      · exact (State.count_keepsMem ..).trans (State.count_keepsMem ..)
      · exact State.count_keepsMem ..
    · split
      · exact State.count_keepsMem ..
      · exact .refl
  · split
    · split
      · exact (State.count_keepsMem ..).trans (State.count_keepsMem ..)
      · exact State.count_keepsMem ..
    · split
      · exact State.count_keepsMem ..
      · exact .refl

theorem countCore_keepsMem (s : State) (p : PartId) (c : CoreId) : Keeps s (countCore s p c) := by
  unfold countCore
  dsimp only
  refine .trans ?_ (Keeps.foldl (fun u e => countThread_keepsMem ..) _)
  split
  · split
    · exact (State.count_keepsMem ..).trans (State.count_keepsMem ..)
    · exact State.count_keepsMem ..
  · split
    · exact ((State.count_keepsMem ..).trans (State.count_keepsMem ..)).trans (State.count_keepsMem ..)
    · exact (State.count_keepsMem ..).trans (State.count_keepsMem ..)

theorem endPart_keepsMem (s : State) (p : PartId) : Keeps s (endPart s p) := by
  unfold endPart
  dsimp only
  split
  · refine .trans ?_ ((State.modPart_keepsMem ..).trans (freeSlots_keepsMem ..))
    split
    · split
      · exact (State.modPart_keepsMem ..).trans (Keeps.foldl (fun u e => (countCore_keepsMem ..).trans (traceCore_keepsMem ..)) _)
      · exact ((State.modPart_keepsMem ..).trans (Keeps.foldl (fun u e => (countCore_keepsMem ..).trans (traceCore_keepsMem ..)) _)).trans
          (queueTurn_keepsMem ..)
    · split
      · exact Keeps.foldl (fun u e => (countCore_keepsMem ..).trans (traceCore_keepsMem ..)) _
      · exact (Keeps.foldl (fun u e => (countCore_keepsMem ..).trans (traceCore_keepsMem ..)) _).trans (queueTurn_keepsMem ..)
  · exact .refl

theorem pushNew_keepsMem (s : State) (l : List Instr) : Keeps s (pushNew s l) := .of_mem rfl

theorem advance_keepsMem (s : State) : Keeps s (advance s) := by
  unfold advance
  dsimp only
  have he : Keeps s (allParts.foldl endPart s) := .foldl (fun _ _ => endPart_keepsMem ..) _
  generalize allParts.foldl endPart s = u at he ⊢
  refine he.trans (.trans ?_ (pushNew_keepsMem ..))
  refine .trans (.trans ?_ (enterErrors_keepsMem _)) (.of_mem rfl)
  exact .of_mem rfl

theorem endCycle_keepsMem (s : State) : Keeps s (endCycle s) := by
  unfold endCycle
  dsimp only
  split
  all_goals
    split
    · exact advance_keepsMem ..
    · exact State.with_scan_events_keepsMem ..

theorem stepNext_keepsMem (s : State) : Keeps s (outState s (stepNext s)) := by
  unfold stepNext
  split
  · exact .out (State.with_events_keepsMem ..) (exec_keepsMem ..)
  · split
    · exact doWork_keepsMem ..
    · exact endCycle_keepsMem ..

/-! ## Machine/Step -/

theorem step_keepsMem (s : State) : Keeps s (outState s (step s)) := stepNext_keepsMem s

end Sys2Proof.Machine

open Sys2Proof Sys2Proof.Machine

/-- Settles O6: every function of the model that returns a state keeps the memory's form (`Keeps`), the writers of bytes because they keep
the cells in order and zero bytes unlisted, all others because they are composed of such; `step` is the last of them. -/
theorem stepKeepsMemory : Obligations.StepKeepsMemory := by
  unfold Obligations.StepKeepsMemory
  intro s s' hc hs
  exact ((step_keepsMem s).next hs).canonical hc
end
